-- ==== Sys2Proof/Word.lean ====
section
/-!
DEFINITION. The word types of the module and their plainest arithmetic: 64-bit words, bytes, bit fields.
-/

namespace Sys2Proof

/-- A 64-bit register, descriptor or counter word (R6, R13). -/
abbrev Word := BitVec 64

/-- One byte of memory. -/
abbrev Byte := BitVec 8

/-- Bits `[hi:lo]` of a number (the manual's bit ranges, bit 0 least significant). -/
def bits (n hi lo : Nat) : Nat := (n >>> lo) % 2 ^ (hi + 1 - lo)

/-- One bit of a number. -/
def bit (n i : Nat) : Bool := n.testBit i

/-- Bits `[hi:lo]` of a word. -/
def Word.fld (w : Word) (hi lo : Nat) : Nat := bits w.toNat hi lo

/-- One bit of a word. -/
def Word.bit (w : Word) (i : Nat) : Bool := w.toNat.testBit i

/-- Replaces bits `[hi:lo]` of a number by the low bits of `v`. -/
def putBits (n hi lo v : Nat) : Nat :=
  let m := 2 ^ (hi + 1 - lo)
  (n >>> (hi + 1)) <<< (hi + 1) + (v % m) <<< lo + n % 2 ^ lo

/-- A `w`-bit number read as two's complement. -/
def sInt (w n : Nat) : Int :=
  let m := n % 2 ^ w
  if 2 * m ≥ 2 ^ w then (m : Int) - (2 ^ w : Nat) else (m : Int)

/-- The low `w` bits of an integer in two's complement. -/
def ofSInt (w : Nat) (i : Int) : Nat := (i % ((2 ^ w : Nat) : Int)).toNat

/-- The little-endian bytes of a number (R6). -/
def leBytes : Nat → Nat → List Byte
  | 0, _ => []
  | k + 1, n => BitVec.ofNat 8 n :: leBytes k (n / 256)

/-- The number that little-endian bytes hold (R6). -/
def ofLe : List Byte → Nat
  | [] => 0
  | b :: r => b.toNat + 256 * ofLe r

/-- The number that big-endian bytes hold (keys and signatures of R403). -/
def ofBe (l : List Byte) : Nat := l.foldl (fun a b => a * 256 + b.toNat) 0

/-- The big-endian bytes of a number. -/
def beBytes (k n : Nat) : List Byte := (leBytes k n).reverse

/-- Quotient rounded up. -/
def ceilDiv (a b : Nat) : Nat := (a + b - 1) / b

/-- Pads a list of bytes with zeros, or cuts it, to `k` bytes. -/
def padTo (k : Nat) (l : List Byte) : List Byte := (l ++ List.replicate (k - l.length) 0).take k

end Sys2Proof
end

