-- ==== Sys2Proof/Syntax.lean ====
section
/-!
DEFINITION. The commands of the block: one constructor of `Instr` for each row of the opcode table, with what the
row's sender supplies (a descriptor, an event's numbers, an arriving message).
-/

namespace Sys2Proof

/-- A descriptor as its work queue holds it: the header of R281 and the words after it. `words` lists words 1 to
8·LENGTH − 1 of the command; the opcode is the row's own. -/
structure Cmd where
  wq : Fin 64
  ctx : BitVec 16
  tag : BitVec 16
  fence : Bool
  cpl : Bool
  slack : Bool
  length : BitVec 16
  words : List Word
deriving DecidableEq, Repr

/-- Who asks for a Gangway access (R114, R115, R394): a peer module over a Line, or the host over a queue pair. -/
inductive Requester where
  | peer (module line : Nat)
  | host (qp : Nat)
deriving DecidableEq, Repr

/-- What a Gangway access does: read so many bytes, write bytes, or a memory-side INT64 ADD (R394). -/
inductive GwOp where
  | read (len : Nat)
  | write (data : List Byte)
  | fetchAdd (v : Word)
deriving DecidableEq, Repr

/-- A Gangway access as it arrives (R113, R115). -/
structure GwReq where
  gw : Nat
  off : Nat
  key : Nat
  op : GwOp
  who : Requester
deriving DecidableEq, Repr

/-- An RDMA WRITE into a work-queue window (R389). -/
structure WinWrite where
  qp : Fin 512
  va : Nat
  rkey : Nat
  data : List Byte
deriving DecidableEq, Repr

/-- A bank conflict met in a step (R97): bank, ports (0 A, 1 B, 2 J), sectors, frame counter, and the second command's
tag and context. Which ACLK two requests fall in is timing, so the step's sender names the conflict. -/
structure Conflict where
  bank : Nat
  portX : Nat
  portY : Nat
  sectorX : Nat
  sectorY : Nat
  cycle : Nat
  tag2 : Nat
  ctx2 : Nat
deriving DecidableEq, Repr

/-- What a read by the scrubber, a patrol or a foreground command finds in a sector or page (R331). -/
inductive Finding where
  | good
  | correctable
  | heavy
  | uncorrectable
deriving DecidableEq, Repr

/-- Where a Harbourmaster SRAM error lies (R280). -/
inductive SramErr where
  | correctable
  | context (ctx : Nat)
  | other
deriving DecidableEq, Repr

/-- A received Line data flit (R349, R351): SEQ, ACK, VC, LAST, whether its CRC and its FEC codewords were good, the
credits it returns (VC, count), and its payload bytes. -/
structure Flit where
  seq : Nat
  ack : Nat
  vc : Nat
  last : Bool
  crcOk : Bool
  fecOk : Bool
  credits : List (Nat × Nat)
  data : List Byte
deriving DecidableEq, Repr

/-- A chunk of a collective as it arrives (R368-R371): its group, epoch, registration and run; the tree; the rank it comes
from (for ALL_GATHER and BROADCAST, whose data it is), the local rank it is for, its number, whether it goes down the
tree, and its bytes. ALL_TO_ALL sends the kept rows of a pair of ranks as one chunk. -/
structure Chunk where
  group : Nat
  epoch : Nat
  reg : Nat
  run : Nat
  tree : Nat
  src : Nat
  dst : Nat
  index : Nat
  down : Bool
  data : List Byte
deriving DecidableEq, Repr

/-- A command of the block: one constructor for each row of the opcode table (R281-R282 for the descriptors, the
events by their rules). -/
inductive Instr where
    /-- REGISTER_WRITE (R8): A write to a register that has no row of its own stores, clears or ignores each
  field by its Access kind, with clamping. -/
  | registerWrite (addr len : Nat) (value : Word)
    /-- RC_READ (R8): A read of an RC field returns the stored value and clears it to its Reset value, keeping a
  coincident increment. -/
  | rcRead (addr len : Nat)
    /-- BOARDWALK_TRAINING (R29): Boardwalk link training ends; modules that fail are left out, and Quays that
  cannot be reached are treated as absent. -/
  | boardwalkTraining (out : List (Nat × Nat))
    /-- LINK_RETRAIN (R29): A Boardwalk link that exhausts its die-to-die retry limit while running retrains
  once. -/
  | linkRetrain (link : Fin 18) (ok : Bool)
    /-- LINK_LOST (R29): A failed Boardwalk retraining stops all contexts with LINE_LOST and requires a MOD
  reset. -/
  | linkLost (link : Fin 18) (retries : Nat)
    /-- TPASS (R63): One matrix pass over K rows on the Truss or Raft, with field checks, ramp, lookahead and
  optional drain. -/
  | tpass (g : Fin 200) (w : List Word) (conflict : Option Conflict)
    /-- TDRAIN (R65): Swaps and drains the main accumulators without a pass. -/
  | tdrain (g : Fin 200) (w : List Word)
    /-- TRAFT (R66): Forms or dissolves a Raft led by the issuing Berth, waiting for the member conditions. -/
  | traft (g : Fin 200) (w : List Word)
    /-- RAFT_FORM (R75): Once every Berth of the rectangle is gated or idle with no drain pending, the Raft
  forms within 32 ACLK. -/
  | raftForm (g : Fin 200)
    /-- TFENCE (R62): Waits until every drain issued before it has been written by its epilogue. -/
  | tfence (g : Fin 200) (w : List Word)
    /-- SWAP (R60): A cell moves its accumulator into an empty shadow register; the array holds while the shadow
  row is not yet read out. -/
  | swap (g : Fin 200)
    /-- DRAIN_ROW (R61): A shadow row is offered to the epilogue, and the drain holds until the epilogue accepts
  it. -/
  | drainRow (g : Fin 200)
    /-- TRUSS_GATING (R82): After GATE_IDLE idle ACLK the Truss is clock-gated, ramping down when RAMP_DOWN is
  1. -/
  | trussGating (g : Fin 200)
    /-- RAMP_STEP (R82): At each STEP_CYC interval of a ramp the next column group is enabled, subject to the
  Quay stagger. -/
  | rampStep (g : Fin 200)
    /-- MF_BIND (R112): Binds a Manifest entry and returns its handle. -/
  | mfBind (c : Cmd)
    /-- MF_UNBIND (R112): Unbinds a Manifest entry once commands that resolved it finish, closing any Gangway on
  it first. -/
  | mfUnbind (c : Cmd)
    /-- UNBIND_TAKES_EFFECT (R112): When the last command that resolved the handle finishes, the entry is
  invalidated and GEN advances. -/
  | unbindTakesEffect (slot : Fin 65) (idx : Fin 1024)
    /-- MF_ALLOT (R102): Sets the context's allotment of Hold slices and Shed segments, zeroing removed ones. -/
  | mfAllot (c : Cmd) (regions : List (Fin 1780))
    /-- ZEROING_COMPLETE (R105): Zeroing of Hold slices or Shed segments finishes, letting the reset or MF_ALLOT
  that waited for it complete. -/
  | zeroingComplete (region : Fin 1780)
    /-- SLICE_POWER_CHANGE (R103): A SLICE_ON or SEG_ON change takes effect at the first frame boundary with no
  request pending in the slice or segment. -/
  | slicePowerChange (region : Fin 1780)
    /-- SLICE_READY (R103): 2 µs after power-on a Hold slice, or 20 µs after it a Shed segment, becomes ready.
  -/
  | sliceReady (region : Fin 1780)
    /-- GW_OPEN (R114): Opens a Gangway window on a buffer with permissions, scope and key. -/
  | gwOpen (c : Cmd)
    /-- GW_CLOSE (R114): Closes a Gangway; it completes once accepted accesses have completed. -/
  | gwClose (c : Cmd)
    /-- GW_CLOSE_DRAIN (R116): The last accepted access of a closing Gangway completes and GW_CLOSE completes.
  -/
  | gwCloseDrain (g : Fin 64)
    /-- GANGWAY_ACCESS (R115): A remote or host access to a Gangway aperture is checked and served, or answered
  with its failure status. -/
  | gangwayAccess (a : GwReq)
    /-- DMA_COPY (R117): Copies rows of bytes between any places without conversion. -/
  | dmaCopy (c : Cmd)
    /-- DMA_FILL (R117): Fills destination rows with an 8-byte pattern. -/
  | dmaFill (c : Cmd)
    /-- MM_OP (R119): Runs a tiled matrix operation across the taking-part Quays with shares, claims, stealing
  and split-K. -/
  | mmOp (c : Cmd)
    /-- WALK (R123): Carries the walk levels of the MM_OP or WALK_COPY it follows. -/
  | walk (c : Cmd)
    /-- WALK_COPY (R125): Copies blocks in walk order, tiled or into a ring. -/
  | walkCopy (c : Cmd)
    /-- CLAIM_SLOT_LOAD (R127): A waiting operation finds a free claim slot in a Quay and loads its share. -/
  | claimSlotLoad (uid : Nat) (q : Fin 10)
    /-- TILE_CLAIM (R127): A claim unit takes the tile at NEXT and increments NEXT, passing over skipped tiles.
  -/
  | tileClaim (g : Fin 200)
    /-- STEAL_REQUEST (R128): A Quay whose slot is empty asks the Harbourmaster for work; the last 16 tiles of
  the richest victim move or it is refused. -/
  | stealRequest (q : Fin 10)
    /-- SPLIT_REDUCE_PHASE (R131): When every Quay has completed phase 1 of an ordered split-K, the reduce phase
  starts. -/
  | splitReducePhase (uid : Nat)
    /-- CHAIN_SET (R141): Writes one chain slot with its stages, Bench operands and scalar list. -/
  | chainSet (c : Cmd)
    /-- VEC_OP (R147): Applies a chain element by element to an operand in 32-row blocks. -/
  | vecOp (c : Cmd)
    /-- JY_RUN (R158): Runs a tile- or core-dialect program on the named Berths. -/
  | jyRun (c : Cmd)
    /-- JLD (R153): Loads a block of elements into a tile register. -/
  | jld (g : Fin 200) (w : List Word) (conflict : Option Conflict)
    /-- JST (R153): Stores a block of a tile register with conversion. -/
  | jst (g : Fin 200) (w : List Word)
    /-- JOP (R153): Applies an element-wise operation to tile registers. -/
  | jop (g : Fin 200) (w : List Word)
    /-- JRED (R153): Reduces a tile by rows or columns under the fixed pairwise tree. -/
  | jred (g : Fin 200) (w : List Word)
    /-- JMOV (R153): Copies, transposes, broadcasts or fills a tile register. -/
  | jmov (g : Fin 200) (w : List Word)
    /-- JBENCH (R153): Moves raw bytes between a Hold buffer and the Bench. -/
  | jbench (g : Fin 200) (w : List Word)
    /-- JCTL_FENCE (R153): Waits until every earlier store, JBENCH and Truss drain has been written. -/
  | jctlFence (g : Fin 200) (w : List Word)
    /-- JCTL_LOOP (R153): Starts a loop of COUNT iterations. -/
  | jctlLoop (g : Fin 200) (w : List Word)
    /-- JCTL_ENDLOOP (R153): Ends a loop body. -/
  | jctlEndloop (g : Fin 200) (w : List Word)
    /-- JCTL_END (R153): Ends the tile-dialect run. -/
  | jctlEnd (g : Fin 200) (w : List Word)
    /-- VEC (R156): Core-dialect vector instruction applying an operation code to v registers. -/
  | vec (g : Fin 200) (d : Fin 64) (w : Word)
    /-- INT_ADD (R156): Core-dialect integer addition. -/
  | intAdd (g : Fin 200) (d : Fin 64) (w : Word)
    /-- INT_SUB (R156): Core-dialect integer subtraction. -/
  | intSub (g : Fin 200) (d : Fin 64) (w : Word)
    /-- INT_MUL (R156): Core-dialect integer multiplication, low 64 bits. -/
  | intMul (g : Fin 200) (d : Fin 64) (w : Word)
    /-- INT_AND (R156): Core-dialect bitwise AND. -/
  | intAnd (g : Fin 200) (d : Fin 64) (w : Word)
    /-- INT_OR (R156): Core-dialect bitwise OR. -/
  | intOr (g : Fin 200) (d : Fin 64) (w : Word)
    /-- INT_XOR (R156): Core-dialect bitwise XOR. -/
  | intXor (g : Fin 200) (d : Fin 64) (w : Word)
    /-- INT_SHL (R156): Core-dialect shift left. -/
  | intShl (g : Fin 200) (d : Fin 64) (w : Word)
    /-- INT_SHR (R156): Core-dialect logical shift right. -/
  | intShr (g : Fin 200) (d : Fin 64) (w : Word)
    /-- INT_SRA (R156): Core-dialect arithmetic shift right. -/
  | intSra (g : Fin 200) (d : Fin 64) (w : Word)
    /-- INT_SLT (R156): Core-dialect signed set-less-than. -/
  | intSlt (g : Fin 200) (d : Fin 64) (w : Word)
    /-- INT_ADDI (R156): Core-dialect add immediate. -/
  | intAddi (g : Fin 200) (d : Fin 64) (w : Word)
    /-- INT_LUI (R156): Core-dialect load of the immediate shifted left by 42. -/
  | intLui (g : Fin 200) (d : Fin 64) (w : Word)
    /-- VLD (R156): Loads 32 consecutive elements into a v register from a handle or the Bench. -/
  | vld (g : Fin 200) (d : Fin 64) (w : Word)
    /-- VST (R156): Stores 32 consecutive elements of a v register. -/
  | vst (g : Fin 200) (d : Fin 64) (w : Word)
    /-- XLD (R156): Loads 64 bits into an x register. -/
  | xld (g : Fin 200) (d : Fin 64) (w : Word)
    /-- XST (R156): Stores 64 bits of an x register. -/
  | xst (g : Fin 200) (d : Fin 64) (w : Word)
    /-- BEQ (R156): Branches when two x registers are equal. -/
  | beq (g : Fin 200) (d : Fin 64) (w : Word)
    /-- BNE (R156): Branches when two x registers differ. -/
  | bne (g : Fin 200) (d : Fin 64) (w : Word)
    /-- BLT (R156): Branches when one x register is less than another. -/
  | blt (g : Fin 200) (d : Fin 64) (w : Word)
    /-- JMP (R156): Jumps by the immediate. -/
  | jmp (g : Fin 200) (d : Fin 64) (w : Word)
    /-- BAR (R157): Waits until every Dowel that has not ended has reached BAR. -/
  | bar (g : Fin 200) (d : Fin 64) (w : Word)
    /-- CTRL_END (R157): Ends a Dowel; the run ends when every Dowel has ended. -/
  | ctrlEnd (g : Fin 200) (d : Fin 64) (w : Word)
    /-- VRED (R156): Sums a v register under the fixed tree into element 0. -/
  | vred (g : Fin 200) (d : Fin 64) (w : Word)
    /-- VMOVX (R156): Moves the bits of one v element into an x register. -/
  | vmovx (g : Fin 200) (d : Fin 64) (w : Word)
    /-- JIG_LOAD (R178): Loads a Jig bank image into the shadow banks of the partition, and swaps if asked. -/
  | jigLoad (c : Cmd)
    /-- JIG_SWAP_ONLY (R179): Swaps current and shadow banks at once and increments the epoch. -/
  | jigSwapOnly (c : Cmd)
    /-- JIG_SHADOW_FREE (R178): The shadow bank is released by its last latching command and a waiting JIG_LOAD
  starts its image read. -/
  | jigShadowFree (part : Fin 10)
    /-- SCARF_OP_SINGLE (R188): Runs a single product with prologue and epilogue. -/
  | scarfOpSingle (c : Cmd)
    /-- SCARF_OP_CHAINED (R195): Runs the fused chained product span by span, closing each query tile. -/
  | scarfOpChained (c : Cmd)
    /-- SCARF_OP_SOFTMAX (R199): Runs the two sweeps of the separate softmax form. -/
  | scarfOpSoftmax (c : Cmd)
    /-- CRATE_POOL_CREATE (R207): Creates a Crate pool on a region and allocation bitmap. -/
  | cratePoolCreate (c : Cmd)
    /-- CRATE_POOL_DESTROY (R207): Destroys a Crate pool with no allocated or quarantined slots. -/
  | cratePoolDestroy (c : Cmd)
    /-- CRATE_MAP_OPEN (R209): Opens a Crate Map, fresh or resumed from its table. -/
  | crateMapOpen (c : Cmd)
    /-- CRATE_MAP_CLOSE (R223): Closes a Crate Map, releasing or keeping its slots, after its commands end. -/
  | crateMapClose (c : Cmd)
    /-- APRON_APPEND (R215): Appends tokens to streams through the Apron, flushing and packing whole Crates and
  checkpointing. -/
  | apronAppend (c : Cmd)
    /-- APRON_NEXT_CRATE (R215): Once loads that resolved the flushed Crate as APRON complete, the Apron takes
  tokens of the next Crate. -/
  | apronNextCrate (map : Nat) (stream : Nat)
    /-- CRATE_CTL_MOVE (R216): Moves Crates to another pool via MOVING. -/
  | crateCtlMove (c : Cmd)
    /-- CRATE_CTL_DROP (R216): Drops resident or moving Crates and releases their slots. -/
  | crateCtlDrop (c : Cmd)
    /-- CRATE_CTL_PRIO (R216): Sets the priority of a range of Crate Map entries. -/
  | crateCtlPrio (c : Cmd)
    /-- CRATE_COPY_COMPLETE (R218): A Crate copy completes or faults, and the entry becomes the destination's
  state or returns to its source. -/
  | crateCopyComplete (map stream crate : Nat)
    /-- SLOT_QUARANTINE_END (R208): A released slot's last resolving load completes and it rejoins the free
  slots, serving a waiting allocation. -/
  | slotQuarantineEnd (pool slot : Nat)
    /-- REBUILD (R220): Recomputes dropped full Crates by running recipe commands and packing staging rows. -/
  | rebuild (c : Cmd)
    /-- REBUILD_RECIPE_DONE (R220): A recipe command completes; the next one starts, or after the last the
  staging rows are packed and the entries become resident. -/
  | rebuildRecipeDone (wq : Fin 64) (tag : BitVec 16)
    /-- ATTN_BATCH (R225): Runs bucketed ATTEND items and then MERGE items over ragged streams. -/
  | attnBatch (c : Cmd)
    /-- MERGE_PHASE_START (R226): When every ATTEND item has completed, the MERGE items start. -/
  | mergePhaseStart (uid : Nat)
    /-- CONV_OP (R231): Computes a convolution as a matrix product over gathered input taps. -/
  | convOp (c : Cmd)
    /-- RESAMPLE (R238): Up-samples a planar tensor by nearest or bilinear interpolation on the Joinery. -/
  | resample (c : Cmd)
    /-- FY_STREAM_OPEN (R245): Opens an encode or decode stream and resets its ring. -/
  | fyStreamOpen (c : Cmd)
    /-- FY_STREAM_RECONF (R245): Changes the live fields of a stream from its next frame. -/
  | fyStreamReconf (c : Cmd)
    /-- FY_STREAM_CLOSE (R245): Closes a stream after its frames in flight, aborting queued ones. -/
  | fyStreamClose (c : Cmd)
    /-- FY_ENCODE (R251): Submits one picture for encoding. -/
  | fyEncode (c : Cmd)
    /-- FY_ENCODE_FLUSH (R251): Codes every held picture and ends the sequence. -/
  | fyEncodeFlush (c : Cmd)
    /-- FY_DECODE (R252): Submits one temporal or access unit for decoding. -/
  | fyDecode (c : Cmd)
    /-- FY_DECODE_FLUSH (R252): Outputs every picture still held for reordering. -/
  | fyDecodeFlush (c : Cmd)
    /-- FY_SOUND (R257): Compares two planar tensors and writes the change map, match records and skip map. -/
  | fySound (c : Cmd)
    /-- PIPE_TAKE_FRAME (R247): A free Ferry pipe takes the oldest ready frame or Sounding chunk of highest
  priority. -/
  | pipeTakeFrame (pipe : Fin 8)
    /-- RING_RECORD (R249): A coded unit or picture record is written into the stream ring when it has room, and
  WR advances. -/
  | ringRecord (pipe : Fin 8)
    /-- EGRESS_ACK (R250): An acknowledged egress RDMA write lets the Ferry advance RD itself. -/
  | egressAck (stream : Fin 256)
    /-- SWELL_WORD (R266): A Swell conditions 1,024 raw samples into one 384-bit word every 16 µs, running
  health tests. -/
  | swellWord (s : Fin 2) (samples : BitVec 1024)
    /-- SWELL_RESTART_DONE (R268): The 64 µs restart of a Swell ends. -/
  | swellRestartDone (s : Fin 2)
    /-- ENTROPY_TIMEOUT (R268): A request waiting 10 ms for entropy ends its command with ENTROPY_FAIL. -/
  | entropyTimeout (wq : Fin 64) (tag : BitVec 16)
    /-- RIPPLE_RESEED (R270): After 2^32 draws a Ripple XORs a fetched Swell seed into its state. -/
  | rippleReseed (r : Fin 802)
    /-- RP_MIX (R271): Mixes a hashed seed into the pending seeds of the partition's Ripples and forces a
  reseed. -/
  | rpMix (c : Cmd)
    /-- SAMPLE (R274): Samples one token per row of logits with temperature, top-k and top-p. -/
  | sample (c : Cmd)
    /-- COMMAND_DISPATCH (R286): The dispatcher checks a queue's head command and dispatches it once its waits
  are over. -/
  | commandDispatch
    /-- COMMAND_COMPLETE (R289): A command ends and its completion record is written into the queue's completion
  ring or coalesced. -/
  | commandComplete
    /-- SUMMARY_RECORD (R290): When the completion ring next has room after coalescing, one SUMMARY record is
  written. -/
  | summaryRecord (wq : Fin 64)
    /-- NOP (R281): Skips LENGTH queue entries. -/
  | nop (c : Cmd)
    /-- CTX_FENCE (R288): Completes once every earlier command of its context has completed. -/
  | ctxFence (c : Cmd)
    /-- SREG_WRITE (R291): Writes up to six scalar registers. -/
  | sregWrite (c : Cmd)
    /-- SREG_OP (R291): Atomically applies an operation to a scalar register and returns the old value. -/
  | sregOp (c : Cmd)
    /-- SREG_WAIT (R292): Waits until a scalar register satisfies a condition, re-evaluated on every write. -/
  | sregWait (c : Cmd)
    /-- SREG_WAIT_TIMEOUT (R292): The timeout of a waiting SREG_WAIT elapses and it ends WAIT_TIMEOUT. -/
  | sregWaitTimeout (wq : Fin 64)
    /-- SREG_XFER (R291): Copies scalar registers to or from a buffer. -/
  | sregXfer (c : Cmd)
    /-- CTX_OPEN (R295): Makes a context resident in a partition and binds its queues. -/
  | ctxOpen (c : Cmd)
    /-- CTX_CLOSE (R295): Stops dispatch, resets the context, unbinds its queues and frees its slot. -/
  | ctxClose (c : Cmd)
    /-- CTX_RESET (R296): Applies a CTX reset to a context, ending its commands with ABORTED_BY_HOST. -/
  | ctxReset (c : Cmd)
    /-- CTX_HALT (R295): Pre-empts a context and stops its dispatch, optionally discarding its commands. -/
  | ctxHalt (c : Cmd)
    /-- CTX_RESUME (R295): Restarts dispatch and resumes saved commands. -/
  | ctxResume (c : Cmd)
    /-- CTX_EVICT (R295): Halts a context, writes its save image and frees its slot. -/
  | ctxEvict (c : Cmd)
    /-- CTX_ADMIT (R306): Restores a saved context image into a partition after checks. -/
  | ctxAdmit (c : Cmd)
    /-- WQ_CFG (R295): Sets a queue's dispatch priority and weight. -/
  | wqCfg (c : Cmd)
    /-- PREEMPTION_POINT (R304): A command in flight reaches its pre-emption point, stops and has its state
  saved. -/
  | preemptionPoint (uid : Nat)
    /-- BATCH_SET_JOIN (R299): Fills an empty batch slot as JOINING. -/
  | batchSetJoin (c : Cmd)
    /-- BATCH_SET_LEAVE (R299): Marks an active slot LEAVING or empties a joining one. -/
  | batchSetLeave (c : Cmd)
    /-- BATCH_SET_UPDATE (R299): Sets the priority and tokens of a batch slot. -/
  | batchSetUpdate (c : Cmd)
    /-- STEP (R300): Opens a batch step, admits sequences, writes the step list and dispatches the patched body.
  -/
  | step (c : Cmd)
    /-- SRAM_ECC_ERROR (R280): An ECC error in Harbourmaster SRAM is corrected, resets one context, or stops the
  core. -/
  | sramEccError (e : SramErr) (word : Nat)
    /-- WATCHDOG (R280): 50 ms without a sign of life from the firmware: error record, notice on the management
  VLAN, then MOD. -/
  | watchdog
    /-- DOORBELL (R285): A doorbell writes a new TAIL for a work queue, clamped or ignored as needed. -/
  | doorbell (w : WinWrite)
    /-- SLUICE_REFILL (R326): Every 1 µs a Sluice's refill is divided among its share buckets and waiting
  requests are admitted. -/
  | sluiceRefill (i : Fin 11) (t : Fin 3)
    /-- SL_SET (R327): Sets the rate and burst of a Sluice, clamped under its bound. -/
  | slSet (c : Cmd)
    /-- MT_REDUCE (R332): Combines a source into a Tier H or Tier L destination at the memory-side adders. -/
  | mtReduce (c : Cmd)
    /-- MT_MAPOUT (R336): Fuses a Tier H channel out of the active set from the next MOD or POR. -/
  | mtMapout (c : Cmd)
    /-- MT_TRIM (R339): Unmaps whole Tier F units in a range so they read as +0. -/
  | mtTrim (c : Cmd)
    /-- REFRESH (R329): A Tier H or Tier L channel performs refresh at its own interval. -/
  | refresh (tier : Fin 2) (channel : Nat)
    /-- CALIBRATION (R329): A channel performs periodic calibration. -/
  | calibration (tier : Fin 2) (channel : Nat)
    /-- READ_LEVEL_TRACKING (R329): Tier F tracks read levels of a LUN once per day between commands. -/
  | readLevelTracking (lun : Nat)
    /-- SCRUB_READ (R331): The scrubber reads the next sector as Slack and writes back corrections or records
  errors. -/
  | scrubRead (target : Fin 3) (finding : Finding)
    /-- PATROL_READ (R331): A Tier F patrol read checks a mapped page and relocates it when heavily corrected.
  -/
  | patrolRead (unit : Nat) (finding : Finding)
    /-- SCRUB_LATE (R331): A scrub pass not complete within twice its period writes SCRUB_LATE. -/
  | scrubLate (target : Fin 4) (lag : Nat)
    /-- WEAR_LEVELLING (R340): When erase counts of a channel differ by more than 200, the coldest block is
  relocated. -/
  | wearLevelling (channel : Fin 64)
    /-- GARBAGE_COLLECTION (R340): Tier F garbage collection frees blocks as Slack, holding foreground programs
  below 64 free blocks. -/
  | garbageCollection (channel : Fin 64) (waited : Nat) (bad : Bool)
    /-- LINE_DATA_FLIT (R351): A received data flit is checked and placed in its VC buffer, or discarded with a
  NAK. -/
  | lineDataFlit (l : Fin 36) (f : Flit)
    /-- LINE_ACK_FLIT (R351): A received acknowledgement frees replay entries and returns credits. -/
  | lineAckFlit (l : Fin 36) (ack : Nat) (credits : List (Nat × Nat))
    /-- LINE_NAK (R351): A received NAK makes the transmitter resend from the oldest unacknowledged flit. -/
  | lineNak (l : Fin 36) (expected : Nat)
    /-- LINE_REPLAY_TIMEOUT (R351): 2 µs without an acknowledgement makes the transmitter resend. -/
  | lineReplayTimeout (l : Fin 36)
    /-- LINE_ACK_TIMER (R351): An acknowledgement is sent at least once per 100 ns. -/
  | lineAckTimer (l : Fin 36)
    /-- LINE_RETRAIN (R352): Eight resends of one flit, or more than 64 uncorrectable codewords in 1 ms, start
  retraining. -/
  | lineRetrain (l : Fin 36)
    /-- LINE_TRAINING_DONE (R352): Line training ends: resume, downshift, or DOWN with messages lost; the peer
  id is learned. -/
  | lineTrainingDone (l : Fin 36) (lanes200 lanes100 : BitVec 4) (peer : BitVec 16)
    /-- LN_CTL_RETRAIN (R353): Retrains a Line at its pinned or best point. -/
  | lnCtlRetrain (c : Cmd)
    /-- LN_CTL_PIN (R353): Pins a Line to a point and retrains it if needed. -/
  | lnCtlPin (c : Cmd)
    /-- LN_CTL_UNPIN (R353): Clears a Line's pin. -/
  | lnCtlUnpin (c : Cmd)
    /-- LN_CTL_DISABLE (R353): Takes a Line DOWN until a RETRAIN. -/
  | lnCtlDisable (c : Cmd)
    /-- CL_GROUP (R360): Forms or re-forms a collective group and sends JOINs to tree neighbours. -/
  | clGroup (c : Cmd)
    /-- CL_GROUP_DISSOLVE (R363): Dissolves a group on this module, ending its runs and releasing registrations.
  -/
  | clGroupDissolve (c : Cmd)
    /-- JOIN (R362): A JOIN from a neighbour arrives; the group becomes READY, mismatches end with GROUP_EPOCH.
  -/
  | join (peer : Nat) (group epoch hash : Nat)
    /-- BROKEN_REPORT (R363): A neighbour's BROKEN report arrives on VC1 and breaks the group. -/
  | brokenReport (peer : Nat) (group epoch : Nat)
    /-- CL_REGISTER (R364): Registers a collective and grants Basin slots or the memory path. -/
  | clRegister (c : Cmd)
    /-- CL_UNREGISTER (R364): Releases a registration once its running runs complete. -/
  | clUnregister (c : Cmd)
    /-- CL_RUN (R367): Runs a registered collective once, sending READY to neighbours. -/
  | clRun (c : Cmd)
    /-- READY (R367): A neighbour's READY arrives, allowing data to be sent or ending the run on a hash
  mismatch. -/
  | ready (peer : Nat) (group epoch reg run hash : Nat)
    /-- COLLECTIVE_CHUNK (R369): A chunk arrives from a child or parent and is combined, written to DST and
  forwarded. -/
  | collectiveChunk (peer : Nat) (k : Chunk)
    /-- FREE_POSITION (R370): A parent's announcement of free chunk positions lets a waiting child send. -/
  | freePosition (peer : Nat) (group epoch reg tree : Nat) (count : Nat)
    /-- TW_MIRROR_SEND (R373): Starts mirroring a range to the Twin. -/
  | twMirrorSend (c : Cmd) (announced : List (Nat × Nat))
    /-- TW_MIRROR_ACCEPT (R373): Opens a range to mirror writes from the Twin. -/
  | twMirrorAccept (c : Cmd)
    /-- MIRROR_COPY (R373): The HE engine copies a marked granule to the Twin on VC5 and clears its bit. -/
  | mirrorCopy
    /-- TW_SYNC (R374): Completes when every granule marked at dispatch has been copied and acknowledged. -/
  | twSync (c : Cmd)
    /-- TW_CTL_PAIR (R375): Pairs with the Twin once both have issued PAIR. -/
  | twCtlPair (c : Cmd)
    /-- TW_CTL_UNPAIR (R375): Unpairs and closes every mirror range. -/
  | twCtlUnpair (c : Cmd)
    /-- TW_CTL_DETACH (R375): Evicts every context, syncs and hands over to the Twin. -/
  | twCtlDetach (c : Cmd)
    /-- HANDOVER (R375): A HANDOVER arrives from the Twin; its save-area list is recorded and the state becomes
  HOLDING. -/
  | handover (l : Fin 36) (areas : List (Nat × Nat))
    /-- PORT_CFG (R383): Sets a sub-port's addresses, PFC and ECN. -/
  | portCfg (c : Cmd)
    /-- QP_CREATE (R387): Creates a RoCEv2 queue pair. -/
  | qpCreate (c : Cmd)
    /-- QP_CTL_DESTROY (R388): Deletes a queue pair. -/
  | qpCtlDestroy (c : Cmd)
    /-- QP_CTL_RESTART (R388): Returns a QP in ERROR to operation with new PSNs. -/
  | qpCtlRestart (c : Cmd)
    /-- QP_CTL_CAP (R388): Limits a QP's requester rate. -/
  | qpCtlCap (c : Cmd)
    /-- CQ_BIND (R391): Binds a host completion ring to a queue. -/
  | cqBind (c : Cmd)
    /-- WQ_ENTRY_WRITE (R389): An RDMA WRITE into a work-queue window is checked and its entries become visible
  0.6 µs later. -/
  | wqEntryWrite (w : WinWrite)
    /-- CI_WRITE (R392): The host writes its consumer index for a completion ring. -/
  | ciWrite (w : WinWrite)
    /-- PI_WRITE (R392): The producer count is written to the host at least every 2 µs while records flow. -/
  | piWrite (wq : Fin 64)
    /-- RDMA_WRITE (R394): A host RDMA WRITE to a Gangway aperture is served and acknowledged. -/
  | rdmaWrite (qp : Fin 512) (va rkey : Nat) (data : List Byte) (ce : Bool)
    /-- RDMA_READ (R394): A host RDMA READ of a Gangway is served with an Ebb response. -/
  | rdmaRead (qp : Fin 512) (va rkey len : Nat) (ce : Bool)
    /-- FETCH_AND_ADD (R394): A host atomic Fetch-and-Add into Tier H or Tier L returns the original value. -/
  | fetchAndAdd (qp : Fin 512) (va rkey : Nat) (v : Word) (ce : Bool)
    /-- UNSUPPORTED_REQUEST (R384): An unsupported RoCEv2 request is answered with NAK Invalid Request. -/
  | unsupportedRequest (qp : Fin 512)
    /-- ROCE_ACK (R384): An ACK for the module's RDMA WRITEs arrives. -/
  | roceAck (qp : Fin 512) (psn : Nat)
    /-- ROCE_NAK (R388): A NAK arrives, causing retransmission or ERROR. -/
  | roceNak (qp : Fin 512) (psn syndrome : Nat)
    /-- ROCE_ACK_TIMEOUT (R384): The ACK timeout elapses and the QP retransmits or exhausts its retries. -/
  | roceAckTimeout (qp : Fin 512)
    /-- CNP (R386): A received CNP lowers the requester rate and raises alpha. -/
  | cnp (qp : Fin 512)
    /-- ALPHA_DECAY (R386): 55 µs without a CNP decays alpha. -/
  | alphaDecay (qp : Fin 512)
    /-- RATE_INCREASE (R386): 300 µs without a CNP raises the requester rate toward its target. -/
  | rateIncrease (qp : Fin 512)
    /-- PAUSE_FRAME (R385): A received pause frame holds transmission on its priority. -/
  | pauseFrame (p : Fin 8) (prio : Fin 8) (quanta : Nat)
    /-- PFC_STORM (R385): A pause holding transmission for over 100 ms is ignored and recorded. -/
  | pfcStorm (p : Fin 8)
    /-- ARP_REQUEST (R382): An ARP request for a configured address is answered. -/
  | arpRequest (p : Fin 8) (vlan : Option Nat) (ip : Nat)
    /-- NEIGHBOUR_SOLICITATION (R382): An IPv6 Neighbour Solicitation for a configured address is answered. -/
  | neighbourSolicitation (p : Fin 8) (vlan : Option Nat) (ip : Nat)
    /-- ICMP_ECHO (R382): An ICMP echo request is answered. -/
  | icmpEcho (p : Fin 8) (vlan : Option Nat) (ip : Nat) (data : List Byte)
    /-- OTHER_FRAME (R382): A frame of any other protocol, or wrongly tagged, is discarded and counted. -/
  | otherFrame (p : Fin 8) (vlan : Option Nat)
    /-- ETHERNET_LINK_CHANGE (R381): A sub-port link trains up or goes down. -/
  | ethernetLinkChange (p : Fin 8) (up : Bool)
    /-- PTP_EVENT_MESSAGE (R396): A PTP message is timestamped and the servo slews or steps the counter. -/
  | ptpEventMessage (p : Fin 8) (domain : Nat) (offset : Int)
    /-- PPS_IN_EDGE (R397): A rising PPS_IN edge is timestamped and captured or used to discipline the counter.
  -/
  | ppsInEdge
    /-- PPS_LOST (R397): Two seconds without an edge set PPS_LOST. -/
  | ppsLost
    /-- FR_STAGE (R417): Verifies a container and writes it into the non-active boot-flash slot as pending. -/
  | frStage (c : Cmd)
    /-- FR_LIVE (R418): Sets one live framing field and writes the registers it feeds. -/
  | frLive (c : Cmd)
    /-- FR_READ (R419): Writes the active image or the current framing values. -/
  | frRead (c : Cmd)
    /-- SC_ATTEST (R422): Writes a signed Pratique report and optionally the certificate. -/
  | scAttest (c : Cmd)
    /-- SC_COMMIT (R425): Raises anti-rollback counters and revokes Gleano slots in fuses. -/
  | scCommit (c : Cmd)
    /-- SC_OWNER (R425): Fuses the owner key hash. -/
  | scOwner (c : Cmd)
    /-- SC_DEBUG_CHALLENGE (R424): Writes a fresh debug challenge. -/
  | scDebugChallenge (c : Cmd)
    /-- SC_DEBUG_UNLOCK (R424): Checks a debug token and sets the debug levels, locking out after three
  failures. -/
  | scDebugUnlock (c : Cmd)
    /-- SC_DEBUG_LOCK (R424): Clears the debug levels. -/
  | scDebugLock (c : Cmd)
    /-- TOKEN_EXPIRY (R423): A debug token's EXPIRY passes and the levels clear. -/
  | tokenExpiry
    /-- CHALLENGE_VOID (R424): A challenge older than 10 minutes becomes void. -/
  | challengeVoid
    /-- FIRMWARE_LOAD (R411): At boot the firmware slot is streamed into the Harbourmaster SRAM and verified,
  falling back or halting HE. -/
  | firmwareLoad
    /-- FRAMING_APPLY (R405): The framing image is verified and its fields applied in ID and INDEX order, or
  safe framing is used. -/
  | framingApply
    /-- TIER_TRAINING (R413): Tier H and Tier L training or self-refresh exit ends and active sets, windows and
  Sluice bounds are computed. -/
  | tierTraining (failedH failedL : List Nat)
    /-- MODULE_RUN (R413): Partitions start, privileged queues bind to the management context and the module
  enters RUN. -/
  | moduleRun
    /-- PW_LIMIT (R451): Sets the MPL, a cap or a floor. -/
  | pwLimit (c : Cmd)
    /-- PW_BERTH_WAKE (R452): Wakes the named Berths. -/
  | pwBerthWake (c : Cmd)
    /-- PW_BERTH_MOOR (R452): Puts the named Berths in MOOR when allowed. -/
  | pwBerthMoor (c : Cmd)
    /-- PW_BERTH_LAYUP (R452): Puts the named Berths in LAYUP when allowed, else holds them in MOOR. -/
  | pwBerthLayup (c : Cmd)
    /-- PW_BERTH_SET_IDLE (R452): Writes the automatic MOOR idle time. -/
  | pwBerthSetIdle (c : Cmd)
    /-- PW_STATE_ANCHOR (R440): Pre-empts contexts, lays up Berths and enters ANCHOR. -/
  | pwStateAnchor (c : Cmd)
    /-- PW_STATE_DRYDOCK (R442): Closes contexts and enters DRYDOCK. -/
  | pwStateDrydock (c : Cmd)
    /-- DRYDOCK_POWER_OFF (R442): 1 ms after PW_STATE completes, the domains are powered off in order. -/
  | drydockPowerOff
    /-- ANCHOR_EXIT (R441): A wake cause starts the timed exit from ANCHOR to RUN. -/
  | anchorExit
    /-- WAKE_TIMER (R440): The PW_STATE wake timer expires and wakes the module. -/
  | wakeTimer
    /-- RST_MOD (R444): Commanded module reset. -/
  | rstMod (c : Cmd)
    /-- RST_PART (R444): Commanded partition reset. -/
  | rstPart (c : Cmd)
    /-- RST_QUAY (R444): Commanded Quay reset. -/
  | rstQuay (c : Cmd)
    /-- ACLK_UPDATE (R435): Every 1 µs the Watch sets each Quay's ACLK to its least ceiling. -/
  | aclkUpdate
    /-- POWER_SAMPLE (R436): Input voltage and current are sampled every 8 WCLK cycles. -/
  | powerSample (milliVolts milliAmps : Nat)
    /-- MPL_EVALUATION (R436): Every 125 µs the MPL loop lowers or raises ACLK steps against the MPL and floors.
  -/
  | mplEvaluation
    /-- DROOP (R438): A core rail below V_SET − 40 mV stretches the Quay's ACLK to half rate. -/
  | droop (q : Fin 10)
    /-- INPUT_OVERCURRENT (R438): Input current above 105 A over 50 µs lowers every Quay's current ceiling. -/
  | inputOvercurrent
    /-- RAIL_OVERCURRENT (R438): A core rail above 330 A for 5 µs lowers that Quay's current ceiling. -/
  | railOvercurrent (q : Fin 10)
    /-- CURRENT_CEILING_RELEASE (R438): Each 1 ms below 100 A restores one step of a current ceiling. -/
  | currentCeilingRelease (q : Fin 10)
    /-- THERMAL_STEP (R438): Each millisecond a hot Quay's thermal ceiling falls or recovers one step, or all
  Quays are held at 400 MHz. -/
  | thermalStep (temps : List Nat)
    /-- THERMAL_TRIP (R438): A die above 120 °C enters DRYDOCK at once and asserts FAULT_N. -/
  | thermalTrip (die : Fin 12) (temp : Nat)
    /-- REFCLK_LOSS (R432): Loss of REFCLK is detected; PLLs hold, WCLK free-runs and an error record is
  written. -/
  | refclkLoss (micros : Nat)
    /-- REFCLK_ABSENT_TIMEOUT (R432): REFCLK absent for 100 ms in RUN or ANCHOR enters DRYDOCK. -/
  | refclkAbsentTimeout
    /-- REFCLK_RETURN (R432): REFCLK returns and Lines and ports retrain. -/
  | refclkReturn
    /-- BERTH_MOOR_IDLE (R439): A Berth idle for MOOR_IDLE µs enters MOOR. -/
  | berthMoorIdle (g : Fin 200)
    /-- BERTH_TRANSITION_DONE (R439): A Berth's MOOR, LAYUP or wake transition completes after its latency. -/
  | berthTransitionDone (g : Fin 200)
    /-- POWER_UP (R449): Input rising through 38 V starts the Watch, then REFCLK detection and HE rails, then
  release and POR boot. -/
  | powerUp
    /-- INPUT_LOW (R450): Input below 37 V for 20 µs holds Quays at 400 MHz and stops new Tier F programs. -/
  | inputLow (milliVolts : Nat)
    /-- INPUT_SHUTDOWN (R450): Input below 36 V brings the rails down in order. -/
  | inputShutdown
    /-- WATCH_RESET (R444): The Watch rail falls for 1 µs while others hold, resetting the Watch domain with
  Quays at 400 MHz. -/
  | watchReset
    /-- WATCH_RESTART_DONE (R445): The Watch restarts, resenses fuses, reruns Swell E, reloads its registers and
  begins the ACLK climb. -/
  | watchRestartDone
    /-- TEL_READ (R460): Writes a context's 16 counters. -/
  | telRead (c : Cmd)
    /-- TEL_SNAP (R461): Writes a snapshot of the selected register groups. -/
  | telSnap (c : Cmd)
    /-- TEL_PUSH (R462): Configures the periodic telemetry push. -/
  | telPush (c : Cmd)
    /-- TELEMETRY_PUSH (R462): Every PERIOD_MS a snapshot is pushed to the host or a peer, or skipped if the
  last is unacknowledged. -/
  | telemetryPush
    /-- LOG_READ (R466): Writes the Logbooks of a range of units. -/
  | logRead (c : Cmd)
    /-- LOG_FREEZE (R464): Stops recording in every Logbook. -/
  | logFreeze (c : Cmd)
    /-- LOG_THAW (R464): Restarts Logbook recording. -/
  | logThaw (c : Cmd)
    /-- LOG_CLEAR (R464): Empties and thaws every Logbook. -/
  | logClear (c : Cmd)
    /-- DBG_STEP_BEGIN (R467): Pre-empts a context and marks it STEPPING. -/
  | dbgStepBegin (c : Cmd)
    /-- DBG_STEP_STEP (R467): Runs one command of the stepped context and writes a step record. -/
  | dbgStepStep (c : Cmd)
    /-- DBG_STEP_END (R467): Clears STEPPING, leaving the context halted. -/
  | dbgStepEnd (c : Cmd)
    /-- TS_PROBE (R469): Measures the clock offset to a Line peer by timestamped probes. -/
  | tsProbe (c : Cmd)
    /-- TS_PROBE_SEND (R469): Every 10 µs the next probe is sent on VC7. -/
  | tsProbeSend
    /-- PROBE_ARRIVAL (R469): A peer's probe arrives and is answered on VC7. -/
  | probeArrival (l : Fin 36) (index : Nat) (t1 : Word)
    /-- PROBE_REPLY (R469): A probe reply arrives and its four timestamps are gathered. -/
  | probeReply (l : Fin 36) (index : Nat) (t2 t3 : Word)
    /-- ERR_READ (R476): Writes held error records from the main or Watch ring. -/
  | errRead (c : Cmd)
    /-- ERROR_RECORD (R475): A unit's pending error record reaches the main ring, or is lost when places are
  full. -/
  | errorRecord (kind unit : Nat)
    /-- TEREDO_MEASURE (R470): Every 10 s Teredo measures its replicas and updates DEGR, demand and the guard-
  band. -/
  | teredoMeasure (degr : List (Nat × Nat))
    /-- RST_N_LOW (R486): RST_N low for 11 consecutive WCLK samples starts a MOD reset or a return from DRYDOCK.
  -/
  | rstNLow
    /-- RST_N_RELEASE (R414): The rising edge of RST_N starts the MOD boot. -/
  | rstNRelease
    /-- WAKE_PIN (R486): A WAKE rising edge held 1 µs wakes the module from ANCHOR or DRYDOCK. -/
  | wakePin
    /-- FLASH_SVC_N_LOW (R488): FLASH_SVC_N low, when honoured, releases the boot-flash lines to an external
  master. -/
  | flashSvcNLow
    /-- FLASH_SVC_N_RISE (R488): A rising edge of FLASH_SVC_N while HE is held starts a new verification. -/
  | flashSvcNRise (image : List (Nat × List Byte))
    /-- EN_OPEN (R490): EN_A or EN_B opening while VIN is live acts as a loss of input power. -/
  | enOpen (b : Bool)
    /-- DROOP_RELEASE (R438): A Quay's core rail rises back above V_SET − 20 mV and its ACLK edges stop being
  stretched. -/
  | droopRelease (q : Fin 10)
    /-- MIRROR_WRITE (R373): A mirror write from the Twin arrives on VC5 on a Twin Line and is written into an
  ACCEPT range at the same harbour addresses. -/
  | mirrorWrite (l : Fin 36) (addr : Nat) (data : List Byte)
    /-- TWIN_PAIR_MESSAGE (R375): The Twin's PAIR arrives, so that a local TW_CTL PAIR waiting for it completes
  and the state becomes PAIRED. -/
  | twinPairMessage (l : Fin 36)
    /-- INPUT_RECOVERY (R450): The input rises back above 37 V after a power-fail warning without falling below
  36 V. -/
  | inputRecovery
    /-- SCAN_ACCESS (R486): An IEEE 1149.1 access on TCK, TMS, TDI and TRST_N reaches the Harbourmaster core
  while the SCAN level is in force. -/
  | scanAccess (tdi : List Bool)
    /-- UNLOCK_FAILS_HOUR (R424): The current hour of failed UNLOCKs ends, and SC_DEBUG_STAT.FAILS no longer
  counts the failures made in it. -/
  | unlockFailsHour
deriving DecidableEq, Repr

end Sys2Proof
end

