-- ==== Sys2Proof/Decode.lean ====
section
/-!
DEFINITION. The commands that words spell by the opcode table's bits: none, since no row of the table gives bits.
-/

namespace Sys2Proof

/-- The command that the low `nbits` bits of a word spell. No row of the opcode table gives bits, so no word spells one. -/
def decodeTableWord (_nbits _w : Nat) : Option Instr := none

end Sys2Proof
end

