-- ==== Sys2Proof/Config.lean ====
section
/-!
DEFINITION. What one module fixes (fuses set at manufacture, the boot ROM's key hashes) and the free values: constants
with no body, so that a proof can use no value of theirs.
-/

namespace Sys2Proof

/-- Free values, one for each number drawn (log entry 3). -/
opaque Config.freeBits : Nat → Word

/-- The byte an undefined memory location holds, by the epoch of its region and its address (log entry 4). -/
opaque Config.undefByte : Nat → Nat → Byte

/-- The serial number fused at manufacture (R10, R429; log entry 7). -/
opaque Config.serial : BitVec 128

/-- The SHA-384 of the Gleano public key of each slot, in the boot ROM (R409; log entry 7). -/
opaque Config.gleanoKeyHash : Nat → BitVec 384

/-- The fused SHA-384 of the identity certificate (R420; log entry 7). -/
opaque Config.certHash : BitVec 384

/-- The private scalar of the device identity key, sealed in fuses (R420; log entry 7). -/
opaque Config.identityScalar : Nat

/-- The fused base of the sub-ports' MAC addresses, EP_MAC_BASE (R382; log entry 7). -/
opaque Config.macBase : BitVec 48

/-- The value that the segment arithmetic of a built-in Lathe function gives for an argument's encoding, where no rule
states it: sign, 12-bit exponent, 32-bit fraction (R164, R167, R168; log entry 22). -/
opaque Config.latheRom : Nat → Nat → BitVec 45

/-- The result of a Jig step word on an infinite operand, where no rule states it (R174, R175; log entry 22). -/
opaque Config.jigOpen : Nat → BitVec 45

/-- The SHA-384 message that 1,024 raw noise samples form (R266; log entry 23). -/
opaque Config.swellPack : BitVec 1024 → BitVec 1024

/-- The 256 bits of a Swell word or of a 384-bit hash that seed a Ripple (R270, R271; log entry 23). -/
opaque Config.seedOf : BitVec 384 → BitVec 256

/-- The hash of a registration's fields that READY carries (R367; log entry 27). -/
opaque Config.regHash : List Nat → Nat

/-- The state of a Ferry codec after an input, from the state before it; the standards are not part of the spec (R243, R262; log
entry 30). -/
opaque Config.fyNext : Nat → List Nat → Nat

/-- A number that a Ferry codec determines from its state and an input: which is asked by the list (log entry 30). -/
opaque Config.fyNum : Nat → List Nat → List Nat → Nat

/-- The bytes of a coded unit, or of a decoded picture, from a codec's state and an input: which is asked by the list (log entry
30). -/
opaque Config.fyBytes : Nat → List Nat → List Nat → List Byte

/-- The quantised sample of a Sounding element, not a NaN, whose product with QSCALE is one (R258; log entry 30). -/
opaque Config.soundOpen : Nat → Nat → Nat

/-- The LUN that a mapped unit of Tier F lies on (R316, R337; log entry 41). -/
opaque Config.lunOf : Nat → Nat

end Sys2Proof
end

