-- ==== Sys2Proof/Machine/Maps.lean ====
section
/-!
DEFINITION. Sparse maps as plain data: a list of (key, value) pairs with keys strictly rising, in which no
listed value equals the default of its key.
-/

namespace Sys2Proof.Machine

/-- A sparse map from numbers, as a list of pairs. -/
abbrev SMap (α : Type) := List (Nat × α)

/-- The value listed for a key. -/
def SMap.find {α : Type} : SMap α → Nat → Option α
  | [], _ => none
  | (k, v) :: r, a => if k = a then some v else SMap.find r a

/-- Lists a value under a key. -/
def SMap.put {α : Type} : SMap α → Nat → α → SMap α
  | [], a, x => [(a, x)]
  | (k, v) :: r, a, x =>
    if k = a then (a, x) :: r else if a < k then (a, x) :: (k, v) :: r else (k, v) :: SMap.put r a x

/-- Unlists a key. -/
def SMap.drop {α : Type} (m : SMap α) (a : Nat) : SMap α := m.filter fun p => decide (p.1 ≠ a)

/-- The value of a key, the default where none is listed. -/
def SMap.get {α : Type} (m : SMap α) (d : α) (a : Nat) : α := (SMap.find m a).getD d

/-- Sets the value of a key; setting the default unlists it. -/
def SMap.set {α : Type} [DecidableEq α] (m : SMap α) (d : α) (a : Nat) (x : α) : SMap α :=
  if x = d then SMap.drop m a else SMap.put m a x

/-- Changes the value of a key. -/
def SMap.upd {α : Type} [DecidableEq α] (m : SMap α) (d : α) (a : Nat) (f : α → α) : SMap α :=
  SMap.set m d a (f (SMap.get m d a))

/-- Unlists every key of a range. -/
def SMap.clearRange {α : Type} (m : SMap α) (lo hi : Nat) : SMap α :=
  m.filter fun p => !(decide (lo ≤ p.1) && decide (p.1 < hi))

/-- The keys rise strictly and lie above `lo` where a bound is given. -/
def SMap.rising {α : Type} : Option Nat → SMap α → Bool
  | _, [] => true
  | lo, (k, _) :: r => (match lo with | none => true | some l => decide (l < k)) && SMap.rising (some k) r

/-- The canonical form: keys rise strictly and no listed value is its key's default. -/
def SMap.wf {α : Type} [DecidableEq α] (m : SMap α) (dflt : Nat → α) : Bool :=
  SMap.rising none m && m.all fun p => decide (p.2 ≠ dflt p.1)

/-! ### Sorting by structural recursion -/

/-- Inserts into a sorted list, before the elements it is not after. -/
def insertBy {α : Type} (le : α → α → Bool) (x : α) : List α → List α
  | [] => [x]
  | y :: r => if le x y then x :: y :: r else y :: insertBy le x r

/-- A list in order; elements that neither precede nor follow each other keep theirs. -/
def sortBy {α : Type} (le : α → α → Bool) (l : List α) : List α := l.foldr (insertBy le) []

end Sys2Proof.Machine
end

