-- ==== Sys2Proof/Machine/Regs.lean ====
section
/-!
DEFINITION. The module's registers: their names, their addresses (R14), and their fields with position, access
kind, reset value and the resets and states each is kept through (the register tables of every chapter, R8-R13).
-/

namespace Sys2Proof.Machine

/-- The five access kinds of R8. -/
inductive Access where
  | rw | ro | w1c | rc | wo
deriving DecidableEq, Repr

/-- What a Kept-through column may list (R11): reset kinds and low-power states. `ctxOther` is a CTX reset of
another context than the register's owner. -/
inductive Keep where
  | por | mod | part | quay | ctx | ctxOther | watch | anchor | drydock | moor | layup
deriving DecidableEq, Repr

/-- What a Reset column holds (R10): a number, a framing value, or a fuse value. -/
inductive RVal where
  | num (n : Nat)
  | fi
  | fuse
deriving DecidableEq, Repr

/-- One field of a register: bits `[hi:lo]`, access, reset and the Kept-through column. -/
structure Fld where
  hi : Nat
  lo : Nat
  acc : Access
  rst : RVal
  kept : List Keep
deriving DecidableEq, Repr

/-- The width of a field in bits. -/
def Fld.width (f : Fld) : Nat := f.hi + 1 - f.lo

/-- Kept through everything ("all"). -/
def keepAll : List Keep := [.por, .mod, .part, .quay, .ctx, .ctxOther, .watch, .anchor, .drydock, .moor, .layup]

/-- Kept through nothing ("none"). -/
def keepNone : List Keep := []

/-- The Kept-through entry ctx, part, quay, anchor, moor, layup. -/
def keepCtxPartQuayAnchorMoorLayup : List Keep := [.ctx, .ctxOther, .part, .quay, .anchor, .moor, .layup]

/-- The Kept-through entry ctx, part, quay, watch, anchor, moor, layup. -/
def keepCtxPartQuayWatchAnchorMoorLayup : List Keep := [.ctx, .ctxOther, .part, .quay, .watch, .anchor, .moor, .layup]

/-- The Kept-through entry ctx, quay, watch, anchor, moor, layup. -/
def keepCtxQuayWatchAnchorMoorLayup : List Keep := [.ctx, .ctxOther, .quay, .watch, .anchor, .moor, .layup]

/-- The Kept-through entry ctx, watch, moor. -/
def keepCtxWatchMoor : List Keep := [.ctx, .ctxOther, .watch, .moor]

/-- The Kept-through entry ctx, watch, moor, layup. -/
def keepCtxWatchMoorLayup : List Keep := [.ctx, .ctxOther, .watch, .moor, .layup]

/-- The Kept-through entry ctxOther, watch, anchor, moor, layup. -/
def keepCtxotherWatchAnchorMoorLayup : List Keep := [.ctxOther, .watch, .anchor, .moor, .layup]

/-- The Kept-through entry ctxOther, watch, moor, layup. -/
def keepCtxotherWatchMoorLayup : List Keep := [.ctxOther, .watch, .moor, .layup]

/-- The Kept-through entry mod, part, quay, ctx, anchor, drydock, moor, layup. -/
def keepModPartQuayCtxAnchorDrydockMoorLayup : List Keep := [.mod, .part, .quay, .ctx, .ctxOther, .anchor, .drydock, .moor, .layup]

/-- The Kept-through entry part, quay, ctx, anchor, drydock, moor, layup. -/
def keepPartQuayCtxAnchorDrydockMoorLayup : List Keep := [.part, .quay, .ctx, .ctxOther, .anchor, .drydock, .moor, .layup]

/-- The Kept-through entry part, quay, ctx, anchor, moor, layup. -/
def keepPartQuayCtxAnchorMoorLayup : List Keep := [.part, .quay, .ctx, .ctxOther, .anchor, .moor, .layup]

/-- The Kept-through entry part, quay, watch, anchor, moor, layup. -/
def keepPartQuayWatchAnchorMoorLayup : List Keep := [.part, .quay, .watch, .anchor, .moor, .layup]

/-- The Kept-through entry por, mod, part, quay, ctx, watch, anchor, drydock, moor, layup. -/
def keepPorModPartQuayCtxWatchAnchorDrydockMoorLayup : List Keep := [.por, .mod, .part, .quay, .ctx, .ctxOther, .watch, .anchor, .drydock, .moor, .layup]

/-- The Kept-through entry quay, watch, anchor, moor, layup. -/
def keepQuayWatchAnchorMoorLayup : List Keep := [.quay, .watch, .anchor, .moor, .layup]

/-- The Kept-through entry watch, moor. -/
def keepWatchMoor : List Keep := [.watch, .moor]

/-- The Kept-through entry watch, moor, layup. -/
def keepWatchMoorLayup : List Keep := [.watch, .moor, .layup]

/-- A register of R14, with the numbers of its instance. -/
inductive Reg where
  | brFmtTally (g : Nat)
  | brRampCtl (g : Nat)
  | brTrussStat (g : Nat)
  | brTrussBusy (g : Nat)
  | brTrussStall (g : Nat)
  | brConflictRec (g : Nat)
  | brHoldPwr (g : Nat)
  | brJyCfg (g : Nat)
  | brJyStat (g : Nat)
  | brJyStall (g : Nat)
  | brJyBusy (g : Nat)
  | brLatheStat (g : Nat)
  | brLatheTally (g : Nat)
  | brLatheStall (g : Nat)
  | brScarfTally (g : Nat)
  | brScarfStat (g : Nat)
  | rpDraws (g : Nat)
  | brPwrCtl (g : Nat)
  | brPwrStat (g : Nat)
  | brTeredo (g : Nat)
  | qyStagger (q : Nat)
  | qyShedPwr (q : Nat)
  | qyTileStat (q : Nat)
  | qyStealStat (q : Nat)
  | qyClaimBase (q : Nat) (n : Nat)
  | qyClaimSeq (q : Nat) (n : Nat)
  | hmClampTally
  | hmSramEcc
  | hmTelCfg
  | hmTelStat
  | hmErrStat
  | hmStepStat
  | hmWqCfg (n : Nat)
  | hmWqPtr (n : Nat)
  | hmWqDb (n : Nat)
  | hmCplOvf (n : Nat)
  | hmCtxStat (k : Nat)
  | hmCrateTally (p : Nat)
  | hmCrateFault (p : Nat)
  | hmPoolStat (n : Nat)
  | hmCtxCnt (k : Nat) (i : Nat)
  | mtCfg
  | mtFlashLife
  | mtFlashStat
  | mtFlashWait
  | mtHbmMapout (s : Nat)
  | mtStackEcc (s : Nat)
  | mtScrubStat (t : Nat)
  | slCfg (i : Nat) (t : Nat)
  | slStat (i : Nat) (t : Nat)
  | lnCfg (l : Nat)
  | lnStat (l : Nat)
  | lnErr (l : Nat)
  | lnOffset (l : Nat)
  | bwVcCfg
  | bwClTally
  | bwTwinStat
  | bwBasinStat (h : Nat)
  | bwGroupStat (i : Nat)
  | bwGroupEpoch (i : Nat)
  | bwTwinHand (k : Nat)
  | epPortCfg (p : Nat)
  | epPortStat (p : Nat)
  | epPtpCfg
  | epPtpStat
  | epPpsTs
  | epQpStat (k : Nat)
  | fyPipeStat (p : Nat)
  | fyStreamStat (s : Nat)
  | rpSwellStat (s : Nat)
  | rpSampleStat
  | wtMpl
  | wtState
  | wtLogFreeze
  | wtPinStat
  | wtLimit (p : Nat)
  | wtQuayClk (q : Nat)
  | wtLoopStat (q : Nat)
  | wtShedRetain (q : Nat)
  | wtTeredo (q : Nat)
  | scId0
  | scId1
  | scId2
  | scBootStat
  | scDebugStat
deriving DecidableEq, Repr

/-- The harbour address of a register (R14). -/
def Reg.addr : Reg → Nat
  | .brFmtTally g => 0x7F0000000000 + 4096 * g
  | .brRampCtl g => 0x7F0000000008 + 4096 * g
  | .brTrussStat g => 0x7F0000000010 + 4096 * g
  | .brTrussBusy g => 0x7F0000000018 + 4096 * g
  | .brTrussStall g => 0x7F0000000020 + 4096 * g
  | .brConflictRec g => 0x7F0000000028 + 4096 * g
  | .brHoldPwr g => 0x7F0000000030 + 4096 * g
  | .brJyCfg g => 0x7F0000000038 + 4096 * g
  | .brJyStat g => 0x7F0000000040 + 4096 * g
  | .brJyStall g => 0x7F0000000048 + 4096 * g
  | .brJyBusy g => 0x7F0000000050 + 4096 * g
  | .brLatheStat g => 0x7F0000000058 + 4096 * g
  | .brLatheTally g => 0x7F0000000060 + 4096 * g
  | .brLatheStall g => 0x7F0000000068 + 4096 * g
  | .brScarfTally g => 0x7F0000000070 + 4096 * g
  | .brScarfStat g => 0x7F0000000078 + 4096 * g
  | .rpDraws g => 0x7F0000000080 + 4096 * g
  | .brPwrCtl g => 0x7F0000000088 + 4096 * g
  | .brPwrStat g => 0x7F0000000090 + 4096 * g
  | .brTeredo g => 0x7F0000000098 + 4096 * g
  | .qyStagger q => 0x7F0000100000 + 4096 * q
  | .qyShedPwr q => 0x7F0000100008 + 4096 * q
  | .qyTileStat q => 0x7F0000100010 + 4096 * q
  | .qyStealStat q => 0x7F0000100018 + 4096 * q
  | .qyClaimBase q n => 0x7F0000100100 + 4096 * q + 16 * n
  | .qyClaimSeq q n => 0x7F0000100108 + 4096 * q + 16 * n
  | .hmClampTally => 0x7F0000200000
  | .hmSramEcc => 0x7F0000200008
  | .hmTelCfg => 0x7F0000200010
  | .hmTelStat => 0x7F0000200018
  | .hmErrStat => 0x7F0000200020
  | .hmStepStat => 0x7F0000200028
  | .hmWqCfg n => 0x7F0000201000 + 32 * n
  | .hmWqPtr n => 0x7F0000201008 + 32 * n
  | .hmWqDb n => 0x7F0000201010 + 32 * n
  | .hmCplOvf n => 0x7F0000201018 + 32 * n
  | .hmCtxStat k => 0x7F0000202000 + 8 * k
  | .hmCrateTally p => 0x7F0000202400 + 16 * p
  | .hmCrateFault p => 0x7F0000202408 + 16 * p
  | .hmPoolStat n => 0x7F0000203000 + 8 * n
  | .hmCtxCnt k i => 0x7F0000204000 + 128 * k + 8 * i
  | .mtCfg => 0x7F0000300000
  | .mtFlashLife => 0x7F0000300008
  | .mtFlashStat => 0x7F0000300010
  | .mtFlashWait => 0x7F0000300018
  | .mtHbmMapout s => 0x7F0000300100 + 8 * s
  | .mtStackEcc s => 0x7F0000300200 + 8 * s
  | .mtScrubStat t => 0x7F0000300300 + 8 * t
  | .slCfg i t => 0x7F0000310000 + 48 * i + 16 * t
  | .slStat i t => 0x7F0000310008 + 48 * i + 16 * t
  | .lnCfg l => 0x7F0000400000 + 64 * l
  | .lnStat l => 0x7F0000400008 + 64 * l
  | .lnErr l => 0x7F0000400010 + 64 * l
  | .lnOffset l => 0x7F0000400018 + 64 * l
  | .bwVcCfg => 0x7F0000500000
  | .bwClTally => 0x7F0000500008
  | .bwTwinStat => 0x7F0000500010
  | .bwBasinStat h => 0x7F0000500020 + 8 * h
  | .bwGroupStat i => 0x7F0000500100 + 16 * i
  | .bwGroupEpoch i => 0x7F0000500108 + 16 * i
  | .bwTwinHand k => 0x7F0000500800 + 8 * k
  | .epPortCfg p => 0x7F0000600000 + 16 * p
  | .epPortStat p => 0x7F0000600008 + 16 * p
  | .epPtpCfg => 0x7F0000600100
  | .epPtpStat => 0x7F0000600108
  | .epPpsTs => 0x7F0000600110
  | .epQpStat k => 0x7F0000601000 + 8 * k
  | .fyPipeStat p => 0x7F0000700000 + 8 * p
  | .fyStreamStat s => 0x7F0000700100 + 8 * s
  | .rpSwellStat s => 0x7F0000710000 + 8 * s
  | .rpSampleStat => 0x7F0000710010
  | .wtMpl => 0x7F0000800000
  | .wtState => 0x7F0000800008
  | .wtLogFreeze => 0x7F0000800010
  | .wtPinStat => 0x7F0000800018
  | .wtLimit p => 0x7F0000800080 + 8 * p
  | .wtQuayClk q => 0x7F0000800100 + 32 * q
  | .wtLoopStat q => 0x7F0000800108 + 32 * q
  | .wtShedRetain q => 0x7F0000800110 + 32 * q
  | .wtTeredo q => 0x7F0000800118 + 32 * q
  | .scId0 => 0x7F0000900000
  | .scId1 => 0x7F0000900008
  | .scId2 => 0x7F0000900010
  | .scBootStat => 0x7F0000900018
  | .scDebugStat => 0x7F0000900020

/-- The instance numbers lie in the ranges of R14. -/
def Reg.ok : Reg → Bool
  | .brFmtTally g => decide (g < 200)
  | .brRampCtl g => decide (g < 200)
  | .brTrussStat g => decide (g < 200)
  | .brTrussBusy g => decide (g < 200)
  | .brTrussStall g => decide (g < 200)
  | .brConflictRec g => decide (g < 200)
  | .brHoldPwr g => decide (g < 200)
  | .brJyCfg g => decide (g < 200)
  | .brJyStat g => decide (g < 200)
  | .brJyStall g => decide (g < 200)
  | .brJyBusy g => decide (g < 200)
  | .brLatheStat g => decide (g < 200)
  | .brLatheTally g => decide (g < 200)
  | .brLatheStall g => decide (g < 200)
  | .brScarfTally g => decide (g < 200)
  | .brScarfStat g => decide (g < 200)
  | .rpDraws g => decide (g < 200)
  | .brPwrCtl g => decide (g < 200)
  | .brPwrStat g => decide (g < 200)
  | .brTeredo g => decide (g < 200)
  | .qyStagger q => decide (q < 10)
  | .qyShedPwr q => decide (q < 10)
  | .qyTileStat q => decide (q < 10)
  | .qyStealStat q => decide (q < 10)
  | .qyClaimBase q n => decide (q < 10) && decide (n < 8)
  | .qyClaimSeq q n => decide (q < 10) && decide (n < 8)
  | .hmClampTally => true
  | .hmSramEcc => true
  | .hmTelCfg => true
  | .hmTelStat => true
  | .hmErrStat => true
  | .hmStepStat => true
  | .hmWqCfg n => decide (n < 64)
  | .hmWqPtr n => decide (n < 64)
  | .hmWqDb n => decide (n < 64)
  | .hmCplOvf n => decide (n < 64)
  | .hmCtxStat k => decide (k < 64)
  | .hmCrateTally p => decide (p < 10)
  | .hmCrateFault p => decide (p < 10)
  | .hmPoolStat n => decide (n < 256)
  | .hmCtxCnt k i => decide (k < 64) && decide (i < 16)
  | .mtCfg => true
  | .mtFlashLife => true
  | .mtFlashStat => true
  | .mtFlashWait => true
  | .mtHbmMapout s => decide (s < 20)
  | .mtStackEcc s => decide (s < 20)
  | .mtScrubStat t => decide (t < 4)
  | .slCfg i t => decide (i < 11) && decide (t < 3)
  | .slStat i t => decide (i < 11) && decide (t < 3)
  | .lnCfg l => decide (l < 36)
  | .lnStat l => decide (l < 36)
  | .lnErr l => decide (l < 36)
  | .lnOffset l => decide (l < 36)
  | .bwVcCfg => true
  | .bwClTally => true
  | .bwTwinStat => true
  | .bwBasinStat h => decide (h < 2)
  | .bwGroupStat i => decide (i < 64)
  | .bwGroupEpoch i => decide (i < 64)
  | .bwTwinHand k => decide (k < 64)
  | .epPortCfg p => decide (p < 8)
  | .epPortStat p => decide (p < 8)
  | .epPtpCfg => true
  | .epPtpStat => true
  | .epPpsTs => true
  | .epQpStat k => decide (k < 512)
  | .fyPipeStat p => decide (p < 8)
  | .fyStreamStat s => decide (s < 256)
  | .rpSwellStat s => decide (s < 2)
  | .rpSampleStat => true
  | .wtMpl => true
  | .wtState => true
  | .wtLogFreeze => true
  | .wtPinStat => true
  | .wtLimit p => decide (p < 10)
  | .wtQuayClk q => decide (q < 10)
  | .wtLoopStat q => decide (q < 10)
  | .wtShedRetain q => decide (q < 10)
  | .wtTeredo q => decide (q < 10)
  | .scId0 => true
  | .scId1 => true
  | .scId2 => true
  | .scBootStat => true
  | .scDebugStat => true

/-- The first that is there. -/
def firstSome {α : Type} : List (Option α) → Option α
  | [] => none
  | some x :: _ => some x
  | none :: r => firstSome r

/-- The register of a single-instance kind at an address. -/
def reg0 (a base : Nat) (r : Reg) : Option Reg := if a = base then some r else none

/-- The register of a kind replicated `cnt` times every `stride` bytes at an address. -/
def reg1 (a base cnt stride : Nat) (r : Nat → Reg) : Option Reg :=
  if base ≤ a ∧ (a - base) % stride = 0 ∧ (a - base) / stride < cnt then some (r ((a - base) / stride)) else none

/-- The register of a kind replicated twice over at an address: `c1` units every `s1` bytes, `c2` in each every `s2`. -/
def reg2 (a base c1 s1 c2 s2 : Nat) (r : Nat → Nat → Reg) : Option Reg :=
  if base ≤ a ∧ (a - base) / s1 < c1 ∧ (a - base) % s1 % s2 = 0 ∧ (a - base) % s1 / s2 < c2 then
    some (r ((a - base) / s1) ((a - base) % s1 / s2))
  else none

/-- The registers of R14's table an address may name, part 1. -/
def Reg.candidates1 (a : Nat) : List (Option Reg) :=
  [reg1 a 0x7F0000000000 200 4096 .brFmtTally,
   reg1 a 0x7F0000000008 200 4096 .brRampCtl,
   reg1 a 0x7F0000000010 200 4096 .brTrussStat,
   reg1 a 0x7F0000000018 200 4096 .brTrussBusy,
   reg1 a 0x7F0000000020 200 4096 .brTrussStall,
   reg1 a 0x7F0000000028 200 4096 .brConflictRec,
   reg1 a 0x7F0000000030 200 4096 .brHoldPwr,
   reg1 a 0x7F0000000038 200 4096 .brJyCfg,
   reg1 a 0x7F0000000040 200 4096 .brJyStat,
   reg1 a 0x7F0000000048 200 4096 .brJyStall,
   reg1 a 0x7F0000000050 200 4096 .brJyBusy,
   reg1 a 0x7F0000000058 200 4096 .brLatheStat]

/-- The registers of R14's table an address may name, part 2. -/
def Reg.candidates2 (a : Nat) : List (Option Reg) :=
  [reg1 a 0x7F0000000060 200 4096 .brLatheTally,
   reg1 a 0x7F0000000068 200 4096 .brLatheStall,
   reg1 a 0x7F0000000070 200 4096 .brScarfTally,
   reg1 a 0x7F0000000078 200 4096 .brScarfStat,
   reg1 a 0x7F0000000080 200 4096 .rpDraws,
   reg1 a 0x7F0000000088 200 4096 .brPwrCtl,
   reg1 a 0x7F0000000090 200 4096 .brPwrStat,
   reg1 a 0x7F0000000098 200 4096 .brTeredo,
   reg1 a 0x7F0000100000 10 4096 .qyStagger,
   reg1 a 0x7F0000100008 10 4096 .qyShedPwr,
   reg1 a 0x7F0000100010 10 4096 .qyTileStat,
   reg1 a 0x7F0000100018 10 4096 .qyStealStat]

/-- The registers of R14's table an address may name, part 3. -/
def Reg.candidates3 (a : Nat) : List (Option Reg) :=
  [reg2 a 0x7F0000100100 10 4096 8 16 .qyClaimBase,
   reg2 a 0x7F0000100108 10 4096 8 16 .qyClaimSeq,
   reg0 a 0x7F0000200000 .hmClampTally,
   reg0 a 0x7F0000200008 .hmSramEcc,
   reg0 a 0x7F0000200010 .hmTelCfg,
   reg0 a 0x7F0000200018 .hmTelStat,
   reg0 a 0x7F0000200020 .hmErrStat,
   reg0 a 0x7F0000200028 .hmStepStat,
   reg1 a 0x7F0000201000 64 32 .hmWqCfg,
   reg1 a 0x7F0000201008 64 32 .hmWqPtr,
   reg1 a 0x7F0000201010 64 32 .hmWqDb,
   reg1 a 0x7F0000201018 64 32 .hmCplOvf]

/-- The registers of R14's table an address may name, part 4. -/
def Reg.candidates4 (a : Nat) : List (Option Reg) :=
  [reg1 a 0x7F0000202000 64 8 .hmCtxStat,
   reg1 a 0x7F0000202400 10 16 .hmCrateTally,
   reg1 a 0x7F0000202408 10 16 .hmCrateFault,
   reg1 a 0x7F0000203000 256 8 .hmPoolStat,
   reg2 a 0x7F0000204000 64 128 16 8 .hmCtxCnt,
   reg0 a 0x7F0000300000 .mtCfg,
   reg0 a 0x7F0000300008 .mtFlashLife,
   reg0 a 0x7F0000300010 .mtFlashStat,
   reg0 a 0x7F0000300018 .mtFlashWait,
   reg1 a 0x7F0000300100 20 8 .mtHbmMapout,
   reg1 a 0x7F0000300200 20 8 .mtStackEcc,
   reg1 a 0x7F0000300300 4 8 .mtScrubStat]

/-- The registers of R14's table an address may name, part 5. -/
def Reg.candidates5 (a : Nat) : List (Option Reg) :=
  [reg2 a 0x7F0000310000 11 48 3 16 .slCfg,
   reg2 a 0x7F0000310008 11 48 3 16 .slStat,
   reg1 a 0x7F0000400000 36 64 .lnCfg,
   reg1 a 0x7F0000400008 36 64 .lnStat,
   reg1 a 0x7F0000400010 36 64 .lnErr,
   reg1 a 0x7F0000400018 36 64 .lnOffset,
   reg0 a 0x7F0000500000 .bwVcCfg,
   reg0 a 0x7F0000500008 .bwClTally,
   reg0 a 0x7F0000500010 .bwTwinStat,
   reg1 a 0x7F0000500020 2 8 .bwBasinStat,
   reg1 a 0x7F0000500100 64 16 .bwGroupStat,
   reg1 a 0x7F0000500108 64 16 .bwGroupEpoch]

/-- The registers of R14's table an address may name, part 6. -/
def Reg.candidates6 (a : Nat) : List (Option Reg) :=
  [reg1 a 0x7F0000500800 64 8 .bwTwinHand,
   reg1 a 0x7F0000600000 8 16 .epPortCfg,
   reg1 a 0x7F0000600008 8 16 .epPortStat,
   reg0 a 0x7F0000600100 .epPtpCfg,
   reg0 a 0x7F0000600108 .epPtpStat,
   reg0 a 0x7F0000600110 .epPpsTs,
   reg1 a 0x7F0000601000 512 8 .epQpStat,
   reg1 a 0x7F0000700000 8 8 .fyPipeStat,
   reg1 a 0x7F0000700100 256 8 .fyStreamStat,
   reg1 a 0x7F0000710000 2 8 .rpSwellStat,
   reg0 a 0x7F0000710010 .rpSampleStat,
   reg0 a 0x7F0000800000 .wtMpl]

/-- The registers of R14's table an address may name, part 7. -/
def Reg.candidates7 (a : Nat) : List (Option Reg) :=
  [reg0 a 0x7F0000800008 .wtState,
   reg0 a 0x7F0000800010 .wtLogFreeze,
   reg0 a 0x7F0000800018 .wtPinStat,
   reg1 a 0x7F0000800080 10 8 .wtLimit,
   reg1 a 0x7F0000800100 10 32 .wtQuayClk,
   reg1 a 0x7F0000800108 10 32 .wtLoopStat,
   reg1 a 0x7F0000800110 10 32 .wtShedRetain,
   reg1 a 0x7F0000800118 10 32 .wtTeredo,
   reg0 a 0x7F0000900000 .scId0,
   reg0 a 0x7F0000900008 .scId1,
   reg0 a 0x7F0000900010 .scId2,
   reg0 a 0x7F0000900018 .scBootStat]

/-- The registers of R14's table an address may name, part 8. -/
def Reg.candidates8 (a : Nat) : List (Option Reg) :=
  [reg0 a 0x7F0000900020 .scDebugStat]

/-- The register an address names, none where it names no register of R14 (R13). -/
def Reg.ofAddr (a : Nat) : Option Reg :=
  firstSome (Reg.candidates1 a) <|> firstSome (Reg.candidates2 a) <|> firstSome (Reg.candidates3 a) <|> firstSome (Reg.candidates4 a) <|> firstSome (Reg.candidates5 a) <|> firstSome (Reg.candidates6 a) <|> firstSome (Reg.candidates7 a) <|> firstSome (Reg.candidates8 a)

/-- BR_FMT_TALLY.SAT_COUNT (R57). -/
def Fld.brFmtTallySatCount : Fld := ⟨31, 0, .rc, .num 0, keepCtxWatchMoor⟩
/-- BR_FMT_TALLY.NAN_COUNT (R57). -/
def Fld.brFmtTallyNanCount : Fld := ⟨47, 32, .rc, .num 0, keepCtxWatchMoor⟩
/-- BR_FMT_TALLY.BM40_SAT (R57). -/
def Fld.brFmtTallyBm40Sat : Fld := ⟨55, 48, .rc, .num 0, keepCtxWatchMoor⟩
/-- BR_FMT_TALLY.BM40_FTZ (R57). -/
def Fld.brFmtTallyBm40Ftz : Fld := ⟨63, 56, .rc, .num 0, keepCtxWatchMoor⟩
/-- BR_RAMP_CTL.STEPS_LOG2 (R86). -/
def Fld.brRampCtlStepsLog2 : Fld := ⟨2, 0, .rw, .fi, keepCtxWatchMoor⟩
/-- BR_RAMP_CTL.STEP_CYC (R86). -/
def Fld.brRampCtlStepCyc : Fld := ⟨8, 3, .rw, .fi, keepCtxWatchMoor⟩
/-- BR_RAMP_CTL.GATE_IDLE (R86). -/
def Fld.brRampCtlGateIdle : Fld := ⟨24, 9, .rw, .fi, keepCtxWatchMoor⟩
/-- BR_RAMP_CTL.RAMP_DOWN (R86). -/
def Fld.brRampCtlRampDown : Fld := ⟨25, 25, .rw, .fi, keepCtxWatchMoor⟩
/-- BR_TRUSS_STAT.SHAPE (R88). -/
def Fld.brTrussStatShape : Fld := ⟨1, 0, .ro, .num 0, keepCtxWatchMoor⟩
/-- BR_TRUSS_STAT.RAFT_MEMBER (R88). -/
def Fld.brTrussStatRaftMember : Fld := ⟨2, 2, .ro, .num 0, keepCtxWatchMoor⟩
/-- BR_TRUSS_STAT.RAFT_LEAD (R88). -/
def Fld.brTrussStatRaftLead : Fld := ⟨3, 3, .ro, .num 0, keepCtxWatchMoor⟩
/-- BR_TRUSS_STAT.RAFT_ROWS_M1 (R88). -/
def Fld.brTrussStatRaftRowsM1 : Fld := ⟨5, 4, .ro, .num 0, keepCtxWatchMoor⟩
/-- BR_TRUSS_STAT.RAFT_COLS_M1 (R88). -/
def Fld.brTrussStatRaftColsM1 : Fld := ⟨8, 6, .ro, .num 0, keepCtxWatchMoor⟩
/-- BR_TRUSS_STAT.HELD (R88). -/
def Fld.brTrussStatHeld : Fld := ⟨9, 9, .ro, .num 0, keepWatchMoor⟩
/-- BR_TRUSS_STAT.DRAINING (R88). -/
def Fld.brTrussStatDraining : Fld := ⟨10, 10, .ro, .num 0, keepWatchMoor⟩
/-- BR_TRUSS_STAT.GATED (R88). -/
def Fld.brTrussStatGated : Fld := ⟨11, 11, .ro, .num 1, keepWatchMoor⟩
/-- BR_TRUSS_STAT.RAMP_STEP (R88). -/
def Fld.brTrussStatRampStep : Fld := ⟨16, 12, .ro, .num 0, keepWatchMoor⟩
/-- BR_TRUSS_BUSY.ISSUE (R89). -/
def Fld.brTrussBusyIssue : Fld := ⟨47, 0, .rc, .num 0, keepCtxWatchMoor⟩
/-- BR_TRUSS_BUSY.RAMPS (R89). -/
def Fld.brTrussBusyRamps : Fld := ⟨63, 48, .rc, .num 0, keepCtxWatchMoor⟩
/-- BR_TRUSS_STALL.SHADOW (R89). -/
def Fld.brTrussStallShadow : Fld := ⟨31, 0, .rc, .num 0, keepCtxWatchMoor⟩
/-- BR_TRUSS_STALL.FEED (R89). -/
def Fld.brTrussStallFeed : Fld := ⟨63, 32, .rc, .num 0, keepCtxWatchMoor⟩
/-- BR_CONFLICT_REC.BANK (R98). -/
def Fld.brConflictRecBank : Fld := ⟨5, 0, .ro, .num 0, keepCtxWatchMoor⟩
/-- BR_CONFLICT_REC.PORT_X (R98). -/
def Fld.brConflictRecPortX : Fld := ⟨7, 6, .ro, .num 0, keepCtxWatchMoor⟩
/-- BR_CONFLICT_REC.PORT_Y (R98). -/
def Fld.brConflictRecPortY : Fld := ⟨9, 8, .ro, .num 0, keepCtxWatchMoor⟩
/-- BR_CONFLICT_REC.VALID (R98). -/
def Fld.brConflictRecValid : Fld := ⟨10, 10, .w1c, .num 0, keepCtxWatchMoor⟩
/-- BR_CONFLICT_REC.MORE (R98). -/
def Fld.brConflictRecMore : Fld := ⟨11, 11, .w1c, .num 0, keepCtxWatchMoor⟩
/-- BR_CONFLICT_REC.SECTOR_X (R98). -/
def Fld.brConflictRecSectorX : Fld := ⟨31, 12, .ro, .num 0, keepCtxWatchMoor⟩
/-- BR_CONFLICT_REC.SECTOR_Y (R98). -/
def Fld.brConflictRecSectorY : Fld := ⟨51, 32, .ro, .num 0, keepCtxWatchMoor⟩
/-- BR_CONFLICT_REC.CYCLE (R98). -/
def Fld.brConflictRecCycle : Fld := ⟨63, 52, .ro, .num 0, keepCtxWatchMoor⟩
/-- BR_HOLD_PWR.SLICE_ON (R104). -/
def Fld.brHoldPwrSliceOn : Fld := ⟨7, 0, .rw, .fi, keepCtxWatchMoor⟩
/-- BR_HOLD_PWR.SLICE_READY (R104). -/
def Fld.brHoldPwrSliceReady : Fld := ⟨15, 8, .ro, .num 0, keepCtxWatchMoor⟩
/-- BR_JY_CFG.DIALECT (R163). -/
def Fld.brJyCfgDialect : Fld := ⟨1, 0, .ro, .fi, keepCtxWatchMoor⟩
/-- BR_JY_CFG.WIDTH (R163). -/
def Fld.brJyCfgWidth : Fld := ⟨3, 2, .ro, .fi, keepCtxWatchMoor⟩
/-- BR_JY_STAT.STATE_CTX (R163). -/
def Fld.brJyStatStateCtx : Fld := ⟨15, 0, .ro, .num 0xFFFF, keepWatchMoor⟩
/-- BR_JY_STAT.RUNNING (R163). -/
def Fld.brJyStatRunning : Fld := ⟨16, 16, .ro, .num 0, keepWatchMoor⟩
/-- BR_JY_STAT.BENCH_ZEROING (R163). -/
def Fld.brJyStatBenchZeroing : Fld := ⟨17, 17, .ro, .num 0, keepWatchMoor⟩
/-- BR_JY_STAT.BENCH_OWNER (R163). -/
def Fld.brJyStatBenchOwner : Fld := ⟨47, 32, .ro, .num 0xFFFF, keepWatchMoor⟩
/-- BR_JY_STALL.PORTJ (R163). -/
def Fld.brJyStallPortj : Fld := ⟨23, 0, .rc, .num 0, keepCtxWatchMoor⟩
/-- BR_JY_STALL.CHAIN (R163). -/
def Fld.brJyStallChain : Fld := ⟨47, 24, .rc, .num 0, keepCtxWatchMoor⟩
/-- BR_JY_STALL.BENCH (R163). -/
def Fld.brJyStallBench : Fld := ⟨63, 48, .rc, .num 0, keepCtxWatchMoor⟩
/-- BR_JY_BUSY.LANE_CYC (R163). -/
def Fld.brJyBusyLaneCyc : Fld := ⟨47, 0, .rc, .num 0, keepCtxWatchMoor⟩
/-- BR_JY_BUSY.CHAIN_ROWS (R163). -/
def Fld.brJyBusyChainRows : Fld := ⟨63, 48, .rc, .num 0, keepCtxWatchMoor⟩
/-- BR_LATHE_STAT.EPOCH (R182). -/
def Fld.brLatheStatEpoch : Fld := ⟨31, 0, .ro, .num 0, keepCtxQuayWatchAnchorMoorLayup⟩
/-- BR_LATHE_STAT.CUR_BANK (R182). -/
def Fld.brLatheStatCurBank : Fld := ⟨32, 32, .ro, .num 0, keepCtxQuayWatchAnchorMoorLayup⟩
/-- BR_LATHE_STAT.SHADOW_BUSY (R182). -/
def Fld.brLatheStatShadowBusy : Fld := ⟨33, 33, .ro, .num 0, keepWatchMoor⟩
/-- BR_LATHE_STAT.LOADING (R182). -/
def Fld.brLatheStatLoading : Fld := ⟨34, 34, .ro, .num 0, keepWatchMoor⟩
/-- BR_LATHE_STAT.ROM_ID (R182). -/
def Fld.brLatheStatRomId : Fld := ⟨63, 48, .ro, .num 0x0B01, keepAll⟩
/-- BR_LATHE_TALLY.FTZ (R183). -/
def Fld.brLatheTallyFtz : Fld := ⟨23, 0, .rc, .num 0, keepCtxWatchMoor⟩
/-- BR_LATHE_TALLY.DOMAIN (R183). -/
def Fld.brLatheTallyDomain : Fld := ⟨39, 24, .rc, .num 0, keepCtxWatchMoor⟩
/-- BR_LATHE_TALLY.SEAM (R183). -/
def Fld.brLatheTallySeam : Fld := ⟨55, 40, .rc, .num 0, keepCtxWatchMoor⟩
/-- BR_LATHE_TALLY.EPOCH_MIX (R183). -/
def Fld.brLatheTallyEpochMix : Fld := ⟨63, 56, .rc, .num 0, keepCtxWatchMoor⟩
/-- BR_LATHE_STALL.WAIT (R183). -/
def Fld.brLatheStallWait : Fld := ⟨31, 0, .rc, .num 0, keepCtxWatchMoor⟩
/-- BR_LATHE_STALL.BUSY (R183). -/
def Fld.brLatheStallBusy : Fld := ⟨63, 32, .rc, .num 0, keepCtxWatchMoor⟩
/-- BR_SCARF_TALLY.SCORE_SAT (R203). -/
def Fld.brScarfTallyScoreSat : Fld := ⟨23, 0, .rc, .num 0, keepCtxWatchMoor⟩
/-- BR_SCARF_TALLY.EMPTY_ROW (R203). -/
def Fld.brScarfTallyEmptyRow : Fld := ⟨39, 24, .rc, .num 0, keepCtxWatchMoor⟩
/-- BR_SCARF_TALLY.NAN_ROW (R203). -/
def Fld.brScarfTallyNanRow : Fld := ⟨55, 40, .rc, .num 0, keepCtxWatchMoor⟩
/-- BR_SCARF_TALLY.SPAN_PRE (R203). -/
def Fld.brScarfTallySpanPre : Fld := ⟨63, 56, .rc, .num 0, keepCtxWatchMoor⟩
/-- BR_SCARF_STAT.SPAN (R203). -/
def Fld.brScarfStatSpan : Fld := ⟨31, 0, .ro, .num 0, keepWatchMoor⟩
/-- BR_SCARF_STAT.EXP_USED (R203). -/
def Fld.brScarfStatExpUsed : Fld := ⟨47, 32, .ro, .num 0, keepWatchMoor⟩
/-- BR_SCARF_STAT.MODE (R203). -/
def Fld.brScarfStatMode : Fld := ⟨49, 48, .ro, .num 0, keepWatchMoor⟩
/-- BR_SCARF_STAT.ACTIVE (R203). -/
def Fld.brScarfStatActive : Fld := ⟨50, 50, .ro, .num 0, keepWatchMoor⟩
/-- RP_DRAWS.DRAWS (R278). -/
def Fld.rpDrawsDraws : Fld := ⟨39, 0, .rc, .num 0, keepCtxWatchMoor⟩
/-- RP_DRAWS.RESEEDS (R278). -/
def Fld.rpDrawsReseeds : Fld := ⟨47, 40, .rc, .num 0, keepCtxWatchMoor⟩
/-- RP_DRAWS.WAIT (R278). -/
def Fld.rpDrawsWait : Fld := ⟨63, 48, .rc, .num 0, keepCtxWatchMoor⟩
/-- BR_PWR_CTL.MOOR_IDLE (R457). -/
def Fld.brPwrCtlMoorIdle : Fld := ⟨15, 0, .rw, .num 100, keepCtxWatchMoorLayup⟩
/-- BR_PWR_STAT.STATE (R457). -/
def Fld.brPwrStatState : Fld := ⟨1, 0, .ro, .num 1, keepCtxWatchMoorLayup⟩
/-- BR_PWR_STAT.HELD_MOOR (R457). -/
def Fld.brPwrStatHeldMoor : Fld := ⟨2, 2, .w1c, .num 0, keepCtxWatchMoorLayup⟩
/-- BR_PWR_STAT.WAKES (R457). -/
def Fld.brPwrStatWakes : Fld := ⟨31, 8, .rc, .num 0, keepCtxWatchMoorLayup⟩
/-- BR_TEREDO.DEGR (R480). -/
def Fld.brTeredoDegr : Fld := ⟨9, 0, .ro, .num 0, keepCtxWatchMoor⟩
/-- BR_TEREDO.DEMAND (R480). -/
def Fld.brTeredoDemand : Fld := ⟨15, 10, .ro, .num 0, keepCtxWatchMoor⟩
/-- BR_TEREDO.PRED_DAYS (R480). -/
def Fld.brTeredoPredDays : Fld := ⟨31, 16, .ro, .num 65535, keepCtxWatchMoor⟩
/-- BR_TEREDO.MEAS (R480). -/
def Fld.brTeredoMeas : Fld := ⟨63, 32, .ro, .num 0, keepCtxWatchMoor⟩
/-- QY_STAGGER.STAGGER (R87). -/
def Fld.qyStaggerStagger : Fld := ⟨3, 0, .rw, .fi, keepCtxWatchMoorLayup⟩
/-- QY_SHED_PWR.SEG_ON (R104). -/
def Fld.qyShedPwrSegOn : Fld := ⟨17, 0, .rw, .fi, keepCtxWatchMoorLayup⟩
/-- QY_SHED_PWR.SEG_READY (R104). -/
def Fld.qyShedPwrSegReady : Fld := ⟨49, 32, .ro, .num 0, keepCtxWatchMoorLayup⟩
/-- QY_TILE_STAT.COMPUTED (R135). -/
def Fld.qyTileStatComputed : Fld := ⟨31, 0, .rc, .num 0, keepCtxWatchMoorLayup⟩
/-- QY_TILE_STAT.SKIPPED (R135). -/
def Fld.qyTileStatSkipped : Fld := ⟨63, 32, .rc, .num 0, keepCtxWatchMoorLayup⟩
/-- QY_STEAL_STAT.STOLEN_IN (R135). -/
def Fld.qyStealStatStolenIn : Fld := ⟨23, 0, .rc, .num 0, keepCtxWatchMoorLayup⟩
/-- QY_STEAL_STAT.STOLEN_OUT (R135). -/
def Fld.qyStealStatStolenOut : Fld := ⟨47, 24, .rc, .num 0, keepCtxWatchMoorLayup⟩
/-- QY_STEAL_STAT.REFUSED (R135). -/
def Fld.qyStealStatRefused : Fld := ⟨63, 48, .rc, .num 0, keepCtxWatchMoorLayup⟩
/-- QY_CLAIM_BASE.SHARE_START (R135). -/
def Fld.qyClaimBaseShareStart : Fld := ⟨31, 0, .ro, .num 0, keepCtxotherWatchMoorLayup⟩
/-- QY_CLAIM_BASE.TAG (R135). -/
def Fld.qyClaimBaseTag : Fld := ⟨47, 32, .ro, .num 0, keepCtxotherWatchMoorLayup⟩
/-- QY_CLAIM_BASE.CTX (R135). -/
def Fld.qyClaimBaseCtx : Fld := ⟨63, 48, .ro, .num 0, keepCtxotherWatchMoorLayup⟩
/-- QY_CLAIM_SEQ.NEXT (R135). -/
def Fld.qyClaimSeqNext : Fld := ⟨31, 0, .ro, .num 0, keepCtxotherWatchMoorLayup⟩
/-- QY_CLAIM_SEQ.END (R135). -/
def Fld.qyClaimSeqEnd : Fld := ⟨63, 32, .ro, .num 0, keepCtxotherWatchMoorLayup⟩
/-- HM_CLAMP_TALLY.COUNT (R314). -/
def Fld.hmClampTallyCount : Fld := ⟨39, 0, .rc, .num 0, keepCtxPartQuayWatchAnchorMoorLayup⟩
/-- HM_CLAMP_TALLY.LAST_OPC (R314). -/
def Fld.hmClampTallyLastOpc : Fld := ⟨47, 40, .ro, .num 0, keepCtxPartQuayWatchAnchorMoorLayup⟩
/-- HM_CLAMP_TALLY.LAST_CTX (R314). -/
def Fld.hmClampTallyLastCtx : Fld := ⟨63, 48, .ro, .num 0xFFFF, keepCtxPartQuayWatchAnchorMoorLayup⟩
/-- HM_SRAM_ECC.CORRECTED (R314). -/
def Fld.hmSramEccCorrected : Fld := ⟨31, 0, .rc, .num 0, keepCtxPartQuayWatchAnchorMoorLayup⟩
/-- HM_SRAM_ECC.UNCORRECTED (R314). -/
def Fld.hmSramEccUncorrected : Fld := ⟨47, 32, .rc, .num 0, keepCtxPartQuayWatchAnchorMoorLayup⟩
/-- HM_SRAM_ECC.LAST_CTX (R314). -/
def Fld.hmSramEccLastCtx : Fld := ⟨63, 48, .ro, .num 0xFFFF, keepCtxPartQuayWatchAnchorMoorLayup⟩
/-- HM_TEL_CFG.GROUPS (R479). -/
def Fld.hmTelCfgGroups : Fld := ⟨15, 0, .ro, .num 0, keepCtxPartQuayWatchAnchorMoorLayup⟩
/-- HM_TEL_CFG.PERIOD_MS (R479). -/
def Fld.hmTelCfgPeriodMs : Fld := ⟨31, 16, .ro, .num 0, keepCtxPartQuayWatchAnchorMoorLayup⟩
/-- HM_TEL_STAT.PUSHES (R479). -/
def Fld.hmTelStatPushes : Fld := ⟨31, 0, .rc, .num 0, keepCtxPartQuayWatchAnchorMoorLayup⟩
/-- HM_TEL_STAT.SKIPPED (R479). -/
def Fld.hmTelStatSkipped : Fld := ⟨47, 32, .rc, .num 0, keepCtxPartQuayWatchAnchorMoorLayup⟩
/-- HM_ERR_STAT.NEXT_SEQ (R479). -/
def Fld.hmErrStatNextSeq : Fld := ⟨31, 0, .ro, .num 0, keepCtxPartQuayWatchAnchorMoorLayup⟩
/-- HM_ERR_STAT.LOST (R479). -/
def Fld.hmErrStatLost : Fld := ⟨47, 32, .rc, .num 0, keepCtxPartQuayWatchAnchorMoorLayup⟩
/-- HM_STEP_STAT.CTX (R479). -/
def Fld.hmStepStatCtx : Fld := ⟨15, 0, .ro, .num 0xFFFF, keepPartQuayWatchAnchorMoorLayup⟩
/-- HM_STEP_STAT.STEPPING (R479). -/
def Fld.hmStepStatStepping : Fld := ⟨16, 16, .ro, .num 0, keepPartQuayWatchAnchorMoorLayup⟩
/-- HM_STEP_STAT.STEPS (R479). -/
def Fld.hmStepStatSteps : Fld := ⟨47, 32, .rc, .num 0, keepPartQuayWatchAnchorMoorLayup⟩
/-- HM_WQ_CFG.CTX (R313). -/
def Fld.hmWqCfgCtx : Fld := ⟨15, 0, .ro, .fi, keepCtxPartQuayWatchAnchorMoorLayup⟩
/-- HM_WQ_CFG.PRIV (R313). -/
def Fld.hmWqCfgPriv : Fld := ⟨16, 16, .ro, .fi, keepCtxPartQuayWatchAnchorMoorLayup⟩
/-- HM_WQ_CFG.PRIO (R313). -/
def Fld.hmWqCfgPrio : Fld := ⟨20, 18, .ro, .num 0, keepCtxPartQuayWatchAnchorMoorLayup⟩
/-- HM_WQ_CFG.WEIGHT (R313). -/
def Fld.hmWqCfgWeight : Fld := ⟨31, 24, .ro, .num 1, keepCtxPartQuayWatchAnchorMoorLayup⟩
/-- HM_WQ_PTR.HEAD (R313). -/
def Fld.hmWqPtrHead : Fld := ⟨12, 0, .ro, .num 0, keepQuayWatchAnchorMoorLayup⟩
/-- HM_WQ_PTR.TAIL (R313). -/
def Fld.hmWqPtrTail : Fld := ⟨28, 16, .ro, .num 0, keepQuayWatchAnchorMoorLayup⟩
/-- HM_WQ_PTR.INFLIGHT (R313). -/
def Fld.hmWqPtrInflight : Fld := ⟨38, 32, .ro, .num 0, keepQuayWatchAnchorMoorLayup⟩
/-- HM_WQ_DB.TAIL (R313). -/
def Fld.hmWqDbTail : Fld := ⟨12, 0, .wo, .num 0, keepNone⟩
/-- HM_CPL_OVF.SUMMARY (R313). -/
def Fld.hmCplOvfSummary : Fld := ⟨0, 0, .ro, .num 0, keepCtxPartQuayWatchAnchorMoorLayup⟩
/-- HM_CPL_OVF.COUNT (R313). -/
def Fld.hmCplOvfCount : Fld := ⟨31, 8, .ro, .num 0, keepCtxPartQuayWatchAnchorMoorLayup⟩
/-- HM_CPL_OVF.FIRST_ERR (R313). -/
def Fld.hmCplOvfFirstErr : Fld := ⟨39, 32, .ro, .num 0, keepCtxPartQuayWatchAnchorMoorLayup⟩
/-- HM_CPL_OVF.FIRST_ERR_OPC (R313). -/
def Fld.hmCplOvfFirstErrOpc : Fld := ⟨47, 40, .ro, .num 0, keepCtxPartQuayWatchAnchorMoorLayup⟩
/-- HM_CPL_OVF.FIRST_ERR_TAG (R313). -/
def Fld.hmCplOvfFirstErrTag : Fld := ⟨63, 48, .ro, .num 0, keepCtxPartQuayWatchAnchorMoorLayup⟩
/-- HM_CTX_STAT.CTX (R314). -/
def Fld.hmCtxStatCtx : Fld := ⟨15, 0, .ro, .num 0xFFFF, keepCtxPartQuayWatchAnchorMoorLayup⟩
/-- HM_CTX_STAT.PART (R314). -/
def Fld.hmCtxStatPart : Fld := ⟨19, 16, .ro, .num 0, keepCtxPartQuayWatchAnchorMoorLayup⟩
/-- HM_CTX_STAT.PRIO (R314). -/
def Fld.hmCtxStatPrio : Fld := ⟨22, 20, .ro, .num 0, keepCtxPartQuayWatchAnchorMoorLayup⟩
/-- HM_CTX_STAT.STATE (R314). -/
def Fld.hmCtxStatState : Fld := ⟨25, 24, .ro, .num 3, keepCtxPartQuayWatchAnchorMoorLayup⟩
/-- HM_CTX_STAT.INFLIGHT (R314). -/
def Fld.hmCtxStatInflight : Fld := ⟨38, 32, .ro, .num 0, keepQuayWatchAnchorMoorLayup⟩
/-- HM_CTX_STAT.STEPS (R314). -/
def Fld.hmCtxStatSteps : Fld := ⟨63, 48, .rc, .num 0, keepQuayWatchAnchorMoorLayup⟩
/-- HM_CRATE_TALLY.FLUSH (R229). -/
def Fld.hmCrateTallyFlush : Fld := ⟨15, 0, .rc, .num 0, keepCtxQuayWatchAnchorMoorLayup⟩
/-- HM_CRATE_TALLY.EVICT (R229). -/
def Fld.hmCrateTallyEvict : Fld := ⟨31, 16, .rc, .num 0, keepCtxQuayWatchAnchorMoorLayup⟩
/-- HM_CRATE_TALLY.DROP_P (R229). -/
def Fld.hmCrateTallyDropP : Fld := ⟨47, 32, .rc, .num 0, keepCtxQuayWatchAnchorMoorLayup⟩
/-- HM_CRATE_TALLY.REBUILT (R229). -/
def Fld.hmCrateTallyRebuilt : Fld := ⟨63, 48, .rc, .num 0, keepCtxQuayWatchAnchorMoorLayup⟩
/-- HM_CRATE_FAULT.DROPPED_READ (R229). -/
def Fld.hmCrateFaultDroppedRead : Fld := ⟨15, 0, .rc, .num 0, keepCtxQuayWatchAnchorMoorLayup⟩
/-- HM_CRATE_FAULT.MASKED (R229). -/
def Fld.hmCrateFaultMasked : Fld := ⟨39, 16, .rc, .num 0, keepCtxQuayWatchAnchorMoorLayup⟩
/-- HM_CRATE_FAULT.IGNORED (R229). -/
def Fld.hmCrateFaultIgnored : Fld := ⟨55, 40, .rc, .num 0, keepCtxQuayWatchAnchorMoorLayup⟩
/-- HM_CRATE_FAULT.POOL_FULL (R229). -/
def Fld.hmCrateFaultPoolFull : Fld := ⟨63, 56, .rc, .num 0, keepCtxQuayWatchAnchorMoorLayup⟩
/-- HM_POOL_STAT.FREE (R229). -/
def Fld.hmPoolStatFree : Fld := ⟨27, 0, .ro, .num 0, keepCtxotherWatchAnchorMoorLayup⟩
/-- HM_POOL_STAT.QUAR (R229). -/
def Fld.hmPoolStatQuar : Fld := ⟨55, 28, .ro, .num 0, keepCtxotherWatchAnchorMoorLayup⟩
/-- HM_POOL_STAT.VALID (R229). -/
def Fld.hmPoolStatValid : Fld := ⟨56, 56, .ro, .num 0, keepCtxotherWatchAnchorMoorLayup⟩
/-- HM_POOL_STAT.PLACE (R229). -/
def Fld.hmPoolStatPlace : Fld := ⟨59, 57, .ro, .num 0, keepCtxotherWatchAnchorMoorLayup⟩
/-- HM_CTX_CNT.COUNT (R479). -/
def Fld.hmCtxCntCount : Fld := ⟨63, 0, .ro, .num 0, keepCtxPartQuayWatchAnchorMoorLayup⟩
/-- MT_CFG.H_MODE (R344). -/
def Fld.mtCfgHMode : Fld := ⟨0, 0, .ro, .fi, keepCtxPartQuayWatchAnchorMoorLayup⟩
/-- MT_CFG.H_CHANNELS (R344). -/
def Fld.mtCfgHChannels : Fld := ⟨10, 1, .ro, .num 0, keepCtxPartQuayWatchAnchorMoorLayup⟩
/-- MT_CFG.L_CHANNELS (R344). -/
def Fld.mtCfgLChannels : Fld := ⟨17, 11, .ro, .num 0, keepCtxPartQuayWatchAnchorMoorLayup⟩
/-- MT_FLASH_LIFE.PCT_USED (R345). -/
def Fld.mtFlashLifePctUsed : Fld := ⟨7, 0, .ro, .num 0, keepPorModPartQuayCtxWatchAnchorDrydockMoorLayup⟩
/-- MT_FLASH_LIFE.WORN (R345). -/
def Fld.mtFlashLifeWorn : Fld := ⟨8, 8, .ro, .num 0, keepPorModPartQuayCtxWatchAnchorDrydockMoorLayup⟩
/-- MT_FLASH_LIFE.PRED_DAYS (R345). -/
def Fld.mtFlashLifePredDays : Fld := ⟨31, 16, .ro, .num 0, keepPorModPartQuayCtxWatchAnchorDrydockMoorLayup⟩
/-- MT_FLASH_LIFE.WA (R345). -/
def Fld.mtFlashLifeWa : Fld := ⟨47, 32, .ro, .num 0, keepPorModPartQuayCtxWatchAnchorDrydockMoorLayup⟩
/-- MT_FLASH_STAT.RO_MAP (R345). -/
def Fld.mtFlashStatRoMap : Fld := ⟨63, 0, .ro, .num 0, keepPorModPartQuayCtxWatchAnchorDrydockMoorLayup⟩
/-- MT_FLASH_WAIT.GC_WAIT (R345). -/
def Fld.mtFlashWaitGcWait : Fld := ⟨31, 0, .rc, .num 0, keepCtxPartQuayWatchAnchorMoorLayup⟩
/-- MT_HBM_MAPOUT.FUSED (R344). -/
def Fld.mtHbmMapoutFused : Fld := ⟨31, 0, .ro, .num 0, keepAll⟩
/-- MT_HBM_MAPOUT.ACTIVE_OUT (R344). -/
def Fld.mtHbmMapoutActiveOut : Fld := ⟨63, 32, .ro, .num 0, keepCtxPartQuayWatchAnchorMoorLayup⟩
/-- MT_STACK_ECC.CANDIDATE (R344). -/
def Fld.mtStackEccCandidate : Fld := ⟨31, 0, .ro, .num 0, keepCtxPartQuayWatchAnchorMoorLayup⟩
/-- MT_STACK_ECC.CORRECTED (R344). -/
def Fld.mtStackEccCorrected : Fld := ⟨47, 32, .rc, .num 0, keepCtxPartQuayWatchAnchorMoorLayup⟩
/-- MT_STACK_ECC.UNCORRECTED (R344). -/
def Fld.mtStackEccUncorrected : Fld := ⟨63, 48, .rc, .num 0, keepCtxPartQuayWatchAnchorMoorLayup⟩
/-- MT_SCRUB_STAT.PASSES (R344). -/
def Fld.mtScrubStatPasses : Fld := ⟨31, 0, .rc, .num 0, keepCtxPartQuayWatchAnchorMoorLayup⟩
/-- MT_SCRUB_STAT.LAG (R344). -/
def Fld.mtScrubStatLag : Fld := ⟨47, 32, .ro, .num 0, keepCtxPartQuayWatchAnchorMoorLayup⟩
/-- MT_SCRUB_STAT.LATE (R344). -/
def Fld.mtScrubStatLate : Fld := ⟨63, 48, .rc, .num 0, keepCtxPartQuayWatchAnchorMoorLayup⟩
/-- SL_CFG.RATE (R346). -/
def Fld.slCfgRate : Fld := ⟨15, 0, .ro, .fi, keepCtxQuayWatchAnchorMoorLayup⟩
/-- SL_CFG.BURST (R346). -/
def Fld.slCfgBurst : Fld := ⟨31, 16, .ro, .fi, keepCtxQuayWatchAnchorMoorLayup⟩
/-- SL_STAT.ADMITTED (R346). -/
def Fld.slStatAdmitted : Fld := ⟨39, 0, .rc, .num 0, keepCtxQuayWatchAnchorMoorLayup⟩
/-- SL_STAT.WAIT (R346). -/
def Fld.slStatWait : Fld := ⟨63, 40, .rc, .num 0, keepCtxQuayWatchAnchorMoorLayup⟩
/-- LN_CFG.PIN (R378). -/
def Fld.lnCfgPin : Fld := ⟨2, 0, .ro, .fi, keepCtxPartQuayWatchAnchorMoorLayup⟩
/-- LN_CFG.ROLE (R378). -/
def Fld.lnCfgRole : Fld := ⟨4, 3, .ro, .fi, keepCtxPartQuayWatchAnchorMoorLayup⟩
/-- LN_CFG.PARTS (R378). -/
def Fld.lnCfgParts : Fld := ⟨17, 8, .ro, .fi, keepCtxPartQuayWatchAnchorMoorLayup⟩
/-- LN_STAT.STATE (R378). -/
def Fld.lnStatState : Fld := ⟨2, 0, .ro, .num 0, keepCtxPartQuayWatchAnchorMoorLayup⟩
/-- LN_STAT.POINT (R378). -/
def Fld.lnStatPoint : Fld := ⟨5, 3, .ro, .num 0, keepCtxPartQuayWatchAnchorMoorLayup⟩
/-- LN_STAT.LANES (R378). -/
def Fld.lnStatLanes : Fld := ⟨9, 6, .ro, .num 0, keepCtxPartQuayWatchAnchorMoorLayup⟩
/-- LN_STAT.PEER (R378). -/
def Fld.lnStatPeer : Fld := ⟨31, 16, .ro, .num 0xFFFF, keepCtxPartQuayWatchAnchorMoorLayup⟩
/-- LN_STAT.RETRAINS (R378). -/
def Fld.lnStatRetrains : Fld := ⟨47, 32, .rc, .num 0, keepCtxPartQuayWatchAnchorMoorLayup⟩
/-- LN_STAT.DOWNSHIFTS (R378). -/
def Fld.lnStatDownshifts : Fld := ⟨55, 48, .rc, .num 0, keepCtxPartQuayWatchAnchorMoorLayup⟩
/-- LN_ERR.REPLAYS (R378). -/
def Fld.lnErrReplays : Fld := ⟨23, 0, .rc, .num 0, keepCtxPartQuayWatchAnchorMoorLayup⟩
/-- LN_ERR.CRC_ERR (R378). -/
def Fld.lnErrCrcErr : Fld := ⟨43, 24, .rc, .num 0, keepCtxPartQuayWatchAnchorMoorLayup⟩
/-- LN_ERR.FEC_UNCORR (R378). -/
def Fld.lnErrFecUncorr : Fld := ⟨63, 44, .rc, .num 0, keepCtxPartQuayWatchAnchorMoorLayup⟩
/-- LN_OFFSET.OFFSET (R479). -/
def Fld.lnOffsetOffset : Fld := ⟨47, 0, .ro, .num 0, keepCtxPartQuayWatchAnchorMoorLayup⟩
/-- LN_OFFSET.DELAY (R479). -/
def Fld.lnOffsetDelay : Fld := ⟨63, 48, .ro, .num 0, keepCtxPartQuayWatchAnchorMoorLayup⟩
/-- BW_VC_CFG.W3 (R379). -/
def Fld.bwVcCfgW3 : Fld := ⟨3, 0, .rw, .fi, keepCtxPartQuayWatchAnchorMoorLayup⟩
/-- BW_VC_CFG.W4 (R379). -/
def Fld.bwVcCfgW4 : Fld := ⟨7, 4, .rw, .fi, keepCtxPartQuayWatchAnchorMoorLayup⟩
/-- BW_VC_CFG.W5 (R379). -/
def Fld.bwVcCfgW5 : Fld := ⟨11, 8, .rw, .fi, keepCtxPartQuayWatchAnchorMoorLayup⟩
/-- BW_VC_CFG.VC2_CAP (R379). -/
def Fld.bwVcCfgVc2Cap : Fld := ⟨15, 12, .rw, .fi, keepCtxPartQuayWatchAnchorMoorLayup⟩
/-- BW_CL_TALLY.DROPPED (R379). -/
def Fld.bwClTallyDropped : Fld := ⟨23, 0, .rc, .num 0, keepCtxPartQuayWatchAnchorMoorLayup⟩
/-- BW_CL_TALLY.STALE (R379). -/
def Fld.bwClTallyStale : Fld := ⟨39, 24, .rc, .num 0, keepCtxPartQuayWatchAnchorMoorLayup⟩
/-- BW_CL_TALLY.CAPPED (R379). -/
def Fld.bwClTallyCapped : Fld := ⟨63, 40, .rc, .num 0, keepCtxPartQuayWatchAnchorMoorLayup⟩
/-- BW_TWIN_STAT.STATE (R380). -/
def Fld.bwTwinStatState : Fld := ⟨2, 0, .ro, .num 0, keepCtxPartQuayWatchAnchorMoorLayup⟩
/-- BW_TWIN_STAT.MIRRORS (R380). -/
def Fld.bwTwinStatMirrors : Fld := ⟨7, 3, .ro, .num 0, keepCtxPartQuayWatchAnchorMoorLayup⟩
/-- BW_TWIN_STAT.HANDED (R380). -/
def Fld.bwTwinStatHanded : Fld := ⟨23, 8, .ro, .num 0, keepCtxPartQuayWatchAnchorMoorLayup⟩
/-- BW_TWIN_STAT.DIRTY (R380). -/
def Fld.bwTwinStatDirty : Fld := ⟨63, 24, .ro, .num 0, keepCtxPartQuayWatchAnchorMoorLayup⟩
/-- BW_BASIN_STAT.FREE (R379). -/
def Fld.bwBasinStatFree : Fld := ⟨7, 0, .ro, .num 128, keepCtxPartQuayWatchAnchorMoorLayup⟩
/-- BW_BASIN_STAT.MEMPATH (R379). -/
def Fld.bwBasinStatMempath : Fld := ⟨31, 16, .rc, .num 0, keepCtxPartQuayWatchAnchorMoorLayup⟩
/-- BW_GROUP_STAT.GROUP (R379). -/
def Fld.bwGroupStatGroup : Fld := ⟨15, 0, .ro, .num 0, keepCtxotherWatchAnchorMoorLayup⟩
/-- BW_GROUP_STAT.CTX (R379). -/
def Fld.bwGroupStatCtx : Fld := ⟨31, 16, .ro, .num 0xFFFF, keepCtxotherWatchAnchorMoorLayup⟩
/-- BW_GROUP_STAT.STATE (R379). -/
def Fld.bwGroupStatState : Fld := ⟨33, 32, .ro, .num 0, keepCtxotherWatchAnchorMoorLayup⟩
/-- BW_GROUP_EPOCH.EPOCH (R379). -/
def Fld.bwGroupEpochEpoch : Fld := ⟨31, 0, .ro, .num 0, keepCtxotherWatchAnchorMoorLayup⟩
/-- BW_TWIN_HAND.SAVE_BASE (R380). -/
def Fld.bwTwinHandSaveBase : Fld := ⟨47, 0, .ro, .num 0, keepCtxPartQuayWatchAnchorMoorLayup⟩
/-- BW_TWIN_HAND.CTX (R380). -/
def Fld.bwTwinHandCtx : Fld := ⟨63, 48, .ro, .num 0xFFFF, keepCtxPartQuayWatchAnchorMoorLayup⟩
/-- EP_PORT_CFG.MODE (R400). -/
def Fld.epPortCfgMode : Fld := ⟨1, 0, .ro, .fi, keepCtxPartQuayWatchAnchorMoorLayup⟩
/-- EP_PORT_CFG.PFC_PRIO (R400). -/
def Fld.epPortCfgPfcPrio : Fld := ⟨4, 2, .ro, .num 0, keepCtxPartQuayWatchAnchorMoorLayup⟩
/-- EP_PORT_CFG.PFC_EN (R400). -/
def Fld.epPortCfgPfcEn : Fld := ⟨5, 5, .ro, .num 0, keepCtxPartQuayWatchAnchorMoorLayup⟩
/-- EP_PORT_CFG.ECN_EN (R400). -/
def Fld.epPortCfgEcnEn : Fld := ⟨6, 6, .ro, .num 0, keepCtxPartQuayWatchAnchorMoorLayup⟩
/-- EP_PORT_STAT.LINK (R400). -/
def Fld.epPortStatLink : Fld := ⟨0, 0, .ro, .num 0, keepCtxPartQuayWatchAnchorMoorLayup⟩
/-- EP_PORT_STAT.DISCARD (R400). -/
def Fld.epPortStatDiscard : Fld := ⟨31, 8, .rc, .num 0, keepCtxPartQuayWatchAnchorMoorLayup⟩
/-- EP_PORT_STAT.CNP_RX (R400). -/
def Fld.epPortStatCnpRx : Fld := ⟨47, 32, .rc, .num 0, keepCtxPartQuayWatchAnchorMoorLayup⟩
/-- EP_PORT_STAT.PFC_STORM (R400). -/
def Fld.epPortStatPfcStorm : Fld := ⟨55, 48, .rc, .num 0, keepCtxPartQuayWatchAnchorMoorLayup⟩
/-- EP_PTP_CFG.RX_LAT (R401). -/
def Fld.epPtpCfgRxLat : Fld := ⟨15, 0, .rw, .fi, keepCtxPartQuayWatchAnchorMoorLayup⟩
/-- EP_PTP_CFG.TX_LAT (R401). -/
def Fld.epPtpCfgTxLat : Fld := ⟨31, 16, .rw, .fi, keepCtxPartQuayWatchAnchorMoorLayup⟩
/-- EP_PTP_CFG.PPS_MODE (R401). -/
def Fld.epPtpCfgPpsMode : Fld := ⟨33, 32, .rw, .fi, keepCtxPartQuayWatchAnchorMoorLayup⟩
/-- EP_PTP_STAT.OFFSET (R401). -/
def Fld.epPtpStatOffset : Fld := ⟨31, 0, .ro, .num 0, keepCtxPartQuayAnchorMoorLayup⟩
/-- EP_PTP_STAT.LOCKED (R401). -/
def Fld.epPtpStatLocked : Fld := ⟨32, 32, .ro, .num 0, keepCtxPartQuayAnchorMoorLayup⟩
/-- EP_PTP_STAT.PPS_LOST (R401). -/
def Fld.epPtpStatPpsLost : Fld := ⟨33, 33, .ro, .num 0, keepCtxPartQuayAnchorMoorLayup⟩
/-- EP_PPS_TS.EDGE (R401). -/
def Fld.epPpsTsEdge : Fld := ⟨63, 0, .ro, .num 0, keepCtxPartQuayAnchorMoorLayup⟩
/-- EP_QP_STAT.STATE (R401). -/
def Fld.epQpStatState : Fld := ⟨1, 0, .ro, .num 0, keepCtxPartQuayWatchAnchorMoorLayup⟩
/-- EP_QP_STAT.SUBPORT (R401). -/
def Fld.epQpStatSubport : Fld := ⟨4, 2, .ro, .num 0, keepCtxPartQuayWatchAnchorMoorLayup⟩
/-- EP_QP_STAT.CTX (R401). -/
def Fld.epQpStatCtx : Fld := ⟨31, 16, .ro, .num 0xFFFF, keepCtxPartQuayWatchAnchorMoorLayup⟩
/-- EP_QP_STAT.RATE (R401). -/
def Fld.epQpStatRate : Fld := ⟨63, 32, .ro, .num 0, keepCtxPartQuayWatchAnchorMoorLayup⟩
/-- FY_PIPE_STAT.FRAMES (R264). -/
def Fld.fyPipeStatFrames : Fld := ⟨23, 0, .rc, .num 0, keepCtxPartQuayWatchAnchorMoorLayup⟩
/-- FY_PIPE_STAT.RING_HOLD (R264). -/
def Fld.fyPipeStatRingHold : Fld := ⟨47, 24, .rc, .num 0, keepCtxPartQuayWatchAnchorMoorLayup⟩
/-- FY_PIPE_STAT.STREAM (R264). -/
def Fld.fyPipeStatStream : Fld := ⟨55, 48, .ro, .num 0, keepWatchMoorLayup⟩
/-- FY_PIPE_STAT.BUSY (R264). -/
def Fld.fyPipeStatBusy : Fld := ⟨56, 56, .ro, .num 0, keepWatchMoorLayup⟩
/-- FY_PIPE_STAT.SOUND (R264). -/
def Fld.fyPipeStatSound : Fld := ⟨57, 57, .ro, .num 0, keepWatchMoorLayup⟩
/-- FY_STREAM_STAT.STATE (R265). -/
def Fld.fyStreamStatState : Fld := ⟨1, 0, .ro, .num 0, keepCtxotherWatchAnchorMoorLayup⟩
/-- FY_STREAM_STAT.CTX (R265). -/
def Fld.fyStreamStatCtx : Fld := ⟨31, 16, .ro, .num 0, keepCtxotherWatchAnchorMoorLayup⟩
/-- FY_STREAM_STAT.VBV_MISS (R265). -/
def Fld.fyStreamStatVbvMiss : Fld := ⟨47, 32, .rc, .num 0, keepCtxotherWatchAnchorMoorLayup⟩
/-- FY_STREAM_STAT.BS_ERR (R265). -/
def Fld.fyStreamStatBsErr : Fld := ⟨63, 48, .rc, .num 0, keepCtxotherWatchAnchorMoorLayup⟩
/-- RP_SWELL_STAT.STATE (R278). -/
def Fld.rpSwellStatState : Fld := ⟨1, 0, .ro, .num 0, keepCtxPartQuayWatchAnchorMoorLayup⟩
/-- RP_SWELL_STAT.RCT_FAIL (R278). -/
def Fld.rpSwellStatRctFail : Fld := ⟨15, 8, .rc, .num 0, keepCtxPartQuayWatchAnchorMoorLayup⟩
/-- RP_SWELL_STAT.APT_FAIL (R278). -/
def Fld.rpSwellStatAptFail : Fld := ⟨23, 16, .rc, .num 0, keepCtxPartQuayWatchAnchorMoorLayup⟩
/-- RP_SWELL_STAT.WORDS (R278). -/
def Fld.rpSwellStatWords : Fld := ⟨63, 32, .rc, .num 0, keepCtxPartQuayWatchAnchorMoorLayup⟩
/-- RP_SAMPLE_STAT.ROWS (R278). -/
def Fld.rpSampleStatRows : Fld := ⟨31, 0, .rc, .num 0, keepCtxPartQuayWatchAnchorMoorLayup⟩
/-- RP_SAMPLE_STAT.EMPTY (R278). -/
def Fld.rpSampleStatEmpty : Fld := ⟨47, 32, .rc, .num 0, keepCtxPartQuayWatchAnchorMoorLayup⟩
/-- RP_SAMPLE_STAT.NAN_ROWS (R278). -/
def Fld.rpSampleStatNanRows : Fld := ⟨63, 48, .rc, .num 0, keepCtxPartQuayWatchAnchorMoorLayup⟩
/-- WT_MPL.MPL (R456). -/
def Fld.wtMplMpl : Fld := ⟨12, 0, .rw, .fi, keepPartQuayCtxAnchorMoorLayup⟩
/-- WT_MPL.ACLK_MAX (R456). -/
def Fld.wtMplAclkMax : Fld := ⟨25, 16, .rw, .fi, keepPartQuayCtxAnchorMoorLayup⟩
/-- WT_MPL.P_AVG (R456). -/
def Fld.wtMplPAvg : Fld := ⟨44, 32, .ro, .num 0, keepPartQuayCtxAnchorMoorLayup⟩
/-- WT_STATE.MODULE (R456). -/
def Fld.wtStateModule : Fld := ⟨1, 0, .ro, .num 0, keepModPartQuayCtxAnchorDrydockMoorLayup⟩
/-- WT_STATE.WAKE (R456). -/
def Fld.wtStateWake : Fld := ⟨6, 4, .ro, .num 0, keepModPartQuayCtxAnchorDrydockMoorLayup⟩
/-- WT_STATE.RESET_KIND (R456). -/
def Fld.wtStateResetKind : Fld := ⟨10, 8, .ro, .num 0, keepModPartQuayCtxAnchorDrydockMoorLayup⟩
/-- WT_STATE.RESET_SRC (R456). -/
def Fld.wtStateResetSrc : Fld := ⟨14, 12, .ro, .num 0, keepModPartQuayCtxAnchorDrydockMoorLayup⟩
/-- WT_STATE.TRIP (R456). -/
def Fld.wtStateTrip : Fld := ⟨15, 15, .w1c, .num 0, keepModPartQuayCtxAnchorDrydockMoorLayup⟩
/-- WT_LOG_FREEZE.FROZEN (R480). -/
def Fld.wtLogFreezeFrozen : Fld := ⟨0, 0, .ro, .num 0, keepModPartQuayCtxAnchorDrydockMoorLayup⟩
/-- WT_LOG_FREEZE.CAUSE (R480). -/
def Fld.wtLogFreezeCause : Fld := ⟨3, 1, .ro, .num 0, keepModPartQuayCtxAnchorDrydockMoorLayup⟩
/-- WT_LOG_FREEZE.STAT (R480). -/
def Fld.wtLogFreezeStat : Fld := ⟨39, 8, .ro, .num 0, keepModPartQuayCtxAnchorDrydockMoorLayup⟩
/-- WT_LOG_FREEZE.W_LOST (R480). -/
def Fld.wtLogFreezeWLost : Fld := ⟨55, 40, .rc, .num 0, keepModPartQuayCtxAnchorDrydockMoorLayup⟩
/-- WT_PIN_STAT.RST_N (R496). -/
def Fld.wtPinStatRstN : Fld := ⟨0, 0, .ro, .num 0, keepModPartQuayCtxAnchorDrydockMoorLayup⟩
/-- WT_PIN_STAT.WAKE (R496). -/
def Fld.wtPinStatWake : Fld := ⟨1, 1, .ro, .num 0, keepModPartQuayCtxAnchorDrydockMoorLayup⟩
/-- WT_PIN_STAT.FLASH_SVC (R496). -/
def Fld.wtPinStatFlashSvc : Fld := ⟨2, 2, .ro, .num 0, keepModPartQuayCtxAnchorDrydockMoorLayup⟩
/-- WT_PIN_STAT.EN (R496). -/
def Fld.wtPinStatEn : Fld := ⟨4, 3, .ro, .num 0, keepModPartQuayCtxAnchorDrydockMoorLayup⟩
/-- WT_PIN_STAT.FAULT (R496). -/
def Fld.wtPinStatFault : Fld := ⟨5, 5, .ro, .num 0, keepModPartQuayCtxAnchorDrydockMoorLayup⟩
/-- WT_PIN_STAT.VIN_MV (R496). -/
def Fld.wtPinStatVinMv : Fld := ⟨31, 16, .ro, .num 0, keepModPartQuayCtxAnchorDrydockMoorLayup⟩
/-- WT_PIN_STAT.IIN (R496). -/
def Fld.wtPinStatIin : Fld := ⟨47, 32, .ro, .num 0, keepModPartQuayCtxAnchorDrydockMoorLayup⟩
/-- WT_LIMIT.CAP (R456). -/
def Fld.wtLimitCap : Fld := ⟨9, 0, .rw, .num 940, keepPartQuayCtxAnchorMoorLayup⟩
/-- WT_LIMIT.FLOOR (R456). -/
def Fld.wtLimitFloor : Fld := ⟨25, 16, .rw, .num 0, keepPartQuayCtxAnchorMoorLayup⟩
/-- WT_QUAY_CLK.ACLK (R456). -/
def Fld.wtQuayClkAclk : Fld := ⟨9, 0, .ro, .num 0, keepModPartQuayCtxAnchorDrydockMoorLayup⟩
/-- WT_QUAY_CLK.CEILING (R456). -/
def Fld.wtQuayClkCeiling : Fld := ⟨19, 10, .ro, .num 0, keepModPartQuayCtxAnchorDrydockMoorLayup⟩
/-- WT_QUAY_CLK.CAUSE (R456). -/
def Fld.wtQuayClkCause : Fld := ⟨23, 20, .ro, .num 0, keepModPartQuayCtxAnchorDrydockMoorLayup⟩
/-- WT_QUAY_CLK.V_SET (R456). -/
def Fld.wtQuayClkVSet : Fld := ⟨33, 24, .ro, .num 0, keepModPartQuayCtxAnchorDrydockMoorLayup⟩
/-- WT_QUAY_CLK.GUARD (R456). -/
def Fld.wtQuayClkGuard : Fld := ⟨38, 34, .ro, .num 0, keepModPartQuayCtxAnchorDrydockMoorLayup⟩
/-- WT_QUAY_CLK.TJ (R456). -/
def Fld.wtQuayClkTj : Fld := ⟨47, 40, .ro, .num 0, keepModPartQuayCtxAnchorDrydockMoorLayup⟩
/-- WT_LOOP_STAT.FLOOR_SHORT (R456). -/
def Fld.wtLoopStatFloorShort : Fld := ⟨31, 0, .rc, .num 0, keepModPartQuayCtxAnchorDrydockMoorLayup⟩
/-- WT_LOOP_STAT.DROOP (R456). -/
def Fld.wtLoopStatDroop : Fld := ⟨47, 32, .rc, .num 0, keepModPartQuayCtxAnchorDrydockMoorLayup⟩
/-- WT_LOOP_STAT.THERMAL (R456). -/
def Fld.wtLoopStatThermal : Fld := ⟨63, 48, .rc, .num 0, keepModPartQuayCtxAnchorDrydockMoorLayup⟩
/-- WT_SHED_RETAIN.RETAIN (R104). -/
def Fld.wtShedRetainRetain : Fld := ⟨17, 0, .rw, .fi, keepPartQuayCtxAnchorDrydockMoorLayup⟩
/-- WT_TEREDO.DEGR_MAX (R480). -/
def Fld.wtTeredoDegrMax : Fld := ⟨9, 0, .ro, .num 0, keepModPartQuayCtxAnchorDrydockMoorLayup⟩
/-- WT_TEREDO.PRED_DAYS (R480). -/
def Fld.wtTeredoPredDays : Fld := ⟨31, 16, .ro, .num 65535, keepModPartQuayCtxAnchorDrydockMoorLayup⟩
/-- SC_ID0.SERIAL_LO (R429). -/
def Fld.scId0SerialLo : Fld := ⟨63, 0, .ro, .fuse, keepAll⟩
/-- SC_ID1.SERIAL_HI (R429). -/
def Fld.scId1SerialHi : Fld := ⟨63, 0, .ro, .fuse, keepAll⟩
/-- SC_ID2.STEPPING (R429). -/
def Fld.scId2Stepping : Fld := ⟨7, 0, .ro, .num 0xB0, keepAll⟩
/-- SC_ID2.DEVICE (R429). -/
def Fld.scId2Device : Fld := ⟨15, 8, .ro, .num 0x14, keepAll⟩
/-- SC_ID2.OWNER_SET (R429). -/
def Fld.scId2OwnerSet : Fld := ⟨16, 16, .ro, .fuse, keepAll⟩
/-- SC_ID2.REVOKED (R429). -/
def Fld.scId2Revoked : Fld := ⟨20, 17, .ro, .fuse, keepAll⟩
/-- SC_ID2.FW_SVN (R429). -/
def Fld.scId2FwSvn : Fld := ⟨27, 21, .ro, .fuse, keepAll⟩
/-- SC_ID2.FR_SVN (R429). -/
def Fld.scId2FrSvn : Fld := ⟨34, 28, .ro, .fuse, keepAll⟩
/-- SC_BOOT_STAT.FW_SLOT (R429). -/
def Fld.scBootStatFwSlot : Fld := ⟨0, 0, .ro, .num 0, keepCtxPartQuayWatchAnchorMoorLayup⟩
/-- SC_BOOT_STAT.FR_SLOT (R429). -/
def Fld.scBootStatFrSlot : Fld := ⟨1, 1, .ro, .num 0, keepCtxPartQuayWatchAnchorMoorLayup⟩
/-- SC_BOOT_STAT.FW_FALLBACK (R429). -/
def Fld.scBootStatFwFallback : Fld := ⟨2, 2, .ro, .num 0, keepCtxPartQuayWatchAnchorMoorLayup⟩
/-- SC_BOOT_STAT.FR_FALLBACK (R429). -/
def Fld.scBootStatFrFallback : Fld := ⟨3, 3, .ro, .num 0, keepCtxPartQuayWatchAnchorMoorLayup⟩
/-- SC_BOOT_STAT.SAFE (R429). -/
def Fld.scBootStatSafe : Fld := ⟨4, 4, .ro, .num 0, keepCtxPartQuayWatchAnchorMoorLayup⟩
/-- SC_BOOT_STAT.BOOTS (R429). -/
def Fld.scBootStatBoots : Fld := ⟨31, 16, .ro, .num 0, keepModPartQuayCtxAnchorDrydockMoorLayup⟩
/-- SC_BOOT_STAT.BOOT_US (R429). -/
def Fld.scBootStatBootUs : Fld := ⟨63, 32, .ro, .num 0, keepCtxPartQuayWatchAnchorMoorLayup⟩
/-- SC_DEBUG_STAT.LEVELS (R429). -/
def Fld.scDebugStatLevels : Fld := ⟨3, 0, .ro, .num 0, keepCtxPartQuayAnchorMoorLayup⟩
/-- SC_DEBUG_STAT.SEEN (R429). -/
def Fld.scDebugStatSeen : Fld := ⟨4, 4, .ro, .num 0, keepModPartQuayCtxAnchorDrydockMoorLayup⟩
/-- SC_DEBUG_STAT.POLICY (R429). -/
def Fld.scDebugStatPolicy : Fld := ⟨6, 5, .ro, .fi, keepCtxPartQuayAnchorMoorLayup⟩
/-- SC_DEBUG_STAT.FAILS (R429). -/
def Fld.scDebugStatFails : Fld := ⟨9, 8, .ro, .num 0, keepCtxPartQuayAnchorMoorLayup⟩
/-- SC_DEBUG_STAT.LOCKOUT (R429). -/
def Fld.scDebugStatLockout : Fld := ⟨10, 10, .ro, .num 0, keepCtxPartQuayAnchorMoorLayup⟩

/-- The fields of a register, as its table lists them. -/
def Reg.fields : Reg → List Fld
  | .brFmtTally _ => [Fld.brFmtTallySatCount, Fld.brFmtTallyNanCount, Fld.brFmtTallyBm40Sat, Fld.brFmtTallyBm40Ftz]
  | .brRampCtl _ => [Fld.brRampCtlStepsLog2, Fld.brRampCtlStepCyc, Fld.brRampCtlGateIdle, Fld.brRampCtlRampDown]
  | .brTrussStat _ =>
    [Fld.brTrussStatShape, Fld.brTrussStatRaftMember, Fld.brTrussStatRaftLead, Fld.brTrussStatRaftRowsM1,
     Fld.brTrussStatRaftColsM1, Fld.brTrussStatHeld, Fld.brTrussStatDraining, Fld.brTrussStatGated,
     Fld.brTrussStatRampStep]
  | .brTrussBusy _ => [Fld.brTrussBusyIssue, Fld.brTrussBusyRamps]
  | .brTrussStall _ => [Fld.brTrussStallShadow, Fld.brTrussStallFeed]
  | .brConflictRec _ =>
    [Fld.brConflictRecBank, Fld.brConflictRecPortX, Fld.brConflictRecPortY, Fld.brConflictRecValid,
     Fld.brConflictRecMore, Fld.brConflictRecSectorX, Fld.brConflictRecSectorY, Fld.brConflictRecCycle]
  | .brHoldPwr _ => [Fld.brHoldPwrSliceOn, Fld.brHoldPwrSliceReady]
  | .brJyCfg _ => [Fld.brJyCfgDialect, Fld.brJyCfgWidth]
  | .brJyStat _ => [Fld.brJyStatStateCtx, Fld.brJyStatRunning, Fld.brJyStatBenchZeroing, Fld.brJyStatBenchOwner]
  | .brJyStall _ => [Fld.brJyStallPortj, Fld.brJyStallChain, Fld.brJyStallBench]
  | .brJyBusy _ => [Fld.brJyBusyLaneCyc, Fld.brJyBusyChainRows]
  | .brLatheStat _ =>
    [Fld.brLatheStatEpoch, Fld.brLatheStatCurBank, Fld.brLatheStatShadowBusy, Fld.brLatheStatLoading,
     Fld.brLatheStatRomId]
  | .brLatheTally _ => [Fld.brLatheTallyFtz, Fld.brLatheTallyDomain, Fld.brLatheTallySeam, Fld.brLatheTallyEpochMix]
  | .brLatheStall _ => [Fld.brLatheStallWait, Fld.brLatheStallBusy]
  | .brScarfTally _ =>
    [Fld.brScarfTallyScoreSat, Fld.brScarfTallyEmptyRow, Fld.brScarfTallyNanRow, Fld.brScarfTallySpanPre]
  | .brScarfStat _ => [Fld.brScarfStatSpan, Fld.brScarfStatExpUsed, Fld.brScarfStatMode, Fld.brScarfStatActive]
  | .rpDraws _ => [Fld.rpDrawsDraws, Fld.rpDrawsReseeds, Fld.rpDrawsWait]
  | .brPwrCtl _ => [Fld.brPwrCtlMoorIdle]
  | .brPwrStat _ => [Fld.brPwrStatState, Fld.brPwrStatHeldMoor, Fld.brPwrStatWakes]
  | .brTeredo _ => [Fld.brTeredoDegr, Fld.brTeredoDemand, Fld.brTeredoPredDays, Fld.brTeredoMeas]
  | .qyStagger _ => [Fld.qyStaggerStagger]
  | .qyShedPwr _ => [Fld.qyShedPwrSegOn, Fld.qyShedPwrSegReady]
  | .qyTileStat _ => [Fld.qyTileStatComputed, Fld.qyTileStatSkipped]
  | .qyStealStat _ => [Fld.qyStealStatStolenIn, Fld.qyStealStatStolenOut, Fld.qyStealStatRefused]
  | .qyClaimBase _ _ => [Fld.qyClaimBaseShareStart, Fld.qyClaimBaseTag, Fld.qyClaimBaseCtx]
  | .qyClaimSeq _ _ => [Fld.qyClaimSeqNext, Fld.qyClaimSeqEnd]
  | .hmClampTally => [Fld.hmClampTallyCount, Fld.hmClampTallyLastOpc, Fld.hmClampTallyLastCtx]
  | .hmSramEcc => [Fld.hmSramEccCorrected, Fld.hmSramEccUncorrected, Fld.hmSramEccLastCtx]
  | .hmTelCfg => [Fld.hmTelCfgGroups, Fld.hmTelCfgPeriodMs]
  | .hmTelStat => [Fld.hmTelStatPushes, Fld.hmTelStatSkipped]
  | .hmErrStat => [Fld.hmErrStatNextSeq, Fld.hmErrStatLost]
  | .hmStepStat => [Fld.hmStepStatCtx, Fld.hmStepStatStepping, Fld.hmStepStatSteps]
  | .hmWqCfg _ => [Fld.hmWqCfgCtx, Fld.hmWqCfgPriv, Fld.hmWqCfgPrio, Fld.hmWqCfgWeight]
  | .hmWqPtr _ => [Fld.hmWqPtrHead, Fld.hmWqPtrTail, Fld.hmWqPtrInflight]
  | .hmWqDb _ => [Fld.hmWqDbTail]
  | .hmCplOvf _ =>
    [Fld.hmCplOvfSummary, Fld.hmCplOvfCount, Fld.hmCplOvfFirstErr, Fld.hmCplOvfFirstErrOpc, Fld.hmCplOvfFirstErrTag]
  | .hmCtxStat _ =>
    [Fld.hmCtxStatCtx, Fld.hmCtxStatPart, Fld.hmCtxStatPrio, Fld.hmCtxStatState, Fld.hmCtxStatInflight,
     Fld.hmCtxStatSteps]
  | .hmCrateTally _ => [Fld.hmCrateTallyFlush, Fld.hmCrateTallyEvict, Fld.hmCrateTallyDropP, Fld.hmCrateTallyRebuilt]
  | .hmCrateFault _ =>
    [Fld.hmCrateFaultDroppedRead, Fld.hmCrateFaultMasked, Fld.hmCrateFaultIgnored, Fld.hmCrateFaultPoolFull]
  | .hmPoolStat _ => [Fld.hmPoolStatFree, Fld.hmPoolStatQuar, Fld.hmPoolStatValid, Fld.hmPoolStatPlace]
  | .hmCtxCnt _ _ => [Fld.hmCtxCntCount]
  | .mtCfg => [Fld.mtCfgHMode, Fld.mtCfgHChannels, Fld.mtCfgLChannels]
  | .mtFlashLife => [Fld.mtFlashLifePctUsed, Fld.mtFlashLifeWorn, Fld.mtFlashLifePredDays, Fld.mtFlashLifeWa]
  | .mtFlashStat => [Fld.mtFlashStatRoMap]
  | .mtFlashWait => [Fld.mtFlashWaitGcWait]
  | .mtHbmMapout _ => [Fld.mtHbmMapoutFused, Fld.mtHbmMapoutActiveOut]
  | .mtStackEcc _ => [Fld.mtStackEccCandidate, Fld.mtStackEccCorrected, Fld.mtStackEccUncorrected]
  | .mtScrubStat _ => [Fld.mtScrubStatPasses, Fld.mtScrubStatLag, Fld.mtScrubStatLate]
  | .slCfg _ _ => [Fld.slCfgRate, Fld.slCfgBurst]
  | .slStat _ _ => [Fld.slStatAdmitted, Fld.slStatWait]
  | .lnCfg _ => [Fld.lnCfgPin, Fld.lnCfgRole, Fld.lnCfgParts]
  | .lnStat _ =>
    [Fld.lnStatState, Fld.lnStatPoint, Fld.lnStatLanes, Fld.lnStatPeer, Fld.lnStatRetrains, Fld.lnStatDownshifts]
  | .lnErr _ => [Fld.lnErrReplays, Fld.lnErrCrcErr, Fld.lnErrFecUncorr]
  | .lnOffset _ => [Fld.lnOffsetOffset, Fld.lnOffsetDelay]
  | .bwVcCfg => [Fld.bwVcCfgW3, Fld.bwVcCfgW4, Fld.bwVcCfgW5, Fld.bwVcCfgVc2Cap]
  | .bwClTally => [Fld.bwClTallyDropped, Fld.bwClTallyStale, Fld.bwClTallyCapped]
  | .bwTwinStat => [Fld.bwTwinStatState, Fld.bwTwinStatMirrors, Fld.bwTwinStatHanded, Fld.bwTwinStatDirty]
  | .bwBasinStat _ => [Fld.bwBasinStatFree, Fld.bwBasinStatMempath]
  | .bwGroupStat _ => [Fld.bwGroupStatGroup, Fld.bwGroupStatCtx, Fld.bwGroupStatState]
  | .bwGroupEpoch _ => [Fld.bwGroupEpochEpoch]
  | .bwTwinHand _ => [Fld.bwTwinHandSaveBase, Fld.bwTwinHandCtx]
  | .epPortCfg _ => [Fld.epPortCfgMode, Fld.epPortCfgPfcPrio, Fld.epPortCfgPfcEn, Fld.epPortCfgEcnEn]
  | .epPortStat _ => [Fld.epPortStatLink, Fld.epPortStatDiscard, Fld.epPortStatCnpRx, Fld.epPortStatPfcStorm]
  | .epPtpCfg => [Fld.epPtpCfgRxLat, Fld.epPtpCfgTxLat, Fld.epPtpCfgPpsMode]
  | .epPtpStat => [Fld.epPtpStatOffset, Fld.epPtpStatLocked, Fld.epPtpStatPpsLost]
  | .epPpsTs => [Fld.epPpsTsEdge]
  | .epQpStat _ => [Fld.epQpStatState, Fld.epQpStatSubport, Fld.epQpStatCtx, Fld.epQpStatRate]
  | .fyPipeStat _ =>
    [Fld.fyPipeStatFrames, Fld.fyPipeStatRingHold, Fld.fyPipeStatStream, Fld.fyPipeStatBusy, Fld.fyPipeStatSound]
  | .fyStreamStat _ => [Fld.fyStreamStatState, Fld.fyStreamStatCtx, Fld.fyStreamStatVbvMiss, Fld.fyStreamStatBsErr]
  | .rpSwellStat _ => [Fld.rpSwellStatState, Fld.rpSwellStatRctFail, Fld.rpSwellStatAptFail, Fld.rpSwellStatWords]
  | .rpSampleStat => [Fld.rpSampleStatRows, Fld.rpSampleStatEmpty, Fld.rpSampleStatNanRows]
  | .wtMpl => [Fld.wtMplMpl, Fld.wtMplAclkMax, Fld.wtMplPAvg]
  | .wtState => [Fld.wtStateModule, Fld.wtStateWake, Fld.wtStateResetKind, Fld.wtStateResetSrc, Fld.wtStateTrip]
  | .wtLogFreeze => [Fld.wtLogFreezeFrozen, Fld.wtLogFreezeCause, Fld.wtLogFreezeStat, Fld.wtLogFreezeWLost]
  | .wtPinStat =>
    [Fld.wtPinStatRstN, Fld.wtPinStatWake, Fld.wtPinStatFlashSvc, Fld.wtPinStatEn, Fld.wtPinStatFault,
     Fld.wtPinStatVinMv, Fld.wtPinStatIin]
  | .wtLimit _ => [Fld.wtLimitCap, Fld.wtLimitFloor]
  | .wtQuayClk _ =>
    [Fld.wtQuayClkAclk, Fld.wtQuayClkCeiling, Fld.wtQuayClkCause, Fld.wtQuayClkVSet, Fld.wtQuayClkGuard,
     Fld.wtQuayClkTj]
  | .wtLoopStat _ => [Fld.wtLoopStatFloorShort, Fld.wtLoopStatDroop, Fld.wtLoopStatThermal]
  | .wtShedRetain _ => [Fld.wtShedRetainRetain]
  | .wtTeredo _ => [Fld.wtTeredoDegrMax, Fld.wtTeredoPredDays]
  | .scId0 => [Fld.scId0SerialLo]
  | .scId1 => [Fld.scId1SerialHi]
  | .scId2 =>
    [Fld.scId2Stepping, Fld.scId2Device, Fld.scId2OwnerSet, Fld.scId2Revoked, Fld.scId2FwSvn, Fld.scId2FrSvn]
  | .scBootStat =>
    [Fld.scBootStatFwSlot, Fld.scBootStatFrSlot, Fld.scBootStatFwFallback, Fld.scBootStatFrFallback,
     Fld.scBootStatSafe, Fld.scBootStatBoots, Fld.scBootStatBootUs]
  | .scDebugStat =>
    [Fld.scDebugStatLevels, Fld.scDebugStatSeen, Fld.scDebugStatPolicy, Fld.scDebugStatFails,
     Fld.scDebugStatLockout]

/-- The registers of R14, part 1 of its table. -/
def Reg.all1 : List (List Reg) :=
  [(List.range 200).map .brFmtTally,
   (List.range 200).map .brRampCtl,
   (List.range 200).map .brTrussStat,
   (List.range 200).map .brTrussBusy,
   (List.range 200).map .brTrussStall,
   (List.range 200).map .brConflictRec,
   (List.range 200).map .brHoldPwr,
   (List.range 200).map .brJyCfg,
   (List.range 200).map .brJyStat,
   (List.range 200).map .brJyStall,
   (List.range 200).map .brJyBusy,
   (List.range 200).map .brLatheStat]

/-- The registers of R14, part 2 of its table. -/
def Reg.all2 : List (List Reg) :=
  [(List.range 200).map .brLatheTally,
   (List.range 200).map .brLatheStall,
   (List.range 200).map .brScarfTally,
   (List.range 200).map .brScarfStat,
   (List.range 200).map .rpDraws,
   (List.range 200).map .brPwrCtl,
   (List.range 200).map .brPwrStat,
   (List.range 200).map .brTeredo,
   (List.range 10).map .qyStagger,
   (List.range 10).map .qyShedPwr,
   (List.range 10).map .qyTileStat,
   (List.range 10).map .qyStealStat]

/-- The registers of R14, part 3 of its table. -/
def Reg.all3 : List (List Reg) :=
  [((List.range 10).flatMap fun x => (List.range 8).map (.qyClaimBase x)),
   ((List.range 10).flatMap fun x => (List.range 8).map (.qyClaimSeq x)),
   [.hmClampTally],
   [.hmSramEcc],
   [.hmTelCfg],
   [.hmTelStat],
   [.hmErrStat],
   [.hmStepStat],
   (List.range 64).map .hmWqCfg,
   (List.range 64).map .hmWqPtr,
   (List.range 64).map .hmWqDb,
   (List.range 64).map .hmCplOvf]

/-- The registers of R14, part 4 of its table. -/
def Reg.all4 : List (List Reg) :=
  [(List.range 64).map .hmCtxStat,
   (List.range 10).map .hmCrateTally,
   (List.range 10).map .hmCrateFault,
   (List.range 256).map .hmPoolStat,
   ((List.range 64).flatMap fun x => (List.range 16).map (.hmCtxCnt x)),
   [.mtCfg],
   [.mtFlashLife],
   [.mtFlashStat],
   [.mtFlashWait],
   (List.range 20).map .mtHbmMapout,
   (List.range 20).map .mtStackEcc,
   (List.range 4).map .mtScrubStat]

/-- The registers of R14, part 5 of its table. -/
def Reg.all5 : List (List Reg) :=
  [((List.range 11).flatMap fun x => (List.range 3).map (.slCfg x)),
   ((List.range 11).flatMap fun x => (List.range 3).map (.slStat x)),
   (List.range 36).map .lnCfg,
   (List.range 36).map .lnStat,
   (List.range 36).map .lnErr,
   (List.range 36).map .lnOffset,
   [.bwVcCfg],
   [.bwClTally],
   [.bwTwinStat],
   (List.range 2).map .bwBasinStat,
   (List.range 64).map .bwGroupStat,
   (List.range 64).map .bwGroupEpoch]

/-- The registers of R14, part 6 of its table. -/
def Reg.all6 : List (List Reg) :=
  [(List.range 64).map .bwTwinHand,
   (List.range 8).map .epPortCfg,
   (List.range 8).map .epPortStat,
   [.epPtpCfg],
   [.epPtpStat],
   [.epPpsTs],
   (List.range 512).map .epQpStat,
   (List.range 8).map .fyPipeStat,
   (List.range 256).map .fyStreamStat,
   (List.range 2).map .rpSwellStat,
   [.rpSampleStat],
   [.wtMpl]]

/-- The registers of R14, part 7 of its table. -/
def Reg.all7 : List (List Reg) :=
  [[.wtState],
   [.wtLogFreeze],
   [.wtPinStat],
   (List.range 10).map .wtLimit,
   (List.range 10).map .wtQuayClk,
   (List.range 10).map .wtLoopStat,
   (List.range 10).map .wtShedRetain,
   (List.range 10).map .wtTeredo,
   [.scId0],
   [.scId1],
   [.scId2],
   [.scBootStat]]

/-- The registers of R14, part 8 of its table. -/
def Reg.all8 : List (List Reg) :=
  [[.scDebugStat]]

/-- Every register of R14, in the order of its table. -/
def Reg.all : List Reg :=
  List.flatten (Reg.all1 ++ Reg.all2 ++ Reg.all3 ++ Reg.all4 ++ Reg.all5 ++ Reg.all6 ++ Reg.all7 ++ Reg.all8)

end Sys2Proof.Machine
end

