-- ==== Sys2Proof/Machine/Types.lean ====
section
/-!
DEFINITION. The parts of the module's state, as plain data: Manifest entries, Gangways, commands in flight,
contexts, queue pairs, Lines, groups, error and Logbook records, power and boot state.
-/

namespace Sys2Proof.Machine

/-- A Manifest entry (R107). `gen` is maintained by the Harbourmaster and is 1 after POR (R111). -/
structure Entry where
  gen : Nat := 1
  base : Nat := 0
  place : Nat := 0
  valid : Bool := false
  rd : Bool := false
  wr : Bool := false
  fmt : Nat := 0
  sk : Nat := 0
  layout : Nat := 0
  size : Nat := 0
  rows : Nat := 0
  cols : Nat := 0
  pitch : Nat := 0
  axis : Nat := 0
  scaleF32 : Nat := 0
  scaleBase : Nat := 0
  module : Nat := 0
  gangway : Nat := 0
  key : Nat := 0
  param : Nat := 0
deriving DecidableEq, Repr

/-- A Gangway (R113-R116): open with its owner's Manifest slot and context, buffer, permissions, scope and key;
failures counted since it was opened; accepted accesses not yet completed. -/
structure Gangway where
  opened : Bool := false
  slot : Nat := 0
  ctx : Nat := 0xFFFF
  handle : Nat := 0
  base : Nat := 0
  place : Nat := 0
  perm : Nat := 0
  scope : Nat := 0
  module : Nat := 0
  off : Nat := 0
  size : Nat := 0
  key : Nat := 0
  fails : Nat := 0
  closing : Bool := false
deriving DecidableEq, Repr

/-- An access a Gangway has accepted and not yet completed (R116). -/
structure GwPend where
  gw : Nat
  req : GwReq
deriving DecidableEq, Repr

/-- A command in flight: its dispatched copy after clamps, what the dispatch latched (R146, R145, R179, R286), among it
the lengths of its context's Crate streams (R205), by map * 65,536 + stream; and,
once it has started, the Manifest entries it resolved, the slices and segments it may access, the amax + 1 it has to write
into each scalar register (R187), and whether it has read an uncorrectable sector. -/
structure Flight where
  uid : Nat
  cmd : Cmd
  opc : Nat
  slot : Nat
  priv : Bool := false
  inStep : Bool := false
  epochFirst : Nat := 0
  epochLast : Nat := 0
  bank : Nat := 0
  sregs : SMap Word := []
  chains : SMap (List Word) := []
  lens : SMap Nat := []
  handles : List Nat := []
  uses : List Nat := []
  amaxes : SMap Nat := []
  ecc : Bool := false
  resumed : Bool := false
  started : Bool := false
  progress : List Nat := []
deriving DecidableEq, Repr

/-- A command that has ended and whose completion is not yet written (R289). -/
structure Ended where
  fl : Flight
  status : Nat
  result : Nat
  errRec : Bool
deriving DecidableEq, Repr

/-- A batch slot (R298). -/
structure BatchSlot where
  seq : Nat := 0
  state : Nat := 0
  prio : Nat := 0
  row : Nat := 0xFFFF
  tokens : Nat := 0
  steps : Nat := 0
deriving DecidableEq, Repr

/-- An open batch step (R300): its STEP command, body commands still to dispatch, the next body number, patches, and
the counts admitted. -/
structure StepRun where
  fl : Flight
  wq : Nat
  left : Nat
  next : Nat := 0
  patches : List Nat := []
  rows : Nat := 0
  tokens : Nat := 0
  deferred : Nat := 0
deriving DecidableEq, Repr

/-- What the Harbourmaster holds of a resident context beside its registers (R295, R304, R333): its save area, whether it is
ECC-pending, whether a CTX_CLOSE or CTX_EVICT has stopped its dispatch for good, its open step, and its pre-empted commands. -/
structure CtxInfo where
  saveBase : Nat := 0
  eccPending : Bool := false
  closing : Bool := false
  step : Option StepRun := none
  saved : List Flight := []
deriving DecidableEq, Repr

/-- A Sluice's share buckets at its twelve issuing points (Quays 0-9, then HW, HE), whose sum is the level in sectors,
and the sectors waiting at each (R325, R326). -/
structure Sluice where
  shares : List Int := [0, 0, 0, 0, 0, 0, 0, 0, 0, 0, 0, 0]
  waiting : List Nat := [0, 0, 0, 0, 0, 0, 0, 0, 0, 0, 0, 0]
deriving DecidableEq, Repr

/-- An error record (R474) before it has a SEQ. -/
structure ErrRec where
  ts : Word
  code : Nat
  sev : Nat
  status : Nat
  ctx : Nat
  tag : Nat
  opc : Nat
  kind : Nat
  unit : Nat
  d : List Nat
deriving DecidableEq, Repr

/-- A Logbook record (R463). -/
structure LogRec where
  ts : Word
  code : Nat
  status : Nat
  ctx : Nat
  tag : Nat
  arg : Nat
deriving DecidableEq, Repr

/-- Where a message leaves the module. -/
inductive OutPort where
  | subport (p : Nat)
  | line (l : Nat)
  | pin
  | local
deriving DecidableEq, Repr

/-- What a message the module sends is. -/
inductive MsgKind where
  | regData | status
  | rdmaWrite | roceAck | roceNak | readResponse | atomicResponse | cnp | pause
  | arpReply | naReply | icmpReply | ptpDelayReq | notice
  | dataFlit | nak | ackFlit | gangwayResponse | remoteWrite | remoteRead
  | join | broken | ready | chunk | freePosition | staleReply
  | mirror | mirrorAck | twinPair | handover | twinAccept
  | probe | probeReply
  | faultN | readyPin | tdo
deriving DecidableEq, Repr

/-- A message sent by the module: its port, its kind, its numbers and its bytes. The model's own record of output. -/
structure Msg where
  port : OutPort
  kind : MsgKind
  nums : List Nat := []
  data : List Byte := []
deriving DecidableEq, Repr

/-- A queue pair (R387): the fields of QP_CREATE, its PSNs and its rate state (R386) beside EP_QP_STAT. Rates are in
Mb/s; `alpha` is in units of 1/2^32. -/
structure Qp where
  mgmt : Bool := false
  ipv6 : Bool := false
  pmtu : Nat := 0
  destQpn : Nat := 0
  tclass : Nat := 0
  wqMask : Nat := 0
  destIp : Nat := 0
  destMac : Nat := 0
  vlan : Nat := 0
  sqPsn : Nat := 0
  rqPsn : Nat := 0
  retry : Nat := 0
  timeout : Nat := 0
  tries : Nat := 0
  udpSrc : Nat := 0
  wqKey : Nat := 0
  egVa : Nat := 0
  egRkey : Nat := 0
  rt : Nat := 0
  alpha : Nat := 4294967296
  steps : Nat := 0
  cap : Nat := 0
  lastCnp : Option Word := none
  unacked : List Msg := []
deriving DecidableEq, Repr

/-- A completion ring (R391): bound to a QP, or not. -/
structure CqRing where
  qp : Option Nat := none
  ringVa : Nat := 0
  rkey : Nat := 0
  log2 : Nat := 6
  piVa : Nat := 0
  pi : Nat := 0
  ci : Nat := 0
  piSent : Nat := 0
  lastTag : Nat := 0
  lastOpc : Nat := 0
deriving DecidableEq, Repr

/-- A sub-port's settings of PORT_CFG (R383), since when a received pause holds it, and whether that pause is ignored (R385). -/
structure PortInfo where
  ipv4 : Nat := 0
  ipv6 : Nat := 0
  mgmtIpv4 : Nat := 0
  mgmtIpv6 : Nat := 0
  paused : Option Word := none
  stormed : Bool := false
deriving DecidableEq, Repr

/-- A flit a Line has to send or to resend (R349, R351): SEQ once sent, VC, LAST, payload, the command it is sent for, and
the mirror granule it completes. -/
structure TxFlit where
  seq : Nat := 0
  vc : Nat
  last : Bool
  data : List Byte
  uid : Option Nat := none
  granule : Option Nat := none
deriving DecidableEq, Repr

/-- A Line's link layer (R350-R352, R354, R355): sequence numbers, flits received since the last acknowledgement, the
replay buffer, resends of its oldest flit, credits held and owed by VC, receive buffers and transmit queues by VC,
uncorrectable codewords and when they began, deficits of VC3-VC5, VC2 flits in the window that began at a time, and the
LN_CTL commands that wait for its training. -/
structure LineInfo where
  txSeq : Nat := 0
  rxSeq : Nat := 0
  rxSinceAck : Nat := 0
  replay : List TxFlit := []
  resends : Nat := 0
  credits : List Nat := [256, 32, 256, 512, 256, 256, 64, 32]
  owed : List Nat := [0, 0, 0, 0, 0, 0, 0, 0]
  rxBuf : List (List (List Byte)) := [[], [], [], [], [], [], [], []]
  txq : List (List TxFlit) := [[], [], [], [], [], [], [], []]
  uncorr : Nat := 0
  uncorrSince : Word := 0
  deficit : List Nat := [0, 0, 0]
  vc2Window : Word := 0
  vc2Sent : Nat := 0
  rise : Bool := true
  ctl : List Flight := []
deriving DecidableEq, Repr

/-- A DMA through a remote Gangway in progress (R118, R358): it ends when its Line has taken its flits; the destination
bytes that a remote read fills. -/
structure Remote where
  fl : Flight
  fills : List (Nat × Nat) := []
deriving DecidableEq, Repr

/-- A collective group beside its registers (R360-R363). -/
structure Group where
  ranks : List (Nat × Nat) := []
  hash : Nat := 0
  joins : List Nat := []
  waiting : Option Flight := none
  pending : Option Nat := none
deriving DecidableEq, Repr

/-- A registered collective (R364, R365). -/
structure Registration where
  used : Bool := false
  group : Nat := 0
  slot : Nat := 0
  op : Nat := 0
  fmt : Nat := 0
  red : Nat := 0
  order : Nat := 0
  prio : Nat := 0
  nslot : Nat := 1
  root : Nat := 0
  nbytes : Nat := 0
  scratch : Nat := 0
  cap : Nat := 0
  rowBytes : Nat := 0
  slots0 : Nat := 0
  slots1 : Nat := 0
  scratchLen : Nat := 0
  runs : Nat := 0
  closing : Option Flight := none
deriving DecidableEq, Repr

/-- What one rank of this module has gathered of one chunk (R368, R369): the rank, tree, whose data and chunk number; its
running value; the children whose values it holds combined, and those that wait for their turn (position, bytes); and
whether it has gone up. -/
structure Combine where
  rank : Nat
  tree : Nat
  src : Nat
  index : Nat
  acc : List Byte
  seen : List Nat := []
  held : List (Nat × List Byte) := []
  sent : Bool := false
deriving DecidableEq, Repr

/-- A collective run in progress (R367-R371): group index, registration, run number, modules whose READY has arrived, nodes,
chunks each local rank has to send up (rank, chunk), results written (rank, source, chunk), free positions of remote
parents (tree, rank, count), chunks for modules whose READY has not come, and rows dropped. -/
structure ClRun where
  fl : Flight
  group : Nat
  reg : Nat
  run : Nat
  readyFrom : List Nat := []
  nodes : List Combine := []
  todo : List (Nat × Nat) := []
  written : List (Nat × Nat × Nat) := []
  freePos : List (Nat × Nat × Nat) := []
  heldOut : List (Nat × Chunk) := []
  dropped : Nat := 0
deriving DecidableEq, Repr

/-- A mirror range (R373): its owner's slot, handle, harbour range, direction, the address of its bitmap, and the
granules sent and not yet acknowledged. -/
structure Mirror where
  slot : Nat
  handle : Nat
  base : Nat
  size : Nat
  accept : Bool
  bitmap : Nat
  inflight : List Nat := []
deriving DecidableEq, Repr

/-- The Twin beside its registers (R372-R375). -/
structure Twin where
  localPair : Option Flight := none
  peerPair : Bool := false
  mirrors : List Mirror := []
  syncs : List (Flight × List Nat) := []
  detach : Option Flight := none
deriving DecidableEq, Repr

/-- Fuses that commands can blow (R409, R410, R336). The fuses fixed at manufacture are constants of Config. -/
structure Fuses where
  revoked : Nat := 0
  owner : Option (BitVec 384) := none
  fwSvn : Nat := 0
  frSvn : Nat := 0
  mapout : SMap Nat := []
deriving DecidableEq, Repr

/-- Where the boot stands (R413). -/
inductive Phase where
  | held
  | released
  | firmware
  | framed
  | boardwalk
  | trained
  | run
  | anchorEntry
  | anchor
  | drydockEntry
  | drydock
  | off
deriving DecidableEq, Repr

/-- What is known of a verified container: slot, signer, SVN, BUILD and container hash (R421). -/
structure ImageInfo where
  slot : Nat := 0
  signer : Nat := 0
  svn : Nat := 0
  build : Nat := 0
  hash : BitVec 384 := 0
deriving DecidableEq, Repr

/-- Boot and security state beside the registers (R411, R412, R423, R424): the phase; the level of RST_N; whether HE is held under
R412, FLASH_SVC_N is low, and a trip holds FAULT_N low (R486); the boot's kind (0 POR, 1 MOD, 2 DRYDOCK); the boot flash directory
(log entry 6); the images verified, and the framing image's bytes; when the Watch released the boot. -/
structure Boot where
  phase : Phase := .released
  rstN : Bool := true
  heHeld : Bool := false
  svcLow : Bool := false
  tripped : Bool := false
  kind : Nat := 0
  activeFw : Nat := 0
  activeFr : Nat := 0
  pendFw : Option Nat := none
  pendFr : Option Nat := none
  fw : ImageInfo := {}
  fr : ImageInfo := {}
  frBytes : List Byte := []
  released : Word := 0
deriving DecidableEq, Repr

/-- The debug challenge outstanding, and the failures of the hour (R424). -/
structure Debug where
  challenge : Option (BitVec 256) := none
  challengeAt : Word := 0
  expiry : Word := 0
  failTimes : List Word := []
deriving DecidableEq, Repr

/-- A Berth's power transition under way: its target state (R439). -/
structure BerthPower where
  target : Option Nat := none
deriving DecidableEq, Repr

/-- A PW_BERTH in progress: the Berths that have still to reach its state (R452). -/
structure PwWait where
  fl : Flight
  berths : List Nat
  goal : Nat
deriving DecidableEq, Repr

/-- Power and clock state beside the registers (R432-R442, R449, R450): input samples in µW, the last 128; by Quay the steps of 10 MHz
by which the MPL, current, thermal and WATCH-restart ceilings lie below 940 MHz, the points that ageing has removed, and the guard-band,
which is held at 40 mV from a POR until its first measurement; the holds at 400 MHz of a hot die, of a WATCH restart and of a low input;
Quays whose clock is stretched; REFCLK present; the wake timer; EN_A and EN_B low; a wake cause that ends ANCHOR; the PW_STATE
under way; Berths, and the PW_BERTHs that wait for them. -/
structure Power where
  pSamples : List Nat := []
  mplSteps : List Nat := [0, 0, 0, 0, 0, 0, 0, 0, 0, 0]
  curSteps : List Nat := [0, 0, 0, 0, 0, 0, 0, 0, 0, 0]
  thermSteps : List Nat := [0, 0, 0, 0, 0, 0, 0, 0, 0, 0]
  watchSteps : List Nat := [0, 0, 0, 0, 0, 0, 0, 0, 0, 0]
  removed : List Nat := [0, 0, 0, 0, 0, 0, 0, 0, 0, 0]
  guard : List Nat := [16, 16, 16, 16, 16, 16, 16, 16, 16, 16]
  guardPor : Bool := true
  hold110 : Bool := false
  holdWatch : Bool := false
  inputLow : Bool := false
  stretch : List Nat := []
  refclk : Bool := true
  wakeAt : Option Word := none
  enA : Bool := true
  enB : Bool := true
  exitPending : Bool := false
  stateCmd : Option Flight := none
  berths : SMap BerthPower := []
  waits : List PwWait := []
deriving DecidableEq, Repr

/-- The sums of Teredo's straight-line fit of a Berth (R471): measurements, and sums over time in days (units of
10 s) and DEGR. -/
structure Fit where
  n : Nat := 0
  st : Nat := 0
  sd : Nat := 0
  stt : Nat := 0
  std : Nat := 0
  first : Word := 0
deriving DecidableEq, Repr

/-- The telemetry push (R462); `uid` names its messages on a Line. -/
structure TelPush where
  groups : Nat := 0
  period : Nat := 0
  qp : Nat := 0
  va : Nat := 0
  rkey : Nat := 0
  peer : Nat := 0
  slot : Nat := 0
  seq : Nat := 0
  acked : Bool := true
  uid : Option Nat := none
deriving DecidableEq, Repr

/-- A TS_PROBE in progress (R469). -/
structure Probe where
  fl : Flight
  line : Nat
  count : Nat
  sent : List (Nat × Word) := []
  results : List (Nat × Int × Int × Word) := []
  done : Nat := 0
  spoiled : List Nat := []
deriving DecidableEq, Repr

/-- A single step in progress (R467): the DBG_STEP command, the stepped command's uid, queue, opcode and tag, MODE, when it started, the
outcome and status it ended with and when, and its tiles, spans, blocks, instructions and rows completed. -/
structure DbgRun where
  fl : Flight
  target : Nat
  wq : Nat
  opc : Nat
  tag : Nat
  point : Bool
  start : Word
  outcome : Option (Nat × Nat) := none
  stop : Word := 0
  units : Nat := 0
deriving DecidableEq, Repr

/-- Tier F management of a channel (R340): free blocks, good spares, units programmed into the open block, and erase counts of its
blocks. -/
structure FlashChan where
  free : Nat := 18432
  spares : Nat := 2048
  fill : Nat := 0
  erases : SMap Nat := []
deriving DecidableEq, Repr

/-- The memory tiers beside their registers (R316, R331, R333, R335, R337, R340, R341): Tier L channels left out of the active set,
whether the tiers have trained since POR, uncorrectable sectors, those of Tier H with their times, corrected sectors with their times,
the next sector or unit of each scrub pass and when the pass began, the unit in each Tier F LUN's page buffer + 1, mapped units of Tier
F, its channels, bytes written and bytes programmed with their times, the active sets before the last training, and the Sluices. -/
structure Tiers where
  lOut : List Nat := []
  trainedOnce : Bool := false
  badSectors : List Nat := []
  uncorr : List (Nat × Nat × Word) := []
  corr : List (Nat × Word) := []
  scrubPos : List Nat := [0, 0, 0, 0]
  scrubStart : List Word := [0, 0, 0, 0]
  pageBuf : SMap Nat := []
  mapped : SMap Nat := []
  flash : SMap FlashChan := []
  hostProg : List (Word × Nat) := []
  allProg : List (Word × Nat) := []
  prevOutH : SMap Nat := []
  prevOutL : List Nat := []
  sluices : SMap Sluice := []
deriving DecidableEq, Repr

/-- A Crate pool (R207): owner's slot, region handle, address of slot 0, slots, bitmap address and its handle, place of
the region, and the released slots still in quarantine (R208). -/
structure Pool where
  slot : Nat
  handle : Nat
  base : Nat
  n : Nat
  bitmap : Nat
  place : Nat
  quar : List Nat := []
deriving DecidableEq, Repr

/-- A Crate Map (R209, R210): owner's slot, format and head-dimension codes, what a dropped Crate does, initial priority,
flush pool index, streams, table handle and address, tokens per stream, and its four pools. -/
structure CrateMap where
  slot : Nat
  fmt : Nat
  hd : Nat
  mask : Bool
  prio : Nat
  flush : Nat
  nstream : Nat
  table : Nat
  maxlen : Nat
  pools : List Nat
deriving DecidableEq, Repr

/-- A Crate in state MOVING (R216-R218): its source and destination slots, the destination pool, the state to return to
on a fault, and the CRATE_CTL that moves it. -/
structure CrateMove where
  map : Nat
  stream : Nat
  crate : Nat
  src : Nat
  dst : Nat
  pool : Nat
  uid : Nat
deriving DecidableEq, Repr

/-- A load of a Crate or Apron slot that a claim unit of an operation has resolved and not yet completed (R208, R219). -/
structure CrateLoad where
  uid : Nat
  unit : Nat
  addr : Nat
deriving DecidableEq, Repr

/-- A REBUILD in progress (R220): its recipe commands left, the one running, the entries it reserved
(stream, Crate, slot), and the status of a recipe command that faulted. -/
structure Rebuild where
  fl : Flight
  left : List (Nat × Cmd)
  cur : Option Nat
  items : List (Nat × Nat × Nat)
  status : Nat := 0
deriving DecidableEq, Repr

/-- The Crate store (R204-R224): maps, pools, copies and loads in progress, REBUILDs, and the quarantined slots that
allocations wait for (uid, pool, slot). -/
structure Crates where
  maps : SMap CrateMap := []
  pools : SMap Pool := []
  moves : List CrateMove := []
  loads : List CrateLoad := []
  rebuilds : List Rebuild := []
  reserved : List (Nat × Nat × Nat) := []
deriving DecidableEq, Repr

/-- A Swell source beside its register (R266-R268): the word it holds for its consumers, the last raw sample and the
length of its run, the times of its failures, and good blocks of the start-up test in progress. -/
structure Swell where
  word : Option (BitVec 384) := none
  last : Bool := false
  run : Nat := 0
  fails : List Word := []
  blocks : Nat := 0
deriving DecidableEq, Repr

/-- A Ripple (R269-R271): its state, draws since its last reseed, the seed fetched in advance, what RP_MIX has mixed into
it, whether a reseed is due, and whether it has been seeded since its last reset. -/
structure Ripple where
  s : List Word := [0, 0, 0, 0]
  draws : Nat := 0
  seed : Option (BitVec 256) := none
  mix : BitVec 256 := 0
  due : Bool := false
  live : Bool := false
deriving DecidableEq, Repr

/-- Random sources (R266-R271): Swells W and E; Ripples 4g + i of the Berths, 800 and 801 of the sampling unit; RP_MIX
commands with the Ripples they wait for; and the commands that wait for entropy. -/
structure Random where
  swells : List Swell := [{}, {}]
  ripples : SMap Ripple := []
  mixes : List (Flight × List Nat) := []
  waits : List Nat := []
deriving DecidableEq, Repr

/-- The accumulators that DRAIN = 0 passes left in a Truss or Raft (R64, R72): their geometry, FP32 words row-major,
and the TENSOR factors of the last pass's operands. -/
structure Held where
  shape : Nat
  m : Nat
  n : Nat
  raft : Bool
  acc : List Nat
  sa : Option Nat := none
  sb : Option Nat := none
deriving DecidableEq, Repr

/-- A drain of a Truss (R58-R61): the command that owns it, its geometry, the epilogue (its slot's words and the scalars
delivered), the OUT entry with its origin, and the tile's values row-major; the next shadow row; final values
staged under a TILE scale, row-major; the largest |v| stored. -/
structure Drain where
  uid : Nat
  slot : Nat
  shape : Nat
  m : Nat
  n : Nat
  bank : Nat
  chain : List Word
  sregs : SMap Word
  out : Entry
  r0 : Nat
  c0 : Nat
  vals : List Nat
  next : Nat := 0
  staged : List Nat := []
  amax : Nat := 0
deriving DecidableEq, Repr

/-- A Dowel (R155): x and v registers not at 0, masks m0-m3, program counter, ended, waiting at BAR. -/
structure Dowel where
  x : SMap Word := []
  v : SMap (List Nat) := []
  m : List Nat := [0xFFFFFFFF, 0xFFFFFFFF, 0xFFFFFFFF, 0xFFFFFFFF]
  pc : Nat := 0
  ended : Bool := false
  bar : Bool := false
deriving DecidableEq, Repr

/-- A Berth beside its registers (R58-R89, R151-R163): held accumulators; a tile due to swap and one in the shadow bank,
by physical part; the Raft's lead it belongs to; a TRAFT that waits (rows, columns; 0 dissolves); the column step of a
ramp-down under way and the last ramp's start; the JY_RUN it runs, with its program counter, loops (start, remaining),
loops ignored as nested too deep, latch, tiles, predicates and Dowels; what its instruction store holds; the
geometry of the last pass; rows
completed by chains below a unit of 256; whether the run has issued a Truss instruction. -/
structure Berth where
  held : Option Held := none
  due : Option Drain := none
  shadow : Option Drain := none
  lead : Option Nat := none
  raftWait : Option (Nat × Nat) := none
  down : Bool := false
  rampAt : Word := 0
  run : Option Nat := none
  pc : Nat := 0
  loops : List (Nat × Nat) := []
  deep : Nat := 0
  latch : List Word := []
  tiles : SMap (List Nat) := []
  preds : SMap Nat := []
  dowels : SMap Dowel := []
  prog : Option (List Nat) := none
  geom : Nat × Nat × Nat := (0, 256, 256)
  rows : Nat := 0
  truss : Bool := false
deriving DecidableEq, Repr

/-- A range of a tiled operation's sequence in a Quay: its share's start, the next tile and the end (R126-R128, R134). -/
structure ClaimRange where
  start : Nat
  next : Nat
  stop : Nat
deriving DecidableEq, Repr

/-- The parameters of a tiled operation after its clamps (R119-R130, R147, R188-R190, R225, R231, R238): extents of the
product; tile extents; tile rows, columns and splits; shape and Raft of a claim unit; ACC, DROP_LL, SPLIT_MODE, K block limit
and chain; the Hold window's offset and the bytes of one part; the span; blocks of rows and columns of a VEC_OP. -/
structure Job where
  m : Nat := 1
  n : Nat := 1
  k : Nat := 1
  tm : Nat := 1
  tn : Nat := 1
  rows : Nat := 1
  cols : Nat := 1
  s : Nat := 1
  shape : Nat := 0
  rr : Nat := 1
  rc : Nat := 1
  acc : Nat := 0
  drop : Bool := false
  mode : Nat := 0
  kb : Nat := 32
  chain : Nat := 0
  hoff : Nat := 0
  part : Nat := 0
  span : Nat := 256
deriving DecidableEq, Repr

/-- A tiled operation (R119-R134, R147, R189, R225, R236, R238): its command; its kind (0 MM_OP, 1 CONV_OP, 2 SCARF_OP
SINGLE, 3 CHAINED, 4 SOFTMAX, 5 ATTN_BATCH, 6 VEC_OP, 7 RESAMPLE); its parameters; its resolved entries (A and B by rank of
Quay); an ATTN_BATCH's items in order; taking-part Quays by rank; claim units, lead first; stealing; pinning; ranges by Quay,
of which the first is the one in its slot; slots held (Quay, slot); Quays that take no further part; phase; the last tile of
each claim unit, by lead; claim units whose Raft it formed; the status that ends it, and whether it stops claiming. -/
structure TileOp where
  fl : Flight
  kind : Nat
  job : Job
  a : List Entry := []
  b : List Entry := []
  out : Entry := {}
  scr : Option Entry := none
  skip : Option Entry := none
  v : Option Entry := none
  items : List (List Nat) := []
  quays : List Nat
  units : List (List Nat)
  steal : Bool := false
  pin : Nat := 0
  ranges : List (Nat × ClaimRange) := []
  slots : List (Nat × Nat) := []
  retired : List Nat := []
  phase : Nat := 0
  last : SMap (List Nat) := []
  formed : List Nat := []
  status : Nat := 0
  stopping : Bool := false
deriving DecidableEq, Repr

/-- The fields of FY_STREAM that RECONF may not change, after clamps (R245). -/
structure FyFixed where
  decode : Bool
  hevc : Bool
  depth10 : Bool
  max444 : Bool
  subframe : Bool
  width : Nat
  height : Nat
  fpsNum : Nat
  fpsDen : Nat
  refH : Nat
  ringH : Nat
  lookahead : Nat
  gop : Nat
  vbvInit : Nat
  tcols : Nat
  trows : Nat
deriving DecidableEq, Repr

/-- The fields of FY_STREAM that RECONF may change, after clamps (R245, R256). -/
structure FyLive where
  prio : Nat
  egress : Bool
  qp : Nat
  rcMode : Nat
  qual : Nat
  qmin : Nat
  qmax : Nat
  keyint : Nat
  target : Nat
  most : Nat
  vbv : Nat
deriving DecidableEq, Repr

/-- An open Ferry stream (R245-R247, R250): owner's slot; its fields; the state of its codec (log entry 30); frames waiting; the
number of the next coded frame or picture; PTS of the pictures it holds, in display order, each with whether a key frame was asked
for; whether the next coded frame begins a sequence; lengths of egress records in flight; the FY_STREAM that closes it. -/
structure FyStream where
  slot : Nat
  fixed : FyFixed
  live : FyLive
  codec : Nat := 0
  queue : List Flight := []
  frame : Nat := 0
  held : List (Nat × Bool) := []
  fresh : Bool := true
  egressOut : List Nat := []
  closing : Option Flight := none
deriving DecidableEq, Repr

/-- A ring record that waits for room (R249, R250): header fields and payload. -/
structure FyRec where
  kind : Nat
  flags : Nat
  pts : Nat
  frame : Nat
  unit : Nat
  width : Nat
  height : Nat
  q : Nat
  cOff : Nat := 0
  payload : List Byte
deriving DecidableEq, Repr

/-- A Ferry pipe (R247): whether a frame is in it and of which stream, the command to end once its records are written and with
which status, its output buffer, and since when that is full. -/
structure FyPipe where
  busy : Bool := false
  stream : Nat := 0
  fl : Option Flight := none
  status : Nat := 0
  recs : List FyRec := []
  heldAt : Option Word := none
deriving DecidableEq, Repr

/-- A FY_SOUND in progress (R257-R261): its command, its tensors, frames not yet taken, and the blocks found changed. -/
structure Sound where
  fl : Flight
  cur : Entry
  prev : Entry
  left : List Nat
  changed : List Nat := []
deriving DecidableEq, Repr

/-- The Ferry (R241-R265). -/
structure Ferry where
  streams : SMap FyStream := []
  pipes : List FyPipe := [{}, {}, {}, {}, {}, {}, {}, {}]
  sounds : List Sound := []
deriving DecidableEq, Repr

end Sys2Proof.Machine
end

