-- ==== Sys2Proof/Machine/Framing.lean ====
section
/-!
DEFINITION. The framing fields of R406 (ids, ranges, defaults), the current framing values, and what each feeds: the
reset value of every register field whose Reset column reads FI (R10, R402).
-/

namespace Sys2Proof.Machine

/-- The key under which the value of a framing field and INDEX is held. -/
def frKey (id idx : Nat) : Nat := id * 256 + idx

/-- The framing fields of R406 with the number of INDEX values each has (its "Per" column). -/
def frFields : List (Nat × Nat) :=
  [(0x001, 1), (0x002, 1), (0x003, 1), (0x004, 1), (0x005, 2), (0x006, 1), (0x007, 1), (0x008, 1), (0x009, 1),
   (0x00A, 1), (0x00B, 1), (0x00C, 1), (0x00D, 1), (0x00E, 1), (0x00F, 1), (0x010, 1), (0x011, 1), (0x012, 1),
   (0x013, 1)] ++
  [(0x020, 4), (0x030, 36), (0x031, 36), (0x032, 36), (0x040, 10), (0x041, 10), (0x042, 10), (0x043, 10),
   (0x044, 10), (0x045, 10), (0x046, 10), (0x047, 10), (0x048, 11), (0x049, 11), (0x04A, 11), (0x050, 10),
   (0x051, 10), (0x052, 10), (0x053, 10), (0x054, 10), (0x060, 10)]

/-- The number of INDEX values of a framing field; 0 for an ID not in R406. -/
def frCount (id : Nat) : Nat := ((frFields.find? fun p => p.1 == id).map (·.2)).getD 0

/-- The live fields of R406. -/
def frLive : List Nat :=
  [0x005, 0x006, 0x00A, 0x00B, 0x00D, 0x00E, 0x00F, 0x010, 0x011, 0x012, 0x013, 0x032, 0x043, 0x044, 0x048, 0x049,
   0x04A, 0x050, 0x051, 0x052, 0x053, 0x054, 0x060]

/-- The partition fields of R406 (Per P). -/
def frPartition (id : Nat) : Bool :=
  (decide (0x040 ≤ id) && decide (id ≤ 0x047)) || (decide (0x050 ≤ id) && decide (id ≤ 0x054))

/-- The default of a framing field (R406). Sluice defaults with no partition defined and every channel active: RATE 1
and BURST 1 for Sluices 0-9 (R328); 1/64 of the tier's bound and BURST 64 for Sluice 10. Windows: the whole tier. -/
def frDefault (id idx : Nat) : Nat :=
  match id with
  | 0x003 => 1
  | 0x004 => 4094
  | 0x006 => 9000
  | 0x008 => 1500
  | 0x009 => 4200
  | 0x00A => 3800
  | 0x00B => 940
  | 0x00C => 48
  | 0x012 => 0x448
  | 0x013 => 8
  | 0x020 => 1
  | 0x030 => if idx ≥ 34 then 2 else 1
  | 0x031 => 0x3FF
  | 0x032 => 7
  | 0x042 => 2048
  | 0x043 => 0xFF
  | 0x044 => 0x3FFFF
  | 0x045 => 1280 * 2 ^ 32
  | 0x046 => 3072 * 2 ^ 32
  | 0x047 => 16384 * 2 ^ 32
  | 0x048 => if idx = 10 then 625 + 64 * 65536 else 1 + 65536
  | 0x049 => if idx = 10 then 24 + 64 * 65536 else 1 + 65536
  | 0x04A => if idx = 10 then 3 + 64 * 65536 else 1 + 65536
  | 0x050 => 3
  | 0x051 => 6
  | 0x052 => 1024
  | 0x053 => 1
  | 0x054 => 4
  | _ => 0

/-- The current framing value of a field and INDEX (R402); a value not set is the default. -/
def frGet (fr : SMap Nat) (id : Nat) (idx : Nat := 0) : Nat := SMap.get fr (frDefault id idx) (frKey id idx)

/-- Sets a current framing value. -/
def frSet (fr : SMap Nat) (id idx v : Nat) : SMap Nat := SMap.set fr (frDefault id idx) (frKey id idx) v

/-- The Quay mask of a partition (PART_QUAYS). -/
def partMask (fr : SMap Nat) (p : Nat) : Nat := frGet fr 0x040 p

/-- A partition is defined when it holds a Quay (R406). -/
def partDefined (fr : SMap Nat) (p : Nat) : Bool := decide (p < 10) && decide (partMask fr p ≠ 0)

/-- The partition a Quay lies in (R293). -/
def partOfQuay (fr : SMap Nat) (q : Nat) : Option Nat := (List.range 10).find? fun p => (partMask fr p).testBit q

/-- The Quays of a partition, in increasing number. -/
def quaysOf (fr : SMap Nat) (p : Nat) : List Nat := (List.range 10).filter fun q => (partMask fr p).testBit q

/-- A partition of 5-10 Quays is of kind TILE, one of 1-4 of kind BATCH (R293). -/
def partIsTile (fr : SMap Nat) (p : Nat) : Bool := decide ((quaysOf fr p).length ≥ 5)

/-- The value of a partition field for a Quay: its partition's, or the default for a Quay in none (R406). -/
def frQuay (fr : SMap Nat) (id q : Nat) : Nat :=
  match partOfQuay fr q with
  | some p => frGet fr id p
  | none => frDefault id 0

/-- The WIDTH code of BR_JY_CFG for a JOINERY_WIDTH: 0 for 512 lanes, 1 for 1,024, 2 for 2,048. -/
def widthCode (w : Nat) : Nat := if w ≤ 512 then 0 else if w ≤ 1024 then 1 else 2

/-- The framing value that feeds a register field whose Reset column reads FI (R10, R402, R406). -/
def fiValue (fr : SMap Nat) (r : Reg) (f : Fld) : Nat :=
  match r with
  | .brRampCtl g =>
    if f = Fld.brRampCtlStepsLog2 then frQuay fr 0x050 (g / 20)
    else if f = Fld.brRampCtlStepCyc then frQuay fr 0x051 (g / 20)
    else if f = Fld.brRampCtlGateIdle then frQuay fr 0x052 (g / 20)
    else frQuay fr 0x053 (g / 20)
  | .qyStagger q => frQuay fr 0x054 q
  | .brHoldPwr g => frQuay fr 0x043 (g / 20)
  | .qyShedPwr q => frQuay fr 0x044 q
  | .wtShedRetain q => frGet fr 0x060 q
  | .brJyCfg g =>
    if f = Fld.brJyCfgDialect then frQuay fr 0x041 (g / 20) else widthCode (frQuay fr 0x042 (g / 20))
  | .hmWqCfg n =>
    let priv := (frGet fr 0x003).testBit n
    if f = Fld.hmWqCfgCtx then (if priv then 0xFFFE else 0xFFFF) else (if priv then 1 else 0)
  | .mtCfg => frGet fr 0x002
  | .slCfg i t =>
    let v := frGet fr (0x048 + t) i
    if f = Fld.slCfgRate then v % 65536 else v / 65536 % 65536
  | .lnCfg l =>
    if f = Fld.lnCfgPin then frGet fr 0x032 l
    else if f = Fld.lnCfgRole then frGet fr 0x030 l
    else frGet fr 0x031 l
  | .bwVcCfg =>
    if f = Fld.bwVcCfgVc2Cap then frGet fr 0x013 % 16 else frGet fr 0x012 / 2 ^ f.lo % 16
  | .epPortCfg p => frGet fr 0x020 (p / 2)
  | .epPtpCfg =>
    if f = Fld.epPtpCfgRxLat then frGet fr 0x00F
    else if f = Fld.epPtpCfgTxLat then frGet fr 0x010
    else frGet fr 0x011
  | .scDebugStat => frGet fr 0x007
  | .wtMpl => if f = Fld.wtMplMpl then frGet fr 0x00A else frGet fr 0x00B
  | _ => 0

/-- A field's reset value as a number: the Reset column's number, the framing value, or for a fuse-backed field 0 (no
reset writes it). -/
def Fld.resetVal (fr : SMap Nat) (r : Reg) (f : Fld) : Nat :=
  match f.rst with
  | .num n => n
  | .fi => fiValue fr r f
  | .fuse => 0

/-- The word of a register with every field at its reset value (R10). -/
def Reg.resetWord (fr : SMap Nat) (r : Reg) : Word :=
  BitVec.ofNat 64 (r.fields.foldl (fun w f => putBits w f.hi f.lo (f.resetVal fr r)) 0)

/-- What an unlisted register holds: its reset word under the framing defaults. -/
def Reg.dflt (r : Reg) : Word := r.resetWord []

end Sys2Proof.Machine
end

