-- ==== Sys2Proof/Machine/State.lean ====
section
/-!
DEFINITION. The module's state as plain data, the reasons a step can stop, and the state right after reset.
-/

namespace Sys2Proof.Machine

/-- The Boardwalk (R24, R29): modules left out of each link, links whose retraining failed, absent Quays, and whether
a lost link requires a MOD reset. -/
structure Boardwalk where
  out : List (Nat × Nat) := []
  retried : List Nat := []
  absent : List Nat := []
  modRequired : Bool := false
deriving DecidableEq, Repr

/-- The Harbourmaster beside its registers (R284-R303): commands in flight in dispatch order, commands ended in
completion order, round-robin state (of queues, and of contexts' steps by
partition), body commands of a step without rows still to skip by queue (R300), contexts by slot (64 is the management context), scalar registers, batch
tables, chain slots, waiting SREG_WAITs, SREG_WAITs returned to their queues undispatched (R304), commands that wait for a context's
pre-emption (with its slot), and whether an SRAM error has stopped the core. -/
structure Harbour where
  nextUid : Nat := 0
  flights : List Flight := []
  ended : List Ended := []
  rrUsed : SMap Nat := []
  rrLast : Nat := 63
  stepLast : SMap Nat := []
  skips : SMap Nat := []
  ctxs : SMap CtxInfo := []
  sregs : SMap Word := []
  batch : SMap BatchSlot := []
  chains : SMap (List Word) := []
  waits : List (Flight × Word) := []
  returned : List Flight := []
  halting : List (Flight × Nat) := []
  sramDead : Bool := false
deriving DecidableEq, Repr

/-- Manifests by slot · 1,024 + index (R106), MF_UNBINDs and MF_BINDs that wait, by entry index, in order (R112), allotment (context slot + 1 of
each Hold slice and Shed segment, R102), zeroing under way and the commands waiting for it (R105), power changes
awaited and under way (R103), frame counters (R94), Gangways, their accepted accesses, and GW_CLOSEs that wait (R113-R116). -/
structure Store where
  manifest : SMap Entry := []
  ents : List (Flight × Nat) := []
  allot : SMap Nat := []
  zeroing : List Nat := []
  zeroWait : List (Flight × List Nat) := []
  powerPend : List Nat := []
  powering : List Nat := []
  frameCtr : SMap Nat := []
  gws : SMap Gangway := []
  gwPend : List GwPend := []
  gwWait : List (Flight × Nat) := []
deriving DecidableEq, Repr

/-- Ethernet beside its registers (R381-R397): queue pairs, completion rings by queue, sub-ports, and the servo's
frequency correction in parts per billion and its PPS state. -/
structure Ether where
  qps : SMap Qp := []
  cqs : SMap CqRing := []
  ports : SMap PortInfo := []
  slew : Int := 0
  ppsCount : Nat := 0
  ppsLast : Word := 0
deriving DecidableEq, Repr

/-- Lines, Breakwater and Twin beside their registers (R347-R375): link layers, DMA through remote Gangways, groups by
table index, JOINs, READYs and free positions that came before their group or run (peer and fields), registrations, runs, the Twin. -/
structure Lines where
  lines : SMap LineInfo := []
  remote : List Remote := []
  joinsIn : List (List Nat) := []
  readyIn : List (List Nat) := []
  posIn : List (List Nat) := []
  groups : SMap Group := []
  colls : SMap Registration := []
  runs : List ClRun := []
  twin : Twin := {}
deriving DecidableEq, Repr

/-- Telemetry and debug beside their registers (R458-R477): Teredo fits, the push, a clock probe, a single step, error
records pending at their units and in the two rings, and Logbooks. -/
structure Tele where
  fits : SMap Fit := []
  push : TelPush := {}
  probe : Option Probe := none
  dbg : Option DbgRun := none
  errPend : SMap (List ErrRec) := []
  errMain : List (Nat × ErrRec) := []
  errWatch : List (Nat × ErrRec) := []
  watchSeq : Nat := 0
  logs : SMap (List LogRec) := []
deriving DecidableEq, Repr

/-- Everything the module holds but its fuses and the queue of waiting commands: the timestamp counter (R431); the
model's own count of free values drawn and record of output; registers not at their default word, by address;
bytes written, by address, and what a region's unwritten bytes read as (0 for +0, e + 1 for undefined since epoch e);
ranges of bytes that a command left undefined, as (first, length, epoch); the current framing values that differ from
their defaults (R402); and the blocks: Berths by global id, tiled operations in dispatch order, JIG_LOADs that wait. -/
structure Body where
  ts : Word := 0
  freeCtr : Nat := 0
  out : List Msg := []
  regs : SMap Word := []
  mem : SMap Byte := []
  bg : SMap Nat := []
  epoch : Nat := 0
  haze : List (Nat × Nat × Nat) := []
  framing : SMap Nat := []
  bw : Boardwalk := {}
  hm : Harbour := {}
  st : Store := {}
  eth : Ether := {}
  ln : Lines := {}
  boot : Boot := {}
  unlock : Debug := {}
  power : Power := {}
  tele : Tele := {}
  tiers : Tiers := {}
  crates : Crates := {}
  rnd : Random := {}
  berths : SMap Berth := []
  ops : List TileOp := []
  jigs : List Flight := []
  ferry : Ferry := {}
deriving DecidableEq, Repr

/-- The machine's state: the waiting commands (the block's queue), the fuses, and everything else. -/
structure State where
  pending : List Instr
  fuse : Fuses
  body : Body
deriving DecidableEq, Repr

/-- Faults that stop the model. The spec's own command faults are effects on the state (a status, an error record), so
no fault stops a run. -/
inductive Fault where
  /-- Raised by nothing at present; kept for an access outside every address the spec gives. Safe: it stops. -/
  | noSuchAddress
deriving DecidableEq, Repr

/-- Refusals. -/
inductive Refusal where
  /-- Raised by an arm of `exec` whose command has no meaning yet. Safe: it stops. -/
  | notModelled (mnemonic : String)
  /-- Raised by a scan access while the SCAN level is in force: the spec does not say what it does. Safe: it stops. -/
  | scanUnspecified
deriving DecidableEq, Repr

/-- The issuing points of a Sluice (R326): its partition's Quays and the harbour dies 10 (HW) and 11 (HE); for Sluice 10, all. -/
def sluicePoints (fr : SMap Nat) (i : Nat) : List Nat :=
  if i < 10 then quaysOf fr i ++ [10, 11] else List.range 12

/-- Shares `n` among points: equally, the remainder one each from the first (log entry 42). -/
def shareOut (points : List Nat) (n : Nat) : List Int :=
  (List.range 12).map fun p =>
    match points.findIdx? (· = p) with
    | some k => ((n / points.length + (if k < n % points.length then 1 else 0) : Nat) : Int)
    | none => 0

/-- A Sluice whose level is full (R325, R342). -/
def fullSluice (fr : SMap Nat) (i burst : Nat) : Sluice := { shares := shareOut (sluicePoints fr i) (burst * 1024) }

/-- The Sluices at reset: full, at the framing defaults (R342). -/
def resetSluices : SMap Sluice :=
  (List.range 33).map fun k => (k, fullSluice [] (k / 3) (frDefault (0x048 + k % 3) (k / 3) / 65536))

/-- The machine right after reset: the POR release of R413, every register at its Reset column with the framing
defaults, memory with nothing listed, Sluices full, no command waiting. -/
def State.reset : State := { pending := [], fuse := {}, body := { tiers := { sluices := resetSluices } } }

end Sys2Proof.Machine
end

