-- ==== Sys2Proof/Machine/Ops.lean ====
section
/-!
DEFINITION. The named operations on the state: registers, memory, free values, Logbooks and error records, messages,
Manifest resolution, and the life of a command from its dispatch checks to its end.
-/

namespace Sys2Proof

/-! ### Descriptors -/

/-- Word `i` of a descriptor (word 0 is the header). -/
def Cmd.w (c : Cmd) (i : Nat) : Word := c.words.getD (i - 1) 0

/-- Bits `[hi:lo]` of word `i`. -/
def Cmd.f (c : Cmd) (i hi lo : Nat) : Nat := (c.w i).fld hi lo

/-- Bit `k` of word `i`. -/
def Cmd.b (c : Cmd) (i k : Nat) : Bool := (c.w i).bit k

/-- The handle in bits [63:38] of word `i`. -/
def Cmd.h (c : Cmd) (i : Nat) : Nat := (c.w i).fld 63 38

end Sys2Proof

namespace Sys2Proof.Machine

/-! ### Outcomes -/

/-- A command whose effect is on everything but the fuses and the queue. -/
def State.onBody (s : State) (f : Body → Body) : Host.Outcome State Fault Refusal :=
  .next { s with body := f s.body }

/-! ### Registers -/

/-- The word of a register as it stands. The serial number is a fuse, which no reset changes (R10). -/
def Body.reg (b : Body) (r : Reg) : Word :=
  match r with
  | .scId0 => Config.serial.setWidth 64
  | .scId1 => (Config.serial >>> 64).setWidth 64
  | r => SMap.get b.regs r.dflt r.addr

/-- Stores the word of a register; one that R14 does not list is not stored. -/
def Body.setReg (b : Body) (r : Reg) (w : Word) : Body :=
  if r.ok then { b with regs := SMap.set b.regs r.dflt r.addr w } else b

/-- The value of a register field. -/
def Body.getF (b : Body) (r : Reg) (f : Fld) : Nat := (b.reg r).fld f.hi f.lo

/-- A one-bit register field as a truth value. -/
def Body.flag (b : Body) (r : Reg) (f : Fld) : Bool := decide (b.getF r f ≠ 0)

/-- The timestamp counter. -/
def Body.now (b : Body) : Nat := b.ts.toNat

/-- Sets a register field. -/
def Body.setF (b : Body) (r : Reg) (f : Fld) (v : Nat) : Body :=
  b.setReg r (BitVec.ofNat 64 (putBits (b.reg r).toNat f.hi f.lo v))

/-- Adds to a counter field, which saturates at its maximum. -/
def Body.bump (b : Body) (r : Reg) (f : Fld) (n : Nat) : Body :=
  b.setF r f (min (b.getF r f + n) (2 ^ f.width - 1))

/-! ### Free values and output -/

/-- Draws a free value (log entry 3). -/
def Body.free (b : Body) : Word × Body := (Config.freeBits b.freeCtr, { b with freeCtr := b.freeCtr + 1 })

/-- Sends a message. -/
def Body.send (b : Body) (m : Msg) : Body := { b with out := b.out ++ [m] }

/-! ### Byte memory -/

/-- Where the model numbers the bytes that lie outside the harbour address space: Benches, instruction stores, the boot
flash. -/
def benchBase (g : Nat) : Nat := 0x10000000000000 + g * 0x100000

/-- The first byte of a Berth's instruction store. -/
def storeBase (g : Nat) : Nat := 0x20000000000000 + g * 0x10000

/-- The first byte of table bank `k` of a partition (R172, R180): the Harbourmaster's copy, which every Berth's bank equals
(log entry 22). -/
def jigBase (p k : Nat) : Nat := 0x30000000000000 + p * 0x40000 + k * 0x20000

/-- The first byte of the boot flash. -/
def flashBase : Nat := 0x40000000000000

/-- The first byte of Tier L. -/
def tierLBase : Nat := 0x100000000000

/-- The first byte of Tier F. -/
def tierFBase : Nat := 0x200000000000

/-- The harbour address of byte `x` of the Shed of a Quay (R92). -/
def shedAddr (q x : Nat) : Nat := 0x400000000000 + q * 0x200000000 + x

/-- The harbour address of byte `x` of the Hold of a global Berth (R92). -/
def holdAddr (g x : Nat) : Nat := 0x410000000000 + g / 20 * 0x100000000 + g % 20 * 0x4000000 + x

/-- The window of a work queue (R389), where its ring's bytes lie. -/
def wqBase (n : Nat) : Nat := 0x7F1000000000 + n * 0x100000

/-- The region of an address, for what its unwritten bytes read as: Hold slice 8g + i, Shed segment 1,600 + 18q + s,
1,780 Tier H, 1,781 Tier L, 1,782 Tier F, 1,783 queue rings, 1,800 + g Benches, 2,000 + g instruction stores, 2,200 the
boot flash, 2,201 Jig banks, 2,300 none. -/
def regionOf (a : Nat) : Nat :=
  if a < tierLBase then 1780
  else if a < tierFBase then 1781
  else if a < 0x300000000000 then 1782
  else if 0x400000000000 ≤ a ∧ a < 0x410000000000 then
    1600 + 18 * ((a - 0x400000000000) / 0x200000000) + (a - 0x400000000000) % 0x200000000 / 0x10000000
  else if 0x410000000000 ≤ a ∧ a < 0x420000000000 then
    8 * (20 * ((a - 0x410000000000) / 0x100000000) + (a - 0x410000000000) % 0x100000000 / 0x4000000) +
      (a - 0x410000000000) % 0x4000000 / 0x400000
  else if 0x7F1000000000 ≤ a ∧ a < 0x7F2000000000 then 1783
  else if benchBase 0 ≤ a ∧ a < benchBase 200 then 1800 + (a - benchBase 0) / 0x100000
  else if storeBase 0 ≤ a ∧ a < storeBase 200 then 2000 + (a - storeBase 0) / 0x10000
  else if flashBase ≤ a ∧ a < flashBase + 0x4000000 then 2200
  else if jigBase 0 0 ≤ a ∧ a < jigBase 10 0 then 2201
  else 2300

/-- What the unwritten bytes of a region read as at reset: +0 in Tier F (R337) and in the Jig banks, whose every Jig has
VALID 0 (R180), undefined elsewhere (R105, R342). -/
def bgDflt (r : Nat) : Nat := if r = 1782 ∨ r = 2201 then 0 else 1

/-- The background code of a region: 0 reads +0, e + 1 is undefined since epoch e. -/
def Body.bgOf (b : Body) (r : Nat) : Nat := SMap.get b.bg (bgDflt r) r

/-- What the unwritten byte at an address reads as: the epoch + 1 of the last command that left it undefined, else its
region's code. A range left undefined lies in one region. -/
def Body.codeAt (b : Body) (a : Nat) : Nat :=
  match b.haze.find? fun h => decide (h.1 ≤ a ∧ a < h.1 + h.2.1 ∧ regionOf h.1 = regionOf a) with
  | some h => h.2.2 + 1
  | none => b.bgOf (regionOf a)

/-- The byte at an address. An unwritten byte reads +0 in a zeroed region and is undefined in any other (log entry 4). -/
def Body.byte (b : Body) (a : Nat) : Byte :=
  match SMap.find b.mem a with
  | some v => v
  | none =>
    match b.codeAt a with
    | 0 => 0
    | e + 1 => Config.undefByte e a

/-- Writes a byte; +0 in a zeroed region is not listed. -/
def Body.setByte (b : Body) (a : Nat) (v : Byte) : Body :=
  if b.codeAt a = 0 ∧ v = 0 then { b with mem := SMap.drop b.mem a }
  else { b with mem := SMap.put b.mem a v }

/-- Reads `n` bytes. -/
def Body.bytes (b : Body) (a : Nat) : Nat → List Byte
  | 0 => []
  | n + 1 => b.byte a :: Body.bytes b (a + 1) n

/-- Writes bytes from an address upward. -/
def Body.setBytes (b : Body) (a : Nat) : List Byte → Body
  | [] => b
  | v :: r => Body.setBytes (b.setByte a v) (a + 1) r

/-- The little-endian number of `n` bytes at an address. -/
def Body.le (b : Body) (a n : Nat) : Nat := ofLe (b.bytes a n)

/-- Writes a number as `n` little-endian bytes. -/
def Body.setLe (b : Body) (a n v : Nat) : Body := b.setBytes a (leBytes n v)

/-- The canonical form of memory: addresses strictly rising, and no +0 listed in a zeroed region. -/
def Body.memWf (b : Body) : Bool :=
  SMap.rising none b.mem && b.mem.all fun p => !(decide (b.codeAt p.1 = 0) && decide (p.2 = 0))

/-- Unlists every byte of a region and sets what they read as. -/
def Body.setBg (b : Body) (r code : Nat) : Body :=
  { b with
    mem := b.mem.filter (fun p => decide (regionOf p.1 ≠ r)),
    haze := b.haze.filter (fun h => decide (regionOf h.1 ≠ r)),
    bg := SMap.set b.bg (bgDflt r) r code }

/-- Makes `n` bytes of one region undefined. -/
def Body.blurPart (b : Body) (a n : Nat) : Body :=
  { b with
    mem := SMap.clearRange b.mem a (a + n),
    haze := (a, n, b.epoch + 1) :: b.haze.filter (fun h => !(decide (a ≤ h.1) && decide (h.1 + h.2.1 ≤ a + n))),
    epoch := b.epoch + 1 }

/-- Makes a range of bytes undefined, a piece for each slice or segment it meets. -/
def Body.blur (b : Body) (a n : Nat) : Body :=
  if n = 0 then b
  else
    (List.range ((a + n - 1) / 0x400000 + 1 - a / 0x400000)).foldl (fun b i =>
      let lo := max a ((a / 0x400000 + i) * 0x400000)
      let hi := min (a + n) ((a / 0x400000 + i + 1) * 0x400000)
      b.blurPart lo (hi - lo)) b

/-- Zeroes a region (R105). -/
def Body.zeroRegion (b : Body) (r : Nat) : Body := b.setBg r 0

/-- Makes the contents of a region undefined (R105, R342). -/
def Body.loseRegion (b : Body) (r : Nat) : Body :=
  { b.setBg r (b.epoch + 2) with epoch := b.epoch + 1 }

/-! ### Which addresses resolve (R90, R92, R99, R103, R317-R321) -/

/-- A slice or segment is powered and ready (R103). -/
def Body.regionReady (b : Body) (r : Nat) : Bool :=
  if r < 1600 then (b.reg (.brHoldPwr (r / 8))).bit (8 + r % 8)
  else if r < 1780 then (b.reg (.qyShedPwr ((r - 1600) / 18))).bit (32 + (r - 1600) % 18)
  else true

/-- Active Tier H channels of the stacks of a Quay (R319). -/
def Body.quayChannels (b : Body) (q : Nat) : Nat :=
  if b.getF .mtCfg Fld.mtCfgHChannels = 0 then 0
  else
    ([2 * q, 2 * q + 1].map fun s =>
      32 - ((List.range 32).filter fun c => (b.reg (.mtHbmMapout s)).bit (32 + c)).length).sum

/-- The place an address lies in: 0 Hold, 1 Shed, 2 Tier H, 3 Tier L, 4 Tier F (R107), none where it does not resolve. -/
def Body.placeOf (b : Body) (a : Nat) : Option Nat :=
  if a < tierLBase then
    if b.getF .mtCfg Fld.mtCfgHMode = 0 then
      if a < b.getF .mtCfg Fld.mtCfgHChannels * 0x80000000 then some 2 else none
    else if a / 0x2000000000 < 10 ∧ a % 0x2000000000 < b.quayChannels (a / 0x2000000000) * 0x80000000 then some 2
    else none
  else if a < tierFBase then
    if a - tierLBase < b.getF .mtCfg Fld.mtCfgLChannels * 0x800000000 then some 3 else none
  else if a < 0x300000000000 then
    if a - tierFBase < 0x100000000000 ∧ b.boot.phase ≠ .off then some 4 else none
  else if 0x400000000000 ≤ a ∧ a < 0x410000000000 then
    if (a - 0x400000000000) / 0x200000000 < 10 ∧ (a - 0x400000000000) % 0x200000000 < 0x120000000 then some 1 else none
  else if 0x410000000000 ≤ a ∧ a < 0x420000000000 then
    if (a - 0x410000000000) / 0x100000000 < 10 ∧ (a - 0x410000000000) % 0x100000000 / 0x4000000 < 20 ∧
        (a - 0x410000000000) % 0x4000000 < 0x2000000 then some 0 else none
  else none

/-- An address can be accessed: it resolves, and its slice or segment is powered and ready. -/
def Body.addrOk (b : Body) (a : Nat) : Bool :=
  (b.placeOf a).isSome && b.regionReady (regionOf a)

/-- Every byte of a range can be accessed. A range that begins and ends in one stride is checked at its ends and at
every 4 MiB between, which meets every slice and segment. -/
def Body.rangeOk (b : Body) (a n : Nat) : Bool :=
  if n = 0 then true
  else
    decide ((b.placeOf a).isSome ∧ b.placeOf a = b.placeOf (a + n - 1)) && b.addrOk a && b.addrOk (a + n - 1) &&
      (List.range (n / 0x400000)).all fun i => b.addrOk (a + (i + 1) * 0x400000) || decide ((i + 1) * 0x400000 ≥ n)

/-! ### Contexts and partitions -/

/-- The slot of the management context. -/
def mgmtSlot : Nat := 64

/-- A partition is defined and was started: it includes no absent Quay (R29, R406). -/
def Body.partUp (b : Body) (p : Nat) : Bool := partDefined b.framing p && (quaysOf b.framing p).all fun q => decide (q ∉ b.bw.absent)

/-- The resident slot of a context id (R294, R314). -/
def Body.slotOf (b : Body) (ctx : Nat) : Option Nat :=
  if ctx = 0xFFFE then some mgmtSlot
  else
    (List.range 64).find? fun k =>
      decide (b.getF (.hmCtxStat k) Fld.hmCtxStatCtx = ctx ∧ b.getF (.hmCtxStat k) Fld.hmCtxStatState ≠ 3)

/-- The context id of a slot. -/
def Body.ctxOfSlot (b : Body) (k : Nat) : Nat :=
  if k = mgmtSlot then 0xFFFE else b.getF (.hmCtxStat k) Fld.hmCtxStatCtx

/-- The partition of a slot; the management context belongs to none (R294). -/
def Body.partOfSlot (b : Body) (k : Nat) : Option Nat :=
  if k ≥ mgmtSlot then none else some (b.getF (.hmCtxStat k) Fld.hmCtxStatPart)

/-- The Quays of a slot's partition. -/
def Body.quaysOfSlot (b : Body) (k : Nat) : List Nat :=
  match b.partOfSlot k with
  | some p => quaysOf b.framing p
  | none => []

/-- What the Harbourmaster holds of a slot. -/
def Body.info (b : Body) (k : Nat) : CtxInfo := SMap.get b.hm.ctxs {} k

/-- Changes what the Harbourmaster holds of a slot. -/
def Body.updInfo (b : Body) (k : Nat) (f : CtxInfo → CtxInfo) : Body :=
  { b with hm.ctxs := SMap.upd b.hm.ctxs {} k f }

/-- Adds to a context's counter of R459; the management context has none. -/
def Body.count (b : Body) (slot i n : Nat) : Body :=
  if slot < 64 then b.bump (.hmCtxCnt slot i) Fld.hmCtxCntCount n else b

/-! ### Logbooks (R463, R464) -/

/-- Adds an event to a unit's Logbook, which keeps the last 64; a frozen Logbook takes none, and the units of kinds above 10 have none. -/
def Body.log (b : Body) (kind unit code status ctx tag arg : Nat) : Body :=
  if kind > 10 ∨ b.flag .wtLogFreeze Fld.wtLogFreezeFrozen then b
  else
    let k := kind * 65536 + unit
    let l := SMap.get b.tele.logs [] k ++ [⟨b.ts, code, status, ctx, tag, arg % 65536⟩]
    { b with tele.logs := SMap.set b.tele.logs [] k (l.drop (l.length - 64)) }

/-- Freezes every Logbook, naming the cause; a Logbook already frozen keeps its cause (R464, R478). -/
def Body.freezeLogs (b : Body) (cause : Nat) : Body :=
  if b.flag .wtLogFreeze Fld.wtLogFreezeFrozen then b
  else (b.setF .wtLogFreeze Fld.wtLogFreezeFrozen 1).setF .wtLogFreeze Fld.wtLogFreezeCause cause

/-! ### Error records (R474, R475) -/

/-- Adds a record to the Watch ring, which keeps the last 32 and counts what it overwrites. -/
def Body.errToWatch (b : Body) (r : ErrRec) : Body :=
  let b := if b.tele.errWatch.length ≥ 32 then b.bump .wtLogFreeze Fld.wtLogFreezeWLost 1 else b
  let l := b.tele.errWatch ++ [(b.tele.watchSeq, r)]
  { b with tele.errWatch := l.drop (l.length - 32), tele.watchSeq := b.tele.watchSeq + 1 }

/-- A unit raises an error record: it waits among the unit's four places, or is counted LOST; a SEV 2 record is also
kept in the Watch ring. The unit's Logbook takes a fault event. -/
def Body.raise (b : Body) (r : ErrRec) : Body :=
  let b := if r.sev = 2 then b.errToWatch r else b
  let k := r.kind * 65536 + r.unit
  let held := SMap.get b.tele.errPend [] k
  let b :=
    if held.length < 4 then { b with tele.errPend := SMap.set b.tele.errPend [] k (held ++ [r]) }
    else b.bump .hmErrStat Fld.hmErrStatLost 1
  b.log r.kind r.unit 9 r.status r.ctx r.tag (b.getF .hmErrStat Fld.hmErrStatNextSeq)

/-- An error record of no command. -/
def Body.err (b : Body) (code sev kind unit : Nat) (d : List Nat) (status : Nat := 0) (ctx : Nat := 0xFFFF) : Body :=
  b.raise ⟨b.ts, code, sev, status, ctx, 0, 0xFF, kind, unit, d⟩

/-! ### Clamps (R426) -/

/-- Counts clamped fields of a command, or of no command with `opc` 0xFF. -/
def Body.clamps (b : Body) (n opc ctx : Nat) : Body :=
  if n = 0 then b
  else
    ((b.bump .hmClampTally Fld.hmClampTallyCount n).setF .hmClampTally Fld.hmClampTallyLastOpc opc).setF
      .hmClampTally Fld.hmClampTallyLastCtx ctx

/-- Clamps a number to a range; the second part is 1 when it changed. -/
def clampTo (v lo hi : Nat) : Nat × Nat :=
  if v < lo then (lo, 1) else if v > hi then (hi, 1) else (v, 0)

/-- Clamps a number down to a multiple of `m`. -/
def clampDown (v m : Nat) : Nat × Nat := (v / m * m, if v % m = 0 then 0 else 1)

/-- Clamps a frequency to 400-940 MHz in 10 MHz steps: to the nearest point, a tie to the lower (R426, R451). -/
def clampMhz (v : Nat) : Nat × Nat :=
  let x := if v < 400 then 400 else if v > 940 then 940 else (v + 4) / 10 * 10
  (x, if x = v then 0 else 1)

/-! ### Opcodes -/

/-- The opcodes a privileged queue alone may issue (R282 and the tables of the chapters it names). -/
def privOpc (o : Nat) : Bool :=
  (decide (0x10 ≤ o) && decide (o ≤ 0x17)) || decide (o = 0x4C) || decide (o = 0x60) || decide (o = 0x68) ||
    decide (o = 0x71) || decide (o = 0x72) || (decide (0x78 ≤ o) && decide (o ≤ 0x7F)) ||
    decide (o ∈ [0x80, 0x81, 0x84, 0x85, 0x86, 0x89, 0x8A, 0x8C, 0x8D, 0x8E])

/-- The opcodes reserved in stepping B0 (R282). -/
def reservedOpc (o : Nat) : Bool :=
  [(0x02, 0x07), (0x0C, 0x0F), (0x1A, 0x2F), (0x33, 0x37), (0x3B, 0x3B), (0x3E, 0x3F), (0x46, 0x47), (0x4B, 0x4B),
    (0x4D, 0x4F), (0x55, 0x57), (0x5E, 0x5F), (0x65, 0x67), (0x6B, 0x6F), (0x74, 0x77), (0x87, 0x87),
    (0x90, 0xFF)].any fun p => decide (p.1 ≤ o) && decide (o ≤ p.2)

/-! ### Lathe banks in use (R179, R182) -/

/-- The opcodes whose commands may use the Lathe. -/
def latheOpc (o : Nat) : Bool := decide (o ∈ [0x40, 0x42, 0x43, 0x44, 0x45, 0x49, 0x4A])

/-- A command in flight in a partition has latched one of its banks. -/
def Body.latched (b : Body) (p bank : Nat) : Bool :=
  b.hm.flights.any fun x => decide (b.partOfSlot x.slot = some p ∧ x.bank = bank) && latheOpc x.opc

/-- The Berths of a partition. -/
def Body.berthsOfPart (b : Body) (p : Nat) : List Nat :=
  (quaysOf b.framing p).flatMap fun q => (List.range 20).map (20 * q + ·)

/-- Brings SHADOW_BUSY of the Berths of a slot's partition up to date. -/
def Body.syncShadow (b : Body) (slot : Nat) : Body :=
  match b.partOfSlot slot with
  | none => b
  | some p =>
    match b.berthsOfPart p with
    | [] => b
    | g :: gs =>
      let v := if b.latched p (1 - b.getF (.brLatheStat g) Fld.brLatheStatCurBank) then 1 else 0
      if b.getF (.brLatheStat g) Fld.brLatheStatShadowBusy = v then b
      else (g :: gs).foldl (fun b g => b.setF (.brLatheStat g) Fld.brLatheStatShadowBusy v) b

/-! ### The life of a command -/

/-- A stepped command comes to its end: 0 completed, with a status, 1 stopped at its point, 2 returned waiting (R467). -/
def Body.dbgEnd (b : Body) (uid outcome status : Nat) : Body :=
  { b with tele.dbg := b.tele.dbg.map fun (d : DbgRun) =>
      if d.target = uid ∧ d.outcome = none then { d with outcome := some (outcome, status), stop := b.ts } else d }

/-- A command completes a tile, span, block, instruction or row, which a single step counts (R467). -/
def Body.unitDone (b : Body) (uid : Nat) : Body :=
  { b with tele.dbg := b.tele.dbg.map fun (d : DbgRun) => if d.target = uid then { d with units := d.units + 1 } else d }

/-- Ends a command: it leaves the commands in flight and awaits its completion (R289); a REBUILD whose recipe it belongs to
notes its status (R220). A status equal to a nonzero
STATi freezes the Logbooks (R464). -/
def Body.retire (b : Body) (fl : Flight) (status result : Nat) (errRec : Bool) : Body :=
  let b := { b with
    hm.flights := b.hm.flights.filter (fun x => decide (x.uid ≠ fl.uid)),
    hm.ended := b.hm.ended ++ [Ended.mk fl status result errRec],
    crates.rebuilds := b.crates.rebuilds.map fun (r : Rebuild) => if r.cur = some fl.uid ∧ r.status = 0 then { r with status := status } else r }
  let b := (b.dbgEnd fl.uid 0 status).syncShadow fl.slot
  let b := b.log 2 0 2 status fl.cmd.ctx.toNat fl.cmd.tag.toNat fl.opc
  let st := b.getF .wtLogFreeze Fld.wtLogFreezeStat
  if status ≠ 0 ∧ (List.range 4).any (fun i => decide (st / 2 ^ (8 * i) % 256 = status)) then b.freezeLogs 2 else b

/-- Ends a command with DONE. -/
def Body.done (b : Body) (fl : Flight) (result : Nat := 0) : Body := b.retire fl 0 result false

/-- Ends a command with a status, writing the error record given (R475). -/
def Body.failWith (b : Body) (fl : Flight) (status code sev kind unit : Nat) (d : List Nat) : Body :=
  (b.raise ⟨b.ts, code, sev, status, fl.cmd.ctx.toNat, fl.cmd.tag.toNat, fl.opc, kind, unit, d⟩).retire fl status 0 true

/-- Ends a command with a status. PREEMPTED and ABORTED_BY_HOST write no record; any other writes CMD_FAULT (R475). -/
def Body.fail (b : Body) (fl : Flight) (status : Nat) (d0 : Nat := 0) (d1 : Nat := 0) : Body :=
  if status = 0x40 ∨ status = 0x41 then b.retire fl status 0 false
  else b.failWith fl status 0x0104 1 2 0 [d0, d1]

/-- Counts clamped fields of a command (R426, R459). -/
def Body.clampCmd (b : Body) (fl : Flight) (n : Nat) : Body :=
  (b.clamps n fl.opc fl.cmd.ctx.toNat).count fl.slot 15 n

/-- What becomes of a command row: it runs with its flight, or the body stands as given. -/
inductive Admit where
  | run (b : Body) (fl : Flight)
  | stop (b : Body)

/-- The copies the dispatch takes (R145, R146): the context's scalar registers and chain slots. -/
def Body.snapshot (b : Body) (slot : Nat) : SMap Word × SMap (List Word) :=
  (b.hm.sregs.filter (fun p => decide (p.1 / 256 = slot)), b.hm.chains.filter (fun p => decide (p.1 / 64 = slot)))

/-- LEN of every stream of the context's Crate Maps, as a command that may read Crates snapshots it (R205, R211). -/
def Body.lensOf (b : Body) (slot opc : Nat) : SMap Nat :=
  if opc = 0x44 ∨ opc = 0x45 then
    (b.crates.maps.filter fun p => decide (p.2.slot = slot)).flatMap fun p =>
      (List.range p.2.nstream).map fun s => (p.1 * 65536 + s, b.le (p.2.table + 16 * s) 8 % 2 ^ 22)
  else []

/-- Commands of a queue in flight or ended and not yet completed (R288, R313). -/
def Body.inQueue (b : Body) (wq : Fin 64) : Nat :=
  (b.hm.flights.filter fun x => decide (x.cmd.wq = wq)).length +
    (b.hm.ended.filter fun x => decide (x.fl.cmd.wq = wq)).length

/-- Commands of a context in flight or ended and not yet completed. -/
def Body.inCtx (b : Body) (ctx : BitVec 16) : Nat :=
  (b.hm.flights.filter fun x => decide (x.cmd.ctx = ctx)).length +
    (b.hm.ended.filter fun x => decide (x.fl.cmd.ctx = ctx)).length

/-- Brings the INFLIGHT fields of a queue and of a context slot up to date (R313, R314). -/
def Body.syncIn (b : Body) (wq : Fin 64) (slot : Nat) : Body :=
  let b := b.setF (.hmWqPtr wq) Fld.hmWqPtrInflight (min 64 (b.inQueue wq))
  if slot < 64 then
    b.setF (.hmCtxStat slot) Fld.hmCtxStatInflight (min 64 (b.inCtx (BitVec.ofNat 16 (b.ctxOfSlot slot))))
  else b

/-- Puts a command in flight (R286): it takes the next number and the dispatch copies. -/
def Body.launch (b : Body) (c : Cmd) (opc slot : Nat) (priv inStep : Bool) : Body × Flight :=
  let (sr, ch) := b.snapshot slot
  let (ep, bank) := match (b.quaysOfSlot slot).head? with
    | some q => (b.getF (.brLatheStat (20 * q)) Fld.brLatheStatEpoch, b.getF (.brLatheStat (20 * q)) Fld.brLatheStatCurBank)
    | none => (0, 0)
  let fl : Flight := { uid := b.hm.nextUid, cmd := c, opc := opc, slot := slot, priv := priv, inStep := inStep,
                       epochFirst := ep, epochLast := ep, bank := bank, sregs := sr, chains := ch, lens := b.lensOf slot opc }
  let b := { b with hm.nextUid := b.hm.nextUid + 1, hm.flights := b.hm.flights ++ [fl] }
  (((b.syncIn c.wq slot).syncShadow slot).log 2 0 1 0 c.ctx.toNat c.tag.toNat opc, fl)

/-- One of the Harbourmaster's own commands holds its queue until it completes (R288); an open STEP does not hold its
own body (R300). -/
def Body.heldByOwn (b : Body) (wq : Fin 64) (slot : Nat) : Bool :=
  let own : Nat → Bool := fun o => decide (o < 0x20) || decide (o = 0x48)
  let open_ : Flight → Bool := fun x => match (b.info slot).step with | some r => decide (r.fl.uid = x.uid) | none => false
  (b.hm.flights.any fun x => decide (x.cmd.wq = wq) && own x.opc && !open_ x) ||
    (b.hm.ended.any fun x => decide (x.fl.cmd.wq = wq) && own x.fl.opc)

/-- Commands of a queue that FENCE waits for: those in flight or not yet completed, but for an open STEP, whose body the fenced
command may belong to (R286, R300). -/
def Body.fenceLeft (b : Body) (wq : Fin 64) (slot : Nat) : Nat :=
  match (b.info slot).step with
  | some r => if r.fl.cmd.wq = wq then b.inQueue wq - 1 else b.inQueue wq
  | none => b.inQueue wq

/-- The dispatch of a command is a fence point: it carries FENCE, or is CTX_FENCE or STEP (R333). -/
def fencePoint (c : Cmd) (opc : Nat) : Bool := c.fence || decide (opc = 0x01 ∨ opc = 0x19)

/-- A command that waits under steps 5-7 of R286: the module not in RUN (R453), its core stopped, its context halted or
closing, a MOD required (R29), its FENCE not met, or a limit of R287 reached. The Harbourmaster's own commands each complete before the next of their queue (R288). -/
def Body.mustWait (b : Body) (c : Cmd) (slot : Nat) : Bool :=
  decide (b.boot.phase ≠ .run) || b.hm.sramDead || (b.info slot).closing || (decide (slot < 64) && b.bw.modRequired) ||
    (decide (slot < 64) && decide (b.getF (.hmCtxStat slot) Fld.hmCtxStatState ≠ 0)) ||
    (c.fence && decide (b.fenceLeft c.wq slot ≠ 0)) ||
    decide (b.inQueue c.wq ≥ 64 ∨ b.inCtx c.ctx ≥ 64 ∨ b.hm.flights.length + b.hm.ended.length ≥ 1024) ||
    b.heldByOwn c.wq slot

/-! ### Handles (R106, R110) -/

/-- The Manifest entry of a slot's handle index. -/
def Body.entry (b : Body) (slot idx : Nat) : Entry := SMap.get b.st.manifest {} (slot * 1024 + idx)

/-- Stores a Manifest entry. -/
def Body.setEntry (b : Body) (slot idx : Nat) (e : Entry) : Body :=
  { b with st.manifest := SMap.set b.st.manifest {} (slot * 1024 + idx) e }

/-- An accepted MF_UNBIND of an entry, or an MF_BIND of it as a valid entry, has not taken effect (R112). -/
def Body.unbinding (b : Body) (slot idx : Nat) : Bool :=
  b.st.ents.any fun p => decide (p.1.slot = slot ∧ p.2 = idx)

/-- Resolves a handle: VALID, GEN equal to the handle's generation, which is not 0, and no unbind accepted
(R110, R112). -/
def Body.resolve (b : Body) (slot h : Nat) : Option Entry :=
  let e := b.entry slot (h / 65536)
  if e.valid ∧ e.gen = h % 65536 ∧ h % 65536 ≠ 0 ∧ ¬ b.unbinding slot (h / 65536) then some e else none

/-- While the input is low Tier F accepts no new program (R450): a command about to begin that names an entry of Tier F with WR waits. -/
def Body.lowHold (b : Body) (c : Cmd) : Bool :=
  b.power.inputLow &&
    match b.slotOf c.ctx.toNat with
    | some k => c.words.any fun w => (b.resolve k (w.fld 63 38)).any fun e => decide (e.place = 4) && e.wr
    | none => false

/-- While the module goes into ANCHOR the management commands dispatched after its PW_STATE wait for RUN; in ANCHOR, and while it goes into
DRYDOCK, all do (R440, R453). -/
def Body.stateHold (b : Body) (fl : Flight) : Bool :=
  decide (fl.slot = mgmtSlot) && (decide (b.boot.phase = .anchor ∨ b.boot.phase = .drydockEntry) ||
    (decide (b.boot.phase = .anchorEntry) && b.power.stateCmd.any fun x => decide (x.uid < fl.uid)))

/-- A command whose row is taken: the flight its dispatch made, or, where its sender gives the row directly, the
dispatch checks of R286 made now; one that fails them is charged to the context its queue is bound to. A command that waits leaves the state as it is; so does one whose dispatch is a fence point of an
ECC-pending context, which COMMAND_DISPATCH resets (R333). -/
def Body.accept (b : Body) (c : Cmd) (opc : Nat) : Admit :=
  match b.hm.flights.find? fun x => decide (x.cmd = c ∧ x.opc = opc) && !x.started with
  | some fl => if b.lowHold c ∨ b.stateHold fl then .stop b else .run b fl
  | none =>
    let priv := b.flag (.hmWqCfg c.wq) Fld.hmWqCfgPriv
    let bound := b.getF (.hmWqCfg c.wq) Fld.hmWqCfgCtx
    let own := (b.slotOf bound).getD mgmtSlot
    match b.slotOf c.ctx.toNat with
    | some slot =>
      if b.boot.phase ≠ .run ∨ b.hm.sramDead then .stop b
      else if c.ctx.toNat = bound ∧ (privOpc opc → priv) then
        if b.mustWait c slot ∨ b.lowHold c ∨ ((b.info slot).eccPending ∧ fencePoint c opc) then .stop b
        else let (b, fl) := b.launch c opc slot priv false; .run b fl
      else let (b, fl) := b.launch c opc own priv false; .stop (b.fail fl 0x60)
    | none =>
      if b.boot.phase ≠ .run ∨ b.hm.sramDead then .stop b
      else let (b, fl) := b.launch c opc own priv false; .stop (b.fail fl 0x60)

/-- A command that has begun and stays in flight. -/
def Body.start (b : Body) (fl : Flight) : Body :=
  { b with hm.flights := b.hm.flights.map fun x => if x.uid = fl.uid then { fl with started := true } else x }

/-- Keeps what a command has done so far, while it waits to be taken up again. -/
def Body.keep (b : Body) (fl : Flight) (progress : List Nat) : Body :=
  { b with hm.flights := b.hm.flights.map fun x => if x.uid = fl.uid then { x with progress := progress } else x }

/-- The meaning of a command row: `f` runs on the admitted command. -/
def Body.onCmd (b : Body) (c : Cmd) (opc : Nat) (f : Body → Flight → Body) : Body :=
  match b.accept c opc with
  | .run b fl => f b fl
  | .stop b => b

/-- A row whose descriptor must carry a given sub-operation: a descriptor of another leaves the state as it is. -/
def Body.onSub (b : Body) (c : Cmd) (opc : Nat) (is : Bool) (f : Body → Flight → Body) : Body :=
  if is then b.onCmd c opc f else b

/-! ### Accesses (R110) -/

/-- A write of `n` bytes meets no READ_ONLY channel of Tier F (R341). -/
def Body.flashOk (b : Body) (a n : Nat) : Bool :=
  let ro := b.getF .mtFlashStat Fld.mtFlashStatRoMap
  if ro = 0 ∨ n = 0 ∨ a < tierFBase ∨ 0x300000000000 ≤ a then true
  else
    let u := (a - tierFBase) / 16384
    (List.range (min 64 ((a + n - 1 - tierFBase) / 16384 + 1 - u))).all fun i => !ro.testBit ((u + i) % 64)

/-- A read (or write) of `n` bytes at an offset of an entry passes the checks of R110 after resolution. -/
def Body.accessOk (b : Body) (e : Entry) (off n : Nat) (write : Bool) : Bool :=
  (if write then e.wr else e.rd) && decide (off + n ≤ e.size) &&
    (decide (e.place = 5) || (b.rangeOk (e.base + off) n && (!write || b.flashOk (e.base + off) n)))

/-- Resolves a handle for an access of `n` bytes at an offset; the failure status of R110 otherwise. -/
def Body.access (b : Body) (slot h off n : Nat) (write : Bool) : Except Nat Entry :=
  match b.resolve slot h with
  | none => .error 0x12
  | some e => if b.accessOk e off n write then .ok e else .error 0x11

/-! ### Tier traffic (R324, R325, R459) -/

/-- The sectors a range of bytes touches (R316). -/
def sectors (a n : Nat) : Nat := if n = 0 then 0 else (a + n - 1) / 32 + 1 - a / 32

/-- The Sluice of a slot: its partition's, or 10 for the management context (R324). -/
def Body.sluiceOf (b : Body) (slot : Nat) : Nat := (b.partOfSlot slot).getD 10

/-- A Sluice and tier as held. -/
def Body.sluice (b : Body) (i t : Nat) : Sluice := SMap.get b.tiers.sluices {} (i * 3 + t)

/-- Stores a Sluice. -/
def Body.setSluice (b : Body) (i t : Nat) (s : Sluice) : Body :=
  { b with tiers.sluices := SMap.set b.tiers.sluices {} (i * 3 + t) s }

/-- Charges sectors to a Sluice at an issuing point: admitted when the point's bucket is above 0, waiting otherwise
(R325, R326). -/
def Body.charge (b : Body) (i t point n : Nat) : Body :=
  if n = 0 then b
  else
    let s := b.sluice i t
    if s.shares.getD point 0 > 0 then
      let s' : Sluice := { s with shares := s.shares.set point (s.shares.getD point 0 - n) }
      (b.setSluice i t s').bump (.slStat i t) Fld.slStatAdmitted n
    else
      b.setSluice i t { s with waiting := s.waiting.set point (s.waiting.getD point 0 + n) }

/-- The issuing point of an access by the die that holds an address: its Quay for Holds and Sheds, else HE. -/
def pointOf (a : Nat) : Nat :=
  if 0x400000000000 ≤ a ∧ a < 0x410000000000 then min 9 ((a - 0x400000000000) / 0x200000000)
  else if 0x410000000000 ≤ a ∧ a < 0x420000000000 then min 9 ((a - 0x410000000000) / 0x100000000)
  else 11

/-- Charges a context's access of `n` bytes at an address of a tier, and counts its sectors (R324, R459). A program of
Tier F costs 8 tokens for each sector of each whole 16 KiB unit it touches (R321, R337). -/
def Body.tierTraffic (b : Body) (slot a n : Nat) (write : Bool) (point : Nat) : Body :=
  match b.placeOf a with
  | some 2 => (b.charge (b.sluiceOf slot) 0 point (sectors a n)).count slot 5 (sectors a n)
  | some 3 => (b.charge (b.sluiceOf slot) 1 point (sectors a n)).count slot 6 (sectors a n)
  | some 4 =>
    if write then
      let u := if n = 0 then 0 else ((a + n - 1) / 16384 + 1 - a / 16384) * 512
      (b.charge (b.sluiceOf slot) 2 point (8 * u)).count slot 8 u
    else (b.charge (b.sluiceOf slot) 2 point (sectors a n)).count slot 7 (sectors a n)
  | _ => b

end Sys2Proof.Machine

namespace Sys2Proof.Machine

/-- A nanosecond of the timestamp counter, which stands while the module has no power (R431; log entry 2). -/
def State.tick (s : State) : State := if s.body.boot.phase = .off then s else { s with body.ts := s.body.ts + 1 }

end Sys2Proof.Machine
end

