-- ==== Sys2Proof/Machine/Queue.lean ====
section
/-!
DEFINITION. Work queues, doorbells and completion rings (R284-R290, R388-R392): ringing a queue, wake causes, RDMA
WRITEs of the module, completion and SUMMARY records.
-/

namespace Sys2Proof.Machine

/-! ### Wake causes (R440, R442, R455) -/

/-- A wake cause in ANCHOR or during its entry: the exit follows, and the lower of two causes is recorded. -/
def Body.wake (b : Body) (cause : Nat) : Body :=
  if b.boot.phase = .anchor ∨ b.boot.phase = .anchorEntry then
    let c := if b.power.exitPending then min cause (b.getF .wtState Fld.wtStateWake) else cause
    ({ b with power.exitPending := true }).setF .wtState Fld.wtStateWake c
  else b

/-! ### Doorbells (R285) -/

/-- Entries rung and not yet dispatched: (TAIL - HEAD) mod 8,192. -/
def Body.rung (b : Body) (n : Nat) : Nat :=
  (b.getF (.hmWqPtr n) Fld.hmWqPtrTail + 8192 - b.getF (.hmWqPtr n) Fld.hmWqPtrHead) % 8192

/-- A doorbell of queue `n` with a TAIL (R285). To an unbound queue it is discarded with an error record naming the
queue and the requesting QP. -/
def Body.ring (b : Body) (n tail qp : Nat) : Body :=
  let ctx := b.getF (.hmWqCfg n) Fld.hmWqCfgCtx
  if ctx = 0xFFFF then b.err 0x0303 0 2 0 [n, qp]
  else
    let head := b.getF (.hmWqPtr n) Fld.hmWqPtrHead
    let cnt := (tail % 8192 + 8192 - head) % 8192
    let b :=
      if cnt > 4096 then (b.setF (.hmWqPtr n) Fld.hmWqPtrTail ((head + 4096) % 8192)).clamps 1 0xFF ctx
      else if cnt < b.rung n then b.clamps 1 0xFF ctx
      else b.setF (.hmWqPtr n) Fld.hmWqPtrTail (tail % 8192)
    b.wake 1

/-! ### Queue pairs: what the module sends (R384, R386, R388) -/

/-- A QP as held. -/
def Body.qp (b : Body) (k : Nat) : Qp := SMap.get b.eth.qps {} k

/-- Changes a QP. -/
def Body.updQp (b : Body) (k : Nat) (f : Qp → Qp) : Body := { b with eth.qps := SMap.upd b.eth.qps {} k f }

/-- The path MTU of a QP in bytes (R387). -/
def Qp.mtu (q : Qp) : Nat := 1024 * 2 ^ q.pmtu

/-- Packets of a message of `n` bytes at an MTU. -/
def packets (n mtu : Nat) : Nat := max 1 ((n + mtu - 1) / mtu)

/-- A QP can send: STATE 1 (R388, R401). -/
def Body.qpReady (b : Body) (k : Nat) : Bool := decide (b.getF (.epQpStat k) Fld.epQpStatState = 1)

/-- The context slot whose HOST counters a QP's traffic charges (R459). -/
def Body.qpSlot (b : Body) (k : Nat) : Nat := (b.slotOf (b.getF (.epQpStat k) Fld.epQpStatCtx)).getD mgmtSlot

/-- The module originates an RDMA WRITE on a QP: it holds the message until it is acknowledged (R384). -/
def Body.rdmaOut (b : Body) (k va rkey : Nat) (data : List Byte) : Body :=
  if b.qpReady k then
    let q := b.qp k
    let m : Msg := { port := .subport (b.getF (.epQpStat k) Fld.epQpStatSubport), kind := .rdmaWrite,
                     nums := [k, q.sqPsn, va, rkey, q.destQpn, q.destIp, q.destMac, q.vlan, q.tclass, q.udpSrc], data := data }
    let b := b.updQp k fun q =>
      { q with sqPsn := (q.sqPsn + packets data.length q.mtu) % 2 ^ 24, unacked := q.unacked ++ [m] }
    (b.send m).count (b.qpSlot k) 13 data.length
  else b

/-! ### Completion records (R289, R290, R392) -/

/-- A completion ring as held. -/
def Body.cq (b : Body) (n : Nat) : CqRing := SMap.get b.eth.cqs {} n

/-- Changes a completion ring. -/
def Body.updCq (b : Body) (n : Nat) (f : CqRing → CqRing) : Body := { b with eth.cqs := SMap.upd b.eth.cqs {} n f }

/-- The ring of a queue has room: bound, its QP working, and (PI - CI) mod 2^32 < 2^LOG2 (R392). -/
def Body.cqRoom (b : Body) (n : Nat) : Bool :=
  match (b.cq n).qp with
  | none => false
  | some k =>
    b.qpReady k && decide (((b.cq n).pi + 2 ^ 32 - (b.cq n).ci) % 2 ^ 32 < 2 ^ (b.cq n).log2)

/-- The 32 bytes of a completion record (R289). -/
def cplRecord (tag status flags ctx queue opc result epochFirst epochLast : Nat) (ts : Word) : List Byte :=
  leBytes 2 tag ++ leBytes 1 status ++ leBytes 1 flags ++ leBytes 2 ctx ++ leBytes 1 queue ++ leBytes 1 opc ++
    leBytes 8 result ++ leBytes 4 epochFirst ++ leBytes 4 epochLast ++ leBytes 8 ts.toNat

/-- Writes a record to the ring of a queue that has room, and advances PI. -/
def Body.cqPut (b : Body) (n : Nat) (rec : List Byte) : Body :=
  let c := b.cq n
  match c.qp with
  | none => b
  | some k =>
    (b.rdmaOut k (c.ringVa + 32 * (c.pi % 2 ^ c.log2)) c.rkey rec).updCq n
      fun c => { c with pi := (c.pi + 1) % 2 ^ 32 }

/-- The SUMMARY record of a queue with coalesced records, when its ring has room (R290). -/
def Body.summary (b : Body) (n : Nat) : Body :=
  if b.flag (.hmCplOvf n) Fld.hmCplOvfSummary ∧ b.cqRoom n then
    let st := b.getF (.hmCplOvf n) Fld.hmCplOvfFirstErr
    let tag := if st = 0 then (b.cq n).lastTag else b.getF (.hmCplOvf n) Fld.hmCplOvfFirstErrTag
    let opc := if st = 0 then (b.cq n).lastOpc else b.getF (.hmCplOvf n) Fld.hmCplOvfFirstErrOpc
    let rec32 := cplRecord tag st 2 (b.getF (.hmWqCfg n) Fld.hmWqCfgCtx) n opc
      (b.getF (.hmCplOvf n) Fld.hmCplOvfCount) 0 0 b.ts
    (b.cqPut n rec32).setReg (.hmCplOvf n) (Reg.dflt (.hmCplOvf n))
  else b

/-- Coalesces a record that finds no room (R290). -/
def Body.coalesce (b : Body) (n status opc tag : Nat) : Body :=
  let first := b.getF (.hmCplOvf n) Fld.hmCplOvfFirstErr
  let b := (b.setF (.hmCplOvf n) Fld.hmCplOvfSummary 1).bump (.hmCplOvf n) Fld.hmCplOvfCount 1
  let b := b.updCq n fun c => { c with lastTag := tag, lastOpc := opc }
  if status ≠ 0 ∧ first = 0 then
    ((b.setF (.hmCplOvf n) Fld.hmCplOvfFirstErr status).setF (.hmCplOvf n) Fld.hmCplOvfFirstErrOpc opc).setF
      (.hmCplOvf n) Fld.hmCplOvfFirstErrTag tag
  else b

/-- Writes or coalesces the completion of an ended command. A command that ended DONE without CPL writes none. -/
def Body.complete (b : Body) (e : Ended) : Body :=
  let n := e.fl.cmd.wq.val
  let ctx := e.fl.cmd.ctx.toNat
  let tag := e.fl.cmd.tag.toNat
  let b := b.count e.fl.slot (if e.status = 0 then 0 else 1) 1
  let b :=
    if e.status = 0 ∧ ¬ e.fl.cmd.cpl then b
    else
      let b := b.summary n
      if b.cqRoom n then
        let flags := (if e.fl.resumed then 1 else 0) + (if e.errRec then 4 else 0)
        b.cqPut n (cplRecord tag e.status flags ctx n e.fl.opc e.result e.fl.epochFirst e.fl.epochLast b.ts)
      else b.coalesce n e.status e.fl.opc tag
  b.syncIn e.fl.cmd.wq e.fl.slot

/-- A batch step completes when its body has been dispatched and has completed (R300). -/
def Body.stepCheck (b : Body) (slot : Nat) : Body :=
  match (b.info slot).step with
  | some r =>
    let busy := (b.hm.flights.any fun x => x.inStep && decide (x.slot = slot)) ||
      (b.hm.ended.any fun x => x.fl.inStep && decide (x.fl.slot = slot))
    if r.left = 0 ∧ ¬ busy then
      let b := b.updInfo slot fun i => { i with step := none }
      let b := if slot < 64 then b.bump (.hmCtxStat slot) Fld.hmCtxStatSteps 1 else b
      b.done r.fl (r.rows % 65536 + r.tokens % 2 ^ 32 * 65536 + r.deferred % 65536 * 2 ^ 48)
    else b
  | none => b

/-- The oldest ended command completes (R289). -/
def Body.completeOne (b : Body) : Body :=
  match b.hm.ended with
  | [] => b
  | e :: r => (({ b with hm.ended := r }).complete e).stepCheck e.fl.slot

/-- SUMMARY_RECORD (R290). -/
def execSummaryRecord (wq : Fin 64) (s : State) : Host.Outcome State Fault Refusal := s.onBody fun b => b.summary wq

/-! ### Work-queue windows (R389, R390) -/

/-- The queue a window address lies in, and the offset; none outside every window. -/
def windowOf (va : Nat) : Option (Nat × Nat) :=
  if 0x7F1000000000 ≤ va ∧ va < 0x7F1000000000 + 64 * 0x100000 then
    some ((va - 0x7F1000000000) / 0x100000, (va - 0x7F1000000000) % 0x100000)
  else none

/-- The row of R389's table that a write lies in: 0 entries, 1 doorbell, 2 CI. -/
def windowRow (off n : Nat) : Option Nat :=
  if off + n ≤ 0x40000 then some 0
  else if off = 0x40000 ∧ n = 8 then some 1
  else if off = 0x40008 ∧ n = 8 then some 2
  else none

/-- A window access is accepted (R389): its R_Key, the QP's queues and context, and MGMT equal to PRIV. -/
def Body.windowOk (b : Body) (w : WinWrite) (n : Nat) : Bool :=
  decide (w.rkey = (b.qp w.qp).wqKey) && (b.qp w.qp).wqMask.testBit n &&
    decide (b.getF (.epQpStat w.qp) Fld.epQpStatCtx = b.getF (.hmWqCfg n) Fld.hmWqCfgCtx) &&
    decide ((b.qp w.qp).mgmt = b.flag (.hmWqCfg n) Fld.hmWqCfgPriv)

/-- The responder takes a request: the expected PSN moves past its packets and the payload is counted. -/
def Body.responder (b : Body) (k n : Nat) : Body :=
  (b.updQp k fun q => { q with rqPsn := (q.rqPsn + packets n q.mtu) % 2 ^ 24 }).count (b.qpSlot k) 12 n

/-- Answers a request on a QP: an ACK, or a NAK of a syndrome (0x60 Invalid Request codes 1, Remote Access Error 2,
Remote Operational Error 3). -/
def Body.answer (b : Body) (k : Nat) (kind : MsgKind) (nums : List Nat) (data : List Byte := []) : Body :=
  b.send { port := .subport (b.getF (.epQpStat k) Fld.epQpStatSubport), kind := kind,
           nums := k :: (b.qp k).rqPsn :: nums, data := data }

/-- A refused window access: NAK Remote Access Error, and an error record naming the QP, the queue and the address. -/
def Body.windowRefused (b : Body) (w : WinWrite) (n : Nat) : Body :=
  (b.answer w.qp .roceNak [2]).err 0x0701 1 5 (b.getF (.epQpStat w.qp) Fld.epQpStatSubport) [w.qp, n, w.va] 0
    (b.getF (.epQpStat w.qp) Fld.epQpStatCtx)

/-- The module answers the network: powered, out of DRYDOCK and reset (R399). -/
def Body.netUp (b : Body) : Bool :=
  decide (b.boot.phase ∈ [.boardwalk, .trained, .run, .anchorEntry, .anchor, .drydockEntry])

/-- An RDMA WRITE that arrives for a row of a queue window, and what it does there. -/
def Body.window (b : Body) (w : WinWrite) (row : Nat) (f : Body → Nat → Nat → Body) : Body :=
  if b.netUp ∧ b.qpReady w.qp then
    match windowOf w.va with
    | some (n, off) =>
      if windowRow off w.data.length = some row then
        if b.windowOk w n then (f (b.responder w.qp w.data.length) n off).answer w.qp .roceAck []
        else b.windowRefused w n
      else if windowRow off w.data.length = none then b.windowRefused w n
      else b
    | none => b.windowRefused w 0xFFFF
  else b

/-- WQ_ENTRY_WRITE (R284, R389): the bytes land in the queue's ring. -/
def execWqEntryWrite (w : WinWrite) (s : State) : Host.Outcome State Fault Refusal :=
  s.onBody fun b => b.window w 0 fun b n off => b.setBytes (wqBase n + off) w.data

/-- DOORBELL (R285, R389): bits [12:0] are the new TAIL. -/
def execDoorbell (w : WinWrite) (s : State) : Host.Outcome State Fault Refusal :=
  s.onBody fun b => b.window w 1 fun b n _ => b.ring n (ofLe w.data % 8192) w.qp

/-- The host's consumer index of a queue's ring: one above PI or below the previous CI is ignored and counted (R392). -/
def Body.takeCi (b : Body) (n ci : Nat) : Body :=
  let c := b.cq n
  if (ci + 2 ^ 32 - c.ci) % 2 ^ 32 ≤ (c.pi + 2 ^ 32 - c.ci) % 2 ^ 32 then b.updCq n fun c => { c with ci := ci }
  else b.clamps 1 0xFF (b.getF (.hmWqCfg n) Fld.hmWqCfgCtx)

/-- CI_WRITE (R392). -/
def execCiWrite (w : WinWrite) (s : State) : Host.Outcome State Fault Refusal :=
  s.onBody fun b => b.window w 2 fun b n _ => b.takeCi n (ofLe w.data % 2 ^ 32)

/-- PI_WRITE (R392): after records, the producer count goes to PI_VA on the same QP as 8 bytes. -/
def execPiWrite (wq : Fin 64) (s : State) : Host.Outcome State Fault Refusal :=
  s.onBody fun b =>
    let c := b.cq wq
    match c.qp with
    | some k =>
      if c.pi ≠ c.piSent ∧ b.qpReady k then
        (b.rdmaOut k c.piVa c.rkey (leBytes 8 c.pi)).updCq wq fun c => { c with piSent := c.pi }
      else b
    | none => b

end Sys2Proof.Machine
end

