-- ==== Sys2Proof/Machine/Mem.lean ====
section
/-!
DEFINITION. Harbour memory as commands use it: the channel of an address (R318-R321), uncorrectable sectors (R333, R334),
writes that mark mirrored granules (R373), and block moves.
-/

namespace Sys2Proof.Machine

/-! ### Channels -/

/-- A Tier H channel (32s + c) is in this boot's active set (R335, R344). -/
def Body.activeH (b : Body) (h : Nat) : Bool := !(b.reg (.mtHbmMapout (h / 32))).bit (32 + h % 32)

/-- The active Tier H channels in increasing key 20c + s (R318). -/
def Body.listH (b : Body) : List Nat :=
  ((List.range 640).map fun k => 32 * (k % 20) + k / 20).filter b.activeH

/-- The active Tier H channels of a Quay in increasing key 2c + (s - 2q) (R319). -/
def Body.listHq (b : Body) (q : Nat) : List Nat :=
  ((List.range 64).map fun k => 32 * (2 * q + k % 2) + k / 2).filter b.activeH

/-- The active Tier L channels (2p + x) in increasing key 48x + p (R320). -/
def Body.listL (b : Body) : List Nat :=
  ((List.range 96).map fun k => 2 * (k % 48) + k / 48).filter fun c => decide (c ∉ b.tiers.lOut)

/-- The channel of an offset in a region interleaved over a list of channels (R318). -/
def interleave (l : List Nat) (x : Nat) : Nat := if l.length = 0 then 0 else l.getD (x / 256 % l.length) 0

/-- The byte within the channel (R318). -/
def interleaveOff (l : List Nat) (x : Nat) : Nat := if l.length = 0 then 0 else x / 256 / l.length * 256 + x % 256

/-- The channel of a tier address (R318-R321). -/
def Body.channelOf (b : Body) (a : Nat) : Nat :=
  if a < tierLBase then
    if b.getF .mtCfg Fld.mtCfgHMode = 0 then interleave b.listH a
    else interleave (b.listHq (a / 0x2000000000)) (a % 0x2000000000)
  else if a < tierFBase then interleave b.listL (a - tierLBase)
  else (a - tierFBase) / 16384 % 64

/-- The controller of an address as an error record names it: kind and unit (R463, R474). A Tier L group holds six
packages, a Tier F group eight channels; groups 0-7 are Tier L, 8-15 Tier F (log entry 10). -/
def Body.controllerOf (b : Body) (a : Nat) : Nat × Nat :=
  if a < tierLBase then (6, b.channelOf a / 32)
  else if a < tierFBase then (7, b.channelOf a / 2 / 6)
  else if a < 0x300000000000 then (7, 8 + b.channelOf a / 8)
  else (1, pointOf a)

/-- The tier code of an address in error records: 0 H, 1 L, 2 Sheds, 3 F (the targets of R344). -/
def tierCode (a : Nat) : Nat :=
  if a < tierLBase then 0 else if a < tierFBase then 1 else if a < 0x300000000000 then 3 else 2

/-! ### Uncorrectable sectors (R333-R335) -/

/-- The first uncorrectable sector in a range. -/
def Body.badIn (b : Body) (a n : Nat) : Option Nat :=
  b.tiers.badSectors.find? fun x => decide (n ≠ 0 ∧ a / 32 ≤ x ∧ x ≤ (a + n - 1) / 32)

/-- A Tier H channel becomes a map-out candidate once, with its record (R335). -/
def Body.candidate (b : Body) (h reason : Nat) : Body :=
  let r : Reg := .mtStackEcc (h / 32)
  if (b.reg r).bit (h % 32) then b
  else
    (b.setReg r (b.reg r ||| BitVec.ofNat 64 (2 ^ (h % 32)))).err 0x0504 1 6 (h / 32) [h, reason]

/-- Nanoseconds of 24 hours. -/
def day : Nat := 86400000000000

/-- Counts an uncorrectable sector of Tier H, which may make its channel a candidate: two distinct sectors in 24 h. -/
def Body.noteUncorr (b : Body) (a : Nat) : Body :=
  if a < tierLBase then
    let h := b.channelOf a
    let b := b.bump (.mtStackEcc (h / 32)) Fld.mtStackEccUncorrected 1
    let live := b.tiers.uncorr.filter fun p => decide (b.ts.toNat - p.2.2.toNat < day)
    let l := if live.any (fun p => decide (p.1 = h ∧ p.2.1 = a / 32)) then live else live ++ [(h, a / 32, b.ts)]
    let b := { b with tiers.uncorr := l }
    if (l.filter fun p => decide (p.1 = h)).length ≥ 2 then b.candidate h 1 else b
  else b

/-- Counts a corrected sector of Tier H; 65,536 in 24 h make its channel a candidate (R335). -/
def Body.noteCorr (b : Body) (a : Nat) : Body :=
  if a < tierLBase then
    let h := b.channelOf a
    let b := b.bump (.mtStackEcc (h / 32)) Fld.mtStackEccCorrected 1
    let l := (b.tiers.corr.filter fun p => decide (b.ts.toNat - p.2.toNat < day)) ++ [(h, b.ts)]
    let b := { b with tiers.corr := l }
    if (l.filter fun p => decide (p.1 = h)).length ≥ 65536 then b.candidate h 2 else b
  else b

/-- A command of a context has read an uncorrectable sector: the record, and the context becomes ECC-pending (R333).
The row or page is a free value: the spec gives no mapping to rows. -/
def Body.eccRead (b : Body) (fl : Flight) (sector : Nat) : Body :=
  let a := sector * 32
  let (row, b) := b.free
  let (k, u) := b.controllerOf a
  let b := b.raise ⟨b.ts, 0x0501, 1, 0x20, fl.cmd.ctx.toNat, fl.cmd.tag.toNat, fl.opc, k, u,
    [a, tierCode a * 65536 + b.channelOf a, row.toNat]⟩
  (b.noteUncorr a).updInfo fl.slot fun i => { i with eccPending := true }

/-! ### Writes -/

/-- Bit `i` of a bitmap in memory. -/
def Body.mapBit (b : Body) (base i : Nat) : Bool := (b.byte (base + i / 8)).toNat.testBit (i % 8)

/-- Sets bit `i` of a bitmap in memory. -/
def Body.setMapBit (b : Body) (base i : Nat) (v : Bool) : Body :=
  let x := (b.byte (base + i / 8)).toNat
  b.setByte (base + i / 8) (BitVec.ofNat 8 (putBits x (i % 8) (i % 8) (if v then 1 else 0)))

/-- Marks a granule of a mirror range in its bitmap, counting one newly marked in DIRTY (R373, R380). -/
def Body.markGranule (b : Body) (m : Mirror) (i : Nat) : Body :=
  if b.mapBit m.bitmap i then b
  else (b.setMapBit m.bitmap i true).bump .bwTwinStat Fld.bwTwinStatDirty 1

/-- Every write into a SEND range marks the granules it touches, whatever the path (R373). -/
def Body.markMirrors (b : Body) (a n : Nat) : Body :=
  if n = 0 then b
  else
    b.ln.twin.mirrors.foldl (fun b m =>
      if m.accept ∨ a + n ≤ m.base ∨ m.base + m.size ≤ a then b
      else
        let lo := (max a m.base - m.base) / 65536
        let hi := (min (a + n) (m.base + m.size) - 1 - m.base) / 65536
        (List.range (hi + 1 - lo)).foldl (fun b i => b.markGranule m (lo + i)) b) b

/-- Sets bit `i` of a bitmap that the module maintains in harbour memory, a write like any other to a mirror (R373). -/
def Body.storeMapBit (b : Body) (base i : Nat) (v : Bool) : Body := (b.setMapBit base i v).markMirrors (base + i / 8) 1

/-! ### Tier F programs (R316, R337, R340, R341; log entry 41) -/

/-- A Tier F channel as held. -/
def Body.flashChan (b : Body) (c : Nat) : FlashChan := SMap.get b.tiers.flash {} c

/-- Changes a Tier F channel. -/
def Body.updFlash (b : Body) (c : Nat) (f : FlashChan → FlashChan) : Body :=
  { b with tiers.flash := SMap.upd b.tiers.flash {} c f }

/-- The block of 1,024 units being filled takes one more; a full one is followed by a free block. -/
def FlashChan.take (c : FlashChan) : FlashChan :=
  if c.fill + 1 < 1024 then { c with fill := c.fill + 1 } else { c with fill := 0, free := c.free - 1 }

/-- A unit is programmed: it is mapped, and its LUN's page buffer empties. -/
def Body.programUnit (b : Body) (u : Nat) : Body :=
  ({ b with
      tiers.mapped := SMap.set b.tiers.mapped 0 u 1,
      tiers.pageBuf := SMap.drop b.tiers.pageBuf (Config.lunOf u) }).updFlash (u % 64) FlashChan.take

/-- The erase counts of every block of Tier F, together. -/
def Body.totalErases (b : Body) : Nat := (b.tiers.flash.map fun p => (p.2.erases.map (·.2)).sum).sum

/-- The bytes of a list in the last seven days. -/
def Body.lastWeek (b : Body) (l : List (Word × Nat)) : List (Word × Nat) :=
  l.filter fun p => decide (b.ts.toNat - p.1.toNat < 7 * day)

/-- MT_FLASH_LIFE follows the erase counts and the bytes programmed; WORN is recorded once (R341; log entry 41). -/
def Body.flashLife (b : Body) : Body :=
  let n := 64 * 18432
  let e := b.totalErases
  let host := ((b.lastWeek b.tiers.hostProg).map (·.2)).sum
  let all := ((b.lastWeek b.tiers.allProg).map (·.2)).sum
  let pct := min 255 (e * 100 / (n * 3000))
  let pred := if all = 0 then 65535 else min 65535 ((3000 * n - e) * 19791209299968 * 7 / (n * all))
  let b := (b.setF .mtFlashLife Fld.mtFlashLifePctUsed pct).setF .mtFlashLife Fld.mtFlashLifePredDays pred
  let b := if host = 0 then b else b.setF .mtFlashLife Fld.mtFlashLifeWa (min 65535 (all * 100 / host))
  if (pct ≥ 90 ∨ pred < 30) ∧ ¬ b.flag .mtFlashLife Fld.mtFlashLifeWorn then
    (b.setF .mtFlashLife Fld.mtFlashLifeWorn 1).err 0x0505 1 7 8 [pct, pred]
  else b

/-- Counts bytes written and programmed. -/
def Body.notePrograms (b : Body) (host all : Nat) : Body :=
  let b := { b with
    tiers.hostProg := if host = 0 then b.tiers.hostProg else b.lastWeek b.tiers.hostProg ++ [(b.ts, host)],
    tiers.allProg := b.lastWeek b.tiers.allProg ++ [(b.ts, all)] }
  b.flashLife

/-- A write of `n` bytes into Tier F programs every unit it touches (R337). -/
def Body.program (b : Body) (a n : Nat) : Body :=
  if n = 0 ∨ a < tierFBase ∨ 0x300000000000 ≤ a then b
  else
    let u := (a - tierFBase) / 16384
    let k := (a + n - 1 - tierFBase) / 16384 + 1 - u
    ((List.range k).foldl (fun b i => b.programUnit (u + i)) b).notePrograms n (k * 16384)

/-- A read of `n` bytes of Tier F leaves each LUN's page buffer with the last page read from it; an unmapped unit is not read (R316,
R337). -/
def Body.readPages (b : Body) (a n : Nat) : Body :=
  if n = 0 ∨ a < tierFBase ∨ 0x300000000000 ≤ a then b
  else
    let u := (a - tierFBase) / 16384
    (List.range ((a + n - 1 - tierFBase) / 16384 + 1 - u)).foldl (fun b i =>
      if SMap.get b.tiers.mapped 0 (u + i) = 0 then b
      else { b with tiers.pageBuf := SMap.put b.tiers.pageBuf (Config.lunOf (u + i)) (u + i + 1) }) b

/-- Writes bytes to harbour memory. A sector written whole becomes good; a partial write of an uncorrectable sector is not
performed (R334). -/
def Body.store (b : Body) (a : Nat) (data : List Byte) : Body :=
  let n := data.length
  let part := b.tiers.badSectors.filter fun x => decide (a / 32 ≤ x ∧ x * 32 < a + n ∧ ¬(a ≤ x * 32 ∧ x * 32 + 32 ≤ a + n))
  let b' := { b with tiers.badSectors := b.tiers.badSectors.filter fun x =>
    !(decide (a ≤ x * 32) && decide (x * 32 + 32 ≤ a + n)) }
  let b' :=
    if part = [] then b'.setBytes a data
    else (List.range n).foldl (fun c i => if (a + i) / 32 ∈ part then c else c.setByte (a + i) (data.getD i 0)) b'
  (b'.program a n).markMirrors a n

/-- Reads bytes for a command: the bytes as they stand, and whether an uncorrectable sector was met (R333). -/
def Body.load (b : Body) (fl : Flight) (a n : Nat) : List Byte × Bool × Body :=
  match b.badIn a n with
  | some x => (b.bytes a n, true, (b.eccRead fl x).readPages a n)
  | none => (b.bytes a n, false, b.readPages a n)

/-- A command ends: with ECC_UNCORRECTED in place of DONE where it read an uncorrectable sector, whose record stands
(R333, R475). -/
def Body.doneEcc (b : Body) (fl : Flight) (ecc : Bool) (result : Nat := 0) : Body :=
  if ecc then b.retire fl 0x20 0 true else b.done fl result

/-- The free bytes that undefined destination bytes take (R118, R332). -/
def Body.freeBytes (b : Body) : Nat → List Byte × Body
  | 0 => ([], b)
  | n + 1 =>
    let (w, b) := b.free
    let (l, b) := Body.freeBytes b n
    (w.setWidth 8 :: l, b)

end Sys2Proof.Machine
end

