-- ==== Sys2Proof/Machine/Num.lean ====
section
/-!
DEFINITION. Number formats, rounding and conversion (R32-R57): exact dyadic values, one rounding function for every
format, BM40, MX blocks, and the FP32 arithmetic of lanes and memory-side adders.
-/

namespace Sys2Proof.Machine

/-- An exact value: a signed dyadic number (-1)^neg · m · 2^e, an infinity, or NaN. -/
inductive Val where
  | fin (neg : Bool) (m : Nat) (e : Int)
  | inf (neg : Bool)
  | nan
deriving DecidableEq, Repr

/-- How a float format encodes its specials (R34): IEEE 754, the one NaN magnitude of E4M3, none, or BM40. -/
inductive Special where
  | ieee | e4m3 | none | bm40
deriving DecidableEq, Repr

/-- A float format: exponent bits, fraction bits, bias, specials, canonical NaN (R33, R34). -/
structure Fmt where
  eb : Nat
  mb : Nat
  bias : Nat
  special : Special
  nanCode : Nat
deriving DecidableEq, Repr

/-- E4M3. -/
def fE4M3 : Fmt := ⟨4, 3, 7, .e4m3, 0x7F⟩
/-- E5M2. -/
def fE5M2 : Fmt := ⟨5, 2, 15, .ieee, 0x7E⟩
/-- E2M3. -/
def fE2M3 : Fmt := ⟨2, 3, 1, .none, 0⟩
/-- E3M2. -/
def fE3M2 : Fmt := ⟨3, 2, 3, .none, 0⟩
/-- E2M1. -/
def fE2M1 : Fmt := ⟨2, 1, 1, .none, 0⟩
/-- BF16. -/
def fBF16 : Fmt := ⟨8, 7, 127, .ieee, 0x7FC0⟩
/-- FP16. -/
def fFP16 : Fmt := ⟨5, 10, 15, .ieee, 0x7E00⟩
/-- FP32. -/
def fFP32 : Fmt := ⟨8, 23, 127, .ieee, 0x7FC00000⟩
/-- BM40. -/
def fBM40 : Fmt := ⟨12, 27, 2047, .bm40, 0x7FFC000000⟩

/-- The value an encoding stands for (R33-R35). -/
def Fmt.dec (f : Fmt) (c : Nat) : Val :=
  let s := c.testBit (f.eb + f.mb)
  let e := c / 2 ^ f.mb % 2 ^ f.eb
  let m := c % 2 ^ f.mb
  let top := 2 ^ f.eb - 1
  if e = top ∧ f.special = .ieee then (if m = 0 then .inf s else .nan)
  else if e = top ∧ f.special = .bm40 then .nan
  else if e = top ∧ m = 2 ^ f.mb - 1 ∧ f.special = .e4m3 then .nan
  else if e = 0 then (if f.special = .bm40 then .fin s 0 0 else .fin s m (1 - (f.bias : Int) - f.mb))
  else .fin s (2 ^ f.mb + m) ((e : Int) - f.bias - f.mb)

/-- Is the value a finite zero. -/
def Val.isZero : Val → Bool
  | .fin _ 0 _ => true
  | _ => false

/-- Is the value NaN. -/
def Val.isNan : Val → Bool
  | .nan => true
  | _ => false

/-- The sign of a value. -/
def Val.neg : Val → Bool
  | .fin s _ _ => s
  | .inf s => s
  | .nan => false

/-- The value with its sign changed. -/
def Val.negate : Val → Val
  | .fin s m e => .fin (!s) m e
  | .inf s => .inf (!s)
  | .nan => .nan

/-- The magnitude of a value. -/
def Val.abs : Val → Val
  | .fin _ m e => .fin false m e
  | .inf _ => .inf false
  | .nan => .nan

/-- The floor of the base-2 logarithm of a nonzero m · 2^e. -/
def floorLog (m : Nat) (e : Int) : Int := (Nat.log2 m : Int) + e

/-- The signed integer a mantissa stands for. -/
def signed (s : Bool) (m : Nat) : Int := if s then -(m : Int) else m

/-- The value of an integer times a power of two; a zero takes the sign given. -/
def ofInt (i : Int) (e : Int) (zneg : Bool) : Val :=
  if i = 0 then .fin zneg 0 0 else .fin (decide (i < 0)) i.natAbs e

/-- The exact sum; an exact zero sum of two nonzero or unlike values is +0, as IEEE 754 rounds to nearest. -/
def Val.add : Val → Val → Val
  | .nan, _ => .nan
  | _, .nan => .nan
  | .inf a, .inf b => if a = b then .inf a else .nan
  | .inf a, _ => .inf a
  | _, .inf b => .inf b
  | .fin s m e, .fin t n f =>
    let q := min e f
    ofInt (signed s m * (2 : Int) ^ (e - q).toNat + signed t n * (2 : Int) ^ (f - q).toNat) q (s && t)

/-- The exact product. -/
def Val.mul : Val → Val → Val
  | .nan, _ => .nan
  | _, .nan => .nan
  | .inf a, .inf b => .inf (xor a b)
  | .inf a, .fin s m _ => if m = 0 then .nan else .inf (xor a s)
  | .fin s m _, .inf b => if m = 0 then .nan else .inf (xor s b)
  | .fin s m e, .fin t n f => .fin (xor s t) (m * n) (e + f)

/-- The exact value times 2^k. -/
def Val.scale (v : Val) (k : Int) : Val :=
  match v with
  | .fin s m e => .fin s m (e + k)
  | v => v

/-- A quotient to 80 significant bits with a sticky last bit, which rounds as the exact quotient does. -/
def Val.div : Val → Val → Val
  | .nan, _ => .nan
  | _, .nan => .nan
  | .inf _, .inf _ => .nan
  | .inf a, .fin t _ _ => .inf (xor a t)
  | .fin s _ _, .inf b => .fin (xor s b) 0 0
  | .fin s m e, .fin t n f =>
    if n = 0 then (if m = 0 then .nan else .inf (xor s t))
    else if m = 0 then .fin (xor s t) 0 0
    else
      let k := 80 + Nat.log2 n
      let q := m * 2 ^ k / n
      let r := m * 2 ^ k % n
      .fin (xor s t) (2 * q + (if r = 0 then 0 else 1)) (e - f - k - 1)

/-- A square root to 64 or more significant bits with a sticky last bit. -/
def Val.sqrt : Val → Val
  | .nan => .nan
  | .inf s => if s then .nan else .inf false
  | .fin s m e =>
    if m = 0 then .fin s 0 0
    else if s then .nan
    else
      let m1 := if e % 2 = 0 then m else 2 * m
      let e1 := if e % 2 = 0 then e else e - 1
      let r := Nat.sqrt (m1 * 2 ^ 160)
      .fin false (2 * r + (if r * r = m1 * 2 ^ 160 then 0 else 1)) (e1 / 2 - 81)

/-- a ≤ b of exact values that are not NaN, with -0 equal to +0. -/
def Val.le : Val → Val → Bool
  | .nan, _ => false
  | _, .nan => false
  | .inf a, .inf b => a || !b
  | .inf a, _ => a
  | _, .inf b => !b
  | .fin s m e, .fin t n f =>
    let q := min e f
    decide (signed s m * (2 : Int) ^ (e - q).toNat ≤ signed t n * (2 : Int) ^ (f - q).toNat)

/-- Equality of exact values, with -0 equal to +0 and NaN equal to nothing. -/
def Val.eqv (a b : Val) : Bool := a.le b && b.le a

/-- Less-than of exact values, false for NaN. -/
def Val.lt (a b : Val) : Bool := a.le b && !b.le a

/-! ### Rounding (R48-R52) -/

/-- The magnitude m · 2^e rounded to a multiple of 2^q: the multiplier. ROUND is 0 RNE, 1 RTZ, 2 RDN, 3 RUP, 4 SR1 with
random bit `t` (R48, R49). -/
def roundAt (mode : Nat) (t neg : Bool) (m : Nat) (e q : Int) : Nat :=
  if e ≥ q then m * 2 ^ (e - q).toNat
  else
    let d := (q - e).toNat
    let n := m / 2 ^ d
    let r := m % 2 ^ d
    let up : Bool :=
      match mode with
      | 0 => decide (2 * r > 2 ^ d) || (decide (2 * r = 2 ^ d) && decide (n % 2 = 1))
      | 1 => false
      | 2 => neg && decide (r ≠ 0)
      | 3 => !neg && decide (r ≠ 0)
      | _ =>
        let top2 := 4 * r / 2 ^ d
        decide (top2 = 3) || (decide (top2 = 1 ∨ top2 = 2) && t)
    if up then n + 1 else n

/-- What a conversion counts (R57): a saturation, a NaN written, a BM40 overflow, a BM40 flush. -/
structure Tally where
  sat : Nat := 0
  nan : Nat := 0
  bmSat : Nat := 0
  bmFtz : Nat := 0
deriving DecidableEq, Repr

/-- The sum of two tallies. -/
def Tally.plus (a b : Tally) : Tally := ⟨a.sat + b.sat, a.nan + b.nan, a.bmSat + b.bmSat, a.bmFtz + b.bmFtz⟩

/-- The sign bit of an encoding. -/
def Fmt.signBit (f : Fmt) (s : Bool) : Nat := if s then 2 ^ (f.eb + f.mb) else 0

/-- The encoding of the largest finite magnitude. -/
def Fmt.maxCode (f : Fmt) : Nat :=
  match f.special with
  | .ieee => (2 ^ f.eb - 1) * 2 ^ f.mb - 1
  | .e4m3 => 2 ^ (f.eb + f.mb) - 2
  | .none => 2 ^ (f.eb + f.mb) - 1
  | .bm40 => (2 ^ f.eb - 1) * 2 ^ f.mb - 1

/-- The encoding of an infinite magnitude, or of NaN where there is none (E4M3, R52). -/
def Fmt.infCode (f : Fmt) : Nat :=
  match f.special with
  | .ieee => (2 ^ f.eb - 1) * 2 ^ f.mb
  | _ => f.nanCode

/-- The encoding of n · 2^q with n · 2^q representable or too large: the magnitude code, which exceeds `maxCode` on
overflow. -/
def Fmt.magCode (f : Fmt) (n : Nat) (q : Int) : Nat :=
  if n = 0 then 0
  else
    let l := floorLog n q
    if l < 1 - (f.bias : Int) then n
    else
      let k := l - f.mb
      let m := if q ≥ k then n * 2 ^ (q - k).toNat else n / 2 ^ (k - q).toNat
      (l + f.bias).toNat * 2 ^ f.mb + (m - 2 ^ f.mb)

/-- The result of an overflow with SAT = 0: the IEEE 754 result for the mode; SR1 as RNE (R52). -/
def Fmt.overflow (f : Fmt) (mode : Nat) (s : Bool) : Nat :=
  let toMax : Bool := match mode with
    | 1 => true
    | 2 => !s
    | 3 => s
    | _ => false
  if toMax then f.signBit s + f.maxCode
  else if f.special = .e4m3 then f.nanCode
  else f.signBit s + f.infCode

/-- A conversion into a float format (R48-R53): its encoding and what it counts. `mode` 4 rounds to nearest into FP32 and
BM40 (R51); formats with neither infinity nor NaN saturate always. -/
def Fmt.conv (f : Fmt) (mode : Nat) (sat t : Bool) (v : Val) : Nat × Tally :=
  let mode := if f.special = .bm40 then 0 else if mode ≥ 4 ∧ f.mb = 23 then 0 else mode
  match v with
  | .nan => (f.nanCode, { nan := 1 })
  | .inf s =>
    match f.special with
    | .ieee => (f.signBit s + f.infCode, {})
    | .e4m3 => (f.nanCode, { nan := 1 })
    | .none => (f.signBit s + f.maxCode, { sat := 1 })
    | .bm40 => (f.signBit s + f.maxCode, { bmSat := 1 })
  | .fin s m e =>
    if m = 0 then (f.signBit s, {})
    else
      let l := floorLog m e
      let q := if f.special = .bm40 then l - f.mb else max (l - f.mb) (1 - (f.bias : Int) - f.mb)
      let n := roundAt mode t s m e q
      if f.special = .bm40 ∧ floorLog n q < 1 - (f.bias : Int) then (f.signBit s, { bmFtz := 1 })
      else
        let c := f.magCode n q
        if c ≤ f.maxCode then (f.signBit s + c, {})
        else if f.special = .bm40 then (f.signBit s + f.maxCode, { bmSat := 1 })
        else if sat ∨ f.special = .none then (f.signBit s + f.maxCode, { sat := 1 })
        else
          let r := f.overflow mode s
          (r, if r = f.nanCode then { nan := 1 } else {})

/-- A conversion to an integer of `w` bits: to nearest even, out of range to the end of the range, NaN to 0, each counted
(R52). The result is in two's complement. -/
def convInt (w : Nat) (v : Val) : Nat × Tally :=
  match v with
  | .nan => (0, { sat := 1 })
  | .inf s => (if s then 2 ^ (w - 1) else 2 ^ (w - 1) - 1, { sat := 1 })
  | .fin s m e =>
    let n := roundAt 0 false s m e 0
    if s then (if n > 2 ^ (w - 1) then (2 ^ (w - 1), { sat := 1 }) else (ofSInt w (-(n : Int)), {}))
    else (if n > 2 ^ (w - 1) - 1 then (2 ^ (w - 1) - 1, { sat := 1 }) else (n, {}))

/-- FP32 by round to nearest even, overflow to infinity. -/
def toF32 (v : Val) : Nat := (fFP32.conv 0 false false v).1

/-- The value of an FP32 encoding. -/
def ofF32 (c : Nat) : Val := fFP32.dec (c % 2 ^ 32)

/-- FP32 sum of the lanes (R54). -/
def f32Add (a b : Nat) : Nat := toF32 ((ofF32 a).add (ofF32 b))

/-- FP32 product. -/
def f32Mul (a b : Nat) : Nat := toF32 ((ofF32 a).mul (ofF32 b))

/-! ### Storage formats (R32, R36, R54) -/

/-- The float format of a code; MX codes give their element format. -/
def fmtOf (c : Nat) : Fmt :=
  match c with
  | 0 => fE4M3
  | 1 => fE5M2
  | 2 => fE4M3
  | 3 => fE5M2
  | 4 => fE2M3
  | 5 => fE3M2
  | 6 => fE2M1
  | 8 => fBF16
  | 9 => fFP16
  | 11 => fBM40
  | _ => fFP32

/-- A format code is an MX format: scale kind MX32 and no other (R32, R39). -/
def isMx (c : Nat) : Bool := decide (2 ≤ c ∧ c ≤ 7)

/-- Element bits as stored (R32). -/
def elemBits (c : Nat) : Nat :=
  match c with
  | 4 => 6
  | 5 => 6
  | 6 => 4
  | 8 => 16
  | 9 => 16
  | 10 => 32
  | 11 => 64
  | 12 => 32
  | 13 => 64
  | _ => 8

/-- The byte offset of element `x` along a row (R108). -/
def elemByte (c x : Nat) : Nat :=
  if elemBits c = 6 then 3 * (x / 4) else if elemBits c = 4 then x / 2 else x * (elemBits c / 8)

/-- The value of an element of a format, before any scale: an MXINT8 element is I · 2^-6. -/
def elemVal (c code : Nat) : Val :=
  match c with
  | 7 => ofInt (sInt 8 code) (-6) false
  | 12 => ofInt (sInt 32 code) 0 false
  | 13 => ofInt (sInt 64 code) 0 false
  | 11 => fBM40.dec (code % 2 ^ 40)
  | c => (fmtOf c).dec code

/-- The value times an E8M0 scale; the scale 0xFF is NaN (R34). -/
def e8m0 (v : Val) (scale : Nat) : Val := if scale = 0xFF then .nan else v.scale ((scale : Int) - 127)

/-- The exponent of an element format's largest binade, e_elem of R37. -/
def eElem (c : Nat) : Int :=
  match c with
  | 2 => 8
  | 3 => 15
  | 4 => 2
  | 5 => 4
  | 6 => 2
  | _ => 0

/-- An element of an MX block: a float conversion that always saturates, or MXINT8 as an integer of 2^-6 steps clamped to
±127 (0x80 is never written, R34). -/
def mxElem (c mode : Nat) (t : Bool) (v : Val) : Nat × Tally :=
  if c = 7 then
    match v with
    | .fin s m e =>
      let n := roundAt mode t s m e (-6)
      if n > 127 then (ofSInt 8 (signed s 127), { sat := 1 }) else (ofSInt 8 (signed s n), {})
    | _ => (0, {})
  else (fmtOf c).conv mode true t v

/-- The exponent floor(log2) of the largest magnitude of finite values; none when all are zero. -/
def maxLog (vs : List Val) : Option Int :=
  vs.foldl (fun a v => match v with
    | .fin _ m e => if m = 0 then a else some (match a with | none => floorLog m e | some x => max x (floorLog m e))
    | _ => a) none

/-- A value is NaN or infinite. -/
def Val.special : Val → Bool
  | .fin _ _ _ => false
  | _ => true

/-- An MX block quantised from FP32 values under R37: scale byte, element codes, what it counts. `ts` are the random bits. -/
def mxBlock (c mode : Nat) (ts : List Bool) (vs : List Val) : Nat × List Nat × Tally :=
  if vs.any Val.special then (0xFF, vs.map fun _ => 0, { nan := 1 })
  else
    match maxLog vs with
    | none => (0, vs.map fun v => if v.neg ∧ c ≠ 7 then (fmtOf c).signBit true else 0, {})
    | some l =>
      let x := max (-127) (min 127 (l - eElem c))
      let es := (List.range vs.length).map fun i => mxElem c mode (ts.getD i false) ((vs.getD i .nan).scale (-x))
      ((x + 127).toNat, es.map (·.1), es.foldl (fun a p => a.plus p.2) {})

/-- A scalar conversion into a storage format that is not MX. -/
def convElem (c mode : Nat) (sat t : Bool) (v : Val) : Nat × Tally :=
  match c with
  | 12 => convInt 32 v
  | 13 => convInt 64 v
  | c => (fmtOf c).conv mode sat t v

/-! ### Memory-side and Basin arithmetic (R55) -/

/-- IEEE 754 minimum or maximum with -0 below +0. -/
def Val.minmax (isMax : Bool) (a b : Val) : Val :=
  if a.isNan ∨ b.isNan then .nan
  else
    let aFirst : Bool := if a.eqv b then (a.neg && !b.neg) || (a.neg == b.neg) else a.le b
    if isMax then (if aFirst then b else a) else (if aFirst then a else b)

/-- dst OP src of R55 for a format of R332: 8 BF16, 10 FP32, 12 INT32, 13 INT64; OP 0 ADD, 1 MIN, 2 MAX. -/
def reduceElem (fmt op a b : Nat) : Nat :=
  if fmt = 12 ∨ fmt = 13 then
    let w := elemBits fmt
    match op with
    | 0 => (a + b) % 2 ^ w
    | 1 => if sInt w b < sInt w a then b % 2 ^ w else a % 2 ^ w
    | _ => if sInt w a < sInt w b then b % 2 ^ w else a % 2 ^ w
  else
    let f := fmtOf fmt
    match op with
    | 0 => (f.conv 0 false false ((f.dec a).add (f.dec b))).1
    | 1 => (f.conv 0 false false ((f.dec a).minmax false (f.dec b))).1
    | _ => (f.conv 0 false false ((f.dec a).minmax true (f.dec b))).1

end Sys2Proof.Machine
end

