-- ==== Sys2Proof/Machine/Lathe.lean ====
section
/-!
DEFINITION. The Lathe (R164-R177): the internal precision, built-in functions, Jigs, and a Lathe pass.
-/

namespace Sys2Proof.Machine

/-- What a Lathe evaluation gives: a value, and what it counts (flushes, domain NaNs, BM40 overflows, seam clamps). -/
structure LRes where
  v : Val
  ftz : Nat := 0
  domain : Nat := 0
  bmSat : Nat := 0
  bmFtz : Nat := 0
  seam : Nat := 0
deriving DecidableEq, Repr

/-- The internal precision of R164: 33 significant bits, magnitudes from 2^-2046 to (2 - 2^-32)·2^2047; above it ±∞, below
it zero of the sign. -/
def intern (v : Val) : Val :=
  match v with
  | .fin s m e =>
    if m = 0 then .fin s 0 0
    else
      let q := floorLog m e - 32
      let n := roundAt 0 false s m e q
      if floorLog n q > 2047 then .inf s else if floorLog n q < -2046 then .fin s 0 0 else .fin s n q
  | v => v

/-- The internal value that 45 bits stand for. -/
def romVal (c : BitVec 45) : Val :=
  let n := c.toNat
  let e : Nat := max 1 (min 4094 (n / 2 ^ 32 % 4096))
  .fin (n.testBit 44) (2 ^ 32 + n % 2 ^ 32) ((e : Int) - 2079)

/-- A constant scaled by 2^128. -/
def const128 (n : Nat) : Val := .fin false n (-128)

/-- ln 2. -/
def ln2 : Nat := 0xb17217f7d1cf79abc9e3b39803f2f6af

/-- A finite value lies below minus a constant. -/
def belowNeg (v : Val) (n : Nat) : Bool := v.lt (const128 n).negate

/-- A finite power of two: its exponent. -/
def pow2Exp (v : Val) : Option Int :=
  match v with
  | .fin _ m e => if m ≠ 0 ∧ m = 2 ^ Nat.log2 m then some (floorLog m e) else none
  | _ => none

/-- An integer value. -/
def intOf (v : Val) : Option Int :=
  match v with
  | .fin s m e =>
    if e ≥ 0 then some (signed s (m * 2 ^ e.toNat))
    else if m % 2 ^ (-e).toNat = 0 then some (signed s (m / 2 ^ (-e).toNat)) else none
  | _ => none

/-- +1. -/
def one : Val := .fin false 1 0
/-- A zero of a sign. -/
def zeroOf (s : Bool) : Val := .fin s 0 0
/-- The largest finite BM40 magnitude with a sign. -/
def bmMax (s : Bool) : Val := .fin s (2 ^ 28 - 1) (2047 - 27)
/-- |v| ≥ 2^k. -/
def geOct (v : Val) (k : Int) : Bool := match v with | .fin _ m e => decide (m ≠ 0 ∧ floorLog m e ≥ k) | _ => true
/-- ±1 by sign. -/
def unit (s : Bool) : Val := .fin s 1 0

/-- A domain NaN (R166). -/
def domainNan : LRes := { v := .nan, domain := 1 }

/-- A built-in at +∞ or -∞ (R166). -/
def builtinInf (func : Nat) (s : Bool) : LRes :=
  if s then
    match func with
    | 0x00 => { v := .inf true }
    | 0x01 | 0x02 | 0x03 | 0x09 | 0x0D => { v := zeroOf false }
    | 0x06 | 0x0B | 0x0C => { v := zeroOf true }
    | 0x0A | 0x0E => { v := unit true }
    | 0x11 => { v := zeroOf true }
    | _ => domainNan
  else
    match func with
    | 0x00 | 0x01 | 0x02 | 0x04 | 0x05 | 0x08 | 0x0B | 0x0C | 0x0D => { v := .inf false }
    | 0x03 => { v := bmMax false, bmSat := 1 }
    | 0x06 | 0x07 | 0x11 => { v := zeroOf false }
    | 0x09 | 0x0A | 0x0E => { v := one }
    | _ => domainNan

/-- A built-in at ±0 (R166, R168). -/
def builtinZero (func : Nat) (s : Bool) : LRes :=
  match func with
  | 0x01 | 0x02 | 0x03 | 0x10 => { v := one }
  | 0x04 | 0x05 => { v := .inf true }
  | 0x06 | 0x07 => { v := .inf s }
  | 0x09 => { v := .fin false 1 (-1) }
  | 0x0D => { v := intern (const128 ln2) }
  | 0x11 => { v := bmMax s, bmSat := 1 }
  | _ => { v := zeroOf s }

/-- The exact points of R168, and the powers of two of EXP2, whose t₀ is 0 there as at EXP2(0) = 1. -/
def builtinExact (func : Nat) (s : Val) : Option Val :=
  match func with
  | 0x00 => some s
  | 0x02 => (intOf s).map fun n => .fin false 1 n
  | 0x04 => if s.eqv one then some (zeroOf false) else none
  | 0x05 => (pow2Exp s).map fun n => ofInt n 0 false
  | 0x06 => (pow2Exp s).map fun n => .fin s.neg 1 (-n)
  | 0x08 => match pow2Exp s with
    | some n => if n % 2 = 0 then some (.fin false 1 (n / 2)) else none
    | none => none
  | _ => none

/-- The flush of R167: the zero a built-in gives below its threshold. -/
def builtinFlush (func : Nat) (s : Val) : Option Val :=
  match func with
  | 0x01 | 0x09 | 0x0D => if belowNeg s (126 * ln2) then some (zeroOf false) else none
  | 0x02 => if s.lt (.fin true 126 0) then some (zeroOf false) else none
  | 0x03 => if belowNeg s (2046 * ln2) then some (zeroOf false) else none
  | 0x06 => if (Val.fin false 1 126).lt s.abs then some (zeroOf s.neg) else none
  | 0x0B => if belowNeg s 0xd258cdd273da2bd84bc0eafc379034e42 then some (zeroOf true) else none
  | 0x0C => if belowNeg s 0x5bdb55a0af284953eb665b1b864c067dd9 then some (zeroOf true) else none
  | _ => none

/-- The limits above the highest octave and the Taylor terms below the lowest (R168). -/
def builtinLimit (func : Nat) (s : Val) : Option Val :=
  let n := s.neg
  match func with
  | 0x09 =>
    if geOct s 7 ∧ ¬ n then some one
    else if ¬ geOct s (-8) then some ((Val.fin false 1 (-1)).add (s.scale (-2))) else none
  | 0x0A => if geOct s 4 then some (unit n) else if ¬ geOct s (-12) then some s else none
  | 0x0B => if geOct s 4 ∧ ¬ n then some s else if ¬ geOct s (-12) then some (s.scale (-1)) else none
  | 0x0C => if geOct s 7 ∧ ¬ n then some s else if ¬ geOct s (-12) then some (s.scale (-1)) else none
  | 0x0D =>
    if geOct s 5 ∧ ¬ n then some s
    else if ¬ geOct s (-12) then some ((const128 ln2).add (s.scale (-1))) else none
  | 0x0E =>
    if geOct s 2 then some (unit n)
    else if ¬ geOct s (-12) then some (s.mul (const128 0x120dd750429b6d11ae3a914fed7fd8688)) else none
  | _ => none

/-- A negative argument outside the domain, or an argument of SIN or COS beyond 2^20 (R166). -/
def builtinOut (func : Nat) (s : Val) : Bool :=
  (decide (func ∈ [0x04, 0x05, 0x07, 0x08]) && s.neg) ||
    (decide (func = 0x0F ∨ func = 0x10) && (Val.fin false 1 20).lt s.abs)

/-- The value of a built-in at a finite nonzero argument with encoding `code` (R166-R168). -/
def builtinFin (func code : Nat) (s : Val) : LRes :=
  if builtinOut func s then domainNan
  else
    match builtinFlush func s with
    | some v => { v := v, ftz := 1 }
    | none =>
      if func = 0x03 ∧ (const128 (2048 * ln2)).lt s then { v := bmMax false, bmSat := 1 }
      else if (func = 0x01 ∧ (const128 (2048 * ln2)).lt s) ∨ (func = 0x02 ∧ (Val.fin false 2048 0).le s) then
        { v := .inf false }
      else
        match builtinExact func s with
        | some v => { v := intern v }
        | none =>
          match builtinLimit func s with
          | some v => { v := intern v }
          | none =>
            let f := if func = 0x0D ∧ s.neg ∧ geOct s 5 then 0x01 else func
            { v := romVal (Config.latheRom f code) }

/-- lathe(func, s) for a built-in: FUNC codes above 0x11 that name no Jig are taken as 0x11 (R5, R167). The argument's
encoding is FP32, or BM40 for RCP_BM40. -/
def builtin (func code : Nat) : LRes :=
  let s := if func = 0x11 then fBM40.dec code else ofF32 code
  match s with
  | .nan => { v := .nan }
  | .inf n => builtinInf func n
  | .fin n m _ => if m = 0 then builtinZero func n else builtinFin func code s

/-! ### Jigs (R172-R177) -/

/-- A reader of a bank image: the little-endian number of `n` bytes at an offset. -/
abbrev Bank := Nat → Nat → Nat

/-- The table bank of a partition. -/
def Body.bank (b : Body) (p k : Nat) : Bank := fun off n => b.le (jigBase p k + off) n

/-- A coefficient of a segment. -/
def segC (bk : Bank) (k i : Nat) : Val := ofF32 (bk (4096 + 16 * k + 4 * i) 4)

/-- The registers of a Jig evaluation (R173). -/
structure JigSt where
  a : List Val
  n : Int := 0
  seam : Nat := 0
deriving DecidableEq, Repr

/-- The floor of a finite value. -/
def floorVal (v : Val) : Int :=
  match v with
  | .fin s m e =>
    if e ≥ 0 then signed s (m * 2 ^ e.toNat)
    else if s then -((ceilDiv m (2 ^ (-e).toNat) : Nat) : Int) else ((m / 2 ^ (-e).toNat : Nat) : Int)
  | _ => 0

/-- The index of the segment QUAD uses and t (R175). -/
def quadSeg (bk : Bank) (base imm : Nat) (v : Val) : Nat × Val :=
  let b := imm % 8192
  if imm.testBit 17 then
    let nmin := sInt 8 (bk (base + 3) 1)
    let noct := bk (base + 4) 1
    match v with
    | .fin _ m e =>
      let x := if m = 0 then -4096 else floorLog m e
      let o := max 0 (min (x - nmin) ((noct : Int) - 1))
      let mt : Val := if m = 0 then zeroOf false else .fin false m (e - x)
      let u := (mt.add (unit true)).scale 6
      let k := floorVal u
      (b + 64 * o.toNat + k.toNat, u.add (ofInt (-k) 0 false))
    | _ => (b, zeroOf false)
  else
    let lg := min 12 (imm / 8192 % 16)
    let top : Val := .fin false (2 ^ 32 - 1) (-32)
    let u := if v.neg then zeroOf false else if top.lt v then top else v
    let u := u.scale lg
    let k := floorVal u
    (b + k.toNat, u.add (ofInt (-k) 0 false))

/-- c0 + c1·t + c2·t² of a segment, rounded once; with SEAM_CLAMP held between the segment's ends (R175, R177). -/
def quadVal (bk : Bank) (seamOn : Bool) (k : Nat) (t : Val) : Val × Nat :=
  let c0 := segC bk k 0
  let c1 := segC bk k 1
  let c2 := segC bk k 2
  let v := intern (c0.add ((c1.mul t).add (c2.mul (t.mul t))))
  let e := intern (c0.add (c1.add c2))
  if seamOn ∧ ¬ v.isNan ∧ ¬ c0.isNan ∧ ¬ e.isNan then
    let lo := if c0.le e then c0 else e
    let hi := if c0.le e then e else c0
    if v.lt lo then (lo, 1) else if hi.lt v then (hi, 1) else (v, 0)
  else (v, 0)

/-- A value is infinite. -/
def Val.isInf : Val → Bool
  | .inf _ => true
  | _ => false

/-- One step other than OUT (R174). -/
def jigStep (bk : Bank) (base : Nat) (w : Nat) (st : JigSt) : JigSt :=
  let op := min 0x0E (w / 2 ^ 27)
  let d := w / 2 ^ 25 % 4
  let a := st.a.getD (w / 2 ^ 23 % 4) .nan
  let c := st.a.getD (w / 2 ^ 21 % 4) .nan
  let imm := w % 2 ^ 21
  let k := ofF32 (bk (base + 8 + 4 * (imm % 16)) 4)
  let put : Val → JigSt := fun v => { st with a := st.a.set d v }
  let open_ : Val := romVal (Config.jigOpen w)
  match op with
  | 0x01 => put (intern (a.add c))
  | 0x02 => put (intern (a.mul c))
  | 0x03 => put (intern (a.add k))
  | 0x04 => put (intern (a.mul k))
  | 0x05 => put a.abs
  | 0x06 => put a.negate
  | 0x07 => put (a.minmax false c)
  | 0x08 => put (a.minmax true c)
  | 0x09 => if (zeroOf false).le a then put c else st
  | 0x0A =>
    if a.isNan then put .nan
    else if a.isInf then { st with a := st.a.set d a, n := if a.neg then -4096 else 4095 }
    else
      let n := max (-4096) (min 4095 (floorVal a))
      { st with a := st.a.set d (intern (a.add (ofInt (-n) 0 false))), n := n }
  | 0x0B =>
    match a with
    | .fin _ m e =>
      if m = 0 then { st with a := st.a.set d (zeroOf false), n := -4096 }
      else { st with a := st.a.set d (.fin false m (e - floorLog m e)), n := floorLog m e }
    | .inf _ => put open_
    | .nan => put .nan
  | 0x0C => put (intern (a.scale st.n))
  | 0x0D =>
    if a.isNan then put .nan
    else if a.isInf ∧ imm.testBit 17 then put open_
    else
      let p := quadSeg bk base imm a
      let r := quadVal bk (bk base 1 % 4 ≥ 2) p.1 p.2
      { st with a := st.a.set d r.1, seam := st.seam + r.2 }
  | _ =>
    let f := imm % 256
    let f := if f = 3 then 1 else if f > 0x10 then 6 else f
    put (builtin f (toF32 a)).v

/-- The steps from number `i` on; `n` are left (R174). -/
def jigRun (bk : Bank) (base : Nat) : Nat → Nat → JigSt → Val × Nat
  | 0, _, st => (st.a.getD 0 .nan, st.seam)
  | n + 1, i, st =>
    let w := bk (base + 72 + 4 * i) 4
    if w / 2 ^ 27 = 0 then (st.a.getD (w / 2 ^ 23 % 4) .nan, st.seam)
    else jigRun bk base n (i + 1) (jigStep bk base w st)

/-- The value of Jig `j` of a bank at an FP32 argument (R173-R177). -/
def jig (bk : Bank) (j code : Nat) : LRes :=
  let base := 256 * j
  let s := ofF32 code
  match s with
  | .nan => { v := .nan }
  | .inf n =>
    let v := ofF32 (bk (base + 8 + 4 * (bk (base + (if n then 6 else 5)) 1 % 16)) 4)
    { v := v, domain := if v.isNan then 1 else 0 }
  | s =>
    let (v, seam) := jigRun bk base (max 1 (min 32 (bk (base + 1) 1))) 0
      { a := [s, zeroOf false, zeroOf false, zeroOf false] }
    let f := min 0 (sInt 8 (bk (base + 2) 1))
    let flush : Bool := match v with
      | .fin _ m e => decide (f ≠ -128 ∧ m ≠ 0 ∧ floorLog m e < f)
      | _ => false
    { v := if flush then zeroOf v.neg else v, ftz := if flush then 1 else 0, domain := if v.isNan then 1 else 0,
      seam := seam }

/-- Jig `j` of a bank is VALID. -/
def jigValid (bk : Bank) (j : Nat) : Bool := decide (bk (256 * j) 1 % 2 = 1)

/-! ### A Lathe pass (R164, R165) -/

/-- The function a FUNC field names: reserved codes are RCP_BM40 (R167). -/
def funcOf (f : Nat) : Nat := if f ≤ 0x11 then f else if 0x40 ≤ f ∧ f ≤ 0x4F then f else 0x11

/-- EXP_BM40 and RCP_BM40 have BM40 results. -/
def bmFunc (f : Nat) : Bool := decide (f = 0x03 ∨ f = 0x11)

/-- lathe(func, s). -/
def latheFn (bk : Bank) (func code : Nat) : LRes :=
  if func ≥ 0x40 then jig bk (func - 0x40) code else builtin func code

/-- A Lathe pass f(x + y) × z (R164). `x` is an FP32 encoding, or BM40 where `xBm`. The result is BM40 when the function
delivers BM40, FP32 otherwise. -/
def lathePass (bk : Bank) (func : Nat) (x : Nat) (xBm : Bool) (y z : Nat) : Nat × LRes :=
  let f := funcOf func
  let s :=
    if f = 0x11 then (if xBm then x else (fBM40.conv 0 false false (ofF32 x)).1)
    else toF32 ((if xBm then fBM40.dec x else ofF32 x).add (ofF32 y))
  let r := latheFn bk f s
  let p := r.v.mul (ofF32 z)
  if bmFunc f then
    let (c, t) := fBM40.conv 0 false false p
    (c, { r with bmSat := r.bmSat + t.bmSat, bmFtz := r.bmFtz + t.bmFtz })
  else (toF32 p, r)

/-- Counts what Lathe evaluations of a Berth give (R166, R167, R177, R57). -/
def Body.latheCount (b : Body) (g : Nat) (r : LRes) : Body :=
  let b := b.bump (.brLatheTally g) Fld.brLatheTallyFtz r.ftz
  let b := b.bump (.brLatheTally g) Fld.brLatheTallyDomain r.domain
  let b := b.bump (.brLatheTally g) Fld.brLatheTallySeam r.seam
  b

end Sys2Proof.Machine
end

