-- ==== Sys2Proof/Machine/Manifest.lean ====
section
/-!
DEFINITION. The Manifest and the allotment of Holds and Sheds (R102-R112): binding, unbinding, allotting, zeroing, and
the power of slices and segments.
-/

namespace Sys2Proof.Machine

/-! ### Regions -/

/-- The Quay of a Hold slice or Shed segment. -/
def regionQuay (r : Nat) : Nat := if r < 1600 then r / 160 else (r - 1600) / 18

/-- The slices and segments that a range of Hold or Shed addresses touches; a range within one stride. -/
def regionsOf (a n : Nat) : List Nat :=
  if n = 0 then []
  else (List.range (regionOf (a + n - 1) + 1 - regionOf a)).map (regionOf a + ·)

/-- The context slot + 1 that a slice or segment is allotted to, or 0 (R102). -/
def Body.allotOf (b : Body) (r : Nat) : Nat := SMap.get b.st.allot 0 r

/-- The slices and segments allotted to a slot, in increasing number. -/
def Body.allotted (b : Body) (slot : Nat) : List Nat :=
  (b.st.allot.filter fun p => decide (p.2 = slot + 1)).map (·.1)

/-- A command of a context that has started may access a slice or segment. -/
def Body.inUse (b : Body) (r : Nat) : Bool := b.hm.flights.any fun x => x.started && decide (r ∈ x.uses)

/-- The flat window of a partition in a tier, from the framing fields of R322: base and size in bytes. -/
def Body.winOf (b : Body) (p place : Nat) : Nat × Nat :=
  let v := frGet b.framing (0x043 + place) p
  (v % 2 ^ 32 * 2 ^ 30, v / 2 ^ 32 % 2 ^ 32 * 2 ^ 30)

/-- A range of a tier lies in the window of a slot's partition (R322). The management context's window is every tier
entire. -/
def Body.inWindow (b : Body) (slot place a n : Nat) : Bool :=
  match b.partOfSlot slot with
  | none => b.rangeOk a n
  | some p =>
    if place = 2 ∧ b.getF .mtCfg Fld.mtCfgHMode ≠ 0 then
      decide (a / 0x2000000000 ∈ quaysOf b.framing p) && decide (a / 0x2000000000 = (a + n - 1) / 0x2000000000) &&
        b.rangeOk a n
    else
      let base := if place = 2 then 0 else if place = 3 then tierLBase else tierFBase
      let (w, sz) := b.winOf p place
      decide (base + w ≤ a ∧ a + n ≤ base + w + sz) && b.rangeOk a n

/-! ### MF_BIND (R39, R107, R112, R205, R230) -/

/-- The scale kind nearest to `k` that R39 permits for a format. -/
def nearKind (fmt k : Nat) : Nat :=
  if isMx fmt then 2 else if fmt ≥ 0xB then 0 else min k 1

/-- The entry that words 1-7 of MF_BIND give, with out-of-range values clamped (R107, R230), and the fields clamped. -/
def bindEntry (c : Cmd) : Entry × Nat :=
  let base := c.f 1 47 0
  let place := min 5 (c.f 2 63 61)
  let fmt := min 0xD (c.f 2 57 54)
  let sk := nearKind fmt (c.f 2 53 52)
  let layout := if c.f 2 51 48 > 4 then 4 else c.f 2 51 48
  let size := max 32 (c.f 2 44 0 / 32 * 32)
  let cols := c.f 3 63 32
  let rows := c.f 3 31 0
  let pitch0 := c.f 4 47 0
  let pitch := if layout = 3 then max pitch0 (cols * (elemBits fmt / 8)) else pitch0
  let param := (c.w 7).toNat
  let pp := param / 2 ^ 32
  let pp' := if layout = 3 then max pp (ceilDiv ((param / 65536 % 65536 + 1) * rows * pitch) 32 % 2 ^ 32) else pp
  let e : Entry :=
    { base := base / 32 * 32, place := place, valid := true, rd := c.b 2 59, wr := c.b 2 58, fmt := fmt, sk := sk,
      layout := layout, size := size, rows := rows, cols := cols, pitch := pitch, axis := c.f 4 48 48,
      scaleF32 := c.f 5 31 0, scaleBase := c.f 5 47 0, module := c.f 6 15 0, gangway := c.f 6 21 16, key := c.f 6 63 32,
      param := param % 2 ^ 32 + pp' * 2 ^ 32 }
  (e, [decide (e.base ≠ base), decide (place ≠ c.f 2 63 61), decide (fmt ≠ c.f 2 57 54), decide (sk ≠ c.f 2 53 52),
    decide (layout ≠ c.f 2 51 48), decide (size ≠ c.f 2 44 0), decide (pitch ≠ pitch0), decide (pp' ≠ pp)].count true)

/-- The format of a Crate Map as a format code (R209). -/
def crateFmt (k : Nat) : Nat := if k < 2 then k else k + 6

/-- An entry may be bound (R102, R107, R205, R230, R317, R322); `kind` is the SCALE_KIND as the descriptor gives it. -/
def Body.bindOk (b : Body) (slot kind : Nat) (e : Entry) : Bool :=
  if e.layout = 4 then
    match SMap.find b.crates.maps (e.param % 4096) with
    | some m => decide (e.fmt = crateFmt m.fmt) && decide (kind < 2)
    | none => false
  else if e.layout = 3 ∧ ¬ (e.fmt ∈ [0, 1, 8, 9, 10] ∧ kind < 2) then false
  else if e.place = 5 then true
  else if e.place < 2 then
    decide (b.placeOf e.base = some e.place) && decide (b.placeOf (e.base + e.size - 1) = some e.place) &&
      (regionsOf e.base e.size).all fun r => decide (b.allotOf r = slot + 1)
  else decide (b.placeOf e.base = some e.place) && b.inWindow slot e.place e.base e.size

/-- A command that started and has not completed resolved an entry, or a Gangway on it has not closed (R112, R116). -/
def Body.entryBusy (b : Body) (slot idx : Nat) : Bool :=
  (b.hm.flights.any fun x => x.started && decide (x.slot = slot) && decide (idx ∈ x.handles)) ||
    (b.st.gws.any fun p => p.2.opened && decide (p.2.slot = slot ∧ p.2.handle / 65536 = idx))

/-- GEN after an unbind (R111). -/
def nextGen (g : Nat) : Nat := if g ≥ 65535 then 1 else g + 1

/-- Invalidates an entry and advances its GEN; the rest is cleared. -/
def Body.invalidate (b : Body) (slot idx : Nat) : Body :=
  b.setEntry slot idx { gen := nextGen (b.entry slot idx).gen }

/-- Binds an entry with its current GEN, and completes MF_BIND with the handle (R111, R112, R289). -/
def Body.bindNow (b : Body) (fl : Flight) (idx : Nat) : Body :=
  let e := (bindEntry fl.cmd).1
  let g := (b.entry fl.slot idx).gen
  (b.setEntry fl.slot idx { e with gen := g }).done fl (idx * 65536 + g)

/-- A Gangway closes, or stops accepting accesses until those accepted have completed (R116). -/
def Body.gwShut (b : Body) (g : Nat) : Body :=
  let w := SMap.get b.st.gws {} g
  if ¬ w.opened then b
  else if b.st.gwPend.any (fun p => decide (p.gw = g)) then
    { b with st.gws := SMap.set b.st.gws {} g { w with closing := true } }
  else { b with st.gws := SMap.drop b.st.gws g }

/-- Shuts the open Gangways that satisfy a condition. -/
def Body.gwShutWhere (b : Body) (p : Gangway → Bool) : Body :=
  (List.range 64).foldl (fun b g =>
    let w := SMap.get b.st.gws {} g
    if w.opened && p w then b.gwShut g else b) b

/-- What stands first for an entry proceeds, when nothing uses the entry: an unbind invalidates it; a bind of a valid
entry invalidates it and binds. -/
def Body.entStep (b : Body) (slot idx : Nat) : Body :=
  if b.entryBusy slot idx then b
  else
    match b.st.ents.find? fun p => decide (p.1.slot = slot ∧ p.2 = idx) with
    | none => b
    | some (fl, _) =>
      let b := { b with st.ents := b.st.ents.filter fun p => decide (p.1.uid ≠ fl.uid) }
      let b := if (b.entry slot idx).valid then b.invalidate slot idx else b
      if fl.opc = 0x38 then b.bindNow fl idx else b.done fl

/-- An unbind, or a bind of an entry that is valid or awaits an unbind, is accepted: Gangways on the entry shut, and it
proceeds at once where nothing stands before it. -/
def Body.entAccept (b : Body) (fl : Flight) (idx : Nat) : Body :=
  let first := !b.unbinding fl.slot idx
  let b := b.gwShutWhere fun w => decide (w.slot = fl.slot ∧ w.handle / 65536 = idx)
  let b := { b.start fl with st.ents := b.st.ents ++ [(fl, idx)] }
  if first then b.entStep fl.slot idx else b

/-- The entry MF_BIND names: word 1 [57:48], or the lowest invalid entry with no unbind pending (R112). -/
def Body.bindIndex (b : Body) (slot : Nat) (c : Cmd) : Option Nat :=
  if c.b 1 58 then
    (List.range 1024).find? fun i => !(b.entry slot i).valid && !b.unbinding slot i
  else some (c.f 1 57 48)

/-- MF_BIND (R107, R112). -/
def execMfBind (c : Cmd) (s : State) : Host.Outcome State Fault Refusal :=
  s.onBody fun b => b.onCmd c 0x38 fun b fl =>
    let (e, n) := bindEntry c
    let b := b.clampCmd fl n
    if ¬ b.bindOk fl.slot (c.f 2 53 52) e then b.fail fl 0x11
    else
      match b.bindIndex fl.slot c with
      | none => b.fail fl 0x11
      | some idx =>
        if (b.entry fl.slot idx).valid ∨ b.unbinding fl.slot idx then b.entAccept fl idx else b.bindNow fl idx

/-- MF_UNBIND (R112) of the handle in word 1 [63:38] (log entry 20). -/
def execMfUnbind (c : Cmd) (s : State) : Host.Outcome State Fault Refusal :=
  s.onBody fun b => b.onCmd c 0x39 fun b fl =>
    match b.resolve fl.slot (c.h 1) with
    | none => b.fail fl 0x12
    | some _ => b.entAccept fl (c.h 1 / 65536)

/-- UNBIND_TAKES_EFFECT (R112): the last command that resolved the entry has finished. -/
def execUnbindTakesEffect (slot : Fin 65) (idx : Fin 1024) (s : State) : Host.Outcome State Fault Refusal :=
  s.onBody fun b => b.entStep slot idx

/-! ### Allotment and zeroing (R102, R105) -/

/-- Starts the zeroing of slices and segments: until it finishes their contents are undefined. Those without power have
none. -/
def Body.zeroStart (b : Body) (rs : List Nat) : Body :=
  rs.foldl (fun b r =>
    if b.regionReady r ∧ r ∉ b.st.zeroing then { b.loseRegion r with st.zeroing := b.st.zeroing ++ [r] } else b) b

/-- The command waits for the zeroing of those of the regions that are being zeroed, or ends with DONE. -/
def Body.zeroAwait (b : Body) (fl : Flight) (rs : List Nat) : Body :=
  let w := rs.filter fun r => decide (r ∈ b.st.zeroing)
  if w = [] then b.done fl else { b.start fl with st.zeroWait := b.st.zeroWait ++ [(fl, w)] }

/-- Sets what a slot is allotted, and starts zeroing what it loses. -/
def Body.setAllot (b : Body) (slot : Nat) (new : List Nat) : Body :=
  let gone := (b.allotted slot).filter fun r => decide (r ∉ new)
  let b := { b with st.allot := b.st.allot.filter fun p => decide (p.2 ≠ slot + 1) }
  (new.foldl (fun b r => { b with st.allot := SMap.set b.st.allot 0 r (slot + 1) }) b).zeroStart gone

/-- MF_ALLOT (R102): the allotment becomes the regions named (log entry 21). One of another context's, or outside the
partition, faults. While a command of the context may access a region it loses, or a region it gains is being zeroed,
it waits. -/
def execMfAllot (c : Cmd) (regions : List (Fin 1780)) (s : State) : Host.Outcome State Fault Refusal :=
  s.onBody fun b => b.onCmd c 0x3A fun b fl =>
    let new := regions.map (·.val)
    let old := b.allotted fl.slot
    let quays := b.quaysOfSlot fl.slot
    if new.any fun r => decide (regionQuay r ∉ quays) || decide (b.allotOf r ≠ 0 ∧ b.allotOf r ≠ fl.slot + 1) then
      b.fail fl 0x11
    else
      let gone := old.filter fun r => decide (r ∉ new)
      if gone.any b.inUse || new.any (fun r => decide (r ∉ old ∧ r ∈ b.st.zeroing)) then b
      else (b.setAllot fl.slot new).zeroAwait fl gone

/-- The zeroing of a region finishes (R105); the commands it was the last for are returned. -/
def Body.zeroFinish (b : Body) (r : Nat) : Body × List Flight :=
  if r ∈ b.st.zeroing ∧ b.regionReady r then
    let b := { b.zeroRegion r with st.zeroing := b.st.zeroing.filter fun x => decide (x ≠ r) }
    let w := b.st.zeroWait.map fun p => (p.1, p.2.filter fun x => decide (x ≠ r))
    ({ b with st.zeroWait := w.filter fun p => decide (p.2 ≠ []) },
      (w.filter fun p => decide (p.2 = [])).map (·.1))
  else (b, [])

/-! ### Power of slices and segments (R103-R105) -/

/-- SLICE_ON or SEG_ON of a region. -/
def Body.regionOn (b : Body) (r : Nat) : Bool :=
  if r < 1600 then (b.reg (.brHoldPwr (r / 8))).bit (r % 8) else (b.reg (.qyShedPwr ((r - 1600) / 18))).bit ((r - 1600) % 18)

/-- Sets SLICE_READY or SEG_READY of a region. -/
def Body.setReady (b : Body) (r : Nat) (v : Bool) : Body :=
  let (g, i) : Reg × Nat :=
    if r < 1600 then (.brHoldPwr (r / 8), 8 + r % 8) else (.qyShedPwr ((r - 1600) / 18), 32 + (r - 1600) % 18)
  b.setReg g (BitVec.ofNat 64 (putBits (b.reg g).toNat i i (if v then 1 else 0)))

/-- The domain that holds a region is released: the Quay lies in a partition and is not absent (R29), and a slice's Berth is not laid up. -/
def Body.domainUp (b : Body) (r : Nat) : Bool :=
  (partOfQuay b.framing (regionQuay r)).isSome && decide (regionQuay r ∉ b.bw.absent) &&
    (decide (r ≥ 1600) || decide (b.getF (.brPwrStat (r / 8)) Fld.brPwrStatState ≠ 3))

/-- The power bit of a region takes effect: on, it will become ready; off, it is no longer and its contents are
undefined. -/
def Body.powerApply (b : Body) (r : Nat) : Body :=
  let b := { b with st.powerPend := b.st.powerPend.filter fun x => decide (x ≠ r) }
  if b.regionOn r ∧ b.domainUp r then
    if b.regionReady r ∨ r ∈ b.st.powering then b else { b with st.powering := b.st.powering ++ [r] }
  else
    let b := { b with st.powering := b.st.powering.filter fun x => decide (x ≠ r) }
    if b.regionReady r then (b.setReady r false).loseRegion r else b

/-- SLICE_POWER_CHANGE (R103): a frame boundary with no request pending in the region. -/
def execSlicePowerChange (region : Fin 1780) (s : State) : Host.Outcome State Fault Refusal :=
  s.onBody fun b =>
    let r := region.val
    if r ∈ b.st.powerPend ∧ ¬ b.inUse r then b.powerApply r else b

/-- SLICE_READY (R103). Power-on leaves the contents undefined (R105); a region that a reset is zeroing was not powered off. -/
def execSliceReady (region : Fin 1780) (s : State) : Host.Outcome State Fault Refusal :=
  s.onBody fun b =>
    let r := region.val
    if r ∈ b.st.powering then
      let b := { b with st.powering := b.st.powering.filter fun x => decide (x ≠ r) }.setReady r true
      if r ∈ b.st.zeroing then b else b.loseRegion r
    else b

/-- The Hold or Shed domain of a region is down: not ready, contents undefined. -/
def Body.regionDown (b : Body) (r : Nat) : Body :=
  let b := { b with st.powering := b.st.powering.filter fun x => decide (x ≠ r) }
  (b.setReady r false).loseRegion r

end Sys2Proof.Machine
end

