-- ==== Sys2Proof/Machine/Random.lean ====
section
/-!
DEFINITION. Swells, Ripples and the sampling unit (R266-R278).
-/

namespace Sys2Proof.Machine

/-! ### Swells (R266-R268) -/

/-- A Swell source as held. -/
def Body.swell (b : Body) (s : Nat) : Swell := b.rnd.swells.getD s {}

/-- Changes a Swell source. -/
def Body.setSwell (b : Body) (s : Nat) (w : Swell) : Body := { b with rnd.swells := b.rnd.swells.set s w }

/-- RP_SWELL_STAT.STATE. -/
def Body.swellState (b : Body) (s : Nat) : Nat := b.getF (.rpSwellStat s) Fld.rpSwellStatState

/-- Both sources are FAILED. -/
def Body.noEntropy (b : Body) : Bool := decide (b.swellState 0 = 3 ∧ b.swellState 1 = 3)

/-- The source that serves consumers of source `s`: the other while it is FAILED. -/
def Body.sourceFor (b : Body) (s : Nat) : Nat := if b.swellState s = 3 then 1 - s else s

/-- Takes the Swell word that the source of a consumer holds. -/
def Body.takeWord (b : Body) (s : Nat) : Option (BitVec 384 × Body) :=
  let k := b.sourceFor s
  match (b.swell k).word with
  | some w => some (w, b.setSwell k { b.swell k with word := none })
  | none => none

/-- The command waits for entropy: it stays in flight, and its row is taken again. -/
def Body.awaitEntropy (b : Body) (fl : Flight) : Body :=
  if fl.uid ∈ b.rnd.waits then b else { b with rnd.waits := b.rnd.waits ++ [fl.uid] }

/-- The runs of identical samples over `n` more samples: the last sample, its run, and the longest run met. -/
def runs (x : BitVec 1024) : Nat → Nat → Bool → Nat → Nat → Bool × Nat × Nat
  | 0, _, last, run, best => (last, run, best)
  | n + 1, i, last, run, best =>
    let v := x.getLsbD i
    let run := if v = last ∧ run > 0 then run + 1 else 1
    runs x n (i + 1) v run (max best run)

/-- Samples of a window equal to its first. -/
def likeFirst (x : BitVec 1024) : Nat := ((List.range 1024).filter fun i => x.getLsbD i = x.getLsbD 0).length

/-- Nanoseconds of a second. -/
def second : Nat := 1000000000

/-- A source fails a test (0 start-up, 1 repetition count, 2 adaptive proportion): it restarts, and becomes FAILED at the
third failure within one second, with an error record (R268). -/
def Body.swellFail (b : Body) (s test : Nat) : Body :=
  let w := b.swell s
  let fails := (w.fails.filter fun t => decide (b.now - t.toNat < second)) ++ [b.ts]
  let b := b.setSwell s { w with fails := fails, blocks := 0 }
  if fails.length ≥ 3 then
    (b.setF (.rpSwellStat s) Fld.rpSwellStatState 3).err 0x0A01 1 13 s [s, test]
  else b.setF (.rpSwellStat s) Fld.rpSwellStatState 2

/-- The Ripples a source serves first (R266): of Q0-Q4 and the sampling unit for W, of Q5-Q9 for E. -/
def ripplesOf (s : Nat) : List Nat :=
  if s = 0 then List.range 400 ++ [800, 801] else (List.range 400).map (400 + ·)

/-- A Ripple as held. -/
def Body.ripple (b : Body) (r : Nat) : Ripple := SMap.get b.rnd.ripples {} r

/-- Changes a Ripple. -/
def Body.setRipple (b : Body) (r : Nat) (x : Ripple) : Body :=
  { b with rnd.ripples := SMap.set b.rnd.ripples {} r x }

/-- A healthy source has a word: its waiting consumers are served first, then a Ripple without a seed. -/
def Body.deliver (b : Body) (s : Nat) (w : BitVec 384) : Body :=
  let b := b.bump (.rpSwellStat s) Fld.rpSwellStatWords 1
  if (b.swell s).word = none then b.setSwell s { b.swell s with word := some w }
  else
    let rs := ripplesOf s ++ (if b.swellState (1 - s) = 3 then ripplesOf (1 - s) else [])
    match rs.find? fun r => decide ((b.ripple r).seed = none) with
    | some r => b.setRipple r { b.ripple r with seed := some (Config.seedOf w) }
    | none => b

/-- SWELL_WORD (R266-R268): a block of 1,024 raw samples meets the health tests, and is conditioned with SHA-384. -/
def execSwellWord (s : Fin 2) (samples : BitVec 1024) (st : State) : Host.Outcome State Fault Refusal :=
  st.onBody fun b =>
    if b.swellState s = 3 then b
    else
      let w := b.swell s
      let (last, run, best) := runs samples 1024 0 w.last w.run 0
      let rct := decide (best ≥ 41)
      let apt := decide (likeFirst samples ≥ 800)
      let b := b.setSwell s { w with last := last, run := run }
      let b := if rct then b.bump (.rpSwellStat s) Fld.rpSwellStatRctFail 1 else b
      let b := if apt then b.bump (.rpSwellStat s) Fld.rpSwellStatAptFail 1 else b
      if b.swellState s = 1 then
        if rct then b.swellFail s 1
        else if apt then b.swellFail s 2
        else b.deliver s (sha384 (beBytes 128 (Config.swellPack samples).toNat))
      else if rct ∨ apt then b.swellFail s 0
      else b.setSwell s { b.swell s with blocks := (b.swell s).blocks + 1 }

/-- SWELL_RESTART_DONE (R267, R268): the start-up test over 4,096 samples has passed. -/
def execSwellRestartDone (s : Fin 2) (st : State) : Host.Outcome State Fault Refusal :=
  st.onBody fun b =>
    if (b.swellState s = 0 ∨ b.swellState s = 2) ∧ (b.swell s).blocks ≥ 4 then
      (b.setSwell s { b.swell s with blocks := 0 }).setF (.rpSwellStat s) Fld.rpSwellStatState 1
    else b

/-- The unit that a command needs entropy for, as its error record names it. -/
def entropyUnit (opc : Nat) : Nat × Nat :=
  if opc = 0x5D then (9, 0) else if opc = 0x83 ∨ opc = 0x86 then (11, 0) else (2, 0)

/-- ENTROPY_TIMEOUT (R268): a command that has waited 10 ms while both sources are FAILED ends with ENTROPY_FAIL. -/
def execEntropyTimeout (wq : Fin 64) (tag : BitVec 16) (st : State) : Host.Outcome State Fault Refusal :=
  st.onBody fun b =>
    match b.hm.flights.find? fun x => decide (x.cmd.wq = wq ∧ x.cmd.tag = tag ∧ x.uid ∈ b.rnd.waits) with
    | some fl =>
      if b.noEntropy then
        let b := { b with rnd.waits := b.rnd.waits.filter fun u => decide (u ≠ fl.uid),
                          rnd.mixes := b.rnd.mixes.filter fun p => decide (p.1.uid ≠ fl.uid) }
        let (k, u) := entropyUnit fl.opc
        b.failWith fl 0x23 0x0A02 1 k u [b.swellState 0 + 4 * b.swellState 1]
      else b
    | none => b

/-! ### Ripples (R269-R271) -/

/-- Four 64-bit words of 256 bits, lowest first. -/
def words4 (x : BitVec 256) : List Word := [0, 64, 128, 192].map fun k => (x >>> k).setWidth 64

/-- The draw that a xoshiro256** state gives, and the next state. -/
def xoshiro (s : List Word) : Word × List Word :=
  match s with
  | [a, b, c, d] =>
    let r := (b * 5).rotateLeft 7 * 9
    let t := b <<< 17
    let c := c ^^^ a
    let d := d ^^^ b
    let b' := b ^^^ c
    let a := a ^^^ d
    (r, [a, b', c ^^^ t, d.rotateLeft 45])
  | s => (0, s)

/-- Four free values: a seed from noise that no command names. -/
def Body.freeSeed (b : Body) : List Word × Body :=
  let (x0, b) := b.free
  let (x1, b) := b.free
  let (x2, b) := b.free
  let (x3, b) := b.free
  ([x0, x1, x2, x3], b)

/-- A Ripple seeded since its last reset: with the seed it has fetched, or with one from noise no command names (R270). -/
def Body.seeded (b : Body) (r : Nat) : Ripple × Body :=
  let p := b.ripple r
  if p.live then (p, b)
  else
    match p.seed with
    | some x => ({ p with s := words4 x, seed := none, live := true }, b)
    | none =>
      let (x, b) := b.freeSeed
      ({ p with s := x, live := true }, b)

/-- One draw of a Ripple; its reseed is due after 2^32 (R269, R270). -/
def Body.draw (b : Body) (r : Nat) : Word × Body :=
  let (p, b) := b.seeded r
  let (d, s) := xoshiro p.s
  let b := b.setRipple r { p with s := s, draws := p.draws + 1, due := p.due || decide (p.draws + 1 ≥ 2 ^ 32) }
  (d, if r < 800 then b.bump (.rpDraws (r / 4)) Fld.rpDrawsDraws 1 else b)

/-- A reseed that is due takes effect, when the seed has arrived (R270, R271, R277). -/
def Body.reseed (b : Body) (r : Nat) : Body :=
  let p := b.ripple r
  match p.seed with
  | some x =>
    if p.due ∨ ¬ p.live then
      let x := x ^^^ p.mix
      let s := (p.s.zip (words4 x)).map fun q => q.1 ^^^ q.2
      let s := if ¬ p.live ∨ s = [0, 0, 0, 0] then words4 x else s
      let b := b.setRipple r { s := s, live := true }
      let b := if r < 800 then b.bump (.rpDraws (r / 4)) Fld.rpDrawsReseeds 1 else b
      let m := b.rnd.mixes.map fun q => (q.1, q.2.filter fun k => decide (k ≠ r))
      let b := { b with rnd.mixes := m.filter fun q => decide (q.2 ≠ []) }
      (m.filter fun q => decide (q.2 = [])).foldl (fun b q => b.done q.1) b
    else b
  | none => b

/-- RIPPLE_RESEED (R270). -/
def execRippleReseed (r : Fin 802) (st : State) : Host.Outcome State Fault Refusal := st.onBody fun b => b.reseed r

/-- RP_MIX (R271): hashes a fresh Swell word, SEED, the context id and the timestamp into the pending seed of every Ripple
of the partition, and of the sampling unit's with SAMPLER. It waits for the word, then for the reseeds. -/
def execRpMix (c : Cmd) (st : State) : Host.Outcome State Fault Refusal :=
  st.onBody fun b => b.onCmd c 0x5C fun b fl =>
    match b.takeWord 1 with
    | none => b.awaitEntropy fl
    | some (w, b) =>
      let b := { b with rnd.waits := b.rnd.waits.filter fun u => decide (u ≠ fl.uid) }
      let h := sha384 (beBytes 48 w.toNat ++ leBytes 8 (c.w 1).toNat ++ leBytes 2 c.ctx.toNat ++ leBytes 8 b.now)
      let mix := Config.seedOf h
      let rs := (b.quaysOfSlot fl.slot).flatMap (fun q => (List.range 80).map (80 * q + ·)) ++
        (if c.b 2 0 then [800, 801] else [])
      let b := rs.foldl (fun b r => b.setRipple r { b.ripple r with mix := (b.ripple r).mix ^^^ mix, due := true }) b
      if rs = [] then b.done fl else { b.start fl with rnd.mixes := b.rnd.mixes ++ [(fl, rs)] }

/-- Every Ripple of a Quay is seeded from a fresh Swell word before its first draw (R270). -/
def Body.ripplesLost (b : Body) (rs : List Nat) : Body :=
  rs.foldl (fun b r => b.setRipple r { b.ripple r with live := false, due := false, draws := 0, s := [0, 0, 0, 0] }) b

/-! ### Token sampling (R274-R276) -/

/-- A row's settings after clamps: τ and p as FP32 encodings, k - 1, and the fields clamped (R274). -/
def sampleClamp (temp topP k1 v1 : Nat) : Nat × Nat × Nat × Nat :=
  let t := ofF32 temp
  let p := ofF32 topP
  let (temp, n1) := if t.isNan then (0x3F800000, 1) else if t.lt (zeroOf false) then (0, 1) else (temp, 0)
  let (topP, n2) :=
    if p.isNan then (0x3F800000, 1) else if p.lt (zeroOf false) then (0, 1) else if one.lt p then (0x3F800000, 1)
    else (topP, 0)
  (temp, topP, min k1 v1, n1 + n2 + (if k1 > v1 then 1 else 0))

/-- Keeps a candidate among the `k` best, in order of z descending, an earlier index first. -/
def candInsert (x : Nat × Val) : List (Nat × Val) → List (Nat × Val)
  | [] => [x]
  | y :: r => if y.2.lt x.2 then x :: y :: r else y :: candInsert x r

/-- The `k` candidates with largest z (R275). -/
def topK (k : Nat) (zs : List (Nat × Val)) : List (Nat × Val) := zs.foldl (fun a x => (candInsert x a).take k) []

/-- The running FP32 sums of weights. -/
def runSum : List Nat → Option Nat → List Nat
  | [], _ => []
  | w :: r, none => w :: runSum r (some w)
  | w :: r, some c => f32Add c w :: runSum r (some (f32Add c w))

/-- The built-in EXP of an FP32 encoding, rounded to FP32. -/
def expF32 (c : Nat) : Nat := toF32 (builtin 1 c).v

/-- A row's result: token, prob, rank, kept count (R275, R276). `u` is the top 32 bits of the draw. -/
def sampleRow (temp topP : Nat) (rank : List (Nat × Val)) (u : Nat) : Int × Nat × Nat × Nat :=
  let t0 := (ofF32 temp).isZero
  let z0 := (rank.getD 0 (0, .nan)).2
  let w := rank.map fun p => if p.2.eqv z0 then 0x3F800000 else expF32 (toF32 (p.2.add z0.negate))
  let c := runSum w none
  let ck := ofF32 (c.getD (rank.length - 1) 0)
  let thr := ofF32 (toF32 ((ofF32 topP).mul ck))
  let idx := List.range rank.length
  let m := if t0 ∨ (ofF32 topP).isZero then 0
    else (idx.find? fun j => thr.le (ofF32 (c.getD j 0))).getD (rank.length - 1)
  let cm := ofF32 (c.getD m 0)
  let tgt := (Val.fin false u (-32)).mul cm
  let j := if t0 then 0 else (idx.find? fun j => decide (j ≤ m) && tgt.lt (ofF32 (c.getD j 0))).getD m
  let prob := if m = 0 then 0x3F800000 else toF32 ((ofF32 (w.getD j 0)).div cm)
  ((rank.getD j (0, .nan)).1, prob, j, m + 1)

/-- The logits of a row as exact values, and whether one is NaN. -/
def rowLogits (fmt : Nat) (bs : List Byte) (v : Nat) : List Val × Bool :=
  let n := elemBits fmt / 8
  let ls := (List.range v).map fun i => ofF32 (toF32 (elemVal fmt (ofLe ((bs.drop (i * n)).take n))))
  (ls.map fun l => if l.isNan then .inf true else l, ls.any Val.isNan)

/-- z of a logit: the logit, or its FP32 quotient by τ. An infinite logit over an infinite τ has no stated quotient:
`fr` stands for it (log entry 24). -/
def zOf (temp : Nat) (fr : Val) (l : Val) : Val :=
  if (ofF32 temp).isZero then l
  else
    let q := ofF32 (toF32 (l.div (ofF32 temp)))
    if q.isNan then fr else q

/-- Samples row `r`; none where the row needs a draw that no source can give. -/
def Body.sampleOne (b : Body) (fl : Flight) (lg out : Entry) (par : Option Entry) (r : Nat) : Option (Bool × Body) :=
  let c := fl.cmd
  let (temp, topP, k1) := match par with
    | some e =>
      let a := e.base + 16 * r
      (b.le a 4, b.le (a + 4) 4, b.le (a + 8) 2 % 1024)
    | none => (c.f 4 31 0, c.f 4 63 32, c.f 3 45 36)
  let v1 := c.f 3 35 16
  let (temp, topP, k1, n) := sampleClamp temp topP k1 v1
  let t0 := (ofF32 temp).isZero
  if ¬ t0 ∧ b.noEntropy ∧ ¬ (b.ripple 800).live then none
  else
    let b := b.clampCmd fl n
    let a := lg.base + 32 * c.f 1 37 18 + r * c.f 5 47 0
    let sz := (v1 + 1) * (elemBits lg.fmt / 8)
    let b := b.tierTraffic fl.slot a sz false 10
    let (bs, ecc, b) := b.load fl a sz
    let (ls, nan) := rowLogits lg.fmt bs (v1 + 1)
    let (f, b) := b.free
    let fr := let x := ofF32 f.toNat; if x.isNan then .inf true else x
    let rank := topK (k1 + 1) ((List.range (v1 + 1)).zip (ls.map (zOf temp fr)))
    let b := b.bump .rpSampleStat Fld.rpSampleStatRows 1
    let b := if nan then b.bump .rpSampleStat Fld.rpSampleStatNanRows 1 else b
    let o := out.base + 32 * c.f 2 37 18 + 16 * r
    if (rank.getD 0 (0, .inf true)).2 = .inf true then
      let b := b.bump .rpSampleStat Fld.rpSampleStatEmpty 1
      let (z, b) := b.freeBytes 12
      some (ecc, b.store o (leBytes 4 (2 ^ 32 - 1) ++ z))
    else
      let (d, b) := if t0 then (0, b) else b.draw 800
      let (tok, prob, j, m) := sampleRow temp topP rank (d.toNat / 2 ^ 32)
      some (ecc, b.store o (leBytes 4 (ofSInt 32 tok) ++ leBytes 4 prob ++ leBytes 4 j ++ leBytes 4 m))

/-- Samples the rows from `r` on, `n` of them: the row that waits for entropy, or none, and whether an uncorrectable
sector was read. -/
def Body.sampleRows (b : Body) (fl : Flight) (lg out : Entry) (par : Option Entry) :
    Nat → Nat → Bool → Body × Option Nat × Bool
  | 0, _, ecc => (b, none, ecc)
  | n + 1, r, ecc =>
    match b.sampleOne fl lg out par r with
    | some (e, b) => Body.sampleRows b fl lg out par n (r + 1) (ecc || e)
    | none => (b, some r, ecc)

/-- SAMPLE (R274-R276). -/
def execSample (c : Cmd) (st : State) : Host.Outcome State Fault Refusal :=
  st.onBody fun b => b.onCmd c 0x5D fun b fl =>
    let rows := c.f 3 15 0 + 1
    let size := (b.resolve fl.slot (c.h 1)).map fun e => elemBits e.fmt / 8
    let par : Except Nat (Option Entry) :=
      if c.h 6 = 0 then .ok none else (b.access fl.slot (c.h 6) 0 (16 * rows) false).map some
    let lgn := (rows - 1) * c.f 5 47 0 + (c.f 3 35 16 + 1) * size.getD 0
    match b.access fl.slot (c.h 1) (32 * c.f 1 37 18) lgn false, b.access fl.slot (c.h 2) (32 * c.f 2 37 18) (16 * rows) true,
      par with
    | .error s, _, _ => b.fail fl s (c.h 1)
    | _, .error s, _ => b.fail fl s (c.h 2)
    | _, _, .error s => b.fail fl s (c.h 6)
    | .ok lg, .ok out, .ok par =>
      if ¬ (lg.fmt ∈ [8, 9, 10] ∧ lg.place ∈ [1, 2, 3]) ∨ out.place = 5 ∨ lg.layout = 4 ∨ out.layout = 4 then
        b.fail fl 0x11 (c.h 1)
      else
        let r0 := fl.progress.getD 0 0
        let (b, wait, ecc) := b.sampleRows fl lg out par (rows - r0) r0 (decide (fl.progress.getD 1 0 = 1))
        match wait with
        | some r => (b.keep fl [r, if ecc then 1 else 0]).awaitEntropy fl
        | none =>
          let b := { b with rnd.waits := b.rnd.waits.filter fun u => decide (u ≠ fl.uid) }
          b.doneEcc fl ecc

end Sys2Proof.Machine
end

