-- ==== Sys2Proof/Machine/Gangway.lean ====
section
/-!
DEFINITION. Gangways (R113-R116): opening, closing, and the check of every access.
-/

namespace Sys2Proof.Machine

/-- A Gangway as held. -/
def Body.gw (b : Body) (g : Nat) : Gangway := SMap.get b.st.gws {} g

/-- The window that words 2 and 3 of GW_OPEN give, clamped to its buffer, and the fields clamped (R114). -/
def gwWindow (c : Cmd) (size : Nat) : Nat × Nat × Nat :=
  let off0 := c.f 2 47 0
  let sz0 := c.f 3 38 0
  let off := min (off0 / 32 * 32) (size - 32)
  let sz := min (max 32 (min sz0 (2 ^ 38))) (size - off)
  (off, sz, (if off ≠ off0 then 1 else 0) + (if sz ≠ sz0 then 1 else 0))

/-- The Gangway GW_OPEN takes: the one requested, or with ANY the lowest closed one; none where it is open. -/
def Body.gwPick (b : Body) (c : Cmd) : Option Nat :=
  if c.b 1 31 then (List.range 64).find? fun g => !(b.gw g).opened
  else if (b.gw (c.f 1 37 32)).opened then none else some (c.f 1 37 32)

/-- Opens Gangway `g` with a key, and completes GW_OPEN (R114, R289). -/
def Body.gwOpenNow (b : Body) (fl : Flight) (g : Nat) (e : Entry) (key : Nat) : Body :=
  let c := fl.cmd
  let (off, sz, n) := gwWindow c e.size
  let w : Gangway :=
    { opened := true, slot := fl.slot, ctx := c.ctx.toNat, handle := c.h 1, base := e.base, place := e.place,
      perm := c.f 1 30 28, scope := c.f 1 27 26, module := c.f 1 15 0, off := off, size := sz, key := key }
  ({ b.clampCmd fl n with st.gws := SMap.set b.st.gws {} g w }).done fl (g + key * 2 ^ 32)

/-- GW_OPEN (R114). A key of 0 asks for one from the Swell, which is never 0. -/
def execGwOpen (c : Cmd) (s : State) : Host.Outcome State Fault Refusal :=
  s.onBody fun b => b.onCmd c 0x3C fun b fl =>
    match b.resolve fl.slot (c.h 1) with
    | none => b.fail fl 0x12 (c.h 1)
    | some e =>
      if e.place = 5 ∨ e.layout = 4 ∨ (e.place ≥ 2 ∧ ¬ b.inWindow fl.slot e.place e.base e.size) then b.fail fl 0x11 (c.h 1)
      else
        match b.gwPick c with
        | none => b.fail fl 0x14
        | some g =>
          if c.f 4 31 0 ≠ 0 then b.gwOpenNow fl g e (c.f 4 31 0)
          else
            match b.takeWord 1 with
            | none => b.awaitEntropy fl
            | some (w, b) =>
              let b := { b with rnd.waits := b.rnd.waits.filter fun u => decide (u ≠ fl.uid) }
              let k := (Config.seedOf w).toNat % 2 ^ 32
              if k = 0 then b else b.gwOpenNow fl g e k

/-- The GW_CLOSEs whose Gangway has closed complete. -/
def Body.gwCloseDone (b : Body) : Body :=
  let ready := b.st.gwWait.filter fun p => !(b.gw p.2).opened
  ready.foldl (fun b p => b.done p.1) { b with st.gwWait := b.st.gwWait.filter fun p => (b.gw p.2).opened }

/-- GW_CLOSE (R114, R116). -/
def execGwClose (c : Cmd) (s : State) : Host.Outcome State Fault Refusal :=
  s.onBody fun b => b.onCmd c 0x3D fun b fl =>
    let g := c.f 1 37 32
    let w := b.gw g
    if ¬ w.opened ∨ w.slot ≠ fl.slot then b.fail fl 0x13 g
    else
      let b := (b.start fl).gwShut g
      { b with st.gwWait := b.st.gwWait ++ [(fl, g)] }.gwCloseDone

/-! ### Accesses (R115) -/

/-- Bytes an access reads or writes. -/
def gwLen : GwOp → Nat
  | .read n => n
  | .write d => d.length
  | .fetchAdd _ => 8

/-- PERM allows the operation: bit 0 read, 1 write, 2 atomic, the last only into Tier H or L (R114, R115). -/
def gwPermits (w : Gangway) : GwOp → Bool
  | .read _ => w.perm.testBit 0
  | .write _ => w.perm.testBit 1
  | .fetchAdd _ => w.perm.testBit 2 && decide (w.place = 2 ∨ w.place = 3)

/-- The requester lies within SCOPE; a QP of another context than the owner's lies outside it (R394). -/
def Body.gwInScope (b : Body) (w : Gangway) : Requester → Bool
  | .host q => decide (w.scope = 0 ∨ w.scope = 3) && decide (b.getF (.epQpStat q) Fld.epQpStatCtx = w.ctx)
  | .peer m _ => decide (w.scope = 1 ∨ w.scope = 3) || decide (w.scope = 2 ∧ w.module = m)

/-- The checks of R115 in their order: the failure status, or none. -/
def Body.gwCheck (b : Body) (a : GwReq) : Option Nat :=
  let w := b.gw a.gw
  if ¬ w.opened ∨ w.closing ∨ a.key ≠ w.key ∨ ¬ b.gwInScope w a.who ∨ ¬ gwPermits w a.op then some 0x13
  else if a.off + gwLen a.op > w.size then some 0x11
  else
    match a.op with
    | .fetchAdd _ => if a.off % 8 ≠ 0 then some 0x11 else none
    | .write d => if b.rangeOk (w.base + w.off + a.off) d.length ∧ b.flashOk (w.base + w.off + a.off) d.length then none else some 0x11
    | .read n => if b.rangeOk (w.base + w.off + a.off) n then none else some 0x11

/-- The requester as an error record names it: a module id, or 0x1_0000 + QP (R477). -/
def requesterId : Requester → Nat
  | .peer m _ => m
  | .host q => 0x10000 + q

/-- The Breakwater half that received a request: that of its Line (0-17 HW, 18-35 HE), or of its arrival port: HE for EP0 and
EP1, HW for EP2 and EP3 (R115). -/
def Body.halfOf (b : Body) : Requester → Nat
  | .peer _ l => if l < 18 then 0 else 1
  | .host q => if b.getF (.epQpStat q) Fld.epQpStatSubport / 2 < 2 then 1 else 0

/-- A GANGWAY_KEY failure on an open Gangway is counted; the 256th closes it, with an error record (R115). -/
def Body.gwFailed (b : Body) (a : GwReq) : Body :=
  let w := b.gw a.gw
  if ¬ w.opened then b
  else
    let b := { b with st.gws := SMap.set b.st.gws {} a.gw { w with fails := w.fails + 1 } }
    if w.fails + 1 = 256 then
      (b.gwShut a.gw).err 0x0401 1 3 (b.halfOf a.who) [a.gw, requesterId a.who] 0x13 w.ctx
    else b

/-- The sectors a Gangway access writes only in part include an uncorrectable one (R334). -/
def Body.partBad (b : Body) (a n : Nat) : Bool :=
  b.tiers.badSectors.any fun x => decide (a / 32 ≤ x ∧ x * 32 < a + n ∧ ¬(a ≤ x * 32 ∧ x * 32 + 32 ≤ a + n))

/-- An accepted access: its status and the bytes it returns. Its tier traffic is charged to the owner's partition
(R324, R459). An uncorrectable sector ends it with ECC_UNCORRECTED and does not affect the owner (R333). -/
def Body.gwDo (b : Body) (a : GwReq) : Nat × List Byte × Body :=
  let w := b.gw a.gw
  let at_ := w.base + w.off + a.off
  let n := (gwLen a.op)
  let b := b.tierTraffic w.slot at_ n (match a.op with | .write _ => true | _ => false) (10 + b.halfOf a.who)
  let bad := (b.badIn at_ n).isSome
  let note (b : Body) : Body := match b.badIn at_ n with
    | some x =>
      let (row, b) := b.free
      let (k, u) := b.controllerOf (x * 32)
      (b.err 0x0501 1 k u [x * 32, tierCode (x * 32) * 65536 + b.channelOf (x * 32), row.toNat] 0x20).noteUncorr (x * 32)
    | none => b
  match a.op with
  | .read _ => if bad then (0x20, [], (note b).readPages at_ n) else (0, b.bytes at_ n, b.readPages at_ n)
  | .write d => if b.partBad at_ n then (0x20, [], (note b).store at_ d) else (0, [], b.store at_ d)
  | .fetchAdd v =>
    if bad then (0x20, [], note b)
    else
      let old := b.le at_ 8
      (0, leBytes 8 old, b.store at_ (leBytes 8 (old + v.toNat)))

/-- An access meets the checks, and does what it asks where they pass: the status, the bytes returned. -/
def Body.gwAccess (b : Body) (a : GwReq) : Nat × List Byte × Body :=
  match b.gwCheck a with
  | some st => (st, [], if st = 0x13 then b.gwFailed a else b)
  | none => b.gwDo a

/-- The answer to a Gangway access goes to its requester as Ebb (R115). -/
def Body.gwReply (b : Body) (a : GwReq) (status : Nat) (data : List Byte) : Body :=
  match a.who with
  | .peer m l => b.send { port := .line l, kind := .gangwayResponse, nums := [m, a.gw, status], data := data }
  | .host _ => b

/-- GANGWAY_ACCESS (R115): accepted, it stands until it drains; refused, its status returns at once. A host's access comes
through the QP rows (R394) and is answered there. -/
def execGangwayAccess (a : GwReq) (s : State) : Host.Outcome State Fault Refusal :=
  s.onBody fun b =>
    match b.gwCheck a with
    | some st => (if st = 0x13 then b.gwFailed a else b).gwReply a st []
    | none => { b with st.gwPend := b.st.gwPend ++ [⟨a.gw, a⟩] }

/-- The accesses a Gangway has accepted complete and their responses are sent; a Gangway that was closing closes (R116). -/
def Body.gwDrain (b : Body) (g : Nat) : Body :=
  let mine := b.st.gwPend.filter fun p => decide (p.gw = g)
  let b := { b with st.gwPend := b.st.gwPend.filter fun p => decide (p.gw ≠ g) }
  let b := mine.foldl (fun b p =>
    let (st, d, b) := b.gwDo p.req
    b.gwReply p.req st d) b
  if (b.gw g).closing then { b with st.gws := SMap.drop b.st.gws g } else b

/-- GW_CLOSE_DRAIN (R116): a Gangway drains, and the GW_CLOSE that waits for it completes. -/
def execGwCloseDrain (g : Fin 64) (s : State) : Host.Outcome State Fault Refusal :=
  s.onBody fun b => (b.gwDrain g).gwCloseDone

end Sys2Proof.Machine
end

