-- ==== Sys2Proof/Machine/Lines.lean ====
section
/-!
DEFINITION. Lines (R347-R359): the link layer, training, routing between modules, and LN_CTL.
-/

namespace Sys2Proof.Machine

/-- A Line as held. -/
def Body.line (b : Body) (l : Nat) : LineInfo := SMap.get b.ln.lines {} l

/-- Changes a Line. -/
def Body.setLine (b : Body) (l : Nat) (x : LineInfo) : Body := { b with ln.lines := SMap.set b.ln.lines {} l x }

/-- LN_STAT.STATE: 0 DOWN, 1 TRAINING, 2 UP, 3 RETRAINING, 4 DISABLED. -/
def Body.lineState (b : Body) (l : Nat) : Nat := b.getF (.lnStat l) Fld.lnStatState

/-- A Line is UP. -/
def Body.lineUp (b : Body) (l : Nat) : Bool := decide (b.lineState l = 2)

/-! ### Sending (R350, R351, R354, R355) -/

/-- WEIGHT of VC3-VC5, and CAP of VC2 (R354, R355, R379). -/
def Body.vcWeight (b : Body) (i : Nat) : Nat :=
  b.getF .bwVcCfg (if i = 0 then Fld.bwVcCfgW3 else if i = 1 then Fld.bwVcCfgW4 else Fld.bwVcCfgW5)

/-- CAP of R355. -/
def Body.vc2Cap (b : Body) : Nat :=
  let c := b.getF .bwVcCfg Fld.bwVcCfgVc2Cap
  if c = 0 then 16 else c

/-- 1,024 flit times in ns at an operating point: 2.56 ns a flit at P0 (R348). -/
def flitWindow (point : Nat) : Nat := 2621 * (match point with | 0 => 1 | 1 => 2 | 2 => 2 | 3 => 4 | 4 => 4 | _ => 8)

/-- A virtual channel has a flit with credit ready. -/
def LineReady (x : LineInfo) (v : Nat) : Bool := decide (x.txq.getD v [] ≠ [] ∧ x.credits.getD v 0 > 0)

/-- VC2 is held back by its cap (R355). -/
def vc2Held (x : LineInfo) (cap : Nat) : Bool :=
  (LineReady x 3 || LineReady x 4 || LineReady x 5) && decide (x.vc2Sent ≥ cap * 64)

/-- The virtual channel that sends next, and the deficits after it (R354). -/
def vcPick (x : LineInfo) (cap : Nat) (w : List Nat) : Option (Nat × List Nat) :=
  if LineReady x 0 then some (0, x.deficit)
  else if LineReady x 1 then some (1, x.deficit)
  else if LineReady x 7 then some (7, x.deficit)
  else if LineReady x 2 && !vc2Held x cap then some (2, x.deficit)
  else
    let ready := [0, 1, 2].filter fun i => LineReady x (3 + i)
    match ready.find? fun i => decide (x.deficit.getD i 0 > 0) with
    | some i => some (3 + i, x.deficit.set i (x.deficit.getD i 0 - 1))
    | none =>
      match ready with
      | i :: _ => some (3 + i, w.set i (w.getD i 0 - 1))
      | [] => if LineReady x 6 then some (6, x.deficit) else none

/-- Sends what credits and the replay buffer of 1,024 flits let a Line send. -/
def Body.pumpN (b : Body) (l : Nat) : Nat → Body
  | 0 => b
  | n + 1 =>
    let x := b.line l
    let x := if x.vc2Window.toNat + flitWindow (b.getF (.lnStat l) Fld.lnStatPoint) ≤ b.now then
      { x with vc2Window := b.ts, vc2Sent := 0 } else x
    if ¬ b.lineUp l ∨ x.replay.length ≥ 1024 then b
    else
      match vcPick x b.vc2Cap ((List.range 3).map b.vcWeight) with
      | none => b
      | some (v, d) =>
        match x.txq.getD v [] with
        | [] => b
        | f :: r =>
          let f := { f with seq := x.txSeq }
          let x := { x with txq := x.txq.set v r, credits := x.credits.set v (x.credits.getD v 0 - 1), deficit := d,
                            replay := x.replay ++ [f], txSeq := (x.txSeq + 1) % 4096,
                            vc2Sent := x.vc2Sent + (if v = 2 then 1 else 0) }
          let m : Msg := { port := .line l, kind := .dataFlit, nums := [f.seq, v, if f.last then 1 else 0], data := f.data }
          Body.pumpN ((b.setLine l x).send m) l n

/-- Sends what a Line can send now. -/
def Body.pump (b : Body) (l : Nat) : Body := b.pumpN l (((b.line l).txq.map List.length).sum + 1)

/-- The payloads of a message's flits after its header: 240 bytes each (R349). -/
def flitData : Nat → List Byte → List (List Byte)
  | 0, _ => []
  | n + 1, d => d.take 240 :: flitData n (d.drop 240)

/-- The flits of a message: a header flit and the payload's (R349). The header's bytes are the model's record of the
message, kept apart (log entry 25). -/
def flitsOf (vc : Nat) (data : List Byte) (uid granule : Option Nat) : List TxFlit :=
  let ps : List (List Byte) := [] :: flitData (ceilDiv data.length 240) data
  (List.range ps.length).map fun i =>
    let last := decide (i + 1 = ps.length)
    { vc := vc, last := last, data := ps.getD i [], uid := uid, granule := if last then granule else none }

/-- Queues a message on a virtual channel of a Line, counting VC2 flits that the cap holds back. -/
def Body.lineSend (b : Body) (l vc : Nat) (m : Msg) (uid : Option Nat := none) (granule : Option Nat := none) : Body :=
  let b := b.send { m with port := .line l }
  let x := b.line l
  let fs := flitsOf vc m.data uid granule
  let b := if vc = 2 ∧ vc2Held x b.vc2Cap then b.bump .bwClTally Fld.bwClTallyCapped fs.length else b
  let b := match b.hm.flights.find? fun y => decide (uid = some y.uid) with
    | some fl => b.count fl.slot 10 fs.length
    | none => b
  (b.setLine l { x with txq := x.txq.set vc (x.txq.getD vc [] ++ fs) }).pump l

/-! ### Routing (R357) -/

/-- The bundle that reaches a module from a partition on a virtual channel. The management context belongs to no partition
and uses any Line. In DETACHED only VC0, VC1 and VC7 run (R372). -/
def Body.bundle (b : Body) (m : Nat) (part : Option Nat) (vc : Nat) : List Nat :=
  let free := decide (vc = 0 ∨ vc = 1 ∨ vc = 7)
  if ¬ free ∧ b.getF .bwTwinStat Fld.bwTwinStatState = 4 then []
  else
    (List.range 36).filter fun l =>
      b.lineUp l && decide (b.getF (.lnStat l) Fld.lnStatPeer = m) &&
        (free || (match part with | some p => (b.getF (.lnCfg l) Fld.lnCfgParts).testBit p | none => true))

/-- The Line of a bundle that a request takes: by a hash the spec does not give, so a free choice (log entry 25). -/
def Body.pickLine (b : Body) (m : Nat) (part : Option Nat) (vc : Nat) : Option Nat × Body :=
  match b.bundle m part vc with
  | [] => (none, b)
  | ls => let (w, b) := b.free; (ls[w.toNat % ls.length]?, b)

/-! ### Twin state and groups, as Lines come and go (R363, R372) -/

/-- The Twin Lines that are UP. -/
def Body.twinLines (b : Body) : List Nat := [34, 35].filter fun l => b.lineUp l && decide (b.getF (.lnCfg l) Fld.lnCfgRole = 2)

/-- BW_TWIN_STAT.STATE follows the Twin Lines: NONE without one, LINKED with one (R372). TW_SYNCs in progress end with
LINE_LOST. -/
def Body.twinLink (b : Body) : Body :=
  let st := b.getF .bwTwinStat Fld.bwTwinStatState
  if b.twinLines = [] then
    if st = 1 ∨ st = 2 ∨ st = 3 then
      let lost := (b.ln.twin.syncs.map (·.1) ++ b.ln.twin.localPair.toList ++ b.ln.twin.detach.toList).dedup
      let b := { b with ln.twin := { b.ln.twin with syncs := [], localPair := none, peerPair := false, detach := none } }
      (lost.foldl (fun b fl => b.fail fl 0x21) b).setF .bwTwinStat Fld.bwTwinStatState 0
    else b
  else if st = 0 then b.setF .bwTwinStat Fld.bwTwinStatState 1 else b

/-- The state of a group's table entry. -/
def Body.groupState (b : Body) (i : Nat) : Nat := b.getF (.bwGroupStat i) Fld.bwGroupStatState

/-- Position of a rank in a tree, from 1 (R361). -/
def treePos (t n r : Nat) : Nat := if t = 0 then r + 1 else (r + 1) % n + 1

/-- The rank at a position. -/
def treeRank (t n p : Nat) : Nat := if t = 0 then p - 1 else (p + n - 2) % n

/-- The trailing zero bits of a position. -/
def tz : Nat → Nat → Nat
  | 0, _ => 0
  | f + 1, p => if p % 2 = 1 ∨ p = 0 then 0 else tz f (p / 2) + 1

/-- The parent of a position in a full tree, then of its parents, until one lies within n (R361). -/
def parentPos (n : Nat) : Nat → Nat → Nat
  | 0, p => p
  | f + 1, p =>
    let h := tz 12 p
    let q := if p / 2 ^ (h + 1) % 2 = 0 then p + 2 ^ h else p - 2 ^ h
    if q > n then parentPos n f q else q

/-- The root's position. -/
def rootPos (n : Nat) : Nat := 2 ^ Nat.log2 n

/-- The parent rank of a rank in a tree; none at the root. -/
def parentRank (t n r : Nat) : Option Nat :=
  let p := treePos t n r
  if p = rootPos n then none else some (treeRank t n (parentPos n 12 p))

/-- The child ranks of a rank, in increasing position. -/
def childRanks (t n r : Nat) : List Nat :=
  ((List.range n).map fun i => treeRank t n (i + 1)).filter fun c => decide (parentRank t n c = some r)

/-- Tree neighbours of a rank over both trees. -/
def treeNeighbours (n r : Nat) : List Nat :=
  [0, 1].flatMap fun t => (parentRank t n r).toList ++ childRanks t n r

/-- This module's id. -/
def Body.self (b : Body) : Nat := frGet b.framing 0x001

/-- A group as held, by table index. -/
def Body.group (b : Body) (i : Nat) : Group := SMap.get b.ln.groups {} i

/-- The local ranks of a group. -/
def Body.localRanks (b : Body) (g : Group) : List Nat :=
  (List.range g.ranks.length).filter fun r => decide ((g.ranks.getD r (0, 0)).1 = b.self)

/-- The modules that are tree neighbours of a local rank, this one left out. -/
def Body.neighbourModules (b : Body) (g : Group) : List Nat :=
  (((b.localRanks g).flatMap (treeNeighbours g.ranks.length)).map fun r => (g.ranks.getD r (0, 0)).1).dedup.filter
    fun m => decide (m ≠ b.self)

/-- Sends a protocol message of a group to a module on a virtual channel, by any Line of the bundle. -/
def Body.groupSend (b : Body) (m vc : Nat) (kind : MsgKind) (nums : List Nat) (data : List Byte := [])
    (uid : Option Nat := none) : Body :=
  match b.pickLine m none vc with
  | (some l, b) => b.lineSend l vc { port := .line l, kind := kind, nums := nums, data := data } uid
  | (none, b) => b

/-- Ends the runs of a group with a status. -/
def Body.endRuns (b : Body) (i status : Nat) : Body :=
  let (mine, rest) := b.ln.runs.partition fun r => decide (r.group = i)
  let b := mine.foldl (fun b r => b.fail r.fl status) { b with ln.runs := rest }
  let cl := b.ln.colls.filter fun p => decide (p.2.group = i)
  cl.foldl (fun b p =>
    match p.2.closing with
    | some fl => b.done fl
    | none => b) b

/-- A group becomes BROKEN (R363): its runs end with LINE_LOST, a CL_GROUP that waits ends, and its neighbours hear of it.
Cause: 0 Line, 1 Quay reset, 2 neighbour. -/
def Body.breakGroup (b : Body) (i cause : Nat) : Body :=
  if b.groupState i = 0 ∨ b.groupState i = 3 then b
  else
    let g := b.group i
    let id := b.getF (.bwGroupStat i) Fld.bwGroupStatGroup
    let ep := b.getF (.bwGroupEpoch i) Fld.bwGroupEpochEpoch
    let b := b.setF (.bwGroupStat i) Fld.bwGroupStatState 3
    let b := b.err 0x0603 1 3 0 [id, ep, cause] 0 (b.getF (.bwGroupStat i) Fld.bwGroupStatCtx)
    let b := b.endRuns i 0x21
    let b := match g.waiting with
      | some fl => { b with ln.groups := SMap.set b.ln.groups {} i { g with waiting := none } }.fail fl 0x21
      | none => b
    (b.neighbourModules g).foldl (fun b m => b.groupSend m 1 .broken [id, ep]) b

/-- Groups that have lost their last Line to a neighbour break (R363). -/
def Body.checkGroups (b : Body) : Body :=
  (List.range 64).foldl (fun b i =>
    if b.groupState i ≠ 0 ∧ (b.neighbourModules (b.group i)).any fun m => decide (b.bundle m none 1 = []) then
      b.breakGroup i 0
    else b) b

/-! ### Training (R352, R353) -/

/-- A DMA through a remote Gangway whose flits its Line has taken ends. What the peer answers is not this module's to say: a
free value chooses among the statuses of R115, R333 and R116, and a read's bytes are free (log entry 26). -/
def Body.remoteDone (b : Body) (uid : Nat) : Body :=
  match b.ln.remote.find? fun r => decide (r.fl.uid = uid) with
  | none => b
  | some r =>
    let b := { b with ln.remote := b.ln.remote.filter fun x => decide (x.fl.uid ≠ uid) }
    let (w, b) := b.free
    let st := [0, 0x13, 0x11, 0x20, 0x21, 0x41].getD (w.toNat % 6) 0
    if st = 0 then
      (r.fills.foldl (fun b p =>
        let (d, b) := b.freeBytes p.2
        (b.store p.1 d).count r.fl.slot 11 (1 + ceilDiv p.2 240)) b).done r.fl
    else b.fail r.fl st

/-- Flits of a command still stand in some Line's buffers. -/
def Body.uidOnLines (b : Body) (uid : Nat) : Bool :=
  b.ln.lines.any fun p => (p.2.replay.any fun f => decide (f.uid = some uid)) ||
    p.2.txq.any fun q => q.any fun f => decide (f.uid = some uid)

/-- A push to a peer has been taken by its Line, or its messages were lost (R462; log entry 57). -/
def Body.pushTaken (b : Body) (uid : Nat) (taken : Bool) : Body :=
  if b.tele.push.uid = some uid ∧ ¬ b.tele.push.acked then
    let b := { b with tele.push.acked := true, tele.push.uid := none }
    if taken then b.bump .hmTelStat Fld.hmTelStatPushes 1 else b
  else b

/-- A TS_PROBE whose Line goes DOWN ends with LINE_LOST (R469). -/
def Body.probeLost (b : Body) (l : Nat) : Body :=
  match b.tele.probe with
  | some p => if p.line = l then { b with tele.probe := none }.fail p.fl 0x21 else b
  | none => b

/-- A command whose messages a Line lost ends with LINE_LOST (R352). -/
def Body.lostUid (b : Body) (uid : Nat) : Body :=
  let b := b.pushTaken uid false
  let b := { b with ln.remote := b.ln.remote.filter fun x => decide (x.fl.uid ≠ uid),
                    ln.runs := b.ln.runs.filter fun r => decide (r.fl.uid ≠ uid) }
  match b.hm.flights.find? fun x => decide (x.uid = uid) with
  | some fl => b.fail fl 0x21
  | none => b

/-- A Line goes DOWN (or DISABLED): what it holds is lost, with the commands that issued it (R352). -/
def Body.lineDown (b : Body) (l state : Nat) : Body :=
  let x := b.line l
  let fs := x.replay ++ x.txq.flatten
  let was := b.lineState l
  let peer := b.getF (.lnStat l) Fld.lnStatPeer
  let b := (b.setF (.lnStat l) Fld.lnStatState state).setF (.lnStat l) Fld.lnStatLanes 0
  let b := b.setLine l {}
  let b := if was = 2 ∨ was = 3 then
    b.err 0x0601 1 4 l [peer, (fs.filter fun f => f.last).length] else b
  let b := (fs.filterMap fun f => f.uid).dedup.foldl Body.lostUid b
  let b := x.ctl.foldl (fun b fl => b.done fl) b
  ((b.probeLost l).log 4 l 0x0B 0 0xFFFF 0 state).checkGroups.twinLink

/-- Resends everything unacknowledged (R351). -/
def Body.resend (b : Body) (l : Nat) : Body :=
  let x := b.line l
  let b := b.bump (.lnErr l) Fld.lnErrReplays x.replay.length
  x.replay.foldl (fun b f =>
    b.send { port := .line l, kind := .dataFlit, nums := [f.seq, f.vc, if f.last then 1 else 0], data := f.data }) b

/-- The operating points at which lanes train, best first (R348, R352): more lanes first at equal rate. -/
def pointsOf (l200 l100 : Nat) : List (Nat × Nat) :=
  let has (w m : Nat) : Bool := decide (w &&& m = m)
  let lo (w : Nat) : Nat := if has w 3 then 3 else 12
  let one (w : Nat) : Nat := ((List.range 4).find? fun i => w.testBit i).elim 0 fun i => 2 ^ i
  (if has l200 15 then [(0, 15)] else []) ++ (if has l100 15 then [(1, 15)] else []) ++
    (if has l200 3 || has l200 12 then [(2, lo l200)] else []) ++
    (if has l100 3 || has l100 12 then [(3, lo l100)] else []) ++
    (if l200 ≠ 0 then [(4, one l200)] else []) ++ (if l100 ≠ 0 then [(5, one l100)] else [])

/-- LINE_TRAINING_DONE (R352): the lanes that trained at each rate and the peer's id. The Line comes UP at its pinned
point, its current point, or the best below it (any point after MOD, POR or an LN_CTL); otherwise it goes DOWN. -/
def execLineTrainingDone (l : Fin 36) (lanes200 lanes100 : BitVec 4) (peer : BitVec 16) (s : State) :
    Host.Outcome State Fault Refusal :=
  s.onBody fun b =>
    let st := b.lineState l
    if st ≠ 1 ∧ st ≠ 3 then b
    else
      let x := b.line l
      let old := b.getF (.lnStat l) Fld.lnStatPoint
      let pin := b.getF (.lnCfg l) Fld.lnCfgPin
      let l100 := lanes100.toNat ||| lanes200.toNat
      let ps := pointsOf lanes200.toNat l100
      let pick := if pin < 6 then ps.find? fun p => decide (p.1 = pin)
        else ps.find? fun p => x.rise || decide (p.1 ≥ old)
      match pick with
      | none => b.lineDown l 0
      | some (pt, lanes) =>
        if peer.toNat = b.self then b.lineDown l 0
        else
          let b := ((b.setF (.lnStat l) Fld.lnStatState 2).setF (.lnStat l) Fld.lnStatPoint pt).setF (.lnStat l)
            Fld.lnStatLanes lanes
          let b := b.setF (.lnStat l) Fld.lnStatPeer peer.toNat
          let b := if pin ≥ 6 ∧ pt > old then
            (b.bump (.lnStat l) Fld.lnStatDownshifts 1).err 0x0602 0 4 l [old, pt, lanes] else b
          let b := b.log 4 l 0x0B 0 0xFFFF 0 2
          let b := b.setLine l { x with resends := 0, uncorr := 0, rise := false, ctl := [] }
          let b := x.ctl.foldl (fun b fl => b.done fl) b
          ((b.resend l).pump l).checkGroups.twinLink

/-- Training begins: RETRAINING of a Line that was UP, TRAINING of any other (R352). -/
def Body.trainLine (b : Body) (l : Nat) (rise : Bool) : Body :=
  let st := b.lineState l
  let up := st = 2 ∨ st = 3
  let x := b.line l
  let b := b.setLine l { x with rise := rise || x.rise && decide (st = 1 ∨ st = 3), resends := 0, uncorr := 0 }
  let b := b.setF (.lnStat l) Fld.lnStatState (if up then 3 else 1)
  (if up then b.bump (.lnStat l) Fld.lnStatRetrains 1 else b).log 4 l 0x0B 0 0xFFFF 0 (if up then 3 else 1)

/-- LINE_RETRAIN (R352): eight resends of one flit, or more than 64 uncorrectable codewords within 1 ms. -/
def execLineRetrain (l : Fin 36) (s : State) : Host.Outcome State Fault Refusal :=
  s.onBody fun b =>
    let x := b.line l
    if b.lineUp l ∧ (x.resends ≥ 8 ∨ x.uncorr > 64) then b.trainLine l false else b

/-- The Line an LN_CTL names, clamped, and the clamp (R353). -/
def lnLine (c : Cmd) : Nat × Nat := (min 35 (c.f 1 5 0), if c.f 1 5 0 > 35 then 1 else 0)

/-- LN_CTL retrains a Line; one with role OFF does not train. -/
def Body.lnRetrain (b : Body) (fl : Flight) (l : Nat) : Body :=
  if b.getF (.lnCfg l) Fld.lnCfgRole = 0 then b.done fl
  else
    let b := (b.start fl).trainLine l true
    b.setLine l { b.line l with ctl := (b.line l).ctl ++ [fl] }

/-- LN_CTL RETRAIN (R353). -/
def execLnCtlRetrain (c : Cmd) (s : State) : Host.Outcome State Fault Refusal :=
  s.onBody fun b => b.onSub c 0x60 (c.f 1 7 6 = 0) fun b fl =>
    (b.clampCmd fl (lnLine c).2).lnRetrain fl (lnLine c).1

/-- LN_CTL PIN (R353). -/
def execLnCtlPin (c : Cmd) (s : State) : Host.Outcome State Fault Refusal :=
  s.onBody fun b => b.onSub c 0x60 (c.f 1 7 6 = 1) fun b fl =>
    let l := (lnLine c).1
    let p := min 5 (c.f 1 10 8)
    let b := b.clampCmd fl ((lnLine c).2 + (if c.f 1 10 8 > 5 then 1 else 0))
    let b := b.setF (.lnCfg l) Fld.lnCfgPin p
    if b.lineUp l ∧ b.getF (.lnStat l) Fld.lnStatPoint = p then b.done fl else b.lnRetrain fl l

/-- LN_CTL UNPIN (R353). -/
def execLnCtlUnpin (c : Cmd) (s : State) : Host.Outcome State Fault Refusal :=
  s.onBody fun b => b.onSub c 0x60 (c.f 1 7 6 = 2) fun b fl =>
    ((b.clampCmd fl (lnLine c).2).setF (.lnCfg (lnLine c).1) Fld.lnCfgPin 7).done fl

/-- LN_CTL DISABLE (R353). -/
def execLnCtlDisable (c : Cmd) (s : State) : Host.Outcome State Fault Refusal :=
  s.onBody fun b => b.onSub c 0x60 (c.f 1 7 6 = 3) fun b fl =>
    ((b.clampCmd fl (lnLine c).2).lineDown (lnLine c).1 4).done fl

/-! ### Receiving (R350, R351) -/

/-- Sends an idle flit with the acknowledgement, and one for each virtual channel with credits owed. -/
def Body.sendAck (b : Body) (l : Nat) : Body :=
  let x := b.line l
  let ack := (x.rxSeq + 4095) % 4096
  let vs := (List.range 8).filter fun v => decide (x.owed.getD v 0 > 0)
  let b := b.setLine l { x with owed := [0, 0, 0, 0, 0, 0, 0, 0], rxSinceAck := 0 }
  if vs = [] then b.send { port := .line l, kind := .ackFlit, nums := [ack] }
  else vs.foldl (fun b v => b.send { port := .line l, kind := .ackFlit, nums := [ack, v, x.owed.getD v 0] }) b

/-- Granules a mirror has in flight, as one number: mirror · 2^32 + granule. A granule acknowledged ends the TW_SYNCs that
waited for it last (R373, R374). -/
def Body.granuleAcked (b : Body) (k : Nat) : Body :=
  let t := b.ln.twin
  let ms := (List.range t.mirrors.length).map fun i =>
    match t.mirrors[i]? with
    | some m => if i = k / 2 ^ 32 then { m with inflight := m.inflight.erase (k % 2 ^ 32) } else m
    | none => { slot := 0, handle := 0, base := 0, size := 0, accept := true, bitmap := 0 }
  let sy := t.syncs.map fun p => (p.1, p.2.filter fun g => decide (g ≠ k))
  let b := { b with ln.twin := { t with mirrors := ms, syncs := sy.filter fun p => decide (p.2 ≠ []) } }
  (sy.filter fun p => decide (p.2 = [])).foldl (fun b p =>
    if t.detach = some p.1 then b else b.done p.1) b

/-- An acknowledgement up to a sequence number frees the replay buffer; commands all of whose flits have gone through
proceed. -/
def Body.takeAck (b : Body) (l ack : Nat) (credits : List (Nat × Nat)) : Body :=
  let x := b.line l
  let cut := match x.replay.findIdx? fun f => decide (f.seq = ack) with
    | some i => i + 1
    | none => 0
  let gone := x.replay.take cut
  let cr := credits.foldl (fun c p => c.set p.1 (c.getD p.1 0 + p.2)) x.credits
  let b := b.setLine l { x with replay := x.replay.drop cut, credits := cr,
                                resends := if cut > 0 then 0 else x.resends }
  let b := (gone.filterMap fun f => f.granule).foldl Body.granuleAcked b
  let b := (gone.filterMap fun f => f.uid).dedup.foldl (fun b u => if b.uidOnLines u then b else (b.pushTaken u true).remoteDone u) b
  b.pump l

/-- LINE_DATA_FLIT (R350, R351). A flit leaves its buffer with the last flit of its message. -/
def execLineDataFlit (l : Fin 36) (f : Flit) (s : State) : Host.Outcome State Fault Refusal :=
  s.onBody fun b =>
    if ¬ b.lineUp l then b
    else
      let b := if f.crcOk then b else b.bump (.lnErr l) Fld.lnErrCrcErr 1
      let b :=
        if f.fecOk then b
        else
          let x := b.line l
          let b := b.bump (.lnErr l) Fld.lnErrFecUncorr 1
          if b.now - x.uncorrSince.toNat < 1000000 ∧ x.uncorr > 0 then b.setLine l { x with uncorr := x.uncorr + 1 }
          else b.setLine l { x with uncorr := 1, uncorrSince := b.ts }
      let x := b.line l
      if ¬ f.crcOk ∨ ¬ f.fecOk ∨ f.seq ≠ x.rxSeq then b.send { port := .line l, kind := .nak, nums := [x.rxSeq] }
      else
        let v := f.vc % 8
        let held := x.rxBuf.getD v [] ++ [f.data]
        let x := { x with rxSeq := (x.rxSeq + 1) % 4096, rxSinceAck := x.rxSinceAck + 1,
                          rxBuf := x.rxBuf.set v (if f.last then [] else held),
                          owed := if f.last then x.owed.set v (x.owed.getD v 0 + held.length) else x.owed }
        let b := (b.setLine l x).takeAck l f.ack f.credits
        if (b.line l).rxSinceAck ≥ 32 then b.sendAck l else b

/-- LINE_ACK_FLIT (R350, R351). -/
def execLineAckFlit (l : Fin 36) (ack : Nat) (credits : List (Nat × Nat)) (s : State) : Host.Outcome State Fault Refusal :=
  s.onBody fun b => if b.lineUp l then b.takeAck l ack credits else b

/-- LINE_NAK (R351): everything before the expected flit has arrived; the rest is resent. -/
def execLineNak (l : Fin 36) (expected : Nat) (s : State) : Host.Outcome State Fault Refusal :=
  s.onBody fun b =>
    if b.lineUp l then
      let b := b.takeAck l ((expected + 4095) % 4096) []
      let x := b.line l
      if x.replay = [] then b else (b.setLine l { x with resends := x.resends + 1 }).resend l
    else b

/-- LINE_REPLAY_TIMEOUT (R351). -/
def execLineReplayTimeout (l : Fin 36) (s : State) : Host.Outcome State Fault Refusal :=
  s.onBody fun b =>
    let x := b.line l
    if b.lineUp l ∧ x.replay ≠ [] then (b.setLine l { x with resends := x.resends + 1 }).resend l else b

/-- LINE_ACK_TIMER (R351). -/
def execLineAckTimer (l : Fin 36) (s : State) : Host.Outcome State Fault Refusal :=
  s.onBody fun b => if b.lineUp l then b.sendAck l else b

end Sys2Proof.Machine
end

