-- ==== Sys2Proof/Machine/Walk.lean ====
section
/-!
DEFINITION. Walks (R123, R124): the visit order of a grid of blocks.
-/

namespace Sys2Proof.Machine

/-- A loop level: dimension, order (0 ASC, 1 DESC, 2 SNAKE, 3 MORTON), factor. -/
structure Level where
  dim : Nat
  order : Nat
  factor : Nat
deriving DecidableEq, Repr

/-- The levels a WALK descriptor's words 1-7 give, for a largest dimension, and the fields clamped (R123). -/
def levelsOf (ws : List Word) (maxDim : Nat) : List Level × Nat :=
  let w (i : Nat) : Word := ws.getD (i - 1) 0
  let n0 := (w 1).fld 2 0
  let n := max 1 (min 6 n0)
  let ls := (List.range n).map fun l =>
    let x := w (2 + l)
    ({ dim := min maxDim (x.fld 63 60), order := x.fld 59 58, factor := max 1 (x.fld 31 0) } : Level)
  let cl := ((List.range n).map fun l =>
    let x := w (2 + l)
    (if x.fld 63 60 > maxDim then 1 else 0) + (if x.fld 31 0 = 0 then 1 else 0)).sum
  (ls, cl + (if n0 = n then 0 else 1))

/-- The product of a dimension's factors. -/
def dimProduct (ls : List Level) (d : Nat) : Nat := ((ls.filter fun l => decide (l.dim = d)).map (·.factor)).prod

/-- Raises the factor of a dimension's innermost level to cover its count; 1 when it was raised. -/
def raise (ls : List Level) (d count : Nat) : List Level × Nat :=
  let n := ls.length
  match (List.range n).reverse.find? fun i => decide ((ls.getD i ⟨0, 0, 1⟩).dim = d) with
  | none => (ls, 0)
  | some i =>
    if dimProduct ls d ≥ count then (ls, 0)
    else
      let l := ls.getD i ⟨0, 0, 1⟩
      let rest := dimProduct ls d / max 1 l.factor
      (ls.set i { l with factor := ceilDiv count (max 1 rest) }, 1)

/-- A walk made ready for its counts: factors raised, implicit innermost levels added, the number of given levels, and the
raises (R124). -/
def readyWalk (ls : List Level) (counts : List Nat) : List Level × Nat × Nat :=
  let given := ls.length
  let (ls, n) := (List.range counts.length).foldl (fun (p : List Level × Nat) d =>
    let (l, k) := raise p.1 d (counts.getD d 1)
    (l, p.2 + k)) (ls, 0)
  let extra := (List.range counts.length).filterMap fun d =>
    if counts.getD d 1 > 1 ∧ ¬ ls.any (fun l => decide (l.dim = d)) then some (⟨d, 0, counts.getD d 1⟩ : Level) else none
  (ls ++ extra, given, n)

/-- Bits 0, 2, 4, … of a number. -/
def evenBits : Nat → Nat → Nat
  | 0, _ => 0
  | f + 1, z => z % 2 + 2 * evenBits f (z / 4)

/-- The least power of two not below `n`, from `k`. -/
def pow2Above (n : Nat) : Nat → Nat → Nat
  | 0, k => k
  | f + 1, k => if k ≥ n then k else pow2Above n f (2 * k)

/-- The level indices of an iteration, with the loops written out: `i` is the level's number, `seq` the sequence number of
the enclosing iteration. Each answer lists the level indices, outermost first. -/
def iterate (given : Nat) : List Level → Nat → Nat → List (List Nat)
  | [], _, _ => [[]]
  | [l], i, seq =>
    let ix := if l.order = 1 ∨ (l.order = 2 ∧ i > 0 ∧ seq % 2 = 1) then (List.range l.factor).reverse else List.range l.factor
    ix.map fun x => [x]
  | l :: m :: r, i, seq =>
    if l.order = 3 ∧ i + 1 < given then
      let p := pow2Above (max l.factor m.factor) 33 1
      (List.range (p * p)).flatMap fun z =>
        (iterate given r (i + 2) (seq * (p * p) + z)).map fun t => evenBits 33 (z / 2) :: evenBits 33 z :: t
    else
      let ix := if l.order = 1 ∨ (l.order = 2 ∧ i > 0 ∧ seq % 2 = 1) then (List.range l.factor).reverse else List.range l.factor
      ((List.range l.factor).zip ix).flatMap fun k =>
        (iterate given (m :: r) (i + 1) (seq * l.factor + k.1)).map fun t => k.2 :: t

/-- The index along a dimension: mixed radix over its levels, the outer level more significant (R124). -/
def dimIndex (ls : List Level) (t : List Nat) (d : Nat) : Nat :=
  (ls.zip t).foldl (fun a p => if p.1.dim = d then a * p.1.factor + p.2 else a) 0

/-- The points of a walk in order, each with its index along every dimension; those beyond a count are skipped (R124). A
level index at or beyond its factor, which a MORTON pair gives when its factors are below its power of two, names no
point. -/
def walkPoints (ls : List Level) (given : Nat) (counts : List Nat) : List (List Nat) :=
  (iterate given ls 0 0).filterMap fun t =>
    let inside := (ls.zip t).all fun p => decide (p.2 < p.1.factor)
    let x := (List.range counts.length).map fun d => dimIndex ls t d
    if inside ∧ (x.zip counts).all (fun p => decide (p.1 < p.2)) then some x else none

end Sys2Proof.Machine
end

