-- ==== Sys2Proof/Machine/Dma.lean ====
section
/-!
DEFINITION. DMA_COPY, DMA_FILL (R117, R118), WALK and WALK_COPY (R123, R125).
-/

namespace Sys2Proof.Machine

/-- One block of a DMA: source and destination offsets, bytes per row, rows, pitches. -/
structure Block where
  src : Nat
  dst : Nat
  rowBytes : Nat
  rows : Nat
  srcPitch : Nat
  dstPitch : Nat
deriving DecidableEq, Repr

/-- The block that words 2-6 give, clamped, and the fields clamped (R117). -/
def blockOf (c : Cmd) : Block × Nat :=
  let rb := max 1 (c.f 5 31 0)
  let rows := max 1 (c.f 5 63 32)
  ({ src := c.f 2 47 0, dst := c.f 4 47 0, rowBytes := rb, rows := rows, srcPitch := c.f 6 31 0, dstPitch := c.f 6 63 32 },
    (if c.f 5 31 0 = 0 then 1 else 0) + (if c.f 5 63 32 = 0 then 1 else 0))

/-- Every byte of a block's source rows, or destination rows, may be accessed (R110). -/
def Body.blockOk (b : Body) (e : Entry) (k : Block) (write : Bool) : Bool :=
  (List.range k.rows).all fun r =>
    b.accessOk e (if write then k.dst + r * k.dstPitch else k.src + r * k.srcPitch) k.rowBytes write

/-- A byte lies in rows of `n` bytes at a pitch from an address. -/
def inRows (a base n rows pitch : Nat) : Bool := (List.range rows).any fun r => decide (base + r * pitch ≤ a ∧ a < base + r * pitch + n)

/-- The number of rows a byte lies in. -/
def rowCover (a base n rows pitch : Nat) : Nat :=
  ((List.range rows).filter fun r => decide (base + r * pitch ≤ a ∧ a < base + r * pitch + n)).length

/-- Two spans of addresses meet. -/
def spansMeet (a n c m : Nat) : Bool := decide (a < c + m ∧ c < a + n)

/-- The destination bytes of a block that are undefined: those that overlap the command's source, and those that more than one
row writes, since sectors are written in no fixed order (R118). -/
def undefinedByte (src : Option Nat) (dst : Nat) (k : Block) (a : Nat) : Bool :=
  (match src with
    | some s => inRows a s k.rowBytes k.rows k.srcPitch
    | none => false) ||
    decide (k.dstPitch < k.rowBytes ∧ 1 < rowCover a dst k.rowBytes k.rows k.dstPitch)

/-- Writes bytes for a command: a partial write of an uncorrectable sector counts as a read of it (R334). Bytes that `u`
marks take free values. -/
def Body.storeFor (b : Body) (fl : Flight) (a : Nat) (d : List Byte) (u : Nat → Bool := fun _ => false) : Bool × Body :=
  let bad := b.tiers.badSectors.find? fun x =>
    decide (a / 32 ≤ x ∧ x * 32 < a + d.length ∧ ¬(a ≤ x * 32 ∧ x * 32 + 32 ≤ a + d.length))
  let (ds, b) := (List.range d.length).foldl (fun (p : List Byte × Body) i =>
    if u (a + i) then let (w, b) := p.2.free; (p.1 ++ [w.setWidth 8], b) else (p.1 ++ [d.getD i 0], p.2)) ([], b)
  let b := match bad with
    | some x => b.eccRead fl x
    | none => b
  (bad.isSome, b.store a ds)

/-- Writes bytes that are all defined. -/
def Body.storePlain (b : Body) (fl : Flight) (a : Nat) (d : List Byte) : Bool × Body :=
  let bad := b.tiers.badSectors.find? fun x =>
    decide (a / 32 ≤ x ∧ x * 32 < a + d.length ∧ ¬(a ≤ x * 32 ∧ x * 32 + 32 ≤ a + d.length))
  let b := match bad with
    | some x => b.eccRead fl x
    | none => b
  (bad.isSome, b.store a d)

/-- Moves one block between local places: `old` is the state the source is read from. Tells whether an uncorrectable sector
was met. -/
def Body.moveBlock (b old : Body) (fl : Flight) (se de : Entry) (k : Block) : Bool × Body :=
  let s := se.base + k.src
  let d := de.base + k.dst
  let clean := !spansMeet s ((k.rows - 1) * k.srcPitch + k.rowBytes) d ((k.rows - 1) * k.dstPitch + k.rowBytes) &&
    decide (k.dstPitch ≥ k.rowBytes ∨ k.rows = 1)
  (List.range k.rows).foldl (fun (p : Bool × Body) r =>
    let (ecc, b) := p
    let sa := s + r * k.srcPitch
    let da := d + r * k.dstPitch
    let b := (b.tierTraffic fl.slot sa k.rowBytes false (pointOf da)).tierTraffic fl.slot da k.rowBytes true (pointOf da)
    let (_, e1, b) := b.load fl sa k.rowBytes
    let bs := old.bytes sa k.rowBytes
    let (e2, b) := if clean then b.storePlain fl da bs else b.storeFor fl da bs (undefinedByte (some s) d k)
    (ecc || e1 || e2, b)) (false, b)

/-- The entries a copy names, or the failure status and handle (R110). Crate entries are read only where R205 accepts them. -/
def Body.dmaArgs (b : Body) (fl : Flight) (h1 h2 : Nat) (ks : List Block) : Except (Nat × Nat) (Entry × Entry) :=
  match b.resolve fl.slot h1 with
  | none => .error (0x12, h1)
  | some se =>
    match b.resolve fl.slot h2 with
    | none => .error (0x12, h2)
    | some de =>
      if se.layout = 4 ∨ ¬ ks.all fun k => b.blockOk se k false then .error (0x11, h1)
      else if de.layout = 4 ∨ ¬ ks.all fun k => b.blockOk de k true then .error (0x11, h2)
      else .ok (se, de)

/-- The virtual channel of a DMA through a remote Gangway (R356). -/
def dmaVc (c : Cmd) : Nat := if c.slack then 6 else 3

/-- A remote Gangway's traffic by a DMA (R357, R358): a request for each row of each block. -/
def Body.remoteDma (b : Body) (fl : Flight) (rem : Entry) (write : Bool) (near : Entry) (ks : List Block)
    (pattern : Option (List Byte)) : Body :=
  let (line, b) := b.pickLine rem.module (b.partOfSlot fl.slot) (dmaVc fl.cmd)
  match line with
  | none => b.fail fl 0x21
  | some l =>
    let rows := ks.flatMap fun k => (List.range k.rows).map fun r =>
      (k.src + r * k.srcPitch, k.dst + r * k.dstPitch, k.rowBytes)
    let b := b.start { fl with handles := [fl.cmd.h 1 / 65536, fl.cmd.h 3 / 65536] }
    let fills := if write then [] else rows.map fun p => (near.base + p.2.1, p.2.2)
    let b := { b with ln.remote := b.ln.remote ++ [({ fl := fl, fills := fills } : Remote)] }
    let b := rows.foldl (fun b p =>
      if write then
        let d : List Byte := (pattern.map fun x => padTo p.2.2 (List.replicate (p.2.2 / 8 + 1) x).flatten).getD
          (b.bytes (near.base + p.1) p.2.2)
        let m : Msg := { port := .line l, kind := .remoteWrite, nums := [rem.module, rem.gangway, rem.base + p.2.1, p.2.2, rem.key], data := d }
        b.lineSend l (dmaVc fl.cmd) m (some fl.uid)
      else
        let m : Msg := { port := .line l, kind := .remoteRead, nums := [rem.module, rem.gangway, rem.base + p.1, p.2.2, rem.key] }
        b.lineSend l (dmaVc fl.cmd) m (some fl.uid)) b
    if b.uidOnLines fl.uid then b else b.remoteDone fl.uid

/-- A DMA access to the Hold of a Berth in MOOR asks it to wake (R439). -/
def Body.wakeHold (b : Body) (a n : Nat) : Body :=
  ((regionsOf a n).filter fun r => decide (r < 1600)).foldl (fun b r =>
    if b.getF (.brPwrStat (r / 8)) Fld.brPwrStatState = 2 then
      { b with power.berths := SMap.upd b.power.berths {} (r / 8) fun x => { x with target := some 1 } }
    else b) b

/-- The Berths whose Holds the blocks of a copy read or write wake. -/
def Body.wakeBlocks (b : Body) (se de : Entry) (ks : List Block) : Body :=
  ks.foldl (fun b k =>
    let b := if se.place = 0 then b.wakeHold (se.base + k.src) ((k.rows - 1) * k.srcPitch + k.rowBytes) else b
    if de.place = 0 then b.wakeHold (de.base + k.dst) ((k.rows - 1) * k.dstPitch + k.rowBytes) else b) b

/-- Blocks move in order; between local places at once, through a remote Gangway over its Line. From one remote Gangway to
another, the requests to the source go first (log entry 26). -/
def Body.runCopy (b : Body) (fl : Flight) (ks : List Block) : Body :=
  match b.dmaArgs fl (fl.cmd.h 1) (fl.cmd.h 3) ks with
  | .error (st, h) => b.fail fl st h
  | .ok (se, de) =>
    let b := b.wakeBlocks se de ks
    if de.place = 5 then b.remoteDma fl de true (if se.place = 5 then { se with base := 0 } else se) ks none
    else if se.place = 5 then b.remoteDma fl se false de ks none
    else
      let old := b
      let (ecc, b) := ks.foldl (fun (p : Bool × Body) k =>
        let (e, b) := p.2.moveBlock old fl se de k
        (p.1 || e, b)) (false, b)
      b.doneEcc fl ecc

/-- DMA_COPY (R117, R118). -/
def execDmaCopy (c : Cmd) (s : State) : Host.Outcome State Fault Refusal :=
  s.onBody fun b => b.onCmd c 0x30 fun b fl =>
    let (k, n) := blockOf c
    (b.clampCmd fl n).runCopy fl [k]

/-- DMA_FILL (R117, R118): the 8-byte pattern, repeated from destination byte 0 of each row. -/
def execDmaFill (c : Cmd) (s : State) : Host.Outcome State Fault Refusal :=
  s.onBody fun b => b.onCmd c 0x31 fun b fl =>
    let (k, n) := blockOf c
    let b := b.clampCmd fl n
    match b.resolve fl.slot (c.h 3) with
    | none => b.fail fl 0x12 (c.h 3)
    | some de =>
      if de.layout = 4 ∨ ¬ b.blockOk de k true then b.fail fl 0x11 (c.h 3)
      else
        let pat := leBytes 8 (c.w 7).toNat
        let b := b.wakeBlocks { place := 5 } de [k]
        if de.place = 5 then b.remoteDma fl de true de [k] (some pat)
        else
          let d := de.base + k.dst
          let row := padTo k.rowBytes (List.replicate (k.rowBytes / 8 + 1) pat).flatten
          let clean := decide (k.dstPitch ≥ k.rowBytes ∨ k.rows = 1)
          let (ecc, b) := (List.range k.rows).foldl (fun (p : Bool × Body) r =>
            let da := d + r * k.dstPitch
            let b := p.2.tierTraffic fl.slot da k.rowBytes true (pointOf da)
            let (e, b) := if clean then b.storePlain fl da row else b.storeFor fl da row (undefinedByte none d k)
            (p.1 || e, b)) (false, b)
          b.doneEcc fl ecc

/-- The blocks of a WALK_COPY in walk order (R125). -/
def walkBlocks (k : Block) (pts : List (List Nat)) (ring : Nat) : List Block :=
  ((List.range pts.length).zip pts).map fun p =>
    let u := p.2.getD 0 0
    let v := p.2.getD 1 0
    { k with
      src := k.src + u * k.rows * k.srcPitch + v * k.rowBytes,
      dst := if ring = 0 then k.dst + u * k.rows * k.dstPitch + v * k.rowBytes
        else k.dst + p.1 % ring * k.rows * k.dstPitch }

/-- Blocks of one WALK_COPY overlap in the destination only through a ring, where a later block overwrites an earlier one's
slot; blocks complete in no fixed order, so the bytes of a slot written twice are free. -/
def ringTwice (pts ring : Nat) : Bool := decide (ring ≠ 0 ∧ pts > ring)

/-- Some byte of a block's destination lies in the source rows of another block of the command. -/
def crossOverlap (se de : Entry) (ks : List Block) : Bool :=
  ks.any fun k => ks.any fun j =>
    spansMeet (se.base + j.src) ((j.rows - 1) * j.srcPitch + j.rowBytes) (de.base + k.dst) ((k.rows - 1) * k.dstPitch + k.rowBytes)

/-- Moves the blocks of a WALK_COPY between local places: bytes that overlap the command's source, or that more than one block
writes, are undefined (R118, R125). -/
def Body.runWalk (b : Body) (fl : Flight) (se de : Entry) (ks : List Block) (twice : Bool) : Body :=
  let old := b
  let cross := crossOverlap se de ks
  let src (a : Nat) : Bool := ks.any fun j => inRows a (se.base + j.src) j.rowBytes j.rows j.srcPitch
  let many (a : Nat) : Bool :=
    decide (((ks.map fun j => rowCover a (de.base + j.dst) j.rowBytes j.rows j.dstPitch).sum) > 1)
  let (ecc, b) := ks.foldl (fun (p : Bool × Body) k =>
    if ¬ cross ∧ ¬ twice then
      let (e, b) := p.2.moveBlock old fl se de k
      (p.1 || e, b)
    else
      (List.range k.rows).foldl (fun (p : Bool × Body) r =>
        let sa := se.base + k.src + r * k.srcPitch
        let da := de.base + k.dst + r * k.dstPitch
        let b := (p.2.tierTraffic fl.slot sa k.rowBytes false (pointOf da)).tierTraffic fl.slot da k.rowBytes true (pointOf da)
        let (_, e1, b) := b.load fl sa k.rowBytes
        let (e2, b) := b.storeFor fl da (old.bytes sa k.rowBytes) fun a => src a || many a
        (p.1 || e1 || e2, b)) p) (false, b)
  b.doneEcc fl ecc

/-- WALK_COPY (R123-R125). Words 8-15 are the WALK descriptor that follows it; a second descriptor that is no WALK leaves
the walk's one level at 1. -/
def execWalkCopy (c : Cmd) (s : State) : Host.Outcome State Fault Refusal :=
  s.onBody fun b => b.onCmd c 0x32 fun b fl =>
    let (k, n) := blockOf c
    let br := max 1 (c.f 7 63 32)
    let bc := max 1 (c.f 7 31 16)
    let (ls, n2) := levelsOf ((List.range 7).map fun i => c.w (9 + i)) 1
    let (ls, given, n3) := readyWalk ls [br, bc]
    let n1 := (if c.f 7 63 32 = 0 then 1 else 0) + (if c.f 7 31 16 = 0 then 1 else 0)
    let b := b.clampCmd fl (n + n1 + n2 + n3)
    let pts := walkPoints ls given [br, bc]
    let ks := walkBlocks k pts (c.f 7 15 0)
    match b.dmaArgs fl (c.h 1) (c.h 3) ks with
    | .error (st, h) => b.fail fl st h
    | .ok (se, de) =>
      if se.place = 5 ∨ de.place = 5 then b.runCopy fl ks
      else (b.wakeBlocks se de ks).runWalk fl se de ks (ringTwice pts.length (c.f 7 15 0))

/-- WALK (R123): as a command of its own it follows no MM_OP and no WALK_COPY, and faults HANDLE_STALE. -/
def execWalk (c : Cmd) (s : State) : Host.Outcome State Fault Refusal :=
  s.onBody fun b => b.onCmd c 0x41 fun b fl => b.fail fl 0x12

end Sys2Proof.Machine
end

