-- ==== Sys2Proof/Machine/Flags.lean ====
section
/-!
DEFINITION. Every flag and tally computation of the Berth's arithmetic: what conversions count (R57), what Lathe
evaluations count (R166, R167, R177), Bench ownership (R151), and the rows a chain completes (R163).
-/

namespace Sys2Proof.Machine

/-- Counts what conversions of a Berth give in BR_FMT_TALLY (R57). Encodings of NaN count only where a store path wrote
them. -/
def Body.fmtTally (b : Body) (g : Nat) (t : Tally) (stored : Bool) : Body :=
  if t = {} then b
  else
    let b := b.bump (.brFmtTally g) Fld.brFmtTallySatCount t.sat
    let b := if stored then b.bump (.brFmtTally g) Fld.brFmtTallyNanCount t.nan else b
    let b := b.bump (.brFmtTally g) Fld.brFmtTallyBm40Sat t.bmSat
    b.bump (.brFmtTally g) Fld.brFmtTallyBm40Ftz t.bmFtz

/-- Counts a Lathe evaluation of a Berth, and one Lathe result of the context (R183, R57, R459). -/
def Body.latheTally (b : Body) (g slot : Nat) (r : LRes) : Body :=
  ((b.latheCount g r).fmtTally g { bmSat := r.bmSat, bmFtz := r.bmFtz } false).count slot 4 1

/-- A Berth beside its registers. -/
def Body.berth (b : Body) (g : Nat) : Berth := SMap.get b.berths {} g

/-- Changes a Berth. -/
def Body.updBerth (b : Body) (g : Nat) (f : Berth → Berth) : Body := { b with berths := SMap.upd b.berths {} g f }

/-- Rows that chains complete count in units of 256 (R163). -/
def Body.chainRow (b : Body) (g : Nat) : Body :=
  let n := (b.berth g).rows + 1
  if n ≥ 256 then (b.updBerth g fun x => { x with rows := n - 256 }).bump (.brJyBusy g) Fld.brJyBusyChainRows 1
  else b.updBerth g fun x => { x with rows := n }

/-- The region of a Berth's Bench. -/
def benchRegion (g : Nat) : Nat := 1800 + g

/-- A context is about to use the Bench: where another context's data, or none, lies there, it is zeroed first and becomes
the context's (R151). -/
def Body.benchTake (b : Body) (g ctx : Nat) : Body :=
  if b.getF (.brJyStat g) Fld.brJyStatBenchOwner = ctx then b
  else (b.zeroRegion (benchRegion g)).setF (.brJyStat g) Fld.brJyStatBenchOwner ctx

/-- The Bench is zeroed and has no owner (R151). -/
def Body.benchClear (b : Body) (g : Nat) : Body :=
  (b.zeroRegion (benchRegion g)).setF (.brJyStat g) Fld.brJyStatBenchOwner 0xFFFF

/-- The Bench's contents are lost and it has no owner (R151). -/
def Body.benchLose (b : Body) (g : Nat) : Body :=
  (b.loseRegion (benchRegion g)).setF (.brJyStat g) Fld.brJyStatBenchOwner 0xFFFF

/-- Counts a bank conflict in BR_CONFLICT_REC, which keeps the first (R98). -/
def Body.conflictRec (b : Body) (g : Nat) (k : Conflict) : Body :=
  let r : Reg := .brConflictRec g
  if b.flag r Fld.brConflictRecValid then b.setF r Fld.brConflictRecMore 1
  else
    let b := (b.setF r Fld.brConflictRecBank k.bank).setF r Fld.brConflictRecPortX k.portX
    let b := (b.setF r Fld.brConflictRecPortY k.portY).setF r Fld.brConflictRecSectorX k.sectorX
    ((b.setF r Fld.brConflictRecSectorY k.sectorY).setF r Fld.brConflictRecCycle k.cycle).setF r Fld.brConflictRecValid 1

end Sys2Proof.Machine
end

