-- ==== Sys2Proof/Machine/Matrix.lean ====
section
/-!
DEFINITION. The matrix arithmetic of the Truss (R38-R47): operand elements and their split, the exact window sum of a
chunk, and the chunk-by-chunk accumulation.
-/

namespace Sys2Proof.Machine

/-- An operand element as the cells receive it: 0 finite, 1 +∞, 2 -∞, 3 NaN; whether its value is zero, and its sign; its hi
and lo pieces in units of 2^-16 of their scales (R38, R45). -/
structure KEl where
  special : Nat := 0
  zero : Bool := true
  neg : Bool := false
  hi : Int := 0
  lo : Int := 0
deriving DecidableEq, Repr

/-- A row of at most 32 elements along K with its scale exponent; `bad` for the scale 0xFF; `two` when two-piece. -/
structure KRow where
  exp : Int := 0
  bad : Bool := false
  two : Bool := false
  els : List KEl := []
deriving DecidableEq, Repr

/-- A format reaches the cells in two pieces: MXINT8, BF16, FP16, FP32 (R38). -/
def twoPiece (fmt : Nat) : Bool := decide (fmt = 7 ∨ fmt = 8 ∨ fmt = 9 ∨ fmt = 10)

/-- A finite piece in units of 2^-16. -/
def pieceUnits : Val → Int
  | .fin s m e => signed s m * 2 ^ (e + 16).toNat
  | _ => 0

/-- The special kind of a value. -/
def specialOf : Val → Nat
  | .fin _ _ _ => 0
  | .inf false => 1
  | .inf true => 2
  | .nan => 3

/-- A value rounded to nearest even into E4M3, as a value. -/
def toE4M3 (v : Val) : Val := fE4M3.dec (fE4M3.conv 0 true false v).1

/-- The split of a two-piece row (R45): the hi scale exponent and the elements. -/
def splitRow (vs : List Val) : KRow :=
  let emax := (maxLog (vs.filter fun v => !v.special)).getD (-120)
  let xh := max (-127) (min 127 (emax - 7))
  let xl := xh - 4
  { exp := xh, two := true,
    els := vs.map fun v =>
      if v.special then { special := specialOf v, zero := false, neg := v.neg }
      else
        let hi := toE4M3 (v.scale (-xh))
        let lo := toE4M3 ((v.add (hi.scale xh).negate).scale (-xl))
        { zero := v.isZero, neg := v.neg, hi := pieceUnits hi, lo := pieceUnits lo } }

/-- A row of elements of a format with its E8M0 scale, 127 where the operand has none (R38, R42, R43). -/
def kRow (fmt scale : Nat) (vs : List Val) : KRow :=
  if scale = 0xFF then { bad := true, two := twoPiece fmt, els := vs.map fun _ => {} }
  else if twoPiece fmt then splitRow (vs.map fun v => v.scale ((scale : Int) - 127))
  else
    { exp := (scale : Int) - 127,
      els := vs.map fun v => { special := specialOf v, zero := v.isZero, neg := v.neg, hi := pieceUnits v } }

/-- The products of one element pair in units of 2^-40 (R42, R47): lo pieces weigh 2^-4 of hi pieces; DROP_LL drops the
lo·lo term where both operands are two-piece. -/
def pairUnits (drop : Bool) (a b : KEl) : Int :=
  256 * (a.hi * b.hi) + 16 * (a.hi * b.lo + a.lo * b.hi) + (if drop then 0 else a.lo * b.lo)

/-- What one element pair adds to a chunk: NaN, +∞, -∞, or a finite sum (R43). -/
def pairKind (a b : KEl) : Nat :=
  if a.special = 3 ∨ b.special = 3 then 3
  else if a.special = 0 ∧ b.special = 0 then 0
  else if a.zero ∨ b.zero then 3
  else if xor a.neg b.neg then 2
  else 1

/-- A chunk's exact sum W · 2^s, or an infinity, or NaN (R42, R43). A finite zero means W = 0. -/
def chunkVal (drop : Bool) (a b : KRow) : Val :=
  let ps := a.els.zip b.els
  let kinds := ps.map fun p => pairKind p.1 p.2
  if a.bad ∨ b.bad ∨ kinds.contains 3 ∨ (kinds.contains 1 ∧ kinds.contains 2) then .nan
  else if kinds.contains 1 then .inf false
  else if kinds.contains 2 then .inf true
  else
    ofInt ((ps.map fun p => pairUnits drop p.1 p.2).sum) (-40 + a.exp + b.exp) false

/-- One chunk step: acc = rne(acc + W · 2^s), with W = 0 leaving acc unchanged (R42, R43). -/
def accStep (acc : Nat) (w : Val) : Nat :=
  if w.isZero then acc else if (ofF32 acc).isNan then fFP32.nanCode else toF32 ((ofF32 acc).add w)

/-- The accumulator of one cell after the chunks of a pass, in increasing order. -/
def dotAcc (drop : Bool) (acc : Nat) (a b : List KRow) : Nat :=
  (a.zip b).foldl (fun x p => accStep x (chunkVal drop p.1 p.2)) acc

/-- The cell of a first chunk step with a running correction: rne(C · 2^-Δ + W · 2^s), taken even where W = 0 (R197). -/
def corrStep (acc : Nat) (delta : Int) (w : Val) : Nat :=
  if (ofF32 acc).isNan then fFP32.nanCode else toF32 (((ofF32 acc).scale (-delta)).add w)

/-- As `dotAcc`, with the first step of R197 where a correction is given. -/
def dotCorr (drop : Bool) (acc : Nat) (delta : Option Int) (a b : List KRow) : Nat :=
  match delta, a, b with
  | some d, x :: xs, y :: ys => dotAcc drop (corrStep acc d (chunkVal drop x y)) xs ys
  | _, a, b => dotAcc drop acc a b

/-- A tile's accumulators, row-major, from the rows of A, the columns of B and starting values (R41-R44). -/
def tileAcc (drop : Bool) (as bs : List (List KRow)) (acc : List Nat) : List Nat :=
  let n := bs.length
  (List.range as.length).flatMap fun r =>
    (List.range n).map fun c => dotAcc drop (acc.getD (r * n + c) 0) (as.getD r []) (bs.getD c [])

/-- The drained value acc × s_A × s_B, exact and rounded once (R40). -/
def drainVal (acc : Nat) (sa sb : Option Nat) : Nat :=
  match sa, sb with
  | none, none => acc
  | some a, none => toF32 ((ofF32 acc).mul (ofF32 a))
  | none, some b => toF32 ((ofF32 acc).mul (ofF32 b))
  | some a, some b => toF32 (((ofF32 acc).mul (ofF32 a)).mul (ofF32 b))

end Sys2Proof.Machine
end

