-- ==== Sys2Proof/Machine/Operands.lean ====
section
/-!
DEFINITION. Operand forms: element addressing in every layout with its origin (R108, R109, R230), element reads and packed
writes in every format (R36, R54), access checks over a block of elements (R110), and the streams of a Truss.
-/

namespace Sys2Proof.Machine

/-! ### Element addressing -/

/-- A resolved operand: its entry, the addressing it is read with (1 ROW_MAJOR, 2 COL_MAJOR, 3 PLANAR), the axis of its
blocks, the element the command's (0, 0) names (R109), and, for the pixels of a smaller image within a PLANAR tensor, that image's
rows and columns a frame and the first pixel (R232). -/
structure Opnd where
  e : Entry
  lay : Nat
  axis : Nat
  r0 : Nat := 0
  c0 : Nat := 0
  view : Option (Nat × Nat × Nat) := none
deriving DecidableEq, Repr

/-- The entry column of a command's column. -/
def Opnd.colOf (o : Opnd) (c : Nat) : Nat :=
  match o.view with
  | none => o.c0 + c
  | some (oh, ow, n0) =>
    let n := n0 + c
    o.c0 + (n / max 1 (oh * ow) * o.e.rows + n / max 1 ow % max 1 oh) * o.e.cols + n % max 1 ow

/-- An operand from row `r` and column `c` on. -/
def Opnd.shift (o : Opnd) (r c : Nat) : Opnd :=
  match o.view with
  | none => { o with r0 := o.r0 + r, c0 := o.c0 + c }
  | some (oh, ow, n0) => { o with r0 := o.r0 + r, view := some (oh, ow, n0 + c) }

/-- Bytes of one storage unit of a format: an element, the four elements of MXFP6, the two of MXFP4 (R36). -/
def unitBytes (fmt : Nat) : Nat := if elemBits fmt = 6 then 3 else max 1 (elemBits fmt / 8)

/-- Elements of one storage unit. -/
def unitElems (fmt : Nat) : Nat := if elemBits fmt = 6 then 4 else if elemBits fmt = 4 then 2 else 1

/-- PLANE_PITCH in bytes (R230). -/
def planePitch (e : Entry) : Nat := 32 * (e.param / 2 ^ 32)

/-- Channels and frames of a PLANAR entry (R230). -/
def planarC (e : Entry) : Nat := e.param % 65536 + 1
/-- Frames of a PLANAR entry. -/
def planarF (e : Entry) : Nat := e.param / 65536 % 65536 + 1

/-- The offset in its entry of the storage unit that holds element (r, c) (R108, R230), and the element's place in it. -/
def unitOff (e : Entry) (lay r c : Nat) : Nat × Nat :=
  match lay with
  | 2 => (c * e.pitch + elemByte e.fmt r, r % unitElems e.fmt)
  | 3 => (r * planePitch e + c / max 1 e.cols * e.pitch + elemByte e.fmt (c % max 1 e.cols), 0)
  | _ => (r * e.pitch + elemByte e.fmt c, c % unitElems e.fmt)

/-- Element index whose first byte lies at byte `x` of a row; none where no element begins there. -/
def elemAt (fmt x : Nat) : Option Nat :=
  if x % unitBytes fmt = 0 then some (x / unitBytes fmt * unitElems fmt) else none

/-- The entry element whose first byte lies at an offset (R109). -/
def originOf (e : Entry) (lay off : Nat) : Option (Nat × Nat) :=
  match lay with
  | 3 =>
    let pp := max 1 (planePitch e)
    let y := off % pp / max 1 e.pitch
    match elemAt e.fmt (off % pp % max 1 e.pitch) with
    | some x => if x < e.cols then some (off / pp, y * e.cols + x) else none
    | none => none
  | lay =>
    let along := if lay = 2 then e.rows else e.cols
    let across := if e.pitch = 0 then 0 else off / e.pitch
    let rest := if e.pitch = 0 then off else off % e.pitch
    match elemAt e.fmt rest with
    | some x => if x < along then some (if lay = 2 then (x, across) else (across, x)) else none
    | none => none

/-- An operand read as a matrix at an offset in 32-byte units: its origin, with MX blocks beginning at it along the block
axis; none where R109 faults. -/
def opndAt (e : Entry) (lay axis off : Nat) : Option Opnd :=
  match originOf e lay (32 * off) with
  | some (r0, c0) =>
    if e.sk = 2 ∧ (if axis = 0 then c0 else r0) % 32 ≠ 0 then none else some ⟨e, lay, axis, r0, c0, none⟩
  | none => none

/-- The addressing of an entry other than on a Truss stream: LINEAR is read as ROW_MAJOR (R108). -/
def ownLay (e : Entry) : Nat := if e.layout = 2 then 2 else if e.layout = 3 then 3 else 1

/-- An operand of a Joinery access, of a chain, or OUT or C, in its own layout. -/
def opndOwn (e : Entry) (off : Nat) : Option Opnd := opndAt e (ownLay e) e.axis off

/-- The A stream (COL_MAJOR, blocks along columns) or the B stream (ROW_MAJOR, blocks along rows) of a Truss (R108, R109). -/
def opndStream (e : Entry) (isB : Bool) (off : Nat) : Option Opnd := opndAt e (if isB then 1 else 2) (if isB then 1 else 0) off

/-- The address of the scale byte of entry element (r, c) (R109). -/
def scaleAddr (e : Entry) (axis r c : Nat) : Nat :=
  if axis = 0 then e.scaleBase + r * ceilDiv e.cols 32 + c / 32 else e.scaleBase + c * ceilDiv e.rows 32 + r / 32

/-! ### Reads -/

/-- The code of an element in a storage unit. -/
def unitCode (fmt unit k : Nat) : Nat := unit / 2 ^ (elemBits fmt * k) % 2 ^ elemBits fmt

/-- The value of an element before its scale, and its E8M0 scale (127 where it has none). -/
def Body.elem (b : Body) (o : Opnd) (r c : Nat) : Val × Nat :=
  let (off, k) := unitOff o.e o.lay (o.r0 + r) (o.colOf c)
  let v := elemVal o.e.fmt (unitCode o.e.fmt (b.le (o.e.base + off) (unitBytes o.e.fmt)) k)
  (v, if isMx o.e.fmt then (b.byte (scaleAddr o.e o.axis (o.r0 + r) (o.colOf c))).toNat else 127)

/-- An element widened to FP32 for the Joinery (R54): a TENSOR scale does not apply. -/
def Body.elemF32 (b : Body) (o : Opnd) (r c : Nat) : Nat :=
  let (v, s) := b.elem o r c
  toF32 (if isMx o.e.fmt then e8m0 v s else v)

/-- A row of the A operand, or a column of the B operand, over `k` K indices from `k0`, in chunks of 32 (R41). K indices
for which `live` is false read +0 (R74). -/
def Body.streamRow (b : Body) (o : Opnd) (isB : Bool) (i k0 k : Nat) (live : Nat → Bool := fun _ => true) : List KRow :=
  (List.range (ceilDiv k 32)).map fun j =>
    let n := min 32 (k - 32 * j)
    let at_ (x : Nat) : Nat × Nat := if isB then (k0 + 32 * j + x, i) else (i, k0 + 32 * j + x)
    let sc := (b.elem o (at_ 0).1 (at_ 0).2).2
    kRow o.e.fmt sc ((List.range n).map fun x =>
      if live (k0 + 32 * j + x) then (b.elem o (at_ x).1 (at_ x).2).1 else .fin false 0 0)

/-! ### Access checks (R110) -/

/-- The byte ranges, by offset, of a block of `m` rows and `n` columns of an operand. -/
def Opnd.spans (o : Opnd) (m n : Nat) : List (Nat × Nat) :=
  if m = 0 ∨ n = 0 then []
  else
    let u := unitBytes o.e.fmt
    match o.lay with
    | 2 => (List.range n).map fun c =>
        let lo := (unitOff o.e 2 o.r0 (o.c0 + c)).1
        (lo, (unitOff o.e 2 (o.r0 + m - 1) (o.c0 + c)).1 + u - lo)
    | 3 => (List.range m).flatMap fun r =>
        ((List.range n).foldl (fun (acc : List (Nat × Nat)) i =>
          let x := (unitOff o.e 3 (o.r0 + r) (o.colOf i)).1
          match acc with
          | (a, k) :: l => if a + k = x then (a, k + u) :: l else (x, u) :: acc
          | [] => [(x, u)]) []).reverse
    | _ => (List.range m).map fun r =>
        let lo := (unitOff o.e 1 (o.r0 + r) o.c0).1
        (lo, (unitOff o.e 1 (o.r0 + r) (o.c0 + n - 1)).1 + u - lo)

/-- The scale bytes of a block of elements can be accessed. -/
def Body.scalesOk (b : Body) (o : Opnd) (m n : Nat) : Bool :=
  !isMx o.e.fmt || decide (m = 0 ∨ n = 0) ||
    (if o.axis = 0 then
      (List.range m).all fun r =>
        let lo := scaleAddr o.e 0 (o.r0 + r) o.c0
        b.rangeOk lo (scaleAddr o.e 0 (o.r0 + r) (o.c0 + n - 1) + 1 - lo)
    else
      (List.range n).all fun c =>
        let lo := scaleAddr o.e 1 o.r0 (o.c0 + c)
        b.rangeOk lo (scaleAddr o.e 1 (o.r0 + m - 1) (o.c0 + c) + 1 - lo))

/-- Every byte of a block of elements may be read, or written. -/
def Body.blockMay (b : Body) (o : Opnd) (m n : Nat) (write : Bool) : Bool :=
  ((o.spans m n).all fun s => b.accessOk o.e s.1 s.2 write) && b.scalesOk o m n

/-- Reads a block for a command: tier traffic, and whether an uncorrectable sector was met (R324, R333). -/
def Body.readBlock (b : Body) (fl : Flight) (o : Opnd) (m n point : Nat) : Bool × Body :=
  (o.spans m n).foldl (fun (p : Bool × Body) s =>
    let b := p.2.tierTraffic fl.slot (o.e.base + s.1) s.2 false point
    match b.badIn (o.e.base + s.1) s.2 with
    | some x => (true, b.eccRead fl x)
    | none => (p.1, b)) (false, b)

/-! ### Packed writes (R36) -/

/-- Elements (unit offset, place in the unit, code) merged into storage units (address, value); bits of a unit that no
element covers keep what memory holds. -/
def Body.packUnits (b : Body) (fmt base : Nat) (els : List (Nat × Nat × Nat)) : List (Nat × Nat) :=
  let w := elemBits fmt
  let put (u k code : Nat) : Nat := if unitElems fmt = 1 then code % 2 ^ (8 * unitBytes fmt) else putBits u (w * k + w - 1) (w * k) code
  (els.foldl (fun (acc : List (Nat × Nat)) e =>
    match acc with
    | (a, u) :: r => if a = base + e.1 then (a, put u e.2.1 e.2.2) :: r
        else (base + e.1, put (b.le (base + e.1) (unitBytes fmt)) e.2.1 e.2.2) :: acc
    | [] => [(base + e.1, put (b.le (base + e.1) (unitBytes fmt)) e.2.1 e.2.2)]) []).reverse

/-- Units that follow one another joined into runs of bytes. -/
def unitRuns (fmt : Nat) (us : List (Nat × Nat)) : List (Nat × List Byte) :=
  (us.foldl (fun (acc : List (Nat × List Byte)) u =>
    let bs := leBytes (unitBytes fmt) u.2
    match acc with
    | (a, l) :: r => if a + l.length = u.1 then (a, l ++ bs) :: r else (u.1, bs) :: acc
    | [] => [(u.1, bs)]) []).reverse

/-- Writes a row of element codes from column `c` of row `r` of an operand, for a command (R108, R324, R334). -/
def Body.writeRow (b : Body) (fl : Flight) (o : Opnd) (r c : Nat) (codes : List Nat) (point : Nat) : Bool × Body :=
  let els := (List.range codes.length).map fun i =>
    let (off, k) := unitOff o.e o.lay (o.r0 + r) (o.colOf (c + i))
    (off, k, codes.getD i 0)
  (unitRuns o.e.fmt (b.packUnits o.e.fmt o.e.base els)).foldl (fun (p : Bool × Body) s =>
    let b := p.2.tierTraffic fl.slot s.1 s.2.length true point
    let (e, b) := b.storePlain fl s.1 s.2
    (p.1 || e, b)) (false, b)

/-- Writes the scale byte of element (r, c) of an operand. -/
def Body.writeScale (b : Body) (fl : Flight) (o : Opnd) (r c v : Nat) : Bool × Body :=
  b.storePlain fl (scaleAddr o.e o.axis (o.r0 + r) (o.colOf c)) [BitVec.ofNat 8 v]

end Sys2Proof.Machine
end

