-- ==== Sys2Proof/Machine/Chain.lean ====
section
/-!
DEFINITION. Chains (R138-R146, R184-R187): the fields of a chain slot with their clamps, CHAIN_SET, the stages row by row
with their random draws (R272), and the output conversion with every OUT_SCALE.
-/

namespace Sys2Proof.Machine

/-! ### The fields of a slot (R141-R143) -/

/-- Word `i` of a chain slot. -/
def chW (ws : List Word) (i : Nat) : Word := ws.getD (i - 1) 0

/-- The output fields of a chain: stages, OUT_FMT, OUT_ROUND, OUT_SAT, OUT_SCALE; an unwritten slot is the plain FP32 store
(R141), and an MX OUT_FMT has MX32 scales (R142, R185). -/
structure ChOut where
  nstage : Nat := 0
  fmt : Nat := 10
  round : Nat := 0
  sat : Bool := false
  scale : Nat := 0
deriving DecidableEq, Repr

/-- The output fields of a slot's words. -/
def chOut (ws : List Word) : ChOut :=
  if ws = [] then {}
  else
    let w := chW ws 1
    let fmt := w.fld 13 10
    { nstage := w.fld 9 6, fmt := fmt, round := w.fld 16 14, sat := w.bit 17,
      scale := if isMx fmt then 1 else w.fld 19 18 }

/-- The nearest defined operation code, a tie to the lower (R138). -/
def opCode (o : Nat) : Nat :=
  if o ≤ 0x0E then o
  else if o = 0x0F then 0x0E
  else if o ≤ 0x18 then 0x10
  else if o < 0x20 then 0x20
  else min o 0x27

/-- A stage or Bench format: E4M3, E5M2, BF16, FP16 or FP32; other codes are taken as FP32 (R142, R143). -/
def laneFmt (f : Nat) : Nat := if f = 0 ∨ f = 1 ∨ f = 8 ∨ f = 9 then f else 10

/-- A source code and its index after clamps (R142). -/
def srcFix (s i : Nat) : Nat × Nat := (min s 5, if min s 5 ≥ 3 then min i 7 else i)

/-- 1 where a clamp changed a value. -/
def diff (a b : Nat) : Nat := if a = b then 0 else 1

/-- A stage word after clamps, and the fields clamped (R138, R142, R167). -/
def stageFix (w : Word) : Word × Nat :=
  let op := opCode (w.fld 63 58)
  let (ys, yi) := srcFix (w.fld 57 55) (w.fld 54 51)
  let (zs, zi) := srcFix (w.fld 50 48) (w.fld 47 44)
  let fmt := laneFmt (w.fld 43 40)
  let rd := min 4 (w.fld 39 37)
  let fn := if op = 0x10 then funcOf (w.fld 35 28) else w.fld 35 28
  let n := op * 2 ^ 58 + ys * 2 ^ 55 + yi * 2 ^ 51 + zs * 2 ^ 48 + zi * 2 ^ 44 + fmt * 2 ^ 40 + rd * 2 ^ 37 +
    (if w.bit 36 then 2 ^ 36 else 0) + fn * 2 ^ 28
  (BitVec.ofNat 64 n,
    diff op (w.fld 63 58) + diff ys (w.fld 57 55) + diff yi (w.fld 54 51) + diff zs (w.fld 50 48) + diff zi (w.fld 47 44) +
      diff fmt (w.fld 43 40) + diff rd (w.fld 39 37) + diff fn (w.fld 35 28))

/-- A Bench operand after its clamp (R143). -/
def benchFix (v : Nat) : Nat × Nat :=
  let f := laneFmt (bits v 18 15)
  (putBits v 18 15 f, diff f (bits v 18 15))

/-- OUT_FMT and OUT_SCALE after clamps (R32, R185), and the fields clamped. -/
def outFix (fmt scale : Nat) : Nat × Nat × Nat :=
  let f := min fmt 13
  let c0 := diff f fmt
  match scale with
  | 1 => if isMx f then (f, 1, c0) else (f, 0, c0 + 1)
  | 2 => if f = 0 ∨ f = 1 then (f, 2, c0) else (0, 2, 1)
  | 3 => if f = 0 ∨ f = 1 ∨ f = 8 ∨ f = 9 then (f, 3, c0) else (0, 3, 1)
  | s => (f, s, c0)

/-- What CHAIN_SET stores: the slot, its 15 words after clamps with reserved bits 0, and the fields clamped (R141). -/
def chainFix (c : Cmd) : Nat × List Word × Nat :=
  let slot := max 1 (c.f 1 5 0)
  let ns := min 8 (c.f 1 9 6)
  let (fmt, sc, k0) := outFix (c.f 1 13 10) (c.f 1 19 18)
  let rd := min 4 (c.f 1 16 14)
  let w1 := slot + ns * 64 + fmt * 1024 + rd * 2 ^ 14 + (if c.b 1 17 then 2 ^ 17 else 0) + sc * 2 ^ 18
  let stages := (List.range 8).map fun i => if i < ns then stageFix (c.w (2 + i)) else (0, 0)
  let benches := (List.range 4).map fun i =>
    let (a, x) := benchFix (c.f (10 + i) 31 0)
    let (d, y) := benchFix (c.f (10 + i) 63 32)
    (BitVec.ofNat 64 (a + d * 2 ^ 32), x + y)
  (slot, BitVec.ofNat 64 w1 :: stages.map (·.1) ++ benches.map (·.1) ++ [c.w 14, c.w 15],
    diff slot (c.f 1 5 0) + diff ns (c.f 1 9 6) + k0 + diff rd (c.f 1 16 14) + (stages.map (·.2)).sum + (benches.map (·.2)).sum)

/-- CHAIN_SET (R141): writes one chain slot of the context, with every clamp made and counted here. -/
def execChainSet (c : Cmd) (s : State) : Host.Outcome State Fault Refusal :=
  s.onBody fun b => b.onCmd c 0x48 fun b fl =>
    let (slot, ws, n) := chainFix c
    let b := b.clampCmd fl n
    ({ b with hm.chains := SMap.set b.hm.chains [] (fl.slot * 64 + slot) ws }).done fl

/-! ### Running stages -/

/-- What a chain runs with: the slot's words and the scalars as the command copied them (R145, R146), its context slot, the
Berth, the Lathe bank it latched, and the Ripples that serve it (R269). -/
structure ChainEnv where
  words : List Word := []
  sregs : SMap Word := []
  slot : Nat
  g : Nat
  bank : Nat := 0
  rip : List Nat := []
deriving DecidableEq, Repr

/-- The chain of a slot as a command copied it. -/
def Flight.chain (fl : Flight) (n : Nat) : List Word := if n = 0 then [] else SMap.get fl.chains [] (fl.slot * 64 + n)

/-- The environment of an epilogue chain of a Berth (RG0 and RG1). -/
def epiEnv (fl : Flight) (chain g : Nat) : ChainEnv :=
  { words := fl.chain chain, sregs := fl.sregs, slot := fl.slot, g := g, bank := fl.bank, rip := [4 * g, 4 * g + 1] }

/-- The environment of a prologue or of a VEC_OP chain (RG2). -/
def vecEnv (fl : Flight) (chain g : Nat) : ChainEnv := { epiEnv fl chain g with rip := [4 * g + 2] }

/-- Delivered scalar `i` of a chain's list (R141, R146). -/
def ChainEnv.scalar (v : ChainEnv) (i : Nat) : Word :=
  SMap.get v.sregs 0 (v.slot * 256 + (chW v.words (14 + i / 8)).fld (8 * (i % 8) + 7) (8 * (i % 8)))

/-- Bench operand `i`: offset in bytes, format, pitch in bytes (R143). -/
def ChainEnv.bench (v : ChainEnv) (i : Nat) : Nat × Nat × Nat :=
  let x := (chW v.words (10 + i / 2)).fld (32 * (i % 2) + 31) (32 * (i % 2))
  (32 * bits x 14 0, bits x 18 15, 32 * bits x 31 19)

/-- An element at a Bench byte, widened to FP32. -/
def Body.benchF32 (b : Body) (g off fmt : Nat) : Nat :=
  toF32 (elemVal fmt (b.le (benchBase g + off) (elemBits fmt / 8)))

/-- The value a source delivers for element (r, c) of the unit of work (R142, R143). -/
def Body.srcVal (b : Body) (v : ChainEnv) (src idx input r c none_ : Nat) : Nat :=
  match src with
  | 0 => none_
  | 1 => input
  | 2 => (v.scalar idx).toNat % 2 ^ 32
  | 3 => let (o, f, _) := v.bench idx; b.benchF32 v.g (o + elemByte f r) f
  | 4 => let (o, f, _) := v.bench idx; b.benchF32 v.g (o + elemByte f c) f
  | _ => let (o, f, p) := v.bench idx; b.benchF32 v.g (o + p * r + elemByte f c) f

/-- FP32 truth values of CMPLT and CMPEQ. -/
def f32Bool (x : Bool) : Nat := if x then 0x3F800000 else 0

/-- P of KEEP: rne(y × 256) with y clamped to [0, 1], a NaN taken as 0 (R272). -/
def keepP (y : Nat) : Nat :=
  match ofF32 y with
  | .nan => 0
  | v => if v.lt (.fin false 0 0) then 0 else if v.le (.fin false 1 0) then (convInt 32 (v.scale 8)).1 else 256

/-- SCALE2's exponent: the low 32 bits of y as INT32, clamped to [-300, 300]. -/
def scale2N (y : Nat) : Int := max (-300) (min 300 (sInt 32 y))

/-- An element-wise operation other than LATHE on FP32 encodings, with the draw's 8 bits for KEEP (R138, R139). Row stages act
as PASS. -/
def laneOp (op x y z q8 : Nat) : Nat :=
  let X := ofF32 x
  let Y := ofF32 y
  let Z := ofF32 z
  match op with
  | 0x01 => toF32 (X.add Y)
  | 0x02 => toF32 (X.add Y.negate)
  | 0x03 => toF32 (X.mul Y)
  | 0x04 => toF32 ((X.mul Y).add Z)
  | 0x05 => toF32 (X.minmax false Y)
  | 0x06 => toF32 (X.minmax true Y)
  | 0x07 => toF32 X.abs
  | 0x08 => toF32 X.negate
  | 0x09 => toF32 ((X.minmax true Y).minmax false Z)
  | 0x0A => toF32 (X.scale (scale2N y))
  | 0x0B => toF32 (if Z.isZero then Y else X)
  | 0x0C => f32Bool (X.lt Y)
  | 0x0D => f32Bool (X.eqv Y)
  | 0x0E => if q8 < keepP y then toF32 X else toF32 (.fin X.neg 0 0)
  | _ => toF32 X

/-- One draw for each group of eight columns that `cs` meets, in increasing order (R272). -/
def Body.drawGroups (b : Body) (rip : List Nat) (cs : List Nat) : SMap Word × Body :=
  let gs := ((cs.map (· / 8)).dedup)
  (List.range gs.length).foldl (fun (p : SMap Word × Body) i =>
    let (d, b) := p.2.draw (rip.getD (i / 4 % max 1 rip.length) 0)
    (SMap.put p.1 (gs.getD i 0) d, b)) ([], b)

/-- The rotated draw of an element: q_i of R272. -/
def drawOf (ds : SMap Word) (c : Nat) : Word := (SMap.get ds 0 (c / 8)).rotateRight (8 * (c % 8))

/-- A format that SR1 applies to (R51). -/
def sr1Fmt (f : Nat) : Bool := decide (f < 10)

/-- A stage takes random bits: KEEP, or SR1 into a narrow format. -/
def stageRandom (w : Word) : Bool := decide (w.fld 63 58 = 0x0E) || (decide (w.fld 39 37 = 4) && sr1Fmt (w.fld 43 40))

/-- A value rounded to a stage's format and widened back: the FP32 encoding and its tally (R142). -/
def roundTo (fmt mode : Nat) (sat t : Bool) (x : Nat) : Nat × Tally :=
  if fmt = 10 then (toF32 (ofF32 x), {})
  else
    let (c, k) := (fmtOf fmt).conv mode sat t (ofF32 x)
    (toF32 ((fmtOf fmt).dec c), { k with nan := 0 })

/-- The Lathe stage of one element: the FP32 result, a BM40 result being converted (R164, R165). -/
def latheF32 (bk : Bank) (fn x y z : Nat) : Nat × LRes :=
  let (c, r) := lathePass bk fn x false y z
  (if bmFunc (funcOf fn) then toF32 (fBM40.dec c) else c, r)

/-- The partition of a Berth. -/
def Body.partOfBerth (b : Body) (g : Nat) : Nat := (partOfQuay b.framing (g / 20)).getD 0

/-- One stage over a row of the unit of work: `ins` the chain's input elements, `xs` the values so far, at columns `cs`. -/
def Body.runStage (b : Body) (v : ChainEnv) (w : Word) (r : Nat) (cs ins xs : List Nat) : List Nat × Body :=
  let (ds, b) := if stageRandom w then b.drawGroups v.rip cs else ([], b)
  let op := w.fld 63 58
  (List.range cs.length).foldl (fun (p : List Nat × Body) i =>
    let c := cs.getD i 0
    let x := xs.getD i 0
    let inp := ins.getD i 0
    let y := p.2.srcVal v (w.fld 57 55) (w.fld 54 51) inp r c 0
    let z := p.2.srcVal v (w.fld 50 48) (w.fld 47 44) inp r c (if op = 0x10 then 0x3F800000 else 0)
    let q := drawOf ds c
    let (f, b) :=
      if op = 0x10 then
        let (f, l) := latheF32 (p.2.bank (p.2.partOfBerth v.g) v.bank) (w.fld 35 28) x y z
        (f, p.2.latheTally v.g v.slot l)
      else (laneOp op x y z (q.fld 7 0), p.2)
    let (f, t) := roundTo (w.fld 43 40) (w.fld 39 37) (w.bit 36) (q.bit 0) f
    (p.1 ++ [f], b.fmtTally v.g t false)) ([], b)

/-- The stages of a chain over one row, from stage `k`, `n` left. -/
def Body.runStages (b : Body) (v : ChainEnv) (r : Nat) (cs ins : List Nat) : Nat → Nat → List Nat → List Nat × Body
  | 0, _, xs => (xs, b)
  | n + 1, k, xs =>
    let (ys, b) := b.runStage v (chW v.words (2 + k)) r cs ins xs
    Body.runStages b v r cs ins n (k + 1) ys

/-- A chain over one row of its unit of work. -/
def Body.chainRowVals (b : Body) (v : ChainEnv) (r : Nat) (cs ins : List Nat) : List Nat × Body :=
  let (ys, b) := b.runStages v r cs ins (chOut v.words).nstage 0 ins
  (ys, b.chainRow v.g)

/-- The chain reads the Bench, or stages its output there. -/
def chainUsesBench (ws : List Word) : Bool :=
  decide ((chOut ws).scale = 2) || (List.range (chOut ws).nstage).any fun k =>
    decide ((chW ws (2 + k)).fld 57 55 ≥ 3 ∨ (chW ws (2 + k)).fld 50 48 ≥ 3)

/-- The first Bench byte past what a source reads over `m` rows and `n` columns. -/
def ChainEnv.reach (v : ChainEnv) (src idx m n : Nat) : Nat :=
  let (o, f, p) := v.bench idx
  let e := elemBits f / 8
  if src = 3 then o + e * m else if src = 4 then o + e * n else if src = 5 then o + p * (m - 1) + e * n else 0

/-- No Bench operand of a chain reaches beyond 1 MiB for a unit of work of m × n (R143, R186). -/
def ChainEnv.benchOk (v : ChainEnv) (m n : Nat) : Bool :=
  ((List.range (chOut v.words).nstage).all fun k =>
    let w := chW v.words (2 + k)
    decide (v.reach (w.fld 57 55) (w.fld 54 51) m n ≤ 0x100000 ∧ v.reach (w.fld 50 48) (w.fld 47 44) m n ≤ 0x100000)) &&
    (decide ((chOut v.words).scale ≠ 2) || decide ((v.bench 7).1 + 8 * m * n ≤ 0x100000))

/-- Every LATHE stage names a built-in or a Jig that is VALID in the latched bank (R179). -/
def Body.chainJigsOk (b : Body) (v : ChainEnv) : Bool :=
  (List.range (chOut v.words).nstage).all fun k =>
    let w := chW v.words (2 + k)
    decide (w.fld 63 58 ≠ 0x10) || decide (w.fld 35 28 < 0x40) ||
      jigValid (b.bank (b.partOfBerth v.g) v.bank) (w.fld 35 28 - 0x40)

/-- Row stages that run as PASS in an ordinary chain, each counted once for the command (R193). -/
def rowStages (ws : List Word) : Nat :=
  ((List.range (chOut ws).nstage).filter fun k => decide ((chW ws (2 + k)).fld 63 58 ≥ 0x20)).length

/-! ### Output (R142, R185-R187) -/

/-- The FORMAT and SCALE_KIND an OUT entry must have for a chain's output (R185). -/
def outNeeds (o : ChOut) : Nat × Nat :=
  match o.scale with
  | 1 => (o.fmt, 2)
  | 2 => (if o.fmt = 1 then 3 else 2, 2)
  | 3 => (o.fmt, 1)
  | _ => (o.fmt, 0)

/-- An OUT entry matches a chain's output (R96, R185). -/
def outMatches (o : ChOut) (e : Entry) : Bool :=
  decide (e.fmt = (outNeeds o).1 ∧ e.sk = (outNeeds o).2) && (decide ((outNeeds o).2 ≠ 2) || decide (e.axis = 0))

/-- S of R187: an S of zero, NaN or infinity is taken as 1.0, a clamp. -/
def tensorS (e : Entry) : Nat × Nat :=
  let v := ofF32 e.scaleF32
  if v.isZero ∨ v.special then (0x3F800000, 1) else (e.scaleF32, 0)

/-- The larger of an amax and the magnitude of a final value, NaN ignored (R187). -/
def amaxWith (a x : Nat) : Nat := if (ofF32 x).isNan then a else max a (x % 2 ^ 31)

/-- A row of final values converted and written at column `c` of row `r` of OUT, whose columns in the tile are `cs`: whether
an uncorrectable sector was met, and the state. TILE rows are written by `outTile`. -/
def Body.outRow (b : Body) (fl : Flight) (v : ChainEnv) (o : Opnd) (r c : Nat) (cs vals : List Nat) (point : Nat) : Bool × Body :=
  let co := chOut v.words
  let (ds, b) := if co.round = 4 ∧ sr1Fmt co.fmt then b.drawGroups v.rip cs else ([], b)
  let bit (i : Nat) : Bool := (drawOf ds (cs.getD i 0)).bit 0
  if co.scale = 1 then
    (List.range (ceilDiv vals.length 32)).foldl (fun (p : Bool × Body) j =>
      let vs := (vals.drop (32 * j)).take 32
      let (sc, es, t) := mxBlock co.fmt co.round ((List.range vs.length).map fun i => bit (32 * j + i)) (vs.map ofF32)
      let (e1, b) := p.2.writeRow fl o r (c + 32 * j) es point
      let (e2, b) := b.writeScale fl o r (c + 32 * j) sc
      (p.1 || e1 || e2, b.fmtTally v.g t true)) (false, b)
  else
    let s := ofF32 (tensorS o.e).1
    let rs := (List.range vals.length).map fun i =>
      let x := ofF32 (vals.getD i 0)
      convElem co.fmt co.round co.sat (bit i) (if co.scale = 3 then x.div s else x)
    let b := b.fmtTally v.g (rs.foldl (fun a p => a.plus p.2) {}) true
    b.writeRow fl o r c (rs.map (·.1)) point

/-- A tile of final values under a TILE scale: one exponent for all of it, written into every block scale (R186). -/
def Body.outTile (b : Body) (fl : Flight) (v : ChainEnv) (o : Opnd) (r c m n : Nat) (vals : List Nat) (point : Nat) : Bool × Body :=
  let co := chOut v.words
  let fmt := if co.fmt = 1 then 3 else 2
  let (ts, b) := (List.range m).foldl (fun (p : List Bool × Body) _ =>
    if co.round = 4 then
      let (ds, b) := p.2.drawGroups v.rip (List.range n)
      (p.1 ++ (List.range n).map fun i => (drawOf ds i).bit 0, b)
    else p) ([], b)
  let (sc, es, t) := mxBlock fmt co.round ts (vals.map ofF32)
  let b := b.fmtTally v.g t true
  (List.range m).foldl (fun (p : Bool × Body) i =>
    let (e1, b) := p.2.writeRow fl o (r + i) c ((es.drop (i * n)).take n) point
    (List.range (ceilDiv n 32)).foldl (fun (p : Bool × Body) j =>
      let (e2, b) := p.2.writeScale fl o (r + i) (c + 32 * j) sc
      (p.1 || e2, b)) (p.1 || e1, b)) (false, b)

/-- The Bench bytes that a TILE scale's staging leaves undefined from the first staged row on (R186, R202). -/
def Body.stageBlur (b : Body) (v : ChainEnv) (m n : Nat) : Body :=
  if (chOut v.words).scale = 2 then b.blur (benchBase v.g + (v.bench 7).1) (8 * m * n) else b

/-- A tile of values `xs` through the first `nst` stages of a chain whose input elements are `ins`, to OUT at (r, c): row by row,
then whole under a TILE scale. Answers whether an uncorrectable sector was met, the amax, and the state. -/
def Body.epilogueFrom (b : Body) (fl : Flight) (v : ChainEnv) (o : Opnd) (r c m n nst : Nat) (ins xs : List Nat) (point : Nat) :
    Bool × Nat × Body :=
  let cs := List.range n
  let (ecc, outs, b) := (List.range m).foldl (fun (p : Bool × List Nat × Body) i =>
    let (ys, b) := p.2.2.runStages v i cs ((ins.drop (i * n)).take n) nst 0 ((xs.drop (i * n)).take n)
    let b := b.chainRow v.g
    if (chOut v.words).scale = 2 then (p.1, p.2.1 ++ ys, if i = 0 then b.stageBlur v m n else b)
    else
      let (e, b) := b.outRow fl v o (r + i) c cs ys point
      (p.1 || e, p.2.1 ++ ys, b)) (false, [], b)
  let (ecc, b) :=
    if (chOut v.words).scale = 2 then
      let (e, b) := b.outTile fl v o r c m n outs point
      (ecc || e, b)
    else (ecc, b)
  (ecc, outs.foldl amaxWith 0, b)

/-- A tile of values through a whole chain to OUT at (r, c). -/
def Body.epilogue (b : Body) (fl : Flight) (v : ChainEnv) (o : Opnd) (r c m n : Nat) (vals : List Nat) (point : Nat) :
    Bool × Nat × Body :=
  b.epilogueFrom fl v o r c m n (chOut v.words).nstage vals vals point

end Sys2Proof.Machine
end

