-- ==== Sys2Proof/Machine/Scalar.lean ====
section
/-!
DEFINITION. Scalar registers (R291, R292): S0-S255 of each context, the commands on them, and the waits they end.
-/

namespace Sys2Proof.Machine

/-- A scalar register of a context slot. -/
def Body.sreg (b : Body) (slot r : Nat) : Word := SMap.get b.hm.sregs 0 (slot * 256 + r)

/-- SREG_WAIT's condition; codes 6 and 7 are taken as 5 (R291). -/
def waitHolds (cond : Nat) (x v : Word) : Bool :=
  match cond with
  | 0 => decide (x = v)
  | 1 => decide (x ≠ v)
  | 2 => decide (v.toNat ≤ x.toNat)
  | 3 => decide (x.toNat < v.toNat)
  | 4 => decide (v.toInt ≤ x.toInt)
  | _ => decide (x.toInt < v.toInt)

/-- A waiting SREG_WAIT's condition holds now. -/
def Body.waitMet (b : Body) (fl : Flight) : Bool :=
  waitHolds (fl.cmd.f 1 10 8) (b.sreg fl.slot (fl.cmd.f 1 7 0)) (fl.cmd.w 2)

/-- SREG_WAITs whose condition holds complete (R292). -/
def Body.wakeWaits (b : Body) : Body :=
  let met := b.hm.waits.filter fun p => b.waitMet p.1
  let b := { b with hm.waits := b.hm.waits.filter fun p => !b.waitMet p.1 }
  met.foldl (fun b p => b.done p.1) b

/-- Stores scalar registers without waking waits. -/
def Body.putSregs (b : Body) (slot first : Nat) (vs : List Word) : Body :=
  (List.range vs.length).foldl (fun b i =>
    { b with hm.sregs := SMap.set b.hm.sregs 0 (slot * 256 + first + i) (vs.getD i 0) }) b

/-- Writes scalar registers in one step, and ends the waits whose condition then holds (R291, R292). -/
def Body.setSregs (b : Body) (slot first : Nat) (vs : List Word) : Body := (b.putSregs slot first vs).wakeWaits

/-- SREG_WRITE (R291): COUNT is at most 6, and FIRST + COUNT at most 256. -/
def execSregWrite (c : Cmd) (s : State) : Host.Outcome State Fault Refusal :=
  s.onBody fun b => b.onCmd c 0x08 fun b fl =>
    let first := c.f 1 7 0
    let n0 := c.f 1 10 8 + 1
    let n := min (min 6 n0) (256 - first)
    let b := b.clampCmd fl (if n = n0 then 0 else 1)
    (b.setSregs fl.slot first ((List.range n).map fun i => c.w (2 + i))).done fl

/-- The value an SREG_OP stores (R291). -/
def sregOpVal (op : Nat) (old v cmp : Word) : Word :=
  match op with
  | 0 => old + v
  | 1 => old &&& v
  | 2 => old ||| v
  | 3 => old ^^^ v
  | 4 => if old.toNat < v.toNat then v else old
  | 5 => if v.toNat < old.toNat then v else old
  | 6 => v
  | _ => if old = cmp then v else old

/-- SREG_OP (R291): RESULT is the old value. -/
def execSregOp (c : Cmd) (s : State) : Host.Outcome State Fault Refusal :=
  s.onBody fun b => b.onCmd c 0x09 fun b fl =>
    let r := c.f 1 7 0
    let old := b.sreg fl.slot r
    (b.setSregs fl.slot r [sregOpVal (c.f 1 10 8) old (c.w 2) (c.w 3)]).done fl old.toNat

/-- SREG_WAIT (R292): completes at once, or waits for a write of its register; a nonzero TIMEOUT bounds the wait. -/
def execSregWait (c : Cmd) (s : State) : Host.Outcome State Fault Refusal :=
  s.onBody fun b => b.onCmd c 0x0A fun b fl =>
    let b := b.clampCmd fl (if c.f 1 10 8 > 5 then 1 else 0)
    if b.waitMet fl then b.done fl
    else
      let b := b.start fl
      { b with hm.waits := b.hm.waits ++ [({ fl with started := true }, BitVec.ofNat 64 (1000 * c.f 3 31 0))] }

/-- SREG_WAIT_TIMEOUT (R292): the timeout of the queue's waiting SREG_WAIT has elapsed. -/
def execSregWaitTimeout (wq : Fin 64) (s : State) : Host.Outcome State Fault Refusal :=
  s.onBody fun b =>
    match b.hm.waits.find? fun p => decide (p.1.cmd.wq = wq ∧ p.2 ≠ 0) with
    | some p => ({ b with hm.waits := b.hm.waits.filter fun q => decide (q.1.uid ≠ p.1.uid) }).fail p.1 0x42
    | none => b

/-- The entry a handle names for an access of `n` bytes at an offset by a command that reads or writes module memory in
place; a remote Gangway is no such place (log entry 29). -/
def Body.accessHere (b : Body) (slot h off n : Nat) (write : Bool) : Except Nat Entry :=
  match b.access slot h off n write with
  | .ok e => if e.place = 5 ∨ e.layout = 4 then .error 0x11 else .ok e
  | .error st => .error st

/-- SREG_XFER (R291): copies registers to a buffer (DIR 0) or a buffer into registers (DIR 1), 8 bytes each. -/
def execSregXfer (c : Cmd) (s : State) : Host.Outcome State Fault Refusal :=
  s.onBody fun b => b.onCmd c 0x0B fun b fl =>
    let first := c.f 1 7 0
    let n0 := c.f 1 16 8
    let n := min (max 1 (min 256 n0)) (256 - first)
    let b := b.clampCmd fl (if n = n0 then 0 else 1)
    let dir := c.b 1 17
    let off := 32 * c.f 1 37 18
    match b.accessHere fl.slot (c.h 1) off (8 * n) (!dir) with
    | .error st => b.fail fl st (c.h 1) off
    | .ok e =>
      let a := e.base + off
      let b := b.tierTraffic fl.slot a (8 * n) (!dir) 11
      if dir then
        let (bs, ecc, b) := b.load fl a (8 * n)
        (b.setSregs fl.slot first ((List.range n).map fun i => BitVec.ofNat 64 (ofLe ((bs.drop (8 * i)).take 8)))).doneEcc fl ecc
      else
        (b.store a ((List.range n).flatMap fun i => leBytes 8 (b.sreg fl.slot (first + i)).toNat)).done fl

/-- Records what an operation under a TENSOR scale has found as its amax, for the scalar register that SL15 names (R187). -/
def Body.noteAmax (b : Body) (uid r a : Nat) : Body :=
  { b with hm.flights := b.hm.flights.map fun x =>
      if x.uid = uid then { x with amaxes := SMap.set x.amaxes 0 r (max (a + 1) (SMap.get x.amaxes 0 r)) } else x }

/-- Records that a command has read an uncorrectable sector. -/
def Body.noteEcc (b : Body) (uid : Nat) (ecc : Bool) : Body :=
  if ecc then { b with hm.flights := b.hm.flights.map fun x => if x.uid = uid then { x with ecc := true } else x } else b

/-- The command in flight with a number. -/
def Body.flight (b : Body) (uid : Nat) : Option Flight := b.hm.flights.find? fun x => decide (x.uid = uid)

/-- A command that wrote under TENSOR scales, or read sectors, over several steps completes: its amaxes are written first
(R187), and its status is ECC_UNCORRECTED where it read an uncorrectable sector (R333). -/
def Body.finish (b : Body) (uid : Nat) : Body :=
  match b.flight uid with
  | none => b
  | some fl =>
    let b := fl.amaxes.foldl (fun b p => b.setSregs fl.slot p.1 [BitVec.ofNat 64 (p.2 - 1)]) b
    b.doneEcc fl fl.ecc

end Sys2Proof.Machine
end

