-- ==== Sys2Proof/Machine/Truss.lean ====
section
/-!
DEFINITION. Truss arrays (R58-R89): passes, drains, Rafts, reflow and ramps, as the instructions of a Berth program and the
events of its cells.
-/

namespace Sys2Proof.Machine

/-! ### A Berth's program (R152-R158) -/

/-- The opcode of a tile-dialect instruction: the nearest defined one, a tie to the lower (R5, R62, R153; log entry 31). -/
def berthOpc (w : Word) : Nat :=
  let o := w.fld 63 56
  if o ≤ 0x20 then 0x20
  else if o ≤ 0x23 then o
  else if o ≤ 0x25 then 0x23
  else if o ≤ 0x28 then 0x28
  else min o 0x2E

/-- The bytes of a JY_RUN's program, of at most 2,048 units (R158). -/
def progBytes (fl : Flight) : Nat := 32 * (min 2047 (fl.cmd.f 1 11 0) + 1)

/-- The four words of the tile-dialect instruction at a Berth's program counter. -/
def Body.fetchTile (b : Body) (g : Nat) : List Word :=
  (List.range 4).map fun i => BitVec.ofNat 64 (b.le (storeBase g + (b.berth g).pc + 8 * i) 8)

/-- The partition's dialect is tile. -/
def Body.tileDialect (b : Body) (g : Nat) : Bool := decide (b.getF (.brJyCfg g) Fld.brJyCfgDialect = 0)

/-- The JY_RUN whose sequencer issues this tile-dialect instruction on a Berth: one is running, in the tile dialect, and these
words of this opcode stand at its program counter. -/
def Body.tileRun (b : Body) (g : Nat) (w : List Word) (opc : Nat) : Option Flight :=
  match (b.berth g).run with
  | some uid =>
    if b.tileDialect g ∧ b.fetchTile g = w ∧ berthOpc (w.getD 0 0) = opc then b.flight uid else none
  | none => none

/-- A run has issued a Truss instruction on a Berth (R160). -/
def Body.markTruss (b : Body) (g : Nat) : Body := b.updBerth g fun x => { x with truss := true }

/-- A Berth has work: a program, a drain, or a claim slot's operation (R439). -/
def Body.berthBusy (b : Body) (g : Nat) : Bool :=
  (b.berth g).run.isSome || (b.berth g).due.isSome || (b.berth g).shadow.isSome ||
    b.ops.any fun o => (o.units.any fun u => u.contains g) && o.slots.any fun p => decide (p.1 = g / 20)

/-- Brings a Berth's WORK or IDLE state up to date (R439). -/
def Body.syncWork (b : Body) (g : Nat) : Body :=
  if b.getF (.brPwrStat g) Fld.brPwrStatState < 2 then
    b.setF (.brPwrStat g) Fld.brPwrStatState (if b.berthBusy g then 0 else 1)
  else b

/-- A Berth's part of a run ends: no Joinery state is resident. -/
def Body.stopRun (b : Body) (g : Nat) : Body :=
  let b := b.updBerth g fun x =>
    { x with run := none, pc := 0, loops := [], deep := 0, latch := [], tiles := [], preds := [], dowels := [],
             raftWait := none, truss := false }
  ((b.setF (.brJyStat g) Fld.brJyStatRunning 0).setF (.brJyStat g) Fld.brJyStatStateCtx 0xFFFF).syncWork g

/-- The Berths that run a command's program. -/
def Body.runBerths (b : Body) (uid : Nat) : List Nat :=
  (b.berths.filter fun p => decide (p.2.run = some uid)).map (·.1)

/-- Drains of a command are pending. -/
def Body.drainsOf (b : Body) (uid : Nat) : Bool :=
  b.berths.any fun p => (p.2.due.any fun d => decide (d.uid = uid)) || p.2.shadow.any fun d => decide (d.uid = uid)

/-- A run whose every Berth has ended and whose drains are written completes, with the status of the fault that ended it. -/
def Body.runCheck (b : Body) (uid : Nat) : Body :=
  if b.runBerths uid ≠ [] ∨ b.drainsOf uid then b
  else
    match b.flight uid with
    | some fl => if fl.progress.headD 0 = 0 then b.finish uid else b.retire fl (fl.progress.headD 0) 0 true
    | none => b

/-- The Berth's program has ended. -/
def Body.endRun (b : Body) (g uid : Nat) : Body := (b.stopRun g).runCheck uid

/-- The sequencer goes on at a program counter; past the program's end the run ends (R153). -/
def Body.goTo (b : Body) (g : Nat) (fl : Flight) (pc : Nat) : Body :=
  let b := b.unitDone fl.uid
  if pc ≥ progBytes fl then b.endRun g fl.uid else b.updBerth g fun x => { x with pc := pc }

/-- The sequencer goes on at the next tile-dialect instruction. -/
def Body.nextInstr (b : Body) (g : Nat) (fl : Flight) : Body := b.goTo g fl ((b.berth g).pc + 32)

/-- A fault ends a run on every Berth with a status; drains of earlier passes complete first (R72, R157). -/
def Body.runFaultWith (b : Body) (g : Nat) (fl : Flight) (status code kind unit : Nat) (d : List Nat) : Body :=
  let b := b.raise ⟨b.ts, code, 1, status, fl.cmd.ctx.toNat, fl.cmd.tag.toNat, fl.opc, kind, unit, d⟩
  let b := b.keep fl [status]
  let b := (b.updBerth g fun x => { x with held := none }).setF (.brTrussStat g) Fld.brTrussStatHeld 0
  ((b.runBerths fl.uid).foldl (fun b h => b.stopRun h) b).runCheck fl.uid

/-- A fault with its CMD_FAULT record. -/
def Body.runFault (b : Body) (g : Nat) (fl : Flight) (status h off : Nat) : Body :=
  b.runFaultWith g fl status 0x0104 0 g [h, off]

/-- Ends the second command of a bank conflict (R97), when it is another: a tiled operation stops with the status, and any
other command ends. -/
def Body.secondFault (b : Body) (fl : Flight) (k : Conflict) : Body :=
  match b.hm.flights.find? fun x => decide (x.cmd.tag.toNat = k.tag2 ∧ x.cmd.ctx.toNat = k.ctx2 ∧ x.uid ≠ fl.uid) && x.started with
  | none => b
  | some y =>
    if b.ops.any fun o => decide (o.fl.uid = y.uid) then
      { b with ops := b.ops.map fun o =>
        if o.fl.uid = y.uid then { o with status := if o.status = 0 then 0x10 else o.status, stopping := true } else o }
    else
      let b := (b.runBerths y.uid).foldl (fun b h => b.stopRun h) b
      b.retire y 0x10 0 true

/-- A bank conflict (R97, R98): recorded, and both commands end with BANK_CONFLICT. -/
def Body.conflict (b : Body) (g : Nat) (fl : Flight) (k : Conflict) : Body :=
  let b := { b.conflictRec g k with st.frameCtr := SMap.set b.st.frameCtr 0 (g / 20) k.cycle }
  let d0 := k.bank + k.portX * 64 + k.portY * 256 + 1024 + k.sectorX * 2 ^ 12 + k.sectorY * 2 ^ 32 + k.cycle * 2 ^ 52
  (b.secondFault fl k).runFaultWith g fl 0x10 0x0101 0 g [d0, k.tag2 + k.ctx2 * 65536]

/-! ### Rafts (R75-R79) -/

/-- The Berths of the rectangle of `r` × `c` whose northwest corner is a Berth, row by row. -/
def rectangle (lead r c : Nat) : List Nat :=
  (List.range r).flatMap fun i => (List.range c).map fun j => lead + 5 * i + j

/-- A Berth leads a Raft. -/
def Body.leads (b : Body) (g : Nat) : Bool := b.flag (.brTrussStat g) Fld.brTrussStatRaftLead

/-- The extent of the Raft that a Berth leads. -/
def Body.raftExtent (b : Body) (g : Nat) : Nat × Nat :=
  (b.getF (.brTrussStat g) Fld.brTrussStatRaftRowsM1 + 1, b.getF (.brTrussStat g) Fld.brTrussStatRaftColsM1 + 1)

/-- The Berths of a lead's Raft. -/
def Body.raftMembers (b : Body) (lead : Nat) : List Nat := rectangle lead (b.raftExtent lead).1 (b.raftExtent lead).2

/-- No pass result waits in a Berth's Truss (R75). -/
def Body.trussIdle (b : Body) (g : Nat) : Bool := (b.berth g).due.isNone && (b.berth g).shadow.isNone

/-- A Berth's power state. -/
def Body.pwr (b : Body) (g : Nat) : Nat := b.getF (.brPwrStat g) Fld.brPwrStatState

/-- Held accumulators are discarded without a tally. -/
def Body.dropHeld (b : Body) (g : Nat) : Body :=
  (b.updBerth g fun x => { x with held := none }).setF (.brTrussStat g) Fld.brTrussStatHeld 0

/-- A Raft is dissolved: every member leaves it and its held accumulators are discarded (R75). -/
def Body.dissolveRaft (b : Body) (lead : Nat) : Body :=
  (b.raftMembers lead).foldl (fun b g =>
    let b := (b.dropHeld g).updBerth g fun x => { x with lead := none }
    let r : Reg := .brTrussStat g
    (((b.setF r Fld.brTrussStatRaftMember 0).setF r Fld.brTrussStatRaftLead 0).setF r Fld.brTrussStatRaftRowsM1 0).setF r
      Fld.brTrussStatRaftColsM1 0) b

/-- A Raft is formed of a rectangle. -/
def Body.formRaft (b : Body) (lead r c : Nat) : Body :=
  (rectangle lead r c).foldl (fun b g =>
    let b := (b.dropHeld g).updBerth g fun x => { x with lead := some lead }
    let k : Reg := .brTrussStat g
    (((b.setF k Fld.brTrussStatRaftMember 1).setF k Fld.brTrussStatRaftLead (if g = lead then 1 else 0)).setF k
      Fld.brTrussStatRaftRowsM1 (r - 1)).setF k Fld.brTrussStatRaftColsM1 (c - 1)) b

/-- The leads of Rafts that share a Berth with a set. -/
def Body.leadsMeeting (b : Body) (gs : List Nat) : List Nat := (gs.filterMap fun g => (b.berth g).lead).dedup

/-- Every Berth of a rectangle, and of the Rafts it meets, is gated or idle with no drain pending, in WORK or IDLE (R75). -/
def Body.raftReady (b : Body) (gs : List Nat) : Bool :=
  (gs ++ (b.leadsMeeting gs).flatMap fun l => b.raftMembers l).all fun g => b.trussIdle g && decide (b.pwr g < 2)

/-- Dissolves what a rectangle meets and, above 1 × 1, forms it (R66, R75). -/
def Body.raftNow (b : Body) (lead r c : Nat) : Body :=
  let gs := rectangle lead r c
  let b := (b.leadsMeeting gs).foldl (fun b l => b.dissolveRaft l) b
  if r * c > 1 then b.formRaft lead r c else b

/-- A rectangle's rows and columns clamped to the grid, and the fields clamped (R66, R129). -/
def fitGrid (lead r c : Nat) : Nat × Nat × Nat :=
  let x := lead % 20
  let r' := min r (4 - x / 5)
  let c' := min c (5 - x % 5)
  (r', c', (if r' = r then 0 else 1) + (if c' = c then 0 else 1))

/-- TRAFT (R66, R75, R76): waits for RAFT_FORM; a member that does not lead is ignored and counted. -/
def execTraft (g : Fin 200) (w : List Word) (s : State) : Host.Outcome State Fault Refusal :=
  s.onBody fun b =>
    match b.tileRun g w 0x22 with
    | none => b
    | some fl =>
      let b := b.markTruss g
      let x := w.getD 0 0
      let mine := b.leads g
      if (b.berth g).lead.isSome ∧ ¬ mine then (b.clampCmd fl 1).nextInstr g fl
      else if (b.berth g).raftWait.isSome then b
      else if x.bit 55 then
        if mine then b.updBerth g fun y => { y with raftWait := some (0, 0) } else b.nextInstr g fl
      else
        let c0 := min 5 (x.fld 52 50 + 1)
        let (r, c, _) := fitGrid g (x.fld 54 53 + 1) c0
        let b := b.clampCmd fl (diff r (x.fld 54 53 + 1) + diff c (x.fld 52 50 + 1))
        if r * c = 1 then
          if mine then b.updBerth g fun y => { y with raftWait := some (0, 0) } else b.nextInstr g fl
        else b.updBerth g fun y => { y with raftWait := some (r, c) }

/-- RAFT_FORM (R75): the conditions of a waiting TRAFT are met, so it forms or dissolves its Raft. -/
def execRaftForm (g : Fin 200) (s : State) : Host.Outcome State Fault Refusal :=
  s.onBody fun b =>
    match (b.berth g).raftWait, (b.berth g).run with
    | some (r, c), some uid =>
      match b.flight uid with
      | some fl =>
        let gs := if r = 0 then b.raftMembers g else rectangle g r c
        if b.raftReady gs then
          let b := if r = 0 then b.dissolveRaft g else b.raftNow g r c
          (b.updBerth g fun y => { y with raftWait := none }).nextInstr g fl
        else b
      | none => b
    | _, _ => b

/-! ### Ramps (R82-R84) -/

/-- The column groups of a full ramp: 2^STEPS_LOG2. -/
def Body.rampSteps (b : Body) (g : Nat) : Nat := 2 ^ b.getF (.brRampCtl g) Fld.brRampCtlStepsLog2

/-- Column groups now enabled. -/
def Body.rampStep (b : Body) (g : Nat) : Nat := b.getF (.brTrussStat g) Fld.brTrussStatRampStep

/-- No ramp of the Quay has started within STAGGER ACLK (R84). -/
def Body.staggerOk (b : Body) (g : Nat) : Bool :=
  let st := b.getF (.qyStagger (g / 20)) Fld.qyStaggerStagger
  let mhz := b.getF (.wtQuayClk (g / 20)) Fld.wtQuayClkAclk
  b.berths.all fun p => decide (p.1 / 20 ≠ g / 20 ∨ p.1 = g ∨ p.2.rampAt = 0 ∨ (b.now - p.2.rampAt.toNat) * mhz ≥ st * 1000)

/-- A ramp starts, or a ramp-down is reversed: its first step, or the step reached, and one more ramp counted (R82). -/
def Body.startRamp (b : Body) (g : Nat) : Body :=
  if b.staggerOk g then
    let b := b.updBerth g fun x => { x with down := false, rampAt := b.ts }
    let b := (b.setF (.brTrussStat g) Fld.brTrussStatGated 0).setF (.brTrussStat g) Fld.brTrussStatRampStep (max 1 (b.rampStep g))
    b.bump (.brTrussBusy g) Fld.brTrussBusyRamps 1
  else b

/-- Every column group is enabled and no ramp-down runs. -/
def Body.rampDone (b : Body) (g : Nat) : Bool :=
  !b.flag (.brTrussStat g) Fld.brTrussStatGated && !(b.berth g).down && decide (b.rampStep g ≥ b.rampSteps g)

/-- Every member's ramp is started; where all run, none is started (R84). -/
def Body.rampAll (b : Body) (gs : List Nat) : Body :=
  gs.foldl (fun b g => if b.flag (.brTrussStat g) Fld.brTrussStatGated ∨ (b.berth g).down then b.startRamp g else b) b

/-- RAMP_STEP (R82): one column group more, or one less in a ramp-down, which ends gated. -/
def execRampStep (g : Fin 200) (s : State) : Host.Outcome State Fault Refusal :=
  s.onBody fun b =>
    let k := b.rampStep g
    let r : Reg := .brTrussStat g
    if (b.berth g).down then
      let b := b.setF r Fld.brTrussStatRampStep (k - 1)
      if k ≤ 1 then (b.setF r Fld.brTrussStatGated 1).updBerth g fun x => { x with down := false } else b
    else if ¬ b.flag r Fld.brTrussStatGated ∧ k < b.rampSteps g then b.setF r Fld.brTrussStatRampStep (k + 1)
    else b

/-- TRUSS_GATING (R82): after GATE_IDLE idle ACLK the Truss is gated, down a ramp where RAMP_DOWN is 1. -/
def execTrussGating (g : Fin 200) (s : State) : Host.Outcome State Fault Refusal :=
  s.onBody fun b =>
    let r : Reg := .brTrussStat g
    if ¬ b.trussIdle g ∨ b.flag r Fld.brTrussStatGated then b
    else if b.flag (.brRampCtl g) Fld.brRampCtlRampDown ∧ b.rampStep g > 0 then b.updBerth g fun x => { x with down := true }
    else (b.setF r Fld.brTrussStatGated 1).setF r Fld.brTrussStatRampStep 0

/-! ### Passes (R63-R65, R72-R74, R78-R80) -/

/-- Rows and columns of a shape (R120). -/
def shapeExtent (shape : Nat) : Nat × Nat :=
  match shape with
  | 1 => (64, 1024)
  | 2 => (16, 4096)
  | _ => (256, 256)

/-- The fields of a TPASS after clamps (R64). -/
structure Pass where
  drop : Bool
  drain : Bool
  acc : Nat
  shape : Nat
  raft : Bool
  k : Nat
  n : Nat
  m : Nat
  chain : Nat
  clamped : Nat
deriving DecidableEq, Repr

/-- The fields of a TPASS for a Berth that leads a Raft of an extent, or none (R41, R64). -/
def passOf (w : Word) (raft : Option (Nat × Nat)) : Pass :=
  let acc := min 2 (w.fld 53 52)
  let sh0 := min 2 (w.fld 51 50)
  let rf := raft.isSome
  let shape := if rf then 0 else sh0
  let (em, en) := match raft with
    | some (r, c) => (256 * r, 256 * c)
    | none => shapeExtent shape
  let k0 := w.fld 47 32 + 1
  let dr := w.bit 54
  let k := if dr then k0 else max 32 (k0 / 32 * 32)
  let m := min em (w.fld 19 10 + 1)
  let n := min en (w.fld 31 20 + 1)
  { drop := w.bit 55, drain := dr, acc := acc, shape := shape, raft := rf, k := k, n := n, m := m, chain := w.fld 9 4,
    clamped := diff acc (w.fld 53 52) + (if w.fld 51 50 = 3 then 1 else 0) + (if rf ∧ sh0 ≠ 0 then 1 else 0) +
      (if rf = w.bit 49 then 0 else 1) + diff k k0 + diff m (w.fld 19 10 + 1) + diff n (w.fld 31 20 + 1) }

/-- An entry as a Raft member reads it: the same offsets within the member's own Hold (R78). -/
def memberEntry (e : Entry) (lead g : Nat) : Entry :=
  let d := holdAddr g 0
  let sb := if holdAddr lead 0 ≤ e.scaleBase ∧ e.scaleBase < holdAddr lead 0 + 0x2000000 then
    e.scaleBase - holdAddr lead 0 + d else e.scaleBase
  { e with base := e.base - holdAddr lead 0 + d, scaleBase := sb }

/-- An entry lies in a Berth's own Hold (R110). -/
def inOwnHold (e : Entry) (g : Nat) : Bool :=
  decide (e.place = 0 ∧ holdAddr g 0 ≤ e.base ∧ e.base < holdAddr g 0 + 0x2000000)

/-- Resolves a handle for a Truss stream or a Joinery access of a Berth, with its permission (R110). -/
def Body.ownEntry (b : Body) (slot g h : Nat) (write : Bool) : Except Nat Entry :=
  match b.resolve slot h with
  | none => .error 0x12
  | some e =>
    if ¬ inOwnHold e g ∨ e.layout = 4 ∨ ¬ (if write then e.wr else e.rd) then .error 0x11 else .ok e

/-- Scale of an operand at the drain: its TENSOR factor (R39, R40). -/
def tensorOf (e : Entry) : Option Nat := if e.sk = 1 then some e.scaleF32 else none

/-- The parts (member, first row, first column, rows, columns) of an m × n tile on a Raft of a lead, or on one Berth. -/
def tileParts (lead cols m n : Nat) (raft : Bool) : List (Nat × Nat × Nat × Nat × Nat) :=
  if raft then
    (List.range (ceilDiv m 256)).flatMap fun i => (List.range (ceilDiv n 256)).map fun j =>
      (lead + 5 * i + j % max 1 cols, 256 * i, 256 * j, min 256 (m - 256 * i), min 256 (n - 256 * j))
  else [(lead, 0, 0, m, n)]

/-- The values of a part of a tile, row-major. -/
def partVals (vals : List Nat) (n : Nat) (p : Nat × Nat × Nat × Nat × Nat) : List Nat :=
  (List.range p.2.2.2.1).flatMap fun r => (vals.drop ((p.2.1 + r) * n + p.2.2.1)).take p.2.2.2.2

/-- What a pass reads and writes, resolved, or the failure status, handle and offset. -/
structure PassOps where
  a : Opnd
  b : Opnd
  out : Option Opnd
deriving DecidableEq, Repr

/-- Resolves a TPASS's operands with the checks of R64, R96, R110, R185. -/
def Body.passOps (b : Body) (fl : Flight) (g : Nat) (p : Pass) (w : List Word) : Except (Nat × Nat × Nat) PassOps :=
  let x (i : Nat) : Word := w.getD i 0
  let h (i : Nat) : Nat := (x i).fld 63 38
  let off (i : Nat) : Nat := (x i).fld 37 18
  match b.ownEntry fl.slot g (h 1) false with
  | .error st => .error (st, h 1, off 1)
  | .ok ea =>
    match b.ownEntry fl.slot g (h 2) false with
    | .error st => .error (st, h 2, off 2)
    | .ok eb =>
      if ea.fmt ≥ 11 then .error (0x11, h 1, off 1)
      else if eb.fmt ≥ 11 then .error (0x11, h 2, off 2)
      else
        match opndStream ea false (off 1), opndStream eb true (off 2) with
        | some oa, some ob =>
          if ¬ p.drain ∧ p.acc ≠ 2 then .ok ⟨oa, ob, none⟩
          else
            match b.ownEntry fl.slot g (h 3) p.drain with
            | .error st => .error (st, h 3, off 3)
            | .ok eo =>
              let v := epiEnv fl p.chain g
              if p.drain ∧ ¬ b.chainJigsOk v then .error (0x12, h 3, off 3)
              else if p.drain ∧ ¬ (outMatches (chOut v.words) eo ∧ v.benchOk (min 256 p.m) p.n) then .error (0x11, h 3, off 3)
              else if p.acc = 2 ∧ ¬ eo.rd then .error (0x11, h 3, off 3)
              else
                match opndOwn eo (off 3) with
                | some oo => .ok ⟨oa, ob, some oo⟩
                | none => .error (0x11, h 3, off 3)
        | none, _ => .error (0x11, h 1, off 1)
        | _, none => .error (0x11, h 2, off 2)

/-- The operand of a Raft member. -/
def memberOpnd (o : Opnd) (lead g : Nat) : Opnd := { o with e := memberEntry o.e lead g }

/-- The first part of a pass whose bytes may not be accessed, as the member that faults (R64, R78, R79). -/
def Body.passBad (b : Body) (g cols : Nat) (p : Pass) (o : PassOps) : Option Nat :=
  (tileParts g cols p.m p.n p.raft).findSome? fun t =>
    let oa := memberOpnd o.a g t.1
    let ob := memberOpnd o.b g t.1
    let okA := decide (t.2.2.1 ≠ 0) || b.blockMay oa t.2.2.2.1 p.k false
    let okB := decide (t.2.1 ≠ 0) || b.blockMay ob p.k t.2.2.2.2 false
    let okO := match o.out with
      | some oo => (!p.drain || b.blockMay (memberOpnd oo g t.1) t.2.2.2.1 t.2.2.2.2 true) &&
          (decide (p.acc ≠ 2) || b.blockMay (memberOpnd oo g t.1) t.2.2.2.1 t.2.2.2.2 false)
      | none => true
    if okA && okB && okO then none else some t.1

/-- The rows of A, or the columns of B, of a pass over its Raft or Berth, as chunk rows. -/
def Body.passStreams (b : Body) (g : Nat) (p : Pass) (o : PassOps) : List (List KRow) × List (List KRow) :=
  ((List.range p.m).map fun r =>
      if p.raft then b.streamRow (memberOpnd o.a g (g + 5 * (r / 256))) false (r % 256) 0 p.k else b.streamRow o.a false r 0 p.k,
    (List.range p.n).map fun c =>
      if p.raft then b.streamRow (memberOpnd o.b g (g + c / 256)) true (c % 256) 0 p.k else b.streamRow o.b true c 0 p.k)

/-- The C values of a LOAD_C pass, row-major (R70, R78). -/
def Body.passC (b : Body) (g : Nat) (p : Pass) (oo : Opnd) : List Nat :=
  (List.range p.m).flatMap fun r => (List.range p.n).map fun c =>
    if p.raft then b.elemF32 (memberOpnd oo g (g + 5 * (r / 256) + c / 256)) (r % 256) (c % 256) else b.elemF32 oo r c

/-- The held accumulators a CONT pass goes on from: those of the same geometry (R64). -/
def heldFor (h : Option Held) (p : Pass) : Option Held :=
  h.bind fun x => if x.shape = p.shape ∧ x.m = p.m ∧ x.n = p.n ∧ x.raft = p.raft then some x else none

/-- ACLK of a pass in which K rows enter: two rows an ACLK where P is ½ (R68, R89). -/
def issueAclk (p : Pass) (o : PassOps) : Nat :=
  let wa := if p.shape = 0 then 256 else 64
  let wb := if p.shape = 0 then 256 else 512
  let m := if p.raft then min 256 p.m else p.m
  let n := if p.raft then min 256 p.n else p.n
  if o.a.e.fmt = 6 ∧ o.b.e.fmt = 6 ∧ m ≤ wa ∧ n ≤ wb then ceilDiv p.k 2 else p.k

/-- Brings a Truss's HELD and DRAINING bits up to date. -/
def Body.syncTruss (b : Body) (g : Nat) : Body :=
  let b := b.setF (.brTrussStat g) Fld.brTrussStatDraining (if b.trussIdle g then 0 else 1)
  b.syncWork g

/-- The accumulators of a pass stay in the cells, or each member's part is due to swap (R58, R72). -/
def Body.passEnd (b : Body) (fl : Flight) (g cols : Nat) (p : Pass) (out : Option Opnd) (sa sb : Option Nat) (acc : List Nat) : Body :=
  let ms := if p.raft then b.raftMembers g else [g]
  if p.drain then
    let b := ms.foldl (fun b x => b.dropHeld x) b
    (tileParts g cols p.m p.n p.raft).foldl (fun b t =>
      let vals := partVals (acc.map fun x => drainVal x sa sb) p.n t
      match out with
      | some oo =>
        let om := memberOpnd oo g t.1
        let d : Drain := { uid := fl.uid, slot := fl.slot, shape := p.shape, m := t.2.2.2.1, n := t.2.2.2.2, bank := fl.bank,
                           chain := fl.chain p.chain, sregs := fl.sregs, out := om.e, r0 := om.r0, c0 := om.c0, vals := vals }
        (b.updBerth t.1 fun x => { x with due := some d }).syncTruss t.1
      | none => b) b
  else
    let b := b.updBerth g fun x => { x with held := some ⟨p.shape, p.m, p.n, p.raft, acc, sa, sb⟩ }
    ms.foldl (fun b x => b.setF (.brTrussStat x) Fld.brTrussStatHeld 1) b

/-- The Berths of a pass. -/
def Body.passBerths (b : Body) (g : Nat) : List Nat := if b.leads g then b.raftMembers g else [g]

/-- Whether a TPASS or TDRAIN may issue now: not from a member that does not lead (R76), no swap of an earlier pass due, and
the ramp ended. -/
def Body.passReady (b : Body) (g : Nat) : Bool :=
  ((b.berth g).lead.isNone || b.leads g) && ((b.passBerths g).all fun x => (b.berth x).due.isNone) && b.rampDone g

/-- A pass's effect, once it may issue. -/
def Body.runPass (b : Body) (fl : Flight) (g : Nat) (w : List Word) (conf : Option Conflict) : Body :=
  let lead := b.leads g
  let p := passOf (w.getD 0 0) (if lead then some (b.raftExtent g) else none)
  let cols := if lead then (b.raftExtent g).2 else 1
  let b := b.clampCmd fl (p.clamped + (if p.drain then rowStages (fl.chain p.chain) else 0))
  match b.passOps fl g p w with
  | .error (st, h, off) => b.runFault g fl st h (32 * off)
  | .ok o =>
    match b.passBad g cols p o with
    | some x => if p.raft then b.runFaultWith g fl 0x11 0x0103 0 g [x] else b.runFault g fl 0x11 ((w.getD 1 0).fld 63 38) 0
    | none =>
      match conf with
      | some k => b.conflict g fl k
      | none =>
        let held := (b.berth g).held
        let b := b.clampCmd fl (if p.acc = 1 ∧ held.isSome ∧ (heldFor held p).isNone then 1 else 0)
        let acc0 := match p.acc, o.out with
          | 1, _ => ((heldFor held p).map (·.acc)).getD []
          | 2, some oo => b.passC g p oo
          | _, _ => []
        let (as, bs) := b.passStreams g p o
        let acc := tileAcc p.drop as bs acc0
        let ms := b.passBerths g
        let b := b.rampAll ms
        let b := if p.drain ∧ chainUsesBench (fl.chain p.chain) then ms.foldl (fun b x => b.benchTake x fl.cmd.ctx.toNat) b else b
        let b := ms.foldl (fun b x =>
          let b := b.setF (.brTrussStat x) Fld.brTrussStatShape p.shape
          (b.bump (.brTrussBusy x) Fld.brTrussBusyIssue (issueAclk p o)).updBerth x fun y => { y with geom := (p.shape, p.m, p.n) }) b
        let b := b.count fl.slot 2 p.k
        (b.passEnd fl g cols p o.out (tensorOf o.a.e) (tensorOf o.b.e) acc).nextInstr g fl

/-- TPASS (R63, R64, R72): one matrix pass. A gated Truss ramps first; a LOAD_C pass waits for an empty shadow bank. -/
def execTpass (g : Fin 200) (w : List Word) (conflict : Option Conflict) (s : State) : Host.Outcome State Fault Refusal :=
  s.onBody fun b =>
    match b.tileRun g w 0x20 with
    | none => b
    | some fl =>
      let b := b.markTruss g
      if ¬ b.passReady g then
        if (b.berth g).lead.isNone ∨ b.leads g then b.rampAll (b.passBerths g) else b
      else if min 2 ((w.getD 0 0).fld 53 52) = 2 ∧ ¬ (b.passBerths g).all b.trussIdle then b
      else b.runPass fl g w conflict

/-- TDRAIN (R65): swaps and drains the accumulators, +0 values where none are held (log entry 32 for their extent). -/
def execTdrain (g : Fin 200) (w : List Word) (s : State) : Host.Outcome State Fault Refusal :=
  s.onBody fun b =>
    match b.tileRun g w 0x21 with
    | none => b
    | some fl =>
      let b := b.markTruss g
      if ¬ b.passReady g then
        if (b.berth g).lead.isNone ∨ b.leads g then b.rampAll (b.passBerths g) else b
      else
        let lead := b.leads g
        let (sh, m, n) := match (b.berth g).held with
          | some x => (x.shape, x.m, x.n)
          | none => (b.berth g).geom
        let acc := match (b.berth g).held with
          | some x => x.acc
          | none => List.replicate (m * n) 0
        let chain := (w.getD 0 0).fld 9 4
        let h := (w.getD 3 0).fld 63 38
        let off := (w.getD 3 0).fld 37 18
        let p : Pass := { drop := false, drain := true, acc := 0, shape := sh, raft := lead, k := 0, n := n, m := m,
                          chain := chain, clamped := 0 }
        let v := epiEnv fl chain g
        match b.ownEntry fl.slot g h true with
        | .error st => b.runFault g fl st h (32 * off)
        | .ok eo =>
          if ¬ b.chainJigsOk v then b.runFault g fl 0x12 h (32 * off)
          else
            match opndOwn eo off with
            | none => b.runFault g fl 0x11 h (32 * off)
            | some oo =>
              let cols := if lead then (b.raftExtent g).2 else 1
              let ok := (tileParts g cols m n lead).all fun t => b.blockMay (memberOpnd oo g t.1) t.2.2.2.1 t.2.2.2.2 true
              if ok ∧ outMatches (chOut v.words) eo ∧ v.benchOk (min 256 m) n then
                let b := b.clampCmd fl (rowStages v.words)
                let b := if chainUsesBench v.words then (b.passBerths g).foldl (fun b x => b.benchTake x fl.cmd.ctx.toNat) b else b
                let h := (b.berth g).held
                (b.passEnd fl g cols p (some oo) (h.bind (·.sa)) (h.bind (·.sb)) acc).nextInstr g fl
              else b.runFault g fl 0x11 h (32 * off)

/-- TFENCE (R62): waits until every earlier drain has been written. -/
def execTfence (g : Fin 200) (w : List Word) (s : State) : Host.Outcome State Fault Refusal :=
  s.onBody fun b =>
    match b.tileRun g w 0x23 with
    | none => b
    | some fl =>
      let b := b.markTruss g
      if (b.passBerths g).all b.trussIdle then b.nextInstr g fl else b

/-- SWAP (R58, R60): the tile due to swap moves into the shadow bank; while the bank is not read out, the array holds. -/
def execSwap (g : Fin 200) (s : State) : Host.Outcome State Fault Refusal :=
  s.onBody fun b =>
    match (b.berth g).due with
    | none => b
    | some d =>
      if (b.berth g).shadow.isSome then b.bump (.brTrussStall g) Fld.brTrussStallShadow 1
      else (b.updBerth g fun x => { x with due := none, shadow := some d }).syncTruss g

/-- The logical row of physical shadow row `i`, its first column, and how many unmasked columns it has (R59, R73, R80). -/
def shadowRow (d : Drain) (i : Nat) : Nat × Nat × Nat :=
  let s := (shapeExtent d.shape).1
  let r := i % s
  let c := 256 * (i / s)
  (r, c, if r < d.m then min 256 (d.n - c) else 0)

/-- One shadow row through its epilogue: its unmasked values are stored, or staged under a TILE scale. -/
def Body.drainRow (b : Body) (g : Nat) (d : Drain) (fl : Flight) : Body :=
  let (r, c, n) := shadowRow d d.next
  let last := decide (d.next = 255)
  let v : ChainEnv := { words := d.chain, sregs := d.sregs, slot := d.slot, g := g, bank := d.bank, rip := [4 * g, 4 * g + 1] }
  let o : Opnd := ⟨d.out, ownLay d.out, d.out.axis, d.r0, d.c0, none⟩
  let co := chOut d.chain
  let cs := (List.range n).map (c + ·)
  let (ys, b) := if n = 0 then ([], b) else b.chainRowVals v r cs ((d.vals.drop (r * d.n + c)).take n)
  let am := ys.foldl amaxWith d.amax
  let (ecc, b) :=
    if n = 0 ∨ co.scale = 2 then (false, if d.next = 0 then b.stageBlur v d.m d.n else b)
    else b.outRow fl v o r c cs ys (g / 20)
  let staged := if co.scale = 2 ∧ n ≠ 0 then
    (List.range ys.length).foldl (fun l i => l.set (r * d.n + c + i) (ys.getD i 0))
      (if d.staged = [] then List.replicate (d.m * d.n) 0 else d.staged) else d.staged
  let b := b.noteEcc fl.uid ecc
  if last then
    let (e, b) := if co.scale = 2 then b.outTile fl v o 0 0 d.m d.n staged (g / 20) else (false, b)
    let b := b.noteEcc fl.uid e
    let b := if co.scale = 3 then
      (b.clampCmd fl (tensorS d.out).2).noteAmax fl.uid ((chW d.chain 15).fld 63 56) am else b
    ((b.updBerth g fun x => { x with shadow := none }).syncTruss g).runCheck fl.uid
  else b.updBerth g fun x => { x with shadow := some { d with next := d.next + 1, staged := staged, amax := am } }

/-- DRAIN_ROW (R59, R61): the next shadow row is read out into its epilogue. -/
def execDrainRow (g : Fin 200) (s : State) : Host.Outcome State Fault Refusal :=
  s.onBody fun b =>
    match (b.berth g).shadow with
    | none => b
    | some d =>
      match b.flight d.uid with
      | none => (b.updBerth g fun x => { x with shadow := none }).syncTruss g
      | some fl => b.drainRow g d fl

end Sys2Proof.Machine
end

