-- ==== Sys2Proof/Machine/Records.lean ====
section
/-!
DEFINITION. The Joinery records of a save area (R161, R162, R305): what a pre-empted run writes of each Berth, and what its restore
reads.
-/

namespace Sys2Proof.Machine

/-- Bytes of a place for a Joinery record (R305). -/
def recordSize : Nat := 164032

/-- The address of record 20j + b of a save area (R305). -/
def recordAt (save i : Nat) : Nat := save + 0x33800 + recordSize * i

/-- The number of the record of a Berth: rank of its Quay in the partition, and Berth (R305). -/
def Body.recordIndex (b : Body) (slot g : Nat) : Nat := 20 * (b.quaysOfSlot slot).idxOf (g / 20) + g % 20

/-- The Berth that record `i` restores on: Berth b of the partition's Quay of rank j, none where there is no such Quay (R306). -/
def Body.recordBerth (b : Body) (slot i : Nat) : Option Nat := ((b.quaysOfSlot slot)[i / 20]?).map fun q => 20 * q + i % 20

/-! ### Loops (R153) -/

/-- The loops open at a program counter, innermost first, and those ignored as nested too deep: one instruction more (R153). -/
def loopStep (w : Word) (pc : Nat) (x : List Nat × Nat) : List Nat × Nat :=
  if berthOpc w ≠ 0x2E then x
  else
    match min 3 (w.fld 55 50) with
    | 1 => if x.1.length ≥ 4 then (x.1, x.2 + 1) else ((pc + 32) :: x.1, x.2)
    | 2 => if x.2 > 0 then (x.1, x.2 - 1) else (x.1.tail, 0)
    | _ => x

/-- The loops open after `n` instructions from a program counter of a Berth's store. A tile-dialect program has no branch, so where
each loop starts follows from the program. -/
def Body.loopScan (b : Body) (g : Nat) : Nat → Nat → List Nat × Nat → List Nat × Nat
  | 0, _, x => x
  | n + 1, pc, x => Body.loopScan b g n (pc + 32) (loopStep (BitVec.ofNat 64 (b.le (storeBase g + pc) 8)) pc x)

/-- Where a tile-dialect program is entered, from word 3 of its JY_RUN (R158). -/
def tileEntry (c : Cmd) : Nat := c.f 3 31 0 / 32 * 32

/-! ### Writing (R161) -/

/-- FP32 words as little-endian bytes. -/
def f32Bytes (l : List Nat) : List Byte := l.flatMap fun x => leBytes 4 x

/-- A Dowel's 2,560 bytes. -/
def dowelBytes (d : Dowel) : List Byte :=
  ((List.range 32).flatMap fun i => leBytes 8 (SMap.get d.x 0 i).toNat) ++
    ((List.range 16).flatMap fun i => f32Bytes (padTo32 (SMap.get d.v (List.replicate 32 0) i))) ++
    ((List.range 4).flatMap fun i => leBytes 4 (d.m.getD i 0)) ++ leBytes 8 d.pc ++
    leBytes 8 ((if d.ended then 1 else 0) + (if d.bar then 2 else 0)) ++ List.replicate 224 0
where
  /-- Exactly 32 elements. -/
  padTo32 (l : List Nat) : List Nat := (l ++ List.replicate 32 0).take 32

/-- The record of the run on a Berth. -/
def Body.recordBytes (b : Body) (g : Nat) : List Byte :=
  let x := b.berth g
  let tile := b.tileDialect g
  let width := b.getF (.brJyCfg g) Fld.brJyCfgWidth
  let counts := (x.loops.reverse.map fun p => p.2) ++ [0, 0, 0, 0]
  leBytes 8 ((if tile then 0 else 1) + 256 + width * 65536) ++ leBytes 8 (if tile then x.pc else 0) ++
    ((List.range 4).flatMap fun i => leBytes 8 (if tile then counts.getD i 0 else 0)) ++ leBytes 8 g ++ leBytes 8 0 ++
    ((List.range 16).flatMap fun i => leBytes 8 (x.latch.getD i 0).toNat) ++
    (if tile then
      ((List.range 32).flatMap fun t => f32Bytes (SMap.get x.tiles (List.replicate 1024 0) t)) ++
        ((List.range 8).flatMap fun p => leBytes 128 (SMap.get x.preds (2 ^ 1024 - 1) p))
    else (List.range 64).flatMap fun d => dowelBytes (SMap.get x.dowels {} d))

/-- Writes the records of a command's Berths to its context's save area, and stops the run there. -/
def Body.saveRun (b : Body) (fl : Flight) (gs : List Nat) : Body :=
  gs.foldl (fun b g =>
    let a := recordAt (b.info fl.slot).saveBase (b.recordIndex fl.slot g)
    let d := b.recordBytes g
    (b.store a (d ++ List.replicate (recordSize - d.length) 0)).stopRun g) b

/-! ### Reading (R162) -/

/-- A list as a sparse map, from key 0. -/
def asMap {α : Type} [DecidableEq α] (d : α) (l : List α) : SMap α :=
  (List.range l.length).foldl (fun m i => SMap.set m d i (l.getD i d)) []

/-- `n` numbers of `k` bytes at an address. -/
def Body.numbers (b : Body) (a k n : Nat) : List Nat := (List.range n).map fun i => b.le (a + k * i) k

/-- A Dowel from its bytes. -/
def Body.readDowel (b : Body) (a : Nat) : Dowel :=
  { x := asMap 0 ((b.numbers a 8 32).map (BitVec.ofNat 64)),
    v := asMap (List.replicate 32 0) ((List.range 16).map fun i => b.numbers (a + 256 + 128 * i) 4 32),
    m := b.numbers (a + 2304) 4 4, pc := b.le (a + 2320) 8,
    ended := (b.le (a + 2328) 8).testBit 0, bar := (b.le (a + 2328) 8).testBit 1 }

/-- Restores a run on a Berth from a record, once its store holds the program (R162). -/
def Body.restoreBerth (b : Body) (fl : Flight) (a g : Nat) : Body :=
  let tile := decide ((b.byte a).toNat % 4 = 0)
  let pc := if tile then b.le (a + 8) 8 else 0
  let (starts, deep) := if tile then b.loopScan g ((pc - tileEntry fl.cmd) / 32) (tileEntry fl.cmd) ([], 0) else ([], 0)
  let counts := (b.numbers (a + 16) 8 starts.length).reverse
  let latch := (b.numbers (a + 64) 8 16).map (BitVec.ofNat 64)
  let tiles := if tile then asMap (List.replicate 1024 0) ((List.range 32).map fun t => b.numbers (a + 192 + 4096 * t) 4 1024) else []
  let preds := if tile then asMap (2 ^ 1024 - 1) ((List.range 8).map fun p => b.le (a + 131264 + 128 * p) 128) else []
  let dowels := if tile then [] else asMap {} ((List.range 64).map fun d => b.readDowel (a + 192 + 2560 * d))
  let b := b.updBerth g fun x => { x with
    run := some fl.uid, pc := pc, loops := starts.zip counts, deep := deep, latch := latch, tiles := tiles, preds := preds,
    dowels := dowels, raftWait := none }
  ((b.setF (.brJyStat g) Fld.brJyStatRunning 1).setF (.brJyStat g) Fld.brJyStatStateCtx fl.cmd.ctx.toNat).syncWork g

end Sys2Proof.Machine
end

