-- ==== Sys2Proof/Machine/Joinery.lean ====
section
/-!
DEFINITION. The Joinery (R136-R163): JY_RUN, and the instructions of the tile dialect.
-/

namespace Sys2Proof.Machine

/-! ### Taking part -/

/-- The Quays that a QUAYS field names, when it names some and all are of the context's partition. -/
def Body.takePart (b : Body) (slot mask : Nat) : Option (List Nat) :=
  let qs := (List.range 10).filter fun q => mask.testBit q
  if qs ≠ [] ∧ qs.all (fun q => decide (q ∈ b.quaysOfSlot slot)) then some qs else none

/-- The Berths that QUAYS and BERTH_MASK name. -/
def berthsOf (qs : List Nat) (mask : Nat) : List Nat :=
  qs.flatMap fun q => ((List.range 20).filter fun i => mask.testBit i).map (20 * q + ·)

/-- A Berth in MOOR or LAYUP is asked to wake (R121, R439). -/
def Body.askWake (b : Body) (g : Nat) : Body :=
  if b.pwr g < 2 then b
  else { b with power.berths := SMap.upd b.power.berths {} g fun x => { x with target := some 1 } }

/-! ### JY_RUN (R158) -/

/-- The scalars that words 4 and 5 of a JY_RUN list, as its dispatch copied them. -/
def latchOf (fl : Flight) : List Word :=
  (List.range 16).map fun i =>
    SMap.get fl.sregs 0 (fl.slot * 256 + (fl.cmd.w (4 + i / 8)).fld (8 * (i % 8) + 7) (8 * (i % 8)))

/-- The handles HD0-HD3. -/
def hdOf (c : Cmd) (i : Nat) : Nat := (c.w (6 + i / 2)).fld (32 * (i % 2) + 25) (32 * (i % 2))

/-- A Dowel at the start of a run (R155). -/
def dowelStart (fl : Flight) (g d entry : Nat) : Dowel :=
  let xs : List Word := [BitVec.ofNat 64 d, BitVec.ofNat 64 g] ++ latchOf fl
  { x := (List.range xs.length).foldl (fun m i => SMap.set m 0 (1 + i) (xs.getD i 0)) [], pc := entry }

/-- A Berth's store holds the program: it loads it unless it holds the same handle, generation, offset and length (R158). -/
def Body.loadProg (b : Body) (fl : Flight) (prog : Entry) (g : Nat) : Body :=
  let off := 32 * fl.cmd.f 1 37 18
  let key := [fl.slot, fl.cmd.h 1, off, progBytes fl]
  if (b.berth g).prog = some key then b
  else
    let b := b.tierTraffic fl.slot (prog.base + off) (progBytes fl) false (g / 20)
    let (bs, e, b) := b.load fl (prog.base + off) (progBytes fl)
    ((b.setBytes (storeBase g) bs).noteEcc fl.uid e).updBerth g fun x => { x with prog := some key }

/-- A Berth starts a program: it holds it and takes the initial state of its dialect (R155, R158). -/
def Body.startBerth (b : Body) (fl : Flight) (prog : Entry) (entry g : Nat) : Body :=
  let b := b.loadProg fl prog g
  let core := !b.tileDialect g
  let b := b.updBerth g fun x => { x with
    run := some fl.uid, pc := entry, loops := [], deep := 0, latch := latchOf fl, tiles := [], preds := [],
    raftWait := none,
    dowels := if core then (List.range 64).foldl (fun m d => SMap.set m {} d (dowelStart fl g d entry)) [] else [] }
  ((b.setF (.brJyStat g) Fld.brJyStatRunning 1).setF (.brJyStat g) Fld.brJyStatStateCtx fl.cmd.ctx.toNat).syncWork g

/-- What a run may access while it lasts: the slices of its Berths' own Holds. -/
def runUses (gs : List Nat) : List Nat := gs.flatMap fun g => (List.range 8).map (8 * g + ·)

/-- A record number is set in the saved progress of a JY_RUN: four words of 50 bits from place `k` (log entry 39). -/
def savedBit (progress : List Nat) (k i : Nat) : Bool := (progress.getD (k + i / 50) 0).testBit (i % 50)

/-- A pre-empted JY_RUN goes on (R162): once the Berths of its records are awake and free, each loads the program and its record. A
program handle that no longer resolves ends it with HANDLE_STALE. -/
def Body.resumeRun (b : Body) (fl : Flight) : Body :=
  let c := fl.cmd
  let off := 32 * c.f 1 37 18
  match b.accessHere fl.slot (c.h 1) off (progBytes fl) false with
  | .error st => b.fail fl st (c.h 1) off
  | .ok prog =>
    let is := (List.range 200).filter fun i => savedBit fl.progress 1 i
    let gs := is.filterMap fun i => (b.recordBerth fl.slot i).map fun g => (i, g)
    if gs.all fun p => decide (b.pwr p.2 < 2 ∧ (b.berth p.2).run = none) then
      let core := gs.any fun p => !b.tileDialect p.2
      let hds := ((List.range 4).map (hdOf c)).filter fun h => decide (core ∧ h ≠ 0)
      let b := b.start { fl with handles := (c.h 1 / 65536) :: hds.map (· / 65536), uses := runUses (gs.map (·.2)) }
      gs.foldl (fun b p =>
        let b := (b.loadProg fl prog p.2).restoreBerth fl (recordAt (b.info fl.slot).saveBase p.1) p.2
        b.updBerth p.2 fun x => { x with truss := savedBit fl.progress 5 p.1 }) b
    else gs.foldl (fun b p => b.askWake p.2) b

/-- JY_RUN (R158): runs a program on the Berths it names, once each is awake and runs no other (log entry 33). -/
def execJyRun (c : Cmd) (s : State) : Host.Outcome State Fault Refusal :=
  s.onBody fun b => b.onCmd c 0x4A fun b fl =>
    if fl.resumed ∧ fl.progress ≠ [] then b.resumeRun fl
    else match b.takePart fl.slot (c.f 2 37 28) with
    | none => b.fail fl 0x11
    | some qs =>
      let gs := berthsOf qs (c.f 2 27 8)
      let off := 32 * c.f 1 37 18
      match gs with
      | [] => b.fail fl 0x11
      | g0 :: _ =>
        let core := !b.tileDialect g0
        let entry := c.f 3 31 0 / (if core then 8 else 32) * (if core then 8 else 32)
        match b.accessHere fl.slot (c.h 1) off (progBytes fl) false with
        | .error st => b.fail fl st (c.h 1) off
        | .ok prog =>
          let hds := ((List.range 4).map (hdOf c)).filter fun h => decide (core ∧ h ≠ 0)
          match hds.find? fun h => decide (b.resolve fl.slot h = none) with
          | some h => b.fail fl 0x12 h
          | none =>
            if entry ≥ progBytes fl then b.fail fl 0x11 (c.h 1) entry
            else if gs.all fun g => decide (b.pwr g < 2 ∧ (b.berth g).run = none) then
              let b := (b.clampCmd fl (if c.f 1 11 0 > 2047 then 1 else 0)).start
                { fl with handles := (c.h 1 / 65536) :: hds.map (· / 65536), uses := runUses gs }
              gs.foldl (fun b g => b.startBerth fl prog entry g) b
            else gs.foldl (fun b g => b.askWake g) b

/-! ### Tile registers (R152, R153) -/

/-- A tile register: 1,024 FP32 words, row-major. -/
def Body.tile (b : Body) (g t : Nat) : List Nat := SMap.get (b.berth g).tiles (List.replicate 1024 0) t

/-- Writes a tile register. -/
def Body.setTile (b : Body) (g t : Nat) (v : List Nat) : Body :=
  b.updBerth g fun x => { x with tiles := SMap.set x.tiles (List.replicate 1024 0) t v }

/-- A predicate tile: 1,024 bits, row-major; every bit is 1 at a run's start. -/
def Body.pred (b : Body) (g p : Nat) : Nat := SMap.get (b.berth g).preds (2 ^ 1024 - 1) p

/-- Writes a predicate tile. -/
def Body.setPred (b : Body) (g p v : Nat) : Body :=
  b.updBerth g fun x => { x with preds := SMap.set x.preds (2 ^ 1024 - 1) p v }

/-- A latch entry's low 32 bits, as FP32. -/
def Body.latch32 (b : Body) (g i : Nat) : Nat := ((b.berth g).latch.getD i 0).toNat % 2 ^ 32

/-- The memory block that word 1 names: rows, columns, offset in bytes, on the Bench. -/
def jBlock (w : List Word) : Nat × Nat × Nat × Bool :=
  let x := w.getD 1 0
  (x.fld 17 13 + 1, x.fld 12 8 + 1, 32 * x.fld 37 18, x.bit 7)

/-- A memory format of the Bench: MX codes, which have no scales there, are taken as FP32 and reserved codes as INT64 (log
entry 34). -/
def benchFmt (f : Nat) : Nat := if isMx f then 10 else min f 13

/-- A tile-dialect memory block: where its rows lie, its format, and its scale bytes' entry origin. -/
structure JMem where
  base : Nat
  fmt : Nat
  pitch : Nat
  colMajor : Bool
  scale : Option Opnd
deriving DecidableEq, Repr

/-- The address and place of element (r, c) of a memory block. -/
def JMem.at (m : JMem) (r c : Nat) : Nat × Nat :=
  if m.colMajor then (m.base + c * m.pitch + elemByte m.fmt r, r % unitElems m.fmt)
  else (m.base + r * m.pitch + elemByte m.fmt c, c % unitElems m.fmt)

/-- The memory block of a JLD or JST, with the checks of R110 (log entry 34 for PITCH), or the failure status. -/
def Body.jMem (b : Body) (fl : Flight) (g : Nat) (w : List Word) (write : Bool) : Except Nat JMem :=
  let (rows, cols, off, bench) := jBlock w
  let pitch := (w.getD 2 0).fld 47 0
  if bench then
    let f := benchFmt ((w.getD 0 0).fld 25 22)
    if off + (rows - 1) * pitch + elemBits f / 8 * cols ≤ 0x100000 then .ok ⟨benchBase g + off, f, pitch, false, none⟩
    else .error 0x11
  else
    match b.ownEntry fl.slot g ((w.getD 1 0).fld 63 38) write with
    | .error st => .error st
    | .ok e =>
      let cm := decide (e.layout = 2)
      let sc := if isMx e.fmt then opndAt e (ownLay e) 0 (off / 32) else none
      let m : JMem := ⟨e.base + off, e.fmt, pitch, cm, sc⟩
      let lines := if cm then cols else rows
      let span := (if cm then elemByte e.fmt (rows - 1) else elemByte e.fmt (cols - 1)) + unitBytes e.fmt
      if isMx e.fmt ∧ sc = none then .error 0x11
      else if (List.range lines).all fun i => b.accessOk e (off + i * pitch) span write then .ok m
      else .error 0x11

/-- Element (r, c) of a memory block widened to FP32 (R54). -/
def Body.jElem (b : Body) (m : JMem) (r c : Nat) : Nat :=
  let (a, k) := m.at r c
  let v := elemVal m.fmt (unitCode m.fmt (b.le a (unitBytes m.fmt)) k)
  toF32 (match m.scale with
    | some o => e8m0 v (b.byte (scaleAddr o.e 0 (o.r0 + r) (o.c0 + c))).toNat
    | none => v)

/-- A tile whose element (r, c) is given. -/
def tileOf (f : Nat → Nat → Nat) : List Nat := (List.range 1024).map fun i => f (i / 32) (i % 32)

/-- The fault of a tile-dialect memory access. -/
def Body.jFault (b : Body) (g : Nat) (fl : Flight) (w : List Word) (st : Nat) : Body :=
  b.runFault g fl st ((w.getD 1 0).fld 63 38) (32 * (w.getD 1 0).fld 37 18)

/-- Clamps of a memory format and rounding code of an instruction. -/
def jFmtClamps (w : List Word) (bench : Bool) : Nat :=
  let x := w.getD 0 0
  (if bench then diff (benchFmt (x.fld 25 22)) (x.fld 25 22) else 0) + (if x.fld 21 19 > 4 then 1 else 0)

/-- JLD (R153): loads a block into TD, the rest of which becomes +0. -/
def execJld (g : Fin 200) (w : List Word) (conflict : Option Conflict) (s : State) : Host.Outcome State Fault Refusal :=
  s.onBody fun b =>
    match b.tileRun g w 0x28 with
    | none => b
    | some fl =>
      match conflict with
      | some k => b.conflict g fl k
      | none =>
        let (rows, cols, _, bench) := jBlock w
        let b := b.clampCmd fl (if bench then diff (benchFmt ((w.getD 0 0).fld 25 22)) ((w.getD 0 0).fld 25 22) else 0)
        let b := if bench then b.benchTake g fl.cmd.ctx.toNat else b
        match b.jMem fl g w false with
        | .error st => b.jFault g fl w st
        | .ok m =>
          (b.setTile g ((w.getD 0 0).fld 49 45)
            (tileOf fun r c => if r < rows ∧ c < cols then b.jElem m r c else 0)).nextInstr g fl

/-- Stores one row of a tile block, converted, with its random bits from RG3 (R48-R53, R37, R272). -/
def Body.jStoreRow (b : Body) (g : Nat) (fl : Flight) (m : JMem) (mode : Nat) (sat : Bool) (r : Nat) (xs : List Nat) : Body :=
  let cs := List.range xs.length
  let (ds, b) := if mode = 4 ∧ sr1Fmt m.fmt then b.drawGroups [4 * g + 3] cs else ([], b)
  let bit (i : Nat) : Bool := (drawOf ds i).bit 0
  let (codes, sc, t) :=
    if isMx m.fmt then
      let (s, es, t) := mxBlock m.fmt mode (cs.map bit) (xs.map ofF32)
      (es, some s, t)
    else
      let rs := cs.map fun i => convElem m.fmt mode sat (bit i) (ofF32 (xs.getD i 0))
      (rs.map (·.1), none, rs.foldl (fun a p => a.plus p.2) {})
  let b := b.fmtTally g t true
  let els := cs.map fun i => let (a, k) := m.at r i; (a, k, codes.getD i 0)
  let (ecc, b) := (unitRuns m.fmt (b.packUnits m.fmt 0 els)).foldl (fun (p : Bool × Body) u =>
    let (e, b) := p.2.storePlain fl u.1 u.2
    (p.1 || e, b)) (false, b)
  let b := match sc, m.scale with
    | some v, some o => (b.storePlain fl (scaleAddr o.e 0 (o.r0 + r) o.c0) [BitVec.ofNat 8 v]).2
    | _, _ => b
  b.noteEcc fl.uid ecc

/-- JST (R153): stores a block of TA with conversion. -/
def execJst (g : Fin 200) (w : List Word) (s : State) : Host.Outcome State Fault Refusal :=
  s.onBody fun b =>
    match b.tileRun g w 0x29 with
    | none => b
    | some fl =>
      let x := w.getD 0 0
      let (rows, cols, _, bench) := jBlock w
      let b := b.clampCmd fl (jFmtClamps w bench)
      let b := if bench then b.benchTake g fl.cmd.ctx.toNat else b
      match b.jMem fl g w true with
      | .error st => b.jFault g fl w st
      | .ok m =>
        let t := b.tile g (x.fld 44 40)
        ((List.range rows).foldl (fun b r =>
          b.jStoreRow g fl m (min 4 (x.fld 21 19)) (x.bit 18) r ((t.drop (32 * r)).take cols)) b).nextInstr g fl

/-- The operation code of a JOP or VEC: codes above 0x10 are taken as LATHE (R138). -/
def laneCode (o : Nat) : Nat := if o = 0x0F then 0x0E else min o 0x10

/-- One element of a JOP or VEC: the result rounded to FMT and widened, and what it counts (R138, R153, R164). -/
def Body.laneElem (b : Body) (g slot bank op fn fmt mode : Nat) (sat : Bool) (q : Word) (x y z : Nat) : Nat × Body :=
  let (f, b) :=
    if op = 0x10 then
      let (f, l) := latheF32 (b.bank (b.partOfBerth g) bank) fn x y z
      (f, b.latheTally g slot l)
    else (laneOp op x y z (q.fld 7 0), b)
  let (f, t) := roundTo fmt mode sat (q.bit 0) f
  (f, b.fmtTally g t false)

/-- A FUNC field names a built-in or a Jig VALID in a bank (R179). -/
def Body.funcOk (b : Body) (g bank op fn : Nat) : Bool :=
  decide (op ≠ 0x10) || decide (funcOf fn < 0x40) || jigValid (b.bank (b.partOfBerth g) bank) (funcOf fn - 0x40)

/-- Clamped fields of a JOP: OP, FMT, ROUND and FUNC. -/
def jopClamps (x : Word) : Nat :=
  diff (laneCode (x.fld 55 50)) (x.fld 55 50) + diff (laneFmt (x.fld 25 22)) (x.fld 25 22) + (if x.fld 21 19 > 4 then 1 else 0) +
    (if laneCode (x.fld 55 50) = 0x10 then diff (funcOf (x.fld 15 8)) (x.fld 15 8) else 0)

/-- JOP (R153): TD = OP(TA, TB, TC) where the predicate allows; CMPLT and CMPEQ write predicate TD[2:0]. -/
def execJop (g : Fin 200) (w : List Word) (s : State) : Host.Outcome State Fault Refusal :=
  s.onBody fun b =>
    match b.tileRun g w 0x2A with
    | none => b
    | some fl =>
      let x := w.getD 0 0
      let op := laneCode (x.fld 55 50)
      let b := b.clampCmd fl (jopClamps x)
      if ¬ b.funcOk g fl.bank op (x.fld 15 8) then b.runFault g fl 0x12 (x.fld 15 8) 0
      else
        let fmt := laneFmt (x.fld 25 22)
        let mode := min 4 (x.fld 21 19)
        let ta := b.tile g (x.fld 44 40)
        let tb := b.tile g (x.fld 39 35)
        let tc := b.tile g (x.fld 34 30)
        let sb := b.latch32 g (x.fld 38 35)
        let sc := b.latch32 g (x.fld 33 30)
        let random := decide (op = 0x0E) || (decide (mode = 4) && sr1Fmt fmt)
        let (rs, b) := (List.range 32).foldl (fun (p : List Nat × Body) r =>
          let (ds, b) := if random then p.2.drawGroups [4 * g + 3] (List.range 32) else ([], p.2)
          (List.range 32).foldl (fun (p : List Nat × Body) c =>
            let i := 32 * r + c
            let (f, b) := p.2.laneElem g fl.slot fl.bank op (x.fld 15 8) fmt mode (x.bit 18) (drawOf ds c) (ta.getD i 0)
              (if x.bit 17 then sb else tb.getD i 0) (if x.bit 16 then sc else tc.getD i 0)
            (f :: p.1, b)) (p.1, b)) ([], b)
        let rs := rs.reverse
        let pr := b.pred g (x.fld 28 26)
        let live (i : Nat) : Bool := !x.bit 29 || pr.testBit i
        let b :=
          if op = 0x0C ∨ op = 0x0D then
            let d := x.fld 47 45
            let old := b.pred g d
            b.setPred g d ((List.range 1024).foldl (fun n i =>
              n + (if (if live i then decide (rs.getD i 0 ≠ 0) else old.testBit i) then 2 ^ i else 0)) 0)
          else
            let d := x.fld 49 45
            let old := b.tile g d
            b.setTile g d ((List.range 1024).map fun i => if live i then rs.getD i 0 else old.getD i 0)
        b.nextInstr g fl

/-- One level of the pairwise tree: element 2i combines with element 2i + 1; an odd last one combines with the identity
(R140). -/
def pairLevel (f : Nat → Nat → Nat) (unit : Nat) : List Nat → List Nat
  | [] => []
  | [x] => [f x unit]
  | x :: y :: r => f x y :: pairLevel f unit r

/-- The fixed pairwise tree over a list, completed to a power of two with an identity: `k` levels (R140). -/
def treeFold (f : Nat → Nat → Nat) (unit : Nat) : Nat → List Nat → Nat
  | 0, l => l.headD unit
  | k + 1, l => treeFold f unit k (pairLevel f unit l)

/-- FP32 minimum or maximum of lanes (R55, R138). -/
def f32MinMax (isMax : Bool) (a b : Nat) : Nat := toF32 ((ofF32 a).minmax isMax (ofF32 b))

/-- A reduction of JRED over 32 elements: 0 sum, 1 max, 2 min (R140). -/
def reduce32 (kind : Nat) (l : List Nat) : Nat :=
  match kind with
  | 0 => treeFold f32Add 0 5 l
  | 1 => treeFold (f32MinMax true) 0xFF800000 5 l
  | _ => treeFold (f32MinMax false) 0x7F800000 5 l

/-- A row, or a column, of a tile. -/
def tileRow (t : List Nat) (r : Nat) : List Nat := (t.drop (32 * r)).take 32
/-- A column of a tile. -/
def tileCol (t : List Nat) (c : Nat) : List Nat := (List.range 32).map fun r => t.getD (32 * r + c) 0

/-- JRED (R153): row results go to column 0 of TD, column results to row 0, other elements to +0. -/
def execJred (g : Fin 200) (w : List Word) (s : State) : Host.Outcome State Fault Refusal :=
  s.onBody fun b =>
    match b.tileRun g w 0x2B with
    | none => b
    | some fl =>
      let x := w.getD 0 0
      let op := min 5 (x.fld 55 50)
      let b := b.clampCmd fl (diff op (x.fld 55 50))
      let t := b.tile g (x.fld 44 40)
      let v := tileOf fun r c =>
        if op % 2 = 0 then (if c = 0 then reduce32 (op / 2) (tileRow t r) else 0)
        else (if r = 0 then reduce32 (op / 2) (tileCol t c) else 0)
      (b.setTile g (x.fld 49 45) v).nextInstr g fl

/-- The FP32 value of a Ripple fill: q[63:40] × 2^-24 (R272). -/
def fillVal (q : Word) : Nat := toF32 (.fin false (q.fld 63 40) (-24))

/-- JMOV (R153): copies, transposes, broadcasts or fills a tile register. -/
def execJmov (g : Fin 200) (w : List Word) (s : State) : Host.Outcome State Fault Refusal :=
  s.onBody fun b =>
    match b.tileRun g w 0x2C with
    | none => b
    | some fl =>
      let x := w.getD 0 0
      let op := min 6 (x.fld 55 50)
      let b := b.clampCmd fl (diff op (x.fld 55 50))
      let t := b.tile g (x.fld 44 40)
      let pr := b.pred g (x.fld 28 26)
      let (v, b) : List Nat × Body := match op with
        | 0 => (t, b)
        | 1 => (tileOf fun r c => t.getD (32 * c + r) 0, b)
        | 2 => (List.replicate 1024 (b.latch32 g (x.fld 38 35)), b)
        | 3 => (tileOf fun _ c => t.getD c 0, b)
        | 4 => (tileOf fun r _ => t.getD (32 * r) 0, b)
        | 5 =>
          (List.range 32).foldl (fun (p : List Nat × Body) _ =>
            let (ds, b) := p.2.drawGroups [4 * g + 3] (List.range 32)
            (p.1 ++ (List.range 32).map fun c => fillVal (drawOf ds c), b)) ([], b)
        | _ => (tileOf fun r c => f32Bool (pr.testBit (32 * r + c)), b)
      (b.setTile g (x.fld 49 45) v).nextInstr g fl

/-- JBENCH (R153): raw bytes between a Hold buffer and the Bench. -/
def execJbench (g : Fin 200) (w : List Word) (s : State) : Host.Outcome State Fault Refusal :=
  s.onBody fun b =>
    match b.tileRun g w 0x2D with
    | none => b
    | some fl =>
      let op := min 1 ((w.getD 0 0).fld 55 50)
      let b := (b.clampCmd fl (diff op ((w.getD 0 0).fld 55 50))).benchTake g fl.cmd.ctx.toNat
      let off := 32 * (w.getD 1 0).fld 37 18
      let bo := 32 * (w.getD 2 0).fld 14 0
      let n := 32 * (w.getD 2 0).fld 31 15
      match b.ownEntry fl.slot g ((w.getD 1 0).fld 63 38) (decide (op = 1)) with
      | .error st => b.jFault g fl w st
      | .ok e =>
        if ¬ b.accessOk e off n (decide (op = 1)) ∨ bo + n > 0x100000 then b.jFault g fl w 0x11
        else if op = 0 then
          let (bs, ecc, b) := b.load fl (e.base + off) n
          ((b.setBytes (benchBase g + bo) bs).noteEcc fl.uid ecc).nextInstr g fl
        else
          let (ecc, b) := b.storePlain fl (e.base + off) (b.bytes (benchBase g + bo) n)
          (b.noteEcc fl.uid ecc).nextInstr g fl

/-! ### Control (R153) -/

/-- The JCTL at a Berth's program counter, of a sub-operation; one above 3 is taken as END, a clamp. -/
def Body.jctl (b : Body) (g : Nat) (w : List Word) (sub : Nat) : Option Flight :=
  if min 3 ((w.getD 0 0).fld 55 50) = sub then b.tileRun g w 0x2E else none

/-- JCTL FENCE (R153): stores and JBENCH are written as they issue, so it waits for drains. -/
def execJctlFence (g : Fin 200) (w : List Word) (s : State) : Host.Outcome State Fault Refusal :=
  s.onBody fun b =>
    match b.jctl g w 0 with
    | none => b
    | some fl => if (b.passBerths g).all b.trussIdle then b.nextInstr g fl else b

/-- JCTL LOOP (R153): a fifth nested loop runs its body once, a clamp. -/
def execJctlLoop (g : Fin 200) (w : List Word) (s : State) : Host.Outcome State Fault Refusal :=
  s.onBody fun b =>
    match b.jctl g w 1 with
    | none => b
    | some fl =>
      let x := b.berth g
      let n := (w.getD 3 0).fld 31 0
      let b := b.clampCmd fl (if n = 0 then 1 else 0)
      if x.loops.length ≥ 4 then ((b.clampCmd fl 1).updBerth g fun x => { x with deep := x.deep + 1 }).nextInstr g fl
      else (b.updBerth g fun x => { x with loops := (x.pc + 32, max 1 n) :: x.loops }).nextInstr g fl

/-- JCTL ENDLOOP (R153): the body runs again while iterations are left. -/
def execJctlEndloop (g : Fin 200) (w : List Word) (s : State) : Host.Outcome State Fault Refusal :=
  s.onBody fun b =>
    match b.jctl g w 2 with
    | none => b
    | some fl =>
      let x := b.berth g
      if x.deep > 0 then (b.updBerth g fun x => { x with deep := x.deep - 1 }).nextInstr g fl
      else
        match x.loops with
        | [] => b.nextInstr g fl
        | (pc, k) :: r =>
          if k > 1 then (b.updBerth g fun x => { x with loops := (pc, k - 1) :: r }).goTo g fl pc
          else (b.updBerth g fun x => { x with loops := r }).nextInstr g fl

/-- JCTL END (R153). -/
def execJctlEnd (g : Fin 200) (w : List Word) (s : State) : Host.Outcome State Fault Refusal :=
  s.onBody fun b =>
    match b.jctl g w 3 with
    | none => b
    | some fl => (b.clampCmd fl (if (w.getD 0 0).fld 55 50 > 3 then 1 else 0)).endRun g fl.uid

end Sys2Proof.Machine
end

