-- ==== Sys2Proof/Machine/Dowels.lean ====
section
/-!
DEFINITION. The core dialect of the Joinery (R155-R157): the instructions of the 64 Dowels of a Berth.
-/

namespace Sys2Proof.Machine

/-! ### A Dowel's registers and program (R155) -/

/-- A Dowel of a Berth. -/
def Body.dowel (b : Body) (g d : Nat) : Dowel := SMap.get (b.berth g).dowels {} d

/-- Changes a Dowel. -/
def Body.updDowel (b : Body) (g d : Nat) (f : Dowel → Dowel) : Body :=
  b.updBerth g fun x => { x with dowels := SMap.upd x.dowels {} d f }

/-- Register x`i`; x0 reads 0. -/
def Dowel.xr (y : Dowel) (i : Nat) : Word := if i = 0 then 0 else SMap.get y.x 0 i

/-- Writes register x`i`; x0 ignores writes. -/
def Dowel.setX (y : Dowel) (i : Nat) (w : Word) : Dowel := if i = 0 then y else { y with x := SMap.set y.x 0 i w }

/-- Register v`i`, 32 FP32 elements; the low four bits number it. -/
def Dowel.vr (y : Dowel) (i : Nat) : List Nat := SMap.get y.v (List.replicate 32 0) (i % 16)

/-- Writes register v`i`. -/
def Dowel.setV (y : Dowel) (i : Nat) (l : List Nat) : Dowel := { y with v := SMap.set y.v (List.replicate 32 0) (i % 16) l }

/-- The operations listed for a class: the highest OP of INT, MEM and CTRL; a VEC OP by its own rule (R156). -/
def classTop (k : Nat) : Nat := if k = 1 then 11 else if k = 2 then 3 else 7

/-- The operation a core-dialect word names after its clamp. -/
def coreOp (w : Word) : Nat := if w.fld 63 62 = 0 then laneCode (w.fld 61 56) else min (w.fld 61 56) (classTop (w.fld 63 62))

/-- The JY_RUN whose Dowel `d` issues this word on a Berth: one is running in the core dialect, the Dowel has neither ended nor
waits at BAR, the word stands at its program counter, and its class and operation are those given. -/
def Body.coreRun (b : Body) (g d : Nat) (w : Word) (cls : Nat) (op : Option Nat) : Option Flight :=
  match (b.berth g).run with
  | some uid =>
    let y := b.dowel g d
    if ¬ b.tileDialect g ∧ ¬ y.ended ∧ ¬ y.bar ∧ b.le (storeBase g + y.pc) 8 = w.toNat ∧ w.fld 63 62 = cls ∧
        (op = none ∨ op = some (coreOp w)) then b.flight uid
    else none
  | none => none

/-- Every Dowel of a Berth that has not ended waits at BAR, so each goes on after it (R157). -/
def Body.barCheck (b : Body) (g : Nat) : Body :=
  if (List.range 64).all fun d => (b.dowel g d).ended || (b.dowel g d).bar then
    (List.range 64).foldl (fun b d => b.updDowel g d fun y => if y.bar then { y with bar := false, pc := y.pc + 8 } else y) b
  else b

/-- A Dowel ends; the run ends when every Dowel has (R157). -/
def Body.endDowel (b : Body) (g d : Nat) (fl : Flight) : Body :=
  let b := b.updDowel g d fun y => { y with ended := true, bar := false }
  if (List.range 64).all fun e => (b.dowel g e).ended then b.endRun g fl.uid else b.barCheck g

/-- A Dowel goes on at its next instruction; past the program's end it ends. -/
def Body.nextCore (b : Body) (g d : Nat) (fl : Flight) : Body :=
  let pc := (b.dowel g d).pc + 8
  let b := b.unitDone fl.uid
  if pc ≥ progBytes fl then b.endDowel g d fl else b.updDowel g d fun y => { y with pc := pc }

/-- The signed immediate of a word. -/
def coreImm (w : Word) : Int := sInt 22 (w.fld 21 0)

/-- Clamped fields of an INT or CTRL word. -/
def coreClamps (w : Word) : Nat := diff (coreOp w) (w.fld 61 56)

/-! ### VEC (R138, R156) -/

/-- Bits of a mask register after a write under MASK: bit `i` of `new` where it may be written. -/
def maskWrite (old live new : Nat) : Nat :=
  (List.range 32).foldl (fun n i => n + (if (if live.testBit i then new.testBit i else old.testBit i) then 2 ^ i else 0)) 0

/-- VEC (R156): an operation of R138 on v registers, with random bits from RG3 (R269). -/
def execVec (g : Fin 200) (d : Fin 64) (w : Word) (s : State) : Host.Outcome State Fault Refusal :=
  s.onBody fun b =>
    match b.coreRun g d w 0 none with
    | none => b
    | some fl =>
      let op := coreOp w
      let fmt := laneFmt (w.fld 24 21)
      let mode := min 4 (w.fld 20 18)
      let fn := w.fld 32 25
      let b := b.clampCmd fl (coreClamps w + diff fmt (w.fld 24 21) + diff mode (w.fld 20 18) +
        (if op = 0x10 then diff (funcOf fn) fn else 0))
      if ¬ b.funcOk g fl.bank op fn then b.runFault g fl 0x12 fn 0
      else
        let y := b.dowel g d
        let va := y.vr (w.fld 50 46)
        let vb := y.vr (w.fld 45 41)
        let vc := y.vr (w.fld 40 36)
        let sb := (y.xr (w.fld 45 41)).toNat % 2 ^ 32
        let random := decide (op = 0x0E) || (decide (mode = 4) && sr1Fmt fmt)
        let (ds, b) := if random then b.drawGroups [4 * g + 3] (List.range 32) else ([], b)
        let (rs, b) := (List.range 32).foldl (fun (p : List Nat × Body) i =>
          let (f, b) := p.2.laneElem g fl.slot fl.bank op fn fmt mode (w.bit 17) (drawOf ds i) (va.getD i 0)
            (if w.bit 35 then sb else vb.getD i 0) (vc.getD i 0)
          (f :: p.1, b)) ([], b)
        let rs := rs.reverse
        let live := if w.fld 34 33 = 0 then 0xFFFFFFFF else y.m.getD (w.fld 34 33) 0
        let b :=
          if op = 0x0C ∨ op = 0x0D then
            let k := w.fld 52 51
            let new := (List.range 32).foldl (fun n i => n + (if rs.getD i 0 ≠ 0 then 2 ^ i else 0)) 0
            b.updDowel g d fun y => { y with m := y.m.set k (maskWrite (y.m.getD k 0) live new) }
          else
            let old := y.vr (w.fld 55 51)
            b.updDowel g d fun y => y.setV (w.fld 55 51)
              ((List.range 32).map fun i => if live.testBit i then rs.getD i 0 else old.getD i 0)
        b.nextCore g d fl

/-! ### INT (R156) -/

/-- An INT instruction of an operation: x[D] takes what `f` gives of x[A], x[B] and IMM. -/
def Body.coreInt (b : Body) (g d : Nat) (w : Word) (op : Nat) (f : Word → Word → Int → Word) : Body :=
  match b.coreRun g d w 1 (some op) with
  | none => b
  | some fl =>
    let y := b.dowel g d
    let v := f (y.xr (w.fld 50 46)) (y.xr (w.fld 45 41)) (coreImm w)
    ((b.clampCmd fl (coreClamps w)).updDowel g d fun y => y.setX (w.fld 55 51) v).nextCore g d fl

/-- A shift of x[A] by x[B]: a free value for an amount of 64 or more, whose result the spec does not state (log entry 35). -/
def Body.coreShift (b : Body) (g d : Nat) (w : Word) (op : Nat) (f : Word → Nat → Word) : Body :=
  if ((b.dowel g d).xr (w.fld 45 41)).toNat < 64 then b.coreInt g d w op fun x y _ => f x y.toNat
  else
    match b.coreRun g d w 1 (some op) with
    | none => b
    | some _ => let (v, b) := b.free; b.coreInt g d w op fun _ _ _ => v

/-- INT ADD. -/
def execIntAdd (g : Fin 200) (d : Fin 64) (w : Word) (s : State) : Host.Outcome State Fault Refusal :=
  s.onBody fun b => b.coreInt g d w 0 fun x y _ => x + y

/-- INT SUB. -/
def execIntSub (g : Fin 200) (d : Fin 64) (w : Word) (s : State) : Host.Outcome State Fault Refusal :=
  s.onBody fun b => b.coreInt g d w 1 fun x y _ => x - y

/-- INT MUL, low 64 bits. -/
def execIntMul (g : Fin 200) (d : Fin 64) (w : Word) (s : State) : Host.Outcome State Fault Refusal :=
  s.onBody fun b => b.coreInt g d w 2 fun x y _ => x * y

/-- INT AND. -/
def execIntAnd (g : Fin 200) (d : Fin 64) (w : Word) (s : State) : Host.Outcome State Fault Refusal :=
  s.onBody fun b => b.coreInt g d w 3 fun x y _ => x &&& y

/-- INT OR. -/
def execIntOr (g : Fin 200) (d : Fin 64) (w : Word) (s : State) : Host.Outcome State Fault Refusal :=
  s.onBody fun b => b.coreInt g d w 4 fun x y _ => x ||| y

/-- INT XOR. -/
def execIntXor (g : Fin 200) (d : Fin 64) (w : Word) (s : State) : Host.Outcome State Fault Refusal :=
  s.onBody fun b => b.coreInt g d w 5 fun x y _ => x ^^^ y

/-- INT SHL. -/
def execIntShl (g : Fin 200) (d : Fin 64) (w : Word) (s : State) : Host.Outcome State Fault Refusal :=
  s.onBody fun b => b.coreShift g d w 6 fun x n => x <<< n

/-- INT SHR. -/
def execIntShr (g : Fin 200) (d : Fin 64) (w : Word) (s : State) : Host.Outcome State Fault Refusal :=
  s.onBody fun b => b.coreShift g d w 7 fun x n => x >>> n

/-- INT SRA. -/
def execIntSra (g : Fin 200) (d : Fin 64) (w : Word) (s : State) : Host.Outcome State Fault Refusal :=
  s.onBody fun b => b.coreShift g d w 8 fun x n => x.sshiftRight n

/-- INT SLT, signed. -/
def execIntSlt (g : Fin 200) (d : Fin 64) (w : Word) (s : State) : Host.Outcome State Fault Refusal :=
  s.onBody fun b => b.coreInt g d w 9 fun x y _ => if x.toInt < y.toInt then 1 else 0

/-- INT ADDI. -/
def execIntAddi (g : Fin 200) (d : Fin 64) (w : Word) (s : State) : Host.Outcome State Fault Refusal :=
  s.onBody fun b => b.coreInt g d w 10 fun x _ i => x + BitVec.ofInt 64 i

/-- INT LUI: IMM << 42. -/
def execIntLui (g : Fin 200) (d : Fin 64) (w : Word) (s : State) : Host.Outcome State Fault Refusal :=
  s.onBody fun b => b.coreInt g d w 11 fun _ _ i => BitVec.ofInt 64 i <<< 42

/-! ### MEM (R156) -/

/-- What a MEM instruction accesses: `n` bytes at x[A] + IMM within handle HD[HSEL], or within the Bench, or the failure. -/
def Body.coreMem (b : Body) (g d : Nat) (fl : Flight) (w : Word) (n : Nat) (write : Bool) : Except (Nat × Nat × Nat) Nat :=
  let off := ((b.dowel g d).xr (w.fld 50 46) + BitVec.ofInt 64 (coreImm w)).toNat
  if w.bit 37 then if off + n ≤ 0x100000 then .ok (benchBase g + off) else .error (0x11, 0, off)
  else
    let h := hdOf fl.cmd (w.fld 36 35)
    match b.ownEntry fl.slot g h write with
    | .error st => .error (st, h, off)
    | .ok e => if b.accessOk e off n write then .ok (e.base + off) else .error (0x11, h, off)

/-- A MEM instruction of an operation whose access the body does at an address. -/
def Body.coreMemRun (b : Body) (g d : Nat) (w : Word) (op : Nat) (n : Nat) (write : Bool) (clamp : Nat)
    (f : Body → Flight → Nat → Body) : Body :=
  match b.coreRun g d w 2 (some op) with
  | none => b
  | some fl =>
    let b := b.clampCmd fl (coreClamps w + clamp)
    let b := if w.bit 37 then b.benchTake g fl.cmd.ctx.toNat else b
    match b.coreMem g d fl w n write with
    | .error (st, h, off) => b.runFault g fl st h off
    | .ok a => (f b fl a).nextCore g d fl

/-- The format of a VLD or VST, and its bytes an element. -/
def coreFmt (w : Word) : Nat × Nat := let f := laneFmt (w.fld 45 42); (f, elemBits f / 8)

/-- VLD: 32 consecutive elements widened to FP32 (R54). -/
def execVld (g : Fin 200) (d : Fin 64) (w : Word) (s : State) : Host.Outcome State Fault Refusal :=
  s.onBody fun b =>
    let (f, n) := coreFmt w
    b.coreMemRun g d w 0 (32 * n) false (diff f (w.fld 45 42)) fun b fl a =>
      let (bs, ecc, b) := b.load fl a (32 * n)
      (b.updDowel g d fun y => y.setV (w.fld 55 51)
        ((List.range 32).map fun i => toF32 (elemVal f (ofLe ((bs.drop (n * i)).take n))))).noteEcc fl.uid ecc

/-- VST: 32 consecutive elements converted with ROUND and SAT (R48-R53), SR1 with random bits from RG3. -/
def execVst (g : Fin 200) (d : Fin 64) (w : Word) (s : State) : Host.Outcome State Fault Refusal :=
  s.onBody fun b =>
    let (f, n) := coreFmt w
    let mode := min 4 (w.fld 41 39)
    b.coreMemRun g d w 1 (32 * n) true (diff f (w.fld 45 42) + diff mode (w.fld 41 39)) fun b fl a =>
      let xs := (b.dowel g d).vr (w.fld 55 51)
      let (ds, b) := if mode = 4 ∧ sr1Fmt f then b.drawGroups [4 * g + 3] (List.range 32) else ([], b)
      let rs := (List.range 32).map fun i => convElem f mode (w.bit 38) ((drawOf ds i).bit 0) (ofF32 (xs.getD i 0))
      let b := b.fmtTally g (rs.foldl (fun t p => t.plus p.2) {}) true
      let (ecc, b) := b.storePlain fl a (rs.flatMap fun p => leBytes n p.1)
      b.noteEcc fl.uid ecc

/-- XLD: 64 bits. -/
def execXld (g : Fin 200) (d : Fin 64) (w : Word) (s : State) : Host.Outcome State Fault Refusal :=
  s.onBody fun b => b.coreMemRun g d w 2 8 false 0 fun b fl a =>
    let (bs, ecc, b) := b.load fl a 8
    (b.updDowel g d fun y => y.setX (w.fld 55 51) (BitVec.ofNat 64 (ofLe bs))).noteEcc fl.uid ecc

/-- XST: 64 bits. -/
def execXst (g : Fin 200) (d : Fin 64) (w : Word) (s : State) : Host.Outcome State Fault Refusal :=
  s.onBody fun b => b.coreMemRun g d w 3 8 true 0 fun b fl a =>
    let (ecc, b) := b.storePlain fl a (leBytes 8 ((b.dowel g d).xr (w.fld 55 51)).toNat)
    b.noteEcc fl.uid ecc

/-! ### CTRL (R156, R157) -/

/-- A branch of a Dowel by IMM instructions where `cond` holds of x[A] and x[B]; a target outside the program ends the run with
HOLD_RANGE. -/
def Body.coreBranch (b : Body) (g d : Nat) (w : Word) (op : Nat) (cond : Word → Word → Bool) : Body :=
  match b.coreRun g d w 3 (some op) with
  | none => b
  | some fl =>
    let y := b.dowel g d
    if cond (y.xr (w.fld 50 46)) (y.xr (w.fld 45 41)) then
      let t : Int := (y.pc : Int) + 8 * coreImm w
      if t < 0 ∨ t ≥ (progBytes fl : Int) then b.runFault g fl 0x11 (fl.cmd.h 1) (ofSInt 64 t)
      else (b.unitDone fl.uid).updDowel g d fun y => { y with pc := t.toNat }
    else b.nextCore g d fl

/-- BEQ. -/
def execBeq (g : Fin 200) (d : Fin 64) (w : Word) (s : State) : Host.Outcome State Fault Refusal :=
  s.onBody fun b => b.coreBranch g d w 0 fun x y => decide (x = y)

/-- BNE. -/
def execBne (g : Fin 200) (d : Fin 64) (w : Word) (s : State) : Host.Outcome State Fault Refusal :=
  s.onBody fun b => b.coreBranch g d w 1 fun x y => decide (x ≠ y)

/-- BLT, signed as SLT is (log entry 35). -/
def execBlt (g : Fin 200) (d : Fin 64) (w : Word) (s : State) : Host.Outcome State Fault Refusal :=
  s.onBody fun b => b.coreBranch g d w 2 fun x y => decide (x.toInt < y.toInt)

/-- JMP. -/
def execJmp (g : Fin 200) (d : Fin 64) (w : Word) (s : State) : Host.Outcome State Fault Refusal :=
  s.onBody fun b => b.coreBranch g d w 3 fun _ _ => true

/-- BAR (R157): waits until every Dowel that has not ended has reached BAR. -/
def execBar (g : Fin 200) (d : Fin 64) (w : Word) (s : State) : Host.Outcome State Fault Refusal :=
  s.onBody fun b =>
    match b.coreRun g d w 3 (some 4) with
    | none => b
    | some _ => (b.updDowel g d fun y => { y with bar := true }).barCheck g

/-- END (R157). -/
def execCtrlEnd (g : Fin 200) (d : Fin 64) (w : Word) (s : State) : Host.Outcome State Fault Refusal :=
  s.onBody fun b =>
    match b.coreRun g d w 3 (some 5) with
    | none => b
    | some fl => (b.unitDone fl.uid).endDowel g d fl

/-- VRED (R156): sums v[A] in the fixed tree into element 0 of v[D]. -/
def execVred (g : Fin 200) (d : Fin 64) (w : Word) (s : State) : Host.Outcome State Fault Refusal :=
  s.onBody fun b =>
    match b.coreRun g d w 3 (some 6) with
    | none => b
    | some fl =>
      let v := reduce32 0 ((b.dowel g d).vr (w.fld 50 46))
      (b.updDowel g d fun y => y.setV (w.fld 55 51) (v :: List.replicate 31 0)).nextCore g d fl

/-- VMOVX (R156): the bits of an element of v[A], zero-extended; a reserved OP of the class is taken as this. -/
def execVmovx (g : Fin 200) (d : Fin 64) (w : Word) (s : State) : Host.Outcome State Fault Refusal :=
  s.onBody fun b =>
    match b.coreRun g d w 3 (some 7) with
    | none => b
    | some fl =>
      let v := ((b.dowel g d).vr (w.fld 50 46)).getD (w.fld 4 0) 0
      ((b.clampCmd fl (coreClamps w)).updDowel g d fun y => y.setX (w.fld 55 51) (BitVec.ofNat 64 v)).nextCore g d fl

end Sys2Proof.Machine
end

