-- ==== Sys2Proof/Machine/Tiles.lean ====
section
/-!
DEFINITION. Tiled operations (R119-R134): claim units, shares, claim slots, stealing, and the end of an operation.
-/

namespace Sys2Proof.Machine

/-! ### Claim units and shares (R121, R126, R129) -/

/-- The claim units of a Quay: each Berth of the mask, or the Rafts that tile the grid from its northwest corner (R121). -/
def unitsOf (q mask r c : Nat) : List (List Nat) :=
  if r * c = 1 then (berthsOf [q] mask).map fun g => [g]
  else
    ((List.range (4 / r)).flatMap fun x => (List.range (5 / c)).map fun y =>
      rectangle (20 * q + 5 * (r * x) + c * y) r c).filter fun u => u.all fun g => mask.testBit (g % 20)

/-- Where the share of rank `k` of `n` tiles over `q` Quays starts (R126). -/
def shareStart (n q k : Nat) : Nat := k * (n / q) + min k (n % q)

/-- The shares of a sequence (R126). -/
def shares (qs : List Nat) (n : Nat) : List (Nat × ClaimRange) :=
  (List.range qs.length).map fun k =>
    (qs.getD k 0, ⟨shareStart n qs.length k, shareStart n qs.length k, shareStart n qs.length (k + 1)⟩)

/-- Where an operation runs: its Quays, its claim units, and the Raft's rows and columns; none where its
Quays or its units do not resolve (R119, R121, R129; log entry 33). -/
def Body.place (b : Body) (slot mask bmask pinMode pin r c : Nat) : Option (List Nat × List (List Nat) × Nat × Nat) :=
  if pinMode = 2 then
    let g := min 199 pin
    let (r', c', _) := fitGrid g r c
    if g / 20 ∈ b.quaysOfSlot slot then some ([g / 20], [rectangle g r' c'], r', c') else none
  else
    match b.takePart slot mask with
    | none => none
    | some qs =>
      let us := qs.map fun q => unitsOf q bmask r c
      if us.any (fun u => decide (u = [])) then none else some (qs, us.flatten, r, c)

/-- Stealing is enabled: asked for, not pinned, in a partition of 5 to 10 Quays; and the clamp where it is not (R128). -/
def Body.stealOn (b : Body) (slot : Nat) (steal : Bool) (pinMode : Nat) : Bool × Nat :=
  let big := decide ((b.quaysOfSlot slot).length ≥ 5)
  (steal && big && decide (pinMode = 0), if steal && !big then 1 else 0)

/-- The Hold window of every claim unit lies in slices allotted to the context, powered and ready (R110, R122). -/
def Body.windowHeld (b : Body) (slot : Nat) (units : List (List Nat)) (off size : Nat) : Bool :=
  units.all fun u => u.all fun g =>
    decide (off + size ≤ 0x2000000) && decide (0 < size) &&
      ((regionsOf (holdAddr g off) size).all fun r => decide (b.allotOf r = slot + 1)) && b.rangeOk (holdAddr g off) size

/-! ### Operations in the body -/

/-- A context is being pre-empted: no new tile, claim slot, steal, frame or chunk of its commands begins (R134, R263, R304). -/
def Body.saving (b : Body) (slot : Nat) : Bool := decide (slot < 64) && decide (b.getF (.hmCtxStat slot) Fld.hmCtxStatState = 2)

/-- The tiled operation of a command. -/
def Body.opOf (b : Body) (uid : Nat) : Option TileOp := b.ops.find? fun o => decide (o.fl.uid = uid)

/-- Stores a changed operation. -/
def Body.setOp (b : Body) (o : TileOp) : Body := { b with ops := b.ops.map fun x => if x.fl.uid = o.fl.uid then o else x }

/-- The range in an operation's slot of a Quay: the first of those it has there. -/
def TileOp.range (o : TileOp) (q : Nat) : Option ClaimRange :=
  (o.ranges.find? fun p => decide (p.1 = q)).map (·.2)

/-- Changes the range in the slot of a Quay. -/
def TileOp.setRange (o : TileOp) (q : Nat) (r : ClaimRange) : TileOp :=
  { o with ranges :=
    match o.ranges.findIdx? fun p => decide (p.1 = q) with
    | some i => o.ranges.set i (q, r)
    | none => o.ranges }

/-- Where the range in a Quay's slot is worked out and another waits behind it, that takes its place (R134). -/
def TileOp.nextRange (o : TileOp) (q : Nat) : TileOp :=
  match o.ranges.findIdx? fun p => decide (p.1 = q) with
  | some i =>
    let r := (o.ranges.getD i (q, ⟨0, 0, 0⟩)).2
    if r.next = r.stop ∧ (o.ranges.drop (i + 1)).any (fun p => decide (p.1 = q)) then { o with ranges := o.ranges.eraseIdx i } else o
  | none => o

/-- The last phase of an operation: an ordered split and an ATTN_BATCH with MERGE items have two (R131, R226). -/
def TileOp.lastPhase (o : TileOp) : Nat :=
  if (o.kind = 0 ∧ o.job.mode = 1) ∨ (o.kind = 5 ∧ o.items.any fun x => decide (x.getD 0 0 = 1)) then 1 else 0

/-- No range has an unclaimed tile. -/
def TileOp.exhausted (o : TileOp) : Bool := o.ranges.all fun p => decide (p.2.next = p.2.stop)

/-- The points of an operation's sequence in its phase, each (i, j, s): the walk of an MM_OP, the reduce tasks in its order with
S ignored, the items of an ATTN_BATCH, else rows then columns (R124, R131, R189, R226, R236). -/
def TileOp.points (o : TileOp) : List (List Nat) :=
  let counts := [o.job.rows, o.job.cols, o.job.s]
  if o.kind = 0 then
    let (ls, given, _) :=
      if o.fl.cmd.length.toNat ≥ 2 then readyWalk (levelsOf (o.fl.cmd.words.drop 8) 2).1 counts
      else readyWalk [⟨0, 0, o.job.rows⟩, ⟨1, 0, o.job.cols⟩, ⟨2, 0, o.job.s⟩] counts
    let ps := walkPoints ls given counts
    if o.phase = 0 then ps else (ps.map fun p => p.take 2 ++ [0]).dedup
  else if o.kind = 5 then
    (List.range ((o.items.filter fun x => decide (x.getD 0 0 = o.phase)).length)).map fun t => [t, 0, 0]
  else (List.range (o.job.rows * o.job.cols)).map fun t => [t / o.job.cols, t % o.job.cols, 0]

/-- Mirrors an operation's slot of a Quay in its registers (R135). -/
def Body.syncSlot (b : Body) (o : TileOp) (q : Nat) : Body :=
  match o.slots.find? fun p => decide (p.1 = q) with
  | none => b
  | some p =>
    let r := (o.range q).getD ⟨0, 0, 0⟩
    let k : Reg := .qyClaimBase q p.2
    let b := ((b.setF k Fld.qyClaimBaseShareStart r.start).setF k Fld.qyClaimBaseTag o.fl.cmd.tag.toNat).setF k Fld.qyClaimBaseCtx
      o.fl.cmd.ctx.toNat
    (b.setF (.qyClaimSeq q p.2) Fld.qyClaimSeqNext r.next).setF (.qyClaimSeq q p.2) Fld.qyClaimSeqEnd r.stop

/-- An operation's part in a Quay ends: the Rafts it formed there are dissolved and its slot is free (R121, R127). -/
def Body.leaveQuay (b : Body) (o : TileOp) (q : Nat) : Body × TileOp :=
  let b := (o.formed.filter fun l => decide (l / 20 = q)).foldl (fun b l => if b.leads l then b.dissolveRaft l else b) b
  let o := { o with slots := o.slots.filter (fun p => decide (p.1 ≠ q)), formed := o.formed.filter fun l => decide (l / 20 ≠ q) }
  let b := b.setOp o
  ((o.units.flatten.filter fun g => decide (g / 20 = q)).foldl (fun b g => b.syncWork g) b, o)

/-- An operation is no longer in the Wharfingers: its Rafts are dissolved and its slots free. -/
def Body.dropOp (b : Body) (o : TileOp) : Body :=
  let (b, o) := o.quays.foldl (fun (p : Body × TileOp) q => p.1.leaveQuay p.2 q) (b, o)
  let b := { b with ops := b.ops.filter fun x => decide (x.fl.uid ≠ o.fl.uid) }
  let b := { b with crates.loads := b.crates.loads.filter fun l => decide (l.uid ≠ o.fl.uid) }
  o.units.flatten.foldl (fun b g => b.syncWork g) b

/-- The scalar register that takes a chain's amax (R187). -/
def amaxReg (ws : List Word) : Nat := (chW ws 15).fld 63 56

/-- Brings an operation to its end where it has one: a fault ends it with its status; else, in its last phase, a Quay whose
range is worked out and which cannot steal leaves it, and it completes when no tile is unclaimed (R127, R134, R187). -/
def Body.opCheck (b : Body) (uid : Nat) : Body :=
  match b.opOf uid with
  | none => b
  | some o =>
    if o.stopping then (b.dropOp o).retire o.fl o.status 0 true
    else if o.phase < o.lastPhase then b
    else if o.exhausted then
      let ws := o.fl.chain o.job.chain
      let b := b.dropOp o
      let b := if (chOut ws).scale = 3 then b.noteAmax uid (amaxReg ws) 0 else b
      b.finish uid
    else
      (o.slots.foldl (fun (p : Body × TileOp) s =>
        match p.2.range s.1 with
        | some r => if r.next = r.stop ∧ (¬ o.steal ∨ s.1 ∈ o.retired) then p.1.leaveQuay p.2 s.1 else p
        | none => p) (b, o)).1

/-! ### Starting and resuming (R126, R134, R306) -/

/-- The saved progress of an operation: its phase + 4 · its Quays, then rank in the partition, start, next and end of each range. -/
def TileOp.save (b : Body) (o : TileOp) : List Nat :=
  (o.phase + 4 * o.quays.length) :: (o.ranges.filter fun p => decide (p.2.next < p.2.stop)).flatMap fun p =>
    [(b.quaysOfSlot o.fl.slot).idxOf p.1, p.2.start, p.2.next, p.2.stop]

/-- The ranges of saved progress, dealt by rank modulo the partition's Quays, in increasing start order (R134, R306). -/
def dealt (qs : List Nat) (saved : List Nat) : List (Nat × ClaimRange) :=
  let rs := (List.range (saved.length / 4)).map fun i =>
    (qs.getD (saved.getD (4 * i) 0 % max 1 qs.length) 0, (⟨saved.getD (4 * i + 1) 0, saved.getD (4 * i + 2) 0, saved.getD (4 * i + 3) 0⟩ : ClaimRange))
  sortBy (fun x y => decide (x.2.start ≤ y.2.start)) rs

/-- An operation starts: its shares are cut, or its saved ranges go on; its handles and what it may access are kept until it
ends (R112, R126, R134). Quays that have saved ranges but take no part in the descriptor take part as those of rank do. -/
def Body.beginOp (b : Body) (o : TileOp) (clamps : Nat) (handles uses : List Nat) : Body :=
  let fl := o.fl
  let b := if fl.resumed then b else b.clampCmd fl clamps
  let fl := { fl with handles := handles.map (· / 65536), uses := uses, started := true }
  let o := { o with fl := fl, phase := fl.progress.headD 0 % 4 }
  let o :=
    if fl.progress = [] then { o with ranges := shares o.quays o.points.length }
    else
      let rs := dealt (b.quaysOfSlot fl.slot) fl.progress.tail
      { o with ranges := rs ++ (o.quays.filter fun q => !(rs.any fun p => decide (p.1 = q))).map fun q => (q, ⟨0, 0, 0⟩) }
  ({ b with ops := b.ops ++ [o] }.start fl).opCheck fl.uid

/-- A start whose checks fail ends with their status; the fields clamped before them are counted (R426, R427). -/
def Body.badStart (b : Body) (fl : Flight) (clamps status d0 : Nat) : Body :=
  (if fl.resumed then b else b.clampCmd fl clamps).fail fl status d0

/-! ### Claim slots (R121, R127) -/

/-- A free claim slot of a Quay. -/
def Body.freeSlot (b : Body) (q : Nat) : Option Nat :=
  (List.range 8).find? fun k => !(b.ops.any fun o => o.slots.any fun p => decide (p = (q, k)))

/-- A claim unit's Raft stands, or its single Berth is in none. -/
def Body.unitFormed (b : Body) (u : List Nat) (r c : Nat) : Bool :=
  let g := u.headD 0
  if r * c > 1 then b.leads g && decide (b.raftExtent g = (r, c)) else (b.berth g).lead.isNone

/-- Forms the Raft of a claim unit. -/
def Body.formUnit (b : Body) (o : TileOp) (u : List Nat) : Body × TileOp :=
  if b.unitFormed u o.job.rr o.job.rc then (b, o)
  else
    let g := u.headD 0
    (b.raftNow g o.job.rr o.job.rc, if o.job.rr * o.job.rc > 1 ∧ g ∉ o.formed then { o with formed := o.formed ++ [g] } else o)

/-- CLAIM_SLOT_LOAD (R121, R127): a waiting operation takes a free claim slot of a Quay once its Berths there are awake and its
Rafts can form, and loads its range; Berths in MOOR or LAYUP are asked to wake. -/
def execClaimSlotLoad (uid : Nat) (q : Fin 10) (s : State) : Host.Outcome State Fault Refusal :=
  s.onBody fun b =>
    match b.opOf uid with
    | none => b
    | some o =>
      let us := o.units.filter fun u => decide (u.headD 0 / 20 = q.val)
      if q.val ∉ o.quays ∨ o.stopping ∨ b.saving o.fl.slot ∨ q.val ∈ o.retired ∨ o.slots.any (fun p => decide (p.1 = q.val)) ∨ (o.range q).isNone then b
      else if ¬ us.flatten.all (fun g => decide (b.pwr g < 2)) then us.flatten.foldl (fun b g => b.askWake g) b
      else if ¬ us.all (fun u => b.unitFormed u o.job.rr o.job.rc || b.raftReady u) then b
      else
        match b.freeSlot q with
        | none => b
        | some k =>
          let (b, o) := us.foldl (fun (p : Body × TileOp) u => if o.kind < 6 then p.1.formUnit p.2 u else p) (b, o)
          let o := ({ o with slots := o.slots ++ [(q.val, k)] }).nextRange q
          let b := (b.setOp o).syncSlot o q
          (us.flatten.foldl (fun b g => b.syncWork g) b).opCheck uid

/-! ### Stealing (R128, R129) -/

/-- A Quay runs an operation with a PIN_MODE, so it is never a victim (R129). -/
def Body.pinned (b : Body) (q : Nat) : Bool :=
  b.ops.any fun o => decide (o.pin ≠ 0) && o.slots.any fun p => decide (p.1 = q)

/-- The victim of a thief: the taking-part Quay with the most unclaimed tiles, the lowest of equals, when it has 32. -/
def Body.victim (b : Body) (o : TileOp) (thief : Nat) : Option (Nat × ClaimRange) :=
  let cs := o.quays.filterMap fun q =>
    match o.range q with
    | some r => if q ≠ thief ∧ ¬ b.pinned q then some (q, r) else none
    | none => none
  let best := cs.foldl (fun (a : Option (Nat × ClaimRange)) x =>
    match a with
    | none => some x
    | some y => if x.2.stop - x.2.next > y.2.stop - y.2.next then some x else a) none
  match best with
  | some x => if x.2.stop - x.2.next < 32 then none else some x
  | none => none

/-- The operation of a Quay whose slot has reached its end and which may ask for work. -/
def Body.thiefOp (b : Body) (q : Nat) : Option TileOp :=
  b.ops.find? fun o =>
    o.steal && !o.stopping && !b.saving o.fl.slot && decide (q ∉ o.retired) && (o.slots.any fun p => decide (p.1 = q)) &&
      (match (o.nextRange q).range q with
        | some r => decide (r.next = r.stop)
        | none => false)

/-- STEAL_REQUEST (R128): the last 16 unclaimed tiles of the richest victim move to the thief, or it is refused. -/
def execStealRequest (q : Fin 10) (s : State) : Host.Outcome State Fault Refusal :=
  s.onBody fun b =>
    match b.thiefOp q with
    | none => b
    | some o =>
      match b.victim o q with
      | none =>
        let o := { o with retired := o.retired ++ [q.val] }
        ((b.setOp o).bump (.qyStealStat q) Fld.qyStealStatRefused 1).opCheck o.fl.uid
      | some (v, r) =>
        let t := (o.range q).getD ⟨0, 0, 0⟩
        let o := (o.setRange v { r with stop := r.stop - 16 }).setRange q { t with next := r.stop - 16, stop := r.stop }
        let b := ((b.setOp o).syncSlot o v).syncSlot o q
        (b.bump (.qyStealStat v) Fld.qyStealStatStolenOut 16).bump (.qyStealStat q) Fld.qyStealStatStolenIn 16

/-! ### Phases (R131, R226) -/

/-- The second phase of an operation starts once every tile of the first has completed: its tasks are shared anew. -/
def Body.nextPhase (b : Body) (uid kind : Nat) : Body :=
  match b.opOf uid with
  | none => b
  | some o =>
    if o.kind = kind ∧ o.phase < o.lastPhase ∧ o.exhausted ∧ ¬ o.stopping then
      let o := { o with phase := o.phase + 1, retired := [] }
      let o := { o with ranges := shares o.quays o.points.length }
      let b := b.setOp o
      (o.quays.foldl (fun b q => b.syncSlot o q) b).opCheck uid
    else b

/-- SPLIT_REDUCE_PHASE (R131). -/
def execSplitReducePhase (uid : Nat) (s : State) : Host.Outcome State Fault Refusal := s.onBody fun b => b.nextPhase uid 0

/-- MERGE_PHASE_START (R226). -/
def execMergePhaseStart (uid : Nat) (s : State) : Host.Outcome State Fault Refusal := s.onBody fun b => b.nextPhase uid 5

/-! ### What a tile answers -/

/-- The end of a tile: the state, the status it ends with (0: DONE), and the error record (code, details). -/
structure TileEnd where
  b : Body
  status : Nat := 0
  code : Nat := 0x0102
  d : List Nat := []

/-- The region of undefined bytes that stands for what a remote Gangway answers. -/
def remoteBase (g : Nat) : Nat := 0x50000000000000 + g * 0x1000000000000

/-- A load or copy of a block of an operand to or from a remote Gangway: its requests go over a Line; what it reads is free, and so
is the status (R357, R358; log entry 26). Answers the status, and the operand as local bytes. -/
def Body.remoteLoad (b : Body) (fl : Flight) (o : Opnd) (m n : Nat) : Nat × Opnd × Body :=
  if o.e.place ≠ 5 then (0, o, b)
  else
    match b.pickLine o.e.module (b.partOfSlot fl.slot) (dmaVc fl.cmd) with
    | (none, b) => (0x21, o, b)
    | (some l, b) =>
      let b := (o.spans m n).foldl (fun b s =>
        let msg : Msg := { port := .line l, kind := .remoteRead, nums := [o.e.module, o.e.gangway, o.e.base + s.1, s.2, o.e.key] }
        b.lineSend l (dmaVc fl.cmd) msg none) b
      let (w, b) := b.free
      let base := remoteBase o.e.gangway
      ([0, 0x13, 0x11, 0x20, 0x21, 0x41].getD (w.toNat % 6) 0, { o with e := { o.e with base := base } }, b.blurPart base o.e.size)

/-- The load of operand blocks into a Hold window: the traffic of a local one, or the requests of a remote one. -/
def Body.loadOpnd (b : Body) (fl : Flight) (o : Opnd) (m n point : Nat) : Nat × Opnd × Body :=
  if o.e.place = 5 then b.remoteLoad fl o m n
  else
    let (ecc, b) := b.readBlock fl o m n point
    (0, o, b.noteEcc fl.uid ecc)

/-- A claim unit's Trusses run a tile's passes of `k` K rows in blocks of at most `kb`: ramps from gated (R82), the shape last
used, issue ACLK and K rows counted (R88, R89, R459). -/
def Body.unitPasses (b : Body) (fl : Flight) (u : List Nat) (shape m n k kb : Nat) (fast : Bool) : Body :=
  let blocks := (List.range (ceilDiv k (max 1 kb))).map fun i => min kb (k - i * kb)
  let issue := (blocks.map fun x => if fast then ceilDiv x 2 else x).sum
  let b := u.foldl (fun b g =>
    let b := if b.flag (.brTrussStat g) Fld.brTrussStatGated ∨ (b.berth g).down then b.bump (.brTrussBusy g) Fld.brTrussBusyRamps 1 else b
    let b := (b.dropHeld g).updBerth g fun x => { x with down := false, geom := (shape, m, n) }
    let r : Reg := .brTrussStat g
    let b := ((b.setF r Fld.brTrussStatGated 0).setF r Fld.brTrussStatRampStep (b.rampSteps g)).setF r Fld.brTrussStatShape shape
    b.bump (.brTrussBusy g) Fld.brTrussBusyIssue issue) b
  b.count fl.slot 2 k

/-- The Hold window of a claim unit's Berths after loads: what lies there is undefined (R122). -/
def Body.blurWindow (b : Body) (o : TileOp) (u : List Nat) : Body :=
  u.foldl (fun b g => b.blur (holdAddr g o.job.hoff) (4 * o.job.part)) b

end Sys2Proof.Machine
end

