-- ==== Sys2Proof/Machine/Product.lean ====
section
/-!
DEFINITION. Tiled matrix products: MM_OP with its splits (R119-R131), and CONV_OP with its gather (R230-R237).
-/

namespace Sys2Proof.Machine

/-! ### Fields (R119, R231) -/

/-- The fields that MM_OP, CONV_OP and a SINGLE SCARF_OP share, as their descriptors give them. -/
structure MmFields where
  aH : Nat
  aOff : Nat
  bH : Nat
  bOff : Nat
  outH : Nat
  outOff : Nat
  tm : Nat
  tn : Nat
  shape : Nat
  rr : Nat := 0
  rc : Nat := 0
  chain : Nat
  acc : Nat
  drop : Bool
  mode : Nat := 0
  m : Nat
  n : Nat
  k : Nat
  s : Nat := 0
  pin : Nat
  kb : Nat
  scrH : Nat := 0
  quays : Nat
  bmask : Nat
  pinMode : Nat
  steal : Bool
  aPerq : Bool := false
  bPerq : Bool := false
  skipH : Nat
  hoff : Nat
  hsize : Nat

/-- The fields of an MM_OP (R119). -/
def mmFields (c : Cmd) : MmFields :=
  { aH := c.h 1, aOff := c.f 1 37 18, tm := c.f 1 17 8, shape := c.f 1 7 6, rr := c.f 1 5 4, rc := c.f 1 3 1,
    bH := c.h 2, bOff := c.f 2 37 18, tn := c.f 2 17 6, outH := c.h 3, outOff := c.f 3 37 18, chain := c.f 3 17 12,
    acc := c.f 3 11 10, drop := c.b 3 9, mode := c.f 3 8 7, m := c.f 4 63 32 + 1, n := c.f 4 31 0 + 1, k := c.f 5 63 32 + 1,
    s := c.f 5 31 24, pin := c.f 5 23 16, kb := c.f 5 15 0, scrH := c.h 6, quays := c.f 6 37 28, bmask := c.f 6 27 8,
    pinMode := c.f 6 7 6, steal := c.b 6 5, aPerq := c.b 6 4, bPerq := c.b 6 3, skipH := c.h 7, hoff := c.f 7 37 18,
    hsize := c.f 7 17 0 }

/-- Largest tile of a claim unit (R120). -/
def tileMost (shape rr rc : Nat) : Nat × Nat := if rr * rc > 1 then (256 * rr, 256 * rc) else shapeExtent shape

/-- The parameters of a product after clamps, for claim units of rr × rc, and the fields clamped (R119, R120, R130, R142, R186,
R426). -/
def jobOf (fl : Flight) (x : MmFields) (rr rc : Nat) : Job × Nat :=
  let shape := if rr * rc > 1 then 0 else min 2 x.shape
  let (tmx, tnx) := tileMost shape rr rc
  let tm := min tmx (x.tm + 1)
  let mode := min 2 x.mode
  let chain := if mode = 2 then 0 else x.chain
  let co := chOut (fl.chain chain)
  let tn0 := min tnx (x.tn + 1)
  let tn := if isMx co.fmt ∨ co.scale = 2 then max 32 (tn0 / 32 * 32) else tn0
  let acc := if mode = 2 then 0 else if x.acc ≥ 2 then 2 else 0
  let kb := max 1 (min 2048 x.kb)
  let s := if mode = 0 then 1 else min (x.s + 1) (ceilDiv x.k 32)
  let cols := ceilDiv x.n tn
  let m := if ceilDiv x.m tm * cols * s > 2 ^ 32 - 1 then max 1 ((2 ^ 32 - 1) / (cols * s)) * tm else x.m
  ({ m := m, n := x.n, k := x.k, tm := tm, tn := tn, rows := ceilDiv m tm, cols := cols, s := s, shape := shape, rr := rr,
     rc := rc, acc := acc, drop := x.drop, mode := mode, kb := 32 * kb, chain := chain, hoff := 32 * x.hoff, part := 32 * x.hsize },
    diff rr (x.rr + 1) + diff rc (x.rc + 1) + diff shape x.shape + diff tm (x.tm + 1) + diff tn (x.tn + 1) + diff mode x.mode +
      diff chain x.chain + diff acc x.acc + diff kb x.kb + (if mode = 0 then 0 else diff s (x.s + 1)) + diff m x.m +
      rowStages (fl.chain chain))

/-- The clamps of placement: PIN_MODE, PIN_BERTH, STEAL. -/
def Body.placeClamps (b : Body) (slot : Nat) (x : MmFields) : Nat :=
  diff (min 2 x.pinMode) x.pinMode + (if min 2 x.pinMode = 2 then diff (min 199 x.pin) x.pin else 0) +
    (b.stealOn slot x.steal (min 2 x.pinMode)).2

/-! ### Entries (R110, R119, R129) -/

/-- A failure status with the handle. -/
abbrev Bad := Nat × Nat

/-- An operand that loads read (R110, R119, R122, R129): readable, no CRATE entry, a format that reaches the cells; in a Hold only
the pinned Berth's own. -/
def Body.loadEntry (b : Body) (slot h : Nat) (pin : Option Nat) : Except Bad Entry :=
  match b.resolve slot h with
  | none => .error (0x12, h)
  | some e =>
    let own : Bool := match pin with
      | some g => inOwnHold e g
      | none => false
    if ¬ e.rd ∨ e.layout = 4 ∨ e.fmt ≥ 11 ∨ (e.place = 0 ∧ ¬ own) then .error (0x11, h) else .ok e

/-- The handle of entry index A + k at its current generation (R119). -/
def Body.nextHandle (b : Body) (slot h k : Nat) : Nat := (h / 65536 + k) * 65536 + (b.entry slot (h / 65536 + k)).gen

/-- An operand by rank of Quay: with A_PERQ (B_PERQ) entry A + k for rank k, at its current generation (R119). -/
def Body.perQuay (b : Body) (slot h : Nat) (pin : Option Nat) (per : Bool) : Nat → Except Bad (List Entry × List Nat)
  | 0 => .ok ([], [])
  | n + 1 => do
    let (es, hs) ← Body.perQuay b slot h pin per n
    let hk := if per ∧ n > 0 then b.nextHandle slot h n else h
    if hk / 65536 > 1023 then .error (0x12, h)
    else
      let e ← b.loadEntry slot hk pin
      .ok (es ++ [e], hs ++ [hk])

/-- The destination of drains, and C where it is read (R110): local, and in a Hold only of the Berth that drains. -/
def Body.drainEntry (b : Body) (slot h : Nat) (rd : Bool) (units : List (List Nat)) : Except Bad Entry :=
  match b.resolve slot h with
  | none => .error (0x12, h)
  | some e =>
    if ¬ e.wr ∨ (rd ∧ ¬ e.rd) ∨ e.layout = 4 ∨ e.place = 5 ∨ (e.place = 0 ∧ ¬ units.flatten.all fun g => inOwnHold e g) then
      .error (0x11, h)
    else .ok e

/-- A skip map of `n` bits (R127); a field of zeros names none. -/
def Body.skipEntry (b : Body) (slot h n : Nat) : Except Bad (Option Entry) :=
  if h = 0 then .ok none
  else
    match b.access slot h 0 (ceilDiv n 8) false with
    | .error st => .error (st, h)
    | .ok e => if e.place = 5 ∨ e.layout = 4 then .error (0x11, h) else .ok (some e)

/-- Bytes of a K block of 32 of a panel of `n` rows or columns, scale bytes included (R122). -/
def panel32 (fmt n : Nat) : Nat := n * (4 * elemBits fmt) + (if isMx fmt then n else 0)

/-- The largest K block that fits a part (R122). -/
def kFit (j : Job) (a b : Entry) : Nat :=
  let big := decide (j.rr * j.rc > 1)
  let ar := if big then min 256 j.tm else j.tm
  let bc := if big then min 256 j.tn else j.tn
  32 * (j.part / max 1 (max (panel32 a.fmt ar) (panel32 b.fmt bc)))

/-- A requirement at an operation's start. -/
def need (ok : Bool) (status h : Nat) : Except Bad Unit := if ok then .ok () else .error (status, h)

/-- The checks of OUT that every product shares: origin, and, where a chain drains into it, format and Jigs (R109, R179, R185). -/
def Body.outChecks (b : Body) (fl : Flight) (j : Job) (out : Entry) (outH outOff g : Nat) : Except Bad Unit := do
  need (opndOwn out outOff).isSome 0x11 outH
  if j.mode = 2 then need (decide ((out.place = 2 ∨ out.place = 3) ∧ (out.fmt = 8 ∨ out.fmt = 10))) 0x11 outH
  else
    need (outMatches (chOut (fl.chain j.chain)) out) 0x11 outH
    need (b.chainJigsOk (epiEnv fl j.chain g)) 0x12 outH

/-- A TENSOR output's S that is taken as 1.0 counts once (R187). -/
def sClamp (fl : Flight) (j : Job) (out : Entry) : Nat := if (chOut (fl.chain j.chain)).scale = 3 then (tensorS out).2 else 0

/-! ### Writing a tile -/

/-- The parts of a claim unit's tile that run through a chain of their own: each Raft member's, or the whole under a TILE scale (R143,
R186). -/
def chainParts (o : TileOp) (u : List Nat) (m n : Nat) : List (Nat × Nat × Nat × Nat × Nat) :=
  let raft := decide (u.length > 1) && decide ((chOut (o.fl.chain o.job.chain)).scale ≠ 2)
  tileParts (u.headD 0) o.job.rc m n raft

/-- A tile's drained values run through the chain to OUT (R143, R187). -/
def Body.tileOut (b : Body) (o : TileOp) (u : List Nat) (oo : Opnd) (m n : Nat) (vals : List Nat) : TileEnd :=
  let fl := o.fl
  let ps := chainParts o u m n
  if ps.all fun p => (epiEnv fl o.job.chain p.1).benchOk p.2.2.2.1 p.2.2.2.2 then
    let b := ps.foldl (fun b p =>
      let v := epiEnv fl o.job.chain p.1
      let b := if chainUsesBench v.words then b.benchTake p.1 fl.cmd.ctx.toNat else b
      let (ecc, am, b) := b.epilogue fl v oo p.2.1 p.2.2.1 p.2.2.2.1 p.2.2.2.2 (partVals vals n p) (p.1 / 20)
      let b := b.noteEcc fl.uid ecc
      if (chOut v.words).scale = 3 then b.noteAmax fl.uid (amaxReg v.words) am else b) b
    { b := b }
  else { b := b, status := 0x11 }

/-- Rows of FP32 words written to a plain row-major block at a pitch, for a command. -/
def Body.putF32 (b : Body) (fl : Flight) (base pitch m n : Nat) (vals : List Nat) (point : Nat) : Body :=
  (List.range m).foldl (fun b r =>
    let bs := ((vals.drop (r * n)).take n).flatMap fun x => leBytes 4 x
    let b := b.tierTraffic fl.slot (base + r * pitch) (4 * n) true point
    let (ecc, b) := b.storePlain fl (base + r * pitch) bs
    b.noteEcc fl.uid ecc) b

/-- FP32 words read from such a block. -/
def Body.getF32 (b : Body) (base pitch m n : Nat) : List Nat :=
  (List.range m).flatMap fun r => (List.range n).map fun c => b.le (base + r * pitch + 4 * c) 4

/-- The read of such a block for a command: traffic and uncorrectable sectors. -/
def Body.readF32 (b : Body) (fl : Flight) (base pitch m n point : Nat) : Body :=
  (List.range m).foldl (fun b r =>
    let b := b.tierTraffic fl.slot (base + r * pitch) (4 * n) false point
    match b.badIn (base + r * pitch) (4 * n) with
    | some x => (b.eccRead fl x).noteEcc fl.uid true
    | none => b) b

/-- Drained values added into OUT by the memory-side adders, rounded once into OUT's format (R55, R130). -/
def Body.addInto (b : Body) (fl : Flight) (oo : Opnd) (m n : Nat) (vals : List Nat) (point : Nat) : Body :=
  (List.range m).foldl (fun b r =>
    let codes := (List.range n).map fun c =>
      ((fmtOf oo.e.fmt).conv 0 false false ((b.elem oo r c).1.add (ofF32 (vals.getD (r * n + c) 0)))).1
    let (ecc, b) := b.writeRow fl oo r 0 codes point
    b.noteEcc fl.uid ecc) b

/-! ### MM_OP -/

/-- Offset in SCRATCH of a split's partial (R130). -/
def scratchOff (j : Job) (i c s : Nat) : Nat := ((i * j.cols + c) * j.s + s) * (j.tm * j.tn * 4)

/-- An operation as its start resolves it: with its clamps, handles and what it may access. -/
structure Started where
  op : TileOp
  clamps : Nat
  handles : List Nat
  uses : List Nat

/-- The regions an operation may access: its windows and its operands in Holds and Sheds. -/
def opRegions (j : Job) (units : List (List Nat)) (es : List Entry) : List Nat :=
  ((units.flatten.flatMap fun g => regionsOf (holdAddr g j.hoff) (4 * j.part)) ++
    (es.filter fun e => decide (e.place < 2)).flatMap fun e => regionsOf e.base e.size).dedup

/-- A product's parameters, for the claim units it is placed on, and the fields clamped (R119, R120, R128, R426). -/
def Body.placedJob (b : Body) (fl : Flight) (x : MmFields) : Job × Nat :=
  let r := match b.place fl.slot x.quays x.bmask (min 2 x.pinMode) x.pin (x.rr + 1) (min 5 (x.rc + 1)) with
    | some (_, _, rr, rc) => (rr, rc)
    | none => (x.rr + 1, min 5 (x.rc + 1))
  let j := jobOf fl x r.1 r.2
  (j.1, j.2 + b.placeClamps fl.slot x)

/-- The fields of an MM_OP that are clamped, its walk's among them (R119, R124). -/
def Body.mmClamps (b : Body) (fl : Flight) (x : MmFields) : Nat :=
  let (j, n) := b.placedJob fl x
  if fl.cmd.length.toNat ≥ 2 then
    let (ls, k) := levelsOf (fl.cmd.words.drop 8) 2
    n + k + (readyWalk ls [j.rows, j.cols, j.s]).2.2
  else n

/-- What MM_OP resolves and checks at its start (R119-R122, R129, R130). -/
def Body.mmStart (b : Body) (fl : Flight) (x : MmFields) : Except Bad Started := do
  let pm := min 2 x.pinMode
  match b.place fl.slot x.quays x.bmask pm x.pin (x.rr + 1) (min 5 (x.rc + 1)) with
  | none => .error (0x11, x.quays)
  | some (qs, us, rr, rc) =>
    let j := (jobOf fl x rr rc).1
    let pin := if pm = 2 then some (min 199 x.pin) else none
    let (as, ha) ← b.perQuay fl.slot x.aH pin x.aPerq qs.length
    let (bs, hb) ← b.perQuay fl.slot x.bH pin x.bPerq qs.length
    let out ← b.drainEntry fl.slot x.outH (decide (j.acc = 2 ∨ j.mode = 2)) us
    need (as.all fun e => (opndStream e false x.aOff).isSome) 0x11 x.aH
    need (bs.all fun e => (opndStream e true x.bOff).isSome) 0x11 x.bH
    b.outChecks fl j out x.outH x.outOff (us.flatten.headD 0)
    let scr ← if j.mode = 1 then
        match b.access fl.slot x.scrH 0 (j.rows * j.cols * j.s * j.tm * j.tn * 4) true with
        | .error st => Except.error (st, x.scrH)
        | .ok e => if 1 ≤ e.place ∧ e.place ≤ 3 ∧ e.rd ∧ e.layout ≠ 4 then Except.ok (some e) else Except.error (0x11, x.scrH)
      else Except.ok none
    let skip ← b.skipEntry fl.slot x.skipH (j.rows * j.cols)
    need (b.windowHeld fl.slot us j.hoff (4 * j.part)) 0x11 0
    need ((as.zip bs).all fun p => decide (kFit j p.1 p.2 ≥ 32)) 0x11 0
    .ok { op := { fl := fl, kind := 0, job := j, a := as, b := bs, out := out, scr := scr, skip := skip, quays := qs, units := us,
                  steal := (b.stealOn fl.slot x.steal pm).1, pin := pm },
          clamps := b.mmClamps fl x + sClamp fl j out,
          handles := ha ++ hb ++ [x.outH] ++ (if j.mode = 1 then [x.scrH] else []) ++ (if x.skipH = 0 then [] else [x.skipH]),
          uses := opRegions j us (as ++ bs ++ [out] ++ scr.toList) }

/-- MM_OP (R119). -/
def execMmOp (c : Cmd) (s : State) : Host.Outcome State Fault Refusal :=
  s.onBody fun b => b.onCmd c 0x40 fun b fl =>
    match b.mmStart fl (mmFields c) with
    | .error (st, h) => b.badStart fl (b.mmClamps fl (mmFields c)) st h
    | .ok r => b.beginOp r.op r.clamps r.handles r.uses

/-- The chunk range of split `s` as K indices (R130). -/
def splitRange (j : Job) (s : Nat) : Nat × Nat :=
  let nch := ceilDiv j.k 32
  (32 * (s * nch / j.s), min j.k (32 * ((s + 1) * nch / j.s)))

/-- The K block of a tile whose split has a K length (R122). -/
def kBlock (j : Job) (fit len : Nat) : Nat := min fit (min j.kb (max 32 (len / 32 * 32)))

/-- Two K rows an ACLK (R68). -/
def fastPass (shape fa fb m n : Nat) : Bool :=
  decide (fa = 6 ∧ fb = 6 ∧ m ≤ (if shape = 0 then 256 else 64) ∧ n ≤ (if shape = 0 then 256 else 512))

/-- A panel of a claim unit's last tile is not loaded again when the tile's K range is one block (R122). -/
def sameA (o : TileOp) (g : Nat) (p : List Nat) : Bool :=
  match SMap.find o.last g with
  | some l => decide (l.getD 0 0 = p.getD 0 0 ∧ l.getD 2 0 = p.getD 2 0)
  | none => false

/-- As `sameA`, for B. -/
def sameB (o : TileOp) (g : Nat) (p : List Nat) : Bool :=
  match SMap.find o.last g with
  | some l => decide (l.getD 1 0 = p.getD 1 0 ∧ l.getD 2 0 = p.getD 2 0)
  | none => false

/-- Loads a panel, or keeps the one the window holds. -/
def Body.panel (b : Body) (fl : Flight) (kept : Bool) (o : Opnd) (m n point : Nat) : Nat × Opnd × Body :=
  if kept then (0, if o.e.place = 5 then { o with e := { o.e with base := remoteBase o.e.gangway } } else o, b)
  else b.loadOpnd fl o m n point

/-- Where a drained product goes (R130): SCRATCH, the adders, or the chain. -/
def Body.mmPut (b : Body) (o : TileOp) (u p : List Nat) (oo : Opnd) (m n : Nat) (ea eb : Entry) (acc : List Nat) : TileEnd :=
  let j := o.job
  let q := u.headD 0 / 20
  if j.mode = 1 then
    match o.scr with
    | none => { b := b, status := 0x11 }
    | some e =>
      { b := b.putF32 o.fl (e.base + scratchOff j (p.getD 0 0) (p.getD 1 0) (p.getD 2 0)) (4 * j.tn) m n acc q }
  else
    let vals := acc.map fun x => drainVal x (tensorOf ea) (tensorOf eb)
    if j.mode = 2 then { b := b.addInto o.fl oo m n vals q } else b.tileOut o u oo m n vals

/-- Tile (i, j, s) of an MM_OP on a claim unit (R120, R122, R130). -/
def Body.mmTile (b : Body) (o : TileOp) (u p : List Nat) : TileEnd :=
  let j := o.job
  let x := mmFields o.fl.cmd
  let g := u.headD 0
  let q := g / 20
  let rank := o.quays.idxOf q
  let ea := o.a.getD rank (o.a.headD {})
  let eb := o.b.getD rank (o.b.headD {})
  let r0 := p.getD 0 0 * j.tm
  let c0 := p.getD 1 0 * j.tn
  let m := min j.tm (j.m - r0)
  let n := min j.tn (j.n - c0)
  let (k0, k1) := splitRange j (p.getD 2 0)
  let len := k1 - k0
  match opndStream ea false x.aOff, opndStream eb true x.bOff, opndOwn o.out x.outOff with
  | some oa, some ob, some oo =>
    let oa := oa.shift r0 k0
    let ob := ob.shift k0 c0
    let oo := oo.shift r0 c0
    let withC := decide (j.acc = 2 ∧ p.getD 2 0 = 0)
    if ¬ (b.blockMay oa m len false ∧ b.blockMay ob len n false ∧ (j.mode = 1 ∨ b.blockMay oo m n true) ∧
        (¬ withC ∨ b.blockMay oo m n false)) then { b := b, status := 0x11 }
    else
      let kb := kBlock j (kFit j ea eb) len
      let one := decide (len ≤ kb)
      let (st1, oa, b) := b.panel o.fl (one && sameA o g p) oa m len q
      let (st2, ob, b) := b.panel o.fl (one && sameB o g p) ob len n q
      if st1 ≠ 0 ∨ st2 ≠ 0 then { b := b, status := if st1 ≠ 0 then st1 else st2 }
      else
        let (ecc, b) := if withC then b.readBlock o.fl oo m n q else (false, b)
        let b := b.noteEcc o.fl.uid ecc
        let c : List Nat := if withC then (List.range m).flatMap fun r => (List.range n).map fun y => b.elemF32 oo r y else []
        let as := (List.range m).map fun r => b.streamRow oa false r 0 len
        let bs := (List.range n).map fun y => b.streamRow ob true y 0 len
        let acc := tileAcc j.drop as bs c
        let b := b.unitPasses o.fl u j.shape m n len kb (fastPass j.shape ea.fmt eb.fmt m n)
        (b.blurWindow o u).mmPut o u p oo m n ea eb acc
  | _, _, _ => { b := b, status := 0x11 }

/-- Reduce task (i, j) of an ordered split (R131). -/
def Body.reduceTile (b : Body) (o : TileOp) (u p : List Nat) : TileEnd :=
  let j := o.job
  let x := mmFields o.fl.cmd
  let q := u.headD 0 / 20
  let rank := o.quays.idxOf q
  let r0 := p.getD 0 0 * j.tm
  let c0 := p.getD 1 0 * j.tn
  let m := min j.tm (j.m - r0)
  let n := min j.tn (j.n - c0)
  match o.scr, opndOwn o.out x.outOff with
  | some e, some oo =>
    let oo := oo.shift r0 c0
    let at_ (s : Nat) : Nat := e.base + scratchOff j (p.getD 0 0) (p.getD 1 0) s
    if ¬ b.blockMay oo m n true then { b := b, status := 0x11 }
    else
      let b := (List.range j.s).foldl (fun b s => b.readF32 o.fl (at_ s) (4 * j.tn) m n q) b
      let first := b.getF32 (at_ 0) (4 * j.tn) m n
      let sum := (List.range (j.s - 1)).foldl (fun r s =>
        (r.zip (b.getF32 (at_ (s + 1)) (4 * j.tn) m n)).map fun y => f32Add y.1 y.2) first
      let sa := tensorOf (o.a.getD rank {})
      let sb := tensorOf (o.b.getD rank {})
      b.tileOut o u oo m n (sum.map fun y => drainVal y sa sb)
  | _, _ => { b := b, status := 0x11 }

/-! ### CONV_OP (R231-R237) -/

/-- One axis of a convolution: input extent after UPS, taps, dilation, stride, pads after clamps, output extent. -/
structure Axis where
  i : Nat
  k : Nat
  d : Nat
  s : Nat
  lo : Nat
  hi : Nat
  o : Nat
deriving DecidableEq, Repr

/-- An axis with its pads clamped (R232), and the fields changed. -/
def axisOf (i k d s lo hi : Nat) (reflect : Bool) : Axis × Nat :=
  let lim := if reflect then min (d * (k - 1)) (i - 1) else d * (k - 1)
  let lo' := min lo lim
  let h1 := min hi lim
  let hi' := max h1 (d * (k - 1) + 1 - (i + lo'))
  (⟨i, k, d, s, lo', hi', (i + lo' + hi' - d * (k - 1) - 1) / max 1 s + 1⟩, diff lo' lo + diff hi' hi)

/-- The geometry of a CONV_OP: channels, the three axes (time, rows, columns), PAD_MODE, UPS. -/
structure Conv where
  cin : Nat
  cout : Nat
  t : Axis
  y : Axis
  x : Axis
  pad : Nat
  ups : Nat
deriving DecidableEq, Repr

/-- The geometry for an input entry, and the fields clamped (R231, R232). -/
def convOf (c : Cmd) (e : Entry) : Conv × Nat :=
  let ups := min 2 (c.f 5 31 30)
  let pad := c.f 5 29 28
  let refl := decide (pad = 2)
  let kt := min 7 (c.f 5 2 0 + 1)
  let pd (i : Nat) : Nat := c.f 6 (8 * i + 7) (8 * i)
  let (t, n1) := axisOf (planarF e * (if ups = 2 then 2 else 1)) kt (c.f 5 21 19 + 1) (c.f 5 14 13 + 1) (pd 0) (pd 1) refl
  let (y, n2) := axisOf (e.rows * (if ups ≥ 1 then 2 else 1)) (c.f 5 7 3 + 1) (c.f 5 24 22 + 1) (c.f 5 16 15 + 1) (pd 2) (pd 3) refl
  let (x, n3) := axisOf (e.cols * (if ups ≥ 1 then 2 else 1)) (c.f 5 12 8 + 1) (c.f 5 27 25 + 1) (c.f 5 18 17 + 1) (pd 4) (pd 5) refl
  ({ cin := c.f 4 15 0 + 1, cout := c.f 4 31 16 + 1, t := t, y := y, x := x, pad := pad, ups := ups },
    n1 + n2 + n3 + diff kt (c.f 5 2 0 + 1) + diff ups (c.f 5 31 30))

/-- The coordinate read at `u` on an axis of extent `n`; none for +0 (R233). -/
def padAt (mode n : Nat) (u : Int) : Option Nat :=
  if 0 ≤ u ∧ u < (n : Int) then some u.toNat
  else
    match mode with
    | 0 => none
    | 1 => some (min (n - 1) u.toNat)
    | 2 => some (min (n - 1) (if u < 0 then (-u).toNat else (2 * ((n : Int) - 1) - u).toNat))
    | _ => some (u % (n : Int)).toNat

/-- The sub-filters along an axis of `k` taps: first tap and taps (R234). -/
def subFilters (k : Nat) (direct : Bool) : List (Nat × Nat) :=
  if direct then [(0, k)] else (List.range (ceilDiv k 7)).map fun a => (7 * a, min 7 (k - 7 * a))

/-- The K indices of a convolution in order: tap (i, j, l) and channel, or a padding index (R234). -/
def convK (v : Conv) : List (Option (Nat × Nat × Nat × Nat)) :=
  let direct := decide (v.y.k ≤ 7 ∧ v.x.k ≤ 7)
  (subFilters v.y.k direct).flatMap fun a => (subFilters v.x.k direct).flatMap fun c =>
    let ks := (List.range (v.t.k * a.2 * c.2 * v.cin)).map fun x =>
      let tap := x / v.cin
      some (tap / (a.2 * c.2), a.1 + tap / c.2 % a.2, c.1 + tap % c.2, x % v.cin)
    if direct then ks else ks ++ List.replicate ((32 - ks.length % 32) % 32) none

/-- The element of IN that output pixel `n` takes at a tap and channel: channel and flattened pixel; none for +0 (R233). -/
def convSrc (v : Conv) (e : Entry) (n : Nat) (k : Nat × Nat × Nat × Nat) : Option (Nat × Nat) :=
  let t := n / (v.y.o * v.x.o)
  let y := n / v.x.o % v.y.o
  let x := n % v.x.o
  let at_ (a : Axis) (o tap : Nat) : Option Nat := padAt v.pad a.i ((o * a.s + tap * a.d : Int) - a.lo)
  match at_ v.t t k.1, at_ v.y y k.2.1, at_ v.x x k.2.2.1 with
  | some f, some r, some c =>
    let f := if v.ups = 2 then f / 2 else f
    let r := if v.ups ≥ 1 then r / 2 else r
    let c := if v.ups ≥ 1 then c / 2 else c
    some (k.2.2.2, (f * e.rows + r) * e.cols + c)
  | _, _, _ => none

/-- The fields of a CONV_OP for an input's geometry (R231). -/
def convFields (c : Cmd) (v : Conv) : MmFields :=
  { aH := c.h 1, aOff := c.f 1 37 18, tm := c.f 1 17 8, shape := c.f 1 7 6, rr := c.f 1 5 4, rc := c.f 1 3 1,
    bH := c.h 2, bOff := 0, tn := c.f 2 17 6, outH := c.h 3, outOff := c.f 3 37 18, chain := c.f 3 17 12,
    acc := c.f 3 11 10, drop := c.b 3 9, m := v.cout, n := v.t.o * v.y.o * v.x.o, k := (convK v).length,
    pin := c.f 5 55 48, kb := c.f 5 47 32, quays := c.f 7 37 28, bmask := c.f 7 27 8, pinMode := c.f 7 7 6, steal := c.b 7 5,
    skipH := c.h 8, hoff := c.f 8 37 18, hsize := c.f 8 17 0 }

/-- OUT holds the outputs and IN the inputs (R232). -/
def convFits (v : Conv) (inp out : Entry) : Bool :=
  decide (inp.layout = 3 ∧ out.layout = 3 ∧ planarC inp ≥ v.cin ∧ planarC out ≥ v.cout ∧ planarF out ≥ v.t.o ∧ out.rows ≥ v.y.o ∧
    out.cols ≥ v.x.o)

/-- The fields of a CONV_OP that are clamped (R231, R232). Where IN does not load, no extent of it clamps a field: its geometry is that of an
input no pad runs past, with one output pixel. -/
def Body.convClamps (b : Body) (fl : Flight) : Nat :=
  let pin := if min 2 (fl.cmd.f 7 7 6) = 2 then some (min 199 (fl.cmd.f 5 55 48)) else none
  match b.loadEntry fl.slot (fl.cmd.h 2) pin with
  | .ok inp => (convOf fl.cmd inp).2 + (b.placedJob fl (convFields fl.cmd (convOf fl.cmd inp).1)).2
  | .error _ =>
    let v := convOf fl.cmd { rows := 65536, cols := 65536, param := 65535 }
    v.2 + (b.placedJob fl { convFields fl.cmd v.1 with n := 1 }).2

/-- What CONV_OP resolves and checks at its start (R231, R232, R236). -/
def Body.convStart (b : Body) (fl : Flight) : Except Bad Started := do
  let c := fl.cmd
  let pm := min 2 (c.f 7 7 6)
  let pin := if pm = 2 then some (min 199 (c.f 5 55 48)) else none
  let inp ← b.loadEntry fl.slot (c.h 2) pin
  let v := (convOf c inp).1
  let x := convFields c v
  match b.place fl.slot x.quays x.bmask pm x.pin (x.rr + 1) (min 5 (x.rc + 1)) with
  | none => .error (0x11, x.quays)
  | some (qs, us, rr, rc) =>
    let j := (jobOf fl x rr rc).1
    let fil ← b.loadEntry fl.slot x.aH pin
    need (decide (fil.fmt ≤ 10)) 0x11 x.aH
    let out ← b.drainEntry fl.slot x.outH (decide (j.acc = 2)) us
    need (convFits v inp out) 0x11 x.outH
    need (opndStream fil false x.aOff).isSome 0x11 x.aH
    b.outChecks fl j out x.outH x.outOff (us.flatten.headD 0)
    let skip ← b.skipEntry fl.slot x.skipH (j.rows * j.cols)
    need (b.windowHeld fl.slot us j.hoff (4 * j.part)) 0x11 0
    need (decide (kFit j fil inp ≥ 32)) 0x11 0
    .ok { op := { fl := fl, kind := 1, job := j, a := [fil], b := [inp], out := out, skip := skip, quays := qs, units := us,
                  steal := (b.stealOn fl.slot x.steal pm).1, pin := pm },
          clamps := b.convClamps fl + sClamp fl j out,
          handles := [x.aH, x.bH, x.outH] ++ (if x.skipH = 0 then [] else [x.skipH]),
          uses := opRegions j us [fil, inp, out] }

/-- CONV_OP (R231). -/
def execConvOp (c : Cmd) (s : State) : Host.Outcome State Fault Refusal :=
  s.onBody fun b => b.onCmd c 0x42 fun b fl =>
    match b.convStart fl with
    | .error (st, h) => b.badStart fl (b.convClamps fl) st h
    | .ok r => b.beginOp r.op r.clamps r.handles r.uses

/-- Chunks of 32 of a list. -/
def chunks32 {α : Type} (l : List α) : List (List α) := (List.range (ceilDiv l.length 32)).map fun i => (l.drop (32 * i)).take 32

/-- Row `m` of the filter over the K order, whose buffer holds the logical K indices without padding (R234). -/
def Body.filterRow (b : Body) (o : Opnd) (ks : List (Option Nat)) (m : Nat) : List KRow :=
  (chunks32 ks).map fun l =>
    let sc := match l.filterMap id with
      | k :: _ => (b.elem o m k).2
      | [] => 127
    kRow o.e.fmt sc (l.map fun k => match k with
      | some k => (b.elem o m k).1
      | none => .fin false 0 0)

/-- Pixel `n` of the gathered operand over the K order (R233, R235). -/
def Body.gatherRow (b : Body) (v : Conv) (o : Opnd) (ks : List (Option (Nat × Nat × Nat × Nat))) (n : Nat) : List KRow :=
  (chunks32 ks).map fun l =>
    kRow o.e.fmt 127 (l.map fun k => match k.bind (convSrc v o.e n) with
      | some (c, px) => (b.elem o c px).1
      | none => .fin false 0 0)

/-- The logical index of each K index (R234). -/
def logicalK {α : Type} (ks : List (Option α)) : List (Option Nat) :=
  (ks.foldl (fun (p : List (Option Nat) × Nat) k => match k with
    | some _ => (some p.2 :: p.1, p.2 + 1)
    | none => (none :: p.1, p.2)) ([], 0)).1.reverse

/-- The offsets of the input elements a tile gathers, each once (R235). -/
def gatherOffs (v : Conv) (o : Opnd) (ks : List (Option (Nat × Nat × Nat × Nat))) (c0 n : Nat) : List Nat :=
  (ks.filterMap id).flatMap (fun k => (List.range n).filterMap fun i =>
    (convSrc v o.e (c0 + i) k).map fun s => (unitOff o.e 3 s.1 s.2).1) |>.dedup

/-- A gather for a command: every element within its buffer, and each sector fetched once a tile (R110, R235). -/
def Body.gather (b : Body) (fl : Flight) (o : Opnd) (offs : List Nat) (point : Nat) : Body :=
  ((offs.map fun x => (o.e.base + x) / 32).dedup).foldl (fun b s =>
    let b := b.tierTraffic fl.slot (32 * s) 32 false point
    match b.badIn (32 * s) 32 with
    | some x => (b.eccRead fl x).noteEcc fl.uid true
    | none => b) b

/-- Free words in place of accumulators whose value the spec does not state (log entry 38). -/
def Body.freeWords (b : Body) : Nat → List Nat × Body
  | 0 => ([], b)
  | n + 1 =>
    let (w, b) := b.free
    let (l, b) := Body.freeWords b n
    (w.toNat % 2 ^ 32 :: l, b)

/-- Tile (i, j) of a CONV_OP on a claim unit (R233-R236). -/
def Body.convTile (b : Body) (o : TileOp) (u p : List Nat) : TileEnd :=
  let j := o.job
  let g := u.headD 0
  let q := g / 20
  let fil := o.a.headD {}
  let inp := o.b.headD {}
  let (v, _) := convOf o.fl.cmd inp
  let x := convFields o.fl.cmd v
  let ks := convK v
  let r0 := p.getD 0 0 * j.tm
  let c0 := p.getD 1 0 * j.tn
  let m := min j.tm (j.m - r0)
  let n := min j.tn (j.n - c0)
  let ob : Opnd := ⟨inp, 3, 0, 0, 0, none⟩
  match opndStream fil false x.aOff, opndOwn o.out x.outOff with
  | some oa, some oo =>
    let oa := oa.shift r0 0
    let oo := { oo with view := some (v.y.o, v.x.o, c0) }
    let oo := oo.shift r0 0
    let lk := logicalK ks
    let kl := (lk.filterMap id).length
    let offs := gatherOffs v ob ks c0 n
    let eb := elemBits inp.fmt / 8
    if ¬ (b.blockMay oa m kl false ∧ offs.all (fun f => b.accessOk inp f eb false) ∧ b.blockMay oo m n true ∧
        (j.acc ≠ 2 ∨ b.blockMay oo m n false)) then { b := b, status := 0x11 }
    else
      let kb := kBlock j (kFit j fil inp) j.k
      let (st1, oa, b) := b.panel o.fl (decide (j.k ≤ kb) && sameA o g p) oa m kl q
      let (st2, ob, b) := if inp.place = 5 then b.remoteLoad o.fl ob 1 1 else (0, ob, b.gather o.fl ob offs q)
      if st1 ≠ 0 ∨ st2 ≠ 0 then { b := b, status := if st1 ≠ 0 then st1 else st2 }
      else
        let (ecc, b) := if j.acc = 2 then b.readBlock o.fl oo m n q else (false, b)
        let b := b.noteEcc o.fl.uid ecc
        let c : List Nat := if j.acc = 2 then (List.range m).flatMap fun r => (List.range n).map fun y => b.elemF32 oo r y else []
        let as := (List.range m).map fun r => b.filterRow oa lk r
        let bs := (List.range n).map fun y => b.gatherRow v ob ks (c0 + y)
        let (acc, b) :=
          if isMx fil.fmt ∧ kl ≠ ks.length then b.freeWords (m * n) else (tileAcc j.drop as bs c, b)
        let b := b.unitPasses o.fl u j.shape m n j.k kb false
        let vals := acc.map fun y => drainVal y (tensorOf fil) (tensorOf inp)
        (b.blurWindow o u).tileOut o u oo m n vals
  | _, _ => { b := b, status := 0x11 }

end Sys2Proof.Machine
end

