-- ==== Sys2Proof/Machine/CrateMap.lean ====
section
/-!
DEFINITION. Crate Maps and pools as the hardware keeps them in memory (R204-R212, R218, R219): geometry, table entries, slots,
quarantine, and what a load of a Crate reads.
-/

namespace Sys2Proof.Machine

/-! ### Geometry (R204, R209) -/

/-- Head dimension. -/
def CrateMap.d (m : CrateMap) : Nat := 32 * 2 ^ m.hd

/-- Bytes of an element. -/
def CrateMap.eb (m : CrateMap) : Nat := if m.fmt < 2 then 1 else 2

/-- Tokens of a Crate. -/
def CrateMap.t (m : CrateMap) : Nat := 32768 / (m.d * m.eb)

/-- Crates of a stream. -/
def CrateMap.nc (m : CrateMap) : Nat := ceilDiv m.maxlen m.t

/-- The address of a stream record (R211). -/
def CrateMap.recAt (m : CrateMap) (s : Nat) : Nat := m.table + 16 * s

/-- The address of the entry of Crate `n` of stream `s` (R211). -/
def CrateMap.entAt (m : CrateMap) (s n : Nat) : Nat := m.table + 16 * m.nstream + 8 * (s * m.nc + n)

/-- Bytes of a table. -/
def CrateMap.bytes (m : CrateMap) : Nat := 16 * m.nstream + 8 * m.nstream * m.nc

/-- The byte in a Crate of element `i` of the key, or of the value, at position `t'` (R204). -/
def CrateMap.elemOff (m : CrateMap) (half i t' : Nat) : Nat :=
  if half = 0 then (i * m.t + t') * m.eb else 32768 + (t' * m.d + i) * m.eb

/-! ### Entries and records (R211, R212) -/

/-- A Crate Map entry. -/
structure CrateEnt where
  state : Nat
  prio : Nat
  age : Nat
  slot : Nat
deriving DecidableEq, Repr

/-- An entry as the table holds it; its slot as a harbour address. -/
def Body.crateEnt (b : Body) (m : CrateMap) (s n : Nat) : CrateEnt :=
  let w := b.le (m.entAt s n) 8
  ⟨bits w 63 60, bits w 59 56, bits w 55 32, bits w 31 0 * 65536⟩

/-- Writes an entry in one atomic 8-byte write (R218). -/
def Body.setCrateEnt (b : Body) (m : CrateMap) (s n : Nat) (e : CrateEnt) : Body :=
  b.store (m.entAt s n) (leBytes 8 (e.state * 2 ^ 60 + e.prio * 2 ^ 56 + e.age * 2 ^ 32 + e.slot / 65536))

/-- LEN, CKPT_LEN, and the harbour addresses of the Apron and checkpoint slots, 0 for none. -/
structure StreamRec where
  len : Nat := 0
  ckptLen : Nat := 0
  apron : Nat := 0
  ckpt : Nat := 0
deriving DecidableEq, Repr

/-- A stream record as the table holds it. -/
def Body.streamRec (b : Body) (m : CrateMap) (s : Nat) : StreamRec :=
  let w0 := b.le (m.recAt s) 8
  let w1 := b.le (m.recAt s + 8) 8
  ⟨bits w0 21 0, bits w0 43 22, bits w1 31 0 * 65536, bits w1 63 32 * 65536⟩

/-- Writes a stream record. -/
def Body.setStreamRec (b : Body) (m : CrateMap) (s : Nat) (r : StreamRec) : Body :=
  b.store (m.recAt s) (leBytes 8 (r.len + r.ckptLen * 2 ^ 22) ++ leBytes 8 (r.apron / 65536 + r.ckpt / 65536 * 2 ^ 32))

/-- The current AGE: timestamp bits [43:20]. -/
def Body.ageNow (b : Body) : Nat := bits b.now 43 20

/-- A map. -/
def Body.crateMap (b : Body) (k : Nat) : Option CrateMap := SMap.find b.crates.maps k

/-! ### Pools (R207, R208, R229) -/

/-- A pool. -/
def Body.pool (b : Body) (k : Nat) : Option Pool := SMap.find b.crates.pools k

/-- The address of a pool's slot. -/
def Pool.addr (p : Pool) (i : Nat) : Nat := p.base + 65536 * i

/-- The slot of a pool that an address names. -/
def Pool.index (p : Pool) (a : Nat) : Option Nat :=
  if p.base ≤ a ∧ a < p.base + 65536 * p.n ∧ (a - p.base) % 65536 = 0 then some ((a - p.base) / 65536) else none

/-- The resident state of a pool's region (R212). -/
def Pool.state (p : Pool) : Nat := if p.place < 2 then 2 else p.place + 1

/-- Slot `i` is allocated. -/
def Body.slotUsed (b : Body) (p : Pool) (i : Nat) : Bool := b.mapBit p.bitmap i

/-- Slots of a pool neither allocated, nor in quarantine, nor kept for an allocation that waits. -/
def Body.freeSlots (b : Body) (k : Nat) (p : Pool) : List Nat :=
  (List.range p.n).filter fun i =>
    !b.slotUsed p i && decide (i ∉ p.quar) && !(b.crates.reserved.any fun r => decide (r.2 = (k, i)))

/-- Brings a pool's HM_POOL_STAT up to date (R229). -/
def Body.syncPool (b : Body) (k : Nat) : Body :=
  match b.pool k with
  | some p =>
    let r : Reg := .hmPoolStat k
    (((b.setF r Fld.hmPoolStatFree (min (2 ^ 28 - 1) (b.freeSlots k p).length)).setF r Fld.hmPoolStatQuar (min (2 ^ 28 - 1) p.quar.length)).setF r
      Fld.hmPoolStatValid 1).setF r Fld.hmPoolStatPlace p.place
  | none => b.setReg (.hmPoolStat k) 0

/-- Allocates a slot. -/
def Body.takeSlot (b : Body) (k : Nat) (p : Pool) (i : Nat) : Body := (b.storeMapBit p.bitmap i true).syncPool k

/-- The pool and slot of a map that an address names (R211). -/
def Body.slotOfMap (b : Body) (m : CrateMap) (a : Nat) : Option (Nat × Nat) :=
  m.pools.findSome? fun k =>
    match b.pool k with
    | some p => (p.index a).map fun i => (k, i)
    | none => none

/-- An address is an allocated slot of a pool of a map (R211). -/
def Body.slotGood (b : Body) (m : CrateMap) (a : Nat) : Bool :=
  match b.slotOfMap m a with
  | some (k, i) =>
    match b.pool k with
    | some p => b.slotUsed p i
    | none => false
  | none => false

/-- Releases a slot: it enters quarantine while loads that resolved it have not completed, else it is free (R208). -/
def Body.releaseSlot (b : Body) (m : CrateMap) (a : Nat) : Body :=
  match b.slotOfMap m a with
  | none => b
  | some (k, i) =>
    match b.pool k with
    | none => b
    | some p =>
      let b := b.storeMapBit p.bitmap i false
      let held := b.crates.loads.any fun l => decide (l.addr = a)
      let b := if held then { b with crates.pools := SMap.put b.crates.pools k { p with quar := p.quar ++ [i] } } else b
      b.syncPool k

/-! ### What a load reads (R219) -/

/-- What a load of one Crate reads: an address, nothing (masked), or a failure status. -/
inductive CrateSrc where
  | at (a : Nat)
  | masked
  | bad (status : Nat)
deriving DecidableEq, Repr

/-- The source of Crate `n` of a stream as its entry stands. -/
def Body.crateSrc (b : Body) (m : CrateMap) (s n : Nat) : CrateSrc :=
  let e := b.crateEnt m s n
  if e.state = 1 then
    let a := (b.streamRec m s).apron
    if b.slotGood m a then .at a else .bad 0x11
  else if (2 ≤ e.state ∧ e.state ≤ 5) ∨ e.state = 7 then if b.slotGood m e.slot then .at e.slot else .bad 0x11
  else if e.state = 6 ∨ e.state = 8 then if m.mask then .masked else .bad 0x15
  else .bad 0x11

/-- The sources of the Crates that hold keys [t0, t1) of a stream. -/
def Body.crateSrcs (b : Body) (m : CrateMap) (s t0 t1 : Nat) : List (Nat × CrateSrc) :=
  if t1 ≤ t0 then []
  else (List.range ((t1 - 1) / m.t + 1 - t0 / m.t)).map fun i => (t0 / m.t + i, b.crateSrc m s (t0 / m.t + i))

/-- A key or value element of a token, by its Crates' sources; +0 where masked. -/
def Body.crateElem (b : Body) (m : CrateMap) (srcs : List (Nat × CrateSrc)) (half i t : Nat) : Val :=
  match srcs.find? fun p => decide (p.1 = t / m.t) with
  | some (_, .at a) => elemVal (crateFmt m.fmt) (b.le (a + m.elemOff half i (t % m.t)) m.eb)
  | _ => .fin false 0 0

/-- A token lies in a masked Crate. -/
def maskedAt (m : CrateMap) (srcs : List (Nat × CrateSrc)) (t : Nat) : Bool :=
  srcs.any fun p => decide (p.1 = t / m.t ∧ p.2 = .masked)

/-- The traffic of a load of one half of the Crates, and the loads a claim unit holds from now on (R208, R324). -/
def Body.loadCrates (b : Body) (fl : Flight) (g : Nat) (srcs : List (Nat × CrateSrc)) (half : Nat) : Body :=
  srcs.foldl (fun b p => match p.2 with
    | .at a =>
      let b := b.tierTraffic fl.slot (a + 32768 * half) 32768 false (g / 20)
      let b := match b.badIn (a + 32768 * half) 32768 with
        | some x => (b.eccRead fl x).noteEcc fl.uid true
        | none => b
      { b with crates.loads := b.crates.loads ++ [{ uid := fl.uid, unit := g, addr := a }] }
    | _ => b) b

end Sys2Proof.Machine
end

