-- ==== Sys2Proof/Machine/Scarf.lean ====
section
/-!
DEFINITION. Scarf chains (R188-R203): prologues, row stages, SCARF_OP in its three modes, and the tile of a chained product
that ATTN_BATCH shares.
-/

namespace Sys2Proof.Machine

/-! ### Prologues (R191) -/

/-- The format a prologue writes, and the clamp (R191). -/
def proFmt (ws : List Word) : Nat × Nat := let f := (chOut ws).fmt; (min 10 f, diff (min 10 f) f)

/-- One chunk along K of prologue results converted to the slot's OUT_FMT. -/
def proChunk (ws : List Word) (ts : List Bool) (xs : List Nat) : KRow × Tally :=
  let co := chOut ws
  let f := (proFmt ws).1
  if isMx f then
    let (sc, es, t) := mxBlock f co.round ts (xs.map ofF32)
    (kRow f sc (es.map (elemVal f)), t)
  else
    let rs := (List.range xs.length).map fun i => convElem f co.round co.sat (ts.getD i false) (ofF32 (xs.getD i 0))
    (kRow f 127 (rs.map fun p => elemVal f p.1), rs.foldl (fun a p => a.plus p.2) {})

/-- A row of a prologue's block at columns `cs`: the stages' results and the random bits of the conversion (R272). -/
def Body.proRow (b : Body) (v : ChainEnv) (r : Nat) (cs ins : List Nat) : List Nat × List Bool × Body :=
  let (ys, b) := b.chainRowVals v r cs ins
  let (ds, b) := if (chOut v.words).round = 4 ∧ sr1Fmt (proFmt v.words).1 then b.drawGroups v.rip cs else ([], b)
  (ys, cs.map fun c => (drawOf ds c).bit 0, b)

/-- The chunks of a line of results along K, masked to [klo, khi), each converted. -/
def Body.proLine (b : Body) (v : ChainEnv) (klo khi : Nat) (xs : List Nat) (ts : List Bool) : List KRow × Body :=
  let xs := (List.range xs.length).map fun k => if klo ≤ k ∧ k < khi then xs.getD k 0 else 0
  ((chunks32 xs).zip (chunks32 ts)).foldl (fun (p : List KRow × Body) z =>
    let (row, t) := proChunk v.words z.2 z.1
    (p.1 ++ [row], p.2.fmtTally v.g t true)) ([], b)

/-- A prologue on the A or Q operand: `m` rows of `k` elements. -/
def Body.proA (b : Body) (v : ChainEnv) (get : Nat → Nat → Nat) (m k klo khi : Nat) : List (List KRow) × Body :=
  (List.range m).foldl (fun (p : List (List KRow) × Body) r =>
    let (ys, ts, b) := p.2.proRow v r (List.range k) ((List.range k).map (get r))
    let (l, b) := b.proLine v klo khi ys ts
    (p.1 ++ [l], b)) ([], b)

/-- A prologue on the B or Kᵀ operand: `k` rows of `n` columns, blocks along K. -/
def Body.proB (b : Body) (v : ChainEnv) (get : Nat → Nat → Nat) (k c0 n klo khi : Nat) : List (List KRow) × Body :=
  let cs := (List.range n).map (c0 + ·)
  let (xs, ts, b) := (List.range k).foldl (fun (p : List (List Nat) × List (List Bool) × Body) r =>
    let (ys, t, b) := p.2.2.proRow v r cs ((List.range n).map (get r))
    (p.1 ++ [ys], p.2.1 ++ [t], b)) ([], [], b)
  (List.range n).foldl (fun (p : List (List KRow) × Body) c =>
    let (l, b) := p.2.proLine v klo khi (xs.map fun y => y.getD c 0) (ts.map fun t => t.getD c false)
    (p.1 ++ [l], b)) ([], b)

/-! ### SINGLE (R188, R189) -/

/-- The fields of a SINGLE SCARF_OP (R188). -/
def scarfFields (c : Cmd) : MmFields :=
  { aH := c.h 1, aOff := c.f 1 37 18, tm := c.f 1 17 8, shape := c.f 1 7 6, bH := c.h 2, bOff := c.f 2 37 18, tn := c.f 2 17 6,
    outH := c.h 3, outOff := c.f 3 37 18, chain := c.f 3 17 12, acc := c.f 3 5 4, drop := c.b 3 3, m := c.f 4 63 32 + 1,
    n := c.f 4 31 0 + 1, k := c.f 5 63 32 + 1, pin := c.f 8 7 0, kb := c.f 5 15 0, quays := c.f 6 37 28, bmask := c.f 6 27 8,
    pinMode := c.f 6 7 6, steal := c.b 6 5, skipH := c.h 7, hoff := c.f 7 37 18, hsize := c.f 7 17 0 }

/-- PRO_CHAIN, PRO_OPND = 1, KLO and KHI of a SCARF_OP. -/
def proOf (c : Cmd) (k : Nat) : Nat × Bool × Nat × Nat :=
  (c.f 2 5 0, c.b 1 3, c.f 9 31 0, if c.f 9 63 32 = 0 then k else c.f 9 63 32)

/-- The format whose bytes size a window part: the larger of source and prologue output (R191). -/
def widest (fmt : Nat) (ws : List Word) (pro : Bool) : Nat :=
  if pro ∧ elemBits (proFmt ws).1 > elemBits fmt then (proFmt ws).1 else fmt

/-- Clamps of a prologue's slot where it is used (R191, R193). -/
def proClamps (fl : Flight) (pro : Nat) : Nat :=
  if pro = 0 then 0 else rowStages (fl.chain pro) + (proFmt (fl.chain pro)).2

/-- The fields of a SINGLE SCARF_OP that are clamped (R188, R191, R193). -/
def Body.singleClamps (b : Body) (fl : Flight) : Nat :=
  (jobOf fl (scarfFields fl.cmd) 1 1).2 + b.placeClamps fl.slot (scarfFields fl.cmd) + proClamps fl (fl.cmd.f 2 5 0)

/-- What a SINGLE SCARF_OP resolves and checks at its start. -/
def Body.singleStart (b : Body) (fl : Flight) : Except Bad Started := do
  let c := fl.cmd
  let x := scarfFields c
  let pm := min 2 x.pinMode
  match b.place fl.slot x.quays x.bmask pm x.pin 1 1 with
  | none => .error (0x11, x.quays)
  | some (qs, us, _, _) =>
    let j := (jobOf fl x 1 1).1
    let pin := if pm = 2 then some (min 199 x.pin) else none
    let ea ← b.loadEntry fl.slot x.aH pin
    let eb ← b.loadEntry fl.slot x.bH pin
    let out ← b.drainEntry fl.slot x.outH (decide (j.acc = 2)) us
    need (opndStream ea false x.aOff).isSome 0x11 x.aH
    need (opndStream eb true x.bOff).isSome 0x11 x.bH
    b.outChecks fl j out x.outH x.outOff (us.flatten.headD 0)
    let (pro, onB, _, _) := proOf c x.k
    need (b.chainJigsOk (vecEnv fl pro (us.flatten.headD 0))) 0x12 0
    let skip ← b.skipEntry fl.slot x.skipH (j.rows * j.cols)
    need (b.windowHeld fl.slot us j.hoff (4 * j.part)) 0x11 0
    let ws := fl.chain pro
    let fa := widest ea.fmt ws (decide (pro ≠ 0) && !onB)
    let fb := widest eb.fmt ws (decide (pro ≠ 0) && onB)
    need (decide (kFit j { ea with fmt := fa } { eb with fmt := fb } ≥ 32)) 0x11 0
    .ok { op := { fl := fl, kind := 2, job := j, a := [ea], b := [eb], out := out, skip := skip, quays := qs, units := us,
                  steal := (b.stealOn fl.slot x.steal pm).1, pin := pm },
          clamps := b.singleClamps fl + sClamp fl j out,
          handles := [x.aH, x.bH, x.outH] ++ (if x.skipH = 0 then [] else [x.skipH]),
          uses := opRegions j us [ea, eb, out] }

/-- Tile (i, j) of a SINGLE SCARF_OP on a claim unit: an MM_OP tile whose A or B passes the prologue (R189, R191). -/
def Body.singleTile (b : Body) (o : TileOp) (u p : List Nat) : TileEnd :=
  let j := o.job
  let x := scarfFields o.fl.cmd
  let g := u.headD 0
  let q := g / 20
  let ea := o.a.headD {}
  let eb := o.b.headD {}
  let (pro, onB, klo, khi) := proOf o.fl.cmd j.k
  let live (k : Nat) : Bool := decide (klo ≤ k ∧ k < khi)
  let r0 := p.getD 0 0 * j.tm
  let c0 := p.getD 1 0 * j.tn
  let m := min j.tm (j.m - r0)
  let n := min j.tn (j.n - c0)
  let v := vecEnv o.fl pro g
  match opndStream ea false x.aOff, opndStream eb true x.bOff, opndOwn o.out x.outOff with
  | some oa, some ob, some oo =>
    let oa := oa.shift r0 0
    let ob := ob.shift 0 c0
    let oo := oo.shift r0 c0
    let (pr, pc) := if onB then (j.k, n) else (m, j.k)
    if ¬ (b.blockMay oa m j.k false ∧ b.blockMay ob j.k n false ∧ b.blockMay oo m n true ∧ (j.acc ≠ 2 ∨ b.blockMay oo m n false) ∧
        (pro = 0 ∨ v.benchOk pr pc)) then { b := b, status := 0x11 }
    else
      let kb := kBlock j (kFit j ea eb) j.k
      let one := decide (j.k ≤ kb)
      let (st1, oa, b) := b.panel o.fl (one && sameA o g p) oa m j.k q
      let (st2, ob, b) := b.panel o.fl (one && sameB o g p) ob j.k n q
      if st1 ≠ 0 ∨ st2 ≠ 0 then { b := b, status := if st1 ≠ 0 then st1 else st2 }
      else
        let (ecc, b) := if j.acc = 2 then b.readBlock o.fl oo m n q else (false, b)
        let b := b.noteEcc o.fl.uid ecc
        let c : List Nat := if j.acc = 2 then (List.range m).flatMap fun r => (List.range n).map fun y => b.elemF32 oo r y else []
        let b := if pro ≠ 0 ∧ chainUsesBench v.words then b.benchTake g o.fl.cmd.ctx.toNat else b
        let src := b
        let (as, b) :=
          if ¬ onB ∧ pro ≠ 0 then b.proA v (fun r k => src.elemF32 oa r k) m j.k klo khi
          else ((List.range m).map fun r => b.streamRow oa false r 0 j.k (fun k => onB || live k), b)
        let (bs, b) :=
          if onB ∧ pro ≠ 0 then b.proB v (fun k y => src.elemF32 ob k y) j.k 0 n klo khi
          else ((List.range n).map fun y => b.streamRow ob true y 0 j.k (fun k => !onB || live k), b)
        let b := b.unitPasses o.fl u j.shape m n j.k kb (fastPass j.shape ea.fmt eb.fmt m n)
        let vals := (tileAcc j.drop as bs c).map fun y => drainVal y (tensorOf ea) (tensorOf eb)
        (b.blurWindow o u).tileOut o u oo m n vals
  | _, _, _ => { b := b, status := 0x11 }

/-! ### Row state (R184, R192, R196) -/

/-- The row statistics of a chained product: X and X_C, L as BM40, M as FP32 (R194, R195). -/
structure RowSt where
  x : Option Int := none
  xc : Option Int := none
  l : Nat := 0
  m : Nat := 0xFF800000
deriving DecidableEq, Repr

/-- A BM40 sum with what it counts (R35). -/
def bmAdd (p q : Nat × Tally) : Nat × Tally :=
  let (c, t) := fBM40.conv 0 false false ((fBM40.dec p.1).add (fBM40.dec q.1))
  (c, (p.2.plus q.2).plus { t with nan := 0 })

/-- One level of the pairwise tree over BM40 values (R140). -/
def bmLevel : List (Nat × Tally) → List (Nat × Tally)
  | [] => []
  | [x] => [bmAdd x (0, {})]
  | x :: y :: r => bmAdd x y :: bmLevel r

/-- The tree of R140 over a group row, completed with +0 to 256 elements, `k` levels. -/
def bmTree : Nat → List (Nat × Tally) → Nat × Tally
  | 0, l => l.headD (0, {})
  | k + 1, l => bmTree k (bmLevel l)

/-- The scalars of a row stage (R192): RMASK's lo and hi, read as INT32 at element r. -/
def Body.rmask (b : Body) (v : ChainEnv) (w : Word) (r : Nat) : Int × Int :=
  let at_ (i : Nat) : Int := sInt 32 (b.le (benchBase v.g + (v.bench (min i 7)).1 + 4 * r) 4)
  (at_ (w.fld 54 51), at_ (w.fld 47 44))

/-- RSCORE of one value: the result, and whether it changed (R192). -/
def rscore (x : Nat) : Nat × Bool :=
  match ofF32 x with
  | .nan => (0x7FC00000, false)
  | .inf s => if s then (x, false) else (0x44AF0000, true)
  | f =>
    if (Val.fin false 1400 0).lt f then (0x44AF0000, true)
    else if f.lt (.fin true 1400 0) then (0xC4AF0000, true)
    else (toF32 f, false)

/-- One stage of a score chain over a group row at columns `cs` whose absolute keys are `keys` (R192, R193). -/
def Body.scoreStage (b : Body) (v : ChainEnv) (w : Word) (r : Nat) (cs keys ins xs : List Nat) (st : RowSt) : List Nat × RowSt × Body :=
  match w.fld 63 58 with
  | 0x20 =>
    let (lo, hi) := b.rmask v w r
    ((List.range xs.length).map fun i =>
      if lo ≤ (keys.getD i 0 : Int) ∧ (keys.getD i 0 : Int) < hi then xs.getD i 0 else 0xFF800000, st, b)
  | 0x21 =>
    let ys := xs.map rscore
    (ys.map (·.1), st, b.bump (.brScarfTally v.g) Fld.brScarfTallyScoreSat ((ys.filter (·.2)).length))
  | 0x27 => (xs, { st with m := xs.foldl (f32MinMax true) st.m }, b)
  | _ =>
    let (ys, b) := b.runStage v w r cs ins xs
    (ys, st, b)

/-- The first five stages of a score chain over a group row (R193). -/
def Body.scoreStages (b : Body) (v : ChainEnv) (r : Nat) (cs keys ins : List Nat) : Nat → Nat → List Nat → RowSt → List Nat × RowSt × Body
  | 0, _, xs, st => (xs, st, b)
  | n + 1, k, xs, st =>
    let (ys, st, b) := b.scoreStage v (chW v.words (2 + k)) r cs keys ins xs st
    Body.scoreStages b v r cs keys ins n (k + 1) ys st

/-- The score chain and REXP over a group row: the e values in BM40 and the row state after RSTAT (R192, R193, R219). -/
def Body.scoreRow (b : Body) (v : ChainEnv) (r : Nat) (cs keys : List Nat) (ins : List Nat) (masked : Nat → Bool) (st : RowSt) :
    List Nat × RowSt × Body :=
  let (ys, st, b) := b.scoreStages v r cs keys ins (min 5 (chOut v.words).nstage) 0 ins st
  let b := b.chainRow v.g
  let (es, b) := (List.range ys.length).foldl (fun (p : List Nat × Body) i =>
    let x := if masked (keys.getD i 0) then 0xFF800000 else ys.getD i 0
    let (c, l) := lathePass (p.2.bank (p.2.partOfBerth v.g) v.bank) 0x03 x false 0 0x3F800000
    (c :: p.1, p.2.latheTally v.g v.slot l)) ([], b)
  (es.reverse, st, b)

/-- RSUM over a group row (R192). -/
def Body.rsum (b : Body) (g : Nat) (es : List Nat) (st : RowSt) : RowSt × Body :=
  let (s, t) := bmTree 8 (es.map fun e => (e, {}))
  let (l, t) := bmAdd (st.l, {}) (s, t)
  ({ st with l := l }, b.fmtTally g t false)

/-- RQP over a group row: x_g, where it has one, and the E4M3 codes (R196). -/
def rqp (es : List Nat) : Option Int × List Nat :=
  let vs := es.map fBM40.dec
  match maxLog (vs.filter fun v => !v.special) with
  | none => (none, vs.map fun v => if v.isNan then 0x7F else 0)
  | some m => (some (m - 7), vs.map fun v => (fE4M3.conv 0 true false (v.scale (7 - m))).1)

/-! ### Keys and values -/

/-- Where a chained product's keys or values lie: an operand, or one half of a Crate stream. -/
inductive KvSrc where
  | opnd (o : Opnd)
  | crate (m : CrateMap) (stream : Nat) (srcs : List (Nat × CrateSrc))

/-- Element `i` of the key of a token, widened to FP32, for a prologue. -/
def Body.keyF32 (b : Body) (k : KvSrc) (i t : Nat) : Nat :=
  match k with
  | .opnd o => b.elemF32 o i t
  | .crate m _ srcs => toF32 (b.crateElem m srcs 0 i t)

/-- The key of a token as a column of Kᵀ, in chunks (R41). -/
def Body.keyCol (b : Body) (k : KvSrc) (d t : Nat) (live : Nat → Bool) : List KRow :=
  match k with
  | .opnd o => b.streamRow o true t 0 d live
  | .crate m _ srcs =>
    (chunks32 (List.range d)).map fun l =>
      kRow (crateFmt m.fmt) 127 (l.map fun i => if live i then b.crateElem m srcs 0 i t else .fin false 0 0)

/-- Column `c` of V over tokens [t0, t0 + n), in chunks. -/
def Body.valCol (b : Body) (k : KvSrc) (c t0 n : Nat) : List KRow :=
  match k with
  | .opnd o => b.streamRow o true c t0 n
  | .crate m _ srcs =>
    (chunks32 (List.range n)).map fun l => kRow (crateFmt m.fmt) 127 (l.map fun i => b.crateElem m srcs 1 c (t0 + i))

/-- A token's scores are set to -∞ (R219). -/
def KvSrc.masked (k : KvSrc) (t : Nat) : Bool :=
  match k with
  | .opnd _ => false
  | .crate m _ srcs => maskedAt m srcs t

/-- The first Crate that a tile cannot read: status, map-free stream and Crate (R219). -/
def KvSrc.badCrate (k : KvSrc) : Option (Nat × Nat × Nat) :=
  match k with
  | .opnd _ => none
  | .crate _ s srcs => srcs.findSome? fun p => match p.2 with
    | .bad st => some (st, s, p.1)
    | _ => none

/-! ### The tile of a chained product (R195-R198) -/

/-- What a CHAINED, SOFTMAX or ATTEND tile works on: Berth, rows, head dimension, keys [key0, key1), Q, Kᵀ and V, TENSOR factors,
slots of the prologue, score and closing chains, PRO_OPND = 1, KLO, KHI, span. -/
structure AttnJob where
  g : Nat
  m : Nat
  d : Nat
  key0 : Nat
  key1 : Nat
  q : Opnd
  k : KvSrc
  v : Option KvSrc
  sq : Option Nat
  sk : Option Nat
  sv : Option Nat
  pro : Nat
  onK : Bool
  klo : Nat
  khi : Nat
  score : Nat
  chain : Nat
  span : Nat

/-- The groups of 256 keys of a range, each with its first key and how many. -/
def keyGroups (k0 k1 : Nat) : List (Nat × Nat) := (List.range (ceilDiv (k1 - k0) 256)).map fun i => (k0 + 256 * i, min 256 (k1 - k0 - 256 * i))

/-- The rows of Q after the prologue, as chunk rows. -/
def Body.queryRows (b : Body) (fl : Flight) (a : AttnJob) : List (List KRow) × Body :=
  if ¬ a.onK ∧ a.pro ≠ 0 then
    let src := b
    b.proA (vecEnv fl a.pro a.g) (fun r k => src.elemF32 a.q r k) a.m a.d a.klo a.khi
  else ((List.range a.m).map fun r => b.streamRow a.q false r 0 a.d (fun k => a.onK || decide (a.klo ≤ k ∧ k < a.khi)), b)

/-- The keys of a group after the prologue, as chunk columns. -/
def Body.groupKeys (b : Body) (fl : Flight) (a : AttnJob) (k0 n : Nat) : List (List KRow) × Body :=
  if a.onK ∧ a.pro ≠ 0 then
    let src := b
    b.proB (vecEnv fl a.pro a.g) (fun i y => src.keyF32 a.k i (k0 + y)) a.d (k0 - a.key0) n a.klo a.khi
  else ((List.range n).map fun y => b.keyCol a.k a.d (k0 + y) (fun i => !a.onK || decide (a.klo ≤ i ∧ i < a.khi)), b)

/-- A score pass over one group and every row: the e values by row, and the row states after RSTAT. -/
def Body.groupScores (b : Body) (fl : Flight) (a : AttnJob) (qs : List (List KRow)) (k0 n : Nat) (sts : List RowSt) :
    List (List Nat) × List RowSt × Body :=
  let (ks, b) := b.groupKeys fl a k0 n
  let v := epiEnv fl a.score a.g
  let keys := (List.range n).map (k0 + ·)
  let cs := keys.map (· - a.key0)
  (List.range a.m).foldl (fun (p : List (List Nat) × List RowSt × Body) r =>
    let ins := ks.map fun k => drainVal (dotAcc false 0 (qs.getD r []) k) a.sq a.sk
    let (es, st, b) := p.2.2.scoreRow v r cs keys ins a.k.masked (sts.getD r {})
    (p.1 ++ [es], p.2.1 ++ [st], b)) ([], [], b)

/-- The score tiles of a span: for each row its groups' exponents and P codes, and the row states (R195, R196). -/
def Body.spanScores (b : Body) (fl : Flight) (a : AttnJob) (qs : List (List KRow)) (k0 k1 : Nat) (sts : List RowSt) :
    List (List (Option Int × List Nat)) × List RowSt × Body :=
  (keyGroups k0 k1).foldl (fun (p : List (List (Option Int × List Nat)) × List RowSt × Body) kg =>
    let (es, sts, b) := p.2.2.groupScores fl a qs kg.1 kg.2 p.2.1
    let (sts, b) := (List.range a.m).foldl (fun (z : List RowSt × Body) r =>
      let (st, b) := z.2.rsum a.g (es.getD r []) (sts.getD r {})
      (z.1 ++ [st], b)) ([], b)
    let ps := es.map rqp
    let sts := (sts.zip ps).map fun z => match z.2.1 with
      | some xg => { z.1 with x := some (match z.1.x with | some x => max x xg | none => xg) }
      | none => z.1
    ((p.1.zip ps).map fun z => z.1 ++ [z.2], sts, b)) (List.replicate a.m [], sts, b)

/-- The A stream of a span's second product: each chunk of P with its exponent x_g - X_r (R197). -/
def pRow (st : RowSt) (gs : List (Option Int × List Nat)) : List KRow :=
  gs.flatMap fun z => (chunks32 z.2).map fun l =>
    { exp := match z.1, st.x with
        | some xg, some x => xg - x
        | _, _ => 0,
      els := l.map fun c =>
        let v := elemVal 0 c
        { special := specialOf v, zero := v.isZero, neg := v.neg, hi := pieceUnits v } }

/-- The second product of a span added to the running O, row-major, with the correction of R197; X_C becomes X. -/
def Body.spanProduct (b : Body) (a : AttnJob) (src : KvSrc) (k0 k1 : Nat) (ps : List (List (Option Int × List Nat))) (sts : List RowSt)
    (o : List Nat) : List Nat × List RowSt :=
  let vs := (List.range a.d).map fun c => b.valCol src c k0 (k1 - k0)
  ((List.range a.m).flatMap fun r =>
      let st := sts.getD r {}
      let row := pRow st (ps.getD r [])
      let delta := match st.xc, st.x with
        | some xc, some x => some (x - xc)
        | _, _ => none
      (List.range a.d).map fun c => dotCorr false (o.getD (r * a.d + c) 0) delta row (vs.getD c []),
    sts.map fun st => { st with xc := st.x })

/-- The spans of a tile, from key0. -/
def spansOf (a : AttnJob) : List (Nat × Nat) :=
  (List.range (ceilDiv (a.key1 - a.key0) (max 1 a.span))).map fun i => (a.key0 + i * a.span, min a.key1 (a.key0 + (i + 1) * a.span))

/-- The running O and the row states after every span (R195). -/
def Body.chained (b : Body) (fl : Flight) (a : AttnJob) (src : KvSrc) (qs : List (List KRow)) : List Nat × List RowSt × Body :=
  (spansOf a).foldl (fun (p : List Nat × List RowSt × Body) s =>
    let (ps, sts, b) := p.2.2.spanScores fl a qs s.1 s.2 p.2.1
    let (o, sts) := b.spanProduct a src s.1 s.2 ps sts p.1
    (o, sts, b)) (List.replicate (a.m * a.d) 0, List.replicate a.m {}, b)

/-- RCLOSE of one element (R198). -/
def rclose (acc : Nat) (st : RowSt) (sv : Option Nat) : Nat :=
  if (fBM40.dec st.l).isZero then 0
  else
    let num := (ofF32 acc).scale (st.x.getD 0)
    let num := match sv with
      | some s => num.mul (ofF32 s)
      | none => num
    toF32 (num.div (fBM40.dec st.l))

/-- RCLOSE of a tile, with the rows it counts (R198, R203). -/
def Body.closeRows (b : Body) (a : AttnJob) (o : List Nat) (sts : List RowSt) : List Nat × Body :=
  let b := b.bump (.brScarfTally a.g) Fld.brScarfTallyEmptyRow ((sts.filter fun st => (fBM40.dec st.l).isZero).length)
  let nan := (List.range a.m).filter fun r =>
    !(fBM40.dec (sts.getD r {}).l).isZero &&
      ((fBM40.dec (sts.getD r {}).l).isNan || ((o.drop (r * a.d)).take a.d).any fun x => (ofF32 x).isNan)
  let b := b.bump (.brScarfTally a.g) Fld.brScarfTallyNanRow nan.length
  ((List.range (a.m * a.d)).map fun i => rclose (o.getD i 0) (sts.getD (i / max 1 a.d) {}) a.sv, b)

/-! ### Row records (R194) -/

/-- The bits of an integer series for atanh: Σ z^(2i+1)/(2i+1) of z = p/q to `k` terms in units of 2^-240. -/
def atanhSum (p q : Nat) : Nat → Nat → Nat → Nat
  | 0, _, _ => 0
  | k + 1, i, t => t / (2 * i + 1) + atanhSum p q k (i + 1) (t * p * p / (q * q))

/-- 2·atanh(p/q) in units of 2^-240. -/
def atanh2 (p q : Nat) : Nat := 2 * atanhSum p q 160 0 (2 ^ 240 * p / q)

/-- ln of a positive m·2^e in units of 2^-240, to better than 2^-225. -/
def lnUnits (m : Nat) (e : Int) : Int :=
  let l := Nat.log2 m
  let one := 2 ^ l
  ((e + l) * (atanh2 1 3 : Int)) + (atanh2 (m - one) (m + one) : Int)

/-- LSE: ln L rounded once to FP32; -∞ for +0 (R194). -/
def lseOf (l : Nat) : Nat :=
  match fBM40.dec l with
  | .fin _ m e => if m = 0 then 0xFF800000 else toF32 (ofInt (lnUnits m e) (-240) false)
  | .inf _ => 0x7F800000
  | .nan => 0x7FC00000

/-- The 32-byte record of a row; NEXT_SPAN given. -/
def rowRecord (st : RowSt) (next : Nat) : List Byte :=
  leBytes 8 st.l ++ leBytes 4 (ofSInt 32 (st.x.getD (-32768))) ++ leBytes 4 (ofSInt 32 (st.xc.getD (-32768))) ++
    leBytes 4 (lseOf st.l) ++ leBytes 4 st.m ++ leBytes 4 next ++ leBytes 4 0

/-- The bytes of a STATE slot. -/
def stateSlot : Nat := 270336

/-- Writes the records of a slot's rows, and leaves its running O undefined (R194). -/
def Body.putRecords (b : Body) (fl : Flight) (e : Entry) (slot next point : Nat) (sts : List RowSt) (keepO : Bool) : Body :=
  let base := e.base + slot * stateSlot
  let b := if keepO then b else b.blur base 262144
  (List.range sts.length).foldl (fun b r =>
    let a := base + 262144 + 32 * r
    let b := b.tierTraffic fl.slot a 32 true point
    let (ecc, b) := b.storePlain fl a (rowRecord (sts.getD r {}) next)
    b.noteEcc fl.uid ecc) b

/-- A chain's words with at most `k` stages. -/
def capStages (ws : List Word) (k : Nat) : List Word :=
  match ws with
  | [] => []
  | w :: r => BitVec.ofNat 64 (putBits w.toNat 9 6 (min k (w.fld 9 6))) :: r

/-- The closing chain's environment: its first seven stages after RCLOSE (R193). -/
def closeEnvOf (fl : Flight) (chain g k : Nat) : ChainEnv :=
  let v := epiEnv fl chain g
  { v with words := capStages v.words k }

/-- Values through the closing chain's stages to OUT (R193, R198): their input elements are `ins`. -/
def Body.closeOut (b : Body) (fl : Flight) (a : AttnJob) (k : Nat) (oo : Opnd) (ins xs : List Nat) : Body :=
  let v := closeEnvOf fl a.chain a.g k
  let b := if chainUsesBench v.words then b.benchTake a.g fl.cmd.ctx.toNat else b
  let (ecc, am, b) := b.epilogueFrom fl v oo 0 0 a.m a.d (chOut v.words).nstage ins xs (a.g / 20)
  let b := b.noteEcc fl.uid ecc
  if (chOut v.words).scale = 3 then b.noteAmax fl.uid (amaxReg v.words) am else b

/-! ### Loads and checks of a tile -/

/-- The bytes of a chained tile's operands may be read. -/
def Body.attnMay (b : Body) (a : AttnJob) : Bool :=
  b.blockMay a.q a.m a.d false &&
    (match a.k with
      | .opnd o => b.blockMay (o.shift 0 a.key0) a.d (a.key1 - a.key0) false
      | .crate _ _ _ => true) &&
    (match a.v with
      | some (.opnd o) => b.blockMay (o.shift a.key0 0) (a.key1 - a.key0) a.d false
      | _ => true)

/-- The Bench operands of the prologue and score chains lie within the Bench (R143). -/
def attnBench (fl : Flight) (a : AttnJob) : Bool :=
  let s := epiEnv fl a.score a.g
  let p := vecEnv fl a.pro a.g
  let n := a.key1 - a.key0
  ((List.range (min 5 (chOut s.words).nstage)).all fun k =>
    let w := chW s.words (2 + k)
    if w.fld 63 58 = 0x20 then
      decide ((s.bench (min 7 (w.fld 54 51))).1 + 4 * a.m ≤ 0x100000 ∧ (s.bench (min 7 (w.fld 47 44))).1 + 4 * a.m ≤ 0x100000)
    else
      decide (s.reach (w.fld 57 55) (w.fld 54 51) a.m n ≤ 0x100000 ∧ s.reach (w.fld 50 48) (w.fld 47 44) a.m n ≤ 0x100000)) &&
    (decide (a.pro = 0) || (if a.onK then p.benchOk a.d n else p.benchOk a.m a.d))

/-- The partition's crate registers. -/
def Body.crateBump (b : Body) (slot : Nat) (f : Fld) (n : Nat) : Body :=
  match b.partOfSlot slot with
  | some p => b.bump (.hmCrateFault p) f n
  | none => b

/-- The loads of a chained tile: Q, keys, values; masked Crates are counted (R219). Answers a status, and the job with its operands
as local bytes. -/
def Body.attnLoad (b : Body) (fl : Flight) (a : AttnJob) : Nat × AttnJob × Body :=
  let p := a.g / 20
  let (s1, q, b) := b.loadOpnd fl a.q a.m a.d p
  let a := { a with q := q }
  let (s2, k, b) := match a.k with
    | .opnd o =>
      let (s, o', b) := b.loadOpnd fl (o.shift 0 a.key0) a.d (a.key1 - a.key0) p
      (s, KvSrc.opnd { o with e := o'.e }, b)
    | .crate m s srcs => (0, .crate m s srcs, b.loadCrates fl a.g srcs 0)
  let (s3, v, b) := match a.v with
    | some (.opnd o) =>
      let (s, o', b) := b.loadOpnd fl (o.shift a.key0 0) (a.key1 - a.key0) a.d p
      (s, some (KvSrc.opnd { o with e := o'.e }), b)
    | some (.crate m s srcs) => (0, some (.crate m s srcs), b.loadCrates fl a.g srcs 1)
    | none => (0, none, b)
  let srcs := match a.k, a.v with
    | .crate _ _ l, _ => l
    | _, some (.crate _ _ l) => l
    | _, _ => []
  let b := b.crateBump fl.slot Fld.hmCrateFaultMasked ((srcs.filter fun s => decide (s.2 = .masked)).length)
  (if s1 ≠ 0 then s1 else if s2 ≠ 0 then s2 else s3, { a with k := k, v := v }, b)

/-- The Crate that stops a tile: the end with its record, CRATE_DROPPED counted (R219, R229). -/
def Body.crateStop (b : Body) (fl : Flight) (mapNo : Nat) (a : AttnJob) : Option TileEnd :=
  match (a.k.badCrate).orElse fun _ => a.v.bind KvSrc.badCrate with
  | none => none
  | some (st, s, n) =>
    if st = 0x15 then
      some { b := b.crateBump fl.slot Fld.hmCrateFaultDroppedRead 1, status := st, code := 0x0402, d := [mapNo, s, n] }
    else some { b := b, status := st }

/-- A Berth's Truss runs a chained tile's passes: its score passes of d K rows and a second product over its keys. -/
def Body.attnPasses (b : Body) (fl : Flight) (a : AttnJob) (shape tn sweeps : Nat) (second : Bool) : Body :=
  let n := a.key1 - a.key0
  let k := sweeps * ceilDiv n (max 1 tn) * a.d + (if second then n else 0)
  b.unitPasses fl [a.g] shape a.m (min tn n) k (max 1 k) false

/-- A tile of CHAINED mode, or an ATTEND item, to its closing (R195, R198): the closed values and the row states; where there are no keys,
the state of R225. -/
def Body.attnValues (b : Body) (fl : Flight) (a : AttnJob) : List Nat × List Nat × List RowSt × Body :=
  let (o, sts, b) := match a.v with
    | some src =>
      if a.key1 ≤ a.key0 then (List.replicate (a.m * a.d) 0, List.replicate a.m ({} : RowSt), b)
      else
        let (qs, b) := b.queryRows fl a
        b.chained fl a src qs
    | none => (List.replicate (a.m * a.d) 0, List.replicate a.m ({} : RowSt), b)
  let (c, b) := b.closeRows a o sts
  (o, c, sts, b)

/-! ### CHAINED and SOFTMAX (R189, R190, R193, R194) -/

/-- The bytes of a CHAINED window, from bits of each operand's elements (R190). -/
def windowBytes (tm d tn span bq bk bv : Nat) : Nat :=
  ceilDiv (tm * d * bq) 8 + ceilDiv (2 * d * tn * bk) 8 + ceilDiv (2 * span * d * bv) 8 + tm * span + 4 * tm * d

/-- The span after the three clamps of R190, and 1 where they changed it (R426); none where a span of tn does not fit. -/
def spanFit (span256 tm d tn bq bk bv win : Nat) : Option (Nat × Nat) :=
  let s0 := 256 * max 1 span256
  let s1 := ceilDiv s0 tn * tn
  let s2 := if tm * s1 / 256 > 32768 then 8388608 / tm / tn * tn else s1
  match (List.range (s2 / tn)).reverse.find? fun k => decide (windowBytes tm d tn ((k + 1) * tn) bq bk bv ≤ win) with
  | some k => some ((k + 1) * tn, diff ((k + 1) * tn) (256 * span256))
  | none => none

/-- A CRATE entry's map and stream. -/
def crateOf (e : Entry) : Nat × Nat × Nat := (e.param % 4096, e.param / 4096 % 65536, e.param / 2 ^ 28 % 2)

/-- A key or value operand: a CRATE entry of its half in a map of the context with head dimension d, or one that loads read (R205). -/
def Body.kvEntry (b : Body) (slot h half d : Nat) (pin : Option Nat) : Except Bad Entry :=
  match b.resolve slot h with
  | none => .error (0x12, h)
  | some e =>
    if e.layout = 4 then
      match b.crateMap (crateOf e).1 with
      | some m =>
        if e.rd ∧ (crateOf e).2.2 = half ∧ m.slot = slot ∧ m.d = d ∧ (crateOf e).2.1 < m.nstream ∧ e.fmt = crateFmt m.fmt then .ok e
        else .error (0x11, h)
      | none => .error (0x11, h)
    else b.loadEntry slot h pin

/-- The snapshot of a CRATE entry's LEN that a command took (R205). -/
def lenOf (fl : Flight) (mapNo stream : Nat) : Nat := SMap.get fl.lens 0 (mapNo * 65536 + stream)

/-- STATE for `n` slots (R194). -/
def Body.stateEntry (b : Body) (slot h n : Nat) : Except Bad Entry :=
  match b.access slot h 0 (n * stateSlot) true with
  | .error st => .error (st, h)
  | .ok e => if 1 ≤ e.place ∧ e.place ≤ 3 ∧ e.layout ≠ 4 then .ok e else .error (0x11, h)

/-- Row stages of a score chain that run as PASS, and stages dropped (R193). -/
def scoreClamps (ws : List Word) : Nat :=
  let n := (chOut ws).nstage
  (n - 5) + ((List.range (min 5 n)).filter fun k =>
    let o := (chW ws (2 + k)).fld 63 58
    decide (o ≥ 0x20 ∧ o ≠ 0x20 ∧ o ≠ 0x21 ∧ o ≠ 0x27)).length

/-- Row stages of a closing chain that run as PASS, and stages dropped (R193). -/
def closeClamps (ws : List Word) : Nat := ((chOut ws).nstage - 7) + rowStages (capStages ws 7)

/-- The fields of a CHAINED or SOFTMAX SCARF_OP that are clamped whatever its operands are (R188, R189, R191, R193); N_M1 and SPAN256, which
a stream's LEN and the window clamp further, count with the operands (R190, R205). -/
def Body.scarfClamps (b : Body) (fl : Flight) (mode : Nat) : Nat :=
  let c := fl.cmd
  let x := scarfFields c
  let tm := min (shapeExtent (min 2 x.shape)).1 (x.tm + 1)
  diff (min 2 x.shape) x.shape + diff (min 256 x.k) x.k + diff tm (x.tm + 1) +
    (if ceilDiv x.m tm > 2 ^ 32 - 1 then diff ((2 ^ 32 - 1) * tm) x.m else 0) + b.placeClamps fl.slot x +
    proClamps fl (c.f 2 5 0) + scoreClamps (fl.chain (c.f 3 11 6)) + (if mode = 1 then closeClamps (fl.chain x.chain) else 0) +
    (if c.f 1 5 4 = 3 then 1 else 0)

/-- What CHAINED and SOFTMAX resolve and check at their start (R188-R190, R194, R205). -/
def Body.scarfStart (b : Body) (fl : Flight) (mode : Nat) : Except Bad Started := do
  let c := fl.cmd
  let x := scarfFields c
  let pm := min 2 x.pinMode
  match b.place fl.slot x.quays x.bmask pm x.pin 1 1 with
  | none => .error (0x11, x.quays)
  | some (qs, us, _, _) =>
    let g := us.flatten.headD 0
    let pin := if pm = 2 then some (min 199 x.pin) else none
    let shape := min 2 x.shape
    let (tmx, tn) := shapeExtent shape
    let d := min 256 x.k
    let ea ← b.loadEntry fl.slot x.aH pin
    let ek ← b.kvEntry fl.slot x.bH 0 d pin
    let ev ← if mode = 1 then (b.kvEntry fl.slot (c.h 8) 1 d pin).map some else Except.ok none
    need (match ev with
      | some v => decide (ek.layout ≠ 4 ∨ v.layout ≠ 4 ∨ ((crateOf ek).1 = (crateOf v).1 ∧ (crateOf ek).2.1 = (crateOf v).2.1))
      | none => true) 0x11 (c.h 8)
    let lens := ((ek :: ev.toList).filter fun e => decide (e.layout = 4)).map fun e => lenOf fl (crateOf e).1 (crateOf e).2.1
    let n1 := min 2097152 x.n
    let n := lens.foldl min n1
    let tm := min tmx (x.tm + 1)
    let m := if ceilDiv x.m tm > 2 ^ 32 - 1 then (2 ^ 32 - 1) * tm else x.m
    let out ← b.drainEntry fl.slot x.outH false us
    let j0 : Job := { m := m, n := n, k := d, tm := tm, tn := tn, rows := ceilDiv m tm, cols := 1, shape := shape, mode := mode,
                      chain := x.chain, hoff := 32 * x.hoff, part := 32 * x.hsize }
    b.outChecks fl { j0 with mode := 0 } out x.outH x.outOff g
    need (opndStream ea false x.aOff).isSome 0x11 x.aH
    need (decide (ek.layout = 4) || (opndStream ek true x.bOff).isSome) 0x11 x.bH
    need (match ev with
      | some v => decide (v.layout = 4) || (opndStream v true (c.f 8 37 18)).isSome
      | none => true) 0x11 (c.h 8)
    let (pro, onK, _, _) := proOf c d
    need (b.chainJigsOk (vecEnv fl pro g) && b.chainJigsOk (epiEnv fl (c.f 3 11 6) g)) 0x12 0
    let st ← b.stateEntry fl.slot (c.h 6) j0.rows
    let skip ← b.skipEntry fl.slot x.skipH j0.rows
    need (b.windowHeld fl.slot us j0.hoff (4 * j0.part)) 0x11 0
    let ws := fl.chain pro
    let bq := elemBits (widest ea.fmt ws (decide (pro ≠ 0) && !onK))
    let bk := elemBits (widest ek.fmt ws (decide (pro ≠ 0) && onK))
    let bv := match ev with
      | some v => elemBits v.fmt
      | none => 0
    let (span, n2) ← if mode = 1 then
        match spanFit (c.f 5 31 16) tm d tn bq bk bv (4 * j0.part) with
        | some r => Except.ok r
        | none => Except.error (0x11, 0)
      else if ceilDiv (tm * d * bq) 8 + ceilDiv (2 * d * tn * bk) 8 ≤ 4 * j0.part then Except.ok (tn, 0)
      else Except.error (0x11, 0)
    .ok { op := { fl := fl, kind := 2 + mode, job := { j0 with span := span }, a := [ea], b := [ek], v := ev, out := out, scr := some st,
                  skip := skip, quays := qs, units := us, steal := (b.stealOn fl.slot x.steal pm).1, pin := pm },
          clamps := b.scarfClamps fl mode + diff n x.n + n2 + sClamp fl { j0 with mode := 0 } out,
          handles := [x.aH, x.bH, x.outH, c.h 6] ++ (if mode = 1 then [c.h 8] else []) ++ (if x.skipH = 0 then [] else [x.skipH]),
          uses := opRegions j0 us ([ea, ek, out, st] ++ ev.toList) }

/-- A key or value source as a tile resolves it now (R219). -/
def Body.kvSrc (b : Body) (e : Entry) (off n : Nat) : Option KvSrc :=
  if e.layout = 4 then
    (b.crateMap (crateOf e).1).map fun m => .crate m (crateOf e).2.1 (b.crateSrcs m (crateOf e).2.1 0 n)
  else (opndStream e true off).map .opnd

/-- The job of tile `i` of a CHAINED or SOFTMAX operation on a Berth. -/
def Body.scarfJob (b : Body) (o : TileOp) (g i : Nat) : Option AttnJob := do
  let j := o.job
  let c := o.fl.cmd
  let x := scarfFields c
  let ea := o.a.headD {}
  let ek := o.b.headD {}
  let (pro, onK, klo, khi) := proOf c j.k
  let oa ← opndStream ea false x.aOff
  let k ← b.kvSrc ek x.bOff j.n
  let v : Option KvSrc := o.v.bind fun e => b.kvSrc e (c.f 8 37 18) j.n
  some { g := g, m := min j.tm (j.m - i * j.tm), d := j.k, key0 := 0, key1 := j.n, q := oa.shift (i * j.tm) 0, k := k, v := v,
         sq := tensorOf ea, sk := tensorOf ek, sv := o.v.bind tensorOf, pro := pro, onK := onK, klo := klo, khi := khi,
         score := c.f 3 11 6, chain := j.chain, span := j.span }

/-- Takes the Bench for the chains of a chained tile that read it. -/
def Body.attnTake (b : Body) (fl : Flight) (a : AttnJob) : Body :=
  if chainUsesBench (fl.chain a.score) ∨ (a.pro ≠ 0 ∧ chainUsesBench (fl.chain a.pro)) ∨
      (List.range 5).any (fun k => decide ((chW (fl.chain a.score) (2 + k)).fld 63 58 = 0x20)) then b.benchTake a.g fl.cmd.ctx.toNat
  else b

/-- A CHAINED tile (R195). -/
def Body.chainedTile (b : Body) (o : TileOp) (u p : List Nat) : TileEnd :=
  let i := p.getD 0 0
  match b.scarfJob o (u.headD 0) i, opndOwn o.out (scarfFields o.fl.cmd).outOff, o.scr with
  | some a, some oo, some st =>
    let fl := o.fl
    let oo := oo.shift (i * o.job.tm) 0
    match b.crateStop fl (crateOf (o.b.headD {})).1 a with
    | some e => e
    | none =>
      if ¬ (b.attnMay a ∧ attnBench fl a ∧ (closeEnvOf fl a.chain a.g 7).benchOk a.m a.d ∧ b.blockMay oo a.m a.d true) then { b := b, status := 0x11 }
      else
        let (s, a, b) := (b.attnTake fl a).attnLoad fl a
        if s ≠ 0 then { b := b, status := s }
        else
          let b := b.attnPasses fl a o.job.shape o.job.tn 1 true
          let (acc, c, sts, b) := b.attnValues fl a
          let b := (b.blurWindow o u).closeOut fl a 7 oo acc c
          { b := b.putRecords fl st i ((spansOf a).length) (a.g / 20) sts false }
  | _, _, _ => { b := b, status := 0x11 }

/-- One sweep of a SOFTMAX tile: every group's e values by row, and the row states (R199). -/
def Body.sweep (b : Body) (fl : Flight) (a : AttnJob) (qs : List (List KRow)) (f : Body → Nat × Nat → List (List Nat) → List RowSt → List RowSt × Body) :
    List RowSt × Body :=
  (keyGroups a.key0 a.key1).foldl (fun (p : List RowSt × Body) kg =>
    let (es, sts, b) := p.2.groupScores fl a qs kg.1 kg.2 p.1
    f b kg es sts) (List.replicate a.m {}, b)

/-- RNORM of one e value (R192). -/
def rnorm (e l : Nat) : Nat := if (fBM40.dec l).isZero then 0 else toF32 ((fBM40.dec e).div (fBM40.dec l))

/-- A SOFTMAX tile (R193, R199): the first sweep writes the row records, the second OUT. NEXT_SPAN of its records is a free value: the
spec gives it no meaning in this mode (log entry 36). -/
def Body.softmaxTile (b : Body) (o : TileOp) (u p : List Nat) : TileEnd :=
  let i := p.getD 0 0
  match b.scarfJob o (u.headD 0) i, opndOwn o.out (scarfFields o.fl.cmd).outOff, o.scr with
  | some a, some oo, some st =>
    let fl := o.fl
    let oo := oo.shift (i * o.job.tm) 0
    let v := closeEnvOf fl a.chain a.g 0
    match b.crateStop fl (crateOf (o.b.headD {})).1 a with
    | some e => e
    | none =>
      if ¬ (b.attnMay a ∧ attnBench fl a ∧ v.benchOk a.m a.key1 ∧ b.blockMay oo a.m a.key1 true) then { b := b, status := 0x11 }
      else
        let (s, a, b) := (b.attnTake fl a).attnLoad fl a
        if s ≠ 0 then { b := b, status := s }
        else
          let b := b.attnPasses fl a o.job.shape o.job.tn 2 false
          let (qs, b) := b.queryRows fl a
          let (sts, b) := b.sweep fl a qs fun b _ es sts =>
            (List.range a.m).foldl (fun (z : List RowSt × Body) r =>
              let (x, b) := z.2.rsum a.g (es.getD r []) (sts.getD r {})
              (z.1 ++ [x], b)) ([], b)
          let (w, b) := b.free
          let b := b.putRecords fl st i w.toNat (a.g / 20) sts false
          let b := b.bump (.brScarfTally a.g) Fld.brScarfTallyEmptyRow ((sts.filter fun x => (fBM40.dec x.l).isZero).length)
          let b := if chainUsesBench v.words then b.benchTake a.g fl.cmd.ctx.toNat else b
          let tile := decide ((chOut v.words).scale = 2)
          let rows0 : List (List Nat) := List.replicate a.m []
          let (rows, am, b) := (keyGroups a.key0 a.key1).foldl (fun (z : List (List Nat) × Nat × Body) kg =>
            let (es, _, b) := z.2.2.groupScores fl a qs kg.1 kg.2 (List.replicate a.m {})
            let ps := (List.range a.m).map fun r => (es.getD r []).map fun e => rnorm e (sts.getD r {}).l
            let am := ps.flatten.foldl amaxWith z.2.1
            let b := if tile then b
              else (List.range a.m).foldl (fun b r =>
                let (ecc, b) := b.outRow fl v oo r kg.1 ((List.range kg.2).map (kg.1 + ·)) (ps.getD r []) (a.g / 20)
                b.noteEcc fl.uid ecc) b
            ((z.1.zip ps).map fun y => y.1 ++ y.2, am, b)) (rows0, 0, b)
          let b := if tile then
              let (ecc, b) := (b.stageBlur v a.m a.key1).outTile fl v oo 0 0 a.m a.key1 rows.flatten (a.g / 20)
              b.noteEcc fl.uid ecc
            else b
          let b := if (chOut v.words).scale = 3 then b.noteAmax fl.uid (amaxReg v.words) am else b
          { b := b.blurWindow o u }
  | _, _, _ => { b := b, status := 0x11 }

/-- The mode of a SCARF_OP after its clamp (R188). -/
def scarfMode (c : Cmd) : Nat := min 2 (c.f 1 5 4)

/-- SCARF_OP of a mode. -/
def Body.scarfOp (b : Body) (c : Cmd) (mode : Nat) : Body :=
  b.onSub c 0x44 (decide (scarfMode c = mode)) fun b fl =>
    match if mode = 0 then b.singleStart fl else b.scarfStart fl mode with
    | .error (st, h) => b.badStart fl (if mode = 0 then b.singleClamps fl else b.scarfClamps fl mode) st h
    | .ok r => b.beginOp r.op r.clamps r.handles r.uses

/-- SCARF_OP, MODE SINGLE (R188). -/
def execScarfOpSingle (c : Cmd) (s : State) : Host.Outcome State Fault Refusal := s.onBody fun b => b.scarfOp c 0

/-- SCARF_OP, MODE CHAINED (R188). -/
def execScarfOpChained (c : Cmd) (s : State) : Host.Outcome State Fault Refusal := s.onBody fun b => b.scarfOp c 1

/-- SCARF_OP, MODE SOFTMAX (R188). -/
def execScarfOpSoftmax (c : Cmd) (s : State) : Host.Outcome State Fault Refusal := s.onBody fun b => b.scarfOp c 2

end Sys2Proof.Machine
end

