-- ==== Sys2Proof/Machine/Attention.lean ====
section
/-!
DEFINITION. ATTN_BATCH (R225-R228): its item list, the order and dealing of items, ATTEND and MERGE items.
-/

namespace Sys2Proof.Machine

/-! ### The item list (R225, R226) -/

/-- An item after its clamps: kind, map, stream, PART, NPART, Q_ROW, OUT_ROW, KEY0, KEY1, SLOT, ROWS; and the fields clamped. The four
words are `w`; `len` gives a stream's LEN. -/
def attnItem (len : Nat → Nat → Nat) (tm : Nat) (w : Nat → Nat) : List Nat × Nat :=
  let kind := bits (w 0) 28 28
  let map := bits (w 0) 11 0
  let stream := bits (w 0) 27 12
  let l := len map stream
  let npart := bits (w 0) 38 32
  let key0 := bits (w 2) 31 0
  let key1 := bits (w 2) 63 32
  let rows := bits (w 3) 47 32
  let np := max 1 (min 64 npart)
  let r := max 1 (min tm rows)
  let k0 := key0 / 256 * 256
  let k1 := if key1 = 0 ∨ key1 > l then l else key1
  ([kind, map, stream, bits (w 0) 29 29, np, bits (w 1) 31 0, bits (w 1) 63 32, k0, k1, bits (w 3) 31 0, r],
    diff r rows + (if kind = 1 then diff np npart else diff k0 key0 + (if key1 > l then 1 else 0)))

/-- The bucket of a key count (R226). -/
def attnBucket (k : Nat) : Nat := ((List.range 15).find? fun i => decide (k ≤ 2 ^ (i + 6))).getD 15

/-- The items of a list whose number is `r` modulo `q`. -/
def everyNth (q r : Nat) (l : List (List Nat)) : List (List Nat) :=
  ((List.range l.length).filter fun j => decide (j % q = r)).map fun j => l.getD j []

/-- Items in the order of the Quays they are dealt to: item j to rank j mod Q (R226). -/
def dealItems (q : Nat) (l : List (List Nat)) : List (List Nat) := (List.range q).flatMap fun r => everyNth q r l

/-- The items as the batch works them: ATTEND items by bucket from 15 down, then MERGE items, each dealt to the Quays (R226). -/
def orderItems (q : Nat) (l : List (List Nat)) : List (List Nat) :=
  let att := l.filter fun x => decide (x.getD 0 0 = 0)
  let sorted := (List.range 16).reverse.flatMap fun k => att.filter fun x => decide (attnBucket (x.getD 8 0 - x.getD 7 0) = k)
  dealItems q sorted ++ dealItems q (l.filter fun x => decide (x.getD 0 0 = 1))

/-! ### Start -/

/-- The fields of an ATTN_BATCH that are clamped whatever its operands are (R189, R191, R193, R225); SPAN256 and the items' fields count with
the operands. -/
def attnClamps (fl : Flight) : Nat :=
  let c := fl.cmd
  let shape := min 2 (c.f 1 7 6)
  diff shape (c.f 1 7 6) + diff (min (shapeExtent shape).1 (c.f 1 17 8 + 1)) (c.f 1 17 8 + 1) +
    diff (max 1 (min 4096 (c.f 8 12 0))) (c.f 8 12 0) + proClamps fl (c.f 1 5 0) + scoreClamps (fl.chain (c.f 2 17 12)) +
    closeClamps (fl.chain (c.f 2 11 6))

/-- What an ATTN_BATCH resolves and checks at its start (R189-R191, R194, R205, R225); the item list as it was read. -/
def Body.attnStart (b : Body) (fl : Flight) : Except Bad (Started × Bool) := do
  let c := fl.cmd
  let qMask := c.f 6 37 28
  match b.place fl.slot qMask (c.f 6 27 8) 0 0 1 1 with
  | none => .error (0x11, qMask)
  | some (qs, us, _, _) =>
    let g := us.flatten.headD 0
    let shape := min 2 (c.f 1 7 6)
    let (tmx, tn) := shapeExtent shape
    let tm := min tmx (c.f 1 17 8 + 1)
    let ek0 ← match b.resolve fl.slot (c.h 2) with
      | some e => Except.ok e
      | none => Except.error (0x12, c.h 2)
    let m ← match b.crateMap (crateOf ek0).1 with
      | some m => if ek0.layout = 4 then Except.ok m else Except.error (0x11, c.h 2)
      | none => Except.error (0x11, c.h 2)
    let ea ← b.loadEntry fl.slot (c.h 1) none
    let ek ← b.kvEntry fl.slot (c.h 2) 0 m.d none
    let ev ← b.kvEntry fl.slot (c.h 3) 1 m.d none
    need (decide (ev.layout = 4 ∧ (crateOf ek).1 = (crateOf ev).1 ∧ (crateOf ek).2.1 = (crateOf ev).2.1)) 0x11 (c.h 3)
    let out ← b.drainEntry fl.slot (c.h 4) false us
    let nitem := max 1 (min 4096 (c.f 8 12 0))
    let list ← match b.access fl.slot (c.h 6) 0 (32 * nitem) false with
      | .error st => Except.error (st, c.h 6)
      | .ok e => if e.place = 5 ∨ e.layout = 4 then Except.error (0x11, c.h 6) else Except.ok e
    let its := (List.range nitem).map fun i => attnItem (lenOf fl) tm fun w => b.le (list.base + 32 * i + 8 * w) 8
    let chain := c.f 2 11 6
    let score := c.f 2 17 12
    let j : Job := { m := tm, n := tn, k := m.d, tm := tm, tn := tn, rows := 1, cols := 1, shape := shape, chain := chain,
                     hoff := 32 * c.f 7 37 18, part := 32 * c.f 7 17 0 }
    b.outChecks fl j out (c.h 4) 0 g
    need (opndStream ea false 0).isSome 0x11 (c.h 1)
    let pro := c.f 1 5 0
    need (b.chainJigsOk (vecEnv fl pro g) && b.chainJigsOk (epiEnv fl score g)) 0x12 0
    let st ← b.stateEntry fl.slot (c.h 5) 0
    need (b.windowHeld fl.slot us j.hoff (4 * j.part)) 0x11 0
    let bq := elemBits (widest ea.fmt (fl.chain pro) (decide (pro ≠ 0)))
    let (span, n2) ← match spanFit (c.f 3 31 16) tm m.d tn bq (8 * m.eb) (8 * m.eb) (4 * j.part) with
      | some r => Except.ok r
      | none => Except.error (0x11, 0)
    let q0 := if fl.progress = [] then qs.length else max 1 (fl.progress.headD 0 / 4)
    .ok ({ op := { fl := fl, kind := 5, job := { j with span := span }, a := [ea], b := [ek], v := some ev, out := out, scr := some st,
                   items := orderItems q0 (its.map (·.1)), quays := qs, units := us },
           clamps := attnClamps fl + n2 + sClamp fl j out + (its.map (·.2)).sum,
           handles := [c.h 1, c.h 2, c.h 3, c.h 4, c.h 5, c.h 6],
           uses := opRegions j us [ea, out, st] }, (b.badIn list.base (32 * nitem)).isSome)

/-- ATTN_BATCH (R225): its list is read at its start. -/
def execAttnBatch (c : Cmd) (s : State) : Host.Outcome State Fault Refusal :=
  s.onBody fun b => b.onCmd c 0x45 fun b fl =>
    match b.attnStart fl with
    | .error (st, h) => b.badStart fl (attnClamps fl) st h
    | .ok (r, bad) =>
      let list := (b.resolve fl.slot (c.h 6)).getD {}
      let n := 32 * max 1 (min 4096 (c.f 8 12 0))
      let b := b.tierTraffic fl.slot list.base n false 11
      let (op, b) := if bad then
          match b.badIn list.base n with
          | some x => ({ r.op with fl := { r.op.fl with ecc := true } }, b.eccRead fl x)
          | none => (r.op, b)
        else (r.op, b)
      b.beginOp op r.clamps r.handles r.uses

/-! ### ATTEND (R225, R227) -/

/-- The map of an item, of the context and alike the K_HANDLE's in format and head dimension. -/
def Body.itemMap (b : Body) (o : TileOp) (it : List Nat) : Option CrateMap :=
  match b.crateMap (crateOf (o.b.headD {})).1, b.crateMap (it.getD 1 0) with
  | some k, some m =>
    if m.slot = o.fl.slot ∧ m.fmt = k.fmt ∧ m.hd = k.hd ∧ it.getD 2 0 < m.nstream ∧ it.getD 8 0 ≤ m.maxlen then some m else none
  | _, _ => none

/-- The job of an ATTEND item on a Berth. -/
def Body.attendJob (b : Body) (o : TileOp) (g : Nat) (it : List Nat) (m : CrateMap) : Option AttnJob :=
  let ea := o.a.headD {}
  let key0 := it.getD 7 0
  let key1 := it.getD 8 0
  let srcs := b.crateSrcs m (it.getD 2 0) key0 key1
  (opndStream ea false 0).map fun oa =>
    { g := g, m := it.getD 10 1, d := o.job.k, key0 := key0, key1 := key1, q := oa.shift (it.getD 5 0) 0,
      k := .crate m (it.getD 2 0) srcs, v := some (.crate m (it.getD 2 0) srcs), sq := tensorOf ea, sk := tensorOf (o.b.headD {}),
      sv := o.v.bind tensorOf, pro := o.fl.cmd.f 1 5 0, onK := false, klo := 0, khi := o.job.k, score := o.fl.cmd.f 2 17 12,
      chain := o.job.chain, span := o.job.span }

/-- STATE holds slots [s, s + n). -/
def stateFits (e : Entry) (s n : Nat) : Bool := decide ((s + n) * stateSlot ≤ e.size)

/-- An ATTEND item with PART and no keys: +0 in the running-O area, and its records (R225). -/
def Body.emptyPart (b : Body) (fl : Flight) (a : AttnJob) (st : Entry) (slot : Nat) : Body :=
  (b.putF32 fl (st.base + slot * stateSlot) 1024 a.m a.d (List.replicate (a.m * a.d) 0) (a.g / 20)).putRecords fl st slot 0 (a.g / 20)
    (List.replicate a.m {}) true

/-- An ATTEND item on a Berth: one CHAINED tile over its keys (R225), or a part of one (R227). -/
def Body.attendTile (b : Body) (o : TileOp) (u it : List Nat) : TileEnd :=
  let g := u.headD 0
  let fl := o.fl
  let slot := it.getD 9 0
  let part := decide (it.getD 3 0 = 1)
  match b.itemMap o it, opndOwn o.out 0, o.scr with
  | some m, some oo, some st =>
    let oo := oo.shift (it.getD 6 0) 0
    match b.attendJob o g it m with
    | none => { b := b, status := 0x11 }
    | some a =>
      let none_ := decide (a.key1 ≤ a.key0)
      match b.crateStop fl (it.getD 1 0) a with
      | some e => e
      | none =>
        if ¬ (stateFits st slot 1 ∧ (none_ ∨ (b.attnMay a ∧ attnBench fl a)) ∧
            (part ∨ ((closeEnvOf fl a.chain g 7).benchOk a.m a.d ∧ b.blockMay oo a.m a.d true))) then { b := b, status := 0x11 }
        else if none_ ∧ part then { b := b.emptyPart fl a st slot }
        else
          let (s, a, b) := if none_ then (0, a, b) else (b.attnTake fl a).attnLoad fl a
          if s ≠ 0 then { b := b, status := s }
          else
            let b := if none_ then b else b.attnPasses fl a o.job.shape o.job.tn 1 true
            let (acc, c, sts, b) := b.attnValues fl a
            let b := if none_ then b else b.blurWindow o u
            let b := if part then b.putF32 fl (st.base + slot * stateSlot) 1024 a.m a.d c (g / 20) else b.closeOut fl a 7 oo acc c
            { b := b.putRecords fl st slot ((spansOf a).length) (g / 20) sts part }
  | _, _, _ => { b := b, status := 0x11 }

/-! ### MERGE (R227) -/

/-- L of row `r` of a STATE slot. -/
def Body.stateL (b : Body) (st : Entry) (slot r : Nat) : Nat := b.le (st.base + slot * stateSlot + 262144 + 32 * r) 8 % 2 ^ 40

/-- The running O of a STATE slot of `d` columns at row `r`, column `c`. -/
def Body.stateO (b : Body) (st : Entry) (slot r c : Nat) : Nat := b.le (st.base + slot * stateSlot + 1024 * r + 4 * c) 4

/-- The weights of a row's parts. -/
def mergeWeights (ls : List Nat) (l : Nat) : List Nat :=
  ls.map fun x => if (fBM40.dec l).isZero then 0 else toF32 ((fBM40.dec x).div (fBM40.dec l))

/-- One element: the parts in increasing order, fused, each rounded once. -/
def mergeElem (ws os : List Nat) : Nat :=
  (ws.zip os).foldl (fun o p => toF32 ((ofF32 o).add ((ofF32 p.1).mul (ofF32 p.2)))) 0

/-- A MERGE item on a Berth (R227). -/
def Body.mergeTile (b : Body) (o : TileOp) (u it : List Nat) : TileEnd :=
  let g := u.headD 0
  let p := g / 20
  let fl := o.fl
  let d := o.job.k
  let rows := it.getD 10 1
  let slot := it.getD 9 0
  let np := it.getD 4 1
  match opndOwn o.out 0, o.scr with
  | some oo, some st =>
    let oo := oo.shift (it.getD 6 0) 0
    if ¬ (stateFits st slot np ∧ (closeEnvOf fl o.job.chain g 7).benchOk rows d ∧ b.blockMay oo rows d true) then { b := b, status := 0x11 }
    else
      let b := (List.range np).foldl (fun b i =>
        let base := st.base + (slot + i) * stateSlot
        (b.readF32 fl base 1024 rows d p).readF32 fl (base + 262144) 32 rows 2 p) b
      let parts : List (List Nat) := (List.range rows).map fun r => (List.range np).map fun i => b.stateL st (slot + i) r
      let sums := parts.map fun ls => ls.foldl (fun a x => bmAdd a (x, {})) ((0, {}) : Nat × Tally)
      let os := (List.range rows).flatMap fun r =>
        let ws := mergeWeights (parts.getD r []) (sums.getD r (0, {})).1
        (List.range d).map fun c => mergeElem ws ((List.range np).map fun i => b.stateO st (slot + i) r c)
      let b := sums.foldl (fun b x => b.fmtTally g x.2 false) b
      let b := b.bump (.brScarfTally g) Fld.brScarfTallyEmptyRow ((sums.filter fun x => (fBM40.dec x.1).isZero).length)
      let a : AttnJob := { g := g, m := rows, d := d, key0 := 0, key1 := 0, q := oo, k := .opnd oo, v := none, sq := none, sk := none,
                           sv := none, pro := 0, onK := false, klo := 0, khi := 0, score := 0, chain := o.job.chain, span := 0 }
      let b := b.closeOut fl a 7 oo os os
      { b := (List.range rows).foldl (fun b r =>
          let l := (sums.getD r (0, {})).1
          let at_ := st.base + slot * stateSlot + 262144 + 32 * r
          let b := b.tierTraffic fl.slot at_ 32 true p
          let (e1, b) := b.storePlain fl at_ (leBytes 8 l)
          let (e2, b) := b.storePlain fl (at_ + 16) (leBytes 4 (lseOf l))
          b.noteEcc fl.uid (e1 || e2)) b }
  | _, _ => { b := b, status := 0x11 }

/-- An item of an ATTN_BATCH, by its place in the sequence of its phase. -/
def Body.attnTile (b : Body) (o : TileOp) (u p : List Nat) : TileEnd :=
  let it := (o.items.filter fun x => decide (x.getD 0 0 = o.phase)).getD (p.getD 0 0) []
  if o.phase = 0 then b.attendTile o u it else b.mergeTile o u it

end Sys2Proof.Machine
end

