-- ==== Sys2Proof/Machine/Curve.lean ====
section
/-!
DEFINITION. ECDSA on brainpoolP384r1 (R403, R421, R424). The curve's constants and the algorithm are those of RFC 5639 and FIPS
186, which the spec names and does not restate (PRESUMED, log entry 8).
-/

namespace Sys2Proof.Machine

/-- The prime of the field. -/
def curveP : Nat :=
  0x8CB91E82A3386D280F5D6F7E50E641DF152F7109ED5456B412B1DA197FB71123ACD3A729901D1A71874700133107EC53

/-- The coefficient of x. -/
def curveA : Nat :=
  0x7BC382C63D8C150C3C72080ACE05AFA0C2BEA28E4FB22787139165EFBA91F90F8AA5814A503AD4EB04A8C7DD22CE2826

/-- The constant coefficient. -/
def curveB : Nat :=
  0x04A8C7DD22CE28268B39B55416F0447C2FB77DE107DCD2A62E880EA53EEB62D57CB4390295DBC9943AB78696FA504C11

/-- The base point. -/
def curveG : Nat × Nat :=
  (0x1D1C64F068CF45FFA2A63A81B7C13F6B8847A3E77EF14FE3DB7FCAFE0CBD10E8E826E03436D646AAEF87B2E247D4AF1E,
   0x8ABE1D7520F9C2A45CB1EB8E95CFD55262B70B29FEEC5864E19C054FF99129280E4646217791811142820341263C5315)

/-- The order of the base point, a prime. -/
def curveN : Nat :=
  0x8CB91E82A3386D280F5D6F7E50E641DF152F7109ED5456B31F166E6CAC0425A7CF3AB6AF6B7FC3103B883202E9046565

/-- `x` to the power of the low `k` bits of `e`, modulo `m`, times `acc`. -/
def powMod (m : Nat) : Nat → Nat → Nat → Nat → Nat
  | 0, _, _, acc => acc
  | k + 1, x, e, acc => powMod m k (x * x % m) (e / 2) (if e % 2 = 1 then acc * x % m else acc)

/-- The inverse modulo a prime of 384 bits. -/
def invMod (m x : Nat) : Nat := powMod m 384 (x % m) (m - 2) 1

/-- A point of the curve; none is the point at infinity. -/
abbrev CurvePt := Option (Nat × Nat)

/-- The sum of two points. -/
def curveAdd (s t : CurvePt) : CurvePt :=
  match s, t with
  | none, t => t
  | s, none => s
  | some (x1, y1), some (x2, y2) =>
    let go (l : Nat) : CurvePt :=
      let x := (l * l + (curveP - x1) + (curveP - x2)) % curveP
      some (x, (l * (x1 + (curveP - x)) + (curveP - y1)) % curveP)
    if x1 = x2 then
      if (y1 + y2) % curveP = 0 then none
      else go ((3 * x1 * x1 + curveA) * invMod curveP (2 * y1) % curveP)
    else go ((y2 + (curveP - y1)) * invMod curveP (x2 + (curveP - x1)) % curveP)

/-- The multiple of a point by the low `n` bits of a number, added to `acc`. -/
def curveMul : Nat → Nat → CurvePt → CurvePt → CurvePt
  | 0, _, _, acc => acc
  | n + 1, k, s, acc => curveMul n (k / 2) (curveAdd s s) (if k % 2 = 1 then curveAdd acc s else acc)

/-- A point of the curve in affine coordinates. -/
def onCurve (x y : Nat) : Bool :=
  decide (x < curveP ∧ y < curveP) && decide (y * y % curveP = (x * x * x + curveA * x + curveB) % curveP)

/-- ECDSA verification of a 96-byte signature (r, then s, big-endian) over a hash, with an uncompressed public key of 97 bytes (R403). -/
def ecdsaOk (key sig : List Byte) (z : BitVec 384) : Bool :=
  let x := ofBe ((key.drop 1).take 48)
  let y := ofBe ((key.drop 49).take 48)
  let r := ofBe (sig.take 48)
  let s := ofBe ((sig.drop 48).take 48)
  if key.headD 0 = 4 ∧ onCurve x y ∧ 1 ≤ r ∧ r < curveN ∧ 1 ≤ s ∧ s < curveN then
    let w := invMod curveN s
    match curveAdd (curveMul 384 (z.toNat * w % curveN) (some curveG) none) (curveMul 384 (r * w % curveN) (some (x, y)) none) with
    | some (v, _) => decide (v % curveN = r)
    | none => false
  else false

/-- The signature by a private scalar over a hash with a per-signature secret `k`; none where the secret gives a zero part and another must
be drawn. -/
def ecdsaSign (d k : Nat) (z : BitVec 384) : Option (List Byte) :=
  match curveMul 384 k (some curveG) none with
  | none => none
  | some (x, _) =>
    let r := x % curveN
    let s := invMod curveN k * (z.toNat + r * d) % curveN
    if r = 0 ∨ s = 0 then none else some (beBytes 48 r ++ beBytes 48 s)

end Sys2Proof.Machine
end

