-- ==== Sys2Proof/Machine/Vecop.lean ====
section
/-!
DEFINITION. VEC_OP (R147) and RESAMPLE (R238-R240): chains over buffers in blocks of 32 rows, staged through a Hold window.
-/

namespace Sys2Proof.Machine

/-! ### What the two share (R147) -/

/-- An input of a VEC_OP or RESAMPLE: readable, and no CRATE entry. -/
def Body.vecIn (b : Body) (slot h : Nat) : Except Bad Entry :=
  match b.resolve slot h with
  | none => .error (0x12, h)
  | some e => if e.rd ∧ e.layout ≠ 4 then .ok e else .error (0x11, h)

/-- An output of a VEC_OP or RESAMPLE: writable, no CRATE entry, and of the chain's output format (R147, R185). -/
def Body.vecOut (b : Body) (fl : Flight) (h chain : Nat) : Except Bad Entry :=
  match b.resolve fl.slot h with
  | none => .error (0x12, h)
  | some e => if e.wr ∧ e.layout ≠ 4 ∧ outMatches (chOut (fl.chain chain)) e then .ok e else .error (0x11, h)

/-- Bytes of `m` rows of `n` elements in a window part, scale bytes included. -/
def rowsBytes (fmt m n : Nat) : Nat := m * (ceilDiv (n * elemBits fmt) 8 + (if isMx fmt then ceilDiv n 32 else 0))

/-- The staging rules of R147: with no window one Berth alone works in its own Hold; else every window is held, and a staged block fits
its part. -/
def Body.stagingOk (b : Body) (slot : Nat) (us : List (List Nat)) (hoff hsize : Nat) (ei eo : Entry) (inBytes outBytes : Nat) : Bool :=
  let gs := us.flatten
  let own (e : Entry) : Bool := gs.all fun g => inOwnHold e g
  if hsize = 0 then decide (gs.length = 1) && own ei && own eo
  else
    b.windowHeld slot us (32 * hoff) (128 * hsize) && (own ei || decide (inBytes ≤ 32 * hsize)) &&
      (own eo || decide (outBytes ≤ 32 * hsize))

/-- Where a Berth's chain writes a block of OUT: the entry itself, or, for a remote Gangway, the bytes its copy takes from the window. -/
def vecDest (oo : Opnd) : Opnd :=
  if oo.e.place = 5 then { oo with e := { oo.e with base := remoteBase oo.e.gangway } } else oo

/-- The copy of a block of OUT to a remote Gangway: its status (R357, R358; log entry 26). -/
def Body.remoteStore (b : Body) (fl : Flight) (oo : Opnd) (m n : Nat) : Nat × Body :=
  if oo.e.place ≠ 5 then (0, b)
  else
    match b.pickLine oo.e.module (b.partOfSlot fl.slot) (dmaVc fl.cmd) with
    | (none, b) => (0x21, b)
    | (some l, b) =>
      let b := (oo.spans m n).foldl (fun b s =>
        let msg : Msg := { port := .line l, kind := .remoteWrite, nums := [oo.e.module, oo.e.gangway, oo.e.base + s.1, s.2, oo.e.key],
                           data := b.bytes (remoteBase oo.e.gangway + s.1) s.2 }
        b.lineSend l (dmaVc fl.cmd) msg none) b
      let (w, b) := b.free
      ([0, 0x13, 0x11, 0x20, 0x21, 0x41].getD (w.toNat % 6) 0, b.blurPart (remoteBase oo.e.gangway) oo.e.size)

/-- A block of values through the chain to OUT, by a Berth. -/
def Body.vecPut (b : Body) (o : TileOp) (g : Nat) (oo : Opnd) (m n : Nat) (staged : Bool) (ins : List Nat) : TileEnd :=
  let fl := o.fl
  let v := vecEnv fl o.job.chain g
  let b := if chainUsesBench v.words then b.benchTake g fl.cmd.ctx.toNat else b
  let (ecc, am, b) := b.epilogue fl v (vecDest oo) 0 0 m n ins (g / 20)
  let b := b.noteEcc fl.uid ecc
  let b := if (chOut v.words).scale = 3 then b.noteAmax fl.uid (amaxReg v.words) am else b
  let b := if staged then b.blurWindow o [g] else b
  let (st, b) := b.remoteStore fl oo m n
  { b := b, status := st }

/-- A block is staged through the window in a Berth. -/
def stagedIn (ei eo : Entry) (g : Nat) : Bool := !(inOwnHold ei g && inOwnHold eo g)

/-! ### VEC_OP (R147) -/

/-- The fields of a VEC_OP or RESAMPLE that are clamped: STEAL, and the chain's row stages (R128, R193). -/
def Body.vecClamps (b : Body) (fl : Flight) (steal : Bool) : Nat :=
  (b.stealOn fl.slot steal 0).2 + rowStages (fl.chain (fl.cmd.f 1 5 0))

/-- What a VEC_OP resolves and checks at its start. -/
def Body.vecStart (b : Body) (fl : Flight) : Except Bad Started := do
  let c := fl.cmd
  let qMask := c.f 4 37 28
  match b.place fl.slot qMask (c.f 4 27 8) 0 0 1 1 with
  | none => .error (0x11, qMask)
  | some (qs, us, _, _) =>
    let chain := c.f 1 5 0
    let ei ← b.vecIn fl.slot (c.h 1)
    let eo ← b.vecOut fl (c.h 2) chain
    need (opndOwn ei (c.f 1 37 18)).isSome 0x11 (c.h 1)
    need (opndOwn eo (c.f 2 37 18)).isSome 0x11 (c.h 2)
    need (b.chainJigsOk (vecEnv fl chain (us.flatten.headD 0))) 0x12 0
    let m := c.f 3 63 32 + 1
    let n := c.f 3 31 0 + 1
    let hoff := c.f 5 37 18
    let hsize := c.f 5 17 0
    need (b.stagingOk fl.slot us hoff hsize ei eo (rowsBytes ei.fmt (min 32 m) n) (rowsBytes eo.fmt (min 32 m) n)) 0x11 0
    let j : Job := { m := m, n := n, tm := 32, tn := n, rows := ceilDiv m 32, chain := chain, hoff := 32 * hoff, part := 32 * hsize }
    .ok { op := { fl := fl, kind := 6, job := j, a := [ei], out := eo, quays := qs, units := us, steal := (b.stealOn fl.slot (c.b 4 5) 0).1 },
          clamps := b.vecClamps fl (c.b 4 5) + sClamp fl j eo, handles := [c.h 1, c.h 2], uses := opRegions j us [ei, eo] }

/-- VEC_OP (R147). -/
def execVecOp (c : Cmd) (s : State) : Host.Outcome State Fault Refusal :=
  s.onBody fun b => b.onCmd c 0x49 fun b fl =>
    match b.vecStart fl with
    | .error (st, h) => b.badStart fl (b.vecClamps fl (c.b 4 5)) st h
    | .ok r => b.beginOp r.op r.clamps r.handles r.uses

/-- A block of a VEC_OP on a Berth. -/
def Body.vecTile (b : Body) (o : TileOp) (u p : List Nat) : TileEnd :=
  let g := u.headD 0
  let c := o.fl.cmd
  let r0 := 32 * p.getD 0 0
  let m := min 32 (o.job.m - r0)
  let n := o.job.n
  match opndOwn (o.a.headD {}) (c.f 1 37 18), opndOwn o.out (c.f 2 37 18) with
  | some oi, some oo =>
    let oi := oi.shift r0 0
    let oo := oo.shift r0 0
    if ¬ (b.blockMay oi m n false ∧ b.blockMay oo m n true ∧ (vecEnv o.fl o.job.chain g).benchOk m n) then { b := b, status := 0x11 }
    else
      let (st, oi, b) := b.loadOpnd o.fl oi m n (g / 20)
      if st ≠ 0 then { b := b, status := st }
      else
        let ins := (List.range m).flatMap fun r => (List.range n).map fun x => b.elemF32 oi r x
        b.vecPut o g oo m n (stagedIn oi.e oo.e g) ins
  | _, _ => { b := b, status := 0x11 }

/-! ### RESAMPLE (R238-R240) -/

/-- NEAREST's source of an output coordinate (R239). -/
def nearest (i o x : Nat) (align : Bool) : Nat :=
  if align then (if o = 1 then 0 else (2 * x * (i - 1) + (o - 1)) / (2 * (o - 1)))
  else min ((2 * x + 1) * i / max 1 (2 * o)) (i - 1)

/-- BILINEAR's u of an output coordinate, in units of 2^-16, clamped (R239). -/
def bilinU (i o x : Nat) (align : Bool) : Nat :=
  let u : Int :=
    if align then (if o = 1 then 0 else ((x * (i - 1) * 65536 / (o - 1) : Nat) : Int))
    else (((2 * x + 1) * i : Nat) - (o : Int)) * 65536 / ((2 * max 1 o : Nat) : Int)
  min ((i - 1) * 65536) u.toNat

/-- The coordinates and the weight of an output coordinate: i0, i1, a in units of 2^-16; NEAREST has a = 0. -/
def taps (mode i o x : Nat) (align : Bool) : Nat × Nat × Nat :=
  if mode = 0 then (nearest i o x align, nearest i o x align, 0)
  else
    let u := bilinU i o x align
    (u / 65536, min (u / 65536 + 1) (i - 1), u % 65536)

/-- lerp of R240. -/
def lerp (p q a : Nat) : Nat :=
  if a = 0 then p
  else toF32 (((Val.fin false (65536 - a) (-16)).mul (ofF32 p)).add ((Val.fin false a (-16)).mul (ofF32 q)))

/-- Rows of one channel of a PLANAR entry from a row of all its frames on, as a row-major operand. -/
def planeView (e : Entry) (ch row : Nat) : Opnd :=
  let d := ch * planePitch e + row * e.pitch
  ⟨{ e with base := e.base + d, size := e.size - d }, 1, 0, 0, 0, none⟩

/-- The input rows that `m` output rows from `y0` read. -/
def sourceRows (mode i o : Nat) (align : Bool) (y0 m : Nat) : List Nat :=
  ((List.range m).flatMap fun r =>
    let t := taps mode i o (y0 + r) align
    if t.2.2 = 0 then [t.1] else [t.1, t.2.1]).dedup

/-- What a RESAMPLE resolves and checks at its start (R238). -/
def Body.resStart (b : Body) (fl : Flight) : Except Bad Started := do
  let c := fl.cmd
  let qMask := c.f 3 37 28
  match b.place fl.slot qMask (c.f 3 27 8) 0 0 1 1 with
  | none => .error (0x11, qMask)
  | some (qs, us, _, _) =>
    let chain := c.f 1 5 0
    let ei ← b.vecIn fl.slot (c.h 1)
    let eo ← b.vecOut fl (c.h 2) chain
    need (decide (ei.layout = 3)) 0x11 (c.h 1)
    need (decide (eo.layout = 3 ∧ planarC eo = planarC ei ∧ planarF eo = planarF ei * (if c.b 2 2 then 2 else 1))) 0x11 (c.h 2)
    need (b.chainJigsOk (vecEnv fl chain (us.flatten.headD 0))) 0x12 0
    let nb := ceilDiv eo.rows 32
    let most := ((List.range nb).map fun k =>
      (sourceRows (c.f 2 0 0) ei.rows eo.rows (c.b 2 1) (32 * k) (min 32 (eo.rows - 32 * k))).length).foldl max 0
    let hoff := c.f 4 37 18
    let hsize := c.f 4 17 0
    need (b.stagingOk fl.slot us hoff hsize ei eo (rowsBytes ei.fmt most ei.cols) (rowsBytes eo.fmt (min 32 eo.rows) eo.cols)) 0x11 0
    let j : Job := { m := eo.rows, n := eo.cols, tm := 32, tn := eo.cols, rows := planarC eo * planarF eo * nb, chain := chain,
                     hoff := 32 * hoff, part := 32 * hsize }
    .ok { op := { fl := fl, kind := 7, job := j, a := [ei], out := eo, quays := qs, units := us, steal := (b.stealOn fl.slot (c.b 3 5) 0).1 },
          clamps := b.vecClamps fl (c.b 3 5) + sClamp fl j eo, handles := [c.h 1, c.h 2], uses := opRegions j us [ei, eo] }

/-- RESAMPLE (R238). -/
def execResample (c : Cmd) (s : State) : Host.Outcome State Fault Refusal :=
  s.onBody fun b => b.onCmd c 0x43 fun b fl =>
    match b.resStart fl with
    | .error (st, h) => b.badStart fl (b.vecClamps fl (c.b 3 5)) st h
    | .ok r => b.beginOp r.op r.clamps r.handles r.uses

/-- An output value of a RESAMPLE (R240); `at_` reads the source plane. -/
def resValue (at_ : Nat → Nat → Nat) (ty tx : Nat × Nat × Nat) : Nat :=
  let row (y : Nat) : Nat := lerp (at_ y tx.1) (at_ y tx.2.1) tx.2.2
  if ty.2.2 = 0 then row ty.1 else lerp (row ty.1) (row ty.2.1) ty.2.2

/-- A block of a RESAMPLE on a Berth: 32 output rows of one channel and frame, numbered channel-major (R238). The column of a chain's
sources is the output column (log entry 36). -/
def Body.resTile (b : Body) (o : TileOp) (u p : List Nat) : TileEnd :=
  let g := u.headD 0
  let c := o.fl.cmd
  let ei := o.a.headD {}
  let nb := ceilDiv o.out.rows 32
  let t := p.getD 0 0
  let ch := t / nb / planarF o.out
  let fr := t / nb % planarF o.out
  let y0 := 32 * (t % nb)
  let m := min 32 (o.job.m - y0)
  let n := o.job.n
  let mode := c.f 2 0 0
  let align := c.b 2 1
  let src (y : Nat) : Opnd := planeView ei ch ((if c.b 2 2 then fr / 2 else fr) * ei.rows + y)
  let oo := planeView o.out ch (fr * o.out.rows + y0)
  let ys := sourceRows mode ei.rows o.out.rows align y0 m
  if ¬ ((ys.all fun y => b.blockMay (src y) 1 ei.cols false) ∧ b.blockMay oo m n true ∧ (vecEnv o.fl o.job.chain g).benchOk m n) then
    { b := b, status := 0x11 }
  else
    let (st, moved, b) := ys.foldl (fun (z : Nat × Bool × Body) y =>
      let (s, _, b) := z.2.2.loadOpnd o.fl (src y) 1 ei.cols (g / 20)
      (if z.1 = 0 then s else z.1, decide (ei.place = 5), b)) (0, false, b)
    if st ≠ 0 then { b := b, status := st }
    else
      let at_ (y x : Nat) : Nat :=
        let s := src y
        b.elemF32 (if moved then { s with e := { s.e with base := remoteBase ei.gangway + (s.e.base - ei.base) } } else s) 0 x
      let ins := (List.range m).flatMap fun r =>
        let ty := taps mode ei.rows o.out.rows (y0 + r) align
        (List.range n).map fun x => resValue at_ ty (taps mode ei.cols o.out.cols x align)
      b.vecPut o g oo m n (stagedIn ei o.out g) ins

end Sys2Proof.Machine
end

