-- ==== Sys2Proof/Machine/Claim.lean ====
section
/-!
DEFINITION. TILE_CLAIM (R127, R297): a claim unit takes the next tile of an operation, and what the tile does.
-/

namespace Sys2Proof.Machine

/-- The operation in a claim slot whose tile the unit led by a Berth takes next: the highest queue PRIO, then the earliest
dispatched (R297). -/
def Body.claimOp (b : Body) (g : Nat) : Option TileOp :=
  let cs := (b.ops.map fun o => o.nextRange (g / 20)).filter fun o =>
    !o.stopping && !b.saving o.fl.slot && (o.slots.any fun p => decide (p.1 = g / 20)) && (o.units.any fun u => decide (u.head? = some g)) &&
      (match o.range (g / 20) with
        | some r => decide (r.next < r.stop)
        | none => false)
  let prio (o : TileOp) : Nat := b.getF (.hmWqCfg o.fl.cmd.wq) Fld.hmWqCfgPrio
  cs.foldl (fun (best : Option TileOp) o =>
    match best with
    | none => some o
    | some x => if prio o > prio x ∨ (prio o = prio x ∧ o.fl.uid < x.fl.uid) then some o else best) none

/-- A claim unit may take a tile: its Berths are awake; and where the tile uses the Truss, no drain is pending there and no
tile-dialect run has used it (R160). -/
def Body.unitFree (b : Body) (o : TileOp) (u : List Nat) : Bool :=
  (u.all fun g => decide (b.pwr g < 2)) &&
    (decide (o.kind ≥ 6) || ((u.all fun g => b.trussIdle g && !((b.berth g).run.isSome && (b.berth g).truss)) &&
      (b.unitFormed u o.job.rr o.job.rc || b.raftReady u)))

/-- The skip-map bit of a point (R127). -/
def Body.tileSkipped (b : Body) (o : TileOp) (p : List Nat) : Bool :=
  match o.skip with
  | some e => b.mapBit e.base (p.getD 0 0 * o.job.cols + p.getD 1 0)
  | none => false

/-- What a tile does, by the kind of operation and its phase. -/
def Body.runTile (b : Body) (o : TileOp) (u p : List Nat) : TileEnd :=
  match o.kind with
  | 0 => if o.phase = 0 then b.mmTile o u p else b.reduceTile o u p
  | 1 => b.convTile o u p
  | 2 => b.singleTile o u p
  | 3 => b.chainedTile o u p
  | 4 => b.softmaxTile o u p
  | 5 => b.attnTile o u p
  | 6 => b.vecTile o u p
  | _ => b.resTile o u p

/-- A tile has ended: it is counted, or its fault stops the operation with the first fault's status (R134, R475). -/
def Body.tileEnd (e : TileEnd) (o : TileOp) (g t : Nat) (p : List Nat) : Body :=
  let fl := o.fl
  let q := g / 20
  let b := e.b
  if e.status = 0 then
    let b := (b.unitDone fl.uid).setOp { o with last := SMap.put o.last g p }
    (b.bump (.qyTileStat q) Fld.qyTileStatComputed 1).log 1 q 4 0 fl.cmd.ctx.toNat fl.cmd.tag.toNat t
  else
    let d := if e.code = 0x0102 then [p.getD 0 0, p.getD 1 0, p.getD 2 0, g] else e.d
    let b := b.raise ⟨b.ts, e.code, 1, e.status, fl.cmd.ctx.toNat, fl.cmd.tag.toNat, fl.opc, 1, q, d⟩
    b.setOp { o with stopping := true, status := e.status }

/-- A claim unit takes tiles of an operation until one is not skipped, and runs it. -/
def Body.claimTile (b : Body) (o : TileOp) (u : List Nat) (r : ClaimRange) : Body :=
  let g := u.headD 0
  let q := g / 20
  let ps := o.points
  let sk := ((List.range (r.stop - r.next)).takeWhile fun k => b.tileSkipped o (ps.getD (r.next + k) [])).length
  let t := r.next + sk
  let b := b.bump (.qyTileStat q) Fld.qyTileStatSkipped sk
  let o := o.setRange q { r with next := min r.stop (t + 1) }
  let b := (b.setOp o).syncSlot o q
  let b := { b with crates.loads := b.crates.loads.filter fun l => !(decide (l.uid = o.fl.uid) && decide (l.unit = g)) }
  if t ≥ r.stop then b.opCheck o.fl.uid
  else
    let b := b.log 1 q 3 0 o.fl.cmd.ctx.toNat o.fl.cmd.tag.toNat t
    let (b, o) := if o.kind < 6 then b.formUnit o u else (b, o)
    let p := ps.getD t []
    (Body.tileEnd (b.runTile o u p) o g t p).opCheck o.fl.uid

/-- TILE_CLAIM (R127): the claim unit led by a Berth takes the tile at NEXT of its operation and runs it to completion. -/
def execTileClaim (g : Fin 200) (s : State) : Host.Outcome State Fault Refusal :=
  s.onBody fun b =>
    match b.claimOp g with
    | none => b
    | some o =>
      match o.units.find? fun u => decide (u.head? = some g.val), o.range (g.val / 20) with
      | some u, some r =>
        if b.unitFree o u then b.claimTile o u r else u.foldl (fun b g => b.askWake g) b
      | _, _ => b

end Sys2Proof.Machine
end

