-- ==== Sys2Proof/Machine/Crates.lean ====
section
/-!
DEFINITION. The Crate store's commands (R207-R223): pools and maps, appending, moving, dropping, pressure, and REBUILD.
-/

namespace Sys2Proof.Machine

/-! ### Pools (R207) -/

/-- CRATE_POOL's slots: the first whole 64 KiB block of a region, and how many. -/
def poolSlots (e : Entry) : Nat × Nat :=
  let first := ceilDiv e.base 65536 * 65536
  (first, (e.base + e.size - first) / 65536)

/-- The conditions on a pool's bitmap (R207). -/
def bitmapFits (region bitmap : Entry) (n : Nat) : Bool :=
  decide (8 * bitmap.size ≥ n) && bitmap.rd && bitmap.wr && decide (bitmap.layout ≠ 4) &&
    (if region.place < 2 then decide (bitmap.place < 2 ∧ pointOf bitmap.base = pointOf region.base)
      else if region.place = 4 then decide (bitmap.place = 2 ∨ bitmap.place = 3)
      else decide (bitmap.place = region.place))

/-- A POOL_FULL, its record and its counter (R215, R229). -/
def Body.poolFull (b : Body) (fl : Flight) (map stream crate pool : Nat) : Body :=
  (b.crateBump fl.slot Fld.hmCrateFaultPoolFull 1).failWith fl 0x16 0x0403 1 2 0 [map, stream, crate, pool]

/-- CRATE_POOL, creating (R207). -/
def execCratePoolCreate (c : Cmd) (s : State) : Host.Outcome State Fault Refusal :=
  s.onBody fun b => b.onSub c 0x51 (!c.b 1 8) fun b fl =>
    let k := c.f 1 7 0
    if (b.pool k).isSome then b.fail fl 0x11 k
    else
      match b.resolve fl.slot (c.h 2), b.resolve fl.slot (c.h 3) with
      | none, _ => b.fail fl 0x12 (c.h 2)
      | _, none => b.fail fl 0x12 (c.h 3)
      | some r, some m =>
        let (first, n) := poolSlots r
        if ¬ (r.place ≤ 4 ∧ r.layout ≠ 4 ∧ b.accessOk r 0 r.size false ∧ r.wr) then b.fail fl 0x11 (c.h 2)
        else if ¬ (bitmapFits r m n ∧ b.accessOk m 0 (ceilDiv n 8) true) then b.fail fl 0x11 (c.h 3)
        else
          let b := if c.b 1 9 then b else b.store m.base (List.replicate (ceilDiv n 8) 0)
          let p : Pool := { slot := fl.slot, handle := c.h 2, base := first, n := n, bitmap := m.base, place := r.place }
          (({ b with crates.pools := SMap.put b.crates.pools k p }).syncPool k).done fl

/-- CRATE_POOL, destroying (R207). -/
def execCratePoolDestroy (c : Cmd) (s : State) : Host.Outcome State Fault Refusal :=
  s.onBody fun b => b.onSub c 0x51 (c.b 1 8) fun b fl =>
    let k := c.f 1 7 0
    match b.pool k with
    | none => b.fail fl 0x11 k
    | some p =>
      if p.slot ≠ fl.slot ∨ p.quar ≠ [] ∨ (List.range p.n).any fun i => b.slotUsed p i then b.fail fl 0x11 k
      else (({ b with crates.pools := SMap.drop b.crates.pools k }).syncPool k).done fl

/-! ### Copies and changes of entries -/

/-- Copies a Crate between slots: whether an uncorrectable sector was met. The traffic is Flood through the Sluices. -/
def Body.copyCrate (b : Body) (fl : Flight) (src dst : Nat) : Bool × Body :=
  let b := (b.tierTraffic fl.slot src 65536 false (pointOf dst)).tierTraffic fl.slot dst 65536 true (pointOf dst)
  let (bs, ecc, b) := b.load fl src 65536
  (ecc, b.store dst bs)

/-- An entry becomes DROPPED; its SLOT field becomes 0 (log entry 40). -/
def Body.dropEntry (b : Body) (m : CrateMap) (s n : Nat) : Body :=
  let e := b.crateEnt m s n
  b.setCrateEnt m s n { e with state := 6, slot := 0 }

/-- An entry takes a slot of a pool: the pool's state, the slot and the current AGE, PRIO unchanged. -/
def Body.placeEntry (b : Body) (m : CrateMap) (s n k i : Nat) : Body :=
  match b.pool k with
  | some p =>
    let e := b.crateEnt m s n
    b.setCrateEnt m s n { e with state := p.state, slot := p.addr i, age := b.ageNow }
  | none => b

/-- The pool that a map's index names. -/
def Body.mapPool (b : Body) (m : CrateMap) (i : Nat) : Option Nat :=
  match m.pools[i]? with
  | some k => if (b.pool k).isSome then some k else none
  | none => none

/-- The next pool of a map after pool `k` (R217). -/
def Body.nextPool (b : Body) (m : CrateMap) (k : Nat) : Option Nat :=
  (m.pools.drop (m.pools.idxOf k + 1)).find? fun j => (b.pool j).isSome

/-- Adds to a counter of HM_CRATE_TALLY of a context's partition (R229). -/
def Body.crateTally (b : Body) (slot : Nat) (f : Fld) : Body :=
  match b.partOfSlot slot with
  | some p => b.bump (.hmCrateTally p) f 1
  | none => b

/-! ### Allocation under pressure (R217) -/

/-- The candidates of a pool: resident Crates of the context's maps whose PRIO is below 15 (map, stream, Crate, entry). -/
def Body.candidates (b : Body) (slot : Nat) (p : Pool) (ex : Nat → Nat → Nat → Bool) : List (Nat × Nat × Nat × CrateEnt) :=
  (b.crates.maps.filter fun x => decide (x.2.slot = slot)).flatMap fun x =>
    (List.range x.2.nstream).flatMap fun s => (List.range x.2.nc).filterMap fun n =>
      let e := b.crateEnt x.2 s n
      if 2 ≤ e.state ∧ e.state ≤ 5 ∧ e.prio < 15 ∧ (p.index e.slot).isSome ∧ ¬ ex x.1 s n then some (x.1, s, n, e) else none

/-- The victim: the lowest PRIO, then the oldest, then the lowest map, stream and Crate (R217). -/
def Body.crateVictim (b : Body) (slot : Nat) (p : Pool) (ex : Nat → Nat → Nat → Bool) : Option (Nat × Nat × Nat × CrateEnt) :=
  let old (e : CrateEnt) : Nat := (b.ageNow + 2 ^ 24 - e.age) % 2 ^ 24
  (b.candidates slot p ex).foldl (fun (v : Option (Nat × Nat × Nat × CrateEnt)) c =>
    match v with
    | none => some c
    | some w =>
      if c.2.2.2.prio < w.2.2.2.prio ∨ (c.2.2.2.prio = w.2.2.2.prio ∧ old c.2.2.2 > old w.2.2.2) then some c else v) none

/-- What an allocation gives: a slot, a wait for quarantine, no candidate, or a copy that met an uncorrectable sector. -/
inductive Got where
  | slot (i : Nat)
  | wait
  | full
  | bad
deriving DecidableEq, Repr

/-- The victim's slot goes to the allocation, at once or when it leaves quarantine. -/
def Body.claimVictim (b : Body) (uid k i : Nat) : Got × Body :=
  match b.pool k with
  | none => (.full, b)
  | some p =>
    if i ∈ p.quar then (.wait, { b with crates.reserved := b.crates.reserved ++ [(uid, k, i)] })
    else (.slot i, b.takeSlot k p i)

/-- Allocates a slot of a pool for a command, evicting a victim where none is free; a chain of evictions ends after at most four
moves (R208, R217). -/
def Body.alloc : Nat → Body → Flight → Nat → (Nat → Nat → Nat → Bool) → Got × Body
  | 0, b, _, _, _ => (.full, b)
  | fuel + 1, b, fl, k, ex =>
    match b.pool k with
    | none => (.full, b)
    | some p =>
      match b.crates.reserved.find? fun r => decide (r.1 = fl.uid ∧ r.2.1 = k) with
      | some r =>
        if r.2.2 ∈ p.quar then (.wait, b)
        else
          let b := { b with crates.reserved := b.crates.reserved.filter fun x => decide (x ≠ r) }
          (.slot r.2.2, b.takeSlot k p r.2.2)
      | none =>
        match (b.freeSlots k p).head? with
        | some i => (.slot i, b.takeSlot k p i)
        | none =>
          match b.crateVictim fl.slot p ex with
          | none => (.full, b)
          | some (mi, s, n, e) =>
            match b.crateMap mi, p.index e.slot with
            | some m, some i =>
              match b.nextPool m k with
              | none => (((b.dropEntry m s n).releaseSlot m e.slot).crateTally fl.slot Fld.hmCrateTallyDropP).claimVictim fl.uid k i
              | some k2 =>
                match Body.alloc fuel b fl k2 ex with
                | (.slot j, b) =>
                  match b.pool k2 with
                  | none => (.full, b)
                  | some p2 =>
                    let (ecc, b) := b.copyCrate fl e.slot (p2.addr j)
                    if ecc then (.bad, b.releaseSlot m (p2.addr j))
                    else
                      let b := ((b.placeEntry m s n k2 j).releaseSlot m e.slot).crateTally fl.slot Fld.hmCrateTallyEvict
                      b.claimVictim fl.uid k i
                | other => other
            | _, _ => (.full, b)

/-- An allocation for a command; `ex` excludes Crates from eviction. -/
def Body.allocFor (b : Body) (fl : Flight) (k : Nat) (ex : Nat → Nat → Nat → Bool := fun _ _ _ => false) : Got × Body :=
  b.alloc 5 fl k ex

/-! ### CRATE_MAP (R209-R211, R223) -/

/-- The map that a CRATE_MAP descriptor describes, but for its table, and the fields clamped. -/
def mapOf (c : Cmd) (slot : Nat) : CrateMap × Nat :=
  let ml := c.f 2 21 0
  let l := max 1 (min 2097152 ml)
  ({ slot := slot, fmt := c.f 1 16 15, hd := c.f 1 18 17, mask := c.b 1 19, prio := c.f 1 23 20, flush := c.f 1 25 24,
     nstream := c.f 1 47 32 + 1, table := 0, maxlen := l,
     pools := (List.range 4).map fun i => let k := c.f 3 (8 * i + 7) (8 * i); if k = 0xFF then 0xFFFF else k }, diff l ml)

/-- The conditions on a map's pools at open (R210). -/
def Body.poolsOk (b : Body) (m : CrateMap) : Bool :=
  let ps := (m.pools.filter fun k => decide (k ≠ 0xFFFF)).map b.pool
  let places := ps.map fun p => (p.map fun x => x.place).getD 0
  (ps.all fun p => decide (p.map (fun x => x.slot) = some m.slot)) &&
    ((places.zip places.tail).all fun z => decide (z.1 < z.2)) &&
    (match b.mapPool m 0 with
      | some k => match b.pool k with
        | some p => decide (p.place ≤ 3)
        | none => false
      | none => false) &&
    (b.mapPool m m.flush).isSome

/-- A fresh table: every entry NONE with the map's PRIO, every stream record zero (R211). -/
def Body.freshTable (b : Body) (fl : Flight) (m : CrateMap) : Body :=
  let b := b.tierTraffic fl.slot m.table m.bytes true 11
  b.store m.table (List.replicate (16 * m.nstream) 0 ++ (List.replicate (m.nstream * m.nc) (leBytes 8 (m.prio * 2 ^ 56))).flatten)

/-- An entry as RESUME takes it (R223). -/
def Body.resumeEntry (b : Body) (m : CrateMap) (s n : Nat) : Body :=
  let e := b.crateEnt m s n
  if (2 ≤ e.state ∧ e.state ≤ 5) ∨ e.state = 7 then
    if b.slotGood m e.slot then
      match b.slotOfMap m e.slot with
      | some (k, _) =>
        match b.pool k with
        | some p => if p.state = e.state then b else b.setCrateEnt m s n { e with state := p.state }
        | none => b.dropEntry m s n
      | none => b.dropEntry m s n
    else b.dropEntry m s n
  else if e.state = 8 then b.dropEntry m s n
  else b

/-- A stream's tail as RESUME takes it (R223). -/
def Body.resumeTail (b : Body) (fl : Flight) (m : CrateMap) (s : Nat) : Got × Body :=
  let r := b.streamRec m s
  if b.slotGood m r.apron then (.slot 0, b)
  else if b.slotGood m r.ckpt then
    match b.mapPool m 0 with
    | none => (.full, b)
    | some k =>
      match b.allocFor fl k with
      | (.slot i, b) =>
        match b.pool k with
        | none => (.full, b)
        | some p =>
          let (ecc, b) := b.copyCrate fl r.ckpt (p.addr i)
          ((if ecc then .bad else .slot i), b.setStreamRec m s { r with apron := p.addr i, len := r.ckptLen })
      | other => other
  else
    let n := r.len / m.t
    let b := b.setStreamRec m s { len := m.t * n }
    let n := if r.len % m.t = 0 ∧ n > 0 ∧ (b.crateEnt m s (n - 1)).state = 1 then n - 1 else n
    (.slot 0, if n < m.nc then b.setCrateEnt m s n { b.crateEnt m s n with state := 0, slot := 0 } else b)

/-- RESUME over every stream from `s` on: the first tail that finds no Apron slot stops it, with the map opened so far kept for
its next try. -/
def Body.resumeTails (b : Body) (fl : Flight) (m : CrateMap) : Nat → Nat → Got × Body
  | 0, _ => (.slot 0, b)
  | k + 1, s =>
    match b.resumeTail fl m s with
    | (.slot _, b) => Body.resumeTails b fl m k (s + 1)
    | other => other

/-- An open with RESUME: entries once, then tails, which may wait for a slot (R223). -/
def Body.resumeMap (b : Body) (fl : Flight) (k : Nat) (m : CrateMap) : Body :=
  match b.resumeTails fl m m.nstream 0 with
  | (.slot _, b) => b.finish fl.uid
  | (.wait, b) => b
  | (.bad, b) => ({ b with crates.maps := SMap.drop b.crates.maps k }).retire fl 0x20 0 true
  | (.full, b) => ({ b with crates.maps := SMap.drop b.crates.maps k }).poolFull fl k 0 0 (m.pools.headD 0)

/-- CRATE_MAP, opening (R209-R211). A number that is open faults, also for its own context (log entry 40). -/
def execCrateMapOpen (c : Cmd) (s : State) : Host.Outcome State Fault Refusal :=
  s.onBody fun b => b.onSub c 0x50 (!c.b 1 12) fun b fl =>
    let k := c.f 1 11 0
    let (m, n) := mapOf c fl.slot
    if (b.crateMap k).isSome ∨ ¬ b.poolsOk m then b.fail fl 0x11 k
    else
      match b.access fl.slot (c.h 2) 0 m.bytes true with
      | .error st => b.fail fl st (c.h 2)
      | .ok e =>
        if ¬ (1 ≤ e.place ∧ e.place ≤ 3 ∧ e.rd ∧ e.layout ≠ 4) then b.fail fl 0x11 (c.h 2)
        else
          let m := { m with table := e.base }
          let b := ({ b with crates.maps := SMap.put b.crates.maps k m }).clampCmd fl n
          if c.b 1 14 then
            let b := (b.start { fl with handles := [c.h 2 / 65536] }).tierTraffic fl.slot m.table m.bytes false 11
            let b := (List.range m.nstream).foldl (fun b s => (List.range m.nc).foldl (fun b n => b.resumeEntry m s n) b) b
            b.resumeMap fl k m
          else (b.freshTable fl m).done fl

/-- An operation reads Crates of a map. -/
def opReads (o : TileOp) (k : Nat) : Bool :=
  ((o.b ++ o.v.toList).any fun e => decide (e.layout = 4 ∧ e.param % 4096 = k)) ||
    o.items.any fun it => decide (it.getD 0 0 = 0 ∧ it.getD 1 0 = k)

/-- A command on a map runs (R222). -/
def Body.mapBusy (b : Body) (slot uid k : Nat) : Bool :=
  (b.hm.flights.any fun x => decide (x.uid ≠ uid ∧ x.slot = slot ∧ 0x52 ≤ x.opc ∧ x.opc ≤ 0x54 ∧ x.cmd.f 1 11 0 = k)) ||
    b.ops.any fun o => opReads o k

/-- Releases every slot of a map: its Crates, Aprons and checkpoints (R208, R223). -/
def Body.releaseMap (b : Body) (m : CrateMap) : Body :=
  (List.range m.nstream).foldl (fun b s =>
    let r := b.streamRec m s
    let b := if r.apron ≠ 0 then b.releaseSlot m r.apron else b
    let b := if r.ckpt ≠ 0 then b.releaseSlot m r.ckpt else b
    (List.range m.nc).foldl (fun b n =>
      let e := b.crateEnt m s n
      if (2 ≤ e.state ∧ e.state ≤ 5) ∨ e.state = 7 ∨ e.state = 8 then b.releaseSlot m e.slot else b) b) b

/-- CRATE_MAP, closing (R209, R222, R223): it waits for the commands on the map. -/
def execCrateMapClose (c : Cmd) (s : State) : Host.Outcome State Fault Refusal :=
  s.onBody fun b => b.onSub c 0x50 (c.b 1 12) fun b fl =>
    let k := c.f 1 11 0
    match b.crateMap k with
    | none => b.fail fl 0x11 k
    | some m =>
      if m.slot ≠ fl.slot then b.fail fl 0x11 k
      else if b.mapBusy fl.slot fl.uid k then b
      else
        let b := if c.b 1 13 then b else b.releaseMap m
        ({ b with crates.maps := SMap.drop b.crates.maps k }).done fl

/-! ### APRON_APPEND (R213-R215) -/

/-- The streams and tokens of an APRON_APPEND after clamps: S0, NS, NTOK; and the fields clamped. -/
def Body.appendArgs (b : Body) (c : Cmd) (m : CrateMap) : Nat × Nat × Nat × Nat :=
  let s0 := c.f 1 27 12
  let ns0 := c.f 1 43 28 + 1
  let ns := min ns0 (m.nstream - s0)
  let nt0 := c.f 3 21 0
  let nt := (List.range ns).foldl (fun t i => min t (m.maxlen - (b.streamRec m (s0 + i)).len)) nt0
  (s0, ns, nt, diff ns ns0 + diff nt nt0)

/-- Packs `k` tokens of a token-row block into a slot (R204, R213): the block's address, its tokens a stream, the stream's place in
it, the first token's place in the block and in the Crate. -/
def Body.packTokens (b : Body) (fl : Flight) (m : CrateMap) (block ntok si tok slot pos k : Nat) : Body :=
  let rowB := m.d * m.eb
  let src (half t : Nat) : Nat := block + ((2 * si + half) * ntok + tok + t) * rowB
  let b := (List.range 2).foldl (fun b h =>
    let b := b.tierTraffic fl.slot (src h 0) (k * rowB) false (pointOf slot)
    match b.badIn (src h 0) (k * rowB) with
    | some x => (b.eccRead fl x).noteEcc fl.uid true
    | none => b) b
  let old := b
  let b := (List.range m.d).foldl (fun b i =>
    let bs := (List.range k).flatMap fun t => old.bytes (src 0 t + i * m.eb) m.eb
    let a := slot + m.elemOff 0 i pos
    let b := b.tierTraffic fl.slot a bs.length true (pointOf slot)
    let (e, b) := b.storePlain fl a bs
    b.noteEcc fl.uid e) b
  let bs := old.bytes (src 1 0) (k * rowB)
  let a := slot + m.elemOff 1 0 pos
  let b := b.tierTraffic fl.slot a bs.length true (pointOf slot)
  let (e, b) := b.storePlain fl a bs
  b.noteEcc fl.uid e

/-- What one action of an APRON_APPEND answers: it goes on with so many tokens of its stream placed, it waits, or it ends. -/
inductive Act where
  | go (done : Nat)
  | wait
  | full (crate pool : Nat)
  | bad

/-- The flush of a full Apron holding Crate `n` of a stream (R215). -/
def Body.flushApron (b : Body) (fl : Flight) (m : CrateMap) (s n done : Nat) : Act × Body :=
  let r := b.streamRec m s
  match b.mapPool m m.flush with
  | none => (.full n 0xFF, b)
  | some k =>
    let (got, b) := if r.ckpt ≠ 0 then
        (match b.slotOfMap m r.ckpt with
          | some (_, i) => Got.slot i
          | none => Got.full, b)
      else b.allocFor fl k
    match got with
    | .slot i =>
      match b.pool k with
      | none => (.full n k, b)
      | some p =>
        let (ecc, b) := b.copyCrate fl r.apron (p.addr i)
        let b := (b.noteEcc fl.uid ecc).placeEntry m s n k i
        let b := b.setStreamRec m s { b.streamRec m s with ckptLen := 0, ckpt := 0 }
        (.go done, b.crateTally fl.slot Fld.hmCrateTallyFlush)
    | .wait => (.wait, b)
    | .full => (.full n k, b)
    | .bad => (.bad, b)

/-- The next action of an APRON_APPEND on stream `s`, `done` of whose NTOK tokens are placed (R215). -/
def Body.appendAct (b : Body) (fl : Flight) (m : CrateMap) (block s si ntok done : Nat) : Act × Body :=
  let r := b.streamRec m s
  let pos := r.len + done
  let n := pos / m.t
  let t := pos % m.t
  if t = 0 ∧ n > 0 ∧ (b.crateEnt m s (n - 1)).state = 1 then b.flushApron fl m s (n - 1) done
  else if t = 0 ∧ ntok - done ≥ m.t then
    match b.mapPool m m.flush with
    | none => (.full n 0xFF, b)
    | some k =>
      match b.allocFor fl k with
      | (.slot i, b) =>
        match b.pool k with
        | none => (.full n k, b)
        | some p =>
          let b := (b.packTokens fl m block ntok si done (p.addr i) 0 m.t).placeEntry m s n k i
          (.go (done + m.t), b.crateTally fl.slot Fld.hmCrateTallyFlush)
      | (.wait, b) => (.wait, b)
      | (.full, b) => (.full n k, b)
      | (.bad, b) => (.bad, b)
  else if t = 0 ∧ r.apron ≠ 0 ∧ b.crates.loads.any (fun l => decide (l.addr = r.apron)) then (.wait, b)
  else
    let (got, b) := if r.apron ≠ 0 then (Got.slot 0, b)
      else
        match b.mapPool m 0 with
        | none => (Got.full, b)
        | some k =>
          match b.allocFor fl k with
          | (.slot i, b) =>
            match b.pool k with
            | none => (Got.full, b)
            | some p => (.slot i, b.setStreamRec m s { r with apron := p.addr i })
          | other => other
    match got with
    | .slot _ =>
      let k := min (ntok - done) (m.t - t)
      let b := b.packTokens fl m block ntok si done (b.streamRec m s).apron t k
      let e := b.crateEnt m s n
      let b := if e.state = 0 then b.setCrateEnt m s n { e with state := 1 } else b
      (.go (done + k), b)
    | .wait => (.wait, b)
    | .full => (.full n (m.pools.headD 0xFF), b)
    | .bad => (.bad, b)

/-- LEN of the streams of an append advances: NTOK for those before `i`, `done` for stream `i`. -/
def Body.advanceLens (b : Body) (m : CrateMap) (s0 i ntok done : Nat) : Body :=
  let b := (List.range i).foldl (fun b j =>
    let r := b.streamRec m (s0 + j)
    b.setStreamRec m (s0 + j) { r with len := r.len + ntok }) b
  if done = 0 then b
  else
    let r := b.streamRec m (s0 + i)
    b.setStreamRec m (s0 + i) { r with len := r.len + done }

/-- The checkpoint of a stream's tail (R215); its tokens are `len`. -/
def Body.checkpoint (b : Body) (fl : Flight) (m : CrateMap) (s len : Nat) : Act × Body :=
  let r := b.streamRec m s
  let n := (len - 1) / m.t
  if len = 0 ∨ (b.crateEnt m s n).state ≠ 1 then (.go 0, b)
  else
    match b.mapPool m m.flush with
    | none => (.full n 0xFF, b)
    | some k =>
      let (got, b) := if r.ckpt ≠ 0 then (Got.slot 0, b)
        else
          match b.allocFor fl k with
          | (.slot i, b) =>
            match b.pool k with
            | none => (Got.full, b)
            | some p => (.slot i, b.setStreamRec m s { b.streamRec m s with ckpt := p.addr i })
          | other => other
      match got with
      | .slot _ =>
        let r := b.streamRec m s
        let (ecc, b) := b.copyCrate fl r.apron r.ckpt
        (.go 0, (b.noteEcc fl.uid ecc).setStreamRec m s { r with ckptLen := len })
      | .wait => (.wait, b)
      | .full => (.full n k, b)
      | .bad => (.bad, b)

/-- The Apron's last flush within a stream: the tokens are placed and the Apron is full. -/
def Body.apronFull (b : Body) (m : CrateMap) (s ntok done : Nat) : Bool :=
  let pos := (b.streamRec m s).len + done
  decide (ntok > 0 ∧ pos % m.t = 0 ∧ pos > 0 ∧ (b.crateEnt m s (pos / m.t - 1)).state = 1)

/-- APRON_APPEND goes on: `phase` 0 places tokens of stream `i`, phase 1 checkpoints it (R215). It stops where it must wait, keeping
its place, and ends at the last stream. -/
def Body.appendLoop (fl : Flight) (k : Nat) (m : CrateMap) (block s0 ns ntok : Nat) : Nat → Body → Nat → Nat → Nat → Body
  | 0, b, _, _, _ => b
  | fuel + 1, b, phase, i, done =>
    let next := Body.appendLoop fl k m block s0 ns ntok fuel
    if phase = 0 ∧ i = ns then
      if fl.cmd.b 1 44 then next b 1 0 0 else (b.advanceLens m s0 ns ntok 0).finish fl.uid
    else if i = ns then (b.advanceLens m s0 ns ntok 0).finish fl.uid
    else if phase = 0 then
      if done = ntok ∧ ¬ b.apronFull m (s0 + i) ntok done then next b 0 (i + 1) 0
      else
        match b.appendAct fl m block (s0 + i) i ntok done with
        | (.go d, b) => next b 0 i d
        | (.wait, b) => b.keep fl [0, i, done, s0, ns, ntok]
        | (.full n p, b) => (b.advanceLens m s0 i ntok done).poolFull fl k (s0 + i) n p
        | (.bad, b) => (b.advanceLens m s0 i ntok done).retire fl 0x20 0 true
    else
      match b.checkpoint fl m (s0 + i) ((b.streamRec m (s0 + i)).len + ntok) with
      | (.go _, b) => next b 1 (i + 1) 0
      | (.wait, b) => b.keep fl [1, i, 0, s0, ns, ntok]
      | (.full n p, b) => (b.advanceLens m s0 ns ntok 0).poolFull fl k (s0 + i) n p
      | (.bad, b) => (b.advanceLens m s0 ns ntok 0).retire fl 0x20 0 true

/-- APRON_APPEND from where it stands. -/
def Body.appendGo (b : Body) (fl : Flight) : Body :=
  let c := fl.cmd
  let k := c.f 1 11 0
  match b.crateMap k with
  | none => b.fail fl 0x11 k
  | some m =>
    let p (j : Nat) : Nat := fl.progress.getD j 0
    let ntok := p 5
    let block := match b.resolve fl.slot (c.h 2) with
      | some e => e.base + 32 * c.f 2 37 18
      | none => 0
    Body.appendLoop fl k m block (p 3) (p 4) ntok ((p 4 + 1) * (2 * (ntok / m.t) + 8)) b (p 0) (p 1) (p 2)

/-- A pre-empted APRON_APPEND goes on at its stream (R222). -/
def Body.appendResume (b : Body) (fl : Flight) : Body :=
  let h := fl.cmd.h 2
  if fl.progress.getD 5 0 ≠ 0 ∧ (b.resolve fl.slot h).isNone then b.fail fl 0x12 h
  else
    let fl := { fl with handles := if fl.progress.getD 5 0 = 0 then [] else [h / 65536], started := true }
    (b.start fl).appendGo fl

/-- APRON_APPEND (R214). -/
def execApronAppend (c : Cmd) (s : State) : Host.Outcome State Fault Refusal :=
  s.onBody fun b => b.onCmd c 0x52 fun b fl =>
    let k := c.f 1 11 0
    if fl.resumed ∧ fl.progress ≠ [] then b.appendResume fl
    else match b.crateMap k with
    | none => b.fail fl 0x11 k
    | some m =>
      if m.slot ≠ fl.slot then b.fail fl 0x11 k
      else
        let (s0, ns, ntok, n) := b.appendArgs c m
        let size := 2 * ns * ntok * m.d * m.eb
        match if size = 0 then Except.ok () else (b.accessHere fl.slot (c.h 2) (32 * c.f 2 37 18) size false).map fun _ => () with
        | .error st => b.fail fl st (c.h 2)
        | .ok _ =>
          let fl := { fl with handles := if size = 0 then [] else [c.h 2 / 65536], started := true, progress := [0, 0, 0, s0, ns, ntok] }
          ((b.clampCmd fl n).start fl).appendGo fl

/-! ### CRATE_CTL (R216) -/

/-- The range of a CRATE_CTL or REBUILD after clamps: S0, NS, N0, NN; and the fields clamped. -/
def ctlRange (c : Cmd) (m : CrateMap) : Nat × Nat × Nat × Nat × Nat :=
  let s0 := c.f 1 27 12
  let ns0 := c.f 1 43 28 + 1
  let ns := min ns0 (m.nstream - s0)
  let n0 := c.f 2 31 0
  let nn0 := c.f 2 63 32
  let nn := min nn0 (m.nc - n0)
  (s0, ns, n0, nn, diff ns ns0 + diff nn nn0)

/-- The entries of a range, in increasing stream then Crate order. -/
def ctlEntries (s0 ns n0 nn : Nat) : List (Nat × Nat) :=
  (List.range ns).flatMap fun i => (List.range nn).map fun j => (s0 + i, n0 + j)

/-- A CRATE_CTL of an operation on an open map of its context. -/
def Body.ctl (b : Body) (c : Cmd) (op : Nat) (f : Body → Flight → Nat → CrateMap → List (Nat × Nat) → Body) : Body :=
  b.onSub c 0x53 (decide (min 2 (c.f 1 45 44) = op)) fun b fl =>
    let k := c.f 1 11 0
    match b.crateMap k with
    | none => b.fail fl 0x11 k
    | some m =>
      if m.slot ≠ fl.slot then b.fail fl 0x11 k
      else
        let (s0, ns, n0, nn, n) := ctlRange c m
        f (if fl.resumed then b else b.clampCmd fl (n + if c.f 1 45 44 = 3 then 1 else 0)) fl k m (ctlEntries s0 ns n0 nn)

/-- CRATE_CTL PRIO (R216). -/
def execCrateCtlPrio (c : Cmd) (s : State) : Host.Outcome State Fault Refusal :=
  s.onBody fun b => b.ctl c 2 fun b fl _ m es =>
    (es.foldl (fun b p => b.setCrateEnt m p.1 p.2 { b.crateEnt m p.1 p.2 with prio := c.f 1 49 46 }) b).done fl

/-- A CRATE_CTL MOVE ends when all its entries are handled and no copy of it runs. -/
def Body.moveCheck (b : Body) (uid : Nat) : Body :=
  match b.flight uid with
  | none => b
  | some fl =>
    if fl.opc ≠ 0x53 ∨ fl.progress.getD 0 0 = 0 ∨ b.crates.moves.any (fun x => decide (x.uid = uid)) then b
    else if fl.progress.getD 1 0 ≠ 0 then b.retire fl (fl.progress.getD 1 0) 0 true
    else b.finish uid

/-- The DROP of one entry: a copy of it is abandoned and both its slots are released (R216). -/
def Body.dropOne (b : Body) (k : Nat) (m : CrateMap) (s n : Nat) (slot : Nat) : Body :=
  let e := b.crateEnt m s n
  if 2 ≤ e.state ∧ e.state ≤ 5 then (b.dropEntry m s n).releaseSlot m e.slot
  else if e.state = 7 then
    match b.crates.moves.find? fun x => decide (x.map = k ∧ x.stream = s ∧ x.crate = n) with
    | some x =>
      let b := { b with crates.moves := b.crates.moves.filter fun y => decide (y ≠ x) }
      ((((b.dropEntry m s n).releaseSlot m x.src).releaseSlot m x.dst)).moveCheck x.uid
    | none => (b.dropEntry m s n).releaseSlot m e.slot
  else b.crateBump slot Fld.hmCrateFaultIgnored 1

/-- CRATE_CTL DROP (R216). -/
def execCrateCtlDrop (c : Cmd) (s : State) : Host.Outcome State Fault Refusal :=
  s.onBody fun b => b.ctl c 1 fun b fl k m es => (es.foldl (fun b p => b.dropOne k m p.1 p.2 fl.slot) b).done fl

/-- MOVE over the entries left (R216): each takes a slot and begins its copy; an allocation may wait, or end the command. -/
def Body.moveLoop (fl : Flight) (k : Nat) (m : CrateMap) (dest : Nat) : List (Nat × Nat) → Nat → Body → Body
  | [], _, b => (b.keep fl [1, 0, 0]).moveCheck fl.uid
  | (s, n) :: rest, i, b =>
    let e := b.crateEnt m s n
    if 2 ≤ e.state ∧ e.state ≤ 5 then
      if ¬ b.slotGood m e.slot then (b.keep fl [1, 0x11, 0]).moveCheck fl.uid
      else
        match b.allocFor fl dest (fun a x y => decide (a = k ∧ x = s ∧ y = n)) with
        | (.slot j, b) =>
          match b.pool dest with
          | none => b
          | some p =>
            let b := b.setCrateEnt m s n { b.crateEnt m s n with state := 7 }
            let x : CrateMove := { map := k, stream := s, crate := n, src := e.slot, dst := p.addr j, pool := dest, uid := fl.uid }
            Body.moveLoop fl k m dest rest (i + 1) { b with crates.moves := b.crates.moves ++ [x] }
        | (.wait, b) => b.keep fl [0, 0, i]
        | (.full, b) =>
          let b := (b.crateBump fl.slot Fld.hmCrateFaultPoolFull 1).raise ⟨b.ts, 0x0403, 1, 0x16, fl.cmd.ctx.toNat, fl.cmd.tag.toNat,
            fl.opc, 2, 0, [k, s, n, dest]⟩
          (b.keep fl [1, 0x16, 0]).moveCheck fl.uid
        | (.bad, b) => (b.keep fl [1, 0x20, 0]).moveCheck fl.uid
    else Body.moveLoop fl k m dest rest (i + 1) (b.crateBump fl.slot Fld.hmCrateFaultIgnored 1)

/-- CRATE_CTL MOVE from where it stands. -/
def Body.moveGo (b : Body) (fl : Flight) : Body :=
  let c := fl.cmd
  let k := c.f 1 11 0
  match b.crateMap k with
  | none => b.fail fl 0x11 k
  | some m =>
    match b.mapPool m (c.f 1 51 50) with
    | none => b.fail fl 0x11 k
    | some dest =>
      let (s0, ns, n0, nn, _) := ctlRange c m
      let i := fl.progress.getD 2 0
      Body.moveLoop fl k m dest ((ctlEntries s0 ns n0 nn).drop i) i b

/-- CRATE_CTL MOVE (R216): it completes when its copies have. -/
def execCrateCtlMove (c : Cmd) (s : State) : Host.Outcome State Fault Refusal :=
  s.onBody fun b => b.ctl c 0 fun b fl _ _ _ =>
    let fl := { fl with started := true, progress := if fl.resumed then fl.progress else [0, 0, 0] }
    (b.start fl).moveGo fl

/-- CRATE_COPY_COMPLETE (R216, R218): the entry takes its new slot and the source is released; a copy that meets an uncorrectable
sector returns the entry to its source's state and releases the destination. -/
def execCrateCopyComplete (map stream crate : Nat) (s : State) : Host.Outcome State Fault Refusal :=
  s.onBody fun b =>
    match b.crates.moves.find? fun x => decide (x.map = map ∧ x.stream = stream ∧ x.crate = crate), b.crateMap map with
    | some x, some m =>
      match b.flight x.uid, b.pool x.pool with
      | some fl, some p =>
        let b := { b with crates.moves := b.crates.moves.filter fun y => decide (y ≠ x) }
        let (ecc, b) := b.copyCrate fl x.src x.dst
        let b := if ecc then
            let st := match b.slotOfMap m x.src with
              | some (k, _) => ((b.pool k).map Pool.state).getD 2
              | none => 2
            ((b.setCrateEnt m stream crate { b.crateEnt m stream crate with state := st }).releaseSlot m x.dst).noteEcc fl.uid true
          else (b.placeEntry m stream crate x.pool ((p.index x.dst).getD 0)).releaseSlot m x.src
        b.moveCheck fl.uid
      | _, _ => b
    | _, _ => b

/-! ### REBUILD (R220) -/

/-- The descriptor a header word and the words after it make: its opcode and its command (R281). -/
def cmdOf (wq : Fin 64) (h : Word) (words : List Word) : Nat × Cmd :=
  (h.fld 63 56, { wq := wq, ctx := BitVec.ofNat 16 (h.fld 31 16), tag := BitVec.ofNat 16 (h.fld 47 32), fence := h.bit 48,
                  cpl := h.bit 49, slack := h.bit 50, length := BitVec.ofNat 16 (h.fld 15 0), words := words })

/-- The legal value of LENGTH nearest to the one given, by opcode; a reserved opcode is a NOP (R281, R282, R286). -/
def legalLength (opc l : Nat) : Nat :=
  if opc = 0x00 ∨ opc = 0x54 ∨ reservedOpc opc then max 1 (min 4096 l)
  else if opc = 0x40 then max 1 (min 2 l)
  else if opc ∈ [0x32, 0x42, 0x44, 0x45, 0x48, 0x58, 0x5B, 0x79] then 2
  else 1

/-- The recipe of a REBUILD: opcodes and commands, and the descriptors they occupy. -/
def recipeOf (c : Cmd) : Nat → Nat → List (Nat × Cmd) × Nat
  | 0, _ => ([], 0)
  | k + 1, at_ =>
    let h := c.w (8 * at_)
    let o := if reservedOpc (h.fld 63 56) then 0 else h.fld 63 56
    let l := legalLength (h.fld 63 56) (h.fld 15 0)
    let (_, x) := cmdOf c.wq h ((c.words.drop (8 * at_)).take (8 * l - 1))
    let (rest, n) := recipeOf c k (at_ + l)
    ((o, { x with length := BitVec.ofNat 16 l }) :: rest, l + n)

/-- The entries of a REBUILD that stay REBUILDING become DROPPED and their slots are released; it ends with a status (R220). -/
def Body.rebuildFail (b : Body) (r : Rebuild) (status : Nat) (full : Option (List Nat)) : Body :=
  let k := r.fl.cmd.f 1 11 0
  let b := { b with crates.rebuilds := b.crates.rebuilds.filter fun x => decide (x.fl.uid ≠ r.fl.uid) }
  let b := match b.crateMap k with
    | some m => r.items.foldl (fun (b : Body) (it : Nat × Nat × Nat) =>
        let e := b.crateEnt m it.1 it.2.1
        if e.state = 8 then (b.dropEntry m it.1 it.2.1).releaseSlot m e.slot else b) b
    | none => b
  match full with
  | some d => (b.crateBump r.fl.slot Fld.hmCrateFaultPoolFull 1).failWith r.fl status 0x0403 1 2 0 d
  | none => b.fail r.fl status

/-- Steps 3-5: the staging rows are packed into the Crates' slots, and the entries become resident. -/
def Body.rebuildPack (b : Body) (r : Rebuild) : Body :=
  let c := r.fl.cmd
  let k := c.f 1 11 0
  match b.crateMap k with
  | none => b.rebuildFail r 0x11 none
  | some m =>
    let (s0, ns, n0, nn, _) := ctlRange c m
    let ntok := nn * m.t
    let off := 32 * c.f 3 37 18
    match b.accessHere r.fl.slot (c.h 3) off (2 * ns * ntok * m.d * m.eb) false, b.mapPool m (c.f 1 45 44) with
    | .error st, _ => b.rebuildFail r st none
    | _, none => b.rebuildFail r 0x11 none
    | .ok e, some dest =>
      let b := r.items.foldl (fun b it =>
        match b.pool dest with
        | none => b
        | some p =>
          let b := b.packTokens r.fl m (e.base + off) ntok (it.1 - s0) ((it.2.1 - n0) * m.t) (p.addr it.2.2) 0 m.t
          (b.placeEntry m it.1 it.2.1 dest it.2.2).crateTally r.fl.slot Fld.hmCrateTallyRebuilt) b
      ({ b with crates.rebuilds := b.crates.rebuilds.filter fun x => decide (x.fl.uid ≠ r.fl.uid) }).finish r.fl.uid

/-- Starts the next recipe command, or packs after the last (R220). A recipe command of another context, or privileged on a queue
that is not, ends the REBUILD with AUTH_FAIL. -/
def Body.rebuildNext (b : Body) (r : Rebuild) : Body :=
  match r.left with
  | [] => b.rebuildPack r
  | (o, c) :: rest =>
    if c.ctx ≠ r.fl.cmd.ctx ∨ (privOpc o ∧ ¬ b.flag (.hmWqCfg c.wq) Fld.hmWqCfgPriv) then b.rebuildFail r 0x60 none
    else
      let (b, fl) := b.launch c o r.fl.slot r.fl.priv r.fl.inStep
      { b with crates.rebuilds := b.crates.rebuilds.map fun (x : Rebuild) =>
          if x.fl.uid = r.fl.uid then { r with left := rest, cur := some fl.uid } else x }

/-- Step 1 over the entries left: each DROPPED full Crate takes a slot and becomes REBUILDING. -/
def Body.rebuildLoop (k : Nat) (m : CrateMap) (dest : Nat) (ex : Nat → Nat → Nat → Bool) : List (Nat × Nat) → Nat → Rebuild → Body → Body
  | [], _, r, b => b.rebuildNext r
  | (s, n) :: rest, i, r, b =>
    let e := b.crateEnt m s n
    if e.state = 6 ∧ n < (b.streamRec m s).len / m.t then
      match b.allocFor r.fl dest ex with
      | (.slot j, b) =>
        match b.pool dest with
        | none => b.rebuildFail r 0x11 none
        | some p =>
          let b := b.setCrateEnt m s n { e with state := 8, slot := p.addr j }
          let r := { r with items := r.items ++ [(s, n, j)] }
          let b := { b with crates.rebuilds := b.crates.rebuilds.map fun (x : Rebuild) => if x.fl.uid = r.fl.uid then r else x }
          Body.rebuildLoop k m dest ex rest (i + 1) r b
      | (.wait, b) => b.keep r.fl [i]
      | (.full, b) => b.rebuildFail r 0x16 (some [k, s, n, dest])
      | (.bad, b) => b.rebuildFail r 0x20 none
    else Body.rebuildLoop k m dest ex rest (i + 1) r (b.crateBump r.fl.slot Fld.hmCrateFaultIgnored 1)

/-- REBUILD's step 1 from where it stands. -/
def Body.rebuildGo (b : Body) (fl : Flight) : Body :=
  let c := fl.cmd
  let k := c.f 1 11 0
  match b.crateMap k, b.crates.rebuilds.find? fun (x : Rebuild) => decide (x.fl.uid = fl.uid) with
  | some m, some r =>
    match b.mapPool m (c.f 1 45 44) with
    | none => b.rebuildFail r 0x11 none
    | some dest =>
      let (s0, ns, n0, nn, _) := ctlRange c m
      let own (a s n : Nat) : Bool := decide (a = k ∧ s0 ≤ s ∧ s < s0 + ns ∧ n0 ≤ n ∧ n < n0 + nn)
      let i := fl.progress.getD 0 0
      Body.rebuildLoop k m dest own ((ctlEntries s0 ns n0 nn).drop i) i r b
  | _, some r => b.rebuildFail r 0x11 none
  | _, none => b

/-- A pre-empted REBUILD goes on: at the allocation it waited for, or with its recipe command (R220). -/
def Body.rebuildResume (b : Body) (fl : Flight) : Body :=
  let fl := { fl with handles := [fl.cmd.h 3 / 65536], started := true }
  let b := { b.start fl with crates.rebuilds := b.crates.rebuilds.map fun (x : Rebuild) => if x.fl.uid = fl.uid then { x with fl := fl } else x }
  if b.crates.rebuilds.any fun x => decide (x.fl.uid = fl.uid) && x.cur.isSome then b else b.rebuildGo fl

/-- REBUILD (R220). -/
def execRebuild (c : Cmd) (s : State) : Host.Outcome State Fault Refusal :=
  s.onBody fun b => b.onCmd c 0x54 fun b fl =>
    let k := c.f 1 11 0
    if fl.resumed ∧ fl.progress ≠ [] then b.rebuildResume fl else
    let (rec_, used) := recipeOf c (c.f 1 55 48) 1
    if legalLength 0x54 c.length.toNat ≠ 1 + used ∨ (rec_.any fun x => decide (0x50 ≤ x.1 ∧ x.1 ≤ 0x54)) then b.fail fl 0x11 k
    else
      match b.crateMap k with
      | none => b.fail fl 0x11 k
      | some m =>
        let (_, ns, _, nn, n) := ctlRange c m
        if m.slot ≠ fl.slot ∨ (b.mapPool m (c.f 1 45 44)).isNone then b.fail fl 0x11 k
        else
          match b.accessHere fl.slot (c.h 3) (32 * c.f 3 37 18) (2 * ns * nn * m.t * m.d * m.eb) false with
          | .error st => b.fail fl st (c.h 3)
          | .ok _ =>
            let fl := { fl with handles := [c.h 3 / 65536], started := true, progress := [0] }
            let b := (b.clampCmd fl n).start fl
            let r : Rebuild := { fl := fl, left := rec_, cur := none, items := [] }
            ({ b with crates.rebuilds := b.crates.rebuilds ++ [r] }).rebuildGo fl

/-- REBUILD_RECIPE_DONE (R220): the recipe command of a REBUILD has completed; the next starts, or the rows are packed, or its fault
ends the REBUILD. -/
def execRebuildRecipeDone (wq : Fin 64) (tag : BitVec 16) (s : State) : Host.Outcome State Fault Refusal :=
  s.onBody fun b =>
    match b.crates.rebuilds.find? fun r => decide (r.fl.cmd.wq = wq ∧ r.fl.cmd.tag = tag ∧ r.cur.isSome ∧ (b.flight r.fl.uid).isSome) with
    | none => b
    | some r =>
      let busy := (b.hm.flights.any fun x => decide (some x.uid = r.cur)) || (b.hm.ended.any fun x => decide (some x.fl.uid = r.cur)) ||
        (b.info r.fl.slot).saved.any fun x => decide (some x.uid = r.cur)
      if busy then b
      else if r.status ≠ 0 then b.rebuildFail r r.status none
      else
        let r := { r with cur := none }
        let b := { b with crates.rebuilds := b.crates.rebuilds.map fun (x : Rebuild) => if x.fl.uid = r.fl.uid then r else x }
        b.rebuildNext r

/-! ### Waits that end (R208, R215) -/

/-- A command of the Crate store that waited goes on. -/
def Body.crateGo (b : Body) (uid : Nat) : Body :=
  match b.flight uid with
  | none => b
  | some fl =>
    match fl.opc with
    | 0x50 => match b.crateMap (fl.cmd.f 1 11 0) with
      | some m => b.resumeMap fl (fl.cmd.f 1 11 0) m
      | none => b
    | 0x52 => b.appendGo fl
    | 0x53 => b.moveGo fl
    | 0x54 => b.rebuildGo fl
    | _ => b

/-- APRON_NEXT_CRATE (R215): the last load that resolved a stream's flushed Crate as APRON completes, and an append that waited for it
goes on. -/
def execApronNextCrate (map stream : Nat) (s : State) : Host.Outcome State Fault Refusal :=
  s.onBody fun b =>
    match b.crateMap map with
    | none => b
    | some m =>
      let a := (b.streamRec m stream).apron
      let b := { b with crates.loads := b.crates.loads.filter fun l => decide (l.addr ≠ a) }
      match b.hm.flights.find? fun x => decide (x.opc = 0x52 ∧ x.started ∧ x.cmd.f 1 11 0 = map ∧
          x.progress.getD 0 0 = 0 ∧ x.progress.getD 3 0 + x.progress.getD 1 0 = stream) with
      | some fl => b.crateGo fl.uid
      | none => b

/-- SLOT_QUARANTINE_END (R208, R217): the last load that resolved a released slot completes; the slot is free, or goes to the
allocation that waits for it. -/
def execSlotQuarantineEnd (pool slot : Nat) (s : State) : Host.Outcome State Fault Refusal :=
  s.onBody fun b =>
    match b.pool pool with
    | none => b
    | some p =>
      if slot ∉ p.quar then b
      else
        let b := { b with
          crates.loads := b.crates.loads.filter (fun l => decide (l.addr ≠ p.addr slot)),
          crates.pools := SMap.put b.crates.pools pool { p with quar := p.quar.filter fun i => decide (i ≠ slot) } }
        let b := b.syncPool pool
        match b.crates.reserved.find? fun r => decide (r.2 = (pool, slot)) with
        | some r => b.crateGo r.1
        | none => b

end Sys2Proof.Machine
end

