-- ==== Sys2Proof/Machine/Ethernet.lean ====
section
/-!
DEFINITION. The Ethernet host attachment (R381-R401): ports, queue pairs, completion rings, requests to Gangways, rate
control, PTP and PPS.
-/

namespace Sys2Proof.Machine

/-! ### Ports (R381-R383) -/

/-- A sub-port's settings as held. -/
def Body.port (b : Body) (p : Nat) : PortInfo := SMap.get b.eth.ports {} p

/-- Changes a sub-port's settings. -/
def Body.updPort (b : Body) (p : Nat) (f : PortInfo → PortInfo) : Body := { b with eth.ports := SMap.upd b.eth.ports {} p f }

/-- The rate of a sub-port in Mb/s under its port's mode; 0 where the mode does not provide it (R381). -/
def Body.portRate (b : Body) (p : Nat) : Nat :=
  match b.getF (.epPortCfg p) Fld.epPortCfgMode with
  | 1 => if p % 2 = 0 then 800000 else 0
  | 2 => 400000
  | _ => 0

/-- PORT_CFG (R383). -/
def execPortCfg (c : Cmd) (s : State) : Host.Outcome State Fault Refusal :=
  s.onBody fun b => b.onCmd c 0x78 fun b fl =>
    let p := c.f 1 2 0
    let mgmt := c.b 1 3 && decide (p = 0)
    let b := b.clampCmd fl (if c.b 1 3 ∧ p ≠ 0 then 1 else 0)
    let b := b.setF (.epPortCfg p) Fld.epPortCfgPfcPrio (c.f 1 6 4)
    let b := (b.setF (.epPortCfg p) Fld.epPortCfgPfcEn (c.f 1 7 7)).setF (.epPortCfg p) Fld.epPortCfgEcnEn (c.f 1 8 8)
    let v4 := c.f 2 31 0
    let v6 := (c.w 3).toNat + (c.w 4).toNat * 2 ^ 64
    (b.updPort p fun q =>
      if mgmt then { q with mgmtIpv4 := v4, mgmtIpv6 := v6 } else { q with ipv4 := v4, ipv6 := v6 }).done fl

/-- A frame is discarded and counted (R382, R395). -/
def Body.discard (b : Body) (p : Nat) : Body := b.bump (.epPortStat p) Fld.epPortStatDiscard 1

/-- A frame with a tag is accepted by a sub-port: any tag on sub-port 0, none on another (R395). -/
def tagOk (p : Nat) (vlan : Option Nat) : Bool := vlan.isNone || decide (p = 0)

/-- The addresses that a frame's tag selects: those of the management VLAN, or the port's own (R382, R383). -/
def Body.addrsOf (b : Body) (p : Nat) (vlan : Option Nat) : Nat × Nat :=
  let q := b.port p
  if vlan = some (frGet b.framing 0x004) then (q.mgmtIpv4, q.mgmtIpv6) else (q.ipv4, q.ipv6)

/-- An address request is answered where the address is set and is the one asked for; a wrongly tagged frame is discarded. -/
def Body.answerAddr (b : Body) (p : Nat) (vlan : Option Nat) (hit : Bool) (m : Msg) : Body :=
  if ¬ b.netUp then b
  else if ¬ tagOk p vlan then b.discard p
  else if hit then b.send m
  else b

/-- ARP_REQUEST (R382). -/
def execArpRequest (p : Fin 8) (vlan : Option Nat) (ip : Nat) (s : State) : Host.Outcome State Fault Refusal :=
  s.onBody fun b =>
    b.answerAddr p vlan (decide (ip ≠ 0 ∧ ip = (b.addrsOf p vlan).1))
      { port := .subport p, kind := .arpReply, nums := [vlan.getD 0, ip, (Config.macBase.toNat + if vlan = some (frGet b.framing 0x004) then 8 else p.val)] }

/-- NEIGHBOUR_SOLICITATION (R382). -/
def execNeighbourSolicitation (p : Fin 8) (vlan : Option Nat) (ip : Nat) (s : State) : Host.Outcome State Fault Refusal :=
  s.onBody fun b =>
    b.answerAddr p vlan (decide (ip ≠ 0 ∧ ip = (b.addrsOf p vlan).2))
      { port := .subport p, kind := .naReply, nums := [vlan.getD 0, ip, (Config.macBase.toNat + if vlan = some (frGet b.framing 0x004) then 8 else p.val)] }

/-- ICMP_ECHO (R382). -/
def execIcmpEcho (p : Fin 8) (vlan : Option Nat) (ip : Nat) (data : List Byte) (s : State) : Host.Outcome State Fault Refusal :=
  s.onBody fun b =>
    b.answerAddr p vlan (decide (ip ≠ 0 ∧ (ip = (b.addrsOf p vlan).1 ∨ ip = (b.addrsOf p vlan).2)))
      { port := .subport p, kind := .icmpReply, nums := [vlan.getD 0, ip], data := data }

/-- OTHER_FRAME (R382, R395). -/
def execOtherFrame (p : Fin 8) (_vlan : Option Nat) (s : State) : Host.Outcome State Fault Refusal :=
  s.onBody fun b => if b.netUp then b.discard p else b

/-- ETHERNET_LINK_CHANGE (R381): a sub-port links only where its port's mode provides it. A link that goes down holds no pause. -/
def execEthernetLinkChange (p : Fin 8) (up : Bool) (s : State) : Host.Outcome State Fault Refusal :=
  s.onBody fun b =>
    if up then (if b.netUp ∧ b.portRate p ≠ 0 then b.setF (.epPortStat p) Fld.epPortStatLink 1 else b)
    else (b.setF (.epPortStat p) Fld.epPortStatLink 0).updPort p fun q => { q with paused := none, stormed := false }

/-! ### Pauses (R385) -/

/-- PAUSE_FRAME (R385): honoured on PFC_PRIO with PFC_EN; a pause of no quanta lifts it. -/
def execPauseFrame (p : Fin 8) (prio : Fin 8) (quanta : Nat) (s : State) : Host.Outcome State Fault Refusal :=
  s.onBody fun b =>
    if b.flag (.epPortCfg p) Fld.epPortCfgPfcEn ∧ b.getF (.epPortCfg p) Fld.epPortCfgPfcPrio = prio then
      b.updPort p fun q =>
        if quanta = 0 then { q with paused := none, stormed := false }
        else { q with paused := some (q.paused.getD b.ts) }
    else b

/-- PFC_STORM (R385): the pause is ignored until it is lifted, counted and recorded. -/
def execPfcStorm (p : Fin 8) (s : State) : Host.Outcome State Fault Refusal :=
  s.onBody fun b =>
    let q := b.port p
    if q.paused.isSome ∧ ¬ q.stormed then
      ((b.updPort p fun q => { q with stormed := true }).bump (.epPortStat p) Fld.epPortStatPfcStorm 1).err 0x0703 1 5 p
        [b.getF (.epPortCfg p) Fld.epPortCfgPfcPrio]
    else b

/-! ### Queue pairs (R387, R388) -/

/-- A QP exists (R401). -/
def Body.qpExists (b : Body) (k : Nat) : Bool := decide (b.getF (.epQpStat k) Fld.epQpStatState ≠ 0)

/-- The rate limit a QP takes: within its cap, where it has one (R388). -/
def Qp.held (q : Qp) (r : Nat) : Nat := if q.cap = 0 then r else min r q.cap

/-- The QP that QP_CREATE's words give (R387). -/
def qpOf (c : Cmd) : Qp :=
  { mgmt := c.b 1 12, ipv6 := c.b 1 13, pmtu := min 2 (c.f 1 15 14), destQpn := c.f 1 55 32, tclass := c.f 1 63 56,
    wqMask := (c.w 2).toNat, destIp := (c.w 3).toNat + (c.w 4).toNat * 2 ^ 64, destMac := c.f 5 47 0, vlan := c.f 5 59 48,
    sqPsn := c.f 6 23 0, rqPsn := c.f 6 47 24, retry := c.f 6 50 48, timeout := c.f 6 55 51, udpSrc := c.f 7 15 0,
    wqKey := max 1 (c.f 7 47 16), egVa := (c.w 8).toNat, egRkey := c.f 9 31 0 }

/-- QP_CREATE (R386, R387, R395). -/
def execQpCreate (c : Cmd) (s : State) : Host.Outcome State Fault Refusal :=
  s.onBody fun b => b.onCmd c 0x79 fun b fl =>
    let k := c.f 1 8 0
    let p := c.f 1 11 9
    let q := qpOf c
    let b := b.clampCmd fl ([decide (q.pmtu ≠ c.f 1 15 14), decide (q.wqKey ≠ c.f 7 47 16)].count true)
    if b.qpExists k ∨ b.portRate p = 0 ∨ (q.mgmt ∧ ¬(p = 0 ∧ q.vlan = frGet b.framing 0x004)) then b.fail fl 0x11 k
    else if (List.range 64).any fun n => q.wqMask.testBit n && decide (b.getF (.hmWqCfg n) Fld.hmWqCfgCtx ≠ c.f 1 31 16) then
      b.fail fl 0x60 k
    else
      let r := b.portRate p
      let b := { b with eth.qps := SMap.set b.eth.qps {} k { q with rt := r } }
      let b := (b.setF (.epQpStat k) Fld.epQpStatState 1).setF (.epQpStat k) Fld.epQpStatSubport p
      ((b.setF (.epQpStat k) Fld.epQpStatCtx (c.f 1 31 16)).setF (.epQpStat k) Fld.epQpStatRate r).done fl

/-- Deletes a QP; rings bound to it are bound to none (R388, R398). -/
def Body.qpDelete (b : Body) (k : Nat) : Body :=
  { b.setReg (.epQpStat k) (Reg.dflt (.epQpStat k)) with
    eth.qps := SMap.drop b.eth.qps k,
    eth.cqs := b.eth.cqs.map fun (p : Nat × CqRing) => if p.2.qp = some k then (p.1, { p.2 with qp := none }) else p }

/-- A QP enters ERROR; an error record names it (R388). -/
def Body.qpError (b : Body) (k d1 : Nat) : Body :=
  (b.setF (.epQpStat k) Fld.epQpStatState 2).err 0x0702 1 5 (b.getF (.epQpStat k) Fld.epQpStatSubport) [k, d1] 0
    (b.getF (.epQpStat k) Fld.epQpStatCtx)

/-- QP_CTL DESTROY (R388). A QP that does not exist faults HOLD_RANGE (log entry 43). -/
def execQpCtlDestroy (c : Cmd) (s : State) : Host.Outcome State Fault Refusal :=
  s.onBody fun b => b.onSub c 0x7A (decide (c.f 1 10 9 = 0)) fun b fl =>
    let k := c.f 1 8 0
    if b.qpExists k then (b.qpDelete k).done fl else b.fail fl 0x11 k

/-- QP_CTL RESTART (R388): a QP in ERROR works again with new PSNs; what it had sent before is forgotten. A QP not in ERROR is left
as it is (log entry 43). -/
def execQpCtlRestart (c : Cmd) (s : State) : Host.Outcome State Fault Refusal :=
  s.onBody fun b => b.onSub c 0x7A (decide (c.f 1 10 9 = 1)) fun b fl =>
    let k := c.f 1 8 0
    if ¬ b.qpExists k then b.fail fl 0x11 k
    else if b.getF (.epQpStat k) Fld.epQpStatState = 2 then
      ((b.updQp k fun q => { q with sqPsn := c.f 2 23 0, rqPsn := c.f 2 47 24, tries := 0, unacked := [] }).setF
        (.epQpStat k) Fld.epQpStatState 1).done fl
    else b.done fl

/-- QP_CTL CAP (R388): OP 3 is clamped to it. -/
def execQpCtlCap (c : Cmd) (s : State) : Host.Outcome State Fault Refusal :=
  s.onBody fun b => b.onSub c 0x7A (decide (c.f 1 10 9 ≥ 2)) fun b fl =>
    let k := c.f 1 8 0
    let b := b.clampCmd fl (if c.f 1 10 9 = 3 then 1 else 0)
    if ¬ b.qpExists k then b.fail fl 0x11 k
    else
      let b := b.updQp k fun q => { q with cap := c.f 2 31 0 }
      (b.setF (.epQpStat k) Fld.epQpStatRate ((b.qp k).held (b.getF (.epQpStat k) Fld.epQpStatRate))).done fl

/-- CQ_BIND (R391). -/
def execCqBind (c : Cmd) (s : State) : Host.Outcome State Fault Refusal :=
  s.onBody fun b => b.onCmd c 0x7B fun b fl =>
    let n := c.f 1 5 0
    let k := c.f 1 17 8
    let (lg, n1) := clampTo (c.f 3 36 32) 6 16
    let (va, n2) := clampDown (c.w 2).toNat 32
    let (pv, n3) := clampDown (c.w 4).toNat 8
    let b := b.clampCmd fl (n1 + n2 + n3)
    if ¬ (b.qp k).wqMask.testBit n then b.fail fl 0x60 k
    else
      (b.updCq n fun r =>
        { r with qp := some k, ringVa := va, rkey := c.f 3 31 0, log2 := lg, piVa := pv, pi := 0, ci := 0, piSent := 0 }).done fl

/-! ### Requests from the host (R384, R386, R394) -/

/-- A packet marked CE makes the module send a CNP to its QP, at most once in 50 µs (R386). -/
def Body.ceMarked (b : Body) (k : Nat) (ce : Bool) : Body :=
  let due : Bool := match (b.qp k).lastCnp with
    | none => true
    | some t => decide ((b.ts - t).toNat ≥ 50000)
  if ce ∧ due ∧ b.flag (.epPortCfg (b.getF (.epQpStat k) Fld.epQpStatSubport)) Fld.epPortCfgEcnEn then
    (b.updQp k fun q => { q with lastCnp := some b.ts }).send
      { port := .subport (b.getF (.epQpStat k) Fld.epQpStatSubport), kind := .cnp, nums := [k] }
  else b

/-- The Gangway aperture a host address lies in, and the offset there (R113). -/
def apertureOf (va : Nat) : Option (Nat × Nat) :=
  if 0x600000000000 ≤ va ∧ va < 0x600000000000 + 64 * 2 ^ 38 then
    some ((va - 0x600000000000) / 2 ^ 38, (va - 0x600000000000) % 2 ^ 38)
  else none

/-- The NAK of a Gangway outcome (R394): 1 Invalid Request, 2 Remote Access Error, 3 Remote Operational Error. -/
def Body.gwNak (b : Body) (a : GwReq) (st : Nat) : Nat :=
  let w := b.gw a.gw
  match a.op with
  | .fetchAdd _ =>
    if st = 0x20 then 3
    else if st = 0x13 then
      if w.opened ∧ ¬ w.closing ∧ a.key = w.key ∧ b.gwInScope w a.who then 1 else 2
    else if a.off + 8 > w.size then 2 else 1
  | _ => if st = 0x20 then 3 else 2

/-- The packets that a request takes on the QP's receive PSNs. -/
def reqPackets (q : Qp) : GwOp → Nat
  | .write d => packets d.length q.mtu
  | .read n => packets n q.mtu
  | .fetchAdd _ => 1

/-- A host request to a Gangway: checked under R115 and answered (R394). In ANCHOR it is answered with NAK Remote Operational Error
(R399). One whose address lies in no aperture and no queue window is refused as a window access (R389). -/
def Body.hostReq (b : Body) (k va rkey : Nat) (op : GwOp) (ce : Bool) : Body :=
  if ¬ (b.netUp ∧ b.qpReady k) ∨ (windowOf va).isSome then b
  else
    let b := b.ceMarked k ce
    match apertureOf va with
    | none => b.windowRefused { qp := Fin.ofNat 512 k, va := va, rkey := rkey, data := [] } 0xFFFF
    | some (g, off) =>
      if b.boot.phase = .anchor then b.answer k .roceNak [3]
      else
        let a : GwReq := { gw := g, off := off, key := rkey, op := op, who := .host k }
        let rx := match op with | .write d => d.length | .read _ => 0 | .fetchAdd _ => 8
        let b := b.count (b.qpSlot k) 12 rx
        let (st, d, b') := b.gwAccess a
        if st = 0 then
          let b' := b'.updQp k fun q => { q with rqPsn := (q.rqPsn + reqPackets q op) % 2 ^ 24 }
          match op with
          | .write _ => b'.answer k .roceAck []
          | .read _ => (b'.answer k .readResponse [] d).count (b'.qpSlot k) 13 d.length
          | .fetchAdd _ => (b'.answer k .atomicResponse [] d).count (b'.qpSlot k) 13 d.length
        else b'.answer k .roceNak [b.gwNak a st]

/-- RDMA_WRITE (R394); a message longer than 2^31 bytes is not supported (R384). -/
def execRdmaWrite (qp : Fin 512) (va rkey : Nat) (data : List Byte) (ce : Bool) (s : State) : Host.Outcome State Fault Refusal :=
  s.onBody fun b =>
    if data.length > 2 ^ 31 then (if b.netUp ∧ b.qpReady qp then b.answer qp .roceNak [1] else b)
    else b.hostReq qp va rkey (.write data) ce

/-- RDMA_READ (R394). -/
def execRdmaRead (qp : Fin 512) (va rkey len : Nat) (ce : Bool) (s : State) : Host.Outcome State Fault Refusal :=
  s.onBody fun b =>
    if len > 2 ^ 31 then (if b.netUp ∧ b.qpReady qp then b.answer qp .roceNak [1] else b)
    else if (windowOf va).isSome ∧ b.netUp ∧ b.qpReady qp then
      (b.ceMarked qp ce).windowRefused { qp := qp, va := va, rkey := rkey, data := [] } (((windowOf va).map (·.1)).getD 0)
    else b.hostReq qp va rkey (.read len) ce

/-- FETCH_AND_ADD (R394). -/
def execFetchAndAdd (qp : Fin 512) (va rkey : Nat) (v : Word) (ce : Bool) (s : State) : Host.Outcome State Fault Refusal :=
  s.onBody fun b =>
    if (windowOf va).isSome ∧ b.netUp ∧ b.qpReady qp then
      (b.ceMarked qp ce).windowRefused { qp := qp, va := va, rkey := rkey, data := [] } (((windowOf va).map (·.1)).getD 0)
    else b.hostReq qp va rkey (.fetchAdd v) ce

/-- UNSUPPORTED_REQUEST (R384): NAK Invalid Request. -/
def execUnsupportedRequest (qp : Fin 512) (s : State) : Host.Outcome State Fault Refusal :=
  s.onBody fun b => if b.netUp ∧ b.qpReady qp then b.answer qp .roceNak [1] else b

/-! ### What the module has sent (R384, R388) -/

/-- The last PSN of a message the module sent. -/
def lastPsn (q : Qp) (m : Msg) : Nat := (m.nums.getD 1 0 + packets m.data.length q.mtu - 1) % 2 ^ 24

/-- A PSN is at or before another, within half of the space of 24 bits. -/
def psnLe (a c : Nat) : Bool := decide ((c + 2 ^ 24 - a) % 2 ^ 24 < 2 ^ 23)

/-- Messages up to a PSN are acknowledged, the telemetry push among them (R384, R462). -/
def Body.acked (b : Body) (k psn : Nat) : Body :=
  let b := b.updQp k fun q => { q with unacked := q.unacked.filter fun m => !psnLe (lastPsn q m) psn }
  let t := b.tele.push
  if t.qp = k ∧ ¬ t.acked ∧ t.uid = none ∧ ¬ ((b.qp k).unacked.any fun m => decide (m.nums.getD 2 0 = t.va ∨ m.nums.getD 2 0 = t.va + 24)) then
    { b with tele.push.acked := true }.bump .hmTelStat Fld.hmTelStatPushes 1
  else b

/-- Sends again every message not acknowledged. -/
def Body.qpResend (b : Body) (k : Nat) : Body := (b.qp k).unacked.foldl (fun b m => b.send m) b

/-- A retry: once RETRY are exhausted the QP enters ERROR (R388). -/
def Body.retry (b : Body) (k d1 : Nat) : Body :=
  if (b.qp k).tries < (b.qp k).retry then (b.updQp k fun q => { q with tries := q.tries + 1 }).qpResend k
  else b.qpError k d1

/-- ROCE_ACK (R384). -/
def execRoceAck (qp : Fin 512) (psn : Nat) (s : State) : Host.Outcome State Fault Refusal :=
  s.onBody fun b =>
    if b.qpReady qp then (b.updQp qp fun q => { q with tries := 0 }).acked qp (psn % 2 ^ 24) else b

/-- ROCE_NAK (R384, R388): a sequence error (AETH syndrome 0x60; log entry 43) acknowledges what came before its PSN and resends the
rest; any other, an RNR among them, puts the QP in ERROR. -/
def execRoceNak (qp : Fin 512) (psn syndrome : Nat) (s : State) : Host.Outcome State Fault Refusal :=
  s.onBody fun b =>
    if ¬ b.qpReady qp then b
    else if syndrome = 0x60 then (b.acked qp ((psn + 2 ^ 24 - 1) % 2 ^ 24)).retry qp 0xFF
    else b.qpError qp syndrome

/-- ROCE_ACK_TIMEOUT (R384). -/
def execRoceAckTimeout (qp : Fin 512) (s : State) : Host.Outcome State Fault Refusal :=
  s.onBody fun b => if b.qpReady qp ∧ (b.qp qp).unacked ≠ [] then b.retry qp 0xFF else b

/-! ### Rate control (R386; log entry 43) -/

/-- The least rate a CNP leaves, in Mb/s. -/
def rateMin : Nat := 100

/-- CNP (R386). -/
def execCnp (qp : Fin 512) (s : State) : Host.Outcome State Fault Refusal :=
  s.onBody fun b =>
    if ¬ b.qpReady qp then b
    else
      let q := b.qp qp
      let rc := b.getF (.epQpStat qp) Fld.epQpStatRate
      let rc' := q.held (max (rc * (2 ^ 33 - q.alpha) / 2 ^ 33) rateMin)
      let b := b.bump (.epPortStat (b.getF (.epQpStat qp) Fld.epQpStatSubport)) Fld.epPortStatCnpRx 1
      (b.updQp qp fun q => { q with rt := rc, alpha := (15 * q.alpha + 2 ^ 32) / 16, steps := 0 }).setF
        (.epQpStat qp) Fld.epQpStatRate rc'

/-- ALPHA_DECAY (R386). -/
def execAlphaDecay (qp : Fin 512) (s : State) : Host.Outcome State Fault Refusal :=
  s.onBody fun b => if b.qpReady qp then b.updQp qp fun q => { q with alpha := 15 * q.alpha / 16 } else b

/-- RATE_INCREASE (R386): from the sixth step without a CNP the target rises by 40 Mb/s, up to the sub-port rate. -/
def execRateIncrease (qp : Fin 512) (s : State) : Host.Outcome State Fault Refusal :=
  s.onBody fun b =>
    if ¬ b.qpReady qp then b
    else
      let q := b.qp qp
      let top := b.portRate (b.getF (.epQpStat qp) Fld.epQpStatSubport)
      let rt := if q.steps + 1 ≥ 6 then max q.rt (min (q.rt + 40) top) else q.rt
      let rc := (b.getF (.epQpStat qp) Fld.epQpStatRate + rt) / 2
      (b.updQp qp fun q => { q with rt := rt, steps := q.steps + 1 }).setF (.epQpStat qp) Fld.epQpStatRate (q.held rc)

/-! ### Time (R396, R397; log entry 44) -/

/-- A frequency correction within ±100 ppm, in parts per billion: a free value. -/
def Body.slewFree (b : Body) : Body :=
  let (w, b) := b.free
  { b with eth.slew := ((w.toNat % 200001 : Nat) : Int) - 100000 }

/-- PPS edges discipline the counter now: PPS_MODE 2, an edge seen, and none lost. -/
def Body.ppsSteers (b : Body) : Bool :=
  decide (b.getF .epPtpCfg Fld.epPtpCfgPpsMode = 2 ∧ b.eth.ppsCount ≠ 0) && !b.flag .epPtpStat Fld.epPtpStatPpsLost

/-- The timestamp counter after a step that removes an offset. -/
def stepTs (t : Word) (d : Int) : Word := BitVec.ofInt 64 ((t.toNat : Int) - d)

/-- PTP_EVENT_MESSAGE (R396): on PTP_PORT and PTP_DOMAIN, with the offset measured; above 1 ms the counter steps, else its frequency
is slewed. While PPS edges steer, only whole seconds change (R397). -/
def execPtpEventMessage (p : Fin 8) (domain : Nat) (offset : Int) (s : State) : Host.Outcome State Fault Refusal :=
  s.onBody fun b =>
    if ¬ b.netUp ∨ p.val ≠ frGet b.framing 0x00D ∨ domain ≠ frGet b.framing 0x00E then b
    else
      let o := max (-2147483648) (min 2147483647 offset)
      let b := b.setF .epPtpStat Fld.epPtpStatOffset (ofSInt 32 o)
      let b := b.setF .epPtpStat Fld.epPtpStatLocked (if offset.natAbs < 20 then 1 else 0)
      let b := b.send { port := .subport p, kind := .ptpDelayReq,
                        nums := [domain, b.ts.toNat + b.getF .epPtpCfg Fld.epPtpCfgTxLat] }
      if offset.natAbs > 1000000 then
        let d : Int := if b.ppsSteers then offset.tdiv 1000000000 * 1000000000 else offset
        { b with
          ts := stepTs b.ts d,
          tele.probe := b.tele.probe.map fun (x : Probe) => { x with
            spoiled := (x.sent.map (·.1)).filter fun i => !x.results.any fun (r : Nat × Int × Int × Word) => decide (r.1 = i) } }
      else if b.ppsSteers then b
      else b.slewFree

/-- PPS_IN_EDGE (R397): an edge within 0.9 s of the one before is ignored; PPS_MODE 0 ignores the pin. -/
def execPpsInEdge (s : State) : Host.Outcome State Fault Refusal :=
  s.onBody fun b =>
    let mode := b.getF .epPtpCfg Fld.epPtpCfgPpsMode
    if mode = 0 ∨ (b.eth.ppsCount ≠ 0 ∧ (b.ts - b.eth.ppsLast).toNat < 900000000) then b
    else
      let b := { b with eth.ppsLast := b.ts, eth.ppsCount := b.eth.ppsCount + 1 }
      let b := (b.setReg .epPpsTs b.ts).setF .epPtpStat Fld.epPtpStatPpsLost 0
      if mode = 2 then b.slewFree else b

/-- PPS_LOST (R397): two seconds without an edge; the steering returns to PTP alone. -/
def execPpsLost (s : State) : Host.Outcome State Fault Refusal :=
  s.onBody fun b =>
    if b.getF .epPtpCfg Fld.epPtpCfgPpsMode = 0 then b else b.setF .epPtpStat Fld.epPtpStatPpsLost 1

end Sys2Proof.Machine
end

