-- ==== Sys2Proof/Machine/Jigs.lean ====
section
/-!
DEFINITION. Loading and swapping Lathe table banks (R172-R181): the clamps of an image, JIG_LOAD, and swaps.
-/

namespace Sys2Proof.Machine

/-! ### The clamps of a loaded image (R173-R177) -/

/-- Writes a number of `n` bytes at an offset of a bank when it differs, and counts it. -/
def Body.bankSet (p k : Nat) (x : Body × Nat) (off n v : Nat) : Body × Nat :=
  if x.1.bank p k off n = v then x else (x.1.setLe (jigBase p k + off) n v, x.2 + 1)

/-- The header fields of a Jig (R173): MONO, STEPS, FTZ_EXP, QUAD_NOCT. -/
def Body.jigHead (p k base : Nat) (x : Body × Nat) : Body × Nat :=
  let flags := x.1.bank p k base 1
  let x := if bits flags 3 2 = 3 then Body.bankSet p k x base 1 (putBits flags 3 2 2) else x
  let steps := x.1.bank p k (base + 1) 1
  let x := Body.bankSet p k x (base + 1) 1 (max 1 (min 32 steps))
  let f := x.1.bank p k (base + 2) 1
  let x := if 1 ≤ f ∧ f ≤ 127 then Body.bankSet p k x (base + 2) 1 0 else x
  let o := x.1.bank p k (base + 4) 1
  Body.bankSet p k x (base + 4) 1 (max 1 (min 124 o))

/-- The segments a QUAD step reaches beyond its BASE (R175). -/
def quadSpan (bk : Bank) (base imm : Nat) : Nat :=
  if imm.testBit 17 then 64 * (bk (base + 4) 1 - 1) + 63 else 2 ^ (imm / 8192 % 16) - 1

/-- A step word (R174, R175): reserved operations, the function of a BUILT, SEGLOG and BASE of a QUAD. -/
def Body.jigWord (p k base i : Nat) (x : Body × Nat) : Body × Nat :=
  let off := base + 72 + 4 * i
  let get (x : Body × Nat) : Nat := x.1.bank p k off 4
  let x := if get x / 2 ^ 27 > 0x0E then Body.bankSet p k x off 4 (putBits (get x) 31 27 0x0E) else x
  if get x / 2 ^ 27 = 0x0E then
    let f := get x % 256
    Body.bankSet p k x off 4 (putBits (get x) 7 0 (if f = 3 then 1 else if f > 0x10 then 6 else f))
  else if get x / 2 ^ 27 = 0x0D then
    let x := if (get x).testBit 17 then x else Body.bankSet p k x off 4 (putBits (get x) 16 13 (min 12 (bits (get x) 16 13)))
    let span := quadSpan (x.1.bank p k) base (get x % 2 ^ 21)
    Body.bankSet p k x off 4 (putBits (get x) 12 0 (min (get x % 8192) (7935 - span)))
  else x

/-- The step words of a Jig that can run: those below STEPS up to its first OUT (log entry 22). -/
def jigLive (bk : Bank) (base : Nat) : List Nat :=
  let n := bk (base + 1) 1
  ((List.range n).takeWhile fun i => decide (bk (base + 72 + 4 * i) 4 / 2 ^ 27 ≠ 0))

/-- The segments that the QUAD steps of a Jig reach, in increasing order. -/
def jigSegments (bk : Bank) (base : Nat) : List Nat :=
  let spans := (jigLive bk base).filterMap fun i =>
    let w := bk (base + 72 + 4 * i) 4
    if w / 2 ^ 27 = 0x0D then some (w % 8192, w % 8192 + quadSpan bk base (w % 2 ^ 21)) else none
  (List.range 7936).filter fun s => spans.any fun z => decide (z.1 ≤ s ∧ s ≤ z.2)

/-- Two values have different signs, neither being zero or a NaN. -/
def signsDiffer (a b : Val) : Bool :=
  !a.isZero && !b.isZero && !a.isNan && !b.isNan && decide (a.neg ≠ b.neg)

/-- The seam rules on one segment (R177): `joined` says that its predecessor is reached too. -/
def Body.jigSeam (p k s : Nat) (joined : Bool) (x : Body × Nat) : Body × Nat :=
  let x := if joined then
      let bk := x.1.bank p k
      let e := toF32 ((segC bk (s - 1) 0).add ((segC bk (s - 1) 1).add (segC bk (s - 1) 2)))
      Body.bankSet p k x (4096 + 16 * s) 4 e
    else x
  let bk := x.1.bank p k
  let c1 := segC bk s 1
  let c2 := segC bk s 2
  if signsDiffer c1 (c1.add (c2.scale 1)) then
    Body.bankSet p k x (4096 + 16 * s + 8) 4 (fFP32.conv 1 false false (c1.negate.scale (-1))).1
  else x

/-- The clamps of one VALID Jig. -/
def Body.jigFix (p k j : Nat) (x : Body × Nat) : Body × Nat :=
  let base := 256 * j
  if x.1.bank p k base 1 % 2 = 0 then x
  else
    let x := Body.jigHead p k base x
    let x := (jigLive (x.1.bank p k) base).foldl (fun x i => Body.jigWord p k base i x) x
    if (x.1.bank p k base 1).testBit 1 then
      let ss := jigSegments (x.1.bank p k) base
      ss.foldl (fun x s => Body.jigSeam p k s (decide (s ≠ 0 ∧ s - 1 ∈ ss)) x) x
    else x

/-! ### Swaps (R179) -/

/-- The current bank of a partition, as its Berths hold it. -/
def Body.curBank (b : Body) (p : Nat) : Nat :=
  match b.berthsOfPart p with
  | [] => 0
  | g :: _ => b.getF (.brLatheStat g) Fld.brLatheStatCurBank

/-- A swap: the shadow bank becomes current and the epoch increments. -/
def Body.swapBanks (b : Body) (p : Nat) : Body :=
  (b.berthsOfPart p).foldl (fun b g =>
    let r : Reg := .brLatheStat g
    let cur := b.getF r Fld.brLatheStatCurBank
    let busy := if b.latched p cur then 1 else 0
    ((b.setF r Fld.brLatheStatCurBank (1 - cur)).setF r Fld.brLatheStatEpoch (b.getF r Fld.brLatheStatEpoch + 1)).setF r
      Fld.brLatheStatShadowBusy busy) b

/-! ### JIG_LOAD (R178) -/

/-- The load of an image into the shadow bank, its clamps, and the swap it asks for. A fault changes nothing. -/
def Body.jigLoad (b : Body) (fl : Flight) (p : Nat) : Body :=
  let c := fl.cmd
  let off := 32 * c.f 1 37 18
  match b.accessHere fl.slot (c.h 1) off 0x20000 false with
  | .error st => b.fail fl st (c.h 1) off
  | .ok e =>
    let b := b.tierTraffic fl.slot (e.base + off) 0x20000 false 11
    let (bs, ecc, b) := b.load fl (e.base + off) 0x20000
    if ecc then b.retire fl 0x20 0 true
    else
      let k := 1 - b.curBank p
      let b := b.setBytes (jigBase p k) bs
      let (b, n) := (List.range 16).foldl (fun x j => Body.jigFix p k j x) (b, 0)
      let b := b.clampCmd fl n
      let b := if c.b 2 0 then b.swapBanks p else b
      b.done fl

/-- The shadow bank is free, and no earlier JIG_LOAD of the partition waits for it (R181). -/
def Body.jigReady (b : Body) (p : Nat) : Bool :=
  !b.latched p (1 - b.curBank p) && !(b.jigs.any fun x => decide (b.partOfSlot x.slot = some p))

/-- JIG_LOAD (R178): waits until the shadow bank is free. Sent by the management context, it has no partition to act on. -/
def execJigLoad (c : Cmd) (s : State) : Host.Outcome State Fault Refusal :=
  s.onBody fun b => b.onSub c 0x4C (!c.b 2 1) fun b fl =>
    match b.partOfSlot fl.slot with
    | none => b.fail fl 0x11
    | some p =>
      if b.jigReady p then b.jigLoad fl p
      else
        let b := b.start { fl with handles := [c.h 1 / 65536] }
        { b with jigs := b.jigs ++ [{ fl with started := true }] }

/-- JIG_SWAP_ONLY (R178, R179): never waits. -/
def execJigSwapOnly (c : Cmd) (s : State) : Host.Outcome State Fault Refusal :=
  s.onBody fun b => b.onSub c 0x4C (c.b 2 1) fun b fl =>
    match b.partOfSlot fl.slot with
    | none => b.fail fl 0x11
    | some p => (b.swapBanks p).done fl

/-- JIG_SHADOW_FREE (R178, R181): the JIG_LOAD of a partition that has waited longest runs once the shadow bank is free. -/
def execJigShadowFree (part : Fin 10) (s : State) : Host.Outcome State Fault Refusal :=
  s.onBody fun b =>
    match b.jigs.find? fun x => decide (b.partOfSlot x.slot = some part.val) with
    | none => b
    | some fl =>
      if b.latched part (1 - b.curBank part) then b
      else ({ b with jigs := b.jigs.filter fun x => decide (x.uid ≠ fl.uid) }).jigLoad fl part

end Sys2Proof.Machine
end

