-- ==== Sys2Proof/Machine/Ferry.lean ====
section
/-!
DEFINITION. The Ferry (R241-R265): streams, pictures, rings and egress, with the codecs themselves left open (log entry 30).
-/

namespace Sys2Proof.Machine

/-! ### Entries (R242) -/

/-- An entry that the Ferry may use: PLACE 1-3, and the bytes it needs (R110, R242). -/
def Body.fyEntry (b : Body) (slot h off n : Nat) (write : Bool) : Except Nat Entry :=
  match b.access slot h off n write with
  | .error st => .error st
  | .ok e => if 1 ≤ e.place ∧ e.place ≤ 3 ∧ e.layout ≠ 4 then .ok e else .error 0x11

/-- A stream. -/
def Body.stream (b : Body) (k : Nat) : Option FyStream := SMap.find b.ferry.streams k

/-- Changes an open stream. -/
def Body.updStream (b : Body) (k : Nat) (f : FyStream → FyStream) : Body :=
  match b.stream k with
  | some x => { b with ferry.streams := SMap.put b.ferry.streams k (f x) }
  | none => b

/-- A pipe. -/
def Body.pipe (b : Body) (p : Nat) : FyPipe := b.ferry.pipes.getD p {}

/-- Changes a pipe. -/
def Body.setPipe (b : Body) (p : Nat) (x : FyPipe) : Body := { b with ferry.pipes := b.ferry.pipes.set p x }

/-! ### FY_STREAM (R245, R246, R256) -/

/-- Superblock or coding-tree columns, or rows, of an extent. -/
def blocks64 (x : Nat) : Nat := ceilDiv x 64

/-- The fields that RECONF may not change, after clamps, and the fields clamped (R243, R245). -/
def fyFixedOf (c : Cmd) : FyFixed × Nat :=
  let w0 := c.f 2 15 0 + 1
  let h0 := c.f 2 31 16 + 1
  let w := max 16 (min 8192 w0)
  let h := max 16 (min 4352 h0)
  let sub := c.b 1 14
  let la0 := c.f 5 31 27
  let la := if sub then 0 else min 16 la0
  let gop0 := c.f 5 33 32
  let gop := if sub then 0 else gop0
  let fn := max 1 (c.f 2 47 32)
  let fd := max 1 (c.f 2 63 48)
  let vi := min 100 (c.f 7 38 32)
  let enc := !c.b 1 10
  let tc := min (blocks64 w) (c.f 8 5 0 + 1)
  let tr := min (blocks64 h) (c.f 8 11 6 + 1)
  ({ decode := c.b 1 10, hevc := c.b 1 11, depth10 := c.b 1 12, max444 := c.b 1 13 && c.b 1 10, subframe := sub, width := w, height := h,
     fpsNum := fn, fpsDen := fd, refH := c.h 3, ringH := c.h 4, lookahead := la, gop := gop, vbvInit := vi,
     tcols := if enc ∧ ¬ c.b 1 11 then tc else 1, trows := if enc then tr else 1 },
    diff w w0 + diff h h0 + diff la la0 + diff gop gop0 + diff fn (c.f 2 47 32) + diff fd (c.f 2 63 48) + diff vi (c.f 7 38 32) +
      (if enc ∧ ¬ c.b 1 11 then diff tc (c.f 8 5 0 + 1) else 0) + (if enc then diff tr (c.f 8 11 6 + 1) else 0))

/-- The live fields after clamps, and the fields clamped (R245, R256). -/
def fyLiveOf (c : Cmd) (hevc depth10 : Bool) : FyLive × Nat :=
  let top := if hevc then (if depth10 then 63 else 51) else 255
  let rc := min 3 (c.f 5 2 0)
  let q := min top (c.f 5 10 3)
  let qx := min top (c.f 5 26 19)
  let qn := min qx (c.f 5 18 11)
  ({ prio := c.f 1 16 15, egress := c.b 1 17, qp := c.f 1 63 32, rcMode := rc, qual := q, qmin := qn, qmax := qx, keyint := c.f 5 49 34,
     target := c.f 6 31 0, most := c.f 6 63 32, vbv := c.f 7 31 0 },
    diff rc (c.f 5 2 0) + diff q (c.f 5 10 3) + diff qx (c.f 5 26 19) + diff qn (c.f 5 18 11))

/-- Bytes of a frame buffer of the reference store (R246). -/
def frameBytes (x : FyFixed) : Nat :=
  let wp := 64 * blocks64 x.width
  let hp := 64 * blocks64 x.height
  let b := if x.depth10 then 2 else 1
  (if x.max444 then 3 * wp * hp * b else 3 * wp * hp * b / 2) + wp * hp / 16

/-- Frame buffers of the reference store (R246). -/
def refSlots (x : FyFixed) : Nat := if x.hevc then (if x.decode then 17 else 6) else if x.decode then 9 else 8

/-- The egress QP of a stream is one of its context (R250). -/
def Body.egressOk (b : Body) (slot : Nat) (l : FyLive) : Bool :=
  !l.egress || decide (l.qp < 512 ∧ b.getF (.epQpStat l.qp) Fld.epQpStatCtx = b.ctxOfSlot slot ∧ b.getF (.epQpStat l.qp) Fld.epQpStatState ≠ 0)

/-- FY_STREAM, opening (R245, R246, R249). A stream that is open faults, also for its own context. -/
def execFyStreamOpen (c : Cmd) (s : State) : Host.Outcome State Fault Refusal :=
  s.onBody fun b => b.onSub c 0x58 (!c.b 1 8 && !c.b 1 9) fun b fl =>
    let k := c.f 1 7 0
    let (fx, n1) := fyFixedOf c
    let (lv, n2) := fyLiveOf c fx.hevc fx.depth10
    if (b.stream k).isSome ∨ ¬ b.egressOk fl.slot lv then b.fail fl 0x11 k
    else
      match b.fyEntry fl.slot fx.refH 0 (refSlots fx * frameBytes fx) true, b.fyEntry fl.slot fx.ringH 0 96 true with
      | .error st, _ => b.fail fl st fx.refH
      | _, .error st => b.fail fl st fx.ringH
      | .ok r, .ok g =>
        if ¬ r.rd then b.fail fl 0x11 fx.refH
        else if ¬ g.rd then b.fail fl 0x11 fx.ringH
        else
          let b := ((b.clampCmd fl (n1 + n2)).blur r.base (refSlots fx * frameBytes fx)).store g.base (List.replicate 64 0)
          let x : FyStream := { slot := fl.slot, fixed := fx, live := lv }
          let b := { b with ferry.streams := SMap.put b.ferry.streams k x }
          let b := b.setReg (.fyStreamStat k) 0
          ((b.setF (.fyStreamStat k) Fld.fyStreamStatState 1).setF (.fyStreamStat k) Fld.fyStreamStatCtx c.ctx.toNat).done fl

/-- A stream command of the stream's own context. -/
def Body.ownStream (b : Body) (c : Cmd) (opc : Nat) (is : Bool) (f : Body → Flight → Nat → FyStream → Body) : Body :=
  b.onSub c opc is fun b fl =>
    let k := c.f 1 7 0
    match b.stream k with
    | some x => if x.slot = fl.slot then f b fl k x else b.fail fl 0x11 k
    | none => b.fail fl 0x11 k

/-- The fields that a RECONF would change and may not, each counted (R245). -/
def fixedDiffs (x y : FyFixed) : Nat :=
  [decide (x.decode ≠ y.decode), decide (x.hevc ≠ y.hevc), decide (x.depth10 ≠ y.depth10), decide (x.max444 ≠ y.max444),
    decide (x.subframe ≠ y.subframe), decide (x.width ≠ y.width), decide (x.height ≠ y.height), decide (x.fpsNum ≠ y.fpsNum),
    decide (x.fpsDen ≠ y.fpsDen), decide (x.refH ≠ y.refH), decide (x.ringH ≠ y.ringH), decide (x.lookahead ≠ y.lookahead),
    decide (x.gop ≠ y.gop), decide (x.vbvInit ≠ y.vbvInit), decide (x.tcols ≠ y.tcols), decide (x.trows ≠ y.trows)].count true

/-- FY_STREAM, RECONF (R245): the live fields change from the next frame that a pipe takes. -/
def execFyStreamReconf (c : Cmd) (s : State) : Host.Outcome State Fault Refusal :=
  s.onBody fun b => b.ownStream c 0x58 (!c.b 1 8 && c.b 1 9) fun b fl k x =>
    let (lv, n) := fyLiveOf c x.fixed.hevc x.fixed.depth10
    if ¬ b.egressOk fl.slot lv then b.fail fl 0x11 k
    else ((b.clampCmd fl (n + fixedDiffs (fyFixedOf c).1 x.fixed)).updStream k fun x => { x with live := lv }).done fl

/-- A stream closes: its queued frames end with ABORTED_BY_HOST, then the closing command completes (R245). -/
def Body.closeStream (b : Body) (k : Nat) : Body :=
  match b.stream k with
  | none => b
  | some x =>
    let b := x.queue.foldl (fun b fl => b.fail fl 0x41) b
    let b := { b with ferry.streams := SMap.drop b.ferry.streams k }
    let b := (b.setF (.fyStreamStat k) Fld.fyStreamStatState 0).setF (.fyStreamStat k) Fld.fyStreamStatCtx 0
    match x.closing with
    | some fl => b.done fl
    | none => b

/-- A frame of a stream is in a pipe. -/
def Body.inPipe (b : Body) (k : Nat) : Bool := b.ferry.pipes.any fun p => p.busy && decide (p.stream = k)

/-- FY_STREAM, CLOSE (R245): it waits for the stream's frame in flight. -/
def execFyStreamClose (c : Cmd) (s : State) : Host.Outcome State Fault Refusal :=
  s.onBody fun b => b.ownStream c 0x58 (c.b 1 8) fun b fl k x =>
    if x.closing.isSome then b.fail fl 0x11 k
    else
      let b := (b.start fl).updStream k fun x => { x with closing := some { fl with started := true } }
      if b.inPipe k then b else b.closeStream k

/-! ### Pictures (R248) -/

/-- The picture of an FY_ENCODE: luma pitch and C_OFF after clamps, and the fields clamped. -/
def picShape (c : Cmd) (x : FyFixed) : Nat × Nat × Nat :=
  let b := if x.depth10 then 2 else 1
  let p0 := c.f 3 31 0
  let p := max (ceilDiv p0 32) (ceilDiv (x.width * b) 32) * 32
  let o0 := c.f 3 63 32
  let o := max o0 (p * x.height)
  (p, o, diff p p0 + diff o o0)

/-- The bytes of a 4:2:0 picture from its start to its end. -/
def picBytes (p o h : Nat) : Nat := o + p * (h / 2 + h % 2)

/-- FY_ENCODE and FY_DECODE join their stream's queue, to be taken in command order (R247). -/
def Body.fyQueue (b : Body) (k : Nat) (fl : Flight) : Body :=
  (b.start fl).updStream k fun x => { x with queue := x.queue ++ [{ fl with started := true }] }

/-- FY_ENCODE (R251). -/
def execFyEncode (c : Cmd) (s : State) : Host.Outcome State Fault Refusal :=
  s.onBody fun b => b.ownStream c 0x59 (!c.b 1 9) fun b fl k x =>
    let (p, o, n) := picShape c x.fixed
    if x.fixed.decode ∨ x.closing.isSome then b.fail fl 0x11 k
    else
      match b.fyEntry fl.slot (c.h 2) (32 * c.f 2 37 18) (picBytes p o x.fixed.height) false with
      | .error st => b.fail fl st (c.h 2)
      | .ok _ => (b.clampCmd fl n).fyQueue k { fl with handles := [c.h 2 / 65536] }

/-- FY_ENCODE, FLUSH (R251). -/
def execFyEncodeFlush (c : Cmd) (s : State) : Host.Outcome State Fault Refusal :=
  s.onBody fun b => b.ownStream c 0x59 (c.b 1 9) fun b fl k x =>
    if x.fixed.decode ∨ x.closing.isSome then b.fail fl 0x11 k else b.fyQueue k fl

/-- FY_DECODE (R252). -/
def execFyDecode (c : Cmd) (s : State) : Host.Outcome State Fault Refusal :=
  s.onBody fun b => b.ownStream c 0x5A (!c.b 1 8) fun b fl k x =>
    if ¬ x.fixed.decode ∨ x.closing.isSome then b.fail fl 0x11 k
    else
      match b.fyEntry fl.slot (c.h 2) (c.f 3 47 0) (c.f 4 31 0) false with
      | .error st => b.fail fl st (c.h 2)
      | .ok _ => b.fyQueue k { fl with handles := [c.h 2 / 65536] }

/-- FY_DECODE, FLUSH (R252). -/
def execFyDecodeFlush (c : Cmd) (s : State) : Host.Outcome State Fault Refusal :=
  s.onBody fun b => b.ownStream c 0x5A (c.b 1 8) fun b fl k x =>
    if ¬ x.fixed.decode ∨ x.closing.isSome then b.fail fl 0x11 k else b.fyQueue k fl

/-! ### Coding (R250-R254, R256) -/

/-- The samples of a picture as the encoder reads them: at 10 bits, bits [9:0] of each word (R248). -/
def Body.samples (b : Body) (x : FyFixed) (base p o : Nat) : List Nat :=
  let plane (a rows n : Nat) : List Nat := (List.range rows).flatMap fun y => (List.range n).map fun i =>
    if x.depth10 then b.le (a + y * p + 2 * i) 2 % 1024 else b.le (a + y * p + i) 1
  plane base x.height x.width ++ plane (base + o) (x.height / 2 + x.height % 2) (x.width + x.width % 2)

/-- What an encoder's input is, for its codec: kind, KEY, the stream's fields, the samples. -/
def fyInput (x : FyStream) (kind key : Nat) (data : List Nat) : List Nat :=
  [kind, key, x.fixed.width, x.fixed.height, x.fixed.fpsNum, x.fixed.fpsDen, x.fixed.lookahead, x.fixed.gop, x.fixed.vbvInit, x.fixed.tcols,
    x.fixed.trows, if x.fixed.hevc then 1 else 0, if x.fixed.depth10 then 1 else 0, if x.fixed.subframe then 1 else 0, x.live.rcMode,
    x.live.qual, x.live.qmin, x.live.qmax, x.live.keyint, x.live.target, x.live.most, x.live.vbv] ++ data

/-- The units of a frame that are records of their own (R254). -/
def unitCount (x : FyFixed) : Nat := if x.subframe then x.tcols * x.trows else 1

/-- One coded frame of an encoder: its records. Which held picture it codes, whether it is a key frame, its quantisers and its bytes
are the codec's (log entry 30); the first frame of a sequence and one asked for are key frames. -/
def codeFrame (x : FyStream) (inp : List Nat) (n : Nat) : List FyRec × Nat × FyStream :=
  let ask (q : List Nat) : Nat := Config.fyNum x.codec inp (n :: q)
  let i := ask [0] % max 1 x.held.length
  let h := x.held.getD i (0, false)
  let key := x.fresh || h.2 || decide (ask [1] % 2 = 1)
  let us := unitCount x.fixed
  let recs := (List.range us).map fun u =>
    { kind := 0, flags := (if u + 1 = us then 1 else 0) + (if key then 2 else 0), pts := h.1, frame := x.frame, unit := u,
      width := x.fixed.width, height := x.fixed.height, q := max x.live.qmin (min x.live.qmax (ask [2, u])),
      payload := Config.fyBytes x.codec inp [n, u] }
  let miss := if x.live.rcMode = 0 then 0 else ask [3] % 2
  (recs, miss, { x with held := x.held.eraseIdx i, fresh := false, frame := (x.frame + 1) % 2 ^ 32 })

/-- So many coded frames: their records, the frames counted VBV_MISS, and the stream after. -/
def codeFrames (inp : List Nat) : Nat → Nat → FyStream → List FyRec × Nat × FyStream
  | 0, _, x => ([], 0, x)
  | k + 1, n, x =>
    let (r, m, x) := codeFrame x inp n
    let (rs, ms, x) := codeFrames inp k (n + 1) x
    (r ++ rs, m + ms, x)

/-- Pictures an encoder or decoder may still hold (R254): its lookahead and reordering. -/
def holdMost (x : FyFixed) : Nat := if x.decode then 16 else if x.subframe then 0 else x.lookahead + 2 ^ x.gop - 1

/-- How many of the pictures held come out on an input: all on a FLUSH; else those beyond what may be held, and, for a decoder, as many
more as its reordering lets go (log entry 30). -/
def outCount (x : FyStream) (inp : List Nat) (flush : Bool) : Nat :=
  let n := x.held.length
  if flush then n
  else if x.fixed.decode then max (n - holdMost x.fixed) (Config.fyNum x.codec inp [10] % (n + 1))
  else n - holdMost x.fixed

/-- One decoded picture: its record (R248, R249). Its size, pitch, chroma and samples are the codec's; `err` marks FLAGS bit 2. -/
def outPicture (x : FyStream) (inp : List Nat) (n : Nat) (err : Bool) : FyRec × FyStream :=
  let ask (q : List Nat) : Nat := Config.fyNum x.codec inp (n :: q)
  let i := ask [0] % max 1 x.held.length
  let h := x.held.getD i (0, false)
  let w := 16 + ask [4] % (x.fixed.width - 15)
  let ht := 16 + ask [5] % (x.fixed.height - 15)
  let b := if x.fixed.depth10 then 1 + ask [6] % 2 else 1
  let p := 32 * (ceilDiv (w * b) 32 + ask [7])
  let o := p * ht + ask [8]
  let len := match ask [9] % (if x.fixed.max444 then 3 else 2) with
    | 0 => o + p * (ht / 2 + ht % 2)
    | 1 => p * ht
    | _ => 2 * o + p * ht
  ({ kind := 1, flags := 1 + (if ask [1] % 2 = 1 then 2 else 0) + (if err then 4 else 0), pts := h.1, frame := x.frame, unit := 0,
     width := w, height := ht, q := p, cOff := o, payload := padTo len (Config.fyBytes x.codec inp [n]) },
    { x with held := x.held.eraseIdx i, frame := (x.frame + 1) % 2 ^ 32 })

/-- So many decoded pictures. -/
def outPictures (inp : List Nat) (err : Bool) : Nat → Nat → FyStream → List FyRec × FyStream
  | 0, _, x => ([], x)
  | k + 1, n, x =>
    let (r, x) := outPicture x inp n err
    let (rs, x) := outPictures inp err k (n + 1) x
    (r :: rs, x)

/-- Bytes of a record with its header, in whole 32 bytes (R249). -/
def FyRec.len (r : FyRec) : Nat := 64 + ceilDiv r.payload.length 32 * 32

/-- A pipe's output buffer holds 2 MiB or more. -/
def FyPipe.full (p : FyPipe) : Bool := decide ((p.recs.map FyRec.len).sum > 2097152)

/-- Mirrors a pipe in its register (R264). -/
def Body.syncPipe (b : Body) (p : Nat) (sound : Bool) : Body :=
  let x := b.pipe p
  let r : Reg := .fyPipeStat p
  ((b.setF r Fld.fyPipeStatStream x.stream).setF r Fld.fyPipeStatBusy (if x.busy then 1 else 0)).setF r Fld.fyPipeStatSound
    (if sound then 1 else 0)

/-- A pipe is done with its frame once its records are written: its decode command ends, the frame is counted, and a stream that
waits to close does (R245, R252). -/
def Body.pipeDone (b : Body) (p : Nat) : Body :=
  let x := b.pipe p
  if ¬ x.busy ∨ x.recs ≠ [] then b
  else
    let b := b.setPipe p { busy := false, stream := x.stream }
    let b := (b.syncPipe p false).bump (.fyPipeStat p) Fld.fyPipeStatFrames 1
    let b := match x.fl with
      | some fl => if x.status = 0 then b.finish fl.uid else b.retire fl x.status 0 true
      | none => b
    match b.stream x.stream with
    | some st => if st.closing.isSome then b.closeStream x.stream else b
    | none => b

/-- A pipe takes a stream's frame with the records it makes. -/
def Body.pipeFill (b : Body) (p k : Nat) (recs : List FyRec) (fl : Option Flight) (status : Nat) : Body :=
  let x : FyPipe := { busy := true, stream := k, fl := fl, status := status, recs := recs }
  let x := { x with heldAt := if x.full then some b.ts else none }
  ((b.setPipe p x).syncPipe p false).pipeDone p

/-- A pipe takes an FY_ENCODE: the picture is read, and what the encoder codes is queued for the ring (R251). -/
def Body.encodeTake (b : Body) (p k : Nat) (x : FyStream) (fl : Flight) (ref : Entry) : Body :=
  let c := fl.cmd
  let flush := c.b 1 9
  let (pt, o, _) := picShape c x.fixed
  let (inp, b) :=
    if flush then (fyInput x 1 0 [], b)
    else
      match b.resolve fl.slot (c.h 2) with
      | none => (fyInput x 0 0 [], b)
      | some e =>
        let base := e.base + 32 * c.f 2 37 18
        let n := picBytes pt o x.fixed.height
        let b := b.tierTraffic fl.slot base n false 10
        let b := match b.badIn base n with
          | some s => (b.eccRead fl s).noteEcc fl.uid true
          | none => b
        (fyInput x 0 (if c.b 1 8 then 1 else 0) (b.samples x.fixed base pt o), b)
  let x := if flush then x else { x with held := x.held ++ [((c.w 4).toNat, c.b 1 8)] }
  let codec := Config.fyNext x.codec inp
  let (recs, miss, x') := codeFrames inp (outCount x inp flush) 0 x
  let b := (b.blur ref.base (refSlots x.fixed * frameBytes x.fixed)).updStream k fun y =>
    { x' with codec := codec, queue := y.queue.drop 1, fresh := if flush then true else x'.fresh }
  let b := (b.bump (.fyStreamStat k) Fld.fyStreamStatVbvMiss miss).finish fl.uid
  b.pipeFill p k recs none 0

/-- A pipe takes an FY_DECODE (R252, R253): the unit is decoded, or its error ends it and puts the stream in RESYNC. -/
def Body.decodeTake (b : Body) (p k : Nat) (x : FyStream) (fl : Flight) (ref : Entry) : Body :=
  let c := fl.cmd
  let flush := c.b 1 8
  let (data, b) :=
    if flush then (([] : List Nat), b)
    else
      match b.resolve fl.slot (c.h 2) with
      | none => ([], b)
      | some e =>
        let a := e.base + c.f 3 47 0
        let n := c.f 4 31 0
        let b := b.tierTraffic fl.slot a n false 10
        let (bs, ecc, b) := b.load fl a n
        (bs.map (·.toNat), b.noteEcc fl.uid ecc)
  let inp := fyInput x (if flush then 3 else 2) 0 data
  let ask (q : Nat) : Nat := Config.fyNum x.codec inp [q]
  let sync := decide (b.getF (.fyStreamStat k) Fld.fyStreamStatState = 2)
  let bad := !flush && ((sync && decide (ask 11 % 2 = 0)) || decide (ask 12 % 2 = 1))
  let b := b.blur ref.base (refSlots x.fixed * frameBytes x.fixed)
  let codec := Config.fyNext x.codec inp
  if bad then
    let (recs, x') := outPictures inp true x.held.length 0 x
    let b := b.updStream k fun y => { x' with codec := codec, queue := y.queue.drop 1 }
    let b := (b.setF (.fyStreamStat k) Fld.fyStreamStatState 2).bump (.fyStreamStat k) Fld.fyStreamStatBsErr 1
    let b := b.raise ⟨b.ts, 0x0B01, 1, 0x22, c.ctx.toNat, c.tag.toNat, fl.opc, 8, 0, [k, x.frame, ask 13 % max 1 data.length]⟩
    b.pipeFill p k recs (some fl) 0x22
  else
    let x := if flush then x else { x with held := x.held ++ [((c.w 5).toNat, false)] }
    let (recs, x') := outPictures inp false (outCount x inp flush) 0 x
    let b := b.updStream k fun y => { x' with codec := codec, queue := y.queue.drop 1 }
    let b := if sync ∧ ¬ flush then b.setF (.fyStreamStat k) Fld.fyStreamStatState 1 else b
    b.pipeFill p k recs (some fl) 0

/-- A pipe takes the oldest frame of a stream. One whose reference store or ring no longer resolves ends with HANDLE_STALE, and a
decode stream enters RESYNC (R263). -/
def Body.takeFrame (b : Body) (p k : Nat) (x : FyStream) (fl : Flight) : Body :=
  match b.resolve x.slot x.fixed.refH, b.resolve x.slot x.fixed.ringH with
  | some ref, some _ => if x.fixed.decode then b.decodeTake p k x fl ref else b.encodeTake p k x fl ref
  | r, _ =>
    let b := b.updStream k fun y => { y with queue := y.queue.drop 1 }
    let b := if x.fixed.decode then b.setF (.fyStreamStat k) Fld.fyStreamStatState 2 else b
    b.fail fl 0x12 (if r.isNone then x.fixed.refH else x.fixed.ringH)

/-! ### Ring records (R249, R250, R393) -/

/-- The 64 bytes of a record's header. -/
def recHeader (k : Nat) (r : FyRec) (ts : Nat) : List Byte :=
  leBytes 4 r.payload.length ++ leBytes 1 r.kind ++ leBytes 1 r.flags ++ leBytes 2 k ++ leBytes 8 r.pts ++ leBytes 4 r.frame ++
    leBytes 2 r.unit ++ leBytes 2 0 ++ leBytes 4 r.width ++ leBytes 4 r.height ++ leBytes 4 r.q ++ leBytes 4 r.cOff ++ leBytes 8 ts ++
    List.replicate 16 0

/-- RD as the Ferry reads it: clamped, each clamp counted (R249). -/
def Body.ringRd (b : Body) (e : Entry) (ctx : Nat) : Nat × Body :=
  let v := b.le (e.base + 8) 8
  let v1 := if v ≥ e.size - 64 then e.size - 96 else v
  let v2 := v1 / 32 * 32
  (v2, b.clamps (diff v1 v + diff v2 v1) 0xFF ctx)

/-- Writes one record at WR, and WR after it; its egress copy follows (R250, R393). -/
def Body.putRecord (b : Body) (k : Nat) (x : FyStream) (e : Entry) (wr len : Nat) (bytes : List Byte) : Body :=
  let d := e.size - 64
  let next := (wr + len) % d
  let b := b.tierTraffic x.slot (e.base + 64 + wr) len true 10
  let b := (b.store (e.base + 64 + wr) bytes).store e.base (leBytes 8 next)
  if x.live.egress then
    let q := b.qp x.live.qp
    let b := (b.rdmaOut x.live.qp (q.egVa + 64 + wr) q.egRkey bytes).rdmaOut x.live.qp q.egVa q.egRkey (leBytes 8 next)
    b.updStream k fun y => { y with egressOut := y.egressOut ++ [len] }
  else b

/-- A pipe's next record goes into the ring when it has room, after a PAD record where it would pass the end; whether it went. -/
def Body.ringPut (b : Body) (k : Nat) (x : FyStream) (e : Entry) (r : FyRec) : Bool × Body :=
  let d := e.size - 64
  let (rd, b) := b.ringRd e (b.ctxOfSlot x.slot)
  let room (wr : Nat) : Nat := (rd + 2 * d - wr % d - 1) % d
  let wr := b.le e.base 8 % d
  let (wr, b) :=
    if wr + r.len > d ∧ d - wr ≤ room wr then
      let pad : FyRec := { kind := 2, flags := 0, pts := 0, frame := 0, unit := 0, width := 0, height := 0, q := 0,
                           payload := List.replicate (d - wr - 64) 0 }
      (0, b.putRecord k x e wr (d - wr) (padTo (d - wr) (recHeader k pad b.now ++ pad.payload)))
    else (wr, b)
  if wr + r.len ≤ d ∧ r.len ≤ room wr then
    (true, b.putRecord k x e wr r.len (padTo r.len (recHeader k r b.now ++ r.payload)))
  else (false, b)

/-- RING_RECORD (R249, R250): a pipe's oldest record is written when its ring has room. The end of a hold is counted in
microseconds. -/
def execRingRecord (pipe : Fin 8) (s : State) : Host.Outcome State Fault Refusal :=
  s.onBody fun b =>
    let p := b.pipe pipe
    match p.recs, b.stream p.stream with
    | r :: rest, some x =>
      match b.resolve x.slot x.fixed.ringH with
      | none => b
      | some e =>
        match b.ringPut p.stream x e r with
        | (false, b) => b
        | (true, b) =>
          let p' := { p with recs := rest }
          let (held, b) := match p.heldAt with
            | some t =>
              if p'.full then (p.heldAt, b)
              else (none, b.bump (.fyPipeStat pipe) Fld.fyPipeStatRingHold ((b.now - t.toNat) / 1000))
            | none => (none, b)
          (b.setPipe pipe { p' with heldAt := held }).pipeDone pipe
    | _, _ => b

/-- EGRESS_ACK (R250): the oldest egress record whose RDMA write is acknowledged; the Ferry advances RD past it. -/
def execEgressAck (stream : Fin 256) (s : State) : Host.Outcome State Fault Refusal :=
  s.onBody fun b =>
    match b.stream stream with
    | none => b
    | some x =>
      match x.egressOut, b.resolve x.slot x.fixed.ringH with
      | len :: rest, some e =>
        let q := b.qp x.live.qp
        let open_ := (q.unacked.filter fun m =>
          let va := m.nums.getD 2 0
          decide (q.egVa + 64 ≤ va ∧ va < q.egVa + e.size)).length
        if open_ < x.egressOut.length then
          let d := e.size - 64
          let rd := b.le (e.base + 8) 8
          (b.store (e.base + 8) (leBytes 8 ((rd + len) % d))).updStream stream fun y => { y with egressOut := rest }
        else b
      | _, _ => b

end Sys2Proof.Machine
end

