-- ==== Sys2Proof/Machine/Sound.lean ====
section
/-!
DEFINITION. Sounding (R257-R261), and what a free Ferry pipe takes (R247).
-/

namespace Sys2Proof.Machine

/-! ### Fields (R257) -/

/-- The parameters of a FY_SOUND after clamps. -/
structure SoundArgs where
  c0 : Nat
  nc : Nat
  bs : Nat
  prio : Nat
  fdelta : Nat
  qscale : Nat
  thresh : Nat
  maxdiff : Nat
  srx : Nat
  sry : Nat
  pipes : Nat
  ph : Nat
  pw : Nat
  tm : Nat
  tn : Nat

/-- The parameters for a CUR tensor, and the fields clamped (R257). -/
def soundArgs (c : Cmd) (e : Entry) : SoundArgs × Nat :=
  let ch := planarC e
  let c0 := min (ch - 1) (c.f 1 37 22)
  let nc := min (ch - c0) (c.f 1 21 6 + 1)
  let bs := min 2 (c.f 1 5 4)
  let sx := min 256 (c.f 4 16 8)
  let sy := min 128 (c.f 4 24 17)
  let pp := if c.f 4 28 25 = 0 then 0xF else c.f 4 28 25
  let tm := max 1 (c.f 7 31 0)
  let tn := max 1 (c.f 8 31 0)
  ({ c0 := c0, nc := nc, bs := 8 * 2 ^ bs, prio := c.f 1 3 2, fdelta := c.f 2 2 0, qscale := c.f 3 31 0, thresh := c.f 3 63 32,
     maxdiff := c.f 4 7 0, srx := sx, sry := sy, pipes := pp, ph := c.f 7 37 35 + 1, pw := c.f 7 34 32 + 1, tm := tm, tn := tn },
    diff c0 (c.f 1 37 22) + diff nc (c.f 1 21 6 + 1) + diff bs (c.f 1 5 4) + diff sx (c.f 4 16 8) + diff sy (c.f 4 24 17) +
      diff pp (c.f 4 28 25) + diff tm (c.f 7 31 0) + diff tn (c.f 8 31 0))

/-- Rows and columns of blocks of a frame (R258). -/
def soundGrid (e : Entry) (a : SoundArgs) : Nat × Nat := (ceilDiv e.rows a.bs, ceilDiv e.cols a.bs)

/-- Tokens of the tensor, of the grid of R260: rows and columns a frame, and all. -/
def tokenGrid (e : Entry) (a : SoundArgs) : Nat × Nat × Nat :=
  let th := ceilDiv e.rows a.ph
  let tw := ceilDiv e.cols a.pw
  (th, tw, planarF e * th * tw)

/-- The bytes of the channels used of a PLANAR tensor: from its first to its last. -/
def planarSpan (e : Entry) (a : SoundArgs) : Nat × Nat :=
  (a.c0 * planePitch e, (a.nc - 1) * planePitch e + (planarF e * e.rows - 1) * e.pitch + elemByte e.fmt e.cols)

/-! ### Start -/

/-- What a FY_SOUND resolves and checks at its start (R242, R257, R260): its tensors, parameters and clamps. -/
def Body.soundStart (b : Body) (fl : Flight) : Except (Nat × Nat) (Entry × Entry × SoundArgs × Nat) := do
  let c := fl.cmd
  let get (h : Nat) : Except (Nat × Nat) Entry :=
    match b.resolve fl.slot h with
    | some e => .ok e
    | none => .error (0x12, h)
  let ok (x : Bool) (h : Nat) : Except (Nat × Nat) Unit := if x then .ok () else .error (0x11, h)
  let cur ← get (c.h 1)
  let prev ← get (c.h 2)
  ok (decide (cur.layout = 3 ∧ 1 ≤ cur.place ∧ cur.place ≤ 3)) (c.h 1)
  ok (decide (prev.layout = 3 ∧ 1 ≤ prev.place ∧ prev.place ≤ 3 ∧ planarC prev = planarC cur ∧ planarF prev = planarF cur ∧
    prev.rows = cur.rows ∧ prev.cols = cur.cols)) (c.h 2)
  let (a, n) := soundArgs c cur
  ok (b.accessOk cur (planarSpan cur a).1 (planarSpan cur a).2 false) (c.h 1)
  ok (b.accessOk prev (planarSpan prev a).1 (planarSpan prev a).2 false) (c.h 2)
  let (br, bc) := soundGrid cur a
  let blocks := planarF cur * br * bc
  let out (h n : Nat) : Except (Nat × Nat) Unit :=
    match b.fyEntry fl.slot h 0 n true with
    | .ok _ => .ok ()
    | .error st => .error (st, h)
  out (c.h 5) (ceilDiv blocks 8)
  if c.h 6 = 0 then Except.ok () else out (c.h 6) (8 * blocks)
  if c.h 7 = 0 then Except.ok () else out (c.h 7) (ceilDiv (ceilDiv (tokenGrid cur a).2.2 a.tm * a.tn) 8)
  .ok (cur, prev, a, n)

/-- The blocks that the chunks done before a pre-emption found changed, as the map holds them (R258). -/
def Body.soundDone (b : Body) (fl : Flight) (cur : Entry) (a : SoundArgs) (n : Nat) : List Nat :=
  match b.resolve fl.slot (fl.cmd.h 5) with
  | none => []
  | some e => (List.range (n * ((soundGrid cur a).1 * (soundGrid cur a).2))).filter fun i => b.mapBit e.base i

/-- The fields of a FY_SOUND that are clamped; those that CUR's channels bound are not where it does not resolve (R257). -/
def Body.soundClamps (b : Body) (fl : Flight) : Nat :=
  match b.resolve fl.slot (fl.cmd.h 1) with
  | some e => (soundArgs fl.cmd e).2
  | none => (soundArgs fl.cmd { layout := 3, param := 65535 }).2

/-- FY_SOUND (R257): its chunks, one for each frame of CUR, wait for pipes. A pre-empted one goes on with the chunks left (R263). -/
def execFySound (c : Cmd) (s : State) : Host.Outcome State Fault Refusal :=
  s.onBody fun b => b.onCmd c 0x5B fun b fl =>
    match b.soundStart fl with
    | .error (st, h) => b.badStart fl (b.soundClamps fl) st h
    | .ok (cur, prev, a, n) =>
      let fl := { fl with handles := ([c.h 1, c.h 2, c.h 5, c.h 6, c.h 7].filter (· ≠ 0)).map (· / 65536), started := true }
      let k := fl.progress.getD 1 0
      let x : Sound := { fl := fl, cur := cur, prev := prev, left := (List.range (planarF cur)).drop k, changed := b.soundDone fl cur a k }
      let b := (if fl.resumed then b else b.clampCmd fl n).start fl
      { b with ferry.sounds := b.ferry.sounds ++ [x] }

/-! ### Blocks (R258, R259) -/

/-- A quantised sample, none for a NaN (R258). -/
def quantSample (x qscale : Nat) : Option Nat :=
  if (ofF32 x).isNan then none
  else
    match ofF32 (f32Mul x qscale) with
    | .nan => some (Config.soundOpen x qscale % 256)
    | .inf s => some (if s then 0 else 255)
    | .fin s m e =>
      let r : Int := signed s (roundAt 0 false s m e 0)
      some (max 0 (min 255 (r + 128))).toNat

/-- A sample of a channel of a tensor at (frame, y, x). -/
def Body.soundAt (b : Body) (e : Entry) (a : SoundArgs) (ch f y x : Nat) : Option Nat :=
  quantSample (b.elemF32 ⟨e, 3, 0, 0, 0, none⟩ (a.c0 + ch) ((f * e.rows + y) * e.cols + x)) a.qscale

/-- The samples (channel, y, x) of block (by, bx). -/
def blockSamples (e : Entry) (a : SoundArgs) (by_ bx : Nat) : List (Nat × Nat × Nat) :=
  (List.range a.nc).flatMap fun ch =>
    (List.range (min a.bs (e.rows - by_ * a.bs))).flatMap fun y => (List.range (min a.bs (e.cols - bx * a.bs))).map fun x =>
      (ch, by_ * a.bs + y, bx * a.bs + x)

/-- |p - q|. -/
def absDiff (p q : Nat) : Nat := if p ≥ q then p - q else q - p

/-- A coordinate moved by an offset and held in its plane (R259). -/
def moved (y : Nat) (d : Int) (n : Nat) : Nat := (max 0 (min ((n : Int) - 1) ((y : Int) + d))).toNat

/-- The differences of a block at an offset. -/
def Body.blockDiffs (b : Body) (cur prev : Entry) (a : SoundArgs) (f : Nat) (ss : List (Nat × Nat × Nat)) (dx dy : Int) : List Nat :=
  ss.map fun p =>
    absDiff ((b.soundAt cur a p.1 f p.2.1 p.2.2).getD 0)
      ((b.soundAt prev a p.1 (f - a.fdelta) (moved p.2.1 dy cur.rows) (moved p.2.2 dx cur.cols)).getD 0)

/-- A block has no match to seek: its frame comes before FDELTA, or a tensor holds a NaN in it. -/
def Body.blockBlind (b : Body) (cur prev : Entry) (a : SoundArgs) (f : Nat) (ss : List (Nat × Nat × Nat)) : Bool :=
  decide (f < a.fdelta) ||
    ss.any fun p => (b.soundAt cur a p.1 f p.2.1 p.2.2).isNone || (b.soundAt prev a p.1 (f - a.fdelta) p.2.1 p.2.2).isNone

/-- The best candidate: the least SAD, |dx| + |dy|, dy, dx (R259); answers dx, dy, SAD. -/
def Body.bestMatch (b : Body) (cur prev : Entry) (a : SoundArgs) (f : Nat) (ss : List (Nat × Nat × Nat)) : Int × Int × Nat :=
  let cands : List (Int × Int) := (List.range (2 * a.sry + 1)).flatMap fun j => (List.range (2 * a.srx + 1)).map fun i =>
    ((i : Int) - a.srx, (j : Int) - a.sry)
  let sad (d : Int × Int) : Nat := (b.blockDiffs cur prev a f ss d.1 d.2).sum
  cands.foldl (fun (m : Int × Int × Nat) d =>
    let v := sad d
    let less : Bool := decide (v < m.2.2) || (decide (v = m.2.2) &&
      (decide (d.1.natAbs + d.2.natAbs < m.1.natAbs + m.2.1.natAbs) || (decide (d.1.natAbs + d.2.natAbs = m.1.natAbs + m.2.1.natAbs) &&
        (decide (d.2 < m.2.1) || (decide (d.2 = m.2.1) && decide (d.1 < m.1))))))
    if less then (d.1, d.2, v) else m) (0, 0, sad (0, 0))

/-- A chunk: one frame's map bits and match records (R258, R259, R261). -/
def Body.soundChunk (b : Body) (x : Sound) (f : Nat) : Sound × Body :=
  let c := x.fl.cmd
  let (a, _) := soundArgs c x.cur
  let (br, bc) := soundGrid x.cur a
  let n := x.cur.rows * x.cur.pitch
  let b := (List.range a.nc).foldl (fun b ch =>
    let r (b : Body) (e : Entry) (f : Nat) : Body :=
      let at_ := e.base + (a.c0 + ch) * planePitch e + f * e.rows * e.pitch
      let b := b.tierTraffic x.fl.slot at_ n false 10
      match b.badIn at_ n with
      | some s => (b.eccRead x.fl s).noteEcc x.fl.uid true
      | none => b
    let b := r b x.cur f
    if f < a.fdelta then b else r b x.prev (f - a.fdelta)) b
  let old := b
  let at_ (h : Nat) : Nat := match b.resolve x.fl.slot h with
    | some e => e.base
    | none => 0
  let mapAt := at_ (c.h 5)
  let recAt := at_ (c.h 6)
  let bs := (List.range br).flatMap fun y => (List.range bc).map fun z => (y, z)
  let (ch, b) := bs.foldl (fun (p : List Nat × Body) k =>
    let ss := blockSamples x.cur a k.1 k.2
    let i := (f * br + k.1) * bc + k.2
    let blind := old.blockBlind x.cur x.prev a f ss
    let ds := old.blockDiffs x.cur x.prev a f ss 0 0
    let same := !blind && decide (ds.sum ≤ a.thresh ∧ ds.foldl max 0 ≤ a.maxdiff)
    let b := p.2.storeMapBit mapAt i (!same)
    let b := if c.h 6 = 0 then b
      else
        let (dx, dy, sad) := if blind then (0, 0, 2 ^ 32 - 1) else old.bestMatch x.cur x.prev a f ss
        b.store (recAt + 8 * i) (leBytes 2 (ofSInt 16 dx) ++ leBytes 2 (ofSInt 16 dy) ++ leBytes 4 (min sad (2 ^ 32 - 1)))
    (if same then p.1 else p.1 ++ [i], b)) ([], b)
  let b := b.markMirrors (mapAt + f * br * bc / 8) (ceilDiv (br * bc) 8 + 1)
  let b := b.tierTraffic x.fl.slot (mapAt + f * br * bc / 8) (ceilDiv (br * bc) 8) true 10
  let b := if c.h 6 = 0 then b else b.tierTraffic x.fl.slot (recAt + 8 * f * br * bc) (8 * br * bc) true 10
  ({ x with left := x.left.filter (· ≠ f), changed := x.changed ++ ch }, b)

/-! ### The skip map (R260) -/

/-- The blocks that hold a sample of a token. -/
def tokenBlocks (e : Entry) (a : SoundArgs) (t : Nat) : List Nat :=
  let (th, tw, _) := tokenGrid e a
  let (br, bc) := soundGrid e a
  let f := t / (th * tw)
  let ty := t / tw % th
  let tx := t % tw
  let rows := (List.range br).filter fun y => decide (y * a.bs < (ty + 1) * a.ph ∧ ty * a.ph < (y + 1) * a.bs)
  let cols := (List.range bc).filter fun z => decide (z * a.bs < (tx + 1) * a.pw ∧ tx * a.pw < (z + 1) * a.bs)
  rows.flatMap fun y => cols.map fun z => (f * br + y) * bc + z

/-- Writes the skip map once every chunk is done. -/
def Body.soundSkip (b : Body) (x : Sound) : Body :=
  let c := x.fl.cmd
  match b.resolve x.fl.slot (c.h 7) with
  | none => b
  | some e =>
    let (a, _) := soundArgs c x.cur
    let ntok := (tokenGrid x.cur a).2.2
    let rows := ceilDiv ntok a.tm
    let same (i : Nat) : Bool := (List.range (min a.tm (ntok - i * a.tm))).all fun t =>
      (tokenBlocks x.cur a (i * a.tm + t)).all fun k => decide (k ∉ x.changed)
    let b := (List.range rows).foldl (fun b i =>
      let v := same i
      (List.range a.tn).foldl (fun b j => b.storeMapBit e.base (i * a.tn + j) v) b) b
    (b.tierTraffic x.fl.slot e.base (ceilDiv (rows * a.tn) 8) true 10).markMirrors e.base (ceilDiv (rows * a.tn) 8)

/-- A pipe runs a chunk of a FY_SOUND; the command completes with its last chunk, its skip map written. -/
def Body.soundTake (b : Body) (p : Nat) (x : Sound) (f : Nat) : Body :=
  let (x, b) := b.soundChunk x f
  let b := b.bump (.fyPipeStat p) Fld.fyPipeStatFrames 1
  if x.left = [] then
    let b := if x.fl.cmd.h 7 = 0 then b else b.soundSkip x
    ({ b with ferry.sounds := b.ferry.sounds.filter fun y => decide (y.fl.uid ≠ x.fl.uid) }).finish x.fl.uid
  else { b with ferry.sounds := b.ferry.sounds.map fun y => if y.fl.uid = x.fl.uid then x else y }

/-! ### PIPE_TAKE_FRAME (R247) -/

/-- What a pipe may take: PRIO, stream number (256 for a chunk), and the age of its command. -/
def Body.pipeWork (b : Body) (p : Nat) : List (Nat × Nat × Nat) :=
  (b.ferry.streams.filterMap fun s =>
    match s.2.queue with
    | fl :: _ =>
      if ¬ b.saving fl.slot ∧ s.2.fixed.decode = decide (p ≥ 4) ∧ s.2.closing.isNone ∧ ¬ b.inPipe s.1 then some (s.2.live.prio, s.1, fl.uid) else none
    | [] => none) ++
  (if p ≥ 4 then []
    else (b.ferry.sounds.filter fun x => decide (x.left ≠ []) && !b.saving x.fl.slot && (soundArgs x.fl.cmd x.cur).1.pipes.testBit p).map fun x =>
      ((soundArgs x.fl.cmd x.cur).1.prio, 256, x.fl.uid))

/-- The first in order: the highest PRIO, then the oldest, then the lower stream (R247). -/
def bestWork (ws : List (Nat × Nat × Nat)) : Option (Nat × Nat × Nat) :=
  ws.foldl (fun (m : Option (Nat × Nat × Nat)) w =>
    match m with
    | none => some w
    | some v =>
      if w.1 > v.1 ∨ (w.1 = v.1 ∧ (w.2.2 < v.2.2 ∨ (w.2.2 = v.2.2 ∧ w.2.1 < v.2.1))) then some w else m) none

/-- PIPE_TAKE_FRAME (R247): a free pipe takes the first frame or chunk in order. -/
def execPipeTakeFrame (pipe : Fin 8) (s : State) : Host.Outcome State Fault Refusal :=
  s.onBody fun b =>
    if (b.pipe pipe).busy then b
    else
      match bestWork (b.pipeWork pipe) with
      | none => b
      | some w =>
        if w.2.1 = 256 then
          match b.ferry.sounds.find? fun x => decide (x.fl.uid = w.2.2) with
          | some x => b.soundTake pipe x (x.left.headD 0)
          | none => b
        else
          match b.stream w.2.1 with
          | some x =>
            match x.queue with
            | fl :: _ => b.takeFrame pipe w.2.1 x fl
            | [] => b
          | none => b

end Sys2Proof.Machine
end

