-- ==== Sys2Proof/Machine/Tier.lean ====
section
/-!
DEFINITION. The external memory tiers (R315-R346): Sluices, memory-side operations, map-out, trimming, refresh and calibration,
scrubbing, and the wear of Tier F.
-/

namespace Sys2Proof.Machine

/-! ### Sluices (R325-R328) -/

/-- The bound of a tier: the active channels' grantable rate in units of 1.024 GB/s (R328). -/
def Body.tierBound (b : Body) (t : Nat) : Nat :=
  match t with
  | 0 => 40000 * b.getF .mtCfg Fld.mtCfgHChannels / 640
  | 1 => 1562 * b.getF .mtCfg Fld.mtCfgLChannels / 96
  | _ => 225

/-- The most RATE a defined partition's Sluice, or Sluice 10, can take, where `rate` gives the other Sluices' (R328). -/
def Body.slMost (b : Body) (i t : Nat) (rate : Nat → Nat) : Nat :=
  if i ≥ 10 then b.tierBound t / 64
  else if t = 0 ∧ b.getF .mtCfg Fld.mtCfgHMode ≠ 0 then
    125 * ((quaysOf b.framing i).map b.quayChannels).sum / 2
  else
    b.tierBound t -
      (((List.range 10).filter fun j => decide (j ≠ i) && partDefined b.framing j).map rate).sum

/-- A RATE after the clamps of R327 and R328. -/
def Body.slFit (b : Body) (i t v : Nat) (rate : Nat → Nat) : Nat := max 1 (min v (b.slMost i t rate))

/-- Lowers a level, point by point from the first, to a cap (log entry 42). -/
def trimShares : List Int → Int → List Int
  | [], _ => []
  | x :: r, excess => let d := min (max x 0) (max excess 0); (x - d) :: trimShares r (excess - d)

/-- Sets a Sluice's RATE and BURST; its level is clamped to the new cap. -/
def Body.slPut (b : Body) (i t rate burst : Nat) : Body :=
  let b := (b.setF (.slCfg i t) Fld.slCfgRate rate).setF (.slCfg i t) Fld.slCfgBurst burst
  let s := b.sluice i t
  b.setSluice i t { s with shares := trimShares s.shares (s.shares.sum - (burst * 1024 : Nat)) }

/-- SL_SET (R327, R328). -/
def execSlSet (c : Cmd) (s : State) : Host.Outcome State Fault Refusal :=
  s.onBody fun b => b.onCmd c 0x71 fun b fl =>
    let i := min 10 (c.f 1 3 0)
    let t := min 2 (c.f 1 5 4)
    let rate := b.slFit i t (max 1 (c.f 2 15 0)) fun j => b.getF (.slCfg j t) Fld.slCfgRate
    let burst := max 1 (c.f 2 31 16)
    let b := b.clampCmd fl ([decide (i ≠ c.f 1 3 0), decide (t ≠ c.f 1 5 4), decide (rate ≠ c.f 2 15 0),
      decide (burst ≠ c.f 2 31 16)].count true)
    if i < 10 ∧ ¬ partDefined b.framing i then b.fail fl 0x11 i else (b.slPut i t rate burst).done fl

/-- Divides a refill of `n` sectors in proportion to what waits at each point, or equally; what division leaves over goes one
sector each to the first of the points that take a part (R326; log entry 42). -/
def refillShares (points waiting : List Nat) (n : Nat) : List Int :=
  let tot := waiting.sum
  if tot = 0 then shareOut points n
  else
    let base := waiting.map fun w => n * w / tot
    let left := n - base.sum
    let ks := (List.range 12).filter fun p => decide (waiting.getD p 0 ≠ 0)
    (List.range 12).map fun p =>
      ((base.getD p 0 + (match ks.findIdx? (· = p) with | some k => if k < left then 1 else 0 | none => 0) : Nat) : Int)

/-- The sectors admitted at a point, in requests of at most 512, while its bucket is above 0 (R325, R326). -/
def admitted (share : Int) (waiting : Nat) : Nat :=
  if share ≤ 0 then 0 else min waiting ((share.toNat + 511) / 512 * 512)

/-- SLUICE_REFILL (R325, R326): the refill of the past microsecond, held to the cap of the level, is divided and what waits is
admitted. WAIT counts a microsecond in which a request waited. -/
def execSluiceRefill (i : Fin 11) (t : Fin 3) (s : State) : Host.Outcome State Fault Refusal :=
  s.onBody fun b =>
    let sl := b.sluice i t
    let room := (b.getF (.slCfg i t) Fld.slCfgBurst * 1024 : Nat) - sl.shares.sum
    let n := min (b.getF (.slCfg i t) Fld.slCfgRate * 32) room.toNat
    let add := refillShares (sluicePoints b.framing i) sl.waiting n
    let shares := (List.range 12).map fun p => sl.shares.getD p 0 + add.getD p 0
    let adm := (List.range 12).map fun p => admitted (shares.getD p 0) (sl.waiting.getD p 0)
    let sl' : Sluice :=
      { shares := (List.range 12).map fun p => shares.getD p 0 - (adm.getD p 0 : Int),
        waiting := (List.range 12).map fun p => sl.waiting.getD p 0 - adm.getD p 0 }
    let b := (b.setSluice i t sl').bump (.slStat i t) Fld.slStatAdmitted adm.sum
    if sl.waiting.sum = 0 then b else b.bump (.slStat i t) Fld.slStatWait 1

/-! ### Memory-side operations (R332, R334) -/

/-- The elements of a row combined: dst OP src, element by element. -/
def reduceRow (fmt op eb : Nat) : Nat → List Byte → List Byte → List Byte
  | 0, _, _ => []
  | k + 1, d, s =>
    leBytes eb (reduceElem fmt op (ofLe (d.take eb)) (ofLe (s.take eb))) ++ reduceRow fmt op eb k (d.drop eb) (s.drop eb)

/-- Stores a memory-side result: an uncorrectable sector is left as it is (R334). -/
def Body.storeSide (b : Body) (a : Nat) (d : List Byte) : Body :=
  if (b.badIn a d.length).isNone then b.store a d
  else
    (List.range (sectors a d.length)).foldl (fun c i =>
      let x := a / 32 + i
      let lo := max a (x * 32)
      let hi := min (a + d.length) (x * 32 + 32)
      if x ∈ b.tiers.badSectors then c else c.store lo ((d.drop (lo - a)).take (hi - lo))) b

/-- MT_REDUCE (R332): the destination lies in Tier H or Tier L with RD and WR. Bytes that overlap the source, and float sums that
two rows of the command make in no fixed order, are free values. A remote source goes over its Line (log entry 26). -/
def execMtReduce (c : Cmd) (s : State) : Host.Outcome State Fault Refusal :=
  s.onBody fun b => b.onCmd c 0x70 fun b fl =>
    let f0 := c.f 7 3 0
    let fmt := if f0 ∈ [8, 10, 12, 13] then f0 else 10
    let op := min 2 (c.f 7 5 4)
    let eb := elemBits fmt / 8
    let (k0, n) := blockOf c
    let k : Block :=
      { src := k0.src / eb * eb, dst := k0.dst / eb * eb, rowBytes := max eb (k0.rowBytes / eb * eb), rows := k0.rows,
        srcPitch := k0.srcPitch / eb * eb, dstPitch := k0.dstPitch / eb * eb }
    let b := b.clampCmd fl (n + [decide (fmt ≠ f0), decide (op ≠ c.f 7 5 4), decide (k.src ≠ k0.src), decide (k.dst ≠ k0.dst),
      decide (k.rowBytes ≠ k0.rowBytes), decide (k.srcPitch ≠ k0.srcPitch), decide (k.dstPitch ≠ k0.dstPitch)].count true)
    match b.dmaArgs fl (c.h 1) (c.h 3) [k] with
    | .error (st, h) => b.fail fl st h
    | .ok (se, de) =>
      if de.place < 2 ∨ 3 < de.place ∨ ¬ de.rd then b.fail fl 0x11 (c.h 3)
      else if se.place = 5 then b.remoteDma fl se false de [k] none
      else
        let old := b
        let sa0 := se.base + k.src
        let da0 := de.base + k.dst
        let sum := decide (op = 0 ∧ fmt < 12)
        let clean := !spansMeet sa0 ((k.rows - 1) * k.srcPitch + k.rowBytes) da0 ((k.rows - 1) * k.dstPitch + k.rowBytes) &&
          (decide (k.dstPitch ≥ k.rowBytes ∨ k.rows = 1) || !sum)
        let (ecc, b) := (List.range k.rows).foldl (fun (p : Bool × Body) r =>
          let sa := sa0 + r * k.srcPitch
          let da := da0 + r * k.dstPitch
          let b := (p.2.tierTraffic fl.slot sa k.rowBytes false (pointOf da)).tierTraffic fl.slot da k.rowBytes false (pointOf da)
          let b := b.tierTraffic fl.slot da k.rowBytes true (pointOf da)
          let (_, e1, b) := b.load fl sa k.rowBytes
          let (d, e2, b) := b.load fl da k.rowBytes
          let v := reduceRow fmt op eb (k.rowBytes / eb) d (old.bytes sa k.rowBytes)
          let (v, b) :=
            if clean then (v, b)
            else
              (List.range v.length).foldl (fun (q : List Byte × Body) i =>
                if inRows (da + i) sa0 k.rowBytes k.rows k.srcPitch ||
                    (sum && decide (rowCover (da + i) da0 k.rowBytes k.rows k.dstPitch > 1)) then
                  let (w, b) := q.2.free
                  (q.1 ++ [w.setWidth 8], b)
                else (q.1 ++ [v.getD i 0], q.2)) ([], b)
          (p.1 || e1 || e2, b.storeSide da v)) (false, b)
        b.doneEcc fl ecc

/-! ### Map-out and trimming (R336, R339) -/

/-- The channels of a stack that are in the active set and not fused out. -/
def Body.liveChannels (b : Body) (s : Nat) : List Nat :=
  (List.range 32).filter fun c => !(b.reg (.mtHbmMapout s)).bit c && !(b.reg (.mtHbmMapout s)).bit (32 + c)

/-- MT_MAPOUT on a body, with the channel whose fuse it blows, if any (R336). -/
def Body.mapout (b : Body) (c : Cmd) : Body × Option Nat :=
  match b.accept c 0x72 with
  | .stop b => (b, none)
  | .run b fl =>
    let h := min 639 (c.f 1 9 0)
    let b := b.clampCmd fl (if h ≠ c.f 1 9 0 then 1 else 0)
    let r : Reg := .mtHbmMapout (h / 32)
    if (b.reg r).bit (h % 32) then (b.done fl, none)
    else if ((b.liveChannels (h / 32)).filter fun x => decide (x ≠ h % 32)).length < 16 then (b.fail fl 0x11 h, none)
    else
      let f := b.getF r Fld.mtHbmMapoutFused ||| 2 ^ (h % 32)
      ((b.setF r Fld.mtHbmMapoutFused f).done fl, some h)

/-- MT_MAPOUT (R336): the fuse is permanent and takes effect at the next MOD or POR. -/
def execMtMapout (c : Cmd) (s : State) : Host.Outcome State Fault Refusal :=
  let (b, f) := s.body.mapout c
  .next { s with
    body := b,
    fuse := match f with
      | some h => { s.fuse with mapout := SMap.upd s.fuse.mapout 0 (h / 32) fun v => v ||| 2 ^ (h % 32) }
      | none => s.fuse }

/-- Ranges of undefined bytes without the bytes of one range. -/
def cutHaze (l : List (Nat × Nat × Nat)) (lo hi : Nat) : List (Nat × Nat × Nat) :=
  l.flatMap fun h =>
    if h.1 + h.2.1 ≤ lo ∨ hi ≤ h.1 then [h]
    else [(h.1, lo - h.1, h.2.2), (hi, h.1 + h.2.1 - hi, h.2.2)].filter fun x => decide (x.2.1 ≠ 0)

/-- Unmaps the whole units of a range of Tier F, which then read as +0 (R337, R339). -/
def Body.trim (b : Body) (lo hi : Nat) : Body :=
  if hi ≤ lo then b
  else
    let u := (lo - tierFBase) / 16384
    let v := (hi - tierFBase) / 16384
    { b with
      mem := SMap.clearRange b.mem lo hi,
      haze := cutHaze b.haze lo hi,
      tiers.mapped := SMap.clearRange b.tiers.mapped u v,
      tiers.badSectors := b.tiers.badSectors.filter fun x => !(decide (lo ≤ x * 32) && decide (x * 32 < hi)) }

/-- MT_TRIM (R339). -/
def execMtTrim (c : Cmd) (s : State) : Host.Outcome State Fault Refusal :=
  s.onBody fun b => b.onCmd c 0x73 fun b fl =>
    match b.access fl.slot (c.h 1) (c.f 2 47 0) (c.f 3 47 0) true with
    | .error st => b.fail fl st (c.h 1) (c.f 2 47 0)
    | .ok e =>
      if e.place ≠ 4 then b.fail fl 0x11 (c.h 1) (c.f 2 47 0)
      else
        let a := e.base + c.f 2 47 0
        (b.trim (ceilDiv a 16384 * 16384) ((a + c.f 3 47 0) / 16384 * 16384)).done fl

/-! ### Refresh, calibration and read-level tracking (R329) -/

/-- REFRESH (R329): it takes channel time and is charged to no Sluice; it changes nothing a command can see. -/
def execRefresh (_tier : Fin 2) (_channel : Nat) (s : State) : Host.Outcome State Fault Refusal := s.onBody id

/-- CALIBRATION (R329): as REFRESH. -/
def execCalibration (_tier : Fin 2) (_channel : Nat) (s : State) : Host.Outcome State Fault Refusal := s.onBody id

/-- READ_LEVEL_TRACKING (R329): between commands, taking 200 µs of the LUN. -/
def execReadLevelTracking (_lun : Nat) (s : State) : Host.Outcome State Fault Refusal := s.onBody id

/-! ### Scrubbing (R331, R335) -/

/-- The sectors of a scrub target: Tier H, Tier L, Sheds. -/
def Body.scrubTotal (b : Body) (t : Nat) : Nat :=
  match t with
  | 0 => b.getF .mtCfg Fld.mtCfgHChannels * 0x4000000
  | 1 => b.getF .mtCfg Fld.mtCfgLChannels * 0x40000000
  | _ => 180 * 0x800000

/-- The harbour address of the n-th sector of a scrub target. -/
def Body.scrubAddr (b : Body) (t n : Nat) : Nat :=
  match t with
  | 0 =>
    if b.getF .mtCfg Fld.mtCfgHMode = 0 then n * 32
    else
      ((List.range 10).foldl (fun (p : Nat × Option Nat) q =>
        let k := b.quayChannels q * 0x4000000
        match p.2 with
        | some _ => p
        | none => if p.1 < k then (p.1, some (q * 0x2000000000 + p.1 * 32)) else (p.1 - k, none)) (n, none)).2.getD 0
  | 1 => tierLBase + n * 32
  | _ => shedAddr (n / (18 * 0x800000)) (n % (18 * 0x800000) * 32)

/-- The period of a scrub pass in ns (R331). -/
def scrubPeriod (t : Nat) : Nat := match t with | 2 => 3600000000000 | 3 => 7 * day | _ => day

/-- A scrub pass moves on: PASSES at its end; LAG, the minutes it lies behind its pace. -/
def Body.scrubNext (b : Body) (t total : Nat) : Body :=
  let n := b.tiers.scrubPos.getD t 0 + 1
  if n ≥ total then
    (({ b with
        tiers.scrubPos := b.tiers.scrubPos.set t 0,
        tiers.scrubStart := b.tiers.scrubStart.set t b.ts }).bump (.mtScrubStat t) Fld.mtScrubStatPasses 1).setF
      (.mtScrubStat t) Fld.mtScrubStatLag 0
  else
    let gone := (b.ts - b.tiers.scrubStart.getD t 0).toNat
    let lag := (gone - scrubPeriod t * n / total) / 60000000000
    ({ b with tiers.scrubPos := b.tiers.scrubPos.set t n }).setF (.mtScrubStat t) Fld.mtScrubStatLag (min 65535 lag)

/-- An uncorrectable sector met by the scrubber: a record, and the error counted; no context is aborted (R331). -/
def Body.scrubBad (b : Body) (a : Nat) : Body :=
  let (row, b) := b.free
  let (k, u) := b.controllerOf a
  let b := if a / 32 ∈ b.tiers.badSectors then b else { b with tiers.badSectors := b.tiers.badSectors ++ [a / 32] }
  (b.err 0x0502 0 k u [a, tierCode a * 65536 + b.channelOf a, row.toNat]).noteUncorr a

/-- SCRUB_READ (R331): the next sector of the target; a correctable error is corrected and written back. A segment without power
has nothing to read. -/
def execScrubRead (target : Fin 3) (finding : Finding) (s : State) : Host.Outcome State Fault Refusal :=
  s.onBody fun b =>
    let total := b.scrubTotal target
    if total = 0 then b
    else
      let a := b.scrubAddr target (b.tiers.scrubPos.getD target 0)
      let b :=
        if ¬ b.addrOk a then b
        else
          match finding with
          | .good => b
          | .correctable => b.noteCorr a
          | .heavy => b.noteCorr a
          | .uncorrectable => b.scrubBad a
      b.scrubNext target total

/-- Relocates a unit of Tier F: its bytes go to fresh pages (R331, R340). -/
def Body.relocate (b : Body) (u : Nat) : Body :=
  ((b.updFlash (u % 64) FlashChan.take).notePrograms 0 16384)

/-- PATROL_READ (R331): reads a mapped unit; a page whose corrected bits exceed half the LDPC capacity is relocated. Of a unit with
an uncorrectable error, one 4 KiB codeword is lost; which is a free value. -/
def execPatrolRead (unit : Nat) (finding : Finding) (s : State) : Host.Outcome State Fault Refusal :=
  s.onBody fun b =>
    if SMap.get b.tiers.mapped 0 unit = 0 then b
    else
      let a := tierFBase + unit * 16384
      let b := b.readPages a 32
      let b :=
        match finding with
        | .good => b
        | .correctable => b
        | .heavy => b.relocate unit
        | .uncorrectable =>
          let (w, b) := b.free
          let c := a + w.toNat % 4 * 4096
          let b := { b with tiers.badSectors := b.tiers.badSectors ++
            ((List.range 128).map (c / 32 + ·)).filter fun x => decide (x ∉ b.tiers.badSectors) }
          b.scrubBad c
      b.scrubNext 3 b.tiers.mapped.length

/-- SCRUB_LATE (R331): a pass not complete within twice its period. -/
def execScrubLate (target : Fin 4) (lag : Nat) (s : State) : Host.Outcome State Fault Refusal :=
  s.onBody fun b =>
    let pos := b.tiers.scrubPos.getD target 0
    let (k, u) := if target.val = 3 then (7, 8) else b.controllerOf (b.scrubAddr target pos)
    (b.bump (.mtScrubStat target) Fld.mtScrubStatLate 1).err 0x0503 0 k u [target, lag]

/-! ### Wear of Tier F (R340, R341; log entry 41) -/

/-- The erase count of a block of a channel. -/
def FlashChan.count (c : FlashChan) (k : Nat) : Nat := SMap.get c.erases 0 k

/-- The least and the greatest erase count of a channel's blocks. -/
def FlashChan.spread (c : FlashChan) : Nat × Nat :=
  let top := (c.erases.map (·.2)).foldl max 0
  let low := if c.erases.length < 18432 then 0 else (c.erases.map (·.2)).foldl min top
  (low, top)

/-- Erases a block. -/
def FlashChan.erase (c : FlashChan) (k : Nat) : FlashChan := { c with erases := SMap.set c.erases 0 k (c.count k + 1) }

/-- A channel whose good spare blocks have fallen to 16 becomes READ_ONLY, with its record (R341). -/
def Body.checkSpares (b : Body) (c : Nat) : Body :=
  let ro := b.getF .mtFlashStat Fld.mtFlashStatRoMap
  if (b.flashChan c).spares ≤ 16 ∧ ¬ ro.testBit c then
    (b.setF .mtFlashStat Fld.mtFlashStatRoMap (ro + 2 ^ c)).err 0x0506 1 7 (8 + c / 8) [c]
  else b

/-- WEAR_LEVELLING (R340): when the erase counts of a channel differ by more than 200, the coldest block is relocated and erased.
Which of several coldest, and how many of its units still hold data, are free values. -/
def execWearLevelling (channel : Fin 64) (s : State) : Host.Outcome State Fault Refusal :=
  s.onBody fun b =>
    let c := b.flashChan channel
    let (low, top) := c.spread
    if top ≤ low + 200 then b
    else
      let cold := (List.range 18432).filter fun k => decide (c.count k = low)
      let (w, b) := b.free
      let (u, b) := b.free
      let n := u.toNat % 1025
      let b := b.updFlash channel fun c => (n.repeat FlashChan.take c).erase (cold.getD (w.toNat % cold.length) 0)
      (b.updFlash channel fun c => { c with free := c.free + 1 }).notePrograms 0 (n * 16384)

/-- GARBAGE_COLLECTION (R340): the data still held in a block are programmed to fresh pages and the block is erased and free again;
a block that fails is retired and a spare takes its place. The microseconds that programs waited below 64 free blocks are counted.
The block and the units it still holds are free values. -/
def execGarbageCollection (channel : Fin 64) (waited : Nat) (bad : Bool) (s : State) : Host.Outcome State Fault Refusal :=
  s.onBody fun b =>
    let b := if (b.flashChan channel).free < 64 then b.bump .mtFlashWait Fld.mtFlashWaitGcWait waited else b
    let (w, b) := b.free
    let (u, b) := b.free
    let n := u.toNat % 1024
    let b := b.updFlash channel fun c =>
      let c := (n.repeat FlashChan.take c).erase (w.toNat % 18432)
      { c with free := c.free + 1, spares := if bad then c.spares - 1 else c.spares }
    (b.checkSpares channel).notePrograms 0 (n * 16384)

end Sys2Proof.Machine
end

