-- ==== Sys2Proof/Machine/Collect.lean ====
section
/-!
DEFINITION. Collective groups, registrations and runs (R360-R371).
-/

namespace Sys2Proof.Machine

/-- The table index of a group id. -/
def Body.groupIndex (b : Body) (id : Nat) : Option Nat :=
  (List.range 64).find? fun i =>
    decide (b.groupState i ≠ 0 ∧ b.getF (.bwGroupStat i) Fld.bwGroupStatGroup = id)

/-- A group's current epoch. -/
def Body.groupEpoch (b : Body) (i : Nat) : Nat := b.getF (.bwGroupEpoch i) Fld.bwGroupEpochEpoch

/-- Changes a group. -/
def Body.setGroup (b : Body) (i : Nat) (g : Group) : Body := { b with ln.groups := SMap.set b.ln.groups {} i g }

/-- A registration as held. -/
def Body.coll (b : Body) (r : Nat) : Registration := SMap.get b.ln.colls {} r

/-- Releases a registration: its Basin slots are free again. -/
def Body.releaseReg (b : Body) (r : Nat) : Body :=
  let x := b.coll r
  let b := b.bump (.bwBasinStat 0) Fld.bwBasinStatFree x.slots0
  let b := b.bump (.bwBasinStat 1) Fld.bwBasinStatFree x.slots1
  { b with ln.colls := SMap.drop b.ln.colls r }

/-- Releases every registration of a group. -/
def Body.releaseGroup (b : Body) (i : Nat) : Body :=
  ((b.ln.colls.filter fun p => decide (p.2.group = i)).map (·.1)).foldl Body.releaseReg b

/-- Ends a waiting CL_GROUP with GROUP_EPOCH. -/
def Body.endForming (b : Body) (i : Nat) : Body :=
  let g := b.group i
  match g.waiting with
  | some fl => (b.setGroup i { g with waiting := none }).fail fl 0x30
  | none => b

/-- Dissolves a group on this module: its runs end with a status, its registrations are released, its entry is free. -/
def Body.dissolve (b : Body) (i status : Nat) : Body :=
  let b := ((b.endRuns i status).releaseGroup i).endForming i
  let b := { b with ln.groups := SMap.drop b.ln.groups i }
  (b.setReg (.bwGroupStat i) (Reg.dflt (.bwGroupStat i))).setReg (.bwGroupEpoch i) (Reg.dflt (.bwGroupEpoch i))

/-- The group is READY when every neighbouring module has joined; CL_GROUP then completes (R362). -/
def Body.groupCheck (b : Body) (i : Nat) : Body :=
  let g := b.group i
  if b.groupState i = 1 ∧ g.pending = none ∧ (b.neighbourModules g).all fun m => decide (m ∈ g.joins) then
    let b := b.setF (.bwGroupStat i) Fld.bwGroupStatState 2
    match g.waiting with
    | some fl => (b.setGroup i { g with waiting := none }).done fl
    | none => b
  else b

/-- A JOIN with a higher epoch than the local one: runs end with GROUP_EPOCH and the group is FORMING (R362). -/
def Body.superseded (b : Body) (i epoch : Nat) : Body :=
  let b := (b.endRuns i 0x30).endForming i
  let b := b.setGroup i { b.group i with pending := some epoch }
  b.setF (.bwGroupStat i) Fld.bwGroupStatState 1

/-- A JOIN meets its group's entry (R362). -/
def Body.takeJoin (b : Body) (i peer epoch hash : Nat) : Body :=
  let g := b.group i
  if epoch > b.groupEpoch i then b.superseded i epoch
  else if b.groupState i ≠ 1 then b
  else if hash = g.hash then (b.setGroup i { g with joins := peer :: g.joins }).groupCheck i
  else b.endForming i

/-- The first 8 bytes of SHA-384 over the rank list (R362). -/
def listHash (l : List Byte) : Nat := (sha384 l).toNat / 2 ^ 320

/-- The rank list (R360): MODULE and QUAY of each record. -/
def ranksOf (n : Nat) (l : List Byte) : List (Nat × Nat) :=
  (List.range n).map fun r =>
    let x := ofLe ((l.drop (8 * r)).take 8)
    (x % 65536, x / 65536 % 16)

/-- CL_GROUP forms or re-forms a group (R360-R363). -/
def Body.formGroup (b : Body) (fl : Flight) (l : List Byte) : Body :=
  let c := fl.cmd
  let id := c.f 1 15 0
  let n := c.f 1 26 17 + 1
  let epoch := c.f 2 31 0
  let g : Group := { ranks := ranksOf n l, hash := listHash l }
  let part := b.partOfSlot fl.slot
  let quays := b.quaysOfSlot fl.slot
  let old := b.groupIndex id
  let at_ := match old with
    | some i => some i
    | none => (List.range 64).find? fun i => decide (b.groupState i = 0)
  let mine := b.localRanks g
  let bad := (g.ranks.any fun r => decide (r.2 > 9)) ||
    (mine.any fun r => decide ((g.ranks.getD r (0, 0)).2 ∉ quays)) || decide (mine = []) ||
    (match old with
      | some i => decide (b.getF (.bwGroupStat i) Fld.bwGroupStatCtx ≠ c.ctx.toNat) || decide (epoch ≤ b.groupEpoch i)
      | none => false) ||
    ((b.neighbourModules g).any fun m => decide (b.bundle m part 3 = []))
  match at_ with
  | none => b.fail fl 0x11
  | some i =>
    if bad then b.fail fl 0x11
    else
      let b := if old.isSome then (((b.endRuns i 0x30).releaseGroup i).endForming i) else b
      let b := ((b.setF (.bwGroupStat i) Fld.bwGroupStatGroup id).setF (.bwGroupStat i) Fld.bwGroupStatCtx
        c.ctx.toNat).setF (.bwGroupStat i) Fld.bwGroupStatState 1
      let b := b.setF (.bwGroupEpoch i) Fld.bwGroupEpochEpoch epoch
      let b := (b.start fl).setGroup i { g with waiting := some fl }
      let b := (b.neighbourModules g).foldl (fun b m => b.groupSend m 1 .join [id, epoch, g.hash]) b
      let (early, rest) := b.ln.joinsIn.partition fun j => decide (j.getD 1 0 = id ∧ j.getD 2 0 ≥ epoch)
      let b := { b with ln.joinsIn := rest.filter fun j => decide (j.getD 1 0 ≠ id) }
      let b := early.foldl (fun b j => b.takeJoin i (j.getD 0 0) (j.getD 2 0) (j.getD 3 0)) b
      b.groupCheck i

/-- CL_GROUP (R360). -/
def execClGroup (c : Cmd) (s : State) : Host.Outcome State Fault Refusal :=
  s.onBody fun b => b.onSub c 0x61 (!c.b 1 16) fun b fl =>
    let n := c.f 1 26 17 + 1
    match b.access fl.slot (c.h 3) (32 * c.f 3 37 18) (8 * n) false with
    | .error st => b.fail fl st (c.h 3)
    | .ok e =>
      let (l, ecc, b) := b.load fl (e.base + 32 * c.f 3 37 18) (8 * n)
      if ecc then b.doneEcc fl true else b.formGroup fl l

/-- CL_GROUP with DISSOLVE (R360, R363). -/
def execClGroupDissolve (c : Cmd) (s : State) : Host.Outcome State Fault Refusal :=
  s.onBody fun b => b.onSub c 0x61 (c.b 1 16) fun b fl =>
    match b.groupIndex (c.f 1 15 0) with
    | some i =>
      if b.getF (.bwGroupStat i) Fld.bwGroupStatCtx = c.ctx.toNat then (b.dissolve i 0x30).done fl else b.fail fl 0x11
    | none => b.fail fl 0x11

/-- A message with a lower epoch: discarded, answered with GROUP_EPOCH, counted (R363). -/
def Body.stale (b : Body) (peer group epoch : Nat) : Body :=
  (b.groupSend peer 0 .staleReply [group, epoch, 0x30]).bump .bwClTally Fld.bwClTallyStale 1

/-- JOIN (R362). One for a group not known yet is kept until its CL_GROUP. -/
def execJoin (peer : Nat) (group epoch hash : Nat) (s : State) : Host.Outcome State Fault Refusal :=
  s.onBody fun b =>
    match b.groupIndex group with
    | none => { b with ln.joinsIn := b.ln.joinsIn ++ [[peer, group, epoch, hash]] }
    | some i =>
      if epoch < b.groupEpoch i then b.stale peer group epoch
      else
        let b := if epoch > b.groupEpoch i then { b with ln.joinsIn := b.ln.joinsIn ++ [[peer, group, epoch, hash]] } else b
        b.takeJoin i peer epoch hash

/-- BROKEN_REPORT (R363). -/
def execBrokenReport (peer : Nat) (group epoch : Nat) (s : State) : Host.Outcome State Fault Refusal :=
  s.onBody fun b =>
    match b.groupIndex group with
    | none => b
    | some i =>
      if epoch < b.groupEpoch i then b.stale peer group epoch
      else if epoch = b.groupEpoch i ∧ peer ∈ b.neighbourModules (b.group i) then b.breakGroup i 2
      else b

/-! ### Registration (R364-R366) -/

/-- The registration that CL_REGISTER gives on a group of `n` ranks, clamped, and the fields clamped (R364). -/
def regOf (c : Cmd) (n slot i : Nat) (tile : Bool) : Registration × Nat :=
  let op := min 5 (c.f 1 25 23)
  let red : Bool := decide (op ∈ [0, 1, 4])
  let fmt0 := c.f 1 29 26
  let fmt := if red && decide (fmt0 ∉ [0x8, 0xA, 0xC, 0xD]) then 0xA else fmt0
  let rd := min 2 (c.f 1 31 30)
  let prio0 := c.f 1 33 33
  let prio := if tile then 0 else prio0
  let root := min (n - 1) (c.f 1 46 37)
  let by0 := c.f 2 47 0
  let m := if op = 1 then 32 * n else if red then elemBits fmt / 8 else 1
  let by1 := by0 / m * m
  let rb0 := c.f 5 63 32
  let rb := if op = 5 then (rb0 + 15) / 32 * 32 else rb0
  ({ used := true, group := i, slot := slot, op := op, fmt := fmt, red := rd, order := c.f 1 32 32, prio := prio,
     nslot := c.f 1 36 34 + 1, root := root, nbytes := by1, cap := c.f 5 31 0, rowBytes := rb },
    [decide (op ≠ c.f 1 25 23), decide (fmt ≠ fmt0), red && decide (rd ≠ c.f 1 31 30), decide (prio ≠ prio0),
      decide (op = 3 ∨ op = 4) && decide (root ≠ c.f 1 46 37), decide (by1 ≠ by0), decide (rb ≠ rb0)].count true)

/-- A rank is interior in a tree: its position is even (R361). -/
def interior (t n r : Nat) : Bool := decide (treePos t n r % 2 = 0)

/-- CL_REGISTER grants slots or the memory path, and writes the record (R365, R366). -/
def Body.grant (b : Body) (fl : Flight) (i : Nat) (r : Registration) (rec : Entry) (scr : Option Entry) : Body :=
  let reg := fl.cmd.f 1 22 16
  let g := b.group i
  let n := g.ranks.length
  let cnt (t : Nat) : Nat := ((b.localRanks g).filter fun k => interior t n k).length
  let want (t : Nat) : Nat := if r.op = 5 then 0 else cnt t * r.nslot
  let fits (t : Nat) : Bool := decide (want t ≤ b.getF (.bwBasinStat t) Fld.bwBasinStatFree)
  let mem := (if fits 0 then 0 else want 0) + (if fits 1 then 0 else want 1)
  if mem * 0x40000 > (scr.map (·.size)).getD 0 ∨ (mem > 0 ∧ (scr.map (·.place)).getD 0 ∉ [2, 3]) then b.fail fl 0x11
  else
    let take (t : Nat) (b : Body) : Body :=
      if fits t then b.setF (.bwBasinStat t) Fld.bwBasinStatFree (b.getF (.bwBasinStat t) Fld.bwBasinStatFree - want t)
      else b.bump (.bwBasinStat t) Fld.bwBasinStatMempath 1
    let b := take 1 (take 0 b)
    let s0 := if fits 0 then want 0 else 0
    let s1 := if fits 1 then want 1 else 0
    let path := (if fits 0 then 0 else 1) + (if fits 1 then 0 else 2) + (if r.prio = 1 then 4 else 0)
    let r := { r with slots0 := s0, slots1 := s1, scratch := (scr.map (·.base)).getD 0, scratchLen := mem * 0x40000 }
    let b := { b with ln.colls := SMap.set b.ln.colls {} reg r }
    let bs := leBytes 2 (fl.cmd.f 1 15 0) ++ leBytes 1 reg ++ leBytes 1 path ++ leBytes 4 (b.groupEpoch i) ++
      leBytes 2 (cnt 0) ++ leBytes 2 (cnt 1) ++ leBytes 4 (s0 + s1) ++ leBytes 8 (mem * 0x40000) ++ leBytes 8 0
    (b.store rec.base bs).done fl

/-- CL_REGISTER (R364). An id in use, or a group that is not the context's, faults HOLD_RANGE; a group that is not READY
ends it with GROUP_EPOCH. -/
def execClRegister (c : Cmd) (s : State) : Host.Outcome State Fault Refusal :=
  s.onBody fun b => b.onCmd c 0x62 fun b fl =>
    match b.groupIndex (c.f 1 15 0) with
    | none => b.fail fl 0x11
    | some i =>
      if (b.coll (c.f 1 22 16)).used ∨ b.getF (.bwGroupStat i) Fld.bwGroupStatCtx ≠ c.ctx.toNat then b.fail fl 0x11
      else if b.groupState i ≠ 2 then b.fail fl 0x30
      else
        let tile := match b.partOfSlot fl.slot with
          | some p => partIsTile b.framing p
          | none => false
        let (r, n) := regOf c (b.group i).ranks.length fl.slot i tile
        let b := b.clampCmd fl n
        match b.access fl.slot (c.h 4) 0 32 true with
        | .error st => b.fail fl st (c.h 4)
        | .ok rec =>
          if rec.place = 5 then b.fail fl 0x11 (c.h 4)
          else if c.h 3 = 0 then b.grant fl i r rec none
          else
            match b.access fl.slot (c.h 3) 0 0 true with
            | .error st => b.fail fl st (c.h 3)
            | .ok scr => b.grant fl i r rec (some scr)

/-- The registration a command names: in use, of the group, and of the context. -/
def Body.regFor (b : Body) (fl : Flight) : Option Registration :=
  let r := b.coll (fl.cmd.f 1 22 16)
  match b.groupIndex (fl.cmd.f 1 15 0) with
  | some i =>
    if r.used ∧ r.group = i ∧ b.getF (.bwGroupStat i) Fld.bwGroupStatCtx = fl.cmd.ctx.toNat then some r else none
  | none => none

/-- CL_UNREGISTER (R364, R376). -/
def execClUnregister (c : Cmd) (s : State) : Host.Outcome State Fault Refusal :=
  s.onBody fun b => b.onCmd c 0x64 fun b fl =>
    let reg := c.f 1 22 16
    match b.regFor fl with
    | none => b.fail fl 0x11
    | some r =>
      if r.closing.isSome then b.fail fl 0x11
      else if b.ln.runs.any fun x => decide (x.reg = reg) then
        { b.start fl with ln.colls := SMap.set b.ln.colls {} reg { r with closing := some fl } }
      else (b.releaseReg reg).done fl

/-! ### Runs (R367-R371) -/

/-- Bytes of a chunk: 32 KiB. -/
def chunkBytes : Nat := 32768

/-- The virtual channel of a run's data (R356). -/
def clVc (fl : Flight) (r : Registration) : Nat := if fl.cmd.slack then 6 else if r.prio = 1 then 2 else 3

/-- Combines two byte strings element by element (R55, R369). -/
def combineBytes (fmt red : Nat) (a d : List Byte) : List Byte :=
  let n := elemBits fmt / 8
  (List.range (a.length / n)).flatMap fun i =>
    leBytes n (reduceElem fmt red (ofLe ((a.drop (i * n)).take n)) (ofLe ((d.drop (i * n)).take n)))

/-- Ranks of the subtree of a rank, itself among them; `f` bounds the depth. -/
def subtree (t n : Nat) : Nat → Nat → List Nat
  | 0, r => [r]
  | f + 1, r => r :: (childRanks t n r).flatMap (subtree t n f)

/-- OP gathers: its up pass carries one rank's bytes unchanged (ALL_GATHER, BROADCAST). -/
def gathers (op : Nat) : Bool := decide (op = 2 ∨ op = 3)

/-- Rank `k`'s place among the local ranks. -/
def Body.localIndex (b : Body) (i k : Nat) : Nat := (b.localRanks (b.group i)).findIdx fun r => decide (r = k)

/-- Chunks of a contribution. -/
def chunksOf (r : Registration) : Nat := ceilDiv r.nbytes chunkBytes

/-- The address of SRC or DST of a run, already checked at its start. -/
def Body.clBase (b : Body) (fl : Flight) (w : Nat) : Nat :=
  (b.entry fl.slot (fl.cmd.h w / 65536)).base + 32 * fl.cmd.f w 37 18

/-- The bytes that a rank contributes to a chunk. -/
def Body.contribution (b : Body) (x : ClRun) (r : Registration) (rank idx : Nat) : List Byte :=
  b.bytes (b.clBase x.fl 2 + b.localIndex x.group rank * r.nbytes + idx * chunkBytes)
    (min chunkBytes (r.nbytes - idx * chunkBytes))

/-- The result bytes of a chunk that a local rank keeps: where in DST, and which (R368). -/
def Body.resultOf (b : Body) (x : ClRun) (r : Registration) (rank src idx : Nat) (d : List Byte) : Option (Nat × List Byte) :=
  let n := (b.group x.group).ranks.length
  let j := b.localIndex x.group rank
  let dst := b.clBase x.fl 3
  match r.op with
  | 1 =>
    let sh := r.nbytes / n
    let lo := max (idx * chunkBytes) (rank * sh)
    let hi := min (idx * chunkBytes + d.length) ((rank + 1) * sh)
    if lo < hi then some (dst + j * sh + (lo - rank * sh), (d.drop (lo - idx * chunkBytes)).take (hi - lo)) else none
  | 2 => some (dst + j * n * r.nbytes + src * r.nbytes + idx * chunkBytes, d)
  | 4 => if rank = r.root then some (dst + j * r.nbytes + idx * chunkBytes, d) else none
  | _ => some (dst + j * r.nbytes + idx * chunkBytes, d)

/-- A chunk goes down from a rank to a child (R368). -/
def Body.goesDown (b : Body) (x : ClRun) (r : Registration) (t idx len child : Nat) : Bool :=
  let n := (b.group x.group).ranks.length
  let sub := subtree t n 10 child
  match r.op with
  | 1 => sub.any fun k =>
      decide (max (idx * chunkBytes) (k * (r.nbytes / n)) < min (idx * chunkBytes + len) ((k + 1) * (r.nbytes / n)))
  | 4 => decide (r.root ∈ sub)
  | _ => true

/-- The module of a rank of a run's group. -/
def Body.rankModule (b : Body) (x : ClRun) (k : Nat) : Nat := ((b.group x.group).ranks.getD k (0, 0)).1

/-- A chunk message of a run. -/
def Body.chunkMsg (b : Body) (x : ClRun) (t src dst idx : Nat) (down : Bool) (d : List Byte) : Chunk :=
  { group := b.getF (.bwGroupStat x.group) Fld.bwGroupStatGroup, epoch := b.groupEpoch x.group, reg := x.reg,
    run := x.run, tree := t, src := src, dst := dst, index := idx, down := down, data := d }

/-- Sends a chunk to the module of a rank; it is held until that module's READY has come (R367). -/
def Body.chunkOut (b : Body) (x : ClRun) (r : Registration) (k : Chunk) : Body × ClRun :=
  let m := b.rankModule x k.dst
  if m ∈ x.readyFrom then
    (b.groupSend m (clVc x.fl r) .chunk
      [k.group, k.epoch, k.reg, k.run, k.tree, k.src, k.dst, k.index, if k.down then 1 else 0] k.data (some x.fl.uid), x)
  else (b, { x with heldOut := x.heldOut ++ [(m, k)] })

/-- The down pass of a chunk at a local rank: its result is written, and it is forwarded to the children; `f` bounds the
depth (R370). -/
def Body.downAt (b : Body) (x : ClRun) (r : Registration) (t src idx : Nat) (d : List Byte) :
    Nat → Nat → Body × ClRun
  | 0, _ => (b, x)
  | f + 1, rank =>
    let n := (b.group x.group).ranks.length
    let (b, x) := match b.resultOf x r rank src idx d with
      | some (a, ds) => (b.store a ds, { x with written := (rank, src, idx) :: x.written })
      | none => (b, x)
    ((childRanks t n rank).filter fun c => b.goesDown x r t idx d.length c).foldl (fun (p : Body × ClRun) c =>
      if p.1.rankModule p.2 c = p.1.self then Body.downAt p.1 p.2 r t src idx d f c
      else p.1.chunkOut p.2 r (p.1.chunkMsg p.2 t src c idx true d)) (b, x)

/-- Chunk positions of an interior rank: 4 a slot in rank order, 8 accumulators a slot by arrival (R369). -/
def positions (r : Registration) : Nat := (if r.order = 1 then 4 else 8) * r.nslot

/-- A node's values are all in. -/
def nodeFull (r : Registration) (n : Nat) (c : Combine) : Bool :=
  gathers r.op || decide (c.seen.length = (childRanks c.tree n c.rank).length)

/-- A child's value meets its node (R369): at once by arrival, in increasing position in rank order. -/
def nodeTake (r : Registration) (n : Nat) (c : Combine) (child : Nat) (d : List Byte) : Combine :=
  if r.order = 0 then { c with acc := combineBytes r.fmt r.red c.acc d, seen := child :: c.seen }
  else
    let c := { c with held := (child, d) :: c.held }
    (childRanks c.tree n c.rank).foldl (fun (c : Combine) k =>
      if k ∈ c.seen then c
      else if c.seen.length ≠ ((childRanks c.tree n c.rank).findIdx fun z => decide (z = k)) then c
      else
        match c.held.find? fun p => decide (p.1 = k) with
        | some (_, v) => { c with acc := combineBytes r.fmt r.red c.acc v, seen := k :: c.seen,
                                  held := c.held.filter fun p => decide (p.1 ≠ k) }
        | none => c) c

/-- A value goes up into a local rank: its node is made if need be, with the rank's own value (R369). -/
def Body.upAt (b : Body) (x : ClRun) (r : Registration) (t rank child src idx : Nat) (d : List Byte) : ClRun :=
  let n := (b.group x.group).ranks.length
  let is : Combine → Bool := fun c => decide (c.rank = rank ∧ c.tree = t ∧ c.index = idx ∧ c.src = src)
  if gathers r.op then { x with nodes := x.nodes ++ [{ rank := rank, tree := t, src := src, index := idx, acc := d }] }
  else
    let x := if x.nodes.any is then x
      else { x with nodes := x.nodes ++ [{ rank := rank, tree := t, src := src, index := idx, acc := b.contribution x r rank idx }],
                    todo := x.todo.filter fun p => decide (p ≠ (rank, idx)) }
    { x with nodes := x.nodes.map fun c => if is c then nodeTake r n c child d else c }

/-- The first chunk of a local rank that may start: a leaf's, or an interior rank's with a free position. -/
def Body.nextTodo (b : Body) (x : ClRun) (r : Registration) : Option (Nat × Nat) :=
  let n := (b.group x.group).ranks.length
  x.todo.find? fun p =>
    let t := p.2 % 2
    decide ((x.nodes.filter fun c => decide (c.rank = p.1 ∧ c.tree = t)).length < (if interior t n p.1 then positions r else 1))

/-- A full node that may go on: at the root, to a local parent with a position, or to a remote parent that is READY and has
announced one (R367, R370). -/
def Body.nextUp (b : Body) (x : ClRun) (r : Registration) : Option Combine :=
  let n := (b.group x.group).ranks.length
  x.nodes.find? fun c =>
    nodeFull r n c &&
      (match parentRank c.tree n c.rank with
        | none => true
        | some p =>
          if b.rankModule x p = b.self then
            (!gathers r.op && (x.nodes.any fun z => decide (z.rank = p ∧ z.tree = c.tree ∧ z.index = c.index))) ||
              decide ((x.nodes.filter fun z => decide (z.rank = p ∧ z.tree = c.tree)).length < positions r)
          else decide (b.rankModule x p ∈ x.readyFrom) && x.freePos.any fun q => decide (q.1 = c.tree ∧ q.2.1 = p ∧ q.2.2 > 0))

/-- An interior rank's position is free again: its remote children hear of it (R370). -/
def Body.announce (b : Body) (x : ClRun) (t rank count : Nat) : Body :=
  let n := (b.group x.group).ranks.length
  let ms := ((childRanks t n rank).filter fun c => decide (b.rankModule x c ≠ b.self))
  ms.foldl (fun b c => b.groupSend (b.rankModule x c) 1 .freePosition
    [b.getF (.bwGroupStat x.group) Fld.bwGroupStatGroup, b.groupEpoch x.group, x.reg, t, rank, count]) b

/-- One thing a run can do; the second part tells whether it did. -/
def Body.runStep (b : Body) (x : ClRun) (r : Registration) : Body × ClRun × Bool :=
  let n := (b.group x.group).ranks.length
  match b.nextUp x r with
  | some c =>
    let x := { x with nodes := x.nodes.erase c }
    match parentRank c.tree n c.rank with
    | none =>
      let (b, x) := b.downAt x r c.tree c.src c.index c.acc 12 c.rank
      (b.announce x c.tree c.rank 1, x, true)
    | some p =>
      if b.rankModule x p = b.self then (b.announce x c.tree c.rank 1, b.upAt x r c.tree p c.rank c.src c.index c.acc, true)
      else
        let x := { x with freePos := x.freePos.map fun q =>
          if q.1 = c.tree ∧ q.2.1 = p then (q.1, q.2.1, q.2.2 - 1) else q }
        let k := b.chunkMsg x c.tree (if gathers r.op then c.src else c.rank) p c.index false c.acc
        let (b, x) := b.chunkOut x r k
        (b.announce x c.tree c.rank 1, x, true)
  | none =>
    match b.nextTodo x r with
    | some (rank, idx) =>
      let x := { x with todo := x.todo.filter fun p => decide (p ≠ (rank, idx)),
                        nodes := x.nodes ++ [{ rank := rank, tree := idx % 2, src := if gathers r.op then rank else 0,
                                               index := idx, acc := b.contribution x r rank idx }] }
      (b, x, true)
    | none => (b, x, false)

/-- Everything a run can do now. -/
def Body.runAll (b : Body) (x : ClRun) (r : Registration) : Nat → Body × ClRun
  | 0 => (b, x)
  | f + 1 =>
    match b.runStep x r with
    | (b, x, true) => Body.runAll b x r f
    | (b, x, false) => (b, x)

/-- The results a local rank expects. -/
def Body.expects (b : Body) (x : ClRun) (r : Registration) (rank : Nat) : Nat :=
  let n := (b.group x.group).ranks.length
  let m := chunksOf r
  match r.op with
  | 1 => ((List.range m).filter fun i =>
      decide (max (i * chunkBytes) (rank * (r.nbytes / n)) < min ((i + 1) * chunkBytes) ((rank + 1) * (r.nbytes / n)))).length
  | 2 => n * m
  | 4 => if rank = r.root then m else 0
  | 5 => n
  | _ => m

/-- A run has completed on this module. -/
def Body.runFinished (b : Body) (x : ClRun) (r : Registration) : Bool :=
  decide (x.nodes = [] ∧ x.todo = [] ∧ x.heldOut = []) &&
    (b.localRanks (b.group x.group)).all fun k =>
      decide ((x.written.filter fun w => decide (w.1 = k)).length ≥ b.expects x r k)

/-- A run goes on as far as it can, and completes when it is finished; a registration that waits to be released then is. -/
def Body.runGo (b : Body) (x : ClRun) : Body :=
  let r := b.coll x.reg
  let n := (b.group x.group).ranks.length
  let (b, x) := b.runAll x r (4 * (n + 2) * (chunksOf r + 2) * (n + 2))
  let others := b.ln.runs.filter fun y => decide (y.fl.uid ≠ x.fl.uid)
  if b.runFinished x r then
    let b := { b with ln.runs := others }
    let b := if x.dropped > 0 then
      b.err 0x0604 0 3 0 [b.getF (.bwGroupStat x.group) Fld.bwGroupStatGroup, x.reg, x.dropped] 0 x.fl.cmd.ctx.toNat else b
    let b := b.done x.fl
    match r.closing with
    | some fl => (b.releaseReg x.reg).done fl
    | none => b
  else { b with ln.runs := others ++ [x] }

/-- The hash of a registration that READY carries. -/
def regHashOf (r : Registration) : Nat :=
  Config.regHash [r.op, r.fmt, r.red, r.order, r.prio, r.nslot, r.root, r.nbytes, r.cap, r.rowBytes]

/-- A READY meets its run (R367): data may go to that module; another hash ends the run with HOLD_RANGE. -/
def Body.takeReady (b : Body) (x : ClRun) (peer hash : Nat) : Body :=
  let r := b.coll x.reg
  if hash ≠ regHashOf r then
    { b with ln.runs := b.ln.runs.filter fun y => decide (y.fl.uid ≠ x.fl.uid) }.fail x.fl 0x11
  else
    let (go, stay) := x.heldOut.partition fun p => decide (p.1 = peer)
    let x := { x with readyFrom := peer :: x.readyFrom, heldOut := stay }
    let (b, x) := go.foldl (fun (p : Body × ClRun) k => p.1.chunkOut p.2 r k.2) (b, x)
    b.runGo x

/-- One local rank's rows of ALL_TO_ALL to rank `d`: dropped rows, and the rows kept (R371). -/
def Body.a2aPair (b : Body) (x : ClRun) (r : Registration) (cnt drop : Nat) (j n d : Nat) (a : Nat) : Body × Nat × Nat × List Byte :=
  let raw := sInt 32 (b.le (cnt + (j * n + d) * 4) 4)
  let b := if raw < 0 then b.clampCmd x.fl 1 else b
  let rows := raw.toNat
  let keep := min rows r.cap
  let b := b.store (drop + (j * n + d) * 4) (leBytes 4 (rows - keep))
  (b.bump .bwClTally Fld.bwClTallyDropped (rows - keep), rows - keep, a + rows * r.rowBytes, b.bytes a (keep * r.rowBytes))

/-- The kept rows of rank `s` arrive at a local rank: slot `s` of its DST, the rest of the slot zero, and RCNT (R371). -/
def Body.a2aTake (b : Body) (x : ClRun) (r : Registration) (s rank rows : Nat) (d : List Byte) : Body × ClRun :=
  let n := (b.group x.group).ranks.length
  let j := b.localIndex x.group rank
  let rc := (b.entry x.fl.slot (x.fl.cmd.h 5 / 65536)).base
  let b := b.store (b.clBase x.fl 3 + (j * n + s) * r.cap * r.rowBytes) (padTo (r.cap * r.rowBytes) d)
  (b.store (rc + (j * n + s) * 4) (leBytes 4 rows), { x with written := (rank, s, 0) :: x.written })

/-- ALL_TO_ALL sends every segment of every local rank (R371). -/
def Body.a2aStart (b : Body) (x : ClRun) (r : Registration) : Body × ClRun :=
  let g := b.group x.group
  let n := g.ranks.length
  let cnt := (b.entry x.fl.slot (x.fl.cmd.h 4 / 65536)).base
  let drop := (b.entry x.fl.slot (x.fl.cmd.h 6 / 65536)).base
  let mine := b.localRanks g
  let go (p : Body × ClRun × Nat) (rd : Nat × Nat) : Body × ClRun × Nat :=
    let (b, x, a) := p
    let j := b.localIndex x.group rd.1
    let (b, lost, a', d) := b.a2aPair x r cnt drop j n rd.2 a
    let x := { x with dropped := x.dropped + lost }
    let rows := if r.rowBytes = 0 then 0 else d.length / r.rowBytes
    if b.rankModule x rd.2 = b.self then
      let (b, x) := b.a2aTake x r rd.1 rd.2 rows d
      (b, x, a')
    else
      let (b, x) := b.chunkOut x r (b.chunkMsg x 0 rd.1 rd.2 rows false d)
      (b, x, a')
  let (b, x, _) := (mine.flatMap fun k => (List.range n).map fun d => (k, d)).foldl go (b, x, b.clBase x.fl 2)
  (b, x)

/-- The bytes of SRC and DST for the local ranks (R368). ALL_TO_ALL's SRC depends on its counts. -/
def clSizes (r : Registration) (n l : Nat) : Nat × Nat :=
  match r.op with
  | 1 => (l * r.nbytes, l * (r.nbytes / n))
  | 2 => (l * r.nbytes, l * n * r.nbytes)
  | 5 => (0, l * n * r.cap * r.rowBytes)
  | _ => (l * r.nbytes, l * r.nbytes)

/-- The handles of CL_RUN, with the bytes each is used for and whether it is written. -/
def clHandles (c : Cmd) (r : Registration) (n l : Nat) : List (Nat × Nat × Nat × Bool) :=
  let (sn, dn) := clSizes r n l
  [(2, 32 * c.f 2 37 18, sn, false), (3, 32 * c.f 3 37 18, dn, true)] ++
    (if r.op = 5 then [(4, 0, 4 * n * l, false), (5, 0, 4 * n * l, true), (6, 0, 4 * n * l, true)] else [])

/-- The status of the first handle that fails, with its handle. -/
def Body.firstBad (b : Body) (fl : Flight) (hs : List (Nat × Nat × Nat × Bool)) : Option (Nat × Nat) :=
  hs.findSome? fun p =>
    let h := fl.cmd.h p.1
    match b.access fl.slot h p.2.1 p.2.2.1 p.2.2.2 with
    | .error st => some (st, h)
    | .ok e => if e.place ∈ [1, 2, 3] then none else some (0x11, h)

/-- The bytes of SRC that an ALL_TO_ALL reads: every row of every COUNT of the local ranks (R371). -/
def Body.a2aSrc (b : Body) (fl : Flight) (r : Registration) (n l : Nat) : Nat :=
  let cnt := (b.entry fl.slot (fl.cmd.h 4 / 65536)).base
  (((List.range (n * l)).map fun i => (sInt 32 (b.le (cnt + 4 * i) 4)).toNat).sum) * r.rowBytes

/-- Positions announced by the parents on a module, in a tree, of this module's ranks. -/
def Body.takePos (b : Body) (x : ClRun) (peer tree count : Nat) : ClRun :=
  let g := b.group x.group
  let n := g.ranks.length
  let ps := (((b.localRanks g).filterMap fun k => parentRank tree n k).dedup).filter
    fun p => decide (b.rankModule x p = peer)
  let add (l : List (Nat × Nat × Nat)) (p : Nat) : List (Nat × Nat × Nat) :=
    if l.any fun q => decide (q.1 = tree ∧ q.2.1 = p) then
      l.map fun q => if q.1 = tree ∧ q.2.1 = p then (q.1, q.2.1, q.2.2 + count) else q
    else l ++ [(tree, p, count)]
  { x with freePos := ps.foldl add x.freePos }

/-- CL_RUN starts: READY goes out, positions are announced, and the run goes as far as it can. What SCRATCH holds on the memory path is the
engine's, so its bytes become undefined (R365). -/
def Body.runStart (b : Body) (fl : Flight) (r : Registration) : Body :=
  let c := fl.cmd
  let reg := c.f 1 22 16
  let g := b.group r.group
  let n := g.ranks.length
  let mine := b.localRanks g
  let b := b.start { fl with handles := (clHandles c r n 1).map fun p => c.h p.1 / 65536 }
  let b := { b.blur r.scratch r.scratchLen with ln.colls := SMap.set b.ln.colls {} reg { r with runs := r.runs + 1 } }
  let ms := if r.op = 5 then ((g.ranks.map (·.1)).dedup.filter fun (m : Nat) => decide (m ≠ b.self)) else b.neighbourModules g
  let ep := b.groupEpoch r.group
  let b := ms.foldl (fun b m => b.groupSend m 1 .ready [c.f 1 15 0, ep, reg, r.runs, regHashOf r] [] (some fl.uid)) b
  let todo := if r.op = 5 then [] else
    (mine.filter fun k => decide (r.op ≠ 3 ∨ k = r.root)).flatMap fun k => (List.range (chunksOf r)).map fun i => (k, i)
  let x : ClRun := { fl := fl, group := r.group, reg := reg, run := r.runs, todo := todo }
  let b := if r.op = 5 then b else mine.foldl (fun b k =>
    [0, 1].foldl (fun b t => if interior t n k then b.announce x t k (positions r) else b) b) b
  let (b, x) := if r.op = 5 then b.a2aStart x r else (b, x)
  let (pos, others) := b.ln.posIn.partition fun y =>
    decide (y.getD 1 0 = c.f 1 15 0 ∧ y.getD 2 0 = ep ∧ y.getD 3 0 = reg)
  let b := { b with ln.posIn := others }
  let b := b.runGo (pos.foldl (fun x y => b.takePos x (y.getD 0 0) (y.getD 4 0) (y.getD 5 0)) x)
  let (early, rest) := b.ln.readyIn.partition fun y =>
    decide (y.getD 1 0 = c.f 1 15 0 ∧ y.getD 2 0 = ep ∧ y.getD 3 0 = reg ∧ y.getD 4 0 = r.runs)
  early.foldl (fun b y =>
    match b.ln.runs.find? fun z => decide (z.fl.uid = fl.uid) with
    | some z => b.takeReady z (y.getD 0 0) (y.getD 5 0)
    | none => b) { b with ln.readyIn := rest }

/-- CL_RUN (R367). A run of the registration in progress makes it wait. -/
def execClRun (c : Cmd) (s : State) : Host.Outcome State Fault Refusal :=
  s.onBody fun b => b.onCmd c 0x63 fun b fl =>
    match b.regFor fl with
    | none => b.fail fl (if ((b.groupIndex (c.f 1 15 0)).map b.groupState).getD 2 = 2 then 0x11 else 0x30)
    | some r =>
      if r.closing.isSome then b.fail fl 0x11
      else if b.groupState r.group ≠ 2 then b.fail fl 0x30
      else if b.ln.runs.any fun x => decide (x.reg = c.f 1 22 16) then b
      else
        let g := b.group r.group
        let n := g.ranks.length
        let l := (b.localRanks g).length
        match b.firstBad fl (clHandles c r n l) with
        | some (st, h) => b.fail fl st h
        | none =>
          let pairsBad := decide (r.op = 5) && (g.ranks.map (·.1)).any fun (m : Nat) =>
            decide (m ≠ b.self ∧ b.bundle m (b.partOfSlot fl.slot) 3 = [])
          if pairsBad then b.fail fl 0x11
          else if r.op = 5 then
            match b.access fl.slot (c.h 2) (32 * c.f 2 37 18) (b.a2aSrc fl r n l) false with
            | .error st => b.fail fl st (c.h 2)
            | .ok _ => b.runStart fl r
          else b.runStart fl r

/-- The run a message names, in a group of its epoch. -/
def Body.runFor (b : Body) (group epoch reg run : Nat) : Option ClRun :=
  match b.groupIndex group with
  | some i => if b.groupEpoch i = epoch then
      b.ln.runs.find? fun x => decide (x.group = i ∧ x.reg = reg ∧ x.run = run) else none
  | none => none

/-- A message of a group is stale. -/
def Body.isStale (b : Body) (group epoch : Nat) : Bool :=
  match b.groupIndex group with
  | some i => decide (epoch < b.groupEpoch i)
  | none => false

/-- READY (R367). One that comes before its CL_RUN is kept. -/
def execReady (peer : Nat) (group epoch reg run hash : Nat) (s : State) : Host.Outcome State Fault Refusal :=
  s.onBody fun b =>
    if b.isStale group epoch then b.stale peer group epoch
    else
      match b.runFor group epoch reg run with
      | some x => b.takeReady x peer hash
      | none => { b with ln.readyIn := b.ln.readyIn ++ [[peer, group, epoch, reg, run, hash]] }

/-- COLLECTIVE_CHUNK (R368-R371): a chunk for a local rank, from a child or the parent, or of ALL_TO_ALL. -/
def execCollectiveChunk (peer : Nat) (k : Chunk) (s : State) : Host.Outcome State Fault Refusal :=
  s.onBody fun b =>
    if b.isStale k.group k.epoch then b.stale peer k.group k.epoch
    else
      match b.runFor k.group k.epoch k.reg k.run with
      | none => b
      | some x =>
        let r := b.coll x.reg
        if b.rankModule x k.dst ≠ b.self then b
        else if r.op = 5 then
          let (b, x) := b.a2aTake x r k.src k.dst k.index k.data
          b.runGo x
        else if k.down then
          let (b, x) := b.downAt x r k.tree k.src k.index k.data 12 k.dst
          b.runGo x
        else b.runGo (b.upAt x r k.tree k.dst k.src (if gathers r.op then k.src else 0) k.index k.data)

/-- FREE_POSITION (R370): positions of the parents on a module, in a tree, of this module's ranks. Those that come before
the CL_RUN are kept. -/
def execFreePosition (peer : Nat) (group epoch reg tree : Nat) (count : Nat) (s : State) :
    Host.Outcome State Fault Refusal :=
  s.onBody fun b =>
    if b.isStale group epoch then b.stale peer group epoch
    else
      match b.groupIndex group with
      | none => b
      | some i =>
        match b.ln.runs.find? fun x => decide (x.group = i ∧ x.reg = reg) with
        | none => { b with ln.posIn := b.ln.posIn ++ [[peer, group, epoch, reg, tree, count]] }
        | some x => b.runGo (b.takePos x peer tree count)

end Sys2Proof.Machine
end

