-- ==== Sys2Proof/Machine/Twin.lean ====
section
/-!
DEFINITION. The Twin (R372-R375): mirror ranges, mirror copies, pairing, and a handover received. Detaching evicts
contexts and stands with them.
-/

namespace Sys2Proof.Machine

/-- BW_TWIN_STAT.STATE. -/
def Body.twinState (b : Body) : Nat := b.getF .bwTwinStat Fld.bwTwinStatState

/-- Changes the Twin's state beside its registers. -/
def Body.updTwin (b : Body) (f : Twin → Twin) : Body := { b with ln.twin := f b.ln.twin }

/-- MIRRORS and DIRTY follow the mirror ranges (R380). -/
def Body.syncMirrors (b : Body) : Body :=
  b.setF .bwTwinStat Fld.bwTwinStatMirrors (min 16 b.ln.twin.mirrors.length)

/-- Granules of a mirror range. -/
def granules (m : Mirror) : Nat := ceilDiv m.size 65536

/-- Granules of a mirror range whose bits are set. -/
def Body.marked (b : Body) (m : Mirror) : List Nat := (List.range (granules m)).filter fun i => b.mapBit m.bitmap i

/-- Sends a message on a Twin Line, chosen freely between those UP. -/
def Body.twinSend (b : Body) (vc : Nat) (kind : MsgKind) (nums : List Nat) (data : List Byte := [])
    (granule : Option Nat := none) : Body :=
  let (w, b) := b.free
  match b.twinLines[w.toNat % max 1 b.twinLines.length]? with
  | some l => b.lineSend l vc { port := .line l, kind := kind, nums := nums, data := data } none granule
  | none => b

/-- The entries TW_MIRROR names, or the status of the first check that fails (R373). -/
def Body.mirrorArgs (b : Body) (fl : Flight) : Except Nat (Entry × Entry) :=
  match b.resolve fl.slot (fl.cmd.h 1), b.resolve fl.slot (fl.cmd.h 2) with
  | some e, some m =>
    if e.place ∉ [2, 3] ∨ m.place ∉ [2, 3] ∨ b.ln.twin.mirrors.length ≥ 16 then .error 0x11
    else if m.size * 8 < ceilDiv e.size 65536 ∨ ¬ b.accessOk m 0 m.size true then .error 0x11
    else .ok (e, m)
  | _, _ => .error 0x12

/-- TW_MIRROR with DIR SEND (R373). `announced` are the ACCEPT ranges the Twin has announced (log entry 28). -/
def execTwMirrorSend (c : Cmd) (announced : List (Nat × Nat)) (s : State) : Host.Outcome State Fault Refusal :=
  s.onBody fun b => b.onSub c 0x69 (!c.b 1 0) fun b fl =>
    match b.mirrorArgs fl with
    | .error st => b.fail fl st (c.h 1)
    | .ok (e, m) =>
      if ¬ announced.any fun p => decide (p.1 ≤ e.base ∧ e.base + e.size ≤ p.1 + p.2) then b.fail fl 0x11 (c.h 1)
      else
        let x : Mirror := { slot := fl.slot, handle := c.h 1, base := e.base, size := e.size, accept := false, bitmap := m.base }
        let b := b.updTwin fun t => { t with mirrors := t.mirrors ++ [x] }
        ((b.bump .bwTwinStat Fld.bwTwinStatDirty (b.marked x).length).syncMirrors).done fl

/-- TW_MIRROR with DIR ACCEPT (R373): the range is announced to the Twin. -/
def execTwMirrorAccept (c : Cmd) (s : State) : Host.Outcome State Fault Refusal :=
  s.onBody fun b => b.onSub c 0x69 (c.b 1 0) fun b fl =>
    match b.mirrorArgs fl with
    | .error st => b.fail fl st (c.h 1)
    | .ok (e, m) =>
      let x : Mirror := { slot := fl.slot, handle := c.h 1, base := e.base, size := e.size, accept := true, bitmap := m.base }
      let b := (b.updTwin fun t => { t with mirrors := t.mirrors ++ [x] }).syncMirrors
      (b.twinSend 1 .twinAccept [e.base, e.size]).done fl

/-- The first mirror range with a marked granule, and that granule. -/
def Body.firstMarked (b : Body) : Option (Nat × Mirror × Nat) :=
  ((List.range b.ln.twin.mirrors.length).zip b.ln.twin.mirrors).findSome? fun p =>
    if p.2.accept then none else (b.marked p.2).head?.map fun g => (p.1, p.2, g)

/-- MIRROR_COPY (R373): the engine clears a marked granule's bit, then reads it and sends it on VC5. In DETACHED VC5 does
not run (R372). -/
def execMirrorCopy (s : State) : Host.Outcome State Fault Refusal :=
  s.onBody fun b =>
    if b.twinLines = [] ∨ b.twinState = 4 then b
    else
      match b.firstMarked with
      | none => b
      | some (i, m, g) =>
        let b := b.setMapBit m.bitmap g false
        let b := b.setF .bwTwinStat Fld.bwTwinStatDirty (b.getF .bwTwinStat Fld.bwTwinStatDirty - 1)
        let b := b.updTwin fun t => { t with mirrors := t.mirrors.set i { m with inflight := m.inflight ++ [g] } }
        let a := m.base + g * 65536
        b.twinSend 5 .mirror [a] (b.bytes a (min 65536 (m.size - g * 65536))) (some (i * 2 ^ 32 + g))

/-- Starts a sync: the granules marked or in flight now, as granuleAcked numbers them (R374). -/
def Body.syncSet (b : Body) : List Nat :=
  ((List.range b.ln.twin.mirrors.length).zip b.ln.twin.mirrors).flatMap fun p =>
    if p.2.accept then [] else ((b.marked p.2 ++ p.2.inflight).dedup).map fun g => p.1 * 2 ^ 32 + g

/-- TW_SYNC (R374). -/
def execTwSync (c : Cmd) (s : State) : Host.Outcome State Fault Refusal :=
  s.onBody fun b => b.onCmd c 0x6A fun b fl =>
    match b.syncSet with
    | [] => b.done fl
    | gs =>
      if b.twinLines = [] then b.fail fl 0x21
      else (b.start fl).updTwin fun t => { t with syncs := t.syncs ++ [(fl, gs)] }

/-- Both modules have issued PAIR (R375). -/
def Body.pairCheck (b : Body) : Body :=
  match b.ln.twin.localPair with
  | some fl =>
    if b.ln.twin.peerPair ∧ b.twinState = 1 then
      ((b.updTwin fun t => { t with localPair := none, peerPair := false }).setF .bwTwinStat Fld.bwTwinStatState 2).done fl
    else b
  | none => b

/-- TW_CTL PAIR (R375): requires LINKED, and completes when the Twin has issued PAIR too. -/
def execTwCtlPair (c : Cmd) (s : State) : Host.Outcome State Fault Refusal :=
  s.onBody fun b => b.onSub c 0x68 (c.f 1 1 0 = 0) fun b fl =>
    if b.twinState ≠ 1 ∨ b.ln.twin.localPair.isSome then b.fail fl 0x11
    else
      let b := (b.start fl).updTwin fun t => { t with localPair := some fl }
      (b.twinSend 1 .twinPair []).pairCheck

/-- TWIN_PAIR_MESSAGE (R375): the Twin's PAIR arrives on a Twin Line. -/
def execTwinPairMessage (l : Fin 36) (s : State) : Host.Outcome State Fault Refusal :=
  s.onBody fun b =>
    if l.val ∈ b.twinLines then (b.updTwin fun t => { t with peerPair := true }).pairCheck else b

/-- Closes the mirror ranges that satisfy a condition. TW_SYNCs wait only for ranges that stay open. -/
def Body.closeMirrors (b : Body) (p : Mirror → Bool) : Body :=
  let keep := ((List.range b.ln.twin.mirrors.length).zip b.ln.twin.mirrors).filter fun q => !p q.2
  let sy := b.ln.twin.syncs.map fun q => (q.1, q.2.filterMap fun k =>
    (keep.findIdx? fun z => decide (z.1 = k / 2 ^ 32)).map fun j => j * 2 ^ 32 + k % 2 ^ 32)
  let dirty := ((keep.filter fun q => !q.2.accept).map fun q => (b.marked q.2).length).sum
  let b := b.updTwin fun t => { t with mirrors := keep.map (·.2), syncs := sy.filter fun q => decide (q.2 ≠ []) }
  let b := (sy.filter fun q => decide (q.2 = [])).foldl (fun b q => if b.ln.twin.detach = some q.1 then b else b.done q.1) b
  (b.setF .bwTwinStat Fld.bwTwinStatDirty dirty).syncMirrors

/-- TW_CTL UNPAIR (R375): every mirror range closes, and a paired module is LINKED. -/
def execTwCtlUnpair (c : Cmd) (s : State) : Host.Outcome State Fault Refusal :=
  s.onBody fun b => b.onSub c 0x68 (c.f 1 1 0 = 1) fun b fl =>
    let b := b.closeMirrors fun _ => true
    (if b.twinState = 2 then b.setF .bwTwinStat Fld.bwTwinStatState 1 else b).done fl

/-- MIRROR_WRITE (R373): a mirror write enters only an ACCEPT range, and only from a Twin Line. -/
def execMirrorWrite (l : Fin 36) (addr : Nat) (data : List Byte) (s : State) : Host.Outcome State Fault Refusal :=
  s.onBody fun b =>
    let inRange := b.ln.twin.mirrors.any fun m =>
      m.accept && decide (m.base ≤ addr ∧ addr + data.length ≤ m.base + m.size)
    if l.val ∈ b.twinLines ∧ inRange then b.store addr data else b

/-- HANDOVER (R375): the list of save areas (address, context) is recorded, and the state becomes HOLDING. -/
def execHandover (l : Fin 36) (areas : List (Nat × Nat)) (s : State) : Host.Outcome State Fault Refusal :=
  s.onBody fun b =>
    if l.val ∈ b.twinLines then
      let a := areas.take 64
      let b := ((List.range a.length).zip a).foldl (fun b p =>
        (b.setF (.bwTwinHand p.1) Fld.bwTwinHandSaveBase p.2.1).setF (.bwTwinHand p.1) Fld.bwTwinHandCtx p.2.2) b
      (b.setF .bwTwinStat Fld.bwTwinStatHanded a.length).setF .bwTwinStat Fld.bwTwinStatState 5
    else b

end Sys2Proof.Machine
end

