-- ==== Sys2Proof/Machine/Reset.lean ====
section
/-!
DEFINITION. Resets (R105, R134, R224, R263, R296, R376, R444-R448): a CTX reset, and what a QUAY or PART reset does.
-/

namespace Sys2Proof.Machine

/-! ### Commands end -/

/-- A command is taken out of every unit that works on it, without a completion. -/
def Body.forgetOne (b : Body) (uid : Nat) : Body :=
  let no (fl : Flight) : Bool := decide (fl.uid ≠ uid)
  let b := match b.opOf uid with
    | some o => b.dropOp o
    | none => b
  let b := (b.runBerths uid).foldl (fun b g => (b.dropHeld g).stopRun g) b
  let mine (d : Option Drain) : Bool := d.any fun x => decide (x.uid = uid)
  let b := ((b.berths.filter fun p => mine p.2.due || mine p.2.shadow).map (·.1)).foldl (fun b g =>
    (b.updBerth g fun x => { x with
      due := if mine x.due then none else x.due, shadow := if mine x.shadow then none else x.shadow }).syncTruss g) b
  let t := b.ln.twin
  { b with
    st.ents := b.st.ents.filter (fun p => no p.1),
    st.zeroWait := b.st.zeroWait.filter (fun p => no p.1),
    st.gwWait := b.st.gwWait.filter (fun p => no p.1),
    jigs := b.jigs.filter no,
    hm.waits := b.hm.waits.filter (fun p => no p.1),
    hm.halting := b.hm.halting.filter (fun p => no p.1),
    hm.ctxs := b.hm.ctxs.map (fun (p : Nat × CtxInfo) =>
      if p.2.step.any (fun r => decide (r.fl.uid = uid)) then (p.1, { p.2 with step := none }) else p),
    crates.reserved := b.crates.reserved.filter (fun r => decide (r.1 ≠ uid)),
    crates.loads := b.crates.loads.filter (fun r => decide (r.uid ≠ uid)),
    rnd.waits := b.rnd.waits.filter (fun u => decide (u ≠ uid)),
    rnd.mixes := b.rnd.mixes.filter (fun p => no p.1),
    ferry.streams := b.ferry.streams.map (fun (p : Nat × FyStream) =>
      (p.1, { p.2 with queue := p.2.queue.filter no, closing := p.2.closing.filter no })),
    ferry.pipes := b.ferry.pipes.map (fun (p : FyPipe) => { p with fl := p.fl.filter no }),
    ferry.sounds := b.ferry.sounds.filter (fun x => no x.fl),
    ln.remote := b.ln.remote.filter (fun x => no x.fl),
    ln.runs := b.ln.runs.filter (fun x => no x.fl),
    ln.groups := b.ln.groups.map (fun (p : Nat × Group) => (p.1, { p.2 with waiting := p.2.waiting.filter no })),
    ln.colls := b.ln.colls.map (fun (p : Nat × Registration) => (p.1, { p.2 with closing := p.2.closing.filter no })),
    ln.lines := b.ln.lines.map (fun (p : Nat × LineInfo) => (p.1, { p.2 with ctl := p.2.ctl.filter no })),
    ln.twin := { t with localPair := t.localPair.filter no, detach := t.detach.filter no, syncs := t.syncs.filter (fun p => no p.1) },
    power.waits := b.power.waits.filter (fun (w : PwWait) => no w.fl),
    power.stateCmd := b.power.stateCmd.filter no,
    tele.probe := b.tele.probe.filter (fun (p : Probe) => no p.fl),
    tele.dbg := b.tele.dbg.filter (fun (d : DbgRun) => no d.fl) }

/-- Commands in flight end with a status, oldest first (R296, R444). -/
def Body.abort (b : Body) (fls : List Flight) (status : Nat) : Body :=
  let b := fls.foldl (fun b fl => b.forgetOne fl.uid) b
  fls.foldl (fun b fl => b.fail fl status) b

/-! ### Queue entries (R281, R284) -/

/-- Word `i` of the entries of a queue's ring from entry `head` on. -/
def Body.ringWord (b : Body) (n head i : Nat) : Word :=
  BitVec.ofNat 64 (b.le (wqBase n + (head + i / 8) % 4096 * 64 + i % 8 * 8) 8)

/-- The command whose first entry is `head` of a queue's ring: its opcode as taken, its descriptor with LENGTH as taken, and the
fields clamped (R281, R282). -/
def Body.ringCmd (b : Body) (wq : Fin 64) (head : Nat) : Nat × Cmd × Nat :=
  let h := b.ringWord wq head 0
  let l := legalLength (h.fld 63 56) (h.fld 15 0)
  let (o, c) := cmdOf wq h ((List.range (8 * l - 1)).map fun i => b.ringWord wq head (i + 1))
  let res := reservedOpc o
  (if res then 0 else o, { c with length := BitVec.ofNat 16 l }, (if res then 1 else 0) + diff l (h.fld 15 0))

/-- HEAD of a queue after `n` entries. -/
def Body.advanceHead (b : Body) (wq : Nat) (n : Nat) : Body :=
  b.setF (.hmWqPtr wq) Fld.hmWqPtrHead ((b.getF (.hmWqPtr wq) Fld.hmWqPtrHead + n) % 8192)

/-- The queues bound to a context. -/
def Body.queuesOf (b : Body) (ctx : Nat) : List (Fin 64) :=
  (List.finRange 64).filter fun n => decide (b.getF (.hmWqCfg n) Fld.hmWqCfgCtx = ctx)

/-- The commands rung on a queue and not dispatched, each whole, up to `k` (R284, R285). -/
def Body.queued (b : Body) (wq : Fin 64) : Nat → Nat → Nat → List (Nat × Cmd)
  | 0, _, _ => []
  | k + 1, head, left =>
    let (o, c, _) := b.ringCmd wq head
    let l := max 1 c.length.toNat
    if left = 0 ∨ l > left then [] else (o, c) :: Body.queued b wq k ((head + l) % 8192) (left - l)

/-- A command that ends without having been dispatched (log entry 45). -/
def Body.endUndispatched (b : Body) (slot status : Nat) (x : Nat × Cmd) : Body :=
  let fl : Flight := { uid := b.hm.nextUid, cmd := x.2, opc := x.1, slot := slot, priv := b.flag (.hmWqCfg x.2.wq) Fld.hmWqCfgPriv }
  { b with hm.nextUid := b.hm.nextUid + 1 }.fail fl status

/-- The commands queued by a slot and not dispatched, or returned undispatched, end with a status; HEAD and TAIL become 0 (R296). -/
def Body.endQueued (b : Body) (slot status : Nat) : Body :=
  let back := b.hm.returned.filter fun x => decide (x.slot = slot)
  let b := back.foldl (fun b x => b.fail x status) { b with hm.returned := b.hm.returned.filter fun x => decide (x.slot ≠ slot) }
  (b.queuesOf (b.ctxOfSlot slot)).foldl (fun b n =>
    let cs := b.queued n 4096 (b.getF (.hmWqPtr n) Fld.hmWqPtrHead) (b.rung n)
    let b := cs.foldl (fun b x => b.endUndispatched slot status x) b
    let b := (b.setF (.hmWqPtr n) Fld.hmWqPtrHead 0).setF (.hmWqPtr n) Fld.hmWqPtrTail 0
    { b with hm.skips := SMap.drop b.hm.skips n }) b

/-! ### What a context owns -/

/-- A Ferry stream closes under a reset: frames in pipes end with ABORTED_BY_HOST, and its register takes its reset value (R263). -/
def Body.ferryClose (b : Body) (k : Nat) : Body :=
  let ps := (List.range 8).filter fun i => (b.pipe i).busy && decide ((b.pipe i).stream = k)
  let fls := ps.filterMap fun i => (b.pipe i).fl
  let b := ps.foldl (fun b i => (b.setPipe i {}).syncPipe i false) b
  ((fls.foldl (fun b fl => b.fail fl 0x41) b).closeStream k).setReg (.fyStreamStat k) (Reg.dflt (.fyStreamStat k))

/-- Every stream of a slot closes. -/
def Body.ferryReset (b : Body) (slot : Nat) : Body :=
  ((b.ferry.streams.filter fun p => decide (p.2.slot = slot)).map (·.1)).foldl Body.ferryClose b

/-- The groups of a context are dissolved, and their neighbours hear BROKEN (R376). -/
def Body.groupsReset (b : Body) (ctx : Nat) : Body :=
  ((List.range 64).filter fun i => decide (b.groupState i ≠ 0 ∧ b.getF (.bwGroupStat i) Fld.bwGroupStatCtx = ctx)).foldl (fun b i =>
    let id := b.getF (.bwGroupStat i) Fld.bwGroupStatGroup
    let b := (b.neighbourModules (b.group i)).foldl (fun b m => b.groupSend m 1 .broken [id, b.groupEpoch i]) b
    b.dissolve i 0x41) b

/-- A copy under way is given up: its entry returns to its source's state (R224). -/
def Body.moveBack (b : Body) (x : CrateMove) : Body :=
  match b.crateMap x.map with
  | none => b
  | some m =>
    let st := match b.slotOfMap m x.src with
      | some (k, _) => ((b.pool k).map Pool.state).getD 2
      | none => 2
    (b.setCrateEnt m x.stream x.crate { b.crateEnt m x.stream x.crate with state := st }).releaseSlot m x.dst

/-- The Crate store of a context under a CTX reset (R224): copies are given up, REBUILDING entries become DROPPED, its maps close as with
KEEP, its pools are destroyed. -/
def Body.crateReset (b : Body) (slot : Nat) : Body :=
  let own (k : Nat) : Bool := (b.crateMap k).any fun m => decide (m.slot = slot)
  let (mine, rest) := b.crates.moves.partition fun x => own x.map
  let b := mine.foldl Body.moveBack { b with crates.moves := rest }
  let b := (b.crates.maps.filter fun p => decide (p.2.slot = slot)).foldl (fun b p =>
    (List.range p.2.nstream).foldl (fun b s => (List.range p.2.nc).foldl (fun b n =>
      let e := b.crateEnt p.2 s n
      if e.state = 8 then (b.dropEntry p.2 s n).releaseSlot p.2 e.slot else b) b) b) b
  let pools := (b.crates.pools.filter fun p => decide (p.2.slot = slot)).map (·.1)
  let b := { b with
    crates.maps := b.crates.maps.filter (fun p => decide (p.2.slot ≠ slot)),
    crates.rebuilds := b.crates.rebuilds.filter (fun r => decide (r.fl.slot ≠ slot)),
    crates.pools := b.crates.pools.filter (fun p => decide (p.2.slot ≠ slot)) }
  pools.foldl (fun b k => b.syncPool k) b

/-- The Manifest of a slot holds no valid entry; each keeps its GEN (R111). -/
def Body.manifestClear (b : Body) (slot : Nat) : Body :=
  { b with st.manifest := b.st.manifest.filterMap fun (p : Nat × Entry) =>
      if p.1 / 1024 = slot then (if p.2.gen = 1 then none else some (p.1, { gen := p.2.gen })) else some p }

/-- The scalar registers, chain slots and batch table of a slot are cleared (R296). -/
def Body.ctxClear (b : Body) (slot : Nat) : Body :=
  { b with
    hm.sregs := b.hm.sregs.filter (fun p => decide (p.1 / 256 ≠ slot)),
    hm.chains := b.hm.chains.filter (fun p => decide (p.1 / 64 ≠ slot)),
    hm.batch := b.hm.batch.filter (fun p => decide (p.1 / 256 ≠ slot)) }

/-- The Gangways of a slot close as by GW_CLOSE: what they have accepted completes (R116). -/
def Body.gwReset (b : Body) (slot : Nat) : Body :=
  ((List.range 64).filter fun g => (b.gw g).opened && decide ((b.gw g).slot = slot)).foldl (fun b g => (b.gwShut g).gwDrain g) b

/-- The Benches that hold a context's data are zeroed (R151). -/
def Body.benchReset (b : Body) (ctx : Nat) : Body :=
  ((List.range 200).filter fun g => decide (b.getF (.brJyStat g) Fld.brJyStatBenchOwner = ctx)).foldl Body.benchClear b

/-- The claim-slot registers of a context are cleared (R135). -/
def Body.claimReset (b : Body) (ctx : Nat) : Body :=
  (List.range 10).foldl (fun b q => (List.range 8).foldl (fun b n =>
    if b.getF (.qyClaimBase q n) Fld.qyClaimBaseCtx = ctx then
      (b.setReg (.qyClaimBase q n) (Reg.dflt (.qyClaimBase q n))).setReg (.qyClaimSeq q n) (Reg.dflt (.qyClaimSeq q n))
    else b) b) b

/-- A CTX reset of a slot (R296): its commands end with a status, except the one given, which ordered it (log entry 46). The context
stays open with its queues bound, its save area and its halt state; an interrupted pre-emption leaves it halted. -/
def Body.ctxReset (b : Body) (slot status : Nat) (keep : Option Nat := none) : Body :=
  let ctx := b.ctxOfSlot slot
  let i := b.info slot
  let mine (x : Flight) : Bool := decide (x.slot = slot ∧ some x.uid ≠ keep)
  let fls := sortBy (fun x y => decide (x.uid ≤ y.uid)) (i.saved ++ b.hm.flights.filter mine)
  let b := b.abort fls status
  let b := b.endQueued slot status
  let b := (b.ferryReset slot).groupsReset ctx
  let b := (b.closeMirrors fun m => decide (m.slot = slot)).crateReset slot
  let b := (b.gwReset slot).manifestClear slot
  let b := (b.ctxClear slot).zeroStart (b.allotted slot)
  let b := ((b.benchReset ctx).claimReset ctx).updInfo slot fun i => { saveBase := i.saveBase, closing := i.closing }
  let b := if slot < 64 then
      let b := b.setF (.hmCtxStat slot) Fld.hmCtxStatSteps 0
      let b := if b.getF (.hmCtxStat slot) Fld.hmCtxStatState = 2 then b.setF (.hmCtxStat slot) Fld.hmCtxStatState 1 else b
      if b.getF .hmStepStat Fld.hmStepStatCtx = ctx then b.setReg .hmStepStat (Reg.dflt .hmStepStat) else b
    else b
  (b.queuesOf ctx).foldl (fun b n => b.syncIn n slot) b

/-! ### Registers under a reset (R10, R11, R448) -/

/-- The fields of a register that are not kept through a reset or state take their reset values. -/
def Body.resetReg (k : Keep) (b : Body) (r : Reg) : Body :=
  r.fields.foldl (fun b f => if k ∈ f.kept then b else b.setF r f (f.resetVal b.framing r)) b

/-- The registers of a Berth. -/
def berthRegs (g : Nat) : List Reg :=
  [.brFmtTally g, .brRampCtl g, .brTrussStat g, .brTrussBusy g, .brTrussStall g, .brConflictRec g, .brHoldPwr g, .brJyCfg g, .brJyStat g,
    .brJyStall g, .brJyBusy g, .brLatheStat g, .brLatheTally g, .brLatheStall g, .brScarfTally g, .brScarfStat g, .rpDraws g,
    .brPwrCtl g, .brPwrStat g, .brTeredo g]

/-- The registers that a Quay die holds. -/
def quayRegs (q : Nat) : List Reg :=
  ((List.range 20).flatMap fun i => berthRegs (20 * q + i)) ++ [.qyStagger q, .qyShedPwr q, .qyTileStat q, .qyStealStat q] ++
    (List.range 8).flatMap fun n => [.qyClaimBase q n, .qyClaimSeq q n]

/-- The registers with fields that framing values feed (R402). -/
def fiRegs : List Reg :=
  ((List.range 200).flatMap fun g => [Reg.brRampCtl g, .brHoldPwr g, .brJyCfg g]) ++
    ((List.range 10).flatMap fun q => [Reg.qyStagger q, .qyShedPwr q, .wtShedRetain q]) ++
    ((List.range 64).map fun n => Reg.hmWqCfg n) ++ ((List.range 11).flatMap fun i => (List.range 3).map fun t => Reg.slCfg i t) ++
    ((List.range 36).map fun l => Reg.lnCfg l) ++ ((List.range 8).map fun p => Reg.epPortCfg p) ++
    [.mtCfg, .bwVcCfg, .epPtpCfg, .scDebugStat, .wtMpl]

/-! ### QUAY and PART (R444) -/

/-- The Quays in whose Holds or Sheds the tables and pools of a slot's Crate Maps lie. -/
def Body.crateQuays (b : Body) (slot : Nat) : List Nat :=
  let at_ (a : Nat) : List Nat := if regionOf a < 1780 then [regionQuay (regionOf a)] else []
  ((b.crates.maps.filter fun p => decide (p.2.slot = slot)).flatMap fun p =>
    at_ p.2.table ++ p.2.pools.flatMap fun k => match b.pool k with
      | some x => at_ x.base
      | none => []).dedup

/-- The Quays that a command in flight uses: those of its tiled operation, its run, the slices and segments it may access, its Crate
Maps, and the Berths it waits for. -/
def Body.usedQuays (b : Body) (x : Flight) : List Nat :=
  let op := b.opOf x.uid
  let crate : Bool := decide (0x50 ≤ x.opc ∧ x.opc ≤ 0x54) || op.any fun o => decide (o.kind = 5)
  (((op.map TileOp.quays).getD []) ++ ((b.runBerths x.uid).map (· / 20)) ++ (if x.started then x.uses.map regionQuay else []) ++
    (if crate then b.crateQuays x.slot else []) ++
    (b.power.waits.filter fun (w : PwWait) => decide (w.fl.uid = x.uid)).flatMap fun (w : PwWait) => w.berths.map (· / 20)).dedup

/-- The resident contexts of the partitions that hold some Quays. -/
def Body.contextsOn (b : Body) (qs : List Nat) : List Nat :=
  (List.range 64).filter fun k =>
    decide (b.getF (.hmCtxStat k) Fld.hmCtxStatState ≠ 3) && (b.quaysOfSlot k).any fun q => decide (q ∈ qs)

/-- Gangways whose buffers lie in a Hold or Shed of a Quay close; accesses accepted end with LINE_LOST (R116). -/
def Body.gwLost (b : Body) (qs : List Nat) : Body :=
  let gs := (List.range 64).filter fun g =>
    (b.gw g).opened && decide ((b.gw g).place < 2) && decide (regionQuay (regionOf (b.gw g).base) ∈ qs)
  (gs.foldl (fun b g =>
    let mine := b.st.gwPend.filter fun p => decide (p.gw = g)
    let b := { b with st.gwPend := b.st.gwPend.filter (fun p => decide (p.gw ≠ g)), st.gws := SMap.drop b.st.gws g }
    mine.foldl (fun b p => b.gwReply p.req 0x21 []) b) b).gwCloseDone

/-- The slices and segments of a Quay after its reset: those that have power are zeroed once it is back (R103, R105). -/
def Body.regionsReset (b : Body) (q : Nat) : Body :=
  ((List.range 160).map (160 * q + ·) ++ (List.range 18).map (1600 + 18 * q + ·)).foldl (fun b r =>
    let b := { b.loseRegion r with
      st.powerPend := b.st.powerPend.filter (fun x => decide (x ≠ r)), st.powering := b.st.powering.filter (fun x => decide (x ≠ r)) }
    if b.regionOn r ∧ b.domainUp r then
      { b with st.powering := b.st.powering ++ [r], st.zeroing := if r ∈ b.st.zeroing then b.st.zeroing else b.st.zeroing ++ [r] }
    else b) b

/-- The Quay dies' own state after a reset: Berths, Benches, Ripples, frame counter, registers, Holds and Sheds (R72, R94, R151, R160,
R270, R448). -/
def Body.quayState (b : Body) (q : Nat) (k : Keep) : Body :=
  let gs := (List.range 20).map (20 * q + ·)
  let b := { b with
    berths := b.berths.filter (fun p => decide (p.1 / 20 ≠ q)), power.berths := b.power.berths.filter (fun p => decide (p.1 / 20 ≠ q)),
    st.frameCtr := SMap.drop b.st.frameCtr q }
  let b := gs.foldl Body.benchClear b
  let b := b.ripplesLost ((List.range 80).map (80 * q + ·))
  let b := (quayRegs q).foldl (Body.resetReg k) b
  let code := if k = .part then 2 else 3
  let b := (gs.foldl (fun b g => b.log 0 g 0x0C 0 0xFFFF 0 code) b).log 1 q 0x0C 0 0xFFFF 0 code
  b.regionsReset q

/-- A reset of Quays (R444): commands that use them end, with ABORTED_BY_HOST where it reaches all they use and LINE_LOST otherwise; the
contexts of their partition lose the Manifest entries, Ferry streams and Crate stores that lie there; groups of their ranks break. -/
def Body.quayReset (b : Body) (qs : List Nat) (k : Keep) : Body :=
  let hit (q : Nat) : Bool := decide (q ∈ qs)
  let b := b.abort (b.jigs.filter fun x => (b.quaysOfSlot x.slot).any hit) 0x21
  let slots := b.contextsOn qs
  let crate := slots.filter fun s => (b.crateQuays s).any hit
  let (full, part) := (b.hm.flights.filter fun x => (b.usedQuays x).any hit).partition fun x => (b.usedQuays x).all hit
  let b := (b.abort full 0x41).abort part 0x21
  let b := crate.foldl Body.crateReset b
  let b := slots.foldl Body.ferryReset b
  let b := (List.range 64).foldl (fun b i =>
    let g := b.group i
    if b.groupState i ≠ 0 ∧ (b.localRanks g).any fun r => hit (g.ranks.getD r (0, 0)).2 then b.breakGroup i 1 else b) b
  let b := b.gwLost qs
  let b := slots.foldl Body.manifestClear b
  qs.foldl (fun b q => b.quayState q k) b

/-- What a PART reset does to its partition beside its contexts and Quays: Jig banks, Sluices and counters (R180, R342). -/
def Body.partState (b : Body) (p : Nat) : Body :=
  let b := { b with mem := SMap.clearRange b.mem (jigBase p 0) (jigBase (p + 1) 0) }
  let b := [Reg.hmCrateTally p, .hmCrateFault p, .slStat p 0, .slStat p 1, .slStat p 2].foldl (Body.resetReg .part) b
  [0, 1, 2].foldl (fun b t =>
    let v := frGet b.framing (0x048 + t) p
    let b := b.setSluice p t { b.sluice p t with waiting := List.replicate 12 0 }
    b.slPut p t (b.slFit p t (v % 65536) fun j => b.getF (.slCfg j t) Fld.slCfgRate) (v / 65536 % 65536)) b

/-- A PART reset (R444): a CTX reset of each of its contexts, then each of its Quays, its Sluices and its Jig banks. A JIG_LOAD ends with
LINE_LOST (R181). `keep` is the command that ordered it. -/
def Body.partReset (b : Body) (p : Nat) (keep : Option Nat := none) : Body :=
  let b := b.abort (b.jigs.filter fun x => decide (b.partOfSlot x.slot = some p)) 0x21
  let slots := (List.range 64).filter fun s => decide (b.getF (.hmCtxStat s) Fld.hmCtxStatState ≠ 3 ∧ b.partOfSlot s = some p)
  let b := slots.foldl (fun b s => b.ctxReset s 0x41 keep) b
  (b.quayReset (quaysOf b.framing p) .part).partState p

/-- WT_STATE after a reset: its kind and source (R456). -/
def Body.noteReset (b : Body) (kind src : Nat) : Body :=
  (b.setF .wtState Fld.wtStateResetKind kind).setF .wtState Fld.wtStateResetSrc src

end Sys2Proof.Machine
end

