-- ==== Sys2Proof/Machine/Preempt.lean ====
section
/-!
DEFINITION. Pre-emption (R304, R305): the points of commands in flight, what they save, when a pre-emption is complete, and how saved
commands go on (R306).
-/

namespace Sys2Proof.Machine

/-! ### Points (R304) -/

/-- The opcodes whose commands have a point. -/
def pointOpc (o : Nat) : Bool :=
  decide (o ∈ [0x40, 0x42, 0x43, 0x44, 0x45, 0x49, 0x4A, 0x52, 0x53, 0x54, 0x59, 0x5A, 0x5B, 0x5D])

/-- A command in flight stands at its point: before its start; between tiles, spans, blocks, rows and chunks; at an instruction boundary
with nothing held in or draining from its Trusses (R72, R160); between streams (R222); a REBUILD once its recipe command is saved
(R220). A collective run has one only before its start. -/
def Body.atPoint (b : Body) (fl : Flight) : Bool :=
  let p (j : Nat) : Nat := fl.progress.getD j 0
  if ¬ fl.started then pointOpc fl.opc || decide (fl.opc = 0x63)
  else if fl.opc = 0x4A then
    let gs := b.runBerths fl.uid
    decide (gs ≠ [] ∧ p 0 = 0) && !b.drainsOf fl.uid &&
      gs.all fun g => (b.berth g).held.isNone && b.trussIdle g && (b.berth g).raftWait.isNone
  else if fl.opc = 0x52 then decide (p 0 ≠ 0 ∨ p 2 = 0)
  else if fl.opc = 0x53 then decide (p 0 = 0) && !b.crates.moves.any fun (x : CrateMove) => decide (x.uid = fl.uid)
  else if fl.opc = 0x54 then
    !b.crates.rebuilds.any fun (r : Rebuild) => decide (r.fl.uid = fl.uid) && b.hm.flights.any fun x => decide (some x.uid = r.cur)
  else if fl.opc = 0x59 ∨ fl.opc = 0x5A then b.ferry.streams.any fun s => s.2.queue.any fun x => decide (x.uid = fl.uid)
  else pointOpc fl.opc

/-! ### Records (R305) -/

/-- The header word of a command as dispatched (R281). -/
def headerOf (opc : Nat) (c : Cmd) : Nat :=
  c.length.toNat + c.ctx.toNat * 2 ^ 16 + c.tag.toNat * 2 ^ 32 + (if c.fence then 2 ^ 48 else 0) + (if c.cpl then 2 ^ 49 else 0) +
    (if c.slack then 2 ^ 50 else 0) + opc * 2 ^ 56

/-- Exactly `n` words, zeros after the last. -/
def padWords (n : Nat) (l : List Nat) : List Nat := (l ++ List.replicate n 0).take n

/-- The 1,984 bytes of a command record: at most 16 descriptors, then the progress (log entry 39). -/
def commandRecord (fl : Flight) : List Byte :=
  let ds := headerOf fl.opc fl.cmd :: fl.cmd.words.map BitVec.toNat
  let flags := fl.cmd.wq.val + (if fl.inStep then 256 else 0) + (if fl.ecc then 512 else 0) + (if fl.priv then 1024 else 0) +
    (if fl.resumed then 2048 else 0) + fl.opc * 2 ^ 16 + fl.progress.length * 2 ^ 24 + fl.amaxes.length * 2 ^ 40
  let ps := [flags, fl.epochFirst + fl.epochLast * 2 ^ 32] ++ fl.amaxes.flatMap (fun p => [p.1, p.2]) ++ fl.progress
  (padWords 128 ds ++ padWords 120 ps).flatMap (leBytes 8)

/-- The address of command record `i` of a save area. -/
def commandAt (save i : Nat) : Nat := save + 0x13800 + 1984 * i

/-- Writes the records of the saved commands of a slot. -/
def Body.writeSaved (b : Body) (slot : Nat) : Body :=
  let i := b.info slot
  (List.range i.saved.length).foldl (fun b k =>
    match i.saved[k]? with
    | some fl => b.store (commandAt i.saveBase k) (commandRecord fl)
    | none => b) b

/-- The 16 bytes of a batch slot (R298). -/
def batchBytes (x : BatchSlot) : List Byte :=
  leBytes 4 x.seq ++ leBytes 1 x.state ++ leBytes 1 x.prio ++ leBytes 2 x.row ++ leBytes 4 x.tokens ++ leBytes 4 x.steps

/-- A batch slot as held. -/
def Body.batchSlot (b : Body) (slot i : Nat) : BatchSlot := SMap.get b.hm.batch {} (slot * 256 + i)

/-- Writes the batch table of a slot to its save area. -/
def Body.writeBatch (b : Body) (slot : Nat) : Body :=
  b.store ((b.info slot).saveBase + 0x32800) ((List.range 256).flatMap fun i => batchBytes (b.batchSlot slot i))

/-! ### Stopping at a point -/

/-- Record numbers as four words of 50 bits (log entry 39). -/
def maskWords (is : List Nat) : List Nat :=
  (List.range 4).map fun k => ((is.filter fun i => decide (i / 50 = k)).map fun i => 2 ^ (i % 50)).sum

/-- What a command at its point saves of its progress, and what its units then no longer hold. A pre-emption of a SCARF_OP's spans or
sweeps is counted on the lead Berth of each claim unit at work. -/
def Body.saveProgress (b : Body) (fl : Flight) : Body × List Nat :=
  let gs := b.runBerths fl.uid
  match b.opOf fl.uid with
  | some o =>
    let p := o.save b
    let leads := (o.units.filterMap List.head?).filter fun g => o.slots.any fun s => decide (s.1 = g / 20)
    let b := if 3 ≤ o.kind ∧ o.kind ≤ 5 then leads.foldl (fun b g => b.bump (.brScarfTally g) Fld.brScarfTallySpanPre 1) b else b
    (b.dropOp o, p)
  | none =>
    if gs ≠ [] then
      let ix (l : List Nat) : List Nat := l.map fun g => b.recordIndex fl.slot g
      let p := 0 :: maskWords (ix gs) ++ maskWords (ix (gs.filter fun g => (b.berth g).truss))
      (b.saveRun fl gs, p)
    else
      match b.ferry.sounds.find? fun x => decide (x.fl.uid = fl.uid) with
      | some x => (b, [0, planarF x.cur - x.left.length])
      | none => (b, fl.progress)

/-- A command at its point stops, and its state is written to the save area of its context. -/
def Body.savePoint (b : Body) (fl : Flight) : Body :=
  let no (x : Flight) : Bool := decide (x.uid ≠ fl.uid)
  let (b, p) := b.saveProgress fl
  let fl := { fl with started := false, handles := [], uses := [], progress := p }
  let b := { b with
    hm.flights := b.hm.flights.filter no,
    ferry.streams := b.ferry.streams.map (fun (s : Nat × FyStream) => (s.1, { s.2 with queue := s.2.queue.filter no })),
    ferry.sounds := b.ferry.sounds.filter (fun x => no x.fl),
    rnd.waits := b.rnd.waits.filter (fun u => decide (u ≠ fl.uid)) }
  let b := b.updInfo fl.slot fun i => { i with saved := sortBy (fun x y => decide (x.uid ≤ y.uid)) (i.saved ++ [fl]) }
  let b := ((b.writeSaved fl.slot).dbgEnd fl.uid 1 0).log 2 0 7 0 fl.cmd.ctx.toNat fl.cmd.tag.toNat fl.opc
  (b.syncIn fl.cmd.wq fl.slot).syncShadow fl.slot

/-- A waiting SREG_WAIT is returned to its queue undispatched. -/
def Body.returnWait (b : Body) (fl : Flight) : Body :=
  let no (x : Flight) : Bool := decide (x.uid ≠ fl.uid)
  let b := { b with
    hm.waits := b.hm.waits.filter (fun p => no p.1), hm.flights := b.hm.flights.filter no,
    hm.returned := b.hm.returned ++ [{ fl with started := false }] }
  (b.dbgEnd fl.uid 2 0).syncIn fl.cmd.wq fl.slot

/-! ### A context is pre-empted -/

/-- A CTX_HALT with DISCARD waits for a slot's pre-emption. -/
def Body.discarding (b : Body) (slot : Nat) : Bool :=
  b.hm.halting.any fun p => decide (p.2 = slot ∧ p.1.opc = 0x13) && p.1.cmd.b 1 16

/-- A pre-emption is complete when every command of the context has stopped and been saved, or has completed; its open step, and a
command that waits for this pre-emption, do not hold it up. The batch table is written. -/
def Body.preemptCheck (b : Body) (slot : Nat) : Body :=
  if ¬ b.saving slot then b
  else
    let other (uid : Nat) : Bool :=
      !((b.info slot).step.any fun r => decide (r.fl.uid = uid)) && !b.hm.halting.any fun p => decide (p.1.uid = uid ∧ p.2 = slot)
    if (b.hm.flights.any fun x => decide (x.slot = slot) && other x.uid) ||
        (b.hm.ended.any fun x => decide (x.fl.slot = slot) && other x.fl.uid) then b
    else ((b.setF (.hmCtxStat slot) Fld.hmCtxStatState 1).count slot 14 1).writeBatch slot

/-- The waiting SREG_WAITs of a slot go back to their queues; with DISCARD they end. -/
def Body.stopWaits (b : Body) (slot : Nat) : Body :=
  let ws := (b.hm.waits.map (·.1)).filter fun x => decide (x.slot = slot)
  if b.discarding slot then b.abort ws 0x41 else ws.foldl Body.returnWait b

/-- The pre-emption of a slot is asked for: dispatch stops at once. For an ECC-pending context it is a fence point, where a CTX reset
takes the place of the save (R333). `keep` is the command that asks. -/
def Body.preempt (b : Body) (slot : Nat) (keep : Option Nat := none) : Body :=
  if b.getF (.hmCtxStat slot) Fld.hmCtxStatState ≠ 0 then b
  else if (b.info slot).eccPending then (b.ctxReset slot 0x20 keep).setF (.hmCtxStat slot) Fld.hmCtxStatState 1
  else ((b.setF (.hmCtxStat slot) Fld.hmCtxStatState 2).stopWaits slot).preemptCheck slot

/-- PREEMPTION_POINT (R304): a command in flight of a context that is being pre-empted, or single-stepped from point to point (R467),
stands at its point: it is saved there, or with DISCARD ends (R295, R312). -/
def execPreemptionPoint (uid : Nat) (s : State) : Host.Outcome State Fault Refusal :=
  s.onBody fun b =>
    match b.flight uid with
    | none => b
    | some fl =>
      let stepped : Bool := b.tele.dbg.any fun d => decide (d.target = uid) && d.point && fl.started
      let waits : Bool := b.hm.waits.any fun p => decide (p.1.uid = uid)
      if ¬ b.saving fl.slot ∧ ¬ stepped then b
      else if b.discarding fl.slot ∧ (waits ∨ b.atPoint fl) then (b.abort [fl] 0x41).preemptCheck fl.slot
      else if waits then (b.returnWait fl).preemptCheck fl.slot
      else if b.atPoint fl then (b.savePoint fl).preemptCheck fl.slot
      else b

/-! ### Saved commands go on (R179, R306) -/

/-- A saved command is in flight again. One that may use the Lathe latches the current bank; one restored onto a bank other than its
first is counted. -/
def Body.resumeOne (b : Body) (slot : Nat) (fl : Flight) : Body :=
  let (ep, bank) := match (b.quaysOfSlot slot).head? with
    | some q => (b.getF (.brLatheStat (20 * q)) Fld.brLatheStatEpoch, b.getF (.brLatheStat (20 * q)) Fld.brLatheStatCurBank)
    | none => (0, 0)
  let lathe := latheOpc fl.opc
  let b := if lathe ∧ ep ≠ fl.epochFirst ∧ fl.epochLast = fl.epochFirst then
      (((b.partOfSlot slot).map b.berthsOfPart).getD []).foldl (fun b g => b.bump (.brLatheTally g) Fld.brLatheTallyEpochMix 1) b
    else b
  let fl := { fl with resumed := true, epochLast := if lathe then ep else fl.epochLast, bank := if lathe then bank else fl.bank }
  let b := { b with hm.flights := sortBy (fun x y => decide (x.uid ≤ y.uid)) (b.hm.flights ++ [fl]) }
  ((b.log 2 0 8 0 fl.cmd.ctx.toNat fl.cmd.tag.toNat fl.opc).syncIn fl.cmd.wq slot).syncShadow slot

/-- Every saved command of a slot goes on. -/
def Body.resumeAll (b : Body) (slot : Nat) : Body :=
  let fls := (b.info slot).saved
  let b := b.updInfo slot fun i => { i with saved := [] }
  fls.foldl (fun b fl => b.resumeOne slot fl) b

end Sys2Proof.Machine
end

