-- ==== Sys2Proof/Machine/Saved.lean ====
section
/-!
DEFINITION. Save images (R295, R305, R306, R375): CTX_EVICT, CTX_ADMIT, and what the detachment of a Twin evicts and hands over.
-/

namespace Sys2Proof.Machine

/-! ### A slot is freed -/

/-- The completions that a slot's commands still await are written. -/
def Body.flushSlot (b : Body) (slot : Nat) : Body :=
  let (mine, rest) := b.hm.ended.partition fun e => decide (e.fl.slot = slot)
  mine.foldl Body.complete { b with hm.ended := rest }

/-- A queue is unbound: a privileged one returns to the management context (R294). -/
def Body.unbindQueue (b : Body) (n : Fin 64) : Body :=
  let b := b.setF (.hmWqCfg n) Fld.hmWqCfgCtx (if b.flag (.hmWqCfg n) Fld.hmWqCfgPriv then 0xFFFE else 0xFFFF)
  (b.setF (.hmWqPtr n) Fld.hmWqPtrHead 0).setF (.hmWqPtr n) Fld.hmWqPtrTail 0

/-- A context leaves its slot: what its commands await is written, its queues are unbound, and its counters go with the slot (R459). -/
def Body.slotFree (b : Body) (slot : Nat) : Body :=
  let ctx := b.ctxOfSlot slot
  let b := b.flushSlot slot
  let b := (b.queuesOf ctx).foldl Body.unbindQueue b
  let b := (List.range 16).foldl (fun b i => b.setReg (.hmCtxCnt slot i) (Reg.dflt (.hmCtxCnt slot i))) b
  let b := if b.getF .hmStepStat Fld.hmStepStatCtx = ctx then b.setReg .hmStepStat (Reg.dflt .hmStepStat) else b
  ({ b with hm.ctxs := SMap.drop b.hm.ctxs slot }).setReg (.hmCtxStat slot) (Reg.dflt (.hmCtxStat slot))

/-- A save area is good: 32 MiB of Tier H or Tier L (R295). -/
def Body.saveOk (b : Body) (base : Nat) : Bool :=
  b.rangeOk base 0x2000000 && decide (b.placeOf base = some 2 ∨ b.placeOf base = some 3)

/-- The queues of a mask. -/
def queuesIn (mask : Nat) : List (Fin 64) := (List.finRange 64).filter fun n => mask.testBit n

/-- A queue of a mask is bound to an ordinary context. -/
def Body.queueTaken (b : Body) (mask : Nat) : Bool :=
  (queuesIn mask).any fun n => decide (b.getF (.hmWqCfg n) Fld.hmWqCfgCtx < 0xFFFE)

/-- The lowest free slot. -/
def Body.freeCtxSlot (b : Body) : Option Nat :=
  (List.range 64).find? fun k => decide (b.getF (.hmCtxStat k) Fld.hmCtxStatState = 3)

/-- A context becomes resident in a slot, runnable, with its queues bound and its counters at 0 (R295, R459). -/
def Body.slotTake (b : Body) (slot id part prio mask save : Nat) : Body :=
  let r : Reg := .hmCtxStat slot
  let b := b.setReg r (Reg.dflt r)
  let b := (((b.setF r Fld.hmCtxStatCtx id).setF r Fld.hmCtxStatPart part).setF r Fld.hmCtxStatPrio prio).setF r Fld.hmCtxStatState 0
  let b := (List.range 16).foldl (fun b i => b.setReg (.hmCtxCnt slot i) (Reg.dflt (.hmCtxCnt slot i))) b
  let b := (queuesIn mask).foldl (fun b n => b.setF (.hmWqCfg n) Fld.hmWqCfgCtx id) b
  { b with hm.ctxs := SMap.set b.hm.ctxs {} slot { saveBase := save } }

/-! ### The image (R305) -/

/-- The 64 bytes of a Manifest entry (R107). -/
def entryBytes (e : Entry) : List Byte :=
  let bit (x : Bool) (k : Nat) : Nat := if x then 2 ^ k else 0
  leBytes 8 (e.base + e.gen * 2 ^ 48) ++
    leBytes 8 (e.size + e.layout * 2 ^ 48 + e.sk * 2 ^ 52 + e.fmt * 2 ^ 54 + bit e.wr 58 + bit e.rd 59 + bit e.valid 60 + e.place * 2 ^ 61) ++
    leBytes 8 (e.rows + e.cols * 2 ^ 32) ++ leBytes 8 (e.pitch + e.axis * 2 ^ 48) ++
    leBytes 8 (if e.sk = 2 then e.scaleBase else e.scaleF32) ++
    leBytes 8 (e.module + e.gangway * 2 ^ 16 + e.key * 2 ^ 32) ++ leBytes 8 e.param ++ leBytes 8 0

/-- The 128 bytes of a chain slot: zeros for one unwritten. -/
def chainBytes (ws : List Word) : List Byte := (padWords 16 (padWords 15 (ws.map BitVec.toNat))).flatMap (leBytes 8)

/-- A digest's bytes, most significant first. -/
def digestBytes (d : BitVec 384) : List Byte := (List.range 48).map fun i => BitVec.ofNat 8 (d.toNat / 2 ^ (8 * (47 - i)))

/-- The digest of the parts of an image. -/
def Body.imageHash (b : Body) (base : Nat) : BitVec 384 := sha384 (b.bytes (base + 0x1000) (0x1F7CE00 - 0x1000))

/-- The Joinery records that the saved commands of a slot use. -/
def Body.recordsUsed (b : Body) (slot : Nat) : List Nat :=
  let runs := (b.info slot).saved.filter fun x => decide (x.opc = 0x4A ∧ x.progress ≠ [])
  (List.range 200).filter fun i => runs.any fun x => savedBit x.progress 1 i

/-- The dialect and width code of a partition. -/
def Body.dialectOf (b : Body) (p : Nat) : Nat × Nat :=
  match b.berthsOfPart p with
  | g :: _ => (b.getF (.brJyCfg g) Fld.brJyCfgDialect, b.getF (.brJyCfg g) Fld.brJyCfgWidth)
  | [] => (0, 0)

/-- CTX_EVICT's image of a slot: every part, then the header. -/
def Body.writeImage (b : Body) (slot : Nat) : Body :=
  let i := b.info slot
  let base := i.saveBase
  let p := (b.partOfSlot slot).getD 0
  let used := b.recordsUsed slot
  let b := b.store (base + 0x1000) ((List.range 1024).flatMap fun k => entryBytes (b.entry slot k))
  let b := b.store (base + 0x11000) ((List.range 256).flatMap fun k => leBytes 8 (SMap.get b.hm.sregs 0 (slot * 256 + k)).toNat)
  let b := b.store (base + 0x11800) ((List.range 64).flatMap fun k => chainBytes (SMap.get b.hm.chains [] (slot * 64 + k)))
  let b := (b.store (base + 0x13800) (List.replicate 0x1F000 0)).writeSaved slot
  let b := b.writeBatch slot
  let b := ((List.range 200).filter fun k => decide (k ∉ used)).foldl (fun b k => b.store (recordAt base k) (List.replicate recordSize 0)) b
  let (d, w) := b.dialectOf p
  b.store base (leBytes 2 (b.ctxOfSlot slot) ++ leBytes 1 p ++ leBytes 1 (quaysOf b.framing p).length ++ leBytes 1 d ++ leBytes 1 w ++
    leBytes 2 i.saved.length ++ leBytes 8 b.ts.toNat ++ digestBytes (b.imageHash base) ++ List.replicate 4032 0)

/-! ### CTX_EVICT (R295) -/

/-- What makes CTX_EVICT of a slot fault: an open Crate Map, pool or Ferry stream, a group or registration, or a REBUILD of more than 16
descriptors. -/
def Body.evictRefused (b : Body) (slot : Nat) : Bool :=
  (b.crates.maps.any fun p => decide (p.2.slot = slot)) || (b.crates.pools.any fun p => decide (p.2.slot = slot)) ||
    (b.ferry.streams.any fun p => decide (p.2.slot = slot)) ||
    ((List.range 64).any fun i => decide (b.groupState i ≠ 0 ∧ b.getF (.bwGroupStat i) Fld.bwGroupStatCtx = b.ctxOfSlot slot)) ||
    (b.ln.colls.any fun p => p.2.used && decide (p.2.slot = slot)) ||
    ((b.hm.flights ++ (b.info slot).saved).any fun x => decide (x.slot = slot ∧ x.opc = 0x54 ∧ x.cmd.length.toNat > 16))

/-- An open step is saved as a command: its body goes no further (log entry 39). -/
def Body.saveStep (b : Body) (slot : Nat) : Body :=
  match (b.info slot).step with
  | none => b
  | some r =>
    let fl := { r.fl with started := false, handles := [], uses := [], progress := [r.rows, r.tokens, r.deferred] }
    let b := { b with hm.flights := b.hm.flights.filter fun x => decide (x.uid ≠ fl.uid) }
    b.updInfo slot fun i => { i with step := none, saved := sortBy (fun x y => decide (x.uid ≤ y.uid)) (i.saved ++ [fl]) }

/-- A pre-empted context goes out: its image is written, its undispatched commands end with PREEMPTED, its Gangways close, its allotment
is released. The regions being zeroed are answered; the slot is freed after them. -/
def Body.evictOut (b : Body) (slot : Nat) : Body × List Nat :=
  let b := (b.saveStep slot).writeImage slot
  let b := (b.endQueued slot 0x40).gwReset slot
  let rs := b.allotted slot
  let b := (((b.setAllot slot []).manifestClear slot).ctxClear slot).updInfo slot fun i => { i with closing := true, saved := [] }
  (b, rs.filter fun r => decide (r ∈ b.st.zeroing))

/-- A command waits for the zeroing of some regions, of which there is at least one. -/
def Body.zeroHold (b : Body) (fl : Flight) (rs : List Nat) : Body :=
  { b.start fl with st.zeroWait := b.st.zeroWait ++ [(fl, rs)] }

/-- A command that waits for the pre-emption of a slot is noted. -/
def Body.noteHalting (b : Body) (fl : Flight) (slot : Nat) : Body :=
  if b.hm.halting.any fun p => decide (p.1.uid = fl.uid ∧ p.2 = slot) then b
  else { b with hm.halting := b.hm.halting ++ [(fl, slot)] }

/-- It no longer waits. -/
def Body.dropHalting (b : Body) (uid : Nat) : Body :=
  { b with hm.halting := b.hm.halting.filter fun p => decide (p.1.uid ≠ uid) }

/-- CTX_EVICT of an ECC-pending context: a CTX reset in place of the save, no image, and ECC_UNCORRECTED (R333). It stays halted. -/
def Body.evictEcc (b : Body) (fl : Flight) (slot : Nat) : Body :=
  (((b.ctxReset slot 0x20 (some fl.uid)).setF (.hmCtxStat slot) Fld.hmCtxStatState 1).dropHalting fl.uid).fail fl 0x20

/-- CTX_EVICT (R295): the row is given again while the pre-emption goes on. -/
def execCtxEvict (c : Cmd) (s : State) : Host.Outcome State Fault Refusal :=
  s.onBody fun b => b.onCmd c 0x15 fun b fl =>
    match b.slotOf (c.f 1 15 0) with
    | none => (b.dropHalting fl.uid).fail fl 0x11
    | some slot =>
      if slot ≥ 64 ∨ b.evictRefused slot ∨ (b.info slot).closing then (b.dropHalting fl.uid).fail fl 0x11
      else if (b.info slot).eccPending ∧ ¬ b.saving slot then b.evictEcc fl slot
      else
        let b := (b.noteHalting fl slot).preempt slot
        if b.getF (.hmCtxStat slot) Fld.hmCtxStatState ≠ 1 then b
        else if (b.info slot).eccPending then b.evictEcc fl slot
        else
          let (b, rs) := (b.dropHalting fl.uid).evictOut slot
          if rs = [] then (b.slotFree slot).done fl else b.zeroHold fl rs

/-! ### CTX_ADMIT (R306) -/

/-- The Manifest entry of 64 bytes. -/
def Body.readEntry (b : Body) (a : Nat) : Entry :=
  let w (k hi lo : Nat) : Nat := bits (b.le (a + 8 * k) 8) hi lo
  let sk := w 1 53 52
  { gen := w 0 63 48, base := w 0 47 0, place := w 1 63 61, valid := decide (w 1 60 60 = 1), rd := decide (w 1 59 59 = 1),
    wr := decide (w 1 58 58 = 1), fmt := w 1 57 54, sk := sk, layout := w 1 51 48, size := w 1 44 0, rows := w 2 31 0,
    cols := w 2 63 32, pitch := w 3 47 0, axis := w 3 48 48, scaleF32 := if sk = 2 then 0 else w 4 31 0,
    scaleBase := if sk = 2 then w 4 47 0 else 0, module := w 5 15 0, gangway := w 5 21 16, key := w 5 63 32, param := w 6 63 0 }

/-- A saved command: the number it takes, and the queue it belongs to, which is its own where the mask has it, else the lowest of the
mask (log entry 47). -/
def Body.readCommand (b : Body) (slot uid mask a : Nat) : Flight :=
  let wd (k : Nat) : Nat := b.le (a + 8 * k) 8
  let f := wd 128
  let n := bits f 31 24
  let m := bits f 47 40
  let own : Fin 64 := ⟨f % 64, Nat.mod_lt _ (by decide)⟩
  let wq := if own ∈ queuesIn mask then own else (queuesIn mask).headD own
  let h : Word := BitVec.ofNat 64 (wd 0)
  let (opc, c) := cmdOf wq h ((List.range (8 * min 16 (h.fld 15 0) - 1)).map fun k => BitVec.ofNat 64 (wd (k + 1)))
  let (sr, ch) := b.snapshot slot
  { uid := uid, cmd := c, opc := opc, slot := slot, priv := f.testBit 10, inStep := f.testBit 8, epochFirst := wd 129 % 2 ^ 32,
    epochLast := wd 129 / 2 ^ 32, sregs := sr, chains := ch, lens := b.lensOf slot opc, ecc := f.testBit 9, resumed := true,
    amaxes := (List.range m).map fun k => (wd (130 + 2 * k), wd (131 + 2 * k)),
    progress := (List.range n).map fun k => wd (130 + 2 * m + k) }

/-- The PIN_BERTH of a command with PIN_MODE 2 (R129). -/
def pinOf (opc : Nat) (c : Cmd) : Option Nat :=
  let p (mode pin : Nat) : Option Nat := if min 2 mode = 2 then some (min 199 pin) else none
  match opc with
  | 0x40 => p (c.f 6 7 6) (c.f 5 23 16)
  | 0x42 => p (c.f 7 7 6) (c.f 5 55 48)
  | 0x44 => p (c.f 6 7 6) (c.f 8 7 0)
  | _ => none

/-- A partition has a Quay of rank j for every nonzero Joinery record, and every PIN_BERTH of a saved command. -/
def Body.shapeOk (b : Body) (base part : Nat) (cmds : List Flight) : Bool :=
  let qs := quaysOf b.framing part
  (List.range 200).all (fun i => decide (i / 20 < qs.length) || (b.bytes (recordAt base i) recordSize).all fun x => decide (x = 0)) &&
    cmds.all fun x => match pinOf x.opc x.cmd with
      | some g => decide (g / 20 ∈ qs)
      | none => true

/-- The scalar registers, chain slots and batch table of an image. -/
def Body.readTables (b : Body) (slot base : Nat) : Body :=
  let sr := (List.range 256).foldl (fun m k => SMap.set m 0 (slot * 256 + k) (BitVec.ofNat 64 (b.le (base + 0x11000 + 8 * k) 8))) b.hm.sregs
  let ch := (List.range 64).foldl (fun m k =>
    let ws := (List.range 15).map fun j => BitVec.ofNat 64 (b.le (base + 0x11800 + 128 * k + 8 * j) 8)
    if ws.all fun w => decide (w = 0) then m else SMap.set m [] (slot * 64 + k) ws) b.hm.chains
  let ba := (List.range 256).foldl (fun m k =>
    let a := base + 0x32800 + 16 * k
    let x : BatchSlot := { seq := b.le a 4, state := b.le (a + 4) 1, prio := b.le (a + 5) 1, row := b.le (a + 6) 2,
                           tokens := b.le (a + 8) 4, steps := b.le (a + 12) 4 }
    SMap.set m {} (slot * 256 + k) x) b.hm.batch
  { b with hm.sregs := sr, hm.chains := ch, hm.batch := ba }

/-- The Manifest of an image: entries with PLACE 0 or 1 are unbound, which advances their GEN; every other keeps its handle. -/
def Body.readManifest (b : Body) (slot base : Nat) : Body :=
  (List.range 1024).foldl (fun b k =>
    let e := b.readEntry (base + 0x1000 + 64 * k)
    b.setEntry slot k (if e.valid ∧ e.place < 2 then { gen := nextGen e.gen } else e)) b

/-- A saved command goes on in its new partition; a saved step is open again, its body dispatched. -/
def Body.readmit (b : Body) (slot : Nat) (fl : Flight) : Body :=
  let b := b.resumeOne slot fl
  if fl.opc = 0x19 then
    let p (j : Nat) : Nat := fl.progress.getD j 0
    let run : StepRun := { fl := { fl with started := true }, wq := fl.cmd.wq.val, left := 0, rows := p 0, tokens := p 1, deferred := p 2 }
    (b.start fl).updInfo slot fun i => { i with step := some run }
  else b

/-- CTX_ADMIT (R295, R306): the checks in order, then the restore. -/
def execCtxAdmit (c : Cmd) (s : State) : Host.Outcome State Fault Refusal :=
  s.onBody fun b => b.onCmd c 0x16 fun b fl =>
    let part := c.f 1 19 16
    let base := c.f 3 47 0 / 4096 * 4096
    let mask := (c.w 2).toNat
    let b := b.clampCmd fl (diff base (c.f 3 47 0))
    let id := b.le base 2
    let n := min 64 (b.le (base + 6) 2)
    if ¬ b.partUp part ∨ ¬ b.saveOk base then b.fail fl 0x11
    else if b.bytes (base + 16) 48 ≠ digestBytes (b.imageHash base) then b.fail fl 0x60
    else
      match b.freeCtxSlot with
      | none => b.fail fl 0x11
      | some slot =>
        let cmds := (List.range n).map fun k => b.readCommand slot (b.hm.nextUid + k) mask (commandAt base k)
        if id > 0xFFFD ∨ (b.slotOf id).isSome then b.fail fl 0x11
        else if (b.dialectOf part).1 ≠ b.le (base + 4) 1 then b.fail fl 0x50
        else if ¬ b.shapeOk base part cmds then b.fail fl 0x51
        else if b.queueTaken mask then b.fail fl 0x60
        else
          let b := ((b.slotTake slot id part (c.f 1 22 20) mask base).readManifest slot base).readTables slot base
          let cmds := (List.range n).map fun k => b.readCommand slot (b.hm.nextUid + k) mask (commandAt base k)
          let b := { b with hm.nextUid := b.hm.nextUid + n }
          let b := cmds.foldl (fun b x => b.readmit slot x) b
          (b.stepCheck slot).done fl

/-! ### TW_CTL DETACH (R375) -/

/-- The resident ordinary contexts' slots. -/
def Body.resident (b : Body) : List Nat :=
  (List.range 64).filter fun k => decide (b.getF (.hmCtxStat k) Fld.hmCtxStatState ≠ 3)

/-- A save area lies in a SEND range. -/
def Body.mirrored (b : Body) (base : Nat) : Bool :=
  b.ln.twin.mirrors.any fun m => !m.accept && decide (m.base ≤ base ∧ base + 0x2000000 ≤ m.base + m.size)

/-- The HANDOVER goes out; the module is DETACHED. -/
def Body.handOver (b : Body) (fl : Flight) (areas : List Nat) : Body :=
  let b := b.twinSend 1 .handover areas
  let b := (b.updTwin fun t => { t with detach := none }).setF .bwTwinStat Fld.bwTwinStatState 4
  b.done fl

/-- The sync of a DETACH whose evictions are over: after it, the HANDOVER. -/
def Body.detachSync (b : Body) (fl : Flight) (areas : List Nat) : Body :=
  match b.syncSet with
  | [] => b.handOver fl areas
  | gs =>
    let b := b.keep fl (3 :: areas)
    match b.ln.twin.detach with
    | some d => b.updTwin fun t => { t with syncs := t.syncs ++ [(d, gs)] }
    | none => b

/-- The slots of the contexts that a list of save areas names are freed; a DETACH that still runs goes on. -/
def Body.detachFree (b : Body) (fl : Flight) (areas : List Nat) : Body :=
  let ids := (List.range (areas.length / 2)).map fun k => areas.getD (2 * k + 1) 0
  let b := (ids.filterMap b.slotOf).foldl Body.slotFree b
  if (b.flight fl.uid).isSome then b.detachSync fl areas else b

/-- Every context pre-empted, they are evicted; their save areas and context ids are listed. One that is ECC-pending is reset and writes
no image. -/
def Body.detachEvict (b : Body) (fl : Flight) : Body :=
  let (b, rs, areas) := b.resident.foldl (fun (p : Body × List Nat × List Nat) k =>
    let (b, rs, areas) := p
    if (b.info k).eccPending then
      ((b.ctxReset k 0x20 (some fl.uid)).setF (.hmCtxStat k) Fld.hmCtxStatState 1, rs, areas)
    else
      let at_ := [(b.info k).saveBase, b.ctxOfSlot k]
      let (b, r) := b.evictOut k
      (b, rs ++ r, areas ++ at_)) (b, [], [])
  let b := (b.dropHalting fl.uid).keep fl (2 :: areas)
  if rs = [] then b.detachFree fl areas
  else { b with st.zeroWait := b.st.zeroWait ++ [({ fl with progress := 2 :: areas }, rs)] }

/-- TW_CTL DETACH (R375): its checks, then DRAINING; the row is given again while contexts are pre-empted, zeroed and synced. OP 3 is
clamped to 2. -/
def execTwCtlDetach (c : Cmd) (s : State) : Host.Outcome State Fault Refusal :=
  s.onBody fun b => b.onSub c 0x68 (decide (c.f 1 1 0 ≥ 2)) fun b fl =>
    match fl.progress with
    | [] =>
      let b := b.clampCmd fl (if c.f 1 1 0 = 3 then 1 else 0)
      if b.twinState ≠ 2 ∨ b.resident.any fun k => b.evictRefused k || !b.mirrored (b.info k).saveBase then b.fail fl 0x11
      else
        let b := (b.updTwin fun t => { t with detach := some fl }).setF .bwTwinStat Fld.bwTwinStatState 3
        let b := b.keep fl [1]
        let b := b.resident.foldl (fun b k => (b.noteHalting fl k).preempt k (some fl.uid)) b
        if b.resident.all fun k => decide (b.getF (.hmCtxStat k) Fld.hmCtxStatState = 1) then b.detachEvict fl else b
    | 1 :: _ =>
      if b.resident.all fun k => decide (b.getF (.hmCtxStat k) Fld.hmCtxStatState = 1) then b.detachEvict fl
      else b.resident.foldl (fun b k => (b.noteHalting fl k).preempt k (some fl.uid)) b
    | 2 :: _ => b
    | _ :: areas => if b.ln.twin.syncs.any fun p => decide (p.1.uid = fl.uid) then b else b.handOver fl areas

end Sys2Proof.Machine
end

