-- ==== Sys2Proof/Machine/Harbour.lean ====
section
/-!
DEFINITION. The Harbourmaster (R279-R303): dispatch, contexts, batch steps, its SRAM, and completions.
-/

namespace Sys2Proof.Machine

/-! ### Completion and zeroing -/

/-- COMMAND_COMPLETE (R289, R304): the oldest ended command completes; the last a pre-emption waited for makes it complete. -/
def execCommandComplete (s : State) : Host.Outcome State Fault Refusal :=
  s.onBody fun b =>
    match b.hm.ended with
    | [] => b
    | e :: _ => b.completeOne.preemptCheck e.fl.slot

/-- CTX_CLOSE ends: the context's queue pairs are destroyed (R398) and its slot is freed. -/
def Body.closeEnd (b : Body) (slot : Nat) (fl : Flight) : Body :=
  let ctx := b.ctxOfSlot slot
  let qs := (List.range 512).filter fun k => b.qpExists k && decide (b.getF (.epQpStat k) Fld.epQpStatCtx = ctx)
  let b := b.flushSlot slot
  let b := ({ b with st.allot := b.st.allot.filter fun p => decide (p.2 ≠ slot + 1) }).slotFree slot
  (qs.foldl Body.qpDelete b).done fl

/-- What a command does whose zeroing has finished. -/
def Body.zeroed (b : Body) (fl : Flight) : Body :=
  let slot := b.slotOf (fl.cmd.f 1 15 0)
  if fl.opc = 0x11 then (match slot with | some k => b.closeEnd k fl | none => b.done fl)
  else if fl.opc = 0x15 then (match slot with | some k => (b.slotFree k).done fl | none => b.done fl)
  else if fl.opc = 0x68 then b.detachFree fl fl.progress.tail
  else b.done fl

/-- ZEROING_COMPLETE (R105): a region reads +0; a reset, an MF_ALLOT, a CTX_CLOSE or a CTX_EVICT for which it was the last goes on. -/
def execZeroingComplete (region : Fin 1780) (s : State) : Host.Outcome State Fault Refusal :=
  s.onBody fun b =>
    let (b, fls) := b.zeroFinish region
    fls.foldl Body.zeroed b

/-! ### Queue heads (R284-R287) -/

/-- The head command of a queue: its opcode and descriptor as taken, the fields clamped, and where it was dispatched before and returned,
that flight. -/
structure Head where
  opc : Nat
  cmd : Cmd
  clamps : Nat
  back : Option Flight := none
deriving DecidableEq, Repr

/-- Body commands of steps without rows are consumed as they stand at the head of their queue (R300). -/
def Body.consume (b : Body) (n : Fin 64) : Nat → Body
  | 0 => b
  | k + 1 =>
    if SMap.get b.hm.skips 0 n = 0 ∨ b.rung n = 0 then b
    else
      let l := (b.ringCmd n (b.getF (.hmWqPtr n) Fld.hmWqPtrHead)).2.1.length.toNat
      if l > b.rung n then b
      else
        let b := b.advanceHead n l
        Body.consume { b with hm.skips := SMap.upd b.hm.skips 0 n (· - 1) } n k

/-- The head command of a queue, where all its entries have been rung and no command of the Harbourmaster's own holds the queue: the next
command is looked at when that one has completed (R288). -/
def Body.headOf (b : Body) (n : Fin 64) : Option Head :=
  match b.hm.returned.find? fun x => decide (x.cmd.wq = n) with
  | some x => some { opc := x.opc, cmd := x.cmd, clamps := 0, back := some x }
  | none =>
    if b.rung n = 0 ∨ SMap.get b.hm.skips 0 n ≠ 0 ∨
        b.heldByOwn n ((b.slotOf (b.getF (.hmWqCfg n) Fld.hmWqCfgCtx)).getD mgmtSlot) then none
    else
      let (o, c, k) := b.ringCmd n (b.getF (.hmWqPtr n) Fld.hmWqPtrHead)
      if c.length.toNat > b.rung n then none else some { opc := o, cmd := c, clamps := k }

/-- Steps 3 and 4 of R286. -/
def Body.headAllowed (b : Body) (n : Fin 64) (h : Head) : Bool :=
  decide (h.cmd.ctx.toNat = b.getF (.hmWqCfg n) Fld.hmWqCfgCtx) && (!privOpc h.opc || b.flag (.hmWqCfg n) Fld.hmWqCfgPriv)

/-- The commands of a context that CTX_FENCE waits for: those in flight or not yet completed, but for an open step, whose body it may
belong to (R288; log entry 48). -/
def Body.ctxLeft (b : Body) (slot : Nat) : Bool :=
  let open_ (uid : Nat) : Bool := (b.info slot).step.any fun r => decide (r.fl.uid = uid)
  (b.hm.flights.any fun x => decide (x.slot = slot) && !open_ x.uid) || (b.hm.ended.any fun e => decide (e.fl.slot = slot) && !open_ e.fl.uid)

/-- A partition runs a step, or has dispatched one (R303). -/
def Body.stepping (b : Body) (p : Nat) : Bool :=
  (b.resident.any fun k => decide (b.partOfSlot k = some p) && (b.info k).step.isSome) ||
    b.hm.flights.any fun x => decide (x.opc = 0x19 ∧ b.partOfSlot x.slot = some p)

/-- A partition is of kind BATCH: 1-4 Quays (R293). -/
def Body.batchPart (b : Body) (p : Nat) : Bool := decide ((quaysOf b.framing p).length ≤ 4)

/-- A head passes steps 3-7 of R286, and the waits of CTX_FENCE and STEP; `halted` sets its context's halt aside (R467). -/
def Body.headReady (b : Body) (n : Fin 64) (h : Head) (halted : Bool) : Option Nat :=
  match b.slotOf h.cmd.ctx.toNat with
  | none => none
  | some slot =>
    let b' := if halted ∧ slot < 64 then b.setF (.hmCtxStat slot) Fld.hmCtxStatState 0 else b
    let part := b.partOfSlot slot
    let step : Bool := match part with
      | some p => decide (h.opc = 0x19) && b.batchPart p
      | none => false
    if b.headAllowed n h ∧ ¬ b'.mustWait h.cmd slot ∧ ¬ (h.opc = 0x01 ∧ b.ctxLeft slot) ∧ ¬ (step ∧ b.stepping (part.getD 0)) then some slot
    else none

/-! ### Dispatch (R286, R287, R300, R303) -/

/-- Patch `i` of a STEP. -/
def patchOf (c : Cmd) (i : Nat) : Nat := (c.w (4 + i / 2)).fld (32 * (i % 2) + 31) (32 * (i % 2))

/-- The value of a patch of a step. -/
def StepRun.value (r : StepRun) (p : Nat) : Nat :=
  match bits p 28 27 with
  | 0 => r.rows - 1
  | 1 => r.rows
  | 2 => r.tokens - 1
  | _ => r.tokens

/-- A body command with one patch made: a value too wide for its field is clamped to the field's maximum, and counted (log entry 49
for a field that passes the end of its word). -/
def StepRun.patch (r : StepRun) (x : Cmd × Nat) (p : Nat) : Cmd × Nat :=
  let width := bits p 26 21 + 1
  let lsb := bits p 20 15
  let word := bits p 14 12
  let v := min (r.value p) (2 ^ width - 1)
  let hi := min 63 (lsb + width - 1)
  let words := x.1.words.set (word - 1) (BitVec.ofNat 64 (putBits (x.1.w word).toNat hi lsb (v % 2 ^ (hi + 1 - lsb))))
  ({ x.1 with words := words }, x.2 + diff v (r.value p))

/-- The next body command of a step with its patches (R300), and the clamps. -/
def StepRun.patched (r : StepRun) (c : Cmd) : Cmd × Nat :=
  (r.patches.filter fun p => decide (bits p 11 0 = r.next)).foldl r.patch (c, 0)

/-- A head command is dispatched: it leaves its queue; a body command of the queue's step is patched. -/
def Body.dispatchHead (b : Body) (n : Fin 64) (h : Head) (slot : Nat) : Body × Flight :=
  let priv := b.flag (.hmWqCfg n) Fld.hmWqCfgPriv
  match h.back with
  | some x =>
    let b := { b with hm.returned := b.hm.returned.filter fun y => decide (y.uid ≠ x.uid) }
    b.launch h.cmd h.opc slot priv x.inStep
  | none =>
    let b := b.advanceHead n h.cmd.length.toNat
    match (b.info slot).step with
    | some r =>
      if r.wq = n.val ∧ r.left ≠ 0 then
        let (c, k) := r.patched h.cmd
        let b := b.updInfo slot fun i => { i with step := some { r with left := r.left - 1, next := r.next + 1 } }
        let (b, fl) := b.launch c h.opc slot priv true
        (b.clampCmd fl (h.clamps + k), fl)
      else
        let (b, fl) := b.launch h.cmd h.opc slot priv false
        (b.clampCmd fl h.clamps, fl)
    | none =>
      let (b, fl) := b.launch h.cmd h.opc slot priv false
      (b.clampCmd fl h.clamps, fl)

/-- The context whose STEP a partition opens next: the highest context PRIO, ties round-robin in increasing context id (R303). -/
def Body.nextStep (b : Body) (p : Nat) (slots : List Nat) : Option Nat :=
  let prio (k : Nat) : Nat := b.getF (.hmCtxStat k) Fld.hmCtxStatPrio
  let top := (slots.map prio).foldl max 0
  let ids := sortBy (fun x y => decide (x ≤ y)) ((slots.filter fun k => decide (prio k = top)).map fun k => b.ctxOfSlot k)
  let last := SMap.get b.hm.stepLast 0 p
  match ids.find? fun i => decide (i + 1 > last) with
  | some i => some i
  | none => ids.head?

/-- Weighted round-robin among queues of equal PRIO: a queue goes on until its WEIGHT is used, then the next by number; a new round begins
when all have used theirs (log entry 50). -/
def Body.pick (b : Body) (ns : List (Fin 64)) : Option (Fin 64 × Body) :=
  let prio (n : Fin 64) : Nat := b.getF (.hmWqCfg n) Fld.hmWqCfgPrio
  let top := (ns.map prio).foldl max 0
  let cs := ns.filter fun n => decide (prio n = top)
  let used (n : Nat) : Nat := SMap.get b.hm.rrUsed 0 n
  let first := if used b.hm.rrLast > 0 then b.hm.rrLast else b.hm.rrLast + 1
  let order (l : List (Fin 64)) : Option (Fin 64) := (List.range 64).findSome? fun i => l.find? fun n => decide (n.val = (first + i) % 64)
  match order (cs.filter fun n => decide (used n < b.getF (.hmWqCfg n) Fld.hmWqCfgWeight)) with
  | some n => some (n, { b with hm.rrUsed := SMap.upd b.hm.rrUsed 0 n (· + 1), hm.rrLast := n })
  | none => (order cs).map fun n => (n, { b with hm.rrUsed := [(n.val, 1)], hm.rrLast := n })

/-- The heads that may be dispatched, of STEPs only the one each partition opens next. -/
def Body.readyHeads (b : Body) : List (Fin 64 × Head × Nat) :=
  let hs := (List.finRange 64).filterMap fun n =>
    match b.headOf n with
    | some h => (b.headReady n h false).map fun k => (n, h, k)
    | none => none
  let step (x : Fin 64 × Head × Nat) : Bool := decide (x.2.1.opc = 0x19) && ((b.partOfSlot x.2.2).map b.batchPart).getD false
  hs.filter fun x => !step x ||
    match b.partOfSlot x.2.2 with
    | some p => decide (b.nextStep p ((hs.filter fun y => step y && decide (b.partOfSlot y.2.2 = some p)).map fun y => y.2.2) =
        some (b.ctxOfSlot x.2.2))
    | none => true

/-- COMMAND_DISPATCH (R286, R287): a head that fails steps 3 or 4 ends at once; else the one that R287 takes is dispatched. At a fence
point of an ECC-pending context a CTX reset takes the place of the dispatch (R333). -/
def Body.dispatch (b : Body) : Body :=
  if b.boot.phase ≠ .run ∨ b.hm.sramDead then b
  else
    let b := (List.finRange 64).foldl (fun b n => b.consume n 4096) b
    let bad := (List.finRange 64).findSome? fun n =>
      match b.headOf n with
      | some h => if b.headAllowed n h then none else some (n, h)
      | none => none
    match bad with
    | some (n, h) =>
      let (b, fl) := b.dispatchHead n h ((b.slotOf (b.getF (.hmWqCfg n) Fld.hmWqCfgCtx)).getD mgmtSlot)
      b.fail fl 0x60
    | none =>
      match b.pick (b.readyHeads.map (·.1)) with
      | none => b
      | some (n, b') =>
        match b.readyHeads.find? fun x => decide (x.1 = n) with
        | none => b
        | some (_, h, slot) =>
          if (b.info slot).eccPending ∧ fencePoint h.cmd h.opc then b.ctxReset slot 0x20
          else
            let b := b'
            let b := if h.opc = 0x19 then
                match b.partOfSlot slot with
                | some p => { b with hm.stepLast := SMap.set b.hm.stepLast 0 p (b.ctxOfSlot slot + 1) }
                | none => b
              else b
            (b.dispatchHead n h slot).1

/-- COMMAND_DISPATCH. -/
def execCommandDispatch (s : State) : Host.Outcome State Fault Refusal := s.onBody Body.dispatch

/-! ### NOP, CTX_FENCE, WQ_CFG -/

/-- NOP (R281): its entries have been skipped at dispatch. -/
def execNop (c : Cmd) (s : State) : Host.Outcome State Fault Refusal :=
  s.onBody fun b => b.onCmd c 0x00 fun b fl => b.done fl

/-- A command of an opcode has been dispatched and has not started. -/
def Body.dispatched (b : Body) (c : Cmd) (opc : Nat) : Bool := b.hm.flights.any fun x => decide (x.cmd = c ∧ x.opc = opc) && !x.started

/-- CTX_FENCE (R288): it completes at once where it has been dispatched; given directly, it waits for its context's commands. -/
def execCtxFence (c : Cmd) (s : State) : Host.Outcome State Fault Refusal :=
  s.onBody fun b =>
    b.onSub c 0x01 (b.dispatched c 0x01 || !((b.slotOf c.ctx.toNat).map b.ctxLeft).getD false) fun b fl => b.done fl

/-- WQ_CFG (R295): a WEIGHT of 0 is clamped to 1. -/
def execWqCfg (c : Cmd) (s : State) : Host.Outcome State Fault Refusal :=
  s.onBody fun b => b.onCmd c 0x17 fun b fl =>
    let n := c.f 1 5 0
    let w := max 1 (c.f 1 23 16)
    let b := b.clampCmd fl (diff w (c.f 1 23 16))
    ((b.setF (.hmWqCfg n) Fld.hmWqCfgPrio (c.f 1 10 8)).setF (.hmWqCfg n) Fld.hmWqCfgWeight w).done fl

/-! ### Contexts (R295) -/

/-- CTX_OPEN (R295). -/
def execCtxOpen (c : Cmd) (s : State) : Host.Outcome State Fault Refusal :=
  s.onBody fun b => b.onCmd c 0x10 fun b fl =>
    let id := c.f 1 15 0
    let part := c.f 1 19 16
    let base := c.f 3 47 0 / 4096 * 4096
    let b := b.clampCmd fl (diff base (c.f 3 47 0))
    match b.freeCtxSlot with
    | none => b.fail fl 0x11
    | some slot =>
      if id > 0xFFFD ∨ (b.slotOf id).isSome ∨ ¬ b.partUp part ∨ ¬ b.saveOk base then b.fail fl 0x11
      else if b.queueTaken (c.w 2).toNat then b.fail fl 0x60
      else (b.slotTake slot id part (c.f 1 22 20) (c.w 2).toNat base).done fl

/-- A context command that names a resident ordinary context; any other ID faults HOLD_RANGE. -/
def Body.onContext (b : Body) (c : Cmd) (opc : Nat) (f : Body → Flight → Nat → Body) : Body :=
  b.onCmd c opc fun b fl =>
    match b.slotOf (c.f 1 15 0) with
    | some slot => if slot < 64 ∧ ¬ (b.info slot).closing then f b fl slot else (b.dropHalting fl.uid).fail fl 0x11
    | none => (b.dropHalting fl.uid).fail fl 0x11

/-- CTX_CLOSE (R295): dispatch stops, a CTX reset, and after its zeroing the slot is freed. -/
def execCtxClose (c : Cmd) (s : State) : Host.Outcome State Fault Refusal :=
  s.onBody fun b => b.onContext c 0x11 fun b fl slot =>
    let b := (b.updInfo slot fun i => { i with closing := true }).ctxReset slot 0x41 (some fl.uid)
    let rs := (b.allotted slot).filter fun r => decide (r ∈ b.st.zeroing)
    if rs = [] then b.closeEnd slot fl else b.zeroHold fl rs

/-- CTX_RESET (R295, R296): it completes when its zeroing has. -/
def execCtxReset (c : Cmd) (s : State) : Host.Outcome State Fault Refusal :=
  s.onBody fun b => b.onContext c 0x12 fun b fl slot => (b.ctxReset slot 0x41 (some fl.uid)).zeroAwait fl (b.allotted slot)

/-- A pre-empted context's saved commands, its open step and its returned commands end with ABORTED_BY_HOST, and its queues are flushed
(R295). -/
def Body.haltDiscard (b : Body) (slot : Nat) : Body :=
  let fls := (b.info slot).saved
  let b := b.updInfo slot fun i => { i with saved := [] }
  let b := fls.foldl (fun b fl =>
    match b.crates.rebuilds.find? fun (r : Rebuild) => decide (r.fl.uid = fl.uid) with
    | some r => b.rebuildFail { r with fl := fl } 0x41 none
    | none => b.abort [fl] 0x41) b
  let b := match (b.info slot).step with
    | some r => b.abort [r.fl] 0x41
    | none => b
  let back := b.hm.returned.filter fun x => decide (x.slot = slot)
  let b := back.foldl (fun b x => b.fail x 0x41) { b with hm.returned := b.hm.returned.filter fun x => decide (x.slot ≠ slot) }
  (b.queuesOf (b.ctxOfSlot slot)).foldl (fun b n =>
    let b := b.setF (.hmWqPtr n) Fld.hmWqPtrHead (b.getF (.hmWqPtr n) Fld.hmWqPtrTail)
    { b with hm.skips := SMap.drop b.hm.skips n }) b

/-- CTX_HALT (R295, R304): the row is given again while the pre-emption goes on. -/
def execCtxHalt (c : Cmd) (s : State) : Host.Outcome State Fault Refusal :=
  s.onBody fun b => b.onContext c 0x13 fun b fl slot =>
    let b := (b.noteHalting fl slot).preempt slot (some fl.uid)
    if b.getF (.hmCtxStat slot) Fld.hmCtxStatState ≠ 1 then b
    else
      let b := b.dropHalting fl.uid
      (if c.b 1 16 then b.haltDiscard slot else b).done fl

/-- STEPPING clears in HM_STEP_STAT (R467, R479). -/
def Body.stepClear (b : Body) : Body := (b.setF .hmStepStat Fld.hmStepStatCtx 0xFFFF).setF .hmStepStat Fld.hmStepStatStepping 0

/-- CTX_RESUME (R295, R306): dispatch restarts and the saved commands go on; it waits for a pre-emption or a single step in progress,
clears STEPPING (R478), and leaves a context that is not halted as it is. -/
def execCtxResume (c : Cmd) (s : State) : Host.Outcome State Fault Refusal :=
  s.onBody fun b => b.onContext c 0x14 fun b fl slot =>
    let st := b.getF (.hmCtxStat slot) Fld.hmCtxStatState
    let id := b.ctxOfSlot slot
    if st = 2 ∨ (b.tele.dbg.any fun d => decide (d.fl.cmd.f 1 15 0 = id)) then b
    else
      let b := if b.getF .hmStepStat Fld.hmStepStatCtx = id then b.stepClear else b
      if st = 1 then ((b.setF (.hmCtxStat slot) Fld.hmCtxStatState 0).resumeAll slot).done fl
      else b.done fl

/-! ### Batch steps (R298-R303) -/

/-- Changes a batch slot. -/
def Body.setBatch (b : Body) (slot i : Nat) (x : BatchSlot) : Body := { b with hm.batch := SMap.set b.hm.batch {} (slot * 256 + i) x }

/-- A BATCH_SET of an action in a BATCH partition. -/
def Body.batchSet (b : Body) (c : Cmd) (act : Nat) (f : Body → Flight → Nat → BatchSlot → Body) : Body :=
  b.onSub c 0x18 (decide (min 2 (c.f 1 9 8) = act)) fun b fl =>
    let b := b.clampCmd fl (if c.f 1 9 8 = 3 then 1 else 0)
    match b.partOfSlot fl.slot with
    | none => b.fail fl 0x11
    | some p => if b.batchPart p then f b fl (c.f 1 7 0) (b.batchSlot fl.slot (c.f 1 7 0)) else b.fail fl 0x51

/-- BATCH_SET JOIN (R299). -/
def execBatchSetJoin (c : Cmd) (s : State) : Host.Outcome State Fault Refusal :=
  s.onBody fun b => b.batchSet c 0 fun b fl i x =>
    if x.state ≠ 0 then b.fail fl 0x11
    else (b.setBatch fl.slot i { seq := c.f 2 31 0, state := 1, prio := c.f 2 35 32, tokens := c.f 3 31 0 }).done fl

/-- BATCH_SET LEAVE (R299): an ACTIVE slot is LEAVING, a JOINING one is EMPTY. -/
def execBatchSetLeave (c : Cmd) (s : State) : Host.Outcome State Fault Refusal :=
  s.onBody fun b => b.batchSet c 1 fun b fl i x =>
    (if x.state = 2 then b.setBatch fl.slot i { x with state := 3 }
     else if x.state = 1 then b.setBatch fl.slot i {} else b).done fl

/-- BATCH_SET UPDATE (R299); action 3 is clamped to it. -/
def execBatchSetUpdate (c : Cmd) (s : State) : Host.Outcome State Fault Refusal :=
  s.onBody fun b => b.batchSet c 2 fun b fl i x =>
    (b.setBatch fl.slot i { x with prio := c.f 2 35 32, tokens := c.f 3 31 0 }).done fl

/-- The slots a step takes, and their tokens (R301): each candidate in turn, if rows and tokens stay within the limits. -/
def takeSlots (rows tokens : Nat) : List (Nat × BatchSlot) → List Nat × Nat → List Nat × Nat
  | [], x => x
  | (i, b) :: rest, (ts, n) =>
    if ts.length + 1 ≤ rows ∧ n + b.tokens ≤ tokens then takeSlots rows tokens rest (ts ++ [i], n + b.tokens)
    else takeSlots rows tokens rest (ts, n)

/-- The admission of a step (R301): the batch table after it, with the slots taken in row order, and the sequences deferred. -/
def admission (rows tokens : Nat) (t : List BatchSlot) : List BatchSlot × List Nat × Nat :=
  let t := t.map fun x => if x.state = 3 then ({} : BatchSlot) else x
  let ix := (List.range t.length).zip t
  let active := ix.filter fun p => decide (p.2.state = 2)
  let first (x y : Nat × BatchSlot) : Bool := decide (x.2.prio > y.2.prio) || (decide (x.2.prio = y.2.prio) && decide (x.1 ≤ y.1))
  let joining := sortBy first (ix.filter fun p => decide (p.2.state = 1))
  let taken := sortBy (fun x y => decide (x ≤ y)) (takeSlots rows tokens (active ++ joining) ([], 0)).1
  let t' := ix.map fun p =>
    match taken.findIdx? fun i => decide (i = p.1) with
    | some r => { p.2 with state := 2, row := r, steps := (if p.2.state = 1 then 0 else p.2.steps) + 1 }
    | none => { p.2 with row := 0xFFFF }
  (t', taken, (active.filter fun p => decide (p.1 ∉ taken)).length)

/-- The step list's records, of slots before and after the admission (R302). -/
def stepList (old new : List BatchSlot) : List Nat → Nat → List Byte
  | [], _ => []
  | i :: r, off =>
    let x := new.getD i {}
    let joined := if (old.getD i {}).state = 1 then 1 else 0
    leBytes 4 x.seq ++ leBytes 2 i ++ leBytes 2 joined ++ leBytes 4 off ++ leBytes 4 x.tokens ++ stepList old new r (off + x.tokens)

/-- A STEP opens (R300-R302): it admits sequences, writes the step list and the counts, and its body follows; a step without rows
completes at once and its body is consumed. -/
def Body.openStep (b : Body) (fl : Flight) (rows tokens body : Nat) (list : Nat) : Body :=
  let c := fl.cmd
  let old := (List.range 256).map fun i => b.batchSlot fl.slot i
  let (new, taken, deferred) := admission rows tokens old
  let b := (List.range 256).foldl (fun b i => b.setBatch fl.slot i (new.getD i {})) b
  let n := (taken.map fun i => (new.getD i {}).tokens).sum
  let b := if taken = [] then b
    else (b.tierTraffic fl.slot list (16 * taken.length) true 11).store list (stepList old new taken 0)
  let b := if c.b 3 16 then
      ((b.putSregs fl.slot (c.f 3 7 0) [BitVec.ofNat 64 taken.length]).putSregs fl.slot (c.f 3 15 8) [BitVec.ofNat 64 n]).wakeWaits
    else b
  if taken = [] then
    let b := { b with hm.skips := SMap.upd b.hm.skips 0 fl.cmd.wq (· + body) }
    (b.bump (.hmCtxStat fl.slot) Fld.hmCtxStatSteps 1).done fl (deferred * 2 ^ 48)
  else
    let ps := ((List.range 8).map (patchOf c)).filter fun p => p.testBit 31 && decide (bits p 11 0 < body ∧ bits p 14 12 ≠ 0)
    let run : StepRun := { fl := { fl with started := true }, wq := fl.cmd.wq, left := body, patches := ps, rows := taken.length,
                           tokens := n, deferred := deferred }
    (b.start fl).updInfo fl.slot fun i => { i with step := some run }

/-- STEP (R300). Given directly it waits until its partition runs no step. A STEP that faults opens none, and the commands after it are
no body (log entry 51). -/
def execStep (c : Cmd) (s : State) : Host.Outcome State Fault Refusal :=
  s.onBody fun b =>
    let busy : Bool := match (b.slotOf c.ctx.toNat).bind b.partOfSlot with
      | some p => !b.dispatched c 0x19 && b.batchPart p && b.stepping p
      | none => false
    b.onSub c 0x19 (!busy) fun b fl =>
      match b.partOfSlot fl.slot with
      | none => b.fail fl 0x11
      | some p =>
        if ¬ b.batchPart p then b.fail fl 0x51
        else
          let body := max 1 (min 4094 (c.f 1 11 0))
          let rows := max 1 (min 256 (c.f 2 8 0))
          let tokens := max 1 (c.f 2 47 16)
          let lost := ((List.range 8).map (patchOf c)).filter fun q => q.testBit 31 && decide (bits q 11 0 ≥ body ∨ bits q 14 12 = 0)
          let b := b.clampCmd fl (diff body (c.f 1 11 0) + diff rows (c.f 2 8 0) + diff tokens (c.f 2 47 16) + lost.length)
          match b.accessHere fl.slot (c.h 1) 0 (16 * rows) true with
          | .error st => b.fail fl st (c.h 1)
          | .ok e => b.openStep fl rows tokens body e.base

/-! ### SRAM (R280) -/

/-- SRAM_ECC_ERROR (R280): corrected and counted; or the context whose state holds the word is reset; or the core stops. -/
def execSramEccError (e : SramErr) (word : Nat) (s : State) : Host.Outcome State Fault Refusal :=
  s.onBody fun b =>
    match e with
    | .correctable => b.bump .hmSramEcc Fld.hmSramEccCorrected 1
    | .context ctx =>
      match b.slotOf ctx with
      | none => b
      | some slot =>
        if slot ≥ 64 then { b with hm.sramDead := true }
        else
          let b := (b.bump .hmSramEcc Fld.hmSramEccUncorrected 1).setF .hmSramEcc Fld.hmSramEccLastCtx ctx
          (b.err 0x0301 1 2 0 [word, ctx] 0x20 ctx).ctxReset slot 0x20
    | .other => { b with hm.sramDead := true }

end Sys2Proof.Machine
end

