-- ==== Sys2Proof/Machine/RegCmds.lean ====
section
/-!
DEFINITION. Reads and writes of registers (R8-R14), with the clamps of R83, R86, R379, R401 and R451.
-/

namespace Sys2Proof.Machine

/-- The ramp fields of BR_RAMP_CTL after the range clamps of R86 and the floor of R83: steps, cycles. -/
def rampClamp (floor steps cyc : Nat) : Nat × Nat :=
  let steps := min steps 4
  let cyc := max 1 (min cyc 63)
  if 2 ^ steps * cyc ≥ floor then (steps, cyc)
  else if 2 ^ steps * 63 ≥ floor then (steps, (floor + 2 ^ steps - 1) / 2 ^ steps)
  else
    let st := ((List.range 5).find? fun k => decide (k > steps ∧ 2 ^ k * 63 ≥ floor)).getD 4
    (st, max cyc ((floor + 2 ^ st - 1) / 2 ^ st))

/-- FLOOR under R451: 0, or a point, and then at most the lesser of CAP and ACLK_MAX. -/
def floorClamp (v cap amax : Nat) : Nat :=
  if v = 0 then 0 else min (clampMhz v).1 (min cap amax)

/-- The value a RW field takes when `v` is written, given the whole word as written and the fields before it. -/
def Body.clampField (b : Body) (r : Reg) (f : Fld) (w : Word) : Nat :=
  let v := w.fld f.hi f.lo
  match r with
  | .brRampCtl _ =>
    let p := rampClamp (frGet b.framing 0x00C) (w.fld 2 0) (w.fld 8 3)
    if f = Fld.brRampCtlStepsLog2 then p.1
    else if f = Fld.brRampCtlStepCyc then p.2
    else if f = Fld.brRampCtlGateIdle then max 16 v
    else v
  | .bwVcCfg => if f = Fld.bwVcCfgVc2Cap then v else max 1 v
  | .epPtpCfg => if f = Fld.epPtpCfgPpsMode then min 2 v else v
  | .wtMpl =>
    if f = Fld.wtMplMpl then (clampTo v (frGet b.framing 0x008) (frGet b.framing 0x009)).1
    else (clampMhz v).1
  | .wtLimit _ =>
    if f = Fld.wtLimitCap then (clampMhz v).1
    else floorClamp v (clampMhz (w.fld 9 0)).1 (b.getF .wtMpl Fld.wtMplAclkMax)
  | _ => v

/-- A write to one field by its access kind (R8). A RW field stores the value after clamping, counted when it changed;
a W1C field loses the bits written 1; the others ignore the write. -/
def Body.writeField (b : Body) (r : Reg) (w : Word) (f : Fld) : Body :=
  match f.acc with
  | .rw =>
    let v := b.clampField r f w
    (b.setF r f v).clamps (if v = w.fld f.hi f.lo then 0 else 1) 0xFF 0xFFFF
  | .w1c => b.setF r f (b.getF r f &&& (2 ^ f.width - 1 - w.fld f.hi f.lo))
  | _ => b

/-- The slices or segments whose power bit a write changed await their change (R103). -/
def Body.notePower (b : Body) (r : Reg) : Body :=
  match r with
  | .brHoldPwr g => { b with st.powerPend := ((List.range 8).map (8 * g + ·)) ++ b.st.powerPend }
  | .qyShedPwr q => { b with st.powerPend := ((List.range 18).map (1600 + 18 * q + ·)) ++ b.st.powerPend }
  | _ => b

/-- A write of a register's word, field by field; HM_WQ_DB acts as a doorbell (R313). -/
def Body.writeReg (b : Body) (r : Reg) (w : Word) : Body :=
  match r with
  | .hmWqDb n => b.ring n (w.fld 12 0) 0xFFFF
  | r => (r.fields.foldl (fun b f => b.writeField r w f) b).notePower r

/-- A register read (R8): the stored word with WO fields 0, and every RC field then at its reset value. -/
def Body.readReg (b : Body) (r : Reg) : Word × Body :=
  let w := b.reg r
  let v := r.fields.foldl (fun x f => if f.acc = .wo then putBits x f.hi f.lo 0 else x) w.toNat
  let b := r.fields.foldl (fun b f => if f.acc = .rc then b.setF r f (f.resetVal b.framing r) else b) b
  (BitVec.ofNat 64 v, b)

/-- A register access that does not resolve faults HOLD_RANGE: an error record, and the status to the requester (R13). -/
def Body.regFault (b : Body) (addr : Nat) : Body :=
  (b.err 0x0104 1 2 0 [addr] 0x11).send { port := .local, kind := .status, nums := [0x11, addr] }

/-- The register of an access of 8 aligned bytes. -/
def regAt (addr len : Nat) : Option Reg := if len = 8 ∧ addr % 8 = 0 then Reg.ofAddr addr else none

/-- REGISTER_WRITE (R8, R13). -/
def execRegisterWrite (addr len : Nat) (value : Word) (s : State) : Host.Outcome State Fault Refusal :=
  s.onBody fun b =>
    match regAt addr len with
    | some r => b.writeReg r value
    | none => b.regFault addr

/-- RC_READ (R8, R9, R13): a read of a register; the word read goes to the requester. -/
def execRcRead (addr len : Nat) (s : State) : Host.Outcome State Fault Refusal :=
  s.onBody fun b =>
    match regAt addr len with
    | some r => (b.readReg r).2.send { port := .local, kind := .regData, nums := [addr, (b.readReg r).1.toNat] }
    | none => b.regFault addr

end Sys2Proof.Machine
end

