-- ==== Sys2Proof/Machine/Boot.lean ====
section
/-!
DEFINITION. Containers and their verification (R403-R410), what each reset and state loses (R448), and the boot (R411-R415): the
firmware, the framing image, the Boardwalk, the tiers, RUN.
-/

namespace Sys2Proof.Machine

/-- A command whose effect reads the fuses. -/
def State.onFused (s : State) (f : Fuses → Body → Body) : Host.Outcome State Fault Refusal :=
  .next { s with body := f s.fuse s.body }

/-! ### Containers (R403-R410) -/

/-- The address of an image slot in the boot flash (R411). -/
def imageAt (kind slot : Nat) : Nat :=
  flashBase + (if kind = 2 then 0x100000 + slot * 0x800000 else 0x1100000 + slot * 0x100000)

/-- The most bytes of a container of a kind. -/
def imageMax (kind : Nat) : Nat := if kind = 2 then 0x800000 else 0x100000

/-- The little-endian number of `n` bytes at an offset of a list. -/
def numAt (l : List Byte) (o n : Nat) : Nat := ofLe ((l.drop o).take n)

/-- Bytes of a list from an offset. -/
def bytesAt (l : List Byte) (o n : Nat) : List Byte := (l.drop o).take n

/-- The sections a header lists: TYPE, OFFSET, LENGTH. -/
def sectionsOf (h : List Byte) : List (Nat × Nat × Nat) :=
  (List.range (numAt h 12 4)).map fun i => (numAt h (256 + 16 * i) 4, numAt h (260 + 16 * i) 4, numAt h (264 + 16 * i) 4)

/-- Field records: ID, INDEX, VALUE, and whether the reserved bytes are 0 (R405). -/
def recordsIn : Nat → List Byte → List (Nat × Nat × Nat × Bool)
  | 0, _ => []
  | n + 1, l => (numAt l 0 2, numAt l 2 2, numAt l 8 8, decide (numAt l 4 4 = 0)) :: recordsIn n (l.drop 16)

/-- The records of a framing image's FIELDS section. -/
def fieldsOf (x : List Byte) : List (Nat × Nat × Nat × Bool) :=
  match (sectionsOf x).find? fun t => decide (t.1 = 1) with
  | some t => recordsIn (t.2.2 / 16) (x.drop t.2.1)
  | none => []

/-- The value of a field and index: that of its last record (R405). -/
def recordOf (rs : List (Nat × Nat × Nat × Bool)) (id idx : Nat) : Option Nat :=
  (rs.reverse.find? fun r => decide (r.1 = id ∧ r.2.1 = idx)).map fun r => r.2.2.1

/-- The header's reserved bytes are 0, those of the section table included. -/
def reservedClear (h : List Byte) : Bool :=
  decide (numAt h 96 32 = 0 ∧ numAt h 225 31 = 0) && (List.range 16).all fun i => decide (numAt h (268 + 16 * i) 4 = 0)

/-- The Quays of no two partitions overlap. -/
def partsApart (rs : List (Nat × Nat × Nat × Bool)) : Bool :=
  let m (p : Nat) : Nat := min 0x3FF ((recordOf rs 0x040 p).getD 0)
  (List.range 10).all fun p => (List.range p).all fun q => decide (m p &&& m q = 0)

/-- Step 8 of R408: R404, and for a framing image R407. A section of another TYPE, or a FIELDS section of no whole number of records, is
refused (DEDUCED, log entry 52). -/
def shapeOkOf (kind : Nat) (x : List Byte) : Bool :=
  let ts := sectionsOf x
  let n := numAt x 8 4
  let want := if kind = 1 then 1 else 2
  (ts.all fun t => decide (t.1 = want ∨ t.1 = 0x7F) && decide (512 ≤ t.2.1 ∧ t.2.1 + t.2.2 + 96 ≤ n)) &&
    decide ((ts.filter fun t => decide (t.1 = want)).length = 1) &&
    (decide (kind = 2) ||
      let rs := fieldsOf x
      reservedClear x && (ts.all fun t => decide (t.1 ≠ 1 ∨ t.2.2 % 16 = 0)) &&
        (rs.all fun r => decide (r.2.1 < frCount r.1) && r.2.2.2) && partsApart rs)

/-- The hash held for an admitted signer (R409). -/
def signerHash (fu : Fuses) (kind signer : Nat) : Option (BitVec 384) :=
  let root := if signer < 4 ∧ ¬ fu.revoked.testBit signer then some (Config.gleanoKeyHash signer) else none
  if kind = 1 then
    match fu.owner with
    | some o => if signer = 0x10 then some o else none
    | none => root
  else root

/-- The first step of R408 that refuses the container of a kind at an address; 0 where it verifies. A container too short for its
signature is refused at step 1 (DEDUCED, log entry 52). -/
def Body.verify (b : Body) (fu : Fuses) (kind a : Nat) : Nat :=
  let h := b.bytes a 512
  let n := numAt h 8 4
  if numAt h 0 4 ≠ 0x314B5259 ∨ numAt h 4 2 ≠ 1 ∨ numAt h 6 2 ≠ kind ∨ numAt h 12 4 < 1 ∨ 16 < numAt h 12 4 ∨ n % 32 ≠ 0 ∨
      n < 608 ∨ imageMax kind < n then 1
  else
    let x := b.bytes a n
    let key := bytesAt x 128 97
    if numAt h 20 2 ≠ 0x14B0 then 2
    else if signerHash fu kind (numAt h 22 2) ≠ some (sha384 key) then 3
    else if numAt h 16 4 < (if kind = 1 then fu.frSvn else fu.fwSvn) then 4
    else if numAt h 32 16 ≠ 0 ∧ numAt h 32 16 ≠ Config.serial.toNat then 5
    else if ¬ ecdsaOk key (x.drop (n - 96)) (sha384 (x.take (n - 96))) then 6
    else if bytesAt x 48 48 ≠ digestBytes (sha384 (bytesAt x 512 (n - 608))) then 7
    else if ¬ shapeOkOf kind x then 8
    else 0

/-- What is known of a verified container at an address (R421). -/
def Body.imageInfo (b : Body) (slot a : Nat) : ImageInfo :=
  let h := b.bytes a 512
  { slot := slot, signer := numAt h 22 2, svn := numAt h 16 4, build := numAt h 24 8, hash := sha384 (b.bytes a (numAt h 8 4)) }

/-! ### Pins and module states (R456, R486) -/

/-- WT_STATE.MODULE takes a state, and the Watch's Logbook notes it. -/
def Body.moduleState (b : Body) (v : Nat) : Body := (b.setF .wtState Fld.wtStateModule v).log 10 0 0x0A 0 0xFFFF 0 v

/-- READY takes a level. -/
def Body.readyLevel (b : Body) (v : Bool) : Body := b.send { port := .pin, kind := .readyPin, nums := [if v then 1 else 0] }

/-- FAULT_N follows its causes (R486): low while HE is held under R412, or from a trip until a boot reaches RUN. -/
def Body.syncFault (b : Body) : Body :=
  let v := if b.boot.heHeld ∨ b.boot.tripped then 1 else 0
  if b.getF .wtPinStat Fld.wtPinStatFault = v then b
  else (b.setF .wtPinStat Fld.wtPinStatFault v).send { port := .pin, kind := .faultN, nums := [1 - v] }

/-! ### What a reset loses (R105, R342, R448) -/

/-- The units of each kind of Logbook (R463). -/
def logUnits (kind : Nat) : Nat := [200, 10, 1, 2, 36, 8, 20, 16, 1, 1, 1].getD kind 0

/-- Regions that memory is laid out in. -/
def regionUsed (r : Nat) : Bool :=
  decide (r < 1784) || (decide (1800 ≤ r) && decide (r < 2202))

/-- The contents of every region but some are lost: undefined, but for Benches that a MOD zeroes and the Jig banks, which are cleared. -/
def Body.loseAll (b : Body) (k : Keep) (kept : List Nat) : Body :=
  let code (r : Nat) : Nat := if r = 2201 ∨ (k = .mod ∧ 1800 ≤ r ∧ r < 2000) then 0 else b.epoch + 2
  { b with
    mem := b.mem.filter (fun p => decide (regionOf p.1 ∈ kept)),
    haze := b.haze.filter (fun h => decide (regionOf h.1 ∈ kept)),
    bg := (List.range 2202).filterMap (fun r =>
      let c := if r ∈ kept then b.bgOf r else code r
      if regionUsed r ∧ c ≠ bgDflt r then some (r, c) else none),
    epoch := b.epoch + 1,
    tiers.badSectors := b.tiers.badSectors.filter (fun x => decide (regionOf (x * 32) ∈ kept)) }

/-- Telemetry after a MOD, a return from DRYDOCK or a POR (R465, R470, R475): the Watch ring, what the Watch and the security root have
pending, and Teredo's fits stand until POR; a MOD keeps frozen Logbooks, DRYDOCK the Watch's. -/
def Body.teleAfter (b : Body) (k : Keep) : Tele :=
  if k = .por then {}
  else
    { fits := b.tele.fits, errWatch := b.tele.errWatch, watchSeq := b.tele.watchSeq,
      errPend := b.tele.errPend.filter (fun p => decide (p.1 / 65536 = 10 ∨ p.1 / 65536 = 11)),
      logs := if k = .mod then (if b.flag .wtLogFreeze Fld.wtLogFreezeFrozen then b.tele.logs else [])
        else b.tele.logs.filter fun p => decide (p.1 / 65536 = 10) }

/-- The power loops after a reset: those of the Watch go on through a MOD and DRYDOCK. -/
def Body.powerAfter (b : Body) (k : Keep) : Power :=
  let p := b.power
  if k = .por then { enA := p.enA, enB := p.enB }
  else
    { p with
      pSamples := [], wakeAt := none, exitPending := false, stateCmd := none, waits := [], berths := [],
      guard := if k = .drydock then List.replicate 10 16 else p.guard,
      guardPor := k = .drydock || p.guardPor }

/-- The tiers after a reset: wear metadata and the active sets of the last training stand. -/
def Body.tiersAfter (b : Body) (k : Keep) : Tiers :=
  let t := b.tiers
  { badSectors := t.badSectors, mapped := t.mapped, flash := t.flash, hostProg := t.hostProg, allProg := t.allProg,
    trainedOnce := k = .mod && t.trainedOnce, prevOutH := t.prevOutH, prevOutL := t.prevOutL,
    scrubStart := List.replicate 4 b.ts, sluices := resetSluices }

/-- What a POR, a MOD, or DRYDOCK leaves of the module: the fields kept through it, Tier F and the boot flash with their metadata, through
a MOD also Tier H and Tier L, and what the Watch holds; everything else is as at reset, with the framing values discarded (R402, R448). -/
def Body.cleared (b : Body) (k : Keep) : Body :=
  let regs := b.regs
  let ts := if k = .por then 0 else b.ts
  let tele := b.teleAfter k
  let b := b.loseAll k (if k = .mod then [1780, 1781, 1782, 2200] else [1782, 2200])
  let b : Body :=
    { b with
      ts := ts, framing := [], bw := {}, hm := { nextUid := b.hm.nextUid }, st := {}, eth := {}, ln := {}, unlock := {}, crates := {},
      rnd := {}, berths := [], ops := [], jigs := [], ferry := {}, tele := tele, power := b.powerAfter k, tiers := b.tiersAfter k,
      boot := { b.boot with heHeld := false, fw := {}, fr := {}, frBytes := [], released := ts } }
  regs.foldl (fun b p => match Reg.ofAddr p.1 with
    | some r => b.resetReg k r
    | none => b) b

/-- The events of a reset in the Logbooks of the units it reaches: all but the Watch's (R463). -/
def Body.logReset (b : Body) (code : Nat) : Body :=
  (List.range 10).foldl (fun b k => (List.range (logUnits k)).foldl (fun b u => b.log k u 0x0C 0 0xFFFF 0 code) b) b

/-- A MOD reset (R415, R444): commands in flight end without completion; the boot begins once RST_N is high. -/
def Body.modReset (b : Body) (src : Nat) : Body :=
  let b := ((b.cleared .mod).noteReset 1 src).logReset 1
  let b := { b with boot.phase := if b.boot.rstN then .released else .held, boot.kind := 1 }
  ((b.moduleState 3).readyLevel false).syncFault

/-- The fuse-backed fields are sensed (R413, R429, R345). -/
def Body.senseFuses (b : Body) (fu : Fuses) : Body :=
  let b := (b.setF .scId2 Fld.scId2OwnerSet (if fu.owner.isSome then 1 else 0)).setF .scId2 Fld.scId2Revoked fu.revoked
  let b := (b.setF .scId2 Fld.scId2FwSvn fu.fwSvn).setF .scId2 Fld.scId2FrSvn fu.frSvn
  (List.range 20).foldl (fun b s => b.setF (.mtHbmMapout s) Fld.mtHbmMapoutFused (SMap.get fu.mapout 0 s)) b

/-! ### The firmware (R411, R412) -/

/-- The slots a boot tries, in order. -/
def slotOrder (active : Nat) (pend : Option Nat) : List Nat :=
  match pend with
  | some s => [s, 1 - s]
  | none => [active, 1 - active]

/-- A slot's PENDING mark is lost. -/
def Body.dropPending (b : Body) (kind slot : Nat) : Body :=
  if kind = 2 then (if b.boot.pendFw = some slot then { b with boot.pendFw := none } else b)
  else if b.boot.pendFr = some slot then { b with boot.pendFr := none } else b

/-- A boot tries the slots of a kind: the one that verifies, and whether the first was refused. A refused slot leaves an error record, and
its PENDING mark is lost. -/
def Body.trySlots (b : Body) (fu : Fuses) (kind : Nat) : List Nat → Bool → Option (Nat × Bool) × Body
  | [], _ => (none, b)
  | s :: rest, again =>
    let e := b.verify fu kind (imageAt kind s)
    if e = 0 then (some (s, again), b)
    else Body.trySlots ((b.err 0x0801 1 11 0 [kind, s, e]).dropPending kind s) fu kind rest true

/-- The firmware is read and verified; where neither slot verifies HE is held, with FAULT_N low (R411, R412). -/
def Body.loadFirmware (b : Body) (fu : Fuses) : Body :=
  match b.trySlots fu 2 (slotOrder b.boot.activeFw b.boot.pendFw) false with
  | (none, b) => ({ b with boot.heHeld := true }).syncFault
  | (some (s, fell), b) =>
    let b := { b with boot.fw := b.imageInfo s (imageAt 2 s), boot.phase := .firmware, boot.heHeld := false }
    ((b.setF .scBootStat Fld.scBootStatFwSlot s).setF .scBootStat Fld.scBootStatFwFallback (if fell then 1 else 0)).syncFault

/-- FIRMWARE_LOAD (R411, R413, R414). -/
def execFirmwareLoad (s : State) : Host.Outcome State Fault Refusal :=
  s.onFused fun fu b =>
    if b.boot.phase ≠ .released ∨ b.boot.heHeld then b else (b.setF .wtState Fld.wtStateModule 3).loadFirmware fu

/-! ### The framing image (R402, R405-R407, R412) -/

/-- The nearest of 512, 1,024 and 2,048, a tie to the lower (R426). -/
def nearWidth (v : Nat) : Nat := if v ≤ 768 then 512 else if v ≤ 1536 then 1024 else 2048

/-- A framing value after the clamps of R406, R83, R322 and R328, against the values already applied. `rate` gives the RATEs of the other
Sluices of a tier. -/
def Body.clampFr (b : Body) (id idx v : Nat) (rate : Nat → Nat) : Nat :=
  let fr := b.framing
  let nib (lo : Nat) : Nat := max 1 (v / 2 ^ lo % 16) * 2 ^ lo
  let win (top : Nat) : Nat :=
    let base := min top (v % 2 ^ 32)
    base + min (top - base) (v / 2 ^ 32) * 2 ^ 32
  match id with
  | 0x001 => min v 0xFFFE
  | 0x002 | 0x041 | 0x053 => min v 1
  | 0x003 => if v = 0 then 1 else v
  | 0x004 => (clampTo v 1 4094).1
  | 0x006 => (clampTo v 1 65535).1
  | 0x007 | 0x011 | 0x020 => min v 2
  | 0x008 => (clampTo v 1500 4200).1
  | 0x009 => (clampTo v (frGet fr 0x008) 4200).1
  | 0x00A => (clampTo v (frGet fr 0x008) (frGet fr 0x009)).1
  | 0x00B => (clampMhz v).1
  | 0x00C => (clampTo v 1 1008).1
  | 0x00D => min v 7
  | 0x00E | 0x043 => min v 255
  | 0x00F | 0x010 => min v 65535
  | 0x012 => nib 0 + nib 4 + nib 8
  | 0x013 => (clampTo v 1 16).1
  | 0x030 => if v ≥ 2 ∧ idx < 34 then 1 else min v 2
  | 0x031 | 0x040 => min v 0x3FF
  | 0x032 => if v ≥ 6 then 7 else v
  | 0x042 => nearWidth v
  | 0x044 | 0x060 => min v 0x3FFFF
  | 0x045 => if frGet fr 0x002 = 0 then win (2 * b.getF .mtCfg Fld.mtCfgHChannels) else v
  | 0x046 => win (32 * b.getF .mtCfg Fld.mtCfgLChannels)
  | 0x047 => win 16384
  | 0x048 | 0x049 | 0x04A => b.slFit idx (id - 0x048) (v % 65536) rate + max 1 (v / 65536 % 65536) * 65536
  | 0x050 => min v 4
  | 0x051 => max 1 (min v 63)
  | 0x052 => (clampTo v 16 65535).1
  | 0x054 => min v 15
  | _ => v

/-- The bits of a framing VALUE that its field takes: the bits R406 lists where it lists some; the others are reserved (R5). -/
def frTaken (id v : Nat) : Nat :=
  if id = 0x012 then v % 4096 else if 0x048 ≤ id ∧ id ≤ 0x04A then v % 2 ^ 32 else v

/-- A framing value is clamped and applied; the second part is 1 where it changed. Under the floor of R83 a STEP_CYC may raise
RAMP_STEPS_LOG2, which then counts as well unless its own value was changed before. -/
def Body.applyFr (b : Body) (id idx v : Nat) (rate : Nat → Nat) : Body × Nat :=
  if id = 0x051 then
    let steps := frGet b.framing 0x050 idx
    let p := rampClamp (frGet b.framing 0x00C) steps v
    ({ b with framing := frSet (frSet b.framing 0x050 idx p.1) 0x051 idx p.2 }, diff p.1 steps + diff p.2 v)
  else
    let x := b.clampFr id idx v rate
    ({ b with framing := frSet b.framing id idx x }, diff x (frTaken id v))

/-- Every field and index in the order of application: increasing ID, then INDEX. -/
def frAll : List (Nat × Nat) := frFields.flatMap fun p => (List.range p.2).map fun i => (p.1, i)

/-- The fields applied once the active sets are known (R413): windows and Sluices. -/
def frLate (id : Nat) : Bool := decide (0x045 ≤ id) && decide (id ≤ 0x04A)

/-- The register fields that framing values feed take them, but for those kept through a reset (R10, R402). -/
def Body.feedAll (b : Body) (k : Keep) : Body :=
  fiRegs.foldl (fun b r => r.fields.foldl (fun b f =>
    if f.rst = .fi ∧ k ∉ f.kept then b.setF r f (fiValue b.framing r f) else b) b) b

/-- Quays in no partition are laid up (R293); the slices and segments of the others begin to power on, and after a MOD to be zeroed (R103,
R105, R413). -/
def Body.powerQuays (b : Body) : Body :=
  let idle := (List.range 10).filter fun q => (partOfQuay b.framing q).isNone
  let b := idle.foldl (fun b q => (List.range 20).foldl (fun b i => b.setF (.brPwrStat (20 * q + i)) Fld.brPwrStatState 3) b) b
  let rs := (List.range 1780).filter fun r => b.regionOn r && b.domainUp r
  { b with st.powering := rs, st.zeroing := if b.boot.kind = 1 then rs else [] }

/-- The reset that a boot ends. -/
def bootKeep (kind : Nat) : Keep := if kind = 1 then .mod else if kind = 2 then .drydock else .por

/-- FRAMING_APPLY (R405-R407, R412): the first framing slot that verifies is applied, or the safe framing. -/
def execFramingApply (s : State) : Host.Outcome State Fault Refusal :=
  s.onFused fun fu b =>
    if b.boot.phase ≠ .firmware then b
    else
      let (got, b) := b.trySlots fu 1 (slotOrder b.boot.activeFr b.boot.pendFr) false
      let b := match got with
        | some (k, fell) =>
          let b := { b with
            boot.fr := b.imageInfo k (imageAt 1 k),
            boot.frBytes := b.bytes (imageAt 1 k) (numAt (b.bytes (imageAt 1 k) 512) 8 4) }
          (b.setF .scBootStat Fld.scBootStatFrSlot k).setF .scBootStat Fld.scBootStatFrFallback (if fell then 1 else 0)
        | none =>
          ((b.setF .scBootStat Fld.scBootStatSafe 1).setF .scBootStat Fld.scBootStatFrFallback 1).err 0x0802 1 11 0 []
      let rs := fieldsOf b.boot.frBytes
      let (b, n) := (frAll.filter fun p => !frLate p.1).foldl (fun (x : Body × Nat) p =>
        let (b, k) := x.1.applyFr p.1 p.2 ((recordOf rs p.1 p.2).getD (frDefault p.1 p.2)) fun _ => 1
        (b, x.2 + k)) (b, 0)
      let b := { (b.clamps n 0xFF 0xFFFE).feedAll (bootKeep b.boot.kind) with boot.phase := .framed }
      b.powerQuays

/-! ### The Boardwalk (R24-R29) -/

/-- The x64 modules of a Boardwalk link. -/
def linkModules (l : Nat) : Nat := if l = 17 then 25 else 32

/-- The links on the routes of R26 between a Quay and the two harbour dies. -/
def harbourRoutes (q : Nat) : List Nat :=
  let row := q / 5
  [13 + row, 15 + row] ++ (List.range 4).map (4 * row + ·)

/-- The Quays that a link without modules cuts off: those whose route to a harbour die uses it (DEDUCED, log entry 9). -/
def cutOff (out : List (Nat × Nat)) : List Nat :=
  let dead (l : Nat) : Bool := decide ((out.filter fun p => decide (p.1 = l)).length ≥ linkModules l)
  (List.range 10).filter fun q => (harbourRoutes q).any dead

/-- BOARDWALK_TRAINING (R29, R413): link training ends, and Line training begins. -/
def execBoardwalkTraining (out : List (Nat × Nat)) (s : State) : Host.Outcome State Fault Refusal :=
  s.onBody fun b =>
    if b.boot.phase ≠ .framed then b
    else
      let out := (out.filter fun p => decide (p.1 < 18) && decide (p.2 < linkModules p.1)).dedup
      let left (l : Nat) : Nat := linkModules l - (out.filter fun p => decide (p.1 = l)).length
      let b := out.foldl (fun b p => b.err 0x0201 1 12 p.1 [p.2, left p.1]) b
      let gone := cutOff out
      let b := { b with bw.out := out, bw.absent := gone, boot.phase := .boardwalk,
                        st.powering := b.st.powering.filter (fun r => decide (regionQuay r ∉ gone)) }
      (List.range 36).foldl (fun b l => if b.getF (.lnCfg l) Fld.lnCfgRole = 0 then b else b.trainLine l true) b

/-- LINK_RETRAIN (R29): a link that exhausts its retry limit retrains once. -/
def execLinkRetrain (link : Fin 18) (ok : Bool) (s : State) : Host.Outcome State Fault Refusal :=
  s.onBody fun b =>
    let rest := b.bw.retried.filter fun l => decide (l ≠ link.val)
    { b with bw.retried := if ok then rest else rest ++ [link.val] }

/-- LINK_LOST (R29): after a failed retraining every context stops with LINE_LOST, and a MOD reset is required. -/
def execLinkLost (link : Fin 18) (retries : Nat) (s : State) : Host.Outcome State Fault Refusal :=
  s.onBody fun b =>
    if link.val ∉ b.bw.retried then b
    else
      let ks := b.resident
      let saved := ks.flatMap fun k => (b.info k).saved
      let b := b.err 0x0202 2 12 link [retries] 0x21
      let b := ks.foldl (fun b k => b.updInfo k fun i => { i with saved := [], step := none }) b
      let b := b.abort (saved ++ b.hm.flights) 0x21
      let b := (ks ++ [mgmtSlot]).foldl (fun b k => b.endQueued k 0x21) b
      let b := ks.foldl (fun b k => b.setF (.hmCtxStat k) Fld.hmCtxStatState 1) b
      { b with bw.modRequired := true }

/-! ### The tiers (R322, R328, R335, R336, R342, R413, R414) -/

/-- The fused-out channels of a stack as sensed. -/
def Body.fusedOf (b : Body) (s : Nat) : Nat := b.getF (.mtHbmMapout s) Fld.mtHbmMapoutFused

/-- The active set of Tier H after training: a full training leaves out the fused channels and those that fail; after a MOD a set no fuse
has changed stands. The second part says that the contents stand. -/
def Body.outH (b : Body) (failed : List Nat) : SMap Nat × Bool :=
  let old (s : Nat) : Nat := SMap.get b.tiers.prevOutH 0 s
  let stands := b.tiers.trainedOnce && (List.range 20).all fun s => decide (b.fusedOf s &&& old s = b.fusedOf s)
  if stands then (b.tiers.prevOutH, true)
  else
    let bad (s : Nat) : Nat := ((((failed.filter fun h => decide (h < 640 ∧ h / 32 = s)).map fun h => h % 32).dedup).map fun c => 2 ^ c).sum
    let new : SMap Nat := (List.range 20).filterMap fun s => let m := b.fusedOf s ||| bad s; if m = 0 then none else some (s, m)
    (new, b.tiers.trainedOnce && decide (new = b.tiers.prevOutH))

/-- The default of a window or Sluice field (R406): the whole tier; the sum bound divided among the defined partitions, or a partition's
own bound. -/
def Body.lateDefault (b : Body) (id idx : Nat) : Nat :=
  let n := ((List.range 10).filter fun p => partDefined b.framing p).length
  match id with
  | 0x045 => 2 * b.getF .mtCfg Fld.mtCfgHChannels * 2 ^ 32
  | 0x046 => 32 * b.getF .mtCfg Fld.mtCfgLChannels * 2 ^ 32
  | 0x047 => 16384 * 2 ^ 32
  | _ =>
    let t := id - 0x048
    let rate := if idx = 10 ∨ (t = 0 ∧ b.getF .mtCfg Fld.mtCfgHMode ≠ 0) then b.slMost idx t fun _ => 1 else b.tierBound t / n
    rate + 64 * 65536

/-- Applies one window or Sluice field. The Sluices of undefined partitions take no value and hold 1 (R328). -/
def Body.applyLate (b : Body) (rs : List (Nat × Nat × Nat × Bool)) (id idx : Nat) : Body × Nat :=
  if 0x048 ≤ id then
    if idx < 10 ∧ ¬ partDefined b.framing idx then ({ b with framing := frSet b.framing id idx (1 + 65536) }, 0)
    else
      b.applyFr id idx ((recordOf rs id idx).getD (b.lateDefault id idx)) fun j => if j < idx then frGet b.framing id j % 65536 else 1
  else b.applyFr id idx ((recordOf rs id idx).getD (b.lateDefault id idx)) fun _ => 1

/-- The Sluices take the framing values with full levels (R342). -/
def Body.fillSluices (b : Body) : Body :=
  (List.range 33).foldl (fun b k =>
    let v := frGet b.framing (0x048 + k % 3) (k / 3)
    let b := (b.setF (.slCfg (k / 3) (k % 3)) Fld.slCfgRate (v % 65536)).setF (.slCfg (k / 3) (k % 3)) Fld.slCfgBurst (v / 65536)
    b.setSluice (k / 3) (k % 3) (fullSluice b.framing (k / 3) (v / 65536))) b

/-- The contents of a tier are lost with its uncorrectable sectors (R342). -/
def Body.loseTier (b : Body) (r : Nat) : Body :=
  { b.loseRegion r with tiers.badSectors := b.tiers.badSectors.filter (fun x => decide (regionOf (x * 32) ≠ r)) }

/-- The Tier H channels left out of the active set. -/
def channelsOut (h : SMap Nat) : List Nat := (List.range 640).filter fun c => (SMap.get h 0 (c / 32)).testBit (c % 32)

/-- The active sets take effect: the stacks' map-outs and the numbers of channels, and training is done (R335, R413). -/
def Body.tiersTrained (b : Body) (h : SMap Nat) (l : List Nat) : Body :=
  let b := (List.range 20).foldl (fun b k => b.setF (.mtHbmMapout k) Fld.mtHbmMapoutActiveOut (SMap.get h 0 k)) b
  let b := (b.setF .mtCfg Fld.mtCfgHChannels (640 - (channelsOut h).length)).setF .mtCfg Fld.mtCfgLChannels (96 - l.length)
  { b with tiers.lOut := l, tiers.prevOutH := h, tiers.prevOutL := l, tiers.trainedOnce := true, boot.phase := .trained }

/-- Channels that failed training and are not fused out become map-out candidates (R335). -/
def Body.trainingCandidates (b : Body) (h : SMap Nat) (failedH : List Nat) : Body :=
  ((channelsOut h).filter fun c => decide (c ∈ failedH) && !(b.fusedOf (c / 32)).testBit (c % 32)).foldl (fun b c => b.candidate c 0) b

/-- The windows and Sluices of the framing image are applied, and clamps counted (R413). -/
def Body.applyLateAll (b : Body) : Body :=
  let rs := fieldsOf b.boot.frBytes
  let (b, n) := (frAll.filter fun p => frLate p.1).foldl (fun (x : Body × Nat) p =>
    let (b, k) := x.1.applyLate rs p.1 p.2
    (b, x.2 + k)) (b, 0)
  b.clamps n 0xFF 0xFFFE

/-- TIER_TRAINING (R335, R342, R413-R415): the active sets are fixed, the wear values rebuilt, windows and Sluice bounds computed. -/
def execTierTraining (failedH failedL : List Nat) (s : State) : Host.Outcome State Fault Refusal :=
  s.onBody fun b =>
    if b.boot.phase ≠ .boardwalk then b
    else
      let (h, standsH) := b.outH failedH
      let standsL := b.tiers.trainedOnce
      let l := if standsL then b.tiers.prevOutL else sortBy (fun x y => decide (x ≤ y)) ((failedL.filter fun c => decide (c < 96)).dedup)
      let b := if standsH then b else b.loseTier 1780
      let b := (if standsL then b else b.loseTier 1781).tiersTrained h l
      let b := if standsH then b else b.trainingCandidates h failedH
      b.applyLateAll.fillSluices.flashLife

/-! ### RUN (R411, R413, R415) -/

/-- A PENDING slot that reaches RUN becomes ACTIVE. -/
def Body.pendingRuns (b : Body) : Body :=
  let b := if b.boot.pendFw = some b.boot.fw.slot then { b with boot.activeFw := b.boot.fw.slot, boot.pendFw := none } else b
  if b.boot.frBytes ≠ [] ∧ b.boot.pendFr = some b.boot.fr.slot then
    { b with boot.activeFr := b.boot.fr.slot, boot.pendFr := none }
  else b

/-- MODULE_RUN (R411-R415): the slices and segments powering on are ready, zeroed after a MOD and undefined otherwise; partitions start. -/
def execModuleRun (s : State) : Host.Outcome State Fault Refusal :=
  s.onBody fun b =>
    if b.boot.phase ≠ .trained then b
    else
      let on := b.st.powering
      let zs := b.st.zeroing
      let b := { b with st.powering := [], st.zeroing := [] }
      let b := on.foldl (fun b r => b.setReady r true) b
      let b := zs.foldl (fun b r => b.zeroRegion r) b
      let b := { b.pendingRuns with boot.phase := .run, boot.tripped := false }
      let b := (b.bump .scBootStat Fld.scBootStatBoots 1).setF .scBootStat Fld.scBootStatBootUs
        (min (2 ^ 32 - 1) ((b.ts - b.boot.released).toNat / 1000))
      ((b.moduleState 0).readyLevel true).syncFault

end Sys2Proof.Machine
end

