-- ==== Sys2Proof/Machine/Security.lean ====
section
/-!
DEFINITION. The commands of the security root (R416-R425): framing images, live fields, attestation, fuses, debug levels.
-/

namespace Sys2Proof.Machine

/-- Writes a command's output at an offset of its handle, and ends it (R110, R118). -/
def Body.outWrite (b : Body) (fl : Flight) (h off : Nat) (data : List Byte) : Body :=
  match b.accessHere fl.slot h off data.length true with
  | .error st => b.fail fl st h off
  | .ok e => ((b.tierTraffic fl.slot (e.base + off) data.length true 11).store (e.base + off) data).done fl

/-! ### FR_STAGE, FR_LIVE, FR_READ (R417-R419) -/

/-- FR_STAGE (R417): the container is read and verified, written into the slot that is not ACTIVE, and marked PENDING. The flash is
written at once (log entry 53). -/
def execFrStage (c : Cmd) (s : State) : Host.Outcome State Fault Refusal :=
  s.onFused fun fu b => b.onCmd c 0x80 fun b fl =>
    let kind := if c.b 1 0 then 2 else 1
    let off := 32 * c.f 1 37 18
    match b.accessHere fl.slot (c.h 1) off 512 false with
    | .error st => b.fail fl st (c.h 1) off
    | .ok e =>
      let a := e.base + off
      let n := b.le (a + 8) 4
      match b.accessHere fl.slot (c.h 1) off n false with
      | .error st => b.fail fl st (c.h 1) off
      | .ok _ =>
        let (x, ecc, b) := (b.tierTraffic fl.slot a n false 11).load fl a n
        let step := b.verify fu kind a
        if ecc then b.retire fl 0x20 0 true
        else if step = 8 then b.fail fl 0x11 (c.h 1) off
        else if step ≠ 0 then b.fail fl 0x60 (c.h 1) off
        else
          let to_ := 1 - (if kind = 2 then b.boot.activeFw else b.boot.activeFr)
          let b := b.setBytes (imageAt kind to_) x
          let b := if kind = 2 then { b with boot.pendFw := some to_ } else { b with boot.pendFr := some to_ }
          b.done fl

/-- The register fields that a live field and INDEX feed (R406). -/
def frFeeds (fr : SMap Nat) (id idx : Nat) : List (Reg × Fld) :=
  let berths := (quaysOf fr idx).flatMap fun q => (List.range 20).map (20 * q + ·)
  match id with
  | 0x00A => [(.wtMpl, Fld.wtMplMpl)]
  | 0x00B => [(.wtMpl, Fld.wtMplAclkMax)]
  | 0x00F => [(.epPtpCfg, Fld.epPtpCfgRxLat)]
  | 0x010 => [(.epPtpCfg, Fld.epPtpCfgTxLat)]
  | 0x011 => [(.epPtpCfg, Fld.epPtpCfgPpsMode)]
  | 0x012 => (Reg.fields .bwVcCfg).filterMap fun f => if f = Fld.bwVcCfgVc2Cap then none else some (.bwVcCfg, f)
  | 0x013 => [(.bwVcCfg, Fld.bwVcCfgVc2Cap)]
  | 0x032 => [(.lnCfg idx, Fld.lnCfgPin)]
  | 0x043 => berths.map fun g => (.brHoldPwr g, Fld.brHoldPwrSliceOn)
  | 0x044 => (quaysOf fr idx).map fun q => (.qyShedPwr q, Fld.qyShedPwrSegOn)
  | 0x050 => berths.map fun g => (.brRampCtl g, Fld.brRampCtlStepsLog2)
  | 0x051 => berths.map fun g => (.brRampCtl g, Fld.brRampCtlStepCyc)
  | 0x052 => berths.map fun g => (.brRampCtl g, Fld.brRampCtlGateIdle)
  | 0x053 => berths.map fun g => (.brRampCtl g, Fld.brRampCtlRampDown)
  | 0x054 => (quaysOf fr idx).map fun q => (.qyStagger q, Fld.qyStaggerStagger)
  | 0x060 => [(.wtShedRetain idx, Fld.wtShedRetainRetain)]
  | _ => []

/-- A live value is written into the registers it feeds; power bits then await their change (R103). -/
def Body.feed (b : Body) (id idx : Nat) : Body :=
  if 0x048 ≤ id ∧ id ≤ 0x04A then
    let v := frGet b.framing id idx
    b.slPut idx (id - 0x048) (v % 65536) (v / 65536)
  else (frFeeds b.framing id idx).foldl (fun b p => (b.setF p.1 p.2 (fiValue b.framing p.1 p.2)).notePower p.1) b

/-- FR_LIVE may set a field and INDEX (R418): a live field of R406, an INDEX in range that names no undefined partition; a partition's
Sluice names its partition (DEDUCED, log entry 53). -/
def Body.liveOk (b : Body) (id idx : Nat) : Bool :=
  decide (id ∈ frLive ∧ idx < frCount id) &&
    (!(frPartition id || (decide (0x048 ≤ id ∧ id ≤ 0x04A) && decide (idx < 10))) || partDefined b.framing idx)

/-- FR_LIVE (R418). RAMP_STEPS_LOG2 and RAMP_STEP_CYC together keep the floor of R83. A Sluice's bound counts the other Sluices' RATEs as
they stand (R328; log entry 53). -/
def execFrLive (c : Cmd) (s : State) : Host.Outcome State Fault Refusal :=
  s.onBody fun b => b.onCmd c 0x81 fun b fl =>
    let id := c.f 1 15 0
    let idx := c.f 1 31 16
    if ¬ b.liveOk id idx then b.fail fl 0x11 id idx
    else
      let (b, n) := b.applyFr id idx (c.w 2).toNat fun j => b.getF (.slCfg j (id - 0x048)) Fld.slCfgRate
      let (b, k) := if id = 0x050 then b.applyFr 0x051 idx (frGet b.framing 0x051 idx) fun _ => 1 else (b, 0)
      let b := b.clampCmd fl (n + k)
      (if id = 0x050 ∨ id = 0x051 then (b.feed 0x050 idx).feed 0x051 idx else b.feed id idx).done fl

/-- A field record (R405). -/
def frRecord (id idx v : Nat) : List Byte := leBytes 2 id ++ leBytes 2 idx ++ leBytes 4 0 ++ leBytes 8 v

/-- The current-values form of FR_READ (R419). -/
def currentForm (fr : SMap Nat) : List Byte :=
  (frAll.flatMap fun p => frRecord p.1 p.2 (frGet fr p.1 p.2)) ++ frRecord 0xFFFF 0 0

/-- FR_READ (R419). Under the safe framing there is no active image, and its form is empty (log entry 53). -/
def execFrRead (c : Cmd) (s : State) : Host.Outcome State Fault Refusal :=
  s.onBody fun b => b.onCmd c 0x82 fun b fl =>
    b.outWrite fl (c.h 1) 0 (if c.b 1 0 then currentForm b.framing else b.boot.frBytes)

/-! ### Pratique reports (R420-R422) -/

/-- The identity certificate in the boot flash: its DER encoding gives its length; none where that is malformed or above 4 KiB. -/
def Body.certificate (b : Body) : Option (List Byte) :=
  let a := flashBase + 0x10000
  let h := b.bytes a 4
  let x (i : Nat) : Nat := (h.getD i 0).toNat
  let n := if x 1 < 0x80 then 2 + x 1 else if x 1 = 0x81 then 3 + x 2 else if x 1 = 0x82 then 4 + 256 * x 2 + x 3 else 4097
  if x 0 = 0x30 ∧ n ≤ 4096 then some (b.bytes a n) else none

/-- The flags of a report: unlocked since POR, owner key fused, fallbacks, safe framing, certificate mismatch. -/
def Body.reportFlags (b : Body) (fu : Fuses) (mismatch : Bool) : Nat :=
  b.getF .scDebugStat Fld.scDebugStatSeen + (if fu.owner.isSome then 2 else 0) + 4 * b.getF .scBootStat Fld.scBootStatFwFallback +
    8 * b.getF .scBootStat Fld.scBootStatFrFallback + 16 * b.getF .scBootStat Fld.scBootStatSafe + (if mismatch then 32 else 0)

/-- Bytes 0-415 of a report (R421). -/
def Body.report (b : Body) (fu : Fuses) (ctx : Nat) (nonce user : List Byte) (mismatch : Bool) : List Byte :=
  (leBytes 4 0x31515250 ++ leBytes 2 1 ++ leBytes 2 512 ++ leBytes 16 Config.serial.toNat) ++
    (leBytes 1 0xB0 ++ leBytes 1 (b.getF .scDebugStat Fld.scDebugStatPolicy) ++ leBytes 1 (b.getF .scDebugStat Fld.scDebugStatLevels) ++
      leBytes 1 (b.reportFlags fu mismatch)) ++
    (leBytes 4 (b.getF .scBootStat Fld.scBootStatBoots) ++ leBytes 4 fu.fwSvn ++ leBytes 4 fu.frSvn ++ leBytes 4 fu.revoked) ++
    (leBytes 4 b.boot.fw.svn ++ leBytes 8 b.boot.fw.build ++ digestBytes b.boot.fw.hash ++ digestBytes b.boot.fr.hash) ++
    (leBytes 4 b.boot.fr.svn ++ leBytes 8 b.boot.fr.build ++ digestBytes (sha384 (currentForm b.framing))) ++
    (digestBytes (fu.owner.getD 0) ++ nonce ++ leBytes 2 ctx ++ leBytes 2 0 ++ leBytes 8 b.now) ++
    (user ++ leBytes 48 0)

/-- A number of 384 bits that nothing constrains: a secret drawn from Swell E. -/
def Body.freeSecret (b : Body) : Nat × Body :=
  (List.range 6).foldl (fun (p : Nat × Body) _ => let (w, b) := p.2.free; (p.1 * 2 ^ 64 + w.toNat, b)) (0, b)

/-- SC_ATTEST (R422). Its per-signature secret takes a Swell word and is a free value (log entry 54). -/
def execScAttest (c : Cmd) (s : State) : Host.Outcome State Fault Refusal :=
  s.onFused fun fu b => b.onCmd c 0x83 fun b fl =>
    let out := b.accessHere fl.slot (c.h 1) 0 512 true
    let user := if c.h 6 = 0 then Except.ok {} else b.accessHere fl.slot (c.h 6) 0 64 false
    let cert := if c.h 7 = 0 then Except.ok {} else b.accessHere fl.slot (c.h 7) 0 4096 true
    match out, user, cert with
    | .error st, _, _ => b.fail fl st (c.h 1)
    | .ok _, .error st, _ => b.fail fl st (c.h 6)
    | .ok _, .ok _, .error st => b.fail fl st (c.h 7)
    | .ok oe, .ok ue, .ok ce =>
      match b.takeWord 1 with
      | none => b.awaitEntropy fl
      | some (_, b) =>
        let (k, b) := b.freeSecret
        let b := { b with rnd.waits := b.rnd.waits.filter fun u => decide (u ≠ fl.uid) }
        let wantCert := decide (c.h 7 ≠ 0)
        let good := match b.certificate with
          | some x => if sha384 x = Config.certHash then some x else none
          | none => none
        let mismatch := wantCert && good.isNone
        let b := if mismatch then b.err 0x0804 1 11 0 [] else b
        let (data, ecc, b) :=
          if c.h 6 = 0 then (List.replicate 64 0, false, b) else (b.tierTraffic fl.slot ue.base 64 false 11).load fl ue.base 64
        let nonce := [2, 3, 4, 5].flatMap fun i => leBytes 8 (c.w i).toNat
        let x := b.report fu fl.cmd.ctx.toNat nonce data mismatch
        match ecdsaSign Config.identityScalar (1 + k % (curveN - 1)) (sha384 x) with
        | none => b
        | some sig =>
          let b := (b.tierTraffic fl.slot oe.base 512 true 11).store oe.base (x ++ sig)
          let b := if wantCert then
              (b.tierTraffic fl.slot ce.base 4096 true 11).store ce.base (padTo 4096 (good.getD []))
            else b
          b.doneEcc fl ecc

/-! ### Fuses (R410, R425) -/

/-- Raises a thermometer of 64 bits; it never falls. -/
def raiseSvn (old svn : Nat) : Nat := max old (min 64 svn)

/-- SC_COMMIT's new fuses, or none where it may blow nothing. -/
def Body.commitFuses (b : Body) (fu : Fuses) (c : Cmd) : Option Fuses :=
  let rev := fu.revoked ||| c.f 1 5 2
  if (c.f 1 5 2).testBit b.boot.fw.signer ∨ rev = 0xF then none
  else
    some { fu with
      revoked := rev,
      fwSvn := if c.b 1 0 then raiseSvn fu.fwSvn b.boot.fw.svn else fu.fwSvn,
      frSvn := if c.b 1 1 ∧ b.boot.frBytes ≠ [] then raiseSvn fu.frSvn b.boot.fr.svn else fu.frSvn }

/-- SC_COMMIT on a body and the fuses. -/
def Body.commit (b : Body) (fu : Fuses) (c : Cmd) : Body × Fuses :=
  match b.accept c 0x84 with
  | .stop b => (b, fu)
  | .run b fl =>
    match b.commitFuses fu c with
    | none => (b.fail fl 0x11, fu)
    | some new => ((b.senseFuses new).done fl, new)

/-- SC_COMMIT (R410, R425): counters rise to the running images' SVNs, slots are revoked, and the fuses are sensed again. -/
def execScCommit (c : Cmd) (s : State) : Host.Outcome State Fault Refusal :=
  let (b, fu) := s.body.commit s.fuse c
  .next { s with body := b, fuse := fu }

/-- SC_OWNER on a body and the fuses: the hash in words 2-7. -/
def Body.ownerSet (b : Body) (fu : Fuses) (c : Cmd) : Body × Fuses :=
  match b.accept c 0x85 with
  | .stop b => (b, fu)
  | .run b fl =>
    if fu.owner.isSome then (b.fail fl 0x60, fu)
    else
      let bytes := [2, 3, 4, 5, 6, 7].flatMap fun i => leBytes 8 (c.w i).toNat
      let new : Fuses := { fu with owner := some (BitVec.ofNat 384 (ofBe bytes)) }
      ((b.setF .scId2 Fld.scId2OwnerSet 1).done fl, new)

/-- SC_OWNER (R425). -/
def execScOwner (c : Cmd) (s : State) : Host.Outcome State Fault Refusal :=
  let (b, fu) := s.body.ownerSet s.fuse c
  .next { s with body := b, fuse := fu }

/-! ### Debug levels (R423, R424) -/

/-- A debug level is in force (R423): 0 OBSERVE, 1 STEP, 2 SCAN. -/
def Body.level (b : Body) (i : Nat) : Bool := (b.getF .scDebugStat Fld.scDebugStatLevels).testBit i

/-- Where STEP is not in force and no single step is in progress, STEPPING clears (R468). -/
def Body.levelCheck (b : Body) : Body :=
  if ¬ b.level 1 ∧ b.tele.dbg.isNone ∧ b.flag .hmStepStat Fld.hmStepStatStepping then b.stepClear else b

/-- The levels in force change. -/
def Body.setLevels (b : Body) (v : Nat) : Body := (b.setF .scDebugStat Fld.scDebugStatLevels v).levelCheck

/-- An SC_DEBUG row: its OP, of which 3 is clamped to 2. -/
def Body.onDebug (b : Body) (c : Cmd) (op : Nat) (f : Body → Flight → Body) : Body :=
  b.onSub c 0x86 (decide (min 2 (c.f 1 1 0) = op)) fun b fl => f (b.clampCmd fl (if c.f 1 1 0 = 3 then 1 else 0)) fl

/-- SC_DEBUG CHALLENGE (R424): the serial number and 32 fresh bytes of Swell E. -/
def execScDebugChallenge (c : Cmd) (s : State) : Host.Outcome State Fault Refusal :=
  s.onBody fun b => b.onDebug c 0 fun b fl =>
    match b.accessHere fl.slot (c.h 2) 0 48 true with
    | .error st => b.fail fl st (c.h 2)
    | .ok e =>
      match b.takeWord 1 with
      | none => b.awaitEntropy fl
      | some (w, b) =>
        let x := Config.seedOf w
        let b := { b with
          rnd.waits := b.rnd.waits.filter (fun u => decide (u ≠ fl.uid)), unlock.challenge := some x, unlock.challengeAt := b.ts }
        ((b.tierTraffic fl.slot e.base 48 true 11).store e.base (leBytes 16 Config.serial.toNat ++ leBytes 32 x.toNat)).done fl

/-- The hash held for a token's signer, where DEBUG_POLICY admits it (R409, R423). -/
def Body.tokenHash (b : Body) (fu : Fuses) (signer : Nat) : Option (BitVec 384) :=
  let policy := b.getF .scDebugStat Fld.scDebugStatPolicy
  if policy = 0 then none
  else if signer = 0x10 then fu.owner
  else if policy = 2 ∧ signer < 4 ∧ ¬ fu.revoked.testBit signer then some (Config.gleanoKeyHash signer)
  else none

/-- The first check of R424 that a token fails, in the order given, from 1; 0 where it passes (log entry 54). -/
def Body.tokenCheck (b : Body) (fu : Fuses) (x : List Byte) : Nat :=
  let key := bytesAt x 64 97
  let old := b.now - b.unlock.challengeAt.toNat
  if numAt x 0 4 ≠ 0x314B4F54 then 1
  else if b.tokenHash fu (numAt x 4 2) ≠ some (sha384 key) then 2
  else if numAt x 8 16 ≠ Config.serial.toNat then 3
  else if b.unlock.challenge ≠ some (BitVec.ofNat 256 (numAt x 24 32)) ∨ old > 600 * second then 4
  else if numAt x 56 8 ≠ 0 ∧ numAt x 56 8 ≤ b.now then 5
  else if ¬ ecdsaOk key (bytesAt x 224 96) (sha384 (x.take 224)) then 6
  else 0

/-- An UNLOCK fails: a record, a failure of the hour; three within one hour lock UNLOCK out until MOD. -/
def Body.unlockFail (b : Body) (fl : Flight) (check signer : Nat) : Body :=
  let times := (b.unlock.failTimes.filter fun t => decide (b.now - t.toNat < 3600 * second)) ++ [b.ts]
  let b := { b with unlock.failTimes := times }.setF .scDebugStat Fld.scDebugStatFails (min 3 times.length)
  let b := if times.length ≥ 3 then b.setF .scDebugStat Fld.scDebugStatLockout 1 else b
  b.failWith fl 0x60 0x0803 1 11 0 [check, signer]

/-- SC_DEBUG UNLOCK (R424): every UNLOCK consumes the challenge. Locked out it ends with AUTH_FAIL (check 0 of its record). -/
def execScDebugUnlock (c : Cmd) (s : State) : Host.Outcome State Fault Refusal :=
  s.onFused fun fu b => b.onDebug c 1 fun b fl =>
    match b.accessHere fl.slot (c.h 2) 0 320 false with
    | .error st => { b with unlock.challenge := none }.fail fl st (c.h 2)
    | .ok e =>
      let (x, ecc, b) := (b.tierTraffic fl.slot e.base 320 false 11).load fl e.base 320
      let k := b.tokenCheck fu x
      let b := { b with unlock.challenge := none }
      if b.flag .scDebugStat Fld.scDebugStatLockout then b.failWith fl 0x60 0x0803 1 11 0 [0, numAt x 4 2]
      else if ecc then b.retire fl 0x20 0 true
      else if k ≠ 0 then b.unlockFail fl k (numAt x 4 2)
      else
        let b := { b with unlock.expiry := BitVec.ofNat 64 (numAt x 56 8) }.setF .scDebugStat Fld.scDebugStatSeen 1
        (b.setLevels (numAt x 6 2 % 8)).done fl

/-- SC_DEBUG LOCK (R424): the levels clear. -/
def execScDebugLock (c : Cmd) (s : State) : Host.Outcome State Fault Refusal :=
  s.onBody fun b => b.onDebug c 2 fun b fl => (b.setLevels 0).done fl

/-- TOKEN_EXPIRY (R423): the EXPIRY of the token in force passes. -/
def execTokenExpiry (s : State) : Host.Outcome State Fault Refusal :=
  s.onBody fun b => if b.unlock.expiry = 0 then b else { b with unlock.expiry := 0 }.setLevels 0

/-- CHALLENGE_VOID (R424): a challenge is 10 minutes old. -/
def execChallengeVoid (s : State) : Host.Outcome State Fault Refusal :=
  s.onBody fun b => { b with unlock.challenge := none }

/-- UNLOCK_FAILS_HOUR (R424): the hour of failures ends; a lockout stands until MOD. -/
def execUnlockFailsHour (s : State) : Host.Outcome State Fault Refusal :=
  s.onBody fun b => { b with unlock.failTimes := [] }.setF .scDebugStat Fld.scDebugStatFails 0

end Sys2Proof.Machine
end

