-- ==== Sys2Proof/Machine/Clocks.lean ====
section
/-!
DEFINITION. Operating points, ceilings and floors (R432-R438, R450, R451): the Watch's power and thermal loops.
-/

namespace Sys2Proof.Machine

/-! ### Operating points (R433, R470) -/

/-- V_SET at a point, in units of 2.5 mV, with `g` guard steps. -/
def vUnits (mhz g : Nat) : Nat := 220 + g + ceilDiv ((mhz - 400) * 8) 45

/-- The highest point whose V_SET does not exceed 0.82 V, less the points that ageing has removed. -/
def guardCeiling (g removed : Nat) : Nat :=
  max 400 ((((List.range 55).map fun k => 940 - 10 * k).find? fun f => decide (vUnits f g ≤ 328)).getD 400 - 10 * removed)

/-- A Quay's core runs: it lies in a partition, is not absent, and is powered (R434). -/
def Body.quayUp (b : Body) (q : Nat) : Bool :=
  (partOfQuay b.framing q).isSome &&
    decide (q ∉ b.bw.absent ∧ b.boot.phase ∈ [.framed, .boardwalk, .trained, .run, .anchorEntry])

/-- A Quay's ACLK. -/
def Body.aclk (b : Body) (q : Nat) : Nat := b.getF (.wtQuayClk q) Fld.wtQuayClkAclk

/-- The FLOOR of a Quay's partition; 0 means none (R437). -/
def Body.floorOf (b : Body) (q : Nat) : Nat := ((partOfQuay b.framing q).map fun p => b.getF (.wtLimit p) Fld.wtLimitFloor).getD 0

/-- The ceilings of a Quay with their CAUSE codes (R435, R438, R445, R456). -/
def Body.ceilings (b : Body) (q : Nat) : List (Nat × Nat) :=
  let p := b.power
  let step (l : List Nat) : Nat := 940 - 10 * min 54 (l.getD q 0)
  [(b.getF .wtMpl Fld.wtMplAclkMax, 0),
    (((partOfQuay b.framing q).map fun p => b.getF (.wtLimit p) Fld.wtLimitCap).getD 940, 1),
    (step p.mplSteps, 2), (step p.curSteps, 3), (if p.hold110 then 400 else step p.thermSteps, 4),
    (guardCeiling (p.guard.getD q 16) (p.removed.getD q 0), 5), (if p.holdWatch then 400 else step p.watchSteps, 6)]

/-- The least ceiling and its cause; of equal ceilings the lowest code (log entry 55). -/
def Body.ceiling (b : Body) (q : Nat) : Nat × Nat :=
  let l := b.ceilings q
  let m := (l.map (·.1)).foldl min 940
  (max 400 m, ((l.find? fun c => decide (c.1 = m)).map (·.2)).getD 0)

/-- Sets a Quay's ACLK, CEILING, CAUSE, V_SET and GUARD. A Quay that is not powered is laid up. The hold of a low input has no CAUSE code:
a free value (log entry 55). -/
def Body.setClock (b : Body) (q : Nat) : Body :=
  let (c, why) := b.ceiling q
  let g := b.power.guard.getD q 16
  let low : Bool := b.power.inputLow && decide (c > 400)
  let up := b.quayUp q
  let (why, b) := if ¬ up then (7, b) else if low then (let (w, b) := b.free; (w.toNat % 8, b)) else (why, b)
  let f := if ¬ up then 0 else if b.power.inputLow then 400 else c
  let b := if b.aclk q ≠ f then b.log 1 q 0x0D 0 0xFFFF 0 f else b
  let r : Reg := .wtQuayClk q
  let b := ((b.setF r Fld.wtQuayClkAclk f).setF r Fld.wtQuayClkCeiling (if low then 400 else c)).setF r Fld.wtQuayClkCause why
  (b.setF r Fld.wtQuayClkVSet (if up then vUnits f g * 5 / 2 else 0)).setF r Fld.wtQuayClkGuard g

/-- ACLK_UPDATE (R435): each Quay's ACLK is its least ceiling. -/
def execAclkUpdate (s : State) : Host.Outcome State Fault Refusal :=
  s.onBody fun b => if b.boot.phase = .off then b else (List.range 10).foldl Body.setClock b

/-! ### PW_LIMIT (R451) -/

/-- The nearest legal TARGET, a tie to the lower (R426): partitions 0-9, or 15. -/
def nearTarget (t : Nat) : Nat := if t ≤ 9 then t else if t ≤ 12 then 9 else 15

/-- PW_LIMIT (R451). A FLOOR for the module names no register and has no effect (log entry 55). -/
def execPwLimit (c : Cmd) (s : State) : Host.Outcome State Fault Refusal :=
  s.onBody fun b => b.onCmd c 0x7C fun b fl =>
    let t := nearTarget (c.f 1 3 0)
    let b := b.clampCmd fl (diff t (c.f 1 3 0))
    if t = 15 then
      let mpl := (clampTo (c.f 2 12 0) (frGet b.framing 0x008) (frGet b.framing 0x009)).1
      let cap := (clampMhz (c.f 2 25 16)).1
      let b := if c.b 1 4 then (b.clampCmd fl (diff mpl (c.f 2 12 0))).setF .wtMpl Fld.wtMplMpl mpl else b
      let b := if c.b 1 5 then (b.clampCmd fl (diff cap (c.f 2 25 16))).setF .wtMpl Fld.wtMplAclkMax cap else b
      b.done fl
    else if ¬ partDefined b.framing t then b.fail fl 0x11 t
    else
      let cap := (clampMhz (c.f 2 25 16)).1
      let b := if c.b 1 5 then (b.clampCmd fl (diff cap (c.f 2 25 16))).setF (.wtLimit t) Fld.wtLimitCap cap else b
      let floor := floorClamp (c.f 2 41 32) (b.getF (.wtLimit t) Fld.wtLimitCap) (b.getF .wtMpl Fld.wtMplAclkMax)
      let b := if c.b 1 6 then (b.clampCmd fl (diff floor (c.f 2 41 32))).setF (.wtLimit t) Fld.wtLimitFloor floor else b
      b.done fl

/-! ### The MPL loop (R436, R437, R445) -/

/-- WT_PIN_STAT shows the pins as they stand (R496). WAKE's level after its edge is an input that no command gives: a free value. -/
def Body.syncPins (b : Body) : Body :=
  let (w, b) := b.free
  let r : Reg := .wtPinStat
  let svc := b.boot.svcLow ∧ (b.boot.heHeld ∨ b.boot.phase = .drydock)
  let b := ((b.setF r Fld.wtPinStatRstN (if b.boot.rstN then 1 else 0)).setF r Fld.wtPinStatWake (w.toNat % 2)).setF r
    Fld.wtPinStatFlashSvc (if svc then 1 else 0)
  b.setF r Fld.wtPinStatEn ((if b.power.enA then 1 else 0) + if b.power.enB then 2 else 0)

/-- POWER_SAMPLE (R436, R496): P_AVG is the mean of the last 128 samples. -/
def execPowerSample (milliVolts milliAmps : Nat) (s : State) : Host.Outcome State Fault Refusal :=
  s.onBody fun b =>
    if b.boot.phase = .off ∨ b.power.holdWatch then b
    else
      let l := b.power.pSamples ++ [milliVolts * milliAmps]
      let l := l.drop (l.length - 128)
      let b := { b with power.pSamples := l }.setF .wtMpl Fld.wtMplPAvg (min 8191 (l.sum / (1000000 * l.length)))
      (b.syncPins.setF .wtPinStat Fld.wtPinStatVinMv (min 65535 milliVolts)).setF .wtPinStat Fld.wtPinStatIin (min 65535 (milliAmps / 10))

/-- Raises or lowers the MPL ceilings of some Quays to given points. -/
def Body.mplTo (b : Body) (qs : List Nat) (f : Nat → Nat) : Body :=
  { b with power.mplSteps := (List.range 10).map fun q => if q ∈ qs then f q else b.power.mplSteps.getD q 0 }

/-- The MPL loop lowers by `k` steps: Quays above their floors, else those at them, together. -/
def Body.mplLower (b : Body) (k : Nat) : Body :=
  let up := (List.range 10).filter b.quayUp
  let floor (q : Nat) : Nat := max 400 (b.floorOf q)
  let above := up.filter fun q => decide (b.aclk q > floor q)
  let steps (f : Nat) : Nat := (940 - f) / 10
  if above ≠ [] then b.mplTo above fun q => max (b.power.mplSteps.getD q 0) (steps (max (floor q) (b.aclk q - 10 * k)))
  else b.mplTo (up.filter fun q => decide (b.aclk q > 400)) fun q =>
    max (b.power.mplSteps.getD q 0) (steps (max 400 (b.aclk q - 10 * k)))

/-- The MPL loop raises by one step: Quays it holds below their floors first, else every Quay it holds down. -/
def Body.mplRaise (b : Body) : Body :=
  let down := (List.range 10).filter fun q => decide (b.power.mplSteps.getD q 0 > 0)
  let below := down.filter fun q => decide (940 - 10 * b.power.mplSteps.getD q 0 < b.floorOf q)
  b.mplTo (if below ≠ [] then below else down) fun q => b.power.mplSteps.getD q 0 - 1

/-- MPL_EVALUATION (R436, R437, R445): the climb after a WATCH reset goes on by a step, shortfalls of floors are counted, and P_AVG meets
the MPL. -/
def execMplEvaluation (s : State) : Host.Outcome State Fault Refusal :=
  s.onBody fun b =>
    if b.boot.phase = .off ∨ b.power.holdWatch then b
    else
      let b := (List.range 10).foldl (fun b q =>
        if b.quayUp q ∧ b.aclk q < b.floorOf q then b.bump (.wtLoopStat q) Fld.wtLoopStatFloorShort 1 else b) b
      let b := { b with power.watchSteps := b.power.watchSteps.map (· - 1) }
      let n := b.power.pSamples.length
      let p := b.power.pSamples.sum
      let m := b.getF .wtMpl Fld.wtMplMpl * 1000000 * n
      if n = 0 then b
      else if p > m then b.mplLower (min 8 (ceilDiv ((p - m) * 100) (max 1 m)))
      else if p * 100 < m * 97 then b.mplRaise
      else b

/-! ### Protections (R432, R438, R450) -/

/-- DROOP (R438): counted when the stretch begins. -/
def execDroop (q : Fin 10) (s : State) : Host.Outcome State Fault Refusal :=
  s.onBody fun b =>
    if q.val ∈ b.power.stretch ∨ ¬ b.quayUp q then b
    else { b with power.stretch := b.power.stretch ++ [q.val] }.bump (.wtLoopStat q) Fld.wtLoopStatDroop 1

/-- DROOP_RELEASE (R438). -/
def execDroopRelease (q : Fin 10) (s : State) : Host.Outcome State Fault Refusal :=
  s.onBody fun b => { b with power.stretch := b.power.stretch.filter fun x => decide (x ≠ q.val) }

/-- The steps of a list that one Quay, or every Quay, loses. -/
def addSteps (l : List Nat) (q : Option Nat) (n : Nat) : List Nat :=
  (List.range 10).map fun k => if q.all (fun x => decide (x = k)) then min 54 (l.getD k 0 + n) else l.getD k 0

/-- INPUT_OVERCURRENT (R438): every current ceiling falls by 5 steps. -/
def execInputOvercurrent (s : State) : Host.Outcome State Fault Refusal :=
  s.onBody fun b => if b.power.holdWatch then b else { b with power.curSteps := addSteps b.power.curSteps none 5 }

/-- RAIL_OVERCURRENT (R438): the Quay's current ceiling falls by 4 steps. -/
def execRailOvercurrent (q : Fin 10) (s : State) : Host.Outcome State Fault Refusal :=
  s.onBody fun b => if b.power.holdWatch then b else { b with power.curSteps := addSteps b.power.curSteps (some q.val) 4 }

/-- CURRENT_CEILING_RELEASE (R438): one step back. -/
def execCurrentCeilingRelease (q : Fin 10) (s : State) : Host.Outcome State Fault Refusal :=
  s.onBody fun b =>
    if b.power.holdWatch then b else { b with power.curSteps := b.power.curSteps.set q (b.power.curSteps.getD q 0 - 1) }

/-- THERMAL_STEP (R438): a millisecond with the temperatures of the dies, Quays 0-9, HW, HE. -/
def execThermalStep (temps : List Nat) (s : State) : Host.Outcome State Fault Refusal :=
  s.onBody fun b =>
    if b.boot.phase = .off ∨ b.power.holdWatch then b
    else
      let t (q : Nat) : Nat := temps.getD q 0
      let hold := if temps.any fun x => decide (x > 110) then true
        else if temps.all fun x => decide (x < 105) then false else b.power.hold110
      let steps := (List.range 10).map fun q =>
        let n := b.power.thermSteps.getD q 0
        if t q > 100 then min 54 (n + 1) else if t q < 95 then n - 1 else n
      let b := { b with power.hold110 := hold, power.thermSteps := steps }
      (List.range 10).foldl (fun b q =>
        let b := b.setF (.wtQuayClk q) Fld.wtQuayClkTj (min 255 (t q))
        if hold ∨ steps.getD q 0 > 0 then b.bump (.wtLoopStat q) Fld.wtLoopStatThermal 1 else b) b

/-- INPUT_LOW (R450): Quays are held at 400 MHz, Tier F takes no new program, and a record is written. -/
def execInputLow (milliVolts : Nat) (s : State) : Host.Outcome State Fault Refusal :=
  s.onBody fun b =>
    if b.boot.phase = .off ∨ b.power.inputLow then b
    else { b with power.inputLow := true }.err 0x0903 2 10 0 [milliVolts]

/-- INPUT_RECOVERY (R450): the input is back above 37 V. -/
def execInputRecovery (s : State) : Host.Outcome State Fault Refusal :=
  s.onBody fun b => { b with power.inputLow := false }

/-- The Lines and sub-ports lose lock (R432): an UP Line retrains, and a sub-port is down until its link trains again. -/
def Body.loseLock (b : Body) : Body :=
  let b := (List.range 36).foldl (fun b l => if b.lineUp l then b.trainLine l false else b) b
  (List.range 8).foldl (fun b p =>
    (b.setF (.epPortStat p) Fld.epPortStatLink 0).updPort p fun q => { q with paused := none, stormed := false }) b

/-- REFCLK_LOSS (R432). -/
def execRefclkLoss (micros : Nat) (s : State) : Host.Outcome State Fault Refusal :=
  s.onBody fun b =>
    if b.boot.phase = .off ∨ ¬ b.power.refclk then b
    else ({ b with power.refclk := false }.err 0x0902 2 10 0 [micros]).loseLock

/-- REFCLK_RETURN (R432): Lines and sub-ports finish their training by events of their own. -/
def execRefclkReturn (s : State) : Host.Outcome State Fault Refusal :=
  s.onBody fun b => { b with power.refclk := true }

end Sys2Proof.Machine
end

