-- ==== Sys2Proof/Machine/Power.lean ====
section
/-!
DEFINITION. Power states and resets (R439-R455, R280): Berths, ANCHOR, DRYDOCK, RST, thermal trips, the watchdog, the WATCH reset, and
power-up and power-down.
-/

namespace Sys2Proof.Machine

/-! ### Berths (R439, R452) -/

/-- A Berth takes a power state. -/
def Body.setPwr (b : Body) (g v : Nat) : Body := b.setF (.brPwrStat g) Fld.brPwrStatState v

/-- The target of a Berth's transition under way. -/
def Body.pwrTarget (b : Body) (g : Nat) : Option Nat := (SMap.get b.power.berths {} g).target

/-- A transition of a Berth begins or ends. -/
def Body.setTarget (b : Body) (g : Nat) (t : Option Nat) : Body :=
  { b with power.berths := SMap.set b.power.berths {} g { target := t } }

/-- R72's conditions for MOOR: an idle Berth, its Truss gated, no drain pending. -/
def Body.moorOk (b : Body) (g : Nat) : Bool :=
  decide (b.pwr g = 1) && !b.berthBusy g && b.trussIdle g && b.flag (.brTrussStat g) Fld.brTrussStatGated

/-- A Berth may be laid up: idle or moored, with no drain pending in it or its Raft, and no slice of its Hold being zeroed. -/
def Body.layupOk (b : Body) (g : Nat) : Bool :=
  let gs := match (b.berth g).lead with
    | some l => b.raftMembers l
    | none => [g]
  decide (b.pwr g = 1 ∨ b.pwr g = 2) && (gs.all fun x => !b.berthBusy x && b.trussIdle x) &&
    (List.range 8).all fun i => decide (8 * g + i ∉ b.st.zeroing)

/-- A Berth's Hold contains an allocated slot of a Crate pool (R224). -/
def Body.holdsCrate (b : Body) (g : Nat) : Bool :=
  b.crates.pools.any fun p => decide (p.2.place = 0) && (List.range p.2.n).any fun i =>
    decide (holdAddr g 0 ≤ p.2.addr i ∧ p.2.addr i < holdAddr g 0 + 0x2000000) && b.slotUsed p.2 i

/-- A slice or segment loses power with its domain, and what was to happen to it does not. -/
def Body.regionCut (b : Body) (r : Nat) : Body :=
  { b.regionDown r with
    st.powerPend := b.st.powerPend.filter (fun x => decide (x ≠ r)), st.zeroing := b.st.zeroing.filter (fun x => decide (x ≠ r)) }

/-- A Berth is laid up: its Raft is dissolved, and its Hold, Bench, instruction store, Truss, Ripples, Logbook and the settings it holds are
lost (R72, R105, R151, R270, R448, R465). -/
def Body.layupNow (b : Body) (g : Nat) : Body :=
  let b := match (b.berth g).lead with
    | some l => b.dissolveRaft l
    | none => b
  let b := { b with berths := SMap.drop b.berths g, power.berths := SMap.drop b.power.berths g, tele.logs := SMap.drop b.tele.logs g }
  let b := (List.range 8).foldl (fun b i => b.regionCut (8 * g + i)) b
  let b := ((b.benchLose g).loseRegion (2000 + g)).ripplesLost ((List.range 4).map (4 * g + ·))
  ((berthRegs g).foldl (Body.resetReg .layup) b).setPwr g 3

/-- A Berth is moored. -/
def Body.moorNow (b : Body) (g : Nat) : Body := ((b.setTarget g none).setPwr g 2).log 0 g 0x0A 0 0xFFFF 0 2

/-- A Berth is awake: from LAYUP its slices are ready again, with undefined contents (R103, R105). -/
def Body.wakeNow (b : Body) (g : Nat) : Body :=
  let was := b.pwr g
  let b := b.setTarget g none
  if was < 2 then b
  else
    let b := (b.setPwr g 1).bump (.brPwrStat g) Fld.brPwrStatWakes 1
    let b := if was = 3 then
        (List.range 8).foldl (fun b i => if b.regionOn (8 * g + i) ∧ b.domainUp (8 * g + i) then b.setReady (8 * g + i) true else b) b
      else b
    (b.log 0 g 0x0A 0 0xFFFF 0 1).syncWork g

/-- A Berth has reached a state that some PW_BERTHs asked for: one whose Berths all have completes. -/
def Body.reached (b : Body) (g : Nat) (goals : List Nat) : Body :=
  let ws := b.power.waits.map fun (w : PwWait) =>
    if w.goal ∈ goals then { w with berths := w.berths.filter fun x => decide (x ≠ g) } else w
  let b := { b with power.waits := ws.filter fun (w : PwWait) => decide (w.berths ≠ []) }
  (ws.filter fun (w : PwWait) => decide (w.berths = [])).foldl (fun b w => b.done w.fl) b

/-- BERTH_TRANSITION_DONE (R439, R452): a transition under way ends, MOOR only while its conditions still hold; with none under way, the
oldest PW_BERTH whose conditions the Berth meets is served. -/
def execBerthTransitionDone (g : Fin 200) (s : State) : Host.Outcome State Fault Refusal :=
  s.onBody fun b =>
    let g := g.val
    match b.pwrTarget g with
    | some 1 => (b.wakeNow g).reached g [1]
    | some _ => if b.moorOk g then (b.moorNow g).reached g [2] else b.setTarget g none
    | none =>
      let can (w : PwWait) : Bool :=
        decide (g ∈ w.berths) && ((decide (w.goal = 2) && b.moorOk g) ||
          (decide (w.goal = 3) && if b.holdsCrate g then b.moorOk g || decide (b.pwr g = 2) else b.layupOk g))
      match b.power.waits.find? can with
      | none => b
      | some w =>
        if w.goal = 2 then (b.moorNow g).reached g [2]
        else if b.holdsCrate g then
          ((if b.pwr g = 1 then b.moorNow g else b).setF (.brPwrStat g) Fld.brPwrStatHeldMoor 1).reached g [2, 3]
        else (b.layupNow g).reached g [3]

/-- BERTH_MOOR_IDLE (R439): after MOOR_IDLE µs of idleness a Berth goes into MOOR. -/
def execBerthMoorIdle (g : Fin 200) (s : State) : Host.Outcome State Fault Refusal :=
  s.onBody fun b =>
    if b.getF (.brPwrCtl g) Fld.brPwrCtlMoorIdle ≠ 0 ∧ b.moorOk g ∧ b.pwrTarget g = none then b.setTarget g (some 2) else b

/-- A PW_BERTH of an operation: a named Quay in no partition faults HOLD_RANGE; `f` has the named Berths. -/
def Body.pwBerth (b : Body) (c : Cmd) (op : Nat) (f : Body → Flight → List Nat → Body) : Body :=
  b.onSub c 0x7D (decide (c.f 1 17 16 = op)) fun b fl =>
    let qs := (List.range 10).filter fun q => (c.f 1 9 0).testBit q
    match qs.find? fun q => decide (partOfQuay b.framing q = none) with
    | some q => b.fail fl 0x11 q
    | none => f b fl (berthsOf qs (c.f 2 19 0))

/-- A PW_BERTH waits for the Berths that have not reached its state. -/
def Body.pwWait (b : Body) (fl : Flight) (gs : List Nat) (goal : Nat) : Body :=
  if gs = [] then b.done fl
  else { b.start fl with power.waits := b.power.waits ++ [{ fl := fl, berths := gs, goal := goal }] }

/-- PW_BERTH WAKE (R452). -/
def execPwBerthWake (c : Cmd) (s : State) : Host.Outcome State Fault Refusal :=
  s.onBody fun b => b.pwBerth c 0 fun b fl gs =>
    (gs.foldl Body.askWake b).pwWait fl (gs.filter fun g => decide (b.pwr g ≥ 2)) 1

/-- PW_BERTH MOOR (R452): it takes effect when each Berth next meets R439's conditions; a Berth in LAYUP does once it is woken. -/
def execPwBerthMoor (c : Cmd) (s : State) : Host.Outcome State Fault Refusal :=
  s.onBody fun b => b.pwBerth c 1 fun b fl gs => b.pwWait fl (gs.filter fun g => decide (b.pwr g ≠ 2)) 2

/-- PW_BERTH LAYUP (R452). -/
def execPwBerthLayup (c : Cmd) (s : State) : Host.Outcome State Fault Refusal :=
  s.onBody fun b => b.pwBerth c 2 fun b fl gs => b.pwWait fl (gs.filter fun g => decide (b.pwr g ≠ 3)) 3

/-- PW_BERTH SET_IDLE (R452). -/
def execPwBerthSetIdle (c : Cmd) (s : State) : Host.Outcome State Fault Refusal :=
  s.onBody fun b => b.pwBerth c 3 fun b fl gs =>
    (gs.foldl (fun b g => b.setF (.brPwrCtl g) Fld.brPwrCtlMoorIdle (c.f 3 15 0)) b).done fl

/-! ### ANCHOR (R224, R440, R441) -/

/-- A Shed segment keeps power and contents in ANCHOR (R104). -/
def Body.retained (b : Body) (r : Nat) : Bool :=
  b.regionOn r && b.regionReady r && (b.getF (.wtShedRetain ((r - 1600) / 18)) Fld.wtShedRetainRetain).testBit ((r - 1600) % 18)

/-- A stream whose Apron ANCHOR loses: refilled from its checkpoint where a slot of POOL0 and the checkpoint both last, else cut to whole
Crates (R223; log entry 56). -/
def Body.anchorTail (b : Body) (m : CrateMap) (s : Nat) (gone : Nat → Bool) : Body :=
  let r := b.streamRec m s
  if r.apron = 0 ∨ ¬ gone r.apron then b
  else
    let b := b.releaseSlot m r.apron
    let spare : Option (Nat × Nat × Nat) := (b.mapPool m 0).bind fun k => (b.pool k).bind fun p =>
      ((b.freeSlots k p).find? fun i => !gone (p.addr i)).map fun i => (k, i, p.addr i)
    let whole : Body :=
      let n := r.len / m.t
      let b := b.setStreamRec m s { r with len := m.t * n, apron := 0 }
      let n := if r.len % m.t = 0 ∧ n > 0 ∧ (b.crateEnt m s (n - 1)).state = 1 then n - 1 else n
      if n < m.nc then b.setCrateEnt m s n { b.crateEnt m s n with state := 0, slot := 0 } else b
    match spare with
    | some (k, i, a) =>
      if b.slotGood m r.ckpt ∧ ¬ gone r.ckpt then
        match b.pool k with
        | some p => ((b.takeSlot k p i).store a (b.bytes r.ckpt 65536)).setStreamRec m s { r with apron := a, len := r.ckptLen }
        | none => whole
      else whole
    | none => whole

/-- The resident Crates and Aprons that ANCHOR loses (R224). -/
def Body.anchorCrates (b : Body) (gone : Nat → Bool) : Body :=
  b.crates.maps.foldl (fun b (p : Nat × CrateMap) =>
    let m := p.2
    (List.range m.nstream).foldl (fun b s =>
      let b := (List.range m.nc).foldl (fun b n =>
        let e := b.crateEnt m s n
        if ((2 ≤ e.state ∧ e.state ≤ 5) ∨ e.state = 7) ∧ gone e.slot then (b.dropEntry m s n).releaseSlot m e.slot else b) b
      b.anchorTail m s gone) b) b

/-- Steps 2-4 of R440, every command stopped: what the Quays, the pipes' pools and the sampling unit hold is lost, and PW_STATE completes. -/
def Body.anchorDown (b : Body) (fl : Flight) (slots : List Nat) : Body :=
  let segs := (List.range 180).map (1600 + ·)
  let keep := segs.filter b.retained
  let gone (a : Nat) : Bool := decide (regionOf a < 1780) && decide (regionOf a ∉ keep)
  let b := b.anchorCrates gone
  let b := ((List.range 200).filter fun g => decide (b.pwr g ≠ 3)).foldl Body.layupNow b
  let b := (segs.filter fun r => decide (r ∉ keep)).foldl Body.regionCut b
  let regs := b.regs
  let b := regs.foldl (fun b p => match Reg.ofAddr p.1 with
    | some r => b.resetReg .anchor r
    | none => b) b
  let b := fiRegs.foldl (Body.resetReg .anchor) b
  let b := (List.range 10).foldl (fun b q =>
    let v := (((List.range 18).filter fun i => decide (1600 + 18 * q + i ∈ keep)).map fun i => 2 ^ i).sum
    (b.setF (.qyShedPwr q) Fld.qyShedPwrSegOn (b.getF (.qyShedPwr q) Fld.qyShedPwrSegOn ||| v)).setF (.qyShedPwr q) Fld.qyShedPwrSegReady v) b
  let b := (List.range 200).foldl (fun b g => b.setPwr g 3) b
  let b := b.ripplesLost [800, 801]
  let ms := fl.cmd.f 2 31 0
  let b := { b with
    tele.logs := b.tele.logs.filter (fun p => decide (p.1 / 65536 ≥ 2)), st.frameCtr := [], tiers.pageBuf := [], power.berths := [],
    power.wakeAt := if ms = 0 then none else some (b.ts + BitVec.ofNat 64 (ms * 1000000)),
    power.stateCmd := some { fl with progress := b.now :: slots }, boot.phase := .anchor }
  ((((List.range 10).foldl Body.setClock b).moduleState 1).dropHalting fl.uid).done fl

/-- Step 1 of R440 is over: every context is halted, no other command but open steps and the management commands that wait for RUN is in
flight or awaits its completion, and the Ferry's pipes are idle. -/
def Body.anchorReady (b : Body) (fl : Flight) : Bool :=
  let open_ (x : Flight) : Bool := (b.info x.slot).step.any fun r => decide (r.fl.uid = x.uid)
  (b.resident.all fun k => decide (b.getF (.hmCtxStat k) Fld.hmCtxStatState = 1)) &&
    (b.hm.flights.all fun x => decide (x.uid = fl.uid) || open_ x || (b.stateHold x && !x.started)) &&
    decide (b.hm.ended = []) && (List.range 8).all fun i => !(b.pipe i).busy

/-- PW_STATE ANCHOR (R440, R453): the row is given again while commands stop. -/
def execPwStateAnchor (c : Cmd) (s : State) : Host.Outcome State Fault Refusal :=
  s.onBody fun b => b.onSub c 0x7E (decide (c.f 1 1 0 = 0)) fun b fl =>
    match fl.progress with
    | [] =>
      if b.boot.phase ≠ .run then b
      else
        let slots := b.resident.filter fun k => decide (b.getF (.hmCtxStat k) Fld.hmCtxStatState = 0)
        let b := (({ b with boot.phase := .anchorEntry, power.stateCmd := some fl }).moduleState 3).readyLevel false
        let b := slots.foldl (fun b k => (b.noteHalting fl k).preempt k (some fl.uid)) b
        b.keep fl (1 :: slots)
    | _ :: slots => if b.boot.phase = .anchorEntry ∧ b.anchorReady fl then b.anchorDown fl slots else b

/-- ANCHOR_EXIT (R104, R441): the Quays of partitions have power, their slices and segments are ready, and the contexts go on. -/
def execAnchorExit (s : State) : Host.Outcome State Fault Refusal :=
  s.onBody fun b =>
    if b.boot.phase ≠ .anchor ∨ ¬ b.power.exitPending ∨ b.power.holdWatch then b
    else
      let (t0, slots) := match b.power.stateCmd with
        | some fl => (fl.progress.headD 0, fl.progress.tail)
        | none => (b.now, [])
      let up (g : Nat) : Bool := (partOfQuay b.framing (g / 20)).isSome && decide (g / 20 ∉ b.bw.absent)
      let b := (List.range 200).foldl (fun b g => b.setPwr g (if up g then 1 else 3)) b
      let rs := (List.range 1780).filter fun r => b.regionOn r && b.domainUp r && !b.regionReady r
      let b := rs.foldl (fun b r => b.setReady r true) b
      let b := { b with
        boot.phase := .run, power.exitPending := false, power.wakeAt := none, power.stateCmd := none,
        tiers.scrubStart := b.tiers.scrubStart.map fun (t : Word) => t + (b.ts - BitVec.ofNat 64 t0) }
      let b := (b.moduleState 0).readyLevel true
      slots.foldl (fun b k =>
        if b.getF (.hmCtxStat k) Fld.hmCtxStatState = 1 then (b.setF (.hmCtxStat k) Fld.hmCtxStatState 0).resumeAll k else b) b

/-! ### DRYDOCK (R442) -/

/-- The module is in DRYDOCK, with a wake timer or none. -/
def Body.drydockNow (b : Body) (wake : Option Word) : Body :=
  let b := b.cleared .drydock
  let b := { b with boot.phase := .drydock, boot.kind := 2, power.wakeAt := wake }
  (((List.range 10).foldl Body.setClock b).moduleState 2).syncFault

/-- The boot that ends DRYDOCK; it waits for RST_N to be high. -/
def Body.leaveDrydock (b : Body) (cause : Nat) : Body :=
  let b := { b with boot.phase := if b.boot.rstN then .released else .held, boot.released := b.ts, power.wakeAt := none }
  (b.setF .wtState Fld.wtStateWake cause).moduleState 3

/-- PW_STATE DRYDOCK (R442, R453): every context's commands end with ABORTED_BY_HOST, their completions are written, then PW_STATE's own.
TARGETs 2 and 3 are clamped to 1. -/
def execPwStateDrydock (c : Cmd) (s : State) : Host.Outcome State Fault Refusal :=
  s.onBody fun b => b.onSub c 0x7E (decide (c.f 1 1 0 ≠ 0)) fun b fl =>
    if b.boot.phase ≠ .run then b
    else
      let b := b.clampCmd fl (if c.f 1 1 0 > 1 then 1 else 0)
      let b := ({ b with boot.phase := .drydockEntry }.moduleState 3).readyLevel false
      let b := b.resident.foldl (fun b k =>
        let fls := (b.info k).saved ++ b.hm.flights.filter fun x => decide (x.slot = k ∧ x.uid ≠ fl.uid)
        let b := (b.updInfo k fun i => { i with saved := [] }).abort fls 0x41
        ((b.endQueued k 0x41).ferryReset k).flushSlot k) b
      let ms := c.f 2 31 0
      let b := { b with power.wakeAt := if ms = 0 then none else some (b.ts + BitVec.ofNat 64 (ms * 1000000)) }
      ((b.done fl).flushSlot fl.slot).flushSlot mgmtSlot

/-- DRYDOCK_POWER_OFF (R442): 1 ms after PW_STATE's completion the domains lose power. -/
def execDrydockPowerOff (s : State) : Host.Outcome State Fault Refusal :=
  s.onBody fun b => if b.boot.phase = .drydockEntry then b.drydockNow b.power.wakeAt else b

/-- WAKE_TIMER (R440, R442, R453). -/
def execWakeTimer (s : State) : Host.Outcome State Fault Refusal :=
  s.onBody fun b =>
    if b.power.wakeAt = none then b
    else
      let b := { b with power.wakeAt := none }
      if b.boot.phase = .drydock then b.leaveDrydock 3 else b.wake 3

/-- A trip (R432, R438): DRYDOCK at once, without completions, and FAULT_N low until the next boot reaches RUN. -/
def Body.trip (b : Body) : Body :=
  ({ b.readyLevel false with boot.tripped := true }.setF .wtState Fld.wtStateTrip 1).drydockNow none

/-- THERMAL_TRIP (R438, R464): the Logbooks freeze, and an error record is written, before DRYDOCK. -/
def execThermalTrip (die : Fin 12) (temp : Nat) (s : State) : Host.Outcome State Fault Refusal :=
  s.onBody fun b =>
    if temp ≤ 120 ∨ b.boot.phase = .off ∨ b.boot.phase = .drydock then b
    else ((b.freezeLogs 4).err 0x0901 2 10 0 [die, temp]).trip

/-- REFCLK_ABSENT_TIMEOUT (R432): 100 ms without REFCLK in RUN or ANCHOR. -/
def execRefclkAbsentTimeout (s : State) : Host.Outcome State Fault Refusal :=
  s.onBody fun b => if ¬ b.power.refclk ∧ b.boot.phase ∈ [.run, .anchorEntry, .anchor] then b.trip else b

/-! ### RST and the watchdog (R280, R444, R454) -/

/-- The slices and segments of Quays. -/
def quayRegions (qs : List Nat) : List Nat :=
  qs.flatMap fun q => (List.range 160).map (160 * q + ·) ++ (List.range 18).map (1600 + 18 * q + ·)

/-- RST KIND MOD (R454): it writes no completion. -/
def execRstMod (c : Cmd) (s : State) : Host.Outcome State Fault Refusal :=
  s.onBody fun b => b.onSub c 0x7F (decide (c.f 1 1 0 = 0)) fun b _ => b.modReset 2

/-- RST KIND PART (R444, R454): it completes with its zeroing. -/
def execRstPart (c : Cmd) (s : State) : Host.Outcome State Fault Refusal :=
  s.onBody fun b => b.onSub c 0x7F (decide (c.f 1 1 0 = 1)) fun b fl =>
    let p := c.f 1 7 4
    if ¬ partDefined b.framing p then b.fail fl 0x11 p
    else ((b.partReset p (some fl.uid)).noteReset 2 2).zeroAwait fl (quayRegions (quaysOf b.framing p))

/-- RST KIND QUAY (R444, R454); KIND 3 is clamped to it. -/
def execRstQuay (c : Cmd) (s : State) : Host.Outcome State Fault Refusal :=
  s.onBody fun b => b.onSub c 0x7F (decide (c.f 1 1 0 ≥ 2)) fun b fl =>
    let q := c.f 1 7 4
    let b := b.clampCmd fl (if c.f 1 1 0 = 3 then 1 else 0)
    if partOfQuay b.framing q = none then b.fail fl 0x11 q
    else ((b.quayReset [q] .quay).noteReset 3 2).zeroAwait fl (quayRegions [q])

/-- The Watch's notice on the management VLAN of EP0 (R280, R395): its destination, and 16 bytes. -/
def Body.watchNotice (b : Body) (status : Nat) : Body :=
  let ip := frGet b.framing 0x005 0 + frGet b.framing 0x005 1 * 2 ^ 64
  if ip = 0 ∨ ¬ b.flag (.epPortStat 0) Fld.epPortStatLink then b
  else b.send { port := .subport 0, kind := .notice, nums := [frGet b.framing 0x004, ip, frGet b.framing 0x006],
                data := leBytes 2 (frGet b.framing 0x001) ++ leBytes 1 status ++ leBytes 5 0 ++ leBytes 8 b.ts.toNat }

/-- WATCHDOG (R280, R464, R477): the Logbooks freeze, an error record and a notice are written, then MOD. When firmware last gave a sign of
life is a free value. -/
def execWatchdog (s : State) : Host.Outcome State Fault Refusal :=
  s.onBody fun b =>
    if b.boot.phase ∉ [.firmware, .framed, .boardwalk, .trained, .run, .anchorEntry, .anchor, .drydockEntry] then b
    else
      let (w, b) := (b.freezeLogs 3).free
      ((b.err 0x0302 2 10 0 [w.toNat] 0x70).watchNotice 0x70).modReset 3

/-! ### The pins that reset and wake (R486) -/

/-- RST_N_LOW (R486): a MOD reset, or the end of DRYDOCK; the boot begins once RST_N is high. -/
def execRstNLow (s : State) : Host.Outcome State Fault Refusal :=
  s.onBody fun b =>
    let b := { b with boot.rstN := false }
    if b.boot.phase = .off then b
    else if b.boot.phase = .drydock then (b.leaveDrydock 5).setF .wtPinStat Fld.wtPinStatRstN 0
    else (b.modReset 1).setF .wtPinStat Fld.wtPinStatRstN 0

/-- RST_N_RELEASE (R414, R415). -/
def execRstNRelease (s : State) : Host.Outcome State Fault Refusal :=
  s.onBody fun b =>
    let b := { b with boot.rstN := true }
    if b.boot.phase = .off then b
    else
      let b := b.setF .wtPinStat Fld.wtPinStatRstN 1
      if b.boot.phase = .held then { b with boot.phase := .released, boot.released := b.ts } else b

/-- WAKE_PIN (R486): wake cause 2 in ANCHOR and DRYDOCK. -/
def execWakePin (s : State) : Host.Outcome State Fault Refusal :=
  s.onBody fun b =>
    if b.boot.phase = .off then b
    else
      let b := b.setF .wtPinStat Fld.wtPinStatWake 1
      if b.boot.phase = .drydock then b.leaveDrydock 2 else b.wake 2

/-! ### Input power (R431, R449, R450) -/

/-- Every rail is down: what only fuses, Tier F and the boot flash hold is left. -/
def Body.powerOff (b : Body) : Body :=
  { (b.readyLevel false).cleared .por with boot.phase := .off, boot.kind := 0, boot.tripped := false, boot.heHeld := false }

/-- INPUT_SHUTDOWN (R450). -/
def execInputShutdown (s : State) : Host.Outcome State Fault Refusal :=
  s.onBody fun b => if b.boot.phase = .off then b else b.powerOff

/-- POWER_UP (R413, R449, R486): the input stage has started, so EN_A and EN_B are low; the Watch is released, and its fuses are sensed. -/
def execPowerUp (s : State) : Host.Outcome State Fault Refusal :=
  s.onFused fun fu b =>
    if b.boot.phase ≠ .off then b
    else
      let b := { b with ts := 0, boot.phase := if b.boot.rstN then .released else .held, boot.released := 0, power.enA := true, power.enB := true }
      (b.senseFuses fu).moduleState 3

/-! ### WATCH (R402, R414, R445, R465, R475) -/

/-- The Watch domain's own state is lost. -/
def Body.watchCleared (b : Body) : Body :=
  let regs := b.regs
  let b := regs.foldl (fun b p => match Reg.ofAddr p.1 with
    | some r => b.resetReg .watch r
    | none => b) b
  let b := ([Reg.wtMpl, .scDebugStat] ++ (List.range 10).map Reg.wtShedRetain).foldl (Body.resetReg .watch) b
  let p := b.power
  { b with
    ts := 0, unlock := {},
    power := { p with pSamples := [], mplSteps := List.replicate 10 0, curSteps := List.replicate 10 0, thermSteps := List.replicate 10 0,
                      watchSteps := List.replicate 10 0, hold110 := false, holdWatch := true, wakeAt := none },
    tele := { b.tele with errWatch := [], watchSeq := 0,
                          errPend := b.tele.errPend.filter (fun x => !decide (x.1 / 65536 = 10 ∨ x.1 / 65536 = 11)) } }

/-- WATCH_RESET (R444, R445, R455): a command of the security root in progress ends with AUTH_FAIL; in ANCHOR the exit follows; in DRYDOCK
the next start is a POR. -/
def execWatchReset (s : State) : Host.Outcome State Fault Refusal :=
  s.onBody fun b =>
    if b.boot.phase = .off then b
    else if b.boot.phase = .drydock then b.powerOff
    else
      let cut := b.hm.flights.filter fun x => decide (x.opc = 0x84 ∨ x.opc = 0x86) && x.started
      let b := cut.foldl (fun b fl => (b.forgetOne fl.uid).fail fl 0x60) b.watchCleared
      let mode := match b.boot.phase with
        | .run => 0
        | .anchor => 1
        | _ => 3
      let b := ((b.noteReset 5 4).setF .wtState Fld.wtStateModule mode).log 10 0 0x0C 0 0xFFFF 0 5
      let b := (b.setF .wtPinStat Fld.wtPinStatFault (if b.boot.heHeld ∨ b.boot.tripped then 1 else 0)).syncPins
      ((List.range 10).foldl Body.setClock b.levelCheck).wake 4

/-- WATCH_RESTART_DONE (R414, R445): the fuses are sensed, Swell E reruns its start-up test, and the ACLK climbs from 400 MHz. -/
def execWatchRestartDone (s : State) : Host.Outcome State Fault Refusal :=
  s.onFused fun fu b =>
    if ¬ b.power.holdWatch then b
    else
      let b := { b with ts := 0, power.holdWatch := false, power.watchSteps := List.replicate 10 54 }.senseFuses fu
      if b.swellState 1 = 3 then b
      else (b.setSwell 1 { b.swell 1 with blocks := 0, word := none, run := 0 }).setF (.rpSwellStat 1) Fld.rpSwellStatState 0

end Sys2Proof.Machine
end

