-- ==== Sys2Proof/Machine/Telemetry.lean ====
section
/-!
DEFINITION. Telemetry, health and debug (R458-R480): counters, snapshots and pushes, Logbooks, single steps, clock probes, error records
and Teredo.
-/

namespace Sys2Proof.Machine

/-! ### Context counters (R459, R460) -/

/-- TEL_READ (R458, R460): another context's counters need OBSERVE. A context without a slot of its own has none and faults HOLD_RANGE
(log entry 57). -/
def execTelRead (c : Cmd) (s : State) : Host.Outcome State Fault Refusal :=
  s.onBody fun b => b.onCmd c 0x88 fun b fl =>
    let id := if c.f 1 15 0 = 0xFFFF then c.ctx.toNat else c.f 1 15 0
    if id ≠ c.ctx.toNat ∧ ¬ b.level 0 then b.fail fl 0x60
    else
      match b.slotOf id with
      | none => b.fail fl 0x11
      | some k =>
        if k ≥ 64 then b.fail fl 0x11
        else b.outWrite fl (c.h 1) (32 * c.f 1 37 18) ((List.range 16).flatMap fun i => leBytes 8 (b.reg (.hmCtxCnt k i)).toNat)

/-! ### Snapshots and pushes (R461, R462) -/

/-- The instances of a group. -/
def groupCount (code : Nat) : Nat := [0, 200, 10, 1, 1, 33, 36, 1, 1, 1, 64, 1].getD code 0

/-- The registers of an instance of a group. -/
def groupRegs (code i : Nat) : List Reg :=
  match code with
  | 1 => [.brFmtTally i, .brTrussBusy i, .brTrussStall i, .brJyStall i, .brJyBusy i, .brLatheTally i, .brLatheStall i, .brScarfTally i,
      .rpDraws i, .brPwrStat i, .brTeredo i]
  | 2 => [.qyTileStat i, .qyStealStat i, .wtQuayClk i, .wtLoopStat i]
  | 3 => [.hmClampTally, .hmSramEcc, .hmTelStat, .hmErrStat] ++ (List.range 10).map Reg.hmCrateTally ++ (List.range 10).map Reg.hmCrateFault
  | 4 => [.mtCfg] ++ (List.range 20).map Reg.mtStackEcc ++ (List.range 4).map Reg.mtScrubStat ++ [.mtFlashLife, .mtFlashStat, .mtFlashWait]
  | 5 => [.slCfg (i / 3) (i % 3), .slStat (i / 3) (i % 3)]
  | 6 => [.lnStat i, .lnErr i, .lnOffset i]
  | 7 => [.bwBasinStat 0, .bwBasinStat 1, .bwClTally, .bwTwinStat]
  | 8 => (List.range 8).map Reg.epPortStat ++ [.epPtpStat, .epPpsTs]
  | 9 => (List.range 8).map Reg.fyPipeStat ++ [.rpSwellStat 0, .rpSwellStat 1, .rpSampleStat]
  | 10 => (List.range 16).map fun n => Reg.hmCtxCnt i n
  | 11 => [.wtMpl, .wtState] ++ (List.range 10).map Reg.wtTeredo
  | _ => []

/-- A group reads as 0: those of the Quays in ANCHOR, and the contexts' counters without OBSERVE. -/
def Body.groupHidden (b : Body) (code : Nat) : Bool :=
  (decide (code ≤ 2) && decide (b.boot.phase = .anchor)) || (decide (code = 10) && !b.level 0)

/-- A group of a snapshot, with its header. -/
def Body.groupBytes (b : Body) (code : Nat) : List Byte :=
  leBytes 1 code ++ leBytes 2 (groupCount code) ++ leBytes 1 (groupRegs code 0).length ++ leBytes 4 0 ++
    (List.range (groupCount code)).flatMap fun i => (groupRegs code i).flatMap fun r =>
      leBytes 8 (if b.groupHidden code then 0 else (b.reg r).toNat)

/-- A snapshot of the groups of a mask, with a push sequence number. It is taken in one step, so both its timestamps are that step's
(log entry 57). -/
def Body.snapBytes (b : Body) (mask seq : Nat) : List Byte :=
  leBytes 2 (frGet b.framing 0x001) ++ leBytes 2 mask ++ leBytes 4 0 ++ leBytes 8 b.ts.toNat ++ leBytes 8 b.ts.toNat ++ leBytes 8 seq ++
    ((List.range 11).filter fun k => mask.testBit k).flatMap fun k => b.groupBytes (k + 1)

/-- TEL_SNAP (R461): the mask's reserved bits are ignored. -/
def execTelSnap (c : Cmd) (s : State) : Host.Outcome State Fault Refusal :=
  s.onBody fun b => b.onCmd c 0x89 fun b fl => b.outWrite fl (c.h 1) 0 (b.snapBytes (c.f 1 15 0 % 2048) 0)

/-- TEL_PUSH (R462): a peer's handle resolves to a writable remote entry, or the command faults. -/
def execTelPush (c : Cmd) (s : State) : Host.Outcome State Fault Refusal :=
  s.onBody fun b => b.onCmd c 0x8A fun b fl =>
    let ms := if c.f 1 31 16 = 0 then 0 else max 10 (c.f 1 31 16)
    let b := b.clampCmd fl (diff ms (c.f 1 31 16))
    let set (b : Body) : Body :=
      let t : TelPush := { groups := c.f 1 15 0 % 2048, period := ms, qp := c.f 1 40 32, va := (c.w 2).toNat, rkey := c.f 3 31 0,
                           peer := c.h 4, slot := fl.slot, seq := b.tele.push.seq }
      let b := { b with tele.push := t }
      ((b.setF .hmTelCfg Fld.hmTelCfgGroups t.groups).setF .hmTelCfg Fld.hmTelCfgPeriodMs ms).done fl
    if c.h 4 = 0 then set b
    else
      match b.resolve fl.slot (c.h 4) with
      | none => b.fail fl 0x12 (c.h 4)
      | some e => if e.place = 5 ∧ e.wr then set b else b.fail fl 0x11 (c.h 4)

/-- The two writes of a push (R462): the snapshot whole, bearing the number of the push before, then its own number (DEDUCED, log entry 57). -/
def Body.pushWrites (b : Body) (seq : Nat) : List (Nat × List Byte) :=
  [(0, b.snapBytes b.tele.push.groups (seq - 1)), (24, leBytes 8 seq)]

/-- A push goes to its host or peer; none where that cannot be reached. -/
def Body.pushOut (b : Body) (seq : Nat) : Option Body :=
  let t := b.tele.push
  if t.peer = 0 then
    if b.qpReady t.qp then
      let b' := { b with tele.push := { t with seq := seq, acked := false, uid := none } }
      some ((b.pushWrites seq).foldl (fun b (w : Nat × List Byte) => b.rdmaOut t.qp (t.va + w.1) t.rkey w.2) b')
    else none
  else
    match b.resolve t.slot t.peer with
    | none => none
    | some e =>
      let uid := b.hm.nextUid
      match b.pickLine e.module (b.partOfSlot t.slot) 7 with
      | (none, _) => none
      | (some l, b) =>
        let b' := { b with hm.nextUid := uid + 1, tele.push := { t with seq := seq, acked := false, uid := some uid } }
        some ((b.pushWrites seq).foldl (fun b (w : Nat × List Byte) =>
          let m : Msg := { port := .line l, kind := .remoteWrite, nums := [e.module, e.gangway, e.base + w.1, w.2.length, e.key], data := w.2 }
          b.lineSend l 7 m (some uid)) b')

/-- TELEMETRY_PUSH (R462): a push that cannot be sent is skipped and counted, as one is while the last is unacknowledged (log entry 57). -/
def execTelemetryPush (s : State) : Host.Outcome State Fault Refusal :=
  s.onBody fun b =>
    if b.tele.push.period = 0 ∨ b.boot.phase ∉ [.run, .anchorEntry, .anchor] ∨ b.hm.sramDead then b
    else if ¬ b.tele.push.acked then b.bump .hmTelStat Fld.hmTelStatSkipped 1
    else
      match b.pushOut (b.tele.push.seq + 1) with
      | some b => b
      | none => b.bump .hmTelStat Fld.hmTelStatSkipped 1

/-! ### Logbooks (R463-R466) -/

/-- The 16 bytes of a Logbook record; a masked one shows neither context, tag nor argument. -/
def logBytes (hide : Bool) (r : LogRec) : List Byte :=
  let v (n : Nat) : Nat := if hide then 0 else n
  leBytes 8 r.ts.toNat ++ leBytes 1 r.code ++ leBytes 1 r.status ++ leBytes 2 (v r.ctx) ++ leBytes 2 (v r.tag) ++ leBytes 2 (v r.arg)

/-- The 1,040 bytes of a unit's Logbook as a context sees it: records of no context, and its own, are shown whole. -/
def Body.logbook (b : Body) (kind i ctx : Nat) : List Byte :=
  let l := SMap.get b.tele.logs [] (kind * 65536 + i)
  leBytes 1 kind ++ leBytes 1 (b.getF .wtLogFreeze Fld.wtLogFreezeFrozen) ++ leBytes 2 l.length ++ leBytes 2 i ++ leBytes 10 0 ++
    (l.flatMap fun r => logBytes (decide (r.ctx ≠ ctx ∧ r.ctx ≠ 0xFFFF) && !b.level 0) r) ++ List.replicate (16 * (64 - l.length)) 0

/-- LOG_READ (R466): a KIND above 10 is clamped to 10, and indices to the kind's units. A last index below the first names no unit. -/
def execLogRead (c : Cmd) (s : State) : Host.Outcome State Fault Refusal :=
  s.onBody fun b => b.onCmd c 0x8B fun b fl =>
    let kind := min 10 (c.f 1 3 0)
    let top := logUnits kind - 1
    let first := min top (c.f 2 15 0)
    let last := min top (c.f 2 31 16)
    let b := b.clampCmd fl (diff kind (c.f 1 3 0) + diff first (c.f 2 15 0) + diff last (c.f 2 31 16))
    b.outWrite fl (c.h 1) 0 ((List.range (last + 1 - first)).flatMap fun i => b.logbook kind (first + i) c.ctx.toNat)

/-- A LOG_CTL: its OP, of which 3 is clamped to 2; STAT0-STAT3 are always written. -/
def Body.logCtl (b : Body) (c : Cmd) (op : Nat) (f : Body → Body) : Body :=
  b.onSub c 0x8C (decide (min 2 (c.f 1 1 0) = op)) fun b fl =>
    let b := (b.clampCmd fl (if c.f 1 1 0 = 3 then 1 else 0)).setF .wtLogFreeze Fld.wtLogFreezeStat (c.f 2 31 0)
    (f b).done fl

/-- Recording goes on. -/
def Body.thawLogs (b : Body) : Body := (b.setF .wtLogFreeze Fld.wtLogFreezeFrozen 0).setF .wtLogFreeze Fld.wtLogFreezeCause 0

/-- LOG_CTL FREEZE (R464). -/
def execLogFreeze (c : Cmd) (s : State) : Host.Outcome State Fault Refusal := s.onBody fun b => b.logCtl c 0 fun b => b.freezeLogs 1

/-- LOG_CTL THAW (R464). -/
def execLogThaw (c : Cmd) (s : State) : Host.Outcome State Fault Refusal := s.onBody fun b => b.logCtl c 1 Body.thawLogs

/-- LOG_CTL CLEAR (R464): every ring is emptied and thawed. -/
def execLogClear (c : Cmd) (s : State) : Host.Outcome State Fault Refusal :=
  s.onBody fun b => b.logCtl c 2 fun b => { b with tele.logs := [] }.thawLogs

/-! ### Single steps (R467, R468) -/

/-- A context is the one being stepped. -/
def Body.steppedIs (b : Body) (id : Nat) : Bool :=
  b.flag .hmStepStat Fld.hmStepStatStepping && decide (b.getF .hmStepStat Fld.hmStepStatCtx = id)

/-- DBG_STEP BEGIN (R467): the row is given again while the pre-emption goes on. -/
def execDbgStepBegin (c : Cmd) (s : State) : Host.Outcome State Fault Refusal :=
  s.onBody fun b => b.onSub c 0x8D (decide (c.f 1 17 16 = 0)) fun b fl =>
    let id := c.f 1 15 0
    let no (status : Nat) : Body := (b.dropHalting fl.uid).fail fl status
    if ¬ b.level 1 then no 0x60
    else
      match b.slotOf id with
      | none => no 0x11
      | some k =>
        if k ≥ 64 ∨ (b.info k).closing ∨ (b.flag .hmStepStat Fld.hmStepStatStepping ∧ ¬ b.steppedIs id) then no 0x11
        else
          let b := (b.noteHalting fl k).preempt k (some fl.uid)
          let b := (b.setF .hmStepStat Fld.hmStepStatCtx id).setF .hmStepStat Fld.hmStepStatStepping 1
          if b.getF (.hmCtxStat k) Fld.hmCtxStatState = 1 then (b.dropHalting fl.uid).done fl else b

/-- A step begins with a command. -/
def Body.stepWith (b : Body) (fl x : Flight) : Body :=
  { b with tele.dbg := some ({ fl := fl, target := x.uid, wq := x.cmd.wq, opc := x.opc, tag := x.cmd.tag.toNat, point := fl.cmd.b 1 18,
                               start := b.ts } : DbgRun) }

/-- A step dispatches a head of the stepped context. -/
def Body.stepHead (b : Body) (fl : Flight) (n : Fin 64) (h : Head) (slot : Nat) : Body :=
  let b := match b.partOfSlot slot with
    | some p => if h.opc = 0x19 then { b with hm.stepLast := SMap.set b.hm.stepLast 0 p (b.ctxOfSlot slot + 1) } else b
    | none => b
  let (b, x) := b.dispatchHead n h slot
  b.stepWith fl x

/-- A STEP opcode that would wait for the partition's open step is returned to its queue at once. -/
def Body.stepBack (b : Body) (fl : Flight) (h : Head) : Body :=
  { b with
    hm.nextUid := b.hm.nextUid + 1,
    tele.dbg := some ({ fl := fl, target := b.hm.nextUid, wq := h.cmd.wq, opc := h.opc, tag := h.cmd.tag.toNat, point := fl.cmd.b 1 18,
                        start := b.ts, outcome := some (2, 0), stop := b.ts } : DbgRun) }

/-- A step takes its command: the oldest saved one, else the next that would be dispatched; it waits while there is none. -/
def Body.stepTake (b : Body) (fl : Flight) (slot : Nat) : Body :=
  match (b.info slot).saved with
  | x :: rest => ((b.updInfo slot fun i => { i with saved := rest }).resumeOne slot x).stepWith fl x
  | [] =>
    let b := (List.finRange 64).foldl (fun b n => b.consume n 4096) b
    let hs := (b.queuesOf (b.ctxOfSlot slot)).filterMap fun n => (b.headOf n).map fun h => (n, h)
    match hs.find? fun x => !b.headAllowed x.1 x.2 with
    | some (n, h) =>
      let (b, x) := b.dispatchHead n h slot
      (b.stepWith fl x).fail x 0x60
    | none =>
      match b.pick ((hs.filter fun x => (b.headReady x.1 x.2 true).isSome).map (·.1)) with
      | none =>
        match hs.find? fun x => decide (x.2.opc = 0x19) with
        | some (_, h) => if ((b.partOfSlot slot).map b.stepping).getD false then b.stepBack fl h else b
        | none => b
      | some (n, b') =>
        match hs.find? fun x => decide (x.1 = n) with
        | none => b
        | some (_, h) => if (b.info slot).eccPending ∧ fencePoint h.cmd h.opc then b.ctxReset slot 0x20 else b'.stepHead fl n h slot

/-- The step record is written, and DBG_STEP completes; where STEP has gone out of force STEPPING clears (R468). -/
def Body.stepRecord (b : Body) (d : DbgRun) (outcome status : Nat) (stop : Word) : Body :=
  let r := leBytes 1 d.wq ++ leBytes 1 d.opc ++ leBytes 1 outcome ++ leBytes 1 status ++ leBytes 2 d.tag ++ leBytes 2 0 ++
    leBytes 8 d.start.toNat ++ leBytes 8 stop.toNat ++ leBytes 8 d.units
  let b := { b with tele.dbg := none }.bump .hmStepStat Fld.hmStepStatSteps 1
  (b.outWrite d.fl (d.fl.cmd.h 2) 0 r).levelCheck

/-- A step in progress: it ends once its command has; one that waits is returned, and a STEP ends with its admission. -/
def Body.stepGo (b : Body) (d : DbgRun) : Body :=
  match d.outcome with
  | some (o, st) => b.stepRecord d o st d.stop
  | none =>
    match b.hm.waits.find? fun p => decide (p.1.uid = d.target) with
    | some p => (b.returnWait p.1).stepRecord d 2 0 b.ts
    | none =>
      if (List.range 64).any fun k => (b.info k).step.any fun r => decide (r.fl.uid = d.target) then b.stepRecord d 0 0 b.ts
      else b

/-- DBG_STEP STEP (R467): the row is given again while the step goes on; another step waits for it. -/
def execDbgStepStep (c : Cmd) (s : State) : Host.Outcome State Fault Refusal :=
  s.onBody fun b => b.onSub c 0x8D (decide (c.f 1 17 16 = 1)) fun b fl =>
    match b.tele.dbg with
    | some d => if d.fl.uid = fl.uid then b.stepGo d else b
    | none =>
      if ¬ b.level 1 then b.fail fl 0x60
      else
        match b.slotOf (c.f 1 15 0), b.accessHere fl.slot (c.h 2) 0 32 true with
        | some k, .ok _ =>
          if k ≥ 64 ∨ ¬ b.steppedIs (c.f 1 15 0) then b.fail fl 0x11
          else if b.getF (.hmCtxStat k) Fld.hmCtxStatState = 1 then b.stepTake fl k
          else b
        | none, _ => b.fail fl 0x11
        | _, .error st => b.fail fl st (c.h 2)

/-- DBG_STEP END (R467); OP 3 is clamped to it. -/
def execDbgStepEnd (c : Cmd) (s : State) : Host.Outcome State Fault Refusal :=
  s.onBody fun b => b.onSub c 0x8D (decide (c.f 1 17 16 ≥ 2)) fun b fl =>
    if b.tele.dbg.isSome then b
    else
      let b := b.clampCmd fl (if c.f 1 17 16 = 3 then 1 else 0)
      if ¬ b.level 1 then b.fail fl 0x60
      else if b.steppedIs (c.f 1 15 0) then b.stepClear.done fl
      else b.fail fl 0x11

/-! ### Clock probes (R469) -/

/-- TS_PROBE (R469): it waits for another; a Line neither UP nor retraining ends it. -/
def execTsProbe (c : Cmd) (s : State) : Host.Outcome State Fault Refusal :=
  s.onBody fun b => b.onCmd c 0x8E fun b fl =>
    if b.tele.probe.isSome then b
    else
      let l := min 35 (c.f 1 5 0)
      let n := max 1 (c.f 1 15 8)
      let b := b.clampCmd fl (diff l (c.f 1 5 0) + diff n (c.f 1 15 8))
      match b.accessHere fl.slot (c.h 2) 0 32 true with
      | .error st => b.fail fl st (c.h 2)
      | .ok _ =>
        if b.lineState l ≠ 2 ∧ b.lineState l ≠ 3 then b.fail fl 0x21
        else { b.start fl with tele.probe := some ({ fl := fl, line := l, count := n } : Probe) }

/-- TS_PROBE_SEND (R469): the next probe leaves on VC7, unless its Line is retraining. -/
def execTsProbeSend (s : State) : Host.Outcome State Fault Refusal :=
  s.onBody fun b =>
    match b.tele.probe with
    | none => b
    | some p =>
      if p.sent.length ≥ p.count ∨ ¬ b.lineUp p.line then b
      else
        let i := p.sent.length
        let b := { b with tele.probe := some { p with sent := p.sent ++ [(i, b.ts)] } }
        b.lineSend p.line 7 { port := .line p.line, kind := .probe, nums := [i, b.ts.toNat] }

/-- PROBE_ARRIVAL (R469): answered on VC7 whatever the module's state, with t2 and t3. -/
def execProbeArrival (l : Fin 36) (index : Nat) (t1 : Word) (s : State) : Host.Outcome State Fault Refusal :=
  s.onBody fun b =>
    if ¬ b.lineUp l then b
    else b.lineSend l 7 { port := .line l, kind := .probeReply, nums := [index, t1.toNat, b.ts.toNat, b.ts.toNat] }

/-- A number in the bits it has to fit, or a free value where it does not fit (log entry 57). -/
def Body.fitOr (b : Body) (w : Nat) (signed : Bool) (v : Int) : Nat × Body :=
  let half : Int := ((2 ^ (w - 1) : Nat) : Int)
  let ok := if signed then decide (-half ≤ v ∧ v < half) else decide (0 ≤ v ∧ v < 2 * half)
  if ok then (ofSInt w v, b) else let (x, b) := b.free; (x.toNat % 2 ^ w, b)

/-- TS_PROBE ends: the probe of least delay, of the lowest index among equals, is reported. Where none was answered only the count and the
peer are stated (log entry 57). -/
def Body.probeEnd (b : Body) (p : Probe) : Body :=
  let b := { b with tele.probe := none }
  let tail (n : Nat) : List Byte := leBytes 1 n ++ leBytes 1 0 ++ leBytes 2 (b.getF (.lnStat p.line) Fld.lnStatPeer)
  let best := p.results.foldl (fun (v : Option (Nat × Int × Int × Word)) (r : Nat × Int × Int × Word) =>
    match v with
    | none => some r
    | some w => if r.2.2.1 < w.2.2.1 ∨ (r.2.2.1 = w.2.2.1 ∧ r.1 < w.1) then some r else some w) none
  match best with
  | some (_, off, delay, t1) =>
    let (o, b) := b.fitOr 48 true off
    let (d, b) := b.fitOr 16 false delay
    let (d32, b) := b.fitOr 32 false delay
    let b := (b.setF (.lnOffset p.line) Fld.lnOffsetOffset o).setF (.lnOffset p.line) Fld.lnOffsetDelay d
    b.outWrite p.fl (p.fl.cmd.h 2) 0 (leBytes 8 (ofSInt 64 off) ++ leBytes 4 d32 ++ tail p.results.length ++ leBytes 8 t1.toNat ++ leBytes 8 0)
  | none =>
    let (x, b) := b.free
    let (y, b) := b.free
    let (z, b) := b.free
    b.outWrite p.fl (p.fl.cmd.h 2) 0 (leBytes 8 x.toNat ++ leBytes 4 y.toNat ++ tail 0 ++ leBytes 8 z.toNat ++ leBytes 8 0)

/-- PROBE_REPLY (R469, R478): offset and delay of a probe sent and not yet answered; one that spans a PTP step is discarded. -/
def execProbeReply (l : Fin 36) (index : Nat) (t2 t3 : Word) (s : State) : Host.Outcome State Fault Refusal :=
  s.onBody fun b =>
    match b.tele.probe with
    | none => b
    | some p =>
      match p.sent.find? fun x => decide (x.1 = index) with
      | none => b
      | some (_, t1) =>
        if p.line ≠ l.val then b
        else
          let i (t : Word) : Int := (t.toNat : Int)
          let off : Int := ((i t2 - i t1) - (i b.ts - i t3)).tdiv 2
          let delay : Int := ((i b.ts - i t1) - (i t3 - i t2)).tdiv 2
          let p := { p with
            sent := p.sent.map (fun (x : Nat × Word) => if x.1 = index then (p.count + x.1, x.2) else x), done := p.done + 1,
            results := if index ∈ p.spoiled then p.results else p.results ++ [(index, off, delay, t1)] }
          if p.done = p.count then b.probeEnd p else { b with tele.probe := some p }

/-! ### Error records (R474-R476) -/

/-- The 64 bytes of an error record. -/
def errBytes (seq : Nat) (r : ErrRec) : List Byte :=
  leBytes 8 r.ts.toNat ++ leBytes 4 seq ++ leBytes 2 r.code ++ leBytes 1 r.sev ++ leBytes 1 r.status ++ leBytes 2 r.ctx ++ leBytes 2 r.tag ++
    leBytes 1 r.opc ++ leBytes 1 r.kind ++ leBytes 2 r.unit ++ (padWords 5 r.d).flatMap (leBytes 8)

/-- ERROR_RECORD (R475): the oldest record a unit has pending reaches the main ring while the Harbourmaster runs; a full ring loses its
oldest. -/
def execErrorRecord (kind unit : Nat) (s : State) : Host.Outcome State Fault Refusal :=
  s.onBody fun b =>
    let k := kind * 65536 + unit
    match SMap.get b.tele.errPend [] k with
    | [] => b
    | r :: rest =>
      if b.hm.sramDead ∨ b.boot.phase ∈ [.held, .released, .drydock, .off] then b
      else
        let seq := b.getF .hmErrStat Fld.hmErrStatNextSeq
        let b := if b.tele.errMain.length ≥ 1024 then b.bump .hmErrStat Fld.hmErrStatLost 1 else b
        let l := b.tele.errMain ++ [(seq, r)]
        { b with tele.errPend := SMap.set b.tele.errPend [] k rest, tele.errMain := l.drop (l.length - 1024) }.setF .hmErrStat
          Fld.hmErrStatNextSeq (seq + 1)

/-- ERR_READ (R476): a command from an ordinary queue receives only its context's records. -/
def execErrRead (c : Cmd) (s : State) : Host.Outcome State Fault Refusal :=
  s.onBody fun b => b.onCmd c 0x8F fun b fl =>
    let n := max 1 (min 1024 (c.f 2 42 32))
    let b := b.clampCmd fl (diff n (c.f 2 42 32))
    let (ring, next, lost) := if c.b 1 0 then (b.tele.errWatch, b.tele.watchSeq, b.getF .wtLogFreeze Fld.wtLogFreezeWLost)
      else (b.tele.errMain, b.getF .hmErrStat Fld.hmErrStatNextSeq, b.getF .hmErrStat Fld.hmErrStatLost)
    let rs := (ring.filter fun (x : Nat × ErrRec) => decide (x.1 ≥ c.f 2 31 0) && (fl.priv || decide (x.2.ctx = c.ctx.toNat))).take n
    b.outWrite fl (c.h 1) 0 (leBytes 4 rs.length ++ leBytes 4 next ++ leBytes 4 lost ++ leBytes 4 0 ++
      rs.flatMap fun (x : Nat × ErrRec) => errBytes x.1 x.2)

/-! ### Teredo (R470, R471) -/

/-- A measurement joins a Berth's fit; times run from the first. -/
def Fit.add (f : Fit) (now : Word) (d : Nat) : Fit :=
  let f := if f.n = 0 then { f with first := now } else f
  let t := now.toNat - f.first.toNat
  { f with n := f.n + 1, st := f.st + t, sd := f.sd + d, stt := f.stt + t * t, std := f.std + t * d }

/-- PRED_DAYS of a fit, for a DEGR: 65,535 before 24 h of measurements and where the slope is not positive; 0 once DEGR has reached 400
(log entry 57). -/
def Fit.pred (f : Fit) (now : Word) (d : Nat) : Nat :=
  let num : Int := ((f.n * f.std : Nat) : Int) - ((f.st * f.sd : Nat) : Int)
  let den : Nat := f.n * f.stt - f.st * f.st
  if now.toNat - f.first.toNat < day ∨ num ≤ 0 ∨ den = 0 then 65535
  else min 65535 ((400 - d) * den / (num.toNat * day))

/-- One Berth's measurement (R470, R471): its registers and its fit. -/
def Body.teredoOne (b : Body) (g d : Nat) : Body :=
  let f := (SMap.get b.tele.fits {} g).add b.ts d
  let r : Reg := .brTeredo g
  let b := { b with tele.fits := SMap.set b.tele.fits {} g f }
  ((b.setF r Fld.brTeredoDegr (min 1023 d)).setF r Fld.brTeredoDemand (min 63 (ceilDiv d 25))).setF r Fld.brTeredoPredDays
    (f.pred b.ts d) |>.bump r Fld.brTeredoMeas 1

/-- What a Quay's measurements do to its guard-band and points; the first demand above 16 steps writes a record. -/
def Body.teredoQuay (b : Body) (q : Nat) (ms : List (Nat × Nat)) : Body :=
  let mine := ms.filter fun p => decide (p.1 / 20 = q)
  if mine = [] then b
  else
    let need := (mine.map fun p => ceilDiv p.2 25).foldl max 0
    let old := if b.power.guardPor then 0 else b.power.guard.getD q 16
    let gone := b.power.removed.getD q 0
    let b := match mine.find? fun p => decide (ceilDiv p.2 25 > 16) with
      | some (g, d) => if gone = 0 then b.err 0x0904 1 1 q [g, d] else b
      | none => b
    let b := { b with power.guard := b.power.guard.set q (max old (min 16 need)), power.removed := b.power.removed.set q (max gone (need - 16)) }
    let regs := (List.range 20).map fun i => Reg.brTeredo (20 * q + i)
    (b.setF (.wtTeredo q) Fld.wtTeredoDegrMax ((regs.map fun r => b.getF r Fld.brTeredoDegr).foldl max 0)).setF (.wtTeredo q)
      Fld.wtTeredoPredDays ((regs.map fun r => b.getF r Fld.brTeredoPredDays).foldl min 65535)

/-- TEREDO_MEASURE (R470, R471): the DEGR of Berths, of which those in WORK or IDLE are measured. After a POR or a return from DRYDOCK the
guard-bands leave 40 mV at the first measurement. -/
def execTeredoMeasure (degr : List (Nat × Nat)) (s : State) : Host.Outcome State Fault Refusal :=
  s.onBody fun b =>
    let ms := degr.filter fun p => decide (p.1 < 200) && b.quayUp (p.1 / 20) && decide (b.pwr p.1 < 2)
    if ms = [] then b
    else
      let b := ms.foldl (fun b p => b.teredoOne p.1 p.2) b
      let b := (List.range 10).foldl (fun b q => b.teredoQuay q ms) b
      { b with power.guardPor := false }

end Sys2Proof.Machine
end

