-- ==== Sys2Proof/Machine/Pins.lean ====
section
/-!
DEFINITION. The sideband pins but those that reset and wake (R411, R412, R486, R488, R490): boot-flash service, EN_A and EN_B, scan access.
-/

namespace Sys2Proof.Machine

/-- FLASH_SVC_N is honoured: HE is held under R412, or the module is in DRYDOCK. -/
def Body.flashService (b : Body) : Bool := b.boot.heHeld || decide (b.boot.phase = .drydock)

/-- FLASH_SVC_N_LOW (R488, R496): the flash lines are released where it is honoured. -/
def execFlashSvcNLow (s : State) : Host.Outcome State Fault Refusal :=
  s.onBody fun b =>
    let b := { b with boot.svcLow := true }
    if b.flashService then b.setF .wtPinStat Fld.wtPinStatFlashSvc 1 else b

/-- FLASH_SVC_N_RISE (R488): what the external master has written stands in the flash, which holds 64 MiB; while HE is held a new
verification starts. -/
def execFlashSvcNRise (image : List (Nat × List Byte)) (s : State) : Host.Outcome State Fault Refusal :=
  s.onFused fun fu b =>
    let was := b.boot.svcLow
    let b := { b with boot.svcLow := false }
    if ¬ b.flashService ∨ ¬ was then b
    else
      let b := image.foldl (fun b p => b.setBytes (flashBase + min p.1 0x4000000) (p.2.take (0x4000000 - p.1))) b
      let b := b.setF .wtPinStat Fld.wtPinStatFlashSvc 0
      if b.boot.heHeld then b.loadFirmware fu else b

/-- EN_OPEN (R490): EN_A (false) or EN_B (true) opens, which is a loss of input power. -/
def execEnOpen (b : Bool) (s : State) : Host.Outcome State Fault Refusal :=
  s.onBody fun x =>
    let x := if b then { x with power.enB := false } else { x with power.enA := false }
    if x.boot.phase = .off then x else x.powerOff

/-- SCAN_ACCESS (R423, R486): ignored unless the SCAN level is in force; what an access then does the spec does not say. -/
def execScanAccess (_tdi : List Bool) (s : State) : Host.Outcome State Fault Refusal :=
  if s.body.level 2 then .refused .scanUnspecified else .next s

end Sys2Proof.Machine
end

