-- ==== Sys2Proof/Machine/Dispatch.lean ====
section
/-!
DEFINITION. What each command does: one arm for each constructor of `Instr`, one direct call of its meaning.
-/

namespace Sys2Proof.Machine

/-- The effect of a command on everything but the queue. -/
def exec (i : Instr) (s : State) : Host.Outcome State Fault Refusal :=
  match i with
  | .registerWrite addr len value => Sys2Proof.Machine.execRegisterWrite addr len value s
  | .rcRead addr len => Sys2Proof.Machine.execRcRead addr len s
  | .boardwalkTraining out => Sys2Proof.Machine.execBoardwalkTraining out s
  | .linkRetrain link ok => Sys2Proof.Machine.execLinkRetrain link ok s
  | .linkLost link retries => Sys2Proof.Machine.execLinkLost link retries s
  | .tpass g w conflict => Sys2Proof.Machine.execTpass g w conflict s
  | .tdrain g w => Sys2Proof.Machine.execTdrain g w s
  | .traft g w => Sys2Proof.Machine.execTraft g w s
  | .raftForm g => Sys2Proof.Machine.execRaftForm g s
  | .tfence g w => Sys2Proof.Machine.execTfence g w s
  | .swap g => Sys2Proof.Machine.execSwap g s
  | .drainRow g => Sys2Proof.Machine.execDrainRow g s
  | .trussGating g => Sys2Proof.Machine.execTrussGating g s
  | .rampStep g => Sys2Proof.Machine.execRampStep g s
  | .mfBind c => Sys2Proof.Machine.execMfBind c s
  | .mfUnbind c => Sys2Proof.Machine.execMfUnbind c s
  | .unbindTakesEffect slot idx => Sys2Proof.Machine.execUnbindTakesEffect slot idx s
  | .mfAllot c regions => Sys2Proof.Machine.execMfAllot c regions s
  | .zeroingComplete region => Sys2Proof.Machine.execZeroingComplete region s
  | .slicePowerChange region => Sys2Proof.Machine.execSlicePowerChange region s
  | .sliceReady region => Sys2Proof.Machine.execSliceReady region s
  | .gwOpen c => Sys2Proof.Machine.execGwOpen c s
  | .gwClose c => Sys2Proof.Machine.execGwClose c s
  | .gwCloseDrain g => Sys2Proof.Machine.execGwCloseDrain g s
  | .gangwayAccess a => Sys2Proof.Machine.execGangwayAccess a s
  | .dmaCopy c => Sys2Proof.Machine.execDmaCopy c s
  | .dmaFill c => Sys2Proof.Machine.execDmaFill c s
  | .mmOp c => Sys2Proof.Machine.execMmOp c s
  | .walk c => Sys2Proof.Machine.execWalk c s
  | .walkCopy c => Sys2Proof.Machine.execWalkCopy c s
  | .claimSlotLoad uid q => Sys2Proof.Machine.execClaimSlotLoad uid q s
  | .tileClaim g => Sys2Proof.Machine.execTileClaim g s
  | .stealRequest q => Sys2Proof.Machine.execStealRequest q s
  | .splitReducePhase uid => Sys2Proof.Machine.execSplitReducePhase uid s
  | .chainSet c => Sys2Proof.Machine.execChainSet c s
  | .vecOp c => Sys2Proof.Machine.execVecOp c s
  | .jyRun c => Sys2Proof.Machine.execJyRun c s
  | .jld g w conflict => Sys2Proof.Machine.execJld g w conflict s
  | .jst g w => Sys2Proof.Machine.execJst g w s
  | .jop g w => Sys2Proof.Machine.execJop g w s
  | .jred g w => Sys2Proof.Machine.execJred g w s
  | .jmov g w => Sys2Proof.Machine.execJmov g w s
  | .jbench g w => Sys2Proof.Machine.execJbench g w s
  | .jctlFence g w => Sys2Proof.Machine.execJctlFence g w s
  | .jctlLoop g w => Sys2Proof.Machine.execJctlLoop g w s
  | .jctlEndloop g w => Sys2Proof.Machine.execJctlEndloop g w s
  | .jctlEnd g w => Sys2Proof.Machine.execJctlEnd g w s
  | .vec g d w => Sys2Proof.Machine.execVec g d w s
  | .intAdd g d w => Sys2Proof.Machine.execIntAdd g d w s
  | .intSub g d w => Sys2Proof.Machine.execIntSub g d w s
  | .intMul g d w => Sys2Proof.Machine.execIntMul g d w s
  | .intAnd g d w => Sys2Proof.Machine.execIntAnd g d w s
  | .intOr g d w => Sys2Proof.Machine.execIntOr g d w s
  | .intXor g d w => Sys2Proof.Machine.execIntXor g d w s
  | .intShl g d w => Sys2Proof.Machine.execIntShl g d w s
  | .intShr g d w => Sys2Proof.Machine.execIntShr g d w s
  | .intSra g d w => Sys2Proof.Machine.execIntSra g d w s
  | .intSlt g d w => Sys2Proof.Machine.execIntSlt g d w s
  | .intAddi g d w => Sys2Proof.Machine.execIntAddi g d w s
  | .intLui g d w => Sys2Proof.Machine.execIntLui g d w s
  | .vld g d w => Sys2Proof.Machine.execVld g d w s
  | .vst g d w => Sys2Proof.Machine.execVst g d w s
  | .xld g d w => Sys2Proof.Machine.execXld g d w s
  | .xst g d w => Sys2Proof.Machine.execXst g d w s
  | .beq g d w => Sys2Proof.Machine.execBeq g d w s
  | .bne g d w => Sys2Proof.Machine.execBne g d w s
  | .blt g d w => Sys2Proof.Machine.execBlt g d w s
  | .jmp g d w => Sys2Proof.Machine.execJmp g d w s
  | .bar g d w => Sys2Proof.Machine.execBar g d w s
  | .ctrlEnd g d w => Sys2Proof.Machine.execCtrlEnd g d w s
  | .vred g d w => Sys2Proof.Machine.execVred g d w s
  | .vmovx g d w => Sys2Proof.Machine.execVmovx g d w s
  | .jigLoad c => Sys2Proof.Machine.execJigLoad c s
  | .jigSwapOnly c => Sys2Proof.Machine.execJigSwapOnly c s
  | .jigShadowFree part => Sys2Proof.Machine.execJigShadowFree part s
  | .scarfOpSingle c => Sys2Proof.Machine.execScarfOpSingle c s
  | .scarfOpChained c => Sys2Proof.Machine.execScarfOpChained c s
  | .scarfOpSoftmax c => Sys2Proof.Machine.execScarfOpSoftmax c s
  | .cratePoolCreate c => Sys2Proof.Machine.execCratePoolCreate c s
  | .cratePoolDestroy c => Sys2Proof.Machine.execCratePoolDestroy c s
  | .crateMapOpen c => Sys2Proof.Machine.execCrateMapOpen c s
  | .crateMapClose c => Sys2Proof.Machine.execCrateMapClose c s
  | .apronAppend c => Sys2Proof.Machine.execApronAppend c s
  | .apronNextCrate map stream => Sys2Proof.Machine.execApronNextCrate map stream s
  | .crateCtlMove c => Sys2Proof.Machine.execCrateCtlMove c s
  | .crateCtlDrop c => Sys2Proof.Machine.execCrateCtlDrop c s
  | .crateCtlPrio c => Sys2Proof.Machine.execCrateCtlPrio c s
  | .crateCopyComplete map stream crate => Sys2Proof.Machine.execCrateCopyComplete map stream crate s
  | .slotQuarantineEnd pool slot => Sys2Proof.Machine.execSlotQuarantineEnd pool slot s
  | .rebuild c => Sys2Proof.Machine.execRebuild c s
  | .rebuildRecipeDone wq tag => Sys2Proof.Machine.execRebuildRecipeDone wq tag s
  | .attnBatch c => Sys2Proof.Machine.execAttnBatch c s
  | .mergePhaseStart uid => Sys2Proof.Machine.execMergePhaseStart uid s
  | .convOp c => Sys2Proof.Machine.execConvOp c s
  | .resample c => Sys2Proof.Machine.execResample c s
  | .fyStreamOpen c => Sys2Proof.Machine.execFyStreamOpen c s
  | .fyStreamReconf c => Sys2Proof.Machine.execFyStreamReconf c s
  | .fyStreamClose c => Sys2Proof.Machine.execFyStreamClose c s
  | .fyEncode c => Sys2Proof.Machine.execFyEncode c s
  | .fyEncodeFlush c => Sys2Proof.Machine.execFyEncodeFlush c s
  | .fyDecode c => Sys2Proof.Machine.execFyDecode c s
  | .fyDecodeFlush c => Sys2Proof.Machine.execFyDecodeFlush c s
  | .fySound c => Sys2Proof.Machine.execFySound c s
  | .pipeTakeFrame pipe => Sys2Proof.Machine.execPipeTakeFrame pipe s
  | .ringRecord pipe => Sys2Proof.Machine.execRingRecord pipe s
  | .egressAck stream => Sys2Proof.Machine.execEgressAck stream s
  | .swellWord src samples => Sys2Proof.Machine.execSwellWord src samples s
  | .swellRestartDone src => Sys2Proof.Machine.execSwellRestartDone src s
  | .entropyTimeout wq tag => Sys2Proof.Machine.execEntropyTimeout wq tag s
  | .rippleReseed r => Sys2Proof.Machine.execRippleReseed r s
  | .rpMix c => Sys2Proof.Machine.execRpMix c s
  | .sample c => Sys2Proof.Machine.execSample c s
  | .commandDispatch => Sys2Proof.Machine.execCommandDispatch s
  | .commandComplete => Sys2Proof.Machine.execCommandComplete s
  | .summaryRecord wq => Sys2Proof.Machine.execSummaryRecord wq s
  | .nop c => Sys2Proof.Machine.execNop c s
  | .ctxFence c => Sys2Proof.Machine.execCtxFence c s
  | .sregWrite c => Sys2Proof.Machine.execSregWrite c s
  | .sregOp c => Sys2Proof.Machine.execSregOp c s
  | .sregWait c => Sys2Proof.Machine.execSregWait c s
  | .sregWaitTimeout wq => Sys2Proof.Machine.execSregWaitTimeout wq s
  | .sregXfer c => Sys2Proof.Machine.execSregXfer c s
  | .ctxOpen c => Sys2Proof.Machine.execCtxOpen c s
  | .ctxClose c => Sys2Proof.Machine.execCtxClose c s
  | .ctxReset c => Sys2Proof.Machine.execCtxReset c s
  | .ctxHalt c => Sys2Proof.Machine.execCtxHalt c s
  | .ctxResume c => Sys2Proof.Machine.execCtxResume c s
  | .ctxEvict c => Sys2Proof.Machine.execCtxEvict c s
  | .ctxAdmit c => Sys2Proof.Machine.execCtxAdmit c s
  | .wqCfg c => Sys2Proof.Machine.execWqCfg c s
  | .preemptionPoint uid => Sys2Proof.Machine.execPreemptionPoint uid s
  | .batchSetJoin c => Sys2Proof.Machine.execBatchSetJoin c s
  | .batchSetLeave c => Sys2Proof.Machine.execBatchSetLeave c s
  | .batchSetUpdate c => Sys2Proof.Machine.execBatchSetUpdate c s
  | .step c => Sys2Proof.Machine.execStep c s
  | .sramEccError e word => Sys2Proof.Machine.execSramEccError e word s
  | .watchdog => Sys2Proof.Machine.execWatchdog s
  | .doorbell w => Sys2Proof.Machine.execDoorbell w s
  | .sluiceRefill idx t => Sys2Proof.Machine.execSluiceRefill idx t s
  | .slSet c => Sys2Proof.Machine.execSlSet c s
  | .mtReduce c => Sys2Proof.Machine.execMtReduce c s
  | .mtMapout c => Sys2Proof.Machine.execMtMapout c s
  | .mtTrim c => Sys2Proof.Machine.execMtTrim c s
  | .refresh tier channel => Sys2Proof.Machine.execRefresh tier channel s
  | .calibration tier channel => Sys2Proof.Machine.execCalibration tier channel s
  | .readLevelTracking lun => Sys2Proof.Machine.execReadLevelTracking lun s
  | .scrubRead target finding => Sys2Proof.Machine.execScrubRead target finding s
  | .patrolRead unit finding => Sys2Proof.Machine.execPatrolRead unit finding s
  | .scrubLate target lag => Sys2Proof.Machine.execScrubLate target lag s
  | .wearLevelling channel => Sys2Proof.Machine.execWearLevelling channel s
  | .garbageCollection channel waited bad => Sys2Proof.Machine.execGarbageCollection channel waited bad s
  | .lineDataFlit l f => Sys2Proof.Machine.execLineDataFlit l f s
  | .lineAckFlit l ack credits => Sys2Proof.Machine.execLineAckFlit l ack credits s
  | .lineNak l expected => Sys2Proof.Machine.execLineNak l expected s
  | .lineReplayTimeout l => Sys2Proof.Machine.execLineReplayTimeout l s
  | .lineAckTimer l => Sys2Proof.Machine.execLineAckTimer l s
  | .lineRetrain l => Sys2Proof.Machine.execLineRetrain l s
  | .lineTrainingDone l lanes200 lanes100 peer => Sys2Proof.Machine.execLineTrainingDone l lanes200 lanes100 peer s
  | .lnCtlRetrain c => Sys2Proof.Machine.execLnCtlRetrain c s
  | .lnCtlPin c => Sys2Proof.Machine.execLnCtlPin c s
  | .lnCtlUnpin c => Sys2Proof.Machine.execLnCtlUnpin c s
  | .lnCtlDisable c => Sys2Proof.Machine.execLnCtlDisable c s
  | .clGroup c => Sys2Proof.Machine.execClGroup c s
  | .clGroupDissolve c => Sys2Proof.Machine.execClGroupDissolve c s
  | .join peer group epoch hash => Sys2Proof.Machine.execJoin peer group epoch hash s
  | .brokenReport peer group epoch => Sys2Proof.Machine.execBrokenReport peer group epoch s
  | .clRegister c => Sys2Proof.Machine.execClRegister c s
  | .clUnregister c => Sys2Proof.Machine.execClUnregister c s
  | .clRun c => Sys2Proof.Machine.execClRun c s
  | .ready peer group epoch reg run hash => Sys2Proof.Machine.execReady peer group epoch reg run hash s
  | .collectiveChunk peer k => Sys2Proof.Machine.execCollectiveChunk peer k s
  | .freePosition peer group epoch reg tree count => Sys2Proof.Machine.execFreePosition peer group epoch reg tree count s
  | .twMirrorSend c announced => Sys2Proof.Machine.execTwMirrorSend c announced s
  | .twMirrorAccept c => Sys2Proof.Machine.execTwMirrorAccept c s
  | .mirrorCopy => Sys2Proof.Machine.execMirrorCopy s
  | .twSync c => Sys2Proof.Machine.execTwSync c s
  | .twCtlPair c => Sys2Proof.Machine.execTwCtlPair c s
  | .twCtlUnpair c => Sys2Proof.Machine.execTwCtlUnpair c s
  | .twCtlDetach c => Sys2Proof.Machine.execTwCtlDetach c s
  | .handover l areas => Sys2Proof.Machine.execHandover l areas s
  | .portCfg c => Sys2Proof.Machine.execPortCfg c s
  | .qpCreate c => Sys2Proof.Machine.execQpCreate c s
  | .qpCtlDestroy c => Sys2Proof.Machine.execQpCtlDestroy c s
  | .qpCtlRestart c => Sys2Proof.Machine.execQpCtlRestart c s
  | .qpCtlCap c => Sys2Proof.Machine.execQpCtlCap c s
  | .cqBind c => Sys2Proof.Machine.execCqBind c s
  | .wqEntryWrite w => Sys2Proof.Machine.execWqEntryWrite w s
  | .ciWrite w => Sys2Proof.Machine.execCiWrite w s
  | .piWrite wq => Sys2Proof.Machine.execPiWrite wq s
  | .rdmaWrite qp va rkey data ce => Sys2Proof.Machine.execRdmaWrite qp va rkey data ce s
  | .rdmaRead qp va rkey len ce => Sys2Proof.Machine.execRdmaRead qp va rkey len ce s
  | .fetchAndAdd qp va rkey v ce => Sys2Proof.Machine.execFetchAndAdd qp va rkey v ce s
  | .unsupportedRequest qp => Sys2Proof.Machine.execUnsupportedRequest qp s
  | .roceAck qp psn => Sys2Proof.Machine.execRoceAck qp psn s
  | .roceNak qp psn syndrome => Sys2Proof.Machine.execRoceNak qp psn syndrome s
  | .roceAckTimeout qp => Sys2Proof.Machine.execRoceAckTimeout qp s
  | .cnp qp => Sys2Proof.Machine.execCnp qp s
  | .alphaDecay qp => Sys2Proof.Machine.execAlphaDecay qp s
  | .rateIncrease qp => Sys2Proof.Machine.execRateIncrease qp s
  | .pauseFrame p prio quanta => Sys2Proof.Machine.execPauseFrame p prio quanta s
  | .pfcStorm p => Sys2Proof.Machine.execPfcStorm p s
  | .arpRequest p vlan ip => Sys2Proof.Machine.execArpRequest p vlan ip s
  | .neighbourSolicitation p vlan ip => Sys2Proof.Machine.execNeighbourSolicitation p vlan ip s
  | .icmpEcho p vlan ip data => Sys2Proof.Machine.execIcmpEcho p vlan ip data s
  | .otherFrame p vlan => Sys2Proof.Machine.execOtherFrame p vlan s
  | .ethernetLinkChange p up => Sys2Proof.Machine.execEthernetLinkChange p up s
  | .ptpEventMessage p domain offset => Sys2Proof.Machine.execPtpEventMessage p domain offset s
  | .ppsInEdge => Sys2Proof.Machine.execPpsInEdge s
  | .ppsLost => Sys2Proof.Machine.execPpsLost s
  | .frStage c => Sys2Proof.Machine.execFrStage c s
  | .frLive c => Sys2Proof.Machine.execFrLive c s
  | .frRead c => Sys2Proof.Machine.execFrRead c s
  | .scAttest c => Sys2Proof.Machine.execScAttest c s
  | .scCommit c => Sys2Proof.Machine.execScCommit c s
  | .scOwner c => Sys2Proof.Machine.execScOwner c s
  | .scDebugChallenge c => Sys2Proof.Machine.execScDebugChallenge c s
  | .scDebugUnlock c => Sys2Proof.Machine.execScDebugUnlock c s
  | .scDebugLock c => Sys2Proof.Machine.execScDebugLock c s
  | .tokenExpiry => Sys2Proof.Machine.execTokenExpiry s
  | .challengeVoid => Sys2Proof.Machine.execChallengeVoid s
  | .firmwareLoad => Sys2Proof.Machine.execFirmwareLoad s
  | .framingApply => Sys2Proof.Machine.execFramingApply s
  | .tierTraining failedH failedL => Sys2Proof.Machine.execTierTraining failedH failedL s
  | .moduleRun => Sys2Proof.Machine.execModuleRun s
  | .pwLimit c => Sys2Proof.Machine.execPwLimit c s
  | .pwBerthWake c => Sys2Proof.Machine.execPwBerthWake c s
  | .pwBerthMoor c => Sys2Proof.Machine.execPwBerthMoor c s
  | .pwBerthLayup c => Sys2Proof.Machine.execPwBerthLayup c s
  | .pwBerthSetIdle c => Sys2Proof.Machine.execPwBerthSetIdle c s
  | .pwStateAnchor c => Sys2Proof.Machine.execPwStateAnchor c s
  | .pwStateDrydock c => Sys2Proof.Machine.execPwStateDrydock c s
  | .drydockPowerOff => Sys2Proof.Machine.execDrydockPowerOff s
  | .anchorExit => Sys2Proof.Machine.execAnchorExit s
  | .wakeTimer => Sys2Proof.Machine.execWakeTimer s
  | .rstMod c => Sys2Proof.Machine.execRstMod c s
  | .rstPart c => Sys2Proof.Machine.execRstPart c s
  | .rstQuay c => Sys2Proof.Machine.execRstQuay c s
  | .aclkUpdate => Sys2Proof.Machine.execAclkUpdate s
  | .powerSample milliVolts milliAmps => Sys2Proof.Machine.execPowerSample milliVolts milliAmps s
  | .mplEvaluation => Sys2Proof.Machine.execMplEvaluation s
  | .droop q => Sys2Proof.Machine.execDroop q s
  | .inputOvercurrent => Sys2Proof.Machine.execInputOvercurrent s
  | .railOvercurrent q => Sys2Proof.Machine.execRailOvercurrent q s
  | .currentCeilingRelease q => Sys2Proof.Machine.execCurrentCeilingRelease q s
  | .thermalStep temps => Sys2Proof.Machine.execThermalStep temps s
  | .thermalTrip die temp => Sys2Proof.Machine.execThermalTrip die temp s
  | .refclkLoss micros => Sys2Proof.Machine.execRefclkLoss micros s
  | .refclkAbsentTimeout => Sys2Proof.Machine.execRefclkAbsentTimeout s
  | .refclkReturn => Sys2Proof.Machine.execRefclkReturn s
  | .berthMoorIdle g => Sys2Proof.Machine.execBerthMoorIdle g s
  | .berthTransitionDone g => Sys2Proof.Machine.execBerthTransitionDone g s
  | .powerUp => Sys2Proof.Machine.execPowerUp s
  | .inputLow milliVolts => Sys2Proof.Machine.execInputLow milliVolts s
  | .inputShutdown => Sys2Proof.Machine.execInputShutdown s
  | .watchReset => Sys2Proof.Machine.execWatchReset s
  | .watchRestartDone => Sys2Proof.Machine.execWatchRestartDone s
  | .telRead c => Sys2Proof.Machine.execTelRead c s
  | .telSnap c => Sys2Proof.Machine.execTelSnap c s
  | .telPush c => Sys2Proof.Machine.execTelPush c s
  | .telemetryPush => Sys2Proof.Machine.execTelemetryPush s
  | .logRead c => Sys2Proof.Machine.execLogRead c s
  | .logFreeze c => Sys2Proof.Machine.execLogFreeze c s
  | .logThaw c => Sys2Proof.Machine.execLogThaw c s
  | .logClear c => Sys2Proof.Machine.execLogClear c s
  | .dbgStepBegin c => Sys2Proof.Machine.execDbgStepBegin c s
  | .dbgStepStep c => Sys2Proof.Machine.execDbgStepStep c s
  | .dbgStepEnd c => Sys2Proof.Machine.execDbgStepEnd c s
  | .tsProbe c => Sys2Proof.Machine.execTsProbe c s
  | .tsProbeSend => Sys2Proof.Machine.execTsProbeSend s
  | .probeArrival l index t1 => Sys2Proof.Machine.execProbeArrival l index t1 s
  | .probeReply l index t2 t3 => Sys2Proof.Machine.execProbeReply l index t2 t3 s
  | .errRead c => Sys2Proof.Machine.execErrRead c s
  | .errorRecord kind unit => Sys2Proof.Machine.execErrorRecord kind unit s
  | .teredoMeasure degr => Sys2Proof.Machine.execTeredoMeasure degr s
  | .rstNLow => Sys2Proof.Machine.execRstNLow s
  | .rstNRelease => Sys2Proof.Machine.execRstNRelease s
  | .wakePin => Sys2Proof.Machine.execWakePin s
  | .flashSvcNLow => Sys2Proof.Machine.execFlashSvcNLow s
  | .flashSvcNRise image => Sys2Proof.Machine.execFlashSvcNRise image s
  | .enOpen b => Sys2Proof.Machine.execEnOpen b s
  | .droopRelease q => Sys2Proof.Machine.execDroopRelease q s
  | .mirrorWrite l addr data => Sys2Proof.Machine.execMirrorWrite l addr data s
  | .twinPairMessage l => Sys2Proof.Machine.execTwinPairMessage l s
  | .inputRecovery => Sys2Proof.Machine.execInputRecovery s
  | .scanAccess tdi => Sys2Proof.Machine.execScanAccess tdi s
  | .unlockFailsHour => Sys2Proof.Machine.execUnlockFailsHour s

end Sys2Proof.Machine
end

