-- ==== Sys2Proof/WellFormed.lean ====
section
/-!
DEFINITION. Well-formed commands: those whose operands a sender can supply (whole descriptors, fields within their
widths). The meaning of a command does not depend on it.
-/

namespace Sys2Proof

/-- A descriptor holds whole 64-byte units (R281). -/
def Cmd.wf (c : Cmd) : Bool := decide (c.words.length % 8 = 7)

/-- A Gangway access names one of the 64 Gangways, and a memory-side ADD is aligned (R113, R394). -/
def GwReq.wf (a : GwReq) : Bool :=
  decide (a.gw < 64) && match a.op with
    | .fetchAdd _ => decide (a.off % 8 = 0)
    | _ => true

/-- A window write carries bytes (R389). -/
def WinWrite.wf (w : WinWrite) : Bool := decide (w.data ≠ [] ∧ w.va < 2 ^ 64 ∧ w.rkey < 2 ^ 32)

/-- Returned credits name a virtual channel and a ten-bit count (R349). -/
def creditsWf (l : List (Nat × Nat)) : Bool := l.all fun p => decide (p.1 < 8 ∧ p.2 < 1024)

/-- A flit's fields lie within their widths (R349). -/
def Flit.wf (f : Flit) : Bool :=
  decide (f.seq < 4096 ∧ f.ack < 4096 ∧ f.vc < 8 ∧ f.data.length ≤ 240) && creditsWf f.credits

/-- A chunk travels in one of the two trees (R368). -/
def Chunk.wf (k : Chunk) : Bool := decide (k.tree < 2 ∧ k.group < 65536 ∧ k.epoch < 2 ^ 32)

/-- A VLAN id has twelve bits (R382). -/
def vlanWf (v : Option Nat) : Bool := v.all fun n => decide (n < 4096)

/-- A command is well formed. -/
def Instr.wf (i : Instr) : Bool :=
  match i with
  | .registerWrite _ len _ => decide (len ∈ [4, 8])
  | .rcRead _ len => decide (len ∈ [4, 8])
  | .boardwalkTraining out => out.all (fun p => decide (p.1 < 18 ∧ p.2 < 32)) && decide out.Nodup
  | .linkRetrain _ _ => true
  | .linkLost _ _ => true
  | .tpass _ w _ => decide (w.length = 4)
  | .tdrain _ w => decide (w.length = 4)
  | .traft _ w => decide (w.length = 4)
  | .raftForm _ => true
  | .tfence _ w => decide (w.length = 4)
  | .swap _ => true
  | .drainRow _ => true
  | .trussGating _ => true
  | .rampStep _ => true
  | .mfBind c => c.wf
  | .mfUnbind c => c.wf
  | .unbindTakesEffect _ _ => true
  | .mfAllot c regions => c.wf && decide regions.Nodup
  | .zeroingComplete _ => true
  | .slicePowerChange _ => true
  | .sliceReady _ => true
  | .gwOpen c => c.wf
  | .gwClose c => c.wf
  | .gwCloseDrain _ => true
  | .gangwayAccess a => a.wf
  | .dmaCopy c => c.wf
  | .dmaFill c => c.wf
  | .mmOp c => c.wf
  | .walk c => c.wf
  | .walkCopy c => c.wf
  | .claimSlotLoad _ _ => true
  | .tileClaim _ => true
  | .stealRequest _ => true
  | .splitReducePhase _ => true
  | .chainSet c => c.wf
  | .vecOp c => c.wf
  | .jyRun c => c.wf
  | .jld _ w _ => decide (w.length = 4)
  | .jst _ w => decide (w.length = 4)
  | .jop _ w => decide (w.length = 4)
  | .jred _ w => decide (w.length = 4)
  | .jmov _ w => decide (w.length = 4)
  | .jbench _ w => decide (w.length = 4)
  | .jctlFence _ w => decide (w.length = 4)
  | .jctlLoop _ w => decide (w.length = 4)
  | .jctlEndloop _ w => decide (w.length = 4)
  | .jctlEnd _ w => decide (w.length = 4)
  | .vec _ _ _ => true
  | .intAdd _ _ _ => true
  | .intSub _ _ _ => true
  | .intMul _ _ _ => true
  | .intAnd _ _ _ => true
  | .intOr _ _ _ => true
  | .intXor _ _ _ => true
  | .intShl _ _ _ => true
  | .intShr _ _ _ => true
  | .intSra _ _ _ => true
  | .intSlt _ _ _ => true
  | .intAddi _ _ _ => true
  | .intLui _ _ _ => true
  | .vld _ _ _ => true
  | .vst _ _ _ => true
  | .xld _ _ _ => true
  | .xst _ _ _ => true
  | .beq _ _ _ => true
  | .bne _ _ _ => true
  | .blt _ _ _ => true
  | .jmp _ _ _ => true
  | .bar _ _ _ => true
  | .ctrlEnd _ _ _ => true
  | .vred _ _ _ => true
  | .vmovx _ _ _ => true
  | .jigLoad c => c.wf
  | .jigSwapOnly c => c.wf
  | .jigShadowFree _ => true
  | .scarfOpSingle c => c.wf
  | .scarfOpChained c => c.wf
  | .scarfOpSoftmax c => c.wf
  | .cratePoolCreate c => c.wf
  | .cratePoolDestroy c => c.wf
  | .crateMapOpen c => c.wf
  | .crateMapClose c => c.wf
  | .apronAppend c => c.wf
  | .apronNextCrate map stream => decide (map < 4096 ∧ stream < 65536)
  | .crateCtlMove c => c.wf
  | .crateCtlDrop c => c.wf
  | .crateCtlPrio c => c.wf
  | .crateCopyComplete map stream _ => decide (map < 4096 ∧ stream < 65536)
  | .slotQuarantineEnd pool _ => decide (pool < 256)
  | .rebuild c => c.wf
  | .rebuildRecipeDone _ _ => true
  | .attnBatch c => c.wf
  | .mergePhaseStart _ => true
  | .convOp c => c.wf
  | .resample c => c.wf
  | .fyStreamOpen c => c.wf
  | .fyStreamReconf c => c.wf
  | .fyStreamClose c => c.wf
  | .fyEncode c => c.wf
  | .fyEncodeFlush c => c.wf
  | .fyDecode c => c.wf
  | .fyDecodeFlush c => c.wf
  | .fySound c => c.wf
  | .pipeTakeFrame _ => true
  | .ringRecord _ => true
  | .egressAck _ => true
  | .swellWord _ _ => true
  | .swellRestartDone _ => true
  | .entropyTimeout _ _ => true
  | .rippleReseed _ => true
  | .rpMix c => c.wf
  | .sample c => c.wf
  | .commandDispatch => true
  | .commandComplete => true
  | .summaryRecord _ => true
  | .nop c => c.wf
  | .ctxFence c => c.wf
  | .sregWrite c => c.wf
  | .sregOp c => c.wf
  | .sregWait c => c.wf
  | .sregWaitTimeout _ => true
  | .sregXfer c => c.wf
  | .ctxOpen c => c.wf
  | .ctxClose c => c.wf
  | .ctxReset c => c.wf
  | .ctxHalt c => c.wf
  | .ctxResume c => c.wf
  | .ctxEvict c => c.wf
  | .ctxAdmit c => c.wf
  | .wqCfg c => c.wf
  | .preemptionPoint _ => true
  | .batchSetJoin c => c.wf
  | .batchSetLeave c => c.wf
  | .batchSetUpdate c => c.wf
  | .step c => c.wf
  | .sramEccError _ _ => true
  | .watchdog => true
  | .doorbell w => w.wf
  | .sluiceRefill _ _ => true
  | .slSet c => c.wf
  | .mtReduce c => c.wf
  | .mtMapout c => c.wf
  | .mtTrim c => c.wf
  | .refresh tier channel => decide (channel < if tier = 0 then 640 else 96)
  | .calibration tier channel => decide (channel < if tier = 0 then 640 else 96)
  | .readLevelTracking _ => true
  | .scrubRead _ _ => true
  | .patrolRead unit _ => decide (unit < 2 ^ 30)
  | .scrubLate _ _ => true
  | .wearLevelling _ => true
  | .garbageCollection _ _ _ => true
  | .lineDataFlit _ f => f.wf
  | .lineAckFlit _ ack credits => decide (ack < 4096) && creditsWf credits
  | .lineNak _ expected => decide (expected < 4096)
  | .lineReplayTimeout _ => true
  | .lineAckTimer _ => true
  | .lineRetrain _ => true
  | .lineTrainingDone _ _ _ _ => true
  | .lnCtlRetrain c => c.wf
  | .lnCtlPin c => c.wf
  | .lnCtlUnpin c => c.wf
  | .lnCtlDisable c => c.wf
  | .clGroup c => c.wf
  | .clGroupDissolve c => c.wf
  | .join peer group epoch _ => decide (peer < 65536 ∧ group < 65536 ∧ epoch < 2 ^ 32)
  | .brokenReport peer group epoch => decide (peer < 65536 ∧ group < 65536 ∧ epoch < 2 ^ 32)
  | .clRegister c => c.wf
  | .clUnregister c => c.wf
  | .clRun c => c.wf
  | .ready peer group epoch _ _ _ => decide (peer < 65536 ∧ group < 65536 ∧ epoch < 2 ^ 32)
  | .collectiveChunk peer k => decide (peer < 65536) && k.wf
  | .freePosition peer group epoch _ tree _ => decide (peer < 65536 ∧ group < 65536 ∧ epoch < 2 ^ 32 ∧ tree < 2)
  | .twMirrorSend c _ => c.wf
  | .twMirrorAccept c => c.wf
  | .mirrorCopy => true
  | .twSync c => c.wf
  | .twCtlPair c => c.wf
  | .twCtlUnpair c => c.wf
  | .twCtlDetach c => c.wf
  | .handover _ areas => decide (areas.length ≤ 64) && areas.all fun p => decide (p.2 < 65536)
  | .portCfg c => c.wf
  | .qpCreate c => c.wf
  | .qpCtlDestroy c => c.wf
  | .qpCtlRestart c => c.wf
  | .qpCtlCap c => c.wf
  | .cqBind c => c.wf
  | .wqEntryWrite w => w.wf
  | .ciWrite w => w.wf
  | .piWrite _ => true
  | .rdmaWrite _ va rkey data _ => decide (va < 2 ^ 64 ∧ rkey < 2 ^ 32 ∧ data.length < 2 ^ 32)
  | .rdmaRead _ va rkey len _ => decide (va < 2 ^ 64 ∧ rkey < 2 ^ 32 ∧ len < 2 ^ 32)
  | .fetchAndAdd _ va rkey _ _ => decide (va < 2 ^ 64 ∧ rkey < 2 ^ 32 ∧ va % 8 = 0)
  | .unsupportedRequest _ => true
  | .roceAck _ psn => decide (psn < 2 ^ 24)
  | .roceNak _ psn syndrome => decide (psn < 2 ^ 24 ∧ syndrome < 256)
  | .roceAckTimeout _ => true
  | .cnp _ => true
  | .alphaDecay _ => true
  | .rateIncrease _ => true
  | .pauseFrame _ _ quanta => decide (quanta < 65536)
  | .pfcStorm _ => true
  | .arpRequest _ vlan ip => vlanWf vlan && decide (ip < 2 ^ 32)
  | .neighbourSolicitation _ vlan ip => vlanWf vlan && decide (ip < 2 ^ 128)
  | .icmpEcho _ vlan ip _ => vlanWf vlan && decide (ip < 2 ^ 128)
  | .otherFrame _ vlan => vlanWf vlan
  | .ethernetLinkChange _ _ => true
  | .ptpEventMessage _ domain _ => decide (domain < 256)
  | .ppsInEdge => true
  | .ppsLost => true
  | .frStage c => c.wf
  | .frLive c => c.wf
  | .frRead c => c.wf
  | .scAttest c => c.wf
  | .scCommit c => c.wf
  | .scOwner c => c.wf
  | .scDebugChallenge c => c.wf
  | .scDebugUnlock c => c.wf
  | .scDebugLock c => c.wf
  | .tokenExpiry => true
  | .challengeVoid => true
  | .firmwareLoad => true
  | .framingApply => true
  | .tierTraining failedH failedL => failedH.all (fun c => decide (c < 640)) && failedL.all fun c => decide (c < 96)
  | .moduleRun => true
  | .pwLimit c => c.wf
  | .pwBerthWake c => c.wf
  | .pwBerthMoor c => c.wf
  | .pwBerthLayup c => c.wf
  | .pwBerthSetIdle c => c.wf
  | .pwStateAnchor c => c.wf
  | .pwStateDrydock c => c.wf
  | .drydockPowerOff => true
  | .anchorExit => true
  | .wakeTimer => true
  | .rstMod c => c.wf
  | .rstPart c => c.wf
  | .rstQuay c => c.wf
  | .aclkUpdate => true
  | .powerSample _ _ => true
  | .mplEvaluation => true
  | .droop _ => true
  | .inputOvercurrent => true
  | .railOvercurrent _ => true
  | .currentCeilingRelease _ => true
  | .thermalStep temps => decide (temps.length = 12)
  | .thermalTrip _ _ => true
  | .refclkLoss _ => true
  | .refclkAbsentTimeout => true
  | .refclkReturn => true
  | .berthMoorIdle _ => true
  | .berthTransitionDone _ => true
  | .powerUp => true
  | .inputLow _ => true
  | .inputShutdown => true
  | .watchReset => true
  | .watchRestartDone => true
  | .telRead c => c.wf
  | .telSnap c => c.wf
  | .telPush c => c.wf
  | .telemetryPush => true
  | .logRead c => c.wf
  | .logFreeze c => c.wf
  | .logThaw c => c.wf
  | .logClear c => c.wf
  | .dbgStepBegin c => c.wf
  | .dbgStepStep c => c.wf
  | .dbgStepEnd c => c.wf
  | .tsProbe c => c.wf
  | .tsProbeSend => true
  | .probeArrival _ _ _ => true
  | .probeReply _ _ _ _ => true
  | .errRead c => c.wf
  | .errorRecord kind unit => decide (kind ≤ 13 ∧ unit < 65536)
  | .teredoMeasure degr => degr.all (fun p => decide (p.1 < 200)) && decide (degr.map (·.1)).Nodup
  | .rstNLow => true
  | .rstNRelease => true
  | .wakePin => true
  | .flashSvcNLow => true
  | .flashSvcNRise image => image.all fun p => decide (p.1 + p.2.length ≤ 0x4000000)
  | .enOpen _ => true
  | .droopRelease _ => true
  | .mirrorWrite _ addr _ => decide (addr < 2 ^ 48)
  | .twinPairMessage _ => true
  | .inputRecovery => true
  | .scanAccess _ => true
  | .unlockFailsHour => true

end Sys2Proof
end

