-- ==== Sys2Proof/Safety.lean ====
section
/-!
DEFINITION. The terms claims are stated in: a command dispatched and not begun, how a command ends, what an operation leaves
alone.
-/

namespace Sys2Proof

/-- The block's queue has drained and nothing is in flight or awaiting its completion. -/
def Quiet (s : Machine.State) : Prop :=
  s.pending = [] ∧ s.body.hm.flights = [] ∧ s.body.hm.ended = []

end Sys2Proof

namespace Sys2Proof.Machine

/-- A command has been dispatched as the flight `fl` and has not begun, and nothing of R440, R450 holds it back: its row
runs it (log entry 62). -/
def Dispatched (b : Body) (c : Cmd) (opc : Nat) (fl : Flight) : Prop :=
  b.hm.flights.find? (fun x => decide (x.cmd = c ∧ x.opc = opc) && !x.started) = some fl ∧
    b.lowHold c = false ∧ b.stateHold fl = false

/-- A command has left the commands in flight and awaits its completion record with a status and a result (R289). -/
def EndsWith (b t : Body) (fl : Flight) (status result : Nat) : Prop :=
  (∃ e : Ended, t.hm.ended = b.hm.ended ++ [e] ∧ e.fl.uid = fl.uid ∧ e.fl.cmd = fl.cmd ∧ e.status = status ∧
    e.result = result) ∧ ∀ x ∈ t.hm.flights, x.uid ≠ fl.uid

/-- A command stays in flight, and no other command's end is added. -/
def StaysInFlight (b t : Body) (fl : Flight) : Prop :=
  t.hm.ended = b.hm.ended ∧ ∃ x ∈ t.hm.flights, x.uid = fl.uid ∧ x.started = true

/-- Every byte of memory reads as before. -/
def SameBytes (b t : Body) : Prop := ∀ a, t.byte a = b.byte a

/-- Every byte outside `n` bytes from `a` reads as before. -/
def SameBytesBut (b t : Body) (a n : Nat) : Prop := ∀ x, x < a ∨ a + n ≤ x → t.byte x = b.byte x

/-- Registers in which every command's end or clamps may be noted: the freeze of the Logbooks, lost error records, the clamp
tally, a context's counters, SHADOW_BUSY (R182, R426, R459, R464, R475). -/
def Reg.notes (r : Reg) : Prop :=
  r.addr = Reg.wtLogFreeze.addr ∨ r.addr = Reg.hmErrStat.addr ∨ r.addr = Reg.hmClampTally.addr ∨
    (∃ k i, r.addr = (Reg.hmCtxCnt k i).addr) ∨ ∃ g, r.addr = (Reg.brLatheStat g).addr

/-- Every register reads as before but for those that note ends and clamps, and those at the addresses named. -/
def SameRegsBut (b t : Body) (l : List Nat) : Prop := ∀ r : Reg, ¬ r.notes → r.addr ∉ l → t.reg r = b.reg r

/-- No uncorrectable sector and no mirror range stands, so a store writes the bytes it is given and no others (R334, R373). -/
def PlainMemory (b : Body) : Prop := b.tiers.badSectors = [] ∧ b.ln.twin.mirrors = []

/-- The instruction of Dowel `d` of Berth `g` that `w` spells runs there for `fl`, and is not the program's last. -/
def DowelIssues (b : Body) (g d : Nat) (w : Word) (cls : Nat) (op : Option Nat) (fl : Flight) : Prop :=
  b.coreRun g d w cls op = some fl ∧ (b.dowel g d).pc + 8 < progBytes fl

/-- Only Dowel `d` of Berth `g` is not as it was. -/
def OnlyDowel (b t : Body) (g d : Nat) : Prop :=
  (∀ e, e ≠ d → t.dowel g e = b.dowel g e) ∧ ∀ h, h ≠ g → t.berth h = b.berth h

/-- The tile-dialect instruction of opcode `opc` at the program counter of Berth `g` runs there for `fl`, and is not the
program's last. -/
def TileIssues (b : Body) (g : Nat) (w : List Word) (opc : Nat) (fl : Flight) : Prop :=
  b.tileRun g w opc = some fl ∧ (b.berth g).pc + 32 < progBytes fl

/-- A counter field has counted `n` more, stopping at its maximum (R426). -/
def Counted (b t : Body) (r : Reg) (f : Fld) (n : Nat) : Prop := t.getF r f = min (b.getF r f + n) (2 ^ f.width - 1)

/-- The command answers a next state, the fuses as before, whose body is as described. -/
def Gives (i : Instr) (s : State) (p : Body → Prop) : Prop := ∃ t, exec i s = .next t ∧ t.fuse = s.fuse ∧ p t.body

/-- Fuses as a module may hold them: one of the four key slots is unrevoked, each anti-rollback counter is a thermometer of 64 bits,
and a stack's map-out has 32 fuses (R409, R410, R425, R336). -/
def FusesLegal (f : Fuses) : Prop := f.revoked < 15 ∧ f.fwSvn ≤ 64 ∧ f.frSvn ≤ 64 ∧ ∀ k, SMap.get f.mapout 0 k < 2 ^ 32

/-- A command ends with a status and a result; memory is as before, and of the registers only those that note ends and those
at the addresses named may change. -/
def OnlyEnds (b t : Body) (fl : Flight) (status result : Nat) (l : List Nat) : Prop :=
  EndsWith b t fl status result ∧ SameBytes b t ∧ SameRegsBut b t l

end Sys2Proof.Machine
end

