-- ==== Sys2Proof/Certificates/Slice0/Obligations.lean ====
section
/-!
DEFINITION. What the provers are to show: statements about the commands of the block, in the order of the spec's chapters.
-/

open Sys2Proof Sys2Proof.Machine

/-- A step runs the command at the front of the queue. With a command c at the front of the queue and r behind it, a step is exec of
c at the state whose queue is r. (95_what_each_step_holds.md) -/
def Obligations.StepRunsFrontCommand : Prop :=
  ∀ (s : State) (c : Instr) (r : List Instr), s.pending = c :: r → step s = exec c { s with pending := r }

/-- A step takes only the front of the queue, and on an empty queue one nanosecond passes. Whatever the command and the state, a
next state of exec has the queue it was given, so a step takes the front of the queue and nothing else. With no command waiting and
the module powered, a step adds one to the timestamp counter and changes nothing else; without power it changes nothing. That a step
on an empty queue is a tick is the model's choice (log entry 2). (R431) -/
def Obligations.QueueOnlyLosesItsFront : Prop :=
  (∀ (i : Instr) (s t : State), exec i s = .next t → t.pending = s.pending) ∧
  (∀ s t : State, step s = .next t → t.pending = s.pending.tail) ∧
  ∀ s : State, s.pending = [] →
    (s.body.boot.phase ≠ .off → step s = .next { s with body := { s.body with ts := s.body.ts + 1 } }) ∧
    (s.body.boot.phase = .off → step s = .next s)

/-- Every command completes but a scan access with SCAN in force. exec of a command never faults. It answers a next state for every
command in every state, but for SCAN_ACCESS while the SCAN level is in force, which is refused because the spec does not say what
the access does; while that level is not in force SCAN_ACCESS changes nothing. (R423, R486) -/
def Obligations.OnlyScanStops : Prop :=
  (∀ (i : Instr) (s : State), (∃ t, exec i s = .next t) ∨ (∃ tdi, i = .scanAccess tdi) ∧ s.body.level 2 = true) ∧
  ∀ tdi (s : State), (s.body.level 2 = true → exec (.scanAccess tdi) s = .refused .scanUnspecified) ∧
    (s.body.level 2 = false → exec (.scanAccess tdi) s = .next s)

/-- Fuses only blow, and stay legal: no step unblows one. In every step that gives a next state, no revocation is undone, no blown
owner hash changes, neither anti-rollback counter falls, and no map-out fuse is cleared. Fuses that are legal stay so: of the four
key slots one is unrevoked, each counter reads at most 64, and a stack's map-out has one fuse for each of 32 channels. (R336, R409,
R410, R425) -/
def Obligations.FusesOnlyBlow : Prop :=
  ∀ s t : State, step s = .next t → (FusesLegal s.fuse → FusesLegal t.fuse) ∧
    (∀ k, s.fuse.revoked.testBit k = true → t.fuse.revoked.testBit k = true) ∧
    (∀ h, s.fuse.owner = some h → t.fuse.owner = some h) ∧
    s.fuse.fwSvn ≤ t.fuse.fwSvn ∧ s.fuse.frSvn ≤ t.fuse.frSvn ∧
    ∀ k c, (SMap.get s.fuse.mapout 0 k).testBit c = true → (SMap.get t.fuse.mapout 0 k).testBit c = true

/-- A register write acts field by field by the Access kind. REGISTER_WRITE of 8 bytes at a register's address (HM_WQ_DB apart,
whose write is a doorbell): every RW field takes the written value after clamping, every W1C field loses the bits written 1, every
RO, RC and WO field keeps its value; no other register changes but the clamp tally, and no byte of memory. (R8, R313, R426) -/
def Obligations.RegisterWriteByAccess : Prop :=
  ∀ (s : State) (addr : Nat) (v : Word) (r : Reg), regAt addr 8 = some r →
    (∀ n, r = .hmWqDb n → exec (.registerWrite addr 8 v) s = .next { s with body := s.body.ring n (v.fld 12 0) 0xFFFF }) ∧
    ((∀ n, r ≠ .hmWqDb n) → ∃ t, exec (.registerWrite addr 8 v) s = .next t ∧ t.fuse = s.fuse ∧ SameBytes s.body t.body ∧
      (∀ q : Reg, q.addr ≠ addr → q.addr ≠ Reg.hmClampTally.addr → t.body.reg q = s.body.reg q) ∧
      ∀ f ∈ r.fields, t.body.getF r f = match f.acc with
        | .rw => s.body.clampField r f v % 2 ^ f.width
        | .w1c => s.body.getF r f &&& (2 ^ f.width - 1 - v.fld f.hi f.lo)
        | _ => s.body.getF r f)

/-- A register read returns the stored value and clears RC fields. A read of 8 bytes at a register's address answers a word whose WO
fields are 0 and whose other fields are the stored values; then every RC field holds its Reset value, every other field keeps its
value, and no other register and no byte of memory changes. (R8) -/
def Obligations.RegisterReadByAccess : Prop :=
  ∀ (s : State) (addr : Nat) (r : Reg), regAt addr 8 = some r →
    ∃ t w, exec (.rcRead addr 8) s = .next t ∧ w < 2 ^ 64 ∧ t.fuse = s.fuse ∧ SameBytes s.body t.body ∧
      t.body.out = s.body.out ++ [{ port := .local, kind := .regData, nums := [addr, w] }] ∧
      (∀ f ∈ r.fields, bits w f.hi f.lo = if f.acc = .wo then 0 else s.body.getF r f) ∧
      (∀ f ∈ r.fields, t.body.getF r f =
        if f.acc = .rc then f.resetVal s.body.framing r % 2 ^ f.width else s.body.getF r f) ∧
      ∀ q : Reg, q.addr ≠ addr → t.body.reg q = s.body.reg q

/-- Each register is a word at its own aligned address, and any other register access faults HOLD_RANGE. Every register of R14 is
one 64-bit word whose address is a multiple of 8 between 0x7F00_0000_0000 and 0x7F0F_FFFF_FFFF and names that register and no other;
its fields lie in that word, and no two of them overlap. A register write or read that is not exactly 8 bytes, not 8-byte aligned,
or at an address that names no register, answers HOLD_RANGE (0x11) to its requester and raises an error record, and changes no
register but the count of lost error records and the freeze of the Logbooks, and no byte of memory. (R13) -/
def Obligations.RegistersResolveAtTheirAddresses : Prop :=
  (∀ r : Reg, r.ok = true → Reg.ofAddr r.addr = some r ∧ r.addr % 8 = 0 ∧ 0x7F0000000000 ≤ r.addr ∧ r.addr ≤ 0x7F0FFFFFFFFF ∧
    (∀ f ∈ r.fields, f.lo ≤ f.hi ∧ f.hi < 64) ∧ r.fields.Pairwise fun f g => f.hi < g.lo ∨ g.hi < f.lo) ∧
  ∀ (s : State) (addr len : Nat) (v : Word), (len ≠ 8 ∨ addr % 8 ≠ 0 ∨ Reg.ofAddr addr = none) →
    ∃ t, exec (.registerWrite addr len v) s = .next t ∧ exec (.rcRead addr len) s = .next t ∧ t.fuse = s.fuse ∧
      t.body.out = s.body.out ++ [{ port := .local, kind := .status, nums := [0x11, addr] }] ∧
      SameBytes s.body t.body ∧ SameRegsBut s.body t.body []

/-- The boot goes through its stages in order. Each boot event acts in the one phase that R413 gives it: FIRMWARE_LOAD after the
release loads a firmware or holds HE, FRAMING_APPLY then applies a framing, BOARDWALK_TRAINING leaves out modules and cuts off
Quays, TIER_TRAINING fixes the active sets, and MODULE_RUN enters RUN with nothing left powering on or being zeroed; in any other
phase each leaves the module as it is. (R411, R412, R413, R29) -/
def Obligations.BootRunsItsStages : Prop :=
  ∀ s : State,
    (s.body.boot.phase = .released → s.body.boot.heHeld = false → ∃ t, exec .firmwareLoad s = .next t ∧
      (t.body.boot.phase = .firmware ∧ t.body.boot.heHeld = false ∨ t.body.boot.phase = .released ∧ t.body.boot.heHeld = true)) ∧
    (s.body.boot.phase = .firmware → ∃ t, exec .framingApply s = .next t ∧ t.body.boot.phase = .framed) ∧
    (∀ out, s.body.boot.phase = .framed → ∃ t, exec (.boardwalkTraining out) s = .next t ∧ t.body.boot.phase = .boardwalk ∧
      t.body.bw.out = ((out.filter fun p => decide (p.1 < 18) && decide (p.2 < linkModules p.1)).dedup) ∧
      t.body.bw.absent = cutOff t.body.bw.out) ∧
    (∀ h l, s.body.boot.phase = .boardwalk → ∃ t, exec (.tierTraining h l) s = .next t ∧ t.body.boot.phase = .trained ∧
      t.body.tiers.trainedOnce = true ∧ t.body.tiers.lOut = t.body.tiers.prevOutL) ∧
    (s.body.boot.phase = .trained → ∃ t, exec .moduleRun s = .next t ∧ t.body.boot.phase = .run ∧
      t.body.st.powering = [] ∧ t.body.st.zeroing = []) ∧
    (s.body.boot.phase = .run → exec .firmwareLoad s = .next s ∧ exec .framingApply s = .next s ∧
      (∀ out, exec (.boardwalkTraining out) s = .next s) ∧ (∀ h l, exec (.tierTraining h l) s = .next s) ∧
      exec .moduleRun s = .next s)

/-- A link that fails to retrain halts every resident context. A retraining that fails is noted for its link and one that succeeds
clears the note, for no other link. The loss of a link so noted marks that a MOD reset is required and leaves every resident
ordinary context halted; the loss of a link not so noted changes nothing. (R29) -/
def Obligations.LostLinkHaltsContexts : Prop :=
  ∀ (s : State) (link : Fin 18),
    (∀ ok, ∃ t, exec (.linkRetrain link ok) s = .next t ∧ (link.val ∈ t.body.bw.retried ↔ ok = false) ∧
      (∀ l, l ≠ link.val → (l ∈ t.body.bw.retried ↔ l ∈ s.body.bw.retried)) ∧
      t.body.regs = s.body.regs ∧ t.body.hm = s.body.hm ∧ t.fuse = s.fuse ∧ SameBytes s.body t.body) ∧
    (∀ retries, link.val ∉ s.body.bw.retried → exec (.linkLost link retries) s = .next s) ∧
    (∀ retries, link.val ∈ s.body.bw.retried → ∃ t, exec (.linkLost link retries) s = .next t ∧
      t.body.bw.modRequired = true ∧ t.fuse = s.fuse ∧
      ∀ k, k < 64 → s.body.getF (.hmCtxStat k) Fld.hmCtxStatState ≠ 3 →
        t.body.getF (.hmCtxStat k) Fld.hmCtxStatState = 1)

/-- A Truss ramps one column group a step and is gated when idle. RAMP_STEP of a Truss that is not gated and is not ramping down
adds one to RAMP_STEP below the full ramp and changes nothing at it; of one ramping down it subtracts one, and gates the Truss at 0
or 1. TRUSS_GATING of an idle Truss that is not gated starts a ramp-down where RAMP_DOWN is 1 and a column group is enabled, and
gates it with RAMP_STEP 0 otherwise; of a Truss busy or gated it changes nothing. No other register, no byte and no fuse changes.
(R82, R84) -/
def Obligations.TrussRampAndGating : Prop :=
  ∀ (s : State) (g : Fin 200),
    (∃ t, exec (.rampStep g) s = .next t ∧ t.fuse = s.fuse ∧ SameBytes s.body t.body ∧
      SameRegsBut s.body t.body [(Reg.brTrussStat g).addr] ∧
      ((s.body.berth g).down = false → s.body.getF (.brTrussStat g) Fld.brTrussStatGated = 0 →
        t.body.rampStep g = if s.body.rampStep g < s.body.rampSteps g then (s.body.rampStep g + 1) % 32 else s.body.rampStep g) ∧
      ((s.body.berth g).down = true → t.body.rampStep g = s.body.rampStep g - 1 ∧
        (s.body.rampStep g ≤ 1 → t.body.getF (.brTrussStat g) Fld.brTrussStatGated = 1 ∧ (t.body.berth g).down = false) ∧
        (1 < s.body.rampStep g → t.body.getF (.brTrussStat g) Fld.brTrussStatGated =
          s.body.getF (.brTrussStat g) Fld.brTrussStatGated ∧ (t.body.berth g).down = true))) ∧
    (∃ t, exec (.trussGating g) s = .next t ∧ t.fuse = s.fuse ∧ SameBytes s.body t.body ∧
      SameRegsBut s.body t.body [(Reg.brTrussStat g).addr] ∧
      (s.body.trussIdle g = false ∨ s.body.getF (.brTrussStat g) Fld.brTrussStatGated ≠ 0 → t = s) ∧
      (s.body.trussIdle g = true → s.body.getF (.brTrussStat g) Fld.brTrussStatGated = 0 →
        if s.body.getF (.brRampCtl g) Fld.brRampCtlRampDown ≠ 0 ∧ 0 < s.body.rampStep g then
          (t.body.berth g).down = true ∧ t.body.regs = s.body.regs
        else t.body.getF (.brTrussStat g) Fld.brTrussStatGated = 1 ∧ t.body.rampStep g = 0))

/-- The tile-dialect Truss instructions and the drain of a Truss. For the run whose program counter stands at the words given:
TFENCE with no drain left in its Berths goes on at pc + 32, and otherwise waits there; a TPASS or TDRAIN that may not issue yet
starts the ramps, and a TPASS that may is run by the rules of R63-R73; a TRAFT of a free Berth asking for a 1 × 1 Raft goes on, and
one for a larger rectangle waits for RAFT_FORM, which forms it when its Berths are ready. SWAP moves a tile due into a free shadow
bank and stalls on a full one; DRAIN_ROW of a shadow tile reads its next row out, and before the last row goes to the following one.
(R60, R61, R62, R63, R65, R66, R75) -/
def Obligations.TileInstructionsRun : Prop :=
  ∀ (s : State) (g : Fin 200),
    (∀ w fl, s.body.tileRun g w 0x23 = some fl → ((s.body.markTruss g).passBerths g).all (s.body.markTruss g).trussIdle = true →
      exec (.tfence g w) s = .next { s with body := (s.body.markTruss g).goTo g fl ((s.body.berth g).pc + 32) }) ∧
    (∀ w fl, s.body.tileRun g w 0x20 = some fl → (s.body.markTruss g).passReady g = true → (w.getD 0 0).fld 53 52 < 2 →
      ∀ k, exec (.tpass g w k) s = .next { s with body := (s.body.markTruss g).runPass fl g w k }) ∧
    (∀ w fl, s.body.tileRun g w 0x21 = some fl → (s.body.markTruss g).passReady g = false → (s.body.berth g).lead = none →
      exec (.tdrain g w) s = .next { s with body := (s.body.markTruss g).rampAll ((s.body.markTruss g).passBerths g) }) ∧
    (∀ w fl, s.body.tileRun g w 0x22 = some fl → (s.body.berth g).lead = none → (s.body.berth g).raftWait = none →
      (s.body.leads g) = false → (w.getD 0 0).bit 55 = true →
      exec (.traft g w) s = .next { s with body := (s.body.markTruss g).goTo g fl ((s.body.berth g).pc + 32) }) ∧
    (∀ r c uid fl, (s.body.berth g).raftWait = some (r, c) → (s.body.berth g).run = some uid → s.body.flight uid = some fl →
      r ≠ 0 → s.body.raftReady (rectangle g r c) = true → exec (.raftForm g) s =
        .next { s with body := ((s.body.raftNow g r c).updBerth g fun y => { y with raftWait := none }).nextInstr g fl }) ∧
    (∀ d, (s.body.berth g).due = some d → (s.body.berth g).shadow = none → ∃ t, exec (.swap g) s = .next t ∧
      (t.body.berth g).due = none ∧ (t.body.berth g).shadow = some d ∧ SameBytes s.body t.body ∧ t.body.hm = s.body.hm) ∧
    (∀ d e, (s.body.berth g).due = some d → (s.body.berth g).shadow = some e →
      exec (.swap g) s = .next { s with body := s.body.bump (.brTrussStall g) Fld.brTrussStallShadow 1 }) ∧
    (∀ d fl, (s.body.berth g).shadow = some d → s.body.flight d.uid = some fl → d.next < 255 → ∃ t, exec (.drainRow g) s = .next t ∧
      t = { s with body := s.body.drainRow g d fl } ∧
      ∃ e, (t.body.berth g).shadow = some e ∧ e.next = d.next + 1 ∧ e.vals = d.vals)

/-- MF_BIND binds the entry and returns a handle that resolves to it. A dispatched MF_BIND whose entry may be bound, at an index
that is invalid and awaits no unbind, ends DONE with the handle index·2^16 + GEN; that entry holds the clamped fields and its GEN as
before, the handle resolves to it where GEN is a number 1 to 65,535, and no other entry, no byte, no fuse and no register but those
that note ends and clamps changes. One that may not be bound ends with HOLD_RANGE (0x11) and changes no entry. (R107, R111, R112) -/
def Obligations.BindMakesHandle : Prop :=
  ∀ (s : State) (c : Cmd) (fl : Flight), Dispatched s.body c 0x38 fl →
    (∀ idx, s.body.bindOk fl.slot (c.f 2 53 52) (bindEntry c).1 = true → s.body.bindIndex fl.slot c = some idx →
      (s.body.entry fl.slot idx).valid = false → s.body.unbinding fl.slot idx = false →
      ∃ t, exec (.mfBind c) s = .next t ∧ t.fuse = s.fuse ∧ SameBytes s.body t.body ∧ SameRegsBut s.body t.body [] ∧
        EndsWith s.body t.body fl 0 (idx * 65536 + (s.body.entry fl.slot idx).gen) ∧
        t.body.entry fl.slot idx = { (bindEntry c).1 with gen := (s.body.entry fl.slot idx).gen } ∧
        (∀ n, n ≠ fl.slot * 1024 + idx → SMap.get t.body.st.manifest {} n = SMap.get s.body.st.manifest {} n) ∧
        (0 < (s.body.entry fl.slot idx).gen → (s.body.entry fl.slot idx).gen < 65536 →
          t.body.resolve fl.slot (idx * 65536 + (s.body.entry fl.slot idx).gen) = some (t.body.entry fl.slot idx))) ∧
    (s.body.bindOk fl.slot (c.f 2 53 52) (bindEntry c).1 = false →
      ∃ t, exec (.mfBind c) s = .next t ∧ t.fuse = s.fuse ∧ SameBytes s.body t.body ∧ SameRegsBut s.body t.body [] ∧
        EndsWith s.body t.body fl 0x11 0 ∧ t.body.st = s.body.st)

/-- An unbind invalidates its entry once nothing uses it, and its handles stop resolving. MF_UNBIND of a handle that does not
resolve ends with HANDLE_INVALID (0x12) and leaves the Manifest as it is; of one that resolves to an entry that nothing uses and on
which no Gangway stands, it invalidates the entry at once, whose GEN becomes the next and which then no handle resolves, and ends
DONE. While a command that began with the entry runs, UNBIND_TAKES_EFFECT changes nothing; when none does and an unbind waits first,
it takes effect so. (R111, R112) -/
def Obligations.UnbindTakesEffect : Prop :=
  ∀ (s : State),
    (∀ c fl, Dispatched s.body c 0x39 fl → s.body.resolve fl.slot (c.h 1) = none →
      ∃ t, exec (.mfUnbind c) s = .next t ∧ EndsWith s.body t.body fl 0x12 0 ∧ t.body.st = s.body.st ∧ t.fuse = s.fuse ∧
        SameBytes s.body t.body ∧ SameRegsBut s.body t.body []) ∧
    (∀ c fl e, Dispatched s.body c 0x39 fl → s.body.resolve fl.slot (c.h 1) = some e → s.body.st.gws = [] →
      s.body.st.ents = [] → s.body.entryBusy fl.slot (c.h 1 / 65536) = false → fl.handles = [] →
      ∃ t, exec (.mfUnbind c) s = .next t ∧ EndsWith s.body t.body fl 0 0 ∧ t.fuse = s.fuse ∧
        SameBytes s.body t.body ∧ SameRegsBut s.body t.body [] ∧
        t.body.entry fl.slot (c.h 1 / 65536) = { gen := nextGen e.gen } ∧
        (∀ h : Nat, h / 65536 = c.h 1 / 65536 → t.body.resolve fl.slot h = none) ∧
        (∀ n, n ≠ fl.slot * 1024 + c.h 1 / 65536 → SMap.get t.body.st.manifest {} n = SMap.get s.body.st.manifest {} n)) ∧
    (∀ (slot : Fin 65) (idx : Fin 1024), s.body.entryBusy slot idx = true →
      exec (.unbindTakesEffect slot idx) s = .next s) ∧
    (∀ (slot : Fin 65) (idx : Fin 1024) fl, s.body.entryBusy slot idx = false →
      s.body.st.ents = [(fl, idx.val)] → fl.slot = slot → fl.opc = 0x39 → (s.body.entry slot idx).valid = true →
      ∃ t, exec (.unbindTakesEffect slot idx) s = .next t ∧ EndsWith s.body t.body fl 0 0 ∧ t.fuse = s.fuse ∧
        SameBytes s.body t.body ∧ SameRegsBut s.body t.body [] ∧ t.body.st.ents = [] ∧
        t.body.entry slot idx = { gen := nextGen (s.body.entry slot idx).gen } ∧
        ∀ h : Nat, h / 65536 = idx.val → t.body.resolve slot h = none)

/-- Allotment moves regions between contexts, and a region that changes hands reads zero after zeroing. MF_ALLOT of a region outside
the context's partition or of another context's ends with HOLD_RANGE and moves nothing. Otherwise, when no running command uses a
region it loses and none it gains is being zeroed, exactly the regions named are the context's afterwards, and another slot's
allotment is as before. When a region's zeroing completes that is powered and for which no command waits alone, every byte of it
reads 0, no other byte changes, and it is no longer being zeroed. A power change of a region in use changes nothing; a slice or
segment that powers on becomes ready with undefined contents, and every byte of another region reads as before. (R102, R103, R105)
-/
def Obligations.AllotmentAndZeroing : Prop :=
  ∀ (s : State),
    (∀ c (rs : List (Fin 1780)) fl (r : Fin 1780), Dispatched s.body c 0x3A fl → r ∈ rs →
      (regionQuay r ∉ s.body.quaysOfSlot fl.slot ∨ (s.body.allotOf r ≠ 0 ∧ s.body.allotOf r ≠ fl.slot + 1)) →
      ∃ t, exec (.mfAllot c rs) s = .next t ∧ EndsWith s.body t.body fl 0x11 0 ∧ t.body.st = s.body.st ∧ SameBytes s.body t.body) ∧
    (∀ c (rs : List (Fin 1780)) fl, Dispatched s.body c 0x3A fl →
      (∀ r ∈ rs, regionQuay r ∈ s.body.quaysOfSlot fl.slot ∧ (s.body.allotOf r = 0 ∨ s.body.allotOf r = fl.slot + 1)) →
      (∀ r : Nat, s.body.inUse r = false) → s.body.st.zeroing = [] → SMap.rising none s.body.st.allot = true →
      ∃ t, exec (.mfAllot c rs) s = .next t ∧ t.fuse = s.fuse ∧
        (∀ r : Fin 1780, t.body.allotOf r = fl.slot + 1 ↔ r ∈ rs) ∧
        (∀ (r : Fin 1780) (k : Nat), k ≠ fl.slot → (t.body.allotOf r = k + 1 ↔ s.body.allotOf r = k + 1))) ∧
    (∀ region : Fin 1780, region.val ∈ s.body.st.zeroing → s.body.regionReady region = true →
      (∀ p ∈ s.body.st.zeroWait, ∃ x ∈ p.2, x ≠ region.val) →
      ∃ t, exec (.zeroingComplete region) s = .next t ∧ t.fuse = s.fuse ∧ t.body.regs = s.body.regs ∧ t.body.hm = s.body.hm ∧
        region.val ∉ t.body.st.zeroing ∧ (∀ a, regionOf a = region.val → t.body.byte a = 0) ∧
        (∀ a, regionOf a ≠ region.val → t.body.byte a = s.body.byte a)) ∧
    (∀ region : Fin 1780, s.body.inUse region = true → exec (.slicePowerChange region) s = .next s) ∧
    (∀ region : Fin 1780, s.body.inUse region = false → region.val ∈ s.body.st.powerPend →
      exec (.slicePowerChange region) s = .next { s with body := s.body.powerApply region }) ∧
    (∀ region : Fin 1780, region.val ∈ s.body.st.powering → region.val ∉ s.body.st.zeroing →
      ∃ t, exec (.sliceReady region) s = .next t ∧ t.body.regionReady region = true ∧ region.val ∉ t.body.st.powering ∧
        (∀ a, regionOf a = region.val → t.body.byte a = Config.undefByte (s.body.epoch + 1) a) ∧
        (∀ a, regionOf a ≠ region.val → t.body.byte a = s.body.byte a)) ∧
    (∀ region : Fin 1780, region.val ∉ s.body.st.powering → exec (.sliceReady region) s = .next s)

/-- GW_OPEN opens a Gangway under its key, GW_CLOSE shuts it, and a drain answers what it accepted. A dispatched GW_OPEN on a buffer
that may be shared, of a closed Gangway, with a key of its own, ends DONE with gangway + key·2^32 and opens that Gangway for its
context with the clamped window; every other Gangway stays. GW_CLOSE of a Gangway that is not open, or of another's, ends with
GANGWAY_KEY (0x13); of an open one with no access outstanding it closes it and ends DONE. GW_CLOSE_DRAIN leaves the Gangway no
access outstanding. (R113, R114, R116) -/
def Obligations.GangwaysOpenAndClose : Prop :=
  ∀ (s : State),
    (∀ c fl e g, Dispatched s.body c 0x3C fl → s.body.resolve fl.slot (c.h 1) = some e → e.place < 2 → e.layout ≠ 4 →
      s.body.gwPick c = some g → c.f 4 31 0 ≠ 0 →
      ∃ t, exec (.gwOpen c) s = .next t ∧ t.fuse = s.fuse ∧ EndsWith s.body t.body fl 0 (g + c.f 4 31 0 * 2 ^ 32) ∧
        SameBytes s.body t.body ∧ SameRegsBut s.body t.body [] ∧
        (t.body.gw g).opened = true ∧ (t.body.gw g).slot = fl.slot ∧ (t.body.gw g).key = c.f 4 31 0 ∧
        (t.body.gw g).off = (gwWindow c e.size).1 ∧ (t.body.gw g).size = (gwWindow c e.size).2.1 ∧ (t.body.gw g).fails = 0 ∧
        ∀ k, k ≠ g → t.body.gw k = s.body.gw k) ∧
    (∀ c fl, Dispatched s.body c 0x3D fl →
      ((s.body.gw (c.f 1 37 32)).opened = false ∨ (s.body.gw (c.f 1 37 32)).slot ≠ fl.slot) →
      ∃ t, exec (.gwClose c) s = .next t ∧ EndsWith s.body t.body fl 0x13 0 ∧ t.body.st = s.body.st ∧ SameBytes s.body t.body ∧
        SameRegsBut s.body t.body []) ∧
    (∀ c fl, Dispatched s.body c 0x3D fl → (s.body.gw (c.f 1 37 32)).opened = true →
      (s.body.gw (c.f 1 37 32)).slot = fl.slot → (∀ p ∈ s.body.st.gwPend, p.gw ≠ c.f 1 37 32) → s.body.st.gwWait = [] →
      ∃ t, exec (.gwClose c) s = .next t ∧ (t.body.gw (c.f 1 37 32)).opened = false ∧ t.body.st.gwWait = [] ∧
        SameBytes s.body t.body ∧ SameRegsBut s.body t.body [] ∧
        ∃ e, t.body.hm.ended = s.body.hm.ended ++ [e] ∧ e.fl.uid = fl.uid ∧ e.status = 0) ∧
    (∀ g : Fin 64, ∃ t, exec (.gwCloseDrain g) s = .next t ∧ t.fuse = s.fuse ∧ ∀ p ∈ t.body.st.gwPend, p.gw ≠ g.val ∧ p ∈ s.body.st.gwPend)

/-- A Gangway access is accepted only under its key, scope, permission and window. An access to a Gangway that is closed or closing,
with another key, from outside its scope, or of a kind not permitted is refused with GANGWAY_KEY (0x13); one past the end of the
window with HOLD_RANGE (0x11). A peer's refused access is answered on its Line with the status. A refused key of an open Gangway
counts one failure. An access that passes every check joins those the Gangway has accepted, and is not yet answered. Either way
every byte of memory is as before. (R113, R115) -/
def Obligations.GangwayAccessIsChecked : Prop :=
  ∀ (s : State) (a : GwReq), ∃ t, exec (.gangwayAccess a) s = .next t ∧ t.fuse = s.fuse ∧ SameBytes s.body t.body ∧
    (s.body.gwCheck a = none → t.body.st.gwPend = s.body.st.gwPend ++ [⟨a.gw, a⟩] ∧ t.body.out = s.body.out ∧ t.body.regs = s.body.regs) ∧
    (∀ st m l, s.body.gwCheck a = some st → a.who = .peer m l → t.body.st.gwPend = s.body.st.gwPend ∧
      t.body.out = s.body.out ++ [{ port := .line l, kind := .gangwayResponse, nums := [m, a.gw, st] }]) ∧
    (((s.body.gw a.gw).opened = false ∨ (s.body.gw a.gw).closing = true ∨ a.key ≠ (s.body.gw a.gw).key ∨
      s.body.gwInScope (s.body.gw a.gw) a.who = false ∨ gwPermits (s.body.gw a.gw) a.op = false) → s.body.gwCheck a = some 0x13) ∧
    ((s.body.gw a.gw).opened = true → (s.body.gw a.gw).closing = false → a.key = (s.body.gw a.gw).key →
      s.body.gwInScope (s.body.gw a.gw) a.who = true → gwPermits (s.body.gw a.gw) a.op = true →
      (s.body.gw a.gw).size < a.off + gwLen a.op → s.body.gwCheck a = some 0x11) ∧
    (s.body.gwCheck a = some 0x13 → (s.body.gw a.gw).opened = true → (s.body.gw a.gw).fails < 255 →
      t.body.gw a.gw = { s.body.gw a.gw with fails := (s.body.gw a.gw).fails + 1 })

/-- DMA_FILL writes its pattern and DMA_COPY its source into every destination row, and no other byte. A dispatched DMA_FILL of
local memory that may be accessed, its rows not overlapping, writes byte j mod 8 of the pattern to byte j of each row; a DMA_COPY
between local places, neither rows nor source and destination overlapping, writes byte j of each source row to byte j of the same
destination row. Each ends DONE, and every byte outside the destination rows reads as before. Handles that do not resolve end either
with HANDLE_INVALID (0x12) with every byte as before. (R117, R118) -/
def Obligations.DmaMovesItsBlock : Prop :=
  ∀ (s : State) (c : Cmd) (fl : Flight), PlainMemory s.body →
    (∀ de, Dispatched s.body c 0x31 fl → s.body.resolve fl.slot (c.h 3) = some de → de.place < 5 → de.layout ≠ 4 →
      s.body.blockOk de (blockOf c).1 true = true → (blockOf c).1.rowBytes ≤ (blockOf c).1.dstPitch →
      ∃ t, exec (.dmaFill c) s = .next t ∧ t.fuse = s.fuse ∧ EndsWith s.body t.body fl 0 0 ∧
        (∀ r j, r < (blockOf c).1.rows → j < (blockOf c).1.rowBytes →
          t.body.byte (de.base + (blockOf c).1.dst + r * (blockOf c).1.dstPitch + j) =
            BitVec.ofNat 8 ((c.w 7).toNat / 2 ^ (8 * (j % 8)))) ∧
        ∀ a, inRows a (de.base + (blockOf c).1.dst) (blockOf c).1.rowBytes (blockOf c).1.rows (blockOf c).1.dstPitch = false →
          t.body.byte a = s.body.byte a) ∧
    (∀ se de, Dispatched s.body c 0x30 fl → s.body.dmaArgs fl (c.h 1) (c.h 3) [(blockOf c).1] = .ok (se, de) →
      se.place < 5 → de.place < 5 → (blockOf c).1.rowBytes ≤ (blockOf c).1.dstPitch →
      spansMeet (se.base + (blockOf c).1.src) (((blockOf c).1.rows - 1) * (blockOf c).1.srcPitch + (blockOf c).1.rowBytes)
        (de.base + (blockOf c).1.dst) (((blockOf c).1.rows - 1) * (blockOf c).1.dstPitch + (blockOf c).1.rowBytes) = false →
      ∃ t, exec (.dmaCopy c) s = .next t ∧ t.fuse = s.fuse ∧ EndsWith s.body t.body fl 0 0 ∧
        (∀ r j, r < (blockOf c).1.rows → j < (blockOf c).1.rowBytes →
          t.body.byte (de.base + (blockOf c).1.dst + r * (blockOf c).1.dstPitch + j) =
            s.body.byte (se.base + (blockOf c).1.src + r * (blockOf c).1.srcPitch + j)) ∧
        ∀ a, inRows a (de.base + (blockOf c).1.dst) (blockOf c).1.rowBytes (blockOf c).1.rows (blockOf c).1.dstPitch = false →
          t.body.byte a = s.body.byte a) ∧
    (Dispatched s.body c 0x31 fl → s.body.resolve fl.slot (c.h 3) = none →
      ∃ t, exec (.dmaFill c) s = .next t ∧ EndsWith s.body t.body fl 0x12 0 ∧ SameBytes s.body t.body ∧ SameRegsBut s.body t.body []) ∧
    (Dispatched s.body c 0x30 fl → s.body.resolve fl.slot (c.h 1) = none →
      ∃ t, exec (.dmaCopy c) s = .next t ∧ EndsWith s.body t.body fl 0x12 0 ∧ SameBytes s.body t.body ∧ SameRegsBut s.body t.body [])

/-- The shares of a tiled operation cover each tile exactly once. Over any taking-part Quays, each tile of the sequence lies in the
share of exactly one rank, the shares are in increasing order of rank, and no two differ in length by more than one tile. That each
rank's share starts at k·⌊n/Q⌋ + min(k, n mod Q) is R126's formula. (R126) -/
def Obligations.SharesPartitionTheTiles : Prop :=
  ∀ (qs : List Nat) (n : Nat), qs ≠ [] →
    (∀ k, k < qs.length → ∃ r : ClaimRange, (shares qs n)[k]? = some (qs.getD k 0, r) ∧
      r.start = k * (n / qs.length) + min k (n % qs.length) ∧ r.next = r.start ∧
      r.stop = (k + 1) * (n / qs.length) + min (k + 1) (n % qs.length) ∧
      r.start ≤ r.stop ∧ r.stop ≤ n ∧ (r.stop - r.start = n / qs.length ∨ r.stop - r.start = n / qs.length + 1)) ∧
    (∀ t, t < n → ∃ (k : Nat) (r : Nat × ClaimRange), (shares qs n)[k]? = some r ∧ r.2.start ≤ t ∧ t < r.2.stop ∧
      ∀ (j : Nat) (x : Nat × ClaimRange), (shares qs n)[j]? = some x → x.2.start ≤ t → t < x.2.stop → j = k)

/-- A tiled command that passes its checks begins as one operation, and one that fails them ends with the status. MM_OP, VEC_OP,
CONV_OP, RESAMPLE and SCARF_OP of each MODE, dispatched: where the checks of their start fail, the command ends with the failure's
status, every byte as before; where they pass, it begins as the operation they give, with its clamped fields counted and its handles
kept until it ends. ATTN_BATCH does so after its list is read. (R119, R126, R147, R231, R238, R188, R225) -/
def Obligations.TiledOperationsBegin : Prop :=
  ∀ (s : State) (c : Cmd) (fl : Flight),
    (∀ i opc x, ((i = .mmOp c ∧ opc = 0x40 ∧ x = s.body.mmStart fl (mmFields c)) ∨
        (i = .vecOp c ∧ opc = 0x49 ∧ x = s.body.vecStart fl) ∨ (i = .convOp c ∧ opc = 0x42 ∧ x = s.body.convStart fl) ∨
        (i = .resample c ∧ opc = 0x43 ∧ x = s.body.resStart fl) ∨
        (i = .scarfOpSingle c ∧ opc = 0x44 ∧ scarfMode c = 0 ∧ x = s.body.singleStart fl) ∨
        (i = .scarfOpChained c ∧ opc = 0x44 ∧ scarfMode c = 1 ∧ x = s.body.scarfStart fl 1) ∨
        (i = .scarfOpSoftmax c ∧ opc = 0x44 ∧ scarfMode c = 2 ∧ x = s.body.scarfStart fl 2)) →
      Dispatched s.body c opc fl →
      (∀ r, x = .ok r → exec i s = .next { s with body := s.body.beginOp r.op r.clamps r.handles r.uses }) ∧
      (∀ st h, x = .error (st, h) → ∃ t, exec i s = .next t ∧ EndsWith s.body t.body fl st 0 ∧ SameBytes s.body t.body ∧
        SameRegsBut s.body t.body [] ∧ t.body.ops = s.body.ops)) ∧
    (∀ r, Dispatched s.body c 0x45 fl → s.body.attnStart fl = .ok (r, false) → exec (.attnBatch c) s =
      .next { s with body := (s.body.tierTraffic fl.slot ((s.body.resolve fl.slot (c.h 6)).getD {}).base
        (32 * max 1 (min 4096 (c.f 8 12 0))) false 11).beginOp r.op r.clamps r.handles r.uses }) ∧
    (∀ st h, Dispatched s.body c 0x45 fl → s.body.attnStart fl = .error (st, h) → ∃ t, exec (.attnBatch c) s = .next t ∧
      EndsWith s.body t.body fl st 0 ∧ SameBytes s.body t.body ∧ SameRegsBut s.body t.body [])

/-- A steal moves sixteen unclaimed tiles from the richest Quay or refuses the thief. STEAL_REQUEST with no operation that asks for
work changes nothing. For one that asks, where no Quay has 32 unclaimed tiles it counts one refusal and the Quay takes no further
part; otherwise the victim's END falls by 16 and the thief's range is those 16 tiles, and each counts 16 tiles. Without a waiting
operation CLAIM_SLOT_LOAD, without a claimable tile TILE_CLAIM, and without a first phase that is worked out SPLIT_REDUCE_PHASE and
MERGE_PHASE_START change nothing; with one, the tile at NEXT is claimed, and the second phase's tasks are shared anew. (R127, R128,
R131, R226) -/
def Obligations.ClaimsStealsAndPhases : Prop :=
  ∀ (s : State),
    (∀ q : Fin 10, s.body.thiefOp q = none → exec (.stealRequest q) s = .next s) ∧
    (∀ (q : Fin 10) o, s.body.thiefOp q = some o → s.body.victim o q = none → ∃ t, exec (.stealRequest q) s = .next t ∧
      t = { s with body := ((s.body.setOp { o with retired := o.retired ++ [q.val] }).bump (.qyStealStat q)
        Fld.qyStealStatRefused 1).opCheck o.fl.uid }) ∧
    (∀ (q : Fin 10) o v r, s.body.thiefOp q = some o → s.body.victim o q = some (v, r) → v < 10 → (o.range q).isSome = true →
      ∃ t o', exec (.stealRequest q) s = .next t ∧ v ≠ q.val ∧ 32 ≤ r.stop - r.next ∧ o.range v = some r ∧
        t.body.ops = s.body.ops.map (fun x => if x.fl.uid = o.fl.uid then o' else x) ∧
        o'.range v = some { r with stop := r.stop - 16 } ∧
        (∃ x, o'.range q = some x ∧ x.next = r.stop - 16 ∧ x.stop = r.stop) ∧ SameBytes s.body t.body ∧
        t.body.getF (.qyStealStat v) Fld.qyStealStatStolenOut =
          min (s.body.getF (.qyStealStat v) Fld.qyStealStatStolenOut + 16) (2 ^ Fld.qyStealStatStolenOut.width - 1) ∧
        t.body.getF (.qyStealStat q) Fld.qyStealStatStolenIn =
          min (s.body.getF (.qyStealStat q) Fld.qyStealStatStolenIn + 16) (2 ^ Fld.qyStealStatStolenIn.width - 1)) ∧
    (∀ uid (q : Fin 10), s.body.opOf uid = none → exec (.claimSlotLoad uid q) s = .next s) ∧
    (∀ uid (q : Fin 10) o us k, s.body.opOf uid = some o → us = o.units.filter (fun u => decide (u.headD 0 / 20 = q.val)) →
      q.val ∈ o.quays → o.stopping = false → s.body.saving o.fl.slot = false → q.val ∉ o.retired →
      o.slots.any (fun p => decide (p.1 = q.val)) = false → (o.range q).isSome = true →
      (∀ g ∈ us.flatten, s.body.pwr g < 2) → (∀ u ∈ us, s.body.raftReady u = true) → 6 ≤ o.kind → s.body.freeSlot q = some k →
      exec (.claimSlotLoad uid q) s = .next { s with body :=
        (us.flatten.foldl (fun b g => b.syncWork g) ((s.body.setOp (({ o with slots := o.slots ++ [(q.val, k)] } : TileOp).nextRange q)).syncSlot
          (({ o with slots := o.slots ++ [(q.val, k)] } : TileOp).nextRange q) q)).opCheck uid }) ∧
    (∀ g : Fin 200, s.body.claimOp g = none → exec (.tileClaim g) s = .next s) ∧
    (∀ (g : Fin 200) o u r, s.body.claimOp g = some o → o.units.find? (fun u => decide (u.head? = some g.val)) = some u →
      o.range (g.val / 20) = some r → s.body.unitFree o u = true →
      exec (.tileClaim g) s = .next { s with body := s.body.claimTile o u r }) ∧
    (∀ uid k i, (i = .splitReducePhase uid ∧ k = 0 ∨ i = .mergePhaseStart uid ∧ k = 5) →
      (s.body.opOf uid = none → exec i s = .next s) ∧
      (∀ o, s.body.opOf uid = some o → (o.kind ≠ k ∨ o.lastPhase ≤ o.phase ∨ o.exhausted = false ∨ o.stopping = true) → exec i s = .next s) ∧
      exec i s = .next { s with body := s.body.nextPhase uid k })

/-- CHAIN_SET writes its own chain slot alone; a WALK by itself faults; WALK_COPY moves its blocks. A dispatched CHAIN_SET ends DONE
with its slot, clamped to at least 1, holding the clamped words, and every other chain slot, the memory and every register but those
that note clamps and ends as before; its command takes no other effect. A WALK that follows no MM_OP and no WALK_COPY ends with
HANDLE_STALE (0x12) and nothing moves. A WALK_COPY between local places whose blocks may be accessed moves them in walk order.
(R141, R123, R125) -/
def Obligations.WalksAndChainSlots : Prop :=
  ∀ (s : State) (c : Cmd) (fl : Flight),
    (Dispatched s.body c 0x48 fl → ∃ t, exec (.chainSet c) s = .next t ∧ t.fuse = s.fuse ∧ EndsWith s.body t.body fl 0 0 ∧
      SameBytes s.body t.body ∧ SameRegsBut s.body t.body [] ∧ t.body.hm.sregs = s.body.hm.sregs ∧ t.body.st = s.body.st ∧
      1 ≤ (chainFix c).1 ∧ SMap.get t.body.hm.chains [] (fl.slot * 64 + (chainFix c).1) = (chainFix c).2.1 ∧
      ∀ k, k ≠ fl.slot * 64 + (chainFix c).1 → SMap.get t.body.hm.chains [] k = SMap.get s.body.hm.chains [] k) ∧
    (Dispatched s.body c 0x41 fl → ∃ t, exec (.walk c) s = .next t ∧ EndsWith s.body t.body fl 0x12 0 ∧
      SameBytes s.body t.body ∧ SameRegsBut s.body t.body [] ∧ t.body.st = s.body.st) ∧
    (∀ ls n2 gs given n3 n1 ks se de, Dispatched s.body c 0x32 fl →
      (ls, n2) = levelsOf ((List.range 7).map fun i => c.w (9 + i)) 1 →
      (gs, given, n3) = readyWalk ls [max 1 (c.f 7 63 32), max 1 (c.f 7 31 16)] →
      n1 = (if c.f 7 63 32 = 0 then 1 else 0) + (if c.f 7 31 16 = 0 then 1 else 0) →
      ks = walkBlocks (blockOf c).1 (walkPoints gs given [max 1 (c.f 7 63 32), max 1 (c.f 7 31 16)]) (c.f 7 15 0) →
      s.body.dmaArgs fl (c.h 1) (c.h 3) ks = .ok (se, de) → se.place < 5 → de.place < 5 → ∃ t, exec (.walkCopy c) s = .next t ∧
        t.fuse = s.fuse ∧ t.body = ((s.body.clampCmd fl ((blockOf c).2 + n1 + n2 + n3)).wakeBlocks se de ks).runWalk fl se de ks
          (ringTwice (walkPoints gs given [max 1 (c.f 7 63 32), max 1 (c.f 7 31 16)]).length (c.f 7 15 0)))

/-- Each INT instruction of a Dowel writes its result to x[D], x0 discarding it, and nothing else. For every INT instruction that a
Dowel issues, not the last of its program: x[D] takes the operation's value of x[A], x[B] and the immediate, where D = 0 nothing is
written, the program counter moves on by 8, and every other x register, the v and m registers, every other Dowel and Berth, every
byte, every fuse and every register but those that note clamps stay. A shift by 64 or more, whose result the spec does not state,
writes a free value (log entry 35). (R155, R156) -/
def Obligations.CoreIntegerResults : Prop :=
  ∀ (s : State) (g : Fin 200) (d : Fin 64) (w : Word) (fl : Flight) (x y : Word) (i : Instr) (op : Nat) (v : Word),
    x = (s.body.dowel g d).xr (w.fld 50 46) → y = (s.body.dowel g d).xr (w.fld 45 41) →
    ((i, op, v) ∈ [(Instr.intAdd g d w, 0, x + y), (.intSub g d w, 1, x - y), (.intMul g d w, 2, x * y),
        (.intAnd g d w, 3, x &&& y), (.intOr g d w, 4, x ||| y), (.intXor g d w, 5, x ^^^ y),
        (.intSlt g d w, 9, if x.toInt < y.toInt then 1 else 0), (.intAddi g d w, 10, x + BitVec.ofInt 64 (coreImm w)),
        (.intLui g d w, 11, BitVec.ofInt 64 (coreImm w) <<< 42)] ∨
      y.toNat < 64 ∧ (i, op, v) ∈ [(Instr.intShl g d w, 6, x <<< y.toNat), (.intShr g d w, 7, x >>> y.toNat),
        (.intSra g d w, 8, x.sshiftRight y.toNat)] ∨
      64 ≤ y.toNat ∧ (i, op, v) ∈ [(Instr.intShl g d w, 6, Config.freeBits s.body.freeCtr),
        (.intShr g d w, 7, Config.freeBits s.body.freeCtr), (.intSra g d w, 8, Config.freeBits s.body.freeCtr)]) →
    DowelIssues s.body g d w 1 (some op) fl →
    ∃ t, exec i s = .next t ∧ t.fuse = s.fuse ∧ SameBytes s.body t.body ∧ SameRegsBut s.body t.body [] ∧
      (t.body.dowel g d).xr (w.fld 55 51) = (if w.fld 55 51 = 0 then 0 else v) ∧
      (∀ k, k ≠ w.fld 55 51 → (t.body.dowel g d).xr k = (s.body.dowel g d).xr k) ∧
      (t.body.dowel g d).pc = (s.body.dowel g d).pc + 8 ∧ (t.body.dowel g d).v = (s.body.dowel g d).v ∧
      (t.body.dowel g d).m = (s.body.dowel g d).m ∧ (t.body.dowel g d).ended = (s.body.dowel g d).ended ∧
      (t.body.dowel g d).bar = (s.body.dowel g d).bar ∧ OnlyDowel s.body t.body g d

/-- A Dowel's loads, stores and branches. For an instruction a Dowel issues, whose access is good, outside the Bench or in a Bench
it owns: XLD puts the 8 bytes, little-endian, into x[D]; VLD puts 32 elements, widened to FP32, into v[D]; XST writes the 8 bytes of
x[D] and no others; VST without stochastic rounding writes the 32 converted elements of v[D] and no others. A branch whose condition
holds goes to pc + 8·IMM inside the program, and ends the run with HOLD_RANGE outside it; one whose condition fails goes on at pc +
8. Nothing else of the Dowel, no other Dowel and no other Berth changes. (R155, R156) -/
def Obligations.CoreMemoryAndBranches : Prop :=
  ∀ (s : State) (g : Fin 200) (d : Fin 64) (w : Word) (fl : Flight),
    (∀ a n op wr i, PlainMemory s.body → DowelIssues s.body g d w 2 (some op) fl →
      (w.bit 37 = false ∨ s.body.getF (.brJyStat g) Fld.brJyStatBenchOwner = fl.cmd.ctx.toNat) →
      (i, op, n, wr) ∈ [(Instr.xld g d w, 2, 8, false), (.vld g d w, 0, 32 * (coreFmt w).2, false), (.xst g d w, 3, 8, true),
        (.vst g d w, 1, 32 * (coreFmt w).2, true)] → (op = 1 → min 4 (w.fld 41 39) ≠ 4) →
      s.body.coreMem g d fl w n wr = .ok a →
      ∃ t, exec i s = .next t ∧ t.fuse = s.fuse ∧ OnlyDowel s.body t.body g d ∧
        (t.body.dowel g d).pc = (s.body.dowel g d).pc + 8 ∧ (t.body.dowel g d).m = (s.body.dowel g d).m ∧
        (op ≠ 0 → (t.body.dowel g d).v = (s.body.dowel g d).v) ∧ (op ≠ 2 → (t.body.dowel g d).x = (s.body.dowel g d).x) ∧
        (op = 2 → ∀ k, (t.body.dowel g d).xr k = if k = w.fld 55 51 ∧ k ≠ 0 then BitVec.ofNat 64 (s.body.le a 8)
          else (s.body.dowel g d).xr k) ∧
        (op = 0 → (t.body.dowel g d).vr (w.fld 55 51) = (List.range 32).map fun i =>
          toF32 (elemVal (coreFmt w).1 (s.body.le (a + (coreFmt w).2 * i) (coreFmt w).2))) ∧
        (op = 3 → t.body.bytes a 8 = leBytes 8 ((s.body.dowel g d).xr (w.fld 55 51)).toNat) ∧
        (op = 1 → ∀ i, i < 32 → t.body.bytes (a + (coreFmt w).2 * i) (coreFmt w).2 =
          leBytes (coreFmt w).2 (convElem (coreFmt w).1 (min 4 (w.fld 41 39)) (w.bit 38) false
            (ofF32 (((s.body.dowel g d).vr (w.fld 55 51)).getD i 0))).1) ∧
        (if wr = true then SameBytesBut s.body t.body a n else SameBytes s.body t.body)) ∧
    (∀ x y i op cond, x = (s.body.dowel g d).xr (w.fld 50 46) → y = (s.body.dowel g d).xr (w.fld 45 41) →
      (i, op, cond) ∈ [(Instr.beq g d w, 0, decide (x = y)), (.bne g d w, 1, decide (x ≠ y)),
        (.blt g d w, 2, decide (x.toInt < y.toInt)), (.jmp g d w, 3, true)] →
      DowelIssues s.body g d w 3 (some op) fl →
      (0 ≤ ((s.body.dowel g d).pc : Int) + 8 * coreImm w ∧ ((s.body.dowel g d).pc : Int) + 8 * coreImm w < progBytes fl →
        ∃ t, exec i s = .next t ∧ t.fuse = s.fuse ∧ SameBytes s.body t.body ∧ t.body.regs = s.body.regs ∧
          OnlyDowel s.body t.body g d ∧ t.body.dowel g d = { s.body.dowel g d with
            pc := if cond = true then (((s.body.dowel g d).pc : Int) + 8 * coreImm w).toNat else (s.body.dowel g d).pc + 8 }) ∧
      (((s.body.dowel g d).pc : Int) + 8 * coreImm w < 0 ∨ (progBytes fl : Int) ≤ ((s.body.dowel g d).pc : Int) + 8 * coreImm w →
        cond = true → ∃ t, exec i s = .next t ∧ t.fuse = s.fuse ∧
          t.body = s.body.runFault g fl 0x11 (fl.cmd.h 1) (ofSInt 64 (((s.body.dowel g d).pc : Int) + 8 * coreImm w))))

/-- A Dowel's vector and control instructions. For an instruction a Dowel issues: a VEC that draws no random bits, evaluates no
function and compares nothing gives each element that MASK leaves open the operation's value rounded to FMT, and keeps the others;
VRED puts the sum of v[A] in the fixed tree into element 0 of v[D] and +0 in the others; VMOVX puts the bits of an element into
x[D], x0 discarding them. BAR waits while another Dowel has neither ended nor reached BAR; END ends the Dowel. No byte changes, and
no other Berth. (R155, R156, R157) -/
def Obligations.CoreVectorAndControl : Prop :=
  ∀ (s : State) (g : Fin 200) (d : Fin 64) (w : Word) (fl : Flight),
    (DowelIssues s.body g d w 0 none fl → coreOp w < 0x0C ∨ coreOp w = 0x0F → min 4 (w.fld 20 18) ≠ 4 →
      ∃ t, exec (.vec g d w) s = .next t ∧ t.fuse = s.fuse ∧ SameBytes s.body t.body ∧ OnlyDowel s.body t.body g d ∧
        (t.body.dowel g d).pc = (s.body.dowel g d).pc + 8 ∧ (t.body.dowel g d).x = (s.body.dowel g d).x ∧
        (t.body.dowel g d).m = (s.body.dowel g d).m ∧
        (∀ i, i < 32 → ((t.body.dowel g d).vr (w.fld 55 51)).getD i 0 =
          if (if w.fld 34 33 = 0 then 0xFFFFFFFF else (s.body.dowel g d).m.getD (w.fld 34 33) 0).testBit i = true then
            (roundTo (laneFmt (w.fld 24 21)) (min 4 (w.fld 20 18)) (w.bit 17) false (laneOp (coreOp w)
              (((s.body.dowel g d).vr (w.fld 50 46)).getD i 0)
              (if w.bit 35 = true then ((s.body.dowel g d).xr (w.fld 45 41)).toNat % 2 ^ 32 else ((s.body.dowel g d).vr (w.fld 45 41)).getD i 0)
              (((s.body.dowel g d).vr (w.fld 40 36)).getD i 0) 0)).1
          else ((s.body.dowel g d).vr (w.fld 55 51)).getD i 0) ∧
        ∀ k, k % 16 ≠ w.fld 55 51 % 16 → (t.body.dowel g d).vr k = (s.body.dowel g d).vr k) ∧
    (DowelIssues s.body g d w 3 (some 6) fl → ∃ t, exec (.vred g d w) s = .next t ∧ t.fuse = s.fuse ∧
      SameBytes s.body t.body ∧ t.body.regs = s.body.regs ∧ OnlyDowel s.body t.body g d ∧
      (t.body.dowel g d).vr (w.fld 55 51) = reduce32 0 ((s.body.dowel g d).vr (w.fld 50 46)) :: List.replicate 31 0 ∧
      (t.body.dowel g d).x = (s.body.dowel g d).x ∧ (t.body.dowel g d).pc = (s.body.dowel g d).pc + 8) ∧
    (DowelIssues s.body g d w 3 (some 7) fl → ∃ t, exec (.vmovx g d w) s = .next t ∧ t.fuse = s.fuse ∧
      SameBytes s.body t.body ∧ SameRegsBut s.body t.body [] ∧ OnlyDowel s.body t.body g d ∧
      (t.body.dowel g d).v = (s.body.dowel g d).v ∧ (t.body.dowel g d).pc = (s.body.dowel g d).pc + 8 ∧
      ∀ k, (t.body.dowel g d).xr k = if k = w.fld 55 51 ∧ k ≠ 0 then
        BitVec.ofNat 64 (((s.body.dowel g d).vr (w.fld 50 46)).getD (w.fld 4 0) 0) else (s.body.dowel g d).xr k) ∧
    (∀ e, DowelIssues s.body g d w 3 (some 4) fl → e < 64 → e ≠ d.val → (s.body.dowel g e).ended = false →
      (s.body.dowel g e).bar = false → ∃ t, exec (.bar g d w) s = .next t ∧ t.fuse = s.fuse ∧ SameBytes s.body t.body ∧
        t.body.regs = s.body.regs ∧ OnlyDowel s.body t.body g d ∧
        t.body.dowel g d = { s.body.dowel g d with bar := true }) ∧
    (DowelIssues s.body g d w 3 (some 4) fl → (∀ e, e < 64 → e ≠ d.val → (s.body.dowel g e).ended = true) →
      ∃ t, exec (.bar g d w) s = .next t ∧ (t.body.dowel g d).pc = (s.body.dowel g d).pc + 8 ∧ (t.body.dowel g d).bar = false) ∧
    (∀ e, DowelIssues s.body g d w 3 (some 5) fl → e < 64 → e ≠ d.val → (s.body.dowel g e).ended = false →
      ∃ t, exec (.ctrlEnd g d w) s = .next t ∧ t.fuse = s.fuse ∧ SameBytes s.body t.body ∧ t.body.regs = s.body.regs ∧
        (t.body.dowel g d).ended = true ∧ (t.body.berth g).run = some fl.uid) ∧
    (DowelIssues s.body g d w 3 (some 5) fl → (∀ e, e < 64 → e ≠ d.val → (s.body.dowel g e).ended = true) →
      ∃ t, exec (.ctrlEnd g d w) s = .next t ∧ SameBytes s.body t.body ∧ (t.body.berth g).run = none)

/-- The tile-register instructions write their tile and go on. For a tile-dialect instruction that a Berth issues, not the last of
its program, each goes on at pc + 32. JLD widens a block into TD, +0 elsewhere. A JOP that draws no random bits, evaluates no
function and compares nothing gives each element the predicate leaves open the operation's value rounded to FMT, and keeps the
others. JRED puts row results in column 0 or column results in row 0, +0 elsewhere. JMOV copies, transposes, broadcasts a latch
entry, row 0 or column 0 of TA, or turns a predicate into 1.0 and +0. JBENCH moves raw bytes into the Bench; JST stores its rows. No
other tile register changes, and no byte of memory but JST's and JBENCH's. (R153) -/
def Obligations.TileRegisterInstructions : Prop :=
  ∀ (s : State) (g : Fin 200) (w : List Word) (fl : Flight) (x : Word), x = w.getD 0 0 →
    (∀ m, TileIssues s.body g w 0x28 fl → (jBlock w).2.2.2 = false → s.body.jMem fl g w false = .ok m →
      ∃ t, exec (.jld g w none) s = .next t ∧ SameBytes s.body t.body ∧ (t.body.berth g).pc = (s.body.berth g).pc + 32 ∧
        t.body.tile g (x.fld 49 45) = tileOf (fun r c => if r < (jBlock w).1 ∧ c < (jBlock w).2.1 then s.body.jElem m r c else 0) ∧
        ∀ k, k ≠ x.fld 49 45 → t.body.tile g k = s.body.tile g k) ∧
    (∀ m, s.body.tileRun g w 0x29 = some fl → (jBlock w).2.2.2 = false → s.body.jMem fl g w true = .ok m →
      ∃ t, exec (.jst g w) s = .next t ∧ t.fuse = s.fuse ∧
        t.body = ((List.range (jBlock w).1).foldl (fun b r => b.jStoreRow g fl m (min 4 (x.fld 21 19)) (x.bit 18) r
          (((s.body.tile g (x.fld 44 40)).drop (32 * r)).take (jBlock w).2.1)) (s.body.clampCmd fl (jFmtClamps w false))).nextInstr g fl) ∧
    (TileIssues s.body g w 0x2A fl → laneCode (x.fld 55 50) < 0x0C ∨ laneCode (x.fld 55 50) = 0x0F → min 4 (x.fld 21 19) ≠ 4 →
      ∃ t, exec (.jop g w) s = .next t ∧ SameBytes s.body t.body ∧ (t.body.berth g).pc = (s.body.berth g).pc + 32 ∧
        (∀ i, i < 1024 → (t.body.tile g (x.fld 49 45)).getD i 0 =
          if (!x.bit 29 || (s.body.pred g (x.fld 28 26)).testBit i) = true then
            (roundTo (laneFmt (x.fld 25 22)) (min 4 (x.fld 21 19)) (x.bit 18) false (laneOp (laneCode (x.fld 55 50))
              ((s.body.tile g (x.fld 44 40)).getD i 0)
              (if x.bit 17 = true then s.body.latch32 g (x.fld 38 35) else (s.body.tile g (x.fld 39 35)).getD i 0)
              (if x.bit 16 = true then s.body.latch32 g (x.fld 33 30) else (s.body.tile g (x.fld 34 30)).getD i 0) 0)).1
          else (s.body.tile g (x.fld 49 45)).getD i 0) ∧
        ∀ k, k ≠ x.fld 49 45 → t.body.tile g k = s.body.tile g k) ∧
    (TileIssues s.body g w 0x2B fl → ∃ t, exec (.jred g w) s = .next t ∧ SameBytes s.body t.body ∧
      SameRegsBut s.body t.body [] ∧ (t.body.berth g).pc = (s.body.berth g).pc + 32 ∧
      t.body.tile g (x.fld 49 45) = tileOf (fun r c =>
        if min 5 (x.fld 55 50) % 2 = 0 then
          (if c = 0 then reduce32 (min 5 (x.fld 55 50) / 2) (tileRow (s.body.tile g (x.fld 44 40)) r) else 0)
        else (if r = 0 then reduce32 (min 5 (x.fld 55 50) / 2) (tileCol (s.body.tile g (x.fld 44 40)) c) else 0)) ∧
      ∀ k, k ≠ x.fld 49 45 → t.body.tile g k = s.body.tile g k) ∧
    (TileIssues s.body g w 0x2C fl → min 6 (x.fld 55 50) ≠ 5 → ∃ t, exec (.jmov g w) s = .next t ∧ SameBytes s.body t.body ∧
      SameRegsBut s.body t.body [] ∧ (t.body.berth g).pc = (s.body.berth g).pc + 32 ∧
      (x.fld 55 50 = 0 → t.body.tile g (x.fld 49 45) = s.body.tile g (x.fld 44 40)) ∧
      (x.fld 55 50 ≠ 0 → ∀ r c, r < 32 → c < 32 → (t.body.tile g (x.fld 49 45)).getD (32 * r + c) 0 =
        if x.fld 55 50 = 1 then (s.body.tile g (x.fld 44 40)).getD (32 * c + r) 0
        else if x.fld 55 50 = 2 then s.body.latch32 g (x.fld 38 35)
        else if x.fld 55 50 = 3 then (s.body.tile g (x.fld 44 40)).getD c 0
        else if x.fld 55 50 = 4 then (s.body.tile g (x.fld 44 40)).getD (32 * r) 0
        else f32Bool ((s.body.pred g (x.fld 28 26)).testBit (32 * r + c))) ∧
      ∀ k, k ≠ x.fld 49 45 → t.body.tile g k = s.body.tile g k) ∧
    (∀ e bo n, PlainMemory s.body → TileIssues s.body g w 0x2D fl → x.fld 55 50 = 0 →
      s.body.getF (.brJyStat g) Fld.brJyStatBenchOwner = fl.cmd.ctx.toNat →
      bo = 32 * (w.getD 2 0).fld 14 0 → n = 32 * (w.getD 2 0).fld 31 15 → bo + n ≤ 0x100000 →
      s.body.ownEntry fl.slot g ((w.getD 1 0).fld 63 38) false = .ok e →
      s.body.accessOk e (32 * (w.getD 1 0).fld 37 18) n false = true →
      ∃ t, exec (.jbench g w) s = .next t ∧ (t.body.berth g).pc = (s.body.berth g).pc + 32 ∧
        t.body.bytes (benchBase g + bo) n = s.body.bytes (e.base + 32 * (w.getD 1 0).fld 37 18) n ∧
        SameBytesBut s.body t.body (benchBase g + bo) n)

/-- Loops nest, END ends the Berth's run, and JY_RUN starts one on each Berth it names. A JCTL LOOP below four nested loops pushes
its body's start and its count, at least 1, and goes on; a fifth is counted too deep and runs its body once. ENDLOOP goes back to
the start while iterations are left, and leaves the loop with the last. JCTL FENCE goes on once no drain is pending and waits
otherwise. JCTL END leaves the Berth with no run and no tile register. A dispatched JY_RUN whose Quays, program and entry are good
starts on every Berth it names once each is awake and runs none: each Berth runs it from ENTRY with RUNNING set. One whose Quays are
not all of the partition ends with HOLD_RANGE. (R153, R155, R158) -/
def Obligations.TileControlAndRuns : Prop :=
  ∀ (s : State) (g : Fin 200) (w : List Word) (fl : Flight),
    (s.body.jctl g w 0 = some fl → (s.body.berth g).pc + 32 < progBytes fl → (s.body.passBerths g).all s.body.trussIdle = true →
      ∃ t, exec (.jctlFence g w) s = .next t ∧ t.body.berth g = { s.body.berth g with pc := (s.body.berth g).pc + 32 } ∧
        SameBytes s.body t.body ∧ t.body.regs = s.body.regs) ∧
    (s.body.jctl g w 0 = some fl → (s.body.passBerths g).all s.body.trussIdle = false → exec (.jctlFence g w) s = .next s) ∧
    (s.body.jctl g w 1 = some fl → (s.body.berth g).pc + 32 < progBytes fl → ∃ t, exec (.jctlLoop g w) s = .next t ∧
      SameBytes s.body t.body ∧ SameRegsBut s.body t.body [] ∧ (t.body.berth g).pc = (s.body.berth g).pc + 32 ∧
      (if (s.body.berth g).loops.length < 4 then (t.body.berth g).deep = (s.body.berth g).deep ∧
          (t.body.berth g).loops = ((s.body.berth g).pc + 32, max 1 ((w.getD 3 0).fld 31 0)) :: (s.body.berth g).loops
        else (t.body.berth g).loops = (s.body.berth g).loops ∧ (t.body.berth g).deep = (s.body.berth g).deep + 1)) ∧
    (s.body.jctl g w 2 = some fl → (s.body.berth g).pc + 32 < progBytes fl → ∃ t, exec (.jctlEndloop g w) s = .next t ∧
      SameBytes s.body t.body ∧ t.body.regs = s.body.regs ∧
      (0 < (s.body.berth g).deep → t.body.berth g =
        { s.body.berth g with deep := (s.body.berth g).deep - 1, pc := (s.body.berth g).pc + 32 }) ∧
      (∀ p k r, (s.body.berth g).deep = 0 → (s.body.berth g).loops = (p, k) :: r → p < progBytes fl → t.body.berth g =
        if 1 < k then { s.body.berth g with loops := (p, k - 1) :: r, pc := p }
        else { s.body.berth g with loops := r, pc := (s.body.berth g).pc + 32 })) ∧
    (s.body.jctl g w 3 = some fl → ∃ t, exec (.jctlEnd g w) s = .next t ∧ SameBytes s.body t.body ∧
      (t.body.berth g).run = none ∧ (t.body.berth g).tiles = [] ∧ t.body.getF (.brJyStat g) Fld.brJyStatRunning = 0) ∧
    (∀ c qs prog entry, Dispatched s.body c 0x4A fl → fl.resumed = false → s.body.takePart fl.slot (c.f 2 37 28) = some qs →
      berthsOf qs (c.f 2 27 8) ≠ [] → (∀ b ∈ berthsOf qs (c.f 2 27 8), s.body.tileDialect b = true ∧ s.body.pwr b < 2 ∧
        (s.body.berth b).run = none) →
      s.body.accessHere fl.slot (c.h 1) (32 * c.f 1 37 18) (progBytes fl) false = .ok prog →
      entry = c.f 3 31 0 / 32 * 32 → entry < progBytes fl →
      ∃ t, exec (.jyRun c) s = .next t ∧ t.body.hm.ended = s.body.hm.ended ∧ ∀ b ∈ berthsOf qs (c.f 2 27 8),
        (t.body.berth b).run = some fl.uid ∧ (t.body.berth b).pc = entry ∧ (t.body.berth b).tiles = [] ∧
        t.body.getF (.brJyStat b) Fld.brJyStatRunning = 1) ∧
    (∀ c, Dispatched s.body c 0x4A fl → fl.resumed = false → s.body.takePart fl.slot (c.f 2 37 28) = none →
      ∃ t, exec (.jyRun c) s = .next t ∧ EndsWith s.body t.body fl 0x11 0 ∧ SameBytes s.body t.body ∧ t.body.berths = s.body.berths)

/-- JIG_LOAD fills the shadow bank, a swap makes it current in every Berth of the partition. A dispatched JIG_LOAD without
SWAP_ONLY, in a partition whose shadow bank is free, of an image that may be read and holds no uncorrectable sector, ends DONE and
changes no byte outside the shadow bank; where the bank is latched it waits for JIG_SHADOW_FREE, and one of the management context
ends with HOLD_RANGE. A swap ends DONE: in every Berth of the partition the other bank is current and the epoch is one more, modulo
2^32. JIG_SHADOW_FREE with no load waiting, or the bank still latched, changes nothing; else it runs the load that has waited
longest. (R178, R179, R181) -/
def Obligations.JigBanks : Prop :=
  ∀ (s : State),
    (∀ c fl p, Dispatched s.body c 0x4C fl → c.b 2 1 = true → s.body.partOfSlot fl.slot = some p →
      ∃ t, exec (.jigSwapOnly c) s = .next t ∧ t.fuse = s.fuse ∧ EndsWith s.body t.body fl 0 0 ∧ SameBytes s.body t.body ∧
        (∀ g ∈ s.body.berthsOfPart p, t.body.getF (.brLatheStat g) Fld.brLatheStatCurBank =
            1 - s.body.getF (.brLatheStat g) Fld.brLatheStatCurBank ∧
          t.body.getF (.brLatheStat g) Fld.brLatheStatEpoch = (s.body.getF (.brLatheStat g) Fld.brLatheStatEpoch + 1) % 2 ^ 32) ∧
        ∀ r : Reg, ¬ r.notes → t.body.reg r = s.body.reg r) ∧
    (∀ c fl, Dispatched s.body c 0x4C fl → s.body.partOfSlot fl.slot = none → ∃ t,
      exec (if c.b 2 1 = true then .jigSwapOnly c else .jigLoad c) s = .next t ∧ EndsWith s.body t.body fl 0x11 0 ∧
      SameBytes s.body t.body ∧ SameRegsBut s.body t.body []) ∧
    (∀ c, c.b 2 1 = false → exec (.jigSwapOnly c) s = .next s) ∧ (∀ c, c.b 2 1 = true → exec (.jigLoad c) s = .next s) ∧
    (∀ c fl p e, Dispatched s.body c 0x4C fl → c.b 2 1 = false → s.body.partOfSlot fl.slot = some p → s.body.jigReady p = true →
      s.body.accessHere fl.slot (c.h 1) (32 * c.f 1 37 18) 0x20000 false = .ok e → s.body.tiers.badSectors = [] →
      ∃ t, exec (.jigLoad c) s = .next t ∧ t.fuse = s.fuse ∧ EndsWith s.body t.body fl 0 0 ∧
        SameBytesBut s.body t.body (jigBase p (1 - s.body.curBank p)) 0x20000) ∧
    (∀ c fl p, Dispatched s.body c 0x4C fl → c.b 2 1 = false → s.body.partOfSlot fl.slot = some p → s.body.jigReady p = false →
      ∃ t, exec (.jigLoad c) s = .next t ∧ StaysInFlight s.body t.body fl ∧ SameBytes s.body t.body ∧
        t.body.regs = s.body.regs ∧ t.body.jigs = s.body.jigs ++ [{ fl with started := true }]) ∧
    (∀ part : Fin 10, (∀ x ∈ s.body.jigs, s.body.partOfSlot x.slot ≠ some part.val) ∨
      s.body.latched part (1 - s.body.curBank part) = true → exec (.jigShadowFree part) s = .next s) ∧
    (∀ (part : Fin 10) fl r, s.body.jigs = fl :: r → s.body.partOfSlot fl.slot = some part.val →
      s.body.latched part (1 - s.body.curBank part) = false → exec (.jigShadowFree part) s =
        .next { s with body := ({ s.body with jigs := s.body.jigs.filter (fun x => decide (x.uid ≠ fl.uid)) } : Body).jigLoad fl part })

/-- CRATE_POOL creates an empty pool and destroys one with no slot in use. Where memory holds no uncorrectable sector and no mirror:
CRATE_POOL that creates a pool whose number is free, over a region and a bitmap that meet R207, ends DONE, the pool holds the whole
64 KiB blocks of the region, and without ADOPT every slot is free and only the bitmap's bytes change; on a pool that exists it ends
with HOLD_RANGE. One that destroys its context's pool with no slot allocated or in quarantine ends DONE and the pool is gone; with a
slot allocated it ends with HOLD_RANGE and the pool stays. SLOT_QUARANTINE_END takes a slot out of quarantine, its loads with it,
and changes nothing for a slot not in it. (R207, R208) -/
def Obligations.CratePools : Prop :=
  ∀ (s : State) (c : Cmd) (fl : Flight) (k : Nat), k = c.f 1 7 0 → PlainMemory s.body →
    (∀ r m, Dispatched s.body c 0x51 fl → c.b 1 8 = false → s.body.pool k = none → s.body.resolve fl.slot (c.h 2) = some r →
      s.body.resolve fl.slot (c.h 3) = some m → r.place ≤ 4 → r.layout ≠ 4 → s.body.accessOk r 0 r.size false = true → r.wr = true →
      bitmapFits r m (poolSlots r).2 = true → s.body.accessOk m 0 (ceilDiv (poolSlots r).2 8) true = true →
      ∃ t p, exec (.cratePoolCreate c) s = .next t ∧ t.fuse = s.fuse ∧ EndsWith s.body t.body fl 0 0 ∧ t.body.pool k = some p ∧
        p.slot = fl.slot ∧ p.base = (poolSlots r).1 ∧ p.n = (poolSlots r).2 ∧ p.quar = [] ∧
        (∀ j, j ≠ k → t.body.pool j = s.body.pool j) ∧
        (if c.b 1 9 = true then SameBytes s.body t.body
         else SameBytesBut s.body t.body m.base (ceilDiv p.n 8) ∧ ∀ i, i < p.n → t.body.slotUsed p i = false)) ∧
    (Dispatched s.body c 0x51 fl → c.b 1 8 = false → (s.body.pool k).isSome = true → ∃ t, exec (.cratePoolCreate c) s = .next t ∧
      EndsWith s.body t.body fl 0x11 0 ∧ SameBytes s.body t.body ∧ SameRegsBut s.body t.body [] ∧ t.body.crates.pools = s.body.crates.pools) ∧
    (∀ p, Dispatched s.body c 0x51 fl → c.b 1 8 = true → s.body.pool k = some p → p.slot = fl.slot → p.quar = [] →
      (∀ i, i < p.n → s.body.slotUsed p i = false) → ∃ t, exec (.cratePoolDestroy c) s = .next t ∧ EndsWith s.body t.body fl 0 0 ∧
        t.body.pool k = none ∧ (∀ j, j ≠ k → t.body.pool j = s.body.pool j) ∧ SameBytes s.body t.body ∧
        SameRegsBut s.body t.body [(Reg.hmPoolStat k).addr]) ∧
    (∀ p i, Dispatched s.body c 0x51 fl → c.b 1 8 = true → s.body.pool k = some p → i < p.n → s.body.slotUsed p i = true →
      ∃ t, exec (.cratePoolDestroy c) s = .next t ∧ EndsWith s.body t.body fl 0x11 0 ∧ SameBytes s.body t.body ∧
        t.body.crates.pools = s.body.crates.pools) ∧
    (∀ pool slot p, s.body.pool pool = some p → slot ∈ p.quar → s.body.crates.reserved = [] →
      ∃ t, exec (.slotQuarantineEnd pool slot) s = .next t ∧ SameBytes s.body t.body ∧
        t.body.pool pool = some { p with quar := p.quar.filter fun i => decide (i ≠ slot) } ∧
        (∀ l ∈ t.body.crates.loads, l.addr ≠ p.addr slot) ∧ SameRegsBut s.body t.body [(Reg.hmPoolStat pool).addr]) ∧
    (∀ pool slot p, s.body.pool pool = some p → slot ∉ p.quar → exec (.slotQuarantineEnd pool slot) s = .next s)

/-- A fresh Crate Map holds no Crate, closing it drops it, and PRIO changes priorities alone. Where memory holds no uncorrectable
sector and no mirror: CRATE_MAP that opens a free number without RESUME, its pools and table good, ends DONE; the map stands, every
entry is NONE with the map's priority, every stream record is zero, and only the table's bytes change. An open of a number that is
open ends with HOLD_RANGE. A close with KEEP of the context's own map that no command reads ends DONE, the map is gone and no byte
changes; while a command reads it, the close waits. CRATE_CTL PRIO sets the priority of each entry of its range, keeps its state,
slot and age, and ends DONE. (R209, R211, R216, R222, R223) -/
def Obligations.CrateMapsAndEntries : Prop :=
  ∀ (s : State) (c : Cmd) (fl : Flight) (k : Nat), k = c.f 1 11 0 → PlainMemory s.body →
    (∀ m e, Dispatched s.body c 0x50 fl → c.b 1 12 = false → c.b 1 14 = false → s.body.crateMap k = none →
      m = { (mapOf c fl.slot).1 with table := e.base } → s.body.poolsOk (mapOf c fl.slot).1 = true →
      s.body.access fl.slot (c.h 2) 0 m.bytes true = .ok e → 1 ≤ e.place → e.place ≤ 3 → e.rd = true → e.layout ≠ 4 →
      ∃ t, exec (.crateMapOpen c) s = .next t ∧ t.fuse = s.fuse ∧ EndsWith s.body t.body fl 0 0 ∧ t.body.crateMap k = some m ∧
        (∀ j, j ≠ k → t.body.crateMap j = s.body.crateMap j) ∧ SameBytesBut s.body t.body e.base m.bytes ∧
        (∀ i, i < m.nstream → t.body.streamRec m i = ⟨0, 0, 0, 0⟩) ∧
        ∀ i n, i < m.nstream → n < m.nc → t.body.crateEnt m i n = ⟨0, m.prio, 0, 0⟩) ∧
    (Dispatched s.body c 0x50 fl → c.b 1 12 = false → (s.body.crateMap k).isSome = true → ∃ t, exec (.crateMapOpen c) s = .next t ∧
      EndsWith s.body t.body fl 0x11 0 ∧ SameBytes s.body t.body ∧ t.body.crates.maps = s.body.crates.maps) ∧
    (∀ m, Dispatched s.body c 0x50 fl → c.b 1 12 = true → s.body.crateMap k = some m → m.slot = fl.slot →
      (s.body.mapBusy fl.slot fl.uid k = true → exec (.crateMapClose c) s = .next s) ∧
      (s.body.mapBusy fl.slot fl.uid k = false → c.b 1 13 = true → ∃ t, exec (.crateMapClose c) s = .next t ∧
        EndsWith s.body t.body fl 0 0 ∧ t.body.crateMap k = none ∧ SameBytes s.body t.body ∧ SameRegsBut s.body t.body [])) ∧
    (∀ m, Dispatched s.body c 0x53 fl → c.f 1 45 44 = 2 → s.body.crateMap k = some m → m.slot = fl.slot →
      ∃ t, exec (.crateCtlPrio c) s = .next t ∧ t.fuse = s.fuse ∧ EndsWith s.body t.body fl 0 0 ∧
        t.body.crates.maps = s.body.crates.maps ∧
        ∀ i n, i < m.nstream → n < m.nc → t.body.crateEnt m i n =
          if (ctlRange c m).1 ≤ i ∧ i < (ctlRange c m).1 + (ctlRange c m).2.1 ∧ (ctlRange c m).2.2.1 ≤ n ∧
              n < (ctlRange c m).2.2.1 + (ctlRange c m).2.2.2.1 then
            { s.body.crateEnt m i n with prio := c.f 1 49 46 }
          else s.body.crateEnt m i n)

/-- Appends, moves, drops and rebuilds begin when their map and buffers are good. On an open map of its own context: an APRON_APPEND
with a buffer that may be read, or nothing to append, begins with its clamped streams and tokens; a CRATE_CTL MOVE goes through its
entries in order; a DROP drops each and ends; a REBUILD whose length is that of its recipe, without Crate commands in it, begins its
first step. APRON_NEXT_CRATE, CRATE_COPY_COMPLETE and REBUILD_RECIPE_DONE that name nothing under way change nothing. On a map that
is not open, or is another context's, each command ends with HOLD_RANGE and no byte changes. (R214, R215, R216, R218, R220) -/
def Obligations.CrateCommandsProceed : Prop :=
  ∀ (s : State) (c : Cmd) (fl : Flight) (k : Nat), k = c.f 1 11 0 → fl.resumed = false →
    (∀ m a, Dispatched s.body c 0x52 fl → s.body.crateMap k = some m → m.slot = fl.slot → a = s.body.appendArgs c m →
      2 * a.2.1 * a.2.2.1 * m.d * m.eb = 0 → ∃ t g, exec (.apronAppend c) s = .next t ∧
        g = { fl with handles := [], started := true, progress := [0, 0, 0, a.1, a.2.1, a.2.2.1] } ∧
        t.body = ((s.body.clampCmd fl a.2.2.2).start g).appendGo g) ∧
    (∀ m a e, Dispatched s.body c 0x52 fl → s.body.crateMap k = some m → m.slot = fl.slot → a = s.body.appendArgs c m →
      2 * a.2.1 * a.2.2.1 * m.d * m.eb ≠ 0 →
      s.body.accessHere fl.slot (c.h 2) (32 * c.f 2 37 18) (2 * a.2.1 * a.2.2.1 * m.d * m.eb) false = .ok e →
      ∃ t g, exec (.apronAppend c) s = .next t ∧
        g = { fl with handles := [c.h 2 / 65536], started := true, progress := [0, 0, 0, a.1, a.2.1, a.2.2.1] } ∧
        t.body = ((s.body.clampCmd fl a.2.2.2).start g).appendGo g) ∧
    (∀ m, Dispatched s.body c 0x53 fl → s.body.crateMap k = some m → m.slot = fl.slot →
      (c.f 1 45 44 = 0 → ∃ t g, exec (.crateCtlMove c) s = .next t ∧ g = { fl with started := true, progress := [0, 0, 0] } ∧
        t.body = ((s.body.clampCmd fl (ctlRange c m).2.2.2.2).start g).moveGo g) ∧
      (c.f 1 45 44 = 1 → s.body.crates.moves = [] → ∃ t, exec (.crateCtlDrop c) s = .next t ∧ EndsWith s.body t.body fl 0 0)) ∧
    (∀ m e rec_ used, Dispatched s.body c 0x54 fl → (rec_, used) = recipeOf c (c.f 1 55 48) 1 →
      legalLength 0x54 c.length.toNat = 1 + used → (∀ x ∈ rec_, x.1 < 0x50 ∨ 0x54 < x.1) → s.body.crateMap k = some m → m.slot = fl.slot →
      (s.body.mapPool m (c.f 1 45 44)).isSome = true →
      s.body.accessHere fl.slot (c.h 3) (32 * c.f 3 37 18) (2 * (ctlRange c m).2.1 * (ctlRange c m).2.2.2.1 * m.t * m.d * m.eb) false = .ok e →
      ∃ t b' g r, exec (.rebuild c) s = .next t ∧ g = { fl with handles := [c.h 3 / 65536], started := true, progress := [0] } ∧
        r = ({ fl := g, left := rec_, cur := none, items := [] } : Rebuild) ∧ t.body = Body.rebuildGo b' g ∧
        b'.crates.rebuilds = s.body.crates.rebuilds ++ [r] ∧ SameBytes s.body b') ∧
    ((s.body.crateMap k = none ∨ ∃ m, s.body.crateMap k = some m ∧ m.slot ≠ fl.slot) →
      ∀ i opc, (i, opc) ∈ [(Instr.apronAppend c, 0x52), (if c.f 1 45 44 = 0 then .crateCtlMove c else if c.f 1 45 44 = 1 then .crateCtlDrop c else .crateCtlPrio c, 0x53)] →
      Dispatched s.body c opc fl → ∃ t, exec i s = .next t ∧ EndsWith s.body t.body fl 0x11 0 ∧ SameBytes s.body t.body ∧ SameRegsBut s.body t.body []) ∧
    (∀ map stream, s.body.crateMap map = none → exec (.apronNextCrate map stream) s = .next s) ∧
    (∀ map stream m, s.body.crateMap map = some m → s.body.hm.flights = [] → ∃ t, exec (.apronNextCrate map stream) s = .next t ∧
      t.body = { s.body with crates := t.body.crates } ∧ ∀ l ∈ t.body.crates.loads, l.addr ≠ (s.body.streamRec m stream).apron) ∧
    (∀ map stream crate, s.body.crates.moves = [] → exec (.crateCopyComplete map stream crate) s = .next s) ∧
    (∀ map stream crate x r m g p, s.body.tiers.badSectors = [] → s.body.crates.moves = x :: r → x.map = map → x.stream = stream →
      x.crate = crate → s.body.crateMap map = some m → s.body.flight x.uid = some g → s.body.pool x.pool = some p →
      ∃ t b', exec (.crateCopyComplete map stream crate) s = .next t ∧
        b' = (Body.copyCrate { s.body with crates.moves := s.body.crates.moves.filter (fun y => decide (y ≠ x)) } g x.src x.dst).2 ∧
        t.body = ((b'.placeEntry m stream crate x.pool ((p.index x.dst).getD 0)).releaseSlot m x.src).moveCheck g.uid) ∧
    (∀ wq tag, s.body.crates.rebuilds = [] → exec (.rebuildRecipeDone wq tag) s = .next s) ∧
    (∀ wq tag r, s.body.crates.rebuilds = [r] → r.fl.cmd.wq = wq → r.fl.cmd.tag = tag → r.cur = some 9 → s.body.flight r.fl.uid = some fl →
      (∀ x ∈ s.body.hm.flights, x.uid ≠ 9) → (∀ x ∈ s.body.hm.ended, x.fl.uid ≠ 9) → (s.body.info r.fl.slot).saved = [] →
      ∃ t x, exec (.rebuildRecipeDone wq tag) s = .next t ∧ x = { r with cur := none } ∧
        t.body = if r.status ≠ 0 then s.body.rebuildFail r r.status none else ({ s.body with crates.rebuilds := [x] } : Body).rebuildNext x)

/-- FY_STREAM opens a free stream, RECONF changes its live fields alone, and CLOSE ends its queue. Where memory holds no
uncorrectable sector and no mirror: FY_STREAM that opens a free stream, with its egress queue pair, reference store and ring good,
ends DONE; the stream stands OPEN with the clamped fields for the command's context, the first 64 bytes of the ring are 0, and no
byte outside the reference store and those 64 changes. On an open stream it ends with HOLD_RANGE. RECONF of the context's own stream
replaces the live fields and no other. CLOSE with a frame in a pipe waits; with none, the frames queued end with ABORTED_BY_HOST in
order, then the CLOSE ends DONE and the stream is free. On a stream not open, or another context's, RECONF and CLOSE end with
HOLD_RANGE and change nothing. (R243, R245, R246, R249, R250) -/
def Obligations.FerryStreamsOpenAndClose : Prop :=
  ∀ (s : State) (c : Cmd) (fl : Flight) (k : Nat), k = c.f 1 7 0 → PlainMemory s.body → Dispatched s.body c 0x58 fl →
    (∀ fx n1 lv n2 r g, c.b 1 8 = false → c.b 1 9 = false → (fx, n1) = fyFixedOf c → (lv, n2) = fyLiveOf c fx.hevc fx.depth10 →
      s.body.stream k = none → s.body.egressOk fl.slot lv = true →
      s.body.fyEntry fl.slot fx.refH 0 (refSlots fx * frameBytes fx) true = .ok r → s.body.fyEntry fl.slot fx.ringH 0 96 true = .ok g →
      r.rd = true → g.rd = true →
      ∃ t, exec (.fyStreamOpen c) s = .next t ∧ t.fuse = s.fuse ∧ EndsWith s.body t.body fl 0 0 ∧
        t.body.stream k = some { slot := fl.slot, fixed := fx, live := lv } ∧ (∀ j, j ≠ k → t.body.stream j = s.body.stream j) ∧
        t.body.getF (.fyStreamStat k) Fld.fyStreamStatState = 1 ∧ t.body.getF (.fyStreamStat k) Fld.fyStreamStatCtx = c.ctx.toNat ∧
        t.body.getF (.fyStreamStat k) Fld.fyStreamStatVbvMiss = 0 ∧ t.body.getF (.fyStreamStat k) Fld.fyStreamStatBsErr = 0 ∧
        (∀ i, i < 64 → t.body.byte (g.base + i) = 0) ∧
        (∀ a, (a < r.base ∨ r.base + refSlots fx * frameBytes fx ≤ a) → (a < g.base ∨ g.base + 64 ≤ a) → t.body.byte a = s.body.byte a) ∧
        SameRegsBut s.body t.body [(Reg.fyStreamStat k).addr]) ∧
    (c.b 1 8 = false → c.b 1 9 = false → (s.body.stream k).isSome = true → ∃ t, exec (.fyStreamOpen c) s = .next t ∧ t.fuse = s.fuse ∧
      EndsWith s.body t.body fl 0x11 0 ∧ SameBytes s.body t.body ∧ SameRegsBut s.body t.body [] ∧ t.body.ferry = s.body.ferry) ∧
    (∀ x, c.b 1 8 = false → c.b 1 9 = true → s.body.stream k = some x → x.slot = fl.slot →
      s.body.egressOk fl.slot (fyLiveOf c x.fixed.hevc x.fixed.depth10).1 = true →
      ∃ t, exec (.fyStreamReconf c) s = .next t ∧ t.fuse = s.fuse ∧ EndsWith s.body t.body fl 0 0 ∧
        t.body.stream k = some { x with live := (fyLiveOf c x.fixed.hevc x.fixed.depth10).1 } ∧
        (∀ j, j ≠ k → t.body.stream j = s.body.stream j) ∧ t.body.ferry.pipes = s.body.ferry.pipes ∧ SameBytes s.body t.body ∧
        SameRegsBut s.body t.body []) ∧
    (∀ x, c.b 1 8 = true → s.body.stream k = some x → x.slot = fl.slot → x.closing = none →
      (s.body.inPipe k = true → ∃ t, exec (.fyStreamClose c) s = .next t ∧ t.fuse = s.fuse ∧ StaysInFlight s.body t.body fl ∧
        t.body.stream k = some { x with closing := some { fl with started := true } } ∧ (∀ j, j ≠ k → t.body.stream j = s.body.stream j) ∧
        SameBytes s.body t.body ∧ t.body.regs = s.body.regs) ∧
      (s.body.inPipe k = false → ∃ t, exec (.fyStreamClose c) s = .next t ∧ t.fuse = s.fuse ∧ t.body.stream k = none ∧
        (∀ j, j ≠ k → t.body.stream j = s.body.stream j) ∧
        (t.body.hm.ended.map fun e => (e.fl.uid, e.status)) =
          (s.body.hm.ended.map fun e => (e.fl.uid, e.status)) ++ (x.queue.map fun q => (q.uid, 0x41)) ++ [(fl.uid, 0)] ∧
        (∀ f ∈ t.body.hm.flights, f.uid ≠ fl.uid ∧ ∀ q ∈ x.queue, f.uid ≠ q.uid) ∧
        t.body.getF (.fyStreamStat k) Fld.fyStreamStatState = 0 ∧ SameBytes s.body t.body ∧
        SameRegsBut s.body t.body [(Reg.fyStreamStat k).addr])) ∧
    ((s.body.stream k = none ∨ ∃ x, s.body.stream k = some x ∧ x.slot ≠ fl.slot) → c.b 1 8 = true ∨ c.b 1 9 = true →
      ∃ t, exec (if c.b 1 8 = true then .fyStreamClose c else .fyStreamReconf c) s = .next t ∧ t.fuse = s.fuse ∧
        EndsWith s.body t.body fl 0x11 0 ∧ SameBytes s.body t.body ∧ SameRegsBut s.body t.body [] ∧ t.body.ferry = s.body.ferry)

/-- Coding commands join their stream's queue, pipes take frames in order, and records go to the ring. FY_ENCODE and FY_DECODE of
the context's own stream of that kind, with their buffer good, and their FLUSH, join the stream's queue and stay in flight; so does
FY_SOUND join the sounds. On a stream not open, or of the other kind, each ends with HOLD_RANGE. PIPE_TAKE_FRAME changes nothing
with its pipe busy or nothing to take; a free pipe takes the first frame in order, and a frame whose store or ring no longer
resolves ends with HANDLE_STALE. A FLUSH of an encoder that holds nothing ends DONE, its pipe free and FRAMES one more. RING_RECORD
with nothing to write changes nothing; with room and no egress it writes the record at WR and moves WR past it. EGRESS_ACK of a
stream without records in flight changes nothing; otherwise RD moves past the oldest. (R247, R249, R250, R251, R252, R257, R263) -/
def Obligations.FerryFramesQueue : Prop :=
  ∀ (s : State) (c : Cmd) (fl : Flight) (k : Nat), k = c.f 1 7 0 →
    (∀ x i opc hs, s.body.stream k = some x → x.slot = fl.slot → x.closing = none → Dispatched s.body c opc fl →
      (∃ e, (i = Instr.fyEncode c ∧ opc = 0x59 ∧ x.fixed.decode = false ∧ c.b 1 9 = false ∧ hs = [c.h 2 / 65536] ∧
          s.body.fyEntry fl.slot (c.h 2) (32 * c.f 2 37 18) (picBytes (picShape c x.fixed).1 (picShape c x.fixed).2.1 x.fixed.height) false = .ok e) ∨
        (i = .fyEncodeFlush c ∧ opc = 0x59 ∧ x.fixed.decode = false ∧ c.b 1 9 = true ∧ hs = fl.handles) ∨
        (i = .fyDecode c ∧ opc = 0x5A ∧ x.fixed.decode = true ∧ c.b 1 8 = false ∧ hs = [c.h 2 / 65536] ∧
          s.body.fyEntry fl.slot (c.h 2) (c.f 3 47 0) (c.f 4 31 0) false = .ok e) ∨
        (i = .fyDecodeFlush c ∧ opc = 0x5A ∧ x.fixed.decode = true ∧ c.b 1 8 = true ∧ hs = fl.handles)) →
      ∃ t, exec i s = .next t ∧ t.fuse = s.fuse ∧ StaysInFlight s.body t.body fl ∧
        t.body.stream k = some { x with queue := x.queue ++ [{ fl with handles := hs, started := true }] } ∧
        (∀ j, j ≠ k → t.body.stream j = s.body.stream j) ∧ SameBytes s.body t.body ∧ SameRegsBut s.body t.body []) ∧
    (∀ i opc, (i, opc) ∈ [(if c.b 1 9 = true then Instr.fyEncodeFlush c else .fyEncode c, 0x59),
        (if c.b 1 8 = true then .fyDecodeFlush c else .fyDecode c, 0x5A)] → Dispatched s.body c opc fl →
      (s.body.stream k = none ∨ ∃ x, s.body.stream k = some x ∧ (x.slot ≠ fl.slot ∨ x.fixed.decode = decide (opc = 0x59))) →
      ∃ t, exec i s = .next t ∧ t.fuse = s.fuse ∧ EndsWith s.body t.body fl 0x11 0 ∧ SameBytes s.body t.body ∧ SameRegsBut s.body t.body [] ∧
        t.body.ferry = s.body.ferry) ∧
    (Dispatched s.body c 0x5B fl → fl.resumed = false → fl.progress = [] →
      (∀ st h, s.body.soundStart fl = .error (st, h) → ∃ t, exec (.fySound c) s = .next t ∧ EndsWith s.body t.body fl st 0 ∧
        SameBytes s.body t.body ∧ SameRegsBut s.body t.body [] ∧ t.body.ferry = s.body.ferry) ∧
      (∀ cur prev a n, s.body.soundStart fl = .ok (cur, prev, a, n) → ∃ t x, exec (.fySound c) s = .next t ∧ t.fuse = s.fuse ∧
        StaysInFlight s.body t.body fl ∧ t.body.ferry = { s.body.ferry with sounds := s.body.ferry.sounds ++ [x] } ∧ x.cur = cur ∧
        x.prev = prev ∧ x.left = List.range (planarF cur) ∧ x.fl.uid = fl.uid ∧ SameBytes s.body t.body ∧ SameRegsBut s.body t.body [])) ∧
    (∀ pipe : Fin 8, (s.body.pipe pipe.val).busy = true ∨ s.body.pipeWork pipe.val = [] → exec (.pipeTakeFrame pipe) s = .next s) ∧
    (∀ (pipe : Fin 8) (pr j u : Nat) (x : FyStream) q l, (s.body.pipe pipe.val).busy = false → bestWork (s.body.pipeWork pipe.val) = some (pr, j, u) →
      j ≠ 256 → s.body.stream j = some x → x.queue = q :: l →
      (s.body.resolve x.slot x.fixed.refH = none → ∃ t, exec (.pipeTakeFrame pipe) s = .next t ∧ EndsWith s.body t.body q 0x12 0 ∧
        t.body.stream j = some { x with queue := l } ∧ SameBytes s.body t.body) ∧
      (∀ r g f, s.body.resolve x.slot x.fixed.refH = some r → s.body.resolve x.slot x.fixed.ringH = some g → x.fixed.decode = false →
        q.cmd.b 1 9 = true → x.held = [] → x.closing = none → pipe.val < s.body.ferry.pipes.length → s.body.flight q.uid = some f → f.amaxes = [] →
        f.ecc = false → ∃ t, exec (.pipeTakeFrame pipe) s = .next t ∧ EndsWith s.body t.body f 0 0 ∧ (t.body.pipe pipe.val).busy = false ∧
          t.body.getF (.fyPipeStat pipe.val) Fld.fyPipeStatFrames = min (s.body.getF (.fyPipeStat pipe.val) Fld.fyPipeStatFrames + 1) (2 ^ 24 - 1))) ∧
    (∀ pipe : Fin 8, (s.body.pipe pipe.val).recs = [] → exec (.ringRecord pipe) s = .next s) ∧
    (∀ (pipe : Fin 8) r l x e (wr rd : Nat), PlainMemory s.body → (s.body.pipe pipe.val).recs = r :: l →
      s.body.stream (s.body.pipe pipe.val).stream = some x → x.live.egress = false → s.body.resolve x.slot x.fixed.ringH = some e →
      wr = s.body.le e.base 8 → rd = s.body.le (e.base + 8) 8 → rd % 32 = 0 → rd < e.size - 64 → wr + r.len ≤ e.size - 64 →
      r.len ≤ (rd + 2 * (e.size - 64) - wr - 1) % (e.size - 64) → e.size < 2 ^ 64 →
      ∃ t, exec (.ringRecord pipe) s = .next t ∧ t.fuse = s.fuse ∧
        t.body.bytes (e.base + 64 + wr) r.len = padTo r.len (recHeader (s.body.pipe pipe.val).stream r s.body.now ++ r.payload) ∧
        t.body.le e.base 8 = (wr + r.len) % (e.size - 64) ∧
        ∀ a, (a < e.base ∨ e.base + 8 ≤ a) → (a < e.base + 64 + wr ∨ e.base + 64 + wr + r.len ≤ a) → t.body.byte a = s.body.byte a) ∧
    (∀ stream : Fin 256, (∀ x, s.body.stream stream.val = some x → x.egressOut = []) → exec (.egressAck stream) s = .next s) ∧
    (∀ (stream : Fin 256) x e n l, PlainMemory s.body → s.body.stream stream.val = some x → x.egressOut = n :: l →
      s.body.resolve x.slot x.fixed.ringH = some e → (s.body.qp x.live.qp).unacked = [] → 96 ≤ e.size → e.size < 2 ^ 64 →
      ∃ t, exec (.egressAck stream) s = .next t ∧ t.fuse = s.fuse ∧ t.body.stream stream.val = some { x with egressOut := l } ∧
        t.body.le (e.base + 8) 8 = (s.body.le (e.base + 8) 8 + n) % (e.size - 64) ∧ SameBytesBut s.body t.body (e.base + 8) 8)

/-- A Swell block that passes the health tests is conditioned into a word, and one that fails restarts the source. With both sources
held: a healthy source given 1,024 samples without a run of 41 and with fewer than 800 like the first hands its conditioned word to
its consumers and counts it in WORDS; a run of 41 or more counts RCT_FAIL, 800 like the first APT_FAIL, and the source restarts, or
becomes FAILED at the third failure within one second. While it starts up, a good block is one more of its start-up test; after four
SWELL_RESTART_DONE makes it healthy, and before that changes nothing. A FAILED source takes no block. No byte of memory and no other
source changes. (R266, R267, R268) -/
def Obligations.SwellHealthTests : Prop :=
  ∀ (st : State) (s : Fin 2) (x : BitVec 1024) (w : Swell) (last : Bool) (run best : Nat) (recent : List Word) (r : Reg),
    st.body.rnd.swells.length = 2 → w = st.body.swell s.val → (last, run, best) = runs x 1024 0 w.last w.run 0 →
    recent = w.fails.filter (fun t => decide (st.body.now - t.toNat < second)) → r = .rpSwellStat s.val →
    (st.body.swellState s.val = 3 → exec (.swellWord s x) st = .next st) ∧
    (st.body.swellState s.val = 1 → best < 41 → likeFirst x < 800 → w.word = none → Gives (.swellWord s x) st fun t =>
      t.swell s.val = { w with last := last, run := run, word := some (sha384 (beBytes 128 (Config.swellPack x).toNat)) } ∧
      Counted st.body t r Fld.rpSwellStatWords 1 ∧ t.swellState s.val = 1 ∧ t.rnd.ripples = st.body.rnd.ripples ∧
      (∀ k, k ≠ s.val → t.swell k = st.body.swell k) ∧ SameBytes st.body t ∧ SameRegsBut st.body t [r.addr]) ∧
    (st.body.swellState s.val = 1 → (41 ≤ best ∨ 800 ≤ likeFirst x) → Gives (.swellWord s x) st fun t =>
      t.swell s.val = { w with last := last, run := run, fails := recent ++ [st.body.ts], blocks := 0 } ∧
      t.swellState s.val = (if 2 ≤ recent.length then 3 else 2) ∧
      Counted st.body t r Fld.rpSwellStatRctFail (if 41 ≤ best then 1 else 0) ∧
      Counted st.body t r Fld.rpSwellStatAptFail (if 800 ≤ likeFirst x then 1 else 0) ∧
      (∀ k, k ≠ s.val → t.swell k = st.body.swell k) ∧ SameBytes st.body t ∧ SameRegsBut st.body t [r.addr]) ∧
    ((st.body.swellState s.val = 0 ∨ st.body.swellState s.val = 2) → best < 41 → likeFirst x < 800 → Gives (.swellWord s x) st fun t =>
      t.swell s.val = { w with last := last, run := run, blocks := w.blocks + 1 } ∧ t.regs = st.body.regs ∧ SameBytes st.body t) ∧
    ((st.body.swellState s.val = 0 ∨ st.body.swellState s.val = 2) → 4 ≤ w.blocks → Gives (.swellRestartDone s) st fun t =>
      t.swellState s.val = 1 ∧ t.swell s.val = { w with blocks := 0 } ∧ SameBytes st.body t ∧ SameRegsBut st.body t [r.addr]) ∧
    (st.body.swellState s.val = 1 ∨ st.body.swellState s.val = 3 ∨ w.blocks < 4 → exec (.swellRestartDone s) st = .next st)

/-- RIPPLE_RESEED takes the seed held, RP_MIX mixes into every Ripple of the partition, and entropy waits end. RIPPLE_RESEED of a
Ripple that holds no seed changes nothing; of one never seeded it sets its state to the seed XORed with what was mixed in; of one
whose reseed is due it XORs that into the state, or sets it where the XOR is all zero, counting RESEEDS of a Dowel's; a live Ripple
with no reseed due stays. RP_MIX without a Swell word waits; with one, it mixes the seed of its hash into every Ripple of its
partition, and the sampling unit's two with SAMPLER, makes their reseeds due, and stays in flight until they are done.
ENTROPY_TIMEOUT ends a waiting command with ENTROPY_FAIL while both sources are FAILED, and otherwise changes nothing. (R268, R270,
R271) -/
def Obligations.RipplesReseedAndMix : Prop :=
  ∀ (st : State) (c : Cmd) (fl : Flight),
    (∀ (r : Fin 802) (p : Ripple), p = st.body.ripple r.val →
      ((p.seed = none ∨ (p.live = true ∧ p.due = false)) → exec (.rippleReseed r) st = .next st) ∧
      (∀ x z, st.body.rnd.mixes = [] → p.seed = some x → (p.live = false ∨ p.due = true) →
        z = (p.s.zip (words4 (x ^^^ p.mix))).map (fun q => q.1 ^^^ q.2) → Gives (.rippleReseed r) st fun t =>
          t.ripple r.val = { s := if p.live = false ∨ z = [0, 0, 0, 0] then words4 (x ^^^ p.mix) else z, live := true } ∧
          (∀ k, k ≠ r.val → t.ripple k = st.body.ripple k) ∧
          (r.val < 800 → Counted st.body t (.rpDraws (r.val / 4)) Fld.rpDrawsReseeds 1) ∧ SameBytes st.body t ∧
          SameRegsBut st.body t [(Reg.rpDraws (r.val / 4)).addr] ∧ t.hm = st.body.hm)) ∧
    (∀ (k : Nat), k = st.body.sourceFor 1 → Dispatched st.body c 0x5C fl → (st.body.swell k).word = none → Gives (.rpMix c) st fun t =>
      fl.uid ∈ t.rnd.waits ∧ t.hm = st.body.hm ∧ t.rnd.ripples = st.body.rnd.ripples ∧ t.regs = st.body.regs ∧ SameBytes st.body t) ∧
    (∀ (k : Nat) w h rs, k = st.body.sourceFor 1 → Dispatched st.body c 0x5C fl → (st.body.swell k).word = some w → st.body.rnd.swells.length = 2 →
      h = Config.seedOf (sha384 (beBytes 48 w.toNat ++ leBytes 8 (c.w 1).toNat ++ leBytes 2 c.ctx.toNat ++ leBytes 8 st.body.now)) →
      rs = (st.body.quaysOfSlot fl.slot).flatMap (fun q => (List.range 80).map (80 * q + ·)) ++ (if c.b 2 0 = true then [800, 801] else []) →
      rs.Nodup → Gives (.rpMix c) st fun t =>
        (t.swell k).word = none ∧
        (∀ r, t.ripple r = if r ∈ rs then { st.body.ripple r with mix := (st.body.ripple r).mix ^^^ h, due := true } else st.body.ripple r) ∧
        (if rs = [] then EndsWith st.body t fl 0 0 else StaysInFlight st.body t fl ∧ t.rnd.mixes = st.body.rnd.mixes ++ [(fl, rs)]) ∧
        SameBytes st.body t ∧ SameRegsBut st.body t []) ∧
    (∀ (wq : Fin 64) (tag : BitVec 16) (q : Option Flight),
      q = st.body.hm.flights.find? (fun x => decide (x.cmd.wq = wq ∧ x.cmd.tag = tag ∧ x.uid ∈ st.body.rnd.waits)) →
      (q = none ∨ st.body.noEntropy = false → exec (.entropyTimeout wq tag) st = .next st) ∧
      (∀ f, q = some f → st.body.noEntropy = true → Gives (.entropyTimeout wq tag) st fun t =>
        OnlyEnds st.body t f 0x23 0 [] ∧ f.uid ∉ t.rnd.waits))

/-- SAMPLE writes one 16-byte result a row, waits for entropy, and refuses buffers that do not fit. SAMPLE with buffers that may be
accessed: one row of a temperature of 0, its settings in the command, ends DONE, counts ROWS, and writes no byte but the 16 of its
result; a command whose rows are all done ends DONE; a row that needs a draw while no source can give one leaves the command in
flight and waiting at that row. Logits or results that may not be accessed end it with the status of the check, and logits of
another format, or without a local place, with HOLD_RANGE, nothing written. (R268, R274, R275, R276) -/
def Obligations.SampleWritesItsRows : Prop :=
  ∀ (s : State) (c : Cmd) (fl : Flight) (rows lgn : Nat), Dispatched s.body c 0x5D fl → rows = c.f 3 15 0 + 1 →
    lgn = (rows - 1) * c.f 5 47 0 + (c.f 3 35 16 + 1) * ((s.body.resolve fl.slot (c.h 1)).map fun e => elemBits e.fmt / 8).getD 0 →
    (∀ lg out par, s.body.access fl.slot (c.h 1) (32 * c.f 1 37 18) lgn false = .ok lg →
      s.body.access fl.slot (c.h 2) (32 * c.f 2 37 18) (16 * rows) true = .ok out →
      (c.h 6 = 0 ∧ par = none ∨ ∃ e, c.h 6 ≠ 0 ∧ par = some e ∧ s.body.access fl.slot (c.h 6) 0 (16 * rows) false = .ok e) →
      lg.fmt ∈ [8, 9, 10] → lg.place ∈ [1, 2, 3] → lg.layout ≠ 4 → out.place ≠ 5 → out.layout ≠ 4 →
      (PlainMemory s.body → par = none → rows = 1 → c.f 4 31 0 = 0 → fl.progress = [] → fl.ecc = false → Gives (.sample c) s fun t =>
        EndsWith s.body t fl 0 0 ∧ Counted s.body t .rpSampleStat Fld.rpSampleStatRows 1 ∧
        SameBytesBut s.body t (out.base + 32 * c.f 2 37 18) 16 ∧ fl.uid ∉ t.rnd.waits) ∧
      (∀ b' r ecc, s.body.sampleRows fl lg out par (rows - fl.progress.getD 0 0) (fl.progress.getD 0 0) (decide (fl.progress.getD 1 0 = 1)) =
          (b', some r, ecc) → Gives (.sample c) s fun t => fl.uid ∈ t.rnd.waits ∧ t.hm.ended = b'.hm.ended ∧
            t.hm.flights = (b'.keep fl [r, if ecc = true then 1 else 0]).hm.flights ∧ SameBytes b' t ∧ t.regs = b'.regs) ∧
      (∀ b' ecc, s.body.sampleRows fl lg out par (rows - fl.progress.getD 0 0) (fl.progress.getD 0 0) (decide (fl.progress.getD 1 0 = 1)) =
          (b', none, ecc) → Gives (.sample c) s fun t => EndsWith b' t fl (if ecc = true then 0x20 else 0) 0 ∧ SameBytes b' t)) ∧
    (∀ x, s.body.access fl.slot (c.h 1) (32 * c.f 1 37 18) lgn false = .error x → Gives (.sample c) s fun t => OnlyEnds s.body t fl x 0 []) ∧
    (∀ lg out, s.body.access fl.slot (c.h 1) (32 * c.f 1 37 18) lgn false = .ok lg →
      s.body.access fl.slot (c.h 2) (32 * c.f 2 37 18) (16 * rows) true = .ok out → c.h 6 = 0 →
      (lg.fmt ∉ [8, 9, 10] ∨ lg.place ∉ [1, 2, 3] ∨ out.place = 5 ∨ lg.layout = 4 ∨ out.layout = 4) →
      Gives (.sample c) s fun t => OnlyEnds s.body t fl 0x11 0 [])

/-- A ready head is dispatched, one without privilege ends, and completions and SUMMARY records follow. COMMAND_DISPATCH changes
nothing outside RUN or with the core stopped, nor where no queue has a head, nor where the only head must wait. Where one queue
alone has a head: one that fails the checks of its context or of PRIV ends with NOT_PRIVILEGED (0x60); one that is ready is put in
flight with the next number, and HEAD moves past its entries. COMMAND_COMPLETE takes the oldest ended command: one that ended DONE
without CPL writes no record; one that asks for its record has it written to its ring where that has room, and PI moves on; without
room it is coalesced. SUMMARY_RECORD writes the record due where the ring has room, and otherwise changes nothing. (R286, R289,
R290) -/
def Obligations.DispatchAndCompletion : Prop :=
  ∀ (s : State),
    (s.body.boot.phase ≠ .run ∨ s.body.hm.sramDead = true → exec .commandDispatch s = .next s) ∧
    (s.body.hm.skips = [] → (∀ n, s.body.headOf n = none) → exec .commandDispatch s = .next s) ∧
    (∀ (n : Fin 64) (h : Head), s.body.boot.phase = .run → s.body.hm.sramDead = false → s.body.hm.skips = [] → s.body.headOf n = some h →
      h.back = none → h.opc ≠ 0x19 → (∀ m, m ≠ n → s.body.headOf m = none) → (∀ k, (s.body.info k).step = none) →
      (s.body.headAllowed n h = true → s.body.headReady n h false = none → exec .commandDispatch s = .next s) ∧
      (s.body.headAllowed n h = false → Gives .commandDispatch s fun t => ∃ fl : Flight, fl.uid = s.body.hm.nextUid ∧ fl.cmd = h.cmd ∧
        EndsWith s.body t fl 0x60 0 ∧ SameBytes s.body t ∧ t.getF (.hmWqPtr n.val) Fld.hmWqPtrHead =
          (s.body.getF (.hmWqPtr n.val) Fld.hmWqPtrHead + h.cmd.length.toNat) % 8192) ∧
      (∀ k, s.body.headAllowed n h = true → s.body.headReady n h false = some k → (s.body.info k).eccPending = false → Gives .commandDispatch s fun t =>
        ∃ fl : Flight, t.hm.flights = s.body.hm.flights ++ [fl] ∧ fl.uid = s.body.hm.nextUid ∧ fl.cmd = h.cmd ∧ fl.opc = h.opc ∧
          fl.slot = k ∧ fl.started = false ∧ t.hm.nextUid = s.body.hm.nextUid + 1 ∧ t.hm.ended = s.body.hm.ended ∧
          t.getF (.hmWqPtr n.val) Fld.hmWqPtrHead = (s.body.getF (.hmWqPtr n.val) Fld.hmWqPtrHead + h.cmd.length.toNat) % 8192 ∧
          SameBytes s.body t)) ∧
    (s.body.hm.ended = [] → exec .commandComplete s = .next s) ∧
    (∀ e r (n : Nat) (c : CqRing), s.body.hm.ended = e :: r → n = e.fl.cmd.wq.val → c = s.body.cq n → s.body.saving e.fl.slot = false →
      (s.body.info e.fl.slot).step = none →
      (e.status = 0 → e.fl.cmd.cpl = false → Gives .commandComplete s fun t => t.hm.ended = r ∧ t.hm.flights = s.body.hm.flights ∧
        t.out = s.body.out ∧ t.eth = s.body.eth ∧ SameBytes s.body t ∧
        SameRegsBut s.body t [(Reg.hmWqPtr n).addr, (Reg.hmCtxStat e.fl.slot).addr]) ∧
      (∀ q, (e.status ≠ 0 ∨ e.fl.cmd.cpl = true) → s.body.flag (.hmCplOvf n) Fld.hmCplOvfSummary = false → s.body.cqRoom n = true →
        c.qp = some q → Gives .commandComplete s fun t => ∃ m, t.hm.ended = r ∧ t.out = s.body.out ++ [m] ∧ m.kind = .rdmaWrite ∧
          m.nums.getD 0 0 = q ∧ m.nums.getD 2 0 = c.ringVa + 32 * (c.pi % 2 ^ c.log2) ∧ m.nums.getD 3 0 = c.rkey ∧
          m.data = cplRecord e.fl.cmd.tag.toNat e.status ((if e.fl.resumed = true then 1 else 0) + (if e.errRec = true then 4 else 0))
            e.fl.cmd.ctx.toNat n e.fl.opc e.result e.fl.epochFirst e.fl.epochLast s.body.ts ∧
          t.cq n = { c with pi := (c.pi + 1) % 2 ^ 32 } ∧ SameBytes s.body t) ∧
      ((e.status ≠ 0 ∨ e.fl.cmd.cpl = true) → s.body.cqRoom n = false → Gives .commandComplete s fun t => t.hm.ended = r ∧
        t.out = s.body.out ∧ t.flag (.hmCplOvf n) Fld.hmCplOvfSummary = true ∧ Counted s.body t (.hmCplOvf n) Fld.hmCplOvfCount 1 ∧
        (e.status ≠ 0 → s.body.getF (.hmCplOvf n) Fld.hmCplOvfFirstErr = 0 → e.status < 256 →
          t.getF (.hmCplOvf n) Fld.hmCplOvfFirstErr = e.status) ∧ t.cq n = { c with lastTag := e.fl.cmd.tag.toNat, lastOpc := e.fl.opc } ∧
        SameBytes s.body t)) ∧
    (∀ wq : Fin 64, s.body.flag (.hmCplOvf wq.val) Fld.hmCplOvfSummary = false ∨ s.body.cqRoom wq.val = false →
      exec (.summaryRecord wq) s = .next s) ∧
    (∀ wq : Fin 64, s.body.flag (.hmCplOvf wq.val) Fld.hmCplOvfSummary = true → s.body.cqRoom wq.val = true → Gives (.summaryRecord wq) s fun t =>
      ∃ m, t.out = s.body.out ++ [m] ∧ m.data.getD 3 0 = 2 ∧
        (t.cq wq.val).pi = ((s.body.cq wq.val).pi + 1) % 2 ^ 32 ∧ t.reg (.hmCplOvf wq.val) = Reg.dflt (.hmCplOvf wq.val) ∧ SameBytes s.body t)

/-- The scalar-register commands write, combine, wait for and copy the context's registers. With no SREG_WAIT waiting: SREG_WRITE
stores its clamped count of values from FIRST on and changes no other register; SREG_OP stores the sum, AND, OR, XOR, maximum,
minimum, the value, or the value where the register equals COMPARE, and RESULT is the old value. Where one waits and the write meets
it, it ends DONE too. SREG_WAIT whose condition holds ends DONE, and otherwise waits with its TIMEOUT; SREG_WAIT_TIMEOUT ends the
queue's timed wait with TIMEOUT (0x42). SREG_XFER copies registers to memory or back, 8 bytes each, and no other byte or register
changes; one whose buffer may not be accessed ends with the status of the check. NOP and a dispatched CTX_FENCE end DONE and do
nothing else. (R281, R288, R291, R292) -/
def Obligations.ScalarRegisterCommands : Prop :=
  ∀ (s : State) (c : Cmd) (fl : Flight) (first n : Nat) (old x y : Word), first = c.f 1 7 0 → old = s.body.sreg fl.slot first → x = c.w 2 → y = c.w 3 →
    (Dispatched s.body c 0x00 fl → Gives (.nop c) s fun t => OnlyEnds s.body t fl 0 0 [] ∧ t.hm.sregs = s.body.hm.sregs) ∧
    (Dispatched s.body c 0x01 fl → Gives (.ctxFence c) s fun t => OnlyEnds s.body t fl 0 0 [] ∧ t.hm.sregs = s.body.hm.sregs) ∧
    (n = min (min 6 (c.f 1 10 8 + 1)) (256 - first) → Dispatched s.body c 0x08 fl → s.body.hm.waits = [] → Gives (.sregWrite c) s fun t =>
      OnlyEnds s.body t fl 0 0 [] ∧ (∀ i, i < n → t.sreg fl.slot (first + i) = c.w (2 + i)) ∧
      ∀ k r, r < 256 → (k ≠ fl.slot ∨ r < first ∨ first + n ≤ r) → t.sreg k r = s.body.sreg k r) ∧
    (∀ w u, Dispatched s.body c 0x08 fl → s.body.hm.waits = [(w, u)] → w.slot = fl.slot → w.cmd.f 1 7 0 = first → waitHolds (w.cmd.f 1 10 8) x (w.cmd.w 2) = true →
      Gives (.sregWrite c) s fun t => t.hm.waits = [] ∧
        (t.hm.ended.map fun e => (e.fl.uid, e.status)) = (s.body.hm.ended.map fun e => (e.fl.uid, e.status)) ++ [(w.uid, 0), (fl.uid, 0)]) ∧
    (Dispatched s.body c 0x09 fl → s.body.hm.waits = [] → ∀ v, (c.f 1 10 8, v) ∈ [(0, old + x), (1, old &&& x), (2, old ||| x), (3, old ^^^ x),
        (4, if old.toNat < x.toNat then x else old), (5, if x.toNat < old.toNat then x else old), (6, x), (7, if old = y then x else old)] →
      Gives (.sregOp c) s fun t => OnlyEnds s.body t fl 0 old.toNat [] ∧ t.sreg fl.slot first = v ∧
        ∀ k r, r < 256 → (k ≠ fl.slot ∨ r ≠ first) → t.sreg k r = s.body.sreg k r) ∧
    (Dispatched s.body c 0x0A fl → waitHolds (c.f 1 10 8) old x = true → Gives (.sregWait c) s fun t => OnlyEnds s.body t fl 0 0 [] ∧
      t.hm.waits = s.body.hm.waits ∧ t.hm.sregs = s.body.hm.sregs) ∧
    (Dispatched s.body c 0x0A fl → waitHolds (c.f 1 10 8) old x = false → Gives (.sregWait c) s fun t => StaysInFlight s.body t fl ∧
      t.hm.waits = s.body.hm.waits ++ [({ fl with started := true }, BitVec.ofNat 64 (1000 * c.f 3 31 0))] ∧
      t.hm.sregs = s.body.hm.sregs ∧ SameBytes s.body t ∧ SameRegsBut s.body t []) ∧
    (∀ (wq : Fin 64), (∀ p ∈ s.body.hm.waits, p.1.cmd.wq ≠ wq ∨ p.2 = 0) → exec (.sregWaitTimeout wq) s = .next s) ∧
    (∀ (wq : Fin 64) w u l, s.body.hm.waits = (w, u) :: l → w.cmd.wq = wq → u ≠ 0 → Gives (.sregWaitTimeout wq) s fun t =>
      OnlyEnds s.body t w 0x42 0 [] ∧ t.hm.sregs = s.body.hm.sregs ∧ ∀ p ∈ t.hm.waits, p.1.uid ≠ w.uid) ∧
    (∀ e a, n = min (max 1 (min 256 (c.f 1 16 8))) (256 - first) → Dispatched s.body c 0x0B fl → PlainMemory s.body →
      s.body.accessHere fl.slot (c.h 1) (32 * c.f 1 37 18) (8 * n) (!c.b 1 17) = .ok e → a = e.base + 32 * c.f 1 37 18 →
      (c.b 1 17 = false → Gives (.sregXfer c) s fun t => EndsWith s.body t fl 0 0 ∧ t.hm.sregs = s.body.hm.sregs ∧
        (∀ i, i < n → t.le (a + 8 * i) 8 = (s.body.sreg fl.slot (first + i)).toNat) ∧ SameBytesBut s.body t a (8 * n)) ∧
      (c.b 1 17 = true → s.body.hm.waits = [] → Gives (.sregXfer c) s fun t => EndsWith s.body t fl 0 0 ∧ SameBytes s.body t ∧
        (∀ i, i < n → (t.sreg fl.slot (first + i)).toNat = s.body.le (a + 8 * i) 8) ∧
        ∀ k r, r < 256 → (k ≠ fl.slot ∨ r < first ∨ first + n ≤ r) → t.sreg k r = s.body.sreg k r)) ∧
    (∀ st, n = min (max 1 (min 256 (c.f 1 16 8))) (256 - first) → Dispatched s.body c 0x0B fl →
      s.body.accessHere fl.slot (c.h 1) (32 * c.f 1 37 18) (8 * n) (!c.b 1 17) = .error st → Gives (.sregXfer c) s fun t =>
        OnlyEnds s.body t fl st 0 [] ∧ t.hm.sregs = s.body.hm.sregs)

/-- CTX_OPEN makes a context resident, CTX_CLOSE frees its slot, and CTX_RESET clears what it holds. CTX_OPEN with a free slot, an
id not resident, a partition that runs and a good save area ends DONE: the lowest free slot holds the context runnable with its
partition and PRIO, its queues are bound and its counters at their reset values. Without one of these it ends with HOLD_RANGE, and
with a queue already bound with NOT_PRIVILEGED; nothing opens. CTX_CLOSE of a context with no region still to be zeroed frees its
slot and ends DONE. CTX_RESET clears the context's scalar registers, Manifest and saved commands, and ends DONE once its regions are
zeroed. WQ_CFG sets PRIO and WEIGHT of its queue, at least 1. A command that names no resident ordinary context ends with
HOLD_RANGE. (R295, R296) -/
def Obligations.ContextsOpenAndClose : Prop :=
  ∀ (s : State) (c : Cmd) (fl : Flight) (id part base : Nat), id = c.f 1 15 0 → part = c.f 1 19 16 → base = c.f 3 47 0 / 4096 * 4096 →
    (Dispatched s.body c 0x10 fl →
      (∀ k, s.body.freeCtxSlot = some k → id ≤ 0xFFFD → s.body.slotOf id = none → s.body.partUp part = true → s.body.saveOk base = true →
        s.body.queueTaken (c.w 2).toNat = false → Gives (.ctxOpen c) s fun t => EndsWith s.body t fl 0 0 ∧ SameBytes s.body t ∧
          t.getF (.hmCtxStat k) Fld.hmCtxStatCtx = id ∧ t.getF (.hmCtxStat k) Fld.hmCtxStatPart = part ∧
          t.getF (.hmCtxStat k) Fld.hmCtxStatPrio = c.f 1 22 20 ∧ t.getF (.hmCtxStat k) Fld.hmCtxStatState = 0 ∧ t.slotOf id = some k ∧
          t.info k = { saveBase := base } ∧ (∀ i, i < 16 → t.reg (.hmCtxCnt k i) = Reg.dflt (.hmCtxCnt k i)) ∧
          (∀ n : Fin 64, t.getF (.hmWqCfg n.val) Fld.hmWqCfgCtx =
            if (c.w 2).toNat.testBit n.val = true then id else s.body.getF (.hmWqCfg n.val) Fld.hmWqCfgCtx) ∧
          ∀ j, j ≠ k → t.info j = s.body.info j ∧ (j < 64 → t.reg (.hmCtxStat j) = s.body.reg (.hmCtxStat j))) ∧
      ((s.body.freeCtxSlot = none ∨ 0xFFFD < id ∨ s.body.slotOf id ≠ none ∨ s.body.partUp part = false ∨ s.body.saveOk base = false) →
        Gives (.ctxOpen c) s fun t => OnlyEnds s.body t fl 0x11 0 [] ∧ t.hm.ctxs = s.body.hm.ctxs) ∧
      (∀ k, s.body.freeCtxSlot = some k → id ≤ 0xFFFD → s.body.slotOf id = none → s.body.partUp part = true → s.body.saveOk base = true →
        s.body.queueTaken (c.w 2).toNat = true → Gives (.ctxOpen c) s fun t => OnlyEnds s.body t fl 0x60 0 [] ∧ t.hm.ctxs = s.body.hm.ctxs)) ∧
    (∀ i opc, (i, opc) ∈ [(Instr.ctxClose c, 0x11), (.ctxReset c, 0x12), (.ctxHalt c, 0x13), (.ctxResume c, 0x14), (.ctxEvict c, 0x15)] →
      (s.body.slotOf id = none ∨ s.body.slotOf id = some 64) → Dispatched s.body c opc fl → Gives i s fun t =>
        OnlyEnds s.body t fl 0x11 0 [] ∧ t.hm.ctxs = s.body.hm.ctxs ∧ t.hm.sregs = s.body.hm.sregs) ∧
    (∀ k, Dispatched s.body c 0x11 fl → s.body.slotOf id = some k → k < 64 → (s.body.info k).closing = false → s.body.allotted k = [] →
      Gives (.ctxClose c) s fun t => t.getF (.hmCtxStat k) Fld.hmCtxStatState = 3 ∧ t.info k = {} ∧
        ∃ l e, t.hm.ended = l ++ [e] ∧ e.fl.uid = fl.uid ∧ e.status = 0) ∧
    (∀ k b', Dispatched s.body c 0x12 fl → s.body.slotOf id = some k → k < 64 → (s.body.info k).closing = false →
      b' = s.body.ctxReset k 0x41 (some fl.uid) → Gives (.ctxReset c) s fun t =>
        (∀ r, r < 256 → t.sreg k r = 0) ∧ (∀ j, j < 1024 → (t.entry k j).valid = false) ∧ (t.info k).saved = [] ∧
        (if ((s.body.allotted k).filter fun r => decide (r ∈ b'.st.zeroing)) = [] then EndsWith b' t fl 0 0
         else t.hm.ended = b'.hm.ended ∧
          t.st.zeroWait = b'.st.zeroWait ++ [(fl, (s.body.allotted k).filter fun r => decide (r ∈ b'.st.zeroing))])) ∧
    (∀ n : Nat, n = c.f 1 5 0 → Dispatched s.body c 0x17 fl → Gives (.wqCfg c) s fun t => OnlyEnds s.body t fl 0 0 [(Reg.hmWqCfg n).addr] ∧
      t.getF (.hmWqCfg n) Fld.hmWqCfgPrio = c.f 1 10 8 ∧ t.getF (.hmWqCfg n) Fld.hmWqCfgWeight = max 1 (c.f 1 23 16) ∧
      t.getF (.hmWqCfg n) Fld.hmWqCfgCtx = s.body.getF (.hmWqCfg n) Fld.hmWqCfgCtx)

/-- CTX_HALT, PREEMPTION_POINT, CTX_RESUME, CTX_EVICT and CTX_ADMIT stop contexts and let them go on. CTX_HALT of a runnable context
with no command at work halts it and ends DONE; with one at work the context is saving and the CTX_HALT is not done.
PREEMPTION_POINT of a number not in flight, or of a context neither saving nor stepped, changes nothing; at its point a command of a
saving context leaves flight and is held saved. CTX_RESUME of a halted context makes it runnable and puts its saved commands in
flight; it waits while the context saves. CTX_EVICT of a context with a map, pool, stream, group or registration ends with
HOLD_RANGE; of a halted one with no region to zero it frees the slot and ends DONE. CTX_ADMIT with a bad save area ends with
HOLD_RANGE, of an image whose digest differs with NOT_PRIVILEGED (0x60), and of a good one makes the context resident. (R295, R304,
R306) -/
def Obligations.ContextsHaltAndMove : Prop :=
  ∀ (s : State) (c : Cmd) (fl : Flight) (id k : Nat), id = c.f 1 15 0 →
    (s.body.slotOf id = some k → k < 64 → (s.body.info k).closing = false →
      (Dispatched s.body c 0x13 fl → s.body.getF (.hmCtxStat k) Fld.hmCtxStatState = 0 → (s.body.info k).eccPending = false → fl.slot ≠ k →
        s.body.hm.waits = [] → (∀ e ∈ s.body.hm.ended, e.fl.slot ≠ k) →
        ((∀ f ∈ s.body.hm.flights, f.slot ≠ k) → c.b 1 16 = false → Gives (.ctxHalt c) s fun t => EndsWith s.body t fl 0 0 ∧
          t.getF (.hmCtxStat k) Fld.hmCtxStatState = 1) ∧
        (∀ f ∈ s.body.hm.flights, f.slot = k → f.uid ≠ fl.uid → (s.body.info k).step = none → s.body.hm.halting = [] → Gives (.ctxHalt c) s fun t =>
          t.hm.ended = s.body.hm.ended ∧ t.hm.flights = s.body.hm.flights ∧ t.getF (.hmCtxStat k) Fld.hmCtxStatState = 2 ∧
          t.hm.halting = [(fl, k)] ∧ SameBytes s.body t)) ∧
      (Dispatched s.body c 0x14 fl →
        (s.body.getF (.hmCtxStat k) Fld.hmCtxStatState = 2 → exec (.ctxResume c) s = .next s) ∧
        (s.body.tele.dbg = none → s.body.getF (.hmCtxStat k) Fld.hmCtxStatState = 0 → Gives (.ctxResume c) s fun t =>
          OnlyEnds s.body t fl 0 0 [Reg.hmStepStat.addr] ∧ t.hm.ctxs = s.body.hm.ctxs) ∧
        (s.body.tele.dbg = none → s.body.getF (.hmCtxStat k) Fld.hmCtxStatState = 1 → (s.body.info k).saved = [] → Gives (.ctxResume c) s fun t =>
          OnlyEnds s.body t fl 0 0 [Reg.hmStepStat.addr, (Reg.hmCtxStat k).addr] ∧ t.getF (.hmCtxStat k) Fld.hmCtxStatState = 0) ∧
        (∀ f, s.body.tele.dbg = none → s.body.getF (.hmCtxStat k) Fld.hmCtxStatState = 1 → (s.body.info k).saved = [f] → f.uid ≠ fl.uid →
          Gives (.ctxResume c) s fun t => EndsWith s.body t fl 0 0 ∧ t.getF (.hmCtxStat k) Fld.hmCtxStatState = 0 ∧ (t.info k).saved = [] ∧
            ∃ g ∈ t.hm.flights, g.uid = f.uid ∧ g.cmd = f.cmd ∧ g.resumed = true)) ∧
      (Dispatched s.body c 0x15 fl →
        (s.body.evictRefused k = true → Gives (.ctxEvict c) s fun t => OnlyEnds s.body t fl 0x11 0 [] ∧ t.hm.ctxs = s.body.hm.ctxs) ∧
        (s.body.evictRefused k = false → (s.body.info k).eccPending = false → s.body.getF (.hmCtxStat k) Fld.hmCtxStatState = 1 →
          s.body.allotted k = [] → Gives (.ctxEvict c) s fun t => t.getF (.hmCtxStat k) Fld.hmCtxStatState = 3 ∧ t.info k = {} ∧
            ∃ l e, t.hm.ended = l ++ [e] ∧ e.fl.uid = fl.uid ∧ e.status = 0))) ∧
    (∀ uid, s.body.flight uid = none → exec (.preemptionPoint uid) s = .next s) ∧
    (∀ uid f, s.body.flight uid = some f → s.body.tele.dbg = none → s.body.saving f.slot = false → exec (.preemptionPoint uid) s = .next s) ∧
    (∀ uid f, s.body.flight uid = some f → s.body.saving f.slot = true → s.body.tele.dbg = none → s.body.hm.halting = [] → s.body.hm.waits = [] →
      f.started = false → s.body.atPoint f = true → s.body.opOf uid = none → s.body.runBerths uid = [] → s.body.ferry.sounds = [] →
      Gives (.preemptionPoint uid) s fun t => t.hm.ended = s.body.hm.ended ∧ (∀ x ∈ t.hm.flights, x.uid ≠ uid) ∧
        ∃ y ∈ (t.info f.slot).saved, y.uid = uid ∧ y.cmd = f.cmd ∧ y.started = false ∧ y.progress = f.progress) ∧
    (∀ base part, base = c.f 3 47 0 / 4096 * 4096 → part = c.f 1 19 16 → Dispatched s.body c 0x16 fl →
      (s.body.partUp part = false ∨ s.body.saveOk base = false → Gives (.ctxAdmit c) s fun t => OnlyEnds s.body t fl 0x11 0 [] ∧
        t.hm.ctxs = s.body.hm.ctxs) ∧
      (s.body.partUp part = true → s.body.saveOk base = true → s.body.bytes (base + 16) 48 ≠ digestBytes (s.body.imageHash base) →
        Gives (.ctxAdmit c) s fun t => OnlyEnds s.body t fl 0x60 0 [] ∧ t.hm.ctxs = s.body.hm.ctxs) ∧
      (∀ j, s.body.partUp part = true → s.body.saveOk base = true → s.body.bytes (base + 16) 48 = digestBytes (s.body.imageHash base) →
        s.body.freeCtxSlot = some j → s.body.le base 2 ≤ 0xFFFD → s.body.slotOf (s.body.le base 2) = none →
        (s.body.dialectOf part).1 = s.body.le (base + 4) 1 → s.body.le (base + 6) 2 = 0 → s.body.shapeOk base part [] = true →
        s.body.queueTaken (c.w 2).toNat = false → Gives (.ctxAdmit c) s fun t => EndsWith s.body t fl 0 0 ∧
          t.getF (.hmCtxStat j) Fld.hmCtxStatCtx = s.body.le base 2 ∧ t.getF (.hmCtxStat j) Fld.hmCtxStatState = 0 ∧
          (t.info j).saveBase = base ∧ ∀ r, r < 256 → (t.sreg j r).toNat = s.body.le (base + 0x11000 + 8 * r) 8))

/-- BATCH_SET changes one batch slot, and STEP admits within its limits, writes its list and opens its body. For a context of a
BATCH partition: BATCH_SET JOIN makes an EMPTY slot JOINING with its sequence, priority and tokens, and of any other slot ends with
HOLD_RANGE; LEAVE makes an ACTIVE slot LEAVING and a JOINING one EMPTY; UPDATE replaces priority and tokens; no other slot changes.
A context of no BATCH partition ends with DIALECT_SHAPE (0x51). With no SREG_WAIT waiting, STEP admits at most its ROWS and TOKENS:
with none taken it ends DONE, its body to be skipped; otherwise it stays in flight with its body open, the batch table is that of
the admission, the step list's records are written and no other byte, and the counts go to the registers asked for. (R299, R300,
R301, R302) -/
def Obligations.BatchStepsAdmit : Prop :=
  ∀ (s : State) (c : Cmd) (fl : Flight) (p i : Nat) (x : BatchSlot), s.body.partOfSlot fl.slot = some p → i = c.f 1 7 0 →
    x = s.body.batchSlot fl.slot i →
    (Dispatched s.body c 0x18 fl → s.body.batchPart p = true →
      (c.f 1 9 8 = 0 → x.state = 0 → Gives (.batchSetJoin c) s fun t => OnlyEnds s.body t fl 0 0 [] ∧
        t.batchSlot fl.slot i = { seq := c.f 2 31 0, state := 1, prio := c.f 2 35 32, tokens := c.f 3 31 0 } ∧
        ∀ k j, j < 256 → (k ≠ fl.slot ∨ j ≠ i) → t.batchSlot k j = s.body.batchSlot k j) ∧
      (c.f 1 9 8 = 0 → x.state ≠ 0 → Gives (.batchSetJoin c) s fun t => OnlyEnds s.body t fl 0x11 0 [] ∧ t.hm.batch = s.body.hm.batch) ∧
      (c.f 1 9 8 = 1 → Gives (.batchSetLeave c) s fun t => OnlyEnds s.body t fl 0 0 [] ∧
        t.batchSlot fl.slot i = (if x.state = 2 then { x with state := 3 } else if x.state = 1 then {} else x) ∧
        ∀ k j, j < 256 → (k ≠ fl.slot ∨ j ≠ i) → t.batchSlot k j = s.body.batchSlot k j) ∧
      (2 ≤ c.f 1 9 8 → Gives (.batchSetUpdate c) s fun t => OnlyEnds s.body t fl 0 0 [] ∧
        t.batchSlot fl.slot i = { x with prio := c.f 2 35 32, tokens := c.f 3 31 0 } ∧
        ∀ k j, j < 256 → (k ≠ fl.slot ∨ j ≠ i) → t.batchSlot k j = s.body.batchSlot k j)) ∧
    (s.body.batchPart p = false →
      (Dispatched s.body c 0x18 fl → c.f 1 9 8 = 0 → Gives (.batchSetJoin c) s fun t => OnlyEnds s.body t fl 0x51 0 []) ∧
      (Dispatched s.body c 0x19 fl → Gives (.step c) s fun t => OnlyEnds s.body t fl 0x51 0 [])) ∧
    (∀ e body rows tokens new taken deferred n, Dispatched s.body c 0x19 fl → s.body.batchPart p = true → PlainMemory s.body →
      s.body.hm.waits = [] → body = max 1 (min 4094 (c.f 1 11 0)) → rows = max 1 (min 256 (c.f 2 8 0)) → tokens = max 1 (c.f 2 47 16) →
      s.body.accessHere fl.slot (c.h 1) 0 (16 * rows) true = .ok e →
      (new, taken, deferred) = admission rows tokens ((List.range 256).map fun j => s.body.batchSlot fl.slot j) →
      n = (taken.map fun j => (new.getD j {}).tokens).sum → Gives (.step c) s fun t =>
        (∀ j, j < 256 → t.batchSlot fl.slot j = new.getD j {}) ∧ taken.length ≤ rows ∧ n ≤ tokens ∧
        (taken = [] → EndsWith s.body t fl 0 (deferred * 2 ^ 48) ∧ SameBytes s.body t ∧
          SMap.get t.hm.skips 0 c.wq.val = SMap.get s.body.hm.skips 0 c.wq.val + body) ∧
        (taken ≠ [] → StaysInFlight s.body t fl ∧ t.bytes e.base (16 * taken.length) =
            stepList ((List.range 256).map fun j => s.body.batchSlot fl.slot j) new taken 0 ∧
          SameBytesBut s.body t e.base (16 * taken.length) ∧
          (c.b 3 16 = true → c.f 3 7 0 ≠ c.f 3 15 8 → t.sreg fl.slot (c.f 3 7 0) = BitVec.ofNat 64 taken.length ∧
            t.sreg fl.slot (c.f 3 15 8) = BitVec.ofNat 64 n) ∧
          ∃ r, (t.info fl.slot).step = some r ∧ r.fl.uid = fl.uid ∧ r.wq = c.wq.val ∧ r.left = body ∧ r.rows = taken.length ∧
            r.tokens = n ∧ r.deferred = deferred))

/-- A write to a queue window lands in its row: ring entries, the doorbell's TAIL, the host's consumer index. While the module
answers the network and the queue pair works, an RDMA WRITE whose R_Key, queue, context and privilege match its window is
acknowledged and: in the entries' row, its bytes and no others are written to the ring; in the doorbell's row, TAIL becomes the
value written where that does not go back, HEAD + 4,096 where it would exceed that, and else stays; in the CI row, the consumer
index becomes the value written where that is no more than the producer's. One that does not match is answered with NAK Remote
Access Error and changes no byte, TAIL or index. A row's write with the module away, the queue pair down, or another row's extent
changes nothing. PI_WRITE sends the producer count of a ring when it is new. (R284, R285, R389, R392) -/
def Obligations.QueueWindowsTakeWrites : Prop :=
  ∀ (s : State) (w : WinWrite) (n off r : Nat) (i : Instr), (i, r) ∈ [(Instr.wqEntryWrite w, 0), (.doorbell w, 1), (.ciWrite w, 2)] →
    ((s.body.netUp = false ∨ s.body.qpReady w.qp.val = false) → exec i s = .next s) ∧
    (∀ r', windowOf w.va = some (n, off) → windowRow off w.data.length = some r' → r' ≠ r → exec i s = .next s) ∧
    (s.body.netUp = true → s.body.qpReady w.qp.val = true → windowOf w.va = some (n, off) → windowRow off w.data.length = some r →
      (s.body.windowOk w n = false → Gives i s fun t => SameBytes s.body t ∧ t.hm.waits = s.body.hm.waits ∧
        (∀ k, t.getF (.hmWqPtr k) Fld.hmWqPtrTail = s.body.getF (.hmWqPtr k) Fld.hmWqPtrTail) ∧ t.eth = s.body.eth ∧
        ∃ m, t.out = s.body.out ++ [m] ∧ m.kind = .roceNak ∧ m.nums = [w.qp.val, (s.body.qp w.qp.val).rqPsn, 2]) ∧
      (s.body.windowOk w n = true →
        (r = 0 → Gives i s fun t => t.bytes (wqBase n + off) w.data.length = w.data ∧
          SameBytesBut s.body t (wqBase n + off) w.data.length ∧ ∃ m, t.out = s.body.out ++ [m] ∧ m.kind = .roceAck ∧
            m.nums.getD 1 0 = (t.qp w.qp.val).rqPsn ∧
            (t.qp w.qp.val).rqPsn = ((s.body.qp w.qp.val).rqPsn + packets w.data.length (s.body.qp w.qp.val).mtu) % 2 ^ 24) ∧
        (r = 1 → s.body.getF (.hmWqCfg n) Fld.hmWqCfgCtx ≠ 0xFFFF → ∀ head cnt : Nat, head = s.body.getF (.hmWqPtr n) Fld.hmWqPtrHead →
          cnt = (ofLe w.data % 8192 + 8192 - head) % 8192 → Gives i s fun t => SameBytes s.body t ∧
            t.getF (.hmWqPtr n) Fld.hmWqPtrTail = (if 4096 < cnt then (head + 4096) % 8192 else if cnt < s.body.rung n then
              s.body.getF (.hmWqPtr n) Fld.hmWqPtrTail else ofLe w.data % 8192) ∧ t.getF (.hmWqPtr n) Fld.hmWqPtrHead = head ∧
            (∃ m, t.out = s.body.out ++ [m] ∧ m.kind = .roceAck)) ∧
        (r = 1 → s.body.getF (.hmWqCfg n) Fld.hmWqCfgCtx = 0xFFFF → Gives i s fun t => SameBytes s.body t ∧
          t.getF (.hmWqPtr n) Fld.hmWqPtrTail = s.body.getF (.hmWqPtr n) Fld.hmWqPtrTail) ∧
        (r = 2 → ∀ c ci, c = s.body.cq n → ci = ofLe w.data % 2 ^ 32 → Gives i s fun t => SameBytes s.body t ∧
          t.cq n = (if (ci + 2 ^ 32 - c.ci) % 2 ^ 32 ≤ (c.pi + 2 ^ 32 - c.ci) % 2 ^ 32 then { c with ci := ci } else c) ∧
          (∀ k, k ≠ n → t.cq k = s.body.cq k) ∧ ∃ m, t.out = s.body.out ++ [m] ∧ m.kind = .roceAck))) ∧
    (∀ wq : Fin 64, ((s.body.cq wq.val).qp = none ∨ (s.body.cq wq.val).pi = (s.body.cq wq.val).piSent) → exec (.piWrite wq) s = .next s) ∧
    (∀ (wq : Fin 64) k, (s.body.cq wq.val).qp = some k → (s.body.cq wq.val).pi ≠ (s.body.cq wq.val).piSent → s.body.qpReady k = true →
      Gives (.piWrite wq) s fun t => t.cq wq.val = { s.body.cq wq.val with piSent := (s.body.cq wq.val).pi } ∧ SameBytes s.body t ∧
        ∃ m, t.out = s.body.out ++ [m] ∧ m.kind = .rdmaWrite ∧ m.nums.getD 2 0 = (s.body.cq wq.val).piVa ∧
          m.data = leBytes 8 (s.body.cq wq.val).pi)

/-- PORT_CFG, QP_CREATE, QP_CTL and CQ_BIND set up sub-ports, queue pairs and completion rings. PORT_CFG sets the sub-port's pause
and ECN fields and its addresses, those of the management VLAN on sub-port 0 with MGMT, and no other sub-port. QP_CREATE of a number
free, on a sub-port its port's mode provides, over queues of its context, makes the pair WORKING with its clamped fields at the
sub-port's rate; of a number in use or a sub-port not provided it ends with HOLD_RANGE, over another context's queue with
NOT_PRIVILEGED. DESTROY removes the pair and unbinds its rings; RESTART makes a pair in ERROR work with new PSNs and leaves another
as it is; CAP sets the cap and holds the rate to it; of a pair that does not exist each ends with HOLD_RANGE. CQ_BIND binds a ring,
aligned and sized, to a pair whose mask has its queue; else it ends with NOT_PRIVILEGED. (R383, R387, R388, R391) -/
def Obligations.QueuePairsAndRings : Prop :=
  ∀ (s : State) (c : Cmd) (fl : Flight),
    (∀ p : Nat, p = c.f 1 2 0 → Dispatched s.body c 0x78 fl → Gives (.portCfg c) s fun t => OnlyEnds s.body t fl 0 0 [(Reg.epPortCfg p).addr] ∧
      t.getF (.epPortCfg p) Fld.epPortCfgPfcPrio = c.f 1 6 4 ∧ t.getF (.epPortCfg p) Fld.epPortCfgPfcEn = c.f 1 7 7 ∧
      t.getF (.epPortCfg p) Fld.epPortCfgEcnEn = c.f 1 8 8 ∧ (∀ k, k ≠ p → t.port k = s.body.port k) ∧
      t.port p = (if c.b 1 3 = true ∧ p = 0 then { s.body.port p with mgmtIpv4 := c.f 2 31 0, mgmtIpv6 := (c.w 3).toNat + (c.w 4).toNat * 2 ^ 64 }
        else { s.body.port p with ipv4 := c.f 2 31 0, ipv6 := (c.w 3).toNat + (c.w 4).toNat * 2 ^ 64 })) ∧
    (∀ (k p : Nat) q, k = c.f 1 8 0 → p = c.f 1 11 9 → q = qpOf c → Dispatched s.body c 0x79 fl →
      (s.body.qpExists k = true ∨ s.body.portRate p = 0 → Gives (.qpCreate c) s fun t => OnlyEnds s.body t fl 0x11 0 [] ∧ t.eth = s.body.eth) ∧
      (s.body.qpExists k = false → s.body.portRate p ≠ 0 → (q.mgmt = true → p = 0 ∧ q.vlan = frGet s.body.framing 0x004) →
        ((∃ n, n < 64 ∧ q.wqMask.testBit n = true ∧ s.body.getF (.hmWqCfg n) Fld.hmWqCfgCtx ≠ c.f 1 31 16) →
          Gives (.qpCreate c) s fun t => OnlyEnds s.body t fl 0x60 0 [] ∧ t.eth = s.body.eth) ∧
        ((∀ n, n < 64 → q.wqMask.testBit n = true → s.body.getF (.hmWqCfg n) Fld.hmWqCfgCtx = c.f 1 31 16) →
          Gives (.qpCreate c) s fun t => OnlyEnds s.body t fl 0 0 [(Reg.epQpStat k).addr] ∧ t.qp k = { q with rt := s.body.portRate p } ∧
            t.qpReady k = true ∧ t.getF (.epQpStat k) Fld.epQpStatSubport = p ∧ t.getF (.epQpStat k) Fld.epQpStatCtx = c.f 1 31 16 ∧
            t.getF (.epQpStat k) Fld.epQpStatRate = s.body.portRate p ∧ ∀ j, j ≠ k → t.qp j = s.body.qp j))) ∧
    (∀ k : Nat, k = c.f 1 8 0 → Dispatched s.body c 0x7A fl →
      (s.body.qpExists k = false → Gives (if c.f 1 10 9 = 0 then .qpCtlDestroy c else if c.f 1 10 9 = 1 then .qpCtlRestart c else .qpCtlCap c) s fun t =>
        OnlyEnds s.body t fl 0x11 0 [] ∧ t.eth = s.body.eth) ∧
      (s.body.qpExists k = true → c.f 1 10 9 = 0 → Gives (.qpCtlDestroy c) s fun t => OnlyEnds s.body t fl 0 0 [(Reg.epQpStat k).addr] ∧
        t.qpExists k = false ∧ t.qp k = {} ∧ (∀ j, j ≠ k → t.qp j = s.body.qp j) ∧
        ∀ n, t.cq n = if (s.body.cq n).qp = some k then { s.body.cq n with qp := none } else s.body.cq n) ∧
      (s.body.getF (.epQpStat k) Fld.epQpStatState = 2 → c.f 1 10 9 = 1 → Gives (.qpCtlRestart c) s fun t =>
        OnlyEnds s.body t fl 0 0 [(Reg.epQpStat k).addr] ∧ t.qpReady k = true ∧
        t.qp k = { s.body.qp k with sqPsn := c.f 2 23 0, rqPsn := c.f 2 47 24, tries := 0, unacked := [] } ∧ ∀ j, j ≠ k → t.qp j = s.body.qp j) ∧
      (s.body.qpReady k = true → c.f 1 10 9 = 1 → Gives (.qpCtlRestart c) s fun t => OnlyEnds s.body t fl 0 0 [] ∧ t.eth = s.body.eth) ∧
      (s.body.qpExists k = true → 2 ≤ c.f 1 10 9 → Gives (.qpCtlCap c) s fun t => OnlyEnds s.body t fl 0 0 [(Reg.epQpStat k).addr] ∧
        t.qp k = { s.body.qp k with cap := c.f 2 31 0 } ∧ (∀ j, j ≠ k → t.qp j = s.body.qp j) ∧
        t.getF (.epQpStat k) Fld.epQpStatRate = (if c.f 2 31 0 = 0 then s.body.getF (.epQpStat k) Fld.epQpStatRate
          else min (s.body.getF (.epQpStat k) Fld.epQpStatRate) (c.f 2 31 0)))) ∧
    (∀ n k : Nat, n = c.f 1 5 0 → k = c.f 1 17 8 → Dispatched s.body c 0x7B fl →
      ((s.body.qp k).wqMask.testBit n = false → Gives (.cqBind c) s fun t => OnlyEnds s.body t fl 0x60 0 [] ∧ t.eth = s.body.eth) ∧
      ((s.body.qp k).wqMask.testBit n = true → Gives (.cqBind c) s fun t => OnlyEnds s.body t fl 0 0 [] ∧ (t.cq n).qp = some k ∧
        (t.cq n).ringVa = (c.w 2).toNat / 32 * 32 ∧ (t.cq n).rkey = c.f 3 31 0 ∧ (t.cq n).log2 = max 6 (min 16 (c.f 3 36 32)) ∧
        (t.cq n).piVa = (c.w 4).toNat / 8 * 8 ∧ (t.cq n).pi = 0 ∧ (t.cq n).ci = 0 ∧ ∀ j, j ≠ n → t.cq j = s.body.cq j))

/-- RDMA requests to a Gangway are answered with what the access gave, or with the NAK of their failure. With the module away from
the network or the queue pair down, RDMA_WRITE, RDMA_READ, FETCH_AND_ADD and UNSUPPORTED_REQUEST change nothing. Working, an
UNSUPPORTED_REQUEST is answered with NAK Invalid Request. A request to a Gangway's aperture, not marked CE, has the access of R115
done: where it passes, the receive PSN moves past its packets and the answer is an ACK, the bytes read, or the value before the
addition; where it fails, the answer is the NAK of that failure. In ANCHOR the answer is NAK Remote Operational Error, outside every
aperture and window NAK Remote Access Error; no byte changes then. (R384, R389, R394, R399) -/
def Obligations.HostRequestsAreAnswered : Prop :=
  ∀ (s : State) (qp : Fin 512) (k va rkey : Nat), k = qp.val →
    (∀ i data len v ce, i ∈ [Instr.rdmaWrite qp va rkey data ce, .rdmaRead qp va rkey len ce, .fetchAndAdd qp va rkey v ce, .unsupportedRequest qp] →
      (s.body.netUp = false ∨ s.body.qpReady k = false) → exec i s = .next s) ∧
    (s.body.netUp = true → s.body.qpReady k = true → Gives (.unsupportedRequest qp) s fun t =>
      (∃ m, t.out = s.body.out ++ [m] ∧ m.kind = .roceNak ∧ m.nums = [k, (s.body.qp k).rqPsn, 1]) ∧ t.eth = s.body.eth ∧ t.regs = s.body.regs ∧
      SameBytes s.body t) ∧
    (s.body.netUp = true → s.body.qpReady k = true → windowOf va = none → ∀ i op rx kind,
      (∃ data, data.length ≤ 2 ^ 31 ∧ i = Instr.rdmaWrite qp va rkey data false ∧ op = GwOp.write data ∧ rx = data.length ∧ kind = MsgKind.roceAck) ∨
        (∃ len, len ≤ 2 ^ 31 ∧ i = .rdmaRead qp va rkey len false ∧ op = .read len ∧ rx = 0 ∧ kind = .readResponse) ∨
        (∃ v, i = .fetchAndAdd qp va rkey v false ∧ op = .fetchAdd v ∧ rx = 8 ∧ kind = .atomicResponse) →
      (apertureOf va = none → Gives i s fun t => SameBytes s.body t ∧ t.eth = s.body.eth ∧
        ∃ m, t.out = s.body.out ++ [m] ∧ m.kind = .roceNak ∧ m.nums = [k, (s.body.qp k).rqPsn, 2]) ∧
      (∀ g off, apertureOf va = some (g, off) → s.body.boot.phase = .anchor → Gives i s fun t => SameBytes s.body t ∧ t.eth = s.body.eth ∧
        t.regs = s.body.regs ∧ ∃ m, t.out = s.body.out ++ [m] ∧ m.kind = .roceNak ∧ m.nums = [k, (s.body.qp k).rqPsn, 3]) ∧
      (∀ g off st d b' a, apertureOf va = some (g, off) → s.body.boot.phase ≠ .anchor → a = ({ gw := g, off := off, key := rkey, op := op, who := .host k } : GwReq) →
        (s.body.count (s.body.qpSlot k) 12 rx).gwAccess a = (st, d, b') → Gives i s fun t => SameBytes b' t ∧
          (st ≠ 0 → ∃ m, t.out = b'.out ++ [m] ∧ m.kind = .roceNak ∧ m.nums.getD 2 0 = (s.body.count (s.body.qpSlot k) 12 rx).gwNak a st) ∧
          (st = 0 → (t.qp k).rqPsn = ((b'.qp k).rqPsn + reqPackets (b'.qp k) op) % 2 ^ 24 ∧
            ∃ m, t.out = b'.out ++ [m] ∧ m.kind = kind ∧ m.nums.getD 1 0 = (t.qp k).rqPsn ∧
              m.data = (match op with | .write _ => [] | .read _ => d | .fetchAdd _ => d))))

/-- ACKs, NAKs and timeouts move what the module has sent, and CNPs and steps its rate. On a queue pair that does not work,
ROCE_ACK, ROCE_NAK, ROCE_ACK_TIMEOUT, CNP, ALPHA_DECAY and RATE_INCREASE change nothing. Working, with no telemetry push to settle:
an ACK forgets the messages up to its PSN and the tries; a sequence NAK forgets those before its PSN and, like a timeout with
messages left, sends the rest again while tries remain, and puts the pair in ERROR when none do; any other NAK puts it in ERROR; a
timeout with nothing sent changes nothing. A CNP cuts the rate by half of alpha, at least to the floor and within the cap, makes the
old rate the target, and raises alpha; ALPHA_DECAY multiplies alpha by 15/16; RATE_INCREASE moves the rate halfway to the target,
which from the sixth step rises by 40 Mb/s. (R384, R386, R388) -/
def Obligations.RoceAcksAndRates : Prop :=
  ∀ (s : State) (qp : Fin 512) (k psn syn : Nat) (q : Qp) (r : Reg) (rate : Nat), k = qp.val → q = s.body.qp k → r = .epQpStat k →
    rate = s.body.getF r Fld.epQpStatRate →
    (∀ i, i ∈ [Instr.roceAck qp psn, .roceNak qp psn syn, .roceAckTimeout qp, .cnp qp, .alphaDecay qp, .rateIncrease qp] →
      s.body.qpReady k = false → exec i s = .next s) ∧
    (s.body.qpReady k = true →
      (s.body.tele.push.acked = true → Gives (.roceAck qp psn) s fun t =>
        t.qp k = { q with tries := 0, unacked := q.unacked.filter fun m => !psnLe (lastPsn q m) (psn % 2 ^ 24) } ∧
        (∀ j, j ≠ k → t.qp j = s.body.qp j) ∧ t.regs = s.body.regs ∧ t.out = s.body.out ∧ SameBytes s.body t) ∧
      (syn ≠ 0x60 → Gives (.roceNak qp psn syn) s fun t => t.getF r Fld.epQpStatState = 2 ∧ t.qp k = q ∧ t.out = s.body.out ∧ SameBytes s.body t ∧
        SameRegsBut s.body t [r.addr]) ∧
      (∀ left, s.body.tele.push.acked = true → left = q.unacked.filter (fun m => !psnLe (lastPsn q m) ((psn + 2 ^ 24 - 1) % 2 ^ 24)) →
        (q.tries < q.retry → Gives (.roceNak qp psn 0x60) s fun t => t.qp k = { q with tries := q.tries + 1, unacked := left } ∧
          t.out = s.body.out ++ left ∧ t.regs = s.body.regs ∧ SameBytes s.body t) ∧
        (q.retry ≤ q.tries → Gives (.roceNak qp psn 0x60) s fun t => t.getF r Fld.epQpStatState = 2 ∧ t.out = s.body.out ∧ SameBytes s.body t)) ∧
      (q.unacked = [] → exec (.roceAckTimeout qp) s = .next s) ∧
      (q.unacked ≠ [] → q.tries < q.retry → Gives (.roceAckTimeout qp) s fun t => t.qp k = { q with tries := q.tries + 1 } ∧
        t.out = s.body.out ++ q.unacked ∧ t.regs = s.body.regs ∧ SameBytes s.body t) ∧
      (q.unacked ≠ [] → q.retry ≤ q.tries → Gives (.roceAckTimeout qp) s fun t => t.getF r Fld.epQpStatState = 2 ∧ t.qp k = q ∧
        t.out = s.body.out ∧ SameBytes s.body t ∧ SameRegsBut s.body t [r.addr]) ∧
      (Gives (.cnp qp) s fun t => t.qp k = { q with rt := rate, alpha := (15 * q.alpha + 2 ^ 32) / 16, steps := 0 } ∧
        t.getF r Fld.epQpStatRate = q.held (max (rate * (2 ^ 33 - q.alpha) / 2 ^ 33) rateMin) % 2 ^ Fld.epQpStatRate.width ∧
        Counted s.body t (.epPortStat (s.body.getF r Fld.epQpStatSubport)) Fld.epPortStatCnpRx 1 ∧ SameBytes s.body t) ∧
      (Gives (.alphaDecay qp) s fun t => t.qp k = { q with alpha := 15 * q.alpha / 16 } ∧ (∀ j, j ≠ k → t.qp j = s.body.qp j) ∧
        t.regs = s.body.regs ∧ SameBytes s.body t) ∧
      (∀ rt, rt = (if q.steps + 1 ≥ 6 then max q.rt (min (q.rt + 40) (s.body.portRate (s.body.getF r Fld.epQpStatSubport))) else q.rt) →
        Gives (.rateIncrease qp) s fun t => t.qp k = { q with rt := rt, steps := q.steps + 1 } ∧
          t.getF r Fld.epQpStatRate = q.held ((rate + rt) / 2) % 2 ^ Fld.epQpStatRate.width ∧ SameBytes s.body t ∧ SameRegsBut s.body t [r.addr]))

/-- Sub-ports answer address requests, honour pauses and follow links, and PTP and PPS set the time. With the module on the network:
an ARP, neighbour solicitation or ICMP echo for an address the sub-port holds is answered with that address, one for another is not,
and a wrongly tagged or other frame is discarded and counted; away from the network nothing changes. A pause of the sub-port's
priority with PFC_EN holds it, one of no quanta lifts it; a storm is counted once and ignored. A link comes up only in a mode that
provides it, and going down lifts the pause. A PTP event of the framed port and domain records its offset and LOCKED, is answered
with a delay request, and steps the time where the offset passes 1 ms and PPS does not steer; other ports change nothing. A PPS edge
in a mode other than 0 records its timestamp and clears PPS_LOST, one within 0.9 s is ignored; PPS_LOST sets the flag. (R381, R382,
R385, R395, R396, R397) -/
def Obligations.PortsAnswerAndKeepTime : Prop :=
  ∀ (s : State) (p : Fin 8) (vlan : Option Nat) (ip : Nat) (data : List Byte),
    (s.body.netUp = false → ∀ i, i ∈ [Instr.arpRequest p vlan ip, .neighbourSolicitation p vlan ip, .icmpEcho p vlan ip data, .otherFrame p vlan] →
      exec i s = .next s) ∧
    (s.body.netUp = true →
      (∀ i kind hit d, (i, kind, hit, d) ∈ [(Instr.arpRequest p vlan ip, MsgKind.arpReply, decide (ip = (s.body.addrsOf p.val vlan).1), ([] : List Byte)),
          (.neighbourSolicitation p vlan ip, .naReply, decide (ip = (s.body.addrsOf p.val vlan).2), []),
          (.icmpEcho p vlan ip data, .icmpReply, decide (ip = (s.body.addrsOf p.val vlan).1 ∨ ip = (s.body.addrsOf p.val vlan).2), data)] →
        (tagOk p.val vlan = true → ip ≠ 0 → hit = true → Gives i s fun t => (∃ m, t.out = s.body.out ++ [m] ∧ m.kind = kind ∧
          m.nums.getD 1 0 = ip ∧ m.data = d) ∧ t.regs = s.body.regs ∧ SameBytes s.body t) ∧
        (tagOk p.val vlan = true → (ip = 0 ∨ hit = false) → exec i s = .next s) ∧
        (tagOk p.val vlan = false → Gives i s fun t => Counted s.body t (.epPortStat p.val) Fld.epPortStatDiscard 1 ∧ t.out = s.body.out ∧
          SameBytes s.body t)) ∧
      (Gives (.otherFrame p vlan) s fun t => Counted s.body t (.epPortStat p.val) Fld.epPortStatDiscard 1 ∧ t.out = s.body.out ∧ SameBytes s.body t)) ∧
    (∀ (prio : Fin 8) (quanta : Nat), s.body.flag (.epPortCfg p.val) Fld.epPortCfgPfcEn = true → s.body.getF (.epPortCfg p.val) Fld.epPortCfgPfcPrio = prio.val →
      Gives (.pauseFrame p prio quanta) s fun t => t.port p.val = (if quanta = 0 then { s.body.port p.val with paused := none, stormed := false }
        else { s.body.port p.val with paused := some ((s.body.port p.val).paused.getD s.body.ts) }) ∧ t.regs = s.body.regs) ∧
    (∀ (prio : Fin 8) (quanta : Nat), (s.body.flag (.epPortCfg p.val) Fld.epPortCfgPfcEn = false ∨ s.body.getF (.epPortCfg p.val) Fld.epPortCfgPfcPrio ≠ prio.val) →
      exec (.pauseFrame p prio quanta) s = .next s) ∧
    (((s.body.port p.val).paused = none ∨ (s.body.port p.val).stormed = true) → exec (.pfcStorm p) s = .next s) ∧
    ((s.body.port p.val).paused ≠ none → (s.body.port p.val).stormed = false → Gives (.pfcStorm p) s fun t =>
      t.port p.val = { s.body.port p.val with stormed := true } ∧ Counted s.body t (.epPortStat p.val) Fld.epPortStatPfcStorm 1 ∧ SameBytes s.body t) ∧
    (s.body.netUp = true → s.body.portRate p.val ≠ 0 → Gives (.ethernetLinkChange p true) s fun t => t.flag (.epPortStat p.val) Fld.epPortStatLink = true ∧
      SameRegsBut s.body t [(Reg.epPortStat p.val).addr] ∧ SameBytes s.body t) ∧
    (s.body.portRate p.val = 0 → exec (.ethernetLinkChange p true) s = .next s) ∧
    (Gives (.ethernetLinkChange p false) s fun t => t.flag (.epPortStat p.val) Fld.epPortStatLink = false ∧
      t.port p.val = { s.body.port p.val with paused := none, stormed := false } ∧ SameRegsBut s.body t [(Reg.epPortStat p.val).addr]) ∧
    (∀ (domain : Nat) (offset : Int), (s.body.netUp = false ∨ p.val ≠ frGet s.body.framing 0x00D ∨ domain ≠ frGet s.body.framing 0x00E →
        exec (.ptpEventMessage p domain offset) s = .next s) ∧
      (s.body.netUp = true → p.val = frGet s.body.framing 0x00D → domain = frGet s.body.framing 0x00E → Gives (.ptpEventMessage p domain offset) s fun t =>
        t.getF .epPtpStat Fld.epPtpStatOffset = ofSInt 32 (max (-2147483648) (min 2147483647 offset)) ∧
        t.flag .epPtpStat Fld.epPtpStatLocked = decide (offset.natAbs < 20) ∧ (∃ m, t.out = s.body.out ++ [m] ∧ m.kind = .ptpDelayReq) ∧
        t.ts = (if 1000000 < offset.natAbs then BitVec.ofInt 64 ((s.body.ts.toNat : Int) -
          (if s.body.ppsSteers = true then offset.tdiv 1000000000 * 1000000000 else offset)) else s.body.ts) ∧
        SameRegsBut s.body t [Reg.epPtpStat.addr] ∧ SameBytes s.body t)) ∧
    (∀ mode : Nat, mode = s.body.getF .epPtpCfg Fld.epPtpCfgPpsMode →
      ((mode = 0 ∨ (s.body.eth.ppsCount ≠ 0 ∧ (s.body.ts - s.body.eth.ppsLast).toNat < 900000000)) → exec .ppsInEdge s = .next s) ∧
      (mode ≠ 0 → (s.body.eth.ppsCount = 0 ∨ 900000000 ≤ (s.body.ts - s.body.eth.ppsLast).toNat) → Gives .ppsInEdge s fun t =>
        t.reg .epPpsTs = s.body.ts ∧ t.flag .epPtpStat Fld.epPtpStatPpsLost = false ∧ t.eth.ppsLast = s.body.ts ∧
        t.eth.ppsCount = s.body.eth.ppsCount + 1 ∧ t.ts = s.body.ts ∧ SameBytes s.body t) ∧
      (mode = 0 → exec .ppsLost s = .next s) ∧
      (mode ≠ 0 → Gives .ppsLost s fun t => t.flag .epPtpStat Fld.epPtpStatPpsLost = true ∧ SameRegsBut s.body t [Reg.epPtpStat.addr] ∧
        SameBytes s.body t))

/-- SL_SET, MT_REDUCE and MT_MAPOUT set a Sluice, combine rows and blow a fuse. SL_SET of a defined partition, or of Sluice 10, sets
RATE, held to what is left of the tier, and BURST, at least 1, of the Sluice and no other register; of a partition not defined it
ends with HOLD_RANGE. Where memory holds no uncorrectable sector and no mirror, MT_REDUCE between local places whose rows do not
overlap leaves in each destination row dst OP src, element by element, and no other byte changes. MT_MAPOUT of a channel already
fused ends DONE and does nothing; where fewer than 16 channels of the stack would be left it ends with HOLD_RANGE; else it ends DONE
and the channel's fuse is blown for good. (R327, R328, R332, R336) -/
def Obligations.TierCommands : Prop :=
  ∀ (s : State) (c : Cmd) (fl : Flight),
    (∀ i m : Nat, i = min 10 (c.f 1 3 0) → m = min 2 (c.f 1 5 4) → Dispatched s.body c 0x71 fl →
      (i < 10 → partDefined s.body.framing i = false → Gives (.slSet c) s fun t => OnlyEnds s.body t fl 0x11 0 [] ∧ t.tiers = s.body.tiers) ∧
      (i = 10 ∨ partDefined s.body.framing i = true → Gives (.slSet c) s fun t => OnlyEnds s.body t fl 0 0 [(Reg.slCfg i m).addr] ∧
        t.getF (.slCfg i m) Fld.slCfgRate = s.body.slFit i m (max 1 (c.f 2 15 0)) (fun j => s.body.getF (.slCfg j m) Fld.slCfgRate) ∧
        t.getF (.slCfg i m) Fld.slCfgBurst = max 1 (c.f 2 31 16) ∧ (t.sluice i m).waiting = (s.body.sluice i m).waiting)) ∧
    (∀ fmt op eb k se de, fmt = (if c.f 7 3 0 ∈ [8, 10, 12, 13] then c.f 7 3 0 else 10) → op = min 2 (c.f 7 5 4) → eb = elemBits fmt / 8 →
      k = ({ src := (blockOf c).1.src / eb * eb, dst := (blockOf c).1.dst / eb * eb, rowBytes := max eb ((blockOf c).1.rowBytes / eb * eb),
             rows := (blockOf c).1.rows, srcPitch := (blockOf c).1.srcPitch / eb * eb, dstPitch := (blockOf c).1.dstPitch / eb * eb } : Block) →
      Dispatched s.body c 0x70 fl → PlainMemory s.body → s.body.dmaArgs fl (c.h 1) (c.h 3) [k] = .ok (se, de) → 2 ≤ de.place → de.place ≤ 3 →
      de.rd = true → se.place ≠ 5 → k.rowBytes ≤ k.dstPitch →
      spansMeet (se.base + k.src) ((k.rows - 1) * k.srcPitch + k.rowBytes) (de.base + k.dst) ((k.rows - 1) * k.dstPitch + k.rowBytes) = false →
      Gives (.mtReduce c) s fun t => EndsWith s.body t fl 0 0 ∧
        (∀ r, r < k.rows → t.bytes (de.base + k.dst + r * k.dstPitch) k.rowBytes =
          reduceRow fmt op eb (k.rowBytes / eb) (s.body.bytes (de.base + k.dst + r * k.dstPitch) k.rowBytes)
            (s.body.bytes (se.base + k.src + r * k.srcPitch) k.rowBytes)) ∧
        ∀ a, inRows a (de.base + k.dst) k.rowBytes k.rows k.dstPitch = false → t.byte a = s.body.byte a) ∧
    (Dispatched s.body c 0x70 fl → s.body.resolve fl.slot (c.h 1) = none → Gives (.mtReduce c) s fun t => OnlyEnds s.body t fl 0x12 0 []) ∧
    (∀ (h : Nat) (r : Reg), h = min 639 (c.f 1 9 0) → r = .mtHbmMapout (h / 32) → Dispatched s.body c 0x72 fl →
      ((s.body.reg r).bit (h % 32) = true → Gives (.mtMapout c) s fun t => OnlyEnds s.body t fl 0 0 []) ∧
      ((s.body.reg r).bit (h % 32) = false → ((s.body.liveChannels (h / 32)).filter fun x => decide (x ≠ h % 32)).length < 16 →
        Gives (.mtMapout c) s fun t => OnlyEnds s.body t fl 0x11 0 []) ∧
      ((s.body.reg r).bit (h % 32) = false → 16 ≤ ((s.body.liveChannels (h / 32)).filter fun x => decide (x ≠ h % 32)).length →
        ∃ t, exec (.mtMapout c) s = .next t ∧ OnlyEnds s.body t.body fl 0 0 [r.addr] ∧ (t.body.reg r).bit (h % 32) = true ∧
          (SMap.get t.fuse.mapout 0 (h / 32)).testBit (h % 32) = true ∧
          (∀ j, j ≠ h / 32 → SMap.get t.fuse.mapout 0 j = SMap.get s.fuse.mapout 0 j) ∧ t.fuse = { s.fuse with mapout := t.fuse.mapout }))

/-- Sluices refill, scrubs and patrols move on, and Tier F levels and collects, without changing what memory reads. SLUICE_REFILL
adds the microsecond's refill, held to the cap, divided among the issuing points, admits what waits where a bucket is above 0, and
counts what it admits and that something waited. REFRESH, CALIBRATION and READ_LEVEL_TRACKING change nothing a command can see.
SCRUB_READ of a target without sectors changes nothing; otherwise it moves to the next sector, a good one leaving the rest as it
was, an uncorrectable one standing as such. PATROL_READ of an unmapped unit changes nothing; an uncorrectable one loses one codeword
of the unit. SCRUB_LATE is counted. WEAR_LEVELLING below a spread of 200 changes nothing; above it, and in GARBAGE_COLLECTION, one
block is erased once more. No byte changes in any. (R325, R326, R329, R331, R340) -/
def Obligations.TiersKeepThemselves : Prop :=
  ∀ (s : State),
    (∀ (i : Fin 11) (m : Fin 3) (sl : Sluice) (n : Nat) (add : List Int), sl = s.body.sluice i.val m.val →
      n = min (s.body.getF (.slCfg i.val m.val) Fld.slCfgRate * 32)
        (((s.body.getF (.slCfg i.val m.val) Fld.slCfgBurst * 1024 : Nat) : Int) - sl.shares.sum).toNat →
      add = refillShares (sluicePoints s.body.framing i.val) sl.waiting n → Gives (.sluiceRefill i m) s fun t =>
        (∀ p, p < 12 → ((t.sluice i.val m.val).shares.getD p 0 = sl.shares.getD p 0 + add.getD p 0 -
            (admitted (sl.shares.getD p 0 + add.getD p 0) (sl.waiting.getD p 0) : Int)) ∧
          (t.sluice i.val m.val).waiting.getD p 0 = sl.waiting.getD p 0 - admitted (sl.shares.getD p 0 + add.getD p 0) (sl.waiting.getD p 0)) ∧
        Counted s.body t (.slStat i.val m.val) Fld.slStatAdmitted
          ((List.range 12).map fun p => admitted (sl.shares.getD p 0 + add.getD p 0) (sl.waiting.getD p 0)).sum ∧
        Counted s.body t (.slStat i.val m.val) Fld.slStatWait (if sl.waiting.sum = 0 then 0 else 1) ∧
        SameRegsBut s.body t [(Reg.slStat i.val m.val).addr] ∧ SameBytes s.body t) ∧
    (∀ (tier : Fin 2) (ch : Nat), exec (.refresh tier ch) s = .next s ∧ exec (.calibration tier ch) s = .next s) ∧
    (∀ lun, exec (.readLevelTracking lun) s = .next s) ∧
    (∀ (g : Fin 3) (f : Finding) (total pos : Nat), total = s.body.scrubTotal g.val → pos = s.body.tiers.scrubPos.getD g.val 0 →
      (total = 0 → exec (.scrubRead g f) s = .next s) ∧
      (total ≠ 0 → s.body.tiers.scrubPos.length = 4 → Gives (.scrubRead g f) s fun t => SameBytes s.body t ∧
        t.tiers.scrubPos.getD g.val 0 = (if total ≤ pos + 1 then 0 else pos + 1) ∧
        Counted s.body t (.mtScrubStat g.val) Fld.mtScrubStatPasses (if total ≤ pos + 1 then 1 else 0) ∧
        (f = .good → SameRegsBut s.body t [(Reg.mtScrubStat g.val).addr] ∧ t.tiers.badSectors = s.body.tiers.badSectors) ∧
        (f = .uncorrectable → s.body.addrOk (s.body.scrubAddr g.val pos) = true → s.body.scrubAddr g.val pos / 32 ∈ t.tiers.badSectors))) ∧
    (∀ (unit : Nat) (f : Finding), (SMap.get s.body.tiers.mapped 0 unit = 0 → exec (.patrolRead unit f) s = .next s) ∧
      (SMap.get s.body.tiers.mapped 0 unit ≠ 0 → Gives (.patrolRead unit f) s fun t => SameBytes s.body t ∧
        (f ≠ .uncorrectable → t.tiers.badSectors = s.body.tiers.badSectors) ∧
        (f = .uncorrectable → ∃ k, k < 4 ∧ ∀ j, j < 128 → (tierFBase + unit * 16384 + k * 4096) / 32 + j ∈ t.tiers.badSectors))) ∧
    (∀ (g : Fin 4) (lag : Nat), Gives (.scrubLate g lag) s fun t => Counted s.body t (.mtScrubStat g.val) Fld.mtScrubStatLate 1 ∧
      SameRegsBut s.body t [(Reg.mtScrubStat g.val).addr] ∧ SameBytes s.body t ∧ t.tiers = s.body.tiers) ∧
    (∀ ch : Fin 64, (s.body.flashChan ch.val).spread.2 ≤ (s.body.flashChan ch.val).spread.1 + 200 → exec (.wearLevelling ch) s = .next s) ∧
    (∀ (ch : Fin 64) (waited : Nat) (bad : Bool) (i : Instr), (i = .wearLevelling ch ∧ bad = false ∧
        (s.body.flashChan ch.val).spread.1 + 200 < (s.body.flashChan ch.val).spread.2) ∨ i = .garbageCollection ch waited bad → Gives i s fun t =>
      SameBytes s.body t ∧ (∃ k, ∀ j, (t.flashChan ch.val).count j = (s.body.flashChan ch.val).count j + if j = k then 1 else 0) ∧
      (t.flashChan ch.val).spares = (s.body.flashChan ch.val).spares - (if bad = true then 1 else 0) ∧
      ∀ d, d ≠ ch.val → t.flashChan d = s.body.flashChan d) ∧
    (∀ (ch : Fin 64) (waited : Nat) (bad : Bool), (s.body.flashChan ch.val).free < 64 → Gives (.garbageCollection ch waited bad) s fun t =>
      Counted s.body t .mtFlashWait Fld.mtFlashWaitGcWait waited)

/-- MT_TRIM unmaps the whole units of its range, which read +0, and leaves partial units. MT_TRIM with a handle that resolves but
has not PLACE 4 and WR ends with HOLD_RANGE, no byte and no register changed. Where its range passes the checks of R110, it ends
DONE; every 16 KiB unit that lies whole in the range, at the offset in word 2 and of the length in word 3, is unmapped and reads +0,
and every byte outside those units, the partial units at either end among them, reads as before. (R339) -/
def Obligations.TrimUnmapsWholeUnits : Prop :=
  ∀ (s : State) (c : Cmd) (fl : Flight) (e : Entry) (a n : Nat), Dispatched s.body c 0x73 fl → s.body.resolve fl.slot (c.h 1) = some e →
    a = e.base + c.f 2 47 0 → n = c.f 3 47 0 →
    (e.place ≠ 4 ∨ e.wr = false → Gives (.mtTrim c) s fun t => OnlyEnds s.body t fl 0x11 0 []) ∧
    (e.place = 4 → e.wr = true → s.body.accessOk e (c.f 2 47 0) n true = true → tierFBase ≤ e.base → a + n ≤ 0x300000000000 → s.body.haze = [] →
      s.body.bgOf 1782 = 0 → Gives (.mtTrim c) s fun t => EndsWith s.body t fl 0 0 ∧ SameRegsBut s.body t [] ∧
        (∀ u x, x = tierFBase + u * 16384 → a ≤ x → x + 16384 ≤ a + n → SMap.get t.tiers.mapped 0 u = 0 ∧ ∀ i, i < 16384 → t.byte (x + i) = 0) ∧
        ∀ y u x, x = tierFBase + u * 16384 → x ≤ y → y < x + 16384 → x < a ∨ a + n < x + 16384 → t.byte y = s.body.byte y)

/-- A Line takes flits in sequence, acknowledges, and resends what is not acknowledged. On a Line that is not UP no flit,
acknowledgement, NAK or timer changes anything. On one that is UP: a good flit with the next sequence number is taken, the number
moves on, its place is owed when its message ends, and the 32nd since the last acknowledgement is answered with one; a flit that
fails CRC or FEC, or of another number, is answered with a NAK of the number expected and not taken. An acknowledgement drops the
flits up to its number from the replay buffer and returns credits; a NAK resends what its number leaves there, and a replay timeout
everything, counted in REPLAYS and as a resend. LINE_ACK_TIMER sends the acknowledgement and the credits owed. (R350, R351) -/
def Obligations.LinesCarryFlits : Prop :=
  ∀ (s : State) (l : Fin 36) (x : LineInfo) (r : Reg) (flit : TxFlit → Msg), x = s.body.line l.val → r = .lnErr l.val →
    (flit = fun f => { port := .line l.val, kind := .dataFlit, nums := [f.seq, f.vc, if f.last = true then 1 else 0], data := f.data }) →
    (∀ f ack cr n i, i ∈ [Instr.lineDataFlit l f, .lineAckFlit l ack cr, .lineNak l n, .lineReplayTimeout l, .lineAckTimer l] →
      s.body.lineUp l.val = false → exec i s = .next s) ∧
    (s.body.lineUp l.val = true →
      (∀ f v held, f.crcOk = true → f.fecOk = true → f.seq = x.rxSeq → v = f.vc % 8 → held = x.rxBuf.getD v [] ++ [f.data] → x.rxSinceAck + 1 < 32 →
        Gives (.lineDataFlit l f) s fun t => (t.line l.val).rxSeq = (x.rxSeq + 1) % 4096 ∧ (t.line l.val).rxSinceAck = x.rxSinceAck + 1 ∧
          (t.line l.val).rxBuf = x.rxBuf.set v (if f.last = true then [] else held) ∧
          (t.line l.val).owed = (if f.last = true then x.owed.set v (x.owed.getD v 0 + held.length) else x.owed)) ∧
      (∀ f, f.crcOk = true → f.fecOk = true → f.seq = x.rxSeq → x.rxSeq < 4096 → 32 ≤ x.rxSinceAck + 1 →
        Gives (.lineDataFlit l f) s fun t => (t.line l.val).rxSinceAck = 0 ∧ (∀ v, (t.line l.val).owed.getD v 0 = 0) ∧
          ∃ m ∈ t.out, m.kind = .ackFlit ∧ m.nums.getD 0 0 = f.seq) ∧
      (∀ f, (f.crcOk = false ∨ f.fecOk = false ∨ f.seq ≠ x.rxSeq) → Gives (.lineDataFlit l f) s fun t =>
        (∃ m, t.out = s.body.out ++ [m] ∧ m.kind = .nak ∧ m.nums = [x.rxSeq]) ∧ (t.line l.val).rxSeq = x.rxSeq ∧ (t.line l.val).rxBuf = x.rxBuf ∧
        Counted s.body t r Fld.lnErrCrcErr (if f.crcOk = true then 0 else 1) ∧
        Counted s.body t r Fld.lnErrFecUncorr (if f.fecOk = true then 0 else 1) ∧ SameRegsBut s.body t [r.addr] ∧ SameBytes s.body t) ∧
      (∀ ack cut cr cs, cs = cr.foldl (fun c p => c.set p.1 (c.getD p.1 0 + p.2)) x.credits → (∀ f ∈ x.replay, f.uid = none ∧ f.granule = none) → x.txq.flatten = [] →
        cut = ((x.replay.findIdx? fun f => decide (f.seq = ack)).map (· + 1)).getD 0 →
        (Gives (.lineAckFlit l ack cr) s fun t => t.line l.val = { x with replay := x.replay.drop cut, credits := cs, resends := if 0 < cut then 0 else x.resends } ∧
          t.out = s.body.out ∧ t.regs = s.body.regs ∧ SameBytes s.body t) ∧
        (∀ n, ack = (n + 4095) % 4096 → x.replay.drop cut ≠ [] → Gives (.lineNak l n) s fun t =>
          (t.line l.val).replay = x.replay.drop cut ∧ (t.line l.val).resends = (if 0 < cut then 0 else x.resends) + 1 ∧
          t.out = s.body.out ++ (x.replay.drop cut).map flit ∧
          Counted s.body t r Fld.lnErrReplays (x.replay.drop cut).length ∧ SameBytes s.body t)) ∧
      (x.replay = [] → exec (.lineReplayTimeout l) s = .next s) ∧
      (x.replay ≠ [] → Gives (.lineReplayTimeout l) s fun t => t.line l.val = { x with resends := x.resends + 1 } ∧
        t.out = s.body.out ++ x.replay.map flit ∧
        Counted s.body t r Fld.lnErrReplays x.replay.length ∧ SameRegsBut s.body t [r.addr] ∧ SameBytes s.body t) ∧
      (Gives (.lineAckTimer l) s fun t => t.line l.val = { x with owed := [0, 0, 0, 0, 0, 0, 0, 0], rxSinceAck := 0 } ∧ t.regs = s.body.regs ∧
        (∃ m ∈ t.out, m.kind = .ackFlit ∧ m.nums.getD 0 0 = (x.rxSeq + 4095) % 4096) ∧
        (∀ v, v < 8 → 0 < x.owed.getD v 0 → ∃ m ∈ t.out, m.kind = .ackFlit ∧ m.nums = [(x.rxSeq + 4095) % 4096, v, x.owed.getD v 0]) ∧
        SameBytes s.body t))

/-- Lines retrain after faults or on command, and come UP at their pinned or best point, or go DOWN. LINE_RETRAIN of an UP Line with
eight resends of a flit or more than 64 uncorrectable codewords makes it RETRAINING, counted, and otherwise changes nothing.
LINE_TRAINING_DONE of a Line that trains brings it UP at its pinned point, or the best it may take, with its lanes and peer, and the
LN_CTLs that waited end; with no such point, or this module as its own peer, the Line goes DOWN and holds nothing; of a Line that
does not train it changes nothing. LN_CTL RETRAIN of a Line with a role starts training and stays in flight, of one with role OFF
ends DONE; PIN sets the point and ends DONE where the Line is UP at it; UNPIN ends DONE with no pin; DISABLE makes the Line DISABLED
and ends DONE. (R348, R352, R353) -/
def Obligations.LinesTrain : Prop :=
  ∀ (s : State),
    (∀ (l : Fin 36) (x : LineInfo), x = s.body.line l.val →
      (s.body.lineUp l.val = false ∨ (x.resends < 8 ∧ x.uncorr ≤ 64) → exec (.lineRetrain l) s = .next s) ∧
      (s.body.lineUp l.val = true → (8 ≤ x.resends ∨ 64 < x.uncorr) → Gives (.lineRetrain l) s fun t => t.lineState l.val = 3 ∧
        Counted s.body t (.lnStat l.val) Fld.lnStatRetrains 1 ∧ (t.line l.val).replay = x.replay ∧ (t.line l.val).txq = x.txq ∧
        SameRegsBut s.body t [(Reg.lnStat l.val).addr] ∧ SameBytes s.body t)) ∧
    (∀ (l : Fin 36) (w h : BitVec 4) (peer : BitVec 16) (x : LineInfo) (old pin : Nat) ps pick, x = s.body.line l.val →
      old = s.body.getF (.lnStat l.val) Fld.lnStatPoint → pin = s.body.getF (.lnCfg l.val) Fld.lnCfgPin →
      ps = pointsOf w.toNat (h.toNat ||| w.toNat) →
      pick = (if pin < 6 then ps.find? fun p => decide (p.1 = pin) else ps.find? fun p => x.rise || decide (old ≤ p.1)) →
      (s.body.lineState l.val ≠ 1 → s.body.lineState l.val ≠ 3 → exec (.lineTrainingDone l w h peer) s = .next s) ∧
      (s.body.lineState l.val = 1 ∨ s.body.lineState l.val = 3 →
        (pick = none ∨ peer.toNat = s.body.self → Gives (.lineTrainingDone l w h peer) s fun t => t.lineState l.val = 0 ∧ t.line l.val = {}) ∧
        (∀ pt lanes, pick = some (pt, lanes) → peer.toNat ≠ s.body.self → Gives (.lineTrainingDone l w h peer) s fun t => t.lineUp l.val = true ∧
          t.getF (.lnStat l.val) Fld.lnStatPoint = pt ∧ t.getF (.lnStat l.val) Fld.lnStatLanes = lanes ∧
          t.getF (.lnStat l.val) Fld.lnStatPeer = peer.toNat ∧
          Counted s.body t (.lnStat l.val) Fld.lnStatDownshifts (if 6 ≤ pin ∧ old < pt then 1 else 0) ∧
          (∀ f ∈ x.ctl, ∃ e ∈ t.hm.ended, e.fl.uid = f.uid ∧ e.status = 0)))) ∧
    (∀ (c : Cmd) (fl : Flight) (l : Nat), l = min 35 (c.f 1 5 0) → Dispatched s.body c 0x60 fl →
      (c.f 1 7 6 = 0 → s.body.getF (.lnCfg l) Fld.lnCfgRole = 0 → Gives (.lnCtlRetrain c) s fun t => OnlyEnds s.body t fl 0 0 [] ∧ t.ln = s.body.ln) ∧
      (c.f 1 7 6 = 0 → s.body.getF (.lnCfg l) Fld.lnCfgRole ≠ 0 → Gives (.lnCtlRetrain c) s fun t => StaysInFlight s.body t fl ∧
        t.lineState l = (if s.body.lineState l = 2 ∨ s.body.lineState l = 3 then 3 else 1) ∧
        (t.line l).ctl = (s.body.line l).ctl ++ [fl] ∧ (t.line l).rise = true ∧ SameBytes s.body t) ∧
      (∀ p : Nat, p = min 5 (c.f 1 10 8) → c.f 1 7 6 = 1 → s.body.lineUp l = true → s.body.getF (.lnStat l) Fld.lnStatPoint = p →
        Gives (.lnCtlPin c) s fun t => OnlyEnds s.body t fl 0 0 [(Reg.lnCfg l).addr] ∧ t.getF (.lnCfg l) Fld.lnCfgPin = p) ∧
      (∀ p : Nat, p = min 5 (c.f 1 10 8) → c.f 1 7 6 = 1 → s.body.getF (.lnCfg l) Fld.lnCfgRole ≠ 0 →
        (s.body.lineUp l = false ∨ s.body.getF (.lnStat l) Fld.lnStatPoint ≠ p) → Gives (.lnCtlPin c) s fun t => StaysInFlight s.body t fl ∧
          t.getF (.lnCfg l) Fld.lnCfgPin = p ∧ (t.line l).ctl = (s.body.line l).ctl ++ [fl]) ∧
      (c.f 1 7 6 = 2 → Gives (.lnCtlUnpin c) s fun t => OnlyEnds s.body t fl 0 0 [(Reg.lnCfg l).addr] ∧ t.getF (.lnCfg l) Fld.lnCfgPin = 7 ∧
        t.ln = s.body.ln) ∧
      (c.f 1 7 6 = 3 → Gives (.lnCtlDisable c) s fun t => t.lineState l = 4 ∧ t.line l = {} ∧
        ∃ r e, t.hm.ended = r ++ [e] ∧ e.fl.uid = fl.uid ∧ e.status = 0))

/-- Groups form, dissolve and break, and registrations take and return Basin slots. CL_GROUP of a new id whose ranks are all this
module's is READY at once and ends DONE; with a neighbour not yet joined it is FORMING and stays in flight; without a rank here it
ends with HOLD_RANGE. DISSOLVE of the context's group frees its entry, of no group ends with HOLD_RANGE. A JOIN of a group not known
is kept; of a lower epoch it is discarded and counted; the last one that a FORMING group waits for makes it READY and ends its
CL_GROUP; a higher epoch makes it FORMING again. A neighbour's BROKEN_REPORT of the epoch breaks the group and ends its runs.
CL_REGISTER on a READY group of the context takes its slots and writes its 32-byte record; on one that is not READY it ends with
GROUP_EPOCH (0x30). CL_UNREGISTER returns the slots, after a run that uses them. (R360, R361, R362, R363, R364, R365, R366) -/
def Obligations.CollectiveGroupsForm : Prop :=
  ∀ (s : State) (c : Cmd) (fl : Flight) (id n : Nat), id = c.f 1 15 0 →
    (∀ e g i, n = c.f 1 26 17 + 1 → Dispatched s.body c 0x61 fl → c.b 1 16 = false → PlainMemory s.body →
      s.body.access fl.slot (c.h 3) (32 * c.f 3 37 18) (8 * n) false = .ok e →
      (g.ranks, g.hash, g.joins, g.waiting, g.pending) = (ranksOf n (s.body.bytes (e.base + 32 * c.f 3 37 18) (8 * n)),
        listHash (s.body.bytes (e.base + 32 * c.f 3 37 18) (8 * n)), ([] : List Nat), (none : Option Flight), (none : Option Nat)) →
      s.body.groupIndex id = none → (List.range 64).find? (fun j => decide (s.body.groupState j = 0)) = some i →
      (s.body.localRanks g = [] → Gives (.clGroup c) s fun t => EndsWith s.body t fl 0x11 0 ∧ t.ln = s.body.ln ∧ SameBytes s.body t) ∧
      ((∀ r ∈ g.ranks, r.2 ≤ 9 ∧ (r.1 = s.body.self → r.2 ∈ s.body.quaysOfSlot fl.slot)) → s.body.localRanks g ≠ [] → s.body.ln.joinsIn = [] →
        (s.body.neighbourModules g = [] → Gives (.clGroup c) s fun t => EndsWith s.body t fl 0 0 ∧ t.groupState i = 2 ∧ t.group i = g ∧
          t.groupIndex id = some i ∧ t.groupEpoch i = c.f 2 31 0 ∧ t.getF (.bwGroupStat i) Fld.bwGroupStatCtx = c.ctx.toNat ∧ SameBytes s.body t) ∧
        (s.body.neighbourModules g ≠ [] → (∀ m ∈ s.body.neighbourModules g, s.body.bundle m (s.body.partOfSlot fl.slot) 3 ≠ []) →
          Gives (.clGroup c) s fun t => StaysInFlight s.body t fl ∧ t.groupState i = 1 ∧ (t.group i).waiting = some fl ∧
            (t.group i).ranks = g.ranks ∧ t.groupEpoch i = c.f 2 31 0))) ∧
    (Dispatched s.body c 0x61 fl → c.b 1 16 = true →
      (s.body.groupIndex id = none → Gives (.clGroupDissolve c) s fun t => OnlyEnds s.body t fl 0x11 0 [] ∧ t.ln = s.body.ln) ∧
      (∀ i, s.body.groupIndex id = some i → s.body.getF (.bwGroupStat i) Fld.bwGroupStatCtx = c.ctx.toNat → s.body.ln.runs = [] → s.body.ln.colls = [] →
        (s.body.group i).waiting = none → Gives (.clGroupDissolve c) s fun t =>
          OnlyEnds s.body t fl 0 0 [(Reg.bwGroupStat i).addr, (Reg.bwGroupEpoch i).addr] ∧ t.groupState i = 0 ∧ t.group i = {})) ∧
    (∀ peer group epoch hash : Nat, (s.body.groupIndex group = none →
        (Gives (.join peer group epoch hash) s fun t => t.ln.joinsIn = s.body.ln.joinsIn ++ [[peer, group, epoch, hash]] ∧ t.regs = s.body.regs) ∧
        exec (.brokenReport peer group epoch) s = .next s) ∧
      (∀ i g, s.body.groupIndex group = some i → g = s.body.group i →
        (epoch < s.body.groupEpoch i → ∀ j, j ∈ [Instr.join peer group epoch hash, .brokenReport peer group epoch] → Gives j s fun t =>
          t.ln.groups = s.body.ln.groups ∧ t.groupState i = s.body.groupState i ∧ t.getF .bwClTally Fld.bwClTallyStale =
            min (s.body.getF .bwClTally Fld.bwClTallyStale + 1) (2 ^ Fld.bwClTallyStale.width - 1)) ∧
        (∀ f, epoch = s.body.groupEpoch i → s.body.groupState i = 1 → hash = g.hash → g.pending = none → g.waiting = some f →
          (∀ m ∈ s.body.neighbourModules g, m = peer ∨ m ∈ g.joins) → Gives (.join peer group epoch hash) s fun t =>
            EndsWith s.body t f 0 0 ∧ t.groupState i = 2 ∧ t.group i = { g with joins := peer :: g.joins, waiting := none }) ∧
        (s.body.groupEpoch i < epoch → Gives (.join peer group epoch hash) s fun t => t.groupState i = 1 ∧ (t.group i).pending = some epoch ∧
          ∀ r ∈ t.ln.runs, r.group ≠ i) ∧
        (epoch = s.body.groupEpoch i → peer ∈ s.body.neighbourModules g → s.body.groupState i ≠ 3 → Gives (.brokenReport peer group epoch) s fun t =>
          t.groupState i = 3 ∧ ∀ r ∈ t.ln.runs, r.group ≠ i))) ∧
    (∀ i reg : Nat, reg = c.f 1 22 16 → Dispatched s.body c 0x62 fl → s.body.groupIndex id = some i → (s.body.coll reg).used = false →
      s.body.getF (.bwGroupStat i) Fld.bwGroupStatCtx = c.ctx.toNat →
      (s.body.groupState i ≠ 2 → Gives (.clRegister c) s fun t => OnlyEnds s.body t fl 0x30 0 [] ∧ t.ln = s.body.ln) ∧
      (∀ e r (want : Nat → Nat), s.body.groupState i = 2 → PlainMemory s.body → s.body.access fl.slot (c.h 4) 0 32 true = .ok e → e.place ≠ 5 → c.h 3 = 0 →
        r = (regOf c (s.body.group i).ranks.length fl.slot i (((s.body.partOfSlot fl.slot).map (partIsTile s.body.framing)).getD false)).1 →
        want = (fun t => if r.op = 5 then 0 else
          ((s.body.localRanks (s.body.group i)).filter fun k => interior t (s.body.group i).ranks.length k).length * r.nslot) →
        (∀ t, t < 2 → want t ≤ s.body.getF (.bwBasinStat t) Fld.bwBasinStatFree) → Gives (.clRegister c) s fun t => EndsWith s.body t fl 0 0 ∧
          t.coll reg = { r with slots0 := want 0, slots1 := want 1 } ∧
          (∀ k, k < 2 → t.getF (.bwBasinStat k) Fld.bwBasinStatFree = s.body.getF (.bwBasinStat k) Fld.bwBasinStatFree - want k) ∧
          t.le e.base 2 = id ∧ t.le (e.base + 2) 1 = reg ∧ t.le (e.base + 4) 4 = s.body.groupEpoch i ∧
          t.le (e.base + 12) 4 = (want 0 + want 1) % 2 ^ 32 ∧ SameBytesBut s.body t e.base 32)) ∧
    (∀ reg : Nat, reg = c.f 1 22 16 → Dispatched s.body c 0x64 fl →
      (s.body.regFor fl = none → Gives (.clUnregister c) s fun t => OnlyEnds s.body t fl 0x11 0 [] ∧ t.ln = s.body.ln) ∧
      (∀ r, s.body.regFor fl = some r → r.closing = none → (∀ x ∈ s.body.ln.runs, x.reg ≠ reg) → Gives (.clUnregister c) s fun t =>
        OnlyEnds s.body t fl 0 0 [(Reg.bwBasinStat 0).addr, (Reg.bwBasinStat 1).addr] ∧ t.coll reg = {} ∧
        Counted s.body t (.bwBasinStat 0) Fld.bwBasinStatFree r.slots0 ∧ Counted s.body t (.bwBasinStat 1) Fld.bwBasinStatFree r.slots1) ∧
      (∀ r x, s.body.regFor fl = some r → r.closing = none → x ∈ s.body.ln.runs → x.reg = reg → Gives (.clUnregister c) s fun t =>
        StaysInFlight s.body t fl ∧ t.coll reg = { r with closing := some fl } ∧ t.regs = s.body.regs))

/-- CL_RUN begins a run of its registration, and READYs, chunks and free positions let it go on. CL_RUN of no registration of a
READY group of the context ends with HOLD_RANGE; of one whose group is not READY with GROUP_EPOCH (0x30); while a run of the
registration is in progress it waits; with its buffers good, it starts its run. READY, COLLECTIVE_CHUNK and FREE_POSITION of a lower
epoch are discarded and counted. A READY before its CL_RUN is kept, and so is a FREE_POSITION; a chunk without its run changes
nothing. A READY of another hash ends the run with HOLD_RANGE; one of the same lets the run go on with that module, a chunk for a
rank here goes to its node, down the tree or to its ALL_TO_ALL slot, and positions are added. (R363, R367, R368, R370, R371) -/
def Obligations.CollectiveRunsGoOn : Prop :=
  ∀ (s : State),
    (∀ (c : Cmd) (fl : Flight), Dispatched s.body c 0x63 fl →
      (s.body.regFor fl = none → (∀ i, s.body.groupIndex (c.f 1 15 0) = some i → s.body.groupState i = 2) → Gives (.clRun c) s fun t =>
        OnlyEnds s.body t fl 0x11 0 [] ∧ t.ln = s.body.ln) ∧
      (∀ r, s.body.regFor fl = some r → r.closing = none →
        (s.body.groupState r.group ≠ 2 → Gives (.clRun c) s fun t => OnlyEnds s.body t fl 0x30 0 [] ∧ t.ln = s.body.ln) ∧
        (s.body.groupState r.group = 2 →
          (∀ x, x ∈ s.body.ln.runs → x.reg = c.f 1 22 16 → exec (.clRun c) s = .next s) ∧
          (∀ g n l, (∀ x ∈ s.body.ln.runs, x.reg ≠ c.f 1 22 16) → g = s.body.group r.group → n = g.ranks.length → l = (s.body.localRanks g).length →
            (∀ st h, s.body.firstBad fl (clHandles c r n l) = some (st, h) → Gives (.clRun c) s fun t => OnlyEnds s.body t fl st 0 [] ∧ t.ln = s.body.ln) ∧
            (s.body.firstBad fl (clHandles c r n l) = none → r.op ≠ 5 → Gives (.clRun c) s fun t => t = s.body.runStart fl r) ∧
            (∀ e, s.body.firstBad fl (clHandles c r n l) = none → r.op = 5 →
              (∀ p ∈ g.ranks, p.1 ≠ s.body.self → s.body.bundle p.1 (s.body.partOfSlot fl.slot) 3 ≠ []) →
              s.body.access fl.slot (c.h 2) (32 * c.f 2 37 18) (s.body.a2aSrc fl r n l) false = .ok e →
              Gives (.clRun c) s fun t => t = s.body.runStart fl r))))) ∧
    (∀ (peer group epoch reg run hash tree count : Nat) (k : Chunk), k.group = group → k.epoch = epoch → k.reg = reg → k.run = run →
      (s.body.isStale group epoch = true →
        ∀ i, i ∈ [Instr.ready peer group epoch reg run hash, .collectiveChunk peer k, .freePosition peer group epoch reg tree count] → Gives i s fun t =>
          t.ln.runs = s.body.ln.runs ∧ t.ln.readyIn = s.body.ln.readyIn ∧ t.ln.posIn = s.body.ln.posIn ∧
          t.getF .bwClTally Fld.bwClTallyStale = min (s.body.getF .bwClTally Fld.bwClTallyStale + 1) (2 ^ Fld.bwClTallyStale.width - 1)) ∧
      (s.body.isStale group epoch = false →
        (s.body.runFor group epoch reg run = none → (Gives (.ready peer group epoch reg run hash) s fun t =>
            t.ln.readyIn = s.body.ln.readyIn ++ [[peer, group, epoch, reg, run, hash]] ∧ t.ln.runs = s.body.ln.runs ∧ t.regs = s.body.regs) ∧
          exec (.collectiveChunk peer k) s = .next s) ∧
        (∀ x r, s.body.runFor group epoch reg run = some x → r = s.body.coll x.reg →
          (hash ≠ regHashOf r → Gives (.ready peer group epoch reg run hash) s fun t => OnlyEnds s.body t x.fl 0x11 0 [] ∧
            ∀ y ∈ t.ln.runs, y.fl.uid ≠ x.fl.uid) ∧
          (hash = regHashOf r → x.heldOut = [] → Gives (.ready peer group epoch reg run hash) s fun t =>
            t = s.body.runGo { x with readyFrom := peer :: x.readyFrom }) ∧
          (s.body.rankModule x k.dst ≠ s.body.self → exec (.collectiveChunk peer k) s = .next s) ∧
          (s.body.rankModule x k.dst = s.body.self → Gives (.collectiveChunk peer k) s fun t =>
            t = if r.op = 5 then (s.body.a2aTake x r k.src k.dst k.index k.data).1.runGo (s.body.a2aTake x r k.src k.dst k.index k.data).2
              else if k.down = true then
                (s.body.downAt x r k.tree k.src k.index k.data 12 k.dst).1.runGo (s.body.downAt x r k.tree k.src k.index k.data 12 k.dst).2
              else s.body.runGo (s.body.upAt x r k.tree k.dst k.src (if gathers r.op then k.src else 0) k.index k.data))) ∧
        (s.body.groupIndex group = none → exec (.freePosition peer group epoch reg tree count) s = .next s) ∧
        (∀ i, s.body.groupIndex group = some i →
          ((∀ x ∈ s.body.ln.runs, x.group ≠ i ∨ x.reg ≠ reg) → Gives (.freePosition peer group epoch reg tree count) s fun t =>
            t.ln.posIn = s.body.ln.posIn ++ [[peer, group, epoch, reg, tree, count]] ∧ t.ln.runs = s.body.ln.runs ∧ t.regs = s.body.regs) ∧
          (∀ x l, s.body.ln.runs = x :: l → x.group = i → x.reg = reg → Gives (.freePosition peer group epoch reg tree count) s fun t =>
            t = s.body.runGo (s.body.takePos x peer tree count)))))

/-- Mirror ranges open, copy and sync, the Twin pairs, unpairs, detaches and hands over. TW_MIRROR with its entries good and a place
free adds its range (SEND only inside a range the Twin announced, else HOLD_RANGE; ACCEPT announces it) and ends DONE; a bad handle
or range ends with its status. MIRROR_COPY with a marked granule, a Twin Line UP and not DETACHED clears its bit, counts it out of
DIRTY, holds it in flight and sends its bytes. TW_SYNC with nothing marked or in flight ends DONE; else it waits, or without a Twin
Line ends with LINE_LOST. PAIR not in LINKED ends with HOLD_RANGE; with the Twin's PAIR come, both are PAIRED; until then it waits.
UNPAIR closes every range. DETACH not in PAIRED ends with HOLD_RANGE; with no context resident and all copied it hands over and is
DETACHED. A HANDOVER from a Twin Line fills BW_TWIN_HAND and makes the state HOLDING; a mirror write from one stores inside an
ACCEPT range and nowhere else. (R372, R373, R374, R375) -/
def Obligations.TwinMirrorsAndPairs : Prop :=
  ∀ (s : State) (w : Twin) (stat : Reg), w = s.body.ln.twin → stat = .bwTwinStat →
    (∀ (c : Cmd) (fl : Flight), Dispatched s.body c 0x69 fl →
      (∀ st, s.body.mirrorArgs fl = .error st →
        (∀ an, c.b 1 0 = false → Gives (.twMirrorSend c an) s fun t => OnlyEnds s.body t fl st 0 [] ∧ t.ln = s.body.ln) ∧
        (c.b 1 0 = true → Gives (.twMirrorAccept c) s fun t => OnlyEnds s.body t fl st 0 [] ∧ t.ln = s.body.ln)) ∧
      (∀ e m, s.body.resolve fl.slot (c.h 1) = some e → s.body.resolve fl.slot (c.h 2) = some m → e.place ∈ [2, 3] → m.place ∈ [2, 3] →
        w.mirrors.length < 16 → ceilDiv e.size 65536 ≤ m.size * 8 → s.body.accessOk m 0 m.size true = true →
        (∀ an, c.b 1 0 = false → (∀ p ∈ an, e.base < p.1 ∨ p.1 + p.2 < e.base + e.size) → Gives (.twMirrorSend c an) s fun t =>
          OnlyEnds s.body t fl 0x11 0 [] ∧ t.ln = s.body.ln) ∧
        (∀ an x, x = Mirror.mk fl.slot (c.h 1) e.base e.size false m.base [] → c.b 1 0 = false →
          (∃ p ∈ an, p.1 ≤ e.base ∧ e.base + e.size ≤ p.1 + p.2) → Gives (.twMirrorSend c an) s fun t =>
            OnlyEnds s.body t fl 0 0 [stat.addr] ∧ t.ln = { s.body.ln with twin := { w with mirrors := w.mirrors ++ [x] } } ∧
            Counted s.body t stat Fld.bwTwinStatDirty (s.body.marked x).length ∧ t.getF stat Fld.bwTwinStatMirrors = w.mirrors.length + 1) ∧
        (c.b 1 0 = true → s.body.twinLines ≠ [] → Gives (.twMirrorAccept c) s fun t => EndsWith s.body t fl 0 0 ∧ SameBytes s.body t ∧
          t.ln.twin.mirrors = w.mirrors ++ [Mirror.mk fl.slot (c.h 1) e.base e.size true m.base []] ∧
          t.getF stat Fld.bwTwinStatMirrors = w.mirrors.length + 1 ∧ ∃ z ∈ t.out, z.kind = .twinAccept ∧ z.nums = [e.base, e.size]))) ∧
    ((s.body.twinLines = [] ∨ s.body.twinState = 4 ∨ s.body.firstMarked = none) → exec .mirrorCopy s = .next s) ∧
    (∀ i m g a, s.body.twinLines ≠ [] → s.body.twinState ≠ 4 → s.body.firstMarked = some (i, m, g) → a = m.base + g * 65536 →
      Gives .mirrorCopy s fun t => t.mapBit m.bitmap g = false ∧ (∀ k, k ≠ g → t.mapBit m.bitmap k = s.body.mapBit m.bitmap k) ∧
        SameBytesBut s.body t (m.bitmap + g / 8) 1 ∧ t.ln.twin.mirrors = w.mirrors.set i { m with inflight := m.inflight ++ [g] } ∧
        t.getF stat Fld.bwTwinStatDirty = s.body.getF stat Fld.bwTwinStatDirty - 1 ∧ t.hm = s.body.hm ∧
        ∃ z ∈ t.out, z.kind = .mirror ∧ z.nums = [a] ∧ z.data = t.bytes a (min 65536 (m.size - g * 65536))) ∧
    (∀ (c : Cmd) (fl : Flight), Dispatched s.body c 0x6A fl →
      (s.body.syncSet = [] → Gives (.twSync c) s fun t => OnlyEnds s.body t fl 0 0 [] ∧ t.ln = s.body.ln) ∧
      (s.body.syncSet ≠ [] → s.body.twinLines = [] → Gives (.twSync c) s fun t => OnlyEnds s.body t fl 0x21 0 [] ∧ t.ln = s.body.ln) ∧
      (s.body.syncSet ≠ [] → s.body.twinLines ≠ [] → Gives (.twSync c) s fun t => StaysInFlight s.body t fl ∧
        t.ln.twin.syncs = w.syncs ++ [(fl, s.body.syncSet)] ∧ t.regs = s.body.regs ∧ SameBytes s.body t)) ∧
    (∀ (c : Cmd) (fl : Flight), Dispatched s.body c 0x68 fl →
      (c.f 1 1 0 = 0 →
        (s.body.twinState ≠ 1 ∨ w.localPair ≠ none → Gives (.twCtlPair c) s fun t => OnlyEnds s.body t fl 0x11 0 [] ∧ t.ln = s.body.ln) ∧
        (s.body.twinState = 1 → w.localPair = none →
          (w.peerPair = true → Gives (.twCtlPair c) s fun t => EndsWith s.body t fl 0 0 ∧ t.twinState = 2 ∧ SameBytes s.body t) ∧
          (w.peerPair = false → s.body.twinLines ≠ [] → Gives (.twCtlPair c) s fun t => StaysInFlight s.body t fl ∧ t.twinState = 1 ∧
            t.ln.twin.localPair = some fl ∧ SameBytes s.body t ∧ ∃ z ∈ t.out, z.kind = .twinPair))) ∧
      (c.f 1 1 0 = 1 → w.syncs = [] → Gives (.twCtlUnpair c) s fun t => OnlyEnds s.body t fl 0 0 [stat.addr] ∧
        t.ln = { s.body.ln with twin := { w with mirrors := [] } } ∧ t.twinState = (if s.body.twinState = 2 then 1 else s.body.twinState) ∧
        t.getF stat Fld.bwTwinStatMirrors = 0 ∧ t.getF stat Fld.bwTwinStatDirty = 0) ∧
      (c.f 1 1 0 = 2 → fl.progress = [] →
        (s.body.twinState ≠ 2 → Gives (.twCtlDetach c) s fun t => OnlyEnds s.body t fl 0x11 0 [] ∧ t.ln = s.body.ln) ∧
        (s.body.twinState = 2 → s.body.resident = [] → s.body.syncSet = [] → s.body.twinLines ≠ [] → Gives (.twCtlDetach c) s fun t =>
          EndsWith s.body t fl 0 0 ∧ t.twinState = 4 ∧ t.ln.twin.detach = none ∧ SameBytes s.body t ∧ ∃ z ∈ t.out, z.kind = .handover ∧ z.nums = []))) ∧
    (∀ l : Fin 36,
      (l.val ∉ s.body.twinLines → ∀ areas a d i, i ∈ [Instr.handover l areas, .mirrorWrite l a d, .twinPairMessage l] → exec i s = .next s) ∧
      (l.val ∈ s.body.twinLines →
        (∀ areas : List (Nat × Nat), Gives (.handover l areas) s fun t => t.twinState = 5 ∧ SameBytes s.body t ∧ t.hm = s.body.hm ∧
          t.getF stat Fld.bwTwinStatHanded = min 64 areas.length ∧ ∀ k p, k < 64 → areas[k]? = some p →
            t.getF (.bwTwinHand k) Fld.bwTwinHandSaveBase = p.1 % 2 ^ Fld.bwTwinHandSaveBase.width ∧
            t.getF (.bwTwinHand k) Fld.bwTwinHandCtx = p.2 % 2 ^ Fld.bwTwinHandCtx.width) ∧
        (w.localPair = none → Gives (.twinPairMessage l) s fun t => t = { s.body with ln.twin.peerPair := true }) ∧
        (∀ f, w.localPair = some f → s.body.twinState = 1 → Gives (.twinPairMessage l) s fun t => OnlyEnds s.body t f 0 0 [stat.addr] ∧
          t.twinState = 2 ∧ t.ln.twin.localPair = none) ∧
        (∀ (a : Nat) (d : List Byte),
          ((∀ m ∈ w.mirrors, m.accept = false ∨ a < m.base ∨ m.base + m.size < a + d.length) → exec (.mirrorWrite l a d) s = .next s) ∧
          ((∃ m ∈ w.mirrors, m.accept = true ∧ m.base ≤ a ∧ a + d.length ≤ m.base + m.size) → (∀ m ∈ w.mirrors, m.accept = true) →
            s.body.tiers.badSectors = [] → Gives (.mirrorWrite l a d) s fun t => (∀ i, i < d.length → t.byte (a + i) = d.getD i 0) ∧
              SameBytesBut s.body t a d.length ∧ t.hm = s.body.hm))))

/-- Framing is staged, set and read, fuses are blown, and reports and debug levels are given as R417-R425 say. FR_STAGE of a
container that verifies stores it in the inactive slot and marks it PENDING; one refused ends with HOLD_RANGE at step 8 and
AUTH_FAIL before it, nothing stored. FR_LIVE sets a live field to its clamped value and writes the registers it feeds, or ends with
HOLD_RANGE. FR_READ writes the active image or the current values. SC_ATTEST waits for entropy, or writes a report signed with a
fresh free secret. SC_COMMIT raises the counters and revokes slots, or blows nothing; SC_OWNER blows the owner hash once. CHALLENGE
writes the serial number and fresh bytes; UNLOCK consumes the challenge and sets the token's levels, or counts a failure, the third
locking it out; LOCK and TOKEN_EXPIRY clear the levels, CHALLENGE_VOID the challenge, and the hour's end the failures. (R410, R417,
R418, R419, R422, R423, R424, R425) -/
def Obligations.FramingAndSecurityCommands : Prop :=
  ∀ (s : State) (c : Cmd) (fl : Flight) (stat : Reg), stat = .scDebugStat →
    (∀ kind off, kind = (if c.b 1 0 = true then 2 else 1) → off = 32 * c.f 1 37 18 → Dispatched s.body c 0x80 fl →
      (∀ st, s.body.accessHere fl.slot (c.h 1) off 512 false = .error st → Gives (.frStage c) s fun t => OnlyEnds s.body t fl st 0 [] ∧
        t.boot = s.body.boot) ∧
      (∀ e a n k slot, s.body.accessHere fl.slot (c.h 1) off 512 false = .ok e → a = e.base + off → n = s.body.le (a + 8) 4 →
        s.body.accessHere fl.slot (c.h 1) off n false = .ok e → PlainMemory s.body → k = s.body.verify s.fuse kind a →
        slot = 1 - (if kind = 2 then s.body.boot.activeFw else s.body.boot.activeFr) → Gives (.frStage c) s fun t =>
          if k = 0 then EndsWith s.body t fl 0 0 ∧ t.bytes (imageAt kind slot) n = s.body.bytes a n ∧ SameBytesBut s.body t (imageAt kind slot) n ∧
            t.boot = (if kind = 2 then { s.body.boot with pendFw := some slot } else { s.body.boot with pendFr := some slot })
          else EndsWith s.body t fl (if k = 8 then 0x11 else 0x60) 0 ∧ SameBytes s.body t ∧ t.boot = s.body.boot)) ∧
    (∀ id idx v fr new, id = c.f 1 15 0 → idx = c.f 1 31 16 → v = (c.w 2).toNat → fr = s.body.framing → Dispatched s.body c 0x81 fl →
      new = s.body.clampFr id idx v (fun j => s.body.getF (.slCfg j (id - 0x048)) Fld.slCfgRate) →
      (s.body.liveOk id idx = false → Gives (.frLive c) s fun t => OnlyEnds s.body t fl 0x11 0 [] ∧ t.framing = fr) ∧
      (s.body.liveOk id idx = true → Gives (.frLive c) s fun t => EndsWith s.body t fl 0 0 ∧ SameBytes s.body t ∧
        (id ≠ 0x050 → id ≠ 0x051 → t.framing = frSet fr id idx new) ∧
        (∀ p, p = rampClamp (frGet fr 0x00C) (if id = 0x050 then new else frGet fr 0x050 idx) (if id = 0x051 then v else frGet fr 0x051 idx) →
          id = 0x050 ∨ id = 0x051 → frGet t.framing 0x050 idx = p.1 ∧ frGet t.framing 0x051 idx = p.2) ∧
        (0x048 ≤ id → id ≤ 0x04A → t.getF (.slCfg idx (id - 0x048)) Fld.slCfgRate = new % 65536 ∧
          t.getF (.slCfg idx (id - 0x048)) Fld.slCfgBurst = new / 65536 % 65536) ∧
        (id < 0x048 ∨ 0x04A < id → ∀ p ∈ frFeeds t.framing id idx, t.getF p.1 p.2 = fiValue t.framing p.1 p.2 % 2 ^ p.2.width))) ∧
    (∀ data : List Byte, data = (if c.b 1 0 = true then currentForm s.body.framing else s.body.boot.frBytes) → Dispatched s.body c 0x82 fl →
      (∀ st, s.body.accessHere fl.slot (c.h 1) 0 data.length true = .error st → Gives (.frRead c) s fun t => OnlyEnds s.body t fl st 0 []) ∧
      (∀ e, s.body.accessHere fl.slot (c.h 1) 0 data.length true = .ok e → PlainMemory s.body → Gives (.frRead c) s fun t =>
        EndsWith s.body t fl 0 0 ∧ t.bytes e.base data.length = data ∧ SameBytesBut s.body t e.base data.length)) ∧
    (Dispatched s.body c 0x83 fl → c.h 6 = 0 → c.h 7 = 0 →
      (∀ st, s.body.accessHere fl.slot (c.h 1) 0 512 true = .error st → Gives (.scAttest c) s fun t => OnlyEnds s.body t fl st 0 []) ∧
      (∀ e, s.body.accessHere fl.slot (c.h 1) 0 512 true = .ok e →
        (s.body.takeWord 1 = none → Gives (.scAttest c) s fun t => t = s.body.awaitEntropy fl ∧ fl.uid ∈ t.rnd.waits) ∧
        (∀ w b k d x, s.body.takeWord 1 = some (w, b) → b.freeSecret = (k, d) → PlainMemory s.body →
          x = s.body.report s.fuse fl.cmd.ctx.toNat ([2, 3, 4, 5].flatMap fun i => leBytes 8 (c.w i).toNat) (List.replicate 64 0) false →
          Gives (.scAttest c) s fun t => match ecdsaSign Config.identityScalar (1 + k % (curveN - 1)) (sha384 x) with
            | some sig => EndsWith s.body t fl 0 0 ∧ t.bytes e.base 416 = x ∧ t.bytes (e.base + 416) 96 = sig ∧ SameBytesBut s.body t e.base 512
            | none => t.hm = s.body.hm ∧ SameBytes s.body t))) ∧
    (∀ rev bad, rev = c.f 1 5 2 → bad = (rev.testBit s.body.boot.fw.signer || decide (s.fuse.revoked ||| rev = 0xF)) → Dispatched s.body c 0x84 fl →
      (bad = true → Gives (.scCommit c) s fun t => OnlyEnds s.body t fl 0x11 0 []) ∧
      (bad = false → ∃ t, exec (.scCommit c) s = .next t ∧
        t.fuse.revoked = s.fuse.revoked ||| rev ∧ t.fuse.owner = s.fuse.owner ∧ t.fuse.mapout = s.fuse.mapout ∧
        t.fuse.fwSvn = (if c.b 1 0 = true then max s.fuse.fwSvn (min 64 s.body.boot.fw.svn) else s.fuse.fwSvn) ∧
        t.fuse.frSvn = (if c.b 1 1 = true ∧ s.body.boot.frBytes ≠ [] then max s.fuse.frSvn (min 64 s.body.boot.fr.svn) else s.fuse.frSvn) ∧
        OnlyEnds s.body t.body fl 0 0 (Reg.scId2.addr :: (List.range 20).map fun k => (Reg.mtHbmMapout k).addr) ∧
        t.body.getF .scId2 Fld.scId2Revoked = t.fuse.revoked % 2 ^ Fld.scId2Revoked.width ∧
        t.body.getF .scId2 Fld.scId2FwSvn = t.fuse.fwSvn % 2 ^ Fld.scId2FwSvn.width ∧
        t.body.getF .scId2 Fld.scId2FrSvn = t.fuse.frSvn % 2 ^ Fld.scId2FrSvn.width)) ∧
    (Dispatched s.body c 0x85 fl →
      (s.fuse.owner ≠ none → Gives (.scOwner c) s fun t => OnlyEnds s.body t fl 0x60 0 []) ∧
      (s.fuse.owner = none → ∃ t, exec (.scOwner c) s = .next t ∧ OnlyEnds s.body t.body fl 0 0 [Reg.scId2.addr] ∧
        t.fuse = { s.fuse with owner := some (BitVec.ofNat 384 (ofBe ([2, 3, 4, 5, 6, 7].flatMap fun i => leBytes 8 (c.w i).toNat))) } ∧
        t.body.getF .scId2 Fld.scId2OwnerSet = 1)) ∧
    (Dispatched s.body c 0x86 fl →
      (c.f 1 1 0 = 0 →
        (∀ st, s.body.accessHere fl.slot (c.h 2) 0 48 true = .error st → Gives (.scDebugChallenge c) s fun t => OnlyEnds s.body t fl st 0 [] ∧
          t.unlock = s.body.unlock) ∧
        (∀ e, s.body.accessHere fl.slot (c.h 2) 0 48 true = .ok e →
          (s.body.takeWord 1 = none → Gives (.scDebugChallenge c) s fun t => t.hm = s.body.hm ∧ fl.uid ∈ t.rnd.waits ∧ SameBytes s.body t) ∧
          (∀ w b, s.body.takeWord 1 = some (w, b) → PlainMemory s.body → Gives (.scDebugChallenge c) s fun t => EndsWith s.body t fl 0 0 ∧
            t.unlock = { s.body.unlock with challenge := some (Config.seedOf w), challengeAt := s.body.ts } ∧
            t.bytes e.base 48 = leBytes 16 Config.serial.toNat ++ leBytes 32 (Config.seedOf w).toNat ∧ SameBytesBut s.body t e.base 48))) ∧
      (∀ e x k old, c.f 1 1 0 = 1 → s.body.accessHere fl.slot (c.h 2) 0 320 false = .ok e → PlainMemory s.body → x = s.body.bytes e.base 320 →
        k = s.body.tokenCheck s.fuse x → old = s.body.unlock.failTimes.filter (fun t => decide (s.body.now - t.toNat < 3600 * second)) →
        (s.body.flag stat Fld.scDebugStatLockout = true → Gives (.scDebugUnlock c) s fun t => EndsWith s.body t fl 0x60 0 ∧ SameBytes s.body t ∧
          t.unlock = { s.body.unlock with challenge := none } ∧ t.reg stat = s.body.reg stat) ∧
        (s.body.flag stat Fld.scDebugStatLockout = false → Gives (.scDebugUnlock c) s fun t => SameBytes s.body t ∧ t.unlock.challenge = none ∧
          if k = 0 then EndsWith s.body t fl 0 0 ∧ t.getF stat Fld.scDebugStatLevels = numAt x 6 2 % 8 ∧ t.getF stat Fld.scDebugStatSeen = 1 ∧
            t.unlock.expiry = BitVec.ofNat 64 (numAt x 56 8) ∧ t.unlock.failTimes = s.body.unlock.failTimes
          else EndsWith s.body t fl 0x60 0 ∧ t.getF stat Fld.scDebugStatLevels = s.body.getF stat Fld.scDebugStatLevels ∧
            t.unlock.failTimes = old ++ [s.body.ts] ∧ t.getF stat Fld.scDebugStatFails = min 3 (old.length + 1) ∧
            t.getF stat Fld.scDebugStatLockout = (if 2 ≤ old.length then 1 else 0))) ∧
      (2 ≤ c.f 1 1 0 → Gives (.scDebugLock c) s fun t => OnlyEnds s.body t fl 0 0 [stat.addr, Reg.hmStepStat.addr] ∧
        t.getF stat Fld.scDebugStatLevels = 0)) ∧
    (s.body.unlock.expiry = 0 → exec .tokenExpiry s = .next s) ∧
    (s.body.unlock.expiry ≠ 0 → Gives .tokenExpiry s fun t => t.getF stat Fld.scDebugStatLevels = 0 ∧ t.unlock = { s.body.unlock with expiry := 0 } ∧
      t.hm = s.body.hm ∧ SameRegsBut s.body t [stat.addr, Reg.hmStepStat.addr] ∧ SameBytes s.body t) ∧
    (Gives .challengeVoid s fun t => t = { s.body with unlock.challenge := none }) ∧
    (Gives .unlockFailsHour s fun t => t.getF stat Fld.scDebugStatFails = 0 ∧
      t.getF stat Fld.scDebugStatLockout = s.body.getF stat Fld.scDebugStatLockout ∧ t.unlock = { s.body.unlock with failTimes := [] } ∧
      SameRegsBut s.body t [stat.addr] ∧ SameBytes s.body t ∧ t.hm = s.body.hm)

/-- The anti-rollback counters rise only by SC_COMMIT, to the running image's SVN, and read 0 to 64. In every step, a counter that
changes does so by an SC_COMMIT at the front of the queue that selects it, rises, and becomes the SVN of the running image of its
kind, of which a thermometer of 64 bits holds at most 64; one that reads at most 64 still does. SC_COMMIT that blows anything raises
a selected counter to that SVN, or leaves it where it is already as high; it has no running framing image to go by under the safe
framing. (R410) -/
def Obligations.SvnCountersOnlyRiseByCommit : Prop :=
  (∀ s t : State, step s = .next t →
    s.fuse.fwSvn ≤ t.fuse.fwSvn ∧ s.fuse.frSvn ≤ t.fuse.frSvn ∧ (s.fuse.fwSvn ≤ 64 → t.fuse.fwSvn ≤ 64) ∧ (s.fuse.frSvn ≤ 64 → t.fuse.frSvn ≤ 64) ∧
    (t.fuse.fwSvn ≠ s.fuse.fwSvn → ∃ c r, s.pending = .scCommit c :: r ∧ c.b 1 0 = true ∧ t.fuse.fwSvn = min 64 s.body.boot.fw.svn) ∧
    (t.fuse.frSvn ≠ s.fuse.frSvn → ∃ c r, s.pending = .scCommit c :: r ∧ c.b 1 1 = true ∧ t.fuse.frSvn = min 64 s.body.boot.fr.svn)) ∧
  ∀ (s : State) (c : Cmd) (fl : Flight), Dispatched s.body c 0x84 fl → (c.f 1 5 2).testBit s.body.boot.fw.signer = false →
    s.fuse.revoked ||| c.f 1 5 2 ≠ 0xF → ∃ t, exec (.scCommit c) s = .next t ∧
      t.fuse.fwSvn = (if c.b 1 0 = true ∧ s.fuse.fwSvn < min 64 s.body.boot.fw.svn then min 64 s.body.boot.fw.svn else s.fuse.fwSvn) ∧
      t.fuse.frSvn = (if c.b 1 1 = true ∧ s.body.boot.frBytes ≠ [] ∧ s.fuse.frSvn < min 64 s.body.boot.fr.svn then min 64 s.body.boot.fr.svn
        else s.fuse.frSvn)

/-- Each Quay's ACLK is its least ceiling, and limits, samples and protections move the ceilings. ACLK_UPDATE gives each powered
Quay its least ceiling (400 MHz while the input is low) and any other Quay 0, and writes CAUSE and GUARD. PW_LIMIT clamps and writes
the MPL, caps and floors it selects and ends DONE, or of a partition not defined ends with HOLD_RANGE. POWER_SAMPLE keeps 128
samples and writes their mean and the pins' readings; MPL_EVALUATION lowers, raises or leaves the MPL ceilings and counts floors
missed. DROOP stretches a Quay once and counts, its release ends that; overcurrents take 5 steps of every Quay or 4 of one, at most
54, and a release gives one back; THERMAL_STEP moves thermal ceilings by a step, keeps T_J and the 110 degree hold, and counts. A
low input and a lost REFCLK are recorded, Lines and sub-ports losing lock. Without power, or while WATCH restarts, nothing changes.
(R432, R433, R434, R435, R436, R437, R438, R450, R451) -/
def Obligations.ClocksAndProtections : Prop :=
  ∀ (s : State) (w : Power) (clk loop : Nat → Reg), w = s.body.power → clk = Reg.wtQuayClk → loop = Reg.wtLoopStat →
    (s.body.boot.phase = .off → ∀ mv ma l us, ∀ i ∈ [Instr.aclkUpdate, .powerSample mv ma, .mplEvaluation, .thermalStep l, .inputLow mv, .refclkLoss us],
      exec i s = .next s) ∧
    (w.holdWatch = true → ∀ mv ma l q, ∀ i ∈ [Instr.powerSample mv ma, .mplEvaluation, .thermalStep l, .inputOvercurrent, .railOvercurrent q,
      .currentCeilingRelease q], exec i s = .next s) ∧
    (s.body.boot.phase ≠ .off → Gives .aclkUpdate s fun t => SameBytes s.body t ∧ t.hm = s.body.hm ∧
      SameRegsBut s.body t ((List.range 10).map fun q => (clk q).addr) ∧
      ∀ q c, q < 10 → c = (s.body.ceiling q).1 → 400 ≤ c ∧ (∀ p ∈ s.body.ceilings q, c ≤ max 400 p.1) ∧
        t.aclk q = (if s.body.quayUp q = false then 0 else if w.inputLow = true then 400 else c) ∧
        t.getF (clk q) Fld.wtQuayClkGuard = w.guard.getD q 16 % 2 ^ Fld.wtQuayClkGuard.width ∧
        (s.body.quayUp q = false → t.getF (clk q) Fld.wtQuayClkCause = 7) ∧
        (s.body.quayUp q = true → w.inputLow = false → t.getF (clk q) Fld.wtQuayClkCeiling = c ∧
          t.getF (clk q) Fld.wtQuayClkCause = (s.body.ceiling q).2)) ∧
    (∀ (c : Cmd) (fl : Flight) (k cap : Nat) (lim : Reg), k = nearTarget (c.f 1 3 0) → cap = (clampMhz (c.f 2 25 16)).1 → lim = .wtLimit k →
      Dispatched s.body c 0x7C fl →
      (k = 15 → Gives (.pwLimit c) s fun t => OnlyEnds s.body t fl 0 0 [Reg.wtMpl.addr] ∧
        t.getF .wtMpl Fld.wtMplMpl = (if c.b 1 4 = true then (clampTo (c.f 2 12 0) (frGet s.body.framing 0x008) (frGet s.body.framing 0x009)).1 %
          2 ^ Fld.wtMplMpl.width else s.body.getF .wtMpl Fld.wtMplMpl) ∧
        t.getF .wtMpl Fld.wtMplAclkMax = (if c.b 1 5 = true then cap else s.body.getF .wtMpl Fld.wtMplAclkMax)) ∧
      (k ≠ 15 → partDefined s.body.framing k = false → Gives (.pwLimit c) s fun t => OnlyEnds s.body t fl 0x11 0 []) ∧
      (k ≠ 15 → partDefined s.body.framing k = true → Gives (.pwLimit c) s fun t => OnlyEnds s.body t fl 0 0 [lim.addr] ∧
        t.getF lim Fld.wtLimitCap = (if c.b 1 5 = true then cap else s.body.getF lim Fld.wtLimitCap) ∧
        t.getF lim Fld.wtLimitFloor = (if c.b 1 6 = true then floorClamp (c.f 2 41 32) (t.getF lim Fld.wtLimitCap) (s.body.getF .wtMpl Fld.wtMplAclkMax)
          else s.body.getF lim Fld.wtLimitFloor))) ∧
    (s.body.boot.phase ≠ .off → w.holdWatch = false →
      (∀ mv ma all l, all = w.pSamples ++ [mv * ma] → l = all.drop (all.length - 128) → Gives (.powerSample mv ma) s fun t =>
        t.power = { w with pSamples := l } ∧ t.getF .wtMpl Fld.wtMplPAvg = min 8191 (l.sum / (1000000 * l.length)) ∧
        t.getF .wtPinStat Fld.wtPinStatVinMv = min 65535 mv ∧ t.getF .wtPinStat Fld.wtPinStatIin = min 65535 (ma / 10) ∧
        SameRegsBut s.body t [Reg.wtMpl.addr, Reg.wtPinStat.addr] ∧ SameBytes s.body t ∧ t.hm = s.body.hm) ∧
      (∀ n p m, n = w.pSamples.length → p = w.pSamples.sum → m = s.body.getF .wtMpl Fld.wtMplMpl * 1000000 * n → Gives .mplEvaluation s fun t =>
        (∀ q, q < 10 → Counted s.body t (loop q) Fld.wtLoopStatFloorShort (if s.body.quayUp q = true ∧ s.body.aclk q < s.body.floorOf q then 1 else 0)) ∧
        t.power.watchSteps = w.watchSteps.map (· - 1) ∧ t.power.mplSteps = (if n = 0 then w.mplSteps
          else if m < p then (s.body.mplLower (min 8 (ceilDiv ((p - m) * 100) (max 1 m)))).power.mplSteps
          else if p * 100 < m * 97 then s.body.mplRaise.power.mplSteps else w.mplSteps) ∧
        SameRegsBut s.body t ((List.range 10).map fun q => (loop q).addr) ∧ SameBytes s.body t ∧ t.hm = s.body.hm) ∧
      (∀ (l : List Nat) (hold : Bool) (step : Nat → Nat),
        hold = (if l.any (fun x => decide (110 < x)) = true then true else if l.all (fun x => decide (x < 105)) = true then false else w.hold110) →
        step = (fun q => if 100 < l.getD q 0 then min 54 (w.thermSteps.getD q 0 + 1) else if l.getD q 0 < 95 then w.thermSteps.getD q 0 - 1
          else w.thermSteps.getD q 0) →
        Gives (.thermalStep l) s fun t => t.power = { w with hold110 := hold, thermSteps := (List.range 10).map step } ∧
          (∀ q, q < 10 → t.getF (clk q) Fld.wtQuayClkTj = min 255 (l.getD q 0) ∧
            Counted s.body t (loop q) Fld.wtLoopStatThermal (if hold = true ∨ 0 < step q then 1 else 0)) ∧
          SameRegsBut s.body t ((List.range 10).flatMap fun q => [(clk q).addr, (loop q).addr]) ∧ SameBytes s.body t ∧ t.hm = s.body.hm)) ∧
    (∀ q : Fin 10, (q.val ∈ w.stretch ∨ s.body.quayUp q.val = false → exec (.droop q) s = .next s) ∧
      (q.val ∉ w.stretch → s.body.quayUp q.val = true → Gives (.droop q) s fun t => t.power = { w with stretch := w.stretch ++ [q.val] } ∧
        Counted s.body t (loop q.val) Fld.wtLoopStatDroop 1 ∧ SameRegsBut s.body t [(loop q.val).addr] ∧ SameBytes s.body t ∧ t.hm = s.body.hm) ∧
      (Gives (.droopRelease q) s fun t => t = { s.body with power := { w with stretch := t.power.stretch } } ∧ ∀ k, k ∈ t.power.stretch ↔ k ∈ w.stretch ∧ k ≠ q.val) ∧
      (w.holdWatch = false →
        (Gives (.railOvercurrent q) s fun t => t = { s.body with power := { w with curSteps := t.power.curSteps } } ∧
          ∀ k, k < 10 → t.power.curSteps.getD k 0 = if k = q.val then min 54 (w.curSteps.getD k 0 + 4) else w.curSteps.getD k 0) ∧
        (Gives (.currentCeilingRelease q) s fun t => t = { s.body with power := { w with curSteps := t.power.curSteps } } ∧
          ∀ k, t.power.curSteps.getD k 0 = if k = q.val then w.curSteps.getD k 0 - 1 else w.curSteps.getD k 0))) ∧
    (w.holdWatch = false → Gives .inputOvercurrent s fun t => t = { s.body with power := { w with curSteps := t.power.curSteps } } ∧
      ∀ k, k < 10 → t.power.curSteps.getD k 0 = min 54 (w.curSteps.getD k 0 + 5)) ∧
    (∀ mv, s.body.boot.phase ≠ .off → w.inputLow = false → Gives (.inputLow mv) s fun t => t.power = { w with inputLow := true } ∧
      SameRegsBut s.body t [] ∧ SameBytes s.body t ∧ t.hm = s.body.hm) ∧
    (Gives .inputRecovery s fun t => t = { s.body with power := { w with inputLow := false } }) ∧
    (∀ us, s.body.boot.phase ≠ .off → w.refclk = true → Gives (.refclkLoss us) s fun t => t.power = { w with refclk := false } ∧
      (∀ l, l < 36 → t.lineState l = (if s.body.lineUp l = true then 3 else s.body.lineState l)) ∧
      (∀ p, p < 8 → t.getF (.epPortStat p) Fld.epPortStatLink = 0) ∧ SameBytes s.body t ∧ t.hm = s.body.hm) ∧
    (Gives .refclkReturn s fun t => t = { s.body with power := { w with refclk := true } })

/-- Berths wake, moor and are laid up, and the module goes into ANCHOR or DRYDOCK and comes back. A PW_BERTH naming a Quay in no
partition ends with HOLD_RANGE; else it ends DONE where its Berths have the state asked for, and waits otherwise; SET_IDLE writes
MOOR_IDLE. An idle Berth with MOOR_IDLE set begins to moor, and a transition's end wakes or moors the Berth, or serves the oldest
PW_BERTH. PW_STATE in RUN begins its entry, READY low, and elsewhere waits; ANCHOR is entered, every Berth laid up, once the
commands have stopped, and left for RUN; DRYDOCK_POWER_OFF ends DRYDOCK's entry with the wake timer kept. A wake timer or pin leaves
DRYDOCK, or in ANCHOR records its cause. A die above 120 degrees, or REFCLK absent for 100 ms in RUN or ANCHOR, trips: DRYDOCK at
once with TRIP set and no wake timer. (R432, R438, R439, R440, R441, R442, R452, R453, R486) -/
def Obligations.BerthsAndModuleStates : Prop :=
  ∀ (s : State) (w : Power) (ph : Phase) (stat : Nat → Reg), w = s.body.power → ph = s.body.boot.phase → stat = Reg.brPwrStat →
    (∀ (c : Cmd) (fl : Flight) (qs gs : List Nat) (op : Nat), qs = (List.range 10).filter (fun q => (c.f 1 9 0).testBit q) →
      gs = berthsOf qs (c.f 2 19 0) → op = c.f 1 17 16 → Dispatched s.body c 0x7D fl →
      (∀ i, (i, op) ∈ [(Instr.pwBerthWake c, 0), (.pwBerthMoor c, 1), (.pwBerthLayup c, 2), (.pwBerthSetIdle c, 3)] →
        (∃ q ∈ qs, partOfQuay s.body.framing q = none) → Gives i s fun t => OnlyEnds s.body t fl 0x11 0 []) ∧
      ((∀ q ∈ qs, partOfQuay s.body.framing q ≠ none) →
        (op = 3 → Gives (.pwBerthSetIdle c) s fun t => OnlyEnds s.body t fl 0 0 (gs.map fun g => (Reg.brPwrCtl g).addr) ∧
          ∀ g ∈ gs, t.getF (.brPwrCtl g) Fld.brPwrCtlMoorIdle = c.f 3 15 0) ∧
        (∀ i goal left, (i, op, goal) ∈ [(Instr.pwBerthWake c, 0, 1), (.pwBerthMoor c, 1, 2), (.pwBerthLayup c, 2, 3)] →
          left = gs.filter (fun g => if op = 0 then decide (2 ≤ s.body.pwr g) else decide (s.body.pwr g ≠ goal)) →
          (left = [] → Gives i s fun t => OnlyEnds s.body t fl 0 0 []) ∧
          (left ≠ [] → Gives i s fun t => StaysInFlight s.body t fl ∧ t.power.waits = w.waits ++ [{ fl := fl, berths := left, goal := goal }] ∧
            t.regs = s.body.regs ∧ SameBytes s.body t ∧ (op = 0 → ∀ g ∈ left, t.pwrTarget g = some 1))))) ∧
    (∀ g : Fin 200,
      (s.body.getF (.brPwrCtl g) Fld.brPwrCtlMoorIdle = 0 ∨ s.body.moorOk g = false ∨ s.body.pwrTarget g ≠ none → exec (.berthMoorIdle g) s = .next s) ∧
      (s.body.getF (.brPwrCtl g) Fld.brPwrCtlMoorIdle ≠ 0 → s.body.moorOk g = true → s.body.pwrTarget g = none → Gives (.berthMoorIdle g) s fun t =>
        t.pwrTarget g = some 2 ∧ t.regs = s.body.regs ∧ t.hm = s.body.hm ∧ SameBytes s.body t) ∧
      (s.body.pwrTarget g = some 1 → Gives (.berthTransitionDone g) s fun t => t.pwrTarget g = none ∧
        (2 ≤ s.body.pwr g → t.pwr g = if s.body.berthBusy g = true then 0 else 1) ∧
        Counted s.body t (stat g) Fld.brPwrStatWakes (if 2 ≤ s.body.pwr g then 1 else 0) ∧
        ∀ x ∈ w.waits, x.goal = 1 → (∀ k ∈ x.berths, k = g.val) → ∃ e ∈ t.hm.ended, e.fl.uid = x.fl.uid ∧ e.status = 0) ∧
      (∀ n, s.body.pwrTarget g = some n → n ≠ 1 →
        (s.body.moorOk g = true → Gives (.berthTransitionDone g) s fun t => t.pwr g = 2 ∧ t.pwrTarget g = none ∧ SameBytes s.body t) ∧
        (s.body.moorOk g = false → Gives (.berthTransitionDone g) s fun t => t.pwrTarget g = none ∧ t.regs = s.body.regs ∧ t.hm = s.body.hm ∧
          SameBytes s.body t)) ∧
      (s.body.pwrTarget g = none → w.waits = [] → exec (.berthTransitionDone g) s = .next s) ∧
      (∀ x r, s.body.pwrTarget g = none → w.waits = x :: r → g.val ∈ x.berths →
        (x.goal = 2 → s.body.moorOk g = true → Gives (.berthTransitionDone g) s fun t => t.pwr g = 2 ∧ SameBytes s.body t) ∧
        (x.goal = 3 → s.body.holdsCrate g = true → s.body.moorOk g = true → Gives (.berthTransitionDone g) s fun t => t.pwr g = 2 ∧
          t.getF (stat g) Fld.brPwrStatHeldMoor = 1 ∧ SameBytes s.body t) ∧
        (x.goal = 3 → s.body.holdsCrate g = false → s.body.layupOk g = true → Gives (.berthTransitionDone g) s fun t => t.pwr g = 3 ∧
          t.berth g = {} ∧ ∀ k, k < 8 → t.regionReady (8 * g.val + k) = false))) ∧
    (∀ (c : Cmd) (fl : Flight) (wake : Option Word), wake = (if c.f 2 31 0 = 0 then none else some (s.body.ts + BitVec.ofNat 64 (c.f 2 31 0 * 1000000))) →
      Dispatched s.body c 0x7E fl →
      (c.f 1 1 0 = 0 →
        (fl.progress = [] → ph ≠ .run → exec (.pwStateAnchor c) s = .next s) ∧
        (fl.progress = [] → ph = .run → s.body.resident = [] → Gives (.pwStateAnchor c) s fun t => t.boot.phase = .anchorEntry ∧
          t.power = { w with stateCmd := some fl } ∧ t.getF .wtState Fld.wtStateModule = 3 ∧ t.hm.ended = s.body.hm.ended ∧
          (∃ x ∈ t.hm.flights, x.uid = fl.uid ∧ x.progress = [1]) ∧ ∃ m, t.out = s.body.out ++ [m] ∧ m.kind = .readyPin ∧ m.nums = [0]) ∧
        (fl.progress ≠ [] → ph ≠ .anchorEntry ∨ s.body.anchorReady fl = false → exec (.pwStateAnchor c) s = .next s) ∧
        (fl.progress ≠ [] → fl.cmd = c → ph = .anchorEntry → s.body.anchorReady fl = true → Gives (.pwStateAnchor c) s fun t => t.boot.phase = .anchor ∧
          t.getF .wtState Fld.wtStateModule = 1 ∧ t.power.wakeAt = wake ∧ (∀ g, g < 200 → t.pwr g = 3) ∧
          ∃ e ∈ t.hm.ended, e.fl.uid = fl.uid ∧ e.status = 0)) ∧
      (c.f 1 1 0 ≠ 0 →
        (ph ≠ .run → exec (.pwStateDrydock c) s = .next s) ∧
        (ph = .run → s.body.resident = [] → Gives (.pwStateDrydock c) s fun t => t.boot.phase = .drydockEntry ∧ t.power = { w with wakeAt := wake } ∧
          t.getF .wtState Fld.wtStateModule = 3 ∧ (∀ x ∈ t.hm.flights, x.uid ≠ fl.uid) ∧ ∃ m ∈ t.out, m.kind = .readyPin ∧ m.nums = [0]))) ∧
    (ph ≠ .drydockEntry → exec .drydockPowerOff s = .next s) ∧
    (∀ i (wake : Option Word) trip, (i = .drydockPowerOff ∧ wake = w.wakeAt ∧ ph = .drydockEntry ∧ trip = s.body.getF .wtState Fld.wtStateTrip) ∨
        ((∃ d temp, i = .thermalTrip d temp ∧ 120 < temp ∧ ph ≠ .off ∧ ph ≠ .drydock) ∧ wake = none ∧ trip = 1) ∨
        ((i = .refclkAbsentTimeout ∧ w.refclk = false ∧ ph ∈ [.run, .anchorEntry, .anchor]) ∧ wake = none ∧ trip = 1) →
      Gives i s fun t => t.boot.phase = .drydock ∧ t.power.wakeAt = wake ∧ t.getF .wtState Fld.wtStateModule = 2 ∧
        t.getF .wtState Fld.wtStateTrip = trip ∧ t.hm.flights = [] ∧ t.hm.ended = [] ∧ t.framing = [] ∧ t.ts = s.body.ts) ∧
    (∀ d temp, temp ≤ 120 ∨ ph = .off ∨ ph = .drydock → exec (.thermalTrip d temp) s = .next s) ∧
    (w.refclk = true ∨ ph ∉ [.run, .anchorEntry, .anchor] → exec .refclkAbsentTimeout s = .next s) ∧
    (ph ≠ .anchor ∨ w.exitPending = false ∨ w.holdWatch = true → exec .anchorExit s = .next s) ∧
    (ph = .anchor → w.exitPending = true → w.holdWatch = false → (∀ f, w.stateCmd = some f → f.progress.tail = []) → Gives .anchorExit s fun t =>
      t.boot.phase = .run ∧ t.power.exitPending = false ∧ t.power.wakeAt = none ∧ t.power.stateCmd = none ∧ t.getF .wtState Fld.wtStateModule = 0 ∧
      (∀ g, g < 200 → t.pwr g = if partOfQuay s.body.framing (g / 20) ≠ none ∧ g / 20 ∉ s.body.bw.absent then 1 else 3) ∧
      SameBytes s.body t ∧ t.hm = s.body.hm ∧ ∃ m, t.out = s.body.out ++ [m] ∧ m.kind = .readyPin ∧ m.nums = [1]) ∧
    (w.wakeAt = none → exec .wakeTimer s = .next s) ∧ (ph = .off → exec .wakePin s = .next s) ∧
    (∀ i cause, (i = .wakeTimer ∧ cause = 3 ∧ w.wakeAt ≠ none) ∨ (i = .wakePin ∧ cause = 2 ∧ ph ≠ .off) → Gives i s fun t =>
      t.hm = s.body.hm ∧ SameBytes s.body t ∧ SameRegsBut s.body t [Reg.wtState.addr, Reg.wtPinStat.addr] ∧ (cause = 3 → t.power.wakeAt = none) ∧
      (ph = .drydock → t.boot.phase = (if s.body.boot.rstN = true then .released else .held) ∧ t.getF .wtState Fld.wtStateWake = cause ∧
        t.getF .wtState Fld.wtStateModule = 3 ∧ t.power.wakeAt = none) ∧
      (ph ∈ [.anchor, .anchorEntry] → t.boot.phase = ph ∧ t.power.exitPending = true ∧
        t.getF .wtState Fld.wtStateWake = if w.exitPending = true then min cause (s.body.getF .wtState Fld.wtStateWake) else cause) ∧
      (ph ∉ [.drydock, .anchor, .anchorEntry] → t.boot.phase = ph ∧ t.reg .wtState = s.body.reg .wtState ∧ t.power.exitPending = w.exitPending) ∧
      (cause = 2 → t.flag .wtPinStat Fld.wtPinStatWake = true))

/-- Resets reach what R444 says, and power-up, power loss and the reset pins move the boot. RST KIND MOD, RST_N falling and the
watchdog reset the module: everything in flight and the framing are gone, WT_STATE names kind and source, and the tiers' and the
boot flash's bytes stay. KIND PART or QUAY of nothing defined ends with HOLD_RANGE; else it resets, is noted, and completes with its
zeroing. A WATCH reset clears the Watch and the debug levels and holds the Quays until its restart is done, which senses the fuses;
in DRYDOCK it is a loss of power, which leaves the fuses, Tier F and the boot flash. Power-up starts at the sensing of fuses; RST_N
high lets a held boot begin. A corrected SRAM error is counted, one of a context resets it, any other stops the core. The boot flash
is lent while HE is held or in DRYDOCK, and takes the image written. (R280, R412, R414, R444, R445, R449, R450, R454, R486, R488,
R490) -/
def Obligations.ResetsAndInputPower : Prop :=
  ∀ (s : State) (ph : Phase) (begun : Phase), ph = s.body.boot.phase → begun = (if s.body.boot.rstN = true then .released else .held) →
    (∀ i src (low : Bool), ((∃ c fl, i = .rstMod c ∧ c.f 1 1 0 = 0 ∧ Dispatched s.body c 0x7F fl) ∧ src = 2 ∧ low = false) ∨
        (i = .watchdog ∧ src = 3 ∧ low = false ∧ ph ∈ [.firmware, .framed, .boardwalk, .trained, .run, .anchorEntry, .anchor, .drydockEntry]) ∨
        (i = .rstNLow ∧ src = 1 ∧ low = true ∧ ph ≠ .off ∧ ph ≠ .drydock) → Gives i s fun t =>
      t.boot.phase = (if low = true then .held else begun) ∧ t.boot.kind = 1 ∧ t.framing = [] ∧ t.hm.flights = [] ∧ t.hm.ended = [] ∧ t.hm.ctxs = [] ∧
      t.getF .wtState Fld.wtStateResetKind = 1 ∧ t.getF .wtState Fld.wtStateResetSrc = src ∧ t.getF .wtState Fld.wtStateModule = 3 ∧
      t.ts = s.body.ts ∧ ∀ a, regionOf a ∈ [1780, 1781, 1782, 2200] → t.byte a = s.body.byte a) ∧
    (ph ∉ [.firmware, .framed, .boardwalk, .trained, .run, .anchorEntry, .anchor, .drydockEntry] → exec .watchdog s = .next s) ∧
    (∀ (c : Cmd) (fl : Flight) (n k : Nat), n = c.f 1 7 4 → k = c.f 1 1 0 → Dispatched s.body c 0x7F fl →
      (k = 1 → partDefined s.body.framing n = false → Gives (.rstPart c) s fun t => OnlyEnds s.body t fl 0x11 0 []) ∧
      (k = 1 → partDefined s.body.framing n = true → Gives (.rstPart c) s fun t => t.getF .wtState Fld.wtStateResetKind = 2 ∧
        t.getF .wtState Fld.wtStateResetSrc = 2 ∧
        t = ((s.body.partReset n (some fl.uid)).noteReset 2 2).zeroAwait fl (quayRegions (quaysOf s.body.framing n))) ∧
      (2 ≤ k → partOfQuay s.body.framing n = none → Gives (.rstQuay c) s fun t => OnlyEnds s.body t fl 0x11 0 []) ∧
      (2 ≤ k → partOfQuay s.body.framing n ≠ none → Gives (.rstQuay c) s fun t => t.getF .wtState Fld.wtStateResetKind = 3 ∧
        t.getF .wtState Fld.wtStateResetSrc = 2 ∧
        t = (((s.body.clampCmd fl (if k = 3 then 1 else 0)).quayReset [n] .quay).noteReset 3 2).zeroAwait fl (quayRegions [n]))) ∧
    (ph = .off → (∀ i, i ∈ [Instr.watchReset, .inputShutdown] → exec i s = .next s) ∧
      (Gives .rstNLow s fun t => t = { s.body with boot.rstN := false }) ∧ (Gives .rstNRelease s fun t => t = { s.body with boot.rstN := true }) ∧
      (∀ e, Gives (.enOpen e) s fun t => t.boot = s.body.boot ∧ t.power.enA = (s.body.power.enA && e) ∧ t.power.enB = (s.body.power.enB && !e)) ∧
      (Gives .powerUp s fun t => t.boot.phase = begun ∧ t.ts = 0 ∧ t.power.enA = true ∧ t.power.enB = true ∧
        t.getF .wtState Fld.wtStateModule = 3 ∧ t.getF .scId2 Fld.scId2OwnerSet = (if s.fuse.owner = none then 0 else 1) ∧
        t.getF .scId2 Fld.scId2Revoked = s.fuse.revoked % 2 ^ Fld.scId2Revoked.width ∧
        t.getF .scId2 Fld.scId2FwSvn = s.fuse.fwSvn % 2 ^ Fld.scId2FwSvn.width ∧ t.getF .scId2 Fld.scId2FrSvn = s.fuse.frSvn % 2 ^ Fld.scId2FrSvn.width ∧
        SameBytes s.body t)) ∧
    (ph ≠ .off → exec .powerUp s = .next s ∧
      (∀ i, i ∈ [Instr.inputShutdown, .enOpen false, .enOpen true] ∨ (i = .watchReset ∧ ph = .drydock) → Gives i s fun t =>
        t.boot.phase = .off ∧ t.boot.kind = 0 ∧ t.boot.tripped = false ∧ t.ts = 0 ∧ t.framing = [] ∧ t.hm.flights = [] ∧ t.hm.ended = [] ∧ t.tele = {} ∧
        ∀ a, regionOf a ∈ [1782, 2200] → t.byte a = s.body.byte a) ∧
      (ph ≠ .drydock → Gives .watchReset s fun t => t.boot.phase = ph ∧ t.ts = 0 ∧ t.unlock = {} ∧ t.power.holdWatch = true ∧ t.power.pSamples = [] ∧
        t.getF .scDebugStat Fld.scDebugStatLevels = 0 ∧ t.getF .wtState Fld.wtStateResetKind = 5 ∧ t.getF .wtState Fld.wtStateResetSrc = 4 ∧
        t.getF .wtState Fld.wtStateModule = (if ph = .run then 0 else if ph = .anchor then 1 else 3) ∧ (ph = .anchor → t.power.exitPending = true) ∧
        (∀ q, q < 10 → t.aclk q ≤ 400) ∧ SameBytes s.body t ∧
        ∀ fl ∈ s.body.hm.flights, fl.started = true → fl.opc = 0x84 ∨ fl.opc = 0x86 → ∃ e ∈ t.hm.ended, e.fl.uid = fl.uid ∧ e.status = 0x60) ∧
      (ph = .drydock → Gives .rstNLow s fun t => t.boot.phase = .held ∧ t.getF .wtState Fld.wtStateWake = 5 ∧ SameBytes s.body t) ∧
      (Gives .rstNRelease s fun t => t.boot = { s.body.boot with rstN := true, phase := t.boot.phase, released := t.boot.released } ∧
        t.boot.phase = (if ph = .held then .released else ph) ∧ t.flag .wtPinStat Fld.wtPinStatRstN = true ∧
        SameRegsBut s.body t [Reg.wtPinStat.addr] ∧ SameBytes s.body t ∧ t.hm = s.body.hm)) ∧
    (s.body.power.holdWatch = false → exec .watchRestartDone s = .next s) ∧
    (s.body.power.holdWatch = true → Gives .watchRestartDone s fun t => t.ts = 0 ∧ t.power.holdWatch = false ∧
      t.power.watchSteps = List.replicate 10 54 ∧ t.swellState 1 = (if s.body.swellState 1 = 3 then 3 else 0) ∧
      t.getF .scId2 Fld.scId2FwSvn = s.fuse.fwSvn % 2 ^ Fld.scId2FwSvn.width ∧ t.hm = s.body.hm ∧ SameBytes s.body t) ∧
    (∀ word, (Gives (.sramEccError .correctable word) s fun t => Counted s.body t .hmSramEcc Fld.hmSramEccCorrected 1 ∧
        SameRegsBut s.body t [Reg.hmSramEcc.addr] ∧ SameBytes s.body t ∧ t.hm = s.body.hm) ∧
      (Gives (.sramEccError .other word) s fun t => t = { s.body with hm.sramDead := true }) ∧
      ∀ ctx, (s.body.slotOf ctx = none → exec (.sramEccError (.context ctx) word) s = .next s) ∧
        (∀ k, s.body.slotOf ctx = some k → 64 ≤ k → Gives (.sramEccError (.context ctx) word) s fun t => t = { s.body with hm.sramDead := true }) ∧
        (∀ k, s.body.slotOf ctx = some k → k < 64 → Gives (.sramEccError (.context ctx) word) s fun t =>
          Counted s.body t .hmSramEcc Fld.hmSramEccUncorrected 1 ∧ t.getF .hmSramEcc Fld.hmSramEccLastCtx = ctx % 65536 ∧
          t.hm.sramDead = s.body.hm.sramDead ∧ (∀ r, r < 256 → t.sreg k r = 0) ∧ ∀ n, n < 1024 → (t.entry k n).valid = false)) ∧
    (Gives .flashSvcNLow s fun t => t.boot = { s.body.boot with svcLow := true } ∧ SameBytes s.body t ∧ t.hm = s.body.hm ∧
      (s.body.flashService = true → t.flag .wtPinStat Fld.wtPinStatFlashSvc = true ∧ SameRegsBut s.body t [Reg.wtPinStat.addr]) ∧
      (s.body.flashService = false → t.regs = s.body.regs)) ∧
    (∀ image : List (Nat × List Byte),
      (s.body.flashService = false ∨ s.body.boot.svcLow = false → Gives (.flashSvcNRise image) s fun t => t = { s.body with boot.svcLow := false }) ∧
      (∀ a d, image = [(a, d)] → a + d.length ≤ 0x4000000 → s.body.flashService = true → s.body.boot.svcLow = true → Gives (.flashSvcNRise image) s fun t =>
        t.boot.svcLow = false ∧ t.bytes (flashBase + a) d.length = d ∧ SameBytesBut s.body t (flashBase + a) d.length ∧
        (s.body.boot.heHeld = false → t.boot.phase = ph) ∧ (s.body.boot.heHeld = true → t.boot.heHeld = true ∨ t.boot.phase = .firmware)))

/-- Counters, snapshots, Logbooks and error records are read, and pushes, steps, probes and Teredo go on. TEL_READ, TEL_SNAP,
LOG_READ and ERR_READ write what R458-R476 lay out and end DONE, or end with the failure's status (AUTH_FAIL for another context
without OBSERVE). TEL_PUSH sets the push or refuses its peer; a push that cannot go is skipped and counted. LOG_CTL freezes, thaws
or empties the Logbooks and sets STAT. DBG_STEP needs STEP (else AUTH_FAIL) and a context that may be stepped: BEGIN of a halted one
sets STEPPING, STEP takes its next command, END clears STEPPING. TS_PROBE starts where its Line is UP, sends probes, and ends once
all are answered; a probe arriving is answered. ERROR_RECORD moves a unit's oldest record to the ring under the next SEQ;
TEREDO_MEASURE writes the Berth's values and raises its Quay's guard-band. (R458, R460, R461, R462, R464, R466, R467, R469, R470,
R471, R475, R476) -/
def Obligations.TelemetryAndDebug : Prop :=
  ∀ (s : State) (tel : Tele) (stp err : Reg), tel = s.body.tele → stp = .hmStepStat → err = .hmErrStat →
    (∀ (c : Cmd) (fl : Flight) i opc off (data : List Byte),
      (i = .telRead c ∧ opc = 0x88 ∧ off = 32 * c.f 1 37 18 ∧ ∃ id k, id = (if c.f 1 15 0 = 0xFFFF then c.ctx.toNat else c.f 1 15 0) ∧
          (id = c.ctx.toNat ∨ s.body.level 0 = true) ∧ s.body.slotOf id = some k ∧ k < 64 ∧
          data = (List.range 16).flatMap fun i => leBytes 8 (s.body.reg (.hmCtxCnt k i)).toNat) ∨
        (i = .telSnap c ∧ opc = 0x89 ∧ off = 0 ∧ data = s.body.snapBytes (c.f 1 15 0 % 2048) 0) ∨
        (i = .logRead c ∧ opc = 0x8B ∧ off = 0 ∧ c.f 1 3 0 ≤ 10 ∧ c.f 2 15 0 < logUnits (c.f 1 3 0) ∧ c.f 2 31 16 < logUnits (c.f 1 3 0) ∧
          data = (List.range (c.f 2 31 16 + 1 - c.f 2 15 0)).flatMap fun i => s.body.logbook (c.f 1 3 0) (c.f 2 15 0 + i) c.ctx.toNat) ∨
        (i = .errRead c ∧ opc = 0x8F ∧ off = 0 ∧ ∃ ring next lost rs n, n = max 1 (min 1024 (c.f 2 42 32)) ∧
          (ring, next, lost) = (if c.b 1 0 = true then (tel.errWatch, tel.watchSeq, s.body.getF .wtLogFreeze Fld.wtLogFreezeWLost)
            else (tel.errMain, s.body.getF err Fld.hmErrStatNextSeq, s.body.getF err Fld.hmErrStatLost)) ∧
          rs = (ring.filter fun x => decide (c.f 2 31 0 ≤ x.1) && (fl.priv || decide (x.2.ctx = c.ctx.toNat))).take n ∧
          data = leBytes 4 rs.length ++ leBytes 4 next ++ leBytes 4 lost ++ leBytes 4 0 ++ rs.flatMap fun x => errBytes x.1 x.2) →
      Dispatched s.body c opc fl →
        (∀ st, s.body.accessHere fl.slot (c.h 1) off data.length true = .error st → Gives i s fun t => OnlyEnds s.body t fl st 0 []) ∧
        (∀ e, s.body.accessHere fl.slot (c.h 1) off data.length true = .ok e → PlainMemory s.body → Gives i s fun t => EndsWith s.body t fl 0 0 ∧
          t.bytes (e.base + off) data.length = data ∧ SameBytesBut s.body t (e.base + off) data.length)) ∧
    (∀ (c : Cmd) (fl : Flight), Dispatched s.body c 0x88 fl →
      (c.f 1 15 0 ≠ 0xFFFF → c.f 1 15 0 ≠ c.ctx.toNat → s.body.level 0 = false → Gives (.telRead c) s fun t => OnlyEnds s.body t fl 0x60 0 []) ∧
      (c.f 1 15 0 ≠ 0xFFFF → s.body.level 0 = true → s.body.slotOf (c.f 1 15 0) = none → Gives (.telRead c) s fun t => OnlyEnds s.body t fl 0x11 0 [])) ∧
    (∀ (c : Cmd) (fl : Flight) ms, ms = (if c.f 1 31 16 = 0 then 0 else max 10 (c.f 1 31 16)) → Dispatched s.body c 0x8A fl →
      (c.h 4 ≠ 0 → s.body.resolve fl.slot (c.h 4) = none → Gives (.telPush c) s fun t => OnlyEnds s.body t fl 0x12 0 [] ∧ t.tele.push = tel.push) ∧
      (∀ e, c.h 4 ≠ 0 → s.body.resolve fl.slot (c.h 4) = some e → e.place ≠ 5 ∨ e.wr = false → Gives (.telPush c) s fun t =>
        OnlyEnds s.body t fl 0x11 0 [] ∧ t.tele.push = tel.push) ∧
      (c.h 4 = 0 ∨ (∃ e, s.body.resolve fl.slot (c.h 4) = some e ∧ e.place = 5 ∧ e.wr = true) → Gives (.telPush c) s fun t =>
        OnlyEnds s.body t fl 0 0 [Reg.hmTelCfg.addr] ∧ t.getF .hmTelCfg Fld.hmTelCfgGroups = c.f 1 15 0 % 2048 ∧
        t.getF .hmTelCfg Fld.hmTelCfgPeriodMs = ms ∧ t.tele.push = TelPush.mk (c.f 1 15 0 % 2048) ms (c.f 1 40 32) (c.w 2).toNat (c.f 3 31 0) (c.h 4) fl.slot tel.push.seq true none)) ∧
    (tel.push.period = 0 ∨ s.body.boot.phase ∉ [.run, .anchorEntry, .anchor] ∨ s.body.hm.sramDead = true → exec .telemetryPush s = .next s) ∧
    (tel.push.period ≠ 0 → s.body.boot.phase ∈ [.run, .anchorEntry, .anchor] → s.body.hm.sramDead = false →
      (tel.push.acked = false ∨ s.body.pushOut (tel.push.seq + 1) = none → Gives .telemetryPush s fun t => t.tele = tel ∧ SameBytes s.body t ∧
        Counted s.body t .hmTelStat Fld.hmTelStatSkipped 1 ∧ SameRegsBut s.body t [Reg.hmTelStat.addr] ∧ t.hm = s.body.hm) ∧
      (∀ b, tel.push.acked = true → s.body.pushOut (tel.push.seq + 1) = some b → Gives .telemetryPush s fun t => t = b ∧
        t.tele.push.seq = tel.push.seq + 1 ∧ t.tele.push.acked = false ∧ SameBytes s.body t)) ∧
    (∀ (c : Cmd) (fl : Flight) i op frozen cause, (i, op) ∈ [(Instr.logFreeze c, 0), (.logThaw c, 1), (.logClear c, 2)] → op = min 2 (c.f 1 1 0) →
      (frozen, cause) = (if op ≠ 0 then (false, 0) else (true, if s.body.flag .wtLogFreeze Fld.wtLogFreezeFrozen = true then
        s.body.getF .wtLogFreeze Fld.wtLogFreezeCause else 1)) → Dispatched s.body c 0x8C fl → Gives i s fun t => OnlyEnds s.body t fl 0 0 [] ∧
        t.flag .wtLogFreeze Fld.wtLogFreezeFrozen = frozen ∧ t.getF .wtLogFreeze Fld.wtLogFreezeCause = cause ∧
        t.getF .wtLogFreeze Fld.wtLogFreezeStat = c.f 2 31 0 ∧ (op = 2 → ∀ k, k ≠ 2 * 65536 → SMap.get t.tele.logs [] k = [])) ∧
    (∀ (c : Cmd) (fl : Flight) id op, id = c.f 1 15 0 → op = c.f 1 17 16 → Dispatched s.body c 0x8D fl →
      (∀ i, (i, min 2 op) ∈ [(Instr.dbgStepBegin c, 0), (.dbgStepStep c, 1), (.dbgStepEnd c, 2)] → s.body.level 1 = false → tel.dbg = none →
        Gives i s fun t => OnlyEnds s.body t fl 0x60 0 []) ∧
      (op = 0 → s.body.level 1 = true →
        (s.body.slotOf id = none → Gives (.dbgStepBegin c) s fun t => OnlyEnds s.body t fl 0x11 0 []) ∧
        (∀ k, s.body.slotOf id = some k → 64 ≤ k ∨ (s.body.info k).closing = true ∨ (s.body.flag stp Fld.hmStepStatStepping = true ∧ s.body.steppedIs id = false) →
          Gives (.dbgStepBegin c) s fun t => OnlyEnds s.body t fl 0x11 0 []) ∧
        (∀ k, s.body.slotOf id = some k → k < 64 → (s.body.info k).closing = false → s.body.flag stp Fld.hmStepStatStepping = false →
          s.body.getF (.hmCtxStat k) Fld.hmCtxStatState = 1 → Gives (.dbgStepBegin c) s fun t => OnlyEnds s.body t fl 0 0 [stp.addr] ∧ t.steppedIs id = true)) ∧
      (op = 1 →
        (∀ d, tel.dbg = some d → d.fl.uid ≠ fl.uid → exec (.dbgStepStep c) s = .next s) ∧
        (∀ d, tel.dbg = some d → d.fl.uid = fl.uid → Gives (.dbgStepStep c) s fun t => t = s.body.stepGo d) ∧
        (∀ k e, tel.dbg = none → s.body.level 1 = true → s.body.slotOf id = some k → k < 64 → s.body.accessHere fl.slot (c.h 2) 0 32 true = .ok e →
          (s.body.steppedIs id = false → Gives (.dbgStepStep c) s fun t => OnlyEnds s.body t fl 0x11 0 []) ∧
          (s.body.steppedIs id = true → s.body.getF (.hmCtxStat k) Fld.hmCtxStatState ≠ 1 → exec (.dbgStepStep c) s = .next s) ∧
          (s.body.steppedIs id = true → s.body.getF (.hmCtxStat k) Fld.hmCtxStatState = 1 → Gives (.dbgStepStep c) s fun t => t = s.body.stepTake fl k))) ∧
      (2 ≤ op → (tel.dbg ≠ none → exec (.dbgStepEnd c) s = .next s) ∧ (tel.dbg = none → s.body.level 1 = true →
        (s.body.steppedIs id = false → Gives (.dbgStepEnd c) s fun t => OnlyEnds s.body t fl 0x11 0 []) ∧
        (s.body.steppedIs id = true → Gives (.dbgStepEnd c) s fun t => OnlyEnds s.body t fl 0 0 [stp.addr] ∧ t.flag stp Fld.hmStepStatStepping = false)))) ∧
    (∀ (c : Cmd) (fl : Flight) l n, l = min 35 (c.f 1 5 0) → n = max 1 (c.f 1 15 8) → Dispatched s.body c 0x8E fl →
      (tel.probe ≠ none → exec (.tsProbe c) s = .next s) ∧
      (∀ st, tel.probe = none → s.body.accessHere fl.slot (c.h 2) 0 32 true = .error st → Gives (.tsProbe c) s fun t => OnlyEnds s.body t fl st 0 []) ∧
      (∀ e, tel.probe = none → s.body.accessHere fl.slot (c.h 2) 0 32 true = .ok e →
        (s.body.lineState l ≠ 2 → s.body.lineState l ≠ 3 → Gives (.tsProbe c) s fun t => OnlyEnds s.body t fl 0x21 0 []) ∧
        (s.body.lineState l = 2 ∨ s.body.lineState l = 3 → Gives (.tsProbe c) s fun t => StaysInFlight s.body t fl ∧ SameBytes s.body t ∧
          t.tele.probe = some { fl := fl, line := l, count := n } ∧ SameRegsBut s.body t []))) ∧
    ((∀ p, tel.probe = some p → p.count ≤ p.sent.length ∨ s.body.lineUp p.line = false) → exec .tsProbeSend s = .next s) ∧
    (∀ p, tel.probe = some p → p.sent.length < p.count → s.body.lineUp p.line = true → Gives .tsProbeSend s fun t => SameBytes s.body t ∧
      t.tele.probe = some { p with sent := p.sent ++ [(p.sent.length, s.body.ts)] } ∧
      ∃ m ∈ t.out, m.port = .line p.line ∧ m.kind = .probe ∧ m.nums = [p.sent.length, s.body.now]) ∧
    (∀ (l : Fin 36) index t1, (s.body.lineUp l.val = false → exec (.probeArrival l index t1) s = .next s) ∧
      (s.body.lineUp l.val = true → Gives (.probeArrival l index t1) s fun t => SameBytes s.body t ∧ t.tele = tel ∧
        ∃ m ∈ t.out, m.port = .line l.val ∧ m.kind = .probeReply ∧ m.nums = [index, t1.toNat, s.body.now, s.body.now])) ∧
    (∀ (l : Fin 36) index t2 t3,
      ((∀ p, tel.probe = some p → p.line ≠ l.val ∨ p.sent.find? (fun x => decide (x.1 = index)) = none) → exec (.probeReply l index t2 t3) s = .next s) ∧
      (∀ p x, tel.probe = some p → p.line = l.val → p.sent.find? (fun x => decide (x.1 = index)) = some x →
        (p.done + 1 ≠ p.count → Gives (.probeReply l index t2 t3) s fun t => t.regs = s.body.regs ∧ t.hm = s.body.hm ∧
          ∃ q, t.tele.probe = some q ∧ q.done = p.done + 1 ∧ q.results = (if index ∈ p.spoiled then p.results else p.results ++
            [(index, (((t2.toNat : Int) - x.2.toNat) - (s.body.ts.toNat - t3.toNat)).tdiv 2, (((s.body.ts.toNat : Int) - x.2.toNat) - (t3.toNat - t2.toNat)).tdiv 2,
              x.2)])) ∧
        (p.done + 1 = p.count → Gives (.probeReply l index t2 t3) s fun t => t.tele.probe = none ∧ ∃ e ∈ t.hm.ended, e.fl.uid = p.fl.uid))) ∧
    (∀ kind unit k, k = kind * 65536 + unit →
      (SMap.get tel.errPend [] k = [] ∨ s.body.hm.sramDead = true ∨ s.body.boot.phase ∈ [.held, .released, .drydock, .off] → exec (.errorRecord kind unit) s = .next s) ∧
      (∀ r rest q, SMap.get tel.errPend [] k = r :: rest → s.body.hm.sramDead = false → s.body.boot.phase ∉ [.held, .released, .drydock, .off] →
        q = s.body.getF err Fld.hmErrStatNextSeq → Gives (.errorRecord kind unit) s fun t => SMap.get t.tele.errPend [] k = rest ∧
          t.tele.errMain = (tel.errMain ++ [(q, r)]).drop (tel.errMain.length + 1 - 1024) ∧ t.getF err Fld.hmErrStatNextSeq = (q + 1) % 2 ^ 32 ∧
          Counted s.body t err Fld.hmErrStatLost (if 1024 ≤ tel.errMain.length then 1 else 0) ∧ SameRegsBut s.body t [] ∧ SameBytes s.body t)) ∧
    (∀ (g d q need : Nat) (w : Power), w = s.body.power → q = g / 20 → need = ceilDiv d 25 →
      (200 ≤ g ∨ s.body.quayUp q = false ∨ 2 ≤ s.body.pwr g → exec (.teredoMeasure [(g, d)]) s = .next s) ∧
      (g < 200 → s.body.quayUp q = true → s.body.pwr g < 2 → Gives (.teredoMeasure [(g, d)]) s fun t =>
        t.getF (.brTeredo g) Fld.brTeredoDegr = min 1023 d ∧ t.getF (.brTeredo g) Fld.brTeredoDemand = min 63 need ∧
        Counted s.body t (.brTeredo g) Fld.brTeredoMeas 1 ∧ min 1023 d ≤ t.getF (.wtTeredo q) Fld.wtTeredoDegrMax ∧
        t.power = { w with guard := w.guard.set q (max (if w.guardPor = true then 0 else w.guard.getD q 16) (min 16 need)), removed := w.removed.set q (max (w.removed.getD q 0) (need - 16)), guardPor := false } ∧
        SameRegsBut s.body t [(Reg.brTeredo g).addr, (Reg.wtTeredo q).addr] ∧ SameBytes s.body t ∧ t.hm = s.body.hm))

/-- At reset every register field has its Reset value, nothing is in flight, and memory lists nothing. The machine right after reset
has no command waiting or in flight, no fuse blown, which is legal, no context resident, every handle unbound with GEN 1, Lines
DOWN, no group and no Twin; each register field reads its Reset column, with the framing defaults where that says FI and 0 for an
unblown fuse, the serial number apart; memory keeps its canonical form, and every byte of Tier F and of the Jig banks reads +0.
(R10, R111, R180, R295, R337, R402, R413) -/
def Obligations.ResetStateHolds : Prop :=
  State.reset.pending = [] ∧ State.reset.fuse = {} ∧ FusesLegal State.reset.fuse ∧ State.reset.body.boot.phase = .released ∧ State.reset.body.hm.flights = [] ∧
    State.reset.body.hm.ended = [] ∧ State.reset.body.framing = [] ∧ State.reset.body.memWf = true ∧
    (∀ (r : Reg) (f : Fld), r.ok = true → r ≠ .scId0 → r ≠ .scId1 → f ∈ r.fields → State.reset.body.getF r f = f.resetVal [] r % 2 ^ f.width) ∧
    State.reset.body.reg .scId0 = Config.serial.setWidth 64 ∧ State.reset.body.reg .scId1 = (Config.serial >>> 64).setWidth 64 ∧
    (∀ k, k < 64 → State.reset.body.getF (.hmCtxStat k) Fld.hmCtxStatState = 3 ∧ State.reset.body.groupState k = 0) ∧
    (∀ k n, State.reset.body.entry k n = {} ∧ (State.reset.body.entry k n).valid = false ∧ (State.reset.body.entry k n).gen = 1) ∧
    (∀ l, l < 36 → State.reset.body.lineState l = 0) ∧ State.reset.body.twinState = 0 ∧
    ∀ a, regionOf a ∈ [1782, 2201] → State.reset.body.byte a = 0
end

