-- ==== Sys2Proof/Laws/Maps.lean ====
section
/-! SUPPORT. Laws of sparse maps: reading back what was set, reading beside it, and the canonical form. -/

namespace Sys2Proof.Machine

variable {α : Type}

@[simp] theorem SMap.find_nil (a : Nat) : SMap.find ([] : SMap α) a = none := rfl

theorem SMap.find_put_self (m : SMap α) (a : Nat) (x : α) : (m.put a x).find a = some x := by
  induction m with
  | nil => simp [SMap.put, SMap.find]
  | cons p r ih =>
    obtain ⟨k, v⟩ := p
    simp only [SMap.put]
    split
    · simp [SMap.find]
    · split
      · simp [SMap.find]
      · simp [SMap.find, *]

theorem SMap.find_put_ne (m : SMap α) {a c : Nat} (h : c ≠ a) (x : α) : (m.put a x).find c = m.find c := by
  induction m with
  | nil => simp [SMap.put, SMap.find, h.symm]
  | cons p r ih =>
    obtain ⟨k, v⟩ := p
    simp only [SMap.put]
    split
    · rename_i hk; subst hk; simp [SMap.find, h.symm]
    · split
      · simp [SMap.find, h.symm]
      · simp [SMap.find, ih]

theorem SMap.find_drop_self (m : SMap α) (a : Nat) : (m.drop a).find a = none := by
  induction m with
  | nil => rfl
  | cons p r ih =>
    obtain ⟨k, v⟩ := p
    by_cases hk : k = a
    · simpa [SMap.drop, hk] using ih
    · simpa [SMap.drop, hk, SMap.find] using ih

theorem SMap.find_drop_ne (m : SMap α) {a c : Nat} (h : c ≠ a) : (m.drop a).find c = m.find c := by
  induction m with
  | nil => rfl
  | cons p r ih =>
    obtain ⟨k, v⟩ := p
    by_cases hk : k = a
    · subst hk; simpa [SMap.drop, SMap.find, h.symm] using ih
    · simp only [SMap.drop] at ih
      simp only [SMap.drop, List.filter_cons, hk, ne_eq, not_false_eq_true, decide_true, ↓reduceIte, SMap.find, ih]

@[simp] theorem SMap.get_set_self [DecidableEq α] (m : SMap α) (d x : α) (a : Nat) : (m.set d a x).get d a = x := by
  unfold SMap.set SMap.get
  split
  · simp [SMap.find_drop_self, *]
  · simp [SMap.find_put_self]

theorem SMap.get_set_ne [DecidableEq α] (m : SMap α) (d e x : α) {a c : Nat} (h : c ≠ a) :
    (m.set d a x).get e c = m.get e c := by
  unfold SMap.set SMap.get
  split
  · rw [SMap.find_drop_ne m h]
  · rw [SMap.find_put_ne m h]

theorem SMap.get_put_self (m : SMap α) (d x : α) (a : Nat) : (m.put a x).get d a = x := by
  simp [SMap.get, SMap.find_put_self]

theorem SMap.get_put_ne (m : SMap α) (d x : α) {a c : Nat} (h : c ≠ a) : (m.put a x).get d c = m.get d c := by
  simp [SMap.get, SMap.find_put_ne m h]

theorem SMap.get_upd_self [DecidableEq α] (m : SMap α) (d : α) (a : Nat) (f : α → α) :
    (m.upd d a f).get d a = f (m.get d a) := by simp [SMap.upd]

theorem SMap.get_upd_ne [DecidableEq α] (m : SMap α) (d e : α) {a c : Nat} (h : c ≠ a) (f : α → α) :
    (m.upd d a f).get e c = m.get e c := SMap.get_set_ne m d e _ h

/-- A larger lower bound is the stronger claim. -/
theorem SMap.rising_mono {m : SMap α} {lo : Option Nat} {hi : Nat} (h : SMap.rising (some hi) m = true)
    (hl : ∀ l, lo = some l → l ≤ hi) : SMap.rising lo m = true := by
  cases m with
  | nil => rfl
  | cons p r =>
    obtain ⟨k, v⟩ := p
    simp only [SMap.rising, Bool.and_eq_true, decide_eq_true_eq] at h ⊢
    refine ⟨?_, h.2⟩
    cases lo with
    | none => rfl
    | some l => have := hl l rfl; simp; omega

theorem SMap.rising_filter (q : Nat × α → Bool) (m : SMap α) (lo : Option Nat) (h : SMap.rising lo m = true) :
    SMap.rising lo (m.filter q) = true := by
  induction m generalizing lo with
  | nil => rfl
  | cons p r ih =>
    obtain ⟨k, v⟩ := p
    simp only [SMap.rising, Bool.and_eq_true] at h
    by_cases hq : q (k, v) = true
    · simp only [List.filter_cons, hq, ↓reduceIte, SMap.rising, Bool.and_eq_true]
      exact ⟨h.1, ih _ h.2⟩
    · simp only [List.filter_cons, hq, Bool.false_eq_true, ↓reduceIte]
      have h2 := ih _ h.2
      cases lo with
      | none => exact SMap.rising_mono h2 (by simp)
      | some l =>
        refine SMap.rising_mono h2 ?_
        intro l' hl; cases hl
        have := h.1
        simp only [decide_eq_true_eq] at this; omega

theorem SMap.rising_put (m : SMap α) (a : Nat) (x : α) (lo : Option Nat) (hl : ∀ l, lo = some l → l < a)
    (h : SMap.rising lo m = true) : SMap.rising lo (m.put a x) = true := by
  induction m generalizing lo with
  | nil =>
    simp only [SMap.put, SMap.rising, Bool.and_true]
    cases lo with
    | none => rfl
    | some l => simpa using hl l rfl
  | cons p r ih =>
    obtain ⟨k, v⟩ := p
    simp only [SMap.rising, Bool.and_eq_true] at h
    simp only [SMap.put]
    split
    · rename_i hk; subst hk; simpa [SMap.rising] using h
    · split
      · simp only [SMap.rising, Bool.and_eq_true, decide_eq_true_eq]
        refine ⟨?_, by assumption, h.2⟩
        cases lo with
        | none => rfl
        | some l => simpa using hl l rfl
      · simp only [SMap.rising, Bool.and_eq_true]
        refine ⟨h.1, ih _ ?_ h.2⟩
        intro l hl'; cases hl'; omega

theorem SMap.rising_drop (m : SMap α) (a : Nat) (lo : Option Nat) (h : SMap.rising lo m = true) :
    SMap.rising lo (m.drop a) = true := SMap.rising_filter _ m lo h

theorem SMap.mem_put {m : SMap α} {a : Nat} {x : α} {p : Nat × α} (h : p ∈ m.put a x) : p = (a, x) ∨ p ∈ m := by
  induction m with
  | nil => simpa [SMap.put] using h
  | cons q r ih =>
    obtain ⟨k, v⟩ := q
    simp only [SMap.put] at h
    split at h
    · rcases List.mem_cons.1 h with h | h
      · exact .inl h
      · exact .inr (List.mem_cons_of_mem _ h)
    · split at h
      · rcases List.mem_cons.1 h with h | h
        · exact .inl h
        · exact .inr h
      · rcases List.mem_cons.1 h with h | h
        · exact .inr (by simp [h])
        · exact (ih h).imp id (List.mem_cons_of_mem _)

theorem SMap.mem_drop {m : SMap α} {a : Nat} {p : Nat × α} (h : p ∈ m.drop a) : p ∈ m :=
  (List.mem_filter.1 h).1

theorem SMap.wf_set [DecidableEq α] {m : SMap α} {dflt : Nat → α} {a : Nat} {x : α} (h : SMap.wf m dflt = true) :
    SMap.wf (m.set (dflt a) a x) dflt = true := by
  simp only [SMap.wf, Bool.and_eq_true, List.all_eq_true, decide_eq_true_eq] at h ⊢
  unfold SMap.set
  split
  · exact ⟨SMap.rising_drop m a none h.1, fun p hp => h.2 p (SMap.mem_drop hp)⟩
  · rename_i hx
    refine ⟨SMap.rising_put m a x none (by simp) h.1, fun p hp => ?_⟩
    rcases SMap.mem_put hp with rfl | hp
    · exact hx
    · exact h.2 p hp

end Sys2Proof.Machine
end

