-- ==== Sys2Proof/Laws/State.lean ====
section
/-! SUPPORT. What each shared operation on the state leaves alone: one lemma for each field it does not touch, so that no
proof unfolds a record update. -/

namespace Sys2Proof.Machine

/-- A fold whose every step keeps a field keeps it. -/
theorem foldl_keep {α β γ : Type} (p : β → γ) (f : β → α → β) (l : List α) (b : β) (h : ∀ b x, p (f b x) = p b) :
    p (l.foldl f b) = p b := by
  induction l generalizing b with
  | nil => rfl
  | cons x r ih => simp only [List.foldl_cons, ih, h]

/-- What a register field's change leaves alone, SHADOW_BUSY's update leaves alone. -/
theorem Body.syncShadow_keep {γ : Type} (p : Body → γ)
    (h : ∀ b g v, p (b.setF (.brLatheStat g) Fld.brLatheStatShadowBusy v) = p b) (b : Body) (slot : Nat) :
    p (b.syncShadow slot) = p b := by
  unfold Body.syncShadow
  split
  · rfl
  · split
    · rfl
    · dsimp only
      generalize (if b.latched _ _ = true then 1 else 0 : Nat) = v
      split
      · rfl
      · exact foldl_keep p _ _ _ (fun b g => h b g v)

@[simp] theorem Body.setReg_ts (b : Body) (r : Reg) (w : Word) : (b.setReg r w).ts = b.ts := by
  unfold Body.setReg; (repeat' split) <;> simp
@[simp] theorem Body.setReg_freeCtr (b : Body) (r : Reg) (w : Word) : (b.setReg r w).freeCtr = b.freeCtr := by
  unfold Body.setReg; (repeat' split) <;> simp
@[simp] theorem Body.setReg_out (b : Body) (r : Reg) (w : Word) : (b.setReg r w).out = b.out := by
  unfold Body.setReg; (repeat' split) <;> simp
@[simp] theorem Body.setReg_mem (b : Body) (r : Reg) (w : Word) : (b.setReg r w).mem = b.mem := by
  unfold Body.setReg; (repeat' split) <;> simp
@[simp] theorem Body.setReg_bg (b : Body) (r : Reg) (w : Word) : (b.setReg r w).bg = b.bg := by
  unfold Body.setReg; (repeat' split) <;> simp
@[simp] theorem Body.setReg_epoch (b : Body) (r : Reg) (w : Word) : (b.setReg r w).epoch = b.epoch := by
  unfold Body.setReg; (repeat' split) <;> simp
@[simp] theorem Body.setReg_haze (b : Body) (r : Reg) (w : Word) : (b.setReg r w).haze = b.haze := by
  unfold Body.setReg; (repeat' split) <;> simp
@[simp] theorem Body.setReg_framing (b : Body) (r : Reg) (w : Word) : (b.setReg r w).framing = b.framing := by
  unfold Body.setReg; (repeat' split) <;> simp
@[simp] theorem Body.setReg_bw (b : Body) (r : Reg) (w : Word) : (b.setReg r w).bw = b.bw := by
  unfold Body.setReg; (repeat' split) <;> simp
@[simp] theorem Body.setReg_hm (b : Body) (r : Reg) (w : Word) : (b.setReg r w).hm = b.hm := by
  unfold Body.setReg; (repeat' split) <;> simp
@[simp] theorem Body.setReg_st (b : Body) (r : Reg) (w : Word) : (b.setReg r w).st = b.st := by
  unfold Body.setReg; (repeat' split) <;> simp
@[simp] theorem Body.setReg_eth (b : Body) (r : Reg) (w : Word) : (b.setReg r w).eth = b.eth := by
  unfold Body.setReg; (repeat' split) <;> simp
@[simp] theorem Body.setReg_ln (b : Body) (r : Reg) (w : Word) : (b.setReg r w).ln = b.ln := by
  unfold Body.setReg; (repeat' split) <;> simp
@[simp] theorem Body.setReg_boot (b : Body) (r : Reg) (w : Word) : (b.setReg r w).boot = b.boot := by
  unfold Body.setReg; (repeat' split) <;> simp
@[simp] theorem Body.setReg_unlock (b : Body) (r : Reg) (w : Word) : (b.setReg r w).unlock = b.unlock := by
  unfold Body.setReg; (repeat' split) <;> simp
@[simp] theorem Body.setReg_power (b : Body) (r : Reg) (w : Word) : (b.setReg r w).power = b.power := by
  unfold Body.setReg; (repeat' split) <;> simp
@[simp] theorem Body.setReg_tele (b : Body) (r : Reg) (w : Word) : (b.setReg r w).tele = b.tele := by
  unfold Body.setReg; (repeat' split) <;> simp
@[simp] theorem Body.setReg_tiers (b : Body) (r : Reg) (w : Word) : (b.setReg r w).tiers = b.tiers := by
  unfold Body.setReg; (repeat' split) <;> simp
@[simp] theorem Body.setReg_crates (b : Body) (r : Reg) (w : Word) : (b.setReg r w).crates = b.crates := by
  unfold Body.setReg; (repeat' split) <;> simp
@[simp] theorem Body.setReg_rnd (b : Body) (r : Reg) (w : Word) : (b.setReg r w).rnd = b.rnd := by
  unfold Body.setReg; (repeat' split) <;> simp
@[simp] theorem Body.setReg_berths (b : Body) (r : Reg) (w : Word) : (b.setReg r w).berths = b.berths := by
  unfold Body.setReg; (repeat' split) <;> simp
@[simp] theorem Body.setReg_ops (b : Body) (r : Reg) (w : Word) : (b.setReg r w).ops = b.ops := by
  unfold Body.setReg; (repeat' split) <;> simp
@[simp] theorem Body.setReg_jigs (b : Body) (r : Reg) (w : Word) : (b.setReg r w).jigs = b.jigs := by
  unfold Body.setReg; (repeat' split) <;> simp
@[simp] theorem Body.setReg_ferry (b : Body) (r : Reg) (w : Word) : (b.setReg r w).ferry = b.ferry := by
  unfold Body.setReg; (repeat' split) <;> simp
@[simp] theorem Body.setF_ts (b : Body) (r : Reg) (f : Fld) (v : Nat) : (b.setF r f v).ts = b.ts := by simp [Body.setF]
@[simp] theorem Body.setF_freeCtr (b : Body) (r : Reg) (f : Fld) (v : Nat) : (b.setF r f v).freeCtr = b.freeCtr := by simp [Body.setF]
@[simp] theorem Body.setF_out (b : Body) (r : Reg) (f : Fld) (v : Nat) : (b.setF r f v).out = b.out := by simp [Body.setF]
@[simp] theorem Body.setF_mem (b : Body) (r : Reg) (f : Fld) (v : Nat) : (b.setF r f v).mem = b.mem := by simp [Body.setF]
@[simp] theorem Body.setF_bg (b : Body) (r : Reg) (f : Fld) (v : Nat) : (b.setF r f v).bg = b.bg := by simp [Body.setF]
@[simp] theorem Body.setF_epoch (b : Body) (r : Reg) (f : Fld) (v : Nat) : (b.setF r f v).epoch = b.epoch := by simp [Body.setF]
@[simp] theorem Body.setF_haze (b : Body) (r : Reg) (f : Fld) (v : Nat) : (b.setF r f v).haze = b.haze := by simp [Body.setF]
@[simp] theorem Body.setF_framing (b : Body) (r : Reg) (f : Fld) (v : Nat) : (b.setF r f v).framing = b.framing := by simp [Body.setF]
@[simp] theorem Body.setF_bw (b : Body) (r : Reg) (f : Fld) (v : Nat) : (b.setF r f v).bw = b.bw := by simp [Body.setF]
@[simp] theorem Body.setF_hm (b : Body) (r : Reg) (f : Fld) (v : Nat) : (b.setF r f v).hm = b.hm := by simp [Body.setF]
@[simp] theorem Body.setF_st (b : Body) (r : Reg) (f : Fld) (v : Nat) : (b.setF r f v).st = b.st := by simp [Body.setF]
@[simp] theorem Body.setF_eth (b : Body) (r : Reg) (f : Fld) (v : Nat) : (b.setF r f v).eth = b.eth := by simp [Body.setF]
@[simp] theorem Body.setF_ln (b : Body) (r : Reg) (f : Fld) (v : Nat) : (b.setF r f v).ln = b.ln := by simp [Body.setF]
@[simp] theorem Body.setF_boot (b : Body) (r : Reg) (f : Fld) (v : Nat) : (b.setF r f v).boot = b.boot := by simp [Body.setF]
@[simp] theorem Body.setF_unlock (b : Body) (r : Reg) (f : Fld) (v : Nat) : (b.setF r f v).unlock = b.unlock := by simp [Body.setF]
@[simp] theorem Body.setF_power (b : Body) (r : Reg) (f : Fld) (v : Nat) : (b.setF r f v).power = b.power := by simp [Body.setF]
@[simp] theorem Body.setF_tele (b : Body) (r : Reg) (f : Fld) (v : Nat) : (b.setF r f v).tele = b.tele := by simp [Body.setF]
@[simp] theorem Body.setF_tiers (b : Body) (r : Reg) (f : Fld) (v : Nat) : (b.setF r f v).tiers = b.tiers := by simp [Body.setF]
@[simp] theorem Body.setF_crates (b : Body) (r : Reg) (f : Fld) (v : Nat) : (b.setF r f v).crates = b.crates := by simp [Body.setF]
@[simp] theorem Body.setF_rnd (b : Body) (r : Reg) (f : Fld) (v : Nat) : (b.setF r f v).rnd = b.rnd := by simp [Body.setF]
@[simp] theorem Body.setF_berths (b : Body) (r : Reg) (f : Fld) (v : Nat) : (b.setF r f v).berths = b.berths := by simp [Body.setF]
@[simp] theorem Body.setF_ops (b : Body) (r : Reg) (f : Fld) (v : Nat) : (b.setF r f v).ops = b.ops := by simp [Body.setF]
@[simp] theorem Body.setF_jigs (b : Body) (r : Reg) (f : Fld) (v : Nat) : (b.setF r f v).jigs = b.jigs := by simp [Body.setF]
@[simp] theorem Body.setF_ferry (b : Body) (r : Reg) (f : Fld) (v : Nat) : (b.setF r f v).ferry = b.ferry := by simp [Body.setF]
@[simp] theorem Body.bump_ts (b : Body) (r : Reg) (f : Fld) (n : Nat) : (b.bump r f n).ts = b.ts := by simp [Body.bump]
@[simp] theorem Body.bump_freeCtr (b : Body) (r : Reg) (f : Fld) (n : Nat) : (b.bump r f n).freeCtr = b.freeCtr := by simp [Body.bump]
@[simp] theorem Body.bump_out (b : Body) (r : Reg) (f : Fld) (n : Nat) : (b.bump r f n).out = b.out := by simp [Body.bump]
@[simp] theorem Body.bump_mem (b : Body) (r : Reg) (f : Fld) (n : Nat) : (b.bump r f n).mem = b.mem := by simp [Body.bump]
@[simp] theorem Body.bump_bg (b : Body) (r : Reg) (f : Fld) (n : Nat) : (b.bump r f n).bg = b.bg := by simp [Body.bump]
@[simp] theorem Body.bump_epoch (b : Body) (r : Reg) (f : Fld) (n : Nat) : (b.bump r f n).epoch = b.epoch := by simp [Body.bump]
@[simp] theorem Body.bump_haze (b : Body) (r : Reg) (f : Fld) (n : Nat) : (b.bump r f n).haze = b.haze := by simp [Body.bump]
@[simp] theorem Body.bump_framing (b : Body) (r : Reg) (f : Fld) (n : Nat) : (b.bump r f n).framing = b.framing := by simp [Body.bump]
@[simp] theorem Body.bump_bw (b : Body) (r : Reg) (f : Fld) (n : Nat) : (b.bump r f n).bw = b.bw := by simp [Body.bump]
@[simp] theorem Body.bump_hm (b : Body) (r : Reg) (f : Fld) (n : Nat) : (b.bump r f n).hm = b.hm := by simp [Body.bump]
@[simp] theorem Body.bump_st (b : Body) (r : Reg) (f : Fld) (n : Nat) : (b.bump r f n).st = b.st := by simp [Body.bump]
@[simp] theorem Body.bump_eth (b : Body) (r : Reg) (f : Fld) (n : Nat) : (b.bump r f n).eth = b.eth := by simp [Body.bump]
@[simp] theorem Body.bump_ln (b : Body) (r : Reg) (f : Fld) (n : Nat) : (b.bump r f n).ln = b.ln := by simp [Body.bump]
@[simp] theorem Body.bump_boot (b : Body) (r : Reg) (f : Fld) (n : Nat) : (b.bump r f n).boot = b.boot := by simp [Body.bump]
@[simp] theorem Body.bump_unlock (b : Body) (r : Reg) (f : Fld) (n : Nat) : (b.bump r f n).unlock = b.unlock := by simp [Body.bump]
@[simp] theorem Body.bump_power (b : Body) (r : Reg) (f : Fld) (n : Nat) : (b.bump r f n).power = b.power := by simp [Body.bump]
@[simp] theorem Body.bump_tele (b : Body) (r : Reg) (f : Fld) (n : Nat) : (b.bump r f n).tele = b.tele := by simp [Body.bump]
@[simp] theorem Body.bump_tiers (b : Body) (r : Reg) (f : Fld) (n : Nat) : (b.bump r f n).tiers = b.tiers := by simp [Body.bump]
@[simp] theorem Body.bump_crates (b : Body) (r : Reg) (f : Fld) (n : Nat) : (b.bump r f n).crates = b.crates := by simp [Body.bump]
@[simp] theorem Body.bump_rnd (b : Body) (r : Reg) (f : Fld) (n : Nat) : (b.bump r f n).rnd = b.rnd := by simp [Body.bump]
@[simp] theorem Body.bump_berths (b : Body) (r : Reg) (f : Fld) (n : Nat) : (b.bump r f n).berths = b.berths := by simp [Body.bump]
@[simp] theorem Body.bump_ops (b : Body) (r : Reg) (f : Fld) (n : Nat) : (b.bump r f n).ops = b.ops := by simp [Body.bump]
@[simp] theorem Body.bump_jigs (b : Body) (r : Reg) (f : Fld) (n : Nat) : (b.bump r f n).jigs = b.jigs := by simp [Body.bump]
@[simp] theorem Body.bump_ferry (b : Body) (r : Reg) (f : Fld) (n : Nat) : (b.bump r f n).ferry = b.ferry := by simp [Body.bump]
@[simp] theorem Body.send_ts (b : Body) (m : Msg) : (b.send m).ts = b.ts := rfl
@[simp] theorem Body.send_freeCtr (b : Body) (m : Msg) : (b.send m).freeCtr = b.freeCtr := rfl
@[simp] theorem Body.send_regs (b : Body) (m : Msg) : (b.send m).regs = b.regs := rfl
@[simp] theorem Body.send_mem (b : Body) (m : Msg) : (b.send m).mem = b.mem := rfl
@[simp] theorem Body.send_bg (b : Body) (m : Msg) : (b.send m).bg = b.bg := rfl
@[simp] theorem Body.send_epoch (b : Body) (m : Msg) : (b.send m).epoch = b.epoch := rfl
@[simp] theorem Body.send_haze (b : Body) (m : Msg) : (b.send m).haze = b.haze := rfl
@[simp] theorem Body.send_framing (b : Body) (m : Msg) : (b.send m).framing = b.framing := rfl
@[simp] theorem Body.send_bw (b : Body) (m : Msg) : (b.send m).bw = b.bw := rfl
@[simp] theorem Body.send_hm (b : Body) (m : Msg) : (b.send m).hm = b.hm := rfl
@[simp] theorem Body.send_st (b : Body) (m : Msg) : (b.send m).st = b.st := rfl
@[simp] theorem Body.send_eth (b : Body) (m : Msg) : (b.send m).eth = b.eth := rfl
@[simp] theorem Body.send_ln (b : Body) (m : Msg) : (b.send m).ln = b.ln := rfl
@[simp] theorem Body.send_boot (b : Body) (m : Msg) : (b.send m).boot = b.boot := rfl
@[simp] theorem Body.send_unlock (b : Body) (m : Msg) : (b.send m).unlock = b.unlock := rfl
@[simp] theorem Body.send_power (b : Body) (m : Msg) : (b.send m).power = b.power := rfl
@[simp] theorem Body.send_tele (b : Body) (m : Msg) : (b.send m).tele = b.tele := rfl
@[simp] theorem Body.send_tiers (b : Body) (m : Msg) : (b.send m).tiers = b.tiers := rfl
@[simp] theorem Body.send_crates (b : Body) (m : Msg) : (b.send m).crates = b.crates := rfl
@[simp] theorem Body.send_rnd (b : Body) (m : Msg) : (b.send m).rnd = b.rnd := rfl
@[simp] theorem Body.send_berths (b : Body) (m : Msg) : (b.send m).berths = b.berths := rfl
@[simp] theorem Body.send_ops (b : Body) (m : Msg) : (b.send m).ops = b.ops := rfl
@[simp] theorem Body.send_jigs (b : Body) (m : Msg) : (b.send m).jigs = b.jigs := rfl
@[simp] theorem Body.send_ferry (b : Body) (m : Msg) : (b.send m).ferry = b.ferry := rfl
@[simp] theorem Body.free_ts (b : Body) : (b.free).2.ts = b.ts := rfl
@[simp] theorem Body.free_out (b : Body) : (b.free).2.out = b.out := rfl
@[simp] theorem Body.free_regs (b : Body) : (b.free).2.regs = b.regs := rfl
@[simp] theorem Body.free_mem (b : Body) : (b.free).2.mem = b.mem := rfl
@[simp] theorem Body.free_bg (b : Body) : (b.free).2.bg = b.bg := rfl
@[simp] theorem Body.free_epoch (b : Body) : (b.free).2.epoch = b.epoch := rfl
@[simp] theorem Body.free_haze (b : Body) : (b.free).2.haze = b.haze := rfl
@[simp] theorem Body.free_framing (b : Body) : (b.free).2.framing = b.framing := rfl
@[simp] theorem Body.free_bw (b : Body) : (b.free).2.bw = b.bw := rfl
@[simp] theorem Body.free_hm (b : Body) : (b.free).2.hm = b.hm := rfl
@[simp] theorem Body.free_st (b : Body) : (b.free).2.st = b.st := rfl
@[simp] theorem Body.free_eth (b : Body) : (b.free).2.eth = b.eth := rfl
@[simp] theorem Body.free_ln (b : Body) : (b.free).2.ln = b.ln := rfl
@[simp] theorem Body.free_boot (b : Body) : (b.free).2.boot = b.boot := rfl
@[simp] theorem Body.free_unlock (b : Body) : (b.free).2.unlock = b.unlock := rfl
@[simp] theorem Body.free_power (b : Body) : (b.free).2.power = b.power := rfl
@[simp] theorem Body.free_tele (b : Body) : (b.free).2.tele = b.tele := rfl
@[simp] theorem Body.free_tiers (b : Body) : (b.free).2.tiers = b.tiers := rfl
@[simp] theorem Body.free_crates (b : Body) : (b.free).2.crates = b.crates := rfl
@[simp] theorem Body.free_rnd (b : Body) : (b.free).2.rnd = b.rnd := rfl
@[simp] theorem Body.free_berths (b : Body) : (b.free).2.berths = b.berths := rfl
@[simp] theorem Body.free_ops (b : Body) : (b.free).2.ops = b.ops := rfl
@[simp] theorem Body.free_jigs (b : Body) : (b.free).2.jigs = b.jigs := rfl
@[simp] theorem Body.free_ferry (b : Body) : (b.free).2.ferry = b.ferry := rfl
@[simp] theorem Body.setByte_ts (b : Body) (a : Nat) (v : Byte) : (b.setByte a v).ts = b.ts := by
  unfold Body.setByte; (repeat' split) <;> simp
@[simp] theorem Body.setByte_freeCtr (b : Body) (a : Nat) (v : Byte) : (b.setByte a v).freeCtr = b.freeCtr := by
  unfold Body.setByte; (repeat' split) <;> simp
@[simp] theorem Body.setByte_out (b : Body) (a : Nat) (v : Byte) : (b.setByte a v).out = b.out := by
  unfold Body.setByte; (repeat' split) <;> simp
@[simp] theorem Body.setByte_regs (b : Body) (a : Nat) (v : Byte) : (b.setByte a v).regs = b.regs := by
  unfold Body.setByte; (repeat' split) <;> simp
@[simp] theorem Body.setByte_bg (b : Body) (a : Nat) (v : Byte) : (b.setByte a v).bg = b.bg := by
  unfold Body.setByte; (repeat' split) <;> simp
@[simp] theorem Body.setByte_epoch (b : Body) (a : Nat) (v : Byte) : (b.setByte a v).epoch = b.epoch := by
  unfold Body.setByte; (repeat' split) <;> simp
@[simp] theorem Body.setByte_haze (b : Body) (a : Nat) (v : Byte) : (b.setByte a v).haze = b.haze := by
  unfold Body.setByte; (repeat' split) <;> simp
@[simp] theorem Body.setByte_framing (b : Body) (a : Nat) (v : Byte) : (b.setByte a v).framing = b.framing := by
  unfold Body.setByte; (repeat' split) <;> simp
@[simp] theorem Body.setByte_bw (b : Body) (a : Nat) (v : Byte) : (b.setByte a v).bw = b.bw := by
  unfold Body.setByte; (repeat' split) <;> simp
@[simp] theorem Body.setByte_hm (b : Body) (a : Nat) (v : Byte) : (b.setByte a v).hm = b.hm := by
  unfold Body.setByte; (repeat' split) <;> simp
@[simp] theorem Body.setByte_st (b : Body) (a : Nat) (v : Byte) : (b.setByte a v).st = b.st := by
  unfold Body.setByte; (repeat' split) <;> simp
@[simp] theorem Body.setByte_eth (b : Body) (a : Nat) (v : Byte) : (b.setByte a v).eth = b.eth := by
  unfold Body.setByte; (repeat' split) <;> simp
@[simp] theorem Body.setByte_ln (b : Body) (a : Nat) (v : Byte) : (b.setByte a v).ln = b.ln := by
  unfold Body.setByte; (repeat' split) <;> simp
@[simp] theorem Body.setByte_boot (b : Body) (a : Nat) (v : Byte) : (b.setByte a v).boot = b.boot := by
  unfold Body.setByte; (repeat' split) <;> simp
@[simp] theorem Body.setByte_unlock (b : Body) (a : Nat) (v : Byte) : (b.setByte a v).unlock = b.unlock := by
  unfold Body.setByte; (repeat' split) <;> simp
@[simp] theorem Body.setByte_power (b : Body) (a : Nat) (v : Byte) : (b.setByte a v).power = b.power := by
  unfold Body.setByte; (repeat' split) <;> simp
@[simp] theorem Body.setByte_tele (b : Body) (a : Nat) (v : Byte) : (b.setByte a v).tele = b.tele := by
  unfold Body.setByte; (repeat' split) <;> simp
@[simp] theorem Body.setByte_tiers (b : Body) (a : Nat) (v : Byte) : (b.setByte a v).tiers = b.tiers := by
  unfold Body.setByte; (repeat' split) <;> simp
@[simp] theorem Body.setByte_crates (b : Body) (a : Nat) (v : Byte) : (b.setByte a v).crates = b.crates := by
  unfold Body.setByte; (repeat' split) <;> simp
@[simp] theorem Body.setByte_rnd (b : Body) (a : Nat) (v : Byte) : (b.setByte a v).rnd = b.rnd := by
  unfold Body.setByte; (repeat' split) <;> simp
@[simp] theorem Body.setByte_berths (b : Body) (a : Nat) (v : Byte) : (b.setByte a v).berths = b.berths := by
  unfold Body.setByte; (repeat' split) <;> simp
@[simp] theorem Body.setByte_ops (b : Body) (a : Nat) (v : Byte) : (b.setByte a v).ops = b.ops := by
  unfold Body.setByte; (repeat' split) <;> simp
@[simp] theorem Body.setByte_jigs (b : Body) (a : Nat) (v : Byte) : (b.setByte a v).jigs = b.jigs := by
  unfold Body.setByte; (repeat' split) <;> simp
@[simp] theorem Body.setByte_ferry (b : Body) (a : Nat) (v : Byte) : (b.setByte a v).ferry = b.ferry := by
  unfold Body.setByte; (repeat' split) <;> simp
@[simp] theorem Body.setBytes_ts (b : Body) (a : Nat) (l : List Byte) : (b.setBytes a l).ts = b.ts := by
  induction l generalizing b a with
  | nil => rfl
  | cons v r ih => simp [Body.setBytes, ih]
@[simp] theorem Body.setBytes_freeCtr (b : Body) (a : Nat) (l : List Byte) : (b.setBytes a l).freeCtr = b.freeCtr := by
  induction l generalizing b a with
  | nil => rfl
  | cons v r ih => simp [Body.setBytes, ih]
@[simp] theorem Body.setBytes_out (b : Body) (a : Nat) (l : List Byte) : (b.setBytes a l).out = b.out := by
  induction l generalizing b a with
  | nil => rfl
  | cons v r ih => simp [Body.setBytes, ih]
@[simp] theorem Body.setBytes_regs (b : Body) (a : Nat) (l : List Byte) : (b.setBytes a l).regs = b.regs := by
  induction l generalizing b a with
  | nil => rfl
  | cons v r ih => simp [Body.setBytes, ih]
@[simp] theorem Body.setBytes_bg (b : Body) (a : Nat) (l : List Byte) : (b.setBytes a l).bg = b.bg := by
  induction l generalizing b a with
  | nil => rfl
  | cons v r ih => simp [Body.setBytes, ih]
@[simp] theorem Body.setBytes_epoch (b : Body) (a : Nat) (l : List Byte) : (b.setBytes a l).epoch = b.epoch := by
  induction l generalizing b a with
  | nil => rfl
  | cons v r ih => simp [Body.setBytes, ih]
@[simp] theorem Body.setBytes_haze (b : Body) (a : Nat) (l : List Byte) : (b.setBytes a l).haze = b.haze := by
  induction l generalizing b a with
  | nil => rfl
  | cons v r ih => simp [Body.setBytes, ih]
@[simp] theorem Body.setBytes_framing (b : Body) (a : Nat) (l : List Byte) : (b.setBytes a l).framing = b.framing := by
  induction l generalizing b a with
  | nil => rfl
  | cons v r ih => simp [Body.setBytes, ih]
@[simp] theorem Body.setBytes_bw (b : Body) (a : Nat) (l : List Byte) : (b.setBytes a l).bw = b.bw := by
  induction l generalizing b a with
  | nil => rfl
  | cons v r ih => simp [Body.setBytes, ih]
@[simp] theorem Body.setBytes_hm (b : Body) (a : Nat) (l : List Byte) : (b.setBytes a l).hm = b.hm := by
  induction l generalizing b a with
  | nil => rfl
  | cons v r ih => simp [Body.setBytes, ih]
@[simp] theorem Body.setBytes_st (b : Body) (a : Nat) (l : List Byte) : (b.setBytes a l).st = b.st := by
  induction l generalizing b a with
  | nil => rfl
  | cons v r ih => simp [Body.setBytes, ih]
@[simp] theorem Body.setBytes_eth (b : Body) (a : Nat) (l : List Byte) : (b.setBytes a l).eth = b.eth := by
  induction l generalizing b a with
  | nil => rfl
  | cons v r ih => simp [Body.setBytes, ih]
@[simp] theorem Body.setBytes_ln (b : Body) (a : Nat) (l : List Byte) : (b.setBytes a l).ln = b.ln := by
  induction l generalizing b a with
  | nil => rfl
  | cons v r ih => simp [Body.setBytes, ih]
@[simp] theorem Body.setBytes_boot (b : Body) (a : Nat) (l : List Byte) : (b.setBytes a l).boot = b.boot := by
  induction l generalizing b a with
  | nil => rfl
  | cons v r ih => simp [Body.setBytes, ih]
@[simp] theorem Body.setBytes_unlock (b : Body) (a : Nat) (l : List Byte) : (b.setBytes a l).unlock = b.unlock := by
  induction l generalizing b a with
  | nil => rfl
  | cons v r ih => simp [Body.setBytes, ih]
@[simp] theorem Body.setBytes_power (b : Body) (a : Nat) (l : List Byte) : (b.setBytes a l).power = b.power := by
  induction l generalizing b a with
  | nil => rfl
  | cons v r ih => simp [Body.setBytes, ih]
@[simp] theorem Body.setBytes_tele (b : Body) (a : Nat) (l : List Byte) : (b.setBytes a l).tele = b.tele := by
  induction l generalizing b a with
  | nil => rfl
  | cons v r ih => simp [Body.setBytes, ih]
@[simp] theorem Body.setBytes_tiers (b : Body) (a : Nat) (l : List Byte) : (b.setBytes a l).tiers = b.tiers := by
  induction l generalizing b a with
  | nil => rfl
  | cons v r ih => simp [Body.setBytes, ih]
@[simp] theorem Body.setBytes_crates (b : Body) (a : Nat) (l : List Byte) : (b.setBytes a l).crates = b.crates := by
  induction l generalizing b a with
  | nil => rfl
  | cons v r ih => simp [Body.setBytes, ih]
@[simp] theorem Body.setBytes_rnd (b : Body) (a : Nat) (l : List Byte) : (b.setBytes a l).rnd = b.rnd := by
  induction l generalizing b a with
  | nil => rfl
  | cons v r ih => simp [Body.setBytes, ih]
@[simp] theorem Body.setBytes_berths (b : Body) (a : Nat) (l : List Byte) : (b.setBytes a l).berths = b.berths := by
  induction l generalizing b a with
  | nil => rfl
  | cons v r ih => simp [Body.setBytes, ih]
@[simp] theorem Body.setBytes_ops (b : Body) (a : Nat) (l : List Byte) : (b.setBytes a l).ops = b.ops := by
  induction l generalizing b a with
  | nil => rfl
  | cons v r ih => simp [Body.setBytes, ih]
@[simp] theorem Body.setBytes_jigs (b : Body) (a : Nat) (l : List Byte) : (b.setBytes a l).jigs = b.jigs := by
  induction l generalizing b a with
  | nil => rfl
  | cons v r ih => simp [Body.setBytes, ih]
@[simp] theorem Body.setBytes_ferry (b : Body) (a : Nat) (l : List Byte) : (b.setBytes a l).ferry = b.ferry := by
  induction l generalizing b a with
  | nil => rfl
  | cons v r ih => simp [Body.setBytes, ih]
@[simp] theorem Body.setLe_ts (b : Body) (a : Nat) (n : Nat) (v : Nat) : (b.setLe a n v).ts = b.ts := by simp [Body.setLe]
@[simp] theorem Body.setLe_freeCtr (b : Body) (a : Nat) (n : Nat) (v : Nat) : (b.setLe a n v).freeCtr = b.freeCtr := by simp [Body.setLe]
@[simp] theorem Body.setLe_out (b : Body) (a : Nat) (n : Nat) (v : Nat) : (b.setLe a n v).out = b.out := by simp [Body.setLe]
@[simp] theorem Body.setLe_regs (b : Body) (a : Nat) (n : Nat) (v : Nat) : (b.setLe a n v).regs = b.regs := by simp [Body.setLe]
@[simp] theorem Body.setLe_bg (b : Body) (a : Nat) (n : Nat) (v : Nat) : (b.setLe a n v).bg = b.bg := by simp [Body.setLe]
@[simp] theorem Body.setLe_epoch (b : Body) (a : Nat) (n : Nat) (v : Nat) : (b.setLe a n v).epoch = b.epoch := by simp [Body.setLe]
@[simp] theorem Body.setLe_haze (b : Body) (a : Nat) (n : Nat) (v : Nat) : (b.setLe a n v).haze = b.haze := by simp [Body.setLe]
@[simp] theorem Body.setLe_framing (b : Body) (a : Nat) (n : Nat) (v : Nat) : (b.setLe a n v).framing = b.framing := by simp [Body.setLe]
@[simp] theorem Body.setLe_bw (b : Body) (a : Nat) (n : Nat) (v : Nat) : (b.setLe a n v).bw = b.bw := by simp [Body.setLe]
@[simp] theorem Body.setLe_hm (b : Body) (a : Nat) (n : Nat) (v : Nat) : (b.setLe a n v).hm = b.hm := by simp [Body.setLe]
@[simp] theorem Body.setLe_st (b : Body) (a : Nat) (n : Nat) (v : Nat) : (b.setLe a n v).st = b.st := by simp [Body.setLe]
@[simp] theorem Body.setLe_eth (b : Body) (a : Nat) (n : Nat) (v : Nat) : (b.setLe a n v).eth = b.eth := by simp [Body.setLe]
@[simp] theorem Body.setLe_ln (b : Body) (a : Nat) (n : Nat) (v : Nat) : (b.setLe a n v).ln = b.ln := by simp [Body.setLe]
@[simp] theorem Body.setLe_boot (b : Body) (a : Nat) (n : Nat) (v : Nat) : (b.setLe a n v).boot = b.boot := by simp [Body.setLe]
@[simp] theorem Body.setLe_unlock (b : Body) (a : Nat) (n : Nat) (v : Nat) : (b.setLe a n v).unlock = b.unlock := by simp [Body.setLe]
@[simp] theorem Body.setLe_power (b : Body) (a : Nat) (n : Nat) (v : Nat) : (b.setLe a n v).power = b.power := by simp [Body.setLe]
@[simp] theorem Body.setLe_tele (b : Body) (a : Nat) (n : Nat) (v : Nat) : (b.setLe a n v).tele = b.tele := by simp [Body.setLe]
@[simp] theorem Body.setLe_tiers (b : Body) (a : Nat) (n : Nat) (v : Nat) : (b.setLe a n v).tiers = b.tiers := by simp [Body.setLe]
@[simp] theorem Body.setLe_crates (b : Body) (a : Nat) (n : Nat) (v : Nat) : (b.setLe a n v).crates = b.crates := by simp [Body.setLe]
@[simp] theorem Body.setLe_rnd (b : Body) (a : Nat) (n : Nat) (v : Nat) : (b.setLe a n v).rnd = b.rnd := by simp [Body.setLe]
@[simp] theorem Body.setLe_berths (b : Body) (a : Nat) (n : Nat) (v : Nat) : (b.setLe a n v).berths = b.berths := by simp [Body.setLe]
@[simp] theorem Body.setLe_ops (b : Body) (a : Nat) (n : Nat) (v : Nat) : (b.setLe a n v).ops = b.ops := by simp [Body.setLe]
@[simp] theorem Body.setLe_jigs (b : Body) (a : Nat) (n : Nat) (v : Nat) : (b.setLe a n v).jigs = b.jigs := by simp [Body.setLe]
@[simp] theorem Body.setLe_ferry (b : Body) (a : Nat) (n : Nat) (v : Nat) : (b.setLe a n v).ferry = b.ferry := by simp [Body.setLe]
@[simp] theorem Body.setBg_ts (b : Body) (r : Nat) (code : Nat) : (b.setBg r code).ts = b.ts := rfl
@[simp] theorem Body.setBg_freeCtr (b : Body) (r : Nat) (code : Nat) : (b.setBg r code).freeCtr = b.freeCtr := rfl
@[simp] theorem Body.setBg_out (b : Body) (r : Nat) (code : Nat) : (b.setBg r code).out = b.out := rfl
@[simp] theorem Body.setBg_regs (b : Body) (r : Nat) (code : Nat) : (b.setBg r code).regs = b.regs := rfl
@[simp] theorem Body.setBg_epoch (b : Body) (r : Nat) (code : Nat) : (b.setBg r code).epoch = b.epoch := rfl
@[simp] theorem Body.setBg_framing (b : Body) (r : Nat) (code : Nat) : (b.setBg r code).framing = b.framing := rfl
@[simp] theorem Body.setBg_bw (b : Body) (r : Nat) (code : Nat) : (b.setBg r code).bw = b.bw := rfl
@[simp] theorem Body.setBg_hm (b : Body) (r : Nat) (code : Nat) : (b.setBg r code).hm = b.hm := rfl
@[simp] theorem Body.setBg_st (b : Body) (r : Nat) (code : Nat) : (b.setBg r code).st = b.st := rfl
@[simp] theorem Body.setBg_eth (b : Body) (r : Nat) (code : Nat) : (b.setBg r code).eth = b.eth := rfl
@[simp] theorem Body.setBg_ln (b : Body) (r : Nat) (code : Nat) : (b.setBg r code).ln = b.ln := rfl
@[simp] theorem Body.setBg_boot (b : Body) (r : Nat) (code : Nat) : (b.setBg r code).boot = b.boot := rfl
@[simp] theorem Body.setBg_unlock (b : Body) (r : Nat) (code : Nat) : (b.setBg r code).unlock = b.unlock := rfl
@[simp] theorem Body.setBg_power (b : Body) (r : Nat) (code : Nat) : (b.setBg r code).power = b.power := rfl
@[simp] theorem Body.setBg_tele (b : Body) (r : Nat) (code : Nat) : (b.setBg r code).tele = b.tele := rfl
@[simp] theorem Body.setBg_tiers (b : Body) (r : Nat) (code : Nat) : (b.setBg r code).tiers = b.tiers := rfl
@[simp] theorem Body.setBg_crates (b : Body) (r : Nat) (code : Nat) : (b.setBg r code).crates = b.crates := rfl
@[simp] theorem Body.setBg_rnd (b : Body) (r : Nat) (code : Nat) : (b.setBg r code).rnd = b.rnd := rfl
@[simp] theorem Body.setBg_berths (b : Body) (r : Nat) (code : Nat) : (b.setBg r code).berths = b.berths := rfl
@[simp] theorem Body.setBg_ops (b : Body) (r : Nat) (code : Nat) : (b.setBg r code).ops = b.ops := rfl
@[simp] theorem Body.setBg_jigs (b : Body) (r : Nat) (code : Nat) : (b.setBg r code).jigs = b.jigs := rfl
@[simp] theorem Body.setBg_ferry (b : Body) (r : Nat) (code : Nat) : (b.setBg r code).ferry = b.ferry := rfl
@[simp] theorem Body.zeroRegion_ts (b : Body) (r : Nat) : (b.zeroRegion r).ts = b.ts := rfl
@[simp] theorem Body.zeroRegion_freeCtr (b : Body) (r : Nat) : (b.zeroRegion r).freeCtr = b.freeCtr := rfl
@[simp] theorem Body.zeroRegion_out (b : Body) (r : Nat) : (b.zeroRegion r).out = b.out := rfl
@[simp] theorem Body.zeroRegion_regs (b : Body) (r : Nat) : (b.zeroRegion r).regs = b.regs := rfl
@[simp] theorem Body.zeroRegion_epoch (b : Body) (r : Nat) : (b.zeroRegion r).epoch = b.epoch := rfl
@[simp] theorem Body.zeroRegion_framing (b : Body) (r : Nat) : (b.zeroRegion r).framing = b.framing := rfl
@[simp] theorem Body.zeroRegion_bw (b : Body) (r : Nat) : (b.zeroRegion r).bw = b.bw := rfl
@[simp] theorem Body.zeroRegion_hm (b : Body) (r : Nat) : (b.zeroRegion r).hm = b.hm := rfl
@[simp] theorem Body.zeroRegion_st (b : Body) (r : Nat) : (b.zeroRegion r).st = b.st := rfl
@[simp] theorem Body.zeroRegion_eth (b : Body) (r : Nat) : (b.zeroRegion r).eth = b.eth := rfl
@[simp] theorem Body.zeroRegion_ln (b : Body) (r : Nat) : (b.zeroRegion r).ln = b.ln := rfl
@[simp] theorem Body.zeroRegion_boot (b : Body) (r : Nat) : (b.zeroRegion r).boot = b.boot := rfl
@[simp] theorem Body.zeroRegion_unlock (b : Body) (r : Nat) : (b.zeroRegion r).unlock = b.unlock := rfl
@[simp] theorem Body.zeroRegion_power (b : Body) (r : Nat) : (b.zeroRegion r).power = b.power := rfl
@[simp] theorem Body.zeroRegion_tele (b : Body) (r : Nat) : (b.zeroRegion r).tele = b.tele := rfl
@[simp] theorem Body.zeroRegion_tiers (b : Body) (r : Nat) : (b.zeroRegion r).tiers = b.tiers := rfl
@[simp] theorem Body.zeroRegion_crates (b : Body) (r : Nat) : (b.zeroRegion r).crates = b.crates := rfl
@[simp] theorem Body.zeroRegion_rnd (b : Body) (r : Nat) : (b.zeroRegion r).rnd = b.rnd := rfl
@[simp] theorem Body.zeroRegion_berths (b : Body) (r : Nat) : (b.zeroRegion r).berths = b.berths := rfl
@[simp] theorem Body.zeroRegion_ops (b : Body) (r : Nat) : (b.zeroRegion r).ops = b.ops := rfl
@[simp] theorem Body.zeroRegion_jigs (b : Body) (r : Nat) : (b.zeroRegion r).jigs = b.jigs := rfl
@[simp] theorem Body.zeroRegion_ferry (b : Body) (r : Nat) : (b.zeroRegion r).ferry = b.ferry := rfl
@[simp] theorem Body.loseRegion_ts (b : Body) (r : Nat) : (b.loseRegion r).ts = b.ts := rfl
@[simp] theorem Body.loseRegion_freeCtr (b : Body) (r : Nat) : (b.loseRegion r).freeCtr = b.freeCtr := rfl
@[simp] theorem Body.loseRegion_out (b : Body) (r : Nat) : (b.loseRegion r).out = b.out := rfl
@[simp] theorem Body.loseRegion_regs (b : Body) (r : Nat) : (b.loseRegion r).regs = b.regs := rfl
@[simp] theorem Body.loseRegion_framing (b : Body) (r : Nat) : (b.loseRegion r).framing = b.framing := rfl
@[simp] theorem Body.loseRegion_bw (b : Body) (r : Nat) : (b.loseRegion r).bw = b.bw := rfl
@[simp] theorem Body.loseRegion_hm (b : Body) (r : Nat) : (b.loseRegion r).hm = b.hm := rfl
@[simp] theorem Body.loseRegion_st (b : Body) (r : Nat) : (b.loseRegion r).st = b.st := rfl
@[simp] theorem Body.loseRegion_eth (b : Body) (r : Nat) : (b.loseRegion r).eth = b.eth := rfl
@[simp] theorem Body.loseRegion_ln (b : Body) (r : Nat) : (b.loseRegion r).ln = b.ln := rfl
@[simp] theorem Body.loseRegion_boot (b : Body) (r : Nat) : (b.loseRegion r).boot = b.boot := rfl
@[simp] theorem Body.loseRegion_unlock (b : Body) (r : Nat) : (b.loseRegion r).unlock = b.unlock := rfl
@[simp] theorem Body.loseRegion_power (b : Body) (r : Nat) : (b.loseRegion r).power = b.power := rfl
@[simp] theorem Body.loseRegion_tele (b : Body) (r : Nat) : (b.loseRegion r).tele = b.tele := rfl
@[simp] theorem Body.loseRegion_tiers (b : Body) (r : Nat) : (b.loseRegion r).tiers = b.tiers := rfl
@[simp] theorem Body.loseRegion_crates (b : Body) (r : Nat) : (b.loseRegion r).crates = b.crates := rfl
@[simp] theorem Body.loseRegion_rnd (b : Body) (r : Nat) : (b.loseRegion r).rnd = b.rnd := rfl
@[simp] theorem Body.loseRegion_berths (b : Body) (r : Nat) : (b.loseRegion r).berths = b.berths := rfl
@[simp] theorem Body.loseRegion_ops (b : Body) (r : Nat) : (b.loseRegion r).ops = b.ops := rfl
@[simp] theorem Body.loseRegion_jigs (b : Body) (r : Nat) : (b.loseRegion r).jigs = b.jigs := rfl
@[simp] theorem Body.loseRegion_ferry (b : Body) (r : Nat) : (b.loseRegion r).ferry = b.ferry := rfl
@[simp] theorem Body.blurPart_ts (b : Body) (a : Nat) (n : Nat) : (b.blurPart a n).ts = b.ts := rfl
@[simp] theorem Body.blurPart_freeCtr (b : Body) (a : Nat) (n : Nat) : (b.blurPart a n).freeCtr = b.freeCtr := rfl
@[simp] theorem Body.blurPart_out (b : Body) (a : Nat) (n : Nat) : (b.blurPart a n).out = b.out := rfl
@[simp] theorem Body.blurPart_regs (b : Body) (a : Nat) (n : Nat) : (b.blurPart a n).regs = b.regs := rfl
@[simp] theorem Body.blurPart_bg (b : Body) (a : Nat) (n : Nat) : (b.blurPart a n).bg = b.bg := rfl
@[simp] theorem Body.blurPart_framing (b : Body) (a : Nat) (n : Nat) : (b.blurPart a n).framing = b.framing := rfl
@[simp] theorem Body.blurPart_bw (b : Body) (a : Nat) (n : Nat) : (b.blurPart a n).bw = b.bw := rfl
@[simp] theorem Body.blurPart_hm (b : Body) (a : Nat) (n : Nat) : (b.blurPart a n).hm = b.hm := rfl
@[simp] theorem Body.blurPart_st (b : Body) (a : Nat) (n : Nat) : (b.blurPart a n).st = b.st := rfl
@[simp] theorem Body.blurPart_eth (b : Body) (a : Nat) (n : Nat) : (b.blurPart a n).eth = b.eth := rfl
@[simp] theorem Body.blurPart_ln (b : Body) (a : Nat) (n : Nat) : (b.blurPart a n).ln = b.ln := rfl
@[simp] theorem Body.blurPart_boot (b : Body) (a : Nat) (n : Nat) : (b.blurPart a n).boot = b.boot := rfl
@[simp] theorem Body.blurPart_unlock (b : Body) (a : Nat) (n : Nat) : (b.blurPart a n).unlock = b.unlock := rfl
@[simp] theorem Body.blurPart_power (b : Body) (a : Nat) (n : Nat) : (b.blurPart a n).power = b.power := rfl
@[simp] theorem Body.blurPart_tele (b : Body) (a : Nat) (n : Nat) : (b.blurPart a n).tele = b.tele := rfl
@[simp] theorem Body.blurPart_tiers (b : Body) (a : Nat) (n : Nat) : (b.blurPart a n).tiers = b.tiers := rfl
@[simp] theorem Body.blurPart_crates (b : Body) (a : Nat) (n : Nat) : (b.blurPart a n).crates = b.crates := rfl
@[simp] theorem Body.blurPart_rnd (b : Body) (a : Nat) (n : Nat) : (b.blurPart a n).rnd = b.rnd := rfl
@[simp] theorem Body.blurPart_berths (b : Body) (a : Nat) (n : Nat) : (b.blurPart a n).berths = b.berths := rfl
@[simp] theorem Body.blurPart_ops (b : Body) (a : Nat) (n : Nat) : (b.blurPart a n).ops = b.ops := rfl
@[simp] theorem Body.blurPart_jigs (b : Body) (a : Nat) (n : Nat) : (b.blurPart a n).jigs = b.jigs := rfl
@[simp] theorem Body.blurPart_ferry (b : Body) (a : Nat) (n : Nat) : (b.blurPart a n).ferry = b.ferry := rfl
@[simp] theorem Body.blur_ts (b : Body) (a : Nat) (n : Nat) : (b.blur a n).ts = b.ts := by
  unfold Body.blur; split
  · rfl
  · exact foldl_keep (fun b : Body => b.ts) _ _ _ (fun _ _ => rfl)
@[simp] theorem Body.blur_freeCtr (b : Body) (a : Nat) (n : Nat) : (b.blur a n).freeCtr = b.freeCtr := by
  unfold Body.blur; split
  · rfl
  · exact foldl_keep (fun b : Body => b.freeCtr) _ _ _ (fun _ _ => rfl)
@[simp] theorem Body.blur_out (b : Body) (a : Nat) (n : Nat) : (b.blur a n).out = b.out := by
  unfold Body.blur; split
  · rfl
  · exact foldl_keep (fun b : Body => b.out) _ _ _ (fun _ _ => rfl)
@[simp] theorem Body.blur_regs (b : Body) (a : Nat) (n : Nat) : (b.blur a n).regs = b.regs := by
  unfold Body.blur; split
  · rfl
  · exact foldl_keep (fun b : Body => b.regs) _ _ _ (fun _ _ => rfl)
@[simp] theorem Body.blur_bg (b : Body) (a : Nat) (n : Nat) : (b.blur a n).bg = b.bg := by
  unfold Body.blur; split
  · rfl
  · exact foldl_keep (fun b : Body => b.bg) _ _ _ (fun _ _ => rfl)
@[simp] theorem Body.blur_framing (b : Body) (a : Nat) (n : Nat) : (b.blur a n).framing = b.framing := by
  unfold Body.blur; split
  · rfl
  · exact foldl_keep (fun b : Body => b.framing) _ _ _ (fun _ _ => rfl)
@[simp] theorem Body.blur_bw (b : Body) (a : Nat) (n : Nat) : (b.blur a n).bw = b.bw := by
  unfold Body.blur; split
  · rfl
  · exact foldl_keep (fun b : Body => b.bw) _ _ _ (fun _ _ => rfl)
@[simp] theorem Body.blur_hm (b : Body) (a : Nat) (n : Nat) : (b.blur a n).hm = b.hm := by
  unfold Body.blur; split
  · rfl
  · exact foldl_keep (fun b : Body => b.hm) _ _ _ (fun _ _ => rfl)
@[simp] theorem Body.blur_st (b : Body) (a : Nat) (n : Nat) : (b.blur a n).st = b.st := by
  unfold Body.blur; split
  · rfl
  · exact foldl_keep (fun b : Body => b.st) _ _ _ (fun _ _ => rfl)
@[simp] theorem Body.blur_eth (b : Body) (a : Nat) (n : Nat) : (b.blur a n).eth = b.eth := by
  unfold Body.blur; split
  · rfl
  · exact foldl_keep (fun b : Body => b.eth) _ _ _ (fun _ _ => rfl)
@[simp] theorem Body.blur_ln (b : Body) (a : Nat) (n : Nat) : (b.blur a n).ln = b.ln := by
  unfold Body.blur; split
  · rfl
  · exact foldl_keep (fun b : Body => b.ln) _ _ _ (fun _ _ => rfl)
@[simp] theorem Body.blur_boot (b : Body) (a : Nat) (n : Nat) : (b.blur a n).boot = b.boot := by
  unfold Body.blur; split
  · rfl
  · exact foldl_keep (fun b : Body => b.boot) _ _ _ (fun _ _ => rfl)
@[simp] theorem Body.blur_unlock (b : Body) (a : Nat) (n : Nat) : (b.blur a n).unlock = b.unlock := by
  unfold Body.blur; split
  · rfl
  · exact foldl_keep (fun b : Body => b.unlock) _ _ _ (fun _ _ => rfl)
@[simp] theorem Body.blur_power (b : Body) (a : Nat) (n : Nat) : (b.blur a n).power = b.power := by
  unfold Body.blur; split
  · rfl
  · exact foldl_keep (fun b : Body => b.power) _ _ _ (fun _ _ => rfl)
@[simp] theorem Body.blur_tele (b : Body) (a : Nat) (n : Nat) : (b.blur a n).tele = b.tele := by
  unfold Body.blur; split
  · rfl
  · exact foldl_keep (fun b : Body => b.tele) _ _ _ (fun _ _ => rfl)
@[simp] theorem Body.blur_tiers (b : Body) (a : Nat) (n : Nat) : (b.blur a n).tiers = b.tiers := by
  unfold Body.blur; split
  · rfl
  · exact foldl_keep (fun b : Body => b.tiers) _ _ _ (fun _ _ => rfl)
@[simp] theorem Body.blur_crates (b : Body) (a : Nat) (n : Nat) : (b.blur a n).crates = b.crates := by
  unfold Body.blur; split
  · rfl
  · exact foldl_keep (fun b : Body => b.crates) _ _ _ (fun _ _ => rfl)
@[simp] theorem Body.blur_rnd (b : Body) (a : Nat) (n : Nat) : (b.blur a n).rnd = b.rnd := by
  unfold Body.blur; split
  · rfl
  · exact foldl_keep (fun b : Body => b.rnd) _ _ _ (fun _ _ => rfl)
@[simp] theorem Body.blur_berths (b : Body) (a : Nat) (n : Nat) : (b.blur a n).berths = b.berths := by
  unfold Body.blur; split
  · rfl
  · exact foldl_keep (fun b : Body => b.berths) _ _ _ (fun _ _ => rfl)
@[simp] theorem Body.blur_ops (b : Body) (a : Nat) (n : Nat) : (b.blur a n).ops = b.ops := by
  unfold Body.blur; split
  · rfl
  · exact foldl_keep (fun b : Body => b.ops) _ _ _ (fun _ _ => rfl)
@[simp] theorem Body.blur_jigs (b : Body) (a : Nat) (n : Nat) : (b.blur a n).jigs = b.jigs := by
  unfold Body.blur; split
  · rfl
  · exact foldl_keep (fun b : Body => b.jigs) _ _ _ (fun _ _ => rfl)
@[simp] theorem Body.blur_ferry (b : Body) (a : Nat) (n : Nat) : (b.blur a n).ferry = b.ferry := by
  unfold Body.blur; split
  · rfl
  · exact foldl_keep (fun b : Body => b.ferry) _ _ _ (fun _ _ => rfl)
@[simp] theorem Body.updInfo_ts (b : Body) (k : Nat) (f : CtxInfo → CtxInfo) : (b.updInfo k f).ts = b.ts := rfl
@[simp] theorem Body.updInfo_freeCtr (b : Body) (k : Nat) (f : CtxInfo → CtxInfo) : (b.updInfo k f).freeCtr = b.freeCtr := rfl
@[simp] theorem Body.updInfo_out (b : Body) (k : Nat) (f : CtxInfo → CtxInfo) : (b.updInfo k f).out = b.out := rfl
@[simp] theorem Body.updInfo_regs (b : Body) (k : Nat) (f : CtxInfo → CtxInfo) : (b.updInfo k f).regs = b.regs := rfl
@[simp] theorem Body.updInfo_mem (b : Body) (k : Nat) (f : CtxInfo → CtxInfo) : (b.updInfo k f).mem = b.mem := rfl
@[simp] theorem Body.updInfo_bg (b : Body) (k : Nat) (f : CtxInfo → CtxInfo) : (b.updInfo k f).bg = b.bg := rfl
@[simp] theorem Body.updInfo_epoch (b : Body) (k : Nat) (f : CtxInfo → CtxInfo) : (b.updInfo k f).epoch = b.epoch := rfl
@[simp] theorem Body.updInfo_haze (b : Body) (k : Nat) (f : CtxInfo → CtxInfo) : (b.updInfo k f).haze = b.haze := rfl
@[simp] theorem Body.updInfo_framing (b : Body) (k : Nat) (f : CtxInfo → CtxInfo) : (b.updInfo k f).framing = b.framing := rfl
@[simp] theorem Body.updInfo_bw (b : Body) (k : Nat) (f : CtxInfo → CtxInfo) : (b.updInfo k f).bw = b.bw := rfl
@[simp] theorem Body.updInfo_st (b : Body) (k : Nat) (f : CtxInfo → CtxInfo) : (b.updInfo k f).st = b.st := rfl
@[simp] theorem Body.updInfo_eth (b : Body) (k : Nat) (f : CtxInfo → CtxInfo) : (b.updInfo k f).eth = b.eth := rfl
@[simp] theorem Body.updInfo_ln (b : Body) (k : Nat) (f : CtxInfo → CtxInfo) : (b.updInfo k f).ln = b.ln := rfl
@[simp] theorem Body.updInfo_boot (b : Body) (k : Nat) (f : CtxInfo → CtxInfo) : (b.updInfo k f).boot = b.boot := rfl
@[simp] theorem Body.updInfo_unlock (b : Body) (k : Nat) (f : CtxInfo → CtxInfo) : (b.updInfo k f).unlock = b.unlock := rfl
@[simp] theorem Body.updInfo_power (b : Body) (k : Nat) (f : CtxInfo → CtxInfo) : (b.updInfo k f).power = b.power := rfl
@[simp] theorem Body.updInfo_tele (b : Body) (k : Nat) (f : CtxInfo → CtxInfo) : (b.updInfo k f).tele = b.tele := rfl
@[simp] theorem Body.updInfo_tiers (b : Body) (k : Nat) (f : CtxInfo → CtxInfo) : (b.updInfo k f).tiers = b.tiers := rfl
@[simp] theorem Body.updInfo_crates (b : Body) (k : Nat) (f : CtxInfo → CtxInfo) : (b.updInfo k f).crates = b.crates := rfl
@[simp] theorem Body.updInfo_rnd (b : Body) (k : Nat) (f : CtxInfo → CtxInfo) : (b.updInfo k f).rnd = b.rnd := rfl
@[simp] theorem Body.updInfo_berths (b : Body) (k : Nat) (f : CtxInfo → CtxInfo) : (b.updInfo k f).berths = b.berths := rfl
@[simp] theorem Body.updInfo_ops (b : Body) (k : Nat) (f : CtxInfo → CtxInfo) : (b.updInfo k f).ops = b.ops := rfl
@[simp] theorem Body.updInfo_jigs (b : Body) (k : Nat) (f : CtxInfo → CtxInfo) : (b.updInfo k f).jigs = b.jigs := rfl
@[simp] theorem Body.updInfo_ferry (b : Body) (k : Nat) (f : CtxInfo → CtxInfo) : (b.updInfo k f).ferry = b.ferry := rfl
@[simp] theorem Body.updInfo_hm_nextUid (b : Body) (k : Nat) (f : CtxInfo → CtxInfo) : (b.updInfo k f).hm.nextUid = b.hm.nextUid := rfl
@[simp] theorem Body.updInfo_hm_flights (b : Body) (k : Nat) (f : CtxInfo → CtxInfo) : (b.updInfo k f).hm.flights = b.hm.flights := rfl
@[simp] theorem Body.updInfo_hm_ended (b : Body) (k : Nat) (f : CtxInfo → CtxInfo) : (b.updInfo k f).hm.ended = b.hm.ended := rfl
@[simp] theorem Body.updInfo_hm_rrUsed (b : Body) (k : Nat) (f : CtxInfo → CtxInfo) : (b.updInfo k f).hm.rrUsed = b.hm.rrUsed := rfl
@[simp] theorem Body.updInfo_hm_rrLast (b : Body) (k : Nat) (f : CtxInfo → CtxInfo) : (b.updInfo k f).hm.rrLast = b.hm.rrLast := rfl
@[simp] theorem Body.updInfo_hm_stepLast (b : Body) (k : Nat) (f : CtxInfo → CtxInfo) : (b.updInfo k f).hm.stepLast = b.hm.stepLast := rfl
@[simp] theorem Body.updInfo_hm_skips (b : Body) (k : Nat) (f : CtxInfo → CtxInfo) : (b.updInfo k f).hm.skips = b.hm.skips := rfl
@[simp] theorem Body.updInfo_hm_sregs (b : Body) (k : Nat) (f : CtxInfo → CtxInfo) : (b.updInfo k f).hm.sregs = b.hm.sregs := rfl
@[simp] theorem Body.updInfo_hm_batch (b : Body) (k : Nat) (f : CtxInfo → CtxInfo) : (b.updInfo k f).hm.batch = b.hm.batch := rfl
@[simp] theorem Body.updInfo_hm_chains (b : Body) (k : Nat) (f : CtxInfo → CtxInfo) : (b.updInfo k f).hm.chains = b.hm.chains := rfl
@[simp] theorem Body.updInfo_hm_waits (b : Body) (k : Nat) (f : CtxInfo → CtxInfo) : (b.updInfo k f).hm.waits = b.hm.waits := rfl
@[simp] theorem Body.updInfo_hm_returned (b : Body) (k : Nat) (f : CtxInfo → CtxInfo) : (b.updInfo k f).hm.returned = b.hm.returned := rfl
@[simp] theorem Body.updInfo_hm_halting (b : Body) (k : Nat) (f : CtxInfo → CtxInfo) : (b.updInfo k f).hm.halting = b.hm.halting := rfl
@[simp] theorem Body.updInfo_hm_sramDead (b : Body) (k : Nat) (f : CtxInfo → CtxInfo) : (b.updInfo k f).hm.sramDead = b.hm.sramDead := rfl
@[simp] theorem Body.setEntry_ts (b : Body) (slot : Nat) (idx : Nat) (e : Entry) : (b.setEntry slot idx e).ts = b.ts := rfl
@[simp] theorem Body.setEntry_freeCtr (b : Body) (slot : Nat) (idx : Nat) (e : Entry) : (b.setEntry slot idx e).freeCtr = b.freeCtr := rfl
@[simp] theorem Body.setEntry_out (b : Body) (slot : Nat) (idx : Nat) (e : Entry) : (b.setEntry slot idx e).out = b.out := rfl
@[simp] theorem Body.setEntry_regs (b : Body) (slot : Nat) (idx : Nat) (e : Entry) : (b.setEntry slot idx e).regs = b.regs := rfl
@[simp] theorem Body.setEntry_mem (b : Body) (slot : Nat) (idx : Nat) (e : Entry) : (b.setEntry slot idx e).mem = b.mem := rfl
@[simp] theorem Body.setEntry_bg (b : Body) (slot : Nat) (idx : Nat) (e : Entry) : (b.setEntry slot idx e).bg = b.bg := rfl
@[simp] theorem Body.setEntry_epoch (b : Body) (slot : Nat) (idx : Nat) (e : Entry) : (b.setEntry slot idx e).epoch = b.epoch := rfl
@[simp] theorem Body.setEntry_haze (b : Body) (slot : Nat) (idx : Nat) (e : Entry) : (b.setEntry slot idx e).haze = b.haze := rfl
@[simp] theorem Body.setEntry_framing (b : Body) (slot : Nat) (idx : Nat) (e : Entry) : (b.setEntry slot idx e).framing = b.framing := rfl
@[simp] theorem Body.setEntry_bw (b : Body) (slot : Nat) (idx : Nat) (e : Entry) : (b.setEntry slot idx e).bw = b.bw := rfl
@[simp] theorem Body.setEntry_hm (b : Body) (slot : Nat) (idx : Nat) (e : Entry) : (b.setEntry slot idx e).hm = b.hm := rfl
@[simp] theorem Body.setEntry_eth (b : Body) (slot : Nat) (idx : Nat) (e : Entry) : (b.setEntry slot idx e).eth = b.eth := rfl
@[simp] theorem Body.setEntry_ln (b : Body) (slot : Nat) (idx : Nat) (e : Entry) : (b.setEntry slot idx e).ln = b.ln := rfl
@[simp] theorem Body.setEntry_boot (b : Body) (slot : Nat) (idx : Nat) (e : Entry) : (b.setEntry slot idx e).boot = b.boot := rfl
@[simp] theorem Body.setEntry_unlock (b : Body) (slot : Nat) (idx : Nat) (e : Entry) : (b.setEntry slot idx e).unlock = b.unlock := rfl
@[simp] theorem Body.setEntry_power (b : Body) (slot : Nat) (idx : Nat) (e : Entry) : (b.setEntry slot idx e).power = b.power := rfl
@[simp] theorem Body.setEntry_tele (b : Body) (slot : Nat) (idx : Nat) (e : Entry) : (b.setEntry slot idx e).tele = b.tele := rfl
@[simp] theorem Body.setEntry_tiers (b : Body) (slot : Nat) (idx : Nat) (e : Entry) : (b.setEntry slot idx e).tiers = b.tiers := rfl
@[simp] theorem Body.setEntry_crates (b : Body) (slot : Nat) (idx : Nat) (e : Entry) : (b.setEntry slot idx e).crates = b.crates := rfl
@[simp] theorem Body.setEntry_rnd (b : Body) (slot : Nat) (idx : Nat) (e : Entry) : (b.setEntry slot idx e).rnd = b.rnd := rfl
@[simp] theorem Body.setEntry_berths (b : Body) (slot : Nat) (idx : Nat) (e : Entry) : (b.setEntry slot idx e).berths = b.berths := rfl
@[simp] theorem Body.setEntry_ops (b : Body) (slot : Nat) (idx : Nat) (e : Entry) : (b.setEntry slot idx e).ops = b.ops := rfl
@[simp] theorem Body.setEntry_jigs (b : Body) (slot : Nat) (idx : Nat) (e : Entry) : (b.setEntry slot idx e).jigs = b.jigs := rfl
@[simp] theorem Body.setEntry_ferry (b : Body) (slot : Nat) (idx : Nat) (e : Entry) : (b.setEntry slot idx e).ferry = b.ferry := rfl
@[simp] theorem Body.count_ts (b : Body) (slot : Nat) (i : Nat) (n : Nat) : (b.count slot i n).ts = b.ts := by
  unfold Body.count; (repeat' split) <;> simp
@[simp] theorem Body.count_freeCtr (b : Body) (slot : Nat) (i : Nat) (n : Nat) : (b.count slot i n).freeCtr = b.freeCtr := by
  unfold Body.count; (repeat' split) <;> simp
@[simp] theorem Body.count_out (b : Body) (slot : Nat) (i : Nat) (n : Nat) : (b.count slot i n).out = b.out := by
  unfold Body.count; (repeat' split) <;> simp
@[simp] theorem Body.count_mem (b : Body) (slot : Nat) (i : Nat) (n : Nat) : (b.count slot i n).mem = b.mem := by
  unfold Body.count; (repeat' split) <;> simp
@[simp] theorem Body.count_bg (b : Body) (slot : Nat) (i : Nat) (n : Nat) : (b.count slot i n).bg = b.bg := by
  unfold Body.count; (repeat' split) <;> simp
@[simp] theorem Body.count_epoch (b : Body) (slot : Nat) (i : Nat) (n : Nat) : (b.count slot i n).epoch = b.epoch := by
  unfold Body.count; (repeat' split) <;> simp
@[simp] theorem Body.count_haze (b : Body) (slot : Nat) (i : Nat) (n : Nat) : (b.count slot i n).haze = b.haze := by
  unfold Body.count; (repeat' split) <;> simp
@[simp] theorem Body.count_framing (b : Body) (slot : Nat) (i : Nat) (n : Nat) : (b.count slot i n).framing = b.framing := by
  unfold Body.count; (repeat' split) <;> simp
@[simp] theorem Body.count_bw (b : Body) (slot : Nat) (i : Nat) (n : Nat) : (b.count slot i n).bw = b.bw := by
  unfold Body.count; (repeat' split) <;> simp
@[simp] theorem Body.count_hm (b : Body) (slot : Nat) (i : Nat) (n : Nat) : (b.count slot i n).hm = b.hm := by
  unfold Body.count; (repeat' split) <;> simp
@[simp] theorem Body.count_st (b : Body) (slot : Nat) (i : Nat) (n : Nat) : (b.count slot i n).st = b.st := by
  unfold Body.count; (repeat' split) <;> simp
@[simp] theorem Body.count_eth (b : Body) (slot : Nat) (i : Nat) (n : Nat) : (b.count slot i n).eth = b.eth := by
  unfold Body.count; (repeat' split) <;> simp
@[simp] theorem Body.count_ln (b : Body) (slot : Nat) (i : Nat) (n : Nat) : (b.count slot i n).ln = b.ln := by
  unfold Body.count; (repeat' split) <;> simp
@[simp] theorem Body.count_boot (b : Body) (slot : Nat) (i : Nat) (n : Nat) : (b.count slot i n).boot = b.boot := by
  unfold Body.count; (repeat' split) <;> simp
@[simp] theorem Body.count_unlock (b : Body) (slot : Nat) (i : Nat) (n : Nat) : (b.count slot i n).unlock = b.unlock := by
  unfold Body.count; (repeat' split) <;> simp
@[simp] theorem Body.count_power (b : Body) (slot : Nat) (i : Nat) (n : Nat) : (b.count slot i n).power = b.power := by
  unfold Body.count; (repeat' split) <;> simp
@[simp] theorem Body.count_tele (b : Body) (slot : Nat) (i : Nat) (n : Nat) : (b.count slot i n).tele = b.tele := by
  unfold Body.count; (repeat' split) <;> simp
@[simp] theorem Body.count_tiers (b : Body) (slot : Nat) (i : Nat) (n : Nat) : (b.count slot i n).tiers = b.tiers := by
  unfold Body.count; (repeat' split) <;> simp
@[simp] theorem Body.count_crates (b : Body) (slot : Nat) (i : Nat) (n : Nat) : (b.count slot i n).crates = b.crates := by
  unfold Body.count; (repeat' split) <;> simp
@[simp] theorem Body.count_rnd (b : Body) (slot : Nat) (i : Nat) (n : Nat) : (b.count slot i n).rnd = b.rnd := by
  unfold Body.count; (repeat' split) <;> simp
@[simp] theorem Body.count_berths (b : Body) (slot : Nat) (i : Nat) (n : Nat) : (b.count slot i n).berths = b.berths := by
  unfold Body.count; (repeat' split) <;> simp
@[simp] theorem Body.count_ops (b : Body) (slot : Nat) (i : Nat) (n : Nat) : (b.count slot i n).ops = b.ops := by
  unfold Body.count; (repeat' split) <;> simp
@[simp] theorem Body.count_jigs (b : Body) (slot : Nat) (i : Nat) (n : Nat) : (b.count slot i n).jigs = b.jigs := by
  unfold Body.count; (repeat' split) <;> simp
@[simp] theorem Body.count_ferry (b : Body) (slot : Nat) (i : Nat) (n : Nat) : (b.count slot i n).ferry = b.ferry := by
  unfold Body.count; (repeat' split) <;> simp
@[simp] theorem Body.log_ts (b : Body) (kind : Nat) (unit : Nat) (code : Nat) (status : Nat) (ctx : Nat) (tag : Nat) (arg : Nat) : (b.log kind unit code status ctx tag arg).ts = b.ts := by
  unfold Body.log; (repeat' split) <;> simp
@[simp] theorem Body.log_freeCtr (b : Body) (kind : Nat) (unit : Nat) (code : Nat) (status : Nat) (ctx : Nat) (tag : Nat) (arg : Nat) : (b.log kind unit code status ctx tag arg).freeCtr = b.freeCtr := by
  unfold Body.log; (repeat' split) <;> simp
@[simp] theorem Body.log_out (b : Body) (kind : Nat) (unit : Nat) (code : Nat) (status : Nat) (ctx : Nat) (tag : Nat) (arg : Nat) : (b.log kind unit code status ctx tag arg).out = b.out := by
  unfold Body.log; (repeat' split) <;> simp
@[simp] theorem Body.log_regs (b : Body) (kind : Nat) (unit : Nat) (code : Nat) (status : Nat) (ctx : Nat) (tag : Nat) (arg : Nat) : (b.log kind unit code status ctx tag arg).regs = b.regs := by
  unfold Body.log; (repeat' split) <;> simp
@[simp] theorem Body.log_mem (b : Body) (kind : Nat) (unit : Nat) (code : Nat) (status : Nat) (ctx : Nat) (tag : Nat) (arg : Nat) : (b.log kind unit code status ctx tag arg).mem = b.mem := by
  unfold Body.log; (repeat' split) <;> simp
@[simp] theorem Body.log_bg (b : Body) (kind : Nat) (unit : Nat) (code : Nat) (status : Nat) (ctx : Nat) (tag : Nat) (arg : Nat) : (b.log kind unit code status ctx tag arg).bg = b.bg := by
  unfold Body.log; (repeat' split) <;> simp
@[simp] theorem Body.log_epoch (b : Body) (kind : Nat) (unit : Nat) (code : Nat) (status : Nat) (ctx : Nat) (tag : Nat) (arg : Nat) : (b.log kind unit code status ctx tag arg).epoch = b.epoch := by
  unfold Body.log; (repeat' split) <;> simp
@[simp] theorem Body.log_haze (b : Body) (kind : Nat) (unit : Nat) (code : Nat) (status : Nat) (ctx : Nat) (tag : Nat) (arg : Nat) : (b.log kind unit code status ctx tag arg).haze = b.haze := by
  unfold Body.log; (repeat' split) <;> simp
@[simp] theorem Body.log_framing (b : Body) (kind : Nat) (unit : Nat) (code : Nat) (status : Nat) (ctx : Nat) (tag : Nat) (arg : Nat) : (b.log kind unit code status ctx tag arg).framing = b.framing := by
  unfold Body.log; (repeat' split) <;> simp
@[simp] theorem Body.log_bw (b : Body) (kind : Nat) (unit : Nat) (code : Nat) (status : Nat) (ctx : Nat) (tag : Nat) (arg : Nat) : (b.log kind unit code status ctx tag arg).bw = b.bw := by
  unfold Body.log; (repeat' split) <;> simp
@[simp] theorem Body.log_hm (b : Body) (kind : Nat) (unit : Nat) (code : Nat) (status : Nat) (ctx : Nat) (tag : Nat) (arg : Nat) : (b.log kind unit code status ctx tag arg).hm = b.hm := by
  unfold Body.log; (repeat' split) <;> simp
@[simp] theorem Body.log_st (b : Body) (kind : Nat) (unit : Nat) (code : Nat) (status : Nat) (ctx : Nat) (tag : Nat) (arg : Nat) : (b.log kind unit code status ctx tag arg).st = b.st := by
  unfold Body.log; (repeat' split) <;> simp
@[simp] theorem Body.log_eth (b : Body) (kind : Nat) (unit : Nat) (code : Nat) (status : Nat) (ctx : Nat) (tag : Nat) (arg : Nat) : (b.log kind unit code status ctx tag arg).eth = b.eth := by
  unfold Body.log; (repeat' split) <;> simp
@[simp] theorem Body.log_ln (b : Body) (kind : Nat) (unit : Nat) (code : Nat) (status : Nat) (ctx : Nat) (tag : Nat) (arg : Nat) : (b.log kind unit code status ctx tag arg).ln = b.ln := by
  unfold Body.log; (repeat' split) <;> simp
@[simp] theorem Body.log_boot (b : Body) (kind : Nat) (unit : Nat) (code : Nat) (status : Nat) (ctx : Nat) (tag : Nat) (arg : Nat) : (b.log kind unit code status ctx tag arg).boot = b.boot := by
  unfold Body.log; (repeat' split) <;> simp
@[simp] theorem Body.log_unlock (b : Body) (kind : Nat) (unit : Nat) (code : Nat) (status : Nat) (ctx : Nat) (tag : Nat) (arg : Nat) : (b.log kind unit code status ctx tag arg).unlock = b.unlock := by
  unfold Body.log; (repeat' split) <;> simp
@[simp] theorem Body.log_power (b : Body) (kind : Nat) (unit : Nat) (code : Nat) (status : Nat) (ctx : Nat) (tag : Nat) (arg : Nat) : (b.log kind unit code status ctx tag arg).power = b.power := by
  unfold Body.log; (repeat' split) <;> simp
@[simp] theorem Body.log_tiers (b : Body) (kind : Nat) (unit : Nat) (code : Nat) (status : Nat) (ctx : Nat) (tag : Nat) (arg : Nat) : (b.log kind unit code status ctx tag arg).tiers = b.tiers := by
  unfold Body.log; (repeat' split) <;> simp
@[simp] theorem Body.log_crates (b : Body) (kind : Nat) (unit : Nat) (code : Nat) (status : Nat) (ctx : Nat) (tag : Nat) (arg : Nat) : (b.log kind unit code status ctx tag arg).crates = b.crates := by
  unfold Body.log; (repeat' split) <;> simp
@[simp] theorem Body.log_rnd (b : Body) (kind : Nat) (unit : Nat) (code : Nat) (status : Nat) (ctx : Nat) (tag : Nat) (arg : Nat) : (b.log kind unit code status ctx tag arg).rnd = b.rnd := by
  unfold Body.log; (repeat' split) <;> simp
@[simp] theorem Body.log_berths (b : Body) (kind : Nat) (unit : Nat) (code : Nat) (status : Nat) (ctx : Nat) (tag : Nat) (arg : Nat) : (b.log kind unit code status ctx tag arg).berths = b.berths := by
  unfold Body.log; (repeat' split) <;> simp
@[simp] theorem Body.log_ops (b : Body) (kind : Nat) (unit : Nat) (code : Nat) (status : Nat) (ctx : Nat) (tag : Nat) (arg : Nat) : (b.log kind unit code status ctx tag arg).ops = b.ops := by
  unfold Body.log; (repeat' split) <;> simp
@[simp] theorem Body.log_jigs (b : Body) (kind : Nat) (unit : Nat) (code : Nat) (status : Nat) (ctx : Nat) (tag : Nat) (arg : Nat) : (b.log kind unit code status ctx tag arg).jigs = b.jigs := by
  unfold Body.log; (repeat' split) <;> simp
@[simp] theorem Body.log_ferry (b : Body) (kind : Nat) (unit : Nat) (code : Nat) (status : Nat) (ctx : Nat) (tag : Nat) (arg : Nat) : (b.log kind unit code status ctx tag arg).ferry = b.ferry := by
  unfold Body.log; (repeat' split) <;> simp
@[simp] theorem Body.log_tele_fits (b : Body) (kind : Nat) (unit : Nat) (code : Nat) (status : Nat) (ctx : Nat) (tag : Nat) (arg : Nat) : (b.log kind unit code status ctx tag arg).tele.fits = b.tele.fits := by
  unfold Body.log; (repeat' split) <;> simp
@[simp] theorem Body.log_tele_push (b : Body) (kind : Nat) (unit : Nat) (code : Nat) (status : Nat) (ctx : Nat) (tag : Nat) (arg : Nat) : (b.log kind unit code status ctx tag arg).tele.push = b.tele.push := by
  unfold Body.log; (repeat' split) <;> simp
@[simp] theorem Body.log_tele_probe (b : Body) (kind : Nat) (unit : Nat) (code : Nat) (status : Nat) (ctx : Nat) (tag : Nat) (arg : Nat) : (b.log kind unit code status ctx tag arg).tele.probe = b.tele.probe := by
  unfold Body.log; (repeat' split) <;> simp
@[simp] theorem Body.log_tele_dbg (b : Body) (kind : Nat) (unit : Nat) (code : Nat) (status : Nat) (ctx : Nat) (tag : Nat) (arg : Nat) : (b.log kind unit code status ctx tag arg).tele.dbg = b.tele.dbg := by
  unfold Body.log; (repeat' split) <;> simp
@[simp] theorem Body.log_tele_errPend (b : Body) (kind : Nat) (unit : Nat) (code : Nat) (status : Nat) (ctx : Nat) (tag : Nat) (arg : Nat) : (b.log kind unit code status ctx tag arg).tele.errPend = b.tele.errPend := by
  unfold Body.log; (repeat' split) <;> simp
@[simp] theorem Body.log_tele_errMain (b : Body) (kind : Nat) (unit : Nat) (code : Nat) (status : Nat) (ctx : Nat) (tag : Nat) (arg : Nat) : (b.log kind unit code status ctx tag arg).tele.errMain = b.tele.errMain := by
  unfold Body.log; (repeat' split) <;> simp
@[simp] theorem Body.log_tele_errWatch (b : Body) (kind : Nat) (unit : Nat) (code : Nat) (status : Nat) (ctx : Nat) (tag : Nat) (arg : Nat) : (b.log kind unit code status ctx tag arg).tele.errWatch = b.tele.errWatch := by
  unfold Body.log; (repeat' split) <;> simp
@[simp] theorem Body.log_tele_watchSeq (b : Body) (kind : Nat) (unit : Nat) (code : Nat) (status : Nat) (ctx : Nat) (tag : Nat) (arg : Nat) : (b.log kind unit code status ctx tag arg).tele.watchSeq = b.tele.watchSeq := by
  unfold Body.log; (repeat' split) <;> simp
@[simp] theorem Body.freezeLogs_ts (b : Body) (cause : Nat) : (b.freezeLogs cause).ts = b.ts := by
  unfold Body.freezeLogs; (repeat' split) <;> simp
@[simp] theorem Body.freezeLogs_freeCtr (b : Body) (cause : Nat) : (b.freezeLogs cause).freeCtr = b.freeCtr := by
  unfold Body.freezeLogs; (repeat' split) <;> simp
@[simp] theorem Body.freezeLogs_out (b : Body) (cause : Nat) : (b.freezeLogs cause).out = b.out := by
  unfold Body.freezeLogs; (repeat' split) <;> simp
@[simp] theorem Body.freezeLogs_mem (b : Body) (cause : Nat) : (b.freezeLogs cause).mem = b.mem := by
  unfold Body.freezeLogs; (repeat' split) <;> simp
@[simp] theorem Body.freezeLogs_bg (b : Body) (cause : Nat) : (b.freezeLogs cause).bg = b.bg := by
  unfold Body.freezeLogs; (repeat' split) <;> simp
@[simp] theorem Body.freezeLogs_epoch (b : Body) (cause : Nat) : (b.freezeLogs cause).epoch = b.epoch := by
  unfold Body.freezeLogs; (repeat' split) <;> simp
@[simp] theorem Body.freezeLogs_haze (b : Body) (cause : Nat) : (b.freezeLogs cause).haze = b.haze := by
  unfold Body.freezeLogs; (repeat' split) <;> simp
@[simp] theorem Body.freezeLogs_framing (b : Body) (cause : Nat) : (b.freezeLogs cause).framing = b.framing := by
  unfold Body.freezeLogs; (repeat' split) <;> simp
@[simp] theorem Body.freezeLogs_bw (b : Body) (cause : Nat) : (b.freezeLogs cause).bw = b.bw := by
  unfold Body.freezeLogs; (repeat' split) <;> simp
@[simp] theorem Body.freezeLogs_hm (b : Body) (cause : Nat) : (b.freezeLogs cause).hm = b.hm := by
  unfold Body.freezeLogs; (repeat' split) <;> simp
@[simp] theorem Body.freezeLogs_st (b : Body) (cause : Nat) : (b.freezeLogs cause).st = b.st := by
  unfold Body.freezeLogs; (repeat' split) <;> simp
@[simp] theorem Body.freezeLogs_eth (b : Body) (cause : Nat) : (b.freezeLogs cause).eth = b.eth := by
  unfold Body.freezeLogs; (repeat' split) <;> simp
@[simp] theorem Body.freezeLogs_ln (b : Body) (cause : Nat) : (b.freezeLogs cause).ln = b.ln := by
  unfold Body.freezeLogs; (repeat' split) <;> simp
@[simp] theorem Body.freezeLogs_boot (b : Body) (cause : Nat) : (b.freezeLogs cause).boot = b.boot := by
  unfold Body.freezeLogs; (repeat' split) <;> simp
@[simp] theorem Body.freezeLogs_unlock (b : Body) (cause : Nat) : (b.freezeLogs cause).unlock = b.unlock := by
  unfold Body.freezeLogs; (repeat' split) <;> simp
@[simp] theorem Body.freezeLogs_power (b : Body) (cause : Nat) : (b.freezeLogs cause).power = b.power := by
  unfold Body.freezeLogs; (repeat' split) <;> simp
@[simp] theorem Body.freezeLogs_tele (b : Body) (cause : Nat) : (b.freezeLogs cause).tele = b.tele := by
  unfold Body.freezeLogs; (repeat' split) <;> simp
@[simp] theorem Body.freezeLogs_tiers (b : Body) (cause : Nat) : (b.freezeLogs cause).tiers = b.tiers := by
  unfold Body.freezeLogs; (repeat' split) <;> simp
@[simp] theorem Body.freezeLogs_crates (b : Body) (cause : Nat) : (b.freezeLogs cause).crates = b.crates := by
  unfold Body.freezeLogs; (repeat' split) <;> simp
@[simp] theorem Body.freezeLogs_rnd (b : Body) (cause : Nat) : (b.freezeLogs cause).rnd = b.rnd := by
  unfold Body.freezeLogs; (repeat' split) <;> simp
@[simp] theorem Body.freezeLogs_berths (b : Body) (cause : Nat) : (b.freezeLogs cause).berths = b.berths := by
  unfold Body.freezeLogs; (repeat' split) <;> simp
@[simp] theorem Body.freezeLogs_ops (b : Body) (cause : Nat) : (b.freezeLogs cause).ops = b.ops := by
  unfold Body.freezeLogs; (repeat' split) <;> simp
@[simp] theorem Body.freezeLogs_jigs (b : Body) (cause : Nat) : (b.freezeLogs cause).jigs = b.jigs := by
  unfold Body.freezeLogs; (repeat' split) <;> simp
@[simp] theorem Body.freezeLogs_ferry (b : Body) (cause : Nat) : (b.freezeLogs cause).ferry = b.ferry := by
  unfold Body.freezeLogs; (repeat' split) <;> simp
@[simp] theorem Body.errToWatch_ts (b : Body) (r : ErrRec) : (b.errToWatch r).ts = b.ts := by
  unfold Body.errToWatch; (repeat' split) <;> simp
@[simp] theorem Body.errToWatch_freeCtr (b : Body) (r : ErrRec) : (b.errToWatch r).freeCtr = b.freeCtr := by
  unfold Body.errToWatch; (repeat' split) <;> simp
@[simp] theorem Body.errToWatch_out (b : Body) (r : ErrRec) : (b.errToWatch r).out = b.out := by
  unfold Body.errToWatch; (repeat' split) <;> simp
@[simp] theorem Body.errToWatch_mem (b : Body) (r : ErrRec) : (b.errToWatch r).mem = b.mem := by
  unfold Body.errToWatch; (repeat' split) <;> simp
@[simp] theorem Body.errToWatch_bg (b : Body) (r : ErrRec) : (b.errToWatch r).bg = b.bg := by
  unfold Body.errToWatch; (repeat' split) <;> simp
@[simp] theorem Body.errToWatch_epoch (b : Body) (r : ErrRec) : (b.errToWatch r).epoch = b.epoch := by
  unfold Body.errToWatch; (repeat' split) <;> simp
@[simp] theorem Body.errToWatch_haze (b : Body) (r : ErrRec) : (b.errToWatch r).haze = b.haze := by
  unfold Body.errToWatch; (repeat' split) <;> simp
@[simp] theorem Body.errToWatch_framing (b : Body) (r : ErrRec) : (b.errToWatch r).framing = b.framing := by
  unfold Body.errToWatch; (repeat' split) <;> simp
@[simp] theorem Body.errToWatch_bw (b : Body) (r : ErrRec) : (b.errToWatch r).bw = b.bw := by
  unfold Body.errToWatch; (repeat' split) <;> simp
@[simp] theorem Body.errToWatch_hm (b : Body) (r : ErrRec) : (b.errToWatch r).hm = b.hm := by
  unfold Body.errToWatch; (repeat' split) <;> simp
@[simp] theorem Body.errToWatch_st (b : Body) (r : ErrRec) : (b.errToWatch r).st = b.st := by
  unfold Body.errToWatch; (repeat' split) <;> simp
@[simp] theorem Body.errToWatch_eth (b : Body) (r : ErrRec) : (b.errToWatch r).eth = b.eth := by
  unfold Body.errToWatch; (repeat' split) <;> simp
@[simp] theorem Body.errToWatch_ln (b : Body) (r : ErrRec) : (b.errToWatch r).ln = b.ln := by
  unfold Body.errToWatch; (repeat' split) <;> simp
@[simp] theorem Body.errToWatch_boot (b : Body) (r : ErrRec) : (b.errToWatch r).boot = b.boot := by
  unfold Body.errToWatch; (repeat' split) <;> simp
@[simp] theorem Body.errToWatch_unlock (b : Body) (r : ErrRec) : (b.errToWatch r).unlock = b.unlock := by
  unfold Body.errToWatch; (repeat' split) <;> simp
@[simp] theorem Body.errToWatch_power (b : Body) (r : ErrRec) : (b.errToWatch r).power = b.power := by
  unfold Body.errToWatch; (repeat' split) <;> simp
@[simp] theorem Body.errToWatch_tiers (b : Body) (r : ErrRec) : (b.errToWatch r).tiers = b.tiers := by
  unfold Body.errToWatch; (repeat' split) <;> simp
@[simp] theorem Body.errToWatch_crates (b : Body) (r : ErrRec) : (b.errToWatch r).crates = b.crates := by
  unfold Body.errToWatch; (repeat' split) <;> simp
@[simp] theorem Body.errToWatch_rnd (b : Body) (r : ErrRec) : (b.errToWatch r).rnd = b.rnd := by
  unfold Body.errToWatch; (repeat' split) <;> simp
@[simp] theorem Body.errToWatch_berths (b : Body) (r : ErrRec) : (b.errToWatch r).berths = b.berths := by
  unfold Body.errToWatch; (repeat' split) <;> simp
@[simp] theorem Body.errToWatch_ops (b : Body) (r : ErrRec) : (b.errToWatch r).ops = b.ops := by
  unfold Body.errToWatch; (repeat' split) <;> simp
@[simp] theorem Body.errToWatch_jigs (b : Body) (r : ErrRec) : (b.errToWatch r).jigs = b.jigs := by
  unfold Body.errToWatch; (repeat' split) <;> simp
@[simp] theorem Body.errToWatch_ferry (b : Body) (r : ErrRec) : (b.errToWatch r).ferry = b.ferry := by
  unfold Body.errToWatch; (repeat' split) <;> simp
@[simp] theorem Body.errToWatch_tele_fits (b : Body) (r : ErrRec) : (b.errToWatch r).tele.fits = b.tele.fits := by
  unfold Body.errToWatch; (repeat' split) <;> simp
@[simp] theorem Body.errToWatch_tele_push (b : Body) (r : ErrRec) : (b.errToWatch r).tele.push = b.tele.push := by
  unfold Body.errToWatch; (repeat' split) <;> simp
@[simp] theorem Body.errToWatch_tele_probe (b : Body) (r : ErrRec) : (b.errToWatch r).tele.probe = b.tele.probe := by
  unfold Body.errToWatch; (repeat' split) <;> simp
@[simp] theorem Body.errToWatch_tele_dbg (b : Body) (r : ErrRec) : (b.errToWatch r).tele.dbg = b.tele.dbg := by
  unfold Body.errToWatch; (repeat' split) <;> simp
@[simp] theorem Body.errToWatch_tele_errPend (b : Body) (r : ErrRec) : (b.errToWatch r).tele.errPend = b.tele.errPend := by
  unfold Body.errToWatch; (repeat' split) <;> simp
@[simp] theorem Body.errToWatch_tele_errMain (b : Body) (r : ErrRec) : (b.errToWatch r).tele.errMain = b.tele.errMain := by
  unfold Body.errToWatch; (repeat' split) <;> simp
@[simp] theorem Body.errToWatch_tele_logs (b : Body) (r : ErrRec) : (b.errToWatch r).tele.logs = b.tele.logs := by
  unfold Body.errToWatch; (repeat' split) <;> simp
@[simp] theorem Body.raise_ts (b : Body) (r : ErrRec) : (b.raise r).ts = b.ts := by
  unfold Body.raise; split <;> simp only [] <;> split <;> simp
@[simp] theorem Body.raise_freeCtr (b : Body) (r : ErrRec) : (b.raise r).freeCtr = b.freeCtr := by
  unfold Body.raise; split <;> simp only [] <;> split <;> simp
@[simp] theorem Body.raise_out (b : Body) (r : ErrRec) : (b.raise r).out = b.out := by
  unfold Body.raise; split <;> simp only [] <;> split <;> simp
@[simp] theorem Body.raise_mem (b : Body) (r : ErrRec) : (b.raise r).mem = b.mem := by
  unfold Body.raise; split <;> simp only [] <;> split <;> simp
@[simp] theorem Body.raise_bg (b : Body) (r : ErrRec) : (b.raise r).bg = b.bg := by
  unfold Body.raise; split <;> simp only [] <;> split <;> simp
@[simp] theorem Body.raise_epoch (b : Body) (r : ErrRec) : (b.raise r).epoch = b.epoch := by
  unfold Body.raise; split <;> simp only [] <;> split <;> simp
@[simp] theorem Body.raise_haze (b : Body) (r : ErrRec) : (b.raise r).haze = b.haze := by
  unfold Body.raise; split <;> simp only [] <;> split <;> simp
@[simp] theorem Body.raise_framing (b : Body) (r : ErrRec) : (b.raise r).framing = b.framing := by
  unfold Body.raise; split <;> simp only [] <;> split <;> simp
@[simp] theorem Body.raise_bw (b : Body) (r : ErrRec) : (b.raise r).bw = b.bw := by
  unfold Body.raise; split <;> simp only [] <;> split <;> simp
@[simp] theorem Body.raise_hm (b : Body) (r : ErrRec) : (b.raise r).hm = b.hm := by
  unfold Body.raise; split <;> simp only [] <;> split <;> simp
@[simp] theorem Body.raise_st (b : Body) (r : ErrRec) : (b.raise r).st = b.st := by
  unfold Body.raise; split <;> simp only [] <;> split <;> simp
@[simp] theorem Body.raise_eth (b : Body) (r : ErrRec) : (b.raise r).eth = b.eth := by
  unfold Body.raise; split <;> simp only [] <;> split <;> simp
@[simp] theorem Body.raise_ln (b : Body) (r : ErrRec) : (b.raise r).ln = b.ln := by
  unfold Body.raise; split <;> simp only [] <;> split <;> simp
@[simp] theorem Body.raise_boot (b : Body) (r : ErrRec) : (b.raise r).boot = b.boot := by
  unfold Body.raise; split <;> simp only [] <;> split <;> simp
@[simp] theorem Body.raise_unlock (b : Body) (r : ErrRec) : (b.raise r).unlock = b.unlock := by
  unfold Body.raise; split <;> simp only [] <;> split <;> simp
@[simp] theorem Body.raise_power (b : Body) (r : ErrRec) : (b.raise r).power = b.power := by
  unfold Body.raise; split <;> simp only [] <;> split <;> simp
@[simp] theorem Body.raise_tiers (b : Body) (r : ErrRec) : (b.raise r).tiers = b.tiers := by
  unfold Body.raise; split <;> simp only [] <;> split <;> simp
@[simp] theorem Body.raise_crates (b : Body) (r : ErrRec) : (b.raise r).crates = b.crates := by
  unfold Body.raise; split <;> simp only [] <;> split <;> simp
@[simp] theorem Body.raise_rnd (b : Body) (r : ErrRec) : (b.raise r).rnd = b.rnd := by
  unfold Body.raise; split <;> simp only [] <;> split <;> simp
@[simp] theorem Body.raise_berths (b : Body) (r : ErrRec) : (b.raise r).berths = b.berths := by
  unfold Body.raise; split <;> simp only [] <;> split <;> simp
@[simp] theorem Body.raise_ops (b : Body) (r : ErrRec) : (b.raise r).ops = b.ops := by
  unfold Body.raise; split <;> simp only [] <;> split <;> simp
@[simp] theorem Body.raise_jigs (b : Body) (r : ErrRec) : (b.raise r).jigs = b.jigs := by
  unfold Body.raise; split <;> simp only [] <;> split <;> simp
@[simp] theorem Body.raise_ferry (b : Body) (r : ErrRec) : (b.raise r).ferry = b.ferry := by
  unfold Body.raise; split <;> simp only [] <;> split <;> simp
@[simp] theorem Body.raise_tele_fits (b : Body) (r : ErrRec) : (b.raise r).tele.fits = b.tele.fits := by
  unfold Body.raise; split <;> simp only [] <;> split <;> simp
@[simp] theorem Body.raise_tele_push (b : Body) (r : ErrRec) : (b.raise r).tele.push = b.tele.push := by
  unfold Body.raise; split <;> simp only [] <;> split <;> simp
@[simp] theorem Body.raise_tele_probe (b : Body) (r : ErrRec) : (b.raise r).tele.probe = b.tele.probe := by
  unfold Body.raise; split <;> simp only [] <;> split <;> simp
@[simp] theorem Body.raise_tele_dbg (b : Body) (r : ErrRec) : (b.raise r).tele.dbg = b.tele.dbg := by
  unfold Body.raise; split <;> simp only [] <;> split <;> simp
@[simp] theorem Body.raise_tele_errMain (b : Body) (r : ErrRec) : (b.raise r).tele.errMain = b.tele.errMain := by
  unfold Body.raise; split <;> simp only [] <;> split <;> simp
@[simp] theorem Body.err_ts (b : Body) (code : Nat) (sev : Nat) (kind : Nat) (unit : Nat) (d : List Nat) (status : Nat) (ctx : Nat) : (b.err code sev kind unit d status ctx).ts = b.ts := by simp [Body.err]
@[simp] theorem Body.err_freeCtr (b : Body) (code : Nat) (sev : Nat) (kind : Nat) (unit : Nat) (d : List Nat) (status : Nat) (ctx : Nat) : (b.err code sev kind unit d status ctx).freeCtr = b.freeCtr := by simp [Body.err]
@[simp] theorem Body.err_out (b : Body) (code : Nat) (sev : Nat) (kind : Nat) (unit : Nat) (d : List Nat) (status : Nat) (ctx : Nat) : (b.err code sev kind unit d status ctx).out = b.out := by simp [Body.err]
@[simp] theorem Body.err_mem (b : Body) (code : Nat) (sev : Nat) (kind : Nat) (unit : Nat) (d : List Nat) (status : Nat) (ctx : Nat) : (b.err code sev kind unit d status ctx).mem = b.mem := by simp [Body.err]
@[simp] theorem Body.err_bg (b : Body) (code : Nat) (sev : Nat) (kind : Nat) (unit : Nat) (d : List Nat) (status : Nat) (ctx : Nat) : (b.err code sev kind unit d status ctx).bg = b.bg := by simp [Body.err]
@[simp] theorem Body.err_epoch (b : Body) (code : Nat) (sev : Nat) (kind : Nat) (unit : Nat) (d : List Nat) (status : Nat) (ctx : Nat) : (b.err code sev kind unit d status ctx).epoch = b.epoch := by simp [Body.err]
@[simp] theorem Body.err_haze (b : Body) (code : Nat) (sev : Nat) (kind : Nat) (unit : Nat) (d : List Nat) (status : Nat) (ctx : Nat) : (b.err code sev kind unit d status ctx).haze = b.haze := by simp [Body.err]
@[simp] theorem Body.err_framing (b : Body) (code : Nat) (sev : Nat) (kind : Nat) (unit : Nat) (d : List Nat) (status : Nat) (ctx : Nat) : (b.err code sev kind unit d status ctx).framing = b.framing := by simp [Body.err]
@[simp] theorem Body.err_bw (b : Body) (code : Nat) (sev : Nat) (kind : Nat) (unit : Nat) (d : List Nat) (status : Nat) (ctx : Nat) : (b.err code sev kind unit d status ctx).bw = b.bw := by simp [Body.err]
@[simp] theorem Body.err_hm (b : Body) (code : Nat) (sev : Nat) (kind : Nat) (unit : Nat) (d : List Nat) (status : Nat) (ctx : Nat) : (b.err code sev kind unit d status ctx).hm = b.hm := by simp [Body.err]
@[simp] theorem Body.err_st (b : Body) (code : Nat) (sev : Nat) (kind : Nat) (unit : Nat) (d : List Nat) (status : Nat) (ctx : Nat) : (b.err code sev kind unit d status ctx).st = b.st := by simp [Body.err]
@[simp] theorem Body.err_eth (b : Body) (code : Nat) (sev : Nat) (kind : Nat) (unit : Nat) (d : List Nat) (status : Nat) (ctx : Nat) : (b.err code sev kind unit d status ctx).eth = b.eth := by simp [Body.err]
@[simp] theorem Body.err_ln (b : Body) (code : Nat) (sev : Nat) (kind : Nat) (unit : Nat) (d : List Nat) (status : Nat) (ctx : Nat) : (b.err code sev kind unit d status ctx).ln = b.ln := by simp [Body.err]
@[simp] theorem Body.err_boot (b : Body) (code : Nat) (sev : Nat) (kind : Nat) (unit : Nat) (d : List Nat) (status : Nat) (ctx : Nat) : (b.err code sev kind unit d status ctx).boot = b.boot := by simp [Body.err]
@[simp] theorem Body.err_unlock (b : Body) (code : Nat) (sev : Nat) (kind : Nat) (unit : Nat) (d : List Nat) (status : Nat) (ctx : Nat) : (b.err code sev kind unit d status ctx).unlock = b.unlock := by simp [Body.err]
@[simp] theorem Body.err_power (b : Body) (code : Nat) (sev : Nat) (kind : Nat) (unit : Nat) (d : List Nat) (status : Nat) (ctx : Nat) : (b.err code sev kind unit d status ctx).power = b.power := by simp [Body.err]
@[simp] theorem Body.err_tiers (b : Body) (code : Nat) (sev : Nat) (kind : Nat) (unit : Nat) (d : List Nat) (status : Nat) (ctx : Nat) : (b.err code sev kind unit d status ctx).tiers = b.tiers := by simp [Body.err]
@[simp] theorem Body.err_crates (b : Body) (code : Nat) (sev : Nat) (kind : Nat) (unit : Nat) (d : List Nat) (status : Nat) (ctx : Nat) : (b.err code sev kind unit d status ctx).crates = b.crates := by simp [Body.err]
@[simp] theorem Body.err_rnd (b : Body) (code : Nat) (sev : Nat) (kind : Nat) (unit : Nat) (d : List Nat) (status : Nat) (ctx : Nat) : (b.err code sev kind unit d status ctx).rnd = b.rnd := by simp [Body.err]
@[simp] theorem Body.err_berths (b : Body) (code : Nat) (sev : Nat) (kind : Nat) (unit : Nat) (d : List Nat) (status : Nat) (ctx : Nat) : (b.err code sev kind unit d status ctx).berths = b.berths := by simp [Body.err]
@[simp] theorem Body.err_ops (b : Body) (code : Nat) (sev : Nat) (kind : Nat) (unit : Nat) (d : List Nat) (status : Nat) (ctx : Nat) : (b.err code sev kind unit d status ctx).ops = b.ops := by simp [Body.err]
@[simp] theorem Body.err_jigs (b : Body) (code : Nat) (sev : Nat) (kind : Nat) (unit : Nat) (d : List Nat) (status : Nat) (ctx : Nat) : (b.err code sev kind unit d status ctx).jigs = b.jigs := by simp [Body.err]
@[simp] theorem Body.err_ferry (b : Body) (code : Nat) (sev : Nat) (kind : Nat) (unit : Nat) (d : List Nat) (status : Nat) (ctx : Nat) : (b.err code sev kind unit d status ctx).ferry = b.ferry := by simp [Body.err]
@[simp] theorem Body.err_tele_fits (b : Body) (code : Nat) (sev : Nat) (kind : Nat) (unit : Nat) (d : List Nat) (status : Nat) (ctx : Nat) : (b.err code sev kind unit d status ctx).tele.fits = b.tele.fits := by simp [Body.err]
@[simp] theorem Body.err_tele_push (b : Body) (code : Nat) (sev : Nat) (kind : Nat) (unit : Nat) (d : List Nat) (status : Nat) (ctx : Nat) : (b.err code sev kind unit d status ctx).tele.push = b.tele.push := by simp [Body.err]
@[simp] theorem Body.err_tele_probe (b : Body) (code : Nat) (sev : Nat) (kind : Nat) (unit : Nat) (d : List Nat) (status : Nat) (ctx : Nat) : (b.err code sev kind unit d status ctx).tele.probe = b.tele.probe := by simp [Body.err]
@[simp] theorem Body.err_tele_dbg (b : Body) (code : Nat) (sev : Nat) (kind : Nat) (unit : Nat) (d : List Nat) (status : Nat) (ctx : Nat) : (b.err code sev kind unit d status ctx).tele.dbg = b.tele.dbg := by simp [Body.err]
@[simp] theorem Body.err_tele_errMain (b : Body) (code : Nat) (sev : Nat) (kind : Nat) (unit : Nat) (d : List Nat) (status : Nat) (ctx : Nat) : (b.err code sev kind unit d status ctx).tele.errMain = b.tele.errMain := by simp [Body.err]
@[simp] theorem Body.clamps_ts (b : Body) (n : Nat) (opc : Nat) (ctx : Nat) : (b.clamps n opc ctx).ts = b.ts := by
  unfold Body.clamps; (repeat' split) <;> simp
@[simp] theorem Body.clamps_freeCtr (b : Body) (n : Nat) (opc : Nat) (ctx : Nat) : (b.clamps n opc ctx).freeCtr = b.freeCtr := by
  unfold Body.clamps; (repeat' split) <;> simp
@[simp] theorem Body.clamps_out (b : Body) (n : Nat) (opc : Nat) (ctx : Nat) : (b.clamps n opc ctx).out = b.out := by
  unfold Body.clamps; (repeat' split) <;> simp
@[simp] theorem Body.clamps_mem (b : Body) (n : Nat) (opc : Nat) (ctx : Nat) : (b.clamps n opc ctx).mem = b.mem := by
  unfold Body.clamps; (repeat' split) <;> simp
@[simp] theorem Body.clamps_bg (b : Body) (n : Nat) (opc : Nat) (ctx : Nat) : (b.clamps n opc ctx).bg = b.bg := by
  unfold Body.clamps; (repeat' split) <;> simp
@[simp] theorem Body.clamps_epoch (b : Body) (n : Nat) (opc : Nat) (ctx : Nat) : (b.clamps n opc ctx).epoch = b.epoch := by
  unfold Body.clamps; (repeat' split) <;> simp
@[simp] theorem Body.clamps_haze (b : Body) (n : Nat) (opc : Nat) (ctx : Nat) : (b.clamps n opc ctx).haze = b.haze := by
  unfold Body.clamps; (repeat' split) <;> simp
@[simp] theorem Body.clamps_framing (b : Body) (n : Nat) (opc : Nat) (ctx : Nat) : (b.clamps n opc ctx).framing = b.framing := by
  unfold Body.clamps; (repeat' split) <;> simp
@[simp] theorem Body.clamps_bw (b : Body) (n : Nat) (opc : Nat) (ctx : Nat) : (b.clamps n opc ctx).bw = b.bw := by
  unfold Body.clamps; (repeat' split) <;> simp
@[simp] theorem Body.clamps_hm (b : Body) (n : Nat) (opc : Nat) (ctx : Nat) : (b.clamps n opc ctx).hm = b.hm := by
  unfold Body.clamps; (repeat' split) <;> simp
@[simp] theorem Body.clamps_st (b : Body) (n : Nat) (opc : Nat) (ctx : Nat) : (b.clamps n opc ctx).st = b.st := by
  unfold Body.clamps; (repeat' split) <;> simp
@[simp] theorem Body.clamps_eth (b : Body) (n : Nat) (opc : Nat) (ctx : Nat) : (b.clamps n opc ctx).eth = b.eth := by
  unfold Body.clamps; (repeat' split) <;> simp
@[simp] theorem Body.clamps_ln (b : Body) (n : Nat) (opc : Nat) (ctx : Nat) : (b.clamps n opc ctx).ln = b.ln := by
  unfold Body.clamps; (repeat' split) <;> simp
@[simp] theorem Body.clamps_boot (b : Body) (n : Nat) (opc : Nat) (ctx : Nat) : (b.clamps n opc ctx).boot = b.boot := by
  unfold Body.clamps; (repeat' split) <;> simp
@[simp] theorem Body.clamps_unlock (b : Body) (n : Nat) (opc : Nat) (ctx : Nat) : (b.clamps n opc ctx).unlock = b.unlock := by
  unfold Body.clamps; (repeat' split) <;> simp
@[simp] theorem Body.clamps_power (b : Body) (n : Nat) (opc : Nat) (ctx : Nat) : (b.clamps n opc ctx).power = b.power := by
  unfold Body.clamps; (repeat' split) <;> simp
@[simp] theorem Body.clamps_tele (b : Body) (n : Nat) (opc : Nat) (ctx : Nat) : (b.clamps n opc ctx).tele = b.tele := by
  unfold Body.clamps; (repeat' split) <;> simp
@[simp] theorem Body.clamps_tiers (b : Body) (n : Nat) (opc : Nat) (ctx : Nat) : (b.clamps n opc ctx).tiers = b.tiers := by
  unfold Body.clamps; (repeat' split) <;> simp
@[simp] theorem Body.clamps_crates (b : Body) (n : Nat) (opc : Nat) (ctx : Nat) : (b.clamps n opc ctx).crates = b.crates := by
  unfold Body.clamps; (repeat' split) <;> simp
@[simp] theorem Body.clamps_rnd (b : Body) (n : Nat) (opc : Nat) (ctx : Nat) : (b.clamps n opc ctx).rnd = b.rnd := by
  unfold Body.clamps; (repeat' split) <;> simp
@[simp] theorem Body.clamps_berths (b : Body) (n : Nat) (opc : Nat) (ctx : Nat) : (b.clamps n opc ctx).berths = b.berths := by
  unfold Body.clamps; (repeat' split) <;> simp
@[simp] theorem Body.clamps_ops (b : Body) (n : Nat) (opc : Nat) (ctx : Nat) : (b.clamps n opc ctx).ops = b.ops := by
  unfold Body.clamps; (repeat' split) <;> simp
@[simp] theorem Body.clamps_jigs (b : Body) (n : Nat) (opc : Nat) (ctx : Nat) : (b.clamps n opc ctx).jigs = b.jigs := by
  unfold Body.clamps; (repeat' split) <;> simp
@[simp] theorem Body.clamps_ferry (b : Body) (n : Nat) (opc : Nat) (ctx : Nat) : (b.clamps n opc ctx).ferry = b.ferry := by
  unfold Body.clamps; (repeat' split) <;> simp
@[simp] theorem Body.syncShadow_ts (b : Body) (slot : Nat) : (b.syncShadow slot).ts = b.ts := Body.syncShadow_keep (fun b : Body => b.ts) (fun _ _ _ => by simp) b slot
@[simp] theorem Body.syncShadow_freeCtr (b : Body) (slot : Nat) : (b.syncShadow slot).freeCtr = b.freeCtr := Body.syncShadow_keep (fun b : Body => b.freeCtr) (fun _ _ _ => by simp) b slot
@[simp] theorem Body.syncShadow_out (b : Body) (slot : Nat) : (b.syncShadow slot).out = b.out := Body.syncShadow_keep (fun b : Body => b.out) (fun _ _ _ => by simp) b slot
@[simp] theorem Body.syncShadow_mem (b : Body) (slot : Nat) : (b.syncShadow slot).mem = b.mem := Body.syncShadow_keep (fun b : Body => b.mem) (fun _ _ _ => by simp) b slot
@[simp] theorem Body.syncShadow_bg (b : Body) (slot : Nat) : (b.syncShadow slot).bg = b.bg := Body.syncShadow_keep (fun b : Body => b.bg) (fun _ _ _ => by simp) b slot
@[simp] theorem Body.syncShadow_epoch (b : Body) (slot : Nat) : (b.syncShadow slot).epoch = b.epoch := Body.syncShadow_keep (fun b : Body => b.epoch) (fun _ _ _ => by simp) b slot
@[simp] theorem Body.syncShadow_haze (b : Body) (slot : Nat) : (b.syncShadow slot).haze = b.haze := Body.syncShadow_keep (fun b : Body => b.haze) (fun _ _ _ => by simp) b slot
@[simp] theorem Body.syncShadow_framing (b : Body) (slot : Nat) : (b.syncShadow slot).framing = b.framing := Body.syncShadow_keep (fun b : Body => b.framing) (fun _ _ _ => by simp) b slot
@[simp] theorem Body.syncShadow_bw (b : Body) (slot : Nat) : (b.syncShadow slot).bw = b.bw := Body.syncShadow_keep (fun b : Body => b.bw) (fun _ _ _ => by simp) b slot
@[simp] theorem Body.syncShadow_hm (b : Body) (slot : Nat) : (b.syncShadow slot).hm = b.hm := Body.syncShadow_keep (fun b : Body => b.hm) (fun _ _ _ => by simp) b slot
@[simp] theorem Body.syncShadow_st (b : Body) (slot : Nat) : (b.syncShadow slot).st = b.st := Body.syncShadow_keep (fun b : Body => b.st) (fun _ _ _ => by simp) b slot
@[simp] theorem Body.syncShadow_eth (b : Body) (slot : Nat) : (b.syncShadow slot).eth = b.eth := Body.syncShadow_keep (fun b : Body => b.eth) (fun _ _ _ => by simp) b slot
@[simp] theorem Body.syncShadow_ln (b : Body) (slot : Nat) : (b.syncShadow slot).ln = b.ln := Body.syncShadow_keep (fun b : Body => b.ln) (fun _ _ _ => by simp) b slot
@[simp] theorem Body.syncShadow_boot (b : Body) (slot : Nat) : (b.syncShadow slot).boot = b.boot := Body.syncShadow_keep (fun b : Body => b.boot) (fun _ _ _ => by simp) b slot
@[simp] theorem Body.syncShadow_unlock (b : Body) (slot : Nat) : (b.syncShadow slot).unlock = b.unlock := Body.syncShadow_keep (fun b : Body => b.unlock) (fun _ _ _ => by simp) b slot
@[simp] theorem Body.syncShadow_power (b : Body) (slot : Nat) : (b.syncShadow slot).power = b.power := Body.syncShadow_keep (fun b : Body => b.power) (fun _ _ _ => by simp) b slot
@[simp] theorem Body.syncShadow_tele (b : Body) (slot : Nat) : (b.syncShadow slot).tele = b.tele := Body.syncShadow_keep (fun b : Body => b.tele) (fun _ _ _ => by simp) b slot
@[simp] theorem Body.syncShadow_tiers (b : Body) (slot : Nat) : (b.syncShadow slot).tiers = b.tiers := Body.syncShadow_keep (fun b : Body => b.tiers) (fun _ _ _ => by simp) b slot
@[simp] theorem Body.syncShadow_crates (b : Body) (slot : Nat) : (b.syncShadow slot).crates = b.crates := Body.syncShadow_keep (fun b : Body => b.crates) (fun _ _ _ => by simp) b slot
@[simp] theorem Body.syncShadow_rnd (b : Body) (slot : Nat) : (b.syncShadow slot).rnd = b.rnd := Body.syncShadow_keep (fun b : Body => b.rnd) (fun _ _ _ => by simp) b slot
@[simp] theorem Body.syncShadow_berths (b : Body) (slot : Nat) : (b.syncShadow slot).berths = b.berths := Body.syncShadow_keep (fun b : Body => b.berths) (fun _ _ _ => by simp) b slot
@[simp] theorem Body.syncShadow_ops (b : Body) (slot : Nat) : (b.syncShadow slot).ops = b.ops := Body.syncShadow_keep (fun b : Body => b.ops) (fun _ _ _ => by simp) b slot
@[simp] theorem Body.syncShadow_jigs (b : Body) (slot : Nat) : (b.syncShadow slot).jigs = b.jigs := Body.syncShadow_keep (fun b : Body => b.jigs) (fun _ _ _ => by simp) b slot
@[simp] theorem Body.syncShadow_ferry (b : Body) (slot : Nat) : (b.syncShadow slot).ferry = b.ferry := Body.syncShadow_keep (fun b : Body => b.ferry) (fun _ _ _ => by simp) b slot
@[simp] theorem Body.dbgEnd_ts (b : Body) (uid : Nat) (outcome : Nat) (status : Nat) : (b.dbgEnd uid outcome status).ts = b.ts := rfl
@[simp] theorem Body.dbgEnd_freeCtr (b : Body) (uid : Nat) (outcome : Nat) (status : Nat) : (b.dbgEnd uid outcome status).freeCtr = b.freeCtr := rfl
@[simp] theorem Body.dbgEnd_out (b : Body) (uid : Nat) (outcome : Nat) (status : Nat) : (b.dbgEnd uid outcome status).out = b.out := rfl
@[simp] theorem Body.dbgEnd_regs (b : Body) (uid : Nat) (outcome : Nat) (status : Nat) : (b.dbgEnd uid outcome status).regs = b.regs := rfl
@[simp] theorem Body.dbgEnd_mem (b : Body) (uid : Nat) (outcome : Nat) (status : Nat) : (b.dbgEnd uid outcome status).mem = b.mem := rfl
@[simp] theorem Body.dbgEnd_bg (b : Body) (uid : Nat) (outcome : Nat) (status : Nat) : (b.dbgEnd uid outcome status).bg = b.bg := rfl
@[simp] theorem Body.dbgEnd_epoch (b : Body) (uid : Nat) (outcome : Nat) (status : Nat) : (b.dbgEnd uid outcome status).epoch = b.epoch := rfl
@[simp] theorem Body.dbgEnd_haze (b : Body) (uid : Nat) (outcome : Nat) (status : Nat) : (b.dbgEnd uid outcome status).haze = b.haze := rfl
@[simp] theorem Body.dbgEnd_framing (b : Body) (uid : Nat) (outcome : Nat) (status : Nat) : (b.dbgEnd uid outcome status).framing = b.framing := rfl
@[simp] theorem Body.dbgEnd_bw (b : Body) (uid : Nat) (outcome : Nat) (status : Nat) : (b.dbgEnd uid outcome status).bw = b.bw := rfl
@[simp] theorem Body.dbgEnd_hm (b : Body) (uid : Nat) (outcome : Nat) (status : Nat) : (b.dbgEnd uid outcome status).hm = b.hm := rfl
@[simp] theorem Body.dbgEnd_st (b : Body) (uid : Nat) (outcome : Nat) (status : Nat) : (b.dbgEnd uid outcome status).st = b.st := rfl
@[simp] theorem Body.dbgEnd_eth (b : Body) (uid : Nat) (outcome : Nat) (status : Nat) : (b.dbgEnd uid outcome status).eth = b.eth := rfl
@[simp] theorem Body.dbgEnd_ln (b : Body) (uid : Nat) (outcome : Nat) (status : Nat) : (b.dbgEnd uid outcome status).ln = b.ln := rfl
@[simp] theorem Body.dbgEnd_boot (b : Body) (uid : Nat) (outcome : Nat) (status : Nat) : (b.dbgEnd uid outcome status).boot = b.boot := rfl
@[simp] theorem Body.dbgEnd_unlock (b : Body) (uid : Nat) (outcome : Nat) (status : Nat) : (b.dbgEnd uid outcome status).unlock = b.unlock := rfl
@[simp] theorem Body.dbgEnd_power (b : Body) (uid : Nat) (outcome : Nat) (status : Nat) : (b.dbgEnd uid outcome status).power = b.power := rfl
@[simp] theorem Body.dbgEnd_tiers (b : Body) (uid : Nat) (outcome : Nat) (status : Nat) : (b.dbgEnd uid outcome status).tiers = b.tiers := rfl
@[simp] theorem Body.dbgEnd_crates (b : Body) (uid : Nat) (outcome : Nat) (status : Nat) : (b.dbgEnd uid outcome status).crates = b.crates := rfl
@[simp] theorem Body.dbgEnd_rnd (b : Body) (uid : Nat) (outcome : Nat) (status : Nat) : (b.dbgEnd uid outcome status).rnd = b.rnd := rfl
@[simp] theorem Body.dbgEnd_berths (b : Body) (uid : Nat) (outcome : Nat) (status : Nat) : (b.dbgEnd uid outcome status).berths = b.berths := rfl
@[simp] theorem Body.dbgEnd_ops (b : Body) (uid : Nat) (outcome : Nat) (status : Nat) : (b.dbgEnd uid outcome status).ops = b.ops := rfl
@[simp] theorem Body.dbgEnd_jigs (b : Body) (uid : Nat) (outcome : Nat) (status : Nat) : (b.dbgEnd uid outcome status).jigs = b.jigs := rfl
@[simp] theorem Body.dbgEnd_ferry (b : Body) (uid : Nat) (outcome : Nat) (status : Nat) : (b.dbgEnd uid outcome status).ferry = b.ferry := rfl
@[simp] theorem Body.dbgEnd_tele_fits (b : Body) (uid : Nat) (outcome : Nat) (status : Nat) : (b.dbgEnd uid outcome status).tele.fits = b.tele.fits := rfl
@[simp] theorem Body.dbgEnd_tele_push (b : Body) (uid : Nat) (outcome : Nat) (status : Nat) : (b.dbgEnd uid outcome status).tele.push = b.tele.push := rfl
@[simp] theorem Body.dbgEnd_tele_probe (b : Body) (uid : Nat) (outcome : Nat) (status : Nat) : (b.dbgEnd uid outcome status).tele.probe = b.tele.probe := rfl
@[simp] theorem Body.dbgEnd_tele_errPend (b : Body) (uid : Nat) (outcome : Nat) (status : Nat) : (b.dbgEnd uid outcome status).tele.errPend = b.tele.errPend := rfl
@[simp] theorem Body.dbgEnd_tele_errMain (b : Body) (uid : Nat) (outcome : Nat) (status : Nat) : (b.dbgEnd uid outcome status).tele.errMain = b.tele.errMain := rfl
@[simp] theorem Body.dbgEnd_tele_errWatch (b : Body) (uid : Nat) (outcome : Nat) (status : Nat) : (b.dbgEnd uid outcome status).tele.errWatch = b.tele.errWatch := rfl
@[simp] theorem Body.dbgEnd_tele_watchSeq (b : Body) (uid : Nat) (outcome : Nat) (status : Nat) : (b.dbgEnd uid outcome status).tele.watchSeq = b.tele.watchSeq := rfl
@[simp] theorem Body.dbgEnd_tele_logs (b : Body) (uid : Nat) (outcome : Nat) (status : Nat) : (b.dbgEnd uid outcome status).tele.logs = b.tele.logs := rfl
@[simp] theorem Body.unitDone_ts (b : Body) (uid : Nat) : (b.unitDone uid).ts = b.ts := rfl
@[simp] theorem Body.unitDone_freeCtr (b : Body) (uid : Nat) : (b.unitDone uid).freeCtr = b.freeCtr := rfl
@[simp] theorem Body.unitDone_out (b : Body) (uid : Nat) : (b.unitDone uid).out = b.out := rfl
@[simp] theorem Body.unitDone_regs (b : Body) (uid : Nat) : (b.unitDone uid).regs = b.regs := rfl
@[simp] theorem Body.unitDone_mem (b : Body) (uid : Nat) : (b.unitDone uid).mem = b.mem := rfl
@[simp] theorem Body.unitDone_bg (b : Body) (uid : Nat) : (b.unitDone uid).bg = b.bg := rfl
@[simp] theorem Body.unitDone_epoch (b : Body) (uid : Nat) : (b.unitDone uid).epoch = b.epoch := rfl
@[simp] theorem Body.unitDone_haze (b : Body) (uid : Nat) : (b.unitDone uid).haze = b.haze := rfl
@[simp] theorem Body.unitDone_framing (b : Body) (uid : Nat) : (b.unitDone uid).framing = b.framing := rfl
@[simp] theorem Body.unitDone_bw (b : Body) (uid : Nat) : (b.unitDone uid).bw = b.bw := rfl
@[simp] theorem Body.unitDone_hm (b : Body) (uid : Nat) : (b.unitDone uid).hm = b.hm := rfl
@[simp] theorem Body.unitDone_st (b : Body) (uid : Nat) : (b.unitDone uid).st = b.st := rfl
@[simp] theorem Body.unitDone_eth (b : Body) (uid : Nat) : (b.unitDone uid).eth = b.eth := rfl
@[simp] theorem Body.unitDone_ln (b : Body) (uid : Nat) : (b.unitDone uid).ln = b.ln := rfl
@[simp] theorem Body.unitDone_boot (b : Body) (uid : Nat) : (b.unitDone uid).boot = b.boot := rfl
@[simp] theorem Body.unitDone_unlock (b : Body) (uid : Nat) : (b.unitDone uid).unlock = b.unlock := rfl
@[simp] theorem Body.unitDone_power (b : Body) (uid : Nat) : (b.unitDone uid).power = b.power := rfl
@[simp] theorem Body.unitDone_tiers (b : Body) (uid : Nat) : (b.unitDone uid).tiers = b.tiers := rfl
@[simp] theorem Body.unitDone_crates (b : Body) (uid : Nat) : (b.unitDone uid).crates = b.crates := rfl
@[simp] theorem Body.unitDone_rnd (b : Body) (uid : Nat) : (b.unitDone uid).rnd = b.rnd := rfl
@[simp] theorem Body.unitDone_berths (b : Body) (uid : Nat) : (b.unitDone uid).berths = b.berths := rfl
@[simp] theorem Body.unitDone_ops (b : Body) (uid : Nat) : (b.unitDone uid).ops = b.ops := rfl
@[simp] theorem Body.unitDone_jigs (b : Body) (uid : Nat) : (b.unitDone uid).jigs = b.jigs := rfl
@[simp] theorem Body.unitDone_ferry (b : Body) (uid : Nat) : (b.unitDone uid).ferry = b.ferry := rfl
@[simp] theorem Body.unitDone_tele_fits (b : Body) (uid : Nat) : (b.unitDone uid).tele.fits = b.tele.fits := rfl
@[simp] theorem Body.unitDone_tele_push (b : Body) (uid : Nat) : (b.unitDone uid).tele.push = b.tele.push := rfl
@[simp] theorem Body.unitDone_tele_probe (b : Body) (uid : Nat) : (b.unitDone uid).tele.probe = b.tele.probe := rfl
@[simp] theorem Body.unitDone_tele_errPend (b : Body) (uid : Nat) : (b.unitDone uid).tele.errPend = b.tele.errPend := rfl
@[simp] theorem Body.unitDone_tele_errMain (b : Body) (uid : Nat) : (b.unitDone uid).tele.errMain = b.tele.errMain := rfl
@[simp] theorem Body.unitDone_tele_errWatch (b : Body) (uid : Nat) : (b.unitDone uid).tele.errWatch = b.tele.errWatch := rfl
@[simp] theorem Body.unitDone_tele_watchSeq (b : Body) (uid : Nat) : (b.unitDone uid).tele.watchSeq = b.tele.watchSeq := rfl
@[simp] theorem Body.unitDone_tele_logs (b : Body) (uid : Nat) : (b.unitDone uid).tele.logs = b.tele.logs := rfl
@[simp] theorem Body.retire_ts (b : Body) (fl : Flight) (status : Nat) (result : Nat) (errRec : Bool) : (b.retire fl status result errRec).ts = b.ts := by
  unfold Body.retire; simp only []; split <;> simp
@[simp] theorem Body.retire_freeCtr (b : Body) (fl : Flight) (status : Nat) (result : Nat) (errRec : Bool) : (b.retire fl status result errRec).freeCtr = b.freeCtr := by
  unfold Body.retire; simp only []; split <;> simp
@[simp] theorem Body.retire_out (b : Body) (fl : Flight) (status : Nat) (result : Nat) (errRec : Bool) : (b.retire fl status result errRec).out = b.out := by
  unfold Body.retire; simp only []; split <;> simp
@[simp] theorem Body.retire_mem (b : Body) (fl : Flight) (status : Nat) (result : Nat) (errRec : Bool) : (b.retire fl status result errRec).mem = b.mem := by
  unfold Body.retire; simp only []; split <;> simp
@[simp] theorem Body.retire_bg (b : Body) (fl : Flight) (status : Nat) (result : Nat) (errRec : Bool) : (b.retire fl status result errRec).bg = b.bg := by
  unfold Body.retire; simp only []; split <;> simp
@[simp] theorem Body.retire_epoch (b : Body) (fl : Flight) (status : Nat) (result : Nat) (errRec : Bool) : (b.retire fl status result errRec).epoch = b.epoch := by
  unfold Body.retire; simp only []; split <;> simp
@[simp] theorem Body.retire_haze (b : Body) (fl : Flight) (status : Nat) (result : Nat) (errRec : Bool) : (b.retire fl status result errRec).haze = b.haze := by
  unfold Body.retire; simp only []; split <;> simp
@[simp] theorem Body.retire_framing (b : Body) (fl : Flight) (status : Nat) (result : Nat) (errRec : Bool) : (b.retire fl status result errRec).framing = b.framing := by
  unfold Body.retire; simp only []; split <;> simp
@[simp] theorem Body.retire_bw (b : Body) (fl : Flight) (status : Nat) (result : Nat) (errRec : Bool) : (b.retire fl status result errRec).bw = b.bw := by
  unfold Body.retire; simp only []; split <;> simp
@[simp] theorem Body.retire_st (b : Body) (fl : Flight) (status : Nat) (result : Nat) (errRec : Bool) : (b.retire fl status result errRec).st = b.st := by
  unfold Body.retire; simp only []; split <;> simp
@[simp] theorem Body.retire_eth (b : Body) (fl : Flight) (status : Nat) (result : Nat) (errRec : Bool) : (b.retire fl status result errRec).eth = b.eth := by
  unfold Body.retire; simp only []; split <;> simp
@[simp] theorem Body.retire_ln (b : Body) (fl : Flight) (status : Nat) (result : Nat) (errRec : Bool) : (b.retire fl status result errRec).ln = b.ln := by
  unfold Body.retire; simp only []; split <;> simp
@[simp] theorem Body.retire_boot (b : Body) (fl : Flight) (status : Nat) (result : Nat) (errRec : Bool) : (b.retire fl status result errRec).boot = b.boot := by
  unfold Body.retire; simp only []; split <;> simp
@[simp] theorem Body.retire_unlock (b : Body) (fl : Flight) (status : Nat) (result : Nat) (errRec : Bool) : (b.retire fl status result errRec).unlock = b.unlock := by
  unfold Body.retire; simp only []; split <;> simp
@[simp] theorem Body.retire_power (b : Body) (fl : Flight) (status : Nat) (result : Nat) (errRec : Bool) : (b.retire fl status result errRec).power = b.power := by
  unfold Body.retire; simp only []; split <;> simp
@[simp] theorem Body.retire_tiers (b : Body) (fl : Flight) (status : Nat) (result : Nat) (errRec : Bool) : (b.retire fl status result errRec).tiers = b.tiers := by
  unfold Body.retire; simp only []; split <;> simp
@[simp] theorem Body.retire_rnd (b : Body) (fl : Flight) (status : Nat) (result : Nat) (errRec : Bool) : (b.retire fl status result errRec).rnd = b.rnd := by
  unfold Body.retire; simp only []; split <;> simp
@[simp] theorem Body.retire_berths (b : Body) (fl : Flight) (status : Nat) (result : Nat) (errRec : Bool) : (b.retire fl status result errRec).berths = b.berths := by
  unfold Body.retire; simp only []; split <;> simp
@[simp] theorem Body.retire_ops (b : Body) (fl : Flight) (status : Nat) (result : Nat) (errRec : Bool) : (b.retire fl status result errRec).ops = b.ops := by
  unfold Body.retire; simp only []; split <;> simp
@[simp] theorem Body.retire_jigs (b : Body) (fl : Flight) (status : Nat) (result : Nat) (errRec : Bool) : (b.retire fl status result errRec).jigs = b.jigs := by
  unfold Body.retire; simp only []; split <;> simp
@[simp] theorem Body.retire_ferry (b : Body) (fl : Flight) (status : Nat) (result : Nat) (errRec : Bool) : (b.retire fl status result errRec).ferry = b.ferry := by
  unfold Body.retire; simp only []; split <;> simp
@[simp] theorem Body.retire_hm_nextUid (b : Body) (fl : Flight) (status : Nat) (result : Nat) (errRec : Bool) : (b.retire fl status result errRec).hm.nextUid = b.hm.nextUid := by
  unfold Body.retire; simp only []; split <;> simp
@[simp] theorem Body.retire_hm_rrUsed (b : Body) (fl : Flight) (status : Nat) (result : Nat) (errRec : Bool) : (b.retire fl status result errRec).hm.rrUsed = b.hm.rrUsed := by
  unfold Body.retire; simp only []; split <;> simp
@[simp] theorem Body.retire_hm_rrLast (b : Body) (fl : Flight) (status : Nat) (result : Nat) (errRec : Bool) : (b.retire fl status result errRec).hm.rrLast = b.hm.rrLast := by
  unfold Body.retire; simp only []; split <;> simp
@[simp] theorem Body.retire_hm_stepLast (b : Body) (fl : Flight) (status : Nat) (result : Nat) (errRec : Bool) : (b.retire fl status result errRec).hm.stepLast = b.hm.stepLast := by
  unfold Body.retire; simp only []; split <;> simp
@[simp] theorem Body.retire_hm_skips (b : Body) (fl : Flight) (status : Nat) (result : Nat) (errRec : Bool) : (b.retire fl status result errRec).hm.skips = b.hm.skips := by
  unfold Body.retire; simp only []; split <;> simp
@[simp] theorem Body.retire_hm_ctxs (b : Body) (fl : Flight) (status : Nat) (result : Nat) (errRec : Bool) : (b.retire fl status result errRec).hm.ctxs = b.hm.ctxs := by
  unfold Body.retire; simp only []; split <;> simp
@[simp] theorem Body.retire_hm_sregs (b : Body) (fl : Flight) (status : Nat) (result : Nat) (errRec : Bool) : (b.retire fl status result errRec).hm.sregs = b.hm.sregs := by
  unfold Body.retire; simp only []; split <;> simp
@[simp] theorem Body.retire_hm_batch (b : Body) (fl : Flight) (status : Nat) (result : Nat) (errRec : Bool) : (b.retire fl status result errRec).hm.batch = b.hm.batch := by
  unfold Body.retire; simp only []; split <;> simp
@[simp] theorem Body.retire_hm_chains (b : Body) (fl : Flight) (status : Nat) (result : Nat) (errRec : Bool) : (b.retire fl status result errRec).hm.chains = b.hm.chains := by
  unfold Body.retire; simp only []; split <;> simp
@[simp] theorem Body.retire_hm_waits (b : Body) (fl : Flight) (status : Nat) (result : Nat) (errRec : Bool) : (b.retire fl status result errRec).hm.waits = b.hm.waits := by
  unfold Body.retire; simp only []; split <;> simp
@[simp] theorem Body.retire_hm_returned (b : Body) (fl : Flight) (status : Nat) (result : Nat) (errRec : Bool) : (b.retire fl status result errRec).hm.returned = b.hm.returned := by
  unfold Body.retire; simp only []; split <;> simp
@[simp] theorem Body.retire_hm_halting (b : Body) (fl : Flight) (status : Nat) (result : Nat) (errRec : Bool) : (b.retire fl status result errRec).hm.halting = b.hm.halting := by
  unfold Body.retire; simp only []; split <;> simp
@[simp] theorem Body.retire_hm_sramDead (b : Body) (fl : Flight) (status : Nat) (result : Nat) (errRec : Bool) : (b.retire fl status result errRec).hm.sramDead = b.hm.sramDead := by
  unfold Body.retire; simp only []; split <;> simp
@[simp] theorem Body.retire_crates_maps (b : Body) (fl : Flight) (status : Nat) (result : Nat) (errRec : Bool) : (b.retire fl status result errRec).crates.maps = b.crates.maps := by
  unfold Body.retire; simp only []; split <;> simp
@[simp] theorem Body.retire_crates_pools (b : Body) (fl : Flight) (status : Nat) (result : Nat) (errRec : Bool) : (b.retire fl status result errRec).crates.pools = b.crates.pools := by
  unfold Body.retire; simp only []; split <;> simp
@[simp] theorem Body.retire_crates_moves (b : Body) (fl : Flight) (status : Nat) (result : Nat) (errRec : Bool) : (b.retire fl status result errRec).crates.moves = b.crates.moves := by
  unfold Body.retire; simp only []; split <;> simp
@[simp] theorem Body.retire_crates_loads (b : Body) (fl : Flight) (status : Nat) (result : Nat) (errRec : Bool) : (b.retire fl status result errRec).crates.loads = b.crates.loads := by
  unfold Body.retire; simp only []; split <;> simp
@[simp] theorem Body.retire_crates_reserved (b : Body) (fl : Flight) (status : Nat) (result : Nat) (errRec : Bool) : (b.retire fl status result errRec).crates.reserved = b.crates.reserved := by
  unfold Body.retire; simp only []; split <;> simp
@[simp] theorem Body.retire_tele_fits (b : Body) (fl : Flight) (status : Nat) (result : Nat) (errRec : Bool) : (b.retire fl status result errRec).tele.fits = b.tele.fits := by
  unfold Body.retire; simp only []; split <;> simp
@[simp] theorem Body.retire_tele_push (b : Body) (fl : Flight) (status : Nat) (result : Nat) (errRec : Bool) : (b.retire fl status result errRec).tele.push = b.tele.push := by
  unfold Body.retire; simp only []; split <;> simp
@[simp] theorem Body.retire_tele_probe (b : Body) (fl : Flight) (status : Nat) (result : Nat) (errRec : Bool) : (b.retire fl status result errRec).tele.probe = b.tele.probe := by
  unfold Body.retire; simp only []; split <;> simp
@[simp] theorem Body.retire_tele_errPend (b : Body) (fl : Flight) (status : Nat) (result : Nat) (errRec : Bool) : (b.retire fl status result errRec).tele.errPend = b.tele.errPend := by
  unfold Body.retire; simp only []; split <;> simp
@[simp] theorem Body.retire_tele_errMain (b : Body) (fl : Flight) (status : Nat) (result : Nat) (errRec : Bool) : (b.retire fl status result errRec).tele.errMain = b.tele.errMain := by
  unfold Body.retire; simp only []; split <;> simp
@[simp] theorem Body.retire_tele_errWatch (b : Body) (fl : Flight) (status : Nat) (result : Nat) (errRec : Bool) : (b.retire fl status result errRec).tele.errWatch = b.tele.errWatch := by
  unfold Body.retire; simp only []; split <;> simp
@[simp] theorem Body.retire_tele_watchSeq (b : Body) (fl : Flight) (status : Nat) (result : Nat) (errRec : Bool) : (b.retire fl status result errRec).tele.watchSeq = b.tele.watchSeq := by
  unfold Body.retire; simp only []; split <;> simp
@[simp] theorem Body.done_ts (b : Body) (fl : Flight) (result : Nat) : (b.done fl result).ts = b.ts := by simp [Body.done]
@[simp] theorem Body.done_freeCtr (b : Body) (fl : Flight) (result : Nat) : (b.done fl result).freeCtr = b.freeCtr := by simp [Body.done]
@[simp] theorem Body.done_out (b : Body) (fl : Flight) (result : Nat) : (b.done fl result).out = b.out := by simp [Body.done]
@[simp] theorem Body.done_mem (b : Body) (fl : Flight) (result : Nat) : (b.done fl result).mem = b.mem := by simp [Body.done]
@[simp] theorem Body.done_bg (b : Body) (fl : Flight) (result : Nat) : (b.done fl result).bg = b.bg := by simp [Body.done]
@[simp] theorem Body.done_epoch (b : Body) (fl : Flight) (result : Nat) : (b.done fl result).epoch = b.epoch := by simp [Body.done]
@[simp] theorem Body.done_haze (b : Body) (fl : Flight) (result : Nat) : (b.done fl result).haze = b.haze := by simp [Body.done]
@[simp] theorem Body.done_framing (b : Body) (fl : Flight) (result : Nat) : (b.done fl result).framing = b.framing := by simp [Body.done]
@[simp] theorem Body.done_bw (b : Body) (fl : Flight) (result : Nat) : (b.done fl result).bw = b.bw := by simp [Body.done]
@[simp] theorem Body.done_st (b : Body) (fl : Flight) (result : Nat) : (b.done fl result).st = b.st := by simp [Body.done]
@[simp] theorem Body.done_eth (b : Body) (fl : Flight) (result : Nat) : (b.done fl result).eth = b.eth := by simp [Body.done]
@[simp] theorem Body.done_ln (b : Body) (fl : Flight) (result : Nat) : (b.done fl result).ln = b.ln := by simp [Body.done]
@[simp] theorem Body.done_boot (b : Body) (fl : Flight) (result : Nat) : (b.done fl result).boot = b.boot := by simp [Body.done]
@[simp] theorem Body.done_unlock (b : Body) (fl : Flight) (result : Nat) : (b.done fl result).unlock = b.unlock := by simp [Body.done]
@[simp] theorem Body.done_power (b : Body) (fl : Flight) (result : Nat) : (b.done fl result).power = b.power := by simp [Body.done]
@[simp] theorem Body.done_tiers (b : Body) (fl : Flight) (result : Nat) : (b.done fl result).tiers = b.tiers := by simp [Body.done]
@[simp] theorem Body.done_rnd (b : Body) (fl : Flight) (result : Nat) : (b.done fl result).rnd = b.rnd := by simp [Body.done]
@[simp] theorem Body.done_berths (b : Body) (fl : Flight) (result : Nat) : (b.done fl result).berths = b.berths := by simp [Body.done]
@[simp] theorem Body.done_ops (b : Body) (fl : Flight) (result : Nat) : (b.done fl result).ops = b.ops := by simp [Body.done]
@[simp] theorem Body.done_jigs (b : Body) (fl : Flight) (result : Nat) : (b.done fl result).jigs = b.jigs := by simp [Body.done]
@[simp] theorem Body.done_ferry (b : Body) (fl : Flight) (result : Nat) : (b.done fl result).ferry = b.ferry := by simp [Body.done]
@[simp] theorem Body.done_hm_nextUid (b : Body) (fl : Flight) (result : Nat) : (b.done fl result).hm.nextUid = b.hm.nextUid := by simp [Body.done]
@[simp] theorem Body.done_hm_rrUsed (b : Body) (fl : Flight) (result : Nat) : (b.done fl result).hm.rrUsed = b.hm.rrUsed := by simp [Body.done]
@[simp] theorem Body.done_hm_rrLast (b : Body) (fl : Flight) (result : Nat) : (b.done fl result).hm.rrLast = b.hm.rrLast := by simp [Body.done]
@[simp] theorem Body.done_hm_stepLast (b : Body) (fl : Flight) (result : Nat) : (b.done fl result).hm.stepLast = b.hm.stepLast := by simp [Body.done]
@[simp] theorem Body.done_hm_skips (b : Body) (fl : Flight) (result : Nat) : (b.done fl result).hm.skips = b.hm.skips := by simp [Body.done]
@[simp] theorem Body.done_hm_ctxs (b : Body) (fl : Flight) (result : Nat) : (b.done fl result).hm.ctxs = b.hm.ctxs := by simp [Body.done]
@[simp] theorem Body.done_hm_sregs (b : Body) (fl : Flight) (result : Nat) : (b.done fl result).hm.sregs = b.hm.sregs := by simp [Body.done]
@[simp] theorem Body.done_hm_batch (b : Body) (fl : Flight) (result : Nat) : (b.done fl result).hm.batch = b.hm.batch := by simp [Body.done]
@[simp] theorem Body.done_hm_chains (b : Body) (fl : Flight) (result : Nat) : (b.done fl result).hm.chains = b.hm.chains := by simp [Body.done]
@[simp] theorem Body.done_hm_waits (b : Body) (fl : Flight) (result : Nat) : (b.done fl result).hm.waits = b.hm.waits := by simp [Body.done]
@[simp] theorem Body.done_hm_returned (b : Body) (fl : Flight) (result : Nat) : (b.done fl result).hm.returned = b.hm.returned := by simp [Body.done]
@[simp] theorem Body.done_hm_halting (b : Body) (fl : Flight) (result : Nat) : (b.done fl result).hm.halting = b.hm.halting := by simp [Body.done]
@[simp] theorem Body.done_hm_sramDead (b : Body) (fl : Flight) (result : Nat) : (b.done fl result).hm.sramDead = b.hm.sramDead := by simp [Body.done]
@[simp] theorem Body.done_crates_maps (b : Body) (fl : Flight) (result : Nat) : (b.done fl result).crates.maps = b.crates.maps := by simp [Body.done]
@[simp] theorem Body.done_crates_pools (b : Body) (fl : Flight) (result : Nat) : (b.done fl result).crates.pools = b.crates.pools := by simp [Body.done]
@[simp] theorem Body.done_crates_moves (b : Body) (fl : Flight) (result : Nat) : (b.done fl result).crates.moves = b.crates.moves := by simp [Body.done]
@[simp] theorem Body.done_crates_loads (b : Body) (fl : Flight) (result : Nat) : (b.done fl result).crates.loads = b.crates.loads := by simp [Body.done]
@[simp] theorem Body.done_crates_reserved (b : Body) (fl : Flight) (result : Nat) : (b.done fl result).crates.reserved = b.crates.reserved := by simp [Body.done]
@[simp] theorem Body.done_tele_fits (b : Body) (fl : Flight) (result : Nat) : (b.done fl result).tele.fits = b.tele.fits := by simp [Body.done]
@[simp] theorem Body.done_tele_push (b : Body) (fl : Flight) (result : Nat) : (b.done fl result).tele.push = b.tele.push := by simp [Body.done]
@[simp] theorem Body.done_tele_probe (b : Body) (fl : Flight) (result : Nat) : (b.done fl result).tele.probe = b.tele.probe := by simp [Body.done]
@[simp] theorem Body.done_tele_errPend (b : Body) (fl : Flight) (result : Nat) : (b.done fl result).tele.errPend = b.tele.errPend := by simp [Body.done]
@[simp] theorem Body.done_tele_errMain (b : Body) (fl : Flight) (result : Nat) : (b.done fl result).tele.errMain = b.tele.errMain := by simp [Body.done]
@[simp] theorem Body.done_tele_errWatch (b : Body) (fl : Flight) (result : Nat) : (b.done fl result).tele.errWatch = b.tele.errWatch := by simp [Body.done]
@[simp] theorem Body.done_tele_watchSeq (b : Body) (fl : Flight) (result : Nat) : (b.done fl result).tele.watchSeq = b.tele.watchSeq := by simp [Body.done]
@[simp] theorem Body.failWith_ts (b : Body) (fl : Flight) (status : Nat) (code : Nat) (sev : Nat) (kind : Nat) (unit : Nat) (d : List Nat) : (b.failWith fl status code sev kind unit d).ts = b.ts := by simp [Body.failWith]
@[simp] theorem Body.failWith_freeCtr (b : Body) (fl : Flight) (status : Nat) (code : Nat) (sev : Nat) (kind : Nat) (unit : Nat) (d : List Nat) : (b.failWith fl status code sev kind unit d).freeCtr = b.freeCtr := by simp [Body.failWith]
@[simp] theorem Body.failWith_out (b : Body) (fl : Flight) (status : Nat) (code : Nat) (sev : Nat) (kind : Nat) (unit : Nat) (d : List Nat) : (b.failWith fl status code sev kind unit d).out = b.out := by simp [Body.failWith]
@[simp] theorem Body.failWith_mem (b : Body) (fl : Flight) (status : Nat) (code : Nat) (sev : Nat) (kind : Nat) (unit : Nat) (d : List Nat) : (b.failWith fl status code sev kind unit d).mem = b.mem := by simp [Body.failWith]
@[simp] theorem Body.failWith_bg (b : Body) (fl : Flight) (status : Nat) (code : Nat) (sev : Nat) (kind : Nat) (unit : Nat) (d : List Nat) : (b.failWith fl status code sev kind unit d).bg = b.bg := by simp [Body.failWith]
@[simp] theorem Body.failWith_epoch (b : Body) (fl : Flight) (status : Nat) (code : Nat) (sev : Nat) (kind : Nat) (unit : Nat) (d : List Nat) : (b.failWith fl status code sev kind unit d).epoch = b.epoch := by simp [Body.failWith]
@[simp] theorem Body.failWith_haze (b : Body) (fl : Flight) (status : Nat) (code : Nat) (sev : Nat) (kind : Nat) (unit : Nat) (d : List Nat) : (b.failWith fl status code sev kind unit d).haze = b.haze := by simp [Body.failWith]
@[simp] theorem Body.failWith_framing (b : Body) (fl : Flight) (status : Nat) (code : Nat) (sev : Nat) (kind : Nat) (unit : Nat) (d : List Nat) : (b.failWith fl status code sev kind unit d).framing = b.framing := by simp [Body.failWith]
@[simp] theorem Body.failWith_bw (b : Body) (fl : Flight) (status : Nat) (code : Nat) (sev : Nat) (kind : Nat) (unit : Nat) (d : List Nat) : (b.failWith fl status code sev kind unit d).bw = b.bw := by simp [Body.failWith]
@[simp] theorem Body.failWith_st (b : Body) (fl : Flight) (status : Nat) (code : Nat) (sev : Nat) (kind : Nat) (unit : Nat) (d : List Nat) : (b.failWith fl status code sev kind unit d).st = b.st := by simp [Body.failWith]
@[simp] theorem Body.failWith_eth (b : Body) (fl : Flight) (status : Nat) (code : Nat) (sev : Nat) (kind : Nat) (unit : Nat) (d : List Nat) : (b.failWith fl status code sev kind unit d).eth = b.eth := by simp [Body.failWith]
@[simp] theorem Body.failWith_ln (b : Body) (fl : Flight) (status : Nat) (code : Nat) (sev : Nat) (kind : Nat) (unit : Nat) (d : List Nat) : (b.failWith fl status code sev kind unit d).ln = b.ln := by simp [Body.failWith]
@[simp] theorem Body.failWith_boot (b : Body) (fl : Flight) (status : Nat) (code : Nat) (sev : Nat) (kind : Nat) (unit : Nat) (d : List Nat) : (b.failWith fl status code sev kind unit d).boot = b.boot := by simp [Body.failWith]
@[simp] theorem Body.failWith_unlock (b : Body) (fl : Flight) (status : Nat) (code : Nat) (sev : Nat) (kind : Nat) (unit : Nat) (d : List Nat) : (b.failWith fl status code sev kind unit d).unlock = b.unlock := by simp [Body.failWith]
@[simp] theorem Body.failWith_power (b : Body) (fl : Flight) (status : Nat) (code : Nat) (sev : Nat) (kind : Nat) (unit : Nat) (d : List Nat) : (b.failWith fl status code sev kind unit d).power = b.power := by simp [Body.failWith]
@[simp] theorem Body.failWith_tiers (b : Body) (fl : Flight) (status : Nat) (code : Nat) (sev : Nat) (kind : Nat) (unit : Nat) (d : List Nat) : (b.failWith fl status code sev kind unit d).tiers = b.tiers := by simp [Body.failWith]
@[simp] theorem Body.failWith_rnd (b : Body) (fl : Flight) (status : Nat) (code : Nat) (sev : Nat) (kind : Nat) (unit : Nat) (d : List Nat) : (b.failWith fl status code sev kind unit d).rnd = b.rnd := by simp [Body.failWith]
@[simp] theorem Body.failWith_berths (b : Body) (fl : Flight) (status : Nat) (code : Nat) (sev : Nat) (kind : Nat) (unit : Nat) (d : List Nat) : (b.failWith fl status code sev kind unit d).berths = b.berths := by simp [Body.failWith]
@[simp] theorem Body.failWith_ops (b : Body) (fl : Flight) (status : Nat) (code : Nat) (sev : Nat) (kind : Nat) (unit : Nat) (d : List Nat) : (b.failWith fl status code sev kind unit d).ops = b.ops := by simp [Body.failWith]
@[simp] theorem Body.failWith_jigs (b : Body) (fl : Flight) (status : Nat) (code : Nat) (sev : Nat) (kind : Nat) (unit : Nat) (d : List Nat) : (b.failWith fl status code sev kind unit d).jigs = b.jigs := by simp [Body.failWith]
@[simp] theorem Body.failWith_ferry (b : Body) (fl : Flight) (status : Nat) (code : Nat) (sev : Nat) (kind : Nat) (unit : Nat) (d : List Nat) : (b.failWith fl status code sev kind unit d).ferry = b.ferry := by simp [Body.failWith]
@[simp] theorem Body.failWith_hm_nextUid (b : Body) (fl : Flight) (status : Nat) (code : Nat) (sev : Nat) (kind : Nat) (unit : Nat) (d : List Nat) : (b.failWith fl status code sev kind unit d).hm.nextUid = b.hm.nextUid := by simp [Body.failWith]
@[simp] theorem Body.failWith_hm_rrUsed (b : Body) (fl : Flight) (status : Nat) (code : Nat) (sev : Nat) (kind : Nat) (unit : Nat) (d : List Nat) : (b.failWith fl status code sev kind unit d).hm.rrUsed = b.hm.rrUsed := by simp [Body.failWith]
@[simp] theorem Body.failWith_hm_rrLast (b : Body) (fl : Flight) (status : Nat) (code : Nat) (sev : Nat) (kind : Nat) (unit : Nat) (d : List Nat) : (b.failWith fl status code sev kind unit d).hm.rrLast = b.hm.rrLast := by simp [Body.failWith]
@[simp] theorem Body.failWith_hm_stepLast (b : Body) (fl : Flight) (status : Nat) (code : Nat) (sev : Nat) (kind : Nat) (unit : Nat) (d : List Nat) : (b.failWith fl status code sev kind unit d).hm.stepLast = b.hm.stepLast := by simp [Body.failWith]
@[simp] theorem Body.failWith_hm_skips (b : Body) (fl : Flight) (status : Nat) (code : Nat) (sev : Nat) (kind : Nat) (unit : Nat) (d : List Nat) : (b.failWith fl status code sev kind unit d).hm.skips = b.hm.skips := by simp [Body.failWith]
@[simp] theorem Body.failWith_hm_ctxs (b : Body) (fl : Flight) (status : Nat) (code : Nat) (sev : Nat) (kind : Nat) (unit : Nat) (d : List Nat) : (b.failWith fl status code sev kind unit d).hm.ctxs = b.hm.ctxs := by simp [Body.failWith]
@[simp] theorem Body.failWith_hm_sregs (b : Body) (fl : Flight) (status : Nat) (code : Nat) (sev : Nat) (kind : Nat) (unit : Nat) (d : List Nat) : (b.failWith fl status code sev kind unit d).hm.sregs = b.hm.sregs := by simp [Body.failWith]
@[simp] theorem Body.failWith_hm_batch (b : Body) (fl : Flight) (status : Nat) (code : Nat) (sev : Nat) (kind : Nat) (unit : Nat) (d : List Nat) : (b.failWith fl status code sev kind unit d).hm.batch = b.hm.batch := by simp [Body.failWith]
@[simp] theorem Body.failWith_hm_chains (b : Body) (fl : Flight) (status : Nat) (code : Nat) (sev : Nat) (kind : Nat) (unit : Nat) (d : List Nat) : (b.failWith fl status code sev kind unit d).hm.chains = b.hm.chains := by simp [Body.failWith]
@[simp] theorem Body.failWith_hm_waits (b : Body) (fl : Flight) (status : Nat) (code : Nat) (sev : Nat) (kind : Nat) (unit : Nat) (d : List Nat) : (b.failWith fl status code sev kind unit d).hm.waits = b.hm.waits := by simp [Body.failWith]
@[simp] theorem Body.failWith_hm_returned (b : Body) (fl : Flight) (status : Nat) (code : Nat) (sev : Nat) (kind : Nat) (unit : Nat) (d : List Nat) : (b.failWith fl status code sev kind unit d).hm.returned = b.hm.returned := by simp [Body.failWith]
@[simp] theorem Body.failWith_hm_halting (b : Body) (fl : Flight) (status : Nat) (code : Nat) (sev : Nat) (kind : Nat) (unit : Nat) (d : List Nat) : (b.failWith fl status code sev kind unit d).hm.halting = b.hm.halting := by simp [Body.failWith]
@[simp] theorem Body.failWith_hm_sramDead (b : Body) (fl : Flight) (status : Nat) (code : Nat) (sev : Nat) (kind : Nat) (unit : Nat) (d : List Nat) : (b.failWith fl status code sev kind unit d).hm.sramDead = b.hm.sramDead := by simp [Body.failWith]
@[simp] theorem Body.failWith_crates_maps (b : Body) (fl : Flight) (status : Nat) (code : Nat) (sev : Nat) (kind : Nat) (unit : Nat) (d : List Nat) : (b.failWith fl status code sev kind unit d).crates.maps = b.crates.maps := by simp [Body.failWith]
@[simp] theorem Body.failWith_crates_pools (b : Body) (fl : Flight) (status : Nat) (code : Nat) (sev : Nat) (kind : Nat) (unit : Nat) (d : List Nat) : (b.failWith fl status code sev kind unit d).crates.pools = b.crates.pools := by simp [Body.failWith]
@[simp] theorem Body.failWith_crates_moves (b : Body) (fl : Flight) (status : Nat) (code : Nat) (sev : Nat) (kind : Nat) (unit : Nat) (d : List Nat) : (b.failWith fl status code sev kind unit d).crates.moves = b.crates.moves := by simp [Body.failWith]
@[simp] theorem Body.failWith_crates_loads (b : Body) (fl : Flight) (status : Nat) (code : Nat) (sev : Nat) (kind : Nat) (unit : Nat) (d : List Nat) : (b.failWith fl status code sev kind unit d).crates.loads = b.crates.loads := by simp [Body.failWith]
@[simp] theorem Body.failWith_crates_reserved (b : Body) (fl : Flight) (status : Nat) (code : Nat) (sev : Nat) (kind : Nat) (unit : Nat) (d : List Nat) : (b.failWith fl status code sev kind unit d).crates.reserved = b.crates.reserved := by simp [Body.failWith]
@[simp] theorem Body.failWith_tele_fits (b : Body) (fl : Flight) (status : Nat) (code : Nat) (sev : Nat) (kind : Nat) (unit : Nat) (d : List Nat) : (b.failWith fl status code sev kind unit d).tele.fits = b.tele.fits := by simp [Body.failWith]
@[simp] theorem Body.failWith_tele_push (b : Body) (fl : Flight) (status : Nat) (code : Nat) (sev : Nat) (kind : Nat) (unit : Nat) (d : List Nat) : (b.failWith fl status code sev kind unit d).tele.push = b.tele.push := by simp [Body.failWith]
@[simp] theorem Body.failWith_tele_probe (b : Body) (fl : Flight) (status : Nat) (code : Nat) (sev : Nat) (kind : Nat) (unit : Nat) (d : List Nat) : (b.failWith fl status code sev kind unit d).tele.probe = b.tele.probe := by simp [Body.failWith]
@[simp] theorem Body.failWith_tele_errMain (b : Body) (fl : Flight) (status : Nat) (code : Nat) (sev : Nat) (kind : Nat) (unit : Nat) (d : List Nat) : (b.failWith fl status code sev kind unit d).tele.errMain = b.tele.errMain := by simp [Body.failWith]
@[simp] theorem Body.fail_ts (b : Body) (fl : Flight) (status : Nat) (d0 : Nat) (d1 : Nat) : (b.fail fl status d0 d1).ts = b.ts := by
  unfold Body.fail; (repeat' split) <;> simp
@[simp] theorem Body.fail_freeCtr (b : Body) (fl : Flight) (status : Nat) (d0 : Nat) (d1 : Nat) : (b.fail fl status d0 d1).freeCtr = b.freeCtr := by
  unfold Body.fail; (repeat' split) <;> simp
@[simp] theorem Body.fail_out (b : Body) (fl : Flight) (status : Nat) (d0 : Nat) (d1 : Nat) : (b.fail fl status d0 d1).out = b.out := by
  unfold Body.fail; (repeat' split) <;> simp
@[simp] theorem Body.fail_mem (b : Body) (fl : Flight) (status : Nat) (d0 : Nat) (d1 : Nat) : (b.fail fl status d0 d1).mem = b.mem := by
  unfold Body.fail; (repeat' split) <;> simp
@[simp] theorem Body.fail_bg (b : Body) (fl : Flight) (status : Nat) (d0 : Nat) (d1 : Nat) : (b.fail fl status d0 d1).bg = b.bg := by
  unfold Body.fail; (repeat' split) <;> simp
@[simp] theorem Body.fail_epoch (b : Body) (fl : Flight) (status : Nat) (d0 : Nat) (d1 : Nat) : (b.fail fl status d0 d1).epoch = b.epoch := by
  unfold Body.fail; (repeat' split) <;> simp
@[simp] theorem Body.fail_haze (b : Body) (fl : Flight) (status : Nat) (d0 : Nat) (d1 : Nat) : (b.fail fl status d0 d1).haze = b.haze := by
  unfold Body.fail; (repeat' split) <;> simp
@[simp] theorem Body.fail_framing (b : Body) (fl : Flight) (status : Nat) (d0 : Nat) (d1 : Nat) : (b.fail fl status d0 d1).framing = b.framing := by
  unfold Body.fail; (repeat' split) <;> simp
@[simp] theorem Body.fail_bw (b : Body) (fl : Flight) (status : Nat) (d0 : Nat) (d1 : Nat) : (b.fail fl status d0 d1).bw = b.bw := by
  unfold Body.fail; (repeat' split) <;> simp
@[simp] theorem Body.fail_st (b : Body) (fl : Flight) (status : Nat) (d0 : Nat) (d1 : Nat) : (b.fail fl status d0 d1).st = b.st := by
  unfold Body.fail; (repeat' split) <;> simp
@[simp] theorem Body.fail_eth (b : Body) (fl : Flight) (status : Nat) (d0 : Nat) (d1 : Nat) : (b.fail fl status d0 d1).eth = b.eth := by
  unfold Body.fail; (repeat' split) <;> simp
@[simp] theorem Body.fail_ln (b : Body) (fl : Flight) (status : Nat) (d0 : Nat) (d1 : Nat) : (b.fail fl status d0 d1).ln = b.ln := by
  unfold Body.fail; (repeat' split) <;> simp
@[simp] theorem Body.fail_boot (b : Body) (fl : Flight) (status : Nat) (d0 : Nat) (d1 : Nat) : (b.fail fl status d0 d1).boot = b.boot := by
  unfold Body.fail; (repeat' split) <;> simp
@[simp] theorem Body.fail_unlock (b : Body) (fl : Flight) (status : Nat) (d0 : Nat) (d1 : Nat) : (b.fail fl status d0 d1).unlock = b.unlock := by
  unfold Body.fail; (repeat' split) <;> simp
@[simp] theorem Body.fail_power (b : Body) (fl : Flight) (status : Nat) (d0 : Nat) (d1 : Nat) : (b.fail fl status d0 d1).power = b.power := by
  unfold Body.fail; (repeat' split) <;> simp
@[simp] theorem Body.fail_tiers (b : Body) (fl : Flight) (status : Nat) (d0 : Nat) (d1 : Nat) : (b.fail fl status d0 d1).tiers = b.tiers := by
  unfold Body.fail; (repeat' split) <;> simp
@[simp] theorem Body.fail_rnd (b : Body) (fl : Flight) (status : Nat) (d0 : Nat) (d1 : Nat) : (b.fail fl status d0 d1).rnd = b.rnd := by
  unfold Body.fail; (repeat' split) <;> simp
@[simp] theorem Body.fail_berths (b : Body) (fl : Flight) (status : Nat) (d0 : Nat) (d1 : Nat) : (b.fail fl status d0 d1).berths = b.berths := by
  unfold Body.fail; (repeat' split) <;> simp
@[simp] theorem Body.fail_ops (b : Body) (fl : Flight) (status : Nat) (d0 : Nat) (d1 : Nat) : (b.fail fl status d0 d1).ops = b.ops := by
  unfold Body.fail; (repeat' split) <;> simp
@[simp] theorem Body.fail_jigs (b : Body) (fl : Flight) (status : Nat) (d0 : Nat) (d1 : Nat) : (b.fail fl status d0 d1).jigs = b.jigs := by
  unfold Body.fail; (repeat' split) <;> simp
@[simp] theorem Body.fail_ferry (b : Body) (fl : Flight) (status : Nat) (d0 : Nat) (d1 : Nat) : (b.fail fl status d0 d1).ferry = b.ferry := by
  unfold Body.fail; (repeat' split) <;> simp
@[simp] theorem Body.fail_hm_nextUid (b : Body) (fl : Flight) (status : Nat) (d0 : Nat) (d1 : Nat) : (b.fail fl status d0 d1).hm.nextUid = b.hm.nextUid := by
  unfold Body.fail; (repeat' split) <;> simp
@[simp] theorem Body.fail_hm_rrUsed (b : Body) (fl : Flight) (status : Nat) (d0 : Nat) (d1 : Nat) : (b.fail fl status d0 d1).hm.rrUsed = b.hm.rrUsed := by
  unfold Body.fail; (repeat' split) <;> simp
@[simp] theorem Body.fail_hm_rrLast (b : Body) (fl : Flight) (status : Nat) (d0 : Nat) (d1 : Nat) : (b.fail fl status d0 d1).hm.rrLast = b.hm.rrLast := by
  unfold Body.fail; (repeat' split) <;> simp
@[simp] theorem Body.fail_hm_stepLast (b : Body) (fl : Flight) (status : Nat) (d0 : Nat) (d1 : Nat) : (b.fail fl status d0 d1).hm.stepLast = b.hm.stepLast := by
  unfold Body.fail; (repeat' split) <;> simp
@[simp] theorem Body.fail_hm_skips (b : Body) (fl : Flight) (status : Nat) (d0 : Nat) (d1 : Nat) : (b.fail fl status d0 d1).hm.skips = b.hm.skips := by
  unfold Body.fail; (repeat' split) <;> simp
@[simp] theorem Body.fail_hm_ctxs (b : Body) (fl : Flight) (status : Nat) (d0 : Nat) (d1 : Nat) : (b.fail fl status d0 d1).hm.ctxs = b.hm.ctxs := by
  unfold Body.fail; (repeat' split) <;> simp
@[simp] theorem Body.fail_hm_sregs (b : Body) (fl : Flight) (status : Nat) (d0 : Nat) (d1 : Nat) : (b.fail fl status d0 d1).hm.sregs = b.hm.sregs := by
  unfold Body.fail; (repeat' split) <;> simp
@[simp] theorem Body.fail_hm_batch (b : Body) (fl : Flight) (status : Nat) (d0 : Nat) (d1 : Nat) : (b.fail fl status d0 d1).hm.batch = b.hm.batch := by
  unfold Body.fail; (repeat' split) <;> simp
@[simp] theorem Body.fail_hm_chains (b : Body) (fl : Flight) (status : Nat) (d0 : Nat) (d1 : Nat) : (b.fail fl status d0 d1).hm.chains = b.hm.chains := by
  unfold Body.fail; (repeat' split) <;> simp
@[simp] theorem Body.fail_hm_waits (b : Body) (fl : Flight) (status : Nat) (d0 : Nat) (d1 : Nat) : (b.fail fl status d0 d1).hm.waits = b.hm.waits := by
  unfold Body.fail; (repeat' split) <;> simp
@[simp] theorem Body.fail_hm_returned (b : Body) (fl : Flight) (status : Nat) (d0 : Nat) (d1 : Nat) : (b.fail fl status d0 d1).hm.returned = b.hm.returned := by
  unfold Body.fail; (repeat' split) <;> simp
@[simp] theorem Body.fail_hm_halting (b : Body) (fl : Flight) (status : Nat) (d0 : Nat) (d1 : Nat) : (b.fail fl status d0 d1).hm.halting = b.hm.halting := by
  unfold Body.fail; (repeat' split) <;> simp
@[simp] theorem Body.fail_hm_sramDead (b : Body) (fl : Flight) (status : Nat) (d0 : Nat) (d1 : Nat) : (b.fail fl status d0 d1).hm.sramDead = b.hm.sramDead := by
  unfold Body.fail; (repeat' split) <;> simp
@[simp] theorem Body.fail_crates_maps (b : Body) (fl : Flight) (status : Nat) (d0 : Nat) (d1 : Nat) : (b.fail fl status d0 d1).crates.maps = b.crates.maps := by
  unfold Body.fail; (repeat' split) <;> simp
@[simp] theorem Body.fail_crates_pools (b : Body) (fl : Flight) (status : Nat) (d0 : Nat) (d1 : Nat) : (b.fail fl status d0 d1).crates.pools = b.crates.pools := by
  unfold Body.fail; (repeat' split) <;> simp
@[simp] theorem Body.fail_crates_moves (b : Body) (fl : Flight) (status : Nat) (d0 : Nat) (d1 : Nat) : (b.fail fl status d0 d1).crates.moves = b.crates.moves := by
  unfold Body.fail; (repeat' split) <;> simp
@[simp] theorem Body.fail_crates_loads (b : Body) (fl : Flight) (status : Nat) (d0 : Nat) (d1 : Nat) : (b.fail fl status d0 d1).crates.loads = b.crates.loads := by
  unfold Body.fail; (repeat' split) <;> simp
@[simp] theorem Body.fail_crates_reserved (b : Body) (fl : Flight) (status : Nat) (d0 : Nat) (d1 : Nat) : (b.fail fl status d0 d1).crates.reserved = b.crates.reserved := by
  unfold Body.fail; (repeat' split) <;> simp
@[simp] theorem Body.fail_tele_fits (b : Body) (fl : Flight) (status : Nat) (d0 : Nat) (d1 : Nat) : (b.fail fl status d0 d1).tele.fits = b.tele.fits := by
  unfold Body.fail; (repeat' split) <;> simp
@[simp] theorem Body.fail_tele_push (b : Body) (fl : Flight) (status : Nat) (d0 : Nat) (d1 : Nat) : (b.fail fl status d0 d1).tele.push = b.tele.push := by
  unfold Body.fail; (repeat' split) <;> simp
@[simp] theorem Body.fail_tele_probe (b : Body) (fl : Flight) (status : Nat) (d0 : Nat) (d1 : Nat) : (b.fail fl status d0 d1).tele.probe = b.tele.probe := by
  unfold Body.fail; (repeat' split) <;> simp
@[simp] theorem Body.fail_tele_errMain (b : Body) (fl : Flight) (status : Nat) (d0 : Nat) (d1 : Nat) : (b.fail fl status d0 d1).tele.errMain = b.tele.errMain := by
  unfold Body.fail; (repeat' split) <;> simp
@[simp] theorem Body.clampCmd_ts (b : Body) (fl : Flight) (n : Nat) : (b.clampCmd fl n).ts = b.ts := by simp [Body.clampCmd]
@[simp] theorem Body.clampCmd_freeCtr (b : Body) (fl : Flight) (n : Nat) : (b.clampCmd fl n).freeCtr = b.freeCtr := by simp [Body.clampCmd]
@[simp] theorem Body.clampCmd_out (b : Body) (fl : Flight) (n : Nat) : (b.clampCmd fl n).out = b.out := by simp [Body.clampCmd]
@[simp] theorem Body.clampCmd_mem (b : Body) (fl : Flight) (n : Nat) : (b.clampCmd fl n).mem = b.mem := by simp [Body.clampCmd]
@[simp] theorem Body.clampCmd_bg (b : Body) (fl : Flight) (n : Nat) : (b.clampCmd fl n).bg = b.bg := by simp [Body.clampCmd]
@[simp] theorem Body.clampCmd_epoch (b : Body) (fl : Flight) (n : Nat) : (b.clampCmd fl n).epoch = b.epoch := by simp [Body.clampCmd]
@[simp] theorem Body.clampCmd_haze (b : Body) (fl : Flight) (n : Nat) : (b.clampCmd fl n).haze = b.haze := by simp [Body.clampCmd]
@[simp] theorem Body.clampCmd_framing (b : Body) (fl : Flight) (n : Nat) : (b.clampCmd fl n).framing = b.framing := by simp [Body.clampCmd]
@[simp] theorem Body.clampCmd_bw (b : Body) (fl : Flight) (n : Nat) : (b.clampCmd fl n).bw = b.bw := by simp [Body.clampCmd]
@[simp] theorem Body.clampCmd_hm (b : Body) (fl : Flight) (n : Nat) : (b.clampCmd fl n).hm = b.hm := by simp [Body.clampCmd]
@[simp] theorem Body.clampCmd_st (b : Body) (fl : Flight) (n : Nat) : (b.clampCmd fl n).st = b.st := by simp [Body.clampCmd]
@[simp] theorem Body.clampCmd_eth (b : Body) (fl : Flight) (n : Nat) : (b.clampCmd fl n).eth = b.eth := by simp [Body.clampCmd]
@[simp] theorem Body.clampCmd_ln (b : Body) (fl : Flight) (n : Nat) : (b.clampCmd fl n).ln = b.ln := by simp [Body.clampCmd]
@[simp] theorem Body.clampCmd_boot (b : Body) (fl : Flight) (n : Nat) : (b.clampCmd fl n).boot = b.boot := by simp [Body.clampCmd]
@[simp] theorem Body.clampCmd_unlock (b : Body) (fl : Flight) (n : Nat) : (b.clampCmd fl n).unlock = b.unlock := by simp [Body.clampCmd]
@[simp] theorem Body.clampCmd_power (b : Body) (fl : Flight) (n : Nat) : (b.clampCmd fl n).power = b.power := by simp [Body.clampCmd]
@[simp] theorem Body.clampCmd_tele (b : Body) (fl : Flight) (n : Nat) : (b.clampCmd fl n).tele = b.tele := by simp [Body.clampCmd]
@[simp] theorem Body.clampCmd_tiers (b : Body) (fl : Flight) (n : Nat) : (b.clampCmd fl n).tiers = b.tiers := by simp [Body.clampCmd]
@[simp] theorem Body.clampCmd_crates (b : Body) (fl : Flight) (n : Nat) : (b.clampCmd fl n).crates = b.crates := by simp [Body.clampCmd]
@[simp] theorem Body.clampCmd_rnd (b : Body) (fl : Flight) (n : Nat) : (b.clampCmd fl n).rnd = b.rnd := by simp [Body.clampCmd]
@[simp] theorem Body.clampCmd_berths (b : Body) (fl : Flight) (n : Nat) : (b.clampCmd fl n).berths = b.berths := by simp [Body.clampCmd]
@[simp] theorem Body.clampCmd_ops (b : Body) (fl : Flight) (n : Nat) : (b.clampCmd fl n).ops = b.ops := by simp [Body.clampCmd]
@[simp] theorem Body.clampCmd_jigs (b : Body) (fl : Flight) (n : Nat) : (b.clampCmd fl n).jigs = b.jigs := by simp [Body.clampCmd]
@[simp] theorem Body.clampCmd_ferry (b : Body) (fl : Flight) (n : Nat) : (b.clampCmd fl n).ferry = b.ferry := by simp [Body.clampCmd]
@[simp] theorem Body.syncIn_ts (b : Body) (wq : Fin 64) (slot : Nat) : (b.syncIn wq slot).ts = b.ts := by
  unfold Body.syncIn; (repeat' split) <;> simp
@[simp] theorem Body.syncIn_freeCtr (b : Body) (wq : Fin 64) (slot : Nat) : (b.syncIn wq slot).freeCtr = b.freeCtr := by
  unfold Body.syncIn; (repeat' split) <;> simp
@[simp] theorem Body.syncIn_out (b : Body) (wq : Fin 64) (slot : Nat) : (b.syncIn wq slot).out = b.out := by
  unfold Body.syncIn; (repeat' split) <;> simp
@[simp] theorem Body.syncIn_mem (b : Body) (wq : Fin 64) (slot : Nat) : (b.syncIn wq slot).mem = b.mem := by
  unfold Body.syncIn; (repeat' split) <;> simp
@[simp] theorem Body.syncIn_bg (b : Body) (wq : Fin 64) (slot : Nat) : (b.syncIn wq slot).bg = b.bg := by
  unfold Body.syncIn; (repeat' split) <;> simp
@[simp] theorem Body.syncIn_epoch (b : Body) (wq : Fin 64) (slot : Nat) : (b.syncIn wq slot).epoch = b.epoch := by
  unfold Body.syncIn; (repeat' split) <;> simp
@[simp] theorem Body.syncIn_haze (b : Body) (wq : Fin 64) (slot : Nat) : (b.syncIn wq slot).haze = b.haze := by
  unfold Body.syncIn; (repeat' split) <;> simp
@[simp] theorem Body.syncIn_framing (b : Body) (wq : Fin 64) (slot : Nat) : (b.syncIn wq slot).framing = b.framing := by
  unfold Body.syncIn; (repeat' split) <;> simp
@[simp] theorem Body.syncIn_bw (b : Body) (wq : Fin 64) (slot : Nat) : (b.syncIn wq slot).bw = b.bw := by
  unfold Body.syncIn; (repeat' split) <;> simp
@[simp] theorem Body.syncIn_hm (b : Body) (wq : Fin 64) (slot : Nat) : (b.syncIn wq slot).hm = b.hm := by
  unfold Body.syncIn; (repeat' split) <;> simp
@[simp] theorem Body.syncIn_st (b : Body) (wq : Fin 64) (slot : Nat) : (b.syncIn wq slot).st = b.st := by
  unfold Body.syncIn; (repeat' split) <;> simp
@[simp] theorem Body.syncIn_eth (b : Body) (wq : Fin 64) (slot : Nat) : (b.syncIn wq slot).eth = b.eth := by
  unfold Body.syncIn; (repeat' split) <;> simp
@[simp] theorem Body.syncIn_ln (b : Body) (wq : Fin 64) (slot : Nat) : (b.syncIn wq slot).ln = b.ln := by
  unfold Body.syncIn; (repeat' split) <;> simp
@[simp] theorem Body.syncIn_boot (b : Body) (wq : Fin 64) (slot : Nat) : (b.syncIn wq slot).boot = b.boot := by
  unfold Body.syncIn; (repeat' split) <;> simp
@[simp] theorem Body.syncIn_unlock (b : Body) (wq : Fin 64) (slot : Nat) : (b.syncIn wq slot).unlock = b.unlock := by
  unfold Body.syncIn; (repeat' split) <;> simp
@[simp] theorem Body.syncIn_power (b : Body) (wq : Fin 64) (slot : Nat) : (b.syncIn wq slot).power = b.power := by
  unfold Body.syncIn; (repeat' split) <;> simp
@[simp] theorem Body.syncIn_tele (b : Body) (wq : Fin 64) (slot : Nat) : (b.syncIn wq slot).tele = b.tele := by
  unfold Body.syncIn; (repeat' split) <;> simp
@[simp] theorem Body.syncIn_tiers (b : Body) (wq : Fin 64) (slot : Nat) : (b.syncIn wq slot).tiers = b.tiers := by
  unfold Body.syncIn; (repeat' split) <;> simp
@[simp] theorem Body.syncIn_crates (b : Body) (wq : Fin 64) (slot : Nat) : (b.syncIn wq slot).crates = b.crates := by
  unfold Body.syncIn; (repeat' split) <;> simp
@[simp] theorem Body.syncIn_rnd (b : Body) (wq : Fin 64) (slot : Nat) : (b.syncIn wq slot).rnd = b.rnd := by
  unfold Body.syncIn; (repeat' split) <;> simp
@[simp] theorem Body.syncIn_berths (b : Body) (wq : Fin 64) (slot : Nat) : (b.syncIn wq slot).berths = b.berths := by
  unfold Body.syncIn; (repeat' split) <;> simp
@[simp] theorem Body.syncIn_ops (b : Body) (wq : Fin 64) (slot : Nat) : (b.syncIn wq slot).ops = b.ops := by
  unfold Body.syncIn; (repeat' split) <;> simp
@[simp] theorem Body.syncIn_jigs (b : Body) (wq : Fin 64) (slot : Nat) : (b.syncIn wq slot).jigs = b.jigs := by
  unfold Body.syncIn; (repeat' split) <;> simp
@[simp] theorem Body.syncIn_ferry (b : Body) (wq : Fin 64) (slot : Nat) : (b.syncIn wq slot).ferry = b.ferry := by
  unfold Body.syncIn; (repeat' split) <;> simp
@[simp] theorem Body.start_ts (b : Body) (fl : Flight) : (b.start fl).ts = b.ts := rfl
@[simp] theorem Body.start_freeCtr (b : Body) (fl : Flight) : (b.start fl).freeCtr = b.freeCtr := rfl
@[simp] theorem Body.start_out (b : Body) (fl : Flight) : (b.start fl).out = b.out := rfl
@[simp] theorem Body.start_regs (b : Body) (fl : Flight) : (b.start fl).regs = b.regs := rfl
@[simp] theorem Body.start_mem (b : Body) (fl : Flight) : (b.start fl).mem = b.mem := rfl
@[simp] theorem Body.start_bg (b : Body) (fl : Flight) : (b.start fl).bg = b.bg := rfl
@[simp] theorem Body.start_epoch (b : Body) (fl : Flight) : (b.start fl).epoch = b.epoch := rfl
@[simp] theorem Body.start_haze (b : Body) (fl : Flight) : (b.start fl).haze = b.haze := rfl
@[simp] theorem Body.start_framing (b : Body) (fl : Flight) : (b.start fl).framing = b.framing := rfl
@[simp] theorem Body.start_bw (b : Body) (fl : Flight) : (b.start fl).bw = b.bw := rfl
@[simp] theorem Body.start_st (b : Body) (fl : Flight) : (b.start fl).st = b.st := rfl
@[simp] theorem Body.start_eth (b : Body) (fl : Flight) : (b.start fl).eth = b.eth := rfl
@[simp] theorem Body.start_ln (b : Body) (fl : Flight) : (b.start fl).ln = b.ln := rfl
@[simp] theorem Body.start_boot (b : Body) (fl : Flight) : (b.start fl).boot = b.boot := rfl
@[simp] theorem Body.start_unlock (b : Body) (fl : Flight) : (b.start fl).unlock = b.unlock := rfl
@[simp] theorem Body.start_power (b : Body) (fl : Flight) : (b.start fl).power = b.power := rfl
@[simp] theorem Body.start_tele (b : Body) (fl : Flight) : (b.start fl).tele = b.tele := rfl
@[simp] theorem Body.start_tiers (b : Body) (fl : Flight) : (b.start fl).tiers = b.tiers := rfl
@[simp] theorem Body.start_crates (b : Body) (fl : Flight) : (b.start fl).crates = b.crates := rfl
@[simp] theorem Body.start_rnd (b : Body) (fl : Flight) : (b.start fl).rnd = b.rnd := rfl
@[simp] theorem Body.start_berths (b : Body) (fl : Flight) : (b.start fl).berths = b.berths := rfl
@[simp] theorem Body.start_ops (b : Body) (fl : Flight) : (b.start fl).ops = b.ops := rfl
@[simp] theorem Body.start_jigs (b : Body) (fl : Flight) : (b.start fl).jigs = b.jigs := rfl
@[simp] theorem Body.start_ferry (b : Body) (fl : Flight) : (b.start fl).ferry = b.ferry := rfl
@[simp] theorem Body.start_hm_nextUid (b : Body) (fl : Flight) : (b.start fl).hm.nextUid = b.hm.nextUid := rfl
@[simp] theorem Body.start_hm_ended (b : Body) (fl : Flight) : (b.start fl).hm.ended = b.hm.ended := rfl
@[simp] theorem Body.start_hm_rrUsed (b : Body) (fl : Flight) : (b.start fl).hm.rrUsed = b.hm.rrUsed := rfl
@[simp] theorem Body.start_hm_rrLast (b : Body) (fl : Flight) : (b.start fl).hm.rrLast = b.hm.rrLast := rfl
@[simp] theorem Body.start_hm_stepLast (b : Body) (fl : Flight) : (b.start fl).hm.stepLast = b.hm.stepLast := rfl
@[simp] theorem Body.start_hm_skips (b : Body) (fl : Flight) : (b.start fl).hm.skips = b.hm.skips := rfl
@[simp] theorem Body.start_hm_ctxs (b : Body) (fl : Flight) : (b.start fl).hm.ctxs = b.hm.ctxs := rfl
@[simp] theorem Body.start_hm_sregs (b : Body) (fl : Flight) : (b.start fl).hm.sregs = b.hm.sregs := rfl
@[simp] theorem Body.start_hm_batch (b : Body) (fl : Flight) : (b.start fl).hm.batch = b.hm.batch := rfl
@[simp] theorem Body.start_hm_chains (b : Body) (fl : Flight) : (b.start fl).hm.chains = b.hm.chains := rfl
@[simp] theorem Body.start_hm_waits (b : Body) (fl : Flight) : (b.start fl).hm.waits = b.hm.waits := rfl
@[simp] theorem Body.start_hm_returned (b : Body) (fl : Flight) : (b.start fl).hm.returned = b.hm.returned := rfl
@[simp] theorem Body.start_hm_halting (b : Body) (fl : Flight) : (b.start fl).hm.halting = b.hm.halting := rfl
@[simp] theorem Body.start_hm_sramDead (b : Body) (fl : Flight) : (b.start fl).hm.sramDead = b.hm.sramDead := rfl
@[simp] theorem Body.keep_ts (b : Body) (fl : Flight) (p : List Nat) : (b.keep fl p).ts = b.ts := rfl
@[simp] theorem Body.keep_freeCtr (b : Body) (fl : Flight) (p : List Nat) : (b.keep fl p).freeCtr = b.freeCtr := rfl
@[simp] theorem Body.keep_out (b : Body) (fl : Flight) (p : List Nat) : (b.keep fl p).out = b.out := rfl
@[simp] theorem Body.keep_regs (b : Body) (fl : Flight) (p : List Nat) : (b.keep fl p).regs = b.regs := rfl
@[simp] theorem Body.keep_mem (b : Body) (fl : Flight) (p : List Nat) : (b.keep fl p).mem = b.mem := rfl
@[simp] theorem Body.keep_bg (b : Body) (fl : Flight) (p : List Nat) : (b.keep fl p).bg = b.bg := rfl
@[simp] theorem Body.keep_epoch (b : Body) (fl : Flight) (p : List Nat) : (b.keep fl p).epoch = b.epoch := rfl
@[simp] theorem Body.keep_haze (b : Body) (fl : Flight) (p : List Nat) : (b.keep fl p).haze = b.haze := rfl
@[simp] theorem Body.keep_framing (b : Body) (fl : Flight) (p : List Nat) : (b.keep fl p).framing = b.framing := rfl
@[simp] theorem Body.keep_bw (b : Body) (fl : Flight) (p : List Nat) : (b.keep fl p).bw = b.bw := rfl
@[simp] theorem Body.keep_st (b : Body) (fl : Flight) (p : List Nat) : (b.keep fl p).st = b.st := rfl
@[simp] theorem Body.keep_eth (b : Body) (fl : Flight) (p : List Nat) : (b.keep fl p).eth = b.eth := rfl
@[simp] theorem Body.keep_ln (b : Body) (fl : Flight) (p : List Nat) : (b.keep fl p).ln = b.ln := rfl
@[simp] theorem Body.keep_boot (b : Body) (fl : Flight) (p : List Nat) : (b.keep fl p).boot = b.boot := rfl
@[simp] theorem Body.keep_unlock (b : Body) (fl : Flight) (p : List Nat) : (b.keep fl p).unlock = b.unlock := rfl
@[simp] theorem Body.keep_power (b : Body) (fl : Flight) (p : List Nat) : (b.keep fl p).power = b.power := rfl
@[simp] theorem Body.keep_tele (b : Body) (fl : Flight) (p : List Nat) : (b.keep fl p).tele = b.tele := rfl
@[simp] theorem Body.keep_tiers (b : Body) (fl : Flight) (p : List Nat) : (b.keep fl p).tiers = b.tiers := rfl
@[simp] theorem Body.keep_crates (b : Body) (fl : Flight) (p : List Nat) : (b.keep fl p).crates = b.crates := rfl
@[simp] theorem Body.keep_rnd (b : Body) (fl : Flight) (p : List Nat) : (b.keep fl p).rnd = b.rnd := rfl
@[simp] theorem Body.keep_berths (b : Body) (fl : Flight) (p : List Nat) : (b.keep fl p).berths = b.berths := rfl
@[simp] theorem Body.keep_ops (b : Body) (fl : Flight) (p : List Nat) : (b.keep fl p).ops = b.ops := rfl
@[simp] theorem Body.keep_jigs (b : Body) (fl : Flight) (p : List Nat) : (b.keep fl p).jigs = b.jigs := rfl
@[simp] theorem Body.keep_ferry (b : Body) (fl : Flight) (p : List Nat) : (b.keep fl p).ferry = b.ferry := rfl
@[simp] theorem Body.keep_hm_nextUid (b : Body) (fl : Flight) (p : List Nat) : (b.keep fl p).hm.nextUid = b.hm.nextUid := rfl
@[simp] theorem Body.keep_hm_ended (b : Body) (fl : Flight) (p : List Nat) : (b.keep fl p).hm.ended = b.hm.ended := rfl
@[simp] theorem Body.keep_hm_rrUsed (b : Body) (fl : Flight) (p : List Nat) : (b.keep fl p).hm.rrUsed = b.hm.rrUsed := rfl
@[simp] theorem Body.keep_hm_rrLast (b : Body) (fl : Flight) (p : List Nat) : (b.keep fl p).hm.rrLast = b.hm.rrLast := rfl
@[simp] theorem Body.keep_hm_stepLast (b : Body) (fl : Flight) (p : List Nat) : (b.keep fl p).hm.stepLast = b.hm.stepLast := rfl
@[simp] theorem Body.keep_hm_skips (b : Body) (fl : Flight) (p : List Nat) : (b.keep fl p).hm.skips = b.hm.skips := rfl
@[simp] theorem Body.keep_hm_ctxs (b : Body) (fl : Flight) (p : List Nat) : (b.keep fl p).hm.ctxs = b.hm.ctxs := rfl
@[simp] theorem Body.keep_hm_sregs (b : Body) (fl : Flight) (p : List Nat) : (b.keep fl p).hm.sregs = b.hm.sregs := rfl
@[simp] theorem Body.keep_hm_batch (b : Body) (fl : Flight) (p : List Nat) : (b.keep fl p).hm.batch = b.hm.batch := rfl
@[simp] theorem Body.keep_hm_chains (b : Body) (fl : Flight) (p : List Nat) : (b.keep fl p).hm.chains = b.hm.chains := rfl
@[simp] theorem Body.keep_hm_waits (b : Body) (fl : Flight) (p : List Nat) : (b.keep fl p).hm.waits = b.hm.waits := rfl
@[simp] theorem Body.keep_hm_returned (b : Body) (fl : Flight) (p : List Nat) : (b.keep fl p).hm.returned = b.hm.returned := rfl
@[simp] theorem Body.keep_hm_halting (b : Body) (fl : Flight) (p : List Nat) : (b.keep fl p).hm.halting = b.hm.halting := rfl
@[simp] theorem Body.keep_hm_sramDead (b : Body) (fl : Flight) (p : List Nat) : (b.keep fl p).hm.sramDead = b.hm.sramDead := rfl
@[simp] theorem Body.launch_ts (b : Body) (c : Cmd) (opc : Nat) (slot : Nat) (priv : Bool) (inStep : Bool) : (b.launch c opc slot priv inStep).1.ts = b.ts := by
  unfold Body.launch; simp
@[simp] theorem Body.launch_freeCtr (b : Body) (c : Cmd) (opc : Nat) (slot : Nat) (priv : Bool) (inStep : Bool) : (b.launch c opc slot priv inStep).1.freeCtr = b.freeCtr := by
  unfold Body.launch; simp
@[simp] theorem Body.launch_out (b : Body) (c : Cmd) (opc : Nat) (slot : Nat) (priv : Bool) (inStep : Bool) : (b.launch c opc slot priv inStep).1.out = b.out := by
  unfold Body.launch; simp
@[simp] theorem Body.launch_mem (b : Body) (c : Cmd) (opc : Nat) (slot : Nat) (priv : Bool) (inStep : Bool) : (b.launch c opc slot priv inStep).1.mem = b.mem := by
  unfold Body.launch; simp
@[simp] theorem Body.launch_bg (b : Body) (c : Cmd) (opc : Nat) (slot : Nat) (priv : Bool) (inStep : Bool) : (b.launch c opc slot priv inStep).1.bg = b.bg := by
  unfold Body.launch; simp
@[simp] theorem Body.launch_epoch (b : Body) (c : Cmd) (opc : Nat) (slot : Nat) (priv : Bool) (inStep : Bool) : (b.launch c opc slot priv inStep).1.epoch = b.epoch := by
  unfold Body.launch; simp
@[simp] theorem Body.launch_haze (b : Body) (c : Cmd) (opc : Nat) (slot : Nat) (priv : Bool) (inStep : Bool) : (b.launch c opc slot priv inStep).1.haze = b.haze := by
  unfold Body.launch; simp
@[simp] theorem Body.launch_framing (b : Body) (c : Cmd) (opc : Nat) (slot : Nat) (priv : Bool) (inStep : Bool) : (b.launch c opc slot priv inStep).1.framing = b.framing := by
  unfold Body.launch; simp
@[simp] theorem Body.launch_bw (b : Body) (c : Cmd) (opc : Nat) (slot : Nat) (priv : Bool) (inStep : Bool) : (b.launch c opc slot priv inStep).1.bw = b.bw := by
  unfold Body.launch; simp
@[simp] theorem Body.launch_st (b : Body) (c : Cmd) (opc : Nat) (slot : Nat) (priv : Bool) (inStep : Bool) : (b.launch c opc slot priv inStep).1.st = b.st := by
  unfold Body.launch; simp
@[simp] theorem Body.launch_eth (b : Body) (c : Cmd) (opc : Nat) (slot : Nat) (priv : Bool) (inStep : Bool) : (b.launch c opc slot priv inStep).1.eth = b.eth := by
  unfold Body.launch; simp
@[simp] theorem Body.launch_ln (b : Body) (c : Cmd) (opc : Nat) (slot : Nat) (priv : Bool) (inStep : Bool) : (b.launch c opc slot priv inStep).1.ln = b.ln := by
  unfold Body.launch; simp
@[simp] theorem Body.launch_boot (b : Body) (c : Cmd) (opc : Nat) (slot : Nat) (priv : Bool) (inStep : Bool) : (b.launch c opc slot priv inStep).1.boot = b.boot := by
  unfold Body.launch; simp
@[simp] theorem Body.launch_unlock (b : Body) (c : Cmd) (opc : Nat) (slot : Nat) (priv : Bool) (inStep : Bool) : (b.launch c opc slot priv inStep).1.unlock = b.unlock := by
  unfold Body.launch; simp
@[simp] theorem Body.launch_power (b : Body) (c : Cmd) (opc : Nat) (slot : Nat) (priv : Bool) (inStep : Bool) : (b.launch c opc slot priv inStep).1.power = b.power := by
  unfold Body.launch; simp
@[simp] theorem Body.launch_tiers (b : Body) (c : Cmd) (opc : Nat) (slot : Nat) (priv : Bool) (inStep : Bool) : (b.launch c opc slot priv inStep).1.tiers = b.tiers := by
  unfold Body.launch; simp
@[simp] theorem Body.launch_crates (b : Body) (c : Cmd) (opc : Nat) (slot : Nat) (priv : Bool) (inStep : Bool) : (b.launch c opc slot priv inStep).1.crates = b.crates := by
  unfold Body.launch; simp
@[simp] theorem Body.launch_rnd (b : Body) (c : Cmd) (opc : Nat) (slot : Nat) (priv : Bool) (inStep : Bool) : (b.launch c opc slot priv inStep).1.rnd = b.rnd := by
  unfold Body.launch; simp
@[simp] theorem Body.launch_berths (b : Body) (c : Cmd) (opc : Nat) (slot : Nat) (priv : Bool) (inStep : Bool) : (b.launch c opc slot priv inStep).1.berths = b.berths := by
  unfold Body.launch; simp
@[simp] theorem Body.launch_ops (b : Body) (c : Cmd) (opc : Nat) (slot : Nat) (priv : Bool) (inStep : Bool) : (b.launch c opc slot priv inStep).1.ops = b.ops := by
  unfold Body.launch; simp
@[simp] theorem Body.launch_jigs (b : Body) (c : Cmd) (opc : Nat) (slot : Nat) (priv : Bool) (inStep : Bool) : (b.launch c opc slot priv inStep).1.jigs = b.jigs := by
  unfold Body.launch; simp
@[simp] theorem Body.launch_ferry (b : Body) (c : Cmd) (opc : Nat) (slot : Nat) (priv : Bool) (inStep : Bool) : (b.launch c opc slot priv inStep).1.ferry = b.ferry := by
  unfold Body.launch; simp
@[simp] theorem Body.launch_hm_ended (b : Body) (c : Cmd) (opc : Nat) (slot : Nat) (priv : Bool) (inStep : Bool) : (b.launch c opc slot priv inStep).1.hm.ended = b.hm.ended := by
  unfold Body.launch; simp
@[simp] theorem Body.launch_hm_rrUsed (b : Body) (c : Cmd) (opc : Nat) (slot : Nat) (priv : Bool) (inStep : Bool) : (b.launch c opc slot priv inStep).1.hm.rrUsed = b.hm.rrUsed := by
  unfold Body.launch; simp
@[simp] theorem Body.launch_hm_rrLast (b : Body) (c : Cmd) (opc : Nat) (slot : Nat) (priv : Bool) (inStep : Bool) : (b.launch c opc slot priv inStep).1.hm.rrLast = b.hm.rrLast := by
  unfold Body.launch; simp
@[simp] theorem Body.launch_hm_stepLast (b : Body) (c : Cmd) (opc : Nat) (slot : Nat) (priv : Bool) (inStep : Bool) : (b.launch c opc slot priv inStep).1.hm.stepLast = b.hm.stepLast := by
  unfold Body.launch; simp
@[simp] theorem Body.launch_hm_skips (b : Body) (c : Cmd) (opc : Nat) (slot : Nat) (priv : Bool) (inStep : Bool) : (b.launch c opc slot priv inStep).1.hm.skips = b.hm.skips := by
  unfold Body.launch; simp
@[simp] theorem Body.launch_hm_ctxs (b : Body) (c : Cmd) (opc : Nat) (slot : Nat) (priv : Bool) (inStep : Bool) : (b.launch c opc slot priv inStep).1.hm.ctxs = b.hm.ctxs := by
  unfold Body.launch; simp
@[simp] theorem Body.launch_hm_sregs (b : Body) (c : Cmd) (opc : Nat) (slot : Nat) (priv : Bool) (inStep : Bool) : (b.launch c opc slot priv inStep).1.hm.sregs = b.hm.sregs := by
  unfold Body.launch; simp
@[simp] theorem Body.launch_hm_batch (b : Body) (c : Cmd) (opc : Nat) (slot : Nat) (priv : Bool) (inStep : Bool) : (b.launch c opc slot priv inStep).1.hm.batch = b.hm.batch := by
  unfold Body.launch; simp
@[simp] theorem Body.launch_hm_chains (b : Body) (c : Cmd) (opc : Nat) (slot : Nat) (priv : Bool) (inStep : Bool) : (b.launch c opc slot priv inStep).1.hm.chains = b.hm.chains := by
  unfold Body.launch; simp
@[simp] theorem Body.launch_hm_waits (b : Body) (c : Cmd) (opc : Nat) (slot : Nat) (priv : Bool) (inStep : Bool) : (b.launch c opc slot priv inStep).1.hm.waits = b.hm.waits := by
  unfold Body.launch; simp
@[simp] theorem Body.launch_hm_returned (b : Body) (c : Cmd) (opc : Nat) (slot : Nat) (priv : Bool) (inStep : Bool) : (b.launch c opc slot priv inStep).1.hm.returned = b.hm.returned := by
  unfold Body.launch; simp
@[simp] theorem Body.launch_hm_halting (b : Body) (c : Cmd) (opc : Nat) (slot : Nat) (priv : Bool) (inStep : Bool) : (b.launch c opc slot priv inStep).1.hm.halting = b.hm.halting := by
  unfold Body.launch; simp
@[simp] theorem Body.launch_hm_sramDead (b : Body) (c : Cmd) (opc : Nat) (slot : Nat) (priv : Bool) (inStep : Bool) : (b.launch c opc slot priv inStep).1.hm.sramDead = b.hm.sramDead := by
  unfold Body.launch; simp
@[simp] theorem Body.launch_tele_fits (b : Body) (c : Cmd) (opc : Nat) (slot : Nat) (priv : Bool) (inStep : Bool) : (b.launch c opc slot priv inStep).1.tele.fits = b.tele.fits := by
  unfold Body.launch; simp
@[simp] theorem Body.launch_tele_push (b : Body) (c : Cmd) (opc : Nat) (slot : Nat) (priv : Bool) (inStep : Bool) : (b.launch c opc slot priv inStep).1.tele.push = b.tele.push := by
  unfold Body.launch; simp
@[simp] theorem Body.launch_tele_probe (b : Body) (c : Cmd) (opc : Nat) (slot : Nat) (priv : Bool) (inStep : Bool) : (b.launch c opc slot priv inStep).1.tele.probe = b.tele.probe := by
  unfold Body.launch; simp
@[simp] theorem Body.launch_tele_dbg (b : Body) (c : Cmd) (opc : Nat) (slot : Nat) (priv : Bool) (inStep : Bool) : (b.launch c opc slot priv inStep).1.tele.dbg = b.tele.dbg := by
  unfold Body.launch; simp
@[simp] theorem Body.launch_tele_errPend (b : Body) (c : Cmd) (opc : Nat) (slot : Nat) (priv : Bool) (inStep : Bool) : (b.launch c opc slot priv inStep).1.tele.errPend = b.tele.errPend := by
  unfold Body.launch; simp
@[simp] theorem Body.launch_tele_errMain (b : Body) (c : Cmd) (opc : Nat) (slot : Nat) (priv : Bool) (inStep : Bool) : (b.launch c opc slot priv inStep).1.tele.errMain = b.tele.errMain := by
  unfold Body.launch; simp
@[simp] theorem Body.launch_tele_errWatch (b : Body) (c : Cmd) (opc : Nat) (slot : Nat) (priv : Bool) (inStep : Bool) : (b.launch c opc slot priv inStep).1.tele.errWatch = b.tele.errWatch := by
  unfold Body.launch; simp
@[simp] theorem Body.launch_tele_watchSeq (b : Body) (c : Cmd) (opc : Nat) (slot : Nat) (priv : Bool) (inStep : Bool) : (b.launch c opc slot priv inStep).1.tele.watchSeq = b.tele.watchSeq := by
  unfold Body.launch; simp
@[simp] theorem Body.setSluice_ts (b : Body) (i : Nat) (t : Nat) (s : Sluice) : (b.setSluice i t s).ts = b.ts := rfl
@[simp] theorem Body.setSluice_freeCtr (b : Body) (i : Nat) (t : Nat) (s : Sluice) : (b.setSluice i t s).freeCtr = b.freeCtr := rfl
@[simp] theorem Body.setSluice_out (b : Body) (i : Nat) (t : Nat) (s : Sluice) : (b.setSluice i t s).out = b.out := rfl
@[simp] theorem Body.setSluice_regs (b : Body) (i : Nat) (t : Nat) (s : Sluice) : (b.setSluice i t s).regs = b.regs := rfl
@[simp] theorem Body.setSluice_mem (b : Body) (i : Nat) (t : Nat) (s : Sluice) : (b.setSluice i t s).mem = b.mem := rfl
@[simp] theorem Body.setSluice_bg (b : Body) (i : Nat) (t : Nat) (s : Sluice) : (b.setSluice i t s).bg = b.bg := rfl
@[simp] theorem Body.setSluice_epoch (b : Body) (i : Nat) (t : Nat) (s : Sluice) : (b.setSluice i t s).epoch = b.epoch := rfl
@[simp] theorem Body.setSluice_haze (b : Body) (i : Nat) (t : Nat) (s : Sluice) : (b.setSluice i t s).haze = b.haze := rfl
@[simp] theorem Body.setSluice_framing (b : Body) (i : Nat) (t : Nat) (s : Sluice) : (b.setSluice i t s).framing = b.framing := rfl
@[simp] theorem Body.setSluice_bw (b : Body) (i : Nat) (t : Nat) (s : Sluice) : (b.setSluice i t s).bw = b.bw := rfl
@[simp] theorem Body.setSluice_hm (b : Body) (i : Nat) (t : Nat) (s : Sluice) : (b.setSluice i t s).hm = b.hm := rfl
@[simp] theorem Body.setSluice_st (b : Body) (i : Nat) (t : Nat) (s : Sluice) : (b.setSluice i t s).st = b.st := rfl
@[simp] theorem Body.setSluice_eth (b : Body) (i : Nat) (t : Nat) (s : Sluice) : (b.setSluice i t s).eth = b.eth := rfl
@[simp] theorem Body.setSluice_ln (b : Body) (i : Nat) (t : Nat) (s : Sluice) : (b.setSluice i t s).ln = b.ln := rfl
@[simp] theorem Body.setSluice_boot (b : Body) (i : Nat) (t : Nat) (s : Sluice) : (b.setSluice i t s).boot = b.boot := rfl
@[simp] theorem Body.setSluice_unlock (b : Body) (i : Nat) (t : Nat) (s : Sluice) : (b.setSluice i t s).unlock = b.unlock := rfl
@[simp] theorem Body.setSluice_power (b : Body) (i : Nat) (t : Nat) (s : Sluice) : (b.setSluice i t s).power = b.power := rfl
@[simp] theorem Body.setSluice_tele (b : Body) (i : Nat) (t : Nat) (s : Sluice) : (b.setSluice i t s).tele = b.tele := rfl
@[simp] theorem Body.setSluice_crates (b : Body) (i : Nat) (t : Nat) (s : Sluice) : (b.setSluice i t s).crates = b.crates := rfl
@[simp] theorem Body.setSluice_rnd (b : Body) (i : Nat) (t : Nat) (s : Sluice) : (b.setSluice i t s).rnd = b.rnd := rfl
@[simp] theorem Body.setSluice_berths (b : Body) (i : Nat) (t : Nat) (s : Sluice) : (b.setSluice i t s).berths = b.berths := rfl
@[simp] theorem Body.setSluice_ops (b : Body) (i : Nat) (t : Nat) (s : Sluice) : (b.setSluice i t s).ops = b.ops := rfl
@[simp] theorem Body.setSluice_jigs (b : Body) (i : Nat) (t : Nat) (s : Sluice) : (b.setSluice i t s).jigs = b.jigs := rfl
@[simp] theorem Body.setSluice_ferry (b : Body) (i : Nat) (t : Nat) (s : Sluice) : (b.setSluice i t s).ferry = b.ferry := rfl
@[simp] theorem Body.charge_ts (b : Body) (i : Nat) (t : Nat) (p : Nat) (n : Nat) : (b.charge i t p n).ts = b.ts := by
  unfold Body.charge; simp only []; split
  · rfl
  · split <;> simp
@[simp] theorem Body.charge_freeCtr (b : Body) (i : Nat) (t : Nat) (p : Nat) (n : Nat) : (b.charge i t p n).freeCtr = b.freeCtr := by
  unfold Body.charge; simp only []; split
  · rfl
  · split <;> simp
@[simp] theorem Body.charge_out (b : Body) (i : Nat) (t : Nat) (p : Nat) (n : Nat) : (b.charge i t p n).out = b.out := by
  unfold Body.charge; simp only []; split
  · rfl
  · split <;> simp
@[simp] theorem Body.charge_mem (b : Body) (i : Nat) (t : Nat) (p : Nat) (n : Nat) : (b.charge i t p n).mem = b.mem := by
  unfold Body.charge; simp only []; split
  · rfl
  · split <;> simp
@[simp] theorem Body.charge_bg (b : Body) (i : Nat) (t : Nat) (p : Nat) (n : Nat) : (b.charge i t p n).bg = b.bg := by
  unfold Body.charge; simp only []; split
  · rfl
  · split <;> simp
@[simp] theorem Body.charge_epoch (b : Body) (i : Nat) (t : Nat) (p : Nat) (n : Nat) : (b.charge i t p n).epoch = b.epoch := by
  unfold Body.charge; simp only []; split
  · rfl
  · split <;> simp
@[simp] theorem Body.charge_haze (b : Body) (i : Nat) (t : Nat) (p : Nat) (n : Nat) : (b.charge i t p n).haze = b.haze := by
  unfold Body.charge; simp only []; split
  · rfl
  · split <;> simp
@[simp] theorem Body.charge_framing (b : Body) (i : Nat) (t : Nat) (p : Nat) (n : Nat) : (b.charge i t p n).framing = b.framing := by
  unfold Body.charge; simp only []; split
  · rfl
  · split <;> simp
@[simp] theorem Body.charge_bw (b : Body) (i : Nat) (t : Nat) (p : Nat) (n : Nat) : (b.charge i t p n).bw = b.bw := by
  unfold Body.charge; simp only []; split
  · rfl
  · split <;> simp
@[simp] theorem Body.charge_hm (b : Body) (i : Nat) (t : Nat) (p : Nat) (n : Nat) : (b.charge i t p n).hm = b.hm := by
  unfold Body.charge; simp only []; split
  · rfl
  · split <;> simp
@[simp] theorem Body.charge_st (b : Body) (i : Nat) (t : Nat) (p : Nat) (n : Nat) : (b.charge i t p n).st = b.st := by
  unfold Body.charge; simp only []; split
  · rfl
  · split <;> simp
@[simp] theorem Body.charge_eth (b : Body) (i : Nat) (t : Nat) (p : Nat) (n : Nat) : (b.charge i t p n).eth = b.eth := by
  unfold Body.charge; simp only []; split
  · rfl
  · split <;> simp
@[simp] theorem Body.charge_ln (b : Body) (i : Nat) (t : Nat) (p : Nat) (n : Nat) : (b.charge i t p n).ln = b.ln := by
  unfold Body.charge; simp only []; split
  · rfl
  · split <;> simp
@[simp] theorem Body.charge_boot (b : Body) (i : Nat) (t : Nat) (p : Nat) (n : Nat) : (b.charge i t p n).boot = b.boot := by
  unfold Body.charge; simp only []; split
  · rfl
  · split <;> simp
@[simp] theorem Body.charge_unlock (b : Body) (i : Nat) (t : Nat) (p : Nat) (n : Nat) : (b.charge i t p n).unlock = b.unlock := by
  unfold Body.charge; simp only []; split
  · rfl
  · split <;> simp
@[simp] theorem Body.charge_power (b : Body) (i : Nat) (t : Nat) (p : Nat) (n : Nat) : (b.charge i t p n).power = b.power := by
  unfold Body.charge; simp only []; split
  · rfl
  · split <;> simp
@[simp] theorem Body.charge_tele (b : Body) (i : Nat) (t : Nat) (p : Nat) (n : Nat) : (b.charge i t p n).tele = b.tele := by
  unfold Body.charge; simp only []; split
  · rfl
  · split <;> simp
@[simp] theorem Body.charge_crates (b : Body) (i : Nat) (t : Nat) (p : Nat) (n : Nat) : (b.charge i t p n).crates = b.crates := by
  unfold Body.charge; simp only []; split
  · rfl
  · split <;> simp
@[simp] theorem Body.charge_rnd (b : Body) (i : Nat) (t : Nat) (p : Nat) (n : Nat) : (b.charge i t p n).rnd = b.rnd := by
  unfold Body.charge; simp only []; split
  · rfl
  · split <;> simp
@[simp] theorem Body.charge_berths (b : Body) (i : Nat) (t : Nat) (p : Nat) (n : Nat) : (b.charge i t p n).berths = b.berths := by
  unfold Body.charge; simp only []; split
  · rfl
  · split <;> simp
@[simp] theorem Body.charge_ops (b : Body) (i : Nat) (t : Nat) (p : Nat) (n : Nat) : (b.charge i t p n).ops = b.ops := by
  unfold Body.charge; simp only []; split
  · rfl
  · split <;> simp
@[simp] theorem Body.charge_jigs (b : Body) (i : Nat) (t : Nat) (p : Nat) (n : Nat) : (b.charge i t p n).jigs = b.jigs := by
  unfold Body.charge; simp only []; split
  · rfl
  · split <;> simp
@[simp] theorem Body.charge_ferry (b : Body) (i : Nat) (t : Nat) (p : Nat) (n : Nat) : (b.charge i t p n).ferry = b.ferry := by
  unfold Body.charge; simp only []; split
  · rfl
  · split <;> simp
@[simp] theorem Body.tierTraffic_ts (b : Body) (slot : Nat) (a : Nat) (n : Nat) (write : Bool) (point : Nat) : (b.tierTraffic slot a n write point).ts = b.ts := by
  unfold Body.tierTraffic; (repeat' split) <;> simp
@[simp] theorem Body.tierTraffic_freeCtr (b : Body) (slot : Nat) (a : Nat) (n : Nat) (write : Bool) (point : Nat) : (b.tierTraffic slot a n write point).freeCtr = b.freeCtr := by
  unfold Body.tierTraffic; (repeat' split) <;> simp
@[simp] theorem Body.tierTraffic_out (b : Body) (slot : Nat) (a : Nat) (n : Nat) (write : Bool) (point : Nat) : (b.tierTraffic slot a n write point).out = b.out := by
  unfold Body.tierTraffic; (repeat' split) <;> simp
@[simp] theorem Body.tierTraffic_mem (b : Body) (slot : Nat) (a : Nat) (n : Nat) (write : Bool) (point : Nat) : (b.tierTraffic slot a n write point).mem = b.mem := by
  unfold Body.tierTraffic; (repeat' split) <;> simp
@[simp] theorem Body.tierTraffic_bg (b : Body) (slot : Nat) (a : Nat) (n : Nat) (write : Bool) (point : Nat) : (b.tierTraffic slot a n write point).bg = b.bg := by
  unfold Body.tierTraffic; (repeat' split) <;> simp
@[simp] theorem Body.tierTraffic_epoch (b : Body) (slot : Nat) (a : Nat) (n : Nat) (write : Bool) (point : Nat) : (b.tierTraffic slot a n write point).epoch = b.epoch := by
  unfold Body.tierTraffic; (repeat' split) <;> simp
@[simp] theorem Body.tierTraffic_haze (b : Body) (slot : Nat) (a : Nat) (n : Nat) (write : Bool) (point : Nat) : (b.tierTraffic slot a n write point).haze = b.haze := by
  unfold Body.tierTraffic; (repeat' split) <;> simp
@[simp] theorem Body.tierTraffic_framing (b : Body) (slot : Nat) (a : Nat) (n : Nat) (write : Bool) (point : Nat) : (b.tierTraffic slot a n write point).framing = b.framing := by
  unfold Body.tierTraffic; (repeat' split) <;> simp
@[simp] theorem Body.tierTraffic_bw (b : Body) (slot : Nat) (a : Nat) (n : Nat) (write : Bool) (point : Nat) : (b.tierTraffic slot a n write point).bw = b.bw := by
  unfold Body.tierTraffic; (repeat' split) <;> simp
@[simp] theorem Body.tierTraffic_hm (b : Body) (slot : Nat) (a : Nat) (n : Nat) (write : Bool) (point : Nat) : (b.tierTraffic slot a n write point).hm = b.hm := by
  unfold Body.tierTraffic; (repeat' split) <;> simp
@[simp] theorem Body.tierTraffic_st (b : Body) (slot : Nat) (a : Nat) (n : Nat) (write : Bool) (point : Nat) : (b.tierTraffic slot a n write point).st = b.st := by
  unfold Body.tierTraffic; (repeat' split) <;> simp
@[simp] theorem Body.tierTraffic_eth (b : Body) (slot : Nat) (a : Nat) (n : Nat) (write : Bool) (point : Nat) : (b.tierTraffic slot a n write point).eth = b.eth := by
  unfold Body.tierTraffic; (repeat' split) <;> simp
@[simp] theorem Body.tierTraffic_ln (b : Body) (slot : Nat) (a : Nat) (n : Nat) (write : Bool) (point : Nat) : (b.tierTraffic slot a n write point).ln = b.ln := by
  unfold Body.tierTraffic; (repeat' split) <;> simp
@[simp] theorem Body.tierTraffic_boot (b : Body) (slot : Nat) (a : Nat) (n : Nat) (write : Bool) (point : Nat) : (b.tierTraffic slot a n write point).boot = b.boot := by
  unfold Body.tierTraffic; (repeat' split) <;> simp
@[simp] theorem Body.tierTraffic_unlock (b : Body) (slot : Nat) (a : Nat) (n : Nat) (write : Bool) (point : Nat) : (b.tierTraffic slot a n write point).unlock = b.unlock := by
  unfold Body.tierTraffic; (repeat' split) <;> simp
@[simp] theorem Body.tierTraffic_power (b : Body) (slot : Nat) (a : Nat) (n : Nat) (write : Bool) (point : Nat) : (b.tierTraffic slot a n write point).power = b.power := by
  unfold Body.tierTraffic; (repeat' split) <;> simp
@[simp] theorem Body.tierTraffic_tele (b : Body) (slot : Nat) (a : Nat) (n : Nat) (write : Bool) (point : Nat) : (b.tierTraffic slot a n write point).tele = b.tele := by
  unfold Body.tierTraffic; (repeat' split) <;> simp
@[simp] theorem Body.tierTraffic_crates (b : Body) (slot : Nat) (a : Nat) (n : Nat) (write : Bool) (point : Nat) : (b.tierTraffic slot a n write point).crates = b.crates := by
  unfold Body.tierTraffic; (repeat' split) <;> simp
@[simp] theorem Body.tierTraffic_rnd (b : Body) (slot : Nat) (a : Nat) (n : Nat) (write : Bool) (point : Nat) : (b.tierTraffic slot a n write point).rnd = b.rnd := by
  unfold Body.tierTraffic; (repeat' split) <;> simp
@[simp] theorem Body.tierTraffic_berths (b : Body) (slot : Nat) (a : Nat) (n : Nat) (write : Bool) (point : Nat) : (b.tierTraffic slot a n write point).berths = b.berths := by
  unfold Body.tierTraffic; (repeat' split) <;> simp
@[simp] theorem Body.tierTraffic_ops (b : Body) (slot : Nat) (a : Nat) (n : Nat) (write : Bool) (point : Nat) : (b.tierTraffic slot a n write point).ops = b.ops := by
  unfold Body.tierTraffic; (repeat' split) <;> simp
@[simp] theorem Body.tierTraffic_jigs (b : Body) (slot : Nat) (a : Nat) (n : Nat) (write : Bool) (point : Nat) : (b.tierTraffic slot a n write point).jigs = b.jigs := by
  unfold Body.tierTraffic; (repeat' split) <;> simp
@[simp] theorem Body.tierTraffic_ferry (b : Body) (slot : Nat) (a : Nat) (n : Nat) (write : Bool) (point : Nat) : (b.tierTraffic slot a n write point).ferry = b.ferry := by
  unfold Body.tierTraffic; (repeat' split) <;> simp
@[simp] theorem Body.wake_ts (b : Body) (cause : Nat) : (b.wake cause).ts = b.ts := by
  unfold Body.wake; (repeat' split) <;> simp
@[simp] theorem Body.wake_freeCtr (b : Body) (cause : Nat) : (b.wake cause).freeCtr = b.freeCtr := by
  unfold Body.wake; (repeat' split) <;> simp
@[simp] theorem Body.wake_out (b : Body) (cause : Nat) : (b.wake cause).out = b.out := by
  unfold Body.wake; (repeat' split) <;> simp
@[simp] theorem Body.wake_mem (b : Body) (cause : Nat) : (b.wake cause).mem = b.mem := by
  unfold Body.wake; (repeat' split) <;> simp
@[simp] theorem Body.wake_bg (b : Body) (cause : Nat) : (b.wake cause).bg = b.bg := by
  unfold Body.wake; (repeat' split) <;> simp
@[simp] theorem Body.wake_epoch (b : Body) (cause : Nat) : (b.wake cause).epoch = b.epoch := by
  unfold Body.wake; (repeat' split) <;> simp
@[simp] theorem Body.wake_haze (b : Body) (cause : Nat) : (b.wake cause).haze = b.haze := by
  unfold Body.wake; (repeat' split) <;> simp
@[simp] theorem Body.wake_framing (b : Body) (cause : Nat) : (b.wake cause).framing = b.framing := by
  unfold Body.wake; (repeat' split) <;> simp
@[simp] theorem Body.wake_bw (b : Body) (cause : Nat) : (b.wake cause).bw = b.bw := by
  unfold Body.wake; (repeat' split) <;> simp
@[simp] theorem Body.wake_hm (b : Body) (cause : Nat) : (b.wake cause).hm = b.hm := by
  unfold Body.wake; (repeat' split) <;> simp
@[simp] theorem Body.wake_st (b : Body) (cause : Nat) : (b.wake cause).st = b.st := by
  unfold Body.wake; (repeat' split) <;> simp
@[simp] theorem Body.wake_eth (b : Body) (cause : Nat) : (b.wake cause).eth = b.eth := by
  unfold Body.wake; (repeat' split) <;> simp
@[simp] theorem Body.wake_ln (b : Body) (cause : Nat) : (b.wake cause).ln = b.ln := by
  unfold Body.wake; (repeat' split) <;> simp
@[simp] theorem Body.wake_boot (b : Body) (cause : Nat) : (b.wake cause).boot = b.boot := by
  unfold Body.wake; (repeat' split) <;> simp
@[simp] theorem Body.wake_unlock (b : Body) (cause : Nat) : (b.wake cause).unlock = b.unlock := by
  unfold Body.wake; (repeat' split) <;> simp
@[simp] theorem Body.wake_tele (b : Body) (cause : Nat) : (b.wake cause).tele = b.tele := by
  unfold Body.wake; (repeat' split) <;> simp
@[simp] theorem Body.wake_tiers (b : Body) (cause : Nat) : (b.wake cause).tiers = b.tiers := by
  unfold Body.wake; (repeat' split) <;> simp
@[simp] theorem Body.wake_crates (b : Body) (cause : Nat) : (b.wake cause).crates = b.crates := by
  unfold Body.wake; (repeat' split) <;> simp
@[simp] theorem Body.wake_rnd (b : Body) (cause : Nat) : (b.wake cause).rnd = b.rnd := by
  unfold Body.wake; (repeat' split) <;> simp
@[simp] theorem Body.wake_berths (b : Body) (cause : Nat) : (b.wake cause).berths = b.berths := by
  unfold Body.wake; (repeat' split) <;> simp
@[simp] theorem Body.wake_ops (b : Body) (cause : Nat) : (b.wake cause).ops = b.ops := by
  unfold Body.wake; (repeat' split) <;> simp
@[simp] theorem Body.wake_jigs (b : Body) (cause : Nat) : (b.wake cause).jigs = b.jigs := by
  unfold Body.wake; (repeat' split) <;> simp
@[simp] theorem Body.wake_ferry (b : Body) (cause : Nat) : (b.wake cause).ferry = b.ferry := by
  unfold Body.wake; (repeat' split) <;> simp
@[simp] theorem Body.ring_ts (b : Body) (n : Nat) (tail : Nat) (qp : Nat) : (b.ring n tail qp).ts = b.ts := by
  unfold Body.ring; simp only []; (repeat' split) <;> simp
@[simp] theorem Body.ring_freeCtr (b : Body) (n : Nat) (tail : Nat) (qp : Nat) : (b.ring n tail qp).freeCtr = b.freeCtr := by
  unfold Body.ring; simp only []; (repeat' split) <;> simp
@[simp] theorem Body.ring_out (b : Body) (n : Nat) (tail : Nat) (qp : Nat) : (b.ring n tail qp).out = b.out := by
  unfold Body.ring; simp only []; (repeat' split) <;> simp
@[simp] theorem Body.ring_mem (b : Body) (n : Nat) (tail : Nat) (qp : Nat) : (b.ring n tail qp).mem = b.mem := by
  unfold Body.ring; simp only []; (repeat' split) <;> simp
@[simp] theorem Body.ring_bg (b : Body) (n : Nat) (tail : Nat) (qp : Nat) : (b.ring n tail qp).bg = b.bg := by
  unfold Body.ring; simp only []; (repeat' split) <;> simp
@[simp] theorem Body.ring_epoch (b : Body) (n : Nat) (tail : Nat) (qp : Nat) : (b.ring n tail qp).epoch = b.epoch := by
  unfold Body.ring; simp only []; (repeat' split) <;> simp
@[simp] theorem Body.ring_haze (b : Body) (n : Nat) (tail : Nat) (qp : Nat) : (b.ring n tail qp).haze = b.haze := by
  unfold Body.ring; simp only []; (repeat' split) <;> simp
@[simp] theorem Body.ring_framing (b : Body) (n : Nat) (tail : Nat) (qp : Nat) : (b.ring n tail qp).framing = b.framing := by
  unfold Body.ring; simp only []; (repeat' split) <;> simp
@[simp] theorem Body.ring_bw (b : Body) (n : Nat) (tail : Nat) (qp : Nat) : (b.ring n tail qp).bw = b.bw := by
  unfold Body.ring; simp only []; (repeat' split) <;> simp
@[simp] theorem Body.ring_hm (b : Body) (n : Nat) (tail : Nat) (qp : Nat) : (b.ring n tail qp).hm = b.hm := by
  unfold Body.ring; simp only []; (repeat' split) <;> simp
@[simp] theorem Body.ring_st (b : Body) (n : Nat) (tail : Nat) (qp : Nat) : (b.ring n tail qp).st = b.st := by
  unfold Body.ring; simp only []; (repeat' split) <;> simp
@[simp] theorem Body.ring_eth (b : Body) (n : Nat) (tail : Nat) (qp : Nat) : (b.ring n tail qp).eth = b.eth := by
  unfold Body.ring; simp only []; (repeat' split) <;> simp
@[simp] theorem Body.ring_ln (b : Body) (n : Nat) (tail : Nat) (qp : Nat) : (b.ring n tail qp).ln = b.ln := by
  unfold Body.ring; simp only []; (repeat' split) <;> simp
@[simp] theorem Body.ring_boot (b : Body) (n : Nat) (tail : Nat) (qp : Nat) : (b.ring n tail qp).boot = b.boot := by
  unfold Body.ring; simp only []; (repeat' split) <;> simp
@[simp] theorem Body.ring_unlock (b : Body) (n : Nat) (tail : Nat) (qp : Nat) : (b.ring n tail qp).unlock = b.unlock := by
  unfold Body.ring; simp only []; (repeat' split) <;> simp
@[simp] theorem Body.ring_tiers (b : Body) (n : Nat) (tail : Nat) (qp : Nat) : (b.ring n tail qp).tiers = b.tiers := by
  unfold Body.ring; simp only []; (repeat' split) <;> simp
@[simp] theorem Body.ring_crates (b : Body) (n : Nat) (tail : Nat) (qp : Nat) : (b.ring n tail qp).crates = b.crates := by
  unfold Body.ring; simp only []; (repeat' split) <;> simp
@[simp] theorem Body.ring_rnd (b : Body) (n : Nat) (tail : Nat) (qp : Nat) : (b.ring n tail qp).rnd = b.rnd := by
  unfold Body.ring; simp only []; (repeat' split) <;> simp
@[simp] theorem Body.ring_berths (b : Body) (n : Nat) (tail : Nat) (qp : Nat) : (b.ring n tail qp).berths = b.berths := by
  unfold Body.ring; simp only []; (repeat' split) <;> simp
@[simp] theorem Body.ring_ops (b : Body) (n : Nat) (tail : Nat) (qp : Nat) : (b.ring n tail qp).ops = b.ops := by
  unfold Body.ring; simp only []; (repeat' split) <;> simp
@[simp] theorem Body.ring_jigs (b : Body) (n : Nat) (tail : Nat) (qp : Nat) : (b.ring n tail qp).jigs = b.jigs := by
  unfold Body.ring; simp only []; (repeat' split) <;> simp
@[simp] theorem Body.ring_ferry (b : Body) (n : Nat) (tail : Nat) (qp : Nat) : (b.ring n tail qp).ferry = b.ferry := by
  unfold Body.ring; simp only []; (repeat' split) <;> simp
@[simp] theorem Body.ring_tele_fits (b : Body) (n : Nat) (tail : Nat) (qp : Nat) : (b.ring n tail qp).tele.fits = b.tele.fits := by
  unfold Body.ring; simp only []; (repeat' split) <;> simp
@[simp] theorem Body.ring_tele_push (b : Body) (n : Nat) (tail : Nat) (qp : Nat) : (b.ring n tail qp).tele.push = b.tele.push := by
  unfold Body.ring; simp only []; (repeat' split) <;> simp
@[simp] theorem Body.ring_tele_probe (b : Body) (n : Nat) (tail : Nat) (qp : Nat) : (b.ring n tail qp).tele.probe = b.tele.probe := by
  unfold Body.ring; simp only []; (repeat' split) <;> simp
@[simp] theorem Body.ring_tele_dbg (b : Body) (n : Nat) (tail : Nat) (qp : Nat) : (b.ring n tail qp).tele.dbg = b.tele.dbg := by
  unfold Body.ring; simp only []; (repeat' split) <;> simp
@[simp] theorem Body.ring_tele_errMain (b : Body) (n : Nat) (tail : Nat) (qp : Nat) : (b.ring n tail qp).tele.errMain = b.tele.errMain := by
  unfold Body.ring; simp only []; (repeat' split) <;> simp
@[simp] theorem Body.updQp_ts (b : Body) (k : Nat) (f : Qp → Qp) : (b.updQp k f).ts = b.ts := rfl
@[simp] theorem Body.updQp_freeCtr (b : Body) (k : Nat) (f : Qp → Qp) : (b.updQp k f).freeCtr = b.freeCtr := rfl
@[simp] theorem Body.updQp_out (b : Body) (k : Nat) (f : Qp → Qp) : (b.updQp k f).out = b.out := rfl
@[simp] theorem Body.updQp_regs (b : Body) (k : Nat) (f : Qp → Qp) : (b.updQp k f).regs = b.regs := rfl
@[simp] theorem Body.updQp_mem (b : Body) (k : Nat) (f : Qp → Qp) : (b.updQp k f).mem = b.mem := rfl
@[simp] theorem Body.updQp_bg (b : Body) (k : Nat) (f : Qp → Qp) : (b.updQp k f).bg = b.bg := rfl
@[simp] theorem Body.updQp_epoch (b : Body) (k : Nat) (f : Qp → Qp) : (b.updQp k f).epoch = b.epoch := rfl
@[simp] theorem Body.updQp_haze (b : Body) (k : Nat) (f : Qp → Qp) : (b.updQp k f).haze = b.haze := rfl
@[simp] theorem Body.updQp_framing (b : Body) (k : Nat) (f : Qp → Qp) : (b.updQp k f).framing = b.framing := rfl
@[simp] theorem Body.updQp_bw (b : Body) (k : Nat) (f : Qp → Qp) : (b.updQp k f).bw = b.bw := rfl
@[simp] theorem Body.updQp_hm (b : Body) (k : Nat) (f : Qp → Qp) : (b.updQp k f).hm = b.hm := rfl
@[simp] theorem Body.updQp_st (b : Body) (k : Nat) (f : Qp → Qp) : (b.updQp k f).st = b.st := rfl
@[simp] theorem Body.updQp_ln (b : Body) (k : Nat) (f : Qp → Qp) : (b.updQp k f).ln = b.ln := rfl
@[simp] theorem Body.updQp_boot (b : Body) (k : Nat) (f : Qp → Qp) : (b.updQp k f).boot = b.boot := rfl
@[simp] theorem Body.updQp_unlock (b : Body) (k : Nat) (f : Qp → Qp) : (b.updQp k f).unlock = b.unlock := rfl
@[simp] theorem Body.updQp_power (b : Body) (k : Nat) (f : Qp → Qp) : (b.updQp k f).power = b.power := rfl
@[simp] theorem Body.updQp_tele (b : Body) (k : Nat) (f : Qp → Qp) : (b.updQp k f).tele = b.tele := rfl
@[simp] theorem Body.updQp_tiers (b : Body) (k : Nat) (f : Qp → Qp) : (b.updQp k f).tiers = b.tiers := rfl
@[simp] theorem Body.updQp_crates (b : Body) (k : Nat) (f : Qp → Qp) : (b.updQp k f).crates = b.crates := rfl
@[simp] theorem Body.updQp_rnd (b : Body) (k : Nat) (f : Qp → Qp) : (b.updQp k f).rnd = b.rnd := rfl
@[simp] theorem Body.updQp_berths (b : Body) (k : Nat) (f : Qp → Qp) : (b.updQp k f).berths = b.berths := rfl
@[simp] theorem Body.updQp_ops (b : Body) (k : Nat) (f : Qp → Qp) : (b.updQp k f).ops = b.ops := rfl
@[simp] theorem Body.updQp_jigs (b : Body) (k : Nat) (f : Qp → Qp) : (b.updQp k f).jigs = b.jigs := rfl
@[simp] theorem Body.updQp_ferry (b : Body) (k : Nat) (f : Qp → Qp) : (b.updQp k f).ferry = b.ferry := rfl
@[simp] theorem Body.rdmaOut_ts (b : Body) (k : Nat) (va : Nat) (rkey : Nat) (data : List Byte) : (b.rdmaOut k va rkey data).ts = b.ts := by
  unfold Body.rdmaOut; (repeat' split) <;> simp
@[simp] theorem Body.rdmaOut_freeCtr (b : Body) (k : Nat) (va : Nat) (rkey : Nat) (data : List Byte) : (b.rdmaOut k va rkey data).freeCtr = b.freeCtr := by
  unfold Body.rdmaOut; (repeat' split) <;> simp
@[simp] theorem Body.rdmaOut_mem (b : Body) (k : Nat) (va : Nat) (rkey : Nat) (data : List Byte) : (b.rdmaOut k va rkey data).mem = b.mem := by
  unfold Body.rdmaOut; (repeat' split) <;> simp
@[simp] theorem Body.rdmaOut_bg (b : Body) (k : Nat) (va : Nat) (rkey : Nat) (data : List Byte) : (b.rdmaOut k va rkey data).bg = b.bg := by
  unfold Body.rdmaOut; (repeat' split) <;> simp
@[simp] theorem Body.rdmaOut_epoch (b : Body) (k : Nat) (va : Nat) (rkey : Nat) (data : List Byte) : (b.rdmaOut k va rkey data).epoch = b.epoch := by
  unfold Body.rdmaOut; (repeat' split) <;> simp
@[simp] theorem Body.rdmaOut_haze (b : Body) (k : Nat) (va : Nat) (rkey : Nat) (data : List Byte) : (b.rdmaOut k va rkey data).haze = b.haze := by
  unfold Body.rdmaOut; (repeat' split) <;> simp
@[simp] theorem Body.rdmaOut_framing (b : Body) (k : Nat) (va : Nat) (rkey : Nat) (data : List Byte) : (b.rdmaOut k va rkey data).framing = b.framing := by
  unfold Body.rdmaOut; (repeat' split) <;> simp
@[simp] theorem Body.rdmaOut_bw (b : Body) (k : Nat) (va : Nat) (rkey : Nat) (data : List Byte) : (b.rdmaOut k va rkey data).bw = b.bw := by
  unfold Body.rdmaOut; (repeat' split) <;> simp
@[simp] theorem Body.rdmaOut_hm (b : Body) (k : Nat) (va : Nat) (rkey : Nat) (data : List Byte) : (b.rdmaOut k va rkey data).hm = b.hm := by
  unfold Body.rdmaOut; (repeat' split) <;> simp
@[simp] theorem Body.rdmaOut_st (b : Body) (k : Nat) (va : Nat) (rkey : Nat) (data : List Byte) : (b.rdmaOut k va rkey data).st = b.st := by
  unfold Body.rdmaOut; (repeat' split) <;> simp
@[simp] theorem Body.rdmaOut_ln (b : Body) (k : Nat) (va : Nat) (rkey : Nat) (data : List Byte) : (b.rdmaOut k va rkey data).ln = b.ln := by
  unfold Body.rdmaOut; (repeat' split) <;> simp
@[simp] theorem Body.rdmaOut_boot (b : Body) (k : Nat) (va : Nat) (rkey : Nat) (data : List Byte) : (b.rdmaOut k va rkey data).boot = b.boot := by
  unfold Body.rdmaOut; (repeat' split) <;> simp
@[simp] theorem Body.rdmaOut_unlock (b : Body) (k : Nat) (va : Nat) (rkey : Nat) (data : List Byte) : (b.rdmaOut k va rkey data).unlock = b.unlock := by
  unfold Body.rdmaOut; (repeat' split) <;> simp
@[simp] theorem Body.rdmaOut_power (b : Body) (k : Nat) (va : Nat) (rkey : Nat) (data : List Byte) : (b.rdmaOut k va rkey data).power = b.power := by
  unfold Body.rdmaOut; (repeat' split) <;> simp
@[simp] theorem Body.rdmaOut_tele (b : Body) (k : Nat) (va : Nat) (rkey : Nat) (data : List Byte) : (b.rdmaOut k va rkey data).tele = b.tele := by
  unfold Body.rdmaOut; (repeat' split) <;> simp
@[simp] theorem Body.rdmaOut_tiers (b : Body) (k : Nat) (va : Nat) (rkey : Nat) (data : List Byte) : (b.rdmaOut k va rkey data).tiers = b.tiers := by
  unfold Body.rdmaOut; (repeat' split) <;> simp
@[simp] theorem Body.rdmaOut_crates (b : Body) (k : Nat) (va : Nat) (rkey : Nat) (data : List Byte) : (b.rdmaOut k va rkey data).crates = b.crates := by
  unfold Body.rdmaOut; (repeat' split) <;> simp
@[simp] theorem Body.rdmaOut_rnd (b : Body) (k : Nat) (va : Nat) (rkey : Nat) (data : List Byte) : (b.rdmaOut k va rkey data).rnd = b.rnd := by
  unfold Body.rdmaOut; (repeat' split) <;> simp
@[simp] theorem Body.rdmaOut_berths (b : Body) (k : Nat) (va : Nat) (rkey : Nat) (data : List Byte) : (b.rdmaOut k va rkey data).berths = b.berths := by
  unfold Body.rdmaOut; (repeat' split) <;> simp
@[simp] theorem Body.rdmaOut_ops (b : Body) (k : Nat) (va : Nat) (rkey : Nat) (data : List Byte) : (b.rdmaOut k va rkey data).ops = b.ops := by
  unfold Body.rdmaOut; (repeat' split) <;> simp
@[simp] theorem Body.rdmaOut_jigs (b : Body) (k : Nat) (va : Nat) (rkey : Nat) (data : List Byte) : (b.rdmaOut k va rkey data).jigs = b.jigs := by
  unfold Body.rdmaOut; (repeat' split) <;> simp
@[simp] theorem Body.rdmaOut_ferry (b : Body) (k : Nat) (va : Nat) (rkey : Nat) (data : List Byte) : (b.rdmaOut k va rkey data).ferry = b.ferry := by
  unfold Body.rdmaOut; (repeat' split) <;> simp
@[simp] theorem Body.updCq_ts (b : Body) (n : Nat) (f : CqRing → CqRing) : (b.updCq n f).ts = b.ts := rfl
@[simp] theorem Body.updCq_freeCtr (b : Body) (n : Nat) (f : CqRing → CqRing) : (b.updCq n f).freeCtr = b.freeCtr := rfl
@[simp] theorem Body.updCq_out (b : Body) (n : Nat) (f : CqRing → CqRing) : (b.updCq n f).out = b.out := rfl
@[simp] theorem Body.updCq_regs (b : Body) (n : Nat) (f : CqRing → CqRing) : (b.updCq n f).regs = b.regs := rfl
@[simp] theorem Body.updCq_mem (b : Body) (n : Nat) (f : CqRing → CqRing) : (b.updCq n f).mem = b.mem := rfl
@[simp] theorem Body.updCq_bg (b : Body) (n : Nat) (f : CqRing → CqRing) : (b.updCq n f).bg = b.bg := rfl
@[simp] theorem Body.updCq_epoch (b : Body) (n : Nat) (f : CqRing → CqRing) : (b.updCq n f).epoch = b.epoch := rfl
@[simp] theorem Body.updCq_haze (b : Body) (n : Nat) (f : CqRing → CqRing) : (b.updCq n f).haze = b.haze := rfl
@[simp] theorem Body.updCq_framing (b : Body) (n : Nat) (f : CqRing → CqRing) : (b.updCq n f).framing = b.framing := rfl
@[simp] theorem Body.updCq_bw (b : Body) (n : Nat) (f : CqRing → CqRing) : (b.updCq n f).bw = b.bw := rfl
@[simp] theorem Body.updCq_hm (b : Body) (n : Nat) (f : CqRing → CqRing) : (b.updCq n f).hm = b.hm := rfl
@[simp] theorem Body.updCq_st (b : Body) (n : Nat) (f : CqRing → CqRing) : (b.updCq n f).st = b.st := rfl
@[simp] theorem Body.updCq_ln (b : Body) (n : Nat) (f : CqRing → CqRing) : (b.updCq n f).ln = b.ln := rfl
@[simp] theorem Body.updCq_boot (b : Body) (n : Nat) (f : CqRing → CqRing) : (b.updCq n f).boot = b.boot := rfl
@[simp] theorem Body.updCq_unlock (b : Body) (n : Nat) (f : CqRing → CqRing) : (b.updCq n f).unlock = b.unlock := rfl
@[simp] theorem Body.updCq_power (b : Body) (n : Nat) (f : CqRing → CqRing) : (b.updCq n f).power = b.power := rfl
@[simp] theorem Body.updCq_tele (b : Body) (n : Nat) (f : CqRing → CqRing) : (b.updCq n f).tele = b.tele := rfl
@[simp] theorem Body.updCq_tiers (b : Body) (n : Nat) (f : CqRing → CqRing) : (b.updCq n f).tiers = b.tiers := rfl
@[simp] theorem Body.updCq_crates (b : Body) (n : Nat) (f : CqRing → CqRing) : (b.updCq n f).crates = b.crates := rfl
@[simp] theorem Body.updCq_rnd (b : Body) (n : Nat) (f : CqRing → CqRing) : (b.updCq n f).rnd = b.rnd := rfl
@[simp] theorem Body.updCq_berths (b : Body) (n : Nat) (f : CqRing → CqRing) : (b.updCq n f).berths = b.berths := rfl
@[simp] theorem Body.updCq_ops (b : Body) (n : Nat) (f : CqRing → CqRing) : (b.updCq n f).ops = b.ops := rfl
@[simp] theorem Body.updCq_jigs (b : Body) (n : Nat) (f : CqRing → CqRing) : (b.updCq n f).jigs = b.jigs := rfl
@[simp] theorem Body.updCq_ferry (b : Body) (n : Nat) (f : CqRing → CqRing) : (b.updCq n f).ferry = b.ferry := rfl
@[simp] theorem Body.cqPut_ts (b : Body) (n : Nat) (x : List Byte) : (b.cqPut n x).ts = b.ts := by
  unfold Body.cqPut; simp only []; split <;> simp
@[simp] theorem Body.cqPut_freeCtr (b : Body) (n : Nat) (x : List Byte) : (b.cqPut n x).freeCtr = b.freeCtr := by
  unfold Body.cqPut; simp only []; split <;> simp
@[simp] theorem Body.cqPut_mem (b : Body) (n : Nat) (x : List Byte) : (b.cqPut n x).mem = b.mem := by
  unfold Body.cqPut; simp only []; split <;> simp
@[simp] theorem Body.cqPut_bg (b : Body) (n : Nat) (x : List Byte) : (b.cqPut n x).bg = b.bg := by
  unfold Body.cqPut; simp only []; split <;> simp
@[simp] theorem Body.cqPut_epoch (b : Body) (n : Nat) (x : List Byte) : (b.cqPut n x).epoch = b.epoch := by
  unfold Body.cqPut; simp only []; split <;> simp
@[simp] theorem Body.cqPut_haze (b : Body) (n : Nat) (x : List Byte) : (b.cqPut n x).haze = b.haze := by
  unfold Body.cqPut; simp only []; split <;> simp
@[simp] theorem Body.cqPut_framing (b : Body) (n : Nat) (x : List Byte) : (b.cqPut n x).framing = b.framing := by
  unfold Body.cqPut; simp only []; split <;> simp
@[simp] theorem Body.cqPut_bw (b : Body) (n : Nat) (x : List Byte) : (b.cqPut n x).bw = b.bw := by
  unfold Body.cqPut; simp only []; split <;> simp
@[simp] theorem Body.cqPut_hm (b : Body) (n : Nat) (x : List Byte) : (b.cqPut n x).hm = b.hm := by
  unfold Body.cqPut; simp only []; split <;> simp
@[simp] theorem Body.cqPut_st (b : Body) (n : Nat) (x : List Byte) : (b.cqPut n x).st = b.st := by
  unfold Body.cqPut; simp only []; split <;> simp
@[simp] theorem Body.cqPut_ln (b : Body) (n : Nat) (x : List Byte) : (b.cqPut n x).ln = b.ln := by
  unfold Body.cqPut; simp only []; split <;> simp
@[simp] theorem Body.cqPut_boot (b : Body) (n : Nat) (x : List Byte) : (b.cqPut n x).boot = b.boot := by
  unfold Body.cqPut; simp only []; split <;> simp
@[simp] theorem Body.cqPut_unlock (b : Body) (n : Nat) (x : List Byte) : (b.cqPut n x).unlock = b.unlock := by
  unfold Body.cqPut; simp only []; split <;> simp
@[simp] theorem Body.cqPut_power (b : Body) (n : Nat) (x : List Byte) : (b.cqPut n x).power = b.power := by
  unfold Body.cqPut; simp only []; split <;> simp
@[simp] theorem Body.cqPut_tele (b : Body) (n : Nat) (x : List Byte) : (b.cqPut n x).tele = b.tele := by
  unfold Body.cqPut; simp only []; split <;> simp
@[simp] theorem Body.cqPut_tiers (b : Body) (n : Nat) (x : List Byte) : (b.cqPut n x).tiers = b.tiers := by
  unfold Body.cqPut; simp only []; split <;> simp
@[simp] theorem Body.cqPut_crates (b : Body) (n : Nat) (x : List Byte) : (b.cqPut n x).crates = b.crates := by
  unfold Body.cqPut; simp only []; split <;> simp
@[simp] theorem Body.cqPut_rnd (b : Body) (n : Nat) (x : List Byte) : (b.cqPut n x).rnd = b.rnd := by
  unfold Body.cqPut; simp only []; split <;> simp
@[simp] theorem Body.cqPut_berths (b : Body) (n : Nat) (x : List Byte) : (b.cqPut n x).berths = b.berths := by
  unfold Body.cqPut; simp only []; split <;> simp
@[simp] theorem Body.cqPut_ops (b : Body) (n : Nat) (x : List Byte) : (b.cqPut n x).ops = b.ops := by
  unfold Body.cqPut; simp only []; split <;> simp
@[simp] theorem Body.cqPut_jigs (b : Body) (n : Nat) (x : List Byte) : (b.cqPut n x).jigs = b.jigs := by
  unfold Body.cqPut; simp only []; split <;> simp
@[simp] theorem Body.cqPut_ferry (b : Body) (n : Nat) (x : List Byte) : (b.cqPut n x).ferry = b.ferry := by
  unfold Body.cqPut; simp only []; split <;> simp
@[simp] theorem Body.summary_ts (b : Body) (n : Nat) : (b.summary n).ts = b.ts := by
  unfold Body.summary; (repeat' split) <;> simp
@[simp] theorem Body.summary_freeCtr (b : Body) (n : Nat) : (b.summary n).freeCtr = b.freeCtr := by
  unfold Body.summary; (repeat' split) <;> simp
@[simp] theorem Body.summary_mem (b : Body) (n : Nat) : (b.summary n).mem = b.mem := by
  unfold Body.summary; (repeat' split) <;> simp
@[simp] theorem Body.summary_bg (b : Body) (n : Nat) : (b.summary n).bg = b.bg := by
  unfold Body.summary; (repeat' split) <;> simp
@[simp] theorem Body.summary_epoch (b : Body) (n : Nat) : (b.summary n).epoch = b.epoch := by
  unfold Body.summary; (repeat' split) <;> simp
@[simp] theorem Body.summary_haze (b : Body) (n : Nat) : (b.summary n).haze = b.haze := by
  unfold Body.summary; (repeat' split) <;> simp
@[simp] theorem Body.summary_framing (b : Body) (n : Nat) : (b.summary n).framing = b.framing := by
  unfold Body.summary; (repeat' split) <;> simp
@[simp] theorem Body.summary_bw (b : Body) (n : Nat) : (b.summary n).bw = b.bw := by
  unfold Body.summary; (repeat' split) <;> simp
@[simp] theorem Body.summary_hm (b : Body) (n : Nat) : (b.summary n).hm = b.hm := by
  unfold Body.summary; (repeat' split) <;> simp
@[simp] theorem Body.summary_st (b : Body) (n : Nat) : (b.summary n).st = b.st := by
  unfold Body.summary; (repeat' split) <;> simp
@[simp] theorem Body.summary_ln (b : Body) (n : Nat) : (b.summary n).ln = b.ln := by
  unfold Body.summary; (repeat' split) <;> simp
@[simp] theorem Body.summary_boot (b : Body) (n : Nat) : (b.summary n).boot = b.boot := by
  unfold Body.summary; (repeat' split) <;> simp
@[simp] theorem Body.summary_unlock (b : Body) (n : Nat) : (b.summary n).unlock = b.unlock := by
  unfold Body.summary; (repeat' split) <;> simp
@[simp] theorem Body.summary_power (b : Body) (n : Nat) : (b.summary n).power = b.power := by
  unfold Body.summary; (repeat' split) <;> simp
@[simp] theorem Body.summary_tele (b : Body) (n : Nat) : (b.summary n).tele = b.tele := by
  unfold Body.summary; (repeat' split) <;> simp
@[simp] theorem Body.summary_tiers (b : Body) (n : Nat) : (b.summary n).tiers = b.tiers := by
  unfold Body.summary; (repeat' split) <;> simp
@[simp] theorem Body.summary_crates (b : Body) (n : Nat) : (b.summary n).crates = b.crates := by
  unfold Body.summary; (repeat' split) <;> simp
@[simp] theorem Body.summary_rnd (b : Body) (n : Nat) : (b.summary n).rnd = b.rnd := by
  unfold Body.summary; (repeat' split) <;> simp
@[simp] theorem Body.summary_berths (b : Body) (n : Nat) : (b.summary n).berths = b.berths := by
  unfold Body.summary; (repeat' split) <;> simp
@[simp] theorem Body.summary_ops (b : Body) (n : Nat) : (b.summary n).ops = b.ops := by
  unfold Body.summary; (repeat' split) <;> simp
@[simp] theorem Body.summary_jigs (b : Body) (n : Nat) : (b.summary n).jigs = b.jigs := by
  unfold Body.summary; (repeat' split) <;> simp
@[simp] theorem Body.summary_ferry (b : Body) (n : Nat) : (b.summary n).ferry = b.ferry := by
  unfold Body.summary; (repeat' split) <;> simp
@[simp] theorem Body.coalesce_ts (b : Body) (n : Nat) (status : Nat) (opc : Nat) (tag : Nat) : (b.coalesce n status opc tag).ts = b.ts := by
  unfold Body.coalesce; simp only []; split <;> simp
@[simp] theorem Body.coalesce_freeCtr (b : Body) (n : Nat) (status : Nat) (opc : Nat) (tag : Nat) : (b.coalesce n status opc tag).freeCtr = b.freeCtr := by
  unfold Body.coalesce; simp only []; split <;> simp
@[simp] theorem Body.coalesce_out (b : Body) (n : Nat) (status : Nat) (opc : Nat) (tag : Nat) : (b.coalesce n status opc tag).out = b.out := by
  unfold Body.coalesce; simp only []; split <;> simp
@[simp] theorem Body.coalesce_mem (b : Body) (n : Nat) (status : Nat) (opc : Nat) (tag : Nat) : (b.coalesce n status opc tag).mem = b.mem := by
  unfold Body.coalesce; simp only []; split <;> simp
@[simp] theorem Body.coalesce_bg (b : Body) (n : Nat) (status : Nat) (opc : Nat) (tag : Nat) : (b.coalesce n status opc tag).bg = b.bg := by
  unfold Body.coalesce; simp only []; split <;> simp
@[simp] theorem Body.coalesce_epoch (b : Body) (n : Nat) (status : Nat) (opc : Nat) (tag : Nat) : (b.coalesce n status opc tag).epoch = b.epoch := by
  unfold Body.coalesce; simp only []; split <;> simp
@[simp] theorem Body.coalesce_haze (b : Body) (n : Nat) (status : Nat) (opc : Nat) (tag : Nat) : (b.coalesce n status opc tag).haze = b.haze := by
  unfold Body.coalesce; simp only []; split <;> simp
@[simp] theorem Body.coalesce_framing (b : Body) (n : Nat) (status : Nat) (opc : Nat) (tag : Nat) : (b.coalesce n status opc tag).framing = b.framing := by
  unfold Body.coalesce; simp only []; split <;> simp
@[simp] theorem Body.coalesce_bw (b : Body) (n : Nat) (status : Nat) (opc : Nat) (tag : Nat) : (b.coalesce n status opc tag).bw = b.bw := by
  unfold Body.coalesce; simp only []; split <;> simp
@[simp] theorem Body.coalesce_hm (b : Body) (n : Nat) (status : Nat) (opc : Nat) (tag : Nat) : (b.coalesce n status opc tag).hm = b.hm := by
  unfold Body.coalesce; simp only []; split <;> simp
@[simp] theorem Body.coalesce_st (b : Body) (n : Nat) (status : Nat) (opc : Nat) (tag : Nat) : (b.coalesce n status opc tag).st = b.st := by
  unfold Body.coalesce; simp only []; split <;> simp
@[simp] theorem Body.coalesce_ln (b : Body) (n : Nat) (status : Nat) (opc : Nat) (tag : Nat) : (b.coalesce n status opc tag).ln = b.ln := by
  unfold Body.coalesce; simp only []; split <;> simp
@[simp] theorem Body.coalesce_boot (b : Body) (n : Nat) (status : Nat) (opc : Nat) (tag : Nat) : (b.coalesce n status opc tag).boot = b.boot := by
  unfold Body.coalesce; simp only []; split <;> simp
@[simp] theorem Body.coalesce_unlock (b : Body) (n : Nat) (status : Nat) (opc : Nat) (tag : Nat) : (b.coalesce n status opc tag).unlock = b.unlock := by
  unfold Body.coalesce; simp only []; split <;> simp
@[simp] theorem Body.coalesce_power (b : Body) (n : Nat) (status : Nat) (opc : Nat) (tag : Nat) : (b.coalesce n status opc tag).power = b.power := by
  unfold Body.coalesce; simp only []; split <;> simp
@[simp] theorem Body.coalesce_tele (b : Body) (n : Nat) (status : Nat) (opc : Nat) (tag : Nat) : (b.coalesce n status opc tag).tele = b.tele := by
  unfold Body.coalesce; simp only []; split <;> simp
@[simp] theorem Body.coalesce_tiers (b : Body) (n : Nat) (status : Nat) (opc : Nat) (tag : Nat) : (b.coalesce n status opc tag).tiers = b.tiers := by
  unfold Body.coalesce; simp only []; split <;> simp
@[simp] theorem Body.coalesce_crates (b : Body) (n : Nat) (status : Nat) (opc : Nat) (tag : Nat) : (b.coalesce n status opc tag).crates = b.crates := by
  unfold Body.coalesce; simp only []; split <;> simp
@[simp] theorem Body.coalesce_rnd (b : Body) (n : Nat) (status : Nat) (opc : Nat) (tag : Nat) : (b.coalesce n status opc tag).rnd = b.rnd := by
  unfold Body.coalesce; simp only []; split <;> simp
@[simp] theorem Body.coalesce_berths (b : Body) (n : Nat) (status : Nat) (opc : Nat) (tag : Nat) : (b.coalesce n status opc tag).berths = b.berths := by
  unfold Body.coalesce; simp only []; split <;> simp
@[simp] theorem Body.coalesce_ops (b : Body) (n : Nat) (status : Nat) (opc : Nat) (tag : Nat) : (b.coalesce n status opc tag).ops = b.ops := by
  unfold Body.coalesce; simp only []; split <;> simp
@[simp] theorem Body.coalesce_jigs (b : Body) (n : Nat) (status : Nat) (opc : Nat) (tag : Nat) : (b.coalesce n status opc tag).jigs = b.jigs := by
  unfold Body.coalesce; simp only []; split <;> simp
@[simp] theorem Body.coalesce_ferry (b : Body) (n : Nat) (status : Nat) (opc : Nat) (tag : Nat) : (b.coalesce n status opc tag).ferry = b.ferry := by
  unfold Body.coalesce; simp only []; split <;> simp
@[simp] theorem Body.complete_ts (b : Body) (e : Ended) : (b.complete e).ts = b.ts := by
  unfold Body.complete; simp only []; (repeat' split) <;> simp
@[simp] theorem Body.complete_freeCtr (b : Body) (e : Ended) : (b.complete e).freeCtr = b.freeCtr := by
  unfold Body.complete; simp only []; (repeat' split) <;> simp
@[simp] theorem Body.complete_mem (b : Body) (e : Ended) : (b.complete e).mem = b.mem := by
  unfold Body.complete; simp only []; (repeat' split) <;> simp
@[simp] theorem Body.complete_bg (b : Body) (e : Ended) : (b.complete e).bg = b.bg := by
  unfold Body.complete; simp only []; (repeat' split) <;> simp
@[simp] theorem Body.complete_epoch (b : Body) (e : Ended) : (b.complete e).epoch = b.epoch := by
  unfold Body.complete; simp only []; (repeat' split) <;> simp
@[simp] theorem Body.complete_haze (b : Body) (e : Ended) : (b.complete e).haze = b.haze := by
  unfold Body.complete; simp only []; (repeat' split) <;> simp
@[simp] theorem Body.complete_framing (b : Body) (e : Ended) : (b.complete e).framing = b.framing := by
  unfold Body.complete; simp only []; (repeat' split) <;> simp
@[simp] theorem Body.complete_bw (b : Body) (e : Ended) : (b.complete e).bw = b.bw := by
  unfold Body.complete; simp only []; (repeat' split) <;> simp
@[simp] theorem Body.complete_hm (b : Body) (e : Ended) : (b.complete e).hm = b.hm := by
  unfold Body.complete; simp only []; (repeat' split) <;> simp
@[simp] theorem Body.complete_st (b : Body) (e : Ended) : (b.complete e).st = b.st := by
  unfold Body.complete; simp only []; (repeat' split) <;> simp
@[simp] theorem Body.complete_ln (b : Body) (e : Ended) : (b.complete e).ln = b.ln := by
  unfold Body.complete; simp only []; (repeat' split) <;> simp
@[simp] theorem Body.complete_boot (b : Body) (e : Ended) : (b.complete e).boot = b.boot := by
  unfold Body.complete; simp only []; (repeat' split) <;> simp
@[simp] theorem Body.complete_unlock (b : Body) (e : Ended) : (b.complete e).unlock = b.unlock := by
  unfold Body.complete; simp only []; (repeat' split) <;> simp
@[simp] theorem Body.complete_power (b : Body) (e : Ended) : (b.complete e).power = b.power := by
  unfold Body.complete; simp only []; (repeat' split) <;> simp
@[simp] theorem Body.complete_tele (b : Body) (e : Ended) : (b.complete e).tele = b.tele := by
  unfold Body.complete; simp only []; (repeat' split) <;> simp
@[simp] theorem Body.complete_tiers (b : Body) (e : Ended) : (b.complete e).tiers = b.tiers := by
  unfold Body.complete; simp only []; (repeat' split) <;> simp
@[simp] theorem Body.complete_crates (b : Body) (e : Ended) : (b.complete e).crates = b.crates := by
  unfold Body.complete; simp only []; (repeat' split) <;> simp
@[simp] theorem Body.complete_rnd (b : Body) (e : Ended) : (b.complete e).rnd = b.rnd := by
  unfold Body.complete; simp only []; (repeat' split) <;> simp
@[simp] theorem Body.complete_berths (b : Body) (e : Ended) : (b.complete e).berths = b.berths := by
  unfold Body.complete; simp only []; (repeat' split) <;> simp
@[simp] theorem Body.complete_ops (b : Body) (e : Ended) : (b.complete e).ops = b.ops := by
  unfold Body.complete; simp only []; (repeat' split) <;> simp
@[simp] theorem Body.complete_jigs (b : Body) (e : Ended) : (b.complete e).jigs = b.jigs := by
  unfold Body.complete; simp only []; (repeat' split) <;> simp
@[simp] theorem Body.complete_ferry (b : Body) (e : Ended) : (b.complete e).ferry = b.ferry := by
  unfold Body.complete; simp only []; (repeat' split) <;> simp
@[simp] theorem Body.stepCheck_ts (b : Body) (slot : Nat) : (b.stepCheck slot).ts = b.ts := by
  unfold Body.stepCheck; simp only []; (repeat' split) <;> simp
@[simp] theorem Body.stepCheck_freeCtr (b : Body) (slot : Nat) : (b.stepCheck slot).freeCtr = b.freeCtr := by
  unfold Body.stepCheck; simp only []; (repeat' split) <;> simp
@[simp] theorem Body.stepCheck_out (b : Body) (slot : Nat) : (b.stepCheck slot).out = b.out := by
  unfold Body.stepCheck; simp only []; (repeat' split) <;> simp
@[simp] theorem Body.stepCheck_mem (b : Body) (slot : Nat) : (b.stepCheck slot).mem = b.mem := by
  unfold Body.stepCheck; simp only []; (repeat' split) <;> simp
@[simp] theorem Body.stepCheck_bg (b : Body) (slot : Nat) : (b.stepCheck slot).bg = b.bg := by
  unfold Body.stepCheck; simp only []; (repeat' split) <;> simp
@[simp] theorem Body.stepCheck_epoch (b : Body) (slot : Nat) : (b.stepCheck slot).epoch = b.epoch := by
  unfold Body.stepCheck; simp only []; (repeat' split) <;> simp
@[simp] theorem Body.stepCheck_haze (b : Body) (slot : Nat) : (b.stepCheck slot).haze = b.haze := by
  unfold Body.stepCheck; simp only []; (repeat' split) <;> simp
@[simp] theorem Body.stepCheck_framing (b : Body) (slot : Nat) : (b.stepCheck slot).framing = b.framing := by
  unfold Body.stepCheck; simp only []; (repeat' split) <;> simp
@[simp] theorem Body.stepCheck_bw (b : Body) (slot : Nat) : (b.stepCheck slot).bw = b.bw := by
  unfold Body.stepCheck; simp only []; (repeat' split) <;> simp
@[simp] theorem Body.stepCheck_st (b : Body) (slot : Nat) : (b.stepCheck slot).st = b.st := by
  unfold Body.stepCheck; simp only []; (repeat' split) <;> simp
@[simp] theorem Body.stepCheck_eth (b : Body) (slot : Nat) : (b.stepCheck slot).eth = b.eth := by
  unfold Body.stepCheck; simp only []; (repeat' split) <;> simp
@[simp] theorem Body.stepCheck_ln (b : Body) (slot : Nat) : (b.stepCheck slot).ln = b.ln := by
  unfold Body.stepCheck; simp only []; (repeat' split) <;> simp
@[simp] theorem Body.stepCheck_boot (b : Body) (slot : Nat) : (b.stepCheck slot).boot = b.boot := by
  unfold Body.stepCheck; simp only []; (repeat' split) <;> simp
@[simp] theorem Body.stepCheck_unlock (b : Body) (slot : Nat) : (b.stepCheck slot).unlock = b.unlock := by
  unfold Body.stepCheck; simp only []; (repeat' split) <;> simp
@[simp] theorem Body.stepCheck_power (b : Body) (slot : Nat) : (b.stepCheck slot).power = b.power := by
  unfold Body.stepCheck; simp only []; (repeat' split) <;> simp
@[simp] theorem Body.stepCheck_tiers (b : Body) (slot : Nat) : (b.stepCheck slot).tiers = b.tiers := by
  unfold Body.stepCheck; simp only []; (repeat' split) <;> simp
@[simp] theorem Body.stepCheck_rnd (b : Body) (slot : Nat) : (b.stepCheck slot).rnd = b.rnd := by
  unfold Body.stepCheck; simp only []; (repeat' split) <;> simp
@[simp] theorem Body.stepCheck_berths (b : Body) (slot : Nat) : (b.stepCheck slot).berths = b.berths := by
  unfold Body.stepCheck; simp only []; (repeat' split) <;> simp
@[simp] theorem Body.stepCheck_ops (b : Body) (slot : Nat) : (b.stepCheck slot).ops = b.ops := by
  unfold Body.stepCheck; simp only []; (repeat' split) <;> simp
@[simp] theorem Body.stepCheck_jigs (b : Body) (slot : Nat) : (b.stepCheck slot).jigs = b.jigs := by
  unfold Body.stepCheck; simp only []; (repeat' split) <;> simp
@[simp] theorem Body.stepCheck_ferry (b : Body) (slot : Nat) : (b.stepCheck slot).ferry = b.ferry := by
  unfold Body.stepCheck; simp only []; (repeat' split) <;> simp
@[simp] theorem Body.stepCheck_hm_nextUid (b : Body) (slot : Nat) : (b.stepCheck slot).hm.nextUid = b.hm.nextUid := by
  unfold Body.stepCheck; simp only []; (repeat' split) <;> simp
@[simp] theorem Body.stepCheck_hm_rrUsed (b : Body) (slot : Nat) : (b.stepCheck slot).hm.rrUsed = b.hm.rrUsed := by
  unfold Body.stepCheck; simp only []; (repeat' split) <;> simp
@[simp] theorem Body.stepCheck_hm_rrLast (b : Body) (slot : Nat) : (b.stepCheck slot).hm.rrLast = b.hm.rrLast := by
  unfold Body.stepCheck; simp only []; (repeat' split) <;> simp
@[simp] theorem Body.stepCheck_hm_stepLast (b : Body) (slot : Nat) : (b.stepCheck slot).hm.stepLast = b.hm.stepLast := by
  unfold Body.stepCheck; simp only []; (repeat' split) <;> simp
@[simp] theorem Body.stepCheck_hm_skips (b : Body) (slot : Nat) : (b.stepCheck slot).hm.skips = b.hm.skips := by
  unfold Body.stepCheck; simp only []; (repeat' split) <;> simp
@[simp] theorem Body.stepCheck_hm_sregs (b : Body) (slot : Nat) : (b.stepCheck slot).hm.sregs = b.hm.sregs := by
  unfold Body.stepCheck; simp only []; (repeat' split) <;> simp
@[simp] theorem Body.stepCheck_hm_batch (b : Body) (slot : Nat) : (b.stepCheck slot).hm.batch = b.hm.batch := by
  unfold Body.stepCheck; simp only []; (repeat' split) <;> simp
@[simp] theorem Body.stepCheck_hm_chains (b : Body) (slot : Nat) : (b.stepCheck slot).hm.chains = b.hm.chains := by
  unfold Body.stepCheck; simp only []; (repeat' split) <;> simp
@[simp] theorem Body.stepCheck_hm_waits (b : Body) (slot : Nat) : (b.stepCheck slot).hm.waits = b.hm.waits := by
  unfold Body.stepCheck; simp only []; (repeat' split) <;> simp
@[simp] theorem Body.stepCheck_hm_returned (b : Body) (slot : Nat) : (b.stepCheck slot).hm.returned = b.hm.returned := by
  unfold Body.stepCheck; simp only []; (repeat' split) <;> simp
@[simp] theorem Body.stepCheck_hm_halting (b : Body) (slot : Nat) : (b.stepCheck slot).hm.halting = b.hm.halting := by
  unfold Body.stepCheck; simp only []; (repeat' split) <;> simp
@[simp] theorem Body.stepCheck_hm_sramDead (b : Body) (slot : Nat) : (b.stepCheck slot).hm.sramDead = b.hm.sramDead := by
  unfold Body.stepCheck; simp only []; (repeat' split) <;> simp
@[simp] theorem Body.stepCheck_crates_maps (b : Body) (slot : Nat) : (b.stepCheck slot).crates.maps = b.crates.maps := by
  unfold Body.stepCheck; simp only []; (repeat' split) <;> simp
@[simp] theorem Body.stepCheck_crates_pools (b : Body) (slot : Nat) : (b.stepCheck slot).crates.pools = b.crates.pools := by
  unfold Body.stepCheck; simp only []; (repeat' split) <;> simp
@[simp] theorem Body.stepCheck_crates_moves (b : Body) (slot : Nat) : (b.stepCheck slot).crates.moves = b.crates.moves := by
  unfold Body.stepCheck; simp only []; (repeat' split) <;> simp
@[simp] theorem Body.stepCheck_crates_loads (b : Body) (slot : Nat) : (b.stepCheck slot).crates.loads = b.crates.loads := by
  unfold Body.stepCheck; simp only []; (repeat' split) <;> simp
@[simp] theorem Body.stepCheck_crates_reserved (b : Body) (slot : Nat) : (b.stepCheck slot).crates.reserved = b.crates.reserved := by
  unfold Body.stepCheck; simp only []; (repeat' split) <;> simp
@[simp] theorem Body.stepCheck_tele_fits (b : Body) (slot : Nat) : (b.stepCheck slot).tele.fits = b.tele.fits := by
  unfold Body.stepCheck; simp only []; (repeat' split) <;> simp
@[simp] theorem Body.stepCheck_tele_push (b : Body) (slot : Nat) : (b.stepCheck slot).tele.push = b.tele.push := by
  unfold Body.stepCheck; simp only []; (repeat' split) <;> simp
@[simp] theorem Body.stepCheck_tele_probe (b : Body) (slot : Nat) : (b.stepCheck slot).tele.probe = b.tele.probe := by
  unfold Body.stepCheck; simp only []; (repeat' split) <;> simp
@[simp] theorem Body.stepCheck_tele_errPend (b : Body) (slot : Nat) : (b.stepCheck slot).tele.errPend = b.tele.errPend := by
  unfold Body.stepCheck; simp only []; (repeat' split) <;> simp
@[simp] theorem Body.stepCheck_tele_errMain (b : Body) (slot : Nat) : (b.stepCheck slot).tele.errMain = b.tele.errMain := by
  unfold Body.stepCheck; simp only []; (repeat' split) <;> simp
@[simp] theorem Body.stepCheck_tele_errWatch (b : Body) (slot : Nat) : (b.stepCheck slot).tele.errWatch = b.tele.errWatch := by
  unfold Body.stepCheck; simp only []; (repeat' split) <;> simp
@[simp] theorem Body.stepCheck_tele_watchSeq (b : Body) (slot : Nat) : (b.stepCheck slot).tele.watchSeq = b.tele.watchSeq := by
  unfold Body.stepCheck; simp only []; (repeat' split) <;> simp

end Sys2Proof.Machine
end

