-- ==== Sys2Proof/Laws/Regs.lean ====
section
/-! SUPPORT. Laws of the register file (R8, R13, R14): what a register reads after its own write, after a write to another
address, and after the operations that touch none. -/

namespace Sys2Proof.Machine

/-- A register whose word the register file stores: all but the serial number, which is a fuse (R10). -/
def Reg.stored (r : Reg) : Prop := r ≠ .scId0 ∧ r ≠ .scId1

theorem Body.reg_stored (b : Body) {r : Reg} (h : r.stored) : b.reg r = SMap.get b.regs r.dflt r.addr := by
  unfold Body.reg
  split
  · exact absurd rfl h.1
  · exact absurd rfl h.2
  · rfl

theorem Body.reg_congr {b c : Body} (h : b.regs = c.regs) (r : Reg) : b.reg r = c.reg r := by
  unfold Body.reg; rw [h]

theorem Body.getF_congr {b c : Body} (h : b.regs = c.regs) (r : Reg) (f : Fld) : b.getF r f = c.getF r f := by
  unfold Body.getF; rw [Body.reg_congr h]

theorem Body.reg_setReg_self (b : Body) {r : Reg} (w : Word) (ho : r.ok = true) (hs : r.stored) :
    (b.setReg r w).reg r = w := by
  rw [Body.reg_stored _ hs]; simp [Body.setReg, ho]

theorem Body.reg_setReg_ne (b : Body) {r q : Reg} (w : Word) (h : q.addr ≠ r.addr) : (b.setReg r w).reg q = b.reg q := by
  unfold Body.setReg
  split
  · unfold Body.reg
    split
    · rfl
    · rfl
    · simp only [SMap.get_set_ne _ _ _ _ h]
  · rfl

theorem Body.reg_setF_ne (b : Body) {r q : Reg} (f : Fld) (v : Nat) (h : q.addr ≠ r.addr) :
    (b.setF r f v).reg q = b.reg q := Body.reg_setReg_ne b _ h

theorem Body.getF_setF_ne (b : Body) {r q : Reg} (f x : Fld) (v : Nat) (h : q.addr ≠ r.addr) :
    (b.setF r f v).getF q x = b.getF q x := by unfold Body.getF; rw [Body.reg_setF_ne b f v h]

theorem Body.reg_bump_ne (b : Body) {r q : Reg} (f : Fld) (n : Nat) (h : q.addr ≠ r.addr) :
    (b.bump r f n).reg q = b.reg q := Body.reg_setF_ne b _ _ h

theorem Body.getF_bump_ne (b : Body) {r q : Reg} (f x : Fld) (n : Nat) (h : q.addr ≠ r.addr) :
    (b.bump r f n).getF q x = b.getF q x := Body.getF_setF_ne b _ _ _ h

/-! ### Bit fields -/

theorem putBits_lt {n hi lo v w : Nat} (hn : n < 2 ^ w) (hw : hi < w) (hl : lo ≤ hi) : putBits n hi lo v < 2 ^ w := by
  have h0 : (0:Nat) < 2 ^ lo := Nat.two_pow_pos _
  have h1 : v % 2 ^ (hi + 1 - lo) < 2 ^ (hi + 1 - lo) := Nat.mod_lt _ (Nat.two_pow_pos _)
  have h2 : n % 2 ^ lo < 2 ^ lo := Nat.mod_lt _ h0
  have e1 : 2 ^ (hi + 1) = 2 ^ (hi + 1 - lo) * 2 ^ lo := by rw [← Nat.pow_add]; congr 1; omega
  have e2 : 2 ^ w = 2 ^ (w - (hi + 1)) * 2 ^ (hi + 1) := by rw [← Nat.pow_add]; congr 1; omega
  have h3 : n >>> (hi + 1) < 2 ^ (w - (hi + 1)) := by
    rw [Nat.shiftRight_eq_div_pow]; apply Nat.div_lt_of_lt_mul; rw [Nat.mul_comm, ← e2]; exact hn
  have h4 : (v % 2 ^ (hi + 1 - lo)) * 2 ^ lo + n % 2 ^ lo < 2 ^ (hi + 1) := by
    rw [e1]; calc _ < (v % 2 ^ (hi + 1 - lo)) * 2 ^ lo + 2 ^ lo := by omega
      _ = (v % 2 ^ (hi + 1 - lo) + 1) * 2 ^ lo := by ring
      _ ≤ _ := Nat.mul_le_mul_right _ h1
  simp only [putBits, Nat.shiftLeft_eq]
  rw [e2]
  calc _ < n >>> (hi + 1) * 2 ^ (hi + 1) + 2 ^ (hi + 1) := by omega
    _ = (n >>> (hi + 1) + 1) * 2 ^ (hi + 1) := by ring
    _ ≤ _ := Nat.mul_le_mul_right _ h3

theorem putBits_low {n hi lo v : Nat} :
    putBits n hi lo v % 2 ^ lo = n % 2 ^ lo ∨ lo > hi := by
  by_cases hl : lo ≤ hi
  · left
    have e1 : 2 ^ (hi + 1) = 2 ^ (hi + 1 - lo) * 2 ^ lo := by rw [← Nat.pow_add]; congr 1; omega
    simp only [putBits, Nat.shiftLeft_eq]
    rw [e1, show n >>> (hi + 1) * (2 ^ (hi + 1 - lo) * 2 ^ lo) + v % 2 ^ (hi + 1 - lo) * 2 ^ lo + n % 2 ^ lo =
      n % 2 ^ lo + (n >>> (hi + 1) * 2 ^ (hi + 1 - lo) + v % 2 ^ (hi + 1 - lo)) * 2 ^ lo by ring,
      Nat.add_mul_mod_self_right, Nat.mod_mod]
  · right; omega

theorem putBits_div {n hi lo v : Nat} (hl : lo ≤ hi) :
    putBits n hi lo v / 2 ^ lo = n >>> (hi + 1) * 2 ^ (hi + 1 - lo) + v % 2 ^ (hi + 1 - lo) := by
  have e1 : 2 ^ (hi + 1) = 2 ^ (hi + 1 - lo) * 2 ^ lo := by rw [← Nat.pow_add]; congr 1; omega
  simp only [putBits, Nat.shiftLeft_eq]
  rw [e1, show n >>> (hi + 1) * (2 ^ (hi + 1 - lo) * 2 ^ lo) + v % 2 ^ (hi + 1 - lo) * 2 ^ lo + n % 2 ^ lo =
      n % 2 ^ lo + (n >>> (hi + 1) * 2 ^ (hi + 1 - lo) + v % 2 ^ (hi + 1 - lo)) * 2 ^ lo by ring,
    Nat.add_mul_div_right _ _ (Nat.two_pow_pos _), Nat.div_eq_of_lt (Nat.mod_lt _ (Nat.two_pow_pos _)), Nat.zero_add]

theorem bits_putBits_self {n hi lo v : Nat} (hl : lo ≤ hi) : bits (putBits n hi lo v) hi lo = v % 2 ^ (hi + 1 - lo) := by
  simp only [bits, Nat.shiftRight_eq_div_pow, putBits_div hl]
  rw [Nat.add_comm, Nat.add_mul_mod_self_right, Nat.mod_mod]

theorem bits_putBits_below {n hi lo v h l : Nat} (hl : lo ≤ hi) (hb : h < lo) (hle : l ≤ h) :
    bits (putBits n hi lo v) h l = bits n h l := by
  have key : ∀ m : Nat, bits m h l = bits (m % 2 ^ lo) h l := by
    intro m
    simp only [bits, Nat.shiftRight_eq_div_pow]
    have e : 2 ^ lo = 2 ^ l * 2 ^ (h + 1 - l) * 2 ^ (lo - (h + 1)) := by
      rw [← Nat.pow_add, ← Nat.pow_add]; congr 1; omega
    rw [e, Nat.mul_assoc, Nat.mod_mul_right_div_self, Nat.mod_mod_of_dvd _ (Dvd.intro _ rfl)]
  rw [key, key n, (putBits_low (n := n) (hi := hi) (lo := lo) (v := v)).resolve_right (by omega)]

theorem bits_putBits_above {n hi lo v h l : Nat} (hl : lo ≤ hi) (hb : hi < l) :
    bits (putBits n hi lo v) h l = bits n h l := by
  simp only [bits]
  congr 1
  have e : ∀ m : Nat, m >>> l = m / 2 ^ lo / 2 ^ (hi + 1 - lo) / 2 ^ (l - (hi + 1)) := by
    intro m
    rw [Nat.shiftRight_eq_div_pow, Nat.div_div_eq_div_mul, Nat.div_div_eq_div_mul, ← Nat.pow_add, ← Nat.pow_add]
    congr 2; omega
  rw [e, e n, putBits_div hl]
  congr 1
  rw [Nat.add_comm, Nat.add_mul_div_right _ _ (Nat.two_pow_pos _), Nat.div_eq_of_lt (Nat.mod_lt _ (Nat.two_pow_pos _)),
    Nat.zero_add, Nat.shiftRight_eq_div_pow, Nat.div_div_eq_div_mul, ← Nat.pow_add]
  congr 2; omega

/-- A field reads what was set in it, cut to its width. -/
theorem Body.getF_setF_self (b : Body) {r : Reg} {f : Fld} (v : Nat) (ho : r.ok = true) (hs : r.stored)
    (hl : f.lo ≤ f.hi) (hh : f.hi < 64) : (b.setF r f v).getF r f = v % 2 ^ f.width := by
  have hlt : putBits (b.reg r).toNat f.hi f.lo v < 2 ^ 64 := putBits_lt (b.reg r).isLt hh hl
  simp only [Body.getF, Body.setF, Body.reg_setReg_self b _ ho hs, Word.fld, BitVec.toNat_ofNat, Nat.mod_eq_of_lt hlt,
    bits_putBits_self hl, Fld.width]

/-- Another field of the same register keeps its value. -/
theorem Body.getF_setF_apart (b : Body) {r : Reg} {f g : Fld} (v : Nat) (ho : r.ok = true) (hs : r.stored)
    (hl : f.lo ≤ f.hi) (hh : f.hi < 64) (hg : g.lo ≤ g.hi) (ha : g.hi < f.lo ∨ f.hi < g.lo) :
    (b.setF r f v).getF r g = b.getF r g := by
  have hlt : putBits (b.reg r).toNat f.hi f.lo v < 2 ^ 64 := putBits_lt (b.reg r).isLt hh hl
  simp only [Body.getF, Body.setF, Body.reg_setReg_self b _ ho hs, Word.fld, BitVec.toNat_ofNat, Nat.mod_eq_of_lt hlt]
  rcases ha with ha | ha
  · exact bits_putBits_below hl ha hg
  · exact bits_putBits_above hl ha

/-! ### Operations that touch no register -/

@[simp] theorem Body.send_reg (b : Body) (m : Msg) (q : Reg) : (b.send m).reg q = b.reg q := Body.reg_congr (by simp) q
@[simp] theorem Body.send_getF (b : Body) (m : Msg) (q : Reg) (x : Fld) : (b.send m).getF q x = b.getF q x := Body.getF_congr (by simp) q x
@[simp] theorem Body.free_reg (b : Body) (q : Reg) : (b.free).2.reg q = b.reg q := Body.reg_congr (by simp) q
@[simp] theorem Body.free_getF (b : Body) (q : Reg) (x : Fld) : (b.free).2.getF q x = b.getF q x := Body.getF_congr (by simp) q x
@[simp] theorem Body.setByte_reg (b : Body) (a : Nat) (v : Byte) (q : Reg) : (b.setByte a v).reg q = b.reg q := Body.reg_congr (by simp) q
@[simp] theorem Body.setByte_getF (b : Body) (a : Nat) (v : Byte) (q : Reg) (x : Fld) : (b.setByte a v).getF q x = b.getF q x := Body.getF_congr (by simp) q x
@[simp] theorem Body.setBytes_reg (b : Body) (a : Nat) (l : List Byte) (q : Reg) : (b.setBytes a l).reg q = b.reg q := Body.reg_congr (by simp) q
@[simp] theorem Body.setBytes_getF (b : Body) (a : Nat) (l : List Byte) (q : Reg) (x : Fld) : (b.setBytes a l).getF q x = b.getF q x := Body.getF_congr (by simp) q x
@[simp] theorem Body.setLe_reg (b : Body) (a : Nat) (n : Nat) (v : Nat) (q : Reg) : (b.setLe a n v).reg q = b.reg q := Body.reg_congr (by simp) q
@[simp] theorem Body.setLe_getF (b : Body) (a : Nat) (n : Nat) (v : Nat) (q : Reg) (x : Fld) : (b.setLe a n v).getF q x = b.getF q x := Body.getF_congr (by simp) q x
@[simp] theorem Body.setBg_reg (b : Body) (r : Nat) (code : Nat) (q : Reg) : (b.setBg r code).reg q = b.reg q := Body.reg_congr (by simp) q
@[simp] theorem Body.setBg_getF (b : Body) (r : Nat) (code : Nat) (q : Reg) (x : Fld) : (b.setBg r code).getF q x = b.getF q x := Body.getF_congr (by simp) q x
@[simp] theorem Body.zeroRegion_reg (b : Body) (r : Nat) (q : Reg) : (b.zeroRegion r).reg q = b.reg q := Body.reg_congr (by simp) q
@[simp] theorem Body.zeroRegion_getF (b : Body) (r : Nat) (q : Reg) (x : Fld) : (b.zeroRegion r).getF q x = b.getF q x := Body.getF_congr (by simp) q x
@[simp] theorem Body.loseRegion_reg (b : Body) (r : Nat) (q : Reg) : (b.loseRegion r).reg q = b.reg q := Body.reg_congr (by simp) q
@[simp] theorem Body.loseRegion_getF (b : Body) (r : Nat) (q : Reg) (x : Fld) : (b.loseRegion r).getF q x = b.getF q x := Body.getF_congr (by simp) q x
@[simp] theorem Body.blurPart_reg (b : Body) (a : Nat) (n : Nat) (q : Reg) : (b.blurPart a n).reg q = b.reg q := Body.reg_congr (by simp) q
@[simp] theorem Body.blurPart_getF (b : Body) (a : Nat) (n : Nat) (q : Reg) (x : Fld) : (b.blurPart a n).getF q x = b.getF q x := Body.getF_congr (by simp) q x
@[simp] theorem Body.blur_reg (b : Body) (a : Nat) (n : Nat) (q : Reg) : (b.blur a n).reg q = b.reg q := Body.reg_congr (by simp) q
@[simp] theorem Body.blur_getF (b : Body) (a : Nat) (n : Nat) (q : Reg) (x : Fld) : (b.blur a n).getF q x = b.getF q x := Body.getF_congr (by simp) q x
@[simp] theorem Body.updInfo_reg (b : Body) (k : Nat) (f : CtxInfo → CtxInfo) (q : Reg) : (b.updInfo k f).reg q = b.reg q := Body.reg_congr (by simp) q
@[simp] theorem Body.updInfo_getF (b : Body) (k : Nat) (f : CtxInfo → CtxInfo) (q : Reg) (x : Fld) : (b.updInfo k f).getF q x = b.getF q x := Body.getF_congr (by simp) q x
@[simp] theorem Body.setEntry_reg (b : Body) (slot : Nat) (idx : Nat) (e : Entry) (q : Reg) : (b.setEntry slot idx e).reg q = b.reg q := Body.reg_congr (by simp) q
@[simp] theorem Body.setEntry_getF (b : Body) (slot : Nat) (idx : Nat) (e : Entry) (q : Reg) (x : Fld) : (b.setEntry slot idx e).getF q x = b.getF q x := Body.getF_congr (by simp) q x
@[simp] theorem Body.log_reg (b : Body) (kind : Nat) (unit : Nat) (code : Nat) (status : Nat) (ctx : Nat) (tag : Nat) (arg : Nat) (q : Reg) : (b.log kind unit code status ctx tag arg).reg q = b.reg q := Body.reg_congr (by simp) q
@[simp] theorem Body.log_getF (b : Body) (kind : Nat) (unit : Nat) (code : Nat) (status : Nat) (ctx : Nat) (tag : Nat) (arg : Nat) (q : Reg) (x : Fld) : (b.log kind unit code status ctx tag arg).getF q x = b.getF q x := Body.getF_congr (by simp) q x
@[simp] theorem Body.dbgEnd_reg (b : Body) (uid : Nat) (outcome : Nat) (status : Nat) (q : Reg) : (b.dbgEnd uid outcome status).reg q = b.reg q := Body.reg_congr (by simp) q
@[simp] theorem Body.dbgEnd_getF (b : Body) (uid : Nat) (outcome : Nat) (status : Nat) (q : Reg) (x : Fld) : (b.dbgEnd uid outcome status).getF q x = b.getF q x := Body.getF_congr (by simp) q x
@[simp] theorem Body.unitDone_reg (b : Body) (uid : Nat) (q : Reg) : (b.unitDone uid).reg q = b.reg q := Body.reg_congr (by simp) q
@[simp] theorem Body.unitDone_getF (b : Body) (uid : Nat) (q : Reg) (x : Fld) : (b.unitDone uid).getF q x = b.getF q x := Body.getF_congr (by simp) q x
@[simp] theorem Body.start_reg (b : Body) (fl : Flight) (q : Reg) : (b.start fl).reg q = b.reg q := Body.reg_congr (by simp) q
@[simp] theorem Body.start_getF (b : Body) (fl : Flight) (q : Reg) (x : Fld) : (b.start fl).getF q x = b.getF q x := Body.getF_congr (by simp) q x
@[simp] theorem Body.keep_reg (b : Body) (fl : Flight) (p : List Nat) (q : Reg) : (b.keep fl p).reg q = b.reg q := Body.reg_congr (by simp) q
@[simp] theorem Body.keep_getF (b : Body) (fl : Flight) (p : List Nat) (q : Reg) (x : Fld) : (b.keep fl p).getF q x = b.getF q x := Body.getF_congr (by simp) q x
@[simp] theorem Body.setSluice_reg (b : Body) (i : Nat) (t : Nat) (s : Sluice) (q : Reg) : (b.setSluice i t s).reg q = b.reg q := Body.reg_congr (by simp) q
@[simp] theorem Body.setSluice_getF (b : Body) (i : Nat) (t : Nat) (s : Sluice) (q : Reg) (x : Fld) : (b.setSluice i t s).getF q x = b.getF q x := Body.getF_congr (by simp) q x
@[simp] theorem Body.updQp_reg (b : Body) (k : Nat) (f : Qp → Qp) (q : Reg) : (b.updQp k f).reg q = b.reg q := Body.reg_congr (by simp) q
@[simp] theorem Body.updQp_getF (b : Body) (k : Nat) (f : Qp → Qp) (q : Reg) (x : Fld) : (b.updQp k f).getF q x = b.getF q x := Body.getF_congr (by simp) q x
@[simp] theorem Body.updCq_reg (b : Body) (n : Nat) (f : CqRing → CqRing) (q : Reg) : (b.updCq n f).reg q = b.reg q := Body.reg_congr (by simp) q
@[simp] theorem Body.updCq_getF (b : Body) (n : Nat) (f : CqRing → CqRing) (q : Reg) (x : Fld) : (b.updCq n f).getF q x = b.getF q x := Body.getF_congr (by simp) q x

end Sys2Proof.Machine
end

