-- ==== Sys2Proof/Laws/Blocks.lean ====
section
/-! SUPPORT. What the operations on one block's part of the state leave alone, field by field. -/

namespace Sys2Proof.Machine

@[simp] theorem Body.updBerth_ts (b : Body) (g : Nat) (f : Berth → Berth) : (b.updBerth g f).ts = b.ts := rfl
@[simp] theorem Body.updBerth_freeCtr (b : Body) (g : Nat) (f : Berth → Berth) : (b.updBerth g f).freeCtr = b.freeCtr := rfl
@[simp] theorem Body.updBerth_out (b : Body) (g : Nat) (f : Berth → Berth) : (b.updBerth g f).out = b.out := rfl
@[simp] theorem Body.updBerth_regs (b : Body) (g : Nat) (f : Berth → Berth) : (b.updBerth g f).regs = b.regs := rfl
@[simp] theorem Body.updBerth_mem (b : Body) (g : Nat) (f : Berth → Berth) : (b.updBerth g f).mem = b.mem := rfl
@[simp] theorem Body.updBerth_bg (b : Body) (g : Nat) (f : Berth → Berth) : (b.updBerth g f).bg = b.bg := rfl
@[simp] theorem Body.updBerth_epoch (b : Body) (g : Nat) (f : Berth → Berth) : (b.updBerth g f).epoch = b.epoch := rfl
@[simp] theorem Body.updBerth_haze (b : Body) (g : Nat) (f : Berth → Berth) : (b.updBerth g f).haze = b.haze := rfl
@[simp] theorem Body.updBerth_framing (b : Body) (g : Nat) (f : Berth → Berth) : (b.updBerth g f).framing = b.framing := rfl
@[simp] theorem Body.updBerth_bw (b : Body) (g : Nat) (f : Berth → Berth) : (b.updBerth g f).bw = b.bw := rfl
@[simp] theorem Body.updBerth_hm (b : Body) (g : Nat) (f : Berth → Berth) : (b.updBerth g f).hm = b.hm := rfl
@[simp] theorem Body.updBerth_st (b : Body) (g : Nat) (f : Berth → Berth) : (b.updBerth g f).st = b.st := rfl
@[simp] theorem Body.updBerth_eth (b : Body) (g : Nat) (f : Berth → Berth) : (b.updBerth g f).eth = b.eth := rfl
@[simp] theorem Body.updBerth_ln (b : Body) (g : Nat) (f : Berth → Berth) : (b.updBerth g f).ln = b.ln := rfl
@[simp] theorem Body.updBerth_boot (b : Body) (g : Nat) (f : Berth → Berth) : (b.updBerth g f).boot = b.boot := rfl
@[simp] theorem Body.updBerth_unlock (b : Body) (g : Nat) (f : Berth → Berth) : (b.updBerth g f).unlock = b.unlock := rfl
@[simp] theorem Body.updBerth_power (b : Body) (g : Nat) (f : Berth → Berth) : (b.updBerth g f).power = b.power := rfl
@[simp] theorem Body.updBerth_tele (b : Body) (g : Nat) (f : Berth → Berth) : (b.updBerth g f).tele = b.tele := rfl
@[simp] theorem Body.updBerth_tiers (b : Body) (g : Nat) (f : Berth → Berth) : (b.updBerth g f).tiers = b.tiers := rfl
@[simp] theorem Body.updBerth_crates (b : Body) (g : Nat) (f : Berth → Berth) : (b.updBerth g f).crates = b.crates := rfl
@[simp] theorem Body.updBerth_rnd (b : Body) (g : Nat) (f : Berth → Berth) : (b.updBerth g f).rnd = b.rnd := rfl
@[simp] theorem Body.updBerth_ops (b : Body) (g : Nat) (f : Berth → Berth) : (b.updBerth g f).ops = b.ops := rfl
@[simp] theorem Body.updBerth_jigs (b : Body) (g : Nat) (f : Berth → Berth) : (b.updBerth g f).jigs = b.jigs := rfl
@[simp] theorem Body.updBerth_ferry (b : Body) (g : Nat) (f : Berth → Berth) : (b.updBerth g f).ferry = b.ferry := rfl
@[simp] theorem Body.updDowel_ts (b : Body) (g : Nat) (d : Nat) (f : Dowel → Dowel) : (b.updDowel g d f).ts = b.ts := rfl
@[simp] theorem Body.updDowel_freeCtr (b : Body) (g : Nat) (d : Nat) (f : Dowel → Dowel) : (b.updDowel g d f).freeCtr = b.freeCtr := rfl
@[simp] theorem Body.updDowel_out (b : Body) (g : Nat) (d : Nat) (f : Dowel → Dowel) : (b.updDowel g d f).out = b.out := rfl
@[simp] theorem Body.updDowel_regs (b : Body) (g : Nat) (d : Nat) (f : Dowel → Dowel) : (b.updDowel g d f).regs = b.regs := rfl
@[simp] theorem Body.updDowel_mem (b : Body) (g : Nat) (d : Nat) (f : Dowel → Dowel) : (b.updDowel g d f).mem = b.mem := rfl
@[simp] theorem Body.updDowel_bg (b : Body) (g : Nat) (d : Nat) (f : Dowel → Dowel) : (b.updDowel g d f).bg = b.bg := rfl
@[simp] theorem Body.updDowel_epoch (b : Body) (g : Nat) (d : Nat) (f : Dowel → Dowel) : (b.updDowel g d f).epoch = b.epoch := rfl
@[simp] theorem Body.updDowel_haze (b : Body) (g : Nat) (d : Nat) (f : Dowel → Dowel) : (b.updDowel g d f).haze = b.haze := rfl
@[simp] theorem Body.updDowel_framing (b : Body) (g : Nat) (d : Nat) (f : Dowel → Dowel) : (b.updDowel g d f).framing = b.framing := rfl
@[simp] theorem Body.updDowel_bw (b : Body) (g : Nat) (d : Nat) (f : Dowel → Dowel) : (b.updDowel g d f).bw = b.bw := rfl
@[simp] theorem Body.updDowel_hm (b : Body) (g : Nat) (d : Nat) (f : Dowel → Dowel) : (b.updDowel g d f).hm = b.hm := rfl
@[simp] theorem Body.updDowel_st (b : Body) (g : Nat) (d : Nat) (f : Dowel → Dowel) : (b.updDowel g d f).st = b.st := rfl
@[simp] theorem Body.updDowel_eth (b : Body) (g : Nat) (d : Nat) (f : Dowel → Dowel) : (b.updDowel g d f).eth = b.eth := rfl
@[simp] theorem Body.updDowel_ln (b : Body) (g : Nat) (d : Nat) (f : Dowel → Dowel) : (b.updDowel g d f).ln = b.ln := rfl
@[simp] theorem Body.updDowel_boot (b : Body) (g : Nat) (d : Nat) (f : Dowel → Dowel) : (b.updDowel g d f).boot = b.boot := rfl
@[simp] theorem Body.updDowel_unlock (b : Body) (g : Nat) (d : Nat) (f : Dowel → Dowel) : (b.updDowel g d f).unlock = b.unlock := rfl
@[simp] theorem Body.updDowel_power (b : Body) (g : Nat) (d : Nat) (f : Dowel → Dowel) : (b.updDowel g d f).power = b.power := rfl
@[simp] theorem Body.updDowel_tele (b : Body) (g : Nat) (d : Nat) (f : Dowel → Dowel) : (b.updDowel g d f).tele = b.tele := rfl
@[simp] theorem Body.updDowel_tiers (b : Body) (g : Nat) (d : Nat) (f : Dowel → Dowel) : (b.updDowel g d f).tiers = b.tiers := rfl
@[simp] theorem Body.updDowel_crates (b : Body) (g : Nat) (d : Nat) (f : Dowel → Dowel) : (b.updDowel g d f).crates = b.crates := rfl
@[simp] theorem Body.updDowel_rnd (b : Body) (g : Nat) (d : Nat) (f : Dowel → Dowel) : (b.updDowel g d f).rnd = b.rnd := rfl
@[simp] theorem Body.updDowel_ops (b : Body) (g : Nat) (d : Nat) (f : Dowel → Dowel) : (b.updDowel g d f).ops = b.ops := rfl
@[simp] theorem Body.updDowel_jigs (b : Body) (g : Nat) (d : Nat) (f : Dowel → Dowel) : (b.updDowel g d f).jigs = b.jigs := rfl
@[simp] theorem Body.updDowel_ferry (b : Body) (g : Nat) (d : Nat) (f : Dowel → Dowel) : (b.updDowel g d f).ferry = b.ferry := rfl
@[simp] theorem Body.setTile_ts (b : Body) (g : Nat) (t : Nat) (v : List Nat) : (b.setTile g t v).ts = b.ts := rfl
@[simp] theorem Body.setTile_freeCtr (b : Body) (g : Nat) (t : Nat) (v : List Nat) : (b.setTile g t v).freeCtr = b.freeCtr := rfl
@[simp] theorem Body.setTile_out (b : Body) (g : Nat) (t : Nat) (v : List Nat) : (b.setTile g t v).out = b.out := rfl
@[simp] theorem Body.setTile_regs (b : Body) (g : Nat) (t : Nat) (v : List Nat) : (b.setTile g t v).regs = b.regs := rfl
@[simp] theorem Body.setTile_mem (b : Body) (g : Nat) (t : Nat) (v : List Nat) : (b.setTile g t v).mem = b.mem := rfl
@[simp] theorem Body.setTile_bg (b : Body) (g : Nat) (t : Nat) (v : List Nat) : (b.setTile g t v).bg = b.bg := rfl
@[simp] theorem Body.setTile_epoch (b : Body) (g : Nat) (t : Nat) (v : List Nat) : (b.setTile g t v).epoch = b.epoch := rfl
@[simp] theorem Body.setTile_haze (b : Body) (g : Nat) (t : Nat) (v : List Nat) : (b.setTile g t v).haze = b.haze := rfl
@[simp] theorem Body.setTile_framing (b : Body) (g : Nat) (t : Nat) (v : List Nat) : (b.setTile g t v).framing = b.framing := rfl
@[simp] theorem Body.setTile_bw (b : Body) (g : Nat) (t : Nat) (v : List Nat) : (b.setTile g t v).bw = b.bw := rfl
@[simp] theorem Body.setTile_hm (b : Body) (g : Nat) (t : Nat) (v : List Nat) : (b.setTile g t v).hm = b.hm := rfl
@[simp] theorem Body.setTile_st (b : Body) (g : Nat) (t : Nat) (v : List Nat) : (b.setTile g t v).st = b.st := rfl
@[simp] theorem Body.setTile_eth (b : Body) (g : Nat) (t : Nat) (v : List Nat) : (b.setTile g t v).eth = b.eth := rfl
@[simp] theorem Body.setTile_ln (b : Body) (g : Nat) (t : Nat) (v : List Nat) : (b.setTile g t v).ln = b.ln := rfl
@[simp] theorem Body.setTile_boot (b : Body) (g : Nat) (t : Nat) (v : List Nat) : (b.setTile g t v).boot = b.boot := rfl
@[simp] theorem Body.setTile_unlock (b : Body) (g : Nat) (t : Nat) (v : List Nat) : (b.setTile g t v).unlock = b.unlock := rfl
@[simp] theorem Body.setTile_power (b : Body) (g : Nat) (t : Nat) (v : List Nat) : (b.setTile g t v).power = b.power := rfl
@[simp] theorem Body.setTile_tele (b : Body) (g : Nat) (t : Nat) (v : List Nat) : (b.setTile g t v).tele = b.tele := rfl
@[simp] theorem Body.setTile_tiers (b : Body) (g : Nat) (t : Nat) (v : List Nat) : (b.setTile g t v).tiers = b.tiers := rfl
@[simp] theorem Body.setTile_crates (b : Body) (g : Nat) (t : Nat) (v : List Nat) : (b.setTile g t v).crates = b.crates := rfl
@[simp] theorem Body.setTile_rnd (b : Body) (g : Nat) (t : Nat) (v : List Nat) : (b.setTile g t v).rnd = b.rnd := rfl
@[simp] theorem Body.setTile_ops (b : Body) (g : Nat) (t : Nat) (v : List Nat) : (b.setTile g t v).ops = b.ops := rfl
@[simp] theorem Body.setTile_jigs (b : Body) (g : Nat) (t : Nat) (v : List Nat) : (b.setTile g t v).jigs = b.jigs := rfl
@[simp] theorem Body.setTile_ferry (b : Body) (g : Nat) (t : Nat) (v : List Nat) : (b.setTile g t v).ferry = b.ferry := rfl
@[simp] theorem Body.setPred_ts (b : Body) (g : Nat) (p : Nat) (v : Nat) : (b.setPred g p v).ts = b.ts := rfl
@[simp] theorem Body.setPred_freeCtr (b : Body) (g : Nat) (p : Nat) (v : Nat) : (b.setPred g p v).freeCtr = b.freeCtr := rfl
@[simp] theorem Body.setPred_out (b : Body) (g : Nat) (p : Nat) (v : Nat) : (b.setPred g p v).out = b.out := rfl
@[simp] theorem Body.setPred_regs (b : Body) (g : Nat) (p : Nat) (v : Nat) : (b.setPred g p v).regs = b.regs := rfl
@[simp] theorem Body.setPred_mem (b : Body) (g : Nat) (p : Nat) (v : Nat) : (b.setPred g p v).mem = b.mem := rfl
@[simp] theorem Body.setPred_bg (b : Body) (g : Nat) (p : Nat) (v : Nat) : (b.setPred g p v).bg = b.bg := rfl
@[simp] theorem Body.setPred_epoch (b : Body) (g : Nat) (p : Nat) (v : Nat) : (b.setPred g p v).epoch = b.epoch := rfl
@[simp] theorem Body.setPred_haze (b : Body) (g : Nat) (p : Nat) (v : Nat) : (b.setPred g p v).haze = b.haze := rfl
@[simp] theorem Body.setPred_framing (b : Body) (g : Nat) (p : Nat) (v : Nat) : (b.setPred g p v).framing = b.framing := rfl
@[simp] theorem Body.setPred_bw (b : Body) (g : Nat) (p : Nat) (v : Nat) : (b.setPred g p v).bw = b.bw := rfl
@[simp] theorem Body.setPred_hm (b : Body) (g : Nat) (p : Nat) (v : Nat) : (b.setPred g p v).hm = b.hm := rfl
@[simp] theorem Body.setPred_st (b : Body) (g : Nat) (p : Nat) (v : Nat) : (b.setPred g p v).st = b.st := rfl
@[simp] theorem Body.setPred_eth (b : Body) (g : Nat) (p : Nat) (v : Nat) : (b.setPred g p v).eth = b.eth := rfl
@[simp] theorem Body.setPred_ln (b : Body) (g : Nat) (p : Nat) (v : Nat) : (b.setPred g p v).ln = b.ln := rfl
@[simp] theorem Body.setPred_boot (b : Body) (g : Nat) (p : Nat) (v : Nat) : (b.setPred g p v).boot = b.boot := rfl
@[simp] theorem Body.setPred_unlock (b : Body) (g : Nat) (p : Nat) (v : Nat) : (b.setPred g p v).unlock = b.unlock := rfl
@[simp] theorem Body.setPred_power (b : Body) (g : Nat) (p : Nat) (v : Nat) : (b.setPred g p v).power = b.power := rfl
@[simp] theorem Body.setPred_tele (b : Body) (g : Nat) (p : Nat) (v : Nat) : (b.setPred g p v).tele = b.tele := rfl
@[simp] theorem Body.setPred_tiers (b : Body) (g : Nat) (p : Nat) (v : Nat) : (b.setPred g p v).tiers = b.tiers := rfl
@[simp] theorem Body.setPred_crates (b : Body) (g : Nat) (p : Nat) (v : Nat) : (b.setPred g p v).crates = b.crates := rfl
@[simp] theorem Body.setPred_rnd (b : Body) (g : Nat) (p : Nat) (v : Nat) : (b.setPred g p v).rnd = b.rnd := rfl
@[simp] theorem Body.setPred_ops (b : Body) (g : Nat) (p : Nat) (v : Nat) : (b.setPred g p v).ops = b.ops := rfl
@[simp] theorem Body.setPred_jigs (b : Body) (g : Nat) (p : Nat) (v : Nat) : (b.setPred g p v).jigs = b.jigs := rfl
@[simp] theorem Body.setPred_ferry (b : Body) (g : Nat) (p : Nat) (v : Nat) : (b.setPred g p v).ferry = b.ferry := rfl
@[simp] theorem Body.updPort_ts (b : Body) (p : Nat) (f : PortInfo → PortInfo) : (b.updPort p f).ts = b.ts := rfl
@[simp] theorem Body.updPort_freeCtr (b : Body) (p : Nat) (f : PortInfo → PortInfo) : (b.updPort p f).freeCtr = b.freeCtr := rfl
@[simp] theorem Body.updPort_out (b : Body) (p : Nat) (f : PortInfo → PortInfo) : (b.updPort p f).out = b.out := rfl
@[simp] theorem Body.updPort_regs (b : Body) (p : Nat) (f : PortInfo → PortInfo) : (b.updPort p f).regs = b.regs := rfl
@[simp] theorem Body.updPort_mem (b : Body) (p : Nat) (f : PortInfo → PortInfo) : (b.updPort p f).mem = b.mem := rfl
@[simp] theorem Body.updPort_bg (b : Body) (p : Nat) (f : PortInfo → PortInfo) : (b.updPort p f).bg = b.bg := rfl
@[simp] theorem Body.updPort_epoch (b : Body) (p : Nat) (f : PortInfo → PortInfo) : (b.updPort p f).epoch = b.epoch := rfl
@[simp] theorem Body.updPort_haze (b : Body) (p : Nat) (f : PortInfo → PortInfo) : (b.updPort p f).haze = b.haze := rfl
@[simp] theorem Body.updPort_framing (b : Body) (p : Nat) (f : PortInfo → PortInfo) : (b.updPort p f).framing = b.framing := rfl
@[simp] theorem Body.updPort_bw (b : Body) (p : Nat) (f : PortInfo → PortInfo) : (b.updPort p f).bw = b.bw := rfl
@[simp] theorem Body.updPort_hm (b : Body) (p : Nat) (f : PortInfo → PortInfo) : (b.updPort p f).hm = b.hm := rfl
@[simp] theorem Body.updPort_st (b : Body) (p : Nat) (f : PortInfo → PortInfo) : (b.updPort p f).st = b.st := rfl
@[simp] theorem Body.updPort_ln (b : Body) (p : Nat) (f : PortInfo → PortInfo) : (b.updPort p f).ln = b.ln := rfl
@[simp] theorem Body.updPort_boot (b : Body) (p : Nat) (f : PortInfo → PortInfo) : (b.updPort p f).boot = b.boot := rfl
@[simp] theorem Body.updPort_unlock (b : Body) (p : Nat) (f : PortInfo → PortInfo) : (b.updPort p f).unlock = b.unlock := rfl
@[simp] theorem Body.updPort_power (b : Body) (p : Nat) (f : PortInfo → PortInfo) : (b.updPort p f).power = b.power := rfl
@[simp] theorem Body.updPort_tele (b : Body) (p : Nat) (f : PortInfo → PortInfo) : (b.updPort p f).tele = b.tele := rfl
@[simp] theorem Body.updPort_tiers (b : Body) (p : Nat) (f : PortInfo → PortInfo) : (b.updPort p f).tiers = b.tiers := rfl
@[simp] theorem Body.updPort_crates (b : Body) (p : Nat) (f : PortInfo → PortInfo) : (b.updPort p f).crates = b.crates := rfl
@[simp] theorem Body.updPort_rnd (b : Body) (p : Nat) (f : PortInfo → PortInfo) : (b.updPort p f).rnd = b.rnd := rfl
@[simp] theorem Body.updPort_berths (b : Body) (p : Nat) (f : PortInfo → PortInfo) : (b.updPort p f).berths = b.berths := rfl
@[simp] theorem Body.updPort_ops (b : Body) (p : Nat) (f : PortInfo → PortInfo) : (b.updPort p f).ops = b.ops := rfl
@[simp] theorem Body.updPort_jigs (b : Body) (p : Nat) (f : PortInfo → PortInfo) : (b.updPort p f).jigs = b.jigs := rfl
@[simp] theorem Body.updPort_ferry (b : Body) (p : Nat) (f : PortInfo → PortInfo) : (b.updPort p f).ferry = b.ferry := rfl
@[simp] theorem Body.updStream_ts (b : Body) (k : Nat) (f : FyStream → FyStream) : (b.updStream k f).ts = b.ts := by
  unfold Body.updStream; (repeat' split) <;> rfl
@[simp] theorem Body.updStream_freeCtr (b : Body) (k : Nat) (f : FyStream → FyStream) : (b.updStream k f).freeCtr = b.freeCtr := by
  unfold Body.updStream; (repeat' split) <;> rfl
@[simp] theorem Body.updStream_out (b : Body) (k : Nat) (f : FyStream → FyStream) : (b.updStream k f).out = b.out := by
  unfold Body.updStream; (repeat' split) <;> rfl
@[simp] theorem Body.updStream_regs (b : Body) (k : Nat) (f : FyStream → FyStream) : (b.updStream k f).regs = b.regs := by
  unfold Body.updStream; (repeat' split) <;> rfl
@[simp] theorem Body.updStream_mem (b : Body) (k : Nat) (f : FyStream → FyStream) : (b.updStream k f).mem = b.mem := by
  unfold Body.updStream; (repeat' split) <;> rfl
@[simp] theorem Body.updStream_bg (b : Body) (k : Nat) (f : FyStream → FyStream) : (b.updStream k f).bg = b.bg := by
  unfold Body.updStream; (repeat' split) <;> rfl
@[simp] theorem Body.updStream_epoch (b : Body) (k : Nat) (f : FyStream → FyStream) : (b.updStream k f).epoch = b.epoch := by
  unfold Body.updStream; (repeat' split) <;> rfl
@[simp] theorem Body.updStream_haze (b : Body) (k : Nat) (f : FyStream → FyStream) : (b.updStream k f).haze = b.haze := by
  unfold Body.updStream; (repeat' split) <;> rfl
@[simp] theorem Body.updStream_framing (b : Body) (k : Nat) (f : FyStream → FyStream) : (b.updStream k f).framing = b.framing := by
  unfold Body.updStream; (repeat' split) <;> rfl
@[simp] theorem Body.updStream_bw (b : Body) (k : Nat) (f : FyStream → FyStream) : (b.updStream k f).bw = b.bw := by
  unfold Body.updStream; (repeat' split) <;> rfl
@[simp] theorem Body.updStream_hm (b : Body) (k : Nat) (f : FyStream → FyStream) : (b.updStream k f).hm = b.hm := by
  unfold Body.updStream; (repeat' split) <;> rfl
@[simp] theorem Body.updStream_st (b : Body) (k : Nat) (f : FyStream → FyStream) : (b.updStream k f).st = b.st := by
  unfold Body.updStream; (repeat' split) <;> rfl
@[simp] theorem Body.updStream_eth (b : Body) (k : Nat) (f : FyStream → FyStream) : (b.updStream k f).eth = b.eth := by
  unfold Body.updStream; (repeat' split) <;> rfl
@[simp] theorem Body.updStream_ln (b : Body) (k : Nat) (f : FyStream → FyStream) : (b.updStream k f).ln = b.ln := by
  unfold Body.updStream; (repeat' split) <;> rfl
@[simp] theorem Body.updStream_boot (b : Body) (k : Nat) (f : FyStream → FyStream) : (b.updStream k f).boot = b.boot := by
  unfold Body.updStream; (repeat' split) <;> rfl
@[simp] theorem Body.updStream_unlock (b : Body) (k : Nat) (f : FyStream → FyStream) : (b.updStream k f).unlock = b.unlock := by
  unfold Body.updStream; (repeat' split) <;> rfl
@[simp] theorem Body.updStream_power (b : Body) (k : Nat) (f : FyStream → FyStream) : (b.updStream k f).power = b.power := by
  unfold Body.updStream; (repeat' split) <;> rfl
@[simp] theorem Body.updStream_tele (b : Body) (k : Nat) (f : FyStream → FyStream) : (b.updStream k f).tele = b.tele := by
  unfold Body.updStream; (repeat' split) <;> rfl
@[simp] theorem Body.updStream_tiers (b : Body) (k : Nat) (f : FyStream → FyStream) : (b.updStream k f).tiers = b.tiers := by
  unfold Body.updStream; (repeat' split) <;> rfl
@[simp] theorem Body.updStream_crates (b : Body) (k : Nat) (f : FyStream → FyStream) : (b.updStream k f).crates = b.crates := by
  unfold Body.updStream; (repeat' split) <;> rfl
@[simp] theorem Body.updStream_rnd (b : Body) (k : Nat) (f : FyStream → FyStream) : (b.updStream k f).rnd = b.rnd := by
  unfold Body.updStream; (repeat' split) <;> rfl
@[simp] theorem Body.updStream_berths (b : Body) (k : Nat) (f : FyStream → FyStream) : (b.updStream k f).berths = b.berths := by
  unfold Body.updStream; (repeat' split) <;> rfl
@[simp] theorem Body.updStream_ops (b : Body) (k : Nat) (f : FyStream → FyStream) : (b.updStream k f).ops = b.ops := by
  unfold Body.updStream; (repeat' split) <;> rfl
@[simp] theorem Body.updStream_jigs (b : Body) (k : Nat) (f : FyStream → FyStream) : (b.updStream k f).jigs = b.jigs := by
  unfold Body.updStream; (repeat' split) <;> rfl
@[simp] theorem Body.setPipe_ts (b : Body) (p : Nat) (x : FyPipe) : (b.setPipe p x).ts = b.ts := rfl
@[simp] theorem Body.setPipe_freeCtr (b : Body) (p : Nat) (x : FyPipe) : (b.setPipe p x).freeCtr = b.freeCtr := rfl
@[simp] theorem Body.setPipe_out (b : Body) (p : Nat) (x : FyPipe) : (b.setPipe p x).out = b.out := rfl
@[simp] theorem Body.setPipe_regs (b : Body) (p : Nat) (x : FyPipe) : (b.setPipe p x).regs = b.regs := rfl
@[simp] theorem Body.setPipe_mem (b : Body) (p : Nat) (x : FyPipe) : (b.setPipe p x).mem = b.mem := rfl
@[simp] theorem Body.setPipe_bg (b : Body) (p : Nat) (x : FyPipe) : (b.setPipe p x).bg = b.bg := rfl
@[simp] theorem Body.setPipe_epoch (b : Body) (p : Nat) (x : FyPipe) : (b.setPipe p x).epoch = b.epoch := rfl
@[simp] theorem Body.setPipe_haze (b : Body) (p : Nat) (x : FyPipe) : (b.setPipe p x).haze = b.haze := rfl
@[simp] theorem Body.setPipe_framing (b : Body) (p : Nat) (x : FyPipe) : (b.setPipe p x).framing = b.framing := rfl
@[simp] theorem Body.setPipe_bw (b : Body) (p : Nat) (x : FyPipe) : (b.setPipe p x).bw = b.bw := rfl
@[simp] theorem Body.setPipe_hm (b : Body) (p : Nat) (x : FyPipe) : (b.setPipe p x).hm = b.hm := rfl
@[simp] theorem Body.setPipe_st (b : Body) (p : Nat) (x : FyPipe) : (b.setPipe p x).st = b.st := rfl
@[simp] theorem Body.setPipe_eth (b : Body) (p : Nat) (x : FyPipe) : (b.setPipe p x).eth = b.eth := rfl
@[simp] theorem Body.setPipe_ln (b : Body) (p : Nat) (x : FyPipe) : (b.setPipe p x).ln = b.ln := rfl
@[simp] theorem Body.setPipe_boot (b : Body) (p : Nat) (x : FyPipe) : (b.setPipe p x).boot = b.boot := rfl
@[simp] theorem Body.setPipe_unlock (b : Body) (p : Nat) (x : FyPipe) : (b.setPipe p x).unlock = b.unlock := rfl
@[simp] theorem Body.setPipe_power (b : Body) (p : Nat) (x : FyPipe) : (b.setPipe p x).power = b.power := rfl
@[simp] theorem Body.setPipe_tele (b : Body) (p : Nat) (x : FyPipe) : (b.setPipe p x).tele = b.tele := rfl
@[simp] theorem Body.setPipe_tiers (b : Body) (p : Nat) (x : FyPipe) : (b.setPipe p x).tiers = b.tiers := rfl
@[simp] theorem Body.setPipe_crates (b : Body) (p : Nat) (x : FyPipe) : (b.setPipe p x).crates = b.crates := rfl
@[simp] theorem Body.setPipe_rnd (b : Body) (p : Nat) (x : FyPipe) : (b.setPipe p x).rnd = b.rnd := rfl
@[simp] theorem Body.setPipe_berths (b : Body) (p : Nat) (x : FyPipe) : (b.setPipe p x).berths = b.berths := rfl
@[simp] theorem Body.setPipe_ops (b : Body) (p : Nat) (x : FyPipe) : (b.setPipe p x).ops = b.ops := rfl
@[simp] theorem Body.setPipe_jigs (b : Body) (p : Nat) (x : FyPipe) : (b.setPipe p x).jigs = b.jigs := rfl
@[simp] theorem Body.setLine_ts (b : Body) (l : Nat) (x : LineInfo) : (b.setLine l x).ts = b.ts := rfl
@[simp] theorem Body.setLine_freeCtr (b : Body) (l : Nat) (x : LineInfo) : (b.setLine l x).freeCtr = b.freeCtr := rfl
@[simp] theorem Body.setLine_out (b : Body) (l : Nat) (x : LineInfo) : (b.setLine l x).out = b.out := rfl
@[simp] theorem Body.setLine_regs (b : Body) (l : Nat) (x : LineInfo) : (b.setLine l x).regs = b.regs := rfl
@[simp] theorem Body.setLine_mem (b : Body) (l : Nat) (x : LineInfo) : (b.setLine l x).mem = b.mem := rfl
@[simp] theorem Body.setLine_bg (b : Body) (l : Nat) (x : LineInfo) : (b.setLine l x).bg = b.bg := rfl
@[simp] theorem Body.setLine_epoch (b : Body) (l : Nat) (x : LineInfo) : (b.setLine l x).epoch = b.epoch := rfl
@[simp] theorem Body.setLine_haze (b : Body) (l : Nat) (x : LineInfo) : (b.setLine l x).haze = b.haze := rfl
@[simp] theorem Body.setLine_framing (b : Body) (l : Nat) (x : LineInfo) : (b.setLine l x).framing = b.framing := rfl
@[simp] theorem Body.setLine_bw (b : Body) (l : Nat) (x : LineInfo) : (b.setLine l x).bw = b.bw := rfl
@[simp] theorem Body.setLine_hm (b : Body) (l : Nat) (x : LineInfo) : (b.setLine l x).hm = b.hm := rfl
@[simp] theorem Body.setLine_st (b : Body) (l : Nat) (x : LineInfo) : (b.setLine l x).st = b.st := rfl
@[simp] theorem Body.setLine_eth (b : Body) (l : Nat) (x : LineInfo) : (b.setLine l x).eth = b.eth := rfl
@[simp] theorem Body.setLine_boot (b : Body) (l : Nat) (x : LineInfo) : (b.setLine l x).boot = b.boot := rfl
@[simp] theorem Body.setLine_unlock (b : Body) (l : Nat) (x : LineInfo) : (b.setLine l x).unlock = b.unlock := rfl
@[simp] theorem Body.setLine_power (b : Body) (l : Nat) (x : LineInfo) : (b.setLine l x).power = b.power := rfl
@[simp] theorem Body.setLine_tele (b : Body) (l : Nat) (x : LineInfo) : (b.setLine l x).tele = b.tele := rfl
@[simp] theorem Body.setLine_tiers (b : Body) (l : Nat) (x : LineInfo) : (b.setLine l x).tiers = b.tiers := rfl
@[simp] theorem Body.setLine_crates (b : Body) (l : Nat) (x : LineInfo) : (b.setLine l x).crates = b.crates := rfl
@[simp] theorem Body.setLine_rnd (b : Body) (l : Nat) (x : LineInfo) : (b.setLine l x).rnd = b.rnd := rfl
@[simp] theorem Body.setLine_berths (b : Body) (l : Nat) (x : LineInfo) : (b.setLine l x).berths = b.berths := rfl
@[simp] theorem Body.setLine_ops (b : Body) (l : Nat) (x : LineInfo) : (b.setLine l x).ops = b.ops := rfl
@[simp] theorem Body.setLine_jigs (b : Body) (l : Nat) (x : LineInfo) : (b.setLine l x).jigs = b.jigs := rfl
@[simp] theorem Body.setLine_ferry (b : Body) (l : Nat) (x : LineInfo) : (b.setLine l x).ferry = b.ferry := rfl
@[simp] theorem Body.setGroup_ts (b : Body) (i : Nat) (g : Group) : (b.setGroup i g).ts = b.ts := rfl
@[simp] theorem Body.setGroup_freeCtr (b : Body) (i : Nat) (g : Group) : (b.setGroup i g).freeCtr = b.freeCtr := rfl
@[simp] theorem Body.setGroup_out (b : Body) (i : Nat) (g : Group) : (b.setGroup i g).out = b.out := rfl
@[simp] theorem Body.setGroup_regs (b : Body) (i : Nat) (g : Group) : (b.setGroup i g).regs = b.regs := rfl
@[simp] theorem Body.setGroup_mem (b : Body) (i : Nat) (g : Group) : (b.setGroup i g).mem = b.mem := rfl
@[simp] theorem Body.setGroup_bg (b : Body) (i : Nat) (g : Group) : (b.setGroup i g).bg = b.bg := rfl
@[simp] theorem Body.setGroup_epoch (b : Body) (i : Nat) (g : Group) : (b.setGroup i g).epoch = b.epoch := rfl
@[simp] theorem Body.setGroup_haze (b : Body) (i : Nat) (g : Group) : (b.setGroup i g).haze = b.haze := rfl
@[simp] theorem Body.setGroup_framing (b : Body) (i : Nat) (g : Group) : (b.setGroup i g).framing = b.framing := rfl
@[simp] theorem Body.setGroup_bw (b : Body) (i : Nat) (g : Group) : (b.setGroup i g).bw = b.bw := rfl
@[simp] theorem Body.setGroup_hm (b : Body) (i : Nat) (g : Group) : (b.setGroup i g).hm = b.hm := rfl
@[simp] theorem Body.setGroup_st (b : Body) (i : Nat) (g : Group) : (b.setGroup i g).st = b.st := rfl
@[simp] theorem Body.setGroup_eth (b : Body) (i : Nat) (g : Group) : (b.setGroup i g).eth = b.eth := rfl
@[simp] theorem Body.setGroup_boot (b : Body) (i : Nat) (g : Group) : (b.setGroup i g).boot = b.boot := rfl
@[simp] theorem Body.setGroup_unlock (b : Body) (i : Nat) (g : Group) : (b.setGroup i g).unlock = b.unlock := rfl
@[simp] theorem Body.setGroup_power (b : Body) (i : Nat) (g : Group) : (b.setGroup i g).power = b.power := rfl
@[simp] theorem Body.setGroup_tele (b : Body) (i : Nat) (g : Group) : (b.setGroup i g).tele = b.tele := rfl
@[simp] theorem Body.setGroup_tiers (b : Body) (i : Nat) (g : Group) : (b.setGroup i g).tiers = b.tiers := rfl
@[simp] theorem Body.setGroup_crates (b : Body) (i : Nat) (g : Group) : (b.setGroup i g).crates = b.crates := rfl
@[simp] theorem Body.setGroup_rnd (b : Body) (i : Nat) (g : Group) : (b.setGroup i g).rnd = b.rnd := rfl
@[simp] theorem Body.setGroup_berths (b : Body) (i : Nat) (g : Group) : (b.setGroup i g).berths = b.berths := rfl
@[simp] theorem Body.setGroup_ops (b : Body) (i : Nat) (g : Group) : (b.setGroup i g).ops = b.ops := rfl
@[simp] theorem Body.setGroup_jigs (b : Body) (i : Nat) (g : Group) : (b.setGroup i g).jigs = b.jigs := rfl
@[simp] theorem Body.setGroup_ferry (b : Body) (i : Nat) (g : Group) : (b.setGroup i g).ferry = b.ferry := rfl
@[simp] theorem Body.updTwin_ts (b : Body) (f : Twin → Twin) : (b.updTwin f).ts = b.ts := rfl
@[simp] theorem Body.updTwin_freeCtr (b : Body) (f : Twin → Twin) : (b.updTwin f).freeCtr = b.freeCtr := rfl
@[simp] theorem Body.updTwin_out (b : Body) (f : Twin → Twin) : (b.updTwin f).out = b.out := rfl
@[simp] theorem Body.updTwin_regs (b : Body) (f : Twin → Twin) : (b.updTwin f).regs = b.regs := rfl
@[simp] theorem Body.updTwin_mem (b : Body) (f : Twin → Twin) : (b.updTwin f).mem = b.mem := rfl
@[simp] theorem Body.updTwin_bg (b : Body) (f : Twin → Twin) : (b.updTwin f).bg = b.bg := rfl
@[simp] theorem Body.updTwin_epoch (b : Body) (f : Twin → Twin) : (b.updTwin f).epoch = b.epoch := rfl
@[simp] theorem Body.updTwin_haze (b : Body) (f : Twin → Twin) : (b.updTwin f).haze = b.haze := rfl
@[simp] theorem Body.updTwin_framing (b : Body) (f : Twin → Twin) : (b.updTwin f).framing = b.framing := rfl
@[simp] theorem Body.updTwin_bw (b : Body) (f : Twin → Twin) : (b.updTwin f).bw = b.bw := rfl
@[simp] theorem Body.updTwin_hm (b : Body) (f : Twin → Twin) : (b.updTwin f).hm = b.hm := rfl
@[simp] theorem Body.updTwin_st (b : Body) (f : Twin → Twin) : (b.updTwin f).st = b.st := rfl
@[simp] theorem Body.updTwin_eth (b : Body) (f : Twin → Twin) : (b.updTwin f).eth = b.eth := rfl
@[simp] theorem Body.updTwin_boot (b : Body) (f : Twin → Twin) : (b.updTwin f).boot = b.boot := rfl
@[simp] theorem Body.updTwin_unlock (b : Body) (f : Twin → Twin) : (b.updTwin f).unlock = b.unlock := rfl
@[simp] theorem Body.updTwin_power (b : Body) (f : Twin → Twin) : (b.updTwin f).power = b.power := rfl
@[simp] theorem Body.updTwin_tele (b : Body) (f : Twin → Twin) : (b.updTwin f).tele = b.tele := rfl
@[simp] theorem Body.updTwin_tiers (b : Body) (f : Twin → Twin) : (b.updTwin f).tiers = b.tiers := rfl
@[simp] theorem Body.updTwin_crates (b : Body) (f : Twin → Twin) : (b.updTwin f).crates = b.crates := rfl
@[simp] theorem Body.updTwin_rnd (b : Body) (f : Twin → Twin) : (b.updTwin f).rnd = b.rnd := rfl
@[simp] theorem Body.updTwin_berths (b : Body) (f : Twin → Twin) : (b.updTwin f).berths = b.berths := rfl
@[simp] theorem Body.updTwin_ops (b : Body) (f : Twin → Twin) : (b.updTwin f).ops = b.ops := rfl
@[simp] theorem Body.updTwin_jigs (b : Body) (f : Twin → Twin) : (b.updTwin f).jigs = b.jigs := rfl
@[simp] theorem Body.updTwin_ferry (b : Body) (f : Twin → Twin) : (b.updTwin f).ferry = b.ferry := rfl
@[simp] theorem Body.setBatch_ts (b : Body) (slot : Nat) (i : Nat) (x : BatchSlot) : (b.setBatch slot i x).ts = b.ts := rfl
@[simp] theorem Body.setBatch_freeCtr (b : Body) (slot : Nat) (i : Nat) (x : BatchSlot) : (b.setBatch slot i x).freeCtr = b.freeCtr := rfl
@[simp] theorem Body.setBatch_out (b : Body) (slot : Nat) (i : Nat) (x : BatchSlot) : (b.setBatch slot i x).out = b.out := rfl
@[simp] theorem Body.setBatch_regs (b : Body) (slot : Nat) (i : Nat) (x : BatchSlot) : (b.setBatch slot i x).regs = b.regs := rfl
@[simp] theorem Body.setBatch_mem (b : Body) (slot : Nat) (i : Nat) (x : BatchSlot) : (b.setBatch slot i x).mem = b.mem := rfl
@[simp] theorem Body.setBatch_bg (b : Body) (slot : Nat) (i : Nat) (x : BatchSlot) : (b.setBatch slot i x).bg = b.bg := rfl
@[simp] theorem Body.setBatch_epoch (b : Body) (slot : Nat) (i : Nat) (x : BatchSlot) : (b.setBatch slot i x).epoch = b.epoch := rfl
@[simp] theorem Body.setBatch_haze (b : Body) (slot : Nat) (i : Nat) (x : BatchSlot) : (b.setBatch slot i x).haze = b.haze := rfl
@[simp] theorem Body.setBatch_framing (b : Body) (slot : Nat) (i : Nat) (x : BatchSlot) : (b.setBatch slot i x).framing = b.framing := rfl
@[simp] theorem Body.setBatch_bw (b : Body) (slot : Nat) (i : Nat) (x : BatchSlot) : (b.setBatch slot i x).bw = b.bw := rfl
@[simp] theorem Body.setBatch_st (b : Body) (slot : Nat) (i : Nat) (x : BatchSlot) : (b.setBatch slot i x).st = b.st := rfl
@[simp] theorem Body.setBatch_eth (b : Body) (slot : Nat) (i : Nat) (x : BatchSlot) : (b.setBatch slot i x).eth = b.eth := rfl
@[simp] theorem Body.setBatch_ln (b : Body) (slot : Nat) (i : Nat) (x : BatchSlot) : (b.setBatch slot i x).ln = b.ln := rfl
@[simp] theorem Body.setBatch_boot (b : Body) (slot : Nat) (i : Nat) (x : BatchSlot) : (b.setBatch slot i x).boot = b.boot := rfl
@[simp] theorem Body.setBatch_unlock (b : Body) (slot : Nat) (i : Nat) (x : BatchSlot) : (b.setBatch slot i x).unlock = b.unlock := rfl
@[simp] theorem Body.setBatch_power (b : Body) (slot : Nat) (i : Nat) (x : BatchSlot) : (b.setBatch slot i x).power = b.power := rfl
@[simp] theorem Body.setBatch_tele (b : Body) (slot : Nat) (i : Nat) (x : BatchSlot) : (b.setBatch slot i x).tele = b.tele := rfl
@[simp] theorem Body.setBatch_tiers (b : Body) (slot : Nat) (i : Nat) (x : BatchSlot) : (b.setBatch slot i x).tiers = b.tiers := rfl
@[simp] theorem Body.setBatch_crates (b : Body) (slot : Nat) (i : Nat) (x : BatchSlot) : (b.setBatch slot i x).crates = b.crates := rfl
@[simp] theorem Body.setBatch_rnd (b : Body) (slot : Nat) (i : Nat) (x : BatchSlot) : (b.setBatch slot i x).rnd = b.rnd := rfl
@[simp] theorem Body.setBatch_berths (b : Body) (slot : Nat) (i : Nat) (x : BatchSlot) : (b.setBatch slot i x).berths = b.berths := rfl
@[simp] theorem Body.setBatch_ops (b : Body) (slot : Nat) (i : Nat) (x : BatchSlot) : (b.setBatch slot i x).ops = b.ops := rfl
@[simp] theorem Body.setBatch_jigs (b : Body) (slot : Nat) (i : Nat) (x : BatchSlot) : (b.setBatch slot i x).jigs = b.jigs := rfl
@[simp] theorem Body.setBatch_ferry (b : Body) (slot : Nat) (i : Nat) (x : BatchSlot) : (b.setBatch slot i x).ferry = b.ferry := rfl
@[simp] theorem Body.setBatch_hm_nextUid (b : Body) (slot : Nat) (i : Nat) (x : BatchSlot) : (b.setBatch slot i x).hm.nextUid = b.hm.nextUid := rfl
@[simp] theorem Body.setBatch_hm_flights (b : Body) (slot : Nat) (i : Nat) (x : BatchSlot) : (b.setBatch slot i x).hm.flights = b.hm.flights := rfl
@[simp] theorem Body.setBatch_hm_ended (b : Body) (slot : Nat) (i : Nat) (x : BatchSlot) : (b.setBatch slot i x).hm.ended = b.hm.ended := rfl
@[simp] theorem Body.setBatch_hm_rrUsed (b : Body) (slot : Nat) (i : Nat) (x : BatchSlot) : (b.setBatch slot i x).hm.rrUsed = b.hm.rrUsed := rfl
@[simp] theorem Body.setBatch_hm_rrLast (b : Body) (slot : Nat) (i : Nat) (x : BatchSlot) : (b.setBatch slot i x).hm.rrLast = b.hm.rrLast := rfl
@[simp] theorem Body.setBatch_hm_stepLast (b : Body) (slot : Nat) (i : Nat) (x : BatchSlot) : (b.setBatch slot i x).hm.stepLast = b.hm.stepLast := rfl
@[simp] theorem Body.setBatch_hm_skips (b : Body) (slot : Nat) (i : Nat) (x : BatchSlot) : (b.setBatch slot i x).hm.skips = b.hm.skips := rfl
@[simp] theorem Body.setBatch_hm_ctxs (b : Body) (slot : Nat) (i : Nat) (x : BatchSlot) : (b.setBatch slot i x).hm.ctxs = b.hm.ctxs := rfl
@[simp] theorem Body.setBatch_hm_sregs (b : Body) (slot : Nat) (i : Nat) (x : BatchSlot) : (b.setBatch slot i x).hm.sregs = b.hm.sregs := rfl
@[simp] theorem Body.setBatch_hm_chains (b : Body) (slot : Nat) (i : Nat) (x : BatchSlot) : (b.setBatch slot i x).hm.chains = b.hm.chains := rfl
@[simp] theorem Body.setBatch_hm_waits (b : Body) (slot : Nat) (i : Nat) (x : BatchSlot) : (b.setBatch slot i x).hm.waits = b.hm.waits := rfl
@[simp] theorem Body.setBatch_hm_returned (b : Body) (slot : Nat) (i : Nat) (x : BatchSlot) : (b.setBatch slot i x).hm.returned = b.hm.returned := rfl
@[simp] theorem Body.setBatch_hm_halting (b : Body) (slot : Nat) (i : Nat) (x : BatchSlot) : (b.setBatch slot i x).hm.halting = b.hm.halting := rfl
@[simp] theorem Body.setBatch_hm_sramDead (b : Body) (slot : Nat) (i : Nat) (x : BatchSlot) : (b.setBatch slot i x).hm.sramDead = b.hm.sramDead := rfl
@[simp] theorem Body.setSwell_ts (b : Body) (k : Nat) (w : Swell) : (b.setSwell k w).ts = b.ts := rfl
@[simp] theorem Body.setSwell_freeCtr (b : Body) (k : Nat) (w : Swell) : (b.setSwell k w).freeCtr = b.freeCtr := rfl
@[simp] theorem Body.setSwell_out (b : Body) (k : Nat) (w : Swell) : (b.setSwell k w).out = b.out := rfl
@[simp] theorem Body.setSwell_regs (b : Body) (k : Nat) (w : Swell) : (b.setSwell k w).regs = b.regs := rfl
@[simp] theorem Body.setSwell_mem (b : Body) (k : Nat) (w : Swell) : (b.setSwell k w).mem = b.mem := rfl
@[simp] theorem Body.setSwell_bg (b : Body) (k : Nat) (w : Swell) : (b.setSwell k w).bg = b.bg := rfl
@[simp] theorem Body.setSwell_epoch (b : Body) (k : Nat) (w : Swell) : (b.setSwell k w).epoch = b.epoch := rfl
@[simp] theorem Body.setSwell_haze (b : Body) (k : Nat) (w : Swell) : (b.setSwell k w).haze = b.haze := rfl
@[simp] theorem Body.setSwell_framing (b : Body) (k : Nat) (w : Swell) : (b.setSwell k w).framing = b.framing := rfl
@[simp] theorem Body.setSwell_bw (b : Body) (k : Nat) (w : Swell) : (b.setSwell k w).bw = b.bw := rfl
@[simp] theorem Body.setSwell_hm (b : Body) (k : Nat) (w : Swell) : (b.setSwell k w).hm = b.hm := rfl
@[simp] theorem Body.setSwell_st (b : Body) (k : Nat) (w : Swell) : (b.setSwell k w).st = b.st := rfl
@[simp] theorem Body.setSwell_eth (b : Body) (k : Nat) (w : Swell) : (b.setSwell k w).eth = b.eth := rfl
@[simp] theorem Body.setSwell_ln (b : Body) (k : Nat) (w : Swell) : (b.setSwell k w).ln = b.ln := rfl
@[simp] theorem Body.setSwell_boot (b : Body) (k : Nat) (w : Swell) : (b.setSwell k w).boot = b.boot := rfl
@[simp] theorem Body.setSwell_unlock (b : Body) (k : Nat) (w : Swell) : (b.setSwell k w).unlock = b.unlock := rfl
@[simp] theorem Body.setSwell_power (b : Body) (k : Nat) (w : Swell) : (b.setSwell k w).power = b.power := rfl
@[simp] theorem Body.setSwell_tele (b : Body) (k : Nat) (w : Swell) : (b.setSwell k w).tele = b.tele := rfl
@[simp] theorem Body.setSwell_tiers (b : Body) (k : Nat) (w : Swell) : (b.setSwell k w).tiers = b.tiers := rfl
@[simp] theorem Body.setSwell_crates (b : Body) (k : Nat) (w : Swell) : (b.setSwell k w).crates = b.crates := rfl
@[simp] theorem Body.setSwell_berths (b : Body) (k : Nat) (w : Swell) : (b.setSwell k w).berths = b.berths := rfl
@[simp] theorem Body.setSwell_ops (b : Body) (k : Nat) (w : Swell) : (b.setSwell k w).ops = b.ops := rfl
@[simp] theorem Body.setSwell_jigs (b : Body) (k : Nat) (w : Swell) : (b.setSwell k w).jigs = b.jigs := rfl
@[simp] theorem Body.setSwell_ferry (b : Body) (k : Nat) (w : Swell) : (b.setSwell k w).ferry = b.ferry := rfl
@[simp] theorem Body.setRipple_ts (b : Body) (r : Nat) (x : Ripple) : (b.setRipple r x).ts = b.ts := rfl
@[simp] theorem Body.setRipple_freeCtr (b : Body) (r : Nat) (x : Ripple) : (b.setRipple r x).freeCtr = b.freeCtr := rfl
@[simp] theorem Body.setRipple_out (b : Body) (r : Nat) (x : Ripple) : (b.setRipple r x).out = b.out := rfl
@[simp] theorem Body.setRipple_regs (b : Body) (r : Nat) (x : Ripple) : (b.setRipple r x).regs = b.regs := rfl
@[simp] theorem Body.setRipple_mem (b : Body) (r : Nat) (x : Ripple) : (b.setRipple r x).mem = b.mem := rfl
@[simp] theorem Body.setRipple_bg (b : Body) (r : Nat) (x : Ripple) : (b.setRipple r x).bg = b.bg := rfl
@[simp] theorem Body.setRipple_epoch (b : Body) (r : Nat) (x : Ripple) : (b.setRipple r x).epoch = b.epoch := rfl
@[simp] theorem Body.setRipple_haze (b : Body) (r : Nat) (x : Ripple) : (b.setRipple r x).haze = b.haze := rfl
@[simp] theorem Body.setRipple_framing (b : Body) (r : Nat) (x : Ripple) : (b.setRipple r x).framing = b.framing := rfl
@[simp] theorem Body.setRipple_bw (b : Body) (r : Nat) (x : Ripple) : (b.setRipple r x).bw = b.bw := rfl
@[simp] theorem Body.setRipple_hm (b : Body) (r : Nat) (x : Ripple) : (b.setRipple r x).hm = b.hm := rfl
@[simp] theorem Body.setRipple_st (b : Body) (r : Nat) (x : Ripple) : (b.setRipple r x).st = b.st := rfl
@[simp] theorem Body.setRipple_eth (b : Body) (r : Nat) (x : Ripple) : (b.setRipple r x).eth = b.eth := rfl
@[simp] theorem Body.setRipple_ln (b : Body) (r : Nat) (x : Ripple) : (b.setRipple r x).ln = b.ln := rfl
@[simp] theorem Body.setRipple_boot (b : Body) (r : Nat) (x : Ripple) : (b.setRipple r x).boot = b.boot := rfl
@[simp] theorem Body.setRipple_unlock (b : Body) (r : Nat) (x : Ripple) : (b.setRipple r x).unlock = b.unlock := rfl
@[simp] theorem Body.setRipple_power (b : Body) (r : Nat) (x : Ripple) : (b.setRipple r x).power = b.power := rfl
@[simp] theorem Body.setRipple_tele (b : Body) (r : Nat) (x : Ripple) : (b.setRipple r x).tele = b.tele := rfl
@[simp] theorem Body.setRipple_tiers (b : Body) (r : Nat) (x : Ripple) : (b.setRipple r x).tiers = b.tiers := rfl
@[simp] theorem Body.setRipple_crates (b : Body) (r : Nat) (x : Ripple) : (b.setRipple r x).crates = b.crates := rfl
@[simp] theorem Body.setRipple_berths (b : Body) (r : Nat) (x : Ripple) : (b.setRipple r x).berths = b.berths := rfl
@[simp] theorem Body.setRipple_ops (b : Body) (r : Nat) (x : Ripple) : (b.setRipple r x).ops = b.ops := rfl
@[simp] theorem Body.setRipple_jigs (b : Body) (r : Nat) (x : Ripple) : (b.setRipple r x).jigs = b.jigs := rfl
@[simp] theorem Body.setRipple_ferry (b : Body) (r : Nat) (x : Ripple) : (b.setRipple r x).ferry = b.ferry := rfl
@[simp] theorem Body.updFlash_ts (b : Body) (c : Nat) (f : FlashChan → FlashChan) : (b.updFlash c f).ts = b.ts := rfl
@[simp] theorem Body.updFlash_freeCtr (b : Body) (c : Nat) (f : FlashChan → FlashChan) : (b.updFlash c f).freeCtr = b.freeCtr := rfl
@[simp] theorem Body.updFlash_out (b : Body) (c : Nat) (f : FlashChan → FlashChan) : (b.updFlash c f).out = b.out := rfl
@[simp] theorem Body.updFlash_regs (b : Body) (c : Nat) (f : FlashChan → FlashChan) : (b.updFlash c f).regs = b.regs := rfl
@[simp] theorem Body.updFlash_mem (b : Body) (c : Nat) (f : FlashChan → FlashChan) : (b.updFlash c f).mem = b.mem := rfl
@[simp] theorem Body.updFlash_bg (b : Body) (c : Nat) (f : FlashChan → FlashChan) : (b.updFlash c f).bg = b.bg := rfl
@[simp] theorem Body.updFlash_epoch (b : Body) (c : Nat) (f : FlashChan → FlashChan) : (b.updFlash c f).epoch = b.epoch := rfl
@[simp] theorem Body.updFlash_haze (b : Body) (c : Nat) (f : FlashChan → FlashChan) : (b.updFlash c f).haze = b.haze := rfl
@[simp] theorem Body.updFlash_framing (b : Body) (c : Nat) (f : FlashChan → FlashChan) : (b.updFlash c f).framing = b.framing := rfl
@[simp] theorem Body.updFlash_bw (b : Body) (c : Nat) (f : FlashChan → FlashChan) : (b.updFlash c f).bw = b.bw := rfl
@[simp] theorem Body.updFlash_hm (b : Body) (c : Nat) (f : FlashChan → FlashChan) : (b.updFlash c f).hm = b.hm := rfl
@[simp] theorem Body.updFlash_st (b : Body) (c : Nat) (f : FlashChan → FlashChan) : (b.updFlash c f).st = b.st := rfl
@[simp] theorem Body.updFlash_eth (b : Body) (c : Nat) (f : FlashChan → FlashChan) : (b.updFlash c f).eth = b.eth := rfl
@[simp] theorem Body.updFlash_ln (b : Body) (c : Nat) (f : FlashChan → FlashChan) : (b.updFlash c f).ln = b.ln := rfl
@[simp] theorem Body.updFlash_boot (b : Body) (c : Nat) (f : FlashChan → FlashChan) : (b.updFlash c f).boot = b.boot := rfl
@[simp] theorem Body.updFlash_unlock (b : Body) (c : Nat) (f : FlashChan → FlashChan) : (b.updFlash c f).unlock = b.unlock := rfl
@[simp] theorem Body.updFlash_power (b : Body) (c : Nat) (f : FlashChan → FlashChan) : (b.updFlash c f).power = b.power := rfl
@[simp] theorem Body.updFlash_tele (b : Body) (c : Nat) (f : FlashChan → FlashChan) : (b.updFlash c f).tele = b.tele := rfl
@[simp] theorem Body.updFlash_crates (b : Body) (c : Nat) (f : FlashChan → FlashChan) : (b.updFlash c f).crates = b.crates := rfl
@[simp] theorem Body.updFlash_rnd (b : Body) (c : Nat) (f : FlashChan → FlashChan) : (b.updFlash c f).rnd = b.rnd := rfl
@[simp] theorem Body.updFlash_berths (b : Body) (c : Nat) (f : FlashChan → FlashChan) : (b.updFlash c f).berths = b.berths := rfl
@[simp] theorem Body.updFlash_ops (b : Body) (c : Nat) (f : FlashChan → FlashChan) : (b.updFlash c f).ops = b.ops := rfl
@[simp] theorem Body.updFlash_jigs (b : Body) (c : Nat) (f : FlashChan → FlashChan) : (b.updFlash c f).jigs = b.jigs := rfl
@[simp] theorem Body.updFlash_ferry (b : Body) (c : Nat) (f : FlashChan → FlashChan) : (b.updFlash c f).ferry = b.ferry := rfl
@[simp] theorem Body.setOp_ts (b : Body) (o : TileOp) : (b.setOp o).ts = b.ts := rfl
@[simp] theorem Body.setOp_freeCtr (b : Body) (o : TileOp) : (b.setOp o).freeCtr = b.freeCtr := rfl
@[simp] theorem Body.setOp_out (b : Body) (o : TileOp) : (b.setOp o).out = b.out := rfl
@[simp] theorem Body.setOp_regs (b : Body) (o : TileOp) : (b.setOp o).regs = b.regs := rfl
@[simp] theorem Body.setOp_mem (b : Body) (o : TileOp) : (b.setOp o).mem = b.mem := rfl
@[simp] theorem Body.setOp_bg (b : Body) (o : TileOp) : (b.setOp o).bg = b.bg := rfl
@[simp] theorem Body.setOp_epoch (b : Body) (o : TileOp) : (b.setOp o).epoch = b.epoch := rfl
@[simp] theorem Body.setOp_haze (b : Body) (o : TileOp) : (b.setOp o).haze = b.haze := rfl
@[simp] theorem Body.setOp_framing (b : Body) (o : TileOp) : (b.setOp o).framing = b.framing := rfl
@[simp] theorem Body.setOp_bw (b : Body) (o : TileOp) : (b.setOp o).bw = b.bw := rfl
@[simp] theorem Body.setOp_hm (b : Body) (o : TileOp) : (b.setOp o).hm = b.hm := rfl
@[simp] theorem Body.setOp_st (b : Body) (o : TileOp) : (b.setOp o).st = b.st := rfl
@[simp] theorem Body.setOp_eth (b : Body) (o : TileOp) : (b.setOp o).eth = b.eth := rfl
@[simp] theorem Body.setOp_ln (b : Body) (o : TileOp) : (b.setOp o).ln = b.ln := rfl
@[simp] theorem Body.setOp_boot (b : Body) (o : TileOp) : (b.setOp o).boot = b.boot := rfl
@[simp] theorem Body.setOp_unlock (b : Body) (o : TileOp) : (b.setOp o).unlock = b.unlock := rfl
@[simp] theorem Body.setOp_power (b : Body) (o : TileOp) : (b.setOp o).power = b.power := rfl
@[simp] theorem Body.setOp_tele (b : Body) (o : TileOp) : (b.setOp o).tele = b.tele := rfl
@[simp] theorem Body.setOp_tiers (b : Body) (o : TileOp) : (b.setOp o).tiers = b.tiers := rfl
@[simp] theorem Body.setOp_crates (b : Body) (o : TileOp) : (b.setOp o).crates = b.crates := rfl
@[simp] theorem Body.setOp_rnd (b : Body) (o : TileOp) : (b.setOp o).rnd = b.rnd := rfl
@[simp] theorem Body.setOp_berths (b : Body) (o : TileOp) : (b.setOp o).berths = b.berths := rfl
@[simp] theorem Body.setOp_jigs (b : Body) (o : TileOp) : (b.setOp o).jigs = b.jigs := rfl
@[simp] theorem Body.setOp_ferry (b : Body) (o : TileOp) : (b.setOp o).ferry = b.ferry := rfl
@[simp] theorem Body.setTarget_ts (b : Body) (g : Nat) (t : Option Nat) : (b.setTarget g t).ts = b.ts := rfl
@[simp] theorem Body.setTarget_freeCtr (b : Body) (g : Nat) (t : Option Nat) : (b.setTarget g t).freeCtr = b.freeCtr := rfl
@[simp] theorem Body.setTarget_out (b : Body) (g : Nat) (t : Option Nat) : (b.setTarget g t).out = b.out := rfl
@[simp] theorem Body.setTarget_regs (b : Body) (g : Nat) (t : Option Nat) : (b.setTarget g t).regs = b.regs := rfl
@[simp] theorem Body.setTarget_mem (b : Body) (g : Nat) (t : Option Nat) : (b.setTarget g t).mem = b.mem := rfl
@[simp] theorem Body.setTarget_bg (b : Body) (g : Nat) (t : Option Nat) : (b.setTarget g t).bg = b.bg := rfl
@[simp] theorem Body.setTarget_epoch (b : Body) (g : Nat) (t : Option Nat) : (b.setTarget g t).epoch = b.epoch := rfl
@[simp] theorem Body.setTarget_haze (b : Body) (g : Nat) (t : Option Nat) : (b.setTarget g t).haze = b.haze := rfl
@[simp] theorem Body.setTarget_framing (b : Body) (g : Nat) (t : Option Nat) : (b.setTarget g t).framing = b.framing := rfl
@[simp] theorem Body.setTarget_bw (b : Body) (g : Nat) (t : Option Nat) : (b.setTarget g t).bw = b.bw := rfl
@[simp] theorem Body.setTarget_hm (b : Body) (g : Nat) (t : Option Nat) : (b.setTarget g t).hm = b.hm := rfl
@[simp] theorem Body.setTarget_st (b : Body) (g : Nat) (t : Option Nat) : (b.setTarget g t).st = b.st := rfl
@[simp] theorem Body.setTarget_eth (b : Body) (g : Nat) (t : Option Nat) : (b.setTarget g t).eth = b.eth := rfl
@[simp] theorem Body.setTarget_ln (b : Body) (g : Nat) (t : Option Nat) : (b.setTarget g t).ln = b.ln := rfl
@[simp] theorem Body.setTarget_boot (b : Body) (g : Nat) (t : Option Nat) : (b.setTarget g t).boot = b.boot := rfl
@[simp] theorem Body.setTarget_unlock (b : Body) (g : Nat) (t : Option Nat) : (b.setTarget g t).unlock = b.unlock := rfl
@[simp] theorem Body.setTarget_tele (b : Body) (g : Nat) (t : Option Nat) : (b.setTarget g t).tele = b.tele := rfl
@[simp] theorem Body.setTarget_tiers (b : Body) (g : Nat) (t : Option Nat) : (b.setTarget g t).tiers = b.tiers := rfl
@[simp] theorem Body.setTarget_crates (b : Body) (g : Nat) (t : Option Nat) : (b.setTarget g t).crates = b.crates := rfl
@[simp] theorem Body.setTarget_rnd (b : Body) (g : Nat) (t : Option Nat) : (b.setTarget g t).rnd = b.rnd := rfl
@[simp] theorem Body.setTarget_berths (b : Body) (g : Nat) (t : Option Nat) : (b.setTarget g t).berths = b.berths := rfl
@[simp] theorem Body.setTarget_ops (b : Body) (g : Nat) (t : Option Nat) : (b.setTarget g t).ops = b.ops := rfl
@[simp] theorem Body.setTarget_jigs (b : Body) (g : Nat) (t : Option Nat) : (b.setTarget g t).jigs = b.jigs := rfl
@[simp] theorem Body.setTarget_ferry (b : Body) (g : Nat) (t : Option Nat) : (b.setTarget g t).ferry = b.ferry := rfl
@[simp] theorem Body.setPwr_ts (b : Body) (g : Nat) (v : Nat) : (b.setPwr g v).ts = b.ts := by
  simp [Body.setPwr]
@[simp] theorem Body.setPwr_freeCtr (b : Body) (g : Nat) (v : Nat) : (b.setPwr g v).freeCtr = b.freeCtr := by
  simp [Body.setPwr]
@[simp] theorem Body.setPwr_out (b : Body) (g : Nat) (v : Nat) : (b.setPwr g v).out = b.out := by
  simp [Body.setPwr]
@[simp] theorem Body.setPwr_mem (b : Body) (g : Nat) (v : Nat) : (b.setPwr g v).mem = b.mem := by
  simp [Body.setPwr]
@[simp] theorem Body.setPwr_bg (b : Body) (g : Nat) (v : Nat) : (b.setPwr g v).bg = b.bg := by
  simp [Body.setPwr]
@[simp] theorem Body.setPwr_epoch (b : Body) (g : Nat) (v : Nat) : (b.setPwr g v).epoch = b.epoch := by
  simp [Body.setPwr]
@[simp] theorem Body.setPwr_haze (b : Body) (g : Nat) (v : Nat) : (b.setPwr g v).haze = b.haze := by
  simp [Body.setPwr]
@[simp] theorem Body.setPwr_framing (b : Body) (g : Nat) (v : Nat) : (b.setPwr g v).framing = b.framing := by
  simp [Body.setPwr]
@[simp] theorem Body.setPwr_bw (b : Body) (g : Nat) (v : Nat) : (b.setPwr g v).bw = b.bw := by
  simp [Body.setPwr]
@[simp] theorem Body.setPwr_hm (b : Body) (g : Nat) (v : Nat) : (b.setPwr g v).hm = b.hm := by
  simp [Body.setPwr]
@[simp] theorem Body.setPwr_st (b : Body) (g : Nat) (v : Nat) : (b.setPwr g v).st = b.st := by
  simp [Body.setPwr]
@[simp] theorem Body.setPwr_eth (b : Body) (g : Nat) (v : Nat) : (b.setPwr g v).eth = b.eth := by
  simp [Body.setPwr]
@[simp] theorem Body.setPwr_ln (b : Body) (g : Nat) (v : Nat) : (b.setPwr g v).ln = b.ln := by
  simp [Body.setPwr]
@[simp] theorem Body.setPwr_boot (b : Body) (g : Nat) (v : Nat) : (b.setPwr g v).boot = b.boot := by
  simp [Body.setPwr]
@[simp] theorem Body.setPwr_unlock (b : Body) (g : Nat) (v : Nat) : (b.setPwr g v).unlock = b.unlock := by
  simp [Body.setPwr]
@[simp] theorem Body.setPwr_power (b : Body) (g : Nat) (v : Nat) : (b.setPwr g v).power = b.power := by
  simp [Body.setPwr]
@[simp] theorem Body.setPwr_tele (b : Body) (g : Nat) (v : Nat) : (b.setPwr g v).tele = b.tele := by
  simp [Body.setPwr]
@[simp] theorem Body.setPwr_tiers (b : Body) (g : Nat) (v : Nat) : (b.setPwr g v).tiers = b.tiers := by
  simp [Body.setPwr]
@[simp] theorem Body.setPwr_crates (b : Body) (g : Nat) (v : Nat) : (b.setPwr g v).crates = b.crates := by
  simp [Body.setPwr]
@[simp] theorem Body.setPwr_rnd (b : Body) (g : Nat) (v : Nat) : (b.setPwr g v).rnd = b.rnd := by
  simp [Body.setPwr]
@[simp] theorem Body.setPwr_berths (b : Body) (g : Nat) (v : Nat) : (b.setPwr g v).berths = b.berths := by
  simp [Body.setPwr]
@[simp] theorem Body.setPwr_ops (b : Body) (g : Nat) (v : Nat) : (b.setPwr g v).ops = b.ops := by
  simp [Body.setPwr]
@[simp] theorem Body.setPwr_jigs (b : Body) (g : Nat) (v : Nat) : (b.setPwr g v).jigs = b.jigs := by
  simp [Body.setPwr]
@[simp] theorem Body.setPwr_ferry (b : Body) (g : Nat) (v : Nat) : (b.setPwr g v).ferry = b.ferry := by
  simp [Body.setPwr]
@[simp] theorem Body.markTruss_ts (b : Body) (g : Nat) : (b.markTruss g).ts = b.ts := rfl
@[simp] theorem Body.markTruss_freeCtr (b : Body) (g : Nat) : (b.markTruss g).freeCtr = b.freeCtr := rfl
@[simp] theorem Body.markTruss_out (b : Body) (g : Nat) : (b.markTruss g).out = b.out := rfl
@[simp] theorem Body.markTruss_regs (b : Body) (g : Nat) : (b.markTruss g).regs = b.regs := rfl
@[simp] theorem Body.markTruss_mem (b : Body) (g : Nat) : (b.markTruss g).mem = b.mem := rfl
@[simp] theorem Body.markTruss_bg (b : Body) (g : Nat) : (b.markTruss g).bg = b.bg := rfl
@[simp] theorem Body.markTruss_epoch (b : Body) (g : Nat) : (b.markTruss g).epoch = b.epoch := rfl
@[simp] theorem Body.markTruss_haze (b : Body) (g : Nat) : (b.markTruss g).haze = b.haze := rfl
@[simp] theorem Body.markTruss_framing (b : Body) (g : Nat) : (b.markTruss g).framing = b.framing := rfl
@[simp] theorem Body.markTruss_bw (b : Body) (g : Nat) : (b.markTruss g).bw = b.bw := rfl
@[simp] theorem Body.markTruss_hm (b : Body) (g : Nat) : (b.markTruss g).hm = b.hm := rfl
@[simp] theorem Body.markTruss_st (b : Body) (g : Nat) : (b.markTruss g).st = b.st := rfl
@[simp] theorem Body.markTruss_eth (b : Body) (g : Nat) : (b.markTruss g).eth = b.eth := rfl
@[simp] theorem Body.markTruss_ln (b : Body) (g : Nat) : (b.markTruss g).ln = b.ln := rfl
@[simp] theorem Body.markTruss_boot (b : Body) (g : Nat) : (b.markTruss g).boot = b.boot := rfl
@[simp] theorem Body.markTruss_unlock (b : Body) (g : Nat) : (b.markTruss g).unlock = b.unlock := rfl
@[simp] theorem Body.markTruss_power (b : Body) (g : Nat) : (b.markTruss g).power = b.power := rfl
@[simp] theorem Body.markTruss_tele (b : Body) (g : Nat) : (b.markTruss g).tele = b.tele := rfl
@[simp] theorem Body.markTruss_tiers (b : Body) (g : Nat) : (b.markTruss g).tiers = b.tiers := rfl
@[simp] theorem Body.markTruss_crates (b : Body) (g : Nat) : (b.markTruss g).crates = b.crates := rfl
@[simp] theorem Body.markTruss_rnd (b : Body) (g : Nat) : (b.markTruss g).rnd = b.rnd := rfl
@[simp] theorem Body.markTruss_ops (b : Body) (g : Nat) : (b.markTruss g).ops = b.ops := rfl
@[simp] theorem Body.markTruss_jigs (b : Body) (g : Nat) : (b.markTruss g).jigs = b.jigs := rfl
@[simp] theorem Body.markTruss_ferry (b : Body) (g : Nat) : (b.markTruss g).ferry = b.ferry := rfl
@[simp] theorem Body.updBerth_reg (b : Body) (g : Nat) (f : Berth → Berth) (q : Reg) : (b.updBerth g f).reg q = b.reg q := Body.reg_congr (by simp) q
@[simp] theorem Body.updBerth_getF (b : Body) (g : Nat) (f : Berth → Berth) (q : Reg) (z : Fld) : (b.updBerth g f).getF q z = b.getF q z := Body.getF_congr (by simp) q z
@[simp] theorem Body.updDowel_reg (b : Body) (g : Nat) (d : Nat) (f : Dowel → Dowel) (q : Reg) : (b.updDowel g d f).reg q = b.reg q := Body.reg_congr (by simp) q
@[simp] theorem Body.updDowel_getF (b : Body) (g : Nat) (d : Nat) (f : Dowel → Dowel) (q : Reg) (z : Fld) : (b.updDowel g d f).getF q z = b.getF q z := Body.getF_congr (by simp) q z
@[simp] theorem Body.setTile_reg (b : Body) (g : Nat) (t : Nat) (v : List Nat) (q : Reg) : (b.setTile g t v).reg q = b.reg q := Body.reg_congr (by simp) q
@[simp] theorem Body.setTile_getF (b : Body) (g : Nat) (t : Nat) (v : List Nat) (q : Reg) (z : Fld) : (b.setTile g t v).getF q z = b.getF q z := Body.getF_congr (by simp) q z
@[simp] theorem Body.setPred_reg (b : Body) (g : Nat) (p : Nat) (v : Nat) (q : Reg) : (b.setPred g p v).reg q = b.reg q := Body.reg_congr (by simp) q
@[simp] theorem Body.setPred_getF (b : Body) (g : Nat) (p : Nat) (v : Nat) (q : Reg) (z : Fld) : (b.setPred g p v).getF q z = b.getF q z := Body.getF_congr (by simp) q z
@[simp] theorem Body.updPort_reg (b : Body) (p : Nat) (f : PortInfo → PortInfo) (q : Reg) : (b.updPort p f).reg q = b.reg q := Body.reg_congr (by simp) q
@[simp] theorem Body.updPort_getF (b : Body) (p : Nat) (f : PortInfo → PortInfo) (q : Reg) (z : Fld) : (b.updPort p f).getF q z = b.getF q z := Body.getF_congr (by simp) q z
@[simp] theorem Body.updStream_reg (b : Body) (k : Nat) (f : FyStream → FyStream) (q : Reg) : (b.updStream k f).reg q = b.reg q := Body.reg_congr (by simp) q
@[simp] theorem Body.updStream_getF (b : Body) (k : Nat) (f : FyStream → FyStream) (q : Reg) (z : Fld) : (b.updStream k f).getF q z = b.getF q z := Body.getF_congr (by simp) q z
@[simp] theorem Body.setPipe_reg (b : Body) (p : Nat) (x : FyPipe) (q : Reg) : (b.setPipe p x).reg q = b.reg q := Body.reg_congr (by simp) q
@[simp] theorem Body.setPipe_getF (b : Body) (p : Nat) (x : FyPipe) (q : Reg) (z : Fld) : (b.setPipe p x).getF q z = b.getF q z := Body.getF_congr (by simp) q z
@[simp] theorem Body.setLine_reg (b : Body) (l : Nat) (x : LineInfo) (q : Reg) : (b.setLine l x).reg q = b.reg q := Body.reg_congr (by simp) q
@[simp] theorem Body.setLine_getF (b : Body) (l : Nat) (x : LineInfo) (q : Reg) (z : Fld) : (b.setLine l x).getF q z = b.getF q z := Body.getF_congr (by simp) q z
@[simp] theorem Body.setGroup_reg (b : Body) (i : Nat) (g : Group) (q : Reg) : (b.setGroup i g).reg q = b.reg q := Body.reg_congr (by simp) q
@[simp] theorem Body.setGroup_getF (b : Body) (i : Nat) (g : Group) (q : Reg) (z : Fld) : (b.setGroup i g).getF q z = b.getF q z := Body.getF_congr (by simp) q z
@[simp] theorem Body.updTwin_reg (b : Body) (f : Twin → Twin) (q : Reg) : (b.updTwin f).reg q = b.reg q := Body.reg_congr (by simp) q
@[simp] theorem Body.updTwin_getF (b : Body) (f : Twin → Twin) (q : Reg) (z : Fld) : (b.updTwin f).getF q z = b.getF q z := Body.getF_congr (by simp) q z
@[simp] theorem Body.setBatch_reg (b : Body) (slot : Nat) (i : Nat) (x : BatchSlot) (q : Reg) : (b.setBatch slot i x).reg q = b.reg q := Body.reg_congr (by simp) q
@[simp] theorem Body.setBatch_getF (b : Body) (slot : Nat) (i : Nat) (x : BatchSlot) (q : Reg) (z : Fld) : (b.setBatch slot i x).getF q z = b.getF q z := Body.getF_congr (by simp) q z
@[simp] theorem Body.setSwell_reg (b : Body) (k : Nat) (w : Swell) (q : Reg) : (b.setSwell k w).reg q = b.reg q := Body.reg_congr (by simp) q
@[simp] theorem Body.setSwell_getF (b : Body) (k : Nat) (w : Swell) (q : Reg) (z : Fld) : (b.setSwell k w).getF q z = b.getF q z := Body.getF_congr (by simp) q z
@[simp] theorem Body.setRipple_reg (b : Body) (r : Nat) (x : Ripple) (q : Reg) : (b.setRipple r x).reg q = b.reg q := Body.reg_congr (by simp) q
@[simp] theorem Body.setRipple_getF (b : Body) (r : Nat) (x : Ripple) (q : Reg) (z : Fld) : (b.setRipple r x).getF q z = b.getF q z := Body.getF_congr (by simp) q z
@[simp] theorem Body.updFlash_reg (b : Body) (c : Nat) (f : FlashChan → FlashChan) (q : Reg) : (b.updFlash c f).reg q = b.reg q := Body.reg_congr (by simp) q
@[simp] theorem Body.updFlash_getF (b : Body) (c : Nat) (f : FlashChan → FlashChan) (q : Reg) (z : Fld) : (b.updFlash c f).getF q z = b.getF q z := Body.getF_congr (by simp) q z
@[simp] theorem Body.setOp_reg (b : Body) (o : TileOp) (q : Reg) : (b.setOp o).reg q = b.reg q := Body.reg_congr (by simp) q
@[simp] theorem Body.setOp_getF (b : Body) (o : TileOp) (q : Reg) (z : Fld) : (b.setOp o).getF q z = b.getF q z := Body.getF_congr (by simp) q z
@[simp] theorem Body.setTarget_reg (b : Body) (g : Nat) (t : Option Nat) (q : Reg) : (b.setTarget g t).reg q = b.reg q := Body.reg_congr (by simp) q
@[simp] theorem Body.setTarget_getF (b : Body) (g : Nat) (t : Option Nat) (q : Reg) (z : Fld) : (b.setTarget g t).getF q z = b.getF q z := Body.getF_congr (by simp) q z
@[simp] theorem Body.markTruss_reg (b : Body) (g : Nat) (q : Reg) : (b.markTruss g).reg q = b.reg q := Body.reg_congr (by simp) q
@[simp] theorem Body.markTruss_getF (b : Body) (g : Nat) (q : Reg) (z : Fld) : (b.markTruss g).getF q z = b.getF q z := Body.getF_congr (by simp) q z

end Sys2Proof.Machine
end

