-- ==== Sys2Proof/Laws/Memory.lean ====
section
/-! SUPPORT. Laws of memory: reading back what was written, reading beside it, and the canonical form, which every memory
operation keeps. -/

namespace Sys2Proof.Machine

/-! ### One byte -/

theorem Body.codeAt_congr {b c : Body} (h : b.haze = c.haze) (hb : b.bg = c.bg) (a : Nat) : b.codeAt a = c.codeAt a := by
  unfold Body.codeAt Body.bgOf; rw [h, hb]

theorem Body.byte_congr {b c : Body} (hm : b.mem = c.mem) (h : b.haze = c.haze) (hb : b.bg = c.bg) (a : Nat) :
    b.byte a = c.byte a := by unfold Body.byte; rw [hm, Body.codeAt_congr h hb]

theorem Body.memWf_congr {b c : Body} (hm : b.mem = c.mem) (h : b.haze = c.haze) (hb : b.bg = c.bg) :
    b.memWf = c.memWf := by
  unfold Body.memWf; rw [hm]; congr 2; funext p; rw [Body.codeAt_congr h hb]

@[simp] theorem Body.setByte_codeAt (b : Body) (a : Nat) (v : Byte) (x : Nat) : (b.setByte a v).codeAt x = b.codeAt x :=
  Body.codeAt_congr (by simp) (by simp) x

theorem Body.byte_def (b : Body) (a : Nat) : b.byte a =
    ((SMap.find b.mem a).getD (match b.codeAt a with | 0 => 0 | e + 1 => Config.undefByte e a)) := by
  unfold Body.byte; cases SMap.find b.mem a <;> rfl

/-- A byte reads what was written to it. -/
theorem Body.byte_setByte_self (b : Body) (a : Nat) (v : Byte) : (b.setByte a v).byte a = v := by
  rw [Body.byte_def, Body.setByte_codeAt]
  by_cases h : b.codeAt a = 0 ∧ v = 0
  · simp only [Body.setByte, h, and_self, ↓reduceIte, SMap.find_drop_self]; rfl
  · simp only [Body.setByte, h, ↓reduceIte, SMap.find_put_self]; rfl

/-- A write leaves every other byte alone. -/
theorem Body.byte_setByte_ne (b : Body) {a c : Nat} (h : c ≠ a) (v : Byte) : (b.setByte a v).byte c = b.byte c := by
  rw [Body.byte_def, Body.byte_def, Body.setByte_codeAt]
  by_cases hz : b.codeAt a = 0 ∧ v = 0
  · simp only [Body.setByte, hz, and_self, ↓reduceIte, SMap.find_drop_ne _ h]
  · simp only [Body.setByte, hz, ↓reduceIte, SMap.find_put_ne _ h]

theorem Body.byte_setBytes_ne (b : Body) (a c : Nat) (l : List Byte) (h : c < a ∨ a + l.length ≤ c) :
    (b.setBytes a l).byte c = b.byte c := by
  induction l generalizing b a with
  | nil => rfl
  | cons v r ih =>
    simp only [Body.setBytes, List.length_cons] at h ⊢
    rw [ih _ _ (by omega), Body.byte_setByte_ne _ (by omega)]

theorem Body.byte_setBytes (b : Body) (a i : Nat) (l : List Byte) (h : i < l.length) :
    (b.setBytes a l).byte (a + i) = l.getD i 0 := by
  induction l generalizing b a i with
  | nil => simp at h
  | cons v r ih =>
    simp only [Body.setBytes]
    cases i with
    | zero =>
      rw [show a + 0 = a from rfl, Body.byte_setBytes_ne _ (a + 1) a _ (by omega), Body.byte_setByte_self]; rfl
    | succ i =>
      have := ih (b.setByte a v) (a + 1) i (by simpa using h)
      rw [show a + (i + 1) = a + 1 + i by omega, this]; simp

theorem Body.bytes_congr {b c : Body} (hm : b.mem = c.mem) (h : b.haze = c.haze) (hb : b.bg = c.bg) (a n : Nat) :
    b.bytes a n = c.bytes a n := by
  induction n generalizing a with
  | zero => rfl
  | succ n ih => simp only [Body.bytes, ih, Body.byte_congr hm h hb]

theorem Body.length_bytes (b : Body) (a n : Nat) : (b.bytes a n).length = n := by
  induction n generalizing a with
  | zero => rfl
  | succ n ih => simp [Body.bytes, ih]

theorem Body.bytes_setBytes (b : Body) (a : Nat) (l : List Byte) : (b.setBytes a l).bytes a l.length = l := by
  induction l generalizing b a with
  | nil => rfl
  | cons v r ih =>
    simp only [Body.setBytes, List.length_cons, Body.bytes]
    rw [Body.byte_setBytes_ne _ _ _ _ (by omega), Body.byte_setByte_self, ih]

/-! ### The canonical form -/

theorem Body.memWf_iff (b : Body) : b.memWf = true ↔
    SMap.rising none b.mem = true ∧ ∀ p ∈ b.mem, ¬(b.codeAt p.1 = 0 ∧ p.2 = 0) := by
  simp only [Body.memWf, Bool.and_eq_true, List.all_eq_true, Bool.not_eq_true', Bool.and_eq_false_iff,
    decide_eq_false_iff_not]
  constructor
  · rintro ⟨h, g⟩; exact ⟨h, fun p hp hz => (g p hp).elim (· hz.1) (· hz.2)⟩
  · rintro ⟨h, g⟩; exact ⟨h, fun p hp => by by_cases hc : b.codeAt p.1 = 0; exact .inr fun hz => g p hp ⟨hc, hz⟩; exact .inl hc⟩

theorem Body.memWf_setByte {b : Body} (h : b.memWf = true) (a : Nat) (v : Byte) : (b.setByte a v).memWf = true := by
  rw [Body.memWf_iff] at h ⊢
  simp only [Body.setByte_codeAt]
  unfold Body.setByte
  split
  · exact ⟨SMap.rising_drop _ _ _ h.1, fun p hp => h.2 p (SMap.mem_drop hp)⟩
  · rename_i hn
    refine ⟨SMap.rising_put _ _ _ _ (by simp) h.1, fun p hp => ?_⟩
    rcases SMap.mem_put hp with rfl | hp
    · exact hn
    · exact h.2 p hp

theorem Body.memWf_setBytes {b : Body} (h : b.memWf = true) (a : Nat) (l : List Byte) : (b.setBytes a l).memWf = true := by
  induction l generalizing b a with
  | nil => exact h
  | cons v r ih => exact ih (Body.memWf_setByte h a v) _

theorem Body.memWf_setLe {b : Body} (h : b.memWf = true) (a n v : Nat) : (b.setLe a n v).memWf = true :=
  Body.memWf_setBytes h _ _

/-- A search that finds nothing of one region among what is dropped finds the same after the drop. -/
theorem find_region {l : List (Nat × Nat × Nat)} {r a : Nat} (h : regionOf a ≠ r) :
    (l.filter fun x => decide (regionOf x.1 ≠ r)).find?
        (fun x => decide (x.1 ≤ a ∧ a < x.1 + x.2.1 ∧ regionOf x.1 = regionOf a)) =
      l.find? (fun x => decide (x.1 ≤ a ∧ a < x.1 + x.2.1 ∧ regionOf x.1 = regionOf a)) := by
  induction l with
  | nil => rfl
  | cons x l ih =>
    by_cases hx : regionOf x.1 = r
    · have : ¬(x.1 ≤ a ∧ a < x.1 + x.2.1 ∧ regionOf x.1 = regionOf a) := fun hh => h (hh.2.2 ▸ hx)
      have hf : (decide (regionOf x.1 ≠ r)) = false := by simp [hx]
      simp only [List.filter_cons, List.find?_cons, decide_eq_false this, hf, Bool.false_eq_true, ↓reduceIte, ih]
    · simp only [List.filter_cons, List.find?_cons, hx, ne_eq, not_false_eq_true, decide_true, ↓reduceIte] at ih ⊢
      rw [ih]

/-- Bytes of other regions keep what they read as. -/
theorem Body.codeAt_setBg_ne (b : Body) {r a : Nat} (code : Nat) (h : regionOf a ≠ r) :
    (b.setBg r code).codeAt a = b.codeAt a := by
  simp only [Body.codeAt, Body.setBg, find_region h, Body.bgOf, SMap.get_set_ne _ _ _ _ h]

theorem find_filter_keys {α : Type} (q : Nat → Bool) (m : SMap α) {a : Nat} (h : q a = true) :
    SMap.find (m.filter fun p => q p.1) a = SMap.find m a := by
  induction m with
  | nil => rfl
  | cons p l ih =>
    obtain ⟨k, v⟩ := p
    by_cases hk : q k = true
    · simp only [List.filter_cons, hk, ↓reduceIte, SMap.find, ih]
    · have : k ≠ a := fun e => hk (e ▸ h)
      simp only [List.filter_cons, hk, Bool.false_eq_true, ↓reduceIte, SMap.find, this, ih]

theorem Body.byte_setBg_ne (b : Body) {r a : Nat} (code : Nat) (h : regionOf a ≠ r) :
    (b.setBg r code).byte a = b.byte a := by
  unfold Body.byte
  rw [Body.codeAt_setBg_ne b code h,
    show SMap.find (b.setBg r code).mem a = SMap.find b.mem a from
      find_filter_keys (fun k => decide (regionOf k ≠ r)) b.mem (by simpa using h)]

/-- Every byte of a zeroed region reads +0 (R105). -/
theorem Body.byte_zeroRegion (b : Body) {r a : Nat} (h : regionOf a = r) : (b.zeroRegion r).byte a = 0 := by
  have hf : SMap.find (b.zeroRegion r).mem a = none := by
    simp only [Body.zeroRegion, Body.setBg]
    induction b.mem with
    | nil => rfl
    | cons p l ih =>
      obtain ⟨k, v⟩ := p
      by_cases hk : regionOf k = r
      · simpa only [List.filter_cons, hk, ne_eq, not_true_eq_false, decide_false, Bool.false_eq_true, ↓reduceIte] using ih
      · have hka : k ≠ a := fun e => hk (e ▸ h)
        simpa only [List.filter_cons, hk, ne_eq, not_false_eq_true, decide_true, ↓reduceIte, SMap.find, hka] using ih
  have hc : (b.zeroRegion r).codeAt a = 0 := by
    have : (b.zeroRegion r).haze.find? (fun x => decide (x.1 ≤ a ∧ a < x.1 + x.2.1 ∧ regionOf x.1 = regionOf a)) = none := by
      rw [List.find?_eq_none]
      intro x hx hd
      simp only [Body.zeroRegion, Body.setBg, List.mem_filter, ne_eq, decide_eq_true_eq] at hx hd
      exact hx.2 (hd.2.2.trans h)
    simp only [Body.codeAt, this]
    subst h
    simp [Body.zeroRegion, Body.setBg, Body.bgOf]
  unfold Body.byte
  rw [hf, hc]

theorem Body.memWf_setBg {b : Body} (h : b.memWf = true) (r code : Nat) : (b.setBg r code).memWf = true := by
  rw [Body.memWf_iff] at h ⊢
  refine ⟨SMap.rising_filter _ _ _ h.1, fun p hp => ?_⟩
  obtain ⟨hp, hr⟩ := List.mem_filter.1 hp
  rw [Body.codeAt_setBg_ne b code (of_decide_eq_true hr)]
  exact h.2 p hp

theorem Body.memWf_zeroRegion {b : Body} (h : b.memWf = true) (r : Nat) : (b.zeroRegion r).memWf = true :=
  Body.memWf_setBg h r 0

theorem Body.memWf_loseRegion {b : Body} (h : b.memWf = true) (r : Nat) : (b.loseRegion r).memWf = true :=
  Body.memWf_setBg h r _

theorem Body.memWf_blurPart {b : Body} (h : b.memWf = true) (a n : Nat) : (b.blurPart a n).memWf = true := by
  rw [Body.memWf_iff] at h ⊢
  refine ⟨SMap.rising_filter _ _ _ h.1, fun p hp => ?_⟩
  obtain ⟨hp, hr⟩ := List.mem_filter.1 hp
  have ho : ¬(a ≤ p.1 ∧ p.1 < a + n) := by
    simp only [Bool.not_eq_true', Bool.and_eq_false_iff, decide_eq_false_iff_not] at hr; tauto
  have hold := h.2 p hp
  intro ⟨hc, hz⟩
  apply hold
  refine ⟨?_, hz⟩
  revert hc
  have hfind : ∀ l : List (Nat × Nat × Nat),
      (l.filter (fun x => !(decide (a ≤ x.1) && decide (x.1 + x.2.1 ≤ a + n)))).find?
          (fun x => decide (x.1 ≤ p.1 ∧ p.1 < x.1 + x.2.1 ∧ regionOf x.1 = regionOf p.1)) =
        l.find? (fun x => decide (x.1 ≤ p.1 ∧ p.1 < x.1 + x.2.1 ∧ regionOf x.1 = regionOf p.1)) := by
    intro l
    induction l with
    | nil => rfl
    | cons x l ih =>
      by_cases hx : a ≤ x.1 ∧ x.1 + x.2.1 ≤ a + n
      · have : ¬(x.1 ≤ p.1 ∧ p.1 < x.1 + x.2.1 ∧ regionOf x.1 = regionOf p.1) := by
          intro hh; exact ho ⟨by omega, by omega⟩
        simp only [List.filter_cons, hx.1, hx.2, decide_true, Bool.and_self, Bool.not_true, Bool.false_eq_true, ↓reduceIte,
          List.find?_cons, decide_eq_false this, ih]
      · have : (!(decide (a ≤ x.1) && decide (x.1 + x.2.1 ≤ a + n))) = true := by
          simp only [Bool.not_eq_true', Bool.and_eq_false_iff, decide_eq_false_iff_not]; tauto
        simp only [List.filter_cons, this, ↓reduceIte, List.find?_cons, ih]
  have hnew : ¬(a ≤ p.1 ∧ p.1 < a + n ∧ regionOf a = regionOf p.1) := fun hh => ho ⟨hh.1, hh.2.1⟩
  simp only [Body.codeAt, Body.blurPart, List.find?_cons, decide_eq_false hnew, hfind, Body.bgOf]
  exact id

theorem foldl_inv {α β : Type} (P : β → Prop) (f : β → α → β) (l : List α) (b : β) (h0 : P b) (h : ∀ b x, P b → P (f b x)) :
    P (l.foldl f b) := by
  induction l generalizing b with
  | nil => exact h0
  | cons x r ih => exact ih _ (h b x h0)

theorem Body.memWf_blur {b : Body} (h : b.memWf = true) (a n : Nat) : (b.blur a n).memWf = true := by
  unfold Body.blur
  split
  · exact h
  · exact foldl_inv (fun b : Body => b.memWf = true) _ _ _ h (fun _ _ hb => Body.memWf_blurPart hb _ _)

/-- An operation that leaves the bytes, their ranges and their regions alone keeps the canonical form. -/
theorem Body.memWf_same {b c : Body} (h : b.memWf = true) (hm : c.mem = b.mem) (hh : c.haze = b.haze) (hb : c.bg = b.bg) :
    c.memWf = true := (Body.memWf_congr hm hh hb).trans h

/-! ### Stores -/

@[simp] theorem Body.flashLife_mem (b : Body) : b.flashLife.mem = b.mem := by
  unfold Body.flashLife; simp only []; (repeat' split) <;> simp
@[simp] theorem Body.flashLife_haze (b : Body) : b.flashLife.haze = b.haze := by
  unfold Body.flashLife; simp only []; (repeat' split) <;> simp
@[simp] theorem Body.flashLife_bg (b : Body) : b.flashLife.bg = b.bg := by
  unfold Body.flashLife; simp only []; (repeat' split) <;> simp

theorem Body.program_keep {γ : Type} (p : Body → γ) (h : ∀ (b : Body) u, p (b.programUnit u) = p b)
    (h2 : ∀ (b : Body) x y, p (b.notePrograms x y) = p b) (b : Body) (a n : Nat) : p (b.program a n) = p b := by
  unfold Body.program
  split
  · rfl
  · simp only [h2]; exact foldl_keep p _ _ _ (fun b i => h b _)

@[simp] theorem Body.program_mem (b : Body) (a n : Nat) : (b.program a n).mem = b.mem :=
  Body.program_keep (fun b => b.mem) (fun _ _ => rfl) (fun b _ _ => by simp [Body.notePrograms]) b a n
@[simp] theorem Body.program_haze (b : Body) (a n : Nat) : (b.program a n).haze = b.haze :=
  Body.program_keep (fun b => b.haze) (fun _ _ => rfl) (fun b _ _ => by simp [Body.notePrograms]) b a n
@[simp] theorem Body.program_bg (b : Body) (a n : Nat) : (b.program a n).bg = b.bg :=
  Body.program_keep (fun b => b.bg) (fun _ _ => rfl) (fun b _ _ => by simp [Body.notePrograms]) b a n

theorem Body.memWf_markGranule {b : Body} (h : b.memWf = true) (m : Mirror) (i : Nat) : (b.markGranule m i).memWf = true := by
  unfold Body.markGranule
  split
  · exact h
  · exact Body.memWf_same (b := b.setMapBit m.bitmap i true) (Body.memWf_setByte h _ _) (by simp) (by simp) (by simp)

theorem Body.memWf_markMirrors {b : Body} (h : b.memWf = true) (a n : Nat) : (b.markMirrors a n).memWf = true := by
  unfold Body.markMirrors
  split
  · exact h
  · refine foldl_inv (fun b : Body => b.memWf = true) _ _ _ h (fun b m hb => ?_)
    simp only []
    split
    · exact hb
    · exact foldl_inv (fun b : Body => b.memWf = true) _ _ _ hb (fun b i hb => Body.memWf_markGranule hb m _)

/-- A store keeps memory canonical. -/
theorem Body.memWf_store {b : Body} (h : b.memWf = true) (a : Nat) (data : List Byte) : (b.store a data).memWf = true := by
  unfold Body.store
  simp only []
  refine Body.memWf_markMirrors (Body.memWf_same ?_ (Body.program_mem ..) (Body.program_haze ..) (Body.program_bg ..)) _ _
  split
  · apply Body.memWf_setBytes; exact Body.memWf_same h rfl rfl rfl
  · refine foldl_inv (fun b : Body => b.memWf = true) _ _ _ (Body.memWf_same h rfl rfl rfl) (fun b i hb => ?_)
    split
    · exact hb
    · exact Body.memWf_setByte hb _ _

/-- Memory at reset is canonical. -/
theorem memWf_reset : State.reset.body.memWf = true := rfl

end Sys2Proof.Machine
end

