-- ==== Sys2Proof/Laws/Life.lean ====
section
/-! SUPPORT. Laws of a command's life: what its row does once dispatched, how it ends, which registers take note. -/

namespace Sys2Proof.Machine

/-! ### Rows -/

theorem Body.admit_dispatched {b : Body} {c : Cmd} {opc : Nat} {fl : Flight} (h : Dispatched b c opc fl) :
    b.accept c opc = .run b fl := by
  obtain ⟨h1, h2, h3⟩ := h
  unfold Body.accept; rw [h1]; simp [h2, h3]

/-- The row of a dispatched command runs its meaning on its flight. -/
theorem Body.onCmd_dispatched {b : Body} {c : Cmd} {opc : Nat} {fl : Flight} (h : Dispatched b c opc fl)
    (f : Body → Flight → Body) : b.onCmd c opc f = f b fl := by
  unfold Body.onCmd; rw [Body.admit_dispatched h]

theorem Body.onSub_dispatched {b : Body} {c : Cmd} {opc : Nat} {fl : Flight} (h : Dispatched b c opc fl) (is : Bool)
    (f : Body → Flight → Body) : b.onSub c opc is f = if is then f b fl else b := by
  unfold Body.onSub; rw [Body.onCmd_dispatched h]

theorem Dispatched.cmd {b : Body} {c : Cmd} {opc : Nat} {fl : Flight} (h : Dispatched b c opc fl) : fl.cmd = c := by
  have := List.find?_some h.1; simp at this; exact this.1.1

theorem Dispatched.opc {b : Body} {c : Cmd} {opc : Nat} {fl : Flight} (h : Dispatched b c opc fl) : fl.opc = opc := by
  have := List.find?_some h.1; simp at this; exact this.1.2

theorem Dispatched.mem {b : Body} {c : Cmd} {opc : Nat} {fl : Flight} (h : Dispatched b c opc fl) : fl ∈ b.hm.flights :=
  List.mem_of_find?_eq_some h.1

/-! ### Ends -/

@[simp] theorem Body.retire_ended (b : Body) (fl : Flight) (st r : Nat) (e : Bool) :
    (b.retire fl st r e).hm.ended = b.hm.ended ++ [⟨fl, st, r, e⟩] := by
  unfold Body.retire; simp only []; split <;> simp

@[simp] theorem Body.retire_flights (b : Body) (fl : Flight) (st r : Nat) (e : Bool) :
    (b.retire fl st r e).hm.flights = b.hm.flights.filter (fun x => decide (x.uid ≠ fl.uid)) := by
  unfold Body.retire; simp only []; split <;> simp

@[simp] theorem Body.done_ended (b : Body) (fl : Flight) (r : Nat) :
    (b.done fl r).hm.ended = b.hm.ended ++ [⟨fl, 0, r, false⟩] := by simp [Body.done]

@[simp] theorem Body.done_flights (b : Body) (fl : Flight) (r : Nat) :
    (b.done fl r).hm.flights = b.hm.flights.filter (fun x => decide (x.uid ≠ fl.uid)) := by simp [Body.done]

@[simp] theorem Body.failWith_ended (b : Body) (fl : Flight) (st code sev kind unit : Nat) (d : List Nat) :
    (b.failWith fl st code sev kind unit d).hm.ended = b.hm.ended ++ [⟨fl, st, 0, true⟩] := by simp [Body.failWith]

@[simp] theorem Body.failWith_flights (b : Body) (fl : Flight) (st code sev kind unit : Nat) (d : List Nat) :
    (b.failWith fl st code sev kind unit d).hm.flights = b.hm.flights.filter (fun x => decide (x.uid ≠ fl.uid)) := by
  simp [Body.failWith]

theorem Body.endsWith_retire {b c : Body} (fl : Flight) (st r : Nat) (e : Bool) (h : c.hm.ended = b.hm.ended) :
    EndsWith b (c.retire fl st r e) fl st r := by
  refine ⟨⟨⟨fl, st, r, e⟩, by simp [h], rfl, rfl, rfl, rfl⟩, fun x hx => ?_⟩
  simp only [Body.retire_flights, List.mem_filter, decide_eq_true_eq] at hx
  exact hx.2

/-- A command that is done ends DONE with its result. -/
theorem Body.endsWith_done {b c : Body} (fl : Flight) (r : Nat) (h : c.hm.ended = b.hm.ended) :
    EndsWith b (c.done fl r) fl 0 r := Body.endsWith_retire fl 0 r false h

/-- A command that fails ends with its status and no result. -/
theorem Body.endsWith_fail {b c : Body} (fl : Flight) (st d0 d1 : Nat) (h : c.hm.ended = b.hm.ended) :
    EndsWith b (c.fail fl st d0 d1) fl st 0 := by
  unfold Body.fail
  split
  · exact Body.endsWith_retire fl st 0 false h
  · exact Body.endsWith_retire fl st 0 true (by simpa using h)

/-! ### Registers that take note -/

theorem Body.reg_log (b : Body) (k u c s x t a : Nat) (q : Reg) : (b.log k u c s x t a).reg q = b.reg q :=
  Body.reg_congr (by simp) q

theorem Body.reg_freezeLogs (b : Body) (cause : Nat) {q : Reg} (h : ¬ q.notes) : (b.freezeLogs cause).reg q = b.reg q := by
  unfold Body.freezeLogs
  split
  · rfl
  · rw [Body.reg_setF_ne _ _ _ (fun e => h (.inl e)), Body.reg_setF_ne _ _ _ (fun e => h (.inl e))]

theorem Body.reg_syncShadow (b : Body) (slot : Nat) {q : Reg} (h : ¬ q.notes) : (b.syncShadow slot).reg q = b.reg q :=
  Body.syncShadow_keep (fun b => b.reg q)
    (fun _ g _ => Body.reg_setF_ne _ _ _ (fun e => h (.inr (.inr (.inr (.inr ⟨g, e⟩)))))) b slot

theorem Body.reg_retire (b : Body) (fl : Flight) (st r : Nat) (e : Bool) {q : Reg} (h : ¬ q.notes) :
    (b.retire fl st r e).reg q = b.reg q := by
  unfold Body.retire
  simp only []
  split
  · rw [Body.reg_freezeLogs _ _ h, Body.reg_log, Body.reg_syncShadow _ _ h]
    exact Body.reg_congr (by simp [Body.dbgEnd]) q
  · rw [Body.reg_log, Body.reg_syncShadow _ _ h]
    exact Body.reg_congr (by simp [Body.dbgEnd]) q

theorem Body.reg_done (b : Body) (fl : Flight) (r : Nat) {q : Reg} (h : ¬ q.notes) : (b.done fl r).reg q = b.reg q :=
  Body.reg_retire b fl 0 r false h

theorem Body.reg_count (b : Body) (slot i n : Nat) {q : Reg} (h : ¬ q.notes) : (b.count slot i n).reg q = b.reg q := by
  unfold Body.count
  split
  · exact Body.reg_bump_ne _ _ _ (fun e => h (.inr (.inr (.inr (.inl ⟨_, _, e⟩)))))
  · rfl

theorem Body.reg_clamps_ne (b : Body) (n opc ctx : Nat) {q : Reg} (ha : q.addr ≠ Reg.hmClampTally.addr) :
    (b.clamps n opc ctx).reg q = b.reg q := by
  unfold Body.clamps
  split
  · rfl
  · rw [Body.reg_setF_ne _ _ _ ha, Body.reg_setF_ne _ _ _ ha, Body.reg_bump_ne _ _ _ ha]

theorem Body.getF_clamps_ne (b : Body) (n opc ctx : Nat) {q : Reg} (f : Fld) (ha : q.addr ≠ Reg.hmClampTally.addr) :
    (b.clamps n opc ctx).getF q f = b.getF q f := by unfold Body.getF; rw [Body.reg_clamps_ne _ _ _ _ ha]

theorem Body.reg_clamps (b : Body) (n opc ctx : Nat) {q : Reg} (h : ¬ q.notes) : (b.clamps n opc ctx).reg q = b.reg q :=
  Body.reg_clamps_ne b n opc ctx (fun e => h (.inr (.inr (.inl e))))

theorem Body.reg_clampCmd (b : Body) (fl : Flight) (n : Nat) {q : Reg} (h : ¬ q.notes) :
    (b.clampCmd fl n).reg q = b.reg q := by
  unfold Body.clampCmd; rw [Body.reg_count _ _ _ _ h, Body.reg_clamps _ _ _ _ h]

theorem Body.reg_errToWatch (b : Body) (r : ErrRec) {q : Reg} (h : ¬ q.notes) : (b.errToWatch r).reg q = b.reg q := by
  unfold Body.errToWatch
  simp only []
  split
  · exact Body.reg_bump_ne _ _ _ (fun e => h (.inl e))
  · rfl

theorem Body.reg_raise (b : Body) (r : ErrRec) {q : Reg} (h : ¬ q.notes) : (b.raise r).reg q = b.reg q := by
  have ha : q.addr ≠ Reg.hmErrStat.addr := fun e => h (.inr (.inl e))
  have hw : (if r.sev = 2 then b.errToWatch r else b).reg q = b.reg q := by
    split
    · exact Body.reg_errToWatch b r h
    · rfl
  unfold Body.raise
  generalize hc : (if r.sev = 2 then b.errToWatch r else b) = c at hw
  simp only [Body.reg_log]
  split
  · exact hw
  · rw [Body.reg_bump_ne _ _ _ ha, hw]

theorem Body.reg_err (b : Body) (code sev kind unit : Nat) (d : List Nat) (st ctx : Nat) {q : Reg} (h : ¬ q.notes) :
    (b.err code sev kind unit d st ctx).reg q = b.reg q := Body.reg_raise _ _ h

theorem Body.reg_failWith (b : Body) (fl : Flight) (st code sev kind unit : Nat) (d : List Nat) {q : Reg} (h : ¬ q.notes) :
    (b.failWith fl st code sev kind unit d).reg q = b.reg q := by
  unfold Body.failWith; rw [Body.reg_retire _ _ _ _ _ h, Body.reg_raise _ _ h]

theorem Body.reg_fail (b : Body) (fl : Flight) (st d0 d1 : Nat) {q : Reg} (h : ¬ q.notes) :
    (b.fail fl st d0 d1).reg q = b.reg q := by
  unfold Body.fail
  split
  · exact Body.reg_retire _ _ _ _ _ h
  · exact Body.reg_failWith _ _ _ _ _ _ _ _ h

/-! ### Bytes -/

theorem sameBytes_of {b t : Body} (hm : t.mem = b.mem) (hh : t.haze = b.haze) (hb : t.bg = b.bg) : SameBytes b t :=
  fun a => Body.byte_congr hm hh hb a

theorem SameBytes.trans {b t u : Body} (h : SameBytes b t) (g : SameBytes t u) : SameBytes b u :=
  fun a => (g a).trans (h a)

end Sys2Proof.Machine
end

