-- ==== Sys2Proof/Laws/RegMap.lean ====
section
/-! SUPPORT. Laws of the register map (R13, R14): an address names a register of that address; a register's fields lie apart. -/

namespace Sys2Proof.Machine

theorem reg1_some {a base cnt stride : Nat} {f : Nat → Reg} {r : Reg} (h : reg1 a base cnt stride f = some r) :
    ∃ g, g < cnt ∧ a = base + stride * g ∧ r = f g := by
  unfold reg1 at h
  split at h
  · rename_i hc
    injection h with h
    refine ⟨_, hc.2.2, ?_, h.symm⟩
    have := Nat.div_add_mod (a - base) stride
    rw [hc.2.1] at this; omega
  · cases h

theorem reg2_some {a base c1 s1 c2 s2 : Nat} {f : Nat → Nat → Reg} {r : Reg} (h : reg2 a base c1 s1 c2 s2 f = some r) :
    ∃ g k, g < c1 ∧ k < c2 ∧ a = base + s1 * g + s2 * k ∧ r = f g k := by
  unfold reg2 at h
  split at h
  · rename_i hc
    injection h with h
    refine ⟨_, _, hc.2.1, hc.2.2.2, ?_, h.symm⟩
    have h1 := Nat.div_add_mod (a - base) s1
    have h2 := Nat.div_add_mod ((a - base) % s1) s2
    rw [hc.2.2.1] at h2; omega
  · cases h

theorem reg0_some {a base : Nat} {x r : Reg} (h : reg0 a base x = some r) : a = base ∧ r = x := by
  unfold reg0 at h
  split at h
  · injection h with h; exact ⟨by assumption, h.symm⟩
  · cases h

theorem firstSome_mem {α : Type} {l : List (Option α)} {x : α} (h : firstSome l = some x) : some x ∈ l := by
  induction l with
  | nil => cases h
  | cons o r ih =>
    cases o with
    | none => exact List.mem_cons_of_mem _ (ih h)
    | some y => injection h with h; subst h; exact List.mem_cons_self

/-- What a candidate names, if anything, is a register at the address. -/
def Names (a : Nat) (o : Option Reg) : Prop := ∀ q, o = some q → q.addr = a ∧ q.ok = true

theorem names0 {a base : Nat} (x : Reg) (h : x.addr = base ∧ x.ok = true) : Names a (reg0 a base x) := by
  intro q hq
  obtain ⟨ha, rfl⟩ := reg0_some hq
  exact ⟨by rw [h.1, ha], h.2⟩

theorem names1 {a base cnt stride : Nat} {f : Nat → Reg} (h : ∀ g, g < cnt → (f g).addr = base + stride * g ∧ (f g).ok = true) :
    Names a (reg1 a base cnt stride f) := by
  intro q hq
  obtain ⟨g, hg, ha, rfl⟩ := reg1_some hq
  exact ⟨by rw [(h g hg).1, ha], (h g hg).2⟩

theorem names2 {a base c1 s1 c2 s2 : Nat} {f : Nat → Nat → Reg}
    (h : ∀ g k, g < c1 → k < c2 → (f g k).addr = base + s1 * g + s2 * k ∧ (f g k).ok = true) :
    Names a (reg2 a base c1 s1 c2 s2 f) := by
  intro q hq
  obtain ⟨g, k, hg, hk, ha, rfl⟩ := reg2_some hq
  exact ⟨by rw [(h g k hg hk).1, ha], (h g k hg hk).2⟩

theorem names_first {a : Nat} {l : List (Option Reg)} (h : ∀ o ∈ l, Names a o) : Names a (firstSome l) :=
  fun q hq => h _ (firstSome_mem hq) q rfl

theorem names_or {a : Nat} {x y : Option Reg} (hx : Names a x) (hy : Names a y) : Names a (x <|> y) := by
  intro q hq
  cases x with
  | none => exact hy q hq
  | some z => exact hx q hq

theorem names_candidates1 (a : Nat) : ∀ o ∈ Reg.candidates1 a, Names a o := by
  simp only [Reg.candidates1, List.forall_mem_cons]
  exact ⟨names1 (f := .brFmtTally) (fun _ h => ⟨rfl, decide_eq_true h⟩),
    names1 (f := .brRampCtl) (fun _ h => ⟨rfl, decide_eq_true h⟩),
    names1 (f := .brTrussStat) (fun _ h => ⟨rfl, decide_eq_true h⟩),
    names1 (f := .brTrussBusy) (fun _ h => ⟨rfl, decide_eq_true h⟩),
    names1 (f := .brTrussStall) (fun _ h => ⟨rfl, decide_eq_true h⟩),
    names1 (f := .brConflictRec) (fun _ h => ⟨rfl, decide_eq_true h⟩),
    names1 (f := .brHoldPwr) (fun _ h => ⟨rfl, decide_eq_true h⟩),
    names1 (f := .brJyCfg) (fun _ h => ⟨rfl, decide_eq_true h⟩),
    names1 (f := .brJyStat) (fun _ h => ⟨rfl, decide_eq_true h⟩),
    names1 (f := .brJyStall) (fun _ h => ⟨rfl, decide_eq_true h⟩),
    names1 (f := .brJyBusy) (fun _ h => ⟨rfl, decide_eq_true h⟩),
    names1 (f := .brLatheStat) (fun _ h => ⟨rfl, decide_eq_true h⟩), by simp⟩

theorem names_candidates2 (a : Nat) : ∀ o ∈ Reg.candidates2 a, Names a o := by
  simp only [Reg.candidates2, List.forall_mem_cons]
  exact ⟨names1 (f := .brLatheTally) (fun _ h => ⟨rfl, decide_eq_true h⟩),
    names1 (f := .brLatheStall) (fun _ h => ⟨rfl, decide_eq_true h⟩),
    names1 (f := .brScarfTally) (fun _ h => ⟨rfl, decide_eq_true h⟩),
    names1 (f := .brScarfStat) (fun _ h => ⟨rfl, decide_eq_true h⟩),
    names1 (f := .rpDraws) (fun _ h => ⟨rfl, decide_eq_true h⟩),
    names1 (f := .brPwrCtl) (fun _ h => ⟨rfl, decide_eq_true h⟩),
    names1 (f := .brPwrStat) (fun _ h => ⟨rfl, decide_eq_true h⟩),
    names1 (f := .brTeredo) (fun _ h => ⟨rfl, decide_eq_true h⟩),
    names1 (f := .qyStagger) (fun _ h => ⟨rfl, decide_eq_true h⟩),
    names1 (f := .qyShedPwr) (fun _ h => ⟨rfl, decide_eq_true h⟩),
    names1 (f := .qyTileStat) (fun _ h => ⟨rfl, decide_eq_true h⟩),
    names1 (f := .qyStealStat) (fun _ h => ⟨rfl, decide_eq_true h⟩), by simp⟩

theorem names_candidates3 (a : Nat) : ∀ o ∈ Reg.candidates3 a, Names a o := by
  simp only [Reg.candidates3, List.forall_mem_cons]
  exact ⟨names2 (f := .qyClaimBase) (fun _ _ h k => ⟨rfl, by simp [Reg.ok, h, k]⟩),
    names2 (f := .qyClaimSeq) (fun _ _ h k => ⟨rfl, by simp [Reg.ok, h, k]⟩),
    names0 .hmClampTally ⟨rfl, rfl⟩,
    names0 .hmSramEcc ⟨rfl, rfl⟩,
    names0 .hmTelCfg ⟨rfl, rfl⟩,
    names0 .hmTelStat ⟨rfl, rfl⟩,
    names0 .hmErrStat ⟨rfl, rfl⟩,
    names0 .hmStepStat ⟨rfl, rfl⟩,
    names1 (f := .hmWqCfg) (fun _ h => ⟨rfl, decide_eq_true h⟩),
    names1 (f := .hmWqPtr) (fun _ h => ⟨rfl, decide_eq_true h⟩),
    names1 (f := .hmWqDb) (fun _ h => ⟨rfl, decide_eq_true h⟩),
    names1 (f := .hmCplOvf) (fun _ h => ⟨rfl, decide_eq_true h⟩), by simp⟩

theorem names_candidates4 (a : Nat) : ∀ o ∈ Reg.candidates4 a, Names a o := by
  simp only [Reg.candidates4, List.forall_mem_cons]
  exact ⟨names1 (f := .hmCtxStat) (fun _ h => ⟨rfl, decide_eq_true h⟩),
    names1 (f := .hmCrateTally) (fun _ h => ⟨rfl, decide_eq_true h⟩),
    names1 (f := .hmCrateFault) (fun _ h => ⟨rfl, decide_eq_true h⟩),
    names1 (f := .hmPoolStat) (fun _ h => ⟨rfl, decide_eq_true h⟩),
    names2 (f := .hmCtxCnt) (fun _ _ h k => ⟨rfl, by simp [Reg.ok, h, k]⟩),
    names0 .mtCfg ⟨rfl, rfl⟩,
    names0 .mtFlashLife ⟨rfl, rfl⟩,
    names0 .mtFlashStat ⟨rfl, rfl⟩,
    names0 .mtFlashWait ⟨rfl, rfl⟩,
    names1 (f := .mtHbmMapout) (fun _ h => ⟨rfl, decide_eq_true h⟩),
    names1 (f := .mtStackEcc) (fun _ h => ⟨rfl, decide_eq_true h⟩),
    names1 (f := .mtScrubStat) (fun _ h => ⟨rfl, decide_eq_true h⟩), by simp⟩

theorem names_candidates5 (a : Nat) : ∀ o ∈ Reg.candidates5 a, Names a o := by
  simp only [Reg.candidates5, List.forall_mem_cons]
  exact ⟨names2 (f := .slCfg) (fun _ _ h k => ⟨rfl, by simp [Reg.ok, h, k]⟩),
    names2 (f := .slStat) (fun _ _ h k => ⟨rfl, by simp [Reg.ok, h, k]⟩),
    names1 (f := .lnCfg) (fun _ h => ⟨rfl, decide_eq_true h⟩),
    names1 (f := .lnStat) (fun _ h => ⟨rfl, decide_eq_true h⟩),
    names1 (f := .lnErr) (fun _ h => ⟨rfl, decide_eq_true h⟩),
    names1 (f := .lnOffset) (fun _ h => ⟨rfl, decide_eq_true h⟩),
    names0 .bwVcCfg ⟨rfl, rfl⟩,
    names0 .bwClTally ⟨rfl, rfl⟩,
    names0 .bwTwinStat ⟨rfl, rfl⟩,
    names1 (f := .bwBasinStat) (fun _ h => ⟨rfl, decide_eq_true h⟩),
    names1 (f := .bwGroupStat) (fun _ h => ⟨rfl, decide_eq_true h⟩),
    names1 (f := .bwGroupEpoch) (fun _ h => ⟨rfl, decide_eq_true h⟩), by simp⟩

theorem names_candidates6 (a : Nat) : ∀ o ∈ Reg.candidates6 a, Names a o := by
  simp only [Reg.candidates6, List.forall_mem_cons]
  exact ⟨names1 (f := .bwTwinHand) (fun _ h => ⟨rfl, decide_eq_true h⟩),
    names1 (f := .epPortCfg) (fun _ h => ⟨rfl, decide_eq_true h⟩),
    names1 (f := .epPortStat) (fun _ h => ⟨rfl, decide_eq_true h⟩),
    names0 .epPtpCfg ⟨rfl, rfl⟩,
    names0 .epPtpStat ⟨rfl, rfl⟩,
    names0 .epPpsTs ⟨rfl, rfl⟩,
    names1 (f := .epQpStat) (fun _ h => ⟨rfl, decide_eq_true h⟩),
    names1 (f := .fyPipeStat) (fun _ h => ⟨rfl, decide_eq_true h⟩),
    names1 (f := .fyStreamStat) (fun _ h => ⟨rfl, decide_eq_true h⟩),
    names1 (f := .rpSwellStat) (fun _ h => ⟨rfl, decide_eq_true h⟩),
    names0 .rpSampleStat ⟨rfl, rfl⟩,
    names0 .wtMpl ⟨rfl, rfl⟩, by simp⟩

theorem names_candidates7 (a : Nat) : ∀ o ∈ Reg.candidates7 a, Names a o := by
  simp only [Reg.candidates7, List.forall_mem_cons]
  exact ⟨names0 .wtState ⟨rfl, rfl⟩,
    names0 .wtLogFreeze ⟨rfl, rfl⟩,
    names0 .wtPinStat ⟨rfl, rfl⟩,
    names1 (f := .wtLimit) (fun _ h => ⟨rfl, decide_eq_true h⟩),
    names1 (f := .wtQuayClk) (fun _ h => ⟨rfl, decide_eq_true h⟩),
    names1 (f := .wtLoopStat) (fun _ h => ⟨rfl, decide_eq_true h⟩),
    names1 (f := .wtShedRetain) (fun _ h => ⟨rfl, decide_eq_true h⟩),
    names1 (f := .wtTeredo) (fun _ h => ⟨rfl, decide_eq_true h⟩),
    names0 .scId0 ⟨rfl, rfl⟩,
    names0 .scId1 ⟨rfl, rfl⟩,
    names0 .scId2 ⟨rfl, rfl⟩,
    names0 .scBootStat ⟨rfl, rfl⟩, by simp⟩

theorem names_candidates8 (a : Nat) : ∀ o ∈ Reg.candidates8 a, Names a o := by
  simp only [Reg.candidates8, List.forall_mem_cons]
  exact ⟨names0 .scDebugStat ⟨rfl, rfl⟩, by simp⟩

/-- The register that an address names has that address, and its numbers lie in the ranges of R14. -/
theorem Reg.ofAddr_sound {a : Nat} {r : Reg} (h : Reg.ofAddr a = some r) : r.addr = a ∧ r.ok = true :=
  names_or (names_first (names_candidates1 a)) (names_or (names_first (names_candidates2 a))
    (names_or (names_first (names_candidates3 a)) (names_or (names_first (names_candidates4 a))
      (names_or (names_first (names_candidates5 a)) (names_or (names_first (names_candidates6 a))
        (names_or (names_first (names_candidates7 a)) (names_first (names_candidates8 a)))))))) r h

/-- The fields of a register lie apart, within the word. -/
theorem Reg.fields_apart (r : Reg) :
    r.fields.Pairwise (fun f g => f.hi < g.lo ∨ g.hi < f.lo) ∧ ∀ f ∈ r.fields, f.lo ≤ f.hi ∧ f.hi < 64 := by
  cases r <;> (constructor <;> (simp only [Reg.fields]; decide))

/-! ### Writes and reads, field by field (R8) -/

theorem writeField_reg_ne (b : Body) (r q : Reg) (w : Word) (f : Fld) (h : q.addr ≠ r.addr) (hc : q.addr ≠ Reg.hmClampTally.addr) :
    (b.writeField r w f).reg q = b.reg q := by
  unfold Body.writeField
  split
  · simp only []
    rw [Body.reg_clamps_ne _ _ _ _ hc, Body.reg_setF_ne _ _ _ h]
  · rw [Body.reg_setF_ne _ _ _ h]
  · rfl

theorem writeField_framing (b : Body) (r : Reg) (w : Word) (f : Fld) : (b.writeField r w f).framing = b.framing := by
  unfold Body.writeField; split <;> simp

theorem writeFields_keep {γ : Type} (p : Body → γ) (h : ∀ b r w f, p (b.writeField r w f) = p b) (b : Body) (r : Reg) (w : Word) (l : List Fld) :
    p (l.foldl (fun b f => b.writeField r w f) b) = p b := foldl_keep p _ _ _ (fun b f => h b r w f)

theorem notePower_reg (b : Body) (r q : Reg) : (b.notePower r).reg q = b.reg q := by
  unfold Body.notePower; split <;> exact Body.reg_congr rfl q

theorem writeField_getF_apart (b : Body) (r : Reg) (w : Word) (f g : Fld) (ho : r.ok = true) (hr : r.stored)
    (hf : f.lo ≤ f.hi ∧ f.hi < 64) (hg : g.lo ≤ g.hi) (ha : g.hi < f.lo ∨ f.hi < g.lo) (hc : r.addr ≠ Reg.hmClampTally.addr ∨ f.acc ≠ .rw) :
    (b.writeField r w f).getF r g = b.getF r g := by
  unfold Body.writeField
  split
  · rename_i hrw
    have hc := hc.resolve_right (fun h => h hrw)
    simp only []
    rw [Body.getF_clamps_ne _ _ _ _ _ hc, Body.getF_setF_apart _ _ ho hr hf.1 hf.2 hg ha]
  · rw [Body.getF_setF_apart _ _ ho hr hf.1 hf.2 hg ha]
  · rfl

/-- What a field of a register holds after a write of the register (R8). -/
def fieldAfter (b : Body) (r : Reg) (v : Word) (f : Fld) : Nat := match f.acc with
        | .rw => b.clampField r f v % 2 ^ f.width
        | .w1c => b.getF r f &&& (2 ^ f.width - 1 - v.fld f.hi f.lo)
        | _ => b.getF r f

theorem and_lt_two_pow {a n w : Nat} (h : n ≤ 2^w - 1) : (a &&& n) < 2^w := by
  have : a &&& n ≤ n := Nat.and_le_right
  have := Nat.two_pow_pos w
  omega

theorem writeField_getF_self (b : Body) (r : Reg) (w : Word) (f : Fld) (ho : r.ok = true) (hr : r.stored)
    (hf : f.lo ≤ f.hi ∧ f.hi < 64) (hc : r.addr ≠ Reg.hmClampTally.addr ∨ f.acc ≠ .rw) :
    (b.writeField r w f).getF r f = fieldAfter b r w f := by
  unfold Body.writeField fieldAfter
  cases hacc : f.acc
  · have hc := hc.resolve_right (fun h => h hacc)
    simp only []
    rw [Body.getF_clamps_ne _ _ _ _ _ hc, Body.getF_setF_self _ _ ho hr hf.1 hf.2]
  · rfl
  · simp only []
    rw [Body.getF_setF_self _ _ ho hr hf.1 hf.2]
    exact Nat.mod_eq_of_lt (and_lt_two_pow (Nat.sub_le _ _))
  · rfl
  · rfl

theorem clampField_congr {b c : Body} (r : Reg) (f : Fld) (w : Word) (h1 : b.framing = c.framing)
    (h2 : ∀ p, r = .wtLimit p → b.getF .wtMpl Fld.wtMplAclkMax = c.getF .wtMpl Fld.wtMplAclkMax) : b.clampField r f w = c.clampField r f w := by
  unfold Body.clampField
  cases r <;> simp only [h1]
  case wtLimit p => rw [h2 p rfl]

theorem fold_fields (b : Body) (r : Reg) (w : Word) (ho : r.ok = true) (hr : r.stored) (hcl : r.addr ≠ Reg.hmClampTally.addr) (l : List Fld)
    (hl : l.Pairwise (fun f g => f.hi < g.lo ∨ g.hi < f.lo)) (hb : ∀ f ∈ l, f.lo ≤ f.hi ∧ f.hi < 64) :
    (∀ g, g.lo ≤ g.hi → (∀ f ∈ l, g.hi < f.lo ∨ f.hi < g.lo) → (l.foldl (fun b f => b.writeField r w f) b).getF r g = b.getF r g) ∧
    ∀ f ∈ l, (l.foldl (fun b f => b.writeField r w f) b).getF r f = fieldAfter b r w f := by
  induction l generalizing b with
  | nil => simp
  | cons x l ih =>
    obtain ⟨hx, hl⟩ := List.pairwise_cons.1 hl
    have hxb := hb x List.mem_cons_self
    obtain ⟨i1, i2⟩ := ih (b.writeField r w x) hl (fun f hf => hb f (List.mem_cons_of_mem _ hf))
    refine ⟨fun g hg hgl => ?_, fun f hf => ?_⟩
    · rw [List.foldl_cons, i1 g hg (fun f hf => hgl f (List.mem_cons_of_mem _ hf)),
        writeField_getF_apart _ _ _ _ _ ho hr hxb hg (hgl x List.mem_cons_self) (.inl hcl)]
    · rw [List.foldl_cons]
      rcases List.mem_cons.1 hf with rfl | hf'
      · rw [i1 f hxb.1 (fun g hg => by have := hx g hg; tauto), writeField_getF_self _ _ _ _ ho hr hxb (.inl hcl)]
      · rw [i2 f hf']
        have hfb := hb f hf
        have e1 : (b.writeField r w x).getF r f = b.getF r f :=
          writeField_getF_apart _ _ _ _ _ ho hr hxb hfb.1 (by have := hx f hf'; tauto) (.inl hcl)
        have e2 : (b.writeField r w x).clampField r f w = b.clampField r f w := by
          apply clampField_congr _ _ _ (writeField_framing ..)
          rintro p rfl
          unfold Body.getF
          rw [writeField_reg_ne]
          · have := ho; simp only [Reg.ok, decide_eq_true_eq] at this; simp only [Reg.addr]; omega
          · simp [Reg.addr]
        unfold fieldAfter; rw [e1, e2]


theorem readFields_word (l : List Fld) (n : Nat) (hn : n < 2 ^ 64) (hl : l.Pairwise (fun f g => f.hi < g.lo ∨ g.hi < f.lo))
    (hb : ∀ f ∈ l, f.lo ≤ f.hi ∧ f.hi < 64) :
    let v := l.foldl (fun x f => if f.acc = Access.wo then putBits x f.hi f.lo 0 else x) n
    v < 2 ^ 64 ∧ (∀ g : Fld, g.lo ≤ g.hi → (∀ f ∈ l, g.hi < f.lo ∨ f.hi < g.lo) → bits v g.hi g.lo = bits n g.hi g.lo) ∧
      ∀ f ∈ l, bits v f.hi f.lo = if f.acc = Access.wo then 0 else bits n f.hi f.lo := by
  induction l generalizing n with
  | nil => exact ⟨hn, fun _ _ _ => rfl, by simp⟩
  | cons x l ih =>
    obtain ⟨hx, hl⟩ := List.pairwise_cons.1 hl
    have hxb := hb x List.mem_cons_self
    have step : ∀ m, m = (if x.acc = Access.wo then putBits n x.hi x.lo 0 else n) → m < 2 ^ 64 ∧
        (∀ g : Fld, g.lo ≤ g.hi → (g.hi < x.lo ∨ x.hi < g.lo) → bits m g.hi g.lo = bits n g.hi g.lo) ∧
        bits m x.hi x.lo = if x.acc = Access.wo then 0 else bits n x.hi x.lo := by
      rintro m rfl
      split
      · refine ⟨putBits_lt hn hxb.2 hxb.1, fun g hg ha => ?_, by rw [bits_putBits_self hxb.1]; simp⟩
        rcases ha with ha | ha
        · exact bits_putBits_below hxb.1 ha hg
        · exact bits_putBits_above hxb.1 ha
      · exact ⟨hn, fun _ _ _ => rfl, rfl⟩
    obtain ⟨s1, s2, s3⟩ := step _ rfl
    obtain ⟨i0, i1, i2⟩ := ih _ s1 hl (fun f hf => hb f (List.mem_cons_of_mem _ hf))
    refine ⟨i0, fun g hg hgl => ?_, fun f hf => ?_⟩
    · rw [List.foldl_cons, i1 g hg (fun f hf => hgl f (List.mem_cons_of_mem _ hf)), s2 g hg (hgl x List.mem_cons_self)]
    · rw [List.foldl_cons]
      rcases List.mem_cons.1 hf with rfl | hf'
      · rw [i1 f hxb.1 (fun g hg => by have := hx g hg; tauto), s3]
      · rw [i2 f hf', s2 f (hb f hf).1 (by have := hx f hf'; tauto)]

theorem clearFields (b : Body) (r : Reg) (ho : r.ok = true) (hr : r.stored) (l : List Fld)
    (hl : l.Pairwise (fun f g => f.hi < g.lo ∨ g.hi < f.lo)) (hb : ∀ f ∈ l, f.lo ≤ f.hi ∧ f.hi < 64) :
    let c := l.foldl (fun b f => if f.acc = Access.rc then b.setF r f (f.resetVal b.framing r) else b) b
    (∀ g : Fld, g.lo ≤ g.hi → (∀ f ∈ l, g.hi < f.lo ∨ f.hi < g.lo) → c.getF r g = b.getF r g) ∧
      ∀ f ∈ l, c.getF r f = if f.acc = Access.rc then f.resetVal b.framing r % 2 ^ f.width else b.getF r f := by
  induction l generalizing b with
  | nil => simp
  | cons x l ih =>
    obtain ⟨hx, hl⟩ := List.pairwise_cons.1 hl
    have hxb := hb x List.mem_cons_self
    have step : ∀ c : Body, c = (if x.acc = Access.rc then b.setF r x (x.resetVal b.framing r) else b) → c.framing = b.framing ∧
        (∀ g : Fld, g.lo ≤ g.hi → (g.hi < x.lo ∨ x.hi < g.lo) → c.getF r g = b.getF r g) ∧
        c.getF r x = if x.acc = Access.rc then x.resetVal b.framing r % 2 ^ x.width else b.getF r x := by
      rintro c rfl
      split
      · exact ⟨by simp, fun g hg ha => Body.getF_setF_apart _ _ ho hr hxb.1 hxb.2 hg ha, Body.getF_setF_self _ _ ho hr hxb.1 hxb.2⟩
      · exact ⟨rfl, fun _ _ _ => rfl, rfl⟩
    obtain ⟨s1, s2, s3⟩ := step _ rfl
    obtain ⟨i1, i2⟩ := ih _ hl (fun f hf => hb f (List.mem_cons_of_mem _ hf))
    refine ⟨fun g hg hgl => ?_, fun f hf => ?_⟩
    · rw [List.foldl_cons, i1 g hg (fun f hf => hgl f (List.mem_cons_of_mem _ hf)), s2 g hg (hgl x List.mem_cons_self)]
    · rw [List.foldl_cons]
      rcases List.mem_cons.1 hf with rfl | hf'
      · rw [i1 f hxb.1 (fun g hg => by have := hx g hg; tauto), s3]
      · rw [i2 f hf', s1, s2 f (hb f hf).1 (by have := hx f hf'; tauto)]

end Sys2Proof.Machine
end

