-- ==== Sys2Proof/Tests/Slice0.lean ====
section
/-!
SUPPORT. Ill-formed commands refused, worked examples of the spec, and for each obligation states and operands that meet its hypotheses.
-/

open Sys2Proof Sys2Proof.Machine

namespace Sys2Proof.Tests

/-! ### Small states -/

/-- A state of a body alone. -/
def bodyOf (b : Body) : State := { pending := [], fuse := {}, body := b }

/-- A command with the words after its header. -/
def cmdOf (words : List Word) : Cmd :=
  { wq := 0, ctx := 0, tag := 9, fence := false, cpl := true, slack := false, length := 1, words := words }

/-- A command dispatched in slot 0 and not begun. -/
def flOf (c : Cmd) (opc : Nat) : Flight := { uid := 7, cmd := c, opc := opc, slot := 0 }

/-- A body with that command alone in flight. -/
def bFor (c : Cmd) (opc : Nat) : Body := { hm := { flights := [flOf c opc] } }

/-- Such a command is dispatched and nothing holds it back. -/
theorem dispatched_of {b : Body} {c : Cmd} {opc : Nat} (h : b.hm.flights = [flOf c opc]) (hp : b.power.inputLow = false) :
    Dispatched b c opc (flOf c opc) := by
  refine ⟨?_, ?_, ?_⟩
  · rw [h]; simp [flOf]
  · simp [Body.lowHold, hp]
  · simp [Body.stateHold, flOf, mgmtSlot]

/-- The same of any flight that has not begun. -/
theorem dispatched_by {b : Body} {c : Cmd} {opc : Nat} {f : Flight} (h : b.hm.flights = [f]) (hc : f.cmd = c) (ho : f.opc = opc)
    (hb : f.started = false) (hp : b.power.inputLow = false) (hs : b.stateHold f = false) : Dispatched b c opc f := by
  refine ⟨?_, ?_, hs⟩
  · rw [h]; simp [hb, hc, ho]
  · simp [Body.lowHold, hp]

/-- A Berth 0 whose run, of the command above, stands at a tile-dialect instruction of an opcode, with byte 6 of its first
word as given. -/
def tileBody (opc x : Nat) : Body :=
  { bFor (cmdOf []) 0x42 with
    mem := [(storeBase 0 + 6, BitVec.ofNat 8 x), (storeBase 0 + 7, BitVec.ofNat 8 opc)], bg := [(2000, 0)],
    berths := [(0, { run := some 7 })] }

/-- The words of that instruction. -/
def tileWords (opc x : Nat) : List Word := [BitVec.ofNat 64 (opc * 2 ^ 56 + x * 2 ^ 48), 0, 0, 0]

/-- The same with its Truss ungated and its ramp ended. -/
def readyTile (opc : Nat) : Body :=
  ((tileBody opc 0).setF (.brTrussStat 0) Fld.brTrussStatGated 0).setF (.brTrussStat 0) Fld.brTrussStatRampStep 16

/-- A tile of a Truss drain of that command. -/
def drainOf (n : Nat) : Drain :=
  { uid := 7, slot := 0, shape := 0, m := 1, n := 1, bank := 0, chain := [], sregs := [], out := {}, r0 := 0, c0 := 0,
    vals := [0], next := n }

/-- The handle of index 5 with GEN 1. -/
def h5 : Nat := 5 * 65536 + 1

/-- A body with a command in flight and one valid entry of slot 0, at index 5. -/
def bWith (c : Cmd) (opc : Nat) (e : Entry) : Body :=
  { bFor c opc with st := { manifest := [(5, { e with valid := true })] } }

/-- Dowel 63 of Berth 0 in the core dialect stands at a word of a two-unit program; x3 holds 64. -/
def dowelBody (w : Word) : Body :=
  (({ bFor (cmdOf [1]) 0x4A with
      bg := [(2000, 0)],
      berths := [(0, { run := some 7, dowels := [(63, { x := [(3, 64)] })] })] } : Body).setLe (storeBase 0) 8 w.toNat).setF
    (.brJyCfg 0) Fld.brJyCfgDialect 1

/-- A two-unit program whose first instruction is a tile-dialect one with a buffer at index 5 as its block: 64 bytes of
FP32 at the start of Hold 0. -/
def tileBody2 (opc x : Nat) : Body :=
  ({ (bWith (cmdOf [1]) 0x4A { place := 0, base := 0x410000000000, size := 64, rd := true, wr := true, fmt := 10 }) with
    mem := [(storeBase 0 + 6, BitVec.ofNat 8 x), (storeBase 0 + 7, BitVec.ofNat 8 opc), (storeBase 0 + 12, 64),
      (storeBase 0 + 14, 64), (storeBase 0 + 15, 1)], bg := [(2000, 0)],
    berths := [(0, { run := some 7 })] } : Body).setReady 0 true

/-- The words of that instruction. -/
def tileWords2 (opc x : Nat) : List Word :=
  [BitVec.ofNat 64 (opc * 2 ^ 56 + x * 2 ^ 48), BitVec.ofNat 64 (h5 * 2 ^ 38), 0, 0]

/-! ### Ill-formed commands are refused by WellFormed, one for each check -/

theorem test_wf_descriptors :
    (cmdOf []).wf = false ∧ (cmdOf [0, 0, 0, 0, 0, 0, 0]).wf = true ∧ Instr.wf (.registerWrite 0 5 0) = false ∧ Instr.wf (.rcRead 0 16) = false ∧
    Instr.wf (.tpass 0 [0] none) = false ∧ Instr.wf (.nop (cmdOf [0])) = false ∧
    Instr.wf (.mfAllot (cmdOf [0, 0, 0, 0, 0, 0, 0]) [1, 1]) = false ∧ Instr.wf (.mfAllot (cmdOf [0]) []) = false := by decide

theorem test_wf_accesses :
    (GwReq.wf { gw := 64, off := 0, key := 0, op := .read 1, who := .host 0 }) = false ∧
    (GwReq.wf { gw := 63, off := 4, key := 0, op := .fetchAdd 1, who := .host 0 }) = false ∧
    (WinWrite.wf { qp := 0, va := 0, rkey := 0, data := [] }) = false ∧
    (WinWrite.wf { qp := 0, va := 2 ^ 64, rkey := 0, data := [0] }) = false ∧
    (WinWrite.wf { qp := 0, va := 0, rkey := 2 ^ 32, data := [0] }) = false := by decide

theorem test_wf_units :
    Instr.wf (.boardwalkTraining [(18, 0)]) = false ∧ Instr.wf (.boardwalkTraining [(0, 0), (0, 0)]) = false ∧
    Instr.wf (.apronNextCrate 4096 0) = false ∧ Instr.wf (.crateCopyComplete 0 65536 0) = false ∧ Instr.wf (.slotQuarantineEnd 256 0) = false ∧
    Instr.wf (.refresh 0 640) = false ∧ Instr.wf (.calibration 1 96) = false ∧ Instr.wf (.patrolRead (2 ^ 30) .good) = false ∧
    Instr.wf (.tierTraining [640] []) = false ∧ Instr.wf (.tierTraining [] [96]) = false ∧ Instr.wf (.thermalStep []) = false ∧
    Instr.wf (.errorRecord 14 0) = false ∧ Instr.wf (.teredoMeasure [(200, 0)]) = false ∧ Instr.wf (.teredoMeasure [(1, 0), (1, 0)]) = false ∧
    Instr.wf (.flashSvcNRise [(0x4000000, [0])]) = false ∧ Instr.wf (.mirrorWrite 0 (2 ^ 48) []) = false := by decide

theorem test_wf_lines :
    Flit.wf { seq := 4096, ack := 0, vc := 0, last := true, crcOk := true, fecOk := true, credits := [], data := [] } = false ∧
    Flit.wf { seq := 0, ack := 0, vc := 0, last := true, crcOk := true, fecOk := true, credits := [(8, 0)], data := [] } = false ∧
    Instr.wf (.lineAckFlit 0 4096 []) = false ∧ Instr.wf (.lineAckFlit 0 0 [(0, 1024)]) = false ∧ Instr.wf (.lineNak 0 4096) = false ∧
    Instr.wf (.join 65536 0 0 0) = false ∧ Instr.wf (.brokenReport 0 0 (2 ^ 32)) = false ∧ Instr.wf (.ready 0 65536 0 0 0 0) = false ∧
    Instr.wf (.collectiveChunk 65536 { group := 0, epoch := 0, reg := 0, run := 0, tree := 0, src := 0, dst := 0, index := 0, down := false, data := [] }) = false ∧
    Chunk.wf { group := 0, epoch := 0, reg := 0, run := 0, tree := 2, src := 0, dst := 0, index := 0, down := false, data := [] } = false ∧
    Instr.wf (.freePosition 0 0 0 0 2 0) = false ∧ Instr.wf (.handover 0 [(0, 65536)]) = false := by decide

theorem test_wf_ethernet :
    Instr.wf (.rdmaWrite 0 (2 ^ 64) 0 [] 0) = false ∧ Instr.wf (.rdmaRead 0 0 (2 ^ 32) 0 0) = false ∧ Instr.wf (.fetchAndAdd 0 4 0 0 0) = false ∧
    Instr.wf (.roceAck 0 (2 ^ 24)) = false ∧ Instr.wf (.roceNak 0 0 256) = false ∧ Instr.wf (.pauseFrame 0 0 65536) = false ∧
    Instr.wf (.arpRequest 0 (some 4096) 0) = false ∧ Instr.wf (.arpRequest 0 none (2 ^ 32)) = false ∧
    Instr.wf (.neighbourSolicitation 0 none (2 ^ 128)) = false ∧ Instr.wf (.icmpEcho 0 (some 4096) 0 []) = false ∧
    Instr.wf (.otherFrame 0 (some 4096)) = false ∧ Instr.wf (.ptpEventMessage 0 256 0) = false := by decide

/-! ### Worked examples of the spec -/

/-- R7: the Hold of Berth 67. -/
theorem test_hold_address : holdAddr 67 0 = 0x41031C000000 := by decide

/-- R48's example: FP32 0.3 is 0x2A in E4M3. -/
theorem test_e4m3 : (fE4M3.conv 0 false false (ofF32 0x3E99999A)).1 = 0x2A := by decide

/-- R43's example: three products of 2^-25 round a chunk on 1.0 up, two stay even. -/
theorem test_chunk :
    let a (n : Nat) : KRow := kRow 0 127 ((List.range 32).map fun i => if i < n then fE4M3.dec 1 else .fin false 0 0)
    let b : KRow := kRow 1 127 (List.replicate 32 (fE5M2.dec 1))
    dotAcc false 0x3F800000 [a 3] [b] = 0x3F800001 ∧ dotAcc false 0x3F800000 [a 2] [b] = 0x3F800000 := by decide

/-- R86's example: STEPS_LOG2 0 and STEP_CYC 6 against a floor of 100. -/
theorem test_ramp_floor : rampClamp 100 0 6 = (1, 50) := by decide

/-- R124's example: a 3 by 3 grid in Z order. -/
theorem test_morton :
    walkPoints [⟨0, 3, 3⟩, ⟨1, 0, 3⟩] 2 [3, 3] = [[0, 0], [0, 1], [1, 0], [1, 1], [0, 2], [1, 2], [2, 0], [2, 1], [2, 2]] := by decide

/-- R234's example: the sub-filters of a 9 by 9 filter. -/
theorem test_sub_filters : subFilters 9 false = [(0, 7), (7, 2)] := by decide

/-- R361's example: the interior ranks of two trees of seven. -/
theorem test_trees :
    ((List.range 7).filter (interior 0 7)) = [1, 3, 5] ∧ ((List.range 7).filter (interior 1 7)) = [0, 2, 4] := by decide

/-- R433: V_SET at 850 MHz with no guard is 0.750 V. -/
theorem test_v_set : vUnits 850 0 * 5 / 2 = 750 := by decide

/-- R469's example: the probe over a 3 m Line gives an offset of 37 ns and a delay of 175 ns. -/
theorem test_probe :
    let p : Probe := { fl := flOf (cmdOf [35]) 0x8E, line := 35, count := 2, sent := [(0, 1000000000)] }
    let s := bodyOf { ts := 1000000750, tele := { probe := some p } }
    ∃ t q, exec (.probeReply 35 0 1000000212 1000000612) s = .next t ∧ t.body.tele.probe = some q ∧ q.results = [(0, 37, 175, 1000000000)] :=
  ⟨_, _, rfl, rfl, by decide⟩

/-- R8: a write of all ones to HM_WQ_PTR, whose fields are read-only, changes nothing. -/
theorem test_read_only : ((bodyOf {}).body.writeReg (.hmWqPtr 5) (BitVec.allOnes 64)).reg (.hmWqPtr 5) = ({} : Body).reg (.hmWqPtr 5) := by decide

/-! ### Hypotheses met -/

/-- A queue with two commands. -/
theorem wit_StepRunsFrontCommand :
    ({ State.reset with pending := [.inputRecovery, .refclkReturn] } : State).pending = .inputRecovery :: [.refclkReturn] := rfl

/-- Queues of two commands, one and none; the module powered and not; a step that gives a next state. -/
theorem wit_QueueOnlyLosesItsFront :
    (∃ t, step { State.reset with pending := [.telemetryPush, .refclkReturn] } = .next t ∧ t.pending = [.refclkReturn]) ∧
    (∃ t, exec .refclkReturn State.reset = .next t) ∧ State.reset.pending = [] ∧ State.reset.body.boot.phase ≠ .off ∧
    (bodyOf { boot := { phase := .off } }).body.boot.phase = .off ∧ (bodyOf { boot := { phase := .off } }).pending = [] :=
  ⟨⟨_, rfl, rfl⟩, ⟨_, rfl⟩, rfl, by decide, rfl, rfl⟩

/-- SCAN in force and not. -/
theorem wit_OnlyScanStops : ((({} : Body).setF .scDebugStat Fld.scDebugStatLevels 4).level 2) = true ∧ ({} : Body).level 2 = false := by decide

/-- A step that blows: SC_COMMIT in front with a slot to revoke and images of SVN 7 and 99 running. -/
theorem wit_FusesOnlyBlow :
    let c := cmdOf [11]
    let b : Body := { bFor c 0x84 with boot := { fw := { svn := 7 }, fr := { svn := 99 }, frBytes := [1] } }
    let s : State := { pending := [.scCommit c], fuse := { revoked := 4 }, body := b }
    FusesLegal s.fuse ∧ ∃ t, step s = .next t ∧ t.fuse.revoked = 6 ∧ t.fuse.fwSvn = 7 ∧ t.fuse.frSvn = 64 :=
  ⟨⟨by decide, by decide, by decide, fun _ => Nat.zero_lt_succ _⟩, _, rfl, by rfl, by rfl, by rfl⟩

theorem wit_registerWrite : regAt 0x7F0000800000 8 = some .wtMpl ∧ regAt 0x7F0000201010 8 = some (.hmWqDb 0) ∧
    ∀ n, Reg.wtMpl ≠ .hmWqDb n := by
  refine ⟨by decide, by decide, fun n h => by cases h⟩

/-- BR_RAMP_CTL of Berth 67 and HM_WQ_PTR of WQ5, as R14 works them; an address between registers, a misaligned one, 4 bytes. -/
theorem wit_RegistersResolveAtTheirAddresses :
    (Reg.brRampCtl 67).ok = true ∧ (Reg.brRampCtl 67).addr = 0x7F0000043008 ∧ (Reg.hmWqPtr 5).ok = true ∧ (Reg.hmWqPtr 5).addr = 0x7F00002010A8 ∧
    Reg.ofAddr 0x7F00000000A0 = none ∧ 0x7F0000000004 % 8 ≠ 0 ∧ (4 : Nat) ≠ 8 ∧ (Reg.wtQuayClk 9).fields.length = 6 := by decide

theorem wit_bootStages : ∀ p ∈ [Phase.released, .firmware, .framed, .boardwalk, .trained, .run],
    ∃ s : State, s.body.boot.phase = p ∧ s.body.boot.heHeld = false := by
  intro p _; exact ⟨{ State.reset with body := { State.reset.body with boot := { phase := p } } }, rfl, rfl⟩

theorem wit_LostLinkHaltsContexts : (17 : Nat) ∉ State.reset.body.bw.retried ∧
    (17 : Nat) ∈ (bodyOf { bw := { retried := [17] } }).body.bw.retried ∧
    (({} : Body).setF (.hmCtxStat 63) Fld.hmCtxStatState 0).getF (.hmCtxStat 63) Fld.hmCtxStatState ≠ 3 := by decide

theorem wit_TrussRampAndGating :
    ((readyTile 0x20).berth 0).down = false ∧ (readyTile 0x20).getF (.brTrussStat 0) Fld.brTrussStatGated = 0 ∧
    (({} : Body).updBerth 199 fun x => { x with down := true }).berth 199 = { ({} : Berth) with down := true } ∧
    (readyTile 0x20).trussIdle 0 = true ∧ State.reset.body.getF (.brTrussStat 0) Fld.brTrussStatGated ≠ 0 := by decide

theorem wit_TileInstructionsRun :
    (tileBody 0x23 0).tileRun 0 (tileWords 0x23 0) 0x23 = some (flOf (cmdOf []) 0x42) ∧
    (((tileBody 0x23 0).markTruss 0).passBerths 0).all ((tileBody 0x23 0).markTruss 0).trussIdle = true ∧
    (readyTile 0x20).tileRun 0 (tileWords 0x20 0) 0x20 = some (flOf (cmdOf []) 0x42) ∧
    ((readyTile 0x20).markTruss 0).passReady 0 = true ∧ ((tileWords 0x20 0).getD 0 0).fld 53 52 < 2 ∧
    (tileBody 0x21 0).tileRun 0 (tileWords 0x21 0) 0x21 = some (flOf (cmdOf []) 0x42) ∧
    ((tileBody 0x21 0).markTruss 0).passReady 0 = false ∧ ((tileBody 0x21 0).berth 0).lead = none ∧
    (tileBody 0x22 0x80).tileRun 0 (tileWords 0x22 0x80) 0x22 = some (flOf (cmdOf []) 0x42) ∧
    ((tileBody 0x22 0x80).berth 0).raftWait = none ∧ (tileBody 0x22 0x80).leads 0 = false ∧
    ((tileWords 0x22 0x80).getD 0 0).bit 55 = true := by decide

/-- Berths with a TRAFT that waits, and with tiles to swap and to drain. -/
theorem wit_drains :
    let b := (tileBody 0x22 0).updBerth 0 fun x => { x with raftWait := some (1, 2) }
    let d := (tileBody 0x22 0).updBerth 0 fun x => { x with due := some (drainOf 0) }
    let e := d.updBerth 0 fun x => { x with shadow := some (drainOf 254) }
    (b.berth 0).raftWait = some (1, 2) ∧ (b.berth 0).run = some 7 ∧ b.flight 7 = some (flOf (cmdOf []) 0x42) ∧
    (d.berth 0).due = some (drainOf 0) ∧ (d.berth 0).shadow = none ∧
    (e.berth 0).due = some (drainOf 0) ∧ (e.berth 0).shadow = some (drainOf 254) ∧
    e.flight (drainOf 254).uid = some (flOf (cmdOf []) 0x42) ∧ (drainOf 254).next < 255 := by decide

/-- A rectangle of idle Berths forms. -/
theorem wit_raft : ((tileBody 0x22 0).updBerth 0 fun x => { x with raftWait := some (1, 2) }).raftReady (rectangle 0 1 2) = true := by
  decide

/-- An MF_BIND of a remote Gangway at index 1023, and one of a Hold at address 0, which lies in none. -/
theorem wit_BindMakesHandle :
    let c := cmdOf [BitVec.ofNat 64 (1023 * 2 ^ 48), BitVec.ofNat 64 (5 * 2 ^ 61)]
    let d := cmdOf []
    Dispatched (bFor c 0x38) c 0x38 (flOf c 0x38) ∧ (bFor c 0x38).bindOk 0 (c.f 2 53 52) (bindEntry c).1 = true ∧
    (bFor c 0x38).bindIndex 0 c = some 1023 ∧ ((bFor c 0x38).entry 0 1023).valid = false ∧
    (bFor c 0x38).unbinding 0 1023 = false ∧ ((bFor c 0x38).entry 0 1023).gen = 1 ∧
    Dispatched (bFor d 0x38) d 0x38 (flOf d 0x38) ∧ (bFor d 0x38).bindOk 0 (d.f 2 53 52) (bindEntry d).1 = false :=
  ⟨dispatched_of rfl rfl, by decide, by decide, by decide, by decide, by decide, dispatched_of rfl rfl, by decide⟩

/-- MF_UNBIND of a handle that resolves, and of one that does not; an entry in use, and one whose unbind waits. -/
theorem wit_UnbindTakesEffect :
    let c := cmdOf [BitVec.ofNat 64 (h5 * 2 ^ 38)]
    let b := bWith c 0x39 {}
    let u := { bWith c 0x39 {} with hm := { flights := [{ flOf c 0x30 with started := true, handles := [5] }] } }
    let w := { bWith c 0x39 {} with st := { (bWith c 0x39 {}).st with ents := [(flOf c 0x39, 5)] } }
    Dispatched b c 0x39 (flOf c 0x39) ∧ b.resolve 0 (c.h 1) = some { ({} : Entry) with valid := true } ∧ b.st.gws = [] ∧
    b.st.ents = [] ∧ b.entryBusy 0 (c.h 1 / 65536) = false ∧ Dispatched (bFor c 0x39) c 0x39 (flOf c 0x39) ∧
    (bFor c 0x39).resolve 0 (c.h 1) = none ∧ u.entryBusy 0 5 = true ∧ w.entryBusy 0 5 = false ∧
    w.st.ents = [(flOf c 0x39, 5)] ∧ (w.entry 0 5).valid = true :=
  ⟨dispatched_of rfl rfl, by decide, rfl, rfl, by decide, dispatched_of rfl rfl, by decide, by decide, by decide, by decide,
    by decide⟩

/-- A slice of another context's, a free segment of the partition, a region whose zeroing completes, one in use, one whose
power change is due and one that powers on. -/
theorem wit_AllotmentAndZeroing :
    let c := cmdOf []
    let o := { bFor c 0x3A with st := { allot := [(0, 5)] } }
    let z := ({ ({} : Body) with st := { zeroing := [1779] } } : Body).setReady 1779 true
    let u : Body := { hm := { flights := [{ flOf c 0x30 with started := true, uses := [1599] }] } }
    let p : Body := { st := { powerPend := [0], powering := [1600] } }
    let n := { bFor c 0x3A with framing := frSet [] 0x040 0 0x3FF }
    Dispatched o c 0x3A (flOf c 0x3A) ∧ o.allotOf 0 ≠ 0 ∧ o.allotOf 0 ≠ 1 ∧ Dispatched n c 0x3A (flOf c 0x3A) ∧
    regionQuay 1779 ∈ n.quaysOfSlot 0 ∧ n.allotOf 1779 = 0 ∧
    (∀ r : Nat, n.inUse r = false) ∧ SMap.rising none n.st.allot = true ∧
    1779 ∈ z.st.zeroing ∧ z.regionReady 1779 = true ∧ z.st.zeroWait = [] ∧ u.inUse 1599 = true ∧
    p.inUse 0 = false ∧ 0 ∈ p.st.powerPend ∧ 1600 ∈ p.st.powering ∧ 1600 ∉ p.st.zeroing ∧ 0 ∉ p.st.powering :=
  ⟨dispatched_of rfl rfl, by decide, by decide, dispatched_of rfl rfl, by decide, by decide, fun _ => rfl, by decide, by decide,
    by decide, by decide, by decide, by decide, by decide, by decide, by decide, by decide⟩

/-- A GW_OPEN of a Shed's buffer as Gangway 63, a GW_CLOSE of it closed, and one of it open. -/
theorem wit_GangwaysOpenAndClose :
    let c := cmdOf [BitVec.ofNat 64 (h5 * 2 ^ 38 + 63 * 2 ^ 32), 0, 0, 1]
    let b := bWith c 0x3C { place := 1, size := 32 }
    let o := { bFor c 0x3D with st := { gws := [(63, { opened := true })] } }
    Dispatched b c 0x3C (flOf c 0x3C) ∧ b.resolve 0 (c.h 1) = some { place := 1, size := 32, valid := true } ∧
    b.gwPick c = some 63 ∧ c.f 4 31 0 ≠ 0 ∧ Dispatched (bFor c 0x3D) c 0x3D (flOf c 0x3D) ∧
    ((bFor c 0x3D).gw (c.f 1 37 32)).opened = false ∧ Dispatched o c 0x3D (flOf c 0x3D) ∧
    (o.gw (c.f 1 37 32)).opened = true ∧ (o.gw (c.f 1 37 32)).slot = 0 ∧ o.st.gwPend = [] ∧ o.st.gwWait = [] :=
  ⟨dispatched_of rfl rfl, by decide, by decide, by decide, dispatched_of rfl rfl, by decide, dispatched_of rfl rfl, by decide,
    by decide, rfl, rfl⟩

/-- A read of 8 bytes inside a window of 32, one that ends past it, and one under another key. -/
theorem wit_GangwayAccessIsChecked :
    let a : GwReq := { gw := 0, off := 24, key := 3, op := .read 8, who := .peer 9 35 }
    let w : Gangway := { opened := true, size := 32, key := 3, base := 0x400000000000, perm := 7, scope := 1, fails := 254 }
    let b := (({ st := { gws := [(0, w)] } } : Body).setReady 1600 true)
    b.gwCheck a = none ∧ b.gwCheck { a with off := 25 } = some 0x11 ∧ b.gwCheck { a with key := 4 } = some 0x13 ∧
    (b.gw 0).opened = true ∧ (b.gw 0).closing = false ∧ b.gwInScope (b.gw 0) a.who = true ∧
    gwPermits (b.gw 0) a.op = true ∧ (b.gw 0).fails < 255 := by decide

/-- One 8-byte row of a Shed filled, and copied to the next row. -/
theorem wit_DmaMovesItsBlock :
    let c := cmdOf [BitVec.ofNat 64 (h5 * 2 ^ 38), 0, BitVec.ofNat 64 (h5 * 2 ^ 38), 8, BitVec.ofNat 64 (2 ^ 32 + 8),
      BitVec.ofNat 64 (8 * 2 ^ 32), 0x0102030405060708]
    let e : Entry := { place := 1, base := 0x400000000000, size := 32, rd := true, wr := true, valid := true }
    let f := (bWith c 0x31 e).setReady 1600 true
    let g := (bWith c 0x30 e).setReady 1600 true
    let n := cmdOf []
    PlainMemory f ∧ Dispatched f c 0x31 (flOf c 0x31) ∧ f.resolve 0 (c.h 3) = some e ∧
    f.blockOk e (blockOf c).1 true = true ∧ (blockOf c).1.rowBytes ≤ (blockOf c).1.dstPitch ∧
    Dispatched g c 0x30 (flOf c 0x30) ∧ g.dmaArgs (flOf c 0x30) (c.h 1) (c.h 3) [(blockOf c).1] = .ok (e, e) ∧
    spansMeet (e.base + (blockOf c).1.src) (((blockOf c).1.rows - 1) * (blockOf c).1.srcPitch + (blockOf c).1.rowBytes)
      (e.base + (blockOf c).1.dst) (((blockOf c).1.rows - 1) * (blockOf c).1.dstPitch + (blockOf c).1.rowBytes) = false ∧
    Dispatched (bFor n 0x31) n 0x31 (flOf n 0x31) ∧ (bFor n 0x31).resolve 0 (n.h 3) = none ∧
    Dispatched (bFor n 0x30) n 0x30 (flOf n 0x30) ∧ (bFor n 0x30).resolve 0 (n.h 1) = none :=
  ⟨⟨rfl, rfl⟩, dispatched_of rfl rfl, by decide, by decide, by decide, dispatched_of rfl rfl, rfl, by decide,
    dispatched_of rfl rfl, by decide, dispatched_of rfl rfl, by decide⟩

theorem wit_SharesPartitionTheTiles : ([0, 3, 9] : List Nat) ≠ [] ∧ (shares [0, 3, 9] 10)[2]? = some (9, ⟨7, 7, 10⟩) := by decide

/-- Each command as the only one in flight, in a partition with no Quay: its checks fail. -/
theorem wit_TiledOperationsBegin :
    let c := cmdOf []
    let d := cmdOf [0, 0, 0, 0, 0, 0]
    (∀ o ∈ [0x40, 0x49, 0x42, 0x43, 0x44, 0x45], Dispatched (bFor c o) c o (flOf c o)) ∧ scarfMode d = 0 ∧
    (bFor c 0x40).mmStart (flOf c 0x40) (mmFields c) = .error (0x11, 0) ∧ (bFor c 0x49).vecStart (flOf c 0x49) = .error (0x11, 0) :=
  ⟨fun _ _ => dispatched_of rfl rfl, by decide, by rfl, by rfl⟩

/-- Operations: one that steals with a rich victim, one without, one that waits for a claim slot. -/
theorem wit_ClaimsStealsAndPhases :
    let o : TileOp := { fl := flOf (cmdOf []) 0x40, kind := 0, job := {}, quays := [0, 1], units := [], steal := true,
                        ranges := [(0, ⟨0, 5, 5⟩), (1, ⟨5, 5, 37⟩)], slots := [(0, 0)] }
    let p : TileOp := { o with ranges := [(0, ⟨0, 5, 5⟩), (1, ⟨5, 6, 37⟩)] }
    let w : TileOp := { o with slots := [] }
    let b (x : TileOp) : Body := { bFor (cmdOf []) 0x40 with ops := [x] }
    (b o).thiefOp 0 = some o ∧ (b o).victim o 0 = some (1, ⟨5, 5, 37⟩) ∧ (o.range 0).isSome = true ∧
    (b p).thiefOp 0 = some p ∧ (b p).victim p 0 = none ∧ (b w).opOf 7 = some w ∧ (b w).saving 0 = false ∧
    (b w).thiefOp 0 = none ∧ (b w).claimOp 0 = none ∧ (b o).opOf 8 = none ∧
    (∀ u ∈ ([] : List (List Nat)), (b w).raftReady u = true) ∧
    (b { w with slots := [], stopping := true }).opOf 7 = some { w with slots := [], stopping := true } := by decide

/-- An operation whose claim unit of one Berth has a tile to take. -/
theorem wit_claim :
    let o : TileOp := { fl := flOf (cmdOf []) 0x49, kind := 6, job := {}, quays := [0], units := [[0]],
                        ranges := [(0, ⟨0, 0, 1⟩)], slots := [(0, 0)] }
    let b : Body := ({ bFor (cmdOf []) 0x49 with ops := [o] } : Body).setPwr 0 1
    b.claimOp 0 = some o ∧ o.units.find? (fun u => decide (u.head? = some 0)) = some [0] ∧ o.range 0 = some ⟨0, 0, 1⟩ ∧
    b.unitFree o [0] = true ∧ b.pwr 0 < 2 ∧ b.raftReady [0] = true ∧ ({ b with ops := (List.range 7).map fun k => { o with slots := [(0, k)] } } : Body).freeSlot 0 = some 7 := by
  decide

/-- A CHAIN_SET, a WALK, and a WALK_COPY of one block of a Shed. -/
theorem wit_WalksAndChainSlots :
    let c := cmdOf [BitVec.ofNat 64 (h5 * 2 ^ 38), 0, BitVec.ofNat 64 (h5 * 2 ^ 38), 8, BitVec.ofNat 64 (2 ^ 32 + 8),
      BitVec.ofNat 64 (8 * 2 ^ 32), BitVec.ofNat 64 (2 ^ 32 + 2 ^ 16)]
    let e : Entry := { place := 1, base := 0x400000000000, size := 32, rd := true, wr := true, valid := true }
    let b := (bWith c 0x32 e).setReady 1600 true
    Dispatched (bFor c 0x48) c 0x48 (flOf c 0x48) ∧ Dispatched (bFor c 0x41) c 0x41 (flOf c 0x41) ∧
    Dispatched b c 0x32 (flOf c 0x32) ∧ b.dmaArgs (flOf c 0x32) (c.h 1) (c.h 3) [(blockOf c).1] = .ok (e, e) :=
  ⟨dispatched_of rfl rfl, dispatched_of rfl rfl, dispatched_of rfl rfl, rfl⟩

/-- An ADDI of x0 at the first place of a two-unit program, and a shift by 64. -/
theorem wit_CoreIntegerResults :
    let w : Word := BitVec.ofNat 64 (2 ^ 62 + 10 * 2 ^ 56 + 5)
    let sh : Word := BitVec.ofNat 64 (2 ^ 62 + 6 * 2 ^ 56 + 3 * 2 ^ 41)
    (dowelBody w).coreRun 0 63 w 1 (some 10) = some (flOf (cmdOf [1]) 0x4A) ∧ ((dowelBody w).dowel 0 63).pc + 8 < 64 ∧
    progBytes (flOf (cmdOf [1]) 0x4A) = 64 ∧ (dowelBody sh).coreRun 0 63 sh 1 (some 6) = some (flOf (cmdOf [1]) 0x4A) ∧
    ((dowelBody sh).dowel 0 63).xr (sh.fld 45 41) = 64 ∧ ((dowelBody sh).dowel 0 63).xr (w.fld 45 41) = 0 := by decide

/-- An XST to the Bench that the context owns, a JMP to the program's last place, and one past it. -/
theorem wit_CoreMemoryAndBranches :
    let w : Word := BitVec.ofNat 64 (2 * 2 ^ 62 + 3 * 2 ^ 56 + 2 ^ 37)
    let j : Word := BitVec.ofNat 64 (3 * 2 ^ 62 + 3 * 2 ^ 56 + 7)
    let k : Word := BitVec.ofNat 64 (3 * 2 ^ 62 + 3 * 2 ^ 56 + 8)
    let b := (dowelBody w).setF (.brJyStat 0) Fld.brJyStatBenchOwner 0
    PlainMemory b ∧ b.coreRun 0 63 w 2 (some 3) = some (flOf (cmdOf [1]) 0x4A) ∧
    b.getF (.brJyStat 0) Fld.brJyStatBenchOwner = 0 ∧ b.coreMem 0 63 (flOf (cmdOf [1]) 0x4A) w 8 true = .ok (benchBase 0) ∧
    (dowelBody j).coreRun 0 63 j 3 (some 3) = some (flOf (cmdOf [1]) 0x4A) ∧ (0 : Int) + 8 * coreImm j = 56 ∧
    (dowelBody k).coreRun 0 63 k 3 (some 3) = some (flOf (cmdOf [1]) 0x4A) ∧ (0 : Int) + 8 * coreImm k = 64 :=
  ⟨⟨rfl, rfl⟩, by decide, by decide, rfl, by decide, by decide, by decide, by decide⟩

/-- Each instruction at the first place of a program, Dowel 0 neither ended nor waiting; and END with every other Dowel ended. -/
theorem wit_CoreVectorAndControl :
    (∀ k ∈ [4, 5, 6, 7], (dowelBody (BitVec.ofNat 64 (3 * 2 ^ 62 + k * 2 ^ 56))).coreRun 0 63
      (BitVec.ofNat 64 (3 * 2 ^ 62 + k * 2 ^ 56)) 3 (some k) = some (flOf (cmdOf [1]) 0x4A)) ∧
    (dowelBody 0x0B00000000000000).coreRun 0 63 0x0B00000000000000 0 none = some (flOf (cmdOf [1]) 0x4A) ∧
    coreOp 0x0B00000000000000 = 0x0B ∧ min 4 (Word.fld 0x0B00000000000000 20 18) ≠ 4 ∧
    ((dowelBody 0).dowel 0 0).ended = false ∧ ((dowelBody 0).dowel 0 0).bar = false := by decide

/-- Every Dowel but the last has ended. -/
theorem wit_lastDowel :
    let w : Word := BitVec.ofNat 64 (3 * 2 ^ 62 + 5 * 2 ^ 56)
    let b := (dowelBody w).updBerth 0 fun x => { x with dowels := (List.range 63).map fun d => (d, { ended := true }) }
    (∀ e ∈ List.range 64, e ≠ 63 → (b.dowel 0 e).ended = true) ∧ (b.dowel 0 63).ended = false := by decide

/-- Each instruction at the first place of a two-unit program; the JLD of one element of an FP32 buffer; an empty JBENCH. -/
theorem wit_TileRegisterInstructions :
    (∀ o ∈ [0x28, 0x29, 0x2A, 0x2B, 0x2C, 0x2D], (tileBody2 o 0).tileRun 0 (tileWords2 o 0) o = some (flOf (cmdOf [1]) 0x4A)) ∧
    ((tileBody2 0x28 0).berth 0).pc + 32 < progBytes (flOf (cmdOf [1]) 0x4A) ∧
    (jBlock (tileWords2 0x28 0)).2.2.2 = false ∧
    laneCode (Word.fld ((tileWords2 0x2A 0).getD 0 0) 55 50) < 0x0C ∧
    (tileBody2 0x28 0).jMem (flOf (cmdOf [1]) 0x4A) 0 (tileWords2 0x28 0) false =
      .ok ⟨0x410000000000, 10, 0, false, none⟩ ∧
    (tileBody2 0x29 0).jMem (flOf (cmdOf [1]) 0x4A) 0 (tileWords2 0x29 0) true =
      .ok ⟨0x410000000000, 10, 0, false, none⟩ := by
  exact ⟨by decide, by decide, by decide, by decide, by rfl, by rfl⟩

/-- A Bench that the context owns, and the Hold buffer of a JBENCH. -/
theorem wit_jbench :
    let b := (tileBody2 0x2D 0).setF (.brJyStat 0) Fld.brJyStatBenchOwner 0
    PlainMemory b ∧ b.getF (.brJyStat 0) Fld.brJyStatBenchOwner = 0 ∧
    b.ownEntry 0 0 (Word.fld ((tileWords2 0x2D 0).getD 1 0) 63 38) false =
      .ok { place := 0, base := 0x410000000000, size := 64, rd := true, wr := true, valid := true, fmt := 10 } ∧
    b.accessOk { place := 0, base := 0x410000000000, size := 64, rd := true, wr := true, valid := true, fmt := 10 } 0 0 false = true :=
  ⟨⟨rfl, rfl⟩, by decide, by rfl, by decide⟩

/-- Each JCTL at the first place of a two-unit program, outside and inside loops; a drain pending. -/
theorem wit_TileControlAndRuns :
    (∀ k ∈ [0, 1, 2, 3], (tileBody2 0x2E (4 * k)).jctl 0 (tileWords2 0x2E (4 * k)) k = some (flOf (cmdOf [1]) 0x4A)) ∧
    ((tileBody2 0x2E 0).passBerths 0).all (tileBody2 0x2E 0).trussIdle = true ∧
    (((tileBody2 0x2E 0).updBerth 0 fun x => { x with due := some (drainOf 0) }).passBerths 0).all
      ((tileBody2 0x2E 0).updBerth 0 fun x => { x with due := some (drainOf 0) }).trussIdle = false ∧
    ((tileBody2 0x2E 0).berth 0).loops.length < 4 ∧
    (((tileBody2 0x2E 8).updBerth 0 fun x => { x with loops := [(0, 2)] }).berth 0).loops = [(0, 2)] ∧
    0 < (((tileBody2 0x2E 8).updBerth 0 fun x => { x with deep := 1 }).berth 0).deep := by decide

/-- A JY_RUN on Berth 0 in tile dialect, and one that names no Quay. -/
theorem wit_jyRun :
    let c := cmdOf [BitVec.ofNat 64 (h5 * 2 ^ 38), BitVec.ofNat 64 (2 ^ 28 + 2 ^ 8)]
    let e : Entry := { place := 1, base := 0x400000000000, size := 32, rd := true, valid := true }
    let b := (({ bWith c 0x4A e with framing := frSet [] 0x040 0 1 } : Body).setReady 1600 true).setPwr 0 1
    Dispatched b c 0x4A (flOf c 0x4A) ∧ b.takePart 0 (c.f 2 37 28) = some [0] ∧ berthsOf [0] (c.f 2 27 8) = [0] ∧
    b.tileDialect 0 = true ∧ b.pwr 0 < 2 ∧ (b.berth 0).run = none ∧
    b.accessHere 0 (c.h 1) (32 * c.f 1 37 18) (progBytes (flOf c 0x4A)) false = .ok e ∧
    c.f 3 31 0 / 32 * 32 < progBytes (flOf c 0x4A) ∧ (bFor (cmdOf []) 0x4A).takePart 0 ((cmdOf []).f 2 37 28) = none :=
  ⟨dispatched_of rfl rfl, by decide, by decide, by decide, by decide, by decide, by rfl, by decide, by decide⟩

/-- A swap, a load ready and one that must wait, one of the management context, and one that a free bank lets run. -/
theorem wit_JigBanks :
    let c := cmdOf [BitVec.ofNat 64 (h5 * 2 ^ 38), 2]
    let d := cmdOf [BitVec.ofNat 64 (h5 * 2 ^ 38), 0]
    let e : Entry := { place := 1, base := 0x400000000000, size := 0x20000, rd := true, valid := true }
    let b := (({ bWith d 0x4C e with framing := frSet [] 0x040 0 1 } : Body).setReady 1600 true)
    let w := { b with jigs := [flOf c 0x4C] }
    let m := { bFor d 0x4C with hm := { flights := [{ flOf d 0x4C with slot := 64 }] } }
    let l := { b with hm := { flights := [flOf d 0x4C, { flOf c 0x40 with bank := 1, uid := 3 }] } }
    Dispatched (bFor c 0x4C) c 0x4C (flOf c 0x4C) ∧ c.b 2 1 = true ∧ (bFor c 0x4C).partOfSlot 0 = some 0 ∧ c.b 2 1 = true ∧
    Dispatched b d 0x4C (flOf d 0x4C) ∧ d.b 2 1 = false ∧ b.jigReady 0 = true ∧
    b.accessHere 0 (d.h 1) (32 * d.f 1 37 18) 0x20000 false = .ok e ∧ Dispatched w d 0x4C (flOf d 0x4C) ∧ w.jigReady 0 = false ∧
    m.partOfSlot 64 = none ∧ m.stateHold { flOf d 0x4C with slot := 64 } = false ∧ l.latched 0 (1 - l.curBank 0) = true ∧
    w.latched 0 (1 - w.curBank 0) = false :=
  ⟨dispatched_of rfl rfl, by decide, by decide, by decide, dispatched_of rfl rfl, by decide, by decide, by rfl,
    dispatched_of rfl rfl, by decide, by decide, by decide, by decide, by decide⟩

/-- A pool of one slot in a Shed, created; the same destroyed, free and in use; a slot in quarantine. -/
theorem wit_CratePools :
    let c := cmdOf [0, BitVec.ofNat 64 (h5 * 2 ^ 38), BitVec.ofNat 64 (h5 * 2 ^ 38)]
    let d := cmdOf [256]
    let e : Entry := { place := 1, base := 0x400000000000, size := 65536, rd := true, wr := true, valid := true }
    let p : Pool := { slot := 0, handle := 0, base := 0x400000000000, n := 1, bitmap := 0x400000010000, place := 1 }
    let b := (bWith c 0x51 e).setReady 1600 true
    let x (v : Bool) := (({ bFor d 0x51 with crates := { pools := [(0, p)] }, bg := [(1600, 0)] } : Body).setMapBit 0x400000010000 0 v)
    let q : Body := { crates := { pools := [(255, { p with quar := [0] })] } }
    PlainMemory b ∧ Dispatched b c 0x51 (flOf c 0x51) ∧ c.b 1 8 = false ∧ b.pool 0 = none ∧
    b.resolve 0 (c.h 2) = some e ∧ b.accessOk e 0 e.size false = true ∧ bitmapFits e e (poolSlots e).2 = true ∧ (poolSlots e).2 = 1 ∧
    b.accessOk e 0 (ceilDiv (poolSlots e).2 8) true = true ∧ ((x false).pool 0).isSome = true ∧ d.b 1 8 = true ∧
    (x false).slotUsed p 0 = false ∧ (x true).slotUsed p 0 = true ∧ q.pool 255 = some { p with quar := [0] } :=
  ⟨⟨rfl, rfl⟩, dispatched_of rfl rfl, by decide, by decide, by decide, by decide, by decide, by decide, by decide, by decide,
    by decide, by decide, by decide, by decide⟩

/-- A map opened over a pool of a Shed, one that is open, one closed with KEEP and one that a command reads, and a PRIO of one
entry. -/
theorem wit_CrateMapsAndEntries :
    let c := cmdOf [0, BitVec.ofNat 64 (h5 * 2 ^ 38 + 1), 0xFFFFFF00]
    let d := cmdOf [BitVec.ofNat 64 (3 * 2 ^ 12)]
    let q := cmdOf [BitVec.ofNat 64 (2 * 2 ^ 44 + 15 * 2 ^ 46), BitVec.ofNat 64 (2 ^ 32)]
    let e : Entry := { place := 1, base := 0x400000000000, size := 65536, rd := true, wr := true, valid := true }
    let p : Pool := { slot := 0, handle := 0, base := 0x400000020000, n := 1, bitmap := 0x400000010000, place := 1 }
    let m := { (mapOf c 0).1 with table := e.base }
    let b := ({ bWith c 0x50 e with crates := { pools := [(0, p)] } } : Body).setReady 1600 true
    let o (x : Cmd) (n : Nat) : Body := { bFor x n with crates := { maps := [(0, m)] } }
    let u := { o d 0x50 with hm := { flights := [flOf d 0x50, { flOf q 0x53 with uid := 8 }] } }
    PlainMemory b ∧ Dispatched b c 0x50 (flOf c 0x50) ∧ c.b 1 12 = false ∧ c.b 1 14 = false ∧ b.crateMap 0 = none ∧
    b.poolsOk (mapOf c 0).1 = true ∧ b.access 0 (c.h 2) 0 m.bytes true = .ok e ∧ ((o c 0x50).crateMap 0).isSome = true ∧
    d.b 1 12 = true ∧ d.b 1 13 = true ∧ (o d 0x50).mapBusy 0 7 0 = false ∧ u.mapBusy 0 7 0 = true ∧
    Dispatched (o q 0x53) q 0x53 (flOf q 0x53) ∧ q.f 1 45 44 = 2 ∧ (o q 0x53).crateMap 0 = some m ∧ m.slot = 0 ∧
    ctlRange q m = (0, 1, 0, 1, 0) :=
  ⟨⟨rfl, rfl⟩, dispatched_of rfl rfl, by decide, by decide, by decide, by decide, by rfl, by decide, by decide, by decide, by decide,
    by decide, dispatched_of rfl rfl, by decide, by decide, by decide, by decide⟩

/-- Each command on an open map of its context, and on none. -/
theorem wit_CrateCommandsProceed :
    let c := cmdOf [BitVec.ofNat 64 (5 + 2 ^ 48), 0, 0, 0]
    let m : CrateMap := { slot := 0, fmt := 0, hd := 0, mask := false, prio := 0, flush := 0, nstream := 1, table := 0x400000000000,
                          maxlen := 1, pools := [0, 0xFFFF, 0xFFFF, 0xFFFF] }
    let p : Pool := { slot := 0, handle := 0, base := 0x400000020000, n := 2, bitmap := 0x400000010000, place := 1 }
    let b (o : Nat) : Body := { bFor c o with
      crates.maps := [(5, m)], crates.pools := [(0, p)],
      crates.moves := [{ map := 5, stream := 0, crate := 0, src := 0x400000020000, dst := 0x400000030000, pool := 0, uid := 7 }] }
    let r : Rebuild := { fl := flOf c 0x54, left := [], cur := some 9, items := [] }
    (∀ o ∈ [0x52, 0x53, 0x54], Dispatched (b o) c o (flOf c o)) ∧ (b 0x52).crateMap 5 = some m ∧
    2 * ((b 0x52).appendArgs c m).2.1 * ((b 0x52).appendArgs c m).2.2.1 * m.d * m.eb = 0 ∧ c.f 1 45 44 = 0 ∧
    (b 0x53).crates.moves ≠ [] ∧ (bFor c 0x53).crates.moves = [] ∧ (bFor c 0x52).crateMap 5 = none ∧ ((b 0x54).mapPool m 0).isSome = true ∧ (b 0x53).tiers.badSectors = [] ∧
    (b 0x53).flight 7 = some (flOf c 0x53) ∧ (b 0x53).pool 0 = some p ∧
    ({ bFor c 0x54 with crates := { rebuilds := [r] } } : Body).flight 7 = some (flOf c 0x54) ∧
    (∀ x ∈ (bFor c 0x54).hm.flights, x.uid ≠ 9) :=
  ⟨fun _ _ => dispatched_of rfl rfl, by decide, by rfl, by decide, by decide, rfl, by decide, by decide, rfl, by decide, by decide,
    by decide, by decide⟩

/-- Stream 0 opened over a reference store and a ring of Sheds, open already, reconfigured, closed with a frame queued and with
one in a pipe, and not open. -/
theorem wit_FerryStreamsOpenAndClose :
    let c (k : Nat) := cmdOf [BitVec.ofNat 64 (k * 256), 0x0001000100_0F000F, BitVec.ofNat 64 (h5 * 2 ^ 38), BitVec.ofNat 64 (h5 * 2 ^ 38)]
    let e : Entry := { place := 1, base := 0x400000000000, size := 0x200000, rd := true, wr := true, valid := true }
    let fx := (fyFixedOf (c 0)).1
    let lv := (fyLiveOf (c 0) fx.hevc fx.depth10).1
    let b := (bWith (c 0) 0x58 e).setReady 1600 true
    let x : FyStream := { slot := 0, fixed := fx, live := lv, queue := [{ flOf (c 0) 0x59 with uid := 8 }] }
    let o (k : Nat) : Body := { bFor (c k) 0x58 with ferry := { streams := [(0, x)] } }
    let p : Body := { o 1 with ferry := { streams := [(0, x)], pipes := List.replicate 8 { busy := true } } }
    PlainMemory b ∧ (∀ k ∈ [0, 1, 2], Dispatched (bFor (c k) 0x58) (c k) 0x58 (flOf (c k) 0x58)) ∧ (c 0).b 1 8 = false ∧ (c 0).b 1 9 = false ∧
    b.stream 0 = none ∧ b.egressOk 0 lv = true ∧ (b.fyEntry 0 fx.refH 0 (refSlots fx * frameBytes fx) true).toOption.isSome = true ∧
    (b.fyEntry 0 fx.ringH 0 96 true).toOption.isSome = true ∧ ((o 0).stream 0).isSome = true ∧ (c 2).b 1 8 = false ∧ (c 2).b 1 9 = true ∧
    (o 2).egressOk 0 (fyLiveOf (c 2) false false).1 = true ∧ (c 1).b 1 8 = true ∧ (o 1).inPipe 0 = false ∧ p.inPipe 0 = true ∧
    (bFor (c 1) 0x58).stream 0 = none :=
  ⟨⟨rfl, rfl⟩, fun _ _ => dispatched_of rfl rfl, by decide, by decide, by decide, by decide, by decide, by decide, by decide, by decide,
    by decide, by decide, by decide, by decide, by decide, by decide⟩

/-- An encoder and a decoder of the context, a FY_SOUND refused, and pipes with nothing, a FLUSH and a record to take. -/
theorem wit_FerryFramesQueue :
    let c (k : Nat) := cmdOf [BitVec.ofNat 64 k, BitVec.ofNat 64 (h5 * 2 ^ 38)]
    let e : Entry := { place := 1, base := 0x400000000000, size := 0x1000, rd := true, wr := true, valid := true }
    let fx (d : Bool) : FyFixed := { (fyFixedOf (cmdOf [])).1 with decode := d, refH := h5, ringH := h5 }
    let q := { flOf (c 512) 0x59 with started := true }
    let x (d : Bool) (l : List Flight) : FyStream := { slot := 0, fixed := fx d, live := (fyLiveOf (c 0) false false).1, queue := l }
    let b (o k : Nat) (d : Bool) : Body := ({ bWith (c k) o e with ferry := { streams := [(0, x d [])] } } : Body).setReady 1600 true
    let w : Body := { bWith (c 512) 0x59 e with hm := { flights := [q] }, ferry := { streams := [(0, x false [q])] } }
    let r : FyRec := ⟨0, 0, 0, 0, 0, 16, 16, 0, 0, [1]⟩
    let y : FyStream := { x false [] with egressOut := [96] }
    let p : Body := { b 0x59 0 false with ferry := { streams := [(0, y)], pipes := List.replicate 8 { busy := true, recs := [r] } }, bg := [(1600, 0)] }
    (∀ o ∈ [0x59, 0x5A, 0x5B], ∀ k ∈ [0, 256, 512], Dispatched (b o k false) (c k) o (flOf (c k) o)) ∧ (c 0).b 1 9 = false ∧
    (c 512).b 1 9 = true ∧ (c 256).b 1 8 = true ∧ (x false []).closing = none ∧
    ((b 0x59 0 false).fyEntry 0 ((c 0).h 2) 0 (picBytes (picShape (c 0) (fx false)).1 (picShape (c 0) (fx false)).2.1 16) false).toOption.isSome = true ∧
    ((b 0x5A 0 true).fyEntry 0 ((c 0).h 2) ((c 0).f 3 47 0) ((c 0).f 4 31 0) false).toOption.isSome = true ∧
    ((b 0x5B 0 false).soundStart (flOf (c 0) 0x5B)).toOption = none ∧ (p.pipe 0).busy = true ∧
    w.pipeWork 4 = [] ∧ bestWork (w.pipeWork 0) = some (0, 0, 7) ∧ (w.resolve 0 h5).isSome = true ∧ w.flight 7 = some q ∧
    (bFor (c 0) 0x59).resolve 0 h5 = none ∧ (w.pipe 0).recs = [] ∧ p.le e.base 8 = 0 ∧ p.le (e.base + 8) 8 = 0 ∧ r.len = 96 ∧
    (p.qp 0).unacked = [] ∧ 96 ≤ (0 + 2 * (e.size - 64) - 0 - 1) % (e.size - 64) :=
  ⟨fun _ _ _ _ => dispatched_of rfl rfl, by decide, by decide, by decide, rfl, by decide, by decide, by decide, by decide, by decide, by decide,
    by decide, by decide, by decide, by decide, by decide, by decide, by decide, by decide, by decide⟩

/-- A source in each state: a block of alternating runs is good, one of zeros has the longest run. -/
theorem wit_SwellHealthTests :
    let b (k : Nat) : Body := ({} : Body).setF (.rpSwellStat 1) Fld.rpSwellStatState k
    let g : Swell := { blocks := 4 }
    let y : Body := { b 2 with rnd := { swells := [{}, g] } }
    (b 0).rnd.swells.length = 2 ∧ (∀ k ∈ [0, 1, 2, 3], (b k).swellState 1 = k) ∧ ((b 1).swell 1).word = none ∧
    (y.swell 1).blocks = 4 ∧ y.swellState 1 = 2 :=
  ⟨by decide, by decide, by decide, by decide, by decide⟩
set_option maxRecDepth 20000 in
/-- Runs of four samples pass both tests. -/
theorem wit_SwellHealthTests_good :
    let x := (runs (BitVec.replicate 128 (0x0F : BitVec 8)) 1024 0 false 0 0).2.2
    x < 41 ∧ likeFirst (BitVec.replicate 128 (0x0F : BitVec 8)) < 800 :=
  ⟨by decide, by decide⟩
set_option maxRecDepth 20000 in
/-- A block of zeros fails both. -/
theorem wit_SwellHealthTests_bad : 41 ≤ (runs 0 1024 0 false 0 0).2.2 ∧ 800 ≤ likeFirst 0 := ⟨by decide, by decide⟩

/-- A Ripple with and without a seed; an RP_MIX with and without a word, SAMPLER set; a command that waits while both sources are
FAILED. -/
theorem wit_RipplesReseedAndMix :
    let c := cmdOf [0, 1]
    let p : Ripple := { seed := some 1, due := true }
    let b : Body := { bFor c 0x5C with rnd := { ripples := [(801, p)], swells := [{}, { word := some 3 }], waits := [7] } }
    let f := (b.setF (.rpSwellStat 0) Fld.rpSwellStatState 3).setF (.rpSwellStat 1) Fld.rpSwellStatState 3
    b.ripple 801 = p ∧ (b.ripple 800).seed = none ∧ b.rnd.mixes = [] ∧ Dispatched b c 0x5C (flOf c 0x5C) ∧ b.sourceFor 1 = 1 ∧
    (b.swell 1).word = some 3 ∧ ((bFor c 0x5C).swell 1).word = none ∧ b.quaysOfSlot 0 = [] ∧ c.b 2 0 = true ∧ [800, 801].Nodup ∧
    b.noEntropy = false ∧ f.noEntropy = true ∧
    f.hm.flights.find? (fun x => decide (x.cmd.wq = 0 ∧ x.cmd.tag = 9 ∧ x.uid ∈ f.rnd.waits)) = some (flOf c 0x5C) :=
  ⟨by decide, by decide, by decide, dispatched_of rfl rfl, by decide, by decide, by decide, by decide, by decide, by decide, by decide,
    by decide, by decide⟩

/-- One greedy row of FP32 logits in a Shed; a draw with both sources FAILED; logits of another format, and none. -/
theorem wit_SampleWritesItsRows :
    let c (k : Nat) := cmdOf [BitVec.ofNat 64 (h5 * 2 ^ 38), BitVec.ofNat 64 (h5 * 2 ^ 38), 0, BitVec.ofNat 64 k]
    let e (f : Nat) : Entry := { place := 1, base := 0x400000000000, size := 32, rd := true, wr := true, fmt := f, valid := true }
    let b (k f : Nat) := (bWith (c k) 0x5D (e f)).setReady 1600 true
    let w := ((b 0x3F800000 10).setF (.rpSwellStat 0) Fld.rpSwellStatState 3).setF (.rpSwellStat 1) Fld.rpSwellStatState 3
    Dispatched (b 0 10) (c 0) 0x5D (flOf (c 0) 0x5D) ∧ (b 0 10).access 0 ((c 0).h 1) 0 4 false = .ok (e 10) ∧
    ((b 0 10).resolve 0 ((c 0).h 1)).map (fun e => elemBits e.fmt / 8) = some 4 ∧
    (b 0 10).access 0 ((c 0).h 2) 0 16 true = .ok (e 10) ∧ (c 0).h 6 = 0 ∧ (c 0).f 4 31 0 = 0 ∧ PlainMemory (b 0 10) ∧
    ((w.sampleRows (flOf (c 0x3F800000) 0x5D) (e 10) (e 10) none 1 0 false).2.1 = some 0) ∧ (b 0 0).access 0 ((c 0).h 1) 0 1 false = .ok (e 0) ∧
    (bFor (c 0) 0x5D).access 0 ((c 0).h 1) 0 0 false = .error 0x12 :=
  ⟨dispatched_of rfl rfl, by rfl, by decide, by rfl, by decide, by decide, ⟨rfl, rfl⟩, by decide, by rfl, by rfl⟩

/-- Queue 63 of the management context with a NOP rung, privileged and not; no queue rung; commands ended with and without a
record to write, their ring with room and without. -/
theorem wit_DispatchAndCompletion :
    let r (x : Bool) : Body := ((({ boot := { phase := .run } } : Body).setLe (wqBase 63) 8 (1 + 0xFFFE * 65536)).setF (.hmWqPtr 63)
      Fld.hmWqPtrTail 1).setF (.hmWqCfg 63) Fld.hmWqCfgCtx (if x then 0xFFFE else 5)
    let c := cmdOf []
    let e (v : Bool) : Ended := ⟨flOf { c with cpl := v } 0, 0, 0, false⟩
    let b (v : Bool) : Body := { hm := { ended := [e v] } }
    let q (v : Bool) : Body := ({ b v with eth := { cqs := [(0, { qp := some 3 })] } } : Body).setF (.epQpStat 3) Fld.epQpStatState 1
    let h (x : Bool) := ((r x).headOf 63).getD ⟨0, c, 0, none⟩
    ((r true).headOf 63).isSome = true ∧ (h true).back = none ∧ (h true).opc = 0 ∧ (r true).headAllowed 63 (h true) = true ∧
    (r true).headReady 63 (h true) false = some 64 ∧ ((r false).headOf 63).isSome = true ∧ (r false).headAllowed 63 (h false) = false ∧
    ({ r true with hm := { (r true).hm with ended := List.replicate 64 { e true with fl := flOf { c with wq := 63 } 0x40 } } } : Body).headReady 63 (h true) false = none ∧
    (r true).boot.phase = .run ∧ (r true).hm.skips = [] ∧ (∀ m : Fin 64, m ≠ 63 → (r true).headOf m = none) ∧
    (b true).cqRoom 0 = false ∧ (q true).cqRoom 0 = true ∧ (q true).flag (.hmCplOvf 0) Fld.hmCplOvfSummary = false ∧
    ((q true).setF (.hmCplOvf 0) Fld.hmCplOvfSummary 1).flag (.hmCplOvf 0) Fld.hmCplOvfSummary = true ∧ (b true).saving 0 = false :=
  ⟨by decide, by decide, by decide, by decide, by decide, by decide, by decide, by decide, by decide, by decide, by decide, by decide, by decide,
    by decide, by decide, by decide⟩

/-- Each command dispatched; a wait that the first value written meets; register 255, and a buffer of a Shed. -/
theorem wit_ScalarRegisterCommands :
    let c (k : Nat) := cmdOf [BitVec.ofNat 64 (h5 * 2 ^ 38 + k + 255), 1, 0]
    let w := cmdOf [255, 1]
    let e : Entry := { place := 1, base := 0x400000000000, size := 32, rd := true, wr := true, valid := true }
    let b (o k : Nat) := (bWith (c k) o e).setReady 1600 true
    let t : Body := { bFor (c 0) 8 with hm := { (bFor (c 0) 8).hm with waits := [({ flOf w 0x0A with uid := 8 }, 5)] } }
    (∀ o ∈ [0, 1, 8, 9, 0xA, 0xB], ∀ k ∈ [0, 0x20000], Dispatched (b o k) (c k) o (flOf (c k) o)) ∧ (c 0).f 1 7 0 = 255 ∧
    (b 8 0).hm.waits = [] ∧ waitHolds (w.f 1 10 8) ((c 0).w 2) (w.w 2) = true ∧ waitHolds ((c 0).f 1 10 8) 0 ((c 0).w 2) = false ∧
    waitHolds ((c 0).f 1 10 8) 1 ((c 0).w 2) = true ∧ t.hm.waits ≠ [] ∧ (c 0).f 1 10 8 = 0 ∧
    (b 0xB 0).accessHere 0 ((c 0).h 1) 0 8 true = .ok e ∧ (b 0xB 0x20000).accessHere 0 ((c 0x20000).h 1) 0 8 false = .ok e ∧
    (c 0).b 1 17 = false ∧ (c 0x20000).b 1 17 = true ∧ PlainMemory (b 0xB 0) ∧
    (bFor (c 0) 0xB).accessHere 0 ((c 0).h 1) 0 8 true = .error 0x12 :=
  ⟨fun _ _ _ _ => dispatched_of rfl rfl, by decide, by decide, by decide, by decide, by decide, by decide, by decide, by rfl, by rfl,
    by decide, by decide, ⟨rfl, rfl⟩, by rfl⟩

/-- A context opened into slot 0 with a save area in Tier H, and one resident there to be closed, reset or opened again. -/
theorem wit_ContextsOpenAndClose :
    let c := cmdOf [5, 1, 0x1000]
    let b (o : Nat) : Body := ({ bFor c o with framing := frSet [] 0x040 0 (2 ^ 4) } : Body).setF .mtCfg Fld.mtCfgHChannels 32
    let r (o : Nat) : Body := ((b o).setF (.hmCtxStat 0) Fld.hmCtxStatCtx 5).setF (.hmCtxStat 0) Fld.hmCtxStatState 0
    (∀ o ∈ [0x10, 0x11, 0x12, 0x13, 0x14, 0x15, 0x17], Dispatched (b o) c o (flOf c o) ∧ Dispatched (r o) c o (flOf c o)) ∧
    (b 0x10).freeCtxSlot = some 0 ∧ (b 0x10).slotOf 5 = none ∧ (b 0x10).partUp 0 = true ∧ (b 0x10).saveOk 0x1000 = true ∧
    ((b 0x10).setF (.hmWqCfg 0) Fld.hmWqCfgCtx 0xFFFF).queueTaken 1 = false ∧ ((b 0x10).setF (.hmWqCfg 0) Fld.hmWqCfgCtx 4).queueTaken 1 = true ∧
    (r 0x11).slotOf 5 = some 0 ∧ (r 0x11).allotted 0 = [] ∧ ((r 0x11).info 0).closing = false :=
  ⟨fun _ _ => ⟨dispatched_of rfl rfl, dispatched_of rfl rfl⟩, by decide, by decide, by decide, by decide, by decide, by decide, by decide,
    by decide, by decide⟩

/-- Context 5 of slot 0 runnable, saving and halted, with a command at work, none, or one saved. -/
theorem wit_ContextsHaltAndMove :
    let c := cmdOf [5, 1, 0x1000]
    let b (o k : Nat) : Body := (({ bFor c o with hm := { flights := [{ flOf c o with slot := 64 }] } } : Body).setF (.hmCtxStat 0)
      Fld.hmCtxStatCtx 5).setF (.hmCtxStat 0) Fld.hmCtxStatState k
    let w : Body := { b 0x13 0 with hm := { flights := [{ flOf c 0x13 with slot := 64 }, { flOf c 0x40 with uid := 8 }] } }
    let v (k : Nat) : Body := ((bFor c 0x40).setF (.hmCtxStat 0) Fld.hmCtxStatCtx 5).setF (.hmCtxStat 0) Fld.hmCtxStatState k
    let a : Body := ({ bFor c 0x16 with framing := frSet [] 0x040 0 (2 ^ 4) } : Body).setF .mtCfg Fld.mtCfgHChannels 32
    (∀ o ∈ [0x13, 0x14, 0x15], ∀ k ∈ [0, 1, 2], Dispatched (b o k) c o { flOf c o with slot := 64 }) ∧ (∀ k ∈ [0, 1, 2], (b 0x13 k).slotOf 5 = some 0) ∧
    ((b 0x13 0).info 0).closing = false ∧ (∀ k ∈ [0, 1, 2], (b 0x14 k).getF (.hmCtxStat 0) Fld.hmCtxStatState = k) ∧ c.b 1 16 = false ∧
    (∀ f ∈ (b 0x13 0).hm.flights, f.slot ≠ 0) ∧ (∃ f ∈ w.hm.flights, f.slot = 0) ∧ (b 0x15 1).evictRefused 0 = false ∧
    ({ b 0x15 1 with ferry := { streams := [(0, { slot := 0, fixed := (fyFixedOf c).1, live := (fyLiveOf c false false).1 })] } } : Body).evictRefused 0 = true ∧
    (v 0).flight 9 = none ∧ (v 0).flight 7 = some (flOf c 0x40) ∧ (v 0).saving 0 = false ∧ (v 2).saving 0 = true ∧ (v 2).atPoint (flOf c 0x40) = true ∧
    Dispatched a c 0x16 (flOf c 0x16) ∧ a.partUp 0 = true ∧ a.saveOk 0x1000 = true ∧ (bFor c 0x16).partUp 0 = false ∧
    a.freeCtxSlot = some 0 :=
  ⟨fun _ _ _ _ => dispatched_by rfl rfl rfl rfl rfl rfl, by decide, by decide, by decide, by decide, by decide, by decide, by decide, by decide, by decide, by decide,
    by decide, by decide, by decide, dispatched_of rfl rfl, by decide, by decide, by decide, by decide⟩
/-- A body with a zeroed image at 0x1000, its partition every Quay. -/
def admit0 : Body :=
  ({ bFor (cmdOf [5, 1, 0x1000]) 0x16 with framing := frSet [] 0x040 0 (1023), bg := [(1780, 0)] } : Body).setF .mtCfg Fld.mtCfgHChannels 32

/-- The same with the image's digest in its place. -/
def admit1 : Body := admit0.setBytes (0x1000 + 16) (digestBytes (admit0.imageHash 0x1000))

theorem length_digestBytes (d : BitVec 384) : (digestBytes d).length = 48 := by simp [digestBytes]

theorem admit1_ne (a : Nat) (h : a < 0x1010 ∨ 0x1040 ≤ a) : admit1.byte a = admit0.byte a := by
  unfold admit1
  exact Body.byte_setBytes_ne _ _ _ _ (by rw [length_digestBytes]; omega)

theorem bytes_eq {b c : Body} (n : Nat) : ∀ a, (∀ x, a ≤ x → x < a + n → b.byte x = c.byte x) → b.bytes a n = c.bytes a n := by
  induction n with
  | zero => intro _ _; rfl
  | succ n ih =>
    intro a h
    rw [Body.bytes, Body.bytes, h a (by omega) (by omega), ih (a + 1) fun x h1 h2 => h x (by omega) (by omega)]

theorem admit1_le (a n : Nat) (h : a + n ≤ 0x1010) : admit1.le a n = admit0.le a n := by
  unfold Body.le
  rw [bytes_eq n a fun x _ h2 => admit1_ne x (by omega)]

/-- The digest of the image is the one it holds. -/
theorem wit_ContextsHaltAndMove_admit :
    admit1.bytes (0x1000 + 16) 48 = digestBytes (admit1.imageHash 0x1000) ∧ admit1.le 0x1000 2 = 0 ∧ admit1.le 0x1004 1 = 0 ∧
    admit1.le 0x1006 2 = 0 ∧ admit0.partUp 0 = true ∧ admit0.saveOk 0x1000 = true ∧ admit0.freeCtxSlot = some 0 ∧
    admit0.slotOf 0 = none ∧ (admit0.dialectOf 0).1 = 0 ∧ (quaysOf admit0.framing 0).length = 10 := by
  have h : admit1.imageHash 0x1000 = admit0.imageHash 0x1000 := by
    unfold Body.imageHash
    rw [bytes_eq _ _ fun x h1 _ => admit1_ne x (by omega)]
  refine ⟨?_, ?_, ?_, ?_, by decide, by decide, by decide, by decide, by decide, by decide⟩
  · rw [h]
    have := Body.bytes_setBytes admit0 (0x1000 + 16) (digestBytes (admit0.imageHash 0x1000))
    rw [length_digestBytes] at this
    exact this
  · rw [admit1_le _ _ (by omega)]; decide
  · rw [admit1_le _ _ (by omega)]; decide
  · rw [admit1_le _ _ (by omega)]; decide

set_option maxRecDepth 20000 in
/-- Batch slot 255 of a context of a one-Quay partition, EMPTY and ACTIVE; a STEP with a list in a Shed, with a sequence to take and
with none; a context of a partition of ten Quays. -/
theorem wit_BatchStepsAdmit :
    let c (k : Nat) := cmdOf [BitVec.ofNat 64 (h5 * 2 ^ 38 + k * 256 + 255), 0x10000 * 4 + 1, 0x10100]
    let e : Entry := { place := 1, base := 0x400000000000, size := 32, rd := true, wr := true, valid := true }
    let g (o k m : Nat) : Body := ({ bWith (c k) o e with framing := frSet [] 0x040 0 m } : Body).setReady 1600 true
    let a (o k : Nat) : Body := { g o k 1 with hm := { (g o k 1).hm with batch := [(255, { seq := 3, state := 2, tokens := 2 })] } }
    (∀ o ∈ [0x18, 0x19], ∀ k ∈ [0, 1, 2, 3], Dispatched (g o k 1) (c k) o (flOf (c k) o) ∧ Dispatched (a o k) (c k) o (flOf (c k) o)) ∧
    (∀ k ∈ [0, 1, 2, 3], (c k).f 1 9 8 = k ∧ (c k).f 1 7 0 = 255) ∧ (g 0x18 0 1).partOfSlot 0 = some 0 ∧ (g 0x18 0 1).batchPart 0 = true ∧
    (g 0x18 0 1023).batchPart 0 = false ∧ ((g 0x18 0 1).batchSlot 0 255).state = 0 ∧ ((a 0x18 0).batchSlot 0 255).state = 2 ∧
    PlainMemory (a 0x19 0) ∧ (a 0x19 0).accessHere 0 ((c 0).h 1) 0 16 true = .ok e ∧
    (admission 1 4 ((List.range 256).map fun j => (a 0x19 0).batchSlot 0 j)).2.1 = [255] ∧
    (admission 1 4 ((List.range 256).map fun j => (g 0x19 0 1).batchSlot 0 j)).2.1 = [] :=
  ⟨fun _ _ _ _ => ⟨dispatched_of rfl rfl, dispatched_of rfl rfl⟩, by decide, by decide, by decide, by decide, by decide, by decide, ⟨rfl, rfl⟩,
    by rfl, by decide, by decide⟩

/-- Writes to each row of queue 63's window by QP 511, that match it and not, its queue bound and not, and with the module away; a ring
whose count is new. -/
theorem wit_QueueWindowsTakeWrites :
    let w (o n : Nat) : WinWrite := { qp := 511, va := 0x7F1000000000 + 63 * 0x100000 + o, rkey := 4, data := List.replicate n 0 }
    let q : Qp := { wqKey := 4, wqMask := 2 ^ 63 }
    let a (k x : Nat) : Body := ((({ boot := { phase := .run }, eth := { qps := [(511, { q with wqKey := k })], cqs := [(63, { qp := some 511, pi := 1 })] } } :
      Body).setF (.epQpStat 511) Fld.epQpStatState 1).setF (.epQpStat 511) Fld.epQpStatCtx x).setF (.hmWqCfg 63) Fld.hmWqCfgCtx x
    windowOf (w 0x3FFFF 1).va = some (63, 0x3FFFF) ∧ windowRow 0x3FFFF 1 = some 0 ∧ windowRow 0x40000 8 = some 1 ∧ windowRow 0x40008 8 = some 2 ∧
    (a 4 5).netUp = true ∧ (a 4 5).qpReady 511 = true ∧ (a 4 5).windowOk (w 0 1) 63 = true ∧ (a 4 0xFFFF).windowOk (w 0x40000 8) 63 = true ∧
    (a 3 5).windowOk (w 0 1) 63 = false ∧ ({} : Body).netUp = false ∧ ((a 4 5).cq 63).pi ≠ ((a 4 5).cq 63).piSent ∧
    ((a 4 5).cq 62).qp = none ∧ (a 4 5).getF (.hmWqCfg 63) Fld.hmWqCfgCtx ≠ 0xFFFF :=
  ⟨by decide, by decide, by decide, by decide, by decide, by decide, by decide, by decide, by decide, by decide, by decide, by decide, by decide⟩

/-- Sub-port 0 in 800G mode; pair 511 free, working and in ERROR, each operation of QP_CTL, its queue its context's and not. -/
theorem wit_QueuePairsAndRings :
    let c (k : Nat) := cmdOf [BitVec.ofNat 64 (k * 512 + 511), 1]
    let m := cmdOf [BitVec.ofNat 64 (511 * 256)]
    let b (o k : Nat) : Body := (bFor (c k) o).setF (.epPortCfg 0) Fld.epPortCfgMode 1
    let q (k x : Nat) : Body := (b 0x7A k).setF (.epQpStat 511) Fld.epQpStatState x
    let r (x : Nat) : Body := { bFor m 0x7B with eth := { qps := [(511, { wqMask := x })] } }
    (∀ o ∈ [0x78, 0x79, 0x7A], ∀ k ∈ [0, 1, 2, 3], Dispatched (b o k) (c k) o (flOf (c k) o)) ∧ (b 0x79 0).portRate 0 = 800000 ∧
    (b 0x79 0).qpExists 511 = false ∧ ((b 0x79 0).setF (.hmWqCfg 0) Fld.hmWqCfgCtx 0).getF (.hmWqCfg 0) Fld.hmWqCfgCtx = (c 0).f 1 31 16 ∧
    (b 0x79 0).getF (.hmWqCfg 0) Fld.hmWqCfgCtx ≠ (c 0).f 1 31 16 ∧ (qpOf (c 0)).wqMask = 1 ∧ (qpOf (c 0)).mgmt = false ∧
    (∀ k ∈ [0, 1, 2, 3], (c k).f 1 10 9 = k ∧ (c k).f 1 8 0 = 511) ∧ (q 1 2).getF (.epQpStat 511) Fld.epQpStatState = 2 ∧
    (q 1 1).qpReady 511 = true ∧ (q 0 1).qpExists 511 = true ∧ Dispatched (r 0) m 0x7B (flOf m 0x7B) ∧ ((r 0).qp 511).wqMask.testBit 0 = false ∧
    ((r 1).qp 511).wqMask.testBit 0 = true ∧ m.f 1 17 8 = 511 :=
  ⟨fun _ _ _ _ => dispatched_of rfl rfl, by decide, by decide, by decide, by decide, by decide, by decide, by decide, by decide, by decide, by decide,
    dispatched_of rfl rfl, by decide, by decide, by decide⟩

/-- Pair 511 working, in RUN and in ANCHOR; addresses in the last aperture, in a window and in neither; an access refused and one that
passes. -/
theorem wit_HostRequestsAreAnswered :
    let b (p : Phase) : Body := ({ boot := { phase := p } } : Body).setF (.epQpStat 511) Fld.epQpStatState 1
    let va := 0x600000000000 + 63 * 2 ^ 38
    let w : Gangway := { opened := true, size := 64, key := 4, scope := 3, ctx := 0, base := 0x400000000000, place := 1, perm := 1 }
    let g : Body := (({ b .run with st := { gws := [(63, w)] } } : Body).setReady 1600 true).setF (.epQpStat 511) Fld.epQpStatCtx 0
    let a : GwReq := { gw := 63, off := 0, key := 4, op := .read 0, who := .host 511 }
    (b .run).netUp = true ∧ (b .anchor).netUp = true ∧ (b .run).qpReady 511 = true ∧ (b .off).netUp = false ∧ windowOf va = none ∧
    apertureOf va = some (63, 0) ∧ apertureOf 0 = none ∧ windowOf 0 = none ∧ ((b .run).gwAccess a).1 ≠ 0 ∧ (g.gwAccess a).1 = 0 :=
  ⟨by decide, by decide, by decide, by decide, by decide, by decide, by decide, by decide, by decide, by decide⟩

/-- Pair 511 down, and working with a message sent, tries left and none. -/
theorem wit_RoceAcksAndRates :
    let m : Msg := { port := .subport 0, kind := .rdmaWrite, nums := [511, 0] }
    let b (x : Nat) : Body := ({ eth := { qps := [(511, { retry := x, unacked := [m] })] } } : Body).setF (.epQpStat 511) Fld.epQpStatState 1
    ({} : Body).qpReady 511 = false ∧ (b 0).qpReady 511 = true ∧ ((b 0).qp 511).unacked = [m] ∧ ((b 0).qp 511).retry ≤ ((b 0).qp 511).tries ∧
    ((b 1).qp 511).tries < ((b 1).qp 511).retry ∧ ((b 0).qp 510).unacked = [] ∧
    ({ b 0 with tele := { push := { acked := true } } } : Body).tele.push.acked = true :=
  ⟨by decide, by decide, by decide, by decide, by decide, by decide, rfl⟩

/-- Sub-port 7 with an address, a tag it takes and one it does not; a pause held; PTP on the framed port; PPS in mode 2. -/
theorem wit_PortsAnswerAndKeepTime :
    let b : Body := { boot := { phase := .run }, eth := { ports := [(7, { ipv4 := 9, ipv6 := 9, paused := some 0 })] } }
    let e := (b.setF (.epPortCfg 7) Fld.epPortCfgPfcEn 1).setF (.epPortCfg 7) Fld.epPortCfgMode 2
    b.netUp = true ∧ ({} : Body).netUp = false ∧ b.addrsOf 7 none = (9, 9) ∧ tagOk 7 none = true ∧ tagOk 7 (some 1) = false ∧
    e.flag (.epPortCfg 7) Fld.epPortCfgPfcEn = true ∧ e.getF (.epPortCfg 7) Fld.epPortCfgPfcPrio = 0 ∧ b.flag (.epPortCfg 7) Fld.epPortCfgPfcEn = false ∧
    (b.port 7).paused ≠ none ∧ (b.port 7).stormed = false ∧ (b.port 6).paused = none ∧ e.portRate 7 ≠ 0 ∧ b.portRate 7 = 0 ∧
    frGet b.framing 0x00D < 8 ∧ (b.setF .epPtpCfg Fld.epPtpCfgPpsMode 2).getF .epPtpCfg Fld.epPtpCfgPpsMode = 2 ∧ b.eth.ppsCount = 0 ∧
    b.getF .epPtpCfg Fld.epPtpCfgPpsMode = 0 :=
  ⟨by decide, by decide, by decide, by decide, by decide, by decide, by decide, by decide, by decide, by decide, by decide, by decide, by decide,
    by decide, by decide, by decide, by decide⟩

/-- Sluice 10 and a partition not defined; an INT32 reduction in Tier H and none; channel 639 of a stack, with 17 channels left, with
16, and fused. -/
theorem wit_TierCommands :
    let c (k : Nat) := cmdOf [BitVec.ofNat 64 (h5 * 2 ^ 38 + k), 0, BitVec.ofNat 64 (h5 * 2 ^ 38 + 16384), 4, 1, 0, 12]
    let r := cmdOf [BitVec.ofNat 64 (h5 * 2 ^ 38), 0, BitVec.ofNat 64 (h5 * 2 ^ 38), 64, BitVec.ofNat 64 (4 + 2 ^ 32), BitVec.ofNat 64 (4 + 4 * 2 ^ 32), 12]
    let e (p b : Nat) : Entry := { place := p, base := b, size := 32768, rd := true, wr := true, valid := true }
    let h : Body := (bWith r 0x70 (e 2 0)).setF .mtCfg Fld.mtCfgHChannels 32
    let m (x : Nat) : Body := ((bFor (c 0x27F) 0x72).setF (.mtHbmMapout 19) Fld.mtHbmMapoutActiveOut x)
    Dispatched (bFor (c 10) 0x71) (c 10) 0x71 (flOf (c 10) 0x71) ∧ min 10 ((c 10).f 1 3 0) = 10 ∧ partDefined [] 0 = false ∧
    Dispatched h r 0x70 (flOf r 0x70) ∧ PlainMemory h ∧ (h.dmaArgs (flOf r 0x70) (r.h 1) (r.h 3) [(blockOf r).1]).toOption.isSome = true ∧
    (blockOf r).1.rowBytes = 4 ∧ (blockOf r).1.dstPitch = 4 ∧ spansMeet 0 4 64 4 = false ∧ (bFor r 0x70).resolve 0 (r.h 1) = none ∧
    Dispatched (m 0) (c 0x27F) 0x72 (flOf (c 0x27F) 0x72) ∧ (((m 0).liveChannels 19).filter fun x => decide (x ≠ 31)).length = 31 ∧
    (((m 0x1FFFF).liveChannels 19).filter fun x => decide (x ≠ 31)).length < 16 ∧ ((m 0).reg (.mtHbmMapout 19)).bit 31 = false ∧
    (((m 0).setF (.mtHbmMapout 19) Fld.mtHbmMapoutFused (2 ^ 31)).reg (.mtHbmMapout 19)).bit 31 = true :=
  ⟨dispatched_of rfl rfl, by decide, by decide, dispatched_of rfl rfl, ⟨rfl, rfl⟩, by decide, by decide, by decide, by decide, by decide,
    dispatched_of rfl rfl, by decide, by decide, by decide, by decide⟩

/-- A module with Tier H and one without; a mapped unit of Tier F; a channel with a block erased 201 times, and fewer than 64 blocks free. -/
theorem wit_TiersKeepThemselves :
    let b : Body := ({ tiers := { mapped := [(3, 1)], flash := [(63, { free := 63, erases := [(0, 201)] })] } } : Body).setF .mtCfg Fld.mtCfgHChannels 32
    b.scrubTotal 0 ≠ 0 ∧ ({} : Body).scrubTotal 1 = 0 ∧ b.tiers.scrubPos.length = 4 ∧ b.addrOk (b.scrubAddr 0 0) = true ∧
    SMap.get b.tiers.mapped 0 3 ≠ 0 ∧ SMap.get b.tiers.mapped 0 2 = 0 ∧ (b.flashChan 63).spread = (0, 201) ∧ (b.flashChan 62).spread = (0, 0) ∧
    (b.flashChan 63).free < 64 :=
  ⟨by decide, by decide, by decide, by decide, by decide, by decide, by decide, by decide, by decide⟩

/-- A unit of Tier F with a handle that may write it, one that may not, and a Shed. -/
theorem wit_TrimUnmapsWholeUnits :
    let d := cmdOf [BitVec.ofNat 64 (h5 * 2 ^ 38), 0, 16384]
    let e (p b : Nat) : Entry := { place := p, base := b, size := 32768, rd := true, wr := true, valid := true }
    let f (x : Entry) : Body := ({ bWith d 0x73 x with boot := { phase := .run }, bg := [(1782, 0)] } : Body)
    Dispatched (f (e 4 tierFBase)) d 0x73 (flOf d 0x73) ∧ (f (e 4 tierFBase)).resolve 0 (d.h 1) = some (e 4 tierFBase) ∧
    (f (e 1 0x400000000000)).resolve 0 (d.h 1) = some (e 1 0x400000000000) ∧
    (f { e 4 tierFBase with wr := false }).resolve 0 (d.h 1) = some { e 4 tierFBase with wr := false } ∧
    (f (e 4 tierFBase)).accessOk (e 4 tierFBase) (d.f 2 47 0) (d.f 3 47 0) true = true ∧ (f (e 4 tierFBase)).haze = [] ∧ (f (e 4 tierFBase)).bgOf 1782 = 0 ∧
    tierFBase + (d.f 2 47 0) + (d.f 3 47 0) ≤ 0x300000000000 :=
  ⟨dispatched_of rfl rfl, by rfl, by rfl, by rfl, by rfl, by rfl, by decide, by decide⟩

/-- Line 35 DOWN, and UP with two flits to acknowledge, none, and 31 taken since the last acknowledgement. -/
theorem wit_LinesCarryFlits :
    let u (x : LineInfo) : Body := ({ ln := { lines := [(35, x)] } } : Body).setF (.lnStat 35) Fld.lnStatState 2
    let f (n : Nat) : TxFlit := { vc := 7, seq := n, last := true, data := [] }
    let b := u { replay := [f 4095, f 0], rxSinceAck := 31 }
    ({} : Body).lineUp 35 = false ∧ b.lineUp 35 = true ∧ (b.line 35).rxSinceAck + 1 = 32 ∧ ((u {}).line 35).rxSinceAck + 1 < 32 ∧
    (b.line 35).txq.flatten = [] ∧ ((b.line 35).replay.findIdx? fun f => decide (f.seq = 4095)) = some 0 ∧
    ((b.line 35).replay.drop 1) ≠ [] ∧ (∀ f ∈ (b.line 35).replay, f.uid = none ∧ f.granule = none) ∧ ((u {}).line 35).replay = [] :=
  ⟨by decide, by decide, by decide, by decide, by decide, by decide, by decide, by decide, by decide⟩

/-- Line 35 UP with eight resends, UP at point 5 with none, RETRAINING and DOWN, with a role and OFF; lanes that train at one rate and
none; each operation of LN_CTL. -/
theorem wit_LinesTrain :
    let c (k : Nat) := cmdOf [BitVec.ofNat 64 (35 + k * 64 + 5 * 256)]
    let b (k : Nat) (x : LineInfo) : Body := (({ bFor (c 0) 0x60 with ln := { lines := [(35, x)] } } : Body).setF (.lnStat 35) Fld.lnStatState k).setF
      (.lnStat 35) Fld.lnStatPoint 5
    (b 2 { resends := 8 }).lineUp 35 = true ∧ (b 2 {}).lineUp 35 = true ∧ ((b 2 { resends := 8 }).line 35).resends = 8 ∧
    (b 3 {}).lineState 35 = 3 ∧ (b 0 {}).lineState 35 = 0 ∧ (pointsOf 0 8).find? (fun p => false || decide (5 ≤ p.1)) = some (5, 8) ∧
    pointsOf 0 0 = [] ∧ (b 2 {}).self ≠ 1 ∧ (∀ k ∈ [0, 1, 2, 3], Dispatched (bFor (c k) 0x60) (c k) 0x60 (flOf (c k) 0x60) ∧ (c k).f 1 7 6 = k) ∧
    min 35 ((c 0).f 1 5 0) = 35 ∧ min 5 ((c 1).f 1 10 8) = 5 ∧ (b 2 {}).getF (.lnStat 35) Fld.lnStatPoint = 5 ∧
    ((b 0 {}).setF (.lnCfg 35) Fld.lnCfgRole 1).getF (.lnCfg 35) Fld.lnCfgRole ≠ 0 ∧
    ((b 0 {}).setF (.lnCfg 35) Fld.lnCfgRole 0).getF (.lnCfg 35) Fld.lnCfgRole = 0 ∧ 6 ≤ (b 0 {}).getF (.lnCfg 35) Fld.lnCfgPin :=
  ⟨by decide, by decide, by decide, by decide, by decide, by decide, by decide, by decide,
    fun k h => ⟨dispatched_of rfl rfl, by revert k; decide⟩, by decide, by decide, by decide, by decide, by decide, by decide⟩

/-- A group of one rank of this module in Tier H, and one with a neighbour; groups FORMING and READY with a registration, in use by a
run and not. -/
theorem wit_CollectiveGroupsForm :
    let c := cmdOf [5, 7, BitVec.ofNat 64 (h5 * 2 ^ 38)]
    let d := cmdOf [BitVec.ofNat 64 (5 + 2 ^ 16), 7, 0]
    let u := cmdOf [5, 0, 0, BitVec.ofNat 64 (h5 * 2 ^ 38)]
    let e : Entry := { place := 1, base := 0x400000000000, size := 32, rd := true, wr := true, valid := true }
    let m (x : Nat) : Body := (({ bWith c 0x61 e with framing := frSet [] 0x040 0 1, bg := [(1600, 0)] } : Body).setReady 1600 true).setF (.hmCtxStat 0)
      Fld.hmCtxStatPart x
    let g : Group := { ranks := [(0, 0)] }
    let h : Group := { ranks := [(0, 0), (1, 0)], waiting := some (flOf c 0x61) }
    let k (cmd : Cmd) (o st : Nat) (x : Group) : Body := ((({ bWith cmd o e with ln := { groups := [(3, x)] } } : Body).setF (.bwGroupStat 3) Fld.bwGroupStatState st).setF
      (.bwGroupStat 3) Fld.bwGroupStatGroup 5).setF (.bwGroupStat 3) Fld.bwGroupStatCtx 0
    let r : Registration := { used := true, group := 3, slots0 := 1 }
    let q (l : List ClRun) : Body := { k u 0x64 2 g with ln := { groups := [(3, g)], colls := [(0, r)], runs := l } }
    Dispatched (m 0) c 0x61 (flOf c 0x61) ∧ PlainMemory (m 0) ∧ (m 0).access 0 (c.h 3) 0 8 false = .ok e ∧
    ranksOf 1 ((m 0).bytes e.base 8) = [(0, 0)] ∧ (m 0).groupIndex 5 = none ∧ (m 0).self = 0 ∧
    (List.range 64).find? (fun j => decide ((m 0).groupState j = 0)) = some 0 ∧ (m 0).localRanks g = [0] ∧ (m 0).neighbourModules g = [] ∧
    (m 0).quaysOfSlot 0 = [0] ∧ (m 0).localRanks { ranks := [(1, 0)] } = [] ∧ (m 0).neighbourModules h = [1] ∧
    (((({ m 0 with ln := {} } : Body).setF (.lnStat 0) Fld.lnStatState 2).setF (.lnStat 0) Fld.lnStatPeer 1).setF (.lnCfg 0) Fld.lnCfgParts 1023).bundle 1 (some 0) 3 ≠ [] ∧
    (k d 0x61 2 g).groupIndex 5 = some 3 ∧ (bFor d 0x61).groupIndex 5 = none ∧ d.b 1 16 = true ∧ c.b 1 16 = false ∧
    (k c 0x61 1 h).groupState 3 = 1 ∧ ((k c 0x61 1 h).group 3) = h ∧ (k c 0x61 1 h).neighbourModules h = [1] ∧ (k c 0x61 1 h).groupEpoch 3 = 0 ∧
    ((k c 0x61 1 h).setF (.bwGroupEpoch 3) Fld.bwGroupEpochEpoch 9).groupEpoch 3 = 9 ∧
    ((k u 0x62 2 g).setReady 1600 true).access 0 (u.h 4) 0 32 true = .ok e ∧ (k u 0x62 2 g).groupState 3 = 2 ∧ ((k u 0x62 2 g).coll 0).used = false ∧
    interior 0 1 0 = false ∧ (q []).regFor (flOf u 0x64) = some r ∧ (k u 0x64 2 g).regFor (flOf u 0x64) = none ∧
    (q [{ fl := flOf u 0x63, group := 3, reg := 0, run := 0 }]).ln.runs ≠ [] :=
  ⟨dispatched_of rfl rfl, ⟨rfl, rfl⟩, by rfl, by decide, by decide, by decide, by decide, by decide, by decide, by decide, by decide, by decide,
    by decide, by decide, by decide, by decide, by decide, by decide, by decide, by decide, by decide, by decide, by rfl, by decide, by decide, by decide,
    by decide, by decide, by decide⟩

/-- A registration of a READY group, of one FORMING and none, with and without a run; messages of its epoch and of one before. -/
theorem wit_CollectiveRunsGoOn :
    let c (op : Nat) := cmdOf [5, BitVec.ofNat 64 (h5 * 2 ^ 38 + op), BitVec.ofNat 64 (h5 * 2 ^ 38), BitVec.ofNat 64 (h5 * 2 ^ 38), BitVec.ofNat 64 (h5 * 2 ^ 38),
      BitVec.ofNat 64 (h5 * 2 ^ 38)]
    let e : Entry := { place := 1, base := 0x400000000000, size := 32, rd := true, wr := true, valid := true }
    let r (op : Nat) : Registration := { used := true, group := 3, op := op }
    let x : ClRun := { fl := flOf (c 0) 0x63, group := 3, reg := 0, run := 0 }
    let lnOf (op : Nat) (l : List ClRun) : Lines := { groups := [(3, { ranks := [(0, 0)] })], colls := [(0, r op)], runs := l }
    let b (op st : Nat) (l : List ClRun) : Body := (((({ bWith (c 0) 0x63 e with bg := [(1600, 0)], ln := lnOf op l } : Body).setReady 1600 true).setF (.bwGroupStat 3) Fld.bwGroupStatState st).setF
      (.bwGroupStat 3) Fld.bwGroupStatGroup 5).setF (.bwGroupStat 3) Fld.bwGroupStatCtx 0
    let y := (b 3 2 [x]).setF (.bwGroupEpoch 3) Fld.bwGroupEpochEpoch 9
    (∀ op ∈ [3, 5], Dispatched (b op 2 []) (c 0) 0x63 (flOf (c 0) 0x63) ∧ (b op 2 []).regFor (flOf (c 0) 0x63) = some (r op)) ∧
    (bFor (c 0) 0x63).regFor (flOf (c 0) 0x63) = none ∧ (bFor (c 0) 0x63).groupIndex 5 = none ∧ (b 3 1 []).groupState 3 = 1 ∧ (b 3 2 []).groupState 3 = 2 ∧
    (b 3 2 []).firstBad (flOf (c 0) 0x63) (clHandles (c 0) (r 3) 1 1) = none ∧ (b 5 2 []).firstBad (flOf (c 0) 0x63) (clHandles (c 0) (r 5) 1 1) = none ∧
    (b 5 2 []).access 0 ((c 0).h 2) 0 ((b 5 2 []).a2aSrc (flOf (c 0) 0x63) (r 5) 1 1) false = .ok e ∧
    ((bFor (c 0) 0x63).firstBad (flOf (c 0) 0x63) (clHandles (c 0) (r 3) 1 1)).isSome = true ∧ (b 3 2 []).self = 0 ∧
    y.isStale 5 8 = true ∧ y.isStale 5 9 = false ∧ y.runFor 5 9 0 0 = some x ∧ (b 3 2 []).runFor 5 0 0 0 = none ∧ y.rankModule x 0 = y.self ∧
    y.rankModule x 0 ≠ 1 ∧ y.groupIndex 5 = some 3 ∧ y.groupIndex 6 = none :=
  ⟨fun op h => ⟨dispatched_of rfl rfl, by revert op; decide⟩, by decide, by decide, by decide, by decide, by decide, by decide, by rfl, by decide, by decide,
    by decide, by decide, by decide, by decide, by decide, by decide, by decide, by decide⟩

/-- Mirror ranges of Tier L with a Twin Line UP and none, announced and not, with a marked granule and none; PAIR, UNPAIR and DETACH. -/
theorem wit_TwinMirrorsAndPairs :
    let c (k : Nat) := cmdOf [BitVec.ofNat 64 (h5 * 2 ^ 38 + k), BitVec.ofNat 64 (h5 * 2 ^ 38)]
    let e : Entry := { place := 3, base := 0x200000000000, size := 64, rd := true, wr := true, valid := true }
    let x : Mirror := { slot := 0, handle := h5, base := 0x200000000000, size := 64, accept := false, bitmap := 0x200000001000 }
    let up (st : Nat) (b : Body) : Body := ((b.setF (.lnStat 35) Fld.lnStatState 2).setF (.lnCfg 35) Fld.lnCfgRole 2).setF .bwTwinStat Fld.bwTwinStatState st
    let b (opc k st : Nat) (w : Twin) : Body := up st { bFor (c k) opc with ln := { twin := w }, bg := [(1780, 0), (1781, 0)] }
    let marked : Body := { b 0x6A 0 2 { mirrors := [x] } with mem := [(0x200000001000, 1)] }
    (∀ k ∈ [0, 1, 2], ∀ opc ∈ [0x68, 0x69, 0x6A], Dispatched (b opc k 2 {}) (c k) opc (flOf (c k) opc)) ∧
    (c 0).b 1 0 = false ∧ (c 1).b 1 0 = true ∧ (∀ k ∈ [0, 1, 2], (c k).f 1 1 0 = k) ∧
    (bFor (c 0) 0x69).mirrorArgs (flOf (c 0) 0x69) = .error 0x12 ∧
    { bWith (c 0) 0x69 e with framing := [] }.resolve 0 ((c 0).h 1) = some e ∧ (bWith (c 0) 0x69 e).resolve 0 ((c 0).h 2) = some e ∧
    ceilDiv 64 65536 = 1 ∧
    marked.firstMarked = some (0, x, 0) ∧ marked.twinLines = [35] ∧ marked.twinState = 2 ∧ marked.syncSet = [0] ∧
    (b 0x6A 0 2 {}).syncSet = [] ∧ (b 0x68 0 2 {}).resident = [] ∧ (b 0x68 0 1 { peerPair := true }).twinState = 1 ∧
    (bFor (c 0) 0x6A).twinLines = [] ∧ (35 : Fin 36).val ∈ marked.twinLines ∧ (34 : Fin 36).val ∉ marked.twinLines ∧
    [(1, 2)][0]? = some (1, 2) ∧ (flOf (c 2) 0x68).progress = [] :=
  ⟨fun k h o g => dispatched_of rfl (by revert k o; decide), by decide, by decide, by decide, by rfl, by rfl, by rfl, by decide, by rfl, by decide,
    by decide, by decide, by decide, by decide, by decide, by decide, by decide, by decide, by decide, by decide⟩

/-- A container's buffer and none; live, fixed and undefined fields; Swell words held and not; slots free to revoke and not; an owner
fused and not; each SC_DEBUG operation, locked out and not. -/
theorem wit_FramingAndSecurityCommands :
    let c (k : Nat) := cmdOf [BitVec.ofNat 64 (h5 * 2 ^ 38 + k), BitVec.ofNat 64 (h5 * 2 ^ 38 + 3)]
    let d (k : Nat) := cmdOf [BitVec.ofNat 64 k, BitVec.ofNat 64 (h5 * 2 ^ 38 + 3)]
    let e : Entry := { place := 3, base := 0x200000000000, size := 8192, rd := true, wr := true, valid := true }
    let ops : List Nat := [0x80, 0x81, 0x82, 0x83, 0x84, 0x85, 0x86]
    let b (o : Nat) : Body := ({ bWith (c 0) o { e with place := 1, base := 0x400000000000 } with bg := [(1600, 0)] } : Body).setReady 1600 true
    let w : Body := { b 0x83 with rnd := { swells := [{}, { word := some 1 }] } }
    let p : Body := { bFor (c 0) 0x81 with framing := frSet [] 0x040 0 1 }
    (∀ o ∈ ops, Dispatched (b o) (c 0) o (flOf (c 0) o)) ∧ PlainMemory (b 0x80) ∧
    (b 0x80).accessHere 0 ((c 0).h 1) 0 512 false = .ok { e with place := 1, base := 0x400000000000, gen := 1 } ∧
    (b 0x80).le 0x400000000008 4 = 0 ∧ (b 0x80).accessHere 0 ((c 0).h 1) 0 0 false = .ok { e with place := 1, base := 0x400000000000, gen := 1 } ∧
    (b 0x80).verify {} 1 0x400000000000 = 1 ∧ (bFor (c 0) 0x80).accessHere 0 ((c 0).h 1) 0 512 false = .error 0x12 ∧
    p.liveOk 0x050 0 = true ∧ p.liveOk 0x051 0 = true ∧ p.liveOk 0x044 0 = true ∧ p.liveOk 0x049 0 = true ∧ p.liveOk 0x040 0 = false ∧ p.liveOk 0x050 9 = false ∧
    (b 0x82).accessHere 0 ((c 1).h 1) 0 4896 true = .ok { e with place := 1, base := 0x400000000000, gen := 1 } ∧ (c 0).h 6 = 0 ∧ (c 0).h 7 = 0 ∧
    (b 0x83).takeWord 1 = none ∧ (w.takeWord 1).isSome = true ∧ (d 4).f 1 5 2 = 1 ∧ (d 56).f 1 5 2 = 14 ∧ (14 : Nat).testBit 0 = false ∧
    (0 ||| 14 : Nat) ≠ 0xF ∧ (1 ||| 14 : Nat) = 0xF ∧ (∀ k ∈ [0, 1, 2, 3], (d k).f 1 1 0 = k) ∧ ({} : Body).flag .scDebugStat Fld.scDebugStatLockout = false ∧
    (({} : Body).setF .scDebugStat Fld.scDebugStatLockout 1).flag .scDebugStat Fld.scDebugStatLockout = true ∧ ({} : Body).unlock.expiry = 0 :=
  ⟨fun o h => dispatched_of rfl (by revert o; decide), ⟨rfl, rfl⟩, by rfl, by decide, by rfl, by decide, by rfl, by decide, by decide, by decide, by decide,
    by decide, by decide, by rfl, by decide, by decide, by decide, by decide, by decide, by decide, by decide, by decide, by decide, by decide, by decide,
    by decide, by decide⟩

/-- A step that raises both counters, from reset with SC_COMMIT in front and images of SVN 7 and 99 running. -/
theorem wit_SvnCountersOnlyRiseByCommit :
    let c := cmdOf [3]
    let b : Body := { bFor c 0x84 with boot := { fw := { svn := 7 }, fr := { svn := 99 }, frBytes := [1] } }
    let s : State := { pending := [.scCommit c], fuse := {}, body := b }
    (∃ t, step s = .next t ∧ t.fuse.fwSvn = 7 ∧ t.fuse.frSvn = 64) ∧ Dispatched b c 0x84 (flOf c 0x84) ∧ (c.f 1 5 2).testBit b.boot.fw.signer = false ∧
    (0 ||| c.f 1 5 2 : Nat) ≠ 0xF ∧ c.b 1 0 = true ∧ c.b 1 1 = true :=
  ⟨⟨_, rfl, by rfl, by rfl⟩, dispatched_of rfl rfl, by decide, by decide, by decide, by decide⟩

/-- A Quay powered and none, the phases RUN and off, the module, a partition and none as the target of PW_LIMIT, a stretch and none. -/
theorem wit_ClocksAndProtections :
    let c (k : Nat) := cmdOf [BitVec.ofNat 64 k, BitVec.ofNat 64 (500 * 2 ^ 16)]
    let b : Body := { bFor (c 3) 0x7C with framing := frSet [] 0x040 3 1, boot := { phase := .run } }
    let o : Body := { boot := { phase := .off } }
    o.boot.phase = .off ∧ b.boot.phase ≠ .off ∧ b.power.holdWatch = false ∧ b.quayUp 0 = true ∧ b.quayUp 9 = false ∧
    (∀ k ∈ [3, 4, 11, 15], Dispatched { b with hm := { flights := [flOf (c k) 0x7C] } } (c k) 0x7C (flOf (c k) 0x7C)) ∧
    nearTarget ((c 3).f 1 3 0) = 3 ∧ nearTarget ((c 11).f 1 3 0) = 9 ∧ nearTarget ((c 15).f 1 3 0) = 15 ∧ partDefined b.framing 3 = true ∧
    partDefined b.framing 4 = false ∧ (clampMhz ((c 3).f 2 25 16)).1 = 500 ∧ b.power.stretch = [] ∧ b.power.inputLow = false ∧ b.power.refclk = true ∧
    { b with power := { holdWatch := true } }.power.holdWatch = true :=
  ⟨by decide, by decide, by decide, by decide, by decide, fun k h => dispatched_of rfl rfl, by decide, by decide, by decide, by decide, by decide,
    by decide, by decide, by decide, by decide, by decide⟩

/-- Berth 7 in each state, with a transition under way, a PW_BERTH that waits, and none; the phases RUN, ANCHOR, its entry, DRYDOCK, its
entry, and off; PW_BERTH of a Quay of a partition and of none. -/
theorem wit_BerthsAndModuleStates :
    let c (k : Nat) := cmdOf [BitVec.ofNat 64 (1 + k * 65536), 128, 0]
    let q := cmdOf [BitVec.ofNat 64 (2 + 65536), 128, 0]
    let d (k : Nat) := cmdOf [BitVec.ofNat 64 k, 5]
    let b (o n : Nat) : Body := ({ bFor (c 0) o with framing := frSet [] 0x040 0 1, boot := { phase := .run } } : Body).setF (.brPwrStat 7) Fld.brPwrStatState n
    let g (p : Phase) (l : List Nat) : Body :=
      { hm := { flights := [{ flOf (d 0) 0x7E with progress := l }] }, boot := { phase := p }, power := { exitPending := true, refclk := false } }
    let t (n x : Nat) (l : List PwWait) : Body := { b 0x7D n with power := { berths := [(7, { target := if x = 0 then none else some x })], waits := l } }
    let x (k : Nat) : PwWait := { fl := flOf (c 0) 0x7D, berths := [7], goal := k }
    (∀ k ∈ [0, 1, 2, 3], Dispatched { b 0x7D 1 with hm := { flights := [flOf (c k) 0x7D] } } (c k) 0x7D (flOf (c k) 0x7D) ∧ (c k).f 1 17 16 = k) ∧
    berthsOf [0] ((c 0).f 2 19 0) = [7] ∧ (List.range 10).filter (fun i => ((c 0).f 1 9 0).testBit i) = [0] ∧
    (List.range 10).filter (fun i => (q.f 1 9 0).testBit i) = [1] ∧ partOfQuay (b 0 0).framing 0 = some 0 ∧ partOfQuay (b 0 0).framing 1 = none ∧
    (∀ n ∈ [0, 1, 2, 3], (b 0x7D n).pwr 7 = n) ∧ (t 2 1 []).pwrTarget 7 = some 1 ∧ (t 1 2 []).pwrTarget 7 = some 2 ∧ (t 1 0 [x 2]).pwrTarget 7 = none ∧
    (t 1 0 [x 2]).moorOk 7 = true ∧ (t 0 2 []).moorOk 7 = false ∧ (t 1 0 [x 3]).layupOk 7 = true ∧ (t 1 0 [x 3]).holdsCrate 7 = false ∧
    (b 0x7D 1).getF (.brPwrCtl 7) Fld.brPwrCtlMoorIdle ≠ 0 ∧ (∀ k ∈ [0, 1], (d k).f 1 1 0 = k) ∧
    (∀ p ∈ [Phase.run, .anchorEntry], ∀ l ∈ [[], [1]], Dispatched (g p l) (d 0) 0x7E { flOf (d 0) 0x7E with progress := l }) ∧
    (g .anchorEntry [1]).anchorReady { flOf (d 0) 0x7E with progress := [1] } = true ∧ (g .run []).resident = [] ∧ (g .anchor [1]).power.holdWatch = false :=
  ⟨fun k h => ⟨dispatched_of rfl rfl, by revert k; decide⟩, by decide, by decide, by decide, by decide, by decide, by decide, by decide, by decide, by decide,
    by decide, by decide, by decide, by decide, by decide, by decide,
    fun p h l k => dispatched_by rfl rfl rfl rfl rfl rfl, by decide, by decide, by decide⟩

/-- The phases, RST_N high and low; RST of each KIND, of a partition and a Quay and of none; a context of slot 0, one of none, the
management context; the flash lent and not. -/
theorem wit_ResetsAndInputPower :
    let c (k n : Nat) := cmdOf [BitVec.ofNat 64 (k + 16 * n)]
    let b (x : Cmd) (p : Phase) : Body := { bFor x 0x7F with framing := frSet [] 0x040 0 1, boot := { phase := p, heHeld := true, svcLow := true } }
    (∀ k ∈ [0, 1, 2, 3], ∀ n ∈ [0, 1], ∀ p ∈ [Phase.run, .off, .drydock, .held, .anchor], Dispatched (b (c k n) p) (c k n) 0x7F (flOf (c k n) 0x7F)) ∧
    (∀ k ∈ [0, 1, 2, 3], (c k 1).f 1 1 0 = k ∧ (c k 1).f 1 7 4 = 1) ∧ partDefined (b (c 1 0) .run).framing 0 = true ∧
    partDefined (b (c 1 1) .run).framing 1 = false ∧ partOfQuay (b (c 2 0) .run).framing 0 = some 0 ∧ partOfQuay (b (c 2 1) .run).framing 1 = none ∧
    { b (c 0 0) .run with power := { holdWatch := true } }.power.holdWatch = true ∧ (b (c 0 0) .run).power.holdWatch = false ∧
    (b (c 0 0) .run).slotOf 5 = none ∧ ((b (c 0 0) .run).slotOf 0xFFFE) = some 64 ∧
    (((b (c 0 0) .run).setF (.hmCtxStat 3) Fld.hmCtxStatState 0).setF (.hmCtxStat 3) Fld.hmCtxStatCtx 5).slotOf 5 = some 3 ∧
    (b (c 0 0) .run).flashService = true ∧ ({} : Body).flashService = false ∧ (b (c 0 0) .run).boot.svcLow = true :=
  ⟨fun k h n g p i => dispatched_of rfl rfl, by decide, by decide, by decide, by decide, by decide, by decide, by decide, by decide, by decide, by decide,
    by decide, by decide, by decide⟩

/-- A buffer of a Shed and none; contexts seen, not seen and stepped; pushes set, waiting and refused; a probe of Line 35 UP, half answered
and not; a pending record; a Berth that is measured and one that is not. -/
theorem wit_TelemetryAndDebug :
    let c (k : Nat) := cmdOf [BitVec.ofNat 64 (h5 * 2 ^ 38 + k), BitVec.ofNat 64 (h5 * 2 ^ 38 + 3)]
    let d (k : Nat) := cmdOf [BitVec.ofNat 64 (5 + k * 65536), BitVec.ofNat 64 (h5 * 2 ^ 38), 0, BitVec.ofNat 64 (h5 * 2 ^ 38)]
    let l (k : Nat) := cmdOf [BitVec.ofNat 64 k, 0]
    let e : Entry := { place := 1, base := 0x400000000000, size := 8192, rd := true, wr := true, valid := true }
    let b (x : Cmd) (o : Nat) : Body := ((({ bWith x o e with bg := [(1600, 0)], boot := { phase := .run } } : Body).setReady 1600 true).setF (.hmCtxStat 3)
      Fld.hmCtxStatState 1).setF (.hmCtxStat 3) Fld.hmCtxStatCtx 5
    let y (v : Nat) : Body := (b (d 0) 0x8D).setF .scDebugStat Fld.scDebugStatLevels v
    let z : Body := ((y 2).setF .hmStepStat Fld.hmStepStatStepping 1).setF .hmStepStat Fld.hmStepStatCtx 5
    let p : Probe := { fl := flOf (c 35) 0x8E, line := 35, count := 2, sent := [(0, 4)] }
    let u : Body := ({ b (c 35) 0x8E with tele := { probe := some p } } : Body).setF (.lnStat 35) Fld.lnStatState 2
    let r : ErrRec := ⟨0, 0x0104, 1, 0, 0, 0, 0, 2, 0, []⟩
    let q (n : Nat) : Body := ({ framing := frSet [] 0x040 0 1, boot := { phase := .run } } : Body).setF (.brPwrStat 7) Fld.brPwrStatState n
    (∀ o ∈ [0x88, 0x89, 0x8A, 0x8B, 0x8C, 0x8D, 0x8E, 0x8F], Dispatched (b (c 0) o) (c 0) o (flOf (c 0) o)) ∧
    (b (c 0) 0x89).accessHere 0 ((c 0).h 1) 0 48 true = .ok { e with gen := 1 } ∧ (bFor (c 0) 0x89).accessHere 0 ((c 0).h 1) 0 48 true = .error 0x12 ∧
    ((b (c 0) 0x89).snapBytes 0 0).length = 32 ∧ (y 0).level 0 = false ∧ (y 1).level 0 = true ∧ (y 2).level 1 = true ∧ (y 0).level 1 = false ∧
    (y 1).slotOf 5 = some 3 ∧ (y 1).slotOf 6 = none ∧ z.steppedIs 5 = true ∧ (y 2).steppedIs 5 = false ∧ (y 2).tele.dbg = none ∧
    (y 2).getF (.hmCtxStat 3) Fld.hmCtxStatState = 1 ∧ (∀ k ∈ [0, 1, 2, 3], (d k).f 1 17 16 = k ∧ (l k).f 1 1 0 = k) ∧ (l 0).h 4 = 0 ∧ (d 0).h 4 ≠ 0 ∧
    (b (d 0) 0x8A).resolve 0 ((d 0).h 4) = some { e with gen := 1 } ∧ (bFor (d 0) 0x8A).resolve 0 ((d 0).h 4) = none ∧
    ({ place := 5, base := 0, size := 8, wr := true } : Entry).place = 5 ∧
    { b (c 0) 0x88 with tele := { push := { period := 10, acked := false } } }.tele.push.acked = false ∧ u.lineUp 35 = true ∧ u.lineState 35 = 2 ∧
    p.sent.length < p.count ∧ p.sent.find? (fun x => decide (x.1 = 0)) = some (0, 4) ∧ p.done + 1 ≠ p.count ∧ { p with count := 1 }.done + 1 = 1 ∧
    SMap.get (SMap.set [] [] (2 * 65536) [r]) [] (2 * 65536) = [r] ∧ (q 0).quayUp 0 = true ∧ (q 1).pwr 7 < 2 ∧ 2 ≤ (q 3).pwr 7 :=
  ⟨fun o h => dispatched_of rfl (by revert o; decide), by rfl, by rfl, by decide, by decide, by decide, by decide, by decide, by decide, by decide, by decide,
    by decide, by decide, by decide, by decide, by decide, by decide, by rfl, by rfl, by decide, by decide, by decide, by decide, by decide, by decide,
    by decide, by decide, by decide, by decide, by decide, by decide⟩

/-- A register and a field of it, an address of Tier F and one of the Jig banks. -/
theorem wit_ResetStateHolds : (Reg.brHoldPwr 199).ok = true ∧ Fld.brHoldPwrSliceOn ∈ (Reg.brHoldPwr 199).fields ∧ regionOf tierFBase = 1782 ∧
    regionOf (jigBase 0 0) = 2201 := by decide

end Sys2Proof.Tests
end

section
/-!
PROOFS. Register accesses of 8 aligned bytes (R8, R13): what a write and a read of a register leave in it, field by field, and what
they leave alone.
-/

namespace Sys2Proof.Machine

/-! ### The register of an access -/

theorem regAt_sound {a n : Nat} {r : Reg} (h : regAt a n = some r) : r.addr = a ∧ r.ok = true := by
  unfold regAt at h
  split at h
  · exact Reg.ofAddr_sound h
  · cases h

/-- The clamp tally's address names no other register. -/
theorem regAt_clampTally {n : Nat} {r : Reg} (h : regAt Reg.hmClampTally.addr n = some r) : r = .hmClampTally := by
  unfold regAt at h
  split at h
  · have hd : Reg.ofAddr Reg.hmClampTally.addr = some .hmClampTally := by decide
    exact (Option.some.inj (hd.symm.trans h)).symm
  · cases h

theorem exec_registerWrite {a n : Nat} {r : Reg} (h : regAt a n = some r) (v : Word) (s : State) :
    exec (.registerWrite a n v) s = .next { s with body := s.body.writeReg r v } := by
  change execRegisterWrite a n v s = _
  simp only [execRegisterWrite, State.onBody, h]

theorem exec_rcRead {a n : Nat} {r : Reg} (h : regAt a n = some r) (s : State) :
    exec (.rcRead a n) s = .next { s with
      body := (s.body.readReg r).2.send { port := .local, kind := .regData, nums := [a, (s.body.readReg r).1.toNat] } } := by
  change execRcRead a n s = _
  simp only [execRcRead, State.onBody, h]

/-! ### Registers whose every field ignores a write -/

/-- No field of the register takes a write: each is RO, RC or WO. -/
def Reg.IgnoresWrites (r : Reg) : Prop := ∀ f ∈ r.fields, f.acc ≠ .rw ∧ f.acc ≠ .w1c

theorem foldl_eq_self {α β : Type} {f : β → α → β} {b : β} {l : List α} (h : ∀ x ∈ l, f b x = b) : l.foldl f b = b := by
  induction l with
  | nil => rfl
  | cons x l ih =>
    rw [List.foldl_cons, h x List.mem_cons_self, ih fun y hy => h y (List.mem_cons_of_mem _ hy)]

theorem writeField_ignored (b : Body) (r : Reg) (w : Word) {f : Fld} (h : f.acc ≠ .rw ∧ f.acc ≠ .w1c) : b.writeField r w f = b := by
  unfold Body.writeField
  split
  · exact absurd ‹_› h.1
  · exact absurd ‹_› h.2
  · rfl

theorem fieldAfter_ignored (b : Body) (r : Reg) (w : Word) {f : Fld} (h : f.acc ≠ .rw ∧ f.acc ≠ .w1c) : fieldAfter b r w f = b.getF r f := by
  unfold fieldAfter
  split
  · exact absurd ‹_› h.1
  · exact absurd ‹_› h.2
  · rfl

/-- The serial number's two words and the clamp tally take no write; the register file stores every other register, apart from the
clamp tally. -/
theorem Reg.ignoresWrites_or_stored {r : Reg} {a n : Nat} (h : regAt a n = some r) :
    r.IgnoresWrites ∨ r.stored ∧ r.addr ≠ Reg.hmClampTally.addr := by
  by_cases hs : r.stored
  · by_cases hc : r.addr = Reg.hmClampTally.addr
    · left
      rw [← (regAt_sound h).1, hc] at h
      rw [regAt_clampTally h]
      unfold Reg.IgnoresWrites; decide
    · exact .inr ⟨hs, hc⟩
  · left
    have hid : r = .scId0 ∨ r = .scId1 := by unfold Reg.stored at hs; tauto
    rcases hid with rfl | rfl <;> (unfold Reg.IgnoresWrites; decide)

/-! ### Writes -/

theorem writeFields_getF (b : Body) {r : Reg} {a n : Nat} (h : regAt a n = some r) (w : Word) :
    ∀ f ∈ r.fields, (r.fields.foldl (fun b f => b.writeField r w f) b).getF r f = fieldAfter b r w f := by
  obtain ⟨hapart, hword⟩ := Reg.fields_apart r
  rcases Reg.ignoresWrites_or_stored h with hi | ⟨hs, hc⟩
  · intro f hf
    rw [foldl_eq_self fun x hx => writeField_ignored b r w (hi x hx), fieldAfter_ignored b r w (hi f hf)]
  · exact (fold_fields b r w (regAt_sound h).2 hs hc r.fields hapart hword).2

theorem writeField_sameBytes (b : Body) (r : Reg) (w : Word) (f : Fld) : SameBytes b (b.writeField r w f) := by
  unfold Body.writeField
  split
  · exact sameBytes_of (by simp) (by simp) (by simp)
  · exact sameBytes_of (by simp) (by simp) (by simp)
  · exact fun _ => rfl

theorem notePower_sameBytes (b : Body) (r : Reg) : SameBytes b (b.notePower r) := by
  unfold Body.notePower
  split <;> exact fun _ => rfl

theorem notePower_getF (b : Body) (r q : Reg) (f : Fld) : (b.notePower r).getF q f = b.getF q f := by
  unfold Body.getF; rw [notePower_reg]

theorem writeReg_of_ne_doorbell (b : Body) {r : Reg} (w : Word) (h : ∀ n, r ≠ .hmWqDb n) :
    b.writeReg r w = (r.fields.foldl (fun b f => b.writeField r w f) b).notePower r := by
  unfold Body.writeReg
  split
  · exact absurd rfl (h _)
  · rfl

theorem writeReg_sameBytes (b : Body) {r : Reg} (w : Word) (h : ∀ n, r ≠ .hmWqDb n) : SameBytes b (b.writeReg r w) := by
  rw [writeReg_of_ne_doorbell b w h]
  refine SameBytes.trans ?_ (notePower_sameBytes _ r)
  exact foldl_inv (SameBytes b) _ _ _ (fun _ => rfl) fun c f hc => hc.trans (writeField_sameBytes c r w f)

theorem writeReg_reg_ne (b : Body) {r q : Reg} (w : Word) (h : ∀ n, r ≠ .hmWqDb n) (hq : q.addr ≠ r.addr)
    (hc : q.addr ≠ Reg.hmClampTally.addr) : (b.writeReg r w).reg q = b.reg q := by
  rw [writeReg_of_ne_doorbell b w h, notePower_reg]
  exact foldl_keep (fun b : Body => b.reg q) _ _ _ fun b f => writeField_reg_ne b r q w f hq hc

theorem writeReg_getF (b : Body) {r : Reg} {a n : Nat} (ha : regAt a n = some r) (w : Word) (h : ∀ n, r ≠ .hmWqDb n) :
    ∀ f ∈ r.fields, (b.writeReg r w).getF r f = fieldAfter b r w f := by
  intro f hf
  rw [writeReg_of_ne_doorbell b w h, notePower_getF]
  exact writeFields_getF b ha w f hf

/-- Settles O5: the fields of a register lie apart, so the writes of the others leave each as its own write set it. -/
theorem registerWriteByAccess : Obligations.RegisterWriteByAccess := by
  intro s addr v r h
  refine ⟨?_, fun hdb => ⟨_, exec_registerWrite h v s, rfl, writeReg_sameBytes s.body v hdb, ?_, writeReg_getF s.body h v hdb⟩⟩
  · rintro n rfl
    exact exec_registerWrite h v s
  · intro q hq hc
    exact writeReg_reg_ne s.body v hdb ((regAt_sound h).1 ▸ hq) hc

/-! ### Reads -/

/-- One field of a read: an RC field returns to its reset value. -/
def Body.clearRc (b : Body) (r : Reg) (f : Fld) : Body := if f.acc = .rc then b.setF r f (f.resetVal b.framing r) else b

theorem clearRc_keep {γ : Type} (p : Body → γ) {r : Reg} (h : ∀ (b : Body) f v, p (b.setF r f v) = p b) (b : Body) (f : Fld) :
    p (b.clearRc r f) = p b := by
  unfold Body.clearRc
  split
  · exact h b f _
  · rfl

theorem readReg_keep {γ : Type} (p : Body → γ) {r : Reg} (h : ∀ (b : Body) f v, p (b.setF r f v) = p b) (b : Body) :
    p (b.readReg r).2 = p b :=
  foldl_keep p (fun b f => b.clearRc r f) _ _ fun b f => clearRc_keep p h b f

theorem readReg_sameBytes (b : Body) (r : Reg) : SameBytes b (b.readReg r).2 :=
  sameBytes_of (readReg_keep (fun b : Body => b.mem) (fun b f v => by simp) b)
    (readReg_keep (fun b : Body => b.haze) (fun b f v => by simp) b) (readReg_keep (fun b : Body => b.bg) (fun b f v => by simp) b)

theorem readReg_out (b : Body) (r : Reg) : (b.readReg r).2.out = b.out :=
  readReg_keep (fun b : Body => b.out) (fun b f v => by simp) b

theorem readReg_reg_ne (b : Body) {r q : Reg} (h : q.addr ≠ r.addr) : (b.readReg r).2.reg q = b.reg q :=
  readReg_keep (fun b : Body => b.reg q) (fun b f v => Body.reg_setF_ne b f v h) b

theorem readReg_getF (b : Body) {r : Reg} (ho : r.ok = true) (f : Fld) (hf : f ∈ r.fields) :
    (b.readReg r).2.getF r f = if f.acc = .rc then f.resetVal b.framing r % 2 ^ f.width else b.getF r f := by
  obtain ⟨hapart, hword⟩ := Reg.fields_apart r
  by_cases hs : r.stored
  · exact (clearFields b r ho hs r.fields hapart hword).2 f hf
  · have hrc : ∀ x ∈ r.fields, x.acc ≠ .rc := by
      have hid : r = .scId0 ∨ r = .scId1 := by unfold Reg.stored at hs; tauto
      rcases hid with rfl | rfl <;> decide
    rw [if_neg (hrc f hf)]
    exact congrArg (fun b : Body => b.getF r f) (foldl_eq_self fun x hx => if_neg (hrc x hx))

/-- The word read: its WO fields are 0, and its other fields as stored. -/
theorem readReg_word (b : Body) (r : Reg) : ∀ f ∈ r.fields,
    bits (b.readReg r).1.toNat f.hi f.lo = if f.acc = .wo then 0 else b.getF r f := by
  obtain ⟨hapart, hword⟩ := Reg.fields_apart r
  obtain ⟨hlt, -, hfld⟩ := readFields_word r.fields _ (b.reg r).isLt hapart hword
  simp only [Body.readReg, BitVec.toNat_ofNat, Nat.mod_eq_of_lt hlt]
  exact hfld

/-- Settles O6: a read answers the word with its WO fields 0, and clearing one field leaves the others, which lie apart, as stored. -/
theorem registerReadByAccess : Obligations.RegisterReadByAccess := by
  intro s addr r h
  obtain ⟨ha, ho⟩ := regAt_sound h
  refine ⟨_, (s.body.readReg r).1.toNat, exec_rcRead h s, BitVec.isLt _, rfl, ?_, ?_, readReg_word s.body r, fun f hf => ?_, fun q hq => ?_⟩
  · exact (readReg_sameBytes s.body r).trans (sameBytes_of (by simp) (by simp) (by simp))
  · simp only [Body.send, readReg_out]
  · rw [Body.send_getF, readReg_getF s.body ho f hf]
  · rw [Body.send_reg, readReg_reg_ne s.body (ha ▸ hq)]

end Sys2Proof.Machine
end

section
/-! PROOFS. The machine right after reset (R10, R413): every register field at its Reset column, and what unlisted state reads as. -/

namespace Sys2Proof.Machine

/-- Fields put one after another in a word: each reads the value put in it, and bits apart from them all read as before. -/
theorem putFields_bits (val : Fld → Nat) (l : List Fld) (n : Nat) (hn : n < 2 ^ 64)
    (hl : l.Pairwise fun f g => f.hi < g.lo ∨ g.hi < f.lo) (hb : ∀ f ∈ l, f.lo ≤ f.hi ∧ f.hi < 64) :
    let w := l.foldl (fun w f => putBits w f.hi f.lo (val f)) n
    w < 2 ^ 64 ∧ (∀ g : Fld, g.lo ≤ g.hi → (∀ f ∈ l, g.hi < f.lo ∨ f.hi < g.lo) → bits w g.hi g.lo = bits n g.hi g.lo) ∧
      ∀ f ∈ l, bits w f.hi f.lo = val f % 2 ^ f.width := by
  induction l generalizing n with
  | nil => exact ⟨hn, fun _ _ _ => rfl, by simp⟩
  | cons x l ih =>
    obtain ⟨hx, hl⟩ := List.pairwise_cons.1 hl
    obtain ⟨hxl, hxh⟩ := hb x List.mem_cons_self
    obtain ⟨hlt, hother, hput⟩ := ih (putBits n x.hi x.lo (val x)) (putBits_lt hn hxh hxl) hl fun f hf => hb f (List.mem_cons_of_mem _ hf)
    refine ⟨hlt, fun g hg hgl => ?_, fun f hf => ?_⟩
    · rw [List.foldl_cons, hother g hg fun f hf => hgl f (List.mem_cons_of_mem _ hf)]
      rcases hgl x List.mem_cons_self with hbelow | habove
      · exact bits_putBits_below hxl hbelow hg
      · exact bits_putBits_above hxl habove
    · rcases List.mem_cons.1 hf with rfl | hf
      · rw [List.foldl_cons, hother f hxl hx, bits_putBits_self hxl, Fld.width]
      · exact hput f hf

theorem resetWord_fld (fr : SMap Nat) (r : Reg) {f : Fld} (hf : f ∈ r.fields) :
    (r.resetWord fr).fld f.hi f.lo = f.resetVal fr r % 2 ^ f.width := by
  obtain ⟨hapart, hword⟩ := Reg.fields_apart r
  obtain ⟨hlt, -, hput⟩ := putFields_bits (fun f => f.resetVal fr r) r.fields 0 (by simp) hapart hword
  simp only [Word.fld, Reg.resetWord, BitVec.toNat_ofNat, Nat.mod_eq_of_lt hlt]
  exact hput f hf

/-- A field of a register that is not listed reads its Reset column under the framing defaults. -/
theorem getF_of_no_regs {b : Body} (h : b.regs = []) {r : Reg} (hs : r.stored) {f : Fld} (hf : f ∈ r.fields) :
    b.getF r f = f.resetVal [] r % 2 ^ f.width := by
  have hdflt : b.reg r = r.resetWord [] := by rw [Body.reg_stored b hs, h]; rfl
  rw [Body.getF, hdflt, resetWord_fld [] r hf]

/-- Where no byte is listed and no region or range has lost its bytes, Tier F and the Jig banks read +0. -/
theorem byte_of_no_mem {b : Body} (hm : b.mem = []) (hh : b.haze = []) (hb : b.bg = []) {a : Nat} (ha : regionOf a ∈ [1782, 2201]) :
    b.byte a = 0 := by
  have hdflt : bgDflt (regionOf a) = 0 := by
    unfold bgDflt; exact if_pos (by simpa using ha)
  have hcode : b.codeAt a = 0 := by
    simp only [Body.codeAt, hh, List.find?_nil, Body.bgOf, hb, SMap.get, SMap.find_nil, Option.getD_none, hdflt]
  simp only [Body.byte_def, hm, SMap.find_nil, Option.getD_none, hcode]

theorem fusesLegal_unblown : FusesLegal {} :=
  ⟨by decide, by decide, by decide, fun _ => Nat.two_pow_pos 32⟩

/-- A field of a register at reset reads the number of its Reset column. -/
theorem reset_getF {r : Reg} (hs : r.stored) {f : Fld} (hf : f ∈ r.fields) :
    State.reset.body.getF r f = f.resetVal [] r % 2 ^ f.width := getF_of_no_regs rfl hs hf

theorem reset_ctxState (k : Nat) : State.reset.body.getF (.hmCtxStat k) Fld.hmCtxStatState = 3 :=
  reset_getF (r := .hmCtxStat k) (by simp [Reg.stored]) (by simp [Reg.fields])

theorem reset_groupState (k : Nat) : State.reset.body.groupState k = 0 :=
  reset_getF (r := .bwGroupStat k) (by simp [Reg.stored]) (by simp [Reg.fields])

theorem reset_lineState (l : Nat) : State.reset.body.lineState l = 0 :=
  reset_getF (r := .lnStat l) (by simp [Reg.stored]) (by simp [Reg.fields])

theorem reset_twinState : State.reset.body.twinState = 0 :=
  reset_getF (r := .bwTwinStat) (by simp [Reg.stored]) (by simp [Reg.fields])

/-- Settles O60: the reset state lists no register, no byte and no Manifest entry, and an unlisted register is its reset word. -/
theorem resetStateHolds : Obligations.ResetStateHolds :=
  ⟨rfl, rfl, fusesLegal_unblown, rfl, rfl, rfl, rfl, memWf_reset, fun _ _ _ h0 h1 hf => reset_getF ⟨h0, h1⟩ hf, rfl, rfl,
    fun k _ => ⟨reset_ctxState k, reset_groupState k⟩, fun _ _ => ⟨rfl, rfl, rfl⟩, fun l _ => reset_lineState l, reset_twinState,
    fun _ ha => byte_of_no_mem rfl rfl rfl ha⟩

end Sys2Proof.Machine
end

section
/-! PROOFS. A Boardwalk link that loses its retraining (R29): the note of a failed retraining, and the contexts a loss halts. -/

namespace Sys2Proof.Machine

/-! ### The note of a failed retraining -/

/-- The links noted as failed after a retraining of `link`. -/
def Boardwalk.noted (w : Boardwalk) (link : Nat) (ok : Bool) : List Nat :=
  let rest := w.retried.filter fun l => decide (l ≠ link)
  if ok then rest else rest ++ [link]

theorem mem_noted_self (w : Boardwalk) (link : Nat) (ok : Bool) : link ∈ w.noted link ok ↔ ok = false := by
  cases ok <;> simp [Boardwalk.noted]

theorem mem_noted_ne (w : Boardwalk) {link l : Nat} (ok : Bool) (h : l ≠ link) : l ∈ w.noted link ok ↔ l ∈ w.retried := by
  cases ok <;> simp [Boardwalk.noted, h]

theorem exec_linkRetrain (link : Fin 18) (ok : Bool) (s : State) :
    exec (.linkRetrain link ok) s =
      .next { s with body := { s.body with bw.retried := s.body.bw.noted link.val ok } } := rfl

/-! ### Halting contexts -/

theorem mem_resident {b : Body} {k : Nat} : k ∈ b.resident ↔ k < 64 ∧ b.getF (.hmCtxStat k) Fld.hmCtxStatState ≠ 3 := by
  simp [Body.resident]

/-- The contexts of some slots become halted: STATE 1. -/
def Body.haltSlots (b : Body) (ks : List Nat) : Body :=
  ks.foldl (fun b k => b.setF (.hmCtxStat k) Fld.hmCtxStatState 1) b

theorem ctxState_setF_self (b : Body) {k : Nat} (hk : k < 64) :
    (b.setF (.hmCtxStat k) Fld.hmCtxStatState 1).getF (.hmCtxStat k) Fld.hmCtxStatState = 1 :=
  Body.getF_setF_self b 1 (decide_eq_true hk) (by simp [Reg.stored]) (by decide) (by decide)

/-- Halting one slot leaves every halted slot halted. -/
theorem ctxHalted_setF {b : Body} {k : Nat} (hk : k < 64) (j : Nat)
    (h : b.getF (.hmCtxStat k) Fld.hmCtxStatState = 1) :
    (b.setF (.hmCtxStat j) Fld.hmCtxStatState 1).getF (.hmCtxStat k) Fld.hmCtxStatState = 1 := by
  by_cases hjk : k = j
  · subst hjk
    exact ctxState_setF_self b hk
  · have haddr : (Reg.hmCtxStat k).addr ≠ (Reg.hmCtxStat j).addr := by simp only [Reg.addr]; omega
    rw [Body.getF_setF_ne b _ _ _ haddr, h]

theorem haltSlots_ctxState (b : Body) {ks : List Nat} {k : Nat} (hk : k < 64) (hmem : k ∈ ks) :
    (b.haltSlots ks).getF (.hmCtxStat k) Fld.hmCtxStatState = 1 := by
  obtain ⟨before, after, rfl⟩ := List.append_of_mem hmem
  rw [Body.haltSlots, List.foldl_append, List.foldl_cons]
  exact foldl_inv (fun b : Body => b.getF (.hmCtxStat k) Fld.hmCtxStatState = 1) _ after _ (ctxState_setF_self _ hk)
    fun _ j h => ctxHalted_setF hk j h

/-! ### The loss of a link -/

theorem exec_linkLost_of_not_retried {link : Fin 18} {s : State} (h : link.val ∉ s.body.bw.retried) (retries : Nat) :
    exec (.linkLost link retries) s = .next s := by
  change execLinkLost link retries s = _
  rw [execLinkLost, State.onBody, if_pos h]

/-- After the commands have ended, the last two effects: the contexts that were resident are halted and a MOD reset is required. -/
theorem exec_linkLost_of_retried {link : Fin 18} {s : State} (h : link.val ∈ s.body.bw.retried) (retries : Nat) :
    ∃ b : Body, exec (.linkLost link retries) s =
      .next { s with body := { b.haltSlots s.body.resident with bw.modRequired := true } } := by
  change ∃ b : Body, execLinkLost link retries s = _
  rw [execLinkLost, State.onBody, if_neg (not_not_intro h)]
  exact ⟨_, rfl⟩

/-- Settles O9: a context resident when the link is lost is halted after its commands have ended, and the halts of others leave it so. -/
theorem lostLinkHaltsContexts : Obligations.LostLinkHaltsContexts := by
  intro s link
  refine ⟨fun ok => ?_, fun retries h => exec_linkLost_of_not_retried h retries, fun retries h => ?_⟩
  · exact ⟨_, exec_linkRetrain link ok s, mem_noted_self s.body.bw link.val ok, fun l hl => mem_noted_ne s.body.bw ok hl,
      rfl, rfl, rfl, sameBytes_of rfl rfl rfl⟩
  · obtain ⟨b, hexec⟩ := exec_linkLost_of_retried h retries
    refine ⟨_, hexec, rfl, rfl, fun k hk hres => ?_⟩
    exact haltSlots_ctxState b hk (mem_resident.2 ⟨hk, hres⟩)

end Sys2Proof.Machine
end

section
/-! PROOFS. The ramp of a Truss and its gating (R82, R84): the two fields of BR_TRUSS_STAT that a ramp moves, and the ramp-down a
Berth notes beside its registers. -/

namespace Sys2Proof.Machine

/-! ### GATED and RAMP_STEP of one Truss -/

section
variable (b : Body) (g : Fin 200) (v : Nat)

theorem trussStat_ok : (Reg.brTrussStat g).ok = true := decide_eq_true g.isLt

theorem trussStat_stored (k : Nat) : (Reg.brTrussStat k).stored := by simp [Reg.stored]

theorem gated_setF_gated : (b.setF (.brTrussStat g) Fld.brTrussStatGated v).getF (.brTrussStat g) Fld.brTrussStatGated = v % 2 :=
  Body.getF_setF_self b v (trussStat_ok g) (trussStat_stored g) (by decide) (by decide)

theorem gated_setF_rampStep :
    (b.setF (.brTrussStat g) Fld.brTrussStatRampStep v).getF (.brTrussStat g) Fld.brTrussStatGated =
      b.getF (.brTrussStat g) Fld.brTrussStatGated :=
  Body.getF_setF_apart b v (trussStat_ok g) (trussStat_stored g) (by decide) (by decide) (by decide) (by decide)

theorem rampStep_setF_rampStep : (b.setF (.brTrussStat g) Fld.brTrussStatRampStep v).rampStep g = v % 32 :=
  Body.getF_setF_self b v (trussStat_ok g) (trussStat_stored g) (by decide) (by decide)

theorem rampStep_setF_gated : (b.setF (.brTrussStat g) Fld.brTrussStatGated v).rampStep g = b.rampStep g :=
  Body.getF_setF_apart b v (trussStat_ok g) (trussStat_stored g) (by decide) (by decide) (by decide) (by decide)

/-- RAMP_STEP is a field of five bits. -/
theorem rampStep_lt (k : Nat) : b.rampStep k < 32 := Nat.mod_lt _ (by decide)

end

/-! ### The Berth beside its registers -/

theorem Body.berth_updBerth_self (b : Body) (g : Nat) (f : Berth → Berth) : (b.updBerth g f).berth g = f (b.berth g) :=
  SMap.get_upd_self b.berths {} g f

theorem Body.berth_setF (b : Body) (r : Reg) (f : Fld) (v g : Nat) : (b.setF r f v).berth g = b.berth g := by
  rw [Body.berth, Body.setF_berths, Body.berth]

theorem Body.rampStep_updBerth (b : Body) (h : Nat) (f : Berth → Berth) (g : Nat) : (b.updBerth h f).rampStep g = b.rampStep g :=
  Body.updBerth_getF b h f _ _

/-! ### What a ramp leaves unchanged -/

/-- No byte, and of the registers at most BR_TRUSS_STAT of Berth `g`, is not as it was. -/
def OnlyTrussStat (b t : Body) (g : Nat) : Prop := SameBytes b t ∧ SameRegsBut b t [(Reg.brTrussStat g).addr]

theorem OnlyTrussStat.refl (b : Body) (g : Nat) : OnlyTrussStat b b g := ⟨fun _ => rfl, fun _ _ _ => rfl⟩

theorem OnlyTrussStat.setF {b t : Body} {g : Nat} (h : OnlyTrussStat b t g) (f : Fld) (v : Nat) :
    OnlyTrussStat b (t.setF (.brTrussStat g) f v) g := by
  obtain ⟨hbytes, hregs⟩ := h
  refine ⟨hbytes.trans (sameBytes_of (by simp) (by simp) (by simp)), fun r hn hr => ?_⟩
  rw [Body.reg_setF_ne t f v (List.ne_of_not_mem_cons hr), hregs r hn hr]

theorem OnlyTrussStat.updBerth {b t : Body} {g : Nat} (h : OnlyTrussStat b t g) (f : Berth → Berth) :
    OnlyTrussStat b (t.updBerth g f) g := by
  obtain ⟨hbytes, hregs⟩ := h
  exact ⟨hbytes.trans (sameBytes_of rfl rfl rfl), fun r hn hr => (Body.updBerth_reg t g f r).trans (hregs r hn hr)⟩

/-! ### The outcomes of RAMP_STEP -/

theorem flag_eq_false_iff {b : Body} {r : Reg} {f : Fld} : b.flag r f = false ↔ b.getF r f = 0 := by
  rw [Body.flag, decide_eq_false_iff_not, not_not]

/-- A body after the last step of a ramp-down: RAMP_STEP one lower, GATED set, no ramp-down noted. -/
def Body.rampDownEnd (b : Body) (g : Nat) : Body :=
  ((b.setF (.brTrussStat g) Fld.brTrussStatRampStep (b.rampStep g - 1)).setF (.brTrussStat g) Fld.brTrussStatGated 1).updBerth g
    fun x => { x with down := false }

section
variable {s : State} {g : Fin 200}

theorem exec_rampStep_downEnd (hdown : (s.body.berth g).down = true) (hk : s.body.rampStep g ≤ 1) :
    exec (.rampStep g) s = .next { s with body := s.body.rampDownEnd g } := by
  change execRampStep g s = _
  simp only [execRampStep, State.onBody, if_pos hdown, if_pos hk, Body.rampDownEnd]

theorem exec_rampStep_down (hdown : (s.body.berth g).down = true) (hk : 1 < s.body.rampStep g) :
    exec (.rampStep g) s =
      .next { s with body := s.body.setF (.brTrussStat g) Fld.brTrussStatRampStep (s.body.rampStep g - 1) } := by
  change execRampStep g s = _
  simp only [execRampStep, State.onBody, if_pos hdown, if_neg (Nat.not_le.2 hk)]

theorem exec_rampStep_not_down (hdown : (s.body.berth g).down = false) :
    exec (.rampStep g) s = .next { s with
      body := (if s.body.getF (.brTrussStat g) Fld.brTrussStatGated = 0 ∧ s.body.rampStep g < s.body.rampSteps g
        then s.body.setF (.brTrussStat g) Fld.brTrussStatRampStep (s.body.rampStep g + 1) else s.body) } := by
  change execRampStep g s = _
  simp only [execRampStep, State.onBody, hdown, Bool.not_eq_true, flag_eq_false_iff, Bool.false_eq_true, if_false]

/-- A step of a ramp-down takes one from RAMP_STEP; the step from 1 or 0 ends the ramp-down, gated. -/
theorem rampStep_of_down (hdown : (s.body.berth g).down = true) :
    Gives (.rampStep g) s fun t => OnlyTrussStat s.body t g ∧ t.rampStep g = s.body.rampStep g - 1 ∧
      (s.body.rampStep g ≤ 1 → t.getF (.brTrussStat g) Fld.brTrussStatGated = 1 ∧ (t.berth g).down = false) ∧
      (1 < s.body.rampStep g → t.getF (.brTrussStat g) Fld.brTrussStatGated =
        s.body.getF (.brTrussStat g) Fld.brTrussStatGated ∧ (t.berth g).down = true) := by
  have hfits : (s.body.rampStep g - 1) % 32 = s.body.rampStep g - 1 :=
    Nat.mod_eq_of_lt (Nat.lt_of_le_of_lt (Nat.sub_le _ _) (rampStep_lt s.body g))
  rcases Nat.lt_or_ge 1 (s.body.rampStep g) with hk | hk
  · refine ⟨_, exec_rampStep_down hdown hk, rfl, (OnlyTrussStat.refl s.body g).setF _ _, ?_, fun h => absurd h (Nat.not_le.2 hk),
      fun _ => ⟨gated_setF_rampStep s.body g _, ?_⟩⟩
    · rw [rampStep_setF_rampStep, hfits]
    · rw [Body.berth_setF, hdown]
  · refine ⟨_, exec_rampStep_downEnd hdown hk, rfl, (((OnlyTrussStat.refl s.body g).setF _ _).setF _ _).updBerth _, ?_,
      fun _ => ⟨?_, ?_⟩, fun h => absurd hk (Nat.not_le.2 h)⟩
    · rw [Body.rampDownEnd, Body.rampStep_updBerth, rampStep_setF_gated, rampStep_setF_rampStep, hfits]
    · rw [Body.rampDownEnd, Body.updBerth_getF, gated_setF_gated]
    · rw [Body.rampDownEnd, Body.berth_updBerth_self]

/-- With no ramp-down under way, a Truss that is not gated gets one column group more until all run. -/
theorem rampStep_of_not_down (hdown : (s.body.berth g).down = false) :
    Gives (.rampStep g) s fun t => OnlyTrussStat s.body t g ∧ (s.body.getF (.brTrussStat g) Fld.brTrussStatGated = 0 →
      t.rampStep g = if s.body.rampStep g < s.body.rampSteps g then (s.body.rampStep g + 1) % 32 else s.body.rampStep g) := by
  refine ⟨_, exec_rampStep_not_down hdown, rfl, ?_, fun hgated => ?_⟩
  · split
    · exact (OnlyTrussStat.refl s.body g).setF _ _
    · exact OnlyTrussStat.refl s.body g
  · simp only [hgated, true_and]
    split
    · exact rampStep_setF_rampStep s.body g _
    · rfl

/-! ### The outcomes of TRUSS_GATING -/

theorem exec_trussGating_of_busy_or_gated
    (h : s.body.trussIdle g = false ∨ s.body.getF (.brTrussStat g) Fld.brTrussStatGated ≠ 0) :
    exec (.trussGating g) s = .next s := by
  change execTrussGating g s = _
  have hstays : ¬ s.body.trussIdle g = true ∨ s.body.flag (.brTrussStat g) Fld.brTrussStatGated = true :=
    h.imp Bool.eq_false_iff.mp decide_eq_true
  simp only [execTrussGating, State.onBody, if_pos hstays]

theorem exec_trussGating_of_idle (hidle : s.body.trussIdle g = true)
    (hgated : s.body.getF (.brTrussStat g) Fld.brTrussStatGated = 0) :
    exec (.trussGating g) s = .next { s with
      body := (if s.body.getF (.brRampCtl g) Fld.brRampCtlRampDown ≠ 0 ∧ 0 < s.body.rampStep g
        then s.body.updBerth g fun x => { x with down := true }
        else (s.body.setF (.brTrussStat g) Fld.brTrussStatGated 1).setF (.brTrussStat g) Fld.brTrussStatRampStep 0) } := by
  change execTrussGating g s = _
  simp only [execTrussGating, State.onBody, hidle, hgated, Body.flag, decide_eq_true_eq, ne_eq, not_true_eq_false, or_self,
    if_false, gt_iff_lt]

/-- An idle Truss that is not gated begins its ramp-down, or is gated at once where it has none to run. -/
theorem trussGating_of_idle (hidle : s.body.trussIdle g = true)
    (hgated : s.body.getF (.brTrussStat g) Fld.brTrussStatGated = 0) :
    Gives (.trussGating g) s fun t => OnlyTrussStat s.body t g ∧
      if s.body.getF (.brRampCtl g) Fld.brRampCtlRampDown ≠ 0 ∧ 0 < s.body.rampStep g
      then (t.berth g).down = true ∧ t.regs = s.body.regs
      else t.getF (.brTrussStat g) Fld.brTrussStatGated = 1 ∧ t.rampStep g = 0 := by
  refine ⟨_, exec_trussGating_of_idle hidle hgated, rfl, ?_⟩
  split
  · exact ⟨(OnlyTrussStat.refl s.body g).updBerth _, by rw [Body.berth_updBerth_self], rfl⟩
  · refine ⟨((OnlyTrussStat.refl s.body g).setF _ _).setF _ _, ?_, rampStep_setF_rampStep _ g 0⟩
    rw [gated_setF_rampStep, gated_setF_gated]

end

/-- Settles O10: RAMP_STEP by whether a ramp-down is under way, TRUSS_GATING by whether the Truss is idle and not gated. -/
theorem trussRampAndGating : Obligations.TrussRampAndGating := by
  intro s g
  constructor
  · cases hdown : (s.body.berth g).down with
    | true =>
      obtain ⟨t, hexec, hfuse, ⟨hbytes, hregs⟩, heffect⟩ := rampStep_of_down hdown
      exact ⟨t, hexec, hfuse, hbytes, hregs, nofun, fun _ => heffect⟩
    | false =>
      obtain ⟨t, hexec, hfuse, ⟨hbytes, hregs⟩, heffect⟩ := rampStep_of_not_down hdown
      exact ⟨t, hexec, hfuse, hbytes, hregs, fun _ => heffect, nofun⟩
  · by_cases hrest : s.body.trussIdle g = false ∨ s.body.getF (.brTrussStat g) Fld.brTrussStatGated ≠ 0
    · obtain ⟨hbytes, hregs⟩ := OnlyTrussStat.refl s.body g
      refine ⟨s, exec_trussGating_of_busy_or_gated hrest, rfl, hbytes, hregs, fun _ => rfl, fun hidle hgated => ?_⟩
      exact absurd hrest (by simp [hidle, hgated])
    · obtain ⟨hidle, hgated⟩ : s.body.trussIdle g = true ∧ s.body.getF (.brTrussStat g) Fld.brTrussStatGated = 0 := by
        simpa using hrest
      obtain ⟨t, hexec, hfuse, ⟨hbytes, hregs⟩, heffect⟩ := trussGating_of_idle hidle hgated
      exact ⟨t, hexec, hfuse, hbytes, hregs, fun h => absurd h hrest, fun _ _ => heffect⟩

end Sys2Proof.Machine
end

section
/-! PROOFS. Before a command's end: what counting its clamps leaves to its checks (R110, R426), and what its end then shows (R289). -/

namespace Sys2Proof.Machine

/-! ### What the checks of a handle, an access and a binding read -/

/-- A register that those checks read: powered regions, tier channels, read-only flash, a context's partition. -/
def Reg.checked : Reg → Prop
  | .mtCfg | .mtFlashStat | .mtHbmMapout _ | .brHoldPwr _ | .qyShedPwr _ => True
  | .hmCtxStat k => k < 64
  | _ => False

/-- Whatever those checks read is in `t` as it is in `b`. -/
structure SameChecks (b t : Body) : Prop where
  regs : ∀ q : Reg, q.checked → t.reg q = b.reg q
  framing : t.framing = b.framing
  boot : t.boot = b.boot
  st : t.st = b.st
  crates : t.crates = b.crates

namespace SameChecks

variable {b t : Body} (h : SameChecks b t)
include h

theorem getF {q : Reg} (hq : q.checked) (f : Fld) : t.getF q f = b.getF q f := by
  rw [Body.getF, Body.getF, h.regs q hq]

theorem resolve (slot x : Nat) : t.resolve slot x = b.resolve slot x := by
  unfold Body.resolve Body.entry Body.unbinding
  rw [h.st]

theorem placeOf (a : Nat) : t.placeOf a = b.placeOf a := by
  have hchannels : ∀ q, t.quayChannels q = b.quayChannels q := fun q => by
    simp only [Body.quayChannels, h.getF (q := .mtCfg) trivial, h.regs (.mtHbmMapout _) trivial]
  simp only [Body.placeOf, hchannels, h.getF (q := .mtCfg) trivial, h.boot]

theorem addrOk (a : Nat) : t.addrOk a = b.addrOk a := by
  simp only [Body.addrOk, Body.regionReady, h.placeOf, h.regs (.brHoldPwr _) trivial, h.regs (.qyShedPwr _) trivial]

theorem rangeOk (a n : Nat) : t.rangeOk a n = b.rangeOk a n := by
  simp only [Body.rangeOk, h.placeOf, h.addrOk]

theorem accessOk (e : Entry) (off n : Nat) (write : Bool) : t.accessOk e off n write = b.accessOk e off n write := by
  simp only [Body.accessOk, Body.flashOk, h.rangeOk, h.getF (q := .mtFlashStat) trivial]

theorem partOfSlot (slot : Nat) : t.partOfSlot slot = b.partOfSlot slot := by
  unfold Body.partOfSlot
  split
  · rfl
  · rename_i hslot
    rw [h.getF (q := .hmCtxStat slot) (Nat.not_le.1 hslot)]

theorem inWindow (slot place a n : Nat) : t.inWindow slot place a n = b.inWindow slot place a n := by
  unfold Body.inWindow Body.winOf
  rw [h.partOfSlot, h.rangeOk, h.getF (q := .mtCfg) trivial, h.framing]

theorem bindOk (slot kind : Nat) (e : Entry) : t.bindOk slot kind e = b.bindOk slot kind e := by
  unfold Body.bindOk Body.allotOf
  rw [h.placeOf, h.placeOf, h.inWindow, h.crates, h.st]

theorem blockOk (e : Entry) (k : Block) (write : Bool) : t.blockOk e k write = b.blockOk e k write := by
  simp only [Body.blockOk, h.accessOk]

theorem dmaArgs (fl : Flight) (x y : Nat) (ks : List Block) : t.dmaArgs fl x y ks = b.dmaArgs fl x y ks := by
  simp only [Body.dmaArgs, h.resolve, h.blockOk]

end SameChecks

/-! ### Counting clamps -/

/-- A register of those checks is neither the clamp tally nor a context's count of clamps. -/
theorem Reg.checked_addr {q : Reg} (hq : q.checked) {slot : Nat} (hslot : slot < 64) :
    q.addr ≠ Reg.hmClampTally.addr ∧ q.addr ≠ (Reg.hmCtxCnt slot 15).addr := by
  cases q <;> simp only [Reg.checked] at hq <;> simp only [Reg.addr] <;> omega

theorem reg_clampCmd_checked (b : Body) (fl : Flight) (n : Nat) {q : Reg} (hq : q.checked) :
    (b.clampCmd fl n).reg q = b.reg q := by
  have htally := (Reg.checked_addr hq (slot := 0) (by decide)).1
  unfold Body.clampCmd Body.count
  split
  · rename_i hslot
    rw [Body.reg_bump_ne _ _ _ (Reg.checked_addr hq hslot).2, Body.reg_clamps_ne _ _ _ _ htally]
  · exact Body.reg_clamps_ne _ _ _ _ htally

theorem sameChecks_clampCmd (b : Body) (fl : Flight) (n : Nat) : SameChecks b (b.clampCmd fl n) where
  regs _ hq := reg_clampCmd_checked b fl n hq
  framing := Body.clampCmd_framing b fl n
  boot := Body.clampCmd_boot b fl n
  st := Body.clampCmd_st b fl n
  crates := Body.clampCmd_crates b fl n

/-! ### The end of a command that has left memory and registers alone -/

/-- No command has ended since, and every byte and every register reads as before, but for registers that take note. -/
def StillSame (b c : Body) : Prop := c.hm.ended = b.hm.ended ∧ SameBytes b c ∧ SameRegsBut b c []

theorem StillSame.refl (b : Body) : StillSame b b := ⟨rfl, fun _ => rfl, fun _ _ _ => rfl⟩

theorem StillSame.clampCmd {b c : Body} (h : StillSame b c) (fl : Flight) (n : Nat) : StillSame b (c.clampCmd fl n) := by
  obtain ⟨hended, hbytes, hregs⟩ := h
  refine ⟨by rw [Body.clampCmd_hm, hended], hbytes.trans (sameBytes_of (by simp) (by simp) (by simp)), fun q hq hl => ?_⟩
  rw [Body.reg_clampCmd c fl n hq, hregs q hq hl]

theorem StillSame.start {b c : Body} (h : StillSame b c) (fl : Flight) : StillSame b (c.start fl) := by
  obtain ⟨hended, hbytes, hregs⟩ := h
  exact ⟨hended, hbytes.trans (sameBytes_of rfl rfl rfl), fun q hq hl => (Body.start_reg c fl q).trans (hregs q hq hl)⟩

/-- What the Harbourmaster stores of the Manifest, the allotment and the Gangways is neither a register nor a byte. -/
theorem StillSame.store {b c : Body} (h : StillSame b c) (x : Store) : StillSame b { c with st := x } := by
  obtain ⟨hended, hbytes, hregs⟩ := h
  exact ⟨hended, hbytes.trans (sameBytes_of rfl rfl rfl), fun q hq hl => hregs q hq hl⟩

theorem StillSame.setEntry {b c : Body} (h : StillSame b c) (slot idx : Nat) (e : Entry) : StillSame b (c.setEntry slot idx e) :=
  h.store _

theorem StillSame.done {b c : Body} (h : StillSame b c) (fl : Flight) (r : Nat) : OnlyEnds b (c.done fl r) fl 0 r [] := by
  obtain ⟨hended, hbytes, hregs⟩ := h
  refine ⟨Body.endsWith_done fl r hended, hbytes.trans (sameBytes_of (by simp) (by simp) (by simp)), fun q hq hl => ?_⟩
  rw [Body.reg_done c fl r hq, hregs q hq hl]

theorem StillSame.fail {b c : Body} (h : StillSame b c) (fl : Flight) (st d0 d1 : Nat) :
    OnlyEnds b (c.fail fl st d0 d1) fl st 0 [] := by
  obtain ⟨hended, hbytes, hregs⟩ := h
  refine ⟨Body.endsWith_fail fl st d0 d1 hended, hbytes.trans (sameBytes_of (by simp) (by simp) (by simp)), fun q hq hl => ?_⟩
  rw [Body.reg_fail c fl st d0 d1 hq, hregs q hq hl]

end Sys2Proof.Machine
end

section
/-! PROOFS. Binding and unbinding a Manifest entry (R107, R111, R112): what resolves a handle, MF_BIND of an invalid entry, and an
unbind that nothing holds up. -/

namespace Sys2Proof.Machine

/-! ### Entries and the handles that resolve to them -/

theorem Body.entry_setEntry_self (b : Body) (slot idx : Nat) (e : Entry) : (b.setEntry slot idx e).entry slot idx = e :=
  SMap.get_set_self b.st.manifest {} e (slot * 1024 + idx)

theorem Body.manifest_setEntry_ne (b : Body) {slot idx n : Nat} (e : Entry) (h : n ≠ slot * 1024 + idx) :
    SMap.get (b.setEntry slot idx e).st.manifest {} n = SMap.get b.st.manifest {} n :=
  SMap.get_set_ne b.st.manifest {} {} e h

theorem Body.entry_congr {b c : Body} (h : c.st = b.st) (slot idx : Nat) : c.entry slot idx = b.entry slot idx := by
  rw [Body.entry, h, Body.entry]

theorem Body.unbinding_congr {b c : Body} (h : c.st = b.st) (slot idx : Nat) : c.unbinding slot idx = b.unbinding slot idx := by
  rw [Body.unbinding, h, Body.unbinding]

theorem Body.resolve_of_invalid {b : Body} {slot h : Nat} (hv : (b.entry slot (h / 65536)).valid = false) :
    b.resolve slot h = none := by
  simp [Body.resolve, hv]

theorem Body.resolve_of_valid {b : Body} {slot h : Nat} {e : Entry} (he : b.entry slot (h / 65536) = e) (hv : e.valid = true)
    (hgen : e.gen = h % 65536) (hne : h % 65536 ≠ 0) (hu : b.unbinding slot (h / 65536) = false) :
    b.resolve slot h = some e := by
  simp [Body.resolve, he, hv, hgen, hne, hu]

theorem Body.entry_of_resolve {b : Body} {slot h : Nat} {e : Entry} (hr : b.resolve slot h = some e) :
    b.entry slot (h / 65536) = e ∧ e.valid = true := by
  unfold Body.resolve at hr
  obtain ⟨hc, he⟩ := Option.ite_none_right_eq_some.1 hr
  exact ⟨Option.some.inj he, Option.some.inj he ▸ hc.1⟩

theorem bindEntry_valid (c : Cmd) : (bindEntry c).1.valid = true := rfl

/-! ### MF_BIND -/

section
variable {s : State} {c : Cmd} {fl : Flight}

theorem exec_mfBind_of_free {idx : Nat} (h : Dispatched s.body c 0x38 fl)
    (hok : s.body.bindOk fl.slot (c.f 2 53 52) (bindEntry c).1 = true) (hidx : s.body.bindIndex fl.slot c = some idx)
    (hv : (s.body.entry fl.slot idx).valid = false) (hu : s.body.unbinding fl.slot idx = false) :
    exec (.mfBind c) s = .next { s with body := (s.body.clampCmd fl (bindEntry c).2).bindNow fl idx } := by
  have hst := Body.clampCmd_st s.body fl (bindEntry c).2
  have hidx' : (s.body.clampCmd fl (bindEntry c).2).bindIndex fl.slot c = some idx := by
    unfold Body.bindIndex Body.entry Body.unbinding at hidx ⊢
    rw [hst, hidx]
  change execMfBind c s = _
  simp only [execMfBind, State.onBody, Body.onCmd_dispatched h, (sameChecks_clampCmd s.body fl _).bindOk, hok, hidx',
    Body.entry_congr hst, Body.unbinding_congr hst, hv, hu, not_true_eq_false, Bool.false_eq_true, or_self, if_false]

theorem exec_mfBind_of_refused (h : Dispatched s.body c 0x38 fl)
    (hok : s.body.bindOk fl.slot (c.f 2 53 52) (bindEntry c).1 = false) :
    exec (.mfBind c) s = .next { s with body := (s.body.clampCmd fl (bindEntry c).2).fail fl 0x11 } := by
  change execMfBind c s = _
  simp only [execMfBind, State.onBody, Body.onCmd_dispatched h, (sameChecks_clampCmd s.body fl _).bindOk, hok,
    Bool.false_eq_true, not_false_eq_true, if_true]

end

/-- Binding changes its entry alone: the entry takes the fields given and keeps its GEN, whose handle is the result. -/
theorem bindNow_spec {b c : Body} (h : StillSame b c) (hst : c.st = b.st) (fl : Flight) (idx : Nat) :
    OnlyEnds b (c.bindNow fl idx) fl 0 (idx * 65536 + (b.entry fl.slot idx).gen) [] ∧
    (c.bindNow fl idx).entry fl.slot idx = { (bindEntry fl.cmd).1 with gen := (b.entry fl.slot idx).gen } ∧
    (c.bindNow fl idx).st.ents = b.st.ents ∧
    ∀ n, n ≠ fl.slot * 1024 + idx → SMap.get (c.bindNow fl idx).st.manifest {} n = SMap.get b.st.manifest {} n := by
  unfold Body.bindNow
  simp only [Body.entry_congr hst]
  refine ⟨(h.setEntry _ _ _).done fl _, ?_, ?_, fun n hn => ?_⟩
  · rw [Body.entry_congr (Body.done_st _ _ _), Body.entry_setEntry_self]
  · rw [Body.done_st, ← hst]; rfl
  · rw [Body.done_st, Body.manifest_setEntry_ne c _ hn, hst]

/-- Settles O12: the clamps counted leave the checks alone, and the entry is stored with the GEN the handle carries. -/
theorem bindMakesHandle : Obligations.BindMakesHandle := by
  intro s c fl hd
  have hst := Body.clampCmd_st s.body fl (bindEntry c).2
  have hsame := (StillSame.refl s.body).clampCmd fl (bindEntry c).2
  refine ⟨fun idx hok hidx hv hu => ?_, fun hok => ?_⟩
  · obtain ⟨⟨hends, hbytes, hregs⟩, hentry, hents, hother⟩ := bindNow_spec hsame hst fl idx
    rw [hd.cmd] at hentry
    refine ⟨_, exec_mfBind_of_free hd hok hidx hv hu, rfl, hbytes, hregs, hends, hentry, hother, fun hpos hlt => ?_⟩
    have hindex : (idx * 65536 + (s.body.entry fl.slot idx).gen) / 65536 = idx := by omega
    have hgen : (idx * 65536 + (s.body.entry fl.slot idx).gen) % 65536 = (s.body.entry fl.slot idx).gen := by omega
    refine Body.resolve_of_valid (by rw [hindex]) ?_ ?_ ?_ ?_
    · rw [hentry]; exact bindEntry_valid c
    · rw [hentry, hgen]
    · omega
    · rw [hindex, Body.unbinding, hents]; exact hu
  · obtain ⟨hends, hbytes, hregs⟩ := hsame.fail fl 0x11 0 0
    exact ⟨_, exec_mfBind_of_refused hd hok, rfl, hbytes, hregs, hends, (Body.fail_st _ _ _ _ _).trans hst⟩

/-! ### An unbind that takes effect -/

/-- An invalidated entry keeps nothing but its next GEN, so no handle of its index resolves; no other entry changes. -/
theorem invalidate_done_spec {b c : Body} (h : StillSame b c) (fl : Flight) (slot idx : Nat) :
    let t := (c.invalidate slot idx).done fl
    OnlyEnds b t fl 0 0 [] ∧ t.entry slot idx = { gen := nextGen (c.entry slot idx).gen } ∧
      (∀ x : Nat, x / 65536 = idx → t.resolve slot x = none) ∧ t.st.ents = c.st.ents ∧
      ∀ n, n ≠ slot * 1024 + idx → SMap.get t.st.manifest {} n = SMap.get c.st.manifest {} n := by
  have hentry : ((c.invalidate slot idx).done fl).entry slot idx = { gen := nextGen (c.entry slot idx).gen } := by
    rw [Body.entry_congr (Body.done_st _ _ _), Body.invalidate, Body.entry_setEntry_self]
  refine ⟨(h.setEntry _ _ _).done fl 0, hentry, fun x hx => Body.resolve_of_invalid ?_, ?_, fun n hn => ?_⟩
  · rw [hx, hentry]
  · rw [Body.done_st]; rfl
  · rw [Body.done_st, Body.invalidate, Body.manifest_setEntry_ne c _ hn]

theorem entStep_of_busy {b : Body} {slot idx : Nat} (h : b.entryBusy slot idx = true) : b.entStep slot idx = b := by
  rw [Body.entStep, if_pos h]

/-- The Manifest's waiting unbinds and binds become those listed. -/
def Body.setEnts (b : Body) (l : List (Flight × Nat)) : Body := { b with st.ents := l }

/-- The only unbind that waits, for an entry that nothing uses, takes effect. -/
theorem entStep_of_unbind {b : Body} {fl : Flight} {idx : Nat} (hbusy : b.entryBusy fl.slot idx = false)
    (hents : b.st.ents = [(fl, idx)]) (hopc : fl.opc = 0x39) (hv : (b.entry fl.slot idx).valid = true) :
    b.entStep fl.slot idx = ((b.setEnts []).invalidate fl.slot idx).done fl := by
  have hv' : (Body.entry { b with st.ents := [] } fl.slot idx).valid = true := hv
  simp [Body.entStep, hbusy, hents, hopc, hv', Body.setEnts]

/-! ### MF_UNBIND -/

theorem gwShutWhere_of_no_gangway {b : Body} (h : b.st.gws = []) (p : Gangway → Bool) : b.gwShutWhere p = b := by
  refine foldl_inv (fun c : Body => c = b) _ _ b rfl fun c g hc => ?_
  subst hc
  simp [h, SMap.get]

/-- A command that begins with no entry resolved keeps no entry from being unbound. -/
theorem entryBusy_start {b : Body} {fl : Flight} (hfl : fl.handles = []) (slot idx : Nat) (h : b.entryBusy slot idx = false) :
    (b.start fl).entryBusy slot idx = false := by
  simp only [Body.entryBusy, Bool.or_eq_false_iff, List.any_eq_false] at h ⊢
  obtain ⟨hflights, hgws⟩ := h
  refine ⟨fun y hy => ?_, hgws⟩
  obtain ⟨x, hx, rfl⟩ := List.mem_map.1 hy
  by_cases huid : x.uid = fl.uid
  · simp [huid, hfl]
  · simpa only [if_neg huid] using hflights x hx

section
variable {s : State} {c : Cmd} {fl : Flight}

theorem exec_mfUnbind_of_stale (h : Dispatched s.body c 0x39 fl) (hr : s.body.resolve fl.slot (c.h 1) = none) :
    exec (.mfUnbind c) s = .next { s with body := s.body.fail fl 0x12 } := by
  change execMfUnbind c s = _
  simp only [execMfUnbind, State.onBody, Body.onCmd_dispatched h, hr]

/-- An unbind that nothing stands before, of an entry that nothing uses, takes effect as it begins. -/
theorem exec_mfUnbind_of_unused {e : Entry} (h : Dispatched s.body c 0x39 fl)
    (hr : s.body.resolve fl.slot (c.h 1) = some e) (hgws : s.body.st.gws = []) (hents : s.body.st.ents = [])
    (hbusy : s.body.entryBusy fl.slot (c.h 1 / 65536) = false) (hfl : fl.handles = []) :
    exec (.mfUnbind c) s = .next { s with
      body := (((s.body.start fl).setEnts []).invalidate fl.slot (c.h 1 / 65536)).done fl } := by
  obtain ⟨hentry, hv⟩ := Body.entry_of_resolve hr
  have hstep := entStep_of_unbind (b := (s.body.start fl).setEnts [(fl, c.h 1 / 65536)]) (entryBusy_start hfl _ _ hbusy) rfl
    h.opc (hentry ▸ hv : (s.body.entry fl.slot (c.h 1 / 65536)).valid = true)
  have hfirst : s.body.unbinding fl.slot (c.h 1 / 65536) = false := by simp [Body.unbinding, hents]
  change execMfUnbind c s = _
  simp only [execMfUnbind, State.onBody, Body.onCmd_dispatched h, hr, Body.entAccept, hfirst, gwShutWhere_of_no_gangway hgws,
    Body.start_st, hents, List.nil_append, Bool.not_false, if_true]
  exact congrArg (fun b => Host.Outcome.next { s with body := b }) hstep

end

theorem exec_unbindTakesEffect (slot : Fin 65) (idx : Fin 1024) (s : State) :
    exec (.unbindTakesEffect slot idx) s = .next { s with body := s.body.entStep slot idx } := rfl

/-- Settles O13: at once or after a wait, the unbind is the only one of its entry and invalidates it. -/
theorem unbindTakesEffect : Obligations.UnbindTakesEffect := by
  intro s
  refine ⟨fun c fl hd hr => ?_, fun c fl e hd hr hgws hents hbusy hfl => ?_, fun slot idx hbusy => ?_,
    fun slot idx fl hbusy hents hslot hopc hv => ?_⟩
  · obtain ⟨hends, hbytes, hregs⟩ := (StillSame.refl s.body).fail fl 0x12 0 0
    exact ⟨_, exec_mfUnbind_of_stale hd hr, hends, Body.fail_st _ _ _ _ _, rfl, hbytes, hregs⟩
  · obtain ⟨hentry, -⟩ := Body.entry_of_resolve hr
    obtain ⟨⟨hends, hbytes, hregs⟩, hgen, hstale, -, hother⟩ :=
      invalidate_done_spec (c := (s.body.start fl).setEnts []) (((StillSame.refl s.body).start fl).store _) fl fl.slot
        (c.h 1 / 65536)
    exact ⟨_, exec_mfUnbind_of_unused hd hr hgws hents hbusy hfl, hends, rfl, hbytes, hregs, hentry ▸ hgen, hstale, hother⟩
  · rw [exec_unbindTakesEffect, entStep_of_busy hbusy]
  · rw [← hslot] at hbusy hv ⊢
    have hexec := exec_unbindTakesEffect slot idx s
    rw [← hslot, entStep_of_unbind hbusy hents hopc hv] at hexec
    obtain ⟨⟨hends, hbytes, hregs⟩, hgen, hstale, hents', -⟩ :=
      invalidate_done_spec (c := s.body.setEnts []) ((StillSame.refl s.body).store _) fl fl.slot idx
    exact ⟨_, hexec, hends, rfl, hbytes, hregs, hents', hgen, hstale⟩

end Sys2Proof.Machine
end

section
/-! PROOFS. Allotment, zeroing and power of slices and segments (R102, R103, R105): whose a region is after MF_ALLOT, and what the
bytes of a region read as after its zeroing and its power-on. -/

namespace Sys2Proof.Machine

/-! ### Whose a region is -/

theorem SMap.find_of_le_bound {α : Type} {m : SMap α} {k a : Nat} (h : SMap.rising (some k) m = true) (hle : a ≤ k) :
    SMap.find m a = none := by
  induction m generalizing k with
  | nil => rfl
  | cons p r ih =>
    obtain ⟨j, v⟩ := p
    simp only [SMap.rising, Bool.and_eq_true, decide_eq_true_eq] at h
    rw [SMap.find, if_neg (by omega)]
    exact ih h.2 (by omega)

/-- In a map whose keys rise, dropping pairs by their values drops a key just where its own value is dropped. -/
theorem SMap.find_filter_value {α : Type} {m : SMap α} {lo : Option Nat} (h : SMap.rising lo m = true) (q : α → Bool) (a : Nat) :
    SMap.find (m.filter fun p => q p.2) a = (SMap.find m a).filter q := by
  induction m generalizing lo with
  | nil => rfl
  | cons p r ih =>
    obtain ⟨k, v⟩ := p
    simp only [SMap.rising, Bool.and_eq_true] at h
    have htail := ih h.2
    cases hq : q v with
    | true =>
      rw [List.filter_cons_of_pos (by simpa using hq), SMap.find, SMap.find, htail]
      split
      · rw [Option.filter_some, if_pos hq]
      · rfl
    | false =>
      rw [List.filter_cons_of_neg (by simpa using hq), htail, SMap.find]
      split
      · rename_i hk
        rw [SMap.find_of_le_bound h.2 hk.ge, Option.filter_some, if_neg (Bool.eq_false_iff.1 hq)]
        rfl
      · rfl

/-- The slot's regions are taken from it. -/
def Body.allotDrop (b : Body) (slot : Nat) : Body := { b with st.allot := b.st.allot.filter fun p => decide (p.2 ≠ slot + 1) }

/-- The regions named are given to the slot. -/
def Body.allotGive (b : Body) (slot : Nat) (new : List Nat) : Body :=
  new.foldl (fun b r => { b with st.allot := SMap.set b.st.allot 0 r (slot + 1) }) b

theorem Body.setAllot_eq (b : Body) (slot : Nat) (new : List Nat) :
    b.setAllot slot new = ((b.allotDrop slot).allotGive slot new).zeroStart ((b.allotted slot).filter fun r => decide (r ∉ new)) := rfl

theorem Body.allotOf_congr {b c : Body} (h : c.st.allot = b.st.allot) (r : Nat) : c.allotOf r = b.allotOf r := by
  rw [Body.allotOf, h, Body.allotOf]

theorem allotOf_allotDrop {b : Body} (h : SMap.rising none b.st.allot = true) (slot r : Nat) :
    (b.allotDrop slot).allotOf r = if b.allotOf r = slot + 1 then 0 else b.allotOf r := by
  have hfind := SMap.find_filter_value h (fun v => decide (v ≠ slot + 1)) r
  have hbefore : b.allotOf r = (SMap.find b.st.allot r).getD 0 := rfl
  have hafter : (b.allotDrop slot).allotOf r = ((SMap.find b.st.allot r).filter fun v => decide (v ≠ slot + 1)).getD 0 :=
    congrArg (·.getD 0) hfind
  rw [hafter, hbefore]
  cases SMap.find b.st.allot r with
  | none => simp
  | some v =>
    rw [Option.filter_some]
    by_cases hv : v = slot + 1 <;> simp [hv]

theorem allotOf_allotGive (b : Body) (slot : Nat) (new : List Nat) (r : Nat) :
    (b.allotGive slot new).allotOf r = if r ∈ new then slot + 1 else b.allotOf r := by
  induction new generalizing b with
  | nil => rfl
  | cons x new ih =>
    rw [Body.allotGive, List.foldl_cons, ← Body.allotGive, ih]
    by_cases hx : r = x
    · subst hx
      simp [Body.allotOf]
    · simp only [List.mem_cons, hx, false_or, Body.allotOf, SMap.get_set_ne _ _ _ _ hx]

theorem allotOf_zeroStart (b : Body) (rs : List Nat) (r : Nat) : (b.zeroStart rs).allotOf r = b.allotOf r := by
  refine Body.allotOf_congr (foldl_keep (fun c => c.st.allot) _ rs b fun c x => ?_) r
  dsimp only
  split
  · rw [Body.loseRegion_st]
  · rfl

theorem allotOf_zeroAwait (b : Body) (fl : Flight) (rs : List Nat) (r : Nat) : (b.zeroAwait fl rs).allotOf r = b.allotOf r := by
  refine Body.allotOf_congr ?_ r
  unfold Body.zeroAwait
  dsimp only
  split
  · rw [Body.done_st]
  · rw [Body.start_st]

/-- After MF_ALLOT the regions named are the slot's, those it had beside them are no one's, and the others are whose they were. -/
theorem allotOf_setAllot {b : Body} (h : SMap.rising none b.st.allot = true) (slot : Nat) (new : List Nat) (r : Nat) :
    (b.setAllot slot new).allotOf r =
      if r ∈ new then slot + 1 else if b.allotOf r = slot + 1 then 0 else b.allotOf r := by
  rw [Body.setAllot_eq, allotOf_zeroStart, allotOf_allotGive, allotOf_allotDrop h]

/-! ### MF_ALLOT -/

/-- The slot may not be allotted a region: it lies outside its partition, or is another slot's (R102). -/
def Body.allotRefused (b : Body) (slot : Nat) (r : Nat) : Prop :=
  regionQuay r ∉ b.quaysOfSlot slot ∨ (b.allotOf r ≠ 0 ∧ b.allotOf r ≠ slot + 1)

section
variable {s : State} {c : Cmd} {rs : List (Fin 1780)} {fl : Flight}

theorem exec_mfAllot_of_refused {r : Fin 1780} (h : Dispatched s.body c 0x3A fl) (hr : r ∈ rs)
    (hbad : s.body.allotRefused fl.slot r) : exec (.mfAllot c rs) s = .next { s with body := s.body.fail fl 0x11 } := by
  have hany : ((rs.map (·.val)).any fun r => decide (regionQuay r ∉ s.body.quaysOfSlot fl.slot) ||
      decide (s.body.allotOf r ≠ 0 ∧ s.body.allotOf r ≠ fl.slot + 1)) = true := by
    simp only [List.any_eq_true, Bool.or_eq_true, decide_eq_true_eq]
    exact ⟨r, List.mem_map_of_mem hr, hbad⟩
  change execMfAllot c rs s = _
  simp only [execMfAllot, State.onBody, Body.onCmd_dispatched h, hany, if_true]

theorem exec_mfAllot_of_free (h : Dispatched s.body c 0x3A fl) (hok : ∀ r ∈ rs, ¬ s.body.allotRefused fl.slot r)
    (huse : ∀ r : Nat, s.body.inUse r = false) (hzero : s.body.st.zeroing = []) :
    exec (.mfAllot c rs) s = .next { s with
      body := (s.body.setAllot fl.slot (rs.map (·.val))).zeroAwait fl
        ((s.body.allotted fl.slot).filter fun r => decide (r ∉ rs.map (·.val))) } := by
  have hany : ((rs.map (·.val)).any fun r => decide (regionQuay r ∉ s.body.quaysOfSlot fl.slot) ||
      decide (s.body.allotOf r ≠ 0 ∧ s.body.allotOf r ≠ fl.slot + 1)) = false := by
    simp only [List.any_eq_false, Bool.or_eq_true, decide_eq_true_eq]
    intro x hx
    obtain ⟨r, hr, rfl⟩ := List.mem_map.1 hx
    exact hok r hr
  have hlost : ∀ l : List Nat, l.any s.body.inUse = false := fun l => List.any_eq_false.2 fun r _ => by simp [huse r]
  have hgained : ∀ l : List Nat, (l.any fun r => decide (r ∉ s.body.allotted fl.slot ∧ r ∈ s.body.st.zeroing)) = false :=
    fun l => List.any_eq_false.2 fun r _ => by simp [hzero]
  change execMfAllot c rs s = _
  simp only [execMfAllot, State.onBody, Body.onCmd_dispatched h, hany, hlost, hgained, Bool.or_self, Bool.false_eq_true, if_false]

end

/-! ### Bytes of a region that is zeroed or loses its contents -/

theorem find_setBg_self (b : Body) {r a : Nat} (code : Nat) (h : regionOf a = r) : SMap.find (b.setBg r code).mem a = none := by
  change SMap.find (b.mem.filter fun p => decide (regionOf p.1 ≠ r)) a = none
  induction b.mem with
  | nil => rfl
  | cons p m ih =>
    obtain ⟨k, v⟩ := p
    by_cases hk : regionOf k = r
    · rwa [List.filter_cons_of_neg (by simpa using hk)]
    · have hne : k ≠ a := fun e => hk (e ▸ h)
      rwa [List.filter_cons_of_pos (by simpa using hk), SMap.find, if_neg hne]

theorem codeAt_setBg_self (b : Body) {r a : Nat} (code : Nat) (h : regionOf a = r) : (b.setBg r code).codeAt a = code := by
  have hhaze : (b.setBg r code).haze.find? (fun x => decide (x.1 ≤ a ∧ a < x.1 + x.2.1 ∧ regionOf x.1 = regionOf a)) = none := by
    rw [List.find?_eq_none]
    intro x hx hd
    have hkept := (List.mem_filter.1 hx).2
    simp only [decide_eq_true_eq] at hkept hd
    exact hkept (hd.2.2.trans h)
  subst h
  simp only [Body.codeAt, hhaze]
  exact SMap.get_set_self _ _ _ _

/-- A region that loses its contents is undefined since a new epoch (R105, R342). -/
theorem byte_loseRegion (b : Body) {r a : Nat} (h : regionOf a = r) :
    (b.loseRegion r).byte a = Config.undefByte (b.epoch + 1) a := by
  have hsame : (b.loseRegion r).byte a = (b.setBg r (b.epoch + 2)).byte a := Body.byte_congr rfl rfl rfl a
  rw [hsame, Body.byte, find_setBg_self b _ h, codeAt_setBg_self b _ h]

theorem byte_loseRegion_ne (b : Body) {r a : Nat} (h : regionOf a ≠ r) : (b.loseRegion r).byte a = b.byte a :=
  (Body.byte_congr rfl rfl rfl a).trans (Body.byte_setBg_ne b (b.epoch + 2) h)

/-! ### ZEROING_COMPLETE -/

/-- The body after a region's zeroing, apart from the commands that waited for it alone. -/
def Body.zeroedRegion (b : Body) (r : Nat) : Body :=
  { b.zeroRegion r with
    st.zeroing := b.st.zeroing.filter fun x => decide (x ≠ r),
    st.zeroWait := (b.st.zeroWait.map fun p => (p.1, p.2.filter fun x => decide (x ≠ r))).filter fun p => decide (p.2 ≠ []) }

theorem zeroFinish_of_none_alone {b : Body} {r : Nat} (hz : r ∈ b.st.zeroing) (hready : b.regionReady r = true)
    (halone : ∀ p ∈ b.st.zeroWait, ∃ x ∈ p.2, x ≠ r) : b.zeroFinish r = (b.zeroedRegion r, []) := by
  have hnone : ((b.st.zeroWait.map fun p => (p.1, p.2.filter fun x => decide (x ≠ r))).filter fun p => decide (p.2 = [])) = [] := by
    simp only [List.filter_eq_nil_iff, List.mem_map, decide_eq_true_eq]
    rintro _ ⟨p, hp, rfl⟩ hnil
    obtain ⟨x, hx, hne⟩ := halone p hp
    exact List.filter_eq_nil_iff.1 hnil x hx (decide_eq_true hne)
  unfold Body.zeroFinish
  rw [if_pos ⟨hz, hready⟩]
  exact congrArg (fun l => (b.zeroedRegion r, l.map Prod.fst)) hnone

theorem exec_zeroingComplete (region : Fin 1780) (s : State) : exec (.zeroingComplete region) s = .next { s with
    body := (s.body.zeroFinish region).2.foldl Body.zeroed (s.body.zeroFinish region).1 } := rfl

/-! ### Power of a region -/

theorem testBit_putBits_one {n i : Nat} (hn : n < 2 ^ 64) (hi : i < 64) : (BitVec.ofNat 64 (putBits n i i 1)).toNat.testBit i = true := by
  have hbits : bits (putBits n i i 1) i i = 1 := by
    rw [bits_putBits_self (Nat.le_refl i), Nat.add_sub_cancel_left, pow_one]
  rw [BitVec.toNat_ofNat, Nat.mod_eq_of_lt (putBits_lt hn hi (Nat.le_refl i)), Nat.testBit_eq_decide_div_mod_eq, decide_eq_true_eq]
  rwa [bits, Nat.shiftRight_eq_div_pow, Nat.add_sub_cancel_left] at hbits

theorem bit_setReg_putBits_one (b : Body) {q : Reg} {i : Nat} (hq : q.ok = true) (hs : q.stored) (hi : i < 64) :
    ((b.setReg q (BitVec.ofNat 64 (putBits (b.reg q).toNat i i 1))).reg q).bit i = true := by
  rw [Body.reg_setReg_self b _ hq hs]
  exact testBit_putBits_one (b.reg q).isLt hi

theorem regionReady_setReady (b : Body) {r : Nat} (hr : r < 1780) : (b.setReady r true).regionReady r = true := by
  unfold Body.setReady Body.regionReady
  by_cases hhold : r < 1600
  · simp only [if_pos hhold, if_true]
    exact bit_setReg_putBits_one b (decide_eq_true (by omega)) (by simp [Reg.stored]) (by omega)
  · simp only [if_neg hhold, if_pos hr, if_true]
    exact bit_setReg_putBits_one b (decide_eq_true (by omega)) (by simp [Reg.stored]) (by omega)

theorem Body.regionReady_congr {b c : Body} (h : c.regs = b.regs) (r : Nat) : c.regionReady r = b.regionReady r := by
  unfold Body.regionReady
  rw [Body.reg_congr h, Body.reg_congr h]

theorem Body.setReady_st (b : Body) (r : Nat) (v : Bool) : (b.setReady r v).st = b.st := Body.setReg_st b _ _

theorem Body.setReady_epoch (b : Body) (r : Nat) (v : Bool) : (b.setReady r v).epoch = b.epoch := Body.setReg_epoch b _ _

/-- The body after a slice or segment that is not being zeroed has powered on. -/
def Body.poweredOn (b : Body) (r : Nat) : Body :=
  (Body.setReady { b with st.powering := b.st.powering.filter fun x => decide (x ≠ r) } r true).loseRegion r

section
variable {s : State} {region : Fin 1780}

theorem exec_slicePowerChange_of_inUse (h : s.body.inUse region = true) : exec (.slicePowerChange region) s = .next s := by
  change execSlicePowerChange region s = _
  rw [execSlicePowerChange, State.onBody, if_neg (by simp [h])]

theorem exec_slicePowerChange_of_due (h : s.body.inUse region = false) (hp : region.val ∈ s.body.st.powerPend) :
    exec (.slicePowerChange region) s = .next { s with body := s.body.powerApply region } := by
  change execSlicePowerChange region s = _
  rw [execSlicePowerChange, State.onBody, if_pos (by simp [h, hp])]

theorem exec_sliceReady_of_powering (hp : region.val ∈ s.body.st.powering) (hz : region.val ∉ s.body.st.zeroing) :
    exec (.sliceReady region) s = .next { s with body := s.body.poweredOn region } := by
  change execSliceReady region s = _
  simp only [execSliceReady, State.onBody, if_pos hp, Body.setReady_st, if_neg hz, Body.poweredOn]

theorem exec_sliceReady_of_not_powering (hp : region.val ∉ s.body.st.powering) : exec (.sliceReady region) s = .next s := by
  change execSliceReady region s = _
  rw [execSliceReady, State.onBody, if_neg hp]

end

theorem byte_setReady (b : Body) (l : List Nat) (r a : Nat) (v : Bool) :
    (Body.setReady { b with st.powering := l } r v).byte a = b.byte a :=
  Body.byte_congr (Body.setReg_mem _ _ _) (Body.setReg_haze _ _ _) (Body.setReg_bg _ _ _) a

/-- A region that powers on is ready, its contents undefined since a new epoch, and the bytes of others are as before. -/
theorem poweredOn_spec (b : Body) {r : Nat} (hr : r < 1780) :
    (b.poweredOn r).regionReady r = true ∧ r ∉ (b.poweredOn r).st.powering ∧
      (∀ a, regionOf a = r → (b.poweredOn r).byte a = Config.undefByte (b.epoch + 1) a) ∧
      ∀ a, regionOf a ≠ r → (b.poweredOn r).byte a = b.byte a := by
  unfold Body.poweredOn
  refine ⟨?_, ?_, fun a ha => ?_, fun a ha => ?_⟩
  · rw [Body.regionReady_congr (Body.loseRegion_regs _ _), regionReady_setReady _ hr]
  · rw [Body.loseRegion_st, Body.setReady_st]
    simp
  · rw [byte_loseRegion _ ha, Body.setReady_epoch]
  · rw [byte_loseRegion_ne _ ha, byte_setReady]

/-- Settles O14: allotment region by region, zeroing and power by what they make a region's unlisted bytes read as. -/
theorem allotmentAndZeroing : Obligations.AllotmentAndZeroing := by
  intro s
  refine ⟨fun c rs fl r hd hr hbad => ?_, fun c rs fl hd hok huse hzero hrising => ?_, fun region hz hready halone => ?_,
    fun region h => exec_slicePowerChange_of_inUse h, fun region h hp => exec_slicePowerChange_of_due h hp,
    fun region hp hz => ?_, fun region hp => exec_sliceReady_of_not_powering hp⟩
  · obtain ⟨hends, hbytes, -⟩ := (StillSame.refl s.body).fail fl 0x11 0 0
    exact ⟨_, exec_mfAllot_of_refused hd hr hbad, hends, Body.fail_st _ _ _ _ _, hbytes⟩
  · have hfree : ∀ r ∈ rs, ¬ s.body.allotRefused fl.slot r := fun r hr hbad => by
      obtain ⟨hquay, howner⟩ := hok r hr
      rcases hbad with hbad | ⟨hbad0, hbad1⟩
      · exact hbad hquay
      · exact howner.elim hbad0 hbad1
    have hmem : ∀ r : Fin 1780, r.val ∈ rs.map (·.val) ↔ r ∈ rs := fun r => List.mem_map_of_injective Fin.val_injective
    refine ⟨_, exec_mfAllot_of_free hd hfree huse hzero, rfl, fun r => ?_, fun r k hk => ?_⟩
    · simp only [allotOf_zeroAwait, allotOf_setAllot hrising, hmem]
      by_cases hr : r ∈ rs
      · simp [hr]
      · rw [if_neg hr]
        split <;> simp only [hr, iff_false] <;> omega
    · simp only [allotOf_zeroAwait, allotOf_setAllot hrising, hmem]
      by_cases hr : r ∈ rs
      · obtain ⟨-, howner⟩ := hok r hr
        rw [if_pos hr]
        omega
      · rw [if_neg hr]
        split <;> omega
  · have hexec := exec_zeroingComplete region s
    rw [zeroFinish_of_none_alone hz hready halone] at hexec
    refine ⟨_, hexec, rfl, Body.zeroRegion_regs s.body region, Body.zeroRegion_hm s.body region, ?_, fun a ha => ?_, fun a ha => ?_⟩
    · simp [Body.zeroedRegion]
    · exact (Body.byte_congr rfl rfl rfl a).trans (Body.byte_zeroRegion s.body ha)
    · exact (Body.byte_congr rfl rfl rfl a).trans (Body.byte_setBg_ne s.body 0 ha)
  · obtain ⟨hready, hpowering, hlost, hother⟩ := poweredOn_spec s.body region.isLt
    exact ⟨_, exec_sliceReady_of_powering hp hz, hready, hpowering, hlost, hother⟩

end Sys2Proof.Machine
end

section
/-! PROOFS. Gangways (R113-R116): their opening, their closing and the accesses they have accepted, and the checks of an access. -/

namespace Sys2Proof.Machine

/-! ### Opening -/

/-- The Gangway that a GW_OPEN opens on a buffer under a key (R114). -/
def openedGangway (fl : Flight) (e : Entry) (key : Nat) : Gangway :=
  { opened := true, slot := fl.slot, ctx := fl.cmd.ctx.toNat, handle := fl.cmd.h 1, base := e.base, place := e.place,
    perm := fl.cmd.f 1 30 28, scope := fl.cmd.f 1 27 26, module := fl.cmd.f 1 15 0, off := (gwWindow fl.cmd e.size).1,
    size := (gwWindow fl.cmd e.size).2.1, key := key }

theorem Body.gwOpenNow_eq (b : Body) (fl : Flight) (g : Nat) (e : Entry) (key : Nat) :
    b.gwOpenNow fl g e key =
      Body.done { b.clampCmd fl (gwWindow fl.cmd e.size).2.2 with st.gws := SMap.set b.st.gws {} g (openedGangway fl e key) } fl
        (g + key * 2 ^ 32) := rfl

theorem Body.gw_congr {b c : Body} (h : c.st.gws = b.st.gws) (g : Nat) : c.gw g = b.gw g := by
  rw [Body.gw, h, Body.gw]

/-- Opening a Gangway ends the command with it and its key, and leaves the others as they were. -/
theorem gwOpenNow_spec (b : Body) (fl : Flight) (g : Nat) (e : Entry) (key : Nat) :
    OnlyEnds b (b.gwOpenNow fl g e key) fl 0 (g + key * 2 ^ 32) [] ∧
      (b.gwOpenNow fl g e key).gw g = openedGangway fl e key ∧ ∀ k, k ≠ g → (b.gwOpenNow fl g e key).gw k = b.gw k := by
  have hgws : (b.gwOpenNow fl g e key).st.gws = SMap.set b.st.gws {} g (openedGangway fl e key) := by
    rw [Body.gwOpenNow_eq, Body.done_st]
  refine ⟨(((StillSame.refl b).clampCmd fl _).store _).done fl _, ?_, fun k hk => ?_⟩
  · rw [Body.gw, hgws, SMap.get_set_self]
  · rw [Body.gw, hgws, SMap.get_set_ne _ _ _ _ hk, Body.gw]

theorem exec_gwOpen_of_local {s : State} {c : Cmd} {fl : Flight} {e : Entry} {g : Nat} (h : Dispatched s.body c 0x3C fl)
    (hr : s.body.resolve fl.slot (c.h 1) = some e) (hplace : e.place < 2) (hlayout : e.layout ≠ 4)
    (hpick : s.body.gwPick c = some g) (hkey : c.f 4 31 0 ≠ 0) :
    exec (.gwOpen c) s = .next { s with body := s.body.gwOpenNow fl g e (c.f 4 31 0) } := by
  have hshare : ¬(e.place = 5 ∨ e.layout = 4 ∨ (e.place ≥ 2 ∧ ¬ s.body.inWindow fl.slot e.place e.base e.size)) := by
    rintro (hp | hl | ⟨hp, -⟩)
    · omega
    · exact hlayout hl
    · omega
  change execGwOpen c s = _
  simp only [execGwOpen, State.onBody, Body.onCmd_dispatched h, hr, if_neg hshare, hpick, if_pos hkey]

/-! ### Closing -/

theorem exec_gwClose_of_not_own {s : State} {c : Cmd} {fl : Flight} (h : Dispatched s.body c 0x3D fl)
    (hg : (s.body.gw (c.f 1 37 32)).opened = false ∨ (s.body.gw (c.f 1 37 32)).slot ≠ fl.slot) :
    exec (.gwClose c) s = .next { s with body := s.body.fail fl 0x13 (c.f 1 37 32) } := by
  change execGwClose c s = _
  simp only [execGwClose, State.onBody, Body.onCmd_dispatched h, Bool.not_eq_true, if_pos hg]

/-- A Gangway with no access outstanding closes at once. -/
theorem gwShut_of_no_pending {b : Body} {g : Nat} (hopen : (b.gw g).opened = true) (hpend : ∀ p ∈ b.st.gwPend, p.gw ≠ g) :
    b.gwShut g = { b with st.gws := SMap.drop b.st.gws g } := by
  have hnone : (b.st.gwPend.any fun p => decide (p.gw = g)) = false :=
    List.any_eq_false.2 fun p hp => by simpa using hpend p hp
  unfold Body.gw at hopen
  simp only [Body.gwShut, hopen, hnone, not_true_eq_false, Bool.false_eq_true, if_false]

/-- The body after the one GW_CLOSE that waited has closed its Gangway. -/
def Body.gwClosed (b : Body) (g : Nat) : Body := { b with st.gws := SMap.drop b.st.gws g, st.gwWait := [] }

theorem gw_drop_self (b : Body) (g : Nat) : SMap.get (SMap.drop b.st.gws g) ({} : Gangway) g = {} := by
  rw [SMap.get, SMap.find_drop_self, Option.getD_none]

/-- The one GW_CLOSE that waits, for a Gangway that has closed, is done. -/
theorem gwCloseDone_of_closed {b : Body} {fl : Flight} {g : Nat} (hwait : b.st.gwWait = [(fl, g)])
    (hclosed : (b.gw g).opened = false) : b.gwCloseDone = Body.done { b with st.gwWait := [] } fl := by
  simp [Body.gwCloseDone, hwait, hclosed]

theorem exec_gwClose_of_no_pending {s : State} {c : Cmd} {fl : Flight} (h : Dispatched s.body c 0x3D fl)
    (hopen : (s.body.gw (c.f 1 37 32)).opened = true) (hslot : (s.body.gw (c.f 1 37 32)).slot = fl.slot)
    (hpend : ∀ p ∈ s.body.st.gwPend, p.gw ≠ c.f 1 37 32) (hwait : s.body.st.gwWait = []) :
    exec (.gwClose c) s = .next { s with body := ((s.body.start fl).gwClosed (c.f 1 37 32)).done fl } := by
  have hshut := gwShut_of_no_pending (b := s.body.start fl) hopen hpend
  have hown : ¬(¬ (s.body.gw (c.f 1 37 32)).opened = true ∨ (s.body.gw (c.f 1 37 32)).slot ≠ fl.slot) := by simp [hopen, hslot]
  change execGwClose c s = _
  simp only [execGwClose, State.onBody, Body.onCmd_dispatched h, if_neg hown, hshut]
  refine congrArg (fun b => Host.Outcome.next { s with body := b }) (gwCloseDone_of_closed (g := c.f 1 37 32) ?_ ?_)
  · simp [hwait]
  · exact congrArg Gangway.opened (gw_drop_self (s.body.start fl) (c.f 1 37 32))

/-! ### Draining -/

theorem markMirrors_keep {γ : Type} (p : Body → γ) (hbyte : ∀ (b : Body) x v, p (b.setByte x v) = p b)
    (hbump : ∀ (b : Body) r f k, p (b.bump r f k) = p b) (b : Body) (a n : Nat) : p (b.markMirrors a n) = p b := by
  have hmark : ∀ (b : Body) m i, p (b.markGranule m i) = p b := fun b m i => by
    unfold Body.markGranule Body.setMapBit
    split
    · rfl
    · rw [hbump, hbyte]
  unfold Body.markMirrors
  split
  · rfl
  · refine foldl_keep p _ _ b fun b m => ?_
    dsimp only
    split
    · rfl
    · exact foldl_keep p _ _ b fun b i => hmark b m _

/-- A program of Tier F changes, beside registers and what error records change, only the tiers, and no uncorrectable sector. -/
theorem program_keep_apart {γ : Type} (p : Body → γ)
    (htiers : ∀ (b : Body) t, t.badSectors = b.tiers.badSectors → p { b with tiers := t } = p b)
    (hsetF : ∀ (b : Body) r f v, p (b.setF r f v) = p b)
    (herr : ∀ (b : Body) code sev kind unit d, p (b.err code sev kind unit d) = p b) (b : Body) (a n : Nat) :
    p (b.program a n) = p b := by
  have hlife : ∀ b : Body, p b.flashLife = p b := fun b => by
    unfold Body.flashLife
    dsimp only
    simp only [apply_ite p, herr, hsetF, ite_self]
  exact Body.program_keep p (fun b _ => htiers b _ rfl) (fun b _ _ => (hlife _).trans (htiers b _ rfl)) b a n

theorem Body.program_st (b : Body) (a n : Nat) : (b.program a n).st = b.st :=
  program_keep_apart (fun b => b.st) (fun _ _ _ => rfl) Body.setF_st (fun b _ _ _ _ _ => Body.err_st b _ _ _ _ _ _ _) b a n

theorem Body.store_st (b : Body) (a : Nat) (data : List Byte) : (b.store a data).st = b.st := by
  unfold Body.store
  dsimp only
  rw [markMirrors_keep (fun b => b.st) (fun b _ _ => Body.setByte_st b _ _) (fun b _ _ _ => Body.bump_st b _ _ _), Body.program_st]
  split
  · rw [Body.setBytes_st]
  · refine foldl_keep (fun b : Body => b.st) _ _ _ fun b i => ?_
    split
    · rfl
    · rw [Body.setByte_st]

theorem Body.readPages_keep {γ : Type} (p : Body → γ) (h : ∀ (b : Body) l, p { b with tiers.pageBuf := l } = p b) (b : Body)
    (a n : Nat) : p (b.readPages a n) = p b := by
  unfold Body.readPages
  split
  · rfl
  · refine foldl_keep p _ _ b fun b i => ?_
    dsimp only
    split
    · rfl
    · exact h b _

theorem Body.readPages_st (b : Body) (a n : Nat) : (b.readPages a n).st = b.st :=
  Body.readPages_keep (fun b => b.st) (fun _ _ => rfl) b a n

theorem Body.candidate_st (b : Body) (k reason : Nat) : (b.candidate k reason).st = b.st := by
  unfold Body.candidate
  dsimp only
  split
  · rfl
  · rw [Body.err_st, Body.setReg_st]

theorem Body.noteUncorr_st (b : Body) (a : Nat) : (b.noteUncorr a).st = b.st := by
  unfold Body.noteUncorr
  dsimp only
  simp only [apply_ite Body.st, Body.candidate_st, Body.bump_st, ite_self]

/-- Doing what an accepted access asks touches no Gangway and no access still outstanding. -/
theorem Body.gwDo_st (b : Body) (a : GwReq) : (b.gwDo a).2.2.st = b.st := by
  unfold Body.gwDo
  dsimp only
  cases a.op with
  | read n =>
    dsimp only
    (repeat' split) <;> simp [Body.readPages_st, Body.noteUncorr_st]
  | write d =>
    dsimp only
    (repeat' split) <;> simp [Body.store_st, Body.noteUncorr_st]
  | fetchAdd v =>
    dsimp only
    (repeat' split) <;> simp [Body.store_st, Body.noteUncorr_st]

theorem Body.gwReply_st (b : Body) (a : GwReq) (status : Nat) (data : List Byte) : (b.gwReply a status data).st = b.st := by
  unfold Body.gwReply
  split
  · rw [Body.send_st]
  · rfl

theorem gwDrain_gwPend (b : Body) (g : Nat) :
    (b.gwDrain g).st.gwPend = b.st.gwPend.filter fun p => decide (p.gw ≠ g) := by
  have hdone : ∀ (c : Body) (l : List GwPend), (l.foldl (fun (c : Body) (p : GwPend) =>
      (c.gwDo p.req).2.2.gwReply p.req (c.gwDo p.req).1 (c.gwDo p.req).2.1) c).st = c.st := fun c l =>
    foldl_keep (fun c : Body => c.st) _ l c fun c p => (Body.gwReply_st _ _ _ _).trans (Body.gwDo_st c p.req)
  unfold Body.gwDrain
  dsimp only
  split
  · exact congrArg Store.gwPend (hdone _ _)
  · exact congrArg Store.gwPend (hdone _ _)

theorem gwCloseDone_gwPend (b : Body) : b.gwCloseDone.st.gwPend = b.st.gwPend :=
  foldl_keep (fun c : Body => c.st.gwPend) _ _ _ fun c p => congrArg Store.gwPend (Body.done_st c p.1 0)

theorem exec_gwCloseDrain (g : Fin 64) (s : State) :
    exec (.gwCloseDrain g) s = .next { s with body := (s.body.gwDrain g).gwCloseDone } := rfl

/-- Settles O15: an opened, a closed and a drained Gangway, each with what it leaves of the others. -/
theorem gangwaysOpenAndClose : Obligations.GangwaysOpenAndClose := by
  intro s
  refine ⟨fun c fl e g hd hr hplace hlayout hpick hkey => ?_, fun c fl hd hg => ?_, fun c fl hd hopen hslot hpend hwait => ?_,
    fun g => ?_⟩
  · obtain ⟨⟨hends, hbytes, hregs⟩, hgw, hother⟩ := gwOpenNow_spec s.body fl g e (c.f 4 31 0)
    refine ⟨_, exec_gwOpen_of_local hd hr hplace hlayout hpick hkey, rfl, hends, hbytes, hregs, ?_⟩
    rw [hgw, openedGangway, hd.cmd]
    exact ⟨rfl, rfl, rfl, rfl, rfl, rfl, hother⟩
  · obtain ⟨hends, hbytes, hregs⟩ := (StillSame.refl s.body).fail fl 0x13 (c.f 1 37 32) 0
    exact ⟨_, exec_gwClose_of_not_own hd hg, hends, Body.fail_st _ _ _ _ _, hbytes, hregs⟩
  · have hst := Body.done_st ((s.body.start fl).gwClosed (c.f 1 37 32)) fl 0
    obtain ⟨⟨⟨e, hended, huid, -, hstatus, -⟩, -⟩, hbytes, hregs⟩ :=
      StillSame.done (c := (s.body.start fl).gwClosed (c.f 1 37 32)) (((StillSame.refl s.body).start fl).store _) fl 0
    refine ⟨_, exec_gwClose_of_no_pending hd hopen hslot hpend hwait, ?_, ?_, hbytes, hregs, e, hended, huid, hstatus⟩
    · rw [Body.gw_congr (congrArg Store.gws hst)]
      exact congrArg Gangway.opened (gw_drop_self (s.body.start fl) (c.f 1 37 32))
    · rw [hst]; rfl
  · refine ⟨_, exec_gwCloseDrain g s, rfl, fun p hp => ?_⟩
    rw [gwCloseDone_gwPend, gwDrain_gwPend, List.mem_filter, decide_eq_true_eq] at hp
    exact hp.symm

/-! ### The checks of an access -/

section
variable {b : Body} {a : GwReq}

theorem gwCheck_of_barred (h : (b.gw a.gw).opened = false ∨ (b.gw a.gw).closing = true ∨ a.key ≠ (b.gw a.gw).key ∨
    b.gwInScope (b.gw a.gw) a.who = false ∨ gwPermits (b.gw a.gw) a.op = false) : b.gwCheck a = some 0x13 := by
  unfold Body.gwCheck
  exact if_pos (by simpa only [Bool.not_eq_true] using h)

theorem gwCheck_of_past_end (hopen : (b.gw a.gw).opened = true) (hclosing : (b.gw a.gw).closing = false)
    (hkey : a.key = (b.gw a.gw).key) (hscope : b.gwInScope (b.gw a.gw) a.who = true)
    (hperm : gwPermits (b.gw a.gw) a.op = true) (hend : (b.gw a.gw).size < a.off + gwLen a.op) : b.gwCheck a = some 0x11 := by
  unfold Body.gwCheck
  dsimp only
  rw [if_neg (by simp [hopen, hclosing, hkey, hscope, hperm]), if_pos hend]

end

/-! ### A refused key -/

theorem gwShut_keep {γ : Type} (p : Body → γ) (h : ∀ (b : Body) m, p { b with st.gws := m } = p b) (b : Body) (g : Nat) :
    p (b.gwShut g) = p b := by
  unfold Body.gwShut
  dsimp only
  split
  · rfl
  · split
    · exact h b _
    · exact h b _

/-- Counting a failure changes the Gangways, and what an error record changes. -/
theorem gwFailed_keep {γ : Type} (p : Body → γ) (h : ∀ (b : Body) m, p { b with st.gws := m } = p b)
    (herr : ∀ (b : Body) code sev kind unit d st ctx, p (b.err code sev kind unit d st ctx) = p b) (b : Body) (a : GwReq) :
    p (b.gwFailed a) = p b := by
  unfold Body.gwFailed
  dsimp only
  split
  · rfl
  · split
    · rw [herr, gwShut_keep p h, h]
    · exact h b _

theorem gw_gwFailed {b : Body} {a : GwReq} (hopen : (b.gw a.gw).opened = true) (hfails : (b.gw a.gw).fails < 255) :
    (b.gwFailed a).gw a.gw = { b.gw a.gw with fails := (b.gw a.gw).fails + 1 } := by
  have hlast : ¬ (b.gw a.gw).fails + 1 = 256 := by omega
  unfold Body.gwFailed
  dsimp only
  rw [if_neg (not_not_intro hopen), if_neg hlast]
  exact SMap.get_set_self b.st.gws {} _ a.gw

/-! ### GANGWAY_ACCESS -/

section
variable {s : State} {a : GwReq}

theorem exec_gangwayAccess_of_accepted (h : s.body.gwCheck a = none) :
    exec (.gangwayAccess a) s = .next { s with body := { s.body with st.gwPend := s.body.st.gwPend ++ [⟨a.gw, a⟩] } } := by
  change execGangwayAccess a s = _
  simp only [execGangwayAccess, State.onBody, h]

/-- The body after a refused access, before its answer. -/
def Body.gwRefused (b : Body) (a : GwReq) (st : Nat) : Body := if st = 0x13 then b.gwFailed a else b

theorem exec_gangwayAccess_of_refused {st : Nat} (h : s.body.gwCheck a = some st) :
    exec (.gangwayAccess a) s = .next { s with body := (s.body.gwRefused a st).gwReply a st [] } := by
  change execGangwayAccess a s = _
  simp only [execGangwayAccess, State.onBody, h, Body.gwRefused]

end

theorem gwRefused_keep {γ : Type} (p : Body → γ) (h : ∀ (b : Body) m, p { b with st.gws := m } = p b)
    (herr : ∀ (b : Body) code sev kind unit d st ctx, p (b.err code sev kind unit d st ctx) = p b) (b : Body) (a : GwReq)
    (st : Nat) : p (b.gwRefused a st) = p b := by
  unfold Body.gwRefused
  split
  · exact gwFailed_keep p h herr b a
  · rfl

theorem gwReply_keep {γ : Type} (p : Body → γ) (h : ∀ (b : Body) m, p (b.send m) = p b) (b : Body) (a : GwReq) (st : Nat)
    (data : List Byte) : p (b.gwReply a st data) = p b := by
  unfold Body.gwReply
  split
  · exact h b _
  · rfl

theorem sameBytes_gwRefused (b : Body) (a : GwReq) (st : Nat) : SameBytes b ((b.gwRefused a st).gwReply a st []) := by
  refine sameBytes_of ?_ ?_ ?_
  · rw [gwReply_keep Body.mem Body.send_mem, gwRefused_keep Body.mem (fun _ _ => rfl) Body.err_mem]
  · rw [gwReply_keep Body.haze Body.send_haze, gwRefused_keep Body.haze (fun _ _ => rfl) Body.err_haze]
  · rw [gwReply_keep Body.bg Body.send_bg, gwRefused_keep Body.bg (fun _ _ => rfl) Body.err_bg]

/-- A refused access of a peer joins none that stand, and its status goes back on its Line. -/
theorem gwRefused_peer (b : Body) {a : GwReq} {m l : Nat} (hwho : a.who = .peer m l) (st : Nat) :
    ((b.gwRefused a st).gwReply a st []).st.gwPend = b.st.gwPend ∧
      ((b.gwRefused a st).gwReply a st []).out =
        b.out ++ [{ port := .line l, kind := .gangwayResponse, nums := [m, a.gw, st] }] := by
  constructor
  · rw [Body.gwReply_st]
    exact gwRefused_keep (fun b => b.st.gwPend) (fun _ _ => rfl) (fun b _ _ _ _ _ _ _ => by rw [Body.err_st]) b a st
  · rw [Body.gwReply, hwho]
    exact congrArg (· ++ _) (gwRefused_keep Body.out (fun _ _ => rfl) Body.err_out b a st)

/-- Settles O16: an accepted access only joins those outstanding; a refused one only counts a failure and is answered. -/
theorem gangwayAccessIsChecked : Obligations.GangwayAccessIsChecked := by
  intro s a
  cases hcheck : s.body.gwCheck a with
  | none =>
    have hbarred : ¬ _ := fun h => absurd (gwCheck_of_barred h) (by rw [hcheck]; nofun)
    refine ⟨_, exec_gangwayAccess_of_accepted hcheck, rfl, sameBytes_of rfl rfl rfl, fun _ => ⟨rfl, rfl, rfl⟩, nofun,
      fun h => absurd h hbarred, fun hopen hclosing hkey hscope hperm hend => ?_, nofun⟩
    exact hcheck.symm.trans (gwCheck_of_past_end hopen hclosing hkey hscope hperm hend)
  | some st =>
    refine ⟨_, exec_gangwayAccess_of_refused hcheck, rfl, sameBytes_gwRefused s.body a st, nofun, fun st' m l hst hwho => ?_,
      fun h => ?_, fun hopen hclosing hkey hscope hperm hend => ?_, fun hst hopen hfails => ?_⟩
    · obtain rfl := Option.some.inj hst
      exact gwRefused_peer s.body hwho st
    · exact hcheck.symm.trans (gwCheck_of_barred h)
    · exact hcheck.symm.trans (gwCheck_of_past_end hopen hclosing hkey hscope hperm hend)
    · obtain rfl := Option.some.inj hst
      rw [Body.gw_congr (congrArg Store.gws (Body.gwReply_st _ _ _ _)), Body.gwRefused, if_pos rfl]
      exact gw_gwFailed hopen hfails

end Sys2Proof.Machine
end

section
/-! PROOFS. DMA_FILL and DMA_COPY between local places (R117, R118): a store into plain memory, the rows of a block one after another,
and the bytes that a row is made of. -/

namespace Sys2Proof.Machine

/-! ### A store into plain memory -/

/-- `t` is `b` with the bytes of `row` at `a`: no other byte changes, memory stays plain, and no command ends. -/
structure RowStored (b t : Body) (a : Nat) (row : List Byte) : Prop where
  plain : PlainMemory t
  ended : t.hm.ended = b.hm.ended
  inside : ∀ j, j < row.length → t.byte (a + j) = row.getD j 0
  outside : ∀ x, x < a ∨ a + row.length ≤ x → t.byte x = b.byte x

theorem markMirrors_of_none {b : Body} (h : b.ln.twin.mirrors = []) (a n : Nat) : b.markMirrors a n = b := by
  unfold Body.markMirrors
  rw [h, List.foldl_nil, ite_self]

theorem Body.program_hm (b : Body) (a n : Nat) : (b.program a n).hm = b.hm :=
  program_keep_apart Body.hm (fun _ _ _ => rfl) Body.setF_hm (fun b _ _ _ _ _ => Body.err_hm b _ _ _ _ _ _ _) b a n

theorem Body.program_ln (b : Body) (a n : Nat) : (b.program a n).ln = b.ln :=
  program_keep_apart Body.ln (fun _ _ _ => rfl) Body.setF_ln (fun b _ _ _ _ _ => Body.err_ln b _ _ _ _ _ _ _) b a n

theorem Body.program_badSectors (b : Body) (a n : Nat) : (b.program a n).tiers.badSectors = b.tiers.badSectors :=
  program_keep_apart (fun b => b.tiers.badSectors) (fun _ _ h => h) (fun b _ _ _ => by rw [Body.setF_tiers])
    (fun b _ _ _ _ _ => by rw [Body.err_tiers]) b a n

theorem store_of_plain {b : Body} (h : PlainMemory b) (a : Nat) (row : List Byte) :
    b.store a row = (b.setBytes a row).program a row.length := by
  obtain ⟨hbad, hmirrors⟩ := h
  have hsame : { b with tiers.badSectors := [] } = b := by rw [← hbad]
  unfold Body.store
  simp only [hbad, List.filter_nil, if_true, hsame]
  exact markMirrors_of_none (by rw [Body.program_ln, Body.setBytes_ln, hmirrors]) _ _

theorem rowStored_store {b : Body} (h : PlainMemory b) (a : Nat) (row : List Byte) : RowStored b (b.store a row) a row := by
  have hbyte : ∀ x, ((b.setBytes a row).program a row.length).byte x = (b.setBytes a row).byte x :=
    Body.byte_congr (Body.program_mem _ _ _) (Body.program_haze _ _ _) (Body.program_bg _ _ _)
  obtain ⟨hbad, hmirrors⟩ := h
  rw [store_of_plain ⟨hbad, hmirrors⟩]
  refine ⟨⟨?_, ?_⟩, ?_, fun j hj => ?_, fun x hx => ?_⟩
  · rw [Body.program_badSectors, Body.setBytes_tiers, hbad]
  · rw [Body.program_ln, Body.setBytes_ln, hmirrors]
  · rw [Body.program_hm, Body.setBytes_hm]
  · rw [hbyte, Body.byte_setBytes b a j row hj]
  · rw [hbyte, Body.byte_setBytes_ne b a x row hx]

/-! ### What a row's traffic leaves alone -/

/-- Memory stays plain, no command ends, and every byte reads as before. -/
structure SameMemory (b t : Body) : Prop where
  plain : PlainMemory b → PlainMemory t
  ended : t.hm.ended = b.hm.ended
  bytes : SameBytes b t

theorem sameMemory_of {b t : Body} (hbad : t.tiers.badSectors = b.tiers.badSectors) (hln : t.ln = b.ln) (hhm : t.hm = b.hm)
    (hmem : t.mem = b.mem) (hhaze : t.haze = b.haze) (hbg : t.bg = b.bg) : SameMemory b t where
  plain := fun ⟨h1, h2⟩ => ⟨hbad.trans h1, hln ▸ h2⟩
  ended := by rw [hhm]
  bytes := sameBytes_of hmem hhaze hbg

theorem SameMemory.trans {b t u : Body} (h : SameMemory b t) (g : SameMemory t u) : SameMemory b u where
  plain := g.plain ∘ h.plain
  ended := g.ended.trans h.ended
  bytes := h.bytes.trans g.bytes

theorem SameMemory.store {b t : Body} (h : SameMemory b t) (hb : PlainMemory b) (a : Nat) (row : List Byte) :
    RowStored b (t.store a row) a row := by
  obtain ⟨hplain, hended, hinside, houtside⟩ := rowStored_store (h.plain hb) a row
  exact ⟨hplain, hended.trans h.ended, hinside, fun x hx => (houtside x hx).trans (h.bytes x)⟩

theorem SameMemory.refl (b : Body) : SameMemory b b := ⟨id, rfl, fun _ => rfl⟩

theorem sameMemory_foldl {α : Type} {f : Body → α → Body} (h : ∀ b x, SameMemory b (f b x)) (l : List α) (b : Body) :
    SameMemory b (l.foldl f b) :=
  foldl_inv (SameMemory b) f l b (SameMemory.refl b) fun c x hc => hc.trans (h c x)

theorem sameMemory_clampCmd (b : Body) (fl : Flight) (n : Nat) : SameMemory b (b.clampCmd fl n) :=
  sameMemory_of (by rw [Body.clampCmd_tiers]) (Body.clampCmd_ln _ _ _) (Body.clampCmd_hm _ _ _) (Body.clampCmd_mem _ _ _)
    (Body.clampCmd_haze _ _ _) (Body.clampCmd_bg _ _ _)

theorem charge_badSectors (b : Body) (i t point n : Nat) : (b.charge i t point n).tiers.badSectors = b.tiers.badSectors := by
  unfold Body.charge
  split
  · rfl
  · dsimp only
    split
    · rw [Body.bump_tiers]; rfl
    · rfl

theorem tierTraffic_badSectors (b : Body) (slot a n : Nat) (write : Bool) (point : Nat) :
    (b.tierTraffic slot a n write point).tiers.badSectors = b.tiers.badSectors := by
  unfold Body.tierTraffic
  split
  · rw [Body.count_tiers, charge_badSectors]
  · rw [Body.count_tiers, charge_badSectors]
  · split <;> rw [Body.count_tiers, charge_badSectors]
  · rfl

theorem sameMemory_tierTraffic (b : Body) (slot a n : Nat) (write : Bool) (point : Nat) :
    SameMemory b (b.tierTraffic slot a n write point) :=
  sameMemory_of (tierTraffic_badSectors _ _ _ _ _ _) (Body.tierTraffic_ln _ _ _ _ _ _) (Body.tierTraffic_hm _ _ _ _ _ _)
    (Body.tierTraffic_mem _ _ _ _ _ _) (Body.tierTraffic_haze _ _ _ _ _ _) (Body.tierTraffic_bg _ _ _ _ _ _)

theorem sameMemory_readPages (b : Body) (a n : Nat) : SameMemory b (b.readPages a n) := by
  unfold Body.readPages
  split
  · exact SameMemory.refl b
  · refine sameMemory_foldl (fun b i => ?_) _ b
    split
    · exact SameMemory.refl b
    · exact sameMemory_of rfl rfl rfl rfl rfl rfl

theorem sameMemory_wakeHold (b : Body) (a n : Nat) : SameMemory b (b.wakeHold a n) := by
  refine sameMemory_foldl (fun b r => ?_) _ b
  split
  · exact sameMemory_of rfl rfl rfl rfl rfl rfl
  · exact SameMemory.refl b

theorem sameMemory_wakeBlocks (b : Body) (se de : Entry) (ks : List Block) : SameMemory b (b.wakeBlocks se de ks) := by
  have hif : ∀ (c : Prop) [Decidable c] (b : Body) (a n : Nat), SameMemory b (if c then b.wakeHold a n else b) := by
    intro c _ b a n
    split
    · exact sameMemory_wakeHold b a n
    · exact SameMemory.refl b
  exact sameMemory_foldl (fun b k => (hif _ b _ _).trans (hif _ _ _ _)) ks b

/-! ### Rows one after another -/

theorem inRows_eq_false_iff {a base n rows pitch : Nat} :
    inRows a base n rows pitch = false ↔ ∀ r < rows, a < base + r * pitch ∨ base + r * pitch + n ≤ a := by
  simp only [inRows, List.any_eq_false, List.mem_range, decide_eq_true_eq]
  exact forall₂_congr fun r _ => by omega

/-- After `k` rows of `n` bytes at a pitch from `d`: each holds its bytes, every other byte is as in `b`, and no uncorrectable
sector was met. -/
structure RowsStored (b : Body) (p : Bool × Body) (d n pitch k : Nat) (row : Nat → List Byte) : Prop where
  clear : p.1 = false
  plain : PlainMemory p.2
  ended : p.2.hm.ended = b.hm.ended
  inside : ∀ r j, r < k → j < n → p.2.byte (d + r * pitch + j) = (row r).getD j 0
  outside : ∀ a, inRows a d n k pitch = false → p.2.byte a = b.byte a

/-- Rows that do not overlap are each stored and stay stored. -/
theorem rowsStored_foldl {b : Body} (hb : PlainMemory b) {f : Bool × Body → Nat → Bool × Body} {d n pitch : Nat}
    {row : Nat → List Byte} (hpitch : n ≤ pitch) (hlen : ∀ r, (row r).length = n)
    (hf : ∀ (c : Body) r, PlainMemory c → (f (false, c) r).1 = false ∧ RowStored c (f (false, c) r).2 (d + r * pitch) (row r))
    (k : Nat) : RowsStored b ((List.range k).foldl f (false, b)) d n pitch k row := by
  induction k with
  | zero => exact ⟨rfl, hb, rfl, fun r j hr => absurd hr (Nat.not_lt_zero r), fun _ _ => rfl⟩
  | succ k ih =>
    rw [List.range_succ, List.foldl_append, List.foldl_cons, List.foldl_nil]
    generalize (List.range k).foldl f (false, b) = p at ih ⊢
    obtain ⟨ecc, c⟩ := p
    obtain ⟨hclear, hplain, hended, hinside, houtside⟩ := ih
    obtain rfl : ecc = false := hclear
    obtain ⟨hclear', hplain', hended', hnew, hold⟩ := hf c k hplain
    rw [hlen] at hnew hold
    refine ⟨hclear', hplain', hended'.trans hended, fun r j hr hj => ?_, fun a ha => ?_⟩
    · rcases Nat.lt_succ_iff_lt_or_eq.1 hr with hlt | rfl
      · have hbefore : (r + 1) * pitch ≤ k * pitch := Nat.mul_le_mul_right pitch hlt
        rw [Nat.succ_mul] at hbefore
        rw [hold _ (Or.inl (by omega)), hinside r j hlt hj]
      · exact hnew j hj
    · rw [inRows_eq_false_iff] at ha
      rw [hold a (ha k (Nat.lt_succ_self k)), houtside a (inRows_eq_false_iff.2 fun r hr => ha r (Nat.lt_succ_of_lt hr))]

/-! ### The bytes of a row -/

theorem length_leBytes (k v : Nat) : (leBytes k v).length = k := by
  induction k generalizing v with
  | zero => rfl
  | succ k ih => rw [leBytes, List.length_cons, ih]

theorem getD_leBytes {k i : Nat} (h : i < k) (v : Nat) : (leBytes k v).getD i 0 = BitVec.ofNat 8 (v / 2 ^ (8 * i)) := by
  induction k generalizing i v with
  | zero => omega
  | succ k ih =>
    cases i with
    | zero => simp [leBytes]
    | succ i =>
      have hpow : 2 ^ (8 * (i + 1)) = 256 * 2 ^ (8 * i) := by rw [Nat.mul_succ, Nat.pow_add, Nat.mul_comm]
      rw [leBytes, List.getD_cons_succ, ih (by omega), Nat.div_div_eq_div_mul, hpow]

theorem getD_flatten_replicate {α : Type} (l : List α) (x : α) {m j : Nat} (h : j < m * l.length) :
    (List.replicate m l).flatten.getD j x = l.getD (j % l.length) x := by
  induction m generalizing j with
  | zero => omega
  | succ m ih =>
    rw [List.replicate_succ, List.flatten_cons]
    rw [Nat.succ_mul] at h
    rcases Nat.lt_or_ge j l.length with hj | hj
    · rw [List.getD_append _ _ _ _ hj, Nat.mod_eq_of_lt hj]
    · rw [List.getD_append_right _ _ _ _ hj, ih (by omega), ← Nat.mod_eq_sub_mod hj]

theorem length_padTo (k : Nat) (l : List Byte) : (padTo k l).length = k := by
  simp only [padTo, List.length_take, List.length_append, List.length_replicate]
  omega

theorem getD_padTo {k j : Nat} {l : List Byte} (hk : j < k) (hl : j < l.length) : (padTo k l).getD j 0 = l.getD j 0 := by
  rw [padTo, List.getD_eq_getElem?_getD, List.getElem?_take_of_lt hk, ← List.getD_eq_getElem?_getD, List.getD_append _ _ _ _ hl]

/-- A row of DMA_FILL: the 8-byte pattern over and over (R118). -/
def fillRow (n v : Nat) : List Byte := padTo n (List.replicate (n / 8 + 1) (leBytes 8 v)).flatten

theorem getD_fillRow {n j : Nat} (h : j < n) (v : Nat) : (fillRow n v).getD j 0 = BitVec.ofNat 8 (v / 2 ^ (8 * (j % 8))) := by
  have hlong : j < (n / 8 + 1) * (leBytes 8 v).length := by rw [length_leBytes]; omega
  rw [fillRow, getD_padTo h (by simpa [length_leBytes] using hlong), getD_flatten_replicate _ _ hlong, length_leBytes,
    getD_leBytes (Nat.mod_lt j (by decide))]

theorem getD_bytes (b : Body) (a : Nat) {n j : Nat} (h : j < n) : (b.bytes a n).getD j 0 = b.byte (a + j) := by
  induction n generalizing a j with
  | zero => omega
  | succ n ih =>
    cases j with
    | zero => rfl
    | succ j => rw [Body.bytes, List.getD_cons_succ, ih _ (by omega), Nat.add_right_comm, Nat.add_assoc]

/-! ### DMA_FILL -/

theorem storePlain_of_plain {b : Body} (h : PlainMemory b) (fl : Flight) (a : Nat) (row : List Byte) :
    b.storePlain fl a row = (false, b.store a row) := by
  simp only [Body.storePlain, h.1, List.find?_nil, Option.isSome_none]

/-- The rows of a fill that do not overlap, one after another. -/
def Body.fillRows (b : Body) (fl : Flight) (d : Nat) (k : Block) (row : List Byte) : Bool × Body :=
  (List.range k.rows).foldl (fun (p : Bool × Body) r =>
    let w := (p.2.tierTraffic fl.slot (d + r * k.dstPitch) k.rowBytes true (pointOf (d + r * k.dstPitch))).storePlain fl
      (d + r * k.dstPitch) row
    (p.1 || w.1, w.2)) (false, b)

theorem rowsStored_fillRows {b : Body} (hb : PlainMemory b) (fl : Flight) (d : Nat) {k : Block} {row : List Byte}
    (hpitch : k.rowBytes ≤ k.dstPitch) (hlen : row.length = k.rowBytes) :
    RowsStored b (b.fillRows fl d k row) d k.rowBytes k.dstPitch k.rows fun _ => row := by
  refine rowsStored_foldl hb hpitch (fun _ => hlen) (fun c r hc => ?_) k.rows
  have htraffic := sameMemory_tierTraffic c fl.slot (d + r * k.dstPitch) k.rowBytes true (pointOf (d + r * k.dstPitch))
  dsimp only
  rw [storePlain_of_plain (htraffic.plain hc)]
  exact ⟨rfl, htraffic.store hc _ _⟩

/-- The body as the blocks begin to move: clamps counted, Berths woken. -/
def Body.dmaBegun (b : Body) (fl : Flight) (c : Cmd) (se de : Entry) : Body :=
  (b.clampCmd fl (blockOf c).2).wakeBlocks se de [(blockOf c).1]

theorem sameMemory_dmaBegun (b : Body) (fl : Flight) (c : Cmd) (se de : Entry) : SameMemory b (b.dmaBegun fl c se de) :=
  (sameMemory_clampCmd b fl _).trans (sameMemory_wakeBlocks _ se de _)

section
variable {s : State} {c : Cmd} {fl : Flight}

theorem exec_dmaFill_of_local {de : Entry} (h : Dispatched s.body c 0x31 fl) (hr : s.body.resolve fl.slot (c.h 3) = some de)
    (hplace : de.place < 5) (hlayout : de.layout ≠ 4) (hok : s.body.blockOk de (blockOf c).1 true = true)
    (hpitch : (blockOf c).1.rowBytes ≤ (blockOf c).1.dstPitch) :
    exec (.dmaFill c) s = .next { s with
      body := (fun p : Bool × Body => p.2.doneEcc fl p.1) ((s.body.dmaBegun fl c { place := 5 } de).fillRows fl
        (de.base + (blockOf c).1.dst) (blockOf c).1 (fillRow (blockOf c).1.rowBytes (c.w 7).toNat)) } := by
  have hsame := sameChecks_clampCmd s.body fl (blockOf c).2
  change execDmaFill c s = _
  simp only [execDmaFill, State.onBody, Body.onCmd_dispatched h, hsame.resolve, hr, hsame.blockOk, hok, hlayout,
    not_true_eq_false, or_self, if_false, if_neg (Nat.ne_of_lt hplace), ge_iff_le, hpitch, true_or, decide_true, if_true]
  rfl

theorem exec_dmaFill_of_stale (h : Dispatched s.body c 0x31 fl) (hr : s.body.resolve fl.slot (c.h 3) = none) :
    exec (.dmaFill c) s = .next { s with body := (s.body.clampCmd fl (blockOf c).2).fail fl 0x12 (c.h 3) } := by
  change execDmaFill c s = _
  simp only [execDmaFill, State.onBody, Body.onCmd_dispatched h, (sameChecks_clampCmd s.body fl _).resolve, hr]

/-! ### DMA_COPY -/

theorem exec_dmaCopy_of_stale (h : Dispatched s.body c 0x30 fl) (hr : s.body.resolve fl.slot (c.h 1) = none) :
    exec (.dmaCopy c) s = .next { s with body := (s.body.clampCmd fl (blockOf c).2).fail fl 0x12 (c.h 1) } := by
  have hargs : s.body.dmaArgs fl (c.h 1) (c.h 3) [(blockOf c).1] = .error (0x12, c.h 1) := by simp only [Body.dmaArgs, hr]
  change execDmaCopy c s = _
  simp only [execDmaCopy, State.onBody, Body.onCmd_dispatched h, Body.runCopy, h.cmd,
    (sameChecks_clampCmd s.body fl _).dmaArgs, hargs]

theorem exec_dmaCopy_of_local {se de : Entry} (h : Dispatched s.body c 0x30 fl)
    (hargs : s.body.dmaArgs fl (c.h 1) (c.h 3) [(blockOf c).1] = .ok (se, de)) (hse : se.place < 5) (hde : de.place < 5) :
    exec (.dmaCopy c) s = .next { s with
      body := (fun p : Bool × Body => p.2.doneEcc fl p.1) ((s.body.dmaBegun fl c se de).moveBlock (s.body.dmaBegun fl c se de) fl
        se de (blockOf c).1) } := by
  change execDmaCopy c s = _
  simp only [execDmaCopy, State.onBody, Body.onCmd_dispatched h, Body.runCopy, h.cmd,
    (sameChecks_clampCmd s.body fl _).dmaArgs, hargs, if_neg (Nat.ne_of_lt hse), if_neg (Nat.ne_of_lt hde), List.foldl_cons,
    List.foldl_nil, Bool.false_or]
  rfl

end

theorem load_of_plain {b : Body} (h : PlainMemory b) (fl : Flight) (a n : Nat) :
    b.load fl a n = (b.bytes a n, false, b.readPages a n) := by
  simp only [Body.load, Body.badIn, h.1, List.find?_nil]

/-- A block whose rows overlap neither each other nor its source moves row by row, as the source was before. -/
theorem rowsStored_moveBlock {b old : Body} (hb : PlainMemory b) (fl : Flight) (se de : Entry) {k : Block}
    (hpitch : k.rowBytes ≤ k.dstPitch)
    (hapart : spansMeet (se.base + k.src) ((k.rows - 1) * k.srcPitch + k.rowBytes) (de.base + k.dst)
      ((k.rows - 1) * k.dstPitch + k.rowBytes) = false) :
    RowsStored b (b.moveBlock old fl se de k) (de.base + k.dst) k.rowBytes k.dstPitch k.rows fun r =>
      old.bytes (se.base + k.src + r * k.srcPitch) k.rowBytes := by
  unfold Body.moveBlock
  simp only [hapart, Bool.not_false, ge_iff_le, hpitch, true_or, decide_true, Bool.and_self, if_true]
  refine rowsStored_foldl hb hpitch (fun _ => Body.length_bytes _ _ _) (fun c r hc => ?_) k.rows
  dsimp only
  generalize hto : de.base + k.dst + r * k.dstPitch = da
  generalize hfrom : se.base + k.src + r * k.srcPitch = sa
  have htraffic := (sameMemory_tierTraffic c fl.slot sa k.rowBytes false (pointOf da)).trans
    (sameMemory_tierTraffic _ fl.slot da k.rowBytes true (pointOf da))
  have hread := htraffic.trans (sameMemory_readPages _ sa k.rowBytes)
  rw [load_of_plain (htraffic.plain hc)]
  dsimp only
  rw [storePlain_of_plain (hread.plain hc)]
  exact ⟨rfl, hread.store hc _ _⟩

/-! ### The end of a DMA -/

/-- A DMA that met no uncorrectable sector ends DONE, and memory is as its rows left it. -/
theorem rowsStored_done {b c : Body} (hsame : SameMemory b c) {p : Bool × Body} {d n pitch k : Nat} {row : Nat → List Byte}
    (h : RowsStored c p d n pitch k row) (fl : Flight) :
    EndsWith b (p.2.doneEcc fl p.1) fl 0 0 ∧
      (∀ r j, r < k → j < n → (p.2.doneEcc fl p.1).byte (d + r * pitch + j) = (row r).getD j 0) ∧
      ∀ a, inRows a d n k pitch = false → (p.2.doneEcc fl p.1).byte a = b.byte a := by
  obtain ⟨hclear, -, hended, hinside, houtside⟩ := h
  have hdone : p.2.doneEcc fl p.1 = p.2.done fl := by rw [Body.doneEcc, hclear]; rfl
  have hbyte : ∀ a, (p.2.done fl).byte a = p.2.byte a :=
    Body.byte_congr (Body.done_mem _ _ _) (Body.done_haze _ _ _) (Body.done_bg _ _ _)
  rw [hdone]
  refine ⟨Body.endsWith_done fl 0 (hended.trans hsame.ended), fun r j hr hj => ?_, fun a ha => ?_⟩
  · rw [hbyte, hinside r j hr hj]
  · rw [hbyte, houtside a ha, hsame.bytes a]

/-- Settles O17: the rows of a fill and of a copy do not overlap, so each keeps the bytes stored in it. -/
theorem dmaMovesItsBlock : Obligations.DmaMovesItsBlock := by
  intro s c fl hplain
  refine ⟨fun de hd hr hplace hlayout hok hpitch => ?_, fun se de hd hargs hse hde hpitch hapart => ?_, fun hd hr => ?_,
    fun hd hr => ?_⟩
  · have hsame := sameMemory_dmaBegun s.body fl c { place := 5 } de
    obtain ⟨hends, hinside, houtside⟩ := rowsStored_done hsame (rowsStored_fillRows (hsame.plain hplain) fl
      (de.base + (blockOf c).1.dst) hpitch (length_padTo _ _)) fl
    refine ⟨_, exec_dmaFill_of_local hd hr hplace hlayout hok hpitch, rfl, hends, fun r j hrow hj => ?_, houtside⟩
    exact (hinside r j hrow hj).trans (getD_fillRow hj _)
  · have hsame := sameMemory_dmaBegun s.body fl c se de
    obtain ⟨hends, hinside, houtside⟩ := rowsStored_done hsame (rowsStored_moveBlock (hsame.plain hplain) fl se de hpitch hapart) fl
    refine ⟨_, exec_dmaCopy_of_local hd hargs hse hde, rfl, hends, fun r j hrow hj => ?_, houtside⟩
    exact (hinside r j hrow hj).trans ((getD_bytes _ _ hj).trans (hsame.bytes _))
  · obtain ⟨hends, hbytes, hregs⟩ := ((StillSame.refl s.body).clampCmd fl (blockOf c).2).fail fl 0x12 (c.h 3) 0
    exact ⟨_, exec_dmaFill_of_stale hd hr, hends, hbytes, hregs⟩
  · obtain ⟨hends, hbytes, hregs⟩ := ((StillSame.refl s.body).clampCmd fl (blockOf c).2).fail fl 0x12 (c.h 1) 0
    exact ⟨_, exec_dmaCopy_of_stale hd hr, hends, hbytes, hregs⟩

end Sys2Proof.Machine
end

section
/-! PROOFS. The shares of a tiled operation (R126): where each begins, and whose share a tile of the sequence lies in. -/

namespace Sys2Proof.Machine

/-! ### Where the shares begin -/

section
variable (n q k : Nat)

theorem shareStart_zero : shareStart n q 0 = 0 := by simp [shareStart]

theorem shareStart_all {q : Nat} (hq : 0 < q) : shareStart n q q = n := by
  rw [shareStart, Nat.min_eq_right (Nat.mod_lt n hq).le, Nat.div_add_mod]

theorem shareStart_succ : shareStart n q (k + 1) = shareStart n q k + n / q + if k < n % q then 1 else 0 := by
  simp only [shareStart, Nat.succ_mul]
  split <;> omega

theorem shareStart_monotone : Monotone (shareStart n q) :=
  monotone_nat_of_le_succ fun k => by rw [shareStart_succ, Nat.add_assoc]; exact Nat.le_add_right _ _

/-- No two shares differ in length by more than one tile. -/
theorem share_length : shareStart n q (k + 1) - shareStart n q k = n / q ∨
    shareStart n q (k + 1) - shareStart n q k = n / q + 1 := by
  rw [shareStart_succ, Nat.add_assoc, Nat.add_sub_cancel_left]
  split
  · exact .inr rfl
  · exact .inl rfl

/-- A tile lies between two starts that follow each other. -/
theorem exists_share_of_lt {n q t : Nat} (hq : 0 < q) (ht : t < n) : ∃ k, k < q ∧ shareStart n q k ≤ t ∧ t < shareStart n q (k + 1) := by
  have hfirst : shareStart n q 0 ≤ t := by rw [shareStart_zero]; omega
  have hstart : shareStart n q (Nat.findGreatest (shareStart n q · ≤ t) q) ≤ t :=
    Nat.findGreatest_spec (P := (shareStart n q · ≤ t)) (Nat.zero_le q) hfirst
  have hlt : Nat.findGreatest (shareStart n q · ≤ t) q < q := by
    refine lt_of_le_of_ne (Nat.findGreatest_le q) fun hlast => ?_
    rw [hlast, shareStart_all n hq] at hstart
    omega
  exact ⟨_, hlt, hstart, not_le.mp (Nat.findGreatest_is_greatest (P := (shareStart n q · ≤ t)) (Nat.lt_succ_self _) hlt)⟩

/-- Shares do not overlap. -/
theorem share_unique {n q j k t : Nat} (hj : shareStart n q j ≤ t) (hj' : t < shareStart n q (j + 1))
    (hk : shareStart n q k ≤ t) (hk' : t < shareStart n q (k + 1)) : j = k := by
  have hmono := shareStart_monotone n q
  have hjk : j < k + 1 := hmono.reflect_lt (hj.trans_lt hk')
  have hkj : k < j + 1 := hmono.reflect_lt (hk.trans_lt hj')
  omega

end

/-! ### The shares -/

/-- The range of rank `k` of `q` Quays as its share is cut. -/
def shareOf (n q k : Nat) : ClaimRange := ⟨shareStart n q k, shareStart n q k, shareStart n q (k + 1)⟩

theorem shares_getElem? (qs : List Nat) (n k : Nat) :
    (shares qs n)[k]? = if k < qs.length then some (qs.getD k 0, shareOf n qs.length k) else none := by
  rw [shares, List.getElem?_map]
  split
  · next h => rw [List.getElem?_range h]; rfl
  · next h => rw [List.getElem?_eq_none (by simpa using h)]; rfl

/-- Settles O18: each share begins where the one before it ends, the first at 0 and the last ending at n. -/
theorem sharesPartitionTheTiles : Obligations.SharesPartitionTheTiles := by
  intro qs n hqs
  have hq : 0 < qs.length := List.length_pos_of_ne_nil hqs
  have hmono := shareStart_monotone n qs.length
  refine ⟨fun k hk => ?_, fun t ht => ?_⟩
  · exact ⟨shareOf n qs.length k, by rw [shares_getElem?, if_pos hk], rfl, rfl, rfl, hmono (Nat.le_succ k),
      (hmono hk).trans_eq (shareStart_all n hq), share_length n qs.length k⟩
  · obtain ⟨k, hk, hstart, hstop⟩ := exists_share_of_lt hq ht
    refine ⟨k, _, by rw [shares_getElem?, if_pos hk], hstart, hstop, fun j x hx hstart' hstop' => ?_⟩
    rw [shares_getElem?] at hx
    split at hx
    · obtain rfl := Option.some.inj hx
      exact share_unique hstart' hstop' hstart hstop
    · cases hx

end Sys2Proof.Machine
end

section
/-! PROOFS. Claims, steals and phases of a tiled operation (R127, R128, R131, R226): the range of one Quay after that of another is
set, what a victim is, and the two counters of a steal. -/

namespace Sys2Proof.Machine

/-! ### The range in a Quay's slot -/

section
variable {l : List (Nat × ClaimRange)} {o : TileOp} {q v : Nat} (r : ClaimRange)

/-- The ranges of an operation once the first of those in a Quay is set. -/
def withRange (l : List (Nat × ClaimRange)) (q : Nat) (r : ClaimRange) : List (Nat × ClaimRange) :=
  match l.findIdx? fun p => decide (p.1 = q) with
  | some i => l.set i (q, r)
  | none => l

theorem setRange_ranges : (o.setRange q r).ranges = withRange o.ranges q r := rfl

theorem withRange_cons (p : Nat × ClaimRange) :
    withRange (p :: l) q r = if p.1 = q then (q, r) :: l else p :: withRange l q r := by
  unfold withRange
  rw [List.findIdx?_cons]
  by_cases hp : p.1 = q
  · simp [hp]
  · cases hl : l.findIdx? fun p => decide (p.1 = q) <;> simp [hp]

theorem find?_withRange_self (h : (l.find? fun p => decide (p.1 = q)).isSome = true) :
    (withRange l q r).find? (fun p => decide (p.1 = q)) = some (q, r) := by
  induction l with
  | nil => simp at h
  | cons p l ih =>
    rw [withRange_cons]
    by_cases hp : p.1 = q
    · simp [hp]
    · simp only [hp, List.find?_cons, decide_false, if_false] at h ⊢
      exact ih h

theorem find?_withRange_ne (h : v ≠ q) :
    (withRange l q r).find? (fun p => decide (p.1 = v)) = l.find? fun p => decide (p.1 = v) := by
  induction l with
  | nil => rfl
  | cons p l ih =>
    rw [withRange_cons]
    by_cases hp : p.1 = q
    · simp [hp, h.symm]
    · rw [if_neg hp, List.find?_cons, List.find?_cons, ih]

theorem range_setRange_self (h : (o.range q).isSome = true) : (o.setRange q r).range q = some r := by
  rw [TileOp.range, Option.isSome_map] at h
  rw [TileOp.range, setRange_ranges, find?_withRange_self r h]
  rfl

theorem range_setRange_ne (h : v ≠ q) : (o.setRange q r).range v = o.range v := by
  rw [TileOp.range, setRange_ranges, find?_withRange_ne r h, TileOp.range]

end

/-! ### The victim of a thief -/

/-- A fold that keeps the value it has or takes the next answers the value it began with or one of the list. -/
theorem foldl_pick_mem {α : Type} {f : Option α → α → Option α} (hf : ∀ a x, f a x = some x ∨ f a x = a) {l : List α}
    {a : Option α} {x : α} (h : l.foldl f a = some x) : x ∈ l ∨ a = some x := by
  induction l generalizing a with
  | nil => exact .inr h
  | cons y l ih =>
    rcases ih h with hl | ha
    · exact .inl (List.mem_cons_of_mem y hl)
    · rcases hf a y with hy | hkeep
      · exact .inl (List.mem_cons.mpr (.inl (Option.some.inj (ha.symm.trans hy))))
      · exact .inr (hkeep.symm.trans ha)

/-- A victim is another Quay, and its range has 32 unclaimed tiles. -/
theorem victim_spec {b : Body} {o : TileOp} {q v : Nat} {r : ClaimRange} (h : b.victim o q = some (v, r)) :
    v ≠ q ∧ o.range v = some r ∧ 32 ≤ r.stop - r.next := by
  unfold Body.victim at h
  dsimp only at h
  split at h
  · next best hbest =>
    split at h
    · cases h
    · next hrich =>
      obtain rfl := Option.some.inj h
      have hmem := (foldl_pick_mem (fun a x => ?_) hbest).resolve_right nofun
      · obtain ⟨w, -, hw⟩ := List.mem_filterMap.mp hmem
        split at hw
        · next hrange =>
          split at hw
          · next hother =>
            obtain ⟨rfl, rfl⟩ := Prod.mk.inj (Option.some.inj hw)
            exact ⟨hother.1, hrange, not_lt.mp hrich⟩
          · cases hw
        · cases hw
      · cases a with
        | none => exact .inl rfl
        | some y => exact ite_eq_or_eq _ _ _
  · cases h

/-! ### The statistics of a steal -/

theorem stealStat_ok {q : Nat} (h : q < 10) : (Reg.qyStealStat q).ok = true := decide_eq_true h

theorem stealStat_stored (q : Nat) : (Reg.qyStealStat q).stored := by simp [Reg.stored]

theorem Body.setF_of_not_ok (b : Body) {r : Reg} (h : r.ok = false) (f : Fld) (v : Nat) : b.setF r f v = b := by
  rw [Body.setF, Body.setReg, if_neg (by rw [h]; exact Bool.false_ne_true)]

theorem counted_bump (b : Body) {r : Reg} {f : Fld} (n : Nat) (ho : r.ok = true) (hs : r.stored) (hl : f.lo ≤ f.hi)
    (hh : f.hi < 64) : Counted b (b.bump r f n) r f n := by
  have := Nat.two_pow_pos f.width
  rw [Counted, Body.bump, Body.getF_setF_self _ _ ho hs hl hh, Nat.mod_eq_of_lt (by omega)]

theorem getF_stealStat_setF_claimBase (b : Body) (u q k : Nat) (f x : Fld) (n : Nat) :
    (b.setF (.qyClaimBase q k) f n).getF (.qyStealStat u) x = b.getF (.qyStealStat u) x :=
  Body.getF_setF_ne b f x n (by simp only [Reg.addr]; omega)

/-- A slot number of 8 or more names no register, so its write is lost wherever its address lies. -/
theorem getF_stealStat_setF_claimSeq (b : Body) (u q k : Nat) (f x : Fld) (n : Nat) :
    (b.setF (.qyClaimSeq q k) f n).getF (.qyStealStat u) x = b.getF (.qyStealStat u) x := by
  by_cases hk : k < 8
  · exact Body.getF_setF_ne b f x n (by simp only [Reg.addr]; omega)
  · rw [Body.setF_of_not_ok b (by simp [Reg.ok, hk])]

/-! ### A slot's mirror -/

section
variable (b : Body) (o : TileOp) (q : Nat)

/-- What the writes of the two registers of a claim slot keep, the mirror of a slot keeps. -/
theorem syncSlot_keep {γ : Type} (p : Body → γ) (hbase : ∀ (b : Body) q k f v, p (b.setF (.qyClaimBase q k) f v) = p b)
    (hseq : ∀ (b : Body) q k f v, p (b.setF (.qyClaimSeq q k) f v) = p b) : p (b.syncSlot o q) = p b := by
  unfold Body.syncSlot
  split
  · rfl
  · simp only [hbase, hseq]

theorem syncSlot_ops : (b.syncSlot o q).ops = b.ops := syncSlot_keep b o q (·.ops) (by simp) (by simp)

theorem sameBytes_syncSlot : SameBytes b (b.syncSlot o q) :=
  sameBytes_of (syncSlot_keep b o q (·.mem) (by simp) (by simp)) (syncSlot_keep b o q (·.haze) (by simp) (by simp))
    (syncSlot_keep b o q (·.bg) (by simp) (by simp))

theorem getF_stealStat_syncSlot (u : Nat) (x : Fld) :
    (b.syncSlot o q).getF (.qyStealStat u) x = b.getF (.qyStealStat u) x :=
  syncSlot_keep b o q (·.getF (.qyStealStat u) x) (fun b q k f v => getF_stealStat_setF_claimBase b u q k f x v)
    fun b q k f v => getF_stealStat_setF_claimSeq b u q k f x v

end

theorem sameBytes_bump (b : Body) (r : Reg) (f : Fld) (n : Nat) : SameBytes b (b.bump r f n) :=
  sameBytes_of (by simp) (by simp) (by simp)

/-! ### A steal -/

/-- The operation once the last sixteen tiles of the victim's range `r` are the thief's. -/
def TileOp.stolen (o : TileOp) (q v : Nat) (r : ClaimRange) : TileOp :=
  (o.setRange v { r with stop := r.stop - 16 }).setRange q
    { (o.range q).getD ⟨0, 0, 0⟩ with next := r.stop - 16, stop := r.stop }

/-- The changed operation in the slots of the victim and the thief. -/
def Body.stealSlots (b : Body) (o : TileOp) (q v : Nat) : Body := ((b.setOp o).syncSlot o v).syncSlot o q

/-- Both counters of a steal take the sixteen tiles. -/
def Body.stealCounted (b : Body) (q v : Nat) : Body :=
  (b.bump (.qyStealStat v) Fld.qyStealStatStolenOut 16).bump (.qyStealStat q) Fld.qyStealStatStolenIn 16

theorem ranges_stolen {o : TileOp} {q v : Nat} {r : ClaimRange} (hne : v ≠ q) (hv : o.range v = some r)
    (hq : (o.range q).isSome = true) : (o.stolen q v r).range v = some { r with stop := r.stop - 16 } ∧
      ∃ x, (o.stolen q v r).range q = some x ∧ x.next = r.stop - 16 ∧ x.stop = r.stop := by
  constructor
  · rw [TileOp.stolen, range_setRange_ne _ hne, range_setRange_self _ (by rw [hv]; rfl)]
  · exact ⟨_, range_setRange_self _ (by rwa [range_setRange_ne _ hne.symm]), rfl, rfl⟩

section
variable (b : Body) (o : TileOp) (q v : Nat)

theorem stealSlots_ops : (b.stealSlots o q v).ops = (b.setOp o).ops := by
  rw [Body.stealSlots, syncSlot_ops, syncSlot_ops]

theorem sameBytes_stealSlots : SameBytes b (b.stealSlots o q v) :=
  (sameBytes_of (b := b) (t := b.setOp o) rfl rfl rfl).trans ((sameBytes_syncSlot _ o v).trans (sameBytes_syncSlot _ o q))

theorem getF_stealStat_stealSlots (u : Nat) (x : Fld) :
    (b.stealSlots o q v).getF (.qyStealStat u) x = b.getF (.qyStealStat u) x := by
  rw [Body.stealSlots, getF_stealStat_syncSlot, getF_stealStat_syncSlot, Body.setOp_getF]

theorem sameBytes_stealCounted : SameBytes b (b.stealCounted q v) :=
  (sameBytes_bump b _ _ _).trans (sameBytes_bump _ _ _ _)

variable {q v}

theorem stealStat_addr_ne (h : v ≠ q) : (Reg.qyStealStat v).addr ≠ (Reg.qyStealStat q).addr := by
  simp only [Reg.addr]
  omega

/-- Victim and thief are different Quays, so neither counter's register is the other's. -/
theorem counted_stealCounted (hne : v ≠ q) (hv : v < 10) (hq : q < 10) :
    Counted b (b.stealCounted q v) (.qyStealStat v) Fld.qyStealStatStolenOut 16 ∧
      Counted b (b.stealCounted q v) (.qyStealStat q) Fld.qyStealStatStolenIn 16 := by
  have hout := counted_bump b (f := Fld.qyStealStatStolenOut) 16 (stealStat_ok hv) (stealStat_stored v) (by decide) (by decide)
  have hin := counted_bump (b.bump (.qyStealStat v) Fld.qyStealStatStolenOut 16) (f := Fld.qyStealStatStolenIn) 16
    (stealStat_ok hq) (stealStat_stored q) (by decide) (by decide)
  rw [Counted, Body.getF_bump_ne _ _ _ _ (stealStat_addr_ne hne.symm)] at hin
  exact ⟨(Body.getF_bump_ne _ _ _ _ (stealStat_addr_ne hne)).trans hout, hin⟩

end

section
variable {s : State} {q : Fin 10} {o : TileOp}

theorem exec_stealRequest_of_no_thief (h : s.body.thiefOp q = none) : exec (.stealRequest q) s = .next s := by
  change execStealRequest q s = _
  rw [execStealRequest, State.onBody, h]

theorem exec_stealRequest_of_no_victim (ho : s.body.thiefOp q = some o) (hv : s.body.victim o q = none) :
    exec (.stealRequest q) s = .next { s with body := ((s.body.setOp { o with retired := o.retired ++ [q.val] }).bump
      (.qyStealStat q) Fld.qyStealStatRefused 1).opCheck o.fl.uid } := by
  change execStealRequest q s = _
  simp only [execStealRequest, State.onBody, ho, hv]

theorem exec_stealRequest_of_victim {v : Nat} {r : ClaimRange} (ho : s.body.thiefOp q = some o)
    (hv : s.body.victim o q = some (v, r)) : exec (.stealRequest q) s =
      .next { s with body := (s.body.stealSlots (o.stolen q v r) q v).stealCounted q v } := by
  change execStealRequest q s = _
  simp only [execStealRequest, State.onBody, ho, hv]
  rfl

end

/-! ### Claims -/

section
variable {s : State} {uid : Nat} {q : Fin 10} {g : Fin 200} {o : TileOp}

theorem exec_claimSlotLoad_of_no_op (h : s.body.opOf uid = none) : exec (.claimSlotLoad uid q) s = .next s := by
  change execClaimSlotLoad uid q s = _
  rw [execClaimSlotLoad, State.onBody, h]

/-- The operation once it holds claim slot `k` of a Quay. -/
def TileOp.inSlot (o : TileOp) (q k : Nat) : TileOp := ({ o with slots := o.slots ++ [(q, k)] } : TileOp).nextRange q

/-- An operation that uses no Truss forms no Rafts as it takes its slot. -/
theorem exec_claimSlotLoad_of_waiting {us : List (List Nat)} {k : Nat} (ho : s.body.opOf uid = some o)
    (hus : us = o.units.filter fun u => decide (u.headD 0 / 20 = q.val))
    (hquay : q.val ∈ o.quays) (hgo : o.stopping = false) (hsave : s.body.saving o.fl.slot = false) (hretired : q.val ∉ o.retired)
    (hslot : o.slots.any (fun p => decide (p.1 = q.val)) = false) (hrange : (o.range q).isSome = true)
    (hawake : ∀ g ∈ us.flatten, s.body.pwr g < 2) (hrafts : ∀ u ∈ us, s.body.raftReady u = true) (hkind : 6 ≤ o.kind)
    (hfree : s.body.freeSlot q = some k) : exec (.claimSlotLoad uid q) s = .next { s with
      body := (us.flatten.foldl (fun b g => b.syncWork g) ((s.body.setOp (o.inSlot q k)).syncSlot (o.inSlot q k) q)).opCheck uid } := by
  have hwaits : ¬ (q.val ∉ o.quays ∨ o.stopping = true ∨ s.body.saving o.fl.slot = true ∨ q.val ∈ o.retired ∨
      o.slots.any (fun p => decide (p.1 = q.val)) = true ∨ (o.range q).isNone = true) := by
    simp [hquay, hgo, hsave, hretired, hslot, Option.isSome_iff_ne_none.mp hrange]
  have hnoraft : us.foldl (fun (p : Body × TileOp) u => if o.kind < 6 then p.1.formUnit p.2 u else p) (s.body, o) = (s.body, o) :=
    List.foldl_fixed' (fun _ => if_neg (not_lt.mpr hkind)) us
  have hall : us.flatten.all (fun g => decide (s.body.pwr g < 2)) = true :=
    List.all_eq_true.mpr fun g hg => decide_eq_true (hawake g hg)
  have hformed : us.all (fun u => s.body.unitFormed u o.job.rr o.job.rc || s.body.raftReady u) = true :=
    List.all_eq_true.mpr fun u hu => by rw [hrafts u hu, Bool.or_true]
  change execClaimSlotLoad uid q s = _
  simp only [execClaimSlotLoad, State.onBody, ho, ← hus, if_neg hwaits, hall, hformed, hfree, hnoraft, not_true_eq_false, if_false]
  rfl

theorem exec_tileClaim_of_no_op (h : s.body.claimOp g = none) : exec (.tileClaim g) s = .next s := by
  change execTileClaim g s = _
  rw [execTileClaim, State.onBody, h]

theorem exec_tileClaim_of_free {u : List Nat} {r : ClaimRange} (ho : s.body.claimOp g = some o)
    (hu : o.units.find? (fun u => decide (u.head? = some g.val)) = some u) (hr : o.range (g.val / 20) = some r)
    (hfree : s.body.unitFree o u = true) : exec (.tileClaim g) s = .next { s with body := s.body.claimTile o u r } := by
  change execTileClaim g s = _
  simp only [execTileClaim, State.onBody, ho, hu, hr, hfree, if_true]

end

/-! ### Phases -/

theorem nextPhase_of_no_op {b : Body} {uid : Nat} (h : b.opOf uid = none) (k : Nat) : b.nextPhase uid k = b := by
  rw [Body.nextPhase, h]

theorem nextPhase_of_not_worked_out {b : Body} {uid k : Nat} {o : TileOp} (ho : b.opOf uid = some o)
    (h : o.kind ≠ k ∨ o.lastPhase ≤ o.phase ∨ o.exhausted = false ∨ o.stopping = true) : b.nextPhase uid k = b := by
  have hnot : ¬ (o.kind = k ∧ o.phase < o.lastPhase ∧ o.exhausted = true ∧ ¬ o.stopping = true) := by
    rintro ⟨hkind, hphase, hexhausted, hstopping⟩
    rcases h with h | h | h | h
    · exact h hkind
    · omega
    · exact Bool.false_ne_true (h.symm.trans hexhausted)
    · exact hstopping h
  simp only [Body.nextPhase, ho, if_neg hnot]

theorem exec_phaseStart {i : Instr} {uid k : Nat} (h : i = .splitReducePhase uid ∧ k = 0 ∨ i = .mergePhaseStart uid ∧ k = 5)
    (s : State) : exec i s = .next { s with body := s.body.nextPhase uid k } := by
  rcases h with ⟨rfl, rfl⟩ | ⟨rfl, rfl⟩
  · rfl
  · rfl

/-- Settles O20: a steal sets two ranges of different Quays and counts in two registers; each other command goes by its one guard. -/
theorem claimsStealsAndPhases : Obligations.ClaimsStealsAndPhases := by
  intro s
  refine ⟨fun q => exec_stealRequest_of_no_thief, fun q o ho hv => ⟨_, exec_stealRequest_of_no_victim ho hv, rfl⟩,
    fun q o v r ho hvictim hv hq => ?_, fun uid q => exec_claimSlotLoad_of_no_op,
    fun uid q o us k => exec_claimSlotLoad_of_waiting,
    fun g => exec_tileClaim_of_no_op, fun g o u r => exec_tileClaim_of_free,
    fun uid k i hi => ⟨fun ho => ?_, fun o ho h => ?_, exec_phaseStart hi s⟩⟩
  · obtain ⟨hne, hrange, hrich⟩ := victim_spec hvictim
    obtain ⟨hleft, hmoved⟩ := ranges_stolen hne hrange hq
    obtain ⟨hout, hin⟩ := counted_stealCounted (s.body.stealSlots (o.stolen q v r) q v) hne hv q.isLt
    rw [Counted, getF_stealStat_stealSlots] at hout hin
    refine ⟨_, o.stolen q v r, exec_stealRequest_of_victim ho hvictim, hne, hrich, hrange, ?_, hleft, hmoved,
      (sameBytes_stealSlots s.body (o.stolen q v r) q v).trans (sameBytes_stealCounted _ q v), hout, hin⟩
    simp only [Body.stealCounted, Body.bump_ops, stealSlots_ops]
    rfl
  · rw [exec_phaseStart hi, nextPhase_of_no_op ho]
  · rw [exec_phaseStart hi, nextPhase_of_not_worked_out ho h]

end Sys2Proof.Machine
end

section
/-! PROOFS. The Dowels of a Berth (R155-R157): one Dowel beside the others, its x and v registers, and what its going on leaves as it
was. -/

namespace Sys2Proof.Machine

/-! ### One Dowel and the others -/

theorem Body.berth_congr {b c : Body} (h : c.berths = b.berths) (g : Nat) : c.berth g = b.berth g := by
  rw [Body.berth, h, Body.berth]

theorem Body.dowel_congr {b c : Body} (h : c.berths = b.berths) (g d : Nat) : c.dowel g d = b.dowel g d := by
  rw [Body.dowel, Body.berth_congr h, Body.dowel]

theorem Body.berth_updBerth_ne (b : Body) {g h : Nat} (f : Berth → Berth) (hne : h ≠ g) : (b.updBerth g f).berth h = b.berth h :=
  SMap.get_upd_ne b.berths {} {} hne f

theorem Body.dowel_updDowel_self (b : Body) (g d : Nat) (f : Dowel → Dowel) : (b.updDowel g d f).dowel g d = f (b.dowel g d) := by
  rw [Body.dowel, Body.updDowel, Body.berth_updBerth_self]
  exact SMap.get_upd_self _ _ _ _

theorem Body.dowel_updDowel_ne (b : Body) (g : Nat) {d e : Nat} (f : Dowel → Dowel) (hne : e ≠ d) :
    (b.updDowel g d f).dowel g e = b.dowel g e := by
  rw [Body.dowel, Body.updDowel, Body.berth_updBerth_self]
  exact SMap.get_upd_ne _ _ _ hne _

theorem OnlyDowel.of_berths {b c : Body} (h : c.berths = b.berths) (g d : Nat) : OnlyDowel b c g d :=
  ⟨fun e _ => Body.dowel_congr h g e, fun k _ => Body.berth_congr h k⟩

theorem OnlyDowel.updDowel {b c : Body} {g d : Nat} (h : OnlyDowel b c g d) (f : Dowel → Dowel) :
    OnlyDowel b (c.updDowel g d f) g d := by
  obtain ⟨hdowels, hberths⟩ := h
  exact ⟨fun e he => (Body.dowel_updDowel_ne c g f he).trans (hdowels e he),
    fun k hk => (Body.berth_updBerth_ne c _ hk).trans (hberths k hk)⟩

/-! ### Registers of a Dowel -/

theorem Dowel.xr_setX (y : Dowel) (i k : Nat) (v : Word) : (y.setX i v).xr k = if k = i ∧ k ≠ 0 then v else y.xr k := by
  unfold Dowel.xr Dowel.setX
  by_cases hk : k = 0
  · simp [hk]
  · by_cases hki : k = i
    · subst hki
      simp [hk]
    · by_cases hi : i = 0
      · simp [hi, hk]
      · simp [hi, hki, hk, SMap.get_set_ne _ _ _ _ hki]

theorem Dowel.xr_setX_ne (y : Dowel) {i k : Nat} (v : Word) (h : k ≠ i) : (y.setX i v).xr k = y.xr k := by
  rw [Dowel.xr_setX, if_neg fun hk => h hk.1]

theorem Dowel.xr_setX_self (y : Dowel) (i : Nat) (v : Word) : (y.setX i v).xr i = if i = 0 then 0 else v := by
  by_cases hi : i = 0
  · subst hi
    rfl
  · rw [Dowel.xr_setX, if_pos ⟨rfl, hi⟩, if_neg hi]

@[simp] theorem Dowel.setX_v (y : Dowel) (i : Nat) (v : Word) : (y.setX i v).v = y.v := by unfold Dowel.setX; split <;> rfl
@[simp] theorem Dowel.setX_m (y : Dowel) (i : Nat) (v : Word) : (y.setX i v).m = y.m := by unfold Dowel.setX; split <;> rfl
@[simp] theorem Dowel.setX_pc (y : Dowel) (i : Nat) (v : Word) : (y.setX i v).pc = y.pc := by unfold Dowel.setX; split <;> rfl
@[simp] theorem Dowel.setX_ended (y : Dowel) (i : Nat) (v : Word) : (y.setX i v).ended = y.ended := by
  unfold Dowel.setX; split <;> rfl
@[simp] theorem Dowel.setX_bar (y : Dowel) (i : Nat) (v : Word) : (y.setX i v).bar = y.bar := by
  unfold Dowel.setX; split <;> rfl

theorem Dowel.vr_setV_self (y : Dowel) (i : Nat) (l : List Nat) : (y.setV i l).vr i = l := SMap.get_set_self _ _ _ _

theorem Dowel.vr_setV_ne (y : Dowel) {i k : Nat} (l : List Nat) (h : k % 16 ≠ i % 16) : (y.setV i l).vr k = y.vr k :=
  SMap.get_set_ne _ _ _ _ h

theorem Dowel.vr_withPc (y : Dowel) (n k : Nat) : ({ y with pc := n } : Dowel).vr k = y.vr k := rfl

/-! ### Going on -/

/-- From `c`, whose Dowel `d` of Berth `g` alone differs from `b`'s and is `y`, that Dowel goes on: it is `y` at its next
instruction, and no byte or register changes. -/
structure GoesOn (b c t : Body) (g d : Nat) (y : Dowel) : Prop where
  dowel : t.dowel g d = { y with pc := y.pc + 8 }
  only : OnlyDowel b t g d
  bytes : SameBytes c t
  regs : t.regs = c.regs

theorem nextCore_of_inside {b : Body} {g d : Nat} {fl : Flight} (h : (b.dowel g d).pc + 8 < progBytes fl) :
    b.nextCore g d fl = (b.unitDone fl.uid).updDowel g d fun y => { y with pc := (b.dowel g d).pc + 8 } := by
  simp only [Body.nextCore, ge_iff_le, Nat.not_le.2 h, if_false]

theorem goesOn_nextCore {b c : Body} {g d : Nat} {y : Dowel} {fl : Flight} (honly : OnlyDowel b c g d) (hy : c.dowel g d = y)
    (hroom : y.pc + 8 < progBytes fl) : GoesOn b c (c.nextCore g d fl) g d y := by
  subst hy
  rw [nextCore_of_inside hroom]
  refine ⟨?_, OnlyDowel.updDowel honly _, sameBytes_of (by simp) (by simp) (by simp), by simp⟩
  rw [Body.dowel_updDowel_self]
  rfl

/-- A Dowel that is changed, but for its program counter, goes on as changed. -/
theorem goesOn_updDowel {b c : Body} {g d : Nat} {f : Dowel → Dowel} {fl : Flight} (hberths : c.berths = b.berths)
    (hpc : (f (b.dowel g d)).pc = (b.dowel g d).pc) (hroom : (b.dowel g d).pc + 8 < progBytes fl) :
    GoesOn b c ((c.updDowel g d f).nextCore g d fl) g d (f (b.dowel g d)) := by
  have hy : (c.updDowel g d f).dowel g d = f (b.dowel g d) := by rw [Body.dowel_updDowel_self, Body.dowel_congr hberths]
  obtain ⟨hdowel, honly, hbytes, hregs⟩ :=
    goesOn_nextCore ((OnlyDowel.of_berths hberths g d).updDowel f) hy (by rw [hpc]; exact hroom)
  exact ⟨hdowel, honly, hbytes, hregs⟩

/-! ### An instruction that a Dowel issues -/

theorem uid_of_flight {b : Body} {uid : Nat} {fl : Flight} (h : b.flight uid = some fl) : fl.uid = uid := by
  simpa using List.find?_some (p := fun x : Flight => decide (x.uid = uid)) h

theorem coreRun_spec {b : Body} {g d cls : Nat} {w : Word} {op : Option Nat} {fl : Flight} (h : b.coreRun g d w cls op = some fl) :
    (b.berth g).run = some fl.uid ∧ (b.dowel g d).ended = false ∧ (b.dowel g d).bar = false := by
  unfold Body.coreRun at h
  split at h
  · rename_i uid hrun
    dsimp only at h
    split at h
    · rename_i hissues
      obtain ⟨-, hended, hbar, -⟩ := hissues
      exact ⟨uid_of_flight h ▸ hrun, Bool.eq_false_iff.2 hended, Bool.eq_false_iff.2 hbar⟩
    · cases h
  · cases h

end Sys2Proof.Machine
end

section
/-! PROOFS. The INT instructions of a Dowel (R156): the operation of each, and what writing its result leaves as it was. -/

namespace Sys2Proof.Machine

theorem coreInt_of_issues {b : Body} {g d op : Nat} {w : Word} {fl : Flight} (h : b.coreRun g d w 1 (some op) = some fl)
    (f : Word → Word → Int → Word) : b.coreInt g d w op f =
      ((b.clampCmd fl (coreClamps w)).updDowel g d fun y => y.setX (w.fld 55 51)
        (f ((b.dowel g d).xr (w.fld 50 46)) ((b.dowel g d).xr (w.fld 45 41)) (coreImm w))).nextCore g d fl := by
  simp only [Body.coreInt, h]

/-- A body with another count of free values drawn. -/
def Body.drawn (b : Body) (n : Nat) : Body := { b with freeCtr := n }

theorem coreShift_of_lt {b : Body} {g d : Nat} {w : Word} (h : ((b.dowel g d).xr (w.fld 45 41)).toNat < 64) (op : Nat)
    (f : Word → Nat → Word) : b.coreShift g d w op f = b.coreInt g d w op fun x y _ => f x y.toNat := if_pos h

/-- A shift by 64 or more draws the free value that it writes (log entry 35). -/
theorem coreShift_of_ge {b : Body} {g d op : Nat} {w : Word} {fl : Flight} (h : 64 ≤ ((b.dowel g d).xr (w.fld 45 41)).toNat)
    (hrun : b.coreRun g d w 1 (some op) = some fl) (f : Word → Nat → Word) :
    b.coreShift g d w op f = (b.drawn (b.freeCtr + 1)).coreInt g d w op fun _ _ _ => Config.freeBits b.freeCtr := by
  simp only [Body.coreShift, if_neg (Nat.not_lt.2 h), hrun]
  rfl

/-- What an INT instruction that is no shift gives of x[A], x[B] and IMM, by its operation. -/
def intOp : Nat → Word → Word → Int → Word
  | 0, x, y, _ => x + y
  | 1, x, y, _ => x - y
  | 2, x, y, _ => x * y
  | 3, x, y, _ => x &&& y
  | 4, x, y, _ => x ||| y
  | 5, x, y, _ => x ^^^ y
  | 9, x, y, _ => if x.toInt < y.toInt then 1 else 0
  | 10, x, _, i => x + BitVec.ofInt 64 i
  | _, _, _, i => BitVec.ofInt 64 i <<< 42

/-- What a shift gives of x[A] and the amount, by its operation. -/
def shiftOp : Nat → Word → Nat → Word
  | 6, x, n => x <<< n
  | 7, x, n => x >>> n
  | _, x, n => x.sshiftRight n

section
variable {s : State} {g : Fin 200} {d : Fin 64} {w x y v : Word} {i : Instr} {op : Nat}

theorem exec_int (hi : (i, op, v) ∈ [(Instr.intAdd g d w, 0, x + y), (.intSub g d w, 1, x - y), (.intMul g d w, 2, x * y),
      (.intAnd g d w, 3, x &&& y), (.intOr g d w, 4, x ||| y), (.intXor g d w, 5, x ^^^ y),
      (.intSlt g d w, 9, if x.toInt < y.toInt then 1 else 0), (.intAddi g d w, 10, x + BitVec.ofInt 64 (coreImm w)),
      (.intLui g d w, 11, BitVec.ofInt 64 (coreImm w) <<< 42)]) :
    exec i s = .next { s with body := s.body.coreInt g d w op (intOp op) } ∧ intOp op x y (coreImm w) = v := by
  simp only [List.mem_cons, Prod.mk.injEq, List.not_mem_nil, or_false] at hi
  rcases hi with ⟨rfl, rfl, rfl⟩ | ⟨rfl, rfl, rfl⟩ | ⟨rfl, rfl, rfl⟩ | ⟨rfl, rfl, rfl⟩ | ⟨rfl, rfl, rfl⟩ | ⟨rfl, rfl, rfl⟩ |
    ⟨rfl, rfl, rfl⟩ | ⟨rfl, rfl, rfl⟩ | ⟨rfl, rfl, rfl⟩
  all_goals exact ⟨rfl, rfl⟩

theorem exec_shift {u : Nat → Word}
    (hi : (i, op, v) ∈ [(Instr.intShl g d w, 6, u 6), (.intShr g d w, 7, u 7), (.intSra g d w, 8, u 8)]) :
    exec i s = .next { s with body := s.body.coreShift g d w op (shiftOp op) } ∧ u op = v := by
  simp only [List.mem_cons, Prod.mk.injEq, List.not_mem_nil, or_false] at hi
  rcases hi with ⟨rfl, rfl, rfl⟩ | ⟨rfl, rfl, rfl⟩ | ⟨rfl, rfl, rfl⟩
  all_goals exact ⟨rfl, rfl⟩

end

/-- Whatever an INT instruction computes goes to x[D], which x0 discards. -/
theorem coreInt_goesOn {b : Body} {g d op : Nat} {w : Word} {fl : Flight} (h : DowelIssues b g d w 1 (some op) fl) (n : Nat)
    (f : Word → Word → Int → Word) :
    GoesOn b ((b.drawn n).clampCmd fl (coreClamps w)) ((b.drawn n).coreInt g d w op f) g d ((b.dowel g d).setX (w.fld 55 51)
      (f ((b.dowel g d).xr (w.fld 50 46)) ((b.dowel g d).xr (w.fld 45 41)) (coreImm w))) := by
  obtain ⟨hrun, hroom⟩ := h
  rw [coreInt_of_issues (b := b.drawn n) hrun]
  exact goesOn_updDowel (Body.clampCmd_berths _ _ _) (Dowel.setX_pc _ _ _) hroom

/-- What counting clamps leaves alone, an instruction that goes on from there leaves alone. -/
theorem GoesOn.after_clampCmd {b c t : Body} {g d n : Nat} {y : Dowel} {fl : Flight} (h : GoesOn b (c.clampCmd fl n) t g d y)
    (hc : StillSame b c) : SameBytes b t ∧ SameRegsBut b t [] := by
  obtain ⟨-, hbytes, hregs⟩ := hc.clampCmd fl n
  exact ⟨hbytes.trans h.bytes, fun q hq hl => (Body.reg_congr h.regs q).trans (hregs q hq hl)⟩

/-- Settles O22: the operation's value by the instruction, and one frame for what writing it to x[D] leaves alone. -/
theorem coreIntegerResults : Obligations.CoreIntegerResults := by
  intro s g d w fl x y i op v hx hy hi hissues
  obtain ⟨n, f, hexec, rfl⟩ : ∃ n f, exec i s = .next { s with body := (s.body.drawn n).coreInt g d w op f } ∧
      f x y (coreImm w) = v := by
    rcases hi with hi | ⟨hlt, hi⟩ | ⟨hge, hi⟩
    · obtain ⟨hexec, hv⟩ := exec_int hi
      exact ⟨s.body.freeCtr, intOp op, hexec, hv⟩
    · obtain ⟨hexec, hv⟩ := exec_shift (u := fun op => shiftOp op x y.toNat) hi
      rw [coreShift_of_lt (hy ▸ hlt)] at hexec
      exact ⟨s.body.freeCtr, fun x y _ => shiftOp op x y.toNat, hexec, hv⟩
    · obtain ⟨hexec, hv⟩ := exec_shift (u := fun _ => Config.freeBits s.body.freeCtr) hi
      rw [coreShift_of_ge (hy ▸ hge) hissues.1] at hexec
      exact ⟨s.body.freeCtr + 1, fun _ _ _ => Config.freeBits s.body.freeCtr, hexec, hv⟩
  have hgoes := coreInt_goesOn hissues n f
  obtain ⟨hbytes, hregs⟩ := hgoes.after_clampCmd ⟨rfl, fun _ => rfl, fun _ _ _ => rfl⟩
  rw [← hx, ← hy] at hgoes
  refine ⟨_, hexec, rfl, hbytes, hregs, ?_⟩
  rw [hgoes.dowel]
  exact ⟨Dowel.xr_setX_self _ _ _, fun k hk => Dowel.xr_setX_ne _ _ hk, congrArg (· + 8) (Dowel.setX_pc _ _ _),
    Dowel.setX_v _ _ _, Dowel.setX_m _ _ _, Dowel.setX_ended _ _ _, Dowel.setX_bar _ _ _, hgoes.only⟩

end Sys2Proof.Machine
end

section
/-! PROOFS. The MEM instructions and branches of a Dowel (R156): an access that is good, the bytes it reads or writes, and where a
branch goes on. -/

namespace Sys2Proof.Machine

/-! ### Bytes read and bytes written -/

theorem SameBytes.bytes_eq {b t : Body} (h : SameBytes b t) (a n : Nat) : t.bytes a n = b.bytes a n := by
  induction n generalizing a with
  | zero => rfl
  | succ n ih => rw [Body.bytes, h a, ih, Body.bytes]

theorem drop_bytes (b : Body) (a k n : Nat) : (b.bytes a (k + n)).drop k = b.bytes (a + k) n := by
  induction k generalizing a with
  | zero => rw [Nat.zero_add, List.drop_zero, Nat.add_zero]
  | succ k ih => rw [Nat.succ_add, Body.bytes, List.drop_succ_cons, ih, Nat.succ_add_eq_add_succ]

theorem take_bytes (b : Body) (a n k : Nat) : (b.bytes a (n + k)).take n = b.bytes a n := by
  induction n generalizing a with
  | zero => rw [List.take_zero, Body.bytes]
  | succ n ih => rw [Nat.succ_add, Body.bytes, List.take_succ_cons, ih, Body.bytes]

/-- A part of the bytes read is what a read of that part gives. -/
theorem take_drop_bytes (b : Body) (a : Nat) {k n m : Nat} (h : k + n ≤ m) : ((b.bytes a m).drop k).take n = b.bytes (a + k) n := by
  obtain ⟨r, rfl⟩ := Nat.exists_eq_add_of_le h
  rw [Nat.add_assoc, drop_bytes, take_bytes]

theorem bytes_eq_of_getD {b : Body} {a : Nat} {l : List Byte} (h : ∀ j, j < l.length → b.byte (a + j) = l.getD j 0) :
    b.bytes a l.length = l := by
  induction l generalizing a with
  | nil => rfl
  | cons v l ih =>
    have hhead : b.byte a = v := h 0 (Nat.succ_pos _)
    have htail : b.bytes (a + 1) l.length = l := ih fun j hj => by
      rw [Nat.add_assoc, Nat.add_comm 1 j]
      exact h (j + 1) (Nat.succ_lt_succ hj)
    rw [List.length_cons, Body.bytes, hhead, htail]

/-- A part of a row that has been stored reads as that part of the row. -/
theorem RowStored.bytes_part {b t : Body} {a o : Nat} {row l : List Byte} (h : RowStored b t a row)
    (hfits : o + l.length ≤ row.length) (hpart : ∀ j, j < l.length → row.getD (o + j) 0 = l.getD j 0) : t.bytes (a + o) l.length = l :=
  bytes_eq_of_getD fun j hj => by rw [Nat.add_assoc, h.inside (o + j) (by omega), hpart j hj]

theorem RowStored.bytes_whole {b t : Body} {a : Nat} {row : List Byte} (h : RowStored b t a row) : t.bytes a row.length = row :=
  bytes_eq_of_getD h.inside

section
variable {α : Type} {f : Nat → List α} {n : Nat} (hlen : ∀ i, (f i).length = n)
include hlen

theorem length_flatMap_range (m : Nat) : ((List.range m).flatMap f).length = n * m := by
  rw [List.length_flatMap, List.map_congr_left fun i _ => hlen i, List.map_const', List.length_range, List.sum_replicate_nat,
    Nat.mul_comm]

theorem getD_flatMap_range {m i j : Nat} (hi : i < m) (hj : j < n) (x : α) :
    ((List.range m).flatMap f).getD (n * i + j) x = (f i).getD j x := by
  induction m with
  | zero => omega
  | succ m ih =>
    rw [List.range_succ, List.flatMap_append, List.flatMap_singleton]
    have hfirst := length_flatMap_range hlen m
    rcases Nat.lt_succ_iff_lt_or_eq.1 hi with hlt | rfl
    · have hbefore : n * (i + 1) ≤ n * m := Nat.mul_le_mul_left n hlt
      rw [Nat.mul_succ] at hbefore
      rw [List.getD_append _ _ _ _ (by omega), ih hlt]
    · rw [List.getD_append_right _ _ _ _ (by omega), hfirst, Nat.add_sub_cancel_left]

end

/-! ### Operations that leave the Berths alone -/

theorem Body.readPages_berths (b : Body) (a n : Nat) : (b.readPages a n).berths = b.berths :=
  Body.readPages_keep (fun b => b.berths) (fun _ _ => rfl) b a n

theorem store_berths {b : Body} (h : PlainMemory b) (a : Nat) (row : List Byte) : (b.store a row).berths = b.berths := by
  rw [store_of_plain h, program_keep_apart (fun b => b.berths) (fun _ _ _ => rfl) Body.setF_berths
    (fun b _ _ _ _ _ => Body.err_berths b _ _ _ _ _ _ _), Body.setBytes_berths]

theorem fmtTally_keep {γ : Type} (p : Body → γ) (h : ∀ (b : Body) r f n, p (b.bump r f n) = p b) (b : Body) (g : Nat) (t : Tally)
    (stored : Bool) : p (b.fmtTally g t stored) = p b := by
  unfold Body.fmtTally
  split
  · rfl
  · cases stored <;> simp only [h, if_true, Bool.false_eq_true, if_false]

theorem fmtTally_berths (b : Body) (g : Nat) (t : Tally) (stored : Bool) : (b.fmtTally g t stored).berths = b.berths :=
  fmtTally_keep (fun b => b.berths) Body.bump_berths b g t stored

theorem sameMemory_fmtTally (b : Body) (g : Nat) (t : Tally) (stored : Bool) : SameMemory b (b.fmtTally g t stored) :=
  sameMemory_of (fmtTally_keep (fun b => b.tiers.badSectors) (fun b r f n => by rw [Body.bump_tiers]) b g t stored)
    (fmtTally_keep (fun b => b.ln) Body.bump_ln b g t stored) (fmtTally_keep (fun b => b.hm) Body.bump_hm b g t stored)
    (fmtTally_keep (fun b => b.mem) Body.bump_mem b g t stored) (fmtTally_keep (fun b => b.haze) Body.bump_haze b g t stored)
    (fmtTally_keep (fun b => b.bg) Body.bump_bg b g t stored)

/-! ### A good access -/

theorem SameChecks.ownEntry {b t : Body} (h : SameChecks b t) (slot g x : Nat) (write : Bool) :
    t.ownEntry slot g x write = b.ownEntry slot g x write := by
  unfold Body.ownEntry
  rw [h.resolve]

theorem SameChecks.coreMem {b t : Body} (h : SameChecks b t) (hberths : t.berths = b.berths) (g d : Nat) (fl : Flight) (w : Word)
    (n : Nat) (write : Bool) : t.coreMem g d fl w n write = b.coreMem g d fl w n write := by
  simp only [Body.coreMem, Body.dowel_congr hberths, h.ownEntry, h.accessOk]

theorem getF_jyStat_clampCmd (b : Body) (fl : Flight) (n : Nat) {g : Nat} (hg : g < 200) (f : Fld) :
    (b.clampCmd fl n).getF (.brJyStat g) f = b.getF (.brJyStat g) f := by
  have htally : (Reg.brJyStat g).addr ≠ Reg.hmClampTally.addr := by simp only [Reg.addr]; omega
  unfold Body.clampCmd Body.count
  split
  · rename_i hslot
    have hcount : (Reg.brJyStat g).addr ≠ (Reg.hmCtxCnt fl.slot 15).addr := by simp only [Reg.addr]; omega
    rw [Body.getF_bump_ne _ _ _ _ hcount, Body.getF_clamps_ne _ _ _ _ _ htally]
  · exact Body.getF_clamps_ne _ _ _ _ _ htally

/-- Dowel `d` of Berth `g` issues a MEM instruction whose access of `n` bytes at `a` is good, outside the Bench or in a Bench it owns,
in memory without uncorrectable sectors or mirrors. -/
structure GoodAccess (b : Body) (g d : Nat) (w : Word) (fl : Flight) (op n : Nat) (write : Bool) (a : Nat) : Prop where
  plain : PlainMemory b
  issues : DowelIssues b g d w 2 (some op) fl
  owned : w.bit 37 = false ∨ b.getF (.brJyStat g) Fld.brJyStatBenchOwner = fl.cmd.ctx.toNat
  ok : b.coreMem g d fl w n write = .ok a

/-- A good access takes place on the body with its clamps counted: the Bench, where it is one, is the context's already. -/
theorem GoodAccess.coreMemRun {b : Body} {g d op n a : Nat} {w : Word} {fl : Flight} {write : Bool}
    (h : GoodAccess b g d w fl op n write a) (hg : g < 200) (k : Nat) (f : Body → Flight → Nat → Body) :
    b.coreMemRun g d w op n write k f = (f (b.clampCmd fl (coreClamps w + k)) fl a).nextCore g d fl := by
  have htaken : (if w.bit 37 = true then (b.clampCmd fl (coreClamps w + k)).benchTake g fl.cmd.ctx.toNat
      else b.clampCmd fl (coreClamps w + k)) = b.clampCmd fl (coreClamps w + k) := by
    split
    · rename_i hbench
      have howner := h.owned.resolve_left (by simp [hbench])
      rw [Body.benchTake, getF_jyStat_clampCmd _ _ _ hg, if_pos howner]
    · rfl
  simp only [Body.coreMemRun, h.issues.1, htaken,
    (sameChecks_clampCmd b fl _).coreMem (Body.clampCmd_berths b fl _), h.ok]

section
variable {s : State} {g : Fin 200} {d : Fin 64} {w : Word} {fl : Flight} {a : Nat}

theorem exec_xld_of_ok (h : GoodAccess s.body g d w fl 2 8 false a) : exec (.xld g d w) s = .next { s with
    body := (((s.body.clampCmd fl (coreClamps w)).readPages a 8).updDowel g d fun y =>
      y.setX (w.fld 55 51) (BitVec.ofNat 64 (s.body.le a 8))).nextCore g d fl } := by
  have hclamped := sameMemory_clampCmd s.body fl (coreClamps w)
  change execXld g d w s = _
  simp only [execXld, State.onBody, h.coreMemRun g.isLt, Nat.add_zero, load_of_plain (hclamped.plain h.plain),
    hclamped.bytes.bytes_eq, Body.noteEcc, Bool.false_eq_true, if_false, Body.le]

/-- The elements that a VLD reads, widened. -/
def vldElems (b : Body) (w : Word) (a : Nat) : List Nat :=
  (List.range 32).map fun i => toF32 (elemVal (coreFmt w).1 (b.le (a + (coreFmt w).2 * i) (coreFmt w).2))

theorem exec_vld_of_ok (h : GoodAccess s.body g d w fl 0 (32 * (coreFmt w).2) false a) : exec (.vld g d w) s = .next { s with
    body := (((s.body.clampCmd fl (coreClamps w + diff (coreFmt w).1 (w.fld 45 42))).readPages a (32 * (coreFmt w).2)).updDowel g d
      fun y => y.setV (w.fld 55 51) (vldElems s.body w a)).nextCore g d fl } := by
  have hclamped := sameMemory_clampCmd s.body fl (coreClamps w + diff (coreFmt w).1 (w.fld 45 42))
  have helems : ((List.range 32).map fun i => toF32 (elemVal (coreFmt w).1
      (ofLe (((s.body.bytes a (32 * (coreFmt w).2)).drop ((coreFmt w).2 * i)).take (coreFmt w).2)))) = vldElems s.body w a := by
    refine List.map_congr_left fun i hi => ?_
    have hroom : (coreFmt w).2 * (i + 1) ≤ (coreFmt w).2 * 32 := Nat.mul_le_mul_left _ (List.mem_range.1 hi)
    rw [take_drop_bytes _ _ (by rw [Nat.mul_comm 32]; exact hroom), Body.le]
  change execVld g d w s = _
  simp only [execVld, State.onBody, h.coreMemRun g.isLt, load_of_plain (hclamped.plain h.plain),
    hclamped.bytes.bytes_eq, Body.noteEcc, Bool.false_eq_true, if_false, helems]

theorem exec_xst_of_ok (h : GoodAccess s.body g d w fl 3 8 true a) : exec (.xst g d w) s = .next { s with
    body := ((s.body.clampCmd fl (coreClamps w)).store a
      (leBytes 8 ((s.body.dowel g d).xr (w.fld 55 51)).toNat)).nextCore g d fl } := by
  have hclamped := sameMemory_clampCmd s.body fl (coreClamps w)
  change execXst g d w s = _
  simp only [execXst, State.onBody, h.coreMemRun g.isLt, Nat.add_zero, storePlain_of_plain (hclamped.plain h.plain),
    Body.dowel_congr (Body.clampCmd_berths _ _ _), Body.noteEcc, Bool.false_eq_true, if_false]

theorem drawOf_nil (c : Nat) : drawOf [] c = 0 := by
  simp [drawOf, SMap.get, BitVec.rotateRight, BitVec.rotateRightAux]

/-- What a VST without stochastic rounding stores for element `i`, and what it counts. -/
def vstElem (b : Body) (g d : Nat) (w : Word) (i : Nat) : Nat × Tally :=
  convElem (coreFmt w).1 (min 4 (w.fld 41 39)) (w.bit 38) false (ofF32 (((b.dowel g d).vr (w.fld 55 51)).getD i 0))

/-- The bytes that a VST writes. -/
def vstRow (b : Body) (g d : Nat) (w : Word) : List Byte :=
  ((List.range 32).map (vstElem b g d w)).flatMap fun p => leBytes (coreFmt w).2 p.1

/-- What a VST's conversions count, together. -/
def vstTally (b : Body) (g d : Nat) (w : Word) : Tally := ((List.range 32).map (vstElem b g d w)).foldl (fun t p => t.plus p.2) {}

/-- The body as a VST writes: its clamps and its conversions counted. -/
def Body.vstReady (b : Body) (g d : Nat) (w : Word) (fl : Flight) : Body :=
  (b.clampCmd fl (coreClamps w + (diff (coreFmt w).1 (w.fld 45 42) + diff (min 4 (w.fld 41 39)) (w.fld 41 39)))).fmtTally g
    (vstTally b g d w) true

theorem sameMemory_vstReady (b : Body) (g d : Nat) (w : Word) (fl : Flight) : SameMemory b (b.vstReady g d w fl) :=
  (sameMemory_clampCmd b fl _).trans (sameMemory_fmtTally _ g _ true)

theorem exec_vst_of_ok (h : GoodAccess s.body g d w fl 1 (32 * (coreFmt w).2) true a) (hmode : min 4 (w.fld 41 39) ≠ 4) :
    exec (.vst g d w) s = .next { s with
      body := ((s.body.vstReady g d w fl).store a (vstRow s.body g d w)).nextCore g d fl } := by
  have hplain := (sameMemory_vstReady s.body g d w fl).plain h.plain
  have hbit : ∀ i, (drawOf [] i).bit 0 = false := fun i => by rw [drawOf_nil]; rfl
  change execVst g d w s = _
  simp only [execVst, State.onBody, h.coreMemRun g.isLt, hmode, false_and, if_false, Body.dowel_congr (Body.clampCmd_berths _ _ _),
    hbit]
  have hstore := storePlain_of_plain hplain fl a (vstRow s.body g d w)
  simp only [Body.vstReady, vstTally, vstRow] at hstore ⊢
  unfold vstElem at hstore ⊢
  rw [hstore]
  rfl

end

section
variable {b : Body} {g d op n a : Nat} {w : Word} {fl : Flight} {write : Bool} (h : GoodAccess b g d w fl op n write a)
include h

theorem GoodAccess.goesOn_load (k : Nat) {f : Dowel → Dowel} (hpc : (f (b.dowel g d)).pc = (b.dowel g d).pc) :
    GoesOn b ((b.clampCmd fl k).readPages a n) ((((b.clampCmd fl k).readPages a n).updDowel g d f).nextCore g d fl) g d
      (f (b.dowel g d)) :=
  goesOn_updDowel ((Body.readPages_berths _ _ _).trans (Body.clampCmd_berths _ _ _)) hpc h.issues.2

theorem GoodAccess.goesOn_store {c : Body} (hc : SameMemory b c) (hberths : c.berths = b.berths) (row : List Byte) :
    GoesOn b (c.store a row) ((c.store a row).nextCore g d fl) g d (b.dowel g d) := by
  have hstored := (store_berths (hc.plain h.plain) a row).trans hberths
  exact goesOn_nextCore (OnlyDowel.of_berths hstored g d) (Body.dowel_congr hstored g d) h.issues.2

end

theorem sameBytes_load (b : Body) (fl : Flight) (k a n : Nat) : SameBytes b ((b.clampCmd fl k).readPages a n) :=
  ((sameMemory_clampCmd b fl k).trans (sameMemory_readPages _ a n)).bytes

/-- What a Dowel's store leaves of every byte outside its row. -/
theorem GoesOn.sameBytesBut {b c t : Body} {g d a : Nat} {y : Dowel} {row : List Byte} (h : GoesOn b c t g d y)
    (hrow : RowStored b c a row) : SameBytesBut b t a row.length :=
  fun x hx => (h.bytes x).trans (hrow.outside x hx)

theorem length_vstRow (b : Body) (g d : Nat) (w : Word) : (vstRow b g d w).length = 32 * (coreFmt w).2 := by
  rw [vstRow, List.flatMap_map, length_flatMap_range fun i => length_leBytes _ _, Nat.mul_comm]

/-- The bytes of element `i` of a row that a VST has written. -/
theorem bytes_vstRow {b t : Body} {a : Nat} {c : Body} {g d i : Nat} {w : Word} (h : RowStored b t a (vstRow c g d w)) (hi : i < 32) :
    t.bytes (a + (coreFmt w).2 * i) (coreFmt w).2 = leBytes (coreFmt w).2 (vstElem c g d w i).1 := by
  have hroom : (coreFmt w).2 * (i + 1) ≤ (coreFmt w).2 * 32 := Nat.mul_le_mul_left _ hi
  have hpart := h.bytes_part (o := (coreFmt w).2 * i) (l := leBytes (coreFmt w).2 (vstElem c g d w i).1)
    (by rw [length_leBytes, length_vstRow, Nat.mul_comm 32]; exact hroom) fun j hj => by
      rw [vstRow, List.flatMap_map]
      exact getD_flatMap_range (fun i => length_leBytes _ _) hi (by rwa [length_leBytes] at hj) 0
  rwa [length_leBytes] at hpart

/-! ### The MEM instructions -/

section
variable {s : State} {g : Fin 200} {d : Fin 64} {w : Word} {fl : Flight} {a : Nat}

theorem xld_effect (h : GoodAccess s.body g d w fl 2 8 false a) : ∃ t, exec (.xld g d w) s = .next { s with body := t } ∧
    t.dowel g d = { (s.body.dowel g d).setX (w.fld 55 51) (BitVec.ofNat 64 (s.body.le a 8)) with
      pc := (s.body.dowel g d).pc + 8 } ∧ OnlyDowel s.body t g d ∧ SameBytes s.body t := by
  have hpc := Dowel.setX_pc (s.body.dowel g d) (w.fld 55 51) (BitVec.ofNat 64 (s.body.le a 8))
  obtain ⟨hdowel, honly, hbytes, -⟩ := h.goesOn_load (coreClamps w)
    (f := fun y => y.setX (w.fld 55 51) (BitVec.ofNat 64 (s.body.le a 8))) hpc
  rw [hpc] at hdowel
  exact ⟨_, exec_xld_of_ok h, hdowel, honly, (sameBytes_load _ _ _ _ _).trans hbytes⟩

theorem vld_effect (h : GoodAccess s.body g d w fl 0 (32 * (coreFmt w).2) false a) :
    ∃ t, exec (.vld g d w) s = .next { s with body := t } ∧
      t.dowel g d = { (s.body.dowel g d).setV (w.fld 55 51) (vldElems s.body w a) with pc := (s.body.dowel g d).pc + 8 } ∧
      OnlyDowel s.body t g d ∧ SameBytes s.body t := by
  obtain ⟨hdowel, honly, hbytes, -⟩ := h.goesOn_load (coreClamps w + diff (coreFmt w).1 (w.fld 45 42))
    (f := fun y => y.setV (w.fld 55 51) (vldElems s.body w a)) rfl
  exact ⟨_, exec_vld_of_ok h, hdowel, honly, (sameBytes_load _ _ _ _ _).trans hbytes⟩

theorem xst_effect (h : GoodAccess s.body g d w fl 3 8 true a) : ∃ t, exec (.xst g d w) s = .next { s with body := t } ∧
    t.dowel g d = { s.body.dowel g d with pc := (s.body.dowel g d).pc + 8 } ∧ OnlyDowel s.body t g d ∧
    t.bytes a 8 = leBytes 8 ((s.body.dowel g d).xr (w.fld 55 51)).toNat ∧ SameBytesBut s.body t a 8 := by
  have hclamped := sameMemory_clampCmd s.body fl (coreClamps w)
  have hrow := hclamped.store h.plain a (leBytes 8 ((s.body.dowel g d).xr (w.fld 55 51)).toNat)
  have hgoes := h.goesOn_store hclamped (Body.clampCmd_berths _ _ _) (leBytes 8 ((s.body.dowel g d).xr (w.fld 55 51)).toNat)
  have hwhole := hrow.bytes_whole
  have hbut := hgoes.sameBytesBut hrow
  rw [length_leBytes] at hwhole hbut
  exact ⟨_, exec_xst_of_ok h, hgoes.dowel, hgoes.only, (hgoes.bytes.bytes_eq a 8).trans hwhole, hbut⟩

theorem vst_effect (h : GoodAccess s.body g d w fl 1 (32 * (coreFmt w).2) true a) (hmode : min 4 (w.fld 41 39) ≠ 4) :
    ∃ t, exec (.vst g d w) s = .next { s with body := t } ∧
      t.dowel g d = { s.body.dowel g d with pc := (s.body.dowel g d).pc + 8 } ∧ OnlyDowel s.body t g d ∧
      (∀ i, i < 32 → t.bytes (a + (coreFmt w).2 * i) (coreFmt w).2 = leBytes (coreFmt w).2 (vstElem s.body g d w i).1) ∧
      SameBytesBut s.body t a (32 * (coreFmt w).2) := by
  have hready := sameMemory_vstReady s.body g d w fl
  have hrow := hready.store h.plain a (vstRow s.body g d w)
  have hgoes := h.goesOn_store hready ((fmtTally_berths _ _ _ _).trans (Body.clampCmd_berths _ _ _)) (vstRow s.body g d w)
  have hbut := hgoes.sameBytesBut hrow
  rw [length_vstRow] at hbut
  exact ⟨_, exec_vst_of_ok h hmode, hgoes.dowel, hgoes.only,
    fun i hi => (hgoes.bytes.bytes_eq _ _).trans (bytes_vstRow hrow hi), hbut⟩

end

/-! ### Branches -/

theorem exec_branch {s : State} {g : Fin 200} {d : Fin 64} {w x y : Word} {i : Instr} {op : Nat} {cond : Bool}
    (hi : (i, op, cond) ∈ [(Instr.beq g d w, 0, decide (x = y)), (.bne g d w, 1, decide (x ≠ y)),
      (.blt g d w, 2, decide (x.toInt < y.toInt)), (.jmp g d w, 3, true)]) :
    ∃ f, exec i s = .next { s with body := s.body.coreBranch g d w op f } ∧ f x y = cond := by
  simp only [List.mem_cons, Prod.mk.injEq, List.not_mem_nil, or_false] at hi
  rcases hi with ⟨rfl, rfl, rfl⟩ | ⟨rfl, rfl, rfl⟩ | ⟨rfl, rfl, rfl⟩ | ⟨rfl, rfl, rfl⟩
  all_goals exact ⟨_, rfl, rfl⟩

/-- Where a branch of a Dowel goes. -/
def Dowel.target (y : Dowel) (w : Word) : Int := (y.pc : Int) + 8 * coreImm w

section
variable {b : Body} {g d op : Nat} {w : Word} {fl : Flight} (h : DowelIssues b g d w 3 (some op) fl) (f : Word → Word → Bool)
include h

theorem coreBranch_of_inside (hlow : 0 ≤ (b.dowel g d).target w) (hhigh : (b.dowel g d).target w < progBytes fl) :
    b.coreBranch g d w op f = (b.unitDone fl.uid).updDowel g d fun y => { y with
      pc := if f ((b.dowel g d).xr (w.fld 50 46)) ((b.dowel g d).xr (w.fld 45 41)) = true then ((b.dowel g d).target w).toNat
        else (b.dowel g d).pc + 8 } := by
  obtain ⟨hrun, hroom⟩ := h
  have hinside : ¬ ((b.dowel g d).target w < 0 ∨ (b.dowel g d).target w ≥ progBytes fl) := by omega
  unfold Dowel.target at *
  simp only [Body.coreBranch, hrun, nextCore_of_inside hroom, if_neg hinside]
  split <;> rfl

theorem coreBranch_of_outside (hf : f ((b.dowel g d).xr (w.fld 50 46)) ((b.dowel g d).xr (w.fld 45 41)) = true)
    (hout : (b.dowel g d).target w < 0 ∨ (progBytes fl : Int) ≤ (b.dowel g d).target w) :
    b.coreBranch g d w op f = b.runFault g fl 0x11 (fl.cmd.h 1) (ofSInt 64 ((b.dowel g d).target w)) := by
  unfold Dowel.target at *
  simp only [Body.coreBranch, h.1, hf, if_true, ge_iff_le, if_pos hout]

end

/-- Settles O23: a load changes its register, a store the bytes of its row, and a branch the program counter; the Dowel goes on from
there, and nothing else changes. -/
theorem coreMemoryAndBranches : Obligations.CoreMemoryAndBranches := by
  intro s g d w fl
  refine ⟨fun a n op wr i hplain hissues howned hi hmode hok => ?_, fun x y i op cond hx hy hi hissues => ?_⟩
  · have haccess : GoodAccess s.body g d w fl op n wr a := ⟨hplain, hissues, howned, hok⟩
    simp only [List.mem_cons, Prod.mk.injEq, List.not_mem_nil, or_false] at hi
    rcases hi with ⟨rfl, rfl, rfl, rfl⟩ | ⟨rfl, rfl, rfl, rfl⟩ | ⟨rfl, rfl, rfl, rfl⟩ | ⟨rfl, rfl, rfl, rfl⟩
    case inl =>
      obtain ⟨t, hexec, hdowel, honly, hbytes⟩ := xld_effect haccess
      refine ⟨_, hexec, rfl, honly, ?_⟩
      rw [hdowel]
      exact ⟨rfl, Dowel.setX_m _ _ _, fun _ => Dowel.setX_v _ _ _, fun h => absurd rfl h, fun _ k => Dowel.xr_setX _ _ _ _,
        nofun, nofun, nofun, hbytes⟩
    case inr.inl =>
      obtain ⟨t, hexec, hdowel, honly, hbytes⟩ := vld_effect haccess
      refine ⟨_, hexec, rfl, honly, ?_⟩
      rw [hdowel]
      exact ⟨rfl, rfl, fun h => absurd rfl h, fun _ => rfl, nofun,
        fun _ => (Dowel.vr_withPc _ _ _).trans (Dowel.vr_setV_self _ _ _), nofun, nofun, hbytes⟩
    case inr.inr.inl =>
      obtain ⟨t, hexec, hdowel, honly, hstored, hbut⟩ := xst_effect haccess
      refine ⟨_, hexec, rfl, honly, ?_⟩
      rw [hdowel]
      exact ⟨rfl, rfl, fun _ => rfl, fun _ => rfl, nofun, nofun, fun _ => hstored, nofun, hbut⟩
    case inr.inr.inr =>
      obtain ⟨t, hexec, hdowel, honly, hstored, hbut⟩ := vst_effect haccess (hmode rfl)
      refine ⟨_, hexec, rfl, honly, ?_⟩
      rw [hdowel]
      exact ⟨rfl, rfl, fun _ => rfl, fun _ => rfl, nofun, nofun, nofun, fun _ => hstored, hbut⟩
  · obtain ⟨f, hexec, rfl⟩ := exec_branch hi
    refine ⟨fun ⟨hlow, hhigh⟩ => ?_, fun hout hcond => ?_⟩
    · rw [coreBranch_of_inside hissues f hlow hhigh, ← hx, ← hy] at hexec
      refine ⟨_, hexec, rfl, sameBytes_of (by simp) (by simp) (by simp), by simp, ?_, ?_⟩
      · exact OnlyDowel.updDowel (OnlyDowel.of_berths (by simp) g d) _
      · exact Body.dowel_updDowel_self _ _ _ _
    · subst hx hy
      rw [coreBranch_of_outside hissues f hcond hout] at hexec
      exact ⟨_, hexec, rfl, rfl⟩

end Sys2Proof.Machine
end

section
/-! PROOFS. The end of a Berth's part in a run (R157, R158): what completing the command leaves as it was. -/

namespace Sys2Proof.Machine

/-- What a command's end and the Harbourmaster's own state leave alone, a check of whether a run completes leaves alone. -/
theorem runCheck_keep {γ : Type} (p : Body → γ) (hhm : ∀ (b : Body) x, p { b with hm := x } = p b)
    (hretire : ∀ (b : Body) fl st r e, p (b.retire fl st r e) = p b) (b : Body) (uid : Nat) : p (b.runCheck uid) = p b := by
  have hdone : ∀ (b : Body) fl r, p (b.done fl r) = p b := fun b fl r => hretire b fl 0 r false
  have hwake : ∀ b : Body, p b.wakeWaits = p b := fun b => by
    unfold Body.wakeWaits
    refine (foldl_keep p _ _ _ fun b q => ?_).trans (hhm b _)
    exact hdone b _ _
  have hsregs : ∀ (b : Body) slot first vs, p (b.setSregs slot first vs) = p b := fun b slot first vs => by
    refine (hwake _).trans ?_
    unfold Body.putSregs
    exact foldl_keep p _ _ b fun b i => hhm b _
  have hfinish : p (b.finish uid) = p b := by
    unfold Body.finish
    split
    · rfl
    · rename_i fl _
      have hamax := foldl_keep p (fun b q => b.setSregs fl.slot q.1 [BitVec.ofNat 64 (q.2 - 1)]) fl.amaxes b
        fun b q => hsregs b _ _ _
      unfold Body.doneEcc
      dsimp only
      split
      · exact (hretire _ _ _ _ _).trans hamax
      · exact (hdone _ _ _).trans hamax
  unfold Body.runCheck
  split
  · rfl
  · split
    · split
      · exact hfinish
      · exact hretire _ _ _ _ _
    · rfl

theorem runCheck_berths (b : Body) (uid : Nat) : (b.runCheck uid).berths = b.berths :=
  runCheck_keep (fun b => b.berths) (fun _ _ => rfl) Body.retire_berths b uid

theorem sameBytes_runCheck (b : Body) (uid : Nat) : SameBytes b (b.runCheck uid) :=
  sameBytes_of (runCheck_keep (fun b => b.mem) (fun _ _ => rfl) Body.retire_mem b uid)
    (runCheck_keep (fun b => b.haze) (fun _ _ => rfl) Body.retire_haze b uid)
    (runCheck_keep (fun b => b.bg) (fun _ _ => rfl) Body.retire_bg b uid)

theorem syncWork_keep {γ : Type} (p : Body → γ) (h : ∀ (b : Body) r f v, p (b.setF r f v) = p b) (b : Body) (g : Nat) :
    p (b.syncWork g) = p b := by
  unfold Body.syncWork
  split
  · exact h b _ _ _
  · rfl

/-- What a Berth's change and registers leave alone, the end of its part in a run leaves alone. -/
theorem stopRun_keep {γ : Type} (p : Body → γ) (h : ∀ (b : Body) r f v, p (b.setF r f v) = p b)
    (hupd : ∀ (b : Body) g f, p (b.updBerth g f) = p b) (b : Body) (g : Nat) : p (b.stopRun g) = p b := by
  unfold Body.stopRun
  rw [syncWork_keep p h, h, h, hupd]

theorem sameBytes_stopRun (b : Body) (g : Nat) : SameBytes b (b.stopRun g) :=
  sameBytes_of (stopRun_keep (fun b => b.mem) Body.setF_mem Body.updBerth_mem b g)
    (stopRun_keep (fun b => b.haze) Body.setF_haze Body.updBerth_haze b g)
    (stopRun_keep (fun b => b.bg) Body.setF_bg Body.updBerth_bg b g)

theorem run_stopRun (b : Body) (g : Nat) : ((b.stopRun g).berth g).run = none := by
  unfold Body.stopRun
  rw [syncWork_keep (fun b => (b.berth g).run) (fun b r f v => by rw [Body.berth_setF]), Body.berth_setF, Body.berth_setF,
    Body.berth_updBerth_self]

/-- The end of a Berth's program: no byte changes, and it runs none. -/
theorem endRun_spec (b : Body) (g uid : Nat) : SameBytes b (b.endRun g uid) ∧ ((b.endRun g uid).berth g).run = none := by
  refine ⟨(sameBytes_stopRun b g).trans (sameBytes_runCheck _ uid), ?_⟩
  rw [Body.endRun, Body.berth_congr (runCheck_berths _ uid), run_stopRun]

end Sys2Proof.Machine
end

section
/-! PROOFS. The VEC, VRED and VMOVX instructions of a Dowel, and its control (R156, R157): the elements of a lane operation, one after
another, and the Dowels that wait at BAR. -/

namespace Sys2Proof.Machine

/-! ### Lane operations -/

/-- The value of element `i` of a VEC that draws no random bits and evaluates no function, and what its rounding counts. -/
def vecElem (b : Body) (g d : Nat) (w : Word) (i : Nat) : Nat × Tally :=
  roundTo (laneFmt (w.fld 24 21)) (min 4 (w.fld 20 18)) (w.bit 17) false (laneOp (coreOp w)
    (((b.dowel g d).vr (w.fld 50 46)).getD i 0)
    (if w.bit 35 = true then ((b.dowel g d).xr (w.fld 45 41)).toNat % 2 ^ 32 else ((b.dowel g d).vr (w.fld 45 41)).getD i 0)
    (((b.dowel g d).vr (w.fld 40 36)).getD i 0) 0)

/-- The elements that MASK leaves open, as bits. -/
def vecLive (b : Body) (g d : Nat) (w : Word) : Nat :=
  if w.fld 34 33 = 0 then 0xFFFFFFFF else (b.dowel g d).m.getD (w.fld 34 33) 0

/-- What a VEC puts in v[D]: the values where MASK is open, the old elements elsewhere. -/
def vecResult (b : Body) (g d : Nat) (w : Word) : List Nat :=
  (List.range 32).map fun i =>
    if (vecLive b g d w).testBit i = true then (vecElem b g d w i).1 else ((b.dowel g d).vr (w.fld 55 51)).getD i 0

theorem laneElem_of_not_lathe {op : Nat} (h : op ≠ 0x10) (b : Body) (g slot bank fn fmt mode : Nat) (sat : Bool) (x y z : Nat) :
    b.laneElem g slot bank op fn fmt mode sat 0 x y z =
      ((roundTo fmt mode sat false (laneOp op x y z 0)).1, b.fmtTally g (roundTo fmt mode sat false (laneOp op x y z 0)).2 false) := by
  simp only [Body.laneElem, if_neg h]
  rfl

theorem funcOk_of_not_lathe {op : Nat} (h : op ≠ 0x10) (b : Body) (g bank fn : Nat) : b.funcOk g bank op fn = true := by
  simp [Body.funcOk, h]

/-- A Berth's format tally after conversions, one after another. -/
def Body.talliedAll (b : Body) (g : Nat) (ts : List Tally) : Body := ts.foldl (fun b t => b.fmtTally g t false) b

theorem talliedAll_keep {γ : Type} (p : Body → γ) (h : ∀ (b : Body) r f n, p (b.bump r f n) = p b) (b : Body) (g : Nat)
    (ts : List Tally) : p (b.talliedAll g ts) = p b :=
  foldl_keep p _ ts b fun b t => fmtTally_keep p h b g t false

theorem talliedAll_berths (b : Body) (g : Nat) (ts : List Tally) : (b.talliedAll g ts).berths = b.berths :=
  talliedAll_keep (fun b => b.berths) Body.bump_berths b g ts

theorem sameBytes_talliedAll (b : Body) (g : Nat) (ts : List Tally) : SameBytes b (b.talliedAll g ts) :=
  sameBytes_of (talliedAll_keep (fun b => b.mem) Body.bump_mem b g ts) (talliedAll_keep (fun b => b.haze) Body.bump_haze b g ts)
    (talliedAll_keep (fun b => b.bg) Body.bump_bg b g ts)

/-- Elements computed one after another: their values, the last first, and what each counts counted. -/
theorem foldl_elems (g : Nat) (val : Nat → Nat × Tally) (l : List Nat) (rs : List Nat) (b : Body) :
    l.foldl (fun p i => ((val i).1 :: p.1, Body.fmtTally p.2 g (val i).2 false)) (rs, b) =
      ((l.map fun i => (val i).1).reverse ++ rs, b.talliedAll g (l.map fun i => (val i).2)) := by
  induction l generalizing rs b with
  | nil => rfl
  | cons i l ih =>
    rw [List.foldl_cons, ih, List.map_cons, List.map_cons, List.reverse_cons, List.append_assoc]
    rfl

theorem getD_map_range (f : Nat → Nat) {m i : Nat} (h : i < m) : ((List.range m).map f).getD i 0 = f i := by
  simp [List.getD_eq_getElem?_getD, h]

theorem vecResult_eq (b : Body) (g d : Nat) (w : Word) : ((List.range 32).map fun i =>
    if (vecLive b g d w).testBit i = true then ((List.range 32).map fun i => (vecElem b g d w i).1).getD i 0
    else ((b.dowel g d).vr (w.fld 55 51)).getD i 0) = vecResult b g d w :=
  List.map_congr_left fun i hi => by rw [getD_map_range _ (List.mem_range.1 hi)]

/-- The body as a VEC writes its result: clamps and roundings counted. -/
def Body.vecReady (b : Body) (g d : Nat) (w : Word) (fl : Flight) : Body :=
  (b.clampCmd fl (coreClamps w + diff (laneFmt (w.fld 24 21)) (w.fld 24 21) + diff (min 4 (w.fld 20 18)) (w.fld 20 18))).talliedAll g
    ((List.range 32).map fun i => (vecElem b g d w i).2)

theorem vecReady_berths (b : Body) (g d : Nat) (w : Word) (fl : Flight) : (b.vecReady g d w fl).berths = b.berths :=
  (talliedAll_berths _ _ _).trans (Body.clampCmd_berths _ _ _)

theorem sameBytes_vecReady (b : Body) (g d : Nat) (w : Word) (fl : Flight) : SameBytes b (b.vecReady g d w fl) :=
  (sameMemory_clampCmd b fl _).bytes.trans (sameBytes_talliedAll _ _ _)

section
variable {s : State} {g : Fin 200} {d : Fin 64} {w : Word} {fl : Flight}

theorem exec_vec_of_plain (h : s.body.coreRun g d w 0 none = some fl) (hop : coreOp w < 0x0C ∨ coreOp w = 0x0F)
    (hmode : min 4 (w.fld 20 18) ≠ 4) : exec (.vec g d w) s = .next { s with
      body := ((s.body.vecReady g d w fl).updDowel g d fun y => y.setV (w.fld 55 51) (vecResult s.body g d w)).nextCore g d fl } := by
  have hlathe : coreOp w ≠ 0x10 := by omega
  have hkeep : coreOp w ≠ 0x0E := by omega
  have hcompare : ¬ (coreOp w = 0x0C ∨ coreOp w = 0x0D) := by omega
  change execVec g d w s = _
  simp only [execVec, State.onBody, h, funcOk_of_not_lathe hlathe, hkeep, hmode, hcompare, hlathe, decide_false, Bool.false_and,
    Bool.or_self, Bool.false_eq_true, not_true_eq_false, if_false, drawOf_nil, laneElem_of_not_lathe hlathe,
    Body.dowel_congr (Body.clampCmd_berths _ _ _), Nat.add_zero]
  have hfold := foldl_elems g (vecElem s.body g d w) (List.range 32) [] (s.body.clampCmd fl
    (coreClamps w + diff (laneFmt (w.fld 24 21)) (w.fld 24 21) + diff (min 4 (w.fld 20 18)) (w.fld 20 18)))
  have hresult := vecResult_eq s.body g d w
  rw [Body.vecReady]
  simp only [vecElem, vecLive] at hfold hresult ⊢
  simp only [hfold, List.append_nil, List.reverse_reverse, ← hresult]
  rfl

theorem vec_effect (h : DowelIssues s.body g d w 0 none fl) (hop : coreOp w < 0x0C ∨ coreOp w = 0x0F)
    (hmode : min 4 (w.fld 20 18) ≠ 4) : ∃ t, exec (.vec g d w) s = .next { s with body := t } ∧
      t.dowel g d = { (s.body.dowel g d).setV (w.fld 55 51) (vecResult s.body g d w) with pc := (s.body.dowel g d).pc + 8 } ∧
      OnlyDowel s.body t g d ∧ SameBytes s.body t := by
  obtain ⟨hrun, hroom⟩ := h
  obtain ⟨hdowel, honly, hbytes, -⟩ := goesOn_updDowel (f := fun y => y.setV (w.fld 55 51) (vecResult s.body g d w))
    (vecReady_berths s.body g d w fl) rfl hroom
  exact ⟨_, exec_vec_of_plain hrun hop hmode, hdowel, honly, (sameBytes_vecReady _ _ _ _ _).trans hbytes⟩

theorem getD_vecResult (b : Body) (g d : Nat) (w : Word) {i : Nat} (h : i < 32) : (vecResult b g d w).getD i 0 =
    if (vecLive b g d w).testBit i = true then (vecElem b g d w i).1 else ((b.dowel g d).vr (w.fld 55 51)).getD i 0 :=
  getD_map_range _ h

theorem exec_vred (h : s.body.coreRun g d w 3 (some 6) = some fl) : exec (.vred g d w) s = .next { s with
    body := (s.body.updDowel g d fun y => y.setV (w.fld 55 51)
      (reduce32 0 ((s.body.dowel g d).vr (w.fld 50 46)) :: List.replicate 31 0)).nextCore g d fl } := by
  change execVred g d w s = _
  simp only [execVred, State.onBody, h]

theorem exec_vmovx (h : s.body.coreRun g d w 3 (some 7) = some fl) : exec (.vmovx g d w) s = .next { s with
    body := ((s.body.clampCmd fl (coreClamps w)).updDowel g d fun y => y.setX (w.fld 55 51)
      (BitVec.ofNat 64 (((s.body.dowel g d).vr (w.fld 50 46)).getD (w.fld 4 0) 0))).nextCore g d fl } := by
  change execVmovx g d w s = _
  simp only [execVmovx, State.onBody, h]

theorem exec_bar (h : s.body.coreRun g d w 3 (some 4) = some fl) : exec (.bar g d w) s = .next { s with
    body := (s.body.updDowel g d fun y => { y with bar := true }).barCheck g } := by
  change execBar g d w s = _
  simp only [execBar, State.onBody, h]

theorem exec_ctrlEnd (h : s.body.coreRun g d w 3 (some 5) = some fl) : exec (.ctrlEnd g d w) s = .next { s with
    body := (s.body.unitDone fl.uid).endDowel g d fl } := by
  change execCtrlEnd g d w s = _
  simp only [execCtrlEnd, State.onBody, h]

end

/-! ### BAR and END -/

/-- A Dowel goes on where it waits at BAR. -/
def Dowel.pastBar (y : Dowel) : Dowel := if y.bar then { y with bar := false, pc := y.pc + 8 } else y

theorem Dowel.pastBar_ended (y : Dowel) : y.pastBar.ended = y.ended := by unfold Dowel.pastBar; split <;> rfl

/-- Every Dowel of a Berth that waits at BAR goes on. -/
def Body.passBar (b : Body) (g : Nat) : Body := (List.range 64).foldl (fun b d => b.updDowel g d Dowel.pastBar) b

theorem foldl_updDowel_dowel (g : Nat) (f : Dowel → Dowel) {l : List Nat} (hl : l.Nodup) (b : Body) (d : Nat) :
    (l.foldl (fun b e => b.updDowel g e f) b).dowel g d = if d ∈ l then f (b.dowel g d) else b.dowel g d := by
  induction l generalizing b with
  | nil => rfl
  | cons e l ih =>
    obtain ⟨he, hl⟩ := List.nodup_cons.1 hl
    rw [List.foldl_cons, ih hl]
    by_cases hde : d = e
    · subst hde
      rw [if_neg he, if_pos List.mem_cons_self, Body.dowel_updDowel_self]
    · simp only [Body.dowel_updDowel_ne b g f hde, List.mem_cons, hde, false_or]

theorem passBar_dowel (b : Body) (g : Nat) {d : Nat} (hd : d < 64) : (b.passBar g).dowel g d = (b.dowel g d).pastBar := by
  rw [Body.passBar, foldl_updDowel_dowel g _ List.nodup_range, if_pos (List.mem_range.2 hd)]

theorem passBar_keep {γ : Type} (p : Body → γ) (h : ∀ (b : Body) g d f, p (b.updDowel g d f) = p b) (b : Body) (g : Nat) :
    p (b.passBar g) = p b := foldl_keep p _ _ b fun b d => h b g d _

/-- Every Dowel of a Berth has ended or waits at BAR. -/
def Body.allAtBar (b : Body) (g : Nat) : Bool := (List.range 64).all fun e => (b.dowel g e).ended || (b.dowel g e).bar

theorem allAtBar_iff {b : Body} {g : Nat} :
    b.allAtBar g = true ↔ ∀ e, e < 64 → (b.dowel g e).ended = true ∨ (b.dowel g e).bar = true := by
  simp only [Body.allAtBar, List.all_eq_true, List.mem_range, Bool.or_eq_true]

theorem barCheck_eq (b : Body) (g : Nat) : b.barCheck g = if b.allAtBar g = true then b.passBar g else b := rfl

theorem barCheck_keep {γ : Type} (p : Body → γ) (h : ∀ (b : Body) g d f, p (b.updDowel g d f) = p b) (b : Body) (g : Nat) :
    p (b.barCheck g) = p b := by
  rw [barCheck_eq]
  split
  · exact passBar_keep p h b g
  · rfl

theorem barCheck_ended (b : Body) (g : Nat) {d : Nat} (hd : d < 64) : ((b.barCheck g).dowel g d).ended = (b.dowel g d).ended := by
  rw [barCheck_eq]
  split
  · rw [passBar_dowel b g hd, Dowel.pastBar_ended]
  · rfl

theorem sameBytes_barCheck (b : Body) (g : Nat) : SameBytes b (b.barCheck g) :=
  sameBytes_of (barCheck_keep (fun b => b.mem) Body.updDowel_mem b g) (barCheck_keep (fun b => b.haze) Body.updDowel_haze b g)
    (barCheck_keep (fun b => b.bg) Body.updDowel_bg b g)

theorem sameBytes_updDowel (b : Body) (g d : Nat) (f : Dowel → Dowel) : SameBytes b (b.updDowel g d f) := sameBytes_of rfl rfl rfl

theorem run_updDowel (b : Body) (g d : Nat) (f : Dowel → Dowel) (h : Nat) : ((b.updDowel g d f).berth h).run = (b.berth h).run := by
  by_cases hg : h = g
  · subst hg
    rw [Body.updDowel, Body.berth_updBerth_self]
  · rw [Body.updDowel, Body.berth_updBerth_ne b _ hg]

section
variable {b : Body} {g d : Nat}

/-- While another Dowel is on its way, one that reaches BAR waits there. -/
theorem bar_waits {e : Nat} (he : e < 64) (hne : e ≠ d) (hended : (b.dowel g e).ended = false) (hbar : (b.dowel g e).bar = false) :
    (b.updDowel g d fun y => { y with bar := true }).barCheck g = b.updDowel g d fun y => { y with bar := true } := by
  rw [barCheck_eq, if_neg]
  intro hall
  have hreached := allAtBar_iff.1 hall e he
  rw [Body.dowel_updDowel_ne b g _ hne, hended, hbar] at hreached
  exact absurd hreached (by decide)

/-- Where every other Dowel has ended, one that reaches BAR goes on at once. -/
theorem bar_passes (hd : d < 64) (hothers : ∀ e, e < 64 → e ≠ d → (b.dowel g e).ended = true) :
    ((b.updDowel g d fun y => { y with bar := true }).barCheck g).dowel g d =
      { b.dowel g d with bar := false, pc := (b.dowel g d).pc + 8 } := by
  rw [barCheck_eq, if_pos, passBar_dowel _ _ hd, Body.dowel_updDowel_self]
  · rfl
  · refine allAtBar_iff.2 fun e he => ?_
    by_cases hde : e = d
    · subst hde
      exact .inr (by rw [Body.dowel_updDowel_self])
    · exact .inl (by rw [Body.dowel_updDowel_ne b g _ hde, hothers e he hde])

/-- A Dowel that has executed END. -/
def Body.dowelEnded (b : Body) (g d : Nat) : Body := b.updDowel g d fun y => { y with ended := true, bar := false }

theorem sameBytes_dowelEnded (b : Body) (uid g d : Nat) : SameBytes b ((b.unitDone uid).dowelEnded g d) :=
  sameBytes_updDowel (b.unitDone uid) g d _

theorem endDowel_of_others {e : Nat} (fl : Flight) (he : e < 64) (hne : e ≠ d) (hended : (b.dowel g e).ended = false) :
    b.endDowel g d fl = (b.dowelEnded g d).barCheck g := by
  unfold Body.endDowel
  dsimp only
  rw [if_neg]
  · rfl
  · intro hall
    have hlast := List.all_eq_true.1 hall e (List.mem_range.2 he)
    rw [Body.dowel_updDowel_ne b g _ hne, hended] at hlast
    exact absurd hlast (by decide)

theorem endDowel_of_last (fl : Flight) (hothers : ∀ e, e < 64 → e ≠ d → (b.dowel g e).ended = true) :
    b.endDowel g d fl = (b.dowelEnded g d).endRun g fl.uid := by
  unfold Body.endDowel
  dsimp only
  rw [if_pos]
  · rfl
  · refine List.all_eq_true.2 fun e he => ?_
    by_cases hde : e = d
    · subst hde
      rw [Body.dowel_updDowel_self]
    · rw [Body.dowel_updDowel_ne b g _ hde, hothers e (List.mem_range.1 he) hde]

end

/-- Settles O24: a lane operation and a move change one register of the Dowel, which goes on; BAR and END go by whether every other
Dowel has ended. -/
theorem coreVectorAndControl : Obligations.CoreVectorAndControl := by
  intro s g d w fl
  refine ⟨fun h hop hmode => ?_, fun h => ?_, fun h => ?_, fun e h he hne hended hbar => ?_, fun h hothers => ?_,
    fun e h he hne hended => ?_, fun h hothers => ?_⟩
  · obtain ⟨t, hexec, hdowel, honly, hbytes⟩ := vec_effect h hop hmode
    refine ⟨_, hexec, rfl, hbytes, honly, ?_⟩
    rw [hdowel]
    refine ⟨rfl, rfl, rfl, fun i hi => ?_, fun k hk => (Dowel.vr_withPc _ _ _).trans (Dowel.vr_setV_ne _ _ hk)⟩
    rw [Dowel.vr_withPc, Dowel.vr_setV_self]
    exact getD_vecResult s.body g d w hi
  · obtain ⟨hdowel, honly, hbytes, hregs⟩ := goesOn_updDowel (f := fun y => y.setV (w.fld 55 51)
      (reduce32 0 ((s.body.dowel g d).vr (w.fld 50 46)) :: List.replicate 31 0)) rfl rfl h.2
    refine ⟨_, exec_vred h.1, rfl, hbytes, hregs, honly, ?_⟩
    rw [hdowel]
    exact ⟨(Dowel.vr_withPc _ _ _).trans (Dowel.vr_setV_self _ _ _), rfl, rfl⟩
  · have hpc := Dowel.setX_pc (s.body.dowel g d) (w.fld 55 51)
      (BitVec.ofNat 64 (((s.body.dowel g d).vr (w.fld 50 46)).getD (w.fld 4 0) 0))
    have hgoes := goesOn_updDowel (fl := fl) (f := fun y => y.setX (w.fld 55 51)
      (BitVec.ofNat 64 (((s.body.dowel g d).vr (w.fld 50 46)).getD (w.fld 4 0) 0)))
      (Body.clampCmd_berths s.body fl (coreClamps w)) hpc h.2
    obtain ⟨hbytes, hregs⟩ := hgoes.after_clampCmd (StillSame.refl s.body)
    refine ⟨_, exec_vmovx h.1, rfl, hbytes, hregs, hgoes.only, ?_⟩
    rw [hgoes.dowel]
    exact ⟨Dowel.setX_v _ _ _, congrArg (· + 8) hpc, fun k => Dowel.xr_setX _ _ _ _⟩
  · refine ⟨_, exec_bar h.1, rfl, ?_⟩
    rw [bar_waits he hne hended hbar]
    exact ⟨sameBytes_updDowel _ _ _ _, Body.updDowel_regs _ _ _ _, OnlyDowel.updDowel (OnlyDowel.of_berths rfl g d) _,
      Body.dowel_updDowel_self _ _ _ _⟩
  · refine ⟨_, exec_bar h.1, ?_⟩
    rw [bar_passes d.isLt hothers]
    exact ⟨rfl, rfl⟩
  · refine ⟨_, exec_ctrlEnd h.1, rfl, ?_⟩
    rw [endDowel_of_others (b := s.body.unitDone fl.uid) fl he hne hended]
    refine ⟨(sameBytes_dowelEnded _ _ _ _).trans (sameBytes_barCheck _ _),
      barCheck_keep (fun b => b.regs) Body.updDowel_regs _ _, ?_, ?_⟩
    · rw [barCheck_ended _ _ d.isLt, Body.dowelEnded, Body.dowel_updDowel_self]
    · rw [barCheck_keep (fun b => (b.berth g).run) (fun b _ _ _ => run_updDowel b _ _ _ g), Body.dowelEnded, run_updDowel]
      exact (coreRun_spec h.1).1
  · obtain ⟨hbytes, hrun⟩ := endRun_spec ((s.body.unitDone fl.uid).dowelEnded g d) g fl.uid
    refine ⟨_, exec_ctrlEnd h.1, ?_⟩
    rw [endDowel_of_last (b := s.body.unitDone fl.uid) fl hothers]
    exact ⟨(sameBytes_dowelEnded _ _ _ _).trans hbytes, hrun⟩

end Sys2Proof.Machine
end

section
/-! PROOFS. ENDLOOP of a loop whose start lies past the program's end (R153): the run ends there, and RUNNING with it. -/

namespace Sys2Proof.Machine

theorem goTo_of_past {b : Body} {fl : Flight} {pc : Nat} (h : progBytes fl ≤ pc) (g : Nat) :
    b.goTo g fl pc = (b.unitDone fl.uid).endRun g fl.uid := by
  simp only [Body.goTo, ge_iff_le, if_pos h]

/-- An ENDLOOP with an iteration left goes back to the loop's start, wherever that is. -/
theorem exec_jctlEndloop_of_left {s : State} {g : Fin 200} {w : List Word} {fl : Flight} {p k : Nat} {r : List (Nat × Nat)}
    (hjctl : s.body.jctl g w 2 = some fl) (hdeep : (s.body.berth g).deep = 0) (hloops : (s.body.berth g).loops = (p, k) :: r)
    (hk : 1 < k) : exec (.jctlEndloop g w) s =
      .next { s with body := (s.body.updBerth g fun x => { x with loops := (p, k - 1) :: r }).goTo g fl p } := by
  change execJctlEndloop g w s = _
  simp only [execJctlEndloop, State.onBody, hjctl, hdeep, hloops, gt_iff_lt, Nat.lt_irrefl, if_false, if_pos hk]

/-- A JY_RUN of a program of 64 bytes. -/
def shortRun : Flight :=
  { uid := 7, opc := 0x4A, slot := 0, cmd :=
    { wq := 0, ctx := 0, tag := 0, fence := false, cpl := false, slack := false, length := 1, words := [1] } }

/-- The words of a JCTL ENDLOOP. -/
def endloopWords : List Word := [0x2E08000000000000, 0, 0, 0]

/-- Berth 0 runs that program, RUNNING set, and stands at an ENDLOOP with two iterations left of a loop whose start, 64, lies past
the program's end. -/
def loopPastEnd : State :=
  { pending := [], fuse := {}, body :=
    Body.setF { hm := { flights := [shortRun] }, mem := [(storeBase 0 + 6, 8), (storeBase 0 + 7, 0x2E)], bg := [(2000, 0)],
                berths := [(0, { run := some 7, loops := [(64, 2)] })] } (.brJyStat 0) Fld.brJyStatRunning 1 }

theorem jctl_loopPastEnd : loopPastEnd.body.jctl 0 endloopWords 2 = some shortRun := by decide

theorem running_loopPastEnd : loopPastEnd.body.getF (.brJyStat 0) Fld.brJyStatRunning = 1 := by decide

/-- The body after that ENDLOOP: one iteration fewer, and the run ended. -/
def loopPastEndStopped : Body :=
  ((loopPastEnd.body.updBerth 0 fun x => { x with loops := [(64, 1)] }).unitDone 7).endRun 0 7

theorem exec_loopPastEnd : exec (.jctlEndloop 0 endloopWords) loopPastEnd = .next { loopPastEnd with body := loopPastEndStopped } := by
  rw [exec_jctlEndloop_of_left jctl_loopPastEnd rfl rfl (by decide), goTo_of_past (by decide)]
  rfl

theorem running_loopPastEndStopped : loopPastEndStopped.getF (.brJyStat 0) Fld.brJyStatRunning = 0 := by decide

/-- Refutes O26: its clause for ENDLOOP keeps every register whatever the loop's start; only the clause's last part assumes a start
inside the program. Where iterations are left and the start lies past the program's end, the ENDLOOP ends the run, which clears
RUNNING. -/
theorem not_tileControlAndRuns : ¬ Obligations.TileControlAndRuns := by
  intro h
  obtain ⟨-, -, -, hendloop, -⟩ := h loopPastEnd 0 endloopWords shortRun
  obtain ⟨t, hexec, -, hregs, -⟩ := hendloop jctl_loopPastEnd (by decide)
  obtain rfl : { loopPastEnd with body := loopPastEndStopped } = t := by
    rw [exec_loopPastEnd] at hexec
    exact Host.Outcome.next.inj hexec
  have hrunning := Body.getF_congr hregs (.brJyStat 0) Fld.brJyStatRunning
  rw [running_loopPastEndStopped, running_loopPastEnd] at hrunning
  exact absurd hrunning (by decide)

end Sys2Proof.Machine
end

section
/-! PROOFS. Swaps of a partition's Lathe table banks (R179): what a swap leaves in BR_LATHE_STAT of each Berth of the partition. -/

namespace Sys2Proof.Machine

/-! ### The Berths of a partition -/

theorem nodup_quaysOf (fr : SMap Nat) (p : Nat) : (quaysOf fr p).Nodup := List.nodup_range.filter _

theorem lt_ten_of_mem_quaysOf {fr : SMap Nat} {p q : Nat} (h : q ∈ quaysOf fr p) : q < 10 := List.mem_range.1 (List.mem_filter.1 h).1

theorem mem_quayBerths {q g : Nat} : g ∈ (List.range 20).map (20 * q + ·) ↔ g / 20 = q := by
  simp only [List.mem_map, List.mem_range]
  exact ⟨fun ⟨i, hi, hg⟩ => by omega, fun hg => ⟨g % 20, by omega, by omega⟩⟩

theorem berthsOfPart_lt {b : Body} {p g : Nat} (h : g ∈ b.berthsOfPart p) : g < 200 := by
  obtain ⟨q, hq, hg⟩ := List.mem_flatMap.1 h
  have hlt := lt_ten_of_mem_quaysOf hq
  have hquay := mem_quayBerths.1 hg
  omega

/-- Each Berth of a partition is listed once. -/
theorem nodup_berthsOfPart (b : Body) (p : Nat) : (b.berthsOfPart p).Nodup := by
  refine List.nodup_flatMap.2 ⟨fun q _ => List.nodup_range.map fun i j hij => by simpa using hij, ?_⟩
  refine (nodup_quaysOf b.framing p).imp fun {q r} hne g hq hr => hne ?_
  rw [← mem_quayBerths.1 hq, mem_quayBerths.1 hr]

/-! ### A list of steps of which each changes a part of its own -/

/-- Where a step at `x` changes the part of `x` by `u` and no other part, steps at distinct places change the part of each once. -/
theorem foldl_changes_once {α β γ : Type} {f : β → α → β} {part : α → β → γ} {u : γ → γ} {l : List α} (hl : l.Nodup)
    (hself : ∀ b, ∀ x ∈ l, part x (f b x) = u (part x b)) (hother : ∀ b x y, y ≠ x → part y (f b x) = part y b) (b : β)
    {y : α} (hy : y ∈ l) : part y (l.foldl f b) = u (part y b) := by
  induction l generalizing b with
  | nil => cases hy
  | cons x l ih =>
    obtain ⟨hx, hl⟩ := List.nodup_cons.1 hl
    rw [List.foldl_cons]
    rcases List.mem_cons.1 hy with rfl | hmem
    · rw [← hself b y List.mem_cons_self]
      refine List.foldlRecOn (motive := fun c => part y c = part y (f b y)) l f rfl fun c hc z hz => ?_
      rw [hother c z y (ne_of_mem_of_not_mem hz hx).symm, hc]
    · rw [ih hl (fun c z hz => hself c z (List.mem_cons_of_mem _ hz)) (f b x) hmem,
        hother b x y (ne_of_mem_of_not_mem hmem hx)]

/-! ### BR_LATHE_STAT -/

theorem latheStat_stored (g : Nat) : (Reg.brLatheStat g).stored := by simp [Reg.stored]

theorem latheStat_ok {g : Nat} (hg : g < 200) : (Reg.brLatheStat g).ok = true := decide_eq_true hg

theorem latheStat_addr_ne {g h : Nat} (hne : h ≠ g) : (Reg.brLatheStat h).addr ≠ (Reg.brLatheStat g).addr := by
  simp only [Reg.addr]; omega

theorem getF_latheStat_setF_apart (b : Body) (g h : Nat) {f x : Fld} (v : Nat) (hf : f.lo ≤ f.hi) (hh : f.hi < 64)
    (hx : x.lo ≤ x.hi) (hapart : x.hi < f.lo ∨ f.hi < x.lo) :
    (b.setF (.brLatheStat g) f v).getF (.brLatheStat h) x = b.getF (.brLatheStat h) x := by
  by_cases heq : h = g
  · subst heq
    cases hok : (Reg.brLatheStat h).ok with
    | false => rw [Body.setF_of_not_ok b hok]
    | true => exact Body.getF_setF_apart b v hok (latheStat_stored h) hf hh hx hapart
  · exact Body.getF_setF_ne b f x v (latheStat_addr_ne heq)

/-- The end of a command sets no field of BR_LATHE_STAT but SHADOW_BUSY. -/
theorem getF_latheStat_done (b : Body) (fl : Flight) (r g : Nat) {x : Fld} (hx : x.lo ≤ x.hi) (hlow : x.hi < 33) :
    (b.done fl r).getF (.brLatheStat g) x = b.getF (.brLatheStat g) x := by
  unfold Body.done Body.retire
  simp only [ne_eq, not_true_eq_false, false_and, if_false]
  rw [Body.log_getF, Body.syncShadow_keep (fun b => b.getF (.brLatheStat g) x) fun b h v =>
    getF_latheStat_setF_apart b h g v (by decide) (by decide) hx (.inl hlow)]
  rfl

/-! ### A swap -/

/-- A swap in one Berth. -/
def Body.swapBerth (b : Body) (p g : Nat) : Body :=
  ((b.setF (.brLatheStat g) Fld.brLatheStatCurBank (1 - b.getF (.brLatheStat g) Fld.brLatheStatCurBank)).setF (.brLatheStat g)
    Fld.brLatheStatEpoch (b.getF (.brLatheStat g) Fld.brLatheStatEpoch + 1)).setF (.brLatheStat g) Fld.brLatheStatShadowBusy
      (if b.latched p (b.getF (.brLatheStat g) Fld.brLatheStatCurBank) then 1 else 0)

theorem swapBanks_eq (b : Body) (p : Nat) : b.swapBanks p = (b.berthsOfPart p).foldl (fun b g => b.swapBerth p g) b := rfl

section
variable (b : Body) (p : Nat) {g : Nat}

/-- What a change of BR_LATHE_STAT leaves alone, a swap leaves alone. -/
theorem swapBanks_keep {γ : Type} (q : Body → γ) (h : ∀ (b : Body) g f v, q (b.setF (.brLatheStat g) f v) = q b) :
    q (b.swapBanks p) = q b := by
  rw [swapBanks_eq]
  exact foldl_keep q _ _ b fun b g => by rw [Body.swapBerth, h, h, h]

theorem getF_swapBerth_ne {h : Nat} (hne : h ≠ g) (x : Fld) :
    (b.swapBerth p g).getF (.brLatheStat h) x = b.getF (.brLatheStat h) x := by
  have hkeep : ∀ (c : Body) f v, (c.setF (.brLatheStat g) f v).getF (.brLatheStat h) x = c.getF (.brLatheStat h) x :=
    fun c f v => Body.getF_setF_ne c f x v (latheStat_addr_ne hne)
  rw [Body.swapBerth, hkeep, hkeep, hkeep]

theorem curBank_swapBerth (hg : g < 200) : (b.swapBerth p g).getF (.brLatheStat g) Fld.brLatheStatCurBank =
    1 - b.getF (.brLatheStat g) Fld.brLatheStatCurBank := by
  rw [Body.swapBerth, getF_latheStat_setF_apart _ _ _ _ (by decide) (by decide) (by decide) (by decide),
    getF_latheStat_setF_apart _ _ _ _ (by decide) (by decide) (by decide) (by decide),
    Body.getF_setF_self b _ (latheStat_ok hg) (latheStat_stored g) (by decide) (by decide)]
  exact Nat.mod_eq_of_lt (Nat.lt_succ_of_le (Nat.sub_le 1 _))

theorem epoch_swapBerth (hg : g < 200) : (b.swapBerth p g).getF (.brLatheStat g) Fld.brLatheStatEpoch =
    (b.getF (.brLatheStat g) Fld.brLatheStatEpoch + 1) % 2 ^ 32 := by
  rw [Body.swapBerth, getF_latheStat_setF_apart _ _ _ _ (by decide) (by decide) (by decide) (by decide),
    Body.getF_setF_self _ _ (latheStat_ok hg) (latheStat_stored g) (by decide) (by decide)]
  rfl

theorem curBank_swapBanks (hg : g ∈ b.berthsOfPart p) : (b.swapBanks p).getF (.brLatheStat g) Fld.brLatheStatCurBank =
    1 - b.getF (.brLatheStat g) Fld.brLatheStatCurBank := by
  rw [swapBanks_eq]
  exact foldl_changes_once (part := fun g b => b.getF (.brLatheStat g) Fld.brLatheStatCurBank) (u := (1 - ·))
    (nodup_berthsOfPart b p) (fun c _ hx => curBank_swapBerth c p (berthsOfPart_lt hx))
    (fun c _ _ hne => getF_swapBerth_ne c p hne _) b hg

theorem epoch_swapBanks (hg : g ∈ b.berthsOfPart p) : (b.swapBanks p).getF (.brLatheStat g) Fld.brLatheStatEpoch =
    (b.getF (.brLatheStat g) Fld.brLatheStatEpoch + 1) % 2 ^ 32 := by
  rw [swapBanks_eq]
  exact foldl_changes_once (part := fun g b => b.getF (.brLatheStat g) Fld.brLatheStatEpoch) (u := fun v => (v + 1) % 2 ^ 32)
    (nodup_berthsOfPart b p) (fun c _ hx => epoch_swapBerth c p (berthsOfPart_lt hx))
    (fun c _ _ hne => getF_swapBerth_ne c p hne _) b hg

theorem swapBanks_hm : (b.swapBanks p).hm = b.hm := swapBanks_keep b p Body.hm fun b _ _ _ => Body.setF_hm b _ _ _

theorem sameBytes_swapBanks : SameBytes b (b.swapBanks p) :=
  sameBytes_of (swapBanks_keep b p Body.mem fun b _ _ _ => Body.setF_mem b _ _ _)
    (swapBanks_keep b p Body.haze fun b _ _ _ => Body.setF_haze b _ _ _)
    (swapBanks_keep b p Body.bg fun b _ _ _ => Body.setF_bg b _ _ _)

theorem reg_swapBanks {q : Reg} (hq : ¬ q.notes) : (b.swapBanks p).reg q = b.reg q :=
  swapBanks_keep b p (Body.reg · q) fun b g f v =>
    Body.reg_setF_ne b f v fun haddr => hq (.inr (.inr (.inr (.inr ⟨g, haddr⟩))))

/-- Only registers that take note change, so the command that swaps ends as one that has changed nothing. -/
theorem StillSame.swapBanks : StillSame b (b.swapBanks p) :=
  ⟨by rw [swapBanks_hm], sameBytes_swapBanks b p, fun _ hq _ => reg_swapBanks b p hq⟩

end

end Sys2Proof.Machine
end

section
/-! PROOFS. The load of an image into a shadow bank (R173-R178): its clamps write inside the bank, and what comes before and after
writes no byte. -/

namespace Sys2Proof.Machine

/-! ### Changes inside one bank -/

/-- No command has ended since, and every byte outside bank `k` of partition `p` reads as before. -/
structure OnlyBank (p k : Nat) (b t : Body) : Prop where
  ended : t.hm.ended = b.hm.ended
  bytes : SameBytesBut b t (jigBase p k) 0x20000

section
variable {p k : Nat} {b : Body}

theorem OnlyBank.sameBytes {t u : Body} (h : OnlyBank p k b t) (hended : u.hm.ended = t.hm.ended) (hbytes : SameBytes t u) :
    OnlyBank p k b u where
  ended := hended.trans h.ended
  bytes a ha := (hbytes a).trans (h.bytes a ha)

theorem OnlyBank.setBytes {t : Body} {off : Nat} {l : List Byte} (h : OnlyBank p k b t) (hin : off + l.length ≤ 0x20000) :
    OnlyBank p k b (t.setBytes (jigBase p k + off) l) where
  ended := by rw [Body.setBytes_hm, h.ended]
  bytes a ha := by rw [Body.byte_setBytes_ne t _ _ _ (by omega), h.bytes a ha]

/-! ### The clamps of an image -/

variable {x : Body × Nat} (h : OnlyBank p k b x.1)
include h

theorem OnlyBank.bankSet {off n : Nat} (v : Nat) (hin : off + n ≤ 0x20000) : OnlyBank p k b (Body.bankSet p k x off n v).1 := by
  unfold Body.bankSet
  split
  · exact h
  · exact h.setBytes (by rwa [length_leBytes])

theorem OnlyBank.bankSet_if {c : Prop} [Decidable c] {off n : Nat} (v : Nat) (hin : off + n ≤ 0x20000) :
    OnlyBank p k b (if c then Body.bankSet p k x off n v else x).1 := by
  split
  · exact h.bankSet v hin
  · exact h

theorem OnlyBank.jigHead {base : Nat} (hin : base + 5 ≤ 0x20000) : OnlyBank p k b (Body.jigHead p k base x).1 := by
  have hmono := h.bankSet_if (c := bits (x.1.bank p k base 1) 3 2 = 3) (putBits (x.1.bank p k base 1) 3 2 2)
    (show base + 1 ≤ 0x20000 by omega)
  exact ((hmono.bankSet _ (by omega)).bankSet_if _ (by omega)).bankSet _ (by omega)

theorem OnlyBank.jigWord {base i : Nat} (hin : base + 72 + 4 * i + 4 ≤ 0x20000) :
    OnlyBank p k b (Body.jigWord p k base i x).1 := by
  unfold Body.jigWord
  dsimp only
  generalize hy : (if x.1.bank p k (base + 72 + 4 * i) 4 / 2 ^ 27 > 0x0E then _ else x) = y
  have hop : OnlyBank p k b y.1 := by rw [← hy]; exact h.bankSet_if _ hin
  split
  · exact hop.bankSet _ hin
  · split
    · refine OnlyBank.bankSet ?_ _ hin
      split
      · exact hop
      · exact hop.bankSet _ hin
    · exact hop

theorem OnlyBank.jigSeam {s : Nat} (hs : s < 7936) (joined : Bool) : OnlyBank p k b (Body.jigSeam p k s joined x).1 := by
  unfold Body.jigSeam
  exact (h.bankSet_if _ (by omega)).bankSet_if _ (by omega)

omit h in
theorem bank_byte_lt (t : Body) (off : Nat) : t.bank p k off 1 < 256 := by
  have hbyte := (t.byte (jigBase p k + off)).isLt
  simpa [Body.bank, Body.le, Body.bytes, ofLe] using hbyte

omit h in
/-- A Jig has at most 255 step words that can run, whatever STEPS holds. -/
theorem jigLive_lt {t : Body} {base i : Nat} (hi : i ∈ jigLive (t.bank p k) base) : i < 256 :=
  (List.mem_range.1 ((List.takeWhile_sublist _).subset hi)).trans (bank_byte_lt t (base + 1))

omit h in
theorem jigSegments_lt {bk : Bank} {base s : Nat} (hs : s ∈ jigSegments bk base) : s < 7936 := by
  unfold jigSegments at hs
  exact List.mem_range.1 (List.mem_filter.1 hs).1

theorem OnlyBank.jigWords {base : Nat} {l : List Nat} (hin : ∀ i ∈ l, base + 72 + 4 * i + 4 ≤ 0x20000) :
    OnlyBank p k b (l.foldl (fun x i => Body.jigWord p k base i x) x).1 :=
  List.foldlRecOn (motive := fun y : Body × Nat => OnlyBank p k b y.1) l _ h fun _ hy i hi => hy.jigWord (hin i hi)

theorem OnlyBank.jigSeams {l : List Nat} (hin : ∀ s ∈ l, s < 7936) (joined : Nat → Bool) :
    OnlyBank p k b (l.foldl (fun x s => Body.jigSeam p k s (joined s) x) x).1 :=
  List.foldlRecOn (motive := fun y : Body × Nat => OnlyBank p k b y.1) l _ h fun _ hy s hs => hy.jigSeam (hin s hs) _

theorem OnlyBank.jigFix {j : Nat} (hj : j < 16) : OnlyBank p k b (Body.jigFix p k j x).1 := by
  unfold Body.jigFix
  dsimp only
  split
  · exact h
  · have hwords := (h.jigHead (base := 256 * j) (by omega)).jigWords (base := 256 * j)
      (l := jigLive ((Body.jigHead p k (256 * j) x).1.bank p k) (256 * j)) fun i hi => by have := jigLive_lt hi; omega
    split
    · exact hwords.jigSeams (fun _ => jigSegments_lt) _
    · exact hwords

end

/-! ### What comes before the image is written -/

theorem load_of_no_badSectors {b : Body} (h : b.tiers.badSectors = []) (fl : Flight) (a n : Nat) :
    b.load fl a n = (b.bytes a n, false, b.readPages a n) := by
  simp only [Body.load, Body.badIn, h, List.find?_nil]

theorem reg_charge_of_ne_slStat (b : Body) (i t point n : Nat) {q : Reg}
    (hq : (Reg.slStat i t).ok = true → q.addr ≠ (Reg.slStat i t).addr) : (b.charge i t point n).reg q = b.reg q := by
  unfold Body.charge
  split
  · rfl
  · dsimp only
    split
    · cases hok : (Reg.slStat i t).ok with
      | false => rw [Body.bump, Body.setF_of_not_ok _ hok]; exact Body.reg_congr rfl q
      | true => rw [Body.reg_bump_ne _ _ _ (hq hok)]; exact Body.reg_congr rfl q
    · exact Body.reg_congr rfl q

/-- Tier traffic counts in the Sluices and the context's counters, not in BR_LATHE_STAT. -/
theorem reg_latheStat_tierTraffic (b : Body) (slot a n : Nat) (write : Bool) (point : Nat) {g : Nat} (hg : g < 200) :
    (b.tierTraffic slot a n write point).reg (.brLatheStat g) = b.reg (.brLatheStat g) := by
  have hcharge : ∀ (c : Body) i t m, (c.charge i t point m).reg (.brLatheStat g) = c.reg (.brLatheStat g) := by
    refine fun c i t m => reg_charge_of_ne_slStat c i t point m fun hok => ?_
    simp only [Reg.ok, Bool.and_eq_true, decide_eq_true_eq] at hok
    simp only [Reg.addr]
    omega
  have hcount : ∀ (c : Body) i m, (c.count slot i m).reg (.brLatheStat g) = c.reg (.brLatheStat g) := by
    intro c i m
    unfold Body.count
    split
    · cases hok : (Reg.hmCtxCnt slot i).ok with
      | false => rw [Body.bump, Body.setF_of_not_ok _ hok]
      | true =>
        refine Body.reg_bump_ne c _ _ ?_
        simp only [Reg.ok, Bool.and_eq_true, decide_eq_true_eq] at hok
        simp only [Reg.addr]
        omega
    · rfl
  unfold Body.tierTraffic
  split
  · rw [hcount, hcharge]
  · rw [hcount, hcharge]
  · split <;> rw [hcount, hcharge]
  · rfl

theorem curBank_congr {b t : Body} (hframing : t.framing = b.framing) (hregs : ∀ g < 200, t.reg (.brLatheStat g) = b.reg (.brLatheStat g))
    (p : Nat) : t.curBank p = b.curBank p := by
  have hberths : t.berthsOfPart p = b.berthsOfPart p := by rw [Body.berthsOfPart, hframing, Body.berthsOfPart]
  unfold Body.curBank
  rw [hberths]
  split
  · rfl
  · rename_i g _ hlist
    rw [Body.getF, hregs g (berthsOfPart_lt (b := b) (p := p) (by rw [hlist]; exact List.mem_cons_self)), Body.getF]

/-- The body once the image has been read: its traffic counted, the pages it passed through noted. -/
def Body.imageRead (b : Body) (slot a : Nat) : Body := (b.tierTraffic slot a 0x20000 false 11).readPages a 0x20000

theorem sameMemory_imageRead (b : Body) (slot a : Nat) : SameMemory b (b.imageRead slot a) :=
  (sameMemory_tierTraffic b slot a _ _ _).trans (sameMemory_readPages _ a _)

theorem curBank_imageRead (b : Body) (slot a p : Nat) : (b.imageRead slot a).curBank p = b.curBank p := by
  refine curBank_congr ?_ (fun g hg => ?_) p
  · exact (Body.readPages_keep Body.framing (fun _ _ => rfl) _ _ _).trans (Body.tierTraffic_framing b _ _ _ _ _)
  · exact (Body.readPages_keep (Body.reg · (.brLatheStat g)) (fun _ _ => Body.reg_congr rfl _) _ _ _).trans
      (reg_latheStat_tierTraffic b _ _ _ _ _ hg)

/-! ### The load -/

/-- An image in bank `k` of partition `p`, its 16 Jigs clamped; and how many clamps that took. -/
def Body.bankFilled (b : Body) (p k : Nat) (image : List Byte) : Body × Nat :=
  (List.range 16).foldl (fun x j => Body.jigFix p k j x) (b.setBytes (jigBase p k) image, 0)

theorem onlyBank_bankFilled {b t : Body} {p k : Nat} {image : List Byte} (h : OnlyBank p k b t) (hlen : image.length = 0x20000) :
    OnlyBank p k b (t.bankFilled p k image).1 :=
  List.foldlRecOn (motive := fun x : Body × Nat => OnlyBank p k b x.1) _ _ (h.setBytes (off := 0) (by omega))
    fun _ hx _ hj => hx.jigFix (List.mem_range.1 hj)

theorem jigLoad_of_readable {b : Body} {fl : Flight} {p a : Nat} {e : Entry}
    (hacc : b.accessHere fl.slot (fl.cmd.h 1) (32 * fl.cmd.f 1 37 18) 0x20000 false = .ok e) (hbad : b.tiers.badSectors = [])
    (ha : a = e.base + 32 * fl.cmd.f 1 37 18) :
    let x := (b.imageRead fl.slot a).bankFilled p (1 - b.curBank p) ((b.tierTraffic fl.slot a 0x20000 false 11).bytes a 0x20000)
    b.jigLoad fl p = (if fl.cmd.b 2 0 then (x.1.clampCmd fl x.2).swapBanks p else x.1.clampCmd fl x.2).done fl := by
  subst ha
  rw [← curBank_imageRead b fl.slot (e.base + 32 * fl.cmd.f 1 37 18) p]
  simp only [Body.jigLoad, hacc, load_of_no_badSectors ((tierTraffic_badSectors b _ _ _ _ _).trans hbad), Bool.false_eq_true, if_false]
  rfl

/-- A load of an image that may be read and holds no uncorrectable sector ends DONE and writes only its shadow bank (R178). -/
theorem jigLoad_spec {b : Body} {fl : Flight} {p : Nat} {e : Entry}
    (hacc : b.accessHere fl.slot (fl.cmd.h 1) (32 * fl.cmd.f 1 37 18) 0x20000 false = .ok e) (hbad : b.tiers.badSectors = []) :
    EndsWith b (b.jigLoad fl p) fl 0 0 ∧ SameBytesBut b (b.jigLoad fl p) (jigBase p (1 - b.curBank p)) 0x20000 := by
  generalize ha : e.base + 32 * fl.cmd.f 1 37 18 = a
  have hread : OnlyBank p (1 - b.curBank p) b (b.imageRead fl.slot a) :=
    have hsame := sameMemory_imageRead b fl.slot a
    ⟨hsame.ended, fun x _ => hsame.bytes x⟩
  rw [jigLoad_of_readable hacc hbad ha.symm]
  generalize hx : Body.bankFilled _ _ _ _ = x
  have hfilled : OnlyBank p (1 - b.curBank p) b x.1 := by
    rw [← hx]; exact onlyBank_bankFilled hread (Body.length_bytes _ _ _)
  have hclamped := hfilled.sameBytes (sameMemory_clampCmd x.1 fl x.2).ended (sameMemory_clampCmd x.1 fl x.2).bytes
  generalize hy : (if fl.cmd.b 2 0 = true then (x.1.clampCmd fl x.2).swapBanks p else x.1.clampCmd fl x.2) = y
  have hswapped : OnlyBank p (1 - b.curBank p) b y := by
    rw [← hy]
    split
    · exact hclamped.sameBytes (by rw [swapBanks_hm]) (sameBytes_swapBanks _ p)
    · exact hclamped
  refine ⟨Body.endsWith_done fl 0 hswapped.ended, fun q hq => ?_⟩
  rw [Body.byte_congr (Body.done_mem y fl 0) (Body.done_haze y fl 0) (Body.done_bg y fl 0), hswapped.bytes q hq]

end Sys2Proof.Machine
end

section
/-! PROOFS. JIG_LOAD and JIG_SHADOW_FREE (R178, R179, R181): which of them runs a load, swaps, waits or does nothing. -/

namespace Sys2Proof.Machine

/-- The body when a load has begun to wait for its shadow bank. -/
def Body.jigWaiting (b : Body) (fl : Flight) (h : Nat) : Body :=
  { b.start { fl with handles := [h / 65536] } with jigs := b.jigs ++ [{ fl with started := true }] }

theorem staysInFlight_jigWaiting {b : Body} {fl : Flight} (hmem : fl ∈ b.hm.flights) (h : Nat) :
    StaysInFlight b (b.jigWaiting fl h) fl :=
  ⟨rfl, { fl with handles := [h / 65536], started := true }, List.mem_map.2 ⟨fl, hmem, if_pos rfl⟩, rfl, rfl⟩

section
variable {s : State} {c : Cmd} {fl : Flight} {p : Nat}

theorem exec_jigSwapOnly_of_other (h : c.b 2 1 = false) : exec (.jigSwapOnly c) s = .next s := by
  change execJigSwapOnly c s = _
  simp only [execJigSwapOnly, State.onBody, Body.onSub, h, Bool.false_eq_true, if_false]

theorem exec_jigLoad_of_other (h : c.b 2 1 = true) : exec (.jigLoad c) s = .next s := by
  change execJigLoad c s = _
  simp only [execJigLoad, State.onBody, Body.onSub, h, Bool.not_true, Bool.false_eq_true, if_false]

section
variable (hd : Dispatched s.body c 0x4C fl)
include hd

theorem exec_jigSwapOnly_of_part (hsub : c.b 2 1 = true) (hp : s.body.partOfSlot fl.slot = some p) :
    exec (.jigSwapOnly c) s = .next { s with body := (s.body.swapBanks p).done fl } := by
  change execJigSwapOnly c s = _
  simp only [execJigSwapOnly, State.onBody, Body.onSub_dispatched hd, hsub, hp, if_true]

theorem exec_jig_of_no_part (hp : s.body.partOfSlot fl.slot = none) :
    exec (if c.b 2 1 = true then .jigSwapOnly c else .jigLoad c) s = .next { s with body := s.body.fail fl 0x11 } := by
  cases hsub : c.b 2 1 with
  | true =>
    change execJigSwapOnly c s = _
    simp only [execJigSwapOnly, State.onBody, Body.onSub_dispatched hd, hsub, hp, if_true]
  | false =>
    change execJigLoad c s = _
    simp only [execJigLoad, State.onBody, Body.onSub_dispatched hd, hsub, hp, Bool.not_false, if_true]

theorem exec_jigLoad_of_ready (hsub : c.b 2 1 = false) (hp : s.body.partOfSlot fl.slot = some p)
    (hready : s.body.jigReady p = true) : exec (.jigLoad c) s = .next { s with body := s.body.jigLoad fl p } := by
  change execJigLoad c s = _
  simp only [execJigLoad, State.onBody, Body.onSub_dispatched hd, hsub, hp, hready, Bool.not_false, if_true]

theorem exec_jigLoad_of_not_ready (hsub : c.b 2 1 = false) (hp : s.body.partOfSlot fl.slot = some p)
    (hready : s.body.jigReady p = false) : exec (.jigLoad c) s = .next { s with body := s.body.jigWaiting fl (c.h 1) } := by
  change execJigLoad c s = _
  simp only [execJigLoad, State.onBody, Body.onSub_dispatched hd, hsub, hp, hready, Bool.not_false, Bool.false_eq_true, if_true,
    if_false]
  rfl

end

theorem exec_jigShadowFree_of_idle {part : Fin 10} (h : (∀ x ∈ s.body.jigs, s.body.partOfSlot x.slot ≠ some part.val) ∨
    s.body.latched part (1 - s.body.curBank part) = true) : exec (.jigShadowFree part) s = .next s := by
  change execJigShadowFree part s = _
  cases hfind : s.body.jigs.find? fun x => decide (s.body.partOfSlot x.slot = some part.val) with
  | none => simp only [execJigShadowFree, State.onBody, hfind]
  | some fl =>
    have hlatched := h.resolve_left fun hnone =>
      hnone fl (List.mem_of_find?_eq_some hfind) (by simpa using List.find?_some hfind)
    simp only [execJigShadowFree, State.onBody, hfind, hlatched, if_true]

theorem exec_jigShadowFree_of_waiting {part : Fin 10} {r : List Flight} (hjigs : s.body.jigs = fl :: r)
    (hp : s.body.partOfSlot fl.slot = some part.val) (hfree : s.body.latched part (1 - s.body.curBank part) = false) :
    exec (.jigShadowFree part) s = .next { s with
      body := ({ s.body with jigs := s.body.jigs.filter (fun x => decide (x.uid ≠ fl.uid)) } : Body).jigLoad fl part } := by
  have hfind : (s.body.jigs.find? fun x => decide (s.body.partOfSlot x.slot = some part.val)) = some fl := by
    rw [hjigs, List.find?_cons_of_pos (by simpa using hp)]
  change execJigShadowFree part s = _
  simp only [execJigShadowFree, State.onBody, hfind, hfree, Bool.false_eq_true, if_false]

end

/-- Settles O27: a swap changes BR_LATHE_STAT of each Berth of the partition once, and a load writes only inside the shadow bank. -/
theorem jigBanks : Obligations.JigBanks := by
  intro s
  refine ⟨fun c fl p hd hsub hp => ?_, fun c fl hd hp => ?_, fun c => exec_jigSwapOnly_of_other, fun c => exec_jigLoad_of_other,
    fun c fl p e hd hsub hp hready hacc hbad => ?_, fun c fl p hd hsub hp hready => ?_,
    fun part => exec_jigShadowFree_of_idle, fun part fl r => exec_jigShadowFree_of_waiting⟩
  · have hsame := StillSame.swapBanks s.body p
    obtain ⟨hends, hbytes, -⟩ := hsame.done fl 0
    refine ⟨_, exec_jigSwapOnly_of_part hd hsub hp, rfl, hends, hbytes, fun g hg => ⟨?_, ?_⟩, fun q hq => ?_⟩
    · rw [getF_latheStat_done _ _ _ _ (by decide) (by decide), curBank_swapBanks s.body p hg]
    · rw [getF_latheStat_done _ _ _ _ (by decide) (by decide), epoch_swapBanks s.body p hg]
    · rw [Body.reg_done _ _ _ hq, reg_swapBanks s.body p hq]
  · exact ⟨_, exec_jig_of_no_part hd hp, (StillSame.refl s.body).fail fl 0x11 0 0⟩
  · rw [← hd.cmd] at hacc
    obtain ⟨hends, hbytes⟩ := jigLoad_spec (p := p) hacc hbad
    exact ⟨_, exec_jigLoad_of_ready hd hsub hp hready, rfl, hends, hbytes⟩
  · exact ⟨_, exec_jigLoad_of_not_ready hd hsub hp hready, staysInFlight_jigWaiting hd.mem (c.h 1), sameBytes_of rfl rfl rfl, rfl, rfl⟩

end Sys2Proof.Machine
end

section
/-! PROOFS. Crate pools (R207, R208): a pool put into, taken out of or changed in the store of pools beside its HM_POOL_STAT, the bitmap
of a new pool, and a slot's leaving quarantine. -/

namespace Sys2Proof.Machine

/-! ### What HM_POOL_STAT's update leaves alone -/

/-- What a change of a pool's HM_POOL_STAT leaves alone, its update leaves alone. -/
theorem Body.syncPool_keep {γ : Type} (p : Body → γ) {k : Nat} (h : ∀ (b : Body) w, p (b.setReg (.hmPoolStat k) w) = p b) (b : Body) :
    p (b.syncPool k) = p b := by
  unfold Body.syncPool
  split
  · simp only [Body.setF, h]
  · exact h b 0

/-- No command has ended since, every byte reads as before, and of the registers only the pool's HM_POOL_STAT may have changed. -/
structure OnlyPoolStat (b t : Body) (k : Nat) : Prop where
  ended : t.hm.ended = b.hm.ended
  bytes : SameBytes b t
  regs : SameRegsBut b t [(Reg.hmPoolStat k).addr]

/-- The store of Crates after a change to pool `k`, with its HM_POOL_STAT brought up to date. -/
def Body.putCrates (b : Body) (x : Crates) (k : Nat) : Body := ({ b with crates := x } : Body).syncPool k

section
variable (b : Body) (x : Crates) (k : Nat)

theorem Body.putCrates_crates : (b.putCrates x k).crates = x :=
  Body.syncPool_keep Body.crates (fun b w => Body.setReg_crates b _ w) _

theorem onlyPoolStat_putCrates : OnlyPoolStat b (b.putCrates x k) k where
  ended := congrArg Harbour.ended (Body.syncPool_keep Body.hm (fun b w => Body.setReg_hm b _ w) _)
  bytes := sameBytes_of (Body.syncPool_keep Body.mem (fun b w => Body.setReg_mem b _ w) _)
    (Body.syncPool_keep Body.haze (fun b w => Body.setReg_haze b _ w) _) (Body.syncPool_keep Body.bg (fun b w => Body.setReg_bg b _ w) _)
  regs q _ hq := Body.syncPool_keep (fun b => b.reg q) (fun b w => Body.reg_setReg_ne b w (mt List.mem_singleton.2 hq)) _

end

theorem SameBytes.done {b t : Body} (h : SameBytes b t) (fl : Flight) (r : Nat) : SameBytes b (t.done fl r) :=
  h.trans (sameBytes_of (Body.done_mem t fl r) (Body.done_haze t fl r) (Body.done_bg t fl r))

theorem OnlyPoolStat.done {b t : Body} {k : Nat} (h : OnlyPoolStat b t k) (fl : Flight) :
    OnlyEnds b (t.done fl) fl 0 0 [(Reg.hmPoolStat k).addr] :=
  ⟨Body.endsWith_done fl 0 h.ended, h.bytes.done fl 0, fun q hq hl => (Body.reg_done t fl 0 hq).trans (h.regs q hq hl)⟩

/-! ### The bitmap of a new pool -/

/-- The body with a pool's bitmap as CRATE_POOL leaves it: every slot free, but as it stands with ADOPT. -/
def Body.bitmapMade (b : Body) (adopt : Bool) (a n : Nat) : Body :=
  if adopt then b else b.store a (List.replicate (ceilDiv n 8) 0)

theorem store_crates {b : Body} (h : PlainMemory b) (a : Nat) (row : List Byte) : (b.store a row).crates = b.crates := by
  rw [store_of_plain h, program_keep_apart Body.crates (fun _ _ _ => rfl) Body.setF_crates
    (fun b _ _ _ _ _ => Body.err_crates b _ _ _ _ _ _ _), Body.setBytes_crates]

section
variable {b : Body} (h : PlainMemory b) (adopt : Bool) (a n : Nat)
include h

theorem bitmapMade_ended : (b.bitmapMade adopt a n).hm.ended = b.hm.ended := by
  cases adopt
  · exact (rowStored_store h a _).ended
  · rfl

theorem bitmapMade_crates : (b.bitmapMade adopt a n).crates = b.crates := by
  cases adopt
  · exact store_crates h a _
  · rfl

theorem bitmapMade_outside : SameBytesBut b (b.bitmapMade false a n) a (ceilDiv n 8) := fun x hx =>
  (rowStored_store h a _).outside x (by rwa [List.length_replicate])

theorem mapBit_bitmapMade {i : Nat} (hi : i < n) : (b.bitmapMade false a n).mapBit a i = false := by
  have hrow : i / 8 < (List.replicate (ceilDiv n 8) (0 : Byte)).length := by rw [List.length_replicate, ceilDiv]; omega
  have hbyte : (b.bitmapMade false a n).byte (a + i / 8) = 0 := by
    rw [Body.bitmapMade, if_neg Bool.false_ne_true, (rowStored_store h a _).inside _ hrow, List.getD_eq_getElem _ _ hrow,
      List.getElem_replicate]
  rw [Body.mapBit, hbyte]
  exact Nat.zero_testBit _

end

theorem SameBytes.mapBit {b t : Body} (h : SameBytes b t) (a i : Nat) : t.mapBit a i = b.mapBit a i := by
  rw [Body.mapBit, h, Body.mapBit]

/-! ### CRATE_POOL -/

/-- The pool that a CRATE_POOL makes of a region and a bitmap (R207). -/
def poolMade (fl : Flight) (h : Nat) (r m : Entry) : Pool :=
  { slot := fl.slot, handle := h, base := (poolSlots r).1, n := (poolSlots r).2, bitmap := m.base, place := r.place }

/-- The body once pool `k` stands. -/
def Body.poolPut (b : Body) (k : Nat) (p : Pool) : Body :=
  b.putCrates { b.crates with pools := SMap.put b.crates.pools k p } k

section
variable {s : State} {c : Cmd} {fl : Flight} {p : Pool} (hd : Dispatched s.body c 0x51 fl)
include hd

theorem exec_cratePoolCreate_of_fits {r m : Entry} (hsub : c.b 1 8 = false) (hfree : s.body.pool (c.f 1 7 0) = none)
    (hr : s.body.resolve fl.slot (c.h 2) = some r) (hm : s.body.resolve fl.slot (c.h 3) = some m) (hplace : r.place ≤ 4)
    (hlayout : r.layout ≠ 4) (hregion : s.body.accessOk r 0 r.size false = true) (hwr : r.wr = true)
    (hfits : bitmapFits r m (poolSlots r).2 = true) (hbitmap : s.body.accessOk m 0 (ceilDiv (poolSlots r).2 8) true = true) :
    exec (.cratePoolCreate c) s = .next { s with
      body := ((s.body.bitmapMade (c.b 1 9) m.base (poolSlots r).2).poolPut (c.f 1 7 0) (poolMade fl (c.h 2) r m)).done fl } := by
  change execCratePoolCreate c s = _
  simp only [execCratePoolCreate, State.onBody, Body.onSub_dispatched hd, hsub, hfree, hr, hm, hplace, hregion, hwr, hfits,
    hbitmap, hlayout, Bool.not_false, Option.isSome_none, Bool.false_eq_true, ne_eq, not_false_eq_true, and_self, not_true_eq_false,
    if_true, if_false]
  rfl

theorem exec_cratePoolCreate_of_open (hsub : c.b 1 8 = false) (hopen : (s.body.pool (c.f 1 7 0)).isSome = true) :
    exec (.cratePoolCreate c) s = .next { s with body := s.body.fail fl 0x11 (c.f 1 7 0) } := by
  change execCratePoolCreate c s = _
  simp only [execCratePoolCreate, State.onBody, Body.onSub_dispatched hd, hsub, hopen, Bool.not_false, if_true]

theorem exec_cratePoolDestroy_of_free (hsub : c.b 1 8 = true) (hp : s.body.pool (c.f 1 7 0) = some p) (hslot : p.slot = fl.slot)
    (hquar : p.quar = []) (hused : ∀ i, i < p.n → s.body.slotUsed p i = false) :
    exec (.cratePoolDestroy c) s = .next { s with
      body := (s.body.putCrates { s.body.crates with pools := SMap.drop s.body.crates.pools (c.f 1 7 0) } (c.f 1 7 0)).done fl } := by
  have hnone : ((List.range p.n).any fun i => s.body.slotUsed p i) = false :=
    List.any_eq_false.2 fun i hi => by rw [hused i (List.mem_range.1 hi)]; exact Bool.false_ne_true
  change execCratePoolDestroy c s = _
  simp only [execCratePoolDestroy, State.onBody, Body.onSub_dispatched hd, hsub, hp, hslot, hquar, hnone, ne_eq, not_true_eq_false,
    Bool.false_eq_true, or_self, if_true, if_false]
  rfl

theorem exec_cratePoolDestroy_of_used {i : Nat} (hsub : c.b 1 8 = true) (hp : s.body.pool (c.f 1 7 0) = some p) (hi : i < p.n)
    (hused : s.body.slotUsed p i = true) :
    exec (.cratePoolDestroy c) s = .next { s with body := s.body.fail fl 0x11 (c.f 1 7 0) } := by
  have hany : ((List.range p.n).any fun i => s.body.slotUsed p i) = true := List.any_eq_true.2 ⟨i, List.mem_range.2 hi, hused⟩
  change execCratePoolDestroy c s = _
  simp only [execCratePoolDestroy, State.onBody, Body.onSub_dispatched hd, hsub, hp, hany, or_true, if_true]

end

/-! ### SLOT_QUARANTINE_END -/

section
variable {s : State} {pool slot : Nat} {p : Pool} (hp : s.body.pool pool = some p)
include hp

theorem exec_slotQuarantineEnd_of_mem (hmem : slot ∈ p.quar) (hreserved : s.body.crates.reserved = []) :
    exec (.slotQuarantineEnd pool slot) s = .next { s with
      body := s.body.putCrates { s.body.crates with
        loads := s.body.crates.loads.filter (fun l => decide (l.addr ≠ p.addr slot)),
        pools := SMap.put s.body.crates.pools pool { p with quar := p.quar.filter fun i => decide (i ≠ slot) } } pool } := by
  change execSlotQuarantineEnd pool slot s = _
  simp only [execSlotQuarantineEnd, State.onBody, hp, hmem, not_true_eq_false, if_false]
  rw [← Body.putCrates]
  simp only [Body.putCrates_crates, hreserved, List.find?_nil]

theorem exec_slotQuarantineEnd_of_not_mem (hmem : slot ∉ p.quar) : exec (.slotQuarantineEnd pool slot) s = .next s := by
  change execSlotQuarantineEnd pool slot s = _
  simp only [execSlotQuarantineEnd, State.onBody, hp, hmem, not_false_eq_true, if_true]

end

/-- A created pool over a plain memory: the command is done, the pool stands, and without ADOPT its bitmap, and no other byte, is
cleared. -/
theorem poolCreated_spec {b : Body} (h : PlainMemory b) (adopt : Bool) (k : Nat) (fl : Flight) (p : Pool) :
    let t := ((b.bitmapMade adopt p.bitmap p.n).poolPut k p).done fl
    EndsWith b t fl 0 0 ∧ t.pool k = some p ∧ (∀ j, j ≠ k → t.pool j = b.pool j) ∧
      if adopt = true then SameBytes b t else SameBytesBut b t p.bitmap (ceilDiv p.n 8) ∧ ∀ i, i < p.n → t.slotUsed p i = false := by
  intro t
  obtain ⟨hended, hbytes, -⟩ := onlyPoolStat_putCrates (b.bitmapMade adopt p.bitmap p.n) _ k
  have hsame : SameBytes (b.bitmapMade adopt p.bitmap p.n) t := hbytes.done fl 0
  have hpools : t.crates.pools = SMap.put b.crates.pools k p := by
    rw [Body.done_crates_pools, Body.poolPut, Body.putCrates_crates, bitmapMade_crates h]
  refine ⟨Body.endsWith_done fl 0 (hended.trans (bitmapMade_ended h adopt _ _)), ?_, fun j hj => ?_, ?_⟩
  · rw [Body.pool, hpools, SMap.find_put_self]
  · rw [Body.pool, hpools, SMap.find_put_ne _ hj, Body.pool]
  · cases adopt with
    | true => exact hsame
    | false =>
      exact ⟨fun x hx => (hsame x).trans (bitmapMade_outside h _ _ x hx), fun i hi =>
        (hsame.mapBit _ _).trans (mapBit_bitmapMade h _ _ hi)⟩

/-- Settles O28: each command changes the store of pools and HM_POOL_STAT of one pool, and a creation without ADOPT its bitmap. -/
theorem cratePools : Obligations.CratePools := by
  rintro s c fl k rfl hplain
  refine ⟨fun r m hd hsub hfree hr hm hplace hlayout hregion hwr hfits hbitmap => ?_, fun hd hsub hopen => ?_,
    fun p hd hsub hp hslot hquar hused => ?_, fun p i hd hsub hp hi hused => ?_, fun pool slot p hp hmem hreserved => ?_,
    fun pool slot p hp hmem => exec_slotQuarantineEnd_of_not_mem hp hmem⟩
  · obtain ⟨hends, hpool, hother, hbytes⟩ := poolCreated_spec hplain (c.b 1 9) (c.f 1 7 0) fl (poolMade fl (c.h 2) r m)
    exact ⟨_, _, exec_cratePoolCreate_of_fits hd hsub hfree hr hm hplace hlayout hregion hwr hfits hbitmap, rfl, hends, hpool, rfl, rfl,
      rfl, rfl, hother, hbytes⟩
  · obtain ⟨hends, hbytes, hregs⟩ := (StillSame.refl s.body).fail fl 0x11 (c.f 1 7 0) 0
    exact ⟨_, exec_cratePoolCreate_of_open hd hsub hopen, hends, hbytes, hregs, Body.fail_crates_pools _ _ _ _ _⟩
  · obtain ⟨hends, hbytes, hregs⟩ := (onlyPoolStat_putCrates s.body
      { s.body.crates with pools := SMap.drop s.body.crates.pools (c.f 1 7 0) } (c.f 1 7 0)).done fl
    refine ⟨_, exec_cratePoolDestroy_of_free hd hsub hp hslot hquar hused, hends, ?_, fun j hj => ?_, hbytes, hregs⟩
    · rw [Body.pool, Body.done_crates_pools, Body.putCrates_crates, SMap.find_drop_self]
    · rw [Body.pool, Body.done_crates_pools, Body.putCrates_crates, SMap.find_drop_ne _ hj, Body.pool]
  · obtain ⟨hends, hbytes, -⟩ := (StillSame.refl s.body).fail fl 0x11 (c.f 1 7 0) 0
    exact ⟨_, exec_cratePoolDestroy_of_used hd hsub hp hi hused, hends, hbytes, Body.fail_crates_pools _ _ _ _ _⟩
  · obtain ⟨-, hbytes, hregs⟩ := onlyPoolStat_putCrates s.body { s.body.crates with
      loads := s.body.crates.loads.filter (fun l => decide (l.addr ≠ p.addr slot)),
      pools := SMap.put s.body.crates.pools pool { p with quar := p.quar.filter fun i => decide (i ≠ slot) } } pool
    refine ⟨_, exec_slotQuarantineEnd_of_mem hp hmem hreserved, hbytes, ?_, fun l hl => ?_, hregs⟩
    · rw [Body.pool, Body.putCrates_crates, SMap.find_put_self]
    · rw [Body.putCrates_crates] at hl
      exact of_decide_eq_true (List.mem_filter.1 hl).2

end Sys2Proof.Machine
end

section
/-! PROOFS. The table of a Crate Map (R209, R211): an entry as the 8 bytes that hold it, entries one beside another, and the fresh table
of a map that opens. -/

namespace Sys2Proof.Machine

/-! ### Numbers in memory -/

/-- A number read back from its little-endian bytes (R6). -/
theorem ofLe_leBytes (k v : Nat) : ofLe (leBytes k v) = v % 256 ^ k := by
  induction k generalizing v with
  | zero => rw [leBytes, ofLe, pow_zero, Nat.mod_one]
  | succ k ih => rw [leBytes, ofLe, ih, BitVec.toNat_ofNat, pow_succ' 256 k, Nat.mod_mul]

/-- A number whose bytes stand in a row that has been stored. -/
theorem RowStored.le_part {b t : Body} {a o k v : Nat} {row : List Byte} (h : RowStored b t a row) (hfits : o + k ≤ row.length)
    (hpart : ∀ j, j < k → row.getD (o + j) 0 = (leBytes k v).getD j 0) : t.le (a + o) k = v % 256 ^ k := by
  have hbytes : t.bytes (a + o) k = leBytes k v := by
    have hlen := length_leBytes k v
    conv_lhs => rw [← hlen]
    exact h.bytes_part (by rwa [hlen]) (by rwa [hlen])
  rw [Body.le, hbytes, ofLe_leBytes]

theorem bytes_eq_of_byte {b t : Body} {a n : Nat} (h : ∀ x, a ≤ x → x < a + n → t.byte x = b.byte x) :
    t.bytes a n = b.bytes a n := by
  induction n generalizing a with
  | zero => rfl
  | succ n ih =>
    rw [Body.bytes, h a (Nat.le_refl a) (by omega), ih fun x hx hlt => h x (by omega) (by omega), Body.bytes]

/-! ### An entry and its word -/

/-- The entry that a word of the table holds. -/
def entryOf (w : Nat) : CrateEnt := ⟨bits w 63 60, bits w 59 56, bits w 55 32, bits w 31 0 * 65536⟩

/-- The word that holds an entry. -/
def CrateEnt.word (e : CrateEnt) : Nat := e.state * 2 ^ 60 + e.prio * 2 ^ 56 + e.age * 2 ^ 32 + e.slot / 65536

theorem crateEnt_eq (b : Body) (m : CrateMap) (i n : Nat) : b.crateEnt m i n = entryOf (b.le (m.entAt i n) 8) := rfl

theorem setCrateEnt_eq (b : Body) (m : CrateMap) (i n : Nat) (e : CrateEnt) :
    b.setCrateEnt m i n e = b.store (m.entAt i n) (leBytes 8 e.word) := rfl

/-- Each field of an entry fits its bits, and its slot is the address of a whole 64 KiB block (R212). -/
structure CrateEnt.Fits (e : CrateEnt) : Prop where
  state : e.state < 2 ^ 4
  prio : e.prio < 2 ^ 4
  age : e.age < 2 ^ 24
  slot : e.slot % 65536 = 0 ∧ e.slot / 65536 < 2 ^ 32

theorem bits_lt (n hi lo : Nat) : bits n hi lo < 2 ^ (hi + 1 - lo) := Nat.mod_lt _ (Nat.two_pow_pos _)

theorem fits_entryOf (w : Nat) : (entryOf w).Fits where
  state := bits_lt w 63 60
  prio := bits_lt w 59 56
  age := bits_lt w 55 32
  slot := ⟨Nat.mul_mod_left _ _, by
    rw [entryOf, Nat.mul_div_cancel _ (by decide)]
    exact bits_lt w 31 0⟩

section
variable {e : CrateEnt} (he : e.Fits)
include he

theorem CrateEnt.word_lt : e.word < 256 ^ 8 := by
  obtain ⟨hstate, hprio, hage, -, hslot⟩ := he
  rw [CrateEnt.word]
  omega

theorem entryOf_word : entryOf e.word = e := by
  obtain ⟨hstate, hprio, hage, hblock, hslot⟩ := he
  obtain ⟨state, prio, age, slot⟩ := e
  simp only at hstate hprio hage hblock hslot
  simp only [entryOf, CrateEnt.word, bits, Nat.shiftRight_eq_div_pow, CrateEnt.mk.injEq]
  refine ⟨?_, ?_, ?_, ?_⟩ <;> omega

theorem CrateEnt.Fits.withPrio {v : Nat} (hv : v < 2 ^ 4) : ({ e with prio := v } : CrateEnt).Fits :=
  { he with prio := hv }

end

/-! ### Entries in their table -/

/-- Two entries of a map lie apart. -/
theorem entAt_apart {m : CrateMap} {i n i' n' : Nat} (hn : n < m.nc) (hn' : n' < m.nc) (hne : (i', n') ≠ (i, n)) :
    m.entAt i' n' + 8 ≤ m.entAt i n ∨ m.entAt i n + 8 ≤ m.entAt i' n' := by
  unfold CrateMap.entAt
  rcases Nat.lt_trichotomy i' i with hlt | rfl | hgt
  · have hrow : (i' + 1) * m.nc ≤ i * m.nc := Nat.mul_le_mul_right _ hlt
    rw [Nat.succ_mul] at hrow
    omega
  · have hdiff : n' ≠ n := fun heq => hne (by rw [heq])
    omega
  · have hrow : (i + 1) * m.nc ≤ i' * m.nc := Nat.mul_le_mul_right _ hgt
    rw [Nat.succ_mul] at hrow
    omega

/-- A stored entry reads back, and every other entry of the map reads as before (R218). -/
theorem crateEnt_setCrateEnt {b : Body} (h : PlainMemory b) {m : CrateMap} {e : CrateEnt} (he : e.Fits) {i n i' n' : Nat}
    (hn : n < m.nc) (hn' : n' < m.nc) :
    (b.setCrateEnt m i n e).crateEnt m i' n' = if (i', n') = (i, n) then e else b.crateEnt m i' n' := by
  have hrow := rowStored_store h (m.entAt i n) (leBytes 8 e.word)
  have hlen := length_leBytes 8 e.word
  rw [← setCrateEnt_eq] at hrow
  split
  · rename_i heq
    obtain ⟨rfl, rfl⟩ := Prod.mk.inj heq
    have hword := hrow.le_part (o := 0) (k := 8) (v := e.word) (by omega) fun j _ => by rw [Nat.zero_add]
    rw [Nat.add_zero, Nat.mod_eq_of_lt (CrateEnt.word_lt he)] at hword
    rw [crateEnt_eq, hword, entryOf_word he]
  · rename_i hne
    have hapart := entAt_apart hn hn' hne
    have hbytes : (b.setCrateEnt m i n e).bytes (m.entAt i' n') 8 = b.bytes (m.entAt i' n') 8 :=
      bytes_eq_of_byte fun x hx hlt => hrow.outside x (by omega)
    rw [crateEnt_eq, Body.le, hbytes, crateEnt_eq, Body.le]

theorem SameBytes.crateEnt {b t : Body} (h : SameBytes b t) (m : CrateMap) (i n : Nat) : t.crateEnt m i n = b.crateEnt m i n := by
  rw [crateEnt_eq, Body.le, h.bytes_eq, crateEnt_eq, Body.le]

theorem SameBytes.streamRec {b t : Body} (h : SameBytes b t) (m : CrateMap) (i : Nat) : t.streamRec m i = b.streamRec m i := by
  simp only [Body.streamRec, Body.le, h.bytes_eq]

/-! ### A fresh table -/

/-- The bytes of a fresh table: stream records of zeros, then entries NONE with the map's priority (R211). -/
def freshRow (m : CrateMap) : List Byte :=
  List.replicate (16 * m.nstream) 0 ++ (List.replicate (m.nstream * m.nc) (leBytes 8 (m.prio * 2 ^ 56))).flatten

theorem freshTable_eq (b : Body) (fl : Flight) (m : CrateMap) :
    b.freshTable fl m = (b.tierTraffic fl.slot m.table m.bytes true 11).store m.table (freshRow m) := rfl

theorem entry_index_lt {m : CrateMap} {i n : Nat} (hi : i < m.nstream) (hn : n < m.nc) : i * m.nc + n < m.nstream * m.nc := by
  have hrow : (i + 1) * m.nc ≤ m.nstream * m.nc := Nat.mul_le_mul_right _ hi
  rw [Nat.succ_mul] at hrow
  omega

section
variable (m : CrateMap)

theorem length_freshRow : (freshRow m).length = m.bytes := by
  simp only [freshRow, CrateMap.bytes, List.length_append, List.length_replicate, List.length_flatten, List.map_replicate,
    List.sum_replicate, length_leBytes, smul_eq_mul]
  ring

theorem getD_freshRow_record {j : Nat} (hj : j < 16 * m.nstream) : (freshRow m).getD j 0 = 0 := by
  rw [freshRow, List.getD_append _ _ _ _ (by rwa [List.length_replicate]), List.getD_eq_getElem _ _ (by rwa [List.length_replicate]),
    List.getElem_replicate]

theorem getD_freshRow_entry {k j : Nat} (hk : k < m.nstream * m.nc) (hj : j < 8) :
    (freshRow m).getD (16 * m.nstream + 8 * k + j) 0 = (leBytes 8 (m.prio * 2 ^ 56)).getD j 0 := by
  have hlen := length_leBytes 8 (m.prio * 2 ^ 56)
  have hrecords : (List.replicate (16 * m.nstream) (0 : Byte)).length = 16 * m.nstream := List.length_replicate
  rw [freshRow, List.getD_append_right _ _ _ _ (by omega), hrecords, getD_flatten_replicate _ _ (by rw [hlen]; omega), hlen]
  congr 1
  omega

end

section
variable {b t : Body} {m : CrateMap} (h : RowStored b t m.table (freshRow m)) {i : Nat} (hi : i < m.nstream)
include h hi

theorem le_freshRow_record {o : Nat} (ho : o + 8 ≤ 16) : t.le (m.recAt i + o) 8 = 0 := by
  have hzero : ∀ j, j < 8 → (freshRow m).getD (16 * i + o + j) 0 = (leBytes 8 0).getD j 0 := fun j hj => by
    rw [getD_freshRow_record m (by omega), getD_leBytes hj, Nat.zero_div]
    rfl
  have hfits : 16 * i + o + 8 ≤ (freshRow m).length := by
    rw [length_freshRow, CrateMap.bytes]
    omega
  rw [CrateMap.recAt, Nat.add_assoc, h.le_part hfits hzero, Nat.zero_mod]

theorem streamRec_freshRow : t.streamRec m i = ⟨0, 0, 0, 0⟩ := by
  have hlow : t.le (m.recAt i) 8 = 0 := le_freshRow_record h hi (o := 0) (by decide)
  rw [Body.streamRec, hlow, le_freshRow_record h hi (by decide)]
  rfl

theorem crateEnt_freshRow {n : Nat} (hn : n < m.nc) (hprio : m.prio < 2 ^ 4) : t.crateEnt m i n = ⟨0, m.prio, 0, 0⟩ := by
  have hindex := entry_index_lt hi hn
  have hfresh : (⟨0, m.prio, 0, 0⟩ : CrateEnt).Fits :=
    ⟨Nat.two_pow_pos 4, hprio, Nat.two_pow_pos 24, rfl, (Nat.zero_div _).trans_lt (Nat.two_pow_pos 32)⟩
  have hword : m.prio * 2 ^ 56 = (⟨0, m.prio, 0, 0⟩ : CrateEnt).word := by simp [CrateEnt.word]
  have hfits : 16 * m.nstream + 8 * (i * m.nc + n) + 8 ≤ (freshRow m).length := by
    rw [length_freshRow, CrateMap.bytes, Nat.mul_assoc]
    omega
  rw [crateEnt_eq, CrateMap.entAt, Nat.add_assoc, h.le_part hfits fun j hj => getD_freshRow_entry m hindex hj, hword,
    Nat.mod_eq_of_lt (CrateEnt.word_lt hfresh), entryOf_word hfresh]

end

end Sys2Proof.Machine
end

section
/-! PROOFS. CRATE_MAP and CRATE_CTL PRIO (R209-R211, R216, R222, R223): a map that opens over a fresh table, one that closes with KEEP,
and the priorities of a range of entries, one after another. -/

namespace Sys2Proof.Machine

/-! ### CRATE_MAP -/

/-- The body once map `k` stands and its clamps are counted. -/
def Body.mapPut (b : Body) (fl : Flight) (k : Nat) (m : CrateMap) (clamped : Nat) : Body :=
  ({ b with crates := { b.crates with maps := SMap.put b.crates.maps k m } } : Body).clampCmd fl clamped

theorem sameMemory_mapPut (b : Body) (fl : Flight) (k : Nat) (m : CrateMap) (clamped : Nat) : SameMemory b (b.mapPut fl k m clamped) :=
  have hput : SameMemory b { b with crates := { b.crates with maps := SMap.put b.crates.maps k m } } :=
    sameMemory_of rfl rfl rfl rfl rfl rfl
  hput.trans (sameMemory_clampCmd _ fl clamped)

/-- The map that a CRATE_MAP opens over a table at an address. -/
def mapOver (c : Cmd) (slot table : Nat) : CrateMap := { (mapOf c slot).1 with table := table }

theorem mapOver_prio_lt (c : Cmd) (slot table : Nat) : (mapOver c slot table).prio < 2 ^ 4 := bits_lt (c.w 1).toNat 23 20

section
variable {s : State} {c : Cmd} {fl : Flight} {m : CrateMap} (hd : Dispatched s.body c 0x50 fl)
include hd

theorem exec_crateMapOpen_of_good {e : Entry} (hsub : c.b 1 12 = false) (hresume : c.b 1 14 = false)
    (hfree : s.body.crateMap (c.f 1 11 0) = none) (hpools : s.body.poolsOk (mapOf c fl.slot).1 = true)
    (hacc : s.body.access fl.slot (c.h 2) 0 (mapOver c fl.slot e.base).bytes true = .ok e) (hlow : 1 ≤ e.place) (hhigh : e.place ≤ 3)
    (hrd : e.rd = true) (hlayout : e.layout ≠ 4) :
    exec (.crateMapOpen c) s = .next { s with body := ((s.body.mapPut fl (c.f 1 11 0) (mapOver c fl.slot e.base)
      (mapOf c fl.slot).2).freshTable fl (mapOver c fl.slot e.base)).done fl } := by
  change s.body.access fl.slot (c.h 2) 0 (mapOf c fl.slot).1.bytes true = .ok e at hacc
  change execCrateMapOpen c s = _
  simp only [execCrateMapOpen, State.onBody, Body.onSub_dispatched hd, hsub, hresume, hfree, hpools, hacc, hlow, hhigh, hrd, hlayout,
    Bool.not_false, Option.isSome_none, Bool.false_eq_true, ne_eq, not_false_eq_true, and_self, not_true_eq_false, or_self,
    if_true, if_false]
  rfl

theorem exec_crateMapOpen_of_open (hsub : c.b 1 12 = false) (hopen : (s.body.crateMap (c.f 1 11 0)).isSome = true) :
    exec (.crateMapOpen c) s = .next { s with body := s.body.fail fl 0x11 (c.f 1 11 0) } := by
  change execCrateMapOpen c s = _
  simp only [execCrateMapOpen, State.onBody, Body.onSub_dispatched hd, hsub, hopen, Bool.not_false, true_or, if_true]

theorem exec_crateMapClose_of_busy (hm : s.body.crateMap (c.f 1 11 0) = some m) (hsub : c.b 1 12 = true) (hslot : m.slot = fl.slot)
    (hbusy : s.body.mapBusy fl.slot fl.uid (c.f 1 11 0) = true) : exec (.crateMapClose c) s = .next s := by
  change execCrateMapClose c s = _
  simp only [execCrateMapClose, State.onBody, Body.onSub_dispatched hd, hsub, hm, hslot, hbusy, ne_eq, not_true_eq_false, if_true,
    if_false]

theorem exec_crateMapClose_of_idle (hm : s.body.crateMap (c.f 1 11 0) = some m) (hsub : c.b 1 12 = true) (hslot : m.slot = fl.slot)
    (hidle : s.body.mapBusy fl.slot fl.uid (c.f 1 11 0) = false) (hkeep : c.b 1 13 = true) :
    exec (.crateMapClose c) s = .next { s with body := ({ s.body with
      crates := { s.body.crates with maps := SMap.drop s.body.crates.maps (c.f 1 11 0) } } : Body).done fl } := by
  change execCrateMapClose c s = _
  simp only [execCrateMapClose, State.onBody, Body.onSub_dispatched hd, hsub, hm, hslot, hidle, hkeep, ne_eq, not_true_eq_false,
    Bool.false_eq_true, if_true, if_false]

end

/-- What the store of Crates holds is neither a register nor a byte. -/
theorem StillSame.putCrates {b c : Body} (h : StillSame b c) (x : Crates) : StillSame b { c with crates := x } := by
  obtain ⟨hended, hbytes, hregs⟩ := h
  exact ⟨hended, hbytes.trans (sameBytes_of rfl rfl rfl), fun q hq hl => hregs q hq hl⟩

/-- A map that opens over a plain memory: the command is done, the map stands, and its table, and no other byte, is fresh. -/
theorem mapOpened_spec {b : Body} (h : PlainMemory b) (fl : Flight) (k : Nat) {m : CrateMap} (hprio : m.prio < 2 ^ 4) (clamped : Nat) :
    let t := ((b.mapPut fl k m clamped).freshTable fl m).done fl
    EndsWith b t fl 0 0 ∧ t.crateMap k = some m ∧ (∀ j, j ≠ k → t.crateMap j = b.crateMap j) ∧ SameBytesBut b t m.table m.bytes ∧
      (∀ i, i < m.nstream → t.streamRec m i = ⟨0, 0, 0, 0⟩) ∧
      ∀ i n, i < m.nstream → n < m.nc → t.crateEnt m i n = ⟨0, m.prio, 0, 0⟩ := by
  intro t
  have hbefore := (sameMemory_mapPut b fl k m clamped).trans (sameMemory_tierTraffic _ fl.slot m.table m.bytes true 11)
  have hrow := hbefore.store h m.table (freshRow m)
  rw [← freshTable_eq] at hrow
  have hsame : SameBytes ((b.mapPut fl k m clamped).freshTable fl m) t := SameBytes.done (fun _ => rfl) fl 0
  have hmaps : t.crates.maps = SMap.put b.crates.maps k m := by
    rw [Body.done_crates_maps, freshTable_eq, store_crates (hbefore.plain h), Body.tierTraffic_crates, Body.mapPut,
      Body.clampCmd_crates]
  refine ⟨Body.endsWith_done fl 0 hrow.ended, ?_, fun j hj => ?_, fun x hx => ?_, fun i hi => ?_, fun i n hi hn => ?_⟩
  · rw [Body.crateMap, hmaps, SMap.find_put_self]
  · rw [Body.crateMap, hmaps, SMap.find_put_ne _ hj, Body.crateMap]
  · rw [hsame x, hrow.outside x (by rwa [length_freshRow])]
  · rw [hsame.streamRec, streamRec_freshRow hrow hi]
  · rw [hsame.crateEnt, crateEnt_freshRow hrow hi hn hprio]

/-! ### CRATE_CTL PRIO -/

/-- The priority of each of a list of entries is set, one after another (R216). -/
def Body.setPrios (b : Body) (m : CrateMap) (v : Nat) (l : List (Nat × Nat)) : Body :=
  l.foldl (fun b p => b.setCrateEnt m p.1 p.2 { b.crateEnt m p.1 p.2 with prio := v }) b

/-- After the priority of the entries of `l` is set: no command has ended, the store of Crates is as it was, and of the map's entries
those of `l`, and no others, have the priority. -/
structure PriosSet (b t : Body) (m : CrateMap) (v : Nat) (l : List (Nat × Nat)) : Prop where
  ended : t.hm.ended = b.hm.ended
  crates : t.crates = b.crates
  entries : ∀ i n, n < m.nc →
    t.crateEnt m i n = if (i, n) ∈ l then { b.crateEnt m i n with prio := v } else b.crateEnt m i n

theorem priosSet_setPrios {b : Body} (h : PlainMemory b) {m : CrateMap} {v : Nat} (hv : v < 2 ^ 4) {l : List (Nat × Nat)}
    (hl : ∀ p ∈ l, p.2 < m.nc) : PriosSet b (b.setPrios m v l) m v l := by
  induction l generalizing b with
  | nil => exact ⟨rfl, rfl, fun i n _ => by rw [if_neg List.not_mem_nil]; rfl⟩
  | cons p l ih =>
    obtain ⟨x, y⟩ := p
    have hy : y < m.nc := hl (x, y) List.mem_cons_self
    have hfits : ({ b.crateEnt m x y with prio := v } : CrateEnt).Fits := (fits_entryOf _).withPrio hv
    have hrow := rowStored_store h (m.entAt x y) (leBytes 8 ({ b.crateEnt m x y with prio := v } : CrateEnt).word)
    obtain ⟨hended, hcrates, hentries⟩ := ih (b := b.setCrateEnt m x y { b.crateEnt m x y with prio := v }) hrow.plain
      fun p hp => hl p (List.mem_cons_of_mem _ hp)
    refine ⟨hended.trans hrow.ended, hcrates.trans (store_crates h _ _), fun i n hn => ?_⟩
    rw [Body.setPrios, List.foldl_cons, ← Body.setPrios, hentries i n hn, crateEnt_setCrateEnt h hfits hy hn]
    by_cases heq : (i, n) = (x, y)
    · obtain ⟨rfl, rfl⟩ := Prod.mk.inj heq
      simp only [List.mem_cons_self, if_true, ite_self]
    · simp only [List.mem_cons, heq, false_or, if_false]

theorem mem_ctlEntries {s0 ns n0 nn i n : Nat} :
    (i, n) ∈ ctlEntries s0 ns n0 nn ↔ s0 ≤ i ∧ i < s0 + ns ∧ n0 ≤ n ∧ n < n0 + nn := by
  simp only [ctlEntries, List.mem_flatMap, List.mem_map, List.mem_range, Prod.mk.injEq]
  constructor
  · rintro ⟨j, hj, k, hk, rfl, rfl⟩
    omega
  · rintro ⟨hs, hi, hn, hlt⟩
    exact ⟨i - s0, by omega, n - n0, by omega, by omega, by omega⟩

/-- The entries of a CRATE_CTL, whose range is clamped to the map. -/
def rangeEntries (c : Cmd) (m : CrateMap) : List (Nat × Nat) :=
  ctlEntries (ctlRange c m).1 (ctlRange c m).2.1 (ctlRange c m).2.2.1 (ctlRange c m).2.2.2.1

theorem lt_nc_of_mem_rangeEntries {c : Cmd} {m : CrateMap} {p : Nat × Nat} (h : p ∈ rangeEntries c m) : p.2 < m.nc := by
  obtain ⟨hn0, hn⟩ := (mem_ctlEntries.1 h).2.2
  simp only [ctlRange] at hn0 hn
  omega

/-- The body with the clamps of a CRATE_CTL counted, which a command that resumes has counted before. -/
def Body.ctlClamped (b : Body) (fl : Flight) (n : Nat) : Body := if fl.resumed then b else b.clampCmd fl n

theorem sameMemory_ctlClamped (b : Body) (fl : Flight) (n : Nat) : SameMemory b (b.ctlClamped fl n) := by
  unfold Body.ctlClamped
  split
  · exact SameMemory.refl b
  · exact sameMemory_clampCmd b fl n

theorem ctlClamped_crates (b : Body) (fl : Flight) (n : Nat) : (b.ctlClamped fl n).crates = b.crates := by
  unfold Body.ctlClamped
  split
  · rfl
  · exact Body.clampCmd_crates b fl n

theorem exec_crateCtlPrio_of_open {s : State} {c : Cmd} {fl : Flight} {m : CrateMap} (hd : Dispatched s.body c 0x53 fl)
    (hop : c.f 1 45 44 = 2) (hm : s.body.crateMap (c.f 1 11 0) = some m) (hslot : m.slot = fl.slot) :
    exec (.crateCtlPrio c) s = .next { s with
      body := ((s.body.ctlClamped fl (ctlRange c m).2.2.2.2).setPrios m (c.f 1 49 46) (rangeEntries c m)).done fl } := by
  change execCrateCtlPrio c s = _
  simp only [execCrateCtlPrio, State.onBody, Body.ctl, Body.onSub_dispatched hd, hop, hm, hslot, Nat.min_self, decide_true, ne_eq,
    not_true_eq_false, if_true, if_false]
  rfl

/-- Settles O29: a fresh table is one row, an open and a close change the store of maps, and the entries of a range lie apart. -/
theorem crateMapsAndEntries : Obligations.CrateMapsAndEntries := by
  rintro s c fl k rfl hplain
  refine ⟨?_, fun hd hsub hopen => ?_, fun m hd hsub hm hslot => ⟨fun hbusy => ?_, fun hidle hkeep => ?_⟩,
    fun m hd hop hm hslot => ?_⟩
  · rintro m e hd hsub hresume hfree rfl hpools hacc hlow hhigh hrd hlayout
    exact ⟨_, exec_crateMapOpen_of_good hd hsub hresume hfree hpools hacc hlow hhigh hrd hlayout, rfl,
      mapOpened_spec hplain fl (c.f 1 11 0) (mapOver_prio_lt c fl.slot e.base) (mapOf c fl.slot).2⟩
  · obtain ⟨hends, hbytes, -⟩ := (StillSame.refl s.body).fail fl 0x11 (c.f 1 11 0) 0
    exact ⟨_, exec_crateMapOpen_of_open hd hsub hopen, hends, hbytes, Body.fail_crates_maps _ _ _ _ _⟩
  · exact exec_crateMapClose_of_busy hd hm hsub hslot hbusy
  · obtain ⟨hends, hbytes, hregs⟩ := ((StillSame.refl s.body).putCrates
      { s.body.crates with maps := SMap.drop s.body.crates.maps (c.f 1 11 0) }).done fl 0
    refine ⟨_, exec_crateMapClose_of_idle hd hm hsub hslot hidle hkeep, hends, ?_, hbytes, hregs⟩
    rw [Body.crateMap, Body.done_crates_maps, SMap.find_drop_self]
  · have hprio : c.f 1 49 46 < 2 ^ 4 := bits_lt (c.w 1).toNat 49 46
    have hclamped := sameMemory_ctlClamped s.body fl (ctlRange c m).2.2.2.2
    obtain ⟨hended, hcrates, hentries⟩ := priosSet_setPrios (hclamped.plain hplain) hprio
      fun p => lt_nc_of_mem_rangeEntries (c := c) (m := m)
    refine ⟨_, exec_crateCtlPrio_of_open hd hop hm hslot, rfl, Body.endsWith_done fl 0 (hended.trans hclamped.ended), ?_,
      fun i n _ hn => ?_⟩
    · rw [Body.done_crates_maps, hcrates, ctlClamped_crates]
    · rw [(SameBytes.done (fun _ => rfl) fl 0).crateEnt m i n, hentries i n hn, hclamped.bytes.crateEnt]
      exact if_congr mem_ctlEntries rfl rfl

end Sys2Proof.Machine
end

section
/-! PROOFS. What the Ferry's operations leave alone (R245-R250): the registers that a command's end keeps, a range of bytes made
undefined, a store of bytes, and the streams and pipes as the Ferry holds them. -/

namespace Sys2Proof.Machine

/-! ### Registers -/

/-- The end of a command that is done changes no register but the SHADOW_BUSY of Berths. -/
theorem reg_done_of_ne_latheStat (b : Body) (fl : Flight) (r : Nat) {q : Reg} (hq : ∀ g < 200, q.addr ≠ (Reg.brLatheStat g).addr) :
    (b.done fl r).reg q = b.reg q := by
  have hshadow : ∀ (b : Body) g v, (b.setF (.brLatheStat g) Fld.brLatheStatShadowBusy v).reg q = b.reg q := fun b g v => by
    cases hok : (Reg.brLatheStat g).ok with
    | false => rw [Body.setF_of_not_ok b hok]
    | true => exact Body.reg_setF_ne b _ v (hq g (of_decide_eq_true hok))
  unfold Body.done Body.retire
  simp only [ne_eq, not_true_eq_false, false_and, if_false]
  rw [Body.log_reg, Body.syncShadow_keep (fun b => b.reg q) hshadow]
  rfl

theorem fyStreamStat_stored (k : Nat) : (Reg.fyStreamStat k).stored := by simp [Reg.stored]

theorem fyPipeStat_stored (p : Nat) : (Reg.fyPipeStat p).stored := by simp [Reg.stored]

theorem getF_fyStreamStat_done (b : Body) (fl : Flight) (r k : Nat) (f : Fld) :
    (b.done fl r).getF (.fyStreamStat k) f = b.getF (.fyStreamStat k) f := by
  have hne : ∀ g < 200, (Reg.fyStreamStat k).addr ≠ (Reg.brLatheStat g).addr := fun g hg => by simp only [Reg.addr]; omega
  rw [Body.getF, reg_done_of_ne_latheStat b fl r hne, Body.getF]

theorem getF_fyPipeStat_done (b : Body) (fl : Flight) (r p : Nat) (f : Fld) :
    (b.done fl r).getF (.fyPipeStat p) f = b.getF (.fyPipeStat p) f := by
  have hne : ∀ g < 200, (Reg.fyPipeStat p).addr ≠ (Reg.brLatheStat g).addr := fun g hg => by simp only [Reg.addr]; omega
  rw [Body.getF, reg_done_of_ne_latheStat b fl r hne, Body.getF]

/-- MT_FLASH_LIFE lies where a context's counter of some number would, so it is among the registers that take note. -/
theorem notes_mtFlashLife : Reg.mtFlashLife.notes := .inr (.inr (.inr (.inl ⟨8064, 1, rfl⟩)))

theorem reg_flashLife (b : Body) {q : Reg} (hq : ¬ q.notes) : b.flashLife.reg q = b.reg q := by
  have hset : ∀ (b : Body) f v, (b.setF .mtFlashLife f v).reg q = b.reg q := fun b f v =>
    Body.reg_setF_ne b f v fun haddr => hq (by rw [Reg.notes, haddr]; exact notes_mtFlashLife)
  unfold Body.flashLife
  simp only [apply_ite (Body.reg · q), Body.reg_err _ _ _ _ _ _ _ _ hq, hset, ite_self]

theorem reg_store {b : Body} (h : PlainMemory b) (a : Nat) (row : List Byte) {q : Reg} (hq : ¬ q.notes) :
    (b.store a row).reg q = b.reg q := by
  rw [store_of_plain h, Body.program_keep (fun b => b.reg q) (fun _ _ => Body.reg_congr rfl q)
    (fun b _ _ => (reg_flashLife _ hq).trans (Body.reg_congr rfl q)), Body.setBytes_reg]

theorem store_ferry {b : Body} (h : PlainMemory b) (a : Nat) (row : List Byte) : (b.store a row).ferry = b.ferry := by
  rw [store_of_plain h, program_keep_apart Body.ferry (fun _ _ _ => rfl) Body.setF_ferry
    (fun b _ _ _ _ _ => Body.err_ferry b _ _ _ _ _ _ _), Body.setBytes_ferry]

/-! ### Bytes -/

/-- A range made undefined leaves every byte outside it as it was. -/
theorem byte_blurPart_outside (b : Body) {a n x : Nat} (hx : x < a ∨ a + n ≤ x) : (b.blurPart a n).byte x = b.byte x := by
  have hlisted : SMap.find (b.blurPart a n).mem x = SMap.find b.mem x :=
    find_filter_keys (fun k => !(decide (a ≤ k) && decide (k < a + n))) b.mem (by
      rcases hx with hx | hx
      · simp only [Nat.not_le.2 hx, decide_false, Bool.false_and, Bool.not_false]
      · simp only [Nat.not_lt.2 hx, decide_false, Bool.and_false, Bool.not_false])
  have hnew : ¬(a ≤ x ∧ x < a + n ∧ regionOf a = regionOf x) := by omega
  have hcode : (b.blurPart a n).codeAt x = b.codeAt x := by
    have hfind : (b.haze.filter fun h => !(decide (a ≤ h.1) && decide (h.1 + h.2.1 ≤ a + n))).find?
        (fun h => decide (h.1 ≤ x ∧ x < h.1 + h.2.1 ∧ regionOf h.1 = regionOf x)) =
        b.haze.find? fun h => decide (h.1 ≤ x ∧ x < h.1 + h.2.1 ∧ regionOf h.1 = regionOf x) := by
      -- A range that is dropped lies inside the new one, so it does not hold `x`.
      rw [List.find?_filter]
      congr 1
      funext h
      grind
    simp only [Body.codeAt, Body.blurPart, List.find?_cons, decide_eq_false hnew, hfind, Body.bgOf]
  rw [Body.byte_def, hlisted, hcode, Body.byte_def]

theorem byte_blur_outside (b : Body) {a n x : Nat} (hx : x < a ∨ a + n ≤ x) : (b.blur a n).byte x = b.byte x := by
  unfold Body.blur
  split
  · rfl
  · refine foldl_keep (fun b : Body => b.byte x) _ _ b fun b i => byte_blurPart_outside b ?_
    omega

/-! ### Streams -/

/-- The body with what the Ferry holds replaced. -/
def Body.putFerry (b : Body) (y : Ferry) : Body := { b with ferry := y }

/-- The body with a stream stored under its number. -/
def Body.putStream (b : Body) (k : Nat) (x : FyStream) : Body :=
  b.putFerry { b.ferry with streams := SMap.put b.ferry.streams k x }

/-- What the Ferry holds is neither a register nor a byte. -/
theorem StillSame.putFerry {b c : Body} (h : StillSame b c) (y : Ferry) : StillSame b (c.putFerry y) := by
  obtain ⟨hended, hbytes, hregs⟩ := h
  exact ⟨hended, hbytes.trans (sameBytes_of rfl rfl rfl), fun q hq hl => hregs q hq hl⟩

theorem Body.stream_congr {b c : Body} (h : c.ferry = b.ferry) (k : Nat) : c.stream k = b.stream k := by
  rw [Body.stream, h, Body.stream]

theorem Body.pipe_congr {b c : Body} (h : c.ferry = b.ferry) (p : Nat) : c.pipe p = b.pipe p := by
  rw [Body.pipe, h, Body.pipe]

section
variable (b : Body) (k : Nat) (x : FyStream)

theorem Body.stream_putStream_self : (b.putStream k x).stream k = some x := SMap.find_put_self b.ferry.streams k x

theorem Body.stream_putStream_ne {j : Nat} (hj : j ≠ k) : (b.putStream k x).stream j = b.stream j :=
  SMap.find_put_ne b.ferry.streams hj x

theorem Body.pipes_putStream : (b.putStream k x).ferry.pipes = b.ferry.pipes := rfl

theorem Body.getF_putStream (q : Reg) (f : Fld) : (b.putStream k x).getF q f = b.getF q f := Body.getF_congr rfl q f

theorem sameBytes_putStream : SameBytes b (b.putStream k x) := sameBytes_of rfl rfl rfl

end

theorem updStream_of_open {b : Body} {k : Nat} {x : FyStream} (hx : b.stream k = some x) (f : FyStream → FyStream) :
    b.updStream k f = b.putStream k (f x) := by
  unfold Body.updStream
  rw [hx]
  rfl

end Sys2Proof.Machine
end

section
/-! PROOFS. FY_STREAM (R243, R245, R246, R249): a stream that opens over a reference store and a ring, the live fields that RECONF
changes, and the frames that end before a CLOSE does. -/

namespace Sys2Proof.Machine

/-! ### A stream that opens -/

/-- The stream that a FY_STREAM opens for a slot. -/
def openedStream (c : Cmd) (slot : Nat) : FyStream :=
  { slot := slot, fixed := (fyFixedOf c).1, live := (fyLiveOf c (fyFixedOf c).1.hevc (fyFixedOf c).1.depth10).1 }

/-- The fields of a FY_STREAM that are clamped as it opens a stream. -/
def openedClamps (c : Cmd) : Nat :=
  (fyFixedOf c).2 + (fyLiveOf c (fyFixedOf c).1.hevc (fyFixedOf c).1.depth10).2

/-- The body once the clamps are counted, the reference store is undefined and the ring's first 64 bytes are 0. -/
def Body.ringMade (b : Body) (fl : Flight) (clamped a n ring : Nat) : Body :=
  ((b.clampCmd fl clamped).blur a n).store ring (List.replicate 64 0)

/-- The body with FY_STREAM_STAT of an opened stream. -/
def Body.statOpened (b : Body) (k ctx : Nat) : Body :=
  ((b.setReg (.fyStreamStat k) 0).setF (.fyStreamStat k) Fld.fyStreamStatState 1).setF (.fyStreamStat k) Fld.fyStreamStatCtx ctx

section
variable {b : Body} (h : PlainMemory b) (fl : Flight) (clamped a n ring : Nat)
include h

theorem plainMemory_blurred : PlainMemory ((b.clampCmd fl clamped).blur a n) := by
  obtain ⟨hbad, hmirrors⟩ := h
  refine ⟨?_, ?_⟩
  · rw [Body.blur_tiers, Body.clampCmd_tiers, hbad]
  · rw [Body.blur_ln, Body.clampCmd_ln, hmirrors]

theorem rowStored_ringMade :
    RowStored ((b.clampCmd fl clamped).blur a n) (b.ringMade fl clamped a n ring) ring (List.replicate 64 0) :=
  rowStored_store (plainMemory_blurred h fl clamped a n) ring _

theorem ringMade_ended : (b.ringMade fl clamped a n ring).hm.ended = b.hm.ended := by
  rw [(rowStored_ringMade h fl clamped a n ring).ended, Body.blur_hm, Body.clampCmd_hm]

theorem byte_ringMade_ring {i : Nat} (hi : i < 64) : (b.ringMade fl clamped a n ring).byte (ring + i) = 0 := by
  have hrow : i < (List.replicate 64 (0 : Byte)).length := by rwa [List.length_replicate]
  rw [(rowStored_ringMade h fl clamped a n ring).inside i hrow, List.getD_eq_getElem _ _ hrow, List.getElem_replicate]

theorem byte_ringMade_outside {x : Nat} (hstore : x < a ∨ a + n ≤ x) (hring : x < ring ∨ ring + 64 ≤ x) :
    (b.ringMade fl clamped a n ring).byte x = b.byte x := by
  rw [(rowStored_ringMade h fl clamped a n ring).outside x (by rwa [List.length_replicate]), byte_blur_outside _ hstore,
    (sameMemory_clampCmd b fl clamped).bytes x]

theorem reg_ringMade {q : Reg} (hq : ¬ q.notes) : (b.ringMade fl clamped a n ring).reg q = b.reg q := by
  rw [Body.ringMade, reg_store (plainMemory_blurred h fl clamped a n) _ _ hq, Body.blur_reg, Body.reg_clampCmd _ _ _ hq]

theorem ringMade_ferry : (b.ringMade fl clamped a n ring).ferry = b.ferry := by
  rw [Body.ringMade, store_ferry (plainMemory_blurred h fl clamped a n), Body.blur_ferry, Body.clampCmd_ferry]

end

/-! ### FY_STREAM_STAT -/

/-- What a write of FY_STREAM_STAT leaves alone, the opening of its stream leaves alone. -/
theorem statOpened_keep {γ : Type} (p : Body → γ) {k : Nat} (h : ∀ (b : Body) w, p (b.setReg (.fyStreamStat k) w) = p b) (b : Body)
    (ctx : Nat) : p (b.statOpened k ctx) = p b := by
  simp only [Body.statOpened, Body.setF, h]

theorem sameBytes_statOpened (b : Body) (k ctx : Nat) : SameBytes b (b.statOpened k ctx) :=
  sameBytes_of (statOpened_keep Body.mem (fun b w => Body.setReg_mem b _ w) b ctx)
    (statOpened_keep Body.haze (fun b w => Body.setReg_haze b _ w) b ctx) (statOpened_keep Body.bg (fun b w => Body.setReg_bg b _ w) b ctx)

theorem fyStreamStat_ok {k : Nat} (hk : k < 256) : (Reg.fyStreamStat k).ok = true := decide_eq_true hk

section
variable (b : Body) {k : Nat} (hk : k < 256)
include hk

theorem getF_setF_fyStreamStat (f : Fld) (v : Nat) (hf : f.lo ≤ f.hi) (hh : f.hi < 64) :
    (b.setF (.fyStreamStat k) f v).getF (.fyStreamStat k) f = v % 2 ^ f.width :=
  Body.getF_setF_self b v (fyStreamStat_ok hk) (fyStreamStat_stored k) hf hh

theorem getF_setF_fyStreamStat_apart (f x : Fld) (v : Nat) (hf : f.lo ≤ f.hi) (hh : f.hi < 64) (hx : x.lo ≤ x.hi)
    (hapart : x.hi < f.lo ∨ f.hi < x.lo) :
    (b.setF (.fyStreamStat k) f v).getF (.fyStreamStat k) x = b.getF (.fyStreamStat k) x :=
  Body.getF_setF_apart b v (fyStreamStat_ok hk) (fyStreamStat_stored k) hf hh hx hapart

theorem state_statOpened (ctx : Nat) : (b.statOpened k ctx).getF (.fyStreamStat k) Fld.fyStreamStatState = 1 := by
  rw [Body.statOpened, getF_setF_fyStreamStat_apart _ hk _ _ _ (by decide) (by decide) (by decide) (by decide),
    getF_setF_fyStreamStat _ hk _ _ (by decide) (by decide)]
  rfl

theorem ctx_statOpened (ctx : BitVec 16) :
    (b.statOpened k ctx.toNat).getF (.fyStreamStat k) Fld.fyStreamStatCtx = ctx.toNat := by
  rw [Body.statOpened, getF_setF_fyStreamStat _ hk _ _ (by decide) (by decide)]
  exact Nat.mod_eq_of_lt ctx.isLt

/-- The counters of a stream start at 0. -/
theorem counter_statOpened (ctx : Nat) (x : Fld) (hx : x.lo ≤ x.hi) (hhigh : 32 ≤ x.lo) :
    (b.statOpened k ctx).getF (.fyStreamStat k) x = 0 := by
  have hctx : Fld.fyStreamStatCtx.hi < x.lo := Nat.lt_of_lt_of_le (by decide) hhigh
  have hstate : Fld.fyStreamStatState.hi < x.lo := Nat.lt_of_lt_of_le (by decide) hhigh
  rw [Body.statOpened, getF_setF_fyStreamStat_apart _ hk _ _ _ (by decide) (by decide) hx (.inr hctx),
    getF_setF_fyStreamStat_apart _ hk _ _ _ (by decide) (by decide) hx (.inr hstate), Body.getF,
    Body.reg_setReg_self b 0 (fyStreamStat_ok hk) (fyStreamStat_stored k)]
  simp [Word.fld, bits]

end

/-! ### FY_STREAM that opens a stream -/

/-- The body with a stream opened under a number, before its command is done. -/
def Body.streamOpened (b : Body) (c : Cmd) (fl : Flight) (k : Nat) (r g : Entry) : Body :=
  ((b.ringMade fl (openedClamps c) r.base (refSlots (fyFixedOf c).1 * frameBytes (fyFixedOf c).1) g.base).putStream k
    (openedStream c fl.slot)).statOpened k c.ctx.toNat

section
variable {s : State} {c : Cmd} {fl : Flight} (hd : Dispatched s.body c 0x58 fl) (hclose : c.b 1 8 = false) (hreconf : c.b 1 9 = false)
include hd hclose hreconf

theorem exec_fyStreamOpen_of_good {r g : Entry} (hfree : s.body.stream (c.f 1 7 0) = none)
    (hegress : s.body.egressOk fl.slot (openedStream c fl.slot).live = true)
    (hr : s.body.fyEntry fl.slot (fyFixedOf c).1.refH 0 (refSlots (fyFixedOf c).1 * frameBytes (fyFixedOf c).1) true = .ok r)
    (hg : s.body.fyEntry fl.slot (fyFixedOf c).1.ringH 0 96 true = .ok g) (hrread : r.rd = true) (hgread : g.rd = true) :
    exec (.fyStreamOpen c) s = .next { s with body := (s.body.streamOpened c fl (c.f 1 7 0) r g).done fl } := by
  rw [openedStream] at hegress
  change execFyStreamOpen c s = _
  simp only [execFyStreamOpen, State.onBody, Body.onSub_dispatched hd, hclose, hreconf, hfree, hegress, hr, hg, hrread, hgread,
    Bool.not_false, Bool.and_self, Option.isSome_none, Bool.false_eq_true, not_true_eq_false, or_self, if_true, if_false]
  rfl

theorem exec_fyStreamOpen_of_open (hopen : (s.body.stream (c.f 1 7 0)).isSome = true) :
    exec (.fyStreamOpen c) s = .next { s with body := s.body.fail fl 0x11 (c.f 1 7 0) } := by
  change execFyStreamOpen c s = _
  simp only [execFyStreamOpen, State.onBody, Body.onSub_dispatched hd, hclose, hreconf, hopen, Bool.not_false, Bool.and_self, true_or,
    if_true]

end

section
variable (b : Body) (c : Cmd) (fl : Flight) (k : Nat) (r g : Entry)

theorem streamOpened_ferry : (b.streamOpened c fl k r g).ferry = ((b.ringMade fl (openedClamps c) r.base
    (refSlots (fyFixedOf c).1 * frameBytes (fyFixedOf c).1) g.base).putStream k (openedStream c fl.slot)).ferry :=
  statOpened_keep Body.ferry (fun b w => Body.setReg_ferry b _ w) _ _

theorem streamOpened_hm : (b.streamOpened c fl k r g).hm = (b.ringMade fl (openedClamps c) r.base
    (refSlots (fyFixedOf c).1 * frameBytes (fyFixedOf c).1) g.base).hm :=
  statOpened_keep Body.hm (fun b w => Body.setReg_hm b _ w) _ _

theorem sameBytes_streamOpened : SameBytes (b.ringMade fl (openedClamps c) r.base
    (refSlots (fyFixedOf c).1 * frameBytes (fyFixedOf c).1) g.base) ((b.streamOpened c fl k r g).done fl) :=
  SameBytes.done ((sameBytes_putStream _ k _).trans (sameBytes_statOpened _ k _)) fl 0

theorem regs_streamOpened (h : PlainMemory b) :
    SameRegsBut b ((b.streamOpened c fl k r g).done fl) [(Reg.fyStreamStat k).addr] := fun q hq hl => by
  rw [Body.reg_done _ _ _ hq, Body.streamOpened,
    statOpened_keep (fun b => b.reg q) (fun b w => Body.reg_setReg_ne b w (mt List.mem_singleton.2 hl))]
  exact reg_ringMade h fl _ _ _ _ hq

end

/-! ### RECONF -/

theorem exec_fyStreamReconf_of_own {s : State} {c : Cmd} {fl : Flight} {x : FyStream} (hd : Dispatched s.body c 0x58 fl)
    (hclose : c.b 1 8 = false) (hreconf : c.b 1 9 = true) (hx : s.body.stream (c.f 1 7 0) = some x) (hslot : x.slot = fl.slot)
    (hegress : s.body.egressOk fl.slot (fyLiveOf c x.fixed.hevc x.fixed.depth10).1 = true) :
    ∃ n, exec (.fyStreamReconf c) s = .next { s with body := ((s.body.clampCmd fl n).putStream (c.f 1 7 0)
      { x with live := (fyLiveOf c x.fixed.hevc x.fixed.depth10).1 }).done fl } := by
  have hx' : ∀ n, (s.body.clampCmd fl n).stream (c.f 1 7 0) = some x := fun n => by
    rw [Body.stream_congr (Body.clampCmd_ferry _ _ _), hx]
  refine ⟨(fyLiveOf c x.fixed.hevc x.fixed.depth10).2 + fixedDiffs (fyFixedOf c).1 x.fixed, ?_⟩
  change execFyStreamReconf c s = _
  simp only [execFyStreamReconf, State.onBody, Body.ownStream, Body.onSub_dispatched hd, hclose, hreconf, hx, if_pos hslot, hegress,
    updStream_of_open (hx' _), Bool.not_false, Bool.and_self, not_true_eq_false, if_true, if_false]

/-! ### A stream that closes -/

/-- Commands end one after another with ABORTED_BY_HOST. -/
def Body.abortAll (b : Body) (l : List Flight) : Body := l.foldl (fun b q => b.fail q 0x41) b

theorem fail_aborted (b : Body) (q : Flight) : b.fail q 0x41 = b.retire q 0x41 0 false := if_pos (.inr rfl)

theorem abortAll_ended (b : Body) (l : List Flight) :
    (b.abortAll l).hm.ended = b.hm.ended ++ l.map fun q => ⟨q, 0x41, 0, false⟩ := by
  induction l generalizing b with
  | nil => rw [List.map_nil, List.append_nil]; rfl
  | cons q l ih => rw [Body.abortAll, List.foldl_cons, ← Body.abortAll, ih, fail_aborted, Body.retire_ended, List.append_assoc]; rfl

/-- None of the commands that have ended so is in flight. -/
theorem mem_flights_abortAll {b : Body} {l : List Flight} {f : Flight} (hf : f ∈ (b.abortAll l).hm.flights) :
    f ∈ b.hm.flights ∧ ∀ q ∈ l, f.uid ≠ q.uid := by
  induction l generalizing b with
  | nil => exact ⟨hf, fun _ hq => absurd hq List.not_mem_nil⟩
  | cons q l ih =>
    obtain ⟨hmem, hrest⟩ := ih hf
    change f ∈ (b.fail q 0x41).hm.flights at hmem
    rw [fail_aborted, Body.retire_flights, List.mem_filter, decide_eq_true_eq] at hmem
    exact ⟨hmem.1, List.forall_mem_cons.2 ⟨hmem.2, hrest⟩⟩

section
variable (b : Body) (l : List Flight)

theorem abortAll_ferry : (b.abortAll l).ferry = b.ferry := foldl_keep Body.ferry _ l b fun b q => Body.fail_ferry b q _ _ _

theorem sameBytes_abortAll : SameBytes b (b.abortAll l) :=
  sameBytes_of (foldl_keep Body.mem _ l b fun b q => Body.fail_mem b q _ _ _)
    (foldl_keep Body.haze _ l b fun b q => Body.fail_haze b q _ _ _) (foldl_keep Body.bg _ l b fun b q => Body.fail_bg b q _ _ _)

theorem reg_abortAll {q : Reg} (hq : ¬ q.notes) : (b.abortAll l).reg q = b.reg q :=
  foldl_keep (fun b : Body => b.reg q) _ l b fun b f => Body.reg_fail b f _ _ _ hq

end

/-- The body without a stream, its FY_STREAM_STAT free. -/
def Body.streamFreed (b : Body) (k : Nat) : Body :=
  ((b.putFerry { b.ferry with streams := SMap.drop b.ferry.streams k }).setF (.fyStreamStat k) Fld.fyStreamStatState 0).setF
    (.fyStreamStat k) Fld.fyStreamStatCtx 0

theorem closeStream_of_open {b : Body} {k : Nat} {x : FyStream} (hx : b.stream k = some x) (hopen : x.closing = none) :
    b.closeStream k = (b.abortAll x.queue).streamFreed k := by
  unfold Body.closeStream
  rw [hx]
  dsimp only
  rw [hopen]
  rfl

theorem closeStream_of_closing {b : Body} {k : Nat} {x : FyStream} {fl : Flight} (hx : b.stream k = some x)
    (hclosing : x.closing = some fl) : b.closeStream k = ((b.abortAll x.queue).streamFreed k).done fl := by
  unfold Body.closeStream
  rw [hx]
  dsimp only
  rw [hclosing]
  rfl

section
variable (b : Body) (k : Nat)

theorem streamFreed_ferry : (b.streamFreed k).ferry = { b.ferry with streams := SMap.drop b.ferry.streams k } := by
  rw [Body.streamFreed, Body.setF_ferry, Body.setF_ferry]
  rfl

theorem streamFreed_hm : (b.streamFreed k).hm = b.hm := by
  rw [Body.streamFreed, Body.setF_hm, Body.setF_hm]
  rfl

theorem sameBytes_streamFreed : SameBytes b (b.streamFreed k) :=
  sameBytes_of (by rw [Body.streamFreed, Body.setF_mem, Body.setF_mem]; rfl) (by rw [Body.streamFreed, Body.setF_haze, Body.setF_haze]; rfl)
    (by rw [Body.streamFreed, Body.setF_bg, Body.setF_bg]; rfl)

theorem reg_streamFreed_ne {q : Reg} (hq : q.addr ≠ (Reg.fyStreamStat k).addr) : (b.streamFreed k).reg q = b.reg q := by
  rw [Body.streamFreed, Body.reg_setF_ne _ _ _ hq, Body.reg_setF_ne _ _ _ hq]
  exact Body.reg_congr rfl q

theorem state_streamFreed {k : Nat} (hk : k < 256) : (b.streamFreed k).getF (.fyStreamStat k) Fld.fyStreamStatState = 0 := by
  rw [Body.streamFreed, getF_setF_fyStreamStat_apart _ hk _ _ _ (by decide) (by decide) (by decide) (by decide),
    getF_setF_fyStreamStat _ hk _ _ (by decide) (by decide)]
  rfl

end

/-! ### CLOSE -/

/-- The body when a CLOSE has begun on its stream. -/
def Body.streamClosing (b : Body) (fl : Flight) (k : Nat) (x : FyStream) : Body :=
  (b.start fl).putStream k { x with closing := some { fl with started := true } }

/-- The body when nothing of a stream is in a pipe and its CLOSE has ended. -/
def Body.streamClosed (b : Body) (fl : Flight) (k : Nat) (x : FyStream) : Body :=
  (((b.streamClosing fl k x).abortAll x.queue).streamFreed k).done { fl with started := true }

section
variable {s : State} {c : Cmd} {fl : Flight} {x : FyStream} (hd : Dispatched s.body c 0x58 fl) (hclose : c.b 1 8 = true)
include hd hclose

section
variable (hx : s.body.stream (c.f 1 7 0) = some x) (hslot : x.slot = fl.slot) (hopen : x.closing = none)
include hx hslot hopen

theorem exec_fyStreamClose_of_own : exec (.fyStreamClose c) s = .next { s with
    body := if s.body.inPipe (c.f 1 7 0) then s.body.streamClosing fl (c.f 1 7 0) x
      else (s.body.streamClosing fl (c.f 1 7 0) x).closeStream (c.f 1 7 0) } := by
  have hx' : (s.body.start fl).stream (c.f 1 7 0) = some x := hx
  change execFyStreamClose c s = _
  simp only [execFyStreamClose, State.onBody, Body.ownStream, Body.onSub_dispatched hd, hclose, hx, if_pos hslot, hopen,
    updStream_of_open hx', Option.isSome_none, Bool.false_eq_true, if_true, if_false]
  rfl

theorem exec_fyStreamClose_of_inPipe (hpipe : s.body.inPipe (c.f 1 7 0) = true) :
    exec (.fyStreamClose c) s = .next { s with body := s.body.streamClosing fl (c.f 1 7 0) x } := by
  rw [exec_fyStreamClose_of_own hd hclose hx hslot hopen, if_pos hpipe]

theorem exec_fyStreamClose_of_not_inPipe (hpipe : s.body.inPipe (c.f 1 7 0) = false) :
    exec (.fyStreamClose c) s = .next { s with body := s.body.streamClosed fl (c.f 1 7 0) x } := by
  have hclosing : (s.body.streamClosing fl (c.f 1 7 0) x).stream (c.f 1 7 0) =
      some { x with closing := some { fl with started := true } } := Body.stream_putStream_self _ _ _
  rw [exec_fyStreamClose_of_own hd hclose hx hslot hopen, if_neg (by rw [hpipe]; exact Bool.false_ne_true),
    closeStream_of_closing hclosing rfl, Body.streamClosed]

end

end

/-- A CLOSE that waits keeps its stream and marks it. -/
theorem streamClosing_spec {b : Body} {fl : Flight} (hmem : fl ∈ b.hm.flights) (k : Nat) (x : FyStream) :
    let t := b.streamClosing fl k x
    StaysInFlight b t fl ∧ t.stream k = some { x with closing := some { fl with started := true } } ∧
      (∀ j, j ≠ k → t.stream j = b.stream j) ∧ SameBytes b t ∧ t.regs = b.regs :=
  ⟨⟨rfl, { fl with started := true }, List.mem_map.2 ⟨fl, hmem, if_pos rfl⟩, rfl, rfl⟩, Body.stream_putStream_self _ _ _,
    fun _ hj => Body.stream_putStream_ne _ _ _ hj, sameBytes_of rfl rfl rfl, rfl⟩

theorem streamClosed_ended (b : Body) (fl : Flight) (k : Nat) (x : FyStream) :
    (b.streamClosed fl k x).hm.ended.map (fun e => (e.fl.uid, e.status)) =
      (b.hm.ended.map fun e => (e.fl.uid, e.status)) ++ (x.queue.map fun q => (q.uid, 0x41)) ++ [(fl.uid, 0)] := by
  rw [Body.streamClosed, Body.done_ended, streamFreed_hm, abortAll_ended, List.map_append, List.map_append, List.map_map]
  rfl

/-- None of the commands that a CLOSE ends is in flight after it. -/
theorem streamClosed_flights {b : Body} {fl : Flight} {k : Nat} {x : FyStream} {f : Flight}
    (hf : f ∈ (b.streamClosed fl k x).hm.flights) : f.uid ≠ fl.uid ∧ ∀ q ∈ x.queue, f.uid ≠ q.uid := by
  rw [Body.streamClosed, Body.done_flights, List.mem_filter, decide_eq_true_eq, streamFreed_hm] at hf
  exact ⟨hf.2, (mem_flights_abortAll hf.1).2⟩

section
variable (b : Body) (fl : Flight) (k : Nat) (x : FyStream)

theorem streamClosed_ferry :
    (b.streamClosed fl k x).ferry.streams = SMap.drop (b.streamClosing fl k x).ferry.streams k := by
  rw [Body.streamClosed, Body.done_ferry, streamFreed_ferry, abortAll_ferry]

theorem stream_streamClosed_self : (b.streamClosed fl k x).stream k = none := by
  rw [Body.stream, streamClosed_ferry, SMap.find_drop_self]

theorem stream_streamClosed_ne {j : Nat} (hj : j ≠ k) : (b.streamClosed fl k x).stream j = b.stream j := by
  rw [Body.stream, streamClosed_ferry, SMap.find_drop_ne _ hj]
  exact Body.stream_putStream_ne _ _ _ hj

theorem sameBytes_streamClosed : SameBytes b (b.streamClosed fl k x) :=
  SameBytes.done (((sameBytes_of rfl rfl rfl : SameBytes b (b.streamClosing fl k x)).trans (sameBytes_abortAll _ _)).trans
    (sameBytes_streamFreed _ k)) _ 0

theorem regs_streamClosed : SameRegsBut b (b.streamClosed fl k x) [(Reg.fyStreamStat k).addr] := fun q hq hl => by
  rw [Body.streamClosed, Body.reg_done _ _ _ hq, reg_streamFreed_ne _ _ (mt List.mem_singleton.2 hl), reg_abortAll _ _ hq]
  exact Body.reg_congr rfl q

end

/-! ### A stream that is not the context's own -/

/-- A stream's command fails where its stream is not open, is another context's, or refuses it. -/
theorem ownStream_of_refused {b : Body} {c : Cmd} {opc : Nat} {fl : Flight} (hd : Dispatched b c opc fl)
    {f : Body → Flight → Nat → FyStream → Body} (hf : ∀ x, b.stream (c.f 1 7 0) = some x → x.slot = fl.slot →
      f b fl (c.f 1 7 0) x = b.fail fl 0x11 (c.f 1 7 0)) : b.ownStream c opc true f = b.fail fl 0x11 (c.f 1 7 0) := by
  rw [Body.ownStream, Body.onSub_dispatched hd, if_pos rfl]
  dsimp only
  split
  · rename_i x hx
    split
    · rename_i hslot
      exact hf x hx hslot
    · rfl
  · rfl

theorem exec_fyStream_of_not_own {s : State} {c : Cmd} {fl : Flight} (hd : Dispatched s.body c 0x58 fl)
    (hnot : ∀ x, s.body.stream (c.f 1 7 0) = some x → x.slot ≠ fl.slot)
    (hsub : c.b 1 8 = true ∨ c.b 1 9 = true) : exec (if c.b 1 8 = true then .fyStreamClose c else .fyStreamReconf c) s =
      .next { s with body := s.body.fail fl 0x11 (c.f 1 7 0) } := by
  cases hclose : c.b 1 8 with
  | true =>
    change execFyStreamClose c s = _
    rw [execFyStreamClose, State.onBody, hclose, ownStream_of_refused hd fun x hx hslot => absurd hslot (hnot x hx)]
  | false =>
    have hreconf : c.b 1 9 = true := hsub.resolve_left (by rw [hclose]; exact Bool.false_ne_true)
    change execFyStreamReconf c s = _
    rw [execFyStreamReconf, State.onBody, hclose, hreconf, Bool.not_false, Bool.and_self,
      ownStream_of_refused hd fun x hx hslot => absurd hslot (hnot x hx)]

/-- Settles O31: the reference store and the ring are all that an opening writes, and a CLOSE ends the frames queued before itself. -/
theorem ferryStreamsOpenAndClose : Obligations.FerryStreamsOpenAndClose := by
  rintro s c fl k rfl hplain hd
  have hk : c.f 1 7 0 < 256 := bits_lt (c.w 1).toNat 7 0
  refine ⟨?_, fun hclose hreconf hopen => ?_, fun x hclose hreconf hx hslot hegress => ?_,
    fun x hclose hx hslot hopen => ⟨fun hpipe => ?_, fun hpipe => ?_⟩, fun hnot hsub => ?_⟩
  · intro fx n1 lv n2 r g hclose hreconf hfixed hlive hfree hegress hr hg hrread hgread
    obtain rfl : fx = (fyFixedOf c).1 := congrArg Prod.fst hfixed
    obtain rfl : lv = (fyLiveOf c (fyFixedOf c).1.hevc (fyFixedOf c).1.depth10).1 := congrArg Prod.fst hlive
    have hbytes := sameBytes_streamOpened s.body c fl (c.f 1 7 0) r g
    have hferry := (Body.done_ferry _ fl 0).trans (streamOpened_ferry s.body c fl (c.f 1 7 0) r g)
    refine ⟨_, exec_fyStreamOpen_of_good hd hclose hreconf hfree hegress hr hg hrread hgread, rfl, Body.endsWith_done fl 0 ?_, ?_,
      fun j hj => ?_, ?_, ?_, ?_, ?_, fun i hi => ?_, fun a hstore hring => ?_, regs_streamOpened s.body c fl _ r g hplain⟩
    · rw [streamOpened_hm, ringMade_ended hplain]
    · rw [Body.stream_congr hferry, Body.stream_putStream_self]
      rfl
    · rw [Body.stream_congr hferry, Body.stream_putStream_ne _ _ _ hj, Body.stream_congr (ringMade_ferry hplain _ _ _ _ _)]
    · rw [getF_fyStreamStat_done]
      exact state_statOpened _ hk _
    · rw [getF_fyStreamStat_done]
      exact ctx_statOpened _ hk _
    · rw [getF_fyStreamStat_done]
      exact counter_statOpened _ hk _ _ (by decide) (by decide)
    · rw [getF_fyStreamStat_done]
      exact counter_statOpened _ hk _ _ (by decide) (by decide)
    · rw [hbytes, byte_ringMade_ring hplain _ _ _ _ _ hi]
    · rw [hbytes, byte_ringMade_outside hplain _ _ _ _ _ hstore hring]
  · obtain ⟨hends, hbytes, hregs⟩ := (StillSame.refl s.body).fail fl 0x11 (c.f 1 7 0) 0
    exact ⟨_, exec_fyStreamOpen_of_open hd hclose hreconf hopen, rfl, hends, hbytes, hregs, Body.fail_ferry _ _ _ _ _⟩
  · obtain ⟨n, hexec⟩ := exec_fyStreamReconf_of_own hd hclose hreconf hx hslot hegress
    obtain ⟨hends, hbytes, hregs⟩ := (((StillSame.refl s.body).clampCmd fl n).putFerry _).done fl 0
    refine ⟨_, hexec, rfl, hends, ?_, fun j hj => ?_, ?_, hbytes, hregs⟩
    · rw [Body.stream_congr (Body.done_ferry _ _ _), Body.stream_putStream_self]
    · rw [Body.stream_congr (Body.done_ferry _ _ _), Body.stream_putStream_ne _ _ _ hj, Body.stream_congr (Body.clampCmd_ferry _ _ _)]
    · rw [Body.done_ferry, Body.pipes_putStream, Body.clampCmd_ferry]
  · exact ⟨_, exec_fyStreamClose_of_inPipe hd hclose hx hslot hopen hpipe, rfl, streamClosing_spec hd.mem _ x⟩
  · refine ⟨_, exec_fyStreamClose_of_not_inPipe hd hclose hx hslot hopen hpipe, rfl, stream_streamClosed_self _ _ _ _,
      fun j hj => stream_streamClosed_ne _ _ _ _ hj, streamClosed_ended _ _ _ _, fun f hf => streamClosed_flights hf, ?_,
      sameBytes_streamClosed _ _ _ _, regs_streamClosed _ _ _ _⟩
    rw [Body.streamClosed, getF_fyStreamStat_done, state_streamFreed _ hk]
  · obtain ⟨hends, hbytes, hregs⟩ := (StillSame.refl s.body).fail fl 0x11 (c.f 1 7 0) 0
    have hown : ∀ x, s.body.stream (c.f 1 7 0) = some x → x.slot ≠ fl.slot := by
      rintro x hx
      rcases hnot with hnone | ⟨y, hy, hslot⟩
      · exact absurd (hnone.symm.trans hx) (by simp)
      · exact Option.some.inj (hy.symm.trans hx) ▸ hslot
    exact ⟨_, exec_fyStream_of_not_own hd hown hsub, rfl, hends, hbytes, hregs, Body.fail_ferry _ _ _ _ _⟩

end Sys2Proof.Machine
end

section
/-! PROOFS. FY_ENCODE, FY_DECODE and FY_SOUND (R247, R251, R252, R257): the command that joins its stream's queue, the one whose stream
does not code so, and the sound that joins those waiting for pipes. -/

namespace Sys2Proof.Machine

/-! ### A frame that joins its stream's queue -/

/-- The body once a coding command that holds `hs` waits in its stream's queue. -/
def Body.frameQueued (b : Body) (k : Nat) (x : FyStream) (fl : Flight) (hs : List Nat) : Body :=
  (b.start { fl with handles := hs }).putStream k { x with queue := x.queue ++ [{ fl with handles := hs, started := true }] }

theorem fyQueue_of_open {b : Body} {k : Nat} {x : FyStream} (hx : b.stream k = some x) (fl : Flight) (hs : List Nat) :
    b.fyQueue k { fl with handles := hs } = b.frameQueued k x fl hs :=
  updStream_of_open (b := b.start { fl with handles := hs }) hx _

theorem frameQueued_spec {b c : Body} (h : StillSame b c) (hhm : c.hm = b.hm) (hferry : c.ferry = b.ferry) {fl : Flight}
    (hmem : fl ∈ b.hm.flights) (k : Nat) (x : FyStream) (hs : List Nat) :
    let t := c.frameQueued k x fl hs
    StaysInFlight b t fl ∧ t.stream k = some { x with queue := x.queue ++ [{ fl with handles := hs, started := true }] } ∧
      (∀ j, j ≠ k → t.stream j = b.stream j) ∧ SameBytes b t ∧ SameRegsBut b t [] := by
  obtain ⟨hended, hbytes, hregs⟩ := (h.start { fl with handles := hs }).putFerry (c.frameQueued k x fl hs).ferry
  refine ⟨⟨hended, { fl with handles := hs, started := true }, ?_, rfl, rfl⟩, Body.stream_putStream_self _ _ _, fun j hj => ?_,
    hbytes, hregs⟩
  · exact List.mem_map.2 ⟨fl, by rwa [hhm], if_pos rfl⟩
  · exact (Body.stream_putStream_ne _ _ _ hj).trans (Body.stream_congr hferry j)

section
variable {s : State} {c : Cmd} {fl : Flight} {x : FyStream} (hx : s.body.stream (c.f 1 7 0) = some x) (hslot : x.slot = fl.slot)
  (hopen : x.closing = none)
include hx hslot hopen

theorem exec_fyEncode_of_good {e : Entry} (hd : Dispatched s.body c 0x59 fl) (hflush : c.b 1 9 = false) (hcodes : x.fixed.decode = false)
    (he : s.body.fyEntry fl.slot (c.h 2) (32 * c.f 2 37 18)
      (picBytes (picShape c x.fixed).1 (picShape c x.fixed).2.1 x.fixed.height) false = .ok e) :
    exec (.fyEncode c) s = .next { s with
      body := (s.body.clampCmd fl (picShape c x.fixed).2.2).frameQueued (c.f 1 7 0) x fl [c.h 2 / 65536] } := by
  have hx' : (s.body.clampCmd fl (picShape c x.fixed).2.2).stream (c.f 1 7 0) = some x := by
    rw [Body.stream_congr (Body.clampCmd_ferry _ _ _), hx]
  change execFyEncode c s = _
  simp only [execFyEncode, State.onBody, Body.ownStream, Body.onSub_dispatched hd, hflush, hx, if_pos hslot, hopen, hcodes, he,
    fyQueue_of_open hx', Bool.not_false, Option.isSome_none, Bool.false_eq_true, or_self, if_true, if_false]

theorem exec_fyEncodeFlush_of_open (hd : Dispatched s.body c 0x59 fl) (hflush : c.b 1 9 = true) (hcodes : x.fixed.decode = false) :
    exec (.fyEncodeFlush c) s = .next { s with body := s.body.frameQueued (c.f 1 7 0) x fl fl.handles } := by
  change execFyEncodeFlush c s = _
  simp only [execFyEncodeFlush, State.onBody, Body.ownStream, Body.onSub_dispatched hd, hflush, hx, if_pos hslot, hopen, hcodes,
    Option.isSome_none, Bool.false_eq_true, or_self, if_true, if_false]
  rw [← fyQueue_of_open hx fl fl.handles]

theorem exec_fyDecode_of_good {e : Entry} (hd : Dispatched s.body c 0x5A fl) (hflush : c.b 1 8 = false) (hcodes : x.fixed.decode = true)
    (he : s.body.fyEntry fl.slot (c.h 2) (c.f 3 47 0) (c.f 4 31 0) false = .ok e) :
    exec (.fyDecode c) s = .next { s with body := s.body.frameQueued (c.f 1 7 0) x fl [c.h 2 / 65536] } := by
  change execFyDecode c s = _
  simp only [execFyDecode, State.onBody, Body.ownStream, Body.onSub_dispatched hd, hflush, hx, if_pos hslot, hopen, hcodes, he,
    fyQueue_of_open hx, Bool.not_false, Option.isSome_none, Bool.false_eq_true, not_true_eq_false, or_self, if_true, if_false]

theorem exec_fyDecodeFlush_of_open (hd : Dispatched s.body c 0x5A fl) (hflush : c.b 1 8 = true) (hcodes : x.fixed.decode = true) :
    exec (.fyDecodeFlush c) s = .next { s with body := s.body.frameQueued (c.f 1 7 0) x fl fl.handles } := by
  change execFyDecodeFlush c s = _
  simp only [execFyDecodeFlush, State.onBody, Body.ownStream, Body.onSub_dispatched hd, hflush, hx, if_pos hslot, hopen, hcodes,
    Option.isSome_none, Bool.false_eq_true, not_true_eq_false, or_self, if_true, if_false]
  rw [← fyQueue_of_open hx fl fl.handles]

end

/-! ### A stream that is not open, or does not code so -/

section
variable {s : State} {c : Cmd} {fl : Flight}

theorem exec_fyEncode_of_not_encoder (hd : Dispatched s.body c 0x59 fl)
    (hnot : ∀ x, s.body.stream (c.f 1 7 0) = some x → x.slot = fl.slot → x.fixed.decode = true) :
    exec (if c.b 1 9 = true then .fyEncodeFlush c else .fyEncode c) s =
      .next { s with body := s.body.fail fl 0x11 (c.f 1 7 0) } := by
  cases hflush : c.b 1 9 with
  | true =>
    change execFyEncodeFlush c s = _
    rw [execFyEncodeFlush, State.onBody, hflush, ownStream_of_refused hd fun x hx hslot => by
      simp only [hnot x hx hslot, true_or, if_true]]
  | false =>
    change execFyEncode c s = _
    rw [execFyEncode, State.onBody, hflush, Bool.not_false, ownStream_of_refused hd fun x hx hslot => by
      simp only [hnot x hx hslot, true_or, if_true]]

theorem exec_fyDecode_of_not_decoder (hd : Dispatched s.body c 0x5A fl)
    (hnot : ∀ x, s.body.stream (c.f 1 7 0) = some x → x.slot = fl.slot → x.fixed.decode = false) :
    exec (if c.b 1 8 = true then .fyDecodeFlush c else .fyDecode c) s =
      .next { s with body := s.body.fail fl 0x11 (c.f 1 7 0) } := by
  cases hflush : c.b 1 8 with
  | true =>
    change execFyDecodeFlush c s = _
    rw [execFyDecodeFlush, State.onBody, hflush, ownStream_of_refused hd fun x hx hslot => by
      simp only [hnot x hx hslot, Bool.false_eq_true, not_false_eq_true, true_or, if_true]]
  | false =>
    change execFyDecode c s = _
    rw [execFyDecode, State.onBody, hflush, Bool.not_false, ownStream_of_refused hd fun x hx hslot => by
      simp only [hnot x hx hslot, Bool.false_eq_true, not_false_eq_true, true_or, if_true]]

end

/-! ### FY_SOUND -/

/-- The flight of a FY_SOUND that has begun, with the entries it holds. -/
def soundFlight (c : Cmd) (fl : Flight) : Flight :=
  { fl with handles := ([c.h 1, c.h 2, c.h 5, c.h 6, c.h 7].filter (· ≠ 0)).map (· / 65536), started := true }

/-- A FY_SOUND of which no chunk is done. -/
def Body.newSound (b : Body) (c : Cmd) (fl : Flight) (cur prev : Entry) (a : SoundArgs) : Sound :=
  { fl := soundFlight c fl, cur := cur, prev := prev, left := List.range (planarF cur), changed := b.soundDone (soundFlight c fl) cur a 0 }

/-- The Ferry with one more FY_SOUND in progress. -/
def Ferry.withSound (y : Ferry) (x : Sound) : Ferry := { y with sounds := y.sounds ++ [x] }

section
variable {s : State} {c : Cmd} {fl : Flight} (hd : Dispatched s.body c 0x5B fl) (hfresh : fl.resumed = false)
include hd hfresh

theorem exec_fySound_of_error {st h : Nat} (hstart : s.body.soundStart fl = .error (st, h)) :
    exec (.fySound c) s = .next { s with body := (s.body.clampCmd fl (s.body.soundClamps fl)).fail fl st h } := by
  change execFySound c s = _
  simp only [execFySound, State.onBody, Body.onCmd_dispatched hd, hstart, Body.badStart, hfresh, Bool.false_eq_true, if_false]

theorem exec_fySound_of_ok {cur prev : Entry} {a : SoundArgs} {n : Nat} (hprogress : fl.progress = [])
    (hstart : s.body.soundStart fl = .ok (cur, prev, a, n)) :
    exec (.fySound c) s = .next { s with
      body := ((s.body.clampCmd (soundFlight c fl) n).start (soundFlight c fl)).putFerry
        (s.body.ferry.withSound (s.body.newSound c fl cur prev a)) } := by
  have hnew : ¬ fl.resumed = true := by rw [hfresh]; exact Bool.false_ne_true
  have hnone : fl.progress.getD 1 0 = 0 := by rw [hprogress]; rfl
  change execFySound c s = _
  simp only [execFySound, State.onBody, Body.onCmd_dispatched hd, hstart, if_neg hnew, hnone, Body.start_ferry, Body.clampCmd_ferry,
    List.drop_zero]
  rfl

end

end Sys2Proof.Machine
end

section
/-! PROOFS. PIPE_TAKE_FRAME (R247, R251, R263): a pipe that takes nothing, a frame whose reference store no longer resolves, and a FLUSH
of an encoder that holds no picture. -/

namespace Sys2Proof.Machine

/-! ### What a pipe takes -/

theorem exec_pipeTakeFrame_of_idle {pipe : Fin 8} {s : State}
    (h : (s.body.pipe pipe.val).busy = true ∨ s.body.pipeWork pipe.val = []) : exec (.pipeTakeFrame pipe) s = .next s := by
  change execPipeTakeFrame pipe s = _
  rw [execPipeTakeFrame, State.onBody]
  split
  · rfl
  · rename_i hfree
    rw [h.resolve_left hfree]
    rfl

theorem exec_pipeTakeFrame_of_frame {pipe : Fin 8} {s : State} {pr j u : Nat} {x : FyStream} {q : Flight} {l : List Flight}
    (hfree : (s.body.pipe pipe.val).busy = false) (hbest : bestWork (s.body.pipeWork pipe.val) = some (pr, j, u)) (hj : j ≠ 256)
    (hx : s.body.stream j = some x) (hqueue : x.queue = q :: l) :
    exec (.pipeTakeFrame pipe) s = .next { s with body := s.body.takeFrame pipe j x q } := by
  change execPipeTakeFrame pipe s = _
  simp only [execPipeTakeFrame, State.onBody, hfree, hbest, if_neg hj, hx, hqueue, Bool.false_eq_true, if_false]

/-! ### A frame whose reference store is gone -/

/-- The body once a stream's oldest frame has left its queue, a decoder in RESYNC. -/
def Body.frameLost (b : Body) (k : Nat) (x : FyStream) : Body :=
  if x.fixed.decode then
    (b.putStream k { x with queue := x.queue.drop 1 }).setF (.fyStreamStat k) Fld.fyStreamStatState 2
  else b.putStream k { x with queue := x.queue.drop 1 }

theorem takeFrame_of_stale {b : Body} {k : Nat} {x : FyStream} (hx : b.stream k = some x)
    (hr : b.resolve x.slot x.fixed.refH = none) (p : Nat) (q : Flight) :
    b.takeFrame p k x q = (b.frameLost k x).fail q 0x12 x.fixed.refH := by
  unfold Body.takeFrame
  rw [hr, updStream_of_open hx]
  rfl

theorem frameLost_keep {γ : Type} (p : Body → γ) (hset : ∀ (b : Body) r f v, p (b.setF r f v) = p b) (b : Body) (k : Nat)
    (x : FyStream) : p (b.frameLost k x) = p (b.putStream k { x with queue := x.queue.drop 1 }) := by
  unfold Body.frameLost
  split
  · exact hset _ _ _ _
  · rfl

theorem frameLost_ended (b : Body) (k : Nat) (x : FyStream) : (b.frameLost k x).hm.ended = b.hm.ended :=
  frameLost_keep (fun b => b.hm.ended) (fun b r f v => by rw [Body.setF_hm]) b k x

theorem stream_frameLost (b : Body) (k : Nat) (x : FyStream) :
    (b.frameLost k x).stream k = some { x with queue := x.queue.drop 1 } := by
  rw [frameLost_keep (fun b => b.stream k) (fun b r f v => Body.stream_congr (Body.setF_ferry b r f v) k),
    Body.stream_putStream_self]

theorem sameBytes_frameLost (b : Body) (k : Nat) (x : FyStream) : SameBytes b (b.frameLost k x) := fun a => by
  rw [frameLost_keep (fun b => b.byte a) (fun b r f v => Body.byte_congr (b.setF_mem r f v) (b.setF_haze r f v) (b.setF_bg r f v) a)]
  exact sameBytes_putStream b k _ a

/-! ### A FLUSH of an encoder that holds nothing -/

/-- The stream of an encoder that held nothing once a FLUSH is taken: its next frame begins a sequence. -/
def flushedStream (x : FyStream) : FyStream :=
  { x with codec := Config.fyNext x.codec (fyInput x 1 0 []), queue := x.queue.drop 1, fresh := true }

/-- The body when a pipe has taken such a FLUSH, before the command is done. -/
def Body.flushTaken (b : Body) (k : Nat) (x : FyStream) (ref : Entry) : Body :=
  ((b.blur ref.base (refSlots x.fixed * frameBytes x.fixed)).putStream k (flushedStream x)).bump (.fyStreamStat k)
    Fld.fyStreamStatVbvMiss 0

/-- A pipe with a frame of a stream that makes no record, and the same pipe free again. -/
def Body.pipePassed (b : Body) (p k : Nat) : Body :=
  ((((b.setPipe p { busy := true, stream := k }).syncPipe p false).setPipe p { busy := false, stream := k }).syncPipe p false).bump
    (.fyPipeStat p) Fld.fyPipeStatFrames 1

theorem encodeTake_of_empty_flush {b : Body} {k : Nat} {x : FyStream} {q : Flight} (hx : b.stream k = some x)
    (hflush : q.cmd.b 1 9 = true) (hheld : x.held = []) (p : Nat) (ref : Entry) :
    b.encodeTake p k x q ref = ((b.flushTaken k x ref).finish q.uid).pipeFill p k [] none 0 := by
  have hx' : (b.blur ref.base (refSlots x.fixed * frameBytes x.fixed)).stream k = some x := by
    rw [Body.stream_congr (Body.blur_ferry _ _ _), hx]
  have hout : ∀ inp, outCount x inp true = 0 := fun inp => by rw [outCount, if_pos rfl, hheld]; rfl
  unfold Body.encodeTake
  simp only [hflush, if_true, hout, codeFrames, updStream_of_open hx']
  rfl

theorem Body.flight_congr {b c : Body} (h : c.hm = b.hm) (uid : Nat) : c.flight uid = b.flight uid := by
  rw [Body.flight, h, Body.flight]

theorem finish_of_clean {b : Body} {uid : Nat} {f : Flight} (hf : b.flight uid = some f) (hamaxes : f.amaxes = [])
    (hecc : f.ecc = false) : b.finish uid = b.done f := by
  unfold Body.finish
  rw [hf]
  simp only [hamaxes, hecc, List.foldl_nil, Body.doneEcc, Bool.false_eq_true, if_false]

section
variable (b : Body) (p : Nat)

/-- What registers leave alone, a pipe's FY_PIPE_STAT leaves alone. -/
theorem syncPipe_keep {γ : Type} (q : Body → γ) (h : ∀ (b : Body) f v, q (b.setF (.fyPipeStat p) f v) = q b) (sound : Bool) :
    q (b.syncPipe p sound) = q b := by
  rw [Body.syncPipe, h, h, h]

theorem syncPipe_ferry (sound : Bool) : (b.syncPipe p sound).ferry = b.ferry :=
  syncPipe_keep b p Body.ferry (fun b f v => Body.setF_ferry b _ f v) sound

theorem syncPipe_hm (sound : Bool) : (b.syncPipe p sound).hm = b.hm :=
  syncPipe_keep b p Body.hm (fun b f v => Body.setF_hm b _ f v) sound

theorem length_pipes_setPipe (y : FyPipe) : (b.setPipe p y).ferry.pipes.length = b.ferry.pipes.length := List.length_set

theorem pipe_setPipe_self {b : Body} {p : Nat} (hp : p < b.ferry.pipes.length) (y : FyPipe) : (b.setPipe p y).pipe p = y := by
  rw [Body.pipe, Body.setPipe, List.getD_eq_getElem _ _ (by rwa [List.length_set]), List.getElem_set_self]

end

section
variable {b : Body} {p k : Nat} (hp : p < b.ferry.pipes.length)
include hp

/-- A pipe given no record, of a stream that stays open, is free at once. -/
theorem pipeFill_of_no_records {x : FyStream} (hx : b.stream k = some x) (hopen : x.closing = none) :
    b.pipeFill p k [] none 0 = b.pipePassed p k := by
  have hpipe : ((b.setPipe p { busy := true, stream := k }).syncPipe p false).pipe p = { busy := true, stream := k } := by
    rw [Body.pipe_congr (syncPipe_ferry _ p false), pipe_setPipe_self hp]
  have hstream : (b.pipePassed p k).stream k = some x := by
    rw [Body.pipePassed, Body.stream_congr (Body.bump_ferry _ _ _ _), Body.stream_congr (syncPipe_ferry _ p false)]
    exact (Body.stream_congr (syncPipe_ferry _ p false) k).trans hx
  have hfull : FyPipe.full { busy := true, stream := k } = false := rfl
  rw [Body.pipePassed] at hstream
  simp only [Body.pipeFill, Body.pipeDone, hfull, hpipe, hstream, hopen, Bool.false_eq_true, not_true_eq_false, ne_eq, or_self, if_false,
    Option.isSome_none]
  rfl

theorem pipe_pipePassed : (b.pipePassed p k).pipe p = { busy := false, stream := k } := by
  rw [Body.pipePassed, Body.pipe_congr (Body.bump_ferry _ _ _ _), Body.pipe_congr (syncPipe_ferry _ p false)]
  exact pipe_setPipe_self (by rwa [syncPipe_ferry, length_pipes_setPipe]) _

end

theorem pipePassed_hm (b : Body) (p k : Nat) : (b.pipePassed p k).hm = b.hm := by
  rw [Body.pipePassed, Body.bump_hm, syncPipe_hm, Body.setPipe_hm, syncPipe_hm, Body.setPipe_hm]

/-- A pipe's STREAM, BUSY and SOUND lie apart from its FRAMES. -/
theorem frames_syncPipe (b : Body) {p : Nat} (hp : p < 8) (sound : Bool) :
    (b.syncPipe p sound).getF (.fyPipeStat p) Fld.fyPipeStatFrames = b.getF (.fyPipeStat p) Fld.fyPipeStatFrames := by
  have hok : (Reg.fyPipeStat p).ok = true := decide_eq_true hp
  have hapart : ∀ (b : Body) (f : Fld) v, f.lo ≤ f.hi → f.hi < 64 → Fld.fyPipeStatFrames.hi < f.lo →
      (b.setF (.fyPipeStat p) f v).getF (.fyPipeStat p) Fld.fyPipeStatFrames = b.getF (.fyPipeStat p) Fld.fyPipeStatFrames :=
    fun b f v hf hh hlow => Body.getF_setF_apart b v hok (fyPipeStat_stored p) hf hh (by decide) (.inl hlow)
  rw [Body.syncPipe, hapart _ _ _ (by decide) (by decide) (by decide), hapart _ _ _ (by decide) (by decide) (by decide),
    hapart _ _ _ (by decide) (by decide) (by decide)]

theorem frames_pipePassed (b : Body) {p : Nat} (hp : p < 8) (k : Nat) : (b.pipePassed p k).getF (.fyPipeStat p) Fld.fyPipeStatFrames =
    min (b.getF (.fyPipeStat p) Fld.fyPipeStatFrames + 1) (2 ^ 24 - 1) := by
  have hcount := counted_bump ((((b.setPipe p { busy := true, stream := k }).syncPipe p false).setPipe p
    { busy := false, stream := k }).syncPipe p false) (r := .fyPipeStat p) (f := Fld.fyPipeStatFrames) 1 (decide_eq_true hp)
    (fyPipeStat_stored p) (by decide) (by decide)
  have hset : ∀ (b : Body) y, (b.setPipe p y).getF (.fyPipeStat p) Fld.fyPipeStatFrames =
      b.getF (.fyPipeStat p) Fld.fyPipeStatFrames := fun b y => Body.getF_congr rfl _ _
  rw [Counted, frames_syncPipe _ hp, hset, frames_syncPipe _ hp, hset] at hcount
  exact hcount

section
variable (b : Body) (k : Nat) (x : FyStream) (ref : Entry)

theorem flushTaken_hm : (b.flushTaken k x ref).hm = b.hm := by
  rw [Body.flushTaken, Body.bump_hm]
  exact Body.blur_hm _ _ _

theorem flushTaken_ferry : (b.flushTaken k x ref).ferry = (b.putStream k (flushedStream x)).ferry := by
  rw [Body.flushTaken, Body.bump_ferry, Body.putStream, Body.blur_ferry]
  rfl

theorem getF_fyPipeStat_flushTaken {p : Nat} (hp : p < 8) (f : Fld) :
    (b.flushTaken k x ref).getF (.fyPipeStat p) f = b.getF (.fyPipeStat p) f := by
  have hne : (Reg.fyPipeStat p).addr ≠ (Reg.fyStreamStat k).addr := by simp only [Reg.addr]; omega
  rw [Body.flushTaken, Body.getF_bump_ne _ _ _ _ hne, Body.getF_putStream, Body.blur_getF]

end

theorem takeFrame_of_empty_flush {b : Body} {p k : Nat} {x : FyStream} {q f : Flight} {ref ring : Entry} (hx : b.stream k = some x)
    (href : b.resolve x.slot x.fixed.refH = some ref) (hring : b.resolve x.slot x.fixed.ringH = some ring)
    (hencodes : x.fixed.decode = false) (hflush : q.cmd.b 1 9 = true) (hheld : x.held = []) (hopen : x.closing = none)
    (hp : p < b.ferry.pipes.length) (hf : b.flight q.uid = some f) (hamaxes : f.amaxes = []) (hecc : f.ecc = false) :
    b.takeFrame p k x q = ((b.flushTaken k x ref).done f).pipePassed p k := by
  have hferry : ((b.flushTaken k x ref).done f).ferry = (b.putStream k (flushedStream x)).ferry := by
    rw [Body.done_ferry, flushTaken_ferry]
  have hstream : ((b.flushTaken k x ref).done f).stream k = some (flushedStream x) := by
    rw [Body.stream_congr hferry, Body.stream_putStream_self]
  unfold Body.takeFrame
  rw [href, hring]
  simp only [hencodes, Bool.false_eq_true, if_false]
  rw [encodeTake_of_empty_flush hx hflush hheld,
    finish_of_clean ((Body.flight_congr (flushTaken_hm b k x ref) q.uid).trans hf) hamaxes hecc,
    pipeFill_of_no_records (by rwa [hferry, Body.pipes_putStream]) hstream hopen]

end Sys2Proof.Machine
end

section
/-! PROOFS. RING_RECORD and EGRESS_ACK (R249, R250): a record written at WR, WR moved past it, and RD moved past a record whose egress
is acknowledged. -/

namespace Sys2Proof.Machine

/-! ### What the end of a pipe's frame leaves alone -/

/-- What a command's end and the Harbourmaster's own state leave alone, the end of a command by its number leaves alone. -/
theorem finish_keep {γ : Type} (p : Body → γ) (hhm : ∀ (b : Body) x, p { b with hm := x } = p b)
    (hretire : ∀ (b : Body) fl st r e, p (b.retire fl st r e) = p b) (b : Body) (uid : Nat) : p (b.finish uid) = p b := by
  have hput : ∀ (b : Body) slot first vs, p (b.putSregs slot first vs) = p b := fun b _ _ _ => by
    unfold Body.putSregs
    exact foldl_keep p _ _ b fun b _ => hhm b _
  have hwake : ∀ b : Body, p b.wakeWaits = p b := fun b => by
    unfold Body.wakeWaits
    refine (foldl_keep p _ _ _ fun b q => ?_).trans (hhm b _)
    exact hretire _ _ _ _ _
  unfold Body.finish
  split
  · rfl
  · rename_i fl _
    dsimp only
    have hamaxes := foldl_keep p (fun b q => b.setSregs fl.slot q.1 [BitVec.ofNat 64 (q.2 - 1)]) fl.amaxes b
      fun b q => (hwake _).trans (hput b _ _ _)
    refine Eq.trans ?_ hamaxes
    rw [Body.doneEcc]
    split
    · exact hretire _ _ _ _ _
    · exact hretire _ _ _ _ _

section
variable (b : Body)

theorem sameBytes_finish (uid : Nat) : SameBytes b (b.finish uid) :=
  sameBytes_of (finish_keep Body.mem (fun _ _ => rfl) Body.retire_mem b uid)
    (finish_keep Body.haze (fun _ _ => rfl) Body.retire_haze b uid) (finish_keep Body.bg (fun _ _ => rfl) Body.retire_bg b uid)

theorem sameBytes_retire (fl : Flight) (st r : Nat) (e : Bool) : SameBytes b (b.retire fl st r e) :=
  sameBytes_of (b.retire_mem fl st r e) (b.retire_haze fl st r e) (b.retire_bg fl st r e)

theorem sameBytes_setPipe (p : Nat) (y : FyPipe) : SameBytes b (b.setPipe p y) := sameBytes_of rfl rfl rfl

theorem sameBytes_syncPipe (p : Nat) (sound : Bool) : SameBytes b (b.syncPipe p sound) :=
  sameBytes_of (syncPipe_keep b p Body.mem (fun b f v => b.setF_mem _ f v) sound)
    (syncPipe_keep b p Body.haze (fun b f v => b.setF_haze _ f v) sound) (syncPipe_keep b p Body.bg (fun b f v => b.setF_bg _ f v) sound)

theorem sameBytes_closeStream (k : Nat) : SameBytes b (b.closeStream k) := by
  cases hx : b.stream k with
  | none =>
    rw [Body.closeStream, hx]
    exact fun _ => rfl
  | some x =>
    have hfreed := (sameBytes_abortAll b x.queue).trans (sameBytes_streamFreed _ k)
    cases hclosing : x.closing with
    | none =>
      rw [closeStream_of_open hx hclosing]
      exact hfreed
    | some fl =>
      rw [closeStream_of_closing hx hclosing]
      exact hfreed.done fl 0

/-- The body once a stream whose CLOSE waits is closed. -/
def Body.closeDue (k : Nat) : Body :=
  match b.stream k with
  | some x => if x.closing.isSome then b.closeStream k else b
  | none => b

theorem sameBytes_closeDue (k : Nat) : SameBytes b (b.closeDue k) := by
  unfold Body.closeDue
  split
  · split
    · exact sameBytes_closeStream b k
    · exact fun _ => rfl
  · exact fun _ => rfl

theorem sameBytes_pipeDone (p : Nat) : SameBytes b (b.pipeDone p) := by
  have hfree : ∀ (b : Body) y, SameBytes b (((b.setPipe p y).syncPipe p false).bump (.fyPipeStat p) Fld.fyPipeStatFrames 1) :=
    fun b y => ((sameBytes_setPipe b p y).trans (sameBytes_syncPipe _ p false)).trans (sameBytes_bump _ _ _ _)
  unfold Body.pipeDone
  dsimp only
  split
  · exact fun _ => rfl
  · refine SameBytes.trans ?_ (sameBytes_closeDue _ _)
    split
    · split
      · exact (hfree b _).trans (sameBytes_finish _ _)
      · exact (hfree b _).trans (sameBytes_retire _ _ _ _ _)
    · exact hfree b _

end

/-! ### A record written at WR -/

section
variable {b : Body} {e : Entry}

/-- RD that lies in the ring at a whole 32 bytes is read as it stands. -/
theorem ringRd_of_aligned (haligned : b.le (e.base + 8) 8 % 32 = 0) (hinside : b.le (e.base + 8) 8 < e.size - 64) (ctx : Nat) :
    b.ringRd e ctx = (b.le (e.base + 8) 8, b) := by
  have hwhole : b.le (e.base + 8) 8 / 32 * 32 = b.le (e.base + 8) 8 := Nat.div_mul_cancel (Nat.dvd_of_mod_eq_zero haligned)
  simp only [Body.ringRd, if_neg (Nat.not_le.2 hinside), hwhole, diff, if_true, Body.clamps]

/-- The body with a record's bytes stored at WR of a ring, and WR after it. -/
def Body.recordPut (b : Body) (slot : Nat) (e : Entry) (wr : Nat) (row : List Byte) : Body :=
  ((b.tierTraffic slot (e.base + 64 + wr) row.length true 10).store (e.base + 64 + wr) row).store e.base
    (leBytes 8 ((wr + row.length) % (e.size - 64)))

theorem FyRec.len_ge (r : FyRec) : 64 ≤ r.len := Nat.le_add_right 64 _

theorem ringPut_of_room {k wr : Nat} {x : FyStream} {r : FyRec} (hegress : x.live.egress = false) (hwr : b.le e.base 8 = wr)
    (haligned : b.le (e.base + 8) 8 % 32 = 0) (hinside : b.le (e.base + 8) 8 < e.size - 64) (hfits : wr + r.len ≤ e.size - 64)
    (hroom : r.len ≤ (b.le (e.base + 8) 8 + 2 * (e.size - 64) - wr - 1) % (e.size - 64)) :
    b.ringPut k x e r = (true, b.recordPut x.slot e wr (padTo r.len (recHeader k r b.now ++ r.payload))) := by
  have hlen := r.len_ge
  have hlow : wr % (e.size - 64) = wr := Nat.mod_eq_of_lt (by omega)
  have hnopad : ¬(wr + r.len > e.size - 64 ∧ e.size - 64 - wr ≤ (b.le (e.base + 8) 8 + 2 * (e.size - 64) - wr - 1) % (e.size - 64)) :=
    fun hpad => absurd hfits (Nat.not_le.2 hpad.1)
  simp only [Body.ringPut, ringRd_of_aligned haligned hinside, hwr, hlow, if_neg hnopad, hfits, hroom, and_self, if_true, Body.putRecord,
    hegress, Bool.false_eq_true, if_false, Body.recordPut, length_padTo]

/-- A number of 8 bytes that has been stored reads back. -/
theorem RowStored.le_word {t : Body} {a v : Nat} (h : RowStored b t a (leBytes 8 v)) (hv : v < 2 ^ 64) : t.le a 8 = v := by
  have hlen := length_leBytes 8 v
  have hword := h.le_part (o := 0) (k := 8) (v := v) (by omega) fun j _ => by rw [Nat.zero_add]
  rwa [Nat.add_zero, show 256 ^ 8 = 2 ^ 64 from rfl, Nat.mod_eq_of_lt hv] at hword

/-- A pointer of a ring fits its 8 bytes. -/
theorem ringPtr_lt (hsize : e.size < 2 ^ 64) (hring : 64 < e.size) (n : Nat) : n % (e.size - 64) < 2 ^ 64 :=
  (Nat.mod_lt n (Nat.sub_pos_of_lt hring)).trans (Nat.lt_of_le_of_lt (Nat.sub_le _ _) hsize)

/-- A record put reads back at WR, WR stands past it, and no other byte changes. -/
theorem recordPut_spec (h : PlainMemory b) (slot wr : Nat) (row : List Byte) (hsize : e.size < 2 ^ 64) (hring : 64 < e.size) :
    let t := b.recordPut slot e wr row
    t.bytes (e.base + 64 + wr) row.length = row ∧ t.le e.base 8 = (wr + row.length) % (e.size - 64) ∧
      ∀ a, (a < e.base ∨ e.base + 8 ≤ a) → (a < e.base + 64 + wr ∨ e.base + 64 + wr + row.length ≤ a) →
        t.byte a = b.byte a := by
  intro t
  have hrow := (sameMemory_tierTraffic b slot (e.base + 64 + wr) row.length true 10).store h (e.base + 64 + wr) row
  have hptr := rowStored_store hrow.plain e.base (leBytes 8 ((wr + row.length) % (e.size - 64)))
  have hlen := length_leBytes 8 ((wr + row.length) % (e.size - 64))
  refine ⟨?_, hptr.le_word (ringPtr_lt hsize hring _), fun a hword hrecord => ?_⟩
  · exact (bytes_eq_of_byte fun a hlow _ => hptr.outside a (by omega)).trans hrow.bytes_whole
  · exact (hptr.outside a (by rwa [hlen])).trans (hrow.outside a hrecord)

end

section
variable {s : State} {pipe : Fin 8}

theorem exec_ringRecord_of_none (h : (s.body.pipe pipe.val).recs = []) : exec (.ringRecord pipe) s = .next s := by
  change execRingRecord pipe s = _
  simp only [execRingRecord, State.onBody, h]

/-- What follows a record put, the count of a hold and the end of the pipe's frame, changes no byte. -/
theorem exec_ringRecord_of_put {r : FyRec} {l : List FyRec} {x : FyStream} {e : Entry} {t : Body}
    (hrecs : (s.body.pipe pipe.val).recs = r :: l) (hx : s.body.stream (s.body.pipe pipe.val).stream = some x)
    (he : s.body.resolve x.slot x.fixed.ringH = some e)
    (hput : s.body.ringPut (s.body.pipe pipe.val).stream x e r = (true, t)) :
    ∃ u, exec (.ringRecord pipe) s = .next { s with body := u } ∧ SameBytes t u := by
  change ∃ u, execRingRecord pipe s = _ ∧ _
  simp only [execRingRecord, State.onBody, hrecs, hx, he, hput]
  refine ⟨_, rfl, ?_⟩
  refine SameBytes.trans (SameBytes.trans ?_ (sameBytes_setPipe _ _ _)) (sameBytes_pipeDone _ _)
  split
  · split
    · exact fun _ => rfl
    · exact sameBytes_bump _ _ _ _
  · exact fun _ => rfl

end

/-! ### EGRESS_ACK -/

section
variable {s : State} {stream : Fin 256}

theorem exec_egressAck_of_none (h : ∀ x, s.body.stream stream.val = some x → x.egressOut = []) :
    exec (.egressAck stream) s = .next s := by
  change execEgressAck stream s = _
  rw [execEgressAck, State.onBody]
  split
  · rfl
  · rename_i x hx
    rw [h x hx]

/-- The body when RD of a ring has moved past a record. -/
def Body.rdMoved (b : Body) (e : Entry) (n : Nat) : Body :=
  b.store (e.base + 8) (leBytes 8 ((b.le (e.base + 8) 8 + n) % (e.size - 64)))

theorem exec_egressAck_of_acked {x : FyStream} {e : Entry} {n : Nat} {l : List Nat} (hplain : PlainMemory s.body)
    (hx : s.body.stream stream.val = some x) (hout : x.egressOut = n :: l) (he : s.body.resolve x.slot x.fixed.ringH = some e)
    (hacked : (s.body.qp x.live.qp).unacked = []) : exec (.egressAck stream) s =
      .next { s with body := (s.body.rdMoved e n).putStream stream.val { x with egressOut := l } } := by
  have hx' : (s.body.rdMoved e n).stream stream.val = some x := by rw [Body.rdMoved, Body.stream_congr (store_ferry hplain _ _), hx]
  have hupd := updStream_of_open hx' fun y => { y with egressOut := l }
  change execEgressAck stream s = _
  simp only [execEgressAck, State.onBody, hx, hout, he, hacked, List.filter_nil, List.length_nil, List.length_cons, Nat.succ_pos,
    if_true]
  exact congrArg (fun b => Host.Outcome.next { s with body := b }) hupd

theorem rdMoved_spec {b : Body} (h : PlainMemory b) {e : Entry} (n : Nat) (hring : 96 ≤ e.size) (hsize : e.size < 2 ^ 64) :
    (b.rdMoved e n).le (e.base + 8) 8 = (b.le (e.base + 8) 8 + n) % (e.size - 64) ∧
      SameBytesBut b (b.rdMoved e n) (e.base + 8) 8 := by
  have hrow := rowStored_store h (e.base + 8) (leBytes 8 ((b.le (e.base + 8) 8 + n) % (e.size - 64)))
  exact ⟨hrow.le_word (ringPtr_lt hsize (by omega) _), fun a ha => hrow.outside a (by rwa [length_leBytes])⟩

end

end Sys2Proof.Machine
end

section
/-! PROOFS. The queues of the Ferry (R247, R249-R252, R257, R263): each command, pipe and ring by its outcome. -/

namespace Sys2Proof.Machine

/-- Settles O32: a command joins the queue by the flight it begins as, a pipe goes by its first frame, and a record and WR lie apart. -/
theorem ferryFramesQueue : Obligations.FerryFramesQueue := by
  rintro s c fl k rfl
  refine ⟨?_, fun i opc hrow hd hnot => ?_, fun hd hfresh hprogress => ⟨fun st h hstart => ?_, fun cur prev a n hstart => ?_⟩,
    fun pipe => exec_pipeTakeFrame_of_idle, fun pipe pr j u x q l hfree hbest hj hx hqueue => ⟨fun hr => ?_, ?_⟩,
    fun pipe => exec_ringRecord_of_none, ?_, fun stream => exec_egressAck_of_none, ?_⟩
  · intro x i opc hs hx hslot hopen hd hrow
    have hsame := StillSame.refl s.body
    obtain ⟨e, ⟨rfl, rfl, hcodes, hflush, rfl, he⟩ | ⟨rfl, rfl, hcodes, hflush, rfl⟩ | ⟨rfl, rfl, hcodes, hflush, rfl, he⟩ |
      ⟨rfl, rfl, hcodes, hflush, rfl⟩⟩ := hrow
    · exact ⟨_, exec_fyEncode_of_good hx hslot hopen hd hflush hcodes he, rfl,
        frameQueued_spec (hsame.clampCmd fl _) (Body.clampCmd_hm _ _ _) (Body.clampCmd_ferry _ _ _) hd.mem _ x _⟩
    · exact ⟨_, exec_fyEncodeFlush_of_open hx hslot hopen hd hflush hcodes, rfl, frameQueued_spec hsame rfl rfl hd.mem _ x _⟩
    · exact ⟨_, exec_fyDecode_of_good hx hslot hopen hd hflush hcodes he, rfl, frameQueued_spec hsame rfl rfl hd.mem _ x _⟩
    · exact ⟨_, exec_fyDecodeFlush_of_open hx hslot hopen hd hflush hcodes, rfl, frameQueued_spec hsame rfl rfl hd.mem _ x _⟩
  · have hother : ∀ x, s.body.stream (c.f 1 7 0) = some x → x.slot = fl.slot → x.fixed.decode = decide (opc = 0x59) := by
      intro x hx hslot
      rcases hnot with hnone | ⟨y, hy, hother⟩
      · exact absurd (hnone.symm.trans hx) (by simp)
      · obtain rfl := Option.some.inj (hy.symm.trans hx)
        exact hother.resolve_left (not_not.2 hslot)
    obtain ⟨hends, hbytes, hregs⟩ := (StillSame.refl s.body).fail fl 0x11 (c.f 1 7 0) 0
    simp only [List.mem_cons, Prod.mk.injEq, List.not_mem_nil, or_false] at hrow
    obtain ⟨rfl, rfl⟩ | ⟨rfl, rfl⟩ := hrow
    · exact ⟨_, exec_fyEncode_of_not_encoder hd hother, rfl, hends, hbytes, hregs, Body.fail_ferry _ _ _ _ _⟩
    · exact ⟨_, exec_fyDecode_of_not_decoder hd hother, rfl, hends, hbytes, hregs, Body.fail_ferry _ _ _ _ _⟩
  · obtain ⟨hends, hbytes, hregs⟩ := ((StillSame.refl s.body).clampCmd fl (s.body.soundClamps fl)).fail fl st h 0
    exact ⟨_, exec_fySound_of_error hd hfresh hstart, hends, hbytes, hregs,
      (Body.fail_ferry _ _ _ _ _).trans (Body.clampCmd_ferry _ _ _)⟩
  · obtain ⟨hended, hbytes, hregs⟩ := ((StillSame.refl s.body).clampCmd (soundFlight c fl) n).start (soundFlight c fl)
    have hmem : fl ∈ (s.body.clampCmd (soundFlight c fl) n).hm.flights := by rw [Body.clampCmd_hm]; exact hd.mem
    exact ⟨_, s.body.newSound c fl cur prev a, exec_fySound_of_ok hd hfresh hprogress hstart, rfl,
      ⟨hended, soundFlight c fl, List.mem_map.2 ⟨fl, hmem, if_pos rfl⟩, rfl, rfl⟩, rfl, rfl, rfl, rfl, rfl, hbytes, hregs⟩
  · refine ⟨_, exec_pipeTakeFrame_of_frame hfree hbest hj hx hqueue, ?_, ?_, ?_⟩
    · rw [takeFrame_of_stale hx hr]
      exact Body.endsWith_fail q 0x12 _ 0 (frameLost_ended s.body j x)
    · rw [takeFrame_of_stale hx hr, Body.stream_congr (Body.fail_ferry _ _ _ _ _), stream_frameLost, hqueue]
      rfl
    · rw [takeFrame_of_stale hx hr]
      exact (sameBytes_frameLost s.body j x).trans (sameBytes_of (by simp) (by simp) (by simp))
  · intro r g f hr hg hcodes hflush hheld hopen hpipe hf hamaxes hecc
    refine ⟨_, exec_pipeTakeFrame_of_frame hfree hbest hj hx hqueue, ?_⟩
    rw [takeFrame_of_empty_flush hx hr hg hcodes hflush hheld hopen hpipe hf hamaxes hecc]
    obtain ⟨hended, hflights⟩ := Body.endsWith_done (b := s.body) (c := s.body.flushTaken j x r) f 0 (by rw [flushTaken_hm])
    refine ⟨⟨by rwa [pipePassed_hm], by rwa [pipePassed_hm]⟩, ?_, ?_⟩
    · rw [pipe_pipePassed]
      rwa [Body.done_ferry, flushTaken_ferry, Body.pipes_putStream]
    · rw [frames_pipePassed _ pipe.isLt, getF_fyPipeStat_done, getF_fyPipeStat_flushTaken _ _ _ _ pipe.isLt]
  · intro pipe r l x e wr rd hplain hrecs hx hegress he hwr hrd haligned hinside hfits hroom hsize
    rw [hrd] at haligned hinside hroom
    have hlen := r.len_ge
    obtain ⟨u, hexec, hsame⟩ := exec_ringRecord_of_put hrecs hx he (ringPut_of_room hegress hwr.symm haligned hinside hfits hroom)
    obtain ⟨hrecord, hnext, hother⟩ := recordPut_spec hplain x.slot wr
      (padTo r.len (recHeader (s.body.pipe pipe.val).stream r s.body.now ++ r.payload)) hsize (by omega)
    rw [length_padTo] at hrecord hnext hother
    exact ⟨_, hexec, rfl, by rw [hsame.bytes_eq, hrecord], by rw [Body.le, hsame.bytes_eq, ← Body.le, hnext],
      fun a hword hrec => by rw [hsame, hother a hword hrec]⟩
  · intro stream x e n l hplain hx hout he hacked hring hsize
    obtain ⟨hrd, hother⟩ := rdMoved_spec hplain n hring hsize
    have hsame := sameBytes_putStream (s.body.rdMoved e n) stream.val { x with egressOut := l }
    exact ⟨_, exec_egressAck_of_acked hplain hx hout he hacked, rfl, Body.stream_putStream_self _ _ _,
      by rw [Body.le, hsame.bytes_eq, ← Body.le, hrd], fun a ha => by rw [hsame, hother a ha]⟩

end Sys2Proof.Machine
end

section
/-! PROOFS. The Swells (R266-R268): one source beside the other and its RP_SWELL_STAT, what a failed test leaves of them, and the end of
a restart. -/

namespace Sys2Proof.Machine

/-! ### Counters, and registers beside an error record -/

theorem Body.getF_lt (b : Body) (r : Reg) (f : Fld) : b.getF r f < 2 ^ f.width := bits_lt _ _ _

/-- A counter counts one more where a condition holds, and otherwise stays. -/
theorem counted_bump_if (b : Body) {r : Reg} {f : Fld} (p : Prop) [Decidable p] (ho : r.ok = true) (hs : r.stored) (hl : f.lo ≤ f.hi)
    (hh : f.hi < 64) : Counted b (if p then b.bump r f 1 else b) r f (if p then 1 else 0) := by
  split
  · exact counted_bump b 1 ho hs hl hh
  · have := b.getF_lt r f
    rw [Counted]
    omega

/-- A set of a register leaves a register of another address alone; a register that does not exist is set to nothing. -/
theorem Body.reg_setF_of_ok_ne (b : Body) {r q : Reg} (f : Fld) (v : Nat) (h : r.ok = true → q.addr ≠ r.addr) :
    (b.setF r f v).reg q = b.reg q := by
  cases hok : r.ok with
  | false => rw [Body.setF_of_not_ok b hok]
  | true => exact Body.reg_setF_ne b f v (h hok)

section
variable {q : Reg} (herr : q.addr ≠ Reg.hmErrStat.addr) (hfreeze : q.addr ≠ Reg.wtLogFreeze.addr)
include herr hfreeze

/-- An error record touches at most the counts of lost records. -/
theorem reg_raise_of_ne (b : Body) (x : ErrRec) : (b.raise x).reg q = b.reg q := by
  have hwatch : (if x.sev = 2 then b.errToWatch x else b).reg q = b.reg q := by
    unfold Body.errToWatch
    dsimp only
    split
    · split
      · exact Body.reg_bump_ne b _ _ hfreeze
      · rfl
    · rfl
  unfold Body.raise
  generalize (if x.sev = 2 then b.errToWatch x else b) = c at hwatch
  simp only [Body.log_reg]
  split
  · exact hwatch
  · exact (Body.reg_bump_ne c _ _ herr).trans hwatch

theorem getF_err_of_ne (b : Body) (code sev kind unit : Nat) (d : List Nat) (st ctx : Nat) (f : Fld) :
    (b.err code sev kind unit d st ctx).getF q f = b.getF q f := by
  rw [Body.getF, Body.err, reg_raise_of_ne herr hfreeze, Body.getF]

end

/-- A row that changes the body alone gives what holds of the new one. -/
theorem gives_of_exec {i : Instr} {s : State} {b : Body} {p : Body → Prop} (h : exec i s = .next { s with body := b }) (hp : p b) :
    Gives i s p := ⟨_, h, rfl, hp⟩

/-! ### One source beside the other -/

section
variable (b : Body) (s k : Nat) (w : Swell)

theorem Body.swell_congr {b c : Body} (h : c.rnd = b.rnd) (k : Nat) : c.swell k = b.swell k := by
  rw [Body.swell, h, Body.swell]

theorem swell_setSwell_self (h : s < b.rnd.swells.length) : (b.setSwell s w).swell s = w := by
  simp [Body.swell, Body.setSwell, List.getD_eq_getElem?_getD, h]

theorem swell_setSwell_ne (h : k ≠ s) : (b.setSwell s w).swell k = b.swell k := by
  simp [Body.swell, Body.setSwell, List.getD_eq_getElem?_getD, h.symm]

theorem length_setSwell : (b.setSwell s w).rnd.swells.length = b.rnd.swells.length := List.length_set

theorem swellState_setSwell : (b.setSwell s w).swellState k = b.swellState k := Body.setSwell_getF b s w _ _

end

section
variable (b : Body) (s : Fin 2) (v : Nat)

theorem swellStat_ok : (Reg.rpSwellStat s).ok = true := decide_eq_true s.isLt

theorem swellStat_stored (k : Nat) : (Reg.rpSwellStat k).stored := by simp [Reg.stored]

theorem swellState_setF : (b.setF (.rpSwellStat s) Fld.rpSwellStatState v).swellState s = v % 4 :=
  Body.getF_setF_self b v (swellStat_ok s) (swellStat_stored s) (by decide) (by decide)

theorem swellCount_setF_state {f : Fld} (hf : f.lo ≤ f.hi) (hlow : 1 < f.lo) :
    (b.setF (.rpSwellStat s) Fld.rpSwellStatState v).getF (.rpSwellStat s) f = b.getF (.rpSwellStat s) f :=
  Body.getF_setF_apart b v (swellStat_ok s) (swellStat_stored s) (by decide) (by decide) hf (.inr hlow)

theorem swellState_bump {f : Fld} (hf : f.lo ≤ f.hi) (hh : f.hi < 64) (hlow : 1 < f.lo) :
    (b.bump (.rpSwellStat s) f v).swellState s = b.swellState s :=
  Body.getF_setF_apart b _ (swellStat_ok s) (swellStat_stored s) hf hh (by decide) (.inl hlow)

theorem getF_swellStat_err (code sev kind unit : Nat) (d : List Nat) (f : Fld) :
    (b.err code sev kind unit d).getF (.rpSwellStat s) f = b.getF (.rpSwellStat s) f :=
  getF_err_of_ne (by simp only [Reg.addr]; omega) (by simp only [Reg.addr]; omega) b code sev kind unit d _ _ f

end

/-- No other source, no byte, and of the registers at most the source's RP_SWELL_STAT, is not as it was. -/
structure OnlySwell (b t : Body) (s : Nat) : Prop where
  others : ∀ k, k ≠ s → t.swell k = b.swell k
  bytes : SameBytes b t
  regs : SameRegsBut b t [(Reg.rpSwellStat s).addr]

namespace OnlySwell

variable {b t : Body} {s : Nat}

theorem refl (b : Body) (s : Nat) : OnlySwell b b s := ⟨fun _ _ => rfl, fun _ => rfl, fun _ _ _ => rfl⟩

theorem setSwell (h : OnlySwell b t s) (w : Swell) : OnlySwell b (t.setSwell s w) s where
  others k hk := (swell_setSwell_ne t s k w hk).trans (h.others k hk)
  bytes := h.bytes.trans (sameBytes_of rfl rfl rfl)
  regs q hq hl := (Body.setSwell_reg t s w q).trans (h.regs q hq hl)

theorem setF (h : OnlySwell b t s) (f : Fld) (v : Nat) : OnlySwell b (t.setF (.rpSwellStat s) f v) s where
  others k hk := (Body.swell_congr (Body.setF_rnd t _ f v) k).trans (h.others k hk)
  bytes := h.bytes.trans (sameBytes_of (by simp) (by simp) (by simp))
  regs q hq hl := (Body.reg_setF_ne t f v (List.ne_of_not_mem_cons hl)).trans (h.regs q hq hl)

theorem bump (h : OnlySwell b t s) (f : Fld) (n : Nat) : OnlySwell b (t.bump (.rpSwellStat s) f n) s := h.setF f _

theorem err (h : OnlySwell b t s) (code sev kind unit : Nat) (d : List Nat) : OnlySwell b (t.err code sev kind unit d) s where
  others k hk := (Body.swell_congr (Body.err_rnd t _ _ _ _ _ _ _) k).trans (h.others k hk)
  bytes := h.bytes.trans (sameBytes_of (by simp) (by simp) (by simp))
  regs q hq hl := (Body.reg_err t code sev kind unit d _ _ hq).trans (h.regs q hq hl)

end OnlySwell

/-! ### A block of samples -/

/-- The run with which a block ends is noted, for the block after it. -/
def Body.runNoted (b : Body) (s : Nat) (last : Bool) (run : Nat) : Body := b.setSwell s { b.swell s with last := last, run := run }

/-- The failures of a block in the two health tests are counted. -/
def Body.failsCounted (b : Body) (s : Nat) (rct apt : Prop) [Decidable rct] [Decidable apt] : Body :=
  let b := if rct then b.bump (.rpSwellStat s) Fld.rpSwellStatRctFail 1 else b
  if apt then b.bump (.rpSwellStat s) Fld.rpSwellStatAptFail 1 else b

section
variable (b : Body) (s : Fin 2) (rct apt : Prop) [Decidable rct] [Decidable apt]

theorem failsCounted_keep {γ : Type} (p : Body → γ) (h : ∀ (b : Body) r f n, p (b.bump r f n) = p b) :
    p (b.failsCounted s rct apt) = p b := by
  unfold Body.failsCounted
  simp only [apply_ite p, h, ite_self]

theorem onlySwell_failsCounted {b c : Body} (h : OnlySwell b c s) : OnlySwell b (c.failsCounted s rct apt) s := by
  have hif : ∀ {c : Body} (p : Prop) [Decidable p] f, OnlySwell b c s →
      OnlySwell b (if p then c.bump (.rpSwellStat s) f 1 else c) s := fun p _ f hc => by
    split
    · exact hc.bump f 1
    · exact hc
  exact hif apt _ (hif rct _ h)

theorem swellState_failsCounted : (b.failsCounted s rct apt).swellState s = b.swellState s := by
  have hif : ∀ (b : Body) (p : Prop) [Decidable p] (f : Fld), f.lo ≤ f.hi → f.hi < 64 → 1 < f.lo →
      (if p then b.bump (.rpSwellStat s) f 1 else b).swellState s = b.swellState s := fun b p _ f hf hh hlow => by
    split
    · exact swellState_bump b s 1 hf hh hlow
    · rfl
  unfold Body.failsCounted
  dsimp only
  rw [hif _ _ _ (by decide) (by decide) (by decide), hif _ _ _ (by decide) (by decide) (by decide)]

theorem counted_failsCounted :
    Counted b (b.failsCounted s rct apt) (.rpSwellStat s) Fld.rpSwellStatRctFail (if rct then 1 else 0) ∧
      Counted b (b.failsCounted s rct apt) (.rpSwellStat s) Fld.rpSwellStatAptFail (if apt then 1 else 0) := by
  have hok := swellStat_ok s
  have hst := swellStat_stored s
  have hrct := counted_bump_if b (f := Fld.rpSwellStatRctFail) rct hok hst (by decide) (by decide)
  have hkept : (if rct then b.bump (.rpSwellStat s) Fld.rpSwellStatRctFail 1 else b).getF (.rpSwellStat s) Fld.rpSwellStatAptFail =
      b.getF (.rpSwellStat s) Fld.rpSwellStatAptFail := by
    split
    · exact Body.getF_setF_apart b _ hok hst (by decide) (by decide) (by decide) (by decide)
    · rfl
  unfold Body.failsCounted
  dsimp only
  generalize (if rct then b.bump (.rpSwellStat s) Fld.rpSwellStatRctFail 1 else b) = c at hrct hkept
  have hapt := counted_bump_if c (f := Fld.rpSwellStatAptFail) apt hok hst (by decide) (by decide)
  refine ⟨?_, by rwa [Counted, hkept] at hapt⟩
  split
  · rwa [Counted, Body.bump, Body.getF_setF_apart c _ hok hst (by decide) (by decide) (by decide) (by decide)]
  · exact hrct

end

/-- The failures of a source within the last second. -/
def Body.recentFails (b : Body) (s : Nat) : List Word := (b.swell s).fails.filter fun t => decide (b.now - t.toNat < second)

/-- A failed test is noted with its time, and the start-up test begins again. -/
def Body.failNoted (b : Body) (s : Nat) : Body :=
  b.setSwell s { b.swell s with fails := b.recentFails s ++ [b.ts], blocks := 0 }

theorem swellFail_eq (b : Body) (s test : Nat) : b.swellFail s test = if 2 ≤ (b.recentFails s).length
    then ((b.failNoted s).setF (.rpSwellStat s) Fld.rpSwellStatState 3).err 0x0A01 1 13 s [s, test]
    else (b.failNoted s).setF (.rpSwellStat s) Fld.rpSwellStatState 2 := by
  have hlen : (b.recentFails s ++ [b.ts]).length ≥ 3 ↔ 2 ≤ (b.recentFails s).length := by
    rw [List.length_append, List.length_singleton]
    omega
  exact if_congr hlen rfl rfl

/-- A source that fails a test restarts, or becomes FAILED at the third failure within one second; its counters stay. -/
theorem swellFail_spec {b c : Body} {s : Fin 2} (h : OnlySwell b c s) (hs : s.val < c.rnd.swells.length) (test : Nat) :
    OnlySwell b (c.swellFail s test) s ∧
      (c.swellFail s test).swell s = { c.swell s with fails := c.recentFails s ++ [c.ts], blocks := 0 } ∧
      (c.swellFail s test).swellState s = (if 2 ≤ (c.recentFails s).length then 3 else 2) ∧
      ∀ f : Fld, f.lo ≤ f.hi → 1 < f.lo → (c.swellFail s test).getF (.rpSwellStat s) f = c.getF (.rpSwellStat s) f := by
  have hnoted : OnlySwell b (c.failNoted s) s := h.setSwell _
  have hself := swell_setSwell_self c s { c.swell s with fails := c.recentFails s ++ [c.ts], blocks := 0 } hs
  have hcount : ∀ f, (c.failNoted s).getF (.rpSwellStat s) f = c.getF (.rpSwellStat s) f := Body.setSwell_getF c s _ _
  rw [swellFail_eq]
  split
  · refine ⟨(hnoted.setF _ _).err _ _ _ _ _, ?_, ?_, fun f hf hlow => ?_⟩
    · rw [Body.swell_congr (Body.err_rnd _ _ _ _ _ _ _ _), Body.swell_congr (Body.setF_rnd _ _ _ _), Body.failNoted, hself]
    · rw [Body.swellState, getF_swellStat_err, ← Body.swellState, swellState_setF]
    · rw [getF_swellStat_err, swellCount_setF_state _ _ _ hf hlow, hcount]
  · refine ⟨hnoted.setF _ _, ?_, swellState_setF _ _ _, fun f hf hlow => ?_⟩
    · rw [Body.swell_congr (Body.setF_rnd _ _ _ _), Body.failNoted, hself]
    · rw [swellCount_setF_state _ _ _ hf hlow, hcount]

/-! ### The outcomes of SWELL_WORD and SWELL_RESTART_DONE -/

section
variable {st : State} {s : Fin 2}

theorem exec_swellWord_of_failed (h : st.body.swellState s = 3) (x : BitVec 1024) : exec (.swellWord s x) st = .next st := by
  change execSwellWord s x st = _
  rw [execSwellWord, State.onBody, if_pos h]

section
variable {x : BitVec 1024} {last : Bool} {run best : Nat}
  (hruns : (last, run, best) = runs x 1024 0 (st.body.swell s).last (st.body.swell s).run 0)
include hruns

theorem exec_swellWord_of_healthy_good (h : st.body.swellState s = 1) (hrct : best < 41) (hapt : likeFirst x < 800) :
    exec (.swellWord s x) st = .next { st with
      body := (st.body.runNoted s last run).deliver s (sha384 (beBytes 128 (Config.swellPack x).toNat)) } := by
  change execSwellWord s x st = _
  simp only [execSwellWord, State.onBody, ← hruns, swellState_setSwell, h, Nat.not_le.2 hrct, Nat.not_le.2 hapt,
    decide_false, Bool.false_eq_true, if_false, if_true, OfNat.one_ne_ofNat, Body.runNoted]

theorem exec_swellWord_of_healthy_bad (h : st.body.swellState s = 1) (hbad : 41 ≤ best ∨ 800 ≤ likeFirst x) :
    exec (.swellWord s x) st = .next { st with
      body := ((st.body.runNoted s last run).failsCounted s (41 ≤ best) (800 ≤ likeFirst x)).swellFail s
        (if 41 ≤ best then 1 else 2) } := by
  have hne3 : ¬ st.body.swellState s = 3 := by omega
  have hstate : ((st.body.runNoted s last run).failsCounted s (41 ≤ best) (800 ≤ likeFirst x)).swellState s = 1 := by
    rw [swellState_failsCounted, Body.runNoted, swellState_setSwell, h]
  unfold Body.failsCounted at hstate
  change execSwellWord s x st = _
  simp only [execSwellWord, State.onBody, ← hruns, if_neg hne3, ← Body.runNoted.eq_1, ge_iff_le, decide_eq_true_eq, hstate, if_true]
  unfold Body.failsCounted
  by_cases hrct : 41 ≤ best
  · simp only [if_pos hrct]
  · simp only [if_neg hrct, if_pos (hbad.resolve_left hrct)]

theorem exec_swellWord_of_starting_good (h : st.body.swellState s = 0 ∨ st.body.swellState s = 2) (hrct : best < 41)
    (hapt : likeFirst x < 800) : exec (.swellWord s x) st = .next { st with
      body := (st.body.runNoted s last run).setSwell s
        { (st.body.runNoted s last run).swell s with blocks := ((st.body.runNoted s last run).swell s).blocks + 1 } } := by
  have hne : st.body.swellState s ≠ 3 ∧ st.body.swellState s ≠ 1 := by omega
  change execSwellWord s x st = _
  simp only [execSwellWord, State.onBody, ← hruns, swellState_setSwell, hne, Nat.not_le.2 hrct, Nat.not_le.2 hapt,
    decide_false, Bool.false_eq_true, if_false, or_self, Body.runNoted]

end

theorem exec_swellRestartDone_of_passed (h : st.body.swellState s = 0 ∨ st.body.swellState s = 2)
    (hblocks : 4 ≤ (st.body.swell s).blocks) : exec (.swellRestartDone s) st = .next { st with
      body := (st.body.setSwell s { st.body.swell s with blocks := 0 }).setF (.rpSwellStat s) Fld.rpSwellStatState 1 } := by
  change execSwellRestartDone s st = _
  rw [execSwellRestartDone, State.onBody, if_pos ⟨h, hblocks⟩]

theorem exec_swellRestartDone_of_not_passed
    (h : st.body.swellState s = 1 ∨ st.body.swellState s = 3 ∨ (st.body.swell s).blocks < 4) :
    exec (.swellRestartDone s) st = .next st := by
  change execSwellRestartDone s st = _
  rw [execSwellRestartDone, State.onBody, if_neg (by omega)]

end

/-! ### The word of a good block -/

/-- A word that finds its source without one is held there, and counted. -/
theorem deliver_of_no_word {b : Body} {s : Nat} (hword : (b.swell s).word = none) (w : BitVec 384) :
    b.deliver s w = (b.bump (.rpSwellStat s) Fld.rpSwellStatWords 1).setSwell s { b.swell s with word := some w } := by
  have hsame : (b.bump (.rpSwellStat s) Fld.rpSwellStatWords 1).swell s = b.swell s := Body.swell_congr (Body.bump_rnd _ _ _ _) s
  simp only [Body.deliver, hsame, hword, if_true]

section
variable {b : Body} {s : Fin 2} (hs : s.val < b.rnd.swells.length) (last : Bool) (run : Nat)
include hs

theorem swell_runNoted : (b.runNoted s last run).swell s = { b.swell s with last := last, run := run } :=
  swell_setSwell_self b s _ hs

theorem deliver_runNoted_spec (hword : (b.swell s).word = none) (w : BitVec 384) :
    let t := (b.runNoted s last run).deliver s w
    OnlySwell b t s ∧ t.swell s = { b.swell s with last := last, run := run, word := some w } ∧
      Counted b t (.rpSwellStat s) Fld.rpSwellStatWords 1 ∧ t.swellState s = b.swellState s ∧ t.rnd.ripples = b.rnd.ripples := by
  have hnoted := swell_runNoted hs last run
  have hlen : s.val < ((b.runNoted s last run).bump (.rpSwellStat s) Fld.rpSwellStatWords 1).rnd.swells.length := by
    rwa [Body.bump_rnd, Body.runNoted, length_setSwell]
  have hcount := counted_bump (b.runNoted s last run) 1 (swellStat_ok s) (swellStat_stored s) (f := Fld.rpSwellStatWords) (by decide)
    (by decide)
  dsimp only
  rw [deliver_of_no_word (by rw [hnoted, hword])]
  refine ⟨(((OnlySwell.refl b s).setSwell _).bump _ 1).setSwell _, ?_, hcount, ?_, ?_⟩
  · rw [swell_setSwell_self _ _ _ hlen, hnoted]
  · rw [swellState_setSwell, swellState_bump _ _ _ (by decide) (by decide) (by decide), Body.runNoted, swellState_setSwell]
  · simp only [Body.setSwell, Body.bump_rnd, Body.runNoted]

/-- A block that fails a test: its failures are counted, and the source restarts or becomes FAILED. -/
theorem swellFail_runNoted_spec (rct apt : Prop) [Decidable rct] [Decidable apt] (test : Nat) :
    let t := ((b.runNoted s last run).failsCounted s rct apt).swellFail s test
    OnlySwell b t s ∧ t.swell s = { b.swell s with last := last, run := run, fails := b.recentFails s ++ [b.ts], blocks := 0 } ∧
      t.swellState s = (if 2 ≤ (b.recentFails s).length then 3 else 2) ∧
      Counted b t (.rpSwellStat s) Fld.rpSwellStatRctFail (if rct then 1 else 0) ∧
      Counted b t (.rpSwellStat s) Fld.rpSwellStatAptFail (if apt then 1 else 0) := by
  have hrnd : ((b.runNoted s last run).failsCounted s rct apt).rnd = (b.runNoted s last run).rnd :=
    failsCounted_keep _ _ _ _ Body.rnd Body.bump_rnd
  have hts : ((b.runNoted s last run).failsCounted s rct apt).ts = b.ts := failsCounted_keep _ _ _ _ Body.ts Body.bump_ts
  have hswell : ((b.runNoted s last run).failsCounted s rct apt).swell s = { b.swell s with last := last, run := run } := by
    rw [Body.swell_congr hrnd, swell_runNoted hs]
  have hrecent : ((b.runNoted s last run).failsCounted s rct apt).recentFails s = b.recentFails s := by
    rw [Body.recentFails, Body.now, hswell, hts, Body.recentFails, Body.now]
  have honly := onlySwell_failsCounted s rct apt ((OnlySwell.refl b s).setSwell { b.swell s with last := last, run := run })
  obtain ⟨hrct, hapt⟩ := counted_failsCounted (b.runNoted s last run) s rct apt
  obtain ⟨honly', hself, hstate, hcounts⟩ := swellFail_spec (c := (b.runNoted s last run).failsCounted s rct apt) honly
    (by rwa [hrnd, Body.runNoted, length_setSwell]) test
  rw [hswell, hrecent, hts] at hself
  rw [hrecent] at hstate
  refine ⟨honly', hself, hstate, ?_, ?_⟩
  · exact (hcounts _ (by decide) (by decide)).trans hrct
  · exact (hcounts _ (by decide) (by decide)).trans hapt

end

/-- Settles O33: SWELL_WORD by the state of its source and by whether the block passes, SWELL_RESTART_DONE by whether the start-up test
has. -/
theorem swellHealthTests : Obligations.SwellHealthTests := by
  rintro st s x _ last run best _ _ hlen rfl hruns rfl rfl
  have hs : s.val < st.body.rnd.swells.length := by omega
  have hs' : s.val < (st.body.runNoted s last run).rnd.swells.length := by rwa [Body.runNoted, length_setSwell]
  refine ⟨fun h => exec_swellWord_of_failed h x, fun h hrct hapt hword => ?_, fun h hbad => ?_, fun h hrct hapt => ?_,
    fun h hblocks => ?_, fun h => exec_swellRestartDone_of_not_passed h⟩
  · obtain ⟨⟨hothers, hbytes, hregs⟩, hself, hcount, hstate, hripples⟩ := deliver_runNoted_spec hs last run hword
      (sha384 (beBytes 128 (Config.swellPack x).toNat))
    exact gives_of_exec (exec_swellWord_of_healthy_good hruns h hrct hapt)
      ⟨hself, hcount, hstate.trans h, hripples, hothers, hbytes, hregs⟩
  · obtain ⟨⟨hothers, hbytes, hregs⟩, hself, hstate, hrct, hapt⟩ :=
      swellFail_runNoted_spec hs last run (41 ≤ best) (800 ≤ likeFirst x) (if 41 ≤ best then 1 else 2)
    exact gives_of_exec (exec_swellWord_of_healthy_bad hruns h hbad) ⟨hself, hstate, hrct, hapt, hothers, hbytes, hregs⟩
  · refine gives_of_exec (exec_swellWord_of_starting_good hruns h hrct hapt) ⟨?_, rfl, sameBytes_of rfl rfl rfl⟩
    rw [swell_setSwell_self _ _ _ hs', swell_runNoted hs]
  · obtain ⟨-, hbytes, hregs⟩ := ((OnlySwell.refl st.body s).setSwell { st.body.swell s with blocks := 0 }).setF
      Fld.rpSwellStatState 1
    refine gives_of_exec (exec_swellRestartDone_of_passed h hblocks) ⟨swellState_setF _ s 1, ?_, hbytes, hregs⟩
    rw [Body.swell_congr (Body.setF_rnd _ _ _ _), swell_setSwell_self _ _ _ hs]

end Sys2Proof.Machine
end

section
/-! PROOFS. RIPPLE_RESEED, RP_MIX and ENTROPY_TIMEOUT (R268, R270, R271): one Ripple beside the others, a reseed that takes effect, the
seed mixed into the Ripples of a partition, and the end of a wait for entropy. -/

namespace Sys2Proof.Machine

/-! ### One Ripple beside the others -/

section
variable (b : Body) (r : Nat) (x : Ripple)

theorem Body.ripple_congr {b c : Body} (h : c.rnd.ripples = b.rnd.ripples) (r : Nat) : c.ripple r = b.ripple r := by
  rw [Body.ripple, h, Body.ripple]

theorem ripple_setRipple_self : (b.setRipple r x).ripple r = x := SMap.get_set_self b.rnd.ripples {} x r

theorem ripple_setRipple_ne {k : Nat} (h : k ≠ r) : (b.setRipple r x).ripple k = b.ripple k :=
  SMap.get_set_ne b.rnd.ripples {} {} x h

end

/-- The body with what the random sources hold replaced. -/
def Body.putRnd (b : Body) (y : Random) : Body := { b with rnd := y }

/-- What the random sources hold beside their registers is neither a register nor a byte. -/
theorem StillSame.putRnd {b c : Body} (h : StillSame b c) (y : Random) : StillSame b (c.putRnd y) := by
  obtain ⟨hended, hbytes, hregs⟩ := h
  exact ⟨hended, hbytes.trans (sameBytes_of rfl rfl rfl), fun q hq hl => hregs q hq hl⟩

theorem StillSame.failWith {b c : Body} (h : StillSame b c) (fl : Flight) (st code sev kind unit : Nat) (d : List Nat) :
    OnlyEnds b (c.failWith fl st code sev kind unit d) fl st 0 [] := by
  obtain ⟨hended, hbytes, hregs⟩ := h
  refine ⟨?_, hbytes.trans (sameBytes_of (by simp) (by simp) (by simp)), fun q hq hl => ?_⟩
  · exact Body.endsWith_retire fl st 0 true (by rw [Body.raise_hm, hended])
  · rw [Body.reg_failWith c fl st code sev kind unit d hq, hregs q hq hl]

/-! ### RIPPLE_RESEED -/

/-- The state of a Ripple that a seed XORed with what was mixed in reseeds: the XOR with the state, or the seed where the Ripple has
none or the XOR is all zero (R270). -/
def Ripple.reseedState (p : Ripple) (x : BitVec 256) : List Word :=
  let z := (p.s.zip (words4 (x ^^^ p.mix))).map fun q => q.1 ^^^ q.2
  if ¬ p.live ∨ z = [0, 0, 0, 0] then words4 (x ^^^ p.mix) else z

/-- The body after a Ripple has taken a seed. -/
def Body.reseeded (b : Body) (r : Nat) (x : BitVec 256) : Body :=
  let b' := b.setRipple r { s := (b.ripple r).reseedState x, live := true }
  if r < 800 then b'.bump (.rpDraws (r / 4)) Fld.rpDrawsReseeds 1 else b'

theorem reseeded_keep {γ : Type} (p : Body → γ) (hset : ∀ (b : Body) r x, p (b.setRipple r x) = p b)
    (hbump : ∀ (b : Body) k n, p (b.bump (.rpDraws k) Fld.rpDrawsReseeds n) = p b) (b : Body) (r : Nat) (x : BitVec 256) :
    p (b.reseeded r x) = p b := by
  unfold Body.reseeded
  dsimp only
  rw [apply_ite p, hbump, hset, ite_self]

theorem reseeded_rnd (b : Body) (r : Nat) (x : BitVec 256) :
    (b.reseeded r x).rnd = (b.setRipple r { s := (b.ripple r).reseedState x, live := true }).rnd := by
  unfold Body.reseeded
  dsimp only
  rw [apply_ite Body.rnd, Body.bump_rnd, ite_self]

/-- RP_MIX commands wait for a Ripple no more; those that waited for it alone are done (R271). -/
def Body.mixesChecked (b : Body) (r : Nat) : Body :=
  let m := b.rnd.mixes.map fun q => (q.1, q.2.filter fun k => decide (k ≠ r))
  (m.filter fun q => decide (q.2 = [])).foldl (fun b q => b.done q.1) { b with rnd.mixes := m.filter fun q => decide (q.2 ≠ []) }

theorem mixesChecked_of_no_mixes {b : Body} (h : b.rnd.mixes = []) (r : Nat) : b.mixesChecked r = b := by
  have hsame : { b with rnd.mixes := [] } = b := by rw [← h]
  unfold Body.mixesChecked
  simp only [h, List.map_nil, List.filter_nil, List.foldl_nil, hsame]

theorem reseed_eq (b : Body) (r : Nat) : b.reseed r = match (b.ripple r).seed with
    | some x => if (b.ripple r).due ∨ ¬ (b.ripple r).live then (b.reseeded r x).mixesChecked r else b
    | none => b := rfl

theorem reseed_of_not_due {b : Body} {r : Nat}
    (h : (b.ripple r).seed = none ∨ ((b.ripple r).live = true ∧ (b.ripple r).due = false)) : b.reseed r = b := by
  rw [reseed_eq]
  cases hseed : (b.ripple r).seed with
  | none => rfl
  | some x =>
    obtain ⟨hlive, hdue⟩ := h.resolve_left (by rw [hseed]; nofun)
    exact if_neg (by simp [hlive, hdue])

/-- With no RP_MIX waiting, a reseed that takes effect changes its Ripple and its count alone. -/
theorem reseed_of_due {b : Body} {r : Nat} {x : BitVec 256} (hmixes : b.rnd.mixes = []) (hseed : (b.ripple r).seed = some x)
    (hdue : (b.ripple r).live = false ∨ (b.ripple r).due = true) : b.reseed r = b.reseeded r x := by
  have hdue' : (b.ripple r).due = true ∨ ¬ (b.ripple r).live = true := by
    rw [Bool.not_eq_true]
    exact hdue.symm
  rw [reseed_eq, hseed]
  exact (if_pos hdue').trans (mixesChecked_of_no_mixes (by rw [reseeded_rnd]; exact hmixes) r)

theorem rpDraws_ok {r : Nat} (hr : r < 800) : (Reg.rpDraws (r / 4)).ok = true := decide_eq_true (by omega)

theorem counted_reseeded (b : Body) {r : Nat} (hr : r < 800) (x : BitVec 256) :
    Counted b (b.reseeded r x) (.rpDraws (r / 4)) Fld.rpDrawsReseeds 1 := by
  unfold Body.reseeded
  simp only [if_pos hr]
  exact counted_bump (b.setRipple r _) 1 (rpDraws_ok hr) (by simp [Reg.stored]) (by decide) (by decide)

theorem exec_rippleReseed (r : Fin 802) (st : State) : exec (.rippleReseed r) st = .next { st with body := st.body.reseed r } := rfl

/-! ### RP_MIX -/

theorem Body.quaysOfSlot_congr {b c : Body} (hregs : c.regs = b.regs) (hframing : c.framing = b.framing) (slot : Nat) :
    c.quaysOfSlot slot = b.quaysOfSlot slot := by
  unfold Body.quaysOfSlot Body.partOfSlot
  rw [Body.getF_congr hregs, hframing]

theorem sourceFor_lt (b : Body) : b.sourceFor 1 < 2 := by
  unfold Body.sourceFor
  split <;> decide

/-- A seed is mixed into a Ripple, whose reseed becomes due (R271). -/
def Ripple.mixed (p : Ripple) (mix : BitVec 256) : Ripple := { p with mix := p.mix ^^^ mix, due := true }

/-- A seed is mixed into each Ripple of a list. -/
def Body.mixInto (b : Body) (rs : List Nat) (mix : BitVec 256) : Body := rs.foldl (fun b r => b.setRipple r ((b.ripple r).mixed mix)) b

theorem mixInto_keep {γ : Type} (p : Body → γ) (h : ∀ (b : Body) r x, p (b.setRipple r x) = p b) (b : Body) (rs : List Nat)
    (mix : BitVec 256) : p (b.mixInto rs mix) = p b := foldl_keep p _ rs b fun b r => h b r _

theorem ripple_mixInto (b : Body) {rs : List Nat} (hrs : rs.Nodup) (mix : BitVec 256) (r : Nat) :
    (b.mixInto rs mix).ripple r = if r ∈ rs then (b.ripple r).mixed mix else b.ripple r := by
  induction rs generalizing b with
  | nil => rfl
  | cons k rs ih =>
    obtain ⟨hk, hrs⟩ := List.nodup_cons.1 hrs
    rw [Body.mixInto, List.foldl_cons, ← Body.mixInto, ih _ hrs]
    by_cases hrk : r = k
    · subst hrk
      rw [if_neg hk, ripple_setRipple_self, if_pos List.mem_cons_self]
    · simp only [ripple_setRipple_ne _ _ _ hrk, List.mem_cons, hrk, false_or]

/-- The seed that RP_MIX makes of a Swell word, its SEED, its context and the time (R271). -/
def mixSeed (c : Cmd) (w : BitVec 384) (now : Nat) : BitVec 256 :=
  Config.seedOf (sha384 (beBytes 48 w.toNat ++ leBytes 8 (c.w 1).toNat ++ leBytes 2 c.ctx.toNat ++ leBytes 8 now))

/-- The Ripples that RP_MIX mixes into: those of the partition, and the sampling unit's with SAMPLER (R271). -/
def Body.mixRipples (b : Body) (c : Cmd) (slot : Nat) : List Nat :=
  (b.quaysOfSlot slot).flatMap (fun q => (List.range 80).map (80 * q + ·)) ++ (if c.b 2 0 = true then [800, 801] else [])

/-- The Swell word that source `k` holds is taken, and the command waits for entropy no more. -/
def Body.wordTaken (b : Body) (k : Nat) (fl : Flight) : Body :=
  (b.setSwell k { b.swell k with word := none }).putRnd { (b.setSwell k { b.swell k with word := none }).rnd with
    waits := b.rnd.waits.filter fun u => decide (u ≠ fl.uid) }

/-- A command joins those that wait for the reseeds of their Ripples. -/
def Body.awaitReseeds (b : Body) (fl : Flight) (rs : List Nat) : Body :=
  (b.start fl).putRnd { b.rnd with mixes := b.rnd.mixes ++ [(fl, rs)] }

section
variable {st : State} {c : Cmd} {fl : Flight}

theorem exec_rpMix_of_no_word (hd : Dispatched st.body c 0x5C fl) (hword : (st.body.swell (st.body.sourceFor 1)).word = none) :
    exec (.rpMix c) st = .next { st with body := st.body.awaitEntropy fl } := by
  change execRpMix c st = _
  simp only [execRpMix, State.onBody, Body.onCmd_dispatched hd, Body.takeWord, hword]

theorem exec_rpMix_of_word {w : BitVec 384} (hd : Dispatched st.body c 0x5C fl)
    (hword : (st.body.swell (st.body.sourceFor 1)).word = some w) :
    exec (.rpMix c) st = .next { st with
      body := if st.body.mixRipples c fl.slot = []
        then ((st.body.wordTaken (st.body.sourceFor 1) fl).mixInto (st.body.mixRipples c fl.slot) (mixSeed c w st.body.now)).done fl
        else ((st.body.wordTaken (st.body.sourceFor 1) fl).mixInto (st.body.mixRipples c fl.slot)
          (mixSeed c w st.body.now)).awaitReseeds fl (st.body.mixRipples c fl.slot) } := by
  have htake : st.body.takeWord 1 = some (w, st.body.setSwell (st.body.sourceFor 1)
      { st.body.swell (st.body.sourceFor 1) with word := none }) := by
    simp only [Body.takeWord, hword]
  have hquays : (st.body.wordTaken (st.body.sourceFor 1) fl).quaysOfSlot fl.slot = st.body.quaysOfSlot fl.slot :=
    Body.quaysOfSlot_congr rfl rfl fl.slot
  change execRpMix c st = _
  simp only [execRpMix, State.onBody, Body.onCmd_dispatched hd, htake]
  unfold Body.mixRipples
  rw [← hquays]
  rfl

end

/-! ### ENTROPY_TIMEOUT -/

/-- The command that ENTROPY_TIMEOUT names, if one waits so. -/
def Body.waiter (b : Body) (wq : Fin 64) (tag : BitVec 16) : Option Flight :=
  b.hm.flights.find? fun x => decide (x.cmd.wq = wq ∧ x.cmd.tag = tag ∧ x.uid ∈ b.rnd.waits)

/-- A command waits for entropy, and for reseeds, no more. -/
def Body.waitEnded (b : Body) (fl : Flight) : Body :=
  b.putRnd { b.rnd with waits := b.rnd.waits.filter fun u => decide (u ≠ fl.uid),
                        mixes := b.rnd.mixes.filter fun p => decide (p.1.uid ≠ fl.uid) }

section
variable {st : State} {wq : Fin 64} {tag : BitVec 16}

theorem exec_entropyTimeout_of_none (h : st.body.waiter wq tag = none ∨ st.body.noEntropy = false) :
    exec (.entropyTimeout wq tag) st = .next st := by
  change execEntropyTimeout wq tag st = _
  unfold Body.waiter at h
  unfold execEntropyTimeout State.onBody
  rcases h with h | h
  · simp only [h]
  · simp only [h, Bool.false_eq_true, if_false]
    split <;> rfl

theorem exec_entropyTimeout_of_waiter {f : Flight} (hf : st.body.waiter wq tag = some f) (hfailed : st.body.noEntropy = true) :
    exec (.entropyTimeout wq tag) st = .next { st with
      body := (st.body.waitEnded f).failWith f 0x23 0x0A02 1 (entropyUnit f.opc).1 (entropyUnit f.opc).2
        [(st.body.waitEnded f).swellState 0 + 4 * (st.body.waitEnded f).swellState 1] } := by
  change execEntropyTimeout wq tag st = _
  unfold Body.waiter at hf
  simp only [execEntropyTimeout, State.onBody, hf, hfailed, if_true]
  rfl

end

/-! ### What each leaves as it was -/

theorem reseeded_spec (b : Body) (r : Nat) (x : BitVec 256) :
    (b.reseeded r x).ripple r = { s := (b.ripple r).reseedState x, live := true } ∧
      (∀ k, k ≠ r → (b.reseeded r x).ripple k = b.ripple k) ∧ SameBytes b (b.reseeded r x) ∧
      SameRegsBut b (b.reseeded r x) [(Reg.rpDraws (r / 4)).addr] ∧ (b.reseeded r x).hm = b.hm := by
  have hripples := congrArg Random.ripples (reseeded_rnd b r x)
  refine ⟨?_, fun k hk => ?_, fun a => ?_, fun q _ hl => ?_, ?_⟩
  · rw [Body.ripple_congr hripples, ripple_setRipple_self]
  · rw [Body.ripple_congr hripples, ripple_setRipple_ne _ _ _ hk]
  · exact reseeded_keep (fun b => b.byte a) (fun _ _ _ => Body.byte_congr rfl rfl rfl a)
      (fun b _ _ => Body.byte_congr (Body.bump_mem b _ _ _) (Body.bump_haze b _ _ _) (Body.bump_bg b _ _ _) a) b r x
  · unfold Body.reseeded
    dsimp only
    rw [apply_ite (Body.reg · q), Body.reg_bump_ne _ _ _ (List.ne_of_not_mem_cons hl), ite_self, Body.setRipple_reg]
  · exact reseeded_keep Body.hm Body.setRipple_hm (fun b _ _ => Body.bump_hm b _ _ _) b r x

theorem awaitEntropy_spec (b : Body) (fl : Flight) :
    let t := b.awaitEntropy fl
    fl.uid ∈ t.rnd.waits ∧ t.hm = b.hm ∧ t.rnd.ripples = b.rnd.ripples ∧ t.regs = b.regs ∧ SameBytes b t := by
  dsimp only
  unfold Body.awaitEntropy
  split
  · exact ⟨‹_›, rfl, rfl, rfl, fun _ => rfl⟩
  · exact ⟨List.mem_append_right _ List.mem_cons_self, rfl, rfl, rfl, sameBytes_of rfl rfl rfl⟩

/-- In `m` source `k` has given its word and a seed is mixed into the Ripples of a list; no command has ended or joined those that wait
for reseeds, and no byte or register has changed. -/
structure RipplesMixed (b m : Body) (k : Nat) (rs : List Nat) (mix : BitVec 256) : Prop where
  same : StillSame b m
  flights : m.hm.flights = b.hm.flights
  mixes : m.rnd.mixes = b.rnd.mixes
  word : (m.swell k).word = none
  ripple : ∀ r, m.ripple r = if r ∈ rs then (b.ripple r).mixed mix else b.ripple r

theorem ripplesMixed_mixInto {b : Body} {k : Nat} (hk : k < b.rnd.swells.length) (fl : Flight) {rs : List Nat} (hrs : rs.Nodup)
    (mix : BitVec 256) : RipplesMixed b ((b.wordTaken k fl).mixInto rs mix) k rs mix where
  same := ⟨congrArg Harbour.ended (mixInto_keep Body.hm Body.setRipple_hm _ rs mix),
    sameBytes_of (mixInto_keep Body.mem Body.setRipple_mem _ rs mix) (mixInto_keep Body.haze Body.setRipple_haze _ rs mix)
      (mixInto_keep Body.bg Body.setRipple_bg _ rs mix),
    fun q _ _ => Body.reg_congr (mixInto_keep Body.regs Body.setRipple_regs _ rs mix) q⟩
  flights := mixInto_keep (fun b => b.hm.flights) (fun _ _ _ => rfl) _ rs mix
  mixes := mixInto_keep (fun b => b.rnd.mixes) (fun _ _ _ => rfl) _ rs mix
  word := (mixInto_keep (fun b => (b.swell k).word) (fun _ _ _ => rfl) _ rs mix).trans
    (congrArg Swell.word (swell_setSwell_self b k _ hk))
  ripple := ripple_mixInto (b.wordTaken k fl) hrs mix

theorem staysInFlight_awaitReseeds {b c : Body} {fl : Flight} (hended : c.hm.ended = b.hm.ended) (hmem : fl ∈ c.hm.flights)
    (rs : List Nat) : StaysInFlight b (c.awaitReseeds fl rs) fl :=
  ⟨hended, _, List.mem_map_of_mem hmem, by rw [if_pos rfl], by rw [if_pos rfl]⟩

/-- Settles O34: RIPPLE_RESEED by whether a reseed takes effect, RP_MIX by whether its source holds a word, ENTROPY_TIMEOUT by whether a
command waits and both sources are FAILED. -/
theorem ripplesReseedAndMix : Obligations.RipplesReseedAndMix := by
  intro st c fl
  refine ⟨?_, ?_, ?_, ?_⟩
  · rintro r _ rfl
    refine ⟨fun h => ?_, fun x z hmixes hseed hdue hz => ?_⟩
    · rw [exec_rippleReseed, reseed_of_not_due h]
    · obtain ⟨hself, hothers, hbytes, hregs, hhm⟩ := reseeded_spec st.body r x
      refine gives_of_exec (by rw [exec_rippleReseed, reseed_of_due hmixes hseed hdue]) ⟨?_, hothers,
        fun hr => counted_reseeded st.body hr x, hbytes, hregs, hhm⟩
      rw [hself, Ripple.reseedState, hz]
      simp only [Bool.not_eq_true]
  · rintro _ rfl hd hword
    exact gives_of_exec (exec_rpMix_of_no_word hd hword) (awaitEntropy_spec st.body fl)
  · rintro _ w _ rs rfl hd hword hlen rfl hrs hnodup
    obtain rfl : rs = st.body.mixRipples c fl.slot := hrs
    have hk : st.body.sourceFor 1 < st.body.rnd.swells.length := hlen ▸ sourceFor_lt st.body
    obtain ⟨hsame, hflights, hmixes, hword', hripple⟩ := ripplesMixed_mixInto hk fl hnodup (mixSeed c w st.body.now)
    refine gives_of_exec (exec_rpMix_of_word hd hword) ?_
    generalize Body.mixInto _ _ _ = m at hsame hflights hmixes hword' hripple ⊢
    split
    · obtain ⟨hends, hbytes, hregs⟩ := hsame.done fl 0
      have hrnd := Body.done_rnd m fl 0
      exact ⟨by rw [Body.swell_congr hrnd, hword'], fun r => by rw [Body.ripple_congr (congrArg Random.ripples hrnd)]; exact hripple r,
        hends, hbytes, hregs⟩
    · obtain ⟨hended, hbytes, hregs⟩ := hsame
      exact ⟨hword', hripple, ⟨staysInFlight_awaitReseeds hended (hflights ▸ hd.mem) _, congrArg (· ++ _) hmixes⟩,
        hbytes.trans (sameBytes_of rfl rfl rfl), hregs⟩
  · rintro wq tag _ rfl
    refine ⟨exec_entropyTimeout_of_none, fun f hf hfailed => ?_⟩
    refine gives_of_exec (exec_entropyTimeout_of_waiter hf hfailed) ⟨?_, ?_⟩
    · exact ((StillSame.refl st.body).putRnd _).failWith f 0x23 _ _ _ _ _
    · rw [Body.failWith_rnd]
      simp [Body.waitEnded, Body.putRnd]

end Sys2Proof.Machine
end

section
/-! PROOFS. SAMPLE (R274-R276): the registers that a row's traffic and store leave alone, a row of a temperature of 0, and what the
command does with its rows. -/

namespace Sys2Proof.Machine

/-! ### Registers beside a row -/

/-- Of the registers that a row of SAMPLE may touch beside its own, none lies at the address of `q`. -/
structure Reg.BesideRow (q : Reg) : Prop where
  tally : q.addr ≠ Reg.hmClampTally.addr
  err : q.addr ≠ Reg.hmErrStat.addr
  freeze : q.addr ≠ Reg.wtLogFreeze.addr
  life : q.addr ≠ Reg.mtFlashLife.addr
  ctxCnt : ∀ k i, k < 64 → i < 16 → q.addr ≠ (Reg.hmCtxCnt k i).addr
  sluice : ∀ i t, i < 11 → t < 3 → q.addr ≠ (Reg.slStat i t).addr
  lathe : ∀ g < 200, q.addr ≠ (Reg.brLatheStat g).addr

theorem besideRow_rpSampleStat : Reg.BesideRow .rpSampleStat where
  tally := by decide
  err := by decide
  freeze := by decide
  life := by decide
  ctxCnt k i hk hi := by simp only [Reg.addr]; omega
  sluice i t hi ht := by simp only [Reg.addr]; omega
  lathe g hg := by simp only [Reg.addr]; omega

namespace Reg.BesideRow

variable {q : Reg} (h : q.BesideRow)
include h

theorem count (b : Body) (slot i n : Nat) : (b.count slot i n).reg q = b.reg q := by
  have hne : (Reg.hmCtxCnt slot i).ok = true → q.addr ≠ (Reg.hmCtxCnt slot i).addr := fun hok => by
    simp only [Reg.ok, Bool.and_eq_true, decide_eq_true_eq] at hok
    exact h.ctxCnt slot i hok.1 hok.2
  unfold Body.count
  split
  · exact Body.reg_setF_of_ok_ne b _ _ hne
  · rfl

theorem clampCmd (b : Body) (fl : Flight) (n : Nat) : (b.clampCmd fl n).reg q = b.reg q := by
  rw [Body.clampCmd, h.count, Body.reg_clamps_ne _ _ _ _ h.tally]

theorem charge (b : Body) (i t point n : Nat) : (b.charge i t point n).reg q = b.reg q := by
  have hne : (Reg.slStat i t).ok = true → q.addr ≠ (Reg.slStat i t).addr := fun hok => by
    simp only [Reg.ok, Bool.and_eq_true, decide_eq_true_eq] at hok
    exact h.sluice i t hok.1 hok.2
  unfold Body.charge
  dsimp only
  split
  · rfl
  · split
    · exact (Body.reg_setF_of_ok_ne _ _ _ hne).trans (Body.setSluice_reg b i t _ q)
    · exact Body.setSluice_reg b i t _ q

theorem tierTraffic (b : Body) (slot a n : Nat) (write : Bool) (point : Nat) : (b.tierTraffic slot a n write point).reg q = b.reg q := by
  unfold Body.tierTraffic
  split
  · rw [h.count, h.charge]
  · rw [h.count, h.charge]
  · split <;> rw [h.count, h.charge]
  · rfl

theorem flashLife (b : Body) : b.flashLife.reg q = b.reg q := by
  have hset : ∀ (b : Body) f v, (b.setF .mtFlashLife f v).reg q = b.reg q := fun b f v => Body.reg_setF_ne b f v h.life
  have herr : ∀ (b : Body) code sev kind unit d, (b.err code sev kind unit d).reg q = b.reg q := fun b _ _ _ _ _ =>
    reg_raise_of_ne h.err h.freeze b _
  unfold Body.flashLife
  simp only [apply_ite (Body.reg · q), herr, hset, ite_self]

theorem store {b : Body} (hb : PlainMemory b) (a : Nat) (row : List Byte) : (b.store a row).reg q = b.reg q := by
  rw [store_of_plain hb, Body.program_keep (fun b => b.reg q) (fun _ _ => Body.reg_congr rfl q)
    (fun b _ _ => (h.flashLife _).trans (Body.reg_congr rfl q)), Body.setBytes_reg]

end Reg.BesideRow

/-! ### A row of a temperature of 0 -/

/-- A temperature of 0 passes its clamps as 0. -/
theorem sampleClamp_zero (topP k1 v1 : Nat) : (sampleClamp 0 topP k1 v1).1 = 0 := by
  have hnan : (ofF32 0).isNan = false := by decide
  have hneg : (ofF32 0).lt (zeroOf false) = false := by decide
  simp only [sampleClamp, hnan, hneg, Bool.false_eq_true, if_false]

theorem isZero_zero : (ofF32 0).isZero = true := by decide

theorem freeBytes_keep {γ : Type} (p : Body → γ) (h : ∀ b : Body, p b.free.2 = p b) (b : Body) (n : Nat) :
    p (b.freeBytes n).2 = p b := by
  induction n generalizing b with
  | zero => rfl
  | succ n ih => exact (ih b.free.2).trans (h b)

theorem length_freeBytes (b : Body) (n : Nat) : (b.freeBytes n).1.length = n := by
  induction n generalizing b with
  | zero => rfl
  | succ n ih => exact congrArg (· + 1) (ih b.free.2)

/-- In `t` a row has been read and counted: memory is as in `b`, and ROWS one more. -/
structure RowCounted (b t : Body) : Prop where
  memory : SameMemory b t
  rows : Counted b t .rpSampleStat Fld.rpSampleStatRows 1

theorem rpSampleStat_stored : Reg.rpSampleStat.stored := by simp [Reg.stored]

theorem sameMemory_bump (b : Body) (r : Reg) (f : Fld) (n : Nat) : SameMemory b (b.bump r f n) :=
  sameMemory_of (by rw [Body.bump_tiers]) (Body.bump_ln _ _ _ _) (Body.bump_hm _ _ _ _) (Body.bump_mem _ _ _ _)
    (Body.bump_haze _ _ _ _) (Body.bump_bg _ _ _ _)

theorem rowCounted_bump {b c : Body} (h : SameMemory b c) (hreg : c.reg .rpSampleStat = b.reg .rpSampleStat) :
    RowCounted b (c.bump .rpSampleStat Fld.rpSampleStatRows 1) where
  memory := h.trans (sameMemory_bump c _ _ 1)
  rows := by
    have hcount := counted_bump c (r := .rpSampleStat) (f := Fld.rpSampleStatRows) 1 rfl rpSampleStat_stored (by decide) (by decide)
    rwa [Counted, Body.getF, Body.getF, hreg] at hcount

/-- NAN_ROWS and EMPTY lie apart from ROWS. -/
theorem RowCounted.bump {b t : Body} (h : RowCounted b t) {f : Fld} (hf : f.lo ≤ f.hi) (hh : f.hi < 64) (hhigh : 31 < f.lo) (n : Nat) :
    RowCounted b (t.bump .rpSampleStat f n) where
  memory := h.memory.trans (sameMemory_bump t _ _ n)
  rows := (Body.getF_setF_apart t _ rfl rpSampleStat_stored hf hh (by decide) (.inl hhigh)).trans h.rows

theorem RowCounted.freeBytes {b t : Body} (h : RowCounted b t) (n : Nat) : RowCounted b (t.freeBytes n).2 where
  memory := h.memory.trans (sameMemory_of (freeBytes_keep (fun b => b.tiers.badSectors) (fun _ => rfl) t n)
    (freeBytes_keep Body.ln (fun _ => rfl) t n) (freeBytes_keep Body.hm (fun _ => rfl) t n) (freeBytes_keep Body.mem (fun _ => rfl) t n)
    (freeBytes_keep Body.haze (fun _ => rfl) t n) (freeBytes_keep Body.bg (fun _ => rfl) t n))
  rows := (freeBytes_keep (fun b => b.getF .rpSampleStat Fld.rpSampleStatRows) (fun _ => Body.getF_congr rfl _ _) t n).trans h.rows

/-- The traffic of a row's logits, its clamps counted. -/
def Body.rowTraffic (b : Body) (fl : Flight) (n a sz : Nat) : Body := (b.clampCmd fl n).tierTraffic fl.slot a sz false 10

theorem sameMemory_rowTraffic (b : Body) (fl : Flight) (n a sz : Nat) : SameMemory b (b.rowTraffic fl n a sz) :=
  (sameMemory_clampCmd b fl n).trans (sameMemory_tierTraffic _ _ _ _ _ _)

theorem load_rowTraffic {b : Body} (hb : PlainMemory b) (fl : Flight) (n a sz : Nat) :
    ((b.clampCmd fl n).tierTraffic fl.slot a sz false 10).load fl a sz =
      ((b.rowTraffic fl n a sz).bytes a sz, false, (b.rowTraffic fl n a sz).readPages a sz) :=
  load_of_plain ((sameMemory_rowTraffic b fl n a sz).plain hb) fl a sz

theorem rowCounted_read (b : Body) (fl : Flight) (n a sz : Nat) :
    RowCounted b (((b.rowTraffic fl n a sz).readPages a sz).free.2.bump .rpSampleStat Fld.rpSampleStatRows 1) := by
  refine rowCounted_bump (((sameMemory_rowTraffic b fl n a sz).trans (sameMemory_readPages _ a sz)).trans
    (sameMemory_of rfl rfl rfl rfl rfl rfl)) ?_
  rw [Body.free_reg, Body.readPages_keep (fun b => b.reg .rpSampleStat) (fun _ _ => Body.reg_congr rfl _), Body.rowTraffic,
    besideRow_rpSampleStat.tierTraffic, besideRow_rpSampleStat.clampCmd]

theorem RowCounted.bump_nanRows {b t : Body} (h : RowCounted b t) (nan : Bool) :
    RowCounted b (if nan = true then t.bump .rpSampleStat Fld.rpSampleStatNanRows 1 else t) := by
  split
  · exact h.bump (by decide) (by decide) (by decide) 1
  · exact h

/-- A row of a temperature of 0 needs no draw: it is read, counted, and its 16-byte result stored. -/
theorem sampleOne_of_greedy {b : Body} (hb : PlainMemory b) {fl : Flight} (htemp : fl.cmd.f 4 31 0 = 0) (lg out : Entry) (r : Nat) :
    ∃ c row, b.sampleOne fl lg out none r = some (false, c.store (out.base + 32 * fl.cmd.f 2 37 18 + 16 * r) row) ∧ row.length = 16 ∧
      RowCounted b c := by
  have hclamp := sampleClamp_zero (fl.cmd.f 4 63 32) (fl.cmd.f 3 45 36) (fl.cmd.f 3 35 16)
  unfold Body.sampleOne
  simp only [htemp]
  generalize sampleClamp 0 (fl.cmd.f 4 63 32) (fl.cmd.f 3 45 36) (fl.cmd.f 3 35 16) = p at hclamp
  obtain ⟨temp, topP, k1, n⟩ := p
  obtain rfl : temp = 0 := hclamp
  simp only [isZero_zero, not_true_eq_false, false_and, if_false, if_true, load_rowTraffic hb]
  have hrow := rowCounted_read b fl n (lg.base + 32 * fl.cmd.f 1 37 18 + r * fl.cmd.f 5 47 0)
    ((fl.cmd.f 3 35 16 + 1) * (elemBits lg.fmt / 8))
  generalize topK _ _ = rank
  generalize (rowLogits _ _ _).2 = nan
  generalize Body.bump _ .rpSampleStat Fld.rpSampleStatRows 1 = d at hrow ⊢
  have hnoted := hrow.bump_nanRows nan
  generalize (if nan = true then _ else d) = e at hnoted ⊢
  by_cases hempty : (rank.getD 0 (0, .inf true)).2 = .inf true
  · rw [if_pos hempty]
    refine ⟨_, _, rfl, ?_, (hnoted.bump (by decide) (by decide) (by decide) 1).freeBytes 12⟩
    rw [List.length_append, length_leBytes, length_freeBytes]
  · rw [if_neg hempty]
    exact ⟨_, _, rfl, by simp only [List.length_append, length_leBytes], hnoted⟩

/-! ### The command and its rows -/

/-- The body once SAMPLE has gone through its rows: it waits at one for entropy, or its rows are done. -/
def Body.sampleEnd (fl : Flight) : Body × Option Nat × Bool → Body
  | (b, some r, ecc) => (b.keep fl [r, if ecc then 1 else 0]).awaitEntropy fl
  | (b, none, ecc) => (b.putRnd { b.rnd with waits := b.rnd.waits.filter fun u => decide (u ≠ fl.uid) }).doneEcc fl ecc

theorem endsWith_doneEcc {b c : Body} (h : c.hm.ended = b.hm.ended) (fl : Flight) (ecc : Bool) :
    EndsWith b (c.doneEcc fl ecc) fl (if ecc = true then 0x20 else 0) 0 := by
  cases ecc with
  | false => exact Body.endsWith_done fl 0 h
  | true => exact Body.endsWith_retire fl 0x20 0 true h

theorem sameBytes_doneEcc (b : Body) (fl : Flight) (ecc : Bool) : SameBytes b (b.doneEcc fl ecc) := by
  cases ecc with
  | false => exact sameBytes_retire b fl 0 0 false
  | true => exact sameBytes_retire b fl 0x20 0 true

/-- Rows that are all done end the command. -/
theorem sampleEnd_of_done (b : Body) (fl : Flight) (ecc : Bool) :
    EndsWith b (Body.sampleEnd fl (b, none, ecc)) fl (if ecc = true then 0x20 else 0) 0 ∧
      SameBytes b (Body.sampleEnd fl (b, none, ecc)) :=
  ⟨endsWith_doneEcc rfl fl ecc, SameBytes.trans (sameBytes_of rfl rfl rfl) (sameBytes_doneEcc _ fl ecc)⟩

/-- A row that needs a draw no source can give keeps the command in flight at that row, waiting. -/
theorem sampleEnd_of_waiting (b : Body) (fl : Flight) (r : Nat) (ecc : Bool) :
    let t := Body.sampleEnd fl (b, some r, ecc)
    fl.uid ∈ t.rnd.waits ∧ t.hm.ended = b.hm.ended ∧
      t.hm.flights = (b.keep fl [r, if ecc = true then 1 else 0]).hm.flights ∧ SameBytes b t ∧ t.regs = b.regs := by
  obtain ⟨hwaits, hhm, -, hregs, hbytes⟩ := awaitEntropy_spec (b.keep fl [r, if ecc = true then 1 else 0]) fl
  exact ⟨hwaits, (congrArg Harbour.ended hhm).trans rfl, congrArg Harbour.flights hhm,
    SameBytes.trans (sameBytes_of rfl rfl rfl) hbytes, hregs⟩

/-- One row of a temperature of 0: the command is done, ROWS is one more, and no byte but the 16 of the result changes. -/
theorem sampleEnd_of_greedy {b : Body} (hb : PlainMemory b) {fl : Flight} (htemp : fl.cmd.f 4 31 0 = 0) (lg out : Entry) :
    let t := Body.sampleEnd fl (b.sampleRows fl lg out none 1 0 false)
    EndsWith b t fl 0 0 ∧ Counted b t .rpSampleStat Fld.rpSampleStatRows 1 ∧
      SameBytesBut b t (out.base + 32 * fl.cmd.f 2 37 18) 16 ∧ fl.uid ∉ t.rnd.waits := by
  obtain ⟨c, row, hone, hlen, hmemory, hrows⟩ := sampleOne_of_greedy hb htemp lg out 0
  obtain ⟨-, hended, -, houtside⟩ := hmemory.store hb (out.base + 32 * fl.cmd.f 2 37 18) row
  have hall : b.sampleRows fl lg out none 1 0 false = (c.store (out.base + 32 * fl.cmd.f 2 37 18) row, none, false) := by
    unfold Body.sampleRows
    rw [hone]
    rfl
  rw [hall]
  generalize hd : c.store (out.base + 32 * fl.cmd.f 2 37 18) row = d at hended houtside
  obtain ⟨-, hbytes⟩ := sampleEnd_of_done d fl false
  refine ⟨Body.endsWith_done fl 0 hended, ?_, fun x hx => (hbytes x).trans (houtside x (hlen ▸ hx)), ?_⟩
  · have hreg : (Body.sampleEnd fl (d, none, false)).reg .rpSampleStat = c.reg .rpSampleStat := by
      refine (reg_done_of_ne_latheStat _ fl 0 besideRow_rpSampleStat.lathe).trans ?_
      rw [← besideRow_rpSampleStat.store (hmemory.plain hb) (out.base + 32 * fl.cmd.f 2 37 18) row, hd]
      exact Body.reg_congr rfl _
    rwa [Counted, Body.getF, hreg]
  · have hrnd : (Body.sampleEnd fl (d, none, false)).rnd.waits = d.rnd.waits.filter fun u => decide (u ≠ fl.uid) :=
      congrArg Random.waits (Body.done_rnd _ fl 0)
    simp [hrnd]

/-- The size of an element of a command's logits, 0 where their handle resolves to nothing. -/
def Body.logitSize (b : Body) (c : Cmd) (slot : Nat) : Nat := ((b.resolve slot (c.h 1)).map fun e => elemBits e.fmt / 8).getD 0

/-- The bytes that the logits of a command span (R274). -/
def Body.logitBytes (b : Body) (c : Cmd) (slot : Nat) : Nat :=
  (c.f 3 15 0 + 1 - 1) * c.f 5 47 0 + (c.f 3 35 16 + 1) * b.logitSize c slot

section
variable {s : State} {c : Cmd} {fl : Flight} (hd : Dispatched s.body c 0x5D fl)
include hd

theorem exec_sample_of_logits_refused {x : Nat}
    (hlg : s.body.access fl.slot (c.h 1) (32 * c.f 1 37 18) (s.body.logitBytes c fl.slot) false = .error x) :
    exec (.sample c) s = .next { s with body := s.body.fail fl x (c.h 1) } := by
  change execSample c s = _
  unfold Body.logitBytes Body.logitSize at hlg
  simp only [execSample, State.onBody, Body.onCmd_dispatched hd, hlg]

section
variable {lg out : Entry} (hlg : s.body.access fl.slot (c.h 1) (32 * c.f 1 37 18) (s.body.logitBytes c fl.slot) false = .ok lg)
  (hout : s.body.access fl.slot (c.h 2) (32 * c.f 2 37 18) (16 * (c.f 3 15 0 + 1)) true = .ok out)
include hlg hout

theorem exec_sample_of_unfit (hpar : c.h 6 = 0)
    (hfit : lg.fmt ∉ [8, 9, 10] ∨ lg.place ∉ [1, 2, 3] ∨ out.place = 5 ∨ lg.layout = 4 ∨ out.layout = 4) :
    exec (.sample c) s = .next { s with body := s.body.fail fl 0x11 (c.h 1) } := by
  change execSample c s = _
  unfold Body.logitBytes Body.logitSize at hlg
  simp only [execSample, State.onBody, Body.onCmd_dispatched hd, hlg, hout, if_pos hpar]
  rw [if_pos (by tauto)]

theorem exec_sample_of_fit {par : Option Entry} (hpar : c.h 6 = 0 ∧ par = none ∨
      ∃ e, c.h 6 ≠ 0 ∧ par = some e ∧ s.body.access fl.slot (c.h 6) 0 (16 * (c.f 3 15 0 + 1)) false = .ok e)
    (hfmt : lg.fmt ∈ [8, 9, 10]) (hplace : lg.place ∈ [1, 2, 3]) (hlayout : lg.layout ≠ 4) (hplace' : out.place ≠ 5)
    (hlayout' : out.layout ≠ 4) : exec (.sample c) s = .next { s with
      body := Body.sampleEnd fl (s.body.sampleRows fl lg out par (c.f 3 15 0 + 1 - fl.progress.getD 0 0) (fl.progress.getD 0 0)
        (decide (fl.progress.getD 1 0 = 1))) } := by
  have hfit : ¬ (¬ (lg.fmt ∈ [8, 9, 10] ∧ lg.place ∈ [1, 2, 3]) ∨ out.place = 5 ∨ lg.layout = 4 ∨ out.layout = 4) := by tauto
  have hpar' : (if c.h 6 = 0 then Except.ok none else (s.body.access fl.slot (c.h 6) 0 (16 * (c.f 3 15 0 + 1)) false).map some) =
      .ok par := by
    rcases hpar with ⟨h6, rfl⟩ | ⟨e, h6, rfl, he⟩
    · exact if_pos h6
    · rw [if_neg h6, he]
      rfl
  change execSample c s = _
  unfold Body.logitBytes Body.logitSize at hlg
  simp only [execSample, State.onBody, Body.onCmd_dispatched hd, hlg, hout, hpar', if_neg hfit]
  generalize s.body.sampleRows fl lg out par _ _ _ = p
  obtain ⟨b, wait, ecc⟩ := p
  cases wait with
  | none => rfl
  | some r => rfl

end

end

/-- Settles O35: SAMPLE by whether its buffers may be accessed and fit, and then by what its rows come to. -/
theorem sampleWritesItsRows : Obligations.SampleWritesItsRows := by
  rintro s c fl _ _ hd rfl rfl
  refine ⟨fun lg out par hlg hout hpar hfmt hplace hlayout hplace' hlayout' => ?_, fun x hlg => ?_, fun lg out hlg hout hpar hfit => ?_⟩
  · have hexec := exec_sample_of_fit hd hlg hout hpar hfmt hplace hlayout hplace' hlayout'
    refine ⟨?_, fun b' r ecc hrows => ?_, fun b' ecc hrows => ?_⟩
    · rintro hplain rfl hone htemp hprogress -
      rw [hprogress, hone] at hexec
      obtain rfl := hd.cmd
      exact gives_of_exec hexec (sampleEnd_of_greedy hplain htemp lg out)
    · rw [hrows] at hexec
      exact gives_of_exec hexec (sampleEnd_of_waiting b' fl r ecc)
    · rw [hrows] at hexec
      exact gives_of_exec hexec (sampleEnd_of_done b' fl ecc)
  · exact gives_of_exec (exec_sample_of_logits_refused hd hlg) ((StillSame.refl s.body).fail fl x _ 0)
  · exact gives_of_exec (exec_sample_of_unfit hd hlg hout hpar hfit) ((StillSame.refl s.body).fail fl 0x11 _ 0)

end Sys2Proof.Machine
end

section
/-! PROOFS. Registers beside those that note ends, clamps and counts (R182, R426, R459, R464, R475), the numbers of each within its
range. -/

namespace Sys2Proof.Machine

/-- None of the registers that note ends, clamps and counts lies at the address of `q`. -/
structure Reg.Unnoted (q : Reg) : Prop where
  tally : q.addr ≠ Reg.hmClampTally.addr
  err : q.addr ≠ Reg.hmErrStat.addr
  freeze : q.addr ≠ Reg.wtLogFreeze.addr
  ctxCnt : ∀ k i, k < 64 → i < 16 → q.addr ≠ (Reg.hmCtxCnt k i).addr
  lathe : ∀ g < 200, q.addr ≠ (Reg.brLatheStat g).addr

theorem unnoted_hmWqCfg {n : Nat} (hn : n < 64) : (Reg.hmWqCfg n).Unnoted := by
  constructor <;> simp only [Reg.addr] <;> omega

theorem unnoted_hmWqPtr {n : Nat} (hn : n < 64) : (Reg.hmWqPtr n).Unnoted := by
  constructor <;> simp only [Reg.addr] <;> omega

theorem unnoted_hmCplOvf {n : Nat} (hn : n < 64) : (Reg.hmCplOvf n).Unnoted := by
  constructor <;> simp only [Reg.addr] <;> omega

theorem unnoted_hmCtxStat {k : Nat} (hk : k < 64) : (Reg.hmCtxStat k).Unnoted := by
  constructor <;> simp only [Reg.addr] <;> omega

theorem unnoted_hmSramEcc : Reg.hmSramEcc.Unnoted := by
  constructor <;> simp only [Reg.addr] <;> omega

theorem unnoted_wtState : Reg.wtState.Unnoted := by
  constructor <;> simp only [Reg.addr] <;> omega

theorem unnoted_scDebugStat : Reg.scDebugStat.Unnoted := by
  constructor <;> simp only [Reg.addr] <;> omega

namespace Reg.Unnoted

variable {q : Reg} (h : q.Unnoted)
include h

theorem count (b : Body) (slot i n : Nat) : (b.count slot i n).reg q = b.reg q := by
  have hne : (Reg.hmCtxCnt slot i).ok = true → q.addr ≠ (Reg.hmCtxCnt slot i).addr := fun hok => by
    simp only [Reg.ok, Bool.and_eq_true, decide_eq_true_eq] at hok
    exact h.ctxCnt slot i hok.1 hok.2
  unfold Body.count
  split
  · exact Body.reg_setF_of_ok_ne b _ _ hne
  · rfl

theorem clamps (b : Body) (n opc ctx : Nat) : (b.clamps n opc ctx).reg q = b.reg q := Body.reg_clamps_ne b n opc ctx h.tally

theorem clampCmd (b : Body) (fl : Flight) (n : Nat) : (b.clampCmd fl n).reg q = b.reg q := by
  rw [Body.clampCmd, h.count, h.clamps]

theorem raise (b : Body) (x : ErrRec) : (b.raise x).reg q = b.reg q := reg_raise_of_ne h.err h.freeze b x

theorem error (b : Body) (code sev kind unit : Nat) (d : List Nat) (st ctx : Nat) :
    (b.err code sev kind unit d st ctx).reg q = b.reg q := h.raise b _

theorem freezeLogs (b : Body) (cause : Nat) : (b.freezeLogs cause).reg q = b.reg q := by
  unfold Body.freezeLogs
  split
  · rfl
  · rw [Body.reg_setF_ne _ _ _ h.freeze, Body.reg_setF_ne _ _ _ h.freeze]

theorem syncShadow (b : Body) (slot : Nat) : (b.syncShadow slot).reg q = b.reg q :=
  Body.syncShadow_keep (fun b => b.reg q)
    (fun b g v => Body.reg_setF_of_ok_ne b _ v fun hok => h.lathe g (of_decide_eq_true hok)) b slot

theorem retire (b : Body) (fl : Flight) (st r : Nat) (e : Bool) : (b.retire fl st r e).reg q = b.reg q := by
  unfold Body.retire
  dsimp only
  split
  · rw [h.freezeLogs, Body.log_reg, h.syncShadow]
    rfl
  · rw [Body.log_reg, h.syncShadow]
    rfl

theorem done (b : Body) (fl : Flight) (r : Nat) : (b.done fl r).reg q = b.reg q := h.retire b fl 0 r false

theorem fail (b : Body) (fl : Flight) (st d0 d1 : Nat) : (b.fail fl st d0 d1).reg q = b.reg q := by
  unfold Body.fail Body.failWith
  split
  · exact h.retire b fl st 0 false
  · rw [h.retire, h.raise]

end Reg.Unnoted

end Sys2Proof.Machine
end

section
/-! PROOFS. Work-queue windows (R285, R389, R392): what becomes of a write to a window, the TAIL after a doorbell, and PI_WRITE. -/

namespace Sys2Proof.Machine

/-! ### Queue pairs and rings -/

theorem Body.qp_updQp_self (b : Body) (k : Nat) (f : Qp → Qp) : (b.updQp k f).qp k = f (b.qp k) := SMap.get_upd_self ..

theorem Body.qp_congr {b c : Body} (h : c.eth = b.eth) (k : Nat) : c.qp k = b.qp k := by rw [Body.qp, h, Body.qp]

theorem Body.cq_congr {b c : Body} (h : c.eth.cqs = b.eth.cqs) (n : Nat) : c.cq n = b.cq n := by rw [Body.cq, h, Body.cq]

theorem Body.cq_updCq_self (b : Body) (n : Nat) (f : CqRing → CqRing) : (b.updCq n f).cq n = f (b.cq n) := SMap.get_upd_self ..

theorem Body.cq_updCq_ne (b : Body) {n k : Nat} (h : k ≠ n) (f : CqRing → CqRing) : (b.updCq n f).cq k = b.cq k :=
  SMap.get_upd_ne _ _ _ h _

theorem sameBytes_responder (b : Body) (k n : Nat) : SameBytes b (b.responder k n) :=
  sameBytes_of (by simp [Body.responder]) (by simp [Body.responder]) (by simp [Body.responder])

theorem responder_out (b : Body) (k n : Nat) : (b.responder k n).out = b.out := by simp [Body.responder]

theorem responder_cqs (b : Body) (k n : Nat) : (b.responder k n).eth.cqs = b.eth.cqs := by
  simp [Body.responder, Body.updQp]

theorem rqPsn_responder (b : Body) (k n : Nat) :
    ((b.responder k n).qp k).rqPsn = ((b.qp k).rqPsn + packets n (b.qp k).mtu) % 2 ^ 24 := by
  rw [Body.responder, Body.qp_congr (Body.count_eth ..), Body.qp_updQp_self]

theorem Reg.Unnoted.responder {q : Reg} (h : q.Unnoted) (b : Body) (k n : Nat) : (b.responder k n).reg q = b.reg q := by
  rw [Body.responder, h.count, Body.updQp_reg]

/-! ### Writes to a window -/

theorem window_of_down {b : Body} {w : WinWrite} (h : b.netUp = false ∨ b.qpReady w.qp.val = false) (row : Nat)
    (f : Body → Nat → Nat → Body) : b.window w row f = b := by
  unfold Body.window
  rw [if_neg]
  rintro ⟨hup, hready⟩
  simp [hup, hready] at h

section
variable {b : Body} {w : WinWrite} {row n off : Nat} (hup : b.netUp = true) (hready : b.qpReady w.qp.val = true)
  (hwin : windowOf w.va = some (n, off))
include hup hready hwin

theorem window_of_row (hrow : windowRow off w.data.length = some row) (f : Body → Nat → Nat → Body) :
    b.window w row f = if b.windowOk w n = true then (f (b.responder w.qp w.data.length) n off).answer w.qp .roceAck []
      else b.windowRefused w n := by
  simp only [Body.window, hup, hready, and_self, if_true, hwin, hrow]

theorem window_of_other_row {row' : Nat} (hrow : windowRow off w.data.length = some row') (hne : row' ≠ row)
    (f : Body → Nat → Nat → Body) : b.window w row f = b := by
  simp only [Body.window, hup, hready, and_self, if_true, hwin, hrow, Option.some.injEq, if_neg hne, reduceCtorEq, if_false]

end

theorem lt_of_windowOf {va n off : Nat} (h : windowOf va = some (n, off)) : n < 64 := by
  unfold windowOf at h
  split at h
  · simp only [Option.some.injEq, Prod.mk.injEq] at h
    omega
  · cases h

/-- A refused write changes nothing but what an error record touches, and is answered with NAK Remote Access Error. -/
theorem windowRefused_spec (b : Body) (w : WinWrite) (n : Nat) :
    let t := b.windowRefused w n
    SameBytes b t ∧ t.hm = b.hm ∧ t.eth = b.eth ∧
      (∀ k, t.getF (.hmWqPtr k) Fld.hmWqPtrTail = b.getF (.hmWqPtr k) Fld.hmWqPtrTail) ∧
      ∃ m, t.out = b.out ++ [m] ∧ m.kind = .roceNak ∧ m.nums = [w.qp.val, (b.qp w.qp.val).rqPsn, 2] := by
  refine ⟨sameBytes_of (by simp [Body.windowRefused, Body.answer]) (by simp [Body.windowRefused, Body.answer])
    (by simp [Body.windowRefused, Body.answer]), by simp [Body.windowRefused, Body.answer], by simp [Body.windowRefused, Body.answer],
    fun k => ?_, ?_⟩
  · rw [Body.windowRefused, getF_err_of_ne (by simp only [Reg.addr]; omega) (by simp only [Reg.addr]; omega), Body.answer, Body.send_getF]
  · rw [Body.windowRefused, Body.err_out]
    exact ⟨_, rfl, rfl, rfl⟩

/-- A write answered with an ACK carries the expected PSN as it then stands. -/
theorem answer_ack (b : Body) (k : Nat) :
    ∃ m : Msg, (b.answer k .roceAck []).out = b.out ++ [m] ∧ m.kind = .roceAck ∧ m.nums.getD 1 0 = (b.qp k).rqPsn := ⟨_, rfl, rfl, rfl⟩

theorem sameBytes_answer (b : Body) (k : Nat) (kind : MsgKind) (nums : List Nat) (data : List Byte) :
    SameBytes b (b.answer k kind nums data) := sameBytes_of rfl rfl rfl

/-! ### The entries' row -/

theorem entriesWritten_spec (b : Body) (k a : Nat) (data : List Byte) :
    let t := ((b.responder k data.length).setBytes a data).answer k .roceAck []
    t.bytes a data.length = data ∧ SameBytesBut b t a data.length ∧ ∃ m, t.out = b.out ++ [m] ∧ m.kind = .roceAck ∧
      m.nums.getD 1 0 = (t.qp k).rqPsn ∧ (t.qp k).rqPsn = ((b.qp k).rqPsn + packets data.length (b.qp k).mtu) % 2 ^ 24 := by
  intro t
  have hsend : SameBytes ((b.responder k data.length).setBytes a data) t := sameBytes_of rfl rfl rfl
  have heth : t.eth = (b.responder k data.length).eth := Body.setBytes_eth ..
  refine ⟨?_, fun x hx => ?_, ?_⟩
  · rw [hsend.bytes_eq, Body.bytes_setBytes]
  · rw [hsend x, Body.byte_setBytes_ne _ _ _ _ hx, sameBytes_responder b k _ x]
  · obtain ⟨m, hout, hkind, hpsn⟩ := answer_ack ((b.responder k data.length).setBytes a data) k
    refine ⟨m, ?_, hkind, hpsn, ?_⟩
    · rw [hout, Body.setBytes_out, responder_out]
    · rw [Body.qp_congr heth, rqPsn_responder]

/-! ### The doorbell's row -/

section
variable (b : Body) {n : Nat} (hn : n < 64)
include hn

theorem hmWqPtr_ok : (Reg.hmWqPtr n).ok = true := decide_eq_true hn

theorem getF_wqPtr_wake (f : Fld) (cause : Nat) : (b.wake cause).getF (.hmWqPtr n) f = b.getF (.hmWqPtr n) f := by
  unfold Body.wake
  dsimp only
  split
  · rw [Body.getF_setF_ne _ _ _ _ (by simp only [Reg.addr]; omega)]
    rfl
  · rfl

theorem getF_wqPtr_clamps (f : Fld) (k opc ctx : Nat) : (b.clamps k opc ctx).getF (.hmWqPtr n) f = b.getF (.hmWqPtr n) f := by
  rw [Body.getF, (unnoted_hmWqPtr hn).clamps, Body.getF]

theorem tail_setF_tail (v : Nat) :
    (b.setF (.hmWqPtr n) Fld.hmWqPtrTail v).getF (.hmWqPtr n) Fld.hmWqPtrTail = v % 8192 :=
  Body.getF_setF_self b v (hmWqPtr_ok hn) (by simp [Reg.stored]) (by decide) (by decide)

theorem head_setF_tail (v : Nat) :
    (b.setF (.hmWqPtr n) Fld.hmWqPtrTail v).getF (.hmWqPtr n) Fld.hmWqPtrHead = b.getF (.hmWqPtr n) Fld.hmWqPtrHead :=
  Body.getF_setF_apart b v (hmWqPtr_ok hn) (by simp [Reg.stored]) (by decide) (by decide) (by decide) (.inl (by decide))

/-- A doorbell of a bound queue moves TAIL by R285's rule and leaves HEAD. -/
theorem ring_of_bound (tail qp : Nat) (hctx : b.getF (.hmWqCfg n) Fld.hmWqCfgCtx ≠ 0xFFFF) :
    let head := b.getF (.hmWqPtr n) Fld.hmWqPtrHead
    let cnt := (tail % 8192 + 8192 - head) % 8192
    (b.ring n tail qp).getF (.hmWqPtr n) Fld.hmWqPtrTail =
        (if 4096 < cnt then (head + 4096) % 8192 else if cnt < b.rung n then b.getF (.hmWqPtr n) Fld.hmWqPtrTail else tail % 8192) ∧
      (b.ring n tail qp).getF (.hmWqPtr n) Fld.hmWqPtrHead = head := by
  intro head cnt
  unfold Body.ring
  rw [if_neg hctx]
  dsimp only
  rw [getF_wqPtr_wake _ hn, getF_wqPtr_wake _ hn]
  by_cases hover : 4096 < cnt
  · rw [if_pos hover, if_pos hover, getF_wqPtr_clamps _ hn, getF_wqPtr_clamps _ hn, tail_setF_tail _ hn, head_setF_tail _ hn, Nat.mod_mod]
    exact ⟨rfl, rfl⟩
  · rw [if_neg hover, if_neg hover]
    by_cases hback : cnt < b.rung n
    · rw [if_pos hback, if_pos hback, getF_wqPtr_clamps _ hn, getF_wqPtr_clamps _ hn]
      exact ⟨rfl, rfl⟩
    · rw [if_neg hback, if_neg hback, tail_setF_tail _ hn, head_setF_tail _ hn, Nat.mod_mod]
      exact ⟨rfl, rfl⟩

/-- A doorbell of an unbound queue is discarded. -/
theorem ring_of_unbound (tail qp : Nat) (hctx : b.getF (.hmWqCfg n) Fld.hmWqCfgCtx = 0xFFFF) :
    (b.ring n tail qp).getF (.hmWqPtr n) Fld.hmWqPtrTail = b.getF (.hmWqPtr n) Fld.hmWqPtrTail := by
  unfold Body.ring
  rw [if_pos hctx, Body.getF, (unnoted_hmWqPtr hn).error, Body.getF]

theorem getF_wqPtr_responder (f : Fld) (k l : Nat) : (b.responder k l).getF (.hmWqPtr n) f = b.getF (.hmWqPtr n) f := by
  rw [Body.getF, (unnoted_hmWqPtr hn).responder, Body.getF]

theorem getF_wqCfg_responder (f : Fld) (k l : Nat) : (b.responder k l).getF (.hmWqCfg n) f = b.getF (.hmWqCfg n) f := by
  rw [Body.getF, (unnoted_hmWqCfg hn).responder, Body.getF]

theorem rung_responder (k l : Nat) : (b.responder k l).rung n = b.rung n := by
  rw [Body.rung, getF_wqPtr_responder b hn, getF_wqPtr_responder b hn, Body.rung]

end

theorem sameBytes_ring (b : Body) (n tail qp : Nat) : SameBytes b (b.ring n tail qp) :=
  sameBytes_of (by simp) (by simp) (by simp)

/-! ### The consumer index -/

/-- A ring once the host has written a consumer index, which moves up to the producer's and no further. -/
def CqRing.afterCi (c : CqRing) (ci : Nat) : CqRing :=
  if (ci + 2 ^ 32 - c.ci) % 2 ^ 32 ≤ (c.pi + 2 ^ 32 - c.ci) % 2 ^ 32 then { c with ci := ci } else c

theorem takeCi_cases (b : Body) (n ci : Nat) :
    b.takeCi n ci = (b.updCq n fun c => { c with ci := ci }) ∧ (b.cq n).afterCi ci = { b.cq n with ci := ci } ∨
      b.takeCi n ci = b.clamps 1 0xFF (b.getF (.hmWqCfg n) Fld.hmWqCfgCtx) ∧ (b.cq n).afterCi ci = b.cq n := by
  unfold Body.takeCi CqRing.afterCi
  dsimp only
  split
  · exact .inl ⟨rfl, rfl⟩
  · exact .inr ⟨rfl, rfl⟩

theorem sameBytes_takeCi (b : Body) (n ci : Nat) : SameBytes b (b.takeCi n ci) := by
  rcases takeCi_cases b n ci with ⟨heq, -⟩ | ⟨heq, -⟩ <;> rw [heq]
  · exact sameBytes_of rfl rfl rfl
  · exact sameBytes_of (by simp) (by simp) (by simp)

theorem takeCi_out (b : Body) (n ci : Nat) : (b.takeCi n ci).out = b.out := by
  rcases takeCi_cases b n ci with ⟨heq, -⟩ | ⟨heq, -⟩ <;> rw [heq]
  · rfl
  · exact Body.clamps_out ..

theorem cq_takeCi_ne (b : Body) {n k : Nat} (hk : k ≠ n) (ci : Nat) : (b.takeCi n ci).cq k = b.cq k := by
  rcases takeCi_cases b n ci with ⟨heq, -⟩ | ⟨heq, -⟩ <;> rw [heq]
  · exact Body.cq_updCq_ne b hk _
  · exact Body.cq_congr (congrArg Ether.cqs (Body.clamps_eth ..)) k

theorem cq_takeCi_self (b : Body) (n ci : Nat) : (b.takeCi n ci).cq n = (b.cq n).afterCi ci := by
  rcases takeCi_cases b n ci with ⟨heq, hring⟩ | ⟨heq, hring⟩ <;> rw [heq, hring]
  · exact Body.cq_updCq_self ..
  · exact Body.cq_congr (congrArg Ether.cqs (Body.clamps_eth ..)) n

/-- What stands once an accepted write has left a body `c` of the one whose responder took it, and is acknowledged. -/
theorem acked_spec {b c : Body} {k l n ci : Nat} (hbytes : SameBytes (b.responder k l) c) (hout : c.out = (b.responder k l).out)
    (hself : c.cq n = ((b.responder k l).cq n).afterCi ci) (hothers : ∀ j, j ≠ n → c.cq j = (b.responder k l).cq j) :
    SameBytes b (c.answer k .roceAck []) ∧ (c.answer k .roceAck []).cq n = (b.cq n).afterCi ci ∧
      (∀ j, j ≠ n → (c.answer k .roceAck []).cq j = b.cq j) ∧
      ∃ m, (c.answer k .roceAck []).out = b.out ++ [m] ∧ m.kind = .roceAck := by
  have hcq := fun j => Body.cq_congr (responder_cqs b k l) j
  refine ⟨((sameBytes_responder b k l).trans hbytes).trans (sameBytes_answer c k .roceAck [] []), hself.trans (by rw [hcq]),
    fun j hj => (hothers j hj).trans (hcq j), ?_⟩
  obtain ⟨m, hack, hkind, -⟩ := answer_ack c k
  exact ⟨m, by rw [hack, hout, responder_out], hkind⟩

/-! ### PI_WRITE -/

theorem rdmaOut_of_ready {b : Body} {k : Nat} (h : b.qpReady k = true) (va rkey : Nat) (data : List Byte) :
    let t := b.rdmaOut k va rkey data
    SameBytes b t ∧ t.eth.cqs = b.eth.cqs ∧ ∃ m, t.out = b.out ++ [m] ∧ m.kind = .rdmaWrite ∧ m.nums.getD 0 0 = k ∧
      m.nums.getD 2 0 = va ∧ m.nums.getD 3 0 = rkey ∧ m.data = data := by
  refine ⟨sameBytes_of (by simp) (by simp) (by simp), ?_, ?_⟩
  · rw [Body.rdmaOut, if_pos h, Body.count_eth]
    rfl
  · rw [Body.rdmaOut, if_pos h, Body.count_out]
    exact ⟨_, rfl, rfl, rfl, rfl, rfl, rfl⟩

theorem exec_piWrite_of_nothing_new {s : State} {wq : Fin 64}
    (h : (s.body.cq wq.val).qp = none ∨ (s.body.cq wq.val).pi = (s.body.cq wq.val).piSent) : exec (.piWrite wq) s = .next s := by
  change execPiWrite wq s = _
  unfold execPiWrite State.onBody
  cases hqp : (s.body.cq wq.val).qp with
  | none => simp only [hqp]
  | some k => simp only [hqp, h.resolve_left (by simp [hqp]), ne_eq, not_true_eq_false, false_and, if_false]

theorem exec_piWrite_of_new {s : State} {wq : Fin 64} {k : Nat} (hqp : (s.body.cq wq.val).qp = some k)
    (hnew : (s.body.cq wq.val).pi ≠ (s.body.cq wq.val).piSent) (hready : s.body.qpReady k = true) :
    exec (.piWrite wq) s = .next { s with body := (s.body.rdmaOut k (s.body.cq wq.val).piVa (s.body.cq wq.val).rkey
      (leBytes 8 (s.body.cq wq.val).pi)).updCq wq fun c => { c with piSent := c.pi } } := by
  change execPiWrite wq s = _
  unfold execPiWrite State.onBody
  simp only [hqp, hready, hnew, ne_eq, not_false_eq_true, and_self, if_true]

/-! ### The rows as instructions -/

/-- What an accepted write to a row does to the state. -/
def windowEffect (w : WinWrite) : Nat → Body → Nat → Nat → Body
  | 0, b, n, off => b.setBytes (wqBase n + off) w.data
  | 1, b, n, _ => b.ring n (ofLe w.data % 8192) w.qp
  | _, b, n, _ => b.takeCi n (ofLe w.data % 2 ^ 32)

theorem windowEffect_entries (w : WinWrite) (b : Body) (n off : Nat) :
    windowEffect w 0 b n off = b.setBytes (wqBase n + off) w.data := by rw [windowEffect]

theorem windowEffect_doorbell (w : WinWrite) (b : Body) (n off : Nat) :
    windowEffect w 1 b n off = b.ring n (ofLe w.data % 8192) w.qp := by rw [windowEffect]

theorem windowEffect_ci (w : WinWrite) (b : Body) (n off : Nat) :
    windowEffect w 2 b n off = b.takeCi n (ofLe w.data % 2 ^ 32) := by simp only [windowEffect]

theorem exec_windowWrite {w : WinWrite} {i : Instr} {r : Nat}
    (h : (i, r) ∈ [(Instr.wqEntryWrite w, 0), (.doorbell w, 1), (.ciWrite w, 2)]) (s : State) :
    exec i s = .next { s with body := s.body.window w r (windowEffect w r) } := by
  simp only [List.mem_cons, Prod.mk.injEq, List.not_mem_nil, or_false] at h
  rcases h with ⟨rfl, rfl⟩ | ⟨rfl, rfl⟩ | ⟨rfl, rfl⟩
  · change execWqEntryWrite w s = _
    simp only [execWqEntryWrite, State.onBody, funext fun b => funext fun n => funext (windowEffect_entries w b n)]
  · change execDoorbell w s = _
    simp only [execDoorbell, State.onBody, funext fun b => funext fun n => funext (windowEffect_doorbell w b n)]
  · change execCiWrite w s = _
    simp only [execCiWrite, State.onBody, funext fun b => funext fun n => funext (windowEffect_ci w b n)]

/-- Settles O41, by what a window makes of a write and by the row it lands in. -/
theorem queueWindowsTakeWrites : Obligations.QueueWindowsTakeWrites := by
  intro s w n off r i hi
  have hexec := exec_windowWrite hi s
  refine ⟨fun hdown => ?_, fun r' hwin hrow hne => ?_, fun hup hready hwin hrow => ?_, fun wq h => exec_piWrite_of_nothing_new h,
    fun wq k hqp hnew hready => ?_⟩
  · rw [hexec, window_of_down hdown]
  · cases hup : s.body.netUp with
    | false => rw [hexec, window_of_down (.inl hup)]
    | true =>
      cases hready : s.body.qpReady w.qp.val with
      | false => rw [hexec, window_of_down (.inr hready)]
      | true => rw [hexec, window_of_other_row hup hready hwin hrow hne]
  · have hn := lt_of_windowOf hwin
    rw [window_of_row hup hready hwin hrow] at hexec
    refine ⟨fun hrefused => ?_, fun hok => ?_⟩
    · rw [if_neg (by simp [hrefused])] at hexec
      obtain ⟨hbytes, hhm, heth, htail, hnak⟩ := windowRefused_spec s.body w n
      exact gives_of_exec hexec ⟨hbytes, congrArg Harbour.waits hhm, htail, heth, hnak⟩
    · rw [if_pos hok] at hexec
      have hresp := sameBytes_responder s.body w.qp w.data.length
      refine ⟨?_, ?_, ?_, ?_⟩
      · rintro rfl
        rw [windowEffect_entries] at hexec
        exact gives_of_exec hexec (entriesWritten_spec s.body w.qp (wqBase n + off) w.data)
      · rintro rfl hctx _ _ rfl rfl
        rw [windowEffect_doorbell] at hexec
        obtain ⟨htail, hhead⟩ := ring_of_bound (s.body.responder w.qp w.data.length) hn (ofLe w.data % 8192) w.qp
          (by rwa [getF_wqCfg_responder _ hn])
        rw [getF_wqPtr_responder _ hn, getF_wqPtr_responder _ hn, rung_responder _ hn, Nat.mod_mod] at htail
        rw [getF_wqPtr_responder _ hn] at hhead
        refine gives_of_exec hexec ⟨(hresp.trans (sameBytes_ring _ n _ _)).trans (sameBytes_of rfl rfl rfl), htail, hhead, ?_⟩
        obtain ⟨m, hout, hkind, -⟩ := answer_ack ((s.body.responder w.qp w.data.length).ring n (ofLe w.data % 8192) w.qp) w.qp
        exact ⟨m, by rw [Body.ring_out, responder_out] at hout; exact hout, hkind⟩
      · rintro rfl hctx
        rw [windowEffect_doorbell] at hexec
        have htail := ring_of_unbound (s.body.responder w.qp w.data.length) hn (ofLe w.data % 8192) w.qp
          (by rwa [getF_wqCfg_responder _ hn])
        rw [getF_wqPtr_responder _ hn] at htail
        exact gives_of_exec hexec ⟨(hresp.trans (sameBytes_ring _ n _ _)).trans (sameBytes_of rfl rfl rfl), htail⟩
      · rintro rfl c ci rfl rfl
        rw [windowEffect_ci] at hexec
        exact gives_of_exec hexec (acked_spec (sameBytes_takeCi _ n _) (takeCi_out _ n _) (cq_takeCi_self _ n _)
          fun j hj => cq_takeCi_ne _ hj _)
  · obtain ⟨hbytes, hcqs, m, hout, hkind, -, hva, -, hdata⟩ := rdmaOut_of_ready hready (s.body.cq wq.val).piVa (s.body.cq wq.val).rkey
      (leBytes 8 (s.body.cq wq.val).pi)
    refine gives_of_exec (exec_piWrite_of_new hqp hnew hready) ⟨?_, hbytes.trans (sameBytes_of rfl rfl rfl), m, hout, hkind, hva, hdata⟩
    rw [Body.cq_updCq_self, Body.cq_congr hcqs]

end Sys2Proof.Machine
end

section
/-! PROOFS. The scalar registers of a context (R291, R292): what a write of some of them leaves in each, the waits it ends, and the
commands on them. -/

namespace Sys2Proof.Machine

/-! ### Values set one after another -/

theorem getD_map_range_of_lt {α : Type} (f : Nat → α) {n i : Nat} (h : i < n) (d : α) : ((List.range n).map f).getD i d = f i := by
  simp [List.getD_eq_getElem?_getD, h]

/-- A map after values set at `n` keys from `a` on. -/
def setFrom {α : Type} [DecidableEq α] (m : SMap α) (d : α) (a : Nat) (f : Nat → α) (n : Nat) : SMap α :=
  (List.range n).foldl (fun m i => SMap.set m d (a + i) (f i)) m

section
variable {α : Type} [DecidableEq α] (m : SMap α) (d : α) (a : Nat) (f : Nat → α)

theorem setFrom_succ (n : Nat) : setFrom m d a f (n + 1) = SMap.set (setFrom m d a f n) d (a + n) (f n) := by
  rw [setFrom, List.range_succ, List.foldl_append]
  rfl

theorem get_setFrom_outside {n x : Nat} (h : x < a ∨ a + n ≤ x) : SMap.get (setFrom m d a f n) d x = SMap.get m d x := by
  induction n with
  | zero => rfl
  | succ n ih => rw [setFrom_succ, SMap.get_set_ne _ _ _ _ (by omega), ih (by omega)]

theorem get_setFrom_inside {n i : Nat} (h : i < n) : SMap.get (setFrom m d a f n) d (a + i) = f i := by
  induction n with
  | zero => omega
  | succ n ih =>
    rw [setFrom_succ]
    rcases Nat.lt_succ_iff_lt_or_eq.1 h with hlt | rfl
    · rw [SMap.get_set_ne _ _ _ _ (by omega), ih hlt]
    · rw [SMap.get_set_self]

end

/-! ### The registers -/

/-- The body with other scalar registers. -/
def Body.withSregs (b : Body) (m : SMap Word) : Body := { b with hm.sregs := m }

theorem Body.putSregs_eq (b : Body) (slot first : Nat) (vs : List Word) :
    b.putSregs slot first vs = b.withSregs (setFrom b.hm.sregs 0 (slot * 256 + first) (fun i => vs.getD i 0) vs.length) :=
  List.foldl_hom (l := List.range vs.length) (init := b.hm.sregs) b.withSregs fun _ _ => rfl

theorem Body.sreg_congr {b c : Body} (h : c.hm.sregs = b.hm.sregs) (slot r : Nat) : c.sreg slot r = b.sreg slot r := by
  rw [Body.sreg, h, Body.sreg]

theorem sreg_putSregs_inside (b : Body) (slot first : Nat) {vs : List Word} {i : Nat} (h : i < vs.length) :
    (b.putSregs slot first vs).sreg slot (first + i) = vs.getD i 0 := by
  rw [Body.putSregs_eq, Body.sreg, ← Nat.add_assoc]
  exact get_setFrom_inside _ _ _ _ h

theorem sreg_putSregs_outside (b : Body) {slot first k r : Nat} {vs : List Word} (hfits : first + vs.length ≤ 256) (hr : r < 256)
    (h : k ≠ slot ∨ r < first ∨ first + vs.length ≤ r) : (b.putSregs slot first vs).sreg k r = b.sreg k r := by
  rw [Body.putSregs_eq, Body.sreg, Body.sreg]
  exact get_setFrom_outside _ _ _ _ (by omega)

/-- What the Harbourmaster holds beside the commands in flight and ended is neither a register nor a byte. -/
theorem StillSame.withHm {b c : Body} (h : StillSame b c) {x : Harbour} (hx : x.ended = c.hm.ended) : StillSame b { c with hm := x } := by
  obtain ⟨hended, hbytes, hregs⟩ := h
  exact ⟨hx.trans hended, hbytes.trans (sameBytes_of rfl rfl rfl), fun q hq hl => hregs q hq hl⟩

theorem StillSame.putSregs {b c : Body} (h : StillSame b c) (slot first : Nat) (vs : List Word) : StillSame b (c.putSregs slot first vs) := by
  rw [Body.putSregs_eq]
  exact h.withHm rfl

theorem SameMemory.done_putSregs {b c : Body} (h : SameMemory b c) (slot first : Nat) (vs : List Word) (fl : Flight) :
    EndsWith b ((c.putSregs slot first vs).done fl) fl 0 0 ∧ SameBytes b ((c.putSregs slot first vs).done fl) := by
  rw [Body.putSregs_eq]
  exact ⟨Body.endsWith_done fl 0 h.ended, h.bytes.trans ((sameBytes_of rfl rfl rfl).trans (sameBytes_retire (c.withSregs _) fl 0 0 false))⟩

/-! ### Waits -/

theorem Body.putSregs_waits (b : Body) (slot first : Nat) (vs : List Word) : (b.putSregs slot first vs).hm.waits = b.hm.waits := by
  rw [Body.putSregs_eq]
  rfl

theorem wakeWaits_of_none {b : Body} (h : b.hm.waits = []) : b.wakeWaits = b := by
  unfold Body.wakeWaits
  simp only [h, List.filter_nil, List.foldl_nil]
  rw [← h]

theorem setSregs_of_no_waits {b : Body} (h : b.hm.waits = []) (slot first : Nat) (vs : List Word) :
    b.setSregs slot first vs = b.putSregs slot first vs :=
  wakeWaits_of_none (by rw [Body.putSregs_waits, h])

theorem wakeWaits_of_met {b : Body} {w : Flight} {u : Word} (h : b.hm.waits = [(w, u)]) (hmet : b.waitMet w = true) :
    b.wakeWaits = ({ b with hm.waits := [] } : Body).done w := by
  unfold Body.wakeWaits
  simp only [h, List.filter_cons, hmet, if_true, List.filter_nil, Bool.not_true, Bool.false_eq_true, if_false, List.foldl_cons,
    List.foldl_nil]

/-! ### NOP and CTX_FENCE -/

section
variable {s : State} {c : Cmd} {fl : Flight}

theorem exec_nop (hd : Dispatched s.body c 0x00 fl) : exec (.nop c) s = .next { s with body := s.body.done fl } := by
  change execNop c s = _
  rw [execNop, State.onBody, Body.onCmd_dispatched hd]

theorem Dispatched.isDispatched {opc : Nat} (hd : Dispatched s.body c opc fl) : s.body.dispatched c opc = true := by
  have hfound := List.find?_some hd.1
  exact List.any_eq_true.2 ⟨fl, hd.mem, hfound⟩

theorem exec_ctxFence (hd : Dispatched s.body c 0x01 fl) : exec (.ctxFence c) s = .next { s with body := s.body.done fl } := by
  change execCtxFence c s = _
  rw [execCtxFence, State.onBody, Body.onSub_dispatched hd, hd.isDispatched, Bool.true_or, if_pos rfl]

theorem done_sregs (b : Body) (fl : Flight) (r : Nat) : (b.done fl r).hm.sregs = b.hm.sregs := by simp

/-! ### SREG_WRITE -/

/-- How many registers SREG_WRITE writes. -/
def writeCount (c : Cmd) : Nat := min (min 6 (c.f 1 10 8 + 1)) (256 - c.f 1 7 0)

/-- The values that SREG_WRITE writes. -/
def writeValues (c : Cmd) : List Word := (List.range (writeCount c)).map fun i => c.w (2 + i)

theorem length_writeValues (c : Cmd) : (writeValues c).length = writeCount c := by rw [writeValues, List.length_map, List.length_range]

theorem getD_writeValues {c : Cmd} {i : Nat} (h : i < writeCount c) : (writeValues c).getD i 0 = c.w (2 + i) :=
  getD_map_range_of_lt _ h 0

theorem cmd_f_lt (c : Cmd) (i hi lo : Nat) : c.f i hi lo < 2 ^ (hi + 1 - lo) := Nat.mod_lt _ (Nat.two_pow_pos _)

theorem writeCount_fits (c : Cmd) : c.f 1 7 0 + writeCount c ≤ 256 := by
  have hfirst : c.f 1 7 0 < 256 := cmd_f_lt c 1 7 0
  unfold writeCount
  omega

theorem exec_sregWrite (hd : Dispatched s.body c 0x08 fl) : exec (.sregWrite c) s = .next { s with
    body := ((s.body.clampCmd fl (if writeCount c = c.f 1 10 8 + 1 then 0 else 1)).setSregs fl.slot (c.f 1 7 0) (writeValues c)).done fl } := by
  change execSregWrite c s = _
  rw [execSregWrite, State.onBody, Body.onCmd_dispatched hd]
  rfl

/-! ### SREG_OP -/

theorem exec_sregOp (hd : Dispatched s.body c 0x09 fl) : exec (.sregOp c) s = .next { s with
    body := (s.body.setSregs fl.slot (c.f 1 7 0)
      [sregOpVal (c.f 1 10 8) (s.body.sreg fl.slot (c.f 1 7 0)) (c.w 2) (c.w 3)]).done fl (s.body.sreg fl.slot (c.f 1 7 0)).toNat } := by
  change execSregOp c s = _
  rw [execSregOp, State.onBody, Body.onCmd_dispatched hd]

theorem sregOpVal_of_mem {op : Nat} {old x y v : Word} (h : (op, v) ∈ [(0, old + x), (1, old &&& x), (2, old ||| x), (3, old ^^^ x),
    (4, if old.toNat < x.toNat then x else old), (5, if x.toNat < old.toNat then x else old), (6, x), (7, if old = y then x else old)]) :
    sregOpVal op old x y = v := by
  simp only [List.mem_cons, Prod.mk.injEq, List.not_mem_nil, or_false] at h
  rcases h with ⟨rfl, rfl⟩ | ⟨rfl, rfl⟩ | ⟨rfl, rfl⟩ | ⟨rfl, rfl⟩ | ⟨rfl, rfl⟩ | ⟨rfl, rfl⟩ | ⟨rfl, rfl⟩ | ⟨rfl, rfl⟩ <;> rfl

/-! ### SREG_WAIT and its timeout -/

/-- SREG_WAIT with its clamps counted. -/
def Body.waitClamped (b : Body) (c : Cmd) (fl : Flight) : Body := b.clampCmd fl (if c.f 1 10 8 > 5 then 1 else 0)

theorem waitMet_clampCmd (b : Body) (fl : Flight) (n : Nat) (w : Flight) : (b.clampCmd fl n).waitMet w = b.waitMet w := by
  rw [Body.waitMet, Body.sreg_congr (congrArg Harbour.sregs (Body.clampCmd_hm b fl n)), Body.waitMet]

theorem exec_sregWait_of_met (hd : Dispatched s.body c 0x0A fl) (hmet : s.body.waitMet fl = true) :
    exec (.sregWait c) s = .next { s with body := (s.body.waitClamped c fl).done fl } := by
  change execSregWait c s = _
  simp only [execSregWait, State.onBody, Body.onCmd_dispatched hd, waitMet_clampCmd, hmet, if_true, Body.waitClamped]

/-- A SREG_WAIT has begun to wait. -/
def Body.sregWaiting (b : Body) (c : Cmd) (fl : Flight) : Body :=
  { b.start fl with hm.waits := (b.start fl).hm.waits ++ [({ fl with started := true }, BitVec.ofNat 64 (1000 * c.f 3 31 0))] }

theorem exec_sregWait_of_not_met (hd : Dispatched s.body c 0x0A fl) (hmet : s.body.waitMet fl = false) :
    exec (.sregWait c) s = .next { s with body := (s.body.waitClamped c fl).sregWaiting c fl } := by
  change execSregWait c s = _
  simp only [execSregWait, State.onBody, Body.onCmd_dispatched hd, waitMet_clampCmd, hmet, Bool.false_eq_true, if_false]
  rfl

/-- A flight that begins stays in flight, started. -/
theorem staysInFlight_start {b c : Body} {fl : Flight} (hended : c.hm.ended = b.hm.ended) (hmem : fl ∈ c.hm.flights) :
    StaysInFlight b (c.start fl) fl :=
  ⟨hended, { fl with started := true }, List.mem_map.2 ⟨fl, hmem, if_pos rfl⟩, rfl, rfl⟩

/-- The waits of one flight are over. -/
def Body.waitDropped (b : Body) (w : Flight) : Body := { b with hm.waits := b.hm.waits.filter fun q => decide (q.1.uid ≠ w.uid) }

theorem StillSame.waitDropped {b c : Body} (h : StillSame b c) (w : Flight) : StillSame b (c.waitDropped w) := h.withHm rfl

theorem exec_sregWaitTimeout_of_none {wq : Fin 64} (h : ∀ p ∈ s.body.hm.waits, p.1.cmd.wq ≠ wq ∨ p.2 = 0) :
    exec (.sregWaitTimeout wq) s = .next s := by
  change execSregWaitTimeout wq s = _
  have hnone : s.body.hm.waits.find? (fun p => decide (p.1.cmd.wq = wq ∧ p.2 ≠ 0)) = none := by
    rw [List.find?_eq_none]
    intro p hp hfound
    have hp' := h p hp
    simp only [decide_eq_true_eq] at hfound
    tauto
  simp only [execSregWaitTimeout, State.onBody, hnone]

theorem exec_sregWaitTimeout_of_head {wq : Fin 64} {w : Flight} {u : Word} {l : List (Flight × Word)} (h : s.body.hm.waits = (w, u) :: l)
    (hwq : w.cmd.wq = wq) (hu : u ≠ 0) : exec (.sregWaitTimeout wq) s = .next { s with body := (s.body.waitDropped w).fail w 0x42 } := by
  change execSregWaitTimeout wq s = _
  have hfound : s.body.hm.waits.find? (fun p => decide (p.1.cmd.wq = wq ∧ p.2 ≠ 0)) = some (w, u) := by
    rw [h, List.find?_cons_of_pos]
    exact decide_eq_true ⟨hwq, hu⟩
  simp only [execSregWaitTimeout, State.onBody, hfound]
  rfl

/-! ### SREG_XFER -/

/-- How many registers SREG_XFER moves. -/
def xferCount (c : Cmd) : Nat := min (max 1 (min 256 (c.f 1 16 8))) (256 - c.f 1 7 0)

theorem xferCount_fits (c : Cmd) : c.f 1 7 0 + xferCount c ≤ 256 := by
  have hfirst : c.f 1 7 0 < 256 := cmd_f_lt c 1 7 0
  unfold xferCount
  omega

/-- SREG_XFER with its clamps counted. -/
def Body.xferClamped (b : Body) (c : Cmd) (fl : Flight) : Body := b.clampCmd fl (if xferCount c = c.f 1 16 8 then 0 else 1)

theorem SameChecks.accessHere {b t : Body} (h : SameChecks b t) (slot x off n : Nat) (write : Bool) :
    t.accessHere slot x off n write = b.accessHere slot x off n write := by
  simp only [Body.accessHere, Body.access, h.resolve, h.accessOk]

theorem accessHere_xferClamped (b : Body) (c : Cmd) (fl : Flight) (slot x off n : Nat) (write : Bool) :
    (b.xferClamped c fl).accessHere slot x off n write = b.accessHere slot x off n write :=
  (sameChecks_clampCmd b fl _).accessHere slot x off n write

theorem exec_sregXfer_of_refused {st : Nat} (hd : Dispatched s.body c 0x0B fl)
    (h : s.body.accessHere fl.slot (c.h 1) (32 * c.f 1 37 18) (8 * xferCount c) (!c.b 1 17) = .error st) :
    exec (.sregXfer c) s = .next { s with body := (s.body.xferClamped c fl).fail fl st (c.h 1) (32 * c.f 1 37 18) } := by
  change execSregXfer c s = _
  rw [← accessHere_xferClamped s.body c fl] at h
  unfold Body.xferClamped xferCount at *
  simp only [execSregXfer, State.onBody, Body.onCmd_dispatched hd, h]

/-- The registers from one on, as the bytes that SREG_XFER stores. -/
def Body.sregBytes (b : Body) (slot first n : Nat) : List Byte := (List.range n).flatMap fun i => leBytes 8 (b.sreg slot (first + i)).toNat

/-- The words that SREG_XFER takes from bytes. -/
def wordsOf (bs : List Byte) (n : Nat) : List Word := (List.range n).map fun i => BitVec.ofNat 64 (ofLe ((bs.drop (8 * i)).take 8))

section
variable {e : Entry} (hd : Dispatched s.body c 0x0B fl)
  (h : s.body.accessHere fl.slot (c.h 1) (32 * c.f 1 37 18) (8 * xferCount c) (!c.b 1 17) = .ok e)
include hd h

theorem exec_sregXfer_out (hdir : c.b 1 17 = false) : exec (.sregXfer c) s = .next { s with
    body := (((s.body.xferClamped c fl).tierTraffic fl.slot (e.base + 32 * c.f 1 37 18) (8 * xferCount c) true 11).store
      (e.base + 32 * c.f 1 37 18) (s.body.sregBytes fl.slot (c.f 1 7 0) (xferCount c))).done fl } := by
  change execSregXfer c s = _
  rw [← accessHere_xferClamped s.body c fl, hdir] at h
  simp only [Bool.not_false] at h
  have hsame : ((s.body.xferClamped c fl).tierTraffic fl.slot (e.base + 32 * c.f 1 37 18) (8 * xferCount c) true 11).sregBytes fl.slot
      (c.f 1 7 0) (xferCount c) = s.body.sregBytes fl.slot (c.f 1 7 0) (xferCount c) := by
    unfold Body.sregBytes Body.xferClamped
    simp only [Body.sreg, Body.tierTraffic_hm, Body.clampCmd_hm]
  rw [← hsame]
  unfold Body.sregBytes Body.xferClamped xferCount at *
  simp only [execSregXfer, State.onBody, Body.onCmd_dispatched hd, h, hdir, Bool.not_false, Bool.false_eq_true, if_false]

theorem exec_sregXfer_in (hdir : c.b 1 17 = true) (hplain : PlainMemory s.body) :
    let b := (s.body.xferClamped c fl).tierTraffic fl.slot (e.base + 32 * c.f 1 37 18) (8 * xferCount c) false 11
    exec (.sregXfer c) s = .next { s with
      body := ((b.readPages (e.base + 32 * c.f 1 37 18) (8 * xferCount c)).setSregs fl.slot (c.f 1 7 0)
        (wordsOf (b.bytes (e.base + 32 * c.f 1 37 18) (8 * xferCount c)) (xferCount c))).done fl } := by
  intro b
  change execSregXfer c s = _
  have hload : b.load fl (e.base + 32 * c.f 1 37 18) (8 * xferCount c) = _ :=
    load_of_plain (((sameMemory_clampCmd s.body fl _).trans (sameMemory_tierTraffic _ _ _ _ _ _)).plain hplain) fl _ _
  rw [← accessHere_xferClamped s.body c fl, hdir] at h
  simp only [Bool.not_true] at h
  unfold b wordsOf Body.xferClamped xferCount at *
  simp only [execSregXfer, State.onBody, Body.onCmd_dispatched hd, h, hdir, Bool.not_true, if_true, hload]
  rfl

end

theorem length_sregBytes (b : Body) (slot first n : Nat) : (b.sregBytes slot first n).length = 8 * n :=
  length_flatMap_range (fun _ => length_leBytes 8 _) n

/-- Registers stored as bytes read back as numbers. -/
theorem le_of_sregBytes {b u t : Body} {a slot first n i : Nat} (h : RowStored b t a (u.sregBytes slot first n)) (hi : i < n) :
    t.le (a + 8 * i) 8 = (u.sreg slot (first + i)).toNat := by
  have hpart := h.le_part (o := 8 * i) (k := 8) (v := (u.sreg slot (first + i)).toNat) (by rw [length_sregBytes]; omega)
    fun j hj => getD_flatMap_range (fun _ => length_leBytes 8 _) hi hj 0
  have hlt := (u.sreg slot (first + i)).isLt
  rwa [show 256 ^ 8 = 2 ^ 64 from rfl, Nat.mod_eq_of_lt hlt] at hpart

theorem length_wordsOf (bs : List Byte) (n : Nat) : (wordsOf bs n).length = n := by rw [wordsOf, List.length_map, List.length_range]

theorem ofLe_lt (l : List Byte) : ofLe l < 256 ^ l.length := by
  induction l with
  | nil => exact Nat.one_pos
  | cons v l ih =>
    have hv : v.toNat < 256 := v.isLt
    rw [ofLe, List.length_cons, pow_succ']
    omega

theorem Body.le_lt (b : Body) (a n : Nat) : b.le a n < 256 ^ n := by
  have hlt := ofLe_lt (b.bytes a n)
  rwa [Body.length_bytes] at hlt

theorem toNat_wordsOf (b : Body) (a : Nat) {n i : Nat} (hi : i < n) :
    ((wordsOf (b.bytes a (8 * n)) n).getD i 0).toNat = b.le (a + 8 * i) 8 := by
  rw [wordsOf, getD_map_range_of_lt _ hi, take_drop_bytes b a (by omega), BitVec.toNat_ofNat]
  exact Nat.mod_eq_of_lt (b.le_lt _ 8)

theorem store_hm {b : Body} (h : PlainMemory b) (a : Nat) (row : List Byte) : (b.store a row).hm = b.hm := by
  rw [store_of_plain h, Body.program_hm, Body.setBytes_hm]

theorem readPages_hm (b : Body) (a n : Nat) : (b.readPages a n).hm = b.hm :=
  Body.readPages_keep Body.hm (fun _ _ => rfl) b a n

end

/-! ### The commands -/

section
variable {s : State} {c : Cmd} {fl : Flight}

theorem sregWrite_of_no_waits (hd : Dispatched s.body c 0x08 fl) (hwaits : s.body.hm.waits = []) : Gives (.sregWrite c) s fun t =>
    OnlyEnds s.body t fl 0 0 [] ∧ (∀ i, i < writeCount c → t.sreg fl.slot (c.f 1 7 0 + i) = c.w (2 + i)) ∧
      ∀ k r, r < 256 → (k ≠ fl.slot ∨ r < c.f 1 7 0 ∨ c.f 1 7 0 + writeCount c ≤ r) → t.sreg k r = s.body.sreg k r := by
  have hexec := exec_sregWrite hd
  rw [setSregs_of_no_waits (by rw [Body.clampCmd_hm, hwaits])] at hexec
  refine gives_of_exec hexec ⟨(((StillSame.refl s.body).clampCmd fl _).putSregs _ _ _).done fl 0, fun i hi => ?_, fun k r hr hout => ?_⟩
  · rw [Body.sreg_congr (done_sregs _ fl 0), sreg_putSregs_inside _ _ _ (by rwa [length_writeValues]), getD_writeValues hi]
  · rw [Body.sreg_congr (done_sregs _ fl 0), sreg_putSregs_outside _ (by rw [length_writeValues]; exact writeCount_fits c) hr
      (by rwa [length_writeValues])]
    exact Body.sreg_congr (congrArg Harbour.sregs (Body.clampCmd_hm ..)) k r

/-- A write that meets the one wait ends the wait before itself. -/
theorem sregWrite_of_met {w : Flight} {u : Word} (hd : Dispatched s.body c 0x08 fl) (hwaits : s.body.hm.waits = [(w, u)])
    (hslot : w.slot = fl.slot) (hreg : w.cmd.f 1 7 0 = c.f 1 7 0) (hmet : waitHolds (w.cmd.f 1 10 8) (c.w 2) (w.cmd.w 2) = true) :
    Gives (.sregWrite c) s fun t => t.hm.waits = [] ∧
      (t.hm.ended.map fun e => (e.fl.uid, e.status)) =
        (s.body.hm.ended.map fun e => (e.fl.uid, e.status)) ++ [(w.uid, 0), (fl.uid, 0)] := by
  have hexec := exec_sregWrite hd
  have hfirst : c.f 1 7 0 < 256 := cmd_f_lt c 1 7 0
  have hcount : 0 < writeCount c := by unfold writeCount; omega
  generalize hput : (s.body.clampCmd fl (if writeCount c = c.f 1 10 8 + 1 then 0 else 1)).putSregs fl.slot (c.f 1 7 0) (writeValues c) = b
  have hended : b.hm.ended = s.body.hm.ended := by
    rw [← hput, Body.putSregs_eq]
    change (s.body.clampCmd _ _).hm.ended = _
    rw [Body.clampCmd_hm]
  have hpending : b.hm.waits = [(w, u)] := by rw [← hput, Body.putSregs_waits, Body.clampCmd_hm, hwaits]
  have hvalue : b.sreg w.slot (w.cmd.f 1 7 0) = c.w 2 := by
    have hzero := sreg_putSregs_inside (s.body.clampCmd fl (if writeCount c = c.f 1 10 8 + 1 then 0 else 1)) fl.slot (c.f 1 7 0)
      (vs := writeValues c) (i := 0) (by rwa [length_writeValues])
    rw [hput, getD_writeValues hcount] at hzero
    rw [hslot, hreg]
    exact hzero
  rw [Body.setSregs, hput, wakeWaits_of_met hpending (by rw [Body.waitMet, hvalue, hmet])] at hexec
  refine gives_of_exec hexec ⟨by simp, ?_⟩
  simp [hended]

theorem sregOp_of_no_waits {v : Word} (hd : Dispatched s.body c 0x09 fl) (hwaits : s.body.hm.waits = [])
    (hv : sregOpVal (c.f 1 10 8) (s.body.sreg fl.slot (c.f 1 7 0)) (c.w 2) (c.w 3) = v) : Gives (.sregOp c) s fun t =>
      OnlyEnds s.body t fl 0 (s.body.sreg fl.slot (c.f 1 7 0)).toNat [] ∧ t.sreg fl.slot (c.f 1 7 0) = v ∧
        ∀ k r, r < 256 → (k ≠ fl.slot ∨ r ≠ c.f 1 7 0) → t.sreg k r = s.body.sreg k r := by
  have hexec := exec_sregOp hd
  have hfirst : c.f 1 7 0 < 256 := cmd_f_lt c 1 7 0
  rw [setSregs_of_no_waits hwaits, hv] at hexec
  refine gives_of_exec hexec ⟨((StillSame.refl s.body).putSregs _ _ _).done fl _, ?_, fun k r hr hout => ?_⟩
  · rw [Body.sreg_congr (done_sregs _ fl _)]
    exact sreg_putSregs_inside s.body fl.slot (c.f 1 7 0) (vs := [v]) (i := 0) Nat.one_pos
  · rw [Body.sreg_congr (done_sregs _ fl _), sreg_putSregs_outside _ (by rw [List.length_singleton]; omega) hr
      (by rw [List.length_singleton]; omega)]

theorem waitMet_of_dispatched {b : Body} {opc : Nat} (hd : Dispatched b c opc fl) :
    b.waitMet fl = waitHolds (c.f 1 10 8) (b.sreg fl.slot (c.f 1 7 0)) (c.w 2) := by
  rw [Body.waitMet, hd.cmd]

theorem sregWait_of_not_met (hd : Dispatched s.body c 0x0A fl) (hmet : s.body.waitMet fl = false) : Gives (.sregWait c) s fun t =>
    StaysInFlight s.body t fl ∧
      t.hm.waits = s.body.hm.waits ++ [({ fl with started := true }, BitVec.ofNat 64 (1000 * c.f 3 31 0))] ∧
      t.hm.sregs = s.body.hm.sregs ∧ SameBytes s.body t ∧ SameRegsBut s.body t [] := by
  have hclamped := Body.clampCmd_hm s.body fl (if c.f 1 10 8 > 5 then 1 else 0)
  obtain ⟨-, hbytes, hregs⟩ := ((StillSame.refl s.body).clampCmd fl (if c.f 1 10 8 > 5 then 1 else 0)).start fl
  obtain ⟨hended, hmem⟩ := staysInFlight_start (b := s.body) (c := s.body.waitClamped c fl) (fl := fl) (congrArg Harbour.ended hclamped)
    (by rw [Body.waitClamped, hclamped]; exact hd.mem)
  refine gives_of_exec (exec_sregWait_of_not_met hd hmet) ⟨⟨hended, hmem⟩, ?_, ?_,
    hbytes.trans (sameBytes_of rfl rfl rfl), fun q hq hl => hregs q hq hl⟩
  · simp only [Body.sregWaiting, Body.waitClamped, Body.start_hm_waits, hclamped]
  · simp only [Body.sregWaiting, Body.waitClamped, Body.start_hm_sregs, hclamped]

theorem sregXfer_out {e : Entry} (hd : Dispatched s.body c 0x0B fl) (hplain : PlainMemory s.body)
    (h : s.body.accessHere fl.slot (c.h 1) (32 * c.f 1 37 18) (8 * xferCount c) (!c.b 1 17) = .ok e) (hdir : c.b 1 17 = false) :
    Gives (.sregXfer c) s fun t => EndsWith s.body t fl 0 0 ∧ t.hm.sregs = s.body.hm.sregs ∧
      (∀ i, i < xferCount c → t.le (e.base + 32 * c.f 1 37 18 + 8 * i) 8 = (s.body.sreg fl.slot (c.f 1 7 0 + i)).toNat) ∧
      SameBytesBut s.body t (e.base + 32 * c.f 1 37 18) (8 * xferCount c) := by
  have hmemory := (sameMemory_clampCmd s.body fl (if xferCount c = c.f 1 16 8 then 0 else 1)).trans
    (sameMemory_tierTraffic _ fl.slot (e.base + 32 * c.f 1 37 18) (8 * xferCount c) true 11)
  have hstored := hmemory.store hplain (e.base + 32 * c.f 1 37 18) (s.body.sregBytes fl.slot (c.f 1 7 0) (xferCount c))
  have hhm := store_hm (hmemory.plain hplain) (e.base + 32 * c.f 1 37 18) (s.body.sregBytes fl.slot (c.f 1 7 0) (xferCount c))
  have hsame := sameBytes_retire (((s.body.xferClamped c fl).tierTraffic fl.slot (e.base + 32 * c.f 1 37 18) (8 * xferCount c) true 11).store
    (e.base + 32 * c.f 1 37 18) (s.body.sregBytes fl.slot (c.f 1 7 0) (xferCount c))) fl 0 0 false
  refine gives_of_exec (exec_sregXfer_out hd h hdir) ⟨Body.endsWith_done fl 0 hstored.ended, ?_, fun i hi => ?_, fun x hx => ?_⟩
  · rw [done_sregs]
    exact (congrArg Harbour.sregs hhm).trans (by rw [Body.tierTraffic_hm, Body.clampCmd_hm])
  · exact (congrArg ofLe (hsame.bytes_eq _ 8)).trans (le_of_sregBytes hstored hi)
  · exact (hsame x).trans (hstored.outside x (by rwa [length_sregBytes]))

theorem sregXfer_in {e : Entry} (hd : Dispatched s.body c 0x0B fl) (hplain : PlainMemory s.body)
    (h : s.body.accessHere fl.slot (c.h 1) (32 * c.f 1 37 18) (8 * xferCount c) (!c.b 1 17) = .ok e) (hdir : c.b 1 17 = true)
    (hwaits : s.body.hm.waits = []) :
    Gives (.sregXfer c) s fun t => EndsWith s.body t fl 0 0 ∧ SameBytes s.body t ∧
      (∀ i, i < xferCount c → (t.sreg fl.slot (c.f 1 7 0 + i)).toNat = s.body.le (e.base + 32 * c.f 1 37 18 + 8 * i) 8) ∧
      ∀ k r, r < 256 → (k ≠ fl.slot ∨ r < c.f 1 7 0 ∨ c.f 1 7 0 + xferCount c ≤ r) → t.sreg k r = s.body.sreg k r := by
  have hmemory := (sameMemory_clampCmd s.body fl (if xferCount c = c.f 1 16 8 then 0 else 1)).trans
    (sameMemory_tierTraffic _ fl.slot (e.base + 32 * c.f 1 37 18) (8 * xferCount c) false 11)
  have hexec := exec_sregXfer_in hd h hdir hplain
  have hhm : (((s.body.xferClamped c fl).tierTraffic fl.slot (e.base + 32 * c.f 1 37 18) (8 * xferCount c) false 11).readPages
      (e.base + 32 * c.f 1 37 18) (8 * xferCount c)).hm = s.body.hm := by
    rw [readPages_hm, Body.tierTraffic_hm, Body.xferClamped, Body.clampCmd_hm]
  have hread := hmemory.trans (sameMemory_readPages _ (e.base + 32 * c.f 1 37 18) (8 * xferCount c))
  have hvalues := hmemory.bytes.bytes_eq (e.base + 32 * c.f 1 37 18) (8 * xferCount c)
  dsimp only at hexec
  rw [setSregs_of_no_waits (by rw [hhm, hwaits]), Body.xferClamped, hvalues] at hexec
  have hends := hread.done_putSregs fl.slot (c.f 1 7 0) (wordsOf (s.body.bytes (e.base + 32 * c.f 1 37 18) (8 * xferCount c)) (xferCount c)) fl
  refine gives_of_exec hexec ⟨hends.1, hends.2, fun i hi => ?_, fun k r hr hout => ?_⟩
  · rw [Body.sreg_congr (done_sregs _ fl 0), sreg_putSregs_inside _ _ _ (by rwa [length_wordsOf]), toNat_wordsOf _ _ hi]
  · rw [Body.sreg_congr (done_sregs _ fl 0), sreg_putSregs_outside _ (by rw [length_wordsOf]; exact xferCount_fits c) hr
      (by rwa [length_wordsOf])]
    exact Body.sreg_congr (congrArg Harbour.sregs hhm) k r

end

/-- Settles O37, command by command. -/
theorem scalarRegisterCommands : Obligations.ScalarRegisterCommands := by
  rintro s c fl _ n _ _ _ rfl rfl rfl rfl
  refine ⟨fun hd => ?_, fun hd => ?_, fun hn hd hwaits => ?_, fun w u hd hwaits hslot hreg hmet => ?_, fun hd hwaits v hv => ?_,
    fun hd hmet => ?_, fun hd hmet => ?_, fun wq h => exec_sregWaitTimeout_of_none h, fun wq w u l hwaits hwq hu => ?_,
    fun e a hn hd hplain h ha => ?_, fun st hn hd h => ?_⟩
  · exact gives_of_exec (exec_nop hd) ⟨(StillSame.refl s.body).done fl 0, done_sregs _ fl 0⟩
  · exact gives_of_exec (exec_ctxFence hd) ⟨(StillSame.refl s.body).done fl 0, done_sregs _ fl 0⟩
  · obtain rfl : n = writeCount c := hn
    exact sregWrite_of_no_waits hd hwaits
  · exact sregWrite_of_met hd hwaits hslot hreg hmet
  · exact sregOp_of_no_waits hd hwaits (sregOpVal_of_mem hv)
  · refine gives_of_exec (exec_sregWait_of_met hd ((waitMet_of_dispatched hd).trans hmet))
      ⟨((StillSame.refl s.body).clampCmd fl _).done fl 0, ?_, ?_⟩
    · simp [Body.waitClamped]
    · simp [Body.waitClamped]
  · exact sregWait_of_not_met hd ((waitMet_of_dispatched hd).trans hmet)
  · refine gives_of_exec (exec_sregWaitTimeout_of_head hwaits hwq hu)
      ⟨((StillSame.refl s.body).waitDropped w).fail w 0x42 0 0, by simp [Body.waitDropped], fun p hp => ?_⟩
    simp only [Body.waitDropped, Body.fail_hm_waits, List.mem_filter, decide_eq_true_eq] at hp
    exact hp.2
  · obtain rfl : n = xferCount c := hn
    obtain rfl := ha
    exact ⟨fun hdir => sregXfer_out hd hplain h hdir, fun hdir hwaits => sregXfer_in hd hplain h hdir hwaits⟩
  · obtain rfl : n = xferCount c := hn
    exact gives_of_exec (exec_sregXfer_of_refused hd h) ⟨((StillSame.refl s.body).clampCmd fl _).fail fl st _ _,
      by simp [Body.xferClamped]⟩

end Sys2Proof.Machine
end

section
/-! PROOFS. Continuous batching (R298-R302): the batch table of a context, the sequences that a step admits, and the STEP that opens
its body. -/

namespace Sys2Proof.Machine

/-! ### Sorting -/

theorem perm_insertBy {α : Type} (le : α → α → Bool) (x : α) (l : List α) : (insertBy le x l).Perm (x :: l) := by
  induction l with
  | nil => exact .refl _
  | cons y r ih =>
    rw [insertBy]
    split
    · exact .refl _
    · exact (ih.cons y).trans (.swap x y r)

theorem perm_sortBy {α : Type} (le : α → α → Bool) (l : List α) : (sortBy le l).Perm l := by
  induction l with
  | nil => exact .refl _
  | cons x l ih => exact (perm_insertBy le x (sortBy le l)).trans (ih.cons x)

/-! ### The admission of a step -/

/-- What the slots taken so far must be: no more than ROWS, of the tokens counted, and those no more than TOKENS. -/
def WithinStep (rows tokens : Nat) (tok : Nat → Nat) (x : List Nat × Nat) : Prop :=
  x.1.length ≤ rows ∧ (x.1.map tok).sum = x.2 ∧ x.2 ≤ tokens

theorem withinStep_takeSlots {rows tokens : Nat} {tok : Nat → Nat} {l : List (Nat × BatchSlot)} {x : List Nat × Nat}
    (htok : ∀ p ∈ l, tok p.1 = p.2.tokens) (h : WithinStep rows tokens tok x) : WithinStep rows tokens tok (takeSlots rows tokens l x) := by
  induction l generalizing x with
  | nil => exact h
  | cons p l ih =>
    obtain ⟨i, y⟩ := p
    obtain ⟨ts, m⟩ := x
    have hrest : ∀ p ∈ l, tok p.1 = p.2.tokens := fun p hp => htok p (List.mem_cons_of_mem _ hp)
    rw [takeSlots]
    split
    next hroom =>
      obtain ⟨-, hsum, -⟩ := h
      have hi : tok i = y.tokens := htok (i, y) List.mem_cons_self
      refine ih hrest ⟨?_, ?_, hroom.2⟩
      · rw [List.length_append, List.length_singleton]
        exact hroom.1
      · change (ts.map tok).sum = m at hsum
        simp only [List.map_append, List.sum_append, List.map_singleton, List.sum_singleton, hsum, hi]
    · exact ih hrest h

theorem sorted_takeSlots_within {rows tokens : Nat} {tok : Nat → Nat} {l : List (Nat × BatchSlot)} {le : Nat → Nat → Bool}
    (htok : ∀ p ∈ l, tok p.1 = p.2.tokens) : (sortBy le (takeSlots rows tokens l ([], 0)).1).length ≤ rows ∧
      ((sortBy le (takeSlots rows tokens l ([], 0)).1).map tok).sum ≤ tokens := by
  obtain ⟨hrows, hsum, htokens⟩ := withinStep_takeSlots (x := ([], 0)) htok
    (⟨Nat.zero_le rows, rfl, Nat.zero_le tokens⟩ : WithinStep rows tokens tok ([], 0))
  have hperm := perm_sortBy le (takeSlots rows tokens l ([], 0)).1
  exact ⟨hperm.length_eq ▸ hrows, (hperm.map tok).sum_eq ▸ hsum ▸ htokens⟩

/-- The record of a slot after an admission that took `taken`. -/
def rowAdmitted (taken : List Nat) (p : Nat × BatchSlot) : BatchSlot :=
  match taken.findIdx? fun i => decide (i = p.1) with
  | some r => { p.2 with state := 2, row := r, steps := (if p.2.state = 1 then 0 else p.2.steps) + 1 }
  | none => { p.2 with row := 0xFFFF }

theorem rowAdmitted_tokens (taken : List Nat) (p : Nat × BatchSlot) : (rowAdmitted taken p).tokens = p.2.tokens := by
  unfold rowAdmitted
  split <;> rfl

/-- The slots of a batch table that a step may look at: those LEAVING are empty. -/
def batchRows (t : List BatchSlot) : List (Nat × BatchSlot) :=
  (List.range (t.map fun x => if x.state = 3 then ({} : BatchSlot) else x).length).zip
    (t.map fun x => if x.state = 3 then ({} : BatchSlot) else x)

theorem getElem?_of_mem_batchRows {t : List BatchSlot} {p : Nat × BatchSlot} (h : p ∈ batchRows t) : (batchRows t)[p.1]? = some p := by
  obtain ⟨k, hk⟩ := List.mem_iff_getElem?.1 h
  have hindex : k = p.1 := by
    have hfst := (List.getElem?_zip_eq_some.1 hk).1
    rw [List.getElem?_eq_some_iff] at hfst
    obtain ⟨hlt, heq⟩ := hfst
    rwa [List.getElem_range] at heq
  rwa [hindex] at hk

theorem getD_map_rowAdmitted {t : List BatchSlot} {taken : List Nat} {p : Nat × BatchSlot} (h : p ∈ batchRows t) :
    ((batchRows t).map (rowAdmitted taken)).getD p.1 {} = rowAdmitted taken p := by
  rw [List.getD_eq_getElem?_getD, List.getElem?_map, getElem?_of_mem_batchRows h]
  rfl

/-- The candidates of a step in the order it takes them (R301): the ACTIVE slots, then those JOINING by priority. -/
def stepCandidates (t : List BatchSlot) : List (Nat × BatchSlot) :=
  (batchRows t).filter (fun p => decide (p.2.state = 2)) ++
    sortBy (fun x y => decide (x.2.prio > y.2.prio) || (decide (x.2.prio = y.2.prio) && decide (x.1 ≤ y.1)))
      ((batchRows t).filter fun p => decide (p.2.state = 1))

theorem mem_batchRows_of_candidate {t : List BatchSlot} {p : Nat × BatchSlot} (h : p ∈ stepCandidates t) : p ∈ batchRows t := by
  rcases List.mem_append.1 h with hactive | hjoining
  · exact (List.mem_filter.1 hactive).1
  · exact (List.mem_filter.1 ((perm_sortBy _ _).mem_iff.1 hjoining)).1

theorem admission_eq {rows tokens deferred : Nat} {t new : List BatchSlot} {taken : List Nat}
    (h : admission rows tokens t = (new, taken, deferred)) :
    taken = sortBy (fun x y => decide (x ≤ y)) (takeSlots rows tokens (stepCandidates t) ([], 0)).1 ∧
      new = (batchRows t).map (rowAdmitted taken) := by
  simp only [admission, Prod.mk.injEq] at h
  obtain ⟨hnew, htaken, -⟩ := h
  exact ⟨htaken.symm, (htaken ▸ hnew).symm⟩

/-- A step admits no more than its ROWS and TOKENS (R301). -/
theorem admission_within {rows tokens deferred : Nat} {t new : List BatchSlot} {taken : List Nat}
    (h : admission rows tokens t = (new, taken, deferred)) :
    taken.length ≤ rows ∧ (taken.map fun i => (new.getD i {}).tokens).sum ≤ tokens := by
  obtain ⟨htaken, hnew⟩ := admission_eq h
  have htok : ∀ p ∈ stepCandidates t, (new.getD p.1 {}).tokens = p.2.tokens := fun p hp => by
    rw [hnew, getD_map_rowAdmitted (mem_batchRows_of_candidate hp), rowAdmitted_tokens]
  have hwithin := sorted_takeSlots_within (rows := rows) (tokens := tokens) (le := fun x y => decide (x ≤ y))
    (tok := fun i => (new.getD i {}).tokens) htok
  rwa [← htaken] at hwithin

theorem length_stepList (old new : List BatchSlot) (taken : List Nat) (off : Nat) :
    (stepList old new taken off).length = 16 * taken.length := by
  induction taken generalizing off with
  | nil => rfl
  | cons i r ih =>
    simp only [stepList, List.length_append, length_leBytes, ih, List.length_cons]
    omega

/-! ### The batch table -/

/-- The body with another batch table. -/
def Body.withBatch (b : Body) (m : SMap BatchSlot) : Body := { b with hm.batch := m }

/-- Writes a whole batch table. -/
def Body.putBatch (b : Body) (slot : Nat) (new : List BatchSlot) : Body :=
  (List.range 256).foldl (fun b i => b.setBatch slot i (new.getD i {})) b

theorem Body.putBatch_eq (b : Body) (slot : Nat) (new : List BatchSlot) :
    b.putBatch slot new = b.withBatch (setFrom b.hm.batch {} (slot * 256) (fun i => new.getD i {}) 256) :=
  List.foldl_hom (l := List.range 256) (init := b.hm.batch) b.withBatch fun _ _ => rfl

theorem Body.batchSlot_congr {b c : Body} (h : c.hm.batch = b.hm.batch) (slot i : Nat) : c.batchSlot slot i = b.batchSlot slot i := by
  rw [Body.batchSlot, h, Body.batchSlot]

theorem batchSlot_putBatch (b : Body) (slot : Nat) (new : List BatchSlot) {i : Nat} (h : i < 256) :
    (b.putBatch slot new).batchSlot slot i = new.getD i {} := by
  have hget := get_setFrom_inside b.hm.batch {} (slot * 256) (fun i => new.getD i {}) h
  rw [Body.putBatch_eq]
  generalize setFrom b.hm.batch {} (slot * 256) (fun i => new.getD i {}) 256 = m at hget ⊢
  exact hget

theorem batchSlot_setBatch_self (b : Body) (slot i : Nat) (x : BatchSlot) : (b.setBatch slot i x).batchSlot slot i = x :=
  SMap.get_set_self _ _ _ _

theorem batchSlot_setBatch_other (b : Body) {slot i k j : Nat} (x : BatchSlot) (hi : i < 256) (hj : j < 256) (h : k ≠ slot ∨ j ≠ i) :
    (b.setBatch slot i x).batchSlot k j = b.batchSlot k j :=
  SMap.get_set_ne _ _ _ _ (by omega)

theorem StillSame.setBatch {b c : Body} (h : StillSame b c) (slot i : Nat) (x : BatchSlot) : StillSame b (c.setBatch slot i x) :=
  h.withHm rfl

/-! ### BATCH_SET -/

section
variable {s : State} {c : Cmd} {fl : Flight} {p : Nat}

/-- BATCH_SET with its clamp counted. -/
def Body.batchClamped (b : Body) (c : Cmd) (fl : Flight) : Body := b.clampCmd fl (if c.f 1 9 8 = 3 then 1 else 0)

theorem batchSlot_batchClamped (b : Body) (c : Cmd) (fl : Flight) (slot i : Nat) :
    (b.batchClamped c fl).batchSlot slot i = b.batchSlot slot i :=
  Body.batchSlot_congr (congrArg Harbour.batch (Body.clampCmd_hm ..)) slot i

theorem batchPart_congr {b t : Body} (h : t.framing = b.framing) (p : Nat) : t.batchPart p = b.batchPart p := by
  rw [Body.batchPart, h, Body.batchPart]

theorem batchSet_of_part {b : Body} {act : Nat} (f : Body → Flight → Nat → BatchSlot → Body) (hd : Dispatched b c 0x18 fl)
    (hact : min 2 (c.f 1 9 8) = act) (hp : b.partOfSlot fl.slot = some p) (hbatch : b.batchPart p = true) :
    b.batchSet c act f = f (b.batchClamped c fl) fl (c.f 1 7 0) (b.batchSlot fl.slot (c.f 1 7 0)) := by
  have hpart : (b.batchClamped c fl).partOfSlot fl.slot = some p := ((sameChecks_clampCmd b fl _).partOfSlot fl.slot).trans hp
  have hsame : (b.batchClamped c fl).batchPart p = true := (batchPart_congr (Body.clampCmd_framing ..) p).trans hbatch
  unfold Body.batchSet
  rw [Body.onSub_dispatched hd, decide_eq_true hact, if_pos rfl]
  change (match (b.batchClamped c fl).partOfSlot fl.slot with
    | none => (b.batchClamped c fl).fail fl 0x11
    | some p => if (b.batchClamped c fl).batchPart p then f (b.batchClamped c fl) fl (c.f 1 7 0) ((b.batchClamped c fl).batchSlot fl.slot (c.f 1 7 0))
      else (b.batchClamped c fl).fail fl 0x51) = _
  rw [hpart]
  simp only [hsame, if_true, batchSlot_batchClamped]

theorem batchSet_of_no_batchPart {b : Body} {act : Nat} (f : Body → Flight → Nat → BatchSlot → Body) (hd : Dispatched b c 0x18 fl)
    (hact : min 2 (c.f 1 9 8) = act) (hp : b.partOfSlot fl.slot = some p) (hbatch : b.batchPart p = false) :
    b.batchSet c act f = (b.batchClamped c fl).fail fl 0x51 := by
  have hpart : (b.batchClamped c fl).partOfSlot fl.slot = some p := ((sameChecks_clampCmd b fl _).partOfSlot fl.slot).trans hp
  have hsame : (b.batchClamped c fl).batchPart p = false := (batchPart_congr (Body.clampCmd_framing ..) p).trans hbatch
  unfold Body.batchSet
  rw [Body.onSub_dispatched hd, decide_eq_true hact, if_pos rfl]
  simp only [Body.batchClamped] at hpart hsame ⊢
  simp [hpart, hsame]

theorem gives_of_setBatch {i : Instr} {x : BatchSlot} (hexec : exec i s = .next { s with
      body := ((s.body.batchClamped c fl).setBatch fl.slot (c.f 1 7 0) x).done fl }) : Gives i s fun t =>
    OnlyEnds s.body t fl 0 0 [] ∧ t.batchSlot fl.slot (c.f 1 7 0) = x ∧
      ∀ k j, j < 256 → (k ≠ fl.slot ∨ j ≠ c.f 1 7 0) → t.batchSlot k j = s.body.batchSlot k j := by
  have hslot : c.f 1 7 0 < 256 := cmd_f_lt c 1 7 0
  refine gives_of_exec hexec ⟨(((StillSame.refl s.body).clampCmd fl _).setBatch _ _ _).done fl 0, ?_, fun k j hj hother => ?_⟩
  · rw [Body.batchSlot_congr (Body.done_hm_batch _ fl 0), batchSlot_setBatch_self]
  · rw [Body.batchSlot_congr (Body.done_hm_batch _ fl 0), batchSlot_setBatch_other _ _ hslot hj hother, batchSlot_batchClamped]

section
variable (hd : Dispatched s.body c 0x18 fl) (hp : s.body.partOfSlot fl.slot = some p) (hbatch : s.body.batchPart p = true)
include hd hp hbatch

theorem exec_batchSetJoin (hact : c.f 1 9 8 = 0) : exec (.batchSetJoin c) s = .next { s with
    body := if (s.body.batchSlot fl.slot (c.f 1 7 0)).state ≠ 0 then (s.body.batchClamped c fl).fail fl 0x11
      else ((s.body.batchClamped c fl).setBatch fl.slot (c.f 1 7 0)
        { seq := c.f 2 31 0, state := 1, prio := c.f 2 35 32, tokens := c.f 3 31 0 }).done fl } := by
  change execBatchSetJoin c s = _
  rw [execBatchSetJoin, State.onBody, batchSet_of_part _ hd (by omega) hp hbatch]

theorem exec_batchSetLeave (hact : c.f 1 9 8 = 1) : exec (.batchSetLeave c) s = .next { s with
    body := (if (s.body.batchSlot fl.slot (c.f 1 7 0)).state = 2 then
        (s.body.batchClamped c fl).setBatch fl.slot (c.f 1 7 0) { s.body.batchSlot fl.slot (c.f 1 7 0) with state := 3 }
      else if (s.body.batchSlot fl.slot (c.f 1 7 0)).state = 1 then (s.body.batchClamped c fl).setBatch fl.slot (c.f 1 7 0) {}
      else s.body.batchClamped c fl).done fl } := by
  change execBatchSetLeave c s = _
  rw [execBatchSetLeave, State.onBody, batchSet_of_part _ hd (by omega) hp hbatch]

theorem exec_batchSetUpdate (hact : 2 ≤ c.f 1 9 8) : exec (.batchSetUpdate c) s = .next { s with
    body := ((s.body.batchClamped c fl).setBatch fl.slot (c.f 1 7 0)
      { s.body.batchSlot fl.slot (c.f 1 7 0) with prio := c.f 2 35 32, tokens := c.f 3 31 0 }).done fl } := by
  change execBatchSetUpdate c s = _
  rw [execBatchSetUpdate, State.onBody, batchSet_of_part _ hd (by omega) hp hbatch]

theorem batchSetLeave_gives (hact : c.f 1 9 8 = 1) : Gives (.batchSetLeave c) s fun t => OnlyEnds s.body t fl 0 0 [] ∧
    t.batchSlot fl.slot (c.f 1 7 0) = (if (s.body.batchSlot fl.slot (c.f 1 7 0)).state = 2 then
        { s.body.batchSlot fl.slot (c.f 1 7 0) with state := 3 }
      else if (s.body.batchSlot fl.slot (c.f 1 7 0)).state = 1 then {} else s.body.batchSlot fl.slot (c.f 1 7 0)) ∧
    ∀ k j, j < 256 → (k ≠ fl.slot ∨ j ≠ c.f 1 7 0) → t.batchSlot k j = s.body.batchSlot k j := by
  have hexec := exec_batchSetLeave hd hp hbatch hact
  split at hexec
  next h2 =>
    rw [if_pos h2]
    exact gives_of_setBatch hexec
  next h2 =>
    rw [if_neg h2]
    split at hexec
    next h1 =>
      rw [if_pos h1]
      exact gives_of_setBatch hexec
    next h1 =>
      rw [if_neg h1]
      refine gives_of_exec hexec ⟨((StillSame.refl s.body).clampCmd fl _).done fl 0, ?_, fun k j _ _ => ?_⟩
      · rw [Body.batchSlot_congr (Body.done_hm_batch _ fl 0), batchSlot_batchClamped]
      · rw [Body.batchSlot_congr (Body.done_hm_batch _ fl 0), batchSlot_batchClamped]

end

end

/-! ### STEP -/

/-- What a STEP leaves once its batch table stands: the step list in memory. -/
def Body.stepListed (b : Body) (fl : Flight) (old new : List BatchSlot) (taken : List Nat) (list : Nat) : Body :=
  (b.tierTraffic fl.slot list (16 * taken.length) true 11).store list (stepList old new taken 0)

/-- The counts of a STEP, in the registers it asks for. -/
def Body.stepCounted (b : Body) (fl : Flight) (rows n : Nat) : Body :=
  if fl.cmd.b 3 16 then
    ((b.putSregs fl.slot (fl.cmd.f 3 7 0) [BitVec.ofNat 64 rows]).putSregs fl.slot (fl.cmd.f 3 15 8) [BitVec.ofNat 64 n]).wakeWaits
  else b

/-- A STEP's body is skipped: the commands after it in its queue. -/
def Body.bodySkipped (b : Body) (fl : Flight) (body : Nat) : Body :=
  { b with hm.skips := SMap.upd b.hm.skips 0 fl.cmd.wq (· + body) }

/-- The run that a STEP opens. -/
def stepRun (fl : Flight) (body rows n deferred : Nat) : StepRun :=
  { fl := { fl with started := true }, wq := fl.cmd.wq, left := body, rows := rows, tokens := n, deferred := deferred,
    patches := ((List.range 8).map (patchOf fl.cmd)).filter fun p => p.testBit 31 && decide (bits p 11 0 < body ∧ bits p 14 12 ≠ 0) }

/-- A STEP stays in flight with its body open. -/
def Body.bodyOpened (b : Body) (fl : Flight) (r : StepRun) : Body := (b.start fl).updInfo fl.slot fun i => { i with step := some r }

/-- The batch table of a slot. -/
def Body.batchTable (b : Body) (slot : Nat) : List BatchSlot := (List.range 256).map fun i => b.batchSlot slot i

section
variable {b : Body} {fl : Flight} {rows tokens body list deferred : Nat} {new : List BatchSlot} {taken : List Nat}

theorem openStep_of_none (h : admission rows tokens (b.batchTable fl.slot) = (new, [], deferred)) :
    b.openStep fl rows tokens body list =
      ((((b.putBatch fl.slot new).stepCounted fl 0 0).bodySkipped fl body).bump (.hmCtxStat fl.slot) Fld.hmCtxStatSteps 1).done fl
        (deferred * 2 ^ 48) := by
  unfold Body.batchTable at h
  simp only [Body.openStep, h, if_true]
  rfl

theorem openStep_of_taken (h : admission rows tokens (b.batchTable fl.slot) = (new, taken, deferred)) (htaken : taken ≠ []) :
    b.openStep fl rows tokens body list =
      (((b.putBatch fl.slot new).stepListed fl (b.batchTable fl.slot) new taken list).stepCounted fl taken.length
        (taken.map fun i => (new.getD i {}).tokens).sum).bodyOpened fl
        (stepRun fl body taken.length (taken.map fun i => (new.getD i {}).tokens).sum deferred) := by
  unfold Body.batchTable at h
  simp only [Body.openStep, h, htaken, if_false]
  rfl

end

theorem stepCounted_of_no_waits {b : Body} (h : b.hm.waits = []) (fl : Flight) (rows n : Nat) :
    ∃ m, b.stepCounted fl rows n = b.withSregs m ∧ (fl.cmd.b 3 16 = true → fl.cmd.f 3 7 0 ≠ fl.cmd.f 3 15 8 →
      (b.withSregs m).sreg fl.slot (fl.cmd.f 3 7 0) = BitVec.ofNat 64 rows ∧
        (b.withSregs m).sreg fl.slot (fl.cmd.f 3 15 8) = BitVec.ofNat 64 n) := by
  have hrows : fl.cmd.f 3 7 0 < 256 := cmd_f_lt fl.cmd 3 7 0
  have hn : fl.cmd.f 3 15 8 < 256 := cmd_f_lt fl.cmd 3 15 8
  unfold Body.stepCounted
  split
  next hasked =>
    rw [wakeWaits_of_none (by rw [Body.putSregs_waits, Body.putSregs_waits, h])]
    have hfirst := sreg_putSregs_inside b fl.slot (fl.cmd.f 3 7 0) (vs := [BitVec.ofNat 64 rows]) (i := 0) Nat.one_pos
    have hsecond := sreg_putSregs_inside (b.putSregs fl.slot (fl.cmd.f 3 7 0) [BitVec.ofNat 64 rows]) fl.slot (fl.cmd.f 3 15 8)
      (vs := [BitVec.ofNat 64 n]) (i := 0) Nat.one_pos
    have hapart := fun hne : fl.cmd.f 3 7 0 ≠ fl.cmd.f 3 15 8 =>
      sreg_putSregs_outside (b.putSregs fl.slot (fl.cmd.f 3 7 0) [BitVec.ofNat 64 rows]) (slot := fl.slot) (first := fl.cmd.f 3 15 8)
        (k := fl.slot) (r := fl.cmd.f 3 7 0) (vs := [BitVec.ofNat 64 n]) (by rw [List.length_singleton]; omega) hrows
        (by rw [List.length_singleton]; omega)
    rw [Body.putSregs_eq b] at hfirst hsecond hapart ⊢
    rw [Body.putSregs_eq (b.withSregs _)] at hsecond hapart ⊢
    exact ⟨_, rfl, fun _ hne => ⟨(hapart hne).trans hfirst, hsecond⟩⟩
  next hunasked => exact ⟨b.hm.sregs, rfl, fun hasked => absurd hasked hunasked⟩

section
variable {s : State} {c : Cmd} {fl : Flight} {p : Nat}

/-- STEP with its clamps counted. -/
def Body.stepClamped (b : Body) (c : Cmd) (fl : Flight) : Body :=
  b.clampCmd fl (diff (max 1 (min 4094 (c.f 1 11 0))) (c.f 1 11 0) + diff (max 1 (min 256 (c.f 2 8 0))) (c.f 2 8 0) +
    diff (max 1 (c.f 2 47 16)) (c.f 2 47 16) + (((List.range 8).map (patchOf c)).filter fun q => q.testBit 31 &&
      decide (bits q 11 0 ≥ max 1 (min 4094 (c.f 1 11 0)) ∨ bits q 14 12 = 0)).length)

section
variable (hd : Dispatched s.body c 0x19 fl) (hp : s.body.partOfSlot fl.slot = some p)
include hd hp

theorem exec_step_of_no_batchPart (hbatch : s.body.batchPart p = false) :
    exec (.step c) s = .next { s with body := s.body.fail fl 0x51 } := by
  change execStep c s = _
  simp only [execStep, State.onBody, Body.onSub_dispatched hd, hd.isDispatched, Bool.not_true, Bool.false_and, hp, hbatch]
  split <;> rfl

theorem exec_step_of_accessHere {e : Entry} (hbatch : s.body.batchPart p = true)
    (h : s.body.accessHere fl.slot (c.h 1) 0 (16 * max 1 (min 256 (c.f 2 8 0))) true = .ok e) :
    exec (.step c) s = .next { s with
      body := (s.body.stepClamped c fl).openStep fl (max 1 (min 256 (c.f 2 8 0))) (max 1 (c.f 2 47 16))
        (max 1 (min 4094 (c.f 1 11 0))) e.base } := by
  change execStep c s = _
  rw [← (sameChecks_clampCmd s.body fl _).accessHere] at h
  simp only [execStep, State.onBody, Body.onSub_dispatched hd, hd.isDispatched, Bool.not_true, Bool.false_and, hp, hbatch]
  unfold Body.stepClamped
  rw [h]
  generalize (s.body.slotOf c.ctx.toNat).bind s.body.partOfSlot = o
  cases o <;> simp only [Bool.not_false, if_true, not_true_eq_false, if_false]

end
end

section
variable {b : Body} {fl : Flight} {rows tokens body list deferred : Nat} {new : List BatchSlot} {taken : List Nat}

theorem info_bodyOpened (b : Body) (fl : Flight) (r : StepRun) :
    (b.bodyOpened fl r).info fl.slot = { b.info fl.slot with step := some r } :=
  SMap.get_upd_self (b.start fl).hm.ctxs {} fl.slot fun i => { i with step := some r }

/-- A STEP that takes no sequence ends DONE, and the commands after it are skipped. -/
theorem openStep_ends (hwaits : b.hm.waits = []) (h : admission rows tokens (b.batchTable fl.slot) = (new, [], deferred)) :
    (∀ j, j < 256 → (b.openStep fl rows tokens body list).batchSlot fl.slot j = new.getD j {}) ∧
      EndsWith b (b.openStep fl rows tokens body list) fl 0 (deferred * 2 ^ 48) ∧ SameBytes b (b.openStep fl rows tokens body list) ∧
      SMap.get (b.openStep fl rows tokens body list).hm.skips 0 fl.cmd.wq = SMap.get b.hm.skips 0 fl.cmd.wq + body := by
  obtain ⟨m, hcounted, -⟩ := stepCounted_of_no_waits (b := b.putBatch fl.slot new) (by rw [Body.putBatch_eq]; exact hwaits) fl 0 0
  rw [openStep_of_none h, hcounted]
  have hended : (b.putBatch fl.slot new).hm.ended = b.hm.ended := by rw [Body.putBatch_eq]; rfl
  have hskips : (b.putBatch fl.slot new).hm.skips = b.hm.skips := by rw [Body.putBatch_eq]; rfl
  have hbytes : SameBytes b (b.putBatch fl.slot new) := by rw [Body.putBatch_eq]; exact sameBytes_of rfl rfl rfl
  have htable := fun j hj => batchSlot_putBatch b fl.slot new (i := j) hj
  generalize b.putBatch fl.slot new = c at hended hskips hbytes htable ⊢
  have hsame : SameBytes c ((c.withSregs m).bodySkipped fl body) := sameBytes_of rfl rfl rfl
  refine ⟨fun j hj => ?_, Body.endsWith_done fl _ ?_, ?_, ?_⟩
  · rw [Body.batchSlot_congr (Body.done_hm_batch _ fl _), Body.batchSlot_congr (congrArg Harbour.batch (Body.bump_hm ..))]
    exact htable j hj
  · rw [Body.bump_hm]
    exact hended
  · exact hbytes.trans (hsame.trans ((sameBytes_bump _ _ _ _).trans (sameBytes_retire _ fl 0 _ false)))
  · rw [Body.done_hm_skips, Body.bump_hm, ← hskips]
    exact SMap.get_upd_self c.hm.skips 0 fl.cmd.wq (· + body)

/-- A STEP that takes sequences stays in flight with its body open; the step list's records are written, and no other byte. -/
theorem openStep_opens (hplain : PlainMemory b) (hmem : fl ∈ b.hm.flights) (hwaits : b.hm.waits = [])
    (h : admission rows tokens (b.batchTable fl.slot) = (new, taken, deferred)) (htaken : taken ≠ []) :
    (∀ j, j < 256 → (b.openStep fl rows tokens body list).batchSlot fl.slot j = new.getD j {}) ∧
      StaysInFlight b (b.openStep fl rows tokens body list) fl ∧
      (b.openStep fl rows tokens body list).bytes list (16 * taken.length) = stepList (b.batchTable fl.slot) new taken 0 ∧
      SameBytesBut b (b.openStep fl rows tokens body list) list (16 * taken.length) ∧
      (fl.cmd.b 3 16 = true → fl.cmd.f 3 7 0 ≠ fl.cmd.f 3 15 8 →
        (b.openStep fl rows tokens body list).sreg fl.slot (fl.cmd.f 3 7 0) = BitVec.ofNat 64 taken.length ∧
        (b.openStep fl rows tokens body list).sreg fl.slot (fl.cmd.f 3 15 8) =
          BitVec.ofNat 64 (taken.map fun i => (new.getD i {}).tokens).sum) ∧
      ((b.openStep fl rows tokens body list).info fl.slot).step =
        some (stepRun fl body taken.length (taken.map fun i => (new.getD i {}).tokens).sum deferred) := by
  rw [openStep_of_taken h htaken]
  generalize (taken.map fun i => (new.getD i {}).tokens).sum = n
  have hput : SameMemory b (b.putBatch fl.slot new) := by
    rw [Body.putBatch_eq]
    exact ⟨fun ⟨hbad, hmirrors⟩ => ⟨hbad, hmirrors⟩, rfl, sameBytes_of rfl rfl rfl⟩
  have hmemory := hput.trans (sameMemory_tierTraffic (b.putBatch fl.slot new) fl.slot list (16 * taken.length) true 11)
  have hstored := hmemory.store hplain list (stepList (b.batchTable fl.slot) new taken 0)
  have hhm := store_hm (hmemory.plain hplain) list (stepList (b.batchTable fl.slot) new taken 0)
  rw [Body.tierTraffic_hm] at hhm
  generalize hc : (b.putBatch fl.slot new).stepListed fl (b.batchTable fl.slot) new taken list = c
  have hc' := hc
  unfold Body.stepListed at hc'
  rw [hc'] at hstored hhm
  have hbatch : c.hm.batch = (b.putBatch fl.slot new).hm.batch := congrArg Harbour.batch hhm
  have hpending : c.hm.waits = [] := by rw [hhm, Body.putBatch_eq]; exact hwaits
  have hflights : c.hm.flights = b.hm.flights := by rw [hhm, Body.putBatch_eq]; rfl
  obtain ⟨m, hcounted, hsregs⟩ := stepCounted_of_no_waits hpending fl taken.length n
  rw [hcounted]
  have hlength : (stepList (b.batchTable fl.slot) new taken 0).length = 16 * taken.length := length_stepList ..
  have hsame : SameBytes c ((c.withSregs m).bodyOpened fl (stepRun fl body taken.length n deferred)) := sameBytes_of rfl rfl rfl
  refine ⟨fun j hj => ?_, ?_, ?_, fun x hx => ?_, hsregs, ?_⟩
  · exact (Body.batchSlot_congr hbatch fl.slot j).trans (batchSlot_putBatch b fl.slot new hj)
  · exact staysInFlight_start (c := c.withSregs m) hstored.ended (show fl ∈ c.hm.flights from hflights ▸ hmem)
  · rw [hsame.bytes_eq, ← hlength]
    exact hstored.bytes_whole
  · rw [hsame x]
    exact hstored.outside x (by rwa [hlength])
  · rw [info_bodyOpened]

end

theorem SameMemory.endsWith {b c t : Body} {fl : Flight} {status result : Nat} (h : SameMemory b c) (ht : EndsWith c t fl status result) :
    EndsWith b t fl status result := by
  rw [EndsWith, ← h.ended]
  exact ht

theorem SameMemory.staysInFlight {b c t : Body} {fl : Flight} (h : SameMemory b c) (ht : StaysInFlight c t fl) : StaysInFlight b t fl :=
  ⟨ht.1.trans h.ended, ht.2⟩

theorem batchTable_congr {b c : Body} (h : c.hm = b.hm) (slot : Nat) : c.batchTable slot = b.batchTable slot := by
  simp only [Body.batchTable, Body.batchSlot, h]

/-- STEP admits within its limits, writes its list and opens its body, or ends with its body to be skipped. -/
theorem step_admits {s : State} {c : Cmd} {fl : Flight} {p : Nat} {e : Entry} {body rows tokens : Nat} {new : List BatchSlot}
    {taken : List Nat} {deferred n : Nat} (hd : Dispatched s.body c 0x19 fl) (hp : s.body.partOfSlot fl.slot = some p)
    (hbatch : s.body.batchPart p = true) (hplain : PlainMemory s.body) (hwaits : s.body.hm.waits = [])
    (hbody : body = max 1 (min 4094 (c.f 1 11 0))) (hrows : rows = max 1 (min 256 (c.f 2 8 0))) (htokens : tokens = max 1 (c.f 2 47 16))
    (haccess : s.body.accessHere fl.slot (c.h 1) 0 (16 * rows) true = .ok e)
    (hadmit : admission rows tokens (s.body.batchTable fl.slot) = (new, taken, deferred))
    (hn : n = (taken.map fun j => (new.getD j {}).tokens).sum) : Gives (.step c) s fun t =>
      (∀ j, j < 256 → t.batchSlot fl.slot j = new.getD j {}) ∧ taken.length ≤ rows ∧ n ≤ tokens ∧
        (taken = [] → EndsWith s.body t fl 0 (deferred * 2 ^ 48) ∧ SameBytes s.body t ∧
          SMap.get t.hm.skips 0 c.wq.val = SMap.get s.body.hm.skips 0 c.wq.val + body) ∧
        (taken ≠ [] → StaysInFlight s.body t fl ∧ t.bytes e.base (16 * taken.length) =
            stepList (s.body.batchTable fl.slot) new taken 0 ∧ SameBytesBut s.body t e.base (16 * taken.length) ∧
          (c.b 3 16 = true → c.f 3 7 0 ≠ c.f 3 15 8 → t.sreg fl.slot (c.f 3 7 0) = BitVec.ofNat 64 taken.length ∧
            t.sreg fl.slot (c.f 3 15 8) = BitVec.ofNat 64 n) ∧
          ∃ r, (t.info fl.slot).step = some r ∧ r.fl.uid = fl.uid ∧ r.wq = c.wq.val ∧ r.left = body ∧ r.rows = taken.length ∧
            r.tokens = n ∧ r.deferred = deferred) := by
  have hmemory : SameMemory s.body (s.body.stepClamped c fl) := sameMemory_clampCmd ..
  have hhm : (s.body.stepClamped c fl).hm = s.body.hm := Body.clampCmd_hm ..
  have hexec := exec_step_of_accessHere hd hp hbatch (hrows ▸ haccess)
  rw [← hbody, ← hrows, ← htokens] at hexec
  rw [← batchTable_congr hhm] at hadmit ⊢
  have hwaits' : (s.body.stepClamped c fl).hm.waits = [] := by rw [hhm, hwaits]
  have hmem : fl ∈ (s.body.stepClamped c fl).hm.flights := by rw [hhm]; exact hd.mem
  obtain ⟨hfits, hsum⟩ := admission_within hadmit
  have hcmd := hd.cmd
  subst hcmd hn
  generalize s.body.stepClamped fl.cmd fl = b at hmemory hhm hexec hadmit hwaits' hmem ⊢
  by_cases htaken : taken = []
  · subst htaken
    obtain ⟨htable, hends, hbytes, hskips⟩ := openStep_ends (body := body) (list := e.base) hwaits' hadmit
    refine gives_of_exec hexec ⟨htable, hfits, hsum, fun _ => ⟨hmemory.endsWith hends, hmemory.bytes.trans hbytes, ?_⟩,
      fun hne => absurd rfl hne⟩
    rw [hskips, hhm]
  · obtain ⟨htable, hstays, hlist, hother, hsregs, hstep⟩ :=
      openStep_opens (body := body) (list := e.base) (hmemory.plain hplain) hmem hwaits' hadmit htaken
    exact gives_of_exec hexec ⟨htable, hfits, hsum, fun hnil => absurd hnil htaken, fun _ => ⟨hmemory.staysInFlight hstays, hlist,
      fun x hx => (hother x hx).trans (hmemory.bytes x), hsregs, _, hstep, rfl, rfl, rfl, rfl, rfl, rfl⟩⟩

/-- Settles O40, command by command. -/
theorem batchStepsAdmit : Obligations.BatchStepsAdmit := by
  rintro s c fl p i x hp rfl rfl
  refine ⟨fun hd hbatch => ⟨fun hact hempty => ?_, fun hact hfull => ?_, fun hact => batchSetLeave_gives hd hp hbatch hact,
      fun hact => gives_of_setBatch (exec_batchSetUpdate hd hp hbatch hact)⟩,
    fun hbatch => ⟨fun hd hact => ?_, fun hd => ?_⟩, ?_⟩
  · have hexec := exec_batchSetJoin hd hp hbatch hact
    rw [if_neg (not_not.2 hempty)] at hexec
    exact gives_of_setBatch hexec
  · have hexec := exec_batchSetJoin hd hp hbatch hact
    rw [if_pos hfull] at hexec
    exact gives_of_exec hexec ⟨((StillSame.refl s.body).clampCmd fl _).fail fl 0x11 0 0, by simp [Body.batchClamped]⟩
  · refine gives_of_exec (?_ : exec (.batchSetJoin c) s = .next { s with body := (s.body.batchClamped c fl).fail fl 0x51 })
      (((StillSame.refl s.body).clampCmd fl _).fail fl 0x51 0 0)
    change execBatchSetJoin c s = _
    rw [execBatchSetJoin, State.onBody, batchSet_of_no_batchPart _ hd (by omega) hp hbatch]
  · exact gives_of_exec (exec_step_of_no_batchPart hd hp hbatch) ((StillSame.refl s.body).fail fl 0x51 0 0)
  · intro e body rows tokens new taken deferred n hd hbatch hplain hwaits hbody hrows htokens haccess hadmit hn
    exact step_admits hd hp hbatch hplain hwaits hbody hrows htokens haccess hadmit.symm hn

end Sys2Proof.Machine
end

section
/-! PROOFS. Completion and dispatch (R286-R290): the completion of the oldest ended command, its record or its place in a SUMMARY
record, and the dispatch of the one head that stands. -/

namespace Sys2Proof.Machine

/-! ### Registers -/

theorem reg_epQpStat_count (b : Body) (slot i n k : Nat) : (b.count slot i n).reg (.epQpStat k) = b.reg (.epQpStat k) := by
  have hne : (Reg.hmCtxCnt slot i).ok = true → (Reg.epQpStat k).addr ≠ (Reg.hmCtxCnt slot i).addr := fun hok => by
    simp only [Reg.ok, Bool.and_eq_true, decide_eq_true_eq] at hok
    simp only [Reg.addr]
    omega
  unfold Body.count
  split
  · exact Body.reg_setF_of_ok_ne b _ _ hne
  · rfl

theorem getF_of_reg_eq {q : Reg} {b c : Body} (h : c.reg q = b.reg q) (f : Fld) : c.getF q f = b.getF q f := by
  rw [Body.getF, h, Body.getF]

theorem flag_of_reg_eq {q : Reg} {b c : Body} (h : c.reg q = b.reg q) (f : Fld) : c.flag q f = b.flag q f := by
  rw [Body.flag, getF_of_reg_eq h, Body.flag]

theorem Reg.Unnoted.rdmaOut {q : Reg} (h : q.Unnoted) (b : Body) (k va rkey : Nat) (data : List Byte) :
    (b.rdmaOut k va rkey data).reg q = b.reg q := by
  unfold Body.rdmaOut
  split
  · rw [h.count]
    rfl
  · rfl

theorem Reg.Unnoted.cqPut {q : Reg} (h : q.Unnoted) (b : Body) (n : Nat) (rec : List Byte) : (b.cqPut n rec).reg q = b.reg q := by
  unfold Body.cqPut
  dsimp only
  split
  · rfl
  · exact h.rdmaOut b _ _ _ _

theorem Reg.Unnoted.summary {q : Reg} (h : q.Unnoted) (b : Body) {n : Nat} (hne : q.addr ≠ (Reg.hmCplOvf n).addr) :
    (b.summary n).reg q = b.reg q := by
  unfold Body.summary
  split
  · rw [Body.reg_setReg_ne _ _ hne, h.cqPut]
  · rfl

theorem reg_coalesce {q : Reg} (b : Body) {n : Nat} (st opc tag : Nat) (hne : q.addr ≠ (Reg.hmCplOvf n).addr) :
    (b.coalesce n st opc tag).reg q = b.reg q := by
  unfold Body.coalesce
  dsimp only
  split
  · rw [Body.reg_setF_ne _ _ _ hne, Body.reg_setF_ne _ _ _ hne, Body.reg_setF_ne _ _ _ hne]
    exact (Body.reg_bump_ne _ _ _ hne).trans (Body.reg_setF_ne _ _ _ hne)
  · exact (Body.reg_bump_ne _ _ _ hne).trans (Body.reg_setF_ne _ _ _ hne)

theorem reg_syncIn {q : Reg} (b : Body) (wq : Fin 64) (slot : Nat) (hq : q.addr ≠ (Reg.hmWqPtr wq).addr)
    (hs : q.addr ≠ (Reg.hmCtxStat slot).addr) : (b.syncIn wq slot).reg q = b.reg q := by
  unfold Body.syncIn
  dsimp only
  split
  · rw [Body.reg_setF_ne _ _ _ hs, Body.reg_setF_ne _ _ _ hq]
  · rw [Body.reg_setF_ne _ _ _ hq]

theorem hmCtxStat_ok {k : Nat} (hk : k < 64) : (Reg.hmCtxStat k).ok = true := decide_eq_true hk

theorem state_syncIn (b : Body) (wq : Fin 64) {slot : Nat} (hslot : slot < 64) :
    (b.syncIn wq slot).getF (.hmCtxStat slot) Fld.hmCtxStatState = b.getF (.hmCtxStat slot) Fld.hmCtxStatState := by
  unfold Body.syncIn
  dsimp only
  rw [if_pos hslot, Body.getF_setF_apart _ _ (hmCtxStat_ok hslot) (by simp [Reg.stored]) (by decide) (by decide) (by decide)
    (.inl (by decide)), Body.getF_setF_ne _ _ _ _ (by simp only [Reg.addr]; omega)]

theorem head_syncIn (b : Body) (wq : Fin 64) (slot : Nat) {n : Nat} (hn : n < 64) :
    (b.syncIn wq slot).getF (.hmWqPtr n) Fld.hmWqPtrHead = b.getF (.hmWqPtr n) Fld.hmWqPtrHead := by
  have hinflight : (b.setF (.hmWqPtr wq) Fld.hmWqPtrInflight (min 64 (b.inQueue wq))).getF (.hmWqPtr n) Fld.hmWqPtrHead =
      b.getF (.hmWqPtr n) Fld.hmWqPtrHead := by
    by_cases hwq : n = wq
    · subst hwq
      exact Body.getF_setF_apart b _ (hmWqPtr_ok hn) (by simp [Reg.stored]) (by decide) (by decide) (by decide) (.inl (by decide))
    · exact Body.getF_setF_ne _ _ _ _ (by simp only [Reg.addr]; omega)
  unfold Body.syncIn
  dsimp only
  split
  next hslot => rw [Body.getF_setF_ne _ _ _ _ (by simp only [Reg.addr]; omega), hinflight]
  next => exact hinflight

theorem sameBytes_syncIn (b : Body) (wq : Fin 64) (slot : Nat) : SameBytes b (b.syncIn wq slot) :=
  sameBytes_of (by simp) (by simp) (by simp)

/-! ### The record of a completion -/

theorem qpReady_congr {b c : Body} {k : Nat} (h : c.reg (.epQpStat k) = b.reg (.epQpStat k)) : c.qpReady k = b.qpReady k := by
  rw [Body.qpReady, getF_of_reg_eq h, Body.qpReady]

theorem cqRoom_congr {b c : Body} (heth : c.eth.cqs = b.eth.cqs) (h : ∀ k, c.reg (.epQpStat k) = b.reg (.epQpStat k)) (n : Nat) :
    c.cqRoom n = b.cqRoom n := by
  simp only [Body.cqRoom, Body.cq_congr heth, qpReady_congr (h _)]

theorem qpReady_of_cqRoom {b : Body} {n k : Nat} (hroom : b.cqRoom n = true) (hqp : (b.cq n).qp = some k) : b.qpReady k = true := by
  unfold Body.cqRoom at hroom
  rw [hqp] at hroom
  simp only [Bool.and_eq_true] at hroom
  exact hroom.1

theorem exists_qp_of_cqRoom {b : Body} {n : Nat} (hroom : b.cqRoom n = true) : ∃ k, (b.cq n).qp = some k := by
  cases hqp : (b.cq n).qp with
  | some k => exact ⟨k, rfl⟩
  | none =>
    unfold Body.cqRoom at hroom
    rw [hqp] at hroom
    cases hroom

/-- A record written to a ring with room is an RDMA WRITE to the ring's next place, and moves its PI. -/
theorem cqPut_spec {b : Body} {n k : Nat} (hqp : (b.cq n).qp = some k) (hready : b.qpReady k = true) (rec : List Byte) :
    SameBytes b (b.cqPut n rec) ∧ (b.cqPut n rec).cq n = { b.cq n with pi := ((b.cq n).pi + 1) % 2 ^ 32 } ∧
      ∃ m, (b.cqPut n rec).out = b.out ++ [m] ∧ m.kind = .rdmaWrite ∧ m.nums.getD 0 0 = k ∧
        m.nums.getD 2 0 = (b.cq n).ringVa + 32 * ((b.cq n).pi % 2 ^ (b.cq n).log2) ∧ m.nums.getD 3 0 = (b.cq n).rkey ∧ m.data = rec := by
  obtain ⟨hbytes, hcqs, hmsg⟩ := rdmaOut_of_ready hready ((b.cq n).ringVa + 32 * ((b.cq n).pi % 2 ^ (b.cq n).log2)) (b.cq n).rkey rec
  have heq : b.cqPut n rec = (b.rdmaOut k ((b.cq n).ringVa + 32 * ((b.cq n).pi % 2 ^ (b.cq n).log2)) (b.cq n).rkey rec).updCq n
      fun c => { c with pi := (c.pi + 1) % 2 ^ 32 } := by
    unfold Body.cqPut
    simp only [hqp]
  rw [heq]
  generalize b.rdmaOut k ((b.cq n).ringVa + 32 * ((b.cq n).pi % 2 ^ (b.cq n).log2)) (b.cq n).rkey rec = c at hbytes hcqs hmsg ⊢
  refine ⟨hbytes.trans (sameBytes_of rfl rfl rfl), ?_, hmsg⟩
  rw [Body.cq_updCq_self, Body.cq_congr hcqs]

theorem summary_of_none {b : Body} {n : Nat} (h : b.flag (.hmCplOvf n) Fld.hmCplOvfSummary = false ∨ b.cqRoom n = false) :
    b.summary n = b := by
  unfold Body.summary
  rw [if_neg]
  rintro ⟨hflag, hroom⟩
  simp [hflag, hroom] at h

theorem summary_of_due {b : Body} {n : Nat} (hflag : b.flag (.hmCplOvf n) Fld.hmCplOvfSummary = true) (hroom : b.cqRoom n = true) :
    ∃ tag st ctx opc result ts, b.summary n =
      (b.cqPut n (cplRecord tag st 2 ctx n opc result 0 0 ts)).setReg (.hmCplOvf n) (Reg.dflt (.hmCplOvf n)) := by
  unfold Body.summary
  rw [if_pos ⟨hflag, hroom⟩]
  exact ⟨_, _, _, _, _, _, rfl⟩

theorem flags_cplRecord (tag st flags ctx queue opc result first last : Nat) (ts : Word) :
    (cplRecord tag st flags ctx queue opc result first last ts).getD 3 0 = BitVec.ofNat 8 flags := by
  simp [cplRecord, leBytes]

theorem hmCplOvf_ok {n : Nat} (hn : n < 64) : (Reg.hmCplOvf n).ok = true := decide_eq_true hn

/-- A record without room is coalesced: SUMMARY, the count, the first error and the last tag and opcode take note of it. -/
theorem coalesce_spec (b : Body) {n : Nat} (hn : n < 64) (st opc tag : Nat) :
    (b.coalesce n st opc tag).flag (.hmCplOvf n) Fld.hmCplOvfSummary = true ∧
      Counted b (b.coalesce n st opc tag) (.hmCplOvf n) Fld.hmCplOvfCount 1 ∧
      (st ≠ 0 → b.getF (.hmCplOvf n) Fld.hmCplOvfFirstErr = 0 → st < 256 →
        (b.coalesce n st opc tag).getF (.hmCplOvf n) Fld.hmCplOvfFirstErr = st) ∧
      (b.coalesce n st opc tag).cq n = { b.cq n with lastTag := tag, lastOpc := opc } := by
  have hstored : (Reg.hmCplOvf n).stored := by simp [Reg.stored]
  have hapart := fun (c : Body) (f g : Fld) (v : Nat) hl hh hg ha =>
    Body.getF_setF_apart c (f := f) (g := g) v (hmCplOvf_ok hn) hstored hl hh hg ha
  have hsummary : (((b.setF (.hmCplOvf n) Fld.hmCplOvfSummary 1).bump (.hmCplOvf n) Fld.hmCplOvfCount 1).updCq n
      fun c => { c with lastTag := tag, lastOpc := opc }).getF (.hmCplOvf n) Fld.hmCplOvfSummary = 1 := by
    refine (hapart _ Fld.hmCplOvfCount Fld.hmCplOvfSummary _ (by decide) (by decide) (by decide) (.inl (by decide))).trans ?_
    exact Body.getF_setF_self b 1 (hmCplOvf_ok hn) hstored (by decide) (by decide)
  have hcount : Counted b (((b.setF (.hmCplOvf n) Fld.hmCplOvfSummary 1).bump (.hmCplOvf n) Fld.hmCplOvfCount 1).updCq n
      fun c => { c with lastTag := tag, lastOpc := opc }) (.hmCplOvf n) Fld.hmCplOvfCount 1 := by
    have hbump := counted_bump (b.setF (.hmCplOvf n) Fld.hmCplOvfSummary 1) (f := Fld.hmCplOvfCount) 1 (hmCplOvf_ok hn) hstored (by decide)
      (by decide)
    rw [Counted, hapart b Fld.hmCplOvfSummary Fld.hmCplOvfCount 1 (by decide) (by decide) (by decide) (.inr (by decide))] at hbump
    exact hbump
  have hcq := Body.cq_updCq_self ((b.setF (.hmCplOvf n) Fld.hmCplOvfSummary 1).bump (.hmCplOvf n) Fld.hmCplOvfCount 1) n
    fun c => { c with lastTag := tag, lastOpc := opc }
  rw [Body.cq_congr (b := b) (c := (b.setF (.hmCplOvf n) Fld.hmCplOvfSummary 1).bump (.hmCplOvf n) Fld.hmCplOvfCount 1)
    (by rw [Body.bump_eth, Body.setF_eth])] at hcq
  unfold Body.coalesce
  dsimp only
  generalize ((b.setF (.hmCplOvf n) Fld.hmCplOvfSummary 1).bump (.hmCplOvf n) Fld.hmCplOvfCount 1).updCq n
    (fun c => { c with lastTag := tag, lastOpc := opc }) = c at hsummary hcount hcq ⊢
  split
  · refine ⟨?_, ?_, fun _ _ hst => ?_, ?_⟩
    · rw [Body.flag, hapart _ _ _ _ (by decide) (by decide) (by decide) (.inl (by decide)),
        hapart _ _ _ _ (by decide) (by decide) (by decide) (.inl (by decide)),
        hapart _ _ _ _ (by decide) (by decide) (by decide) (.inl (by decide)), hsummary]
      rfl
    · rw [Counted, hapart _ _ _ _ (by decide) (by decide) (by decide) (.inl (by decide)),
        hapart _ _ _ _ (by decide) (by decide) (by decide) (.inl (by decide)),
        hapart _ _ _ _ (by decide) (by decide) (by decide) (.inl (by decide))]
      exact hcount
    · rw [hapart _ _ _ _ (by decide) (by decide) (by decide) (.inl (by decide)),
        hapart _ _ _ _ (by decide) (by decide) (by decide) (.inl (by decide)),
        Body.getF_setF_self _ _ (hmCplOvf_ok hn) hstored (by decide) (by decide)]
      exact Nat.mod_eq_of_lt hst
    · rw [Body.cq_congr (b := c) (by simp), hcq]
  next hfirst =>
    exact ⟨by rw [Body.flag, hsummary]; rfl, hcount, fun hst hzero => absurd ⟨hst, hzero⟩ hfirst, hcq⟩

/-! ### COMMAND_COMPLETE -/

/-- What a completion leaves of its record: written, coalesced, or none. -/
def Body.recorded (b : Body) (e : Ended) : Body :=
  if e.status = 0 ∧ ¬ e.fl.cmd.cpl then b
  else if (b.summary e.fl.cmd.wq.val).cqRoom e.fl.cmd.wq.val then
    (b.summary e.fl.cmd.wq.val).cqPut e.fl.cmd.wq.val (cplRecord e.fl.cmd.tag.toNat e.status
      ((if e.fl.resumed then 1 else 0) + (if e.errRec then 4 else 0)) e.fl.cmd.ctx.toNat e.fl.cmd.wq.val e.fl.opc e.result
      e.fl.epochFirst e.fl.epochLast (b.summary e.fl.cmd.wq.val).ts)
  else (b.summary e.fl.cmd.wq.val).coalesce e.fl.cmd.wq.val e.status e.fl.opc e.fl.cmd.tag.toNat

theorem complete_eq (b : Body) (e : Ended) :
    b.complete e = ((b.count e.fl.slot (if e.status = 0 then 0 else 1) 1).recorded e).syncIn e.fl.cmd.wq e.fl.slot := rfl

theorem reg_recorded {q : Reg} (h : q.Unnoted) (b : Body) (e : Ended) (hne : q.addr ≠ (Reg.hmCplOvf e.fl.cmd.wq.val).addr) :
    (b.recorded e).reg q = b.reg q := by
  unfold Body.recorded
  split
  · rfl
  · split
    · rw [h.cqPut, h.summary b hne]
    · rw [reg_coalesce _ _ _ _ hne, h.summary b hne]

theorem saving_complete (b : Body) (e : Ended) : (b.complete e).saving e.fl.slot = b.saving e.fl.slot := by
  by_cases hslot : e.fl.slot < 64
  · have hreg : ((b.count e.fl.slot (if e.status = 0 then 0 else 1) 1).recorded e).reg (.hmCtxStat e.fl.slot) =
        b.reg (.hmCtxStat e.fl.slot) := by
      rw [reg_recorded (unnoted_hmCtxStat hslot) _ _ (by simp only [Reg.addr]; omega), (unnoted_hmCtxStat hslot).count]
    rw [Body.saving, complete_eq, state_syncIn _ _ hslot, getF_of_reg_eq hreg, Body.saving]
  · simp only [Body.saving, hslot, decide_false, Bool.false_and]

theorem stepCheck_of_none {b : Body} {slot : Nat} (h : (b.info slot).step = none) : b.stepCheck slot = b := by
  simp only [Body.stepCheck, h]

theorem preemptCheck_of_not_saving {b : Body} {slot : Nat} (h : b.saving slot = false) : b.preemptCheck slot = b := by
  simp only [Body.preemptCheck, h, Bool.false_eq_true, not_false_eq_true, if_true]

/-- The body without its oldest ended command. -/
def Body.withEnded (b : Body) (l : List Ended) : Body := { b with hm.ended := l }

section
variable {s : State} {e : Ended} {r : List Ended} (hended : s.body.hm.ended = e :: r) (hsaving : s.body.saving e.fl.slot = false)
  (hstep : (s.body.info e.fl.slot).step = none)
include hended hsaving hstep

theorem exec_commandComplete : exec .commandComplete s = .next { s with body := (s.body.withEnded r).complete e } := by
  have hinfo : (((s.body.withEnded r).complete e).info e.fl.slot).step = none := by
    rw [Body.info, Body.complete_hm]
    exact hstep
  have hkept : ((s.body.withEnded r).complete e).saving e.fl.slot = false := (saving_complete _ e).trans hsaving
  change execCommandComplete s = _
  simp only [execCommandComplete, State.onBody, hended, Body.completeOne]
  change Host.Outcome.next { s with
    body := (((s.body.withEnded r).complete e).stepCheck e.fl.slot).preemptCheck e.fl.slot } = _
  rw [stepCheck_of_none hinfo, preemptCheck_of_not_saving hkept]

end

section
variable {s : State} {e : Ended} {r : List Ended} (hended : s.body.hm.ended = e :: r) (hsaving : s.body.saving e.fl.slot = false)
  (hstep : (s.body.info e.fl.slot).step = none)

/-- The oldest ended command has left, and its context counts one more completion. -/
def Body.completing (b : Body) (e : Ended) (r : List Ended) : Body :=
  (b.withEnded r).count e.fl.slot (if e.status = 0 then 0 else 1) 1

theorem sameBytes_completing (b : Body) (e : Ended) (r : List Ended) : SameBytes b (b.completing e r) :=
  sameBytes_of (Body.count_mem ..) (Body.count_haze ..) (Body.count_bg ..)

theorem cqs_completing (b : Body) (e : Ended) (r : List Ended) : (b.completing e r).eth.cqs = b.eth.cqs := by
  rw [Body.completing, Body.count_eth]
  rfl

theorem cqRoom_completing (b : Body) (e : Ended) (r : List Ended) (n : Nat) : (b.completing e r).cqRoom n = b.cqRoom n :=
  cqRoom_congr (cqs_completing b e r) (fun k => reg_epQpStat_count (b.withEnded r) _ _ _ k) n

theorem reg_hmCplOvf_completing (b : Body) (e : Ended) (r : List Ended) {n : Nat} (hn : n < 64) :
    (b.completing e r).reg (.hmCplOvf n) = b.reg (.hmCplOvf n) := (unnoted_hmCplOvf hn).count (b.withEnded r) _ _ _

theorem complete_withEnded (b : Body) (e : Ended) (r : List Ended) :
    (b.withEnded r).complete e = ((b.completing e r).recorded e).syncIn e.fl.cmd.wq e.fl.slot := rfl

theorem recorded_of_unasked {b : Body} (hst : e.status = 0) (hcpl : e.fl.cmd.cpl = false) : b.recorded e = b := by
  unfold Body.recorded
  rw [if_pos ⟨hst, by rw [hcpl]; decide⟩]

theorem recorded_of_room {b : Body} (hasked : e.status ≠ 0 ∨ e.fl.cmd.cpl = true) (hsummary : b.summary e.fl.cmd.wq.val = b)
    (hroom : b.cqRoom e.fl.cmd.wq.val = true) : b.recorded e = b.cqPut e.fl.cmd.wq.val (cplRecord e.fl.cmd.tag.toNat e.status
      ((if e.fl.resumed = true then 1 else 0) + (if e.errRec = true then 4 else 0)) e.fl.cmd.ctx.toNat e.fl.cmd.wq.val e.fl.opc e.result
      e.fl.epochFirst e.fl.epochLast b.ts) := by
  unfold Body.recorded
  rw [if_neg (fun h => hasked.elim (· h.1) h.2), hsummary, if_pos hroom]

theorem recorded_of_no_room {b : Body} (hasked : e.status ≠ 0 ∨ e.fl.cmd.cpl = true) (hroom : b.cqRoom e.fl.cmd.wq.val = false) :
    b.recorded e = b.coalesce e.fl.cmd.wq.val e.status e.fl.opc e.fl.cmd.tag.toNat := by
  unfold Body.recorded
  rw [if_neg (fun h => hasked.elim (· h.1) h.2), summary_of_none (.inr hroom), if_neg (by rw [hroom]; decide)]

theorem ended_complete (b : Body) (e : Ended) (r : List Ended) : ((b.withEnded r).complete e).hm.ended = r := by
  rw [Body.complete_hm]
  rfl

theorem cq_syncIn (b : Body) (wq : Fin 64) (slot n : Nat) : (b.syncIn wq slot).cq n = b.cq n := Body.cq_congr (by rw [Body.syncIn_eth]) n

include hended hsaving hstep

theorem commandComplete_unasked (hst : e.status = 0) (hcpl : e.fl.cmd.cpl = false) : Gives .commandComplete s fun t =>
    t.hm.ended = r ∧ t.hm.flights = s.body.hm.flights ∧ t.out = s.body.out ∧ t.eth = s.body.eth ∧ SameBytes s.body t ∧
      SameRegsBut s.body t [(Reg.hmWqPtr e.fl.cmd.wq.val).addr, (Reg.hmCtxStat e.fl.slot).addr] := by
  refine gives_of_exec (exec_commandComplete hended hsaving hstep) ⟨ended_complete .., by rw [Body.complete_hm]; rfl, ?_⟩
  rw [complete_withEnded, recorded_of_unasked hst hcpl]
  refine ⟨by rw [Body.syncIn_out]; exact Body.count_out .., by rw [Body.syncIn_eth]; exact Body.count_eth ..,
    (sameBytes_completing _ e r).trans (sameBytes_syncIn _ _ _), fun q hq hl => ?_⟩
  simp only [List.mem_cons, List.not_mem_nil, or_false, not_or] at hl
  rw [reg_syncIn _ _ _ hl.1 hl.2]
  unfold Body.completing Body.count
  split
  · exact Body.reg_bump_ne _ _ _ fun h => hq (.inr (.inr (.inr (.inl ⟨_, _, h⟩))))
  · rfl

theorem commandComplete_recorded {q : Nat} (hasked : e.status ≠ 0 ∨ e.fl.cmd.cpl = true)
    (hflag : s.body.flag (.hmCplOvf e.fl.cmd.wq.val) Fld.hmCplOvfSummary = false) (hroom : s.body.cqRoom e.fl.cmd.wq.val = true)
    (hqp : (s.body.cq e.fl.cmd.wq.val).qp = some q) : Gives .commandComplete s fun t =>
      ∃ m, t.hm.ended = r ∧ t.out = s.body.out ++ [m] ∧ m.kind = .rdmaWrite ∧ m.nums.getD 0 0 = q ∧
        m.nums.getD 2 0 = (s.body.cq e.fl.cmd.wq.val).ringVa +
          32 * ((s.body.cq e.fl.cmd.wq.val).pi % 2 ^ (s.body.cq e.fl.cmd.wq.val).log2) ∧
        m.nums.getD 3 0 = (s.body.cq e.fl.cmd.wq.val).rkey ∧
        m.data = cplRecord e.fl.cmd.tag.toNat e.status ((if e.fl.resumed = true then 1 else 0) + (if e.errRec = true then 4 else 0))
          e.fl.cmd.ctx.toNat e.fl.cmd.wq.val e.fl.opc e.result e.fl.epochFirst e.fl.epochLast s.body.ts ∧
        t.cq e.fl.cmd.wq.val = { s.body.cq e.fl.cmd.wq.val with pi := ((s.body.cq e.fl.cmd.wq.val).pi + 1) % 2 ^ 32 } ∧
        SameBytes s.body t := by
  have hts : (s.body.completing e r).ts = s.body.ts := Body.count_ts ..
  have hout : (s.body.completing e r).out = s.body.out := Body.count_out ..
  have hcq := Body.cq_congr (cqs_completing s.body e r) e.fl.cmd.wq.val
  have hsummary : (s.body.completing e r).summary e.fl.cmd.wq.val = s.body.completing e r :=
    summary_of_none (.inl (by rw [flag_of_reg_eq (reg_hmCplOvf_completing _ e r e.fl.cmd.wq.isLt), hflag]))
  have hbytes := sameBytes_completing s.body e r
  have hrecorded := recorded_of_room hasked hsummary ((cqRoom_completing ..).trans hroom)
  have hready := qpReady_of_cqRoom ((cqRoom_completing s.body e r _).trans hroom) (hcq ▸ hqp)
  have hexec := exec_commandComplete hended hsaving hstep
  have hends := ended_complete s.body e r
  rw [complete_withEnded, hrecorded] at hexec hends
  rw [hts] at hexec hends
  generalize s.body.completing e r = c at hout hcq hbytes hready hexec hends
  obtain ⟨hput, hpi, m, hsent, hkind, hnum, hva, hkey, hdata⟩ := cqPut_spec (hcq ▸ hqp) hready (cplRecord e.fl.cmd.tag.toNat e.status
    ((if e.fl.resumed = true then 1 else 0) + (if e.errRec = true then 4 else 0)) e.fl.cmd.ctx.toNat e.fl.cmd.wq.val e.fl.opc e.result
    e.fl.epochFirst e.fl.epochLast s.body.ts)
  rw [hcq] at hpi hva hkey
  exact gives_of_exec hexec ⟨m, hends, by rw [Body.syncIn_out, hsent, hout], hkind, hnum, hva, hkey, hdata, by rw [cq_syncIn, hpi],
    hbytes.trans (hput.trans (sameBytes_syncIn _ _ _))⟩

theorem commandComplete_coalesced (hasked : e.status ≠ 0 ∨ e.fl.cmd.cpl = true) (hroom : s.body.cqRoom e.fl.cmd.wq.val = false) :
    Gives .commandComplete s fun t => t.hm.ended = r ∧ t.out = s.body.out ∧
      t.flag (.hmCplOvf e.fl.cmd.wq.val) Fld.hmCplOvfSummary = true ∧
      Counted s.body t (.hmCplOvf e.fl.cmd.wq.val) Fld.hmCplOvfCount 1 ∧
      (e.status ≠ 0 → s.body.getF (.hmCplOvf e.fl.cmd.wq.val) Fld.hmCplOvfFirstErr = 0 → e.status < 256 →
        t.getF (.hmCplOvf e.fl.cmd.wq.val) Fld.hmCplOvfFirstErr = e.status) ∧
      t.cq e.fl.cmd.wq.val = { s.body.cq e.fl.cmd.wq.val with lastTag := e.fl.cmd.tag.toNat, lastOpc := e.fl.opc } ∧
      SameBytes s.body t := by
  have hn := e.fl.cmd.wq.isLt
  have hout : (s.body.completing e r).out = s.body.out := Body.count_out ..
  have hcq := Body.cq_congr (cqs_completing s.body e r) e.fl.cmd.wq.val
  have hreg := reg_hmCplOvf_completing s.body e r hn
  have hbytes := sameBytes_completing s.body e r
  have hrecorded := recorded_of_no_room hasked ((cqRoom_completing s.body e r _).trans hroom)
  have hexec := exec_commandComplete hended hsaving hstep
  have hends := ended_complete s.body e r
  rw [complete_withEnded, hrecorded] at hexec hends
  generalize s.body.completing e r = c at hout hcq hreg hbytes hexec hends
  obtain ⟨hflag, hcount, hfirst, hlast⟩ := coalesce_spec c hn e.status e.fl.opc e.fl.cmd.tag.toNat
  have hsync : ((c.coalesce e.fl.cmd.wq.val e.status e.fl.opc e.fl.cmd.tag.toNat).syncIn e.fl.cmd.wq e.fl.slot).reg
      (.hmCplOvf e.fl.cmd.wq.val) = (c.coalesce e.fl.cmd.wq.val e.status e.fl.opc e.fl.cmd.tag.toNat).reg (.hmCplOvf e.fl.cmd.wq.val) :=
    reg_syncIn _ _ _ (by simp only [Reg.addr]; omega) (by simp only [Reg.addr]; omega)
  refine gives_of_exec hexec ⟨hends, by rw [Body.syncIn_out, Body.coalesce_out, hout], ?_, ?_, fun hst hzero hlt => ?_, ?_, ?_⟩
  · rw [flag_of_reg_eq hsync, hflag]
  · rw [Counted, getF_of_reg_eq hsync, ← getF_of_reg_eq hreg]
    exact hcount
  · rw [getF_of_reg_eq hsync]
    exact hfirst hst ((getF_of_reg_eq hreg _).trans hzero) hlt
  · rw [cq_syncIn, hlast, hcq]
  · exact hbytes.trans ((sameBytes_of (Body.coalesce_mem ..) (Body.coalesce_haze ..) (Body.coalesce_bg ..)).trans (sameBytes_syncIn _ _ _))

end

/-! ### SUMMARY_RECORD -/

theorem exec_summaryRecord (s : State) (wq : Fin 64) : exec (.summaryRecord wq) s = .next { s with body := s.body.summary wq } := rfl

theorem summaryRecord_due {s : State} {wq : Fin 64} (hflag : s.body.flag (.hmCplOvf wq.val) Fld.hmCplOvfSummary = true)
    (hroom : s.body.cqRoom wq.val = true) : Gives (.summaryRecord wq) s fun t => ∃ m, t.out = s.body.out ++ [m] ∧ m.data.getD 3 0 = 2 ∧
      (t.cq wq.val).pi = ((s.body.cq wq.val).pi + 1) % 2 ^ 32 ∧ t.reg (.hmCplOvf wq.val) = Reg.dflt (.hmCplOvf wq.val) ∧
      SameBytes s.body t := by
  obtain ⟨k, hqp⟩ := exists_qp_of_cqRoom hroom
  obtain ⟨tag, st, ctx, opc, result, ts, hsummary⟩ := summary_of_due hflag hroom
  obtain ⟨hbytes, hpi, m, hout, -, -, -, -, hdata⟩ :=
    cqPut_spec hqp (qpReady_of_cqRoom hroom hqp) (cplRecord tag st 2 ctx wq.val opc result 0 0 ts)
  have hexec := exec_summaryRecord s wq
  rw [hsummary] at hexec
  refine gives_of_exec hexec ⟨m, by rw [Body.setReg_out, hout], ?_, ?_, Body.reg_setReg_self _ _ (hmCplOvf_ok wq.isLt) (by simp [Reg.stored]),
    hbytes.trans (sameBytes_of (by simp) (by simp) (by simp))⟩
  · rw [hdata, flags_cplRecord]
    rfl
  · rw [Body.cq_congr (b := s.body.cqPut wq (cplRecord tag st 2 ctx wq opc result 0 0 ts)) (by rw [Body.setReg_eth]), hpi]

/-! ### The one head that stands -/

theorem findSome?_of_only {α β : Type} {l : List α} {f : α → Option β} {n : α} (hn : n ∈ l) (h : ∀ m, m ≠ n → f m = none) :
    l.findSome? f = f n := by
  induction l with
  | nil => cases hn
  | cons x r ih =>
    by_cases hx : x = n
    · subst hx
      rw [List.findSome?_cons]
      cases hf : f x with
      | some y => rfl
      | none => exact List.findSome?_eq_none_iff.2 fun m _ => (em (m = x)).elim (fun hm => hm ▸ hf) (h m)
    · rw [List.findSome?_cons, h x hx]
      exact ih ((List.mem_cons.1 hn).resolve_left fun heq => hx heq.symm)

theorem filterMap_of_only {α β : Type} {l : List α} {f : α → Option β} {n : α} (hl : l.Nodup) (hn : n ∈ l)
    (h : ∀ m, m ≠ n → f m = none) : l.filterMap f = (f n).toList := by
  induction l with
  | nil => cases hn
  | cons x r ih =>
    rw [List.nodup_cons] at hl
    by_cases hx : x = n
    · subst hx
      have hrest : r.filterMap f = [] := List.filterMap_eq_nil_iff.2 fun m hm => h m fun heq => hl.1 (heq ▸ hm)
      cases hf : f x with
      | some y => rw [List.filterMap_cons_some hf, hrest]; rfl
      | none => rw [List.filterMap_cons_none hf, hrest]; rfl
    · rw [List.filterMap_cons_none (h x hx)]
      exact ih hl.2 ((List.mem_cons.1 hn).resolve_left fun heq => hx heq.symm)

theorem consume_of_no_skips {b : Body} (h : b.hm.skips = []) (n : Fin 64) (k : Nat) : b.consume n k = b := by
  cases k with
  | zero => rfl
  | succ k =>
    unfold Body.consume
    rw [h]
    exact if_pos (.inl rfl)

/-- The body with other marks of the round-robin. -/
def Body.withRound (b : Body) (used : SMap Nat) (last : Nat) : Body := { b with hm.rrUsed := used, hm.rrLast := last }

theorem find?_singleton_turn (n : Fin 64) (first : Nat) :
    (List.range 64).findSome? (fun i => [n].find? fun m => decide (m.val = (first + i) % 64)) = some n := by
  obtain ⟨y, hy⟩ : ∃ y, (List.range 64).findSome? (fun i => [n].find? fun m => decide (m.val = (first + i) % 64)) = some y := by
    rw [← Option.isSome_iff_exists, List.findSome?_isSome_iff]
    refine ⟨(n.val + 64 - first % 64) % 64, List.mem_range.2 (Nat.mod_lt _ (by decide)), ?_⟩
    have hturn : n.val = (first + (n.val + 64 - first % 64) % 64) % 64 := by omega
    rw [List.find?_cons_of_pos (by exact decide_eq_true hturn)]
    rfl
  obtain ⟨i, -, hi⟩ := List.exists_of_findSome?_eq_some hy
  rw [hy, List.mem_singleton.1 (List.mem_of_find?_eq_some hi)]

theorem pick_nil (b : Body) : b.pick [] = none := by
  have hnone : ∀ first : Nat, (List.range 64).findSome? (fun i => ([] : List (Fin 64)).find? fun m => decide (m.val = (first + i) % 64)) = none :=
    fun first => List.findSome?_eq_none_iff.2 fun i _ => rfl
  simp only [Body.pick, List.filter_nil, hnone]
  rfl

theorem pick_singleton (b : Body) (n : Fin 64) : ∃ used last, b.pick [n] = some (n, b.withRound used last) := by
  have hturn := fun first => find?_singleton_turn n first
  unfold Body.pick
  dsimp only
  rw [List.filter_cons_of_pos (l := []) (by simp), List.filter_nil]
  by_cases hused : SMap.get b.hm.rrUsed 0 n < b.getF (.hmWqCfg n) Fld.hmWqCfgWeight
  · rw [List.filter_cons_of_pos (l := []) (by exact decide_eq_true hused), List.filter_nil, hturn]
    exact ⟨_, _, rfl⟩
  · rw [List.filter_cons_of_neg (l := []) (by simpa using hused), List.filter_nil, hturn]
    simp only [List.find?_nil, List.findSome?_eq_none_iff.2 fun _ _ => rfl]
    exact ⟨_, _, rfl⟩

section
variable {b : Body} {n : Fin 64} {h : Head} (hhead : b.headOf n = some h) (honly : ∀ m, m ≠ n → b.headOf m = none)
include hhead honly

theorem readyHeads_of_none (hready : b.headReady n h false = none) : b.readyHeads = [] := by
  unfold Body.readyHeads
  rw [filterMap_of_only (List.nodup_finRange 64) (List.mem_finRange n) fun m hm => by rw [honly m hm]]
  simp only [hhead, hready, Option.map_none, Option.toList_none, List.filter_nil]

theorem readyHeads_of_one {k : Nat} (hopc : h.opc ≠ 0x19) (hready : b.headReady n h false = some k) : b.readyHeads = [(n, h, k)] := by
  unfold Body.readyHeads
  rw [filterMap_of_only (List.nodup_finRange 64) (List.mem_finRange n) fun m hm => by rw [honly m hm]]
  simp only [hhead, hready, Option.map_some, Option.toList_some]
  rw [List.filter_cons_of_pos (by simp [hopc]), List.filter_nil]

end

theorem readyHeads_of_no_heads {b : Body} (h : ∀ n, b.headOf n = none) : b.readyHeads = [] := by
  unfold Body.readyHeads
  rw [List.filterMap_eq_nil_iff.2 fun n _ => by rw [h n]]
  rfl

/-! ### COMMAND_DISPATCH -/

theorem dispatch_stopped {b : Body} (h : b.boot.phase ≠ .run ∨ b.hm.sramDead = true) : b.dispatch = b := by
  unfold Body.dispatch
  rw [if_pos h]

/-- The first head that fails steps 3 or 4 of R286, with its queue. -/
def Body.badHead (b : Body) : Option (Fin 64 × Head) :=
  (List.finRange 64).findSome? fun n =>
    match b.headOf n with
    | some h => if b.headAllowed n h then none else some (n, h)
    | none => none

/-- The slot that a queue's bad head is charged to. -/
def Body.ownSlot (b : Body) (n : Fin 64) : Nat := (b.slotOf (b.getF (.hmWqCfg n) Fld.hmWqCfgCtx)).getD mgmtSlot

section
variable {b : Body} (hphase : b.boot.phase = .run) (hsram : b.hm.sramDead = false) (hskips : b.hm.skips = [])
include hphase hsram hskips

theorem dispatch_of_bad {n : Fin 64} {h : Head} (hbad : b.badHead = some (n, h)) :
    b.dispatch = (b.dispatchHead n h (b.ownSlot n)).1.fail (b.dispatchHead n h (b.ownSlot n)).2 0x60 := by
  unfold Body.dispatch
  rw [if_neg (by simp [hphase, hsram]), foldl_eq_self fun m _ => consume_of_no_skips hskips m 4096]
  dsimp only
  generalize hfound : List.findSome? _ (List.finRange 64) = bad
  obtain rfl : bad = some (n, h) := hfound.symm.trans hbad
  rfl

theorem dispatch_of_idle (hbad : b.badHead = none) (hready : b.readyHeads = []) : b.dispatch = b := by
  unfold Body.dispatch
  rw [if_neg (by simp [hphase, hsram]), foldl_eq_self fun m _ => consume_of_no_skips hskips m 4096]
  dsimp only
  generalize hfound : List.findSome? _ (List.finRange 64) = bad
  obtain rfl : bad = none := hfound.symm.trans hbad
  simp only [hready, List.map_nil, pick_nil]

theorem dispatch_of_one {n : Fin 64} {h : Head} {k : Nat} (hbad : b.badHead = none) (hready : b.readyHeads = [(n, h, k)])
    (hopc : h.opc ≠ 0x19) (hecc : (b.info k).eccPending = false) :
    ∃ used last, b.dispatch = ((b.withRound used last).dispatchHead n h k).1 := by
  obtain ⟨used, last, hpick⟩ := pick_singleton b n
  refine ⟨used, last, ?_⟩
  unfold Body.dispatch
  rw [if_neg (by simp [hphase, hsram]), foldl_eq_self fun m _ => consume_of_no_skips hskips m 4096]
  dsimp only
  generalize hfound : List.findSome? _ (List.finRange 64) = bad
  obtain rfl : bad = none := hfound.symm.trans hbad
  simp only [hready, List.map_cons, List.map_nil, hpick, List.find?_cons, decide_true, hecc, Bool.false_eq_true, false_and, if_false,
    if_neg hopc]

end

/-! ### A head leaves its queue -/

section
variable (b : Body) (c : Cmd) (opc slot : Nat) (priv inStep : Bool)

theorem launch_flight : ∃ fl : Flight, (b.launch c opc slot priv inStep).2 = fl ∧
    (b.launch c opc slot priv inStep).1.hm.flights = b.hm.flights ++ [fl] ∧ fl.uid = b.hm.nextUid ∧ fl.cmd = c ∧ fl.opc = opc ∧
      fl.slot = slot ∧ fl.started = false := by
  refine ⟨_, rfl, ?_, ?_⟩
  · unfold Body.launch
    dsimp only
    rw [Body.log_hm, Body.syncShadow_hm, Body.syncIn_hm]
  · unfold Body.launch
    exact ⟨rfl, rfl, rfl, rfl, rfl⟩

theorem launch_nextUid : (b.launch c opc slot priv inStep).1.hm.nextUid = b.hm.nextUid + 1 := by
  unfold Body.launch
  dsimp only
  rw [Body.log_hm, Body.syncShadow_hm, Body.syncIn_hm]

theorem sameBytes_launch : SameBytes b (b.launch c opc slot priv inStep).1 :=
  sameBytes_of (Body.launch_mem ..) (Body.launch_haze ..) (Body.launch_bg ..)

theorem head_launch {n : Nat} (hn : n < 64) :
    (b.launch c opc slot priv inStep).1.getF (.hmWqPtr n) Fld.hmWqPtrHead = b.getF (.hmWqPtr n) Fld.hmWqPtrHead := by
  unfold Body.launch
  dsimp only
  rw [Body.log_getF, getF_of_reg_eq ((unnoted_hmWqPtr hn).syncShadow _ _), head_syncIn _ _ _ hn]
  rfl

end

theorem head_advanceHead (b : Body) {n : Nat} (hn : n < 64) (k : Nat) :
    (b.advanceHead n k).getF (.hmWqPtr n) Fld.hmWqPtrHead = (b.getF (.hmWqPtr n) Fld.hmWqPtrHead + k) % 8192 := by
  rw [Body.advanceHead, Body.getF_setF_self _ _ (hmWqPtr_ok hn) (by simp [Reg.stored]) (by decide) (by decide)]
  exact Nat.mod_mod _ _

/-- A head that has not been dispatched before takes the next number; HEAD moves past its entries (R284, R286). -/
theorem dispatchHead_spec {b : Body} {n : Fin 64} {h : Head} (slot : Nat) (hback : h.back = none) (hstep : (b.info slot).step = none) :
    ∃ fl : Flight, (b.dispatchHead n h slot).2 = fl ∧ (b.dispatchHead n h slot).1.hm.flights = b.hm.flights ++ [fl] ∧
      fl.uid = b.hm.nextUid ∧ fl.cmd = h.cmd ∧ fl.opc = h.opc ∧ fl.slot = slot ∧ fl.started = false ∧
      (b.dispatchHead n h slot).1.hm.nextUid = b.hm.nextUid + 1 ∧ (b.dispatchHead n h slot).1.hm.ended = b.hm.ended ∧
      (b.dispatchHead n h slot).1.getF (.hmWqPtr n.val) Fld.hmWqPtrHead =
        (b.getF (.hmWqPtr n.val) Fld.hmWqPtrHead + h.cmd.length.toNat) % 8192 ∧
      SameBytes b (b.dispatchHead n h slot).1 := by
  have hhm : (b.advanceHead n h.cmd.length.toNat).hm = b.hm := Body.setF_hm ..
  have hinfo : ((b.advanceHead n h.cmd.length.toNat).info slot).step = none := by rw [Body.info, hhm]; exact hstep
  have heq : b.dispatchHead n h slot =
      (((b.advanceHead n h.cmd.length.toNat).launch h.cmd h.opc slot (b.flag (.hmWqCfg n) Fld.hmWqCfgPriv) false).1.clampCmd
        ((b.advanceHead n h.cmd.length.toNat).launch h.cmd h.opc slot (b.flag (.hmWqCfg n) Fld.hmWqCfgPriv) false).2 h.clamps,
      ((b.advanceHead n h.cmd.length.toNat).launch h.cmd h.opc slot (b.flag (.hmWqCfg n) Fld.hmWqCfgPriv) false).2) := by
    simp only [Body.dispatchHead, hback, hinfo]
  have hhead := head_advanceHead b n.isLt h.cmd.length.toNat
  have hbytes : SameBytes b (b.advanceHead n h.cmd.length.toNat) := sameBytes_of (Body.setF_mem ..) (Body.setF_haze ..) (Body.setF_bg ..)
  rw [heq]
  generalize b.advanceHead n h.cmd.length.toNat = c at hhm hhead hbytes ⊢
  generalize b.flag (.hmWqCfg n) Fld.hmWqCfgPriv = priv
  obtain ⟨fl, hfl, hflights, huid, hcmd, hopc, hslot, hstarted⟩ := launch_flight c h.cmd h.opc slot priv false
  refine ⟨fl, hfl, ?_, ?_, hcmd, hopc, hslot, hstarted, ?_, ?_, ?_, ?_⟩
  · rw [Body.clampCmd_hm, hflights, hhm]
  · rw [huid, hhm]
  · rw [Body.clampCmd_hm, launch_nextUid, hhm]
  · rw [Body.clampCmd_hm, Body.launch_hm_ended, hhm]
  · rw [getF_of_reg_eq ((unnoted_hmWqPtr n.isLt).clampCmd _ _ _), head_launch _ _ _ _ _ _ n.isLt, hhead]
  · exact hbytes.trans ((sameBytes_launch _ _ _ _ _ _).trans (sameBytes_of (Body.clampCmd_mem ..) (Body.clampCmd_haze ..) (Body.clampCmd_bg ..)))

theorem exec_commandDispatch (s : State) : exec .commandDispatch s = .next { s with body := s.body.dispatch } := rfl

theorem commandDispatch_of_same {s : State} (h : s.body.dispatch = s.body) : exec .commandDispatch s = .next s := by
  rw [exec_commandDispatch, h]

theorem badHead_of_none {b : Body} (h : ∀ n, b.headOf n = none) : b.badHead = none :=
  List.findSome?_eq_none_iff.2 fun n _ => by rw [h n]

theorem badHead_of_one {b : Body} {n : Fin 64} {h : Head} (hhead : b.headOf n = some h) (honly : ∀ m, m ≠ n → b.headOf m = none) :
    b.badHead = if b.headAllowed n h = true then none else some (n, h) := by
  unfold Body.badHead
  rw [findSome?_of_only (List.mem_finRange n) fun m hm => by rw [honly m hm], hhead]

theorem commandDispatch_of_no_heads {s : State} (hskips : s.body.hm.skips = []) (h : ∀ n, s.body.headOf n = none) :
    exec .commandDispatch s = .next s := by
  by_cases hrun : s.body.boot.phase ≠ .run ∨ s.body.hm.sramDead = true
  · exact commandDispatch_of_same (dispatch_stopped hrun)
  · rw [not_or, not_not, Bool.not_eq_true] at hrun
    exact commandDispatch_of_same (dispatch_of_idle hrun.1 hrun.2 hskips (badHead_of_none h) (readyHeads_of_no_heads h))

section
variable {s : State} {n : Fin 64} {h : Head} (hphase : s.body.boot.phase = .run) (hsram : s.body.hm.sramDead = false)
  (hskips : s.body.hm.skips = []) (hhead : s.body.headOf n = some h) (hback : h.back = none) (hopc : h.opc ≠ 0x19)
  (honly : ∀ m, m ≠ n → s.body.headOf m = none) (hstep : ∀ k, (s.body.info k).step = none)
include hphase hsram hskips hhead honly

theorem commandDispatch_waits (hallowed : s.body.headAllowed n h = true) (hready : s.body.headReady n h false = none) :
    exec .commandDispatch s = .next s :=
  commandDispatch_of_same (dispatch_of_idle hphase hsram hskips ((badHead_of_one hhead honly).trans (if_pos hallowed))
    (readyHeads_of_none hhead honly hready))

include hback hstep

theorem commandDispatch_refuses (hallowed : s.body.headAllowed n h = false) : Gives .commandDispatch s fun t =>
    ∃ fl : Flight, fl.uid = s.body.hm.nextUid ∧ fl.cmd = h.cmd ∧ EndsWith s.body t fl 0x60 0 ∧ SameBytes s.body t ∧
      t.getF (.hmWqPtr n.val) Fld.hmWqPtrHead = (s.body.getF (.hmWqPtr n.val) Fld.hmWqPtrHead + h.cmd.length.toNat) % 8192 := by
  have hbad : s.body.badHead = some (n, h) := (badHead_of_one hhead honly).trans (if_neg (by rw [hallowed]; decide))
  have hexec := exec_commandDispatch s
  rw [dispatch_of_bad hphase hsram hskips hbad] at hexec
  obtain ⟨fl, hfl, -, huid, hcmd, -, -, -, -, hended, hmoved, hbytes⟩ := dispatchHead_spec (s.body.ownSlot n) hback (hstep (s.body.ownSlot n))
  rw [hfl] at hexec
  generalize (s.body.dispatchHead n h (s.body.ownSlot n)).1 = c at hexec hended hmoved hbytes
  refine gives_of_exec hexec ⟨fl, huid, hcmd, Body.endsWith_fail fl 0x60 0 0 hended, hbytes.trans ?_, ?_⟩
  · exact sameBytes_of (Body.fail_mem ..) (Body.fail_haze ..) (Body.fail_bg ..)
  · rw [getF_of_reg_eq ((unnoted_hmWqPtr n.isLt).fail _ _ _ _ _), hmoved]

include hopc

theorem commandDispatch_dispatches {k : Nat} (hallowed : s.body.headAllowed n h = true) (hready : s.body.headReady n h false = some k)
    (hecc : (s.body.info k).eccPending = false) : Gives .commandDispatch s fun t =>
      ∃ fl : Flight, t.hm.flights = s.body.hm.flights ++ [fl] ∧ fl.uid = s.body.hm.nextUid ∧ fl.cmd = h.cmd ∧ fl.opc = h.opc ∧
        fl.slot = k ∧ fl.started = false ∧ t.hm.nextUid = s.body.hm.nextUid + 1 ∧ t.hm.ended = s.body.hm.ended ∧
        t.getF (.hmWqPtr n.val) Fld.hmWqPtrHead = (s.body.getF (.hmWqPtr n.val) Fld.hmWqPtrHead + h.cmd.length.toNat) % 8192 ∧
        SameBytes s.body t := by
  obtain ⟨used, last, hdispatch⟩ := dispatch_of_one hphase hsram hskips ((badHead_of_one hhead honly).trans (if_pos hallowed))
    (readyHeads_of_one hhead honly hopc hready) hopc hecc
  have hexec := exec_commandDispatch s
  rw [hdispatch] at hexec
  obtain ⟨fl, -, hflights, huid, hcmd, hop, hslot, hstarted, hnext, hended, hmoved, hbytes⟩ :=
    dispatchHead_spec (b := s.body.withRound used last) (n := n) k hback (hstep k)
  exact gives_of_exec hexec ⟨fl, hflights, huid, hcmd, hop, hslot, hstarted, hnext, hended, hmoved,
    SameBytes.trans (sameBytes_of rfl rfl rfl) hbytes⟩

end

/-- Settles O36: dispatch by what heads stand, completion by what the ended command asks for. -/
theorem dispatchAndCompletion : Obligations.DispatchAndCompletion := by
  intro s
  refine ⟨fun h => commandDispatch_of_same (dispatch_stopped h), commandDispatch_of_no_heads, ?_, fun hended => ?_, ?_, fun wq h => ?_,
    fun wq hflag hroom => summaryRecord_due hflag hroom⟩
  · intro n h hphase hsram hskips hhead hback hopc honly hstep
    exact ⟨commandDispatch_waits hphase hsram hskips hhead honly,
      commandDispatch_refuses hphase hsram hskips hhead hback honly hstep,
      fun k => commandDispatch_dispatches hphase hsram hskips hhead hback hopc honly hstep⟩
  · change execCommandComplete s = _
    simp only [execCommandComplete, State.onBody, hended]
  · rintro e r _ _ hended rfl rfl hsaving hstep
    exact ⟨commandComplete_unasked hended hsaving hstep,
      fun q => commandComplete_recorded hended hsaving hstep,
      commandComplete_coalesced hended hsaving hstep⟩
  · rw [exec_summaryRecord, summary_of_none h]

end Sys2Proof.Machine
end

section
/-! PROOFS. What a command that is struck off leaves as it is, and what a CTX reset (R296) leaves as it is of the module: the allotment of
the slices and segments, the tally of SRAM errors, and whether the core runs. -/

namespace Sys2Proof.Machine

/-! ### Registers apart -/

theorem hmSramEcc_addr_ne {r : Reg} (hr : r ≠ .hmSramEcc) (hok : r.ok = true) : Reg.hmSramEcc.addr ≠ r.addr := by
  cases r <;> simp only [Reg.addr, Reg.ok, ne_eq, reduceCtorEq, not_true_eq_false, not_false_eq_true, Bool.and_eq_true,
    decide_eq_true_eq] at hr hok ⊢ <;> omega

/-! ### What stays -/

/-- The allotment, the stopped core and the tally of SRAM errors. -/
def Body.calm (b : Body) : SMap Nat × Bool × Word := (b.st.allot, b.hm.sramDead, b.reg .hmSramEcc)

theorem calm_congr {b c : Body} (hst : c.st = b.st) (hhm : c.hm = b.hm) (hregs : c.regs = b.regs) : c.calm = b.calm := by
  rw [Body.calm, hst, hhm, Body.reg_congr hregs, Body.calm]

section
variable (b : Body)

@[simp] theorem calm_setReg {r : Reg} (hr : r ≠ .hmSramEcc) (w : Word) : (b.setReg r w).calm = b.calm := by
  have hreg : (b.setReg r w).reg .hmSramEcc = b.reg .hmSramEcc := by
    by_cases hok : r.ok = true
    · exact Body.reg_setReg_ne b w (hmSramEcc_addr_ne hr hok)
    · rw [Body.setReg, if_neg hok]
  rw [Body.calm, hreg, Body.setReg_st, Body.setReg_hm, Body.calm]

@[simp] theorem calm_setF {r : Reg} (hr : r ≠ .hmSramEcc) (f : Fld) (v : Nat) : (b.setF r f v).calm = b.calm := calm_setReg b hr _

@[simp] theorem calm_bump {r : Reg} (hr : r ≠ .hmSramEcc) (f : Fld) (n : Nat) : (b.bump r f n).calm = b.calm := calm_setReg b hr _

@[simp] theorem calm_count (slot i n : Nat) : (b.count slot i n).calm = b.calm := by
  unfold Body.count
  split
  · exact calm_bump b (by simp) _ _
  · rfl

@[simp] theorem calm_log (kind unit code status ctx tag arg : Nat) : (b.log kind unit code status ctx tag arg).calm = b.calm :=
  calm_congr (by simp) (by simp) (by simp)

@[simp] theorem calm_raise (x : ErrRec) : (b.raise x).calm = b.calm := by
  rw [Body.calm, unnoted_hmSramEcc.raise, Body.raise_st, Body.raise_hm, Body.calm]

@[simp] theorem calm_err (code sev kind unit : Nat) (d : List Nat) (st ctx : Nat) : (b.err code sev kind unit d st ctx).calm = b.calm :=
  calm_raise b _

@[simp] theorem calm_retire (fl : Flight) (st r : Nat) (e : Bool) : (b.retire fl st r e).calm = b.calm := by
  rw [Body.calm, unnoted_hmSramEcc.retire, Body.retire_st, Body.retire_hm_sramDead, Body.calm]

@[simp] theorem calm_done (fl : Flight) (r : Nat) : (b.done fl r).calm = b.calm := calm_retire b fl 0 r false

@[simp] theorem calm_fail (fl : Flight) (st d0 d1 : Nat) : (b.fail fl st d0 d1).calm = b.calm := by
  unfold Body.fail Body.failWith
  split <;> simp

@[simp] theorem calm_clampCmd (fl : Flight) (n : Nat) : (b.clampCmd fl n).calm = b.calm := by
  rw [Body.calm, unnoted_hmSramEcc.clampCmd, Body.clampCmd_st, Body.clampCmd_hm, Body.calm]

@[simp] theorem calm_syncIn (wq : Fin 64) (slot : Nat) : (b.syncIn wq slot).calm = b.calm := by
  unfold Body.syncIn
  dsimp only
  split <;> simp

/-! ### Memory -/

@[simp] theorem calm_setByte (a : Nat) (v : Byte) : (b.setByte a v).calm = b.calm :=
  calm_congr (Body.setByte_st ..) (Body.setByte_hm ..) (Body.setByte_regs ..)

@[simp] theorem calm_setBytes (a : Nat) (l : List Byte) : (b.setBytes a l).calm = b.calm :=
  calm_congr (Body.setBytes_st ..) (Body.setBytes_hm ..) (Body.setBytes_regs ..)

@[simp] theorem calm_setMapBit (base i : Nat) (v : Bool) : (b.setMapBit base i v).calm = b.calm := calm_setByte b _ _

@[simp] theorem calm_markMirrors (a n : Nat) : (b.markMirrors a n).calm = b.calm := by
  have hmark : ∀ (b : Body) m i, (b.markGranule m i).calm = b.calm := fun b m i => by
    unfold Body.markGranule
    split
    · rfl
    · rw [calm_bump _ (by simp), calm_setMapBit]
  unfold Body.markMirrors
  split
  · rfl
  · refine foldl_keep Body.calm _ _ b fun b m => ?_
    dsimp only
    split
    · rfl
    · exact foldl_keep Body.calm _ _ b fun b i => hmark b m _

@[simp] theorem calm_flashLife : b.flashLife.calm = b.calm := by
  unfold Body.flashLife
  dsimp only
  simp [apply_ite Body.calm]

@[simp] theorem calm_program (a n : Nat) : (b.program a n).calm = b.calm :=
  Body.program_keep Body.calm (fun _ _ => rfl) (fun _ _ _ => calm_flashLife _) b a n

@[simp] theorem calm_store (a : Nat) (row : List Byte) : (b.store a row).calm = b.calm := by
  unfold Body.store
  dsimp only
  rw [calm_markMirrors, calm_program]
  split
  · rw [calm_setBytes]
    rfl
  · refine (foldl_keep Body.calm _ _ _ fun c i => ?_).trans rfl
    split
    · rfl
    · exact calm_setByte _ _ _

@[simp] theorem calm_storeMapBit (base i : Nat) (v : Bool) : (b.storeMapBit base i v).calm = b.calm := by
  rw [Body.storeMapBit, calm_markMirrors, calm_setMapBit]

theorem calm_readPages (a n : Nat) : (b.readPages a n).calm = b.calm := Body.readPages_keep Body.calm (fun _ _ => rfl) b a n

@[simp] theorem calm_tierTraffic (slot a n : Nat) (write : Bool) (point : Nat) : (b.tierTraffic slot a n write point).calm = b.calm := by
  have hcharge : ∀ (b : Body) i t p n, (b.charge i t p n).calm = b.calm := fun b i t p n => by
    unfold Body.charge
    dsimp only
    split
    · rfl
    · split
      · rw [calm_bump _ (by simp)]
        rfl
      · rfl
  unfold Body.tierTraffic
  split <;> try split
  all_goals simp only [calm_count, hcharge]

@[simp] theorem calm_zeroRegion (r : Nat) : (b.zeroRegion r).calm = b.calm := rfl

@[simp] theorem calm_loseRegion (r : Nat) : (b.loseRegion r).calm = b.calm := rfl

end

/-! ### A command is struck off -/

/-- The lists of the units, without a command. -/
def Body.struckOff (b : Body) (uid : Nat) : Body :=
  let no (fl : Flight) : Bool := decide (fl.uid ≠ uid)
  let t := b.ln.twin
  { b with
    st.ents := b.st.ents.filter (fun p => no p.1),
    st.zeroWait := b.st.zeroWait.filter (fun p => no p.1),
    st.gwWait := b.st.gwWait.filter (fun p => no p.1),
    jigs := b.jigs.filter no,
    hm.waits := b.hm.waits.filter (fun p => no p.1),
    hm.halting := b.hm.halting.filter (fun p => no p.1),
    hm.ctxs := b.hm.ctxs.map (fun (p : Nat × CtxInfo) =>
      if p.2.step.any (fun r => decide (r.fl.uid = uid)) then (p.1, { p.2 with step := none }) else p),
    crates.reserved := b.crates.reserved.filter (fun r => decide (r.1 ≠ uid)),
    crates.loads := b.crates.loads.filter (fun r => decide (r.uid ≠ uid)),
    rnd.waits := b.rnd.waits.filter (fun u => decide (u ≠ uid)),
    rnd.mixes := b.rnd.mixes.filter (fun p => no p.1),
    ferry.streams := b.ferry.streams.map (fun (p : Nat × FyStream) =>
      (p.1, { p.2 with queue := p.2.queue.filter no, closing := p.2.closing.filter no })),
    ferry.pipes := b.ferry.pipes.map (fun (p : FyPipe) => { p with fl := p.fl.filter no }),
    ferry.sounds := b.ferry.sounds.filter (fun x => no x.fl),
    ln.remote := b.ln.remote.filter (fun x => no x.fl),
    ln.runs := b.ln.runs.filter (fun x => no x.fl),
    ln.groups := b.ln.groups.map (fun (p : Nat × Group) => (p.1, { p.2 with waiting := p.2.waiting.filter no })),
    ln.colls := b.ln.colls.map (fun (p : Nat × Registration) => (p.1, { p.2 with closing := p.2.closing.filter no })),
    ln.lines := b.ln.lines.map (fun (p : Nat × LineInfo) => (p.1, { p.2 with ctl := p.2.ctl.filter no })),
    ln.twin := { t with localPair := t.localPair.filter no, detach := t.detach.filter no, syncs := t.syncs.filter (fun p => no p.1) },
    power.waits := b.power.waits.filter (fun (w : PwWait) => no w.fl),
    power.stateCmd := b.power.stateCmd.filter no,
    tele.probe := b.tele.probe.filter (fun (p : Probe) => no p.fl),
    tele.dbg := b.tele.dbg.filter (fun (d : DbgRun) => no d.fl) }

/-- What a Berth shows of the work in it: its Trusses, its Joinery, and its power state. -/
inductive Reg.ShowsWork : Reg → Prop
  | truss (g : Nat) : ShowsWork (.brTrussStat g)
  | joinery (g : Nat) : ShowsWork (.brJyStat g)
  | power (g : Nat) : ShowsWork (.brPwrStat g)

section
variable {γ : Type} (p : Body → γ) (hset : ∀ (b : Body) {r : Reg} f v, r.ShowsWork → p (b.setF r f v) = p b)
  (hberths : ∀ (b : Body) x, p { b with berths := x } = p b)
include hset

theorem syncWork_keep_of_work (b : Body) (g : Nat) : p (b.syncWork g) = p b := by
  unfold Body.syncWork
  split
  · exact hset b _ _ (.power g)
  · rfl

theorem syncTruss_keep (b : Body) (g : Nat) : p (b.syncTruss g) = p b := by
  unfold Body.syncTruss
  dsimp only
  rw [syncWork_keep_of_work p hset, hset _ _ _ (.truss g)]

include hberths

theorem dropHeld_keep (b : Body) (g : Nat) : p (b.dropHeld g) = p b := (hset _ _ _ (.truss g)).trans (hberths b _)

theorem stopRun_keep_of_work (b : Body) (g : Nat) : p (b.stopRun g) = p b := by
  unfold Body.stopRun
  rw [syncWork_keep_of_work p hset, hset _ _ _ (.joinery g), hset _ _ _ (.joinery g)]
  exact hberths b _

theorem dissolveRaft_keep (b : Body) (lead : Nat) : p (b.dissolveRaft lead) = p b := by
  unfold Body.dissolveRaft
  refine foldl_keep p _ _ b fun b g => ?_
  dsimp only
  rw [hset _ _ _ (.truss g), hset _ _ _ (.truss g), hset _ _ _ (.truss g), hset _ _ _ (.truss g)]
  exact (hberths _ _).trans (dropHeld_keep p hset hberths b g)

variable (hops : ∀ (b : Body) x, p { b with ops := x } = p b)
include hops

theorem leaveQuay_keep (b : Body) (o : TileOp) (q : Nat) : p (b.leaveQuay o q).1 = p b := by
  unfold Body.leaveQuay
  dsimp only
  refine (foldl_keep p _ _ _ fun b g => syncWork_keep_of_work p hset b g).trans ((hops _ _).trans ?_)
  refine foldl_keep p _ _ b fun b l => ?_
  split
  · exact dissolveRaft_keep p hset hberths b l
  · rfl

variable (hcrates : ∀ (b : Body) x, p { b with crates := x } = p b)
include hcrates

theorem dropOp_keep (b : Body) (o : TileOp) : p (b.dropOp o) = p b := by
  have hleft : p (o.quays.foldl (fun (x : Body × TileOp) q => x.1.leaveQuay x.2 q) (b, o)).1 = p b :=
    foldl_keep (fun x : Body × TileOp => p x.1) _ _ (b, o) fun x q => leaveQuay_keep p hset hberths hops x.1 x.2 q
  have hboth : ∀ (b : Body) x y, p { b with ops := x, crates := y } = p b := fun b x y =>
    (hcrates { b with ops := x } y).trans (hops b x)
  unfold Body.dropOp
  dsimp only
  refine (foldl_keep p _ _ _ fun b g => syncWork_keep_of_work p hset b g).trans ?_
  exact (hboth _ _ _).trans hleft

variable (hstruck : ∀ (b : Body) uid, p (b.struckOff uid) = p b)
include hstruck

/-- A command struck off leaves as it is what neither the Berths' registers nor the lists of the units make up. -/
theorem forgetOne_keep (b : Body) (uid : Nat) : p (b.forgetOne uid) = p b := by
  have hop : p (match b.opOf uid with
    | some o => b.dropOp o
    | none => b) = p b := by
    split
    · exact dropOp_keep p hset hberths hops hcrates b _
    · rfl
  refine (hstruck _ uid).trans ?_
  refine (foldl_keep p _ _ _ fun b g => ?_).trans ((foldl_keep p _ _ _ fun b g => ?_).trans hop)
  · exact (syncTruss_keep p hset _ g).trans (hberths b _)
  · rw [stopRun_keep_of_work p hset hberths, dropHeld_keep p hset hberths]

end

@[simp] theorem calm_forgetOne (b : Body) (uid : Nat) : (b.forgetOne uid).calm = b.calm :=
  forgetOne_keep Body.calm (fun b r f v hr => calm_setF b (by cases hr <;> simp) f v) (fun _ _ => rfl) (fun _ _ => rfl) (fun _ _ => rfl)
    (fun _ _ => rfl) b uid

@[simp] theorem calm_abort (b : Body) (fls : List Flight) (status : Nat) : (b.abort fls status).calm = b.calm :=
  (foldl_keep Body.calm _ _ _ fun b fl => calm_fail b fl _ _ _).trans (foldl_keep Body.calm _ _ b fun b fl => calm_forgetOne b fl.uid)

/-! ### What a CTX reset does, one after another -/

section
variable (b : Body)

@[simp] theorem calm_endQueued (slot status : Nat) : (b.endQueued slot status).calm = b.calm := by
  have hskips : ∀ (b : Body) m, ({ b with hm.skips := m } : Body).calm = b.calm := fun _ _ => rfl
  have hended : ∀ (b : Body) (l : List (Nat × Cmd)), (l.foldl (fun b x => b.endUndispatched slot status x) b).calm = b.calm := fun b l =>
    foldl_keep Body.calm _ l b fun b x => (calm_fail _ _ _ _ _).trans rfl
  unfold Body.endQueued
  dsimp only
  refine (foldl_keep Body.calm _ _ _ fun b n => ?_).trans ((foldl_keep Body.calm _ _ _ fun b x => calm_fail b x _ _ _).trans rfl)
  refine (hskips _ _).trans ?_
  rw [calm_setF _ (by simp), calm_setF _ (by simp), hended]

@[simp] theorem calm_syncPipe (p : Nat) (sound : Bool) : (b.syncPipe p sound).calm = b.calm :=
  syncPipe_keep b p Body.calm (fun b f v => calm_setF b (by simp) f v) sound

@[simp] theorem calm_closeStream (k : Nat) : (b.closeStream k).calm = b.calm := by
  have hqueue : ∀ l : List Flight, (l.foldl (fun b fl => b.fail fl 0x41) b).calm = b.calm := fun l =>
    foldl_keep Body.calm _ l b fun b fl => calm_fail b fl _ _ _
  unfold Body.closeStream
  split
  · rfl
  · dsimp only
    split
    · rw [calm_done, calm_setF _ (by simp), calm_setF _ (by simp)]
      exact hqueue _
    · rw [calm_setF _ (by simp), calm_setF _ (by simp)]
      exact hqueue _

@[simp] theorem calm_ferryReset (slot : Nat) : (b.ferryReset slot).calm = b.calm := by
  refine foldl_keep Body.calm _ _ b fun b k => ?_
  unfold Body.ferryClose
  dsimp only
  rw [calm_setReg _ (by simp), calm_closeStream]
  refine (foldl_keep Body.calm _ _ _ fun b fl => calm_fail b fl _ _ _).trans (foldl_keep Body.calm _ _ b fun b i => ?_)
  exact (calm_syncPipe _ _ _).trans rfl

theorem calm_pumpN (l n : Nat) : (b.pumpN l n).calm = b.calm := by
  induction n generalizing b with
  | zero => rfl
  | succ n ih =>
    unfold Body.pumpN
    dsimp only
    split_ifs
    · rfl
    · split
      · rfl
      · split
        · rfl
        · exact (ih _).trans rfl
    · rfl
    · split
      · rfl
      · split
        · rfl
        · exact (ih _).trans rfl

@[simp] theorem calm_lineSend (l vc : Nat) (m : Msg) (uid granule : Option Nat) : (b.lineSend l vc m uid granule).calm = b.calm := by
  have hline : ∀ (c : Body) x, (c.setLine l x).calm = c.calm := fun _ _ => rfl
  have hcapped : ∀ (p : Prop) [Decidable p] (c : Body) n, (if p then c.bump .bwClTally Fld.bwClTallyCapped n else c).calm = c.calm :=
    fun p _ c n => by
      split
      · exact calm_bump c (by simp) _ _
      · rfl
  unfold Body.lineSend Body.pump
  dsimp only
  rw [calm_pumpN, hline]
  split
  · rw [calm_count, hcapped]
    rfl
  · rw [hcapped]
    rfl

@[simp] theorem calm_groupSend (m vc : Nat) (kind : MsgKind) (nums : List Nat) (data : List Byte) (uid : Option Nat) :
    (b.groupSend m vc kind nums data uid).calm = b.calm := by
  unfold Body.groupSend Body.pickLine
  split
  next l c hpick =>
    rw [calm_lineSend]
    split at hpick
    · cases hpick
    · simp only [Prod.mk.injEq] at hpick
      rw [← hpick.2]
      rfl
  next c hpick =>
    split at hpick
    · simp only [Prod.mk.injEq] at hpick
      rw [← hpick.2]
    · simp only [Prod.mk.injEq] at hpick
      rw [← hpick.2]
      rfl

@[simp] theorem calm_endRuns (i status : Nat) : (b.endRuns i status).calm = b.calm := by
  unfold Body.endRuns
  dsimp only
  refine (foldl_keep Body.calm _ _ _ fun b p => ?_).trans ((foldl_keep Body.calm _ _ _ fun b r => calm_fail b _ _ _ _).trans rfl)
  split
  · exact calm_done b _ _
  · rfl

@[simp] theorem calm_releaseGroup (i : Nat) : (b.releaseGroup i).calm = b.calm := by
  refine foldl_keep Body.calm _ _ b fun b r => ?_
  unfold Body.releaseReg
  exact (calm_bump _ (by simp) _ _).trans (calm_bump b (by simp) _ _)

@[simp] theorem calm_endForming (i : Nat) : (b.endForming i).calm = b.calm := by
  unfold Body.endForming
  dsimp only
  split
  · exact (calm_fail _ _ _ _ _).trans rfl
  · rfl

@[simp] theorem calm_dissolve (i status : Nat) : (b.dissolve i status).calm = b.calm := by
  have hln : ∀ (b : Body) x, ({ b with ln := x } : Body).calm = b.calm := fun _ _ => rfl
  unfold Body.dissolve
  dsimp only
  rw [calm_setReg _ (by simp), calm_setReg _ (by simp)]
  refine (hln _ _).trans ?_
  rw [calm_endForming, calm_releaseGroup, calm_endRuns]

@[simp] theorem calm_groupsReset (ctx : Nat) : (b.groupsReset ctx).calm = b.calm := by
  refine foldl_keep Body.calm _ _ b fun b i => ?_
  dsimp only
  rw [calm_dissolve]
  exact foldl_keep Body.calm _ _ b fun b m => calm_groupSend b _ _ _ _ _ _

@[simp] theorem calm_closeMirrors (p : Mirror → Bool) : (b.closeMirrors p).calm = b.calm := by
  unfold Body.closeMirrors Body.syncMirrors
  dsimp only
  rw [calm_setF _ (by simp), calm_setF _ (by simp)]
  refine (foldl_keep Body.calm _ _ _ fun b q => ?_).trans rfl
  split
  · rfl
  · exact calm_done b _ _

@[simp] theorem calm_setCrateEnt (m : CrateMap) (i n : Nat) (e : CrateEnt) : (b.setCrateEnt m i n e).calm = b.calm := calm_store b _ _

@[simp] theorem calm_syncPool (k : Nat) : (b.syncPool k).calm = b.calm :=
  Body.syncPool_keep Body.calm (fun b w => calm_setReg b (by simp) w) b

@[simp] theorem calm_releaseSlot (m : CrateMap) (a : Nat) : (b.releaseSlot m a).calm = b.calm := by
  unfold Body.releaseSlot
  split
  · rfl
  · split
    · rfl
    · dsimp only
      rw [calm_syncPool]
      split
      · exact (calm_storeMapBit b _ _ _)
      · exact calm_storeMapBit b _ _ _

@[simp] theorem calm_moveBack (x : CrateMove) : (b.moveBack x).calm = b.calm := by
  unfold Body.moveBack
  split
  · rfl
  · rw [calm_releaseSlot, calm_setCrateEnt]

@[simp] theorem calm_crateReset (slot : Nat) : (b.crateReset slot).calm = b.calm := by
  have hcrates : ∀ (b : Body) x, ({ b with crates := x } : Body).calm = b.calm := fun _ _ => rfl
  have hdropped : ∀ (b : Body) m i n a, ((b.dropEntry m i n).releaseSlot m a).calm = b.calm := fun b m i n a =>
    (calm_releaseSlot _ m a).trans (calm_setCrateEnt b _ _ _ _)
  unfold Body.crateReset
  dsimp only
  refine (foldl_keep Body.calm _ _ _ fun b k => calm_syncPool b k).trans ((hcrates _ _).trans
    ((foldl_keep Body.calm _ _ _ fun b p => ?_).trans ((foldl_keep Body.calm _ _ _ fun b x => calm_moveBack b x).trans (hcrates _ _))))
  refine foldl_keep Body.calm _ _ b fun b i => foldl_keep Body.calm _ _ b fun b n => ?_
  split
  · exact hdropped b _ _ _ _
  · rfl

@[simp] theorem calm_candidate (h reason : Nat) : (b.candidate h reason).calm = b.calm := by
  unfold Body.candidate
  dsimp only
  split
  · rfl
  · rw [calm_err, calm_setReg _ (by simp)]

@[simp] theorem calm_noteUncorr (a : Nat) : (b.noteUncorr a).calm = b.calm := by
  have htiers : ∀ (b : Body) x, ({ b with tiers := x } : Body).calm = b.calm := fun _ _ => rfl
  unfold Body.noteUncorr
  dsimp only
  split
  · rw [apply_ite Body.calm, calm_candidate, ite_self]
    exact (htiers _ _).trans (calm_bump b (by simp) _ _)
  · rfl

theorem calm_gwDo (a : GwReq) : (b.gwDo a).2.2.calm = b.calm := by
  have hite : ∀ {p : Prop} [Decidable p] {x y : Nat × List Byte × Body} {z : SMap Nat × Bool × Word}, x.2.2.calm = z → y.2.2.calm = z →
      (if p then x else y).2.2.calm = z := fun hx hy => by
    split
    · exact hx
    · exact hy
  have hnoted : ∀ (c : Body) x k u d, (((c.free.2.err 0x0501 1 k u d 0x20).noteUncorr x)).calm = c.calm := fun c x k u d => by
    rw [calm_noteUncorr, calm_err]
    rfl
  unfold Body.gwDo
  dsimp only
  split
  · refine hite ?_ ((calm_readPages _ _ _).trans (calm_tierTraffic b _ _ _ _ _))
    rw [calm_readPages]
    split
    · exact (hnoted _ _ _ _ _).trans (calm_tierTraffic b _ _ _ _ _)
    · exact calm_tierTraffic b _ _ _ _ _
  · refine hite ?_ ((calm_store _ _ _).trans (calm_tierTraffic b _ _ _ _ _))
    rw [calm_store]
    split
    · exact (hnoted _ _ _ _ _).trans (calm_tierTraffic b _ _ _ _ _)
    · exact calm_tierTraffic b _ _ _ _ _
  · refine hite ?_ ((calm_store _ _ _).trans (calm_tierTraffic b _ _ _ _ _))
    split
    · exact (hnoted _ _ _ _ _).trans (calm_tierTraffic b _ _ _ _ _)
    · exact calm_tierTraffic b _ _ _ _ _

@[simp] theorem calm_gwShut (g : Nat) : (b.gwShut g).calm = b.calm := gwShut_keep Body.calm (fun _ _ => rfl) b g

@[simp] theorem calm_gwDrain (g : Nat) : (b.gwDrain g).calm = b.calm := by
  have hdrained : ∀ (l : List GwPend) (c : Body), (l.foldl (fun b p => (b.gwDo p.req).2.2.gwReply p.req (b.gwDo p.req).1 (b.gwDo p.req).2.1) c).calm =
      c.calm := fun l c => foldl_keep Body.calm _ l c fun b p => by
    rw [gwReply_keep Body.calm (fun _ _ => rfl), calm_gwDo]
  unfold Body.gwDrain
  dsimp only
  split
  · exact (hdrained _ _).trans rfl
  · exact (hdrained _ _).trans rfl

@[simp] theorem calm_gwReset (slot : Nat) : (b.gwReset slot).calm = b.calm :=
  foldl_keep Body.calm _ _ b fun b g => (calm_gwDrain _ g).trans (calm_gwShut b g)

@[simp] theorem calm_zeroStart (rs : List Nat) : (b.zeroStart rs).calm = b.calm := by
  refine foldl_keep Body.calm _ _ b fun b r => ?_
  split <;> rfl

@[simp] theorem calm_benchReset (ctx : Nat) : (b.benchReset ctx).calm = b.calm :=
  foldl_keep Body.calm _ _ b fun b g => (calm_setF _ (by simp) _ _).trans rfl

@[simp] theorem calm_claimReset (ctx : Nat) : (b.claimReset ctx).calm = b.calm := by
  refine foldl_keep Body.calm _ _ b fun b q => foldl_keep Body.calm _ _ b fun b n => ?_
  split
  · rw [calm_setReg _ (by simp), calm_setReg _ (by simp)]
  · rfl

end

/-! ### A CTX reset -/

/-- A CTX reset up to the Gangways: the commands of the slot end, and what they held goes. -/
def Body.ctxStopped (b : Body) (slot status : Nat) (keep : Option Nat) : Body :=
  ((((((b.abort (sortBy (fun x y => decide (x.uid ≤ y.uid)) ((b.info slot).saved ++
      b.hm.flights.filter fun x => decide (x.slot = slot ∧ some x.uid ≠ keep))) status).endQueued slot status).ferryReset slot).groupsReset
    (b.ctxOfSlot slot)).closeMirrors fun m => decide (m.slot = slot)).crateReset slot).gwReset slot

/-- What the context holds is cleared. -/
def Body.ctxEmptied (b : Body) (slot ctx : Nat) : Body :=
  (((((b.manifestClear slot).ctxClear slot).zeroStart ((b.manifestClear slot).allotted slot)).benchReset ctx).claimReset ctx).updInfo slot
    fun i => { saveBase := i.saveBase, closing := i.closing }

/-- The registers of the slot and its queues follow. -/
def Body.ctxSettled (b : Body) (slot ctx : Nat) : Body :=
  let b := if slot < 64 then
      let b := b.setF (.hmCtxStat slot) Fld.hmCtxStatSteps 0
      let b := if b.getF (.hmCtxStat slot) Fld.hmCtxStatState = 2 then b.setF (.hmCtxStat slot) Fld.hmCtxStatState 1 else b
      if b.getF .hmStepStat Fld.hmStepStatCtx = ctx then b.setReg .hmStepStat (Reg.dflt .hmStepStat) else b
    else b
  (b.queuesOf ctx).foldl (fun b n => b.syncIn n slot) b

theorem ctxReset_eq (b : Body) (slot status : Nat) (keep : Option Nat) :
    b.ctxReset slot status keep = ((b.ctxStopped slot status keep).ctxEmptied slot (b.ctxOfSlot slot)).ctxSettled slot (b.ctxOfSlot slot) := rfl

theorem ctxSettled_keep {γ : Type} (p : Body → γ) (hset : ∀ (b : Body) k f v, p (b.setF (.hmCtxStat k) f v) = p b)
    (hstep : ∀ (b : Body) w, p (b.setReg .hmStepStat w) = p b) (hsync : ∀ (b : Body) n k, p (b.syncIn n k) = p b) (b : Body) (slot ctx : Nat) :
    p (b.ctxSettled slot ctx) = p b := by
  unfold Body.ctxSettled
  dsimp only
  refine (foldl_keep p _ _ _ fun b n => hsync b n slot).trans ?_
  simp only [apply_ite p, hset, hstep, ite_self]

section
variable (b : Body)

theorem calm_ctxSettled (slot ctx : Nat) : (b.ctxSettled slot ctx).calm = b.calm :=
  ctxSettled_keep Body.calm (fun b _ f v => calm_setF b (by simp) f v) (fun b w => calm_setReg b (by simp) w)
    (fun b n k => calm_syncIn b n k) b slot ctx

theorem calm_ctxEmptied (slot ctx : Nat) : (b.ctxEmptied slot ctx).calm = b.calm := by
  unfold Body.ctxEmptied
  refine Eq.trans (b := (((((b.manifestClear slot).ctxClear slot).zeroStart ((b.manifestClear slot).allotted slot)).benchReset ctx).claimReset
    ctx).calm) rfl ?_
  rw [calm_claimReset, calm_benchReset, calm_zeroStart]
  rfl

theorem calm_ctxStopped (slot status : Nat) (keep : Option Nat) : (b.ctxStopped slot status keep).calm = b.calm := by
  rw [Body.ctxStopped, calm_gwReset, calm_crateReset, calm_closeMirrors, calm_groupsReset, calm_ferryReset, calm_endQueued, calm_abort]

@[simp] theorem calm_ctxReset (slot status : Nat) (keep : Option Nat) : (b.ctxReset slot status keep).calm = b.calm := by
  rw [ctxReset_eq, calm_ctxSettled, calm_ctxEmptied, calm_ctxStopped]

end

theorem allotted_of_calm {b c : Body} (h : c.calm = b.calm) (slot : Nat) : c.allotted slot = b.allotted slot := by
  rw [Body.allotted, show c.st.allot = b.st.allot from congrArg (·.1) h, Body.allotted]

/-! ### What a context holds after it -/

theorem get_of_forall {α : Type} {m : SMap α} {d : α} {k : Nat} {q : α → Prop} (hd : q d) (h : ∀ p ∈ m, p.1 = k → q p.2) :
    q (SMap.get m d k) := by
  induction m with
  | nil => exact hd
  | cons y r ih =>
    unfold SMap.get SMap.find
    split
    next hkey => exact h y List.mem_cons_self hkey
    next => exact ih fun p hp => h p (List.mem_cons_of_mem _ hp)

theorem entry_manifestClear (b : Body) (slot : Nat) {n : Nat} (hn : n < 1024) : ((b.manifestClear slot).entry slot n).valid = false := by
  refine get_of_forall (q := fun e : Entry => e.valid = false) rfl fun p hp hkey => ?_
  obtain ⟨y, -, hy⟩ := List.mem_filterMap.1 hp
  split at hy
  · split at hy
    · cases hy
    · simp only [Option.some.injEq] at hy
      rw [← hy]
  next hslot =>
    simp only [Option.some.injEq] at hy
    subst hy
    omega

theorem sreg_ctxClear (b : Body) (slot : Nat) {r : Nat} (hr : r < 256) : (b.ctxClear slot).sreg slot r = 0 := by
  refine get_of_forall (q := fun w : Word => w = 0) rfl fun p hp hkey => ?_
  have hother := (List.mem_filter.1 hp).2
  simp only [decide_eq_true_eq] at hother
  omega

section
variable (b : Body) (slot ctx : Nat)

theorem zeroStart_hm (rs : List Nat) : (b.zeroStart rs).hm = b.hm :=
  foldl_keep Body.hm _ _ b fun b r => by split <;> rfl

theorem zeroStart_manifest (rs : List Nat) : (b.zeroStart rs).st.manifest = b.st.manifest :=
  foldl_keep (fun b : Body => b.st.manifest) _ _ b fun b r => by split <;> rfl

theorem benchReset_hm : (b.benchReset ctx).hm = b.hm := foldl_keep Body.hm _ _ b fun _ _ => Body.setF_hm _ _ _ _

theorem benchReset_st : (b.benchReset ctx).st = b.st := foldl_keep Body.st _ _ b fun _ _ => Body.setF_st _ _ _ _

theorem claimReset_keep {γ : Type} (p : Body → γ) (h : ∀ (b : Body) r w, p (b.setReg r w) = p b) : p (b.claimReset ctx) = p b := by
  refine foldl_keep p _ _ b fun b q => foldl_keep p _ _ b fun b n => ?_
  split
  · rw [h, h]
  · rfl

theorem ctxEmptied_clears : (∀ r, r < 256 → (b.ctxEmptied slot ctx).sreg slot r = 0) ∧
    (∀ n, n < 1024 → ((b.ctxEmptied slot ctx).entry slot n).valid = false) ∧ ((b.ctxEmptied slot ctx).info slot).saved = [] := by
  refine ⟨fun r hr => ?_, fun n hn => ?_, ?_⟩
  · refine (Body.sreg_congr (b := (b.manifestClear slot).ctxClear slot) ?_ slot r).trans (sreg_ctxClear _ slot hr)
    rw [Body.ctxEmptied, Body.updInfo_hm_sregs, claimReset_keep _ _ Body.hm Body.setReg_hm, benchReset_hm, zeroStart_hm]
  · have hmanifest : (b.ctxEmptied slot ctx).st.manifest = (b.manifestClear slot).st.manifest := by
      rw [Body.ctxEmptied, Body.updInfo_st, claimReset_keep _ _ Body.st Body.setReg_st, benchReset_st, zeroStart_manifest]
      rfl
    rw [Body.entry, hmanifest]
    exact entry_manifestClear b slot hn
  · rw [Body.info, Body.ctxEmptied, Body.updInfo, SMap.get_upd_self]

theorem ctxSettled_hm : (b.ctxSettled slot ctx).hm = b.hm :=
  ctxSettled_keep Body.hm (fun b _ f v => Body.setF_hm b _ f v) (fun b w => Body.setReg_hm b _ w) Body.syncIn_hm b slot ctx

theorem ctxSettled_st : (b.ctxSettled slot ctx).st = b.st :=
  ctxSettled_keep Body.st (fun b _ f v => Body.setF_st b _ f v) (fun b w => Body.setReg_st b _ w) Body.syncIn_st b slot ctx

/-- A CTX reset clears the scalar registers, the Manifest and the saved commands of its slot (R296). -/
theorem ctxReset_clears (status : Nat) (keep : Option Nat) : (∀ r, r < 256 → (b.ctxReset slot status keep).sreg slot r = 0) ∧
    (∀ n, n < 1024 → ((b.ctxReset slot status keep).entry slot n).valid = false) ∧ ((b.ctxReset slot status keep).info slot).saved = [] := by
  obtain ⟨hsregs, hentries, hsaved⟩ := ctxEmptied_clears (b.ctxStopped slot status keep) slot (b.ctxOfSlot slot)
  rw [ctxReset_eq]
  refine ⟨fun r hr => ?_, fun n hn => ?_, ?_⟩
  · rw [Body.sreg_congr (congrArg Harbour.sregs (ctxSettled_hm ..)), hsregs r hr]
  · rw [Body.entry, ctxSettled_st]
    exact hentries n hn
  · rw [Body.info, ctxSettled_hm]
    exact hsaved

end

end Sys2Proof.Machine
end

section
/-! PROOFS. Contexts open and close (R295, R296): what a slot holds once a context is in it, and once none is. -/

namespace Sys2Proof.Machine

/-! ### A slot is taken -/

theorem find?_of_only {α : Type} {l : List α} {p : α → Bool} {n : α} (hn : n ∈ l) (hp : p n = true) (h : ∀ m ∈ l, m ≠ n → p m = false) :
    l.find? p = some n := by
  cases hfound : l.find? p with
  | none => exact absurd (List.find?_eq_none.1 hfound n hn) (by simp [hp])
  | some m =>
    by_contra hne
    have hm : m ≠ n := fun heq => hne (congrArg some heq)
    have hpm := List.find?_some hfound
    rw [h m (List.mem_of_find?_eq_some hfound) hm] at hpm
    cases hpm

theorem freeCtxSlot_lt {b : Body} {k : Nat} (h : b.freeCtxSlot = some k) : k < 64 := List.mem_range.1 (List.mem_of_find?_eq_some h)

theorem hmWqCfg_addr_ne_ctxStat {n slot : Nat} (hn : n < 64) : (Reg.hmWqCfg n).addr ≠ (Reg.hmCtxStat slot).addr := by
  simp only [Reg.addr]
  omega

theorem hmWqCfg_addr_ne_ctxCnt {n slot i : Nat} (hn : n < 64) : (Reg.hmWqCfg n).addr ≠ (Reg.hmCtxCnt slot i).addr := by
  simp only [Reg.addr]
  omega

theorem hmCtxStat_addr_ne_ctxCnt {j slot i : Nat} (hj : j < 64) : (Reg.hmCtxStat j).addr ≠ (Reg.hmCtxCnt slot i).addr := by
  simp only [Reg.addr]
  omega

theorem hmCtxStat_addr_ne {j k : Nat} (h : j ≠ k) : (Reg.hmCtxStat j).addr ≠ (Reg.hmCtxStat k).addr := by
  simp only [Reg.addr]
  omega

/-- The register of a slot as a context takes it. -/
def Body.statTaken (b : Body) (slot id part prio : Nat) : Body :=
  ((((b.setReg (.hmCtxStat slot) (Reg.dflt (.hmCtxStat slot))).setF (.hmCtxStat slot) Fld.hmCtxStatCtx id).setF (.hmCtxStat slot)
    Fld.hmCtxStatPart part).setF (.hmCtxStat slot) Fld.hmCtxStatPrio prio).setF (.hmCtxStat slot) Fld.hmCtxStatState 0

/-- The counters of a slot at their reset values. -/
def Body.countersReset (b : Body) (slot : Nat) : Body :=
  (List.range 16).foldl (fun b i => b.setReg (.hmCtxCnt slot i) (Reg.dflt (.hmCtxCnt slot i))) b

/-- Queues are bound to a context. -/
def Body.queuesBound (b : Body) (ns : List (Fin 64)) (id : Nat) : Body :=
  ns.foldl (fun b (n : Fin 64) => b.setF (.hmWqCfg n.val) Fld.hmWqCfgCtx id) b

/-- A slot's record at the opening of a context. -/
def Body.slotHeld (b : Body) (slot save : Nat) : Body := { b with hm.ctxs := SMap.set b.hm.ctxs {} slot { saveBase := save } }

theorem slotTake_eq (b : Body) (slot id part prio mask save : Nat) :
    b.slotTake slot id part prio mask save =
      (((b.statTaken slot id part prio).countersReset slot).queuesBound (queuesIn mask) id).slotHeld slot save := rfl

section
variable (b : Body) (slot id part prio mask save : Nat)

theorem slotTake_keep {γ : Type} (p : Body → γ) (hset : ∀ (b : Body) r w, p (b.setReg r w) = p b)
    (hctxs : ∀ (b : Body) x, p { b with hm.ctxs := x } = p b) : p (b.slotTake slot id part prio mask save) = p b := by
  rw [slotTake_eq]
  refine (hctxs _ _).trans ((foldl_keep p _ _ _ fun b n => hset b _ _).trans ((foldl_keep p _ _ _ fun b i => hset b _ _).trans ?_))
  exact (hset _ _ _).trans ((hset _ _ _).trans ((hset _ _ _).trans ((hset _ _ _).trans (hset _ _ _))))

theorem sameBytes_slotTake : SameBytes b (b.slotTake slot id part prio mask save) :=
  sameBytes_of (slotTake_keep b slot id part prio mask save Body.mem Body.setReg_mem fun _ _ => rfl)
    (slotTake_keep b slot id part prio mask save Body.haze Body.setReg_haze fun _ _ => rfl)
    (slotTake_keep b slot id part prio mask save Body.bg Body.setReg_bg fun _ _ => rfl)

theorem slotTake_hm : (b.slotTake slot id part prio mask save).hm =
    { b.hm with ctxs := SMap.set b.hm.ctxs {} slot { saveBase := save } } := by
  have hhm : (((b.statTaken slot id part prio).countersReset slot).queuesBound (queuesIn mask) id).hm = b.hm := by
    refine (foldl_keep Body.hm _ _ _ fun b n => Body.setF_hm b _ _ _).trans ((foldl_keep Body.hm _ _ _ fun b i => Body.setReg_hm b _ _).trans ?_)
    simp only [Body.statTaken, Body.setF_hm, Body.setReg_hm]
  rw [slotTake_eq, Body.slotHeld, hhm]

theorem info_slotTake_self : (b.slotTake slot id part prio mask save).info slot = { saveBase := save } := by
  rw [slotTake_eq]
  exact SMap.get_set_self _ _ _ _

theorem info_slotTake_ne {j : Nat} (h : j ≠ slot) : (b.slotTake slot id part prio mask save).info j = b.info j := by
  rw [Body.info, slotTake_hm]
  exact SMap.get_set_ne _ _ _ _ h

theorem reg_countersReset_ne {q : Reg} (h : ∀ i < 16, q.addr ≠ (Reg.hmCtxCnt slot i).addr) : (b.countersReset slot).reg q = b.reg q := by
  have hkept : ∀ (l : List Nat) (c : Body), (∀ i ∈ l, i < 16) →
      (l.foldl (fun b i => b.setReg (.hmCtxCnt slot i) (Reg.dflt (.hmCtxCnt slot i))) c).reg q = c.reg q := fun l c hl => by
    induction l generalizing c with
    | nil => rfl
    | cons i r ih =>
      refine (ih _ fun j hj => hl j (List.mem_cons_of_mem _ hj)).trans (Body.reg_setReg_ne c _ (h i (hl i List.mem_cons_self)))
  exact hkept _ b fun i hi => List.mem_range.1 hi

theorem reg_countersReset_self (hslot : slot < 64) {i : Nat} (hi : i < 16) :
    (b.countersReset slot).reg (.hmCtxCnt slot i) = Reg.dflt (.hmCtxCnt slot i) := by
  have hok : (Reg.hmCtxCnt slot i).ok = true := by simp [Reg.ok, hslot, hi]
  have hset : ∀ (l : List Nat) (c : Body), i ∈ l ∨ c.reg (.hmCtxCnt slot i) = Reg.dflt (.hmCtxCnt slot i) →
      (l.foldl (fun b i => b.setReg (.hmCtxCnt slot i) (Reg.dflt (.hmCtxCnt slot i))) c).reg (.hmCtxCnt slot i) =
        Reg.dflt (.hmCtxCnt slot i) := fun l c hl => by
    induction l generalizing c with
    | nil => exact hl.resolve_left (by simp)
    | cons j r ih =>
      refine ih _ ?_
      by_cases hj : i = j
      · subst hj
        exact .inr (Body.reg_setReg_self c _ hok (by simp [Reg.stored]))
      · rcases hl with hmem | hreg
        · exact .inl ((List.mem_cons.1 hmem).resolve_left hj)
        · exact .inr ((Body.reg_setReg_ne c _ (by simp only [Reg.addr]; omega)).trans hreg)
  exact hset _ b (.inl (List.mem_range.2 hi))

theorem reg_queuesBound_ne {q : Reg} (ns : List (Fin 64)) (h : ∀ n < 64, q.addr ≠ (Reg.hmWqCfg n).addr) :
    (b.queuesBound ns id).reg q = b.reg q :=
  foldl_keep (fun b : Body => b.reg q) (fun b (n : Fin 64) => b.setF (.hmWqCfg n.val) Fld.hmWqCfgCtx id) ns b fun b n =>
    Body.reg_setF_ne b _ _ (h n n.isLt)

theorem ctx_queuesBound (ns : List (Fin 64)) (hid : id < 65536) (n : Fin 64) :
    (b.queuesBound ns id).getF (.hmWqCfg n.val) Fld.hmWqCfgCtx = if n ∈ ns then id else b.getF (.hmWqCfg n.val) Fld.hmWqCfgCtx := by
  induction ns generalizing b with
  | nil => rfl
  | cons m r ih =>
    refine (ih (b.setF (.hmWqCfg m) Fld.hmWqCfgCtx id)).trans ?_
    by_cases hn : n = m
    · subst hn
      rw [Body.getF_setF_self b (r := .hmWqCfg n.val) (f := Fld.hmWqCfgCtx) id (decide_eq_true n.isLt) (by simp [Reg.stored]) (by decide) (by decide)]
      simp only [List.mem_cons, true_or, if_true]
      exact (ite_eq_left_iff.2 fun _ => Nat.mod_eq_of_lt hid)
    · rw [Body.getF_setF_ne _ _ _ _ (by simp only [Reg.addr]; omega)]
      simp only [List.mem_cons, hn, false_or]

/-- A slot that a context takes: its register's fields, and what of it others keep (R295). -/
theorem reg_slotTake_of_queue (n : Fin 64) (hid : id < 65536) :
    (b.slotTake slot id part prio mask save).getF (.hmWqCfg n.val) Fld.hmWqCfgCtx =
      if mask.testBit n.val = true then id else b.getF (.hmWqCfg n.val) Fld.hmWqCfgCtx := by
  have hstat : ((b.statTaken slot id part prio).countersReset slot).getF (.hmWqCfg n.val) Fld.hmWqCfgCtx =
      b.getF (.hmWqCfg n.val) Fld.hmWqCfgCtx := by
    have hne : (Reg.hmWqCfg n.val).addr ≠ (Reg.hmCtxStat slot).addr := hmWqCfg_addr_ne_ctxStat n.isLt
    rw [getF_of_reg_eq (reg_countersReset_ne _ slot fun i hi => hmWqCfg_addr_ne_ctxCnt n.isLt), Body.statTaken,
      Body.getF_setF_ne _ _ _ _ hne, Body.getF_setF_ne _ _ _ _ hne, Body.getF_setF_ne _ _ _ _ hne, Body.getF_setF_ne _ _ _ _ hne,
      getF_of_reg_eq (Body.reg_setReg_ne b _ hne)]
  have hbound := ctx_queuesBound ((b.statTaken slot id part prio).countersReset slot) id (queuesIn mask) hid n
  rw [hstat] at hbound
  rw [slotTake_eq]
  refine hbound.trans ?_
  simp only [queuesIn, List.mem_filter, List.mem_finRange, true_and]

theorem reg_slotTake_stat (hslot : slot < 64) :
    (b.slotTake slot id part prio mask save).reg (.hmCtxStat slot) = (b.statTaken slot id part prio).reg (.hmCtxStat slot) := by
  rw [slotTake_eq]
  exact (reg_queuesBound_ne _ id _ fun n hn => (hmWqCfg_addr_ne_ctxStat hn).symm).trans
    (reg_countersReset_ne _ slot fun i hi => hmCtxStat_addr_ne_ctxCnt hslot)

theorem statTaken_fields (hslot : slot < 64) (hid : id < 65536) (hpart : part < 16) (hprio : prio < 8) :
    (b.statTaken slot id part prio).getF (.hmCtxStat slot) Fld.hmCtxStatCtx = id ∧
      (b.statTaken slot id part prio).getF (.hmCtxStat slot) Fld.hmCtxStatPart = part ∧
      (b.statTaken slot id part prio).getF (.hmCtxStat slot) Fld.hmCtxStatPrio = prio ∧
      (b.statTaken slot id part prio).getF (.hmCtxStat slot) Fld.hmCtxStatState = 0 := by
  have hok := hmCtxStat_ok hslot
  have hstored : (Reg.hmCtxStat slot).stored := by simp [Reg.stored]
  have hapart := fun (c : Body) (f g : Fld) (v : Nat) hl hh hg ha => Body.getF_setF_apart c (f := f) (g := g) v hok hstored hl hh hg ha
  have hself := fun (c : Body) (f : Fld) (v : Nat) hl hh => Body.getF_setF_self c (f := f) v hok hstored hl hh
  unfold Body.statTaken
  refine ⟨?_, ?_, ?_, ?_⟩
  · rw [hapart _ _ _ _ (by decide) (by decide) (by decide) (.inl (by decide)), hapart _ _ _ _ (by decide) (by decide) (by decide) (.inl (by decide)),
      hapart _ _ _ _ (by decide) (by decide) (by decide) (.inl (by decide)), hself _ _ _ (by decide) (by decide)]
    exact Nat.mod_eq_of_lt hid
  · rw [hapart _ _ _ _ (by decide) (by decide) (by decide) (.inl (by decide)), hapart _ _ _ _ (by decide) (by decide) (by decide) (.inl (by decide)),
      hself _ _ _ (by decide) (by decide)]
    exact Nat.mod_eq_of_lt hpart
  · rw [hapart _ _ _ _ (by decide) (by decide) (by decide) (.inl (by decide)), hself _ _ _ (by decide) (by decide)]
    exact Nat.mod_eq_of_lt hprio
  · rw [hself _ _ _ (by decide) (by decide)]
    rfl

theorem reg_slotTake_other {j : Nat} (hj : j < 64) (h : j ≠ slot) :
    (b.slotTake slot id part prio mask save).reg (.hmCtxStat j) = b.reg (.hmCtxStat j) := by
  have hne := hmCtxStat_addr_ne h
  rw [slotTake_eq]
  refine (reg_queuesBound_ne _ id _ fun n hn => (hmWqCfg_addr_ne_ctxStat hn).symm).trans
    ((reg_countersReset_ne _ slot fun i hi => hmCtxStat_addr_ne_ctxCnt hj).trans ?_)
  rw [Body.statTaken, Body.reg_setF_ne _ _ _ hne, Body.reg_setF_ne _ _ _ hne, Body.reg_setF_ne _ _ _ hne, Body.reg_setF_ne _ _ _ hne,
    Body.reg_setReg_ne _ _ hne]

theorem reg_slotTake_counter (hslot : slot < 64) {i : Nat} (hi : i < 16) :
    (b.slotTake slot id part prio mask save).reg (.hmCtxCnt slot i) = Reg.dflt (.hmCtxCnt slot i) := by
  rw [slotTake_eq]
  exact (reg_queuesBound_ne _ id _ fun n hn => (hmWqCfg_addr_ne_ctxCnt hn).symm).trans (reg_countersReset_self _ slot hslot hi)

end

/-! ### What CTX_OPEN and CTX_ADMIT check -/

section
variable {b t : Body} (h : SameChecks b t)
include h

theorem SameChecks.freeCtxSlot : t.freeCtxSlot = b.freeCtxSlot :=
  List.find?_congr fun k hk => by rw [h.getF (q := .hmCtxStat k) (List.mem_range.1 hk)]

theorem SameChecks.slotOf (id : Nat) : t.slotOf id = b.slotOf id := by
  unfold Body.slotOf
  split
  · rfl
  · exact List.find?_congr fun k hk => by simp only [h.getF (q := .hmCtxStat k) (List.mem_range.1 hk)]

theorem SameChecks.saveOk (base : Nat) : t.saveOk base = b.saveOk base := by
  unfold Body.saveOk
  rw [h.rangeOk, h.placeOf]

end

theorem partUp_congr {b c : Body} (hframing : c.framing = b.framing) (hbw : c.bw = b.bw) (p : Nat) : c.partUp p = b.partUp p := by
  unfold Body.partUp
  rw [hframing, hbw]

theorem queueTaken_clampCmd (b : Body) (fl : Flight) (n mask : Nat) : (b.clampCmd fl n).queueTaken mask = b.queueTaken mask := by
  unfold Body.queueTaken
  congr 1
  funext q
  rw [getF_of_reg_eq ((unnoted_hmWqCfg q.isLt).clampCmd b fl n)]

theorem slotOf_eq_none_iff {b : Body} {id : Nat} (hid : id ≠ 0xFFFE) : b.slotOf id = none ↔
    ∀ j < 64, ¬ (b.getF (.hmCtxStat j) Fld.hmCtxStatCtx = id ∧ b.getF (.hmCtxStat j) Fld.hmCtxStatState ≠ 3) := by
  rw [Body.slotOf, if_neg hid, List.find?_eq_none]
  simp only [List.mem_range, decide_eq_true_eq]

/-- A context that no slot held is in the slot it takes. -/
theorem slotOf_of_taken {b c : Body} {id k : Nat} (hid : id ≠ 0xFFFE) (hnone : b.slotOf id = none) (hk : k < 64)
    (hctx : c.getF (.hmCtxStat k) Fld.hmCtxStatCtx = id) (hstate : c.getF (.hmCtxStat k) Fld.hmCtxStatState = 0)
    (hothers : ∀ j < 64, j ≠ k → c.reg (.hmCtxStat j) = b.reg (.hmCtxStat j)) : c.slotOf id = some k := by
  rw [Body.slotOf, if_neg hid]
  refine find?_of_only (List.mem_range.2 hk) (by simp [hctx, hstate]) fun j hj hne => ?_
  have hreg := hothers j (List.mem_range.1 hj) hne
  rw [decide_eq_false_iff_not, getF_of_reg_eq hreg, getF_of_reg_eq hreg]
  exact (slotOf_eq_none_iff hid).1 hnone j (List.mem_range.1 hj)

/-! ### Registers past a command's end -/

theorem reg_done_of_apart {q : Reg} (hlathe : ∀ g < 200, q.addr ≠ (Reg.brLatheStat g).addr)
    (b : Body) (fl : Flight) (r : Nat) : (b.done fl r).reg q = b.reg q := by
  unfold Body.done Body.retire
  dsimp only
  rw [if_neg (by simp), Body.log_reg]
  exact Body.syncShadow_keep (fun b => b.reg q)
    (fun b g v => Body.reg_setF_of_ok_ne b _ v fun hok => hlathe g (of_decide_eq_true hok)) _ _

theorem reg_hmCtxCnt_done {k i : Nat} (hk : k < 64) (hi : i < 16) (b : Body) (fl : Flight) (r : Nat) :
    (b.done fl r).reg (.hmCtxCnt k i) = b.reg (.hmCtxCnt k i) :=
  reg_done_of_apart (fun g hg => by simp only [Reg.addr]; omega) b fl r

theorem info_of_ctxs_eq {b c : Body} (h : c.hm.ctxs = b.hm.ctxs) (k : Nat) : c.info k = b.info k := by
  rw [Body.info, h, Body.info]

/-! ### CTX_OPEN -/

section
variable {s : State} {c : Cmd} {fl : Flight}

/-- CTX_OPEN with its clamps counted. -/
def Body.openClamped (b : Body) (c : Cmd) (fl : Flight) : Body :=
  b.clampCmd fl (diff (c.f 3 47 0 / 4096 * 4096) (c.f 3 47 0))

theorem exec_ctxOpen_full (hd : Dispatched s.body c 0x10 fl) (hfree : s.body.freeCtxSlot = none) :
    exec (.ctxOpen c) s = .next { s with body := (s.body.openClamped c fl).fail fl 0x11 } := by
  change execCtxOpen c s = _
  have hsame := sameChecks_clampCmd s.body fl (diff (c.f 3 47 0 / 4096 * 4096) (c.f 3 47 0))
  simp only [execCtxOpen, State.onBody, Body.onCmd_dispatched hd, hsame.freeCtxSlot, hfree, Body.openClamped]

theorem exec_ctxOpen_of_free (hd : Dispatched s.body c 0x10 fl) {k : Nat} (hfree : s.body.freeCtxSlot = some k) :
    exec (.ctxOpen c) s = .next { s with
      body := if c.f 1 15 0 > 0xFFFD ∨ (s.body.slotOf (c.f 1 15 0)).isSome ∨ ¬ s.body.partUp (c.f 1 19 16) ∨
          ¬ s.body.saveOk (c.f 3 47 0 / 4096 * 4096) then (s.body.openClamped c fl).fail fl 0x11
        else if s.body.queueTaken (c.w 2).toNat then (s.body.openClamped c fl).fail fl 0x60
        else ((s.body.openClamped c fl).slotTake k (c.f 1 15 0) (c.f 1 19 16) (c.f 1 22 20) (c.w 2).toNat
          (c.f 3 47 0 / 4096 * 4096)).done fl } := by
  change execCtxOpen c s = _
  have hsame := sameChecks_clampCmd s.body fl (diff (c.f 3 47 0 / 4096 * 4096) (c.f 3 47 0))
  simp only [execCtxOpen, State.onBody, Body.onCmd_dispatched hd, hsame.freeCtxSlot, hfree, hsame.slotOf, hsame.saveOk,
    queueTaken_clampCmd, partUp_congr (Body.clampCmd_framing ..) (Body.clampCmd_bw ..), Body.openClamped]

theorem ctxOpen_refused {b : Body} {st : Nat} (hb : b = (s.body.openClamped c fl).fail fl st)
    (hexec : exec (.ctxOpen c) s = .next { s with body := b }) :
    Gives (.ctxOpen c) s fun t => OnlyEnds s.body t fl st 0 [] ∧ t.hm.ctxs = s.body.hm.ctxs := by
  subst hb
  exact gives_of_exec hexec ⟨((StillSame.refl s.body).clampCmd fl _).fail fl st 0 0, by simp [Body.openClamped]⟩

/-- What CTX_OPEN makes of its slot. -/
theorem ctxOpen_opens {k : Nat} (hd : Dispatched s.body c 0x10 fl) (hfree : s.body.freeCtxSlot = some k) (hid : c.f 1 15 0 ≤ 0xFFFD)
    (hnone : s.body.slotOf (c.f 1 15 0) = none) (hup : s.body.partUp (c.f 1 19 16) = true)
    (hsave : s.body.saveOk (c.f 3 47 0 / 4096 * 4096) = true) (htaken : s.body.queueTaken (c.w 2).toNat = false) :
    Gives (.ctxOpen c) s fun t => EndsWith s.body t fl 0 0 ∧ SameBytes s.body t ∧
      t.getF (.hmCtxStat k) Fld.hmCtxStatCtx = c.f 1 15 0 ∧ t.getF (.hmCtxStat k) Fld.hmCtxStatPart = c.f 1 19 16 ∧
      t.getF (.hmCtxStat k) Fld.hmCtxStatPrio = c.f 1 22 20 ∧ t.getF (.hmCtxStat k) Fld.hmCtxStatState = 0 ∧
      t.slotOf (c.f 1 15 0) = some k ∧ t.info k = { saveBase := c.f 3 47 0 / 4096 * 4096 } ∧
      (∀ i, i < 16 → t.reg (.hmCtxCnt k i) = Reg.dflt (.hmCtxCnt k i)) ∧
      (∀ n : Fin 64, t.getF (.hmWqCfg n.val) Fld.hmWqCfgCtx =
        if (c.w 2).toNat.testBit n.val = true then c.f 1 15 0 else s.body.getF (.hmWqCfg n.val) Fld.hmWqCfgCtx) ∧
      ∀ j, j ≠ k → t.info j = s.body.info j ∧ (j < 64 → t.reg (.hmCtxStat j) = s.body.reg (.hmCtxStat j)) := by
  have hk := freeCtxSlot_lt hfree
  have hexec := exec_ctxOpen_of_free hd hfree
  simp only [hnone, hup, hsave, htaken, Nat.not_lt.2 hid, Option.isSome_none, Bool.false_eq_true, not_true_eq_false,
    or_self, if_false] at hexec
  have hsame : SameChecks s.body (s.body.openClamped c fl) := sameChecks_clampCmd ..
  have hhm : (s.body.openClamped c fl).hm = s.body.hm := Body.clampCmd_hm ..
  have hbytes : SameBytes s.body (s.body.openClamped c fl) := (sameMemory_clampCmd ..).bytes
  have hcfg : ∀ n < 64, (s.body.openClamped c fl).reg (.hmWqCfg n) = s.body.reg (.hmWqCfg n) := fun n hn => (unnoted_hmWqCfg hn).clampCmd ..
  have hstat : ∀ j < 64, (s.body.openClamped c fl).reg (.hmCtxStat j) = s.body.reg (.hmCtxStat j) := fun j hj => hsame.regs _ hj
  generalize s.body.openClamped c fl = b at hexec hhm hbytes hcfg hstat
  have hid' : c.f 1 15 0 < 65536 := cmd_f_lt c 1 15 0
  have hothers : ∀ j < 64, j ≠ k → (b.slotTake k (c.f 1 15 0) (c.f 1 19 16) (c.f 1 22 20) (c.w 2).toNat
      (c.f 3 47 0 / 4096 * 4096)).reg (.hmCtxStat j) = s.body.reg (.hmCtxStat j) := fun j hj hne =>
    (reg_slotTake_other _ _ _ _ _ _ _ hj hne).trans (hstat j hj)
  have hqueues := fun n : Fin 64 => (reg_slotTake_of_queue b k (c.f 1 15 0) (c.f 1 19 16) (c.f 1 22 20) (c.w 2).toNat
    (c.f 3 47 0 / 4096 * 4096) n hid').trans (by rw [getF_of_reg_eq (hcfg n n.isLt)])
  have hcounters := fun i (hi : i < 16) => reg_slotTake_counter b k (c.f 1 15 0) (c.f 1 19 16) (c.f 1 22 20) (c.w 2).toNat
    (c.f 3 47 0 / 4096 * 4096) hk hi
  have hinfo := info_slotTake_self b k (c.f 1 15 0) (c.f 1 19 16) (c.f 1 22 20) (c.w 2).toNat (c.f 3 47 0 / 4096 * 4096)
  have hinfos := fun j (hne : j ≠ k) => info_slotTake_ne b k (c.f 1 15 0) (c.f 1 19 16) (c.f 1 22 20) (c.w 2).toNat
    (c.f 3 47 0 / 4096 * 4096) hne
  have htakenReg := reg_slotTake_stat b k (c.f 1 15 0) (c.f 1 19 16) (c.f 1 22 20) (c.w 2).toNat (c.f 3 47 0 / 4096 * 4096) hk
  obtain ⟨hctx, hpart, hprio, hstate⟩ := statTaken_fields b k (c.f 1 15 0) (c.f 1 19 16) (c.f 1 22 20) hk hid' (cmd_f_lt c 1 19 16)
    (cmd_f_lt c 1 22 20)
  have htakeBytes := sameBytes_slotTake b k (c.f 1 15 0) (c.f 1 19 16) (c.f 1 22 20) (c.w 2).toNat (c.f 3 47 0 / 4096 * 4096)
  have htakeHm := slotTake_hm b k (c.f 1 15 0) (c.f 1 19 16) (c.f 1 22 20) (c.w 2).toNat (c.f 3 47 0 / 4096 * 4096)
  rw [← getF_of_reg_eq htakenReg] at hctx hpart hprio hstate
  generalize b.slotTake k (c.f 1 15 0) (c.f 1 19 16) (c.f 1 22 20) (c.w 2).toNat (c.f 3 47 0 / 4096 * 4096) = t at *
  have hdone : ∀ {j}, j < 64 → ∀ f, (t.done fl).getF (.hmCtxStat j) f = t.getF (.hmCtxStat j) f := fun hj f =>
    getF_of_reg_eq ((unnoted_hmCtxStat hj).done t fl 0) f
  refine gives_of_exec hexec ⟨Body.endsWith_done fl 0 ?_, hbytes.trans (htakeBytes.trans (sameBytes_retire t fl 0 0 false)),
    (hdone hk _).trans hctx, (hdone hk _).trans hpart, (hdone hk _).trans hprio, (hdone hk _).trans hstate, ?_, ?_, fun i hi => ?_,
    fun n => ?_, fun j hne => ⟨?_, fun hj => ?_⟩⟩
  · rw [htakeHm, hhm]
  · exact slotOf_of_taken (by omega) hnone hk ((hdone hk _).trans hctx) ((hdone hk _).trans hstate) fun j hj hne =>
      ((unnoted_hmCtxStat hj).done t fl 0).trans (hothers j hj hne)
  · exact (info_of_ctxs_eq (Body.done_hm_ctxs t fl 0) k).trans hinfo
  · exact (reg_hmCtxCnt_done hk hi t fl 0).trans (hcounters i hi)
  · exact (getF_of_reg_eq ((unnoted_hmWqCfg n.isLt).done t fl 0) _).trans (hqueues n)
  · rw [info_of_ctxs_eq (Body.done_hm_ctxs t fl 0) j, hinfos j hne, info_of_ctxs_eq (congrArg Harbour.ctxs hhm)]
  · exact ((unnoted_hmCtxStat hj).done t fl 0).trans (hothers j hj hne)

end

/-! ### A slot is freed -/

theorem dflt_hmCtxStat_state {b : Body} {k : Nat} (h : b.reg (.hmCtxStat k) = Reg.dflt (.hmCtxStat k)) :
    b.getF (.hmCtxStat k) Fld.hmCtxStatState = 3 := by
  rw [Body.getF, h]
  exact resetWord_fld [] (.hmCtxStat k) (f := Fld.hmCtxStatState) (by simp [Reg.fields])

theorem slotFree_frees (b : Body) {slot : Nat} (hslot : slot < 64) :
    (b.slotFree slot).reg (.hmCtxStat slot) = Reg.dflt (.hmCtxStat slot) ∧ (b.slotFree slot).info slot = {} := by
  unfold Body.slotFree
  dsimp only
  refine ⟨Body.reg_setReg_self _ _ (hmCtxStat_ok hslot) (by simp [Reg.stored]), ?_⟩
  rw [Body.info, Body.setReg_hm, SMap.get, SMap.find_drop_self]
  rfl

/-- A slot freed before a command ends is free after it, and that end is the last. -/
theorem slotFreed_done {b : Body} {slot : Nat} (hslot : slot < 64) (hreg : b.reg (.hmCtxStat slot) = Reg.dflt (.hmCtxStat slot))
    (hinfo : b.info slot = {}) (fl : Flight) : (b.done fl).getF (.hmCtxStat slot) Fld.hmCtxStatState = 3 ∧ (b.done fl).info slot = {} ∧
      ∃ l e, (b.done fl).hm.ended = l ++ [e] ∧ e.fl.uid = fl.uid ∧ e.status = 0 := by
  obtain ⟨⟨e, hended, huid, -, hstatus, -⟩, -⟩ := Body.endsWith_done (b := b) fl 0 (c := b) rfl
  exact ⟨dflt_hmCtxStat_state (((unnoted_hmCtxStat hslot).done b fl 0).trans hreg),
    (info_of_ctxs_eq (Body.done_hm_ctxs b fl 0) slot).trans hinfo, b.hm.ended, e, hended, huid, hstatus⟩

theorem qpDelete_keep {γ : Type} (p : Body → γ) (hset : ∀ (b : Body) k w, p (b.setReg (.epQpStat k) w) = p b)
    (heth : ∀ (b : Body) qps cqs, p { b with eth.qps := qps, eth.cqs := cqs } = p b) (b : Body) (k : Nat) : p (b.qpDelete k) = p b :=
  (heth (b.setReg (.epQpStat k) (Reg.dflt (.epQpStat k))) _ _).trans (hset b k _)

/-! ### Commands that name a context -/

section
variable {s : State} {c : Cmd} {fl : Flight} {k : Nat}

theorem onContext_of_resident {opc : Nat} (hd : Dispatched s.body c opc fl) (hslot : s.body.slotOf (c.f 1 15 0) = some k) (hk : k < 64)
    (hopen : (s.body.info k).closing = false) (f : Body → Flight → Nat → Body) : s.body.onContext c opc f = f s.body fl k := by
  simp only [Body.onContext, Body.onCmd_dispatched hd, hslot, hk, hopen, Bool.false_eq_true, not_false_eq_true, and_self, if_true]

theorem onContext_of_absent {opc : Nat} (hd : Dispatched s.body c opc fl)
    (hslot : s.body.slotOf (c.f 1 15 0) = none ∨ s.body.slotOf (c.f 1 15 0) = some 64) (f : Body → Flight → Nat → Body) :
    s.body.onContext c opc f = (s.body.dropHalting fl.uid).fail fl 0x11 := by
  rcases hslot with hslot | hslot <;> simp only [Body.onContext, Body.onCmd_dispatched hd, hslot]
  exact if_neg (by simp)

theorem stillSame_dropHalting (b : Body) (uid : Nat) : StillSame b (b.dropHalting uid) :=
  ⟨rfl, sameBytes_of rfl rfl rfl, fun _ _ _ => rfl⟩

/-- A command refused while it may wait for a pre-emption: HOLD_RANGE, no context and no scalar register changed. -/
theorem gives_of_dropHalting {i : Instr} (h : exec i s = .next { s with body := (s.body.dropHalting fl.uid).fail fl 0x11 }) :
    Gives i s fun t => OnlyEnds s.body t fl 0x11 0 [] ∧ t.hm.ctxs = s.body.hm.ctxs ∧ t.hm.sregs = s.body.hm.sregs :=
  gives_of_exec h ⟨(stillSame_dropHalting s.body fl.uid).fail fl 0x11 0 0, by rw [Body.fail_hm_ctxs]; rfl, by rw [Body.fail_hm_sregs]; rfl⟩

theorem context_absent {i : Instr} {opc : Nat}
    (h : (i, opc) ∈ [(Instr.ctxClose c, 0x11), (.ctxReset c, 0x12), (.ctxHalt c, 0x13), (.ctxResume c, 0x14), (.ctxEvict c, 0x15)])
    (hslot : s.body.slotOf (c.f 1 15 0) = none ∨ s.body.slotOf (c.f 1 15 0) = some 64) (hd : Dispatched s.body c opc fl) :
    exec i s = .next { s with body := (s.body.dropHalting fl.uid).fail fl 0x11 } := by
  simp only [List.mem_cons, Prod.mk.injEq, List.not_mem_nil, or_false] at h
  rcases h with ⟨rfl, rfl⟩ | ⟨rfl, rfl⟩ | ⟨rfl, rfl⟩ | ⟨rfl, rfl⟩ | ⟨rfl, rfl⟩
  · change execCtxClose c s = _
    rw [execCtxClose, State.onBody, onContext_of_absent hd hslot]
  · change execCtxReset c s = _
    rw [execCtxReset, State.onBody, onContext_of_absent hd hslot]
  · change execCtxHalt c s = _
    rw [execCtxHalt, State.onBody, onContext_of_absent hd hslot]
  · change execCtxResume c s = _
    rw [execCtxResume, State.onBody, onContext_of_absent hd hslot]
  · change execCtxEvict c s = _
    rw [execCtxEvict, State.onBody, Body.onCmd_dispatched hd]
    rcases hslot with hslot | hslot <;> simp only [hslot]
    exact congrArg _ (congrArg _ (if_pos (.inl (Nat.le_refl 64))))

/-! ### CTX_CLOSE and CTX_RESET -/

theorem closeEnd_closes (b : Body) (hk : k < 64) (fl : Flight) : (b.closeEnd k fl).getF (.hmCtxStat k) Fld.hmCtxStatState = 3 ∧
    (b.closeEnd k fl).info k = {} ∧ ∃ l e, (b.closeEnd k fl).hm.ended = l ++ [e] ∧ e.fl.uid = fl.uid ∧ e.status = 0 := by
  unfold Body.closeEnd
  dsimp only
  obtain ⟨hreg, hinfo⟩ := slotFree_frees
    { b.flushSlot k with st.allot := (b.flushSlot k).st.allot.filter fun p => decide (p.2 ≠ k + 1) } hk
  generalize Body.slotFree { b.flushSlot k with st.allot := (b.flushSlot k).st.allot.filter fun p => decide (p.2 ≠ k + 1) } k = d at hreg hinfo ⊢
  generalize List.filter _ _ = qs
  refine slotFreed_done hk ?_ ?_ fl
  · exact (foldl_keep (fun b : Body => b.reg (.hmCtxStat k)) Body.qpDelete qs d fun b q =>
      qpDelete_keep (fun b : Body => b.reg (.hmCtxStat k)) (fun b j w => Body.reg_setReg_ne b w (by simp only [Reg.addr]; omega))
        (fun _ _ _ => rfl) b q).trans hreg
  · exact (foldl_keep (fun b : Body => b.info k) Body.qpDelete qs d fun b q =>
      qpDelete_keep (fun b : Body => b.info k) (fun b j w => congrArg (fun x : Harbour => SMap.get x.ctxs {} k) (Body.setReg_hm b _ w))
        (fun _ _ _ => rfl) b q).trans hinfo

theorem ctxClose_closes (hd : Dispatched s.body c 0x11 fl) (hslot : s.body.slotOf (c.f 1 15 0) = some k) (hk : k < 64)
    (hopen : (s.body.info k).closing = false) (hallot : s.body.allotted k = []) : Gives (.ctxClose c) s fun t =>
      t.getF (.hmCtxStat k) Fld.hmCtxStatState = 3 ∧ t.info k = {} ∧ ∃ l e, t.hm.ended = l ++ [e] ∧ e.fl.uid = fl.uid ∧ e.status = 0 := by
  have hcalm : ((s.body.updInfo k fun i => { i with closing := true }).ctxReset k 0x41 (some fl.uid)).calm = s.body.calm :=
    calm_ctxReset _ _ _ _
  have hexec : exec (.ctxClose c) s = .next { s with
      body := ((s.body.updInfo k fun i => { i with closing := true }).ctxReset k 0x41 (some fl.uid)).closeEnd k fl } := by
    change execCtxClose c s = _
    rw [execCtxClose, State.onBody, onContext_of_resident hd hslot hk hopen]
    dsimp only
    rw [allotted_of_calm hcalm, hallot, if_pos (by simp)]
  exact gives_of_exec hexec (closeEnd_closes _ hk fl)

theorem ctxReset_resets (hd : Dispatched s.body c 0x12 fl) (hslot : s.body.slotOf (c.f 1 15 0) = some k) (hk : k < 64)
    (hopen : (s.body.info k).closing = false) : exec (.ctxReset c) s = .next { s with
      body := (s.body.ctxReset k 0x41 (some fl.uid)).zeroAwait fl (s.body.allotted k) } := by
  change execCtxReset c s = _
  rw [execCtxReset, State.onBody, onContext_of_resident hd hslot hk hopen]

/-- A command that awaits a zeroing ends DONE where none goes on, and is kept until it is over. -/
theorem zeroAwait_spec (b : Body) (fl : Flight) (rs : List Nat) :
    (b.zeroAwait fl rs).hm.sregs = b.hm.sregs ∧ (b.zeroAwait fl rs).st.manifest = b.st.manifest ∧ (b.zeroAwait fl rs).hm.ctxs = b.hm.ctxs ∧
      if rs.filter (fun r => decide (r ∈ b.st.zeroing)) = [] then EndsWith b (b.zeroAwait fl rs) fl 0 0
      else (b.zeroAwait fl rs).hm.ended = b.hm.ended ∧
        (b.zeroAwait fl rs).st.zeroWait = b.st.zeroWait ++ [(fl, rs.filter fun r => decide (r ∈ b.st.zeroing))] := by
  unfold Body.zeroAwait
  dsimp only
  split
  · exact ⟨by simp, by simp, by simp, Body.endsWith_done fl 0 rfl⟩
  · exact ⟨rfl, rfl, rfl, rfl, rfl⟩

/-! ### WQ_CFG -/

theorem exec_wqCfg (hd : Dispatched s.body c 0x17 fl) : exec (.wqCfg c) s = .next { s with
    body := (((s.body.clampCmd fl (diff (max 1 (c.f 1 23 16)) (c.f 1 23 16))).setF (.hmWqCfg (c.f 1 5 0)) Fld.hmWqCfgPrio (c.f 1 10 8)).setF
      (.hmWqCfg (c.f 1 5 0)) Fld.hmWqCfgWeight (max 1 (c.f 1 23 16))).done fl } := by
  change execWqCfg c s = _
  rw [execWqCfg, State.onBody, Body.onCmd_dispatched hd]

theorem wqCfg_sets (hd : Dispatched s.body c 0x17 fl) : Gives (.wqCfg c) s fun t =>
    OnlyEnds s.body t fl 0 0 [(Reg.hmWqCfg (c.f 1 5 0)).addr] ∧
      t.getF (.hmWqCfg (c.f 1 5 0)) Fld.hmWqCfgPrio = c.f 1 10 8 ∧ t.getF (.hmWqCfg (c.f 1 5 0)) Fld.hmWqCfgWeight = max 1 (c.f 1 23 16) ∧
      t.getF (.hmWqCfg (c.f 1 5 0)) Fld.hmWqCfgCtx = s.body.getF (.hmWqCfg (c.f 1 5 0)) Fld.hmWqCfgCtx := by
  have hn : c.f 1 5 0 < 64 := cmd_f_lt c 1 5 0
  have hprio : c.f 1 10 8 < 8 := cmd_f_lt c 1 10 8
  have hweight : max 1 (c.f 1 23 16) < 256 := max_lt (by decide) (cmd_f_lt c 1 23 16)
  have hexec := exec_wqCfg hd
  obtain ⟨hended, hbytes, hregs⟩ := (StillSame.refl s.body).clampCmd fl (diff (max 1 (c.f 1 23 16)) (c.f 1 23 16))
  have hcfg := (unnoted_hmWqCfg hn).clampCmd s.body fl (diff (max 1 (c.f 1 23 16)) (c.f 1 23 16))
  generalize s.body.clampCmd fl (diff (max 1 (c.f 1 23 16)) (c.f 1 23 16)) = b at hexec hended hbytes hregs hcfg
  have hok : (Reg.hmWqCfg (c.f 1 5 0)).ok = true := decide_eq_true hn
  have hstored : (Reg.hmWqCfg (c.f 1 5 0)).stored := by simp [Reg.stored]
  have hapart := fun (b : Body) (f g : Fld) (v : Nat) hl hh hg ha => Body.getF_setF_apart b (f := f) (g := g) v hok hstored hl hh hg ha
  have hself := fun (b : Body) (f : Fld) (v : Nat) hl hh => Body.getF_setF_self b (f := f) v hok hstored hl hh
  have hdone := fun (b : Body) (f : Fld) => getF_of_reg_eq ((unnoted_hmWqCfg hn).done b fl 0) f
  refine gives_of_exec hexec ⟨⟨Body.endsWith_done fl 0 (by simpa using hended), ?_, fun q hq hl => ?_⟩, ?_, ?_, ?_⟩
  · exact hbytes.trans (sameBytes_of (by simp) (by simp) (by simp))
  · rw [Body.reg_done _ fl 0 hq, Body.reg_setF_ne _ _ _ (List.ne_of_not_mem_cons hl), Body.reg_setF_ne _ _ _ (List.ne_of_not_mem_cons hl),
      hregs q hq (by simp)]
  · rw [hdone, hapart _ _ _ _ (by decide) (by decide) (by decide) (.inl (by decide)), hself _ _ _ (by decide) (by decide)]
    exact Nat.mod_eq_of_lt hprio
  · rw [hdone, hself _ _ _ (by decide) (by decide)]
    exact Nat.mod_eq_of_lt hweight
  · rw [hdone, hapart _ _ _ _ (by decide) (by decide) (by decide) (.inl (by decide)),
      hapart _ _ _ _ (by decide) (by decide) (by decide) (.inl (by decide)), getF_of_reg_eq hcfg]

end

/-- Settles O38, command by command. -/
theorem contextsOpenAndClose : Obligations.ContextsOpenAndClose := by
  rintro s c fl id part base rfl rfl rfl
  refine ⟨fun hd => ⟨fun k hfree hid hnone hup hsave htaken => ctxOpen_opens hd hfree hid hnone hup hsave htaken,
      fun hbad => ?_, fun k hfree hid hnone hup hsave htaken => ?_⟩,
    fun i opc hmem hslot hd => gives_of_dropHalting (context_absent hmem hslot hd),
    fun k hd hslot hk hopen hallot => ctxClose_closes hd hslot hk hopen hallot, fun k b' hd hslot hk hopen hb' => ?_, fun n hn hd => ?_⟩
  · cases hfree : s.body.freeCtxSlot with
    | none => exact ctxOpen_refused rfl (exec_ctxOpen_full hd hfree)
    | some k =>
      refine ctxOpen_refused (st := 0x11) rfl ((exec_ctxOpen_of_free hd hfree).trans (congrArg _ (congrArg _ (if_pos ?_))))
      simpa [hfree, ← Option.ne_none_iff_isSome] using hbad
  · refine ctxOpen_refused (st := 0x60) rfl ((exec_ctxOpen_of_free hd hfree).trans ?_)
    simp [hid, hnone, hup, hsave, htaken]
  · subst hb'
    obtain ⟨hsregs, hentries, hsaved⟩ := ctxReset_clears s.body k 0x41 (some fl.uid)
    obtain ⟨hkeepS, hkeepM, hkeepC, hend⟩ := zeroAwait_spec (s.body.ctxReset k 0x41 (some fl.uid)) fl (s.body.allotted k)
    refine gives_of_exec (ctxReset_resets hd hslot hk hopen) ⟨fun r hr => ?_, fun j hj => ?_, ?_, hend⟩
    · exact (Body.sreg_congr hkeepS k r).trans (hsregs r hr)
    · rw [Body.entry, hkeepM]
      exact hentries j hj
    · rw [info_of_ctxs_eq hkeepC]
      exact hsaved
  · subst hn
    exact wqCfg_sets hd

end Sys2Proof.Machine
end

section
/-! PROOFS. Contexts halt, resume, go out and come back (R295, R304, R306): what the writes of a pre-emption leave as it is, how a
pre-emption begins and completes, and what a context finds when it goes on. -/

namespace Sys2Proof.Machine

/-! ### Writes to memory, whatever the memory -/

theorem setBytes_keep {γ : Type} (p : Body → γ) (hmem : ∀ (b : Body) m, p { b with mem := m } = p b) (b : Body) (a : Nat) (l : List Byte) :
    p (b.setBytes a l) = p b := by
  induction l generalizing b a with
  | nil => rfl
  | cons v l ih =>
    refine (ih _ _).trans ?_
    unfold Body.setByte
    split <;> exact hmem b _

/-- A store changes, beside memory and the tiers, only the mirrors' dirty count, the registers of flash life, and what an error record
changes. -/
theorem store_keep_apart {γ : Type} (p : Body → γ) (hmem : ∀ (b : Body) m, p { b with mem := m } = p b)
    (htiers : ∀ (b : Body) t, p { b with tiers := t } = p b) (hdirty : ∀ (b : Body) n, p (b.bump .bwTwinStat Fld.bwTwinStatDirty n) = p b)
    (hlife : ∀ (b : Body) f v, p (b.setF .mtFlashLife f v) = p b)
    (herr : ∀ (b : Body) code sev kind unit d, p (b.err code sev kind unit d) = p b) (b : Body) (a : Nat) (row : List Byte) :
    p (b.store a row) = p b := by
  have hbyte : ∀ (b : Body) x v, p (b.setByte x v) = p b := fun b x v => setBytes_keep p hmem b x [v]
  have hflash : ∀ b : Body, p b.flashLife = p b := fun b => by
    unfold Body.flashLife
    dsimp only
    simp only [apply_ite p, herr, hlife, ite_self]
  have hprogram : ∀ (b : Body) a n, p (b.program a n) = p b := fun b a n =>
    Body.program_keep p (fun b _ => htiers b _) (fun b _ _ => (hflash _).trans (htiers b _)) b a n
  have hmark : ∀ (b : Body) m i, p (b.markGranule m i) = p b := fun b m i => by
    unfold Body.markGranule Body.setMapBit
    split
    · rfl
    · rw [hdirty, hbyte]
  have hmirrors : ∀ (b : Body) a n, p (b.markMirrors a n) = p b := fun b a n => by
    unfold Body.markMirrors
    split
    · rfl
    · refine foldl_keep p _ _ b fun b m => ?_
      dsimp only
      split
      · rfl
      · exact foldl_keep p _ _ b fun b i => hmark b m _
  unfold Body.store
  dsimp only
  rw [hmirrors, hprogram]
  split
  · rw [setBytes_keep p hmem]
    exact htiers b _
  · refine (foldl_keep p _ _ _ fun c i => ?_).trans (htiers b _)
    split
    · rfl
    · exact hbyte c _ _

/-- What a store, a count of a context and an error record leave of a context: what the Harbourmaster holds, and the register of its slot. -/
def Body.seat (b : Body) (k : Nat) : Harbour × Word := (b.hm, b.reg (.hmCtxStat k))

section
variable {b c : Body} {k : Nat}

theorem hm_of_seat (h : c.seat k = b.seat k) : c.hm = b.hm := congrArg Prod.fst h

theorem reg_of_seat (h : c.seat k = b.seat k) : c.reg (.hmCtxStat k) = b.reg (.hmCtxStat k) := congrArg Prod.snd h

theorem state_of_seat (h : c.seat k = b.seat k) : c.getF (.hmCtxStat k) Fld.hmCtxStatState = b.getF (.hmCtxStat k) Fld.hmCtxStatState :=
  getF_of_reg_eq (reg_of_seat h) _

theorem seat_of (hhm : c.hm = b.hm) (hreg : c.reg (.hmCtxStat k) = b.reg (.hmCtxStat k)) : c.seat k = b.seat k :=
  congrArg₂ Prod.mk hhm hreg

end

section
variable (b : Body) {k : Nat} (hk : k < 64)
include hk

theorem seat_store (a : Nat) (row : List Byte) : (b.store a row).seat k = b.seat k :=
  store_keep_apart (fun b => b.seat k) (fun _ _ => rfl) (fun _ _ => rfl)
    (fun b n => seat_of (Body.bump_hm ..) (Body.reg_bump_ne b _ n (by simp only [Reg.addr]; omega)))
    (fun b f v => seat_of (Body.setF_hm ..) (Body.reg_setF_ne b f v (by simp only [Reg.addr]; omega)))
    (fun b code sev kind unit d => seat_of (Body.err_hm ..) ((unnoted_hmCtxStat hk).error b code sev kind unit d 0 0xFFFF)) b a row

theorem seat_count (slot i n : Nat) : (b.count slot i n).seat k = b.seat k :=
  seat_of (Body.count_hm ..) ((unnoted_hmCtxStat hk).count b slot i n)

theorem seat_writeBatch (slot : Nat) : (b.writeBatch slot).seat k = b.seat k := seat_store b hk _ _

theorem seat_writeSaved (slot : Nat) : (b.writeSaved slot).seat k = b.seat k := by
  unfold Body.writeSaved
  refine foldl_keep (fun b : Body => b.seat k) _ _ b fun c j => ?_
  split
  · exact seat_store c hk _ _
  · rfl

end

/-! ### A pre-emption -/

section
variable {b : Body} {k : Nat}

theorem hmCtxStat_stored (k : Nat) : (Reg.hmCtxStat k).stored := by simp [Reg.stored]

theorem state_setState (b : Body) (hk : k < 64) (v : Nat) :
    (b.setF (.hmCtxStat k) Fld.hmCtxStatState v).getF (.hmCtxStat k) Fld.hmCtxStatState = v % 4 :=
  Body.getF_setF_self b v (hmCtxStat_ok hk) (hmCtxStat_stored k) (by decide) (by decide)

theorem stopWaits_of_none (h : b.hm.waits = []) (slot : Nat) : b.stopWaits slot = b := by
  unfold Body.stopWaits
  rw [h]
  dsimp only [List.map_nil, List.filter_nil]
  split <;> rfl

theorem saving_of_state (hk : k < 64) (h : b.getF (.hmCtxStat k) Fld.hmCtxStatState = 2) : b.saving k = true := by
  simp [Body.saving, hk, h]

/-- A pre-emption with a command still at work goes on. -/
theorem preemptCheck_of_busy {f : Flight} (hf : f ∈ b.hm.flights) (hslot : f.slot = k) (hstep : (b.info k).step = none)
    (hhalt : ∀ p ∈ b.hm.halting, p.1.uid ≠ f.uid) : b.preemptCheck k = b := by
  unfold Body.preemptCheck
  split
  · rfl
  · refine if_pos ?_
    have hnone : (b.hm.halting.any fun p => decide (p.1.uid = f.uid ∧ p.2 = k)) = false :=
      List.any_eq_false.2 fun p hp => by simp [hhalt p hp]
    rw [Bool.or_eq_true, List.any_eq_true]
    exact .inl ⟨f, hf, by simp only [hslot, hstep, hnone, Option.any_none, decide_true, Bool.not_false, Bool.and_self]⟩

/-- With no command of the context left, its pre-emption is complete. -/
theorem preemptCheck_of_clear (hsaving : b.saving k = true) (hflights : ∀ f ∈ b.hm.flights, f.slot ≠ k)
    (hended : ∀ e ∈ b.hm.ended, e.fl.slot ≠ k) :
    b.preemptCheck k = ((b.setF (.hmCtxStat k) Fld.hmCtxStatState 1).count k 14 1).writeBatch k := by
  unfold Body.preemptCheck
  rw [if_neg (not_not.2 hsaving)]
  refine if_neg ?_
  rw [Bool.or_eq_true, List.any_eq_true, List.any_eq_true]
  rintro (⟨f, hf, h⟩ | ⟨e, he, h⟩)
  · exact hflights f hf (of_decide_eq_true (Bool.and_eq_true_iff.1 h).1)
  · exact hended e he (of_decide_eq_true (Bool.and_eq_true_iff.1 h).1)

theorem preempt_of_running (hstate : b.getF (.hmCtxStat k) Fld.hmCtxStatState = 0) (hecc : (b.info k).eccPending = false)
    (hwaits : b.hm.waits = []) (keep : Option Nat) :
    b.preempt k keep = (b.setF (.hmCtxStat k) Fld.hmCtxStatState 2).preemptCheck k := by
  rw [Body.preempt, if_neg (not_not.2 hstate), if_neg (by simp [hecc]), stopWaits_of_none (by rw [Body.setF_hm, hwaits])]

theorem preempt_of_stopped (hstate : b.getF (.hmCtxStat k) Fld.hmCtxStatState ≠ 0) (keep : Option Nat) : b.preempt k keep = b :=
  if_pos hstate

/-- The pre-emption of a context with no command at work: it is halted, and no command has come or gone. -/
theorem preempt_halts (hk : k < 64) (hstate : b.getF (.hmCtxStat k) Fld.hmCtxStatState = 0) (hecc : (b.info k).eccPending = false)
    (hwaits : b.hm.waits = []) (hflights : ∀ f ∈ b.hm.flights, f.slot ≠ k) (hended : ∀ e ∈ b.hm.ended, e.fl.slot ≠ k) (keep : Option Nat) :
    (b.preempt k keep).hm = b.hm ∧ (b.preempt k keep).getF (.hmCtxStat k) Fld.hmCtxStatState = 1 := by
  rw [preempt_of_running hstate hecc hwaits, preemptCheck_of_clear (saving_of_state hk (state_setState b hk 2))
    (by simpa using hflights) (by simpa using hended)]
  have hseat := (seat_writeBatch (((b.setF (.hmCtxStat k) Fld.hmCtxStatState 2).setF (.hmCtxStat k) Fld.hmCtxStatState 1).count k 14 1) hk k).trans
    (seat_count ((b.setF (.hmCtxStat k) Fld.hmCtxStatState 2).setF (.hmCtxStat k) Fld.hmCtxStatState 1) hk k 14 1)
  refine ⟨(hm_of_seat hseat).trans (by simp), (state_of_seat hseat).trans (state_setState _ hk 1)⟩

end

/-! ### CTX_HALT -/

section
variable {s : State} {c : Cmd} {fl : Flight} {k : Nat}

theorem noteHalting_eq (b : Body) (fl : Flight) (k : Nat) : ∃ l, b.noteHalting fl k = { b with hm.halting := l } ∧
    (b.hm.halting = [] → l = [(fl, k)]) := by
  unfold Body.noteHalting
  split
  next h => exact ⟨b.hm.halting, rfl, fun hnil => by simp [hnil] at h⟩
  next => exact ⟨_, rfl, fun hnil => by rw [hnil]; rfl⟩

section
variable (hd : Dispatched s.body c 0x13 fl) (hslot : s.body.slotOf (c.f 1 15 0) = some k) (hk : k < 64)
  (hopen : (s.body.info k).closing = false)
include hd hslot hk hopen

theorem exec_ctxHalt : exec (.ctxHalt c) s = .next { s with
    body := if ((s.body.noteHalting fl k).preempt k (some fl.uid)).getF (.hmCtxStat k) Fld.hmCtxStatState ≠ 1
      then (s.body.noteHalting fl k).preempt k (some fl.uid)
      else (if c.b 1 16 then (((s.body.noteHalting fl k).preempt k (some fl.uid)).dropHalting fl.uid).haltDiscard k
        else ((s.body.noteHalting fl k).preempt k (some fl.uid)).dropHalting fl.uid).done fl } := by
  change execCtxHalt c s = _
  rw [execCtxHalt, State.onBody, onContext_of_resident hd hslot hk hopen]

variable (hstate : s.body.getF (.hmCtxStat k) Fld.hmCtxStatState = 0) (hecc : (s.body.info k).eccPending = false)
  (hwaits : s.body.hm.waits = [])
include hstate hecc hwaits

theorem ctxHalt_halts (hended : ∀ e ∈ s.body.hm.ended, e.fl.slot ≠ k) (hflights : ∀ f ∈ s.body.hm.flights, f.slot ≠ k)
    (hkeep : c.b 1 16 = false) :
    Gives (.ctxHalt c) s fun t => EndsWith s.body t fl 0 0 ∧ t.getF (.hmCtxStat k) Fld.hmCtxStatState = 1 := by
  have hexec := exec_ctxHalt hd hslot hk hopen
  obtain ⟨l, hnoted, -⟩ := noteHalting_eq s.body fl k
  rw [hnoted] at hexec
  obtain ⟨hhm, hstopped⟩ := preempt_halts (b := { s.body with hm.halting := l }) hk hstate hecc hwaits hflights hended (some fl.uid)
  rw [if_neg (not_not.2 hstopped), hkeep, if_neg (by simp)] at hexec
  generalize Body.preempt { s.body with hm.halting := l } k (some fl.uid) = t at hexec hhm hstopped
  have hkept : t.hm.ended = s.body.hm.ended := by rw [hhm]
  refine gives_of_exec hexec ⟨Body.endsWith_done fl 0 (c := t.dropHalting fl.uid) hkept, ?_⟩
  rw [getF_of_reg_eq ((unnoted_hmCtxStat hk).done _ fl 0)]
  exact hstopped

theorem ctxHalt_waits {f : Flight} (hf : f ∈ s.body.hm.flights) (hfk : f.slot = k) (hne : f.uid ≠ fl.uid)
    (hstep : (s.body.info k).step = none) (hhalt : s.body.hm.halting = []) : Gives (.ctxHalt c) s fun t =>
      t.hm.ended = s.body.hm.ended ∧ t.hm.flights = s.body.hm.flights ∧ t.getF (.hmCtxStat k) Fld.hmCtxStatState = 2 ∧
        t.hm.halting = [(fl, k)] ∧ SameBytes s.body t := by
  have hexec := exec_ctxHalt hd hslot hk hopen
  obtain ⟨l, hnoted, hl⟩ := noteHalting_eq s.body fl k
  rw [hl hhalt] at hnoted
  rw [hnoted] at hexec
  have hpreempt : Body.preempt { s.body with hm.halting := [(fl, k)] } k (some fl.uid) =
      Body.setF { s.body with hm.halting := [(fl, k)] } (.hmCtxStat k) Fld.hmCtxStatState 2 := by
    rw [preempt_of_running (b := { s.body with hm.halting := [(fl, k)] }) hstate hecc hwaits]
    refine preemptCheck_of_busy (f := f) (by rw [Body.setF_hm]; exact hf) hfk ?_ ?_
    · rw [Body.info, Body.setF_hm]
      exact hstep
    · rw [Body.setF_hm]
      simpa using hne.symm
  rw [hpreempt, if_pos (by rw [state_setState _ hk]; decide)] at hexec
  refine gives_of_exec hexec ⟨?_, ?_, state_setState _ hk 2, ?_, sameBytes_of (by simp) (by simp) (by simp)⟩ <;> rw [Body.setF_hm]

end

end

/-! ### CTX_RESUME -/

/-- STEPPING clears where it stood for a context. -/
def Body.stepLeft (b : Body) (id : Nat) : Body := if b.getF .hmStepStat Fld.hmStepStatCtx = id then b.stepClear else b

theorem stepLeft_keep {γ : Type} (p : Body → γ) (h : ∀ (b : Body) f v, p (b.setF .hmStepStat f v) = p b) (b : Body) (id : Nat) :
    p (b.stepLeft id) = p b := by
  unfold Body.stepLeft Body.stepClear
  split
  · rw [h, h]
  · rfl

theorem hm_stepLeft (b : Body) (id : Nat) : (b.stepLeft id).hm = b.hm := stepLeft_keep Body.hm (fun b _ _ => Body.setF_hm b _ _ _) b id

theorem sameBytes_stepLeft (b : Body) (id : Nat) : SameBytes b (b.stepLeft id) :=
  sameBytes_of (stepLeft_keep Body.mem (fun b _ _ => Body.setF_mem b _ _ _) b id)
    (stepLeft_keep Body.haze (fun b _ _ => Body.setF_haze b _ _ _) b id) (stepLeft_keep Body.bg (fun b _ _ => Body.setF_bg b _ _ _) b id)

theorem reg_stepLeft (b : Body) (id : Nat) {q : Reg} (hq : q.addr ≠ Reg.hmStepStat.addr) : (b.stepLeft id).reg q = b.reg q :=
  stepLeft_keep (fun b : Body => b.reg q) (fun b f v => Body.reg_setF_ne b f v hq) b id

theorem resumeAll_of_nil {b : Body} {k : Nat} (h : (b.info k).saved = []) : b.resumeAll k = b.updInfo k fun i => { i with saved := [] } := by
  rw [Body.resumeAll, h]
  rfl

theorem resumeAll_of_one {b : Body} {k : Nat} {f : Flight} (h : (b.info k).saved = [f]) :
    b.resumeAll k = (b.updInfo k fun i => { i with saved := [] }).resumeOne k f := by
  rw [Body.resumeAll, h]
  rfl

theorem info_updInfo_self (b : Body) (k : Nat) (f : CtxInfo → CtxInfo) : (b.updInfo k f).info k = f (b.info k) :=
  SMap.get_upd_self b.hm.ctxs {} k f

/-- A command restored onto another bank is counted on the Berths of its partition. -/
def Body.mixCounted (b : Body) (slot : Nat) (mixed : Prop) [Decidable mixed] : Body :=
  if mixed then
    (((b.partOfSlot slot).map b.berthsOfPart).getD []).foldl (fun b g => b.bump (.brLatheTally g) Fld.brLatheTallyEpochMix 1) b
  else b

theorem resumeOne_eq (b : Body) (k : Nat) (f : Flight) : ∃ (mixed : Prop) (_ : Decidable mixed) (g : Flight), g.uid = f.uid ∧ g.cmd = f.cmd ∧
    g.resumed = true ∧ b.resumeOne k f = ((Body.log { b.mixCounted k mixed with
      hm.flights := sortBy (fun x y => decide (x.uid ≤ y.uid)) ((b.mixCounted k mixed).hm.flights ++ [g]) } 2 0 8 0 g.cmd.ctx.toNat
        g.cmd.tag.toNat g.opc).syncIn g.cmd.wq k).syncShadow k := by
  refine ⟨_, _, _, ?_, ?_, ?_, rfl⟩ <;> rfl

section
variable (b : Body) (k : Nat) (mixed : Prop) [Decidable mixed]

theorem hm_mixCounted : (b.mixCounted k mixed).hm = b.hm := by
  unfold Body.mixCounted
  split
  · exact foldl_keep Body.hm _ _ b fun b g => Body.bump_hm ..
  · rfl

theorem reg_mixCounted {j : Nat} (hj : j < 64) : (b.mixCounted k mixed).reg (.hmCtxStat j) = b.reg (.hmCtxStat j) := by
  have hlathe : ∀ g < 200, (Reg.hmCtxStat j).addr ≠ (Reg.brLatheTally g).addr := fun g hg => by simp only [Reg.addr]; omega
  unfold Body.mixCounted
  split
  · exact foldl_keep (fun b : Body => b.reg (.hmCtxStat j)) _ _ b fun b g =>
      Body.reg_setF_of_ok_ne b _ _ fun hok => hlathe g (of_decide_eq_true hok)
  · rfl

end

/-- A saved command goes on: it is in flight, marked resumed; no command has ended, and the context still runs. -/
theorem resumeOne_spec (b : Body) {k : Nat} (hk : k < 64) (f : Flight) :
    (b.resumeOne k f).hm.ended = b.hm.ended ∧ (b.resumeOne k f).hm.ctxs = b.hm.ctxs ∧
      (b.resumeOne k f).getF (.hmCtxStat k) Fld.hmCtxStatState = b.getF (.hmCtxStat k) Fld.hmCtxStatState ∧
      ∃ g ∈ (b.resumeOne k f).hm.flights, g.uid = f.uid ∧ g.cmd = f.cmd ∧ g.resumed = true := by
  obtain ⟨mixed, hdec, g, huid, hcmd, hresumed, heq⟩ := resumeOne_eq b k f
  have hhm := hm_mixCounted b k mixed
  have hreg := reg_mixCounted b k mixed hk
  rw [heq, Body.syncShadow_hm, Body.syncIn_hm, Body.log_hm]
  generalize b.mixCounted k mixed = c at hhm hreg
  refine ⟨congrArg (·.ended) hhm, congrArg (·.ctxs) hhm, ?_, g, ?_, huid, hcmd, hresumed⟩
  · rw [getF_of_reg_eq ((unnoted_hmCtxStat hk).syncShadow _ k), state_syncIn _ _ hk, getF_of_reg_eq (Body.log_reg ..)]
    exact getF_of_reg_eq hreg _
  · exact (perm_sortBy _ _).mem_iff.2 (List.mem_append_right _ List.mem_cons_self)

section
variable {s : State} {c : Cmd} {fl : Flight} {k : Nat} (hd : Dispatched s.body c 0x14 fl) (hslot : s.body.slotOf (c.f 1 15 0) = some k)
  (hk : k < 64) (hopen : (s.body.info k).closing = false)
include hd hslot hk hopen

theorem exec_ctxResume_saving (hstate : s.body.getF (.hmCtxStat k) Fld.hmCtxStatState = 2) : exec (.ctxResume c) s = .next s := by
  change execCtxResume c s = _
  rw [execCtxResume, State.onBody, onContext_of_resident hd hslot hk hopen]
  dsimp only
  rw [if_pos (.inl hstate)]

variable (hdbg : s.body.tele.dbg = none)
include hdbg

theorem exec_ctxResume_running (hstate : s.body.getF (.hmCtxStat k) Fld.hmCtxStatState = 0) :
    exec (.ctxResume c) s = .next { s with body := (s.body.stepLeft (s.body.ctxOfSlot k)).done fl } := by
  change execCtxResume c s = _
  rw [execCtxResume, State.onBody, onContext_of_resident hd hslot hk hopen]
  dsimp only
  rw [hstate, hdbg, if_neg (by simp), if_neg (by decide), Body.stepLeft]

theorem exec_ctxResume_halted (hstate : s.body.getF (.hmCtxStat k) Fld.hmCtxStatState = 1) :
    exec (.ctxResume c) s = .next { s with
      body := (((s.body.stepLeft (s.body.ctxOfSlot k)).setF (.hmCtxStat k) Fld.hmCtxStatState 0).resumeAll k).done fl } := by
  change execCtxResume c s = _
  rw [execCtxResume, State.onBody, onContext_of_resident hd hslot hk hopen]
  dsimp only
  rw [hstate, hdbg, if_neg (by simp), if_pos rfl, Body.stepLeft]

theorem ctxResume_running (hstate : s.body.getF (.hmCtxStat k) Fld.hmCtxStatState = 0) : Gives (.ctxResume c) s fun t =>
    OnlyEnds s.body t fl 0 0 [Reg.hmStepStat.addr] ∧ t.hm.ctxs = s.body.hm.ctxs := by
  refine gives_of_exec (exec_ctxResume_running hd hslot hk hopen hdbg hstate) ⟨⟨Body.endsWith_done fl 0 (by rw [hm_stepLeft]), ?_, ?_⟩, ?_⟩
  · exact (sameBytes_stepLeft _ _).trans (sameBytes_retire _ fl 0 0 false)
  · exact fun q hq hl => (Body.reg_done _ fl 0 hq).trans (reg_stepLeft _ _ (List.ne_of_not_mem_cons hl))
  · rw [Body.done_hm_ctxs, hm_stepLeft]

theorem ctxResume_empty (hstate : s.body.getF (.hmCtxStat k) Fld.hmCtxStatState = 1) (hsaved : (s.body.info k).saved = []) :
    Gives (.ctxResume c) s fun t => OnlyEnds s.body t fl 0 0 [Reg.hmStepStat.addr, (Reg.hmCtxStat k).addr] ∧
      t.getF (.hmCtxStat k) Fld.hmCtxStatState = 0 := by
  have hexec := exec_ctxResume_halted hd hslot hk hopen hdbg hstate
  rw [resumeAll_of_nil (by rw [Body.info, Body.setF_hm, hm_stepLeft]; exact hsaved)] at hexec
  refine gives_of_exec hexec ⟨⟨Body.endsWith_done fl 0 ?_, ?_, fun q hq hl => ?_⟩, ?_⟩
  · exact (congrArg Harbour.ended (Body.setF_hm _ _ _ _)).trans (by rw [hm_stepLeft])
  · have hset := sameBytes_of (Body.setF_mem (s.body.stepLeft (s.body.ctxOfSlot k)) (.hmCtxStat k) Fld.hmCtxStatState 0)
      (Body.setF_haze _ _ _ _) (Body.setF_bg _ _ _ _)
    exact (sameBytes_stepLeft _ _).trans (hset.trans (sameBytes_retire _ fl 0 0 false))
  · obtain ⟨hstep, hstat⟩ := List.ne_and_not_mem_of_not_mem_cons hl
    refine (Body.reg_done _ fl 0 hq).trans ((Body.reg_setF_ne _ _ _ ?_).trans (reg_stepLeft _ _ hstep))
    simpa using hstat
  · rw [getF_of_reg_eq ((unnoted_hmCtxStat hk).done _ fl 0)]
    exact state_setState _ hk 0

theorem ctxResume_saved {f : Flight} (hstate : s.body.getF (.hmCtxStat k) Fld.hmCtxStatState = 1) (hsaved : (s.body.info k).saved = [f])
    (hne : f.uid ≠ fl.uid) : Gives (.ctxResume c) s fun t => EndsWith s.body t fl 0 0 ∧ t.getF (.hmCtxStat k) Fld.hmCtxStatState = 0 ∧
      (t.info k).saved = [] ∧ ∃ g ∈ t.hm.flights, g.uid = f.uid ∧ g.cmd = f.cmd ∧ g.resumed = true := by
  have hexec := exec_ctxResume_halted hd hslot hk hopen hdbg hstate
  rw [resumeAll_of_one (by rw [Body.info, Body.setF_hm, hm_stepLeft]; exact hsaved)] at hexec
  have hhm : ((s.body.stepLeft (s.body.ctxOfSlot k)).setF (.hmCtxStat k) Fld.hmCtxStatState 0).hm = s.body.hm := by
    rw [Body.setF_hm, hm_stepLeft]
  have hruns := state_setState (s.body.stepLeft (s.body.ctxOfSlot k)) hk 0
  generalize (s.body.stepLeft (s.body.ctxOfSlot k)).setF (.hmCtxStat k) Fld.hmCtxStatState 0 = b at hexec hhm hruns
  obtain ⟨hended, hctxs, hkept, g, hg, hgoes⟩ := resumeOne_spec (b.updInfo k fun i => { i with saved := [] }) hk f
  generalize Body.resumeOne (b.updInfo k fun i => { i with saved := [] }) k f = t at hexec hended hctxs hkept hg
  have hbefore : b.hm.ended = s.body.hm.ended := by rw [hhm]
  have hended' : t.hm.ended = s.body.hm.ended := hended.trans hbefore
  refine gives_of_exec hexec ⟨Body.endsWith_done fl 0 hended', ?_, ?_, g, ?_, hgoes⟩
  · rw [getF_of_reg_eq ((unnoted_hmCtxStat hk).done _ fl 0)]
    exact hkept.trans hruns
  · rw [info_of_ctxs_eq (Body.done_hm_ctxs t fl 0), info_of_ctxs_eq hctxs, info_updInfo_self]
  · rw [Body.done, Body.retire_flights, List.mem_filter]
    exact ⟨hg, by rw [hgoes.1]; simpa using hne⟩

end

/-! ### CTX_EVICT -/

section
variable (b : Body)

@[simp] theorem calm_writeSaved (slot : Nat) : (b.writeSaved slot).calm = b.calm := by
  unfold Body.writeSaved
  refine foldl_keep Body.calm _ _ b fun c j => ?_
  split
  · exact calm_store c _ _
  · rfl

@[simp] theorem calm_writeBatch (slot : Nat) : (b.writeBatch slot).calm = b.calm := calm_store b _ _

@[simp] theorem calm_saveStep (slot : Nat) : (b.saveStep slot).calm = b.calm := by
  unfold Body.saveStep
  split <;> rfl

@[simp] theorem calm_writeImage (slot : Nat) : (b.writeImage slot).calm = b.calm := by
  unfold Body.writeImage
  dsimp only
  rw [calm_store]
  refine (foldl_keep Body.calm _ _ _ fun c j => calm_store c _ _).trans ?_
  rw [calm_writeBatch, calm_writeSaved, calm_store, calm_store, calm_store, calm_store]

/-- A context that holds no slice and no segment leaves none to be zeroed. -/
theorem evictOut_of_no_allotment {slot : Nat} (h : b.allotted slot = []) : (b.evictOut slot).2 = [] := by
  have hcalm : (((b.saveStep slot).writeImage slot).endQueued slot 0x40 |>.gwReset slot).calm = b.calm := by
    rw [calm_gwReset, calm_endQueued, calm_writeImage, calm_saveStep]
  unfold Body.evictOut
  dsimp only
  rw [allotted_of_calm hcalm, h]
  rfl

end

section
variable {s : State} {c : Cmd} {fl : Flight} {k : Nat} (hd : Dispatched s.body c 0x15 fl) (hslot : s.body.slotOf (c.f 1 15 0) = some k)
include hd hslot

theorem exec_ctxEvict_refused (h : s.body.evictRefused k = true) :
    exec (.ctxEvict c) s = .next { s with body := (s.body.dropHalting fl.uid).fail fl 0x11 } := by
  change execCtxEvict c s = _
  rw [execCtxEvict, State.onBody, Body.onCmd_dispatched hd, hslot]
  exact congrArg _ (congrArg _ (if_pos (.inr (.inl h))))

theorem ctxEvict_frees (hk : k < 64) (hopen : (s.body.info k).closing = false) (hallowed : s.body.evictRefused k = false)
    (hecc : (s.body.info k).eccPending = false) (hstate : s.body.getF (.hmCtxStat k) Fld.hmCtxStatState = 1)
    (hallot : s.body.allotted k = []) : Gives (.ctxEvict c) s fun t =>
      t.getF (.hmCtxStat k) Fld.hmCtxStatState = 3 ∧ t.info k = {} ∧ ∃ l e, t.hm.ended = l ++ [e] ∧ e.fl.uid = fl.uid ∧ e.status = 0 := by
  obtain ⟨l, hnoted, -⟩ := noteHalting_eq s.body fl k
  have hpreempt : Body.preempt { s.body with hm.halting := l } k = { s.body with hm.halting := l } :=
    preempt_of_stopped (b := { s.body with hm.halting := l }) (fun h => absurd (hstate.symm.trans h) (by decide)) none
  have hregions : (Body.evictOut (Body.dropHalting { s.body with hm.halting := l } fl.uid) k).2 = [] :=
    evictOut_of_no_allotment _ hallot
  have hexec : exec (.ctxEvict c) s = .next { s with
      body := ((Body.evictOut (Body.dropHalting { s.body with hm.halting := l } fl.uid) k).1.slotFree k).done fl } := by
    change execCtxEvict c s = _
    rw [execCtxEvict, State.onBody, Body.onCmd_dispatched hd, hslot]
    dsimp only
    rw [if_neg (by simp [hk, hopen, hallowed]), if_neg (by simp [hecc]), hnoted, hpreempt, hregions, if_pos rfl]
    refine congrArg _ (congrArg _ ((if_neg ?_).trans (if_neg ?_)))
    · exact not_not.2 hstate
    · exact ne_of_eq_of_ne hecc (by decide)
  obtain ⟨hreg, hinfo⟩ := slotFree_frees (Body.evictOut (Body.dropHalting { s.body with hm.halting := l } fl.uid) k).1 hk
  exact gives_of_exec hexec (slotFreed_done hk hreg hinfo fl)

end

/-! ### PREEMPTION_POINT -/

section
variable {s : State} {uid : Nat} {f : Flight}

theorem exec_preemptionPoint_absent (h : s.body.flight uid = none) : exec (.preemptionPoint uid) s = .next s := by
  change execPreemptionPoint uid s = _
  rw [execPreemptionPoint, State.onBody, h]

theorem exec_preemptionPoint_unasked (h : s.body.flight uid = some f) (hdbg : s.body.tele.dbg = none) (hsaving : s.body.saving f.slot = false) :
    exec (.preemptionPoint uid) s = .next s := by
  change execPreemptionPoint uid s = _
  rw [execPreemptionPoint, State.onBody, h]
  dsimp only
  rw [if_pos (by simp [hsaving, hdbg])]

/-- The pre-emption check halts a context or leaves it so; what the Harbourmaster holds stays. -/
theorem hm_preemptCheck (b : Body) (k : Nat) : (b.preemptCheck k).hm = b.hm := by
  unfold Body.preemptCheck
  split
  · rfl
  next hsaving =>
    have hk : k < 64 := of_decide_eq_true (Bool.and_eq_true_iff.1 (not_not.1 hsaving)).1
    dsimp only
    split
    · rfl
    · exact (hm_of_seat ((seat_writeBatch _ hk k).trans (seat_count _ hk k 14 1))).trans (Body.setF_hm b _ _ _)

/-- A command as it is saved before its start. -/
def Flight.saved (f : Flight) : Flight := { f with started := false, handles := [], uses := [], progress := f.progress }

/-- A command that has not begun leaves flight at its point, held saved. -/
theorem savePoint_hm {b : Body} (hk : f.slot < 64) (hop : b.opOf f.uid = none) (hruns : b.runBerths f.uid = []) (hsounds : b.ferry.sounds = []) :
    (b.savePoint f).hm.ended = b.hm.ended ∧ (b.savePoint f).hm.flights = b.hm.flights.filter (fun x => decide (x.uid ≠ f.uid)) ∧
      ((b.savePoint f).info f.slot).saved = sortBy (fun x y => decide (x.uid ≤ y.uid)) ((b.info f.slot).saved ++ [f.saved]) := by
  have hprogress : b.saveProgress f = (b, f.progress) := by
    unfold Body.saveProgress
    rw [hop]
    dsimp only
    rw [hruns, hsounds]
    rfl
  unfold Body.savePoint
  rw [hprogress]
  dsimp only
  have hsaved := fun (c : Body) => hm_of_seat (seat_writeSaved c hk f.slot)
  refine ⟨?_, ?_, ?_⟩
  · rw [Body.syncShadow_hm, Body.syncIn_hm, Body.log_hm, Body.dbgEnd_hm, hsaved]
    rfl
  · rw [Body.syncShadow_hm, Body.syncIn_hm, Body.log_hm, Body.dbgEnd_hm, hsaved]
    rfl
  · rw [Body.info, Body.syncShadow_hm, Body.syncIn_hm, Body.log_hm, Body.dbgEnd_hm, hsaved]
    exact congrArg CtxInfo.saved (info_updInfo_self _ f.slot _)

theorem preemptionPoint_saves (h : s.body.flight uid = some f) (hsaving : s.body.saving f.slot = true)
    (hhalt : s.body.hm.halting = []) (hwaits : s.body.hm.waits = []) (hpoint : s.body.atPoint f = true)
    (hop : s.body.opOf uid = none) (hruns : s.body.runBerths uid = []) (hsounds : s.body.ferry.sounds = []) :
    Gives (.preemptionPoint uid) s fun t => t.hm.ended = s.body.hm.ended ∧ (∀ x ∈ t.hm.flights, x.uid ≠ uid) ∧
      ∃ y ∈ (t.info f.slot).saved, y.uid = uid ∧ y.cmd = f.cmd ∧ y.started = false ∧ y.progress = f.progress := by
  have huid : f.uid = uid := of_decide_eq_true (List.find?_some (p := fun x : Flight => decide (x.uid = uid)) h)
  have hk : f.slot < 64 := of_decide_eq_true (Bool.and_eq_true_iff.1 hsaving).1
  have hexec : exec (.preemptionPoint uid) s = .next { s with body := (s.body.savePoint f).preemptCheck f.slot } := by
    change execPreemptionPoint uid s = _
    rw [execPreemptionPoint, State.onBody, h]
    dsimp only
    rw [if_neg (by simp [hsaving]), if_neg (by simp [Body.discarding, hhalt]), hwaits, if_neg (by simp), if_pos hpoint]
  subst huid
  obtain ⟨hended, hflights, hsaved⟩ := savePoint_hm hk hop hruns hsounds
  have hhm := hm_preemptCheck (s.body.savePoint f) f.slot
  refine gives_of_exec hexec ⟨by rw [hhm, hended], fun x hx => ?_, f.saved, ?_, rfl, rfl, rfl, rfl⟩
  · rw [hhm, hflights] at hx
    exact of_decide_eq_true (List.mem_filter.1 hx).2
  · rw [info_of_ctxs_eq (congrArg Harbour.ctxs hhm), hsaved]
    exact (perm_sortBy _ _).mem_iff.2 (List.mem_append_right _ List.mem_cons_self)

end

/-! ### CTX_ADMIT: what its checks read -/

section
variable {b t : Body}

theorem SameBytes.imageHash (h : SameBytes b t) (base : Nat) : t.imageHash base = b.imageHash base := by
  rw [Body.imageHash, h.bytes_eq, Body.imageHash]

theorem SameBytes.le (h : SameBytes b t) (a n : Nat) : t.le a n = b.le a n := by rw [Body.le, h.bytes_eq, Body.le]

theorem SameBytes.shapeOk (h : SameBytes b t) (hframing : t.framing = b.framing) (base part : Nat) (cmds : List Flight) :
    t.shapeOk base part cmds = b.shapeOk base part cmds := by
  simp only [Body.shapeOk, hframing, h.bytes_eq]

theorem brJyCfg_clampCmd (b : Body) (fl : Flight) (n : Nat) {g : Nat} (hg : g < 200) :
    (b.clampCmd fl n).reg (.brJyCfg g) = b.reg (.brJyCfg g) := by
  have hapart : (Reg.brJyCfg g).Unnoted := by constructor <;> simp only [Reg.addr] <;> omega
  exact hapart.clampCmd b fl n

theorem dialectOf_clampCmd (b : Body) (fl : Flight) (n p : Nat) : (b.clampCmd fl n).dialectOf p = b.dialectOf p := by
  have hberths : (b.clampCmd fl n).berthsOfPart p = b.berthsOfPart p := by rw [Body.berthsOfPart, Body.clampCmd_framing, Body.berthsOfPart]
  unfold Body.dialectOf
  rw [hberths]
  cases hl : b.berthsOfPart p with
  | nil => rfl
  | cons g l =>
    have hg : g ∈ b.berthsOfPart p := by rw [hl]; exact List.mem_cons_self
    simp only [Body.berthsOfPart, quaysOf, List.mem_flatMap, List.mem_filter, List.mem_range, List.mem_map] at hg
    obtain ⟨q, ⟨hq, -⟩, i, hi, rfl⟩ := hg
    have hreg := brJyCfg_clampCmd b fl n (g := 20 * q + i) (by omega)
    dsimp only
    rw [getF_of_reg_eq hreg, getF_of_reg_eq hreg]

end

/-! ### CTX_ADMIT: what it restores -/

/-- A body whose next number is `n` higher. -/
def Body.numbered (b : Body) (n : Nat) : Body := { b with hm.nextUid := b.hm.nextUid + n }

theorem numbered_zero (b : Body) : b.numbered 0 = b := rfl

/-- A context in its slot with its Manifest and tables. -/
def Body.readBack (b : Body) (slot id part prio mask base : Nat) : Body :=
  ((b.slotTake slot id part prio mask base).readManifest slot base).readTables slot base

section
variable (b : Body) (slot base : Nat)

theorem readManifest_keep {γ : Type} (p : Body → γ) (h : ∀ (b : Body) m, p { b with st.manifest := m } = p b) :
    p (b.readManifest slot base) = p b := foldl_keep p _ _ b fun b _ => h b _

/-- The scalar registers of an image. -/
def Body.imageSregs (b : Body) (slot base : Nat) : SMap Word :=
  setFrom b.hm.sregs 0 (slot * 256) (fun k => BitVec.ofNat 64 (b.le (base + 0x11000 + 8 * k) 8)) 256

/-- A body with other scalar registers, chain slots and batch table. -/
def Body.withTables (b : Body) (sr : SMap Word) (ch : SMap (List Word)) (ba : SMap BatchSlot) : Body :=
  { b with hm.sregs := sr, hm.chains := ch, hm.batch := ba }

section
variable (sr : SMap Word) (ch : SMap (List Word)) (ba : SMap BatchSlot)

theorem ended_withTables : (b.withTables sr ch ba).hm.ended = b.hm.ended := rfl

theorem ctxs_withTables : (b.withTables sr ch ba).hm.ctxs = b.hm.ctxs := rfl

theorem reg_withTables (q : Reg) : (b.withTables sr ch ba).reg q = b.reg q := rfl

theorem sregs_withTables : (b.withTables sr ch ba).hm.sregs = sr := rfl

end

theorem readTables_eq : ∃ ch ba, b.readTables slot base = b.withTables (b.imageSregs slot base) ch ba := by
  unfold Body.readTables Body.withTables Body.imageSregs setFrom
  dsimp only
  exact ⟨_, _, rfl⟩

theorem get_imageSregs {r : Nat} (hr : r < 256) :
    SMap.get (b.imageSregs slot base) 0 (slot * 256 + r) = BitVec.ofNat 64 (b.le (base + 0x11000 + 8 * r) 8) :=
  get_setFrom_inside b.hm.sregs 0 (slot * 256) (fun k => BitVec.ofNat 64 (b.le (base + 0x11000 + 8 * k) 8)) hr

end

section
variable {s : State} {c : Cmd} {fl : Flight}

theorem ctxAdmit_refused {st : Nat} (hexec : exec (.ctxAdmit c) s = .next { s with body := (s.body.openClamped c fl).fail fl st }) :
    Gives (.ctxAdmit c) s fun t => OnlyEnds s.body t fl st 0 [] ∧ t.hm.ctxs = s.body.hm.ctxs :=
  gives_of_exec hexec ⟨((StillSame.refl s.body).clampCmd fl _).fail fl st 0 0, by simp [Body.openClamped]⟩

variable (hd : Dispatched s.body c 0x16 fl)
include hd

theorem exec_ctxAdmit_refused (h : s.body.partUp (c.f 1 19 16) = false ∨ s.body.saveOk (c.f 3 47 0 / 4096 * 4096) = false) :
    exec (.ctxAdmit c) s = .next { s with body := (s.body.openClamped c fl).fail fl 0x11 } := by
  have hsame := sameChecks_clampCmd s.body fl (diff (c.f 3 47 0 / 4096 * 4096) (c.f 3 47 0))
  change execCtxAdmit c s = _
  rw [execCtxAdmit, State.onBody, Body.onCmd_dispatched hd]
  dsimp only
  rw [partUp_congr (Body.clampCmd_framing ..) (Body.clampCmd_bw ..), hsame.saveOk, if_pos (by simpa using h), Body.openClamped]

theorem exec_ctxAdmit_digest (hup : s.body.partUp (c.f 1 19 16) = true) (hsave : s.body.saveOk (c.f 3 47 0 / 4096 * 4096) = true)
    (h : s.body.bytes (c.f 3 47 0 / 4096 * 4096 + 16) 48 ≠ digestBytes (s.body.imageHash (c.f 3 47 0 / 4096 * 4096))) :
    exec (.ctxAdmit c) s = .next { s with body := (s.body.openClamped c fl).fail fl 0x60 } := by
  have hsame := sameChecks_clampCmd s.body fl (diff (c.f 3 47 0 / 4096 * 4096) (c.f 3 47 0))
  have hbytes := (sameMemory_clampCmd s.body fl (diff (c.f 3 47 0 / 4096 * 4096) (c.f 3 47 0))).bytes
  change execCtxAdmit c s = _
  rw [execCtxAdmit, State.onBody, Body.onCmd_dispatched hd]
  dsimp only
  rw [partUp_congr (Body.clampCmd_framing ..) (Body.clampCmd_bw ..), hsame.saveOk, if_neg (by simp [hup, hsave]), hbytes.bytes_eq,
    hbytes.imageHash, if_pos h, Body.openClamped]

theorem exec_ctxAdmit {j : Nat} (hup : s.body.partUp (c.f 1 19 16) = true) (hsave : s.body.saveOk (c.f 3 47 0 / 4096 * 4096) = true)
    (hdigest : s.body.bytes (c.f 3 47 0 / 4096 * 4096 + 16) 48 = digestBytes (s.body.imageHash (c.f 3 47 0 / 4096 * 4096)))
    (hfree : s.body.freeCtxSlot = some j) (hid : s.body.le (c.f 3 47 0 / 4096 * 4096) 2 ≤ 0xFFFD)
    (hnone : s.body.slotOf (s.body.le (c.f 3 47 0 / 4096 * 4096) 2) = none)
    (hdialect : (s.body.dialectOf (c.f 1 19 16)).1 = s.body.le (c.f 3 47 0 / 4096 * 4096 + 4) 1)
    (hcount : s.body.le (c.f 3 47 0 / 4096 * 4096 + 6) 2 = 0) (hshape : s.body.shapeOk (c.f 3 47 0 / 4096 * 4096) (c.f 1 19 16) [] = true)
    (htaken : s.body.queueTaken (c.w 2).toNat = false) : exec (.ctxAdmit c) s = .next { s with
      body := (((s.body.openClamped c fl).readBack j (s.body.le (c.f 3 47 0 / 4096 * 4096) 2) (c.f 1 19 16) (c.f 1 22 20) (c.w 2).toNat
        (c.f 3 47 0 / 4096 * 4096)).stepCheck j).done fl } := by
  have hsame := sameChecks_clampCmd s.body fl (diff (c.f 3 47 0 / 4096 * 4096) (c.f 3 47 0))
  have hbytes := (sameMemory_clampCmd s.body fl (diff (c.f 3 47 0 / 4096 * 4096) (c.f 3 47 0))).bytes
  have hzero : min 64 0 = 0 := rfl
  change execCtxAdmit c s = _
  rw [execCtxAdmit, State.onBody, Body.onCmd_dispatched hd]
  dsimp only
  rw [partUp_congr (Body.clampCmd_framing ..) (Body.clampCmd_bw ..), hsame.saveOk, if_neg (by simp [hup, hsave]), hbytes.bytes_eq,
    hbytes.imageHash, if_neg (not_not.2 hdigest), hsame.freeCtxSlot, hfree]
  dsimp only
  rw [hbytes.le, hbytes.le, hbytes.le, hcount, hzero, List.range_zero, List.map_nil, hsame.slotOf, hnone,
    if_neg (by simpa using hid), dialectOf_clampCmd, if_neg (not_not.2 hdialect),
    hbytes.shapeOk (Body.clampCmd_framing ..), if_neg (not_not.2 hshape), queueTaken_clampCmd, htaken, if_neg (by simp)]
  rw [List.map_nil, List.foldl_nil, ← Body.numbered, numbered_zero, Body.readBack, Body.openClamped]

theorem ctxAdmit_admits {j : Nat} (hup : s.body.partUp (c.f 1 19 16) = true) (hsave : s.body.saveOk (c.f 3 47 0 / 4096 * 4096) = true)
    (hdigest : s.body.bytes (c.f 3 47 0 / 4096 * 4096 + 16) 48 = digestBytes (s.body.imageHash (c.f 3 47 0 / 4096 * 4096)))
    (hfree : s.body.freeCtxSlot = some j) (hid : s.body.le (c.f 3 47 0 / 4096 * 4096) 2 ≤ 0xFFFD)
    (hnone : s.body.slotOf (s.body.le (c.f 3 47 0 / 4096 * 4096) 2) = none)
    (hdialect : (s.body.dialectOf (c.f 1 19 16)).1 = s.body.le (c.f 3 47 0 / 4096 * 4096 + 4) 1)
    (hcount : s.body.le (c.f 3 47 0 / 4096 * 4096 + 6) 2 = 0) (hshape : s.body.shapeOk (c.f 3 47 0 / 4096 * 4096) (c.f 1 19 16) [] = true)
    (htaken : s.body.queueTaken (c.w 2).toNat = false) : Gives (.ctxAdmit c) s fun t => EndsWith s.body t fl 0 0 ∧
      t.getF (.hmCtxStat j) Fld.hmCtxStatCtx = s.body.le (c.f 3 47 0 / 4096 * 4096) 2 ∧ t.getF (.hmCtxStat j) Fld.hmCtxStatState = 0 ∧
      (t.info j).saveBase = c.f 3 47 0 / 4096 * 4096 ∧
      ∀ r, r < 256 → (t.sreg j r).toNat = s.body.le (c.f 3 47 0 / 4096 * 4096 + 0x11000 + 8 * r) 8 := by
  have hexec := exec_ctxAdmit hd hup hsave hdigest hfree hid hnone hdialect hcount hshape htaken
  have hj := freeCtxSlot_lt hfree
  have hbytes : SameBytes s.body (s.body.openClamped c fl) := (sameMemory_clampCmd ..).bytes
  have hhm : (s.body.openClamped c fl).hm = s.body.hm := Body.clampCmd_hm ..
  generalize c.f 3 47 0 / 4096 * 4096 = base at *
  generalize s.body.le base 2 = id at *
  generalize s.body.openClamped c fl = b at hexec hbytes hhm
  obtain ⟨hctx, -, -, hstate⟩ := statTaken_fields b j id (c.f 1 19 16) (c.f 1 22 20) hj (by omega) (cmd_f_lt c 1 19 16)
    (cmd_f_lt c 1 22 20)
  have hstat := reg_slotTake_stat b j id (c.f 1 19 16) (c.f 1 22 20) (c.w 2).toNat base hj
  rw [← getF_of_reg_eq hstat] at hctx hstate
  have hinfo := info_slotTake_self b j id (c.f 1 19 16) (c.f 1 22 20) (c.w 2).toNat base
  have hended : (b.slotTake j id (c.f 1 19 16) (c.f 1 22 20) (c.w 2).toNat base).hm.ended = s.body.hm.ended := by rw [slotTake_hm, hhm]
  have hread := hbytes.trans (sameBytes_slotTake b j id (c.f 1 19 16) (c.f 1 22 20) (c.w 2).toNat base)
  unfold Body.readBack at hexec
  generalize b.slotTake j id (c.f 1 19 16) (c.f 1 22 20) (c.w 2).toNat base = d at *
  have hdhm : (d.readManifest j base).hm = d.hm := readManifest_keep d j base Body.hm fun _ _ => rfl
  have hdreg : (d.readManifest j base).reg (.hmCtxStat j) = d.reg (.hmCtxStat j) :=
    readManifest_keep d j base (fun b : Body => b.reg (.hmCtxStat j)) fun _ _ => rfl
  have hdbytes : SameBytes d (d.readManifest j base) := sameBytes_of (readManifest_keep d j base Body.mem fun _ _ => rfl)
    (readManifest_keep d j base Body.haze fun _ _ => rfl) (readManifest_keep d j base Body.bg fun _ _ => rfl)
  obtain ⟨ch, ba, htables⟩ := readTables_eq (d.readManifest j base) j base
  have hsregs := fun r (hr : r < 256) => get_imageSregs (d.readManifest j base) j base hr
  rw [htables] at hexec
  generalize (d.readManifest j base).imageSregs j base = sr at hexec hsregs
  have hvalues := fun a n => (hread.trans hdbytes).le a n
  generalize d.readManifest j base = m at *
  have hmhm : (m.withTables sr ch ba).hm.ended = s.body.hm.ended := by rw [ended_withTables, hdhm, hended]
  have hminfo : (m.withTables sr ch ba).info j = { saveBase := base } := by
    rw [info_of_ctxs_eq (ctxs_withTables ..), info_of_ctxs_eq (congrArg Harbour.ctxs hdhm), hinfo]
  have hmreg : (m.withTables sr ch ba).reg (.hmCtxStat j) = d.reg (.hmCtxStat j) := by rw [reg_withTables, hdreg]
  have hmsregs : ∀ r, r < 256 → (m.withTables sr ch ba).sreg j r = BitVec.ofNat 64 (m.le (base + 0x11000 + 8 * r) 8) := fun r hr => by
    rw [Body.sreg, sregs_withTables, hsregs r hr]
  generalize m.withTables sr ch ba = t at *
  rw [stepCheck_of_none (congrArg CtxInfo.step hminfo)] at hexec
  have hdone := fun f => getF_of_reg_eq ((unnoted_hmCtxStat hj).done t fl 0) f
  refine gives_of_exec hexec ⟨Body.endsWith_done fl 0 hmhm, ?_, ?_, ?_, fun r hr => ?_⟩
  · exact (hdone _).trans ((getF_of_reg_eq hmreg _).trans hctx)
  · exact (hdone _).trans ((getF_of_reg_eq hmreg _).trans hstate)
  · rw [info_of_ctxs_eq (Body.done_hm_ctxs _ fl 0), hminfo]
  · rw [Body.sreg_congr (Body.done_hm_sregs _ fl 0), hmsregs r hr, hvalues, BitVec.toNat_ofNat]
    exact Nat.mod_eq_of_lt (Body.le_lt s.body _ 8)

end

/-- Settles O39, command by command. -/
theorem contextsHaltAndMove : Obligations.ContextsHaltAndMove := by
  rintro s c fl id k rfl
  refine ⟨fun hslot hk hopen => ⟨fun hd hstate hecc _ hwaits hended => ⟨fun hflights hkeep =>
        ctxHalt_halts hd hslot hk hopen hstate hecc hwaits hended hflights hkeep, fun f hf hfk hne hstep hhalt =>
        ctxHalt_waits hd hslot hk hopen hstate hecc hwaits hf hfk hne hstep hhalt⟩,
      fun hd => ⟨exec_ctxResume_saving hd hslot hk hopen, fun hdbg => ctxResume_running hd hslot hk hopen hdbg,
        fun hdbg => ctxResume_empty hd hslot hk hopen hdbg, fun f hdbg => ctxResume_saved hd hslot hk hopen hdbg⟩,
      fun hd => ⟨fun hrefused => ?_, fun hallowed hecc hstate hallot => ctxEvict_frees hd hslot hk hopen hallowed hecc hstate hallot⟩⟩,
    fun uid h => exec_preemptionPoint_absent h, fun uid f h hdbg hsaving => exec_preemptionPoint_unasked h hdbg hsaving,
    fun uid f h hsaving _ hhalt hwaits _ hpoint hop hruns hsounds =>
      preemptionPoint_saves h hsaving hhalt hwaits hpoint hop hruns hsounds, ?_⟩
  · obtain ⟨t, hexec, hfuse, hends, hctxs, -⟩ := gives_of_dropHalting (exec_ctxEvict_refused hd hslot hrefused)
    exact ⟨t, hexec, hfuse, hends, hctxs⟩
  · rintro base part rfl rfl hd
    exact ⟨fun hbad => ctxAdmit_refused (exec_ctxAdmit_refused hd hbad),
      fun hup hsave hdigest => ctxAdmit_refused (exec_ctxAdmit_digest hd hup hsave hdigest),
      fun j hup hsave hdigest hfree hid hnone hdialect hcount hshape htaken =>
        ctxAdmit_admits hd hup hsave hdigest hfree hid hnone hdialect hcount hshape htaken⟩

end Sys2Proof.Machine
end

section
/-! PROOFS. Resets and input power (R280, R412, R444, R445, R449, R450, R488, R490): what a reset of the module loses and what it keeps,
the boot it begins, the reset of the Watch, and the boot flash lent to an external master. -/

namespace Sys2Proof.Machine

/-! ### Memory through a loss -/

/-- A map listed key by key holds at a key what was listed for it. -/
theorem find_filterMap_keys {α : Type} (f : Nat → Option (Nat × α)) (hf : ∀ r x, f r = some x → x.1 = r) (l : List Nat) {a : Nat} (ha : a ∈ l) :
    SMap.find (l.filterMap f) a = (f a).map Prod.snd := by
  have hout : ∀ l : List Nat, a ∉ l → SMap.find (l.filterMap f) a = none := fun l => by
    induction l with
    | nil => exact fun _ => rfl
    | cons r l ih =>
      intro hal
      rw [List.filterMap_cons]
      cases hr : f r with
      | none => exact ih fun h => hal (List.mem_cons_of_mem _ h)
      | some x =>
        have hne : x.1 ≠ a := fun heq => hal (by rw [← heq, hf r x hr]; exact List.mem_cons_self)
        simp only [SMap.find, hne, if_false]
        exact ih fun h => hal (List.mem_cons_of_mem _ h)
  induction l with
  | nil => cases ha
  | cons r l ih =>
    rw [List.filterMap_cons]
    by_cases hra : r = a
    · subst hra
      cases hr : f r with
      | none =>
        by_cases hrl : r ∈ l
        · simp only [ih hrl, hr]
        · simp only [hout l hrl, Option.map_none]
      | some x => simp only [SMap.find, hf r x hr, if_true, Option.map_some]
    · have hal : a ∈ l := (List.mem_cons.1 ha).resolve_left fun h => hra h.symm
      cases hr : f r with
      | none => exact ih hal
      | some x =>
        have hne : x.1 ≠ a := by rw [hf r x hr]; exact hra
        simp only [SMap.find, hne, if_false, ih hal]

section
variable (b : Body) (k : Keep) (kept : List Nat)

theorem bgOf_loseAll {r : Nat} (hr : r ∈ kept) (hlt : r < 2202) (hused : regionUsed r = true) : (b.loseAll k kept).bgOf r = b.bgOf r := by
  unfold Body.bgOf Body.loseAll SMap.get
  dsimp only
  rw [find_filterMap_keys _ (fun r x hx => ?_) _ (List.mem_range.2 hlt)]
  · simp only [hr, if_true, hused, true_and]
    split
    · rfl
    next hdflt =>
      rw [Option.map_none, Option.getD_none]
      exact (not_not.1 hdflt).symm
  · obtain ⟨-, hx⟩ := Option.ite_none_right_eq_some.1 hx
    rw [← Option.some.inj hx]

theorem codeAt_loseAll {a : Nat} (hr : regionOf a ∈ kept) (hlt : regionOf a < 2202) (hused : regionUsed (regionOf a) = true) :
    (b.loseAll k kept).codeAt a = b.codeAt a := by
  have hhaze : (b.loseAll k kept).haze.find? (fun h => decide (h.1 ≤ a ∧ a < h.1 + h.2.1 ∧ regionOf h.1 = regionOf a)) =
      b.haze.find? fun h => decide (h.1 ≤ a ∧ a < h.1 + h.2.1 ∧ regionOf h.1 = regionOf a) := by
    refine List.find?_filter.trans (List.find?_congr fun h _ => ?_)
    refine decide_eq_decide.2 ⟨fun ⟨_, hin⟩ => of_decide_eq_true hin, fun hin => ⟨?_, decide_eq_true hin⟩⟩
    obtain ⟨-, -, hregion⟩ := hin
    exact decide_eq_true (hregion ▸ hr)
  unfold Body.codeAt
  rw [hhaze, bgOf_loseAll b k kept hr hlt hused]

theorem byte_loseAll {a : Nat} (hr : regionOf a ∈ kept) (hlt : regionOf a < 2202) (hused : regionUsed (regionOf a) = true) :
    (b.loseAll k kept).byte a = b.byte a := by
  have hmem : SMap.find (b.loseAll k kept).mem a = SMap.find b.mem a :=
    find_filter_keys (fun x => decide (regionOf x ∈ kept)) b.mem (decide_eq_true hr)
  unfold Body.byte
  rw [hmem, codeAt_loseAll b k kept hr hlt hused]

end

/-! ### What a reset of the module leaves -/

theorem resetReg_keep {γ : Type} (p : Body → γ) (h : ∀ (b : Body) r f v, p (b.setF r f v) = p b) (k : Keep) (b : Body) (r : Reg) :
    p (b.resetReg k r) = p b := by
  unfold Body.resetReg
  refine foldl_keep p _ _ b fun b f => ?_
  split
  · rfl
  · exact h b _ _ _

/-- The register at an address takes its reset value. -/
def Body.resetAt (k : Keep) (b : Body) (a : Nat) : Body :=
  match Reg.ofAddr a with
  | some r => b.resetReg k r
  | none => b

theorem resetAt_keep {γ : Type} (p : Body → γ) (h : ∀ (b : Body) r f v, p (b.setF r f v) = p b) (k : Keep) (b : Body) (a : Nat) :
    p (b.resetAt k a) = p b := by
  unfold Body.resetAt
  split
  · exact resetReg_keep p h k b _
  · rfl

/-- The regions whose contents a reset of the module keeps. -/
def keptRegions (k : Keep) : List Nat := if k = .mod then [1780, 1781, 1782, 2200] else [1782, 2200]

/-- A body as a reset of the module leaves it, its registers still to be reset. -/
def Body.emptied (b : Body) (k : Keep) : Body :=
  let ts := if k = .por then 0 else b.ts
  let c := b.loseAll k (keptRegions k)
  { c with
    ts := ts, framing := [], bw := {}, hm := { nextUid := c.hm.nextUid }, st := {}, eth := {}, ln := {}, unlock := {}, crates := {},
    rnd := {}, berths := [], ops := [], jigs := [], ferry := {}, tele := b.teleAfter k, power := c.powerAfter k, tiers := c.tiersAfter k,
    boot := { c.boot with heHeld := false, fw := {}, fr := {}, frBytes := [], released := ts } }

theorem cleared_eq (b : Body) (k : Keep) : b.cleared k = b.regs.foldl (fun c p => c.resetAt k p.1) (b.emptied k) := rfl

theorem cleared_keep {γ : Type} (p : Body → γ) (h : ∀ (b : Body) r f v, p (b.setF r f v) = p b) (b : Body) (k : Keep) :
    p (b.cleared k) = p (b.emptied k) := by
  rw [cleared_eq]
  exact foldl_keep p _ _ _ fun c x => resetAt_keep p h k c x.1

theorem byte_setF (b : Body) (r : Reg) (f : Fld) (v a : Nat) : (b.setF r f v).byte a = b.byte a :=
  Body.byte_congr (Body.setF_mem ..) (Body.setF_haze ..) (Body.setF_bg ..) a

theorem byte_emptied (b : Body) (k : Keep) {a : Nat} (h : regionOf a ∈ keptRegions k) : (b.emptied k).byte a = b.byte a := by
  have hlt : regionOf a < 2202 ∧ regionUsed (regionOf a) = true := by
    unfold keptRegions at h
    split at h <;> simp only [List.mem_cons, List.not_mem_nil, or_false] at h
    · rcases h with h | h | h | h <;> rw [h] <;> decide
    · rcases h with h | h <;> rw [h] <;> decide
  have hsame : (b.emptied k).byte a = (b.loseAll k (keptRegions k)).byte a := by
    unfold Body.emptied
    dsimp only
    exact Body.byte_congr (by dsimp only) (by dsimp only) (by dsimp only) a
  exact hsame.trans (byte_loseAll b k (keptRegions k) h hlt.1 hlt.2)

/-! ### The frames of a reset's last steps -/

theorem log_keep {γ : Type} (p : Body → γ) (h : ∀ (b : Body) x, p { b with tele := x } = p b) (b : Body) (kind unit code status ctx tag arg : Nat) :
    p (b.log kind unit code status ctx tag arg) = p b := by
  unfold Body.log
  dsimp only
  split
  · rfl
  · exact h b _

section
variable {γ : Type} (p : Body → γ) (hset : ∀ (b : Body) r f v, p (b.setF r f v) = p b)
  (hlog : ∀ (b : Body) kind unit code status ctx tag arg, p (b.log kind unit code status ctx tag arg) = p b)
  (hsend : ∀ (b : Body) m, p (b.send m) = p b)
include hset

theorem noteReset_keep (b : Body) (kind src : Nat) : p (b.noteReset kind src) = p b := (hset _ _ _ _).trans (hset _ _ _ _)

theorem syncFault_keep (hsend : ∀ (b : Body) m, p (b.send m) = p b) (b : Body) : p b.syncFault = p b := by
  unfold Body.syncFault
  generalize ite (b.boot.heHeld ∨ b.boot.tripped) 1 0 = v
  dsimp only
  split
  · rfl
  · rw [hsend, hset]

omit hset in
include hlog in
theorem logReset_keep (b : Body) (code : Nat) : p (b.logReset code) = p b :=
  foldl_keep p _ _ b fun b _ => foldl_keep p _ _ b fun b _ => hlog b _ _ _ _ _ _ _

include hlog

theorem moduleState_keep (b : Body) (v : Nat) : p (b.moduleState v) = p b := (hlog _ _ _ _ _ _ _ _).trans (hset _ _ _ _)

include hsend

/-- What comes after a module's registers are reset. -/
theorem modReset_keep (hboot : ∀ (b : Body) x, p { b with boot := x } = p b) (b : Body) (src : Nat) : p (b.modReset src) = p (b.emptied .mod) := by
  unfold Body.modReset
  refine (syncFault_keep p hset hsend _).trans ((hsend _ _).trans ((moduleState_keep p hset hlog _ 3).trans ((hboot _ _).trans ?_)))
  exact (logReset_keep p hlog _ 1).trans ((noteReset_keep p hset _ 1 src).trans (cleared_keep p hset b .mod))

end

/-! ### WT_STATE -/

section
variable (b : Body)

theorem wtState_stored : Reg.wtState.stored := by simp [Reg.stored]

theorem noteReset_fields {kind src : Nat} (hkind : kind < 8) (hsrc : src < 8) :
    (b.noteReset kind src).getF .wtState Fld.wtStateResetKind = kind ∧ (b.noteReset kind src).getF .wtState Fld.wtStateResetSrc = src := by
  unfold Body.noteReset
  constructor
  · rw [Body.getF_setF_apart _ _ rfl wtState_stored (by decide) (by decide) (by decide) (.inl (by decide)),
      Body.getF_setF_self _ _ rfl wtState_stored (by decide) (by decide)]
    exact Nat.mod_eq_of_lt hkind
  · rw [Body.getF_setF_self _ _ rfl wtState_stored (by decide) (by decide)]
    exact Nat.mod_eq_of_lt hsrc

theorem reg_log (kind unit code status ctx tag arg : Nat) (q : Reg) : (b.log kind unit code status ctx tag arg).reg q = b.reg q :=
  Body.log_reg ..

theorem module_moduleState {v : Nat} (hv : v < 4) : (b.moduleState v).getF .wtState Fld.wtStateModule = v := by
  rw [Body.moduleState, getF_of_reg_eq (reg_log ..), Body.getF_setF_self _ _ rfl wtState_stored (by decide) (by decide)]
  exact Nat.mod_eq_of_lt hv

theorem above_moduleState (v : Nat) {f : Fld} (hf : f.lo ≤ f.hi) (habove : 1 < f.lo) :
    (b.moduleState v).getF .wtState f = b.getF .wtState f := by
  rw [Body.moduleState, getF_of_reg_eq (reg_log ..)]
  exact Body.getF_setF_apart b v rfl wtState_stored (by decide) (by decide) hf (.inr habove)

theorem wtPinStat_ne_wtState : Reg.wtState.addr ≠ Reg.wtPinStat.addr := by decide

theorem reg_syncFault : b.syncFault.reg .wtState = b.reg .wtState := by
  unfold Body.syncFault
  generalize ite (b.boot.heHeld ∨ b.boot.tripped) 1 0 = v
  dsimp only
  split
  · rfl
  · exact Body.reg_setF_ne b _ _ wtPinStat_ne_wtState

end

/-! ### A reset of the module -/

/-- What a reset of the module leaves: nothing in flight and no framing, its kind and source noted, the boot to begin, and the bytes of the
tiers and of the boot flash. -/
def ModuleReset (b t : Body) (src : Nat) (ph : Phase) : Prop :=
  t.boot.phase = ph ∧ t.boot.kind = 1 ∧ t.framing = [] ∧ t.hm.flights = [] ∧ t.hm.ended = [] ∧ t.hm.ctxs = [] ∧
    t.getF .wtState Fld.wtStateResetKind = 1 ∧ t.getF .wtState Fld.wtStateResetSrc = src ∧ t.getF .wtState Fld.wtStateModule = 3 ∧
    t.ts = b.ts ∧ ∀ a, regionOf a ∈ [1780, 1781, 1782, 2200] → t.byte a = b.byte a

/-- The body of a reset once its registers are reset and its units' Logbooks have noted it. -/
def Body.resetNoted (b : Body) (src : Nat) : Body := ((b.cleared .mod).noteReset 1 src).logReset 1

/-- The boot that a reset of the module begins. -/
def Body.bootBegun (b : Body) : Body := { b with boot.phase := if b.boot.rstN then .released else .held, boot.kind := 1 }

theorem modReset_eq (b : Body) (src : Nat) : b.modReset src = (((b.resetNoted src).bootBegun.moduleState 3).readyLevel false).syncFault := by
  unfold Body.modReset Body.resetNoted
  generalize ((b.cleared .mod).noteReset 1 src).logReset 1 = c
  rfl

theorem reg_bootBegun (b : Body) (q : Reg) : b.bootBegun.reg q = b.reg q := rfl

theorem reg_readyLevel (b : Body) (v : Bool) (q : Reg) : (b.readyLevel v).reg q = b.reg q := rfl

theorem boot_readyLevel (b : Body) (v : Bool) : (b.readyLevel v).boot = b.boot := rfl

theorem rstN_emptied (b : Body) (k : Keep) : (b.emptied k).boot.rstN = b.boot.rstN := by
  unfold Body.emptied
  dsimp only
  unfold Body.loseAll
  dsimp only

theorem hm_emptied (b : Body) (k : Keep) : (b.emptied k).hm = { nextUid := b.hm.nextUid } := by
  unfold Body.emptied
  dsimp only
  unfold Body.loseAll
  dsimp only

theorem framing_emptied (b : Body) (k : Keep) : (b.emptied k).framing = [] := by
  unfold Body.emptied
  dsimp only

theorem ts_emptied (b : Body) (k : Keep) : (b.emptied k).ts = if k = .por then 0 else b.ts := by
  unfold Body.emptied
  dsimp only

section
variable (b : Body) {src : Nat}

theorem boot_resetNoted : (b.resetNoted src).boot = (b.emptied .mod).boot := by
  rw [← cleared_keep Body.boot Body.setF_boot b .mod, Body.resetNoted]
  generalize b.cleared .mod = c
  exact (logReset_keep Body.boot (log_keep Body.boot fun _ _ => rfl) _ 1).trans (noteReset_keep Body.boot Body.setF_boot c 1 src)

theorem boot_modReset : (b.modReset src).boot.phase = (if b.boot.rstN = true then .released else .held) ∧ (b.modReset src).boot.kind = 1 := by
  have hpin : (b.resetNoted src).boot.rstN = b.boot.rstN := by rw [boot_resetNoted, rstN_emptied]
  have hlast : (b.modReset src).boot = (b.resetNoted src).bootBegun.boot := by
    rw [modReset_eq]
    generalize (b.resetNoted src).bootBegun = c
    rw [syncFault_keep Body.boot Body.setF_boot (fun _ _ => rfl), boot_readyLevel,
      moduleState_keep Body.boot Body.setF_boot (log_keep Body.boot fun _ _ => rfl)]
  rw [hlast, ← hpin]
  generalize b.resetNoted src = c
  exact ⟨rfl, rfl⟩

theorem wtState_modReset (hsrc : src < 8) : (b.modReset src).getF .wtState Fld.wtStateResetKind = 1 ∧
    (b.modReset src).getF .wtState Fld.wtStateResetSrc = src ∧ (b.modReset src).getF .wtState Fld.wtStateModule = 3 := by
  have hlast : (b.modReset src).reg .wtState = ((b.resetNoted src).bootBegun.moduleState 3).reg .wtState := by
    rw [modReset_eq, reg_syncFault, reg_readyLevel]
  have hnoted : (b.resetNoted src).bootBegun.reg .wtState = ((b.cleared .mod).noteReset 1 src).reg .wtState := by
    rw [reg_bootBegun, Body.resetNoted]
    generalize (b.cleared .mod).noteReset 1 src = c
    exact logReset_keep (fun b : Body => b.reg .wtState) (fun b _ _ _ _ _ _ _ => reg_log b _ _ _ _ _ _ _ _) c 1
  obtain ⟨hkind, hsource⟩ := noteReset_fields (b.cleared .mod) (kind := 1) (by decide) hsrc
  refine ⟨?_, ?_, ?_⟩
  · rw [getF_of_reg_eq hlast, above_moduleState _ _ (by decide) (by decide), getF_of_reg_eq hnoted, hkind]
  · rw [getF_of_reg_eq hlast, above_moduleState _ _ (by decide) (by decide), getF_of_reg_eq hnoted, hsource]
  · rw [getF_of_reg_eq hlast, module_moduleState _ (by decide)]

theorem byte_log (kind unit code status ctx tag arg a : Nat) : (b.log kind unit code status ctx tag arg).byte a = b.byte a :=
  Body.byte_congr (Body.log_mem ..) (Body.log_haze ..) (Body.log_bg ..) a

theorem modReset_resets (hsrc : src < 8) : ModuleReset b (b.modReset src) src (if b.boot.rstN = true then .released else .held) := by
  obtain ⟨hkind, hsource, hmodule⟩ := wtState_modReset b hsrc
  obtain ⟨hphase, hboot⟩ := boot_modReset b (src := src)
  have hhm : (b.modReset src).hm = { nextUid := b.hm.nextUid } :=
    (modReset_keep Body.hm Body.setF_hm (log_keep Body.hm fun _ _ => rfl) (fun _ _ => rfl) (fun _ _ => rfl) b src).trans (hm_emptied b .mod)
  refine ⟨hphase, hboot, ?_, by rw [hhm], by rw [hhm], by rw [hhm], hkind, hsource, hmodule, ?_, fun a ha => ?_⟩
  · exact (modReset_keep Body.framing Body.setF_framing (log_keep Body.framing fun _ _ => rfl) (fun _ _ => rfl) (fun _ _ => rfl) b src).trans
      (framing_emptied b .mod)
  · exact (modReset_keep Body.ts Body.setF_ts (log_keep Body.ts fun _ _ => rfl) (fun _ _ => rfl) (fun _ _ => rfl) b src).trans (ts_emptied b .mod)
  · exact (modReset_keep (fun b : Body => b.byte a) (fun b r f v => byte_setF b r f v a) (fun b _ _ _ _ _ _ _ => byte_log b _ _ _ _ _ _ _ a)
      (fun _ _ => Body.byte_congr rfl rfl rfl a) (fun _ _ => Body.byte_congr rfl rfl rfl a) b src).trans (byte_emptied b .mod ha)

end

theorem ModuleReset.of_same {b c t : Body} {src : Nat} {ph : Phase} (h : ModuleReset c t src ph) (hts : c.ts = b.ts) (hbytes : SameBytes b c) :
    ModuleReset b t src ph := by
  obtain ⟨hphase, hkind, hframing, hflights, hended, hctxs, hreset, hsource, hmodule, hclock, hkept⟩ := h
  exact ⟨hphase, hkind, hframing, hflights, hended, hctxs, hreset, hsource, hmodule, hclock.trans hts, fun a ha => (hkept a ha).trans (hbytes a)⟩

theorem ModuleReset.setPin {b t : Body} {src : Nat} {ph : Phase} (h : ModuleReset b t src ph) (f : Fld) (v : Nat) :
    ModuleReset b (t.setF .wtPinStat f v) src ph := by
  obtain ⟨hphase, hkind, hframing, hflights, hended, hctxs, hreset, hsource, hmodule, hclock, hkept⟩ := h
  have hfield := fun g => Body.getF_setF_ne t f g v wtPinStat_ne_wtState
  exact ⟨by rw [Body.setF_boot, hphase], by rw [Body.setF_boot, hkind], by rw [Body.setF_framing, hframing], by rw [Body.setF_hm, hflights],
    by rw [Body.setF_hm, hended], by rw [Body.setF_hm, hctxs], (hfield _).trans hreset, (hfield _).trans hsource, (hfield _).trans hmodule,
    by rw [Body.setF_ts, hclock], fun a ha => (byte_setF ..).trans (hkept a ha)⟩

/-! ### RST KIND MOD, the watchdog and RST_N -/

section
variable {s : State}

theorem exec_rstMod {c : Cmd} {fl : Flight} (hd : Dispatched s.body c 0x7F fl) (hkind : c.f 1 1 0 = 0) :
    exec (.rstMod c) s = .next { s with body := s.body.modReset 2 } := by
  change execRstMod c s = _
  rw [execRstMod, State.onBody, Body.onSub_dispatched hd, hkind]
  rfl

/-- What the watchdog writes before it resets the module. -/
def Body.watchdogNoted (b : Body) : Body :=
  ((b.freezeLogs 3).free.2.err 0x0302 2 10 0 [(b.freezeLogs 3).free.1.toNat] 0x70).watchNotice 0x70

theorem watchdogNoted_keep {γ : Type} (p : Body → γ) (hset : ∀ (b : Body) r f v, p (b.setF r f v) = p b)
    (herr : ∀ (b : Body) code sev kind unit d st ctx, p (b.err code sev kind unit d st ctx) = p b) (hsend : ∀ (b : Body) m, p (b.send m) = p b)
    (hfree : ∀ (b : Body) n, p { b with freeCtr := n } = p b) (b : Body) : p b.watchdogNoted = p b := by
  have hfreeze : p (b.freezeLogs 3) = p b := by
    unfold Body.freezeLogs
    split
    · rfl
    · rw [hset, hset]
  have hnotice : ∀ c : Body, p (c.watchNotice 0x70) = p c := fun c => by
    unfold Body.watchNotice
    dsimp only
    split
    · rfl
    · exact hsend c _
  exact (hnotice _).trans ((herr _ _ _ _ _ _ _ _).trans ((hfree (b.freezeLogs 3) _).trans hfreeze))

theorem exec_watchdog_of_running
    (h : s.body.boot.phase ∈ [.firmware, .framed, .boardwalk, .trained, .run, .anchorEntry, .anchor, .drydockEntry]) :
    exec .watchdog s = .next { s with body := s.body.watchdogNoted.modReset 3 } := by
  change execWatchdog s = _
  rw [execWatchdog, State.onBody, if_neg (not_not.2 h)]
  rfl

theorem exec_watchdog_of_stopped
    (h : s.body.boot.phase ∉ [.firmware, .framed, .boardwalk, .trained, .run, .anchorEntry, .anchor, .drydockEntry]) :
    exec .watchdog s = .next s := by
  change execWatchdog s = _
  rw [execWatchdog, State.onBody, if_pos h]

/-- A body with the level of RST_N. -/
def Body.pinRstN (b : Body) (v : Bool) : Body := { b with boot.rstN := v }

theorem exec_rstNLow_of_on (hoff : s.body.boot.phase ≠ .off) (hdrydock : s.body.boot.phase ≠ .drydock) :
    exec .rstNLow s = .next { s with body := ((s.body.pinRstN false).modReset 1).setF .wtPinStat Fld.wtPinStatRstN 0 } := by
  change execRstNLow s = _
  rw [execRstNLow, State.onBody]
  dsimp only
  rw [if_neg hoff, if_neg hdrydock, Body.pinRstN]

theorem watchdog_resets (h : s.body.boot.phase ∈ [.firmware, .framed, .boardwalk, .trained, .run, .anchorEntry, .anchor, .drydockEntry]) :
    Gives .watchdog s fun t => ModuleReset s.body t 3 (if s.body.boot.rstN = true then .released else .held) := by
  refine gives_of_exec (exec_watchdog_of_running h) ?_
  have hboot : s.body.watchdogNoted.boot = s.body.boot :=
    watchdogNoted_keep Body.boot Body.setF_boot Body.err_boot (fun _ _ => rfl) (fun _ _ => rfl) s.body
  have hts : s.body.watchdogNoted.ts = s.body.ts := watchdogNoted_keep Body.ts Body.setF_ts Body.err_ts (fun _ _ => rfl) (fun _ _ => rfl) s.body
  have hbytes : SameBytes s.body s.body.watchdogNoted := fun a => watchdogNoted_keep (fun b : Body => b.byte a) (fun b r f v => byte_setF b r f v a)
    (fun b _ _ _ _ _ _ _ => Body.byte_congr (Body.err_mem ..) (Body.err_haze ..) (Body.err_bg ..) a) (fun _ _ => Body.byte_congr rfl rfl rfl a)
    (fun _ _ => Body.byte_congr rfl rfl rfl a) s.body
  have hreset := (modReset_resets s.body.watchdogNoted (src := 3) (by decide)).of_same hts hbytes
  rwa [hboot] at hreset

theorem rstNLow_resets (hoff : s.body.boot.phase ≠ .off) (hdrydock : s.body.boot.phase ≠ .drydock) :
    Gives .rstNLow s fun t => ModuleReset s.body t 1 .held :=
  gives_of_exec (exec_rstNLow_of_on hoff hdrydock)
    (((modReset_resets (s.body.pinRstN false) (src := 1) (by decide)).of_same rfl (sameBytes_of rfl rfl rfl)).setPin _ _)

/-! ### RST KIND PART and QUAY -/

theorem wtState_zeroAwait (b : Body) (fl : Flight) (rs : List Nat) : (b.zeroAwait fl rs).reg .wtState = b.reg .wtState := by
  unfold Body.zeroAwait
  dsimp only
  split
  · exact unnoted_wtState.done b fl 0
  · rfl

/-- A reset noted, and completing with a zeroing, stays noted. -/
theorem gives_of_noteReset {i : Instr} {b : Body} {kind src : Nat} {fl : Flight} {rs : List Nat} (hkind : kind < 8) (hsrc : src < 8)
    (hexec : exec i s = .next { s with body := (b.noteReset kind src).zeroAwait fl rs }) : Gives i s fun t =>
      t.getF .wtState Fld.wtStateResetKind = kind ∧ t.getF .wtState Fld.wtStateResetSrc = src ∧ t = (b.noteReset kind src).zeroAwait fl rs := by
  obtain ⟨hreset, hsource⟩ := noteReset_fields b hkind hsrc
  exact gives_of_exec hexec ⟨(getF_of_reg_eq (wtState_zeroAwait ..) _).trans hreset, (getF_of_reg_eq (wtState_zeroAwait ..) _).trans hsource, rfl⟩

section
variable {c : Cmd} {fl : Flight} (hd : Dispatched s.body c 0x7F fl)
include hd

theorem rstPart_refused (hkind : c.f 1 1 0 = 1) (hpart : partDefined s.body.framing (c.f 1 7 4) = false) :
    Gives (.rstPart c) s fun t => OnlyEnds s.body t fl 0x11 0 [] := by
  refine gives_of_exec (?_ : exec (.rstPart c) s = .next { s with body := s.body.fail fl 0x11 (c.f 1 7 4) })
    ((StillSame.refl s.body).fail fl 0x11 _ 0)
  change execRstPart c s = _
  rw [execRstPart, State.onBody, Body.onSub_dispatched hd, if_pos (decide_eq_true hkind)]
  dsimp only
  rw [if_pos (by simp [hpart])]

theorem exec_rstPart (hkind : c.f 1 1 0 = 1) (hpart : partDefined s.body.framing (c.f 1 7 4) = true) :
    exec (.rstPart c) s = .next { s with
      body := ((s.body.partReset (c.f 1 7 4) (some fl.uid)).noteReset 2 2).zeroAwait fl
        (quayRegions (quaysOf s.body.framing (c.f 1 7 4))) } := by
  change execRstPart c s = _
  rw [execRstPart, State.onBody, Body.onSub_dispatched hd, if_pos (decide_eq_true hkind)]
  dsimp only
  rw [if_neg (not_not.2 hpart)]

theorem rstQuay_refused (hkind : 2 ≤ c.f 1 1 0) (hquay : partOfQuay s.body.framing (c.f 1 7 4) = none) :
    Gives (.rstQuay c) s fun t => OnlyEnds s.body t fl 0x11 0 [] := by
  refine gives_of_exec (?_ : exec (.rstQuay c) s = .next { s with
      body := (s.body.clampCmd fl (if c.f 1 1 0 = 3 then 1 else 0)).fail fl 0x11 (c.f 1 7 4) })
    (((StillSame.refl s.body).clampCmd fl _).fail fl 0x11 _ 0)
  change execRstQuay c s = _
  rw [execRstQuay, State.onBody, Body.onSub_dispatched hd, if_pos (decide_eq_true hkind)]
  dsimp only
  rw [Body.clampCmd_framing, if_pos hquay]

theorem exec_rstQuay (hkind : 2 ≤ c.f 1 1 0) (hquay : partOfQuay s.body.framing (c.f 1 7 4) ≠ none) :
    exec (.rstQuay c) s = .next { s with
      body := (((s.body.clampCmd fl (if c.f 1 1 0 = 3 then 1 else 0)).quayReset [c.f 1 7 4] .quay).noteReset 3 2).zeroAwait fl
        (quayRegions [c.f 1 7 4]) } := by
  change execRstQuay c s = _
  rw [execRstQuay, State.onBody, Body.onSub_dispatched hd, if_pos (decide_eq_true hkind)]
  dsimp only
  rw [Body.clampCmd_framing, if_neg hquay]

end

end

/-! ### Input power -/

/-- A body with every rail down. -/
def Body.railsDown (b : Body) : Body :=
  { b with boot.phase := .off, boot.kind := 0, boot.tripped := false, boot.heHeld := false }

theorem powerOff_eq (b : Body) : b.powerOff = ((b.readyLevel false).cleared .por).railsDown := rfl

/-- What a loss of power leaves: no boot, no framing, nothing in flight, no telemetry, and the bytes of Tier F and of the boot flash. -/
def PowerLost (b t : Body) : Prop :=
  t.boot.phase = .off ∧ t.boot.kind = 0 ∧ t.boot.tripped = false ∧ t.ts = 0 ∧ t.framing = [] ∧ t.hm.flights = [] ∧ t.hm.ended = [] ∧
    t.tele = {} ∧ ∀ a, regionOf a ∈ [1782, 2200] → t.byte a = b.byte a

theorem tele_emptied_por (b : Body) : (b.emptied .por).tele = {} := by
  unfold Body.emptied
  dsimp only
  rw [Body.teleAfter, if_pos rfl]

theorem powerOff_loses (b : Body) : PowerLost b b.powerOff := by
  rw [powerOff_eq]
  have hhm : ((b.readyLevel false).cleared .por).hm = { nextUid := b.hm.nextUid } :=
    (cleared_keep Body.hm Body.setF_hm _ .por).trans (hm_emptied (b.readyLevel false) .por)
  have hts : ((b.readyLevel false).cleared .por).ts = 0 := (cleared_keep Body.ts Body.setF_ts _ .por).trans (ts_emptied _ .por)
  have hframing : ((b.readyLevel false).cleared .por).framing = [] :=
    (cleared_keep Body.framing Body.setF_framing _ .por).trans (framing_emptied _ .por)
  have htele : ((b.readyLevel false).cleared .por).tele = {} := (cleared_keep Body.tele Body.setF_tele _ .por).trans (tele_emptied_por _)
  have hbytes : ∀ a, regionOf a ∈ [1782, 2200] → ((b.readyLevel false).cleared .por).byte a = b.byte a := fun a ha =>
    (cleared_keep (fun b : Body => b.byte a) (fun b r f v => byte_setF b r f v a) _ .por).trans
      ((byte_emptied (b.readyLevel false) .por ha).trans (Body.byte_congr rfl rfl rfl a))
  generalize (b.readyLevel false).cleared .por = c at hhm hts hframing htele hbytes
  exact ⟨rfl, rfl, rfl, hts, hframing, congrArg (fun x : Harbour => x.flights) hhm, congrArg (fun x : Harbour => x.ended) hhm, htele,
    fun a ha => (Body.byte_congr rfl rfl rfl a).trans (hbytes a ha)⟩

theorem PowerLost.of_same {b c t : Body} (h : PowerLost c t) (hbytes : SameBytes b c) : PowerLost b t := by
  obtain ⟨hphase, hkind, htripped, hts, hframing, hflights, hended, htele, hkept⟩ := h
  exact ⟨hphase, hkind, htripped, hts, hframing, hflights, hended, htele, fun a ha => (hkept a ha).trans (hbytes a)⟩

/-! ### The fuses are sensed -/

section
variable (b : Body) (fu : Fuses)

theorem senseFuses_keep {γ : Type} (p : Body → γ) (hset : ∀ (b : Body) r f v, p (b.setF r f v) = p b) : p (b.senseFuses fu) = p b := by
  unfold Body.senseFuses
  dsimp only
  refine (foldl_keep p _ _ _ fun b i => hset b _ _ _).trans ?_
  rw [hset, hset, hset, hset]

theorem scId2_addr_ne_mapout {i : Nat} (hi : i < 20) : Reg.scId2.addr ≠ (Reg.mtHbmMapout i).addr := by
  simp only [Reg.addr]
  omega

theorem reg_senseFuses {q : Reg} (hid : q.addr ≠ Reg.scId2.addr) (hmapout : ∀ i < 20, q.addr ≠ (Reg.mtHbmMapout i).addr) :
    (b.senseFuses fu).reg q = b.reg q := by
  unfold Body.senseFuses
  dsimp only
  refine (foldl_keep (fun b : Body => b.reg q) _ _ _ fun b i =>
    Body.reg_setF_of_ok_ne b _ _ fun hok => hmapout i (of_decide_eq_true hok)).trans ?_
  rw [Body.reg_setF_ne _ _ _ hid, Body.reg_setF_ne _ _ _ hid, Body.reg_setF_ne _ _ _ hid, Body.reg_setF_ne _ _ _ hid]

/-- SC_ID2 shows the fuses sensed. -/
theorem senseFuses_scId2 : (b.senseFuses fu).getF .scId2 Fld.scId2OwnerSet = (if fu.owner = none then 0 else 1) ∧
    (b.senseFuses fu).getF .scId2 Fld.scId2Revoked = fu.revoked % 2 ^ Fld.scId2Revoked.width ∧
    (b.senseFuses fu).getF .scId2 Fld.scId2FwSvn = fu.fwSvn % 2 ^ Fld.scId2FwSvn.width ∧
    (b.senseFuses fu).getF .scId2 Fld.scId2FrSvn = fu.frSvn % 2 ^ Fld.scId2FrSvn.width := by
  have hstored : Reg.scId2.stored := by simp [Reg.stored]
  have hapart := fun (c : Body) (f g : Fld) (v : Nat) hl hh hg ha => Body.getF_setF_apart c (r := .scId2) (f := f) (g := g) v rfl hstored hl hh hg ha
  have hself := fun (c : Body) (f : Fld) (v : Nat) hl hh => Body.getF_setF_self c (r := .scId2) (f := f) v rfl hstored hl hh
  unfold Body.senseFuses
  dsimp only
  have hmapout := fun (c : Body) f => getF_of_reg_eq (foldl_keep (fun b : Body => b.reg .scId2)
    (fun b i => b.setF (.mtHbmMapout i) Fld.mtHbmMapoutFused (SMap.get fu.mapout 0 i)) (List.range 20) c
    fun b i => Body.reg_setF_of_ok_ne b _ _ fun hok => scId2_addr_ne_mapout (of_decide_eq_true hok)) f
  refine ⟨?_, ?_, ?_, ?_⟩
  · rw [hmapout, hapart _ _ _ _ (by decide) (by decide) (by decide) (by decide), hapart _ _ _ _ (by decide) (by decide) (by decide) (by decide),
      hapart _ _ _ _ (by decide) (by decide) (by decide) (by decide), hself _ _ _ (by decide) (by decide)]
    cases fu.owner <;> rfl
  · rw [hmapout, hapart _ _ _ _ (by decide) (by decide) (by decide) (by decide), hapart _ _ _ _ (by decide) (by decide) (by decide) (by decide),
      hself _ _ _ (by decide) (by decide)]
  · rw [hmapout, hapart _ _ _ _ (by decide) (by decide) (by decide) (by decide), hself _ _ _ (by decide) (by decide)]
  · rw [hmapout, hself _ _ _ (by decide) (by decide)]

end

/-! ### Power-up, and power that goes -/

section
variable {s : State}

/-- A body whose input stage has started. -/
def Body.railsUp (b : Body) : Body :=
  { b with ts := 0, boot.phase := if b.boot.rstN then .released else .held, boot.released := 0, power.enA := true, power.enB := true }

theorem exec_powerUp_of_off (h : s.body.boot.phase = .off) :
    exec .powerUp s = .next { s with body := (s.body.railsUp.senseFuses s.fuse).moduleState 3 } := by
  change execPowerUp s = _
  rw [execPowerUp, State.onFused, if_neg (not_not.2 h), Body.railsUp]

theorem exec_powerUp_of_on (h : s.body.boot.phase ≠ .off) : exec .powerUp s = .next s := by
  change execPowerUp s = _
  rw [execPowerUp, State.onFused, if_pos h]

theorem powerUp_begins (h : s.body.boot.phase = .off) : Gives .powerUp s fun t =>
    t.boot.phase = (if s.body.boot.rstN = true then .released else .held) ∧ t.ts = 0 ∧ t.power.enA = true ∧ t.power.enB = true ∧
      t.getF .wtState Fld.wtStateModule = 3 ∧ t.getF .scId2 Fld.scId2OwnerSet = (if s.fuse.owner = none then 0 else 1) ∧
      t.getF .scId2 Fld.scId2Revoked = s.fuse.revoked % 2 ^ Fld.scId2Revoked.width ∧
      t.getF .scId2 Fld.scId2FwSvn = s.fuse.fwSvn % 2 ^ Fld.scId2FwSvn.width ∧
      t.getF .scId2 Fld.scId2FrSvn = s.fuse.frSvn % 2 ^ Fld.scId2FrSvn.width ∧ SameBytes s.body t := by
  have hkeep : ∀ {γ : Type} (p : Body → γ) (hset : ∀ (b : Body) r f v, p (b.setF r f v) = p b)
      (htele : ∀ (b : Body) x, p { b with tele := x } = p b), p ((s.body.railsUp.senseFuses s.fuse).moduleState 3) = p s.body.railsUp :=
    fun p hset htele => (moduleState_keep p hset (log_keep p htele) _ 3).trans (senseFuses_keep _ _ p hset)
  obtain ⟨howner, hrevoked, hfw, hfr⟩ := senseFuses_scId2 s.body.railsUp s.fuse
  have hid := fun f => (getF_of_reg_eq (reg_log ((s.body.railsUp.senseFuses s.fuse).setF .wtState Fld.wtStateModule 3) 10 0 0x0A 0 0xFFFF 0 3 .scId2) f).trans
    (Body.getF_setF_ne _ _ _ _ (by decide : Reg.scId2.addr ≠ Reg.wtState.addr))
  have hpower := hkeep Body.power Body.setF_power fun _ _ => rfl
  refine gives_of_exec (exec_powerUp_of_off h) ⟨?_, hkeep Body.ts Body.setF_ts fun _ _ => rfl, congrArg Power.enA hpower,
    congrArg Power.enB hpower, module_moduleState _ (by decide), (hid _).trans howner, (hid _).trans hrevoked, (hid _).trans hfw,
    (hid _).trans hfr, fun a => ?_⟩
  · exact congrArg Boot.phase (hkeep Body.boot Body.setF_boot fun _ _ => rfl)
  · exact (hkeep (fun b : Body => b.byte a) (fun b r f v => byte_setF b r f v a) fun _ _ => Body.byte_congr rfl rfl rfl a).trans
      (Body.byte_congr rfl rfl rfl a)

/-- A body with one of the enables open. -/
def Body.enableOpen (b : Body) (e : Bool) : Body := if e then { b with power.enB := false } else { b with power.enA := false }

theorem exec_enOpen (e : Bool) : exec (.enOpen e) s = .next { s with
    body := if s.body.boot.phase = .off then s.body.enableOpen e else (s.body.enableOpen e).powerOff } := by
  change execEnOpen e s = _
  cases e <;> rfl

theorem enOpen_of_off (h : s.body.boot.phase = .off) (e : Bool) : Gives (.enOpen e) s fun t =>
    t.boot = s.body.boot ∧ t.power.enA = (s.body.power.enA && e) ∧ t.power.enB = (s.body.power.enB && !e) := by
  refine gives_of_exec ((exec_enOpen e).trans (congrArg _ (congrArg _ (if_pos h)))) ?_
  cases e <;> simp [Body.enableOpen]

/-- With power, each loss of input power and a reset of the Watch in DRYDOCK lose the module's state. -/
theorem inputPower_lost {i : Instr} (h : s.body.boot.phase ≠ .off)
    (hi : i ∈ [Instr.inputShutdown, .enOpen false, .enOpen true] ∨ (i = .watchReset ∧ s.body.boot.phase = .drydock)) :
    Gives i s fun t => PowerLost s.body t := by
  simp only [List.mem_cons, List.not_mem_nil, or_false] at hi
  have hopen : ∀ e, Gives (.enOpen e) s fun t => PowerLost s.body t := fun e =>
    gives_of_exec ((exec_enOpen e).trans (congrArg _ (congrArg _ (if_neg h))))
      ((powerOff_loses _).of_same (by cases e <;> exact sameBytes_of rfl rfl rfl))
  rcases hi with (rfl | rfl | rfl) | ⟨rfl, hdrydock⟩
  · refine gives_of_exec (?_ : exec .inputShutdown s = .next { s with body := s.body.powerOff }) (powerOff_loses _)
    change execInputShutdown s = _
    rw [execInputShutdown, State.onBody, if_neg h]
  · exact hopen false
  · exact hopen true
  · refine gives_of_exec (?_ : exec .watchReset s = .next { s with body := s.body.powerOff }) (powerOff_loses _)
    change execWatchReset s = _
    rw [execWatchReset, State.onBody, if_neg h, if_pos hdrydock]

theorem exec_unpowered {i : Instr} (h : s.body.boot.phase = .off) (hi : i ∈ [Instr.watchReset, .inputShutdown]) : exec i s = .next s := by
  simp only [List.mem_cons, List.not_mem_nil, or_false] at hi
  rcases hi with rfl | rfl
  · change execWatchReset s = _
    rw [execWatchReset, State.onBody, if_pos h]
  · change execInputShutdown s = _
    rw [execInputShutdown, State.onBody, if_pos h]

/-! ### The pin RST_N -/

theorem exec_rstNLow_of_off (h : s.body.boot.phase = .off) : exec .rstNLow s = .next { s with body := s.body.pinRstN false } := by
  change execRstNLow s = _
  rw [execRstNLow, State.onBody]
  dsimp only
  rw [if_pos h, Body.pinRstN]

theorem exec_rstNRelease_of_off (h : s.body.boot.phase = .off) : exec .rstNRelease s = .next { s with body := s.body.pinRstN true } := by
  change execRstNRelease s = _
  rw [execRstNRelease, State.onBody]
  dsimp only
  rw [if_pos h, Body.pinRstN]

theorem exec_rstNLow_of_drydock (h : s.body.boot.phase = .drydock) :
    exec .rstNLow s = .next { s with body := ((s.body.pinRstN false).leaveDrydock 5).setF .wtPinStat Fld.wtPinStatRstN 0 } := by
  change execRstNLow s = _
  rw [execRstNLow, State.onBody]
  dsimp only
  rw [if_neg (by rw [h]; decide), if_pos h, Body.pinRstN]

/-- The boot that ends DRYDOCK, before WT_STATE takes its cause. -/
def Body.drydockLeft (b : Body) : Body :=
  { b with boot.phase := if b.boot.rstN then .released else .held, boot.released := b.ts, power.wakeAt := none }

theorem leaveDrydock_eq (b : Body) (cause : Nat) : b.leaveDrydock cause = (b.drydockLeft.setF .wtState Fld.wtStateWake cause).moduleState 3 := rfl

theorem rstNLow_leavesDrydock (h : s.body.boot.phase = .drydock) : Gives .rstNLow s fun t =>
    t.boot.phase = .held ∧ t.getF .wtState Fld.wtStateWake = 5 ∧ SameBytes s.body t := by
  refine gives_of_exec (exec_rstNLow_of_drydock h) ?_
  rw [leaveDrydock_eq]
  have hboot : ((s.body.pinRstN false).drydockLeft).boot.phase = .held := rfl
  have hbytes : SameBytes s.body (s.body.pinRstN false).drydockLeft := sameBytes_of rfl rfl rfl
  generalize (s.body.pinRstN false).drydockLeft = c at hboot hbytes
  refine ⟨?_, ?_, fun a => ?_⟩
  · rw [Body.setF_boot, moduleState_keep Body.boot Body.setF_boot (log_keep Body.boot fun _ _ => rfl), Body.setF_boot, hboot]
  · rw [Body.getF_setF_ne _ _ _ _ wtPinStat_ne_wtState, above_moduleState _ _ (by decide) (by decide),
      Body.getF_setF_self _ _ rfl wtState_stored (by decide) (by decide)]
    rfl
  · rw [byte_setF, moduleState_keep (fun b : Body => b.byte a) (fun b r f v => byte_setF b r f v a)
      (log_keep (fun b : Body => b.byte a) fun _ _ => Body.byte_congr rfl rfl rfl a), byte_setF, hbytes a]

/-- A body that begins its boot where it was held. -/
def Body.heldBegun (b : Body) : Body := if b.boot.phase = .held then { b with boot.phase := .released, boot.released := b.ts } else b

theorem exec_rstNRelease_of_on (h : s.body.boot.phase ≠ .off) :
    exec .rstNRelease s = .next { s with body := ((s.body.pinRstN true).setF .wtPinStat Fld.wtPinStatRstN 1).heldBegun } := by
  change execRstNRelease s = _
  rw [execRstNRelease, State.onBody]
  dsimp only
  rw [if_neg h, Body.pinRstN, Body.heldBegun]

theorem heldBegun_keep {γ : Type} (p : Body → γ) (h : ∀ (b : Body) x, p { b with boot := x } = p b) (b : Body) : p b.heldBegun = p b := by
  unfold Body.heldBegun
  split
  · exact h b _
  · rfl

theorem rstNRelease_begins (h : s.body.boot.phase ≠ .off) : Gives .rstNRelease s fun t =>
    t.boot = { s.body.boot with rstN := true, phase := t.boot.phase, released := t.boot.released } ∧
      t.boot.phase = (if s.body.boot.phase = .held then .released else s.body.boot.phase) ∧ t.flag .wtPinStat Fld.wtPinStatRstN = true ∧
      SameRegsBut s.body t [Reg.wtPinStat.addr] ∧ SameBytes s.body t ∧ t.hm = s.body.hm := by
  refine gives_of_exec (exec_rstNRelease_of_on h) ?_
  have hboot : ((s.body.pinRstN true).setF .wtPinStat Fld.wtPinStatRstN 1).boot = { s.body.boot with rstN := true } := Body.setF_boot ..
  have hflag : ((s.body.pinRstN true).setF .wtPinStat Fld.wtPinStatRstN 1).flag .wtPinStat Fld.wtPinStatRstN = true := by
    rw [Body.flag, Body.getF_setF_self _ _ rfl (by simp [Reg.stored]) (by decide) (by decide)]
    rfl
  have hregs : SameRegsBut s.body ((s.body.pinRstN true).setF .wtPinStat Fld.wtPinStatRstN 1) [Reg.wtPinStat.addr] := fun q _ hq =>
    Body.reg_setF_ne (s.body.pinRstN true) _ _ (List.ne_of_not_mem_cons hq)
  have hbytes : SameBytes s.body ((s.body.pinRstN true).setF .wtPinStat Fld.wtPinStatRstN 1) := fun a =>
    (byte_setF ..).trans (Body.byte_congr rfl rfl rfl a)
  have hhm : ((s.body.pinRstN true).setF .wtPinStat Fld.wtPinStatRstN 1).hm = s.body.hm := Body.setF_hm ..
  generalize (s.body.pinRstN true).setF .wtPinStat Fld.wtPinStatRstN 1 = c at hboot hflag hregs hbytes hhm
  have hreg := fun q => heldBegun_keep (fun b : Body => b.reg q) (fun _ _ => rfl) c
  have hphase : c.boot.phase = s.body.boot.phase := by rw [hboot]
  refine ⟨?_, ?_, (flag_of_reg_eq (hreg _) _).trans hflag, fun q hn hq => (hreg q).trans (hregs q hn hq),
    fun a => (heldBegun_keep (fun b : Body => b.byte a) (fun _ _ => Body.byte_congr rfl rfl rfl a) c).trans (hbytes a),
    (heldBegun_keep Body.hm (fun _ _ => rfl) c).trans hhm⟩
  · unfold Body.heldBegun
    split <;> simp only [hboot]
  · unfold Body.heldBegun
    rw [hphase]
    split
    · rfl
    · exact hphase

end

/-! ### The restart of the Watch is done -/

section
variable {s : State}

theorem exec_watchRestartDone_of_run (h : s.body.power.holdWatch = false) : exec .watchRestartDone s = .next s := by
  change execWatchRestartDone s = _
  rw [execWatchRestartDone, State.onFused, if_pos (by simp [h])]

/-- A body whose Watch has restarted. -/
def Body.watchUp (b : Body) : Body := { b with ts := 0, power.holdWatch := false, power.watchSteps := List.replicate 10 54 }

/-- Swell E begins its start-up test, unless it has failed. -/
def Body.swellRestart (b : Body) : Body :=
  if b.swellState 1 = 3 then b
  else (b.setSwell 1 { b.swell 1 with blocks := 0, word := none, run := 0 }).setF (.rpSwellStat 1) Fld.rpSwellStatState 0

theorem exec_watchRestartDone (h : s.body.power.holdWatch = true) :
    exec .watchRestartDone s = .next { s with body := (s.body.watchUp.senseFuses s.fuse).swellRestart } := by
  change execWatchRestartDone s = _
  rw [execWatchRestartDone, State.onFused, if_neg (not_not.2 h)]
  rfl

theorem swellRestart_keep {γ : Type} (p : Body → γ) (hset : ∀ (b : Body) f v, p (b.setF (.rpSwellStat 1) f v) = p b)
    (hrnd : ∀ (b : Body) x, p { b with rnd := x } = p b) (b : Body) : p b.swellRestart = p b := by
  unfold Body.swellRestart
  split
  · rfl
  · exact (hset _ _ _).trans (hrnd b _)

theorem swellState_swellRestart (b : Body) : b.swellRestart.swellState 1 = if b.swellState 1 = 3 then 3 else 0 := by
  unfold Body.swellRestart
  split
  next h => exact h
  next =>
    rw [Body.swellState, Body.getF_setF_self _ _ rfl (by simp [Reg.stored]) (by decide) (by decide)]
    rfl

theorem watchRestartDone_restarts (h : s.body.power.holdWatch = true) : Gives .watchRestartDone s fun t =>
    t.ts = 0 ∧ t.power.holdWatch = false ∧ t.power.watchSteps = List.replicate 10 54 ∧
      t.swellState 1 = (if s.body.swellState 1 = 3 then 3 else 0) ∧
      t.getF .scId2 Fld.scId2FwSvn = s.fuse.fwSvn % 2 ^ Fld.scId2FwSvn.width ∧ t.hm = s.body.hm ∧ SameBytes s.body t := by
  have hkeep : ∀ {γ : Type} (p : Body → γ) (hset : ∀ (b : Body) r f v, p (b.setF r f v) = p b)
      (hrnd : ∀ (b : Body) x, p { b with rnd := x } = p b), p (s.body.watchUp.senseFuses s.fuse).swellRestart = p s.body.watchUp :=
    fun p hset hrnd => (swellRestart_keep p (fun b => hset b _) hrnd _).trans (senseFuses_keep _ _ p hset)
  have hpower := hkeep Body.power Body.setF_power fun _ _ => rfl
  obtain ⟨-, -, hfw, -⟩ := senseFuses_scId2 s.body.watchUp s.fuse
  refine gives_of_exec (exec_watchRestartDone h) ⟨hkeep Body.ts Body.setF_ts fun _ _ => rfl, congrArg Power.holdWatch hpower,
    congrArg Power.watchSteps hpower, ?_, ?_, hkeep Body.hm Body.setF_hm fun _ _ => rfl, fun a => ?_⟩
  · have hstate : (s.body.watchUp.senseFuses s.fuse).swellState 1 = s.body.swellState 1 :=
      getF_of_reg_eq (reg_senseFuses s.body.watchUp s.fuse (q := .rpSwellStat 1) (by decide) fun i hi => by simp only [Reg.addr]; omega) _
    rw [swellState_swellRestart, hstate]
  · exact (getF_of_reg_eq (swellRestart_keep (fun b : Body => b.reg .scId2) (fun b f v => Body.reg_setF_ne b f v (by decide)) (fun _ _ => rfl) _) _).trans
      hfw
  · exact (hkeep (fun b : Body => b.byte a) (fun b r f v => byte_setF b r f v a) fun _ _ => Body.byte_congr rfl rfl rfl a).trans
      (Body.byte_congr rfl rfl rfl a)

/-! ### SRAM errors -/

theorem hmSramEcc_stored : Reg.hmSramEcc.stored := by simp [Reg.stored]

theorem sramEcc_corrected (word : Nat) : Gives (.sramEccError .correctable word) s fun t =>
    Counted s.body t .hmSramEcc Fld.hmSramEccCorrected 1 ∧ SameRegsBut s.body t [Reg.hmSramEcc.addr] ∧ SameBytes s.body t ∧ t.hm = s.body.hm :=
  gives_of_exec (b := s.body.bump .hmSramEcc Fld.hmSramEccCorrected 1) rfl
    ⟨counted_bump s.body 1 rfl hmSramEcc_stored (by decide) (by decide),
      fun _ _ hq => Body.reg_bump_ne s.body _ _ (List.ne_of_not_mem_cons hq), sameBytes_bump _ _ _ _, Body.bump_hm ..⟩

variable {ctx k : Nat}

theorem exec_sramEcc_absent (word : Nat) (h : s.body.slotOf ctx = none) : exec (.sramEccError (.context ctx) word) s = .next s := by
  change execSramEccError (.context ctx) word s = _
  simp only [execSramEccError, State.onBody, h]

theorem exec_sramEcc_management (word : Nat) (h : s.body.slotOf ctx = some k) (hk : 64 ≤ k) :
    exec (.sramEccError (.context ctx) word) s = .next { s with body := { s.body with hm.sramDead := true } } := by
  change execSramEccError (.context ctx) word s = _
  simp only [execSramEccError, State.onBody, h, ge_iff_le, hk, if_true]

/-- An uncorrectable word of a context's state, noted. -/
def Body.sramNoted (b : Body) (ctx word : Nat) : Body :=
  ((b.bump .hmSramEcc Fld.hmSramEccUncorrected 1).setF .hmSramEcc Fld.hmSramEccLastCtx ctx).err 0x0301 1 2 0 [word, ctx] 0x20 ctx

theorem exec_sramEcc_context (word : Nat) (h : s.body.slotOf ctx = some k) (hk : k < 64) :
    exec (.sramEccError (.context ctx) word) s = .next { s with body := (s.body.sramNoted ctx word).ctxReset k 0x20 } := by
  change execSramEccError (.context ctx) word s = _
  simp only [execSramEccError, State.onBody, h, ge_iff_le, Nat.not_le.2 hk, if_false, Body.sramNoted]

theorem sramEcc_resets (word : Nat) (h : s.body.slotOf ctx = some k) (hk : k < 64) : Gives (.sramEccError (.context ctx) word) s fun t =>
    Counted s.body t .hmSramEcc Fld.hmSramEccUncorrected 1 ∧ t.getF .hmSramEcc Fld.hmSramEccLastCtx = ctx % 65536 ∧
      t.hm.sramDead = s.body.hm.sramDead ∧ (∀ r, r < 256 → t.sreg k r = 0) ∧ ∀ n, n < 1024 → (t.entry k n).valid = false := by
  obtain ⟨hsregs, hentries, -⟩ := ctxReset_clears (s.body.sramNoted ctx word) k 0x20 none
  have hcalm := calm_ctxReset (s.body.sramNoted ctx word) k 0x20 none
  have hreg : ((s.body.sramNoted ctx word).ctxReset k 0x20).reg .hmSramEcc =
      ((s.body.bump .hmSramEcc Fld.hmSramEccUncorrected 1).setF .hmSramEcc Fld.hmSramEccLastCtx ctx).reg .hmSramEcc :=
    (congrArg (·.2.2) hcalm).trans (unnoted_hmSramEcc.error _ _ _ _ _ _ _ _)
  have hdead : ((s.body.sramNoted ctx word).ctxReset k 0x20).hm.sramDead = s.body.hm.sramDead := by
    refine (congrArg (·.2.1) hcalm).trans ?_
    rw [Body.calm, Body.sramNoted, Body.err_hm, Body.setF_hm, Body.bump_hm]
  refine gives_of_exec (exec_sramEcc_context word h hk) ⟨?_, ?_, hdead, hsregs, hentries⟩
  · rw [Counted, getF_of_reg_eq hreg, Body.getF_setF_apart _ _ rfl hmSramEcc_stored (by decide) (by decide) (by decide) (by decide)]
    exact counted_bump s.body 1 rfl hmSramEcc_stored (by decide) (by decide)
  · rw [getF_of_reg_eq hreg, Body.getF_setF_self _ _ rfl hmSramEcc_stored (by decide) (by decide)]
    rfl

/-! ### The boot flash -/

/-- A body with the level of FLASH_SVC_N. -/
def Body.pinSvc (b : Body) (v : Bool) : Body := { b with boot.svcLow := v }

theorem exec_flashSvcNLow (s : State) : exec .flashSvcNLow s = .next { s with
    body := if s.body.flashService then (s.body.pinSvc true).setF .wtPinStat Fld.wtPinStatFlashSvc 1 else s.body.pinSvc true } := rfl

theorem flashSvcNLow_lends : Gives .flashSvcNLow s fun t =>
    t.boot = { s.body.boot with svcLow := true } ∧ SameBytes s.body t ∧ t.hm = s.body.hm ∧
      (s.body.flashService = true → t.flag .wtPinStat Fld.wtPinStatFlashSvc = true ∧ SameRegsBut s.body t [Reg.wtPinStat.addr]) ∧
      (s.body.flashService = false → t.regs = s.body.regs) := by
  refine gives_of_exec (exec_flashSvcNLow s) ?_
  cases s.body.flashService with
  | true =>
    rw [if_pos rfl]
    refine ⟨Body.setF_boot .., fun a => (byte_setF ..).trans (Body.byte_congr rfl rfl rfl a), Body.setF_hm .., fun _ => ⟨?_, fun q _ hq => ?_⟩, nofun⟩
    · rw [Body.flag, Body.getF_setF_self _ _ rfl (by simp [Reg.stored]) (by decide) (by decide)]
      rfl
    · exact Body.reg_setF_ne (s.body.pinSvc true) _ _ (List.ne_of_not_mem_cons hq)
  | false => exact ⟨rfl, sameBytes_of rfl rfl rfl, rfl, nofun, fun _ => rfl⟩

theorem exec_flashSvcNRise_ignored (image : List (Nat × List Byte)) (h : s.body.flashService = false ∨ s.body.boot.svcLow = false) :
    exec (.flashSvcNRise image) s = .next { s with body := { s.body with boot.svcLow := false } } := by
  change execFlashSvcNRise image s = _
  rw [execFlashSvcNRise, State.onFused]
  refine congrArg _ (congrArg _ (if_pos ?_))
  rcases h with h | h
  · left
    change ¬ s.body.flashService = true
    rw [h]
    decide
  · right
    rw [h]
    decide

/-- The image written, the pin's level in its register. -/
def Body.flashWritten (b : Body) (a : Nat) (d : List Byte) : Body :=
  (((b.pinSvc false).setBytes (flashBase + a) d).setF .wtPinStat Fld.wtPinStatFlashSvc 0)

theorem exec_flashSvcNRise_written {a : Nat} {d : List Byte} (hfits : a + d.length ≤ 0x4000000) (hservice : s.body.flashService = true)
    (hlow : s.body.boot.svcLow = true) : exec (.flashSvcNRise [(a, d)]) s = .next { s with
      body := if (s.body.flashWritten a d).boot.heHeld then (s.body.flashWritten a d).loadFirmware s.fuse else s.body.flashWritten a d } := by
  have hmin : min a 0x4000000 = a := Nat.min_eq_left (by omega)
  have htake : d.take (0x4000000 - a) = d := List.take_of_length_le (by omega)
  change execFlashSvcNRise [(a, d)] s = _
  rw [execFlashSvcNRise, State.onFused]
  refine congrArg _ (congrArg _ ((if_neg ?_).trans ?_))
  · rintro (h | h)
    · exact h hservice
    · exact h hlow
  · rw [List.foldl_cons, List.foldl_nil, hmin, htake, Body.flashWritten, Body.pinSvc]

theorem trySlots_keep {γ : Type} (p : Body → γ) (herr : ∀ (b : Body) code sev kind unit d, p (b.err code sev kind unit d) = p b)
    (hfw : ∀ (b : Body) x, p { b with boot.pendFw := x } = p b) (hfr : ∀ (b : Body) x, p { b with boot.pendFr := x } = p b)
    (b : Body) (fu : Fuses) (kind : Nat) (l : List Nat) (again : Bool) : p (b.trySlots fu kind l again).2 = p b := by
  induction l generalizing b again with
  | nil => rfl
  | cons x l ih =>
    rw [Body.trySlots]
    split
    · rfl
    · refine (ih _ true).trans ?_
      unfold Body.dropPending
      split
      · split
        · exact (hfw _ _).trans (herr b _ _ _ _ _)
        · exact herr b _ _ _ _ _
      · split
        · exact (hfr _ _).trans (herr b _ _ _ _ _)
        · exact herr b _ _ _ _ _

/-- A firmware loaded leaves as it is what neither registers, nor the boot's choice of image, nor error records make up. -/
theorem loadFirmware_keep {γ : Type} (p : Body → γ) (hset : ∀ (b : Body) r f v, p (b.setF r f v) = p b)
    (herr : ∀ (b : Body) code sev kind unit d, p (b.err code sev kind unit d) = p b) (hsend : ∀ (b : Body) m, p (b.send m) = p b)
    (hfw : ∀ (b : Body) x, p { b with boot.pendFw := x } = p b) (hfr : ∀ (b : Body) x, p { b with boot.pendFr := x } = p b)
    (hheld : ∀ (b : Body), p { b with boot.heHeld := true } = p b)
    (hload : ∀ (b : Body) x, p { b with boot.fw := x, boot.phase := .firmware, boot.heHeld := false } = p b) (b : Body) (fu : Fuses) :
    p (b.loadFirmware fu) = p b := by
  have htry := trySlots_keep p herr hfw hfr b fu 2 (slotOrder b.boot.activeFw b.boot.pendFw) false
  unfold Body.loadFirmware
  generalize b.trySlots fu 2 (slotOrder b.boot.activeFw b.boot.pendFw) false = x at htry
  obtain ⟨o, c⟩ := x
  cases o with
  | none => exact (syncFault_keep p hset hsend _).trans ((hheld c).trans htry)
  | some y => exact (syncFault_keep p hset hsend _).trans ((hset _ _ _ _).trans ((hset _ _ _ _).trans ((hload c _).trans htry)))

/-- After a firmware is tried HE is held, or the firmware runs. -/
theorem loadFirmware_boots (b : Body) (fu : Fuses) : (b.loadFirmware fu).boot.heHeld = true ∨ (b.loadFirmware fu).boot.phase = .firmware := by
  have hfault : ∀ c : Body, c.syncFault.boot = c.boot := syncFault_keep Body.boot Body.setF_boot fun _ _ => rfl
  unfold Body.loadFirmware
  generalize b.trySlots fu 2 (slotOrder b.boot.activeFw b.boot.pendFw) false = x
  obtain ⟨o, c⟩ := x
  cases o with
  | none => exact .inl (congrArg Boot.heHeld (hfault _))
  | some y =>
    right
    dsimp only
    rw [hfault, Body.setF_boot, Body.setF_boot]

theorem flashSvcNRise_writes {a : Nat} {d : List Byte} (hfits : a + d.length ≤ 0x4000000) (hservice : s.body.flashService = true)
    (hlow : s.body.boot.svcLow = true) : Gives (.flashSvcNRise [(a, d)]) s fun t =>
      t.boot.svcLow = false ∧ t.bytes (flashBase + a) d.length = d ∧ SameBytesBut s.body t (flashBase + a) d.length ∧
        (s.body.boot.heHeld = false → t.boot.phase = s.body.boot.phase) ∧
        (s.body.boot.heHeld = true → t.boot.heHeld = true ∨ t.boot.phase = .firmware) := by
  have hexec := exec_flashSvcNRise_written hfits hservice hlow
  have hboot : (s.body.flashWritten a d).boot = { s.body.boot with svcLow := false } := by
    rw [Body.flashWritten, Body.setF_boot, Body.setBytes_boot]
    rfl
  have hwritten : (s.body.flashWritten a d).bytes (flashBase + a) d.length = d := by
    rw [Body.flashWritten, SameBytes.bytes_eq (b := (s.body.pinSvc false).setBytes (flashBase + a) d) fun x => byte_setF ..]
    exact Body.bytes_setBytes ..
  have hothers : SameBytesBut s.body (s.body.flashWritten a d) (flashBase + a) d.length := fun x hx =>
    (byte_setF ..).trans ((Body.byte_setBytes_ne (s.body.pinSvc false) _ _ _ hx).trans (Body.byte_congr rfl rfl rfl x))
  generalize s.body.flashWritten a d = c at hexec hboot hwritten hothers
  have hheld : c.boot.heHeld = s.body.boot.heHeld := by rw [hboot]
  have hsvc : c.boot.svcLow = false := by rw [hboot]
  have hphase : c.boot.phase = s.body.boot.phase := by rw [hboot]
  rw [hheld] at hexec
  cases he : s.body.boot.heHeld with
  | false =>
    rw [he] at hexec
    exact gives_of_exec hexec ⟨hsvc, hwritten, hothers, fun _ => hphase, nofun⟩
  | true =>
    rw [he] at hexec
    have hbytes : SameBytes c (c.loadFirmware s.fuse) := fun x => loadFirmware_keep (fun b : Body => b.byte x) (fun b r f v => byte_setF b r f v x)
      (fun b _ _ _ _ _ => Body.byte_congr (Body.err_mem ..) (Body.err_haze ..) (Body.err_bg ..) x) (fun _ _ => Body.byte_congr rfl rfl rfl x)
      (fun _ _ => Body.byte_congr rfl rfl rfl x) (fun _ _ => Body.byte_congr rfl rfl rfl x) (fun _ => Body.byte_congr rfl rfl rfl x)
      (fun _ _ => Body.byte_congr rfl rfl rfl x) c s.fuse
    have hlast : (c.loadFirmware s.fuse).boot.svcLow = c.boot.svcLow := loadFirmware_keep (fun b : Body => b.boot.svcLow)
      (fun b _ _ _ => by rw [Body.setF_boot]) (fun b _ _ _ _ _ => by rw [Body.err_boot]) (fun _ _ => rfl) (fun _ _ => rfl) (fun _ _ => rfl)
      (fun _ => rfl) (fun _ _ => rfl) c s.fuse
    exact gives_of_exec hexec ⟨hlast.trans hsvc, (hbytes.bytes_eq _ _).trans hwritten, fun x hx => (hbytes x).trans (hothers x hx), nofun,
      fun _ => loadFirmware_boots c s.fuse⟩

end

/-! ### The Watch's own state -/

/-- The registers as a reset of the Watch leaves them. -/
def Body.watchRegs (b : Body) : Body :=
  ([Reg.wtMpl, .scDebugStat] ++ (List.range 10).map Reg.wtShedRetain).foldl (Body.resetReg .watch)
    (b.regs.foldl (fun c p => c.resetAt .watch p.1) b)

/-- What else the Watch's domain loses. -/
def Body.watchLost (b : Body) : Body :=
  let p := b.power
  { b with
    ts := 0, unlock := {},
    power := { p with pSamples := [], mplSteps := List.replicate 10 0, curSteps := List.replicate 10 0, thermSteps := List.replicate 10 0,
                      watchSteps := List.replicate 10 0, hold110 := false, holdWatch := true, wakeAt := none },
    tele := { b.tele with errWatch := [], watchSeq := 0,
                          errPend := b.tele.errPend.filter (fun x => !decide (x.1 / 65536 = 10 ∨ x.1 / 65536 = 11)) } }

theorem watchCleared_eq (b : Body) : b.watchCleared = b.watchRegs.watchLost := rfl

theorem watchRegs_keep {γ : Type} (p : Body → γ) (h : ∀ (b : Body) r f v, p (b.setF r f v) = p b) (b : Body) : p b.watchRegs = p b :=
  (foldl_keep p _ _ _ fun c r => resetReg_keep p h .watch c r).trans (foldl_keep p _ _ b fun c x => resetAt_keep p h .watch c x.1)

theorem scDebugStat_stored : Reg.scDebugStat.stored := by simp [Reg.stored]

theorem levels_resetReg (b : Body) : (b.resetReg .watch .scDebugStat).getF .scDebugStat Fld.scDebugStatLevels = 0 := by
  unfold Body.resetReg
  simp only [Reg.fields, List.foldl_cons, List.foldl_nil]
  have hapart := fun (c : Body) (f : Fld) (v : Nat) hl hh ha => Body.getF_setF_apart c (r := .scDebugStat) (f := f) (g := Fld.scDebugStatLevels) v rfl
    scDebugStat_stored hl hh (by decide) ha
  rw [if_neg (by decide), if_neg (by decide), if_neg (by decide), if_neg (by decide), if_neg (by decide)]
  rw [hapart _ _ _ (by decide) (by decide) (by decide), hapart _ _ _ (by decide) (by decide) (by decide),
    hapart _ _ _ (by decide) (by decide) (by decide), hapart _ _ _ (by decide) (by decide) (by decide),
    Body.getF_setF_self _ _ rfl scDebugStat_stored (by decide) (by decide)]
  rfl

theorem levels_watchRegs (b : Body) : b.watchRegs.getF .scDebugStat Fld.scDebugStatLevels = 0 := by
  unfold Body.watchRegs
  generalize b.regs.foldl (fun c p => c.resetAt .watch p.1) b = c
  rw [List.cons_append, List.cons_append, List.nil_append, List.foldl_cons, List.foldl_cons]
  have hset : ∀ (c : Body) q, (c.resetReg .watch (.wtShedRetain q)).reg .scDebugStat = c.reg .scDebugStat := fun c q => by
    unfold Body.resetReg
    refine foldl_keep (fun b : Body => b.reg .scDebugStat) _ _ c fun b f => ?_
    split
    · rfl
    · exact Body.reg_setF_of_ok_ne b _ _ fun hok => by
        have hq : q < 10 := of_decide_eq_true hok
        simp only [Reg.addr]
        omega
  rw [List.foldl_map]
  exact (getF_of_reg_eq (foldl_keep (fun b : Body => b.reg .scDebugStat) _ _ _ fun b q => hset b q) _).trans (levels_resetReg _)

/-! ### Commands of the security root end -/

/-- A command of the security root in progress ends with AUTH_FAIL. -/
def Body.cutOne (b : Body) (fl : Flight) : Body := (b.forgetOne fl.uid).fail fl 0x60

theorem cutOne_keep {γ : Type} (p : Body → γ) (hset : ∀ (b : Body) {r : Reg} f v, r.ShowsWork → p (b.setF r f v) = p b)
    (hberths : ∀ (b : Body) x, p { b with berths := x } = p b) (hops : ∀ (b : Body) x, p { b with ops := x } = p b)
    (hcrates : ∀ (b : Body) x, p { b with crates := x } = p b) (hstruck : ∀ (b : Body) uid, p (b.struckOff uid) = p b)
    (hfail : ∀ (b : Body) fl, p (b.fail fl 0x60) = p b) (b : Body) (fl : Flight) : p (b.cutOne fl) = p b :=
  (hfail _ _).trans (forgetOne_keep p hset hberths hops hcrates hstruck b fl.uid)

theorem ended_forgetOne (b : Body) (uid : Nat) : (b.forgetOne uid).hm.ended = b.hm.ended :=
  forgetOne_keep (fun b : Body => b.hm.ended) (fun b r f v _ => by rw [Body.setF_hm]) (fun _ _ => rfl) (fun _ _ => rfl) (fun _ _ => rfl)
    (fun _ _ => rfl) b uid

theorem ended_cutOne (b : Body) (fl : Flight) : ∃ e : Ended, (b.cutOne fl).hm.ended = b.hm.ended ++ [e] ∧ e.fl.uid = fl.uid ∧ e.status = 0x60 := by
  obtain ⟨⟨e, hended, huid, -, hstatus, -⟩, -⟩ := Body.endsWith_fail (b := b) fl 0x60 0 0 (ended_forgetOne b fl.uid)
  exact ⟨e, hended, huid, hstatus⟩

theorem mem_ended_cut {l : List Flight} {b : Body} {e : Ended} (he : e ∈ b.hm.ended) : e ∈ (l.foldl Body.cutOne b).hm.ended := by
  induction l generalizing b with
  | nil => exact he
  | cons fl l ih =>
    obtain ⟨x, hended, -⟩ := ended_cutOne b fl
    exact ih (by rw [hended]; exact List.mem_append_left _ he)

theorem cut_ends (l : List Flight) (b : Body) {fl : Flight} (hfl : fl ∈ l) :
    ∃ e ∈ (l.foldl Body.cutOne b).hm.ended, e.fl.uid = fl.uid ∧ e.status = 0x60 := by
  induction l generalizing b with
  | nil => cases hfl
  | cons f l ih =>
    rcases List.mem_cons.1 hfl with rfl | hmem
    · obtain ⟨e, hended, huid, hstatus⟩ := ended_cutOne b fl
      exact ⟨e, mem_ended_cut (b := b.cutOne fl) (by rw [hended]; exact List.mem_append_right _ List.mem_cons_self), huid, hstatus⟩
    · exact ih _ hmem

/-! ### The clocks -/

theorem foldl_min_le {l : List Nat} {a x : Nat} (hx : x ∈ l) : l.foldl min a ≤ x := by
  have hstart : ∀ (l : List Nat) a, l.foldl min a ≤ a := fun l => by
    induction l with
    | nil => exact fun a => Nat.le_refl a
    | cons y l ih => exact fun a => (ih _).trans (Nat.min_le_left a y)
  induction l generalizing a with
  | nil => cases hx
  | cons y l ih =>
    rcases List.mem_cons.1 hx with rfl | hmem
    · exact (hstart l _).trans (Nat.min_le_right a x)
    · exact ih hmem

/-- While the Watch restarts no ceiling is above 400 MHz. -/
theorem ceiling_of_holdWatch {b : Body} (h : b.power.holdWatch = true) (q : Nat) : (b.ceiling q).1 = 400 := by
  have hmem : 400 ∈ (b.ceilings q).map (·.1) := by simp [Body.ceilings, h]
  have hle := foldl_min_le (a := 940) hmem
  unfold Body.ceiling
  dsimp only
  omega

/-- The ACLK that a Quay takes. -/
def Body.clockAt (b : Body) (q : Nat) : Nat := if ¬ b.quayUp q then 0 else if b.power.inputLow then 400 else (b.ceiling q).1

/-- The CAUSE that a Quay's clock takes, and the body once a free value has been taken for it. -/
def Body.clockCause (b : Body) (q : Nat) : Nat × Body :=
  if ¬ b.quayUp q then (7, b)
  else if b.power.inputLow && decide ((b.ceiling q).1 > 400) then (b.free.1.toNat % 8, b.free.2)
  else ((b.ceiling q).2, b)

/-- A change of a Quay's ACLK in its Logbook. -/
def Body.clockNoted (b : Body) (q f : Nat) : Body := if b.aclk q ≠ f then b.log 1 q 0x0D 0 0xFFFF 0 f else b

theorem setClock_eq (b : Body) (q : Nat) : b.setClock q =
    ((((((b.clockCause q).2.clockNoted q (b.clockAt q)).setF (.wtQuayClk q) Fld.wtQuayClkAclk (b.clockAt q)).setF (.wtQuayClk q)
      Fld.wtQuayClkCeiling (if b.power.inputLow && decide ((b.ceiling q).1 > 400) then 400 else (b.ceiling q).1)).setF (.wtQuayClk q)
      Fld.wtQuayClkCause (b.clockCause q).1).setF (.wtQuayClk q) Fld.wtQuayClkVSet
        (if b.quayUp q then vUnits (b.clockAt q) (b.power.guard.getD q 16) * 5 / 2 else 0)).setF (.wtQuayClk q) Fld.wtQuayClkGuard
        (b.power.guard.getD q 16) := by
  unfold Body.setClock Body.clockNoted Body.clockAt Body.clockCause
  generalize b.ceiling q = x
  obtain ⟨c, why⟩ := x
  dsimp only
  generalize b.quayUp q = up
  generalize decide (c > 400) = above
  cases up
  · rfl
  · cases hlow : b.power.inputLow <;> cases above <;> simp only [hlow, not_true_eq_false, if_false, Bool.and_true, Bool.and_false,
      Bool.false_eq_true, if_true, Body.free]

theorem setClock_keep {γ : Type} (p : Body → γ) (hset : ∀ (b : Body) q f v, p (b.setF (.wtQuayClk q) f v) = p b)
    (htele : ∀ (b : Body) x, p { b with tele := x } = p b) (hfree : ∀ (b : Body) n, p { b with freeCtr := n } = p b) (b : Body) (q : Nat) :
    p (b.setClock q) = p b := by
  have hcause : p (b.clockCause q).2 = p b := by
    unfold Body.clockCause
    split
    · rfl
    · split
      · exact hfree b _
      · rfl
  have hnoted : ∀ (c : Body) f, p (c.clockNoted q f) = p c := fun c f => by
    unfold Body.clockNoted
    split
    · exact log_keep p htele c _ _ _ _ _ _ _
    · rfl
  rw [setClock_eq, hset, hset, hset, hset, hset, hnoted, hcause]

theorem wtQuayClk_stored (q : Nat) : (Reg.wtQuayClk q).stored := by simp [Reg.stored]

theorem aclk_setClock (b : Body) {q : Nat} (hq : q < 10) (h : b.power.holdWatch = true) : (b.setClock q).aclk q ≤ 400 := by
  have hok : (Reg.wtQuayClk q).ok = true := decide_eq_true hq
  have hclock : b.clockAt q ≤ 400 := by
    unfold Body.clockAt
    rw [ceiling_of_holdWatch h]
    split
    · exact Nat.zero_le _
    · split <;> exact Nat.le_refl _
  have hapart := fun (c : Body) (f : Fld) (v : Nat) hl hh ha => Body.getF_setF_apart c (f := f) (g := Fld.wtQuayClkAclk) v hok (wtQuayClk_stored q)
    hl hh (by decide) ha
  rw [Body.aclk, setClock_eq, hapart _ _ _ (by decide) (by decide) (by decide), hapart _ _ _ (by decide) (by decide) (by decide),
    hapart _ _ _ (by decide) (by decide) (by decide), hapart _ _ _ (by decide) (by decide) (by decide),
    Body.getF_setF_self _ _ hok (wtQuayClk_stored q) (by decide) (by decide)]
  exact (Nat.mod_le _ _).trans hclock

theorem aclk_setClock_ne (b : Body) {q j : Nat} (h : j ≠ q) : (b.setClock j).aclk q = b.aclk q := by
  have hcause : (b.clockCause j).2.reg (.wtQuayClk q) = b.reg (.wtQuayClk q) := by
    unfold Body.clockCause
    split
    · rfl
    · split <;> rfl
  have hne : (Reg.wtQuayClk q).addr ≠ (Reg.wtQuayClk j).addr := by
    simp only [Reg.addr]
    omega
  rw [Body.aclk, setClock_eq, Body.getF_setF_ne _ _ _ _ hne, Body.getF_setF_ne _ _ _ _ hne, Body.getF_setF_ne _ _ _ _ hne,
    Body.getF_setF_ne _ _ _ _ hne, Body.getF_setF_ne _ _ _ _ hne]
  refine getF_of_reg_eq ?_ _
  rw [← hcause, Body.clockNoted]
  split
  · exact reg_log _ _ _ _ _ _ _ _ _
  · rfl

/-- While the Watch restarts every Quay's clock that is set is at most 400 MHz. -/
theorem aclk_setClocks (l : List Nat) {b : Body} (h : b.power.holdWatch = true) {q : Nat} (hq : q < 10) (hmem : q ∈ l ∨ b.aclk q ≤ 400) :
    (l.foldl Body.setClock b).aclk q ≤ 400 := by
  induction l generalizing b with
  | nil => exact hmem.resolve_left (by simp)
  | cons j l ih =>
    have hhold : (b.setClock j).power.holdWatch = true :=
      (setClock_keep (fun b : Body => b.power.holdWatch) (fun b _ _ _ => by rw [Body.setF_power]) (fun _ _ => rfl) (fun _ _ => rfl) b j).trans h
    refine ih hhold ?_
    by_cases hj : j = q
    · subst hj
      exact .inr (aclk_setClock b hq h)
    · exact hmem.imp (fun hl => (List.mem_cons.1 hl).resolve_left fun heq => hj heq.symm) fun hle => (aclk_setClock_ne b hj).trans_le hle

/-! ### A reset of the Watch -/

/-- WT_STATE.MODULE after a reset of the Watch. -/
def moduleOf (ph : Phase) : Nat :=
  match ph with
  | .run => 0
  | .anchor => 1
  | _ => 3

/-- A body whose commands of the security root in progress have ended, the Watch's own state lost. -/
def Body.watchCut (b : Body) : Body :=
  (b.hm.flights.filter fun x => decide (x.opc = 0x84 ∨ x.opc = 0x86) && x.started).foldl Body.cutOne b.watchCleared

/-- WT_STATE and the Watch's Logbook after its reset. -/
def Body.watchNoted (b : Body) (mode : Nat) : Body :=
  ((b.noteReset 5 4).setF .wtState Fld.wtStateModule mode).log 10 0 0x0C 0 0xFFFF 0 5

/-- The pins in their register, and the Quays' clocks. -/
def Body.watchSynced (b : Body) : Body :=
  let b := (b.setF .wtPinStat Fld.wtPinStatFault (if b.boot.heHeld ∨ b.boot.tripped then 1 else 0)).syncPins
  (List.range 10).foldl Body.setClock b.levelCheck

theorem watchSynced_eq (b : Body) : (List.range 10).foldl Body.setClock
    ((b.setF .wtPinStat Fld.wtPinStatFault (if b.boot.heHeld ∨ b.boot.tripped then 1 else 0)).syncPins).levelCheck = b.watchSynced := rfl

theorem exec_watchReset {s : State} (hoff : s.body.boot.phase ≠ .off) (hdrydock : s.body.boot.phase ≠ .drydock) :
    exec .watchReset s = .next { s with
      body := (s.body.watchCut.watchNoted (moduleOf s.body.watchCut.boot.phase)).watchSynced.wake 4 } := by
  change execWatchReset s = _
  rw [execWatchReset, State.onBody, if_neg hoff, if_neg hdrydock]
  refine congrArg (fun b : Body => Host.Outcome.next { s with body := b }) ?_
  have hcut : s.body.watchCut = (s.body.hm.flights.filter fun x => decide (x.opc = 0x84 ∨ x.opc = 0x86) && x.started).foldl
    (fun b fl => (b.forgetOne fl.uid).fail fl 0x60) s.body.watchCleared := rfl
  rw [hcut]
  dsimp only
  generalize (s.body.hm.flights.filter fun x => decide (x.opc = 0x84 ∨ x.opc = 0x86) && x.started).foldl
    (fun b fl => (b.forgetOne fl.uid).fail fl 0x60) s.body.watchCleared = c
  refine congrArg (fun b : Body => b.wake 4) ((watchSynced_eq _).trans (congrArg Body.watchSynced (congrArg c.watchNoted ?_)))
  unfold moduleOf
  cases c.boot.phase <;> rfl

/-! ### What the steps of that reset leave as it is -/

/-- The registers that follow the pins, the debug levels and the clocks. -/
inductive Reg.Synced : Reg → Prop
  | pins : Synced .wtPinStat
  | step : Synced .hmStepStat
  | clock (q : Nat) : Synced (.wtQuayClk q)

section
variable {γ : Type} (p : Body → γ) (htele : ∀ (b : Body) x, p { b with tele := x } = p b) (hfree : ∀ (b : Body) n, p { b with freeCtr := n } = p b)
include htele hfree

theorem watchSynced_keep (hset : ∀ (b : Body) {r : Reg} f v, r.Synced → p (b.setF r f v) = p b) (b : Body) : p b.watchSynced = p b := by
  have hlevels : ∀ c : Body, p c.levelCheck = p c := fun c => by
    unfold Body.levelCheck Body.stepClear
    split
    · rw [hset _ _ _ .step, hset _ _ _ .step]
    · rfl
  have hpins : ∀ c : Body, p c.syncPins = p c := fun c => by
    unfold Body.syncPins
    dsimp only
    rw [hset _ _ _ .pins, hset _ _ _ .pins, hset _ _ _ .pins, hset _ _ _ .pins]
    exact hfree c _
  unfold Body.watchSynced
  refine (foldl_keep p _ _ _ fun c q => setClock_keep p (fun b q f v => hset b f v (.clock q)) htele hfree c q).trans ?_
  rw [hlevels, hpins, hset _ _ _ .pins]

/-- What neither registers, nor Logbooks, nor an exit from ANCHOR make up stays from the end of those commands on. -/
theorem watchTail_keep (hset : ∀ (b : Body) r f v, p (b.setF r f v) = p b) (hexit : ∀ (b : Body) x, p { b with power.exitPending := x } = p b)
    (b : Body) (m : Nat) : p ((b.watchNoted m).watchSynced.wake 4) = p b := by
  have hwake : ∀ c : Body, p (c.wake 4) = p c := fun c => by
    unfold Body.wake
    split
    · exact (hset _ _ _ _).trans (hexit c _)
    · rfl
  rw [hwake, watchSynced_keep p htele hfree fun b r f v _ => hset b r f v]
  exact (log_keep p htele _ _ _ _ _ _ _ _).trans ((hset _ _ _ _).trans (noteReset_keep p hset b 5 4))

end

/-- What the end of a command of the security root leaves of a body, and of what the reset began with. -/
theorem watchCut_keep {γ : Type} (p : Body → γ) (hset : ∀ (b : Body) {r : Reg} f v, r.ShowsWork → p (b.setF r f v) = p b)
    (hberths : ∀ (b : Body) x, p { b with berths := x } = p b) (hops : ∀ (b : Body) x, p { b with ops := x } = p b)
    (hcrates : ∀ (b : Body) x, p { b with crates := x } = p b) (hstruck : ∀ (b : Body) uid, p (b.struckOff uid) = p b)
    (hfail : ∀ (b : Body) fl, p (b.fail fl 0x60) = p b) (b : Body) : p b.watchCut = p b.watchRegs.watchLost := by
  rw [← watchCleared_eq]
  exact foldl_keep p _ _ _ fun c fl => cutOne_keep p hset hberths hops hcrates hstruck hfail c fl

section
variable (b : Body)

theorem boot_watchLost : b.watchLost.boot = b.boot := rfl

theorem ts_watchLost : b.watchLost.ts = 0 := rfl

theorem unlock_watchLost : b.watchLost.unlock = {} := rfl

theorem power_watchLost : b.watchLost.power.holdWatch = true ∧ b.watchLost.power.pSamples = [] := ⟨rfl, rfl⟩

theorem reg_watchLost (q : Reg) : b.watchLost.reg q = b.reg q := rfl

theorem byte_watchLost (a : Nat) : b.watchLost.byte a = b.byte a := Body.byte_congr rfl rfl rfl a

theorem boot_watchCut : b.watchCut.boot = b.boot := by
  rw [watchCut_keep Body.boot (fun b _ _ _ _ => Body.setF_boot b _ _ _) (fun _ _ => rfl) (fun _ _ => rfl) (fun _ _ => rfl) (fun _ _ => rfl)
    (fun b fl => Body.fail_boot b fl _ _ _), boot_watchLost, watchRegs_keep Body.boot Body.setF_boot]

theorem ts_watchCut : b.watchCut.ts = 0 := by
  rw [watchCut_keep Body.ts (fun b _ _ _ _ => Body.setF_ts b _ _ _) (fun _ _ => rfl) (fun _ _ => rfl) (fun _ _ => rfl) (fun _ _ => rfl)
    (fun b fl => Body.fail_ts b fl _ _ _), ts_watchLost]

theorem unlock_watchCut : b.watchCut.unlock = {} := by
  rw [watchCut_keep Body.unlock (fun b _ _ _ _ => Body.setF_unlock b _ _ _) (fun _ _ => rfl) (fun _ _ => rfl) (fun _ _ => rfl) (fun _ _ => rfl)
    (fun b fl => Body.fail_unlock b fl _ _ _), unlock_watchLost]

theorem power_watchCut : b.watchCut.power.holdWatch = true ∧ b.watchCut.power.pSamples = [] := by
  have hkeep := fun {γ : Type} (p : Power → γ) (hstruck : ∀ (b : Body) uid, p (b.struckOff uid).power = p b.power) =>
    watchCut_keep (fun b : Body => p b.power) (fun b _ _ _ _ => by rw [Body.setF_power]) (fun _ _ => rfl) (fun _ _ => rfl) (fun _ _ => rfl)
      hstruck (fun b fl => by rw [Body.fail_power]) b
  obtain ⟨hhold, hsamples⟩ := power_watchLost b.watchRegs
  exact ⟨(hkeep Power.holdWatch fun _ _ => rfl).trans hhold, (hkeep Power.pSamples fun _ _ => rfl).trans hsamples⟩

theorem sameBytes_watchCut : SameBytes b b.watchCut := fun a => by
  have hkeep := watchCut_keep (fun b : Body => b.byte a) (fun b r f v _ => byte_setF b r f v a) (fun _ _ => Body.byte_congr rfl rfl rfl a)
    (fun _ _ => Body.byte_congr rfl rfl rfl a) (fun _ _ => Body.byte_congr rfl rfl rfl a) (fun _ _ => Body.byte_congr rfl rfl rfl a)
    (fun b fl => Body.byte_congr (Body.fail_mem ..) (Body.fail_haze ..) (Body.fail_bg ..) a) b
  exact hkeep.trans ((byte_watchLost _ a).trans (watchRegs_keep (fun b : Body => b.byte a) (fun b r f v => byte_setF b r f v a) b))

theorem levels_watchCut : b.watchCut.getF .scDebugStat Fld.scDebugStatLevels = 0 := by
  have hwork : ∀ {r : Reg}, r.ShowsWork → r.ok = true → Reg.scDebugStat.addr ≠ r.addr := fun {r} hr hok => by
    cases hr <;> simp only [Reg.ok, decide_eq_true_eq] at hok <;> simp only [Reg.addr] <;> omega
  have hreg : b.watchCut.reg .scDebugStat = b.watchRegs.watchLost.reg .scDebugStat :=
    watchCut_keep (fun b : Body => b.reg .scDebugStat) (fun b _ _ _ hr => Body.reg_setF_of_ok_ne b _ _ fun hok => hwork hr hok) (fun _ _ => rfl)
      (fun _ _ => rfl) (fun _ _ => rfl) (fun _ _ => rfl) (fun b fl => unnoted_scDebugStat.fail b fl _ _ _) b
  rw [reg_watchLost] at hreg
  exact (getF_of_reg_eq hreg _).trans (levels_watchRegs b)

/-! ### WT_STATE and the exit from ANCHOR -/

theorem wtState_wake {f : Fld} (hf : f.lo ≤ f.hi) (hapart : f.hi < 4 ∨ 6 < f.lo) : (b.wake 4).getF .wtState f = b.getF .wtState f := by
  unfold Body.wake
  split
  · exact Body.getF_setF_apart { b with power.exitPending := true } _ rfl wtState_stored (by decide) (by decide) hf hapart
  · rfl

theorem wtState_watchSynced : b.watchSynced.reg .wtState = b.reg .wtState :=
  watchSynced_keep (fun b : Body => b.reg .wtState) (fun _ _ => rfl) (fun _ _ => rfl) (fun b r f v hr =>
    Body.reg_setF_of_ok_ne b f v fun hok => by
      cases hr with
      | pins => decide
      | step => decide
      | clock q =>
        have hq : q < 10 := of_decide_eq_true hok
        simp only [Reg.addr]
        omega) b

theorem moduleOf_lt (ph : Phase) : moduleOf ph < 4 := by
  cases ph <;> decide

theorem wtState_watchNoted {m : Nat} (hm : m < 4) : (b.watchNoted m).getF .wtState Fld.wtStateResetKind = 5 ∧
    (b.watchNoted m).getF .wtState Fld.wtStateResetSrc = 4 ∧ (b.watchNoted m).getF .wtState Fld.wtStateModule = m := by
  obtain ⟨hkind, hsource⟩ := noteReset_fields b (kind := 5) (src := 4) (by decide) (by decide)
  refine ⟨?_, ?_, ?_⟩ <;> rw [Body.watchNoted, getF_of_reg_eq (reg_log ..)]
  · exact (Body.getF_setF_apart _ _ rfl wtState_stored (by decide) (by decide) (by decide) (.inr (by decide))).trans hkind
  · exact (Body.getF_setF_apart _ _ rfl wtState_stored (by decide) (by decide) (by decide) (.inr (by decide))).trans hsource
  · rw [Body.getF_setF_self _ _ rfl wtState_stored (by decide) (by decide)]
    exact Nat.mod_eq_of_lt hm

theorem exitPending_wake (h : b.boot.phase = .anchor) : (b.wake 4).power.exitPending = true := by
  rw [Body.wake, if_pos (.inl h)]
  exact congrArg Power.exitPending (Body.setF_power ..)

theorem aclk_wake (q : Nat) (hq : q < 10) : (b.wake 4).aclk q = b.aclk q := by
  unfold Body.wake
  split
  · exact Body.getF_setF_ne { b with power.exitPending := true } _ _ _ (by simp only [Reg.addr]; omega)
  · rfl

theorem reg_scDebugStat_wake : (b.wake 4).reg .scDebugStat = b.reg .scDebugStat := by
  unfold Body.wake
  split
  · exact Body.reg_setF_ne { b with power.exitPending := true } _ _ (by decide)
  · rfl

theorem reg_scDebugStat_watchNoted (m : Nat) : (b.watchNoted m).reg .scDebugStat = b.reg .scDebugStat := by
  have hne : Reg.scDebugStat.addr ≠ Reg.wtState.addr := by decide
  rw [Body.watchNoted, reg_log, Body.reg_setF_ne _ _ _ hne, Body.noteReset, Body.reg_setF_ne _ _ _ hne, Body.reg_setF_ne _ _ _ hne]

theorem reg_scDebugStat_watchSynced : b.watchSynced.reg .scDebugStat = b.reg .scDebugStat :=
  watchSynced_keep (fun b : Body => b.reg .scDebugStat) (fun _ _ => rfl) (fun _ _ => rfl) (fun b r f v hr =>
    Body.reg_setF_of_ok_ne b f v fun hok => by
      cases hr with
      | pins => decide
      | step => decide
      | clock q =>
        have hq : q < 10 := of_decide_eq_true hok
        simp only [Reg.addr]
        omega) b

/-- While the Watch restarts every clock follows it. -/
theorem aclk_watchSynced (h : b.power.holdWatch = true) {q : Nat} (hq : q < 10) : b.watchSynced.aclk q ≤ 400 := by
  have hlevels : ∀ c : Body, c.levelCheck.power = c.power := fun c => by
    unfold Body.levelCheck Body.stepClear
    split
    · rw [Body.setF_power, Body.setF_power]
    · rfl
  rw [← watchSynced_eq]
  refine aclk_setClocks (List.range 10) ?_ hq (.inl (List.mem_range.2 hq))
  rw [hlevels]
  unfold Body.syncPins
  dsimp only
  rw [Body.setF_power, Body.setF_power, Body.setF_power, Body.setF_power]
  exact (congrArg Power.holdWatch (Body.setF_power ..)).trans h

end

/-- What a reset of the Watch leaves: the module's state and its bytes, the Watch begun anew, and the commands of the security root ended. -/
theorem watchReset_resets {s : State} (hoff : s.body.boot.phase ≠ .off) (hdrydock : s.body.boot.phase ≠ .drydock) :
    Gives .watchReset s fun t => t.boot.phase = s.body.boot.phase ∧ t.ts = 0 ∧ t.unlock = {} ∧ t.power.holdWatch = true ∧ t.power.pSamples = [] ∧
      t.getF .scDebugStat Fld.scDebugStatLevels = 0 ∧ t.getF .wtState Fld.wtStateResetKind = 5 ∧ t.getF .wtState Fld.wtStateResetSrc = 4 ∧
      t.getF .wtState Fld.wtStateModule = moduleOf s.body.boot.phase ∧ (s.body.boot.phase = .anchor → t.power.exitPending = true) ∧
      (∀ q, q < 10 → t.aclk q ≤ 400) ∧ SameBytes s.body t ∧
      ∀ fl ∈ s.body.hm.flights, fl.started = true → fl.opc = 0x84 ∨ fl.opc = 0x86 → ∃ e ∈ t.hm.ended, e.fl.uid = fl.uid ∧ e.status = 0x60 := by
  have hexec := exec_watchReset hoff hdrydock
  have hboot := boot_watchCut s.body
  rw [hboot] at hexec
  have hm := moduleOf_lt s.body.boot.phase
  have hts := ts_watchCut s.body
  have hunlock := unlock_watchCut s.body
  obtain ⟨hhold, hsamples⟩ := power_watchCut s.body
  have hbytes := sameBytes_watchCut s.body
  have hlevels := levels_watchCut s.body
  have hends : ∀ fl ∈ s.body.hm.flights, fl.started = true → fl.opc = 0x84 ∨ fl.opc = 0x86 →
      ∃ e ∈ s.body.watchCut.hm.ended, e.fl.uid = fl.uid ∧ e.status = 0x60 := fun fl hfl hstarted hopc =>
    cut_ends _ _ (List.mem_filter.2 ⟨hfl, by simp [hstarted, hopc]⟩)
  generalize moduleOf s.body.boot.phase = m at hexec hm ⊢
  generalize s.body.watchCut = c at hexec hboot hts hunlock hhold hsamples hbytes hlevels hends
  have hkeep := fun {γ : Type} (p : Body → γ) htele hfree hset hexit => watchTail_keep p htele hfree hset hexit c m
  have hlastBoot : (c.watchNoted m).watchSynced.boot = s.body.boot :=
    (watchSynced_keep Body.boot (fun _ _ => rfl) (fun _ _ => rfl) (fun b _ _ _ _ => Body.setF_boot b _ _ _) _).trans
      ((log_keep Body.boot (fun _ _ => rfl) _ _ _ _ _ _ _ _).trans ((Body.setF_boot ..).trans
        ((noteReset_keep Body.boot Body.setF_boot c 5 4).trans hboot)))
  have hnotedHold : (c.watchNoted m).power.holdWatch = true :=
    (log_keep (fun b : Body => b.power.holdWatch) (fun _ _ => rfl) _ _ _ _ _ _ _ _).trans ((congrArg Power.holdWatch (Body.setF_power ..)).trans
      ((noteReset_keep (fun b : Body => b.power.holdWatch) (fun b _ _ _ => by rw [Body.setF_power]) c 5 4).trans hhold))
  obtain ⟨hkind, hsource, hmodule⟩ := wtState_watchNoted c hm
  have hstate : ∀ {f : Fld}, f.lo ≤ f.hi → (f.hi < 4 ∨ 6 < f.lo) →
      ((c.watchNoted m).watchSynced.wake 4).getF .wtState f = (c.watchNoted m).getF .wtState f := fun hf ha =>
    (wtState_wake _ hf ha).trans (getF_of_reg_eq (wtState_watchSynced _) _)
  refine gives_of_exec hexec ⟨?_, (hkeep Body.ts (fun _ _ => rfl) (fun _ _ => rfl) Body.setF_ts fun _ _ => rfl).trans hts,
    (hkeep Body.unlock (fun _ _ => rfl) (fun _ _ => rfl) Body.setF_unlock fun _ _ => rfl).trans hunlock,
    (hkeep (fun b : Body => b.power.holdWatch) (fun _ _ => rfl) (fun _ _ => rfl) (fun b _ _ _ => by rw [Body.setF_power]) fun _ _ => rfl).trans hhold,
    (hkeep (fun b : Body => b.power.pSamples) (fun _ _ => rfl) (fun _ _ => rfl) (fun b _ _ _ => by rw [Body.setF_power]) fun _ _ => rfl).trans hsamples,
    ?_, (hstate (by decide) (by decide)).trans hkind, (hstate (by decide) (by decide)).trans hsource, ?_, fun hanchor => ?_, fun q hq => ?_, fun a => ?_,
    fun fl hfl hstarted hopc => ?_⟩
  · rw [hkeep Body.boot (fun _ _ => rfl) (fun _ _ => rfl) Body.setF_boot fun _ _ => rfl, hboot]
  · rw [getF_of_reg_eq (reg_scDebugStat_wake _), getF_of_reg_eq (reg_scDebugStat_watchSynced _),
      getF_of_reg_eq (reg_scDebugStat_watchNoted _ _), hlevels]
  · rw [hstate (by decide) (by decide), hmodule]
  · exact exitPending_wake _ (by rw [hlastBoot, hanchor])
  · rw [aclk_wake _ q hq]
    exact aclk_watchSynced _ hnotedHold hq
  · exact (hkeep (fun b : Body => b.byte a) (fun _ _ => Body.byte_congr rfl rfl rfl a) (fun _ _ => Body.byte_congr rfl rfl rfl a)
      (fun b r f v => byte_setF b r f v a) fun _ _ => Body.byte_congr rfl rfl rfl a).trans (hbytes a)
  · rw [hkeep Body.hm (fun _ _ => rfl) (fun _ _ => rfl) Body.setF_hm fun _ _ => rfl]
    exact hends fl hfl hstarted hopc

/-! ### O58 -/

section
variable {s : State}

theorem moduleOf_eq (ph : Phase) : moduleOf ph = if ph = .run then 0 else if ph = .anchor then 1 else 3 := by
  cases ph <;> decide

/-- Each way to reset the module resets it. -/
theorem moduleReset_resets {i : Instr} {src : Nat} {low : Bool}
    (h : ((∃ c fl, i = .rstMod c ∧ c.f 1 1 0 = 0 ∧ Dispatched s.body c 0x7F fl) ∧ src = 2 ∧ low = false) ∨
      (i = .watchdog ∧ src = 3 ∧ low = false ∧
        s.body.boot.phase ∈ [.firmware, .framed, .boardwalk, .trained, .run, .anchorEntry, .anchor, .drydockEntry]) ∨
      (i = .rstNLow ∧ src = 1 ∧ low = true ∧ s.body.boot.phase ≠ .off ∧ s.body.boot.phase ≠ .drydock)) :
    Gives i s fun t => ModuleReset s.body t src (if low = true then .held else if s.body.boot.rstN = true then .released else .held) := by
  rcases h with ⟨⟨c, fl, rfl, hkind, hd⟩, rfl, rfl⟩ | ⟨rfl, rfl, rfl, hphase⟩ | ⟨rfl, rfl, rfl, hoff, hdrydock⟩
  · exact gives_of_exec (exec_rstMod hd hkind) (modReset_resets s.body (by decide))
  · exact watchdog_resets hphase
  · exact rstNLow_resets hoff hdrydock

/-- RST KIND PART and QUAY. -/
theorem rst_part_quay {c : Cmd} {fl : Flight} (hd : Dispatched s.body c 0x7F fl) :
    (c.f 1 1 0 = 1 → partDefined s.body.framing (c.f 1 7 4) = false → Gives (.rstPart c) s fun t => OnlyEnds s.body t fl 0x11 0 []) ∧
    (c.f 1 1 0 = 1 → partDefined s.body.framing (c.f 1 7 4) = true → Gives (.rstPart c) s fun t =>
      t.getF .wtState Fld.wtStateResetKind = 2 ∧ t.getF .wtState Fld.wtStateResetSrc = 2 ∧
      t = ((s.body.partReset (c.f 1 7 4) (some fl.uid)).noteReset 2 2).zeroAwait fl (quayRegions (quaysOf s.body.framing (c.f 1 7 4)))) ∧
    (2 ≤ c.f 1 1 0 → partOfQuay s.body.framing (c.f 1 7 4) = none → Gives (.rstQuay c) s fun t => OnlyEnds s.body t fl 0x11 0 []) ∧
    (2 ≤ c.f 1 1 0 → partOfQuay s.body.framing (c.f 1 7 4) ≠ none → Gives (.rstQuay c) s fun t =>
      t.getF .wtState Fld.wtStateResetKind = 3 ∧ t.getF .wtState Fld.wtStateResetSrc = 2 ∧
      t = (((s.body.clampCmd fl (if c.f 1 1 0 = 3 then 1 else 0)).quayReset [c.f 1 7 4] .quay).noteReset 3 2).zeroAwait fl
        (quayRegions [c.f 1 7 4])) :=
  ⟨rstPart_refused hd, fun hkind hpart => gives_of_noteReset (by decide) (by decide) (exec_rstPart hd hkind hpart),
    rstQuay_refused hd, fun hkind hquay => gives_of_noteReset (by decide) (by decide) (exec_rstQuay hd hkind hquay)⟩

end

/-- Settles O58, from one lemma for each event and command: what it does to the state, and what of the state that leaves. -/
theorem resetsAndInputPower : Obligations.ResetsAndInputPower := by
  unfold Obligations.ResetsAndInputPower
  rintro s ph begun rfl rfl
  refine ⟨fun i src low h => moduleReset_resets h, exec_watchdog_of_stopped, ?_, fun hoff => ?_, fun hon => ?_, exec_watchRestartDone_of_run,
    watchRestartDone_restarts, fun word => ?_, flashSvcNLow_lends, fun image => ?_⟩
  case refine_1 =>
    rintro c fl n k rfl rfl hd
    exact rst_part_quay hd
  case refine_2 =>
    exact ⟨fun i hi => exec_unpowered hoff hi, gives_of_exec (exec_rstNLow_of_off hoff) rfl, gives_of_exec (exec_rstNRelease_of_off hoff) rfl,
      enOpen_of_off hoff, powerUp_begins hoff⟩
  case refine_3 =>
    refine ⟨exec_powerUp_of_on hon, fun i hi => inputPower_lost hon hi, fun hdrydock => ?_, rstNLow_leavesDrydock, rstNRelease_begins hon⟩
    rw [← moduleOf_eq]
    exact watchReset_resets hon hdrydock
  case refine_4 =>
    exact ⟨sramEcc_corrected word, gives_of_exec rfl rfl, fun ctx => ⟨exec_sramEcc_absent word,
      fun k hslot hk => gives_of_exec (exec_sramEcc_management word hslot hk) rfl, fun k hslot hk => sramEcc_resets word hslot hk⟩⟩
  case refine_5 =>
    refine ⟨fun h => gives_of_exec (exec_flashSvcNRise_ignored image h) rfl, ?_⟩
    rintro a d rfl hfits hservice hlow
    exact flashSvcNRise_writes hfits hservice hlow

end Sys2Proof.Machine
end

section
/-!
PROOFS. Steps of the block and its fuses (R336, R409, R410, R423, R425): what a step takes from the queue, which commands write
fuses, that fuses only blow, and how the anti-rollback counters rise.
-/

namespace Sys2Proof.Machine

/-! ### What a command can answer -/

/-- A command that writes no fuse answers a next state that differs in the body only; four commands are apart. -/
theorem exec_cases (i : Instr) (s : State) :
    (∃ b, exec i s = .next { s with body := b }) ∨ (∃ c, i = .mtMapout c) ∨ (∃ c, i = .scCommit c) ∨ (∃ c, i = .scOwner c) ∨
      ∃ tdi, i = .scanAccess tdi := by
  cases i with
  | mtMapout c => exact .inr (.inl ⟨c, rfl⟩)
  | scCommit c => exact .inr (.inr (.inl ⟨c, rfl⟩))
  | scOwner c => exact .inr (.inr (.inr (.inl ⟨c, rfl⟩)))
  | scanAccess tdi => exact .inr (.inr (.inr (.inr ⟨tdi, rfl⟩)))
  | _ => exact .inl ⟨_, rfl⟩

/-- The map-out fuses with that of the channel named, if any, blown. -/
def mapoutBlown (f : Fuses) : Option Nat → Fuses
  | some h => { f with mapout := SMap.upd f.mapout 0 (h / 32) fun v => v ||| 2 ^ (h % 32) }
  | none => f

theorem exec_mtMapout (c : Cmd) (s : State) :
    exec (.mtMapout c) s = .next { s with body := (s.body.mapout c).1, fuse := mapoutBlown s.fuse (s.body.mapout c).2 } := by
  rw [exec, execMtMapout]
  obtain ⟨b, h⟩ := s.body.mapout c
  cases h <;> rfl

theorem exec_scCommit (c : Cmd) (s : State) :
    exec (.scCommit c) s = .next { s with body := (s.body.commit s.fuse c).1, fuse := (s.body.commit s.fuse c).2 } := rfl

theorem exec_scOwner (c : Cmd) (s : State) :
    exec (.scOwner c) s = .next { s with body := (s.body.ownerSet s.fuse c).1, fuse := (s.body.ownerSet s.fuse c).2 } := rfl

theorem exec_scanAccess_of_level {s : State} (h : s.body.level 2 = true) (tdi : List Bool) :
    exec (.scanAccess tdi) s = .refused .scanUnspecified := if_pos h

theorem exec_scanAccess_of_no_level {s : State} (h : s.body.level 2 = false) (tdi : List Bool) :
    exec (.scanAccess tdi) s = .next s := if_neg (by simp [h])

/-- Every command answers a next state with the queue it was given, but a scan access that is refused. -/
theorem exec_next_or_refused (i : Instr) (s : State) :
    (∃ t, exec i s = .next t ∧ t.pending = s.pending) ∨
      exec i s = .refused .scanUnspecified ∧ (∃ tdi, i = .scanAccess tdi) ∧ s.body.level 2 = true := by
  obtain ⟨b, h⟩ | ⟨c, rfl⟩ | ⟨c, rfl⟩ | ⟨c, rfl⟩ | ⟨tdi, rfl⟩ := exec_cases i s
  · exact .inl ⟨_, h, rfl⟩
  · exact .inl ⟨_, exec_mtMapout c s, rfl⟩
  · exact .inl ⟨_, exec_scCommit c s, rfl⟩
  · exact .inl ⟨_, exec_scOwner c s, rfl⟩
  · cases h : s.body.level 2 with
    | true => exact .inr ⟨exec_scanAccess_of_level h tdi, ⟨tdi, rfl⟩, rfl⟩
    | false => exact .inl ⟨_, exec_scanAccess_of_no_level h tdi, rfl⟩

theorem exec_pending {i : Instr} {s t : State} (h : exec i s = .next t) : t.pending = s.pending := by
  obtain ⟨u, hu, hp⟩ | ⟨hr, -⟩ := exec_next_or_refused i s
  · cases h.symm.trans hu
    exact hp
  · cases h.symm.trans hr

theorem step_of_cons {s : State} {c : Instr} {r : List Instr} (h : s.pending = c :: r) : step s = exec c { s with pending := r } := by
  rw [step, h]

theorem step_of_nil {s : State} (h : s.pending = []) : step s = .next s.tick := by
  rw [step, h]

theorem tick_pending (s : State) : s.tick.pending = s.pending := by
  unfold State.tick
  split <;> rfl

theorem tick_fuse (s : State) : s.tick.fuse = s.fuse := by
  unfold State.tick
  split <;> rfl

/-- Settles O1, by the equation of `step` at a queue with a front. -/
theorem stepRunsFrontCommand : Obligations.StepRunsFrontCommand := fun _ _ _ h => step_of_cons h

/-- Settles O2, by what a command can answer and what a tick does. -/
theorem queueOnlyLosesItsFront : Obligations.QueueOnlyLosesItsFront := by
  refine ⟨fun i s t h => exec_pending h, fun s t h => ?_, fun s h => ⟨fun hon => ?_, fun hoff => ?_⟩⟩
  · cases hp : s.pending with
    | nil =>
      rw [step_of_nil hp] at h
      cases h
      rw [tick_pending, hp, List.tail_nil]
    | cons c r =>
      rw [step_of_cons hp] at h
      rw [exec_pending h, List.tail_cons]
  · rw [step_of_nil h, State.tick, if_neg hon]
  · rw [step_of_nil h, State.tick, if_pos hoff]

/-- Settles O3, by what a command can answer. -/
theorem onlyScanStops : Obligations.OnlyScanStops := by
  refine ⟨fun i s => ?_, fun tdi s => ⟨fun h => exec_scanAccess_of_level h tdi, fun h => exec_scanAccess_of_no_level h tdi⟩⟩
  obtain ⟨t, ht, -⟩ | ⟨-, hi, hlevel⟩ := exec_next_or_refused i s
  · exact .inl ⟨t, ht⟩
  · exact .inr ⟨hi, hlevel⟩

/-! ### The fuses that a command writes -/

/-- Fuses went from one state to another by blowing only, and stayed legal. -/
structure FusesBlow (f g : Fuses) : Prop where
  legal : FusesLegal f → FusesLegal g
  revoked : ∀ k, f.revoked.testBit k = true → g.revoked.testBit k = true
  owner : ∀ h, f.owner = some h → g.owner = some h
  fwSvn : f.fwSvn ≤ g.fwSvn
  frSvn : f.frSvn ≤ g.frSvn
  mapout : ∀ k c, (SMap.get f.mapout 0 k).testBit c = true → (SMap.get g.mapout 0 k).testBit c = true

theorem FusesBlow.refl (f : Fuses) : FusesBlow f f :=
  ⟨id, fun _ => id, fun _ => id, le_refl _, le_refl _, fun _ _ => id⟩

theorem fusesBlow_mapoutBlown (f : Fuses) (o : Option Nat) : FusesBlow f (mapoutBlown f o) := by
  cases o with
  | none => exact .refl f
  | some h =>
    have hget : ∀ k, SMap.get (mapoutBlown f (some h)).mapout 0 k =
        if k = h / 32 then SMap.get f.mapout 0 k ||| 2 ^ (h % 32) else SMap.get f.mapout 0 k := fun k => by
      rw [mapoutBlown]
      split
      · next hk => rw [hk, SMap.get_upd_self]
      · next hk => rw [SMap.get_upd_ne _ _ _ hk]
    refine ⟨fun ⟨hrev, hfw, hfr, hmap⟩ => ⟨hrev, hfw, hfr, fun k => ?_⟩, fun _ => id, fun _ => id, le_refl _, le_refl _,
      fun k c hc => ?_⟩
    · rw [hget]
      split
      · exact Nat.or_lt_two_pow (hmap k) (Nat.pow_lt_pow_right Nat.one_lt_two (Nat.mod_lt _ (by decide)))
      · exact hmap k
    · rw [hget]
      split
      · rw [Nat.testBit_or, hc, Bool.true_or]
      · exact hc

theorem fusesBlow_ownerSet (b : Body) (f : Fuses) (c : Cmd) : FusesBlow f (b.ownerSet f c).2 := by
  unfold Body.ownerSet
  split
  · exact .refl f
  · split
    · exact .refl f
    · next hnone =>
      refine ⟨id, fun _ => id, fun h hh => ?_, le_refl _, le_refl _, fun _ _ => id⟩
      simp [hh] at hnone

theorem le_raiseSvn (old svn : Nat) : old ≤ raiseSvn old svn := le_max_left _ _

theorem raiseSvn_le {old : Nat} (h : old ≤ 64) (svn : Nat) : raiseSvn old svn ≤ 64 := max_le h (min_le_left _ _)

theorem raiseSvn_eq (old svn : Nat) : raiseSvn old svn = if old < min 64 svn then min 64 svn else old := by
  unfold raiseSvn
  split <;> omega

/-- What SC_COMMIT blows: the slots it names, and the counters it selects, of which that of the framing needs a running image. -/
def committed (b : Body) (f : Fuses) (c : Cmd) : Fuses :=
  { f with
    revoked := f.revoked ||| c.f 1 5 2
    fwSvn := if c.b 1 0 then raiseSvn f.fwSvn b.boot.fw.svn else f.fwSvn
    frSvn := if c.b 1 1 ∧ b.boot.frBytes ≠ [] then raiseSvn f.frSvn b.boot.fr.svn else f.frSvn }

theorem commitFuses_of_allowed {b : Body} {f : Fuses} {c : Cmd} (hsigner : (c.f 1 5 2).testBit b.boot.fw.signer = false)
    (hrev : f.revoked ||| c.f 1 5 2 ≠ 0xF) : b.commitFuses f c = some (committed b f c) :=
  if_neg (by simp [hsigner, hrev])

theorem commitFuses_cases (b : Body) (f : Fuses) (c : Cmd) :
    b.commitFuses f c = none ∨ b.commitFuses f c = some (committed b f c) ∧ f.revoked ||| c.f 1 5 2 ≠ 0xF := by
  by_cases h : (c.f 1 5 2).testBit b.boot.fw.signer = true ∨ f.revoked ||| c.f 1 5 2 = 0xF
  · exact .inl (if_pos h)
  · exact .inr ⟨if_neg h, fun hr => h (.inr hr)⟩

/-- A command row is admitted with the boot part of the body as it was. -/
theorem boot_of_accept {b b' : Body} {c : Cmd} {opc : Nat} {fl : Flight} (h : b.accept c opc = .run b' fl) : b'.boot = b.boot := by
  have hlaunch : ∀ slot priv, (b.launch c opc slot priv false).1.boot = b.boot := fun slot priv =>
    Body.launch_boot b c opc slot priv false
  unfold Body.accept at h
  dsimp only at h
  split at h
  · split at h <;> cases h
    rfl
  · split at h
    · split at h
      · cases h
      · split at h
        · split at h <;> cases h
          exact hlaunch _ _
        · cases h
    · split at h <;> cases h

theorem commit_cases (b : Body) (f : Fuses) (c : Cmd) :
    (b.commit f c).2 = f ∨ (b.commit f c).2 = committed b f c ∧ f.revoked ||| c.f 1 5 2 ≠ 0xF := by
  unfold Body.commit
  split
  · exact .inl rfl
  · next b' fl hacc =>
    have hboot := boot_of_accept hacc
    obtain hnone | ⟨hsome, hrev⟩ := commitFuses_cases b' f c
    · rw [hnone]
      exact .inl rfl
    · rw [hsome]
      refine .inr ⟨?_, hrev⟩
      dsimp only
      rw [committed, committed, hboot]

theorem commit_of_dispatched {b : Body} {c : Cmd} {fl : Flight} (hd : Dispatched b c 0x84 fl) {f : Fuses}
    (hsigner : (c.f 1 5 2).testBit b.boot.fw.signer = false) (hrev : f.revoked ||| c.f 1 5 2 ≠ 0xF) :
    b.commit f c = ((b.senseFuses (committed b f c)).done fl, committed b f c) := by
  rw [Body.commit, Body.admit_dispatched hd]
  dsimp only
  rw [commitFuses_of_allowed hsigner hrev]

theorem le_fwSvn_committed (b : Body) (f : Fuses) (c : Cmd) : f.fwSvn ≤ (committed b f c).fwSvn := by
  unfold committed
  dsimp only
  split
  · exact le_raiseSvn _ _
  · exact le_refl _

theorem le_frSvn_committed (b : Body) (f : Fuses) (c : Cmd) : f.frSvn ≤ (committed b f c).frSvn := by
  unfold committed
  dsimp only
  split
  · exact le_raiseSvn _ _
  · exact le_refl _

theorem fwSvn_committed_le {f : Fuses} (h : f.fwSvn ≤ 64) (b : Body) (c : Cmd) : (committed b f c).fwSvn ≤ 64 := by
  unfold committed
  dsimp only
  split
  · exact raiseSvn_le h _
  · exact h

theorem frSvn_committed_le {f : Fuses} (h : f.frSvn ≤ 64) (b : Body) (c : Cmd) : (committed b f c).frSvn ≤ 64 := by
  unfold committed
  dsimp only
  split
  · exact raiseSvn_le h _
  · exact h

theorem fwSvn_committed_of_ne {b : Body} {f : Fuses} {c : Cmd} (h : (committed b f c).fwSvn ≠ f.fwSvn) :
    c.b 1 0 = true ∧ (committed b f c).fwSvn = min 64 b.boot.fw.svn := by
  simp only [committed, raiseSvn_eq] at h ⊢
  split at h
  · next hsel =>
    refine ⟨hsel, ?_⟩
    rw [if_pos hsel]
    exact if_pos (Decidable.by_contra fun hn => h (if_neg hn))
  · exact absurd rfl h

theorem frSvn_committed_of_ne {b : Body} {f : Fuses} {c : Cmd} (h : (committed b f c).frSvn ≠ f.frSvn) :
    c.b 1 1 = true ∧ (committed b f c).frSvn = min 64 b.boot.fr.svn := by
  simp only [committed, raiseSvn_eq] at h ⊢
  split at h
  · next hsel =>
    refine ⟨hsel.1, ?_⟩
    rw [if_pos hsel]
    exact if_pos (Decidable.by_contra fun hn => h (if_neg hn))
  · exact absurd rfl h

/-- Revocations that leave one of the four key slots stay below the mask of all four. -/
theorem or_lt_of_ne {n m : Nat} (hn : n < 15) (hm : m < 2 ^ 4) (h : n ||| m ≠ 0xF) : n ||| m < 15 := by
  have hlt : n ||| m < 2 ^ 4 := Nat.or_lt_two_pow (by omega) hm
  omega

theorem fusesBlow_commit (b : Body) (f : Fuses) (c : Cmd) : FusesBlow f (b.commit f c).2 := by
  obtain h | ⟨h, hrev⟩ := commit_cases b f c
  · rw [h]
    exact .refl f
  · rw [h]
    refine ⟨fun ⟨hr, hfw, hfr, hmap⟩ => ⟨or_lt_of_ne hr (cmd_f_lt c 1 5 2) hrev, fwSvn_committed_le hfw b c, frSvn_committed_le hfr b c, hmap⟩,
      fun k hk => ?_, fun _ => id, le_fwSvn_committed b f c, le_frSvn_committed b f c, fun _ _ => id⟩
    rw [committed, Nat.testBit_or, hk, Bool.true_or]

theorem exec_fusesBlow {i : Instr} {s t : State} (h : exec i s = .next t) : FusesBlow s.fuse t.fuse := by
  obtain ⟨b, hb⟩ | ⟨c, rfl⟩ | ⟨c, rfl⟩ | ⟨c, rfl⟩ | ⟨tdi, rfl⟩ := exec_cases i s
  · cases h.symm.trans hb
    exact .refl _
  · cases h.symm.trans (exec_mtMapout c s)
    exact fusesBlow_mapoutBlown _ _
  · cases h.symm.trans (exec_scCommit c s)
    exact fusesBlow_commit _ _ _
  · cases h.symm.trans (exec_scOwner c s)
    exact fusesBlow_ownerSet _ _ _
  · cases hl : s.body.level 2 with
    | true => cases h.symm.trans (exec_scanAccess_of_level hl tdi)
    | false =>
      cases h.symm.trans (exec_scanAccess_of_no_level hl tdi)
      exact .refl _

theorem step_fusesBlow {s t : State} (h : step s = .next t) : FusesBlow s.fuse t.fuse := by
  cases hp : s.pending with
  | nil =>
    cases h.symm.trans (step_of_nil hp)
    rw [tick_fuse]
    exact .refl _
  | cons c r => exact exec_fusesBlow (s := { s with pending := r }) ((step_of_cons hp).symm.trans h)

/-- Settles O4, by the three commands that write fuses. -/
theorem fusesOnlyBlow : Obligations.FusesOnlyBlow := fun _ _ h =>
  have ⟨legal, revoked, owner, fwSvn, frSvn, mapout⟩ := step_fusesBlow h
  ⟨legal, revoked, owner, fwSvn, frSvn, mapout⟩

/-! ### The anti-rollback counters -/

theorem ownerSet_svns (b : Body) (f : Fuses) (c : Cmd) :
    (b.ownerSet f c).2.fwSvn = f.fwSvn ∧ (b.ownerSet f c).2.frSvn = f.frSvn := by
  unfold Body.ownerSet
  split
  · exact ⟨rfl, rfl⟩
  · split <;> exact ⟨rfl, rfl⟩

theorem mapoutBlown_svns (f : Fuses) (o : Option Nat) : (mapoutBlown f o).fwSvn = f.fwSvn ∧ (mapoutBlown f o).frSvn = f.frSvn := by
  cases o <;> exact ⟨rfl, rfl⟩

/-- A command leaves the counters as they are, or is an SC_COMMIT that blows what it selects. -/
theorem exec_svns {i : Instr} {s t : State} (h : exec i s = .next t) :
    (t.fuse.fwSvn = s.fuse.fwSvn ∧ t.fuse.frSvn = s.fuse.frSvn) ∨ ∃ c, i = .scCommit c ∧ t.fuse = committed s.body s.fuse c := by
  obtain ⟨b, hb⟩ | ⟨c, rfl⟩ | ⟨c, rfl⟩ | ⟨c, rfl⟩ | ⟨tdi, rfl⟩ := exec_cases i s
  · cases h.symm.trans hb
    exact .inl ⟨rfl, rfl⟩
  · cases h.symm.trans (exec_mtMapout c s)
    exact .inl (mapoutBlown_svns _ _)
  · cases h.symm.trans (exec_scCommit c s)
    obtain hsame | ⟨hnew, -⟩ := commit_cases s.body s.fuse c
    · exact .inl ⟨congrArg Fuses.fwSvn hsame, congrArg Fuses.frSvn hsame⟩
    · exact .inr ⟨c, rfl, hnew⟩
  · cases h.symm.trans (exec_scOwner c s)
    exact .inl (ownerSet_svns _ _ _)
  · cases hl : s.body.level 2 with
    | true => cases h.symm.trans (exec_scanAccess_of_level hl tdi)
    | false =>
      cases h.symm.trans (exec_scanAccess_of_no_level hl tdi)
      exact .inl ⟨rfl, rfl⟩

theorem step_svns {s t : State} (h : step s = .next t) :
    (t.fuse.fwSvn = s.fuse.fwSvn ∧ t.fuse.frSvn = s.fuse.frSvn) ∨
      ∃ c r, s.pending = .scCommit c :: r ∧ t.fuse = committed s.body s.fuse c := by
  cases hp : s.pending with
  | nil =>
    cases h.symm.trans (step_of_nil hp)
    rw [tick_fuse]
    exact .inl ⟨rfl, rfl⟩
  | cons i r =>
    obtain hsame | ⟨c, rfl, ht⟩ := exec_svns ((step_of_cons hp).symm.trans h)
    · exact .inl hsame
    · exact .inr ⟨c, r, rfl, ht⟩

theorem svnsRise {s t : State} (h : step s = .next t) :
    s.fuse.fwSvn ≤ t.fuse.fwSvn ∧ s.fuse.frSvn ≤ t.fuse.frSvn ∧ (s.fuse.fwSvn ≤ 64 → t.fuse.fwSvn ≤ 64) ∧ (s.fuse.frSvn ≤ 64 → t.fuse.frSvn ≤ 64) ∧
    (t.fuse.fwSvn ≠ s.fuse.fwSvn → ∃ c r, s.pending = .scCommit c :: r ∧ c.b 1 0 = true ∧ t.fuse.fwSvn = min 64 s.body.boot.fw.svn) ∧
    (t.fuse.frSvn ≠ s.fuse.frSvn → ∃ c r, s.pending = .scCommit c :: r ∧ c.b 1 1 = true ∧ t.fuse.frSvn = min 64 s.body.boot.fr.svn) := by
  obtain ⟨hfw, hfr⟩ | ⟨c, r, hp, ht⟩ := step_svns h
  · rw [hfw, hfr]
    exact ⟨le_refl _, le_refl _, id, id, fun hne => absurd rfl hne, fun hne => absurd rfl hne⟩
  · rw [ht]
    exact ⟨le_fwSvn_committed _ _ c, le_frSvn_committed _ _ c, fun h64 => fwSvn_committed_le h64 _ c, fun h64 => frSvn_committed_le h64 _ c,
      fun hne => ⟨c, r, hp, fwSvn_committed_of_ne hne⟩, fun hne => ⟨c, r, hp, frSvn_committed_of_ne hne⟩⟩

/-- Settles O55, by what SC_COMMIT blows, no other command writing a counter. -/
theorem svnCountersOnlyRiseByCommit : Obligations.SvnCountersOnlyRiseByCommit := by
  refine ⟨fun s t h => svnsRise h, fun s c fl hd hsigner hrev => ?_⟩
  refine ⟨_, exec_scCommit c s, ?_⟩
  rw [commit_of_dispatched hd hsigner hrev]
  simp only [committed, raiseSvn_eq]
  refine ⟨?_, ?_⟩
  · by_cases hsel : c.b 1 0 = true <;> simp [hsel]
  · by_cases hsel : c.b 1 1 = true ∧ s.body.boot.frBytes ≠ []
    · simp [hsel]
    · rw [if_neg hsel, if_neg fun hh => hsel ⟨hh.1, hh.2.1⟩]

end Sys2Proof.Machine
end

section
/-!
PROOFS. Changes that end no command, write no byte, and of the registers write only those that take note and those named: how such
changes follow one another, how a command ends after them, and what a field reads after a write to its register.
-/

namespace Sys2Proof.Machine

/-! ### Fields of one register -/

/-- A field after a write to it or to another field of its register. -/
theorem getF_setF_fields (b : Body) {r : Reg} {f g : Fld} (v : Nat) (hok : r.ok = true) (hst : r.stored)
    (h : f.lo ≤ f.hi ∧ f.hi < 64 ∧ g.lo ≤ g.hi ∧ (g = f ∨ g.hi < f.lo ∨ f.hi < g.lo)) :
    (b.setF r f v).getF r g = if g = f then v % 2 ^ f.width else b.getF r g := by
  obtain ⟨hl, hh, hg, rfl | ha⟩ := h
  · rw [if_pos rfl, Body.getF_setF_self b v hok hst hl hh]
  · have hne : g ≠ f := fun he => by subst he; omega
    rw [if_neg hne, Body.getF_setF_apart b v hok hst hl hh hg ha]

theorem getF_bump_fields (b : Body) {r : Reg} {f g : Fld} (n : Nat) (hok : r.ok = true) (hst : r.stored)
    (h : f.lo ≤ f.hi ∧ f.hi < 64 ∧ g.lo ≤ g.hi ∧ (g = f ∨ g.hi < f.lo ∨ f.hi < g.lo)) :
    (b.bump r f n).getF r g = if g = f then min (b.getF r f + n) (2 ^ f.width - 1) else b.getF r g := by
  rw [Body.bump, getF_setF_fields b _ hok hst h]
  split
  · exact Nat.mod_eq_of_lt (by have := Nat.two_pow_pos f.width; omega)
  · rfl

theorem counted_zero (b : Body) (r : Reg) (f : Fld) : Counted b b r f 0 :=
  (min_eq_left (Nat.le_sub_one_of_lt (b.getF_lt r f))).symm

theorem Counted.of_getF {b c t : Body} {r : Reg} {f : Fld} {n : Nat} (h : Counted b c r f n) (ht : t.getF r f = c.getF r f) :
    Counted b t r f n := ht.trans h

theorem Counted.of_reg {b c t : Body} {r : Reg} {f : Fld} {n : Nat} (h : Counted b c r f n) (ht : t.reg r = c.reg r) :
    Counted b t r f n := h.of_getF (by rw [Body.getF, ht, Body.getF])

theorem counted_from {b c t : Body} {r : Reg} {f : Fld} {n : Nat} (h : Counted c t r f n) (hc : c.getF r f = b.getF r f) :
    Counted b t r f n := by
  unfold Counted at h ⊢
  rw [h, hc]

/-! ### Changes beside memory and beside other registers -/

/-- No command has ended since, every byte reads as before, and so does every register but those that take note and those named. -/
structure SameBut (l : List Nat) (b c : Body) : Prop where
  ended : c.hm.ended = b.hm.ended
  bytes : SameBytes b c
  regs : SameRegsBut b c l

theorem SameRegsBut.mono {b c : Body} {l m : List Nat} (h : SameRegsBut b c l) (hlm : l ⊆ m) : SameRegsBut b c m :=
  fun q hq hl => h q hq fun hm => hl (hlm hm)

theorem SameRegsBut.trans {b c d : Body} {l : List Nat} (h : SameRegsBut b c l) (g : SameRegsBut c d l) : SameRegsBut b d l :=
  fun q hq hl => (g q hq hl).trans (h q hq hl)

namespace SameBut

variable {l : List Nat} {b c d : Body}

theorem refl (l : List Nat) (b : Body) : SameBut l b b := ⟨rfl, fun _ => rfl, fun _ _ _ => rfl⟩

theorem trans (h : SameBut l b c) (g : SameBut l c d) : SameBut l b d :=
  ⟨g.ended.trans h.ended, h.bytes.trans g.bytes, h.regs.trans g.regs⟩

theorem mono {m : List Nat} (h : SameBut l b c) (hlm : l ⊆ m) : SameBut m b c := ⟨h.ended, h.bytes, h.regs.mono hlm⟩

/-- A change to anything else. -/
theorem beside (h : SameBut l b c) (hended : d.hm.ended = c.hm.ended) (hmem : d.mem = c.mem) (hhaze : d.haze = c.haze)
    (hbg : d.bg = c.bg) (hregs : d.regs = c.regs) : SameBut l b d :=
  h.trans ⟨hended, sameBytes_of hmem hhaze hbg, fun q _ _ => Body.reg_congr hregs q⟩

theorem setReg (h : SameBut l b c) {r : Reg} (hr : r.addr ∈ l) (w : Word) : SameBut l b (c.setReg r w) :=
  h.trans ⟨by simp, sameBytes_of (by simp) (by simp) (by simp),
    fun q _ hl => Body.reg_setReg_ne c w fun he => hl (he ▸ hr)⟩

theorem setF (h : SameBut l b c) {r : Reg} (hr : r.addr ∈ l) (f : Fld) (v : Nat) : SameBut l b (c.setF r f v) := h.setReg hr _

theorem bump (h : SameBut l b c) {r : Reg} (hr : r.addr ∈ l) (f : Fld) (n : Nat) : SameBut l b (c.bump r f n) := h.setF hr f _

/-- A write to a register that takes note. -/
theorem setNote (h : SameBut l b c) {r : Reg} (hr : ∀ q : Reg, ¬ q.notes → q.addr ≠ r.addr) (f : Fld) (v : Nat) :
    SameBut l b (c.setF r f v) :=
  h.trans ⟨by simp, sameBytes_of (by simp) (by simp) (by simp), fun q hq _ => Body.reg_setF_ne c f v (hr q hq)⟩

theorem clampCmd (h : SameBut l b c) (fl : Flight) (n : Nat) : SameBut l b (c.clampCmd fl n) :=
  h.trans ⟨by simp, sameBytes_of (by simp) (by simp) (by simp), fun _ hq _ => Body.reg_clampCmd c fl n hq⟩

theorem clamps (h : SameBut l b c) (n opc ctx : Nat) : SameBut l b (c.clamps n opc ctx) :=
  h.trans ⟨by simp, sameBytes_of (by simp) (by simp) (by simp), fun _ hq _ => Body.reg_clamps c n opc ctx hq⟩

theorem count (h : SameBut l b c) (slot i n : Nat) : SameBut l b (c.count slot i n) :=
  h.trans ⟨by simp, sameBytes_of (by simp) (by simp) (by simp), fun _ hq _ => Body.reg_count c slot i n hq⟩

theorem err (h : SameBut l b c) (code sev kind unit : Nat) (d : List Nat) (st ctx : Nat) :
    SameBut l b (c.err code sev kind unit d st ctx) :=
  h.trans ⟨by simp, sameBytes_of (by simp) (by simp) (by simp), fun _ hq _ => Body.reg_err c code sev kind unit d st ctx hq⟩

theorem raise (h : SameBut l b c) (r : ErrRec) : SameBut l b (c.raise r) :=
  h.trans ⟨by simp, sameBytes_of (by simp) (by simp) (by simp), fun _ hq _ => Body.reg_raise c r hq⟩

theorem log (h : SameBut l b c) (kind unit code status ctx tag arg : Nat) : SameBut l b (c.log kind unit code status ctx tag arg) :=
  h.beside (by simp) (by simp) (by simp) (by simp) (by simp)

theorem send (h : SameBut l b c) (m : Msg) : SameBut l b (c.send m) := h.beside rfl rfl rfl rfl rfl

theorem free (h : SameBut l b c) : SameBut l b c.free.2 := h.beside rfl rfl rfl rfl rfl

theorem start (h : SameBut l b c) (fl : Flight) : SameBut l b (c.start fl) := h.beside rfl rfl rfl rfl rfl

theorem retire (h : SameBut l b c) (fl : Flight) (st r : Nat) (e : Bool) : OnlyEnds b (c.retire fl st r e) fl st r l :=
  ⟨Body.endsWith_retire fl st r e h.ended, h.bytes.trans (sameBytes_of (by simp) (by simp) (by simp)),
    fun q hq hl => (Body.reg_retire c fl st r e hq).trans (h.regs q hq hl)⟩

theorem done (h : SameBut l b c) (fl : Flight) (r : Nat) : OnlyEnds b (c.done fl r) fl 0 r l := h.retire fl 0 r false

theorem fail (h : SameBut l b c) (fl : Flight) (st d0 d1 : Nat) : OnlyEnds b (c.fail fl st d0 d1) fl st 0 l :=
  ⟨Body.endsWith_fail fl st d0 d1 h.ended, h.bytes.trans (sameBytes_of (by simp) (by simp) (by simp)),
    fun q hq hl => (Body.reg_fail c fl st d0 d1 hq).trans (h.regs q hq hl)⟩

theorem failWith (h : SameBut l b c) (fl : Flight) (st code sev kind unit : Nat) (d : List Nat) :
    OnlyEnds b (c.failWith fl st code sev kind unit d) fl st 0 l :=
  (h.raise _).retire fl st 0 true

theorem foldl {α : Type} {f : Body → α → Body} (h : SameBut l b c) (hf : ∀ c x, SameBut l c (f c x)) (xs : List α) :
    SameBut l b (xs.foldl f c) :=
  foldl_inv (SameBut l b) f xs c h fun _ x g => g.trans (hf _ x)

end SameBut

/-! ### What bytes are read from -/

/-- What the bytes of a body are read from. -/
def Body.memory (b : Body) : SMap Byte × List (Nat × Nat × Nat) × SMap Nat := (b.mem, b.haze, b.bg)

theorem sameBytes_of_memory {b c : Body} (h : c.memory = b.memory) : SameBytes b c := by
  obtain ⟨hmem, hrest⟩ := Prod.mk.inj h
  obtain ⟨hhaze, hbg⟩ := Prod.mk.inj hrest
  exact sameBytes_of hmem hhaze hbg

theorem memory_setReg (b : Body) (r : Reg) (w : Word) : (b.setReg r w).memory = b.memory := by simp [Body.memory]

theorem memory_err (b : Body) (code sev kind unit : Nat) (d : List Nat) (st ctx : Nat) :
    (b.err code sev kind unit d st ctx).memory = b.memory := by simp [Body.memory]

theorem memory_setF (b : Body) (r : Reg) (f : Fld) (v : Nat) : (b.setF r f v).memory = b.memory := memory_setReg b r _

/-! ### Answers -/

/-- A command whose effect is on the body gives whatever that effect meets. -/
theorem gives_onBody {i : Instr} {s : State} {f : Body → Body} {p : Body → Prop} (hi : exec i s = s.onBody f) (hp : p (f s.body)) :
    Gives i s p := ⟨_, hi, rfl, hp⟩

theorem gives_of_next {i : Instr} {s : State} {b : Body} {p : Body → Prop} (hi : exec i s = .next { s with body := b }) (hp : p b) :
    Gives i s p := ⟨_, hi, rfl, hp⟩

/-- A command row of a dispatched command is what it does with its flight. -/
theorem exec_onCmd {i : Instr} {s : State} {c : Cmd} {opc : Nat} {fl : Flight} {f : Body → Flight → Body}
    (hd : Dispatched s.body c opc fl) (hi : exec i s = s.onBody fun b => b.onCmd c opc f) :
    exec i s = .next { s with body := f s.body fl } := by
  rw [hi, State.onBody, Body.onCmd_dispatched hd]

theorem exec_onSub {i : Instr} {s : State} {c : Cmd} {opc : Nat} {fl : Flight} {is : Bool} {f : Body → Flight → Body}
    (hd : Dispatched s.body c opc fl) (his : is = true) (hi : exec i s = s.onBody fun b => b.onSub c opc is f) :
    exec i s = .next { s with body := f s.body fl } := by
  rw [hi, State.onBody, Body.onSub_dispatched hd, if_pos his]

end Sys2Proof.Machine
end

section
/-!
PROOFS. The commands of the memory tiers (R327, R328, R332, R336): SL_SET, MT_REDUCE and MT_MAPOUT.
-/

namespace Sys2Proof.Machine

/-! ### SL_SET -/

section
variable {i m : Nat} (hi : i < 11) (hm : m < 3)
include hi hm

theorem slCfg_ok : (Reg.slCfg i m).ok = true := by simp [Reg.ok, hi, hm]

theorem unnoted_slCfg : (Reg.slCfg i m).Unnoted := by
  constructor <;> simp only [Reg.addr] <;> omega

omit hi hm in
theorem slCfg_stored (i m : Nat) : (Reg.slCfg i m).stored := by simp [Reg.stored]

/-- RATE and BURST read what SL_SET puts there, and what waits still waits. -/
theorem slPut_spec (b : Body) {rate burst : Nat} (hrate : rate < 2 ^ 16) (hburst : burst < 2 ^ 16) :
    SameBut [(Reg.slCfg i m).addr] b (b.slPut i m rate burst) ∧
      (b.slPut i m rate burst).getF (.slCfg i m) Fld.slCfgRate = rate ∧
      (b.slPut i m rate burst).getF (.slCfg i m) Fld.slCfgBurst = burst ∧
      ((b.slPut i m rate burst).sluice i m).waiting = (b.sluice i m).waiting := by
  refine ⟨?_, ?_, ?_, ?_⟩
  · exact (((SameBut.refl _ b).setF (List.mem_singleton.2 rfl) _ _).setF (List.mem_singleton.2 rfl) _ _).beside rfl rfl rfl rfl rfl
  · rw [Body.slPut, Body.setSluice_getF, getF_setF_fields _ _ (slCfg_ok hi hm) (slCfg_stored i m) (by decide), if_neg (by decide),
      getF_setF_fields _ _ (slCfg_ok hi hm) (slCfg_stored i m) (by decide), if_pos rfl]
    exact Nat.mod_eq_of_lt hrate
  · rw [Body.slPut, Body.setSluice_getF, getF_setF_fields _ _ (slCfg_ok hi hm) (slCfg_stored i m) (by decide), if_pos rfl]
    exact Nat.mod_eq_of_lt hburst
  · rw [Body.slPut, Body.sluice, Body.setSluice, SMap.get_set_self, Body.sluice, Body.setF_tiers, Body.setF_tiers, ← Body.sluice]

end

/-- SL_SET with its clamps counted. -/
def Body.slClamped (b : Body) (c : Cmd) (fl : Flight) (i m rate burst : Nat) : Body :=
  b.clampCmd fl ([decide (i ≠ c.f 1 3 0), decide (m ≠ c.f 1 5 4), decide (rate ≠ c.f 2 15 0), decide (burst ≠ c.f 2 31 16)].count true)

section
variable {s : State} {c : Cmd} {fl : Flight} {i m : Nat} (hi : i = min 10 (c.f 1 3 0)) (hm : m = min 2 (c.f 1 5 4))
  (hd : Dispatched s.body c 0x71 fl)
include hi hm hd

theorem exec_slSet {rate burst : Nat} (hrate : rate = s.body.slFit i m (max 1 (c.f 2 15 0)) fun j => s.body.getF (.slCfg j m) Fld.slCfgRate)
    (hburst : burst = max 1 (c.f 2 31 16)) :
    exec (.slSet c) s = .next { s with
      body := if i < 10 ∧ ¬ partDefined s.body.framing i then (s.body.slClamped c fl i m rate burst).fail fl 0x11 i
        else ((s.body.slClamped c fl i m rate burst).slPut i m rate burst).done fl } := by
  subst hi hm hrate hburst
  rw [exec_onCmd hd rfl]
  dsimp only
  rw [Body.clampCmd_framing]
  rfl

theorem slSet_refused (hlt : i < 10) (hpart : partDefined s.body.framing i = false) :
    Gives (.slSet c) s fun t => OnlyEnds s.body t fl 0x11 0 [] ∧ t.tiers = s.body.tiers := by
  refine gives_of_next (exec_slSet hi hm hd rfl rfl) ?_
  rw [if_pos ⟨hlt, by simp [hpart]⟩]
  exact ⟨((SameBut.refl _ _).clampCmd fl _).fail fl _ _ _, by simp [Body.slClamped]⟩

omit hi hm hd in
theorem slFit_lt (b : Body) {v : Nat} (hv : v < 2 ^ 16) (rate : Nat → Nat) : b.slFit i m (max 1 v) rate < 2 ^ 16 := by
  unfold Body.slFit
  omega

theorem slSet_sets (hpart : i = 10 ∨ partDefined s.body.framing i = true) :
    Gives (.slSet c) s fun t => OnlyEnds s.body t fl 0 0 [(Reg.slCfg i m).addr] ∧
        t.getF (.slCfg i m) Fld.slCfgRate = s.body.slFit i m (max 1 (c.f 2 15 0)) (fun j => s.body.getF (.slCfg j m) Fld.slCfgRate) ∧
        t.getF (.slCfg i m) Fld.slCfgBurst = max 1 (c.f 2 31 16) ∧ (t.sluice i m).waiting = (s.body.sluice i m).waiting := by
  have hlt : i < 11 := by omega
  have hmt : m < 3 := by omega
  refine gives_of_next (exec_slSet hi hm hd rfl rfl) ?_
  rw [if_neg (by rintro ⟨hlt, hnot⟩; obtain rfl | hp := hpart; omega; exact hnot hp)]
  have hrate : s.body.slFit i m (max 1 (c.f 2 15 0)) (fun j => s.body.getF (.slCfg j m) Fld.slCfgRate) < 2 ^ 16 :=
    slFit_lt _ (cmd_f_lt c 2 15 0) _
  have hburst : max 1 (c.f 2 31 16) < 2 ^ 16 := by have := cmd_f_lt c 2 31 16; omega
  generalize s.body.slFit i m (max 1 (c.f 2 15 0)) (fun j => s.body.getF (.slCfg j m) Fld.slCfgRate) = rate at hrate ⊢
  generalize max 1 (c.f 2 31 16) = burst at hburst ⊢
  obtain ⟨hsame, hr, hb, hw⟩ := slPut_spec hlt hmt (s.body.slClamped c fl i m rate burst) hrate hburst
  have hreg := (unnoted_slCfg hlt hmt).done ((s.body.slClamped c fl i m rate burst).slPut i m rate burst) fl 0
  refine ⟨(((SameBut.refl _ s.body).clampCmd fl _).trans hsame).done fl 0, ?_, ?_, ?_⟩
  · rw [Body.getF, hreg, ← Body.getF, hr]
  · rw [Body.getF, hreg, ← Body.getF, hb]
  · rw [Body.sluice, Body.done_tiers, ← Body.sluice, hw, Body.sluice, Body.slClamped, Body.clampCmd_tiers, ← Body.sluice]

end

/-! ### MT_REDUCE -/

theorem RowsStored.succ {b c t : Body} {d n pitch k : Nat} {row : Nat → List Byte} (hpitch : n ≤ pitch) (hlen : (row k).length = n)
    (h : RowsStored b (false, c) d n pitch k row) (ht : RowStored c t (d + k * pitch) (row k)) :
    RowsStored b (false, t) d n pitch (k + 1) row := by
  obtain ⟨-, -, hended, hinside, houtside⟩ := h
  obtain ⟨hplain', hended', hnew, hold⟩ := ht
  rw [hlen] at hnew hold
  refine ⟨rfl, hplain', hended'.trans hended, fun r j hr hj => ?_, fun a ha => ?_⟩
  · rcases Nat.lt_succ_iff_lt_or_eq.1 hr with hlt | rfl
    · have hbefore : (r + 1) * pitch ≤ k * pitch := Nat.mul_le_mul_right pitch hlt
      rw [Nat.succ_mul] at hbefore
      exact (hold _ (Or.inl (by omega))).trans (hinside r j hlt hj)
    · exact hnew j hj
  · rw [inRows_eq_false_iff] at ha
    exact (hold a (ha k (Nat.lt_succ_self k))).trans (houtside a (inRows_eq_false_iff.2 fun r hr => ha r (Nat.lt_succ_of_lt hr)))

theorem bytes_ext {b c : Body} {a n : Nat} (h : ∀ j, j < n → b.byte (a + j) = c.byte (a + j)) : b.bytes a n = c.bytes a n := by
  induction n generalizing a with
  | zero => rfl
  | succ n ih =>
    have hrest : b.bytes (a + 1) n = c.bytes (a + 1) n := ih fun j hj => by
      rw [Nat.add_assoc, Nat.add_comm 1]
      exact h (j + 1) (Nat.succ_lt_succ hj)
    rw [Body.bytes, Body.bytes, hrest, show b.byte a = c.byte a from h 0 (Nat.succ_pos n)]

/-- A row not yet written reads as before. -/
theorem RowsStored.bytes_next {b : Body} {p : Bool × Body} {d n pitch k : Nat} {row : Nat → List Byte} (hpitch : n ≤ pitch)
    (h : RowsStored b p d n pitch k row) : p.2.bytes (d + k * pitch) n = b.bytes (d + k * pitch) n :=
  bytes_ext fun j hj => h.outside _ (inRows_eq_false_iff.2 fun r hr => .inr (by
    have hbefore : (r + 1) * pitch ≤ k * pitch := Nat.mul_le_mul_right pitch hr
    rw [Nat.succ_mul] at hbefore
    omega))

theorem length_reduceRow (fmt op eb k : Nat) (d x : List Byte) : (reduceRow fmt op eb k d x).length = k * eb := by
  induction k generalizing d x with
  | zero => exact (Nat.zero_mul eb).symm
  | succ k ih => rw [reduceRow, List.length_append, length_leBytes, ih, Nat.succ_mul, Nat.add_comm]

theorem storeSide_of_plain {b : Body} (h : PlainMemory b) (a : Nat) (d : List Byte) : b.storeSide a d = b.store a d := by
  unfold Body.storeSide Body.badIn
  rw [h.1, List.find?_nil, Option.isNone_none, if_pos rfl]

/-- One row of MT_REDUCE whose rows are clean: the source as it was before, the destination as it stands. -/
def reduceStep (old : Body) (fl : Flight) (fmt op eb sa0 da0 : Nat) (k : Block) (p : Bool × Body) (r : Nat) : Bool × Body :=
  let sa := sa0 + r * k.srcPitch
  let da := da0 + r * k.dstPitch
  let b := ((p.2.tierTraffic fl.slot sa k.rowBytes false (pointOf da)).tierTraffic fl.slot da k.rowBytes false (pointOf da)).tierTraffic
    fl.slot da k.rowBytes true (pointOf da)
  let x := b.load fl sa k.rowBytes
  let y := x.2.2.load fl da k.rowBytes
  (p.1 || x.2.1 || y.2.1, y.2.2.storeSide da (reduceRow fmt op eb (k.rowBytes / eb) y.1 (old.bytes sa k.rowBytes)))

/-- Clean rows of MT_REDUCE each hold what their elements give. -/
theorem rowsStored_reduce {b old : Body} (hb : PlainMemory b) (fl : Flight) (fmt op eb sa0 da0 : Nat) {k : Block}
    (hpitch : k.rowBytes ≤ k.dstPitch) (hwhole : k.rowBytes / eb * eb = k.rowBytes) (n : Nat) :
    RowsStored b ((List.range n).foldl (reduceStep old fl fmt op eb sa0 da0 k) (false, b)) da0 k.rowBytes k.dstPitch n fun r =>
      reduceRow fmt op eb (k.rowBytes / eb) (b.bytes (da0 + r * k.dstPitch) k.rowBytes) (old.bytes (sa0 + r * k.srcPitch) k.rowBytes) := by
  induction n with
  | zero => exact ⟨rfl, hb, rfl, fun r j hr => absurd hr (Nat.not_lt_zero r), fun _ _ => rfl⟩
  | succ n ih =>
    rw [List.range_succ, List.foldl_append, List.foldl_cons, List.foldl_nil]
    generalize (List.range n).foldl (reduceStep old fl fmt op eb sa0 da0 k) (false, b) = p at ih ⊢
    obtain ⟨ecc, c⟩ := p
    obtain rfl : ecc = false := ih.clear
    generalize hsa : sa0 + n * k.srcPitch = sa
    generalize hda : da0 + n * k.dstPitch = da
    have htraffic := ((sameMemory_tierTraffic c fl.slot sa k.rowBytes false (pointOf da)).trans
      (sameMemory_tierTraffic _ fl.slot da k.rowBytes false (pointOf da))).trans (sameMemory_tierTraffic _ fl.slot da k.rowBytes true (pointOf da))
    have hsrc := htraffic.trans (sameMemory_readPages _ sa k.rowBytes)
    have hboth := hsrc.trans (sameMemory_readPages _ da k.rowBytes)
    have hold : c.bytes da k.rowBytes = b.bytes da k.rowBytes := hda ▸ ih.bytes_next hpitch
    have hstep : reduceStep old fl fmt op eb sa0 da0 k (false, c) n = (false,
        (((((c.tierTraffic fl.slot sa k.rowBytes false (pointOf da)).tierTraffic fl.slot da k.rowBytes false (pointOf da)).tierTraffic fl.slot da
          k.rowBytes true (pointOf da)).readPages sa k.rowBytes).readPages da k.rowBytes).store da
          (reduceRow fmt op eb (k.rowBytes / eb) (b.bytes da k.rowBytes) (old.bytes sa k.rowBytes))) := by
      unfold reduceStep
      dsimp only
      rw [hsa, hda, load_of_plain (htraffic.plain ih.plain)]
      dsimp only
      rw [load_of_plain (hsrc.plain ih.plain)]
      dsimp only
      rw [storeSide_of_plain (hboth.plain ih.plain), bytes_ext fun j _ => hsrc.bytes (da + j), hold]
      rfl
    rw [hstep]
    refine ih.succ hpitch ?_ ?_
    · rw [length_reduceRow, hwhole]
    · rw [hsa, hda]
      exact hboth.store ih.plain _ _

/-- The format of MT_REDUCE, clamped. -/
def reduceFmt (c : Cmd) : Nat := if c.f 7 3 0 ∈ [8, 10, 12, 13] then c.f 7 3 0 else 10

/-- The block of MT_REDUCE, clamped to whole elements of `eb` bytes. -/
def reduceBlock (c : Cmd) (eb : Nat) : Block :=
  { src := (blockOf c).1.src / eb * eb, dst := (blockOf c).1.dst / eb * eb, rowBytes := max eb ((blockOf c).1.rowBytes / eb * eb),
    rows := (blockOf c).1.rows, srcPitch := (blockOf c).1.srcPitch / eb * eb, dstPitch := (blockOf c).1.dstPitch / eb * eb }

/-- The fields of MT_REDUCE that were clamped. -/
def reduceClamps (c : Cmd) : Nat :=
  let eb := elemBits (reduceFmt c) / 8
  (blockOf c).2 + [decide (reduceFmt c ≠ c.f 7 3 0), decide (min 2 (c.f 7 5 4) ≠ c.f 7 5 4),
    decide ((reduceBlock c eb).src ≠ (blockOf c).1.src), decide ((reduceBlock c eb).dst ≠ (blockOf c).1.dst),
    decide ((reduceBlock c eb).rowBytes ≠ (blockOf c).1.rowBytes), decide ((reduceBlock c eb).srcPitch ≠ (blockOf c).1.srcPitch),
    decide ((reduceBlock c eb).dstPitch ≠ (blockOf c).1.dstPitch)].count true

theorem reduceBlock_whole (c : Cmd) (eb : Nat) : (reduceBlock c eb).rowBytes / eb * eb = (reduceBlock c eb).rowBytes := by
  refine Nat.div_mul_cancel ?_
  show eb ∣ max eb ((blockOf c).1.rowBytes / eb * eb)
  rcases max_choice eb ((blockOf c).1.rowBytes / eb * eb) with hm | hm <;> rw [hm]
  exact Nat.dvd_mul_left _ _

section
variable {s : State} {c : Cmd} {fl : Flight} (hd : Dispatched s.body c 0x70 fl)
include hd

theorem mtReduce_of_stale (hr : s.body.resolve fl.slot (c.h 1) = none) :
    Gives (.mtReduce c) s fun t => OnlyEnds s.body t fl 0x12 0 [] := by
  have hargs : ∀ n ks, (s.body.clampCmd fl n).dmaArgs fl (c.h 1) (c.h 3) ks = .error (0x12, c.h 1) := fun n ks => by
    rw [(sameChecks_clampCmd s.body fl n).dmaArgs, Body.dmaArgs, hr]
  refine gives_of_next (exec_onCmd hd rfl) ?_
  dsimp only
  rw [hargs]
  exact ((SameBut.refl _ s.body).clampCmd fl _).fail fl _ _ _

variable {eb : Nat} {se de : Entry} (heb : eb = elemBits (reduceFmt c) / 8)
  (hargs : s.body.dmaArgs fl (c.h 1) (c.h 3) [reduceBlock c eb] = .ok (se, de)) (hlow : 2 ≤ de.place) (hhigh : de.place ≤ 3)
  (hrd : de.rd = true) (hlocal : se.place ≠ 5)
include heb hargs hlow hhigh hrd hlocal

theorem exec_mtReduce (hpitch : (reduceBlock c eb).rowBytes ≤ (reduceBlock c eb).dstPitch)
    (hapart : spansMeet (se.base + (reduceBlock c eb).src)
      (((reduceBlock c eb).rows - 1) * (reduceBlock c eb).srcPitch + (reduceBlock c eb).rowBytes) (de.base + (reduceBlock c eb).dst)
      (((reduceBlock c eb).rows - 1) * (reduceBlock c eb).dstPitch + (reduceBlock c eb).rowBytes) = false) :
    ∃ p, p = (List.range (reduceBlock c eb).rows).foldl (reduceStep (s.body.clampCmd fl (reduceClamps c)) fl (reduceFmt c) (min 2 (c.f 7 5 4)) eb
        (se.base + (reduceBlock c eb).src) (de.base + (reduceBlock c eb).dst) (reduceBlock c eb)) (false, s.body.clampCmd fl (reduceClamps c)) ∧
      exec (.mtReduce c) s = .next { s with body := p.2.doneEcc fl p.1 } := by
  subst heb
  refine ⟨_, rfl, ?_⟩
  rw [exec_onCmd hd rfl]
  have hargs' := ((sameChecks_clampCmd s.body fl (reduceClamps c)).dmaArgs fl (c.h 1) (c.h 3) _).trans hargs
  unfold reduceClamps reduceBlock reduceFmt at hargs' ⊢
  unfold reduceBlock reduceFmt at hpitch hapart
  dsimp only at hargs' ⊢
  rw [hargs']
  dsimp only
  rw [if_neg (by simp only [hrd, not_true_eq_false, or_false]; omega), if_neg hlocal]
  simp only [hapart, Bool.not_false, ge_iff_le, hpitch, true_or, decide_true, Bool.and_self, if_true]
  rfl

end

/-- MT_REDUCE between local places leaves in each destination row what its elements give. -/
theorem mtReduce_reduces {s : State} {c : Cmd} {fl : Flight} {eb : Nat} {se de : Entry} (hd : Dispatched s.body c 0x70 fl)
    (heb : eb = elemBits (reduceFmt c) / 8) (hplain : PlainMemory s.body)
    (hargs : s.body.dmaArgs fl (c.h 1) (c.h 3) [reduceBlock c eb] = .ok (se, de)) (hlow : 2 ≤ de.place) (hhigh : de.place ≤ 3)
    (hrd : de.rd = true) (hlocal : se.place ≠ 5) (hpitch : (reduceBlock c eb).rowBytes ≤ (reduceBlock c eb).dstPitch)
    (hapart : spansMeet (se.base + (reduceBlock c eb).src)
      (((reduceBlock c eb).rows - 1) * (reduceBlock c eb).srcPitch + (reduceBlock c eb).rowBytes) (de.base + (reduceBlock c eb).dst)
      (((reduceBlock c eb).rows - 1) * (reduceBlock c eb).dstPitch + (reduceBlock c eb).rowBytes) = false) :
    Gives (.mtReduce c) s fun t => EndsWith s.body t fl 0 0 ∧
        (∀ r, r < (reduceBlock c eb).rows → t.bytes (de.base + (reduceBlock c eb).dst + r * (reduceBlock c eb).dstPitch) (reduceBlock c eb).rowBytes =
          reduceRow (reduceFmt c) (min 2 (c.f 7 5 4)) eb ((reduceBlock c eb).rowBytes / eb)
            (s.body.bytes (de.base + (reduceBlock c eb).dst + r * (reduceBlock c eb).dstPitch) (reduceBlock c eb).rowBytes)
            (s.body.bytes (se.base + (reduceBlock c eb).src + r * (reduceBlock c eb).srcPitch) (reduceBlock c eb).rowBytes)) ∧
        ∀ a, inRows a (de.base + (reduceBlock c eb).dst) (reduceBlock c eb).rowBytes (reduceBlock c eb).rows (reduceBlock c eb).dstPitch = false →
          t.byte a = s.body.byte a := by
  obtain ⟨p, hp, hexec⟩ := exec_mtReduce hd heb hargs hlow hhigh hrd hlocal hpitch hapart
  have hclamp := sameMemory_clampCmd s.body fl (reduceClamps c)
  have hwhole := reduceBlock_whole c eb
  have hrows := rowsStored_reduce (old := s.body.clampCmd fl (reduceClamps c)) (hclamp.plain hplain) fl (reduceFmt c) (min 2 (c.f 7 5 4)) eb
    (se.base + (reduceBlock c eb).src) (de.base + (reduceBlock c eb).dst) hpitch hwhole (reduceBlock c eb).rows
  rw [← hp] at hrows
  obtain ⟨hends, hin, hout⟩ := rowsStored_done hclamp hrows fl
  refine gives_of_next hexec ⟨hends, fun r hr => ?_, hout⟩
  refine List.ext_getElem ?_ fun j hj hj' => ?_
  · rw [Body.length_bytes, length_reduceRow, hwhole]
  · rw [Body.length_bytes] at hj
    rw [List.getElem_eq_getD 0, List.getElem_eq_getD 0, getD_bytes _ _ hj, hin r j hr hj, bytes_ext fun j _ => hclamp.bytes _,
      bytes_ext fun j _ => hclamp.bytes _]

/-! ### MT_MAPOUT -/

theorem mtHbmMapout_ok {k : Nat} (hk : k < 20) : (Reg.mtHbmMapout k).ok = true := decide_eq_true hk

theorem mtHbmMapout_stored (k : Nat) : (Reg.mtHbmMapout k).stored := by simp [Reg.stored]

theorem unnoted_mtHbmMapout {k : Nat} (hk : k < 20) : (Reg.mtHbmMapout k).Unnoted := by
  constructor <;> simp only [Reg.addr] <;> omega

/-- MT_MAPOUT with its clamp counted. -/
def Body.mapoutClamped (b : Body) (c : Cmd) (fl : Flight) : Body :=
  b.clampCmd fl (if min 639 (c.f 1 9 0) ≠ c.f 1 9 0 then 1 else 0)

/-- The fuses of stack `k` with one more blown, as MT_HBM_MAPOUT shows them. -/
def Body.fuseShown (b : Body) (k x : Nat) : Body :=
  b.setF (.mtHbmMapout k) Fld.mtHbmMapoutFused (b.getF (.mtHbmMapout k) Fld.mtHbmMapoutFused ||| 2 ^ x)

theorem bit_of_getF_fused (b : Body) (k : Nat) {x : Nat} (hx : x < 32) :
    (b.reg (.mtHbmMapout k)).bit x = (b.getF (.mtHbmMapout k) Fld.mtHbmMapoutFused).testBit x := by
  show _ = ((b.reg (.mtHbmMapout k)).toNat >>> 0 % 2 ^ 32).testBit x
  rw [Nat.shiftRight_zero, Nat.testBit_mod_two_pow, decide_eq_true hx, Bool.true_and, Word.bit]

theorem bit_fuseShown (b : Body) {k x : Nat} (hk : k < 20) (hx : x < 32) : ((b.fuseShown k x).reg (.mtHbmMapout k)).bit x = true := by
  rw [bit_of_getF_fused _ _ hx, Body.fuseShown,
    getF_setF_fields _ _ (mtHbmMapout_ok hk) (mtHbmMapout_stored k) (by decide), if_pos rfl, Nat.testBit_mod_two_pow, Nat.testBit_or,
    Nat.testBit_two_pow_self]
  simp [Fld.width, Fld.mtHbmMapoutFused, hx]

section
variable {s : State} {c : Cmd} {fl : Flight} {h : Nat} (hh : h = min 639 (c.f 1 9 0)) (hd : Dispatched s.body c 0x72 fl)
include hh hd

theorem mapout_eq : s.body.mapout c =
    if (s.body.reg (.mtHbmMapout (h / 32))).bit (h % 32) then ((s.body.mapoutClamped c fl).done fl, none)
    else if ((s.body.liveChannels (h / 32)).filter fun x => decide (x ≠ h % 32)).length < 16 then
      ((s.body.mapoutClamped c fl).fail fl 0x11 h, none)
    else (((s.body.mapoutClamped c fl).fuseShown (h / 32) (h % 32)).done fl, some h) := by
  have hk : h / 32 < 20 := by omega
  have hreg : (s.body.mapoutClamped c fl).reg (.mtHbmMapout (h / 32)) = s.body.reg (.mtHbmMapout (h / 32)) :=
    (unnoted_mtHbmMapout hk).clampCmd s.body fl _
  have hlive : (s.body.mapoutClamped c fl).liveChannels (h / 32) = s.body.liveChannels (h / 32) := by
    unfold Body.liveChannels
    rw [hreg]
  rw [Body.mapout, Body.admit_dispatched hd]
  dsimp only
  rw [← hh, ← hreg, ← hlive]
  subst hh
  rfl

theorem mapout_already (hbit : (s.body.reg (.mtHbmMapout (h / 32))).bit (h % 32) = true) :
    Gives (.mtMapout c) s fun t => OnlyEnds s.body t fl 0 0 [] := by
  refine ⟨_, exec_mtMapout c s, ?_⟩
  rw [mapout_eq hh hd, if_pos hbit]
  exact ⟨rfl, ((SameBut.refl _ s.body).clampCmd fl _).done fl 0⟩

theorem mapout_refused (hbit : (s.body.reg (.mtHbmMapout (h / 32))).bit (h % 32) = false)
    (hfew : ((s.body.liveChannels (h / 32)).filter fun x => decide (x ≠ h % 32)).length < 16) :
    Gives (.mtMapout c) s fun t => OnlyEnds s.body t fl 0x11 0 [] := by
  refine ⟨_, exec_mtMapout c s, ?_⟩
  rw [mapout_eq hh hd, if_neg (by simp [hbit]), if_pos hfew]
  exact ⟨rfl, ((SameBut.refl _ s.body).clampCmd fl _).fail fl _ _ _⟩

theorem mapout_blows (hbit : (s.body.reg (.mtHbmMapout (h / 32))).bit (h % 32) = false)
    (hmany : 16 ≤ ((s.body.liveChannels (h / 32)).filter fun x => decide (x ≠ h % 32)).length) :
    ∃ t, exec (.mtMapout c) s = .next t ∧ OnlyEnds s.body t.body fl 0 0 [(Reg.mtHbmMapout (h / 32)).addr] ∧
      (t.body.reg (.mtHbmMapout (h / 32))).bit (h % 32) = true ∧ (SMap.get t.fuse.mapout 0 (h / 32)).testBit (h % 32) = true ∧
      (∀ j, j ≠ h / 32 → SMap.get t.fuse.mapout 0 j = SMap.get s.fuse.mapout 0 j) ∧ t.fuse = { s.fuse with mapout := t.fuse.mapout } := by
  have hk : h / 32 < 20 := by omega
  refine ⟨_, exec_mtMapout c s, ?_⟩
  rw [mapout_eq hh hd, if_neg (by simp [hbit]), if_neg (by omega)]
  refine ⟨(((SameBut.refl _ s.body).clampCmd fl _).setF (List.mem_singleton.2 rfl) _ _).done fl 0, ?_, ?_, fun j hj => ?_, rfl⟩
  · show ((Body.done _ fl).reg _).bit _ = true
    rw [(unnoted_mtHbmMapout hk).done]
    exact bit_fuseShown _ hk (Nat.mod_lt _ (by decide))
  · rw [mapoutBlown, SMap.get_upd_self, Nat.testBit_or, Nat.testBit_two_pow_self, Bool.or_true]
  · rw [mapoutBlown, SMap.get_upd_ne _ _ _ hj]

end

/-- Settles O46: SL_SET by its equation, MT_REDUCE row by row, MT_MAPOUT by its three cases. -/
theorem tierCommands : Obligations.TierCommands := by
  intro s c fl
  refine ⟨fun i m hi hm hd => ⟨fun hlt hpart => slSet_refused hi hm hd hlt hpart, fun hpart => slSet_sets hi hm hd hpart⟩, ?_,
    fun hd hr => mtReduce_of_stale hd hr, ?_⟩
  · rintro fmt op eb k se de rfl rfl heb rfl hd hplain hargs hlow hhigh hrd hlocal hpitch hapart
    exact mtReduce_reduces hd heb hplain hargs hlow hhigh hrd hlocal hpitch hapart
  · rintro h r hh rfl hd
    exact ⟨fun hbit => mapout_already hh hd hbit, fun hbit hfew => mapout_refused hh hd hbit hfew,
      fun hbit hmany => mapout_blows hh hd hbit hmany⟩

end Sys2Proof.Machine
end

section
/-!
PROOFS. The memory tiers between commands (R325-R331, R340): the refill of a Sluice, the sectors that scrubs and patrols meet, and the
blocks that Tier F erases.
-/

namespace Sys2Proof.Machine

/-! ### A Sluice's refill (R325, R326) -/

theorem getD_twelve {α : Type} (f : Nat → α) (d : α) {p : Nat} (hp : p < 12) : ((List.range 12).map f).getD p d = f p := by
  simp [List.getD_eq_getElem?_getD, hp]

/-- The shares after the parts of a refill. -/
def Sluice.sharesAfter (sl : Sluice) (add : List Int) : List Int := (List.range 12).map fun p => sl.shares.getD p 0 + add.getD p 0

/-- What each point admits after the parts of a refill. -/
def Sluice.admits (sl : Sluice) (add : List Int) : List Nat :=
  (List.range 12).map fun p => admitted ((sl.sharesAfter add).getD p 0) (sl.waiting.getD p 0)

/-- A Sluice once its refill is divided and what waits is admitted. -/
def Sluice.refilled (sl : Sluice) (add : List Int) : Sluice where
  shares := (List.range 12).map fun p => (sl.sharesAfter add).getD p 0 - ((sl.admits add).getD p 0 : Int)
  waiting := (List.range 12).map fun p => sl.waiting.getD p 0 - (sl.admits add).getD p 0

/-- A body once a Sluice has its refill in parts and what it admits is counted. -/
def Body.refilled (b : Body) (i t : Nat) (add : List Int) : Body :=
  (b.setSluice i t ((b.sluice i t).refilled add)).bump (.slStat i t) Fld.slStatAdmitted ((b.sluice i t).admits add).sum

theorem exec_sluiceRefill (s : State) (i : Fin 11) (m : Fin 3) {sl : Sluice} {n : Nat} {add : List Int}
    (hsl : sl = s.body.sluice i m)
    (hn : n = min (s.body.getF (.slCfg i m) Fld.slCfgRate * 32)
      (((s.body.getF (.slCfg i m) Fld.slCfgBurst * 1024 : Nat) : Int) - sl.shares.sum).toNat)
    (hadd : add = refillShares (sluicePoints s.body.framing i) sl.waiting n) :
    exec (.sluiceRefill i m) s = .next { s with
      body := if sl.waiting.sum = 0 then s.body.refilled i m add else (s.body.refilled i m add).bump (.slStat i m) Fld.slStatWait 1 } := by
  subst hadd hn hsl
  rfl

variable (sl : Sluice) (add : List Int)

theorem getD_sharesAfter {p : Nat} (hp : p < 12) : (sl.sharesAfter add).getD p 0 = sl.shares.getD p 0 + add.getD p 0 := getD_twelve _ _ hp

theorem getD_admits {p : Nat} (hp : p < 12) :
    (sl.admits add).getD p 0 = admitted (sl.shares.getD p 0 + add.getD p 0) (sl.waiting.getD p 0) := by
  rw [Sluice.admits, getD_twelve _ _ hp, getD_sharesAfter sl add hp]

theorem admits_eq : sl.admits add =
    (List.range 12).map fun p => admitted (sl.shares.getD p 0 + add.getD p 0) (sl.waiting.getD p 0) :=
  List.map_congr_left fun p hp => by rw [getD_sharesAfter sl add (List.mem_range.mp hp)]

theorem getD_refilled_shares {p : Nat} (hp : p < 12) : (sl.refilled add).shares.getD p 0 =
    sl.shares.getD p 0 + add.getD p 0 - (admitted (sl.shares.getD p 0 + add.getD p 0) (sl.waiting.getD p 0) : Int) := by
  rw [Sluice.refilled, getD_twelve _ _ hp, getD_sharesAfter sl add hp, getD_admits sl add hp]

theorem getD_refilled_waiting {p : Nat} (hp : p < 12) : (sl.refilled add).waiting.getD p 0 =
    sl.waiting.getD p 0 - admitted (sl.shares.getD p 0 + add.getD p 0) (sl.waiting.getD p 0) := by
  rw [Sluice.refilled, getD_twelve _ _ hp, getD_admits sl add hp]

theorem sluice_refilled (b : Body) (i t : Nat) (add : List Int) : (b.refilled i t add).sluice i t = (b.sluice i t).refilled add := by
  rw [Body.sluice, Body.refilled, Body.bump_tiers]
  exact SMap.get_set_self _ _ _ _

theorem slStat_ok {i t : Nat} (hi : i < 11) (ht : t < 3) : (Reg.slStat i t).ok = true := by simp [Reg.ok, hi, ht]

theorem slStat_stored (i t : Nat) : (Reg.slStat i t).stored := by simp [Reg.stored]

/-- SLUICE_REFILL divides the refill, admits what waits, and counts both what it admits and that something waited. -/
theorem sluiceRefill_refills (s : State) (i : Fin 11) (m : Fin 3) {sl : Sluice} {n : Nat} {add : List Int}
    (hsl : sl = s.body.sluice i.val m.val)
    (hn : n = min (s.body.getF (.slCfg i.val m.val) Fld.slCfgRate * 32)
      (((s.body.getF (.slCfg i.val m.val) Fld.slCfgBurst * 1024 : Nat) : Int) - sl.shares.sum).toNat)
    (hadd : add = refillShares (sluicePoints s.body.framing i.val) sl.waiting n) : Gives (.sluiceRefill i m) s fun t =>
      (∀ p, p < 12 → ((t.sluice i.val m.val).shares.getD p 0 = sl.shares.getD p 0 + add.getD p 0 -
          (admitted (sl.shares.getD p 0 + add.getD p 0) (sl.waiting.getD p 0) : Int)) ∧
        (t.sluice i.val m.val).waiting.getD p 0 = sl.waiting.getD p 0 - admitted (sl.shares.getD p 0 + add.getD p 0) (sl.waiting.getD p 0)) ∧
      Counted s.body t (.slStat i.val m.val) Fld.slStatAdmitted
        ((List.range 12).map fun p => admitted (sl.shares.getD p 0 + add.getD p 0) (sl.waiting.getD p 0)).sum ∧
      Counted s.body t (.slStat i.val m.val) Fld.slStatWait (if sl.waiting.sum = 0 then 0 else 1) ∧
      SameRegsBut s.body t [(Reg.slStat i.val m.val).addr] ∧ SameBytes s.body t := by
  have hok := slStat_ok i.isLt m.isLt
  have hst := slStat_stored i.val m.val
  have hsame : SameBut [(Reg.slStat i.val m.val).addr] s.body (s.body.refilled i m add) :=
    ((SameBut.refl _ s.body).beside (d := s.body.setSluice i m ((s.body.sluice i m).refilled add)) rfl rfl rfl rfl rfl).bump
      (List.mem_singleton_self _) _ _
  have hadmitted : Counted s.body (s.body.refilled i m add) (.slStat i.val m.val) Fld.slStatAdmitted (sl.admits add).sum := by
    rw [hsl]
    exact counted_from (counted_bump _ _ hok hst (by decide) (by decide)) rfl
  have hwait : (s.body.refilled i m add).getF (.slStat i.val m.val) Fld.slStatWait = s.body.getF (.slStat i.val m.val) Fld.slStatWait := by
    rw [Body.refilled, getF_bump_fields _ _ hok hst (by decide), if_neg (by decide), Body.setSluice_getF]
  refine gives_of_next (exec_sluiceRefill s i m hsl hn hadd) ?_
  rw [← admits_eq]
  split
  next h0 =>
    refine ⟨fun p hp => ?_, hadmitted, (counted_zero _ _ _).of_getF hwait, hsame.regs, hsame.bytes⟩
    rw [sluice_refilled, ← hsl]
    exact ⟨getD_refilled_shares sl add hp, getD_refilled_waiting sl add hp⟩
  next h0 =>
    have hbump := hsame.bump (List.mem_singleton_self _) Fld.slStatWait 1
    refine ⟨fun p hp => ?_, hadmitted.of_getF ?_, counted_from (counted_bump _ _ hok hst (by decide) (by decide)) hwait, hbump.regs, hbump.bytes⟩
    · rw [Body.sluice, Body.bump_tiers, ← Body.sluice, sluice_refilled, ← hsl]
      exact ⟨getD_refilled_shares sl add hp, getD_refilled_waiting sl add hp⟩
    · rw [getF_bump_fields _ _ hok hst (by decide), if_neg (by decide)]

/-! ### Scrubs and patrols (R331, R335) -/

/-- What neither a map-out candidate's mark nor an error record changes, `candidate` keeps. -/
theorem candidate_keep {γ : Type} (p : Body → γ) (hset : ∀ (b : Body) k w, p (b.setReg (.mtStackEcc k) w) = p b)
    (herr : ∀ (b : Body) code sev kind unit d, p (b.err code sev kind unit d) = p b) (b : Body) (h reason : Nat) :
    p (b.candidate h reason) = p b := by
  unfold Body.candidate
  dsimp only
  split
  · rfl
  · rw [herr, hset]

theorem noteCorr_keep {γ : Type} (p : Body → γ) (hcorr : ∀ (b : Body) l, p { b with tiers.corr := l } = p b)
    (hset : ∀ (b : Body) k w, p (b.setReg (.mtStackEcc k) w) = p b)
    (herr : ∀ (b : Body) code sev kind unit d, p (b.err code sev kind unit d) = p b) (b : Body) (a : Nat) : p (b.noteCorr a) = p b := by
  have hbump : ∀ (b : Body) k f n, p (b.bump (.mtStackEcc k) f n) = p b := fun b k f n => hset b k _
  unfold Body.noteCorr
  dsimp only
  split
  · rw [apply_ite p, candidate_keep p hset herr, hcorr, hbump, ite_self]
  · rfl

theorem noteUncorr_keep {γ : Type} (p : Body → γ) (huncorr : ∀ (b : Body) l, p { b with tiers.uncorr := l } = p b)
    (hset : ∀ (b : Body) k w, p (b.setReg (.mtStackEcc k) w) = p b)
    (herr : ∀ (b : Body) code sev kind unit d, p (b.err code sev kind unit d) = p b) (b : Body) (a : Nat) : p (b.noteUncorr a) = p b := by
  have hbump : ∀ (b : Body) k f n, p (b.bump (.mtStackEcc k) f n) = p b := fun b k f n => hset b k _
  unfold Body.noteUncorr
  dsimp only
  split
  · rw [apply_ite p, candidate_keep p hset herr, huncorr, hbump, ite_self]
  · rfl

/-- The body with the sector of an address listed as uncorrectable. -/
def Body.listBad (b : Body) (a : Nat) : Body :=
  if a / 32 ∈ b.tiers.badSectors then b else { b with tiers.badSectors := b.tiers.badSectors ++ [a / 32] }

theorem scrubBad_keep {γ : Type} (p : Body → γ) (huncorr : ∀ (b : Body) l, p { b with tiers.uncorr := l } = p b)
    (hset : ∀ (b : Body) k w, p (b.setReg (.mtStackEcc k) w) = p b)
    (herr : ∀ (b : Body) code sev kind unit d, p (b.err code sev kind unit d) = p b) (b : Body) (a : Nat) :
    p (b.scrubBad a) = p (b.free.2.listBad a) := by
  unfold Body.scrubBad
  dsimp only
  rw [noteUncorr_keep p huncorr hset herr, herr]
  rfl

theorem listBad_keep {γ : Type} (p : Body → γ) (hbad : ∀ (b : Body) l, p { b with tiers.badSectors := l } = p b) (b : Body) (a : Nat) :
    p (b.listBad a) = p b := by
  unfold Body.listBad
  split
  · rfl
  · exact hbad b _

/-- The finding of a scrub at an address, noted. -/
def Body.scrubFinding (b : Body) (a : Nat) (f : Finding) : Body :=
  if ¬ b.addrOk a then b
  else match f with
    | .good => b
    | .correctable => b.noteCorr a
    | .heavy => b.noteCorr a
    | .uncorrectable => b.scrubBad a

theorem exec_scrubRead (s : State) (g : Fin 3) (f : Finding) : exec (.scrubRead g f) s = s.onBody fun b =>
    if b.scrubTotal g = 0 then b
    else (b.scrubFinding (b.scrubAddr g (b.tiers.scrubPos.getD g 0)) f).scrubNext g (b.scrubTotal g) := by
  rfl

theorem scrubFinding_keep {γ : Type} (p : Body → γ) (hcorr : ∀ (b : Body) l, p { b with tiers.corr := l } = p b)
    (huncorr : ∀ (b : Body) l, p { b with tiers.uncorr := l } = p b)
    (hbad : ∀ (b : Body) l, p { b with tiers.badSectors := l } = p b) (hfree : ∀ b : Body, p b.free.2 = p b)
    (hset : ∀ (b : Body) k w, p (b.setReg (.mtStackEcc k) w) = p b)
    (herr : ∀ (b : Body) code sev kind unit d, p (b.err code sev kind unit d) = p b) (b : Body) (a : Nat) (f : Finding) :
    p (b.scrubFinding a f) = p b := by
  unfold Body.scrubFinding
  split
  · rfl
  · cases f with
    | good => rfl
    | correctable => exact noteCorr_keep p hcorr hset herr b a
    | heavy => exact noteCorr_keep p hcorr hset herr b a
    | uncorrectable => exact (scrubBad_keep p huncorr hset herr b a).trans ((listBad_keep p hbad _ a).trans (hfree b))

theorem memory_scrubFinding (b : Body) (a : Nat) (f : Finding) : (b.scrubFinding a f).memory = b.memory :=
  scrubFinding_keep Body.memory (fun _ _ => rfl) (fun _ _ => rfl) (fun _ _ => rfl) (fun _ => rfl) (fun b _ _ => memory_setReg b _ _)
    (fun b _ _ _ _ _ => memory_err b _ _ _ _ _ _ _) b a f

theorem scrubPos_scrubFinding (b : Body) (a : Nat) (f : Finding) : (b.scrubFinding a f).tiers.scrubPos = b.tiers.scrubPos :=
  scrubFinding_keep (fun b => b.tiers.scrubPos) (fun _ _ => rfl) (fun _ _ => rfl) (fun _ _ => rfl) (fun _ => rfl)
    (fun b _ _ => by rw [Body.setReg_tiers]) (fun b _ _ _ _ _ => by rw [Body.err_tiers]) b a f

theorem unnoted_mtScrubStat {g : Nat} (hg : g < 4) : (Reg.mtScrubStat g).Unnoted := by
  constructor <;> simp only [Reg.addr] <;> omega

theorem reg_setReg_of_ok_ne (b : Body) {r q : Reg} (w : Word) (h : r.ok = true → q.addr ≠ r.addr) : (b.setReg r w).reg q = b.reg q := by
  cases hok : r.ok with
  | false => simp [Body.setReg, hok]
  | true => exact Body.reg_setReg_ne b w (h hok)

theorem scrubStat_scrubFinding (b : Body) {g : Nat} (hg : g < 4) (a : Nat) (f : Finding) :
    (b.scrubFinding a f).reg (.mtScrubStat g) = b.reg (.mtScrubStat g) := by
  have hset : ∀ (b : Body) k w, (b.setReg (.mtStackEcc k) w).reg (.mtScrubStat g) = b.reg (.mtScrubStat g) := fun b k w =>
    reg_setReg_of_ok_ne b w fun hok => by
      have hk : k < 20 := by simpa [Reg.ok] using hok
      simp only [Reg.addr]; omega
  exact scrubFinding_keep (fun b => b.reg (.mtScrubStat g)) (fun b _ => Body.reg_congr rfl _) (fun b _ => Body.reg_congr rfl _)
    (fun b _ => Body.reg_congr rfl _) (fun b => Body.reg_congr rfl _) hset
    (fun b _ _ _ _ _ => (unnoted_mtScrubStat hg).error b _ _ _ _ _ _ _) b a f

theorem mtScrubStat_ok {g : Nat} (hg : g < 4) : (Reg.mtScrubStat g).ok = true := decide_eq_true hg

theorem mtScrubStat_stored (g : Nat) : (Reg.mtScrubStat g).stored := by simp [Reg.stored]

section
variable (b : Body) (g total : Nat)

theorem memory_scrubNext : (b.scrubNext g total).memory = b.memory := by
  unfold Body.scrubNext
  dsimp only
  split
  · exact (memory_setF _ _ _ _).trans (memory_setF _ _ _ _)
  · exact memory_setF _ _ _ _

theorem badSectors_scrubNext : (b.scrubNext g total).tiers.badSectors = b.tiers.badSectors := by
  unfold Body.scrubNext
  dsimp only
  split <;> simp only [Body.setF_tiers, Body.bump_tiers]

theorem scrubPos_scrubNext {b : Body} {g : Nat} (hlen : b.tiers.scrubPos.length = 4) (hg : g < 4) :
    (b.scrubNext g total).tiers.scrubPos.getD g 0 =
      if total ≤ b.tiers.scrubPos.getD g 0 + 1 then 0 else b.tiers.scrubPos.getD g 0 + 1 := by
  unfold Body.scrubNext
  dsimp only
  split
  · simp [Body.setF_tiers, Body.bump_tiers, List.getD_eq_getElem?_getD, hlen, hg]
  · simp [Body.setF_tiers, List.getD_eq_getElem?_getD, hlen, hg]

theorem passes_scrubNext {g : Nat} (hg : g < 4) : Counted b (b.scrubNext g total) (.mtScrubStat g) Fld.mtScrubStatPasses
    (if total ≤ b.tiers.scrubPos.getD g 0 + 1 then 1 else 0) := by
  have hok := mtScrubStat_ok hg
  have hst := mtScrubStat_stored g
  unfold Body.scrubNext
  dsimp only
  split
  · refine Counted.of_getF (counted_from (counted_bump _ 1 hok hst (by decide) (by decide)) ?_)
      ((getF_setF_fields _ _ hok hst (by decide)).trans (if_neg (by decide)))
    exact Body.getF_congr rfl _ _
  · refine (counted_zero b _ _).of_getF ?_
    rw [getF_setF_fields _ _ hok hst (by decide), if_neg (by decide)]
    exact Body.getF_congr rfl _ _

theorem sameBut_scrubNext : SameBut [(Reg.mtScrubStat g).addr] b (b.scrubNext g total) := by
  unfold Body.scrubNext
  dsimp only
  have hmem := List.mem_singleton_self (Reg.mtScrubStat g).addr
  split
  · refine SameBut.setF (SameBut.bump ?_ hmem _ _) hmem _ _
    exact (SameBut.refl _ b).beside rfl rfl rfl rfl rfl
  · refine SameBut.setF ?_ hmem _ _
    exact (SameBut.refl _ b).beside rfl rfl rfl rfl rfl

end

theorem mem_badSectors_listBad (b : Body) (a : Nat) : a / 32 ∈ (b.listBad a).tiers.badSectors := by
  unfold Body.listBad
  split
  · assumption
  · simp

theorem badSectors_subset_listBad (b : Body) (a : Nat) : b.tiers.badSectors ⊆ (b.listBad a).tiers.badSectors := by
  unfold Body.listBad
  split
  · exact List.Subset.refl _
  · exact List.subset_append_left _ _

theorem badSectors_scrubBad (b : Body) (a : Nat) : (b.scrubBad a).tiers.badSectors = (b.free.2.listBad a).tiers.badSectors :=
  scrubBad_keep (fun b => b.tiers.badSectors) (fun _ _ => rfl) (fun b _ _ => by rw [Body.setReg_tiers])
    (fun b _ _ _ _ _ => by rw [Body.err_tiers]) b a

theorem memory_scrubBad (b : Body) (a : Nat) : (b.scrubBad a).memory = b.memory :=
  (scrubBad_keep Body.memory (fun _ _ => rfl) (fun b _ _ => memory_setReg b _ _) (fun b _ _ _ _ _ => memory_err b _ _ _ _ _ _ _) b a).trans
    (listBad_keep Body.memory (fun _ _ => rfl) _ a)

/-- SCRUB_READ moves to the next sector and notes what it found. -/
theorem scrubRead_moves (s : State) (g : Fin 3) (f : Finding) {total pos : Nat} (htotal : total = s.body.scrubTotal g.val)
    (hpos : pos = s.body.tiers.scrubPos.getD g.val 0) (hne : total ≠ 0) (hlen : s.body.tiers.scrubPos.length = 4) :
    Gives (.scrubRead g f) s fun t => SameBytes s.body t ∧
      t.tiers.scrubPos.getD g.val 0 = (if total ≤ pos + 1 then 0 else pos + 1) ∧
      Counted s.body t (.mtScrubStat g.val) Fld.mtScrubStatPasses (if total ≤ pos + 1 then 1 else 0) ∧
      (f = .good → SameRegsBut s.body t [(Reg.mtScrubStat g.val).addr] ∧ t.tiers.badSectors = s.body.tiers.badSectors) ∧
      (f = .uncorrectable → s.body.addrOk (s.body.scrubAddr g.val pos) = true →
        s.body.scrubAddr g.val pos / 32 ∈ t.tiers.badSectors) := by
  subst htotal hpos
  have hg : g.val < 4 := by omega
  set a := s.body.scrubAddr g.val (s.body.tiers.scrubPos.getD g.val 0) with ha
  have hexec : exec (.scrubRead g f) s = .next { s with
      body := (s.body.scrubFinding a f).scrubNext g (s.body.scrubTotal g) } := by
    rw [exec_scrubRead, State.onBody, if_neg hne]
  have hscrub := scrubPos_scrubFinding s.body a f
  refine gives_of_next hexec ⟨sameBytes_of_memory ((memory_scrubNext _ _ _).trans (memory_scrubFinding _ _ _)), ?_, ?_, fun hf => ?_,
    fun hf haddr => ?_⟩
  · rw [scrubPos_scrubNext _ (by rw [hscrub, hlen]) hg, hscrub]
  · have hpasses := passes_scrubNext (s.body.scrubFinding a f) (s.body.scrubTotal g) hg
    rw [hscrub] at hpasses
    exact counted_from hpasses (by rw [Body.getF, scrubStat_scrubFinding s.body hg a f, Body.getF])
  · have hgood : s.body.scrubFinding a .good = s.body := by
      unfold Body.scrubFinding
      split <;> rfl
    rw [hf, hgood]
    exact ⟨(sameBut_scrubNext _ _ _).regs, badSectors_scrubNext _ _ _⟩
  · rw [hf, badSectors_scrubNext, Body.scrubFinding, if_neg (by simp [haddr]), badSectors_scrubBad]
    exact mem_badSectors_listBad _ _

/-! ### Patrols of Tier F (R331) -/

theorem memory_flashLife (b : Body) : b.flashLife.memory = b.memory := by simp [Body.memory]

theorem memory_notePrograms (b : Body) (host all : Nat) : (b.notePrograms host all).memory = b.memory := memory_flashLife _

theorem tiers_flashLife (b : Body) : b.flashLife.tiers = b.tiers := by
  unfold Body.flashLife
  dsimp only
  simp only [apply_ite Body.tiers, Body.err_tiers, Body.setF_tiers, ite_self]

theorem badSectors_notePrograms (b : Body) (host all : Nat) : (b.notePrograms host all).tiers.badSectors = b.tiers.badSectors := by
  rw [Body.notePrograms, tiers_flashLife]

theorem memory_readPages (b : Body) (a n : Nat) : (b.readPages a n).memory = b.memory :=
  Body.readPages_keep Body.memory (fun _ _ => rfl) b a n

theorem badSectors_readPages (b : Body) (a n : Nat) : (b.readPages a n).tiers.badSectors = b.tiers.badSectors :=
  Body.readPages_keep (fun b => b.tiers.badSectors) (fun _ _ => rfl) b a n

/-- The body with the 128 sectors of the codeword at an address listed as uncorrectable, the first of them met by the patrol. -/
def Body.loseCodeword (b : Body) (c : Nat) : Body :=
  ({ b with tiers.badSectors := b.tiers.badSectors ++
      ((List.range 128).map (c / 32 + ·)).filter fun x => decide (x ∉ b.tiers.badSectors) }).scrubBad c

/-- The finding of a patrol in a unit, noted. -/
def Body.patrolFinding (b : Body) (unit : Nat) (f : Finding) : Body :=
  match f with
  | .good => b
  | .correctable => b
  | .heavy => b.relocate unit
  | .uncorrectable => b.free.2.loseCodeword (tierFBase + unit * 16384 + b.free.1.toNat % 4 * 4096)

theorem exec_patrolRead (s : State) (unit : Nat) (f : Finding) : exec (.patrolRead unit f) s = s.onBody fun b =>
    if SMap.get b.tiers.mapped 0 unit = 0 then b
    else (((b.readPages (tierFBase + unit * 16384) 32).patrolFinding unit f).scrubNext 3
      ((b.readPages (tierFBase + unit * 16384) 32).patrolFinding unit f).tiers.mapped.length) := by
  cases f <;> rfl

theorem memory_patrolFinding (b : Body) (unit : Nat) (f : Finding) : (b.patrolFinding unit f).memory = b.memory := by
  cases f with
  | good => rfl
  | correctable => rfl
  | heavy => exact memory_notePrograms _ _ _
  | uncorrectable => exact memory_scrubBad _ _

theorem badSectors_patrolFinding (b : Body) (unit : Nat) {f : Finding} (hf : f ≠ .uncorrectable) :
    (b.patrolFinding unit f).tiers.badSectors = b.tiers.badSectors := by
  cases f with
  | good => rfl
  | correctable => rfl
  | heavy => exact badSectors_notePrograms _ _ _
  | uncorrectable => exact absurd rfl hf

theorem mem_badSectors_loseCodeword (b : Body) (c : Nat) {j : Nat} (hj : j < 128) : c / 32 + j ∈ (b.loseCodeword c).tiers.badSectors := by
  rw [Body.loseCodeword, badSectors_scrubBad]
  refine badSectors_subset_listBad _ _ ?_
  by_cases hold : c / 32 + j ∈ b.tiers.badSectors
  · exact List.mem_append_left _ hold
  · exact List.mem_append_right _ (List.mem_filter.mpr ⟨List.mem_map_of_mem (List.mem_range.mpr hj), decide_eq_true hold⟩)

/-- PATROL_READ of a mapped unit loses one codeword of it where the unit is uncorrectable. -/
theorem patrolRead_loses (s : State) (unit : Nat) (f : Finding) (hmapped : SMap.get s.body.tiers.mapped 0 unit ≠ 0) :
    Gives (.patrolRead unit f) s fun t => SameBytes s.body t ∧
      (f ≠ .uncorrectable → t.tiers.badSectors = s.body.tiers.badSectors) ∧
      (f = .uncorrectable → ∃ k, k < 4 ∧ ∀ j, j < 128 → (tierFBase + unit * 16384 + k * 4096) / 32 + j ∈ t.tiers.badSectors) := by
  have hexec := exec_patrolRead s unit f
  rw [State.onBody, if_neg hmapped] at hexec
  refine gives_of_next hexec ⟨sameBytes_of_memory ?_, fun hf => ?_, fun hf => ?_⟩
  · exact (memory_scrubNext _ _ _).trans ((memory_patrolFinding _ _ _).trans (memory_readPages _ _ _))
  · rw [badSectors_scrubNext, badSectors_patrolFinding _ _ hf, badSectors_readPages]
  · subst hf
    refine ⟨(s.body.readPages (tierFBase + unit * 16384) 32).free.1.toNat % 4, Nat.mod_lt _ (by decide), fun j hj => ?_⟩
    rw [badSectors_scrubNext]
    exact mem_badSectors_loseCodeword _ _ hj

/-! ### Late scrubs (R331) -/

/-- SCRUB_LATE counts the late pass. -/
theorem scrubLate_counts (s : State) (g : Fin 4) (lag : Nat) : Gives (.scrubLate g lag) s fun t =>
    Counted s.body t (.mtScrubStat g.val) Fld.mtScrubStatLate 1 ∧
    SameRegsBut s.body t [(Reg.mtScrubStat g.val).addr] ∧ SameBytes s.body t ∧ t.tiers = s.body.tiers := by
  have hbump := (SameBut.refl [(Reg.mtScrubStat g.val).addr] s.body).bump (List.mem_singleton_self _) Fld.mtScrubStatLate 1
  refine gives_of_next rfl ?_
  refine ⟨Counted.of_reg (counted_bump _ 1 (mtScrubStat_ok g.isLt) (mtScrubStat_stored _) (by decide) (by decide))
    ((unnoted_mtScrubStat g.isLt).error _ _ _ _ _ _ _ _), (hbump.err _ _ _ _ _ _ _).regs, (hbump.err _ _ _ _ _ _ _).bytes, ?_⟩
  rw [Body.err_tiers, Body.bump_tiers]

/-! ### Wear of Tier F (R340) -/

theorem erases_repeat_take (n : Nat) (c : FlashChan) : (n.repeat FlashChan.take c).erases = c.erases := by
  induction n with
  | zero => rfl
  | succ n ih =>
    rw [Nat.repeat, FlashChan.take]
    split <;> exact ih

theorem spares_repeat_take (n : Nat) (c : FlashChan) : (n.repeat FlashChan.take c).spares = c.spares := by
  induction n with
  | zero => rfl
  | succ n ih =>
    rw [Nat.repeat, FlashChan.take]
    split <;> exact ih

theorem count_erase (c : FlashChan) (k j : Nat) : (c.erase k).count j = c.count j + if j = k then 1 else 0 := by
  unfold FlashChan.erase FlashChan.count
  split
  next h => subst h; dsimp only; rw [SMap.get_set_self]
  next h => dsimp only; rw [SMap.get_set_ne _ _ _ _ h, Nat.add_zero]

/-- A channel after `n` programs of fresh pages and the erase of a block. -/
def FlashChan.recycled (c : FlashChan) (n k : Nat) : FlashChan := (n.repeat FlashChan.take c).erase k

theorem count_recycled (c : FlashChan) (n k j : Nat) : (c.recycled n k).count j = c.count j + if j = k then 1 else 0 := by
  rw [FlashChan.recycled, count_erase, FlashChan.count, erases_repeat_take, FlashChan.count]

theorem spares_recycled (c : FlashChan) (n k : Nat) : (c.recycled n k).spares = c.spares := spares_repeat_take n c

theorem flashChan_updFlash (b : Body) (c : Nat) (f : FlashChan → FlashChan) : (b.updFlash c f).flashChan c = f (b.flashChan c) :=
  SMap.get_upd_self _ _ _ _

theorem flashChan_updFlash_ne (b : Body) {c d : Nat} (h : d ≠ c) (f : FlashChan → FlashChan) :
    (b.updFlash c f).flashChan d = b.flashChan d := SMap.get_upd_ne _ _ _ h _

theorem flashChan_notePrograms (b : Body) (host all d : Nat) : (b.notePrograms host all).flashChan d = b.flashChan d := by
  rw [Body.flashChan, Body.notePrograms, tiers_flashLife, Body.flashChan]

theorem tiers_checkSpares (b : Body) (c : Nat) : (b.checkSpares c).tiers = b.tiers := by
  unfold Body.checkSpares
  dsimp only
  split <;> simp only [Body.err_tiers, Body.setF_tiers]

theorem memory_checkSpares (b : Body) (c : Nat) : (b.checkSpares c).memory = b.memory := by
  unfold Body.checkSpares
  dsimp only
  split
  · rw [memory_err, memory_setF]
  · rfl

theorem flashChan_checkSpares (b : Body) (c d : Nat) : (b.checkSpares c).flashChan d = b.flashChan d := by
  rw [Body.flashChan, tiers_checkSpares, Body.flashChan]

/-- Channel `c` of `t` has erased one block more than `b`'s, and `spent` spares have gone; every other channel is the same. -/
def ErasedOnce (b t : Body) (c spent : Nat) : Prop :=
  (∃ k, ∀ j, (t.flashChan c).count j = (b.flashChan c).count j + if j = k then 1 else 0) ∧
    (t.flashChan c).spares = (b.flashChan c).spares - spent ∧ ∀ d, d ≠ c → t.flashChan d = b.flashChan d

theorem erasedOnce_of_recycled {b t : Body} {c spent n k : Nat}
    (herases : (t.flashChan c).erases = ((b.flashChan c).recycled n k).erases)
    (hspares : (t.flashChan c).spares = (b.flashChan c).spares - spent) (hother : ∀ d, d ≠ c → t.flashChan d = b.flashChan d) :
    ErasedOnce b t c spent :=
  ⟨⟨k, fun j => by rw [FlashChan.count, herases]; exact count_recycled _ n k j⟩, hspares, hother⟩

/-- The body that WEAR_LEVELLING leaves where the coldest block, with `n` units, is `k`. -/
def Body.levelled (b : Body) (c n k : Nat) : Body :=
  ((b.updFlash c fun x => x.recycled n k).updFlash c fun x => { x with free := x.free + 1 }).notePrograms 0 (n * 16384)

/-- The coldest blocks of a channel. -/
def FlashChan.coldest (c : FlashChan) : List Nat := (List.range 18432).filter fun k => decide (c.count k = c.spread.1)

theorem exec_wearLevelling (s : State) (ch : Fin 64) : exec (.wearLevelling ch) s = s.onBody fun b =>
    if (b.flashChan ch).spread.2 ≤ (b.flashChan ch).spread.1 + 200 then b
    else b.free.2.free.2.levelled ch (b.free.2.free.1.toNat % 1025)
      ((b.flashChan ch).coldest.getD (b.free.1.toNat % (b.flashChan ch).coldest.length) 0) := rfl

/-- The body that GARBAGE_COLLECTION leaves where block `k`, with `n` units, is collected. -/
def Body.collected (b : Body) (c n k : Nat) (bad : Bool) : Body :=
  ((b.updFlash c fun x => { x.recycled n k with
    free := (x.recycled n k).free + 1
    spares := if bad then (x.recycled n k).spares - 1 else (x.recycled n k).spares }).checkSpares c).notePrograms 0 (n * 16384)

/-- The body with the wait of a collection counted. -/
def Body.gcWaited (b : Body) (c waited : Nat) : Body :=
  if (b.flashChan c).free < 64 then b.bump .mtFlashWait Fld.mtFlashWaitGcWait waited else b

theorem exec_garbageCollection (s : State) (ch : Fin 64) (waited : Nat) (bad : Bool) : ∃ n k, exec (.garbageCollection ch waited bad) s =
    .next { s with
      body := (s.body.gcWaited ch waited).free.2.free.2.collected ch n k bad } :=
  ⟨_, _, rfl⟩

theorem memory_levelled (b : Body) (c n k : Nat) : (b.levelled c n k).memory = b.memory := memory_notePrograms _ _ _

theorem erasedOnce_levelled (b : Body) (c n k : Nat) : ErasedOnce b (b.levelled c n k) c 0 := by
  have hself : (b.levelled c n k).flashChan c = { (b.flashChan c).recycled n k with free := ((b.flashChan c).recycled n k).free + 1 } := by
    rw [Body.levelled, flashChan_notePrograms, flashChan_updFlash, flashChan_updFlash]
  refine erasedOnce_of_recycled (n := n) (k := k) (by rw [hself]) (by rw [hself]; exact spares_recycled _ n k) fun d hd => ?_
  rw [Body.levelled, flashChan_notePrograms, flashChan_updFlash_ne _ hd, flashChan_updFlash_ne _ hd]

theorem memory_collected (b : Body) (c n k : Nat) (bad : Bool) : (b.collected c n k bad).memory = b.memory :=
  (memory_notePrograms _ _ _).trans (memory_checkSpares _ _)

theorem erasedOnce_collected (b : Body) (c n k : Nat) (bad : Bool) :
    ErasedOnce b (b.collected c n k bad) c (if bad = true then 1 else 0) := by
  have hself : (b.collected c n k bad).flashChan c = { (b.flashChan c).recycled n k with
      free := ((b.flashChan c).recycled n k).free + 1
      spares := if bad then ((b.flashChan c).recycled n k).spares - 1 else ((b.flashChan c).recycled n k).spares } := by
    rw [Body.collected, flashChan_notePrograms, flashChan_checkSpares, flashChan_updFlash]
  refine erasedOnce_of_recycled (n := n) (k := k) (by rw [hself]) ?_ fun d hd => ?_
  · rw [hself, spares_recycled]
    cases bad <;> rfl
  · rw [Body.collected, flashChan_notePrograms, flashChan_checkSpares, flashChan_updFlash_ne _ hd]

theorem ErasedOnce.of_tiers {b c t : Body} {ch spent : Nat} (h : ErasedOnce c t ch spent) (ht : c.tiers = b.tiers) :
    ErasedOnce b t ch spent := by
  unfold ErasedOnce at h ⊢
  simpa only [Body.flashChan, ht] using h

theorem memory_gcWaited (b : Body) (c waited : Nat) : (b.gcWaited c waited).memory = b.memory := by
  unfold Body.gcWaited
  split
  · exact memory_setF _ _ _ _
  · rfl

theorem tiers_gcWaited (b : Body) (c waited : Nat) : (b.gcWaited c waited).tiers = b.tiers := by
  unfold Body.gcWaited
  split
  · rw [Body.bump_tiers]
  · rfl

theorem wearLevelling_erases (s : State) (ch : Fin 64)
    (hspread : (s.body.flashChan ch).spread.1 + 200 < (s.body.flashChan ch).spread.2) :
    Gives (.wearLevelling ch) s fun t => SameBytes s.body t ∧ ErasedOnce s.body t ch 0 := by
  have hexec := exec_wearLevelling s ch
  rw [State.onBody, if_neg (by omega)] at hexec
  exact gives_of_next hexec ⟨sameBytes_of_memory (memory_levelled _ _ _ _), (erasedOnce_levelled _ ch _ _).of_tiers rfl⟩

theorem garbageCollection_erases (s : State) (ch : Fin 64) (waited : Nat) (bad : Bool) :
    Gives (.garbageCollection ch waited bad) s fun t => SameBytes s.body t ∧ ErasedOnce s.body t ch (if bad = true then 1 else 0) := by
  obtain ⟨n, k, hexec⟩ := exec_garbageCollection s ch waited bad
  exact gives_of_next hexec ⟨sameBytes_of_memory ((memory_collected _ _ _ _ _).trans (memory_gcWaited _ _ _)),
    (erasedOnce_collected _ ch n k bad).of_tiers (tiers_gcWaited _ _ _)⟩

/-- The registers that Tier F's wear writes apart from GC_WAIT leave MT_FLASH_WAIT alone. -/
theorem flashWait_notePrograms (b : Body) (host all : Nat) : (b.notePrograms host all).reg .mtFlashWait = b.reg .mtFlashWait := by
  have hset : ∀ (b : Body) f v, (b.setF .mtFlashLife f v).reg .mtFlashWait = b.reg .mtFlashWait := fun b f v =>
    Body.reg_setF_ne b f v (by decide)
  have hunnoted : Reg.mtFlashWait.Unnoted := by constructor <;> simp only [Reg.addr] <;> omega
  unfold Body.notePrograms Body.flashLife
  dsimp only
  simp only [apply_ite (fun b : Body => b.reg .mtFlashWait), hunnoted.error, hset, ite_self]
  exact Body.reg_congr rfl _

theorem flashWait_checkSpares (b : Body) (c : Nat) : (b.checkSpares c).reg .mtFlashWait = b.reg .mtFlashWait := by
  have hunnoted : Reg.mtFlashWait.Unnoted := by constructor <;> simp only [Reg.addr] <;> omega
  unfold Body.checkSpares
  dsimp only
  split
  · rw [hunnoted.error, Body.reg_setF_ne _ _ _ (by decide)]
  · rfl

/-- GARBAGE_COLLECTION counts the microseconds that programs waited below 64 free blocks. -/
theorem garbageCollection_counts (s : State) (ch : Fin 64) (waited : Nat) (bad : Bool) (hfree : (s.body.flashChan ch).free < 64) :
    Gives (.garbageCollection ch waited bad) s fun t => Counted s.body t .mtFlashWait Fld.mtFlashWaitGcWait waited := by
  obtain ⟨n, k, hexec⟩ := exec_garbageCollection s ch waited bad
  refine gives_of_next hexec (Counted.of_reg (counted_bump _ waited (by decide) (by simp [Reg.stored]) (by decide) (by decide)) ?_)
  rw [Body.collected, flashWait_notePrograms, flashWait_checkSpares, Body.gcWaited, if_pos hfree]
  exact Body.reg_congr rfl _

/-- Settles O47, command by command. -/
theorem tiersKeepThemselves : Obligations.TiersKeepThemselves := by
  unfold Obligations.TiersKeepThemselves
  intro s
  refine ⟨fun i m sl n add hsl hn hadd => sluiceRefill_refills s i m hsl hn hadd, fun _ _ => ⟨rfl, rfl⟩, fun _ => rfl,
    fun g f total pos htotal hpos => ⟨fun h0 => ?_, fun hne hlen => scrubRead_moves s g f htotal hpos hne hlen⟩,
    fun unit f => ⟨fun h0 => ?_, fun hne => patrolRead_loses s unit f hne⟩, fun g lag => scrubLate_counts s g lag,
    fun ch hle => ?_, fun ch waited bad i hi => ?_, fun ch waited bad hfree => garbageCollection_counts s ch waited bad hfree⟩
  · rw [exec_scrubRead, State.onBody, if_pos (htotal ▸ h0)]
  · rw [exec_patrolRead, State.onBody, if_pos h0]
  · rw [exec_wearLevelling, State.onBody, if_pos hle]
  · obtain ⟨rfl, rfl, hspread⟩ | rfl := hi
    · exact wearLevelling_erases s ch hspread
    · exact garbageCollection_erases s ch waited bad

end Sys2Proof.Machine
end

section
/-! PROOFS. MT_TRIM (R339): the units that lie whole in its range read +0 and are unmapped, and every other byte reads as before. -/

namespace Sys2Proof.Machine

theorem find_clearRange {α : Type} (m : SMap α) (lo hi a : Nat) :
    SMap.find (SMap.clearRange m lo hi) a = if lo ≤ a ∧ a < hi then none else SMap.find m a := by
  unfold SMap.clearRange
  split
  next h =>
    induction m with
    | nil => rfl
    | cons p r ih =>
      rw [List.filter_cons]
      split
      next hp =>
        rw [SMap.find, if_neg, ih]
        rintro rfl
        simp [h] at hp
      next => exact ih
  next h => exact find_filter_keys (fun x => !(decide (lo ≤ x) && decide (x < hi))) m (by simp; omega)

theorem regionOf_tierF {x : Nat} (hlo : tierFBase ≤ x) (hhi : x < 0x300000000000) : regionOf x = 1782 := by
  unfold regionOf tierLBase
  unfold tierFBase at hlo ⊢
  rw [if_neg (by omega), if_neg (by omega), if_pos hhi]

theorem byte_of_unlisted {b : Body} {y : Nat} (hmem : SMap.find b.mem y = none) (hcode : b.codeAt y = 0) : b.byte y = 0 := by
  rw [Body.byte_def, hmem, hcode, Option.getD_none]

/-- The first byte of the first unit that begins in a range from `a` on. -/
def trimFrom (a : Nat) : Nat := ceilDiv a 16384 * 16384

/-- The byte behind the last unit that ends before `z`. -/
def trimTo (z : Nat) : Nat := z / 16384 * 16384

section
variable (b : Body) {lo hi : Nat}

theorem mapped_trim {u : Nat} (hlo : lo ≤ tierFBase + u * 16384) (hhi : tierFBase + u * 16384 + 16384 ≤ hi) :
    SMap.get (b.trim lo hi).tiers.mapped 0 u = 0 := by
  unfold Body.trim
  rw [if_neg (by omega)]
  dsimp only
  rw [SMap.get, find_clearRange, if_pos (by unfold tierFBase at *; omega), Option.getD_none]

theorem byte_trim_inside (hhaze : b.haze = []) (hbg : b.bgOf 1782 = 0) {y : Nat} (hlo : lo ≤ y) (hhi : y < hi) (hbase : tierFBase ≤ y)
    (hend : y < 0x300000000000) : (b.trim lo hi).byte y = 0 := by
  have hcut : cutHaze b.haze lo hi = [] := by rw [hhaze]; rfl
  have hnone : SMap.find (SMap.clearRange b.mem lo hi) y = none := by rw [find_clearRange, if_pos ⟨hlo, hhi⟩]
  unfold Body.trim
  rw [if_neg (by omega), hcut]
  refine byte_of_unlisted hnone ?_
  rw [Body.codeAt, regionOf_tierF hbase hend]
  exact hbg

theorem byte_trim_outside (hhaze : b.haze = []) {y : Nat} (h : y < lo ∨ hi ≤ y) : (b.trim lo hi).byte y = b.byte y := by
  have hcut : cutHaze b.haze lo hi = b.haze := by rw [hhaze]; rfl
  have hfind : SMap.find (SMap.clearRange b.mem lo hi) y = SMap.find b.mem y := by rw [find_clearRange, if_neg (by omega)]
  unfold Body.trim
  split
  · rfl
  · rw [hcut, Body.byte_def, Body.byte_def]
    dsimp only
    rw [hfind]
    rfl

end

theorem trim_hm (b : Body) (lo hi : Nat) : (b.trim lo hi).hm = b.hm := by
  unfold Body.trim; split <;> rfl

theorem trim_regs (b : Body) (lo hi : Nat) : (b.trim lo hi).regs = b.regs := by
  unfold Body.trim; split <;> rfl

section
variable {s : State} {c : Cmd} {fl : Flight} {e : Entry} (hd : Dispatched s.body c 0x73 fl) (he : s.body.resolve fl.slot (c.h 1) = some e)
include hd he

theorem mtTrim_refused (h : e.place ≠ 4 ∨ e.wr = false) : Gives (.mtTrim c) s fun t => OnlyEnds s.body t fl 0x11 0 [] := by
  refine gives_of_next (exec_onCmd hd rfl) ?_
  simp only [Body.access, he]
  split
  next st hst =>
    split at hst
    · cases hst
    · cases hst
      exact (SameBut.refl [] s.body).fail fl 0x11 _ _
  next e' hok =>
    split at hok
    next hgood =>
      cases hok
      have hwr : e.wr = true := by
        simp only [Body.accessOk, if_true, Bool.and_eq_true] at hgood
        exact hgood.1.1
      rw [if_pos (h.resolve_right (by simp [hwr]))]
      exact (SameBut.refl [] s.body).fail fl 0x11 _ _
    next => cases hok

theorem exec_mtTrim (hplace : e.place = 4) (hok : s.body.accessOk e (c.f 2 47 0) (c.f 3 47 0) true = true) :
    exec (.mtTrim c) s = .next { s with
      body := (s.body.trim (trimFrom (e.base + c.f 2 47 0)) (trimTo (e.base + c.f 2 47 0 + c.f 3 47 0))).done fl } := by
  rw [exec_onCmd hd rfl]
  simp only [Body.access, he, hok, if_true, hplace, ne_eq, not_true_eq_false, if_false]
  rfl

end

/-- Settles O48. -/
theorem trimUnmapsWholeUnits : Obligations.TrimUnmapsWholeUnits := by
  unfold Obligations.TrimUnmapsWholeUnits
  intro s c fl e a n hd he ha hn
  refine ⟨mtTrim_refused hd he, fun hplace _ hok hbase hend hhaze hbg => ?_⟩
  subst hn
  refine gives_of_next (exec_mtTrim hd he hplace hok) ?_
  rw [← ha]
  set b := s.body.trim (trimFrom a) (trimTo (a + c.f 3 47 0)) with hb
  have hbyte : ∀ y, (b.done fl).byte y = b.byte y := sameBytes_of (by simp) (by simp) (by simp)
  have hunits : trimFrom a = (a + 16383) / 16384 * 16384 := rfl
  have hto : trimTo (a + c.f 3 47 0) = (a + c.f 3 47 0) / 16384 * 16384 := rfl
  refine ⟨Body.endsWith_done fl 0 (by rw [hb, trim_hm]), fun q hq _ => ?_, fun u x hx hax hxa => ⟨?_, fun i hi => ?_⟩,
    fun y u x hx hxy hyx hpart => ?_⟩
  · exact (Body.reg_done b fl 0 hq).trans (Body.reg_congr (trim_regs _ _ _) q)
  · rw [Body.done_tiers, hb, mapped_trim] <;> unfold tierFBase at * <;> omega
  · rw [hbyte, hb, byte_trim_inside s.body hhaze hbg] <;> unfold tierFBase at * <;> omega
  · rw [hbyte, hb, byte_trim_outside s.body hhaze]
    unfold tierFBase at *; omega

end Sys2Proof.Machine
end

section
/-! PROOFS. The link layer of a Line (R350, R351): what it sends again, what it acknowledges, and what an acknowledgement frees. -/

namespace Sys2Proof.Machine

/-! ### One Line -/

@[simp] theorem line_setLine (b : Body) (l : Nat) (x : LineInfo) : (b.setLine l x).line l = x := SMap.get_set_self _ _ _ _

theorem line_setLine_ne (b : Body) {l k : Nat} (h : k ≠ l) (x : LineInfo) : (b.setLine l x).line k = b.line k :=
  SMap.get_set_ne _ _ _ _ h

theorem line_congr {b c : Body} (h : c.ln = b.ln) (l : Nat) : c.line l = b.line l := by rw [Body.line, h, Body.line]

/-- A flit as a Line sends it. -/
def flitMsg (l : Nat) (f : TxFlit) : Msg :=
  { port := .line l, kind := .dataFlit, nums := [f.seq, f.vc, if f.last then 1 else 0], data := f.data }

theorem foldl_send {α : Type} (g : α → Msg) (b : Body) (xs : List α) :
    xs.foldl (fun b x => b.send (g x)) b = { b with out := b.out ++ xs.map g } := by
  induction xs generalizing b with
  | nil => simp
  | cons x xs ih =>
    rw [List.foldl_cons, ih]
    simp [Body.send, List.append_assoc]

/-- The acknowledgements a Line owes: an idle flit, or one for each virtual channel with credits owed. -/
def ackMsgs (l : Nat) (x : LineInfo) : List Msg :=
  let ack := (x.rxSeq + 4095) % 4096
  let vs := (List.range 8).filter fun v => decide (x.owed.getD v 0 > 0)
  if vs = [] then [{ port := .line l, kind := .ackFlit, nums := [ack] }]
  else vs.map fun v => { port := .line l, kind := .ackFlit, nums := [ack, v, x.owed.getD v 0] }

/-- A Line that owes no acknowledgement. -/
def LineInfo.acked (x : LineInfo) : LineInfo := { x with owed := [0, 0, 0, 0, 0, 0, 0, 0], rxSinceAck := 0 }

theorem sendAck_eq (b : Body) (l : Nat) : b.sendAck l = { b.setLine l (b.line l).acked with
    out := b.out ++ ackMsgs l (b.line l) } := by
  unfold Body.sendAck ackMsgs
  dsimp only
  split
  · rfl
  · exact foldl_send (fun v => ⟨.line l, .ackFlit, [((b.line l).rxSeq + 4095) % 4096, v, (b.line l).owed.getD v 0], []⟩) _ _

theorem resend_eq (b : Body) (l : Nat) : b.resend l = { b.bump (.lnErr l) Fld.lnErrReplays (b.line l).replay.length with
    out := b.out ++ (b.line l).replay.map (flitMsg l) } := by
  have hout : (b.bump (.lnErr l) Fld.lnErrReplays (b.line l).replay.length).out = b.out := by simp
  rw [← hout]
  exact foldl_send (flitMsg l) _ _

theorem ackMsgs_kind {l : Nat} {x : LineInfo} : ∃ m ∈ ackMsgs l x, m.kind = .ackFlit ∧ m.nums.getD 0 0 = (x.rxSeq + 4095) % 4096 := by
  unfold ackMsgs
  dsimp only
  split
  · exact ⟨_, List.mem_singleton_self _, rfl, rfl⟩
  next h =>
    obtain ⟨v, hv⟩ := List.exists_mem_of_ne_nil _ h
    exact ⟨_, List.mem_map_of_mem hv, rfl, rfl⟩

theorem ackMsgs_owed {l v : Nat} {x : LineInfo} (hv : v < 8) (howed : 0 < x.owed.getD v 0) :
    ∃ m ∈ ackMsgs l x, m.kind = .ackFlit ∧ m.nums = [(x.rxSeq + 4095) % 4096, v, x.owed.getD v 0] := by
  have hmem : v ∈ (List.range 8).filter fun v => decide (x.owed.getD v 0 > 0) :=
    List.mem_filter.mpr ⟨List.mem_range.mpr hv, decide_eq_true howed⟩
  unfold ackMsgs
  dsimp only
  rw [if_neg (List.ne_nil_of_mem hmem)]
  exact ⟨_, List.mem_map_of_mem hmem, rfl, rfl⟩

/-! ### What a Line receives stands apart from what it sends -/

/-- What a Line's receiver holds: the number expected, flits since the last acknowledgement, messages begun and credits owed. -/
def LineInfo.receiver (x : LineInfo) : Nat × Nat × List (List (List Byte)) × List Nat := (x.rxSeq, x.rxSinceAck, x.rxBuf, x.owed)

theorem lines_granuleAcked (b : Body) (k : Nat) : (b.granuleAcked k).ln.lines = b.ln.lines := by
  unfold Body.granuleAcked
  refine (foldl_keep (fun b : Body => b.ln.lines) _ _ _ fun b p => ?_).trans rfl
  split
  · rfl
  · rw [Body.done_ln]

theorem ln_freeBytes (n : Nat) (b : Body) : (b.freeBytes n).2.ln = b.ln := by
  induction n generalizing b with
  | zero => rfl
  | succ n ih => exact ih b.free.2

theorem ln_store (b : Body) (a : Nat) (row : List Byte) : (b.store a row).ln = b.ln :=
  store_keep_apart Body.ln (fun _ _ => rfl) (fun _ _ => rfl) (fun b _ => Body.bump_ln b _ _ _) (fun b _ _ => Body.setF_ln b _ _ _)
    (fun b _ _ _ _ _ => Body.err_ln b _ _ _ _ _ _ _) b a row

theorem lines_remoteDone (b : Body) (uid : Nat) : (b.remoteDone uid).ln.lines = b.ln.lines := by
  unfold Body.remoteDone
  split
  · rfl
  · dsimp only
    split
    · rw [Body.done_ln]
      refine (foldl_keep (fun b : Body => b.ln.lines) _ _ _ fun b p => ?_).trans rfl
      rw [Body.count_ln, ln_store, ln_freeBytes]
    · rw [Body.fail_ln]
      rfl

theorem ln_pushTaken (b : Body) (uid : Nat) (taken : Bool) : (b.pushTaken uid taken).ln = b.ln := by
  unfold Body.pushTaken
  split
  · dsimp only
    split
    · rw [Body.bump_ln]
    · rfl
  · rfl

/-- What a flit sent on a Line keeps, pumping the Line keeps: nothing changes but the Line's sending side and what is sent. -/
theorem pumpN_inv (l : Nat) (P : Body → Prop)
    (h : ∀ b y m, y.receiver = (b.line l).receiver → P b → P ((b.setLine l y).send m)) (n : Nat) (b : Body) (hb : P b) :
    P (b.pumpN l n) := by
  induction n generalizing b with
  | zero => exact hb
  | succ n ih =>
    unfold Body.pumpN
    dsimp only
    split_ifs
    · exact hb
    · split
      · exact hb
      · split
        · exact hb
        · exact ih _ (h b _ _ rfl hb)
    · exact hb
    · split
      · exact hb
      · split
        · exact hb
        · exact ih _ (h b _ _ rfl hb)

theorem receiver_pump (b : Body) (l : Nat) : ((b.pump l).line l).receiver = (b.line l).receiver :=
  pumpN_inv l (fun c => (c.line l).receiver = (b.line l).receiver)
    (fun c y _ hy hc => (congrArg LineInfo.receiver (line_setLine c l y)).trans (hy.trans hc)) _ b rfl

theorem out_pump (b : Body) (l : Nat) : b.out <+: (b.pump l).out :=
  pumpN_inv l (fun c => b.out <+: c.out) (fun _ _ _ _ hc => hc.trans (List.prefix_append _ _)) _ b (List.prefix_refl _)

theorem memory_pump (b : Body) (l : Nat) : (b.pump l).memory = b.memory :=
  pumpN_inv l (fun c => c.memory = b.memory) (fun _ _ _ _ hc => hc) _ b rfl

theorem regs_pump (b : Body) (l : Nat) : (b.pump l).regs = b.regs :=
  pumpN_inv l (fun c => c.regs = b.regs) (fun _ _ _ _ hc => hc) _ b rfl

theorem hm_pump (b : Body) (l : Nat) : (b.pump l).hm = b.hm :=
  pumpN_inv l (fun c => c.hm = b.hm) (fun _ _ _ _ hc => hc) _ b rfl

theorem pump_of_empty {b : Body} {l : Nat} (h : (b.line l).txq.flatten = []) : b.pump l = b := by
  have hnil : ∀ v, (b.line l).txq.getD v [] = [] := fun v => by
    rw [List.getD_eq_getElem?_getD]
    cases hv : (b.line l).txq[v]? with
    | none => rfl
    | some q => exact List.flatten_eq_nil_iff.mp h q (List.mem_of_getElem? hv)
  have hcons : ∀ {v f r}, (b.line l).txq.getD v [] ≠ f :: r := fun {v f r} heq => by cases (hnil v).symm.trans heq
  unfold Body.pump Body.pumpN
  dsimp only
  split_ifs
  · rfl
  · split
    · rfl
    · split
      · rfl
      next heq => exact absurd heq hcons
  · rfl
  · split
    · rfl
    · split
      · rfl
      next heq => exact absurd heq hcons

/-- The replay buffer's flits up to the one of an acknowledged number. -/
def LineInfo.cut (x : LineInfo) (ack : Nat) : Nat := ((x.replay.findIdx? fun f => decide (f.seq = ack)).map (· + 1)).getD 0

/-- A Line after an acknowledgement, its credits returned. -/
def LineInfo.taken (x : LineInfo) (ack : Nat) (cr : List (Nat × Nat)) : LineInfo :=
  { x with
    replay := x.replay.drop (x.cut ack)
    credits := cr.foldl (fun c p => c.set p.1 (c.getD p.1 0 + p.2)) x.credits
    resends := if 0 < x.cut ack then 0 else x.resends }

/-- What the commands and granules of flits that have gone through do. -/
def Body.flitsGone (b : Body) (gone : List TxFlit) : Body :=
  (gone.filterMap fun f => f.uid).dedup.foldl (fun b u => if b.uidOnLines u then b else (b.pushTaken u true).remoteDone u)
    ((gone.filterMap fun f => f.granule).foldl Body.granuleAcked b)

theorem takeAck_eq (b : Body) (l ack : Nat) (cr : List (Nat × Nat)) : b.takeAck l ack cr =
    ((b.setLine l ((b.line l).taken ack cr)).flitsGone ((b.line l).replay.take ((b.line l).cut ack))).pump l := by
  unfold Body.takeAck LineInfo.taken LineInfo.cut
  dsimp only
  cases (b.line l).replay.findIdx? fun f => decide (f.seq = ack) <;> rfl

theorem lines_flitsGone (b : Body) (gone : List TxFlit) : (b.flitsGone gone).ln.lines = b.ln.lines := by
  refine (foldl_keep (fun b : Body => b.ln.lines) _ _ _ fun b u => ?_).trans (foldl_keep (fun b : Body => b.ln.lines) _ _ b lines_granuleAcked)
  split
  · rfl
  · rw [lines_remoteDone, ln_pushTaken]

theorem flitsGone_of_none (b : Body) {gone : List TxFlit} (h : ∀ f ∈ gone, f.uid = none ∧ f.granule = none) : b.flitsGone gone = b := by
  have huid : gone.filterMap (fun f => f.uid) = [] := List.filterMap_eq_nil_iff.mpr fun f hf => (h f hf).1
  have hgranule : gone.filterMap (fun f => f.granule) = [] := List.filterMap_eq_nil_iff.mpr fun f hf => (h f hf).2
  rw [Body.flitsGone, huid, hgranule]
  rfl

theorem receiver_takeAck (b : Body) (l ack : Nat) (cr : List (Nat × Nat)) :
    ((b.takeAck l ack cr).line l).receiver = (b.line l).receiver := by
  rw [takeAck_eq, receiver_pump, Body.line, lines_flitsGone]
  exact (congrArg LineInfo.receiver (line_setLine b l ((b.line l).taken ack cr))).trans rfl

/-! ### A flit's faults -/

theorem lnErr_ok (l : Fin 36) : (Reg.lnErr l.val).ok = true := by simp [Reg.ok]

theorem lnErr_stored (l : Nat) : (Reg.lnErr l).stored := by simp [Reg.stored]

/-- A body with a codeword that FEC did not correct counted on a Line. -/
def Body.fecFailed (b : Body) (l : Nat) : Body :=
  let x := b.line l
  let b := b.bump (.lnErr l) Fld.lnErrFecUncorr 1
  if b.now - x.uncorrSince.toNat < 1000000 ∧ x.uncorr > 0 then b.setLine l { x with uncorr := x.uncorr + 1 }
  else b.setLine l { x with uncorr := 1, uncorrSince := b.ts }

/-- A body with the faults of a received flit counted. -/
def Body.flitFaults (b : Body) (l : Nat) (f : Flit) : Body :=
  let b := if f.crcOk then b else b.bump (.lnErr l) Fld.lnErrCrcErr 1
  if f.fecOk then b else b.fecFailed l

/-- A Line that has taken a flit. -/
def LineInfo.received (x : LineInfo) (f : Flit) : LineInfo :=
  { x with
    rxSeq := (x.rxSeq + 1) % 4096
    rxSinceAck := x.rxSinceAck + 1
    rxBuf := x.rxBuf.set (f.vc % 8) (if f.last then [] else x.rxBuf.getD (f.vc % 8) [] ++ [f.data])
    owed := if f.last then x.owed.set (f.vc % 8) (x.owed.getD (f.vc % 8) 0 + (x.rxBuf.getD (f.vc % 8) [] ++ [f.data]).length) else x.owed }

/-- A body whose Line has taken a flit, with what the flit acknowledges. -/
def Body.flitTaken (b : Body) (l : Nat) (f : Flit) : Body := (b.setLine l ((b.line l).received f)).takeAck l f.ack f.credits

section
variable (b : Body) (l : Fin 36) (f : Flit)

theorem receiver_flitFaults : ((b.flitFaults l f).line l).receiver = (b.line l).receiver := by
  have hbump : ∀ (c : Body) fld n, (c.bump (.lnErr l) fld n).line l = c.line l := fun c fld n => line_congr (Body.bump_ln c _ fld n) l
  have hfec : ∀ c : Body, ((c.fecFailed l).line l).receiver = (c.line l).receiver := fun c => by
    unfold Body.fecFailed
    dsimp only
    split <;> rw [line_setLine] <;> rfl
  unfold Body.flitFaults
  dsimp only
  split
  · split
    · rfl
    · rw [hbump]
  · rw [hfec]
    split
    · rfl
    · rw [hbump]

theorem sameBut_fecFailed : SameBut [(Reg.lnErr l.val).addr] b (b.fecFailed l) := by
  have hbump := (SameBut.refl [(Reg.lnErr l.val).addr] b).bump (List.mem_singleton_self _) Fld.lnErrFecUncorr 1
  unfold Body.fecFailed
  dsimp only
  split <;> exact hbump.beside rfl rfl rfl rfl rfl

theorem sameBut_flitFaults : SameBut [(Reg.lnErr l.val).addr] b (b.flitFaults l f) := by
  have hcrc : SameBut [(Reg.lnErr l.val).addr] b (if f.crcOk then b else b.bump (.lnErr l) Fld.lnErrCrcErr 1) := by
    split
    · exact SameBut.refl _ b
    · exact (SameBut.refl _ b).bump (List.mem_singleton_self _) _ _
  unfold Body.flitFaults
  dsimp only
  split
  · exact hcrc
  · exact hcrc.trans (sameBut_fecFailed _ l)

theorem out_flitFaults : (b.flitFaults l f).out = b.out := by
  unfold Body.flitFaults Body.fecFailed
  dsimp only
  split_ifs <;> simp [Body.setLine]

theorem getF_fecFailed (g : Fld) : (b.fecFailed l).getF (.lnErr l) g = (b.bump (.lnErr l) Fld.lnErrFecUncorr 1).getF (.lnErr l) g := by
  unfold Body.fecFailed
  dsimp only
  split <;> exact Body.getF_congr rfl _ _

theorem crc_flitFaults : Counted b (b.flitFaults l f) (.lnErr l) Fld.lnErrCrcErr (if f.crcOk = true then 0 else 1) := by
  have hcrc : Counted b (if f.crcOk then b else b.bump (.lnErr l) Fld.lnErrCrcErr 1) (.lnErr l) Fld.lnErrCrcErr
      (if f.crcOk = true then 0 else 1) := by
    split
    · exact counted_zero _ _ _
    · exact counted_bump _ 1 (lnErr_ok l) (lnErr_stored l) (by decide) (by decide)
  unfold Body.flitFaults
  dsimp only
  split
  · exact hcrc
  · exact hcrc.of_getF (by rw [getF_fecFailed, getF_bump_fields _ _ (lnErr_ok l) (lnErr_stored l) (by decide), if_neg (by decide)])

theorem fec_flitFaults : Counted b (b.flitFaults l f) (.lnErr l) Fld.lnErrFecUncorr (if f.fecOk = true then 0 else 1) := by
  have hcrc : (if f.crcOk then b else b.bump (.lnErr l) Fld.lnErrCrcErr 1).getF (.lnErr l) Fld.lnErrFecUncorr =
      b.getF (.lnErr l) Fld.lnErrFecUncorr := by
    split
    · rfl
    · rw [getF_bump_fields _ _ (lnErr_ok l) (lnErr_stored l) (by decide), if_neg (by decide)]
  unfold Body.flitFaults
  dsimp only
  split
  · exact (counted_zero _ _ _).of_getF hcrc
  · exact counted_from (Counted.of_getF (counted_bump _ 1 (lnErr_ok l) (lnErr_stored l) (by decide) (by decide))
      (getF_fecFailed _ l _)) hcrc

end

/-! ### The Line's events -/

section
variable {s : State} {l : Fin 36} {f : Flit} (hup : s.body.lineUp l = true)
include hup

theorem exec_lineDataFlit : exec (.lineDataFlit l f) s = .next { s with
    body :=
      if ¬ f.crcOk ∨ ¬ f.fecOk ∨ f.seq ≠ ((s.body.flitFaults l f).line l).rxSeq then
        (s.body.flitFaults l f).send { port := .line l, kind := .nak, nums := [((s.body.flitFaults l f).line l).rxSeq] }
      else if (((s.body.flitFaults l f).flitTaken l f).line l).rxSinceAck ≥ 32 then ((s.body.flitFaults l f).flitTaken l f).sendAck l
      else (s.body.flitFaults l f).flitTaken l f } := by
  show Host.Outcome.next { s with
    body := if ¬ s.body.lineUp l then s.body else _ } = _
  rw [if_neg (by simp [hup])]
  rfl

/-- A good flit with the number expected is taken. -/
theorem exec_lineDataFlit_of_good (hcrc : f.crcOk = true) (hfec : f.fecOk = true) (hseq : f.seq = (s.body.line l).rxSeq) :
    exec (.lineDataFlit l f) s = .next { s with
      body := if (s.body.line l).rxSinceAck + 1 ≥ 32 then (s.body.flitTaken l f).sendAck l else s.body.flitTaken l f } := by
  have hfaults : s.body.flitFaults l f = s.body := by
    unfold Body.flitFaults
    rw [if_pos hfec, if_pos hcrc]
  have hsince : ((s.body.flitTaken l f).line l).rxSinceAck = (s.body.line l).rxSinceAck + 1 := by
    have hrx := receiver_takeAck (s.body.setLine l ((s.body.line l).received f)) l f.ack f.credits
    rw [line_setLine] at hrx
    exact congrArg (fun p => p.2.1) hrx
  rw [exec_lineDataFlit hup, hfaults, if_neg (by simp [hcrc, hfec, hseq]), hsince]

/-- A flit that fails CRC or FEC or is out of sequence is answered with a NAK. -/
theorem exec_lineDataFlit_of_bad (hbad : f.crcOk = false ∨ f.fecOk = false ∨ f.seq ≠ (s.body.line l).rxSeq) :
    exec (.lineDataFlit l f) s = .next { s with
      body := (s.body.flitFaults l f).send { port := .line l, kind := .nak, nums := [(s.body.line l).rxSeq] } } := by
  have hrx : ((s.body.flitFaults l f).line l).rxSeq = (s.body.line l).rxSeq := congrArg Prod.fst (receiver_flitFaults s.body l f)
  rw [exec_lineDataFlit hup, hrx, if_pos (by simpa using hbad)]

end

theorem receiver_flitTaken (b : Body) (l : Nat) (f : Flit) :
    ((b.flitTaken l f).line l).receiver = ((b.line l).received f).receiver := by
  rw [Body.flitTaken, receiver_takeAck, line_setLine]

theorem receiver_eq_iff {x y : LineInfo} :
    x.receiver = y.receiver ↔ x.rxSeq = y.rxSeq ∧ x.rxSinceAck = y.rxSinceAck ∧ x.rxBuf = y.rxBuf ∧ x.owed = y.owed := by
  simp only [LineInfo.receiver, Prod.mk.injEq]

theorem line_sendAck (b : Body) (l : Nat) : (b.sendAck l).line l = (b.line l).acked := by
  rw [sendAck_eq]
  exact line_setLine b l _

theorem out_sendAck (b : Body) (l : Nat) : (b.sendAck l).out = b.out ++ ackMsgs l (b.line l) := by rw [sendAck_eq]

section
variable {s : State} {l : Fin 36} {f : Flit} {x : LineInfo} (hx : x = s.body.line l) (hup : s.body.lineUp l = true)
include hx hup

theorem lineDataFlit_takes {v : Nat} {held : List (List Byte)} (hcrc : f.crcOk = true) (hfec : f.fecOk = true) (hseq : f.seq = x.rxSeq)
    (hv : v = f.vc % 8) (hheld : held = x.rxBuf.getD v [] ++ [f.data]) (hfew : x.rxSinceAck + 1 < 32) :
    Gives (.lineDataFlit l f) s fun t => (t.line l).rxSeq = (x.rxSeq + 1) % 4096 ∧ (t.line l).rxSinceAck = x.rxSinceAck + 1 ∧
      (t.line l).rxBuf = x.rxBuf.set v (if f.last = true then [] else held) ∧
      (t.line l).owed = (if f.last = true then x.owed.set v (x.owed.getD v 0 + held.length) else x.owed) := by
  subst hheld hv hx
  have hexec := exec_lineDataFlit_of_good hup hcrc hfec hseq
  rw [if_neg (by omega)] at hexec
  exact gives_of_next hexec (receiver_eq_iff.mp (receiver_flitTaken s.body l f))

theorem lineDataFlit_acknowledges (hcrc : f.crcOk = true) (hfec : f.fecOk = true) (hseq : f.seq = x.rxSeq) (hlt : x.rxSeq < 4096)
    (hmany : 32 ≤ x.rxSinceAck + 1) : Gives (.lineDataFlit l f) s fun t => (t.line l).rxSinceAck = 0 ∧
      (∀ v, (t.line l).owed.getD v 0 = 0) ∧ ∃ m ∈ t.out, m.kind = .ackFlit ∧ m.nums.getD 0 0 = f.seq := by
  subst hx
  have hexec := exec_lineDataFlit_of_good hup hcrc hfec hseq
  rw [if_pos hmany] at hexec
  obtain ⟨hrx, -⟩ := receiver_eq_iff.mp (receiver_flitTaken s.body l f)
  obtain ⟨m, hm, hkind, hnums⟩ := ackMsgs_kind (l := l) (x := (s.body.flitTaken l f).line l)
  refine gives_of_next hexec ⟨by rw [line_sendAck]; rfl, fun v => ?_, m, ?_, hkind, ?_⟩
  · rw [line_sendAck, LineInfo.acked, List.getD_eq_getElem?_getD]
    match v with
    | 0 | 1 | 2 | 3 | 4 | 5 | 6 | 7 | n + 8 => rfl
  · rw [out_sendAck]
    exact List.mem_append_right _ hm
  · rw [hnums, hrx, hseq]
    simp only [LineInfo.received]
    omega

theorem lineDataFlit_refuses (hbad : f.crcOk = false ∨ f.fecOk = false ∨ f.seq ≠ x.rxSeq) : Gives (.lineDataFlit l f) s fun t =>
    (∃ m, t.out = s.body.out ++ [m] ∧ m.kind = .nak ∧ m.nums = [x.rxSeq]) ∧ (t.line l).rxSeq = x.rxSeq ∧ (t.line l).rxBuf = x.rxBuf ∧
    Counted s.body t (.lnErr l) Fld.lnErrCrcErr (if f.crcOk = true then 0 else 1) ∧
    Counted s.body t (.lnErr l) Fld.lnErrFecUncorr (if f.fecOk = true then 0 else 1) ∧
    SameRegsBut s.body t [(Reg.lnErr l).addr] ∧ SameBytes s.body t := by
  subst hx
  obtain ⟨hseq, -, hbuf, -⟩ := receiver_eq_iff.mp (receiver_flitFaults s.body l f)
  have hsame := (sameBut_flitFaults s.body l f).send { port := .line l, kind := .nak, nums := [(s.body.line l).rxSeq] }
  exact gives_of_next (exec_lineDataFlit_of_bad hup hbad) ⟨⟨_, congrArg (· ++ [_]) (out_flitFaults s.body l f), rfl, rfl⟩, hseq, hbuf,
    (crc_flitFaults s.body l f).of_getF rfl, (fec_flitFaults s.body l f).of_getF rfl, hsame.regs, hsame.bytes⟩

end

/-- What an acknowledgement of flits of no command and no granule leaves, with nothing queued. -/
theorem takeAck_of_quiet {b : Body} {l ack : Nat} {cr : List (Nat × Nat)}
    (hnone : ∀ f ∈ (b.line l).replay, f.uid = none ∧ f.granule = none) (hq : (b.line l).txq.flatten = []) :
    b.takeAck l ack cr = b.setLine l ((b.line l).taken ack cr) := by
  rw [takeAck_eq, flitsGone_of_none _ fun f hf => hnone f (List.mem_of_mem_take hf)]
  exact pump_of_empty (by rw [line_setLine]; exact hq)

/-- A Line that resends once more. -/
def LineInfo.resent (x : LineInfo) : LineInfo := { x with resends := x.resends + 1 }

/-- The body that resends a Line's replay buffer. -/
def Body.resending (b : Body) (l : Nat) : Body := (b.setLine l (b.line l).resent).resend l

theorem line_resending (b : Body) (l : Nat) : (b.resending l).line l = (b.line l).resent := by
  rw [Body.resending, resend_eq]
  exact (line_congr (Body.bump_ln _ _ _ _) l).trans (line_setLine b l _)

theorem out_resending (b : Body) (l : Nat) : (b.resending l).out = b.out ++ (b.line l).replay.map (flitMsg l) := by
  rw [Body.resending, resend_eq]
  dsimp only
  rw [line_setLine]
  rfl

theorem replays_resending (b : Body) (l : Fin 36) :
    Counted b (b.resending l) (.lnErr l) Fld.lnErrReplays (b.line l).replay.length := by
  have hcount := counted_bump (b.setLine l (b.line l).resent) (b.line l).replay.length (lnErr_ok l) (lnErr_stored l)
    (f := Fld.lnErrReplays) (by decide) (by decide)
  rw [Body.resending, resend_eq, line_setLine]
  exact counted_from (hcount.of_getF rfl) rfl

theorem sameBut_resending (b : Body) (l : Nat) : SameBut [(Reg.lnErr l).addr] b (b.resending l) := by
  have hset : SameBut [(Reg.lnErr l).addr] b (b.setLine l (b.line l).resent) := (SameBut.refl _ b).beside rfl rfl rfl rfl rfl
  rw [Body.resending, resend_eq]
  exact (hset.bump (List.mem_singleton_self _) _ _).beside rfl rfl rfl rfl rfl

section
variable {s : State} {l : Fin 36} {x : LineInfo} (hx : x = s.body.line l) (hup : s.body.lineUp l = true)

theorem exec_of_line_not_up {f : Flit} {ack n : Nat} {cr : List (Nat × Nat)} {i : Instr}
    (hi : i ∈ [Instr.lineDataFlit l f, .lineAckFlit l ack cr, .lineNak l n, .lineReplayTimeout l, .lineAckTimer l])
    (hdown : s.body.lineUp l = false) : exec i s = .next s := by
  have hnot : ¬ s.body.lineUp l = true := by simp [hdown]
  simp only [List.mem_cons, List.not_mem_nil, or_false] at hi
  obtain rfl | rfl | rfl | rfl | rfl := hi
  · show Host.Outcome.next { s with
      body := if ¬ s.body.lineUp l then s.body else _ } = _
    rw [if_pos hnot]
  · show Host.Outcome.next { s with
      body := if s.body.lineUp l then _ else s.body } = _
    rw [if_neg hnot]
  · show Host.Outcome.next { s with
      body := if s.body.lineUp l then _ else s.body } = _
    rw [if_neg hnot]
  · show Host.Outcome.next { s with
      body := if s.body.lineUp l ∧ (s.body.line l).replay ≠ [] then _ else s.body } = _
    rw [if_neg fun h => hnot h.1]
  · show Host.Outcome.next { s with
      body := if s.body.lineUp l then _ else s.body } = _
    rw [if_neg hnot]

include hup

theorem exec_lineAckFlit (ack : Nat) (cr : List (Nat × Nat)) : exec (.lineAckFlit l ack cr) s = .next { s with
    body := s.body.takeAck l ack cr } := by
  show Host.Outcome.next { s with
    body := if s.body.lineUp l then _ else s.body } = _
  rw [if_pos hup]

theorem exec_lineNak {n ack : Nat} (hack : ack = (n + 4095) % 4096) : exec (.lineNak l n) s = .next { s with
    body := if ((s.body.takeAck l ack []).line l).replay = [] then s.body.takeAck l ack []
      else (s.body.takeAck l ack []).resending l } := by
  show Host.Outcome.next { s with
    body := if s.body.lineUp l then _ else s.body } = _
  rw [if_pos hup, hack]
  rfl

theorem exec_lineReplayTimeout : exec (.lineReplayTimeout l) s = .next { s with
    body := if (s.body.line l).replay = [] then s.body else s.body.resending l } := by
  show Host.Outcome.next { s with
    body := if s.body.lineUp l ∧ (s.body.line l).replay ≠ [] then s.body.resending l else s.body } = _
  simp only [hup, true_and, ne_eq, ite_not]

theorem exec_lineAckTimer : exec (.lineAckTimer l) s = .next { s with
    body := s.body.sendAck l } := by
  show Host.Outcome.next { s with
    body := if s.body.lineUp l then s.body.sendAck l else s.body } = _
  rw [if_pos hup]

include hx

theorem lineAckFlit_frees {ack cut : Nat} {cr : List (Nat × Nat)} {cs : List Nat}
    (hcs : cs = cr.foldl (fun c p => c.set p.1 (c.getD p.1 0 + p.2)) x.credits)
    (hnone : ∀ f ∈ x.replay, f.uid = none ∧ f.granule = none) (hq : x.txq.flatten = []) (hcut : cut = x.cut ack) :
    Gives (.lineAckFlit l ack cr) s fun t =>
      t.line l = { x with replay := x.replay.drop cut, credits := cs, resends := if 0 < cut then 0 else x.resends } ∧
      t.out = s.body.out ∧ t.regs = s.body.regs ∧ SameBytes s.body t := by
  subst hx hcs hcut
  have hexec := exec_lineAckFlit hup ack cr
  rw [takeAck_of_quiet hnone hq] at hexec
  exact gives_of_next hexec ⟨line_setLine _ _ _, rfl, rfl, fun _ => rfl⟩

theorem lineNak_resends {ack cut n : Nat} (hnone : ∀ f ∈ x.replay, f.uid = none ∧ f.granule = none) (hq : x.txq.flatten = [])
    (hcut : cut = x.cut ack) (hack : ack = (n + 4095) % 4096) (hleft : x.replay.drop cut ≠ []) : Gives (.lineNak l n) s fun t =>
      (t.line l).replay = x.replay.drop cut ∧ (t.line l).resends = (if 0 < cut then 0 else x.resends) + 1 ∧
      t.out = s.body.out ++ (x.replay.drop cut).map (flitMsg l) ∧
      Counted s.body t (.lnErr l) Fld.lnErrReplays (x.replay.drop cut).length ∧ SameBytes s.body t := by
  subst hx hcut
  have htaken := line_setLine s.body l ((s.body.line l).taken ack [])
  have hout := out_resending (s.body.setLine l ((s.body.line l).taken ack [])) l
  have hcount := replays_resending (s.body.setLine l ((s.body.line l).taken ack [])) l
  have hexec := exec_lineNak hup hack
  rw [takeAck_of_quiet hnone hq, htaken, if_neg (show ((s.body.line l).taken ack []).replay ≠ [] from hleft)] at hexec
  rw [htaken] at hout hcount
  refine gives_of_next hexec ⟨?_, ?_, hout, counted_from hcount rfl, (sameBut_resending _ l).bytes⟩
  · rw [line_resending, htaken]; rfl
  · rw [line_resending, htaken]; rfl

theorem lineReplayTimeout_resends (hleft : x.replay ≠ []) : Gives (.lineReplayTimeout l) s fun t =>
    t.line l = { x with resends := x.resends + 1 } ∧ t.out = s.body.out ++ x.replay.map (flitMsg l) ∧
    Counted s.body t (.lnErr l) Fld.lnErrReplays x.replay.length ∧ SameRegsBut s.body t [(Reg.lnErr l).addr] ∧ SameBytes s.body t := by
  subst hx
  have hexec := exec_lineReplayTimeout hup
  rw [if_neg hleft] at hexec
  have hsame := sameBut_resending s.body l
  exact gives_of_next hexec ⟨line_resending _ _, out_resending _ _, replays_resending _ _, hsame.regs, hsame.bytes⟩

theorem lineAckTimer_acknowledges : Gives (.lineAckTimer l) s fun t =>
    t.line l = { x with owed := [0, 0, 0, 0, 0, 0, 0, 0], rxSinceAck := 0 } ∧ t.regs = s.body.regs ∧
    (∃ m ∈ t.out, m.kind = .ackFlit ∧ m.nums.getD 0 0 = (x.rxSeq + 4095) % 4096) ∧
    (∀ v, v < 8 → 0 < x.owed.getD v 0 → ∃ m ∈ t.out, m.kind = .ackFlit ∧ m.nums = [(x.rxSeq + 4095) % 4096, v, x.owed.getD v 0]) ∧
    SameBytes s.body t := by
  subst hx
  have hin : ∀ m ∈ ackMsgs l (s.body.line l), m ∈ (s.body.sendAck l).out := fun m hm => by
    rw [out_sendAck]; exact List.mem_append_right _ hm
  obtain ⟨m, hm, hkind⟩ := ackMsgs_kind (l := l) (x := s.body.line l)
  refine gives_of_next (exec_lineAckTimer hup) ⟨line_sendAck _ _, by rw [sendAck_eq]; rfl, ⟨m, hin m hm, hkind⟩, fun v hv howed => ?_, ?_⟩
  · obtain ⟨m, hm, hkind⟩ := ackMsgs_owed (l := l) hv howed
    exact ⟨m, hin m hm, hkind⟩
  · rw [sendAck_eq]; exact fun _ => rfl

end

/-- Settles O49, event by event. -/
theorem linesCarryFlits : Obligations.LinesCarryFlits := by
  unfold Obligations.LinesCarryFlits
  intro s l x r flit hx hr hflit
  have hmsg : flit = flitMsg l := hflit
  subst hr hmsg
  refine ⟨fun f ack cr n i hi hdown => exec_of_line_not_up hi hdown, fun hup => ⟨?_, ?_, ?_, ?_, fun hnil => ?_, ?_, ?_⟩⟩
  · exact fun f v held hcrc hfec hseq hv hheld hfew => lineDataFlit_takes hx hup hcrc hfec hseq hv hheld hfew
  · exact fun f hcrc hfec hseq hlt hmany => lineDataFlit_acknowledges hx hup hcrc hfec hseq hlt hmany
  · exact fun f hbad => lineDataFlit_refuses hx hup hbad
  · exact fun ack cut cr cs hcs hnone hq hcut => ⟨lineAckFlit_frees hx hup hcs hnone hq hcut,
      fun n hack hleft => lineNak_resends hx hup hnone hq hcut hack hleft⟩
  · rw [exec_lineReplayTimeout hup, if_pos (hx ▸ hnil)]
  · exact fun hleft => lineReplayTimeout_resends hx hup hleft
  · exact lineAckTimer_acknowledges hx hup

end Sys2Proof.Machine
end

section
/-! PROOFS. What messages sent over Lines, groups that break and the Twin's link leave alone (R350, R357, R363, R372). -/

namespace Sys2Proof.Machine

/-- What sending over a Line keeps: `P` outlives every change that a message sent on a Line with `Q` makes, and only such Lines are UP. -/
structure SendRule (Q : Nat → Prop) (P : Body → Prop) : Prop where
  up : ∀ {b k}, P b → b.lineUp k = true → Q k
  line : ∀ {b k} x, Q k → P b → P (b.setLine k x)
  send : ∀ {b} m, P b → P (b.send m)
  free : ∀ {b}, P b → P b.free.2
  capped : ∀ {b} n, P b → P (b.bump .bwClTally Fld.bwClTallyCapped n)
  count : ∀ {b} slot i n, P b → P (b.count slot i n)

namespace SendRule

variable {Q : Nat → Prop} {P : Body → Prop} (h : SendRule Q P) {b : Body}
include h

theorem pump {k : Nat} (hk : Q k) (hb : P b) : P (b.pump k) :=
  pumpN_inv k P (fun _ y m _ hc => h.send m (h.line y hk hc)) _ b hb

theorem lineSend {k vc : Nat} {m : Msg} {uid granule : Option Nat} (hk : Q k) (hb : P b) : P (b.lineSend k vc m uid granule) := by
  have hsent := h.send { m with port := .line k } hb
  have hcapped : ∀ (p : Prop) [Decidable p] (c : Body) n, P c → P (if p then c.bump .bwClTally Fld.bwClTallyCapped n else c) :=
    fun p _ c n hc => by
      split
      · exact h.capped n hc
      · exact hc
  unfold Body.lineSend
  dsimp only
  refine h.pump hk (h.line _ hk ?_)
  split
  · exact h.count _ _ _ (hcapped _ _ _ hsent)
  · exact hcapped _ _ _ hsent

theorem pickLine {m vc : Nat} {part : Option Nat} (hb : P b) :
    P (b.pickLine m part vc).2 ∧ ∀ k, (b.pickLine m part vc).1 = some k → Q k := by
  have hbundle : ∀ k ∈ b.bundle m part vc, Q k := fun k hk => by
    unfold Body.bundle at hk
    dsimp only at hk
    split at hk
    · cases hk
    · have hup := (List.mem_filter.mp hk).2
      simp only [Bool.and_eq_true] at hup
      exact h.up hb hup.1.1
  unfold Body.pickLine
  split
  · exact ⟨hb, nofun⟩
  · exact ⟨h.free hb, fun k hk => hbundle k (List.mem_of_getElem? hk)⟩

theorem groupSend {m vc : Nat} {kind : MsgKind} {nums : List Nat} {data : List Byte} {uid : Option Nat} (hb : P b) :
    P (b.groupSend m vc kind nums data uid) := by
  obtain ⟨hpicked, hline⟩ := h.pickLine (m := m) (vc := vc) (part := none) hb
  unfold Body.groupSend
  split
  next k c hpick =>
    rw [hpick] at hpicked hline
    exact h.lineSend (hline k rfl) hpicked
  next c hpick =>
    rw [hpick] at hpicked
    exact hpicked

end SendRule

/-- What groups that break and the Twin's link keep. -/
structure LinkRule (Q : Nat → Prop) (P : Body → Prop) : Prop extends SendRule Q P where
  group : ∀ {b i} v, P b → P (b.setF (.bwGroupStat i) Fld.bwGroupStatState v)
  twin : ∀ {b} v, P b → P (b.setF .bwTwinStat Fld.bwTwinStatState v)
  err : ∀ {b} code sev kind unit d st ctx, P b → P (b.err code sev kind unit d st ctx)
  done : ∀ {b} fl r, P b → P (b.done fl r)
  fail : ∀ {b} fl st d0 d1, P b → P (b.fail fl st d0 d1)
  ln : ∀ {b : Body} (y : Lines), y.lines = b.ln.lines → P b → P { b with ln := y }

namespace LinkRule

variable {Q : Nat → Prop} {P : Body → Prop} (h : LinkRule Q P) {b : Body}
include h

theorem endRuns {i st : Nat} (hb : P b) : P (b.endRuns i st) := by
  unfold Body.endRuns
  dsimp only
  refine foldl_inv P _ _ _ (foldl_inv P _ _ _ (h.ln _ rfl hb) fun c r hc => h.fail _ _ _ _ hc) fun c p hc => ?_
  split
  · exact h.done _ _ hc
  · exact hc

theorem breakGroup {i cause : Nat} (hb : P b) : P (b.breakGroup i cause) := by
  unfold Body.breakGroup
  split
  · exact hb
  · have hruns : ∀ d ctx, P (((b.setF (.bwGroupStat i) Fld.bwGroupStatState 3).err 0x0603 1 3 0 d 0 ctx).endRuns i 0x21) :=
      fun d ctx => h.endRuns (h.err _ _ _ _ _ _ _ (h.group 3 hb))
    have hgroups : ∀ (c : Body) g, P c → P { c with ln.groups := g } := fun c g hc => h.ln { c.ln with groups := g } rfl hc
    dsimp only
    refine foldl_inv P _ _ _ ?_ fun c m hc => h.groupSend hc
    split
    · exact h.fail _ _ _ _ (hgroups _ _ (hruns _ _))
    · exact hruns _ _

theorem checkGroups (hb : P b) : P b.checkGroups :=
  foldl_inv P _ _ _ hb fun c i hc => by
    split
    · exact h.breakGroup hc
    · exact hc

theorem twinLink (hb : P b) : P b.twinLink := by
  unfold Body.twinLink
  dsimp only
  split
  · split
    · exact h.twin 0 (foldl_inv P _ _ _ (h.ln _ rfl hb) fun c fl hc => h.fail _ _ _ _ hc)
    · exact hb
  · split
    · exact h.twin 1 hb
    · exact hb

end LinkRule

end Sys2Proof.Machine
end

section
/-! PROOFS. Lines train, retrain and go DOWN (R348, R352, R353). -/

namespace Sys2Proof.Machine

/-! ### LN_STAT of a Line -/

section
variable {l : Nat} (hl : l < 36)
include hl

theorem lnStat_ok : (Reg.lnStat l).ok = true := decide_eq_true hl

theorem lnCfg_ok : (Reg.lnCfg l).ok = true := decide_eq_true hl

theorem unnoted_lnStat : (Reg.lnStat l).Unnoted := by
  constructor <;> simp only [Reg.addr] <;> omega

theorem unnoted_lnCfg : (Reg.lnCfg l).Unnoted := by
  constructor <;> simp only [Reg.addr] <;> omega

end

theorem lnStat_stored (l : Nat) : (Reg.lnStat l).stored := by simp [Reg.stored]

theorem lnCfg_stored (l : Nat) : (Reg.lnCfg l).stored := by simp [Reg.stored]

/-- A Line's LN_STAT is `w`, the commands of `pre` have ended, and unless the Line is UP it holds `x`. -/
structure LineHeld (l : Nat) (w : Word) (x : LineInfo) (pre : List Ended) (c : Body) : Prop where
  stat : c.reg (.lnStat l) = w
  ended : pre <+: c.hm.ended
  held : w.fld 2 0 ≠ 2 → c.line l = x

namespace LineHeld

variable {l : Nat} {w : Word} {x : LineInfo} {pre : List Ended} {c d : Body}

theorem beside (h : LineHeld l w x pre c) (hstat : d.reg (.lnStat l) = c.reg (.lnStat l)) (hended : c.hm.ended <+: d.hm.ended)
    (hline : d.line l = c.line l) : LineHeld l w x pre d :=
  ⟨hstat.trans h.stat, h.ended.trans hended, fun hw => hline.trans (h.held hw)⟩

/-- A change to a register elsewhere. -/
theorem setF (h : LineHeld l w x pre c) {r : Reg} (hr : r.ok = true → (Reg.lnStat l).addr ≠ r.addr) (f : Fld) (v : Nat) :
    LineHeld l w x pre (c.setF r f v) :=
  h.beside (Body.reg_setF_of_ok_ne c f v hr) (by rw [Body.setF_hm]) (line_congr (Body.setF_ln _ _ _ _) l)

theorem bump (h : LineHeld l w x pre c) {r : Reg} (hr : r.ok = true → (Reg.lnStat l).addr ≠ r.addr) (f : Fld) (n : Nat) :
    LineHeld l w x pre (c.bump r f n) := h.setF hr f _

theorem log (h : LineHeld l w x pre c) (kind unit code status ctx tag arg : Nat) :
    LineHeld l w x pre (c.log kind unit code status ctx tag arg) :=
  h.beside (Body.log_reg _ _ _ _ _ _ _ _ _) (by rw [Body.log_hm]) (line_congr (Body.log_ln _ _ _ _ _ _ _ _) l)

section
variable (hl : l < 36) (h : LineHeld l w x pre c)
include hl h

theorem err (code sev kind unit : Nat) (d : List Nat) (st ctx : Nat) : LineHeld l w x pre (c.err code sev kind unit d st ctx) :=
  h.beside ((unnoted_lnStat hl).error _ _ _ _ _ _ _ _) (by rw [Body.err_hm]) (line_congr (Body.err_ln _ _ _ _ _ _ _ _) l)

theorem count (slot i n : Nat) : LineHeld l w x pre (c.count slot i n) :=
  h.beside ((unnoted_lnStat hl).count _ _ _ _) (by rw [Body.count_hm]) (line_congr (Body.count_ln _ _ _ _) l)

theorem done (fl : Flight) (r : Nat) : LineHeld l w x pre (c.done fl r) :=
  h.beside ((unnoted_lnStat hl).done _ _ _) (by rw [Body.done_ended]; exact List.prefix_append _ _) (line_congr (Body.done_ln _ _ _) l)

theorem fail (fl : Flight) (st d0 d1 : Nat) : LineHeld l w x pre (c.fail fl st d0 d1) := by
  obtain ⟨⟨e, hended, -⟩, -⟩ := Body.endsWith_fail fl st d0 d1 (rfl : c.hm.ended = c.hm.ended)
  exact h.beside ((unnoted_lnStat hl).fail _ _ _ _ _) (by rw [hended]; exact List.prefix_append _ _) (line_congr (Body.fail_ln _ _ _ _ _) l)

end

theorem bwGroupStat_ne {l : Nat} (hl : l < 36) (i : Nat) : (Reg.lnStat l).addr ≠ (Reg.bwGroupStat i).addr := by
  simp only [Reg.addr]; omega

/-- Messages, broken groups and the Twin's link leave a Line's LN_STAT alone, and unless the Line is UP what it holds. -/
theorem linkRule (hl : l < 36) : LinkRule (fun k => w.fld 2 0 = 2 ∨ k ≠ l) (LineHeld l w x pre) where
  up := fun {b k} h hup => by
    by_cases hk : k = l
    · subst hk
      have hstate : b.lineState k = 2 := of_decide_eq_true hup
      rw [Body.lineState, Body.getF, h.stat] at hstate
      exact .inl hstate
    · exact .inr hk
  line := fun {b k} y hk h => ⟨h.stat, h.ended, fun hw => by
    rw [line_setLine_ne b (Ne.symm (hk.resolve_left hw)), h.held hw]⟩
  send := fun _ h => h.beside rfl (List.prefix_refl _) rfl
  free := fun h => h.beside rfl (List.prefix_refl _) rfl
  capped := fun n h => h.bump (fun _ => by simp only [Reg.addr]; omega) _ n
  count := fun slot i n h => h.count hl slot i n
  group := fun v h => h.setF (fun _ => bwGroupStat_ne hl _) _ v
  twin := fun v h => h.setF (fun _ => by simp only [Reg.addr]; omega) _ v
  err := fun code sev kind unit d st ctx h => h.err hl code sev kind unit d st ctx
  done := fun fl r h => h.done hl fl r
  fail := fun fl st d0 d1 h => h.fail hl fl st d0 d1
  ln := fun {b} y hy h => h.beside rfl (List.prefix_refl _) (by rw [Body.line, hy, Body.line])

section
variable (hl : l < 36) (h : LineHeld l w x pre c)
include hl h

theorem pushTaken (uid : Nat) (taken : Bool) : LineHeld l w x pre (c.pushTaken uid taken) := by
  have hb : LineHeld l w x pre { c with tele.push.acked := true, tele.push.uid := none } := h.beside rfl (List.prefix_refl _) rfl
  unfold Body.pushTaken
  split
  · dsimp only
    split
    · exact hb.bump (fun _ => by simp only [Reg.addr]; omega) _ 1
    · exact hb
  · exact h

theorem lostUid (uid : Nat) : LineHeld l w x pre (c.lostUid uid) := by
  have hb := h.pushTaken hl uid false
  unfold Body.lostUid
  dsimp only
  split
  · refine LineHeld.fail hl ?_ _ _ _ _
    exact hb.beside rfl (List.prefix_refl _) rfl
  · exact hb.beside rfl (List.prefix_refl _) rfl

theorem probeLost (k : Nat) : LineHeld l w x pre (c.probeLost k) := by
  unfold Body.probeLost
  split
  · split
    · refine LineHeld.fail hl ?_ _ _ _ _
      exact h.beside rfl (List.prefix_refl _) rfl
    · exact h
  · exact h

end

end LineHeld

/-! ### A Line goes DOWN -/

/-- LN_STAT as a Line that goes DOWN leaves it. -/
def Body.downStat (b : Body) (l st : Nat) : Body := (b.setF (.lnStat l) Fld.lnStatState st).setF (.lnStat l) Fld.lnStatLanes 0

theorem lineState_downStat (b : Body) {l st : Nat} (hl : l < 36) (hst : st < 8) : (b.downStat l st).lineState l = st := by
  rw [Body.lineState, Body.downStat, getF_setF_fields _ _ (lnStat_ok hl) (lnStat_stored l) (by decide), if_neg (by decide),
    getF_setF_fields _ _ (lnStat_ok hl) (lnStat_stored l) (by decide), if_pos rfl]
  exact Nat.mod_eq_of_lt hst

/-- A Line that has gone DOWN holds nothing, whatever follows from it. -/
theorem lineHeld_lineDown (b : Body) {l st : Nat} (hl : l < 36) (hst : st < 8) (hne : st ≠ 2) :
    LineHeld l ((b.downStat l st).reg (.lnStat l)) {} b.hm.ended (b.lineDown l st) := by
  have hstate : ((b.downStat l st).reg (.lnStat l)).fld 2 0 ≠ 2 := fun h => hne ((lineState_downStat b hl hst).symm.trans h)
  have hset : LineHeld l ((b.downStat l st).reg (.lnStat l)) {} b.hm.ended ((b.downStat l st).setLine l {}) := by
    refine ⟨rfl, ?_, fun _ => line_setLine _ _ _⟩
    show _ <+: ((b.setF _ _ _).setF _ _ _).hm.ended
    rw [Body.setF_hm, Body.setF_hm]
  have hrule := LineHeld.linkRule (w := (b.downStat l st).reg (.lnStat l)) (x := {}) (pre := b.hm.ended) hl
  unfold Body.lineDown
  dsimp only
  refine hrule.twinLink (hrule.checkGroups (LineHeld.log (LineHeld.probeLost hl ?_ l) _ _ _ _ _ _ _))
  refine foldl_inv _ _ _ _ (foldl_inv _ _ _ _ ?_ fun c u hc => hc.lostUid hl u) fun c f hc => hc.done hl f 0
  split
  · exact hset.err hl _ _ _ _ _ _ _
  · exact hset

theorem lineDown_down (b : Body) {l st : Nat} (hl : l < 36) (hst : st < 8) (hne : st ≠ 2) :
    (b.lineDown l st).lineState l = st ∧ (b.lineDown l st).line l = {} := by
  obtain ⟨hstat, -, hheld⟩ := lineHeld_lineDown b hl hst hne
  have hstate := lineState_downStat b hl hst
  exact ⟨by rw [Body.lineState, Body.getF, hstat]; exact hstate, hheld fun h => hne (hstate.symm.trans h)⟩

theorem reg_setLine (b : Body) (l : Nat) (x : LineInfo) (q : Reg) : (b.setLine l x).reg q = b.reg q := Body.reg_congr rfl q

/-! ### Training (R348, R352) -/

/-- An operating point names at most P5 and lanes of a Line of four. -/
theorem bounds_of_mem_pointsOf {a b : Nat} {p : Nat × Nat} (h : p ∈ pointsOf a b) : p.1 ≤ 5 ∧ p.2 ≤ 15 := by
  have hone : ∀ w : Nat, ((List.range 4).find? fun i => w.testBit i).elim 0 (fun i => 2 ^ i) ≤ 15 := fun w => by
    cases hfind : (List.range 4).find? fun i => w.testBit i with
    | none => exact Nat.zero_le _
    | some i =>
      have hi : i < 4 := List.mem_range.mp (List.mem_of_find?_eq_some hfind)
      exact (Nat.pow_le_pow_right (by decide) (Nat.le_of_lt_succ hi)).trans (by decide : 2 ^ 3 ≤ 15)
  have hlo : ∀ w : Nat, (if decide (w &&& 3 = 3) then 3 else 12) ≤ 15 := fun w => by split <;> decide
  have hpick : ∀ (q : Prop) [Decidable q] (x : Nat × Nat), p ∈ (if q then [x] else []) → p = x := fun q _ x hx => by
    split at hx
    · exact List.mem_singleton.mp hx
    · cases hx
  unfold pointsOf at h
  dsimp only at h
  simp only [List.mem_append] at h
  obtain ((((h | h) | h) | h) | h) | h := h <;> rw [hpick _ _ h]
  · exact ⟨by decide, le_refl _⟩
  · exact ⟨by decide, le_refl _⟩
  · exact ⟨(by decide : 2 ≤ 5), hlo _⟩
  · exact ⟨(by decide : 3 ≤ 5), hlo _⟩
  · exact ⟨(by decide : 4 ≤ 5), hone _⟩
  · exact ⟨(by decide : 5 ≤ 5), hone _⟩

/-- LN_STAT as a Line that comes UP leaves it, but for DOWNSHIFTS. -/
def Body.upStat (b : Body) (l pt lanes peer : Nat) : Body :=
  (((b.setF (.lnStat l) Fld.lnStatState 2).setF (.lnStat l) Fld.lnStatPoint pt).setF (.lnStat l) Fld.lnStatLanes lanes).setF
    (.lnStat l) Fld.lnStatPeer peer

/-- A body whose Line has come UP, its downshift counted. -/
def Body.shifted (b : Body) (l pt lanes peer : Nat) : Body :=
  if b.getF (.lnCfg l) Fld.lnCfgPin ≥ 6 ∧ pt > b.getF (.lnStat l) Fld.lnStatPoint then
    ((b.upStat l pt lanes peer).bump (.lnStat l) Fld.lnStatDownshifts 1).err 0x0602 0 4 l [b.getF (.lnStat l) Fld.lnStatPoint, pt, lanes]
  else b.upStat l pt lanes peer

/-- A Line that has come UP, with no LN_CTL waiting. -/
def LineInfo.trained (x : LineInfo) : LineInfo := { x with resends := 0, uncorr := 0, rise := false, ctl := [] }

/-- The body in which the LN_CTLs that waited for a Line have ended. -/
def Body.ctlDone (b : Body) (l pt lanes peer : Nat) : Body :=
  (b.line l).ctl.foldl (fun b fl => b.done fl) (((b.shifted l pt lanes peer).log 4 l 0x0B 0 0xFFFF 0 2).setLine l (b.line l).trained)

/-- A Line comes UP. -/
def Body.comeUp (b : Body) (l pt lanes peer : Nat) : Body := (((b.ctlDone l pt lanes peer).resend l).pump l).checkGroups.twinLink

/-- The point and lanes that a Line comes UP at. -/
def Body.trainPick (b : Body) (l l200 l100 : Nat) : Option (Nat × Nat) :=
  if b.getF (.lnCfg l) Fld.lnCfgPin < 6 then
    (pointsOf l200 (l100 ||| l200)).find? fun p => decide (p.1 = b.getF (.lnCfg l) Fld.lnCfgPin)
  else (pointsOf l200 (l100 ||| l200)).find? fun p => (b.line l).rise || decide (p.1 ≥ b.getF (.lnStat l) Fld.lnStatPoint)

theorem trainPick_mem {b : Body} {l l200 l100 : Nat} {p : Nat × Nat} (h : b.trainPick l l200 l100 = some p) :
    p ∈ pointsOf l200 (l100 ||| l200) := by
  unfold Body.trainPick at h
  split at h
  · exact List.mem_of_find?_eq_some h
  · exact List.mem_of_find?_eq_some h

section
variable {s : State} {l : Fin 36} {w h : BitVec 4} {peer : BitVec 16}

theorem exec_lineTrainingDone : exec (.lineTrainingDone l w h peer) s = s.onBody fun b =>
    if b.lineState l ≠ 1 ∧ b.lineState l ≠ 3 then b
    else match b.trainPick l w.toNat h.toNat with
      | none => b.lineDown l 0
      | some (pt, lanes) => if peer.toNat = b.self then b.lineDown l 0 else b.comeUp l pt lanes peer.toNat := rfl

theorem exec_lineTrainingDone_of_down (hst : s.body.lineState l = 1 ∨ s.body.lineState l = 3)
    (hdown : s.body.trainPick l w.toNat h.toNat = none ∨ peer.toNat = s.body.self) :
    exec (.lineTrainingDone l w h peer) s = .next { s with body := s.body.lineDown l 0 } := by
  rw [exec_lineTrainingDone, State.onBody, if_neg (by omega)]
  split
  · rfl
  next hpick =>
    have hself := hdown.resolve_left (by rw [hpick]; nofun)
    rw [if_pos hself]

theorem exec_lineTrainingDone_of_up {pt lanes : Nat} (hst : s.body.lineState l = 1 ∨ s.body.lineState l = 3)
    (hpick : s.body.trainPick l w.toNat h.toNat = some (pt, lanes)) (hpeer : peer.toNat ≠ s.body.self) :
    exec (.lineTrainingDone l w h peer) s = .next { s with body := s.body.comeUp l pt lanes peer.toNat } := by
  rw [exec_lineTrainingDone, State.onBody, if_neg (by omega), hpick]
  dsimp only
  rw [if_neg hpeer]

end

section
variable (b : Body) {l : Nat} (hl : l < 36) (pt lanes peer : Nat)
include hl

theorem getF_upStat (hpt : pt < 8) (hlanes : lanes < 16) (hpeer : peer < 65536) :
    (b.upStat l pt lanes peer).getF (.lnStat l) Fld.lnStatState = 2 ∧
      (b.upStat l pt lanes peer).getF (.lnStat l) Fld.lnStatPoint = pt ∧
      (b.upStat l pt lanes peer).getF (.lnStat l) Fld.lnStatLanes = lanes ∧
      (b.upStat l pt lanes peer).getF (.lnStat l) Fld.lnStatPeer = peer ∧
      (b.upStat l pt lanes peer).getF (.lnStat l) Fld.lnStatDownshifts = b.getF (.lnStat l) Fld.lnStatDownshifts := by
  have hset (c : Body) {f g : Fld} (v : Nat) := getF_setF_fields c (f := f) (g := g) v (lnStat_ok hl) (lnStat_stored l)
  unfold Body.upStat
  refine ⟨?_, ?_, ?_, ?_, ?_⟩
  · rw [hset _ _ (by decide), if_neg (by decide), hset _ _ (by decide), if_neg (by decide), hset _ _ (by decide), if_neg (by decide),
      hset _ _ (by decide), if_pos rfl]
    rfl
  · rw [hset _ _ (by decide), if_neg (by decide), hset _ _ (by decide), if_neg (by decide), hset _ _ (by decide), if_pos rfl]
    exact Nat.mod_eq_of_lt hpt
  · rw [hset _ _ (by decide), if_neg (by decide), hset _ _ (by decide), if_pos rfl]
    exact Nat.mod_eq_of_lt hlanes
  · rw [hset _ _ (by decide), if_pos rfl]
    exact Nat.mod_eq_of_lt hpeer
  · rw [hset _ _ (by decide), if_neg (by decide), hset _ _ (by decide), if_neg (by decide), hset _ _ (by decide), if_neg (by decide),
      hset _ _ (by decide), if_neg (by decide)]

/-- LN_STAT of a Line that has come UP. -/
theorem getF_shifted (hpt : pt < 8) (hlanes : lanes < 16) (hpeer : peer < 65536) :
    (b.shifted l pt lanes peer).getF (.lnStat l) Fld.lnStatState = 2 ∧
      (b.shifted l pt lanes peer).getF (.lnStat l) Fld.lnStatPoint = pt ∧
      (b.shifted l pt lanes peer).getF (.lnStat l) Fld.lnStatLanes = lanes ∧
      (b.shifted l pt lanes peer).getF (.lnStat l) Fld.lnStatPeer = peer ∧
      Counted b (b.shifted l pt lanes peer) (.lnStat l) Fld.lnStatDownshifts
        (if 6 ≤ b.getF (.lnCfg l) Fld.lnCfgPin ∧ b.getF (.lnStat l) Fld.lnStatPoint < pt then 1 else 0) := by
  obtain ⟨hstate, hpoint, hlane, hpeers, hshifts⟩ := getF_upStat b hl pt lanes peer hpt hlanes hpeer
  unfold Body.shifted
  split
  · have herr (c : Body) (d : List Nat) (f : Fld) : (c.err 0x0602 0 4 l d).getF (.lnStat l) f = c.getF (.lnStat l) f := by
      rw [Body.getF, (unnoted_lnStat hl).error, Body.getF]
    have hbump {f : Fld} (hf) := (herr ((b.upStat l pt lanes peer).bump (.lnStat l) Fld.lnStatDownshifts 1)
      [b.getF (.lnStat l) Fld.lnStatPoint, pt, lanes] f).trans
      (getF_bump_fields (b.upStat l pt lanes peer) (f := Fld.lnStatDownshifts) 1 (lnStat_ok hl) (lnStat_stored l) hf)
    refine ⟨?_, ?_, ?_, ?_, ?_⟩
    · rw [hbump (by decide), if_neg (by decide), hstate]
    · rw [hbump (by decide), if_neg (by decide), hpoint]
    · rw [hbump (by decide), if_neg (by decide), hlane]
    · rw [hbump (by decide), if_neg (by decide), hpeers]
    · rw [Counted, hbump (by decide), if_pos rfl, hshifts]
  · exact ⟨hstate, hpoint, hlane, hpeers, (counted_zero _ _ _).of_getF hshifts⟩

end

theorem ended_foldl_done (fls : List Flight) (b : Body) {f : Flight} (hf : f ∈ fls) :
    ∃ e ∈ (fls.foldl (fun b fl => b.done fl) b).hm.ended, e.fl.uid = f.uid ∧ e.status = 0 := by
  induction fls generalizing b with
  | nil => cases hf
  | cons g r ih =>
    rw [List.foldl_cons]
    by_cases hr : f ∈ r
    · exact ih _ hr
    · obtain rfl := (List.mem_cons.mp hf).resolve_right hr
      obtain ⟨⟨e, hended, huid, -, hstatus, -⟩, -⟩ := Body.endsWith_done f 0 (rfl : b.hm.ended = b.hm.ended)
      have hkept : (b.done f).hm.ended <+: (r.foldl (fun b fl => b.done fl) (b.done f)).hm.ended :=
        foldl_inv (fun c : Body => (b.done f).hm.ended <+: c.hm.ended) _ _ _ (List.prefix_refl _) fun c g hc =>
          hc.trans (by rw [Body.done_ended]; exact List.prefix_append _ _)
      exact ⟨e, hkept.subset (by rw [hended]; simp), huid, hstatus⟩

/-- What a Line that has come UP shows, and the LN_CTLs that have ended, stand whatever follows. -/
theorem lineHeld_comeUp (b : Body) {l : Nat} (hl : l < 36) {pt lanes peer : Nat}
    (hup : ((b.shifted l pt lanes peer).reg (.lnStat l)).fld 2 0 = 2) :
    LineHeld l ((b.shifted l pt lanes peer).reg (.lnStat l)) {} (b.ctlDone l pt lanes peer).hm.ended (b.comeUp l pt lanes peer) := by
  have hrule := LineHeld.linkRule (w := (b.shifted l pt lanes peer).reg (.lnStat l)) (x := {})
    (pre := (b.ctlDone l pt lanes peer).hm.ended) hl
  have hstat : (b.ctlDone l pt lanes peer).reg (.lnStat l) = (b.shifted l pt lanes peer).reg (.lnStat l) :=
    (foldl_keep (fun b : Body => b.reg (.lnStat l)) _ _ _ fun c f => (unnoted_lnStat hl).done c f 0).trans
      ((reg_setLine _ _ _ _).trans (Body.log_reg _ _ _ _ _ _ _ _ _))
  have hdone : LineHeld l ((b.shifted l pt lanes peer).reg (.lnStat l)) {} (b.ctlDone l pt lanes peer).hm.ended
      (b.ctlDone l pt lanes peer) := ⟨hstat, List.prefix_refl _, fun h => absurd hup h⟩
  refine hrule.twinLink (hrule.checkGroups (hrule.pump (.inl hup) ?_))
  rw [resend_eq]
  exact (hdone.bump (fun _ => by simp only [Reg.addr]; omega) _ _).beside rfl (List.prefix_refl _) rfl

theorem comeUp_up (b : Body) {l : Nat} (hl : l < 36) {pt lanes peer : Nat} (hpt : pt ≤ 5) (hlanes : lanes ≤ 15) (hpeer : peer < 65536) :
    (b.comeUp l pt lanes peer).lineUp l = true ∧ (b.comeUp l pt lanes peer).getF (.lnStat l) Fld.lnStatPoint = pt ∧
      (b.comeUp l pt lanes peer).getF (.lnStat l) Fld.lnStatLanes = lanes ∧
      (b.comeUp l pt lanes peer).getF (.lnStat l) Fld.lnStatPeer = peer ∧
      Counted b (b.comeUp l pt lanes peer) (.lnStat l) Fld.lnStatDownshifts
        (if 6 ≤ b.getF (.lnCfg l) Fld.lnCfgPin ∧ b.getF (.lnStat l) Fld.lnStatPoint < pt then 1 else 0) ∧
      ∀ f ∈ (b.line l).ctl, ∃ e ∈ (b.comeUp l pt lanes peer).hm.ended, e.fl.uid = f.uid ∧ e.status = 0 := by
  obtain ⟨hstate, hpoint, hlane, hpeers, hshifts⟩ := getF_shifted b hl pt lanes peer (by omega) (by omega) hpeer
  obtain ⟨hstat, hended, -⟩ := lineHeld_comeUp b hl hstate
  have hget (f : Fld) : (b.comeUp l pt lanes peer).getF (.lnStat l) f = (b.shifted l pt lanes peer).getF (.lnStat l) f := by
    rw [Body.getF, hstat, Body.getF]
  refine ⟨decide_eq_true ((hget _).trans hstate), (hget _).trans hpoint, (hget _).trans hlane, (hget _).trans hpeers,
    hshifts.of_getF (hget _), fun f hf => ?_⟩
  obtain ⟨e, he, hend⟩ := ended_foldl_done _ _ hf
  exact ⟨e, hended.subset he, hend⟩

/-! ### Retraining (R352) -/

/-- LN_STAT as a Line that begins to train leaves it. -/
def Body.trainStat (b : Body) (l : Nat) : Body :=
  if b.lineState l = 2 ∨ b.lineState l = 3 then (b.setF (.lnStat l) Fld.lnStatState 3).bump (.lnStat l) Fld.lnStatRetrains 1
  else b.setF (.lnStat l) Fld.lnStatState 1

/-- A Line that begins to train. -/
def LineInfo.training (x : LineInfo) (st : Nat) (rise : Bool) : LineInfo :=
  { x with rise := rise || x.rise && decide (st = 1 ∨ st = 3), resends := 0, uncorr := 0 }

theorem trainLine_eq (b : Body) (l : Nat) (rise : Bool) : ∃ st, b.trainLine l rise =
    ((b.setLine l ((b.line l).training (b.lineState l) rise)).trainStat l).log 4 l 0x0B 0 0xFFFF 0 st := by
  have hstate : (b.setLine l ((b.line l).training (b.lineState l) rise)).lineState l = b.lineState l := Body.getF_congr rfl _ _
  unfold Body.trainLine Body.trainStat
  rw [hstate]
  by_cases hup : b.lineState l = 2 ∨ b.lineState l = 3
  · simp only [hup, if_true]
    exact ⟨3, rfl⟩
  · simp only [hup, if_false]
    exact ⟨1, rfl⟩

section
variable (b : Body) {l : Nat} (hl : l < 36)

theorem line_trainLine (rise : Bool) : (b.trainLine l rise).line l = (b.line l).training (b.lineState l) rise := by
  obtain ⟨st, htrain⟩ := trainLine_eq b l rise
  rw [htrain, line_congr (Body.log_ln _ _ _ _ _ _ _ _) l]
  unfold Body.trainStat
  split
  · rw [line_congr (Body.bump_ln _ _ _ _) l, line_congr (Body.setF_ln _ _ _ _) l, line_setLine]
  · rw [line_congr (Body.setF_ln _ _ _ _) l, line_setLine]

theorem sameBut_trainLine (rise : Bool) : SameBut [(Reg.lnStat l).addr] b (b.trainLine l rise) := by
  obtain ⟨st, htrain⟩ := trainLine_eq b l rise
  have hmem := List.mem_singleton_self (Reg.lnStat l).addr
  have hset : SameBut [(Reg.lnStat l).addr] b (b.setLine l ((b.line l).training (b.lineState l) rise)) :=
    (SameBut.refl _ b).beside rfl rfl rfl rfl rfl
  rw [htrain]
  refine SameBut.log ?_ _ _ _ _ _ _ _
  unfold Body.trainStat
  split
  · exact (hset.setF hmem _ _).bump hmem _ _
  · exact hset.setF hmem _ _

theorem hm_trainLine (rise : Bool) : (b.trainLine l rise).hm = b.hm := by
  obtain ⟨st, htrain⟩ := trainLine_eq b l rise
  rw [htrain, Body.log_hm]
  unfold Body.trainStat
  split
  · rw [Body.bump_hm, Body.setF_hm]; rfl
  · rw [Body.setF_hm]; rfl

theorem reg_trainLine (rise : Bool) {q : Reg} (hq : q.addr ≠ (Reg.lnStat l).addr) : (b.trainLine l rise).reg q = b.reg q := by
  obtain ⟨st, htrain⟩ := trainLine_eq b l rise
  rw [htrain, Body.log_reg]
  unfold Body.trainStat
  split
  · rw [Body.bump, Body.reg_setF_ne _ _ _ hq, Body.reg_setF_ne _ _ _ hq, reg_setLine]
  · rw [Body.reg_setF_ne _ _ _ hq, reg_setLine]

include hl

theorem lineState_trainStat : (b.trainStat l).lineState l = if b.lineState l = 2 ∨ b.lineState l = 3 then 3 else 1 := by
  unfold Body.trainStat
  split
  · rw [Body.lineState, getF_bump_fields _ _ (lnStat_ok hl) (lnStat_stored l) (by decide), if_neg (by decide),
      getF_setF_fields _ _ (lnStat_ok hl) (lnStat_stored l) (by decide), if_pos rfl]
    rfl
  · rw [Body.lineState, getF_setF_fields _ _ (lnStat_ok hl) (lnStat_stored l) (by decide), if_pos rfl]
    rfl

theorem retrains_trainStat (hup : b.lineState l = 2 ∨ b.lineState l = 3) :
    Counted b (b.trainStat l) (.lnStat l) Fld.lnStatRetrains 1 := by
  rw [Body.trainStat, if_pos hup]
  refine counted_from (counted_bump _ 1 (lnStat_ok hl) (lnStat_stored l) (by decide) (by decide)) ?_
  rw [getF_setF_fields _ _ (lnStat_ok hl) (lnStat_stored l) (by decide), if_neg (by decide)]

theorem lineState_trainLine (rise : Bool) :
    (b.trainLine l rise).lineState l = if b.lineState l = 2 ∨ b.lineState l = 3 then 3 else 1 := by
  obtain ⟨st, htrain⟩ := trainLine_eq b l rise
  rw [htrain, Body.lineState, Body.log_getF]
  exact lineState_trainStat _ hl

theorem retrains_trainLine (rise : Bool) (hup : b.lineState l = 2 ∨ b.lineState l = 3) :
    Counted b (b.trainLine l rise) (.lnStat l) Fld.lnStatRetrains 1 := by
  obtain ⟨st, htrain⟩ := trainLine_eq b l rise
  rw [htrain]
  exact counted_from ((retrains_trainStat (b.setLine l _) hl hup).of_getF (Body.log_getF _ _ _ _ _ _ _ _ _ _)) rfl

end

section
variable {s : State} {l : Fin 36}

theorem exec_lineRetrain : exec (.lineRetrain l) s = s.onBody fun b =>
    if b.lineUp l ∧ ((b.line l).resends ≥ 8 ∨ (b.line l).uncorr > 64) then b.trainLine l false else b := rfl

theorem exec_lineRetrain_of_sound (h : s.body.lineUp l = false ∨ ((s.body.line l).resends < 8 ∧ (s.body.line l).uncorr ≤ 64)) :
    exec (.lineRetrain l) s = .next s := by
  rw [exec_lineRetrain, State.onBody, if_neg]
  rintro ⟨hup, hmany⟩
  rw [hup] at h
  simp only [Bool.true_eq_false, false_or] at h
  omega

theorem lineRetrain_trains (hup : s.body.lineUp l = true) (hmany : 8 ≤ (s.body.line l).resends ∨ 64 < (s.body.line l).uncorr) :
    Gives (.lineRetrain l) s fun t => t.lineState l = 3 ∧ Counted s.body t (.lnStat l) Fld.lnStatRetrains 1 ∧
      (t.line l).replay = (s.body.line l).replay ∧ (t.line l).txq = (s.body.line l).txq ∧
      SameRegsBut s.body t [(Reg.lnStat l).addr] ∧ SameBytes s.body t := by
  have hstate : s.body.lineState l = 2 := of_decide_eq_true hup
  have hexec := exec_lineRetrain (s := s) (l := l)
  rw [State.onBody, if_pos ⟨hup, hmany⟩] at hexec
  have hsame := sameBut_trainLine s.body (l := l) false
  exact gives_of_next hexec ⟨by rw [lineState_trainLine _ l.isLt, if_pos (.inl hstate)], retrains_trainLine _ l.isLt _ (.inl hstate),
    by rw [line_trainLine]; rfl, by rw [line_trainLine]; rfl, hsame.regs, hsame.bytes⟩

end

/-! ### LN_CTL (R353) -/

section
variable {b c : Body} {fl : Flight} {l : Nat}

theorem lnRetrain_off (h : b.getF (.lnCfg l) Fld.lnCfgRole = 0) : b.lnRetrain fl l = b.done fl := by
  rw [Body.lnRetrain, if_pos h]

/-- An LN_CTL that trains its Line stays in flight and waits on the Line. -/
theorem lnRetrain_waits {m : List Nat} (hl : l < 36) (hc : SameBut m b c) (hmem : fl ∈ c.hm.flights)
    (h : c.getF (.lnCfg l) Fld.lnCfgRole ≠ 0) : StaysInFlight b (c.lnRetrain fl l) fl ∧
      (c.lnRetrain fl l).lineState l = (if c.lineState l = 2 ∨ c.lineState l = 3 then 3 else 1) ∧
      ((c.lnRetrain fl l).line l).ctl = (c.line l).ctl ++ [fl] ∧ ((c.lnRetrain fl l).line l).rise = true ∧
      (∀ q : Reg, q.addr ≠ (Reg.lnStat l).addr → (c.lnRetrain fl l).reg q = c.reg q) ∧
      SameBut ((Reg.lnStat l).addr :: m) b (c.lnRetrain fl l) := by
  have hline := line_trainLine (c.start fl) (l := l) true
  have hsame : SameBut ((Reg.lnStat l).addr :: m) b ((c.start fl).trainLine l true) :=
    ((hc.start fl).mono (List.subset_cons_self _ _)).trans
      ((sameBut_trainLine (c.start fl) true).mono (List.cons_subset_cons _ (List.nil_subset _)))
  obtain ⟨hended, x, hx, huid⟩ := staysInFlight_start hc.ended hmem
  rw [Body.lnRetrain, if_neg h]
  dsimp only
  refine ⟨⟨?_, x, ?_, huid⟩, ?_, ?_, ?_, fun q hq => ?_, hsame.beside rfl rfl rfl rfl rfl⟩
  · exact (congrArg Harbour.ended (hm_trainLine (c.start fl) (l := l) true)).trans hended
  · exact (congrArg Harbour.flights (hm_trainLine (c.start fl) (l := l) true)).symm ▸ hx
  · exact (Body.getF_congr rfl _ _).trans (lineState_trainLine (c.start fl) hl true)
  · rw [line_setLine, hline]; rfl
  · rw [line_setLine, hline]; rfl
  · rw [reg_setLine, reg_trainLine _ _ hq]; rfl

end

theorem lnLine_fst (c : Cmd) : (lnLine c).1 = min 35 (c.f 1 5 0) := rfl

theorem lineDown_ends (b : Body) (fl : Flight) {l st : Nat} (hl : l < 36) (hst : st < 8) (hne : st ≠ 2) :
    ((b.lineDown l st).done fl).lineState l = st ∧ ((b.lineDown l st).done fl).line l = {} ∧
      ∃ r e, ((b.lineDown l st).done fl).hm.ended = r ++ [e] ∧ e.fl.uid = fl.uid ∧ e.status = 0 := by
  obtain ⟨hstate, hline⟩ := lineDown_down b hl hst hne
  obtain ⟨⟨e, hended, huid, -, hstatus, -⟩, -⟩ := Body.endsWith_done fl 0 (rfl : (b.lineDown l st).hm.ended = (b.lineDown l st).hm.ended)
  refine ⟨?_, (line_congr (Body.done_ln _ _ _) l).trans hline, _, e, hended, huid, hstatus⟩
  rw [Body.lineState, Body.getF, (unnoted_lnStat hl).done]
  exact hstate

section
variable {s : State} {c : Cmd} {fl : Flight} {l : Nat} (hl : l = min 35 (c.f 1 5 0)) (hd : Dispatched s.body c 0x60 fl)
include hl hd

theorem exec_lnCtlRetrain (hop : c.f 1 7 6 = 0) : exec (.lnCtlRetrain c) s = .next { s with
    body := (s.body.clampCmd fl (lnLine c).2).lnRetrain fl l } := by
  rw [exec_onSub hd (decide_eq_true hop) rfl, hl]
  rfl

/-- The body with a Line pinned. -/
def Body.linePinned (b : Body) (fl : Flight) (n l p : Nat) : Body := (b.clampCmd fl n).setF (.lnCfg l) Fld.lnCfgPin p

theorem exec_lnCtlPin {p : Nat} (hp : p = min 5 (c.f 1 10 8)) (hop : c.f 1 7 6 = 1) : ∃ n, exec (.lnCtlPin c) s = .next { s with
    body :=
      if (s.body.linePinned fl n l p).lineUp l ∧ (s.body.linePinned fl n l p).getF (.lnStat l) Fld.lnStatPoint = p then
        (s.body.linePinned fl n l p).done fl
      else (s.body.linePinned fl n l p).lnRetrain fl l } := by
  refine ⟨(lnLine c).2 + (if c.f 1 10 8 > 5 then 1 else 0), ?_⟩
  rw [exec_onSub hd (decide_eq_true hop) rfl, hl, hp]
  rfl

theorem exec_lnCtlUnpin (hop : c.f 1 7 6 = 2) : exec (.lnCtlUnpin c) s = .next { s with
    body := (s.body.linePinned fl (lnLine c).2 l 7).done fl } := by
  rw [exec_onSub hd (decide_eq_true hop) rfl, hl]
  rfl

theorem exec_lnCtlDisable (hop : c.f 1 7 6 = 3) : exec (.lnCtlDisable c) s = .next { s with
    body := ((s.body.clampCmd fl (lnLine c).2).lineDown l 4).done fl } := by
  rw [exec_onSub hd (decide_eq_true hop) rfl, hl]
  rfl

end

section
variable (b : Body) (fl : Flight) (n : Nat) {l : Nat} (hl : l < 36) (p : Nat)

theorem sameBut_pinned : SameBut [(Reg.lnCfg l).addr] b (b.linePinned fl n l p) :=
  ((SameBut.refl _ b).clampCmd fl n).setF (List.mem_singleton_self _) _ _

theorem ln_pinned : (b.linePinned fl n l p).ln = b.ln := by rw [Body.linePinned, Body.setF_ln, Body.clampCmd_ln]

theorem hm_pinned : (b.linePinned fl n l p).hm = b.hm := by rw [Body.linePinned, Body.setF_hm, Body.clampCmd_hm]

include hl

theorem lnStat_pinned (f : Fld) : (b.linePinned fl n l p).getF (.lnStat l) f = b.getF (.lnStat l) f := by
  rw [Body.getF, Body.linePinned, Body.reg_setF_ne _ _ _ (by simp only [Reg.addr]; omega), (unnoted_lnStat hl).clampCmd, Body.getF]

theorem pin_pinned (hp : p < 8) : (b.linePinned fl n l p).getF (.lnCfg l) Fld.lnCfgPin = p := by
  rw [Body.linePinned, getF_setF_fields _ _ (lnCfg_ok hl) (lnCfg_stored l) (by decide), if_pos rfl]
  exact Nat.mod_eq_of_lt hp

theorem role_pinned : (b.linePinned fl n l p).getF (.lnCfg l) Fld.lnCfgRole = b.getF (.lnCfg l) Fld.lnCfgRole := by
  rw [Body.linePinned, getF_setF_fields _ _ (lnCfg_ok hl) (lnCfg_stored l) (by decide), if_neg (by decide), Body.getF,
    (unnoted_lnCfg hl).clampCmd, Body.getF]

theorem lineUp_pinned : (b.linePinned fl n l p).lineUp l = b.lineUp l := by
  rw [Body.lineUp, Body.lineState, lnStat_pinned b fl n hl, Body.lineUp, Body.lineState]

end

section
variable {s : State} {c : Cmd} {fl : Flight} {l : Nat} (hl : l = min 35 (c.f 1 5 0)) (hd : Dispatched s.body c 0x60 fl)
include hl hd

theorem lnCtlRetrain_off (hop : c.f 1 7 6 = 0) (hrole : s.body.getF (.lnCfg l) Fld.lnCfgRole = 0) :
    Gives (.lnCtlRetrain c) s fun t => OnlyEnds s.body t fl 0 0 [] ∧ t.ln = s.body.ln := by
  have hexec := exec_lnCtlRetrain hl hd hop
  rw [lnRetrain_off (by rw [Body.getF, (unnoted_lnCfg (by omega)).clampCmd]; exact hrole)] at hexec
  exact gives_of_next hexec ⟨((SameBut.refl [] s.body).clampCmd fl _).done fl 0, by rw [Body.done_ln, Body.clampCmd_ln]⟩

theorem lnCtlRetrain_trains (hop : c.f 1 7 6 = 0) (hrole : s.body.getF (.lnCfg l) Fld.lnCfgRole ≠ 0) :
    Gives (.lnCtlRetrain c) s fun t => StaysInFlight s.body t fl ∧
      t.lineState l = (if s.body.lineState l = 2 ∨ s.body.lineState l = 3 then 3 else 1) ∧
      (t.line l).ctl = (s.body.line l).ctl ++ [fl] ∧ (t.line l).rise = true ∧ SameBytes s.body t := by
  have hlt : l < 36 := by omega
  have hstate : (s.body.clampCmd fl (lnLine c).2).lineState l = s.body.lineState l := by
    rw [Body.lineState, Body.getF, (unnoted_lnStat hlt).clampCmd, Body.lineState, Body.getF]
  obtain ⟨hstays, hline, hctl, hrise, -, hsame⟩ := lnRetrain_waits (fl := fl) hlt ((SameBut.refl [] s.body).clampCmd fl (lnLine c).2)
    (by rw [Body.clampCmd_hm]; exact hd.mem) (by rw [Body.getF, (unnoted_lnCfg hlt).clampCmd]; exact hrole)
  rw [hstate] at hline
  rw [line_congr (Body.clampCmd_ln _ _ _) l] at hctl
  exact gives_of_next (exec_lnCtlRetrain hl hd hop) ⟨hstays, hline, hctl, hrise, hsame.bytes⟩

theorem lnCtlPin_done {p : Nat} (hp : p = min 5 (c.f 1 10 8)) (hop : c.f 1 7 6 = 1) (hup : s.body.lineUp l = true)
    (hpoint : s.body.getF (.lnStat l) Fld.lnStatPoint = p) : Gives (.lnCtlPin c) s fun t =>
      OnlyEnds s.body t fl 0 0 [(Reg.lnCfg l).addr] ∧ t.getF (.lnCfg l) Fld.lnCfgPin = p := by
  have hlt : l < 36 := by omega
  obtain ⟨n, hexec⟩ := exec_lnCtlPin hl hd hp hop
  rw [lineUp_pinned _ _ _ hlt, lnStat_pinned _ _ _ hlt, if_pos ⟨hup, hpoint⟩] at hexec
  refine gives_of_next hexec ⟨(sameBut_pinned s.body fl n p).done fl 0, ?_⟩
  rw [Body.getF, (unnoted_lnCfg hlt).done]
  exact pin_pinned _ _ _ hlt _ (by omega)

theorem lnCtlPin_trains {p : Nat} (hp : p = min 5 (c.f 1 10 8)) (hop : c.f 1 7 6 = 1)
    (hrole : s.body.getF (.lnCfg l) Fld.lnCfgRole ≠ 0)
    (hout : s.body.lineUp l = false ∨ s.body.getF (.lnStat l) Fld.lnStatPoint ≠ p) : Gives (.lnCtlPin c) s fun t =>
      StaysInFlight s.body t fl ∧ t.getF (.lnCfg l) Fld.lnCfgPin = p ∧ (t.line l).ctl = (s.body.line l).ctl ++ [fl] := by
  have hlt : l < 36 := by omega
  obtain ⟨n, hexec⟩ := exec_lnCtlPin hl hd hp hop
  have hnot : ¬ (s.body.lineUp l = true ∧ s.body.getF (.lnStat l) Fld.lnStatPoint = p) := by
    rintro ⟨hup, hpoint⟩
    exact hout.elim (fun h => by rw [hup] at h; cases h) fun h => h hpoint
  rw [lineUp_pinned _ _ _ hlt, lnStat_pinned _ _ _ hlt, if_neg hnot] at hexec
  obtain ⟨hstays, -, hctl, -, hregs, -⟩ := lnRetrain_waits (fl := fl) hlt (sameBut_pinned s.body fl n (l := l) p)
    (by rw [hm_pinned]; exact hd.mem) (by rw [role_pinned _ _ _ hlt]; exact hrole)
  refine gives_of_next hexec ⟨hstays, ?_, by rw [hctl, line_congr (ln_pinned _ _ _ _) l]⟩
  rw [Body.getF, hregs _ (by simp only [Reg.addr]; omega)]
  exact pin_pinned _ _ _ hlt _ (by omega)

theorem lnCtlUnpin_unpins (hop : c.f 1 7 6 = 2) : Gives (.lnCtlUnpin c) s fun t =>
    OnlyEnds s.body t fl 0 0 [(Reg.lnCfg l).addr] ∧ t.getF (.lnCfg l) Fld.lnCfgPin = 7 ∧ t.ln = s.body.ln := by
  have hlt : l < 36 := by omega
  refine gives_of_next (exec_lnCtlUnpin hl hd hop) ⟨(sameBut_pinned s.body fl _ 7).done fl 0, ?_, ?_⟩
  · rw [Body.getF, (unnoted_lnCfg hlt).done]
    exact pin_pinned _ _ _ hlt _ (by decide)
  · rw [Body.done_ln, ln_pinned]

end

/-- Settles O50, command by command. -/
theorem linesTrain : Obligations.LinesTrain := by
  unfold Obligations.LinesTrain
  intro s
  refine ⟨fun l x hx => ⟨fun h => ?_, fun hup hmany => ?_⟩, fun l w h peer x old pin ps pick hx hold hpin hps hpick => ⟨fun h1 h3 => ?_,
    fun hst => ⟨fun hdown => ?_, fun pt lanes hsome hpeer => ?_⟩⟩, fun c fl l hl hd => ⟨lnCtlRetrain_off hl hd, lnCtlRetrain_trains hl hd,
    fun p hp => lnCtlPin_done hl hd hp, fun p hp => lnCtlPin_trains hl hd hp, lnCtlUnpin_unpins hl hd, fun hop => ?_⟩⟩
  · exact exec_lineRetrain_of_sound (hx ▸ h)
  · rw [hx] at hmany ⊢
    exact lineRetrain_trains hup hmany
  · rw [exec_lineTrainingDone, State.onBody, if_pos ⟨h1, h3⟩]
  · have htrain : s.body.trainPick l w.toNat h.toNat = pick := by rw [hpick, hps, hpin, hx, hold]; rfl
    exact gives_of_next (exec_lineTrainingDone_of_down hst (htrain ▸ hdown)) (lineDown_down s.body l.isLt (by decide) (by decide))
  · have htrain : s.body.trainPick l w.toNat h.toNat = pick := by rw [hpick, hps, hpin, hx, hold]; rfl
    rw [hsome] at htrain
    obtain ⟨hpt, hlanes⟩ := bounds_of_mem_pointsOf (trainPick_mem htrain)
    obtain ⟨hup, hpoint, hlane, hpeers, hshifts, hctl⟩ := comeUp_up s.body l.isLt hpt hlanes peer.isLt
    subst hx hold hpin
    exact gives_of_next (exec_lineTrainingDone_of_up hst htrain hpeer) ⟨hup, hpoint, hlane, hpeers, hshifts, hctl⟩
  · exact gives_of_next (exec_lnCtlDisable hl hd hop) (lineDown_ends _ fl (by omega) (by decide) (by decide))

end Sys2Proof.Machine
end

section
/-! PROOFS. Collective groups (R360-R363): the registers of an entry, what messages leave alone, and how groups join, break and go. -/

namespace Sys2Proof.Machine

/-! ### Registers of groups and Basins -/

section
variable {i : Nat} (hi : i < 64)
include hi

theorem bwGroupStat_ok : (Reg.bwGroupStat i).ok = true := decide_eq_true hi

theorem bwGroupEpoch_ok : (Reg.bwGroupEpoch i).ok = true := decide_eq_true hi

theorem unnoted_bwGroupStat : (Reg.bwGroupStat i).Unnoted := by
  constructor <;> simp only [Reg.addr] <;> omega

theorem unnoted_bwGroupEpoch : (Reg.bwGroupEpoch i).Unnoted := by
  constructor <;> simp only [Reg.addr] <;> omega

end

theorem bwGroupStat_stored (i : Nat) : (Reg.bwGroupStat i).stored := by simp [Reg.stored]

theorem bwGroupEpoch_stored (i : Nat) : (Reg.bwGroupEpoch i).stored := by simp [Reg.stored]

theorem unnoted_bwClTally : Reg.bwClTally.Unnoted := by
  constructor <;> simp only [Reg.addr] <;> omega

theorem lt_of_find_range {n i : Nat} {q : Nat → Bool} (h : (List.range n).find? q = some i) : i < n :=
  List.mem_range.mp (List.mem_of_find?_eq_some h)

theorem groupIndex_spec {b : Body} {id i : Nat} (h : b.groupIndex id = some i) :
    i < 64 ∧ b.groupState i ≠ 0 ∧ b.getF (.bwGroupStat i) Fld.bwGroupStatGroup = id :=
  ⟨lt_of_find_range h, by simpa using List.find?_some h⟩

/-! ### Messages leave groups alone -/

/-- Messages alone lie between: the tables, the group's entry, the commands and memory are as they were. -/
structure GroupHeld (i : Nat) (b c : Body) : Prop where
  groups : c.ln.groups = b.ln.groups
  runs : c.ln.runs = b.ln.runs
  joinsIn : c.ln.joinsIn = b.ln.joinsIn
  stat : c.reg (.bwGroupStat i) = b.reg (.bwGroupStat i)
  epoch : c.reg (.bwGroupEpoch i) = b.reg (.bwGroupEpoch i)
  stale : c.getF .bwClTally Fld.bwClTallyStale = b.getF .bwClTally Fld.bwClTallyStale
  hm : c.hm = b.hm
  memory : c.memory = b.memory
  framing : c.framing = b.framing

theorem GroupHeld.refl (i : Nat) (b : Body) : GroupHeld i b b := ⟨rfl, rfl, rfl, rfl, rfl, rfl, rfl, rfl, rfl⟩

/-- A change to a register apart from the group's and the count of stale messages. -/
theorem GroupHeld.setReg {i : Nat} {b c d : Body} (h : GroupHeld i b c) (hln : d.ln = c.ln) (hhm : d.hm = c.hm)
    (hmemory : d.memory = c.memory) (hframing : d.framing = c.framing)
    (hstat : d.reg (.bwGroupStat i) = c.reg (.bwGroupStat i)) (hepoch : d.reg (.bwGroupEpoch i) = c.reg (.bwGroupEpoch i))
    (hstale : d.getF .bwClTally Fld.bwClTallyStale = c.getF .bwClTally Fld.bwClTallyStale) : GroupHeld i b d :=
  ⟨(congrArg Lines.groups hln).trans h.groups, (congrArg Lines.runs hln).trans h.runs, (congrArg Lines.joinsIn hln).trans h.joinsIn,
    hstat.trans h.stat, hepoch.trans h.epoch, hstale.trans h.stale, hhm.trans h.hm, hmemory.trans h.memory, hframing.trans h.framing⟩

theorem groupHeld_rule {i : Nat} (hi : i < 64) (b : Body) : SendRule (fun _ => True) (GroupHeld i b) where
  up _ _ := trivial
  line _ _ h := ⟨h.groups, h.runs, h.joinsIn, h.stat, h.epoch, h.stale, h.hm, h.memory, h.framing⟩
  send _ h := ⟨h.groups, h.runs, h.joinsIn, h.stat, h.epoch, h.stale, h.hm, h.memory, h.framing⟩
  free h := ⟨h.groups, h.runs, h.joinsIn, h.stat, h.epoch, h.stale, h.hm, h.memory, h.framing⟩
  capped := fun {c} n h => by
    have hne : ∀ q : Reg, q.addr ≠ Reg.bwClTally.addr → (c.bump .bwClTally Fld.bwClTallyCapped n).reg q = c.reg q := fun q hq =>
      Body.reg_setF_ne _ _ _ hq
    refine h.setReg (Body.bump_ln _ _ _ _) (Body.bump_hm _ _ _ _) (memory_setF _ _ _ _) (Body.bump_framing _ _ _ _)
      (hne _ (by simp only [Reg.addr]; omega)) (hne _ (by simp only [Reg.addr]; omega)) ?_
    rw [getF_bump_fields _ _ (by decide) (by simp [Reg.stored]) (by decide), if_neg (by decide)]
  count := fun {c} slot k n h => h.setReg (Body.count_ln _ _ _ _) (Body.count_hm _ _ _ _) (by simp [Body.memory])
    (Body.count_framing _ _ _ _) ((unnoted_bwGroupStat hi).count _ _ _ _) ((unnoted_bwGroupEpoch hi).count _ _ _ _)
    (by rw [Body.getF, unnoted_bwClTally.count, Body.getF])

theorem GroupHeld.state {i : Nat} {b c : Body} (h : GroupHeld i b c) : c.groupState i = b.groupState i := by
  rw [Body.groupState, Body.getF, h.stat, Body.groupState, Body.getF]

theorem GroupHeld.group {i : Nat} {b c : Body} (h : GroupHeld i b c) (k : Nat) : c.group k = b.group k := by
  rw [Body.group, h.groups, Body.group]

theorem groupHeld_groupSends {i : Nat} (hi : i < 64) (b : Body) (ms : List Nat) (vc : Nat) (kind : MsgKind) (nums : List Nat) :
    GroupHeld i b (ms.foldl (fun b m => b.groupSend m vc kind nums) b) :=
  foldl_inv (GroupHeld i b) _ _ _ (GroupHeld.refl i b) fun _ _ hc => (groupHeld_rule hi b).groupSend hc

/-- A message of a lower epoch is counted and changes no group (R363). -/
theorem stale_discards {i : Nat} (hi : i < 64) (b : Body) (peer group epoch : Nat) :
    (b.stale peer group epoch).ln.groups = b.ln.groups ∧ (b.stale peer group epoch).groupState i = b.groupState i ∧
      Counted b (b.stale peer group epoch) .bwClTally Fld.bwClTallyStale 1 := by
  have hsent := (groupHeld_rule hi b).groupSend (m := peer) (vc := 0) (kind := .staleReply) (nums := [group, epoch, 0x30])
    (data := []) (uid := none) (GroupHeld.refl i b)
  refine ⟨?_, ?_, counted_from (counted_bump _ 1 (by decide) (by simp [Reg.stored]) (by decide) (by decide)) hsent.stale⟩
  · rw [Body.stale, Body.bump_ln, hsent.groups]
  · rw [Body.stale, Body.groupState, Body.bump, Body.getF, Body.reg_setF_ne _ _ _ (by simp only [Reg.addr]; omega), ← Body.getF]
    exact hsent.state

/-! ### Runs that end -/

theorem ln_foldl_fail {α : Type} (g : α → Flight) (st : Nat) (b : Body) (xs : List α) :
    (xs.foldl (fun b x => b.fail (g x) st) b).ln = b.ln :=
  foldl_keep Body.ln _ _ _ fun b _ => Body.fail_ln b _ _ _ _

theorem ln_endRuns (b : Body) (i st : Nat) :
    (b.endRuns i st).ln = { b.ln with runs := (b.ln.runs.partition fun r => decide (r.group = i)).2 } := by
  unfold Body.endRuns
  dsimp only
  refine (foldl_keep Body.ln _ _ _ fun b p => ?_).trans ?_
  · split
    · rw [Body.done_ln]
    · rfl
  · rw [ln_foldl_fail]

theorem runs_endRuns {b : Body} {i st : Nat} : ∀ r ∈ (b.endRuns i st).ln.runs, r.group ≠ i := fun r hr => by
  rw [ln_endRuns] at hr
  dsimp only at hr
  rw [List.partition_eq_filter_filter] at hr
  simpa using (List.mem_filter.mp hr).2

theorem Reg.Unnoted.endRuns {q : Reg} (h : q.Unnoted) (b : Body) (i st : Nat) : (b.endRuns i st).reg q = b.reg q := by
  unfold Body.endRuns
  dsimp only
  refine (foldl_keep (fun b : Body => b.reg q) _ _ _ fun b p => ?_).trans
    ((foldl_keep (fun b : Body => b.reg q) _ _ _ fun b x => h.fail b _ _ _ _).trans (Body.reg_congr rfl q))
  split
  · exact h.done b _ _
  · rfl

/-! ### JOIN and BROKEN_REPORT (R362, R363) -/

section
variable {s : State} {peer group epoch hash i : Nat} {g : Group}

theorem exec_join : exec (.join peer group epoch hash) s = s.onBody fun b =>
    match b.groupIndex group with
    | none => { b with ln.joinsIn := b.ln.joinsIn ++ [[peer, group, epoch, hash]] }
    | some i =>
      if epoch < b.groupEpoch i then b.stale peer group epoch
      else (if epoch > b.groupEpoch i then { b with ln.joinsIn := b.ln.joinsIn ++ [[peer, group, epoch, hash]] } else b).takeJoin
        i peer epoch hash := rfl

theorem exec_brokenReport : exec (.brokenReport peer group epoch) s = s.onBody fun b =>
    match b.groupIndex group with
    | none => b
    | some i =>
      if epoch < b.groupEpoch i then b.stale peer group epoch
      else if epoch = b.groupEpoch i ∧ peer ∈ b.neighbourModules (b.group i) then b.breakGroup i 2 else b := rfl

theorem join_of_unknown (h : s.body.groupIndex group = none) : Gives (.join peer group epoch hash) s fun t =>
    t.ln.joinsIn = s.body.ln.joinsIn ++ [[peer, group, epoch, hash]] ∧ t.regs = s.body.regs := by
  have hexec := exec_join (s := s) (peer := peer) (group := group) (epoch := epoch) (hash := hash)
  rw [State.onBody, h] at hexec
  exact gives_of_next hexec ⟨rfl, rfl⟩

theorem brokenReport_of_unknown (h : s.body.groupIndex group = none) : exec (.brokenReport peer group epoch) s = .next s := by
  rw [exec_brokenReport, State.onBody, h]

theorem message_of_lower_epoch (h : s.body.groupIndex group = some i) (hlow : epoch < s.body.groupEpoch i) {j : Instr}
    (hj : j ∈ [Instr.join peer group epoch hash, .brokenReport peer group epoch]) : Gives j s fun t =>
      t.ln.groups = s.body.ln.groups ∧ t.groupState i = s.body.groupState i ∧
      Counted s.body t .bwClTally Fld.bwClTallyStale 1 := by
  obtain ⟨hi, -, -⟩ := groupIndex_spec h
  have hstale := stale_discards hi s.body peer group epoch
  simp only [List.mem_cons, List.not_mem_nil, or_false] at hj
  obtain rfl | rfl := hj
  · have hexec := exec_join (s := s) (peer := peer) (group := group) (epoch := epoch) (hash := hash)
    rw [State.onBody, h] at hexec
    dsimp only at hexec
    rw [if_pos hlow] at hexec
    exact gives_of_next hexec hstale
  · have hexec := exec_brokenReport (s := s) (peer := peer) (group := group) (epoch := epoch)
    rw [State.onBody, h] at hexec
    dsimp only at hexec
    rw [if_pos hlow] at hexec
    exact gives_of_next hexec hstale

/-! The last JOIN that a group waits for. -/

@[simp] theorem group_setGroup (b : Body) (i : Nat) (g : Group) : (b.setGroup i g).group i = g := SMap.get_set_self _ _ _ _

theorem group_congr {b c : Body} (h : c.ln = b.ln) (i : Nat) : c.group i = b.group i := by rw [Body.group, h, Body.group]

theorem reg_setGroup (b : Body) (i : Nat) (g : Group) (q : Reg) : (b.setGroup i g).reg q = b.reg q := Body.reg_congr rfl q

theorem groupState_setF (b : Body) {v : Nat} (hi : i < 64) (hv : v < 4) :
    (b.setF (.bwGroupStat i) Fld.bwGroupStatState v).groupState i = v := by
  rw [Body.groupState, getF_setF_fields _ _ (bwGroupStat_ok hi) (bwGroupStat_stored i) (by decide), if_pos rfl]
  exact Nat.mod_eq_of_lt hv

/-- The body in which a group has become READY, its CL_GROUP ended. -/
def Body.ready (b : Body) (i : Nat) (g : Group) (f : Flight) : Body :=
  ((b.setF (.bwGroupStat i) Fld.bwGroupStatState 2).setGroup i { g with waiting := none }).done f

theorem groupCheck_ready {b : Body} {f : Flight} (hstate : b.groupState i = 1) (hpending : (b.group i).pending = none)
    (hwait : (b.group i).waiting = some f) (hall : ∀ m ∈ b.neighbourModules (b.group i), m ∈ (b.group i).joins) :
    b.groupCheck i = b.ready i (b.group i) f := by
  unfold Body.groupCheck
  dsimp only
  rw [if_pos ⟨hstate, hpending, List.all_eq_true.mpr fun m hm => decide_eq_true (hall m hm)⟩, hwait]
  rfl

theorem groupCheck_waits {b : Body} {m : Nat} (hm : m ∈ b.neighbourModules (b.group i)) (hout : m ∉ (b.group i).joins) :
    b.groupCheck i = b := by
  unfold Body.groupCheck
  dsimp only
  refine if_neg ?_
  rintro ⟨-, -, hall⟩
  exact hout (of_decide_eq_true (List.all_eq_true.mp hall m hm))

section
variable (b : Body) (g : Group) (f : Flight)

theorem groupState_ready (hi : i < 64) : (b.ready i g f).groupState i = 2 := by
  rw [Body.ready, Body.groupState, Body.getF, (unnoted_bwGroupStat hi).done]
  exact groupState_setF b hi (by decide)

theorem group_ready : (b.ready i g f).group i = { g with waiting := none } := by
  rw [Body.ready, group_congr (Body.done_ln _ _ _), group_setGroup]

theorem ready_ends {c : Body} (h : b.hm.ended = c.hm.ended) : EndsWith c (b.ready i g f) f 0 0 :=
  Body.endsWith_done f 0 (by rw [← h]; exact congrArg Harbour.ended (Body.setF_hm b _ _ _))

theorem memory_ready : (b.ready i g f).memory = b.memory := by
  have hdone : ∀ c : Body, (c.done f).memory = c.memory := fun c => by simp [Body.memory]
  exact (hdone _).trans (memory_setF b _ _ _)

end

theorem join_completes {f : Flight} (h : s.body.groupIndex group = some i) (hg : g = s.body.group i) (hepoch : epoch = s.body.groupEpoch i)
    (hstate : s.body.groupState i = 1) (hhash : hash = g.hash) (hpending : g.pending = none) (hwait : g.waiting = some f)
    (hall : ∀ m ∈ s.body.neighbourModules g, m = peer ∨ m ∈ g.joins) : Gives (.join peer group epoch hash) s fun t =>
      EndsWith s.body t f 0 0 ∧ t.groupState i = 2 ∧ t.group i = { g with joins := peer :: g.joins, waiting := none } := by
  obtain ⟨hi, -, -⟩ := groupIndex_spec h
  subst hg
  set b := s.body.setGroup i { s.body.group i with joins := peer :: (s.body.group i).joins } with hb
  have hgroup : b.group i = { s.body.group i with joins := peer :: (s.body.group i).joins } := group_setGroup _ _ _
  have htake : s.body.takeJoin i peer epoch hash = b.groupCheck i := by
    unfold Body.takeJoin
    dsimp only
    rw [if_neg (by omega), if_neg (by omega), if_pos hhash]
  have hready : b.groupCheck i = b.ready i (b.group i) f := groupCheck_ready hstate (by rw [hgroup]; exact hpending)
    (by rw [hgroup]; exact hwait) (by rw [hgroup]; exact fun m hm => List.mem_cons.mpr (hall m hm))
  have hexec := exec_join (s := s) (peer := peer) (group := group) (epoch := epoch) (hash := hash)
  rw [State.onBody, h] at hexec
  dsimp only at hexec
  rw [if_neg (by omega), if_neg (by omega), htake, hready] at hexec
  refine gives_of_next hexec ⟨ready_ends _ _ _ rfl, groupState_ready _ _ _ hi, ?_⟩
  rw [group_ready, hgroup]

/-! A JOIN of a higher epoch, and a broken group. -/

theorem runs_endForming (b : Body) (i : Nat) : (b.endForming i).ln.runs = b.ln.runs := by
  unfold Body.endForming
  dsimp only
  split
  · rw [Body.fail_ln]
    rfl
  · rfl

theorem superseded_forms (b : Body) (hi : i < 64) : (b.superseded i epoch).groupState i = 1 ∧
    ((b.superseded i epoch).group i).pending = some epoch ∧ ∀ r ∈ (b.superseded i epoch).ln.runs, r.group ≠ i := by
  refine ⟨groupState_setF _ hi (by decide), ?_, fun r hr => ?_⟩
  · rw [Body.superseded, group_congr (Body.setF_ln _ _ _ _), group_setGroup]
  · rw [Body.superseded, Body.setF_ln] at hr
    have hruns : r ∈ ((b.endRuns i 0x30).endForming i).ln.runs := hr
    rw [runs_endForming] at hruns
    exact runs_endRuns r hruns

theorem join_supersedes (h : s.body.groupIndex group = some i) (hhigh : s.body.groupEpoch i < epoch) :
    Gives (.join peer group epoch hash) s fun t =>
      t.groupState i = 1 ∧ (t.group i).pending = some epoch ∧ ∀ r ∈ t.ln.runs, r.group ≠ i := by
  obtain ⟨hi, -, -⟩ := groupIndex_spec h
  have htake : ∀ b : Body, b.groupEpoch i = s.body.groupEpoch i → b.takeJoin i peer epoch hash = b.superseded i epoch := fun b hb => by
    unfold Body.takeJoin
    dsimp only
    rw [if_pos (by omega)]
  have hexec := exec_join (s := s) (peer := peer) (group := group) (epoch := epoch) (hash := hash)
  rw [State.onBody, h] at hexec
  dsimp only at hexec
  rw [if_neg (by omega), if_pos hhigh] at hexec
  refine gives_of_next hexec ?_
  rw [htake]
  · exact superseded_forms _ hi
  · exact Body.getF_congr rfl _ _

/-- A CL_GROUP that waits for a group that breaks ends with LINE_LOST. -/
def Body.formingLost (b : Body) (i : Nat) (g : Group) : Body :=
  match g.waiting with
  | some fl => { b with ln.groups := SMap.set b.ln.groups {} i { g with waiting := none } }.fail fl 0x21
  | none => b

theorem runs_formingLost (b : Body) (i : Nat) (g : Group) : (b.formingLost i g).ln.runs = b.ln.runs := by
  unfold Body.formingLost
  split
  · rw [Body.fail_ln]
  · rfl

theorem Reg.Unnoted.formingLost {q : Reg} (h : q.Unnoted) (b : Body) (i : Nat) (g : Group) : (b.formingLost i g).reg q = b.reg q := by
  unfold Body.formingLost
  split
  · exact (h.fail _ _ _ _ _).trans (Body.reg_congr rfl q)
  · rfl

theorem breakGroup_eq (b : Body) (cause : Nat) (h0 : b.groupState i ≠ 0) (h3 : b.groupState i ≠ 3) :
    ∃ d ctx ms nums, b.breakGroup i cause = List.foldl (fun b m => b.groupSend m 1 .broken nums)
      ((((b.setF (.bwGroupStat i) Fld.bwGroupStatState 3).err 0x0603 1 3 0 d 0 ctx).endRuns i 0x21).formingLost i (b.group i)) ms := by
  unfold Body.breakGroup
  rw [if_neg (by omega)]
  exact ⟨_, _, _, _, rfl⟩

theorem breakGroup_breaks (b : Body) (cause : Nat) (hi : i < 64) (h0 : b.groupState i ≠ 0) (h3 : b.groupState i ≠ 3) :
    (b.breakGroup i cause).groupState i = 3 ∧ ∀ r ∈ (b.breakGroup i cause).ln.runs, r.group ≠ i := by
  obtain ⟨d, ctx, ms, nums, hbroken⟩ := breakGroup_eq b cause h0 h3
  have hheld := groupHeld_groupSends hi
    ((((b.setF (.bwGroupStat i) Fld.bwGroupStatState 3).err 0x0603 1 3 0 d 0 ctx).endRuns i 0x21).formingLost i (b.group i)) ms 1 .broken nums
  rw [hbroken, hheld.state, hheld.runs, runs_formingLost]
  refine ⟨?_, runs_endRuns⟩
  rw [Body.groupState, Body.getF, (unnoted_bwGroupStat hi).formingLost, (unnoted_bwGroupStat hi).endRuns, (unnoted_bwGroupStat hi).error]
  exact groupState_setF b hi (by decide)

theorem brokenReport_breaks (h : s.body.groupIndex group = some i) (hepoch : epoch = s.body.groupEpoch i)
    (hpeer : peer ∈ s.body.neighbourModules (s.body.group i)) (h3 : s.body.groupState i ≠ 3) : Gives (.brokenReport peer group epoch) s fun t =>
      t.groupState i = 3 ∧ ∀ r ∈ t.ln.runs, r.group ≠ i := by
  obtain ⟨hi, h0, -⟩ := groupIndex_spec h
  have hexec := exec_brokenReport (s := s) (peer := peer) (group := group) (epoch := epoch)
  rw [State.onBody, h] at hexec
  dsimp only at hexec
  rw [if_neg (by omega), if_pos ⟨hepoch, hpeer⟩] at hexec
  exact gives_of_next hexec (breakGroup_breaks _ 2 hi h0 h3)

end

/-! ### CL_GROUP (R360, R362, R363) -/

theorem get_drop_self {α : Type} (m : SMap α) (d : α) (a : Nat) : SMap.get (SMap.drop m a) d a = d := by
  rw [SMap.get, SMap.find_drop_self, Option.getD_none]

/-- A body in which a group is FORMING, its CL_GROUP waiting. -/
def Body.forming (b : Body) (i id ctx epoch : Nat) (fl : Flight) (g : Group) : Body :=
  (((((b.setF (.bwGroupStat i) Fld.bwGroupStatGroup id).setF (.bwGroupStat i) Fld.bwGroupStatCtx ctx).setF
    (.bwGroupStat i) Fld.bwGroupStatState 1).setF (.bwGroupEpoch i) Fld.bwGroupEpochEpoch epoch).start fl).setGroup i
    { g with waiting := some fl }

section
variable (b : Body) {i id ctx epoch : Nat} (hi : i < 64) (fl : Flight) (g : Group)

theorem group_forming : (b.forming i id ctx epoch fl g).group i = { g with waiting := some fl } := group_setGroup _ _ _

theorem framing_forming : (b.forming i id ctx epoch fl g).framing = b.framing := by
  show ((((b.setF _ _ _).setF _ _ _).setF _ _ _).setF _ _ _).framing = _
  simp only [Body.setF_framing]

theorem joinsIn_forming : (b.forming i id ctx epoch fl g).ln.joinsIn = b.ln.joinsIn := by
  show ((((b.setF _ _ _).setF _ _ _).setF _ _ _).setF _ _ _).ln.joinsIn = _
  simp only [Body.setF_ln]

theorem memory_forming : (b.forming i id ctx epoch fl g).memory = b.memory := by
  show ((((b.setF _ _ _).setF _ _ _).setF _ _ _).setF _ _ _).memory = _
  simp only [memory_setF]

theorem hm_forming : (b.forming i id ctx epoch fl g).hm = (b.start fl).hm := by
  have hset : ((((b.setF (.bwGroupStat i) Fld.bwGroupStatGroup id).setF (.bwGroupStat i) Fld.bwGroupStatCtx ctx).setF
      (.bwGroupStat i) Fld.bwGroupStatState 1).setF (.bwGroupEpoch i) Fld.bwGroupEpochEpoch epoch).hm = b.hm := by
    simp only [Body.setF_hm]
  have hstart : ∀ c : Body, c.hm = b.hm → (c.start fl).hm = (b.start fl).hm := fun c hc => by rw [Body.start, hc, Body.start]
  exact hstart _ hset

theorem bwGroupEpoch_ne (i k : Nat) : (Reg.bwGroupStat k).addr ≠ (Reg.bwGroupEpoch i).addr := by
  simp only [Reg.addr]; omega

theorem getF_forming_other {k : Nat} (hk : k ≠ i) (f : Fld) :
    (b.forming i id ctx epoch fl g).getF (.bwGroupStat k) f = b.getF (.bwGroupStat k) f := by
  have hne : (Reg.bwGroupStat k).addr ≠ (Reg.bwGroupStat i).addr := by simp only [Reg.addr]; omega
  have hreg : (b.forming i id ctx epoch fl g).reg (.bwGroupStat k) =
      ((((b.setF (.bwGroupStat i) Fld.bwGroupStatGroup id).setF (.bwGroupStat i) Fld.bwGroupStatCtx ctx).setF
        (.bwGroupStat i) Fld.bwGroupStatState 1).setF (.bwGroupEpoch i) Fld.bwGroupEpochEpoch epoch).reg (.bwGroupStat k) :=
    Body.reg_congr rfl _
  rw [Body.getF, hreg, Body.reg_setF_ne _ _ _ (bwGroupEpoch_ne i k), Body.reg_setF_ne _ _ _ hne, Body.reg_setF_ne _ _ _ hne,
    Body.reg_setF_ne _ _ _ hne, Body.getF]

include hi

theorem getF_forming (hid : id < 65536) (hctx : ctx < 65536) (hepoch : epoch < 2 ^ 32) :
    (b.forming i id ctx epoch fl g).groupState i = 1 ∧
      (b.forming i id ctx epoch fl g).getF (.bwGroupStat i) Fld.bwGroupStatGroup = id ∧
      (b.forming i id ctx epoch fl g).getF (.bwGroupStat i) Fld.bwGroupStatCtx = ctx ∧
      (b.forming i id ctx epoch fl g).groupEpoch i = epoch := by
  have hset (c : Body) {f g : Fld} (v : Nat) := getF_setF_fields c (f := f) (g := g) v (bwGroupStat_ok hi) (bwGroupStat_stored i)
  have hreg (r : Reg) (f : Fld) : (b.forming i id ctx epoch fl g).getF r f =
      ((((b.setF (.bwGroupStat i) Fld.bwGroupStatGroup id).setF (.bwGroupStat i) Fld.bwGroupStatCtx ctx).setF
        (.bwGroupStat i) Fld.bwGroupStatState 1).setF (.bwGroupEpoch i) Fld.bwGroupEpochEpoch epoch).getF r f :=
    Body.getF_congr rfl _ _
  have hstat (f : Fld) : (b.forming i id ctx epoch fl g).getF (.bwGroupStat i) f =
      (((b.setF (.bwGroupStat i) Fld.bwGroupStatGroup id).setF (.bwGroupStat i) Fld.bwGroupStatCtx ctx).setF
        (.bwGroupStat i) Fld.bwGroupStatState 1).getF (.bwGroupStat i) f := by
    rw [hreg, Body.getF, Body.reg_setF_ne _ _ _ (bwGroupEpoch_ne i i), Body.getF]
  refine ⟨?_, ?_, ?_, ?_⟩
  · rw [Body.groupState, hstat, hset _ _ (by decide), if_pos rfl]
    rfl
  · rw [hstat, hset _ _ (by decide), if_neg (by decide), hset _ _ (by decide), if_neg (by decide), hset _ _ (by decide), if_pos rfl]
    exact Nat.mod_eq_of_lt hid
  · rw [hstat, hset _ _ (by decide), if_neg (by decide), hset _ _ (by decide), if_pos rfl]
    exact Nat.mod_eq_of_lt hctx
  · rw [Body.groupEpoch, hreg, getF_setF_fields _ _ (bwGroupEpoch_ok hi) (bwGroupEpoch_stored i) (by decide), if_pos rfl]
    exact Nat.mod_eq_of_lt hepoch

end

/-- A new group that this module cannot form: a bad Quay, none of its ranks here, or no Line to a neighbour. -/
def Body.groupBad (b : Body) (fl : Flight) (g : Group) : Bool :=
  (g.ranks.any fun r => decide (r.2 > 9)) ||
    ((b.localRanks g).any fun r => decide ((g.ranks.getD r (0, 0)).2 ∉ b.quaysOfSlot fl.slot)) || decide (b.localRanks g = []) ||
    ((b.neighbourModules g).any fun m => decide (b.bundle m (b.partOfSlot fl.slot) 3 = []))

/-- The group that a rank list describes. -/
def groupOf (n : Nat) (l : List Byte) : Group := { ranks := ranksOf n l, hash := listHash l }

/-- The JOINs of a group that forms are sent. -/
def Body.joinSends (b : Body) (id epoch : Nat) (g : Group) : Body :=
  (b.neighbourModules g).foldl (fun b m => b.groupSend m 1 .join [id, epoch, g.hash]) b

/-- The JOINs that came before their CL_GROUP meet the group's entry. -/
def Body.joinsMet (b : Body) (i id epoch : Nat) : Body :=
  let (early, rest) := b.ln.joinsIn.partition fun j => decide (j.getD 1 0 = id ∧ j.getD 2 0 ≥ epoch)
  let b := { b with ln.joinsIn := rest.filter fun j => decide (j.getD 1 0 ≠ id) }
  let b := early.foldl (fun b j => b.takeJoin i (j.getD 0 0) (j.getD 2 0) (j.getD 3 0)) b
  b.groupCheck i

theorem joinsMet_of_none {b : Body} (h : b.ln.joinsIn = []) (i id epoch : Nat) : b.joinsMet i id epoch = b.groupCheck i := by
  have hsame : { b with ln.joinsIn := [] } = b := by rw [← h]
  unfold Body.joinsMet
  rw [h]
  exact congrArg (fun c : Body => c.groupCheck i) hsame

theorem formGroup_new {b : Body} {fl : Flight} {l : List Byte} {i id epoch : Nat} {g : Group} (hid : id = fl.cmd.f 1 15 0)
    (hepoch : epoch = fl.cmd.f 2 31 0) (hg : g = groupOf (fl.cmd.f 1 26 17 + 1) l) (hnew : b.groupIndex id = none)
    (hfree : (List.range 64).find? (fun j => decide (b.groupState j = 0)) = some i) :
    b.formGroup fl l = if b.groupBad fl g then b.fail fl 0x11
      else ((b.forming i id fl.cmd.ctx.toNat epoch fl g).joinSends id epoch g).joinsMet i id epoch := by
  subst hid hepoch hg
  unfold Body.formGroup
  extract_lets c id n epoch g part quays old at_ mine bad
  have hold : old = none := hnew
  have hat : at_ = some i := by
    unfold at_
    rw [hold]
    exact hfree
  have hbadness : bad = b.groupBad fl g := by
    unfold bad
    rw [hold]
    simp only [Bool.or_false]
    rfl
  clear_value old at_ bad
  subst hold hat hbadness
  rfl

section
variable {s : State} {c : Cmd} {fl : Flight} {n i id : Nat} {e : Entry} {g : Group} (hid : id = c.f 1 15 0) (hn : n = c.f 1 26 17 + 1)
  (hd : Dispatched s.body c 0x61 fl) (hform : c.b 1 16 = false) (hplain : PlainMemory s.body)
  (hacc : s.body.access fl.slot (c.h 3) (32 * c.f 3 37 18) (8 * n) false = .ok e)
  (hg : g = groupOf n (s.body.bytes (e.base + 32 * c.f 3 37 18) (8 * n)))
  (hnew : s.body.groupIndex id = none) (hfree : (List.range 64).find? (fun j => decide (s.body.groupState j = 0)) = some i)

section
include hid hn hd hform hplain hacc hg hnew hfree

/-- CL_GROUP of a new id fails, or forms its group over the memory that it has read. -/
theorem exec_clGroup : ∃ b : Body, (∀ {γ : Type} (p : Body → γ), (∀ (b : Body) l, p { b with tiers.pageBuf := l } = p b) → p b = p s.body) ∧
    exec (.clGroup c) s = .next { s with
      body := if b.groupBad fl g then b.fail fl 0x11
        else ((b.forming i id c.ctx.toNat (c.f 2 31 0) fl g).joinSends id (c.f 2 31 0) g).joinsMet i id (c.f 2 31 0) } := by
  have hcmd := hd.cmd
  refine ⟨s.body.readPages (e.base + 32 * c.f 3 37 18) (8 * n), fun p hp => Body.readPages_keep p hp _ _ _, ?_⟩
  rw [exec_onSub hd (by rw [hform]; rfl) rfl]
  dsimp only
  rw [← hn, hacc]
  dsimp only
  rw [load_of_plain hplain]
  dsimp only
  rw [if_neg (by decide)]
  have hidx : (s.body.readPages (e.base + 32 * c.f 3 37 18) (8 * n)).groupIndex id = none :=
    (Body.readPages_keep (fun b => b.groupIndex id) (fun _ _ => rfl) _ _ _).trans hnew
  have hslot : (List.range 64).find? (fun j => decide ((s.body.readPages (e.base + 32 * c.f 3 37 18) (8 * n)).groupState j = 0)) = some i :=
    (Body.readPages_keep (fun b => (List.range 64).find? fun j => decide (b.groupState j = 0)) (fun _ _ => rfl) _ _ _).trans hfree
  rw [formGroup_new (id := id) (epoch := c.f 2 31 0) (g := g) (by rw [hcmd]; exact hid) (by rw [hcmd]) (by rw [hcmd, ← hn]; exact hg)
    hidx hslot, hcmd]

theorem clGroup_refused (hnone : s.body.localRanks g = []) : Gives (.clGroup c) s fun t =>
    EndsWith s.body t fl 0x11 0 ∧ t.ln = s.body.ln ∧ SameBytes s.body t := by
  obtain ⟨b, hb, hexec⟩ := exec_clGroup hid hn hd hform hplain hacc hg hnew hfree
  have hbad : b.groupBad fl g = true := by
    have hranks : b.localRanks g = [] := (hb (fun b => b.localRanks g) fun _ _ => rfl).trans hnone
    rw [Body.groupBad, hranks]
    simp
  rw [if_pos hbad] at hexec
  have hfail : ∀ c : Body, (c.fail fl 0x11).memory = c.memory := fun c => by simp [Body.memory]
  refine gives_of_next hexec ⟨Body.endsWith_fail fl 0x11 0 0 (congrArg Harbour.ended (hb Body.hm fun _ _ => rfl)), ?_,
    sameBytes_of_memory ((hfail b).trans (hb Body.memory fun _ _ => rfl))⟩
  rw [Body.fail_ln]
  exact hb Body.ln fun _ _ => rfl

end

/-- No rank bars the group: their Quays exist, those here are the context's, and a Line reaches every neighbour. -/
theorem groupBad_false {b : Body} (hquays : ∀ r ∈ g.ranks, r.2 ≤ 9 ∧ (r.1 = b.self → r.2 ∈ b.quaysOfSlot fl.slot)) (hhere : b.localRanks g ≠ [])
    (hreach : ∀ m ∈ b.neighbourModules g, b.bundle m (b.partOfSlot fl.slot) 3 ≠ []) : b.groupBad fl g = false := by
  rw [Body.groupBad, Bool.or_eq_false_iff, Bool.or_eq_false_iff, Bool.or_eq_false_iff]
  refine ⟨⟨⟨?_, ?_⟩, decide_eq_false hhere⟩, ?_⟩
  · rw [List.any_eq_false]
    exact fun r hr => by simpa using (hquays r hr).1
  · rw [List.any_eq_false]
    intro k hk
    obtain ⟨hlen, hself⟩ := List.mem_filter.mp hk
    have hlt := List.mem_range.mp hlen
    have hmem : g.ranks.getD k (0, 0) ∈ g.ranks := by
      rw [List.getD_eq_getElem?_getD, List.getElem?_eq_getElem hlt]
      exact List.getElem_mem hlt
    simpa using (hquays _ hmem).2 (of_decide_eq_true hself)
  · rw [List.any_eq_false]
    exact fun m hm => by simpa using hreach m hm

theorem groupIndex_eq_some {b : Body} {id i : Nat} (hi : i < 64) (hstate : b.groupState i ≠ 0)
    (hgroup : b.getF (.bwGroupStat i) Fld.bwGroupStatGroup = id)
    (hother : ∀ j, j < i → ¬ (b.groupState j ≠ 0 ∧ b.getF (.bwGroupStat j) Fld.bwGroupStatGroup = id)) : b.groupIndex id = some i := by
  rw [Body.groupIndex, List.find?_range_eq_some]
  refine ⟨by simp [hstate, hgroup], List.mem_range.mpr hi, fun j hj => ?_⟩
  simpa [Decidable.or_iff_not_imp_left] using hother j hj

theorem groupIndex_eq_none {b : Body} {id : Nat} (h : b.groupIndex id = none) {j : Nat} (hj : j < 64) :
    ¬ (b.groupState j ≠ 0 ∧ b.getF (.bwGroupStat j) Fld.bwGroupStatGroup = id) := by
  simpa using List.find?_eq_none.mp h j (List.mem_range.mpr hj)

theorem neighbourModules_congr {b c : Body} (h : c.framing = b.framing) (g : Group) : c.neighbourModules g = b.neighbourModules g := by
  unfold Body.neighbourModules Body.localRanks Body.self
  rw [h]

/-- What an entry shows once its group is READY. -/
theorem getF_ready (b : Body) {i : Nat} (hi : i < 64) (g : Group) (f : Flight) {x : Fld}
    (hx : x = Fld.bwGroupStatGroup ∨ x = Fld.bwGroupStatCtx) : (b.ready i g f).getF (.bwGroupStat i) x = b.getF (.bwGroupStat i) x := by
  have hset : ∀ h, ((b.setF (.bwGroupStat i) Fld.bwGroupStatState 2).setGroup i { g with waiting := none }).getF (.bwGroupStat i) x =
      if x = Fld.bwGroupStatState then 2 % 2 ^ Fld.bwGroupStatState.width else b.getF (.bwGroupStat i) x := fun h =>
    (Body.getF_congr rfl _ _).trans (getF_setF_fields b 2 (bwGroupStat_ok hi) (bwGroupStat_stored i) h)
  rw [Body.ready, Body.getF, (unnoted_bwGroupStat hi).done, ← Body.getF]
  obtain rfl | rfl := hx
  · rw [hset (by decide), if_neg (by decide)]
  · rw [hset (by decide), if_neg (by decide)]

theorem getF_ready_other (b : Body) {i k : Nat} (hk : k < 64) (hki : k ≠ i) (g : Group) (f : Flight) (x : Fld) :
    (b.ready i g f).getF (.bwGroupStat k) x = b.getF (.bwGroupStat k) x := by
  have hset : ((b.setF (.bwGroupStat i) Fld.bwGroupStatState 2).setGroup i { g with waiting := none }).reg (.bwGroupStat k) =
      b.reg (.bwGroupStat k) :=
    (reg_setGroup _ _ _ _).trans (Body.reg_setF_ne b _ _ (by simp only [Reg.addr]; omega))
  rw [Body.ready, Body.getF, (unnoted_bwGroupStat hk).done, hset, Body.getF]

theorem groupEpoch_ready (b : Body) {i : Nat} (hi : i < 64) (g : Group) (f : Flight) : (b.ready i g f).groupEpoch i = b.groupEpoch i := by
  have hset : ((b.setF (.bwGroupStat i) Fld.bwGroupStatState 2).setGroup i { g with waiting := none }).reg (.bwGroupEpoch i) =
      b.reg (.bwGroupEpoch i) :=
    (reg_setGroup _ _ _ _).trans (Body.reg_setF_ne b _ _ (bwGroupEpoch_ne i i).symm)
  rw [Body.ready, Body.groupEpoch, Body.getF, (unnoted_bwGroupEpoch hi).done, hset, Body.groupEpoch, Body.getF]

section
include hid hn hd hform hplain hacc hg hnew hfree

variable (hquays : ∀ r ∈ g.ranks, r.2 ≤ 9 ∧ (r.1 = s.body.self → r.2 ∈ s.body.quaysOfSlot fl.slot)) (hhere : s.body.localRanks g ≠ [])
  (hjoins : s.body.ln.joinsIn = [])
include hquays hhere hjoins

/-- CL_GROUP of a new id whose ranks are all this module's is READY at once. -/
theorem clGroup_ready (halone : s.body.neighbourModules g = []) : Gives (.clGroup c) s fun t =>
    EndsWith s.body t fl 0 0 ∧ t.groupState i = 2 ∧ t.group i = g ∧ t.groupIndex id = some i ∧ t.groupEpoch i = c.f 2 31 0 ∧
      t.getF (.bwGroupStat i) Fld.bwGroupStatCtx = c.ctx.toNat ∧ SameBytes s.body t := by
  have hi := lt_of_find_range hfree
  obtain ⟨b, hb, hexec⟩ := exec_clGroup hid hn hd hform hplain hacc hg hnew hfree
  have hgood : b.groupBad fl g = false := (hb (fun b => b.groupBad fl g) fun _ _ => rfl).trans
    (groupBad_false hquays hhere (by rw [halone]; nofun))
  set f := b.forming i id c.ctx.toNat (c.f 2 31 0) fl g with hf
  have hnone : f.neighbourModules g = [] :=
    (neighbourModules_congr ((framing_forming _ _ _).trans (hb Body.framing fun _ _ => rfl)) g).trans halone
  have hsent : f.joinSends id (c.f 2 31 0) g = f := by rw [Body.joinSends, hnone, List.foldl_nil]
  have hgroup : f.group i = { g with waiting := some fl } := group_forming _ _ _
  have hempty : f.ln.joinsIn = [] := by rw [hf, joinsIn_forming, congrArg Lines.joinsIn (hb Body.ln fun _ _ => rfl), hjoins]
  obtain ⟨hstate, hgid, hctx, hepoch⟩ := getF_forming b hi fl g (id := id) (ctx := c.ctx.toNat) (epoch := c.f 2 31 0)
    (by rw [hid]; exact cmd_f_lt c 1 15 0) c.ctx.isLt (cmd_f_lt c 2 31 0)
  have hready : f.groupCheck i = f.ready i (f.group i) fl := groupCheck_ready hstate (by rw [hgroup, hg]; rfl) (by rw [hgroup])
    (by rw [hgroup]; intro m hm; rw [show f.neighbourModules { g with waiting := some fl } = f.neighbourModules g from rfl, hnone] at hm; cases hm)
  rw [if_neg (by rw [hgood]; decide), hsent, joinsMet_of_none hempty, hready, hgroup] at hexec
  have hother : ∀ j, j < i → ¬ ((f.ready i { g with waiting := some fl } fl).groupState j ≠ 0 ∧
      (f.ready i { g with waiting := some fl } fl).getF (.bwGroupStat j) Fld.bwGroupStatGroup = id) := fun j hj => by
    rw [Body.groupState, getF_ready_other _ (by omega) (by omega), getF_ready_other _ (by omega) (by omega), hf,
      getF_forming_other _ _ _ (by omega), getF_forming_other _ _ _ (by omega)]
    exact groupIndex_eq_none ((hb (fun b => b.groupIndex id) fun _ _ => rfl).trans hnew) (by omega)
  have hended : f.hm.ended = s.body.hm.ended := by
    rw [hf, hm_forming, Body.start_hm_ended, hb Body.hm fun _ _ => rfl]
  have hst2 := groupState_ready f { g with waiting := some fl } fl hi
  refine gives_of_next hexec ⟨ready_ends _ _ _ hended, hst2, ?_, groupIndex_eq_some hi (by rw [hst2]; decide) ?_ hother, ?_, ?_, ?_⟩
  · rw [group_ready, hg]; rfl
  · rw [getF_ready _ hi _ _ (.inl rfl)]; exact hgid
  · rw [groupEpoch_ready _ hi]; exact hepoch
  · rw [getF_ready _ hi _ _ (.inr rfl)]; exact hctx
  · exact sameBytes_of_memory ((memory_ready _ _ _).trans ((memory_forming _ _ _).trans (hb Body.memory fun _ _ => rfl)))

/-- CL_GROUP of a new id with a neighbour that has not joined is FORMING. -/
theorem clGroup_forms (hneighbours : s.body.neighbourModules g ≠ [])
    (hreach : ∀ m ∈ s.body.neighbourModules g, s.body.bundle m (s.body.partOfSlot fl.slot) 3 ≠ []) : Gives (.clGroup c) s fun t =>
      StaysInFlight s.body t fl ∧ t.groupState i = 1 ∧ (t.group i).waiting = some fl ∧ (t.group i).ranks = g.ranks ∧
        t.groupEpoch i = c.f 2 31 0 := by
  have hi := lt_of_find_range hfree
  obtain ⟨b, hb, hexec⟩ := exec_clGroup hid hn hd hform hplain hacc hg hnew hfree
  have hgood : b.groupBad fl g = false := (hb (fun b => b.groupBad fl g) fun _ _ => rfl).trans (groupBad_false hquays hhere hreach)
  set f := b.forming i id c.ctx.toNat (c.f 2 31 0) fl g with hf
  have hheld : GroupHeld i f (f.joinSends id (c.f 2 31 0) g) := groupHeld_groupSends hi f _ _ _ _
  have hgroup : (f.joinSends id (c.f 2 31 0) g).group i = { g with waiting := some fl } := (hheld.group i).trans (group_forming _ _ _)
  have hempty : (f.joinSends id (c.f 2 31 0) g).ln.joinsIn = [] := by
    rw [hheld.joinsIn, hf, joinsIn_forming, congrArg Lines.joinsIn (hb Body.ln fun _ _ => rfl), hjoins]
  have hsame : (f.joinSends id (c.f 2 31 0) g).neighbourModules g = s.body.neighbourModules g :=
    neighbourModules_congr (hheld.framing.trans ((framing_forming _ _ _).trans (hb Body.framing fun _ _ => rfl))) g
  obtain ⟨m, hm⟩ := List.exists_mem_of_ne_nil _ hneighbours
  have hwaits : (f.joinSends id (c.f 2 31 0) g).groupCheck i = f.joinSends id (c.f 2 31 0) g :=
    groupCheck_waits (m := m) (by rw [hgroup]; rw [← hsame] at hm; exact hm) (by rw [hgroup, hg]; exact List.not_mem_nil)
  obtain ⟨hstate, -, -, hepoch⟩ := getF_forming b hi fl g (id := id) (ctx := c.ctx.toNat) (epoch := c.f 2 31 0)
    (by rw [hid]; exact cmd_f_lt c 1 15 0) c.ctx.isLt (cmd_f_lt c 2 31 0)
  obtain ⟨hended, x, hx, hstarted⟩ := staysInFlight_start (b := s.body) (c := b) (congrArg Harbour.ended (hb Body.hm fun _ _ => rfl))
    ((congrArg Harbour.flights (hb Body.hm fun _ _ => rfl)).symm ▸ hd.mem)
  have hhm : (f.joinSends id (c.f 2 31 0) g).hm = (b.start fl).hm := hheld.hm.trans (hm_forming _ _ _)
  rw [if_neg (by rw [hgood]; decide), joinsMet_of_none hempty, hwaits] at hexec
  refine gives_of_next hexec ⟨⟨(congrArg Harbour.ended hhm).trans hended, x, (congrArg Harbour.flights hhm).symm ▸ hx, hstarted⟩,
    hheld.state.trans hstate, by rw [hgroup], by rw [hgroup], ?_⟩
  rw [Body.groupEpoch, Body.getF, hheld.epoch]
  exact hepoch

end

end

end Sys2Proof.Machine
end

section
/-! PROOFS. CL_GROUP with DISSOLVE, CL_REGISTER and CL_UNREGISTER (R363-R366), and the obligation on collective groups. -/

namespace Sys2Proof.Machine

/-! ### DISSOLVE (R363) -/

theorem dissolve_quiet {b : Body} {i st : Nat} (hruns : b.ln.runs = []) (hcolls : b.ln.colls = []) (hwait : (b.group i).waiting = none) :
    b.dissolve i st = ((({ b with ln.groups := SMap.drop b.ln.groups i }).setReg (.bwGroupStat i) (Reg.dflt (.bwGroupStat i))).setReg
      (.bwGroupEpoch i) (Reg.dflt (.bwGroupEpoch i))) := by
  have hrunless : { b with ln.runs := [] } = b := by rw [← hruns]
  have hends : b.endRuns i st = b := by
    unfold Body.endRuns
    rw [hruns, List.partition_eq_filter_filter, List.filter_nil, List.filter_nil]
    dsimp only
    rw [hrunless, List.foldl_nil, hcolls]
    rfl
  have hrelease : b.releaseGroup i = b := by
    unfold Body.releaseGroup
    rw [hcolls]
    rfl
  have hforming : b.endForming i = b := by
    unfold Body.endForming
    dsimp only
    rw [hwait]
  rw [Body.dissolve, hends, hrelease, hforming]

section
variable {s : State} {c : Cmd} {fl : Flight} (hd : Dispatched s.body c 0x61 fl) (hop : c.b 1 16 = true)
include hd hop

theorem clGroupDissolve_of_none (hnone : s.body.groupIndex (c.f 1 15 0) = none) : Gives (.clGroupDissolve c) s fun t =>
    OnlyEnds s.body t fl 0x11 0 [] ∧ t.ln = s.body.ln := by
  have hexec : exec (.clGroupDissolve c) s = .next { s with
      body := s.body.fail fl 0x11 } := by
    rw [exec_onSub hd hop rfl, hnone]
  exact gives_of_next hexec ⟨(SameBut.refl [] s.body).fail fl 0x11 0 0, Body.fail_ln _ _ _ _ _⟩

theorem clGroupDissolve_frees {i : Nat} (hidx : s.body.groupIndex (c.f 1 15 0) = some i)
    (hctx : s.body.getF (.bwGroupStat i) Fld.bwGroupStatCtx = c.ctx.toNat) (hruns : s.body.ln.runs = []) (hcolls : s.body.ln.colls = [])
    (hwait : (s.body.group i).waiting = none) : Gives (.clGroupDissolve c) s fun t =>
      OnlyEnds s.body t fl 0 0 [(Reg.bwGroupStat i).addr, (Reg.bwGroupEpoch i).addr] ∧ t.groupState i = 0 ∧ t.group i = {} := by
  obtain ⟨hi, -, -⟩ := groupIndex_spec hidx
  have hexec : exec (.clGroupDissolve c) s = .next { s with
      body := (s.body.dissolve i 0x30).done fl } := by
    rw [exec_onSub hd hop rfl, hidx]
    dsimp only
    rw [if_pos hctx]
  rw [dissolve_quiet hruns hcolls hwait] at hexec
  have hgone : SameBut [(Reg.bwGroupStat i).addr, (Reg.bwGroupEpoch i).addr] s.body
      { s.body with ln.groups := SMap.drop s.body.ln.groups i } := (SameBut.refl _ _).beside rfl rfl rfl rfl rfl
  refine gives_of_next hexec ⟨((hgone.setReg (by simp) _).setReg (by simp) _).done fl 0, ?_, ?_⟩
  · rw [Body.groupState, Body.getF, (unnoted_bwGroupStat hi).done, Body.reg_setReg_ne _ _ (bwGroupEpoch_ne i i),
      Body.reg_setReg_self _ _ (bwGroupStat_ok hi) (bwGroupStat_stored i)]
    exact (resetWord_fld [] (.bwGroupStat i) (f := Fld.bwGroupStatState) (by simp [Reg.fields])).trans rfl
  · rw [group_congr (Body.done_ln _ _ _), group_congr (Body.setReg_ln _ _ _), group_congr (Body.setReg_ln _ _ _)]
    exact get_drop_self _ _ _

end

/-! ### CL_UNREGISTER (R364) -/

theorem bwBasinStat_ok {h : Nat} (hh : h < 2) : (Reg.bwBasinStat h).ok = true := decide_eq_true hh

theorem bwBasinStat_stored (h : Nat) : (Reg.bwBasinStat h).stored := by simp [Reg.stored]

theorem unnoted_bwBasinStat {h : Nat} (hh : h < 2) : (Reg.bwBasinStat h).Unnoted := by
  constructor <;> simp only [Reg.addr] <;> omega

theorem coll_congr {b c : Body} (h : c.ln = b.ln) (r : Nat) : c.coll r = b.coll r := by rw [Body.coll, h, Body.coll]

theorem regFor_eq {b : Body} {fl : Flight} {r : Registration} (h : b.regFor fl = some r) : b.coll (fl.cmd.f 1 22 16) = r := by
  unfold Body.regFor at h
  dsimp only at h
  split at h
  · split at h
    · exact Option.some.inj h
    · cases h
  · cases h

/-- The body with both Basins' slots of a registration returned. -/
def Body.slotsBack (b : Body) (s0 s1 : Nat) : Body :=
  (b.bump (.bwBasinStat 0) Fld.bwBasinStatFree s0).bump (.bwBasinStat 1) Fld.bwBasinStatFree s1

theorem slotsBack_counted (b : Body) (s0 s1 : Nat) :
    Counted b (b.slotsBack s0 s1) (.bwBasinStat 0) Fld.bwBasinStatFree s0 ∧
      Counted b (b.slotsBack s0 s1) (.bwBasinStat 1) Fld.bwBasinStatFree s1 := by
  have hfirst (q : Nat) (hq : q < 2) (c : Body) (n : Nat) :=
    counted_bump c n (bwBasinStat_ok hq) (bwBasinStat_stored q) (f := Fld.bwBasinStatFree) (by decide) (by decide)
  refine ⟨(hfirst 0 (by decide) b s0).of_reg ?_, counted_from (hfirst 1 (by decide) _ s1) ?_⟩
  · exact Body.reg_setF_ne (b.bump (.bwBasinStat 0) Fld.bwBasinStatFree s0) (r := .bwBasinStat 1) _ _ (by decide)
  · rw [Body.bump, Body.getF, Body.reg_setF_ne _ _ _ (by decide), Body.getF]

section
variable {s : State} {c : Cmd} {fl : Flight} {reg : Nat} (hreg : reg = c.f 1 22 16) (hd : Dispatched s.body c 0x64 fl)
include hd

theorem clUnregister_of_none (hnone : s.body.regFor fl = none) : Gives (.clUnregister c) s fun t =>
    OnlyEnds s.body t fl 0x11 0 [] ∧ t.ln = s.body.ln := by
  have hexec : exec (.clUnregister c) s = .next { s with
      body := s.body.fail fl 0x11 } := by
    rw [exec_onCmd hd rfl, hnone]
  exact gives_of_next hexec ⟨(SameBut.refl [] s.body).fail fl 0x11 0 0, Body.fail_ln _ _ _ _ _⟩

include hreg

theorem exec_clUnregister {r : Registration} (hr : s.body.regFor fl = some r) (hopen : r.closing = none) :
    exec (.clUnregister c) s = .next { s with
      body := if s.body.ln.runs.any fun x => decide (x.reg = reg) then
          { s.body.start fl with ln.colls := SMap.set s.body.ln.colls {} reg { r with closing := some fl } }
        else (s.body.releaseReg reg).done fl } := by
  rw [exec_onCmd hd rfl, hr]
  dsimp only
  rw [if_neg (by rw [hopen]; decide), hreg]

theorem clUnregister_returns {r : Registration} (hr : s.body.regFor fl = some r) (hopen : r.closing = none)
    (hidle : ∀ x ∈ s.body.ln.runs, x.reg ≠ reg) : Gives (.clUnregister c) s fun t =>
      OnlyEnds s.body t fl 0 0 [(Reg.bwBasinStat 0).addr, (Reg.bwBasinStat 1).addr] ∧ t.coll reg = {} ∧
      Counted s.body t (.bwBasinStat 0) Fld.bwBasinStatFree r.slots0 ∧ Counted s.body t (.bwBasinStat 1) Fld.bwBasinStatFree r.slots1 := by
  have hcoll : s.body.coll reg = r := by rw [hreg, ← hd.cmd]; exact regFor_eq hr
  have hexec := exec_clUnregister hreg hd hr hopen
  rw [if_neg (by simpa using hidle)] at hexec
  obtain ⟨h0, h1⟩ := slotsBack_counted s.body r.slots0 r.slots1
  have hback : SameBut [(Reg.bwBasinStat 0).addr, (Reg.bwBasinStat 1).addr] s.body (s.body.slotsBack r.slots0 r.slots1) :=
    ((SameBut.refl _ _).bump (by simp) _ _).bump (by simp) _ _
  have hrelease : s.body.releaseReg reg = { s.body.slotsBack r.slots0 r.slots1 with
      ln.colls := SMap.drop (s.body.slotsBack r.slots0 r.slots1).ln.colls reg } := by
    rw [← hcoll]
    rfl
  have hdone (q : Nat) (hq : q < 2) : ((s.body.releaseReg reg).done fl).reg (.bwBasinStat q) =
      (s.body.slotsBack r.slots0 r.slots1).reg (.bwBasinStat q) := by
    rw [(unnoted_bwBasinStat hq).done, hrelease]
    exact Body.reg_congr rfl _
  refine gives_of_next hexec ⟨?_, ?_, h0.of_reg (hdone 0 (by decide)), h1.of_reg (hdone 1 (by decide))⟩
  · rw [hrelease]
    refine SameBut.done ?_ fl 0
    exact hback.beside rfl rfl rfl rfl rfl
  · rw [coll_congr (Body.done_ln _ _ _), hrelease]
    exact get_drop_self _ _ _

theorem clUnregister_waits {r : Registration} {x : ClRun} (hr : s.body.regFor fl = some r) (hopen : r.closing = none)
    (hx : x ∈ s.body.ln.runs) (hxreg : x.reg = reg) : Gives (.clUnregister c) s fun t =>
      StaysInFlight s.body t fl ∧ t.coll reg = { r with closing := some fl } ∧ t.regs = s.body.regs := by
  have hexec := exec_clUnregister hreg hd hr hopen
  rw [if_pos (List.any_eq_true.mpr ⟨x, hx, decide_eq_true hxreg⟩)] at hexec
  obtain ⟨hended, y, hy, hstarted⟩ := staysInFlight_start (b := s.body) rfl hd.mem
  exact gives_of_next hexec ⟨⟨hended, y, hy, hstarted⟩, SMap.get_set_self _ _ _ _, rfl⟩

end

/-! ### CL_REGISTER (R364-R366) -/

/-- A field of a stored row reads back. -/
theorem RowStored.le_field {b t : Body} {a k v : Nat} {pre post : List Byte} (h : RowStored b t a (pre ++ (leBytes k v ++ post))) :
    t.le (a + pre.length) k = v % 256 ^ k := by
  refine h.le_part (by simp only [List.length_append, length_leBytes]; omega) fun j hj => ?_
  rw [List.getD_eq_getElem?_getD, List.getElem?_append_right (by omega), Nat.add_sub_cancel_left,
    List.getElem?_append_left (by rw [length_leBytes]; exact hj), List.getD_eq_getElem?_getD]

/-- The record of a registration whose slots all fit (R366). -/
def grantRow (id reg path epoch cnt0 cnt1 slots : Nat) : List Byte :=
  leBytes 2 id ++ leBytes 1 reg ++ leBytes 1 path ++ leBytes 4 epoch ++ leBytes 2 cnt0 ++ leBytes 2 cnt1 ++ leBytes 4 slots ++
    leBytes 8 0 ++ leBytes 8 0

theorem length_grantRow (id reg path epoch cnt0 cnt1 slots : Nat) : (grantRow id reg path epoch cnt0 cnt1 slots).length = 32 := by
  simp only [grantRow, List.length_append, length_leBytes]

theorem le_grantRow {b t : Body} {a id reg path epoch cnt0 cnt1 slots : Nat} (h : RowStored b t a (grantRow id reg path epoch cnt0 cnt1 slots)) :
    t.le a 2 = id % 256 ^ 2 ∧ t.le (a + 2) 1 = reg % 256 ^ 1 ∧ t.le (a + 4) 4 = epoch % 256 ^ 4 ∧ t.le (a + 12) 4 = slots % 256 ^ 4 := by
  have hpart {k v : Nat} (pre post : List Byte) (hrow : grantRow id reg path epoch cnt0 cnt1 slots = pre ++ (leBytes k v ++ post)) :
      t.le (a + pre.length) k = v % 256 ^ k := RowStored.le_field (hrow ▸ h)
  have hid := hpart (k := 2) (v := id) [] _ (by simp only [grantRow, List.append_assoc, List.nil_append]; rfl)
  have hreg := hpart (k := 1) (v := reg) (leBytes 2 id) _ (by simp only [grantRow, List.append_assoc]; rfl)
  have hepoch := hpart (k := 4) (v := epoch) (leBytes 2 id ++ (leBytes 1 reg ++ leBytes 1 path)) _
    (by simp only [grantRow, List.append_assoc]; rfl)
  have hslots := hpart (k := 4) (v := slots)
    (leBytes 2 id ++ (leBytes 1 reg ++ (leBytes 1 path ++ (leBytes 4 epoch ++ (leBytes 2 cnt0 ++ leBytes 2 cnt1))))) _
    (by simp only [grantRow, List.append_assoc]; rfl)
  simp only [List.length_append, length_leBytes, List.length_nil, Nat.add_zero] at hid hreg hepoch hslots
  exact ⟨hid, hreg, hepoch, hslots⟩

/-- The body with slots taken from both Basins. -/
def Body.slotsTaken (b : Body) (want : Nat → Nat) : Body :=
  (b.setF (.bwBasinStat 0) Fld.bwBasinStatFree (b.getF (.bwBasinStat 0) Fld.bwBasinStatFree - want 0)).setF (.bwBasinStat 1)
    Fld.bwBasinStatFree (b.getF (.bwBasinStat 1) Fld.bwBasinStatFree - want 1)

/-- The slots that a registration wants of a Basin: NSLOT for each local rank that is interior in its tree (R365). -/
def Body.slotsWanted (b : Body) (i : Nat) (r : Registration) (t : Nat) : Nat :=
  if r.op = 5 then 0 else ((b.localRanks (b.group i)).filter fun k => interior t (b.group i).ranks.length k).length * r.nslot

/-- The body with a registration granted. -/
def Body.granted (b : Body) (reg : Nat) (r : Registration) (want : Nat → Nat) : Body :=
  { b.slotsTaken want with ln.colls := SMap.set (b.slotsTaken want).ln.colls {} reg { r with slots0 := want 0, slots1 := want 1 } }

theorem groupEpoch_granted (b : Body) (reg : Nat) (r : Registration) (want : Nat → Nat) (i : Nat) :
    (b.granted reg r want).groupEpoch i = b.groupEpoch i := by
  have hsame : (b.granted reg r want).reg (.bwGroupEpoch i) = (b.slotsTaken want).reg (.bwGroupEpoch i) := Body.reg_congr rfl _
  rw [Body.groupEpoch, Body.getF, hsame, Body.slotsTaken, Body.reg_setF_ne _ _ _ (by simp only [Reg.addr]; omega),
    Body.reg_setF_ne _ _ _ (by simp only [Reg.addr]; omega), Body.groupEpoch, Body.getF]

/-- A grant whose slots all fit takes them and writes its record. -/
theorem grant_fits {b : Body} {fl : Flight} {i : Nat} {r : Registration} {e : Entry} {want : Nat → Nat} (hwant : want = b.slotsWanted i r)
    (hfits : ∀ t, t < 2 → want t ≤ b.getF (.bwBasinStat t) Fld.bwBasinStatFree) (hscratch : r.scratch = 0) (hlen : r.scratchLen = 0) :
    ∃ path cnt0 cnt1, b.grant fl i r e none = (((b.granted (fl.cmd.f 1 22 16) r want).store e.base
      (grantRow (fl.cmd.f 1 15 0) (fl.cmd.f 1 22 16) path (b.groupEpoch i) cnt0 cnt1 (want 0 + want 1))).done fl) := by
  subst hwant
  have h0 := hfits 0 (by decide)
  have h1 := hfits 1 (by decide)
  have hfirst : (b.setF (.bwBasinStat 0) Fld.bwBasinStatFree (b.getF (.bwBasinStat 0) Fld.bwBasinStatFree - b.slotsWanted i r 0)).getF
      (.bwBasinStat 1) Fld.bwBasinStatFree = b.getF (.bwBasinStat 1) Fld.bwBasinStatFree := by
    rw [Body.getF, Body.reg_setF_ne _ _ _ (by decide), Body.getF]
  unfold Body.grant
  extract_lets reg g n cnt want fits mem take taken s0 s1 path r' _ after row
  have hf0 : fits 0 = true := decide_eq_true h0
  have hf1 : fits 1 = true := decide_eq_true h1
  have hmem : mem = 0 := by unfold mem; rw [if_pos hf0, if_pos hf1]
  have hs0 : s0 = b.slotsWanted i r 0 := if_pos hf0
  have hs1 : s1 = b.slotsWanted i r 1 := if_pos hf1
  have htaken : taken = b.slotsTaken (b.slotsWanted i r) := by
    have htake (t : Nat) (c : Body) (ht : fits t = true) : take t c =
      c.setF (.bwBasinStat t) Fld.bwBasinStatFree (c.getF (.bwBasinStat t) Fld.bwBasinStatFree - b.slotsWanted i r t) := if_pos ht
    unfold taken
    rw [htake 1 _ hf1, htake 0 _ hf0, hfirst]
    rfl
  have hr' : r' = { r with slots0 := b.slotsWanted i r 0, slots1 := b.slotsWanted i r 1 } := by
    unfold r'
    rw [hs0, hs1, hmem, Registration.mk.injEq]
    simp [hscratch, hlen]
  have hafter : after = b.granted reg r (b.slotsWanted i r) := by
    show { taken with ln := { taken.ln with colls := SMap.set taken.ln.colls {} reg r' } } = _
    rw [hr', htaken]
    rfl
  refine ⟨path, cnt 0, cnt 1, ?_⟩
  rw [if_neg (by rw [hmem]; simp), ← hafter]
  congr 2
  unfold row grantRow
  rw [hs0, hs1, hmem, Nat.zero_mul, hafter, groupEpoch_granted]

theorem hm_granted (b : Body) (reg : Nat) (r : Registration) (want : Nat → Nat) : (b.granted reg r want).hm = b.hm := by
  show ((b.setF _ _ _).setF _ _ _).hm = _
  rw [Body.setF_hm, Body.setF_hm]

theorem memory_granted (b : Body) (reg : Nat) (r : Registration) (want : Nat → Nat) : (b.granted reg r want).memory = b.memory := by
  show ((b.setF _ _ _).setF _ _ _).memory = _
  rw [memory_setF, memory_setF]

theorem plain_granted {b : Body} (h : PlainMemory b) (reg : Nat) (r : Registration) (want : Nat → Nat) :
    PlainMemory (b.granted reg r want) := by
  have htiers : (b.slotsTaken want).tiers = b.tiers := by rw [Body.slotsTaken, Body.setF_tiers, Body.setF_tiers]
  have hln : (b.slotsTaken want).ln = b.ln := by rw [Body.slotsTaken, Body.setF_ln, Body.setF_ln]
  exact ⟨(congrArg Tiers.badSectors htiers).trans h.1, (congrArg (fun y : Lines => y.twin.mirrors) hln).trans h.2⟩

theorem free_granted (b : Body) (reg : Nat) (r : Registration) (want : Nat → Nat) {k : Nat} (hk : k < 2) :
    (b.granted reg r want).getF (.bwBasinStat k) Fld.bwBasinStatFree = b.getF (.bwBasinStat k) Fld.bwBasinStatFree - want k := by
  have hself (c : Body) {q : Nat} (hq : q < 2) (v : Nat) (hv : v < 256) :
      (c.setF (.bwBasinStat q) Fld.bwBasinStatFree v).getF (.bwBasinStat q) Fld.bwBasinStatFree = v := by
    rw [getF_setF_fields _ _ (bwBasinStat_ok hq) (bwBasinStat_stored q) (by decide), if_pos rfl]
    exact Nat.mod_eq_of_lt hv
  have hlt (q : Nat) : b.getF (.bwBasinStat q) Fld.bwBasinStatFree - want q < 256 :=
    (Nat.sub_le _ _).trans_lt (b.getF_lt (.bwBasinStat q) Fld.bwBasinStatFree)
  have hsame : (b.granted reg r want).getF (.bwBasinStat k) Fld.bwBasinStatFree =
    (b.slotsTaken want).getF (.bwBasinStat k) Fld.bwBasinStatFree := Body.getF_congr rfl _ _
  rw [hsame, Body.slotsTaken]
  obtain rfl | rfl : k = 0 ∨ k = 1 := by omega
  · rw [Body.getF, Body.reg_setF_ne _ _ _ (by decide), ← Body.getF, hself _ (by decide) _ (hlt 0)]
  · rw [hself _ (by decide) _ (hlt 1)]

theorem reg_store_basin (b : Body) {k : Nat} (hk : k < 2) (a : Nat) (row : List Byte) :
    (b.store a row).reg (.bwBasinStat k) = b.reg (.bwBasinStat k) :=
  store_keep_apart (fun b => b.reg (.bwBasinStat k)) (fun _ _ => Body.reg_congr rfl _) (fun _ _ => Body.reg_congr rfl _)
    (fun b _ => Body.reg_setF_ne b _ _ (by simp only [Reg.addr]; omega)) (fun b _ _ => Body.reg_setF_ne b _ _ (by simp only [Reg.addr]; omega))
    (fun b _ _ _ _ _ => (unnoted_bwBasinStat hk).error b _ _ _ _ _ _ _) b a row

section
variable {s : State} {c : Cmd} {fl : Flight} {i id reg : Nat} (hid : id = c.f 1 15 0) (hreg : reg = c.f 1 22 16)
  (hd : Dispatched s.body c 0x62 fl) (hidx : s.body.groupIndex id = some i) (hfresh : (s.body.coll reg).used = false)
  (hctx : s.body.getF (.bwGroupStat i) Fld.bwGroupStatCtx = c.ctx.toNat)
include hid hreg hd hidx hfresh hctx

theorem clRegister_not_ready (hstate : s.body.groupState i ≠ 2) : Gives (.clRegister c) s fun t =>
    OnlyEnds s.body t fl 0x30 0 [] ∧ t.ln = s.body.ln := by
  have hexec : exec (.clRegister c) s = .next { s with
      body := s.body.fail fl 0x30 } := by
    rw [exec_onCmd hd rfl]
    dsimp only
    rw [← hid, hidx]
    dsimp only
    rw [← hreg, if_neg (by simp [hfresh, hctx]), if_pos hstate]
  exact gives_of_next hexec ⟨(SameBut.refl [] s.body).fail fl 0x30 0 0, Body.fail_ln _ _ _ _ _⟩

/-- The registration that CL_REGISTER gives. -/
theorem exec_clRegister {e : Entry} {r : Registration} (hstate : s.body.groupState i = 2)
    (hacc : s.body.access fl.slot (c.h 4) 0 32 true = .ok e) (hplace : e.place ≠ 5) (hscratch : c.h 3 = 0)
    (hr : r = (regOf c (s.body.group i).ranks.length fl.slot i (((s.body.partOfSlot fl.slot).map (partIsTile s.body.framing)).getD false)).1) :
    ∃ n, exec (.clRegister c) s = .next { s with
      body := (s.body.clampCmd fl n).grant fl i r e none } := by
  have htile : (match s.body.partOfSlot fl.slot with | some p => partIsTile s.body.framing p | none => false) =
      ((s.body.partOfSlot fl.slot).map (partIsTile s.body.framing)).getD false := by
    cases s.body.partOfSlot fl.slot <;> rfl
  have hchecks (n : Nat) : (s.body.clampCmd fl n).access fl.slot (c.h 4) 0 32 true = .ok e := by
    have hsame := sameChecks_clampCmd s.body fl n
    rw [← hacc, Body.access, hsame.resolve, Body.access]
    simp only [hsame.accessOk]
  refine ⟨(regOf c (s.body.group i).ranks.length fl.slot i
    (((s.body.partOfSlot fl.slot).map (partIsTile s.body.framing)).getD false)).2, ?_⟩
  rw [exec_onCmd hd rfl]
  dsimp only
  rw [← hid, hidx]
  dsimp only
  rw [← hreg, if_neg (by simp [hfresh, hctx]), if_neg (by rw [hstate]; decide)]
  have hgrant : ∀ tile, tile = ((s.body.partOfSlot fl.slot).map (partIsTile s.body.framing)).getD false →
      (match (s.body.clampCmd fl (regOf c (s.body.group i).ranks.length fl.slot i tile).2).access fl.slot (c.h 4) 0 32 true with
        | .error st => (s.body.clampCmd fl (regOf c (s.body.group i).ranks.length fl.slot i tile).2).fail fl st (c.h 4)
        | .ok rec =>
          if rec.place = 5 then (s.body.clampCmd fl (regOf c (s.body.group i).ranks.length fl.slot i tile).2).fail fl 0x11 (c.h 4)
          else (s.body.clampCmd fl (regOf c (s.body.group i).ranks.length fl.slot i tile).2).grant fl i
            (regOf c (s.body.group i).ranks.length fl.slot i tile).1 rec none) = (s.body.clampCmd fl (regOf c
              (s.body.group i).ranks.length fl.slot i tile).2).grant fl i r e none := fun tile htile => by
    rw [hchecks]
    dsimp only
    rw [if_neg hplace, hr, htile]
  rw [← hgrant _ rfl]
  simp only [if_pos hscratch]
  rw [← htile] <;> rfl

theorem clRegister_grants {e : Entry} {r : Registration} {want : Nat → Nat} (hstate : s.body.groupState i = 2)
    (hplain : PlainMemory s.body) (hacc : s.body.access fl.slot (c.h 4) 0 32 true = .ok e) (hplace : e.place ≠ 5) (hscratch : c.h 3 = 0)
    (hr : r = (regOf c (s.body.group i).ranks.length fl.slot i (((s.body.partOfSlot fl.slot).map (partIsTile s.body.framing)).getD false)).1)
    (hwant : want = s.body.slotsWanted i r)
    (hfits : ∀ t, t < 2 → want t ≤ s.body.getF (.bwBasinStat t) Fld.bwBasinStatFree) : Gives (.clRegister c) s fun t =>
      EndsWith s.body t fl 0 0 ∧ t.coll reg = { r with slots0 := want 0, slots1 := want 1 } ∧
      (∀ k, k < 2 → t.getF (.bwBasinStat k) Fld.bwBasinStatFree = s.body.getF (.bwBasinStat k) Fld.bwBasinStatFree - want k) ∧
      t.le e.base 2 = id ∧ t.le (e.base + 2) 1 = reg ∧ t.le (e.base + 4) 4 = s.body.groupEpoch i ∧
      t.le (e.base + 12) 4 = (want 0 + want 1) % 2 ^ 32 ∧ SameBytesBut s.body t e.base 32 := by
  obtain ⟨hi, -, -⟩ := groupIndex_spec hidx
  obtain ⟨n, hexec⟩ := exec_clRegister hid hreg hd hidx hfresh hctx hstate hacc hplace hscratch hr
  set b := s.body.clampCmd fl n with hb
  have hfree (t : Nat) (ht : t < 2) : b.getF (.bwBasinStat t) Fld.bwBasinStatFree = s.body.getF (.bwBasinStat t) Fld.bwBasinStatFree := by
    rw [Body.getF, (unnoted_bwBasinStat ht).clampCmd, Body.getF]
  have hepoch : b.groupEpoch i = s.body.groupEpoch i := by
    rw [Body.groupEpoch, Body.getF, (unnoted_bwGroupEpoch hi).clampCmd, Body.groupEpoch, Body.getF]
  have hwanted : want = b.slotsWanted i r := by
    have hframing : b.framing = s.body.framing := Body.clampCmd_framing _ _ _
    have hgroup : b.group i = s.body.group i := group_congr (Body.clampCmd_ln _ _ _) i
    rw [hwant]
    funext t
    unfold Body.slotsWanted Body.localRanks Body.self
    rw [hframing, hgroup]
  obtain ⟨path, cnt0, cnt1, hgrant⟩ := grant_fits (fl := fl) (e := e) hwanted (fun t ht => (hfits t ht).trans (hfree t ht).ge) (by rw [hr]; rfl)
    (by rw [hr]; rfl)
  rw [hd.cmd, ← hid, ← hreg, hepoch] at hgrant
  rw [hgrant] at hexec
  have hplain' : PlainMemory (b.granted reg r want) := plain_granted ⟨by rw [Body.clampCmd_tiers]; exact hplain.1,
    by rw [Body.clampCmd_ln]; exact hplain.2⟩ reg r want
  have hrow := rowStored_store hplain' e.base (grantRow id reg path (s.body.groupEpoch i) cnt0 cnt1 (want 0 + want 1))
  set t := (b.granted reg r want).store e.base (grantRow id reg path (s.body.groupEpoch i) cnt0 cnt1 (want 0 + want 1)) with ht
  obtain ⟨hle0, hle2, hle4, hle12⟩ := le_grantRow hrow
  have hdone : ∀ a, (t.done fl).byte a = t.byte a := sameBytes_of (by simp) (by simp) (by simp)
  have hle (a k : Nat) : (t.done fl).le a k = t.le a k := congrArg ofLe (Body.bytes_congr (by simp) (by simp) (by simp) a k)
  have hid' : id < 256 ^ 2 := by rw [hid]; exact cmd_f_lt c 1 15 0
  have hreg' : reg < 256 ^ 1 := by rw [hreg]; exact (cmd_f_lt c 1 22 16).trans (by decide)
  have hepoch' : s.body.groupEpoch i < 256 ^ 4 := s.body.getF_lt (.bwGroupEpoch i) Fld.bwGroupEpochEpoch
  refine gives_of_next hexec ⟨Body.endsWith_done fl 0 ?_, ?_, fun k hk => ?_, ?_, ?_, ?_, ?_, fun x hx => ?_⟩
  · rw [hrow.ended, hm_granted, hb, Body.clampCmd_hm]
  · rw [coll_congr (Body.done_ln _ _ _), coll_congr (ln_store _ _ _)]
    exact SMap.get_set_self _ _ _ _
  · rw [Body.getF, (unnoted_bwBasinStat hk).done, reg_store_basin _ hk, ← Body.getF, free_granted _ _ _ _ hk, hfree k hk]
  · rw [hle, hle0, Nat.mod_eq_of_lt hid']
  · rw [hle, hle2, Nat.mod_eq_of_lt hreg']
  · rw [hle, hle4, Nat.mod_eq_of_lt hepoch']
  · rw [hle, hle12, show 256 ^ 4 = 2 ^ 32 by norm_num]
  · rw [hdone, hrow.outside x (by rw [length_grantRow]; exact hx)]
    exact sameBytes_of_memory ((memory_granted _ _ _ _).trans (by simp [Body.memory, hb])) x

end

/-! ### The obligation -/

theorem group_eq_groupOf {g : Group} {n : Nat} {l : List Byte}
    (h : (g.ranks, g.hash, g.joins, g.waiting, g.pending) = (ranksOf n l, listHash l, ([] : List Nat), (none : Option Flight), (none : Option Nat))) :
    g = groupOf n l := by
  simp only [Prod.mk.injEq] at h
  obtain ⟨hranks, hhash, hjoins, hwaiting, hpending⟩ := h
  cases g
  simp only at hranks hhash hjoins hwaiting hpending
  rw [groupOf, hranks, hhash, hjoins, hwaiting, hpending]

/-- Settles O51, message by message and command by command. -/
theorem collectiveGroupsForm : Obligations.CollectiveGroupsForm := by
  unfold Obligations.CollectiveGroupsForm
  intro s c fl id n hid
  refine ⟨fun e g i hn hd hop hplain hacc hg hnew hfree => ?_, fun hd hop => ⟨fun hnone => ?_, fun i hidx hctx hruns hcolls hwait => ?_⟩,
    fun peer group epoch hash => ⟨fun hnone => ⟨join_of_unknown hnone, brokenReport_of_unknown hnone⟩,
      fun i g hidx hg => ⟨fun hlow j hj => message_of_lower_epoch hidx hlow hj,
        fun f hepoch hstate hhash hpending hwait hall => join_completes hidx hg hepoch hstate hhash hpending hwait hall,
        join_supersedes hidx, fun hepoch hpeer h3 => brokenReport_breaks hidx hepoch (hg ▸ hpeer) h3⟩⟩,
    fun i reg hreg hd hidx hfresh hctx => ⟨clRegister_not_ready hid hreg hd hidx hfresh hctx,
      fun e r want hstate hplain hacc hplace hscratch hr hwant hfits =>
        clRegister_grants hid hreg hd hidx hfresh hctx hstate hplain hacc hplace hscratch hr hwant hfits⟩,
    fun reg hreg hd => ⟨clUnregister_of_none hd, fun r hr hopen hidle => clUnregister_returns hreg hd hr hopen hidle,
      fun r x hr hopen hx hxreg => clUnregister_waits hreg hd hr hopen hx hxreg⟩⟩
  · have hgroup := group_eq_groupOf hg
    exact ⟨clGroup_refused hid hn hd hop hplain hacc hgroup hnew hfree, fun hquays hhere hjoins =>
      ⟨clGroup_ready hid hn hd hop hplain hacc hgroup hnew hfree hquays hhere hjoins,
        clGroup_forms hid hn hd hop hplain hacc hgroup hnew hfree hquays hhere hjoins⟩⟩
  · exact clGroupDissolve_of_none hd hop (hid ▸ hnone)
  · exact clGroupDissolve_frees hd hop (hid ▸ hidx) hctx hruns hcolls hwait

end Sys2Proof.Machine
end

section
/-! PROOFS. Messages to the Twin, and what they leave alone (R372). -/

namespace Sys2Proof.Machine

/-! ### BW_TWIN_STAT -/

theorem bwTwinStat_ok : Reg.bwTwinStat.ok = true := rfl

theorem bwTwinStat_stored : Reg.bwTwinStat.stored := by simp [Reg.stored]

theorem unnoted_bwTwinStat : Reg.bwTwinStat.Unnoted := by constructor <;> simp only [Reg.addr] <;> omega

theorem twinLines_congr {b c : Body} (hstat : ∀ l, l < 36 → c.reg (.lnStat l) = b.reg (.lnStat l))
    (hcfg : ∀ l, l < 36 → c.reg (.lnCfg l) = b.reg (.lnCfg l)) : c.twinLines = b.twinLines := by
  refine List.filter_congr fun l hl => ?_
  have hlt : l < 36 := by simp only [List.mem_cons, List.not_mem_nil, or_false] at hl; omega
  rw [Body.lineUp, Body.lineState, Body.getF, Body.getF, hstat l hlt, hcfg l hlt, Body.lineUp, Body.lineState, Body.getF, Body.getF]

theorem twinLines_setTwinStat (b : Body) (f : Fld) (v : Nat) : (b.setF .bwTwinStat f v).twinLines = b.twinLines :=
  twinLines_congr (fun _ _ => Body.reg_setF_ne b f v (by simp only [Reg.addr]; omega))
    fun _ _ => Body.reg_setF_ne b f v (by simp only [Reg.addr]; omega)

/-! ### What a message keeps -/

/-- Beside its Line, its counters and what is sent, a message changes none of this. -/
structure MsgKept (b c : Body) : Prop where
  memory : c.memory = b.memory
  hm : c.hm = b.hm
  twin : c.ln.twin = b.ln.twin
  stat : c.reg .bwTwinStat = b.reg .bwTwinStat
  out : b.out <+: c.out

namespace MsgKept

variable {b c d : Body}

theorem refl (b : Body) : MsgKept b b := ⟨rfl, rfl, rfl, rfl, List.prefix_refl _⟩

theorem trans (h : MsgKept b c) (g : MsgKept c d) : MsgKept b d :=
  ⟨g.memory.trans h.memory, g.hm.trans h.hm, g.twin.trans h.twin, g.stat.trans h.stat, h.out.trans g.out⟩

theorem bytes (h : MsgKept b c) : SameBytes b c := sameBytes_of_memory h.memory

theorem getF (h : MsgKept b c) (f : Fld) : c.getF .bwTwinStat f = b.getF .bwTwinStat f := by rw [Body.getF, h.stat, Body.getF]

theorem twinState (h : MsgKept b c) : c.twinState = b.twinState := h.getF _

theorem capped (b : Body) (n : Nat) : MsgKept b (b.bump .bwClTally Fld.bwClTallyCapped n) where
  memory := memory_setF _ _ _ _
  hm := by simp
  twin := by simp
  stat := Body.reg_setF_ne b _ _ (by decide)
  out := by simp

theorem count (b : Body) (slot i n : Nat) : MsgKept b (b.count slot i n) where
  memory := by simp [Body.memory]
  hm := by simp
  twin := by simp
  stat := unnoted_bwTwinStat.count b _ _ _
  out := by simp

theorem pump (b : Body) (l : Nat) : MsgKept b (b.pump l) where
  memory := memory_pump b l
  hm := hm_pump b l
  twin := pumpN_inv l (fun c => c.ln.twin = b.ln.twin) (fun _ _ _ _ hc => hc) _ b rfl
  stat := Body.reg_congr (regs_pump b l) _
  out := out_pump b l

/-- A message sent over a Line goes out, and nothing but its Line and counters changes with it. -/
theorem lineSend (b : Body) (l vc : Nat) (m : Msg) (uid granule : Option Nat) :
    MsgKept (b.send { m with port := .line l }) (b.lineSend l vc m uid granule) := by
  have hcapped : ∀ (c : Body) (p : Prop) [Decidable p] n, MsgKept c (if p then c.bump .bwClTally Fld.bwClTallyCapped n else c) :=
    fun c p _ n => by
      split
      · exact capped c n
      · exact refl c
  have hline : ∀ (c : Body) x, MsgKept c (c.setLine l x) := fun c x => ⟨rfl, rfl, rfl, rfl, List.prefix_refl _⟩
  unfold Body.lineSend
  dsimp only
  split
  · exact (((hcapped _ _ _).trans (count _ _ _ _)).trans (hline _ _)).trans (pump _ _)
  · exact ((hcapped _ _ _).trans (hline _ _)).trans (pump _ _)

theorem sent (b : Body) (m : Msg) : MsgKept b (b.send m) := ⟨rfl, rfl, rfl, rfl, List.prefix_append _ _⟩

/-- So it is with a message to the Twin. -/
theorem twinSend (b : Body) (vc : Nat) (kind : MsgKind) (nums : List Nat) (data : List Byte) (granule : Option Nat) :
    MsgKept b (b.twinSend vc kind nums data granule) := by
  have hfree : MsgKept b b.free.2 := ⟨rfl, rfl, rfl, rfl, List.prefix_refl _⟩
  unfold Body.twinSend
  dsimp only
  split
  · exact hfree.trans ((sent _ _).trans (lineSend _ _ _ _ _ _))
  · exact hfree

end MsgKept

/-- With a Twin Line UP, a message to the Twin goes out. -/
theorem twinSend_goes {b : Body} (h : b.twinLines ≠ []) (vc : Nat) (kind : MsgKind) (nums : List Nat) (data : List Byte)
    (granule : Option Nat) : ∃ z ∈ (b.twinSend vc kind nums data granule).out, z.kind = kind ∧ z.nums = nums ∧ z.data = data := by
  have hpos := List.length_pos_of_ne_nil h
  have hidx : b.free.1.toNat % max 1 b.twinLines.length < b.twinLines.length := by
    rw [max_eq_right hpos]
    exact Nat.mod_lt _ hpos
  have hget : b.free.2.twinLines[b.free.1.toNat % max 1 b.free.2.twinLines.length]? = some b.twinLines[b.free.1.toNat % max 1 b.twinLines.length] :=
    List.getElem?_eq_getElem hidx
  unfold Body.twinSend
  dsimp only
  rw [hget]
  exact ⟨_, (MsgKept.lineSend _ _ _ _ _ _).out.subset (List.mem_append_right _ (List.mem_singleton_self _)), rfl, rfl, rfl⟩

/-! ### A bit of a mirror's bitmap -/

theorem testBit_eq_bits (n i : Nat) : n.testBit i = decide (bits n i i = 1) := by
  rw [Nat.testBit_eq_decide_div_mod_eq, bits, Nat.shiftRight_eq_div_pow, Nat.add_sub_cancel_left, pow_one]

theorem testBit_putBits (n v : Nat) {i k : Nat} : (putBits n i i v).testBit k = if k = i then decide (v % 2 = 1) else n.testBit k := by
  rw [testBit_eq_bits]
  split
  next h => rw [h, bits_putBits_self le_rfl, Nat.add_sub_cancel_left, pow_one]
  next h =>
    obtain hlt | hgt := Nat.lt_or_gt_of_ne h
    · rw [bits_putBits_below le_rfl hlt le_rfl, testBit_eq_bits]
    · rw [bits_putBits_above le_rfl hgt, testBit_eq_bits]

section
variable (b : Body) (base i : Nat)

theorem mapBit_setMapBit (v : Bool) (k : Nat) : (b.setMapBit base i v).mapBit base k = if k = i then v else b.mapBit base k := by
  unfold Body.setMapBit Body.mapBit
  by_cases hbyte : base + k / 8 = base + i / 8
  · have hlt : putBits (b.byte (base + i / 8)).toNat (i % 8) (i % 8) (if v then 1 else 0) < 2 ^ 8 :=
      putBits_lt (BitVec.isLt _) (Nat.mod_lt _ (by decide)) le_rfl
    have hiff : k % 8 = i % 8 ↔ k = i := by omega
    rw [hbyte, Body.byte_setByte_self, BitVec.toNat_ofNat, Nat.mod_eq_of_lt hlt, testBit_putBits]
    simp only [hiff]
    cases v <;> rfl
  · rw [Body.byte_setByte_ne b hbyte, if_neg fun h => hbyte (by rw [h])]

theorem sameBytesBut_setMapBit (v : Bool) : SameBytesBut b (b.setMapBit base i v) (base + i / 8) 1 := fun x hx =>
  Body.byte_setByte_ne b (by omega) _

end

end Sys2Proof.Machine
end

section
/-! PROOFS. Mirror ranges, mirror copies and syncs, pairing, detaching, and what comes from the Twin (R372-R375). -/

namespace Sys2Proof.Machine

/-! ### BW_TWIN_STAT after a change of the Twin -/

/-- A field of BW_TWIN_STAT after a write to it or to another of its fields. -/
theorem twinStat_setF (b : Body) {f g : Fld} (v : Nat) (h : f.lo ≤ f.hi ∧ f.hi < 64 ∧ g.lo ≤ g.hi ∧ (g = f ∨ g.hi < f.lo ∨ f.hi < g.lo)) :
    (b.setF .bwTwinStat f v).getF .bwTwinStat g = if g = f then v % 2 ^ f.width else b.getF .bwTwinStat g :=
  getF_setF_fields b v bwTwinStat_ok bwTwinStat_stored h

theorem twinState_setState (b : Body) {v : Nat} (hv : v < 8) : (b.setF .bwTwinStat Fld.bwTwinStatState v).twinState = v :=
  (twinStat_setF b v (by decide)).trans ((if_pos rfl).trans (Nat.mod_eq_of_lt hv))

theorem mirrors_syncMirrors (b : Body) : b.syncMirrors.getF .bwTwinStat Fld.bwTwinStatMirrors = min 16 b.ln.twin.mirrors.length :=
  (twinStat_setF b _ (by decide)).trans ((if_pos rfl).trans (Nat.mod_eq_of_lt (lt_of_le_of_lt (min_le_left _ _) (by decide))))

theorem other_syncMirrors (b : Body) {f : Fld} (h : f.lo ≤ f.hi ∧ (f.hi < 3 ∨ 7 < f.lo)) :
    b.syncMirrors.getF .bwTwinStat f = b.getF .bwTwinStat f := by
  obtain ⟨hlo, hapart⟩ := h
  exact Body.getF_setF_apart b _ bwTwinStat_ok bwTwinStat_stored (by decide) (by decide) hlo hapart

theorem getF_done_twinStat (b : Body) (fl : Flight) (r : Nat) (f : Fld) : (b.done fl r).getF .bwTwinStat f = b.getF .bwTwinStat f := by
  rw [Body.getF, unnoted_bwTwinStat.done, Body.getF]

theorem sameBut_updTwin (l : List Nat) (b : Body) (f : Twin → Twin) : SameBut l b (b.updTwin f) := (SameBut.refl l b).beside rfl rfl rfl rfl rfl

theorem twinLines_updTwin (b : Body) (f : Twin → Twin) : (b.updTwin f).twinLines = b.twinLines :=
  twinLines_congr (fun _ _ => rfl) fun _ _ => rfl

theorem twinState_congr {b c : Body} (h : c.regs = b.regs) : c.twinState = b.twinState := by
  rw [Body.twinState, Body.getF, Body.reg_congr h, Body.twinState, Body.getF]

/-! ### TW_MIRROR (R373) -/

section
variable {s : State} {c : Cmd} {fl : Flight} (hd : Dispatched s.body c 0x69 fl)
include hd

theorem exec_twMirrorSend (hdir : c.b 1 0 = false) (an : List (Nat × Nat)) : exec (.twMirrorSend c an) s = .next { s with
      body := match s.body.mirrorArgs fl with
        | .error st => s.body.fail fl st (c.h 1)
        | .ok (e, m) =>
          if ¬ an.any fun p => decide (p.1 ≤ e.base ∧ e.base + e.size ≤ p.1 + p.2) then s.body.fail fl 0x11 (c.h 1)
          else
            (((s.body.updTwin fun t => { t with mirrors := t.mirrors ++ [Mirror.mk fl.slot (c.h 1) e.base e.size false m.base []] }).bump
              .bwTwinStat Fld.bwTwinStatDirty (s.body.marked (Mirror.mk fl.slot (c.h 1) e.base e.size false m.base [])).length).syncMirrors).done fl } :=
  (exec_onSub hd (by rw [hdir]; rfl) rfl).trans rfl

theorem exec_twMirrorAccept (hdir : c.b 1 0 = true) : exec (.twMirrorAccept c) s = .next { s with
      body := match s.body.mirrorArgs fl with
        | .error st => s.body.fail fl st (c.h 1)
        | .ok (e, m) =>
          (((s.body.updTwin fun t => { t with mirrors := t.mirrors ++ [Mirror.mk fl.slot (c.h 1) e.base e.size true m.base []] }).syncMirrors.twinSend
            1 .twinAccept [e.base, e.size])).done fl } :=
  (exec_onSub hd hdir rfl).trans rfl

theorem twMirror_fails {st : Nat} (hargs : s.body.mirrorArgs fl = .error st) :
    (∀ an, c.b 1 0 = false → Gives (.twMirrorSend c an) s fun t => OnlyEnds s.body t fl st 0 [] ∧ t.ln = s.body.ln) ∧
      (c.b 1 0 = true → Gives (.twMirrorAccept c) s fun t => OnlyEnds s.body t fl st 0 [] ∧ t.ln = s.body.ln) := by
  have hfail : OnlyEnds s.body (s.body.fail fl st (c.h 1)) fl st 0 [] ∧ (s.body.fail fl st (c.h 1)).ln = s.body.ln :=
    ⟨(SameBut.refl [] s.body).fail fl st _ 0, Body.fail_ln _ _ _ _ _⟩
  refine ⟨fun an hdir => gives_of_next (exec_twMirrorSend hd hdir an) ?_, fun hdir => gives_of_next (exec_twMirrorAccept hd hdir) ?_⟩ <;>
    rwa [hargs]

/-- The entries of a TW_MIRROR that passes its checks. -/
theorem mirrorArgs_ok {e m : Entry} (he : s.body.resolve fl.slot (c.h 1) = some e) (hm : s.body.resolve fl.slot (c.h 2) = some m)
    (heplace : e.place ∈ [2, 3]) (hmplace : m.place ∈ [2, 3]) (hroom : s.body.ln.twin.mirrors.length < 16)
    (hmap : ceilDiv e.size 65536 ≤ m.size * 8) (hok : s.body.accessOk m 0 m.size true = true) : s.body.mirrorArgs fl = .ok (e, m) := by
  unfold Body.mirrorArgs
  rw [hd.cmd, he, hm]
  dsimp only
  rw [if_neg fun h => h.elim (· heplace) fun h => h.elim (· hmplace) (Nat.not_le.mpr hroom),
    if_neg fun h => h.elim (Nat.not_lt.mpr hmap) (· hok)]

section
variable {e m : Entry} (hargs : s.body.mirrorArgs fl = .ok (e, m))
include hargs

theorem twMirrorSend_unannounced {an : List (Nat × Nat)} (hdir : c.b 1 0 = false)
    (hno : ∀ p ∈ an, e.base < p.1 ∨ p.1 + p.2 < e.base + e.size) : Gives (.twMirrorSend c an) s fun t =>
      OnlyEnds s.body t fl 0x11 0 [] ∧ t.ln = s.body.ln := by
  refine gives_of_next (exec_twMirrorSend hd hdir an) ?_
  have hnone : ¬ (an.any fun p => decide (p.1 ≤ e.base ∧ e.base + e.size ≤ p.1 + p.2)) = true := fun hany => by
    obtain ⟨p, hp, hin⟩ := List.any_eq_true.mp hany
    have := of_decide_eq_true hin
    have := hno p hp
    omega
  rw [hargs]
  dsimp only
  rw [if_pos hnone]
  exact ⟨(SameBut.refl [] s.body).fail fl 0x11 _ 0, Body.fail_ln _ _ _ _ _⟩

theorem twMirrorSend_adds {an : List (Nat × Nat)} {x : Mirror} (hx : x = Mirror.mk fl.slot (c.h 1) e.base e.size false m.base [])
    (hroom : s.body.ln.twin.mirrors.length < 16) (hdir : c.b 1 0 = false)
    (hin : ∃ p ∈ an, p.1 ≤ e.base ∧ e.base + e.size ≤ p.1 + p.2) : Gives (.twMirrorSend c an) s fun t =>
      OnlyEnds s.body t fl 0 0 [Reg.bwTwinStat.addr] ∧
        t.ln = { s.body.ln with twin := { s.body.ln.twin with mirrors := s.body.ln.twin.mirrors ++ [x] } } ∧
        Counted s.body t .bwTwinStat Fld.bwTwinStatDirty (s.body.marked x).length ∧
        t.getF .bwTwinStat Fld.bwTwinStatMirrors = s.body.ln.twin.mirrors.length + 1 := by
  have hany : (an.any fun p => decide (p.1 ≤ e.base ∧ e.base + e.size ≤ p.1 + p.2)) = true := by
    obtain ⟨p, hp, hin⟩ := hin
    exact List.any_eq_true.mpr ⟨p, hp, decide_eq_true hin⟩
  refine gives_of_next (exec_twMirrorSend hd hdir an) ?_
  rw [hargs]
  dsimp only
  rw [if_neg (not_not_intro hany), ← hx]
  set b := s.body.updTwin fun t => { t with mirrors := t.mirrors ++ [x] } with hb
  have hln : (b.bump .bwTwinStat Fld.bwTwinStatDirty (s.body.marked x).length).ln =
      { s.body.ln with twin := { s.body.ln.twin with mirrors := s.body.ln.twin.mirrors ++ [x] } } := by rw [Body.bump_ln]; rfl
  refine ⟨SameBut.done (((sameBut_updTwin _ s.body _).bump (List.mem_singleton_self _) _ _).setF (List.mem_singleton_self _) _ _) fl 0, ?_, ?_, ?_⟩
  · rw [Body.done_ln, Body.syncMirrors, Body.setF_ln, hln]
  · rw [Counted, getF_done_twinStat, other_syncMirrors _ (by decide),
      getF_bump_fields b _ bwTwinStat_ok bwTwinStat_stored (by decide), if_pos rfl]
    rfl
  · rw [getF_done_twinStat, mirrors_syncMirrors, hln, List.length_append, List.length_singleton]
    omega

theorem twMirrorAccept_adds (hroom : s.body.ln.twin.mirrors.length < 16) (hdir : c.b 1 0 = true) (hup : s.body.twinLines ≠ []) :
    Gives (.twMirrorAccept c) s fun t => EndsWith s.body t fl 0 0 ∧ SameBytes s.body t ∧
      t.ln.twin.mirrors = s.body.ln.twin.mirrors ++ [Mirror.mk fl.slot (c.h 1) e.base e.size true m.base []] ∧
      t.getF .bwTwinStat Fld.bwTwinStatMirrors = s.body.ln.twin.mirrors.length + 1 ∧
      ∃ z ∈ t.out, z.kind = .twinAccept ∧ z.nums = [e.base, e.size] := by
  refine gives_of_next (exec_twMirrorAccept hd hdir) ?_
  rw [hargs]
  dsimp only
  set x := Mirror.mk fl.slot (c.h 1) e.base e.size true m.base []
  set b := (s.body.updTwin fun t => { t with mirrors := t.mirrors ++ [x] }).syncMirrors with hb
  have hmirrors : b.ln.twin.mirrors = s.body.ln.twin.mirrors ++ [x] := by rw [hb, Body.syncMirrors, Body.setF_ln]; rfl
  have hlines : b.twinLines ≠ [] := by rw [hb, Body.syncMirrors, twinLines_setTwinStat]; exact hup
  have hbytes : SameBytes s.body b := ((sameBut_updTwin [Reg.bwTwinStat.addr] s.body _).setF (List.mem_singleton_self _) _ _).bytes
  have hkept := MsgKept.twinSend b 1 .twinAccept [e.base, e.size] [] none
  refine ⟨Body.endsWith_done fl 0 ?_, (hbytes.trans hkept.bytes).done fl 0, ?_, ?_, ?_⟩
  · rw [hkept.hm, hb, Body.syncMirrors, Body.setF_hm]; rfl
  · rw [Body.done_ln, hkept.twin, hmirrors]
  · rw [getF_done_twinStat, hkept.getF, hb, mirrors_syncMirrors]
    change min 16 (s.body.ln.twin.mirrors ++ [x]).length = _
    rw [List.length_append, List.length_singleton]
    omega
  · obtain ⟨z, hz, hkind, hnums, -⟩ := twinSend_goes hlines 1 .twinAccept [e.base, e.size] [] none
    exact ⟨z, by rw [Body.done_out]; exact hz, hkind, hnums⟩

end

end

/-! ### MIRROR_COPY (R373) -/

section
variable {s : State}

theorem mirrorCopy_of_none (h : s.body.twinLines = [] ∨ s.body.twinState = 4 ∨ s.body.firstMarked = none) : exec .mirrorCopy s = .next s := by
  change Host.Outcome.next { s with body := _ } = _
  dsimp only
  by_cases hoff : s.body.twinLines = [] ∨ s.body.twinState = 4
  · rw [if_pos hoff]
  · rw [if_neg hoff, h.elim (fun h => absurd (.inl h) hoff) fun h => h.resolve_left fun h => hoff (.inr h)]

/-- The body as a MIRROR_COPY of granule `g` of mirror range `i` leaves it before it sends. -/
def Body.copying (b : Body) (i : Nat) (m : Mirror) (g : Nat) : Body :=
  ((b.setMapBit m.bitmap g false).setF .bwTwinStat Fld.bwTwinStatDirty
    ((b.setMapBit m.bitmap g false).getF .bwTwinStat Fld.bwTwinStatDirty - 1)).updTwin
      fun t => { t with mirrors := t.mirrors.set i { m with inflight := m.inflight ++ [g] } }

theorem exec_mirrorCopy {i g : Nat} {m : Mirror} (hup : s.body.twinLines ≠ []) (hstate : s.body.twinState ≠ 4)
    (hfirst : s.body.firstMarked = some (i, m, g)) : exec .mirrorCopy s = .next { s with
      body := (s.body.copying i m g).twinSend 5 .mirror [m.base + g * 65536]
        ((s.body.copying i m g).bytes (m.base + g * 65536) (min 65536 (m.size - g * 65536))) (some (i * 2 ^ 32 + g)) } := by
  change Host.Outcome.next { s with body := _ } = _
  dsimp only
  rw [if_neg fun h => h.elim hup hstate, hfirst]
  rfl

variable (b : Body) (i g : Nat) (m : Mirror)

theorem sameBytes_copying : SameBytes (b.setMapBit m.bitmap g false) (b.copying i m g) :=
  sameBytes_of_memory (memory_setF _ _ _ _)

theorem twin_copying : (b.copying i m g).ln.twin.mirrors = b.ln.twin.mirrors.set i { m with inflight := m.inflight ++ [g] } := by
  unfold Body.copying Body.updTwin
  dsimp only
  rw [Body.setF_ln, Body.setMapBit, Body.setByte_ln]

theorem hm_copying : (b.copying i m g).hm = b.hm := by
  unfold Body.copying Body.updTwin
  dsimp only
  rw [Body.setF_hm, Body.setMapBit, Body.setByte_hm]

theorem reg_setMapBit (base : Nat) (v : Bool) (q : Reg) : (b.setMapBit base g v).reg q = b.reg q :=
  Body.reg_congr (Body.setByte_regs b _ _) q

theorem twinLines_copying : (b.copying i m g).twinLines = b.twinLines := by
  rw [Body.copying, twinLines_updTwin, twinLines_setTwinStat]
  exact twinLines_congr (fun _ _ => reg_setMapBit b g _ _ _) fun _ _ => reg_setMapBit b g _ _ _

theorem dirty_copying : (b.copying i m g).getF .bwTwinStat Fld.bwTwinStatDirty = b.getF .bwTwinStat Fld.bwTwinStatDirty - 1 := by
  have hstat : (b.setMapBit m.bitmap g false).getF .bwTwinStat Fld.bwTwinStatDirty = b.getF .bwTwinStat Fld.bwTwinStatDirty := by
    rw [Body.getF, reg_setMapBit, Body.getF]
  have hlt := b.getF_lt .bwTwinStat Fld.bwTwinStatDirty
  change ((b.setMapBit m.bitmap g false).setF .bwTwinStat Fld.bwTwinStatDirty _).getF .bwTwinStat Fld.bwTwinStatDirty = _
  rw [twinStat_setF _ _ (by decide), if_pos rfl, hstat]
  exact Nat.mod_eq_of_lt (by omega)

end

theorem mirrorCopy_copies {s : State} {i g a : Nat} {m : Mirror} (hup : s.body.twinLines ≠ []) (hstate : s.body.twinState ≠ 4)
    (hfirst : s.body.firstMarked = some (i, m, g)) (ha : a = m.base + g * 65536) : Gives .mirrorCopy s fun t =>
      t.mapBit m.bitmap g = false ∧ (∀ k, k ≠ g → t.mapBit m.bitmap k = s.body.mapBit m.bitmap k) ∧
        SameBytesBut s.body t (m.bitmap + g / 8) 1 ∧
        t.ln.twin.mirrors = s.body.ln.twin.mirrors.set i { m with inflight := m.inflight ++ [g] } ∧
        t.getF .bwTwinStat Fld.bwTwinStatDirty = s.body.getF .bwTwinStat Fld.bwTwinStatDirty - 1 ∧ t.hm = s.body.hm ∧
        ∃ z ∈ t.out, z.kind = .mirror ∧ z.nums = [a] ∧ z.data = t.bytes a (min 65536 (m.size - g * 65536)) := by
  subst ha
  refine gives_of_next (exec_mirrorCopy hup hstate hfirst) ?_
  set a := m.base + g * 65536
  set n := min 65536 (m.size - g * 65536)
  set b := s.body.copying i m g with hb
  have hkept := MsgKept.twinSend b 5 .mirror [a] (b.bytes a n) (some (i * 2 ^ 32 + g))
  have hbytes := (sameBytes_copying s.body i g m).trans hkept.bytes
  refine ⟨?_, fun k hk => ?_, fun x hx => ?_, ?_, ?_, ?_, ?_⟩
  · rw [hbytes.mapBit, mapBit_setMapBit, if_pos rfl]
  · rw [hbytes.mapBit, mapBit_setMapBit, if_neg hk]
  · rw [hbytes, sameBytesBut_setMapBit s.body m.bitmap g false x hx]
  · rw [hkept.twin, twin_copying]
  · rw [hkept.getF, dirty_copying]
  · rw [hkept.hm, hm_copying]
  · obtain ⟨z, hz, hkind, hnums, hdata⟩ := twinSend_goes (b := b) (by rw [hb, twinLines_copying]; exact hup) 5 .mirror [a] (b.bytes a n)
      (some (i * 2 ^ 32 + g))
    exact ⟨z, hz, hkind, hnums, by rw [hdata, hkept.bytes.bytes_eq]⟩

/-! ### TW_SYNC (R374) -/

section
variable {s : State} {c : Cmd} {fl : Flight} (hd : Dispatched s.body c 0x6A fl)
include hd

theorem exec_twSync : exec (.twSync c) s = .next { s with
      body := match s.body.syncSet with
        | [] => s.body.done fl
        | gs =>
          if s.body.twinLines = [] then s.body.fail fl 0x21
          else (s.body.start fl).updTwin fun t => { t with syncs := t.syncs ++ [(fl, gs)] } } :=
  (exec_onCmd hd rfl).trans rfl

theorem twSync_of_none (hset : s.body.syncSet = []) : Gives (.twSync c) s fun t => OnlyEnds s.body t fl 0 0 [] ∧ t.ln = s.body.ln := by
  refine gives_of_next (exec_twSync hd) ?_
  rw [hset]
  exact ⟨(SameBut.refl [] s.body).done fl 0, Body.done_ln _ _ _⟩

theorem twSync_lost (hset : s.body.syncSet ≠ []) (hdown : s.body.twinLines = []) : Gives (.twSync c) s fun t =>
    OnlyEnds s.body t fl 0x21 0 [] ∧ t.ln = s.body.ln := by
  obtain ⟨g, gs, hgs⟩ := List.exists_cons_of_ne_nil hset
  refine gives_of_next (exec_twSync hd) ?_
  rw [hgs]
  dsimp only
  rw [if_pos hdown]
  exact ⟨(SameBut.refl [] s.body).fail fl 0x21 0 0, Body.fail_ln _ _ _ _ _⟩

theorem twSync_waits (hset : s.body.syncSet ≠ []) (hup : s.body.twinLines ≠ []) : Gives (.twSync c) s fun t =>
    StaysInFlight s.body t fl ∧ t.ln.twin.syncs = s.body.ln.twin.syncs ++ [(fl, s.body.syncSet)] ∧ t.regs = s.body.regs ∧
      SameBytes s.body t := by
  obtain ⟨g, gs, hgs⟩ := List.exists_cons_of_ne_nil hset
  refine gives_of_next (exec_twSync hd) ?_
  rw [hgs]
  dsimp only
  rw [if_neg hup]
  exact ⟨staysInFlight_start (b := s.body) (c := s.body) rfl hd.mem, rfl, rfl, fun _ => rfl⟩

end

/-! ### TW_CTL PAIR and UNPAIR (R375) -/

theorem pairCheck_pairs {b : Body} {fl : Flight} (hlocal : b.ln.twin.localPair = some fl) (hpeer : b.ln.twin.peerPair = true)
    (hstate : b.twinState = 1) : b.pairCheck =
      ((b.updTwin fun t => { t with localPair := none, peerPair := false }).setF .bwTwinStat Fld.bwTwinStatState 2).done fl := by
  unfold Body.pairCheck
  rw [hlocal]
  exact if_pos ⟨hpeer, hstate⟩

theorem pairCheck_ends {b d : Body} {fl : Flight} (hlocal : d.ln.twin.localPair = some fl) (hpeer : d.ln.twin.peerPair = true)
    (hstate : d.twinState = 1) (hended : d.hm.ended = b.hm.ended) (hbytes : SameBytes b d) :
    EndsWith b d.pairCheck fl 0 0 ∧ d.pairCheck.twinState = 2 ∧ SameBytes b d.pairCheck := by
  rw [pairCheck_pairs hlocal hpeer hstate]
  refine ⟨Body.endsWith_done fl 0 (by rw [Body.setF_hm]; exact hended), ?_,
    (hbytes.trans ((sameBut_updTwin [Reg.bwTwinStat.addr] d _).setF (List.mem_singleton_self _) _ _).bytes).done fl 0⟩
  rw [Body.twinState, getF_done_twinStat]
  exact twinState_setState _ (by decide)

theorem pairCheck_of_alone {b : Body} (h : b.ln.twin.localPair = none ∨ b.ln.twin.peerPair = false) : b.pairCheck = b := by
  unfold Body.pairCheck
  split
  next fl hlocal =>
    have hpeer := h.resolve_left (by rw [hlocal]; exact Option.some_ne_none fl)
    exact if_neg fun hboth => Bool.false_ne_true (hpeer.symm.trans hboth.1)
  · rfl

theorem closeMirrors_all {b : Body} (hsyncs : b.ln.twin.syncs = []) : b.closeMirrors (fun _ => true) =
    ((b.updTwin fun t => { t with mirrors := [] }).setF .bwTwinStat Fld.bwTwinStatDirty 0).syncMirrors := by
  have hkeep : ((List.range b.ln.twin.mirrors.length).zip b.ln.twin.mirrors).filter (fun _ => !true) = [] := List.filter_eq_nil_iff.mpr fun _ _ => nofun
  unfold Body.closeMirrors
  simp only [hkeep, hsyncs, List.map_nil, List.filter_nil, List.sum_nil, List.foldl_nil]
  rw [Body.updTwin, Body.updTwin, ← hsyncs]

section
variable {s : State} {c : Cmd} {fl : Flight} (hd : Dispatched s.body c 0x68 fl)
include hd

section
variable (hop : c.f 1 1 0 = 0)
include hop

theorem exec_twCtlPair : exec (.twCtlPair c) s = .next { s with
      body := if s.body.twinState ≠ 1 ∨ s.body.ln.twin.localPair.isSome then s.body.fail fl 0x11
        else (((s.body.start fl).updTwin fun t => { t with localPair := some fl }).twinSend 1 .twinPair []).pairCheck } :=
  (exec_onSub hd (decide_eq_true hop) rfl).trans rfl

theorem twCtlPair_fails (h : s.body.twinState ≠ 1 ∨ s.body.ln.twin.localPair ≠ none) : Gives (.twCtlPair c) s fun t =>
    OnlyEnds s.body t fl 0x11 0 [] ∧ t.ln = s.body.ln := by
  refine gives_of_next (exec_twCtlPair hd hop) ?_
  rw [if_pos (h.imp_right Option.isSome_iff_ne_none.mpr)]
  exact ⟨(SameBut.refl [] s.body).fail fl 0x11 0 0, Body.fail_ln _ _ _ _ _⟩

variable (hstate : s.body.twinState = 1) (hlocal : s.body.ln.twin.localPair = none)
include hstate hlocal

theorem exec_twCtlPair_of_linked : exec (.twCtlPair c) s = .next { s with
      body := (((s.body.start fl).updTwin fun t => { t with localPair := some fl }).twinSend 1 .twinPair []).pairCheck } := by
  rw [exec_twCtlPair hd hop, if_neg]
  rw [hlocal]
  exact fun h => h.elim (· hstate) Bool.false_ne_true

theorem twCtlPair_pairs (hpeer : s.body.ln.twin.peerPair = true) : Gives (.twCtlPair c) s fun t =>
    EndsWith s.body t fl 0 0 ∧ t.twinState = 2 ∧ SameBytes s.body t := by
  refine gives_of_next (exec_twCtlPair_of_linked hd hop hstate hlocal) ?_
  set b := (s.body.start fl).updTwin fun t => { t with localPair := some fl } with hb
  have hkept := MsgKept.twinSend b 1 .twinPair [] [] none
  refine pairCheck_ends (fl := fl) (by rw [hkept.twin, hb]; rfl) (by rw [hkept.twin]; exact hpeer)
    (hkept.twinState.trans ((twinState_congr rfl).trans hstate)) (by rw [hkept.hm]; rfl)
    ((sameBytes_of rfl rfl rfl : SameBytes s.body b).trans hkept.bytes)

theorem twCtlPair_waits (hpeer : s.body.ln.twin.peerPair = false) (hup : s.body.twinLines ≠ []) : Gives (.twCtlPair c) s fun t =>
    StaysInFlight s.body t fl ∧ t.twinState = 1 ∧ t.ln.twin.localPair = some fl ∧ SameBytes s.body t ∧ ∃ z ∈ t.out, z.kind = .twinPair := by
  refine gives_of_next (exec_twCtlPair_of_linked hd hop hstate hlocal) ?_
  set b := (s.body.start fl).updTwin fun t => { t with localPair := some fl } with hb
  have hkept := MsgKept.twinSend b 1 .twinPair [] [] none
  rw [pairCheck_of_alone (.inr (by rw [hkept.twin]; exact hpeer))]
  have hstays : StaysInFlight s.body b fl := staysInFlight_start (b := s.body) (c := s.body) rfl hd.mem
  refine ⟨?_, hkept.twinState.trans ((twinState_congr rfl).trans hstate), by rw [hkept.twin, hb]; rfl,
    (sameBytes_of rfl rfl rfl : SameBytes s.body b).trans hkept.bytes, ?_⟩
  · rw [StaysInFlight, hkept.hm]
    exact hstays
  · obtain ⟨z, hz, hkind, -⟩ := twinSend_goes (b := b) hup 1 .twinPair [] [] none
    exact ⟨z, hz, hkind⟩

end

theorem twCtlUnpair_closes (hop : c.f 1 1 0 = 1) (hsyncs : s.body.ln.twin.syncs = []) : Gives (.twCtlUnpair c) s fun t =>
    OnlyEnds s.body t fl 0 0 [Reg.bwTwinStat.addr] ∧ t.ln = { s.body.ln with twin := { s.body.ln.twin with mirrors := [] } } ∧
      t.twinState = (if s.body.twinState = 2 then 1 else s.body.twinState) ∧ t.getF .bwTwinStat Fld.bwTwinStatMirrors = 0 ∧
      t.getF .bwTwinStat Fld.bwTwinStatDirty = 0 := by
  refine gives_of_next (exec_onSub hd (decide_eq_true hop) rfl) ?_
  rw [closeMirrors_all hsyncs]
  set b := s.body.updTwin fun t => { t with mirrors := [] } with hb
  set x := (b.setF .bwTwinStat Fld.bwTwinStatDirty 0).syncMirrors with hx
  have hsame : SameBut [Reg.bwTwinStat.addr] s.body x :=
    ((sameBut_updTwin _ s.body _).setF (List.mem_singleton_self _) _ _).setF (List.mem_singleton_self _) _ _
  have hln : x.ln = { s.body.ln with twin := { s.body.ln.twin with mirrors := [] } } := by
    rw [hx, Body.syncMirrors, Body.setF_ln, Body.setF_ln]; rfl
  have hstate : x.twinState = s.body.twinState := (other_syncMirrors _ (by decide)).trans ((twinStat_setF _ _ (by decide)).trans (if_neg (by decide)))
  have hmirrors : x.getF .bwTwinStat Fld.bwTwinStatMirrors = 0 := by
    rw [hx, mirrors_syncMirrors, Body.setF_ln]
    exact Nat.min_zero 16
  have hdirty : x.getF .bwTwinStat Fld.bwTwinStatDirty = 0 := (other_syncMirrors _ (by decide)).trans ((twinStat_setF _ _ (by decide)).trans (if_pos rfl))
  dsimp only
  rw [hstate]
  split
  · refine ⟨SameBut.done (hsame.setF (List.mem_singleton_self _) _ _) fl 0, ?_, ?_, ?_, ?_⟩
    · rw [Body.done_ln, Body.setF_ln, hln]
    · rw [Body.twinState, getF_done_twinStat]
      exact twinState_setState _ (by decide)
    · rw [getF_done_twinStat, twinStat_setF _ _ (by decide), if_neg (by decide), hmirrors]
    · rw [getF_done_twinStat, twinStat_setF _ _ (by decide), if_neg (by decide), hdirty]
  · refine ⟨hsame.done fl 0, ?_, ?_, ?_, ?_⟩
    · rw [Body.done_ln, hln]
    · rw [Body.twinState, getF_done_twinStat]
      exact hstate
    · rw [getF_done_twinStat, hmirrors]
    · rw [getF_done_twinStat, hdirty]

end

end Sys2Proof.Machine
end

section
/-! PROOFS. Detaching from the Twin, and what comes from it (R373, R375). -/

namespace Sys2Proof.Machine

/-! ### TW_CTL DETACH (R375) -/

theorem resident_congr {b c : Body} (h : ∀ k, k < 64 → c.reg (.hmCtxStat k) = b.reg (.hmCtxStat k)) : c.resident = b.resident :=
  List.filter_congr fun k hk => by rw [Body.getF, h k (List.mem_range.mp hk), Body.getF]

/-- What says which granules a sync waits for. -/
theorem syncSet_congr {b c : Body} (hmirrors : c.ln.twin.mirrors = b.ln.twin.mirrors) (hbytes : SameBytes b c) : c.syncSet = b.syncSet := by
  have hmarked : ∀ m, c.marked m = b.marked m := fun m => List.filter_congr fun i _ => hbytes.mapBit _ i
  unfold Body.syncSet
  rw [hmirrors]
  exact List.flatMap_congr fun p _ => by rw [hmarked]

/-- With no context resident, DETACH drains at once. -/
def Body.draining (b : Body) (fl : Flight) : Body :=
  (((b.updTwin fun t => { t with detach := some fl }).setF .bwTwinStat Fld.bwTwinStatState 3).keep fl [1])

/-- The body as it stands when a DETACH with no context resident has evicted. -/
def Body.drained (b : Body) (fl : Flight) : Body := ((b.draining fl).dropHalting fl.uid).keep fl [2]

section
variable (b : Body) (fl : Flight)

theorem sameBytes_drained : SameBytes b (b.drained fl) := by
  have h : SameBytes b ((b.updTwin fun t => { t with detach := some fl }).setF .bwTwinStat Fld.bwTwinStatState 3) :=
    ((sameBut_updTwin [Reg.bwTwinStat.addr] b _).setF (List.mem_singleton_self _) _ _).bytes
  exact h.trans (sameBytes_of rfl rfl rfl)

theorem hm_drained : (b.drained fl).hm.ended = b.hm.ended := by
  unfold Body.drained Body.draining Body.keep Body.dropHalting
  dsimp only
  rw [Body.setF_hm]
  rfl

theorem twinLines_drained : (b.drained fl).twinLines = b.twinLines := by
  have h : (b.drained fl).twinLines = ((b.updTwin fun t => { t with detach := some fl }).setF .bwTwinStat Fld.bwTwinStatState 3).twinLines :=
    twinLines_congr (fun _ _ => rfl) fun _ _ => rfl
  rw [h, twinLines_setTwinStat, twinLines_updTwin]

theorem mirrors_drained : (b.drained fl).ln.twin.mirrors = b.ln.twin.mirrors := by
  unfold Body.drained Body.draining Body.keep Body.dropHalting
  dsimp only
  rw [Body.setF_ln]
  rfl

theorem flight_drained (h : fl ∈ b.hm.flights) : ((b.drained fl).flight fl.uid).isSome = true := by
  have hflights : (b.drained fl).hm.flights = (b.hm.flights.map fun x => if x.uid = fl.uid then { x with progress := [1] } else x).map
      fun x => if x.uid = fl.uid then { x with progress := [2] } else x := by
    unfold Body.drained Body.draining Body.keep Body.dropHalting
    dsimp only
    rw [Body.setF_hm]
    rfl
  rw [Body.flight, List.find?_isSome, hflights]
  refine ⟨{ fl with progress := [2] }, List.mem_map.mpr ⟨{ fl with progress := [1] }, List.mem_map.mpr ⟨fl, h, if_pos rfl⟩, if_pos rfl⟩, decide_eq_true rfl⟩

end

/-- With no context resident and everything copied, the evictions of a DETACH hand over at once. -/
theorem detachEvict_hands_over {b : Body} {fl : Flight} (hmem : fl ∈ b.hm.flights) (hres : b.resident = []) (hset : b.syncSet = []) :
    (b.draining fl).detachEvict fl = (b.drained fl).handOver fl [] := by
  have hres' : (b.draining fl).resident = [] :=
    (resident_congr fun k hk => Body.reg_setF_ne _ _ _ (by simp only [Reg.addr]; omega)).trans hres
  have hset' : (b.drained fl).syncSet = [] := (syncSet_congr (mirrors_drained b fl) (sameBytes_drained b fl)).trans hset
  unfold Body.detachEvict
  rw [hres']
  change (b.drained fl).detachFree fl [] = _
  change (if ((b.drained fl).flight fl.uid).isSome then (b.drained fl).detachSync fl [] else b.drained fl) = _
  rw [if_pos (flight_drained b fl hmem), Body.detachSync, hset']

/-- A HANDOVER goes out, and the DETACH ends. -/
theorem handOver_ends {b d : Body} {fl : Flight} (hup : d.twinLines ≠ []) (hended : d.hm.ended = b.hm.ended) (hbytes : SameBytes b d) :
    EndsWith b (d.handOver fl []) fl 0 0 ∧ (d.handOver fl []).twinState = 4 ∧ (d.handOver fl []).ln.twin.detach = none ∧
      SameBytes b (d.handOver fl []) ∧ ∃ z ∈ (d.handOver fl []).out, z.kind = .handover ∧ z.nums = [] := by
  have hkept := MsgKept.twinSend d 1 .handover [] [] none
  obtain ⟨z, hz, hkind, hnums, -⟩ := twinSend_goes hup 1 .handover [] [] none
  unfold Body.handOver
  set x := d.twinSend 1 .handover []
  have hset : SameBytes x ((x.updTwin fun t => { t with detach := none }).setF .bwTwinStat Fld.bwTwinStatState 4) :=
    ((sameBut_updTwin [Reg.bwTwinStat.addr] x _).setF (List.mem_singleton_self _) _ _).bytes
  refine ⟨Body.endsWith_done fl 0 ?_, ?_, ?_, ((hbytes.trans hkept.bytes).trans hset).done fl 0, z, ?_, hkind, hnums⟩
  · rw [Body.setF_hm, Body.updTwin]
    exact (congrArg Harbour.ended hkept.hm).trans hended
  · rw [Body.twinState, getF_done_twinStat]
    exact twinState_setState _ (by decide)
  · rw [Body.done_ln, Body.setF_ln, Body.updTwin]
  · rw [Body.done_out, Body.setF_out]
    exact hz

section
variable {s : State} {c : Cmd} {fl : Flight} (hd : Dispatched s.body c 0x68 fl) (hop : c.f 1 1 0 = 2) (hfirst : fl.progress = [])
include hd hop hfirst

theorem exec_twCtlDetach : exec (.twCtlDetach c) s = .next { s with
      body := if (s.body.clampCmd fl 0).twinState ≠ 2 ∨ (s.body.clampCmd fl 0).resident.any fun k =>
            (s.body.clampCmd fl 0).evictRefused k || !(s.body.clampCmd fl 0).mirrored ((s.body.clampCmd fl 0).info k).saveBase then
          (s.body.clampCmd fl 0).fail fl 0x11
        else
          let b := ((s.body.clampCmd fl 0).draining fl).resident.foldl (fun b k => (b.noteHalting fl k).preempt k (some fl.uid))
            ((s.body.clampCmd fl 0).draining fl)
          if b.resident.all fun k => decide (b.getF (.hmCtxStat k) Fld.hmCtxStatState = 1) then b.detachEvict fl else b } := by
  rw [exec_onSub hd (decide_eq_true (le_of_eq hop.symm)) rfl, hfirst]
  dsimp only
  rw [hop]
  rfl

theorem twCtlDetach_refused (hstate : s.body.twinState ≠ 2) : Gives (.twCtlDetach c) s fun t =>
    OnlyEnds s.body t fl 0x11 0 [] ∧ t.ln = s.body.ln := by
  have hclamped : (s.body.clampCmd fl 0).twinState = s.body.twinState := by
    rw [Body.twinState, Body.getF, unnoted_bwTwinStat.clampCmd, Body.twinState, Body.getF]
  refine gives_of_next (exec_twCtlDetach hd hop hfirst) ?_
  rw [if_pos (.inl (by rw [hclamped]; exact hstate))]
  exact ⟨((SameBut.refl [] s.body).clampCmd fl 0).fail fl 0x11 0 0, by rw [Body.fail_ln, Body.clampCmd_ln]⟩

theorem twCtlDetach_hands_over (hstate : s.body.twinState = 2) (hres : s.body.resident = []) (hset : s.body.syncSet = [])
    (hup : s.body.twinLines ≠ []) : Gives (.twCtlDetach c) s fun t => EndsWith s.body t fl 0 0 ∧ t.twinState = 4 ∧
      t.ln.twin.detach = none ∧ SameBytes s.body t ∧ ∃ z ∈ t.out, z.kind = .handover ∧ z.nums = [] := by
  set b := s.body.clampCmd fl 0 with hb
  have hsame : SameBut [] s.body b := (SameBut.refl [] s.body).clampCmd fl 0
  have hmirrors : b.ln.twin.mirrors = s.body.ln.twin.mirrors := by rw [hb, Body.clampCmd_ln]
  have hbres : b.resident = [] := (resident_congr fun k hk => (unnoted_hmCtxStat hk).clampCmd _ _ _).trans hres
  have hbset : b.syncSet = [] := (syncSet_congr hmirrors hsame.bytes).trans hset
  have hdres : (b.draining fl).resident = [] :=
    (resident_congr fun k hk => Body.reg_setF_ne _ _ _ (by simp only [Reg.addr]; omega)).trans hbres
  have hbstate : b.twinState = 2 := by
    rw [Body.twinState, Body.getF, hb, unnoted_bwTwinStat.clampCmd]
    exact hstate
  refine gives_of_next (exec_twCtlDetach hd hop hfirst) ?_
  rw [← hb, if_neg (by rw [hbres]; exact fun h => h.elim (· hbstate) Bool.false_ne_true), hdres, List.foldl_nil]
  dsimp only
  rw [hdres, if_pos List.all_nil, detachEvict_hands_over (by rw [hb, Body.clampCmd_hm]; exact hd.mem) hbres hbset]
  have hlines : b.twinLines = s.body.twinLines :=
    twinLines_congr (fun l hl => (unnoted_lnStat hl).clampCmd _ _ _) fun l hl => (unnoted_lnCfg hl).clampCmd _ _ _
  exact handOver_ends (by rw [twinLines_drained, hlines]; exact hup) ((hm_drained b fl).trans hsame.ended)
    (hsame.bytes.trans (sameBytes_drained b fl))

end


/-! ### What comes from the Twin (R373, R375) -/

/-- Mirror ranges all of which accept mark nothing. -/
theorem markMirrors_of_accept {b : Body} (h : ∀ m ∈ b.ln.twin.mirrors, m.accept = true) (a n : Nat) : b.markMirrors a n = b := by
  unfold Body.markMirrors
  split
  · rfl
  · generalize b.ln.twin.mirrors = ms at h
    induction ms with
    | nil => rfl
    | cons m ms ih =>
      rw [List.foldl_cons, if_pos (.inl (h m List.mem_cons_self))]
      exact ih fun x hx => h x (List.mem_cons_of_mem _ hx)

theorem store_of_accept {b : Body} (h : ∀ m ∈ b.ln.twin.mirrors, m.accept = true) (hbad : b.tiers.badSectors = []) (a : Nat)
    (row : List Byte) : b.store a row = (b.setBytes a row).program a row.length := by
  have hsame : { b with tiers.badSectors := [] } = b := by rw [← hbad]
  unfold Body.store
  simp only [hbad, List.filter_nil, if_true, hsame]
  exact markMirrors_of_accept (by rw [Body.program_ln, Body.setBytes_ln]; exact h) _ _

section
variable {s : State} {l : Fin 36}

theorem exec_of_no_twinLine (h : l.val ∉ s.body.twinLines) {areas : List (Nat × Nat)} {a : Nat} {d : List Byte} {i : Instr}
    (hi : i ∈ [Instr.handover l areas, .mirrorWrite l a d, .twinPairMessage l]) : exec i s = .next s := by
  simp only [List.mem_cons, List.not_mem_nil, or_false] at hi
  obtain rfl | rfl | rfl := hi
  · change Host.Outcome.next { s with body := if l.val ∈ s.body.twinLines then _ else s.body } = _
    rw [if_neg h]
  · change Host.Outcome.next { s with body := if l.val ∈ s.body.twinLines ∧ _ then _ else s.body } = _
    rw [if_neg fun hboth => h hboth.1]
  · change Host.Outcome.next { s with body := if l.val ∈ s.body.twinLines then _ else s.body } = _
    rw [if_neg h]

/-- BW_TWIN_HAND with one save area. -/
def Body.handPut (b : Body) (p : Nat × (Nat × Nat)) : Body :=
  (b.setF (.bwTwinHand p.1) Fld.bwTwinHandSaveBase p.2.1).setF (.bwTwinHand p.1) Fld.bwTwinHandCtx p.2.2

theorem bwTwinHand_ok {k : Nat} (hk : k < 64) : (Reg.bwTwinHand k).ok = true := decide_eq_true hk

theorem bwTwinHand_stored (k : Nat) : (Reg.bwTwinHand k).stored := by simp [Reg.stored]

theorem getF_handPut (b : Body) {k : Nat} (hk : k < 64) (p : Nat × Nat) :
    (b.handPut (k, p)).getF (.bwTwinHand k) Fld.bwTwinHandSaveBase = p.1 % 2 ^ Fld.bwTwinHandSaveBase.width ∧
      (b.handPut (k, p)).getF (.bwTwinHand k) Fld.bwTwinHandCtx = p.2 % 2 ^ Fld.bwTwinHandCtx.width := by
  unfold Body.handPut
  dsimp only
  rw [getF_setF_fields _ _ (bwTwinHand_ok hk) (bwTwinHand_stored k) (by decide), if_neg (by decide),
    getF_setF_fields _ _ (bwTwinHand_ok hk) (bwTwinHand_stored k) (by decide), if_pos rfl,
    getF_setF_fields _ _ (bwTwinHand_ok hk) (bwTwinHand_stored k) (by decide), if_pos rfl]
  exact ⟨rfl, rfl⟩

theorem reg_handPut_ne (b : Body) (p : Nat × (Nat × Nat)) {q : Reg} (h : q.addr ≠ (Reg.bwTwinHand p.1).addr) : (b.handPut p).reg q = b.reg q := by
  rw [Body.handPut, Body.reg_setF_ne _ _ _ h, Body.reg_setF_ne _ _ _ h]

theorem reg_foldl_handPut (xs : List (Nat × (Nat × Nat))) (b : Body) {q : Reg} (h : ∀ x ∈ xs, q.addr ≠ (Reg.bwTwinHand x.1).addr) :
    (xs.foldl Body.handPut b).reg q = b.reg q := by
  induction xs generalizing b with
  | nil => rfl
  | cons x xs ih =>
    rw [List.foldl_cons, ih _ fun y hy => h y (List.mem_cons_of_mem _ hy), reg_handPut_ne b x (h x List.mem_cons_self)]

/-- The list of a HANDOVER, recorded from BW_TWIN_HAND `n` on. -/
theorem getF_foldl_handPut (areas : List (Nat × Nat)) (n : Nat) (b : Body) (hn : n + areas.length ≤ 64) {k : Nat} {p : Nat × Nat}
    (hk : areas[k]? = some p) : let t := (((List.range' n areas.length).zip areas).foldl Body.handPut b)
      t.getF (.bwTwinHand (n + k)) Fld.bwTwinHandSaveBase = p.1 % 2 ^ Fld.bwTwinHandSaveBase.width ∧
      t.getF (.bwTwinHand (n + k)) Fld.bwTwinHandCtx = p.2 % 2 ^ Fld.bwTwinHandCtx.width := by
  induction areas generalizing n b k with
  | nil => cases hk
  | cons a areas ih =>
    rw [List.length_cons] at hn
    rw [List.length_cons, List.range'_succ, List.zip_cons_cons, List.foldl_cons]
    cases k with
    | zero =>
      obtain rfl : a = p := Option.some.inj hk
      have hkeep : ∀ f, (((List.range' (n + 1) areas.length).zip areas).foldl Body.handPut (b.handPut (n, a))).getF (.bwTwinHand n) f =
          (b.handPut (n, a)).getF (.bwTwinHand n) f := fun f => by
        rw [Body.getF, reg_foldl_handPut _ _ fun x hx => ?_, Body.getF]
        have := List.mem_range'_1.mp (List.of_mem_zip hx).1
        simp only [Reg.addr]
        omega
      obtain ⟨hbase, hctx⟩ := getF_handPut b (k := n) (by omega) a
      exact ⟨(hkeep _).trans hbase, (hkeep _).trans hctx⟩
    | succ k =>
      have := ih (n + 1) (b.handPut (n, a)) (by omega) hk
      rwa [show n + 1 + k = n + (k + 1) by omega] at this

theorem bwTwinHand_stat_ne (k : Nat) : (Reg.bwTwinHand k).addr ≠ Reg.bwTwinStat.addr := by simp only [Reg.addr]; omega

variable (hl : l.val ∈ s.body.twinLines)
include hl

theorem handover_records (areas : List (Nat × Nat)) : Gives (.handover l areas) s fun t => t.twinState = 5 ∧ SameBytes s.body t ∧
    t.hm = s.body.hm ∧ t.getF .bwTwinStat Fld.bwTwinStatHanded = min 64 areas.length ∧ ∀ k p, k < 64 → areas[k]? = some p →
      t.getF (.bwTwinHand k) Fld.bwTwinHandSaveBase = p.1 % 2 ^ Fld.bwTwinHandSaveBase.width ∧
      t.getF (.bwTwinHand k) Fld.bwTwinHandCtx = p.2 % 2 ^ Fld.bwTwinHandCtx.width := by
  set a := areas.take 64 with ha
  have hlen : a.length = min 64 areas.length := List.length_take
  set b := ((List.range a.length).zip a).foldl Body.handPut s.body with hb
  have hi : exec (.handover l areas) s = .next { s with
      body := (b.setF .bwTwinStat Fld.bwTwinStatHanded a.length).setF .bwTwinStat Fld.bwTwinStatState 5 } := by
    change Host.Outcome.next { s with body := if l.val ∈ s.body.twinLines then _ else s.body } = _
    rw [if_pos hl]
    rfl
  have hkeep : b.memory = s.body.memory ∧ b.hm = s.body.hm :=
    foldl_inv (fun c : Body => c.memory = s.body.memory ∧ c.hm = s.body.hm) _ _ _ ⟨rfl, rfl⟩ fun c x hc => by
      rw [Body.handPut, memory_setF, memory_setF, Body.setF_hm, Body.setF_hm]
      exact hc
  refine gives_of_next hi ⟨twinState_setState _ (by decide), sameBytes_of_memory ?_, ?_, ?_, fun k p hk hp => ?_⟩
  · rw [memory_setF, memory_setF, hkeep.1]
  · rw [Body.setF_hm, Body.setF_hm, hkeep.2]
  · rw [twinStat_setF _ _ (by decide), if_neg (by decide), twinStat_setF _ _ (by decide), if_pos rfl, hlen]
    exact Nat.mod_eq_of_lt (lt_of_le_of_lt (min_le_left _ _) (by decide))
  · have hget : a[k]? = some p := by rw [ha, List.getElem?_take_of_lt hk, hp]
    have hlist := getF_foldl_handPut a 0 s.body (by omega) hget
    rw [← List.range_eq_range', ← hb, Nat.zero_add] at hlist
    rw [Body.getF_setF_ne _ _ _ _ (bwTwinHand_stat_ne k), Body.getF_setF_ne _ _ _ _ (bwTwinHand_stat_ne k),
      Body.getF_setF_ne _ _ _ _ (bwTwinHand_stat_ne k), Body.getF_setF_ne _ _ _ _ (bwTwinHand_stat_ne k)]
    exact hlist

/-- The body once the Twin's PAIR has arrived. -/
def Body.peerPaired (b : Body) : Body := { b with ln.twin.peerPair := true }

theorem exec_twinPairMessage : exec (.twinPairMessage l) s = .next { s with body := s.body.peerPaired.pairCheck } := by
  change Host.Outcome.next { s with body := if l.val ∈ s.body.twinLines then _ else s.body } = _
  rw [if_pos hl]
  rfl

theorem twinPairMessage_alone (hnone : s.body.ln.twin.localPair = none) : Gives (.twinPairMessage l) s fun t =>
    t = { s.body with ln.twin.peerPair := true } :=
  gives_of_next (exec_twinPairMessage hl) (pairCheck_of_alone (.inl hnone))

theorem twinPairMessage_pairs {f : Flight} (hlocal : s.body.ln.twin.localPair = some f) (hstate : s.body.twinState = 1) :
    Gives (.twinPairMessage l) s fun t => OnlyEnds s.body t f 0 0 [Reg.bwTwinStat.addr] ∧ t.twinState = 2 ∧
      t.ln.twin.localPair = none := by
  have hpaired : SameBut [Reg.bwTwinStat.addr] s.body s.body.peerPaired := (SameBut.refl _ _).beside rfl rfl rfl rfl rfl
  refine gives_of_next (exec_twinPairMessage hl) ?_
  rw [pairCheck_pairs (b := s.body.peerPaired) hlocal rfl hstate]
  refine ⟨((hpaired.trans (sameBut_updTwin _ _ _)).setF (List.mem_singleton_self _) _ _).done f 0, ?_, ?_⟩
  · rw [Body.twinState, getF_done_twinStat]
    exact twinState_setState _ (by decide)
  · rw [Body.done_ln, Body.setF_ln, Body.updTwin]

theorem exec_mirrorWrite (a : Nat) (d : List Byte) : exec (.mirrorWrite l a d) s = .next { s with
      body := if (s.body.ln.twin.mirrors.any fun m => m.accept && decide (m.base ≤ a ∧ a + d.length ≤ m.base + m.size)) = true
        then s.body.store a d else s.body } := by
  change Host.Outcome.next { s with body := if l.val ∈ s.body.twinLines ∧ _ then _ else s.body } = _
  simp only [hl, true_and]

theorem mirrorWrite_outside {a : Nat} {d : List Byte}
    (h : ∀ m ∈ s.body.ln.twin.mirrors, m.accept = false ∨ a < m.base ∨ m.base + m.size < a + d.length) :
    exec (.mirrorWrite l a d) s = .next s := by
  rw [exec_mirrorWrite hl, if_neg]
  intro hany
  obtain ⟨m, hm, hin⟩ := List.any_eq_true.mp hany
  obtain ⟨haccept, hrange⟩ := Bool.and_eq_true_iff.mp hin
  obtain ⟨hlo, hhi⟩ := of_decide_eq_true hrange
  obtain hno | hno := h m hm
  · exact Bool.false_ne_true (hno.symm.trans haccept)
  · omega

theorem mirrorWrite_stores {a : Nat} {d : List Byte}
    (hin : ∃ m ∈ s.body.ln.twin.mirrors, m.accept = true ∧ m.base ≤ a ∧ a + d.length ≤ m.base + m.size)
    (haccept : ∀ m ∈ s.body.ln.twin.mirrors, m.accept = true) (hbad : s.body.tiers.badSectors = []) : Gives (.mirrorWrite l a d) s fun t =>
      (∀ i, i < d.length → t.byte (a + i) = d.getD i 0) ∧ SameBytesBut s.body t a d.length ∧ t.hm = s.body.hm := by
  obtain ⟨m, hm, hacc, hlo, hhi⟩ := hin
  have hany : (s.body.ln.twin.mirrors.any fun m => m.accept && decide (m.base ≤ a ∧ a + d.length ≤ m.base + m.size)) = true :=
    List.any_eq_true.mpr ⟨m, hm, Bool.and_eq_true_iff.mpr ⟨hacc, decide_eq_true ⟨hlo, hhi⟩⟩⟩
  have hbyte : SameBytes (s.body.setBytes a d) ((s.body.setBytes a d).program a d.length) :=
    sameBytes_of (Body.program_mem _ _ _) (Body.program_haze _ _ _) (Body.program_bg _ _ _)
  refine gives_of_next (exec_mirrorWrite hl a d) ?_
  rw [if_pos hany, store_of_accept haccept hbad]
  refine ⟨fun i hi => ?_, fun x hx => ?_, ?_⟩
  · rw [hbyte, Body.byte_setBytes _ a i d hi]
  · rw [hbyte, Body.byte_setBytes_ne _ a x d hx]
  · rw [Body.program_hm, Body.setBytes_hm]

end

/-- Settles O53, one lemma for each command and message of the Twin. -/
theorem twinMirrorsAndPairs : Obligations.TwinMirrorsAndPairs := by
  rintro s w stat rfl rfl
  refine ⟨fun c fl hd => ⟨fun st hargs => twMirror_fails hd hargs, fun e m he hm heplace hmplace hroom hmap hok => ?_⟩, mirrorCopy_of_none,
    fun i m g a hup hstate hfirst ha => mirrorCopy_copies hup hstate hfirst ha,
    fun c fl hd => ⟨twSync_of_none hd, twSync_lost hd, twSync_waits hd⟩,
    fun c fl hd => ⟨fun hop => ⟨twCtlPair_fails hd hop, fun hstate hlocal => ⟨twCtlPair_pairs hd hop hstate hlocal,
      twCtlPair_waits hd hop hstate hlocal⟩⟩, twCtlUnpair_closes hd, fun hop hfirst => ⟨twCtlDetach_refused hd hop hfirst,
      twCtlDetach_hands_over hd hop hfirst⟩⟩,
    fun l => ⟨fun hl areas a d i hi => exec_of_no_twinLine hl hi, fun hl => ⟨handover_records hl, twinPairMessage_alone hl,
      fun f hlocal hstate => twinPairMessage_pairs hl hlocal hstate, fun a d => ⟨mirrorWrite_outside hl, mirrorWrite_stores hl⟩⟩⟩⟩
  have hargs := mirrorArgs_ok hd he hm heplace hmplace hroom hmap hok
  exact ⟨fun an hdir hno => twMirrorSend_unannounced hd hargs hdir hno,
    fun an x hx hdir hin => twMirrorSend_adds hd hargs hx hroom hdir hin, twMirrorAccept_adds hd hargs hroom⟩

end Sys2Proof.Machine
end

section
/-! PROOFS. Sub-ports, queue pairs and completion rings as commands set them up (R383, R387, R388, R391). -/

namespace Sys2Proof.Machine

/-! ### The registers of the Ethernet host attachment -/

section
variable {k : Nat} (hk : k < 512)
include hk

theorem epQpStat_ok : (Reg.epQpStat k).ok = true := decide_eq_true hk

theorem unnoted_epQpStat : (Reg.epQpStat k).Unnoted := by
  constructor <;> simp only [Reg.addr] <;> omega

end

theorem epQpStat_stored (k : Nat) : (Reg.epQpStat k).stored := by simp [Reg.stored]

section
variable {p : Nat} (hp : p < 8)
include hp

theorem epPortCfg_ok : (Reg.epPortCfg p).ok = true := decide_eq_true hp

theorem epPortStat_ok : (Reg.epPortStat p).ok = true := decide_eq_true hp

theorem unnoted_epPortCfg : (Reg.epPortCfg p).Unnoted := by
  constructor <;> simp only [Reg.addr] <;> omega

theorem unnoted_epPortStat : (Reg.epPortStat p).Unnoted := by
  constructor <;> simp only [Reg.addr] <;> omega

end

theorem epPortCfg_stored (p : Nat) : (Reg.epPortCfg p).stored := by simp [Reg.stored]

theorem epPortStat_stored (p : Nat) : (Reg.epPortStat p).stored := by simp [Reg.stored]

/-- A field of EP_QP_STAT after a write to it or to another of its fields. -/
theorem qpStat_setF (b : Body) {k : Nat} (hk : k < 512) {f g : Fld} (v : Nat)
    (h : f.lo ≤ f.hi ∧ f.hi < 64 ∧ g.lo ≤ g.hi ∧ (g = f ∨ g.hi < f.lo ∨ f.hi < g.lo)) :
    (b.setF (.epQpStat k) f v).getF (.epQpStat k) g = if g = f then v % 2 ^ f.width else b.getF (.epQpStat k) g :=
  getF_setF_fields b v (epQpStat_ok hk) (epQpStat_stored k) h

/-! ### Sub-ports, queue pairs and rings -/

theorem port_congr {b c : Body} (h : c.eth = b.eth) (p : Nat) : c.port p = b.port p := by rw [Body.port, h, Body.port]

theorem port_updPort_self (b : Body) (p : Nat) (f : PortInfo → PortInfo) : (b.updPort p f).port p = f (b.port p) := SMap.get_upd_self ..

theorem port_updPort_ne (b : Body) {p k : Nat} (h : k ≠ p) (f : PortInfo → PortInfo) : (b.updPort p f).port k = b.port k :=
  SMap.get_upd_ne _ _ _ h _

theorem qp_updQp_ne (b : Body) {k j : Nat} (h : j ≠ k) (f : Qp → Qp) : (b.updQp k f).qp j = b.qp j := SMap.get_upd_ne _ _ _ h _

theorem sameBut_updQp (l : List Nat) (b : Body) (k : Nat) (f : Qp → Qp) : SameBut l b (b.updQp k f) :=
  (SameBut.refl l b).beside rfl rfl rfl rfl rfl

theorem sameBut_updPort (l : List Nat) (b : Body) (p : Nat) (f : PortInfo → PortInfo) : SameBut l b (b.updPort p f) :=
  (SameBut.refl l b).beside rfl rfl rfl rfl rfl

theorem sameBut_updCq (l : List Nat) (b : Body) (n : Nat) (f : CqRing → CqRing) : SameBut l b (b.updCq n f) :=
  (SameBut.refl l b).beside rfl rfl rfl rfl rfl

theorem SameBut.updQp {l : List Nat} {b c : Body} (h : SameBut l b c) (k : Nat) (f : Qp → Qp) : SameBut l b (c.updQp k f) :=
  h.trans (sameBut_updQp l c k f)

theorem portRate_congr {b c : Body} {p : Nat} (h : c.reg (.epPortCfg p) = b.reg (.epPortCfg p)) : c.portRate p = b.portRate p := by
  rw [Body.portRate, Body.getF, h, Body.portRate, Body.getF]

theorem qpExists_congr {b c : Body} {k : Nat} (h : c.reg (.epQpStat k) = b.reg (.epQpStat k)) : c.qpExists k = b.qpExists k := by
  rw [Body.qpExists, Body.getF, h, Body.qpExists, Body.getF]

theorem portRate_lt (b : Body) (p : Nat) : b.portRate p < 2 ^ 32 := by
  unfold Body.portRate
  split
  · split <;> omega
  · omega
  · omega

section
variable {s : State} {c : Cmd} {fl : Flight}

/-! ### PORT_CFG (R383) -/

/-- The settings that a PORT_CFG gives a sub-port. -/
def portSet (c : Cmd) (p : Nat) (q : PortInfo) : PortInfo :=
  if c.b 1 3 = true ∧ p = 0 then { q with mgmtIpv4 := c.f 2 31 0, mgmtIpv6 := (c.w 3).toNat + (c.w 4).toNat * 2 ^ 64 }
  else { q with ipv4 := c.f 2 31 0, ipv6 := (c.w 3).toNat + (c.w 4).toNat * 2 ^ 64 }

/-- EP_PORT_CFG as a PORT_CFG writes it. -/
def Body.portSet (b : Body) (c : Cmd) (p : Nat) : Body :=
  ((b.setF (.epPortCfg p) Fld.epPortCfgPfcPrio (c.f 1 6 4)).setF (.epPortCfg p) Fld.epPortCfgPfcEn (c.f 1 7 7)).setF
    (.epPortCfg p) Fld.epPortCfgEcnEn (c.f 1 8 8)

theorem exec_portCfg (hd : Dispatched s.body c 0x78 fl) : ∃ n, exec (.portCfg c) s = .next { s with
      body := (((s.body.clampCmd fl n).portSet c (c.f 1 2 0)).updPort (c.f 1 2 0) (portSet c (c.f 1 2 0))).done fl } := by
  have hset : (fun q : PortInfo =>
      if (c.b 1 3 && decide (c.f 1 2 0 = 0)) = true then { q with mgmtIpv4 := c.f 2 31 0, mgmtIpv6 := (c.w 3).toNat + (c.w 4).toNat * 2 ^ 64 }
      else { q with ipv4 := c.f 2 31 0, ipv6 := (c.w 3).toNat + (c.w 4).toNat * 2 ^ 64 }) = portSet c (c.f 1 2 0) := by
    funext q
    simp only [portSet, Bool.and_eq_true, decide_eq_true_eq]
  refine ⟨if c.b 1 3 ∧ c.f 1 2 0 ≠ 0 then 1 else 0, (exec_onCmd hd rfl).trans ?_⟩
  dsimp only
  rw [hset]
  rfl

theorem getF_portSet (b : Body) {p : Nat} (hp : p < 8) :
    (b.portSet c p).getF (.epPortCfg p) Fld.epPortCfgPfcPrio = c.f 1 6 4 ∧ (b.portSet c p).getF (.epPortCfg p) Fld.epPortCfgPfcEn = c.f 1 7 7 ∧
      (b.portSet c p).getF (.epPortCfg p) Fld.epPortCfgEcnEn = c.f 1 8 8 := by
  have hfld : ∀ (d : Body) {f g : Fld} (v : Nat), (f.lo ≤ f.hi ∧ f.hi < 64 ∧ g.lo ≤ g.hi ∧ (g = f ∨ g.hi < f.lo ∨ f.hi < g.lo)) →
      (d.setF (.epPortCfg p) f v).getF (.epPortCfg p) g = if g = f then v % 2 ^ f.width else d.getF (.epPortCfg p) g :=
    fun d _ _ v h => getF_setF_fields d v (epPortCfg_ok hp) (epPortCfg_stored p) h
  unfold Body.portSet
  refine ⟨?_, ?_, ?_⟩
  · rw [hfld _ _ (by decide), if_neg (by decide), hfld _ _ (by decide), if_neg (by decide), hfld _ _ (by decide), if_pos rfl]
    exact Nat.mod_eq_of_lt (cmd_f_lt c 1 6 4)
  · rw [hfld _ _ (by decide), if_neg (by decide), hfld _ _ (by decide), if_pos rfl]
    exact Nat.mod_eq_of_lt (cmd_f_lt c 1 7 7)
  · rw [hfld _ _ (by decide), if_pos rfl]
    exact Nat.mod_eq_of_lt (cmd_f_lt c 1 8 8)

theorem portCfg_sets {p : Nat} (hp : p = c.f 1 2 0) (hd : Dispatched s.body c 0x78 fl) : Gives (.portCfg c) s fun t =>
    OnlyEnds s.body t fl 0 0 [(Reg.epPortCfg p).addr] ∧ t.getF (.epPortCfg p) Fld.epPortCfgPfcPrio = c.f 1 6 4 ∧
      t.getF (.epPortCfg p) Fld.epPortCfgPfcEn = c.f 1 7 7 ∧ t.getF (.epPortCfg p) Fld.epPortCfgEcnEn = c.f 1 8 8 ∧
      (∀ k, k ≠ p → t.port k = s.body.port k) ∧ t.port p = portSet c p (s.body.port p) := by
  have hlt : p < 8 := hp ▸ cmd_f_lt c 1 2 0
  obtain ⟨n, hi⟩ := exec_portCfg hd
  rw [← hp] at hi
  refine gives_of_next hi ?_
  set b := (s.body.clampCmd fl n).portSet c p with hb
  have hsame : SameBut [(Reg.epPortCfg p).addr] s.body b :=
    ((((SameBut.refl _ s.body).clampCmd fl n).setF (List.mem_singleton_self _) _ _).setF (List.mem_singleton_self _) _ _).setF
      (List.mem_singleton_self _) _ _
  have heth : b.eth = s.body.eth := by rw [hb, Body.portSet, Body.setF_eth, Body.setF_eth, Body.setF_eth, Body.clampCmd_eth]
  have hreg : ∀ f, ((b.updPort p (portSet c p)).done fl).getF (.epPortCfg p) f = b.getF (.epPortCfg p) f := fun f => by
    rw [Body.getF, (unnoted_epPortCfg hlt).done]
    rfl
  obtain ⟨hprio, hpfc, hecn⟩ := getF_portSet (c := c) (s.body.clampCmd fl n) hlt
  refine ⟨(hsame.trans (sameBut_updPort _ b p _)).done fl 0, (hreg _).trans hprio, (hreg _).trans hpfc, (hreg _).trans hecn, fun k hk => ?_, ?_⟩
  · rw [port_congr (Body.done_eth _ _ _), port_updPort_ne _ hk, port_congr heth]
  · rw [port_congr (Body.done_eth _ _ _), port_updPort_self, port_congr heth]

/-! ### QP_CREATE (R387) -/

/-- A queue pair just made: WORKING, on its sub-port, of its context, at the sub-port's rate. -/
def Body.qpMade (b : Body) (k p ctx r : Nat) (q : Qp) : Body :=
  (((({ b with eth.qps := SMap.set b.eth.qps {} k { q with rt := r } } : Body).setF (.epQpStat k) Fld.epQpStatState 1).setF
    (.epQpStat k) Fld.epQpStatSubport p).setF (.epQpStat k) Fld.epQpStatCtx ctx).setF (.epQpStat k) Fld.epQpStatRate r

theorem getF_qpMade (b : Body) {k p ctx r : Nat} (q : Qp) (hk : k < 512) (hp : p < 8) (hctx : ctx < 2 ^ 16) (hr : r < 2 ^ 32) :
    (b.qpMade k p ctx r q).getF (.epQpStat k) Fld.epQpStatState = 1 ∧ (b.qpMade k p ctx r q).getF (.epQpStat k) Fld.epQpStatSubport = p ∧
      (b.qpMade k p ctx r q).getF (.epQpStat k) Fld.epQpStatCtx = ctx ∧ (b.qpMade k p ctx r q).getF (.epQpStat k) Fld.epQpStatRate = r := by
  unfold Body.qpMade
  refine ⟨?_, ?_, ?_, ?_⟩
  · rw [qpStat_setF _ hk _ (by decide), if_neg (by decide), qpStat_setF _ hk _ (by decide), if_neg (by decide),
      qpStat_setF _ hk _ (by decide), if_neg (by decide), qpStat_setF _ hk _ (by decide), if_pos rfl]
    rfl
  · rw [qpStat_setF _ hk _ (by decide), if_neg (by decide), qpStat_setF _ hk _ (by decide), if_neg (by decide),
      qpStat_setF _ hk _ (by decide), if_pos rfl]
    exact Nat.mod_eq_of_lt hp
  · rw [qpStat_setF _ hk _ (by decide), if_neg (by decide), qpStat_setF _ hk _ (by decide), if_pos rfl]
    exact Nat.mod_eq_of_lt hctx
  · rw [qpStat_setF _ hk _ (by decide), if_pos rfl]
    exact Nat.mod_eq_of_lt hr

theorem sameBut_qpMade (b : Body) (k p ctx r : Nat) (q : Qp) : SameBut [(Reg.epQpStat k).addr] b (b.qpMade k p ctx r q) :=
  (((((SameBut.refl [(Reg.epQpStat k).addr] b).beside rfl rfl rfl rfl rfl : SameBut [(Reg.epQpStat k).addr] b
    { b with eth.qps := SMap.set b.eth.qps {} k { q with rt := r } }).setF (List.mem_singleton_self _) _ _).setF
      (List.mem_singleton_self _) _ _).setF (List.mem_singleton_self _) _ _).setF (List.mem_singleton_self _) _ _

theorem qp_qpMade (b : Body) (k p ctx r : Nat) (q : Qp) (j : Nat) :
    (b.qpMade k p ctx r q).qp j = if j = k then { q with rt := r } else b.qp j := by
  have heth : (b.qpMade k p ctx r q).eth = { b.eth with qps := SMap.set b.eth.qps {} k { q with rt := r } } := by
    rw [Body.qpMade, Body.setF_eth, Body.setF_eth, Body.setF_eth, Body.setF_eth]
  rw [Body.qp, heth]
  dsimp only
  split
  next h => rw [h, SMap.get_set_self]
  next h => rw [SMap.get_set_ne _ _ _ _ h, Body.qp]

section
variable {k p : Nat} {q : Qp} (hk : k = c.f 1 8 0) (hp : p = c.f 1 11 9) (hq : q = qpOf c) (hd : Dispatched s.body c 0x79 fl)
include hk hp hq hd

theorem exec_qpCreate : ∃ n, exec (.qpCreate c) s = .next { s with
      body := if s.body.qpExists k = true ∨ s.body.portRate p = 0 ∨ (q.mgmt = true ∧ ¬(p = 0 ∧ q.vlan = frGet s.body.framing 0x004)) then
          (s.body.clampCmd fl n).fail fl 0x11 k
        else if ((List.range 64).any fun n => q.wqMask.testBit n && decide (s.body.getF (.hmWqCfg n) Fld.hmWqCfgCtx ≠ c.f 1 31 16)) = true then
          (s.body.clampCmd fl n).fail fl 0x60 k
        else ((s.body.clampCmd fl n).qpMade k p (c.f 1 31 16) (s.body.portRate p) q).done fl } := by
  have hk' : k < 512 := hk ▸ cmd_f_lt c 1 8 0
  have hp' : p < 8 := hp ▸ cmd_f_lt c 1 11 9
  refine ⟨[decide (q.pmtu ≠ c.f 1 15 14), decide (q.wqKey ≠ c.f 7 47 16)].count true, (exec_onCmd hd rfl).trans ?_⟩
  dsimp only
  rw [← hk, ← hp, ← hq]
  generalize [decide (q.pmtu ≠ c.f 1 15 14), decide (q.wqKey ≠ c.f 7 47 16)].count true = n
  have hvlan : frGet (s.body.clampCmd fl n).framing 0x004 = frGet s.body.framing 0x004 := by rw [Body.clampCmd_framing]
  have hqueues : ((List.range 64).any fun m => q.wqMask.testBit m && decide ((s.body.clampCmd fl n).getF (.hmWqCfg m) Fld.hmWqCfgCtx ≠ c.f 1 31 16)) =
      ((List.range 64).any fun m => q.wqMask.testBit m && decide (s.body.getF (.hmWqCfg m) Fld.hmWqCfgCtx ≠ c.f 1 31 16)) := by
    rw [Bool.eq_iff_iff, List.any_eq_true, List.any_eq_true]
    refine exists_congr fun m => and_congr_right fun hm => ?_
    rw [Body.getF, (unnoted_hmWqCfg (List.mem_range.mp hm)).clampCmd, Body.getF]
  rw [qpExists_congr ((unnoted_epQpStat hk').clampCmd s.body fl n), portRate_congr ((unnoted_epPortCfg hp').clampCmd s.body fl n),
    hvlan, hqueues]
  rfl

theorem qpCreate_refused (h : s.body.qpExists k = true ∨ s.body.portRate p = 0) : Gives (.qpCreate c) s fun t =>
    OnlyEnds s.body t fl 0x11 0 [] ∧ t.eth = s.body.eth := by
  obtain ⟨n, hi⟩ := exec_qpCreate hk hp hq hd
  refine gives_of_next hi ?_
  rw [if_pos (h.elim .inl fun h => .inr (.inl h))]
  exact ⟨((SameBut.refl [] s.body).clampCmd fl n).fail fl 0x11 k 0, by rw [Body.fail_eth, Body.clampCmd_eth]⟩

section
variable (hnew : s.body.qpExists k = false) (hrate : s.body.portRate p ≠ 0) (hmgmt : q.mgmt = true → p = 0 ∧ q.vlan = frGet s.body.framing 0x004)
include hnew hrate hmgmt

omit hk hp hq hd in
theorem qpCreate_checked : ¬ (s.body.qpExists k = true ∨ s.body.portRate p = 0 ∨ (q.mgmt = true ∧ ¬(p = 0 ∧ q.vlan = frGet s.body.framing 0x004))) := by
  rintro (h | h | ⟨hm, h⟩)
  · exact Bool.false_ne_true (hnew.symm.trans h)
  · exact hrate h
  · exact h (hmgmt hm)

theorem qpCreate_foreign (hforeign : ∃ n, n < 64 ∧ q.wqMask.testBit n = true ∧ s.body.getF (.hmWqCfg n) Fld.hmWqCfgCtx ≠ c.f 1 31 16) :
    Gives (.qpCreate c) s fun t => OnlyEnds s.body t fl 0x60 0 [] ∧ t.eth = s.body.eth := by
  obtain ⟨m, hm, hbit, hctx⟩ := hforeign
  obtain ⟨n, hi⟩ := exec_qpCreate hk hp hq hd
  refine gives_of_next hi ?_
  rw [if_neg (qpCreate_checked hnew hrate hmgmt),
    if_pos (List.any_eq_true.mpr ⟨m, List.mem_range.mpr hm, Bool.and_eq_true_iff.mpr ⟨hbit, decide_eq_true hctx⟩⟩)]
  exact ⟨((SameBut.refl [] s.body).clampCmd fl n).fail fl 0x60 k 0, by rw [Body.fail_eth, Body.clampCmd_eth]⟩

theorem qpCreate_makes (hown : ∀ n, n < 64 → q.wqMask.testBit n = true → s.body.getF (.hmWqCfg n) Fld.hmWqCfgCtx = c.f 1 31 16) :
    Gives (.qpCreate c) s fun t => OnlyEnds s.body t fl 0 0 [(Reg.epQpStat k).addr] ∧ t.qp k = { q with rt := s.body.portRate p } ∧
      t.qpReady k = true ∧ t.getF (.epQpStat k) Fld.epQpStatSubport = p ∧ t.getF (.epQpStat k) Fld.epQpStatCtx = c.f 1 31 16 ∧
      t.getF (.epQpStat k) Fld.epQpStatRate = s.body.portRate p ∧ ∀ j, j ≠ k → t.qp j = s.body.qp j := by
  have hk' : k < 512 := hk ▸ cmd_f_lt c 1 8 0
  have hp' : p < 8 := hp ▸ cmd_f_lt c 1 11 9
  have hnone : ¬ ((List.range 64).any fun n => q.wqMask.testBit n && decide (s.body.getF (.hmWqCfg n) Fld.hmWqCfgCtx ≠ c.f 1 31 16)) = true := fun hany => by
    obtain ⟨m, hm, hboth⟩ := List.any_eq_true.mp hany
    obtain ⟨hbit, hctx⟩ := Bool.and_eq_true_iff.mp hboth
    exact of_decide_eq_true hctx (hown m (List.mem_range.mp hm) hbit)
  obtain ⟨n, hi⟩ := exec_qpCreate hk hp hq hd
  refine gives_of_next hi ?_
  rw [if_neg (qpCreate_checked hnew hrate hmgmt), if_neg hnone]
  set b := s.body.clampCmd fl n with hb
  obtain ⟨hstate, hsub, hctx, hrated⟩ := getF_qpMade b q hk' hp' (cmd_f_lt c 1 31 16) (portRate_lt s.body p)
  have hreg : ∀ (d : Body) f, (d.done fl).getF (.epQpStat k) f = d.getF (.epQpStat k) f := fun d f => by
    rw [Body.getF, (unnoted_epQpStat hk').done, Body.getF]
  have hqp : ∀ j, ((b.qpMade k p (c.f 1 31 16) (s.body.portRate p) q).done fl).qp j =
      if j = k then { q with rt := s.body.portRate p } else s.body.qp j := fun j => by
    rw [Body.qp_congr (Body.done_eth _ _ _), qp_qpMade, Body.qp_congr (Body.clampCmd_eth _ _ _)]
  refine ⟨((SameBut.refl _ s.body).clampCmd fl n |>.trans (sameBut_qpMade b _ _ _ _ _)).done fl 0, (hqp k).trans (if_pos rfl), ?_,
    (hreg _ _).trans hsub, (hreg _ _).trans hctx, (hreg _ _).trans hrated, fun j hj => (hqp j).trans (if_neg hj)⟩
  rw [Body.qpReady, hreg, hstate]
  rfl

end

end

/-! ### QP_CTL (R388) -/

section
variable {k : Nat} (hk : k = c.f 1 8 0) (hd : Dispatched s.body c 0x7A fl)
include hk hd

theorem exec_qpCtlDestroy (hop : c.f 1 10 9 = 0) : exec (.qpCtlDestroy c) s = .next { s with
      body := if s.body.qpExists k = true then (s.body.qpDelete k).done fl else s.body.fail fl 0x11 k } := by
  rw [exec_onSub hd (decide_eq_true hop) rfl, hk]

theorem exec_qpCtlRestart (hop : c.f 1 10 9 = 1) : exec (.qpCtlRestart c) s = .next { s with
      body := if ¬ s.body.qpExists k = true then s.body.fail fl 0x11 k
        else if s.body.getF (.epQpStat k) Fld.epQpStatState = 2 then
          ((s.body.updQp k fun q => { q with sqPsn := c.f 2 23 0, rqPsn := c.f 2 47 24, tries := 0, unacked := [] }).setF
            (.epQpStat k) Fld.epQpStatState 1).done fl
        else s.body.done fl } := by
  rw [exec_onSub hd (decide_eq_true hop) rfl, hk]

theorem exec_qpCtlCap (hop : 2 ≤ c.f 1 10 9) : ∃ n, exec (.qpCtlCap c) s = .next { s with
      body := if ¬ s.body.qpExists k = true then (s.body.clampCmd fl n).fail fl 0x11 k
        else (((s.body.clampCmd fl n).updQp k fun q => { q with cap := c.f 2 31 0 }).setF (.epQpStat k) Fld.epQpStatRate
          (Qp.held { s.body.qp k with cap := c.f 2 31 0 } (s.body.getF (.epQpStat k) Fld.epQpStatRate))).done fl } := by
  have hk' : k < 512 := hk ▸ cmd_f_lt c 1 8 0
  refine ⟨if c.f 1 10 9 = 3 then 1 else 0, (exec_onSub hd (decide_eq_true hop) rfl).trans ?_⟩
  dsimp only
  rw [← hk]
  generalize (if c.f 1 10 9 = 3 then 1 else 0) = n
  have hstat := (unnoted_epQpStat hk').clampCmd s.body fl n
  have hrate : ((s.body.clampCmd fl n).updQp k fun q => { q with cap := c.f 2 31 0 }).getF (.epQpStat k) Fld.epQpStatRate =
      s.body.getF (.epQpStat k) Fld.epQpStatRate := by
    rw [Body.getF, Body.updQp_reg, hstat, Body.getF]
  rw [qpExists_congr hstat, Body.qp_updQp_self, hrate, Body.qp_congr (Body.clampCmd_eth s.body fl n)]

theorem qpCtl_of_none (hnone : s.body.qpExists k = false) :
    Gives (if c.f 1 10 9 = 0 then .qpCtlDestroy c else if c.f 1 10 9 = 1 then .qpCtlRestart c else .qpCtlCap c) s fun t =>
      OnlyEnds s.body t fl 0x11 0 [] ∧ t.eth = s.body.eth := by
  have hno : ¬ s.body.qpExists k = true := fun h => Bool.false_ne_true (hnone.symm.trans h)
  have hfail : ∀ b, SameBut [] s.body b → b.eth = s.body.eth →
      OnlyEnds s.body (b.fail fl 0x11 k) fl 0x11 0 [] ∧ (b.fail fl 0x11 k).eth = s.body.eth :=
    fun b hb heth => ⟨hb.fail fl 0x11 k 0, by rw [Body.fail_eth, heth]⟩
  split
  next hop =>
    refine gives_of_next (exec_qpCtlDestroy hk hd hop) ?_
    rw [if_neg hno]
    exact hfail _ (SameBut.refl _ _) rfl
  next hop0 =>
    split
    next hop =>
      refine gives_of_next (exec_qpCtlRestart hk hd hop) ?_
      rw [if_pos hno]
      exact hfail _ (SameBut.refl _ _) rfl
    next hop1 =>
      obtain ⟨n, hi⟩ := exec_qpCtlCap hk hd (by omega)
      refine gives_of_next hi ?_
      rw [if_pos hno]
      exact hfail _ ((SameBut.refl _ _).clampCmd fl n) (Body.clampCmd_eth _ _ _)

end

theorem find_map_value {α : Type} (m : SMap α) (f : α → α) (a : Nat) : SMap.find (m.map fun p => (p.1, f p.2)) a = (SMap.find m a).map f := by
  induction m with
  | nil => rfl
  | cons p m ih =>
    rw [List.map_cons, SMap.find, SMap.find]
    split
    · rfl
    · exact ih

section
variable (b : Body) {k : Nat}

theorem cq_qpDelete (n : Nat) : (b.qpDelete k).cq n = if (b.cq n).qp = some k then { b.cq n with qp := none } else b.cq n := by
  have hmap : (b.qpDelete k).eth.cqs = b.eth.cqs.map fun p => (p.1, if p.2.qp = some k then { p.2 with qp := none } else p.2) := by
    refine List.map_congr_left fun p _ => ?_
    split <;> rfl
  rw [Body.cq, hmap, SMap.get, find_map_value b.eth.cqs fun x => if x.qp = some k then { x with qp := none } else x, Body.cq, SMap.get]
  cases SMap.find b.eth.cqs n <;> rfl

theorem qp_qpDelete (j : Nat) : (b.qpDelete k).qp j = if j = k then {} else b.qp j := by
  have heth : (b.qpDelete k).eth.qps = SMap.drop b.eth.qps k := rfl
  rw [Body.qp, heth, SMap.get]
  split
  next h => rw [h, SMap.find_drop_self]; rfl
  next h => rw [SMap.find_drop_ne _ h, Body.qp, SMap.get]

theorem sameBut_qpDelete : SameBut [(Reg.epQpStat k).addr] b (b.qpDelete k) :=
  ((SameBut.refl _ b).setReg (List.mem_singleton_self _) (Reg.dflt (.epQpStat k))).beside rfl rfl rfl rfl rfl

theorem qpExists_qpDelete (hk : k < 512) : (b.qpDelete k).qpExists k = false := by
  have hreg : (b.qpDelete k).reg (.epQpStat k) = Reg.dflt (.epQpStat k) :=
    Body.reg_setReg_self b _ (epQpStat_ok hk) (epQpStat_stored k)
  have hstate : (b.qpDelete k).getF (.epQpStat k) Fld.epQpStatState = 0 := by
    rw [Body.getF, hreg]
    exact (resetWord_fld [] (.epQpStat k) (f := Fld.epQpStatState) (by simp [Reg.fields])).trans rfl
  rw [Body.qpExists, hstate]
  rfl

end

section
variable {k : Nat} (hk : k = c.f 1 8 0) (hd : Dispatched s.body c 0x7A fl)
include hk hd

theorem qpCtlDestroy_removes (hin : s.body.qpExists k = true) (hop : c.f 1 10 9 = 0) : Gives (.qpCtlDestroy c) s fun t =>
    OnlyEnds s.body t fl 0 0 [(Reg.epQpStat k).addr] ∧ t.qpExists k = false ∧ t.qp k = {} ∧ (∀ j, j ≠ k → t.qp j = s.body.qp j) ∧
      ∀ n, t.cq n = if (s.body.cq n).qp = some k then { s.body.cq n with qp := none } else s.body.cq n := by
  have hk' : k < 512 := hk ▸ cmd_f_lt c 1 8 0
  refine gives_of_next (exec_qpCtlDestroy hk hd hop) ?_
  rw [if_pos hin]
  have heth : ((s.body.qpDelete k).done fl).eth = (s.body.qpDelete k).eth := Body.done_eth _ _ _
  refine ⟨(sameBut_qpDelete s.body).done fl 0, ?_, ?_, fun j hj => ?_, fun n => ?_⟩
  · rw [qpExists_congr ((unnoted_epQpStat hk').done _ _ _), qpExists_qpDelete s.body hk']
  · rw [Body.qp_congr heth, qp_qpDelete, if_pos rfl]
  · rw [Body.qp_congr heth, qp_qpDelete, if_neg hj]
  · rw [Body.cq_congr (congrArg Ether.cqs heth), cq_qpDelete]

theorem qpCtlRestart_restarts (hstate : s.body.getF (.epQpStat k) Fld.epQpStatState = 2) (hop : c.f 1 10 9 = 1) :
    Gives (.qpCtlRestart c) s fun t => OnlyEnds s.body t fl 0 0 [(Reg.epQpStat k).addr] ∧ t.qpReady k = true ∧
      t.qp k = { s.body.qp k with sqPsn := c.f 2 23 0, rqPsn := c.f 2 47 24, tries := 0, unacked := [] } ∧
      ∀ j, j ≠ k → t.qp j = s.body.qp j := by
  have hk' : k < 512 := hk ▸ cmd_f_lt c 1 8 0
  have hin : s.body.qpExists k = true := decide_eq_true (by rw [hstate]; decide)
  refine gives_of_next (exec_qpCtlRestart hk hd hop) ?_
  rw [if_neg (not_not_intro hin), if_pos hstate]
  set b := s.body.updQp k fun q => { q with sqPsn := c.f 2 23 0, rqPsn := c.f 2 47 24, tries := 0, unacked := [] } with hb
  have heth : ((b.setF (.epQpStat k) Fld.epQpStatState 1).done fl).eth = b.eth := by rw [Body.done_eth, Body.setF_eth]
  refine ⟨((sameBut_updQp _ s.body k _).setF (List.mem_singleton_self _) _ _).done fl 0, ?_, ?_, fun j hj => ?_⟩
  · rw [Body.qpReady, Body.getF, (unnoted_epQpStat hk').done]
    exact decide_eq_true ((qpStat_setF b hk' 1 (by decide)).trans (if_pos rfl))
  · rw [Body.qp_congr heth, hb, Body.qp_updQp_self]
  · rw [Body.qp_congr heth, hb, qp_updQp_ne _ hj]

theorem qpCtlRestart_leaves (hready : s.body.qpReady k = true) (hop : c.f 1 10 9 = 1) : Gives (.qpCtlRestart c) s fun t =>
    OnlyEnds s.body t fl 0 0 [] ∧ t.eth = s.body.eth := by
  have hstate : s.body.getF (.epQpStat k) Fld.epQpStatState = 1 := of_decide_eq_true hready
  have hin : s.body.qpExists k = true := decide_eq_true (by rw [hstate]; decide)
  refine gives_of_next (exec_qpCtlRestart hk hd hop) ?_
  rw [if_neg (not_not_intro hin), if_neg (by rw [hstate]; decide)]
  exact ⟨(SameBut.refl [] s.body).done fl 0, Body.done_eth _ _ _⟩

theorem qpCtlCap_caps (hin : s.body.qpExists k = true) (hop : 2 ≤ c.f 1 10 9) : Gives (.qpCtlCap c) s fun t =>
    OnlyEnds s.body t fl 0 0 [(Reg.epQpStat k).addr] ∧ t.qp k = { s.body.qp k with cap := c.f 2 31 0 } ∧
      (∀ j, j ≠ k → t.qp j = s.body.qp j) ∧ t.getF (.epQpStat k) Fld.epQpStatRate =
        (if c.f 2 31 0 = 0 then s.body.getF (.epQpStat k) Fld.epQpStatRate
          else min (s.body.getF (.epQpStat k) Fld.epQpStatRate) (c.f 2 31 0)) := by
  have hk' : k < 512 := hk ▸ cmd_f_lt c 1 8 0
  obtain ⟨n, hi⟩ := exec_qpCtlCap hk hd hop
  refine gives_of_next hi ?_
  rw [if_neg (not_not_intro hin)]
  set r := s.body.getF (.epQpStat k) Fld.epQpStatRate with hr
  have hheld : Qp.held { s.body.qp k with cap := c.f 2 31 0 } r = if c.f 2 31 0 = 0 then r else min r (c.f 2 31 0) := rfl
  have hrlt : r < 2 ^ Fld.epQpStatRate.width := s.body.getF_lt _ _
  have hlt : (if c.f 2 31 0 = 0 then r else min r (c.f 2 31 0)) < 2 ^ Fld.epQpStatRate.width := by
    split
    · exact hrlt
    · exact lt_of_le_of_lt (min_le_left _ _) hrlt
  set b := (s.body.clampCmd fl n).updQp k fun q => { q with cap := c.f 2 31 0 } with hb
  have heth : ((b.setF (.epQpStat k) Fld.epQpStatRate (Qp.held { s.body.qp k with cap := c.f 2 31 0 } r)).done fl).eth = b.eth := by
    rw [Body.done_eth, Body.setF_eth]
  refine ⟨((((SameBut.refl _ s.body).clampCmd fl n).updQp k _).setF (List.mem_singleton_self _) _ _).done fl 0, ?_, fun j hj => ?_, ?_⟩
  · rw [Body.qp_congr heth, hb, Body.qp_updQp_self, Body.qp_congr (Body.clampCmd_eth _ _ _)]
  · rw [Body.qp_congr heth, hb, qp_updQp_ne _ hj, Body.qp_congr (Body.clampCmd_eth _ _ _)]
  · rw [Body.getF, (unnoted_epQpStat hk').done, hheld]
    exact (qpStat_setF b hk' _ (by decide)).trans ((if_pos rfl).trans (Nat.mod_eq_of_lt hlt))

end

/-! ### CQ_BIND (R391) -/

theorem fst_clampTo (v : Nat) {lo hi : Nat} (h : lo ≤ hi) : (clampTo v lo hi).1 = max lo (min hi v) := by
  unfold clampTo
  split_ifs <;> dsimp only <;> omega

/-- A completion ring as a CQ_BIND leaves it. -/
def ringBound (c : Cmd) (k : Nat) (r : CqRing) : CqRing :=
  { r with
    qp := some k, ringVa := (c.w 2).toNat / 32 * 32, rkey := c.f 3 31 0, log2 := max 6 (min 16 (c.f 3 36 32)),
    piVa := (c.w 4).toNat / 8 * 8, pi := 0, ci := 0, piSent := 0 }

section
variable {n k : Nat} (hn : n = c.f 1 5 0) (hk : k = c.f 1 17 8) (hd : Dispatched s.body c 0x7B fl)
include hn hk hd

theorem exec_cqBind : ∃ m, exec (.cqBind c) s = .next { s with
      body := if ¬ (s.body.qp k).wqMask.testBit n = true then (s.body.clampCmd fl m).fail fl 0x60 k
        else ((s.body.clampCmd fl m).updCq n (ringBound c k)).done fl } := by
  have hring : (fun r : CqRing => { r with
      qp := some k, ringVa := (clampDown (c.w 2).toNat 32).1, rkey := c.f 3 31 0, log2 := (clampTo (c.f 3 36 32) 6 16).1,
      piVa := (clampDown (c.w 4).toNat 8).1, pi := 0, ci := 0, piSent := 0 }) = ringBound c k := by
    funext r
    rw [fst_clampTo _ (by decide : 6 ≤ 16)]
    rfl
  refine ⟨(clampTo (c.f 3 36 32) 6 16).2 + (clampDown (c.w 2).toNat 32).2 + (clampDown (c.w 4).toNat 8).2, (exec_onCmd hd rfl).trans ?_⟩
  dsimp only
  rw [← hn, ← hk, hring, Body.qp_congr (Body.clampCmd_eth s.body fl _)]

theorem cqBind_refused (hbit : (s.body.qp k).wqMask.testBit n = false) : Gives (.cqBind c) s fun t =>
    OnlyEnds s.body t fl 0x60 0 [] ∧ t.eth = s.body.eth := by
  obtain ⟨m, hi⟩ := exec_cqBind hn hk hd
  refine gives_of_next hi ?_
  rw [if_pos fun h => Bool.false_ne_true (hbit.symm.trans h)]
  exact ⟨((SameBut.refl [] s.body).clampCmd fl m).fail fl 0x60 k 0, by rw [Body.fail_eth, Body.clampCmd_eth]⟩

theorem cqBind_binds (hbit : (s.body.qp k).wqMask.testBit n = true) : Gives (.cqBind c) s fun t =>
    OnlyEnds s.body t fl 0 0 [] ∧ (t.cq n).qp = some k ∧ (t.cq n).ringVa = (c.w 2).toNat / 32 * 32 ∧ (t.cq n).rkey = c.f 3 31 0 ∧
      (t.cq n).log2 = max 6 (min 16 (c.f 3 36 32)) ∧ (t.cq n).piVa = (c.w 4).toNat / 8 * 8 ∧ (t.cq n).pi = 0 ∧ (t.cq n).ci = 0 ∧
      ∀ j, j ≠ n → t.cq j = s.body.cq j := by
  obtain ⟨m, hi⟩ := exec_cqBind hn hk hd
  refine gives_of_next hi ?_
  rw [if_neg (not_not_intro hbit)]
  have hself : (((s.body.clampCmd fl m).updCq n (ringBound c k)).done fl).cq n = ringBound c k ((s.body.clampCmd fl m).cq n) := by
    rw [Body.cq_congr (congrArg Ether.cqs (Body.done_eth _ _ _)), Body.cq_updCq_self]
  rw [hself]
  refine ⟨(((SameBut.refl [] s.body).clampCmd fl m).trans (sameBut_updCq [] _ n _)).done fl 0, rfl, rfl, rfl, rfl, rfl, rfl, rfl, fun j hj => ?_⟩
  rw [Body.cq_congr (congrArg Ether.cqs (Body.done_eth _ _ _)), Body.cq_updCq_ne _ hj, Body.cq_congr (congrArg Ether.cqs (Body.clampCmd_eth _ _ _))]

end

end

/-- Settles O42, one lemma for each command and outcome. -/
theorem queuePairsAndRings : Obligations.QueuePairsAndRings := fun _ _ _ =>
  ⟨fun _ hp hd => portCfg_sets hp hd,
    fun _ _ _ hk hp hq hd => ⟨qpCreate_refused hk hp hq hd, fun hnew hrate hmgmt => ⟨qpCreate_foreign hk hp hq hd hnew hrate hmgmt,
      qpCreate_makes hk hp hq hd hnew hrate hmgmt⟩⟩,
    fun _ hk hd => ⟨qpCtl_of_none hk hd, qpCtlDestroy_removes hk hd, qpCtlRestart_restarts hk hd, qpCtlRestart_leaves hk hd, qpCtlCap_caps hk hd⟩,
    fun _ _ hn hk hd => ⟨cqBind_refused hn hk hd, cqBind_binds hn hk hd⟩⟩

end Sys2Proof.Machine
end

section
/-! PROOFS. Requests of the host to Gangways, and their answers (R384, R389, R394, R399). -/

namespace Sys2Proof.Machine

/-- The bytes that a request brings, as the HOST counters count them (R459). -/
def rxOf : GwOp → Nat
  | .write d => d.length
  | .read _ => 0
  | .fetchAdd _ => 8

/-- The answer of a request whose access passes. -/
def answerKind : GwOp → MsgKind
  | .write _ => .roceAck
  | .read _ => .readResponse
  | .fetchAdd _ => .atomicResponse

/-- The bytes of that answer. -/
def answerData (d : List Byte) : GwOp → List Byte
  | .write _ => []
  | .read _ => d
  | .fetchAdd _ => d

/-- The answer to a request whose access passes: the receive PSN has moved past its packets. -/
def Body.accessAnswered (b : Body) (k : Nat) (op : GwOp) (d : List Byte) : Body :=
  (b.updQp k fun q => { q with rqPsn := (q.rqPsn + reqPackets q op) % 2 ^ 24 }).answer k (answerKind op) [] (answerData d op)

section
variable {b : Body} {k va rkey : Nat}

theorem ceMarked_false (b : Body) (k : Nat) : b.ceMarked k false = b := by
  unfold Body.ceMarked
  exact if_neg fun h => Bool.false_ne_true h.1

theorem hostReq_down (h : b.netUp = false ∨ b.qpReady k = false) (op : GwOp) (ce : Bool) : b.hostReq k va rkey op ce = b := by
  unfold Body.hostReq
  refine if_pos (.inl fun hboth => ?_)
  obtain ⟨hup, hready⟩ := hboth
  rw [hup, hready] at h
  exact h.elim Bool.noConfusion Bool.noConfusion

section
variable (hup : b.netUp = true) (hready : b.qpReady k = true) (hwin : windowOf va = none) (op : GwOp)
include hup hready hwin

theorem hostReq_nowhere (hap : apertureOf va = none) : b.hostReq k va rkey op false =
    b.windowRefused { qp := Fin.ofNat 512 k, va := va, rkey := rkey, data := [] } 0xFFFF := by
  unfold Body.hostReq
  rw [if_neg (by rw [hwin]; exact fun h => h.elim (· ⟨hup, hready⟩) Bool.false_ne_true), ceMarked_false, hap]

section
variable {g off : Nat} (hap : apertureOf va = some (g, off))
include hap

theorem hostReq_anchored (hphase : b.boot.phase = .anchor) : b.hostReq k va rkey op false = b.answer k .roceNak [3] := by
  unfold Body.hostReq
  rw [if_neg (by rw [hwin]; exact fun h => h.elim (· ⟨hup, hready⟩) Bool.false_ne_true), ceMarked_false, hap]
  exact if_pos hphase

/-- A request that a Gangway answers, but for the HOST counters of what goes back. -/
theorem hostReq_answered {a : GwReq} {st : Nat} {d : List Byte} {c : Body} (hphase : b.boot.phase ≠ .anchor)
    (ha : a = { gw := g, off := off, key := rkey, op := op, who := .host k }) (hacc : (b.count (b.qpSlot k) 12 (rxOf op)).gwAccess a = (st, d, c)) :
    (st ≠ 0 → b.hostReq k va rkey op false = c.answer k .roceNak [(b.count (b.qpSlot k) 12 (rxOf op)).gwNak a st]) ∧
      (st = 0 → b.hostReq k va rkey op false = c.accessAnswered k op d ∨
        ∃ slot n, b.hostReq k va rkey op false = (c.accessAnswered k op d).count slot 13 n) := by
  subst ha
  have hin : ¬ (¬ (b.netUp = true ∧ b.qpReady k = true) ∨ (windowOf va).isSome = true) := by
    rw [hwin]
    exact fun h => h.elim (· ⟨hup, hready⟩) Bool.false_ne_true
  unfold Body.hostReq
  rw [if_neg hin, ceMarked_false, hap]
  dsimp only
  rw [if_neg hphase]
  cases op with
  | write data =>
    rw [rxOf] at hacc ⊢
    rw [hacc]
    exact ⟨fun h => if_neg h, fun h => .inl (if_pos h)⟩
  | read n =>
    rw [rxOf] at hacc ⊢
    rw [hacc]
    exact ⟨fun h => if_neg h, fun h => .inr ⟨_, _, if_pos h⟩⟩
  | fetchAdd v =>
    rw [rxOf] at hacc ⊢
    rw [hacc]
    exact ⟨fun h => if_neg h, fun h => .inr ⟨_, _, if_pos h⟩⟩

end

end

end

/-! ### The instructions -/

section
variable {s : State} {qp : Fin 512} {va rkey : Nat}

theorem exec_of_host_down {i : Instr} {data : List Byte} {len : Nat} {v : Word} {ce : Bool}
    (hi : i ∈ [Instr.rdmaWrite qp va rkey data ce, .rdmaRead qp va rkey len ce, .fetchAndAdd qp va rkey v ce, .unsupportedRequest qp])
    (h : s.body.netUp = false ∨ s.body.qpReady qp.val = false) : exec i s = .next s := by
  have hno : ¬ (s.body.netUp = true ∧ s.body.qpReady qp.val = true) := fun ⟨hup, hready⟩ => by
    rw [hup, hready] at h
    exact h.elim Bool.noConfusion Bool.noConfusion
  simp only [List.mem_cons, List.not_mem_nil, or_false] at hi
  obtain rfl | rfl | rfl | rfl := hi
  · change Host.Outcome.next { s with body := if _ then (if _ then _ else s.body) else _ } = _
    rw [if_neg hno, hostReq_down h, ite_self]
  · change Host.Outcome.next { s with body := if _ then (if _ then _ else s.body) else if _ then _ else _ } = _
    rw [if_neg hno, if_neg (fun hall => hno hall.2 : ¬ ((windowOf va).isSome = true ∧ _)), hostReq_down h, ite_self]
  · change Host.Outcome.next { s with body := if _ then _ else _ } = _
    rw [if_neg (fun hall => hno hall.2 : ¬ ((windowOf va).isSome = true ∧ _)), hostReq_down h]
  · change Host.Outcome.next { s with body := if _ then _ else s.body } = _
    rw [if_neg hno]

theorem unsupportedRequest_answered (hup : s.body.netUp = true) (hready : s.body.qpReady qp.val = true) :
    Gives (.unsupportedRequest qp) s fun t =>
      (∃ m, t.out = s.body.out ++ [m] ∧ m.kind = .roceNak ∧ m.nums = [qp.val, (s.body.qp qp.val).rqPsn, 1]) ∧ t.eth = s.body.eth ∧
        t.regs = s.body.regs ∧ SameBytes s.body t := by
  have hi : exec (.unsupportedRequest qp) s = .next { s with body := s.body.answer qp .roceNak [1] } := by
    change Host.Outcome.next { s with body := if _ then _ else s.body } = _
    rw [if_pos ⟨hup, hready⟩]
  exact gives_of_next hi ⟨⟨_, rfl, rfl, rfl⟩, rfl, rfl, sameBytes_answer _ _ _ _ _⟩

/-- A request to no queue window, not marked CE, is the access it asks for. -/
theorem exec_request {i : Instr} {op : GwOp} {rx : Nat} {kind : MsgKind} (hwin : windowOf va = none)
    (h : (∃ data : List Byte, data.length ≤ 2 ^ 31 ∧ i = Instr.rdmaWrite qp va rkey data false ∧ op = GwOp.write data ∧ rx = data.length ∧ kind = MsgKind.roceAck) ∨
      (∃ len, len ≤ 2 ^ 31 ∧ i = .rdmaRead qp va rkey len false ∧ op = .read len ∧ rx = 0 ∧ kind = .readResponse) ∨
      (∃ v, i = .fetchAndAdd qp va rkey v false ∧ op = .fetchAdd v ∧ rx = 8 ∧ kind = .atomicResponse)) :
    exec i s = .next { s with body := s.body.hostReq qp va rkey op false } ∧ rx = rxOf op ∧ kind = answerKind op := by
  have hno : ¬ ((windowOf va).isSome = true ∧ s.body.netUp = true ∧ s.body.qpReady qp.val = true) := by
    rw [hwin]
    exact fun h => Bool.false_ne_true h.1
  obtain ⟨data, hlen, rfl, rfl, rfl, rfl⟩ | ⟨len, hlen, rfl, rfl, rfl, rfl⟩ | ⟨v, rfl, rfl, rfl, rfl⟩ := h
  · refine ⟨?_, rfl, rfl⟩
    change Host.Outcome.next { s with body := if data.length > 2 ^ 31 then _ else _ } = _
    rw [if_neg (Nat.not_lt.mpr hlen)]
  · refine ⟨?_, rfl, rfl⟩
    change Host.Outcome.next { s with body := if len > 2 ^ 31 then _ else if _ then _ else _ } = _
    rw [if_neg (Nat.not_lt.mpr hlen), if_neg hno]
  · refine ⟨?_, rfl, rfl⟩
    change Host.Outcome.next { s with body := if _ then _ else _ } = _
    rw [if_neg hno]

end

theorem accessAnswered_spec (c : Body) (k : Nat) (op : GwOp) (d : List Byte) : let t := c.accessAnswered k op d
    SameBytes c t ∧ (t.qp k).rqPsn = ((c.qp k).rqPsn + reqPackets (c.qp k) op) % 2 ^ 24 ∧
      ∃ m, t.out = c.out ++ [m] ∧ m.kind = answerKind op ∧ m.nums.getD 1 0 = (t.qp k).rqPsn ∧ m.data = answerData d op := by
  refine ⟨sameBytes_of rfl rfl rfl, ?_, _, rfl, rfl, rfl, rfl⟩
  change ((c.updQp k _).qp k).rqPsn = _
  rw [Body.qp_updQp_self]

/-- Settles O43: a request is the access it asks for, and every outcome of that access has its answer. -/
theorem hostRequestsAreAnswered : Obligations.HostRequestsAreAnswered := by
  rintro s qp k va rkey rfl
  refine ⟨fun i data len v ce hi h => exec_of_host_down hi h, unsupportedRequest_answered, fun hup hready hwin i op rx kind hreq => ?_⟩
  obtain ⟨hi, rfl, rfl⟩ := exec_request hwin hreq
  refine ⟨fun hap => gives_of_next hi ?_, fun g off hap hphase => gives_of_next hi ?_, fun g off st d c a hap hphase ha hacc => gives_of_next hi ?_⟩
  · rw [hostReq_nowhere hup hready hwin op hap]
    obtain ⟨hbytes, -, heth, -, m, hout, hkind, hnums⟩ := windowRefused_spec s.body { qp := Fin.ofNat 512 qp.val, va := va, rkey := rkey, data := [] } 0xFFFF
    have hqp : (Fin.ofNat 512 qp.val).val = qp.val := Nat.mod_eq_of_lt qp.isLt
    rw [hqp] at hnums
    exact ⟨hbytes, heth, m, hout, hkind, hnums⟩
  · rw [hostReq_anchored hup hready hwin op hap hphase]
    exact ⟨sameBytes_answer _ _ _ _ _, rfl, rfl, _, rfl, rfl, rfl⟩
  · obtain ⟨hfails, hpasses⟩ := hostReq_answered hup hready hwin op hap hphase ha hacc
    obtain ⟨hbytes, hpsn, m, hout, hkind, hnum, hdata⟩ := accessAnswered_spec c qp.val op d
    by_cases hst : st = 0
    · obtain heq | ⟨slot, n, heq⟩ := hpasses hst
      · rw [heq]
        exact ⟨hbytes, fun h => absurd hst h, fun _ => ⟨hpsn, m, hout, hkind, hnum, hdata.trans (by cases op <;> rfl)⟩⟩
      · rw [heq, Body.count_out, Body.qp_congr (Body.count_eth _ _ _ _)]
        exact ⟨hbytes.trans ((SameBut.refl [] _).count slot 13 n).bytes, fun h => absurd hst h, fun _ => ⟨hpsn, m, hout, hkind, hnum, hdata.trans (by cases op <;> rfl)⟩⟩
    · rw [hfails hst]
      exact ⟨sameBytes_answer _ _ _ _ _, fun _ => ⟨_, rfl, rfl, rfl⟩, fun h => absurd h hst⟩

end Sys2Proof.Machine
end

section
/-! PROOFS. What the module has sent: its acknowledgement, its resending, and its rate (R384, R386, R388). -/

namespace Sys2Proof.Machine

/-! ### Acknowledgements and retries -/

/-- A queue pair that forgets the messages up to a PSN. -/
def Qp.forgets (q : Qp) (psn : Nat) : Qp := { q with unacked := q.unacked.filter fun m => !psnLe (lastPsn q m) psn }

theorem acked_of_settled {b : Body} (h : b.tele.push.acked = true) (k psn : Nat) : b.acked k psn = b.updQp k fun q => q.forgets psn := by
  unfold Body.acked
  refine if_neg fun hall => ?_
  obtain ⟨-, hno, -⟩ := hall
  exact hno h

theorem qpResend_eq (b : Body) (k : Nat) : b.qpResend k = { b with out := b.out ++ (b.qp k).unacked } := by
  have h := foldl_send id b (b.qp k).unacked
  rw [List.map_id] at h
  exact h

/-- A queue pair that tries once more. -/
def Qp.again (q : Qp) : Qp := { q with tries := q.tries + 1 }

theorem retry_again {b : Body} {k : Nat} (h : (b.qp k).tries < (b.qp k).retry) (d1 : Nat) :
    b.retry k d1 = { b.updQp k Qp.again with out := b.out ++ (b.qp k).unacked } := by
  unfold Body.retry
  rw [if_pos h, qpResend_eq]
  change { b.updQp k Qp.again with out := b.out ++ ((b.updQp k Qp.again).qp k).unacked } = _
  rw [Body.qp_updQp_self]
  rfl

theorem retry_exhausted {b : Body} {k : Nat} (h : (b.qp k).retry ≤ (b.qp k).tries) (d1 : Nat) : b.retry k d1 = b.qpError k d1 :=
  if_neg (Nat.not_lt.mpr h)

theorem qpError_spec (b : Body) {k : Nat} (hk : k < 512) (d1 : Nat) : (b.qpError k d1).getF (.epQpStat k) Fld.epQpStatState = 2 ∧
    (b.qpError k d1).qp k = b.qp k ∧ (b.qpError k d1).out = b.out ∧ SameBytes b (b.qpError k d1) ∧
      SameRegsBut b (b.qpError k d1) [(Reg.epQpStat k).addr] := by
  have hsame : SameBut [(Reg.epQpStat k).addr] b (b.qpError k d1) := ((SameBut.refl _ b).setF (List.mem_singleton_self _) _ _).err _ _ _ _ _ _ _
  refine ⟨?_, ?_, ?_, hsame.bytes, hsame.regs⟩
  · rw [Body.qpError, Body.getF, (unnoted_epQpStat hk).error]
    exact (qpStat_setF b hk 2 (by decide)).trans (if_pos rfl)
  · rw [Body.qpError, Body.qp_congr (Body.err_eth _ _ _ _ _ _ _ _), Body.qp_congr (Body.setF_eth _ _ _ _)]
  · rw [Body.qpError, Body.err_out, Body.setF_out]

section
variable {s : State} {qp : Fin 512}

theorem exec_of_pair_down {psn syn : Nat} {i : Instr}
    (hi : i ∈ [Instr.roceAck qp psn, .roceNak qp psn syn, .roceAckTimeout qp, .cnp qp, .alphaDecay qp, .rateIncrease qp])
    (h : s.body.qpReady qp.val = false) : exec i s = .next s := by
  have hno : ¬ s.body.qpReady qp.val = true := fun hready => Bool.false_ne_true (h.symm.trans hready)
  simp only [List.mem_cons, List.not_mem_nil, or_false] at hi
  obtain rfl | rfl | rfl | rfl | rfl | rfl := hi
  · change Host.Outcome.next { s with body := if s.body.qpReady qp = true then _ else s.body } = _
    rw [if_neg hno]
  · change Host.Outcome.next { s with body := if ¬ s.body.qpReady qp = true then s.body else _ } = _
    rw [if_pos hno]
  · change Host.Outcome.next { s with body := if s.body.qpReady qp = true ∧ _ then _ else s.body } = _
    rw [if_neg fun hall => hno hall.1]
  · change Host.Outcome.next { s with body := if ¬ s.body.qpReady qp = true then s.body else _ } = _
    rw [if_pos hno]
  · change Host.Outcome.next { s with body := if s.body.qpReady qp = true then _ else s.body } = _
    rw [if_neg hno]
  · change Host.Outcome.next { s with body := if ¬ s.body.qpReady qp = true then s.body else _ } = _
    rw [if_pos hno]

section
variable (hready : s.body.qpReady qp.val = true)
include hready

theorem roceAck_forgets {psn : Nat} (hsettled : s.body.tele.push.acked = true) : Gives (.roceAck qp psn) s fun t =>
    t.qp qp.val = { s.body.qp qp.val with
        tries := 0, unacked := (s.body.qp qp.val).unacked.filter fun m => !psnLe (lastPsn (s.body.qp qp.val) m) (psn % 2 ^ 24) } ∧
      (∀ j, j ≠ qp.val → t.qp j = s.body.qp j) ∧ t.regs = s.body.regs ∧ t.out = s.body.out ∧ SameBytes s.body t := by
  set b := s.body.updQp qp fun q => { q with tries := 0 } with hb
  have hi : exec (.roceAck qp psn) s = .next { s with body := b.updQp qp fun q => q.forgets (psn % 2 ^ 24) } := by
    change Host.Outcome.next { s with body := if s.body.qpReady qp = true then b.acked qp (psn % 2 ^ 24) else s.body } = _
    rw [if_pos hready, acked_of_settled (b := b) hsettled]
  refine gives_of_next hi ⟨?_, fun j hj => ?_, rfl, rfl, sameBytes_of rfl rfl rfl⟩
  · rw [Body.qp_updQp_self, hb, Body.qp_updQp_self]
    rfl
  · rw [qp_updQp_ne _ hj, hb, qp_updQp_ne _ hj]

theorem roceNak_errs {psn syn : Nat} (hsyn : syn ≠ 0x60) : Gives (.roceNak qp psn syn) s fun t =>
    t.getF (.epQpStat qp.val) Fld.epQpStatState = 2 ∧ t.qp qp.val = s.body.qp qp.val ∧ t.out = s.body.out ∧ SameBytes s.body t ∧
      SameRegsBut s.body t [(Reg.epQpStat qp.val).addr] := by
  have hi : exec (.roceNak qp psn syn) s = .next { s with body := s.body.qpError qp syn } := by
    change Host.Outcome.next { s with body := if ¬ s.body.qpReady qp = true then s.body else if syn = 0x60 then _ else _ } = _
    rw [if_neg (not_not_intro hready), if_neg hsyn]
  exact gives_of_next hi (qpError_spec s.body qp.isLt syn)

/-- The body once a sequence NAK has acknowledged what came before its PSN. -/
def Body.nakked (b : Body) (k psn : Nat) : Body := b.updQp k fun q => q.forgets ((psn + 2 ^ 24 - 1) % 2 ^ 24)

theorem exec_roceNak {psn : Nat} (hsettled : s.body.tele.push.acked = true) : exec (.roceNak qp psn 0x60) s = .next { s with
      body := (s.body.nakked qp psn).retry qp 0xFF } := by
  change Host.Outcome.next { s with body := if ¬ s.body.qpReady qp = true then s.body else
    (s.body.acked qp ((psn + 2 ^ 24 - 1) % 2 ^ 24)).retry qp 0xFF } = _
  rw [if_neg (not_not_intro hready), acked_of_settled hsettled, Body.nakked]

theorem roceNak_resends {psn : Nat} {left : List Msg} (hsettled : s.body.tele.push.acked = true)
    (hleft : left = (s.body.qp qp.val).unacked.filter fun m => !psnLe (lastPsn (s.body.qp qp.val) m) ((psn + 2 ^ 24 - 1) % 2 ^ 24)) :
    ((s.body.qp qp.val).tries < (s.body.qp qp.val).retry → Gives (.roceNak qp psn 0x60) s fun t =>
        t.qp qp.val = { s.body.qp qp.val with tries := (s.body.qp qp.val).tries + 1, unacked := left } ∧ t.out = s.body.out ++ left ∧
          t.regs = s.body.regs ∧ SameBytes s.body t) ∧
      ((s.body.qp qp.val).retry ≤ (s.body.qp qp.val).tries → Gives (.roceNak qp psn 0x60) s fun t =>
        t.getF (.epQpStat qp.val) Fld.epQpStatState = 2 ∧ t.out = s.body.out ∧ SameBytes s.body t) := by
  have hqp : (s.body.nakked qp psn).qp qp = { s.body.qp qp.val with unacked := left } := by
    rw [hleft, Body.nakked, Body.qp_updQp_self]
    rfl
  refine ⟨fun hleave => gives_of_next (exec_roceNak hready hsettled) ?_, fun hnone => gives_of_next (exec_roceNak hready hsettled) ?_⟩
  · rw [retry_again (by rw [hqp]; exact hleave), hqp]
    refine ⟨?_, rfl, rfl, sameBytes_of rfl rfl rfl⟩
    change ((s.body.nakked qp psn).updQp qp Qp.again).qp qp = _
    rw [Body.qp_updQp_self, hqp]
    rfl
  · rw [retry_exhausted (by rw [hqp]; exact hnone)]
    obtain ⟨hstate, -, hout, hbytes, -⟩ := qpError_spec (s.body.nakked qp psn) qp.isLt 0xFF
    exact ⟨hstate, hout, hbytes⟩

omit hready in
theorem roceAckTimeout_of_none (hnone : (s.body.qp qp.val).unacked = []) : exec (.roceAckTimeout qp) s = .next s := by
  change Host.Outcome.next { s with body := if _ ∧ (s.body.qp qp).unacked ≠ [] then _ else s.body } = _
  rw [if_neg fun hall => hall.2 hnone]

section
variable (hleft : (s.body.qp qp.val).unacked ≠ [])
include hleft

theorem exec_roceAckTimeout : exec (.roceAckTimeout qp) s = .next { s with body := s.body.retry qp 0xFF } := by
  change Host.Outcome.next { s with body := if s.body.qpReady qp = true ∧ (s.body.qp qp).unacked ≠ [] then _ else s.body } = _
  rw [if_pos ⟨hready, hleft⟩]

theorem roceAckTimeout_resends (htries : (s.body.qp qp.val).tries < (s.body.qp qp.val).retry) : Gives (.roceAckTimeout qp) s fun t =>
    t.qp qp.val = { s.body.qp qp.val with tries := (s.body.qp qp.val).tries + 1 } ∧ t.out = s.body.out ++ (s.body.qp qp.val).unacked ∧
      t.regs = s.body.regs ∧ SameBytes s.body t := by
  refine gives_of_next (exec_roceAckTimeout hready hleft) ?_
  rw [retry_again htries]
  exact ⟨Body.qp_updQp_self _ _ _, rfl, rfl, sameBytes_of rfl rfl rfl⟩

theorem roceAckTimeout_errs (htries : (s.body.qp qp.val).retry ≤ (s.body.qp qp.val).tries) : Gives (.roceAckTimeout qp) s fun t =>
    t.getF (.epQpStat qp.val) Fld.epQpStatState = 2 ∧ t.qp qp.val = s.body.qp qp.val ∧ t.out = s.body.out ∧ SameBytes s.body t ∧
      SameRegsBut s.body t [(Reg.epQpStat qp.val).addr] := by
  refine gives_of_next (exec_roceAckTimeout hready hleft) ?_
  rw [retry_exhausted htries]
  exact qpError_spec s.body qp.isLt 0xFF

end

/-! ### Rate control (R386) -/

omit hready in
theorem epPortStat_ne_epQpStat {p : Nat} (hp : p < 8) (k : Nat) : (Reg.epPortStat p).addr ≠ (Reg.epQpStat k).addr := by
  simp only [Reg.addr]; omega

theorem cnp_cuts : Gives (.cnp qp) s fun t =>
    t.qp qp.val = { s.body.qp qp.val with
        rt := s.body.getF (.epQpStat qp.val) Fld.epQpStatRate, alpha := (15 * (s.body.qp qp.val).alpha + 2 ^ 32) / 16, steps := 0 } ∧
      t.getF (.epQpStat qp.val) Fld.epQpStatRate = (s.body.qp qp.val).held (max (s.body.getF (.epQpStat qp.val) Fld.epQpStatRate *
        (2 ^ 33 - (s.body.qp qp.val).alpha) / 2 ^ 33) rateMin) % 2 ^ Fld.epQpStatRate.width ∧
      Counted s.body t (.epPortStat (s.body.getF (.epQpStat qp.val) Fld.epQpStatSubport)) Fld.epPortStatCnpRx 1 ∧ SameBytes s.body t := by
  set k := qp.val
  set rate := s.body.getF (.epQpStat k) Fld.epQpStatRate
  set p := s.body.getF (.epQpStat k) Fld.epQpStatSubport
  have hp : p < 8 := s.body.getF_lt _ _
  set rc := (s.body.qp k).held (max (rate * (2 ^ 33 - (s.body.qp k).alpha) / 2 ^ 33) rateMin)
  set b := s.body.bump (.epPortStat p) Fld.epPortStatCnpRx 1 with hb
  set c := b.updQp k fun q => { q with rt := rate, alpha := (15 * (s.body.qp k).alpha + 2 ^ 32) / 16, steps := 0 } with hc
  have hi : exec (.cnp qp) s = .next { s with body := c.setF (.epQpStat k) Fld.epQpStatRate rc } := by
    change Host.Outcome.next { s with body := if ¬ s.body.qpReady qp = true then s.body else _ } = _
    rw [if_neg (not_not_intro hready)]
    refine congrArg (fun x => Host.Outcome.next { s with body := Body.setF x (.epQpStat k) Fld.epQpStatRate rc }) ?_
    refine congrArg (fun m => ({ b with eth.qps := m } : Body)) ?_
    have hqp : SMap.get b.eth.qps {} k = s.body.qp k := by rw [hb, Body.bump_eth, Body.qp]
    rw [SMap.upd, SMap.upd, hqp]
  refine gives_of_next hi ⟨?_, ?_, ?_, ?_⟩
  · rw [Body.qp_congr (Body.setF_eth _ _ _ _), hc, Body.qp_updQp_self, hb, Body.qp_congr (Body.bump_eth _ _ _ _)]
  · rw [qpStat_setF _ qp.isLt _ (by decide), if_pos rfl]
  · rw [Counted, Body.getF_setF_ne _ _ _ _ (epPortStat_ne_epQpStat hp k)]
    exact (getF_bump_fields s.body 1 (epPortStat_ok hp) (epPortStat_stored p) (by decide)).trans (if_pos rfl)
  · exact ((((SameBut.refl [(Reg.epPortStat p).addr, (Reg.epQpStat k).addr] s.body).bump (by simp) _ _).updQp k _).setF (by simp) _ _).bytes

theorem alphaDecay_decays : Gives (.alphaDecay qp) s fun t =>
    t.qp qp.val = { s.body.qp qp.val with alpha := 15 * (s.body.qp qp.val).alpha / 16 } ∧ (∀ j, j ≠ qp.val → t.qp j = s.body.qp j) ∧
      t.regs = s.body.regs ∧ SameBytes s.body t := by
  have hi : exec (.alphaDecay qp) s = .next { s with body := s.body.updQp qp fun q => { q with alpha := 15 * q.alpha / 16 } } := by
    change Host.Outcome.next { s with body := if s.body.qpReady qp = true then _ else s.body } = _
    rw [if_pos hready]
  exact gives_of_next hi ⟨Body.qp_updQp_self _ _ _, fun j hj => qp_updQp_ne _ hj _, rfl, sameBytes_of rfl rfl rfl⟩

theorem rateIncrease_raises {rt : Nat} (hrt : rt = if (s.body.qp qp.val).steps + 1 ≥ 6 then max (s.body.qp qp.val).rt
      (min ((s.body.qp qp.val).rt + 40) (s.body.portRate (s.body.getF (.epQpStat qp.val) Fld.epQpStatSubport))) else (s.body.qp qp.val).rt) :
    Gives (.rateIncrease qp) s fun t => t.qp qp.val = { s.body.qp qp.val with rt := rt, steps := (s.body.qp qp.val).steps + 1 } ∧
      t.getF (.epQpStat qp.val) Fld.epQpStatRate =
        (s.body.qp qp.val).held ((s.body.getF (.epQpStat qp.val) Fld.epQpStatRate + rt) / 2) % 2 ^ Fld.epQpStatRate.width ∧
      SameBytes s.body t ∧ SameRegsBut s.body t [(Reg.epQpStat qp.val).addr] := by
  have hi : exec (.rateIncrease qp) s = .next { s with
      body := (s.body.updQp qp fun q => { q with rt := rt, steps := q.steps + 1 }).setF (.epQpStat qp) Fld.epQpStatRate
        ((s.body.qp qp.val).held ((s.body.getF (.epQpStat qp.val) Fld.epQpStatRate + rt) / 2)) } := by
    change Host.Outcome.next { s with body := if ¬ s.body.qpReady qp = true then s.body else _ } = _
    rw [if_neg (not_not_intro hready), hrt]
  have hsame := (sameBut_updQp [(Reg.epQpStat qp.val).addr] s.body qp fun q => { q with rt := rt, steps := q.steps + 1 }).setF
    (List.mem_singleton_self _) Fld.epQpStatRate ((s.body.qp qp.val).held ((s.body.getF (.epQpStat qp.val) Fld.epQpStatRate + rt) / 2))
  refine gives_of_next hi ⟨?_, (qpStat_setF _ qp.isLt _ (by decide)).trans (if_pos rfl), hsame.bytes, hsame.regs⟩
  rw [Body.qp_congr (Body.setF_eth _ _ _ _), Body.qp_updQp_self]

end

end

/-- Settles O44, one lemma for each event and what the queue pair stands at. -/
theorem roceAcksAndRates : Obligations.RoceAcksAndRates := by
  rintro s qp k psn syn q r rate rfl rfl rfl rfl
  exact ⟨fun i hi hdown => exec_of_pair_down hi hdown, fun hready => ⟨roceAck_forgets hready, roceNak_errs hready,
    fun left hsettled hleft => roceNak_resends hready hsettled hleft, roceAckTimeout_of_none, roceAckTimeout_resends hready,
    roceAckTimeout_errs hready, cnp_cuts hready, alphaDecay_decays hready, fun rt hrt => rateIncrease_raises hready hrt⟩⟩

end Sys2Proof.Machine
end

section
/-! PROOFS. Sub-ports: addresses, links and pauses; and the time that PTP and PPS set (R381, R382, R385, R396, R397). -/

namespace Sys2Proof.Machine

section
variable {s : State} {p : Fin 8}

/-! ### Address requests (R382) -/

/-- What an address request does with a sub-port, by what its frame's tag and address are. -/
theorem answerAddr_cases (b : Body) (p : Nat) (vlan : Option Nat) (hit : Bool) (m : Msg) :
    (b.netUp = false → b.answerAddr p vlan hit m = b) ∧
      (b.netUp = true → tagOk p vlan = false → b.answerAddr p vlan hit m = b.discard p) ∧
      (b.netUp = true → tagOk p vlan = true → hit = true → b.answerAddr p vlan hit m = b.send m) ∧
      (b.netUp = true → tagOk p vlan = true → hit = false → b.answerAddr p vlan hit m = b) := by
  unfold Body.answerAddr
  refine ⟨fun h => ?_, fun h ht => ?_, fun h ht hh => ?_, fun h ht hh => ?_⟩
  · rw [if_pos (by rw [h]; exact Bool.false_ne_true)]
  · rw [if_neg (not_not_intro h), if_pos (by rw [ht]; exact Bool.false_ne_true)]
  · rw [if_neg (not_not_intro h), if_neg (not_not_intro ht), if_pos hh]
  · rw [if_neg (not_not_intro h), if_neg (not_not_intro ht), if_neg (by rw [hh]; exact Bool.false_ne_true)]

theorem discard_spec (b : Body) {p : Nat} (hp : p < 8) : Counted b (b.discard p) (.epPortStat p) Fld.epPortStatDiscard 1 ∧
    (b.discard p).out = b.out ∧ SameBytes b (b.discard p) :=
  ⟨(getF_bump_fields b 1 (epPortStat_ok hp) (epPortStat_stored p) (by decide)).trans (if_pos rfl), Body.bump_out _ _ _ _,
    ((SameBut.refl [(Reg.epPortStat p).addr] b).bump (List.mem_singleton_self _) _ 1).bytes⟩

/-- The three address requests: each is answered where the address is the one the sub-port holds. -/
theorem exec_addressRequest {vlan : Option Nat} {ip : Nat} {data d : List Byte} {i : Instr} {kind : MsgKind} {hit : Bool}
    (hi : (i, kind, hit, d) ∈ [(Instr.arpRequest p vlan ip, MsgKind.arpReply, decide (ip = (s.body.addrsOf p.val vlan).1), ([] : List Byte)),
      (.neighbourSolicitation p vlan ip, .naReply, decide (ip = (s.body.addrsOf p.val vlan).2), []),
      (.icmpEcho p vlan ip data, .icmpReply, decide (ip = (s.body.addrsOf p.val vlan).1 ∨ ip = (s.body.addrsOf p.val vlan).2), data)]) :
    ∃ m : Msg, m.kind = kind ∧ m.nums.getD 1 0 = ip ∧ m.data = d ∧
      exec i s = .next { s with body := s.body.answerAddr p vlan (decide (ip ≠ 0) && hit) m } := by
  simp only [List.mem_cons, List.not_mem_nil, or_false, Prod.mk.injEq] at hi
  obtain ⟨rfl, rfl, rfl, rfl⟩ | ⟨rfl, rfl, rfl, rfl⟩ | ⟨rfl, rfl, rfl, rfl⟩ := hi
  · rw [← Bool.decide_and]
    exact ⟨_, rfl, rfl, rfl, rfl⟩
  · rw [← Bool.decide_and]
    exact ⟨_, rfl, rfl, rfl, rfl⟩
  · rw [← Bool.decide_and]
    exact ⟨_, rfl, rfl, rfl, rfl⟩

theorem exec_otherFrame (vlan : Option Nat) : exec (.otherFrame p vlan) s = .next { s with
    body := if s.body.netUp = true then s.body.discard p else s.body } := rfl

theorem exec_of_net_down {vlan : Option Nat} {ip : Nat} {data : List Byte} {i : Instr} (h : s.body.netUp = false)
    (hi : i ∈ [Instr.arpRequest p vlan ip, .neighbourSolicitation p vlan ip, .icmpEcho p vlan ip data, .otherFrame p vlan]) :
    exec i s = .next s := by
  have hanswer : ∀ hit m, s.body.answerAddr p vlan hit m = s.body := fun hit m => (answerAddr_cases s.body p vlan hit m).1 h
  simp only [List.mem_cons, List.not_mem_nil, or_false] at hi
  obtain rfl | rfl | rfl | rfl := hi
  · change Host.Outcome.next { s with body := s.body.answerAddr p vlan _ _ } = _
    rw [hanswer]
  · change Host.Outcome.next { s with body := s.body.answerAddr p vlan _ _ } = _
    rw [hanswer]
  · change Host.Outcome.next { s with body := s.body.answerAddr p vlan _ _ } = _
    rw [hanswer]
  · rw [exec_otherFrame, if_neg (by rw [h]; exact Bool.false_ne_true)]

section
variable (hup : s.body.netUp = true)
include hup

theorem addressRequest_answered {vlan : Option Nat} {ip : Nat} {data d : List Byte} {i : Instr} {kind : MsgKind} {hit : Bool}
    (hi : (i, kind, hit, d) ∈ [(Instr.arpRequest p vlan ip, MsgKind.arpReply, decide (ip = (s.body.addrsOf p.val vlan).1), ([] : List Byte)),
      (.neighbourSolicitation p vlan ip, .naReply, decide (ip = (s.body.addrsOf p.val vlan).2), []),
      (.icmpEcho p vlan ip data, .icmpReply, decide (ip = (s.body.addrsOf p.val vlan).1 ∨ ip = (s.body.addrsOf p.val vlan).2), data)]) :
    (tagOk p.val vlan = true → ip ≠ 0 → hit = true → Gives i s fun t => (∃ m, t.out = s.body.out ++ [m] ∧ m.kind = kind ∧
        m.nums.getD 1 0 = ip ∧ m.data = d) ∧ t.regs = s.body.regs ∧ SameBytes s.body t) ∧
      (tagOk p.val vlan = true → (ip = 0 ∨ hit = false) → exec i s = .next s) ∧
      (tagOk p.val vlan = false → Gives i s fun t => Counted s.body t (.epPortStat p.val) Fld.epPortStatDiscard 1 ∧ t.out = s.body.out ∧
        SameBytes s.body t) := by
  obtain ⟨m, hkind, hnum, hdata, hexec⟩ := exec_addressRequest hi
  obtain ⟨-, hwrong, hhit, hmiss⟩ := answerAddr_cases s.body p vlan (decide (ip ≠ 0) && hit) m
  refine ⟨fun htag hip hh => gives_of_next hexec ?_, fun htag hno => ?_, fun htag => gives_of_next hexec ?_⟩
  · rw [hhit hup htag (Bool.and_eq_true_iff.mpr ⟨decide_eq_true hip, hh⟩)]
    exact ⟨⟨m, rfl, hkind, hnum, hdata⟩, rfl, sameBytes_of rfl rfl rfl⟩
  · rw [hexec, hmiss hup htag]
    exact Bool.and_eq_false_iff.mpr (hno.imp_left fun h => decide_eq_false (not_not_intro h))
  · rw [hwrong hup htag]
    exact discard_spec s.body p.isLt

theorem otherFrame_discarded (vlan : Option Nat) : Gives (.otherFrame p vlan) s fun t =>
    Counted s.body t (.epPortStat p.val) Fld.epPortStatDiscard 1 ∧ t.out = s.body.out ∧ SameBytes s.body t := by
  refine gives_of_next (exec_otherFrame vlan) ?_
  rw [if_pos hup]
  exact discard_spec s.body p.isLt

end

/-! ### Pauses (R385) -/

theorem exec_pauseFrame (prio : Fin 8) (quanta : Nat) : exec (.pauseFrame p prio quanta) s = .next { s with
      body := if s.body.flag (.epPortCfg p) Fld.epPortCfgPfcEn = true ∧ s.body.getF (.epPortCfg p) Fld.epPortCfgPfcPrio = prio.val then
          s.body.updPort p fun q => if quanta = 0 then { q with paused := none, stormed := false }
            else { q with paused := some (q.paused.getD s.body.ts) }
        else s.body } := rfl

theorem pauseFrame_pauses {prio : Fin 8} {quanta : Nat} (hen : s.body.flag (.epPortCfg p.val) Fld.epPortCfgPfcEn = true)
    (hprio : s.body.getF (.epPortCfg p.val) Fld.epPortCfgPfcPrio = prio.val) : Gives (.pauseFrame p prio quanta) s fun t =>
      t.port p.val = (if quanta = 0 then { s.body.port p.val with paused := none, stormed := false }
        else { s.body.port p.val with paused := some ((s.body.port p.val).paused.getD s.body.ts) }) ∧ t.regs = s.body.regs := by
  refine gives_of_next (exec_pauseFrame prio quanta) ?_
  rw [if_pos ⟨hen, hprio⟩]
  exact ⟨port_updPort_self _ _ _, rfl⟩

theorem pauseFrame_ignored {prio : Fin 8} {quanta : Nat}
    (h : s.body.flag (.epPortCfg p.val) Fld.epPortCfgPfcEn = false ∨ s.body.getF (.epPortCfg p.val) Fld.epPortCfgPfcPrio ≠ prio.val) :
    exec (.pauseFrame p prio quanta) s = .next s := by
  rw [exec_pauseFrame, if_neg]
  rintro ⟨hen, hprio⟩
  exact h.elim (fun h => Bool.false_ne_true (h.symm.trans hen)) (· hprio)

/-- The body with a storm on a sub-port noted. -/
def Body.stormNoted (b : Body) (p : Nat) : Body :=
  ((b.updPort p fun q => { q with stormed := true }).bump (.epPortStat p) Fld.epPortStatPfcStorm 1).err 0x0703 1 5 p
    [b.getF (.epPortCfg p) Fld.epPortCfgPfcPrio]

theorem exec_pfcStorm : exec (.pfcStorm p) s = .next { s with
    body := if (s.body.port p).paused.isSome = true ∧ ¬ (s.body.port p).stormed = true then s.body.stormNoted p else s.body } := rfl

theorem pfcStorm_ignored (h : (s.body.port p.val).paused = none ∨ (s.body.port p.val).stormed = true) : exec (.pfcStorm p) s = .next s := by
  rw [exec_pfcStorm, if_neg]
  rintro ⟨hpaused, hstormed⟩
  obtain h | h := h
  · rw [h] at hpaused
    exact Bool.false_ne_true hpaused
  · exact hstormed h

theorem pfcStorm_noted (hpaused : (s.body.port p.val).paused ≠ none) (hnew : (s.body.port p.val).stormed = false) :
    Gives (.pfcStorm p) s fun t => t.port p.val = { s.body.port p.val with stormed := true } ∧
      Counted s.body t (.epPortStat p.val) Fld.epPortStatPfcStorm 1 ∧ SameBytes s.body t := by
  refine gives_of_next exec_pfcStorm ?_
  rw [if_pos ⟨Option.isSome_iff_ne_none.mpr hpaused, by rw [hnew]; exact Bool.false_ne_true⟩]
  unfold Body.stormNoted
  refine ⟨?_, ?_, ?_⟩
  · rw [port_congr (Body.err_eth _ _ _ _ _ _ _ _), port_congr (Body.bump_eth _ _ _ _), port_updPort_self]
  · rw [Counted, Body.getF, (unnoted_epPortStat p.isLt).error]
    exact (getF_bump_fields _ 1 (epPortStat_ok p.isLt) (epPortStat_stored p) (by decide)).trans (if_pos rfl)
  · exact (((sameBut_updPort [(Reg.epPortStat p).addr] s.body p _).bump (List.mem_singleton_self _) _ 1).err _ _ _ _ _ _ _).bytes

/-! ### Links (R381) -/

theorem portStat_link (b : Body) (v : Nat) : (b.setF (.epPortStat p) Fld.epPortStatLink v).getF (.epPortStat p) Fld.epPortStatLink = v % 2 :=
  (getF_setF_fields b v (epPortStat_ok p.isLt) (epPortStat_stored p) (by decide)).trans (if_pos rfl)

theorem ethernetLinkChange_up (hup : s.body.netUp = true) (hrate : s.body.portRate p.val ≠ 0) : Gives (.ethernetLinkChange p true) s fun t =>
    t.flag (.epPortStat p.val) Fld.epPortStatLink = true ∧ SameRegsBut s.body t [(Reg.epPortStat p.val).addr] ∧ SameBytes s.body t := by
  have hi : exec (.ethernetLinkChange p true) s = .next { s with body := s.body.setF (.epPortStat p) Fld.epPortStatLink 1 } := by
    change Host.Outcome.next { s with body := if s.body.netUp = true ∧ s.body.portRate p ≠ 0 then _ else s.body } = _
    rw [if_pos ⟨hup, hrate⟩]
  have hsame := (SameBut.refl [(Reg.epPortStat p).addr] s.body).setF (List.mem_singleton_self _) Fld.epPortStatLink 1
  refine gives_of_next hi ⟨?_, hsame.regs, hsame.bytes⟩
  rw [Body.flag, portStat_link]
  rfl

theorem ethernetLinkChange_unprovided (hrate : s.body.portRate p.val = 0) : exec (.ethernetLinkChange p true) s = .next s := by
  change Host.Outcome.next { s with body := if s.body.netUp = true ∧ s.body.portRate p ≠ 0 then _ else s.body } = _
  rw [if_neg fun hall => hall.2 hrate]

theorem ethernetLinkChange_down : Gives (.ethernetLinkChange p false) s fun t => t.flag (.epPortStat p.val) Fld.epPortStatLink = false ∧
    t.port p.val = { s.body.port p.val with paused := none, stormed := false } ∧ SameRegsBut s.body t [(Reg.epPortStat p.val).addr] := by
  have hi : exec (.ethernetLinkChange p false) s = .next { s with
      body := (s.body.setF (.epPortStat p) Fld.epPortStatLink 0).updPort p fun q => { q with paused := none, stormed := false } } := rfl
  refine gives_of_next hi ⟨?_, ?_, ?_⟩
  · have hlink : (s.body.setF (.epPortStat p) Fld.epPortStatLink 0).flag (.epPortStat p) Fld.epPortStatLink = false := by
      rw [Body.flag, portStat_link]
      rfl
    exact hlink
  · rw [port_updPort_self, port_congr (Body.setF_eth _ _ _ _)]
  · exact (((SameBut.refl [(Reg.epPortStat p).addr] s.body).setF (List.mem_singleton_self _) _ _).trans (sameBut_updPort _ _ _ _)).regs

/-! ### PTP (R396) -/

theorem ptpStat_setF (b : Body) {f g : Fld} (v : Nat) (h : f.lo ≤ f.hi ∧ f.hi < 64 ∧ g.lo ≤ g.hi ∧ (g = f ∨ g.hi < f.lo ∨ f.hi < g.lo)) :
    (b.setF .epPtpStat f v).getF .epPtpStat g = if g = f then v % 2 ^ f.width else b.getF .epPtpStat g :=
  getF_setF_fields b v rfl (by simp [Reg.stored]) h

theorem ofSInt_lt (w : Nat) (i : Int) : ofSInt w i < 2 ^ w := by
  have hpos : (0 : Int) < ((2 ^ w : Nat) : Int) := by positivity
  have := Int.emod_lt_of_pos i hpos
  have := Int.emod_nonneg i hpos.ne'
  unfold ofSInt
  omega

/-- The body with a PTP measurement recorded. -/
def Body.ptpNoted (b : Body) (offset : Int) : Body :=
  (b.setF .epPtpStat Fld.epPtpStatOffset (ofSInt 32 (max (-2147483648) (min 2147483647 offset)))).setF .epPtpStat
    Fld.epPtpStatLocked (if offset.natAbs < 20 then 1 else 0)

/-- The body with a PTP measurement recorded and answered. -/
def Body.ptpTaken (b : Body) (p : Fin 8) (domain : Nat) (offset : Int) : Body :=
  (b.ptpNoted offset).send { port := .subport p, kind := .ptpDelayReq, nums := [domain, (b.ptpNoted offset).ts.toNat +
    (b.ptpNoted offset).getF .epPtpCfg Fld.epPtpCfgTxLat] }

/-- The body with its time stepped by `d`: the probes then under way are spoiled. -/
def Body.timeStepped (b : Body) (d : Int) : Body :=
  { b with
    ts := stepTs b.ts d,
    tele.probe := b.tele.probe.map fun (x : Probe) => { x with
      spoiled := (x.sent.map (·.1)).filter fun i => !x.results.any fun (r : Nat × Int × Int × Word) => decide (r.1 = i) } }

section
variable {domain : Nat} {offset : Int}

theorem ptpEventMessage_ignored (h : s.body.netUp = false ∨ p.val ≠ frGet s.body.framing 0x00D ∨ domain ≠ frGet s.body.framing 0x00E) :
    exec (.ptpEventMessage p domain offset) s = .next s := by
  change Host.Outcome.next { s with
    body := if ¬ s.body.netUp = true ∨ p.val ≠ frGet s.body.framing 0x00D ∨ domain ≠ frGet s.body.framing 0x00E then s.body else _ } = _
  rw [if_pos (h.imp_left fun h hup => Bool.false_ne_true (h.symm.trans hup))]

theorem getF_ptpTaken (b : Body) (p : Fin 8) (domain : Nat) (offset : Int) :
    (b.ptpTaken p domain offset).getF .epPtpStat Fld.epPtpStatOffset = ofSInt 32 (max (-2147483648) (min 2147483647 offset)) ∧
      (b.ptpTaken p domain offset).flag .epPtpStat Fld.epPtpStatLocked = decide (offset.natAbs < 20) ∧
      (b.ptpTaken p domain offset).getF .epPtpStat Fld.epPtpStatPpsLost = b.getF .epPtpStat Fld.epPtpStatPpsLost := by
  rw [Body.ptpTaken, Body.flag, Body.send_getF, Body.send_getF, Body.send_getF, Body.ptpNoted]
  refine ⟨?_, ?_, ?_⟩
  · rw [ptpStat_setF _ _ (by decide), if_neg (by decide), ptpStat_setF _ _ (by decide), if_pos rfl]
    exact Nat.mod_eq_of_lt (ofSInt_lt 32 _)
  · rw [ptpStat_setF _ _ (by decide), if_pos rfl]
    split
    next h => exact (decide_eq_true h).symm
    next h => exact (decide_eq_false h).symm
  · rw [ptpStat_setF _ _ (by decide), if_neg (by decide), ptpStat_setF _ _ (by decide), if_neg (by decide)]

theorem sameBut_ptpTaken (b : Body) (p : Fin 8) (domain : Nat) (offset : Int) : SameBut [Reg.epPtpStat.addr] b (b.ptpTaken p domain offset) :=
  (((SameBut.refl _ b).setF (List.mem_singleton_self _) _ _).setF (List.mem_singleton_self _) _ _).send _

theorem ppsSteers_ptpTaken (b : Body) (p : Fin 8) (domain : Nat) (offset : Int) : (b.ptpTaken p domain offset).ppsSteers = b.ppsSteers := by
  obtain ⟨-, -, hlost⟩ := getF_ptpTaken b p domain offset
  have hmode : (b.ptpTaken p domain offset).getF .epPtpCfg Fld.epPtpCfgPpsMode = b.getF .epPtpCfg Fld.epPtpCfgPpsMode := by
    rw [Body.ptpTaken, Body.send_getF, Body.ptpNoted, Body.getF_setF_ne _ _ _ _ (by decide), Body.getF_setF_ne _ _ _ _ (by decide)]
  have heth : (b.ptpTaken p domain offset).eth = b.eth := by
    rw [Body.ptpTaken, Body.send_eth, Body.ptpNoted, Body.setF_eth, Body.setF_eth]
  unfold Body.ppsSteers Body.flag
  rw [hlost, hmode, heth]

theorem exec_ptpEventMessage (hup : s.body.netUp = true) (hport : p.val = frGet s.body.framing 0x00D)
    (hdomain : domain = frGet s.body.framing 0x00E) : exec (.ptpEventMessage p domain offset) s = .next { s with
      body :=
        if offset.natAbs > 1000000 then
          (s.body.ptpTaken p domain offset).timeStepped (if s.body.ppsSteers = true then
            offset.tdiv 1000000000 * 1000000000 else offset)
        else if s.body.ppsSteers = true then s.body.ptpTaken p domain offset
        else (s.body.ptpTaken p domain offset).slewFree } := by
  change Host.Outcome.next { s with
    body := if ¬ s.body.netUp = true ∨ p.val ≠ frGet s.body.framing 0x00D ∨ domain ≠ frGet s.body.framing 0x00E then s.body else _ } = _
  rw [if_neg fun h => h.elim (· hup) fun h => h.elim (· hport) (· hdomain),
    ← ppsSteers_ptpTaken s.body p domain offset]
  rfl

theorem out_ptpTaken (b : Body) (p : Fin 8) (domain : Nat) (offset : Int) :
    ∃ m, (b.ptpTaken p domain offset).out = b.out ++ [m] ∧ m.kind = .ptpDelayReq := by
  have hkept : (b.ptpNoted offset).out = b.out := by rw [Body.ptpNoted, Body.setF_out, Body.setF_out]
  rw [← hkept]
  exact ⟨_, rfl, rfl⟩

theorem ts_ptpTaken (b : Body) (p : Fin 8) (domain : Nat) (offset : Int) : (b.ptpTaken p domain offset).ts = b.ts := by
  rw [Body.ptpTaken, Body.send, Body.ptpNoted, Body.setF_ts, Body.setF_ts]

theorem ptpEventMessage_taken (hup : s.body.netUp = true) (hport : p.val = frGet s.body.framing 0x00D)
    (hdomain : domain = frGet s.body.framing 0x00E) : Gives (.ptpEventMessage p domain offset) s fun t =>
      t.getF .epPtpStat Fld.epPtpStatOffset = ofSInt 32 (max (-2147483648) (min 2147483647 offset)) ∧
        t.flag .epPtpStat Fld.epPtpStatLocked = decide (offset.natAbs < 20) ∧ (∃ m, t.out = s.body.out ++ [m] ∧ m.kind = .ptpDelayReq) ∧
        t.ts = (if 1000000 < offset.natAbs then BitVec.ofInt 64 ((s.body.ts.toNat : Int) -
          (if s.body.ppsSteers = true then offset.tdiv 1000000000 * 1000000000 else offset)) else s.body.ts) ∧
        SameRegsBut s.body t [Reg.epPtpStat.addr] ∧ SameBytes s.body t := by
  have hi := exec_ptpEventMessage (offset := offset) hup hport hdomain
  obtain ⟨hoffset, hlocked, -⟩ := getF_ptpTaken s.body p domain offset
  have hsame := sameBut_ptpTaken s.body p domain offset
  have hout := out_ptpTaken s.body p domain offset
  have hts := ts_ptpTaken s.body p domain offset
  generalize s.body.ptpTaken p domain offset = c at *
  refine gives_of_next hi ?_
  by_cases hbig : 1000000 < offset.natAbs
  · rw [if_pos hbig, if_pos hbig]
    refine ⟨hoffset, hlocked, hout, ?_, hsame.regs, hsame.bytes⟩
    rw [← hts]
    rfl
  · rw [if_neg hbig, if_neg hbig]
    split
    · exact ⟨hoffset, hlocked, hout, hts, hsame.regs, hsame.bytes⟩
    · exact ⟨hoffset, hlocked, hout, hts, hsame.regs, hsame.bytes⟩

end

/-! ### PPS (R397) -/

theorem ppsInEdge_ignored (h : s.body.getF .epPtpCfg Fld.epPtpCfgPpsMode = 0 ∨
      (s.body.eth.ppsCount ≠ 0 ∧ (s.body.ts - s.body.eth.ppsLast).toNat < 900000000)) : exec .ppsInEdge s = .next s := by
  change Host.Outcome.next { s with
    body := if s.body.getF .epPtpCfg Fld.epPtpCfgPpsMode = 0 ∨
      (s.body.eth.ppsCount ≠ 0 ∧ (s.body.ts - s.body.eth.ppsLast).toNat < 900000000) then s.body else _ } = _
  rw [if_pos h]

/-- The body with a PPS edge recorded. -/
def Body.edgeTaken (b : Body) : Body :=
  (({ b with eth.ppsLast := b.ts, eth.ppsCount := b.eth.ppsCount + 1 } : Body).setReg .epPpsTs b.ts).setF .epPtpStat Fld.epPtpStatPpsLost 0

theorem edgeTaken_spec (b : Body) : b.edgeTaken.reg .epPpsTs = b.ts ∧ b.edgeTaken.flag .epPtpStat Fld.epPtpStatPpsLost = false ∧
    b.edgeTaken.eth.ppsLast = b.ts ∧ b.edgeTaken.eth.ppsCount = b.eth.ppsCount + 1 ∧ b.edgeTaken.ts = b.ts ∧ SameBytes b b.edgeTaken := by
  unfold Body.edgeTaken
  refine ⟨?_, ?_, ?_, ?_, ?_, sameBytes_of_memory ((memory_setF _ _ _ _).trans (memory_setReg _ _ _))⟩
  · rw [Body.reg_setF_ne _ _ _ (by decide), Body.reg_setReg_self _ _ rfl (by simp [Reg.stored])]
  · rw [Body.flag, ptpStat_setF _ _ (by decide), if_pos rfl]
    rfl
  · rw [Body.setF_eth, Body.setReg_eth]
  · rw [Body.setF_eth, Body.setReg_eth]
  · rw [Body.setF_ts, Body.setReg_ts]

theorem ppsInEdge_taken (hmode : s.body.getF .epPtpCfg Fld.epPtpCfgPpsMode ≠ 0)
    (hlate : s.body.eth.ppsCount = 0 ∨ 900000000 ≤ (s.body.ts - s.body.eth.ppsLast).toNat) : Gives .ppsInEdge s fun t =>
      t.reg .epPpsTs = s.body.ts ∧ t.flag .epPtpStat Fld.epPtpStatPpsLost = false ∧ t.eth.ppsLast = s.body.ts ∧
        t.eth.ppsCount = s.body.eth.ppsCount + 1 ∧ t.ts = s.body.ts ∧ SameBytes s.body t := by
  have hi : exec .ppsInEdge s = .next { s with
      body := if s.body.getF .epPtpCfg Fld.epPtpCfgPpsMode = 2 then s.body.edgeTaken.slewFree else s.body.edgeTaken } := by
    change Host.Outcome.next { s with
      body := if s.body.getF .epPtpCfg Fld.epPtpCfgPpsMode = 0 ∨
        (s.body.eth.ppsCount ≠ 0 ∧ (s.body.ts - s.body.eth.ppsLast).toNat < 900000000) then s.body else _ } = _
    rw [if_neg fun h => h.elim hmode fun h => hlate.elim h.1 (Nat.not_le.mpr h.2)]
    rfl
  refine gives_of_next hi ?_
  split
  · exact edgeTaken_spec s.body
  · exact edgeTaken_spec s.body

theorem exec_ppsLost : exec .ppsLost s = .next { s with
    body := if s.body.getF .epPtpCfg Fld.epPtpCfgPpsMode = 0 then s.body else s.body.setF .epPtpStat Fld.epPtpStatPpsLost 1 } := rfl

theorem ppsLost_ignored (hmode : s.body.getF .epPtpCfg Fld.epPtpCfgPpsMode = 0) : exec .ppsLost s = .next s := by
  rw [exec_ppsLost, if_pos hmode]

theorem ppsLost_noted (hmode : s.body.getF .epPtpCfg Fld.epPtpCfgPpsMode ≠ 0) : Gives .ppsLost s fun t =>
    t.flag .epPtpStat Fld.epPtpStatPpsLost = true ∧ SameRegsBut s.body t [Reg.epPtpStat.addr] ∧ SameBytes s.body t := by
  have hsame := (SameBut.refl [Reg.epPtpStat.addr] s.body).setF (List.mem_singleton_self _) Fld.epPtpStatPpsLost 1
  refine gives_of_next exec_ppsLost ?_
  rw [if_neg hmode]
  refine ⟨?_, hsame.regs, hsame.bytes⟩
  rw [Body.flag, ptpStat_setF _ _ (by decide), if_pos rfl]
  rfl

end

/-- Settles O45, one lemma for each frame, pause, link change and edge. -/
theorem portsAnswerAndKeepTime : Obligations.PortsAnswerAndKeepTime := fun _ _ vlan _ _ =>
  ⟨fun hdown _ hi => exec_of_net_down hdown hi,
    fun hup => ⟨fun _ _ _ _ hi => addressRequest_answered hup hi, otherFrame_discarded hup vlan⟩,
    fun _ _ hen hprio => pauseFrame_pauses hen hprio, fun _ _ h => pauseFrame_ignored h, pfcStorm_ignored, pfcStorm_noted,
    ethernetLinkChange_up, ethernetLinkChange_unprovided, ethernetLinkChange_down,
    fun _ _ => ⟨ptpEventMessage_ignored, ptpEventMessage_taken⟩,
    fun _ hmode => hmode ▸ ⟨ppsInEdge_ignored, ppsInEdge_taken, ppsLost_ignored, ppsLost_noted⟩⟩

end Sys2Proof.Machine
end

section
/-! PROOFS. Output written at a handle, framing images staged and read, reports, and the fuses (R410, R417, R419, R422, R425). -/

namespace Sys2Proof.Machine

/-! ### Output written at a handle (R110, R118) -/

theorem outWrite_refused {b : Body} {fl : Flight} {h off st : Nat} {data : List Byte}
    (hacc : b.accessHere fl.slot h off data.length true = .error st) : b.outWrite fl h off data = b.fail fl st h off := by
  rw [Body.outWrite, hacc]

theorem rowStored_output {b c : Body} (hb : PlainMemory b) (h : SameMemory b c) (fl : Flight) (a n point : Nat) (row : List Byte) :
    RowStored b ((c.tierTraffic fl.slot a n true point).store a row) a row :=
  (h.trans (sameMemory_tierTraffic c fl.slot a n true point)).store hb a row

theorem outWrite_writes {b : Body} {fl : Flight} {h off : Nat} {data : List Byte} {e : Entry} (hplain : PlainMemory b)
    (hacc : b.accessHere fl.slot h off data.length true = .ok e) : let t := b.outWrite fl h off data
    EndsWith b t fl 0 0 ∧ t.bytes (e.base + off) data.length = data ∧ SameBytesBut b t (e.base + off) data.length := by
  have hrow := rowStored_output hplain (SameMemory.refl b) fl (e.base + off) data.length 11 data
  rw [Body.outWrite, hacc]
  dsimp only
  set c := (b.tierTraffic fl.slot (e.base + off) data.length true 11).store (e.base + off) data
  have hbytes : SameBytes c (c.done fl) := SameBytes.done (fun _ => rfl) fl 0
  refine ⟨Body.endsWith_done fl 0 hrow.ended, ?_, fun x hx => ?_⟩
  · rw [hbytes.bytes_eq, hrow.bytes_whole]
  · rw [hbytes, hrow.outside x hx]

section
variable {s : State} {c : Cmd} {fl : Flight}

/-! ### FR_STAGE (R417) -/

/-- A container read from a handle: its bytes, and the body after it. -/
def Body.containerRead (b : Body) (slot a n : Nat) : Body := (b.tierTraffic slot a n false 11).readPages a n

theorem sameMemory_containerRead (b : Body) (slot a n : Nat) : SameMemory b (b.containerRead slot a n) :=
  (sameMemory_tierTraffic b slot a n false 11).trans (sameMemory_readPages _ a n)

theorem boot_containerRead (b : Body) (slot a n : Nat) : (b.containerRead slot a n).boot = b.boot :=
  (Body.readPages_keep Body.boot (fun _ _ => rfl) _ a n).trans (Body.tierTraffic_boot _ _ _ _ _ _)

theorem load_containerRead {b : Body} (h : PlainMemory b) (fl : Flight) (a n : Nat) :
    (b.tierTraffic fl.slot a n false 11).load fl a n = (b.bytes a n, false, b.containerRead fl.slot a n) := by
  have hsame := sameMemory_tierTraffic b fl.slot a n false 11
  rw [load_of_plain (hsame.plain h), hsame.bytes.bytes_eq]
  rfl

/-- What a container is verified by: its bytes. -/
theorem verify_congr {b t : Body} (h : SameBytes b t) (fu : Fuses) (kind a : Nat) : t.verify fu kind a = b.verify fu kind a := by
  unfold Body.verify
  simp only [h.bytes_eq]

/-- The slot a container goes to is PENDING. -/
def Body.pendImage (b : Body) (kind slot : Nat) : Body :=
  if kind = 2 then { b with boot.pendFw := some slot } else { b with boot.pendFr := some slot }

theorem pendImage_spec (b : Body) (kind slot : Nat) : (b.pendImage kind slot).memory = b.memory ∧ (b.pendImage kind slot).hm = b.hm ∧
    (b.pendImage kind slot).boot = (if kind = 2 then { b.boot with pendFw := some slot } else { b.boot with pendFr := some slot }) := by
  unfold Body.pendImage
  split <;> exact ⟨rfl, rfl, rfl⟩

section
variable {kind off : Nat} (hkind : kind = if c.b 1 0 = true then 2 else 1) (hoff : off = 32 * c.f 1 37 18) (hd : Dispatched s.body c 0x80 fl)
include hkind hoff hd

omit hkind in
theorem frStage_refused {st : Nat} (hacc : s.body.accessHere fl.slot (c.h 1) off 512 false = .error st) : Gives (.frStage c) s fun t =>
    OnlyEnds s.body t fl st 0 [] ∧ t.boot = s.body.boot := by
  have hi : exec (.frStage c) s = .next { s with body := s.body.fail fl st (c.h 1) off } := by
    change Host.Outcome.next { s with body := s.body.onCmd c 0x80 _ } = _
    rw [Body.onCmd_dispatched hd, ← hoff]
    dsimp only
    rw [hacc]
  exact gives_of_next hi ⟨(SameBut.refl [] s.body).fail fl st _ _, Body.fail_boot _ _ _ _ _⟩

section
variable {e : Entry} {a n k slot : Nat} (hacc : s.body.accessHere fl.slot (c.h 1) off 512 false = .ok e) (ha : a = e.base + off)
  (hn : n = s.body.le (a + 8) 4) (hfits : s.body.accessHere fl.slot (c.h 1) off n false = .ok e) (hplain : PlainMemory s.body)
  (hk : k = s.body.verify s.fuse kind a) (hslot : slot = 1 - if kind = 2 then s.body.boot.activeFw else s.body.boot.activeFr)
include hacc ha hn hfits hplain hk hslot

theorem exec_frStage : exec (.frStage c) s = .next { s with
      body := if k = 8 then (s.body.containerRead fl.slot a n).fail fl 0x11 (c.h 1) off
        else if k ≠ 0 then (s.body.containerRead fl.slot a n).fail fl 0x60 (c.h 1) off
        else (((s.body.containerRead fl.slot a n).setBytes (imageAt kind slot) (s.body.bytes a n)).pendImage kind slot).done fl } := by
  have hverify : (s.body.containerRead fl.slot a n).verify s.fuse kind a = k :=
    (verify_congr (sameMemory_containerRead s.body fl.slot a n).bytes _ _ _).trans hk.symm
  change Host.Outcome.next { s with body := s.body.onCmd c 0x80 _ } = _
  rw [Body.onCmd_dispatched hd, ← hoff, ← hkind]
  dsimp only
  rw [hacc]
  dsimp only
  rw [← ha, ← hn, hfits]
  dsimp only
  rw [load_containerRead hplain fl a n]
  dsimp only
  rw [hverify, boot_containerRead, ← hslot]
  rfl

theorem frStage_stages : Gives (.frStage c) s fun t =>
    if k = 0 then EndsWith s.body t fl 0 0 ∧ t.bytes (imageAt kind slot) n = s.body.bytes a n ∧ SameBytesBut s.body t (imageAt kind slot) n ∧
      t.boot = (if kind = 2 then { s.body.boot with pendFw := some slot } else { s.body.boot with pendFr := some slot })
    else EndsWith s.body t fl (if k = 8 then 0x11 else 0x60) 0 ∧ SameBytes s.body t ∧ t.boot = s.body.boot := by
  have hread := sameMemory_containerRead s.body fl.slot a n
  have hboot := boot_containerRead s.body fl.slot a n
  have hfail : ∀ st, EndsWith s.body ((s.body.containerRead fl.slot a n).fail fl st (c.h 1) off) fl st 0 ∧
      SameBytes s.body ((s.body.containerRead fl.slot a n).fail fl st (c.h 1) off) ∧
      ((s.body.containerRead fl.slot a n).fail fl st (c.h 1) off).boot = s.body.boot := fun st =>
    ⟨Body.endsWith_fail fl st _ _ hread.ended, hread.bytes.trans (sameBytes_of (by simp) (by simp) (by simp)),
      (Body.fail_boot _ _ _ _ _).trans hboot⟩
  refine gives_of_next (exec_frStage hkind hoff hd hacc ha hn hfits hplain hk hslot) ?_
  by_cases h8 : k = 8
  · rw [if_pos h8, if_neg (by omega), if_pos h8]
    exact hfail 0x11
  · rw [if_neg h8]
    by_cases h0 : k = 0
    · rw [if_neg (not_not_intro h0), if_pos h0]
      set x := (s.body.containerRead fl.slot a n).setBytes (imageAt kind slot) (s.body.bytes a n) with hx
      obtain ⟨hmem, hhm, hpend⟩ := pendImage_spec x kind slot
      have hlen : (s.body.bytes a n).length = n := Body.length_bytes _ _ _
      have hdone : SameBytes x ((x.pendImage kind slot).done fl) := SameBytes.done (sameBytes_of_memory hmem) fl 0
      refine ⟨Body.endsWith_done fl 0 ?_, ?_, fun y hy => ?_, ?_⟩
      · rw [hhm, hx, Body.setBytes_hm, hread.ended]
      · have hstored : x.bytes (imageAt kind slot) (s.body.bytes a n).length = s.body.bytes a n :=
          bytes_eq_of_getD fun j hj => Body.byte_setBytes _ _ _ _ hj
        rw [hdone.bytes_eq, ← hlen, hstored, hlen]
      · rw [hdone, hx, Body.byte_setBytes_ne _ _ _ _ (by rw [hlen]; exact hy), hread.bytes]
      · rw [Body.done_boot, hpend, hx, Body.setBytes_boot, hboot]
    · rw [if_pos h0, if_neg h0, if_neg h8]
      exact hfail 0x60

end

end

/-! ### FR_READ (R419) -/

section
variable {data : List Byte} (hdata : data = if c.b 1 0 = true then currentForm s.body.framing else s.body.boot.frBytes)
  (hd : Dispatched s.body c 0x82 fl)
include hdata hd

theorem exec_frRead : exec (.frRead c) s = .next { s with body := s.body.outWrite fl (c.h 1) 0 data } := by
  rw [exec_onCmd hd rfl, hdata]

theorem frRead_refused {st : Nat} (hacc : s.body.accessHere fl.slot (c.h 1) 0 data.length true = .error st) : Gives (.frRead c) s fun t =>
    OnlyEnds s.body t fl st 0 [] := by
  refine gives_of_next (exec_frRead hdata hd) ?_
  rw [outWrite_refused hacc]
  exact (SameBut.refl [] s.body).fail fl st _ _

theorem frRead_writes {e : Entry} (hacc : s.body.accessHere fl.slot (c.h 1) 0 data.length true = .ok e) (hplain : PlainMemory s.body) :
    Gives (.frRead c) s fun t => EndsWith s.body t fl 0 0 ∧ t.bytes e.base data.length = data ∧ SameBytesBut s.body t e.base data.length :=
  gives_of_next (exec_frRead hdata hd) (outWrite_writes hplain hacc)

end

/-! ### SC_ATTEST (R421, R422) -/

theorem ecdsaSign_length {d k : Nat} {z : BitVec 384} {sig : List Byte} (h : ecdsaSign d k z = some sig) : sig.length = 96 := by
  unfold ecdsaSign at h
  split at h
  · cases h
  · dsimp only at h
    split at h
    · cases h
    · rw [← Option.some.inj h, List.length_append, beBytes, beBytes, List.length_reverse, List.length_reverse, length_leBytes, length_leBytes]

theorem report_length (b : Body) (fu : Fuses) (ctx : Nat) {nonce user : List Byte} (hnonce : nonce.length = 32) (huser : user.length = 64)
    (mismatch : Bool) : (b.report fu ctx nonce user mismatch).length = 416 := by
  have hdigest : ∀ d : BitVec 384, (digestBytes d).length = 48 := fun d => by rw [digestBytes, List.length_map, List.length_range]
  unfold Body.report
  simp only [List.length_append, length_leBytes, hdigest, hnonce, huser]

/-- The words of a command as the bytes of a nonce. -/
def nonceOf (c : Cmd) : List Byte := [2, 3, 4, 5].flatMap fun i => leBytes 8 (c.w i).toNat

theorem nonceOf_length (c : Cmd) : (nonceOf c).length = 32 := by
  simp only [nonceOf, List.flatMap_cons, List.flatMap_nil, List.length_append, length_leBytes, List.length_nil]

/-- What a report reads of the state beside its time: nothing of the entropy sources. -/
structure ReportSame (b d : Body) : Prop where
  regs : d.regs = b.regs
  boot : d.boot = b.boot
  framing : d.framing = b.framing
  ts : d.ts = b.ts
  hm : d.hm = b.hm
  memory : SameMemory b d

theorem ReportSame.report {b d : Body} (h : ReportSame b d) (fu : Fuses) (ctx : Nat) (nonce user : List Byte) (mismatch : Bool) :
    d.report fu ctx nonce user mismatch = b.report fu ctx nonce user mismatch := by
  have hget : ∀ r f, d.getF r f = b.getF r f := fun r f => by rw [Body.getF, Body.reg_congr h.regs, Body.getF]
  unfold Body.report Body.reportFlags Body.now
  simp only [hget, h.boot, h.framing, h.ts]

theorem takeWord_same {b d : Body} {k : Nat} {w : BitVec 384} (h : b.takeWord k = some (w, d)) : ReportSame b d := by
  unfold Body.takeWord at h
  dsimp only at h
  split at h
  · obtain ⟨-, rfl⟩ := Prod.mk.inj (Option.some.inj h)
    exact ⟨rfl, rfl, rfl, rfl, rfl, sameMemory_of rfl rfl rfl rfl rfl rfl⟩
  · cases h

theorem ReportSame.trans {b d x : Body} (h : ReportSame b d) (g : ReportSame d x) : ReportSame b x :=
  ⟨g.regs.trans h.regs, g.boot.trans h.boot, g.framing.trans h.framing, g.ts.trans h.ts, g.hm.trans h.hm, h.memory.trans g.memory⟩

theorem freeSecret_same (b : Body) : ReportSame b b.freeSecret.2 :=
  foldl_inv (fun p : Nat × Body => ReportSame b p.2) _ _ _ ⟨rfl, rfl, rfl, rfl, rfl, SameMemory.refl b⟩
    fun _ _ h => h.trans ⟨rfl, rfl, rfl, rfl, rfl, sameMemory_of rfl rfl rfl rfl rfl rfl⟩

theorem mem_waits_awaitEntropy (b : Body) (fl : Flight) : fl.uid ∈ (b.awaitEntropy fl).rnd.waits := by
  unfold Body.awaitEntropy
  split
  · assumption
  · exact List.mem_append_right _ (List.mem_singleton_self _)

/-- A command no longer waits for a Swell word. -/
def Body.unwaited (b : Body) (fl : Flight) : Body := { b with rnd.waits := b.rnd.waits.filter fun u => decide (u ≠ fl.uid) }

theorem unwaited_same (b : Body) (fl : Flight) : ReportSame b (b.unwaited fl) :=
  ⟨rfl, rfl, rfl, rfl, rfl, sameMemory_of rfl rfl rfl rfl rfl rfl⟩

/-- What the signature of a report `x` leads to: nothing, where it cannot be made; else the report with it. -/
def Body.attestOut (b : Body) (fl : Flight) (e : Entry) (sig : Option (List Byte)) (x : List Byte) : Body :=
  match sig with
  | none => b
  | some sig => ((b.tierTraffic fl.slot e.base 512 true 11).store e.base (x ++ sig)).done fl

theorem onFused_dispatched {opc : Nat} (hd : Dispatched s.body c opc fl) (f : Fuses → Body → Flight → Body) :
    (s.onFused fun fu b => b.onCmd c opc (f fu)) = .next { s with body := f s.fuse s.body fl } := by
  rw [State.onFused, Body.onCmd_dispatched hd]

section
variable (hd : Dispatched s.body c 0x83 fl)
include hd

theorem scAttest_refused {st : Nat} (hacc : s.body.accessHere fl.slot (c.h 1) 0 512 true = .error st) : Gives (.scAttest c) s fun t =>
    OnlyEnds s.body t fl st 0 [] := by
  have hi : exec (.scAttest c) s = .next { s with body := s.body.fail fl st (c.h 1) } := by
    change execScAttest c s = _
    unfold execScAttest
    rw [onFused_dispatched hd, hacc]
  exact gives_of_next hi ((SameBut.refl [] s.body).fail fl st _ _)

variable (h6 : c.h 6 = 0) (h7 : c.h 7 = 0) {e : Entry} (hacc : s.body.accessHere fl.slot (c.h 1) 0 512 true = .ok e)
include h6 h7 hacc

theorem scAttest_waits (hword : s.body.takeWord 1 = none) : Gives (.scAttest c) s fun t =>
    t = s.body.awaitEntropy fl ∧ fl.uid ∈ t.rnd.waits := by
  have hi : exec (.scAttest c) s = .next { s with body := s.body.awaitEntropy fl } := by
    change execScAttest c s = _
    unfold execScAttest
    rw [onFused_dispatched hd, hacc, if_pos h6, if_pos h7, hword]
  exact gives_of_next hi ⟨rfl, mem_waits_awaitEntropy _ _⟩

section
variable {w : BitVec 384} {b d : Body} {k : Nat} {x : List Byte} (hword : s.body.takeWord 1 = some (w, b)) (hsecret : b.freeSecret = (k, d))
include hword hsecret

/-- The function that signs is a variable here: the kernel would go into the curve's arithmetic to compare two signatures. -/
theorem exec_scAttest {sign : Nat → Nat → BitVec 384 → Option (List Byte)} (hsign : ecdsaSign = sign)
    (hx : x = (d.unwaited fl).report s.fuse fl.cmd.ctx.toNat (nonceOf c) (List.replicate 64 0) false) : exec (.scAttest c) s = .next { s with
      body := (d.unwaited fl).attestOut fl e (sign Config.identityScalar (1 + k % (curveN - 1)) (sha384 x)) x } := by
  change execScAttest c s = _
  unfold execScAttest
  rw [onFused_dispatched hd, hsign, hx]
  simp only [hacc, h6, h7, hword, hsecret, ne_eq, not_true_eq_false, decide_false, Bool.false_and, Bool.false_eq_true, if_true, if_false]
  rfl

omit hd h6 h7 hacc in
theorem reportSame_attest : ReportSame s.body (d.unwaited fl) := by
  have hd2 : ReportSame b d := by
    have := freeSecret_same b
    rwa [hsecret] at this
  exact ((takeWord_same hword).trans hd2).trans (unwaited_same d fl)

theorem scAttest_reports (hx : x = s.body.report s.fuse fl.cmd.ctx.toNat (nonceOf c) (List.replicate 64 0) false) (hplain : PlainMemory s.body) :
    Gives (.scAttest c) s fun t => match ecdsaSign Config.identityScalar (1 + k % (curveN - 1)) (sha384 x) with
    | some sig => EndsWith s.body t fl 0 0 ∧ t.bytes e.base 416 = x ∧ t.bytes (e.base + 416) 96 = sig ∧ SameBytesBut s.body t e.base 512
    | none => t.hm = s.body.hm ∧ SameBytes s.body t := by
  have hsame := reportSame_attest (fl := fl) hword hsecret
  have hxlen : x.length = 416 := hx ▸ report_length _ _ _ (nonceOf_length c) (List.length_replicate ..) _
  refine gives_of_next (exec_scAttest hd h6 h7 hacc hword hsecret rfl (hx.trans (hsame.report ..).symm)) ?_
  generalize hsig : ecdsaSign Config.identityScalar (1 + k % (curveN - 1)) (sha384 x) = r
  cases r with
  | none => exact ⟨hsame.hm, hsame.memory.bytes⟩
  | some sig =>
    have hslen := ecdsaSign_length hsig
    have hrow := rowStored_output hplain hsame.memory fl e.base 512 11 (x ++ sig)
    dsimp only
    rw [Body.attestOut]
    set y := ((d.unwaited fl).tierTraffic fl.slot e.base 512 true 11).store e.base (x ++ sig)
    have hdone : SameBytes y (y.done fl) := SameBytes.done (fun _ => rfl) fl 0
    have hlen : (x ++ sig).length = 512 := by rw [List.length_append, hxlen, hslen]
    refine ⟨Body.endsWith_done fl 0 hrow.ended, ?_, ?_, fun z hz => ?_⟩
    · have hpart := hrow.bytes_part (o := 0) (l := x) (by rw [hlen]; omega) fun j hj => by
        rw [Nat.zero_add, List.getD_append _ _ _ _ hj]
      rw [hdone.bytes_eq, ← hxlen]
      exact hpart
    · have hpart := hrow.bytes_part (o := 416) (l := sig) (by rw [hlen]; omega) fun j hj => by
        rw [List.getD_append_right _ _ _ _ (by omega), hxlen, Nat.add_sub_cancel_left]
      rw [hdone.bytes_eq, ← hslen]
      exact hpart
    · rw [hdone, hrow.outside z (by rw [hlen]; exact hz)]

end

end

/-! ### SC_COMMIT and SC_OWNER (R410, R425) -/

section
variable {rev : Nat} (hrev : rev = c.f 1 5 2) (hd : Dispatched s.body c 0x84 fl)
include hrev hd

theorem scCommit_refused (hbad : (rev.testBit s.body.boot.fw.signer || decide (s.fuse.revoked ||| rev = 0xF)) = true) :
    Gives (.scCommit c) s fun t => OnlyEnds s.body t fl 0x11 0 [] := by
  have hnone : s.body.commitFuses s.fuse c = none := by
    rw [Bool.or_eq_true, decide_eq_true_eq, hrev] at hbad
    exact if_pos hbad
  have hi : exec (.scCommit c) s = .next { s with body := s.body.fail fl 0x11 } := by
    rw [exec_scCommit, Body.commit, Body.admit_dispatched hd]
    dsimp only
    rw [hnone]
  exact gives_of_next hi ((SameBut.refl [] s.body).fail fl 0x11 0 0)

omit hrev hd in
theorem sameBut_senseFuses (b : Body) (fu : Fuses) :
    SameBut (Reg.scId2.addr :: (List.range 20).map fun k => (Reg.mtHbmMapout k).addr) b (b.senseFuses fu) :=
  ⟨by rw [senseFuses_keep b fu Body.hm fun b _ _ _ => Body.setF_hm b _ _ _],
    sameBytes_of_memory (senseFuses_keep b fu Body.memory fun b _ _ _ => memory_setF b _ _ _), fun q _ hl => by
      rw [List.mem_cons, List.mem_map, not_or] at hl
      obtain ⟨hid, hmap⟩ := hl
      exact reg_senseFuses b fu hid fun i hi he => hmap ⟨i, List.mem_range.mpr hi, he.symm⟩⟩

omit hrev hd in
theorem unnoted_scId2 : Reg.scId2.Unnoted := by constructor <;> simp only [Reg.addr] <;> omega

theorem scCommit_commits (hbad : (rev.testBit s.body.boot.fw.signer || decide (s.fuse.revoked ||| rev = 0xF)) = false) :
    ∃ t, exec (.scCommit c) s = .next t ∧
      t.fuse.revoked = s.fuse.revoked ||| rev ∧ t.fuse.owner = s.fuse.owner ∧ t.fuse.mapout = s.fuse.mapout ∧
      t.fuse.fwSvn = (if c.b 1 0 = true then max s.fuse.fwSvn (min 64 s.body.boot.fw.svn) else s.fuse.fwSvn) ∧
      t.fuse.frSvn = (if c.b 1 1 = true ∧ s.body.boot.frBytes ≠ [] then max s.fuse.frSvn (min 64 s.body.boot.fr.svn) else s.fuse.frSvn) ∧
      OnlyEnds s.body t.body fl 0 0 (Reg.scId2.addr :: (List.range 20).map fun k => (Reg.mtHbmMapout k).addr) ∧
      t.body.getF .scId2 Fld.scId2Revoked = t.fuse.revoked % 2 ^ Fld.scId2Revoked.width ∧
      t.body.getF .scId2 Fld.scId2FwSvn = t.fuse.fwSvn % 2 ^ Fld.scId2FwSvn.width ∧
      t.body.getF .scId2 Fld.scId2FrSvn = t.fuse.frSvn % 2 ^ Fld.scId2FrSvn.width := by
  rw [Bool.or_eq_false_iff, decide_eq_false_iff_not, hrev] at hbad
  obtain ⟨hsigner, hall⟩ := hbad
  obtain ⟨-, hrevoked, hfw, hfr⟩ := senseFuses_scId2 s.body (committed s.body s.fuse c)
  have hdone : ∀ f, ((s.body.senseFuses (committed s.body s.fuse c)).done fl).getF .scId2 f =
      (s.body.senseFuses (committed s.body s.fuse c)).getF .scId2 f := getF_of_reg_eq (unnoted_scId2.done _ fl 0)
  refine ⟨_, exec_scCommit c s, ?_⟩
  rw [commit_of_dispatched hd hsigner hall]
  exact ⟨by rw [hrev]; rfl, rfl, rfl, rfl, rfl, (sameBut_senseFuses _ _).done fl 0, (hdone _).trans hrevoked, (hdone _).trans hfw,
    (hdone _).trans hfr⟩

end

section
variable (hd : Dispatched s.body c 0x85 fl)
include hd

theorem scOwner_refused (howner : s.fuse.owner ≠ none) : Gives (.scOwner c) s fun t => OnlyEnds s.body t fl 0x60 0 [] := by
  have hi : exec (.scOwner c) s = .next { s with body := s.body.fail fl 0x60 } := by
    rw [exec_scOwner, Body.ownerSet, Body.admit_dispatched hd]
    dsimp only
    rw [if_pos (Option.isSome_iff_ne_none.mpr howner)]
  exact gives_of_next hi ((SameBut.refl [] s.body).fail fl 0x60 0 0)

theorem scOwner_blows (howner : s.fuse.owner = none) : ∃ t, exec (.scOwner c) s = .next t ∧
    OnlyEnds s.body t.body fl 0 0 [Reg.scId2.addr] ∧
    t.fuse = { s.fuse with owner := some (BitVec.ofNat 384 (ofBe ([2, 3, 4, 5, 6, 7].flatMap fun i => leBytes 8 (c.w i).toNat))) } ∧
    t.body.getF .scId2 Fld.scId2OwnerSet = 1 := by
  have hset : (s.body.setF .scId2 Fld.scId2OwnerSet 1).getF .scId2 Fld.scId2OwnerSet = 1 := by
    rw [getF_setF_fields _ _ rfl (by simp [Reg.stored]) (by decide), if_pos rfl]
    rfl
  have hisSome : ¬ s.fuse.owner.isSome = true := by rw [howner]; exact Bool.false_ne_true
  refine ⟨_, exec_scOwner c s, ?_⟩
  rw [Body.ownerSet, Body.admit_dispatched hd]
  dsimp only
  rw [if_neg hisSome]
  exact ⟨((SameBut.refl _ s.body).setF (List.mem_singleton_self _) _ _).done fl 0, rfl,
    (getF_of_reg_eq (unnoted_scId2.done _ fl 0) _).trans hset⟩

end

end

end Sys2Proof.Machine
end

section
/-! PROOFS. Live framing fields (R83, R406, R418): the registers that a live field feeds, and FR_LIVE. -/

namespace Sys2Proof.Machine

/-! ### Framing values -/

theorem frGet_frSet_self (fr : SMap Nat) (id idx v : Nat) : frGet (frSet fr id idx v) id idx = v := SMap.get_set_self ..

theorem frGet_frSet_ne (fr : SMap Nat) {id i idx k : Nat} (h : frKey i k ≠ frKey id idx) (v : Nat) :
    frGet (frSet fr id idx v) i k = frGet fr i k := SMap.get_set_ne _ _ _ _ h

/-! ### Feeding registers -/

/-- Register fields that may be fed one after another: of registers and fields that stand, different registers at different addresses. -/
structure FeedList (l : List (Reg × Fld)) : Prop where
  fed : ∀ p ∈ l, p.1.ok = true ∧ p.1.stored ∧ p.1.Unnoted ∧ p.2 ∈ p.1.fields
  apart : ∀ p ∈ l, ∀ q ∈ l, p.1 = q.1 ∨ p.1.addr ≠ q.1.addr

/-- One register field takes its framing value. -/
def Body.feedOne (b : Body) (p : Reg × Fld) : Body := (b.setF p.1 p.2 (fiValue b.framing p.1 p.2)).notePower p.1

theorem notePower_keep {γ : Type} (f : Body → γ) (h : ∀ (b : Body) l, f { b with st.powerPend := l } = f b) (b : Body) (r : Reg) :
    f (b.notePower r) = f b := by
  unfold Body.notePower
  split
  · exact h _ _
  · exact h _ _
  · rfl

theorem framing_feedOne (b : Body) (p : Reg × Fld) : (b.feedOne p).framing = b.framing :=
  (notePower_keep Body.framing (fun _ _ => rfl) _ _).trans (Body.setF_framing ..)

theorem getF_feedOne {l : List (Reg × Fld)} (h : FeedList l) {p q : Reg × Fld} (hp : p ∈ l) (hq : q ∈ l) (b : Body) :
    (b.feedOne p).getF q.1 q.2 = if q = p then fiValue b.framing p.1 p.2 % 2 ^ p.2.width else b.getF q.1 q.2 := by
  obtain ⟨r, f⟩ := p
  obtain ⟨q, g⟩ := q
  obtain ⟨hok, hst, -, hf⟩ := h.fed _ hp
  obtain ⟨-, -, -, hg⟩ := h.fed _ hq
  rw [Body.feedOne, getF_of_reg_eq (notePower_keep (fun b : Body => b.reg q) (fun _ _ => rfl) _ _)]
  obtain rfl | hne := h.apart _ hq _ hp
  · obtain ⟨hpair, hin⟩ := q.fields_apart
    have hfg : g = f ∨ g.hi < f.lo ∨ f.hi < g.lo := by
      have hsymm : Std.Symm fun f g : Fld => f.hi < g.lo ∨ g.hi < f.lo := ⟨fun _ _ h => h.symm⟩
      exact or_iff_not_imp_left.2 fun hne => hpair.forall hg hf hne
    rw [getF_setF_fields _ _ hok hst ⟨(hin f hf).1, (hin f hf).2, (hin g hg).1, hfg⟩]
    simp only [Prod.mk.injEq, true_and]
  · have hqr : (q, g) ≠ (r, f) := fun he => hne (by rw [(Prod.mk.inj he).1])
    rw [if_neg hqr]
    exact getF_of_reg_eq (Body.reg_setF_ne _ _ _ hne) g

theorem getF_foldl_feedOne {l m : List (Reg × Fld)} (h : FeedList l) (hm : m ⊆ l) {q : Reg × Fld} (hq : q ∈ l) (b : Body) :
    (m.foldl Body.feedOne b).getF q.1 q.2 = if q ∈ m then fiValue b.framing q.1 q.2 % 2 ^ q.2.width else b.getF q.1 q.2 := by
  induction m generalizing b with
  | nil => rfl
  | cons p m ih =>
    obtain ⟨hp, hm⟩ := List.cons_subset.1 hm
    rw [List.foldl_cons, ih hm, framing_feedOne, getF_feedOne h hp hq]
    by_cases hqm : q ∈ m
    · rw [if_pos hqm, if_pos (List.mem_cons_of_mem _ hqm)]
    · rw [if_neg hqm]
      by_cases hqp : q = p
      · rw [if_pos hqp, if_pos (hqp ▸ List.mem_cons_self), hqp]
      · rw [if_neg hqp, if_neg fun hmem => (List.mem_cons.1 hmem).elim hqp hqm]

theorem foldl_feedOne_keeps (m : List (Reg × Fld)) (b : Body) :
    (m.foldl Body.feedOne b).framing = b.framing ∧ (m.foldl Body.feedOne b).hm = b.hm ∧ (m.foldl Body.feedOne b).memory = b.memory :=
  ⟨foldl_keep Body.framing _ _ _ framing_feedOne,
    foldl_keep Body.hm _ _ _ fun _ _ => (notePower_keep Body.hm (fun _ _ => rfl) _ _).trans (Body.setF_hm ..),
    foldl_keep Body.memory _ _ _ fun _ _ => (notePower_keep Body.memory (fun _ _ => rfl) _ _).trans (memory_setF ..)⟩

/-! ### What each live field feeds -/

theorem feedList_nil : FeedList [] := ⟨fun _ h => absurd h List.not_mem_nil, fun _ h => absurd h List.not_mem_nil⟩

theorem feedList_of_one {r : Reg} {l : List (Reg × Fld)} (hok : r.ok = true) (hst : r.stored) (hun : r.Unnoted)
    (hl : ∀ p ∈ l, p.1 = r ∧ p.2 ∈ r.fields) : FeedList l :=
  ⟨fun p hp => by
    obtain ⟨he, hf⟩ := hl p hp
    rw [he]
    exact ⟨hok, hst, hun, hf⟩, fun p hp q hq => .inl ((hl p hp).1.trans (hl q hq).1.symm)⟩

theorem feedList_map {r : Nat → Reg} {n : Nat} {fs : List Fld} {l : List (Reg × Fld)} (hok : ∀ g < n, (r g).ok = true) (hst : ∀ g, (r g).stored)
    (hun : ∀ g < n, (r g).Unnoted) (hinj : ∀ g h, (r g).addr = (r h).addr → g = h) (hf : ∀ g, ∀ f ∈ fs, f ∈ (r g).fields)
    (hl : ∀ p ∈ l, ∃ g < n, p.1 = r g ∧ p.2 ∈ fs) : FeedList l := by
  refine ⟨fun p hp => ?_, fun p hp q hq => ?_⟩
  · obtain ⟨g, hg, he, hfs⟩ := hl p hp
    rw [he]
    exact ⟨hok g hg, hst g, hun g hg, hf g _ hfs⟩
  · obtain ⟨g, -, hpg, -⟩ := hl p hp
    obtain ⟨k, -, hqk, -⟩ := hl q hq
    rw [hpg, hqk]
    by_cases hgk : g = k
    · exact .inl (congrArg r hgk)
    · exact .inr fun ha => hgk (hinj g k ha)

theorem mem_quaysOf_lt {fr : SMap Nat} {p q : Nat} (h : q ∈ quaysOf fr p) : q < 10 := List.mem_range.1 (List.mem_filter.1 h).1

theorem mem_berths_lt {fr : SMap Nat} {p g : Nat} (h : g ∈ (quaysOf fr p).flatMap fun q => (List.range 20).map (20 * q + ·)) : g < 200 := by
  obtain ⟨q, hq, hg⟩ := List.mem_flatMap.1 h
  obtain ⟨k, hk, rfl⟩ := List.mem_map.1 hg
  have := mem_quaysOf_lt hq
  have := List.mem_range.1 hk
  omega

theorem feedList_ramp {l : List (Reg × Fld)} (hl : ∀ p ∈ l, ∃ g < 200, p.1 = .brRampCtl g ∧ p.2 ∈ (Reg.brRampCtl 0).fields) : FeedList l :=
  feedList_map (r := Reg.brRampCtl) (fun _ hg => decide_eq_true hg) (fun _ => by simp [Reg.stored])
    (fun _ _ => by constructor <;> simp only [Reg.addr] <;> omega) (fun _ _ h => by simp only [Reg.addr] at h; omega) (fun _ _ hf => hf) hl

/-- The fields of a list that is mapped from numbers in range. -/
theorem mem_map_feeds {ks : List Nat} {n : Nat} {r : Nat → Reg} {f : Fld} {fs : List Fld} (hks : ∀ k ∈ ks, k < n) (hf : f ∈ fs) :
    ∀ p ∈ ks.map fun g => (r g, f), ∃ g < n, p.1 = r g ∧ p.2 ∈ fs := fun p hp => by
  obtain ⟨g, hg, rfl⟩ := List.mem_map.1 hp
  exact ⟨g, hks g hg, rfl, hf⟩

theorem feedList_rampField (fr : SMap Nat) (idx : Nat) {f : Fld} (hf : f ∈ (Reg.brRampCtl 0).fields) :
    FeedList (((quaysOf fr idx).flatMap fun q => (List.range 20).map (20 * q + ·)).map fun g => (.brRampCtl g, f)) :=
  feedList_ramp (mem_map_feeds (fun _ h => mem_berths_lt h) hf)

theorem feedList_frFeeds (fr : SMap Nat) {id idx : Nat} (hidx : idx < frCount id) : FeedList (frFeeds fr id idx) := by
  have hmpl : Reg.wtMpl.Unnoted := by constructor <;> simp only [Reg.addr] <;> omega
  have hptp : Reg.epPtpCfg.Unnoted := by constructor <;> simp only [Reg.addr] <;> omega
  have hvc : Reg.bwVcCfg.Unnoted := by constructor <;> simp only [Reg.addr] <;> omega
  have hstored : Reg.wtMpl.stored ∧ Reg.epPtpCfg.stored ∧ Reg.bwVcCfg.stored := by simp [Reg.stored]
  obtain ⟨hsmpl, hsptp, hsvc⟩ := hstored
  have hsingle : ∀ {r : Reg} {f : Fld}, r.ok = true → r.stored → r.Unnoted → f ∈ r.fields → FeedList [(r, f)] := fun hok hst hun hf =>
    feedList_of_one hok hst hun fun p hp => by rw [List.mem_singleton.1 hp]; exact ⟨rfl, hf⟩
  unfold frFeeds
  dsimp only
  split
  · exact hsingle rfl hsmpl hmpl (by simp [Reg.fields])
  · exact hsingle rfl hsmpl hmpl (by simp [Reg.fields])
  · exact hsingle rfl hsptp hptp (by simp [Reg.fields])
  · exact hsingle rfl hsptp hptp (by simp [Reg.fields])
  · exact hsingle rfl hsptp hptp (by simp [Reg.fields])
  · refine feedList_of_one (r := .bwVcCfg) rfl hsvc hvc fun p hp => ?_
    obtain ⟨f, hf, hp⟩ := List.mem_filterMap.1 hp
    split at hp
    · cases hp
    · rw [← Option.some.inj hp]
      exact ⟨rfl, hf⟩
  · exact hsingle rfl hsvc hvc (by simp [Reg.fields])
  · have hlt : idx < 36 := hidx
    exact hsingle (decide_eq_true hlt) (by simp [Reg.stored]) (by constructor <;> simp only [Reg.addr] <;> omega) (by simp [Reg.fields])
  · exact feedList_map (r := Reg.brHoldPwr) (fun _ hg => decide_eq_true hg) (fun _ => by simp [Reg.stored])
      (fun _ _ => by constructor <;> simp only [Reg.addr] <;> omega) (fun _ _ h => by simp only [Reg.addr] at h; omega) (fun _ _ hf => hf)
      (mem_map_feeds (fun _ h => mem_berths_lt h) (fs := (Reg.brHoldPwr 0).fields) (by simp [Reg.fields]))
  · exact feedList_map (r := Reg.qyShedPwr) (fun _ hg => decide_eq_true hg) (fun _ => by simp [Reg.stored])
      (fun _ _ => by constructor <;> simp only [Reg.addr] <;> omega) (fun _ _ h => by simp only [Reg.addr] at h; omega) (fun _ _ hf => hf)
      (mem_map_feeds (fun _ h => mem_quaysOf_lt h) (fs := (Reg.qyShedPwr 0).fields) (by simp [Reg.fields]))
  · exact feedList_rampField fr idx (by simp [Reg.fields])
  · exact feedList_rampField fr idx (by simp [Reg.fields])
  · exact feedList_rampField fr idx (by simp [Reg.fields])
  · exact feedList_rampField fr idx (by simp [Reg.fields])
  · exact feedList_map (r := Reg.qyStagger) (fun _ hg => decide_eq_true hg) (fun _ => by simp [Reg.stored])
      (fun _ _ => by constructor <;> simp only [Reg.addr] <;> omega) (fun _ _ h => by simp only [Reg.addr] at h; omega) (fun _ _ hf => hf)
      (mem_map_feeds (fun _ h => mem_quaysOf_lt h) (fs := (Reg.qyStagger 0).fields) (by simp [Reg.fields]))
  · have hlt : idx < 10 := hidx
    exact hsingle (decide_eq_true hlt) (by simp [Reg.stored]) (by constructor <;> simp only [Reg.addr] <;> omega) (by simp [Reg.fields])
  · exact feedList_nil

theorem feedList_rampBoth (fr : SMap Nat) (idx : Nat) : FeedList (frFeeds fr 0x050 idx ++ frFeeds fr 0x051 idx) :=
  feedList_ramp fun p hp => by
    obtain hp | hp := List.mem_append.1 hp
    · exact mem_map_feeds (fun _ h => mem_berths_lt h) (by simp [Reg.fields]) p hp
    · exact mem_map_feeds (fun _ h => mem_berths_lt h) (by simp [Reg.fields]) p hp

/-! ### FR_LIVE -/

/-- The framing that FR_LIVE leaves. -/
def Body.liveFraming (b : Body) (id idx v : Nat) (rate : Nat → Nat) : SMap Nat :=
  let fr := (b.applyFr id idx v rate).1.framing
  if id = 0x050 then ({ b with framing := fr }.applyFr 0x051 idx (frGet fr 0x051 idx) fun _ => 1).1.framing else fr

/-- The registers that FR_LIVE feeds take their values. -/
def Body.liveFed (b : Body) (id idx : Nat) : Body :=
  if id = 0x050 ∨ id = 0x051 then (b.feed 0x050 idx).feed 0x051 idx else b.feed id idx

theorem applyFr_fst (b : Body) (id idx v : Nat) (rate : Nat → Nat) :
    (b.applyFr id idx v rate).1 = { b with framing := (b.applyFr id idx v rate).1.framing } := by
  unfold Body.applyFr
  split <;> rfl

theorem liveFraming_of_ne (b : Body) {id : Nat} (h0 : id ≠ 0x050) (h1 : id ≠ 0x051) (idx v : Nat) (rate : Nat → Nat) :
    b.liveFraming id idx v rate = frSet b.framing id idx (b.clampFr id idx v rate) := by
  rw [Body.liveFraming, if_neg h0, Body.applyFr, if_neg h1]

theorem framing_applyFr_ramp (b : Body) (idx v : Nat) (rate : Nat → Nat) {p : Nat × Nat}
    (hp : p = rampClamp (frGet b.framing 0x00C) (frGet b.framing 0x050 idx) v) :
    frGet (b.applyFr 0x051 idx v rate).1.framing 0x050 idx = p.1 ∧ frGet (b.applyFr 0x051 idx v rate).1.framing 0x051 idx = p.2 := by
  have hne : frKey 0x050 idx ≠ frKey 0x051 idx := by unfold frKey; omega
  rw [Body.applyFr, if_pos rfl, hp]
  dsimp only
  exact ⟨by rw [frGet_frSet_ne _ hne, frGet_frSet_self], frGet_frSet_self _ _ _ _⟩

theorem liveFraming_ramp (b : Body) {id idx v new : Nat} {rate : Nat → Nat} (hlt : idx < 256) (hnew : new = b.clampFr id idx v rate)
    (hid : id = 0x050 ∨ id = 0x051) {p : Nat × Nat} (hp : p = rampClamp (frGet b.framing 0x00C) (if id = 0x050 then new else frGet b.framing 0x050 idx)
      (if id = 0x051 then v else frGet b.framing 0x051 idx)) :
    frGet (b.liveFraming id idx v rate) 0x050 idx = p.1 ∧ frGet (b.liveFraming id idx v rate) 0x051 idx = p.2 := by
  obtain rfl | rfl := hid
  · have hfloor : frKey 0x00C 0 ≠ frKey 0x050 idx := by unfold frKey; omega
    have hcyc : frKey 0x051 idx ≠ frKey 0x050 idx := by unfold frKey; omega
    have hfr : (b.applyFr 0x050 idx v rate).1.framing = frSet b.framing 0x050 idx new := by rw [Body.applyFr, if_neg (by omega), hnew]
    rw [Body.liveFraming, if_pos rfl, hfr]
    refine framing_applyFr_ramp _ _ _ _ (hp.trans ?_)
    dsimp only
    rw [frGet_frSet_ne _ hfloor, frGet_frSet_self, frGet_frSet_ne _ hcyc, if_pos rfl, if_neg (by omega)]
  · rw [Body.liveFraming, if_neg (by omega)]
    refine framing_applyFr_ramp _ _ _ _ (hp.trans ?_)
    rw [if_neg (by omega), if_pos rfl]

theorem liveOk_iff {b : Body} {id idx : Nat} (h : b.liveOk id idx = true) : id ∈ frLive ∧ idx < frCount id := by
  rw [Body.liveOk, Bool.and_eq_true, decide_eq_true_eq] at h
  exact h.1

/-- What FR_LIVE feeds beside a Sluice. -/
def liveFeeds (fr : SMap Nat) (id idx : Nat) : List (Reg × Fld) :=
  if id = 0x050 ∨ id = 0x051 then frFeeds fr 0x050 idx ++ frFeeds fr 0x051 idx else frFeeds fr id idx

theorem feed_eq {id : Nat} (h : id < 0x048 ∨ 0x04A < id) (b : Body) (idx : Nat) : b.feed id idx = (frFeeds b.framing id idx).foldl Body.feedOne b := by
  rw [Body.feed, if_neg (by omega)]
  rfl

theorem liveFed_eq {id : Nat} (h : id < 0x048 ∨ 0x04A < id) (b : Body) (idx : Nat) :
    b.liveFed id idx = (liveFeeds b.framing id idx).foldl Body.feedOne b := by
  unfold Body.liveFed liveFeeds
  split
  · rw [feed_eq (by omega), feed_eq (by omega), (foldl_feedOne_keeps _ b).1, List.foldl_append]
  · rw [feed_eq h]

theorem liveFed_sluice {id : Nat} (hlo : 0x048 ≤ id) (hhi : id ≤ 0x04A) (b : Body) (idx : Nat) :
    b.liveFed id idx = b.slPut idx (id - 0x048) (frGet b.framing id idx % 65536) (frGet b.framing id idx / 65536) := by
  rw [Body.liveFed, if_neg (by omega), Body.feed, if_pos ⟨hlo, hhi⟩]

theorem liveFed_keeps (b : Body) (id idx : Nat) :
    (b.liveFed id idx).framing = b.framing ∧ (b.liveFed id idx).hm = b.hm ∧ (b.liveFed id idx).memory = b.memory := by
  by_cases h : id < 0x048 ∨ 0x04A < id
  · rw [liveFed_eq h]
    exact foldl_feedOne_keeps _ b
  · rw [liveFed_sluice (by omega) (by omega), Body.slPut]
    exact ⟨by simp, by simp, (memory_setF ..).trans (memory_setF ..)⟩

theorem feedList_liveFeeds (fr : SMap Nat) {id idx : Nat} (hidx : idx < frCount id) :
    FeedList (liveFeeds fr id idx) ∧ frFeeds fr id idx ⊆ liveFeeds fr id idx := by
  unfold liveFeeds
  split
  · next h =>
    refine ⟨feedList_rampBoth fr idx, ?_⟩
    obtain rfl | rfl := h
    · exact List.subset_append_left _ _
    · exact List.subset_append_right _ _
  · exact ⟨feedList_frFeeds fr hidx, List.Subset.refl _⟩

theorem getF_liveFed (b : Body) {id idx : Nat} (h : id < 0x048 ∨ 0x04A < id) (hidx : idx < frCount id) {p : Reg × Fld}
    (hp : p ∈ frFeeds b.framing id idx) : p.1.Unnoted ∧ (b.liveFed id idx).getF p.1 p.2 = fiValue b.framing p.1 p.2 % 2 ^ p.2.width := by
  obtain ⟨hlist, hsub⟩ := feedList_liveFeeds b.framing hidx
  obtain ⟨-, -, hun, -⟩ := hlist.fed p (hsub hp)
  rw [liveFed_eq h, getF_foldl_feedOne hlist (List.Subset.refl _) (hsub hp), if_pos (hsub hp)]
  exact ⟨hun, rfl⟩

/-- A live value of a Sluice is a RATE and a BURST, each of 16 bits. -/
theorem clampFr_sluice (b : Body) {id : Nat} (hlo : 0x048 ≤ id) (hhi : id ≤ 0x04A) (idx v : Nat) (rate : Nat → Nat) :
    b.clampFr id idx v rate / 65536 < 2 ^ 16 := by
  have hform : b.clampFr id idx v rate = b.slFit idx (id - 0x048) (v % 65536) rate + max 1 (v / 65536 % 65536) * 65536 := by
    obtain rfl | rfl | rfl : id = 0x048 ∨ id = 0x049 ∨ id = 0x04A := by omega
    · rfl
    · rfl
    · rfl
  have hfit : b.slFit idx (id - 0x048) (v % 65536) rate < 2 ^ 16 := by unfold Body.slFit; omega
  rw [hform]
  omega

section
variable {s : State} {c : Cmd} {fl : Flight} {id idx v : Nat} {rate : Nat → Nat} (hid : id = c.f 1 15 0) (hidx : idx = c.f 1 31 16)
  (hv : v = (c.w 2).toNat) (hd : Dispatched s.body c 0x81 fl) (hrate : rate = fun j => s.body.getF (.slCfg j (id - 0x048)) Fld.slCfgRate)
include hid hidx hd

theorem frLive_refused (hok : s.body.liveOk id idx = false) : Gives (.frLive c) s fun t =>
    OnlyEnds s.body t fl 0x11 0 [] ∧ t.framing = s.body.framing := by
  have hi : exec (.frLive c) s = .next { s with body := s.body.fail fl 0x11 id idx } := by
    rw [exec_onCmd hd rfl, ← hid, ← hidx]
    dsimp only
    rw [if_pos (by rw [hok]; exact Bool.false_ne_true)]
  exact gives_of_next hi ⟨(SameBut.refl [] s.body).fail fl _ _ _, Body.fail_framing _ _ _ _ _⟩

include hv hrate

theorem exec_frLive (hok : s.body.liveOk id idx = true) : ∃ n, exec (.frLive c) s = .next { s with
      body := ((({ s.body with framing := s.body.liveFraming id idx v rate } : Body).clampCmd fl n).liveFed id idx).done fl } := by
  rw [exec_onCmd hd rfl, ← hid, ← hidx, ← hv]
  dsimp only
  rw [← hrate, if_neg (not_not_intro hok), Body.liveFraming]
  by_cases h0 : id = 0x050
  · rw [if_pos h0, if_pos h0, applyFr_fst]
    rw [applyFr_fst]
    exact ⟨_, rfl⟩
  · rw [if_neg h0, if_neg h0]
    rw [applyFr_fst]
    exact ⟨_, rfl⟩

theorem frLive_sets (hok : s.body.liveOk id idx = true) {new : Nat} {fr : SMap Nat} (hfr : fr = s.body.framing)
    (hnew : new = s.body.clampFr id idx v rate) : Gives (.frLive c) s fun t => EndsWith s.body t fl 0 0 ∧ SameBytes s.body t ∧
      (id ≠ 0x050 → id ≠ 0x051 → t.framing = frSet fr id idx new) ∧
      (∀ p, p = rampClamp (frGet fr 0x00C) (if id = 0x050 then new else frGet fr 0x050 idx) (if id = 0x051 then v else frGet fr 0x051 idx) →
        id = 0x050 ∨ id = 0x051 → frGet t.framing 0x050 idx = p.1 ∧ frGet t.framing 0x051 idx = p.2) ∧
      (0x048 ≤ id → id ≤ 0x04A → t.getF (.slCfg idx (id - 0x048)) Fld.slCfgRate = new % 65536 ∧
        t.getF (.slCfg idx (id - 0x048)) Fld.slCfgBurst = new / 65536 % 65536) ∧
      (id < 0x048 ∨ 0x04A < id → ∀ p ∈ frFeeds t.framing id idx, t.getF p.1 p.2 = fiValue t.framing p.1 p.2 % 2 ^ p.2.width) := by
  obtain ⟨n, hi⟩ := exec_frLive hid hidx hv hd hrate hok
  obtain ⟨hlive, hcount⟩ := liveOk_iff hok
  refine gives_of_next hi ?_
  set b := ({ s.body with framing := s.body.liveFraming id idx v rate } : Body).clampCmd fl n with hb
  obtain ⟨hframing, hhm, hmem⟩ := liveFed_keeps b id idx
  have hbfr : b.framing = s.body.liveFraming id idx v rate := Body.clampCmd_framing ..
  have hbsame : SameBut [] s.body b := 
    ((SameBut.refl [] s.body).beside (d := { s.body with framing := s.body.liveFraming id idx v rate }) rfl rfl rfl rfl rfl).clampCmd fl n
  have htfr : ((b.liveFed id idx).done fl).framing = s.body.liveFraming id idx v rate := (Body.done_framing ..).trans (hframing.trans hbfr)
  rw [htfr]
  refine ⟨Body.endsWith_done fl 0 (by rw [hhm, hbsame.ended]), hbsame.bytes.trans (SameBytes.done (sameBytes_of_memory hmem) fl 0),
    fun h0 h1 => ?_, fun p hp hramp => ?_, fun hlo hhi => ?_, fun hout p hp => ?_⟩
  · rw [liveFraming_of_ne _ h0 h1, hfr, hnew]
  · have hlt : idx < 256 := by
      obtain rfl | rfl := hramp
      · exact lt_of_lt_of_le hcount (by decide)
      · exact lt_of_lt_of_le hcount (by decide)
    exact liveFraming_ramp s.body hlt hnew hramp (hfr ▸ hp)
  · have hlt : idx < 11 := by
      obtain rfl | rfl | rfl : id = 0x048 ∨ id = 0x049 ∨ id = 0x04A := by omega
      · exact hcount
      · exact hcount
      · exact hcount
    have hval : frGet b.framing id idx = new := by
      rw [hbfr, liveFraming_of_ne _ (by omega) (by omega), frGet_frSet_self, hnew]
    have hburst : new / 65536 < 2 ^ 16 := hnew ▸ clampFr_sluice s.body hlo hhi idx v rate
    have hun := unnoted_slCfg hlt (show id - 0x048 < 3 by omega)
    obtain ⟨-, hr, hbu, -⟩ := slPut_spec hlt (show id - 0x048 < 3 by omega) b (rate := new % 65536) (Nat.mod_lt _ (by omega)) hburst
    rw [getF_of_reg_eq (hun.done _ fl 0), getF_of_reg_eq (hun.done _ fl 0), liveFed_sluice hlo hhi, hval, hr, hbu]
    exact ⟨rfl, (Nat.mod_eq_of_lt hburst).symm⟩
  · rw [← hbfr] at hp ⊢
    obtain ⟨hun, hget⟩ := getF_liveFed b hout hcount hp
    rw [getF_of_reg_eq (hun.done _ fl 0), hget]

end

end Sys2Proof.Machine
end

section
/-! PROOFS. Debug levels (R423, R424): challenges, tokens, and what clears levels and failures; and the framing and security commands. -/

namespace Sys2Proof.Machine

/-! ### SC_DEBUG_STAT and what SC_DEBUG reads -/

theorem getF_setF_scDebugStat (b : Body) (v : Nat) {f g : Fld} (h : f.lo ≤ f.hi ∧ f.hi < 64 ∧ g.lo ≤ g.hi ∧ (g = f ∨ g.hi < f.lo ∨ f.hi < g.lo)) :
    (b.setF .scDebugStat f v).getF .scDebugStat g = if g = f then v % 2 ^ f.width else b.getF .scDebugStat g :=
  getF_setF_fields b v rfl scDebugStat_stored h

theorem besideRow_scDebugStat : Reg.BesideRow .scDebugStat := by constructor <;> simp only [Reg.addr] <;> omega

theorem unnoted_rpSwellStat {k : Nat} (hk : k < 2) : (Reg.rpSwellStat k).Unnoted := by constructor <;> simp only [Reg.addr] <;> omega

theorem Reg.Unnoted.failWith {q : Reg} (h : q.Unnoted) (b : Body) (fl : Flight) (st code sev kind unit : Nat) (d : List Nat) :
    (b.failWith fl st code sev kind unit d).reg q = b.reg q := by
  rw [Body.failWith, h.retire, h.raise]

/-- A field of SC_DEBUG_STAT that the levels' change leaves. -/
theorem reg_levelCheck (b : Body) : b.levelCheck.reg .scDebugStat = b.reg .scDebugStat := by
  unfold Body.levelCheck
  split
  · rw [Body.stepClear, Body.reg_setF_ne _ _ _ (by decide), Body.reg_setF_ne _ _ _ (by decide)]
  · rfl

theorem getF_setLevels (b : Body) (v : Nat) {g : Fld} (h : g.lo ≤ g.hi ∧ (g = Fld.scDebugStatLevels ∨ g.hi < Fld.scDebugStatLevels.lo ∨ Fld.scDebugStatLevels.hi < g.lo)) :
    (b.setLevels v).getF .scDebugStat g = if g = Fld.scDebugStatLevels then v % 2 ^ Fld.scDebugStatLevels.width else b.getF .scDebugStat g := by
  rw [Body.setLevels, getF_of_reg_eq (reg_levelCheck _), getF_setF_scDebugStat _ _ ⟨by decide, by decide, h⟩]

theorem setLevels_keep {γ : Type} (p : Body → γ) (hset : ∀ (b : Body) r f v, p (b.setF r f v) = p b) (b : Body) (v : Nat) :
    p (b.setLevels v) = p b := by
  unfold Body.setLevels Body.levelCheck
  split
  · rw [Body.stepClear, hset, hset, hset]
  · rw [hset]

theorem sameBut_setLevels (b : Body) (v : Nat) : SameBut [Reg.scDebugStat.addr, Reg.hmStepStat.addr] b (b.setLevels v) := by
  have hset := (SameBut.refl [Reg.scDebugStat.addr, Reg.hmStepStat.addr] b).setF (List.mem_cons_self ..) Fld.scDebugStatLevels v
  have hin : Reg.hmStepStat.addr ∈ [Reg.scDebugStat.addr, Reg.hmStepStat.addr] := List.mem_cons_of_mem _ (List.mem_singleton_self _)
  unfold Body.setLevels Body.levelCheck
  split
  · exact (hset.setF hin _ _).setF hin _ _
  · exact hset

/-! ### SC_DEBUG CHALLENGE -/

section
variable {s : State} {c : Cmd} {fl : Flight}

theorem exec_onDebug {i : Instr} {op : Nat} {f : Body → Flight → Body} (hd : Dispatched s.body c 0x86 fl) (hop : min 2 (c.f 1 1 0) = op)
    (hi : exec i s = s.onBody fun b => b.onDebug c op f) :
    exec i s = .next { s with body := f (s.body.clampCmd fl (if c.f 1 1 0 = 3 then 1 else 0)) fl } :=
  exec_onSub hd (decide_eq_true hop) hi

theorem awaitEntropy_keep {γ : Type} (p : Body → γ) (h : ∀ (b : Body) l, p { b with rnd.waits := l } = p b) (b : Body) (fl : Flight) :
    p (b.awaitEntropy fl) = p b := by
  unfold Body.awaitEntropy
  split
  · rfl
  · exact h _ _

theorem takeWord_clampCmd (b : Body) (fl : Flight) (n : Nat) :
    (b.takeWord 1 = none → (b.clampCmd fl n).takeWord 1 = none) ∧
      ∀ w d, b.takeWord 1 = some (w, d) → ∃ e, (b.clampCmd fl n).takeWord 1 = some (w, e) ∧ e.unlock = b.unlock ∧ e.ts = b.ts ∧
        e.hm.ended = b.hm.ended ∧ SameMemory b e := by
  have hsource : (b.clampCmd fl n).sourceFor 1 = b.sourceFor 1 := by
    rw [Body.sourceFor, Body.swellState, getF_of_reg_eq ((unnoted_rpSwellStat (by omega)).clampCmd _ _ _), Body.sourceFor, Body.swellState]
  have hswell : (b.clampCmd fl n).swell (b.sourceFor 1) = b.swell (b.sourceFor 1) := by rw [Body.swell, Body.clampCmd_rnd, Body.swell]
  have hend : (b.clampCmd fl n).hm.ended = b.hm.ended := ((SameBut.refl [] b).clampCmd fl n).ended
  unfold Body.takeWord
  rw [hsource]
  dsimp only
  rw [hswell]
  cases (b.swell (b.sourceFor 1)).word with
  | none => exact ⟨fun _ => rfl, fun _ _ h => nomatch h⟩
  | some x =>
    refine ⟨fun h => (nomatch h), fun w d h => ?_⟩
    obtain ⟨rfl, -⟩ := Prod.mk.inj (Option.some.inj h)
    exact ⟨_, rfl, Body.clampCmd_unlock _ _ _, Body.clampCmd_ts _ _ _, hend,
      (sameMemory_clampCmd b fl n).trans (sameMemory_of rfl rfl rfl rfl rfl rfl)⟩

theorem unlock_store (b : Body) (a : Nat) (row : List Byte) : (b.store a row).unlock = b.unlock :=
  store_keep_apart Body.unlock (fun _ _ => rfl) (fun _ _ => rfl) (fun b _ => Body.bump_unlock b _ _ _) (fun b _ _ => Body.setF_unlock b _ _ _)
    (fun b _ _ _ _ _ => Body.err_unlock b _ _ _ _ _ _ _) b a row

/-- The challenge a Swell word gives, drawn for a command. -/
def Body.challenged (b : Body) (fl : Flight) (w : BitVec 384) : Body :=
  { b with
    rnd.waits := b.rnd.waits.filter (fun u => decide (u ≠ fl.uid)), unlock.challenge := some (Config.seedOf w), unlock.challengeAt := b.ts }

section
variable (hd : Dispatched s.body c 0x86 fl) (hop : c.f 1 1 0 = 0)
include hd hop

theorem scDebugChallenge_refused {st : Nat} (hacc : s.body.accessHere fl.slot (c.h 2) 0 48 true = .error st) :
    Gives (.scDebugChallenge c) s fun t => OnlyEnds s.body t fl st 0 [] ∧ t.unlock = s.body.unlock := by
  have hi := exec_onDebug hd (by omega) (show exec (.scDebugChallenge c) s = _ from rfl)
  refine gives_of_next hi ?_
  rw [(sameChecks_clampCmd s.body fl _).accessHere, hacc]
  exact ⟨((SameBut.refl [] s.body).clampCmd fl _).fail fl st _ _, by simp⟩

variable {e : Entry} (hacc : s.body.accessHere fl.slot (c.h 2) 0 48 true = .ok e)
include hacc

theorem scDebugChallenge_waits (hword : s.body.takeWord 1 = none) :
    Gives (.scDebugChallenge c) s fun t => t.hm = s.body.hm ∧ fl.uid ∈ t.rnd.waits ∧ SameBytes s.body t := by
  have hi := exec_onDebug hd (by omega) (show exec (.scDebugChallenge c) s = _ from rfl)
  refine gives_of_next hi ?_
  rw [(sameChecks_clampCmd s.body fl _).accessHere, hacc]
  dsimp only
  rw [(takeWord_clampCmd s.body fl _).1 hword]
  exact ⟨(awaitEntropy_keep Body.hm (fun _ _ => rfl) _ _).trans (Body.clampCmd_hm ..), mem_waits_awaitEntropy _ _,
    (sameMemory_clampCmd s.body fl _).bytes.trans (sameBytes_of_memory (awaitEntropy_keep Body.memory (fun _ _ => rfl) _ _))⟩

theorem scDebugChallenge_writes {w : BitVec 384} {b : Body} (hword : s.body.takeWord 1 = some (w, b)) (hplain : PlainMemory s.body) :
    Gives (.scDebugChallenge c) s fun t => EndsWith s.body t fl 0 0 ∧
      t.unlock = { s.body.unlock with challenge := some (Config.seedOf w), challengeAt := s.body.ts } ∧
      t.bytes e.base 48 = leBytes 16 Config.serial.toNat ++ leBytes 32 (Config.seedOf w).toNat ∧ SameBytesBut s.body t e.base 48 := by
  obtain ⟨d, hd', hunlock, hts, hend, hsame⟩ := (takeWord_clampCmd s.body fl (if c.f 1 1 0 = 3 then 1 else 0)).2 w b hword
  have hi : exec (.scDebugChallenge c) s = .next { s with
      body := (((d.challenged fl w).tierTraffic fl.slot e.base 48 true 11).store e.base
        (leBytes 16 Config.serial.toNat ++ leBytes 32 (Config.seedOf w).toNat)).done fl } := by
    rw [exec_onDebug hd (by omega) (show exec (.scDebugChallenge c) s = _ from rfl), (sameChecks_clampCmd s.body fl _).accessHere, hacc]
    dsimp only
    rw [hd']
    rfl
  have hmem : SameMemory s.body (d.challenged fl w) := hsame.trans (sameMemory_of rfl rfl rfl rfl rfl rfl)
  have hun : (d.challenged fl w).unlock = { s.body.unlock with challenge := some (Config.seedOf w), challengeAt := s.body.ts } := by
    rw [← hunlock, ← hts]
    rfl
  have hlen : (leBytes 16 Config.serial.toNat ++ leBytes 32 (Config.seedOf w).toNat).length = 48 := by
    rw [List.length_append, length_leBytes, length_leBytes]
  refine gives_of_next hi ?_
  generalize leBytes 16 Config.serial.toNat ++ leBytes 32 (Config.seedOf w).toNat = data at hlen ⊢
  have hrow := rowStored_output hplain hmem fl e.base 48 11 data
  have hst : (((d.challenged fl w).tierTraffic fl.slot e.base 48 true 11).store e.base data).unlock = (d.challenged fl w).unlock :=
    (unlock_store ..).trans (Body.tierTraffic_unlock ..)
  generalize ((d.challenged fl w).tierTraffic fl.slot e.base 48 true 11).store e.base data = y at hrow hst ⊢
  have hdone : SameBytes y (y.done fl) := SameBytes.done (fun _ => rfl) fl 0
  refine ⟨Body.endsWith_done fl 0 hrow.ended, ?_, ?_, fun z hz => ?_⟩
  · rw [Body.done_unlock, hst, hun]
  · rw [hdone.bytes_eq, ← hlen, hrow.bytes_whole]
  · rw [hdone, hrow.outside z (by rw [hlen]; exact hz)]

end

/-! ### SC_DEBUG UNLOCK -/

theorem tokenCheck_congr {b d : Body} (hreg : d.reg .scDebugStat = b.reg .scDebugStat) (hts : d.ts = b.ts) (hun : d.unlock = b.unlock) (fu : Fuses)
    (x : List Byte) : d.tokenCheck fu x = b.tokenCheck fu x := by
  unfold Body.tokenCheck Body.tokenHash Body.now
  rw [getF_of_reg_eq hreg, hts, hun]

/-- An UNLOCK whose token is read: the challenge is consumed. -/
def Body.tokenRead (b : Body) (fl : Flight) (a : Nat) : Body :=
  { (b.clampCmd fl 0).containerRead fl.slot a 320 with unlock.challenge := none }

theorem tokenRead_keeps (b : Body) (fl : Flight) (a : Nat) : SameMemory b (b.tokenRead fl a) ∧ (b.tokenRead fl a).ts = b.ts ∧
    (b.tokenRead fl a).unlock = { b.unlock with challenge := none } ∧ (b.tokenRead fl a).reg .scDebugStat = b.reg .scDebugStat := by
  have hread : ∀ {γ : Type} (p : Body → γ) (_ : ∀ (b : Body) l, p { b with tiers.pageBuf := l } = p b) (c : Body),
      p (c.containerRead fl.slot a 320) = p (c.tierTraffic fl.slot a 320 false 11) := fun p h c => Body.readPages_keep p h _ a 320
  refine ⟨?_, ?_, ?_, ?_⟩
  · exact (sameMemory_clampCmd b fl 0).trans ((sameMemory_containerRead _ fl.slot a 320).trans (sameMemory_of rfl rfl rfl rfl rfl rfl))
  · exact (hread Body.ts (fun _ _ => rfl) _).trans ((Body.tierTraffic_ts ..).trans (Body.clampCmd_ts ..))
  · rw [Body.tokenRead, hread Body.unlock (fun _ _ => rfl), Body.tierTraffic_unlock, Body.clampCmd_unlock]
  · exact (hread (fun b => b.reg .scDebugStat) (fun _ _ => rfl) _).trans
      ((besideRow_scDebugStat.tierTraffic ..).trans (besideRow_scDebugStat.clampCmd ..))

/-- What an UNLOCK does once its token `x` is read: `k` is the check of R424 that fails. -/
def Body.unlocked (b : Body) (fl : Flight) (x : List Byte) (k : Nat) : Body :=
  if b.flag .scDebugStat Fld.scDebugStatLockout then b.failWith fl 0x60 0x0803 1 11 0 [0, numAt x 4 2]
  else if k ≠ 0 then b.unlockFail fl k (numAt x 4 2)
  else ((({ b with unlock.expiry := BitVec.ofNat 64 (numAt x 56 8) }.setF .scDebugStat Fld.scDebugStatSeen 1).setLevels (numAt x 6 2 % 8))).done fl

theorem exec_scDebugUnlock {e : Entry} {x : List Byte} {k : Nat} (hd : Dispatched s.body c 0x86 fl) (hop : c.f 1 1 0 = 1)
    (hacc : s.body.accessHere fl.slot (c.h 2) 0 320 false = .ok e) (hplain : PlainMemory s.body) (hx : x = s.body.bytes e.base 320)
    (hk : k = s.body.tokenCheck s.fuse x) :
    exec (.scDebugUnlock c) s = .next { s with body := (s.body.tokenRead fl e.base).unlocked fl x k } := by
  have hone : (if c.f 1 1 0 = 3 then 1 else 0) = 0 := if_neg (by omega)
  have hsame := sameMemory_clampCmd s.body fl 0
  have hload := load_containerRead (hsame.plain hplain) fl e.base 320
  have hcheck : ((s.body.clampCmd fl 0).containerRead fl.slot e.base 320).tokenCheck s.fuse x = k := by
    refine (tokenCheck_congr ?_ ?_ ?_ s.fuse x).trans hk.symm
    · exact (tokenRead_keeps s.body fl e.base).2.2.2
    · exact (tokenRead_keeps s.body fl e.base).2.1
    · exact (Body.readPages_keep Body.unlock (fun _ _ => rfl) _ _ _).trans ((Body.tierTraffic_unlock ..).trans (Body.clampCmd_unlock ..))
  have hmin : min 2 (c.f 1 1 0) = 1 := by omega
  change Host.Outcome.next { s with body := s.body.onDebug c 1 _ } = _
  rw [Body.onDebug, Body.onSub_dispatched hd, if_pos (decide_eq_true hmin), hone, (sameChecks_clampCmd s.body fl 0).accessHere, hacc]
  dsimp only
  rw [hload, hsame.bytes.bytes_eq, ← hx]
  dsimp only
  rw [hcheck, if_neg Bool.false_ne_true]
  rfl

/-! What becomes of the token: a body `b` that differs from the one before the UNLOCK in nothing it reads. -/

theorem endsWith_failWith {a b : Body} (h : b.hm.ended = a.hm.ended) (fl : Flight) (st code sev kind unit : Nat) (d : List Nat) :
    EndsWith a (b.failWith fl st code sev kind unit d) fl st 0 :=
  Body.endsWith_retire fl st 0 true (by rw [Body.raise_hm, h])

theorem sameBytes_failWith (b : Body) (fl : Flight) (st code sev kind unit : Nat) (d : List Nat) :
    SameBytes b (b.failWith fl st code sev kind unit d) := ((SameBut.refl [] b).failWith fl st code sev kind unit d).2.1

/-- The failures of the hour that an UNLOCK that fails leaves. -/
def Body.failsNow (b : Body) : List (BitVec 64) :=
  (b.unlock.failTimes.filter fun t => decide (b.now - t.toNat < 3600 * second)) ++ [b.ts]

/-- The failures are noted, and the third locks UNLOCK out. -/
def Body.failsNoted (b : Body) : Body :=
  let b' := { b with unlock.failTimes := b.failsNow }.setF .scDebugStat Fld.scDebugStatFails (min 3 b.failsNow.length)
  if b.failsNow.length ≥ 3 then b'.setF .scDebugStat Fld.scDebugStatLockout 1 else b'

theorem unlockFail_eq (b : Body) (fl : Flight) (k signer : Nat) : b.unlockFail fl k signer = b.failsNoted.failWith fl 0x60 0x0803 1 11 0 [k, signer] := rfl

theorem failsNoted_spec (b : Body) (hfree : b.getF .scDebugStat Fld.scDebugStatLockout = 0) :
    b.failsNoted.hm = b.hm ∧ SameBytes b b.failsNoted ∧ b.failsNoted.unlock = { b.unlock with failTimes := b.failsNow } ∧
      b.failsNoted.getF .scDebugStat Fld.scDebugStatLevels = b.getF .scDebugStat Fld.scDebugStatLevels ∧
      b.failsNoted.getF .scDebugStat Fld.scDebugStatFails = min 3 b.failsNow.length ∧
      b.failsNoted.getF .scDebugStat Fld.scDebugStatLockout = (if 3 ≤ b.failsNow.length then 1 else 0) := by
  have hmin : min 3 b.failsNow.length % 2 ^ Fld.scDebugStatFails.width = min 3 b.failsNow.length := Nat.mod_eq_of_lt (by
    change min 3 b.failsNow.length < 4
    omega)
  unfold Body.failsNoted
  dsimp only
  split
  · refine ⟨by simp, sameBytes_of_memory ((memory_setF ..).trans (memory_setF ..)), by simp, ?_, ?_, ?_⟩
    · rw [getF_setF_scDebugStat _ _ (by decide), if_neg (by decide), getF_setF_scDebugStat _ _ (by decide), if_neg (by decide)]
      rfl
    · rw [getF_setF_scDebugStat _ _ (by decide), if_neg (by decide), getF_setF_scDebugStat _ _ (by decide), if_pos rfl, hmin]
    · rw [getF_setF_scDebugStat _ _ (by decide), if_pos rfl]
      rfl
  · refine ⟨by simp, sameBytes_of_memory (memory_setF ..), by simp, ?_, ?_, ?_⟩
    · rw [getF_setF_scDebugStat _ _ (by decide), if_neg (by decide)]
      rfl
    · rw [getF_setF_scDebugStat _ _ (by decide), if_pos rfl, hmin]
    · rw [getF_setF_scDebugStat _ _ (by decide), if_neg (by decide)]
      exact hfree

section
variable {e : Entry} {x : List Byte} {k : Nat} (hd : Dispatched s.body c 0x86 fl) (hop : c.f 1 1 0 = 1)
  (hacc : s.body.accessHere fl.slot (c.h 2) 0 320 false = .ok e) (hplain : PlainMemory s.body) (hx : x = s.body.bytes e.base 320)
  (hk : k = s.body.tokenCheck s.fuse x)
include hd hop hacc hplain hx hk

theorem scDebugUnlock_lockedOut (hlock : s.body.flag .scDebugStat Fld.scDebugStatLockout = true) : Gives (.scDebugUnlock c) s fun t =>
    EndsWith s.body t fl 0x60 0 ∧ SameBytes s.body t ∧ t.unlock = { s.body.unlock with challenge := none } ∧
      t.reg .scDebugStat = s.body.reg .scDebugStat := by
  obtain ⟨hsame, hts, hun, hreg⟩ := tokenRead_keeps s.body fl e.base
  refine gives_of_next (exec_scDebugUnlock hd hop hacc hplain hx hk) ?_
  generalize s.body.tokenRead fl e.base = b at hsame hts hun hreg ⊢
  have hlock' : b.flag .scDebugStat Fld.scDebugStatLockout = true := by rw [Body.flag, getF_of_reg_eq hreg, ← Body.flag, hlock]
  rw [Body.unlocked, if_pos hlock']
  exact ⟨endsWith_failWith hsame.ended .., hsame.bytes.trans (sameBytes_failWith _ _ _ _ _ _ _ _), by rw [Body.failWith]; simp [hun],
    (unnoted_scDebugStat.failWith ..).trans hreg⟩

theorem scDebugUnlock_answers {old : List (BitVec 64)} (hlock : s.body.flag .scDebugStat Fld.scDebugStatLockout = false)
    (hold : old = s.body.unlock.failTimes.filter (fun t => decide (s.body.now - t.toNat < 3600 * second))) :
    Gives (.scDebugUnlock c) s fun t => SameBytes s.body t ∧ t.unlock.challenge = none ∧
      if k = 0 then EndsWith s.body t fl 0 0 ∧ t.getF .scDebugStat Fld.scDebugStatLevels = numAt x 6 2 % 8 ∧
        t.getF .scDebugStat Fld.scDebugStatSeen = 1 ∧ t.unlock.expiry = BitVec.ofNat 64 (numAt x 56 8) ∧
        t.unlock.failTimes = s.body.unlock.failTimes
      else EndsWith s.body t fl 0x60 0 ∧ t.getF .scDebugStat Fld.scDebugStatLevels = s.body.getF .scDebugStat Fld.scDebugStatLevels ∧
        t.unlock.failTimes = old ++ [s.body.ts] ∧ t.getF .scDebugStat Fld.scDebugStatFails = min 3 (old.length + 1) ∧
        t.getF .scDebugStat Fld.scDebugStatLockout = (if 2 ≤ old.length then 1 else 0) := by
  obtain ⟨hsame, hts, hun, hreg⟩ := tokenRead_keeps s.body fl e.base
  refine gives_of_next (exec_scDebugUnlock hd hop hacc hplain hx hk) ?_
  generalize s.body.tokenRead fl e.base = b at hsame hts hun hreg ⊢
  have hfree : b.getF .scDebugStat Fld.scDebugStatLockout = 0 := by
    rw [getF_of_reg_eq hreg]
    rw [Body.flag, decide_eq_false_iff_not, not_not] at hlock
    exact hlock
  have hlock' : ¬ b.flag .scDebugStat Fld.scDebugStatLockout = true := by
    rw [Body.flag, hfree]
    decide
  rw [Body.unlocked, if_neg hlock']
  by_cases h0 : k = 0
  · rw [if_neg (not_not_intro h0), if_pos h0]
    set v := numAt x 6 2 % 8 with hv
    have hlt : v < 2 ^ Fld.scDebugStatLevels.width := lt_of_lt_of_le (Nat.mod_lt _ (by omega)) (by decide)
    set y := ({ b with unlock.expiry := BitVec.ofNat 64 (numAt x 56 8) } : Body).setF .scDebugStat Fld.scDebugStatSeen 1 with hy
    have hbytes : SameBytes b y := sameBytes_of_memory (memory_setF ..)
    have hyun : y.unlock = { b.unlock with expiry := BitVec.ofNat 64 (numAt x 56 8) } := by rw [hy, Body.setF_unlock]
    have htun : ((y.setLevels v).done fl).unlock = y.unlock := (Body.done_unlock ..).trans (setLevels_keep Body.unlock Body.setF_unlock y v)
    have hget : ∀ f, ((y.setLevels v).done fl).getF .scDebugStat f = (y.setLevels v).getF .scDebugStat f :=
      getF_of_reg_eq (unnoted_scDebugStat.done _ fl 0)
    refine ⟨?_, by rw [htun, hyun, hun], Body.endsWith_done fl 0 ?_, ?_, ?_, by rw [htun, hyun], by rw [htun, hyun, hun]⟩
    · exact hsame.bytes.trans (hbytes.trans (SameBytes.done (sameBut_setLevels y v).bytes fl 0))
    · rw [(sameBut_setLevels y v).ended, hy, Body.setF_hm, hsame.ended]
    · rw [hget, getF_setLevels _ _ (by decide), if_pos rfl, Nat.mod_eq_of_lt hlt]
    · rw [hget, getF_setLevels _ _ (by decide), if_neg (by decide), hy, getF_setF_scDebugStat _ _ (by decide), if_pos rfl]
      rfl
  · rw [if_pos h0, if_neg h0, unlockFail_eq]
    have hnow : b.failsNow = old ++ [s.body.ts] := by rw [Body.failsNow, hun, Body.now, hts, hold, Body.now]
    obtain ⟨hhm, hbytes, hunl, hlevels, hfails, hlockout⟩ := failsNoted_spec b hfree
    have hlen : (old ++ [s.body.ts]).length = old.length + 1 := by rw [List.length_append, List.length_singleton]
    rw [hnow] at hunl hfails hlockout
    rw [hlen] at hfails hlockout
    generalize b.failsNoted = y at hhm hbytes hunl hlevels hfails hlockout ⊢
    have hget : ∀ f, (y.failWith fl 0x60 0x0803 1 11 0 [k, numAt x 4 2]).getF .scDebugStat f = y.getF .scDebugStat f :=
      getF_of_reg_eq (unnoted_scDebugStat.failWith ..)
    have htun : (y.failWith fl 0x60 0x0803 1 11 0 [k, numAt x 4 2]).unlock = y.unlock := by rw [Body.failWith]; simp
    refine ⟨hsame.bytes.trans (hbytes.trans (sameBytes_failWith _ _ _ _ _ _ _ _)), by rw [htun, hunl, hun], endsWith_failWith (by rw [hhm, hsame.ended]) ..,
      by rw [hget, hlevels, getF_of_reg_eq hreg], by rw [htun, hunl], by rw [hget, hfails], ?_⟩
    rw [hget, hlockout]
    exact if_congr (by omega) rfl rfl

end

/-! ### SC_DEBUG LOCK, and what time ends -/

theorem scDebugLock_clears (hd : Dispatched s.body c 0x86 fl) (hop : 2 ≤ c.f 1 1 0) : Gives (.scDebugLock c) s fun t =>
    OnlyEnds s.body t fl 0 0 [Reg.scDebugStat.addr, Reg.hmStepStat.addr] ∧ t.getF .scDebugStat Fld.scDebugStatLevels = 0 := by
  refine gives_of_next (exec_onDebug hd (by omega : min 2 (c.f 1 1 0) = 2) (show exec (.scDebugLock c) s = _ from rfl)) ?_
  generalize hb : s.body.clampCmd fl _ = b
  have hsame : SameBut [Reg.scDebugStat.addr, Reg.hmStepStat.addr] s.body b := hb ▸ (SameBut.refl _ s.body).clampCmd fl _
  refine ⟨(hsame.trans (sameBut_setLevels b 0)).done fl 0, ?_⟩
  rw [getF_of_reg_eq (unnoted_scDebugStat.done _ fl 0), getF_setLevels _ _ (by decide), if_pos rfl]
  rfl

theorem exec_tokenExpiry : exec .tokenExpiry s = .next { s with
      body := if s.body.unlock.expiry = 0 then s.body else { s.body with unlock.expiry := 0 }.setLevels 0 } := rfl

theorem tokenExpiry_none (h : s.body.unlock.expiry = 0) : exec .tokenExpiry s = .next s := by
  rw [exec_tokenExpiry, if_pos h]

theorem tokenExpiry_clears (h : s.body.unlock.expiry ≠ 0) : Gives .tokenExpiry s fun t =>
    t.getF .scDebugStat Fld.scDebugStatLevels = 0 ∧ t.unlock = { s.body.unlock with expiry := 0 } ∧ t.hm = s.body.hm ∧
      SameRegsBut s.body t [Reg.scDebugStat.addr, Reg.hmStepStat.addr] ∧ SameBytes s.body t := by
  have hi := exec_tokenExpiry (s := s)
  rw [if_neg h] at hi
  have hsame := (SameBut.refl [Reg.scDebugStat.addr, Reg.hmStepStat.addr] s.body).beside (d := { s.body with unlock.expiry := 0 }) rfl rfl rfl rfl rfl
  have hall := hsame.trans (sameBut_setLevels _ 0)
  refine gives_of_next hi ⟨?_, setLevels_keep Body.unlock Body.setF_unlock _ 0, setLevels_keep Body.hm Body.setF_hm _ 0, hall.regs, hall.bytes⟩
  rw [getF_setLevels _ _ (by decide), if_pos rfl]
  rfl

theorem unlockFailsHour_clears : Gives .unlockFailsHour s fun t => t.getF .scDebugStat Fld.scDebugStatFails = 0 ∧
    t.getF .scDebugStat Fld.scDebugStatLockout = s.body.getF .scDebugStat Fld.scDebugStatLockout ∧
    t.unlock = { s.body.unlock with failTimes := [] } ∧ SameRegsBut s.body t [Reg.scDebugStat.addr] ∧ SameBytes s.body t ∧ t.hm = s.body.hm := by
  have hi : exec .unlockFailsHour s = .next { s with body := { s.body with unlock.failTimes := [] }.setF .scDebugStat Fld.scDebugStatFails 0 } := rfl
  have hsame := ((SameBut.refl [Reg.scDebugStat.addr] s.body).beside (d := { s.body with unlock.failTimes := [] }) rfl rfl rfl rfl rfl).setF
    (List.mem_singleton_self _) Fld.scDebugStatFails 0
  refine gives_of_next hi ⟨?_, ?_, Body.setF_unlock _ _ _ _, hsame.regs, hsame.bytes, Body.setF_hm _ _ _ _⟩
  · rw [getF_setF_scDebugStat _ _ (by decide), if_pos rfl]
    rfl
  · rw [getF_setF_scDebugStat _ _ (by decide), if_neg (by decide)]
    rfl

end

/-- Settles O54, a command at a time: what framing, reports, fuses and debug levels become. -/
theorem framingAndSecurityCommands : Obligations.FramingAndSecurityCommands := by
  unfold Obligations.FramingAndSecurityCommands
  intro s c fl stat hstat
  subst hstat
  refine ⟨fun kind off hkind hoff hd => ⟨fun st hacc => frStage_refused hoff hd hacc, fun e a n k slot hacc ha hn hfits hplain hk hslot =>
      frStage_stages hkind hoff hd hacc ha hn hfits hplain hk hslot⟩,
    fun id idx v fr new hid hidx hv hfr hd hnew => ⟨fun hok => ?_, fun hok => frLive_sets hid hidx hv hd rfl hok hfr hnew⟩,
    fun data hdata hd => ⟨fun st hacc => frRead_refused hdata hd hacc, fun e hacc hplain => frRead_writes hdata hd hacc hplain⟩,
    fun hd h6 h7 => ⟨fun st hacc => scAttest_refused hd hacc, fun e hacc => ⟨fun hword => scAttest_waits hd h6 h7 hacc hword,
      fun w b k d x hword hsecret hplain hx => scAttest_reports hd h6 h7 hacc hword hsecret hx hplain⟩⟩,
    fun rev bad hrev hbad hd => ⟨fun h => scCommit_refused hrev hd (hbad ▸ h), fun h => scCommit_commits hrev hd (hbad ▸ h)⟩,
    fun hd => ⟨fun howner => scOwner_refused hd howner, fun howner => scOwner_blows hd howner⟩,
    fun hd => ⟨fun hop => ⟨fun st hacc => scDebugChallenge_refused hd hop hacc, fun e hacc => ⟨fun hword => scDebugChallenge_waits hd hop hacc hword,
        fun w b hword hplain => scDebugChallenge_writes hd hop hacc hword hplain⟩⟩,
      fun e x k old hop hacc hplain hx hk hold => ⟨fun hlock => scDebugUnlock_lockedOut hd hop hacc hplain hx hk hlock,
        fun hlock => scDebugUnlock_answers hd hop hacc hplain hx hk hlock hold⟩, fun hop => scDebugLock_clears hd hop⟩,
    tokenExpiry_none, tokenExpiry_clears, ⟨_, rfl, rfl, rfl⟩, unlockFailsHour_clears⟩
  rw [hfr]
  exact frLive_refused hid hidx hd hok

end Sys2Proof.Machine
end

section
/-! PROOFS. Clocks and limits (R433, R434, R435, R451): each Quay's ACLK is its least ceiling, and PW_LIMIT. -/

namespace Sys2Proof.Machine

/-! ### A step for each Quay, Line or port -/

/-- Of steps taken for the numbers of a list, the one for `q` alone changes what `q` shows; it runs where the steps before it left the
rest. -/
theorem foldl_at {γ : Type} {f : Body → Nat → Body} {same : Body → Body → Prop} (hrefl : ∀ b, same b b)
    (htrans : ∀ b c d, same b c → same c d → same b d) (hsame : ∀ c j, same c (f c j)) {v : Body → Nat → γ}
    (hne : ∀ c j k, j ≠ k → v (f c j) k = v c k) {l : List Nat} (hnd : l.Nodup) {q : Nat} (hq : q ∈ l) (b : Body) :
    ∃ c, same b c ∧ v c q = v b q ∧ v (l.foldl f b) q = v (f c q) q := by
  have hafter : ∀ (l : List Nat) (c : Body), q ∉ l → v (l.foldl f c) q = v c q := fun l => by
    induction l with
    | nil => exact fun _ _ => rfl
    | cons j l ih =>
      intro c hnot
      obtain ⟨hj, hl⟩ := not_or.1 (fun h => hnot (List.mem_cons.2 h))
      exact (ih _ hl).trans (hne c j q (Ne.symm hj))
  induction l generalizing b with
  | nil => cases hq
  | cons j l ih =>
    obtain ⟨hjl, hl⟩ := List.nodup_cons.1 hnd
    by_cases hj : q = j
    · subst hj
      exact ⟨b, hrefl b, rfl, hafter l _ hjl⟩
    · obtain ⟨c, hc, hv, hlast⟩ := ih hl ((List.mem_cons.1 hq).resolve_left hj) (f b j)
      exact ⟨c, htrans _ _ _ (hsame b j) hc, hv.trans (hne b j q (Ne.symm hj)), hlast⟩

/-- What each step of a list's numbers leaves the same, all of them do. -/
theorem foldl_same {f : Body → Nat → Body} {same : Body → Body → Prop} (hrefl : ∀ b, same b b)
    (htrans : ∀ b c d, same b c → same c d → same b d) {l : List Nat} (hsame : ∀ c, ∀ j ∈ l, same c (f c j)) (b : Body) :
    same b (l.foldl f b) := by
  induction l generalizing b with
  | nil => exact hrefl b
  | cons j l ih =>
    exact htrans _ _ _ (hsame b j List.mem_cons_self) (ih (fun c k hk => hsame c k (List.mem_cons_of_mem j hk)) _)

/-! ### What a Quay's ceilings read -/

/-- What a Quay's core and ceilings read, beside the registers of the clocks and the loops' counts. -/
structure QuaySame (b c : Body) : Prop where
  power : c.power = b.power
  framing : c.framing = b.framing
  bw : c.bw = b.bw
  phase : c.boot.phase = b.boot.phase
  mpl : c.reg .wtMpl = b.reg .wtMpl
  limit : ∀ p < 10, c.reg (.wtLimit p) = b.reg (.wtLimit p)

namespace QuaySame

variable {b c d : Body}

theorem refl (b : Body) : QuaySame b b := ⟨rfl, rfl, rfl, rfl, rfl, fun _ _ => rfl⟩

theorem trans (h : QuaySame b c) (g : QuaySame c d) : QuaySame b d :=
  ⟨g.power.trans h.power, g.framing.trans h.framing, g.bw.trans h.bw, g.phase.trans h.phase, g.mpl.trans h.mpl,
    fun p hp => (g.limit p hp).trans (h.limit p hp)⟩

variable (h : QuaySame b c)
include h

theorem quayUp (q : Nat) : c.quayUp q = b.quayUp q := by rw [Body.quayUp, h.framing, h.bw, h.phase, Body.quayUp]

omit h in
theorem partOfQuay_lt {fr : SMap Nat} {q p : Nat} (h : partOfQuay fr q = some p) : p < 10 := List.mem_range.1 (List.mem_of_find?_eq_some h)

theorem limitOf (q : Nat) (f : Fld) : (partOfQuay b.framing q).map (fun p => c.getF (.wtLimit p) f) =
    (partOfQuay b.framing q).map fun p => b.getF (.wtLimit p) f :=
  Option.map_congr fun p hp => getF_of_reg_eq (h.limit p (partOfQuay_lt hp)) f

theorem floorOf (q : Nat) : c.floorOf q = b.floorOf q := by rw [Body.floorOf, h.framing, h.limitOf, Body.floorOf]

theorem ceilings (q : Nat) : c.ceilings q = b.ceilings q := by
  unfold Body.ceilings
  rw [h.power, h.framing, h.limitOf, getF_of_reg_eq h.mpl]

theorem ceiling (q : Nat) : c.ceiling q = b.ceiling q := by rw [Body.ceiling, h.ceilings, Body.ceiling]

end QuaySame

/-- A register of a Quay's clock or loops: none that its ceilings read. -/
structure BesideLimits (r : Reg) : Prop where
  mpl : Reg.wtMpl.addr ≠ r.addr
  limit : ∀ p < 10, (Reg.wtLimit p).addr ≠ r.addr

theorem besideLimits_wtQuayClk (q : Nat) : BesideLimits (.wtQuayClk q) := by constructor <;> simp only [Reg.addr] <;> omega

theorem besideLimits_wtLoopStat (q : Nat) : BesideLimits (.wtLoopStat q) := by constructor <;> simp only [Reg.addr] <;> omega

theorem quaySame_setF (b : Body) {r : Reg} (h : BesideLimits r) (f : Fld) (v : Nat) : QuaySame b (b.setF r f v) where
  power := Body.setF_power ..
  framing := Body.setF_framing ..
  bw := Body.setF_bw ..
  phase := by rw [Body.setF_boot]
  mpl := Body.reg_setF_ne b f v h.mpl
  limit p hp := Body.reg_setF_ne b f v (h.limit p hp)

/-! ### ACLK_UPDATE -/

/-- A Quay's least ceiling lies between 400 and 940 MHz, and no ceiling above 400 MHz is less. -/
theorem ceiling_bounds (b : Body) (q : Nat) : 400 ≤ (b.ceiling q).1 ∧ (b.ceiling q).1 ≤ 940 ∧ ∀ p ∈ b.ceilings q, (b.ceiling q).1 ≤ max 400 p.1 := by
  have hmost : ((b.ceilings q).map (·.1)).foldl min 940 ≤ 940 := by
    have := foldl_min_le (l := 940 :: (b.ceilings q).map (·.1)) (a := 940) List.mem_cons_self
    rwa [List.foldl_cons, min_self] at this
  unfold Body.ceiling
  dsimp only
  refine ⟨le_max_left _ _, max_le (by omega) hmost, fun p hp => max_le_max_left _ ?_⟩
  exact foldl_min_le (List.mem_map_of_mem hp)

theorem ceiling_cause_le (b : Body) (q : Nat) : (b.ceiling q).2 ≤ 6 := by
  have hall : ∀ p ∈ b.ceilings q, p.2 ≤ 6 := by
    intro p hp
    simp only [Body.ceilings, List.mem_cons, List.not_mem_nil, or_false] at hp
    obtain rfl | rfl | rfl | rfl | rfl | rfl | rfl := hp <;> dsimp only <;> omega
  unfold Body.ceiling
  dsimp only
  generalize hfind : (b.ceilings q).find? _ = x
  cases x with
  | none => exact Nat.zero_le _
  | some p => exact hall p (List.mem_of_find?_eq_some hfind)

theorem wtQuayClk_addr_ne {q j : Nat} (h : j ≠ q) : (Reg.wtQuayClk q).addr ≠ (Reg.wtQuayClk j).addr := by
  simp only [Reg.addr]
  omega

theorem reg_setClock_ne (b : Body) (q : Nat) {r : Reg} (h : r.addr ≠ (Reg.wtQuayClk q).addr) : (b.setClock q).reg r = b.reg r := by
  have hcause : (b.clockCause q).2.reg r = b.reg r := by
    unfold Body.clockCause
    split
    · rfl
    · split <;> rfl
  rw [setClock_eq, Body.reg_setF_ne _ _ _ h, Body.reg_setF_ne _ _ _ h, Body.reg_setF_ne _ _ _ h, Body.reg_setF_ne _ _ _ h,
    Body.reg_setF_ne _ _ _ h, ← hcause, Body.clockNoted]
  split
  · exact reg_log _ _ _ _ _ _ _ _ _
  · rfl

theorem quaySame_setClock (b : Body) (q : Nat) : QuaySame b (b.setClock q) where
  power := setClock_keep Body.power (fun b _ _ _ => Body.setF_power b _ _ _) (fun _ _ => rfl) (fun _ _ => rfl) b q
  framing := setClock_keep Body.framing (fun b _ _ _ => Body.setF_framing b _ _ _) (fun _ _ => rfl) (fun _ _ => rfl) b q
  bw := setClock_keep Body.bw (fun b _ _ _ => Body.setF_bw b _ _ _) (fun _ _ => rfl) (fun _ _ => rfl) b q
  phase := setClock_keep (fun b : Body => b.boot.phase) (fun b _ _ _ => by rw [Body.setF_boot]) (fun _ _ => rfl) (fun _ _ => rfl) b q
  mpl := reg_setClock_ne b q (besideLimits_wtQuayClk q).mpl
  limit p hp := reg_setClock_ne b q ((besideLimits_wtQuayClk q).limit p hp)

section
variable (b : Body) {q : Nat} (hq : q < 10)
include hq

theorem getF_setF_wtQuayClk (f : Fld) {g : Fld} (v : Nat) (h : f.lo ≤ f.hi ∧ f.hi < 64 ∧ g.lo ≤ g.hi ∧ (g = f ∨ g.hi < f.lo ∨ f.hi < g.lo)) :
    (b.setF (.wtQuayClk q) f v).getF (.wtQuayClk q) g = if g = f then v % 2 ^ f.width else b.getF (.wtQuayClk q) g :=
  getF_setF_fields b v (decide_eq_true hq) (wtQuayClk_stored q) h

/-- What a Quay's clock shows once it is set. -/
theorem setClock_shows : (b.setClock q).aclk q = b.clockAt q % 2 ^ Fld.wtQuayClkAclk.width ∧
    (b.setClock q).getF (.wtQuayClk q) Fld.wtQuayClkCeiling =
      (if b.power.inputLow && decide ((b.ceiling q).1 > 400) then 400 else (b.ceiling q).1) % 2 ^ Fld.wtQuayClkCeiling.width ∧
    (b.setClock q).getF (.wtQuayClk q) Fld.wtQuayClkCause = (b.clockCause q).1 % 2 ^ Fld.wtQuayClkCause.width ∧
    (b.setClock q).getF (.wtQuayClk q) Fld.wtQuayClkGuard = b.power.guard.getD q 16 % 2 ^ Fld.wtQuayClkGuard.width := by
  have hset := fun (c : Body) (f g : Fld) v => getF_setF_wtQuayClk c hq f (g := g) v
  rw [Body.aclk, setClock_eq]
  refine ⟨?_, ?_, ?_, ?_⟩
  · rw [hset _ _ _ _ (by decide), if_neg (by decide), hset _ _ _ _ (by decide), if_neg (by decide), hset _ _ _ _ (by decide), if_neg (by decide),
      hset _ _ _ _ (by decide), if_neg (by decide), hset _ _ _ _ (by decide), if_pos rfl]
  · rw [hset _ _ _ _ (by decide), if_neg (by decide), hset _ _ _ _ (by decide), if_neg (by decide), hset _ _ _ _ (by decide), if_neg (by decide),
      hset _ _ _ _ (by decide), if_pos rfl]
  · rw [hset _ _ _ _ (by decide), if_neg (by decide), hset _ _ _ _ (by decide), if_neg (by decide), hset _ _ _ _ (by decide), if_pos rfl]
  · rw [hset _ _ _ _ (by decide), if_pos rfl]

omit hq in
theorem clockAt_lt : b.clockAt q < 2 ^ Fld.wtQuayClkAclk.width := by
  obtain ⟨-, hmost, -⟩ := ceiling_bounds b q
  change b.clockAt q < 1024
  unfold Body.clockAt
  split
  · omega
  · split <;> omega

end

theorem sameBut_setClock (b : Body) {q : Nat} {l : List Nat} (hq : (Reg.wtQuayClk q).addr ∈ l) : SameBut l b (b.setClock q) :=
  ⟨setClock_keep (fun b : Body => b.hm.ended) (fun b _ _ _ => by rw [Body.setF_hm]) (fun _ _ => rfl) (fun _ _ => rfl) b q,
    sameBytes_of_memory (setClock_keep Body.memory (fun b _ _ _ => memory_setF b _ _ _) (fun _ _ => rfl) (fun _ _ => rfl) b q),
    fun r _ hl => reg_setClock_ne b q fun he => hl (he ▸ hq)⟩

section
variable {s : State}

theorem exec_aclkUpdate : exec .aclkUpdate s = .next { s with
      body := if s.body.boot.phase = .off then s.body else (List.range 10).foldl Body.setClock s.body } := rfl

theorem aclkUpdate_sets (hup : s.body.boot.phase ≠ .off) : Gives .aclkUpdate s fun t => SameBytes s.body t ∧ t.hm = s.body.hm ∧
    SameRegsBut s.body t ((List.range 10).map fun q => (Reg.wtQuayClk q).addr) ∧
    ∀ q c, q < 10 → c = (s.body.ceiling q).1 → 400 ≤ c ∧ (∀ p ∈ s.body.ceilings q, c ≤ max 400 p.1) ∧
      t.aclk q = (if s.body.quayUp q = false then 0 else if s.body.power.inputLow = true then 400 else c) ∧
      t.getF (.wtQuayClk q) Fld.wtQuayClkGuard = s.body.power.guard.getD q 16 % 2 ^ Fld.wtQuayClkGuard.width ∧
      (s.body.quayUp q = false → t.getF (.wtQuayClk q) Fld.wtQuayClkCause = 7) ∧
      (s.body.quayUp q = true → s.body.power.inputLow = false → t.getF (.wtQuayClk q) Fld.wtQuayClkCeiling = c ∧
        t.getF (.wtQuayClk q) Fld.wtQuayClkCause = (s.body.ceiling q).2) := by
  have hi := exec_aclkUpdate (s := s)
  rw [if_neg hup] at hi
  have hmem : ∀ j ∈ List.range 10, (Reg.wtQuayClk j).addr ∈ (List.range 10).map fun q => (Reg.wtQuayClk q).addr :=
    fun j hj => List.mem_map_of_mem (f := fun q => (Reg.wtQuayClk q).addr) hj
  have hall := foldl_same (SameBut.refl ((List.range 10).map fun q => (Reg.wtQuayClk q).addr)) (fun _ _ _ => SameBut.trans)
    (fun c j hj => sameBut_setClock c (hmem j hj)) s.body
  refine gives_of_next hi ⟨hall.bytes, foldl_keep Body.hm _ _ _ fun b q =>
    setClock_keep Body.hm (fun b _ _ _ => Body.setF_hm b _ _ _) (fun _ _ => rfl) (fun _ _ => rfl) b q, hall.regs, fun q c hq hc => ?_⟩
  obtain ⟨hleast, hmost, hmin⟩ := ceiling_bounds s.body q
  obtain ⟨b, hb, -, hlast⟩ := foldl_at QuaySame.refl (fun _ _ _ => QuaySame.trans) quaySame_setClock
    (v := fun b k => b.reg (.wtQuayClk k)) (fun b j k hjk => reg_setClock_ne b j (wtQuayClk_addr_ne hjk)) List.nodup_range
    (List.mem_range.2 hq) s.body
  have hget : ∀ f, ((List.range 10).foldl Body.setClock s.body).getF (.wtQuayClk q) f = (b.setClock q).getF (.wtQuayClk q) f :=
    getF_of_reg_eq hlast
  have hcause : (s.body.ceiling q).2 % 2 ^ Fld.wtQuayClkCause.width = (s.body.ceiling q).2 :=
    Nat.mod_eq_of_lt (lt_of_le_of_lt (ceiling_cause_le _ _) (by decide))
  have hceil : (s.body.ceiling q).1 % 2 ^ Fld.wtQuayClkCeiling.width = (s.body.ceiling q).1 := Nat.mod_eq_of_lt (lt_of_le_of_lt hmost (by decide))
  obtain ⟨haclk, hceiling, hwhy, hguard⟩ := setClock_shows b hq
  rw [hc, Body.aclk, hget, hget, hget, hget, ← Body.aclk, haclk, hceiling, hwhy, hguard, Nat.mod_eq_of_lt (clockAt_lt b), Body.clockAt,
    Body.clockCause, hb.ceiling, hb.quayUp, hb.power]
  refine ⟨hleast, hmin, ?_, rfl, fun hdown => ?_, fun hquay hlow => ?_⟩
  · cases s.body.quayUp q <;> rfl
  · rw [hdown]
    rfl
  · rw [hquay, hlow]
    exact ⟨hceil, hcause⟩

end

/-! ### PW_LIMIT -/

theorem wtMpl_stored : Reg.wtMpl.stored := by simp [Reg.stored]

theorem unnoted_wtMpl : Reg.wtMpl.Unnoted := by constructor <;> simp only [Reg.addr] <;> omega

theorem wtLimit_stored (k : Nat) : (Reg.wtLimit k).stored := by simp [Reg.stored]

theorem unnoted_wtLimit {k : Nat} (hk : k < 10) : (Reg.wtLimit k).Unnoted := by constructor <;> simp only [Reg.addr] <;> omega

/-- A field that a command selects takes its clamped value `v` for the value `w` given. -/
def Body.limitField (b : Body) (fl : Flight) (on : Bool) (r : Reg) (f : Fld) (v w : Nat) : Body :=
  if on then (b.clampCmd fl (diff v w)).setF r f v else b

section
variable (b : Body) (fl : Flight) (on : Bool) (r : Reg) (f : Fld) (v w : Nat)

theorem sameBut_limitField : SameBut [r.addr] b (b.limitField fl on r f v w) := by
  unfold Body.limitField
  split
  · exact ((SameBut.refl _ b).clampCmd fl _).setF (List.mem_singleton_self _) f v
  · exact SameBut.refl _ b

theorem getF_limitField (hok : r.ok = true) (hst : r.stored) (hun : r.Unnoted) {g : Fld}
    (h : f.lo ≤ f.hi ∧ f.hi < 64 ∧ g.lo ≤ g.hi ∧ (g = f ∨ g.hi < f.lo ∨ f.hi < g.lo)) :
    (b.limitField fl on r f v w).getF r g = if on = true ∧ g = f then v % 2 ^ f.width else b.getF r g := by
  unfold Body.limitField
  cases on with
  | false => rw [if_neg Bool.false_ne_true, if_neg fun h => Bool.false_ne_true h.1]
  | true =>
    rw [if_pos rfl, getF_setF_fields _ _ hok hst h, getF_of_reg_eq (hun.clampCmd _ _ _)]
    simp only [true_and]

end

theorem clampMhz_lt (v : Nat) : (clampMhz v).1 < 1024 := by
  unfold clampMhz
  dsimp only
  split
  · omega
  · split <;> omega

theorem floorClamp_lt (v cap amax : Nat) : floorClamp v cap amax < 1024 := by
  unfold floorClamp
  split
  · omega
  · exact lt_of_le_of_lt (min_le_left _ _) (clampMhz_lt v)

section
variable {s : State} {c : Cmd} {fl : Flight} {k cap : Nat} (hk : k = nearTarget (c.f 1 3 0)) (hcap : cap = (clampMhz (c.f 2 25 16)).1)
  (hd : Dispatched s.body c 0x7C fl)
include hk hcap hd

/-- PW_LIMIT of the module. -/
theorem pwLimit_module (hmod : k = 15) : Gives (.pwLimit c) s fun t => OnlyEnds s.body t fl 0 0 [Reg.wtMpl.addr] ∧
    t.getF .wtMpl Fld.wtMplMpl = (if c.b 1 4 = true then (clampTo (c.f 2 12 0) (frGet s.body.framing 0x008) (frGet s.body.framing 0x009)).1 %
      2 ^ Fld.wtMplMpl.width else s.body.getF .wtMpl Fld.wtMplMpl) ∧
    t.getF .wtMpl Fld.wtMplAclkMax = (if c.b 1 5 = true then cap else s.body.getF .wtMpl Fld.wtMplAclkMax) := by
  obtain ⟨mpl, hmpl⟩ : ∃ m, m = (clampTo (c.f 2 12 0) (frGet s.body.framing 0x008) (frGet s.body.framing 0x009)).1 := ⟨_, rfl⟩
  have hi : exec (.pwLimit c) s = .next { s with
      body := ((((s.body.clampCmd fl (diff k (c.f 1 3 0))).limitField fl (c.b 1 4) .wtMpl Fld.wtMplMpl mpl (c.f 2 12 0)).limitField fl (c.b 1 5)
        .wtMpl Fld.wtMplAclkMax cap (c.f 2 25 16)).done fl) } := by
    rw [exec_onCmd hd rfl, ← hk, ← hcap]
    dsimp only
    rw [if_pos hmod, Body.clampCmd_framing, ← hmpl]
    rfl
  rw [← hmpl]
  set b := s.body.clampCmd fl (diff k (c.f 1 3 0)) with hb
  have hsame : SameBut [Reg.wtMpl.addr] s.body b := (SameBut.refl _ s.body).clampCmd fl _
  have hget : ∀ f, b.getF .wtMpl f = s.body.getF .wtMpl f := getF_of_reg_eq (unnoted_wtMpl.clampCmd _ _ _)
  have hfield := fun (b : Body) on (f g : Fld) v w => getF_limitField b fl on .wtMpl f v w rfl wtMpl_stored unnoted_wtMpl (g := g)
  refine gives_of_next hi ⟨((hsame.trans (sameBut_limitField ..)).trans (sameBut_limitField ..)).done fl 0, ?_, ?_⟩
  · rw [getF_of_reg_eq (unnoted_wtMpl.done _ fl 0), hfield _ _ _ _ _ _ (by decide), if_neg fun h => absurd h.2 (by decide),
      hfield _ _ _ _ _ _ (by decide), hget]
    simp only [and_true]
  · rw [getF_of_reg_eq (unnoted_wtMpl.done _ fl 0), hfield _ _ _ _ _ _ (by decide), hfield _ _ _ _ _ _ (by decide),
      if_neg (c := _ ∧ Fld.wtMplAclkMax = Fld.wtMplMpl) fun h => absurd h.2 (by decide), hget, hcap,
      Nat.mod_eq_of_lt (lt_of_lt_of_le (clampMhz_lt _) (by decide))]
    simp only [and_true]

theorem pwLimit_refused (hpart : k ≠ 15) (hnone : partDefined s.body.framing k = false) : Gives (.pwLimit c) s fun t =>
    OnlyEnds s.body t fl 0x11 0 [] := by
  have hi : exec (.pwLimit c) s = .next { s with body := (s.body.clampCmd fl (diff k (c.f 1 3 0))).fail fl 0x11 k } := by
    rw [exec_onCmd hd rfl, ← hk, ← hcap]
    dsimp only
    rw [if_neg hpart, Body.clampCmd_framing, hnone, if_pos Bool.false_ne_true]
  exact gives_of_next hi (((SameBut.refl _ s.body).clampCmd fl _).fail fl _ _ _)

omit hk hcap hd in
theorem nearTarget_lt {n : Nat} (h : nearTarget n ≠ 15) : nearTarget n < 10 := by
  unfold nearTarget at h ⊢
  split
  · omega
  · split
    · omega
    · simp_all

omit hk hcap hd in
/-- A partition's CAP, then its FLOOR. -/
theorem limits_set (b : Body) (fl : Flight) {k cap : Nat} (hk : k < 10) (hcap : cap < 1024) (onCap onFloor : Bool) (wc wf : Nat) {b1 : Body}
    (hb1 : b1 = b.limitField fl onCap (.wtLimit k) Fld.wtLimitCap cap wc) {floor : Nat} (hfloor : floor < 1024) {t : Body}
    (ht : t = b1.limitField fl onFloor (.wtLimit k) Fld.wtLimitFloor floor wf) : SameBut [(Reg.wtLimit k).addr] b t ∧
      b1.getF (.wtLimit k) Fld.wtLimitCap = (if onCap = true then cap else b.getF (.wtLimit k) Fld.wtLimitCap) ∧
      t.getF (.wtLimit k) Fld.wtLimitCap = b1.getF (.wtLimit k) Fld.wtLimitCap ∧
      t.getF (.wtLimit k) Fld.wtLimitFloor = (if onFloor = true then floor else b.getF (.wtLimit k) Fld.wtLimitFloor) ∧
      b1.getF .wtMpl Fld.wtMplAclkMax = b.getF .wtMpl Fld.wtMplAclkMax := by
  have hfield := fun (b : Body) on (f g : Fld) v w =>
    getF_limitField b fl on (.wtLimit k) f v w (decide_eq_true hk) (wtLimit_stored k) (unnoted_wtLimit hk) (g := g)
  have hmod : ∀ {x : Nat}, x < 1024 → x % 2 ^ Fld.wtLimitCap.width = x ∧ x % 2 ^ Fld.wtLimitFloor.width = x := fun h =>
    ⟨Nat.mod_eq_of_lt h, Nat.mod_eq_of_lt h⟩
  refine ⟨?_, ?_, ?_, ?_, ?_⟩
  · rw [ht, hb1]
    exact (sameBut_limitField ..).trans (sameBut_limitField ..)
  · rw [hb1, hfield _ _ _ _ _ _ (by decide), (hmod hcap).1]
    simp only [and_true]
  · rw [ht, hfield _ _ _ _ _ _ (by decide), if_neg fun h => absurd h.2 (by decide)]
  · rw [ht, hfield _ _ _ _ _ _ (by decide), (hmod hfloor).2, hb1, hfield _ _ _ _ _ _ (by decide), if_neg (c := _ ∧ Fld.wtLimitFloor = Fld.wtLimitCap)
      fun h => absurd h.2 (by decide)]
    simp only [and_true]
  · have hne : Reg.wtMpl.addr ≠ (Reg.wtLimit k).addr := by simp only [Reg.addr]; omega
    refine getF_of_reg_eq ?_ _
    rw [hb1, Body.limitField]
    split
    · rw [Body.reg_setF_ne _ _ _ hne, unnoted_wtMpl.clampCmd]
    · rfl

theorem exec_pwLimit_part (hpart : k ≠ 15) (hdef : partDefined s.body.framing k = true) {b b1 : Body} (hb : b = s.body.clampCmd fl (diff k (c.f 1 3 0)))
    (hb1 : b1 = b.limitField fl (c.b 1 5) (.wtLimit k) Fld.wtLimitCap cap (c.f 2 25 16)) {floor : Nat}
    (hfloor : floor = floorClamp (c.f 2 41 32) (b1.getF (.wtLimit k) Fld.wtLimitCap) (b1.getF .wtMpl Fld.wtMplAclkMax)) :
    exec (.pwLimit c) s = .next { s with body := (b1.limitField fl (c.b 1 6) (.wtLimit k) Fld.wtLimitFloor floor (c.f 2 41 32)).done fl } := by
  rw [exec_onCmd hd rfl, ← hk, ← hcap]
  dsimp only
  rw [if_neg hpart, Body.clampCmd_framing, hdef, if_neg (not_not_intro rfl), hfloor, hb1, hb]
  rfl

theorem pwLimit_part {lim : Reg} (hlim : lim = .wtLimit k) (hpart : k ≠ 15) (hdef : partDefined s.body.framing k = true) :
    Gives (.pwLimit c) s fun t => OnlyEnds s.body t fl 0 0 [lim.addr] ∧
      t.getF lim Fld.wtLimitCap = (if c.b 1 5 = true then cap else s.body.getF lim Fld.wtLimitCap) ∧
      t.getF lim Fld.wtLimitFloor = (if c.b 1 6 = true then floorClamp (c.f 2 41 32) (t.getF lim Fld.wtLimitCap) (s.body.getF .wtMpl Fld.wtMplAclkMax)
        else s.body.getF lim Fld.wtLimitFloor) := by
  subst hlim
  have hk10 : k < 10 := hk ▸ nearTarget_lt (hk ▸ hpart)
  have hun := unnoted_wtLimit hk10
  obtain ⟨b, hb⟩ : ∃ x, x = s.body.clampCmd fl (diff k (c.f 1 3 0)) := ⟨_, rfl⟩
  obtain ⟨b1, hb1⟩ : ∃ x, x = b.limitField fl (c.b 1 5) (.wtLimit k) Fld.wtLimitCap cap (c.f 2 25 16) := ⟨_, rfl⟩
  obtain ⟨floor, hfloor⟩ : ∃ x, x = floorClamp (c.f 2 41 32) (b1.getF (.wtLimit k) Fld.wtLimitCap) (b1.getF .wtMpl Fld.wtMplAclkMax) := ⟨_, rfl⟩
  obtain ⟨t, ht⟩ : ∃ x, x = b1.limitField fl (c.b 1 6) (.wtLimit k) Fld.wtLimitFloor floor (c.f 2 41 32) := ⟨_, rfl⟩
  have hi := exec_pwLimit_part hk hcap hd hpart hdef hb hb1 hfloor
  rw [← ht] at hi
  have hsame : SameBut [(Reg.wtLimit k).addr] s.body b := hb ▸ (SameBut.refl _ s.body).clampCmd fl _
  have hget : ∀ f, b.getF (.wtLimit k) f = s.body.getF (.wtLimit k) f := getF_of_reg_eq (hb ▸ hun.clampCmd _ _ _)
  have hmax : b.getF .wtMpl Fld.wtMplAclkMax = s.body.getF .wtMpl Fld.wtMplAclkMax := getF_of_reg_eq (hb ▸ unnoted_wtMpl.clampCmd _ _ _) _
  obtain ⟨hall, hcap1, hcapEnd, hfloorEnd, hmpl⟩ := limits_set b fl hk10 (hcap ▸ clampMhz_lt _) (c.b 1 5) (c.b 1 6) (c.f 2 25 16) (c.f 2 41 32) hb1
    (hfloor ▸ floorClamp_lt _ _ _) ht
  have hdone : ∀ f, (t.done fl).getF (.wtLimit k) f = t.getF (.wtLimit k) f := getF_of_reg_eq (hun.done _ fl 0)
  refine gives_of_next hi ⟨(hsame.trans hall).done fl 0, ?_, ?_⟩
  · rw [hdone, hcapEnd, hcap1, hget]
  · rw [hdone, hdone, hcapEnd, hfloorEnd, hget, ← hmax, ← hmpl, ← hfloor]

end

end Sys2Proof.Machine
end

section
/-! PROOFS. The power and thermal loops (R432, R436, R437, R438, R450): samples, the MPL loop, protections, a low input and a lost REFCLK. -/

namespace Sys2Proof.Machine

/-- A row without a command that its condition stops changes nothing. -/
theorem exec_of_stopped {i : Instr} {s : State} {p : Prop} [Decidable p] {b : Body}
    (hi : exec i s = .next { s with body := if p then s.body else b }) (hp : p) : exec i s = .next s := by
  rw [hi, if_pos hp]

section
variable {s : State}

theorem exec_clocks_of_off (hoff : s.body.boot.phase = .off) (mv ma : Nat) (l : List Nat) (us : Nat) :
    ∀ i ∈ [Instr.aclkUpdate, .powerSample mv ma, .mplEvaluation, .thermalStep l, .inputLow mv, .refclkLoss us], exec i s = .next s := by
  intro i hi
  simp only [List.mem_cons, List.not_mem_nil, or_false] at hi
  obtain rfl | rfl | rfl | rfl | rfl | rfl := hi
  · exact exec_of_stopped rfl hoff
  · exact exec_of_stopped rfl (.inl hoff)
  · exact exec_of_stopped rfl (.inl hoff)
  · exact exec_of_stopped rfl (.inl hoff)
  · exact exec_of_stopped rfl (.inl hoff)
  · exact exec_of_stopped rfl (.inl hoff)

theorem exec_loops_of_holdWatch (hhold : s.body.power.holdWatch = true) (mv ma : Nat) (l : List Nat) (q : Fin 10) :
    ∀ i ∈ [Instr.powerSample mv ma, .mplEvaluation, .thermalStep l, .inputOvercurrent, .railOvercurrent q, .currentCeilingRelease q],
      exec i s = .next s := by
  intro i hi
  simp only [List.mem_cons, List.not_mem_nil, or_false] at hi
  obtain rfl | rfl | rfl | rfl | rfl | rfl := hi
  · exact exec_of_stopped rfl (.inr hhold)
  · exact exec_of_stopped rfl (.inr hhold)
  · exact exec_of_stopped rfl (.inr hhold)
  · exact exec_of_stopped rfl hhold
  · exact exec_of_stopped rfl hhold
  · exact exec_of_stopped rfl hhold

end

/-! ### POWER_SAMPLE -/

theorem wtPinStat_stored : Reg.wtPinStat.stored := by simp [Reg.stored]

theorem wtMpl_ne_wtPinStat : Reg.wtMpl.addr ≠ Reg.wtPinStat.addr := by simp only [Reg.addr]; omega

theorem sameBut_syncPins (b : Body) : SameBut [Reg.wtPinStat.addr] b b.syncPins := by
  have hmem := List.mem_singleton_self Reg.wtPinStat.addr
  exact (((((SameBut.refl _ b).free.setF hmem _ _).setF hmem _ _).setF hmem _ _).setF hmem _ _)

theorem hm_syncPins (b : Body) : b.syncPins.hm = b.hm := by
  unfold Body.syncPins
  dsimp only
  rw [Body.setF_hm, Body.setF_hm, Body.setF_hm, Body.setF_hm]
  rfl

theorem power_syncPins (b : Body) : b.syncPins.power = b.power := by
  unfold Body.syncPins
  dsimp only
  rw [Body.setF_power, Body.setF_power, Body.setF_power, Body.setF_power]
  rfl

theorem reg_wtMpl_syncPins (b : Body) : b.syncPins.reg .wtMpl = b.reg .wtMpl := by
  unfold Body.syncPins
  dsimp only
  rw [Body.reg_setF_ne _ _ _ wtMpl_ne_wtPinStat, Body.reg_setF_ne _ _ _ wtMpl_ne_wtPinStat, Body.reg_setF_ne _ _ _ wtMpl_ne_wtPinStat,
    Body.reg_setF_ne _ _ _ wtMpl_ne_wtPinStat]
  rfl

section
variable {s : State}

/-- POWER_SAMPLE with `l` the samples kept. -/
theorem exec_powerSample (hup : s.body.boot.phase ≠ .off) (hfree : s.body.power.holdWatch = false) {mv ma : Nat} {all l : List Nat}
    (hall : all = s.body.power.pSamples ++ [mv * ma]) (hl : l = all.drop (all.length - 128)) :
    exec (.powerSample mv ma) s = .next { s with
      body := ((({ s.body with power.pSamples := l }.setF .wtMpl Fld.wtMplPAvg (min 8191 (l.sum / (1000000 * l.length)))).syncPins.setF
        .wtPinStat Fld.wtPinStatVinMv (min 65535 mv)).setF .wtPinStat Fld.wtPinStatIin (min 65535 (ma / 10))) } := by
  have hgo : ¬ (s.body.boot.phase = .off ∨ s.body.power.holdWatch = true) := by rw [hfree]; simp [hup]
  change Host.Outcome.next { s with body := if s.body.boot.phase = Phase.off ∨ s.body.power.holdWatch = true then s.body else _ } = _
  rw [if_neg hgo, hl, hall]

theorem powerSample_samples (hup : s.body.boot.phase ≠ .off) (hfree : s.body.power.holdWatch = false) {mv ma : Nat} {all l : List Nat}
    (hall : all = s.body.power.pSamples ++ [mv * ma]) (hl : l = all.drop (all.length - 128)) : Gives (.powerSample mv ma) s fun t =>
      t.power = { s.body.power with pSamples := l } ∧ t.getF .wtMpl Fld.wtMplPAvg = min 8191 (l.sum / (1000000 * l.length)) ∧
      t.getF .wtPinStat Fld.wtPinStatVinMv = min 65535 mv ∧ t.getF .wtPinStat Fld.wtPinStatIin = min 65535 (ma / 10) ∧
      SameRegsBut s.body t [Reg.wtMpl.addr, Reg.wtPinStat.addr] ∧ SameBytes s.body t ∧ t.hm = s.body.hm := by
  have hpin := fun (b : Body) (f g : Fld) v => getF_setF_fields b v (r := .wtPinStat) (f := f) (g := g) rfl wtPinStat_stored
  have hmpl := List.mem_cons_self (a := Reg.wtMpl.addr) (l := [Reg.wtPinStat.addr])
  have hstat := List.mem_cons_of_mem Reg.wtMpl.addr (List.mem_singleton_self Reg.wtPinStat.addr)
  refine gives_of_next (exec_powerSample hup hfree hall hl) ?_
  generalize hv : min 8191 (l.sum / (1000000 * l.length)) = v
  have hv13 : v < 8192 := by omega
  have hset : SameBut [Reg.wtMpl.addr, Reg.wtPinStat.addr] s.body ({ s.body with power.pSamples := l }.setF .wtMpl Fld.wtMplPAvg v) :=
    SameBut.setF (c := { s.body with power.pSamples := l }) ((SameBut.refl _ s.body).beside rfl rfl rfl rfl rfl) hmpl _ v
  have hsame := ((hset.trans ((sameBut_syncPins _).mono (List.subset_cons_self _ _))).setF hstat Fld.wtPinStatVinMv (min 65535 mv)).setF hstat
    Fld.wtPinStatIin (min 65535 (ma / 10))
  refine ⟨?_, ?_, ?_, ?_, hsame.regs, hsame.bytes, ?_⟩
  · rw [Body.setF_power, Body.setF_power, power_syncPins, Body.setF_power]
  · rw [Body.getF_setF_ne _ _ _ _ wtMpl_ne_wtPinStat, Body.getF_setF_ne _ _ _ _ wtMpl_ne_wtPinStat, getF_of_reg_eq (reg_wtMpl_syncPins _),
      getF_setF_fields _ _ rfl wtMpl_stored (by decide), if_pos rfl]
    exact Nat.mod_eq_of_lt hv13
  · rw [hpin _ _ _ _ (by decide), if_neg (by decide), hpin _ _ _ _ (by decide), if_pos rfl]
    exact Nat.mod_eq_of_lt (lt_of_le_of_lt (min_le_left _ _) (by decide))
  · rw [hpin _ _ _ _ (by decide), if_pos rfl]
    exact Nat.mod_eq_of_lt (lt_of_le_of_lt (min_le_left _ _) (by decide))
  · rw [Body.setF_hm, Body.setF_hm, hm_syncPins, Body.setF_hm]

end

/-! ### MPL_EVALUATION -/

theorem wtLoopStat_stored (q : Nat) : (Reg.wtLoopStat q).stored := by simp [Reg.stored]

theorem wtLoopStat_addr_ne {q j : Nat} (h : j ≠ q) : (Reg.wtLoopStat q).addr ≠ (Reg.wtLoopStat j).addr := by
  simp only [Reg.addr]
  omega

/-- Counts a Quay whose ACLK is below its floor. -/
def Body.floorShort (b : Body) (q : Nat) : Body :=
  if b.quayUp q ∧ b.aclk q < b.floorOf q then b.bump (.wtLoopStat q) Fld.wtLoopStatFloorShort 1 else b

/-- What the MPL loop reads: what a Quay's core and limits read, and its clocks. -/
def LoopSame (b c : Body) : Prop := QuaySame b c ∧ ∀ q, c.reg (.wtQuayClk q) = b.reg (.wtQuayClk q)

theorem LoopSame.refl (b : Body) : LoopSame b b := ⟨QuaySame.refl b, fun _ => rfl⟩

theorem LoopSame.trans {b c d : Body} (h : LoopSame b c) (g : LoopSame c d) : LoopSame b d :=
  ⟨h.1.trans g.1, fun q => (g.2 q).trans (h.2 q)⟩

theorem LoopSame.aclk {b c : Body} (h : LoopSame b c) (q : Nat) : c.aclk q = b.aclk q := getF_of_reg_eq (h.2 q) _

theorem wtQuayClk_ne_wtLoopStat (q j : Nat) : (Reg.wtQuayClk q).addr ≠ (Reg.wtLoopStat j).addr := by
  simp only [Reg.addr]
  omega

theorem loopSame_floorShort (b : Body) (q : Nat) : LoopSame b (b.floorShort q) := by
  unfold Body.floorShort
  split
  · exact ⟨quaySame_setF b (besideLimits_wtLoopStat q) _ _, fun k => Body.reg_setF_ne _ _ _ (wtQuayClk_ne_wtLoopStat k q)⟩
  · exact ⟨QuaySame.refl b, fun _ => rfl⟩

theorem sameBut_floorShort (b : Body) {q : Nat} {m : List Nat} (hm : (Reg.wtLoopStat q).addr ∈ m) : SameBut m b (b.floorShort q) := by
  unfold Body.floorShort
  split
  · exact (SameBut.refl m b).bump hm _ 1
  · exact SameBut.refl m b

theorem reg_floorShort_ne (b : Body) {j k : Nat} (h : j ≠ k) : (b.floorShort j).reg (.wtLoopStat k) = b.reg (.wtLoopStat k) := by
  unfold Body.floorShort
  split
  · exact Body.reg_setF_ne _ _ _ (wtLoopStat_addr_ne h)
  · rfl

theorem hm_floorShort (b : Body) (q : Nat) : (b.floorShort q).hm = b.hm := by
  unfold Body.floorShort
  split
  · exact Body.bump_hm ..
  · rfl

/-- Every Quay below its floor counted, and the climb after a WATCH reset one step on. -/
def Body.loopTurn (b : Body) : Body :=
  let c := (List.range 10).foldl Body.floorShort b
  { c with power.watchSteps := c.power.watchSteps.map (· - 1) }

section
variable (b : Body)

theorem loopSame_floorShorts : LoopSame b ((List.range 10).foldl Body.floorShort b) :=
  foldl_same LoopSame.refl (fun _ _ _ => LoopSame.trans) (fun c j _ => loopSame_floorShort c j) b

theorem loopTurn_eq : b.loopTurn = { (List.range 10).foldl Body.floorShort b with
    power := { b.power with watchSteps := b.power.watchSteps.map (· - 1) } } := by
  obtain ⟨hq, -⟩ := loopSame_floorShorts b
  rw [Body.loopTurn, hq.power]

theorem sameBut_loopTurn : SameBut ((List.range 10).map fun q => (Reg.wtLoopStat q).addr) b b.loopTurn := by
  have hmem : ∀ j ∈ List.range 10, (Reg.wtLoopStat j).addr ∈ (List.range 10).map fun q => (Reg.wtLoopStat q).addr :=
    fun j hj => List.mem_map_of_mem (f := fun q => (Reg.wtLoopStat q).addr) hj
  have hall := foldl_same (SameBut.refl ((List.range 10).map fun q => (Reg.wtLoopStat q).addr)) (fun _ _ _ => SameBut.trans)
    (fun c j hj => sameBut_floorShort c (hmem j hj)) b
  exact hall.beside rfl rfl rfl rfl rfl

theorem hm_loopTurn : b.loopTurn.hm = b.hm := foldl_keep Body.hm _ _ b fun c q => hm_floorShort c q

theorem floorShort_loopTurn {q : Nat} (hq : q < 10) :
    Counted b b.loopTurn (.wtLoopStat q) Fld.wtLoopStatFloorShort (if b.quayUp q = true ∧ b.aclk q < b.floorOf q then 1 else 0) := by
  obtain ⟨c, hc, hreg, hlast⟩ := foldl_at LoopSame.refl (fun _ _ _ => LoopSame.trans) loopSame_floorShort
    (v := fun b k => b.reg (.wtLoopStat k)) (fun _ _ _ h => reg_floorShort_ne _ h) List.nodup_range (List.mem_range.2 hq) b
  have hcount : Counted c (c.floorShort q) (.wtLoopStat q) Fld.wtLoopStatFloorShort (if c.quayUp q = true ∧ c.aclk q < c.floorOf q then 1 else 0) :=
    counted_bump_if c _ (decide_eq_true hq) (wtLoopStat_stored q) (by decide) (by decide)
  rw [hc.1.quayUp, hc.aclk, hc.1.floorOf] at hcount
  exact counted_from (hcount.of_reg (t := b.loopTurn) hlast) (getF_of_reg_eq hreg _)

/-- The MPL loop moves the MPL steps alone, and by what it reads. -/
theorem mplLower_eq (k : Nat) : b.mplLower k = { b with power := { b.power with mplSteps := (b.mplLower k).power.mplSteps } } := by
  unfold Body.mplLower
  dsimp only
  split <;> rfl

theorem mplRaise_eq : b.mplRaise = { b with power := { b.power with mplSteps := b.mplRaise.power.mplSteps } } := rfl

end

section
variable {b c : Body} (hup : c.quayUp = b.quayUp) (hfloor : c.floorOf = b.floorOf) (haclk : c.aclk = b.aclk)
  (hsteps : c.power.mplSteps = b.power.mplSteps)
include hfloor hsteps

theorem mplRaise_congr : c.mplRaise.power.mplSteps = b.mplRaise.power.mplSteps := by
  unfold Body.mplRaise Body.mplTo
  simp only [hfloor, hsteps]

include hup haclk

theorem mplLower_congr (k : Nat) : (c.mplLower k).power.mplSteps = (b.mplLower k).power.mplSteps := by
  unfold Body.mplLower Body.mplTo
  simp only [hup, hfloor, haclk, hsteps]
  split <;> rfl

end

section
variable {s : State}

/-- The steps of the MPL loop by the samples it has: `n` of them, of the sum `p`, against `m`. -/
def Body.mplMeets (b : Body) (n p m : Nat) : Body :=
  if n = 0 then b else if m < p then b.mplLower (min 8 (ceilDiv ((p - m) * 100) (max 1 m))) else if p * 100 < m * 97 then b.mplRaise else b

theorem mplMeets_eq (b : Body) (n p m : Nat) :
    b.mplMeets n p m = { b with power := { b.power with mplSteps := (b.mplMeets n p m).power.mplSteps } } := by
  unfold Body.mplMeets
  split
  · rfl
  · split
    · exact mplLower_eq b _
    · split <;> rfl

theorem exec_mplEvaluation (hup : s.body.boot.phase ≠ .off) (hfree : s.body.power.holdWatch = false) {b : Body} (hb : b = s.body.loopTurn) :
    exec .mplEvaluation s = .next { s with
      body := (b.mplMeets b.power.pSamples.length b.power.pSamples.sum (b.getF .wtMpl Fld.wtMplMpl * 1000000 * b.power.pSamples.length)) } := by
  have hgo : ¬ (s.body.boot.phase = .off ∨ s.body.power.holdWatch = true) := by rw [hfree]; simp [hup]
  change Host.Outcome.next { s with body := if s.body.boot.phase = Phase.off ∨ s.body.power.holdWatch = true then s.body else _ } = _
  rw [if_neg hgo, hb]
  rfl

theorem mplEvaluation_meets (hup : s.body.boot.phase ≠ .off) (hfree : s.body.power.holdWatch = false) {n p m : Nat}
    (hn : n = s.body.power.pSamples.length) (hp : p = s.body.power.pSamples.sum) (hm : m = s.body.getF .wtMpl Fld.wtMplMpl * 1000000 * n) :
    Gives .mplEvaluation s fun t =>
      (∀ q, q < 10 → Counted s.body t (.wtLoopStat q) Fld.wtLoopStatFloorShort
        (if s.body.quayUp q = true ∧ s.body.aclk q < s.body.floorOf q then 1 else 0)) ∧
      t.power.watchSteps = s.body.power.watchSteps.map (· - 1) ∧ t.power.mplSteps = (if n = 0 then s.body.power.mplSteps
        else if m < p then (s.body.mplLower (min 8 (ceilDiv ((p - m) * 100) (max 1 m)))).power.mplSteps
        else if p * 100 < m * 97 then s.body.mplRaise.power.mplSteps else s.body.power.mplSteps) ∧
      SameRegsBut s.body t ((List.range 10).map fun q => (Reg.wtLoopStat q).addr) ∧ SameBytes s.body t ∧ t.hm = s.body.hm := by
  obtain ⟨b, hb⟩ : ∃ b, b = s.body.loopTurn := ⟨_, rfl⟩
  have hi := exec_mplEvaluation hup hfree hb
  obtain ⟨hquay, hclk⟩ := loopSame_floorShorts s.body
  have hpower : b.power = { s.body.power with watchSteps := s.body.power.watchSteps.map (· - 1) } := by rw [hb, loopTurn_eq]
  have hmpl : b.getF .wtMpl Fld.wtMplMpl = s.body.getF .wtMpl Fld.wtMplMpl := by rw [hb]; exact getF_of_reg_eq hquay.mpl _
  have hups : b.quayUp = s.body.quayUp := by rw [hb]; exact funext hquay.quayUp
  have hfloors : b.floorOf = s.body.floorOf := by rw [hb]; exact funext hquay.floorOf
  have haclks : b.aclk = s.body.aclk := by rw [hb]; exact funext fun q => getF_of_reg_eq (hclk q) _
  have hsteps : b.power.mplSteps = s.body.power.mplSteps := by rw [hpower]
  have hsamples : b.power.pSamples = s.body.power.pSamples := by rw [hpower]
  rw [hsamples, hmpl, ← hn, ← hp, ← hm, mplMeets_eq] at hi
  have hsame := hb ▸ sameBut_loopTurn s.body
  have hend : SameBut ((List.range 10).map fun q => (Reg.wtLoopStat q).addr) s.body
      { b with power := { b.power with mplSteps := (b.mplMeets n p m).power.mplSteps } } := hsame.beside rfl rfl rfl rfl rfl
  refine gives_of_next hi ⟨fun q hq => ?_, ?_, ?_, hend.regs, hend.bytes, ?_⟩
  · exact (hb ▸ floorShort_loopTurn s.body hq).of_reg (t := { b with power := _ }) rfl
  · exact congrArg Power.watchSteps hpower
  · change (b.mplMeets n p m).power.mplSteps = _
    rw [Body.mplMeets, ← mplLower_congr hups hfloors haclks hsteps, ← mplRaise_congr hfloors hsteps, ← hsteps]
    split
    · rfl
    · split
      · rfl
      · split <;> rfl
  · exact hb ▸ hm_loopTurn s.body

end

end Sys2Proof.Machine
end

section
/-!
PROOFS. Protections (R432, R438, R450): droops, overcurrents, the thermal loop, a low input and a lost REFCLK; and all of the clocks'
statements together.
-/

namespace Sys2Proof.Machine

/-! ### THERMAL_STEP -/

/-- A Quay's die at `temp`, counted where its thermal ceiling holds it. -/
def Body.heated (b : Body) (hold : Bool) (temp step : Nat → Nat) (q : Nat) : Body :=
  let b := b.setF (.wtQuayClk q) Fld.wtQuayClkTj (min 255 (temp q))
  if hold = true ∨ 0 < step q then b.bump (.wtLoopStat q) Fld.wtLoopStatThermal 1 else b

section
variable (b : Body) (hold : Bool) (temp step : Nat → Nat) (q : Nat)

theorem power_heated : (b.heated hold temp step q).power = b.power := by
  unfold Body.heated
  dsimp only
  split
  · rw [Body.bump_power, Body.setF_power]
  · rw [Body.setF_power]

theorem hm_heated : (b.heated hold temp step q).hm = b.hm := by
  unfold Body.heated
  dsimp only
  split
  · rw [Body.bump_hm, Body.setF_hm]
  · rw [Body.setF_hm]

theorem reg_heated_ne {r : Reg} (hclk : r.addr ≠ (Reg.wtQuayClk q).addr) (hloop : r.addr ≠ (Reg.wtLoopStat q).addr) :
    (b.heated hold temp step q).reg r = b.reg r := by
  unfold Body.heated
  dsimp only
  split
  · rw [Body.bump, Body.reg_setF_ne _ _ _ hloop, Body.reg_setF_ne _ _ _ hclk]
  · rw [Body.reg_setF_ne _ _ _ hclk]

theorem sameBut_heated {m : List Nat} (hclk : (Reg.wtQuayClk q).addr ∈ m) (hloop : (Reg.wtLoopStat q).addr ∈ m) :
    SameBut m b (b.heated hold temp step q) := by
  have hset := (SameBut.refl m b).setF hclk Fld.wtQuayClkTj (min 255 (temp q))
  unfold Body.heated
  dsimp only
  split
  · exact hset.bump hloop _ 1
  · exact hset

variable {q} (hq : q < 10)
include hq

theorem heated_shows : (b.heated hold temp step q).getF (.wtQuayClk q) Fld.wtQuayClkTj = min 255 (temp q) := by
  have hset : (b.setF (.wtQuayClk q) Fld.wtQuayClkTj (min 255 (temp q))).getF (.wtQuayClk q) Fld.wtQuayClkTj = min 255 (temp q) := by
    rw [getF_setF_wtQuayClk b hq _ _ (by decide), if_pos rfl]
    exact Nat.mod_eq_of_lt (lt_of_le_of_lt (min_le_left _ _) (by decide))
  unfold Body.heated
  dsimp only
  split
  · rw [Body.bump, Body.getF_setF_ne _ _ _ _ (wtQuayClk_ne_wtLoopStat q q), hset]
  · exact hset

theorem heated_counts :
    Counted b (b.heated hold temp step q) (.wtLoopStat q) Fld.wtLoopStatThermal (if hold = true ∨ 0 < step q then 1 else 0) :=
  counted_from (counted_bump_if _ _ (decide_eq_true hq) (wtLoopStat_stored q) (by decide) (by decide))
    (Body.getF_setF_ne _ _ _ _ (wtQuayClk_ne_wtLoopStat q q).symm)

end

section
variable {s : State} {l : List Nat} {hold : Bool} {step : Nat → Nat}

theorem exec_thermalStep (hup : s.body.boot.phase ≠ .off) (hfree : s.body.power.holdWatch = false)
    (hhold : hold = (if l.any (fun x => decide (110 < x)) = true then true else if l.all (fun x => decide (x < 105)) = true then false
      else s.body.power.hold110))
    (hstep : step = (fun q => if 100 < l.getD q 0 then min 54 (s.body.power.thermSteps.getD q 0 + 1)
      else if l.getD q 0 < 95 then s.body.power.thermSteps.getD q 0 - 1 else s.body.power.thermSteps.getD q 0)) :
    exec (.thermalStep l) s = .next { s with
      body := ((List.range 10).foldl (Body.heated · hold (fun q => l.getD q 0) fun q => ((List.range 10).map step).getD q 0)
        { s.body with power := { s.body.power with hold110 := hold, thermSteps := (List.range 10).map step } }) } := by
  have hgo : ¬ (s.body.boot.phase = .off ∨ s.body.power.holdWatch = true) := by rw [hfree]; simp [hup]
  change Host.Outcome.next { s with body := if s.body.boot.phase = Phase.off ∨ s.body.power.holdWatch = true then s.body else _ } = _
  rw [if_neg hgo, hhold, hstep]
  rfl

theorem thermalStep_steps (hup : s.body.boot.phase ≠ .off) (hfree : s.body.power.holdWatch = false)
    (hhold : hold = (if l.any (fun x => decide (110 < x)) = true then true else if l.all (fun x => decide (x < 105)) = true then false
      else s.body.power.hold110))
    (hstep : step = (fun q => if 100 < l.getD q 0 then min 54 (s.body.power.thermSteps.getD q 0 + 1)
      else if l.getD q 0 < 95 then s.body.power.thermSteps.getD q 0 - 1 else s.body.power.thermSteps.getD q 0)) :
    Gives (.thermalStep l) s fun t =>
      t.power = { s.body.power with hold110 := hold, thermSteps := (List.range 10).map step } ∧
      (∀ q, q < 10 → t.getF (.wtQuayClk q) Fld.wtQuayClkTj = min 255 (l.getD q 0) ∧
        Counted s.body t (.wtLoopStat q) Fld.wtLoopStatThermal (if hold = true ∨ 0 < step q then 1 else 0)) ∧
      SameRegsBut s.body t ((List.range 10).flatMap fun q => [(Reg.wtQuayClk q).addr, (Reg.wtLoopStat q).addr]) ∧
      SameBytes s.body t ∧ t.hm = s.body.hm := by
  have hi := exec_thermalStep hup hfree hhold hstep
  obtain ⟨b, hb⟩ : ∃ b, b = { s.body with power := { s.body.power with hold110 := hold, thermSteps := (List.range 10).map step } } := ⟨_, rfl⟩
  obtain ⟨steps, hsteps⟩ : ∃ f, f = fun q => ((List.range 10).map step).getD q 0 := ⟨_, rfl⟩
  rw [← hb, ← hsteps] at hi
  have hmem : ∀ j ∈ List.range 10, (Reg.wtQuayClk j).addr ∈ ((List.range 10).flatMap fun q => [(Reg.wtQuayClk q).addr, (Reg.wtLoopStat q).addr]) ∧
      (Reg.wtLoopStat j).addr ∈ ((List.range 10).flatMap fun q => [(Reg.wtQuayClk q).addr, (Reg.wtLoopStat q).addr]) := fun j hj =>
    ⟨List.mem_flatMap.2 ⟨j, hj, List.mem_cons_self⟩, List.mem_flatMap.2 ⟨j, hj, List.mem_cons_of_mem _ (List.mem_singleton_self _)⟩⟩
  have hset : SameBut ((List.range 10).flatMap fun q => [(Reg.wtQuayClk q).addr, (Reg.wtLoopStat q).addr]) s.body b :=
    hb ▸ (SameBut.refl _ s.body).beside rfl rfl rfl rfl rfl
  have hreg : ∀ r, b.reg r = s.body.reg r := fun r => by rw [hb]; exact Body.reg_congr rfl r
  have hall := hset.trans (foldl_same (f := (Body.heated · hold (fun q => l.getD q 0) steps))
    (SameBut.refl ((List.range 10).flatMap fun q => [(Reg.wtQuayClk q).addr, (Reg.wtLoopStat q).addr])) (fun _ _ _ => SameBut.trans)
    (fun c j hj => sameBut_heated c hold _ steps j (hmem j hj).1 (hmem j hj).2) b)
  refine gives_of_next hi ⟨?_, fun q hq => ?_, hall.regs, hall.bytes, ?_⟩
  · rw [foldl_keep Body.power _ _ _ fun b q => power_heated b ..]
    exact congrArg Body.power hb
  · obtain ⟨c, -, hv, hlast⟩ := foldl_at (f := (Body.heated · hold (fun q => l.getD q 0) steps)) (same := fun _ _ => True)
      (v := fun b k => (b.reg (.wtQuayClk k), b.reg (.wtLoopStat k))) (fun _ => trivial) (fun _ _ _ _ _ => trivial) (fun _ _ => trivial)
      (fun c j k h => Prod.ext (reg_heated_ne _ _ _ _ _ (wtQuayClk_addr_ne h) (wtQuayClk_ne_wtLoopStat k j))
        (reg_heated_ne _ _ _ _ _ (wtQuayClk_ne_wtLoopStat j k).symm (wtLoopStat_addr_ne h))) List.nodup_range (List.mem_range.2 hq) b
    obtain ⟨-, hloop⟩ := Prod.mk.inj hv
    obtain ⟨hclkEnd, hloopEnd⟩ := Prod.mk.inj hlast
    have hstepq : steps q = step q := by rw [hsteps]; exact getD_map_range step hq
    refine ⟨(getF_of_reg_eq hclkEnd _).trans (heated_shows c hold _ steps hq), ?_⟩
    have hcount := heated_counts c hold (fun q => l.getD q 0) steps hq
    rw [hstepq] at hcount
    exact counted_from (hcount.of_reg hloopEnd) (getF_of_reg_eq (hloop.trans (hreg _)) _)
  · rw [foldl_keep Body.hm _ _ _ fun b q => hm_heated b .., hb]

end

/-! ### Droops and overcurrents -/

section
variable {s : State} {q : Fin 10}

theorem exec_droop : exec (.droop q) s = .next { s with body := if q.val ∈ s.body.power.stretch ∨ ¬ s.body.quayUp q then s.body
    else { s.body with power.stretch := s.body.power.stretch ++ [q.val] }.bump (.wtLoopStat q) Fld.wtLoopStatDroop 1 } := rfl

theorem droop_idle (h : q.val ∈ s.body.power.stretch ∨ s.body.quayUp q.val = false) : exec (.droop q) s = .next s :=
  exec_of_stopped exec_droop (h.imp_right fun h => by rw [h]; exact Bool.false_ne_true)

theorem droop_stretches (hnew : q.val ∉ s.body.power.stretch) (hup : s.body.quayUp q.val = true) : Gives (.droop q) s fun t =>
    t.power = { s.body.power with stretch := s.body.power.stretch ++ [q.val] } ∧
      Counted s.body t (.wtLoopStat q.val) Fld.wtLoopStatDroop 1 ∧ SameRegsBut s.body t [(Reg.wtLoopStat q.val).addr] ∧
      SameBytes s.body t ∧ t.hm = s.body.hm := by
  have hi := exec_droop (s := s) (q := q)
  rw [if_neg (not_or.2 ⟨hnew, not_not_intro hup⟩)] at hi
  have hset : SameBut [(Reg.wtLoopStat q.val).addr] s.body { s.body with power.stretch := s.body.power.stretch ++ [q.val] } :=
    (SameBut.refl _ s.body).beside rfl rfl rfl rfl rfl
  have hall := hset.bump (List.mem_singleton_self _) Fld.wtLoopStatDroop 1
  refine gives_of_next hi ⟨?_, ?_, hall.regs, hall.bytes, ?_⟩
  · rw [Body.bump_power]
  · exact counted_from (counted_bump _ 1 (decide_eq_true q.isLt) (wtLoopStat_stored _) (by decide) (by decide)) (Body.getF_congr rfl _ _)
  · rw [Body.bump_hm]

theorem droopRelease_ends : Gives (.droopRelease q) s fun t =>
    t = { s.body with power := { s.body.power with stretch := t.power.stretch } } ∧
      ∀ k, k ∈ t.power.stretch ↔ k ∈ s.body.power.stretch ∧ k ≠ q.val := by
  have hi : exec (.droopRelease q) s = .next { s with
      body := { s.body with power.stretch := s.body.power.stretch.filter fun x => decide (x ≠ q.val) } } := rfl
  exact gives_of_next hi ⟨rfl, fun k => by simp only [List.mem_filter, decide_eq_true_eq]⟩

theorem addSteps_getD (l : List Nat) (o : Option Nat) (n : Nat) {k : Nat} (hk : k < 10) :
    (addSteps l o n).getD k 0 = if o.all (fun x => decide (x = k)) = true then min 54 (l.getD k 0 + n) else l.getD k 0 :=
  getD_map_range _ hk

variable (hfree : s.body.power.holdWatch = false)
include hfree

theorem railOvercurrent_steps : Gives (.railOvercurrent q) s fun t =>
    t = { s.body with power := { s.body.power with curSteps := t.power.curSteps } } ∧
      ∀ k, k < 10 → t.power.curSteps.getD k 0 = if k = q.val then min 54 (s.body.power.curSteps.getD k 0 + 4) else s.body.power.curSteps.getD k 0 := by
  have hi : exec (.railOvercurrent q) s = .next { s with body := if s.body.power.holdWatch = true then s.body
      else { s.body with power.curSteps := addSteps s.body.power.curSteps (some q.val) 4 } } := rfl
  rw [if_neg (by rw [hfree]; exact Bool.false_ne_true)] at hi
  refine gives_of_next hi ⟨rfl, fun k hk => ?_⟩
  change (addSteps _ _ _).getD k 0 = _
  rw [addSteps_getD _ _ _ hk, Option.all_some]
  simp only [decide_eq_true_eq, eq_comm (a := q.val)]

theorem inputOvercurrent_steps : Gives .inputOvercurrent s fun t =>
    t = { s.body with power := { s.body.power with curSteps := t.power.curSteps } } ∧
      ∀ k, k < 10 → t.power.curSteps.getD k 0 = min 54 (s.body.power.curSteps.getD k 0 + 5) := by
  have hi : exec .inputOvercurrent s = .next { s with body := if s.body.power.holdWatch = true then s.body
      else { s.body with power.curSteps := addSteps s.body.power.curSteps none 5 } } := rfl
  rw [if_neg (by rw [hfree]; exact Bool.false_ne_true)] at hi
  refine gives_of_next hi ⟨rfl, fun k hk => ?_⟩
  change (addSteps _ _ _).getD k 0 = _
  rw [addSteps_getD _ _ _ hk, Option.all_none, if_pos rfl]

theorem currentCeilingRelease_steps : Gives (.currentCeilingRelease q) s fun t =>
    t = { s.body with power := { s.body.power with curSteps := t.power.curSteps } } ∧
      ∀ k, t.power.curSteps.getD k 0 = if k = q.val then s.body.power.curSteps.getD k 0 - 1 else s.body.power.curSteps.getD k 0 := by
  have hi : exec (.currentCeilingRelease q) s = .next { s with body := if s.body.power.holdWatch = true then s.body
      else { s.body with power.curSteps := s.body.power.curSteps.set q (s.body.power.curSteps.getD q 0 - 1) } } := rfl
  rw [if_neg (by rw [hfree]; exact Bool.false_ne_true)] at hi
  refine gives_of_next hi ⟨rfl, fun k => ?_⟩
  change (s.body.power.curSteps.set q.val _).getD k 0 = _
  simp only [List.getD_eq_getElem?_getD, List.getElem?_set]
  by_cases hk : k = q.val
  · subst hk
    by_cases hin : q.val < s.body.power.curSteps.length
    · simp [hin]
    · simp [hin]
  · rw [if_neg (Ne.symm hk), if_neg hk]

end

/-! ### A low input and a lost REFCLK -/

section
variable {s : State}

theorem inputLow_recorded {mv : Nat} (hup : s.body.boot.phase ≠ .off) (hlow : s.body.power.inputLow = false) : Gives (.inputLow mv) s fun t =>
    t.power = { s.body.power with inputLow := true } ∧ SameRegsBut s.body t [] ∧ SameBytes s.body t ∧ t.hm = s.body.hm := by
  have hi : exec (.inputLow mv) s = .next { s with body := if s.body.boot.phase = .off ∨ s.body.power.inputLow = true then s.body
      else { s.body with power := { s.body.power with inputLow := true } }.err 0x0903 2 10 0 [mv] } := rfl
  rw [if_neg (not_or.2 ⟨hup, by rw [hlow]; exact Bool.false_ne_true⟩)] at hi
  have hset : SameBut [] s.body { s.body with power := { s.body.power with inputLow := true } } :=
    (SameBut.refl _ s.body).beside rfl rfl rfl rfl rfl
  have hall := hset.err 0x0903 2 10 0 [mv] 0 0xFFFF
  refine gives_of_next hi ⟨?_, hall.regs, hall.bytes, ?_⟩
  · rw [Body.err_power]
  · rw [Body.err_hm]

/-- A Line that is UP loses lock. -/
def Body.lockLost (b : Body) (l : Nat) : Body := if b.lineUp l then b.trainLine l false else b

/-- A sub-port is down until its link trains again. -/
def Body.linkLost (b : Body) (p : Nat) : Body :=
  (b.setF (.epPortStat p) Fld.epPortStatLink 0).updPort p fun q => { q with paused := none, stormed := false }

theorem power_trainLine (b : Body) (l : Nat) (rise : Bool) : (b.trainLine l rise).power = b.power := by
  obtain ⟨st, htrain⟩ := trainLine_eq b l rise
  rw [htrain, Body.log_power]
  unfold Body.trainStat
  split
  · rw [Body.bump_power, Body.setF_power]; rfl
  · rw [Body.setF_power]; rfl

/-- What lost locks leave: the power module's state, the host module's, and every byte. -/
def LockSame (b c : Body) : Prop := c.power = b.power ∧ c.hm = b.hm ∧ SameBytes b c

theorem LockSame.refl (b : Body) : LockSame b b := ⟨rfl, rfl, fun _ => rfl⟩

theorem LockSame.trans {b c d : Body} (h : LockSame b c) (g : LockSame c d) : LockSame b d := by
  obtain ⟨hpower, hhm, hbytes⟩ := h
  obtain ⟨gpower, ghm, gbytes⟩ := g
  exact ⟨gpower.trans hpower, ghm.trans hhm, hbytes.trans gbytes⟩

theorem lockSame_lockLost (b : Body) (l : Nat) : LockSame b (b.lockLost l) := by
  unfold Body.lockLost
  split
  · exact ⟨power_trainLine b l false, hm_trainLine b false, (sameBut_trainLine b false).bytes⟩
  · exact LockSame.refl b

theorem lockSame_linkLost (b : Body) (p : Nat) : LockSame b (b.linkLost p) :=
  ⟨Body.setF_power .., Body.setF_hm .., sameBytes_of_memory (memory_setF b _ _ _)⟩

theorem lnStat_addr_ne {l j : Nat} (h : j ≠ l) : (Reg.lnStat l).addr ≠ (Reg.lnStat j).addr := by simp only [Reg.addr]; omega

theorem epPortStat_addr_ne {p j : Nat} (h : j ≠ p) : (Reg.epPortStat p).addr ≠ (Reg.epPortStat j).addr := by simp only [Reg.addr]; omega

theorem lnStat_ne_epPortStat {l p : Nat} (hl : l < 36) (hp : p < 8) : (Reg.lnStat l).addr ≠ (Reg.epPortStat p).addr := by
  simp only [Reg.addr]
  omega

theorem lockLost_trains (b : Body) {l : Nat} (hl : l < 36) :
    (b.lockLost l).lineState l = if b.lineUp l = true then 3 else b.lineState l := by
  unfold Body.lockLost
  split
  next hup => rw [lineState_trainLine b hl, if_pos (.inl (of_decide_eq_true hup))]
  next => rfl

theorem loseLock_eq (b : Body) : b.loseLock = (List.range 8).foldl Body.linkLost ((List.range 36).foldl Body.lockLost b) := rfl

theorem lockSame_loseLock (b : Body) : LockSame b b.loseLock := by
  rw [loseLock_eq]
  exact (foldl_same LockSame.refl (fun _ _ _ => LockSame.trans) (fun c l _ => lockSame_lockLost c l) b).trans
    (foldl_same LockSame.refl (fun _ _ _ => LockSame.trans) (fun c p _ => lockSame_linkLost c p) _)

theorem lineState_loseLock (b : Body) {l : Nat} (hl : l < 36) : b.loseLock.lineState l = if b.lineUp l = true then 3 else b.lineState l := by
  obtain ⟨c, -, hv, hlast⟩ := foldl_at (f := Body.lockLost) (same := fun _ _ => True) (v := fun b k => b.reg (.lnStat k)) (fun _ => trivial)
    (fun _ _ _ _ _ => trivial) (fun _ _ => trivial) (fun c j k h => by
      unfold Body.lockLost
      split
      · exact reg_trainLine c false (lnStat_addr_ne h)
      · rfl) List.nodup_range (List.mem_range.2 hl) b
  have hports := foldl_same (f := Body.linkLost) (l := List.range 8) (same := fun b c => c.reg (.lnStat l) = b.reg (.lnStat l)) (fun _ => rfl)
    (fun _ _ _ h g => g.trans h) (fun c p hp => Body.reg_setF_ne c _ _ (lnStat_ne_epPortStat hl (List.mem_range.1 hp)))
    ((List.range 36).foldl Body.lockLost b)
  have hstate : c.lineState l = b.lineState l := getF_of_reg_eq hv _
  rw [loseLock_eq, Body.lineState, getF_of_reg_eq (hports.trans hlast), ← Body.lineState, lockLost_trains c hl, Body.lineUp, Body.lineUp, hstate]

theorem link_loseLock (b : Body) {p : Nat} (hp : p < 8) : b.loseLock.getF (.epPortStat p) Fld.epPortStatLink = 0 := by
  obtain ⟨c, -, -, hlast⟩ := foldl_at (f := Body.linkLost) (same := fun _ _ => True) (v := fun b k => b.reg (.epPortStat k)) (fun _ => trivial)
    (fun _ _ _ _ _ => trivial) (fun _ _ => trivial) (fun c j k h => Body.reg_setF_ne c _ _ (epPortStat_addr_ne h)) List.nodup_range
    (List.mem_range.2 hp) ((List.range 36).foldl Body.lockLost b)
  rw [loseLock_eq, getF_of_reg_eq hlast]
  exact (getF_setF_fields c 0 (epPortStat_ok hp) (epPortStat_stored p) (by decide)).trans (if_pos rfl)

theorem refclkLoss_loses {us : Nat} (hup : s.body.boot.phase ≠ .off) (href : s.body.power.refclk = true) : Gives (.refclkLoss us) s fun t =>
    t.power = { s.body.power with refclk := false } ∧
      (∀ l, l < 36 → t.lineState l = (if s.body.lineUp l = true then 3 else s.body.lineState l)) ∧
      (∀ p, p < 8 → t.getF (.epPortStat p) Fld.epPortStatLink = 0) ∧ SameBytes s.body t ∧ t.hm = s.body.hm := by
  obtain ⟨b, hb⟩ : ∃ b, b = { s.body with power := { s.body.power with refclk := false } }.err 0x0902 2 10 0 [us] := ⟨_, rfl⟩
  have hi : exec (.refclkLoss us) s = .next { s with body := if s.body.boot.phase = .off ∨ ¬ s.body.power.refclk = true then s.body
      else b.loseLock } := by rw [hb]; rfl
  rw [if_neg (not_or.2 ⟨hup, not_not_intro href⟩)] at hi
  have hpower : b.power = { s.body.power with refclk := false } := by rw [hb, Body.err_power]
  have hhm : b.hm = s.body.hm := by rw [hb, Body.err_hm]
  have hset : SameBut [] s.body { s.body with power := { s.body.power with refclk := false } } :=
    (SameBut.refl _ s.body).beside rfl rfl rfl rfl rfl
  have hbytes : SameBytes s.body b := hb ▸ (hset.err 0x0902 2 10 0 [us] 0 0xFFFF).bytes
  have hstate : ∀ l, l < 36 → b.lineState l = s.body.lineState l := fun l hl => by
    rw [hb, Body.lineState, getF_of_reg_eq ((unnoted_lnStat hl).error ..)]
    rfl
  obtain ⟨gpower, ghm, gbytes⟩ := lockSame_loseLock b
  refine gives_of_next hi ⟨gpower.trans hpower, fun l hl => ?_, fun p hp => link_loseLock b hp, hbytes.trans gbytes, ghm.trans hhm⟩
  rw [lineState_loseLock b hl, Body.lineUp, Body.lineUp, hstate l hl]

end

/-- Settles O56: each step of ACLK_UPDATE, MPL_EVALUATION, THERMAL_STEP and a lost REFCLK writes its own Quay's, Line's or sub-port's
registers alone, so what each shows at the end is what its own step gave it. -/
theorem clocksAndProtections : Obligations.ClocksAndProtections := by
  unfold Obligations.ClocksAndProtections
  rintro s w clk loop rfl rfl rfl
  refine ⟨exec_clocks_of_off, exec_loops_of_holdWatch, aclkUpdate_sets, ?_, ?_, fun q => ⟨droop_idle, droop_stretches, droopRelease_ends, ?_⟩,
    inputOvercurrent_steps, fun _ => inputLow_recorded, gives_of_next rfl rfl, fun _ => refclkLoss_loses, gives_of_next rfl rfl⟩
  · exact fun c fl k cap lim hk hcap hlim hd =>
      ⟨pwLimit_module hk hcap hd, pwLimit_refused hk hcap hd, pwLimit_part hk hcap hd hlim⟩
  · exact fun hup hfree => ⟨fun _ _ _ _ => powerSample_samples hup hfree, fun _ _ _ => mplEvaluation_meets hup hfree,
      fun _ _ _ => thermalStep_steps hup hfree⟩
  · exact fun hfree => ⟨railOvercurrent_steps hfree, currentCeilingRelease_steps hfree⟩

end Sys2Proof.Machine
end

section
/-! PROOFS. Telemetry (R458, R460-R462, R464, R466, R476): what is read, pushes, and LOG_CTL. -/

namespace Sys2Proof.Machine

/-! ### Commands that write what they read -/

/-- What a command that writes `data` may change before it does: nothing that its access, memory or other registers show. -/
structure ReadReady (b c : Body) : Prop where
  checks : SameChecks b c
  memory : SameMemory b c
  same : SameBut [] b c
  hm : c.hm = b.hm

theorem readReady_refl (b : Body) : ReadReady b b :=
  ⟨⟨fun _ _ => rfl, rfl, rfl, rfl, rfl⟩, SameMemory.refl b, SameBut.refl [] b, rfl⟩

theorem readReady_clampCmd (b : Body) (fl : Flight) (n : Nat) : ReadReady b (b.clampCmd fl n) :=
  ⟨sameChecks_clampCmd b fl n, sameMemory_clampCmd b fl n, (SameBut.refl [] b).clampCmd fl n, Body.clampCmd_hm b fl n⟩

/-- A command that writes `data` at an offset of a handle. -/
def WritesOut (s : State) (c : Cmd) (i : Instr) (fl : Flight) (off : Nat) (data : List Byte) : Prop :=
  ∃ b, ReadReady s.body b ∧ exec i s = .next { s with body := b.outWrite fl (c.h 1) off data }

section
variable {s : State} {c : Cmd} {i : Instr} {fl : Flight} {off : Nat} {data : List Byte} (h : WritesOut s c i fl off data)
include h

theorem WritesOut.refused {st : Nat} (hacc : s.body.accessHere fl.slot (c.h 1) off data.length true = .error st) :
    Gives i s fun t => OnlyEnds s.body t fl st 0 [] := by
  obtain ⟨b, hb, hi⟩ := h
  refine gives_of_next hi ?_
  rw [outWrite_refused ((hb.checks.accessHere ..).trans hacc)]
  exact hb.same.fail fl _ _ _

theorem WritesOut.writes {e : Entry} (hacc : s.body.accessHere fl.slot (c.h 1) off data.length true = .ok e) (hplain : PlainMemory s.body) :
    Gives i s fun t => EndsWith s.body t fl 0 0 ∧ t.bytes (e.base + off) data.length = data ∧
      SameBytesBut s.body t (e.base + off) data.length := by
  obtain ⟨b, hb, hi⟩ := h
  obtain ⟨hend, hbytes, hrest⟩ := outWrite_writes (hb.memory.plain hplain) ((hb.checks.accessHere ..).trans hacc)
  rw [EndsWith, hb.hm] at hend
  exact gives_of_next hi ⟨hend, hbytes, fun x hx => (hrest x hx).trans (hb.memory.bytes x)⟩

end

section
variable {s : State} {c : Cmd} {fl : Flight}

theorem telRead_writes (hd : Dispatched s.body c 0x88 fl) {id k : Nat} (hid : id = if c.f 1 15 0 = 0xFFFF then c.ctx.toNat else c.f 1 15 0)
    (hmay : id = c.ctx.toNat ∨ s.body.level 0 = true) (hslot : s.body.slotOf id = some k) (hk : k < 64) :
    WritesOut s c (.telRead c) fl (32 * c.f 1 37 18) ((List.range 16).flatMap fun i => leBytes 8 (s.body.reg (.hmCtxCnt k i)).toNat) := by
  refine ⟨s.body, readReady_refl _, ?_⟩
  rw [exec_onCmd hd rfl]
  dsimp only
  rw [← hid, if_neg (by tauto), hslot]
  dsimp only
  rw [if_neg (Nat.not_le.2 hk)]

theorem telRead_unseen (hd : Dispatched s.body c 0x88 fl) (hother : c.f 1 15 0 ≠ 0xFFFF) (hid : c.f 1 15 0 ≠ c.ctx.toNat)
    (hlevel : s.body.level 0 = false) : Gives (.telRead c) s fun t => OnlyEnds s.body t fl 0x60 0 [] := by
  have hi : exec (.telRead c) s = .next { s with body := s.body.fail fl 0x60 } := by
    rw [exec_onCmd hd rfl]
    dsimp only
    rw [if_neg hother, if_pos ⟨hid, by rw [hlevel]; exact Bool.false_ne_true⟩]
  exact gives_of_next hi ((SameBut.refl [] s.body).fail fl _ _ _)

theorem telRead_absent (hd : Dispatched s.body c 0x88 fl) (hother : c.f 1 15 0 ≠ 0xFFFF) (hlevel : s.body.level 0 = true)
    (hslot : s.body.slotOf (c.f 1 15 0) = none) : Gives (.telRead c) s fun t => OnlyEnds s.body t fl 0x11 0 [] := by
  have hi : exec (.telRead c) s = .next { s with body := s.body.fail fl 0x11 } := by
    rw [exec_onCmd hd rfl]
    dsimp only
    rw [if_neg hother, if_neg (fun h => h.2 hlevel), hslot]
  exact gives_of_next hi ((SameBut.refl [] s.body).fail fl _ _ _)

theorem telSnap_writes (hd : Dispatched s.body c 0x89 fl) :
    WritesOut s c (.telSnap c) fl 0 (s.body.snapBytes (c.f 1 15 0 % 2048) 0) :=
  ⟨s.body, readReady_refl _, by rw [exec_onCmd hd rfl]⟩

theorem reg_clampCmd_of_ne (b : Body) (fl : Flight) (n : Nat) {q : Reg} (htally : q.addr ≠ Reg.hmClampTally.addr)
    (hcnt : ∀ k < 64, q.addr ≠ (Reg.hmCtxCnt k 15).addr) : (b.clampCmd fl n).reg q = b.reg q := by
  unfold Body.clampCmd Body.count
  split
  next hslot => rw [Body.reg_bump_ne _ _ _ (hcnt _ hslot), Body.reg_clamps_ne _ _ _ _ htally]
  next => exact Body.reg_clamps_ne _ _ _ _ htally

theorem wtLogFreeze_clampCmd (b : Body) (fl : Flight) (n : Nat) : (b.clampCmd fl n).reg .wtLogFreeze = b.reg .wtLogFreeze :=
  reg_clampCmd_of_ne b fl n (by simp only [Reg.addr]; omega) fun k hk => by simp only [Reg.addr]; omega

theorem hmErrStat_clampCmd (b : Body) (fl : Flight) (n : Nat) : (b.clampCmd fl n).reg .hmErrStat = b.reg .hmErrStat :=
  reg_clampCmd_of_ne b fl n (by simp only [Reg.addr]; omega) fun k hk => by simp only [Reg.addr]; omega

theorem level_clampCmd (b : Body) (fl : Flight) (n i : Nat) : (b.clampCmd fl n).level i = b.level i := by
  rw [Body.level, getF_of_reg_eq (unnoted_scDebugStat.clampCmd _ _ _), Body.level]

theorem logbook_clampCmd (b : Body) (fl : Flight) (n kind i ctx : Nat) : (b.clampCmd fl n).logbook kind i ctx = b.logbook kind i ctx := by
  rw [Body.logbook, Body.clampCmd_tele, getF_of_reg_eq (wtLogFreeze_clampCmd b fl n), level_clampCmd, Body.logbook]

theorem logRead_writes (hd : Dispatched s.body c 0x8B fl) (hkind : c.f 1 3 0 ≤ 10) (hfirst : c.f 2 15 0 < logUnits (c.f 1 3 0))
    (hlast : c.f 2 31 16 < logUnits (c.f 1 3 0)) : WritesOut s c (.logRead c) fl 0
      ((List.range (c.f 2 31 16 + 1 - c.f 2 15 0)).flatMap fun i => s.body.logbook (c.f 1 3 0) (c.f 2 15 0 + i) c.ctx.toNat) := by
  refine ⟨_, readReady_clampCmd _ fl (diff (c.f 1 3 0) (c.f 1 3 0) + diff (c.f 2 15 0) (c.f 2 15 0) + diff (c.f 2 31 16) (c.f 2 31 16)), ?_⟩
  rw [exec_onCmd hd rfl]
  dsimp only
  rw [min_eq_right hkind, min_eq_right (Nat.le_sub_one_of_lt hfirst), min_eq_right (Nat.le_sub_one_of_lt hlast)]
  simp only [logbook_clampCmd]

theorem errRead_writes (hd : Dispatched s.body c 0x8F fl) {ring : List (Nat × ErrRec)} {next lost n : Nat} {rs : List (Nat × ErrRec)}
    (hn : n = max 1 (min 1024 (c.f 2 42 32)))
    (hring : (ring, next, lost) = if c.b 1 0 = true then (s.body.tele.errWatch, s.body.tele.watchSeq, s.body.getF .wtLogFreeze Fld.wtLogFreezeWLost)
      else (s.body.tele.errMain, s.body.getF .hmErrStat Fld.hmErrStatNextSeq, s.body.getF .hmErrStat Fld.hmErrStatLost))
    (hrs : rs = (ring.filter fun x => decide (c.f 2 31 0 ≤ x.1) && (fl.priv || decide (x.2.ctx = c.ctx.toNat))).take n) :
    WritesOut s c (.errRead c) fl 0
      (leBytes 4 rs.length ++ leBytes 4 next ++ leBytes 4 lost ++ leBytes 4 0 ++ rs.flatMap fun x => errBytes x.1 x.2) := by
  refine ⟨_, readReady_clampCmd _ fl (diff n (c.f 2 42 32)), ?_⟩
  rw [exec_onCmd hd rfl]
  dsimp only
  rw [Body.clampCmd_tele, getF_of_reg_eq (wtLogFreeze_clampCmd _ _ _), getF_of_reg_eq (hmErrStat_clampCmd _ _ _),
    getF_of_reg_eq (hmErrStat_clampCmd _ _ _), ← hring, hrs, hn]

end

/-! ### TEL_PUSH and pushes -/

section
variable {s : State} {c : Cmd} {fl : Flight} {ms : Nat}

theorem hmTelCfg_stored : Reg.hmTelCfg.stored := by simp [Reg.stored]

theorem unnoted_hmTelCfg : Reg.hmTelCfg.Unnoted := by constructor <;> simp only [Reg.addr] <;> omega

/-- The push that TEL_PUSH asks for. -/
def telPushOf (c : Cmd) (ms slot seq : Nat) : TelPush :=
  TelPush.mk (c.f 1 15 0 % 2048) ms (c.f 1 40 32) (c.w 2).toNat (c.f 3 31 0) (c.h 4) slot seq true none

/-- A body whose pushes are those TEL_PUSH asks for. -/
def Body.pushSet (b : Body) (c : Cmd) (ms slot : Nat) : Body :=
  ({ b with tele.push := telPushOf c ms slot b.tele.push.seq }.setF .hmTelCfg Fld.hmTelCfgGroups (c.f 1 15 0 % 2048)).setF .hmTelCfg
    Fld.hmTelCfgPeriodMs ms

end

/-! ### What a command's end leaves of the telemetry -/

section
variable {γ : Type} {p : Tele → γ} (hlogs : ∀ t l, p { t with logs := l } = p t)
include hlogs

theorem tele_log (b : Body) (kind unit code status ctx tag arg : Nat) : p (b.log kind unit code status ctx tag arg).tele = p b.tele := by
  unfold Body.log
  split
  · rfl
  · exact hlogs _ _

theorem tele_retire (hdbg : ∀ t x, p { t with dbg := x } = p t) (b : Body) (fl : Flight) (st r : Nat) (e : Bool) :
    p (b.retire fl st r e).tele = p b.tele := by
  have hfreeze : ∀ (q : Prop) [Decidable q] (b : Body), p (if q then b.freezeLogs 2 else b).tele = p b.tele := fun q _ b => by
    split
    · rw [Body.freezeLogs_tele]
    · rfl
  rw [Body.retire]
  dsimp only
  rw [hfreeze, tele_log hlogs, Body.syncShadow_tele]
  exact hdbg _ _

variable (hpend : ∀ t l, p { t with errPend := l } = p t) (hwatch : ∀ t l n, p { t with errWatch := l, watchSeq := n } = p t)
include hpend hwatch

theorem tele_raise (b : Body) (r : ErrRec) : p (b.raise r).tele = p b.tele := by
  have hto : ∀ b : Body, p (b.errToWatch r).tele = p b.tele := fun b => by
    unfold Body.errToWatch
    dsimp only
    rw [hwatch]
    split
    · rw [Body.bump_tele]
    · rfl
  have hfirst : p (if r.sev = 2 then b.errToWatch r else b).tele = p b.tele := by
    split
    · exact hto b
    · rfl
  unfold Body.raise
  dsimp only
  rw [tele_log hlogs, ← hfirst]
  generalize (if r.sev = 2 then b.errToWatch r else b) = c
  split
  · exact hpend _ _
  · rw [Body.bump_tele]

theorem tele_fail (hdbg : ∀ t x, p { t with dbg := x } = p t) (b : Body) (fl : Flight) (st d0 d1 : Nat) :
    p (b.fail fl st d0 d1).tele = p b.tele := by
  unfold Body.fail
  split
  · exact tele_retire hlogs hdbg ..
  · rw [Body.failWith, tele_retire hlogs hdbg, tele_raise hlogs hpend hwatch]

end

theorem push_done (b : Body) (fl : Flight) (r : Nat) : (b.done fl r).tele.push = b.tele.push :=
  tele_retire (p := Tele.push) (fun _ _ => rfl) (fun _ _ => rfl) ..

theorem push_fail (b : Body) (fl : Flight) (st d0 d1 : Nat) : (b.fail fl st d0 d1).tele.push = b.tele.push :=
  tele_fail (p := Tele.push) (fun _ _ => rfl) (fun _ _ => rfl) (fun _ _ _ => rfl) (fun _ _ => rfl) ..

theorem probe_done (b : Body) (fl : Flight) (r : Nat) : (b.done fl r).tele.probe = b.tele.probe :=
  tele_retire (p := Tele.probe) (fun _ _ => rfl) (fun _ _ => rfl) ..

theorem probe_fail (b : Body) (fl : Flight) (st d0 d1 : Nat) : (b.fail fl st d0 d1).tele.probe = b.tele.probe :=
  tele_fail (p := Tele.probe) (fun _ _ => rfl) (fun _ _ => rfl) (fun _ _ _ => rfl) (fun _ _ => rfl) ..

/-! ### TEL_PUSH -/

section
variable {s : State} {c : Cmd} {fl : Flight} {ms : Nat} (hms : ms = if c.f 1 31 16 = 0 then 0 else max 10 (c.f 1 31 16))
  (hd : Dispatched s.body c 0x8A fl)
include hms hd

theorem telPush_stale (hpeer : c.h 4 ≠ 0) (hnone : s.body.resolve fl.slot (c.h 4) = none) : Gives (.telPush c) s fun t =>
    OnlyEnds s.body t fl 0x12 0 [] ∧ t.tele.push = s.body.tele.push := by
  have hi : exec (.telPush c) s = .next { s with body := (s.body.clampCmd fl (diff ms (c.f 1 31 16))).fail fl 0x12 (c.h 4) } := by
    rw [exec_onCmd hd rfl]
    dsimp only
    rw [if_neg hpeer, (sameChecks_clampCmd ..).resolve, hnone, hms]
  refine gives_of_next hi ⟨((SameBut.refl [] s.body).clampCmd fl _).fail fl _ _ _, ?_⟩
  rw [push_fail, Body.clampCmd_tele]

theorem telPush_refused (hpeer : c.h 4 ≠ 0) {e : Entry} (he : s.body.resolve fl.slot (c.h 4) = some e) (hbad : e.place ≠ 5 ∨ e.wr = false) :
    Gives (.telPush c) s fun t => OnlyEnds s.body t fl 0x11 0 [] ∧ t.tele.push = s.body.tele.push := by
  have hno : ¬ (e.place = 5 ∧ e.wr = true) := fun ⟨hplace, hwr⟩ => hbad.elim (· hplace) fun h => Bool.false_ne_true (h.symm.trans hwr)
  have hi : exec (.telPush c) s = .next { s with body := (s.body.clampCmd fl (diff ms (c.f 1 31 16))).fail fl 0x11 (c.h 4) } := by
    rw [exec_onCmd hd rfl]
    dsimp only
    rw [if_neg hpeer, (sameChecks_clampCmd ..).resolve, he, hms]
    dsimp only
    rw [if_neg hno]
  refine gives_of_next hi ⟨((SameBut.refl [] s.body).clampCmd fl _).fail fl _ _ _, ?_⟩
  rw [push_fail, Body.clampCmd_tele]

theorem exec_telPush_set (hgood : c.h 4 = 0 ∨ ∃ e, s.body.resolve fl.slot (c.h 4) = some e ∧ e.place = 5 ∧ e.wr = true) :
    exec (.telPush c) s = .next { s with body := ((s.body.clampCmd fl (diff ms (c.f 1 31 16))).pushSet c ms fl.slot).done fl } := by
  rw [exec_onCmd hd rfl]
  dsimp only
  obtain hzero | ⟨e, he, hok⟩ := hgood
  · rw [if_pos hzero, hms]
    rfl
  · rw [(sameChecks_clampCmd ..).resolve, he, hms]
    dsimp only
    rw [if_pos hok, ite_self]
    rfl

theorem telPush_set (hgood : c.h 4 = 0 ∨ ∃ e, s.body.resolve fl.slot (c.h 4) = some e ∧ e.place = 5 ∧ e.wr = true) :
    Gives (.telPush c) s fun t => OnlyEnds s.body t fl 0 0 [Reg.hmTelCfg.addr] ∧ t.getF .hmTelCfg Fld.hmTelCfgGroups = c.f 1 15 0 % 2048 ∧
      t.getF .hmTelCfg Fld.hmTelCfgPeriodMs = ms ∧ t.tele.push = telPushOf c ms fl.slot s.body.tele.push.seq := by
  have hmem := List.mem_singleton_self Reg.hmTelCfg.addr
  obtain ⟨b, hb⟩ : ∃ b, b = s.body.clampCmd fl (diff ms (c.f 1 31 16)) := ⟨_, rfl⟩
  have htele : b.tele = s.body.tele := by rw [hb, Body.clampCmd_tele]
  have hsame : SameBut [Reg.hmTelCfg.addr] s.body b := hb ▸ (SameBut.refl _ s.body).clampCmd fl _
  have hpush : SameBut [Reg.hmTelCfg.addr] s.body { b with tele.push := telPushOf c ms fl.slot b.tele.push.seq } :=
    hsame.beside rfl rfl rfl rfl rfl
  have hall : SameBut [Reg.hmTelCfg.addr] s.body (b.pushSet c ms fl.slot) := (hpush.setF hmem _ _).setF hmem _ _
  have hget := fun f => getF_of_reg_eq (unnoted_hmTelCfg.done (b.pushSet c ms fl.slot) fl 0) f
  have hset := fun (b : Body) (f g : Fld) v => getF_setF_fields b v (r := .hmTelCfg) (f := f) (g := g) rfl hmTelCfg_stored
  have hms16 : ms < 65536 := by
    have := cmd_f_lt c 1 31 16
    rw [hms]
    split <;> omega
  have hi := exec_telPush_set hms hd hgood
  rw [← hb] at hi
  refine gives_of_next hi ⟨hall.done fl 0, ?_, ?_, ?_⟩
  · rw [hget, Body.pushSet, hset _ _ _ _ (by decide), if_neg (by decide), hset _ _ _ _ (by decide), if_pos rfl]
    exact Nat.mod_eq_of_lt (lt_of_lt_of_le (Nat.mod_lt _ (by decide)) (by decide))
  · rw [hget, Body.pushSet, hset _ _ _ _ (by decide), if_pos rfl]
    exact Nat.mod_eq_of_lt hms16
  · rw [push_done, Body.pushSet, Body.setF_tele, Body.setF_tele, htele]

end

/-! ### TELEMETRY_PUSH -/

section
variable {x : Tele} {m : SMap Byte × List (Nat × Nat × Nat) × SMap Nat}

/-- What sending over a Line leaves of the telemetry and of memory. -/
theorem sendRule_tele (x : Tele) (m : SMap Byte × List (Nat × Nat × Nat) × SMap Nat) :
    SendRule (fun _ => True) fun c => c.tele = x ∧ c.memory = m where
  up _ _ := trivial
  line _ _ h := h
  send _ h := h
  free h := h
  capped _ h := ⟨(Body.bump_tele ..).trans h.1, (memory_setF ..).trans h.2⟩
  count _ _ _ h := ⟨(Body.count_tele ..).trans h.1, by unfold Body.count; split; exacts [(memory_setF ..).trans h.2, h.2]⟩

theorem rdmaOut_tele {b : Body} (h : b.tele = x ∧ b.memory = m) (k va rkey : Nat) (data : List Byte) :
    (b.rdmaOut k va rkey data).tele = x ∧ (b.rdmaOut k va rkey data).memory = m := by
  unfold Body.rdmaOut
  split
  · exact (sendRule_tele x m).count _ _ _ h
  · exact h

/-- A push with a number is on its way, unacknowledged, and memory is `m`. -/
def PushGone (seq : Nat) (m : SMap Byte × List (Nat × Nat × Nat) × SMap Nat) (c : Body) : Prop :=
  c.tele.push.seq = seq ∧ c.tele.push.acked = false ∧ c.memory = m

theorem PushGone.of_kept {c d : Body} {seq : Nat} (h : PushGone seq m c) (hd : d.tele = c.tele ∧ d.memory = c.memory) : PushGone seq m d := by
  rwa [PushGone, hd.1, hd.2]

/-- A push that goes out takes the next number, unacknowledged, and changes no byte. -/
theorem pushOut_some {b d : Body} {seq : Nat} (h : b.pushOut seq = some d) : PushGone seq b.memory d := by
  unfold Body.pushOut at h
  dsimp only at h
  split at h
  · split at h
    · obtain rfl := Option.some.inj h
      exact foldl_inv (PushGone seq b.memory) _ _ _ ⟨rfl, rfl, rfl⟩ fun c w hc => hc.of_kept (rdmaOut_tele ⟨rfl, rfl⟩ _ _ _ _)
    · cases h
  · split at h
    · cases h
    next e _ =>
      have hpicked := ((sendRule_tele b.tele b.memory).pickLine (b := b) (m := e.module) (vc := 7)
        (part := b.partOfSlot b.tele.push.slot) ⟨rfl, rfl⟩).1
      split at h
      · cases h
      next l c hpick =>
        rw [hpick] at hpicked
        obtain rfl := Option.some.inj h
        exact foldl_inv (PushGone seq b.memory) _ _ _ ⟨rfl, rfl, hpicked.2⟩
          fun c w hc => hc.of_kept ((sendRule_tele c.tele c.memory).lineSend (k := l) trivial ⟨rfl, rfl⟩)

variable {s : State}

theorem hmTelStat_stored : Reg.hmTelStat.stored := by simp [Reg.stored]

/-- A push is due: pushes are set, the module runs or is in ANCHOR, and the Harbourmaster lives. -/
def Body.pushDue (b : Body) : Prop :=
  ¬ (b.tele.push.period = 0 ∨ b.boot.phase ∉ [.run, .anchorEntry, .anchor] ∨ b.hm.sramDead = true)

theorem telemetryPush_off (h : s.body.tele.push.period = 0 ∨ s.body.boot.phase ∉ [.run, .anchorEntry, .anchor] ∨ s.body.hm.sramDead = true) :
    exec .telemetryPush s = .next s :=
  exec_of_stopped rfl h

theorem exec_telemetryPush_skips (hdue : s.body.pushDue) (h : s.body.tele.push.acked = false ∨ s.body.pushOut (s.body.tele.push.seq + 1) = none) :
    exec .telemetryPush s = .next { s with body := s.body.bump .hmTelStat Fld.hmTelStatSkipped 1 } := by
  change Host.Outcome.next { s with body := if s.body.tele.push.period = 0 ∨ s.body.boot.phase ∉ [Phase.run, Phase.anchorEntry, Phase.anchor] ∨
    s.body.hm.sramDead = true then s.body else if ¬ s.body.tele.push.acked = true then _ else _ } = _
  rw [if_neg hdue]
  obtain hacked | hnone := h
  · rw [hacked, if_pos Bool.false_ne_true]
  · rw [hnone, ite_self]

theorem exec_telemetryPush_goes {b : Body} (hdue : s.body.pushDue) (hacked : s.body.tele.push.acked = true)
    (hout : s.body.pushOut (s.body.tele.push.seq + 1) = some b) : exec .telemetryPush s = .next { s with body := b } := by
  change Host.Outcome.next { s with body := if s.body.tele.push.period = 0 ∨ s.body.boot.phase ∉ [Phase.run, Phase.anchorEntry, Phase.anchor] ∨
    s.body.hm.sramDead = true then s.body else if ¬ s.body.tele.push.acked = true then _ else _ } = _
  rw [if_neg hdue, if_neg (not_not_intro hacked), hout]

variable (hperiod : s.body.tele.push.period ≠ 0) (hphase : s.body.boot.phase ∈ [.run, .anchorEntry, .anchor]) (hlive : s.body.hm.sramDead = false)
include hperiod hphase hlive

theorem telemetryPush_due : s.body.pushDue := by
  rw [Body.pushDue, hlive]
  rintro (h | h | h)
  exacts [hperiod h, h hphase, Bool.false_ne_true h]

theorem telemetryPush_skipped (h : s.body.tele.push.acked = false ∨ s.body.pushOut (s.body.tele.push.seq + 1) = none) :
    Gives .telemetryPush s fun t => t.tele = s.body.tele ∧ SameBytes s.body t ∧ Counted s.body t .hmTelStat Fld.hmTelStatSkipped 1 ∧
      SameRegsBut s.body t [Reg.hmTelStat.addr] ∧ t.hm = s.body.hm := by
  have hi := exec_telemetryPush_skips (telemetryPush_due hperiod hphase hlive) h
  have hall := (SameBut.refl [Reg.hmTelStat.addr] s.body).bump (List.mem_singleton_self _) Fld.hmTelStatSkipped 1
  exact gives_of_next hi ⟨Body.bump_tele .., hall.bytes, counted_bump _ 1 rfl hmTelStat_stored (by decide) (by decide), hall.regs, Body.bump_hm ..⟩

theorem telemetryPush_goes {b : Body} (hacked : s.body.tele.push.acked = true) (hout : s.body.pushOut (s.body.tele.push.seq + 1) = some b) :
    Gives .telemetryPush s fun t => t = b ∧ t.tele.push.seq = s.body.tele.push.seq + 1 ∧ t.tele.push.acked = false ∧ SameBytes s.body t := by
  have hi := exec_telemetryPush_goes (telemetryPush_due hperiod hphase hlive) hacked hout
  obtain ⟨hseq, hnew, hmem⟩ := pushOut_some hout
  exact gives_of_next hi ⟨rfl, hseq, hnew, sameBytes_of_memory hmem⟩

end

end Sys2Proof.Machine
end

section
/-! PROOFS. LOG_CTL, single steps and clock probes (R464, R467, R469). -/

namespace Sys2Proof.Machine

/-! ### LOG_CTL -/

theorem wtLogFreeze_stored : Reg.wtLogFreeze.stored := by simp [Reg.stored]

theorem wtLogFreeze_notes : ∀ q : Reg, ¬ q.notes → q.addr ≠ Reg.wtLogFreeze.addr := fun _ hq he => hq (.inl he)

/-- A command that ends with DONE leaves a register that is not its Lathes' as it is. -/
theorem reg_done_of_ne (b : Body) (fl : Flight) (r : Nat) {q : Reg} (h : ∀ g < 200, q.addr ≠ (Reg.brLatheStat g).addr) :
    (b.done fl r).reg q = b.reg q := by
  have hshadow : ∀ (b : Body) slot, (b.syncShadow slot).reg q = b.reg q := Body.syncShadow_keep (fun b => b.reg q)
    fun b g v => Body.reg_setF_of_ok_ne b _ v fun hok => h g (of_decide_eq_true hok)
  unfold Body.done Body.retire
  dsimp only
  rw [if_neg (fun h => h.1 rfl), Body.log_reg, hshadow]
  rfl

theorem wtLogFreeze_done (b : Body) (fl : Flight) (r : Nat) : (b.done fl r).reg .wtLogFreeze = b.reg .wtLogFreeze :=
  reg_done_of_ne b fl r fun g hg => by simp only [Reg.addr]; omega

/-- What WT_LOG_FREEZE shows after LOG_CTL with an OP. -/
def frozenBy (op : Nat) (frozen : Bool) (cause : Nat) : Bool × Nat := if op ≠ 0 then (false, 0) else (true, if frozen = true then cause else 1)

/-- What LOG_CTL does to the Logbooks with an OP. -/
def Body.logOp (b : Body) (op : Nat) : Body :=
  if op = 0 then b.freezeLogs 1 else if op = 1 then b.thawLogs else { b with tele.logs := [] }.thawLogs

/-- A body whose STAT0-STAT3 are those of LOG_CTL. -/
def Body.logStat (b : Body) (fl : Flight) (c : Cmd) : Body :=
  (b.clampCmd fl (if c.f 1 1 0 = 3 then 1 else 0)).setF .wtLogFreeze Fld.wtLogFreezeStat (c.f 2 31 0)

section
variable (b : Body)

theorem getF_setF_wtLogFreeze (v : Nat) {f g : Fld} (h : f.lo ≤ f.hi ∧ f.hi < 64 ∧ g.lo ≤ g.hi ∧ (g = f ∨ g.hi < f.lo ∨ f.hi < g.lo)) :
    (b.setF .wtLogFreeze f v).getF .wtLogFreeze g = if g = f then v % 2 ^ f.width else b.getF .wtLogFreeze g :=
  getF_setF_fields b v rfl wtLogFreeze_stored h

theorem thawLogs_shows : b.thawLogs.flag .wtLogFreeze Fld.wtLogFreezeFrozen = false ∧ b.thawLogs.getF .wtLogFreeze Fld.wtLogFreezeCause = 0 ∧
    b.thawLogs.getF .wtLogFreeze Fld.wtLogFreezeStat = b.getF .wtLogFreeze Fld.wtLogFreezeStat := by
  unfold Body.thawLogs Body.flag
  refine ⟨?_, ?_, ?_⟩
  · rw [getF_setF_wtLogFreeze _ _ (by decide), if_neg (by decide), getF_setF_wtLogFreeze _ _ (by decide), if_pos rfl]
    rfl
  · rw [getF_setF_wtLogFreeze _ _ (by decide), if_pos rfl]
    rfl
  · rw [getF_setF_wtLogFreeze _ _ (by decide), if_neg (by decide), getF_setF_wtLogFreeze _ _ (by decide), if_neg (by decide)]

theorem freezeLogs_shows : (b.freezeLogs 1).flag .wtLogFreeze Fld.wtLogFreezeFrozen = true ∧
    (b.freezeLogs 1).getF .wtLogFreeze Fld.wtLogFreezeCause =
      (if b.flag .wtLogFreeze Fld.wtLogFreezeFrozen = true then b.getF .wtLogFreeze Fld.wtLogFreezeCause else 1) ∧
    (b.freezeLogs 1).getF .wtLogFreeze Fld.wtLogFreezeStat = b.getF .wtLogFreeze Fld.wtLogFreezeStat := by
  unfold Body.freezeLogs
  split
  next hfrozen => exact ⟨hfrozen, rfl, rfl⟩
  next hfrozen =>
    unfold Body.flag
    refine ⟨?_, ?_, ?_⟩
    · rw [getF_setF_wtLogFreeze _ _ (by decide), if_neg (by decide), getF_setF_wtLogFreeze _ _ (by decide), if_pos rfl]
      rfl
    · rw [getF_setF_wtLogFreeze _ _ (by decide), if_pos rfl]
      rfl
    · rw [getF_setF_wtLogFreeze _ _ (by decide), if_neg (by decide), getF_setF_wtLogFreeze _ _ (by decide), if_neg (by decide)]

/-- LOG_CTL freezes and thaws as its OP asks. -/
theorem logOp_shows (op : Nat) : ((b.logOp op).flag .wtLogFreeze Fld.wtLogFreezeFrozen, (b.logOp op).getF .wtLogFreeze Fld.wtLogFreezeCause) =
      frozenBy op (b.flag .wtLogFreeze Fld.wtLogFreezeFrozen) (b.getF .wtLogFreeze Fld.wtLogFreezeCause) ∧
    (b.logOp op).getF .wtLogFreeze Fld.wtLogFreezeStat = b.getF .wtLogFreeze Fld.wtLogFreezeStat := by
  unfold Body.logOp frozenBy
  by_cases hzero : op = 0
  · obtain ⟨hfrozen, hcause, hstat⟩ := freezeLogs_shows b
    rw [if_pos hzero, if_neg (not_not_intro hzero)]
    exact ⟨Prod.ext hfrozen hcause, hstat⟩
  · rw [if_neg hzero, if_pos hzero]
    split
    · obtain ⟨hfrozen, hcause, hstat⟩ := thawLogs_shows b
      exact ⟨Prod.ext hfrozen hcause, hstat⟩
    · obtain ⟨hfrozen, hcause, hstat⟩ := thawLogs_shows { b with tele.logs := [] }
      exact ⟨Prod.ext hfrozen hcause, hstat⟩

theorem sameBut_logOp (op : Nat) : SameBut [] b (b.logOp op) := by
  have hthaw : ∀ c : Body, SameBut [] b c → SameBut [] b c.thawLogs := fun c hc =>
    (hc.setNote wtLogFreeze_notes _ _).setNote wtLogFreeze_notes _ _
  unfold Body.logOp Body.freezeLogs
  split
  · split
    · exact SameBut.refl [] b
    · exact ((SameBut.refl [] b).setNote wtLogFreeze_notes _ _).setNote wtLogFreeze_notes _ _
  · split
    · exact hthaw b (SameBut.refl [] b)
    · exact hthaw _ ((SameBut.refl [] b).beside rfl rfl rfl rfl rfl)

theorem logs_log (kind unit code status ctx tag arg : Nat) {k : Nat} (hk : k ≠ kind * 65536 + unit) :
    SMap.get (b.log kind unit code status ctx tag arg).tele.logs [] k = SMap.get b.tele.logs [] k := by
  unfold Body.log
  split
  · rfl
  · exact SMap.get_set_ne _ _ _ _ hk

/-- A DONE command writes one record, to the Harbourmaster's Logbook. -/
theorem logs_done (fl : Flight) (r : Nat) {k : Nat} (hk : k ≠ 2 * 65536) : SMap.get (b.done fl r).tele.logs [] k = SMap.get b.tele.logs [] k := by
  unfold Body.done Body.retire
  dsimp only
  rw [if_neg (fun h => h.1 rfl), logs_log (kind := 2) (unit := 0) (hk := by omega), Body.syncShadow_tele]
  rfl

end

section
variable {s : State} {c : Cmd} {fl : Flight} {i : Instr} {op : Nat}

theorem exec_logCtl (hi : (i, op) ∈ [(Instr.logFreeze c, 0), (.logThaw c, 1), (.logClear c, 2)]) (hop : op = min 2 (c.f 1 1 0))
    (hd : Dispatched s.body c 0x8C fl) : exec i s = .next { s with body := ((s.body.logStat fl c).logOp op).done fl } := by
  simp only [List.mem_cons, List.not_mem_nil, or_false, Prod.mk.injEq] at hi
  obtain ⟨rfl, rfl⟩ | ⟨rfl, rfl⟩ | ⟨rfl, rfl⟩ := hi
  · rw [exec_onSub hd (decide_eq_true hop.symm) (show exec (.logFreeze c) s = _ from rfl)]
    rfl
  · rw [exec_onSub hd (decide_eq_true hop.symm) (show exec (.logThaw c) s = _ from rfl)]
    rfl
  · rw [exec_onSub hd (decide_eq_true hop.symm) (show exec (.logClear c) s = _ from rfl)]
    rfl

theorem logCtl_ends (hi : (i, op) ∈ [(Instr.logFreeze c, 0), (.logThaw c, 1), (.logClear c, 2)]) (hop : op = min 2 (c.f 1 1 0)) {frozen : Bool}
    {cause : Nat} (hfrozen : (frozen, cause) = frozenBy op (s.body.flag .wtLogFreeze Fld.wtLogFreezeFrozen)
      (s.body.getF .wtLogFreeze Fld.wtLogFreezeCause)) (hd : Dispatched s.body c 0x8C fl) : Gives i s fun t => OnlyEnds s.body t fl 0 0 [] ∧
    t.flag .wtLogFreeze Fld.wtLogFreezeFrozen = frozen ∧ t.getF .wtLogFreeze Fld.wtLogFreezeCause = cause ∧
    t.getF .wtLogFreeze Fld.wtLogFreezeStat = c.f 2 31 0 ∧ (op = 2 → ∀ k, k ≠ 2 * 65536 → SMap.get t.tele.logs [] k = []) := by
  obtain ⟨b, hb⟩ : ∃ b, b = s.body.logStat fl c := ⟨_, rfl⟩
  have hexec := exec_logCtl hi hop hd
  rw [← hb] at hexec
  have hsame : SameBut [] s.body b := hb ▸ ((SameBut.refl [] s.body).clampCmd fl _).setNote wtLogFreeze_notes _ _
  have hbefore : ∀ f : Fld, f.lo ≤ f.hi ∧ f.hi < Fld.wtLogFreezeStat.lo → b.getF .wtLogFreeze f = s.body.getF .wtLogFreeze f := fun f hf => by
    have hne : f ≠ Fld.wtLogFreezeStat := fun he => absurd hf.2 (by rw [he]; decide)
    rw [hb, Body.logStat, getF_setF_wtLogFreeze _ _ ⟨by decide, by decide, hf.1, .inr (.inl hf.2)⟩, if_neg hne,
      getF_of_reg_eq (wtLogFreeze_clampCmd _ _ _)]
  have hstat : b.getF .wtLogFreeze Fld.wtLogFreezeStat = c.f 2 31 0 := by
    rw [hb, Body.logStat, getF_setF_wtLogFreeze _ _ (by decide), if_pos rfl]
    exact Nat.mod_eq_of_lt (cmd_f_lt c 2 31 0)
  obtain ⟨hshows, hkept⟩ := logOp_shows b op
  have hend : ∀ f, ((b.logOp op).done fl).getF .wtLogFreeze f = (b.logOp op).getF .wtLogFreeze f := getF_of_reg_eq (wtLogFreeze_done _ fl 0)
  have hflag : b.flag .wtLogFreeze Fld.wtLogFreezeFrozen = s.body.flag .wtLogFreeze Fld.wtLogFreezeFrozen := by
    rw [Body.flag, hbefore _ (by decide), Body.flag]
  rw [hflag, hbefore _ (by decide), ← hfrozen] at hshows
  obtain ⟨hfrozenEnd, hcauseEnd⟩ := Prod.mk.inj hshows
  refine gives_of_next hexec ⟨(hsame.trans (sameBut_logOp b op)).done fl 0, ?_, (hend _).trans hcauseEnd, (hend _).trans (hkept.trans hstat),
    fun hclear k hk => ?_⟩
  · rw [Body.flag, hend]
    exact hfrozenEnd
  · rw [logs_done _ fl 0 hk, hclear, Body.logOp, if_neg (by decide), if_neg (by decide), Body.thawLogs, Body.setF_tele, Body.setF_tele]
    rfl

end

/-! ### DBG_STEP -/

theorem hmStepStat_stored : Reg.hmStepStat.stored := by simp [Reg.stored]

theorem unnoted_hmStepStat : Reg.hmStepStat.Unnoted := by constructor <;> simp only [Reg.addr] <;> omega

theorem getF_setF_hmStepStat (b : Body) (v : Nat) {f g : Fld} (h : f.lo ≤ f.hi ∧ f.hi < 64 ∧ g.lo ≤ g.hi ∧ (g = f ∨ g.hi < f.lo ∨ f.hi < g.lo)) :
    (b.setF .hmStepStat f v).getF .hmStepStat g = if g = f then v % 2 ^ f.width else b.getF .hmStepStat g :=
  getF_setF_fields b v rfl hmStepStat_stored h

theorem SameBut.dropHalting {l : List Nat} {b c : Body} (h : SameBut l b c) (uid : Nat) : SameBut l b (c.dropHalting uid) :=
  h.beside rfl rfl rfl rfl rfl

section
variable {s : State} {c : Cmd} {fl : Flight} {id op : Nat} (hid : id = c.f 1 15 0) (hop : op = c.f 1 17 16) (hd : Dispatched s.body c 0x8D fl)
include hid hop hd

theorem exec_dbgStepBegin_refused (hbegin : op = 0) {st : Nat}
    (hno : (s.body.level 1 = false ∧ st = 0x60) ∨ (s.body.level 1 = true ∧ st = 0x11 ∧ (s.body.slotOf id = none ∨ ∃ k, s.body.slotOf id = some k ∧
      (64 ≤ k ∨ (s.body.info k).closing = true ∨ (s.body.flag .hmStepStat Fld.hmStepStatStepping = true ∧ s.body.steppedIs id = false))))) :
    exec (.dbgStepBegin c) s = .next { s with body := (s.body.dropHalting fl.uid).fail fl st } := by
  rw [exec_onSub hd (decide_eq_true (hop.symm.trans hbegin)) rfl]
  dsimp only
  rw [← hid]
  obtain ⟨hlevel, rfl⟩ | ⟨hlevel, rfl, hnone | ⟨k, hslot, hbad⟩⟩ := hno
  · rw [hlevel, if_pos Bool.false_ne_true]
  · rw [hlevel, if_neg (not_not_intro rfl), hnone]
  · rw [hlevel, if_neg (not_not_intro rfl), hslot]
    dsimp only
    refine congrArg (fun b => Host.Outcome.next { s with body := b }) (if_pos ?_)
    obtain hlarge | hclosing | ⟨hstep, hother⟩ := hbad
    · exact .inl hlarge
    · exact .inr (.inl hclosing)
    · exact .inr (.inr ⟨hstep, by rw [hother]; exact Bool.false_ne_true⟩)

theorem dbgStepBegin_refused (hbegin : op = 0) {st : Nat}
    (hno : (s.body.level 1 = false ∧ st = 0x60) ∨ (s.body.level 1 = true ∧ st = 0x11 ∧ (s.body.slotOf id = none ∨ ∃ k, s.body.slotOf id = some k ∧
      (64 ≤ k ∨ (s.body.info k).closing = true ∨ (s.body.flag .hmStepStat Fld.hmStepStatStepping = true ∧ s.body.steppedIs id = false))))) :
    Gives (.dbgStepBegin c) s fun t => OnlyEnds s.body t fl st 0 [] :=
  gives_of_next (exec_dbgStepBegin_refused hid hop hd hbegin hno)
    (((SameBut.refl [] s.body).dropHalting fl.uid).fail fl _ _ _)

omit hid hop hd in
theorem steppedIs_congr {b t : Body} (h : t.reg .hmStepStat = b.reg .hmStepStat) (id : Nat) : t.steppedIs id = b.steppedIs id := by
  rw [Body.steppedIs, Body.flag, getF_of_reg_eq h, getF_of_reg_eq h, Body.steppedIs, Body.flag]

/-- HM_STEP_STAT of a context that is stepped from now on. -/
def Body.stepBegun (b : Body) (id : Nat) : Body := (b.setF .hmStepStat Fld.hmStepStatCtx id).setF .hmStepStat Fld.hmStepStatStepping 1

omit hid hop hd in
theorem steppedIs_stepBegun (b : Body) {id : Nat} (hid : id < 65536) : (b.stepBegun id).steppedIs id = true := by
  unfold Body.stepBegun Body.steppedIs Body.flag
  rw [getF_setF_hmStepStat _ _ (by decide), if_pos rfl, getF_setF_hmStepStat _ _ (by decide), if_neg (by decide),
    getF_setF_hmStepStat _ _ (by decide), if_pos rfl]
  exact Bool.and_eq_true_iff.2 ⟨rfl, decide_eq_true (Nat.mod_eq_of_lt hid)⟩

omit hid hop hd in
theorem reg_dropHalting (b : Body) (uid : Nat) (r : Reg) : (b.dropHalting uid).reg r = b.reg r := Body.reg_congr rfl r

omit hid hop hd in
theorem noteHalting_same (b : Body) (fl : Flight) (k : Nat) : SameBut [Reg.hmStepStat.addr] b (b.noteHalting fl k) ∧
    ∀ r, (b.noteHalting fl k).reg r = b.reg r := by
  obtain ⟨l, hnote, -⟩ := noteHalting_eq b fl k
  rw [hnote]
  exact ⟨(SameBut.refl _ b).beside rfl rfl rfl rfl rfl, fun r => Body.reg_congr rfl r⟩

theorem exec_dbgStepBegin_halted (hbegin : op = 0) (hlevel : s.body.level 1 = true) {k : Nat} (hslot : s.body.slotOf id = some k)
    (hgood : ¬ (k ≥ 64 ∨ (s.body.info k).closing = true ∨ s.body.flag .hmStepStat Fld.hmStepStatStepping = true ∧
      ¬ s.body.steppedIs id = true)) {b : Body} (hb : b = s.body.noteHalting fl k)
    (hstate : b.getF (.hmCtxStat k) Fld.hmCtxStatState = 1) (hend : (b.stepBegun id).getF (.hmCtxStat k) Fld.hmCtxStatState = 1) :
    exec (.dbgStepBegin c) s = .next { s with body := ((b.stepBegun id).dropHalting fl.uid).done fl } := by
  have hstay : b.preempt k (some fl.uid) = b := preempt_of_stopped (by rw [hstate]; decide) _
  rw [exec_onSub hd (decide_eq_true (hop.symm.trans hbegin)) rfl]
  dsimp only
  rw [← hid, hlevel, if_neg (not_not_intro rfl), hslot]
  dsimp only
  rw [if_neg hgood, ← hb, hstay, ← Body.stepBegun, if_pos hend]

theorem dbgStepBegin_begins (hbegin : op = 0) (hlevel : s.body.level 1 = true) {k : Nat} (hslot : s.body.slotOf id = some k) (hk : k < 64)
    (hopen : (s.body.info k).closing = false) (hfree : s.body.flag .hmStepStat Fld.hmStepStatStepping = false)
    (hhalted : s.body.getF (.hmCtxStat k) Fld.hmCtxStatState = 1) :
    Gives (.dbgStepBegin c) s fun t => OnlyEnds s.body t fl 0 0 [Reg.hmStepStat.addr] ∧ t.steppedIs id = true := by
  have hgood : ¬ (k ≥ 64 ∨ (s.body.info k).closing = true ∨ s.body.flag .hmStepStat Fld.hmStepStatStepping = true ∧
      ¬ s.body.steppedIs id = true) := by
    rw [hopen, hfree]
    rintro (h | h | ⟨h, -⟩)
    exacts [absurd hk (Nat.not_lt.2 h), Bool.false_ne_true h, Bool.false_ne_true h]
  obtain ⟨hnoted, hreg⟩ := noteHalting_same s.body fl k
  obtain ⟨b, hb⟩ : ∃ b, b = s.body.noteHalting fl k := ⟨_, rfl⟩
  rw [← hb] at hnoted hreg
  have hstate : b.getF (.hmCtxStat k) Fld.hmCtxStatState = 1 := (getF_of_reg_eq (hreg _) _).trans hhalted
  have hne : (Reg.hmCtxStat k).addr ≠ Reg.hmStepStat.addr := by simp only [Reg.addr]; omega
  have hend : (b.stepBegun id).getF (.hmCtxStat k) Fld.hmCtxStatState = 1 := by
    rw [Body.stepBegun, Body.getF_setF_ne _ _ _ _ hne, Body.getF_setF_ne _ _ _ _ hne, hstate]
  have hmem := List.mem_singleton_self Reg.hmStepStat.addr
  have hbegun : SameBut [Reg.hmStepStat.addr] s.body (b.stepBegun id) := (hnoted.setF hmem _ _).setF hmem _ _
  have hstat : (((b.stepBegun id).dropHalting fl.uid).done fl).reg .hmStepStat = (b.stepBegun id).reg .hmStepStat :=
    (unnoted_hmStepStat.done ((b.stepBegun id).dropHalting fl.uid) fl 0).trans (reg_dropHalting _ _ _)
  have hlt : id < 65536 := by
    have := cmd_f_lt c 1 15 0
    omega
  refine gives_of_next (exec_dbgStepBegin_halted hid hop hd hbegin hlevel hslot hgood hb hstate hend)
    ⟨(hbegun.dropHalting fl.uid).done fl 0, ?_⟩
  exact (steppedIs_congr hstat id).trans (steppedIs_stepBegun b hlt)

omit hid in
theorem dbgStepStep_unpermitted (hstep : op = 1) (hidle : s.body.tele.dbg = none) (hlevel : s.body.level 1 = false) :
    Gives (.dbgStepStep c) s fun t => OnlyEnds s.body t fl 0x60 0 [] := by
  have hi : exec (.dbgStepStep c) s = .next { s with body := s.body.fail fl 0x60 } := by
    rw [exec_onSub hd (decide_eq_true (hop.symm.trans hstep)) rfl]
    rw [hidle, hlevel]
    dsimp only
    rw [if_pos Bool.false_ne_true]
  exact gives_of_next hi ((SameBut.refl [] s.body).fail fl _ _ _)

omit hid in
/-- A STEP row given while a step goes on. -/
theorem exec_dbgStepStep_going (hstep : op = 1) {d : DbgRun} (hgoing : s.body.tele.dbg = some d) :
    exec (.dbgStepStep c) s = .next { s with body := if d.fl.uid = fl.uid then s.body.stepGo d else s.body } := by
  rw [exec_onSub hd (decide_eq_true (hop.symm.trans hstep)) rfl]
  rw [hgoing]

section
variable (hstep : op = 1) (hidle : s.body.tele.dbg = none) (hlevel : s.body.level 1 = true) {k : Nat} (hslot : s.body.slotOf id = some k)
  (hk : k < 64) {e : Entry} (hacc : s.body.accessHere fl.slot (c.h 2) 0 32 true = .ok e)
include hstep hidle hlevel hslot hacc

/-- A STEP row given while no step goes on. -/
theorem exec_dbgStepStep_idle : exec (.dbgStepStep c) s = .next { s with
    body := if k ≥ 64 ∨ ¬ s.body.steppedIs id = true then s.body.fail fl 0x11
      else if s.body.getF (.hmCtxStat k) Fld.hmCtxStatState = 1 then s.body.stepTake fl k else s.body } := by
  rw [exec_onSub hd (decide_eq_true (hop.symm.trans hstep)) rfl]
  rw [hidle, hlevel, ← hid, hslot, hacc]
  dsimp only
  rw [if_neg (not_not_intro rfl)]

theorem dbgStepStep_unstepped (hother : s.body.steppedIs id = false) : Gives (.dbgStepStep c) s fun t => OnlyEnds s.body t fl 0x11 0 [] := by
  have hi := exec_dbgStepStep_idle hid hop hd hstep hidle hlevel hslot hacc
  rw [if_pos (.inr (by rw [hother]; exact Bool.false_ne_true))] at hi
  exact gives_of_next hi ((SameBut.refl [] s.body).fail fl _ _ _)

include hk

theorem exec_dbgStepStep_stepped (hmine : s.body.steppedIs id = true) : exec (.dbgStepStep c) s = .next { s with
    body := if s.body.getF (.hmCtxStat k) Fld.hmCtxStatState = 1 then s.body.stepTake fl k else s.body } := by
  rw [exec_dbgStepStep_idle hid hop hd hstep hidle hlevel hslot hacc,
    if_neg (not_or.2 ⟨Nat.not_le.2 hk, not_not_intro hmine⟩)]

end

/-! ### DBG_STEP END -/

section
variable (hend : 2 ≤ op)
include hend

omit hid in
theorem exec_dbgStepEnd_going (hgoing : s.body.tele.dbg ≠ none) : exec (.dbgStepEnd c) s = .next s := by
  rw [exec_onSub hd (decide_eq_true (hop ▸ hend)) rfl]
  dsimp only
  rw [if_pos (Option.isSome_iff_ne_none.2 hgoing)]

theorem exec_dbgStepEnd_idle (hidle : s.body.tele.dbg = none) {b : Body} (hb : b = s.body.clampCmd fl (if op = 3 then 1 else 0)) :
    exec (.dbgStepEnd c) s = .next { s with
      body := if ¬ b.level 1 = true then b.fail fl 0x60
      else if b.steppedIs id = true then b.stepClear.done fl else b.fail fl 0x11 } := by
  rw [exec_onSub hd (decide_eq_true (hop ▸ hend)) rfl, hb, hid, hop]
  dsimp only
  rw [hidle]
  rfl

theorem dbgStepEnd_unpermitted (hidle : s.body.tele.dbg = none) (hlevel : s.body.level 1 = false) :
    Gives (.dbgStepEnd c) s fun t => OnlyEnds s.body t fl 0x60 0 [] := by
  have hi := exec_dbgStepEnd_idle hid hop hd hend hidle rfl
  rw [if_pos (by rw [level_clampCmd, hlevel]; exact Bool.false_ne_true)] at hi
  exact gives_of_next hi (((SameBut.refl [] s.body).clampCmd fl _).fail fl _ _ _)

variable (hidle : s.body.tele.dbg = none) (hlevel : s.body.level 1 = true)
include hidle hlevel

theorem dbgStepEnd_unstepped (hother : s.body.steppedIs id = false) : Gives (.dbgStepEnd c) s fun t => OnlyEnds s.body t fl 0x11 0 [] := by
  have hi := exec_dbgStepEnd_idle hid hop hd hend hidle rfl
  rw [if_neg (by rw [level_clampCmd, hlevel]; exact not_not_intro rfl),
    if_neg (by rw [steppedIs_congr (unnoted_hmStepStat.clampCmd _ _ _), hother]; exact Bool.false_ne_true)] at hi
  exact gives_of_next hi (((SameBut.refl [] s.body).clampCmd fl _).fail fl _ _ _)

theorem dbgStepEnd_clears (hmine : s.body.steppedIs id = true) : Gives (.dbgStepEnd c) s fun t =>
    OnlyEnds s.body t fl 0 0 [Reg.hmStepStat.addr] ∧ t.flag .hmStepStat Fld.hmStepStatStepping = false := by
  have hi := exec_dbgStepEnd_idle hid hop hd hend hidle rfl
  rw [if_neg (by rw [level_clampCmd, hlevel]; exact not_not_intro rfl), if_pos (by rw [steppedIs_congr (unnoted_hmStepStat.clampCmd _ _ _), hmine])] at hi
  have hmem := List.mem_singleton_self Reg.hmStepStat.addr
  have hsame : SameBut [Reg.hmStepStat.addr] s.body (s.body.clampCmd fl (if op = 3 then 1 else 0)).stepClear :=
    (((SameBut.refl _ s.body).clampCmd fl _).setF hmem _ _).setF hmem _ _
  refine gives_of_next hi ⟨hsame.done fl 0, ?_⟩
  rw [Body.flag, getF_of_reg_eq (unnoted_hmStepStat.done _ fl 0), Body.stepClear, getF_setF_hmStepStat _ _ (by decide), if_pos rfl]
  rfl

end

end

/-! ### TS_PROBE -/

section
variable {s : State} {c : Cmd} {fl : Flight} {l n : Nat} (hl : l = min 35 (c.f 1 5 0)) (hn : n = max 1 (c.f 1 15 8))
  (hd : Dispatched s.body c 0x8E fl)
include hd

theorem exec_tsProbe_waits (hprobe : s.body.tele.probe ≠ none) : exec (.tsProbe c) s = .next s := by
  rw [exec_onCmd hd rfl]
  rw [if_pos (Option.isSome_iff_ne_none.2 hprobe)]

variable (hidle : s.body.tele.probe = none)
include hl hn hidle

theorem tsProbe_refused {st : Nat} (hacc : s.body.accessHere fl.slot (c.h 2) 0 32 true = .error st) :
    Gives (.tsProbe c) s fun t => OnlyEnds s.body t fl st 0 [] := by
  have hi : exec (.tsProbe c) s = .next { s with
      body := (s.body.clampCmd fl (diff l (c.f 1 5 0) + diff n (c.f 1 15 8))).fail fl st (c.h 2) } := by
    rw [exec_onCmd hd rfl, hidle, hl, hn]
    dsimp only
    rw [if_neg (by decide), (sameChecks_clampCmd ..).accessHere, hacc]
  exact gives_of_next hi (((SameBut.refl [] s.body).clampCmd fl _).fail fl _ _ _)

variable {e : Entry} (hacc : s.body.accessHere fl.slot (c.h 2) 0 32 true = .ok e)
include hacc

theorem exec_tsProbe_idle {b : Body} (hb : b = s.body.clampCmd fl (diff l (c.f 1 5 0) + diff n (c.f 1 15 8))) :
    exec (.tsProbe c) s = .next { s with body := if s.body.lineState l ≠ 2 ∧ s.body.lineState l ≠ 3 then b.fail fl 0x21
      else { b.start fl with tele.probe := some ({ fl := fl, line := l, count := n } : Probe) } } := by
  have hl35 : l < 36 := by omega
  have hstate : (s.body.clampCmd fl (diff l (c.f 1 5 0) + diff n (c.f 1 15 8))).lineState l = s.body.lineState l :=
    getF_of_reg_eq ((unnoted_lnStat hl35).clampCmd _ _ _) _
  rw [hb, ← hstate, exec_onCmd hd rfl, hidle, hl, hn]
  dsimp only
  rw [if_neg (by decide), (sameChecks_clampCmd ..).accessHere, hacc]

theorem tsProbe_lost (hdown : s.body.lineState l ≠ 2 ∧ s.body.lineState l ≠ 3) : Gives (.tsProbe c) s fun t => OnlyEnds s.body t fl 0x21 0 [] := by
  have hi := exec_tsProbe_idle hl hn hd hidle hacc rfl
  rw [if_pos hdown] at hi
  exact gives_of_next hi (((SameBut.refl [] s.body).clampCmd fl _).fail fl _ _ _)

theorem tsProbe_starts (hup : s.body.lineState l = 2 ∨ s.body.lineState l = 3) : Gives (.tsProbe c) s fun t =>
    StaysInFlight s.body t fl ∧ SameBytes s.body t ∧ t.tele.probe = some { fl := fl, line := l, count := n } ∧ SameRegsBut s.body t [] := by
  obtain ⟨b, hb⟩ : ∃ b, b = s.body.clampCmd fl (diff l (c.f 1 5 0) + diff n (c.f 1 15 8)) := ⟨_, rfl⟩
  have hi := exec_tsProbe_idle hl hn hd hidle hacc hb
  rw [if_neg (by omega)] at hi
  have hhm : b.hm = s.body.hm := by rw [hb, Body.clampCmd_hm]
  have hsame : SameBut [] s.body b := hb ▸ (SameBut.refl [] s.body).clampCmd fl _
  have hprobe : SameBut [] s.body { b.start fl with tele.probe := some ({ fl := fl, line := l, count := n } : Probe) } :=
    hsame.beside rfl rfl rfl rfl rfl
  have hstays : StaysInFlight s.body (b.start fl) fl := staysInFlight_start (congrArg Harbour.ended hhm) (by rw [hhm]; exact hd.mem)
  exact gives_of_next hi ⟨hstays, hprobe.bytes, rfl, hprobe.regs⟩

end

/-! ### Probes sent and arriving -/

/-- A message sent over a Line goes out; bytes and telemetry stay as they are. -/
theorem lineSend_goes (b : Body) (l vc : Nat) (m : Msg) : SameBytes b (b.lineSend l vc m) ∧ (b.lineSend l vc m).tele = b.tele ∧
    ∃ z ∈ (b.lineSend l vc m).out, z.port = .line l ∧ z.kind = m.kind ∧ z.nums = m.nums := by
  obtain ⟨htele, hmem⟩ := (sendRule_tele b.tele b.memory).lineSend (b := b) (k := l) (vc := vc) (m := m) (uid := none) (granule := none)
    trivial ⟨rfl, rfl⟩
  exact ⟨sameBytes_of_memory hmem, htele, _,
    (MsgKept.lineSend b l vc m none none).out.subset (List.mem_append_right _ (List.mem_singleton_self _)), rfl, rfl, rfl⟩

section
variable {s : State}

/-- TS_PROBE_SEND with a probe in progress. -/
theorem exec_tsProbeSend {p : Probe} (hprobe : s.body.tele.probe = some p) : exec .tsProbeSend s = .next { s with
    body := if p.sent.length ≥ p.count ∨ ¬ s.body.lineUp p.line = true then s.body
      else { s.body with tele.probe := some { p with sent := p.sent ++ [(p.sent.length, s.body.ts)] } }.lineSend p.line 7
        { port := .line p.line, kind := .probe, nums := [p.sent.length, s.body.ts.toNat] } } := by
  change Host.Outcome.next { s with body := _ } = _
  dsimp only
  rw [hprobe]

theorem tsProbeSend_idle (h : ∀ p, s.body.tele.probe = some p → p.count ≤ p.sent.length ∨ s.body.lineUp p.line = false) :
    exec .tsProbeSend s = .next s := by
  cases hprobe : s.body.tele.probe with
  | none =>
    change Host.Outcome.next { s with body := _ } = _
    dsimp only
    rw [hprobe]
  | some p => exact exec_of_stopped (exec_tsProbeSend hprobe) ((h p hprobe).imp_right fun h => by rw [h]; exact Bool.false_ne_true)

theorem tsProbeSend_sends {p : Probe} (hprobe : s.body.tele.probe = some p) (hmore : p.sent.length < p.count)
    (hup : s.body.lineUp p.line = true) : Gives .tsProbeSend s fun t => SameBytes s.body t ∧
      t.tele.probe = some { p with sent := p.sent ++ [(p.sent.length, s.body.ts)] } ∧
      ∃ m ∈ t.out, m.port = .line p.line ∧ m.kind = .probe ∧ m.nums = [p.sent.length, s.body.now] := by
  have hi := exec_tsProbeSend hprobe
  rw [if_neg (not_or.2 ⟨Nat.not_le.2 hmore, not_not_intro hup⟩)] at hi
  obtain ⟨hbytes, htele, hout⟩ := lineSend_goes
    { s.body with tele.probe := some { p with sent := p.sent ++ [(p.sent.length, s.body.ts)] } } p.line 7
    { port := .line p.line, kind := .probe, nums := [p.sent.length, s.body.ts.toNat] }
  have hset : SameBytes s.body { s.body with tele.probe := some { p with sent := p.sent ++ [(p.sent.length, s.body.ts)] } } :=
    sameBytes_of rfl rfl rfl
  exact gives_of_next hi ⟨hset.trans hbytes, congrArg Tele.probe htele, hout⟩

variable {l : Fin 36} {index : Nat}

theorem exec_probeArrival {t1 : Word} : exec (.probeArrival l index t1) s = .next { s with
    body := if ¬ s.body.lineUp l = true then s.body
      else s.body.lineSend l 7 { port := .line l, kind := .probeReply, nums := [index, t1.toNat, s.body.ts.toNat, s.body.ts.toNat] } } := rfl

theorem probeArrival_answered {t1 : Word} (hup : s.body.lineUp l.val = true) : Gives (.probeArrival l index t1) s fun t =>
    SameBytes s.body t ∧ t.tele = s.body.tele ∧
      ∃ m ∈ t.out, m.port = .line l.val ∧ m.kind = .probeReply ∧ m.nums = [index, t1.toNat, s.body.now, s.body.now] := by
  have hi := exec_probeArrival (s := s) (l := l) (index := index) (t1 := t1)
  rw [if_neg (not_not_intro hup)] at hi
  exact gives_of_next hi (lineSend_goes s.body l 7 _)

/-! ### Replies to probes -/

/-- A probe with the reply to its `index` taken: what it measured counts unless the clock was set meanwhile. -/
def Probe.answered (p : Probe) (index : Nat) (off delay : Int) (t1 : Word) : Probe :=
  { p with
    sent := p.sent.map (fun (x : Nat × Word) => if x.1 = index then (p.count + x.1, x.2) else x), done := p.done + 1,
    results := if index ∈ p.spoiled then p.results else p.results ++ [(index, off, delay, t1)] }

theorem exec_probeReply_unasked {t2 t3 : Word}
    (h : ∀ p, s.body.tele.probe = some p → p.line ≠ l.val ∨ p.sent.find? (fun x => decide (x.1 = index)) = none) :
    exec (.probeReply l index t2 t3) s = .next s := by
  change Host.Outcome.next { s with body := _ } = _
  dsimp only
  cases hprobe : s.body.tele.probe with
  | none => rfl
  | some p =>
    dsimp only
    cases hfind : p.sent.find? (fun x => decide (x.1 = index)) with
    | none => rfl
    | some x =>
      dsimp only
      rw [if_pos ((h p hprobe).resolve_right (by rw [hfind]; exact Option.some_ne_none x))]

theorem exec_probeReply {t2 t3 : Word} {p : Probe} {x : Nat × Word} (hprobe : s.body.tele.probe = some p) (hline : p.line = l.val)
    (hfind : p.sent.find? (fun x => decide (x.1 = index)) = some x) {q : Probe}
    (hq : q = p.answered index ((((t2.toNat : Int) - x.2.toNat) - (s.body.ts.toNat - t3.toNat)).tdiv 2)
      ((((s.body.ts.toNat : Int) - x.2.toNat) - (t3.toNat - t2.toNat)).tdiv 2) x.2) :
    exec (.probeReply l index t2 t3) s = .next { s with
      body := if p.done + 1 = p.count then s.body.probeEnd q else { s.body with tele.probe := some q } } := by
  change Host.Outcome.next { s with body := _ } = _
  dsimp only
  rw [hprobe]
  dsimp only
  rw [hfind]
  dsimp only
  rw [if_neg (not_not_intro hline), hq]
  rfl

theorem probe_store (b : Body) (a : Nat) (row : List Byte) : (b.store a row).tele.probe = b.tele.probe :=
  store_keep_apart (fun b => b.tele.probe) (fun _ _ => rfl) (fun _ _ => rfl) (fun b _ => congrArg Tele.probe (Body.bump_tele b _ _ _))
    (fun b _ _ => congrArg Tele.probe (Body.setF_tele b _ _ _))
    (fun _ _ _ _ _ _ => tele_raise (p := Tele.probe) (fun _ _ => rfl) (fun _ _ => rfl) (fun _ _ _ => rfl) ..) b a row

theorem hm_store (b : Body) (a : Nat) (row : List Byte) : (b.store a row).hm = b.hm :=
  store_keep_apart Body.hm (fun _ _ => rfl) (fun _ _ => rfl) (fun b _ => Body.bump_hm b _ _ _) (fun b _ _ => Body.setF_hm b _ _ _)
    (fun b _ _ _ _ _ => Body.err_hm b _ _ _ _ _ _ _) b a row

/-- A command that writes its answer ends, done or refused; a probe is as before. -/
theorem outWrite_ends (b : Body) (fl : Flight) (h off : Nat) (data : List Byte) :
    (b.outWrite fl h off data).tele.probe = b.tele.probe ∧ ∃ e ∈ (b.outWrite fl h off data).hm.ended, e.fl.uid = fl.uid := by
  unfold Body.outWrite
  split
  next st _ =>
    obtain ⟨⟨e, he, huid, -⟩, -⟩ := Body.endsWith_fail (b := b) (c := b) fl st h off rfl
    exact ⟨probe_fail .., e, by rw [he]; exact List.mem_append_right _ (List.mem_singleton_self e), huid⟩
  next x _ =>
    obtain ⟨⟨e, he, huid, -⟩, -⟩ := Body.endsWith_done (b := b)
      (c := (b.tierTraffic fl.slot (x.base + off) data.length true 11).store (x.base + off) data) fl 0 (by rw [hm_store, Body.tierTraffic_hm])
    exact ⟨by rw [probe_done, probe_store, Body.tierTraffic_tele], e, by rw [he]; exact List.mem_append_right _ (List.mem_singleton_self e), huid⟩

theorem tele_fitOr (b : Body) (w : Nat) (signed : Bool) (v : Int) : (b.fitOr w signed v).2.tele = b.tele := by
  unfold Body.fitOr
  dsimp only
  split_ifs <;> rfl

/-- A probe's end writes its answer with no probe in progress. -/
theorem probeEnd_writes (b : Body) (p : Probe) : ∃ (c : Body) (h : Nat) (data : List Byte), c.tele.probe = none ∧ b.probeEnd p = c.outWrite p.fl h 0 data := by
  unfold Body.probeEnd
  dsimp only
  split
  · exact ⟨_, _, _, by rw [Body.setF_tele, Body.setF_tele, tele_fitOr, tele_fitOr, tele_fitOr], rfl⟩
  · exact ⟨_, _, _, rfl, rfl⟩

theorem probeReply_ends {t2 t3 : Word} {p : Probe} {x : Nat × Word} (hprobe : s.body.tele.probe = some p) (hline : p.line = l.val)
    (hfind : p.sent.find? (fun x => decide (x.1 = index)) = some x) (hlast : p.done + 1 = p.count) :
    Gives (.probeReply l index t2 t3) s fun t => t.tele.probe = none ∧ ∃ e ∈ t.hm.ended, e.fl.uid = p.fl.uid := by
  obtain ⟨q, hq⟩ : ∃ q, q = p.answered index ((((t2.toNat : Int) - x.2.toNat) - (s.body.ts.toNat - t3.toNat)).tdiv 2)
      ((((s.body.ts.toNat : Int) - x.2.toNat) - (t3.toNat - t2.toNat)).tdiv 2) x.2 := ⟨_, rfl⟩
  have hi := exec_probeReply hprobe hline hfind hq
  have hfl : q.fl = p.fl := by rw [hq]; rfl
  obtain ⟨c, h, data, hnone, hend⟩ := probeEnd_writes s.body q
  obtain ⟨hkept, e, he, huid⟩ := outWrite_ends c q.fl h 0 data
  rw [if_pos hlast, hend] at hi
  exact gives_of_next hi ⟨hkept.trans hnone, e, he, huid.trans (congrArg Flight.uid hfl)⟩

end

end Sys2Proof.Machine
end

section
/-! PROOFS. Error records and Teredo (R470, R471, R475); and all of the statements of telemetry and debug together. -/

namespace Sys2Proof.Machine

/-! ### ERROR_RECORD -/

theorem hmErrStat_stored : Reg.hmErrStat.stored := by simp [Reg.stored]

theorem hmErrStat_notes : ∀ q : Reg, ¬ q.notes → q.addr ≠ Reg.hmErrStat.addr := fun _ hq he => hq (.inr (.inl he))

/-- A full main ring counts the record it loses. -/
def Body.ringLost (b : Body) : Body := if b.tele.errMain.length ≥ 1024 then b.bump .hmErrStat Fld.hmErrStatLost 1 else b

/-- The oldest record `r` of a unit's list is in the main ring, as SEQ `q`. -/
def Body.ringMoved (b : Body) (k q : Nat) (r : ErrRec) (rest : List ErrRec) : Body :=
  { b with
    tele.errPend := SMap.set b.tele.errPend [] k rest,
    tele.errMain := (b.tele.errMain ++ [(q, r)]).drop (b.tele.errMain.length + 1 - 1024) }

/-- So it is, and NEXT_SEQ is the next. -/
def Body.errRecorded (b : Body) (k q : Nat) (r : ErrRec) (rest : List ErrRec) : Body :=
  (b.ringMoved k q r rest).setF .hmErrStat Fld.hmErrStatNextSeq (q + 1)

section
variable {s : State} {kind unit k : Nat} (hk : k = kind * 65536 + unit)
include hk

theorem exec_errorRecord_none (h : SMap.get s.body.tele.errPend [] k = []) : exec (.errorRecord kind unit) s = .next s := by
  change Host.Outcome.next { s with body := _ } = _
  dsimp only
  rw [← hk, h]

theorem exec_errorRecord {r : ErrRec} {rest : List ErrRec} {q : Nat} (h : SMap.get s.body.tele.errPend [] k = r :: rest)
    (hq : q = s.body.getF .hmErrStat Fld.hmErrStatNextSeq) : exec (.errorRecord kind unit) s = .next { s with
      body := if s.body.hm.sramDead = true ∨ s.body.boot.phase ∈ [.held, .released, .drydock, .off] then s.body
        else s.body.ringLost.errRecorded k q r rest } := by
  change Host.Outcome.next { s with body := _ } = _
  dsimp only
  rw [← hk, h, hq, Body.errRecorded, Body.ringMoved]
  dsimp only
  rw [List.length_append, List.length_singleton]
  rfl

theorem exec_errorRecord_held (h : SMap.get s.body.tele.errPend [] k = [] ∨ s.body.hm.sramDead = true ∨
    s.body.boot.phase ∈ [.held, .released, .drydock, .off]) : exec (.errorRecord kind unit) s = .next s := by
  cases hpend : SMap.get s.body.tele.errPend [] k with
  | nil => exact exec_errorRecord_none hk hpend
  | cons r rest => exact exec_of_stopped (exec_errorRecord hk hpend rfl) (h.resolve_left (by rw [hpend]; exact List.cons_ne_nil r rest))

theorem errorRecord_moves {r : ErrRec} {rest : List ErrRec} {q : Nat} (h : SMap.get s.body.tele.errPend [] k = r :: rest)
    (hlive : s.body.hm.sramDead = false) (hphase : s.body.boot.phase ∉ [.held, .released, .drydock, .off])
    (hq : q = s.body.getF .hmErrStat Fld.hmErrStatNextSeq) : Gives (.errorRecord kind unit) s fun t =>
      SMap.get t.tele.errPend [] k = rest ∧ t.tele.errMain = (s.body.tele.errMain ++ [(q, r)]).drop (s.body.tele.errMain.length + 1 - 1024) ∧
      t.getF .hmErrStat Fld.hmErrStatNextSeq = (q + 1) % 2 ^ 32 ∧
      Counted s.body t .hmErrStat Fld.hmErrStatLost (if 1024 ≤ s.body.tele.errMain.length then 1 else 0) ∧ SameRegsBut s.body t [] ∧
      SameBytes s.body t := by
  have hi := exec_errorRecord hk h hq
  rw [if_neg (not_or.2 ⟨by rw [hlive]; exact Bool.false_ne_true, hphase⟩)] at hi
  obtain ⟨b, hb⟩ : ∃ b, b = s.body.ringLost := ⟨_, rfl⟩
  have hlost : Counted s.body b .hmErrStat Fld.hmErrStatLost (if 1024 ≤ s.body.tele.errMain.length then 1 else 0) :=
    hb ▸ counted_bump_if s.body _ rfl hmErrStat_stored (by decide) (by decide)
  have hsame : SameBut [] s.body b ∧ b.tele = s.body.tele := by
    rw [hb, Body.ringLost]
    split
    · exact ⟨(SameBut.refl [] s.body).setNote hmErrStat_notes _ _, Body.bump_tele ..⟩
    · exact ⟨SameBut.refl [] s.body, rfl⟩
  obtain ⟨hbeside, htele⟩ := hsame
  rw [← hb] at hi
  have hall : SameBut [] s.body (b.errRecorded k q r rest) :=
    (hbeside.beside (d := b.ringMoved k q r rest) rfl rfl rfl rfl rfl).setNote hmErrStat_notes Fld.hmErrStatNextSeq (q + 1)
  have hend : (b.errRecorded k q r rest).tele = { s.body.tele with
      errPend := SMap.set s.body.tele.errPend [] k rest,
      errMain := (s.body.tele.errMain ++ [(q, r)]).drop (s.body.tele.errMain.length + 1 - 1024) } := by
    rw [Body.errRecorded, Body.setF_tele, Body.ringMoved, htele]
  refine gives_of_next hi ⟨?_, ?_, ?_, hlost.of_getF ?_, hall.regs, hall.bytes⟩
  · rw [hend]
    exact SMap.get_set_self ..
  · rw [hend]
  · rw [Body.errRecorded, getF_setF_fields _ _ rfl hmErrStat_stored (by decide), if_pos rfl]
    rfl
  · rw [Body.errRecorded, getF_setF_fields _ _ rfl hmErrStat_stored (by decide), if_neg (by decide)]
    exact Body.getF_congr rfl _ _

end

/-! ### TEREDO_MEASURE -/

/-- Of steps that leave all but one number alone, that one's is what happens. -/
theorem foldl_only {f : Body → Nat → Body} {q : Nat} (hrest : ∀ c j, j ≠ q → f c j = c) {l : List Nat} (hnd : l.Nodup) (hq : q ∈ l) (b : Body) :
    l.foldl f b = f b q := by
  have hskip : ∀ (l : List Nat) c, q ∉ l → l.foldl f c = c := fun l => by
    induction l with
    | nil => exact fun _ _ => rfl
    | cons j l ih =>
      intro c hnot
      obtain ⟨hj, hl⟩ := not_or.1 (fun h => hnot (List.mem_cons.2 h))
      rw [List.foldl_cons, hrest c j (Ne.symm hj), ih c hl]
  induction l generalizing b with
  | nil => cases hq
  | cons j l ih =>
    obtain ⟨hjl, hl⟩ := List.nodup_cons.1 hnd
    rw [List.foldl_cons]
    by_cases hj : j = q
    · subst hj
      exact hskip l _ hjl
    · rw [hrest b j hj, ih hl ((List.mem_cons.1 hq).resolve_left (Ne.symm hj)) b]

/-- The first demand above 16 steps writes a record. -/
def Body.demandNoted (b : Body) (q g d : Nat) : Body :=
  if ceilDiv d 25 > 16 then (if b.power.removed.getD q 0 = 0 then b.err 0x0904 1 1 q [g, d] else b) else b

/-- The guard-bands and removed points after a measurement of `need` steps. -/
def Power.measured (w : Power) (q need : Nat) : Power :=
  { w with
    guard := w.guard.set q (max (if w.guardPor = true then 0 else w.guard.getD q 16) (min 16 need)),
    removed := w.removed.set q (max (w.removed.getD q 0) (need - 16)) }

/-- The least and the most of a Quay's Berths as WT_TEREDO shows them. -/
def Body.wtTeredoSet (b : Body) (q : Nat) : Body :=
  let regs := (List.range 20).map fun i => Reg.brTeredo (20 * q + i)
  (b.setF (.wtTeredo q) Fld.wtTeredoDegrMax ((regs.map fun r => b.getF r Fld.brTeredoDegr).foldl max 0)).setF (.wtTeredo q)
    Fld.wtTeredoPredDays ((regs.map fun r => b.getF r Fld.brTeredoPredDays).foldl min 65535)

theorem demandNoted_spec (b : Body) (q g d : Nat) (l : List Nat) : SameBut l b (b.demandNoted q g d) ∧ (b.demandNoted q g d).hm = b.hm ∧
    (b.demandNoted q g d).power = b.power ∧ ∀ r : Reg, r.Unnoted → (b.demandNoted q g d).reg r = b.reg r := by
  unfold Body.demandNoted
  split
  · split
    · exact ⟨(SameBut.refl l b).err .., Body.err_hm .., Body.err_power .., fun r hr => hr.error ..⟩
    · exact ⟨SameBut.refl l b, rfl, rfl, fun _ _ => rfl⟩
  · exact ⟨SameBut.refl l b, rfl, rfl, fun _ _ => rfl⟩

theorem teredoQuay_other (b : Body) {g q : Nat} (d : Nat) (h : g / 20 ≠ q) : b.teredoQuay q [(g, d)] = b := by
  have hnone : ([(g, d)].filter fun p => decide (p.1 / 20 = q)) = [] := List.filter_eq_nil_iff.2 fun p hp => by
    rw [List.mem_singleton.1 hp]
    exact fun he => h (of_decide_eq_true he)
  rw [Body.teredoQuay, hnone]
  exact if_pos rfl

theorem teredoQuay_one (b : Body) (g d : Nat) : b.teredoQuay (g / 20) [(g, d)] =
    { b.demandNoted (g / 20) g d with power := b.power.measured (g / 20) (ceilDiv d 25) }.wtTeredoSet (g / 20) := by
  obtain ⟨-, -, hpower, -⟩ := demandNoted_spec b (g / 20) g d []
  have hmine : ([(g, d)].filter fun p => decide (p.1 / 20 = g / 20)) = [(g, d)] := List.filter_eq_self.2 fun p hp => by
    rw [List.mem_singleton.1 hp]
    exact decide_eq_true rfl
  have hneed : ([(g, d)].map fun p => ceilDiv p.2 25).foldl max 0 = ceilDiv d 25 := Nat.zero_max _
  unfold Body.teredoQuay
  rw [hmine]
  dsimp only
  rw [hneed, if_neg (List.cons_ne_nil _ _)]
  by_cases hbig : ceilDiv d 25 > 16
  · have hfind : ([(g, d)].find? fun p => decide (ceilDiv p.2 25 > 16)) = some (g, d) := List.find?_cons_of_pos (a := (g, d)) (decide_eq_true hbig)
    rw [Body.demandNoted, if_pos hbig] at hpower ⊢
    rw [hfind]
    dsimp only
    rw [hpower]
    rfl
  · have hfind : ([(g, d)].find? fun p => decide (ceilDiv p.2 25 > 16)) = none :=
      List.find?_cons_of_neg (a := (g, d)) fun h => hbig (of_decide_eq_true h)
    rw [Body.demandNoted, if_neg hbig, hfind]
    rfl

section
variable (b : Body) {g : Nat} (d : Nat)

theorem brTeredo_stored (g : Nat) : (Reg.brTeredo g).stored := by simp [Reg.stored]

theorem unnoted_brTeredo {g : Nat} (hg : g < 200) : (Reg.brTeredo g).Unnoted := by constructor <;> simp only [Reg.addr] <;> omega

/-- What one measurement of a Berth shows. -/
theorem teredoOne_shows (hg : g < 200) : (b.teredoOne g d).getF (.brTeredo g) Fld.brTeredoDegr = min 1023 d ∧
    (b.teredoOne g d).getF (.brTeredo g) Fld.brTeredoDemand = min 63 (ceilDiv d 25) ∧
    Counted b (b.teredoOne g d) (.brTeredo g) Fld.brTeredoMeas 1 := by
  have hset := fun (b : Body) (f g' : Fld) v => getF_setF_fields b v (r := .brTeredo g) (f := f) (g := g') (decide_eq_true hg) (brTeredo_stored g)
  have hbump := fun (b : Body) (f g' : Fld) v => getF_bump_fields b v (r := .brTeredo g) (f := f) (g := g') (decide_eq_true hg) (brTeredo_stored g)
  unfold Body.teredoOne
  dsimp only
  refine ⟨?_, ?_, counted_from (counted_bump _ 1 (decide_eq_true hg) (brTeredo_stored g) (by decide) (by decide)) ?_⟩
  · rw [hbump _ _ _ _ (by decide), if_neg (by decide), hset _ _ _ _ (by decide), if_neg (by decide), hset _ _ _ _ (by decide), if_neg (by decide),
      hset _ _ _ _ (by decide), if_pos rfl]
    exact Nat.mod_eq_of_lt (lt_of_le_of_lt (min_le_left _ _) (by decide))
  · rw [hbump _ _ _ _ (by decide), if_neg (by decide), hset _ _ _ _ (by decide), if_neg (by decide), hset _ _ _ _ (by decide), if_pos rfl]
    exact Nat.mod_eq_of_lt (lt_of_le_of_lt (min_le_left _ _) (by decide))
  · rw [hset _ _ _ _ (by decide), if_neg (by decide), hset _ _ _ _ (by decide), if_neg (by decide), hset _ _ _ _ (by decide), if_neg (by decide)]
    exact Body.getF_congr rfl _ _

theorem teredoOne_same {l : List Nat} (hl : (Reg.brTeredo g).addr ∈ l) : SameBut l b (b.teredoOne g d) ∧ (b.teredoOne g d).hm = b.hm ∧
    (b.teredoOne g d).power = b.power := by
  unfold Body.teredoOne
  dsimp only
  refine ⟨SameBut.bump (SameBut.setF (SameBut.setF (SameBut.setF ?_ hl _ _) hl _ _) hl _ _) hl _ _, ?_, ?_⟩
  · exact (SameBut.refl l b).beside rfl rfl rfl rfl rfl
  · rw [Body.bump_hm, Body.setF_hm, Body.setF_hm, Body.setF_hm]
  · rw [Body.bump_power, Body.setF_power, Body.setF_power, Body.setF_power]

variable (q : Nat)

theorem wtTeredoSet_same {l : List Nat} (hl : (Reg.wtTeredo q).addr ∈ l) : SameBut l b (b.wtTeredoSet q) ∧ (b.wtTeredoSet q).hm = b.hm ∧
    (b.wtTeredoSet q).power = b.power ∧ ∀ g < 200, (b.wtTeredoSet q).reg (.brTeredo g) = b.reg (.brTeredo g) := by
  have hne : ∀ g < 200, (Reg.brTeredo g).addr ≠ (Reg.wtTeredo q).addr := fun g hg => by simp only [Reg.addr]; omega
  unfold Body.wtTeredoSet
  dsimp only
  refine ⟨((SameBut.refl l b).setF hl _ _).setF hl _ _, ?_, ?_, fun g hg => ?_⟩
  · rw [Body.setF_hm, Body.setF_hm]
  · rw [Body.setF_power, Body.setF_power]
  · rw [Body.reg_setF_ne _ _ _ (hne g hg), Body.reg_setF_ne _ _ _ (hne g hg)]

omit b g d q in
theorem foldl_max_bounds {l : List Nat} {n : Nat} (h : ∀ x ∈ l, x < n) : ∀ a < n, l.foldl max a < n ∧ a ≤ l.foldl max a ∧ ∀ x ∈ l, x ≤ l.foldl max a := by
  induction l with
  | nil => exact fun a ha => ⟨ha, le_rfl, nofun⟩
  | cons y l ih =>
    intro a ha
    obtain ⟨hlt, hle, hall⟩ := ih (fun x hx => h x (List.mem_cons_of_mem y hx)) (max a y) (max_lt ha (h y List.mem_cons_self))
    refine ⟨hlt, (le_max_left a y).trans hle, fun x hx => ?_⟩
    obtain rfl | hx := List.mem_cons.1 hx
    · exact (le_max_right a x).trans hle
    · exact hall x hx

theorem wtTeredo_stored (q : Nat) : (Reg.wtTeredo q).stored := by simp [Reg.stored]

/-- DEGR_MAX is at least the DEGR of each of the Quay's Berths. -/
theorem degr_le_wtTeredoSet (hg : g < 200) :
    b.getF (.brTeredo g) Fld.brTeredoDegr ≤ (b.wtTeredoSet (g / 20)).getF (.wtTeredo (g / 20)) Fld.wtTeredoDegrMax := by
  have hset := fun (b : Body) (f g' : Fld) v => getF_setF_fields b v (r := .wtTeredo (g / 20)) (f := f) (g := g')
    (decide_eq_true (Nat.div_lt_of_lt_mul (by omega : g < 20 * 10))) (wtTeredo_stored _)
  obtain ⟨hlt, -, hall⟩ := foldl_max_bounds (l := ((List.range 20).map fun i => Reg.brTeredo (20 * (g / 20) + i)).map fun r =>
    b.getF r Fld.brTeredoDegr) (n := 1024) (fun x hx => by
      obtain ⟨r, -, rfl⟩ := List.mem_map.1 hx
      exact Body.getF_lt b r Fld.brTeredoDegr) 0 (by decide)
  have hself : Reg.brTeredo g ∈ (List.range 20).map fun i => Reg.brTeredo (20 * (g / 20) + i) :=
    List.mem_map.2 ⟨g % 20, List.mem_range.2 (Nat.mod_lt g (by decide)), congrArg Reg.brTeredo (Nat.div_add_mod g 20)⟩
  unfold Body.wtTeredoSet
  dsimp only
  rw [hset _ _ _ _ (by decide), if_neg (by decide), hset _ _ _ _ (by decide), if_pos rfl,
    Nat.mod_eq_of_lt (show _ < 2 ^ Fld.wtTeredoDegrMax.width from hlt)]
  exact hall _ (List.mem_map_of_mem hself)

end

section
variable {s : State} {g d : Nat}

/-- The Berth is one that is measured: its Quay runs, and it works or idles. -/
def Body.measurable (b : Body) (p : Nat × Nat) : Bool := decide (p.1 < 200) && b.quayUp (p.1 / 20) && decide (b.pwr p.1 < 2)

theorem exec_teredoMeasure (degr : List (Nat × Nat)) : exec (.teredoMeasure degr) s = .next { s with
    body := if degr.filter s.body.measurable = [] then s.body
      else { (List.range 10).foldl (fun b q => b.teredoQuay q (degr.filter s.body.measurable))
        ((degr.filter s.body.measurable).foldl (fun b p => b.teredoOne p.1 p.2) s.body) with power.guardPor := false } } := rfl

theorem teredoMeasure_unmeasured (h : 200 ≤ g ∨ s.body.quayUp (g / 20) = false ∨ 2 ≤ s.body.pwr g) :
    exec (.teredoMeasure [(g, d)]) s = .next s := by
  have hnot : s.body.measurable (g, d) = false := by
    unfold Body.measurable
    dsimp only
    obtain h | h | h := h
    · rw [decide_eq_false (Nat.not_lt.2 h), Bool.false_and, Bool.false_and]
    · rw [h, Bool.and_false, Bool.false_and]
    · rw [decide_eq_false (p := s.body.pwr g < 2) (Nat.not_lt.2 h), Bool.and_false]
  refine exec_of_stopped (exec_teredoMeasure _) (List.filter_eq_nil_iff.2 fun p hp => ?_)
  rw [List.mem_singleton.1 hp, hnot]
  exact Bool.false_ne_true

/-- A measured Berth, and what its Quay makes of it. -/
def Body.teredoEnd (b : Body) (g d : Nat) : Body :=
  { (b.teredoOne g d).demandNoted (g / 20) g d with power := b.power.measured (g / 20) (ceilDiv d 25) }.wtTeredoSet (g / 20)

theorem exec_teredoMeasure_one (hg : g < 200) (hup : s.body.quayUp (g / 20) = true) (hpwr : s.body.pwr g < 2) :
    exec (.teredoMeasure [(g, d)]) s = .next { s with body := { s.body.teredoEnd g d with power.guardPor := false } } := by
  have hyes : s.body.measurable (g, d) = true := by
    unfold Body.measurable
    dsimp only
    rw [hup, decide_eq_true hg, decide_eq_true hpwr]
    rfl
  have hms : [(g, d)].filter s.body.measurable = [(g, d)] := List.filter_eq_self.2 fun p hp => by rw [List.mem_singleton.1 hp, hyes]
  have hquays : (List.range 10).foldl (fun b q => b.teredoQuay q [(g, d)]) (s.body.teredoOne g d) = (s.body.teredoOne g d).teredoQuay (g / 20) [(g, d)] :=
    foldl_only (fun c j hj => teredoQuay_other c d (Ne.symm hj)) List.nodup_range
      (List.mem_range.2 (Nat.div_lt_of_lt_mul (by omega : g < 20 * 10))) _
  obtain ⟨-, -, hpower⟩ := teredoOne_same s.body d (List.mem_singleton_self (Reg.brTeredo g).addr)
  rw [exec_teredoMeasure, hms, if_neg (List.cons_ne_nil _ _), List.foldl_cons, List.foldl_nil, hquays, teredoQuay_one, hpower]
  rfl

theorem teredoMeasure_measures (hg : g < 200) (hup : s.body.quayUp (g / 20) = true) (hpwr : s.body.pwr g < 2) :
    Gives (.teredoMeasure [(g, d)]) s fun t =>
      t.getF (.brTeredo g) Fld.brTeredoDegr = min 1023 d ∧ t.getF (.brTeredo g) Fld.brTeredoDemand = min 63 (ceilDiv d 25) ∧
      Counted s.body t (.brTeredo g) Fld.brTeredoMeas 1 ∧ min 1023 d ≤ t.getF (.wtTeredo (g / 20)) Fld.wtTeredoDegrMax ∧
      t.power = { s.body.power.measured (g / 20) (ceilDiv d 25) with guardPor := false } ∧
      SameRegsBut s.body t [(Reg.brTeredo g).addr, (Reg.wtTeredo (g / 20)).addr] ∧ SameBytes s.body t ∧ t.hm = s.body.hm := by
  have hmine := List.mem_cons_self (a := (Reg.brTeredo g).addr) (l := [(Reg.wtTeredo (g / 20)).addr])
  have hquay := List.mem_cons_of_mem (Reg.brTeredo g).addr (List.mem_singleton_self (Reg.wtTeredo (g / 20)).addr)
  obtain ⟨hone, honeHm, -⟩ := teredoOne_same s.body d hmine
  obtain ⟨hdegr, hdemand, hmeas⟩ := teredoOne_shows s.body d hg
  obtain ⟨b, hb⟩ : ∃ b, b = s.body.teredoOne g d := ⟨_, rfl⟩
  rw [← hb] at hone honeHm hdegr hdemand hmeas
  obtain ⟨hnote, hnoteHm, -, hnoteReg⟩ := demandNoted_spec b (g / 20) g d [(Reg.brTeredo g).addr, (Reg.wtTeredo (g / 20)).addr]
  obtain ⟨c, hc⟩ : ∃ c, c = { b.demandNoted (g / 20) g d with power := s.body.power.measured (g / 20) (ceilDiv d 25) } := ⟨_, rfl⟩
  have hcSame : SameBut [(Reg.brTeredo g).addr, (Reg.wtTeredo (g / 20)).addr] s.body c :=
    hc ▸ (hone.trans hnote).beside rfl rfl rfl rfl rfl
  have hcHm : c.hm = s.body.hm := by rw [hc]; exact hnoteHm.trans honeHm
  have hcReg : c.reg (.brTeredo g) = b.reg (.brTeredo g) := by rw [hc]; exact hnoteReg _ (unnoted_brTeredo hg)
  have hcPower : c.power = s.body.power.measured (g / 20) (ceilDiv d 25) := by rw [hc]
  obtain ⟨hset, hsetHm, hsetPower, hsetReg⟩ := wtTeredoSet_same c (g / 20) hquay
  have hi := exec_teredoMeasure_one (d := d) hg hup hpwr
  rw [Body.teredoEnd, ← hb, ← hc] at hi
  have hall := (hcSame.trans hset).beside (d := { c.wtTeredoSet (g / 20) with power.guardPor := false }) rfl rfl rfl rfl rfl
  have hreg : ({ c.wtTeredoSet (g / 20) with power.guardPor := false } : Body).reg (.brTeredo g) = b.reg (.brTeredo g) :=
    (hsetReg g hg).trans hcReg
  refine gives_of_next hi ⟨(getF_of_reg_eq hreg _).trans hdegr, (getF_of_reg_eq hreg _).trans hdemand, hmeas.of_reg hreg, ?_, ?_, hall.regs,
    hall.bytes, hsetHm.trans hcHm⟩
  · have hmax := degr_le_wtTeredoSet c hg
    rw [getF_of_reg_eq hcReg, hdegr] at hmax
    exact hmax
  · exact congrArg (fun w : Power => { w with guardPor := false }) (hsetPower.trans hcPower)

end

/-- Settles O59: each command of telemetry and debug by what it writes, sends or sets. -/
theorem telemetryAndDebug : Obligations.TelemetryAndDebug := by
  unfold Obligations.TelemetryAndDebug
  rintro s tel stp err rfl rfl rfl
  refine ⟨?_, fun c fl hd => ⟨telRead_unseen hd, fun hother => telRead_absent hd hother⟩,
    fun c fl ms hms hd => ⟨telPush_stale hms hd, fun e hpeer => telPush_refused hms hd hpeer, telPush_set hms hd⟩, telemetryPush_off,
    fun hperiod hphase hlive => ⟨telemetryPush_skipped hperiod hphase hlive, fun b => telemetryPush_goes hperiod hphase hlive⟩, ?_, ?_, ?_,
    tsProbeSend_idle, fun p => tsProbeSend_sends, ?_, ?_, ?_, ?_⟩
  · intro c fl i opc off data hwrites hd
    have hout : WritesOut s c i fl off data := by
      obtain ⟨rfl, rfl, rfl, id, k, hid, hmay, hslot, hk, rfl⟩ | ⟨rfl, rfl, rfl, rfl⟩ | ⟨rfl, rfl, rfl, hkind, hfirst, hlast, rfl⟩ |
        ⟨rfl, rfl, rfl, ring, next, lost, rs, n, hn, hring, hrs, rfl⟩ := hwrites
      · exact telRead_writes hd hid hmay hslot hk
      · exact telSnap_writes hd
      · exact logRead_writes hd hkind hfirst hlast
      · exact errRead_writes hd hn hring hrs
    exact ⟨fun _ => hout.refused, fun _ => hout.writes⟩
  · exact fun c fl i op frozen cause hi hop hfrozen hd => logCtl_ends hi hop hfrozen hd
  · intro c fl id op hid hop hd
    refine ⟨fun i hi hlevel hidle => ?_, fun hbegin hlevel => ⟨fun hslot => ?_, fun k hslot hbad => ?_, fun k hslot hk hopen hfree hhalted => ?_⟩,
      fun hstep => ⟨fun d hgoing hother => ?_, fun d hgoing hmine => ?_, fun k e hidle hlevel hslot hk hacc => ⟨?_, fun hmine hstate => ?_,
        fun hmine hstate => ?_⟩⟩,
      fun hend => ⟨exec_dbgStepEnd_going hop hd hend, fun hidle hlevel => ⟨dbgStepEnd_unstepped hid hop hd hend hidle hlevel,
        dbgStepEnd_clears hid hop hd hend hidle hlevel⟩⟩⟩
    · simp only [List.mem_cons, List.not_mem_nil, or_false, Prod.mk.injEq] at hi
      obtain ⟨rfl, hmin⟩ | ⟨rfl, hmin⟩ | ⟨rfl, hmin⟩ := hi
      · exact dbgStepBegin_refused hid hop hd (by omega) (.inl ⟨hlevel, rfl⟩)
      · exact dbgStepStep_unpermitted hop hd (by omega) hidle hlevel
      · exact dbgStepEnd_unpermitted hid hop hd (by omega) hidle hlevel
    · exact dbgStepBegin_refused hid hop hd hbegin (.inr ⟨hlevel, rfl, .inl hslot⟩)
    · exact dbgStepBegin_refused hid hop hd hbegin (.inr ⟨hlevel, rfl, .inr ⟨k, hslot, hbad⟩⟩)
    · exact dbgStepBegin_begins hid hop hd hbegin hlevel hslot hk hopen hfree hhalted
    · rw [exec_dbgStepStep_going hop hd hstep hgoing, if_neg hother]
    · exact gives_of_next (exec_dbgStepStep_going hop hd hstep hgoing) (if_pos hmine)
    · exact dbgStepStep_unstepped hid hop hd hstep hidle hlevel hslot hacc
    · rw [exec_dbgStepStep_stepped hid hop hd hstep hidle hlevel hslot hk hacc hmine, if_neg hstate]
    · exact gives_of_next (exec_dbgStepStep_stepped hid hop hd hstep hidle hlevel hslot hk hacc hmine) (if_pos hstate)
  · exact fun c fl l n hl hn hd => ⟨exec_tsProbe_waits hd, fun st hidle => tsProbe_refused hl hn hd hidle, fun e hidle hacc =>
      ⟨fun hdown hdown' => tsProbe_lost hl hn hd hidle hacc ⟨hdown, hdown'⟩, tsProbe_starts hl hn hd hidle hacc⟩⟩
  · exact fun l index t1 => ⟨fun hdown => exec_of_stopped exec_probeArrival (by rw [hdown]; exact Bool.false_ne_true), probeArrival_answered⟩
  · refine fun l index t2 t3 => ⟨exec_probeReply_unasked, fun p x hprobe hline hfind => ⟨fun hmore => ?_, probeReply_ends hprobe hline hfind⟩⟩
    have hi := exec_probeReply (t2 := t2) (t3 := t3) hprobe hline hfind rfl
    rw [if_neg hmore] at hi
    exact gives_of_next hi ⟨rfl, rfl, _, rfl, rfl, rfl⟩
  · exact fun kind unit k hk => ⟨exec_errorRecord_held hk, fun r rest q => errorRecord_moves hk⟩
  · rintro g d q need w rfl rfl rfl
    exact ⟨teredoMeasure_unmeasured, teredoMeasure_measures⟩

end Sys2Proof.Machine
end

section
/-! PROOFS. Berths (R439, R452): PW_BERTH, and what becomes of a Berth whose transition ends. -/

namespace Sys2Proof.Machine

/-! ### PW_BERTH -/

theorem brPwrCtl_stored (g : Nat) : (Reg.brPwrCtl g).stored := by simp [Reg.stored]

theorem brPwrStat_stored (g : Nat) : (Reg.brPwrStat g).stored := by simp [Reg.stored]

theorem unnoted_brPwrCtl {g : Nat} (hg : g < 200) : (Reg.brPwrCtl g).Unnoted := by constructor <;> simp only [Reg.addr] <;> omega

theorem unnoted_brPwrStat {g : Nat} (hg : g < 200) : (Reg.brPwrStat g).Unnoted := by constructor <;> simp only [Reg.addr] <;> omega

theorem lt_of_mem_berthsOf {qs : List Nat} (hqs : ∀ q ∈ qs, q < 10) {mask g : Nat} (hg : g ∈ berthsOf qs mask) : g < 200 := by
  obtain ⟨q, hq, hg⟩ := List.mem_flatMap.1 hg
  obtain ⟨i, hi, rfl⟩ := List.mem_map.1 hg
  have := hqs q hq
  have := List.mem_range.1 (List.mem_of_mem_filter hi)
  omega

section
variable {s : State} {c : Cmd} {fl : Flight} {qs gs : List Nat} {op : Nat} (hqs : qs = (List.range 10).filter (fun q => (c.f 1 9 0).testBit q))
  (hgs : gs = berthsOf qs (c.f 2 19 0)) (hop : op = c.f 1 17 16) (hd : Dispatched s.body c 0x7D fl)
include hqs hop hd

/-- A PW_BERTH row that names a Quay in no partition. -/
theorem pwBerth_absent (f : Body → Flight → List Nat → Body) {i : Instr} {n : Nat} (hn : op = n) (hi : exec i s = s.onBody fun b => b.pwBerth c n f)
    (habsent : ∃ q ∈ qs, partOfQuay s.body.framing q = none) : Gives i s fun t => OnlyEnds s.body t fl 0x11 0 [] := by
  obtain ⟨q, hq⟩ : ∃ q, qs.find? (fun q => decide (partOfQuay s.body.framing q = none)) = some q :=
    Option.isSome_iff_exists.1 (List.find?_isSome.2 (habsent.imp fun _ h => ⟨h.1, decide_eq_true h.2⟩))
  have hexec : exec i s = .next { s with body := s.body.fail fl 0x11 q } := by
    rw [exec_onSub hd (decide_eq_true (hop.symm.trans hn)) hi]
    dsimp only
    rw [← hqs, hq]
  exact gives_of_next hexec ((SameBut.refl [] s.body).fail fl _ _ _)

include hgs in
/-- A PW_BERTH row whose Quays lie in partitions. -/
theorem exec_pwBerth (f : Body → Flight → List Nat → Body) {i : Instr} {n : Nat} (hn : op = n) (hi : exec i s = s.onBody fun b => b.pwBerth c n f)
    (hin : ∀ q ∈ qs, partOfQuay s.body.framing q ≠ none) : exec i s = .next { s with body := f s.body fl gs } := by
  have hnone : qs.find? (fun q => decide (partOfQuay s.body.framing q = none)) = none :=
    List.find?_eq_none.2 fun q hq h => hin q hq (of_decide_eq_true h)
  rw [exec_onSub hd (decide_eq_true (hop.symm.trans hn)) hi]
  dsimp only
  rw [← hqs, hnone, hgs]

end

/-- Berths asked to wake: nothing but their transitions changes. -/
theorem askWakes_eq (b : Body) (gs : List Nat) : ∃ l, gs.foldl Body.askWake b = { b with power.berths := l } := by
  refine foldl_inv (fun c : Body => ∃ l, c = { b with power.berths := l }) Body.askWake gs b ⟨b.power.berths, rfl⟩ fun c g hc => ?_
  obtain ⟨l, rfl⟩ := hc
  unfold Body.askWake
  split
  · exact ⟨l, rfl⟩
  · exact ⟨_, rfl⟩

theorem pwrTarget_askWake (b : Body) (g k : Nat) :
    (b.askWake g).pwrTarget k = if k = g ∧ 2 ≤ b.pwr g then some 1 else b.pwrTarget k := by
  unfold Body.askWake Body.pwrTarget
  split
  next hawake => rw [if_neg fun h => absurd h.2 (Nat.not_le.2 hawake)]
  next hasleep =>
    by_cases hk : k = g
    · rw [if_pos ⟨hk, Nat.not_lt.1 hasleep⟩, hk]
      dsimp only
      rw [SMap.get_upd_self]
    · rw [if_neg fun h => hk h.1]
      dsimp only
      rw [SMap.get_upd_ne _ _ _ hk]

theorem pwr_askWake (b : Body) (g k : Nat) : (b.askWake g).pwr k = b.pwr k := by
  unfold Body.askWake
  split <;> rfl

/-- Each Berth in MOOR or LAYUP of those asked is on its way to waking. -/
theorem pwrTarget_askWakes (b : Body) (gs : List Nat) {g : Nat} (hg : g ∈ gs) (hasleep : 2 ≤ b.pwr g) :
    (gs.foldl Body.askWake b).pwrTarget g = some 1 := by
  have hstays : ∀ (gs : List Nat) (c : Body), c.pwrTarget g = some 1 → (gs.foldl Body.askWake c).pwrTarget g = some 1 := fun gs c hc =>
    foldl_inv (fun c : Body => c.pwrTarget g = some 1) Body.askWake gs c hc fun c k hc => by
      rw [pwrTarget_askWake]
      split
      · rfl
      · exact hc
  induction gs generalizing b with
  | nil => cases hg
  | cons k gs ih =>
    rw [List.foldl_cons]
    obtain rfl | hg := List.mem_cons.1 hg
    · exact hstays gs _ (by rw [pwrTarget_askWake, if_pos ⟨rfl, hasleep⟩])
    · exact ih (b.askWake k) hg (by rw [pwr_askWake]; exact hasleep)

/-- A Berth has not reached what a PW_BERTH asks for. -/
def Body.unreached (b : Body) (op goal g : Nat) : Bool := if op = 0 then decide (2 ≤ b.pwr g) else decide (b.pwr g ≠ goal)

/-- What a PW_BERTH does before it waits. -/
def Body.asked (b : Body) (op : Nat) (gs : List Nat) : Body := if op = 0 then gs.foldl Body.askWake b else b

theorem asked_eq (b : Body) (op : Nat) (gs : List Nat) : ∃ l, b.asked op gs = { b with power.berths := l } := by
  unfold Body.asked
  split
  · exact askWakes_eq b gs
  · exact ⟨b.power.berths, rfl⟩

section
variable {s : State} {c : Cmd} {fl : Flight} {qs gs : List Nat} {op : Nat} (hqs : qs = (List.range 10).filter (fun q => (c.f 1 9 0).testBit q))
  (hgs : gs = berthsOf qs (c.f 2 19 0)) (hop : op = c.f 1 17 16) (hd : Dispatched s.body c 0x7D fl)
include hqs hop hd

theorem pwBerth_refused {i : Instr} (hi : (i, op) ∈ [(Instr.pwBerthWake c, 0), (.pwBerthMoor c, 1), (.pwBerthLayup c, 2), (.pwBerthSetIdle c, 3)])
    (habsent : ∃ q ∈ qs, partOfQuay s.body.framing q = none) : Gives i s fun t => OnlyEnds s.body t fl 0x11 0 [] := by
  simp only [List.mem_cons, List.not_mem_nil, or_false, Prod.mk.injEq] at hi
  obtain ⟨rfl, hn⟩ | ⟨rfl, hn⟩ | ⟨rfl, hn⟩ | ⟨rfl, hn⟩ := hi
  · exact pwBerth_absent hqs hop hd _ hn rfl habsent
  · exact pwBerth_absent hqs hop hd _ hn rfl habsent
  · exact pwBerth_absent hqs hop hd _ hn rfl habsent
  · exact pwBerth_absent hqs hop hd _ hn rfl habsent

variable (hin : ∀ q ∈ qs, partOfQuay s.body.framing q ≠ none)
include hgs hin

theorem exec_pwBerth_asks {i : Instr} {goal : Nat} (hi : (i, op, goal) ∈ [(Instr.pwBerthWake c, 0, 1), (.pwBerthMoor c, 1, 2), (.pwBerthLayup c, 2, 3)]) :
    exec i s = .next { s with body := (s.body.asked op gs).pwWait fl (gs.filter (s.body.unreached op goal)) goal } := by
  simp only [List.mem_cons, List.not_mem_nil, or_false, Prod.mk.injEq] at hi
  obtain ⟨rfl, rfl, rfl⟩ | ⟨rfl, rfl, rfl⟩ | ⟨rfl, rfl, rfl⟩ := hi
  · rw [exec_pwBerth hqs hgs hop hd _ rfl (show exec (.pwBerthWake c) s = _ from rfl) hin]
    rfl
  · rw [exec_pwBerth hqs hgs hop hd _ rfl (show exec (.pwBerthMoor c) s = _ from rfl) hin]
    rfl
  · rw [exec_pwBerth hqs hgs hop hd _ rfl (show exec (.pwBerthLayup c) s = _ from rfl) hin]
    rfl

variable {i : Instr} {goal : Nat} (hi : (i, op, goal) ∈ [(Instr.pwBerthWake c, 0, 1), (.pwBerthMoor c, 1, 2), (.pwBerthLayup c, 2, 3)])
  {left : List Nat} (hleft : left = gs.filter (s.body.unreached op goal))
include hi hleft

theorem pwBerth_done (hnone : left = []) : Gives i s fun t => OnlyEnds s.body t fl 0 0 [] := by
  have hexec := exec_pwBerth_asks hqs hgs hop hd hin hi
  obtain ⟨l, hasked⟩ := asked_eq s.body op gs
  rw [← hleft, hnone, hasked] at hexec
  have hsame : SameBut [] s.body { s.body with power.berths := l } := (SameBut.refl [] s.body).beside rfl rfl rfl rfl rfl
  exact gives_of_next hexec (hsame.done fl 0)

theorem pwBerth_waits (hsome : left ≠ []) : Gives i s fun t => StaysInFlight s.body t fl ∧
    t.power.waits = s.body.power.waits ++ [{ fl := fl, berths := left, goal := goal }] ∧
    t.regs = s.body.regs ∧ SameBytes s.body t ∧ (op = 0 → ∀ g ∈ left, t.pwrTarget g = some 1) := by
  have hexec := exec_pwBerth_asks hqs hgs hop hd hin hi
  rw [Body.pwWait, ← hleft, if_neg hsome] at hexec
  obtain ⟨l, hasked⟩ := asked_eq s.body op gs
  have hstays : StaysInFlight s.body ((s.body.asked op gs).start fl) fl := by
    rw [hasked]
    exact staysInFlight_start rfl hd.mem
  refine gives_of_next hexec ⟨hstays, by rw [hasked], by rw [hasked]; rfl, by rw [hasked]; exact sameBytes_of rfl rfl rfl, fun hwake g hg => ?_⟩
  obtain ⟨hmem, hasleep⟩ := List.mem_filter.1 (hleft ▸ hg)
  rw [Body.unreached, if_pos hwake] at hasleep
  have htarget := pwrTarget_askWakes s.body gs hmem (of_decide_eq_true hasleep)
  change (s.body.asked op gs).pwrTarget g = some 1
  rw [Body.asked, if_pos hwake, htarget]

omit hi hleft in
theorem pwBerthSetIdle_sets (hset : op = 3) : Gives (.pwBerthSetIdle c) s fun t =>
    OnlyEnds s.body t fl 0 0 (gs.map fun g => (Reg.brPwrCtl g).addr) ∧ ∀ g ∈ gs, t.getF (.brPwrCtl g) Fld.brPwrCtlMoorIdle = c.f 3 15 0 := by
  have hlt : ∀ g ∈ gs, g < 200 := fun g hg => lt_of_mem_berthsOf (fun q hq => by
    rw [hqs] at hq
    exact List.mem_range.1 (List.mem_of_mem_filter hq)) (hgs ▸ hg)
  have hidle : ∀ (b : Body) g, g < 200 → (b.setF (.brPwrCtl g) Fld.brPwrCtlMoorIdle (c.f 3 15 0)).getF (.brPwrCtl g) Fld.brPwrCtlMoorIdle =
      c.f 3 15 0 := fun b g hg => by
    rw [getF_setF_fields (r := .brPwrCtl g) b _ (decide_eq_true hg) (brPwrCtl_stored g) (by decide), if_pos rfl]
    exact Nat.mod_eq_of_lt (cmd_f_lt c 3 15 0)
  have hi : exec (.pwBerthSetIdle c) s = .next { s with
      body := (gs.foldl (fun b g => b.setF (.brPwrCtl g) Fld.brPwrCtlMoorIdle (c.f 3 15 0)) s.body).done fl } := by
    rw [exec_pwBerth hqs hgs hop hd _ hset (show exec (.pwBerthSetIdle c) s = _ from rfl) hin]
  have hall := foldl_same (f := fun b g => b.setF (.brPwrCtl g) Fld.brPwrCtlMoorIdle (c.f 3 15 0)) (l := gs)
    (SameBut.refl (gs.map fun g => (Reg.brPwrCtl g).addr)) (fun _ _ _ => SameBut.trans)
    (fun b g hg => (SameBut.refl _ b).setF (List.mem_map_of_mem (f := fun g => (Reg.brPwrCtl g).addr) hg) _ _) s.body
  refine gives_of_next hi ⟨hall.done fl 0, fun g hg => ?_⟩
  have hg200 := hlt g hg
  rw [getF_of_reg_eq ((unnoted_brPwrCtl hg200).done _ fl 0)]
  have hstays : ∀ (l : List Nat) (b : Body), b.getF (.brPwrCtl g) Fld.brPwrCtlMoorIdle = c.f 3 15 0 →
      (l.foldl (fun b g => b.setF (.brPwrCtl g) Fld.brPwrCtlMoorIdle (c.f 3 15 0)) b).getF (.brPwrCtl g) Fld.brPwrCtlMoorIdle = c.f 3 15 0 :=
    fun l b hb => foldl_inv (fun b : Body => b.getF (.brPwrCtl g) Fld.brPwrCtlMoorIdle = c.f 3 15 0) _ l b hb fun b k hb => by
      by_cases hk : k = g
      · rw [hk]
        exact hidle b g hg200
      · rw [Body.getF_setF_ne _ _ _ _ (by simp only [Reg.addr]; omega), hb]
  obtain ⟨pre, post, hsplit⟩ := List.append_of_mem hg
  rw [hsplit, List.foldl_append, List.foldl_cons]
  exact hstays post _ (hidle _ g hg200)

end

end Sys2Proof.Machine
end

section
/-! PROOFS. Berths (R439, R452): what becomes of a Berth that idles, or whose transition ends. -/

namespace Sys2Proof.Machine

/-! ### Transitions and power states -/

theorem pwrTarget_setTarget (b : Body) (g : Nat) (t : Option Nat) : (b.setTarget g t).pwrTarget g = t := by
  unfold Body.setTarget Body.pwrTarget
  dsimp only
  rw [SMap.get_set_self]

theorem getF_setF_brPwrStat (b : Body) {g : Nat} (hg : g < 200) (f : Fld) {h : Fld} (v : Nat)
    (hf : f.lo ≤ f.hi ∧ f.hi < 64 ∧ h.lo ≤ h.hi ∧ (h = f ∨ h.hi < f.lo ∨ f.hi < h.lo)) :
    (b.setF (.brPwrStat g) f v).getF (.brPwrStat g) h = if h = f then v % 2 ^ f.width else b.getF (.brPwrStat g) h :=
  getF_setF_fields b v (decide_eq_true hg) (brPwrStat_stored g) hf

theorem pwr_setPwr (b : Body) {g : Nat} (hg : g < 200) {v : Nat} (hv : v < 4) : (b.setPwr g v).pwr g = v := by
  rw [Body.pwr, Body.setPwr, getF_setF_brPwrStat b hg _ _ (by decide), if_pos rfl]
  exact Nat.mod_eq_of_lt hv

/-- What a change of what waits and ends with DONE leave alone, PW_BERTHs that complete leave alone. -/
theorem reached_keep {γ : Type} (p : Body → γ) (hwaits : ∀ (b : Body) l, p { b with power.waits := l } = p b)
    (hdone : ∀ (b : Body) fl, p (b.done fl) = p b) (b : Body) (g : Nat) (goals : List Nat) : p (b.reached g goals) = p b := by
  unfold Body.reached
  exact (foldl_keep p _ _ _ fun b w => hdone b _).trans (hwaits b _)

theorem pwrTarget_reached (b : Body) (g : Nat) (goals : List Nat) (k : Nat) : (b.reached g goals).pwrTarget k = b.pwrTarget k :=
  reached_keep (fun b => b.pwrTarget k) (fun _ _ => rfl) (fun b fl => by rw [Body.pwrTarget, Body.done_power, Body.pwrTarget]) b g goals

theorem reg_reached (b : Body) (g : Nat) (goals : List Nat) {q : Reg} (hq : q.Unnoted) : (b.reached g goals).reg q = b.reg q :=
  reached_keep (fun b => b.reg q) (fun _ _ => rfl) (fun b fl => hq.done b fl 0) b g goals

theorem memory_done (b : Body) (fl : Flight) (r : Nat) : (b.done fl r).memory = b.memory := by simp [Body.memory]

theorem memory_reached (b : Body) (g : Nat) (goals : List Nat) : (b.reached g goals).memory = b.memory :=
  reached_keep Body.memory (fun _ _ => rfl) (fun b fl => memory_done b fl 0) b g goals

theorem ended_foldl_waits (ws : List PwWait) (b : Body) {w : PwWait} (hw : w ∈ ws) :
    ∃ e ∈ (ws.foldl (fun b w => b.done w.fl) b).hm.ended, e.fl.uid = w.fl.uid ∧ e.status = 0 := by
  have hends := ended_foldl_done (ws.map PwWait.fl) b (List.mem_map_of_mem hw)
  rwa [List.foldl_map] at hends

/-- A PW_BERTH that waited for one Berth alone ends with DONE once that has its state. -/
theorem reached_ends (b : Body) (g : Nat) {goals : List Nat} {x : PwWait} (hx : x ∈ b.power.waits) (hgoal : x.goal ∈ goals)
    (hall : ∀ k ∈ x.berths, k = g) : ∃ e ∈ (b.reached g goals).hm.ended, e.fl.uid = x.fl.uid ∧ e.status = 0 := by
  have hempty : x.berths.filter (fun k => decide (k ≠ g)) = [] := List.filter_eq_nil_iff.2 fun k hk h => of_decide_eq_true h (hall k hk)
  unfold Body.reached
  dsimp only
  exact ended_foldl_waits _ _ (w := { x with berths := x.berths.filter fun k => decide (k ≠ g) })
    (List.mem_filter.2 ⟨List.mem_map.2 ⟨x, hx, if_pos hgoal⟩, decide_eq_true hempty⟩)

/-! ### MOOR -/

/-- A moored Berth. -/
theorem moorNow_moors (b : Body) {g : Nat} (hg : g < 200) : (b.moorNow g).pwr g = 2 ∧ (b.moorNow g).pwrTarget g = none ∧
    (b.moorNow g).memory = b.memory := by
  unfold Body.moorNow
  refine ⟨?_, ?_, ?_⟩
  · rw [Body.pwr, getF_of_reg_eq (reg_log ..), ← Body.pwr, pwr_setPwr _ hg (by decide)]
  · rw [Body.pwrTarget, Body.log_power, Body.setPwr, Body.setF_power]
    exact pwrTarget_setTarget b g none
  · exact (log_keep Body.memory (fun _ _ => rfl) _ _ _ _ _ _ _ _).trans (memory_setF ..)

section
variable {s : State} {g : Fin 200}

theorem exec_berthMoorIdle : exec (.berthMoorIdle g) s = .next { s with
    body := if s.body.getF (.brPwrCtl g) Fld.brPwrCtlMoorIdle ≠ 0 ∧ s.body.moorOk g = true ∧ s.body.pwrTarget g = none
      then s.body.setTarget g (some 2) else s.body } := rfl

theorem berthMoorIdle_stays (h : s.body.getF (.brPwrCtl g) Fld.brPwrCtlMoorIdle = 0 ∨ s.body.moorOk g = false ∨ s.body.pwrTarget g ≠ none) :
    exec (.berthMoorIdle g) s = .next s := by
  rw [exec_berthMoorIdle, if_neg]
  rintro ⟨hidle, hok, hnone⟩
  obtain h | h | h := h
  exacts [hidle h, Bool.false_ne_true (h.symm.trans hok), h hnone]

theorem berthMoorIdle_begins (hidle : s.body.getF (.brPwrCtl g) Fld.brPwrCtlMoorIdle ≠ 0) (hok : s.body.moorOk g = true)
    (hnone : s.body.pwrTarget g = none) : Gives (.berthMoorIdle g) s fun t =>
      t.pwrTarget g = some 2 ∧ t.regs = s.body.regs ∧ t.hm = s.body.hm ∧ SameBytes s.body t := by
  have hi := exec_berthMoorIdle (s := s) (g := g)
  rw [if_pos ⟨hidle, hok, hnone⟩] at hi
  exact gives_of_next hi ⟨pwrTarget_setTarget .., rfl, rfl, sameBytes_of rfl rfl rfl⟩

/-! ### A transition that ends -/

theorem exec_transition_of_target {n : Nat} (htarget : s.body.pwrTarget g = some n) (hn : n ≠ 1) : exec (.berthTransitionDone g) s = .next { s with
    body := if s.body.moorOk g = true then (s.body.moorNow g).reached g [2] else s.body.setTarget g none } := by
  change Host.Outcome.next { s with body := _ } = _
  dsimp only
  rw [htarget]
  match n, hn with
  | 0, _ => rfl
  | n + 2, _ => rfl

/-- A moored Berth, and the PW_BERTHs that waited for it. -/
theorem moored_shows (b : Body) {g : Nat} (hg : g < 200) : ((b.moorNow g).reached g [2]).pwr g = 2 ∧
    ((b.moorNow g).reached g [2]).pwrTarget g = none ∧ SameBytes b ((b.moorNow g).reached g [2]) := by
  obtain ⟨hpwr, htarget, hmem⟩ := moorNow_moors b hg
  refine ⟨?_, (pwrTarget_reached ..).trans htarget, sameBytes_of_memory ((memory_reached ..).trans hmem)⟩
  rw [Body.pwr, getF_of_reg_eq (reg_reached _ _ _ (unnoted_brPwrStat hg))]
  exact hpwr

theorem transition_moors {n : Nat} (htarget : s.body.pwrTarget g = some n) (hn : n ≠ 1) (hok : s.body.moorOk g = true) :
    Gives (.berthTransitionDone g) s fun t => t.pwr g = 2 ∧ t.pwrTarget g = none ∧ SameBytes s.body t := by
  have hi := exec_transition_of_target htarget hn
  rw [if_pos hok] at hi
  exact gives_of_next hi (moored_shows s.body g.isLt)

theorem transition_ends {n : Nat} (htarget : s.body.pwrTarget g = some n) (hn : n ≠ 1) (hok : s.body.moorOk g = false) :
    Gives (.berthTransitionDone g) s fun t => t.pwrTarget g = none ∧ t.regs = s.body.regs ∧ t.hm = s.body.hm ∧ SameBytes s.body t := by
  have hi := exec_transition_of_target htarget hn
  rw [if_neg (by rw [hok]; exact Bool.false_ne_true)] at hi
  exact gives_of_next hi ⟨pwrTarget_setTarget .., rfl, rfl, sameBytes_of rfl rfl rfl⟩

end

/-! ### WAKE -/

theorem reg_setReady_ne (b : Body) {r : Nat} (hr : r < 1600) (v : Bool) {q : Reg} (h : q.addr ≠ (Reg.brHoldPwr (r / 8)).addr) :
    (b.setReady r v).reg q = b.reg q := by
  unfold Body.setReady
  rw [if_pos hr]
  exact Body.reg_setReg_ne b _ h

theorem setReady_keep {γ : Type} (p : Body → γ) (h : ∀ (b : Body) r w, p (b.setReg r w) = p b) (b : Body) (r : Nat) (v : Bool) :
    p (b.setReady r v) = p b := by
  unfold Body.setReady
  exact h b _ _

/-- A waking Berth's slices, from LAYUP. -/
def Body.slicesReady (b : Body) (g : Nat) : Body :=
  (List.range 8).foldl (fun b i => if b.regionOn (8 * g + i) ∧ b.domainUp (8 * g + i) then b.setReady (8 * g + i) true else b) b

theorem slicesReady_keep {γ : Type} (p : Body → γ) (h : ∀ (b : Body) r w, p (b.setReg r w) = p b) (b : Body) (g : Nat) :
    p (b.slicesReady g) = p b :=
  foldl_keep p _ _ b fun b i => by
    split
    · exact setReady_keep p h b _ _
    · rfl

theorem reg_slicesReady (b : Body) {g : Nat} (hg : g < 200) {q : Reg} (h : q.addr ≠ (Reg.brHoldPwr g).addr) :
    (b.slicesReady g).reg q = b.reg q :=
  foldl_same (same := fun b c => c.reg q = b.reg q) (fun _ => rfl) (fun _ _ _ h g => g.trans h) (fun c i hi => by
    have hi8 := List.mem_range.1 hi
    split
    · exact reg_setReady_ne c (by omega) true (by rw [show (8 * g + i) / 8 = g by omega]; exact h)
    · rfl) b

/-- A waking Berth, its state still to follow its work. -/
def Body.waked (b : Body) (g : Nat) : Body :=
  let c := ((b.setTarget g none).setPwr g 1).bump (.brPwrStat g) Fld.brPwrStatWakes 1
  (if b.pwr g = 3 then c.slicesReady g else c).log 0 g 0x0A 0 0xFFFF 0 1

theorem wakeNow_eq (b : Body) (g : Nat) : b.wakeNow g = if b.pwr g < 2 then b.setTarget g none else (b.waked g).syncWork g := rfl

theorem waked_keep {γ : Type} (p : Body → γ) (hset : ∀ (b : Body) r w, p (b.setReg r w) = p b) (hlog : ∀ (b : Body) x, p { b with tele := x } = p b)
    (b : Body) (g : Nat) : p (b.waked g) = p (b.setTarget g none) := by
  unfold Body.waked
  dsimp only
  rw [log_keep p hlog]
  have hset' : p (((b.setTarget g none).setPwr g 1).bump (.brPwrStat g) Fld.brPwrStatWakes 1) = p (b.setTarget g none) :=
    (hset _ _ _).trans (hset _ _ _)
  split
  · exact (slicesReady_keep p hset _ _).trans hset'
  · exact hset'

theorem reg_waked (b : Body) {g : Nat} (hg : g < 200) : (b.waked g).reg (.brPwrStat g) =
    (((b.setTarget g none).setPwr g 1).bump (.brPwrStat g) Fld.brPwrStatWakes 1).reg (.brPwrStat g) := by
  unfold Body.waked
  dsimp only
  rw [reg_log]
  split
  · exact reg_slicesReady _ hg (by simp only [Reg.addr]; omega)
  · rfl

theorem waked_shows (b : Body) {g : Nat} (hg : g < 200) : (b.waked g).pwr g = 1 ∧
    Counted b (b.waked g) (.brPwrStat g) Fld.brPwrStatWakes 1 := by
  refine ⟨?_, Counted.of_reg (counted_from (counted_bump _ 1 (decide_eq_true hg) (brPwrStat_stored g) (by decide) (by decide)) ?_) (reg_waked b hg)⟩
  · rw [Body.pwr, getF_of_reg_eq (reg_waked b hg),
      getF_bump_fields (r := .brPwrStat g) _ _ (decide_eq_true hg) (brPwrStat_stored g) (by decide), if_neg (by decide)]
    exact pwr_setPwr _ hg (by decide)
  · rw [Body.setPwr, getF_setF_brPwrStat _ hg _ _ (by decide), if_neg (by decide)]
    exact Body.getF_congr rfl _ _

theorem berthBusy_congr {b c : Body} (hberths : c.berths = b.berths) (hops : c.ops = b.ops) (g : Nat) : c.berthBusy g = b.berthBusy g := by
  rw [Body.berthBusy, Body.berth, hberths, hops, Body.berthBusy, Body.berth]

theorem berthBusy_waked (b : Body) (g : Nat) : (b.waked g).berthBusy g = b.berthBusy g :=
  berthBusy_congr (waked_keep Body.berths Body.setReg_berths (fun _ _ => rfl) b g) (waked_keep Body.ops Body.setReg_ops (fun _ _ => rfl) b g) g

/-- A Berth that wakes. -/
theorem wakeNow_wakes (b : Body) {g : Nat} (hg : g < 200) : (b.wakeNow g).pwrTarget g = none ∧ (b.wakeNow g).power.waits = b.power.waits ∧
    (2 ≤ b.pwr g → (b.wakeNow g).pwr g = if b.berthBusy g = true then 0 else 1) ∧
    Counted b (b.wakeNow g) (.brPwrStat g) Fld.brPwrStatWakes (if 2 ≤ b.pwr g then 1 else 0) := by
  rw [wakeNow_eq]
  split
  next hawake =>
    rw [if_neg (Nat.not_le.2 hawake)]
    exact ⟨pwrTarget_setTarget .., rfl, fun h => absurd hawake (Nat.not_lt.2 h), (counted_zero b _ _).of_reg rfl⟩
  next hasleep =>
    rw [if_pos (Nat.not_lt.1 hasleep)]
    obtain ⟨hpwr, hwakes⟩ := waked_shows b hg
    have hpower : ((b.waked g).syncWork g).power = (b.setTarget g none).power :=
      (syncWork_keep Body.power Body.setF_power _ g).trans (waked_keep Body.power Body.setReg_power (fun _ _ => rfl) b g)
    refine ⟨?_, by rw [hpower]; rfl, fun _ => ?_, ?_⟩
    · rw [Body.pwrTarget, hpower]
      exact pwrTarget_setTarget b g none
    · rw [Body.syncWork, ← Body.pwr, hpwr, if_pos (by decide), Body.pwr, getF_setF_brPwrStat _ hg _ _ (by decide), if_pos rfl, berthBusy_waked]
      split <;> rfl
    · rw [Body.syncWork, ← Body.pwr, hpwr, if_pos (by decide)]
      exact hwakes.of_getF (by rw [getF_setF_brPwrStat _ hg _ _ (by decide), if_neg (by decide)])

section
variable {s : State} {g : Fin 200}

theorem transition_wakes (htarget : s.body.pwrTarget g = some 1) : Gives (.berthTransitionDone g) s fun t => t.pwrTarget g = none ∧
    (2 ≤ s.body.pwr g → t.pwr g = if s.body.berthBusy g = true then 0 else 1) ∧
    Counted s.body t (.brPwrStat g) Fld.brPwrStatWakes (if 2 ≤ s.body.pwr g then 1 else 0) ∧
    ∀ x ∈ s.body.power.waits, x.goal = 1 → (∀ k ∈ x.berths, k = g.val) → ∃ e ∈ t.hm.ended, e.fl.uid = x.fl.uid ∧ e.status = 0 := by
  have hi : exec (.berthTransitionDone g) s = .next { s with body := (s.body.wakeNow g).reached g [1] } := by
    change Host.Outcome.next { s with body := _ } = _
    dsimp only
    rw [htarget]
    rfl
  obtain ⟨hnone, hwaits, hpwr, hwakes⟩ := wakeNow_wakes s.body g.isLt
  have hreg := reg_reached (s.body.wakeNow g) g [1] (unnoted_brPwrStat g.isLt)
  refine gives_of_next hi ⟨(pwrTarget_reached ..).trans hnone, fun hasleep => (getF_of_reg_eq hreg _).trans (hpwr hasleep), hwakes.of_reg hreg,
    fun x hx hgoal hall => reached_ends _ _ (hwaits ▸ hx) (by rw [hgoal]; exact List.mem_singleton_self 1) hall⟩

end

/-! ### LAYUP -/

/-- A register of a list that resets reads as its own reset leaves it: the others lie elsewhere. -/
theorem reg_resetRegs (k : Keep) {r : Reg} {l : List Reg} (hr : r ∈ l) (hapart : ∀ q ∈ l, q = r ∨ q.addr ≠ r.addr) (b : Body) :
    ∃ c : Body, (l.foldl (Body.resetReg k) b).reg r = (c.resetReg k r).reg r := by
  have hskip : ∀ (l : List Reg) (b : Body), r ∉ l → (∀ q ∈ l, q = r ∨ q.addr ≠ r.addr) → (l.foldl (Body.resetReg k) b).reg r = b.reg r :=
    fun l => by
      induction l with
      | nil => exact fun _ _ _ => rfl
      | cons q l ih =>
        intro b hnot hapart
        obtain ⟨hq, hl⟩ := not_or.1 (fun h => hnot (List.mem_cons.2 h))
        have hne := (hapart q List.mem_cons_self).resolve_left (Ne.symm hq)
        rw [List.foldl_cons, ih _ hl fun x hx => hapart x (List.mem_cons_of_mem q hx)]
        unfold Body.resetReg
        exact foldl_keep (fun b : Body => b.reg r) _ _ b fun b f => by
          split
          · rfl
          · exact Body.reg_setF_ne b f _ hne.symm
  induction l generalizing b with
  | nil => cases hr
  | cons q l ih =>
    have hrest : ∀ x ∈ l, x = r ∨ x.addr ≠ r.addr := fun x hx => hapart x (List.mem_cons_of_mem q hx)
    rw [List.foldl_cons]
    by_cases hin : r ∈ l
    · exact ih hin hrest _
    · obtain rfl := (List.mem_cons.1 hr).resolve_right hin
      exact ⟨b, hskip l _ hin hrest⟩

theorem brHoldPwr_stored (g : Nat) : (Reg.brHoldPwr g).stored := by simp [Reg.stored]

theorem sliceReady_resetReg (b : Body) {g : Nat} (hg : g < 200) : (b.resetReg .layup (.brHoldPwr g)).getF (.brHoldPwr g) Fld.brHoldPwrSliceReady = 0 := by
  have hreset : b.resetReg .layup (.brHoldPwr g) = (b.setF (.brHoldPwr g) Fld.brHoldPwrSliceOn (Fld.brHoldPwrSliceOn.resetVal b.framing (.brHoldPwr g))).setF
      (.brHoldPwr g) Fld.brHoldPwrSliceReady 0 := rfl
  rw [hreset, getF_setF_fields (r := .brHoldPwr g) _ _ (decide_eq_true hg) (brHoldPwr_stored g) (by decide), if_pos rfl]
  rfl

/-- With SLICE_READY 0 no slice is ready. -/
theorem regionReady_of_sliceReady {b : Body} {g k : Nat} (hk : k < 8) (hg : g < 200) (h : b.getF (.brHoldPwr g) Fld.brHoldPwrSliceReady = 0) :
    b.regionReady (8 * g + k) = false := by
  have hbits : (b.reg (.brHoldPwr g)).toNat >>> 8 % 2 ^ 8 = 0 := h
  have hbit : ((b.reg (.brHoldPwr g)).toNat >>> 8).testBit k = false := by
    have htest := Nat.testBit_mod_two_pow ((b.reg (.brHoldPwr g)).toNat >>> 8) 8 k
    rw [hbits, Nat.zero_testBit, decide_eq_true hk, Bool.true_and] at htest
    exact htest.symm
  rw [Nat.testBit_shiftRight] at hbit
  rw [Body.regionReady, if_pos (by omega), show (8 * g + k) / 8 = g by omega, show (8 * g + k) % 8 = k by omega]
  exact hbit

theorem holdPwr_apart (g : Nat) : ∀ q ∈ berthRegs g, q = .brHoldPwr g ∨ q.addr ≠ (Reg.brHoldPwr g).addr := by
  simp only [berthRegs, List.forall_mem_cons, List.not_mem_nil, Reg.addr, reduceCtorEq, false_or, true_or, IsEmpty.forall_iff, implies_true,
    and_true, true_and]
  omega

theorem regionCut_keep {γ : Type} (p : Body → γ) (hset : ∀ (b : Body) r w, p (b.setReg r w) = p b) (hst : ∀ (b : Body) x, p { b with st := x } = p b)
    (hlose : ∀ (b : Body) r, p (b.loseRegion r) = p b) (b : Body) (r : Nat) : p (b.regionCut r) = p b := by
  unfold Body.regionCut Body.regionDown
  exact (hst _ _).trans ((hlose _ _).trans ((setReady_keep p hset _ _ _).trans (hst _ _)))

/-- A laid-up Berth holds nothing. -/
theorem layupNow_lays (b : Body) {g : Nat} (hg : g < 200) : (b.layupNow g).pwr g = 3 ∧ (b.layupNow g).berth g = {} ∧
    (b.layupNow g).getF (.brHoldPwr g) Fld.brHoldPwrSliceReady = 0 := by
  unfold Body.layupNow
  dsimp only
  refine ⟨pwr_setPwr _ hg (by decide), ?_, ?_⟩
  · have hkeep : ∀ b : Body, (b.ripplesLost ((List.range 4).map (4 * g + ·))).berths = b.berths := fun b =>
      foldl_keep Body.berths _ _ b fun _ _ => rfl
    have hregs : ∀ b : Body, ((berthRegs g).foldl (Body.resetReg .layup) b).berths = b.berths := fun b =>
      foldl_keep Body.berths _ _ b fun b r => resetReg_keep Body.berths Body.setF_berths .layup b r
    have hcuts : ∀ b : Body, ((List.range 8).foldl (fun b i => b.regionCut (8 * g + i)) b).berths = b.berths := fun b =>
      foldl_keep Body.berths _ _ b fun b i => regionCut_keep Body.berths Body.setReg_berths (fun _ _ => rfl) (fun _ _ => rfl) b _
    have hbench : ∀ b : Body, ((b.benchLose g).loseRegion (2000 + g)).berths = b.berths := fun b => Body.setF_berths ..
    rw [Body.berth, Body.setPwr, Body.setF_berths, hregs, hkeep, hbench, hcuts]
    dsimp only
    rw [SMap.get, SMap.find_drop_self]
    rfl
  · obtain ⟨c, hc⟩ := reg_resetRegs .layup (r := .brHoldPwr g) (l := berthRegs g) (by simp [berthRegs]) (holdPwr_apart g)
      (((((List.range 8).foldl (fun (b : Body) i => b.regionCut (8 * g + i)) _).benchLose g).loseRegion (2000 + g)).ripplesLost ((List.range 4).map (4 * g + ·)))
    rw [Body.setPwr, Body.getF_setF_ne _ _ _ _ (by simp only [Reg.addr]; omega), getF_of_reg_eq hc]
    exact sliceReady_resetReg c hg

end Sys2Proof.Machine
end

section
/-! PROOFS. Berths (R439, R452): a Berth that no transition holds serves the oldest PW_BERTH it can. -/

namespace Sys2Proof.Machine

/-- A Berth can serve a PW_BERTH that waits. -/
def Body.canServe (b : Body) (g : Nat) (w : PwWait) : Bool :=
  decide (g ∈ w.berths) && ((decide (w.goal = 2) && b.moorOk g) ||
    (decide (w.goal = 3) && if b.holdsCrate g then b.moorOk g || decide (b.pwr g = 2) else b.layupOk g))

/-- A Berth serves a PW_BERTH. -/
def Body.serve (b : Body) (g : Nat) (w : PwWait) : Body :=
  if w.goal = 2 then (b.moorNow g).reached g [2]
  else if b.holdsCrate g then
    ((if b.pwr g = 1 then b.moorNow g else b).setF (.brPwrStat g) Fld.brPwrStatHeldMoor 1).reached g [2, 3]
  else (b.layupNow g).reached g [3]

theorem pwr_of_moorOk {b : Body} {g : Nat} (hok : b.moorOk g = true) : b.pwr g = 1 := by
  simp only [Body.moorOk, Bool.and_eq_true, decide_eq_true_eq] at hok
  obtain ⟨⟨⟨hpwr, -⟩, -⟩, -⟩ := hok
  exact hpwr

section
variable {s : State} {g : Fin 200} (hnone : s.body.pwrTarget g = none)
include hnone

theorem transition_serves_none (hwaits : s.body.power.waits = []) : exec (.berthTransitionDone g) s = .next s := by
  change Host.Outcome.next { s with body := _ } = _
  dsimp only
  rw [hnone]
  dsimp only
  rw [hwaits]
  rfl

variable {x : PwWait} {r : List PwWait} (hwaits : s.body.power.waits = x :: r)
include hwaits

theorem exec_transition_serves (hcan : s.body.canServe g x = true) :
    exec (.berthTransitionDone g) s = .next { s with body := s.body.serve g x } := by
  have hfind : s.body.power.waits.find? (s.body.canServe g) = some x := by rw [hwaits, List.find?_cons_of_pos hcan]
  have hi : exec (.berthTransitionDone g) s = .next { s with
      body := match s.body.power.waits.find? (s.body.canServe g) with
        | none => s.body
        | some w => s.body.serve g w } := by
    change Host.Outcome.next { s with body := _ } = _
    dsimp only
    rw [hnone]
    rfl
  rw [hi, hfind]

variable (hmem : g.val ∈ x.berths)
include hmem

theorem transition_serves_moor (hgoal : x.goal = 2) (hok : s.body.moorOk g = true) :
    Gives (.berthTransitionDone g) s fun t => t.pwr g = 2 ∧ SameBytes s.body t := by
  have hi := exec_transition_serves hnone hwaits (by simp [Body.canServe, hmem, hgoal, hok])
  rw [Body.serve, if_pos hgoal] at hi
  obtain ⟨hpwr, -, hbytes⟩ := moored_shows s.body g.isLt
  exact gives_of_next hi ⟨hpwr, hbytes⟩

theorem transition_serves_held (hgoal : x.goal = 3) (hcrate : s.body.holdsCrate g = true) (hok : s.body.moorOk g = true) :
    Gives (.berthTransitionDone g) s fun t => t.pwr g = 2 ∧ t.getF (.brPwrStat g) Fld.brPwrStatHeldMoor = 1 ∧ SameBytes s.body t := by
  have hi := exec_transition_serves hnone hwaits (by simp [Body.canServe, hmem, hgoal, hcrate, hok])
  rw [Body.serve, if_neg (by rw [hgoal]; decide), if_pos hcrate, if_pos (pwr_of_moorOk hok)] at hi
  obtain ⟨hpwr, -, hmemory⟩ := moorNow_moors s.body g.isLt
  have hreg := reg_reached ((s.body.moorNow g).setF (.brPwrStat g) Fld.brPwrStatHeldMoor 1) g [2, 3] (unnoted_brPwrStat g.isLt)
  refine gives_of_next hi ⟨?_, ?_, sameBytes_of_memory ((memory_reached ..).trans ((memory_setF ..).trans hmemory))⟩
  · rw [Body.pwr, getF_of_reg_eq hreg, getF_setF_brPwrStat _ g.isLt _ _ (by decide), if_neg (by decide)]
    exact hpwr
  · rw [getF_of_reg_eq hreg, getF_setF_brPwrStat _ g.isLt _ _ (by decide), if_pos rfl]
    rfl

theorem transition_serves_layup (hgoal : x.goal = 3) (hcrate : s.body.holdsCrate g = false) (hok : s.body.layupOk g = true) :
    Gives (.berthTransitionDone g) s fun t => t.pwr g = 3 ∧ t.berth g = {} ∧ ∀ k, k < 8 → t.regionReady (8 * g.val + k) = false := by
  have hi := exec_transition_serves hnone hwaits (by simp [Body.canServe, hmem, hgoal, hcrate, hok])
  rw [Body.serve, if_neg (by rw [hgoal]; decide), if_neg (by rw [hcrate]; decide)] at hi
  obtain ⟨hpwr, hberth, hready⟩ := layupNow_lays s.body g.isLt
  have hhold : (Reg.brHoldPwr g).Unnoted := by
    have := g.isLt
    constructor <;> simp only [Reg.addr] <;> omega
  refine gives_of_next hi ⟨?_, ?_, fun k hk => regionReady_of_sliceReady hk g.isLt ?_⟩
  · exact (getF_of_reg_eq (reg_reached _ _ _ (unnoted_brPwrStat g.isLt)) _).trans hpwr
  · exact (reached_keep (fun b => b.berth g) (fun _ _ => rfl) (fun b fl => by rw [Body.berth, Body.done_berths, Body.berth]) _ _ _).trans hberth
  · exact (getF_of_reg_eq (reg_reached _ _ _ hhold) _).trans hready

end

end Sys2Proof.Machine
end

section
/-! PROOFS. DRYDOCK (R432, R438, R442): the power-off that ends its entry, and the trips. -/

namespace Sys2Proof.Machine

/-! ### The module in DRYDOCK -/

/-- A module in DRYDOCK: nothing in flight and no framing. -/
structure Drydocked (b t : Body) (wake : Option Word) (trip : Nat) : Prop where
  phase : t.boot.phase = .drydock
  wake : t.power.wakeAt = wake
  module : t.getF .wtState Fld.wtStateModule = 2
  trip : t.getF .wtState Fld.wtStateTrip = trip
  flights : t.hm.flights = []
  ended : t.hm.ended = []
  framing : t.framing = []
  ts : t.ts = b.ts

theorem wtState_resetReg (b : Body) : b.resetReg .drydock .wtState = b := rfl

theorem ofAddr_wtState : Reg.ofAddr Reg.wtState.addr = some .wtState := by decide

/-- DRYDOCK keeps WT_STATE whole. -/
theorem wtState_resetAt (b : Body) (a : Nat) : (b.resetAt .drydock a).reg .wtState = b.reg .wtState := by
  by_cases ha : a = Reg.wtState.addr
  · rw [ha, Body.resetAt, ofAddr_wtState]
    rfl
  · unfold Body.resetAt
    split
    next r hr =>
      obtain ⟨hat, -⟩ := Reg.ofAddr_sound hr
      exact foldl_keep (fun b : Body => b.reg .wtState) _ _ b fun b f => by
        split
        · rfl
        · exact Body.reg_setF_ne b f _ fun h => ha (hat.symm.trans h.symm)
    · rfl

theorem wtState_cleared (b : Body) : (b.cleared .drydock).reg .wtState = b.reg .wtState := by
  rw [cleared_eq]
  exact foldl_keep (fun b : Body => b.reg .wtState) _ _ _ fun c p => wtState_resetAt c p.1

/-- A body that has lost power but for what DRYDOCK keeps. -/
def Body.docked (b : Body) (wake : Option Word) : Body := { b with boot.phase := .drydock, boot.kind := 2, power.wakeAt := wake }

theorem drydockNow_eq (b : Body) (wake : Option Word) : b.drydockNow wake =
    (((List.range 10).foldl Body.setClock ((b.cleared .drydock).docked wake)).moduleState 2).syncFault := rfl

theorem docked_keep {γ : Type} (p : Body → γ) (hset : ∀ (b : Body) r f v, p (b.setF r f v) = p b) (htele : ∀ (b : Body) x, p { b with tele := x } = p b)
    (hfree : ∀ (b : Body) n, p { b with freeCtr := n } = p b) (hsend : ∀ (b : Body) m, p (b.send m) = p b) (b : Body) (wake : Option Word) :
    p (b.drydockNow wake) = p ((b.cleared .drydock).docked wake) := by
  rw [drydockNow_eq, syncFault_keep p hset hsend, moduleState_keep p hset (log_keep p htele)]
  exact foldl_keep p _ _ _ fun b q => setClock_keep p (fun b _ => hset b _) htele hfree b q

theorem wtState_setClock (b : Body) {q : Nat} (hq : q < 10) : (b.setClock q).reg .wtState = b.reg .wtState :=
  reg_setClock_ne b q (by simp only [Reg.addr]; omega)

theorem wtState_docked (b : Body) (wake : Option Word) :
    (((List.range 10).foldl Body.setClock ((b.cleared .drydock).docked wake))).reg .wtState = b.reg .wtState :=
  (foldl_same (same := fun b c : Body => c.reg .wtState = b.reg .wtState) (fun _ => rfl) (fun _ _ _ h g => g.trans h)
    (fun c _ hq => wtState_setClock c (List.mem_range.1 hq)) _).trans (wtState_cleared b)

theorem drydockNow_docks (b : Body) (wake : Option Word) : Drydocked b (b.drydockNow wake) wake (b.getF .wtState Fld.wtStateTrip) := by
  have hhm : (b.drydockNow wake).hm = { nextUid := b.hm.nextUid } :=
    (docked_keep Body.hm Body.setF_hm (fun _ _ => rfl) (fun _ _ => rfl) (fun _ _ => rfl) b wake).trans
      ((cleared_keep Body.hm Body.setF_hm b .drydock).trans (hm_emptied b .drydock))
  constructor
  case phase =>
    exact docked_keep (fun b => b.boot.phase) (fun b _ _ _ => by rw [Body.setF_boot]) (fun _ _ => rfl) (fun _ _ => rfl) (fun _ _ => rfl) b wake
  case wake =>
    exact docked_keep (fun b => b.power.wakeAt) (fun b _ _ _ => by rw [Body.setF_power]) (fun _ _ => rfl) (fun _ _ => rfl) (fun _ _ => rfl) b wake
  case module =>
    rw [drydockNow_eq, getF_of_reg_eq (reg_syncFault _)]
    exact module_moduleState _ (by decide)
  case trip =>
    rw [drydockNow_eq, getF_of_reg_eq (reg_syncFault _), above_moduleState _ _ (by decide) (by decide)]
    exact getF_of_reg_eq (wtState_docked b wake) _
  case flights => rw [hhm]
  case ended => rw [hhm]
  case framing =>
    exact (docked_keep Body.framing Body.setF_framing (fun _ _ => rfl) (fun _ _ => rfl) (fun _ _ => rfl) b wake).trans
      ((cleared_keep Body.framing Body.setF_framing b .drydock).trans (framing_emptied b .drydock))
  case ts =>
    exact (docked_keep Body.ts Body.setF_ts (fun _ _ => rfl) (fun _ _ => rfl) (fun _ _ => rfl) b wake).trans
      ((cleared_keep Body.ts Body.setF_ts b .drydock).trans (ts_emptied b .drydock))

/-- A trip: DRYDOCK with TRIP set and no wake timer. -/
theorem trip_docks (b : Body) : Drydocked b b.trip none 1 := by
  have hdocks := drydockNow_docks ({ b.readyLevel false with boot.tripped := true }.setF .wtState Fld.wtStateTrip 1) none
  rw [Body.getF_setF_self _ _ rfl wtState_stored (by decide) (by decide)] at hdocks
  exact { hdocks with ts := hdocks.ts.trans (Body.setF_ts ..) }

section
variable {s : State}

theorem exec_drydockPowerOff : exec .drydockPowerOff s = .next { s with
    body := if s.body.boot.phase = .drydockEntry then s.body.drydockNow s.body.power.wakeAt else s.body } := rfl

theorem exec_thermalTrip (die : Fin 12) (temp : Nat) : exec (.thermalTrip die temp) s = .next { s with
    body := if temp ≤ 120 ∨ s.body.boot.phase = .off ∨ s.body.boot.phase = .drydock then s.body
      else ((s.body.freezeLogs 4).err 0x0901 2 10 0 [die, temp]).trip } := rfl

theorem exec_refclkAbsentTimeout : exec .refclkAbsentTimeout s = .next { s with
    body := if ¬ s.body.power.refclk ∧ s.body.boot.phase ∈ [.run, .anchorEntry, .anchor] then s.body.trip else s.body } := rfl

theorem drydockPowerOff_docks (h : s.body.boot.phase = .drydockEntry) : Gives .drydockPowerOff s fun t =>
    Drydocked s.body t s.body.power.wakeAt (s.body.getF .wtState Fld.wtStateTrip) := by
  have hi := exec_drydockPowerOff (s := s)
  rw [if_pos h] at hi
  exact gives_of_next hi (drydockNow_docks ..)

theorem drydockPowerOff_elsewhere (h : s.body.boot.phase ≠ .drydockEntry) : exec .drydockPowerOff s = .next s := by
  rw [exec_drydockPowerOff, if_neg h]

theorem thermalTrip_docks (die : Fin 12) {temp : Nat} (hhot : 120 < temp) (hoff : s.body.boot.phase ≠ .off) (hdry : s.body.boot.phase ≠ .drydock) :
    Gives (.thermalTrip die temp) s fun t => Drydocked s.body t none 1 := by
  have hi := exec_thermalTrip (s := s) die temp
  rw [if_neg (by
    rintro (h | h | h)
    exacts [Nat.not_le.2 hhot h, hoff h, hdry h])] at hi
  have hdocks := trip_docks ((s.body.freezeLogs 4).err 0x0901 2 10 0 [die, temp])
  have hfreeze : (s.body.freezeLogs 4).ts = s.body.ts := by
    unfold Body.freezeLogs
    split
    · rfl
    · rw [Body.setF_ts, Body.setF_ts]
  exact gives_of_next hi { hdocks with ts := hdocks.ts.trans ((Body.err_ts ..).trans hfreeze) }

theorem thermalTrip_cool (die : Fin 12) {temp : Nat} (h : temp ≤ 120 ∨ s.body.boot.phase = .off ∨ s.body.boot.phase = .drydock) :
    exec (.thermalTrip die temp) s = .next s := by
  rw [exec_thermalTrip, if_pos h]

theorem refclkAbsentTimeout_docks (hclk : s.body.power.refclk = false) (h : s.body.boot.phase ∈ [.run, .anchorEntry, .anchor]) :
    Gives .refclkAbsentTimeout s fun t => Drydocked s.body t none 1 := by
  have hi := exec_refclkAbsentTimeout (s := s)
  rw [if_pos ⟨by rw [hclk]; exact Bool.false_ne_true, h⟩] at hi
  exact gives_of_next hi (trip_docks s.body)

theorem refclkAbsentTimeout_elsewhere (h : s.body.power.refclk = true ∨ s.body.boot.phase ∉ [.run, .anchorEntry, .anchor]) :
    exec .refclkAbsentTimeout s = .next s := by
  rw [exec_refclkAbsentTimeout, if_neg]
  rintro ⟨hclk, hin⟩
  exact h.elim hclk fun hnot => hnot hin

end

/-! ### Waking (R440, R442, R453) -/

/-- A cause that wakes the module. -/
def Body.woken (b : Body) (cause : Nat) : Body := if b.boot.phase = .drydock then b.leaveDrydock cause else b.wake cause

/-- What WT_STATE and the module's phase show of a cause that wakes it. -/
structure Wakes (b t : Body) (cause : Nat) : Prop where
  hm : t.hm = b.hm
  memory : t.memory = b.memory
  regs : ∀ q : Reg, q.addr ≠ Reg.wtState.addr → t.reg q = b.reg q
  timer : b.power.wakeAt = none → t.power.wakeAt = none
  drydock : b.boot.phase = .drydock → t.boot.phase = (if b.boot.rstN = true then .released else .held) ∧
    t.getF .wtState Fld.wtStateWake = cause ∧ t.getF .wtState Fld.wtStateModule = 3 ∧ t.power.wakeAt = none
  anchor : b.boot.phase ∈ [.anchor, .anchorEntry] → t.boot.phase = b.boot.phase ∧ t.power.exitPending = true ∧
    t.getF .wtState Fld.wtStateWake = if b.power.exitPending = true then min cause (b.getF .wtState Fld.wtStateWake) else cause
  elsewhere : b.boot.phase ∉ [.drydock, .anchor, .anchorEntry] → t.boot.phase = b.boot.phase ∧ t.reg .wtState = b.reg .wtState ∧
    t.power.exitPending = b.power.exitPending

theorem wake_setF (b : Body) {v : Nat} (hv : v < 8) : (b.setF .wtState Fld.wtStateWake v).getF .wtState Fld.wtStateWake = v := by
  rw [Body.getF_setF_self _ _ rfl wtState_stored (by decide) (by decide)]
  exact Nat.mod_eq_of_lt hv

theorem leaveDrydock_wakes (b : Body) {cause : Nat} (hcause : cause < 8) (h : b.boot.phase = .drydock) : Wakes b (b.leaveDrydock cause) cause := by
  have hkeep : ∀ {γ : Type} (p : Body → γ), (∀ (b : Body) r f v, p (b.setF r f v) = p b) → (∀ (b : Body) x, p { b with tele := x } = p b) →
      p (b.leaveDrydock cause) = p b.drydockLeft := fun p hset htele => by
    rw [leaveDrydock_eq, moduleState_keep p hset (log_keep p htele), hset]
  have htimer : (b.leaveDrydock cause).power.wakeAt = none := hkeep (fun b => b.power.wakeAt) (fun b _ _ _ => by rw [Body.setF_power]) (fun _ _ => rfl)
  constructor
  case hm => exact hkeep Body.hm Body.setF_hm fun _ _ => rfl
  case memory => exact hkeep Body.memory memory_setF fun _ _ => rfl
  case regs =>
    intro q hq
    rw [leaveDrydock_eq, Body.moduleState, reg_log, Body.reg_setF_ne _ _ _ hq, Body.reg_setF_ne _ _ _ hq]
    rfl
  case timer => exact fun _ => htimer
  case drydock =>
    refine fun _ => ⟨hkeep (fun b => b.boot.phase) (fun b _ _ _ => by rw [Body.setF_boot]) (fun _ _ => rfl), ?_, ?_, htimer⟩
    · rw [leaveDrydock_eq, above_moduleState _ _ (by decide) (by decide)]
      exact wake_setF _ hcause
    · rw [leaveDrydock_eq]
      exact module_moduleState _ (by decide)
  case anchor =>
    intro hin
    rw [h] at hin
    exact absurd hin (by decide)
  case elsewhere => exact fun hnot => absurd (by rw [h]; decide) hnot

theorem wake_wakes (b : Body) {cause : Nat} (hcause : cause < 8) (h : b.boot.phase ≠ .drydock) : Wakes b (b.wake cause) cause := by
  unfold Body.wake
  split
  next hanchor =>
    generalize hv : (if b.power.exitPending = true then min cause (b.getF .wtState Fld.wtStateWake) else cause) = v
    have hlt : v < 8 := by
      rw [← hv]
      split
      · exact Nat.lt_of_le_of_lt (Nat.min_le_left ..) hcause
      · exact hcause
    exact {
      hm := Body.setF_hm ..
      memory := memory_setF ..
      regs := fun q hq => Body.reg_setF_ne { b with power.exitPending := true } _ _ hq
      timer := fun hnone => (congrArg Power.wakeAt (Body.setF_power ..)).trans hnone
      drydock := fun hdry => absurd hdry h
      anchor := fun _ => ⟨by rw [Body.setF_boot], by rw [Body.setF_power], (wake_setF _ hlt).trans hv.symm⟩
      elsewhere := fun hnot => absurd (by obtain h | h := hanchor <;> rw [h] <;> decide) hnot }
  next hnot =>
    exact {
      hm := rfl
      memory := rfl
      regs := fun _ _ => rfl
      timer := id
      drydock := fun hdry => absurd hdry h
      anchor := fun hin => absurd (by simpa using hin) hnot
      elsewhere := fun _ => ⟨rfl, rfl, rfl⟩ }

theorem woken_wakes (b : Body) {cause : Nat} (hcause : cause < 8) : Wakes b (b.woken cause) cause := by
  unfold Body.woken
  split
  next h => exact leaveDrydock_wakes b hcause h
  next h => exact wake_wakes b hcause h

section
variable {s : State}

theorem exec_wakeTimer : exec .wakeTimer s = .next { s with
    body := if s.body.power.wakeAt = none then s.body else { s.body with power.wakeAt := none }.woken 3 } := rfl

theorem exec_wakePin : exec .wakePin s = .next { s with
    body := if s.body.boot.phase = .off then s.body else (s.body.setF .wtPinStat Fld.wtPinStatWake 1).woken 2 } := rfl

theorem wakeTimer_none (h : s.body.power.wakeAt = none) : exec .wakeTimer s = .next s := by rw [exec_wakeTimer, if_pos h]

theorem wakePin_off (h : s.body.boot.phase = .off) : exec .wakePin s = .next s := by rw [exec_wakePin, if_pos h]

theorem exec_wakes {i : Instr} {cause : Nat}
    (hi : (i = .wakeTimer ∧ cause = 3 ∧ s.body.power.wakeAt ≠ none) ∨ (i = .wakePin ∧ cause = 2 ∧ s.body.boot.phase ≠ .off)) :
    ∃ b : Body, exec i s = .next { s with body := b.woken cause } ∧ cause < 8 ∧ b.hm = s.body.hm ∧ b.memory = s.body.memory ∧ b.boot = s.body.boot ∧
      (∀ q : Reg, q.addr ≠ Reg.wtPinStat.addr → b.reg q = s.body.reg q) ∧ b.power.exitPending = s.body.power.exitPending ∧ (cause = 3 → b.power.wakeAt = none) ∧
      (cause = 2 → b.flag .wtPinStat Fld.wtPinStatWake = true) := by
  obtain ⟨rfl, rfl, htimer⟩ | ⟨rfl, rfl, hon⟩ := hi
  · have hi := exec_wakeTimer (s := s)
    rw [if_neg htimer] at hi
    exact ⟨_, hi, by decide, rfl, rfl, rfl, fun _ _ => rfl, rfl, fun _ => rfl, fun h => absurd h (by decide)⟩
  · have hi := exec_wakePin (s := s)
    rw [if_neg hon] at hi
    refine ⟨_, hi, by decide, Body.setF_hm .., memory_setF .., Body.setF_boot .., fun q hq => Body.reg_setF_ne _ _ _ hq,
      by rw [Body.setF_power], fun h => absurd h (by decide), fun _ => ?_⟩
    rw [Body.flag, Body.getF_setF_self _ _ rfl wtPinStat_stored (by decide) (by decide)]
    rfl

/-- A cause that wakes the module, as the timer or the pin gives it. -/
theorem cause_wakes {i : Instr} {cause : Nat}
    (hi : (i = .wakeTimer ∧ cause = 3 ∧ s.body.power.wakeAt ≠ none) ∨ (i = .wakePin ∧ cause = 2 ∧ s.body.boot.phase ≠ .off)) :
    Gives i s fun t => t.hm = s.body.hm ∧ SameBytes s.body t ∧ SameRegsBut s.body t [Reg.wtState.addr, Reg.wtPinStat.addr] ∧
      (cause = 3 → t.power.wakeAt = none) ∧
      (s.body.boot.phase = .drydock → t.boot.phase = (if s.body.boot.rstN = true then .released else .held) ∧
        t.getF .wtState Fld.wtStateWake = cause ∧ t.getF .wtState Fld.wtStateModule = 3 ∧ t.power.wakeAt = none) ∧
      (s.body.boot.phase ∈ [.anchor, .anchorEntry] → t.boot.phase = s.body.boot.phase ∧ t.power.exitPending = true ∧
        t.getF .wtState Fld.wtStateWake =
          if s.body.power.exitPending = true then min cause (s.body.getF .wtState Fld.wtStateWake) else cause) ∧
      (s.body.boot.phase ∉ [.drydock, .anchor, .anchorEntry] → t.boot.phase = s.body.boot.phase ∧ t.reg .wtState = s.body.reg .wtState ∧
        t.power.exitPending = s.body.power.exitPending) ∧
      (cause = 2 → t.flag .wtPinStat Fld.wtPinStatWake = true) := by
  obtain ⟨b, hexec, hcause, hhm, hmem, hboot, hregs, hpending, htimer, hpin⟩ := exec_wakes hi
  have hwakes := woken_wakes b hcause
  have hstate : b.reg .wtState = s.body.reg .wtState := hregs .wtState (by decide)
  refine gives_of_next hexec ⟨hwakes.hm.trans hhm, sameBytes_of_memory (hwakes.memory.trans hmem), fun q _ hq => ?_,
    fun h => hwakes.timer (htimer h), ?_, ?_, ?_, fun h => ?_⟩
  · obtain ⟨hstate, hpin⟩ := List.ne_and_not_mem_of_not_mem_cons hq
    exact (hwakes.regs q hstate).trans (hregs q (List.ne_of_not_mem_cons hpin))
  · rw [← hboot]
    exact hwakes.drydock
  · rw [← hboot, ← hpending, ← getF_of_reg_eq hstate]
    exact hwakes.anchor
  · rw [← hboot, ← hpending, ← hstate]
    exact hwakes.elsewhere
  · exact (flag_of_reg_eq (hwakes.regs .wtPinStat (by decide)) _).trans (hpin h)

end

end Sys2Proof.Machine
end

section
/-! PROOFS. The exit from ANCHOR (R104, R441). -/

namespace Sys2Proof.Machine

/-! ### Every Berth takes a power state -/

/-- The Berths' power states set one after the other. -/
def Body.setPwrs (b : Body) (v : Nat → Nat) : Body := (List.range 200).foldl (fun b g => b.setPwr g (v g)) b

theorem pwr_setPwr_ne (b : Body) {g k : Nat} (h : g ≠ k) (v : Nat) : (b.setPwr g v).pwr k = b.pwr k :=
  Body.getF_setF_ne b _ _ v (by simp only [Reg.addr]; omega)

theorem setPwrs_keep {γ : Type} (p : Body → γ) (h : ∀ (b : Body) r f v, p (b.setF r f v) = p b) (b : Body) (v : Nat → Nat) :
    p (b.setPwrs v) = p b := foldl_keep p _ _ b fun b _ => h b _ _ _

theorem pwr_setPwrs (b : Body) {v : Nat → Nat} (hv : ∀ g, v g < 4) {g : Nat} (hg : g < 200) : (b.setPwrs v).pwr g = v g := by
  obtain ⟨c, -, -, hc⟩ := foldl_at (f := fun b g => b.setPwr g (v g)) (same := fun _ _ => True) (v := Body.pwr) (fun _ => trivial)
    (fun _ _ _ _ _ => trivial) (fun _ _ => trivial) (fun c j k hjk => pwr_setPwr_ne c hjk _) List.nodup_range (List.mem_range.2 hg) b
  exact hc.trans (pwr_setPwr c hg (hv g))

theorem reg_setPwrs (b : Body) (v : Nat → Nat) {q : Reg} (h : ∀ g, g < 200 → q.addr ≠ (Reg.brPwrStat g).addr) : (b.setPwrs v).reg q = b.reg q :=
  foldl_same (same := fun b c : Body => c.reg q = b.reg q) (fun _ => rfl) (fun _ _ _ h g => g.trans h)
    (fun c g hg => Body.reg_setF_ne c _ _ (h g (List.mem_range.1 hg))) b

/-! ### Regions that are ready again -/

/-- The regions of a list are ready. -/
def Body.allReady (b : Body) (rs : List Nat) : Body := rs.foldl (fun b r => b.setReady r true) b

theorem allReady_keep {γ : Type} (p : Body → γ) (h : ∀ (b : Body) r w, p (b.setReg r w) = p b) (b : Body) (rs : List Nat) :
    p (b.allReady rs) = p b := foldl_keep p _ _ b fun b r => setReady_keep p h b r true

theorem reg_allReady_brPwrStat (b : Body) {rs : List Nat} (hrs : ∀ r ∈ rs, r < 1780) (g : Nat) :
    (b.allReady rs).reg (.brPwrStat g) = b.reg (.brPwrStat g) :=
  foldl_same (same := fun b c : Body => c.reg (.brPwrStat g) = b.reg (.brPwrStat g)) (fun _ => rfl) (fun _ _ _ h g => g.trans h) (fun c r hr => by
    have hlt := hrs r hr
    unfold Body.setReady
    by_cases hslice : r < 1600
    · rw [if_pos hslice]
      exact Body.reg_setReg_ne c _ (by simp only [Reg.addr]; omega)
    · rw [if_neg hslice]
      exact Body.reg_setReg_ne c _ (by simp only [Reg.addr]; omega)) b

/-! ### The module in RUN again -/

/-- A Quay of a partition, present, has power again. -/
def Body.powered (b : Body) (g : Nat) : Bool := (partOfQuay b.framing (g / 20)).isSome && decide (g / 20 ∉ b.bw.absent)

/-- The Berths that have power again, and the others. -/
def Body.berthsBack (b : Body) : Body := b.setPwrs fun g => if b.powered g = true then 1 else 3

/-- The regions that have power again. -/
def Body.backOn (b : Body) : List Nat := (List.range 1780).filter fun r => b.regionOn r && b.domainUp r && !b.regionReady r

/-- The module out of ANCHOR, the time it stood there being `t0` on. -/
def Body.running (b : Body) (t0 : Nat) : Body :=
  { b with
    boot.phase := .run, power.exitPending := false, power.wakeAt := none, power.stateCmd := none,
    tiers.scrubStart := b.tiers.scrubStart.map fun (t : Word) => t + (b.ts - BitVec.ofNat 64 t0) }

theorem mem_backOn {b : Body} {r : Nat} (h : r ∈ b.backOn) : r < 1780 := by
  unfold Body.backOn at h
  exact List.mem_range.1 (List.mem_of_mem_filter h)

theorem out_running (b : Body) (t0 : Nat) : (b.running t0).out = b.out := rfl

theorem reg_running (b : Body) (t0 : Nat) (q : Reg) : (b.running t0).reg q = b.reg q := rfl

/-- The exit from ANCHOR, its contexts still to go on. -/
def Body.anchorLeft (b : Body) (t0 : Nat) : Body :=
  (((b.berthsBack.allReady b.berthsBack.backOn).running t0).moduleState 0).readyLevel true

/-- When the module went into ANCHOR. -/
def Body.anchorSince (b : Body) : Nat :=
  match b.power.stateCmd with
  | some fl => fl.progress.headD 0
  | none => b.now

theorem anchorLeft_keep {γ : Type} (p : Body → γ) (hset : ∀ (b : Body) r w, p (b.setReg r w) = p b) (htele : ∀ (b : Body) x, p { b with tele := x } = p b)
    (hsend : ∀ (b : Body) m, p (b.send m) = p b) (hrun : ∀ (b : Body) t0, p (b.running t0) = p b) (b : Body) (t0 : Nat) :
    p (b.anchorLeft t0) = p b := by
  have hsetF : ∀ (b : Body) r f v, p (b.setF r f v) = p b := fun b r f v => hset b r _
  refine (hsend _ _).trans ((moduleState_keep p hsetF (log_keep p htele) _ _).trans ((hrun _ _).trans ?_))
  exact (allReady_keep p hset _ _).trans (setPwrs_keep p hsetF b _)

theorem reg_anchorLeft (b : Body) (t0 : Nat) {q : Reg} (h : q.addr ≠ Reg.wtState.addr) : (b.anchorLeft t0).reg q =
    (b.berthsBack.allReady b.berthsBack.backOn).reg q := by
  rw [Body.anchorLeft, reg_readyLevel, Body.moduleState, reg_log, Body.reg_setF_ne _ _ _ h, reg_running]

theorem pwr_anchorLeft (b : Body) (t0 : Nat) {g : Nat} (hg : g < 200) : (b.anchorLeft t0).pwr g =
    if partOfQuay b.framing (g / 20) ≠ none ∧ g / 20 ∉ b.bw.absent then 1 else 3 := by
  rw [Body.pwr, getF_of_reg_eq (reg_anchorLeft b t0 (by simp only [Reg.addr]; omega)),
    getF_of_reg_eq (reg_allReady_brPwrStat b.berthsBack (rs := b.berthsBack.backOn)
      (fun _ => mem_backOn) g), ← Body.pwr, Body.berthsBack, pwr_setPwrs b (fun k => by split <;> decide) hg]
  simp only [Body.powered, Bool.and_eq_true, Option.isSome_iff_ne_none, decide_eq_true_eq]

theorem module_anchorLeft (b : Body) (t0 : Nat) : (b.anchorLeft t0).getF .wtState Fld.wtStateModule = 0 := by
  rw [Body.anchorLeft, getF_of_reg_eq (reg_readyLevel ..)]
  exact module_moduleState _ (by decide)

theorem out_anchorLeft (b : Body) (t0 : Nat) : (b.anchorLeft t0).out = b.out ++ [{ port := .pin, kind := .readyPin, nums := [1] }] := by
  have hkeep : ((b.berthsBack.allReady b.berthsBack.backOn).running t0).out = b.out := by
    rw [out_running, allReady_keep Body.out Body.setReg_out, Body.berthsBack, setPwrs_keep Body.out Body.setF_out]
  unfold Body.anchorLeft Body.readyLevel Body.send
  dsimp only
  rw [moduleState_keep Body.out Body.setF_out (log_keep Body.out fun _ _ => rfl), hkeep]
  rfl

theorem anchorLeft_runs (b : Body) (t0 : Nat) : (b.anchorLeft t0).boot.phase = .run ∧ (b.anchorLeft t0).power.exitPending = false ∧
    (b.anchorLeft t0).power.wakeAt = none ∧ (b.anchorLeft t0).power.stateCmd = none := by
  have hmodule : ∀ {γ : Type} (p : Body → γ), (∀ (b : Body) r f v, p (b.setF r f v) = p b) → (∀ (b : Body) x, p { b with tele := x } = p b) →
      ∀ c : Body, p (c.moduleState 0) = p c := fun p hset htele c => moduleState_keep p hset (log_keep p htele) c 0
  have hpower : ∀ c : Body, ((c.running t0).moduleState 0).power = (c.running t0).power :=
    fun _ => hmodule Body.power Body.setF_power (fun _ _ => rfl) _
  have hboot : ∀ c : Body, ((c.running t0).moduleState 0).boot = (c.running t0).boot :=
    fun _ => hmodule Body.boot Body.setF_boot (fun _ _ => rfl) _
  unfold Body.anchorLeft Body.readyLevel Body.send
  dsimp only
  rw [hpower, hboot]
  exact ⟨rfl, rfl, rfl, rfl⟩

section
variable {s : State}

theorem anchorExit_stays (h : s.body.boot.phase ≠ .anchor ∨ s.body.power.exitPending = false ∨ s.body.power.holdWatch = true) :
    exec .anchorExit s = .next s := by
  change Host.Outcome.next { s with body := _ } = _
  dsimp only
  rw [if_pos (by simpa using h)]

theorem exec_anchorExit (hphase : s.body.boot.phase = .anchor) (hpending : s.body.power.exitPending = true) (hwatch : s.body.power.holdWatch = false)
    (hslots : ∀ f, s.body.power.stateCmd = some f → f.progress.tail = []) :
    exec .anchorExit s = .next { s with body := s.body.anchorLeft s.body.anchorSince } := by
  change Host.Outcome.next { s with body := _ } = _
  dsimp only
  rw [if_neg (by simp [hphase, hpending, hwatch]), Body.anchorSince]
  unfold Body.anchorLeft Body.berthsBack Body.setPwrs Body.allReady Body.backOn Body.running Body.powered
  cases hcmd : s.body.power.stateCmd with
  | none => rw [List.foldl_nil]
  | some f =>
    dsimp only
    rw [hslots f hcmd, List.foldl_nil]

theorem anchorExit_leaves (hphase : s.body.boot.phase = .anchor) (hpending : s.body.power.exitPending = true) (hwatch : s.body.power.holdWatch = false)
    (hslots : ∀ f, s.body.power.stateCmd = some f → f.progress.tail = []) : Gives .anchorExit s fun t =>
      t.boot.phase = .run ∧ t.power.exitPending = false ∧ t.power.wakeAt = none ∧ t.power.stateCmd = none ∧ t.getF .wtState Fld.wtStateModule = 0 ∧
      (∀ g, g < 200 → t.pwr g = if partOfQuay s.body.framing (g / 20) ≠ none ∧ g / 20 ∉ s.body.bw.absent then 1 else 3) ∧
      SameBytes s.body t ∧ t.hm = s.body.hm ∧ ∃ m, t.out = s.body.out ++ [m] ∧ m.kind = .readyPin ∧ m.nums = [1] := by
  obtain ⟨hrun, hexit, htimer, hcmd⟩ := anchorLeft_runs s.body s.body.anchorSince
  refine gives_of_next (exec_anchorExit hphase hpending hwatch hslots) ⟨hrun, hexit, htimer, hcmd, module_anchorLeft ..,
    fun g hg => pwr_anchorLeft _ _ hg, sameBytes_of_memory ?_, ?_, _, out_anchorLeft .., rfl, rfl⟩
  · exact anchorLeft_keep Body.memory memory_setReg (fun _ _ => rfl) (fun _ _ => rfl) (fun _ _ => rfl) _ _
  · exact anchorLeft_keep Body.hm Body.setReg_hm (fun _ _ => rfl) (fun _ _ => rfl) (fun _ _ => rfl) _ _

end

end Sys2Proof.Machine
end

section
/-! PROOFS. PW_STATE in RUN (R440, R442, R453): the entry into ANCHOR or DRYDOCK begins. -/

namespace Sys2Proof.Machine

/-! ### Completions that are flushed -/

/-- What the count of a completion, its record and the registers of what is in flight leave alone, a flushed slot's completions do. -/
theorem flushSlot_keep {γ : Type} (p : Body → γ) (hended : ∀ (b : Body) l, p { b with hm.ended := l } = p b)
    (hcomplete : ∀ (b : Body) e, p (b.complete e) = p b) (b : Body) (slot : Nat) : p (b.flushSlot slot) = p b := by
  unfold Body.flushSlot
  exact (foldl_keep p _ _ _ hcomplete).trans (hended b _)

theorem power_flushSlot (b : Body) (slot : Nat) : (b.flushSlot slot).power = b.power :=
  flushSlot_keep Body.power (fun _ _ => rfl) Body.complete_power b slot

theorem boot_flushSlot (b : Body) (slot : Nat) : (b.flushSlot slot).boot = b.boot :=
  flushSlot_keep Body.boot (fun _ _ => rfl) Body.complete_boot b slot

theorem flights_flushSlot (b : Body) (slot : Nat) : (b.flushSlot slot).hm.flights = b.hm.flights :=
  flushSlot_keep (fun b => b.hm.flights) (fun _ _ => rfl) (fun b e => by rw [Body.complete_hm]) b slot

theorem wtState_syncIn (b : Body) (wq : Fin 64) (slot : Nat) : (b.syncIn wq slot).reg .wtState = b.reg .wtState := by
  have hptr : (b.setF (.hmWqPtr wq) Fld.hmWqPtrInflight (min 64 (b.inQueue wq))).reg .wtState = b.reg .wtState :=
    Body.reg_setF_ne b _ _ (by simp only [Reg.addr]; omega)
  unfold Body.syncIn
  dsimp only
  split
  · exact (Body.reg_setF_ne _ _ _ (by simp only [Reg.addr]; omega)).trans hptr
  · exact hptr

theorem wtState_complete (b : Body) (e : Ended) : (b.complete e).reg .wtState = b.reg .wtState := by
  rw [complete_eq, wtState_syncIn, reg_recorded unnoted_wtState _ _ (by simp only [Reg.addr]; omega), unnoted_wtState.count]

theorem wtState_flushSlot (b : Body) (slot : Nat) : (b.flushSlot slot).reg .wtState = b.reg .wtState :=
  flushSlot_keep (fun b => b.reg .wtState) (fun _ _ => rfl) wtState_complete b slot

theorem sent_cqPut (b : Body) (n : Nat) (rec : List Byte) {m : Msg} (h : m ∈ b.out) : m ∈ (b.cqPut n rec).out := by
  unfold Body.cqPut
  dsimp only
  split
  · exact h
  · unfold Body.rdmaOut
    split
    · change m ∈ ((Body.send _ _).count _ _ _).out
      rw [Body.count_out]
      exact List.mem_append_left _ h
    · exact h

theorem sent_summary (b : Body) (n : Nat) {m : Msg} (h : m ∈ b.out) : m ∈ (b.summary n).out := by
  unfold Body.summary
  split
  · rw [Body.setReg_out]
    exact sent_cqPut b n _ h
  · exact h

theorem sent_recorded (b : Body) (e : Ended) {m : Msg} (h : m ∈ b.out) : m ∈ (b.recorded e).out := by
  unfold Body.recorded
  split
  · exact h
  · split
    · exact sent_cqPut _ _ _ (sent_summary _ _ h)
    · rw [Body.coalesce_out]
      exact sent_summary _ _ h

theorem sent_complete (b : Body) (e : Ended) {m : Msg} (h : m ∈ b.out) : m ∈ (b.complete e).out := by
  rw [complete_eq, Body.syncIn_out]
  exact sent_recorded _ e (by rwa [Body.count_out])

theorem sent_flushSlot (b : Body) (slot : Nat) {m : Msg} (h : m ∈ b.out) : m ∈ (b.flushSlot slot).out :=
  foldl_inv (fun b : Body => m ∈ b.out) Body.complete _ _ h fun b e hm => sent_complete b e hm

/-! ### The entries -/

/-- A phase begins, READY low, WT_STATE saying that the module is on its way. -/
def Body.underway (b : Body) (ph : Phase) (cmd : Option Flight) : Body :=
  ({ b with boot.phase := ph, power.stateCmd := cmd }.moduleState 3).readyLevel false

theorem underway_keep {γ : Type} (p : Body → γ) (hset : ∀ (b : Body) r f v, p (b.setF r f v) = p b) (htele : ∀ (b : Body) x, p { b with tele := x } = p b)
    (hsend : ∀ (b : Body) m, p (b.send m) = p b) (b : Body) (ph : Phase) (cmd : Option Flight) :
    p (b.underway ph cmd) = p { b with boot.phase := ph, power.stateCmd := cmd } :=
  (hsend _ _).trans (moduleState_keep p hset (log_keep p htele) _ 3)

theorem out_underway (b : Body) (ph : Phase) (cmd : Option Flight) :
    (b.underway ph cmd).out = b.out ++ [{ port := .pin, kind := .readyPin, nums := [0] }] := by
  unfold Body.underway Body.readyLevel Body.send
  dsimp only
  rw [moduleState_keep Body.out Body.setF_out (log_keep Body.out fun _ _ => rfl)]
  rfl

theorem module_underway (b : Body) (ph : Phase) (cmd : Option Flight) : (b.underway ph cmd).getF .wtState Fld.wtStateModule = 3 := by
  rw [Body.underway, getF_of_reg_eq (reg_readyLevel ..)]
  exact module_moduleState _ (by decide)

/-- When the wake timer of a PW_STATE runs out. -/
def Body.wakeTime (b : Body) (ms : Nat) : Option Word := if ms = 0 then none else some (b.ts + BitVec.ofNat 64 (ms * 1000000))

/-- A body whose wake timer runs out after some milliseconds. -/
def Body.timed (b : Body) (ms : Nat) : Body := { b with power.wakeAt := b.wakeTime ms }

section
variable (b : Body) (ms : Nat)

theorem boot_timed : (b.timed ms).boot = b.boot := rfl

theorem power_timed : (b.timed ms).power = { b.power with wakeAt := b.wakeTime ms } := rfl

theorem reg_timed (q : Reg) : (b.timed ms).reg q = b.reg q := rfl

theorem out_timed : (b.timed ms).out = b.out := rfl

end

/-- A body on its way into DRYDOCK, with its wake timer, its PW_STATE still to complete. -/
def Body.docking (b : Body) (fl : Flight) (n ms : Nat) : Body :=
  ((b.clampCmd fl n).underway .drydockEntry (b.clampCmd fl n).power.stateCmd).timed ms

section
variable (b : Body) (fl : Flight) (n ms : Nat)

theorem phase_docking : (b.docking fl n ms).boot.phase = .drydockEntry := by
  rw [Body.docking, boot_timed]
  exact underway_keep (fun b => b.boot.phase) (fun b _ _ _ => by rw [Body.setF_boot]) (fun _ _ => rfl) (fun _ _ => rfl) _ _ _

theorem power_docking : (b.docking fl n ms).power = { b.power with wakeAt := b.wakeTime ms } := by
  rw [Body.docking, power_timed, underway_keep Body.power Body.setF_power (fun _ _ => rfl) (fun _ _ => rfl), Body.wakeTime, Body.wakeTime,
    underway_keep Body.ts Body.setF_ts (fun _ _ => rfl) (fun _ _ => rfl)]
  dsimp only
  rw [Body.clampCmd_ts, Body.clampCmd_power]

theorem module_docking : (b.docking fl n ms).getF .wtState Fld.wtStateModule = 3 := by
  rw [Body.docking, getF_of_reg_eq (reg_timed ..)]
  exact module_underway ..

theorem ready_docking : { port := .pin, kind := .readyPin, nums := [0] } ∈ (b.docking fl n ms).out := by
  rw [Body.docking, out_timed, out_underway]
  exact List.mem_append_right _ (List.mem_singleton_self _)

end

section
variable {s : State} {c : Cmd} {fl : Flight} (hd : Dispatched s.body c 0x7E fl)
include hd

theorem pwStateAnchor_elsewhere (hkind : c.f 1 1 0 = 0) (hnew : fl.progress = []) (hphase : s.body.boot.phase ≠ .run) :
    exec (.pwStateAnchor c) s = .next s := by
  rw [exec_onSub hd (decide_eq_true hkind) (show exec (.pwStateAnchor c) s = _ from rfl)]
  dsimp only
  rw [hnew]
  dsimp only
  rw [if_pos hphase]

theorem exec_pwStateAnchor_begins (hkind : c.f 1 1 0 = 0) (hnew : fl.progress = []) (hphase : s.body.boot.phase = .run)
    (hempty : s.body.resident = []) :
    exec (.pwStateAnchor c) s = .next { s with body := (s.body.underway .anchorEntry (some fl)).keep fl [1] } := by
  rw [exec_onSub hd (decide_eq_true hkind) (show exec (.pwStateAnchor c) s = _ from rfl)]
  dsimp only
  rw [hnew]
  dsimp only
  rw [if_neg (not_not.2 hphase), hempty]
  rfl

theorem pwStateAnchor_begins (hkind : c.f 1 1 0 = 0) (hnew : fl.progress = []) (hphase : s.body.boot.phase = .run) (hempty : s.body.resident = []) :
    Gives (.pwStateAnchor c) s fun t => t.boot.phase = .anchorEntry ∧ t.power = { s.body.power with stateCmd := some fl } ∧
      t.getF .wtState Fld.wtStateModule = 3 ∧ t.hm.ended = s.body.hm.ended ∧ (∃ x ∈ t.hm.flights, x.uid = fl.uid ∧ x.progress = [1]) ∧
      ∃ m, t.out = s.body.out ++ [m] ∧ m.kind = .readyPin ∧ m.nums = [0] := by
  have hhm : (s.body.underway .anchorEntry (some fl)).hm = s.body.hm := underway_keep Body.hm Body.setF_hm (fun _ _ => rfl) (fun _ _ => rfl) _ _ _
  refine gives_of_next (exec_pwStateAnchor_begins hd hkind hnew hphase hempty) ⟨?_, ?_, module_underway .., ?_, ⟨{ fl with progress := [1] }, ?_, rfl, rfl⟩,
    _, out_underway .., rfl, rfl⟩
  · exact underway_keep (fun b => b.boot.phase) (fun b _ _ _ => by rw [Body.setF_boot]) (fun _ _ => rfl) (fun _ _ => rfl) _ _ _
  · exact underway_keep Body.power Body.setF_power (fun _ _ => rfl) (fun _ _ => rfl) _ _ _
  · exact congrArg (·.ended) hhm
  · have hmem : fl ∈ (s.body.underway .anchorEntry (some fl)).hm.flights := by
      rw [hhm]
      exact hd.mem
    exact List.mem_map.2 ⟨fl, hmem, if_pos rfl⟩

theorem pwStateAnchor_awaits (hkind : c.f 1 1 0 = 0) (hbegun : fl.progress ≠ [])
    (h : s.body.boot.phase ≠ .anchorEntry ∨ s.body.anchorReady fl = false) : exec (.pwStateAnchor c) s = .next s := by
  rw [exec_onSub hd (decide_eq_true hkind) (show exec (.pwStateAnchor c) s = _ from rfl)]
  obtain ⟨a, l, hl⟩ := List.exists_cons_of_ne_nil hbegun
  dsimp only
  rw [hl]
  dsimp only
  rw [if_neg]
  rintro ⟨hphase, hready⟩
  exact h.elim (fun h => h hphase) fun h => Bool.false_ne_true (h.symm.trans hready)

theorem pwStateDrydock_elsewhere (hkind : c.f 1 1 0 ≠ 0) (hphase : s.body.boot.phase ≠ .run) : exec (.pwStateDrydock c) s = .next s := by
  rw [exec_onSub hd (decide_eq_true hkind) (show exec (.pwStateDrydock c) s = _ from rfl)]
  dsimp only
  rw [if_pos hphase]

omit hd in
theorem resident_underway (b : Body) (fl : Flight) (n : Nat) (ph : Phase) (cmd : Option Flight) :
    ((b.clampCmd fl n).underway ph cmd).resident = b.resident :=
  resident_congr fun k hk => by
    rw [Body.underway, reg_readyLevel, Body.moduleState, reg_log, Body.reg_setF_ne _ _ _ (by simp only [Reg.addr]; omega)]
    exact (unnoted_hmCtxStat hk).clampCmd b fl n

theorem exec_pwStateDrydock_begins (hkind : c.f 1 1 0 ≠ 0) (hphase : s.body.boot.phase = .run) (hempty : s.body.resident = []) :
    exec (.pwStateDrydock c) s = .next { s with
      body := (((s.body.docking fl (if c.f 1 1 0 > 1 then 1 else 0) (c.f 2 31 0)).done fl).flushSlot fl.slot).flushSlot mgmtSlot } := by
  rw [exec_onSub hd (decide_eq_true hkind) (show exec (.pwStateDrydock c) s = _ from rfl)]
  dsimp only
  rw [if_neg (not_not.2 hphase)]
  have hresident := (resident_underway s.body fl (if c.f 1 1 0 > 1 then 1 else 0) .drydockEntry
    (s.body.clampCmd fl (if c.f 1 1 0 > 1 then 1 else 0)).power.stateCmd).trans hempty
  unfold Body.underway at hresident
  rw [hresident, List.foldl_nil]
  rfl

theorem pwStateDrydock_begins (hkind : c.f 1 1 0 ≠ 0) (hphase : s.body.boot.phase = .run) (hempty : s.body.resident = []) :
    Gives (.pwStateDrydock c) s fun t => t.boot.phase = .drydockEntry ∧ t.power = { s.body.power with wakeAt := s.body.wakeTime (c.f 2 31 0) } ∧
      t.getF .wtState Fld.wtStateModule = 3 ∧ (∀ x ∈ t.hm.flights, x.uid ≠ fl.uid) ∧ ∃ m ∈ t.out, m.kind = .readyPin ∧ m.nums = [0] := by
  refine gives_of_next (exec_pwStateDrydock_begins hd hkind hphase hempty) ?_
  generalize (if c.f 1 1 0 > 1 then 1 else 0) = n
  refine ⟨?_, ?_, ?_, ?_, { port := .pin, kind := .readyPin, nums := [0] }, ?_, rfl, rfl⟩
  · rw [boot_flushSlot, boot_flushSlot, Body.done_boot]
    exact phase_docking ..
  · rw [power_flushSlot, power_flushSlot, Body.done_power]
    exact power_docking ..
  · rw [getF_of_reg_eq (wtState_flushSlot ..), getF_of_reg_eq (wtState_flushSlot ..), getF_of_reg_eq (unnoted_wtState.done ..)]
    exact module_docking ..
  · intro x hx
    rw [flights_flushSlot, flights_flushSlot, Body.done_flights] at hx
    exact of_decide_eq_true (List.mem_filter.1 hx).2
  · refine sent_flushSlot _ _ (sent_flushSlot _ _ ?_)
    rw [Body.done_out]
    exact ready_docking ..

end

end Sys2Proof.Machine
end

section
/-! PROOFS. Into ANCHOR (R224, R440): every command has stopped, and the Quays lose power. -/

namespace Sys2Proof.Machine

/-! ### What ANCHOR loses leaves the time as it is -/

section
variable (b : Body)

theorem ts_store (a : Nat) (data : List Byte) : (b.store a data).ts = b.ts :=
  store_keep_apart Body.ts (fun _ _ => rfl) (fun _ _ => rfl) (fun b _ => Body.bump_ts b _ _ _) (fun b _ _ => Body.setF_ts b _ _ _)
    (fun b _ _ _ _ _ => Body.err_ts b _ _ _ _ _ _ _) b a data

theorem ts_storeMapBit (base i : Nat) (v : Bool) : (b.storeMapBit base i v).ts = b.ts := by
  have hbit : ∀ (b : Body) i v, (b.setMapBit base i v).ts = b.ts := fun b i v => Body.setByte_ts ..
  have hmark : ∀ (b : Body) m i, (b.markGranule m i).ts = b.ts := fun b m i => by
    unfold Body.markGranule
    split
    · rfl
    · rw [Body.bump_ts]
      exact Body.setByte_ts ..
  unfold Body.storeMapBit Body.markMirrors
  split
  · exact hbit b i v
  · refine (foldl_keep Body.ts _ _ _ fun c m => ?_).trans (hbit b i v)
    dsimp only
    split
    · rfl
    · exact foldl_keep Body.ts _ _ c fun c j => hmark c m _

theorem ts_syncPool (k : Nat) : (b.syncPool k).ts = b.ts := Body.syncPool_keep Body.ts (fun b w => Body.setReg_ts b _ w) b

theorem ts_releaseSlot (m : CrateMap) (a : Nat) : (b.releaseSlot m a).ts = b.ts := by
  unfold Body.releaseSlot
  split
  · rfl
  · split
    · rfl
    · dsimp only
      rw [ts_syncPool]
      split
      · exact ts_storeMapBit b _ _ _
      · exact ts_storeMapBit b _ _ _

theorem ts_anchorTail (m : CrateMap) (i : Nat) (gone : Nat → Bool) : (b.anchorTail m i gone).ts = b.ts := by
  have hwhole : ∀ (b : Body) n e r, (if n < m.nc then (b.setStreamRec m i r).setCrateEnt m i n e else b.setStreamRec m i r).ts = b.ts :=
    fun b n e r => by
      split
      · exact (ts_store _ _ _).trans (ts_store b _ _)
      · exact ts_store b _ _
  unfold Body.anchorTail
  dsimp only
  split
  · rfl
  · split
    · split
      · split
        · refine (ts_store _ _ _).trans ((ts_store _ _ _).trans ((ts_syncPool _ _).trans ((ts_storeMapBit _ _ _ _).trans (ts_releaseSlot b _ _))))
        · exact (hwhole _ _ _ _).trans (ts_releaseSlot b _ _)
      · exact (hwhole _ _ _ _).trans (ts_releaseSlot b _ _)
    · exact (hwhole _ _ _ _).trans (ts_releaseSlot b _ _)

theorem ts_anchorCrates (gone : Nat → Bool) : (b.anchorCrates gone).ts = b.ts :=
  foldl_keep Body.ts _ _ b fun b p => foldl_keep Body.ts _ _ b fun b i => by
    refine (ts_anchorTail _ _ _ _).trans (foldl_keep Body.ts _ _ b fun b n => ?_)
    dsimp only
    split
    · exact (ts_releaseSlot _ _ _).trans (ts_store b _ _)
    · rfl

theorem ts_regionCut (r : Nat) : (b.regionCut r).ts = b.ts :=
  regionCut_keep Body.ts Body.setReg_ts (fun _ _ => rfl) (fun _ _ => rfl) b r

theorem ts_ripplesLost (rs : List Nat) : (b.ripplesLost rs).ts = b.ts := foldl_keep Body.ts _ _ b fun _ _ => rfl

theorem ts_resetReg (k : Keep) (r : Reg) : (b.resetReg k r).ts = b.ts := resetReg_keep Body.ts Body.setF_ts k b r

theorem ts_layupNow (g : Nat) : (b.layupNow g).ts = b.ts := by
  have hregs : ∀ b : Body, ((berthRegs g).foldl (Body.resetReg .layup) b).ts = b.ts := fun b =>
    foldl_keep Body.ts _ _ b fun b r => ts_resetReg b .layup r
  have hcuts : ∀ b : Body, ((List.range 8).foldl (fun b i => b.regionCut (8 * g + i)) b).ts = b.ts := fun b =>
    foldl_keep Body.ts _ _ b fun b i => ts_regionCut b _
  have hbench : ∀ b : Body, ((b.benchLose g).loseRegion (2000 + g)).ts = b.ts := fun b => Body.setF_ts ..
  unfold Body.layupNow
  dsimp only
  rw [Body.setPwr_ts, hregs, ts_ripplesLost, hbench, hcuts]
  dsimp only
  split
  · exact dissolveRaft_keep Body.ts (fun b _ _ _ _ => Body.setF_ts b _ _ _) (fun _ _ => rfl) b _
  · rfl

end

/-! ### The parts of the entry -/

/-- The Shed segments that keep power in ANCHOR. -/
def Body.segsKept (b : Body) : List Nat := ((List.range 180).map (1600 + ·)).filter b.retained

/-- What lies in a Hold or in a Shed segment that loses power. -/
def Body.goneIn (b : Body) (a : Nat) : Bool := decide (regionOf a < 1780) && decide (regionOf a ∉ b.segsKept)

/-- The Berths with power are laid up, and the segments of a list lose power. -/
def Body.quaysDown (b : Body) (segs : List Nat) : Body :=
  segs.foldl Body.regionCut (((List.range 200).filter fun g => decide (b.pwr g ≠ 3)).foldl Body.layupNow b)

/-- Every register is as in ANCHOR. -/
def Body.regsDown (b : Body) : Body :=
  fiRegs.foldl (Body.resetReg .anchor) (b.regs.foldl (fun b p => b.resetAt .anchor p.1) b)

/-- The Shed segments of a list are on and ready. -/
def Body.segsOn (b : Body) (keep : List Nat) : Body :=
  (List.range 10).foldl (fun b q =>
    let v := (((List.range 18).filter fun i => decide (1600 + 18 * q + i ∈ keep)).map fun i => 2 ^ i).sum
    (b.setF (.qyShedPwr q) Fld.qyShedPwrSegOn (b.getF (.qyShedPwr q) Fld.qyShedPwrSegOn ||| v)).setF (.qyShedPwr q) Fld.qyShedPwrSegReady v) b

/-- Crates, Quays and registers have lost what ANCHOR does not keep. -/
def Body.anchorCut (b : Body) : Body :=
  ((((b.anchorCrates b.goneIn).quaysDown (((List.range 180).map (1600 + ·)).filter fun r => decide (r ∉ b.segsKept))).regsDown).segsOn
    b.segsKept)

/-- The module stands in ANCHOR, its PW_STATE still to complete. -/
def Body.anchored (b : Body) (fl : Flight) (slots : List Nat) : Body :=
  { b with
    tele.logs := b.tele.logs.filter (fun p => decide (p.1 / 65536 ≥ 2)), st.frameCtr := [], tiers.pageBuf := [], power.berths := [],
    power.wakeAt := b.wakeTime (fl.cmd.f 2 31 0), power.stateCmd := some { fl with progress := b.now :: slots }, boot.phase := .anchor }

/-- The entry in its parts, each of which the proof names and then holds fixed. -/
theorem anchorDown_eq (b : Body) (fl : Flight) (slots : List Nat) : b.anchorDown fl slots =
    ((((List.range 10).foldl Body.setClock (((b.anchorCut.setPwrs fun _ => 3).ripplesLost [800, 801]).anchored fl slots)).moduleState
      1).dropHalting fl.uid).done fl := by
  unfold Body.anchorDown
  lift_lets
  extract_lets segs keep gone crates down cut regs reset fi on off dead ms _ _ _ _ _ last
  have hlast : last = (dead.anchored fl slots) := rfl
  clear_value last
  have hdead : dead = off.ripplesLost [800, 801] := rfl
  clear_value dead
  have hoff : off = on.setPwrs fun _ => 3 := rfl
  clear_value off
  have hon : on = fi.segsOn keep := rfl
  clear_value on
  have hfi : fi = cut.regsDown := rfl
  clear_value fi
  have hcut : cut = crates.quaysDown (segs.filter fun r => decide (r ∉ keep)) := rfl
  clear_value cut
  have hcrates : crates = b.anchorCrates b.goneIn := rfl
  clear_value crates
  have hkeep : keep = b.segsKept := rfl
  clear_value keep
  rw [hlast, hdead, hoff, hon, hfi, hcut, hcrates, hkeep, Body.anchorCut]

theorem ts_anchorCut (b : Body) : b.anchorCut.ts = b.ts := by
  have hon : ∀ (b : Body) keep, (b.segsOn keep).ts = b.ts := fun b keep => foldl_keep Body.ts _ _ b fun b q => by
    rw [Body.setF_ts, Body.setF_ts]
  have hregs : ∀ b : Body, b.regsDown.ts = b.ts := fun b =>
    (foldl_keep Body.ts _ _ _ fun b r => ts_resetReg b .anchor r).trans (foldl_keep Body.ts _ _ b fun b p => resetAt_keep Body.ts Body.setF_ts .anchor b p.1)
  have hquays : ∀ (b : Body) segs, (b.quaysDown segs).ts = b.ts := fun b segs =>
    (foldl_keep Body.ts _ _ _ ts_regionCut).trans (foldl_keep Body.ts _ _ b ts_layupNow)
  rw [Body.anchorCut, hon, hregs, hquays, ts_anchorCrates]

/-! ### In ANCHOR -/

/-- The module in ANCHOR before its clocks and its state follow. -/
def Body.anchorLow (b : Body) (fl : Flight) (slots : List Nat) : Body :=
  ((b.anchorCut.setPwrs fun _ => 3).ripplesLost [800, 801]).anchored fl slots

/-- The module in ANCHOR before its PW_STATE completes. -/
def Body.anchorStill (b : Body) (fl : Flight) (slots : List Nat) : Body :=
  (((List.range 10).foldl Body.setClock (b.anchorLow fl slots)).moduleState 1).dropHalting fl.uid

theorem anchorDown_done (b : Body) (fl : Flight) (slots : List Nat) : b.anchorDown fl slots = (b.anchorStill fl slots).done fl := by
  rw [anchorDown_eq, Body.anchorStill, Body.anchorLow]

theorem anchorStill_keep {γ : Type} (p : Body → γ) (hset : ∀ (b : Body) r f v, p (b.setF r f v) = p b) (htele : ∀ (b : Body) x, p { b with tele := x } = p b)
    (hfree : ∀ (b : Body) n, p { b with freeCtr := n } = p b) (hdrop : ∀ (b : Body) uid, p (b.dropHalting uid) = p b) (b : Body) (fl : Flight)
    (slots : List Nat) : p (b.anchorStill fl slots) = p (b.anchorLow fl slots) := by
  rw [Body.anchorStill, hdrop, moduleState_keep p hset (log_keep p htele)]
  exact foldl_keep p _ _ _ fun b q => setClock_keep p (fun b _ => hset b _) htele hfree b q

section
variable (b : Body) (fl : Flight) (slots : List Nat)

theorem power_anchorLow : (b.anchorLow fl slots).power.wakeAt = b.wakeTime (fl.cmd.f 2 31 0) := by
  have hts : ((b.anchorCut.setPwrs fun _ => 3).ripplesLost [800, 801]).ts = b.ts := by
    rw [ts_ripplesLost, setPwrs_keep Body.ts Body.setF_ts, ts_anchorCut]
  have htime : (b.anchorLow fl slots).power.wakeAt =
      ((b.anchorCut.setPwrs fun _ => 3).ripplesLost [800, 801]).wakeTime (fl.cmd.f 2 31 0) := by
    unfold Body.anchorLow Body.anchored
    dsimp only
  rw [htime, Body.wakeTime, Body.wakeTime, hts]

theorem phase_anchorLow : (b.anchorLow fl slots).boot.phase = .anchor := by
  unfold Body.anchorLow Body.anchored
  dsimp only

theorem reg_anchored (q : Reg) : (b.anchored fl slots).reg q = b.reg q := rfl

theorem reg_ripplesLost (rs : List Nat) (q : Reg) : (b.ripplesLost rs).reg q = b.reg q :=
  foldl_keep (fun b : Body => b.reg q) _ _ b fun _ _ => rfl

theorem pwr_anchorLow {g : Nat} (hg : g < 200) : (b.anchorLow fl slots).pwr g = 3 := by
  rw [Body.anchorLow, Body.pwr, getF_of_reg_eq (reg_anchored ..), getF_of_reg_eq (reg_ripplesLost ..), ← Body.pwr]
  exact pwr_setPwrs b.anchorCut (v := fun _ => 3) (fun _ => by decide) hg

theorem reg_anchorStill {q : Reg} (hclock : ∀ k, k < 10 → q.addr ≠ (Reg.wtQuayClk k).addr) (hstate : q.addr ≠ Reg.wtState.addr) :
    (b.anchorStill fl slots).reg q = (b.anchorLow fl slots).reg q := by
  rw [Body.anchorStill, reg_dropHalting, Body.moduleState, reg_log, Body.reg_setF_ne _ _ _ hstate]
  exact foldl_same (same := fun b c : Body => c.reg q = b.reg q) (fun _ => rfl) (fun _ _ _ h g => g.trans h)
    (fun c k hk => reg_setClock_ne c k (hclock k (List.mem_range.1 hk))) _

theorem module_anchorStill : (b.anchorStill fl slots).getF .wtState Fld.wtStateModule = 1 := by
  rw [Body.anchorStill, getF_of_reg_eq (reg_dropHalting ..)]
  exact module_moduleState _ (by decide)

/-- The module in ANCHOR, its PW_STATE complete. -/
theorem anchorDown_anchors : (b.anchorDown fl slots).boot.phase = .anchor ∧ (b.anchorDown fl slots).getF .wtState Fld.wtStateModule = 1 ∧
    (b.anchorDown fl slots).power.wakeAt = b.wakeTime (fl.cmd.f 2 31 0) ∧ (∀ g, g < 200 → (b.anchorDown fl slots).pwr g = 3) ∧
    ∃ e ∈ (b.anchorDown fl slots).hm.ended, e.fl.uid = fl.uid ∧ e.status = 0 := by
  rw [anchorDown_done]
  refine ⟨?_, ?_, ?_, fun g hg => ?_, ?_⟩
  · rw [Body.done_boot, ← phase_anchorLow b fl slots]
    exact anchorStill_keep (fun b => b.boot.phase) (fun b _ _ _ => by rw [Body.setF_boot]) (fun _ _ => rfl) (fun _ _ => rfl) (fun _ _ => rfl) ..
  · rw [getF_of_reg_eq (unnoted_wtState.done ..)]
    exact module_anchorStill ..
  · rw [Body.done_power, ← power_anchorLow b fl slots]
    exact anchorStill_keep (fun b => b.power.wakeAt) (fun b _ _ _ => by rw [Body.setF_power]) (fun _ _ => rfl) (fun _ _ => rfl) (fun _ _ => rfl) ..
  · rw [Body.pwr, getF_of_reg_eq ((unnoted_brPwrStat hg).done ..),
      getF_of_reg_eq (reg_anchorStill b fl slots (fun k _ => by simp only [Reg.addr]; omega) (by simp only [Reg.addr]; omega)), ← Body.pwr]
    exact pwr_anchorLow b fl slots hg
  · obtain ⟨⟨e, hended, huid, -, hst, -⟩, -⟩ := Body.endsWith_done (b := b.anchorStill fl slots) fl 0 rfl
    exact ⟨e, by rw [hended]; exact List.mem_append_right _ (List.mem_singleton_self e), huid, hst⟩

end

theorem pwStateAnchor_anchors {s : State} {c : Cmd} {fl : Flight} (hd : Dispatched s.body c 0x7E fl) (hkind : c.f 1 1 0 = 0) (hbegun : fl.progress ≠ [])
    (hcmd : fl.cmd = c) (hphase : s.body.boot.phase = .anchorEntry) (hready : s.body.anchorReady fl = true) :
    Gives (.pwStateAnchor c) s fun t => t.boot.phase = .anchor ∧ t.getF .wtState Fld.wtStateModule = 1 ∧
      t.power.wakeAt = s.body.wakeTime (c.f 2 31 0) ∧ (∀ g, g < 200 → t.pwr g = 3) ∧ ∃ e ∈ t.hm.ended, e.fl.uid = fl.uid ∧ e.status = 0 := by
  obtain ⟨a, slots, hl⟩ := List.exists_cons_of_ne_nil hbegun
  have hexec : exec (.pwStateAnchor c) s = .next { s with body := s.body.anchorDown fl slots } := by
    rw [exec_onSub hd (decide_eq_true hkind) (show exec (.pwStateAnchor c) s = _ from rfl)]
    dsimp only
    rw [hl]
    dsimp only
    rw [if_pos ⟨hphase, hready⟩]
  have hanchors := anchorDown_anchors s.body fl slots
  rw [hcmd] at hanchors
  exact gives_of_next hexec hanchors

end Sys2Proof.Machine
end

section
/-! PROOFS. Berths, and the module's states (R432-R453): the obligation. -/

namespace Sys2Proof.Machine

theorem Drydocked.shows {b t : Body} {wake : Option Word} {trip : Nat} (h : Drydocked b t wake trip) : t.boot.phase = .drydock ∧
    t.power.wakeAt = wake ∧ t.getF .wtState Fld.wtStateModule = 2 ∧ t.getF .wtState Fld.wtStateTrip = trip ∧ t.hm.flights = [] ∧ t.hm.ended = [] ∧
    t.framing = [] ∧ t.ts = b.ts := ⟨h.phase, h.wake, h.module, h.trip, h.flights, h.ended, h.framing, h.ts⟩

/-- A power-off or a trip ends in DRYDOCK. -/
theorem docks_shows {s : State} {i : Instr} {wake : Option Word} {trip : Nat}
    (hi : (i = .drydockPowerOff ∧ wake = s.body.power.wakeAt ∧ s.body.boot.phase = .drydockEntry ∧ trip = s.body.getF .wtState Fld.wtStateTrip) ∨
      ((∃ d temp, i = .thermalTrip d temp ∧ 120 < temp ∧ s.body.boot.phase ≠ .off ∧ s.body.boot.phase ≠ .drydock) ∧ wake = none ∧ trip = 1) ∨
      ((i = .refclkAbsentTimeout ∧ s.body.power.refclk = false ∧ s.body.boot.phase ∈ [.run, .anchorEntry, .anchor]) ∧ wake = none ∧ trip = 1)) :
    Gives i s fun t => t.boot.phase = .drydock ∧ t.power.wakeAt = wake ∧ t.getF .wtState Fld.wtStateModule = 2 ∧
      t.getF .wtState Fld.wtStateTrip = trip ∧ t.hm.flights = [] ∧ t.hm.ended = [] ∧ t.framing = [] ∧ t.ts = s.body.ts := by
  have hdocks : Gives i s fun t => Drydocked s.body t wake trip := by
    obtain ⟨rfl, rfl, hphase, rfl⟩ | ⟨⟨die, temp, rfl, hhot, hoff, hdry⟩, rfl, rfl⟩ | ⟨⟨rfl, hclk, hphase⟩, rfl, rfl⟩ := hi
    · exact drydockPowerOff_docks hphase
    · exact thermalTrip_docks die hhot hoff hdry
    · exact refclkAbsentTimeout_docks hclk hphase
  obtain ⟨t, hexec, hfuse, hdocked⟩ := hdocks
  exact ⟨t, hexec, hfuse, hdocked.shows⟩

/-- Settles O57: of a PW_BERTH only the Berths that have not reached its goal wait; a transition's end moves one Berth and serves those
that waited for it; ANCHOR lays every Berth up before its state and its timer are set; DRYDOCK keeps WT_STATE whole. -/
theorem berthsAndModuleStates : Obligations.BerthsAndModuleStates := by
  unfold Obligations.BerthsAndModuleStates
  rintro s _ _ _ rfl rfl rfl
  refine ⟨fun c fl qs gs op hqs hgs hop hd => ⟨fun i hi habsent => pwBerth_refused hqs hop hd hi habsent, fun hin => ⟨fun hset =>
    pwBerthSetIdle_sets hqs hgs hop hd hin hset, fun i goal left hi hleft => ⟨pwBerth_done hqs hgs hop hd hin hi hleft,
    pwBerth_waits hqs hgs hop hd hin hi hleft⟩⟩⟩, fun g => ⟨berthMoorIdle_stays, berthMoorIdle_begins, transition_wakes, fun n htarget hn =>
    ⟨transition_moors htarget hn, transition_ends htarget hn⟩, transition_serves_none, fun x r hnone hwaits hmem =>
    ⟨transition_serves_moor hnone hwaits hmem, transition_serves_held hnone hwaits hmem, transition_serves_layup hnone hwaits hmem⟩⟩, ?_,
    drydockPowerOff_elsewhere, fun i wake trip => docks_shows, fun d temp => thermalTrip_cool d, refclkAbsentTimeout_elsewhere, anchorExit_stays,
    anchorExit_leaves, wakeTimer_none, wakePin_off, fun i cause => cause_wakes⟩
  rintro c fl _ rfl hd
  exact ⟨fun hkind => ⟨pwStateAnchor_elsewhere hd hkind, pwStateAnchor_begins hd hkind, pwStateAnchor_awaits hd hkind, pwStateAnchor_anchors hd hkind⟩,
    fun hkind => ⟨pwStateDrydock_elsewhere hd hkind, pwStateDrydock_begins hd hkind⟩⟩

end Sys2Proof.Machine
end
